-- ==== Sys2Proof/Word.lean ====
section
/-! DEFINITION. The word types of the model and nothing more: a register word (R5), a byte of
memory, an instant in fine ticks of 62.5 ps (R2). -/

namespace Sys2Proof

/-- A 32-bit register or memory word (R5). -/
abbrev Word := BitVec 32
/-- A 64-bit register, two words with the low word at the lower offset (R5). -/
abbrev DWord := BitVec 64
/-- One byte of an on-chip memory. -/
abbrev Byte := BitVec 8
/-- An instant or a duration in fine ticks of 62.5 ps, the unit of the GTC (R2, R53). -/
abbrev Time := Nat

end Sys2Proof
end

