-- ==== Sys2Proof/Machine/Types/Base.lean ====
section
/-! DEFINITION. The masters of the register map (R36) and the hidden state of a register page
(R38 to R50). -/

namespace Sys2Proof

/-- The masters of the register map (R36). -/
inductive Master
  | host | spi | mw0 | mw1 | mw2 | mw3 | debug
deriving DecidableEq, Repr, Inhabited

/-- The code of a master in `SYS.MAP_ERR.MASTER` and `PG_LOCK.OWNER`. -/
def Master.code : Master → Nat
  | .host => 0 | .spi => 1 | .mw0 => 2 | .mw1 => 3 | .mw2 => 4 | .mw3 => 5 | .debug => 6

namespace Machine

/-- One staged register write (R44): the register's offset in its page, the value, and the instant
from which the staging cutoffs count. -/
structure Staged where
  off  : Nat
  val  : Word
  from_ : Time
deriving DecidableEq, Repr, Inhabited

/-- The hidden state of one register page. -/
structure PageSt where
  /-- open unlock sequence: the master and the instant of its first key (R41) -/
  keySeq : Option (Master × Time) := none
  /-- the later of the unlock and the owner's last RW-L write (R42) -/
  lockFrom : Time := 0
  /-- the captured words while FREEZE = 1 (R39) -/
  snap : List (Nat × Word) := []
  /-- read-holding register: master, offset of the low word, captured high word (R48) -/
  rdHold : Option (Master × Nat × Word) := none
  /-- write-holding register: master, offset of the low word, held low word (R49) -/
  wrHold : Option (Master × Nat × Word) := none
  /-- staged register writes, oldest first (R44) -/
  staged : List Staged := []
  /-- the instant an accepted soft reset began (R38) -/
  resetAt : Option Time := none
  /-- the TCLK edge at which the block last set bits of `PG_IRQ`, and those bits (R40) -/
  irqAt : Nat × Nat := (0, 0)
deriving DecidableEq, Repr, Inhabited

/-- The per-master selectors (R349 and the pages that refer to it). -/
structure Selectors where
  lsel : Nat := 0
  tsel : Nat := 0
  ltsel : Nat := 0
  smsel : Nat := 0
  csel : Nat := 0
  txsel : List (Nat × Nat) := []
deriving DecidableEq, Repr, Inhabited

end Machine
end Sys2Proof
end

