-- ==== Sys2Proof/Machine/Types/Bist.lean ====
section
/-! DEFINITION. The hidden state of the BIST engine and the repair table (chapter 21). -/

namespace Sys2Proof

/-- A failing bit (R544, R548): the memory, the word address or period index, and the bit or output. -/
structure BistBit where
  mem : Nat
  addr : Nat
  bit : Nat
deriving DecidableEq, Repr, Inhabited

/-- What a run of the BIST engine finds (R543, R544): its first eight failing bits in order of detection, how many bits
failed, the lowest and highest VCORE sample in mV, and the largest clock deviation in units of 0.01 %. -/
structure BistResult where
  bits : List BistBit
  count : Nat
  vLow : Nat
  vHigh : Nat
  dev : Int
deriving DecidableEq, Repr, Inhabited

namespace Machine

/-- An entry of the repair table (R545): type, instance, memory, block, row or column, and its index. -/
structure RepEntry where
  ty : Nat
  inst : Nat
  mem : Nat
  block : Nat
  row : Bool
  idx : Nat
deriving DecidableEq, Repr, Inhabited

/-- A recorded failure with the spare proposed for it (R544). -/
structure BistFail where
  bit : BistBit
  spare : Option RepEntry
  covered : Bool
deriving DecidableEq, Repr, Inhabited

/-- A run in progress (R539, R540). -/
structure BistRun where
  kind : Nat
  inst : Nat
  sel : Nat
  inject : Bool
deriving DecidableEq, Repr, Inhabited

/-- The BIST engine. `STAT` and the failure words are registers. -/
structure BistSt where
  run : Option BistRun := none
  fails : List BistFail := []
  /-- the repair table, oldest first -/
  table : List RepEntry := []
  /-- Stone cores whose EN a failed start-up test holds at 0, and millwrights whose GO it refuses, as masks (R547) -/
  heldOff : Nat := 0
  noGo : Nat := 0
deriving DecidableEq, Repr, Inhabited

end Machine
end Sys2Proof
end

