-- ==== Sys2Proof/Machine/Types/Power.lean ====
section
/-! DEFINITION. The device states of R27 and the power, reset and backup domain (chapter 20). -/

namespace Sys2Proof

/-- What the configuration image holds, as power-up step P4 reads it (R52, R455, R510, R516): whether the image is good
or fails its CRC, the register words it restores, whether it enables the start-up BIST, the boot record of the pair (its
words by byte offset in the island memories, and ENTRY; none when it is absent or bad), whether that record fails its
CRC, and the boot records of the millwrights (millwright, ENTRY, words by byte offset in its window) with their check. -/
structure Boot where
  ok : Bool
  crcErr : Bool
  regs : List (Nat × Word)
  bist : Bool
  pair : Option (Nat × List (Nat × Word))
  pairCrcErr : Bool
  mws : List (Nat × Nat × List (Nat × Word))
  mwErr : Bool
deriving DecidableEq, Repr, Inhabited

/-- What completes a power-up step (R516, R547): the step itself, the image that P4 has read, or the outcome of the
start-up BIST: order number of each target that failed unrepaired, with its instance; the spares that AUTO_REPAIR wrote
to the repair table; and the failing bits that stay, each with the kind and the instance of its run. -/
inductive UpStep
  | done
  | image (b : Boot)
  | tested (fails : List (Nat × Nat)) (repairs : List Machine.RepEntry) (bits : List (Nat × Nat × BistBit))
deriving DecidableEq, Repr

namespace Machine

/-- The device states of R27. -/
inductive DevState | off | watch | standby | ready | run | safe
deriving DecidableEq, Repr, Inhabited

/-- The encoding of `SYS.DEV_STATE.STATE` (R31). -/
def DevState.code : DevState → Nat
  | .off => 0 | .watch => 1 | .standby => 2 | .ready => 3 | .run => 4 | .safe => 5

/-- A configuration-store transaction (R526): its words from `addr` on, when it began, whether its commit record is
spoiled, and the repair entry it writes. -/
structure CfsTxn where
  addr : Nat
  words : List Word
  at_ : Time
  bad : Bool
  repair : Option RepEntry
deriving DecidableEq, Repr, Inhabited

/-- The power and backup domain outside its registers (chapter 20). -/
structure PwrSt where
  /-- sequence of the latest fault record, and whether it has been acknowledged (R531, R532) -/
  frecSeq : Nat := 0
  frecAck : Bool := true
  /-- power-up step in progress, 6 after release; the supply group that ramps at P2; when the power-up began -/
  step : Nat := 6
  group : Nat := 0
  upAt : Time := 0
  /-- filtered level of `PWR_EN`; a rise that waits for the end of a power-down (R518) -/
  pwrEn : Bool := true
  rise : Bool := false
  /-- filtered level of `nRST`; the instant of its filtered fall; `SYS.CLK_MON` then; a long reset already counted -/
  nrst : Bool := true
  fallAt : Time := 0
  fallClk : Word := 0
  longSeen : Bool := false
  longPost : Bool := false
  /-- the power-down step that comes next, 0 for none; after a brown-out (R515, R519) -/
  down : Nat := 0
  brown : Bool := false
  /-- the power-up was started by `nRST`; the journal was replayed; the start-up BIST ran (R535) -/
  byReset : Bool := false
  replayed : Nat := 0
  tested : Bool := false
  /-- the image that P4 read, and the targets that failed the start-up BIST -/
  boot : Option Boot := none
  fails : List (Nat × Nat) := []
  failBits : List (Nat × Nat × BistBit) := []
  /-- the saved GTC with the RTC at the save; none when the backup domain was lost (R54, R519) -/
  saved : Option (Nat × Nat) := none
  /-- the RTC in 2^-15 s at an instant in quarters of a fine tick; a set that waits for its BCLK edge (R530) -/
  rtc : Nat := 0
  rtcAt : Nat := 0
  rtcNext : Option (Nat × Nat) := none
  xtal : Bool := true
  /-- the charger's latest try, and a cell that has returned and awaits its first gauge test (R533, R534) -/
  tryAt : Time := 0
  back : Bool := false
  gaugeAt : Time := 0
  cfs : Option CfsTxn := none
deriving DecidableEq, Repr, Inhabited

/-- The device state and what it follows. -/
structure DevSt where
  st : DevState := .ready
  /-- the Brakewheel's device-wide hold is present (R27) -/
  hold : Bool := false
  /-- the instant a time-base fault stopped every counter and release (R523) -/
  tbFault : Option Time := none
  /-- PLL_C is lost and has not locked again (R524) -/
  pllcDown : Bool := false
  /-- step D1 of a power-down has turned every output off (R519) -/
  outsOff : Bool := false
  /-- GTC at the latest release from STANDBY (R54) -/
  rel : Time := 0
deriving DecidableEq, Repr, Inhabited

end Machine
end Sys2Proof
end

