-- ==== Sys2Proof/Syntax.lean ====
section
/-! DEFINITION. The commands of the block: one constructor for each row of the command table. The
first operand `t` of every command is the instant at which it reaches the block, in fine ticks on the
scale of the GTC (assumption log 1). -/

namespace Sys2Proof

open Sys2Proof.Machine


/-- The PLLs that `SYS.CLK_MON` watches (R24): T, A and C, the SerDes of a port, and PCIe. -/
inductive Pll
  | t | a | c | serdes (port : Fin 4) | pcie
deriving DecidableEq, Repr, Inhabited

/-- The width of a register or memory access in bytes (R35). -/
inductive Width
  | b8 | b16 | b32 | b64
deriving DecidableEq, Repr, Inhabited

/-- The number of bytes of an access. -/
def Width.bytes : Width → Nat
  | .b8 => 1 | .b16 => 2 | .b32 => 4 | .b64 => 8


/-- A pin that is a trip source (R154): a `TRIP_IN` pin, or FLTA or FLTB of a slot. -/
inductive TripPin
  | tin (j : Fin 4) | flta (n : Fin 48) | fltb (n : Fin 48)
deriving DecidableEq, Repr


/-- A CAN frame (R405): the identifier word in the layout of record word 2, DLC, BRS, ESI and the data bytes. -/
structure CanFrame where
  id : Word
  dlc : Fin 16
  brs : Bool
  esi : Bool
  data : List Byte
deriving DecidableEq, Repr

/-- How a CAN transmit attempt ends (R410): sent, with its start-of-frame stamp and the sample point of its last
arbitration bit; arbitration lost; or an error of a type of R414, with what ISO 11898-1 needs for its counters:
an exempted error, and the number of further steps of 8 (assumption log 77), and whether the frame had got as far as its
CRC field (R416). -/
inductive CanEnd
  | sent (sof arb : Time)
  | lost
  | error (type : Fin 5) (exempt : Bool) (eights : Nat) (crc : Bool)
deriving DecidableEq, Repr

/-- What an RX command says of a frame on the bus: its start, a recessive res bit, or its acceptance (R402, R405, R415). -/
inductive CanRxAt
  | start
  | resBit
  | accept
deriving DecidableEq, Repr

/-- What ISO 11898-1 needs for the counters after an error outside an attempt: whether the error itself counts 1 (it does
not where it lies in an active error flag or an overload flag), the further steps of 8, and whether they go to TEC, the
controller having sent the frame before (assumption log 77). -/
structure CanSteps where
  one : Bool
  eights : Nat
  tx : Bool
deriving DecidableEq, Repr

/-- A completed peer-delay exchange (R424): egress stamp of the request, ingress stamp of the response, the
turnaround in 2^-16 ns and the neighbour rate ratio - 1 in 2^-41 (assumption log 84). -/
structure PdelayRes where
  t1 : Time
  t4 : Time
  turn : Int
  nrr : Int
deriving DecidableEq, Repr

/-- What a safe monitor sees (R461, R85): a change of a line on its copy of the port's receivers, with its level and
stamp, or a valid serial word of the port. -/
inductive SmIn
  | edge (line : Fin 3) (level : Bool) (stamp : Time)
  | word
deriving DecidableEq, Repr

/-- One command. -/
inductive Instr
  /-- REGISTER_WRITE (R8). A master writes a register that has no row of its own, under its access code. -/
  | registerWrite (t : Time) (m : Master) (a : BitVec 26) (w : Width) (be : BitVec 8) (v : DWord)
  /-- STAGED_REGISTER_WRITE (R44). A write to an RW-S register is staged for the first commit instant of the owning axis whose cutoff falls after it. -/
  | stagedRegisterWrite (t : Time) (m : Master) (a : BitVec 26) (wide : Bool) (v : DWord)
  /-- RC_READ (R51). A read of an RC register returns the count and clears it in one atomic step. -/
  | rcRead (t : Time) (m : Master) (a : BitVec 26) (w : Width) (be : BitVec 8)
  /-- PAIR_LOW_READ (R48). A 32-bit read of the low word of a 64-bit register captures the whole register for the reading master. -/
  | pairLowRead (t : Time) (m : Master) (a : BitVec 26)
  /-- PAIR_HIGH_READ (R48). A 32-bit read of the high word returns the captured word, or the live word with PAIR_ERR. -/
  | pairHighRead (t : Time) (m : Master) (a : BitVec 26)
  /-- PAIR_LOW_WRITE (R49). A 32-bit write of the low word of a 64-bit register is held in the write-holding register. -/
  | pairLowWrite (t : Time) (m : Master) (a : BitVec 26) (v : Word)
  /-- PAIR_HIGH_WRITE (R49). A 32-bit write of the high word completes the held write, or is discarded with PAIR_ERR. -/
  | pairHighWrite (t : Time) (m : Master) (a : BitVec 26) (v : Word)
  /-- UNMAPPED_ACCESS (R33). An access to an unmapped or misaligned address reads 0 or is discarded, and sets UNMAPPED and MAP_ADDR. -/
  | unmappedAccess (t : Time) (m : Master) (a : BitVec 26) (w : Width) (wr : Bool) (v : DWord)
  /-- MEMORY_WINDOW_WRITE (R34). A write to a core, cam or segment memory window is accepted or refused with MEM_BUSY. -/
  | memoryWindowWrite (t : Time) (m : Master) (a : BitVec 27) (w : Width) (be : BitVec 8) (v : DWord)
  /-- SOFT_RESET (R38). A write of PG_CTRL.SRST starts a soft reset of the page, or is refused. -/
  | softReset (t : Time) (m : Master) (a : BitVec 26)
  /-- SOFT_RESET_DONE (R38). A soft reset completes, every register except PG_LOCK is back at its reset value and BUSY clears. -/
  | softResetDone (t : Time) (a : BitVec 26)
  /-- FREEZE_CAPTURE (R39). A write of FREEZE = 1 captures the page's RO and RC block registers at one TCLK instant. -/
  | freezeCapture (t : Time) (m : Master) (a : BitVec 26)
  /-- FREEZE_RELEASE (R39). A write of FREEZE = 0 returns reads to the live values. -/
  | freezeRelease (t : Time) (m : Master) (a : BitVec 26)
  /-- IRQ_CLEAR (R40). A W1C write to PG_IRQ clears bits, unless a hardware event sets them in the same cycle. -/
  | irqClear (t : Time) (m : Master) (a : BitVec 26) (v : Word)
  /-- UNLOCK_FIRST_KEY (R41). A write of 0x0000_C41A to PG_LOCK opens an unlock sequence, aborting any open sequence. -/
  | unlockFirstKey (t : Time) (m : Master) (a : BitVec 26)
  /-- UNLOCK_SECOND_KEY (R41). A write of 0x0000_A14C by the same master completes the sequence and makes it lock owner. -/
  | unlockSecondKey (t : Time) (m : Master) (a : BitVec 26)
  /-- UNLOCK_TIMEOUT (R41). The 1 us between the two keys runs out and the sequence aborts with FAILS incremented. -/
  | unlockTimeout (t : Time) (a : BitVec 26)
  /-- LOCK_ZERO_WRITE (R569). A write of 0 to PG_LOCK by the owner locks the page; other zero writes are ignored or counted. -/
  | lockZeroWrite (t : Time) (m : Master) (a : BitVec 26)
  /-- LOCK_OTHER_WRITE (R569). Any other write to PG_LOCK has no effect on the lock and increments FAILS. -/
  | lockOtherWrite (t : Time) (m : Master) (a : BitVec 26) (v : Word)
  /-- LOCK_TIMEOUT (R42). 10 ms after the later of the unlock and the owner's last RW-L write the page locks again. -/
  | lockTimeout (t : Time) (a : BitVec 26)
  /-- LOCKED_REGISTER_WRITE (R42). An RW-L write takes effect from the owner of an unlocked page, or is refused and counted. -/
  | lockedRegisterWrite (t : Time) (m : Master) (a : BitVec 26) (wide : Bool) (v : DWord)
  /-- SHADOW_HOLD (R46). A write of PG_SHADOW.HOLD holds staged writes, or releases them together at the next commit. -/
  | shadowHold (t : Time) (m : Master) (a : BitVec 26) (on : Bool)
  /-- SHADOW_DISCARD (R45). A write of PG_SHADOW.DISCARD drops all staged register writes of the page. -/
  | shadowDiscard (t : Time) (m : Master) (a : BitVec 26)
  /-- SELECTOR_WRITE (R349). A write of a per-master selector (LSEL, TSEL, LTSEL, TXSEL, SMSEL, CSEL) sets the writer's selection. -/
  | selectorWrite (t : Time) (m : Master) (a : BitVec 26) (v : Word)
  /-- COMMIT_INSTANT (R18). At a commit instant the Sluice releases staged values, they govern outputs, and the sample frame is frozen. -/
  | commitInstant (t : Time) (n : Fin 112)
  /-- FRAME_READY (R16). The frame of a sample instant becomes ready at t_k + D_F and is delivered to a waiting core. -/
  | frameReady (t : Time) (a : Fin 64)
  /-- STAGING_CUTOFF (R17). The staging cutoff of a commit instant passes at t_{k+1} - 80 ns. -/
  | stagingCutoff (t : Time) (a : Fin 64)
  /-- OUT_WRITE_ARRIVAL (R265). An OUT write reaches Sluice staging and is staged or dropped as stale, late or unmapped. -/
  | outWriteArrival (t : Time) (c : Fin 33)
  /-- OUT_EN_SET (R568). A write of OUT_EN = 1 in READY with the release present moves the device to RUN. -/
  | outEnSet (t : Time) (m : Master)
  /-- OUT_EN_CLEAR (R28). A write of OUT_EN = 0 leaves RUN for READY and turns every gate and field output off. -/
  | outEnClear (t : Time) (m : Master)
  /-- RUN_ENTRY (R568). With OUT_EN = 1 in READY, the Brakewheel release becomes present and the device enters RUN. -/
  | runEntry (t : Time)
  /-- SAFE_ACK (R30). A write of SAFE_ACK returns the device from SAFE to READY once the hold is withdrawn, or sets ACK_EARLY. -/
  | safeAck (t : Time) (m : Master)
  /-- PLL_LOCK_LOST (R24). A PLL loses lock or leaves its frequency window and is flagged in CLK_MON. -/
  | pllLockLost (t : Time) (p : Pll) (freq : Bool)
  /-- REFCLK_LOST (R24). REFCLK is absent or off frequency; the time-base, PLL_A and PLL_C flags are all set. -/
  | refclkLost (t : Time)
  /-- INCR_WRITE (R58). A write of PTP INCR is clamped if out of range and counted in ADJ_COUNT. -/
  | incrWrite (t : Time) (m : Master) (n : Bool) (v : DWord)
  /-- INCR_APPLY (R58). 20 ns after the write, the new INCR governs every TCLK edge. -/
  | incrApply (t : Time) (n : Bool)
  /-- OFFSET_WRITE (R59). A write of PTP OFFSET stages a one-time step, replacing an earlier unapplied one. -/
  | offsetWrite (t : Time) (m : Master) (n : Bool) (v : DWord)
  /-- OFFSET_APPLY (R59). The staged step is added to the clock, or refused if the seconds would go negative. -/
  | offsetApply (t : Time) (n : Bool)
  /-- SLEW_DONE (R62). C slews to exactly zero and SLEW_DONE is posted. -/
  | slewDone (t : Time)
  /-- RESEED (R63). A write of RESEED while TIME_UNSURE sets C to zero at the next TCLK edge. -/
  | reseed (t : Time) (m : Master)
  /-- STANDALONE_SET (R68). A write of STANDALONE = 1 clears TIME_UNSURE and holds it 0. -/
  | standaloneSet (t : Time) (m : Master)
  /-- STANDALONE_CLEAR (R67). A write of STANDALONE = 0 sets TIME_UNSURE. -/
  | standaloneClear (t : Time) (m : Master)
  /-- SNAPSHOT_TAKE (R65). A write of SNAP_CTRL.TAKE captures every snapshot register at one TCLK edge. -/
  | snapshotTake (t : Time) (m : Master)
  /-- SNAPSHOT_PERIOD (R65). With TRIG = 2 a snapshot is taken at each GTC multiple of PERIOD_US. -/
  | snapshotPeriod (t : Time)
  /-- WEIR_POST (R71). A source posts an event record to the Weir. -/
  | weirPost (t : Time) (src : Fin 1024) (code : Fin 64) (stamp : Time) (payload : BitVec 48)
  /-- WEIR_DELIVERY (R72). At each TCLK edge the Weir delivers up to two due records in stamp order to the consumer queues. -/
  | weirDelivery (t : Time) (lag : List (Fin 1024))
  /-- STALL_CLEAR (R74). STALLED clears once every watermark has been past the frontier for 1 us. -/
  | stallClear (t : Time)
  /-- WEIR_INJECT (R83). A complete 64-bit write to WEIR.INJ posts a software event, or is refused for reserved codes. -/
  | weirInject (t : Time) (m : Master) (v : DWord)
  /-- WEIR_POP (R81). A read of Q_POP0 removes the head record and holds it for the reading master. -/
  | weirPop (t : Time) (m : Master) (q : Fin 8) (wide : Bool)
  /-- WEIR_POP_WORD (R81). A read of pop words 1-3 returns the held record; word 3 ends the hold. -/
  | weirPopWord (t : Time) (m : Master) (q : Fin 8) (i : Fin 4)
  /-- FEEDBACK_EDGE (R88). An edge on a feedback input is stamped and accepted or rejected by qualification. -/
  | feedbackEdge (t : Time) (n : Fin 48) (line : Fin 3) (stamp : Time) (level stamped : Bool)
  /-- GLITCH_GATHERED_POST (R90). 1 us after the previous GLITCH event, one event is posted for the gathered rejected edges. -/
  | glitchGatheredPost (t : Time) (n : Fin 48)
  /-- MIN_INT_EXPIRY (R89). MIN_INT passes after an accepted edge and a level difference yields an accepted edge or an illegal transition. -/
  | minIntExpiry (t : Time) (n : Fin 48) (line : Fin 3)
  /-- FBP_CONFIG_WRITE (R87). A write of FBP CTRL is accepted only while EN = 0 and without reserved values. -/
  | fbpConfigWrite (t : Time) (m : Master) (n : Fin 48) (v : Word)
  /-- PORT_ENABLE (R87). PG_CTRL.EN goes 0 to 1 on a feedback port; the counter starts at 0. -/
  | portEnable (t : Time) (m : Master) (n : Fin 48)
  /-- RESTORE (R98). POS_CMD RESTORE re-places the position from counter and OVR if accepted. -/
  | fbRestore (t : Time) (m : Master) (n : Fin 48)
  /-- SET (R98). POS_CMD SET loads POS_SET_VAL, clamped, and clears OVR and OVR_SAT. -/
  | fbSet (t : Time) (m : Master) (n : Fin 48)
  /-- ZSET_ARM (R95). POS_CMD ZSET_ARM arms a homing set at the next index. -/
  | fbZsetArm (t : Time) (m : Master) (n : Fin 48)
  /-- ZSET_DISARM (R95). POS_CMD ZSET_DISARM removes the homing arm. -/
  | fbZsetDisarm (t : Time) (m : Master) (n : Fin 48)
  /-- RELOAD (R98). POS_CMD RELOAD makes the next valid serial word load the counter. -/
  | fbReload (t : Time) (m : Master) (n : Fin 48)
  /-- LIMIT_WRITE (R99). A write of LIM_LO or LIM_HI re-places the position against the new range, or is refused. -/
  | limitWrite (t : Time) (m : Master) (n : Fin 48) (hi : Bool) (v : DWord)
  /-- SERIAL_REQUEST (R103). At t_req the port starts an SSI or BiSS-C transfer, or skips it within the recovery time. -/
  | serialRequest (t : Time) (n : Fin 48) (tk : Time)
  /-- SERIAL_WORD (R106). A serial transfer completes and the word is accepted or fails with CRC, ERRBIT or lateness. -/
  | serialWord (t : Time) (n : Fin 48) (data crc : List Bool)
  /-- SERIAL_TIMEOUT (R105). No start bit within SER_TMO, or a data line not idle, fails the request with NORESP. -/
  | serialTimeout (t : Time) (n : Fin 48)
  /-- SENT_FRAME (R107). A SENT frame is decoded and accepted or rejected; slow-channel messages are assembled. -/
  | sentFrame (t : Time) (n : Fin 48) (sync : Nat) (fall : Time) (status : Fin 16) (data : List Nat) (crc : Fin 16)
  /-- SENT_TIMEOUT (R108). SER_TMO passes without a valid SENT frame and one failed request is counted. -/
  | sentTimeout (t : Time) (n : Fin 48)
  /-- LINE_FAULT (R111). An LVDS pair stays in the fail-safe band for 500 ns and LINE_FAULT is raised. -/
  | lineFault (t : Time) (n : Fin 48) (pairs : Fin 8)
  /-- EDGE_STALL (R571). No accepted edge under command for DIAG_INT raises EDGE_STALL. -/
  | edgeStall (t : Time) (n : Fin 48) (a : Fin 64)
  /-- FBP_FAULT_CLEAR (R112). A W1C write clears a feedback FAULT bit without restoring POS_VALID. -/
  | fbpFaultClear (t : Time) (m : Master) (n : Fin 48) (v : Word)
  /-- FB_SEL_WRITE (R114). A write of AXIS FB_SEL takes effect at the first inner sample at least 100 ns later. -/
  | fbSelWrite (t : Time) (m : Master) (a : Fin 64) (v : Word)
  /-- SINC3_WINDOW (R123). A main-path window completes and its result enters the frame and IN.MAIN. -/
  | sinc3Window (t : Time) (n : Fin 48) (i : Fin 4) (clk : List Time) (pin mid : List (Time × Bool)) (run : Time)
  /-- SD_CLK_LOSS (R120). No external MCLK edge for 4 x DIV ns sets CLK_LOSS and invalidates the inputs. -/
  | sdClkLoss (t : Time) (n : Fin 48) (last : Time)
  /-- SD_MAN_ERR (R121). A missing mid-bit transition or off-rate bit sets MAN_ERR and invalidates windows. -/
  | sdManErr (t : Time) (n : Fin 48) (i : Fin 4) (c : Time)
  /-- SD_STUCK (R127). No transition for STUCK_N x 8 bits sets STUCK and invalidates windows holding the run. -/
  | sdStuck (t : Time) (n : Fin 48) (i : Fin 4) (run : Time × Nat)
  /-- SDM_CONFIG_WRITE (R126). A write of IN.CFG or CLK_CFG is accepted or refused with CFG_REFUSED. -/
  | sdmConfigWrite (t : Time) (m : Master) (n : Fin 48) (k : Fin 5) (v : Word)
  /-- CMP_THRESHOLD_CROSSING (R129). A fast-path value crosses a comparator threshold and sets or clears its flag. -/
  | cmpThresholdCrossing (t : Time) (n : Fin 48) (i : Fin 4) (clk : List Time) (pin : List (Time × Bool)) (c : Time)
  /-- AUX_CONVERSION_START (R133). A triggered or scan conversion samples its input when the ADC is free. -/
  | auxConversionStart (t : Time) (m : Fin 2)
  /-- AUX_CONVERSION_DONE (R132). A conversion completes 200 ns after sampling and replaces RESULT and STAMP. -/
  | auxConversionDone (t : Time) (m : Fin 2) (v : Nat)
  /-- AUX_WINDOW_CROSSING (R136). An auxiliary input crosses a window threshold and ABOVE or BELOW changes. -/
  | auxWindowCrossing (t : Time) (m : Fin 2) (j : Fin 8) (v : Nat)
  /-- SLOT_ENABLE (R144). A write of PWM PG_CTRL.EN = 1 fixes the start instant G on the anchor grid. -/
  | slotEnable (t : Time) (m : Master) (n : Fin 48)
  /-- SLOT_START (R144). At G the counter starts, ZERO_REF takes G and SLOT_START is posted. -/
  | slotStart (t : Time) (n : Fin 48)
  /-- SLOT_DISABLE (R146). A write of EN = 0 turns outputs off, stops the counter and applies staged values. -/
  | slotDisable (t : Time) (m : Master) (n : Fin 48)
  /-- PWM_CONFIG_WRITE (R146). A write of PWM CTRL is accepted only while EN = 0 and without reserved values. -/
  | pwmConfigWrite (t : Time) (m : Master) (n : Fin 48) (v : Word)
  /-- REANCHOR_PAUSE_END (R148). The re-anchoring pause ends and the counter runs on. -/
  | reanchorPauseEnd (t : Time) (n : Fin 48)
  /-- COMPARE_MATCH (R149). The counter reaches a compare edge and a gate command changes. -/
  | compareMatch (t : Time) (n : Fin 48)
  /-- DEAD_TIME_END (R152). A dead time ends and a waiting gate turns on. -/
  | deadTimeEnd (t : Time) (n : Fin 48)
  /-- TRIP_SOURCE_CHANGE (R154). A raw trip source changes level at a pin or flag. -/
  | tripSourceChange (t : Time) (p : TripPin) (level : Bool)
  /-- TRIP_FILTER_EXPIRY (R154). A raw level has held for LEN samples and the filtered output changes. -/
  | tripFilterExpiry (t : Time) (n : Fin 48) (k : Fin 18)
  /-- COMM_ENABLE (R158). A write of COMM_CFG.EN = 1 applies the entry for the present Hall state. -/
  | commEnable (t : Time) (m : Master) (n : Fin 48) (port : Fin 64)
  /-- COMM (R158). At the Hall stamp plus COMM_DLY the table entry for the new state is applied. -/
  | pwmComm (t : Time) (n : Fin 48)
  /-- OVERRIDE (R159). A write of OVR_MASK applies or removes the override mask. -/
  | pwmOverride (t : Time) (m : Master) (n : Fin 48) (v : Word)
  /-- PROTECTION_ENABLE (R165). PSP EN becomes 1 and every active enabled source trips or latches. -/
  | protectionEnable (t : Time) (m : Master) (n : Fin 48)
  /-- DEGRADE_TIMEOUT (R169). The L2 DEG_TIME runs out and the slot level becomes L3. -/
  | degradeTimeout (t : Time) (n : Fin 48)
  /-- STOP_TIMEOUT (R169). STOP_TMAX runs out at L3 and the slot level becomes L4. -/
  | stopTimeout (t : Time) (n : Fin 48)
  /-- PROTECTION_CLEAR (R171). A write to PSP.CLEAR clears inactive latched sources or refuses the request. -/
  | protectionClear (t : Time) (m : Master) (n : Fin 48) (v : Word)
  /-- BW_REQUEST (R173). A level from the Brakewheel reaches BW_REQ of the slot and acts as a local source. -/
  | bwRequest (t : Time) (n : Fin 48)
  /-- SLOT_STO_GATE (R178). The slot's STO gate or the output enable changes and gates go off or resume. -/
  | slotStoGate (t : Time) (n : Fin 48)
  /-- SELF_TEST_START (R180). A write of PSP.TEST starts a comparator self-test or is refused. -/
  | selfTestStart (t : Time) (m : Master) (n : Fin 48) (v : Word)
  /-- SELF_TEST_PHASE_END (R181). A self-test phase ends on the flag change or its limit, and the result is written. -/
  | selfTestPhaseEnd (t : Time) (n : Fin 48) (line : List Time × List (Time × Bool))
  /-- CHOP_LIMIT (R183). The chopper reaches MAX_ON, turns off and cools. -/
  | chopLimit (t : Time) (n : Fin 48)
  /-- CHOP_COOL_END (R183). The cooling time COOL after MAX_ON ends. -/
  | chopCoolEnd (t : Time) (n : Fin 48)
  /-- CHOP_STALE (R183). No conversion for STALE turns the chopper off and posts CHOP_STALE. -/
  | chopStale (t : Time) (n : Fin 48)
  /-- ADD (R230). Xd := Xa + Xb. -/
  | opAdd (t : Time) (c : Fin 33)
  /-- SUB (R230). Xd := Xa - Xb. -/
  | opSub (t : Time) (c : Fin 33)
  /-- NEG (R230). Xd := 0 - Xa. -/
  | opNeg (t : Time) (c : Fin 33)
  /-- ABS (R230). Xd := |Xa|. -/
  | opAbs (t : Time) (c : Fin 33)
  /-- AND (R230). Bitwise and. -/
  | opAnd (t : Time) (c : Fin 33)
  /-- OR (R230). Bitwise or. -/
  | opOr (t : Time) (c : Fin 33)
  /-- XOR (R230). Bitwise exclusive or. -/
  | opXor (t : Time) (c : Fin 33)
  /-- NOT (R230). Bitwise complement. -/
  | opNot (t : Time) (c : Fin 33)
  /-- MIN (R230). Signed minimum. -/
  | opMin (t : Time) (c : Fin 33)
  /-- MAX (R230). Signed maximum. -/
  | opMax (t : Time) (c : Fin 33)
  /-- MOV (R230). Xd := Xa. -/
  | opMov (t : Time) (c : Fin 33)
  /-- CMP (R230). Sets flags of Xa - Xb. -/
  | opCmp (t : Time) (c : Fin 33)
  /-- CLS (R230). Counts leading sign bits. -/
  | opCls (t : Time) (c : Fin 33)
  /-- SHL (R230). Left shift by register. -/
  | opShl (t : Time) (c : Fin 33)
  /-- SHRA (R230). Arithmetic right shift by register. -/
  | opShra (t : Time) (c : Fin 33)
  /-- SHRL (R230). Logical right shift by register. -/
  | opShrl (t : Time) (c : Fin 33)
  /-- SHLI (R230). Left shift by immediate. -/
  | opShli (t : Time) (c : Fin 33)
  /-- SHRAI (R230). Arithmetic right shift by immediate. -/
  | opShrai (t : Time) (c : Fin 33)
  /-- SHRLI (R230). Logical right shift by immediate. -/
  | opShrli (t : Time) (c : Fin 33)
  /-- ADDI (R231). Xd := Xa + sign-extended immediate. -/
  | opAddi (t : Time) (c : Fin 33)
  /-- CMPI (R231). Sets flags of Xa - immediate. -/
  | opCmpi (t : Time) (c : Fin 33)
  /-- MOVI (R231). Xd := sign-extended immediate. -/
  | opMovi (t : Time) (c : Fin 33)
  /-- MOVHI (R231). Sets the high half of Xd. -/
  | opMovhi (t : Time) (c : Fin 33)
  /-- MOVL (R231). Xd := 32-bit immediate. -/
  | opMovl (t : Time) (c : Fin 33)
  /-- MOVPI (R231). Loads a P or M register with an immediate. -/
  | opMovpi (t : Time) (c : Fin 33)
  /-- MOVS (R232). Moves a system register to or from an X register. -/
  | opMovs (t : Time) (c : Fin 33)
  /-- LD (R233). Loads a word into Xd. -/
  | opLd (t : Time) (c : Fin 33)
  /-- ST (R233). Stores Xs. -/
  | opSt (t : Time) (c : Fin 33)
  /-- STA (R234). Stores an accumulator with rounding and saturation. -/
  | opSta (t : Time) (c : Fin 33)
  /-- LDD (R235). Loads one X word and one Y word in one issue. -/
  | opLdd (t : Time) (c : Fin 33)
  /-- MPY (R236). ACC := product. -/
  | opMpy (t : Time) (c : Fin 33)
  /-- MAC (R236). ACC := ACC + product. -/
  | opMac (t : Time) (c : Fin 33)
  /-- MPYD (R236). ACC := sum of two products. -/
  | opMpyd (t : Time) (c : Fin 33)
  /-- MACD (R236). ACC := ACC + sum of two products. -/
  | opMacd (t : Time) (c : Fin 33)
  /-- FTAP (R237). One filter tap and one delay-line move. -/
  | opFtap (t : Time) (c : Fin 33)
  /-- CLRA (R238). Clears an accumulator. -/
  | opClra (t : Time) (c : Fin 33)
  /-- MOVA (R238). Copies an accumulator. -/
  | opMova (t : Time) (c : Fin 33)
  /-- ADDA (R238). Adds accumulators. -/
  | opAdda (t : Time) (c : Fin 33)
  /-- SUBA (R238). Subtracts accumulators. -/
  | opSuba (t : Time) (c : Fin 33)
  /-- NEGA (R238). Negates an accumulator. -/
  | opNega (t : Time) (c : Fin 33)
  /-- ABSA (R238). Absolute value of an accumulator. -/
  | opAbsa (t : Time) (c : Fin 33)
  /-- ASR (R238). Arithmetic right shift of an accumulator. -/
  | opAsr (t : Time) (c : Fin 33)
  /-- ASL (R238). Left shift of an accumulator. -/
  | opAsl (t : Time) (c : Fin 33)
  /-- LDAH (R238). Loads Xa into an accumulator's high word. -/
  | opLdah (t : Time) (c : Fin 33)
  /-- LDAX (R238). Loads a 64-bit pair into an accumulator. -/
  | opLdax (t : Time) (c : Fin 33)
  /-- ADDAH (R238). Adds Xa at the high word. -/
  | opAddah (t : Time) (c : Fin 33)
  /-- ADDAX (R238). Adds a 64-bit pair. -/
  | opAddax (t : Time) (c : Fin 33)
  /-- XLO (R238). Moves an accumulator's low word to Xa. -/
  | opXlo (t : Time) (c : Fin 33)
  /-- XHI (R238). Moves an accumulator's high word to Xa. -/
  | opXhi (t : Time) (c : Fin 33)
  /-- XGD (R238). Moves an accumulator's guard bits to Xa. -/
  | opXgd (t : Time) (c : Fin 33)
  /-- CMPA (R238). Sets flags of ACCd - ACCs. -/
  | opCmpa (t : Time) (c : Fin 33)
  /-- SATX (R239). Clips an accumulator to a limit pair and leaves the excess. -/
  | opSatx (t : Time) (c : Fin 33)
  /-- SINCOS (R241). Starts a sine and cosine of an angle. -/
  | opSincos (t : Time) (c : Fin 33)
  /-- ATAN2 (R241). Starts an angle computation. -/
  | opAtan2 (t : Time) (c : Fin 33)
  /-- RSQRT (R241). Starts a reciprocal square root. -/
  | opRsqrt (t : Time) (c : Fin 33)
  /-- DIV (R241). Starts a fractional division. -/
  | opDiv (t : Time) (c : Fin 33)
  /-- DIVI (R241). Starts an integer division. -/
  | opDivi (t : Time) (c : Fin 33)
  /-- PRIMITIVE_RESULT (R240). A pipelined primitive writes its destination and flags at its distance. -/
  | primitiveResult (t : Time) (c : Fin 33)
  /-- BCC (R243). Conditional branch with two delay slots. -/
  | opBcc (t : Time) (c : Fin 33)
  /-- CALL (R243). Call with return address in P7. -/
  | opCall (t : Time) (c : Fin 33)
  /-- BRI (R243). Conditional branch to Pn. -/
  | opBri (t : Time) (c : Fin 33)
  /-- CALLI (R243). Call to Pn. -/
  | opCalli (t : Time) (c : Fin 33)
  /-- RET (R243). Return to P7. -/
  | opRet (t : Time) (c : Fin 33)
  /-- RETN (R243). Millwright return from vector 0 or 1. -/
  | opRetn (t : Time) (c : Fin 33)
  /-- RETI (R243). Millwright return from vectors 2-31. -/
  | opReti (t : Time) (c : Fin 33)
  /-- NOP (R251). Does nothing. -/
  | opNop (t : Time) (c : Fin 33)
  /-- BKPT (R251). Halts the core before the next instruction. -/
  | opBkpt (t : Time) (c : Fin 33)
  /-- RPT (R245). Repeats the next instruction n times. -/
  | opRpt (t : Time) (c : Fin 33)
  /-- BRPT (R246). Starts a block repeat with a short count and end offset. -/
  | opBrpt (t : Time) (c : Fin 33)
  /-- BRPT_L (R246). Starts a block repeat with a long count or register count. -/
  | opBrptL (t : Time) (c : Fin 33)
  /-- WAITT (R247). Waits for the next frame of a hosted period. -/
  | opWaitt (t : Time) (c : Fin 33)
  /-- IN (R248). Reads a word of the delivered frame. -/
  | opIn (t : Time) (c : Fin 33)
  /-- OUT (R249). Stages a word for the next commit of the period. -/
  | opOut (t : Time) (c : Fin 33)
  /-- TRC (R250). Writes a stamped trace word to a Hopper channel. -/
  | opTrc (t : Time) (c : Fin 33)
  /-- SYSTEM_WINDOW_DONE (R193). A millwright system-window access completes and the core leaves its stall. -/
  | systemWindowDone (t : Time) (c : Fin 33)
  /-- VECTOR_ENTRY (R210). A millwright takes a pending vector at a clean boundary. -/
  | vectorEntry (t : Time) (k : Fin 4)
  /-- WDOG_EXPIRE (R213). The millwright watchdog expires, raising vector 1 or, the second time, WDOG2. -/
  | wdogExpire (t : Time) (k : Fin 4)
  /-- WDOG_KICK (R213). A write of the kick key restarts the watchdog. -/
  | wdogKick (t : Time) (m : Master) (k : Fin 4) (v : Word)
  /-- MW_TIMER_FIRE (R221). The GTC reaches a millwright TIMER and its vector pends. -/
  | mwTimerFire (t : Time) (k i : Fin 4)
  /-- DOORBELL (R221). A write of DOORBELL makes vector 3 pending. -/
  | doorbell (t : Time) (m : Master) (k : Fin 4)
  /-- CORE_GO (R220). CTRL.GO starts an IDLE core at ENTRY with registers reset. -/
  | coreGo (t : Time) (m : Master) (c : Fin 32)
  /-- CORE_STOP (R220). CTRL.STOP takes a core to IDLE, refused on a hosting Stone core without FORCE. -/
  | coreStop (t : Time) (m : Master) (c : Fin 32)
  /-- CORE_HALT (R217). CTRL.HALT requests a halt at the next clean boundary. -/
  | coreHalt (t : Time) (m : Master) (c : Fin 32)
  /-- HALTED (R217). A pending halt is taken at a clean boundary and the core enters HALTED. -/
  | halted (t : Time) (c : Fin 33)
  /-- CORE_RESUME (R218). CTRL.RESUME continues a halted core from PC. -/
  | coreResume (t : Time) (m : Master) (c : Fin 32)
  /-- CORE_STEP (R218). CTRL.STEP runs a halted core to the next clean boundary. -/
  | coreStep (t : Time) (m : Master) (c : Fin 32)
  /-- BREAKPOINT_HIT (R218). A breakpoint halts the core before the instruction issues. -/
  | breakpointHit (t : Time) (c : Fin 33)
  /-- WATCHPOINT_HIT (R218). A watchpoint halts the core after the access completes. -/
  | watchpointHit (t : Time) (c : Fin 33)
  /-- DBG_DATA_READ (R219). A read of DBG_DATA returns the selected core register while halted. -/
  | dbgDataRead (t : Time) (m : Master) (c : Fin 32)
  /-- DBG_DATA_WRITE (R219). A write of DBG_DATA sets the selected core register while halted. -/
  | dbgDataWrite (t : Time) (m : Master) (c : Fin 32) (v : Word)
  /-- AXIS_RUN_SET (R258). A write of RUN = 1 is checked against load and reservation and starts the axis. -/
  | axisRunSet (t : Time) (m : Master) (a : Fin 64)
  /-- AXIS_FIRST_SAMPLE (R259). The axis's first inner sample instant t_0 arrives and frame numbering starts. -/
  | axisFirstSample (t : Time) (a : Fin 64)
  /-- AXIS_RUN_CLEAR (R260). A write of RUN = 0 stops freezing and commits for the axis. -/
  | axisRunClear (t : Time) (m : Master) (a : Fin 64)
  /-- PARK_WRITE (R261). A write of CTRL.PARK parks or unparks the axis at its next commit. -/
  | parkWrite (t : Time) (m : Master) (a : Fin 64) (park : Bool)
  /-- MIG_START (R274). A write of MIG_CMD.GO requests a migration and fixes t_m, or is refused. -/
  | migStart (t : Time) (m : Master) (src dst : Fin 32)
  /-- MIGRATION_ABORT (R275). A write of MIG_CMD.ABORT ends a waiting migration. -/
  | migrationAbort (t : Time) (m : Master)
  /-- MIGRATION_CUTOFF (R276). At t_m - 80 ns the state mover starts copying and the target starts. -/
  | migrationCutoff (t : Time)
  /-- MIG_DONE (R276). At t_m the epochs advance, placement moves to the target and MIG_DONE is posted. -/
  | migDone (t : Time)
  /-- PROFILE_TICK (R301). At a profile tick Windshaft computes P and V and advances segments. -/
  | profileTick (t : Time) (a : Fin 64)
  /-- QUEUE_WRITE (R305). A write of Q_WR publishes segment entries, or is refused. -/
  | queueWrite (t : Time) (m : Master) (a : Fin 64) (v : Word)
  /-- AXIS_START (R323). AXIS CMD START starts the head segment at the first tick at least 1 us later. -/
  | axisStart (t : Time) (m : Master) (a : Fin 64)
  /-- AXIS_STOP (R320). AXIS CMD STOP stops the axis on its stop ramp. -/
  | axisStop (t : Time) (m : Master) (a : Fin 64)
  /-- AXIS_RESUME (R322). AXIS CMD RESUME continues the interrupted segment. -/
  | axisResume (t : Time) (m : Master) (a : Fin 64)
  /-- AXIS_ABANDON (R323). AXIS CMD ABANDON drops the interrupted segment. -/
  | axisAbandon (t : Time) (m : Master) (a : Fin 64)
  /-- AXIS_FLUSH (R323). AXIS CMD FLUSH empties the queue. -/
  | axisFlush (t : Time) (m : Master) (a : Fin 64)
  /-- AXIS_SETPOS (R323). AXIS CMD SETPOS sets P at the next tick. -/
  | axisSetpos (t : Time) (m : Master) (a : Fin 64)
  /-- AXIS_FBPOS (R323). AXIS CMD FBPOS sets P from feedback at the next tick. -/
  | axisFbpos (t : Time) (m : Master) (a : Fin 64)
  /-- GROUP_ENABLE (R312). A write of IGRP CTRL.EN = 1 enables the group, or is refused. -/
  | groupEnable (t : Time) (m : Master) (g : Fin 16) (v : Word)
  /-- GROUP_START (R323). IGRP CMD START starts the group's head segment. -/
  | groupStart (t : Time) (m : Master) (g : Fin 16)
  /-- GROUP_STOP (R320). IGRP CMD STOP stops the group on reduced stop limits. -/
  | groupStop (t : Time) (m : Master) (g : Fin 16)
  /-- GROUP_RESUME (R322). IGRP CMD RESUME continues the group segment. -/
  | groupResume (t : Time) (m : Master) (g : Fin 16)
  /-- GROUP_ABANDON (R323). IGRP CMD ABANDON drops the interrupted group segment. -/
  | groupAbandon (t : Time) (m : Master) (g : Fin 16)
  /-- GROUP_FLUSH (R323). IGRP CMD FLUSH empties the group queue. -/
  | groupFlush (t : Time) (m : Master) (g : Fin 16)
  /-- START_SET_ARM (R317). SS_CTRL.ARM arms a start set, or fails with a reason. -/
  | startSetArm (t : Time) (m : Master) (n : Fin 16)
  /-- START_SET_DISARM (R330). SS_CTRL.DISARM returns a start set to idle. -/
  | startSetDisarm (t : Time) (m : Master) (n : Fin 16)
  /-- START_SET_STROBE (R318). SS_CTRL.STROBE triggers an armed set with TRIG = 0. -/
  | startSetStrobe (t : Time) (m : Master) (n : Fin 16)
  /-- START_SET_MT_TRIGGER (R318). Machine time reaches SS_MT and triggers an armed set, or cancels it under TIME_UNSURE. -/
  | startSetMtTrigger (t : Time) (n : Fin 16)
  /-- START (R318). At t_s every member begins its head segment and posts START. -/
  | startSetStart (t : Time) (n : Fin 16)
  /-- CHOPPER_FAST_END (R327). TOFF x FD / 16 passes and the chopper enters slow decay. -/
  | chopperFastEnd (t : Time) (n : Fin 48) (x : Fin 2)
  /-- CHOPPER_OFF_END (R327). TOFF passes and the chopper drives again. -/
  | chopperOffEnd (t : Time) (n : Fin 48) (x : Fin 2)
  /-- ENGAGE (R342). GL CMD ENGAGE arms a link, or is refused. -/
  | engage (t : Time) (m : Master)
  /-- DISENGAGE (R344). GL CMD DISENGAGE disengages at the first tick at least 100 ns later. -/
  | disengage (t : Time) (m : Master)
  /-- DIS_ARM (R344). GL CMD DIS_ARM disengages at the crossing of DIS_POS. -/
  | disArm (t : Time) (m : Master)
  /-- CANCEL (R344). GL CMD CANCEL returns an armed link to IDLE. -/
  | cancel (t : Time) (m : Master)
  /-- VIRTUAL_MASTER_UPDATE (R334). Every 1 us an enabled virtual master moves its velocity and position. -/
  | virtualMasterUpdate (t : Time) (v : Fin 8)
  /-- VM_SETPOS (R334). VM CTRL.SETPOS sets the position at the next update, or is refused. -/
  | vmSetpos (t : Time) (m : Master) (v : Fin 8)
  /-- CT_WRITE (R341). A write of a cam table register is refused while the table is in use. -/
  | ctWrite (t : Time) (m : Master) (k : Fin 3) (v : DWord)
  /-- CP_EDGE (R352). An edge on a capture input is stamped and posted if enabled. -/
  | cpEdge (t : Time) (i : Fin 32) (lvl : Bool) (stamp : Time)
  /-- SYNC_EDGE (R352). An edge on a SYNC pin is stamped and posted if enabled. -/
  | syncEdge (t : Time) (i : Fin 8) (lvl : Bool) (stamp : Time)
  /-- LATCH_ARM (R354). LT CMD ARM arms a latch channel. -/
  | latchArm (t : Time) (m : Master)
  /-- LATCH_DISARM (R354). LT CMD DISARM disarms a latch channel. -/
  | latchDisarm (t : Time) (m : Master)
  /-- LATCH_RESULT_COMPLETE (R355). The next edge arrives and the latched position is formed and queued. -/
  | latchResultComplete (t : Time)
  /-- LATCH_WAIT_TIMEOUT (R355). WAIT_MAX passes and the position is extrapolated with EXTRAP set. -/
  | latchWaitTimeout (t : Time)
  /-- RES_POP (R359). A read of RES_POP0 removes the head latch record and holds it. -/
  | resPop (t : Time) (m : Master) (wide : Bool)
  /-- RES_POP_WORD (R359). A read of pop words 1-7 returns the held record; word 7 ends the hold. -/
  | resPopWord (t : Time) (m : Master) (i : Fin 8)
  /-- TRACE_ENTRY (R363). A trace word or hardware-node value reaches the Hopper capture path. -/
  | traceEntry (t : Time) (k : Fin 33)
  /-- SEGMENT_REARM (R372). In multi mode the next free segment starts capturing. -/
  | segmentRearm (t : Time)
  /-- HOPPER_ARM (R373). HOPPER CMD ARM starts capture, or is refused. -/
  | hopperArm (t : Time) (m : Master)
  /-- HOPPER_DISARM (R373). HOPPER CMD DISARM discards or truncates the current segment. -/
  | hopperDisarm (t : Time) (m : Master)
  /-- HOPPER_FORCE (R366). HOPPER CMD FORCE fires the trigger. -/
  | hopperForce (t : Time) (m : Master)
  /-- HOPPER_CLEAR (R378). HOPPER CMD CLEAR frees all segments and resets the sequence. -/
  | hopperClear (t : Time) (m : Master)
  /-- HOPPER_MT_TRIGGER (R368). Machine time reaches TRIG_MT and fires the trigger, or is cancelled. -/
  | hopperMtTrigger (t : Time)
  /-- SEG_RD_WRITE (R375). A write of SEG_RD frees manually drained segments. -/
  | segRdWrite (t : Time) (m : Master) (v : Word)
  /-- DRAIN_RD_WRITE (R375). A write of DRAIN_RD gives drain slots back to the Hopper. -/
  | drainRdWrite (t : Time) (m : Master) (v : Word)
  /-- DRAIN_COPY_DONE (R375). A DMA copy of a segment completes and DRAIN_WR advances. -/
  | drainCopyDone (t : Time)
  /-- FIELD_INPUT_CHANGE (R382). A level change of a field input arrives through its coupler and gets a raw stamp. -/
  | fieldInputChange (t : Time) (i : Fin 32) (lvl : Bool) (arrival : Time)
  /-- FI_EDGE (R383). The debounce time passes and the change becomes the accepted state. -/
  | fiEdge (t : Time) (i : Fin 32)
  /-- WIRE_BREAK (R384). A sampling window ends with too little current for WB_N windows, or clears. -/
  | wireBreak (t : Time) (i : Fin 32) (low : Bool)
  /-- FI_SILENT (R385). No refresh from an input coupler for 20 us sets SILENT. -/
  | fiSilent (t : Time) (i : Fin 32)
  /-- FI_REFRESH_RETURN (R385). A valid refresh arrives after silence and SILENT clears. -/
  | fiRefreshReturn (t : Time) (i : Fin 32) (lvl : Bool)
  /-- FO_CONFIG_WRITE (R387). A write of FO CTRL is accepted while MODE = 0 or when it sets MODE to 0. -/
  | foConfigWrite (t : Time) (m : Master) (j : Fin 32) (v : Word)
  /-- FO_PERIOD_START (R388). A field PWM period starts and the duty in force sets its on-time. -/
  | foPeriodStart (t : Time) (j : Fin 32)
  /-- FO_ON_TIME_END (R388). The on-time W ends and the output turns off. -/
  | foOnTimeEnd (t : Time) (j : Fin 32)
  /-- FO_CURRENT_CONVERSION (R389). An averaged output current conversion ends and updates CURRENT. -/
  | foCurrentConversion (t : Time) (j : Fin 32) (c : Fin 16777216)
  /-- FO_FAULT (R391). An output diagnostic condition is detected or ends. -/
  | foFault (t : Time) (j : Fin 32) (f : Fin 8) (set : Bool)
  /-- FO_LOGIC_SILENT (R391). No refresh from the control die for SILENCE latches the output off. -/
  | foLogicSilent (t : Time) (j : Fin 32)
  /-- FO_CLEAR (R391). A write of FO CLR clears ended latched faults, or is refused. -/
  | foClear (t : Time) (m : Master) (j : Fin 32) (v : Word)
  /-- FIELD_UNDERVOLTAGE (R392). VFIELD falls below 8.0 V and every output turns off. -/
  | fieldUndervoltage (t : Time) (v : Option (Fin 65536))
  /-- FIELD_UV_RECOVERY (R392). VFIELD stays above 8.5 V for 1 ms and UV clears. -/
  | fieldUvRecovery (t : Time) (v : Fin 65536)
  /-- UV_CLR (R392). FIELD CMD UV_CLR clears UV_HOLD, or is refused while UV = 1. -/
  | uvClr (t : Time) (m : Master)
  /-- CAN_MODE_WRITE (R400). A write of CAN CTRL.MODE requests a mode change. -/
  | canModeWrite (t : Time) (m : Master) (n : Fin 16) (v : Word)
  /-- CAN_MODE_CHANGE (R400). The requested mode takes effect when no frame is in progress. -/
  | canModeChange (t : Time) (n : Fin 16)
  /-- CAN_TIMING_WRITE (R398). A write of NBT or DBT is accepted in CONFIG within limits, or refused. -/
  | canTimingWrite (t : Time) (m : Master) (n : Fin 16) (d : Bool) (v : Word)
  /-- RX (R405). A received frame reaches its acceptance point, is filtered and queued. -/
  | canRx (t : Time) (n : Fin 16) (f : CanFrame) (sof arb : Time) (res : CanRxAt)
  /-- RXQ_POP (R407). A read of RXQ POP0 removes the head CAN record and holds it. -/
  | rxqPop (t : Time) (m : Master) (n : Fin 16) (q : Fin 2) (i : Fin 20) (wide : Bool)
  /-- TX_REQ (R408). A write of TX_REQ makes a buffer pending, or is refused. -/
  | txReq (t : Time) (m : Master) (n : Fin 16) (v : Word)
  /-- TX_ABORT (R411). A write of TX_ABORT withdraws a pending buffer. -/
  | txAbort (t : Time) (m : Master) (n : Fin 16) (v : Word)
  /-- CAN_TX_SELECT (R409). Before start of frame the controller selects the pending buffer that would win. -/
  | canTxSelect (t : Time) (n : Fin 16)
  /-- CAN_TX_ATTEMPT_END (R410). A transmit attempt ends in success, arbitration loss or error. -/
  | canTxAttemptEnd (t : Time) (n : Fin 16) (res : CanEnd) (tdc : Option Nat)
  /-- BOFF_REC (R413). CAN CMD BOFF_REC starts bus-off recovery, or is refused. -/
  | boffRec (t : Time) (m : Master) (n : Fin 16)
  /-- BOFF_RECOVERED (R413). 128 recessive sequences end bus-off recovery. -/
  | boffRecovered (t : Time) (n : Fin 16)
  /-- ETH_FRAME_RECEIVE (R421). A frame reaches the internal port of a race and is delivered by EtherType. -/
  | ethFrameReceive (t : Time) (n : Fin 4) (bytes : List Byte) (ok : Bool) (stamp : Time) (buf : DWord)
  /-- EGRESS_SELECT (R418). An egress port starts the head frame of the highest open queue that fits its gate. -/
  | egressSelect (t : Time) (n : Fin 4)
  /-- GCL_CYCLE_START (R419). A gate-list cycle starts on the race's PTP clock. -/
  | gclCycleStart (t : Time) (n : Fin 4)
  /-- GCL_CHANGE (R420). A write of GCL_CTRL.CHANGE sets PEND for a bank swap. -/
  | gclChange (t : Time) (m : Master) (n : Fin 4)
  /-- GCL_SWAP (R420). The gate-list banks swap at the cycle start at or after GCL_CHANGE_AT. -/
  | gclSwap (t : Time) (n : Fin 4)
  /-- PDELAY_REQUEST (R424). A port originates Pdelay_Req every 2^LOG_INT s. -/
  | pdelayRequest (t : Time) (n : Fin 4)
  /-- PDELAY_RESPONSE (R424). A peer-delay exchange completes or fails and asCapable is judged. -/
  | pdelayResponse (t : Time) (n : Fin 4) (x : Option PdelayRes)
  /-- SYNC_RECEIVED (R425). A Sync on the slave port goes to Fantail and is relayed. -/
  | syncReceived (t : Time) (n : Fin 4) (bytes : List Byte) (stamp : Time) (buf : DWord)
  /-- SYNC_ORIGINATE (R426). A grandmaster race originates a Sync every 2^LOG_SYNC s. -/
  | syncOriginate (t : Time) (r : Fin 2)
  /-- DOMAIN_LOST (R428). No Sync for SYNC_LOSS_N intervals loses the domain and may switch selection. -/
  | domainLost (t : Time) (r : Fin 2)
  /-- FT_SELECT (R429). FT_CMD.SELECT selects a tracked clock, or is refused. -/
  | ftSelect (t : Time) (m : Master) (r : Fin 2)
  /-- FDB_FLUSH (R447). FDB_CMD.FLUSH clears learned entries. -/
  | fdbFlush (t : Time) (m : Master) (r : Fin 2)
  /-- LINK_UP (R445). An SGMII link comes up. -/
  | linkUp (t : Time) (n : Fin 4) (slow : Bool)
  /-- LINK_DOWN (R445). An SGMII link goes down. -/
  | linkDown (t : Time) (n : Fin 4)
  /-- RED_CYCLE_INSTANT (R431). A redundancy cycle instant arrives; switches, double forwarding and broadcasts act. -/
  | redCycleInstant (t : Time)
  /-- RED_SKEW_EXPIRY (R434). The second copy does not arrive within RED_SKEW and the race is judged bad. -/
  | redSkewExpiry (t : Time)
  /-- RACE_OK (R436). HOLDOFF passes without failure and the race's FAIL clears. -/
  | raceOk (t : Time) (r : Fin 2)
  /-- RED_CTRL_WRITE (R438). A write of RED_CTRL changes PREF or settings, or is refused. -/
  | redCtrlWrite (t : Time) (m : Master) (v : Word)
  /-- DRILL (R440). RED_CMD.DRILL starts a race-swap drill, or is refused. -/
  | drill (t : Time) (m : Master)
  /-- SAFETY_TICK (R453). A safety tick falls; the stalled pair is released or BW_CORE is raised. -/
  | safetyTick (t : Time)
  /-- CYC_WAIT_READ (R453). A read of CYC_WAIT by the pair stalls until the next tick. -/
  | cycWaitRead (t : Time)
  /-- STO_CMD_WRITE (R456). A pair write of STO_CMD enables or withdraws both STO channels at one edge. -/
  | stoCmdWrite (t : Time) (m : Option Master) (v : Word)
  /-- STO_KICK (R456). A pair write of STO_KICK keeps the STO channels alive. -/
  | stoKick (t : Time) (m : Option Master)
  /-- STO_KICK_TIMEOUT (R456). No kick for 2 x CYC withdraws a channel. -/
  | stoKickTimeout (t : Time)
  /-- STO_DISCREPANCY (R457). A pin or the two channels disagree for 2 us. -/
  | stoDiscrepancy (t : Time) (pin : Bool)
  /-- LOCKSTEP (R450). The checker finds BW0 and BW1 divergent and raises LOCKSTEP. -/
  | lockstep (t : Time) (pc : Fin 1048576)
  /-- BW_CLOCK (R451). The island clock is absent or off frequency. -/
  | bwClock (t : Time)
  /-- BW_SUPPLY (R451). A supply stays outside its window for 1 us. -/
  | bwSupply (t : Time)
  /-- SAFE_MONITOR_EDGE (R461). A safe monitor accepts an edge or valid word and evaluates its checks. -/
  | safeMonitorEdge (t : Time) (n : Fin 48) (x : SmIn)
  /-- XCHECK (R462). Every 1 us the monitor compares its count with the port counter. -/
  | xcheck (t : Time) (n : Fin 48)
  /-- SM_FLAGS_CLEAR (R462). A pair W1C write clears monitor flags. -/
  | smFlagsClear (t : Time) (m : Option Master) (k : Fin 4) (v : DWord)
  /-- PREQ_WRITE (R463). A pair write of PREQ requests a level for axes. -/
  | preqWrite (t : Time) (m : Option Master) (i : Fin 8) (v : Word)
  /-- SG_HOLD_WRITE (R464). A write of SG_CTRL.HOLD holds or releases the safety group. -/
  | sgHoldWrite (t : Time) (m : Option Master) (on : Bool)
  /-- FAULT_REPORT (R465). A fault report reaches the ladder and levels are recomputed and applied. -/
  | faultReport (t : Time)
  /-- RECOVERY_WINDOW_END (R468). The RECOV window of a report closes. -/
  | recoveryWindowEnd (t : Time)
  /-- AXIS_DEGRADE_TIMEOUT (R466). The island DEG_TIME of a slotless axis at L2 runs out and it goes to L3. -/
  | axisDegradeTimeout (t : Time) (a : Fin 64)
  /-- AXIS_STOP_TIMEOUT (R466). STOP_TMAX of a slotless axis at L3 runs out and it goes to L4. -/
  | axisStopTimeout (t : Time) (a : Fin 64)
  /-- FCLR (R469). A write of FCLR clears an inactive fault, or is refused. -/
  | fclr (t : Time) (m : Option Master) (v : Word)
  /-- DIAG_DUE (R471). A required periodic pass is overdue and DIAG_DUE is set. -/
  | diagDue (t : Time)
  /-- MIRAST_SEND (R475). A producer sends a Mirast frame on both races at its period. -/
  | mirastSend (t : Time) (c : Fin 16)
  /-- MIRAST_PAIR_TIMEOUT (R477). SKEW runs out with a pair incomplete and the consumer degrades. -/
  | mirastPairTimeout (t : Time) (c : Fin 16)
  /-- MIR_TIMEOUT (R479). TMO passes without a new frame and the consumer fails. -/
  | mirTimeout (t : Time) (c : Fin 16)
  /-- MIR_DEGRADED (R479). DEG_T passes in DEGRADED and the consumer fails. -/
  | mirDegraded (t : Time) (c : Fin 16)
  /-- CONN_COMMIT (R475). CONN CMD COMMIT sets the payload of a producer. -/
  | connCommit (t : Time) (m : Option Master)
  /-- CONN_OPEN (R479). CONN CMD OPEN takes a consumer to WAIT. -/
  | connOpen (t : Time) (m : Option Master)
  /-- CONN_CLOSE (R479). CONN CMD CLOSE takes a connection to CLOSED. -/
  | connClose (t : Time) (m : Option Master)
  /-- SESSION_OPEN (R481). SESS_CMD OPEN starts password verification, or is refused. -/
  | sessionOpen (t : Time) (m : Master) (len : Fin 64)
  /-- PASSWORD_VERIFIED (R481). Verification ends and the session opens or PW_FAIL is posted. -/
  | passwordVerified (t : Time)
  /-- LOCKOUT_END (R481). The 60 s lockout after five failures ends. -/
  | lockoutEnd (t : Time)
  /-- SESSION_CLOSE (R482). SESS_CMD CLOSE by the owner ends the session. -/
  | sessionClose (t : Time) (m : Master)
  /-- SESSION_TIMEOUT (R482). SESS_TMO passes and the session ends. -/
  | sessionTimeout (t : Time)
  /-- SET_PW (R482). SESS_CMD SET_PW stores a new password hash. -/
  | setPw (t : Time) (m : Master) (len : Fin 64)
  /-- SEAL (R484). SESS_CMD SEAL clears the change log if the CRC matches. -/
  | seal (t : Time) (m : Master)
  /-- PT_OPEN (R485). SESS_CMD PT_OPEN opens a proof-test session and halts the pair. -/
  | ptOpen (t : Time) (m : Master)
  /-- PT_CLOSE (R485). SESS_CMD PT_CLOSE closes proof test and restarts the pair. -/
  | ptClose (t : Time) (m : Master)
  /-- SQ_DOORBELL (R493). A write of SQ TAIL offers descriptors to the fetcher. -/
  | sqDoorbell (t : Time) (m : Master) (r : Fin 8) (v : Word)
  /-- DESCRIPTOR_FETCH (R499). The fetcher takes a descriptor and accepts its tag or completes it with TAG_BUSY or TAG_GEN. -/
  | descriptorFetch (t : Time) (d : Vector Word 8)
  /-- REG_READ (R495). Ring command: one register read at DADDR. -/
  | regRead (t : Time) (r : Fin 8)
  /-- REG_WRITE (R495). Ring command: one register write at DADDR. -/
  | regWrite (t : Time) (r : Fin 8)
  /-- COPY_IN (R495). Ring command: copy from host to a memory window or the pond. -/
  | copyIn (t : Time) (r : Fin 8) (data : List Word) (ok : Bool)
  /-- COPY_OUT (R495). Ring command: copy from device memory to the host. -/
  | copyOut (t : Time) (r : Fin 8) (n : Fin 65536) (ok : Bool)
  /-- TX_FRAME (R495). Ring command: send a frame to the internal port of a race. -/
  | txFrame (t : Time) (r : Fin 8) (bytes : List Byte) (ok : Bool)
  /-- HOST_NOP (R495). Ring command that completes at once. -/
  | hostNop (t : Time) (r : Fin 8)
  /-- COMMAND_COMPLETION (R496). A command ends and its completion is written to its CQ. -/
  | commandCompletion (t : Time) (r : Fin 8)
  /-- COMPLETION_ACK (R500). A write of CQ HEAD acknowledges completions and frees tags. -/
  | completionAck (t : Time) (m : Master) (r : Fin 8) (v : Word)
  /-- TAG_ABORT (R501). A write of HOST.ABORT aborts a busy command and quarantines its tag. -/
  | tagAbort (t : Time) (m : Master) (v : Word)
  /-- TAG_QUARANTINE_END (R501). 2 ms of quarantine end and the tag index becomes FREE. -/
  | tagQuarantineEnd (t : Time) (i : Fin 8192)
  /-- EVENT_RING_WRITE (R497). Q4 records are written to the host event ring and EV_TAIL written back. -/
  | eventRingWrite (t : Time)
  /-- FR_TAIL_WRITE (R498). A write of FR TAIL supplies frame buffers. -/
  | frTailWrite (t : Time) (m : Master) (f : Fin 2) (v : Word)
  /-- VEC_EOI (R505). A write of VEC_EOI resends a still-pending MSI-X vector. -/
  | vecEoi (t : Time) (m : Master) (v : Word)
  /-- PCIE_RESET (R494). Link down, hot reset or FLR disables rings and quarantines tags. -/
  | pcieReset (t : Time) (down : Bool)
  /-- SPI_FRAME (R508). SPI_nCS rises and the frame is judged, accepted or discarded. -/
  | spiFrame (t : Time) (clocks : Fin 256) (mosi : BitVec 72) (idle mode3 : Bool) (first : Time)
  /-- SPI_READ (R508). SPI opcode READ performs one 32-bit read for delivery in a later frame. -/
  | spiRead (t : Time) (a : BitVec 24) (mode3 : Bool) (first : Time)
  /-- SPI_WRITE (R508). SPI opcode WRITE performs one 32-bit write. -/
  | spiWrite (t : Time) (a : BitVec 24) (v : Word) (mode3 : Bool) (first : Time)
  /-- SPI_NOP (R507). SPI opcode NOP performs no access and returns status. -/
  | spiNop (t : Time) (mode3 : Bool) (first : Time)
  /-- PWR_EN_RISE (R516). A filtered rise of PWR_EN starts power-up at P2. -/
  | pwrEnRise (t : Time)
  /-- PWR_EN_FALL (R518). A filtered fall of PWR_EN starts a power-down. -/
  | pwrEnFall (t : Time)
  /-- POWER_UP_STEP (R516). A power-up step completes and the next begins, up to release at P6. -/
  | powerUpStep (t : Time) (x : UpStep)
  /-- POWER_UP_TIMEOUT (R517). A group or PLL is not ready in time and power-up fails to WATCH. -/
  | powerUpTimeout (t : Time) (item : Fin 7)
  /-- POWER_DOWN_STEP (R519). A power-down step D1-D4 completes. -/
  | powerDownStep (t : Time)
  /-- BROWN_OUT (R515). A supply stays below its window for 1 us and the device powers down. -/
  | brownOut (t : Time) (supply : Fin 6) (collapse : Bool)
  /-- RESET_ASSERT (R520). A filtered low on nRST turns outputs off and holds STANDBY. -/
  | resetAssert (t : Time)
  /-- RESET_RELEASE (R520). A filtered rise of nRST starts power-up at P4 or P3. -/
  | resetRelease (t : Time)
  /-- RESET_LONG (R521). nRST is held low for more than 10 s. -/
  | resetLong (t : Time)
  /-- VBAK_GOOD (R27). VBAK becomes good and the device enters WATCH. -/
  | vbakGood (t : Time)
  /-- VBAK_LOST (R27). VBAK is lost and the device enters OFF. -/
  | vbakLost (t : Time)
  /-- SETTLE_DROP (R525). A transmit request held during PLL relock reaches 1 ms and is dropped. -/
  | settleDrop (t : Time) (k : Fin 5)
  /-- CFS_WRITE (R526). CFS CMD WRITE starts a journalled transaction, or is refused. -/
  | cfsWrite (t : Time) (m : Master)
  /-- CFS_READ (R537). CFS CMD READ reads LEN words into BUF. -/
  | cfsRead (t : Time) (m : Master)
  /-- CFS_DONE (R526). A configuration-store transaction retires its journal entry. -/
  | cfsDone (t : Time)
  /-- RTC_SET (R530). A write of RTC_SET sets the RTC at the next BCLK edge. -/
  | rtcSet (t : Time) (m : Master) (v : DWord)
  /-- XTAL_FAIL (R530). BCLK stops for 1 ms and XTAL_FAIL is set. -/
  | xtalFail (t : Time)
  /-- BSRAM_DATA_READ (R531). A read of BSRAM_DATA returns a backup word and advances the address. -/
  | bsramDataRead (t : Time) (m : Master)
  /-- BSRAM_DATA_WRITE (R531). A write of BSRAM_DATA stores a backup word and advances the address. -/
  | bsramDataWrite (t : Time) (m : Master) (v : Word)
  /-- FREC_ACK (R532). A write of FREC_ACK releases a kept fault record. -/
  | frecAck (t : Time) (m : Master)
  /-- CELL_ABSENT (R533). The charger detects no cell and stops. -/
  | cellAbsent (t : Time)
  /-- CHARGER_RETRY (R533). Every 10 s the charger tries 10 ms of constant current. -/
  | chargerRetry (t : Time) (draws : Bool)
  /-- GAUGE_TEST (R534). Every 60 s the gauge applies a test load and corrects the count. -/
  | gaugeTest (t : Time) (v : Fin 65536) (q : Int)
  /-- BIST_START (R539). BIST CMD START starts a run on the target, or is refused. -/
  | bistStart (t : Time) (m : Master)
  /-- BIST_ABORT (R542). BIST CMD ABORT ends the run in progress. -/
  | bistAbort (t : Time) (m : Master)
  /-- BIST_RUN_END (R542). A run reaches its last operation, memories are zeroed and the result written. -/
  | bistRunEnd (t : Time) (x : BistResult)
  /-- BIST_REPAIR (R545). BIST CMD REPAIR writes a proposed spare to the repair table, or is refused. -/
  | bistRepair (t : Time) (m : Master) (i : Fin 8)
  /-- PLL_RELOCK (R24). A SerDes, PCIe or PLL_C PLL locks again, its flag clears, held transmit requests and DMAs proceed and CAN controllers rejoin. -/
  | pllRelock (t : Time) (p : Pll)
  /-- CHOP_MIN_ON_END (R183). MIN_ON elapses with the DC-link value already at or below CHOP_OFF and the brake chopper turns off. -/
  | chopMinOnEnd (t : Time) (n : Fin 48)
  /-- CHOPPER_BLANK_END (R327). BLANK elapses in state ON with the peak flag already set, and the stepper chopper enters fast decay. -/
  | chopperBlankEnd (t : Time) (n : Fin 48) (x : Fin 2)
  /-- FO_SILENT (R391). The control side sees no refresh from a field output's coupler for 20 us and reports FO_SILENT to the Brakewheel. -/
  | foSilent (t : Time) (j : Fin 32)
  /-- FO_REFRESH_RETURN (R391). An output coupler link returns and the field die's LOGIC_SILENT is reported on the control die. -/
  | foRefreshReturn (t : Time) (j : Fin 32)
  /-- RECESSIVE_SEQUENCE (R413). A CAN controller sees 11 consecutive recessive bits, which counts a bus-off recovery sequence or lets it take part again after an error, protocol exception or relock. -/
  | recessiveSequence (t : Time) (n : Fin 16) (res : Bool)
  /-- CAN_RX_ERROR (R412). A CAN controller detects an error in a frame it is receiving, which changes REC, may change the error state and posts BUS_ERROR. -/
  | canRxError (t : Time) (n : Fin 16) (type : Fin 5) (eights : CanSteps)
  /-- PCIE_LINK_UP (R490). The PCIe link trains and comes up, which sets HOST.STAT.LINK_UP, SPEED and WIDTH and raises the LINK change interrupt. -/
  | pcieLinkUp (t : Time) (gen : Fin 4) (width : Fin 3)
  /-- SPI_READ_DONE (R509). The register read of an accepted SPI READ frame completes and its result waits for delivery in the next frame. -/
  | spiReadDone (t : Time)
  /-- BAR2_READ (R376). A host BAR2 read of Hopper memory checks parity and counts and posts each bad word. -/
  | bar2Read (t : Time) (a : BitVec 25) (w : Width)
  /-- ERR_TOGGLE (R460). Every HALF us, ERRA and ERRB toggle in antiphase while their channels are active. -/
  | errToggle (t : Time)
  /-- CHARGER_THRESHOLD (R533). The charger changes phase when VBAK reaches 3.1 V, when the current falls below ICHG/10, or when VBAK falls below 3.0 V. -/
  | chargerThreshold (t : Time) (k : Fin 3)
deriving DecidableEq, Repr

end Sys2Proof
end

