-- ==== Sys2Proof/Decode.lean ====
section
/-! DEFINITION. The command that a word of the command table spells: no row of the table has bits, so no word spells a
command. (The words of the Stone instruction set are read by `Machine.opOf` and `Machine.legal`.) -/

namespace Sys2Proof

/-- The command of a word of the command table: none, since no row of the table gives bits. -/
def decodeTableWord (_nbits _w : Nat) : Option Instr := none

end Sys2Proof
end

