-- ==== Sys2Proof/Config.lean ====
section
/-! DEFINITION. What the spec leaves open: values with no body, so that no proof can see them
(assumption log 2). -/

namespace Sys2Proof

/-- A fresh open value: applied to `State.freeCtr`, which each use advances (assumption log 2). -/
opaque Config.freeValue : Nat → BitVec 64

/-- Word `i` of the filters of Q5 for the source numbers and codes (as `LT.EVT` holds them) of the latch channels that
take Weir events: R79 says that the filters follow from them, and not how (assumption log 12). -/
opaque Config.latchFilter (events : List Nat) (i : Nat) : BitVec 32

/-- Where the sampling windows of field input `i` lie, for the instant from which its configuration stands: R381 gives
their distance and not their phase, which is that of the field die's own clock (assumption log 195). -/
opaque Config.fiPhase (i since : Nat) : Nat

/-- The load of the busiest fabric link over the last 1 ms, in percent, as `HOST.LOAD` shows it at an instant: the slots
of the fabric are no state of the spec (assumption log 204). -/
opaque Config.fabricLoad (now : Nat) : Fin 101

/-- The rounding of a value that is carried with 2^-32 count (R303, R334, R339), for a value whose
numerator and denominator are given: used only where the carried precision decides the result
(assumption log 46). -/
opaque Config.carryUp : Int → Nat → Bool

end Sys2Proof
end

