-- ==== Sys2Proof/Machine/Bits.lean ====
section
/-! DEFINITION. Bit fields, signs, saturation and the sparse tables in canonical form. -/

namespace Sys2Proof.Machine

/-- Bits [hi:lo] of a natural number. -/
def bitsN (v hi lo : Nat) : Nat := (v >>> lo) % 2 ^ (hi + 1 - lo)
/-- Field [hi:lo] of a word. -/
def wfld (w : Word) (hi lo : Nat) : Nat := bitsN w.toNat hi lo
/-- The word with field [hi:lo] set to `v`, taken modulo the field's width. -/
def wput (w : Word) (hi lo v : Nat) : Word :=
  let m := (2 ^ (hi + 1 - lo) - 1) <<< lo
  (w &&& ~~~(BitVec.ofNat 32 m)) ||| BitVec.ofNat 32 ((v <<< lo) &&& m)
/-- Bit `i` of a word. -/
def wbit (w : Word) (i : Nat) : Bool := w.toNat.testBit i
/-- Bit `i` of a natural number. -/
def bitN (v i : Nat) : Bool := v.testBit i
/-- 1 for true, 0 for false. -/
def b2n (b : Bool) : Nat := if b then 1 else 0
/-- The signed value of the low `n` bits. -/
def sx (n v : Nat) : Int := (BitVec.ofNat n v).toInt
/-- An integer as `n` bits, in two's complement. -/
def ux (n : Nat) (v : Int) : Nat := (BitVec.ofInt n v).toNat
/-- A value clamped to [lo, hi]. -/
def clampI (lo hi v : Int) : Int := max lo (min hi v)
/-- A value clamped to [lo, hi]. -/
def clampN (lo hi v : Nat) : Nat := max lo (min hi v)
/-- A value clamped to the signed range of `n` bits. -/
def satI (n : Nat) (v : Int) : Int := clampI (-(2 ^ (n - 1) : Nat)) ((2 ^ (n - 1) : Nat) - 1) v
/-- 0 is treated as 1. -/
def nz (v : Nat) : Nat := if v = 0 then 1 else v
/-- The first TCLK edge at or after an instant: TCLK edges are the whole nanoseconds of the GTC (R53). -/
def ceilEdge (t : Time) : Time := (t + 15) / 16 * 16
/-- The last TCLK edge at or before an instant. -/
def floorEdge (t : Time) : Time := t / 16 * 16
/-- Nanoseconds as fine ticks (R4, R2). -/
def ns (n : Nat) : Time := 16 * n
/-- Microseconds as fine ticks. -/
def us (n : Nat) : Time := 16000 * n
/-- Milliseconds as fine ticks. -/
def ms (n : Nat) : Time := 16000000 * n
/-- Seconds as fine ticks. -/
def sec (n : Nat) : Time := 16000000000 * n
/-- Ceiling of a quotient. -/
def cdiv (a b : Nat) : Nat := (a + b - 1) / b
/-- The bits of the list as a mask: bit i is set when `f i` holds. -/
def maskOf (n : Nat) (f : Nat → Bool) : Nat :=
  (List.range n).foldl (fun a i => if f i then a + 2 ^ i else a) 0

/-- The element at `i`, or the default value beyond the end. -/
def vget {α} {n : Nat} [Inhabited α] (v : Vector α n) (i : Nat) : α :=
  if h : i < n then v[i] else default
/-- The bank with the element at `i` changed by `f`; unchanged when `i` is beyond the end. -/
def vupd {α} {n : Nat} (v : Vector α n) (i : Nat) (f : α → α) : Vector α n :=
  if h : i < n then v.set i (f v[i]) else v

/-- Reads a sparse table: the value at `k`, or `d` where nothing is listed. -/
def tget {α} (d : α) : List (Nat × α) → Nat → α
  | [], _ => d
  | (a, v) :: r, k => if a = k then v else if k < a then d else tget d r k
/-- Writes a sparse table in canonical form: `some v` lists `v` at `k`, `none` removes the entry. -/
def tput {α} : List (Nat × α) → Nat → Option α → List (Nat × α)
  | [], _, none => []
  | [], k, some v => [(k, v)]
  | (a, w) :: r, k, v =>
    if a = k then (match v with | none => r | some x => (k, x) :: r)
    else if k < a then (match v with | none => (a, w) :: r | some x => (k, x) :: (a, w) :: r)
    else (a, w) :: tput r k v
/-- Writes `v` at `k`, keeping no entry that equals what an unlisted key reads as, `d`. -/
def tset {α} [DecidableEq α] (d : α) (m : List (Nat × α)) (k : Nat) (v : α) : List (Nat × α) :=
  tput m k (if v = d then none else some v)
/-- The canonical form of a sparse table: keys strictly rising and no entry equal to the default of its key. -/
def twf {α} [DecidableEq α] (d : Nat → α) : List (Nat × α) → Bool
  | [] => true
  | [(a, v)] => decide (v ≠ d a)
  | (a, v) :: (b, w) :: r => decide (v ≠ d a) && decide (a < b) && twf d ((b, w) :: r)

end Sys2Proof.Machine
end

