-- ==== Sys2Proof/Machine/RegTable.lean ====
section
/-! DEFINITION. The register tables of the spec (R31 to R37, R60, R70, R82 and the register table
of every block chapter): for each register its offset in its page, its array dimensions, its
width, the bits under each access code (R8) and its reset value; and an address for every
register by the spec's name. -/

namespace Sys2Proof.Machine

/-- One register row. `dims` are (count, stride) pairs, outermost first; the masks give the bits
under each access code of R8, every other bit is RO or reserved; `clamp` holds (hi, lo, min, max). -/
structure RegRow where
  off : Nat
  dims : List (Nat × Nat) := []
  wide : Bool := false
  rw : Nat := 0
  rwl : Nat := 0
  rws : Nat := 0
  w1c : Nat := 0
  w1s : Nat := 0
  wo : Nat := 0
  rc : Nat := 0
  reset : Nat := 0
  clamp : List (Nat × Nat × Nat × Nat) := []
deriving DecidableEq, Repr, Inhabited

namespace RegTable

/-- Registers of a SYS page (01, R31). -/
def sys : List RegRow := [
  { off := 0x40, reset := 0x23 },
  { off := 0x44, rwl := 0x1, wo := 0x2 },
  { off := 0x48 },
  { off := 0x4c, rc := 0xffff },
  { off := 0x50, w1c := 0x7 },
  { off := 0x54 }]

/-- Registers of a PTP page (03, R60). -/
def ptp : List RegRow := [
  { off := 0x40, wide := true },
  { off := 0x48, wide := true },
  { off := 0x50, wide := true, rw := 0xffffffffff, reset := 0x100000000 },
  { off := 0x58, wide := true, wo := 0xffffffffffffffff },
  { off := 0x60, rw := 0x1fffff, reset := 0x3fd00 },
  { off := 0x64 },
  { off := 0x68, wide := true },
  { off := 0x70, wide := true },
  { off := 0x78, wo := 0x1 },
  { off := 0x7c, rc := 0xffff },
  { off := 0x80, rw := 0x1ffff, reset := 0x1012c, clamp := [(15, 0, 10, 65535)] },
  { off := 0x84 },
  { off := 0x88, wo := 0x1 },
  { off := 0x8c },
  { off := 0x100, rw := 0xffff00ff, reset := 0x640030 },
  { off := 0x104, rw := 0xfffffff, reset := 0x1e848, clamp := [(27, 0, 10000, 10000000)] },
  { off := 0x108, rw := 0xfffff, reset := 0x4e20 },
  { off := 0x10c, wo := 0x1 },
  { off := 0x110 },
  { off := 0x114, rw := 0xffff, reset := 0x40 },
  { off := 0x140, rw := 0x707, reset := 0x500 },
  { off := 0x144, rw := 0xffff, reset := 0x88b6 },
  { off := 0x148, rw := 0xffff },
  { off := 0x150, wide := true, rw := 0xffffffffffffffff },
  { off := 0x158, wide := true, rw := 0xffffffffffffffff },
  { off := 0x160, wide := true, rw := 0xffffffffffff },
  { off := 0x168, rw := 0x1fff },
  { off := 0x16c, rc := 0xffffffff },
  { off := 0x170 },
  { off := 0x800, dims := [(64, 0x8)], wide := true, rw := 0x8007ffffffffffff }]

/-- Registers of a TIME page (03, R70). -/
def time : List RegRow := [
  { off := 0x40, wide := true },
  { off := 0x48, rwl := 0x1, wo := 0x2 },
  { off := 0x4c, reset := 0x1 },
  { off := 0x50, rw := 0xffffff, reset := 0x3e8, clamp := [(23, 0, 100, 10000000)] },
  { off := 0x54, w1s := 0x1, rw := 0xffff003e, reset := 0x3e80000 },
  { off := 0x58, wide := true },
  { off := 0x60 },
  { off := 0x64 },
  { off := 0x68, wide := true },
  { off := 0x70, wide := true },
  { off := 0x78, wide := true },
  { off := 0x80, wide := true },
  { off := 0x88, wide := true },
  { off := 0x90, wide := true },
  { off := 0x98, wide := true },
  { off := 0xa0, wide := true },
  { off := 0xa8 },
  { off := 0xb0, wide := true },
  { off := 0xb8, wide := true }]

/-- Registers of a WEIR page (03, R82). -/
def weir : List RegRow := [
  { off := 0x40, reset := 0x140 },
  { off := 0x44 },
  { off := 0x48, rc := 0xffff },
  { off := 0x4c, rc := 0xffff },
  { off := 0x50, wide := true, wo := 0xffffffffffffffff },
  { off := 0x100, dims := [(8, 0x20)], rw := 0x1ff0001, reset := 0x10000 },
  { off := 0x104, dims := [(8, 0x20)] },
  { off := 0x108, dims := [(8, 0x20)], rc := 0xffff },
  { off := 0x110, dims := [(8, 0x20), (4, 0x4)] },
  { off := 0x400, dims := [(8, 0x100), (16, 0x10)], rw := 0x83ff03ff },
  { off := 0x408, dims := [(8, 0x100), (16, 0x10)], wide := true, rw := 0xffffffffffffffff }]

/-- Registers of a FBP page (04, R116). -/
def fbp : List RegRow := [
  { off := 0x40, rw := 0x7ffff },
  { off := 0x44, rw := 0xffff, reset := 0x5 },
  { off := 0x48, rw := 0xffffffff, reset := 0x640010 },
  { off := 0x4c, rc := 0xffff },
  { off := 0x50 },
  { off := 0x54, w1c := 0x3f },
  { off := 0x58, wide := true },
  { off := 0x60, wide := true, rw := 0xffffffffffffffff, reset := 0xffff800000000000 },
  { off := 0x68, wide := true, rw := 0xffffffffffffffff, reset := 0x7fffffffffff },
  { off := 0x70 },
  { off := 0x74, wo := 0x1f },
  { off := 0x78, wide := true, rw := 0xffffffffffffffff },
  { off := 0x80, rw := 0x7ff, reset := 0x8 },
  { off := 0x84, rw := 0xffffffff, reset := 0xc350 },
  { off := 0x88, rw := 0xffffffff, reset := 0xf4240 },
  { off := 0x90, wide := true },
  { off := 0x98, wide := true },
  { off := 0xa0, wide := true },
  { off := 0xa8, rw := 0xffff0003 },
  { off := 0xc0, rw := 0x3ff07ff, reset := 0x19 },
  { off := 0xc4, rw := 0x3fff, reset := 0x3e8, clamp := [(13, 0, 100, 10000)] },
  { off := 0xc8, rw := 0xfffff },
  { off := 0xcc, rw := 0xfffff },
  { off := 0xd0, rw := 0xfffff, reset := 0x4e20 },
  { off := 0xd4, rw := 0x1fffff, reset := 0x150003 },
  { off := 0xd8, rw := 0x7fffff, reset := 0xc0bb8, clamp := [(16, 0, 500, 90000)] },
  { off := 0xdc, rw := 0xff0f, reset := 0x3 },
  { off := 0xe0, wide := true },
  { off := 0xe8, wide := true },
  { off := 0xf0 },
  { off := 0xf4, rc := 0xffffffff },
  { off := 0xf8, rc := 0xffff },
  { off := 0x100, rw := 0x3fff, reset := 0x3e8, clamp := [(13, 0, 100, 10000)] },
  { off := 0x104, rw := 0xffffffff, reset := 0x3333333 },
  { off := 0x108, wide := true, rw := 0xffffffffffffffff, reset := 0x64000000 },
  { off := 0x110, wide := true }]

/-- Registers of a SDM page (05, R138). -/
def sdm : List RegRow := [
  { off := 0x40, rw := 0xff01ff, reset := 0x190032, clamp := [(7, 0, 40, 200)] },
  { off := 0x44, rw := 0x1f1f },
  { off := 0x48 },
  { off := 0x4c, w1c := 0x1ff },
  { off := 0x50 },
  { off := 0x54, rc := 0xffff },
  { off := 0x60, dims := [(4, 0x10)], rw := 0xff3f3fff, reset := 0x8100400 },
  { off := 0x64, dims := [(4, 0x10)] },
  { off := 0x68, dims := [(4, 0x10)] },
  { off := 0x6c, dims := [(4, 0x10)] },
  { off := 0xa0, dims := [(4, 0x10)], rw := 0x7 },
  { off := 0xa4, dims := [(4, 0x10)], rw := 0xffffffff, reset := 0x7fffffff },
  { off := 0xa8, dims := [(4, 0x10)], rw := 0xffffffff, reset := 0x80000000 },
  { off := 0xac, dims := [(4, 0x10)], rw := 0xffffffff, reset := 0x1000000 }]

/-- Registers of a AUXADC page (05, R139). -/
def auxadc : List RegRow := [
  { off := 0x40, rw := 0x1ff },
  { off := 0x44 },
  { off := 0x48, rc := 0xffff },
  { off := 0x100, dims := [(8, 0x20)] },
  { off := 0x104, dims := [(8, 0x20)], rw := 0xffff0fff },
  { off := 0x108, dims := [(8, 0x20)], wide := true },
  { off := 0x110, dims := [(8, 0x20)] }]

/-- Registers of a PWM page (06, R162). -/
def pwm : List RegRow := [
  { off := 0x40, rw := 0xff01ff },
  { off := 0x44 },
  { off := 0x48, rws := 0xffffffff, reset := 0x30d40 },
  { off := 0x50, wide := true, rws := 0xffffffffffffffff },
  { off := 0x58, rws := 0xffffffff },
  { off := 0x5c, rws := 0x1ffff },
  { off := 0x60, dims := [(8, 0x4)], rws := 0xffffffff },
  { off := 0x80, dims := [(4, 0x8)], rws := 0x3ffff, reset := 0x3e80, clamp := [(17, 0, 0, 256000)] },
  { off := 0x84, dims := [(4, 0x8)], rws := 0x3ffff, reset := 0x3e80, clamp := [(17, 0, 0, 256000)] },
  { off := 0xa0, rw := 0xffff },
  { off := 0xa4, rw := 0xffffffff },
  { off := 0xa8, rw := 0x7f },
  { off := 0xac, rw := 0xffffff },
  { off := 0xb0, rw := 0x1ffff, reset := 0xaaaa },
  { off := 0xb4, reset := 0xaaaa0000 },
  { off := 0xc0, dims := [(8, 0x4)], rw := 0xffff, reset := 0xaaaa },
  { off := 0xe0, rc := 0xffff },
  { off := 0xe4, rc := 0xffffffff },
  { off := 0xe8, rc := 0xffff },
  { off := 0xf0 },
  { off := 0xf8, wide := true }]

/-- Registers of a PSP page (07, R185). -/
def psp : List RegRow := [
  { off := 0x40, rwl := 0xffff03, reset := 0xa6400 },
  { off := 0x44 },
  { off := 0x48 },
  { off := 0x4c },
  { off := 0x50, wo := 0xfffff },
  { off := 0x54, rc := 0xffff },
  { off := 0x58, wide := true, rwl := 0xffffffffffffffff },
  { off := 0x60, rwl := 0xffff, reset := 0x10 },
  { off := 0x64, rwl := 0xffff, reset := 0x3e8 },
  { off := 0x68, rwl := 0xffff, reset := 0x7d0 },
  { off := 0x6c },
  { off := 0x70, wo := 0x1f },
  { off := 0x74 },
  { off := 0x78, rc := 0xffffffff },
  { off := 0x80, rwl := 0xffffff07, reset := 0x1404 },
  { off := 0x84, rwl := 0xffffffff, reset := 0x7fffffff },
  { off := 0x88, rwl := 0xffffffff, reset := 0x70000000 },
  { off := 0x8c, rwl := 0xffffffff },
  { off := 0x100, dims := [(20, 0x4)], rwl := 0xffff3f, reset := 0xff10 }]

/-- Registers of a CORE page (08, R220). -/
def core : List RegRow := [
  { off := 0x40, w1s := 0x1f, rw := 0x60 },
  { off := 0x44, reset := 0x8 },
  { off := 0x48, rw := 0xfffff },
  { off := 0x4c },
  { off := 0x50 },
  { off := 0x54 },
  { off := 0x58 },
  { off := 0x5c, rc := 0xffffffff },
  { off := 0x60, wide := true },
  { off := 0x68, rc := 0xffffff },
  { off := 0x70, dims := [(4, 0x4)], rw := 0x800fffff },
  { off := 0x80, dims := [(2, 0x4)], rw := 0x80ffffff },
  { off := 0x90, rw := 0xff },
  { off := 0x94, rw := 0xffffffff },
  { off := 0xa0, dims := [(8, 0x8)], rw := 0x3fffff },
  { off := 0xa4, dims := [(8, 0x8)], rw := 0x870fffff }]

/-- Registers of a MW page (08, R221). -/
def mw : List RegRow := [
  { off := 0x100, rw := 0xfffff },
  { off := 0x104, rw := 0xfffffffc, reset := 0x3 },
  { off := 0x108 },
  { off := 0x10c, w1s := 0x1 },
  { off := 0x110 },
  { off := 0x114, rw := 0x80ffffff, reset := 0x3e8 },
  { off := 0x118, wo := 0xffffffff },
  { off := 0x120, dims := [(4, 0x8)], wide := true, rw := 0xffffffffffffffff },
  { off := 0x140, rw := 0xf },
  { off := 0x180, dims := [(24, 0x4)], rw := 0x80ffff1f }]

/-- Registers of a SLUICE page (10, R262). -/
def sluice : List RegRow := [
  { off := 0x300, dims := [(64, 0x30)], rw := 0xffffffff, reset := 0x21600000 },
  { off := 0x304, dims := [(64, 0x30)], rw := 0x3 },
  { off := 0x308, dims := [(64, 0x30)], rw := 0xff1f, reset := 0xf000 },
  { off := 0x30c, dims := [(64, 0x30)], rw := 0x3f3f3f },
  { off := 0x310, dims := [(64, 0x30)], rw := 0x7f7f7f, reset := 0x20210 },
  { off := 0x314, dims := [(64, 0x30)], rw := 0x3fffffff },
  { off := 0x318, dims := [(64, 0x30)], rw := 0xfffffff, reset := 0x2710 },
  { off := 0x320, dims := [(64, 0x30)], wide := true, rw := 0xffffffffffffffff },
  { off := 0x328, dims := [(64, 0x30)], rc := 0xffffffff },
  { off := 0x32c, dims := [(64, 0x30)] },
  { off := 0x40, rw := 0x1 },
  { off := 0x44, rw := 0xfffffff, reset := 0xf000000 },
  { off := 0x48 },
  { off := 0x4c, rc := 0xffffff },
  { off := 0x50, rw := 0x1f1f, w1s := 0x30000 },
  { off := 0x58, wide := true, rw := 0xffffffffffffffff },
  { off := 0x60 },
  { off := 0x68, wide := true },
  { off := 0x100, dims := [(28, 0x8)], rw := 0xff },
  { off := 0x104, dims := [(28, 0x8)], reset := 0x1 }]

/-- Registers of a AXIS page (12, R329). -/
def axis : List RegRow := [
  { off := 0x40, rw := 0x7f7f },
  { off := 0x44, rw := 0x1ff, reset := 0x8 },
  { off := 0x48, wo := 0x7f },
  { off := 0x4c },
  { off := 0x50, rw := 0x3ff },
  { off := 0x54 },
  { off := 0x58 },
  { off := 0x60, wide := true, rw := 0xffffffffffffffff },
  { off := 0x68, wide := true, rw := 0xffffffffffffffff },
  { off := 0x70, wide := true, rw := 0xffffffffffffffff },
  { off := 0x78, wide := true, rw := 0xffffffffffffffff },
  { off := 0x80, wide := true, rw := 0xffffffffffffffff },
  { off := 0x88, wide := true, rw := 0xffffffffffffffff },
  { off := 0x90, wide := true },
  { off := 0x98, wide := true },
  { off := 0xa0, wide := true },
  { off := 0xa8, wide := true },
  { off := 0xb0, wide := true, rw := 0xffffffffffffffff },
  { off := 0xb8 },
  { off := 0xc0, rw := 0xffffffff },
  { off := 0xc4, rw := 0xffffffff },
  { off := 0xc8, rw := 0xffff, reset := 0x64 },
  { off := 0xcc, rw := 0x1fffff, reset := 0x42864, clamp := [(9, 0, 5, 400), (15, 10, 1, 50)] },
  { off := 0xd0, rw := 0xffffffff },
  { off := 0xd4, rw := 0xffffffff },
  { off := 0xe0, dims := [(6, 0x4)], rw := 0x87ffffff },
  { off := 0xf8 },
  { off := 0x100, dims := [(6, 0x4)], rws := 0xffffffff }]

/-- Registers of a IGRP page (12, R330). -/
def igrp : List RegRow := [
  { off := 0x40, rw := 0x1f3f01 },
  { off := 0x48, wide := true, rw := 0xffffffffffffffff },
  { off := 0x50, wo := 0x1f },
  { off := 0x54 },
  { off := 0x58, wide := true, rw := 0xffffffffffffffff },
  { off := 0x60, wide := true, rw := 0xffffffffffffffff },
  { off := 0x68, wide := true, rw := 0xffffffffffffffff },
  { off := 0x70, wide := true, rw := 0xffffffffffffffff },
  { off := 0x78, wide := true },
  { off := 0x80, wide := true },
  { off := 0x88, wide := true },
  { off := 0x100, rw := 0x3f, w1s := 0x700 },
  { off := 0x104 },
  { off := 0x110, wide := true, rw := 0xffffffffffff },
  { off := 0x118, wide := true, rw := 0x3fffffffffffffff },
  { off := 0x120, wide := true },
  { off := 0x128, wide := true }]

/-- Registers of a WALL page (13, R350). -/
def wall : List RegRow := [
  { off := 0x40, rw := 0x3f },
  { off := 0x44, rw := 0x3f },
  { off := 0x48, wide := true },
  { off := 0x50, wide := true },
  { off := 0x300, dims := [(8, 0x40)], rw := 0x1, w1s := 0x2 },
  { off := 0x308, dims := [(8, 0x40)], wide := true, rw := 0xffffffffffffffff },
  { off := 0x310, dims := [(8, 0x40)], wide := true, rw := 0xffffffffffffffff },
  { off := 0x318, dims := [(8, 0x40)], wide := true, rw := 0xffffffffffffffff },
  { off := 0x320, dims := [(8, 0x40)], wide := true },
  { off := 0x328, dims := [(8, 0x40)], wide := true },
  { off := 0x600, dims := [(16, 0x10)], rw := 0x33fffff, reset := 0x2000000 },
  { off := 0x604, dims := [(16, 0x10)], rw := 0xfffff, reset := 0x3e8, clamp := [(19, 0, 1, 1000000)] },
  { off := 0x608, dims := [(16, 0x10)], wide := true }]

/-- Registers of a GL page (13, R350). -/
def gl : List RegRow := [
  { off := 0x100, rw := 0x1f3f313f },
  { off := 0x104, wo := 0xf },
  { off := 0x108, rw := 0xffffffff, reset := 0x1 },
  { off := 0x10c, rw := 0xffffffff, reset := 0x1 },
  { off := 0x110, wide := true, rw := 0xffffffffffffffff },
  { off := 0x118, wide := true, rw := 0xffffffffffffffff },
  { off := 0x120, wide := true, rw := 0xffffffffffffffff },
  { off := 0x128, wide := true, rw := 0xffffffffffffffff },
  { off := 0x130, wide := true, rw := 0xffffffffffffffff },
  { off := 0x138, rw := 0x7f3f },
  { off := 0x13c },
  { off := 0x140, wide := true },
  { off := 0x148, wide := true },
  { off := 0x150, wide := true },
  { off := 0x158, wide := true }]

/-- Registers of a CT page (13, R350). -/
def ct : List RegRow := [
  { off := 0x200, rw := 0x1fff, reset := 0x1000 },
  { off := 0x208, wide := true, rw := 0xffffffffffffffff, reset := 0x100000000 },
  { off := 0x210, wide := true, rw := 0xffffffffffffffff },
  { off := 0x218 }]

/-- Registers of a CAPT page (13, R360). -/
def capt : List RegRow := [
  { off := 0x40, rw := 0x7f },
  { off := 0x44, rw := 0xffffffff },
  { off := 0x48, rw := 0xffffffff },
  { off := 0x4c },
  { off := 0x50 },
  { off := 0x54, rw := 0x1fff, reset := 0x1 },
  { off := 0x58, rc := 0xffff },
  { off := 0x5c, rw := 0xffff },
  { off := 0x60, dims := [(4, 0x4)] },
  { off := 0x80, dims := [(8, 0x4)] }]

/-- Registers of a LT page (13, R360). -/
def lt : List RegRow := [
  { off := 0x100, rw := 0x7ffffff },
  { off := 0x104, rw := 0xffff },
  { off := 0x108, wo := 0x3 },
  { off := 0x10c },
  { off := 0x110, wide := true, rw := 0xffffffffffffffff },
  { off := 0x118, wide := true, rw := 0xffffffffffffffff },
  { off := 0x120, rw := 0xffffffff, reset := 0xf4240 }]

/-- Registers of a HOPPER page (14, R378). -/
def hopper : List RegRow := [
  { off := 0x40, rw := 0xffff0007 },
  { off := 0x44, wo := 0xf },
  { off := 0x48 },
  { off := 0x4c, rw := 0xffff001f, reset := 0xff0010 },
  { off := 0x50, rw := 0xfff, reset := 0x800 },
  { off := 0x58, wide := true, rw := 0xffffffffffffffff },
  { off := 0x60, rw := 0x3fff },
  { off := 0x64, rw := 0xffffffff, reset := 0x3e8 },
  { off := 0x68, wide := true, rw := 0xffffffffffff },
  { off := 0x70, wide := true, rw := 0x3fffffffffffffff },
  { off := 0x78 },
  { off := 0x7c },
  { off := 0x80 },
  { off := 0x84, rw := 0xffff },
  { off := 0x88, rw := 0x3 },
  { off := 0x90, wide := true, rw := 0xffffffffffffffff },
  { off := 0x98, rw := 0x1ffff, reset := 0x100 },
  { off := 0x9c },
  { off := 0xa0, rw := 0xffffffff },
  { off := 0xa4, rc := 0xffff },
  { off := 0xa8, rc := 0xffff },
  { off := 0xac, rc := 0xffff },
  { off := 0xb0, rc := 0xffff },
  { off := 0xc0, dims := [(4, 0x4)] },
  { off := 0x100, dims := [(4, 0x20), (4, 0x4)], rw := 0xffffffff },
  { off := 0x110, dims := [(4, 0x20), (4, 0x4)], rw := 0xffffffff },
  { off := 0x180, dims := [(8, 0x10)], rw := 0xff },
  { off := 0x184, dims := [(8, 0x10)], rw := 0xffffffff },
  { off := 0x188, dims := [(8, 0x10)], rw := 0xffffffff },
  { off := 0x200, dims := [(64, 0x4)], rw := 0xffffff },
  { off := 0x300, dims := [(40, 0x4)], rw := 0x1fff07 },
  { off := 0x3c0, dims := [(8, 0x4)], rw := 0x8000ffff },
  { off := 0x400, dims := [(32, 0x4)], rc := 0xffff }]

/-- Registers of a FIELD page (15, R395). -/
def field : List RegRow := [
  { off := 0x40, rw := 0x1 },
  { off := 0x44 },
  { off := 0x48, wo := 0x1 },
  { off := 0x50, wide := true, rw := 0xffffffffffffffff },
  { off := 0x58 },
  { off := 0x5c },
  { off := 0x100, dims := [(32, 0x20)], rw := 0xfffff, reset := 0xc6480, clamp := [(17, 8, 1, 1000)] },
  { off := 0x104, dims := [(32, 0x20)], rw := 0xffff, reset := 0x3e8, clamp := [(15, 0, 1, 64000)] },
  { off := 0x108, dims := [(32, 0x20)] },
  { off := 0x110, dims := [(32, 0x20)], wide := true },
  { off := 0x500, dims := [(32, 0x20)], rw := 0x3ff03ff, reset := 0x640000, clamp := [(25, 16, 20, 1000)] },
  { off := 0x504, dims := [(32, 0x20)], rw := 0xfffff, reset := 0x3e8, clamp := [(19, 0, 200, 1000000)] },
  { off := 0x508, dims := [(32, 0x20)], rws := 0xffffffff },
  { off := 0x50c, dims := [(32, 0x20)] },
  { off := 0x510, dims := [(32, 0x20)], wo := 0x7 },
  { off := 0x514, dims := [(32, 0x20)], rw := 0xff0fff, reset := 0x32070a, clamp := [(23, 16, 0, 50)] },
  { off := 0x518, dims := [(32, 0x20)] }]

/-- Registers of a CAN page (16, R415). -/
def can : List RegRow := [
  { off := 0x40, rw := 0xfff1f },
  { off := 0x44 },
  { off := 0x48, rw := 0x7ffffff, reset := 0x1f3efc1 },
  { off := 0x4c, rw := 0x3ffffff, reset := 0x101dfc0 },
  { off := 0x50 },
  { off := 0x54, rc := 0xffffffff },
  { off := 0x58, rc := 0xffff },
  { off := 0x5c, wo := 0x1 },
  { off := 0x60, rw := 0x3, reset := 0x3 },
  { off := 0x64 },
  { off := 0x68, rw := 0x1f },
  { off := 0x70, dims := [(2, 0x10)] },
  { off := 0x74, dims := [(2, 0x10)], rw := 0x7f, reset := 0x1 },
  { off := 0x78, dims := [(2, 0x10)], rc := 0xffff },
  { off := 0x90, w1s := 0xffffffff },
  { off := 0x94 },
  { off := 0x98, w1s := 0xffffffff },
  { off := 0x200, dims := [(2, 0x80), (20, 0x4)] },
  { off := 0x400, dims := [(128, 0x8)], rw := 0xffffffff },
  { off := 0x404, dims := [(128, 0x8)], rw := 0xffffffff },
  { off := 0x3e0, dims := [(8, 0x4)], rw := 0xffffffff }]

/-- Registers of a TXB page (16, R415). -/
def txb : List RegRow := [
  { off := 0x300, rw := 0xffffffff },
  { off := 0x304, rw := 0x1f },
  { off := 0x308 },
  { off := 0x310, wide := true },
  { off := 0x320, dims := [(16, 0x4)], rw := 0xffffffff }]

/-- Registers of a ETH page (17, R446). -/
def eth : List RegRow := [
  { off := 0x40, rw := 0xff, reset := 0x2 },
  { off := 0x44 },
  { off := 0x48 },
  { off := 0x4c },
  { off := 0x50, rw := 0xffff },
  { off := 0x54, rw := 0xffff },
  { off := 0x58, rw := 0xffffffff, reset := 0x3200300 },
  { off := 0x5c, rw := 0xffffff, reset := 0xfac688 },
  { off := 0x60, rc := 0xffffffff },
  { off := 0x64, rc := 0xffffffff },
  { off := 0x68, rc := 0xffff },
  { off := 0x6c, rc := 0xffffffff },
  { off := 0x80, rw := 0xff01, w1s := 0x2, reset := 0xff00 },
  { off := 0x84, rw := 0x1ff, reset := 0x1, clamp := [(8, 0, 1, 256)] },
  { off := 0x88, rw := 0xffffffff, reset := 0x1e848, clamp := [(31, 0, 1000, 1000000000)] },
  { off := 0x90, wide := true, rw := 0xffffffffffffffff },
  { off := 0x98, wide := true, rw := 0xffffffffffffffff },
  { off := 0xa0, rc := 0xffff },
  { off := 0x400, dims := [(256, 0x4)], rw := 0xffffffff, reset := 0xffffffff }]

/-- Registers of a BRAKE page (18, R488). -/
def brake : List RegRow := [
  { off := 0x40, rwl := 0xffffff, reset := 0xa0064, clamp := [(15, 0, 10, 10000)] },
  { off := 0x44 },
  { off := 0x48, rw := 0x3 },
  { off := 0x4c, wo := 0xffffffff },
  { off := 0x50 },
  { off := 0x54, rwl := 0xffff, reset := 0x32, clamp := [(15, 0, 10, 10000)] },
  { off := 0x58, rwl := 0xffffffff, reset := 0x7d003e8 },
  { off := 0x5c, rwl := 0xffff, reset := 0x2238 },
  { off := 0x60, wo := 0x7fff },
  { off := 0x68, wide := true },
  { off := 0x70, rwl := 0xffffffff },
  { off := 0x74, rwl := 0x3ff0001, reset := 0x640000, clamp := [(25, 16, 20, 1000)] },
  { off := 0x78, rwl := 0xffff },
  { off := 0x7c, rwl := 0xffff, reset := 0x88b5 },
  { off := 0x80, wide := true, rwl := 0xffffffffffff },
  { off := 0x88, wide := true, rwl := 0xffffffffffff },
  { off := 0x90, rwl := 0xffff },
  { off := 0x94, rc := 0xffff },
  { off := 0x98, rwl := 0xfffff },
  { off := 0xa0, dims := [(8, 0x4)], rw := 0x77777777 },
  { off := 0xc0, dims := [(8, 0x4)] },
  { off := 0xe0, dims := [(4, 0x8)], wide := true, w1c := 0xffffffffffffffff },
  { off := 0x100, dims := [(8, 0x4)], rwl := 0xffffffff },
  { off := 0x120, rw := 0x3f },
  { off := 0x124, rw := 0x1f },
  { off := 0x128 },
  { off := 0x130, dims := [(4, 0x4)] },
  { off := 0x140, dims := [(8, 0x4)], wo := 0xffffffff },
  { off := 0x160, rw := 0xffff },
  { off := 0x164, wo := 0x3f3f },
  { off := 0x168 },
  { off := 0x16c, rwl := 0xffff, reset := 0x12c, clamp := [(15, 0, 10, 65535)] },
  { off := 0x170 },
  { off := 0x174, rw := 0x3ff },
  { off := 0x178, rw := 0xffffffff },
  { off := 0x17c },
  { off := 0x180, dims := [(8, 0x4)] },
  { off := 0x600, dims := [(16, 0x10)], rw := 0x83ff03ff },
  { off := 0x608, dims := [(16, 0x10)], wide := true, rw := 0xffffffffffffffff },
  { off := 0x800, dims := [(16, 0x40), (16, 0x4)] },
  { off := 0xc00, dims := [(16, 0x40), (16, 0x4)], rw := 0xffffffff }]

/-- Registers of a SM page (18, R488). -/
def sm : List RegRow := [
  { off := 0x200, rwl := 0x1fffff },
  { off := 0x204, rwl := 0xffff, reset := 0x5 },
  { off := 0x208, rwl := 0xffffffff },
  { off := 0x20c, rwl := 0xffff },
  { off := 0x210, rwl := 0xffffffff, reset := 0x80000000 },
  { off := 0x214, rwl := 0xffffffff, reset := 0x7fffffff },
  { off := 0x218, rwl := 0xffffffff, reset := 0x640010 },
  { off := 0x21c },
  { off := 0x220 }]

/-- Registers of a CONN page (18, R488). -/
def conn : List RegRow := [
  { off := 0x400, rwl := 0xffff00ff },
  { off := 0x404, rwl := 0xffffffff, reset := 0xffffffff },
  { off := 0x408, rwl := 0xffffffff, reset := 0xfa0, clamp := [(31, 0, 100, 1000000)] },
  { off := 0x40c, wo := 0x3 },
  { off := 0x410 },
  { off := 0x414, rwl := 0xffff },
  { off := 0x418, rwl := 0xffffffff, reset := 0x64, clamp := [(31, 0, 10, 10000)] },
  { off := 0x41c, rwl := 0xffffffff, reset := 0xa, clamp := [(31, 0, 1, 6000)] },
  { off := 0x420, rwl := 0xffffffff, reset := 0x14 },
  { off := 0x424, rwl := 0x7fff, reset := 0x10 },
  { off := 0x428, rwl := 0xffffffff, reset := 0x2710 },
  { off := 0x430, wide := true, rwl := 0xffffffffffffffff },
  { off := 0x438, rc := 0xffffffff }]

/-- Registers of a HOST page (19, R511). -/
def host : List RegRow := [
  { off := 0x40 },
  { off := 0x44 },
  { off := 0x48, rc := 0xffffffff },
  { off := 0x4c, wo := 0xffff },
  { off := 0x50 },
  { off := 0x54, rw := 0xffff },
  { off := 0x58 },
  { off := 0x5c, wo := 0x3f },
  { off := 0x60, wide := true, rw := 0xffffffffffffffff },
  { off := 0x68, wide := true, rw := 0xffffffffffffffff },
  { off := 0x70, rw := 0x1f, reset := 0x8 },
  { off := 0x74, rw := 0xfff },
  { off := 0x78 },
  { off := 0x80, dims := [(8, 0x40)], wide := true, rw := 0xffffffffffffffff },
  { off := 0x88, dims := [(8, 0x40)], wide := true, rw := 0xffffffffffffffff },
  { off := 0x90, dims := [(8, 0x40)], rw := 0xf7f, reset := 0x148 },
  { off := 0x94, dims := [(8, 0x40)], rw := 0xfff },
  { off := 0x98, dims := [(8, 0x40)] },
  { off := 0x9c, dims := [(8, 0x40)], rw := 0xfff },
  { off := 0xa0, dims := [(8, 0x40)] },
  { off := 0x280, dims := [(2, 0x20)], wide := true, rw := 0xffffffffffffffff },
  { off := 0x288, dims := [(2, 0x20)], rw := 0x1f, reset := 0x8 },
  { off := 0x28c, dims := [(2, 0x20)], rw := 0xfff },
  { off := 0x290, dims := [(2, 0x20)] },
  { off := 0x294, dims := [(2, 0x20)], rc := 0xffff },
  { off := 0x300, dims := [(48, 0x4)], rw := 0xbfffff1f },
  { off := 0xc00, dims := [(2, 0x4)] }]

/-- Registers of a SPI page (19, R513). -/
def spi : List RegRow := [
  { off := 0x40 },
  { off := 0x44, rc := 0xffffffff },
  { off := 0x48, rc := 0xffffffff },
  { off := 0x4c, rc := 0xffff }]

/-- Registers of a PWR page (20, R536). -/
def pwr : List RegRow := [
  { off := 0x40 },
  { off := 0x44, w1c := 0x7f },
  { off := 0x48 },
  { off := 0x4c },
  { off := 0x50, w1s := 0x1 },
  { off := 0x58, wide := true },
  { off := 0x60, wide := true, rwl := 0x7fffffffffffffff },
  { off := 0x68, rw := 0x1ff, clamp := [(8, 1, 10, 200)] },
  { off := 0x6c, rw := 0xffffffff },
  { off := 0x70 },
  { off := 0x74 },
  { off := 0x80, rw := 0x3ff },
  { off := 0x84, rw := 0xffffffff }]

/-- Registers of a CFS page (20, R537). -/
def cfs : List RegRow := [
  { off := 0x40 },
  { off := 0x44, rw := 0x1fffff },
  { off := 0x48, rw := 0x7f, reset := 0x1 },
  { off := 0x4c, wo := 0x3 },
  { off := 0x100, dims := [(64, 0x4)], rw := 0xffffffff }]

/-- Registers of a BIST page (21, R548). -/
def bist : List RegRow := [
  { off := 0x40, wo := 0x707 },
  { off := 0x44, rw := 0xfffff, reset := 0x1 },
  { off := 0x48 },
  { off := 0x4c },
  { off := 0x50, rc := 0xffffffff },
  { off := 0x54 },
  { off := 0x58 },
  { off := 0x60 },
  { off := 0x100, dims := [(8, 0x8)] },
  { off := 0x104, dims := [(8, 0x8)] }]

/-- The common page header (R37). -/
def header (ty : Nat) : List RegRow := [
  { off := 0x0 }, { off := 0x4, rw := 0x5, w1s := 0x2 }, { off := 0x8 }, { off := 0xc, w1c := 0xffffffff },
  { off := 0x10, rw := 0xffffffff }, { off := 0x14, wo := 0xffffffff }, { off := 0x18, rwl := if ty = 0xf ∨ ty = 0x13 then 0x7 else 0xffff0007 },
  { off := 0x1c, rw := 0x1, w1s := 0x2 }]

/-- The block rows of a page type (R32); the types from 0x40 on are the windowed banks, which the
model keeps at addresses of their own beyond BAR0 (assumption log 4). -/
def rows (ty : Nat) : List RegRow :=
  match ty with
  | 0x1 => sys
  | 0x13 => ptp
  | 0x2 => time
  | 0x3 => weir
  | 0x4 => fbp
  | 0x5 => sdm
  | 0x19 => auxadc
  | 0x6 => pwm
  | 0x7 => psp
  | 0x9 => core ++ mw
  | 0xa => sluice
  | 0xb => axis
  | 0xc => igrp
  | 0xd => wall
  | 0x40 => gl
  | 0x41 => ct
  | 0xe => capt
  | 0x42 => lt
  | 0xf => hopper
  | 0x10 => field
  | 0x11 => can
  | 0x48 => txb
  | 0x12 => eth
  | 0x14 => brake
  | 0x43 => sm
  | 0x44 => conn
  | 0x15 => host
  | 0x1a => spi
  | 0x16 => pwr
  | 0x18 => cfs
  | 0x17 => bist
  | 0x8 => core
  | 0x49 => txb
  | _ => []

end RegTable

/-- The base address of instance `n` of page type `ty` (R32). -/
def pageBase (ty n : Nat) : Nat := ty * 0x100000 + n * 0x1000

/-- The base that makes the offsets of R220 addresses: STONE pages for 0 to 27, MW pages for 28 to
31, and the debug block of the BRAKE page for the Brakewheel pair, 32. -/
def coreBase (c : Nat) : Nat :=
  if c < 28 then pageBase 0x8 c else if c < 32 then pageBase 0x9 (c - 28) else 0x14002c0

namespace R

namespace SYS
abbrev base : Nat := pageBase 0x1 0
abbrev DEV_STATE : Nat := base + 0x40
abbrev RUN_CTRL : Nat := base + 0x44
abbrev CLK_MON : Nat := base + 0x48
abbrev FAB_STAT : Nat := base + 0x4c
abbrev MAP_ERR : Nat := base + 0x50
abbrev MAP_ADDR : Nat := base + 0x54
end SYS
namespace PTP
abbrev base (n : Nat) : Nat := pageBase 0x13 n
abbrev SEC (n : Nat) : Nat := base n + 0x40
abbrev NSF (n : Nat) : Nat := base n + 0x48
abbrev INCR (n : Nat) : Nat := base n + 0x50
abbrev OFFSET (n : Nat) : Nat := base n + 0x58
abbrev FT_CFG (n : Nat) : Nat := base n + 0x60
abbrev FT_STAT (n : Nat) : Nat := base n + 0x64
abbrev FT_OFFSET (n : Nat) : Nat := base n + 0x68
abbrev FT_OFS_GTC (n : Nat) : Nat := base n + 0x70
abbrev FT_CMD (n : Nat) : Nat := base n + 0x78
abbrev FT_ERR (n : Nat) : Nat := base n + 0x7c
abbrev FDB_AGE (n : Nat) : Nat := base n + 0x80
abbrev FDB_COUNT (n : Nat) : Nat := base n + 0x84
abbrev FDB_CMD (n : Nat) : Nat := base n + 0x88
abbrev BUF_STAT (n : Nat) : Nat := base n + 0x8c
abbrev RED_CTRL (n : Nat) : Nat := base n + 0x100
abbrev RED_CYCLE (n : Nat) : Nat := base n + 0x104
abbrev RED_SKEW (n : Nat) : Nat := base n + 0x108
abbrev RED_CMD (n : Nat) : Nat := base n + 0x10c
abbrev RED_STAT (n : Nat) : Nat := base n + 0x110
abbrev DRILL_CFG (n : Nat) : Nat := base n + 0x114
abbrev ABF_CTRL (n : Nat) : Nat := base n + 0x140
abbrev ABF_ETYPE (n : Nat) : Nat := base n + 0x144
abbrev ABF_DEV_ID (n : Nat) : Nat := base n + 0x148
abbrev ABF_AXES (n : Nat) : Nat := base n + 0x150
abbrev ABF_SRC (n : Nat) : Nat := base n + 0x158
abbrev ABF_DST (n : Nat) : Nat := base n + 0x160
abbrev ABF_VID (n : Nat) : Nat := base n + 0x168
abbrev ABF_DROP (n : Nat) : Nat := base n + 0x16c
abbrev ABF_SEQ (n : Nat) : Nat := base n + 0x170
abbrev FDB_STATIC (n i : Nat) : Nat := base n + 0x800 + 0x8 * i
end PTP
namespace TIME
abbrev base : Nat := pageBase 0x2 0
abbrev GTC : Nat := base + 0x40
abbrev MT_CTRL : Nat := base + 0x48
abbrev MT_STAT : Nat := base + 0x4c
abbrev GUARD : Nat := base + 0x50
abbrev SNAP_CTRL : Nat := base + 0x54
abbrev C_NS : Nat := base + 0x58
abbrev C_FRAC : Nat := base + 0x60
abbrev SNAP_INFO : Nat := base + 0x64
abbrev SNAP_GTC : Nat := base + 0x68
abbrev SNAP_PTP0_SEC : Nat := base + 0x70
abbrev SNAP_PTP0_NSF : Nat := base + 0x78
abbrev SNAP_PTP1_SEC : Nat := base + 0x80
abbrev SNAP_PTP1_NSF : Nat := base + 0x88
abbrev SNAP_C_NS : Nat := base + 0x90
abbrev SNAP_INCR0 : Nat := base + 0x98
abbrev SNAP_INCR1 : Nat := base + 0xa0
abbrev SNAP_C_FRAC : Nat := base + 0xa8
abbrev MT_SEC : Nat := base + 0xb0
abbrev MT_NSF : Nat := base + 0xb8
end TIME
namespace WEIR
abbrev base : Nat := pageBase 0x3 0
abbrev HORIZON : Nat := base + 0x40
abbrev STAT : Nat := base + 0x44
abbrev LATE : Nat := base + 0x48
abbrev BURST : Nat := base + 0x4c
abbrev INJ : Nat := base + 0x50
abbrev Q_CTRL (i : Nat) : Nat := base + 0x100 + 0x20 * i
abbrev Q_LEVEL (i : Nat) : Nat := base + 0x104 + 0x20 * i
abbrev Q_DROP (i : Nat) : Nat := base + 0x108 + 0x20 * i
abbrev Q_POP (i j : Nat) : Nat := base + 0x110 + 0x20 * i + 0x4 * j
abbrev FLT_SRC (i j : Nat) : Nat := base + 0x400 + 0x100 * i + 0x10 * j
abbrev FLT_CODE (i j : Nat) : Nat := base + 0x408 + 0x100 * i + 0x10 * j
end WEIR
namespace FBP
abbrev base (n : Nat) : Nat := pageBase 0x4 n
abbrev CTRL (n : Nat) : Nat := base n + 0x40
abbrev EDGE (n : Nat) : Nat := base n + 0x44
abbrev GLITCH_CFG (n : Nat) : Nat := base n + 0x48
abbrev GLITCH_CNT (n : Nat) : Nat := base n + 0x4c
abbrev STAT (n : Nat) : Nat := base n + 0x50
abbrev FAULT (n : Nat) : Nat := base n + 0x54
abbrev COUNT (n : Nat) : Nat := base n + 0x58
abbrev LIM_LO (n : Nat) : Nat := base n + 0x60
abbrev LIM_HI (n : Nat) : Nat := base n + 0x68
abbrev OVR (n : Nat) : Nat := base n + 0x70
abbrev POS_CMD (n : Nat) : Nat := base n + 0x74
abbrev POS_SET_VAL (n : Nat) : Nat := base n + 0x78
abbrev VEL_CFG (n : Nat) : Nat := base n + 0x80
abbrev WIN_TIME (n : Nat) : Nat := base n + 0x84
abbrev ZERO_TO (n : Nat) : Nat := base n + 0x88
abbrev LAST_EDGE (n : Nat) : Nat := base n + 0x90
abbrev INDEX_STAMP (n : Nat) : Nat := base n + 0x98
abbrev INDEX_POS (n : Nat) : Nat := base n + 0xa0
abbrev STEP_CFG (n : Nat) : Nat := base n + 0xa8
abbrev SER_CFG (n : Nat) : Nat := base n + 0xc0
abbrev SER_CLK (n : Nat) : Nat := base n + 0xc4
abbrev SER_LEAD (n : Nat) : Nat := base n + 0xc8
abbrev SER_LAT (n : Nat) : Nat := base n + 0xcc
abbrev SER_TMO (n : Nat) : Nat := base n + 0xd0
abbrev SER_CRC (n : Nat) : Nat := base n + 0xd4
abbrev SENT_CFG (n : Nat) : Nat := base n + 0xd8
abbrev SER_DIAG (n : Nat) : Nat := base n + 0xdc
abbrev SER_RAW (n : Nat) : Nat := base n + 0xe0
abbrev SER_STAMP (n : Nat) : Nat := base n + 0xe8
abbrev SENT_SLOW (n : Nat) : Nat := base n + 0xf0
abbrev SER_ERRCNT (n : Nat) : Nat := base n + 0xf4
abbrev SER_ERRCNT2 (n : Nat) : Nat := base n + 0xf8
abbrev DIAG_INT (n : Nat) : Nat := base n + 0x100
abbrev ICMD_THR (n : Nat) : Nat := base n + 0x104
abbrev VCMD_THR (n : Nat) : Nat := base n + 0x108
abbrev USERS (n : Nat) : Nat := base n + 0x110
end FBP
namespace SDM
abbrev base (n : Nat) : Nat := pageBase 0x5 n
abbrev CLK_CFG (n : Nat) : Nat := base n + 0x40
abbrev AUX_SEL (n : Nat) : Nat := base n + 0x44
abbrev STAT (n : Nat) : Nat := base n + 0x48
abbrev FAULT (n : Nat) : Nat := base n + 0x4c
abbrev CMP_STAT (n : Nat) : Nat := base n + 0x50
abbrev ERRCNT (n : Nat) : Nat := base n + 0x54
abbrev IN_CFG (n i : Nat) : Nat := base n + 0x60 + 0x10 * i
abbrev IN_MAIN (n i : Nat) : Nat := base n + 0x64 + 0x10 * i
abbrev IN_FAST (n i : Nat) : Nat := base n + 0x68 + 0x10 * i
abbrev IN_CENTRE_ERR (n i : Nat) : Nat := base n + 0x6c + 0x10 * i
abbrev CMP_CFG (n i : Nat) : Nat := base n + 0xa0 + 0x10 * i
abbrev CMP_HI (n i : Nat) : Nat := base n + 0xa4 + 0x10 * i
abbrev CMP_LO (n i : Nat) : Nat := base n + 0xa8 + 0x10 * i
abbrev CMP_HYST (n i : Nat) : Nat := base n + 0xac + 0x10 * i
end SDM
namespace AUXADC
abbrev base (n : Nat) : Nat := pageBase 0x19 n
abbrev SCAN (n : Nat) : Nat := base n + 0x40
abbrev STAT (n : Nat) : Nat := base n + 0x44
abbrev LATE (n : Nat) : Nat := base n + 0x48
abbrev AIN_RESULT (n i : Nat) : Nat := base n + 0x100 + 0x20 * i
abbrev AIN_WIN_CFG (n i : Nat) : Nat := base n + 0x104 + 0x20 * i
abbrev AIN_STAMP (n i : Nat) : Nat := base n + 0x108 + 0x20 * i
abbrev AIN_WIN_STAT (n i : Nat) : Nat := base n + 0x110 + 0x20 * i
end AUXADC
namespace PWM
abbrev base (n : Nat) : Nat := pageBase 0x6 n
abbrev CTRL (n : Nat) : Nat := base n + 0x40
abbrev STAT (n : Nat) : Nat := base n + 0x44
abbrev PERIOD (n : Nat) : Nat := base n + 0x48
abbrev ANCHOR (n : Nat) : Nat := base n + 0x50
abbrev PHASE (n : Nat) : Nat := base n + 0x58
abbrev MINP (n : Nat) : Nat := base n + 0x5c
abbrev CMP (n i : Nat) : Nat := base n + 0x60 + 0x4 * i
abbrev DT_R (n i : Nat) : Nat := base n + 0x80 + 0x8 * i
abbrev DT_F (n i : Nat) : Nat := base n + 0x84 + 0x8 * i
abbrev TRIP_CFG (n : Nat) : Nat := base n + 0xa0
abbrev TRIP_LEN (n : Nat) : Nat := base n + 0xa4
abbrev COMM_CFG (n : Nat) : Nat := base n + 0xa8
abbrev COMM_DLY (n : Nat) : Nat := base n + 0xac
abbrev OVR_MASK (n : Nat) : Nat := base n + 0xb0
abbrev COMM_STAT (n : Nat) : Nat := base n + 0xb4
abbrev COMM_TAB (n i : Nat) : Nat := base n + 0xc0 + 0x4 * i
abbrev SHOOT_CNT (n : Nat) : Nat := base n + 0xe0
abbrev MINP_CNT (n : Nat) : Nat := base n + 0xe4
abbrev COMM_LATE (n : Nat) : Nat := base n + 0xe8
abbrev CNT (n : Nat) : Nat := base n + 0xf0
abbrev ZERO_REF (n : Nat) : Nat := base n + 0xf8
end PWM
namespace PSP
abbrev base (n : Nat) : Nat := pageBase 0x7 n
abbrev CTRL (n : Nat) : Nat := base n + 0x40
abbrev STAT (n : Nat) : Nat := base n + 0x44
abbrev LATCHED (n : Nat) : Nat := base n + 0x48
abbrev ACTIVE (n : Nat) : Nat := base n + 0x4c
abbrev CLEAR (n : Nat) : Nat := base n + 0x50
abbrev CBC_CNT (n : Nat) : Nat := base n + 0x54
abbrev ASC_VMIN (n : Nat) : Nat := base n + 0x58
abbrev ASC_DWELL (n : Nat) : Nat := base n + 0x60
abbrev DEG_TIME (n : Nat) : Nat := base n + 0x64
abbrev STOP_TMAX (n : Nat) : Nat := base n + 0x68
abbrev BW_REQ (n : Nat) : Nat := base n + 0x6c
abbrev TEST (n : Nat) : Nat := base n + 0x70
abbrev TEST_STAT (n : Nat) : Nat := base n + 0x74
abbrev TEST_CNT (n : Nat) : Nat := base n + 0x78
abbrev CHOP_CFG (n : Nat) : Nat := base n + 0x80
abbrev CHOP_ON (n : Nat) : Nat := base n + 0x84
abbrev CHOP_OFF (n : Nat) : Nat := base n + 0x88
abbrev CHOP_TIME (n : Nat) : Nat := base n + 0x8c
abbrev SRC_CFG (n i : Nat) : Nat := base n + 0x100 + 0x4 * i
end PSP
namespace CORE
abbrev CTRL (c : Nat) : Nat := coreBase c + 0x40
abbrev STAT (c : Nat) : Nat := coreBase c + 0x44
abbrev ENTRY (c : Nat) : Nat := coreBase c + 0x48
abbrev PC (c : Nat) : Nat := coreBase c + 0x4c
abbrev FAULT_CAUSE (c : Nat) : Nat := coreBase c + 0x50
abbrev FAULT_PC (c : Nat) : Nat := coreBase c + 0x54
abbrev FAULT_ADDR (c : Nat) : Nat := coreBase c + 0x58
abbrev ECC_CNT (c : Nat) : Nat := coreBase c + 0x5c
abbrev BUSY_CYC (c : Nat) : Nat := coreBase c + 0x60
abbrev RUN_MAX (c : Nat) : Nat := coreBase c + 0x68
abbrev BP (c i : Nat) : Nat := coreBase c + 0x70 + 0x4 * i
abbrev WP (c i : Nat) : Nat := coreBase c + 0x80 + 0x4 * i
abbrev DBG_SEL (c : Nat) : Nat := coreBase c + 0x90
abbrev DBG_DATA (c : Nat) : Nat := coreBase c + 0x94
abbrev MPU_BASE (c i : Nat) : Nat := coreBase c + 0xa0 + 0x8 * i
abbrev MPU_LIM (c i : Nat) : Nat := coreBase c + 0xa4 + 0x8 * i
end CORE
namespace MW
abbrev base (n : Nat) : Nat := pageBase 0x9 n
abbrev VBASE (n : Nat) : Nat := base n + 0x100
abbrev VEC_EN (n : Nat) : Nat := base n + 0x104
abbrev VEC_PEND (n : Nat) : Nat := base n + 0x108
abbrev DOORBELL (n : Nat) : Nat := base n + 0x10c
abbrev VEC_SRC (n : Nat) : Nat := base n + 0x110
abbrev WDOG (n : Nat) : Nat := base n + 0x114
abbrev WDOG_KICK (n : Nat) : Nat := base n + 0x118
abbrev TIMER (n i : Nat) : Nat := base n + 0x120 + 0x8 * i
abbrev TIMER_CTRL (n : Nat) : Nat := base n + 0x140
abbrev ROUTE (n i : Nat) : Nat := base n + 0x180 + 0x4 * i
end MW
namespace SLUICE
abbrev base : Nat := pageBase 0xa 0
abbrev AX_CFG (i : Nat) : Nat := base + 0x300 + 0x30 * i
abbrev AX_CTRL (i : Nat) : Nat := base + 0x304 + 0x30 * i
abbrev AX_PLACE (i : Nat) : Nat := base + 0x308 + 0x30 * i
abbrev AX_CLOSE (i : Nat) : Nat := base + 0x30c + 0x30 * i
abbrev AX_RES (i : Nat) : Nat := base + 0x310 + 0x30 * i
abbrev AX_BUDGET (i : Nat) : Nat := base + 0x314 + 0x30 * i
abbrev AX_TPERIOD (i : Nat) : Nat := base + 0x318 + 0x30 * i
abbrev AX_TANCHOR (i : Nat) : Nat := base + 0x320 + 0x30 * i
abbrev AX_MISS_CNT (i : Nat) : Nat := base + 0x328 + 0x30 * i
abbrev AX_STAT (i : Nat) : Nat := base + 0x32c + 0x30 * i
abbrev CTRL : Nat := base + 0x40
abbrev SPARE : Nat := base + 0x44
abbrev CHECK : Nat := base + 0x48
abbrev DROP : Nat := base + 0x4c
abbrev MIG_CMD : Nat := base + 0x50
abbrev MIG_AT : Nat := base + 0x58
abbrev MIG_STAT : Nat := base + 0x60
abbrev MIG_TM : Nat := base + 0x68
abbrev CORE_CFG (i : Nat) : Nat := base + 0x100 + 0x8 * i
abbrev CORE_STAT (i : Nat) : Nat := base + 0x104 + 0x8 * i
end SLUICE
namespace AXIS
abbrev base (n : Nat) : Nat := pageBase 0xb n
abbrev FB_SEL (n : Nat) : Nat := base n + 0x40
abbrev CTRL (n : Nat) : Nat := base n + 0x44
abbrev CMD (n : Nat) : Nat := base n + 0x48
abbrev STAT (n : Nat) : Nat := base n + 0x4c
abbrev Q_WR (n : Nat) : Nat := base n + 0x50
abbrev Q_RD (n : Nat) : Nat := base n + 0x54
abbrev Q_LEVEL (n : Nat) : Nat := base n + 0x58
abbrev VMAX (n : Nat) : Nat := base n + 0x60
abbrev AMAX (n : Nat) : Nat := base n + 0x68
abbrev DMAX (n : Nat) : Nat := base n + 0x70
abbrev JMAX (n : Nat) : Nat := base n + 0x78
abbrev STOP_DEC (n : Nat) : Nat := base n + 0x80
abbrev STOP_JERK (n : Nat) : Nat := base n + 0x88
abbrev POS_CMD (n : Nat) : Nat := base n + 0x90
abbrev VEL_CMD (n : Nat) : Nat := base n + 0x98
abbrev TARGET (n : Nat) : Nat := base n + 0xa0
abbrev REMAIN (n : Nat) : Nat := base n + 0xa8
abbrev SETPOS_VAL (n : Nat) : Nat := base n + 0xb0
abbrev TAG (n : Nat) : Nat := base n + 0xb8
abbrev STEP_IRUN (n : Nat) : Nat := base n + 0xc0
abbrev STEP_IHOLD (n : Nat) : Nat := base n + 0xc4
abbrev STEP_HOLD_DLY (n : Nat) : Nat := base n + 0xc8
abbrev STEP_CHOP (n : Nat) : Nat := base n + 0xcc
abbrev STEP_OFS_A (n : Nat) : Nat := base n + 0xd0
abbrev STEP_OFS_B (n : Nat) : Nat := base n + 0xd4
abbrev MS_TAB (n i : Nat) : Nat := base n + 0xe0 + 0x4 * i
abbrev STEP_STAT (n : Nat) : Nat := base n + 0xf8
abbrev USER (n i : Nat) : Nat := base n + 0x100 + 0x4 * i
end AXIS
namespace IGRP
abbrev base (n : Nat) : Nat := pageBase 0xc n
abbrev CTRL (n : Nat) : Nat := base n + 0x40
abbrev MEMBERS (n : Nat) : Nat := base n + 0x48
abbrev CMD (n : Nat) : Nat := base n + 0x50
abbrev STAT (n : Nat) : Nat := base n + 0x54
abbrev VMAX (n : Nat) : Nat := base n + 0x58
abbrev AMAX (n : Nat) : Nat := base n + 0x60
abbrev DMAX (n : Nat) : Nat := base n + 0x68
abbrev JMAX (n : Nat) : Nat := base n + 0x70
abbrev S (n : Nat) : Nat := base n + 0x78
abbrev SMAX (n : Nat) : Nat := base n + 0x80
abbrev VPATH (n : Nat) : Nat := base n + 0x88
abbrev SS_CTRL (n : Nat) : Nat := base n + 0x100
abbrev SS_STAT (n : Nat) : Nat := base n + 0x104
abbrev SS_MT_SEC (n : Nat) : Nat := base n + 0x110
abbrev SS_MT_NSF (n : Nat) : Nat := base n + 0x118
abbrev SS_TS (n : Nat) : Nat := base n + 0x120
abbrev SS_TE (n : Nat) : Nat := base n + 0x128
end IGRP
namespace WALL
abbrev base : Nat := pageBase 0xd 0
abbrev LSEL : Nat := base + 0x40
abbrev TSEL : Nat := base + 0x44
abbrev ACTIVE : Nat := base + 0x48
abbrev HELD : Nat := base + 0x50
abbrev VM_CTRL (i : Nat) : Nat := base + 0x300 + 0x40 * i
abbrev VM_VEL (i : Nat) : Nat := base + 0x308 + 0x40 * i
abbrev VM_ACC (i : Nat) : Nat := base + 0x310 + 0x40 * i
abbrev VM_SETPOS_VAL (i : Nat) : Nat := base + 0x318 + 0x40 * i
abbrev VM_POS (i : Nat) : Nat := base + 0x320 + 0x40 * i
abbrev VM_VEL_NOW (i : Nat) : Nat := base + 0x328 + 0x40 * i
abbrev RS_CFG (i : Nat) : Nat := base + 0x600 + 0x10 * i
abbrev RS_TMO (i : Nat) : Nat := base + 0x604 + 0x10 * i
abbrev RS_LAST (i : Nat) : Nat := base + 0x608 + 0x10 * i
end WALL
namespace LINK
abbrev base (n : Nat) : Nat := pageBase 0x40 n
abbrev CFG (n : Nat) : Nat := base n + 0x100
abbrev CMD (n : Nat) : Nat := base n + 0x104
abbrev NUM (n : Nat) : Nat := base n + 0x108
abbrev DEN (n : Nat) : Nat := base n + 0x10c
abbrev ENG_POS (n : Nat) : Nat := base n + 0x110
abbrev ENG_DIST (n : Nat) : Nat := base n + 0x118
abbrev ENG_SLV (n : Nat) : Nat := base n + 0x120
abbrev DIS_POS (n : Nat) : Nat := base n + 0x128
abbrev M_OFS (n : Nat) : Nat := base n + 0x130
abbrev CAM (n : Nat) : Nat := base n + 0x138
abbrev STAT (n : Nat) : Nat := base n + 0x13c
abbrev REM (n : Nat) : Nat := base n + 0x140
abbrev MREF (n : Nat) : Nat := base n + 0x148
abbrev SREF (n : Nat) : Nat := base n + 0x150
abbrev MASTER (n : Nat) : Nat := base n + 0x158
end LINK
namespace CT
abbrev base (n : Nat) : Nat := pageBase 0x41 n
abbrev N (n : Nat) : Nat := base n + 0x200
abbrev LEN (n : Nat) : Nat := base n + 0x208
abbrev RISE (n : Nat) : Nat := base n + 0x210
abbrev STAT (n : Nat) : Nat := base n + 0x218
end CT
namespace CAPT
abbrev base : Nat := pageBase 0xe 0
abbrev LTSEL : Nat := base + 0x40
abbrev CP_RISE : Nat := base + 0x44
abbrev CP_FALL : Nat := base + 0x48
abbrev CP_LEVEL : Nat := base + 0x4c
abbrev RES_LEVEL : Nat := base + 0x50
abbrev RES_IRQ_LEVEL : Nat := base + 0x54
abbrev LOST : Nat := base + 0x58
abbrev SYNC_EDGE : Nat := base + 0x5c
abbrev ARMED (i : Nat) : Nat := base + 0x60 + 0x4 * i
abbrev RES_POP (i : Nat) : Nat := base + 0x80 + 0x4 * i
end CAPT
namespace LT
abbrev base (n : Nat) : Nat := pageBase 0x42 n
abbrev CFG (n : Nat) : Nat := base n + 0x100
abbrev EVT (n : Nat) : Nat := base n + 0x104
abbrev CMD (n : Nat) : Nat := base n + 0x108
abbrev STAT (n : Nat) : Nat := base n + 0x10c
abbrev WIN_LO (n : Nat) : Nat := base n + 0x110
abbrev WIN_HI (n : Nat) : Nat := base n + 0x118
abbrev WAIT_MAX (n : Nat) : Nat := base n + 0x120
end LT
namespace HOPPER
abbrev base : Nat := pageBase 0xf 0
abbrev CTRL : Nat := base + 0x40
abbrev CMD : Nat := base + 0x44
abbrev STAT : Nat := base + 0x48
abbrev SEG_CFG : Nat := base + 0x4c
abbrev PRE : Nat := base + 0x50
abbrev CH_EN : Nat := base + 0x58
abbrev TRIG_CFG : Nat := base + 0x60
abbrev SEQ_WIN : Nat := base + 0x64
abbrev TRIG_MT_SEC : Nat := base + 0x68
abbrev TRIG_MT_NSF : Nat := base + 0x70
abbrev SEQ_NEXT : Nat := base + 0x78
abbrev PEND : Nat := base + 0x7c
abbrev SEG_WR : Nat := base + 0x80
abbrev SEG_RD : Nat := base + 0x84
abbrev DRAIN_CTRL : Nat := base + 0x88
abbrev DRAIN_BASE : Nat := base + 0x90
abbrev DRAIN_SLOTS : Nat := base + 0x98
abbrev DRAIN_WR : Nat := base + 0x9c
abbrev DRAIN_RD : Nat := base + 0xa0
abbrev LOST_SEG : Nat := base + 0xa4
abbrev TRIG_MISSED : Nat := base + 0xa8
abbrev ENT_DROP : Nat := base + 0xac
abbrev PAR_CNT : Nat := base + 0xb0
abbrev PROBE (i : Nat) : Nat := base + 0xc0 + 0x4 * i
abbrev PAT_MASK (i j : Nat) : Nat := base + 0x100 + 0x20 * i + 0x4 * j
abbrev PAT_MATCH (i j : Nat) : Nat := base + 0x110 + 0x20 * i + 0x4 * j
abbrev TH_CFG (i : Nat) : Nat := base + 0x180 + 0x10 * i
abbrev TH_LEVEL (i : Nat) : Nat := base + 0x184 + 0x10 * i
abbrev TH_HYST (i : Nat) : Nat := base + 0x188 + 0x10 * i
abbrev CH_SRC (i : Nat) : Nat := base + 0x200 + 0x4 * i
abbrev PSEL (i : Nat) : Nat := base + 0x300 + 0x4 * i
abbrev EVT (i : Nat) : Nat := base + 0x3c0 + 0x4 * i
abbrev TRC_DROP (i : Nat) : Nat := base + 0x400 + 0x4 * i
end HOPPER
namespace FIELD
abbrev base : Nat := pageBase 0x10 0
abbrev CTRL : Nat := base + 0x40
abbrev STAT : Nat := base + 0x44
abbrev CMD : Nat := base + 0x48
abbrev FO_ANCHOR : Nat := base + 0x50
abbrev FI_STATE : Nat := base + 0x58
abbrev FO_ON : Nat := base + 0x5c
abbrev FI_CFG (i : Nat) : Nat := base + 0x100 + 0x20 * i
abbrev FI_DEB (i : Nat) : Nat := base + 0x104 + 0x20 * i
abbrev FI_STAT (i : Nat) : Nat := base + 0x108 + 0x20 * i
abbrev FI_STAMP (i : Nat) : Nat := base + 0x110 + 0x20 * i
abbrev FO_CTRL (i : Nat) : Nat := base + 0x500 + 0x20 * i
abbrev FO_PER (i : Nat) : Nat := base + 0x504 + 0x20 * i
abbrev FO_DUTY (i : Nat) : Nat := base + 0x508 + 0x20 * i
abbrev FO_STAT (i : Nat) : Nat := base + 0x50c + 0x20 * i
abbrev FO_CLR (i : Nat) : Nat := base + 0x510 + 0x20 * i
abbrev FO_OC_LIM (i : Nat) : Nat := base + 0x514 + 0x20 * i
abbrev FO_CURRENT (i : Nat) : Nat := base + 0x518 + 0x20 * i
end FIELD
namespace CAN
abbrev base (n : Nat) : Nat := pageBase 0x11 n
abbrev CTRL (n : Nat) : Nat := base n + 0x40
abbrev STAT (n : Nat) : Nat := base n + 0x44
abbrev NBT (n : Nat) : Nat := base n + 0x48
abbrev DBT (n : Nat) : Nat := base n + 0x4c
abbrev ERRCNT (n : Nat) : Nat := base n + 0x50
abbrev ERRLOG (n : Nat) : Nat := base n + 0x54
abbrev ERRLOG2 (n : Nat) : Nat := base n + 0x58
abbrev CMD (n : Nat) : Nat := base n + 0x5c
abbrev FLT_CFG (n : Nat) : Nat := base n + 0x60
abbrev TDC_VAL (n : Nat) : Nat := base n + 0x64
abbrev TXSEL (n : Nat) : Nat := base n + 0x68
abbrev RXQ_LEVEL (n i : Nat) : Nat := base n + 0x70 + 0x10 * i
abbrev RXQ_IRQ_LEVEL (n i : Nat) : Nat := base n + 0x74 + 0x10 * i
abbrev RXQ_OVF (n i : Nat) : Nat := base n + 0x78 + 0x10 * i
abbrev TX_REQ (n : Nat) : Nat := base n + 0x90
abbrev TX_PEND (n : Nat) : Nat := base n + 0x94
abbrev TX_ABORT (n : Nat) : Nat := base n + 0x98
abbrev RXQ_POP (n i j : Nat) : Nat := base n + 0x200 + 0x80 * i + 0x4 * j
abbrev FLT_MATCH (n i : Nat) : Nat := base n + 0x400 + 0x8 * i
abbrev FLT_MASK (n i : Nat) : Nat := base n + 0x404 + 0x8 * i
abbrev FLT_ACT (n i : Nat) : Nat := base n + 0x3e0 + 0x4 * i
end CAN
namespace TXB
abbrev base (n : Nat) : Nat := pageBase 0x48 n
abbrev ID (n : Nat) : Nat := base n + 0x300
abbrev FLAGS (n : Nat) : Nat := base n + 0x304
abbrev STAT (n : Nat) : Nat := base n + 0x308
abbrev STAMP (n : Nat) : Nat := base n + 0x310
abbrev DATA (n i : Nat) : Nat := base n + 0x320 + 0x4 * i
end TXB
namespace ETH
abbrev base (n : Nat) : Nat := pageBase 0x12 n
abbrev CTRL (n : Nat) : Nat := base n + 0x40
abbrev STAT (n : Nat) : Nat := base n + 0x44
abbrev LINK_DELAY (n : Nat) : Nat := base n + 0x48
abbrev NRR (n : Nat) : Nat := base n + 0x4c
abbrev LAT_IN (n : Nat) : Nat := base n + 0x50
abbrev LAT_OUT (n : Nat) : Nat := base n + 0x54
abbrev PDELAY_CFG (n : Nat) : Nat := base n + 0x58
abbrev PCP_MAP (n : Nat) : Nat := base n + 0x5c
abbrev RX_FRAMES (n : Nat) : Nat := base n + 0x60
abbrev TX_FRAMES (n : Nat) : Nat := base n + 0x64
abbrev RX_ERR (n : Nat) : Nat := base n + 0x68
abbrev DROP (n : Nat) : Nat := base n + 0x6c
abbrev GCL_CTRL (n : Nat) : Nat := base n + 0x80
abbrev GCL_LEN (n : Nat) : Nat := base n + 0x84
abbrev GCL_CYCLE (n : Nat) : Nat := base n + 0x88
abbrev GCL_BASE (n : Nat) : Nat := base n + 0x90
abbrev GCL_CHANGE_AT (n : Nat) : Nat := base n + 0x98
abbrev GCL_OVERRUN (n : Nat) : Nat := base n + 0xa0
abbrev GCL (n i : Nat) : Nat := base n + 0x400 + 0x4 * i
end ETH
namespace BRAKE
abbrev base : Nat := pageBase 0x14 0
abbrev CTRL : Nat := base + 0x40
abbrev STAT : Nat := base + 0x44
abbrev STO_CMD : Nat := base + 0x48
abbrev STO_KICK : Nat := base + 0x4c
abbrev CYC_WAIT : Nat := base + 0x50
abbrev ERR_CFG : Nat := base + 0x54
abbrev AXTIME : Nat := base + 0x58
abbrev PROOF_INT : Nat := base + 0x5c
abbrev FCLR : Nat := base + 0x60
abbrev FACTIVE : Nat := base + 0x68
abbrev SG_MEMBERS : Nat := base + 0x70
abbrev SG_CTRL : Nat := base + 0x74
abbrev DEV_ID : Nat := base + 0x78
abbrev MIR_ETYPE : Nat := base + 0x7c
abbrev MIR_DST : Nat := base + 0x80
abbrev MIR_SRC : Nat := base + 0x88
abbrev MIR_VID : Nat := base + 0x90
abbrev ECC_CNT : Nat := base + 0x94
abbrev ENTRY : Nat := base + 0x98
abbrev PREQ (i : Nat) : Nat := base + 0xa0 + 0x4 * i
abbrev AXLVL (i : Nat) : Nat := base + 0xc0 + 0x4 * i
abbrev SM_FLAGS (i : Nat) : Nat := base + 0xe0 + 0x8 * i
abbrev FLEVEL (i : Nat) : Nat := base + 0x100 + 0x4 * i
abbrev SMSEL : Nat := base + 0x120
abbrev CSEL : Nat := base + 0x124
abbrev Q7_LEVEL : Nat := base + 0x128
abbrev Q7_POP (i : Nat) : Nat := base + 0x130 + 0x4 * i
abbrev PW_DATA (i : Nat) : Nat := base + 0x140 + 0x4 * i
abbrev SESS_USER : Nat := base + 0x160
abbrev SESS_CMD : Nat := base + 0x164
abbrev SESS_STAT : Nat := base + 0x168
abbrev SESS_TMO : Nat := base + 0x16c
abbrev LOG_COUNT : Nat := base + 0x170
abbrev LOG_IDX : Nat := base + 0x174
abbrev LOG_SEAL : Nat := base + 0x178
abbrev DIAG_STAT : Nat := base + 0x17c
abbrev LOG_WORD (i : Nat) : Nat := base + 0x180 + 0x4 * i
abbrev Q7_FLT_SRC (i : Nat) : Nat := base + 0x600 + 0x10 * i
abbrev Q7_FLT_CODE (i : Nat) : Nat := base + 0x608 + 0x10 * i
end BRAKE
namespace SM
abbrev base (n : Nat) : Nat := pageBase 0x43 n
abbrev CFG (n : Nat) : Nat := base n + 0x200
abbrev MIN_INT (n : Nat) : Nat := base n + 0x204
abbrev SPD_INT (n : Nat) : Nat := base n + 0x208
abbrev STILL_TOL (n : Nat) : Nat := base n + 0x20c
abbrev POS_LO (n : Nat) : Nat := base n + 0x210
abbrev POS_HI (n : Nat) : Nat := base n + 0x214
abbrev XTOL (n : Nat) : Nat := base n + 0x218
abbrev COUNT (n : Nat) : Nat := base n + 0x21c
abbrev STILL_REF (n : Nat) : Nat := base n + 0x220
end SM
namespace CONN
abbrev base (n : Nat) : Nat := pageBase 0x44 n
abbrev CFG (n : Nat) : Nat := base n + 0x400
abbrev SEED (n : Nat) : Nat := base n + 0x404
abbrev PERIOD (n : Nat) : Nat := base n + 0x408
abbrev CMD (n : Nat) : Nat := base n + 0x40c
abbrev STAT (n : Nat) : Nat := base n + 0x410
abbrev SRC_DEV (n : Nat) : Nat := base n + 0x414
abbrev SKEW (n : Nat) : Nat := base n + 0x418
abbrev DEG_T (n : Nat) : Nat := base n + 0x41c
abbrev TMO (n : Nat) : Nat := base n + 0x420
abbrev WIN (n : Nat) : Nat := base n + 0x424
abbrev AGE_MAX (n : Nat) : Nat := base n + 0x428
abbrev AXES (n : Nat) : Nat := base n + 0x430
abbrev ERRCNT (n : Nat) : Nat := base n + 0x438
end CONN
namespace HOST
abbrev base : Nat := pageBase 0x15 0
abbrev STAT : Nat := base + 0x40
abbrev TAG_STAT : Nat := base + 0x44
abbrev TAG_ERR : Nat := base + 0x48
abbrev ABORT : Nat := base + 0x4c
abbrev ABORT_STAT : Nat := base + 0x50
abbrev COAL : Nat := base + 0x54
abbrev LOAD : Nat := base + 0x58
abbrev VEC_EOI : Nat := base + 0x5c
abbrev EV_BASE : Nat := base + 0x60
abbrev EV_WB : Nat := base + 0x68
abbrev EV_CFG : Nat := base + 0x70
abbrev EV_HEAD : Nat := base + 0x74
abbrev EV_TAIL : Nat := base + 0x78
abbrev SQ_BASE (i : Nat) : Nat := base + 0x80 + 0x40 * i
abbrev CQ_BASE (i : Nat) : Nat := base + 0x88 + 0x40 * i
abbrev SQ_CFG (i : Nat) : Nat := base + 0x90 + 0x40 * i
abbrev SQ_TAIL (i : Nat) : Nat := base + 0x94 + 0x40 * i
abbrev SQ_HEAD (i : Nat) : Nat := base + 0x98 + 0x40 * i
abbrev CQ_HEAD (i : Nat) : Nat := base + 0x9c + 0x40 * i
abbrev CQ_TAIL (i : Nat) : Nat := base + 0xa0 + 0x40 * i
abbrev FR_BASE (i : Nat) : Nat := base + 0x280 + 0x20 * i
abbrev FR_CFG (i : Nat) : Nat := base + 0x288 + 0x20 * i
abbrev FR_TAIL (i : Nat) : Nat := base + 0x28c + 0x20 * i
abbrev FR_HEAD (i : Nat) : Nat := base + 0x290 + 0x20 * i
abbrev FR_DROP (i : Nat) : Nat := base + 0x294 + 0x20 * i
abbrev ROUTE (i : Nat) : Nat := base + 0x300 + 0x4 * i
end HOST
namespace SPI
abbrev base : Nat := pageBase 0x1a 0
abbrev STAT : Nat := base + 0x40
abbrev FRAMES : Nat := base + 0x44
abbrev ERRCNT : Nat := base + 0x48
abbrev ERRCNT2 : Nat := base + 0x4c
end SPI
namespace PWR
abbrev base : Nat := pageBase 0x16 0
abbrev SUP_STAT : Nat := base + 0x40
abbrev STICKY : Nat := base + 0x44
abbrev RST_CNT : Nat := base + 0x48
abbrev SEQ_STAT : Nat := base + 0x4c
abbrev CTRL : Nat := base + 0x50
abbrev RTC : Nat := base + 0x58
abbrev RTC_SET : Nat := base + 0x60
abbrev CHG_CFG : Nat := base + 0x68
abbrev GAUGE_CFG : Nat := base + 0x6c
abbrev GAUGE : Nat := base + 0x70
abbrev CHG_STAT : Nat := base + 0x74
abbrev BSRAM_ADDR : Nat := base + 0x80
abbrev BSRAM_DATA : Nat := base + 0x84
end PWR
namespace CFS
abbrev base : Nat := pageBase 0x18 0
abbrev STAT : Nat := base + 0x40
abbrev ADDR : Nat := base + 0x44
abbrev LEN : Nat := base + 0x48
abbrev CMD : Nat := base + 0x4c
abbrev BUF (i : Nat) : Nat := base + 0x100 + 0x4 * i
end CFS
namespace BIST
abbrev base : Nat := pageBase 0x17 0
abbrev CMD : Nat := base + 0x40
abbrev TARGET : Nat := base + 0x44
abbrev STAT : Nat := base + 0x48
abbrev NFAIL : Nat := base + 0x4c
abbrev RUNS : Nat := base + 0x50
abbrev VCORE : Nat := base + 0x54
abbrev CLKDEV : Nat := base + 0x58
abbrev REP_STAT : Nat := base + 0x60
abbrev FAIL_ADDR (i : Nat) : Nat := base + 0x100 + 0x8 * i
abbrev FAIL_BIT (i : Nat) : Nat := base + 0x104 + 0x8 * i
end BIST

/-- The common page header at page base `b` (R37). -/
abbrev PG_ID (b : Nat) : Nat := b
abbrev PG_CTRL (b : Nat) : Nat := b + 0x4
abbrev PG_STAT (b : Nat) : Nat := b + 0x8
abbrev PG_IRQ (b : Nat) : Nat := b + 0xc
abbrev PG_IRQ_EN (b : Nat) : Nat := b + 0x10
abbrev PG_LOCK (b : Nat) : Nat := b + 0x14
abbrev PG_ERRINJ (b : Nat) : Nat := b + 0x18
abbrev PG_SHADOW (b : Nat) : Nat := b + 0x1c

end R

end Sys2Proof.Machine
end

