-- ==== Sys2Proof/Machine/Regs.lean ====
section
/-! DEFINITION. Finding a register by its address, its access bits and its reset value (R8, R32, R37, R52). -/

namespace Sys2Proof.Machine

/-- What is left of an offset inside the last array element it falls in. -/
def locate : List (Nat × Nat) → Nat → Option Nat
  | [], d => some d
  | (c, st) :: r, d => if d / st < c then locate r (d % st) else none

/-- The word of the row that the offset names: `some false` its low word, `some true` its high word. -/
def RegRow.hit (r : RegRow) (o : Nat) : Option Bool :=
  if o < r.off then none else
  match locate r.dims (o - r.off) with
  | some 0 => some false
  | some 4 => if r.wide then some true else none
  | _ => none

/-- The row of a list that an offset falls on. -/
def findRow (o : Nat) : List RegRow → Option (RegRow × Bool)
  | [] => none
  | r :: rest => match r.hit o with
    | some h => some (r, h)
    | none => findRow o rest

/-- Page type, instance and offset of an address of the register half of the map (R32). -/
def tyOf (a : Nat) : Nat := a / 0x100000
/-- The base of the page an address lies in. -/
def pageOf (a : Nat) : Nat := a / 0x1000 * 0x1000
/-- The offset of an address in its page. -/
def offOf (a : Nat) : Nat := a % 0x1000
/-- The instance of the page an address lies in. -/
def instOf (a : Nat) : Nat := a % 0x100000 / 0x1000

/-- The register row of a word address, and whether it is the high word of a 64-bit register. -/
def findReg (a : Nat) : Option (RegRow × Bool) :=
  if offOf a < 0x40 then findRow (offOf a) (RegTable.header (tyOf a))
  else if tyOf a = 0x14 ∧ 0x300 ≤ offOf a ∧ offOf a < 0x358 then
    findRow (offOf a - 0x2c0) RegTable.core
  else findRow (offOf a) (RegTable.rows (tyOf a))

/-- The word of a 64-bit mask or value that `hi` selects. -/
def wordOf (hi : Bool) (v : Nat) : Word := BitVec.ofNat 32 (if hi then v >>> 32 else v)

/-- Page types whose `PG_CTRL.EN` is RO and reads 1 (R37): SYS, TIME, WEIR, SLUICE, BRAKE, HOST, PWR, CFS and SPI. -/
def enFixed (ty : Nat) : Bool := ty ∈ [0x1, 0x2, 0x3, 0xa, 0x14, 0x15, 0x16, 0x18, 0x1a]

/-- Reset values that differ from those of the other elements of their array (R52, R82, R172, R470, R475). -/
def resetExceptions : List (Nat × Nat) :=
  [(R.WEIR.Q_CTRL 5, 0x10001), (R.WEIR.Q_CTRL 7, 0x10001), (R.BRAKE.FLEVEL 0, 0x4444440), (R.BRAKE.FLEVEL 1, 0x213244),
   (R.BRAKE.FLEVEL 2, 0x440), (R.BRAKE.FLEVEL 4, 0x13111), (R.BRAKE.FLEVEL 5, 0x300), (R.CORE.STAT 32, 1),
   (R.PWR.SUP_STAT, 0xff)]

/-- The reset value of a register word (R52): the value of its row, and the identity word of R37. -/
def resetWord (a : Nat) : Word :=
  if offOf a = 0 then BitVec.ofNat 32 (tyOf a * 0x1000000 + instOf a * 0x10000 + 0x201)
  else if offOf a = 4 then (if enFixed (tyOf a) then 1 else 0)
  else if tyOf a = 0x7 ∧ offOf a = 0x148 then 0xFF13
  else if tyOf a = 0x44 ∧ offOf a = 0x400 ∧ 16 ≤ instOf a then 0x6c
  else if tyOf a = 0x9 ∧ offOf a = 0x44 then 0
  else if tyOf a = 0x15 ∧ 0x800 ≤ offOf a ∧ offOf a < 0xc00 then (if offOf a % 16 = 12 then 1 else 0)
  else match resetExceptions.find? (fun p => p.1 == a) with
  | some p => BitVec.ofNat 32 p.2
  | none => match findReg a with
    | some (r, hi) => wordOf hi r.reset
    | none => 0

/-- An address that BAR0 decodes to a register page of an existing instance (R32). -/
def pageExists (a : Nat) : Bool :=
  let n := instOf a
  match tyOf a with
  | 0x01 | 0x02 | 0x03 | 0x0a | 0x0d | 0x0e | 0x0f | 0x10 | 0x14 | 0x15 | 0x16 | 0x17 | 0x18 | 0x1a => n == 0
  | 0x04 | 0x05 | 0x06 | 0x07 => n < 48
  | 0x08 => n < 28
  | 0x09 | 0x12 => n < 4
  | 0x0b => n < 64
  | 0x0c | 0x11 => n < 16
  | 0x13 | 0x19 => n < 2
  | _ => false

/-- The memory windows of BAR0 (R32): which memory an address of the upper half falls in. -/
inductive Window
  | stone (n : Nat) | mw (n : Nat) | brake | cam | segq | none
deriving DecidableEq, Repr

/-- The window of an address (R32). -/
def windowOf (a : Nat) : Window :=
  if 0x2000000 ≤ a ∧ a < 0x2000000 + 28 * 0x40000 then
    if a % 0x40000 < 0x31000 then .stone ((a - 0x2000000) / 0x40000) else .none
  else if 0x2800000 ≤ a ∧ a < 0x2800000 + 4 * 0x100000 then
    if a % 0x100000 < 0x40000 ∨ 0x80000 ≤ a % 0x100000 then .mw ((a - 0x2800000) / 0x100000) else .none
  else if 0x2c00000 ≤ a ∧ a < 0x2c40000 then .brake
  else if 0x3000000 ≤ a ∧ a < 0x3200000 then .cam
  else if 0x3200000 ≤ a ∧ a < 0x3400000 then .segq
  else .none

end Sys2Proof.Machine
end

