-- ==== Sys2Proof/Machine/Types/Session.lean ====
section
/-! DEFINITION. The password session and the safety change log of the BRAKE page (R480 to R485). -/

namespace Sys2Proof.Machine

/-- The state of a password session (R481): `SESS_STAT.STATE`. -/
inductive SessState | none | verifying | opened
deriving DecidableEq, Repr, Inhabited

/-- Password session, lockout and change log. -/
structure SessSt where
  state : SessState := .none
  owner : Master := .host
  user : Nat := 0
  /-- the instant verification began, or of the opening or the latest logged write (R482) -/
  since : Time := 0
  fails : Nat := 0
  lastFail : Bool := false
  lockout : Option Time := none
  /-- stored password hash; none before a password is set (R480) -/
  pwHash : Option (BitVec 256) := none
  salt : List Nat := []
  /-- the outcome of the comparison that is running -/
  matched : Bool := false
  pwData : Vector Word 8 := Vector.replicate 8 0
  /-- change-log entries of eight words, oldest first (R483) -/
  log : List (List Word) := []
  /-- word 7 of the entry before the first, the seal the log is chained to (R484) -/
  chain : Word := 0
  proof : Bool := false
  proofAt : Time := 0
deriving DecidableEq, Repr, Inhabited

end Sys2Proof.Machine
end

