-- ==== Sys2Proof/Machine/Types/Brake.lean ====
section
/-! DEFINITION. The hidden state of the Brakewheel (chapter 18). -/

namespace Sys2Proof.Machine

/-- A fault report (R465): code, source unit, scope (a mask of axes, or the device), a carried level
for the codes that carry one (0 otherwise), and a set or a clear. -/
structure Report where
  code : Nat
  unit : Nat
  axes : Nat
  dev : Bool
  level : Nat
  set : Bool
  /-- a slot only tells a level that fell, or that the Brakewheel's own request gave it (R173, assumption log 161) -/
  echo : Bool := false
deriving DecidableEq, Repr, Inhabited

/-- An active fault (R466): code, unit, scope, level, whether its source still reports it, and whether it was
raised in a proof-test session (R485). -/
structure BwFault where
  code : Nat
  unit : Nat
  axes : Nat
  dev : Bool
  level : Nat
  on_ : Bool := true
  pt : Bool := false
deriving DecidableEq, Repr, Inhabited

/-- A recovery window (R468): its end, the report that opened it, its scope and level, and the faults (code and unit)
behind that level. -/
structure BwWin where
  until_ : Time
  code : Nat
  unit : Nat
  axes : Nat
  dev : Bool
  level : Nat
  parts : List (Nat × Nat)
deriving DecidableEq, Repr, Inhabited

/-- An escalation in force (R468). -/
structure BwEsc where
  axes : Nat
  dev : Bool
  level : Nat
  parts : List (Nat × Nat)
deriving DecidableEq, Repr, Inhabited

/-- A safe monitor (R461, R462). `COUNT`, `STILL_REF` and the flags are registers. -/
structure SmSt where
  /-- levels of the diverse copy and stamps of the accepted edges of the three lines -/
  levels : Vector Bool 3 := Vector.replicate 3 false
  acc : Vector (Option Time) 3 := Vector.replicate 3 none
  /-- decoder state as of the accepted edges -/
  dec : Nat := 0
  /-- stamps of the latest edges forward and back -/
  fwd : Option Time := none
  rev : Option Time := none
  /-- instant and count of the latest serial word -/
  word : Option Int := none
  /-- since when the count has been beyond XTOL -/
  offSince : Option Time := none
deriving DecidableEq, Repr, Inhabited

/-- A Mirast producer (R475): the committed payload, the next sequence, the latest instant sent. -/
structure MirTx where
  payload : List Byte := []
  seq : Nat := 0
  last : Nat := 0
deriving DecidableEq, Repr, Inhabited

/-- A frame that a consumer accepted (R477): sequence, payload, whether it was paired. -/
structure MirNew where
  seq : Nat
  payload : List Byte
  paired : Bool
deriving DecidableEq, Repr, Inhabited

/-- A Mirast consumer (R476 to R479). `CONN.STAT` shows its state and the last tick's view. -/
structure MirRx where
  last : Nat := 0
  openAt : Time := 0
  newAt : Time := 0
  degAt : Time := 0
  newest : Option MirNew := none
  /-- an open pair: race, frame bytes, arrival; and the arrivals of incomplete pairs that a newer frame followed -/
  pair : Option (Nat × List Byte × Time) := none
  lost : List Time := []
deriving DecidableEq, Repr, Inhabited

/-- The Brakewheel. -/
structure BwSt where
  /-- reports sent and not yet taken by the ladder, oldest first -/
  inbox : List Report := []
  faults : List BwFault := []
  wins : List BwWin := []
  escs : List BwEsc := []
  /-- device level and the code of the last device-level L4 fault (`BRAKE.STAT`) -/
  dev : Nat := 0
  lastL4 : Nat := 0
  /-- levels that island timers and standstill raised, by axis (R466) -/
  raised : List (Nat × Nat) := []
  degAt : List (Nat × Time) := []
  stopAt : List (Nat × Time) := []
  /-- the level issued last to `BW_REQ` of each slot (R173) -/
  issued : List (Nat × Nat) := []
  /-- levels issued to `BW_REQ` of slots and not yet arrived: slot, level, arrival (R173) -/
  reqs : List (Nat × Nat × Time) := []
  /-- axes without a slot that Windshaft reported at standstill, one bit per axis (R321, R466) -/
  still : Nat := 0
  /-- the per-slot STO gates as the Brakewheel issues them, one bit per slot (R459), and the changes issued that have not
  reached their slot: slot, gate, arrival (R25) -/
  gates : Nat := 0
  gateReqs : List (Nat × Bool × Time) := []
  /-- passed comparator tests: slot * 16 + side * 8 + target, and the instant; the latest passing drill (R471) -/
  passes : List (Nat × Time) := []
  drill : Option Time := none
  /-- an island fault stands (R452) -/
  island : Bool := false
  /-- STO channels A and B are active; both have been active since release (R456, R458) -/
  chA : Bool := false
  chB : Bool := false
  ever : Bool := false
  /-- the pair's latest `STO_KICK` -/
  kick : Option Time := none
  /-- since when the two channels' commands differ (R457) -/
  differ : Option Time := none
  /-- the start of a forced disagreement on channel A (R489) -/
  injAt : Option Time := none
  /-- phase of `ERRA` and `ERRB`, and the latest toggle (R460) -/
  err : Bool := false
  errAt : Time := 0
  /-- instant of the latest safety tick taken, the start of the pair, and whether a tick has released the pair's
  read of `CYC_WAIT` that is under way (R453) -/
  tick : Nat := 0
  start : Time := 0
  ticked : Bool := false
  sm : Vector SmSt 48 := Vector.replicate 48 {}
  tx : Vector MirTx 16 := Vector.replicate 16 {}
  rx : Vector MirRx 16 := Vector.replicate 16 {}
deriving DecidableEq, Repr, Inhabited

end Sys2Proof.Machine
end

