-- ==== Sys2Proof/Machine/Types/Can.lean ====
section
/-! DEFINITION. The hidden state of a CAN controller (chapter 16). -/

namespace Sys2Proof.Machine

/-- A receive record (R405). -/
abbrev CanRec := Vector Word 20

/-- What a controller drives on `CNnn_TX`: nothing, so that it is recessive; the frame of a buffer; the acknowledgement of a
frame; or an error flag (R397, R400, R401, R413, assumption log 197). -/
inductive CanDrive
  | recessive
  | frame (b : Nat)
  | ack
  | activeFlag
  | passiveFlag
deriving DecidableEq, Repr, Inhabited

/-- A frame that found its queue full: the KCLK edge and the instant of its acceptance, its queue, its record and the
payload of its RX event (R405). -/
structure CanLate where
  edge : Nat
  at_ : Time
  q : Nat
  record : CanRec
  payload : Nat
deriving DecidableEq, Repr, Inhabited

/-- One CAN controller. Mode, error state and recovery stand in `STAT`, the buffers in their registers. -/
structure CanSt where
  /-- transmit and receive error counters (R412) -/
  tec : Nat := 0
  rec_ : Nat := 0
  /-- the controller waits for 11 consecutive recessive bits (R401, R402, R524) -/
  wait11 : Bool := false
  /-- aborts of the buffer in transmission, one bit per buffer (R411) -/
  abortReq : Nat := 0
  /-- receive queues, head first, and the records held for a pop (R405, R407) -/
  queues : Vector (List CanRec) 2 := Vector.replicate 2 []
  hold : Vector (Option (Master × CanRec)) 2 := Vector.replicate 2 none
  /-- filter words replaced since the last frame ended, newest first: instant, address, old word (R404) -/
  fltOld : List (Time × Nat × Word) := []
  /-- KCLK edge and buffers of the latest accepted requests and of the latest aborts (R411) -/
  reqAt : Nat × Nat := (0, 0)
  abortAt : Nat × Nat := (0, 0)
  /-- a frame that is lost unless a pop at the edge of its acceptance makes room (R405) -/
  late : Option CanLate := none
  /-- what the controller drives on its pin -/
  drive : CanDrive := .recessive
  /-- where own bits of the data phase are compared, in KCLK cycles from the start of the bit (R399) -/
  ownSample : Nat := 0
deriving DecidableEq, Repr, Inhabited

end Sys2Proof.Machine
end

