-- ==== Sys2Proof/Machine/Types/Sluice.lean ====
section
/-! DEFINITION. The hidden state of the Sluice: sample instants, frames, staging, placement and
migration (chapters 01 and 10). -/

namespace Sys2Proof.Machine

/-- A frozen sample frame (R12, R16). -/
structure Frame where
  k : Nat := 0
  tk : Time := 0
  ready : Time := 0
  words : Vector Word 32 := Vector.replicate 32 0
  /-- enabled inputs of the slot at t_k, and those with a valid window so far (R127) -/
  need : Nat := 0
  good : Nat := 0
  /-- the triggered conversion of t_k has not completed (R134) -/
  auxWait : Bool := false
  isReady : Bool := false
  delivered : Bool := false
  /-- frozen before a migration moved its axis: never delivered to the new core (R277) -/
  old : Bool := false
deriving DecidableEq, Repr, Inhabited

/-- One loop level of an axis. -/
structure PeriodSt where
  /-- number of the next frame (R259) -/
  seq : Nat := 0
  /-- frames frozen and not yet superseded by a newer ready one, newest first (R247) -/
  frames : List Frame := []
  /-- words staged by `OUT` for the next commit of the level, and for the one after it (R265) -/
  stage : List (Nat × Word) := []
  stage2 : List (Nat × Word) := []
  /-- consecutive misses, and the last commit was a held repeat (R267, R268) -/
  miss : Nat := 0
  held : Bool := false
  /-- the frame of the open commit was overrun (R269) -/
  overrun : Bool := false
  /-- the kinds posted, STALE_WRITE 0, LATE_WRITE 1, UNMAPPED_WRITE 2, each with its open commit instant (R265) -/
  posted : List (Time × Nat) := []
  /-- the setpoint released into the frames of the level below: low and high word (R21) -/
  out : Word × Word := (0, 0)
deriving DecidableEq, Repr, Inhabited

/-- The newest frame of a level. -/
def PeriodSt.last (p : PeriodSt) : Frame := p.frames.headD {}
/-- The words of the newest frame. -/
def PeriodSt.frame (p : PeriodSt) : Vector Word 32 := p.last.words

/-- One axis in the Sluice. -/
structure AxSt where
  /-- the next and the previous inner sample instant (R12, R259); none while suspended -/
  next : Option Time := none
  prev : Option Time := none
  /-- inner instants since the period anchor, the number of `next` (R20) -/
  idx : Nat := 0
  /-- the staging cutoff of `next` has been judged (R269) -/
  cut : Bool := false
  /-- PARK in effect, and the values written, oldest first, with the instants they reached the page (R261) -/
  park : Bool := false
  parkPend : List (Bool × Time) := []
  /-- levels at which a commit instant has passed since PARK took effect (R257) -/
  parked : Nat := 0
  lv : Vector PeriodSt 3 := Vector.replicate 3 {}
  /-- no first sample instant before this one (R259) -/
  start : Time := 0
deriving DecidableEq, Repr, Inhabited

/-- The migration engine (R273 to R280). `MIG_STAT` and `MIG_TM` are registers. -/
structure MigSt where
  /-- a migration waits for its switch instant -/
  waiting : Bool := false
  src : Nat := 0
  dst : Nat := 0
  /-- the IMAGE tag of the target at acceptance (R275) -/
  image : Nat := 0
  axes : Nat := 0
  /-- moved axes whose switch at t_m is still to come, as a mask (R276) -/
  left : Nat := 0
  tm : Time := 0
  /-- the cutoff t_m − 80 ns has passed: the copy is made and the target started (R276) -/
  cut : Bool := false
  /-- a faulted core whose replacement is requested when the present migration ends (R280) -/
  queued : List (Nat × Time) := []
deriving DecidableEq, Repr, Inhabited

end Sys2Proof.Machine
end

