-- ==== Sys2Proof/Machine/Types/Core.lean ====
section
/-! DEFINITION. The state of a Stone, millwright or Brakewheel core (chapters 08 and 09). -/

namespace Sys2Proof.Machine

/-- A result on its way to its place (R198): an X register, flags (bits cleared and bits set of SR), an
accumulator (with the chain of R236), a register by its index of R219, SR as a return restores it (R243), or a word of
memory. -/
inductive Wr
  | x (i : Nat) (v : Word)
  | sr (clr set_ : Word)
  | acc (a : Nat) (v : BitVec 80) (chain : Bool)
  | reg (idx v : Nat)
  | restore (v : Nat)
  | mem (addr : Nat) (v : Word)
deriving DecidableEq, Repr

/-- A pending result: issues left until it is visible (R198), and whether a pipelined primitive gives it (R240). -/
structure PendW where
  left : Nat
  wr : Wr
  prim : Bool := false
deriving DecidableEq, Repr

/-- One active `BRPT` level (R204). -/
structure Loop where
  start : Nat
  end_ : Nat
  count : Nat
deriving DecidableEq, Repr, Inhabited

/-- The delay slots of a control instruction (R199): slots left, and the target if it is taken; `branch`
says that a taken target may end `BRPT` levels (R205). -/
structure Slots where
  left : Nat
  target : Option Nat
  branch : Bool
deriving DecidableEq, Repr, Inhabited

/-- A word on its way to the Hopper: channel, value, stamp (R250). -/
structure TraceWord where
  chan : Nat
  val : Word
  stamp : Time
deriving DecidableEq, Repr, Inhabited

/-- A core. `STAT` and the page registers stand in the register file. -/
structure CoreSt where
  x : Vector Word 16 := Vector.replicate 16 0
  acc : Vector (BitVec 80) 4 := Vector.replicate 4 0
  p : Vector Nat 8 := Vector.replicate 8 0
  m : Vector Nat 8 := Vector.replicate 8 0
  b : Vector Nat 4 := Vector.replicate 4 0
  l : Vector Nat 4 := Vector.replicate 4 0
  sr : Word := 0
  cfg : Word := 6
  epoch : Nat := 0
  pc : Nat := 0
  rpc : Nat := 0
  rsr : Word := 0
  nrpc : Nat := 0
  nrsr : Word := 0
  win0 : Nat := 0
  win1 : Nat := 0
  pend : List PendW := []
  /-- SR after each of the last four issues, newest first: what a conditional branch tests (R198) -/
  srHist : List Word := []
  slots : Option Slots := none
  /-- repeats of an `RPT` that are left, the present one included (R203) -/
  rpt : Option Nat := none
  /-- active `BRPT` levels, innermost first (R204) -/
  loops : List Loop := []
  /-- the period that a `WAITT` waits for (R247) -/
  waitFor : Option (Nat × Nat) := none
  /-- the frame delivered most recently for each period since `GO`, by axis * 4 + level (R248) -/
  frames : List (Nat × Frame) := []
  /-- issue cycles since the `WAITT` return, and the period it delivered (R270) -/
  cyc : Nat := 0
  cycOf : Option (Nat × Nat) := none
  /-- `OUT` writes issued for each period since its frame was delivered (R26) -/
  outs : List (Nat × Nat) := []
  /-- `OUT` writes on their way to staging: period, word, value, tag, SEQ and arrival (R249, R264) -/
  outQ : List (Nat × Nat × Word × Nat × Nat × Time) := []
  /-- a system-window access is in progress (R193) -/
  stall : Bool := false
  /-- the window accesses of the instruction that stalls, and those of an instruction that a stop or a fault ended: system
  address, and the value of a store (R193) -/
  accs : List (Nat × Option Word) := []
  orphan : List (Nat × Option Word) := []
  /-- a step ends at the next clean boundary; the first instruction after a resume ignores breakpoints -/
  stepping : Bool := false
  skipBp : Bool := false
  /-- an instruction has issued since RESUME or STEP (R218) -/
  issued : Bool := false
  /-- `HALT_WHY` and `WHICH` of a pending halt (R217, R218) -/
  haltWhy : Nat × Nat := (0, 0)
  /-- breakpoint and watchpoint writes that wait, oldest first: when each acts, and the words before it (R218) -/
  dbgOld : List (Time × List Word) := []
  /-- vector 0 or 1 taken and not returned from (R210) -/
  nmi : Bool := false
  /-- pending edge vectors as a mask (R209) -/
  edges : Nat := 0
  /-- watchdog: expiry instant, remaining time while halted, one expiry since the last kick (R213) -/
  wdDue : Option Time := none
  wdLeft : Option Nat := none
  wdOnce : Bool := false
  /-- trace words that wait, oldest first (R250) -/
  trc : List TraceWord := []
  /-- where a waiting `WAITT` goes on, and the `BRPT` levels then (R247) -/
  after : Option (Nat × List Loop) := none
  /-- axes that a migration moved away from the core since `GO`, as a mask (R278) -/
  gone : Nat := 0
deriving DecidableEq, Repr, Inhabited

end Sys2Proof.Machine
end

