-- ==== Sys2Proof/Machine/Types/Fbp.lean ====
section
/-! DEFINITION. The hidden state of a feedback port (chapter 04). -/

namespace Sys2Proof.Machine

/-- What cleared POS_VALID last: nothing since the enable, a limit (R96, R99), or a fault (R111). -/
inductive ValidLoss | none | limit | fault
deriving DecidableEq, Repr, Inhabited

/-- One input line of a port: its level at the pin, before INV (R88, R89). -/
structure LineSt where
  raw : Bool := false
  /-- stamp of the last accepted edge and the level it left -/
  accStamp : Option Time := none
  accLevel : Bool := false
  /-- a stamped, and an unstamped, edge was rejected since -/
  rejStamped : Bool := false
  rejPlain : Bool := false
deriving DecidableEq, Repr, Inhabited

/-- One accepted counting edge: its stamp, its count sign, and the counter before and after it (R100, R355). -/
structure EdgeRec where
  stamp : Time
  fwd : Bool
  before : Int
  after : Int
deriving DecidableEq, Repr, Inhabited

/-- One valid serial word: unwrapped position, the instant it refers to, and its completion (R110). -/
structure SerSample where
  pos : Int
  ts : Int
  done : Time
deriving DecidableEq, Repr, Inhabited

/-- A feedback port. -/
structure FbpSt where
  lines : Vector LineSt 3 := Vector.replicate 3 {}
  /-- decoder state: A and B in bits 1 and 0, or the Hall state W V U -/
  dec : Nat := 0
  /-- the last 257 counting edges, newest first -/
  edges : List EdgeRec := []
  /-- direction edges of step/direction mode, newest first: stamp and level -/
  dirEdges : List (Time × Bool) := []
  /-- changes of POS_VALID, newest first, at most 16: the instant and the new value (R355) -/
  validLog : List (Time × Bool) := []
  /-- what last cleared POS_VALID (R98, R112) -/
  lost : ValidLoss := .none
  /-- counts of edges stamped at or before the latest SET or completed ZSET are superseded (R95, R98) -/
  setAt : Option Time := none
  /-- gathered rejected edges, their lines, and the stamp of the last GLITCH event (R90) -/
  glCount : Nat := 0
  glLines : Nat := 0
  glLast : Option Time := none
  /-- start and count of the glitch fault window (R90) -/
  winStart : Option Time := none
  winCount : Nat := 0
  /-- the serial request in flight: t_req and the sample instant it serves (R103) -/
  req : Option (Time × Time) := none
  /-- end of the previous transfer (R103) -/
  endPrev : Option Time := none
  /-- previous valid raw position; none before the first word after an enable -/
  prev : Option Nat := none
  reload : Bool := false
  fails : Nat := 0
  /-- length of the run of unchanged words under command (R111) -/
  frozenRun : Nat := 0
  /-- newest valid samples, newest first, at most 17 -/
  samples : List SerSample := []
  /-- SENT: previous sync pulse in fine ticks, last valid frame or counted timeout, slow-channel bits (bit 3, bit 2) -/
  sync : Option Nat := none
  sentLast : Time := 0
  slow : List (Bool × Bool) := []
  /-- EDGE_STALL intervals: per axis the start (R571) -/
  stall : List (Nat × Time) := []
deriving DecidableEq, Repr, Inhabited

/-- The port assignment of an axis: FB_SEL in force, and the writes that wait for their sample instant, oldest first (R114). -/
structure FbSelSt where
  sel : Word := 0
  pend : List (Word × Time) := []
deriving DecidableEq, Repr, Inhabited

end Sys2Proof.Machine
end

