-- ==== Sys2Proof/Machine/Types/Field.lean ====
section
/-! DEFINITION. The hidden state of the field inputs and outputs (chapter 15). -/

namespace Sys2Proof.Machine

/-- A field input. STATE, RAW, WIRE_BREAK and SILENT are registers. -/
structure FiSt where
  /-- the level that last arrived through the coupler -/
  pin : Bool := false
  /-- a change that is being debounced: raw stamp and level (R383) -/
  pend : Option (Time × Bool) := none
  /-- what a latch on this input finds at the raw stamp: per axis the commanded position and its validity, and per port
  POS_VALID (R355, R356) -/
  cmds : List (Int × Bool) := []
  valids : List Bool := []
  /-- consecutive windows with too little current (R384) -/
  low : Nat := 0
  /-- since when the sampling windows of the present configuration run (R381, assumption log 195) -/
  since : Time := 0
deriving DecidableEq, Repr, Inhabited

/-- A field output. The fault and hold flags are registers. -/
structure FoSt where
  /-- the grid instant of the latest period start, and the end of the on-time -/
  start : Option Int := none
  offAt : Option Time := none
  /-- conditions of OC and THERMAL that stand: bits 1 and 2 -/
  cond : Nat := 0
  /-- LOGIC_SILENT latched on the field die (R391) -/
  silent : Bool := false
  /-- the control side sees no refresh from the output's coupler (R391) -/
  ctlSilent : Bool := false
  /-- since when the control die has sent no refresh (R393) -/
  stopped : Option Time := none
  /-- the latest conversions of the current, newest first: stamp and value (R389) -/
  convs : List (Time × Word) := []
  /-- the coupler itself has lost the refresh, and it has not come back (R391) -/
  lost : Bool := false
  /-- since which conversion the current has stood above `OC_LIM`, and above 2.5 A (R391) -/
  ocFrom : Option Time := none
  inFrom : Option Time := none
  /-- the latest conversion lay below 20 mA, the on-time since the current fell below it, since when the output has
  been on, and the instant it last switched (R391) -/
  lowI : Bool := false
  onAcc : Nat := 0
  onFrom : Option Time := none
  swAt : Time := 0
deriving DecidableEq, Repr, Inhabited

end Sys2Proof.Machine
end

