-- ==== Sys2Proof/Machine/Types/Hopper.lean ====
section
/-! DEFINITION. The hidden state of the Hopper (chapter 14). -/

namespace Sys2Proof.Machine

/-- A value on its way to the capture path: channel (64 + g for probe group g), value, stamp, and the TCLK
edge at which it is due (R362, R363, R371). -/
structure NodeVal where
  chan : Nat
  val : Word
  stamp : Time
  edge : Time
deriving DecidableEq, Repr, Inhabited

/-- What the header of a segment records of its trigger (R369, R373). -/
structure HopTrig where
  stamp : Time
  /-- patterns in [3:0], sequence, machine time, FORCE in bits 4 to 6 -/
  causes : Nat
  unsure : Bool
  adj : Nat
  mtNs : Nat
  kept : Nat
  /-- triggers missed between the previous trigger and this one (R372) -/
  missed : Nat
deriving DecidableEq, Repr, Inhabited

/-- A pending segment: its place in the memory and its sequence number (R374). -/
structure HopSeg where
  idx : Nat
  seq : Nat
deriving DecidableEq, Repr, Inhabited

/-- The Hopper. STATE, SEG_WR, SEQ_NEXT, PEND and the counters are registers. -/
structure HopSt where
  /-- entries written into the current segment since its capture started, and the ones left after the trigger -/
  written : Nat := 0
  left : Nat := 0
  lastStamp : Option Time := none
  trig : Option HopTrig := none
  dropped : Nat := 0
  missed : Nat := 0
  /-- where the search for the next free segment starts, and segments completed since the ARM -/
  next : Nat := 0
  taken : Nat := 0
  /-- the last entry of a completed segment was written at this instant, and the re-arm is due (R372) -/
  rearmFrom : Time := 0
  /-- pending segments, oldest first -/
  segs : List HopSeg := []
  /-- the full condition stands (R374) -/
  full : Bool := false
  /-- comparator bits TH0 to TH7 -/
  th : Nat := 0
  /-- the probe vector as it stood last without its pulses, and as entries have shown it; the bits that have changed since
  the latest TCLK edge with their stamps, newest first, and stamps of changes still to be looked at -/
  last : Nat := 0
  seen : Nat := 0
  stamps : List (Nat × Time) := []
  fresh : List (Nat × Time) := []
  /-- pulses of one TCLK edge -/
  pulse : Nat := 0
  /-- patterns that match, as a mask; the edges up to which patterns were judged; the latest firing of A -/
  matching : Nat := 0
  judged : Time := 0
  aFired : Option Time := none
  /-- the entries due at the coming TCLK edge (R363) -/
  nodes : List NodeVal := []
  /-- a segment is needed and none was free: decided at the coming TCLK edge (R374) -/
  want : Bool := false
  /-- the latest state of each slot (R362) -/
  slotSeen : List (Nat × Word) := []
  /-- causes of a trigger that are due at the coming TCLK edge, in the bits of `HopTrig.causes` (R368, R369) -/
  due : Nat := 0
  /-- registers of the page whose latest write has not taken effect: the address, the old value and the TCLK edge of
  the write's effect (R378) -/
  late : List (Nat × Word × Time) := []
  /-- addresses of words with bad parity -/
  bad : List Nat := []
  /-- the segment memory is under BIST, or failed it (R373) -/
  bist : Bool := false
deriving DecidableEq, Repr, Inhabited

end Sys2Proof.Machine
end

