-- ==== Sys2Proof/Machine/Types/Host.lean ====
section
/-! DEFINITION. The hidden state of the host interface and of the SPI port (chapter 19). -/

namespace Sys2Proof.Machine

/-- A command tag (R499 to R501): its generation, its state (0 FREE, 1 BUSY, 2 DONE, 3 QUAR) and when QUAR began. -/
structure Tag where
  gen : Nat := 0
  st : Nat := 0
  at_ : Time := 0
deriving DecidableEq, Repr, Inhabited

/-- How a command has ended: status, bytes done, and the data of a REG_READ (R496). -/
structure CmdEnd where
  status : Nat
  bytes : Nat
  data : Option DWord := none
deriving DecidableEq, Repr, Inhabited

/-- An accepted command that has not completed (R493 to R502). -/
structure HostCmd where
  ring : Nat
  /-- the eight words of its descriptor -/
  desc : List Word
  started : Bool := false
  /-- bytes that a copy has moved -/
  done : Nat := 0
  /-- it has been aborted -/
  aborted : Bool := false
  /-- since when its DMA has been held (R525) -/
  held : Option Time := none
  ended : Option CmdEnd := none
deriving DecidableEq, Repr, Inhabited

/-- The host interface. Ring indices are registers. -/
structure HostSt where
  /-- tags that are not FREE with generation 0, by index -/
  tags : List (Nat × Tag) := []
  /-- commands in order of acceptance -/
  cmds : List HostCmd := []
  /-- ABORTED completions that wait for the PCIe PLL, oldest first: ring, tag, bytes done (R501, R525) -/
  aborts : List (Nat × Nat × Nat) := []
  /-- a descriptor whose index is DONE, with its HCLK edge and ring; and aborts of commands that have ended, with their
  HCLK edges: the end of the edge decides (R500, R501) -/
  late : Option (Nat × Nat × List Word) := none
  abortDue : List (Nat × Nat) := []
  /-- completion entries written and not acknowledged, oldest first: the index that the entry's acknowledgement frees -/
  cq : Vector (List (Option Nat)) 8 := Vector.replicate 8 []
  /-- completion rings on an odd pass, one bit per ring: PHASE is 0 there (R496) -/
  odd : Nat := 0
  /-- the ring that the fetcher visits and the descriptors it has taken there (R493) -/
  ring : Nat := 0
  took : Nat := 0
  /-- vectors 11 to 63 that are pending, one bit each; messages that wait; the pending bit array (R504, R505) -/
  vecs : Nat := 0
  due : Nat := 0
  pba : Nat := 0
  /-- the instant of the latest message of each vector -/
  sent : List (Nat × Time) := []
deriving DecidableEq, Repr, Inhabited

/-- The SPI port (R507 to R509): a read that is outstanding or has completed (word address, data, completion), and the
discard code of the previous frame. -/
structure SpiSt where
  read : Option (Nat × Word × Option Time) := none
  code : Nat := 0
deriving DecidableEq, Repr, Inhabited

end Sys2Proof.Machine
end

