-- ==== Sys2Proof/Machine/Types/Pwm.lean ====
section
/-! DEFINITION. The hidden state of a PWM slot and of its protection (chapters 06 and 07). -/

namespace Sys2Proof.Machine

/-- One gate output. -/
structure Gate where
  /-- the output's own command at the input of the dead-time stage -/
  cmd : Bool := false
  /-- the mask code at the latest evaluation, and whether the mask has a part in the command's present edge (R153, R157) -/
  code : Nat := 2
  byMask : Bool := false
  on : Bool := false
  onAt : Time := 0
  offAt : Time := 0
  /-- a turn-off that the minimum pulse delays (R153) -/
  ext : Option Time := none
deriving DecidableEq, Repr, Inhabited

/-- One trip filter (R154): raw level, filtered output, and the instant from which the raw level differs. -/
structure Filt where
  raw : Bool := false
  out : Bool := false
  since : Time := 0
  /-- the raw level has returned to the output's: the instant of the return and the `since` that it broke off -/
  left : Option (Time × Time) := none
deriving DecidableEq, Repr, Inhabited

/-- A PWM slot. -/
structure PwmSt where
  /-- the sample at which the latest write of the trip filters' settings takes effect (R154) -/
  tripFrom : Time := 0
  /-- the start instant G that the slot waits for (R144) -/
  start : Option Time := none
  /-- a counter zero of the grid in force, its number since the start, and the period in force -/
  zero : Int := 0
  zeroNo : Int := 0
  per : Nat := 200000
  /-- a re-anchoring pause: its end and x during it (R148) -/
  pause : Option (Time × Nat) := none
  /-- the next update instant of a slot without an owning axis (R145) -/
  next : Option Time := none
  /-- effective compare values after step 1 of R153 -/
  w : Vector Nat 8 := Vector.replicate 8 0
  gates : Vector Gate 8 := Vector.replicate 8 {}
  /-- on-intervals that have ended, newest first: output, start, end (R166) -/
  hist : List (Nat × Time × Time) := []
  /-- the per-slot STO gate as it stands at the slot (R11) -/
  sto : Bool := false
  filt : Vector Filt 18 := Vector.replicate 18 {}
  /-- commands of the Windshaft stepper chopper, one bit per half-bridge (R140) -/
  chopCmd : Nat := 0
  /-- Hall state in force for the commutation, and mask applications that wait: due instant,
  state, and the instant the slot learned of it (R158) -/
  hallIdx : Nat := 0
  /-- the TCLK edge from which the mask that the registers select applies (R158, R159) -/
  maskDue : Option Time := none
  commPend : List (Time × Nat × Time) := []
deriving DecidableEq, Repr, Inhabited

/-- A latched source: number, level, instant (R169). -/
structure LatchRec where
  src : Nat
  level : Nat
  at_ : Time
deriving DecidableEq, Repr, Inhabited

/-- A cycle-by-cycle source (R167, R168). -/
structure CbcSt where
  /-- outputs held off -/
  hold : Nat := 0
  /-- number of the PWM period of the latest trip, and consecutive periods with trips -/
  period : Option Int := none
  run : Nat := 0
deriving DecidableEq, Repr, Inhabited

/-- A self-test in progress (R180 to R182). -/
structure TestSt where
  target : Nat
  side : Bool
  threshold : Bool
  /-- false: set phase, true: clear phase -/
  clear : Bool
  start : Time
  limit : Time
  firstOk : Bool
  setAt : Option Time
  /-- the flag under test at the start of the phase -/
  flag0 : Bool
  /-- gates held, as a mask, the slot level at the start, and the start of the test -/
  gates : Nat
  level : Nat
  begun : Time
deriving DecidableEq, Repr, Inhabited

/-- The protection of a slot. -/
structure PspSt where
  latches : List LatchRec := []
  /-- the latest latching, and whether it was itself a second fault (R170) -/
  recent : Option (LatchRec × Bool) := none
  /-- the level as raised by escalation (R170), and as raised by a timer or a standstill on the Brakewheel's request (R173) -/
  esc : Nat := 0
  bwEsc : Nat := 0
  /-- the instant of the latest timer step (R179) -/
  stepAt : Option Time := none
  /-- start of the L2 and of the L3 timer -/
  degAt : Option Time := none
  stopAt : Option Time := none
  cbc : Vector CbcSt 20 := Vector.replicate 20 {}
  /-- an interlock case not yet latched, the end of its TCLK cycle, and the injected sources with their ends (R164, R186) -/
  shoot : Bool := false
  shootEnd : Option Time := none
  inject : List (Nat × Time) := []
  /-- attribution of the FLTA assertion: 0 none, 1 low side, 2 high side (R166) -/
  attr : Nat := 0
  /-- ASC: chosen by attribution, samples below or above ASC_VMIN (R174 to R177) -/
  byAttr : Bool := false
  below : Nat := 0
  above : Nat := 0
  test : Option TestSt := none
  /-- a bitstream test that has ended, until enough live bits have passed: the test and its end (R181) -/
  after : Option (TestSt × Time) := none
  /-- a clear that waits for the end of a self-test (R171) -/
  clearPend : Nat := 0
  /-- the attribution of the FLTA assertion that caused the latest entry to L5 (R174) -/
  l5Attr : Nat := 0
  /-- chopper: ON since, cooling until -/
  onSince : Time := 0
  coolEnd : Option Time := none
deriving DecidableEq, Repr, Inhabited

end Sys2Proof.Machine
end

