-- ==== Sys2Proof/Machine/Types/Race.lean ====
section
/-! DEFINITION. The hidden state of the Ethernet ports, the races, Fantail and the race redundancy (chapter 17). -/

namespace Sys2Proof.Machine

/-- What a frame that waits for egress is (R421, R424 to R426): data; a relayed Sync with its ingress stamp and the
link delay of its ingress port; an originated Sync; a Pdelay_Req; a Pdelay_Resp with the request's ingress stamp. -/
inductive EgKind
  | data
  | relay (ingress : Time) (delay : Nat)
  | sync (seq : Nat)
  | pdelayReq (seq : Nat)
  | pdelayResp (ingress : Time)
deriving DecidableEq, Repr, Inhabited

/-- A frame in an egress queue: kind, bytes without FCS, the instant it was queued, and whether it has been counted
in `GCL_OVERRUN` (R418, R525). -/
structure EgFrame where
  kind : EgKind
  bytes : List Byte
  at_ : Time
  late : Bool := false
deriving DecidableEq, Repr, Inhabited

/-- The frame that a port sent last: its egress stamp, the frame, and the origin timestamp of an originated Sync
or the turnaround of a Pdelay_Resp (R423, R424, R426). -/
structure EgSent where
  stamp : Time
  frame : EgFrame
  field : Int
  /-- the frame as it goes out: padded to the minimum length, and with its FCS -/
  wire : List Byte
deriving DecidableEq, Repr, Inhabited

/-- A gate list in force (R419): length, cycle, base and the entries that differ from the reset value. -/
structure GclBank where
  len : Nat := 1
  cycle : Nat := 125000
  base : Nat := 0
  ents : List (Nat × Word) := []
deriving DecidableEq, Repr, Inhabited

/-- An external port. -/
structure EthPort where
  queues : Vector (List EgFrame) 8 := Vector.replicate 8 []
  busyUntil : Time := 0
  sent : Option EgSent := none
  gcl : GclBank := {}
  /-- gates take `GATES_OFF` until the first cycle start of the new list; the instant of the swap (R420) -/
  gclOff : Bool := false
  swapAt : Time := 0
  /-- the instant at which `PEND` was set -/
  pendAt : Time := 0
  /-- latest Pdelay_Req and its sequence, the last 16 link delays in 2^-16 ns, failed exchanges in a row (R424) -/
  pdLast : Option Time := none
  pdSeq : Nat := 0
  pdDelays : List Rat := []
  pdFailed : Nat := 0
  /-- the instant a forced link loss began (R448) -/
  injAt : Option Time := none
deriving DecidableEq, Repr, Inhabited

/-- A race: learned entries (address, port, latest frame) and Fantail's domain (R417, R428). -/
structure RaceSt where
  fdb : List (Nat × Nat × Time) := []
  lastSync : Option Time := none
  lost : Bool := false
  origLast : Option Time := none
  origSeq : Nat := 0
deriving DecidableEq, Repr, Inhabited

/-- The judgement of one redundancy cycle (R434). -/
structure CycRec where
  num : Nat
  compared : Bool := false
  badA : Bool := false
  badB : Bool := false
  ended : Bool := false
deriving DecidableEq, Repr, Inhabited

/-- A copy that waits for the copy of the other race (R434); `race` is 2 higher once the other copy has been judged
missing, so that a late copy finds its partner. -/
structure Copy where
  race : Nat
  key : List Byte
  bytes : List Byte
  at_ : Time
  num : Nat
deriving DecidableEq, Repr, Inhabited

/-- The race redundancy and axis broadcast reception (R431 to R443). -/
structure RedSt where
  /-- number of the cycle in progress; machine time in ns from which the next cycle instant counts -/
  num : Nat := 0
  next : Nat := 0
  cycs : List CycRec := []
  copies : List Copy := []
  runA : Nat := 0
  runB : Nat := 0
  /-- the latest instant at which a failure condition of each race held (R436) -/
  badA : Time := 0
  badB : Time := 0
  /-- consecutive cycles with the link of each watched port down (R435) -/
  down : Vector Nat 4 := Vector.replicate 4 0
  /-- cycles of double forwarding that are left (R437) -/
  double : Nat := 0
  /-- a failure of the active race waits for its switch, or for the end of double forwarding (R437, R439) -/
  held : Bool := false
  /-- the latest write that changed PREF (R438) -/
  prefAt : Time := 0
  /-- an accepted drill that has not begun, the original race, the cycles left, and whether it has failed (R440) -/
  drillAt : Option Time := none
  orig : Nat := 0
  left : Nat := 0
  drillBad : Bool := false
  /-- the original race has failed since the drill began (R440) -/
  origBad : Bool := false
  /-- remote slots that had lost their master when the drill began -/
  lost0 : Nat := 0
  /-- per sending device: last accepted sequence and the instant (R443) -/
  abf : List (Nat × Nat × Time) := []
deriving DecidableEq, Repr, Inhabited

end Sys2Proof.Machine
end

