-- ==== Sys2Proof/Machine/Types/Sdm.lean ====
section
/-! DEFINITION. The hidden state of the sigma-delta inputs of a slot and of an auxiliary ADC (chapter 05). -/

namespace Sys2Proof.Machine

/-- A main-path window in progress (R123, R125): its sample instant, its first bit time, its end and
the frame-ready time. -/
structure SdWin where
  tk : Time
  c0 : Int
  fin : Int
  ready : Time
deriving DecidableEq, Repr, Inhabited

/-- One modulator input. -/
structure SdIn where
  wins : List SdWin := []
  /-- the ends of the latest windows that are over (R125) -/
  past : List Int := []
  /-- bit time of the latest Manchester error, and of the latest stuck run (R121, R127) -/
  manErr : Option Time := none
  stuck : Option Time := none
  /-- a fast-path value has been formed since the input was enabled (R128) -/
  fastOk : Bool := false
  /-- the input is reported invalid to Power-stage protection (R127, R164) -/
  inv : Bool := false
deriving DecidableEq, Repr, Inhabited

/-- The modulator inputs of a slot. -/
structure SdmSt where
  ins : Vector SdIn 4 := Vector.replicate 4 {}
  /-- DIV in force (R119) -/
  div : Nat := 50
  /-- anchor of the internal modulator clock (R119) -/
  anchor : Time := 0
  /-- the earlier grids of the internal clock, oldest first: the instant until which each was in force, its DIV and its
  anchor (R119) -/
  grids : List (Time × Nat × Time) := []
  /-- the earlier values of SAMP_DLY, oldest first, with the instant until which each was in force (R122) -/
  dlys : List (Time × Nat) := []
  /-- the instant of the latest change of DIV or anchor, and of the latest loss of the clock (R127) -/
  changed : Option Time := none
  lost : Option Time := none
  /-- the latest measured period of an external clock (R120) -/
  per : Nat := 800
  /-- rising edges of an external clock are present (R120) -/
  clk : Bool := false
  /-- the instant from which the enabled inputs receive bits (R118, R128) -/
  since : Time := 0
  /-- `AUX_SEL` in force, and the writes that wait for their sample instant, oldest first (R133) -/
  auxSel : Word := 0
  auxPend : List (Word × Time) := []
deriving DecidableEq, Repr, Inhabited

/-- A conversion in progress: input, sampling instant, and the trigger (t_k and slot) of a triggered one (R132). -/
structure AuxConv where
  input : Nat
  stamp : Time
  trig : Option (Time × Nat)
deriving DecidableEq, Repr, Inhabited

/-- An auxiliary ADC (R132 to R135). -/
structure AuxSt where
  conv : Option AuxConv := none
  /-- the sampling edge of the latest conversion -/
  lastS : Option Time := none
  /-- triggered conversions that wait: trigger instant, slot, input -/
  queue : List (Time × Nat × Nat) := []
  /-- the input scanned last -/
  scan : Option Nat := none
  /-- the completion instant of the latest conversion of each input (R183) -/
  doneAt : Vector (Option Time) 8 := Vector.replicate 8 none
  /-- where the inputs stand, in units of VREF/2^32 (R136) -/
  levels : Vector Nat 8 := Vector.replicate 8 0
deriving DecidableEq, Repr, Inhabited

end Sys2Proof.Machine
end

