-- ==== Sys2Proof/Machine/Types/Time.lean ====
section
/-! DEFINITION. The hidden state of the time unit and of the Weir (chapter 03). -/

namespace Sys2Proof.Machine

/-- How a PTP clock ran before a change: its value in 2^-32 ns at a TCLK edge, its rate, and the edge of the change. -/
structure PtpPiece where
  edge : Nat
  val  : Nat
  incr : Nat
  upto : Nat
deriving DecidableEq, Repr, Inhabited

/-- One PTP clock: its value in units of 2^-32 ns since second 0 at a TCLK edge, and what is pending (R57 to R59). -/
structure PtpClock where
  edge : Nat := 0
  val  : Nat := 0
  incr : Nat := 0x100000000
  incrPend : List (Time × Nat) := []
  offPend  : Option (Time × Int) := none
  /-- how it ran before its changes, newest first: what it read at an earlier stamp (R425, R427) -/
  hist : List PtpPiece := []
deriving DecidableEq, Repr, Inhabited

/-- Machine time and the snapshots (R61 to R69). -/
structure TimeSt where
  ptp0 : PtpClock := {}
  ptp1 : PtpClock := {}
  /-- C in units of 2^-32 ns at TCLK edge `cEdge` (R61) -/
  c : Int := 0
  cEdge : Nat := 0
  /-- consecutive sync intervals outside the guard (R67) -/
  outCount : Nat := 0
  /-- the TCLK edge at which TIME_UNSURE last changed (R69) -/
  unsureAt : Nat := 0
  /-- the last snapshot period instant taken (R65) -/
  lastPeriodic : Nat := 0
deriving DecidableEq, Repr, Inhabited

/-- One event record (R76). -/
structure EvRec where
  stamp : Nat
  src : Nat
  code : Nat
  payload : Nat
deriving DecidableEq, Repr, Inhabited

/-- The Weir (R71 to R83). -/
structure WeirSt where
  /-- events decided and not yet delivered, in posting order (R75) -/
  pend : List EvRec := []
  /-- per source with drops: events dropped since the last SRC_OVF and the stamp of the first (R75) -/
  dropped : List (Nat × Nat × Nat) := []
  /-- queues Q0 to Q7, head first (R79) -/
  queues : Vector (List EvRec) 8 := Vector.replicate 8 []
  /-- the held record of each queue's pop words and its reader: a master, or none for the Brakewheel pair (R81) -/
  hold : Vector (Option (Option Master × EvRec)) 8 := Vector.replicate 8 none
  /-- TCLK edge of the last delivery and the records delivered at it (R75) -/
  lastEdge : Nat := 0
  atEdge : Nat := 0
  /-- sources reported below the frontier and the instant since which every watermark is past it (R74) -/
  stalled : List Nat := []
  clearFrom : Time := 0
deriving DecidableEq, Repr, Inhabited

end Sys2Proof.Machine
end

