-- ==== Sys2Proof/Machine/Types/Wall.lean ====
section
/-! DEFINITION. The hidden state of the Wallower and of the Latch unit (chapter 13). -/

namespace Sys2Proof.Machine

/-- One gear link. `GL.STAT`, `REM`, `MREF`, `SREF` and `MASTER` are registers (R337 to R345). -/
structure LinkSt where
  /-- the master value at the previous slave tick -/
  mPrev : Option Int := none
  armAt : Time := 0
  /-- the ramp: m_a, m_b, S_a, S_b in Q48.16 and the slope at m_b (R343) -/
  ma : Int := 0
  mb : Int := 0
  sa : Int := 0
  sb : Int := 0
  gb : Rat := 0
  /-- cycle index and cycle base of a cam (R339) -/
  kPrev : Int := 0
  cb : Int := 0
  /-- CANCEL and DISENGAGE that wait for a tick, and DIS_ARM (R344) -/
  cancel : Bool := false
  disAt : Option Time := none
  disArm : Bool := false
deriving DecidableEq, Repr, Inhabited

/-- A virtual master: position in 2^-24 * 10^-12 counts, velocity in 2^-24 * 10^-6 counts/s, latest
update, and a SETPOS that waits (R334). -/
structure VmSt where
  pos : Int := 0
  vel : Int := 0
  last : Time := 0
  setReq : Bool := false
deriving DecidableEq, Repr, Inhabited

/-- A sample of a remote axis: its local stamp, position in Q48.16, velocity in Q40.24 (R335). -/
structure RsSample where
  stamp : Int
  pos : Int
  vel : Int
deriving DecidableEq, Repr, Inhabited

/-- The Wallower. -/
structure WallSt where
  link : Vector LinkSt 64 := Vector.replicate 64 {}
  vm : Vector VmSt 8 := Vector.replicate 8 {}
  /-- samples of each remote slot, newest first -/
  rs : Vector (List RsSample) 16 := Vector.replicate 16 []
  /-- the link that an injection of R351 names -/
  inj : Option Nat := none
  /-- the virtual masters as they stood at each axis's latest tick (R343) -/
  vmTick : Vector (Vector VmSt 8) 64 := Vector.replicate 64 (Vector.replicate 8 {})
deriving DecidableEq, Repr, Inhabited

/-- A result that is not complete (R355, R358). -/
structure LatchWait where
  chan : Nat
  /-- the channel's configuration at the trigger -/
  cfg : Word
  stamp : Time
  cmd : Int
  cmdValid : Bool
  fbValid : Bool
deriving DecidableEq, Repr, Inhabited

/-- A queued result (R358). -/
structure LatchRes where
  words : Vector Word 8
deriving DecidableEq, Repr, Inhabited

/-- One latch channel: its result sequence and the results rejected since the last queued one (R358). -/
structure LatchChan where
  seq : Nat := 0
  rejected : Nat := 0
deriving DecidableEq, Repr, Inhabited

/-- The Latch unit: channels, incomplete results in order of trigger, the queue, the held record, and the
levels of the capture and SYNC pins. -/
structure LatchUnit where
  chan : Vector LatchChan 128 := Vector.replicate 128 {}
  waits : List LatchWait := []
  queue : List LatchRes := []
  hold : Option (Master × LatchRes) := none
  /-- the present levels of the capture inputs and of the SYNC pins (R352) -/
  cpPins : Word := 0
  syncPins : BitVec 8 := 0
  /-- the stamp of the last stamped edge of each capture input and SYNC pin (R56) -/
  cpLast : Vector (Option Time) 32 := Vector.replicate 32 none
  syncLast : Vector (Option Time) 8 := Vector.replicate 8 none
  /-- records that Q5 took and the channels have not seen (R353) -/
  inbox : List (Time × Nat × Nat) := []
deriving DecidableEq, Repr, Inhabited

end Sys2Proof.Machine
end

