-- ==== Sys2Proof/Machine/Types/Wind.lean ====
section
/-! DEFINITION. The hidden state of Windshaft: profiles, axes, groups, start sets and steppers (chapter 12). -/

namespace Sys2Proof.Machine

/-- A piece of a profile: its duration, the acceleration at its start and its jerk, in seconds and counts (R309). -/
structure Piece where
  dur : Rat
  acc : Rat
  jerk : Rat
deriving DecidableEq, Repr, Inhabited

/-- A planned motion from `p0` and `v0` (R309, R320): `hold` goes on at `endVel` after the last piece;
`dir` is the direction in which no point passes `endPos`, from `clampFrom` on. -/
structure Profile where
  p0 : Rat := 0
  v0 : Rat := 0
  pieces : List Piece := []
  endPos : Rat := 0
  endVel : Rat := 0
  dir : Int := 0
  clampFrom : Rat := 0
  hold : Bool := false
deriving DecidableEq, Repr, Inhabited

/-- A segment (R306, R313): target in Q48.16, or Q40.24 for a velocity move, or the dwell time in us;
the limits as its words hold them; for a group the targets of its members. -/
structure Seg where
  kind : Nat := 0
  tag : Nat := 0
  event : Bool := false
  blend : Bool := false
  jerk : Bool := false
  target : Int := 0
  lims : List Nat := []
  vend : Nat := 0
  targets : List Int := []
deriving DecidableEq, Repr, Inhabited

/-- What an axis commanded from a profile tick on: position, velocity and the position of the next tick (R302). -/
structure TickRec where
  at_ : Time
  p : Int
  v : Int
  pn : Option Int
deriving DecidableEq, Repr, Inhabited

/-- One axis in Windshaft. `POS_CMD`, `VEL_CMD`, `REMAIN`, `TARGET`, `STAT`, `TAG` and `Q_RD` are registers. -/
structure WsAx where
  /-- the latest tick, and the position of the next one (R302); none where it is not known -/
  tick : Option Time := none
  pn : Option Int := none
  /-- the latest ticks, newest first, at most 16: the commanded words of an earlier instant (R356) -/
  past : List TickRec := []
  /-- acceleration at the latest tick, counts/s^2 -/
  acc : Rat := 0
  prof : Option Profile := none
  t0 : Time := 0
  /-- segment in progress or interrupted, and whether it is a completed velocity move that holds -/
  seg : Option Seg := none
  holding : Bool := false
  /-- a START that waits, a shared start (instant and set), a RESUME that waits (R318, R323) -/
  startAt : Option Time := none
  sharedAt : Option (Time × Nat) := none
  resumeAt : Option Time := none
  /-- SETPOS (false) or FBPOS (true) that waits for the next tick (R323) -/
  setReq : Option Bool := none
  /-- the first tick after RUN is still to come, and starts are refused after INIT_INVALID (R304) -/
  initDue : Bool := false
  invalid : Bool := false
  /-- a stop that waits: the earliest tick and the cause (R320) -/
  stopAt : Option (Time × Nat) := none
  /-- deceleration and jerk of the stop in progress, Q40.24 (R320) -/
  stopDec : Nat := 0
  stopJerk : Nat := 0
  /-- the stop in progress ends a disengagement: the axis becomes IDLE at rest (R344) -/
  disengaging : Bool := false
  /-- STATE before the axis was armed (R317) -/
  pre : Nat := 0
deriving DecidableEq, Repr, Inhabited

/-- One bridge of a stepper slot (R327): whether the last drive was positive, and when ON and FAST began. -/
structure Bridge where
  pos : Bool := true
  tOn : Time := 0
  tOff : Time := 0
deriving DecidableEq, Repr, Inhabited

/-- The stepper of an axis (R324 to R327). `STEP_STAT` holds q, the resolution and the chopper states. -/
structure StepSt where
  /-- commanded position, in whole counts, at the previous inner sample instant -/
  last : Option Int := none
  /-- the resolution code of a change that is due (R325) -/
  due : Option Nat := none
  /-- the tick from which V has been 0 -/
  restFrom : Option Time := none
  /-- references in force and those that take effect at the next commit instant, Q1.31 -/
  refs : Int × Int := (0, 0)
  next : Int × Int := (0, 0)
  /-- the offsets `STEP_OFS` as they stood at the latest commit instant (R326) -/
  ofs : Int × Int := (0, 0)
  br : Vector Bridge 2 := Vector.replicate 2 {}
deriving DecidableEq, Repr, Inhabited

/-- A member's part in a group segment: its axis, start position and displacement, Q48.16 (R314). -/
structure Share where
  axis : Nat
  p0 : Int
  delta : Int
deriving DecidableEq, Repr, Inhabited

/-- One interpolation group (R312 to R316). -/
structure WsGrp where
  /-- the latest common tick at which the group advanced -/
  tick : Option Time := none
  prof : Option Profile := none
  t0 : Time := 0
  acc : Rat := 0
  vLead : Int := 0
  shares : List Share := []
  seg : Option Seg := none
  startAt : Option Time := none
  sharedAt : Option (Time × Nat) := none
  resumeAt : Option Time := none
  stopAt : Option (Time × Nat) := none
  stopDec : Rat := 0
  stopJerk : Rat := 0
  /-- the axis that broke the group, until EN clears (R316) -/
  broken : Option Nat := none
  pre : Nat := 0
deriving DecidableEq, Repr, Inhabited

/-- One start set (R317 to R319): its members when it was armed, axes and groups, and the start instant t_s. -/
structure StartSet where
  ts : Time := 0
  axes : List Nat := []
  groups : List Nat := []
deriving DecidableEq, Repr, Inhabited

end Sys2Proof.Machine
end

