-- ==== Sys2Proof/Machine/State.lean ====
section
/-! DEFINITION. The state of the device, plain data, and the state at release from STANDBY. -/

namespace Sys2Proof.Machine

/-- The faults of a step: the spec gives every command an effect, so there is none. -/
inductive Fault
deriving DecidableEq, Repr

/-- The refusals of a step. -/
inductive Refusal
  /-- raised by the dispatcher for a command that has no meaning yet; safe: the run stops -/
  | notModelled (mnemonic : String)
deriving DecidableEq, Repr

/-- The state of the device. -/
structure State where
  /-- the GTC instant of the latest command, in fine ticks (R53, assumption log 1) -/
  now : Time := 0
  /-- the commands that wait, first in, first out -/
  pending : List Instr := []
  /-- the register words that differ from their reset values, by address (R32, R52) -/
  regs : List (Nat × Word) := []
  /-- the hidden state of the register pages, by page base -/
  pages : List (Nat × PageSt) := []
  /-- the on-chip memories, by address (assumption log 5) -/
  mem : List Host.Cell := []
  /-- the per-master selectors (R349) -/
  sels : List (Nat × Selectors) := []
  /-- what the latest read returned to its master -/
  rd : DWord := 0
  /-- the model's own counter that tells open values apart (assumption log 2) -/
  freeCtr : Nat := 0
  dev : DevSt := {}
  time : TimeSt := {}
  weir : WeirSt := {}
  sess : SessSt := {}
  bw : BwSt := {}
  fbp : Vector FbpSt 48 := Vector.replicate 48 {}
  fbSel : Vector FbSelSt 64 := Vector.replicate 64 {}
  ax : Vector AxSt 64 := Vector.replicate 64 {}
  mig : MigSt := {}
  /-- cores: 0 to 27 Stone, 28 to 31 millwright, 32 the Brakewheel pair -/
  core : Vector CoreSt 33 := Vector.replicate 33 {}
  /-- memory words with a flipped bit: address and number of bits, 1 or 2 (R215, R37) -/
  ecc : List (Nat × Nat) := []
  sdm : Vector SdmSt 48 := Vector.replicate 48 {}
  aux : Vector AuxSt 2 := Vector.replicate 2 {}
  pwm : Vector PwmSt 48 := Vector.replicate 48 {}
  /-- levels of the `TRIP_IN` pins, bit j for pin j (R154, assumption log 28) -/
  tins : Nat := 15
  psp : Vector PspSt 48 := Vector.replicate 48 {}
  ws : Vector WsAx 64 := Vector.replicate 64 {}
  stp : Vector StepSt 64 := Vector.replicate 64 {}
  grp : Vector WsGrp 16 := Vector.replicate 16 {}
  sset : Vector StartSet 16 := Vector.replicate 16 {}
  wall : WallSt := {}
  lat : LatchUnit := {}
  hop : HopSt := {}
  fi : Vector FiSt 32 := Vector.replicate 32 {}
  fo : Vector FoSt 32 := Vector.replicate 32 {}
  can : Vector CanSt 16 := Vector.replicate 16 {}
  eth : Vector EthPort 4 := Vector.replicate 4 {}
  race : Vector RaceSt 2 := Vector.replicate 2 {}
  red : RedSt := {}
  pwr : PwrSt := {}
  host : HostSt := {}
  spi : SpiSt := {}
  bist : BistSt := {}
deriving DecidableEq, Repr, Inhabited

/-- The device right after release from STANDBY (R52, power-up step P6), with the events of the release (R67, R535)
on their way and MT_STAT.GTC_RESTART 0 (R54, assumption log 117). -/
def State.reset : State := { weir := { pend := [⟨0, 0x170, 0x02, 0⟩, ⟨0, 0x180, 0x01, 0⟩] } }

end Sys2Proof.Machine
end

