-- ==== Sys2Proof/Machine/Clock.lean ====
section
/-! DEFINITION. The PTP clocks, the continuity offset C and machine time as functions of the
instant (R53, R57, R61, R62), and the CRCs. -/

namespace Sys2Proof.Machine

/-- The TCLK edge count of an instant: TCLK edges are the whole nanoseconds of the GTC (R53). -/
def edgeOf (t : Time) : Nat := t / 16

/-- The value of a PTP clock at a TCLK edge, in 2^-32 ns since second 0 (R57). -/
def PtpClock.at (c : PtpClock) (e : Nat) : Nat := c.val + (e - c.edge) * c.incr

/-- The clock rebased at a TCLK edge. -/
def PtpClock.rebase (c : PtpClock) (e : Nat) : PtpClock := { c with val := c.at e, edge := max e c.edge }

/-- The slew step of R62 in 2^-32 ns per TCLK edge. -/
def slewStep : Nat := 429496

/-- C at a TCLK edge, in 2^-32 ns (R61, R62). -/
def TimeSt.cAt (t : TimeSt) (e : Nat) : Int :=
  let d : Nat := slewStep * (e - t.cEdge)
  if t.c.natAbs ≤ d then 0 else if 0 ≤ t.c then t.c - d else t.c + d

/-- The TCLK edge at which the slew ends: C is exactly zero (R62). -/
def TimeSt.slewEnd (t : TimeSt) : Nat := t.cEdge + cdiv t.c.natAbs slewStep

/-- Seconds word of a clock value (R57, R60): 48 bits. -/
def secOf (v : Nat) : Nat := v / (1000000000 * 2 ^ 32) % 2 ^ 48
/-- `NSF` word of a clock value (R60): fraction in [31:0], nanoseconds in [61:32]. -/
def nsfOf (v : Nat) : Nat := v % (1000000000 * 2 ^ 32)

/-- The register word at an address, as the block holds it. -/
def State.rg (s : State) (a : Nat) : Word := tget (resetWord a) s.regs a
/-- The state with a register word set. -/
def State.setRg (s : State) (a : Nat) (v : Word) : State :=
  { s with regs := tset (resetWord a) s.regs a v }
/-- Field [hi:lo] of a register word. -/
def State.fld (s : State) (a hi lo : Nat) : Nat := wfld (s.rg a) hi lo
/-- Bit `i` of a register word. -/
def State.bit (s : State) (a i : Nat) : Bool := wbit (s.rg a) i
/-- The state with field [hi:lo] of a register word set. -/
def State.putFld (s : State) (a hi lo v : Nat) : State := s.setRg a (wput (s.rg a) hi lo v)
/-- The state with bit `i` of a register word set to `b`. -/
def State.putBit (s : State) (a i : Nat) (b : Bool) : State := s.putFld a i i (b2n b)
/-- The 64-bit register whose low word is at `a`. -/
def State.rg64 (s : State) (a : Nat) : Nat := (s.rg a).toNat + (s.rg (a + 4)).toNat * 2 ^ 32
/-- The state with a 64-bit register set. -/
def State.setRg64 (s : State) (a v : Nat) : State :=
  (s.setRg a (BitVec.ofNat 32 v)).setRg (a + 4) (BitVec.ofNat 32 (v >>> 32))
/-- A 64-bit register as a signed number. -/
def State.sgn64 (s : State) (a : Nat) : Int := sx 64 (s.rg64 a)
/-- A 32-bit register as a signed number. -/
def State.sgn32 (s : State) (a : Nat) : Int := (s.rg a).toInt
/-- The state with a saturating count in field [hi:lo] increased by `n`. -/
def State.count (s : State) (a hi lo n : Nat) : State :=
  s.putFld a hi lo (min (2 ^ (hi + 1 - lo) - 1) (s.fld a hi lo + n))
/-- The state with bits of `PG_IRQ` set by the block, and the TCLK edge noted (R40). -/
def State.irq (s : State) (b bits : Nat) : State :=
  let p : PageSt := tget {} s.pages b
  let old := if p.irqAt.1 = edgeOf s.now then p.irqAt.2 else 0
  { s.setRg (R.PG_IRQ b) (s.rg (R.PG_IRQ b) ||| BitVec.ofNat 32 bits) with
    pages := tset {} s.pages b { p with irqAt := (edgeOf s.now, old ||| bits) } }

/-- The selected clock of machine time: 0 for PTP0, 1 for PTP1 (`TIME.MT_STAT.SEL`). -/
def State.sel (s : State) : Bool := s.bit R.TIME.MT_STAT 1
/-- TIME_UNSURE. -/
def State.unsure (s : State) : Bool := s.bit R.TIME.MT_STAT 0
/-- TIME_UNSURE as it stands at a TCLK edge up to now: at the edge of a change it has its new value (R69). Of a change and
an action at one edge, the change must come first in the queue (DEDUCED, assumption log 163). -/
def State.unsureAt (s : State) (e : Nat) : Bool := if e < s.time.unsureAt then !s.unsure else s.unsure
/-- The PTP clock of race `n`. -/
def State.ptp (s : State) (n : Bool) : PtpClock := if n then s.time.ptp1 else s.time.ptp0
/-- Machine time at a TCLK edge, in 2^-32 ns: the selected PTP clock plus C. -/
def State.mtAt (s : State) (e : Nat) : Int := ((s.ptp s.sel).at e : Int) + s.time.cAt e
/-- Machine time now, in 2^-32 ns. -/
def State.mt (s : State) : Int := s.mtAt (edgeOf s.now)
/-- The machine time that a seconds register and a nanoseconds-and-fraction register name, in 2^-32 ns. -/
def mtOfRegs (secs nsf : Nat) : Int := (secs % 2 ^ 48 * 1000000000 * 2 ^ 32 + nsf % 2 ^ 62 : Nat)
/-- Machine time is equal to or later than a target instant now (R64). -/
def State.mtReached (s : State) (target : Int) : Bool := target ≤ s.mt

/-- One bit step of a reflected CRC-32. -/
def crc32Bit (c : Nat) : Nat := if c % 2 = 1 then (c / 2) ^^^ 0xEDB88320 else c / 2
/-- One byte of the IEEE 802.3 CRC-32. -/
def crc32Byte (c b : Nat) : Nat := (List.range 8).foldl (fun c _ => crc32Bit c) (c ^^^ b)
/-- The IEEE 802.3 CRC-32 of a byte string. -/
def crc32 (bs : List Nat) : Nat := (bs.foldl crc32Byte 0xFFFFFFFF) ^^^ 0xFFFFFFFF
/-- The four bytes of a word, low byte first (R5). -/
def wordBytes (w : Word) : List Nat := [wfld w 7 0, wfld w 15 8, wfld w 23 16, wfld w 31 24]
/-- The four bytes of a word, high byte first (R5, frames). -/
def wordBytesBE (w : Word) : List Nat := [wfld w 31 24, wfld w 23 16, wfld w 15 8, wfld w 7 0]
/-- A CRC of `n` bits over bits sent most significant first: polynomial `poly`, initial value `init`. -/
def crcMsb (n poly init : Nat) (bits : List Bool) : Nat :=
  bits.foldl (fun c b =>
    let top := xor (c.testBit (n - 1)) b
    let c' := (c * 2) % 2 ^ n
    if top then c' ^^^ poly else c') init
/-- The bits of a byte, most significant first. -/
def byteBits (b : Nat) : List Bool := (List.range 8).map (fun i => b.testBit (7 - i))
/-- The low `n` bits of a number, most significant first. -/
def bitsMsb (n v : Nat) : List Bool := (List.range n).map (fun i => v.testBit (n - 1 - i))
/-- The number that bits spell, most significant first. -/
def ofBitsMsb (bs : List Bool) : Nat := bs.foldl (fun a b => a * 2 + b2n b) 0

end Sys2Proof.Machine
end

