-- ==== Sys2Proof/Machine/Ops.lean ====
section
/-! DEFINITION. The shared operations over registers, pages, memory and events: posting to the Weir
(R71, R75), the page header (R37 to R43, R569, R570), staging (R44 to R46), generic reads and writes
under the access codes (R8), mapping errors (R33 to R35), memories, and open values. -/

namespace Sys2Proof.Machine

/-! ### Time, open values and events -/

/-- A fresh open value and the state with the counter advanced (assumption log 2). -/
def State.free (s : State) : BitVec 64 × State :=
  (Config.freeValue s.freeCtr, { s with freeCtr := s.freeCtr + 1 })

/-- An open value limited to [lo, hi], where the spec bounds it. -/
def State.freeIn (s : State) (lo hi : Int) : Int × State :=
  (lo + (s.free.1.toNat : Int) % (hi - lo + 1), s.free.2)

/-- How many events of a source wait in its buffer (R75): its own events, not the records that the Weir makes of
late events and stalls (R73, R74). -/
def State.buffered (s : State) (src : Nat) : Nat :=
  (s.weir.pend.filter (fun e => e.src == src && e.code != 0x3E && e.code != 0x3F)).length
/-- An event joins the list in posting order: events of one source with equal stamps stand in increasing code (R71). -/
def putEvent (e : EvRec) : List EvRec → List EvRec
  | [] => [e]
  | f :: r => if f.src = e.src ∧ f.stamp = e.stamp ∧ e.code < f.code then e :: f :: r else f :: putEvent e r

/-- A source posts an event: into its buffer of 16, or dropped with the newest counted (R71, R75). -/
def State.post (s : State) (src code : Nat) (stamp : Time) (payload : Nat) : State :=
  if s.buffered src < 16 then
    { s with weir := { s.weir with
        pend := putEvent ⟨stamp, src, code, payload % 2 ^ 48⟩ s.weir.pend } }
  else
    let old := (tget (0, stamp) s.weir.dropped src : Nat × Nat)
    ({ s with weir := { s.weir with
        dropped := tput s.weir.dropped src (some (min 0xFFFF (old.1 + 1), if old.1 = 0 then stamp else old.2)) } }).irq
      R.WEIR.base 0x1000

/-- Posts an event stamped now. -/
def State.postNow (s : State) (src code payload : Nat) : State := s.post src code s.now payload

/-- A unit sends a fault report to the ladder (R465). -/
def State.report (s : State) (code unit axes : Nat) (dev : Bool) (level : Nat) : State :=
  { s with bw := { s.bw with inbox := s.bw.inbox ++ [{ code, unit, axes, dev, level, set := true }] } }
/-- A unit reports a fault clear (R465, R469). -/
def State.reportClear (s : State) (code unit : Nat) : State :=
  { s with bw := { s.bw with inbox := s.bw.inbox ++ [{ code, unit, axes := 0, dev := false, level := 0, set := false }] } }

/-! ### Pages -/

/-- The hidden state of the page at base `b`. -/
def State.page (s : State) (b : Nat) : PageSt := tget {} s.pages b
/-- The state with a page's hidden state changed. -/
def State.setPage (s : State) (b : Nat) (f : PageSt → PageSt) : State :=
  { s with pages := tset {} s.pages b (f (s.page b)) }
/-- The selectors of a master (R349). -/
def State.selOf (s : State) (m : Master) : Selectors := tget {} s.sels m.code
/-- The state with a master's selectors changed. -/
def State.setSel (s : State) (m : Master) (f : Selectors → Selectors) : State :=
  { s with sels := tset {} s.sels m.code (f (s.selOf m)) }

/-- The block instance is enabled (R37). -/
def State.en (s : State) (b : Nat) : Bool := s.bit (R.PG_CTRL b) 0
/-- A soft reset of the page is in progress (R38). -/
def State.busy (s : State) (b : Nat) : Bool := s.bit (R.PG_STAT b) 0
/-- The page interrupt: the OR of `PG_IRQ` AND `PG_IRQ_EN` (R40). -/
def State.pageIrq (s : State) (b : Nat) : Bool := (s.rg (R.PG_IRQ b) &&& s.rg (R.PG_IRQ_EN b)) ≠ 0
/-- `PG_LOCK.FAILS` counted up by one, saturating (R41, R42). -/
def State.failInc (s : State) (b : Nat) : State := s.count (R.PG_LOCK b) 15 8 1
/-- `PG_STAT.PAIR_ERR` set (R48, R49). -/
def State.pairErr (s : State) (b : Nat) : State := s.putBit (R.PG_STAT b) 3 true

/-- A safety page: BRAKE and PSP (R43). -/
def isSafety (b : Nat) : Bool := tyOf b == 0x14 || tyOf b == 0x7
/-- The master owns the unlocked page. -/
def State.owns (s : State) (b : Nat) (m : Master) : Bool :=
  s.bit (R.PG_LOCK b) 0 && s.fld (R.PG_LOCK b) 3 1 == m.code
/-- The master may write RW-L fields of the page: it owns the unlocked page, and on a safety page a
password session of the same master is open (R42, R43). -/
def State.lockOk (s : State) (b : Nat) (m : Master) : Bool :=
  s.owns b m && (!isSafety b || (s.sess.state == .opened && s.sess.owner == m))

/-- An open unlock sequence is aborted and counted once (R41). -/
def State.abortSeq (s : State) (b : Nat) : State :=
  match (s.page b).keySeq with
  | none => s
  | some _ => (s.setPage b (fun p => { p with keySeq := none })).failInc b

/-- The register pages are accessible: the device is in READY, RUN or SAFE (R31, R492), and no power-down has come to
step D3 (R519). -/
def State.up (s : State) : Bool :=
  (s.dev.st == .ready || s.dev.st == .run || s.dev.st == .safe) && decide (s.pwr.down < 4)
/-- A write that reaches a page: without effect while the pages are not accessible (R31), discarded while a soft reset
runs (R38), otherwise it aborts an open unlock sequence (R41) and then has its own effect. -/
def State.onPage (s : State) (b : Nat) (k : State → State) : State :=
  if !s.up || s.busy b then s else k (s.abortSeq b)

/-- A freeze snapshot is held. -/
def State.frozen (s : State) (pg : Nat) : Bool := s.bit (R.PG_CTRL pg) 2
/-- The captured word of a register, while one is held (R39). -/
def State.snapOf (s : State) (pg b : Nat) : Option Word :=
  if s.frozen pg then ((s.page pg).snap.find? (fun p => p.1 == b)).map (fun p => p.2) else none
/-- What a read of a pop word returns where it pops nothing: 0 while the pages are not accessible (R31), and the
captured word while a freeze snapshot is held (R39, assumption log 154). -/
def State.popShut (s : State) (a : Nat) : Option Word := if !s.up then some 0 else s.snapOf (pageOf a) a

/-- CFG_REFUSED of a page: bit 16 of `PG_STAT` (R117 and the rules of the pages that name it). -/
def State.cfgRefused (s : State) (b : Nat) : State := s.putBit (R.PG_STAT b) 16 true
/-- CMD_REFUSED of a page: bit 17 of `PG_STAT`. -/
def State.cmdRefused (s : State) (b : Nat) : State := s.putBit (R.PG_STAT b) 17 true

/-! ### The safety change log (R483, R484) -/

/-- The CRC word of a log entry: over words 0 to 6 and word 7 of the previous entry (R483). -/
def logCrc (ws : List Word) (prev : Word) : Word :=
  BitVec.ofNat 32 (crc32 ((ws ++ [prev]).flatMap wordBytes))

/-- The log is full: every write that needs an entry is refused (R484). -/
def State.logFull (s : State) : Bool := 1024 ≤ s.sess.log.length
/-- The log has no room for the entries of a write to a row: one per word (R483). -/
def State.logShort (s : State) (r : RegRow) : Bool := 1024 < s.sess.log.length + (if r.wide then 2 else 1)

/-- The log is appended by one entry: page, offset, special kind (0 for none), old and new value (R483). -/
def State.logEntry (s : State) (b off special : Nat) (old new : Word) : State :=
  let mtNs : Nat := (s.mt / 2 ^ 32).toNat
  let w3 := off % 0x1000 + b2n s.unsure * 0x1000 + (if special = 0 then 0 else 0x2000 + special * 0x4000)
  let w2 := s.sess.user % 0x10000 + tyOf b * 0x10000 + instOf b * 0x1000000
  let ws : List Word := [BitVec.ofNat 32 mtNs, BitVec.ofNat 32 (mtNs >>> 32), BitVec.ofNat 32 w2,
    BitVec.ofNat 32 w3, old, new, BitVec.ofNat 32 s.sess.log.length]
  let prev := match s.sess.log.getLast? with
    | some e => e.getD 7 0
    | none => s.sess.chain
  { s with sess := { s.sess with log := s.sess.log ++ [ws ++ [logCrc ws prev]], since := s.now } }

/-- A write that needs an entry is refused because the log is full (R484). -/
def State.logRefuse (s : State) (b : Nat) : State :=
  (((s.putBit R.BRAKE.STAT 7 true).failInc b).irq R.BRAKE.base 0x20).postNow 0x148 0x09 1

/-! ### Writes under the access codes -/

/-- A value with the row's clamped fields brought into their ranges. -/
def clampFields (cl : List (Nat × Nat × Nat × Nat)) (v : Nat) : Nat :=
  cl.foldl (fun v c =>
    let f := bitsN v c.1 c.2.1
    v - f * 2 ^ c.2.1 + clampN c.2.2.1 c.2.2.2 f * 2 ^ c.2.1) v

/-- The bits of `m` taken from `v`, the others from `old`. -/
def mixBits (old v m : Nat) : Nat := (old ^^^ (old &&& m)) ||| (v &&& m)

/-- The value a row holds at its address, 64 bits for a wide row. -/
def State.rowVal (s : State) (r : RegRow) (a : Nat) : Nat :=
  if r.wide then s.rg64 a else (s.rg a).toNat
/-- The state with a row's value set. -/
def State.setRow (s : State) (r : RegRow) (a v : Nat) : State :=
  if r.wide then s.setRg64 a v else s.setRg a (BitVec.ofNat 32 v)

/-- The value a row holds after a write of `v`, RW-L fields included when `lk` holds (R8, R570). -/
def RegRow.written (r : RegRow) (lk : Bool) (old v : Nat) : Nat :=
  let m := r.rw ||| (if lk then r.rwl else 0)
  let n := clampFields r.clamp (mixBits old v m)
  n ^^^ (n &&& (v &&& r.w1c))

/-- A value staged for an RW-S register: word by word (R44). -/
def State.stage (s : State) (pg : Nat) (r : RegRow) (a v : Nat) : State :=
  let lo : Staged := ⟨a - pg, BitVec.ofNat 32 (v &&& r.rws), s.now⟩
  let hi : Staged := ⟨a + 4 - pg, BitVec.ofNat 32 ((v &&& r.rws) >>> 32), s.now⟩
  s.setPage pg (fun p => { p with staged := p.staged ++ (if r.wide then [lo, hi] else [lo]) })

/-- The generic effect of a write to the register at `a` shown on page `pg`: field by field under the
access codes (R8, R42, R43, R44, R483, R570). -/
def State.writeRow (s : State) (m : Master) (pg a : Nat) (r : RegRow) (v : Nat) : State :=
  let old := s.rowVal r a
  let lk := s.lockOk pg m
  if r.rws ≠ 0 then s.stage pg r a v
  else if r.rwl = 0 then s.setRow r a (r.written false old v)
  else if lk && isSafety pg && s.logShort r then (s.setRow r a (r.written false old v)).logRefuse pg
  else if lk then
    let new := r.written true old v
    let s1 := if isSafety pg then
        let s0 := s.logEntry pg (a % 0x1000) 0 (wordOf false old) (wordOf false new)
        if r.wide then s0.logEntry pg (a % 0x1000 + 4) 0 (wordOf true old) (wordOf true new) else s0
      else s
    (s1.setRow r a new).setPage pg (fun p => { p with lockFrom := s.now })
  else
    let s1 := s.setRow r a (r.written false old v)
    if (old ^^^ r.written true old v) &&& r.rwl ≠ 0 then s1.failInc pg else s1

/-- The write of the register at `a` of page `pg` with no meaning of its own. -/
def State.writeReg (s : State) (m : Master) (pg a v : Nat) : State :=
  match findReg a with
  | some (r, false) => s.writeRow m pg a r v
  | _ => s

/-! ### Mapping errors and the windowed banks -/

/-- A mapping error: the flag, the address and the master (R33 to R35). -/
def State.mapErr (s : State) (m : Master) (a bitNo : Nat) : State :=
  ((s.putBit R.SYS.MAP_ERR bitNo true).putFld R.SYS.MAP_ERR 5 3 m.code).setRg R.SYS.MAP_ADDR (BitVec.ofNat 32 a)

/-- The address of the register that an access with the selectors `sl` shows at a BAR0 address: the selected
instance behind the windows of WALL, CAPT, CAN and BRAKE, or the address itself (R349, R409, R488). -/
def bankOf (sl : Selectors) (a : Nat) : Nat :=
  let o := offOf a
  match tyOf a with
  | 0x0d => if 0x100 ≤ o ∧ o < 0x160 then R.LINK.base sl.lsel + o
            else if 0x200 ≤ o ∧ o < 0x220 then R.CT.base sl.tsel + o else a
  | 0x0e => if 0x100 ≤ o ∧ o < 0x128 then R.LT.base sl.ltsel + o else a
  | 0x11 => if 0x300 ≤ o ∧ o < 0x360 then R.TXB.base (instOf a * 32 + tget 0 sl.txsel (instOf a)) + o else a
  | 0x14 => if 0x200 ≤ o ∧ o < 0x224 then R.SM.base sl.smsel + o
            else if 0x400 ≤ o ∧ o < 0x440 then R.CONN.base sl.csel + o else a
  | _ => a

/-! ### Memories -/

/-- The byte an address of a memory reads as: 0 where nothing has been written (assumption log 5). -/
def Memory.read (m : List Host.Cell) (a : Nat) : Byte := tget 0 m a
/-- A byte stored, in canonical form. -/
def Memory.write (m : List Host.Cell) (a : Nat) (b : Byte) : List Host.Cell := tset 0 m a b
/-- The canonical form of a memory. -/
def Memory.wf (m : List Host.Cell) : Bool := twf (fun _ => (0 : Byte)) m
/-- `n` bytes from `a`, little-endian (R5). -/
def Memory.readN (m : List Host.Cell) (a : Nat) : Nat → Nat
  | 0 => 0
  | n + 1 => (Memory.read m a).toNat + 256 * Memory.readN m (a + 1) n
/-- `n` bytes stored at `a`, little-endian (R5). -/
def Memory.writeN (m : List Host.Cell) (a v : Nat) : Nat → List Host.Cell
  | 0 => m
  | n + 1 => Memory.writeN (Memory.write m a (BitVec.ofNat 8 v)) (a + 1) (v / 256) n

/-- The 32-bit word at byte address `a` of the memories. -/
def State.ldw (s : State) (a : Nat) : Word := BitVec.ofNat 32 (Memory.readN s.mem a 4)
/-- The state with a 32-bit word stored at byte address `a`. -/
def State.stw (s : State) (a : Nat) (w : Word) : State := { s with mem := Memory.writeN s.mem a w.toNat 4 }

/-- The base of the pond, which only BAR2 shows (assumption log 5). -/
def pondBase : Nat := 0x100000000
/-- The base of the Hopper memory, which only BAR2 shows (assumption log 5). -/
def hopperBase : Nat := 0x110000000
/-- The base of the configuration store (assumption log 5). -/
def cfsBase : Nat := 0x200000000
/-- The base of the backup SRAM (assumption log 5). -/
def bsramBase : Nat := 0x210000000
/-- The base of the host's own memory as far as the device has written or read it (assumption log 5). -/
def hostBase : Nat := 0x10000000000000000

/-! ### Staging (R44 to R46) -/

/-- The staging cutoff of a commit instant: 80 ns before it (R17). -/
def cutoffOf (tc : Time) : Time := tc - ns 80

/-- The staged register writes of a page that a commit instant releases, oldest first: those whose
staging cutoff falls after the write, unless HOLD keeps them (R44, R46). -/
def State.releasable (s : State) (pg : Nat) (tc : Time) : List Staged :=
  if s.bit (R.PG_SHADOW pg) 0 then [] else (s.page pg).staged.filter (fun w => w.from_ + ns 80 ≤ tc)

/-- The staged writes that stay staged after the release of R44. -/
def State.unreleased (s : State) (pg : Nat) (tc : Time) : List Staged :=
  if s.bit (R.PG_SHADOW pg) 0 then (s.page pg).staged
  else (s.page pg).staged.filter (fun w => tc < w.from_ + ns 80)

/-- The clamp fields of the register at an address. -/
def clampAt (a : Nat) : List (Nat × Nat × Nat × Nat) :=
  match findReg a with
  | some (r, false) => r.clamp
  | _ => []

/-- The staged register writes of a page take effect at a commit instant (R44). -/
def State.releaseStaged (s : State) (pg : Nat) (tc : Time) : State :=
  let ws := s.releasable pg tc
  let rest := s.unreleased pg tc
  let s1 := ws.foldl (fun s w =>
    s.setRg (pg + w.off) (BitVec.ofNat 32 (clampFields (clampAt (pg + w.off)) w.val.toNat))) s
  s1.setPage pg (fun p => { p with staged := rest })

end Sys2Proof.Machine
end

