-- ==== Sys2Proof/Machine/Msix.lean ====
section
/-! DEFINITION. MSI-X messages and routed vectors (R504, R505). -/

namespace Sys2Proof.Machine

/-- The state with the host interface changed. -/
def State.setHost (s : State) (f : HostSt → HostSt) : State := { s with host := f s.host }
/-- A mask with a bit set or cleared. -/
def putBitN (m i : Nat) (b : Bool) : Nat := if b then m ||| 2 ^ i else m ^^^ (m &&& 2 ^ i)
/-- Bytes written to host memory (assumption log 5). -/
def State.hostWrite (s : State) (a : Nat) (b : List Byte) : State :=
  (b.zipIdx).foldl (fun (s : State) x => { s with mem := Memory.write s.mem (hostBase + (a + x.2) % 2 ^ 64) x.1 }) s
/-- Words written to host memory, little-endian (R5). -/
def State.hostWords (s : State) (a : Nat) (ws : List Word) : State :=
  s.hostWrite a ((ws.flatMap wordBytes).map (fun b => BitVec.ofNat 8 b))
/-- The PCIe link is up. -/
def State.pcieUp (s : State) : Bool := wbit (tget 0 s.regs R.HOST.STAT) 0
/-- The PCIe PLL relocks: writes to host memory are held (R525). -/
def State.pcieHeld (s : State) : Bool := wbit (tget 0 s.regs R.SYS.CLK_MON) 10
/-- The address of a vector's entry in the MSI-X table (R504). -/
def msixEntry (v : Nat) : Nat := R.HOST.base + 0x800 + 16 * v
/-- A message of a vector: sent, set pending while the vector is masked, or held (R504, R505, R525). -/
def State.msiSend (s : State) (v : Nat) : State :=
  if !s.pcieUp then s
  else if s.pcieHeld then s.setHost (fun h => { h with due := putBitN h.due v true })
  else if s.bit (msixEntry v + 12) 0 then
    s.setHost (fun h => { h with pba := putBitN h.pba v true, due := putBitN h.due v false })
  else
    (s.hostWords (s.rg64 (msixEntry v)) [s.rg (msixEntry v + 8)]).setHost (fun h => { h with
      pba := putBitN h.pba v false, due := putBitN h.due v false, sent := tput h.sent v (some s.now) })
/-- The instant from which vectors 0 to 11 may send again: `COAL` after their latest message (R504). -/
def State.msiFrom (s : State) (v : Nat) : Time :=
  match s.host.sent.find? (fun p => p.1 == v) with
  | some p => p.2 + us (s.fld R.HOST.COAL 15 0)
  | none => 0
/-- The device has written an entry of a ring: a message, at most once per `COAL` (R504). -/
def State.msiEntry (s : State) (v : Nat) : State :=
  if s.now < s.msiFrom v then s.setHost (fun h => { h with due := putBitN h.due v true }) else s.msiSend v
/-- The messages that waited for the end of `COAL` are sent as it comes (R504). -/
def State.coalLapse (s : State) (t : Time) : State :=
  if s.host.due % 2 ^ 12 = 0 ∨ s.pcieHeld then s else
  (List.range 12).foldl (fun (s : State) v =>
    if bitN s.host.due v && decide (s.msiFrom v ≤ t) then
      (s.msiSend v).setHost (fun h => { h with sent := h.sent.map (fun p => if p.1 = v then (v, max p.2 (s.msiFrom v)) else p) })
    else s) s
/-- The enabled entries of `HOST.ROUTE` that name a vector from 12 to 63 (R505). -/
def State.routes (s : State) : List Word :=
  (s.regs.filter (fun p => decide (R.HOST.ROUTE 0 ≤ p.1) && decide (p.1 < R.HOST.ROUTE 48) && wbit p.2 31 &&
    decide (12 ≤ wfld p.2 29 24))).map (fun p => p.2)
/-- A page that an entry covers asserts its page interrupt (R40, R505). -/
def State.routeOn (s : State) (w : Word) : Bool :=
  (List.range 64).any (fun n => decide (wfld w 15 8 ≤ n) && decide (n ≤ wfld w 23 16) && pageExists (pageBase (wfld w 4 0) n) &&
    s.pageIrq (pageBase (wfld w 4 0) n))
/-- The vectors that are pending: 11 with the HOST page interrupt, 12 to 63 with their routes (R504, R505). -/
def State.vecMask (s : State) : Nat :=
  let own := (tget 0 s.regs (R.PG_IRQ R.HOST.base) &&& tget 0 s.regs (R.PG_IRQ_EN R.HOST.base)) != 0
  s.routes.foldl (fun m w => if s.routeOn w then putBitN m (wfld w 29 24) true else m) (b2n own * 2 ^ 11)
/-- Vectors that become pending send a message; those that stop being pending drop theirs (R505). -/
def State.vecEval (s : State) : State :=
  let m := s.vecMask
  if m = s.host.vecs then s else
  let old := s.host.vecs
  let s1 := s.setHost (fun h => { h with
    vecs := m, pba := h.pba ^^^ (h.pba &&& (old ^^^ (old &&& m))), due := h.due ^^^ (h.due &&& (old ^^^ (old &&& m))) })
  (List.range 64).foldl (fun (s : State) v => if bitN m v && !bitN old v then (if v = 11 then s.msiEntry v else s.msiSend v) else s) s1

end Sys2Proof.Machine
end

