-- ==== Sys2Proof/Machine/CanQueue.lean ====
section
/-! DEFINITION. The receive queues of the CAN controllers: storing a record, and losing one (R405, R407). -/

namespace Sys2Proof.Machine

/-- A controller. -/
def State.cn (s : State) (n : Nat) : CanSt := vget s.can n
/-- The state with a controller changed. -/
def State.setCan (s : State) (n : Nat) (f : CanSt → CanSt) : State := { s with can := vupd s.can n f }
/-- The KCLK edge at which a write acts (R1). -/
def kclkEdge (t : Time) : Nat := cdiv t 200
/-- `LEVEL` shows the records of a queue. -/
def State.canLevel (s : State) (n q : Nat) : State :=
  s.setRg (R.CAN.RXQ_LEVEL n q) (BitVec.ofNat 32 (vget (s.cn n).queues q).length)
/-- A record goes into a queue with room for it, and RX is posted, stamped at its acceptance (R405, R407). -/
def State.canStore (s : State) (n : Nat) (x : CanLate) : State :=
  let l := (vget (s.cn n).queues x.q).length
  let s1 := (s.setCan n (fun c => { c with queues := vupd c.queues x.q (· ++ [x.record]) })).canLevel n x.q
  let s2 := s1.post (0x0C0 + n) 0x01 x.at_ x.payload
  if l + 1 = nz (s2.fld (R.CAN.RXQ_IRQ_LEVEL n x.q) 6 0) then s2.irq (R.CAN.base n) (2 ^ x.q) else s2
/-- A frame that found its queue full is lost: `OVF` and RX_OVF (R405). -/
def State.canLose (s : State) (n : Nat) (x : CanLate) : State :=
  (((s.setCan n (fun c => { c with late := none })).count (R.CAN.RXQ_OVF n x.q) 15 0 1).post (0x0C0 + n) 0x05 x.at_ x.q).irq
    (R.CAN.base n) 4
/-- The frames of KCLK edges before that of `t` that found their queue full are lost (R405). -/
def State.canSettle (s : State) (t : Time) : State :=
  if s.can.toList.all (fun c => c.late.isNone) then s else
  (List.range 16).foldl (fun (s : State) n =>
    match (s.cn n).late with
    | some x => if x.edge < kclkEdge t then s.canLose n x else s
    | none => s) s
/-- A pop at the KCLK edge of the acceptance comes first, so that the frame is stored (R405). -/
def State.canRoom (s : State) (n q : Nat) : State :=
  match (s.cn n).late with
  | some x =>
    if x.q = q ∧ (vget (s.cn n).queues q).length < 64 then (s.setCan n (fun c => { c with late := none })).canStore n x else s
  | none => s

end Sys2Proof.Machine
end

