-- ==== Sys2Proof/Machine/HostTag.lean ====
section
/-! DEFINITION. Command tags and completions of the host interface (R493 to R496, R499 to R502). -/

namespace Sys2Proof.Machine

/-! ### Tags and completions (R496, R499 to R502) -/

/-- A tag. -/
def State.tag (s : State) (i : Nat) : Tag := tget {} s.host.tags i
/-- The state with a tag set. -/
def State.setTag (s : State) (i : Nat) (x : Tag) : State := s.setHost (fun h => { h with tags := tset {} h.tags i x })
/-- Index and generation of a tag word. -/
def tagIdx (w : Nat) : Nat := w % 8192
/-- The generation in a tag word. -/
def tagGen (w : Nat) : Nat := w / 8192 % 8
/-- Entries of a submission ring and its completion ring. -/
def State.ringSize (s : State) (r : Nat) : Nat := 2 ^ clampN 4 12 (s.fld (R.HOST.SQ_CFG r) 4 1)
/-- Writes to host memory go through: the link is up and its PLL is locked (R525). -/
def State.hostOk (s : State) : Bool := s.pcieUp && !s.pcieHeld

/-- A completion is written to CQ `r` (R496): `own` says whose index its acknowledgement frees. -/
def State.postCq (s : State) (r tag status bytes : Nat) (data : Option DWord) (own : Option Nat) : State :=
  let n := s.ringSize r
  let t := s.fld (R.HOST.CQ_TAIL r) 11 0
  let ph := !bitN s.host.odd r
  let d : Nat := match data with | some d => d.toNat | none => s.now
  let ws : List Word := [BitVec.ofNat 32 (tag + status * 2 ^ 16 + b2n ph * 2 ^ 31), BitVec.ofNat 32 bytes, BitVec.ofNat 32 d,
    BitVec.ofNat 32 (d >>> 32)]
  let s1 := (s.hostWords (s.rg64 (R.HOST.CQ_BASE r) + 16 * t) ws).setRg (R.HOST.CQ_TAIL r) (BitVec.ofNat 32 ((t + 1) % n))
  (s1.setHost (fun h => { h with
    cq := vupd h.cq r (· ++ [own]), odd := if t + 1 = n then putBitN h.odd r ph else h.odd })).msiEntry r
/-- A completion of a command with its own tag: the index becomes DONE (R500). -/
def State.postOwn (s : State) (c : HostCmd) (e : CmdEnd) : State :=
  let w := (c.desc.getD 0 0).toNat / 2 ^ 16
  let x := s.tag (tagIdx w)
  (s.postCq c.ring w e.status e.bytes e.data (some (tagIdx w))).setTag (tagIdx w) { x with st := 2 }
/-- TAG_BUSY (5) or TAG_GEN (6): the descriptor completes at once (R499). -/
def State.postReject (s : State) (r w status : Nat) : State :=
  ((s.postCq r w status 0 none none).count R.HOST.TAG_ERR 31 16 1).irq R.HOST.base 1
/-- How a descriptor ends that no effect follows: BAD_OPCODE, BAD_LEN or BAD_ADDR (R493, R495). -/
def badDesc (cls : Nat) (d : List Word) : Option CmdEnd :=
  let op := wfld (d.getD 0 0) 7 0
  let len := wfld (d.getD 1 0) 23 0
  let addr := (d.getD 4 0).toNat + (d.getD 5 0).toNat * 2 ^ 32
  let e (n : Nat) : Option CmdEnd := some ⟨n, 0, none⟩
  if op = 0 ∨ 6 < op ∨ (cls = 1 ∧ 2 < op) then e 2
  else if op ≤ 2 then (if len ≠ 4 ∧ len ≠ 8 then e 4 else if 0x47fffff < addr then e 3 else none)
  else if op ≤ 4 then
    (if len < 4 ∨ 0x100000 < len ∨ len % 4 ≠ 0 then e 4 else if 0x47fffff < addr then e 3 else none)
  else if op = 5 then (if len < 60 ∨ 1518 < len then e 4 else none)
  else if len = 0 then none else e 4
/-- The HCLK edge at which an access acts (R23). -/
def hclkEdge (t : Time) : Nat := cdiv t 64
/-- A fetched descriptor is accepted, or completes at once with TAG_BUSY or TAG_GEN (R499). -/
def State.judgeDesc (s : State) (r : Nat) (d : List Word) : State :=
  let w := (d.getD 0 0).toNat / 2 ^ 16
  let x := s.tag (tagIdx w)
  if x.st ≠ 0 then s.postReject r w 5
  else if x.gen ≠ tagGen w then s.postReject r w 6
  else
    (s.setTag (tagIdx w) { x with st := 1 }).setHost (fun h => { h with
      cmds := h.cmds ++ [{ ring := r, desc := d, ended := badDesc (s.fld (R.HOST.SQ_CFG r) 6 5) d }] })
/-- A descriptor whose index is DONE waits for the acknowledgements of its HCLK edge, which come first (R500). -/
def State.lateDesc (s : State) : State :=
  match s.host.late with
  | some (_, r, d) => (s.setHost (fun h => { h with late := none })).judgeDesc r d
  | none => s
/-- Removes the command at place `i`. -/
def State.dropCmd (s : State) (i : Nat) : State := s.setHost (fun h => { h with cmds := h.cmds.eraseIdx i })
/-- Replaces the command at place `i` of the list. -/
def State.setCmd (s : State) (i : Nat) (f : HostCmd → HostCmd) : State :=
  s.setHost (fun h => { h with cmds := h.cmds.mapIdx (fun k c => if k = i then f c else c) })
/-- The ABORTED completion is posted, or waits for the PCIe PLL (R501, R525). -/
def State.postAborted (s : State) (r w bytes : Nat) : State :=
  if s.hostOk then s.postCq r w 1 bytes none none else s.setHost (fun h => { h with aborts := h.aborts ++ [(r, w, bytes)] })
/-- An abort is refused (R501). -/
def State.abortRefuse (s : State) : State := (s.putBit R.HOST.ABORT_STAT 0 true).irq R.HOST.base 4
/-- The place of the command that an abort names (R501). -/
def State.abortee (s : State) (w : Nat) : Option Nat :=
  s.host.cmds.findIdx? (fun c => !c.aborted && (c.desc.getD 0 0).toNat / 2 ^ 16 == w % 2 ^ 16)
/-- An abort is judged: accepted if the index is BUSY with that generation, and refused otherwise (R501, R502). -/
def State.abortJudge (s : State) (w : Nat) : State :=
  let i := tagIdx w
  let x := s.tag i
  if x.st ≠ 1 ∨ x.gen ≠ tagGen w then s.abortRefuse
  else
    let s0 := s.putBit R.HOST.ABORT_STAT 0 false
    match s.abortee w with
    | none => s0
    | some k =>
      let c := s.host.cmds.getD k default
      let s1 := (s0.postAborted c.ring (w % 2 ^ 16) c.done).setTag i { gen := (x.gen + 1) % 8, st := 3, at_ := s.now }
      if c.ended.isSome then ((s1.dropCmd k).count R.HOST.TAG_ERR 15 0 1).irq R.HOST.base 2
      else if c.started then s1.setCmd k (fun c => { c with aborted := true })
      else s1.dropCmd k
/-- Aborts of commands that have ended wait for the completions of their HCLK edge, which come first (R501). -/
def State.lateAborts (s : State) : State :=
  s.host.abortDue.foldl (fun (s : State) x => s.abortJudge x.2) (s.setHost (fun h => { h with abortDue := [] }))
/-- What waits for the end of an HCLK edge before that of `t` is decided (R500, R501). -/
def State.hostSettle (s : State) (t : Time) : State :=
  let s1 := match s.host.late with | some x => if x.1 < hclkEdge t then s.lateDesc else s | none => s
  if s1.host.abortDue.any (fun x => decide (x.1 < hclkEdge t)) then s1.lateAborts else s1

end Sys2Proof.Machine
end

