-- ==== Sys2Proof/Machine/Lapse.lean ====
section
/-! DEFINITION. What ends by itself as time passes, with no command of its own: a frame that found no room in its queue, a
forced link loss, a forced disagreement of a channel, and the time between the messages of a vector, and what the
end of a clock edge decides (R405, R448, R489, R500, R501, R504). -/

namespace Sys2Proof.Machine

/-- An external port: 0 EA0, 1 EA1, 2 EB0, 3 EB1. -/
def State.port (s : State) (n : Nat) : EthPort := vget s.eth n
/-- The state with a port changed. -/
def State.setPort (s : State) (n : Nat) (f : EthPort → EthPort) : State := { s with eth := vupd s.eth n f }
/-- A forced link loss that has lasted 1 ms by `t` ends: the injection self-clears, and a link that is up reads up again,
which is a change of LINK (R445, R448). -/
def State.ethLapse (s : State) (n : Nat) (t : Time) : State :=
  match (s.port n).injAt with
  | none => s
  | some x =>
    if t < x + ms 1 then s else
    let s1 := (s.setPort n (fun p => { p with injAt := none })).putBit (R.PG_ERRINJ (R.ETH.base n)) 16 false
    if s.bit (R.ETH.STAT n) 0 then
      (s1.post (0x0D0 + n) 0x01 (x + ms 1) (b2n (s.bit (R.ETH.STAT n) 1))).irq (R.ETH.base n) 1
    else s1
/-- The bit of a forced disagreement on channel A self-clears after 3 us (R489). -/
def State.brakeLapse (s : State) (t : Time) : State :=
  if s.bw.injAt.any (fun x => decide (x + us 3 ≤ t)) && s.bit (R.PG_ERRINJ R.BRAKE.base) 17 then
    s.putBit (R.PG_ERRINJ R.BRAKE.base) 17 false
  else s
/-- What has ended by itself by an instant. -/
def State.lapse (s : State) (t : Time) : State :=
  (((List.range 4).foldl (fun (s : State) n => s.ethLapse n t) ((s.canSettle t).hostSettle t)).brakeLapse t).coalLapse t

end Sys2Proof.Machine
end

