-- ==== Sys2Proof/Machine/Hopper.lean ====
section
/-! DEFINITION. The Hopper: channels, the probe vector, triggers, segments and drains (R362 to R379); and the
passing of time, at which the Hopper judges the TCLK edges that lie between two commands. -/

namespace Sys2Proof.Machine

/-! ### Access -/

/-- The Hopper page is enabled. -/
def State.hopEn (s : State) : Bool := s.en R.HOPPER.base
/-- `HOPPER.STAT.STATE`: 0 IDLE, 1 pre-trigger, 2 post-trigger, 3 re-arming, 4 FULL. -/
def State.hopState (s : State) : Nat := s.fld R.HOPPER.STAT 2 0
/-- The state with STATE set. -/
def State.setHopState (s : State) (v : Nat) : State := s.putFld R.HOPPER.STAT 2 0 v
/-- The state with the Hopper changed. -/
def State.setHop (s : State) (f : HopSt → HopSt) : State := { s with hop := f s.hop }
/-- A segment is capturing. -/
def State.capturing (s : State) : Bool := s.hopState == 1 || s.hopState == 2
/-- `SEG_CFG.SIZE`. -/
def State.segSize (s : State) : Nat := s.fld R.HOPPER.SEG_CFG 4 0
/-- The number of segments. -/
def State.segNum (s : State) : Nat := s.fld R.HOPPER.SEG_CFG 31 16 + 1
/-- E of R370: the entries of a segment of size 2^`sz`. -/
def segEntries (sz : Nat) : Nat := (2 ^ sz - 32) / 16
/-- The byte address of segment `i` (R375). -/
def State.segBase (s : State) (i : Nat) : Nat := hopperBase + 2 ^ s.segSize * i
/-- An event of the Hopper, source 0x160, with its `PG_IRQ` bit (R377, R379). -/
def State.hopPost (s : State) (code : Nat) (stamp : Time) (payload : Nat) : State :=
  (s.irq R.HOPPER.base (2 ^ (code - 1))).post 0x160 code stamp payload
/-- A count of the page, 16 bits, saturating. -/
def State.hopCount (s : State) (a n : Nat) : State := s.count a 15 0 n
/-- The value in effect of a register whose writes take effect at the first TCLK edge after them (R378). -/
def State.hrg (s : State) (a : Nat) : Word :=
  match s.hop.late.find? (fun x => x.1 == a) with
  | some x => if s.now < x.2.2 then x.2.1 else s.rg a
  | none => s.rg a
/-- A word of the Hopper memory written: a write mends its parity. -/
def State.hopStw (s : State) (a : Nat) (w : Word) : State :=
  (s.stw a w).setHop (fun h => { h with bad := h.bad.filter (· ≠ a) })

/-! ### The probe vector (R364) -/

/-- Selectable probe bit `i`, its pulses apart. -/
def State.pselBit (s : State) (i : Nat) : Bool :=
  let c := s.hrg (R.HOPPER.PSEL i)
  let n := wfld c 15 8
  let sub := wfld c 20 16
  match wfld c 2 0 with
  | 1 => decide (n < 48) && decide (sub < 8) && s.bit (R.PWM.STAT n) (8 + sub)
  | 2 => decide (n < 48) && decide (sub < 20) && s.bit (R.PSP.ACTIVE n) sub
  | 3 => decide (n < 48) && decide (sub < 8) && s.bit (R.SDM.CMP_STAT n) (if sub % 2 = 1 then 4 + sub / 2 else sub / 2)
  | 4 => decide (n < 32) && s.bit R.FIELD.FO_ON n
  | _ => false

/-- The threshold bits of the comparators that are enabled (R365). -/
def State.thBits (s : State) : Nat := maskOf 8 (fun t => bitN s.hop.th t && wbit (s.hrg (R.HOPPER.TH_CFG t)) 7)

/-- The live probe vector, its pulses apart. -/
def State.probeNow (s : State) : Nat :=
  s.thBits + s.lat.syncPins.toNat * 2 ^ 8 + s.lat.cpPins.toNat * 2 ^ 16 +
    (s.rg R.FIELD.FI_STATE).toNat * 2 ^ 48 + maskOf 40 s.pselBit * 2 ^ 88

/-- A change of a probe bit carries a stamp of its own: a pin, a value or a record (R369). -/
def State.probeStamp (s : State) (bit_ : Nat) (stamp : Time) : State :=
  if s.hopEn then s.setHop (fun h => { h with fresh := (bit_, stamp) :: h.fresh }) else s

/-- The latest of the stamps of some probe bits, and `e` where there is none. -/
def latestStamp (l : List (Nat × Time)) (e : Time) : Time :=
  match l with
  | [] => e
  | x :: r => r.foldl (fun a y => max a y.2) x.2

/-- The entries that show probe groups as the vector `v`, each with its stamp, for the TCLK edge `e` (R371). -/
def State.groupEntries (s : State) (gs : List (Nat × Time)) (v : Nat) (e : Time) : List NodeVal :=
  if s.bit R.HOPPER.CTRL 2 && s.capturing then
    gs.map (fun g => ⟨64 + g.1, BitVec.ofNat 32 (bitsN v (32 * g.1 + 31) (32 * g.1)), g.2, e⟩)
  else []

/-- The probe vector is looked at: every change of a group is an entry, stamped at the change (R371). -/
def State.hopProbe (s : State) : State :=
  let p := s.probeNow
  let d := p ^^^ s.hop.last
  let new := ((List.range 128).filter (fun i => bitN d i)).map (fun i =>
    (i, match s.hop.fresh.find? (fun x => x.1 == i) with | some x => x.2 | none => s.now))
  let shown := p ||| (s.hop.seen ^^^ (s.hop.seen &&& s.hop.last))
  let gs := ((List.range 4).filter (fun g => new.any (fun x => x.1 / 32 == g))).map (fun g =>
    (g, latestStamp (new.filter (fun x => x.1 / 32 == g)) s.now))
  s.setHop (fun h => { h with
    last := p, seen := shown, fresh := [], stamps := new ++ h.stamps
    nodes := h.nodes ++ s.groupEntries gs shown (ceilEdge s.now) })

/-- A pulse of one TCLK edge on a probe bit. -/
def State.probePulse (s : State) (bit_ : Nat) (stamp : Time) : State :=
  if s.hopEn then s.setHop (fun h => { h with pulse := h.pulse ||| 2 ^ bit_, stamps := (bit_, stamp) :: h.stamps }) else s

/-- The Weir delivers a record to Q6: the EV bits that match it pulse (R364). -/
def State.hopRecord (s : State) (src code : Nat) (stamp : Time) : State :=
  (List.range 8).foldl (fun (s : State) e =>
    let c := s.hrg (R.HOPPER.EVT e)
    if wbit c 31 && wfld c 9 0 == src && wfld c 15 10 == code then s.probePulse (80 + e) stamp else s) s

/-- A held repeat of an axis at a commit: the PSEL bits of KIND 5 that name it pulse (R364). -/
def State.hopHeld (s : State) (a : Nat) (tc : Time) : State :=
  (List.range 40).foldl (fun (s : State) i =>
    let c := s.hrg (R.HOPPER.PSEL i)
    if wfld c 2 0 = 5 ∧ wfld c 15 8 = a then s.probePulse (88 + i) tc else s) s

/-! ### Values (R362, R363, R365) -/

/-- The comparators that watch a channel take a value (R365). -/
def State.thValue (s : State) (c : Nat) (v : Word) (stamp : Time) : State :=
  (List.range 8).foldl (fun (s : State) t =>
    let g := s.hrg (R.HOPPER.TH_CFG t)
    if !(wbit g 7) || wfld g 5 0 != c then s else
    let lv := (s.hrg (R.HOPPER.TH_LEVEL t)).toInt
    let hy : Int := (s.hrg (R.HOPPER.TH_HYST t)).toNat
    let x := v.toInt
    let old := bitN s.hop.th t
    let new : Bool := if wbit g 6 then (if x ≤ lv then true else if lv + hy < x then false else old)
      else (if lv ≤ x then true else if x < lv - hy then false else old)
    if new = old then s else
    ((s.setHop (fun h => { h with th := h.th ^^^ 2 ^ t })).probeStamp t stamp).hopProbe) s

/-- A hardware node produces a value: to the comparators, and on its way to the capture path (R362). -/
def State.hopNode (s : State) (kind idx : Nat) (v : Word) (stamp : Time) : State :=
  if !s.hopEn then s else
  (List.range 64).foldl (fun (s : State) c =>
    let r := s.hrg (R.HOPPER.CH_SRC c)
    if wfld r 23 20 = kind ∧ wfld r 19 0 = idx then
      let s1 := s.thValue c v stamp
      if s1.capturing && bitN (s1.rg64 R.HOPPER.CH_EN) c then
        s1.setHop (fun h => { h with nodes := h.nodes ++ [⟨c, v, stamp, ceilEdge s1.now⟩] })
      else s1
    else s) s

/-! ### Segments (R370 to R374) -/

/-- The next segment at or after `i` that is not pending, in memory order. -/
def State.freeFrom (s : State) (i : Nat) : Nat → Option Nat
  | 0 => none
  | k + 1 =>
    let j := i % s.segNum
    if s.hop.segs.any (fun g => g.idx == j) then s.freeFrom (j + 1) k else some j

/-- The oldest pending segment is being drained: the copy of R375 is in progress. -/
def State.copying (s : State) : Bool :=
  s.fld R.HOPPER.DRAIN_CTRL 1 0 != 0 && !s.hop.segs.isEmpty &&
    (s.rg R.HOPPER.DRAIN_WR - s.rg R.HOPPER.DRAIN_RD).toNat != s.fld R.HOPPER.DRAIN_SLOTS 16 0

/-- `PEND` shows the number of pending segments. -/
def State.showPend (s : State) : State := s.setRg R.HOPPER.PEND (BitVec.ofNat 32 s.hop.segs.length)

/-- Capture starts in segment `i`. -/
def State.captureIn (s : State) (i : Nat) : State :=
  ((s.setHop (fun h => { h with written := 0, left := 0, want := false, trig := none, lastStamp := none, dropped := 0 })).setRg
    R.HOPPER.SEG_WR (BitVec.ofNat 32 i)).setHopState 1

/-- The full condition is entered: FULL is posted once (R374). -/
def State.enterFull (s : State) : State :=
  if s.hop.full then s else
  (s.setHop (fun h => { h with full := true })).hopPost 0x03 s.now (s.fld R.HOPPER.CTRL 1 1)

/-- No segment is free: the Hopper stops, or takes the oldest pending segment that is not being drained (R374). -/
def State.hopOver (s : State) : State :=
  let s1 := (s.setHop (fun h => { h with want := false })).enterFull
  if s1.bit R.HOPPER.CTRL 1 then s1.setHopState 4 else
  match (if s1.copying then s1.hop.segs.drop 1 else s1.hop.segs) with
  | [] => s1.setHopState 4
  | g :: _ =>
    let s2 := (s1.setHop (fun h => { h with segs := h.segs.filter (· ≠ g) })).showPend
    let s3 := if s2.fld R.HOPPER.DRAIN_CTRL 1 0 = 0 then
        s2.putFld R.HOPPER.SEG_RD 15 0 ((s2.hop.segs.head?.map (·.idx)).getD g.idx) else s2
    ((s3.hopCount R.HOPPER.LOST_SEG 1).hopPost 0x04 s3.now g.seq).captureIn g.idx

/-- Capture needs a free segment: with none, the TCLK edge decides, so that a drain at the same edge is taken first (R372,
R374). -/
def State.hopStart (s : State) : State :=
  match (if 16384 ≤ s.hop.segs.length then none else s.freeFrom s.hop.next s.segNum) with
  | some i => (s.setHop (fun h => { h with full := false })).captureIn i
  | none => (s.setHop (fun h => { h with want := true })).setHopState 4

/-- The eight header words of a segment (R373). -/
def hopHeader (g : HopTrig) (seq post dropped : Nat) (trunc : Bool) : List Word :=
  [BitVec.ofNat 32 g.stamp, BitVec.ofNat 32 (g.stamp >>> 32), BitVec.ofNat 32 seq,
   BitVec.ofNat 32 (g.kept % 2 ^ 13 + post % 2 ^ 13 * 2 ^ 16),
   BitVec.ofNat 32 (g.causes + b2n trunc * 2 ^ 7 + b2n g.unsure * 2 ^ 8 + g.adj * 2 ^ 16),
   BitVec.ofNat 32 (min dropped 0xFFFF + min g.missed 0xFFFF * 2 ^ 16),
   BitVec.ofNat 32 g.mtNs, BitVec.ofNat 32 (g.mtNs >>> 32)]

/-- The current segment is complete: header, sequence number, SEG_DONE, and what follows (R372, R373). -/
def State.segDone (s : State) (trunc : Bool) : State :=
  match s.hop.trig with
  | none => s
  | some g =>
    let idx := s.fld R.HOPPER.SEG_WR 15 0
    let seq := (s.rg R.HOPPER.SEQ_NEXT).toNat
    let post := segEntries s.segSize - g.kept - s.hop.left
    let ws := hopHeader g seq post s.hop.dropped trunc
    let s1 := (List.range 8).foldl (fun (s : State) i => s.hopStw (s.segBase idx + 4 * i) (ws.getD i 0)) s
    let s2 := ((s1.setHop (fun h => { h with trig := none, left := 0, dropped := 0, next := idx + 1, taken := h.taken + 1, rearmFrom := s.now, segs := h.segs ++ [⟨idx, seq⟩] })).setRg
        R.HOPPER.SEQ_NEXT (BitVec.ofNat 32 (seq + 1))).showPend
    let s3 := s2.hopPost 0x02 (s.hop.lastStamp.getD s.now) (seq + b2n trunc * 2 ^ 32)
    let lim := s3.fld R.HOPPER.CTRL 31 16
    if !trunc && s3.bit R.HOPPER.CTRL 0 && (lim == 0 || decide (s3.hop.taken < lim)) then s3.setHopState 3
    else s3.setHopState 0

/-- `n` triggers, at TCLK edge `e` and the ones after it, that find the Hopper in `STATE` FULL: each counts one lost
segment (R374). -/
def State.hopLost (s : State) (e : Time) (n : Nat) : State :=
  (List.range (min n 0x10010)).foldl (fun (s : State) k =>
    (s.hopCount R.HOPPER.LOST_SEG 1).hopPost 0x04 (e + 16 * k) (2 ^ 32)) s

/-- The trigger fires with its causes and stamp at TCLK edge `e` (R369, R372, R374). -/
def State.hopTrigger (s : State) (causes : Nat) (stamp e : Time) : State :=
  match s.hopState with
  | 1 =>
    let kept := min (s.fld R.HOPPER.PRE 11 0) (min s.hop.written (segEntries s.segSize))
    let g : HopTrig := ⟨stamp, causes, s.unsure, s.fld R.TIME.MT_STAT 31 16,
      (s.mtAt (edgeOf stamp) / 2 ^ 32).toNat % 2 ^ 64, kept, s.hop.missed⟩
    let s1 := (s.setHop (fun h => { h with trig := some g, missed := 0, left := segEntries s.segSize - kept, judged := max h.judged e })).setHopState 2
    let s2 := s1.hopPost 0x01 stamp ((s1.rg R.HOPPER.SEQ_NEXT).toNat + causes * 2 ^ 32)
    if s2.hop.left = 0 then s2.segDone false else s2
  | 2 | 3 => (s.setHop (fun h => { h with missed := h.missed + 1 })).hopCount R.HOPPER.TRIG_MISSED 1
  | 4 => s.hopLost e 1
  | _ => s

/-- `n` further edges, from `e` on, at which the trigger fires while it cannot be taken. -/
def State.hopAgain (s : State) (e : Time) (n : Nat) : State :=
  match s.hopState with
  | 2 | 3 => (s.setHop (fun h => { h with missed := h.missed + n })).hopCount R.HOPPER.TRIG_MISSED n
  | 4 => s.hopLost e n
  | _ => s

/-- An entry is written into the current segment, a ring until the trigger (R370, R372). -/
def State.hopEntry (s : State) (w3 : Nat) (v : Word) (stamp : Time) : State :=
  if !s.capturing then s else
  let n := segEntries s.segSize
  let a := s.segBase (s.fld R.HOPPER.SEG_WR 15 0) + 32 + 16 * (s.hop.written % n)
  let s1 := (((s.hopStw a (BitVec.ofNat 32 stamp)).hopStw (a + 4) (BitVec.ofNat 32 (stamp >>> 32))).hopStw (a + 8) v).hopStw
    (a + 12) (BitVec.ofNat 32 w3)
  let inj := s.bit (R.PG_ERRINJ R.HOPPER.base) 2
  let s2 := if inj then (s1.putBit (R.PG_ERRINJ R.HOPPER.base) 2 false).setHop (fun h => { h with bad := a :: h.bad }) else s1
  let s3 := s2.setHop (fun h => { h with written := h.written + 1, lastStamp := some stamp })
  if s3.hopState = 2 then
    let s4 := s3.setHop (fun h => { h with left := h.left - 1 })
    if s4.hop.left = 0 then s4.segDone false else s4
  else s3

/-- The entries due at a TCLK edge reach the capture path, at most two per edge: the lowest channels are kept,
the others counted (R363). -/
def State.hopAccept (s : State) : State :=
  let ranked := s.hop.nodes.foldl (fun (l : List NodeVal) (x : NodeVal) =>
    l.takeWhile (fun y => decide (y.chan ≤ x.chan)) ++ x :: l.dropWhile (fun y => decide (y.chan ≤ x.chan))) []
  let kept := ranked.take 2
  let lost := ranked.length - kept.length
  let s1 := s.setHop (fun h => { h with nodes := [], dropped := h.dropped + lost })
  let s2 := kept.foldl (fun (s : State) (x : NodeVal) =>
    s.hopEntry (if 64 ≤ x.chan then 0x80 + (x.chan - 64) * 0x100 else x.chan) x.val x.stamp) s1
  if lost = 0 then s2 else s2.hopCount R.HOPPER.ENT_DROP lost

/-! ### Patterns (R366, R367) -/

/-- The four words of a 128-bit register. -/
def State.rg128 (s : State) (a : Nat) : Nat := s.rg64 a + s.rg64 (a + 8) * 2 ^ 64

/-- Pattern `p` matches a probe vector (R366). -/
def State.patMatch (s : State) (p v : Nat) : Bool :=
  let m := s.rg128 (R.HOPPER.PAT_MASK p 0)
  m != 0 && (v &&& m) == (s.rg128 (R.HOPPER.PAT_MATCH p 0) &&& m)

/-- The patterns that match a probe vector. -/
def State.patMask (s : State) (v : Nat) : Nat := maskOf 4 (fun p => s.patMatch p v)

/-- The stamp of the change that made a pattern fire: the latest of the changed bits it looks at (R369). -/
def State.patStamp (s : State) (p : Nat) (e : Time) : Time :=
  let m := s.rg128 (R.HOPPER.PAT_MASK p 0)
  latestStamp (s.hop.stamps.filter (fun x => bitN m x.1)) e

/-- The trigger is judged at a TCLK edge with the probe vector `v` (R366, R367, R369): the patterns that fire on their
own, the sequence, and the machine-time trigger and FORCE that are due. All of them are causes of one trigger. -/
def State.hopJudge (s : State) (e : Time) (v : Nat) : State :=
  let c := s.rg R.HOPPER.TRIG_CFG
  let m := s.patMask v
  let fire (p : Nat) : Bool := wbit c p && bitN m p && (!bitN s.hop.matching p || wbit c (10 + p))
  let a := wfld c 6 5
  let b := wfld c 8 7
  let sq := wbit c 4
  let own := maskOf 4 (fun p => fire p && !(sq && (p == a || p == b)))
  let aF := if sq && fire a then some e else s.hop.aFired
  let seq : Bool := sq && fire b && (match aF with
    | some x => decide (x < e) && decide (e - x ≤ ns (nz (s.rg R.HOPPER.SEQ_WIN).toNat))
    | none => false)
  let st := ((List.range 4).filter (fun p => bitN own p)).map (fun p => s.patStamp p e) ++
    (if seq then [s.patStamp b e] else []) ++ (if s.hop.due = 0 then [] else [e])
  let s1 := s.setHop (fun h => { h with matching := m, aFired := aF, judged := e })
  match st with
  | [] => s1
  | x :: r => s1.hopTrigger (own + b2n seq * 16 + s.hop.due) (r.foldl min x) e

/-- The patterns fire at each of the `k` TCLK edges from `e` on while nothing changes (R366): those with LEVEL. -/
def State.hopSteady (s : State) (e : Time) (k : Nat) : State :=
  if k = 0 then s else
  let c := s.rg R.HOPPER.TRIG_CFG
  let sq := wbit c 4
  let lv := maskOf 4 (fun p => wbit c p && wbit c (10 + p) && bitN s.hop.matching p)
  let own := maskOf 4 (fun p => bitN lv p && !(sq && (p == wfld c 6 5 || p == wfld c 8 7)))
  let aF := if sq && bitN lv (wfld c 6 5) then some (e + 16 * (k - 1)) else s.hop.aFired
  let seqs : Nat := if sq && bitN lv (wfld c 8 7) && !bitN lv (wfld c 6 5) then
      (match s.hop.aFired with
       | some x => min k ((x + ns (nz (s.rg R.HOPPER.SEQ_WIN).toNat) + 16 - e) / 16)
       | none => 0) else 0
  let s1 := s.setHop (fun h => { h with aFired := aF, judged := e + 16 * (k - 1) })
  let n := if own = 0 then seqs else k
  if n = 0 then s1 else
  (s1.hopTrigger (own + b2n (decide (0 < seqs)) * 16) e e).hopAgain (e + 16) (n - 1)

/-- The value of a slot-state channel (R362). -/
def State.slotWord (s : State) (n : Nat) : Word :=
  BitVec.ofNat 32 (s.fld (R.PWM.STAT n) 15 8 + s.fld (R.PSP.STAT n) 2 0 * 2 ^ 8 + s.fld (R.PSP.STAT n) 3 3 * 2 ^ 11)

/-- The slots are looked at: every change of one is a value of the channels that take its state (R362). -/
def State.hopSlots (s0 : State) : State :=
  (List.range 48).foldl (fun (s : State) n =>
    let w := s.slotWord n
    if tget 0 s.hop.slotSeen n = w then s
    else (s.setHop (fun h => { h with slotSeen := tset 0 h.slotSeen n w })).hopNode 6 n w (ceilEdge s.now)) s0

/-- What has changed since the latest command is noted with its instant. -/
def State.hopNote (s : State) : State := s.hopSlots.hopProbe

/-- The Hopper page becomes enabled: it sees the changes from here on. -/
def State.hopEnable (s : State) : State :=
  let p := s.probeNow
  s.setHop (fun h => { h with
    last := p, seen := p, stamps := [], fresh := [], pulse := 0, nodes := [], due := 0, matching := s.patMask p
    slotSeen := (List.range 48).foldl (fun (l : List (Nat × Word)) n => tset 0 l n (s.slotWord n)) h.slotSeen })

/-- The writes that take effect at a TCLK edge have done so: a disabled comparator holds 0 (R365, R378). -/
def State.hopLate (s : State) : State :=
  s.setHop (fun h => { h with
    late := h.late.filter (fun x => decide (s.now < x.2.2))
    th := maskOf 8 (fun t => bitN h.th t && wbit (s.hrg (R.HOPPER.TH_CFG t)) 7) })

/-- A machine-time trigger that is due at a TCLK edge is cancelled where TIME_UNSURE is 1 there (R69, R368). -/
def State.hopMtDue (s : State) (e : Time) : State :=
  if bitN s.hop.due 5 && s.unsureAt (edgeOf e) then
    (s.setHop (fun h => { h with due := h.due ^^^ 32 })).post 0x170 0x04 e
      (bitsN (s.rg64 R.HOPPER.TRIG_MT_NSF) 61 32 % 1000000000 + 3 * 2 ^ 40)
  else s

/-- The TCLK edge `e`: writes take effect, pulses show, the entries due reach the capture path, a need for a segment is
decided, and the trigger is judged (R363, R364, R366, R371, R374, R378, assumption log 194). -/
def State.hopEdge (s : State) (e : Time) : State :=
  let s0 : State := { s with now := e }
  let s1 := s0.hopLate.hopProbe
  let v := s1.hop.last ||| s1.hop.pulse
  let puls := s1.hop.stamps.filter (fun x => bitN s1.hop.pulse x.1)
  let gs := ((List.range 4).filter (fun g => bitsN v (32 * g + 31) (32 * g) != bitsN s1.hop.seen (32 * g + 31) (32 * g))).map
    (fun g => (g, latestStamp (puls.filter (fun x => x.1 / 32 == g)) e))
  let s2 := (s1.setHop (fun h => { h with seen := v, nodes := h.nodes ++ s1.groupEntries gs v e })).hopAccept
  let s3 := if s2.hop.want && s2.hopState == 4 then s2.hopOver else s2
  let s4 := if s3.hopState = 0 then s3 else (s3.hopMtDue e).hopJudge e v
  s4.setHop (fun h => { h with stamps := [], pulse := 0, due := 0 })

/-- The TCLK edges from the latest command up to `t`, `t` excluded, are judged. -/
def State.hopSettle (s : State) (t : Time) : State :=
  if !s.hopEn then s else
  let s1 := s.hopNote
  let e := ceilEdge s1.now
  if t ≤ e then s1 else
  let pulsed : Bool := s1.hop.pulse != 0
  let s2 := s1.hopEdge e
  let k := (t - 1 - e) / 16
  if k = 0 then s2 else
  let s3 := if pulsed then s2.hopEdge (e + 16) else s2
  let used := if pulsed then 1 else 0
  if s3.hopState = 0 then s3 else s3.hopSteady (e + 16 * (used + 1)) (k - used)

/-- The instant of a command: time never runs back (assumption log 1); vectors that have become pending have sent their
messages (R505), what ends by itself before it has ended (R405, R448), and the Hopper has judged the TCLK edges before it
(R366). -/
def State.tick (s : State) (t : Time) : State :=
  let s1 := (s.vecEval.lapse (max s.now t)).hopSettle (max s.now t)
  { s1 with now := max s.now t }

/-! ### Commands (R368, R372, R373, R378) -/

/-- A command of the Hopper is refused with a reason (R373). -/
def State.hopRefuse (s : State) (reason : Nat) : State := (s.putFld R.HOPPER.STAT 15 8 reason).cmdRefused R.HOPPER.base

/-- ARM (R368, R372, R373). -/
def State.hopArm (s : State) : State :=
  if s.hopState ≠ 0 then s.hopRefuse 1
  else if s.hop.bist then s.hopRefuse 2
  else if s.bit R.HOPPER.TRIG_CFG 9 && s.unsure then s.hopRefuse 3
  else
    let p := s.probeNow
    (s.setHop (fun h => { h with taken := 0, missed := 0, aFired := none, last := p, seen := p, stamps := [], fresh := [], pulse := 0, matching := s.patMask p, nodes := [], due := 0 })).hopStart

/-- DISARM: a segment that waits for its trigger is discarded, one with its trigger completed as it stands (R373). -/
def State.hopDisarm (s : State) : State :=
  let s1 := s.setHop (fun h => { h with aFired := none, want := false })
  if s1.hopState = 2 then (s1.segDone true).setHopState 0 else s1.setHopState 0

/-- A cause of the trigger is due at the coming TCLK edge: it is judged there with the patterns (R369), and a DISARM
that reaches the page before then keeps it from being taken (R373). -/
def State.hopDue (s : State) (cause : Nat) : State := s.setHop (fun h => { h with due := h.due ||| cause })
/-- FORCE: the trigger fires at this TCLK edge (R366, R369). -/
def State.hopForce (s : State) : State := s.hopDue 64

/-- Every segment free and the sequence at 0 (R378). -/
def State.hopClearAll (s : State) : State :=
  (((s.setHop (fun h => { h with segs := [], next := 0, missed := 0, full := false })).setRg R.HOPPER.SEQ_NEXT 0).putFld
    R.HOPPER.SEG_RD 15 0 0).showPend
/-- CLEAR, accepted in IDLE only (R378). -/
def State.hopClear (s : State) : State := if s.hopState ≠ 0 then s.hopRefuse 1 else s.hopClearAll

/-- A write of `HOPPER.CMD`: one bit per write; none or several are refused with REASON 0, none of those that R378 lists
(R373, R378, assumption log 194). -/
def State.writeHopCmd (s : State) (v : Nat) : State :=
  match bitsN v 3 0 with
  | 1 => s.hopArm
  | 2 => s.hopDisarm
  | 4 => s.hopForce
  | 8 => s.hopClear
  | _ => s.hopRefuse 0

/-- Segments were freed: a Hopper in FULL starts capture at the first free one (R374). -/
def State.hopFreed (s : State) : State :=
  let s1 := s.showPend
  if s1.hopState = 4 then s1.hopStart else s1

/-- A write of `SEG_RD` frees the pending segments from the old value up to the new one (R375). -/
def State.writeSegRd (s : State) (v : Nat) : State :=
  let n := s.segNum
  let old := s.fld R.HOPPER.SEG_RD 15 0
  let new := v % 2 ^ 16
  let d := (new + n - old % n) % n
  let s1 := s.putFld R.HOPPER.SEG_RD 15 0 new
  if s1.fld R.HOPPER.DRAIN_CTRL 1 0 ≠ 0 then s1 else
  (s1.setHop (fun h => { h with segs := h.segs.filter (fun g => decide (d ≤ (g.idx + n - old % n) % n)) })).hopFreed

/-- A word that a drain or a BAR2 read takes: a bad one is counted and posted (R376). -/
def State.hopParity (s : State) (a : Nat) : State :=
  if !s.hop.bad.contains a then s else
  let sz := 2 ^ s.segSize
  (s.hopCount R.HOPPER.PAR_CNT 1).hopPost 0x05 s.now
    ((a - hopperBase) / sz % 2 ^ 16 + (a - hopperBase) % sz / 4 % 2 ^ 14 * 2 ^ 16)

/-- The copy of the oldest pending segment completes: the whole segment is at its destination, `DRAIN_WR`
advances and the segment is free (R375, R376). -/
def State.drainDone (s : State) : State :=
  if !s.copying then s else
  match s.hop.segs with
  | [] => s
  | g :: rest =>
    let sz := 2 ^ s.segSize
    let slots := s.fld R.HOPPER.DRAIN_SLOTS 16 0
    let dw := (s.rg R.HOPPER.DRAIN_WR).toNat
    let dst := s.rg64 R.HOPPER.DRAIN_BASE / sz * sz + dw % nz slots * sz
    let dest := (if s.fld R.HOPPER.DRAIN_CTRL 1 0 = 1 then hostBase else pondBase) + dst
    let src := s.segBase g.idx
    let hasBad := (List.range (sz / 4)).any (fun i => s.hop.bad.contains (src + 4 * i))
    let s1 := (List.range (sz / 4)).foldl (fun (s : State) i =>
      let w := s.ldw (src + 4 * i)
      (s.hopParity (src + 4 * i)).stw (dest + 4 * i) (if i = 4 && hasBad then w ||| 0x200 else w)) s
    ((s1.setHop (fun h => { h with segs := rest })).setRg R.HOPPER.DRAIN_WR (BitVec.ofNat 32 (dw + 1))).hopFreed

/-- A write of `DRAIN_CTRL` (R375): DEST 3, a change while a segment is pending, or any write during a copy is refused. -/
def State.writeDrainCtrl (s : State) (m : Master) (v : Nat) : State :=
  let d := bitsN v 1 0
  if d = 3 ∨ s.copying ∨ (d ≠ s.fld R.HOPPER.DRAIN_CTRL 1 0 ∧ s.hop.segs ≠ []) then s.cfgRefused R.HOPPER.base
  else s.writeReg m R.HOPPER.base R.HOPPER.DRAIN_CTRL v

/-- A write of `SEG_CFG` (R370). -/
def State.writeSegCfg (s : State) (m : Master) (v : Nat) : State :=
  let sz := bitsN v 4 0
  if s.hopState ≠ 0 ∨ sz < 6 ∨ 16 < sz ∨ 2 ^ 24 < (bitsN v 31 16 + 1) * 2 ^ sz then s.cfgRefused R.HOPPER.base
  else s.writeReg m R.HOPPER.base R.HOPPER.SEG_CFG v

/-- A write of `PRE` (R370). -/
def State.writePre (s : State) (m : Master) (v : Nat) : State :=
  if s.hopState ≠ 0 ∨ segEntries s.segSize < bitsN v 11 0 then s.cfgRefused R.HOPPER.base
  else s.writeReg m R.HOPPER.base R.HOPPER.PRE v

/-- A write of `TH`, `CH`, `PSEL` or `EVT`: the old value stays in effect up to the first TCLK edge (R378,
assumption log 173). -/
def State.writeHopLate (s : State) (m : Master) (a v : Nat) : State :=
  let q := s.hop.late.filter (fun x => decide (s.now < x.2.2))
  let q := if q.any (fun x => x.1 == a) then q else q ++ [(a, s.rg a, ceilEdge s.now)]
  (s.setHop (fun h => { h with late := q })).writeReg m R.HOPPER.base a v

/-- A write of `CH[c].SRC`: KIND 7 to 15 are refused (R362). -/
def State.writeChSrc (s : State) (m : Master) (c v : Nat) : State :=
  if 7 ≤ bitsN v 23 20 then s.cfgRefused R.HOPPER.base else s.writeHopLate m (R.HOPPER.CH_SRC c) v

/-- Writes to the HOPPER page with a meaning of their own. -/
def State.hopHook (s : State) (m : Master) (off v : Nat) : Option State :=
  if off = 0x44 then some (s.writeHopCmd v)
  else if off = 0x4c then some (s.writeSegCfg m v)
  else if off = 0x50 then some (s.writePre m v)
  else if off = 0x58 ∨ off = 0x5c then
    (if s.hopState ≠ 0 then some (s.cfgRefused R.HOPPER.base) else none)
  else if off = 0x84 then some (s.writeSegRd v)
  else if off = 0x88 then some (s.writeDrainCtrl m v)
  else if off = 0x90 ∨ off = 0x94 then (if s.copying then some (s.cfgRefused R.HOPPER.base) else none)
  else if off = 0xa0 then some ((s.setRg R.HOPPER.DRAIN_RD (BitVec.ofNat 32 v)))
  else if 0x180 ≤ off ∧ off < 0x200 ∧ off % 16 < 12 then some (s.writeHopLate m (R.HOPPER.base + off) v)
  else if 0x200 ≤ off ∧ off < 0x300 then some (s.writeChSrc m ((off - 0x200) / 4) v)
  else if 0x300 ≤ off ∧ off < 0x3a0 then
    some (if 6 ≤ bitsN v 2 0 then s.cfgRefused R.HOPPER.base else s.writeHopLate m (R.HOPPER.base + off) v)
  else if 0x3c0 ≤ off ∧ off < 0x3e0 then some (s.writeHopLate m (R.HOPPER.base + off) v)
  else none

/-- Registers of the HOPPER page that are read live: the probe vector. -/
def State.hopLive (s : State) (off : Nat) : Option Word :=
  if 0xc0 ≤ off ∧ off < 0xd0 then
    some (BitVec.ofNat 32 ((s.probeNow ||| s.hop.pulse) >>> (32 * ((off - 0xc0) / 4))))
  else none

/-- A trace word of core `k` arrives, for the capture path at the coming TCLK edge (R250, R362, R363). -/
def State.traceArrive (s : State) (k : Nat) : State :=
  match (vget s.core k).trc with
  | [] => s
  | w :: rest =>
    let s1 := { s with core := vupd s.core k (fun c => { c with trc := rest }) }
    if !s1.hopEn || wfld (s1.hrg (R.HOPPER.CH_SRC w.chan)) 23 20 != 0 then s1 else
    let s2 := s1.thValue w.chan w.val w.stamp
    if s2.capturing && bitN (s2.rg64 R.HOPPER.CH_EN) w.chan then
      s2.setHop (fun h => { h with nodes := h.nodes ++ [⟨w.chan, w.val, w.stamp, ceilEdge s2.now⟩] })
    else s2

/-- TRACE_ENTRY: the oldest trace word of core `k` (0 to 31) arrives; with 32, time passes up to `t`, in which the values of
hardware nodes have reached the capture path at their TCLK edges (R363). -/
def execTraceEntry (t : Time) (k : Fin 33) (s : State) : Host.Outcome State Fault Refusal :=
  let s := s.tick t
  .next (if k.val < 32 then s.traceArrive k else s)

/-- SEGMENT_REARM (R372). -/
def execSegmentRearm (t : Time) (s : State) : Host.Outcome State Fault Refusal :=
  let s := s.tick t
  .next (if s.hopState = 3 then s.hopStart else s)

/-- A bit of `HOPPER.CMD` written. -/
def State.hopCmdWrite (s : State) (v : Nat) : State := s.onPage R.HOPPER.base (fun s => s.writeHopCmd v)
/-- HOPPER_ARM (R372, R373). -/
def execHopperArm (t : Time) (_m : Master) (s : State) : Host.Outcome State Fault Refusal := .next ((s.tick t).hopCmdWrite 1)
/-- HOPPER_DISARM (R373). -/
def execHopperDisarm (t : Time) (_m : Master) (s : State) : Host.Outcome State Fault Refusal := .next ((s.tick t).hopCmdWrite 2)
/-- HOPPER_FORCE (R366). -/
def execHopperForce (t : Time) (_m : Master) (s : State) : Host.Outcome State Fault Refusal := .next ((s.tick t).hopCmdWrite 4)
/-- HOPPER_CLEAR (R378). -/
def execHopperClear (t : Time) (_m : Master) (s : State) : Host.Outcome State Fault Refusal := .next ((s.tick t).hopCmdWrite 8)

/-- Machine time reaches `TRIG_MT` with MT_EN = 1: the trigger is due at the coming TCLK edge, or cancelled there (R368,
R369). -/
def State.hopMt (s : State) : State :=
  let tgt := mtOfRegs (s.rg64 R.HOPPER.TRIG_MT_SEC) (s.rg64 R.HOPPER.TRIG_MT_NSF)
  if s.hopState ≠ 0 ∧ s.bit R.HOPPER.TRIG_CFG 9 ∧ s.mtReached tgt then
    (s.putBit R.HOPPER.TRIG_CFG 9 false).hopDue 32
  else s
/-- HOPPER_MT_TRIGGER (R368). -/
def execHopperMtTrigger (t : Time) (s : State) : Host.Outcome State Fault Refusal := .next (s.tick t).hopMt

/-- SEG_RD_WRITE (R375). -/
def execSegRdWrite (t : Time) (_m : Master) (v : Word) (s : State) : Host.Outcome State Fault Refusal :=
  .next ((s.tick t).onPage R.HOPPER.base (fun s => s.writeSegRd v.toNat))
/-- DRAIN_RD_WRITE: slots are given back to the Hopper (R375). -/
def execDrainRdWrite (t : Time) (_m : Master) (v : Word) (s : State) : Host.Outcome State Fault Refusal :=
  .next ((s.tick t).onPage R.HOPPER.base (fun s => s.setRg R.HOPPER.DRAIN_RD v))
/-- DRAIN_COPY_DONE (R375). -/
def execDrainCopyDone (t : Time) (s : State) : Host.Outcome State Fault Refusal := .next (s.tick t).drainDone

end Sys2Proof.Machine
end

