-- ==== Sys2Proof/Machine/Weir.lean ====
section
/-! DEFINITION. The Weir: delivery in stamp order to the consumer queues, late, stalled and
overflowing sources, injection and pops (R71 to R83). -/

namespace Sys2Proof.Machine

/-- The horizon of R72. -/
def horizon : Time := ns 320

/-- The delivery edge of an event: the first TCLK edge at or after its stamp plus 320 ns (R72). -/
def deliveryEdge (e : EvRec) : Time := ceilEdge (e.stamp + horizon)

/-- Order of delivery: stamp, then source; posting order breaks ties (R72). -/
def EvRec.before (a b : EvRec) : Bool := a.stamp < b.stamp || (a.stamp == b.stamp && a.src < b.src)

/-- The event to deliver first among a list in posting order. -/
def firstEvent : List EvRec → Option EvRec
  | [] => none
  | e :: r => match firstEvent r with
    | none => some e
    | some f => if f.before e then some f else some e

/-- The list without the first occurrence of an event. -/
def dropEvent (e : EvRec) : List EvRec → List EvRec
  | [] => []
  | f :: r => if f = e then r else f :: dropEvent e r

/-- A filter entry covers a record: enabled, LO to HI, and its code bit set (R79). -/
def filterCovers (srcWord : Word) (codeMask : Nat) (e : EvRec) : Bool :=
  wbit srcWord 31 && wfld srcWord 9 0 ≤ e.src && e.src ≤ wfld srcWord 25 16 && bitN codeMask e.code

/-- A latch channel takes Weir records as its trigger (R353): MODE 1 or 2, and TRIG = 3. -/
def State.latchFiltered (s : State) (l : Nat) : Bool :=
  let c := s.rg (R.LT.CFG l)
  (wfld c 1 0 == 1 || wfld c 1 0 == 2) && wfld c 5 4 == 3
/-- A latch channel takes the record as its Weir trigger (R353): EVT equal. -/
def State.latchTakes (s : State) (l : Nat) (e : EvRec) : Bool :=
  s.latchFiltered l &&
    s.fld (R.LT.EVT l) 9 0 == e.src && s.fld (R.LT.EVT l) 15 10 == e.code

/-- A queue's filters admit a record (R79): Q5 follows CAPT, Q7 follows BRAKE, the others their own entries. -/
def State.admits (s : State) (q : Nat) (e : EvRec) : Bool :=
  if q = 5 then (List.range 128).any (fun l => s.latchTakes l e)
  else if q = 7 then (List.range 16).any (fun i =>
    filterCovers (s.rg (R.BRAKE.Q7_FLT_SRC i)) (s.rg64 (R.BRAKE.Q7_FLT_CODE i)) e)
  else s.bit (R.WEIR.Q_CTRL q) 0 && (List.range 16).any (fun i =>
    filterCovers (s.rg (R.WEIR.FLT_SRC q i)) (s.rg64 (R.WEIR.FLT_CODE q i)) e)

/-- The queue's level set point (R82): `IRQ_LEVEL`, 0 treated as 1. -/
def State.irqLevel (s : State) (q : Nat) : Nat := nz (s.fld (R.WEIR.Q_CTRL q) 24 16)

/-- A queue takes a record, or drops it when full; a full Q7 is a Brakewheel fault (R79, R80). What reaches Q5 or Q6 goes
on at once to the Latch unit or the Hopper, which that queue serves (R79, R353, R364, assumption log 62). -/
def State.enqueue (s : State) (q : Nat) (e : EvRec) : State :=
  let l := vget s.weir.queues q
  if l.length < 512 then
    let s2 := if q = 5 then { s with lat := { s.lat with inbox := s.lat.inbox ++ [(e.stamp, e.src, e.code)] } }
      else if q = 6 then s.hopRecord e.src e.code e.stamp
      else { s with weir := { s.weir with queues := vupd s.weir.queues q (· ++ [e]) } }
    if s2.irqLevel q = l.length + 1 then s2.irq R.WEIR.base (2 ^ q) else s2
  else
    let s1 := (s.count (R.WEIR.Q_DROP q) 15 0 1).irq R.WEIR.base 0x100
    if q = 7 then s1.report 0x0A 0 0 true 0 else s1

/-- A record goes to every queue whose filters admit it (R79). -/
def State.deliverRec (s : State) (e : EvRec) : State :=
  (List.range 8).foldl (fun s q => if s.admits q e then s.enqueue q e else s) s

/-- The sources whose buffer has space again each post one SRC_OVF, stamped at this edge (R75). -/
def State.overflowPosts (s : State) (edge : Time) : State :=
  s.weir.dropped.foldl (fun s d =>
    if s.buffered d.1 < 16 then
      { s with weir := { s.weir with
          dropped := tput s.weir.dropped d.1 none
          pend := putEvent ⟨edge, d.1, 0x3D, d.2.1 % 2 ^ 16 + d.2.2 / 16 % 2 ^ 32 * 2 ^ 16⟩ s.weir.pend } }
    else s) s

/-- One due event is delivered; a record delivered after its own delivery edge counts in BURST (R72, R75). -/
def State.deliverOne (s : State) (edge : Time) (e : EvRec) : State :=
  let s1 := { s with weir := { s.weir with
    pend := dropEvent e s.weir.pend, lastEdge := edge,
    atEdge := if s.weir.lastEdge = edge then s.weir.atEdge + 1 else 1 } }
  let s2 := if deliveryEdge e < edge then (s1.count R.WEIR.BURST 15 0 1).irq R.WEIR.base 0x800 else s1
  s2.deliverRec e

/-- Up to `n` due events at a TCLK edge, in the order of R72; the delivered records in order. -/
def State.deliverUpTo (edge : Time) : Nat → State → State × List EvRec
  | 0, s => (s, [])
  | n + 1, s =>
    match firstEvent (s.weir.pend.filter (fun e => e.stamp + horizon ≤ edge)) with
    | none => (s, [])
    | some e =>
      let r := State.deliverUpTo edge n (s.deliverOne edge e)
      (r.1, e :: r.2)

/-- The records left to deliver at an edge: two per TCLK edge (R75). -/
def State.quota (s : State) (edge : Time) : Nat :=
  if s.weir.lastEdge = edge then 2 - s.weir.atEdge else 2

/-- A record that the Weir itself delivers for a source, stamped at the frontier of an edge: it takes its place among
the records due there (R73, R74, R75). -/
def State.weirOwn (s : State) (edge : Time) (src code payload : Nat) : State :=
  { s with weir := { s.weir with pend := putEvent ⟨edge - horizon, src, code, payload⟩ s.weir.pend } }

/-- A source whose watermark has fallen below the frontier is stalled: flagged, and one STALLED record
at the frontier (R74). -/
def State.markStalled (s : State) (edge : Time) (src : Nat) : State :=
  if s.weir.stalled.contains src then s else
  let s1 := { s with weir := { s.weir with stalled := src :: s.weir.stalled } }
  let s2 := (s1.putFld R.WEIR.STAT 9 0 src).putBit R.WEIR.STAT 16 true
  (s2.irq R.WEIR.base 0x400).weirOwn edge src 0x3E 0
/-- The source numbers of R77; the others are never produced. -/
def srcExists (n : Nat) : Bool :=
  n < 0x13C || (0x140 ≤ n && n < 0x144) || n == 0x148 || n == 0x149 || (0x150 ≤ n && n < 0x158) ||
    n == 0x160 || n == 0x170 || n == 0x180 || n == 0x3FF

/-- The sources below the frontier at an edge, of those that exist: one that has recovered counts afresh (R74, R77). -/
def State.stallEdge (s : State) (edge : Time) (lags : List Nat) : State :=
  let lag := lags.filter srcExists
  let s1 := { s with weir := { s.weir with stalled := s.weir.stalled.filter (fun x => lag.contains x) } }
  let s2 := lag.foldl (fun s x => s.markStalled edge x) s1
  if lag.isEmpty then s2 else { s2 with weir := { s2.weir with clearFrom := edge + 16 } }

/-- One TCLK edge of the Weir, with the sources whose reported watermark is below the frontier (R72 to R75). -/
def State.weirEdge (s : State) (lag : List Nat) : State × List EvRec :=
  let edge := floorEdge s.now
  let s1 := s.stallEdge edge lag
  let r := State.deliverUpTo edge (s1.quota edge) s1
  (r.1.overflowPosts edge, r.2)

/-- An event reaches the Weir from a source: buffered, or replaced by LATE_DROP at the frontier of the edge that finds
it when its delivery edge has passed (R71, R73). -/
def State.weirPost (s : State) (src code : Nat) (stamp : Time) (payload : Nat) : State :=
  if deliveryEdge ⟨stamp, src, code, payload⟩ < s.now then
    ((s.count R.WEIR.LATE 15 0 1).irq R.WEIR.base 0x200).weirOwn (ceilEdge s.now) src 0x3F (stamp % 2 ^ 48)
  else s.post src code stamp payload
/-- WEIR_POST: a source posts an event record, which reaches the Weir at `t` (R71, R73, R75); a source number or a code
that no source produces posts nothing (R77, R78). -/
def execWeirPost (t : Time) (src : Fin 1024) (code : Fin 64) (stamp : Time) (payload : BitVec 48) (s : State) :
    Host.Outcome State Fault Refusal :=
  let s := s.tick t
  .next (if srcExists src && decide (1 ≤ code.val) && decide (code.val ≤ 0x3C) then s.weirPost src code stamp payload.toNat else s)

/-- STALL_CLEAR: STALLED clears once every watermark has been past the frontier for 1 us (R74). -/
def execStallClear (t : Time) (s : State) : Host.Outcome State Fault Refusal :=
  let s := s.tick t
  .next (if s.bit R.WEIR.STAT 16 ∧ s.weir.clearFrom + us 1 ≤ s.now then
    ({ s with weir := { s.weir with stalled := [] } }).putBit R.WEIR.STAT 16 false
  else s)

/-- The effect of a complete write to `WEIR.INJ` (R83): an event from source 0x3FF stamped at this
TCLK edge, or a refusal for codes 0x00 and 0x3D to 0x3F. -/
def State.weirInject (s : State) (v : Nat) : State :=
  let code := bitsN v 5 0
  if code = 0 ∨ 0x3D ≤ code then s.putBit R.WEIR.STAT 17 true
  else s.post 0x3FF code (ceilEdge s.now) (bitsN v 63 16)

/-- WEIR_INJECT: a complete 64-bit write to `WEIR.INJ` (R83). -/
def execWeirInject (t : Time) (_m : Master) (v : DWord) (s : State) : Host.Outcome State Fault Refusal :=
  let s := s.tick t
  .next (s.onPage R.WEIR.base (fun s => s.weirInject v.toNat))

/-- Word `i` of an event record (R76). -/
def EvRec.word (e : EvRec) (i : Nat) : Word :=
  match i with
  | 0 => BitVec.ofNat 32 e.stamp
  | 1 => BitVec.ofNat 32 (e.stamp >>> 32)
  | 2 => BitVec.ofNat 32 (e.src % 1024 + e.code % 64 * 1024 + e.payload % 65536 * 65536)
  | _ => BitVec.ofNat 32 (e.payload >>> 16)

/-- The address of pop word `i` of queue `q` on the WEIR page, or of Q7 on the BRAKE page (R81, R488). -/
def weirPopAddr (pg q i : Nat) : Nat := pg + (if pg = R.WEIR.base then 0x110 + 0x20 * q else 0x130) + 4 * i
/-- What a capture takes of a pop word: word 0 of the head record, or the held record's word (R39, R81, assumption
log 154). -/
def State.weirPopNow (s : State) (q i : Nat) : Word :=
  if q = 4 then 0
  else if i = 0 then ((vget s.weir.queues q).headD ⟨0, 0, 0, 0⟩).word 0
  else match vget s.weir.hold q with
    | some (_, e) => e.word i
    | none => 0

/-- A pop of a queue: the head record is removed and held for the reading master; an empty queue
gives an all-zero record, held too; Q4 reads 0 and holds nothing (R81). The word returned is word 0. -/
def State.weirPop (s : State) (m : Option Master) (pg q : Nat) : Word × State :=
  match s.popShut (weirPopAddr pg q 0) with
  | some w => (w, s)
  | none =>
  if q = 4 then (0, s) else
  let l := vget s.weir.queues q
  let e := l.headD ⟨0, 0, 0, 0⟩
  (e.word 0, { s with weir := { s.weir with
    queues := vupd s.weir.queues q List.tail, hold := vupd s.weir.hold q (fun _ => some (m, e)) } })

/-- A read of pop words 1 to 3: the held record's word for the master that holds it, and word 3 ends
the hold; otherwise 0 with PAIR_ERR on the page read (R81). -/
def State.weirPopWord (s : State) (m : Option Master) (pg q i : Nat) : Word × State :=
  match s.popShut (weirPopAddr pg q i) with
  | some w => (w, s)
  | none =>
  if q = 4 then (0, s) else
  match vget s.weir.hold q with
  | some (h, e) =>
    if h = m then
      (e.word i, if i = 3 then { s with weir := { s.weir with hold := vupd s.weir.hold q (fun _ => none) } } else s)
    else (0, s.pairErr pg)
  | none => (0, s.pairErr pg)

/-- The state with what a read returned to its master. -/
def State.ret (s : State) (w : Word) : State := { s with rd := BitVec.ofNat 64 w.toNat }

/-- The state with the two words a 64-bit read returned. -/
def State.ret2 (s : State) (lo hi : Word) : State := { s with rd := BitVec.ofNat 64 (lo.toNat + hi.toNat * 2 ^ 32) }

/-- WEIR_POP: a 32-bit read of `Q_POP0`, or a 64-bit read of `Q_POP0`/`Q_POP1`, on the WEIR page (R81). -/
def execWeirPop (t : Time) (m : Master) (q : Fin 8) (wide : Bool) (s : State) : Host.Outcome State Fault Refusal :=
  let r := (s.tick t).weirPop (some m) R.WEIR.base q
  .next (if wide then
      let r2 := r.2.weirPopWord (some m) R.WEIR.base q 1
      r2.2.ret2 r.1 r2.1
    else r.2.ret r.1)

/-- WEIR_POP_WORD: a read of pop word 1, 2 or 3 on the WEIR page (R81). -/
def execWeirPopWord (t : Time) (m : Master) (q : Fin 8) (i : Fin 4) (s : State) : Host.Outcome State Fault Refusal :=
  let r := (s.tick t).weirPopWord (some m) R.WEIR.base q (max i.val 1)
  .next (r.2.ret r.1)

end Sys2Proof.Machine
end

