-- ==== Sys2Proof/Machine/Can.lean ====
section
/-! DEFINITION. The CAN controllers (R397 to R416). -/

namespace Sys2Proof.Machine

/-- An event of controller `n` (R414). -/
def State.canPost (s : State) (n code payload : Nat) : State := s.post (0x0C0 + n) code s.now payload
/-- The mode in force: 0 CONFIG, 1 NORMAL, 2 RESTRICTED, 3 LOOPBACK (R400). -/
def State.canMode (s : State) (n : Nat) : Nat := s.fld (R.CAN.STAT n) 3 2
/-- The error state: 0 active, 1 passive, 2 bus-off (R412). -/
def State.canErr (s : State) (n : Nat) : Nat := s.fld (R.CAN.STAT n) 1 0
/-- A buffer is in transmission. -/
def State.canTxing (s : State) (n : Nat) : Bool := s.bit (R.CAN.STAT n) 13
/-- Bus-off recovery is running. -/
def State.canRecovering (s : State) (n : Nat) : Bool := s.bit (R.CAN.STAT n) 5
/-- The page of transmit buffer `b` of controller `n`. -/
def txb (n b : Nat) : Nat := n * 32 + b
/-- The controllers run: the device is in READY, RUN or SAFE, PLL_C is locked and the page is enabled (R397, R524). -/
def State.canRuns (s : State) (n : Nat) : Bool :=
  s.en (R.CAN.base n) && !s.dev.pllcDown && s.up
/-- The controller takes part in bus traffic now (R397, R400 to R402, R413). -/
def State.canOnBus (s : State) (n : Nat) : Bool :=
  s.canRuns n && decide (s.canMode n = 1 ∨ s.canMode n = 2) && decide (s.canErr n ≠ 2) && !(s.cn n).wait11

/-- What the controller drives on its pin. -/
def State.canDrive (s : State) (n : Nat) (d : CanDrive) : State := s.setCan n (fun c => { c with drive := d })
/-- The error flag of the present error state: none in RESTRICTED and while bus-off (R401, R412, R413). -/
def State.canFlag (s : State) (n : Nat) : CanDrive :=
  if s.canMode n ≠ 1 then .recessive else
  match s.canErr n with
  | 0 => .activeFlag
  | 1 => .passiveFlag
  | _ => .recessive

/-! ### Error counters (R412, R413, assumption log 77) -/

/-- `ERRCNT` shows the counters (R415). -/
def State.canShow (s : State) (n : Nat) : State :=
  let c := s.cn n
  s.setRg (R.CAN.ERRCNT n) (BitVec.ofNat 32 (c.tec % 512 + min c.rec_ 127 * 2 ^ 16 + b2n (decide (128 ≤ c.rec_)) * 2 ^ 23))
/-- The error state that the counters give (R412); bus-off ends only by recovery or CONFIG (R400, R413). -/
def State.canErrOf (s : State) (n : Nat) : Nat :=
  let c := s.cn n
  if s.canErr n = 2 ∨ 255 < c.tec then 2 else if 128 ≤ c.tec ∨ 128 ≤ c.rec_ then 1 else 0
/-- A change of error state (R412). -/
def State.canSetErr (s : State) (n e : Nat) : State :=
  if s.canErr n = e then s else ((s.putFld (R.CAN.STAT n) 1 0 e).canPost n 0x06 e).irq (R.CAN.base n) 0x20

/-- The state of a transmit buffer: 0 idle, 1 pending, 2 in transmission. -/
def State.txbState (s : State) (n b : Nat) : Nat := s.fld (R.TXB.STAT (txb n b)) 1 0
/-- A buffer takes a state, which `TX_PEND` shows. -/
def State.txbSet (s : State) (n b st : Nat) : State :=
  (s.putFld (R.TXB.STAT (txb n b)) 1 0 st).putBit (R.CAN.TX_PEND n) b (decide (st ≠ 0))
/-- A buffer leaves the pending state with an outcome. -/
def State.txbEnd (s : State) (n b outcome : Nat) : State :=
  (s.txbSet n b 0).putFld (R.TXB.STAT (txb n b)) 22 20 outcome
/-- A buffer is abandoned: outcome, and TX_FAIL with a reason (R410, R413). -/
def State.txbFail (s : State) (n b outcome reason : Nat) : State :=
  ((s.txbEnd n b outcome).canPost n 0x03 (b + reason * 2 ^ 8)).irq (R.CAN.base n) 0x10
/-- A buffer is withdrawn (R411). -/
def State.txbAborted (s : State) (n b : Nat) : State :=
  ((s.txbEnd n b 4).canPost n 0x04 b).irq (R.CAN.base n) 0x10

/-- Recovery starts (R413). -/
def State.canRecover (s : State) (n : Nat) : State :=
  (s.putBit (R.CAN.STAT n) 5 true).putFld (R.CAN.STAT n) 23 16 0
/-- The controller enters bus-off (R413). -/
def State.canBusOff (s : State) (n : Nat) : State :=
  let s0 := s.canDrive n .recessive
  let s1 := if s.bit (R.CAN.CTRL n) 3 then
    (List.range 32).foldl (fun (s : State) b => if s.txbState n b = 0 then s else s.txbFail n b 5 3) s0 else s0
  if s1.bit (R.CAN.CTRL n) 2 then s1.canRecover n else s1
/-- The counters have changed: they are shown and the error state follows (R412, R413). -/
def State.canJudge (s : State) (n : Nat) : State :=
  let e := s.canErrOf n
  let s1 := (s.canShow n).canSetErr n e
  if e = 2 ∧ s.canErr n ≠ 2 then s1.canBusOff n else s1
/-- A frame in which an error was detected, once its counters are set: the log and BUS_ERROR (R412, R414, R415). -/
def State.canBusError (s : State) (n type : Nat) : State :=
  let s1 := if type < 4 then s.count (R.CAN.ERRLOG n) (8 * type + 7) (8 * type) 1
    else s.count (R.CAN.ERRLOG2 n) 7 0 1
  let c := s.cn n
  (s1.canPost n 0x08 (type + c.tec % 512 * 2 ^ 8 + min c.rec_ 127 * 2 ^ 17)).irq (R.CAN.base n) 0x80

/-! ### Modes and timing (R398, R400) -/

/-- The requested mode takes effect: the pin is recessive, and a controller that comes onto the bus first waits for 11
recessive bits (R397, R400, assumption log 197). -/
def State.canEnter (s : State) (n : Nat) : State :=
  let md := s.fld (R.CAN.CTRL n) 1 0
  if s.canMode n = md then s else
  let joins : Bool := (md == 1 || md == 2) && !(s.canMode n == 1 || s.canMode n == 2)
  let s0 := s.setCan n (fun c => { c with drive := .recessive, wait11 := c.wait11 || joins })
  let s1 := (s0.putFld (R.CAN.STAT n) 3 2 md).putBit (R.CAN.STAT n) 4 false
  if md = 0 then
    let s2 := s1.setCan n (fun c => { c with tec := 0, rec_ := 0, wait11 := false })
    let s3 := (s2.putBit (R.CAN.STAT n) 5 false).putFld (R.CAN.STAT n) 23 16 0
    (s3.canShow n).canSetErr n 0
  else s1
/-- No frame can be in progress on the controller: it is off the bus (R400). -/
def State.canIdle (s : State) (n : Nat) : Bool :=
  !s.canTxing n && (!s.canRuns n || s.canMode n == 0 || s.canMode n == 3 || s.canErr n == 2)
/-- `PG_CTRL.EN` of a CAN page goes to 1: the controller comes onto the bus (R397, assumption log 197). -/
def State.canEnable (s : State) (n : Nat) : State := (s.setCan n (fun c => { c with wait11 := true })).canEnter n
/-- A write of `ERRCNT`: the counters are writable in CONFIG (R400, assumption log 78). -/
def State.writeErrCnt (s : State) (n v : Nat) : State :=
  if s.canMode n ≠ 0 then s else
  (s.setCan n (fun c => { c with tec := bitsN v 8 0, rec_ := if bitN v 23 then 128 else bitsN v 22 16 })).canJudge n
/-- A write of `CTRL` (R400). -/
def State.writeCanCtrl (s : State) (n v : Nat) : State :=
  let s1 := s.setRg (R.CAN.CTRL n) (BitVec.ofNat 32 (v &&& 0xfff1f))
  if s1.canIdle n then s1.canEnter n else s1

/-- The timing that `NBT` and `DBT` name is within R398. -/
def timingOk (nbt dbt : Nat) : Bool :=
  let seg1 := bitsN nbt 12 5 + 1
  let seg2 := bitsN nbt 19 13 + 1
  let d1 := bitsN dbt 9 5 + 1
  let d2 := bitsN dbt 13 10 + 1
  let nb := (bitsN nbt 4 0 + 1) * (1 + seg1 + seg2)
  let db := (bitsN dbt 4 0 + 1) * (1 + d1 + d2)
  decide (80 ≤ nb) && decide (10 ≤ db) && decide (db ≤ nb) && decide (bitsN nbt 26 20 + 1 ≤ seg2) &&
    decide (bitsN dbt 17 14 + 1 ≤ d2) && decide (2 ≤ seg1)
/-- A write of `NBT` or `DBT` (R398). -/
def State.writeCanTiming (s : State) (n : Nat) (d : Bool) (v : Nat) : State :=
  let nbt := if d then (s.rg (R.CAN.NBT n)).toNat else v &&& 0x7ffffff
  let dbt := if d then v &&& 0x3ffffff else (s.rg (R.CAN.DBT n)).toNat
  if s.fld (R.CAN.CTRL n) 1 0 ≠ 0 ∨ timingOk nbt dbt = false then s.cfgRefused (R.CAN.base n)
  else (s.setRg (R.CAN.NBT n) (BitVec.ofNat 32 nbt)).setRg (R.CAN.DBT n) (BitVec.ofNat 32 dbt)

/-! ### Receiving (R403 to R407) -/

/-- The data length that a frame's identifier word and DLC give (ISO 11898-1). -/
def canLen (id : Word) (dlc : Nat) : Nat :=
  if wbit id 31 then 0
  else if dlc ≤ 8 then dlc
  else if !wbit id 30 then 8
  else [12, 16, 20, 24, 32, 48, 64].getD (dlc - 9) 64
/-- The identifier word as records and filters see it: [17:0] of a base identifier are 0 (R403). -/
def canIdWord (id : Word) : Word := if wbit id 29 then id else id &&& 0xfffc0000
/-- A filter word as it stood at an instant (R404). -/
def State.fltAt (s : State) (n a : Nat) (t : Time) : Word :=
  match ((s.cn n).fltOld.filter (fun e => decide (t < e.1) && e.2.1 == a)).getLast? with
  | some e => e.2.2
  | none => s.rg a
/-- A write of a filter word, with the old word kept for the frame in progress (R404). -/
def State.writeFlt (s : State) (n a : Nat) (v : Word) : State :=
  (s.setCan n (fun c => { c with fltOld := (s.now, a, s.rg a) :: c.fltOld })).setRg a v
/-- The action of filter `f` at an instant. -/
def State.fltAct (s : State) (n f : Nat) (t : Time) : Nat :=
  wfld (s.fltAt n (R.CAN.FLT_ACT n (f / 16)) t) (2 * (f % 16) + 1) (2 * (f % 16))
/-- What decides a frame: the action (1 Q0, 2 Q1, 3 reject) and the filter, none for `DEFAULT` (R403). -/
def State.canFilter (s : State) (n : Nat) (w : Word) (t : Time) : Nat × Option Nat :=
  let hit (f : Nat) : Bool :=
    let m := s.fltAt n (R.CAN.FLT_MASK n f) t
    s.fltAct n f t != 0 && (w &&& m) == (s.fltAt n (R.CAN.FLT_MATCH n f) t &&& m)
  match (List.range 128).find? hit with
  | some f => (s.fltAct n f t, some f)
  | none =>
    let d := wfld (s.fltAt n (R.CAN.FLT_CFG n) t) 1 0
    (if d = 0 then 3 else d, none)
/-- The record of a frame (R405, R406). -/
def canRecord (f : CanFrame) (sof : Time) (by_ : Option Nat) : CanRec :=
  let st := sof / 16 * 16
  let len := canLen f.id f.dlc.val
  let byte (i : Nat) : Nat := if i < len then (f.data.getD i 0).toNat else 0
  Vector.ofFn (fun (i : Fin 20) =>
    match i.val with
    | 0 => BitVec.ofNat 32 st
    | 1 => BitVec.ofNat 32 (st >>> 32)
    | 2 => canIdWord f.id
    | 3 => BitVec.ofNat 32 (f.dlc.val + b2n f.brs * 2 ^ 4 + b2n f.esi * 2 ^ 5 + by_.getD 0 * 2 ^ 8 +
        b2n by_.isNone * 2 ^ 15 + len * 2 ^ 16)
    | k =>
      let j := 4 * (k - 4)
      BitVec.ofNat 32 (byte j + byte (j + 1) * 2 ^ 8 + byte (j + 2) * 2 ^ 16 + byte (j + 3) * 2 ^ 24))
/-- A frame as the standard's parts that the controller has can carry it: remote frames are classical, and bit-rate
switching and the error state indicator belong to FD frames (R397, assumption log 197). -/
def canNormal (f : CanFrame) : CanFrame :=
  if wbit f.id 30 then { f with id := wput f.id 31 31 0 } else { f with brs := false, esi := false }
/-- A frame at its acceptance point: filtered, then queued or rejected; one that finds its queue full is lost unless a pop
comes at the same KCLK edge (R403 to R405). -/
def State.canAccept (s : State) (n : Nat) (f : CanFrame) (sof arb : Time) : State :=
  let d := s.canFilter n (canIdWord f.id) arb
  let s0 := s.setCan n (fun c => { c with fltOld := [] })
  if d.1 = 3 then s0 else
  let q := d.1 - 1
  let x : CanLate :=
    { edge := kclkEdge s.now, at_ := s.now, q := q, record := canRecord f sof d.2,
      payload := sof / 16 % 2 ^ 32 + q * 2 ^ 32 + d.2.getD 0 * 2 ^ 33 + b2n d.2.isNone * 2 ^ 40 }
  if 64 ≤ (vget (s0.cn n).queues q).length then s0.setCan n (fun c => { c with late := some x }) else s0.canStore n x

/-- The counters after an error outside an attempt (R412, assumption log 77). -/
def CanSt.stepped (c : CanSt) (k : CanSteps) : CanSt :=
  let d := b2n k.one + 8 * k.eights
  if k.tx then { c with tec := min 511 (c.tec + d) } else { c with rec_ := min 255 (c.rec_ + d) }
/-- An error in a frame that the controller receives, or in an overload frame: error flag, counters, log, event and, in
RESTRICTED, the wait in place of flag and counters (R401, R412). -/
def State.canRxError (s : State) (n type : Nat) (k : CanSteps) : State :=
  let s0 := ((s.setCan n (fun c => { c with fltOld := [] })).putBit (R.CAN.STAT n) 4 false).canDrive n (s.canFlag n)
  if s.canMode n = 2 then
    (s0.setCan n (fun c => { c with wait11 := true })).canBusError n type
  else ((s0.setCan n (fun c => c.stepped k)).canBusError n type).canJudge n
/-- A frame received correctly lowers REC (R412, assumption log 77). -/
def State.canRxOk (s : State) (n : Nat) : State :=
  if s.canMode n = 2 then s else
  let r := (s.cn n).rec_
  if r = 0 then s
  else if r ≤ 127 then (s.setCan n (fun c => { c with rec_ := r - 1 })).canJudge n
  else
    let v := s.freeIn 119 127
    (v.2.setCan n (fun c => { c with rec_ := v.1.toNat })).canJudge n
/-- A recessive res bit: protocol exception, or a form error with PXHD = 1 (R402). -/
def State.canRes (s : State) (n : Nat) : State :=
  if s.bit (R.CAN.CTRL n) 4 then s.canRxError n 2 ⟨true, 0, false⟩
  else
    let s1 := (s.setCan n (fun c => { c with wait11 := true, fltOld := [] })).putBit (R.CAN.STAT n) 4 false
    ((s1.count (R.CAN.ERRLOG2 n) 15 8 1).canPost n 0x09 0).irq (R.CAN.base n) 0x100

/-- A frame of another node on the bus of a controller: at its start a frame is in progress, a recessive res bit is judged,
and at its acceptance it is acknowledged, counted and stored (R397, R401, R402, R404, R405, R415). -/
def State.canRx (s : State) (n : Nat) (f : CanFrame) (sof arb : Time) (at_ : CanRxAt) : State :=
  match at_ with
  | .start => (s.putBit (R.CAN.STAT n) 4 true).canDrive n .recessive
  | .resBit => s.canRes n
  | .accept => (((s.putBit (R.CAN.STAT n) 4 false).canDrive n .ack).canRxOk n).canAccept n (canNormal f) sof arb
/-- RX: a frame on the bus of controller `n` at its acceptance point, with its start-of-frame stamp and the
sample point of its last arbitration bit; or its start or its recessive res bit (R402, R404, R405). -/
def execCanRx (t : Time) (n : Fin 16) (f : CanFrame) (sof arb : Time) (res : CanRxAt) (s : State) :
    Host.Outcome State Fault Refusal :=
  let s := s.tick t
  .next (if !s.canOnBus n || s.canTxing n then s else s.canRx n f sof arb res)
/-- CAN_RX_ERROR: an error of a type of R414 in a frame that the controller receives or in an overload frame, with the
steps of its counter (R412, assumption log 77). -/
def execCanRxError (t : Time) (n : Fin 16) (type : Fin 5) (k : CanSteps) (s : State) : Host.Outcome State Fault Refusal :=
  let s := s.tick t
  .next (if !s.canOnBus n || s.canTxing n then s else s.canRxError n type k)

/-- The address of pop word `i` of a receive queue (R407, R415). -/
def canPopAddr (n q i : Nat) : Nat := R.CAN.base n + 0x200 + 0x80 * q + 4 * i
/-- What a capture takes of a pop word of a receive queue (R39, R407, assumption log 154). -/
def State.canPopNow (s : State) (n q i : Nat) : Word :=
  if i = 0 then ((vget (s.cn n).queues q).headD (Vector.replicate 20 0))[0]
  else match vget (s.cn n).hold q with
    | some (_, r) => vget r i
    | none => 0
/-- A pop of a receive queue: the head, or an all-zero record, is held for the master; word 0 (R407). -/
def State.canPop (s : State) (m : Master) (n q : Nat) : Word × State :=
  match s.popShut (canPopAddr n q 0) with
  | some w => (w, s)
  | none =>
  let r : CanRec := (vget (s.cn n).queues q).headD (Vector.replicate 20 0)
  (r[0], (s.setCan n (fun c => { c with queues := vupd c.queues q List.tail, hold := vupd c.hold q (fun _ => some (m, r)) })).canLevel n q |>.canRoom n q)
/-- A read of pop words 1 to 19 (R407). -/
def State.canPopWord (s : State) (m : Master) (n q i : Nat) : Word × State :=
  match s.popShut (canPopAddr n q i) with
  | some w => (w, s)
  | none =>
  match vget (s.cn n).hold q with
  | some (h, r) =>
    if h = m then (vget r i, if i = 19 then s.setCan n (fun c => { c with hold := vupd c.hold q (fun _ => none) }) else s)
    else (0, s.pairErr (R.CAN.base n))
  | none => (0, s.pairErr (R.CAN.base n))
/-- RXQ_POP: a read of pop word `i`; word 0 pops, and `wide` reads word `i + 1` with it (R407). -/
def execRxqPop (t : Time) (m : Master) (n : Fin 16) (q : Fin 2) (i : Fin 20) (wide : Bool) (s : State) :
    Host.Outcome State Fault Refusal :=
  let one (s : State) (i : Nat) : Word × State := if i = 0 then s.canPop m n q else s.canPopWord m n q i
  let r := one (s.tick t) i
  .next (if wide && i.val % 2 == 0 then
      let r2 := one r.2 (i + 1)
      r2.2.ret2 r.1 r2.1
    else r.2.ret r.1)

/-! ### Transmitting (R408 to R411) -/

/-- A request of one buffer (R408). -/
def State.txReqOne (s : State) (n b : Nat) : State :=
  let id := s.rg (R.TXB.ID (txb n b))
  let e := kclkEdge s.now
  if s.txbState n b ≠ 0 ∨ (wbit id 30 ∧ wbit id 31) ∨ (s.bit (R.TXB.FLAGS (txb n b)) 4 ∧ wbit id 30 = false) then
    (((s.canPost n 0x03 (b + 4 * 2 ^ 8)).irq (R.CAN.base n) 0x10)).cmdRefused (R.CAN.base n)
  else if (s.cn n).abortAt.1 = e ∧ bitN (s.cn n).abortAt.2 b then s
  else
    let s1 := ((s.txbSet n b 1).putFld (R.TXB.STAT (txb n b)) 15 8 0).putFld (R.TXB.STAT (txb n b)) 19 16 0
    s1.setCan n (fun c => { c with reqAt := (e, (if c.reqAt.1 = e then c.reqAt.2 else 0) ||| 2 ^ b) })
/-- A write of `TX_REQ` (R408). -/
def State.txReq (s : State) (n v : Nat) : State :=
  (List.range 32).foldl (fun (s : State) b => if bitN v b then s.txReqOne n b else s) s
/-- A write of `TX_ABORT` for one buffer (R411). -/
def State.txAbortOne (s : State) (n b : Nat) : State :=
  let e := kclkEdge s.now
  let s1 := s.setCan n (fun c => { c with abortAt := (e, (if c.abortAt.1 = e then c.abortAt.2 else 0) ||| 2 ^ b) })
  if s.txbState n b = 1 then
    (if (s.cn n).reqAt.1 = e ∧ bitN (s.cn n).reqAt.2 b then s1.txbSet n b 0 else s1.txbAborted n b)
  else if s.txbState n b = 2 then s1.setCan n (fun c => { c with abortReq := c.abortReq ||| 2 ^ b })
  else s1
/-- A write of `TX_ABORT` (R411). -/
def State.txAbort (s : State) (n v : Nat) : State :=
  (List.range 32).foldl (fun (s : State) b => if bitN v b then s.txAbortOne n b else s) s

/-- The arbitration field of a buffer as a number: the lowest wins (R409). -/
def arbKey (id : Word) : Nat :=
  let base := wfld id 28 18 * 2 ^ 21
  if wbit id 29 then base + 2 ^ 20 + 2 ^ 19 + wfld id 17 0 * 2 + b2n (wbit id 31) else base + b2n (wbit id 31) * 2 ^ 20
/-- The pending buffer that would win arbitration, the lowest number among equals (R409). -/
def State.canWinner (s : State) (n : Nat) : Option Nat :=
  (List.range 32).foldl (fun (w : Option Nat) b =>
    if s.txbState n b ≠ 1 then w else
    match w with
    | none => some b
    | some x => if arbKey (s.rg (R.TXB.ID (txb n b))) < arbKey (s.rg (R.TXB.ID (txb n x))) then some b else w) none
/-- The controller may start a frame (R401, R409, R413). -/
def State.canMayStart (s : State) (n : Nat) : Bool :=
  s.canRuns n && decide (s.canMode n = 1 ∨ s.canMode n = 3) && decide (s.canErr n ≠ 2) && (decide (s.canMode n = 3) || !(s.cn n).wait11) &&
    !s.canTxing n && !s.bit (R.CAN.STAT n) 4
/-- The controller selects a buffer and commits to starting its frame (R409). -/
def State.canSelect (s : State) (n : Nat) : State :=
  if !s.canMayStart n then s else
  match s.canWinner n with
  | none => s
  | some b =>
    let s1 := (((s.txbSet n b 2).putFld (R.CAN.STAT n) 12 8 b).putBit (R.CAN.STAT n) 13 true).putBit (R.CAN.STAT n) 4 true
    let dbt := s.rg (R.CAN.DBT n)
    s1.setCan n (fun c => { c with
      drive := if s.canMode n = 1 then .frame b else .recessive,
      ownSample := (wfld dbt 4 0 + 1) * (2 + wfld dbt 9 5) })
/-- CAN_TX_SELECT (R409). -/
def execCanTxSelect (t : Time) (n : Fin 16) (s : State) : Host.Outcome State Fault Refusal := .next ((s.tick t).canSelect n)

/-- The frame of a buffer, as LOOPBACK receives it. -/
def State.txbFrame (s : State) (n b : Nat) : CanFrame :=
  let p := txb n b
  let id := s.rg (R.TXB.ID p)
  ⟨id, ⟨s.fld (R.TXB.FLAGS p) 3 0 % 16, Nat.mod_lt _ (by decide)⟩, s.bit (R.TXB.FLAGS p) 4, s.canErr n == 1 && wbit id 30,
    (List.range 64).map (fun i => BitVec.ofNat 8 (s.fld (R.TXB.DATA p (i / 4)) (8 * (i % 4) + 7) (8 * (i % 4))))⟩

/-- The buffer of a failed attempt: withdrawn, abandoned or pending again (R410, R411). -/
def State.txbRetry (s : State) (n b outcome reason : Nat) (give : Bool) : State :=
  let ab := bitN (s.cn n).abortReq b
  let s1 := s.setCan n (fun c => { c with abortReq := 0 })
  if ab then s1.txbAborted n b else if give then s1.txbFail n b outcome reason else s1.txbSet n b 1

/-- The attempt of the buffer in transmission ends. A frame sent with an inverted CRC bit ends in an error: in LOOPBACK the
controller itself sees the CRC error, in NORMAL no receiver acknowledges it (R399, R410, R411, R412, R416). -/
def State.canAttemptEnd (s : State) (n : Nat) (res : CanEnd) (tdc : Option Nat) : State :=
  if !s.canTxing n || !s.canRuns n then s else
  let b := s.fld (R.CAN.STAT n) 12 8
  let p := txb n b
  let inj := s.bit (R.PG_ERRINJ (R.CAN.base n)) 16
  let s0 := (s.putBit (R.CAN.STAT n) 13 false).canDrive n (match res with
    | .error _ _ _ _ => s.canFlag n
    | _ => .recessive)
  let s1 := match tdc with
    | some d => if s.bit (R.CAN.DBT n) 18 && wbit (s.rg (R.TXB.ID p)) 30 then
        (s0.putFld (R.CAN.TDC_VAL n) 6 0 (min 127 d)).setCan n (fun c =>
          { c with ownSample := min 127 (d + s.fld (R.CAN.DBT n) 25 19) }) else s0
    | none => s0
  let used := s1.putBit (R.PG_ERRINJ (R.CAN.base n)) 16 false
  let fail (s : State) (type : Nat) (exempt : Bool) (eights : Nat) : State :=
    let e := s.fld (R.TXB.STAT p) 19 16 + 1
    let s2 := (s.putFld (R.TXB.STAT p) 19 16 (min 15 e)).putBit (R.CAN.STAT n) 4 false
    let s3 := s2.setCan n (fun c => { c with tec := min 511 (c.tec + (if exempt then 0 else 8) + 8 * eights) })
    ((s3.canBusError n type).txbRetry n b 3 2 (decide (s.fld (R.CAN.CTRL n) 19 16 < e))).canJudge n
  match res with
  | .lost =>
    let k := min 255 (s1.fld (R.TXB.STAT p) 15 8 + 1)
    let lim := s1.fld (R.CAN.CTRL n) 15 8
    (s1.putFld (R.TXB.STAT p) 15 8 k).txbRetry n b 2 1 (decide (lim ≠ 0 ∧ lim ≤ k))
  | .error type exempt eights crc => fail (if crc then used else s1) type exempt eights
  | .sent sof arb =>
    if inj then fail (used.canDrive n (s.canFlag n)) (if s.canMode n = 3 then 3 else 4) false 0 else
    let s2 := ((used.setRg64 (R.TXB.STAMP p) (sof / 16 * 16)).txbEnd n b 1).putBit (R.CAN.STAT n) 4 false
    let s3 := (s2.canPost n 0x02 (sof / 16 % 2 ^ 32 + b * 2 ^ 32)).irq (R.CAN.base n) 8
    let s4 := (s3.setCan n (fun c => { c with abortReq := 0, tec := c.tec - 1 })).canJudge n
    if s.canMode n = 3 then s4.canAccept n (s.txbFrame n b) sof arb else s4
/-- CAN_TX_ATTEMPT_END: how the attempt ends, and the loop delay in KCLK cycles that an FD frame measured (R399, R410). -/
def execCanTxAttemptEnd (t : Time) (n : Fin 16) (res : CanEnd) (tdc : Option Nat) (s : State) : Host.Outcome State Fault Refusal :=
  .next ((s.tick t).canAttemptEnd n res tdc)

/-! ### Bus-off and waiting (R401, R402, R413) -/

/-- A write of `CMD.BOFF_REC` (R413). -/
def State.boffRec (s : State) (n : Nat) : State :=
  if s.canErr n = 2 ∧ s.canRecovering n = false then s.canRecover n else s.cmdRefused (R.CAN.base n)
/-- 128 recessive sequences have been counted: recovery ends (R413). -/
def State.boffDone (s : State) (n : Nat) : State :=
  if s.canErr n = 2 ∧ s.canRecovering n ∧ s.fld (R.CAN.STAT n) 23 16 = 128 then
    let s1 := (s.setCan n (fun c => { c with tec := 0, rec_ := 0 })).putBit (R.CAN.STAT n) 5 false
    (((s1.canShow n).canSetErr n 0).canPost n 0x07 0).irq (R.CAN.base n) 0x40
  else s
/-- 11 consecutive recessive bits (R401, R402, R413). -/
def State.recessive (s : State) (n : Nat) : State :=
  if !s.canRuns n then s else
  let s1 := if s.canErr n = 2 ∧ s.canRecovering n then
    s.putFld (R.CAN.STAT n) 23 16 (min 128 (s.fld (R.CAN.STAT n) 23 16 + 1)) else s
  s1.setCan n (fun c => { c with wait11 := false })
/-- RECESSIVE_SEQUENCE: a sequence for recovery, or the end of a wait; with `res`, the sequence follows a recessive
res bit that no RX command reported (R402, R413). -/
def execRecessiveSequence (t : Time) (n : Fin 16) (res : Bool) (s : State) : Host.Outcome State Fault Refusal :=
  let s := s.tick t
  .next ((if res && s.canOnBus n && !s.canTxing n then s.canRes n else s).recessive n)
/-- BOFF_RECOVERED (R413). -/
def execBoffRecovered (t : Time) (n : Fin 16) (s : State) : Host.Outcome State Fault Refusal := .next ((s.tick t).boffDone n)

/-- A controller that stops: its frame ends, and its buffer is pending again (R397, R524). -/
def State.canHalt (s : State) (n : Nat) : State :=
  let b := s.fld (R.CAN.STAT n) 12 8
  let s1 := if s.canTxing n then (s.txbSet n b 1).putBit (R.CAN.STAT n) 13 false else s
  let s2 := (s1.putBit (R.CAN.STAT n) 4 false).setCan n (fun c => { c with abortReq := 0, drive := .recessive })
  if s.canTxing n ∧ bitN (s.cn n).abortReq b then s2.txbAborted n b else s2
/-- `PG_CTRL.EN` of a CAN page goes to 0 (R397). -/
def State.canDisable (s : State) (n : Nat) : State := (s.canHalt n).canEnter n
/-- Loss of PLL_C stops every controller (R524). -/
def State.canStopAll (s : State) : State := (List.range 16).foldl (fun (s : State) n => s.canHalt n) s
/-- PLL_C locks again: every controller waits for 11 recessive bits (R524). -/
def State.canRestartAll (s : State) : State :=
  (List.range 16).foldl (fun (s : State) n => s.setCan n (fun c => { c with wait11 := true })) s

/-! ### Registers -/

/-- Writes of a CAN page with a meaning of their own (R398, R400, R404, R408, R411, R413). -/
def State.canHook (s : State) (n off v : Nat) : Option State :=
  if off = 0x40 then some (s.writeCanCtrl n v)
  else if off = 0x48 then some (s.writeCanTiming n false v)
  else if off = 0x4c then some (s.writeCanTiming n true v)
  else if off = 0x50 then some (s.writeErrCnt n v)
  else if off = 0x5c then some (if bitN v 0 then s.boffRec n else s)
  else if off = 0x60 then some (s.writeFlt n (R.CAN.FLT_CFG n) (BitVec.ofNat 32 (v &&& 3)))
  else if off = 0x90 then some (s.txReq n v)
  else if off = 0x98 then some (s.txAbort n v)
  else if (0x3e0 ≤ off ∧ off < 0x400) ∨ (0x400 ≤ off ∧ off < 0x800) then
    some (s.writeFlt n (R.CAN.base n + off) (BitVec.ofNat 32 v))
  else none
/-- Writes behind the buffer window: refused while the buffer is pending or in transmission (R408). -/
def State.txbHook (s : State) (n b off : Nat) : Option State :=
  if off ≠ 0x308 ∧ off ≠ 0x310 ∧ off ≠ 0x314 ∧ s.txbState n b ≠ 0 then some (s.cfgRefused (R.CAN.base n)) else none

/-- CAN_MODE_WRITE: a write of `CTRL` (R400). -/
def execCanModeWrite (t : Time) (_m : Master) (n : Fin 16) (v : Word) (s : State) : Host.Outcome State Fault Refusal :=
  .next ((s.tick t).onPage (R.CAN.base n) (fun s => s.writeCanCtrl n v.toNat))
/-- CAN_MODE_CHANGE: no frame is in progress on the controller, and the requested mode takes effect (R400). -/
def execCanModeChange (t : Time) (n : Fin 16) (s : State) : Host.Outcome State Fault Refusal :=
  let s := s.tick t
  .next (if s.canTxing n || s.bit (R.CAN.STAT n) 4 then s else s.canEnter n)
/-- CAN_TIMING_WRITE: a write of `NBT`, or with `d` of `DBT` (R398). -/
def execCanTimingWrite (t : Time) (_m : Master) (n : Fin 16) (d : Bool) (v : Word) (s : State) : Host.Outcome State Fault Refusal :=
  .next ((s.tick t).onPage (R.CAN.base n) (fun s => s.writeCanTiming n d v.toNat))
/-- TX_REQ (R408). -/
def execTxReq (t : Time) (_m : Master) (n : Fin 16) (v : Word) (s : State) : Host.Outcome State Fault Refusal :=
  .next ((s.tick t).onPage (R.CAN.base n) (fun s => s.txReq n v.toNat))
/-- TX_ABORT (R411). -/
def execTxAbort (t : Time) (_m : Master) (n : Fin 16) (v : Word) (s : State) : Host.Outcome State Fault Refusal :=
  .next ((s.tick t).onPage (R.CAN.base n) (fun s => s.txAbort n v.toNat))
/-- BOFF_REC (R413). -/
def execBoffRec (t : Time) (_m : Master) (n : Fin 16) (s : State) : Host.Outcome State Fault Refusal :=
  .next ((s.tick t).onPage (R.CAN.base n) (fun s => s.boffRec n))

end Sys2Proof.Machine
end

