-- ==== Sys2Proof/Machine/Fbp.lean ====
section
/-! DEFINITION. The feedback ports: qualification, counting, limits, velocity and position, serial
sensors, loss detection (R84 to R117, R571). -/

namespace Sys2Proof.Machine

/-! ### Numbers -/

/-- A quotient rounded to the nearest integer, half to even. -/
def roundHalfEven (num : Int) (den : Nat) : Int :=
  if den = 0 then 0 else
  let q := num.fdiv den
  let r2 := 2 * (num - q * den)
  if r2 < den then q else if (den : Int) < r2 then q + 1 else if q % 2 = 0 then q else q + 1

/-- A velocity in counts per fine tick, as an exact quotient. -/
structure Rate where
  num : Int
  den : Nat
deriving DecidableEq, Repr, Inhabited

/-- A rate as counts per second in Q40.24, rounded half to even (R3, R100). -/
def Rate.q4024 (r : Rate) : Int := satI 64 (roundHalfEven (r.num * 16000000000 * 2 ^ 24) r.den)

/-! ### The port's registers -/

/-- The state with a port changed. -/
def State.setFbp (s : State) (n : Nat) (f : FbpSt → FbpSt) : State := { s with fbp := vupd s.fbp n f }
/-- `CTRL.MODE` of a port. -/
def State.fbMode (s : State) (n : Nat) : Nat := s.fld (R.FBP.CTRL n) 3 0
/-- The counter. -/
def State.fbCount (s : State) (n : Nat) : Int := s.sgn64 (R.FBP.COUNT n)
/-- The low limit. -/
def State.fbLo (s : State) (n : Nat) : Int := s.sgn64 (R.FBP.LIM_LO n)
/-- The high limit. -/
def State.fbHi (s : State) (n : Nat) : Int := s.sgn64 (R.FBP.LIM_HI n)
/-- `OVR.OVR`. -/
def State.fbOvr (s : State) (n : Nat) : Nat := s.fld (R.FBP.OVR n) 15 0
/-- `OVR.OVR_SAT`. -/
def State.fbSat (s : State) (n : Nat) : Bool := s.bit (R.FBP.OVR n) 16
/-- `OVR.SIDE`: true for the high side. -/
def State.fbSide (s : State) (n : Nat) : Bool := s.bit (R.FBP.OVR n) 17
/-- POS_VALID. -/
def State.posValid (s : State) (n : Nat) : Bool := s.bit (R.FBP.STAT n) 0

/-- The axes whose FB_SEL in force names the port (R114): `USERS`. -/
def FbSelSt.names (f : FbSelSt) (n : Nat) : Bool :=
  (wbit f.sel 6 && wfld f.sel 5 0 == n) || (wbit f.sel 14 && wfld f.sel 13 8 == n)
/-- The axis names the port as primary. -/
def FbSelSt.primary (f : FbSelSt) : Option Nat :=
  if wbit f.sel 6 && wfld f.sel 5 0 < 48 then some (wfld f.sel 5 0) else none
/-- The secondary port of an axis. -/
def FbSelSt.secondary (f : FbSelSt) : Option Nat :=
  if wbit f.sel 14 && wfld f.sel 13 8 < 48 then some (wfld f.sel 13 8) else none
/-- `USERS` of a port, bit a for AXa. -/
def State.fbUsers (s : State) (n : Nat) : Nat := maskOf 64 (fun a => (vget s.fbSel a).names n)

/-- The commanded velocity of an axis: words 22 and 23 of its latest inner frame (R111). -/
def State.cmdVel (s : State) (a : Nat) : Int :=
  let f := (vget (vget s.ax a).lv 0).frame
  sx 64 (f[22].toNat + f[23].toNat * 2 ^ 32)
/-- The current setpoint of an axis: words 18 and 19 of its inner frame, read as Q1.31 (R111). -/
def State.setpoint (s : State) (a : Nat) : Int := ((vget (vget s.ax a).lv 0).frame[18]).toInt

/-! ### Faults (R111) -/

/-- POS_VALID takes a value; a change is kept with its instant (R355). -/
def State.putValid (s : State) (n : Nat) (v : Bool) : State :=
  if s.posValid n = v then s else
  (s.putBit (R.FBP.STAT n) 0 v).setFbp n (fun p => { p with validLog := ((s.now, v) :: p.validLog).take 16 })
/-- POS_VALID of a port as it stood at an instant (R355). -/
def State.validAt (s : State) (n : Nat) (t : Time) : Bool :=
  let l := (vget s.fbp n).validLog
  match l.find? (fun x => decide (x.1 ≤ t)), l.getLast? with
  | some x, _ => x.2
  | none, some x => !x.2
  | none, none => s.posValid n
/-- POS_VALID cleared by a fault (R111). -/
def State.clearByFault (s : State) (n : Nat) : State := (s.putValid n false).setFbp n (fun p => { p with lost := .fault })
/-- POS_VALID cleared by a limit, unless it is 0 already: what cleared it decides RESTORE (R96, R98, R99). -/
def State.clearByLimit (s : State) (n : Nat) : State :=
  if s.posValid n then (s.putValid n false).setFbp n (fun p => { p with lost := .limit }) else s
/-- POS_VALID set. -/
def State.setValid (s : State) (n : Nat) : State := (s.putValid n true).setFbp n (fun p => { p with lost := .none })

/-- A feedback fault: its FAULT bit, `PG_IRQ[0]`, POS_VALID, its event, and the report to the
Brakewheel for the axes in USERS (R111). -/
def State.fbFault (s : State) (n bitNo code : Nat) (stamp : Time) (payload : Nat) : State :=
  ((((s.putBit (R.FBP.FAULT n) bitNo true).irq (R.FBP.base n) 1).clearByFault n).post n code stamp payload).report
    0x11 n (s.fbUsers n) false 0

/-! ### The counter and its limits (R96, R97, R99) -/

/-- AT_LIM_LO and AT_LIM_HI as OVR and the counter stand. -/
def State.limFlags (s : State) (n : Nat) : State :=
  let o := decide (0 < s.fbOvr n) || s.fbSat n
  (s.putBit (R.FBP.STAT n) 1 (o && s.fbCount n == s.fbLo n)).putBit (R.FBP.STAT n) 2 (o && s.fbCount n == s.fbHi n)

/-- The counter and `OVR` set together. -/
def State.setPos (s : State) (n : Nat) (c : Int) (ovr : Nat) (sat side : Bool) : State :=
  ((s.setRg64 (R.FBP.COUNT n) (ux 64 c)).setRg (R.FBP.OVR n)
    (BitVec.ofNat 32 (ovr + b2n sat * 2 ^ 16 + b2n side * 2 ^ 17))).limFlags n

/-- The position v that the counter and OVR hold together (R98, R99). -/
def State.fbPlace (s : State) (n : Nat) : Int :=
  if s.fbOvr n = 0 then s.fbCount n
  else if s.fbSide n then s.fbCount n + s.fbOvr n else s.fbCount n - s.fbOvr n

/-- A position beyond a limit: the counter at the limit, the rest in OVR, saturating with OVR_SAT
posted (R96, R97). -/
def State.placeBeyond (s : State) (n : Nat) (side : Bool) (ovr : Nat) (stamp : Time) : State :=
  let lim := if side then s.fbHi n else s.fbLo n
  if 0xFFFF ≤ ovr then (s.setPos n lim 0xFFFF true side).post n 0x05 stamp (b2n side)
  else s.setPos n lim ovr false side

/-- A count beyond a limit: POS_VALID, `PG_IRQ[2]`, LIMIT where OVR rises from 0, and the counter at the limit with
`ovr` beyond it (R96, R117). -/
def State.overrun (s : State) (n : Nat) (side fresh : Bool) (ovr : Nat) (stamp : Time) : State :=
  let s1 := (s.clearByLimit n).irq (R.FBP.base n) 4
  (if fresh then s1.post n 0x04 stamp (b2n side) else s1).placeBeyond n side ovr stamp

/-- A count of `d` (R96, R97): inward it first uses up OVR; what is left moves the counter, and what of that lies beyond
a limit joins OVR (assumption log 156). While OVR_SAT stands, OVR holds and the counter moves inside the limits alone. -/
def State.moveCounter (s : State) (n : Nat) (d : Int) (stamp : Time) : State :=
  let lo := s.fbLo n
  let hi := s.fbHi n
  let o := s.fbOvr n
  let side := s.fbSide n
  if s.fbSat n then
    let v := s.fbCount n + d
    let s1 := s.setPos n (clampI lo hi v) 0xFFFF true (if hi < v then true else if v < lo then false else side)
    if hi < v ∨ v < lo then (s1.clearByLimit n).irq (R.FBP.base n) 4 else s1
  else
    let used := if (if side then decide (d < 0) else decide (0 < d)) then min o d.natAbs else 0
    let rest := o - used
    let v := s.fbCount n + (d - d.sign * (used : Int))
    if hi < v then
      let base := if side then rest else 0
      s.overrun n true (decide (base = 0)) (base + (v - hi).toNat) stamp
    else if v < lo then
      let base := if side then 0 else rest
      s.overrun n false (decide (base = 0)) (base + (lo - v).toNat) stamp
    else s.setPos n v rest false side

/-- The counter set to a value clamped to the limits, OVR and OVR_SAT cleared; counts of edges stamped at or before
`at_` are superseded (R95, R98). -/
def State.setCounter (s : State) (n : Nat) (v : Int) (at_ : Time) : State :=
  (s.setPos n (clampI (s.fbLo n) (s.fbHi n) v) 0 false (s.fbSide n)).setFbp n (fun p => { p with setAt := some at_ })

/-- The upper bits of a 48-bit signed value are all equal to bit 47 (R99). -/
def in48 (v : Nat) : Bool := bitsN v 63 47 == 0 || bitsN v 63 47 == 0x1FFFF

/-- A write of LIM_LO or LIM_HI (R99). -/
def State.writeLimit (s : State) (n : Nat) (hi : Bool) (v : Nat) : State :=
  let lo' := if hi then s.fbLo n else sx 64 v
  let hi' := if hi then sx 64 v else s.fbHi n
  if !in48 v || decide (hi' < lo') then s.cfgRefused (R.FBP.base n) else
  let s1 := s.setRg64 (if hi then R.FBP.LIM_HI n else R.FBP.LIM_LO n) v
  let c := s.fbCount n
  if lo' ≤ c ∧ c ≤ hi' then s1.limFlags n
  else
    let e := ceilEdge s.now
    let s2 := s1.clearByLimit n
    let left (s : State) (side : Bool) : State := (s.irq (R.FBP.base n) 4).post n 0x04 e (b2n side)
    if s.fbSat n then
      let side := decide (hi' < c)
      left (s2.setPos n (if side then hi' else lo') 0xFFFF true side) side
    else
      let p := s.fbPlace n
      if hi' < p then left (s2.placeBeyond n true (p - hi').toNat e) true
      else if p < lo' then left (s2.placeBeyond n false (lo' - p).toNat e) false
      else s2.setPos n p 0 false (s.fbSide n)

/-! ### Rejected edges (R88, R90) -/

/-- The gathered rejected edges posted as one GLITCH event at `at_` (R90). -/
def State.postGlitch (s : State) (n : Nat) (at_ : Time) : State :=
  let p := vget s.fbp n
  (s.post n 0x02 at_ (min 0xFFFF p.glCount + p.glLines * 2 ^ 16)).setFbp n
    (fun p => { p with glCount := 0, glLines := 0, glLast := some at_ })

/-- Gathered rejected edges are posted 1 us after the previous GLITCH event, once that instant has come (R90). -/
def State.glitchDue (s : State) (n : Nat) (t : Time) : State :=
  match (vget s.fbp n).glLast with
  | some l => if 0 < (vget s.fbp n).glCount ∧ l + us 1 ≤ t then s.postGlitch n (l + us 1) else s
  | none => s

/-- A rejected edge: counted, posted at most once per microsecond, and watched for GLITCH_FAULT (R88, R90). -/
def State.rejectEdge (s : State) (n line : Nat) (stamp : Time) (stamped : Bool) : State :=
  let s0 := s.glitchDue n stamp
  let s1 := (s0.count (R.FBP.GLITCH_CNT n) 15 0 1).irq (R.FBP.base n) 8
  let win := us (nz (s.fld (R.FBP.GLITCH_CFG n) 31 16))
  let s2 := s1.setFbp n (fun p =>
    let fresh := match p.winStart with | none => true | some w => decide (w + win ≤ stamp)
    { p with
      lines := vupd p.lines line (fun l => if stamped then { l with rejStamped := true } else { l with rejPlain := true })
      glCount := p.glCount + 1
      glLines := p.glLines ||| 2 ^ line
      winStart := if fresh then some stamp else p.winStart
      winCount := if fresh then 1 else p.winCount + 1 })
  let thr := s.fld (R.FBP.GLITCH_CFG n) 15 0
  let s3 := if thr ≠ 0 ∧ (vget s2.fbp n).winCount = thr then s2.fbFault n 1 0x10 stamp 0 else s2
  match (vget s0.fbp n).glLast with
  | none => s3.postGlitch n stamp
  | some l => if l + us 1 ≤ stamp then s3.postGlitch n stamp else s3

/-! ### Decoding accepted edges (R91 to R95) -/

/-- The present level of a line after INV (R92). -/
def State.lineLevel (s : State) (n line : Nat) : Bool :=
  (vget (vget s.fbp n).lines line).raw != s.bit (R.FBP.CTRL n) (10 + line)
/-- The present levels of P0 to P2 after INV. -/
def State.fbLevels (s : State) (n : Nat) : Nat := maskOf 3 (s.lineLevel n)

/-- The decoder state from the present levels, A and B exchanged by SWAP_AB (R91, R92). -/
def State.decNow (s : State) (n : Nat) : Nat :=
  let l := s.fbLevels n
  if s.fbMode n = 1 then l
  else if s.bit (R.FBP.CTRL n) 14 then bitsN l 1 1 * 2 + l % 2 else (l % 2) * 2 + bitsN l 1 1

/-- A slot's commutation follows the Hall state of its port: a mask application falls due at the
stamp plus COMM_DLY (R158). -/
def State.hallEdge (s : State) (n st : Nat) (stamp : Time) : State :=
  (List.range 48).foldl (fun s k =>
    let c := s.rg (R.PWM.COMM_CFG k)
    if wbit c 0 && wfld c 6 1 == n then
      { s with pwm := vupd s.pwm k (fun p =>
          { p with commPend := p.commPend ++ [(stamp + s.fld (R.PWM.COMM_DLY k) 23 0, st, s.now)] }) }
    else s) s

/-- An illegal transition: the decoder takes the present levels as its state, POS_VALID clears, ILLEGAL is raised; a Hall
state that changes is a HALL event, 0 and 7 included (R91, R158, assumption log 160). -/
def State.illegal (s : State) (n : Nat) (stamp : Time) : State :=
  let old := (vget s.fbp n).dec
  let st := s.decNow n
  let s1 := (s.setFbp n (fun p => { p with dec := st })).fbFault n 0 0x03 stamp (s.fbLevels n)
  if s.fbMode n = 1 ∧ st ≠ old then (s1.post n 0x07 stamp (st + old * 8)).hallEdge n st stamp else s1

/-- A counting edge of sign `fwd` before DIR_INV: history, LAST_EDGE, DIR and the counter (R92, R96, R100). -/
def State.countEdge (s : State) (n : Nat) (fwd0 : Bool) (stamp : Time) : State :=
  let fwd := fwd0 != s.bit (R.FBP.CTRL n) 13
  let s0 := (s.setRg64 (R.FBP.LAST_EDGE n) stamp).putBit (R.FBP.STAT n) 4 (!fwd)
  let past := match (vget s.fbp n).setAt with | some e => decide (stamp ≤ e) | none => false
  let s1 := if past then s0 else s0.moveCounter n (if fwd then 1 else -1) stamp
  let e : EdgeRec := ⟨stamp, fwd, s.fbCount n, s1.fbCount n⟩
  let s2 := s1.setFbp n (fun p => { p with edges := (e :: p.edges).take 257 })
  s2.hopNode 5 n (s2.rg (R.FBP.COUNT n)) stamp

/-- The state after `st` in the forward order of the counting table (R92), quadrature. -/
def quadNext (st : Nat) : Nat := match st with | 0 => 2 | 2 => 3 | 3 => 1 | _ => 0
/-- The Hall state after `st` in the forward order (R92); 0 for an illegal state. -/
def hallNext (st : Nat) : Nat := match st with | 1 => 3 | 3 => 2 | 2 => 6 | 6 => 4 | 4 => 5 | 5 => 1 | _ => 0

/-- An index (R94), with a homing set that was armed (R95). -/
def State.indexEdge (s : State) (n : Nat) (stamp : Time) : State :=
  let c := s.fbCount n
  let s1 := (((s.setRg64 (R.FBP.INDEX_STAMP n) stamp).setRg64 (R.FBP.INDEX_POS n) (ux 64 c)).irq (R.FBP.base n) 2).post
    n 0x01 stamp (ux 48 c)
  if s.bit (R.FBP.STAT n) 11 then
    (((s1.setCounter n (s.sgn64 (R.FBP.POS_SET_VAL n)) stamp).setValid n).putBit (R.FBP.STAT n) 11 false).post n 0x06 stamp 1
  else s1

/-- Whether `PG_ERRINJ.BLOCK[16]` turns this counting edge into an illegal one; it clears when used (R117). -/
def State.injIllegal (s : State) (n : Nat) : Bool := s.bit (R.PG_ERRINJ (R.FBP.base n)) 16

/-- An accepted A or B edge (R91, R92). `prevPol` is the polarity of the previous accepted edge of the line. -/
def State.quadEdge (s : State) (n line : Nat) (stamp : Time) (prevPol : Option Bool) (pol : Bool) : State :=
  let p := vget s.fbp n
  let close := match (vget p.lines (1 - line)).accStamp with
    | none => false
    | some o => decide (stamp < o + 16) && decide (o < stamp + 16)
  if s.injIllegal n then (s.putBit (R.PG_ERRINJ (R.FBP.base n)) 16 false).illegal n stamp
  else if close || prevPol == some pol then s.illegal n stamp
  else
    let isA := (line = 0) != s.bit (R.FBP.CTRL n) 14
    let new := if isA then b2n pol * 2 + p.dec % 2 else p.dec / 2 * 2 + b2n pol
    let s1 := s.setFbp n (fun p => { p with dec := new })
    if new = p.dec then s1
    else s1.countEdge n (quadNext p.dec = new) stamp

/-- An accepted Hall edge (R91, R92, R115). -/
def State.hallLine (s : State) (n line : Nat) (stamp : Time) (pol : Bool) : State :=
  let p := vget s.fbp n
  let new := p.dec - bitsN p.dec line line * 2 ^ line + b2n pol * 2 ^ line
  if s.injIllegal n then (s.putBit (R.PG_ERRINJ (R.FBP.base n)) 16 false).illegal n stamp
  else if new = p.dec then s
  else if new ≠ 0 ∧ new ≠ 7 ∧ (hallNext p.dec = new ∨ hallNext new = p.dec) then
    let s1 := (s.setFbp n (fun p => { p with dec := new })).post n 0x07 stamp (new + p.dec * 8)
    ((s1.countEdge n (hallNext p.dec = new) stamp)).hallEdge n new stamp
  else s.illegal n stamp

/-- The direction level at an instant: that of the newest direction edge at or before it, or the level
before the oldest edge known. -/
def dirLevelAt (es : List (Time × Bool)) (now : Bool) (t : Int) : Bool :=
  match es with
  | [] => now
  | (st, l) :: r => if (st : Int) ≤ t then l else dirLevelAt r (!l) t

/-- The direction edges that a step can still look back to, with the one before them: DIR_SETUP is at most 65,535 ns (R93). -/
def dirKeep (es : List (Time × Bool)) (now : Time) : List (Time × Bool) :=
  let old (d : Time × Bool) : Bool := decide (d.1 + ns 65535 ≤ now)
  es.takeWhile (fun d => !old d) ++ (es.dropWhile (fun d => !old d)).take 1

/-- An accepted step or direction edge (R93); the interval in a DIR_SETUP payload is in whole nanoseconds, rounded down, and
runs from the newest direction edge (assumption log 181). -/
def State.stepLine (s : State) (n line : Nat) (stamp : Time) (pol : Bool) : State :=
  if line = 1 then
    s.setFbp n (fun p => { p with dirEdges := dirKeep ((stamp, pol) :: p.dirEdges) stamp })
  else
    let e := s.fld (R.FBP.STEP_CFG n) 1 0
    let counts := if e = 1 then !pol else if e = 2 then true else pol
    if !counts then s else
    if s.injIllegal n then (s.putBit (R.PG_ERRINJ (R.FBP.base n)) 16 false).illegal n stamp else
    let p := vget s.fbp n
    let ref : Int := (stamp : Int) - ns (s.fld (R.FBP.STEP_CFG n) 31 16)
    let fwd := dirLevelAt p.dirEdges (s.lineLevel n 1) ref
    let s1 := match p.dirEdges.find? (fun d => decide (ref < (d.1 : Int)) && decide (d.1 ≤ stamp)) with
      | some d => (s.post n 0x08 stamp (min 0xFFFF ((stamp - d.1) / 16))).irq (R.FBP.base n) 0x40
      | none => s
    s1.countEdge n fwd stamp

/-- An edge is accepted on a line with a stamp and a polarity (R88, R89): the line's record, then the
decoder of the mode. -/
def State.acceptEdge (s : State) (n line : Nat) (stamp : Time) (pol : Bool) : State :=
  let l := vget (vget s.fbp n).lines line
  let prevPol := l.accStamp.map (fun _ => l.accLevel)
  let s1 := s.setFbp n (fun p => { p with lines := vupd p.lines line (fun l =>
    { l with accStamp := some stamp, accLevel := pol, rejStamped := false, rejPlain := false }), stall := [] })
  match s.fbMode n with
  | 0 =>
    if line = 2 then
      let want := !s.bit (R.FBP.CTRL n) 15
      let gate := !s.bit (R.FBP.CTRL n) 16 || s1.decNow n == 3
      if pol = want ∧ gate then s1.indexEdge n stamp else s1
    else s1.quadEdge n line stamp prevPol pol
  | 1 => s1.hallLine n line stamp pol
  | 2 => s1.stepLine n line stamp pol
  | _ => s1

/-- The lines a mode qualifies (R86): A, B, Z; U, V, W; step and direction; the SENT line. -/
def lineUsed (mode line : Nat) : Bool :=
  match mode with
  | 0 | 1 => true
  | 2 => line < 2
  | 5 => line == 0
  | _ => false

/-- `EDGE.MIN_INT` in fine ticks, 0 treated as 1 ns (R88). -/
def State.minInt (s : State) (n : Nat) : Time := ns (nz (s.fld (R.FBP.EDGE n) 15 0))

/-- An edge at a pin: the line's level after INV, and qualification (R88, R92). -/
def State.feedbackEdge (s : State) (n line : Nat) (stamp : Time) (raw stamped : Bool) : State :=
  let lvl := raw != s.bit (R.FBP.CTRL n) (10 + line)
  let s1 := s.setFbp n (fun p => { p with lines := vupd p.lines line (fun l => { l with raw := raw }) })
  if !s.en (R.FBP.base n) || !lineUsed (s.fbMode n) line then s1
  else if !stamped then s1.rejectEdge n line stamp false
  else match (vget (vget s.fbp n).lines line).accStamp with
    | some a => if stamp < a + s.minInt n then s1.rejectEdge n line stamp true else s1.acceptEdge n line stamp lvl
    | none => s1.acceptEdge n line stamp lvl

/-- MIN_INT has passed on a line (R89). -/
def State.minIntExpiry (s : State) (n line : Nat) : State :=
  let l := vget (vget s.fbp n).lines line
  match l.accStamp with
  | none => s
  | some a =>
    let due := a + s.minInt n
    let lvl := s.lineLevel n line
    if !s.en (R.FBP.base n) ∨ s.now < due ∨ ¬(l.rejStamped ∨ l.rejPlain) then s
    else
      let clr := s.setFbp n (fun p => { p with lines := vupd p.lines line (fun l =>
        { l with rejStamped := false, rejPlain := false }) })
      if lvl = l.accLevel then clr
      else if l.rejStamped ∨ s.fbMode n = 2 ∨ s.fbMode n = 5 then clr.acceptEdge n line due lvl
      else clr.illegal n due

/-! ### Velocity and position at an instant (R100, R101, R110) -/

/-- The length of the velocity window behind the newest edge `e` (R100). -/
def windowLen (e : EdgeRec) (winEdges : Nat) (winTime : Time) : List EdgeRec → Nat → Nat
  | [], n => n
  | f :: r, n =>
    if n < winEdges ∧ f.fwd = e.fwd ∧ e.stamp - f.stamp ≤ winTime then windowLen e winEdges winTime r (n + 1) else n

/-- `VEL_CFG.ALIGN` as a number of edges. -/
def alignOf (v : Nat) : Nat := match v with | 0 => 1 | 1 => 2 | 2 => 4 | _ => 6

/-- The velocity of an incremental port at `t` before rounding, and whether zero speed has expired (R100). -/
def State.edgeRate (s : State) (n : Nat) (t : Time) : Rate × Bool :=
  match (vget s.fbp n).edges.filter (fun e => e.stamp ≤ t) with
  | [] => (⟨0, 1⟩, true)
  | e :: rest =>
    if ns (s.rg (R.FBP.ZERO_TO n)).toNat < t - e.stamp then (⟨0, 1⟩, true) else
    let c := s.rg (R.FBP.VEL_CFG n)
    let n0 := windowLen e (nz (wfld c 8 0)) (ns (s.rg (R.FBP.WIN_TIME n)).toNat) rest 0
    let al := alignOf (wfld c 10 9)
    let k := if al ≤ n0 then n0 - n0 % al else n0
    let dir : Int := if e.fwd then 1 else -1
    if k = 0 then (⟨0, 1⟩, false) else
    let span := e.stamp - ((e :: rest).getD k e).stamp
    let el := t - e.stamp
    if 0 < el ∧ span < k * el then (⟨dir, el⟩, false) else (⟨dir * k, span⟩, false)

/-- The counter including every accepted edge stamped at or before `t` (R101). -/
def State.countAt (s : State) (n : Nat) (t : Time) : Int :=
  match ((vget s.fbp n).edges.filter (fun e => t < e.stamp)).getLast? with
  | some e => e.before
  | none => s.fbCount n

/-- Position of an incremental port at `t` in Q48.16 (R101). -/
def State.edgePos (s : State) (n : Nat) (t : Time) : Int :=
  let c := s.countAt n t
  let v := s.edgeRate n t
  match (vget s.fbp n).edges.find? (fun e => e.stamp ≤ t) with
  | some e =>
    if v.2 ∨ 0 < s.fbOvr n then clampI (s.fbLo n) (s.fbHi n) c * 65536
    else
      let num := v.1.num * ((t - e.stamp : Nat) : Int)
      let half : Int := v.1.den
      let f := clampI (-half) half (2 * num)
      clampI (s.fbLo n * 65536) (s.fbHi n * 65536) (c * 65536 + roundHalfEven (f * 65536) (2 * v.1.den))
  | none => clampI (s.fbLo n) (s.fbHi n) c * 65536

/-- The oldest sample of the serial velocity window behind the newest (R110). -/
def serialBack (e : SerSample) (winTime : Time) : Nat → List SerSample → Option SerSample
  | 0, _ => none
  | _ + 1, [] => none
  | k + 1, f :: r =>
    if e.ts - f.ts ≤ winTime then (serialBack e winTime k r).orElse (fun _ => some f) else none

/-- The velocity of a serial port at `t`, before rounding (R110). -/
def State.serialRate (s : State) (n : Nat) (t : Time) : Rate × Bool :=
  match (vget s.fbp n).samples.filter (fun x => x.done ≤ t + ns 20) with
  | [] => (⟨0, 1⟩, true)
  | e :: rest =>
    if e.ts + ns (s.rg (R.FBP.ZERO_TO n)).toNat < (t : Int) ∨ rest.isEmpty then (⟨0, 1⟩, true) else
    match serialBack e (ns (s.rg (R.FBP.WIN_TIME n)).toNat) (min (nz (s.fld (R.FBP.VEL_CFG n) 8 0)) 16) rest with
    | some f => if f.ts < e.ts then (⟨e.pos - f.pos, (e.ts - f.ts).toNat⟩, false) else (⟨0, 1⟩, false)
    | none => (⟨0, 1⟩, false)

/-- Position of a serial port at `t` in Q48.16 (R110). -/
def State.serialPos (s : State) (n : Nat) (t : Time) : Int :=
  match (vget s.fbp n).samples.find? (fun x => x.done ≤ t + ns 20) with
  | none => clampI (s.fbLo n) (s.fbHi n) (s.fbCount n) * 65536
  | some e =>
    let v := (s.serialRate n t).1
    clampI (s.fbLo n * 65536) (s.fbHi n * 65536)
      (e.pos * 65536 + roundHalfEven (v.num * ((t : Int) - e.ts) * 65536) v.den)

/-- What a user of a port gets for instant `t` (R102): position in Q48.16, velocity in Q40.24,
VEL_ZERO and POS_VALID. -/
def State.fbSample (s : State) (n : Nat) (t : Time) : Int × Int × Bool × Bool :=
  let prim := (List.range 64).any (fun a => (vget s.fbSel a).primary == some n)
  if 3 ≤ s.fbMode n then
    let v := s.serialRate n t
    (s.serialPos n t, v.1.q4024, v.2, s.posValid n && prim)
  else
    let v := s.edgeRate n t
    (s.edgePos n t, v.1.q4024, v.2, s.posValid n)

/-- VEL_ZERO of `STAT` follows the latest evaluation of the port (R100, R102, R116). -/
def State.velZero (s : State) (n : Nat) (tk : Time) : State := s.putBit (R.FBP.STAT n) 3 (s.fbSample n tk).2.2.1

/-- Words 6 to 13 and the port bits of word 14 of a frame of an axis, from what its ports give for t_k (R101, R110). -/
def State.portWords (s : State) (a : Nat) (tk : Time) (ws : Vector Word 32) : Vector Word 32 :=
  let put (ws : Vector Word 32) (i k : Nat) (port : Option Nat) : Vector Word 32 :=
    match port with
    | none => ws
    | some n =>
      let x := s.fbSample n tk
      let w64 (ws : Vector Word 32) (j : Nat) (v : Int) : Vector Word 32 :=
        vupd (vupd ws j (fun _ => BitVec.ofNat 32 (ux 64 v))) (j + 1) (fun _ => BitVec.ofNat 32 (ux 64 v >>> 32))
      let f (w : Word) : Word := let w1 := wput w k k (b2n x.2.2.2); if k = 0 then wput w1 2 2 (b2n x.2.2.1) else w1
      vupd (w64 (w64 ws i x.1) (i + 2) x.2.1) 14 f
  let sel := vget s.fbSel a
  put (put ws 6 0 sel.primary) 10 1 sel.secondary
/-- What a port has learned late still enters the frames that are not ready yet and that `ok` takes: a serial word
completed by t_k + 20 ns (R103), or an edge stamped at or before t_k (R102). -/
def State.refreshFrames (s : State) (n : Nat) (ok : Time → Bool) : State :=
  let users := (List.range 64).filter (fun a => (vget s.fbSel a).names n)
  let late := users.flatMap (fun a => (vget s.ax a).lv.toList.flatMap (fun p =>
    (p.frames.filter (fun f => !f.isReady && ok f.tk)).map (fun f => f.tk)))
  users.foldl (fun (s : State) a =>
    { s with ax := vupd s.ax a (fun x => { x with lv := x.lv.map (fun p => { p with frames := p.frames.map (fun f =>
      if !f.isReady && ok f.tk then { f with words := s.portWords a f.tk f.words } else f) }) }) })
    (late.foldl (fun (s : State) tk => s.velZero n tk) s)

/-! ### Serial words (R103 to R110) -/

/-- A failed request: the consecutive count and FEEDBACK_LOST (R111). -/
def State.serFail (s : State) (n : Nat) (stamp : Time) : State :=
  let lim := s.fld (R.FBP.SER_DIAG n) 3 0
  let s1 := (s.setFbp n (fun p => { p with fails := p.fails + 1 })).putBit (R.FBP.STAT n) 12 false
  if (if lim = 0 then 16 else lim) ≤ (vget s1.fbp n).fails then s1.fbFault n 4 0x13 s.now (stamp % 2 ^ 32) else s1

/-- A serial error event: its count, `PG_IRQ[4]` and its event, stamped at the decision (R115, R117). -/
def State.serErr (s : State) (n code reg hi : Nat) (t : Time) : State :=
  ((s.count reg hi (hi - 7) 1).irq (R.FBP.base n) 0x10).post n code s.now (t % 2 ^ 32)

/-- Gray to binary over `w` bits. -/
def grayDecode (w v : Nat) : Nat :=
  ((List.range w).foldl (fun (acc : Nat × Bool) i =>
    let b := xor acc.2 (v.testBit (w - 1 - i))
    (acc.1 * 2 + b2n b, b)) (0, false)).1

/-- A user axis commands at least VCMD_THR (R111). -/
def State.commanded (s : State) (n : Nat) : Bool :=
  (List.range 64).any (fun a => (vget s.fbSel a).names n && s.rg64 (R.FBP.VCMD_THR n) ≤ (s.cmdVel a).natAbs)

/-- The counter loaded with the position of a word, under the limit rules of R96; OVR_SAT clears on a RELOAD alone
(R97, R98, R109). -/
def State.fbLoad (s : State) (n : Nat) (val : Int) (reload : Bool) : State :=
  let c := clampI (s.fbLo n) (s.fbHi n) val
  if s.fbSat n ∧ !reload then (s.setPos n c 0xFFFF true (s.fbSide n)).setValid n
  else
    let s1 := (s.setPos n c 0 false (s.fbSide n)).setValid n
    if val = c then s1 else s1.moveCounter n (val - c) s.now

/-- A valid word of `pw` bits for `ts`, completed at `done`: load or difference, the newest samples, and SER_FROZEN
(R109 to R111). DIR_INV does not act on words (assumption log 180), and RELOAD acts with the load (R98, assumption log
182). -/
def State.acceptWord (s : State) (n pw p : Nat) (ts : Int) (reqStamp : Nat) (done : Time) : State :=
  let st := vget s.fbp n
  let s1 := ((s.setRg64 (R.FBP.SER_STAMP n) (ux 64 ts)).putBit (R.FBP.STAT n) 12 true).setFbp n (fun f => { f with fails := 0 })
  let val : Int := if s.bit (R.FBP.SER_CFG n) 10 then sx pw p else p
  let s2 := match st.prev, st.reload with
    | some q, false => s1.moveCounter n (sx pw ((p + 2 ^ pw - q) % 2 ^ pw)) s.now
    | _, _ =>
      let s0 := s1.fbLoad n val st.reload
      if st.reload then s0.postNow n 0x06 3 else s0
  let run := if !s.commanded n then 0 else if st.prev = some p then st.frozenRun + 1 else 1
  let s3 := s2.setFbp n (fun f => { f with
    prev := some p, reload := false, frozenRun := run,
    samples := (⟨s2.fbPlace n, ts, done⟩ :: (if st.reload then [] else f.samples)).take 17 })
  let fn := s.fld (R.FBP.SER_DIAG n) 15 8
  let s4 := if fn ≠ 0 ∧ max fn 2 ≤ run then s3.fbFault n 5 0x14 s.now (reqStamp % 2 ^ 32) else s3
  s4.refreshFrames n (fun tk => decide (done ≤ tk + ns 20))

/-- The transfer of an SSI or BiSS-C request ends with its data bits and CRC bits, MSB first (R104 to R106). -/
def State.serialWord (s : State) (n : Nat) (data crc : List Bool) : State :=
  match (vget s.fbp n).req with
  | none => s
  | some (tr, tk) =>
    let c := s.rg (R.FBP.SER_CFG n)
    let len := wfld c 5 0
    let zb := wfld c 8 6
    let biss := s.fbMode n = 4
    let raw := ofBitsMsb data % 2 ^ len
    let endT := if biss then s.now
      else tr + ns ((len + 1) * s.fld (R.FBP.SER_CLK n) 13 0 + wfld c 25 16)
    if s.now < endT then s else
    let s0 := (s.setFbp n (fun p => { p with req := none, endPrev := some endT })).setRg64 (R.FBP.SER_RAW n) raw
    let k := s.rg (R.FBP.SER_CRC n)
    let w := wfld k 19 16 + 1
    let got := ofBitsMsb crc % 2 ^ w
    let rx := if wbit k 20 then got ^^^ (2 ^ w - 1) else got
    let inj := s.bit (R.PG_ERRINJ (R.FBP.base n)) 17
    let crcBad := inj || (biss && crcMsb w (wfld k 15 0) 0 (bitsMsb len raw) != rx)
    let s1 := if inj then s0.putBit (R.PG_ERRINJ (R.FBP.base n)) 17 false else s0
    if crcBad then (s1.serErr n 0x09 (R.FBP.SER_ERRCNT n) 7 tr).serFail n tr
    else if biss ∧ 2 ≤ zb ∧ raw / 2 % 2 = 0 then (s1.serErr n 0x0E (R.FBP.SER_ERRCNT2 n) 7 tr).serFail n tr
    else
      let s2 := if biss ∧ 2 ≤ zb ∧ raw % 2 = 0 then
          (s1.count (R.FBP.SER_ERRCNT2 n) 15 8 1).post n 0x0D s.now (tr % 2 ^ 32) else s1
      let pw := len - zb
      let p0 := raw / 2 ^ zb
      let p := if wbit c 9 then grayDecode pw p0 else p0
      let s3 := s2.acceptWord n pw p ((tr : Int) + ns (s.fld (R.FBP.SER_LAT n) 19 0)) tr endT
      if tk + ns 20 < endT then s3.serErr n 0x0B (R.FBP.SER_ERRCNT n) 23 tr else s3

/-- No start bit within SER_TMO, or an SSI data line that is not idle at t_req (R104, R105). -/
def State.serialTimeout (s : State) (n : Nat) : State :=
  match (vget s.fbp n).req with
  | none => s
  | some (tr, _) =>
    let due := if s.fbMode n = 4 then tr + ns (s.fld (R.FBP.SER_TMO n) 19 0) else tr
    if s.now < due then s else
    ((s.setFbp n (fun p => { p with req := none, endPrev := some s.now })).serErr n 0x0A
      (R.FBP.SER_ERRCNT n) 15 tr).serFail n tr

/-- The SAE J2716 CRC nibble of a list of nibbles: polynomial x^4 + x^3 + x^2 + 1, seed 5, with the
added zero nibble of the recommended method (PRESUMED, assumption log 20). -/
def sentCrc4 (legacy : Bool) (nib : List Nat) : Nat :=
  let step (c n : Nat) : Nat := crcMsb 4 0xD 0 (bitsMsb 4 c) ^^^ n
  let r := nib.foldl step 5
  if legacy then r else step r 0

/-- The 6-bit CRC of an enhanced serial message over the 24 bits of frames 7 to 18 (PRESUMED, assumption log 20). -/
def sentCrc6 (bits : List Bool) : Nat :=
  let step (c g : Nat) : Nat := crcMsb 6 0x19 0 (bitsMsb 6 c) ^^^ g
  step ((List.range 4).foldl (fun c i => step c (ofBitsMsb ((bits.drop (6 * i)).take 6))) 0x15) 0

/-- A complete slow-channel message among the newest frames, oldest first: (ID, data, CRC good) (R108). -/
def slowMessage (enh : Bool) (fs : List (Bool × Bool)) (legacy : Bool) : Option (Nat × Nat × Bool) :=
  if enh then
    let l := fs.drop (fs.length - 18)
    let b3 := l.map Prod.fst
    let b2 := l.map Prod.snd
    if l.length = 18 ∧ b3.take 7 = [true, true, true, true, true, true, false] ∧
        b3.getD 12 true = false ∧ b3.getD 17 true = false then
      let d := ofBitsMsb (b2.drop 6)
      let idHi := ofBitsMsb ((b3.drop 8).take 4)
      let idLo := ofBitsMsb ((b3.drop 13).take 4)
      let body := (l.drop 6).flatMap (fun x => [x.2, x.1])
      let ok := sentCrc6 body == ofBitsMsb (b2.take 6)
      if b3.getD 7 false then some (idHi, idLo * 4096 + d, ok) else some (idHi * 16 + idLo, d, ok)
    else none
  else
    let l := fs.drop (fs.length - 16)
    if l.length = 16 ∧ (l.headD (false, false)).1 ∧ (l.drop 1).all (fun x => !x.1) then
      let b := l.map Prod.snd
      let id := ofBitsMsb (b.take 4)
      let d := ofBitsMsb ((b.drop 4).take 8)
      some (id, d, sentCrc4 legacy [id, d / 16, d % 16] == ofBitsMsb (b.drop 12))
    else none

/-- The slow channel takes one status nibble (R108). -/
def State.sentSlow (s : State) (n status : Nat) : State :=
  let md := s.fld (R.FBP.SENT_CFG n) 22 21
  if md ≠ 1 ∧ md ≠ 2 then s else
  let s1 := s.setFbp n (fun p =>
    let l := p.slow ++ [(status.testBit 3, status.testBit 2)]
    { p with slow := l.drop (l.length - 18) })
  match slowMessage (md == 2) (vget s1.fbp n).slow (s.bit (R.FBP.SENT_CFG n) 20) with
  | none => s1
  | some (id, d, true) =>
    let q := (s.fld (R.FBP.SENT_SLOW n) 31 25 + 1) % 128
    let w := d + id * 2 ^ 16 + b2n (md == 2) * 2 ^ 24
    (((s1.setFbp n (fun p => { p with slow := [] })).setRg (R.FBP.SENT_SLOW n) (BitVec.ofNat 32 (w + q * 2 ^ 25))).post
      n 0x0F s.now w).irq (R.FBP.base n) 0x20
  | some (_, _, false) =>
    (s1.setFbp n (fun p => { p with slow := [] })).count (R.FBP.SER_ERRCNT n) 7 0 1

/-- A SENT frame: sync pulse in fine ticks, stamp of its falling edge, status, data and CRC nibbles (R107, R108). The
status nibble serves the slow channel whatever the CRC says (assumption log 184). -/
def State.sentFrame (s : State) (n sync : Nat) (fall : Time) (status : Nat) (data : List Nat) (crc : Nat) : State :=
  if !s.en (R.FBP.base n) || s.fbMode n != 5 then s else
  let c := s.rg (R.FBP.SENT_CFG n)
  let nom := 56 * ns (wfld c 16 0)
  let inTol := decide (3 * nom ≤ 4 * sync) && decide (4 * sync ≤ 5 * nom)
  let steady := match (vget s.fbp n).sync with
    | none => true
    | some q => decide (64 * (max sync q - min sync q) ≤ q)
  let s0 := s.setFbp n (fun p => { p with sync := some sync })
  if !inTol || !steady then s0 else
  let k := wfld c 19 17
  let d := (data.map (· % 16)).take k
  let raw := d.foldl (fun a x => a * 16 + x) 0
  let s1 := (s0.setRg64 (R.FBP.SER_RAW n) raw).sentSlow n status
  if sentCrc4 (wbit c 20) d ≠ crc % 16 then
    (s1.serErr n 0x09 (R.FBP.SER_ERRCNT n) 7 fall).serFail n fall
  else
    (s1.setFbp n (fun p => { p with sentLast := s.now })).acceptWord n (4 * k) raw
      ((fall : Int) - ns (s.fld (R.FBP.SER_LAT n) 19 0)) fall s.now

/-- SER_TMO without a valid SENT frame: one failed request (R108), counted from the enable before
the first frame, with this instant as payload (assumption log 183). -/
def State.sentTimeout (s : State) (n : Nat) : State :=
  let due := (vget s.fbp n).sentLast + ns (s.fld (R.FBP.SER_TMO n) 19 0)
  if s.en (R.FBP.base n) && s.fbMode n == 5 && decide (due ≤ s.now) then
    ((s.setFbp n (fun p => { p with sentLast := due })).serErr n 0x0A (R.FBP.SER_ERRCNT n) 15 due).serFail n due
  else s

/-! ### EDGE_STALL (R571) -/

/-- A sample instant of a user axis, `prev` the one before it: the interval starts, runs on, or is broken (R571). -/
def State.stallSample (s : State) (n a : Nat) (prev tk : Time) : State :=
  let in_ (e : Time) : Bool := decide (prev < e) && decide (e ≤ tk)
  let edge := (vget s.fbp n).edges.any (fun e => in_ e.stamp) || (vget s.fbp n).lines.toList.any (fun l => l.accStamp.any in_)
  let qual := !edge && s.en (R.FBP.base n) && s.rg64 (R.FBP.VCMD_THR n) ≤ (s.cmdVel a).natAbs &&
    (s.rg (R.FBP.ICMD_THR n)).toNat ≤ (s.setpoint a).natAbs
  let upd (l : List (Nat × Time)) : List (Nat × Time) :=
    if qual then (if l.any (fun x => x.1 == a) then l else l ++ [(a, tk)]) else l.filter (fun x => x.1 != a)
  s.setFbp n (fun p => { p with stall := upd p.stall })

/-- A gap in the samples of an axis breaks its intervals (R571). -/
def State.stallGap (s : State) (a : Nat) : State :=
  (List.range 48).foldl (fun s n => s.setFbp n (fun p => { p with stall := p.stall.filter (fun x => x.1 ≠ a) })) s

/-- DIAG_INT has passed under command without an edge: EDGE_STALL, and the interval starts again (R111, R112). -/
def State.edgeStall (s : State) (n a : Nat) : State :=
  match (vget s.fbp n).stall.find? (fun x => x.1 == a) with
  | none => s
  | some (_, st) =>
    let due := st + us (s.fld (R.FBP.DIAG_INT n) 13 0)
    if s.now < due ∨ 3 ≤ s.fbMode n then s else
    (s.setFbp n (fun p => { p with stall := (p.stall.filter (fun x => x.1 ≠ a)) ++ [(a, due)] })).fbFault n 3 0x12 s.now a

/-! ### Commands and configuration (R87, R95, R98) -/

/-- A write of `CTRL`: only while EN = 0 and without a reserved value (R87). -/
def State.writeFbCtrl (s : State) (n v : Nat) : State :=
  if s.en (R.FBP.base n) || 6 ≤ bitsN v 3 0 || bitsN v 18 17 == 3 then s.cfgRefused (R.FBP.base n)
  else s.setRg (R.FBP.CTRL n) (BitVec.ofNat 32 (v % 2 ^ 19))

/-- A write of `SER_CFG`: LEN 8 to 48 and at least one position bit (R87, R106). -/
def State.writeSerCfg (s : State) (m : Master) (n v : Nat) : State :=
  if bitsN v 5 0 < 8 || 48 < bitsN v 5 0 || bitsN v 5 0 ≤ bitsN v 8 6 then s.cfgRefused (R.FBP.base n)
  else s.writeReg m (R.FBP.base n) (R.FBP.SER_CFG n) v

/-- A write of `SENT_CFG`: NIBBLES 1 to 6 and SLOW not reserved (R87). -/
def State.writeSentCfg (s : State) (m : Master) (n v : Nat) : State :=
  if bitsN v 19 17 = 0 || bitsN v 19 17 == 7 || bitsN v 22 21 == 3 then s.cfgRefused (R.FBP.base n)
  else s.writeReg m (R.FBP.base n) (R.FBP.SENT_CFG n) v

/-- The port is enabled: the counter starts at 0 and POS_VALID follows the mode (R87). Edge history, rejected edges,
serial samples and a homing set that was armed are gone, and OVR is 0, but OVR_SAT stands (R97, assumption log 155). -/
def State.fbEnable (s : State) (n : Nat) : State :=
  let inc := s.fbMode n < 3
  let z : FbpSt := {}
  let s1 := s.setFbp n (fun p => { z with
    lines := p.lines.map (fun l => { l with accStamp := none, rejStamped := false, rejPlain := false }),
    sentLast := s.now, glLast := p.glLast, validLog := p.validLog })
  let sat := s.fbSat n
  let s2 := (s1.setPos n 0 (if sat then 0xFFFF else 0) sat (sat && s.fbSide n)).putValid n inc
  (s2.setFbp n (fun q => { q with dec := s.decNow n })).putBit (R.FBP.STAT n) 11 false
/-- The port is disabled: its EDGE_STALL intervals are broken, and the serial clock with its transfer ends (R84, R571,
assumption log 185). -/
def State.fbDisable (s : State) (n : Nat) : State := s.setFbp n (fun p => { p with stall := [], req := none })

/-- A write of `POS_CMD`: one bit, or refused (R95, R98). After a fault in modes 3 to 5, SET does not restore POS_VALID
(R112). -/
def State.posCmd (s : State) (n v : Nat) : State :=
  let b := R.FBP.base n
  let md := s.fbMode n
  let tc := ceilEdge s.now
  match v with
  | 1 =>
    let p := s.fbPlace n
    if !s.fbSat n && (s.posValid n || (vget s.fbp n).lost == .limit) && decide (s.fbLo n ≤ p) && decide (p ≤ s.fbHi n) then
      ((s.setPos n p 0 false (s.fbSide n)).setValid n).post n 0x06 tc 2
    else s.cmdRefused b
  | 2 =>
    let s1 := s.setCounter n (s.sgn64 (R.FBP.POS_SET_VAL n)) tc
    (if 3 ≤ md ∧ (vget s.fbp n).lost = .fault then s1 else s1.setValid n).post n 0x06 tc 0
  | 4 => if md = 0 then s.putBit (R.FBP.STAT n) 11 true else s.cmdRefused b
  | 8 => if md = 0 then s.putBit (R.FBP.STAT n) 11 false else s.cmdRefused b
  | 16 => if 3 ≤ md then s.setFbp n (fun p => { p with reload := true }) else s.cmdRefused b
  | _ => s.cmdRefused b

/-- A W1C write of `FAULT`: POS_VALID is not restored; the port reports clear when no bit is left (R112, R469). -/
def State.fbFaultClear (s : State) (n v : Nat) : State :=
  let w := s.rg (R.FBP.FAULT n)
  let w' := w &&& ~~~(BitVec.ofNat 32 v)
  let s1 := s.setRg (R.FBP.FAULT n) w'
  if w ≠ 0 ∧ w' = 0 then s1.reportClear 0x11 n else s1

/-- A write of `FB_SEL` waits for the first inner sample instant at least 100 ns later (R114). -/
def State.writeFbSel (s : State) (a v : Nat) : State :=
  let w := BitVec.ofNat 32 (v &&& 0x7F7F)
  { s.setRg (R.AXIS.FB_SEL a) w with
    fbSel := vupd s.fbSel a (fun f => { f with pend := f.pend ++ [(w, s.now + ns 100)] }) }

/-- An inner sample instant of an axis puts the latest due FB_SEL into force; the axis leaves the EDGE_STALL watch of a
port that it names no more (R114, R571). -/
def State.applyFbSel (s : State) (a : Nat) (tk : Time) : State :=
  let f := vget s.fbSel a
  match (f.pend.filter (fun x => decide (x.2 ≤ tk))).getLast? with
  | none => s
  | some (w, _) =>
    let g : FbSelSt := { sel := w, pend := f.pend.filter (fun x => decide (tk < x.2)) }
    let s1 := { s with fbSel := vupd s.fbSel a (fun _ => g) }
    (f.primary.toList ++ f.secondary.toList).foldl (fun (s : State) n =>
      if g.names n then s else s.setFbp n (fun p => { p with stall := p.stall.filter (fun x => x.1 != a) })) s1

/-- The writes of an FBP page that have an effect of their own; `none` for the others. -/
def State.fbpHook (s : State) (m : Master) (n off v : Nat) : Option State :=
  if off = 0x40 then some (s.writeFbCtrl n v)
  else if off = 0x54 then some (s.fbFaultClear n v)
  else if off = 0x60 then some (s.writeLimit n false v)
  else if off = 0x68 then some (s.writeLimit n true v)
  else if off = 0x74 then some (s.posCmd n (v % 32))
  else if off = 0x78 then
    some (if in48 v then s.setRg64 (R.FBP.POS_SET_VAL n) v else s.cfgRefused (R.FBP.base n))
  else if off = 0xC0 then some (s.writeSerCfg m n v)
  else if off = 0xD8 then some (s.writeSentCfg m n v)
  else none

/-- The FBP words that follow the port's state: the present levels and the Hall state in `STAT`, and `USERS` (R116). -/
def State.fbpLive (s : State) (n off : Nat) : Option Word :=
  if off = 0x50 then
    some (wput (wput (s.rg (R.FBP.STAT n)) 7 5 (s.fbLevels n)) 10 8 (if s.fbMode n = 1 then (vget s.fbp n).dec else 0))
  else if off = 0x110 then some (BitVec.ofNat 32 (s.fbUsers n))
  else if off = 0x114 then some (BitVec.ofNat 32 (s.fbUsers n >>> 32)) else none

/-! ### The commands -/

/-- GLITCH_GATHERED_POST (R90). -/
def execGlitchGatheredPost (t : Time) (n : Fin 48) (s : State) : Host.Outcome State Fault Refusal :=
  let s := s.tick t
  .next (s.glitchDue n s.now)
/-- FBP_CONFIG_WRITE: a write of `CTRL` (R87). -/
def execFbpConfigWrite (t : Time) (_m : Master) (n : Fin 48) (v : Word) (s : State) : Host.Outcome State Fault Refusal :=
  .next ((s.tick t).onPage (R.FBP.base n) (fun s => s.writeFbCtrl n v.toNat))
/-- PORT_ENABLE: EN goes from 0 to 1 (R87). -/
def execPortEnable (t : Time) (_m : Master) (n : Fin 48) (s : State) : Host.Outcome State Fault Refusal :=
  .next ((s.tick t).onPage (R.FBP.base n) (fun s =>
    if s.en (R.FBP.base n) then s else (s.putBit (R.PG_CTRL (R.FBP.base n)) 0 true).fbEnable n))
/-- RESTORE (R98). -/
def execFbRestore (t : Time) (_m : Master) (n : Fin 48) (s : State) : Host.Outcome State Fault Refusal :=
  .next ((s.tick t).onPage (R.FBP.base n) (fun s => s.posCmd n 1))
/-- SET (R98). -/
def execFbSet (t : Time) (_m : Master) (n : Fin 48) (s : State) : Host.Outcome State Fault Refusal :=
  .next ((s.tick t).onPage (R.FBP.base n) (fun s => s.posCmd n 2))
/-- ZSET_ARM (R95). -/
def execFbZsetArm (t : Time) (_m : Master) (n : Fin 48) (s : State) : Host.Outcome State Fault Refusal :=
  .next ((s.tick t).onPage (R.FBP.base n) (fun s => s.posCmd n 4))
/-- ZSET_DISARM (R95). -/
def execFbZsetDisarm (t : Time) (_m : Master) (n : Fin 48) (s : State) : Host.Outcome State Fault Refusal :=
  .next ((s.tick t).onPage (R.FBP.base n) (fun s => s.posCmd n 8))
/-- RELOAD (R98). -/
def execFbReload (t : Time) (_m : Master) (n : Fin 48) (s : State) : Host.Outcome State Fault Refusal :=
  .next ((s.tick t).onPage (R.FBP.base n) (fun s => s.posCmd n 16))
/-- LIMIT_WRITE: a complete write of LIM_LO or LIM_HI (R99). -/
def execLimitWrite (t : Time) (_m : Master) (n : Fin 48) (hi : Bool) (v : DWord) (s : State) :
    Host.Outcome State Fault Refusal :=
  .next ((s.tick t).onPage (R.FBP.base n) (fun s => s.writeLimit n hi v.toNat))
/-- SERIAL_WORD: the bits the port received, MSB first (R106). -/
def execSerialWord (t : Time) (n : Fin 48) (data crc : List Bool) (s : State) : Host.Outcome State Fault Refusal :=
  .next ((s.tick t).serialWord n data crc)
/-- SERIAL_TIMEOUT (R105). -/
def execSerialTimeout (t : Time) (n : Fin 48) (s : State) : Host.Outcome State Fault Refusal :=
  .next ((s.tick t).serialTimeout n)
/-- SENT_FRAME (R107). -/
def execSentFrame (t : Time) (n : Fin 48) (sync : Nat) (fall : Time) (status : Fin 16) (data : List Nat)
    (crc : Fin 16) (s : State) : Host.Outcome State Fault Refusal :=
  .next ((s.tick t).sentFrame n sync fall status data crc)
/-- SENT_TIMEOUT (R108). -/
def execSentTimeout (t : Time) (n : Fin 48) (s : State) : Host.Outcome State Fault Refusal :=
  .next ((s.tick t).sentTimeout n)
/-- LINE_FAULT: the pairs in the fail-safe band for 500 ns; LVDS pairs used as inputs count (R111). -/
def execLineFault (t : Time) (n : Fin 48) (pairs : Fin 8) (s : State) : Host.Outcome State Fault Refusal :=
  let s := s.tick t
  let inputs := match s.fbMode n with | 0 | 1 => 7 | 2 => 3 | 3 | 4 => 1 | _ => 1
  let bad := pairs.val &&& inputs &&& (7 - s.fld (R.FBP.CTRL n) 6 4)
  .next (if s.en (R.FBP.base n) ∧ bad ≠ 0 then s.fbFault n 2 0x11 s.now bad else s)
/-- EDGE_STALL of a port under the command of an axis (R571). -/
def execEdgeStall (t : Time) (n : Fin 48) (a : Fin 64) (s : State) : Host.Outcome State Fault Refusal :=
  .next ((s.tick t).edgeStall n a)
/-- FBP_FAULT_CLEAR (R112). -/
def execFbpFaultClear (t : Time) (_m : Master) (n : Fin 48) (v : Word) (s : State) : Host.Outcome State Fault Refusal :=
  .next ((s.tick t).onPage (R.FBP.base n) (fun s => s.fbFaultClear n v.toNat))
/-- FB_SEL_WRITE (R114). -/
def execFbSelWrite (t : Time) (_m : Master) (a : Fin 64) (v : Word) (s : State) : Host.Outcome State Fault Refusal :=
  .next ((s.tick t).onPage (R.AXIS.base a) (fun s => s.writeFbSel a v.toNat))

end Sys2Proof.Machine
end

