-- ==== Sys2Proof/Machine/Slot.lean ====
section
/-! DEFINITION. The gate path of a slot: counter, commands, dead time, minimum pulse, interlock, and
the slot's fault level with its reactions (R140 to R153, R160, R164 to R179). -/

namespace Sys2Proof.Machine

/-! ### Access -/

/-- The PWM state of a slot. -/
def State.pw (s : State) (n : Nat) : PwmSt := vget s.pwm n
/-- The state with a slot's PWM state changed. -/
def State.setPw (s : State) (n : Nat) (f : PwmSt → PwmSt) : State := { s with pwm := vupd s.pwm n f }
/-- The protection state of a slot. -/
def State.ps (s : State) (n : Nat) : PspSt := vget s.psp n
/-- The state with a slot's protection state changed. -/
def State.setPs (s : State) (n : Nat) (f : PspSt → PspSt) : State := { s with psp := vupd s.psp n f }
/-- Weir source number of a slot (R137). -/
def slotSrc (n : Nat) : Nat := 0x50 + n
/-- `CTRL.OMODE`. -/
def State.omode (s : State) (n : Nat) : Nat := s.fld (R.PWM.CTRL n) 1 0
/-- Up-down counting. -/
def State.upDown (s : State) (n : Nat) : Bool := !s.bit (R.PWM.CTRL n) 2
/-- `CTRL.UPD`. -/
def State.updMode (s : State) (n : Nat) : Nat := s.fld (R.PWM.CTRL n) 4 3
/-- `CTRL.G67`. -/
def State.g67 (s : State) (n : Nat) : Nat := s.fld (R.PWM.CTRL n) 6 5
/-- The dead-time guard and the interlock act on pairs (R140, R141). -/
def State.paired (s : State) (n : Nat) : Bool := s.omode n < 2 || s.bit (R.PWM.CTRL n) 8
/-- The counter runs. -/
def State.slotRun (s : State) (n : Nat) : Bool := s.bit (R.PWM.STAT n) 0
/-- The running axis that owns a slot (R256). -/
def State.ownerOf (s : State) (n : Nat) : Option Nat :=
  (List.range 64).find? (fun a => s.bit (R.SLUICE.AX_CTRL a) 0 && s.bit (R.SLUICE.AX_CFG a) 14 &&
    s.fld (R.SLUICE.AX_CFG a) 20 15 == n)
/-- The slot of an axis, if it owns one: 48 to 63 act as no slot (R256). -/
def State.slotOf (s : State) (a : Nat) : Option Nat :=
  let v := s.fld (R.SLUICE.AX_CFG a) 20 15
  if s.bit (R.SLUICE.AX_CFG a) 14 && decide (v < 48) then some v else none
/-- The axis whose stepper chopper runs on a slot: the owner with STEP_EN in chopper mode (R324, R326). -/
def State.stepAxis (s : State) (n : Nat) : Option Nat :=
  match s.ownerOf n with
  | some a => if s.bit (R.AXIS.CTRL a) 2 && s.omode n == 1 && s.bit (R.PWM.CTRL n) 7 then some a else none
  | none => none
/-- Sources CMP0_HI, CMP1_HI, CMP0_LO and CMP1_LO are never active while the chopper runs (R326). -/
def State.cmpMuted (s : State) (n k : Nat) : Bool :=
  (k == 2 || k == 3 || k == 6 || k == 7) && (s.stepAxis n).isSome
/-- Half-bridge 3 is in brake-chopper use (R183). -/
def State.chopUse (s : State) (n : Nat) : Bool :=
  s.omode n == 0 && s.g67 n == 0 && s.bit (R.PSP.CHOP_CFG n) 0

/-! ### The counter -/

/-- x at an instant: fine ticks since the last counter zero, constant during a pause
(R148, R149) and from a time-base fault on (R523). -/
def State.xAt (s : State) (n : Nat) (t0 : Time) : Nat :=
  let p := s.pw n
  let t := match s.dev.tbFault with | some f => min t0 f | none => t0
  let free := (((t : Int) - p.zero) % (nz p.per : Int)).toNat
  match p.pause with
  | some (e, x) => if t < e then x else free
  | none => free

/-- The mid-point (R12): P/2 in up-down, floor(P/2) in up-count. -/
def PwmSt.mid (p : PwmSt) : Nat := p.per / 2

/-- The command level at x for the value W (R149). -/
def cmdLevel (upDown : Bool) (m w x : Nat) : Bool :=
  if upDown then
    if x < m then decide (m ≤ x + (w + 1) / 2) else decide (x < m + w / 2)
  else decide (x < w)

/-- The command of half-bridge h, or of output h in independent mode (R140, R149). -/
def State.cmpCmd (s : State) (n h : Nat) : Bool :=
  let p := s.pw n
  cmdLevel (s.upDown n) p.mid (vget p.w h) (s.xAt n s.now)

/-- The command of a half-bridge in the half-bridge modes (R140, R183). -/
def State.hbCmd (s : State) (n h : Nat) : Bool :=
  if s.omode n = 0 then
    if h < 3 then s.cmpCmd n h
    else if s.g67 n = 0 then s.bit (R.PSP.STAT n) 17
    else if s.g67 n = 1 then s.cmpCmd n 3 else false
  else if s.bit (R.PWM.CTRL n) 7 then bitN (s.pw n).chopCmd h
  else s.cmpCmd n h

/-- The number of the PWM period in progress at `t`, counted from the start; a pause belongs to the period it falls in. -/
def State.periodNo (s : State) (n : Nat) (t : Time) : Int :=
  let p := s.pw n
  let u : Int := match p.pause with | some (e, _) => max t e | none => t
  p.zeroNo + (u - p.zero) / (nz p.per : Int)

/-- The mask code of an output: 0 OFF, 1 ON, 2 PWM (R156). -/
def State.maskCode (s : State) (n i : Nat) : Nat := bitsN (s.fld (R.PWM.COMM_STAT n) 31 16) (2 * i + 1) (2 * i)

/-- The own command of an output at the input of the dead-time stage (R157). -/
def State.outCmd (s : State) (n i : Nat) : Bool :=
  let raw := if s.omode n = 2 then s.cmpCmd n i
    else if i % 2 = 0 then s.hbCmd n (i / 2) else !s.hbCmd n (i / 2)
  match s.maskCode n i with
  | 0 => false
  | 1 => true
  | _ => raw

/-! ### What the protection asks of an output -/

/-- The slot level in force. -/
def State.slotLevel (s : State) (n : Nat) : Nat := s.fld (R.PSP.STAT n) 2 0
/-- ASC is possible: `ASC_EN` and 3-phase mode (R169). -/
def State.ascPossible (s : State) (n : Nat) : Bool := s.bit (R.PSP.CTRL n) 0 && s.omode n == 0
/-- The slot acts as at L4 or above: L3 without an owning axis included (R169). -/
def State.acts4 (s : State) (n : Nat) : Bool :=
  decide (4 ≤ s.slotLevel n) || (s.slotLevel n == 3 && (s.ownerOf n).isNone)
/-- ASC is in force with its gates on. -/
def State.ascOn (s : State) (n : Nat) : Bool :=
  s.bit (R.PSP.STAT n) 3 && !s.bit (R.PSP.STAT n) 5 && !s.bit (R.PSP.STAT n) 21
/-- The device output enable (R27, R568), and no time-base fault (R523). -/
def State.outputOn (s : State) : Bool := s.dev.st == .run && s.dev.tbFault.isNone && !s.dev.outsOff
/-- The outputs that cycle-by-cycle sources hold off (R167). -/
def State.cbcMask (s : State) (n : Nat) : Nat := (s.ps n).cbc.toList.foldl (fun m c => m ||| c.hold) 0
/-- The outputs that the slot level governs: G0 to G5, and G6 and G7 unless in brake-chopper use or held off. -/
def State.levelOuts (s : State) (n : Nat) : Nat := if s.omode n = 0 ∧ s.g67 n ≠ 1 then 0x3F else 0xFF

/-- A gate of a slot. -/
def State.gate (s : State) (n i : Nat) : Gate := vget (s.pw n).gates i

/-- What output i is to be, and whether a turn-off is at once (R153): STO gate and output enable (R11,
R178), self-test (R180), brake chopper (R183), slot level and ASC (R169, R174), holds (R167, R172), mask (R157). -/
def State.gateWant (s : State) (n i : Nat) (cmd : Bool) : Bool × Bool :=
  let held := bitN (s.cbcMask n ||| s.fld (R.PSP.STAT n) 15 8) i
  let calm := match (s.ps n).test with
    | some ts => if ts.level < s.slotLevel n ∧ s.acts4 n then none else some (bitN ts.gates i)
    | none => none
  if !s.slotRun n || !s.bit (R.PWM.STAT n) 2 || !(s.pw n).sto || !s.outputOn then (false, true)
  else match calm with
  | some g => (g, true)
  | none =>
    if s.omode n = 0 ∧ 6 ≤ i ∧ s.g67 n ≠ 1 then
      if s.chopUse n && !(i == 7 && s.bit (R.PSP.CHOP_CFG n) 1) && !(s.acts4 n && !s.bit (R.PSP.CHOP_CFG n) 2) && !held then
        (cmd, (s.gate n i).byMask)
      else (false, true)
    else if s.acts4 n then (s.ascOn n && ((i % 2 == 0) == s.bit (R.PSP.STAT n) 4), true)
    else if held then (false, true)
    else (cmd, (s.gate n i).byMask)

/-! ### Dead time, minimum pulse and interlock -/

/-- The state with a gate changed. -/
def State.setGate (s : State) (n i : Nat) (f : Gate → Gate) : State :=
  s.setPw n (fun p => { p with gates := vupd p.gates i f })

/-- A gate turns off at `t`; the interval is kept for the attribution window (R166). -/
def State.gateOff (s : State) (n i : Nat) (t : Time) : State :=
  s.setPw n (fun p =>
    let g := vget p.gates i
    { p with
      gates := vupd p.gates i (fun g => { g with on := false, offAt := t, ext := none })
      hist := (i, g.onAt, t) :: p.hist.filter (fun x => s.now ≤ x.2.2 + us 3) })

/-- `MINP.LEN` in force. -/
def State.minp (s : State) (n : Nat) : Nat := s.fld (R.PWM.MINP n) 15 0

/-- An on-interval whose end comes from a command edge: extended to MINP (R153, step 2). -/
def State.cmdOff (s : State) (n i : Nat) : State :=
  let g := s.gate n i
  match g.ext with
  | some b => if b ≤ s.now then s.gateOff n i b else s
  | none =>
    let b := g.onAt + s.minp n
    if s.now < b then
      let pl := i / 2 + (if s.paired n then i % 2 * 4 else 0) + (if s.omode n = 2 then i * 8 else 0)
      (((s.setGate n i (fun g => { g with ext := some b })).count (R.PWM.MINP_CNT n) 15 0 1).irq (R.PWM.base n) 2).post
        (slotSrc n) 0x03 b pl
    else s.gateOff n i s.now

/-- Turn-off of output i, if it is to go off. -/
def State.stepOff (s : State) (n i : Nat) : State :=
  let g := s.gate n i
  let w := s.gateWant n i g.cmd
  if !g.on then s
  else if w.1 then s.setGate n i (fun g => { g with ext := none })
  else if w.2 then s.gateOff n i s.now
  else s.cmdOff n i

/-- The dead time before output i turns on: DT_R for a high side, DT_F for a low side (R152). -/
def State.deadTime (s : State) (n i : Nat) : Nat :=
  s.fld (if i % 2 = 0 then R.PWM.DT_R n (i / 2) else R.PWM.DT_F n (i / 2)) 17 0

/-- The complement of output i. -/
def compl (i : Nat) : Nat := if i % 2 = 0 then i + 1 else i - 1

/-- The guard of R152 lets output i turn on now. -/
def State.guardOpen (s : State) (n i : Nat) : Bool :=
  !s.paired n ||
    (!(s.gate n (compl i)).on && decide ((s.gate n (compl i)).offAt + s.deadTime n i ≤ s.now) &&
      decide ((s.gate n i).offAt ≤ s.now))

/-- An injected overlap on half-bridge 0 for one TCLK cycle: both off, counted, posted, and SHOOT (R160, R163). -/
def State.overlap (s : State) (n : Nat) : State :=
  let e := s.now + 16
  let s1 := (s.setGate n 0 (fun g => { g with offAt := e })).setGate n 1 (fun g => { g with on := false, offAt := e, ext := none })
  let s2 := ((s1.putBit (R.PG_ERRINJ (R.PWM.base n)) 16 false).count (R.PWM.SHOOT_CNT n) 15 0 1).irq (R.PWM.base n) 1
  ((s2.putBit (R.PSP.ACTIVE n) 18 true).postNow (slotSrc n) 0x02 0).setPs n (fun p => { p with shoot := true, shootEnd := some e })

/-- Turn-on of output i, if it is to go on and the guard is open. -/
def State.stepOn (s : State) (n i : Nat) : State :=
  let g := s.gate n i
  if g.on || !(s.gateWant n i g.cmd).1 || !s.guardOpen n i then s
  else if i = 0 ∧ s.paired n ∧ s.bit (R.PG_ERRINJ (R.PWM.base n)) 16 then s.overlap n
  else s.setGate n i (fun g => { g with on := true, onAt := s.now, ext := none })

/-- Rising command edges release the holds of R167 whose source is inactive and not latched (R168), and those of R172. -/
def State.risingEdges (s : State) (n rising : Nat) : State :=
  let act := s.rg (R.PSP.ACTIVE n) ||| s.rg (R.PSP.LATCHED n)
  let s1 := s.setPs n (fun p => { p with cbc := p.cbc.mapIdx (fun k c =>
    if wbit act k then c else { c with hold := c.hold ^^^ (c.hold &&& rising) }) })
  let h := s1.fld (R.PSP.STAT n) 15 8
  s1.putFld (R.PSP.STAT n) 15 8 (h ^^^ (h &&& rising))

/-- The filtered state of a source, without an injection: filters 0 to 17, SDM_INV (R164). -/
def State.srcOut (s : State) (n k : Nat) : Bool :=
  if k < 18 then (vget (s.pw n).filt k).out && !s.cmpMuted n k
  else k == 19 && (vget s.sdm n).ins.any (fun i => i.inv)

/-- An injected source ends after 1 us, and SHOOT after its TCLK cycle (R164, R186). -/
def State.injectEnd (s : State) (n : Nat) : State :=
  let p := s.ps n
  let ended := p.inject.filter (fun x => decide (x.2 ≤ s.now))
  let s1 := ended.foldl (fun (s : State) x => s.putBit (R.PSP.ACTIVE n) x.1 (s.srcOut n x.1)) s
  let s2 := if ended.isEmpty then s1 else
    s1.setPs n (fun p => { p with inject := p.inject.filter (fun x => decide (s.now < x.2)) })
  match p.shootEnd with
  | some e => if e ≤ s.now then (s2.putBit (R.PSP.ACTIVE n) 18 false).setPs n (fun p => { p with shootEnd := none }) else s2
  | none => s2

/-! ### The commutation mask in force (R156 to R159) -/

/-- A mask is allowed by R156 in the present mode. -/
def State.maskValid (s : State) (n m : Nat) : Bool :=
  (List.range 8).all (fun i => bitsN m (2 * i + 1) (2 * i) ≠ 3) &&
    (!s.paired n || (List.range 4).all (fun h =>
      bitsN m (4 * h + 1) (4 * h) ≠ 1 && !(bitsN m (4 * h + 3) (4 * h + 2) == 1 && bitsN m (4 * h + 1) (4 * h) ≠ 0)))

/-- The mask register takes a mask: an invalid entry acts as all OFF; each change of the applied mask posts COMM
(R156, R159). -/
def State.putMask (s : State) (n m : Nat) (ovr : Bool) (at_ : Time) : State :=
  let m1 := if s.maskValid n m then m else 0
  let s1 := s.putBit (R.PWM.COMM_STAT n) 3 ovr
  if s.fld (R.PWM.COMM_STAT n) 31 16 = m1 then s1
  else (s1.putFld (R.PWM.COMM_STAT n) 31 16 m1).post (slotSrc n) 0x05 at_ ((s.pw n).hallIdx % 8 + b2n ovr * 8 + m1 * 2 ^ 16)

/-- The mask that applies without an override: the table entry, or all PWM (R158, R159). -/
def State.tableMask (s : State) (n : Nat) : Nat :=
  if s.bit (R.PWM.COMM_CFG n) 0 then s.fld (R.PWM.COMM_TAB n ((s.pw n).hallIdx % 8)) 15 0 else 0xAAAA

/-- The mask that the registers select (R158, R159). -/
def State.pickMask (s : State) (n : Nat) (at_ : Time) : State :=
  if s.bit (R.PWM.OVR_MASK n) 16 then s.putMask n (s.fld (R.PWM.OVR_MASK n) 15 0) true at_
  else s.putMask n (s.tableMask n) false at_

/-- The present Hall state of the port of a slot's commutation: 0 for no port, and for a port in another mode (R158). -/
def State.portHall (s : State) (n : Nat) : Nat :=
  let p := s.fld (R.PWM.COMM_CFG n) 6 1
  if p < 48 ∧ s.fld (R.FBP.CTRL p) 3 0 = 1 then (vget s.fbp p).dec else 0

/-- The mask selected by a write applies from its TCLK edge on, with the present Hall state (R158, R159). -/
def State.maskStep (s : State) (n : Nat) : State :=
  match (s.pw n).maskDue with
  | some e =>
    if s.now < e then s else
    let s1 := s.setPw n (fun p => { p with maskDue := none })
    let st := s1.portHall n
    let s2 := if s1.bit (R.PWM.COMM_CFG n) 0 then
      (s1.setPw n (fun p => { p with hallIdx := st })).putFld (R.PWM.COMM_STAT n) 2 0 st else s1
    s2.pickMask n e
  | none => s

/-! ### Brake chopper (R183) -/

/-- The auxiliary input (0 to 15) that a slot assigns as DC-link (4) or second (5) target. -/
def State.auxOf (s : State) (n target : Nat) : Option Nat :=
  let w := (vget s.sdm n).auxSel
  if target = 4 then (if wbit w 4 then some (wfld w 3 0) else none)
  else (if wbit w 12 then some (wfld w 11 8) else none)

/-- The chopper turned off or on. -/
def State.chopSet (s : State) (n : Nat) (on : Bool) : State := s.putBit (R.PSP.STAT n) 17 on

/-- `CHOP_CFG.STALE` as a duration. -/
def State.staleTime (s : State) (n : Nat) : Time := us (nz (s.fld (R.PSP.CHOP_CFG n) 15 8))

/-- The latest completed conversion of the slot's DC-link input, triggered or scan, with its completion instant (R183). -/
def State.chopIn (s : State) (n : Nat) : Option (Int × Time) :=
  match s.auxOf n 4 with
  | some j => (vget (vget s.aux (j / 8)).doneAt (j % 8)).map (fun t => (s.sgn32 (R.AUXADC.AIN_RESULT (j / 8) (j % 8)), t))
  | none => none

/-- The chopper evaluated at a TCLK edge (R183). -/
def State.chopStep (s : State) (n : Nat) : State :=
  let p := s.ps n
  let r := s.chopIn n
  let dcl : Int := match r with | some x => x.1 | none => 0
  let on := s.bit (R.PSP.STAT n) 17
  let on_ := s.sgn32 (R.PSP.CHOP_ON n)
  let off_ := s.sgn32 (R.PSP.CHOP_OFF n)
  let cooling := match p.coolEnd with | some e => decide (s.now < e) | none => false
  let s0 := (s.putBit (R.PSP.STAT n) 18 cooling).setPs n (fun p => if cooling then p else { p with coolEnd := none })
  if !s.chopUse n then s0.chopSet n false
  else
    let held := decide (on_ ≤ off_) || (s.acts4 n && !s.bit (R.PSP.CHOP_CFG n) 2)
    let s1 := if held then s0.chopSet n false else if !on && !cooling && decide (on_ ≤ dcl) && r.isSome then
        (s0.chopSet n true).setPs n (fun p => { p with onSince := s.now }) else s0
    let el := s.now - (s1.ps n).onSince
    let s2 := if s1.bit (R.PSP.STAT n) 17 && decide (dcl ≤ off_) &&
        decide (ns (s.fld (R.PSP.CHOP_CFG n) 31 16) ≤ el) then s1.chopSet n false else s1
    let maxOn := us (s.fld (R.PSP.CHOP_TIME n) 15 0)
    let s3 := if s2.bit (R.PSP.STAT n) 17 && maxOn ≠ 0 && decide (maxOn ≤ el) then
        let s4 := (s2.chopSet n false).setPs n (fun p => { p with
          coolEnd := some (s.now + us (s.fld (R.PSP.CHOP_TIME n) 31 16)) })
        ((s4.putBit (R.PSP.STAT n) 18 true).irq (R.PSP.base n) 0x80).postNow (slotSrc n) 0x1C 0
      else s2
    if (match r with | some x => x.2 | none => 0) + s.staleTime n ≤ s.now then
      let s5 := s3.chopSet n false
      if s.bit (R.PSP.STAT n) 19 then s5
      else ((s5.putBit (R.PSP.STAT n) 19 true).irq (R.PSP.base n) 0x80).postNow (slotSrc n) 0x1D 0
    else s3.putBit (R.PSP.STAT n) 19 false

/-- The side an FLTA assertion is attributed to now: the gates on in the window before it (R166). -/
def State.attribute (s : State) (n : Nat) : Nat :=
  let w := s.fld (R.PSP.CTRL n) 15 8 * ns 10
  let on (i : Nat) : Bool := (s.gate n i).on || (s.pw n).hist.any (fun x => x.1 == i && decide (s.now ≤ x.2.2 + w))
  let lo := on 1 || on 3 || on 5 || on 7
  let hi := on 0 || on 2 || on 4 || on 6
  if lo && !hi then 1 else if hi && !lo then 2 else 0

/-- The gates of a slot evaluated now: the chopper, commands, releases, turn-offs, turn-ons, and `STAT.GATES`. While the
counter stands no output has a command, so no hold ends; a command that is 1 at the start of the counter rises there
(R144, R167, assumption log 191). -/
def State.gateEval (s0 : State) (n : Nat) : State :=
  let s := ((s0.injectEnd n).maskStep n).chopStep n
  let cmds := if s.slotRun n then maskOf 8 (fun i => s.outCmd n i) else 0
  let rising := maskOf 8 (fun i => bitN cmds i && !(s.gate n i).cmd)
  let s1 := (s.risingEdges n rising).setPw n (fun p =>
    { p with gates := p.gates.mapIdx (fun i g =>
        { g with cmd := bitN cmds i, code := s.maskCode n i, byMask := g.code != 2 || s.maskCode n i != 2 }) })
  let s2 := (List.range 8).foldl (fun s i => s.stepOff n i) s1
  let s3 := (List.range 8).foldl (fun s i => s.stepOn n i) s2
  s3.putFld (R.PWM.STAT n) 15 8 (maskOf 8 (fun i => (s3.gate n i).on))

/-! ### The slot level (R169 to R176) -/

/-- `CTRL.RECOV` (R170). -/
def State.recov (s : State) (n : Nat) : Time := ms (nz (s.fld (R.PSP.CTRL n) 23 16))
/-- The highest level that escalation reaches (R170). -/
def State.levelCap (s : State) (n : Nat) : Nat := if s.ascPossible n then 5 else 4
/-- The level of the slot's own latches, escalation included. -/
def State.ownLevel (s : State) (n : Nat) : Nat :=
  (s.ps n).latches.foldl (fun m l => max m l.level) (s.ps n).esc

/-- The axes a slot's reports name: its owning axis (R470). -/
def State.slotScope (s : State) (n : Nat) : Nat := match s.ownerOf n with | some a => 2 ^ a | none => 0

/-- ASC is entered on the side of R174. -/
def State.ascEnter (s : State) (n attr : Nat) : State :=
  let high := if attr = 1 then true else if attr = 2 then false else s.bit (R.PSP.CTRL n) 1
  let s1 := (((s.putBit (R.PSP.STAT n) 3 true).putBit (R.PSP.STAT n) 4 high).putBit (R.PSP.STAT n) 5 false).putBit
    (R.PSP.STAT n) 21 false
  ((s1.setPs n (fun p => { p with byAttr := attr ≠ 0, below := 0, above := 0 })).irq (R.PSP.base n) 8).postNow
    (slotSrc n) 0x13 (b2n high + 2 * b2n (attr ≠ 0))

/-- ASC ends. -/
def State.ascLeave (s : State) (n : Nat) : State :=
  ((s.putBit (R.PSP.STAT n) 3 false).putBit (R.PSP.STAT n) 5 false).putBit (R.PSP.STAT n) 21 false

/-- At L5 ASC follows ASC_EN and the mode: without them the slot acts as at L4, and with them ASC is in force on the side
that its entry to L5 selects (R169, R174). A conflict holds on (R176, assumption log 191). -/
def State.ascSync (s : State) (n : Nat) : State :=
  if s.slotLevel n ≠ 5 ∨ s.ascPossible n = s.bit (R.PSP.STAT n) 3 then s
  else if !s.ascPossible n then (s.putBit (R.PSP.STAT n) 3 false).putBit (R.PSP.STAT n) 5 false
  else if s.bit (R.PSP.STAT n) 21 then s.putBit (R.PSP.STAT n) 3 true
  else s.ascEnter n (s.ps n).l5Attr

/-- The outputs that the present level holds off, those of a brake chopper that it stops among them (R172, R183). -/
def State.heldByLevel (s : State) (n : Nat) : Nat :=
  let chop := if s.chopUse n && !s.bit (R.PSP.CHOP_CFG n) 2 then 0xC0 else 0
  if !s.acts4 n then 0
  else if s.ascOn n then s.levelOuts n &&& (if s.bit (R.PSP.STAT n) 4 then 0xAA else 0x55) ||| chop
  else s.levelOuts n ||| chop

/-- Every change of the slot level, every latching and every ASC entry is reported with the level of the slot's own latches;
clear while the slot is at L0 with nothing latched (R173, assumption log 161). -/
def State.slotReport (s : State) (n : Nat) : State :=
  if s.slotLevel n = 0 ∧ (s.ps n).latches.isEmpty then s.reportClear 0x10 n
  else s.report 0x10 n (s.slotScope n) false (s.ownLevel n)
/-- The report of a change that is no fault of the slot: a level that fell, an ASC that ended, or what a request of the
Brakewheel did (R173, assumption log 161). -/
def State.slotEcho (s : State) (n : Nat) : State :=
  let s1 := s.slotReport n
  { s1 with bw := { s1.bw with inbox := s.bw.inbox ++ (s1.bw.inbox.drop s.bw.inbox.length).map (fun r => { r with echo := true }) } }

/-- ASC has been entered or left since it was `was` (R173). -/
def State.ascReport (s : State) (n : Nat) (was : Bool) : State :=
  if s.bit (R.PSP.STAT n) 3 = was then s else if was then s.slotEcho n else s.slotReport n

/-- The slot level recomputed from the latches, the escalation and `BW_REQ`, with what entering and
leaving a level does (R169, R172 to R174). `attr` attributes the FLTA assertion that causes an entry to L5. -/
def State.applyLevel (s : State) (n attr : Nat) : State :=
  let old := s.slotLevel n
  let held := s.heldByLevel n
  let lvl := max (s.ownLevel n) (max (s.fld (R.PSP.BW_REQ n) 2 0) (s.ps n).bwEsc)
  if lvl = old then s else
  let s1 := s.putFld (R.PSP.STAT n) 2 0 lvl
  let s2 := (s1.putBit (R.PSP.STAT n) 6 (lvl == 2)).putBit (R.PSP.STAT n) 7 (lvl == 3 && (s.ownerOf n).isSome)
  let s3 := s2.setPs n (fun p => { p with
    degAt := if lvl = 2 then some s.now else none
    stopAt := if lvl = 3 then some s.now else none
    l5Attr := if lvl = 5 then attr else p.l5Attr })
  let s4 := if lvl = 5 then (if s3.ascPossible n then s3.ascEnter n attr else s3)
    else if s3.bit (R.PSP.STAT n) 3 then s3.ascLeave n else s3
  if s4.acts4 n then s4
  else s4.putFld (R.PSP.STAT n) 15 8 (s4.fld (R.PSP.STAT n) 15 8 ||| held)

/-- The slot level raised to `l` by a timer or by standstill: the level of the slot's own latches, or where that is lower
the level on the Brakewheel's request (R169, R173). -/
def State.raiseLevel (s : State) (n l : Nat) : State :=
  let own := s.ownLevel n == s.slotLevel n
  ((s.setPs n (fun p => { p with
    esc := if own then max p.esc l else p.esc
    bwEsc := if own then p.bwEsc else max p.bwEsc l
    stepAt := some s.now })).applyLevel n 0).slotReport n

/-- The L2 or the L3 timer has run out at `t` (R169). -/
def State.timerStep (s : State) (n : Nat) (t : Time) : State :=
  match (s.ps n).degAt, (s.ps n).stopAt with
  | some t0, _ => if s.slotLevel n = 2 ∧ t0 + ms (nz (s.fld (R.PSP.DEG_TIME n) 15 0)) ≤ t then s.raiseLevel n 3 else s
  | none, some t0 => if s.slotLevel n = 3 ∧ t0 + ms (nz (s.fld (R.PSP.STOP_TMAX n) 15 0)) ≤ t then s.raiseLevel n 4 else s
  | none, none => s

/-- A source latches at a level: FAULT_LATCH, escalation, the level, and the gates; a timer that runs out in the same TCLK
cycle steps first (R169, R170, R179). -/
def State.latchSrc (s0 : State) (n k lvl : Nat) : State :=
  if s0.bit (R.PSP.LATCHED n) k then s0 else
  let s := s0.timerStep n (floorEdge s0.now + 15)
  let stepped := match (s.ps n).stepAt with | some t => floorEdge t == floorEdge s.now | none => false
  let attr := if k = 0 ∧ s.bit (R.PSP.SRC_CFG n 0) 5 then (s.ps n).attr else 0
  let s1 := (s.putBit (R.PSP.LATCHED n) k true).postNow (slotSrc n) 0x11 (k + lvl * 2 ^ 5 + attr * 2 ^ 8)
  let rec_ : LatchRec := ⟨k, lvl, s.now⟩
  let second := match (s.ps n).recent with
    | some (r, _) => decide (r.src ≠ k) && decide (s.now ≤ r.at_ + s.recov n)
    | none => false
  let up := match (s.ps n).recent with
    | some (r, was) => max (if was then s.ownLevel n else max r.level lvl) (if stepped then s.slotLevel n else 0) + 1
    | none => 0
  let s2 := s1.setPs n (fun p => { p with
    latches := p.latches ++ [rec_], recent := some (rec_, second)
    esc := if second then max p.esc (min (s.levelCap n) (max up lvl)) else p.esc })
  let s3 := if second then
      (s2.irq (R.PSP.base n) 4).postNow (slotSrc n) 0x12
        (s2.ownLevel n + (match (s.ps n).recent with | some (r, _) => r.src | none => 0) * 2 ^ 3 + k * 2 ^ 8)
    else s2
  let s4 := s3.applyLevel n attr
  ((if 1 ≤ s4.slotLevel n then s4.irq (R.PSP.base n) 1 else s4).slotReport n).gateEval n

/-- The level of SHOOT: 4 or 5, and 4 while the page is disabled (R164, R165). -/
def State.shootLevel (s : State) (n : Nat) : Nat :=
  if s.en (R.PSP.base n) then s.fld (R.PSP.SRC_CFG n 18) 4 2 else 4

/-- The gates evaluated, and an interlock case latched as source SHOOT (R160, R164). -/
def State.slotEval (s : State) (n : Nat) : State :=
  let s1 := s.gateEval n
  if (s1.ps n).shoot then
    (s1.setPs n (fun p => { p with shoot := false })).latchSrc n 18 (s1.shootLevel n)
  else s1

/-- Every slot evaluated. -/
def State.slotEvalAll (s : State) : State := (List.range 48).foldl (fun s n => s.slotEval n) s

end Sys2Proof.Machine
end

