-- ==== Sys2Proof/Machine/Psp.lean ====
section
/-! DEFINITION. Power-stage protection: sources, cycle-by-cycle and latching reactions, clears,
Brakewheel requests, ASC, self-test and brake chopper (R164 to R186). -/

namespace Sys2Proof.Machine

/-! ### Sources (R164 to R170) -/

/-- The number of the PWM period now in progress; none while the counter stands. -/
def State.periodNow (s : State) (n : Nat) : Option Int := if s.slotRun n then some (s.periodNo n s.now) else none

/-- A cycle-by-cycle trip: hold, count, post once per period, and CBC_LATCH (R167, R168, R175). -/
def State.cbcTrip (s : State) (n k : Nat) : State :=
  let cfg := s.rg (R.PSP.SRC_CFG n k)
  let c := vget (s.ps n).cbc k
  let per := s.periodNow n
  let same := per.isSome && c.period == per
  let next := match per, c.period with
    | some a, some b => decide (a = b + 1)
    | _, _ => false
  let run := if same then c.run else if next then c.run + 1 else 1
  let held := if s.bit (R.PSP.STAT n) 3 then c.hold else c.hold ||| wfld cfg 15 8
  let s1 := ((s.setPs n (fun p => { p with cbc := vupd p.cbc k (fun _ => ⟨held, per, run⟩) })).count
    (R.PSP.CBC_CNT n) 15 0 1).irq (R.PSP.base n) 2
  let s2 := if same then s1 else s1.postNow (slotSrc n) 0x10 (k + wfld cfg 15 8 * 2 ^ 8)
  if !same && wfld cfg 23 16 ≠ 0 && wfld cfg 23 16 ≤ run && !s.bit (R.PSP.LATCHED n) k then
    (s2.postNow (slotSrc n) 0x19 k).latchSrc n k (wfld cfg 4 2)
  else s2.slotEval n

/-- A newly attributed FLTA assertion while ASC is in force (R176). -/
def State.ascFlta (s : State) (n : Nat) : State :=
  let p := s.ps n
  let high := s.bit (R.PSP.STAT n) 4
  if !s.ascOn n || p.attr ≠ (if high then 2 else 1) then s
  else if p.byAttr then
    (((s.putBit (R.PSP.STAT n) 21 true).irq (R.PSP.base n) 8).postNow (slotSrc n) 0x16 0).slotEval n
  else
    ((((s.putBit (R.PSP.STAT n) 4 (!high)).setPs n (fun p => { p with byAttr := true })).irq (R.PSP.base n) 8).postNow
      (slotSrc n) 0x14 (b2n (!high))).slotEval n

/-- A source becomes active after its filter (R165, R167, R169, R176). -/
def State.srcAssert (s : State) (n k : Nat) : State :=
  let cfg := s.rg (R.PSP.SRC_CFG n k)
  if !s.en (R.PSP.base n) || !wbit cfg 0 then s else
  let s1 := if k = 0 ∧ wbit cfg 5 then s.ascFlta n else s
  if wbit cfg 1 then s1.latchSrc n k (wfld cfg 4 2)
  else s1.cbcTrip n k

/-- The filtered state of a source becomes `on`: its `ACTIVE` bit, and its assertion. An injected source stays active. -/
def State.srcSet (s0 : State) (n k : Nat) (level : Bool) : State :=
  let s := s0.injectEnd n
  let on := level && !s.cmpMuted n k
  let was := s.bit (R.PSP.ACTIVE n) k
  let inj := (s.ps n).inject.any (fun x => x.1 == k) && !s.cmpMuted n k
  let s1 := s.putBit (R.PSP.ACTIVE n) k (on || inj)
  if !was && on then s1.srcAssert n k else s1

/-- The chopper of a slot begins or ends to run: sources CMP0 and CMP1 are masked, or follow their filters again (R326). -/
def State.cmpMuteSync (s : State) (n : Nat) : State :=
  [2, 3, 6, 7].foldl (fun (s : State) k => s.srcSet n k (s.srcOut n k)) s

/-- Source 19, SDM_INV, follows the invalid inputs of the slot (R164). -/
def State.sdmInv (s : State) (n : Nat) : State := s.srcSet n 19 (s.srcOut n 19)

/-- The protection page becomes enabled: every active enabled source counts as becoming active (R165). -/
def State.pspEnable (s : State) (n : Nat) : State :=
  (List.range 20).foldl (fun s k => if s.bit (R.PSP.ACTIVE n) k && k != 18 then s.srcAssert n k else s) (s.injectEnd n)

/-- An injection through `PG_ERRINJ` (R186): the named source is active for 1 us. An injected FLTA assertion is attributed
anew, to the gates on before the injection (R166, assumption log 191). -/
def State.pspInject (s0 : State) (n : Nat) : State :=
  let s := s0.injectEnd n
  let e := s.rg (R.PG_ERRINJ (R.PSP.base n))
  let k := wfld e 20 16
  if !wbit e 21 then s else
  let s1 := s.putFld (R.PG_ERRINJ (R.PSP.base n)) 21 16 0
  if k = 18 ∨ 20 ≤ k ∨ s1.cmpMuted n k then s1 else
  let was := s1.bit (R.PSP.ACTIVE n) k
  let s2 := (s1.setPs n (fun p => { p with
    inject := p.inject.filter (fun x => x.1 != k) ++ [(k, s.now + us 1)]
    attr := if k = 0 ∧ !was then s1.attribute n else p.attr })).putBit (R.PSP.ACTIVE n) k true
  if was then s2 else s2.srcAssert n k

/-! ### Level timers, Brakewheel requests, clears (R169, R171 to R173) -/

/-- The level raised to `l` with the gates evaluated (R169). -/
def State.raiseTo (s : State) (n l : Nat) : State := (s.raiseLevel n l).slotEval n

/-- The L2 timer has run out (R169). -/
def State.degradeTimeout (s : State) (n : Nat) : State :=
  if s.slotLevel n = 2 then (s.timerStep n s.now).slotEval n else s

/-- STOP_TMAX has passed at L3 (R169). -/
def State.stopTimeout (s : State) (n : Nat) : State :=
  if s.slotLevel n = 3 then (s.timerStep n s.now).slotEval n else s

/-- Windshaft reports standstill of the owning axis during an L3 stop (R169). -/
def State.slotStandstill (s : State) (n : Nat) : State := if s.slotLevel n = 3 then s.raiseTo n 4 else s

/-- A Brakewheel level reaches the slot (R173). -/
def State.bwRequest (s : State) (n lvl : Nat) : State :=
  let old := s.fld (R.PSP.BW_REQ n) 2 0
  if lvl = old then s else
  let s1 := (s.setRg (R.PSP.BW_REQ n) (BitVec.ofNat 32 lvl)).postNow (slotSrc n) 0x1A lvl
  let s2 := if lvl < old then s1.setPs n (fun p => { p with bwEsc := 0, esc := if p.latches.isEmpty then 0 else p.esc }) else s1
  let s3 := s2.applyLevel n 0
  if s3.slotLevel n = s.slotLevel n then s3.slotEval n
  else ((if 1 ≤ s3.slotLevel n then s3.irq (R.PSP.base n) 1 else s3).slotEcho n).slotEval n

/-- The first request issued to a slot and due now. -/
def State.bwArrive (s : State) (n : Nat) : State :=
  match s.bw.reqs.find? (fun r => r.1 == n && decide (r.2.2 ≤ s.now)) with
  | some r => ({ s with bw := { s.bw with reqs := s.bw.reqs.erase r } }).bwRequest n r.2.1
  | none => s

/-- The escalated level and the timers are discarded: a level that the Brakewheel still requests begins anew, and an ASC
conflict ends (R172, R176, assumption log 158). -/
def State.endLatched (s : State) (n : Nat) : State :=
  let old := s.slotLevel n
  let s1 := (s.setPs n (fun p => { p with esc := 0, bwEsc := 0 })).applyLevel n 0
  if s1.slotLevel n ≠ old then s1 else
  (s1.setPs n (fun p => { p with
    degAt := if old = 2 then some s.now else none
    stopAt := if old = 3 then some s.now else none })).putBit (R.PSP.STAT n) 21 false

/-- Clear bits judged one by one; the last latched source that clears ends the level (R171, R172). -/
def State.clearBits (s0 : State) (n v : Nat) : State :=
  let s := s0.injectEnd n
  let lat := (s.rg (R.PSP.LATCHED n)).toNat
  let act := (s.rg (R.PSP.ACTIVE n)).toNat
  let ok := maskOf 20 (fun k => bitN v k && bitN lat k && !bitN act k)
  let bad := maskOf 20 (fun k => bitN v k && !(bitN lat k && !bitN act k))
  let s1 := if bad = 0 then s else (s.irq (R.PSP.base n) 0x10).postNow (slotSrc n) 0x18 bad
  if ok = 0 then s1 else
  let own := s.ownLevel n
  let left := lat ^^^ ok
  let s2 := (s1.setRg (R.PSP.LATCHED n) (BitVec.ofNat 32 left)).setPs n (fun p => { p with
    latches := p.latches.filter (fun l => !bitN ok l.src)
    esc := if left = 0 then 0 else own
    recent := if left = 0 then p.recent.map (fun r => (r.1, false)) else p.recent })
  if left ≠ 0 then s2
  else (((s2.endLatched n).postNow (slotSrc n) 0x17 ok).slotEcho n).slotEval n

/-- A write to `PSP.CLEAR` (R171). -/
def State.pspClear (s : State) (m : Master) (n v : Nat) : State :=
  if m = .spi ∨ m = .debug then s.putBit (R.PG_STAT (R.PSP.base n)) 16 true
  else if (s.ps n).test.isSome then s.setPs n (fun p => { p with clearPend := p.clearPend ||| v % 2 ^ 20 })
  else s.clearBits n (v % 2 ^ 20)

/-! ### Hand-over of ASC (R177) -/

/-- An inner sample instant of the owning axis: velocity magnitude in Q40.24 and POS_VALID_P (R177). -/
def State.ascSample (s : State) (n vel : Nat) (valid : Bool) : State :=
  let vmin := s.rg64 (R.PSP.ASC_VMIN n)
  if vmin = 0 ∨ !s.bit (R.PSP.STAT n) 3 then s else
  if !valid then s.setPs n (fun p => { p with below := 0, above := 0 }) else
  let low := decide (vel < vmin)
  let s1 := s.setPs n (fun p => { p with below := if low then p.below + 1 else 0, above := if low then 0 else p.above + 1 })
  let dw := nz (s.fld (R.PSP.ASC_DWELL n) 15 0)
  if !s.bit (R.PSP.STAT n) 5 && low && dw ≤ (s1.ps n).below then
    (((s1.putBit (R.PSP.STAT n) 5 true).irq (R.PSP.base n) 8).postNow (slotSrc n) 0x15 1).slotEval n
  else if s.bit (R.PSP.STAT n) 5 && !low && dw ≤ (s1.ps n).above then
    (((s1.putBit (R.PSP.STAT n) 5 false).irq (R.PSP.base n) 8).postNow (slotSrc n) 0x15 0).slotEval n
  else s1

/-! ### Comparator self-test (R180 to R182) -/

/-- At L5 with ASC in force, or every gate off for at least 1 us (R180). -/
def State.testQuiet (s : State) (n : Nat) : Bool :=
  (s.slotLevel n == 5 && s.bit (R.PSP.STAT n) 3) ||
    (List.range 8).all (fun i => !(s.gate n i).on && decide ((s.gate n i).offAt + us 1 ≤ s.now))

/-- The test that `TEST` names is refused (R180; a window comparator that no input is assigned to is
refused too, assumption log 23). -/
def State.testRefused (s : State) (n v : Nat) : Bool :=
  let tg := bitsN v 2 0
  (s.ps n).test.isSome || decide (6 ≤ tg) || (decide (tg < 4) && !s.bit (R.SDM.CMP_CFG n tg) 0) ||
    (decide (4 ≤ tg) && !bitN v 4) || !s.testQuiet n ||
    (decide (4 ≤ tg) && (match s.auxOf n tg with
      | none => true
      | some j => (List.range 48).any (fun k => (s.auxOf k 4 == some j || s.auxOf k 5 == some j) && !s.testQuiet k)))

/-- The limit of a test phase (R181). -/
def State.phaseLimit (s : State) (n : Nat) (tg : Nat) (threshold : Bool) : Time :=
  let ext := s.bit (R.SDM.CLK_CFG n) 8 && !s.bit (R.SDM.IN_CFG n (s.fld (R.SDM.CMP_CFG n tg) 2 1)) 1
  if 4 ≤ tg then ns 400
  else if threshold then 2 * (if ext then (vget s.sdm n).per else ns (vget s.sdm n).div) + ns 200
  else ns (2 * s.fld (R.SDM.IN_CFG n (s.fld (R.SDM.CMP_CFG n tg) 2 1)) 21 16 * 40 + 200)

/-- The flag under test (R181). -/
def State.testFlag (s : State) (n tg : Nat) (lo : Bool) : Bool :=
  if tg < 4 then s.bit (R.SDM.CMP_STAT n) (4 * b2n lo + tg)
  else match s.auxOf n tg with
    | some j => s.bit (R.AUXADC.AIN_WIN_STAT (j / 8) (j % 8)) (b2n lo)
    | none => false

/-- A write to `PSP.TEST` (R180). -/
def State.testStart (s : State) (n v : Nat) : State :=
  if s.testRefused n v then s.putBit (R.PSP.TEST_STAT n) 3 true else
  let tg := bitsN v 2 0
  let held := maskOf 8 (fun i => (s.gate n i).on)
  let ts : TestSt := ⟨tg, bitN v 3, bitN v 4, false, s.now, s.now + s.phaseLimit n tg (bitN v 4), false, none,
    s.testFlag n tg (bitN v 3), held, s.slotLevel n, s.now⟩
  ((s.setPs n (fun p => { p with test := some ts })).setRg (R.PSP.TEST_STAT n)
    (BitVec.ofNat 32 (1 + tg * 2 ^ 4 + b2n (bitN v 3) * 2 ^ 7 + b2n (bitN v 4) * 2 ^ 8))).putBit (R.PSP.STAT n) 16 true

/-- The failing change was impossible for the live value (R181). -/
def State.testImpossible (s : State) (n : Nat) (ts : TestSt) : Bool :=
  if 4 ≤ ts.target then
    let j := (s.auxOf n ts.target).getD 0
    let c := (s.rg (R.AUXADC.AIN_RESULT (j / 8) (j % 8))).toNat / 2 ^ 15
    let h := match s.fld (R.AUXADC.AIN_WIN_CFG (j / 8) (j % 8)) 29 28 with | 0 => 0 | 1 => 8 | 2 => 32 | _ => 128
    match ts.side, ts.clear with
    | false, false => decide (c = 0)
    | false, true => decide ((4095 - h) * 16 ≤ c)
    | true, false => decide (4095 * 16 ≤ c)
    | true, true => decide (c ≤ h * 16)
  else
    let f := s.sgn32 (R.SDM.IN_FAST n (s.fld (R.SDM.CMP_CFG n ts.target) 2 1))
    let hy : Int := (s.rg (R.SDM.CMP_HYST n ts.target)).toNat
    let one : Int := 2 ^ 31
    if !ts.clear then false
    else if ts.threshold then
      (if ts.side then decide (f ≤ -one + hy) else decide (one - 1 - hy ≤ f))
    else
      (if ts.side then decide (one - 1 ≤ s.sgn32 (R.SDM.CMP_LO n ts.target) + hy)
       else decide (s.sgn32 (R.SDM.CMP_HI n ts.target) - hy ≤ -one))

/-! ### Periodic diagnostics (R471) -/

/-- The sources of a slot that R180 tests: `SRC_CFG` k, with the side and target of their comparators: CMP0 to CMP3 high
in sources 2 to 5 and low in 6 to 9, then the window comparators (R164). -/
def diagSources : List (Nat × Nat) :=
  [(2, 0), (3, 1), (4, 2), (5, 3), (6, 8), (7, 9), (8, 10), (9, 11), (10, 4), (11, 12), (12, 5), (13, 13)]
/-- The passes that R471 requires now: the instant of the latest one for each. -/
def State.diagPasses (s : State) : List Time :=
  let slots := (List.range 48).flatMap (fun n =>
    if s.en (R.PSP.base n) then
      (diagSources.filter (fun p => s.bit (R.PSP.SRC_CFG n p.1) 0)).map (fun p => tget s.dev.rel s.bw.passes (n * 16 + p.2))
    else [])
  if s.bit (R.PTP.RED_CTRL 0) 0 then slots ++ [s.bw.drill.getD s.dev.rel] else slots
/-- Hours since the oldest required pass (R471). -/
def State.diagHours (s : State) : Nat :=
  min 0xFFFF (s.diagPasses.foldl (fun (h : Nat) t => max h ((s.now - t) / sec 3600)) 0)
/-- A required pass is overdue (R471, R488). -/
def State.diagOver (s : State) : Bool :=
  s.diagPasses.any (fun t => decide (t + sec (3600 * s.fld R.BRAKE.PROOF_INT 15 0) < s.now))
/-- DIAG_DUE follows the required passes: set and reported, or cleared (R471). -/
def State.diagEval (s : State) : State :=
  let due := s.diagOver
  if due = s.bit R.BRAKE.DIAG_STAT 16 then s
  else
    let s1 := s.putBit R.BRAKE.DIAG_STAT 16 due
    if due then s1.report 0x0C 0 0 true 0 else s1.reportClear 0x0C 0
/-- The result of a finished test is written, counted, posted and reported; waiting clears act (R171, R182). -/
def State.testFinish (s : State) (n : Nat) (ts : TestSt) (result : Nat) : State :=
  let tset := match ts.setAt with | some t => min 0xFFFF (t / 16) | none => 0
  let s1 := (s.setPs n (fun p => { p with test := none })).putBit (R.PSP.STAT n) 16 false
  let s2 := ((s1.putFld (R.PSP.TEST_STAT n) 2 0 (result * 2)).putFld (R.PSP.TEST_STAT n) 31 16 tset)
  let s3 := (s2.irq (R.PSP.base n) 0x40).postNow (slotSrc n) 0x1B
    (ts.target + b2n ts.side * 2 ^ 3 + b2n ts.threshold * 2 ^ 4 + result * 2 ^ 5)
  let key := n * 16 + b2n ts.side * 8 + ts.target
  let s4 := match result with
    | 1 => ({ s3 with bw := { s3.bw with passes := tput s3.bw.passes key (some s.now) } }).diagEval.count (R.PSP.TEST_CNT n) 15 0 1
    | 2 => ((s3.count (R.PSP.TEST_CNT n) 31 16 1).irq (R.PSP.base n) 0x20).report 0x0D n (s.slotScope n) false 0
    | _ => s3
  let pend := (s4.ps n).clearPend
  let s5 := s4.setPs n (fun p => { p with clearPend := 0 })
  (if pend = 0 then s5 else s5.clearBits n pend).slotEval n

/-! ### Brake chopper (R183) -/

/-- `CHOP_INACTIVE` follows the configuration. -/
def State.chopInactive (s : State) (n : Nat) : State := s.putBit (R.PSP.STAT n) 20 (!s.chopUse n)

/-! ### Writes of the PSP page -/

/-- A write of `SRC[k].CFG` (R165): refused while the source is latched, or with a reserved level. -/
def State.writeSrcCfg (s : State) (m : Master) (n k v : Nat) : State :=
  let v1 := if k = 0 then v else v ^^^ (v &&& 0x20)
  let v2 := if k = 18 then v1 ||| 3 else v1
  let lvl := bitsN v 4 2
  if s.lockOk (R.PSP.base n) m && (s.bit (R.PSP.LATCHED n) k || decide (6 ≤ lvl) || (k == 18 && decide (lvl < 4))) then
    s.putBit (R.PG_STAT (R.PSP.base n)) 16 true
  else s.writeReg m (R.PSP.base n) (R.PSP.SRC_CFG n k) v2

/-- `ACTIVE` as it stands now: injections and SHOOT that have ended are gone (R164, R186). -/
def State.pspLive (s : State) (n off : Nat) : Option Word :=
  if off = 0x4C then some ((s.injectEnd n).rg (R.PSP.ACTIVE n)) else none

/-- The writes of a PSP page that have an effect of their own. -/
def State.pspHook (s : State) (m : Master) (n off v : Nat) : Option State :=
  if off = 0x50 then some (s.pspClear m n v)
  else if off = 0x70 then some (s.testStart n v)
  else if 0x100 ≤ off ∧ off < 0x150 then some ((s.writeSrcCfg m n ((off - 0x100) / 4) v).slotEval n)
  else if off = 0x40 then
    let s1 := (s.writeReg m (R.PSP.base n) (R.PSP.CTRL n) v).ascSync n
    some ((s1.ascReport n (s.bit (R.PSP.STAT n) 3)).slotEval n)
  else if 0x80 ≤ off ∧ off < 0x90 then
    some (((s.writeReg m (R.PSP.base n) (R.PSP.base n + off) v).chopInactive n).slotEval n)
  else none

/-! ### The commands -/

/-- PROTECTION_ENABLE (R165). -/
def execProtectionEnable (t : Time) (_m : Master) (n : Fin 48) (s : State) : Host.Outcome State Fault Refusal :=
  .next ((s.tick t).onPage (R.PSP.base n) (fun s =>
    if s.en (R.PSP.base n) then s else (s.putBit (R.PG_CTRL (R.PSP.base n)) 0 true).pspEnable n))
/-- DEGRADE_TIMEOUT (R169). -/
def execDegradeTimeout (t : Time) (n : Fin 48) (s : State) : Host.Outcome State Fault Refusal :=
  .next ((s.tick t).degradeTimeout n)
/-- STOP_TIMEOUT (R169). -/
def execStopTimeout (t : Time) (n : Fin 48) (s : State) : Host.Outcome State Fault Refusal :=
  .next ((s.tick t).stopTimeout n)
/-- PROTECTION_CLEAR (R171). -/
def execProtectionClear (t : Time) (m : Master) (n : Fin 48) (v : Word) (s : State) : Host.Outcome State Fault Refusal :=
  .next ((s.tick t).onPage (R.PSP.base n) (fun s => s.pspClear m n v.toNat))
/-- BW_REQUEST: the earliest issued level of the slot that is due arrives (R173). -/
def execBwRequest (t : Time) (n : Fin 48) (s : State) : Host.Outcome State Fault Refusal :=
  .next ((s.tick t).bwArrive n)
/-- The gates that the Brakewheel issued 20 ns ago or earlier reach the slot, in order (R25). -/
def State.gateArrive (s : State) (n : Nat) : State :=
  let due := s.bw.gateReqs.filter (fun r => r.1 == n && decide (r.2.2 ≤ s.now))
  let s1 := due.foldl (fun (s : State) r => s.setPw n (fun p => { p with sto := r.2.1 })) s
  { s1 with bw := { s1.bw with gateReqs := s1.bw.gateReqs.filter (fun r => !(r.1 == n && decide (r.2.2 ≤ s.now))) } }
/-- SLOT_STO_GATE: a gate the Brakewheel issued reaches the slot, and the output enable is looked at (R25, R178). -/
def execSlotStoGate (t : Time) (n : Fin 48) (s : State) : Host.Outcome State Fault Refusal :=
  .next (((s.tick t).gateArrive n).slotEval n)
/-- SELF_TEST_START (R180). -/
def execSelfTestStart (t : Time) (_m : Master) (n : Fin 48) (v : Word) (s : State) : Host.Outcome State Fault Refusal :=
  .next ((s.tick t).onPage (R.PSP.base n) (fun s => s.testStart n v.toNat))
/-- CHOP_LIMIT (R183). -/
def execChopLimit (t : Time) (n : Fin 48) (s : State) : Host.Outcome State Fault Refusal := .next ((s.tick t).slotEval n)
/-- CHOP_COOL_END (R183). -/
def execChopCoolEnd (t : Time) (n : Fin 48) (s : State) : Host.Outcome State Fault Refusal := .next ((s.tick t).slotEval n)
/-- CHOP_STALE (R183). -/
def execChopStale (t : Time) (n : Fin 48) (s : State) : Host.Outcome State Fault Refusal := .next ((s.tick t).slotEval n)
/-- CHOP_MIN_ON_END (R183). -/
def execChopMinOnEnd (t : Time) (n : Fin 48) (s : State) : Host.Outcome State Fault Refusal := .next ((s.tick t).slotEval n)

end Sys2Proof.Machine
end

