-- ==== Sys2Proof/Machine/Pwm.lean ====
section
/-! DEFINITION. The PWM generator: start and stop, period changes and re-anchoring, effective compare
values, trip filters, commutation mask and override (R140 to R163). -/

namespace Sys2Proof.Machine

/-! ### Periods (R143) -/

/-- The half-bridges in use by OMODE, G67 and IND_PAIR (R143). -/
def State.hbInUse (s : State) (n h : Nat) : Bool :=
  match s.omode n with
  | 0 => decide (h < 3) || (h == 3 && s.g67 n == 1)
  | 1 => decide (h < 4)
  | _ => s.bit (R.PWM.CTRL n) 8 && decide (h < 4)

/-- DT_R and DT_F of a half-bridge as the bound of R143 takes them: 0 where no guard acts. -/
def State.dtSum (s : State) (n h : Nat) : Nat :=
  if s.paired n then s.deadTime n (2 * h) + s.deadTime n (2 * h + 1) else 0

/-- The period that takes effect from `PERIOD`, and whether it was raised (R143). -/
def State.periodUsed (s : State) (n : Nat) : Nat × Bool :=
  let v := (s.rg (R.PWM.PERIOD n)).toNat
  let v0 := if s.upDown n then v - v % 2 else v
  let bound := (List.range 4).foldl (fun b h =>
    if s.hbInUse n h then max b (2 * s.minp n + s.dtSum n h) else b)
    (if s.omode n = 2 then 2 * s.minp n else 0)
  let v1 := max (max v0 32000) bound
  let v2 := if s.upDown n then v1 + v1 % 2 else v1
  (v2, v2 ≠ v0)

/-! ### Effective compare values (R153, step 1) -/

/-- Step 1 of R153 in the half-bridge form: W, P, MINP, the dead times and HOLD_MIN. -/
def effHb (w p minp dr df : Nat) (hold : Bool) : Nat :=
  let w := min w p
  if 0 < w ∧ w < minp + dr then (if hold then minp + dr else 0)
  else if w < p ∧ p < minp + df + w then (if hold then p - minp - df else p)
  else w

/-- Step 1 of R153 for an independent output: D is the delay of its own turn-on. -/
def effInd (w p minp d : Nat) (hold : Bool) : Nat :=
  let w := min w p
  if 0 < w ∧ w < minp + d then (if hold then minp + d else 0)
  else if w < p ∧ p < minp + w then (if hold then p - minp else p)
  else w

/-- The effective value of `CMP[h]` (R153). -/
def State.effCmp (s : State) (n h : Nat) : Nat :=
  let w := (s.rg (R.PWM.CMP n h)).toNat
  let p := (s.pw n).per
  let hold := s.bit (R.PWM.MINP n) 16
  if s.omode n = 1 ∧ s.bit (R.PWM.CTRL n) 7 then min w p
  else if s.omode n = 2 then effInd w p (s.minp n) (if s.paired n then s.deadTime n h else 0) hold
  else effHb w p (s.minp n) (s.deadTime n (2 * h)) (s.deadTime n (2 * h + 1)) hold

/-- The compare values that a mode uses. -/
def State.cmpUsed (s : State) (n h : Nat) : Bool :=
  match s.omode n with
  | 0 => decide (h < 3) || (h == 3 && s.g67 n == 1)
  | 1 => decide (h < 4) && !s.bit (R.PWM.CTRL n) 7
  | _ => decide (h < 8)

/-- Step 1 applied to `CMP[h]`, with ADJ counted when it changes the value. -/
def State.applyCmp (s : State) (n h : Nat) : State :=
  let e := s.effCmp n h
  let s1 := s.setPw n (fun p => { p with w := vupd p.w h (fun _ => e) })
  if s.cmpUsed n h && e ≠ min (s.rg (R.PWM.CMP n h)).toNat (s.pw n).per then s1.count (R.PWM.MINP_CNT n) 31 16 1 else s1

/-! ### Start, stop, commit (R144 to R148) -/

/-- The first instant of the zero grid at or after `t`: ANCHOR + PHASE mod P + m·P (R144). -/
def State.gridFrom (s : State) (n : Nat) (per : Nat) (t : Int) : Int :=
  let g : Int := s.rg64 (R.PWM.ANCHOR n) + (s.rg (R.PWM.PHASE n)).toNat % nz per
  t + (g - t) % (nz per : Int)

/-- The update instant after `t` of a running slot (R12, R567). -/
def State.nextUpd (s : State) (n : Nat) (t : Time) : Time :=
  let p := s.pw n
  let after (z : Int) : Int := (t : Int) + p.per - ((t : Int) - z) % (nz p.per : Int)
  let z := after p.zero
  let m := after (p.zero + p.mid)
  (match s.updMode n with
  | 0 => z
  | 1 => m
  | _ => min z m).toNat

/-- The modulator clock takes a new DIV and anchor at `at_`; the grid it leaves is kept for the bits already clocked, for
longer than any window lasts (R119, R122). -/
def SdmSt.regrid (d : SdmSt) (div : Nat) (anchor at_ : Time) : SdmSt :=
  { d with
    div := div, anchor := anchor, changed := some at_
    grids := d.grids.filter (fun g => decide (at_ ≤ g.1 + ns 1000000)) ++ [(at_, d.div, d.anchor)] }

/-- A change of the modulator clock's anchor to `ZERO_REF` (R119, R148). -/
def State.mclkAnchor (s : State) (n : Nat) (at_ : Time) : State :=
  { s with sdm := vupd s.sdm n (fun d => d.regrid d.div (s.rg64 (R.PWM.ZERO_REF n)) at_) }

/-- A raised period posts PERIOD_CLAMP with the period used (R143). -/
def State.periodClamp (s : State) (n : Nat) (per : Nat) (at_ : Time) : State :=
  (s.irq (R.PWM.base n) 4).post (slotSrc n) 0x04 at_ per

/-- EN written 1: the start instant G (R144). -/
def State.slotEnable (s : State) (n : Nat) : State :=
  let g := s.gridFrom n (s.periodUsed n).1 ((s.now : Int) + ns 100)
  s.setPw n (fun p => { p with start := some g.toNat })

/-- The counter starts at G; its periods are counted anew for R167 and R168 (R144, R145). -/
def State.slotStart (s : State) (n : Nat) (g : Time) : State :=
  let pu := s.periodUsed n
  let s0 := s.setPs n (fun p => { p with cbc := p.cbc.map (fun c => { c with period := none, run := 0 }) })
  let s1 := s0.setPw n (fun p => { p with start := none, zero := (g : Int), zeroNo := 0, per := pu.1, pause := none })
  let s2 := (s1.setRg64 (R.PWM.ZERO_REF n) g).putFld (R.PWM.STAT n) 3 0 1
  let s3 := (s2.mclkAnchor n g).post (slotSrc n) 0x01 g 0
  let s4 := if pu.2 then s3.periodClamp n pu.1 g else s3
  let s5 := (List.range 8).foldl (fun s h => s.applyCmp n h) s4
  (s5.setPw n (fun p => { p with next := some (s5.nextUpd n g) })).slotEval n

/-- Staged register writes of a page take effect at once (R146). -/
def State.flushStaged (s : State) (pg : Nat) : State :=
  let s1 := (s.page pg).staged.foldl (fun s w =>
    s.setRg (pg + w.off) (BitVec.ofNat 32 (clampFields (clampAt (pg + w.off)) w.val.toNat))) s
  s1.setPage pg (fun p => { p with staged := [] })

/-- The counter stops and every output goes off at the next TCLK edge (R146). -/
def State.slotStop (s : State) (n : Nat) : State :=
  let s0 := (List.range 8).foldl (fun (s : State) i =>
    if (s.gate n i).on then s.gateOff n i (ceilEdge (s.now + 1)) else s) s
  let s1 := (s0.putFld (R.PWM.STAT n) 3 0 0).setPw n (fun p => { p with start := none, next := none, pause := none })
  (s1.flushStaged (R.PWM.base n)).slotEval n

/-- A new period released at t_c, a counter zero or a mid-point (R147). -/
def State.periodChange (s : State) (n : Nat) (tc : Time) (atZero : Bool) : State :=
  let pu := s.periodUsed n
  let z : Int := if atZero then tc else (tc : Int) - (pu.1 / 2 : Nat)
  let no := s.periodNo n tc
  let s1 := s.setPw n (fun p => { p with zero := z, zeroNo := no, per := pu.1 })
  let s2 := s1.setRg64 (R.PWM.ZERO_REF n) (if atZero then tc else (z + pu.1).toNat)
  if pu.2 then s2.periodClamp n pu.1 tc else s2

/-- A new ANCHOR or PHASE released at t_c: the pause Δ (R148). -/
def State.reanchor (s : State) (n : Nat) (tc : Time) (atZero : Bool) : State :=
  let p := s.pw n
  let m : Nat := if atZero then 0 else p.mid
  let d := (s.gridFrom n p.per ((tc : Int) - m) - ((tc : Int) - m)).toNat
  let s1 := s.setPw n (fun p => { p with
    zero := p.zero + d, pause := if d = 0 then none else some (tc + d, m) })
  let s2 := (s1.setRg64 (R.PWM.ZERO_REF n) (if atZero then tc + d else (p.zero + d + p.per).toNat)).putBit
    (R.PWM.STAT n) 3 (d ≠ 0)
  (s2.irq (R.PWM.base n) 0x10).post (slotSrc n) 0x07 tc d

/-- The registers that a re-application of step 1 to `CMP[h]` follows; dead times only where the output has a half-bridge
or a pair (R153). -/
def State.cmpTouched (s : State) (n h : Nat) (rel : List Nat) : Bool :=
  let hb := if s.omode n = 2 then h / 2 else h
  rel.any (fun o => o == 0x60 + 4 * h || o == 0x48 || o == 0x5C ||
    (s.paired n && (o == 0x80 + 8 * hb || o == 0x84 + 8 * hb)))

/-- A DIV that waits takes effect at a commit instant of the slot (R119). One that still waits when the counter stops goes
on waiting for the first commit instant after the next start: the spec names no other instant (DESIGN CHOICE, assumption
log 188). -/
def State.divCommit (s : State) (n : Nat) (tc : Time) : State :=
  let d := s.fld (R.SDM.CLK_CFG n) 7 0
  if d = (vget s.sdm n).div then s
  else { s with sdm := vupd s.sdm n (fun x => x.regrid d x.anchor tc) }

/-- The counter's side of a commit instant: `rel` names the offsets released at it (R145, R147, R148,
R150, R153). The registers hold the released values already. The pause Δ is in `pause`. -/
def State.pwmCommit (s : State) (n : Nat) (tc : Time) (rel : List Nat) : State :=
  let atZero := s.xAt n tc = 0
  let s1 := if rel.contains 0x48 then s.periodChange n tc atZero else s
  let ra := rel.any (fun o => o == 0x50 || o == 0x54 || o == 0x58)
  let s2 := if ra then s1.reanchor n tc atZero else s1
  let s3 := if rel.contains 0x48 || ra then s2.mclkAnchor n tc else s2
  let s4 := (List.range 8).foldl (fun s h => if s.cmpTouched n h rel then s.applyCmp n h else s) s3
  ((s4.putBit (R.PWM.STAT n) 2 true).divCommit n tc).slotEval n

/-- The sample instant that follows the commit instant t_c of a slot: t_c + T, or t_c + Δ + T (R12, R148). -/
def State.nextAfter (s : State) (n : Nat) (tc : Time) : Time :=
  match (s.pw n).pause with
  | some (e, _) => s.nextUpd n (max e tc)
  | none => s.nextUpd n tc

/-- A write of PWM `CTRL` (R146). -/
def State.writePwmCtrl (s : State) (m : Master) (n v : Nat) : State :=
  if s.en (R.PWM.base n) || bitsN v 1 0 == 3 || bitsN v 4 3 == 3 || bitsN v 6 5 == 3 then s.cfgRefused (R.PWM.base n)
  else
    let s1 := (s.writeReg m (R.PWM.base n) (R.PWM.CTRL n) v).chopInactive n
    let s2 := ((s1.pickMask n s1.now).cmpMuteSync n).ascSync n
    (s2.ascReport n (s.bit (R.PSP.STAT n) 3)).slotEval n

/-! ### Trip filters (R154) -/

/-- LEN of the group of filter k. -/
def State.tripLen (s : State) (n k : Nat) : Nat :=
  let w := s.rg (R.PWM.TRIP_LEN n)
  if k < 2 then wfld w 15 8 else if k < 10 then wfld w 23 16 else if k < 14 then wfld w 31 24 else wfld w 7 0

/-- The sample period of a slot's trip filters, PRESC + 1 ns (R154). -/
def State.tripPer (s : State) (n : Nat) : Nat := ns (s.fld (R.PWM.TRIP_CFG n) 7 0 + 1)

/-- The sample at which a raw level held since `t` has held for LEN samples, none of them before the one at which the
settings take effect (assumption log 27). -/
def State.tripDue (s : State) (n k : Nat) (t : Time) : Time :=
  max (s.pw n).tripFrom (t / s.tripPer n * s.tripPer n + s.tripLen n k * s.tripPer n)

/-- The filtered output of filter k takes the raw level. -/
def State.tripOut (s : State) (n k : Nat) : State :=
  let f := vget (s.pw n).filt k
  if f.out = f.raw then s
  else (s.setPw n (fun p => { p with filt := vupd p.filt k (fun f => { f with out := f.raw, left := none }) })).srcSet n k f.raw

/-- A raw level has held for LEN samples (R154). -/
def State.tripExpiry (s : State) (n k : Nat) : State :=
  let f := vget (s.pw n).filt k
  if f.raw ≠ f.out ∧ s.tripDue n k f.since ≤ s.now then s.tripOut n k else s

/-- The filter's record of a raw level that changes at `t`, with `p` the sample period: a return to the output's level that
no sample sees does not break the run (R154). -/
def Filt.change (f : Filt) (level : Bool) (t p : Time) : Filt :=
  if f.raw ≠ f.out then { f with raw := level, left := some (t, f.since) }
  else
    let from_ := match f.left with
      | some (l, was) => if l / nz p = t / nz p then was else t
      | none => t
    { f with raw := level, since := from_, left := none }

/-- A raw source changes level (R154, R166). -/
def State.tripRaw (s0 : State) (n k : Nat) (level : Bool) : State :=
  let s := s0.tripExpiry n k
  if (vget (s.pw n).filt k).raw = level then s else
  let s1 := s.setPw n (fun p => { p with
    filt := vupd p.filt k (fun f => f.change level (max s.now (p.tripFrom - 1)) (s.tripPer n)) })
  let s2 := if k = 0 ∧ level then s1.setPs n (fun p => { p with
      attr := if s.bit (R.PSP.SRC_CFG n 0) 5 then s.attribute n else 0 }) else s1
  if s.tripLen n k = 0 ∧ (s.pw n).tripFrom ≤ s.now then s2.tripOut n k else s2

/-- The raw level of source 14 + j: the pin at its TIN_POL level, if enabled (R154). -/
def State.tinRaw (s : State) (n j : Nat) : Bool :=
  s.bit (R.PWM.TRIP_CFG n) (8 + j) && bitN s.tins j == s.bit (R.PWM.TRIP_CFG n) (12 + j)

/-- A pin of R154 takes a level: `TRIP_IN` pins for every slot, FLTA and FLTB active low. -/
def State.tripPin (s : State) (p : TripPin) (level : Bool) : State :=
  match p with
  | .flta n => s.tripRaw n 0 (!level)
  | .fltb n => s.tripRaw n 1 (!level)
  | .tin j =>
    let s1 := { s with tins := s.tins - bitsN s.tins j j * 2 ^ j.val + b2n level * 2 ^ j.val }
    (List.range 48).foldl (fun s n => s.tripRaw n (14 + j) (s.tinRaw n j)) s1

/-- Each filter's count restarts where the settings take effect, at once or at the next sample; the outputs keep their
state until then (R154). -/
def State.tripRestart (s : State) (n : Nat) : State :=
  let s1 := (List.range 4).foldl (fun s j => s.tripRaw n (14 + j) (s.tinRaw n j)) s
  let s2 := s1.setPw n (fun p => { p with
    filt := p.filt.map (fun f => { f with since := max s.now (p.tripFrom - 1), left := none }) })
  (List.range 18).foldl (fun s k => if s.tripLen n k = 0 ∧ (s.pw n).tripFrom ≤ s.now then s.tripOut n k else s) s2

/-- A write to `TRIP_CFG` or `TRIP_LEN`: runs that have lasted count under the settings they ran with, and the new ones take
effect at the next sample (R154). -/
def State.writeTrip (s : State) (m : Master) (n off v : Nat) : State :=
  let s1 := (List.range 18).foldl (fun s k => s.tripExpiry n k) s
  let p := s1.tripPer n
  let s2 := s1.setPw n (fun x => { x with tripFrom := (s1.now / p + 1) * p })
  (s2.writeReg m (R.PWM.base n) (R.PWM.base n + off) v).tripRestart n

/-! ### Commutation mask and override (R156 to R159) -/

/-- A mask applied, with the gates evaluated (R156, R159). -/
def State.applyMask (s : State) (n m : Nat) (ovr : Bool) (at_ : Time) : State := (s.putMask n m ovr at_).slotEval n

/-- The Hall state in force changes: IDX, and the table entry unless an override is on (R158, R159). -/
def State.setHall (s : State) (n st : Nat) (at_ : Time) : State :=
  let s1 := (s.setPw n (fun p => { p with hallIdx := st })).putFld (R.PWM.COMM_STAT n) 2 0 st
  if s.bit (R.PWM.OVR_MASK n) 16 then s1 else s1.applyMask n (s1.tableMask n) false at_

/-- One waiting mask application takes place; late ones are counted and posted (R158). -/
def State.commApply (s : State) (n : Nat) (c : Time × Nat × Time) : State :=
  let s1 := s.setPw n (fun p => { p with commPend := p.commPend.erase c })
  if c.1 < c.2.2 then
    (((s1.setHall n c.2.1 c.2.2).count (R.PWM.COMM_LATE n) 15 0 1).irq (R.PWM.base n) 8).post (slotSrc n) 0x06 c.2.2
      (c.2.1 % 8 + min 0xFFFF ((c.2.2 - c.1) / 16) * 2 ^ 16)
  else s1.setHall n c.2.1 c.1

/-- The waiting applications of a slot that are due, oldest first. -/
def State.commDue (s : State) (n : Nat) : State :=
  ((s.pw n).commPend.filter (fun c => c.1 ≤ s.now)).foldl (fun s c => s.commApply n c) s

/-- A mask application whose instant has passed when the slot learns of it acts at once (R158). -/
def State.commLate (s : State) : State :=
  (List.range 48).foldl (fun s n =>
    ((s.pw n).commPend.filter (fun c => c.1 < c.2.2)).foldl (fun s c => s.commApply n c) s) s

/-- The mask that a write selects applies from the first TCLK edge after the write reaches the page (R158, R159). -/
def State.maskFrom (s : State) (n : Nat) : State :=
  (s.setPw n (fun p => { p with maskDue := some (ceilEdge (s.now + 1)) })).slotEval n

/-- A write of `COMM_CFG` (R158). -/
def State.writeCommCfg (s : State) (m : Master) (n v : Nat) : State :=
  let s1 := s.writeReg m (R.PWM.base n) (R.PWM.COMM_CFG n) v
  if bitN v 0 then s1.maskFrom n
  else (s1.setPw n (fun p => { p with commPend := [] })).maskFrom n

/-- A write of `OVR_MASK`: an override that begins acts from the next TCLK edge, one that ends or changes acts at once
(R156, R159). -/
def State.writeOvr (s : State) (m : Master) (n v : Nat) : State :=
  if !s.maskValid n (bitsN v 15 0) then s.cfgRefused (R.PWM.base n) else
  let was := s.bit (R.PWM.OVR_MASK n) 16
  let s1 := s.writeReg m (R.PWM.base n) (R.PWM.OVR_MASK n) v
  let on := bitN v 16
  let at_ := if on && !was then ceilEdge (s.now + 1) else s.now
  let s2 := if was = on then s1 else s1.post (slotSrc n) 0x08 at_ (b2n on)
  if on && !was then s2.maskFrom n
  else if on then s2.applyMask n (bitsN v 15 0) true at_
  else if was then
    let st := s2.portHall n
    let s3 := if s2.bit (R.PWM.COMM_CFG n) 0 then
      (s2.setPw n (fun p => { p with hallIdx := st })).putFld (R.PWM.COMM_STAT n) 2 0 st else s2
    s3.applyMask n (s3.tableMask n) false at_
  else s2

/-- The writes of a PWM page that have an effect of their own. -/
def State.pwmHook (s : State) (m : Master) (n off v : Nat) : Option State :=
  if off = 0x40 then some (s.writePwmCtrl m n v)
  else if off = 0xA0 ∨ off = 0xA4 then some (s.writeTrip m n off v)
  else if off = 0xA8 then some (s.writeCommCfg m n v)
  else if off = 0xB0 then some (s.writeOvr m n v)
  else if 0xC0 ≤ off ∧ off < 0xE0 then
    some (if s.maskValid n (bitsN v 15 0) then s.writeReg m (R.PWM.base n) (R.PWM.base n + off) v
      else s.cfgRefused (R.PWM.base n))
  else none

/-- The PWM words that follow the counter: DIR and CNT (R162, assumption log 30). -/
def State.pwmLive (s : State) (n off : Nat) : Option Word :=
  let x := s.xAt n s.now
  if off = 0x44 then
    some (wput (s.rg (R.PWM.STAT n)) 1 1 (b2n (s.slotRun n && s.upDown n && decide ((s.pw n).mid ≤ x))))
  else if off = 0xF0 then some (if s.slotRun n then BitVec.ofNat 32 x else 0)
  else none

/-! ### The commands -/

/-- FEEDBACK_EDGE: an edge at a pin of a port, with its TDC stamp, or without one under R56 (R88). -/
def execFeedbackEdge (t : Time) (n : Fin 48) (line : Fin 3) (stamp : Time) (level stamped : Bool) (s : State) :
    Host.Outcome State Fault Refusal :=
  .next (((s.tick t).feedbackEdge n line stamp level stamped).refreshFrames n (fun tk => decide (stamp ≤ tk))).commLate
/-- MIN_INT_EXPIRY (R89). -/
def execMinIntExpiry (t : Time) (n : Fin 48) (line : Fin 3) (s : State) : Host.Outcome State Fault Refusal :=
  let u := s.tick t
  let due := (vget (vget u.fbp n).lines line).accStamp.getD u.now + u.minInt n
  .next ((u.minIntExpiry n line).refreshFrames n (fun tk => decide (due ≤ tk))).commLate
/-- SLOT_ENABLE (R144). -/
def execSlotEnable (t : Time) (_m : Master) (n : Fin 48) (s : State) : Host.Outcome State Fault Refusal :=
  .next ((s.tick t).onPage (R.PWM.base n) (fun s =>
    if s.en (R.PWM.base n) then s else (s.putBit (R.PG_CTRL (R.PWM.base n)) 0 true).slotEnable n))
/-- PWM_CONFIG_WRITE: a write of `CTRL` (R146). -/
def execPwmConfigWrite (t : Time) (m : Master) (n : Fin 48) (v : Word) (s : State) : Host.Outcome State Fault Refusal :=
  .next ((s.tick t).onPage (R.PWM.base n) (fun s => s.writePwmCtrl m n v.toNat))
/-- REANCHOR_PAUSE_END (R148). -/
def execReanchorPauseEnd (t : Time) (n : Fin 48) (s : State) : Host.Outcome State Fault Refusal :=
  let s := s.tick t
  .next (match (s.pw n).pause with
    | some (e, _) =>
      if e ≤ s.now then
        ((s.setPw n (fun p => { p with pause := none })).putBit (R.PWM.STAT n) 3 false).slotEval n
      else s
    | none => s)
/-- COMPARE_MATCH: the counter reaches a compare edge (R149). -/
def execCompareMatch (t : Time) (n : Fin 48) (s : State) : Host.Outcome State Fault Refusal :=
  .next ((s.tick t).slotEval n)
/-- DEAD_TIME_END: a waiting gate turns on (R152), and a delayed turn-off of R153 that is due takes place. -/
def execDeadTimeEnd (t : Time) (n : Fin 48) (s : State) : Host.Outcome State Fault Refusal :=
  .next ((s.tick t).slotEval n)
/-- TRIP_SOURCE_CHANGE: a pin takes a level (R154). -/
def execTripSourceChange (t : Time) (p : TripPin) (level : Bool) (s : State) : Host.Outcome State Fault Refusal :=
  .next ((s.tick t).tripPin p level)
/-- TRIP_FILTER_EXPIRY (R154). -/
def execTripFilterExpiry (t : Time) (n : Fin 48) (k : Fin 18) (s : State) : Host.Outcome State Fault Refusal :=
  .next ((s.tick t).tripExpiry n k)
/-- COMM_ENABLE: `COMM_CFG` is written with EN = 1 and a port (R158). -/
def execCommEnable (t : Time) (m : Master) (n : Fin 48) (port : Fin 64) (s : State) : Host.Outcome State Fault Refusal :=
  .next ((s.tick t).onPage (R.PWM.base n) (fun s => s.writeCommCfg m n (1 + 2 * port.val)))
/-- COMM: the mask applications of the slot that are due (R158, R159). -/
def execComm (t : Time) (n : Fin 48) (s : State) : Host.Outcome State Fault Refusal :=
  .next (((s.tick t).commDue n).slotEval n)
/-- OVERRIDE: a write of `OVR_MASK` (R159). -/
def execOverride (t : Time) (m : Master) (n : Fin 48) (v : Word) (s : State) : Host.Outcome State Fault Refusal :=
  .next ((s.tick t).onPage (R.PWM.base n) (fun s => s.writeOvr m n v.toNat))

end Sys2Proof.Machine
end

