-- ==== Sys2Proof/Machine/Sdm.lean ====
section
/-! DEFINITION. Current sensing and auxiliary analog: sinc3 windows, fast path and comparators,
conversions and window comparators (R118 to R139). -/

namespace Sys2Proof.Machine

/-- The modulator state of a slot. -/
def State.sd (s : State) (n : Nat) : SdmSt := vget s.sdm n
/-- The state with a slot's modulator state changed. -/
def State.setSd (s : State) (n : Nat) (f : SdmSt → SdmSt) : State := { s with sdm := vupd s.sdm n f }
/-- The state with one input changed. -/
def State.setIn (s : State) (n i : Nat) (f : SdIn → SdIn) : State :=
  s.setSd n (fun d => { d with ins := vupd d.ins i f })
/-- The input is enabled: `IN.CFG.EN` while the page is enabled (R118). -/
def State.inEn (s : State) (n i : Nat) : Bool := s.en (R.SDM.base n) && s.bit (R.SDM.IN_CFG n i) 0
/-- `IN.CFG.OSR`. -/
def State.osr (s : State) (n i : Nat) : Nat := s.fld (R.SDM.IN_CFG n i) 13 5
/-- `IN.CFG.OSR_F`. -/
def State.osrF (s : State) (n i : Nat) : Nat := s.fld (R.SDM.IN_CFG n i) 21 16
/-- External clock mode. -/
def State.sdExt (s : State) (n : Nat) : Bool := s.bit (R.SDM.CLK_CFG n) 8
/-- The input is clocked internally: neither external nor Manchester. -/
def State.sdInt (s : State) (n i : Nat) : Bool := !s.sdExt n && !s.bit (R.SDM.IN_CFG n i) 1
/-- The nominal bit period P in fine ticks. -/
def State.sdP (s : State) (n : Nat) : Nat := ns (s.sd n).div
/-- The enabled inputs of a slot as a mask. -/
def State.sdNeed (s : State) (n : Nat) : Nat := maskOf 4 (fun i => s.inEn n i)

/-! ### The filters (R123, R128) -/

/-- The triangular number of `k`. -/
def tri (k : Nat) : Int := (k * (k + 1) / 2 : Nat)
/-- Coefficient `m` of three cascaded boxcars of length `r`. -/
def boxcar3 (r m : Nat) : Int := tri (m + 1) - 3 * tri (m + 1 - r) + 3 * tri (m + 1 - 2 * r)
/-- The weight w3(j) of R123. -/
def w3 (r j : Nat) : Int := if j = 0 ∨ 3 * r ≤ j + 1 then 0 else boxcar3 r (j - 1)
/-- The weight w2(j) of R128. -/
def w2 (r j : Nat) : Int := (min j (2 * r - j) : Nat)
/-- The weighted sum of bits, oldest first. -/
def wsum (w : Nat → Int) : Nat → List Bool → Int
  | _, [] => 0
  | j, b :: r => (if b then w j else 0) + wsum w (j + 1) r
/-- (2S - D)/D in Q1.31, round half to even, saturated below +1 (R123). -/
def q131 (sum : Int) (d : Nat) : Int := min 0x7FFFFFFF (roundHalfEven ((2 * sum - d) * 2 ^ 31) d)
/-- The sinc3 result of R123. -/
def sinc3 (r : Nat) (bits : List Bool) : Int := q131 (wsum (w3 r) 0 (bits.take (3 * r))) (r ^ 3)
/-- The sinc2 result of R128. -/
def sinc2 (r : Nat) (bits : List Bool) : Int := q131 (wsum (w2 r) 0 (bits.take (2 * r))) (r ^ 2)

/-! ### Bits (R119 to R122) -/

/-- The level of a pin at `c`, from its level changes, oldest first. -/
def pinAt (pin : List (Time × Bool)) (c : Int) : Bool :=
  pin.foldl (fun v x => if (x.1 : Int) ≤ c then x.2 else v) false
/-- The measured period of an external clock at `c`: the latest interval between two rising edges; the nominal P before
two of them (R120, assumption log 157). -/
def measuredP (nominal : Nat) (clk : List Time) (c : Time) : Nat :=
  match (clk.filter (fun x => decide (x ≤ c))).reverse with
  | x :: y :: _ => x - y
  | _ => nominal
/-- The delay from a bit's time `c` to the instant at which its pin is sampled: the SAMP_DLY in force at `c`, or P - 1 ns
where it is P or more (R122). -/
def State.sampDly (s : State) (n p : Nat) (c : Int) : Nat :=
  let v := ns (match (s.sd n).dlys.find? (fun x => decide (c < (x.1 : Int))) with
    | some x => x.2
    | none => s.fld (R.SDM.CLK_CFG n) 23 16)
  if p ≤ v then p - ns 1 else v
/-- The rising edges of an internal clock of period `p` from `lo` to `hi` (R119). -/
def gridRange (p : Nat) (anchor : Time) (lo hi : Int) : List Int :=
  let c : Int := lo + ((anchor : Int) - lo) % (nz p : Int)
  (List.range ((hi - c) / (nz p : Int) + 1).toNat).map (fun (j : Nat) => c + (j * p : Nat))
/-- The rising edges of the internal clock from `lo` to `hi`, each with the period in force at it (R119). -/
def SdmSt.edges (d : SdmSt) (lo hi : Int) : List (Int × Nat) :=
  let old := d.grids.foldl (fun (x : Int × List (Int × Nat)) g =>
    (max x.1 (g.1 : Int),
      x.2 ++ (gridRange (ns g.2.1) g.2.2 x.1 (min hi ((g.1 : Int) - 1))).map (fun c => (c, ns g.2.1)))) (lo, [])
  old.2 ++ (gridRange (ns d.div) d.anchor old.1 hi).map (fun c => (c, ns d.div))
/-- A time in which the internal clock has at least `k` rising edges, whatever its DIV and its changes (R119). -/
def SdmSt.span (d : SdmSt) (k : Nat) : Int := ((k + 1 + d.grids.length) * ns 400 : Nat)
/-- The bits of an input that is not clocked internally, oldest first, with their times: the edges of an external clock
with the pin's level SAMP_DLY later, or the recovered bits of a Manchester stream, whose mid-bit transitions `pin` lists
(R120 to R122, assumption log 157). -/
def State.sdOwnBits (s : State) (n i : Nat) (clk : List Time) (pin : List (Time × Bool)) : List (Time × Bool) :=
  if s.bit (R.SDM.IN_CFG n i) 1 then pin.map (fun x => (x.1 - s.sdP n / 2, x.2))
  else clk.map (fun c => (c, pinAt pin (c + s.sampDly n (measuredP (s.sdP n) clk c) c : Nat)))
/-- The bits of the internal clock from `lo` to `hi`, with their times and periods (R119, R122). -/
def State.sdGridBits (s : State) (n : Nat) (pin : List (Time × Bool)) (lo hi : Int) : List (Int × Nat × Bool) :=
  ((s.sd n).edges lo hi).map (fun e => (e.1, e.2, pinAt pin (e.1 + (s.sampDly n e.2 e.1 : Nat))))
/-- The bit period that governs an input at `c`: measured in external-clock mode, else the nominal one (R119 to R121). -/
def State.sdPer (s : State) (n i : Nat) (clk : List Time) (c : Time) : Nat :=
  if s.sdExt n && !s.bit (R.SDM.IN_CFG n i) 1 then measuredP (s.sdP n) clk c else s.sdP n

/-! ### Windows (R123 to R125, R127) -/

/-- The offset of t_k from the bit grid is zero (R124). -/
def State.centred (s : State) (n i : Nat) (tk : Time) : Bool :=
  s.sdInt n i && ((tk : Int) - (s.sd n).anchor) % (nz (s.sdP n) : Int) == 0

/-- D_F of R16 for a sample instant of an axis that owns slot `n`. -/
def State.frameDelay (s : State) (n : Nat) (tk : Time) : Time :=
  if s.sdNeed n = 0 then ns 60 else
  let osr := (List.range 4).foldl (fun m i => if s.inEn n i then max m (s.osr n i) else m) 0
  let exact_ := (List.range 4).all (fun i => !s.inEn n i || s.centred n i tk)
  24 * osr * (s.sd n).div + (if exact_ then 0 else 8 * (s.sd n).div) + ns 60

/-- The start of the window of t_k on the internal grid (R123, R124). -/
def State.winStart (s : State) (n i : Nat) (tk : Time) : Int :=
  let p := s.sdP n
  let ideal : Int := (tk : Int) - (3 * s.osr n i * p / 2 : Nat)
  let r := ((ideal - (s.sd n).anchor) % (nz p : Int))
  if 2 * r ≤ p then ideal - r else ideal + (p - r)

/-- A sample instant opens the windows of the enabled inputs; a fifth in progress at the window's start, one that has ended
since then included, sets OVERLAP (R123, R125). -/
def State.openWindows (s : State) (n : Nat) (tk ready : Time) : State :=
  (List.range 4).foldl (fun s i =>
    if !s.inEn n i then s else
    let c0 := s.winStart n i tk
    let fin := c0 + (3 * s.osr n i * s.sdP n : Nat)
    let d := vget (s.sd n).ins i
    if 4 ≤ ((d.wins.map (fun w => w.fin) ++ d.past).filter (fun e => decide (c0 < e))).length then
      s.putBit (R.SDM.STAT n) 8 true
    else s.setIn n i (fun d => { d with
      wins := d.wins ++ [⟨tk, c0, fin, ready⟩]
      past := d.past.filter (fun e => decide ((tk : Int) ≤ e + ns 80000)) })) s

/-- The frames of an axis frozen at `tk` and not yet ready, at every level, changed. -/
def State.updFrames (s : State) (a : Nat) (tk : Time) (f : Frame → Frame) : State :=
  { s with ax := vupd s.ax a (fun x => { x with lv := x.lv.map (fun l =>
      { l with frames := l.frames.map (fun fr => if fr.tk = tk ∧ !fr.isReady then f fr else fr) }) }) }

/-- The frames of the axis that owns a slot. -/
def State.slotFrames (s : State) (n : Nat) (tk : Time) (f : Frame → Frame) : State :=
  match s.ownerOf n with
  | some a => s.updFrames a tk f
  | none => s

/-- Whether an instant in the past spoils a window that began at `c0`. -/
def hits (x : Option Time) (c0 : Int) : Bool := match x with | some t => decide (c0 ≤ (t : Int)) | none => false

/-- Of two bits, the one whose time is nearer to `x`; ties go to the earlier (R124). -/
def nearer (x : Int) (a b : Time × Bool) : Bool :=
  let da := ((a.1 : Int) - x).natAbs
  let db := ((b.1 : Int) - x).natAbs
  decide (da < db) || (da == db && decide (a.1 ≤ b.1))
/-- The bits from the one nearest to `x` on (R124). -/
def fromNearest (x : Int) : List (Time × Bool) → List (Time × Bool)
  | [] => []
  | b :: r => if r.all (fun y => nearer x b y) then b :: r else fromNearest x r

/-- The bits of a window with its first bit time and its end: the N bits that the internal clock clocks from the window's
start on, else those from the bit nearest to t_k - N·P/2 on (R123, R124); `none` while a bit is missing. -/
def State.windowBits (s : State) (n i : Nat) (w : SdWin) (clk : List Time) (pin : List (Time × Bool)) :
    Option (List Bool × Int × Int) :=
  let k := 3 * s.osr n i
  if s.sdInt n i then
    let own := s.sdGridBits n pin w.c0 (w.c0 + (s.sd n).span k)
    (own.drop (k - 1)).head?.map (fun z => ((own.take k).map (fun b => b.2.2), w.c0, z.1 + z.2.1))
  else
  let p := s.sdPer n i clk w.tk
  let own := fromNearest ((w.tk : Int) - (k * p / 2 : Nat)) (s.sdOwnBits n i clk pin)
  match own.head?, (own.drop (k - 1)).head? with
  | some b, some z =>
    let fin : Int := match (own.drop k).head? with | some e => e.1 | none => z.1 + p
    some ((own.take k).map Prod.snd, b.1, fin)
  | _, _ => none

/-- The oldest window of an input completes: MAIN, the frame word, and validity (R122 to R124, R127). `clk` lists the
rising edges of an external clock and `pin` the level changes of the pin, or the mid-bit transitions of a Manchester
stream; `run` is the bit time at which the run of equal bits that holds the window's first bit began. A centre on half a
fine tick is rounded down in CENTRE_ERR (DESIGN CHOICE, assumption log 188). -/
def State.windowDone (s : State) (n i : Nat) (clk : List Time) (pin : List (Time × Bool)) (run : Time) : State :=
  match (vget (s.sd n).ins i).wins with
  | [] => s
  | w :: rest =>
    match s.windowBits n i w clk pin with
    | none => s
    | some (bits, c0, fin) =>
    let ext := s.sdExt n && !s.bit (R.SDM.IN_CFG n i) 1
    if (s.now : Int) < fin then s else
    let d := vget (s.sd n).ins i
    let inv := s.bit (R.SDM.IN_CFG n i) 4
    let y := sinc3 (s.osr n i) (bits.map (fun b => b != inv))
    let err : Int := (c0 + fin) / 2 - w.tk
    let late := decide ((w.ready : Int) < fin + ns 60)
    let inj := i = 0 && s.bit (R.PG_ERRINJ (R.SDM.base n)) 16
    let stuck := match d.stuck with
      | some t => decide (c0 ≤ (t : Int)) || t == run
      | none => false
    let chg := match (s.sd n).changed with | some t => decide (c0 < (t : Int)) | none => false
    let bad := late || inj || stuck || chg || hits d.manErr c0 || hits (s.sd n).lost c0 || decide (c0 < ((s.sd n).since : Int))
    let s1 := s.setIn n i (fun d => { d with wins := rest, past := d.past ++ [fin], inv := if bad then d.inv else false })
    let s2 := (s1.setRg (R.SDM.IN_MAIN n i) (BitVec.ofInt 32 y)).setRg (R.SDM.IN_CENTRE_ERR n i)
      (BitVec.ofNat 32 (ux 16 err))
    let s3 := (s2.putBit (R.SDM.STAT n) i (!bad)).putBit (R.SDM.STAT n) (4 + i) (!s.centred n i w.tk)
    let s4 := if inj then s3.putBit (R.PG_ERRINJ (R.SDM.base n)) 16 false else s3
    let s5 := if ext then s4.setSd n (fun d => { d with clk := true, per := s.sdPer n i clk w.tk }) else s4
    (s5.slotFrames n w.tk (fun f => { f with
      words := vupd f.words (2 + i) (fun _ => if late then 0 else BitVec.ofInt 32 y)
      good := if bad then f.good else f.good ||| 2 ^ i })).sdmInv n

/-- At frame-ready, an enabled input without a valid window is invalid from now on (R127, R164). -/
def State.judgeInputs (s : State) (n need good : Nat) : State :=
  if need &&& good = need then s else
  ((List.range 4).foldl (fun s i =>
    if bitN need i && !bitN good i then
      (s.setIn n i (fun d => { d with inv := true })).putBit (R.SDM.STAT n) i false
    else s) s).sdmInv n

/-! ### Losses (R120, R121, R127) -/

/-- A sensing fault: its FAULT bit, `PG_IRQ[0]` and its event (R137). -/
def State.sdFault (s : State) (n bitNo code payload : Nat) : State :=
  ((s.putBit (R.SDM.FAULT n) bitNo true).irq (R.SDM.base n) 1).postNow (slotSrc n) code payload

/-- No rising edge of an external clock for 4 × DIV ns (R120). -/
def State.clkLoss (s : State) (n : Nat) (last : Time) : State :=
  if !s.en (R.SDM.base n) || !s.sdExt n || decide (s.now < last + 4 * s.sdP n) then s else
  let s1 := (s.setSd n (fun d => { d with lost := some s.now, clk := false })).sdFault n 8 0x32 0
  ((List.range 4).foldl (fun s i => if s.inEn n i then s.setIn n i (fun d => { d with inv := true }) else s) s1).sdmInv n

/-- A Manchester error of the bit at `c` (R121). -/
def State.manErr (s : State) (n i : Nat) (c : Time) : State :=
  if !s.inEn n i || !s.bit (R.SDM.IN_CFG n i) 1 then s else
  ((s.setIn n i (fun d => { d with manErr := some c })).count (R.SDM.ERRCNT n) 15 0 1).sdFault n (4 + i) 0x31
    (i + 1 * 2 ^ 16)

/-- No transition since `run` for STUCK_N × 8 bits of the period P, measured to be `per` where the input is not clocked
internally (R127). -/
def State.sdStuck (s : State) (n i : Nat) (run : Time) (per : Nat) : State :=
  let k := s.fld (R.SDM.IN_CFG n i) 31 24
  let p := if s.sdInt n i then s.sdP n else per
  if !s.inEn n i || decide (k = 0) || decide (s.now < run + k * 8 * p) then s
  else (s.setIn n i (fun d => { d with stuck := some run })).sdFault n i 0x30 i

/-! ### Configuration (R119, R126) -/

/-- A write of `IN[i].CFG` (R126). -/
def State.writeInCfg (s : State) (m : Master) (n i v : Nat) : State :=
  let osr := bitsN v 13 5
  let f := bitsN v 21 16
  if s.en (R.SDM.base n) || osr % 2 == 1 || decide (osr < 16) || decide (256 < osr) || decide (f < 8) || decide (32 < f) then
    s.cfgRefused (R.SDM.base n)
  else s.writeReg m (R.SDM.base n) (R.SDM.IN_CFG n i) v

/-- A write of `CLK_CFG` (R119, R126). -/
def State.writeClkCfg (s : State) (m : Master) (n v : Nat) : State :=
  if s.en (R.SDM.base n) && bitN v 8 != s.sdExt n then s.cfgRefused (R.SDM.base n)
  else
    let s0 := s.setSd n (fun d => { d with
      dlys := d.dlys.filter (fun x => decide (s.now ≤ x.1 + ns 1000000)) ++ [(s.now, s.fld (R.SDM.CLK_CFG n) 23 16)] })
    let s1 := s0.writeReg m (R.SDM.base n) (R.SDM.CLK_CFG n) v
    if !s.en (R.SDM.base n) || !s.slotRun n then s1.divCommit n s.now else s1

/-- The reference in force of a bridge (R324). -/
def State.stepRef (s : State) (a x : Nat) : Int :=
  let r := (vget s.stp a).refs
  if x = 0 then r.1 else r.2

/-- The threshold under test of a comparator by the threshold method: `some` of the clear phase (R181). -/
def State.testThreshold (s : State) (n c : Nat) (lo : Bool) : Option Bool :=
  match (s.ps n).test with
  | some ts => if ts.threshold && ts.target == c && ts.side == lo then some ts.clear else none
  | none => none

/-- The thresholds HI and LO of a comparator: its registers, or for CMP0 and CMP1 those that Windshaft sets
while the chopper runs (R326). -/
def State.cmpThreshold (s : State) (n c : Nat) (lo : Bool) : Int :=
  let own := s.sgn32 (if lo then R.SDM.CMP_LO n c else R.SDM.CMP_HI n c)
  match s.testThreshold n c lo with
  | some clear => if clear = lo then -2 ^ 31 else 2 ^ 31 - 1
  | none =>
  if 2 ≤ c then own else
  match s.stepAxis n with
  | none => own
  | some a =>
    let i := s.stepRef a c
    let ofs := if c = 0 then (vget s.stp a).ofs.1 else (vget s.stp a).ofs.2
    if lo == decide (i < 0) then ofs + i else own

/-- The flags of a comparator set or cleared together, with the trip sources they are (R131). -/
def State.setCmpFlag (s : State) (n c : Nat) (lo on : Bool) : State :=
  (s.putBit (R.SDM.CMP_STAT n) (if lo then 4 + c else c) on).tripRaw n (if lo then 6 + c else 2 + c) on

/-- Every comparator flag of a slot at 0 (R129). -/
def State.clearCmpFlags (s : State) (n : Nat) : State :=
  (List.range 4).foldl (fun s c => (s.setCmpFlag n c false false).setCmpFlag n c true false) s

/-- The SDM page becomes enabled or disabled: no bit has been received, no flag stands, no input is reported invalid
any more, and while disabled DIV is in force at once (R118, R119, R129, R164). -/
def State.sdmEnable (s : State) (n : Nat) : State :=
  let s1 := ((s.setSd n (fun d => { d with
    ins := Vector.replicate 4 {}, changed := none, lost := none, clk := false, since := s.now })).clearCmpFlags n).sdmInv n
  if s.en (R.SDM.base n) then s1 else s1.divCommit n s.now

/-- A soft reset of the SDM page: the clock keeps the anchor of a counter that runs (R38, R119). -/
def State.sdmReset (s : State) (n : Nat) : State :=
  ((s.setSd n (fun d => { ({} : SdmSt) with anchor := d.anchor })).clearCmpFlags n).sdmInv n

/-- A write of `CMP[c].CFG`: a disabled comparator, and one that watches an input without a fast-path value since the
enable, hold both flags at 0 (R129, R131). -/
def State.writeCmpCfg (s : State) (m : Master) (n c v : Nat) : State :=
  let s1 := s.writeReg m (R.SDM.base n) (R.SDM.CMP_CFG n c) v
  let cfg := s1.rg (R.SDM.CMP_CFG n c)
  if wbit cfg 0 && (vget (s1.sd n).ins (wfld cfg 2 1)).fastOk then s1
  else (s1.setCmpFlag n c false false).setCmpFlag n c true false

/-! ### Comparators (R129) -/

/-- The comparator side under test is kept away from trips, events and the chopper, after a bitstream test until enough
live bits have passed (R180, R181). -/
def State.testing (s : State) (n target : Nat) (lo : Bool) : Bool :=
  let hit (ts : TestSt) : Bool := ts.target == target && ts.side == lo
  (s.ps n).test.any hit || (s.ps n).after.any (fun x => hit x.1)

/-- A side of the window comparator of an auxiliary input is under test from some slot (R180). -/
def State.winTested (s : State) (ain : Nat) (lo : Bool) : Bool :=
  (List.range 48).any (fun k => match (s.ps k).test with
    | some ts => decide (4 ≤ ts.target) && ts.side == lo && s.auxOf k ts.target == some ain
    | none => false)

/-- One half of a comparator at a fast-path value (R129). -/
def State.cmpHalf (s : State) (n c i : Nat) (lo : Bool) (f : Int) (centre : Int) : State :=
  let quiet := s.testing n c lo
  let flag := s.bit (R.SDM.CMP_STAT n) (if lo then 4 + c else c)
  let hy : Int := (s.rg (R.SDM.CMP_HYST n c)).toNat
  let th := s.cmpThreshold n c lo
  let set := if lo then decide (f ≤ th) else decide (th ≤ f)
  let clr := if lo then decide (th + hy < f) else decide (f < th - hy)
  if !flag && set then
    let ns32 := ux 32 (centre / 16)
    if quiet then (s.irq (R.SDM.base n) 2).putBit (R.SDM.CMP_STAT n) (4 * b2n lo + c) true else
    (((s.irq (R.SDM.base n) 2).post (slotSrc n) (if lo then 0x34 else 0x33) (ceilEdge s.now)
      (c + i * 4 + ns32 * 2 ^ 16))).setCmpFlag n c lo true
  else if flag && clr then
    (if quiet then s.putBit (R.SDM.CMP_STAT n) (4 * b2n lo + c) false else s.setCmpFlag n c lo false)
  else s

/-- The trip source of a comparator side follows its flag again (R181). -/
def State.cmpTripSync (s : State) (n c : Nat) (lo : Bool) : State :=
  if c < 4 then s.setCmpFlag n c lo (s.bit (R.SDM.CMP_STAT n) (4 * b2n lo + c)) else s

/-- The latest `k` bits of an input with a bit time of at most `c`, oldest first, with their times; fewer before `k` have
been received since the enable (R128). -/
def State.latestBits (s : State) (n i : Nat) (clk : List Time) (pin : List (Time × Bool)) (c : Int) (k : Nat) :
    List (Int × Bool) :=
  let since : Int := (s.sd n).since
  if s.sdInt n i then
    let own := s.sdGridBits n pin (max since (c - (s.sd n).span k)) c
    (own.drop (own.length - k)).map (fun b => (b.1, b.2.2))
  else
    let own := ((s.sdOwnBits n i clk pin).map (fun b => ((b.1 : Int), b.2))).filter (fun b =>
      decide (since ≤ b.1) && decide (b.1 ≤ c))
    own.drop (own.length - k)

/-- The comparators that watch an input, evaluated at a fast-path value (R129). -/
def State.cmpEval (s : State) (n i : Nat) (f centre : Int) : State :=
  (List.range 4).foldl (fun s k =>
    if s.bit (R.SDM.CMP_CFG n k) 0 && s.fld (R.SDM.CMP_CFG n k) 2 1 == i then
      (s.cmpHalf n k i false f centre).cmpHalf n k i true f centre
    else s) s

/-- The input that a digital comparator test feeds (R181). -/
def State.testInput (s : State) (n : Nat) (ts : TestSt) : Option Nat :=
  if ts.target < 4 ∧ !ts.threshold then some (s.fld (R.SDM.CMP_CFG n ts.target) 2 1) else none

/-- The bitstream test on an input that has ended is over for its comparator once every bit in the filter is live (R181). -/
def State.afterTest (s : State) (n i : Nat) (oldest : Int) : State :=
  match (s.ps n).after with
  | some (ts, e) =>
    if s.testInput n ts = some i ∧ (e : Int) ≤ oldest then
      (s.setPs n (fun p => { p with after := none })).cmpTripSync n ts.target ts.side
    else s
  | none => s

/-- A fast-path update of an input with the bit of time `c`; the other operands are those of `windowDone`. A bitstream test
takes the input's place, and its bits stay in the filter for a time (R128, R129, R181). -/
def State.fastUpdate (s : State) (n i : Nat) (clk : List Time) (pin : List (Time × Bool)) (c : Time) : State :=
  let r := s.osrF n i
  let bits := s.latestBits n i clk pin c (2 * r)
  let fed := (s.ps n).test.any (fun ts => s.testInput n ts == some i)
  if !s.inEn n i || fed || decide (bits.length < 2 * r) then s else
  let inv := s.bit (R.SDM.IN_CFG n i) 4
  let live (b : Int × Bool) : Bool := match (s.ps n).after with
    | some (ts, e) => if s.testInput n ts = some i ∧ b.1 < (e : Int) then ts.side else b.2 != inv
    | none => b.2 != inv
  let f := sinc2 r (bits.map live)
  let p := s.sdPer n i clk c
  let centre : Int := (c : Int) + p - (r * p : Nat)
  let s0 := (s.setRg (R.SDM.IN_FAST n i) (BitVec.ofInt 32 f)).setIn n i (fun d => { d with fastOk := true })
  let s1 := s0.hopNode 3 (n * 4 + i) (BitVec.ofInt 32 f) c
  let s2 := if s.sdExt n && !s.bit (R.SDM.IN_CFG n i) 1 then s1.setSd n (fun d => { d with clk := true, per := p }) else s1
  ((s2.afterTest n i (match bits with | b :: _ => b.1 | [] => c)).cmpEval n i f centre)

/-- The bits in the filter of an input under a bitstream test: those of the running phase, those of the set phase, and the
live ones before the test (R181). -/
def State.testBits (s : State) (n i : Nat) (ts : TestSt) (clk : List Time) (pin : List (Time × Bool)) : List Bool :=
  let k := 2 * s.osrF n i
  let inv := s.bit (R.SDM.IN_CFG n i) 4
  let bitNs := ns 40
  let p2 := List.replicate (if ts.clear then min k ((s.now - ts.start) / bitNs) else 0) ts.side
  let p1 := List.replicate (min k ((if ts.clear then ts.start - ts.begun else s.now - ts.start) / bitNs)) (!ts.side)
  let live := (s.latestBits n i clk pin ((ts.begun : Int) - s.sdPer n i clk ts.begun) k).map (fun b => b.2 != inv)
  let all := live ++ p1 ++ p2
  all.drop (all.length - k)

/-! ### Auxiliary inputs (R132 to R136) -/

/-- Sources 10 to 13 follow the window flags of the assigned inputs (R164). -/
def State.auxSources (s : State) (n : Nat) : State :=
  (List.range 4).foldl (fun s q =>
    let tg := 4 + q / 2
    let lvl := match s.auxOf n tg with
      | some j => s.bit (R.AUXADC.AIN_WIN_STAT (j / 8) (j % 8)) (q % 2)
      | none => false
    let kept := match s.auxOf n tg with | some j => s.winTested j (q % 2 == 1) | none => false
    if kept then s else s.tripRaw n (10 + q) lvl) s

/-- A write of `AUX_SEL`: in force at the first sample instant at least 100 ns later (R133, assumption log 35). -/
def State.writeAuxSel (s : State) (m : Master) (n v : Nat) : State :=
  let s1 := s.writeReg m (R.SDM.base n) (R.SDM.AUX_SEL n) v
  let w := s1.rg (R.SDM.AUX_SEL n)
  if (s.ownerOf n).isSome then s1.setSd n (fun d => { d with auxPend := d.auxPend ++ [(w, s.now + ns 100)] })
  else (s1.setSd n (fun d => { d with auxSel := w, auxPend := [] })).auxSources n

/-- A sample instant puts the latest due `AUX_SEL` into force (R133). -/
def State.applyAuxSel (s : State) (n : Nat) (tk : Time) : State :=
  match (((s.sd n).auxPend.filter (fun x => decide (x.2 ≤ tk))).getLast?) with
  | some (w, _) =>
    (s.setSd n (fun x => { x with auxSel := w, auxPend := x.auxPend.filter (fun x => decide (tk < x.2)) })).auxSources n
  | none => s

/-- Triggered conversions in order of trigger instant, then slot (R133). -/
def insertTrig (x : Time × Nat × Nat) : List (Time × Nat × Nat) → List (Time × Nat × Nat)
  | [] => [x]
  | y :: r => if x.1 < y.1 ∨ (x.1 = y.1 ∧ x.2.1 < y.2.1) then x :: y :: r else y :: insertTrig x r

/-- `AUXADC.STAT` follows the engine (R139); a count above 15 shows as 15 (DESIGN CHOICE, assumption log 189). -/
def State.auxStat (s : State) (m : Nat) : State :=
  let a := vget s.aux m
  s.setRg (R.AUXADC.STAT m) (BitVec.ofNat 32 (b2n a.conv.isSome + min 15 a.queue.length * 16))

/-- A sample instant of the owning axis triggers the DC-link conversion (R133). One that is triggered while the AUXADC page is
disabled waits and runs once the page is enabled (DESIGN CHOICE, assumption log 189). -/
def State.auxTrigger (s : State) (n : Nat) (tk : Time) : State :=
  match s.auxOf n 4 with
  | none => s
  | some j =>
    ({ s with aux := vupd s.aux (j / 8) (fun a => { a with queue := insertTrig (tk, n, j % 8) a.queue }) }).auxStat (j / 8)

/-- The input to scan after `last` (R135). -/
def nextScan (mask : Nat) (last : Option Nat) : Option Nat :=
  let above := match last with | some l => (List.range 8).find? (fun j => decide (l < j) && bitN mask j) | none => none
  match above with
  | some j => some j
  | none => (List.range 8).find? (fun j => bitN mask j)

/-- The ADC starts a conversion if it is free: a waiting triggered one, else a scan (R132, R133, R135). -/
def State.auxStart (s : State) (m : Nat) : State :=
  let a := vget s.aux m
  let freeAt := match a.lastS with | some l => l + ns 250 | none => 0
  if a.conv.isSome || decide (s.now < freeAt) || !s.en (R.AUXADC.base m) then s else
  match a.queue with
  | (tk, n, j) :: rest =>
    if s.now < tk then s else
    let st := max (ceilEdge tk) freeAt
    ({ s with aux := vupd s.aux m (fun a => { a with conv := some ⟨j, st, some (tk, n)⟩, lastS := some st, queue := rest }) }).auxStat m
  | [] =>
    if !s.bit (R.AUXADC.SCAN m) 8 then s else
    match nextScan (s.fld (R.AUXADC.SCAN m) 7 0) a.scan with
    | none => s
    | some j =>
      let st := max (floorEdge s.now) freeAt
      ({ s with aux := vupd s.aux m (fun a => { a with conv := some ⟨j, st, none⟩, lastS := some st, scan := some j }) }).auxStat m

/-- The code of an input that stands at `v`, in units of VREF/2^32 (R132). -/
def adcCode (v : Nat) : Nat := min 65535 (v / 2 ^ 16)

/-- A conversion completes with a code: RESULT and STAMP, frame words 15 and 16, and the chopper (R132 to R134, R183). -/
def State.auxDone (s : State) (m code : Nat) : State :=
  match (vget s.aux m).conv with
  | none => s
  | some c =>
    if s.now < c.stamp + ns 200 then s else
    let r := BitVec.ofNat 32 (code % 65536 * 2 ^ 15)
    let ain := 8 * m + c.input
    let s1 := ((s.setRg (R.AUXADC.AIN_RESULT m c.input) r).setRg64 (R.AUXADC.AIN_STAMP m c.input) c.stamp).hopNode 4 ain r c.stamp
    let s2 := ({ s1 with aux := vupd s1.aux m (fun a => { a with
      conv := none, doneAt := vupd a.doneAt c.input (fun _ => some (c.stamp + ns 200)) }) }).auxStat m
    let s3 := match c.trig with
      | some (tk, n) => s2.slotFrames n tk (fun f => { f with words := vupd f.words 15 (fun _ => r), auxWait := false })
      | none => s2
    let s4 := (List.range 64).foldl (fun s a =>
      match s.slotOf a with
      | some n =>
        if s.auxOf n 5 = some ain then
          { s with ax := vupd s.ax a (fun x => { x with lv := x.lv.map (fun l =>
            { l with frames := l.frames.map (fun f =>
              if !f.isReady ∧ c.stamp ≤ f.tk then { f with words := vupd f.words 16 (fun _ => r) } else f) }) }) }
        else s
      | none => s) s3
    (List.range 48).foldl (fun s n => if s.auxOf n 4 = some ain then s.slotEval n else s) s4

/-- The hysteresis of `WIN_CFG.HYST` in codes (R139). -/
def hystCodes (h : Nat) : Nat := match h with | 0 => 0 | 1 => 8 | 2 => 32 | _ => 128

/-- A window flag of an input takes a value: `PG_IRQ[j]`, the events of the slots that assign it, and
their trip sources (R136). -/
def State.setWinFlag (s : State) (m j : Nat) (below on : Bool) : State :=
  let a := R.AUXADC.AIN_WIN_STAT m j
  if s.bit a (b2n below) = on then s else
  let s1 := (s.putBit a (b2n below) on).irq (R.AUXADC.base m) (2 ^ j)
  (List.range 48).foldl (fun s n =>
    let tgs := [4, 5].filter (fun tg => s.auxOf n tg == some (8 * m + j))
    if tgs.isEmpty then s else
    let s2 := if on && !s.winTested (8 * m + j) below then s.postNow (slotSrc n) (if below then 0x36 else 0x35) (8 * m + j) else s
    s2.auxSources n) s1

/-- The phase of a threshold test on a side of the window comparator of an input: `some` of the clear phase (R181). -/
def State.winPhase (s : State) (ain : Nat) (lo : Bool) : Option Bool :=
  ((List.range 48).filterMap (fun k => match (s.ps k).test with
    | some ts => if decide (4 ≤ ts.target) && ts.side == lo && s.auxOf k ts.target == some ain then some ts.clear else none
    | none => none)).head?

/-- An auxiliary input stands at `v`, in units of VREF/2^32: both halves of its window comparator, with the threshold of a
test in place of its own (R136, R181). They act whatever the AUXADC page's PG_CTRL.EN is: R136 makes them independent of the
SAR, and no rule ties them to EN (DESIGN CHOICE, assumption log 189). -/
def State.winCompare (s0 : State) (m j v : Nat) : State :=
  let s := { s0 with aux := vupd s0.aux m (fun a => { a with levels := vupd a.levels j (fun _ => v) }) }
  let c := s.rg (R.AUXADC.AIN_WIN_CFG m j)
  let hy : Int := (hystCodes (wfld c 29 28) * 2 ^ 20 : Nat)
  let th (lo : Bool) (own : Nat) : Int := ((match s.winPhase (8 * m + j) lo with
    | some clear => if clear = lo then 0 else 4095
    | none => own) * 2 ^ 20 : Nat)
  let hi := th false (wfld c 11 0)
  let lo := th true (wfld c 27 16)
  let st := s.rg (R.AUXADC.AIN_WIN_STAT m j)
  let up := wbit c 30 && (if wbit st 0 then decide (hi - hy ≤ (v : Int)) else decide (hi < (v : Int)))
  let dn := wbit c 31 && (if wbit st 1 then decide ((v : Int) ≤ lo + hy) else decide ((v : Int) < lo))
  (s.setWinFlag m j false up).setWinFlag m j true dn

/-- A write of `WIN_CFG`: a disabled half holds its flag at 0 (R136). -/
def State.writeWinCfg (s : State) (m : Master) (k j v : Nat) : State :=
  let s1 := s.writeReg m (R.AUXADC.base k) (R.AUXADC.AIN_WIN_CFG k j) v
  let s2 := if bitN v 30 then s1 else s1.setWinFlag k j false false
  if bitN v 31 then s2 else s2.setWinFlag k j true false

/-! ### The phases of a self-test (R181, R182) -/

/-- The flag under test evaluated at the present instant: the synthetic stream, or the test's threshold against the live
value (R181). A disabled comparator, input or page keeps the flag at 0 in a test too (R129, R131). -/
def State.testUpdate (s : State) (n : Nat) (ts : TestSt) (clk : List Time) (pin : List (Time × Bool)) : State :=
  if 4 ≤ ts.target then
    match s.auxOf n ts.target with
    | some j => s.winCompare (j / 8) (j % 8) (vget (vget s.aux (j / 8)).levels (j % 8))
    | none => s
  else
    let i := s.fld (R.SDM.CMP_CFG n ts.target) 2 1
    if ts.threshold then
      (if s.bit (R.SDM.CMP_CFG n ts.target) 0 && (vget (s.sd n).ins i).fastOk then s.cmpHalf n ts.target i ts.side (s.sgn32 (R.SDM.IN_FAST n i)) s.now else s)
    else
      let bits := s.testBits n i ts clk pin
      if !s.inEn n i || decide (bits.length < 2 * s.osrF n i) then s else
      let f := sinc2 (s.osrF n i) bits
      (s.setRg (R.SDM.IN_FAST n i) (BitVec.ofInt 32 f)).cmpEval n i f ((s.now : Int) - (s.osrF n i * ns 40 : Nat))

/-- The trip paths follow the flags again once a test is over; a bitstream test keeps its comparator away until enough live
bits have passed (R181). -/
def State.testRestore (s : State) (n : Nat) (ts : TestSt) : State :=
  if 4 ≤ ts.target then
    match s.auxOf n ts.target with
    | some j =>
      (List.range 48).foldl (fun (s : State) k => s.auxSources k)
        (s.winCompare (j / 8) (j % 8) (vget (vget s.aux (j / 8)).levels (j % 8)))
    | none => s
  else if ts.threshold then s.cmpTripSync n ts.target ts.side
  else
    let s1 := match (s.ps n).after with
      | some (o, _) => (s.setPs n (fun p => { p with after := none })).cmpTripSync n o.target o.side
      | none => s
    s1.setPs n (fun p => { p with after := some (ts, s.now) })

/-- A phase of the self-test ends: on the flag change, or at its limit (R181). -/
def State.phaseEnd (s0 : State) (n : Nat) (clk : List Time) (pin : List (Time × Bool)) : State :=
  match (s0.ps n).test with
  | none => s0
  | some ts =>
    let s := s0.testUpdate n ts clk pin
    let flag := s.testFlag n ts.target ts.side
    let inTime := flag != ts.flag0 && flag == !ts.clear && decide (s.now ≤ ts.limit)
    if !inTime && decide (s.now < ts.limit) then s
    else if !ts.clear then
      s.setPs n (fun p => { p with test := some { ts with
        clear := true, start := s.now, limit := s.now + s.phaseLimit n ts.target ts.threshold, flag0 := flag
        firstOk := inTime
        setAt := if inTime then some (s.now - ts.start) else if s.testImpossible n ts then none else some 0 } })
    else
      let first := ts.firstOk
      let soft1 := !first && ts.setAt.isNone
      let soft2 := !inTime && s.testImpossible n ts
      let result := if first && inTime then 1 else if (first || soft1) && (inTime || soft2) then 3 else 2
      (s.testFinish n (if first then ts else { ts with setAt := none }) result).testRestore n ts

/-! ### Hooks and commands -/

/-- The writes of an SDM page that have an effect of their own. -/
def State.sdmHook (s : State) (m : Master) (n off v : Nat) : Option State :=
  if off = 0x40 then some (s.writeClkCfg m n v)
  else if off = 0x44 then some (s.writeAuxSel m n v)
  else if 0x60 ≤ off ∧ off < 0xA0 ∧ off % 16 = 0 then some (s.writeInCfg m n ((off - 0x60) / 16) v)
  else if 0xA0 ≤ off ∧ off < 0xE0 ∧ off % 16 = 0 then some (s.writeCmpCfg m n ((off - 0xA0) / 16) v)
  else none

/-- CLK_PRESENT follows the clock (R138). -/
def State.sdmLive (s : State) (n off : Nat) : Option Word :=
  if off = 0x48 then
    some (wput (s.rg (R.SDM.STAT n)) 9 9 (b2n (s.en (R.SDM.base n) && (!s.sdExt n || (s.sd n).clk))))
  else none

/-- The writes of an AUXADC page that have an effect of their own. -/
def State.auxHook (s : State) (m : Master) (n off v : Nat) : Option State :=
  if 0x100 ≤ off ∧ off < 0x200 ∧ off % 32 = 4 then some (s.writeWinCfg m n ((off - 0x100) / 32) v) else none

/-- SINC3_WINDOW: the oldest window in progress of an input completes (R123). `clk` lists the rising edges of an external
clock, `pin` the level changes of the pin and `mid` the mid-bit transitions of a Manchester stream (R120 to R122). -/
def execSinc3Window (t : Time) (n : Fin 48) (i : Fin 4) (clk : List Time) (pin mid : List (Time × Bool)) (run : Time)
    (s : State) : Host.Outcome State Fault Refusal :=
  let s := s.tick t
  .next (s.windowDone n i clk (if s.bit (R.SDM.IN_CFG n i) 1 then mid else pin) run)
/-- SD_CLK_LOSS: the latest rising edge of MCLK was at `last` (R120). -/
def execSdClkLoss (t : Time) (n : Fin 48) (last : Time) (s : State) : Host.Outcome State Fault Refusal :=
  .next ((s.tick t).clkLoss n last)
/-- SD_MAN_ERR: the bit at time `c` has no mid-bit transition or is off rate (R121). -/
def execSdManErr (t : Time) (n : Fin 48) (i : Fin 4) (c : Time) (s : State) : Host.Outcome State Fault Refusal :=
  .next ((s.tick t).manErr n i c)
/-- SD_STUCK: the bitstream shows no transition since `run.1`; `run.2` is the bit period measured in an external-clock or
Manchester mode (R127). -/
def execSdStuck (t : Time) (n : Fin 48) (i : Fin 4) (run : Time × Nat) (s : State) :
    Host.Outcome State Fault Refusal := .next ((s.tick t).sdStuck n i run.1 run.2)
/-- SDM_CONFIG_WRITE: a write of `IN[k].CFG` for k below 4, of `CLK_CFG` for 4 (R126). -/
def execSdmConfigWrite (t : Time) (m : Master) (n : Fin 48) (k : Fin 5) (v : Word) (s : State) :
    Host.Outcome State Fault Refusal :=
  .next ((s.tick t).onPage (R.SDM.base n) (fun s =>
    if k.val < 4 then s.writeInCfg m n k v.toNat else s.writeClkCfg m n v.toNat))
/-- SELF_TEST_PHASE_END: `line` gives the input's bits before the test: the rising edges of an external clock, and the
level changes of the pin or the mid-bit transitions of a Manchester stream (R181). -/
def execSelfTestPhaseEnd (t : Time) (n : Fin 48) (line : List Time × List (Time × Bool)) (s : State) :
    Host.Outcome State Fault Refusal := .next ((s.tick t).phaseEnd n line.1 line.2)
/-- AUX_CONVERSION_START (R133). -/
def execAuxConversionStart (t : Time) (m : Fin 2) (s : State) : Host.Outcome State Fault Refusal :=
  .next ((s.tick t).auxStart m)
/-- AUX_CONVERSION_DONE: the input stood at `v`, in units of VREF/2^32, when it was sampled (R132). -/
def execAuxConversionDone (t : Time) (m : Fin 2) (v : Nat) (s : State) : Host.Outcome State Fault Refusal :=
  .next ((s.tick t).auxDone m (adcCode v))
/-- AUX_WINDOW_CROSSING: input j of an ADC stands at `v`, in units of VREF/2^32 (R136). -/
def execAuxWindowCrossing (t : Time) (m : Fin 2) (j : Fin 8) (v : Nat) (s : State) : Host.Outcome State Fault Refusal :=
  .next ((s.tick t).winCompare m j v)

end Sys2Proof.Machine
end

