-- ==== Sys2Proof/Machine/AxisTime.lean ====
section
/-! DEFINITION. The instants of an axis: levels and ratios, coming sample instants of a level, and the
first instant that several axes share (R12, R20, R256, R274, R301, R317, R318, R567). -/

namespace Sys2Proof.Machine

/-- The Sluice state of an axis. -/
def State.axs (s : State) (a : Nat) : AxSt := vget s.ax a
/-- The state with an axis's Sluice state changed. -/
def State.setAx (s : State) (a : Nat) (f : AxSt → AxSt) : State := { s with ax := vupd s.ax a f }
/-- Weir source of an axis (R282). -/
def axisSrc (a : Nat) : Nat := 0xE0 + a
/-- `AX[a].CTRL.RUN` (R257). -/
def State.axRun (s : State) (a : Nat) : Bool := s.bit (R.SLUICE.AX_CTRL a) 0
/-- `CFG.LEVELS`. -/
def State.levels (s : State) (a : Nat) : Nat := s.fld (R.SLUICE.AX_CFG a) 1 0
/-- The ratio a of R20. -/
def State.ratioA (s : State) (a : Nat) : Nat := s.fld (R.SLUICE.AX_CFG a) 7 2 + 1
/-- The ratio b of R20. -/
def State.ratioB (s : State) (a : Nat) : Nat := s.fld (R.SLUICE.AX_CFG a) 13 8 + 1
/-- Inner periods in one period of level `l` (R20). -/
def State.ratio (s : State) (a l : Nat) : Nat :=
  match l with | 0 => 1 | 1 => s.ratioA a | _ => s.ratioA a * s.ratioB a
/-- Inner periods in one period of the outermost level. -/
def State.outer (s : State) (a : Nat) : Nat := s.ratio a (s.levels a - 1)

/-- The instant `k` inner periods after the inner sample instant `t`, under the periods in force (R12, R256, R567). -/
def State.innerAhead (s : State) (a t k : Nat) : Time :=
  match s.slotOf a with
  | some n =>
    if s.updMode n = 2 then
      let t1 := t + k / 2 * (s.pw n).per
      if k % 2 = 0 then t1 else s.nextUpd n t1
    else t + k * (s.pw n).per
  | none => t + k * ns (s.rg (R.SLUICE.AX_TPERIOD a)).toNat

/-- The period of level `l` that begins at the instant `t` of the axis (R20). -/
def State.periodAt (s : State) (a l t : Nat) : Time := s.innerAhead a t (s.ratio a l) - t

/-- The first instant at or after `t` of the axis whose number is a multiple of `r`; none while it has none. -/
def State.levelFrom (s : State) (a r t : Nat) : Option Time :=
  if !s.axRun a then none else
  match (s.axs a).next with
  | none => none
  | some n0 =>
    let x0 := s.innerAhead a n0 ((nz r - (s.axs a).idx % nz r) % nz r)
    let p2 := nz (s.innerAhead a x0 (2 * nz r) - x0)
    let m := (t - x0) / p2 * 2
    let at_ (k : Nat) : Time := s.innerAhead a x0 ((m + k) * nz r)
    some (if t ≤ at_ 0 then at_ 0 else if t ≤ at_ 1 then at_ 1 else at_ 2)

/-- The first tick of the axis at or after `t` (R301). -/
def State.tickFrom (s : State) (a t : Nat) : Option Time := s.levelFrom a (s.outer a) t

/-- The latest of the first instants of several axes at or after `t`, and whether all are equal. -/
def State.meet (s : State) (xs : List (Nat × Nat)) (t : Nat) : Option (Time × Bool) :=
  xs.foldl (fun acc x =>
    match acc, s.levelFrom x.1 x.2 t with
    | some (m, _), some u => some (max m u, true)
    | _, _ => none) (some (t, true)) |>.map (fun m =>
      (m.1, xs.all (fun x => s.levelFrom x.1 x.2 t == some m.1)))

/-- The first instant from `t` to `hi` that is an instant of every listed axis (axis and ratio), searched
in at most `fuel` steps; each step passes at least one period of an axis. -/
def State.common (s : State) (xs : List (Nat × Nat)) (hi : Nat) : Nat → Nat → Option Time
  | 0, _ => none
  | fuel + 1, t =>
    if hi < t then none else
    match s.meet xs t with
    | none => none
    | some (m, true) => if m ≤ hi then some m else none
    | some (m, false) => s.common xs hi fuel m

/-- More steps than a search of 1 s needs: the shortest period is 1 us (R143, R258). -/
def searchFuel : Nat := 2000000

/-- The first common tick of several axes within 1 s of `t` (R317, R318). -/
def State.commonTick (s : State) (axes : List Nat) (t : Nat) : Option Time :=
  s.common (axes.map (fun a => (a, s.outer a))) (t + sec 1) searchFuel t

/-- A sample instant of level `l` falls at the axis's next instant. -/
def State.levelDue (s : State) (a l : Nat) : Bool :=
  decide (l < s.levels a) && (s.axs a).idx % s.ratio a l == 0

/-! ### Requests of the clocked serial ports (R103, R114) -/

/-- The axis that paces a port: the first in `USERS` that names it as primary (R114). -/
def State.pacer (s : State) (n : Nat) : Option Nat :=
  (List.range 64).find? (fun a => (vget s.fbSel a).primary == some n)
/-- `tk` is a coming sample instant of the loop level that `CTRL.REQ_LEVEL` names, of the axis that paces the port
(R103, R114). -/
def State.requestAt (s : State) (n : Nat) (tk : Time) : Bool :=
  let l := s.fld (R.FBP.CTRL n) 18 17
  match s.pacer n with
  | some a => decide (l < s.levels a) && s.levelFrom a (s.ratio a l) tk == some tk
  | none => false

/-- A serial request at t_req = t_k − SER_LEAD: started, or skipped within the recovery time (R103). -/
def State.serialRequest (s : State) (n : Nat) (tk : Time) : State :=
  let tr := tk - ns (s.fld (R.FBP.SER_LEAD n) 19 0)
  let md := s.fbMode n
  if !s.en (R.FBP.base n) || !(md == 3 || md == 4) || !s.requestAt n tk || decide (s.now < tr) then s
  else
    let busy := match (vget s.fbp n).endPrev with
      | some e => decide (tr < e + ns (s.fld (R.FBP.SER_TMO n) 19 0))
      | none => false
    if busy || (vget s.fbp n).req.isSome then
      ((s.count (R.FBP.SER_ERRCNT n) 31 24 1).irq (R.FBP.base n) 0x10).post n 0x0C tr (tr % 2 ^ 32)
    else s.setFbp n (fun p => { p with req := some (tr, tk) })
/-- SERIAL_REQUEST for the sample instant `tk` (R103). -/
def execSerialRequest (t : Time) (n : Fin 48) (tk : Time) (s : State) : Host.Outcome State Fault Refusal :=
  .next ((s.tick t).serialRequest n tk)

end Sys2Proof.Machine
end

