-- ==== Sys2Proof/Machine/Profile.lean ====
section
/-! DEFINITION. Motion profiles (R303, R308 to R311, R320): ramps, position moves, velocity moves and
stops, in exact rationals, and the roundings of carried values. -/

namespace Sys2Proof.Machine

/-- A rational rounded to the nearest integer, half to even. -/
def ratHalfEven (x : Rat) : Int :=
  let f := x.num.fdiv x.den
  let r2 := 2 * (x.num - f * x.den)
  if r2 < x.den then f else if (x.den : Int) < r2 then f + 1 else if f % 2 = 0 then f else f + 1

/-- A value in counts (or counts/s) as an integer of 1/`scale`, rounded half to even from a value carried
to 2^-32 (R303, R334, R339): where that precision decides the result, it is open. -/
def carried (x : Rat) (scale : Nat) : Int :=
  let e : Rat := 1 / (2 ^ 32 : Nat)
  let lo := ratHalfEven ((x - e) * scale)
  let hi := ratHalfEven ((x + e) * scale)
  if lo = hi then lo else if Config.carryUp x.num x.den then hi else lo
/-- A position in Q48.16. -/
def posQ (x : Rat) : Int := satI 64 (carried x (2 ^ 16))
/-- A velocity in Q40.24. -/
def velQ (x : Rat) : Int := satI 64 (carried x (2 ^ 24))
/-- A Q48.16 value in counts. -/
def ofPos (p : Int) : Rat := (p : Rat) / (2 ^ 16 : Nat)
/-- A Q40.24 value in counts/s. -/
def ofVel (v : Int) : Rat := (v : Rat) / (2 ^ 24 : Nat)
/-- A duration in fine ticks, in seconds. -/
def secs (t : Nat) : Rat := (t : Rat) / (16000000000 : Nat)
/-- The magnitude of a rational. -/
def ratAbs (x : Rat) : Rat := if x < 0 then -x else x

/-- The integer square root, bit by bit from 2^(n-1) down. -/
def isqrtAux (v : Nat) : Nat → Nat → Nat
  | 0, r => r
  | n + 1, r => isqrtAux v n (if (r + 2 ^ n) * (r + 2 ^ n) ≤ v then r + 2 ^ n else r)
/-- The integer square root. -/
def isqrt (v : Nat) : Nat := isqrtAux v (Nat.log2 v / 2 + 1) 0
/-- A square root on a grid of 2^-80, rounded up (`up`) or down (assumption log 46). -/
def ratSqrt (x : Rat) (up : Bool) : Rat :=
  let n := x.num.toNat * 2 ^ 160 / x.den
  let r := isqrt n
  ((if up && r * r * x.den ≠ x.num.toNat * 2 ^ 160 then r + 1 else r : Nat) : Rat) / (2 ^ 80 : Nat)

/-- The ramp from speed `u` to `w` under acceleration `a` and jerk `j` (none: infinite): its pieces,
duration and distance (R309). -/
def ramp (u w a : Rat) (j : Option Rat) : List Piece × Rat × Rat :=
  let dv := ratAbs (w - u)
  let sg : Rat := if u < w then 1 else -1
  if dv = 0 then ([], 0, 0) else
  match j with
  | none => ([⟨dv / a, sg * a, 0⟩], dv / a, (u + w) / 2 * (dv / a))
  | some j =>
    let full := decide (a * a / j ≤ dv)
    let tj := if full then a / j else ratSqrt (dv / j) true
    let ta := if full then dv / a - tj else 0
    let jj := if full then j else dv / (tj * tj)
    let t := 2 * tj + ta
    ([⟨tj, 0, sg * jj⟩, ⟨ta, sg * jj * tj, 0⟩, ⟨tj, sg * jj * tj, -(sg * jj)⟩], t, (u + w) / 2 * t)

/-- The largest value that fits between `lo`, which does, and `hi`, to 2^-24 counts/s (R309, R311). -/
def bisect (ok : Rat → Bool) : Nat → Rat → Rat → Rat
  | 0, lo, _ => lo
  | n + 1, lo, hi =>
    if hi - lo ≤ 1 / (2 ^ 24 : Nat) then lo
    else if ok ((lo + hi) / 2) then bisect ok n ((lo + hi) / 2) hi else bisect ok n lo ((lo + hi) / 2)

/-- The largest fitting value in [lo, hi]. -/
def largest (ok : Rat → Bool) (lo hi : Rat) : Rat := if ok hi then hi else bisect ok 80 lo hi

/-- The total duration of a profile. -/
def Profile.total (p : Profile) : Rat := p.pieces.foldl (fun t x => t + x.dur) 0

/-- Position, velocity and acceleration at `t` seconds into a list of pieces. -/
def walk : List Piece → Rat → Rat → Rat → Rat × Rat × Rat
  | [], _, p, v => (p, v, 0)
  | x :: r, t, p, v =>
    let s := if t < x.dur then t else x.dur
    let p' := p + v * s + x.acc * s * s / 2 + x.jerk * s * s * s / 6
    let v' := v + x.acc * s + x.jerk * s * s / 2
    if t < x.dur then (p', v', x.acc + x.jerk * s) else walk r (t - x.dur) p' v'

/-- Position, velocity and acceleration of a profile after `t` seconds (R309, R320). -/
def Profile.at (p : Profile) (t : Rat) : Rat × Rat × Rat :=
  if p.total ≤ t then
    (if p.hold then p.endPos + p.endVel * (t - p.total) else p.endPos, p.endVel, 0)
  else
    let w := walk p.pieces t p.p0 p.v0
    (if p.dir ≠ 0 ∧ p.clampFrom ≤ t ∧ 0 < (p.dir : Rat) * (w.1 - p.endPos) then p.endPos else w.1, w.2)

/-- Where the pieces end. -/
def endOf (ps : List Piece) (p0 v0 : Rat) : Rat := (walk ps (ps.foldl (fun t x => t + x.dur) 0) p0 v0).1

/-- The distance that a stop takes from speed `u` (R310, R311). -/
def stopDistance (u d : Rat) (j : Option Rat) : Rat := (ramp u 0 d j).2.2

/-- The pieces turned to a direction. -/
def turn (d : Rat) (ps : List Piece) : List Piece := ps.map (fun x => ⟨x.dur, d * x.acc, d * x.jerk⟩)

/-- The pieces of a move along its own direction: from `u` over the distance `D` to the end speed `ve`,
and the end speed reached (R309, R311). -/
def movePieces (u dist vm am dm : Rat) (jm : Option Rat) (ve : Rat) : List Piece × Rat :=
  let legs (vp e : Rat) := (ramp u vp am jm, ramp vp e dm jm)
  let fits (vp e : Rat) : Bool := let l := legs vp e; decide (l.1.2.2 + l.2.2.2 ≤ dist)
  let e := if vm < ve then vm else ve
  let u' := if vm < u && fits vm e then vm else u
  let lo := if e < u' then u' else e
  let reach := fits lo e
  let e1 := if reach then e else if e ≤ u' then largest (fun x => fits u' x) 0 e else largest (fun x => fits x x) u' e
  let vp := if reach then largest (fun x => fits x e) lo vm else if e ≤ u' then lo else e1
  let l := legs vp e1
  let rest := dist - l.1.2.2 - l.2.2.2
  let cruise : List Piece := if 0 < rest ∧ 0 < vp then [⟨rest / vp, 0, 0⟩] else []
  (l.1.1 ++ cruise ++ l.2.1, e1)

/-- The stop from `v0` and acceleration `a0` under `dm` and `jm` (R320): with a finite jerk the
deceleration rises to its peak, holds and falls to 0 at rest. A deceleration already in force that the jerk
limit would carry past rest, or that lies above the limit, is kept (assumption log 48). -/
def stopPieces (v0 a0 dm : Rat) (jm : Option Rat) : List Piece :=
  let d : Rat := if 0 < v0 then 1 else if v0 < 0 then -1 else if 0 < a0 then 1 else -1
  let u := d * v0
  let b := -(d * a0)
  match jm with
  | none => if u = 0 then [] else turn d [⟨u / dm, -dm, 0⟩]
  | some j =>
    if u = 0 ∧ b = 0 then []
    else if 0 < b ∧ 2 * j * u < b * b then turn d [⟨2 * u / b, -b, b * b / (2 * u)⟩]
    else
      let top := if dm < b then b else dm
      let pk := ratSqrt ((2 * j * u + b * b) / 2) false
      let ap0 := if pk < top then pk else top
      let ap := if ap0 < b then b else ap0
      let drop := (ap * ap - b * b) / (2 * j) + ap * ap / (2 * j)
      turn d [⟨(ap - b) / j, -b, -j⟩, ⟨if ap = 0 then 0 else (u - drop) / ap, -ap, 0⟩, ⟨ap / j, -ap, j⟩]

/-- The stop as a profile. -/
def planStop (p0 v0 a0 dm : Rat) (jm : Option Rat) : Profile :=
  let ps := if dm = 0 then [] else stopPieces v0 a0 dm jm
  { p0 := p0, v0 := if ps.isEmpty then 0 else v0, pieces := ps, endPos := if ps.isEmpty then p0 else endOf ps p0 v0 }

/-- The direction of a position move from its start: towards the target, or that of the motion where it stands there. -/
def moveDir (p0 v0 target : Rat) : Rat :=
  if p0 < target then 1 else if target < p0 then -1 else if v0 < 0 then -1 else 1

/-- A position move from `v0` overshoots: its target lies behind, or nearer than the stop distance (R310). -/
def overshoots (p0 v0 target dm : Rat) (jm : Option Rat) : Bool :=
  let u := moveDir p0 v0 target * v0
  decide (u < 0) || (decide (0 < u) && decide (ratAbs (target - p0) < stopDistance u dm jm))

/-- The direction in which a position move reaches its target: 1, -1, or 0 where it stands there (R310, R311). -/
def finalDir (p0 v0 target dm : Rat) (jm : Option Rat) : Int :=
  let p := if overshoots p0 v0 target dm jm then (planStop p0 v0 0 dm jm).endPos else p0
  if p < target then 1 else if target < p then -1 else 0

/-- A position move (R309 to R311), and whether it overshoots (R310). -/
def planMove (p0 v0 target vm am dm : Rat) (jm : Option Rat) (ve : Rat) : Profile × Bool :=
  let dist := target - p0
  let d := moveDir p0 v0 target
  let u := d * v0
  if overshoots p0 v0 target dm jm then
    let st := planStop p0 v0 0 dm jm
    let dist2 := target - st.endPos
    let d2 : Rat := if dist2 < 0 then -1 else 1
    let m := movePieces 0 (ratAbs dist2) vm am dm jm ve
    ({ p0 := p0, v0 := v0, pieces := st.pieces ++ turn d2 m.1, endPos := target, endVel := d2 * m.2,
       dir := if dist2 < 0 then -1 else 1, clampFrom := st.total }, true)
  else
    let m := movePieces u (ratAbs dist) vm am dm jm ve
    ({ p0 := p0, v0 := v0, pieces := turn d m.1, endPos := target, endVel := d * m.2,
       dir := if d < 0 then -1 else 1 }, false)

/-- A velocity move: to the signed velocity `vt`, through rest when the sign changes, then held (R308). -/
def planVelocity (p0 v0 vt am dm : Rat) (jm : Option Rat) : Profile :=
  let ps := if v0 * vt < 0 then (ramp v0 0 dm jm).1 ++ (ramp 0 vt am jm).1
    else (ramp v0 vt (if ratAbs vt < ratAbs v0 then dm else am) jm).1
  { p0 := p0, v0 := v0, pieces := ps, endPos := endOf ps p0 v0, endVel := vt, hold := true }

end Sys2Proof.Machine
end

