-- ==== Sys2Proof/Machine/Sys.lean ====
section
/-! DEFINITION. The device states and the SYS state registers (R24, R27 to R31, R523, R568). -/

namespace Sys2Proof.Machine

/-- A transition of the device state: STATE, PREV and CAUSE of `SYS.DEV_STATE`; ACK_EARLY clears on
entry to READY (R27, R31). -/
def State.toDev (s : State) (d : DevState) (cause : Nat) : State :=
  let s1 := { s with dev := { s.dev with st := d } }
  let s2 := ((s1.putFld R.SYS.DEV_STATE 6 4 s.dev.st.code).putFld R.SYS.DEV_STATE 2 0 d.code).putFld
    R.SYS.DEV_STATE 15 8 cause
  if d = .ready then s2.putBit R.SYS.DEV_STATE 7 false else s2

/-- `SYS.RUN_CTRL.OUT_EN`. -/
def State.outEn (s : State) : Bool := s.bit R.SYS.RUN_CTRL 0
/-- The Brakewheel release is present (`SYS.DEV_STATE.BW_REL`). -/
def State.bwRel (s : State) : Bool := s.bit R.SYS.DEV_STATE 16

/-- A device-wide hold: READY and RUN go to SAFE and OUT_EN clears (R27, R29). -/
def State.deviceHold (s : State) (cause : Nat) : State :=
  let s1 := { s with dev := { s.dev with hold := true } }
  if s.dev.st = .ready ∨ s.dev.st = .run then (s1.putBit R.SYS.RUN_CTRL 0 false).toDev .safe cause else s1

/-- With OUT_EN = 1 and the release present, READY goes to RUN (R27, R568). -/
def State.tryRun (s : State) : State :=
  if s.dev.st = .ready ∧ s.outEn ∧ s.bwRel then s.toDev .run 1 else s

/-- A write to OUT_EN that the lock permits (R27, R28, R30, R568). -/
def State.writeOutEn (s : State) (on : Bool) : State :=
  if on then
    if s.dev.st = .safe then s else (s.putBit R.SYS.RUN_CTRL 0 true).tryRun
  else
    let s1 := s.putBit R.SYS.RUN_CTRL 0 false
    if s.dev.st = .run then s1.toDev .ready 2 else s1

/-- A write of 1 to SAFE_ACK: from SAFE to READY once the hold is withdrawn, or ACK_EARLY (R30). -/
def State.safeAck (s : State) : State :=
  if s.dev.hold then s.putBit R.SYS.DEV_STATE 7 true
  else if s.dev.st = .safe then s.toDev .ready 5 else s

/-- A write to `SYS.RUN_CTRL`, field by field (R30, R42, R570): OUT_EN judged in the state the write
finds, a refused OUT_EN counted only if it would have changed the field. -/
def State.writeRunCtrl (s : State) (m : Master) (v : Nat) : State :=
  let lk := s.lockOk R.SYS.base m
  let on := bitN v 0
  let s1 := if lk then (s.writeOutEn on).setPage R.SYS.base (fun p => { p with lockFrom := s.now })
    else if on ≠ s.outEn ∧ ¬(s.dev.st = .safe ∧ on) then s.failInc R.SYS.base else s
  if bitN v 1 then s1.safeAck else s1

/-- A word of the fault record (R531). -/
def frecAddr (i : Nat) : Nat := bsramBase + 4 * i
/-- A fault record of a kind is written, unless one of kind 4 to 6 waits for its acknowledgement (R531, R532). -/
def State.faultRecord (s : State) (kind code unit : Nat) : State :=
  let old := wfld (s.ldw (frecAddr 0)) 19 16
  if (4 ≤ old ∧ s.pwr.frecAck = false) ∨ (4 ≤ kind ∧ s.up = false) then s else
  let seq := (s.pwr.frecSeq + 1) % 2 ^ 16
  let ws : List Word := [BitVec.ofNat 32 (seq + kind * 2 ^ 16), BitVec.ofNat 32 s.now, BitVec.ofNat 32 (s.now >>> 32),
    s.rg R.SYS.DEV_STATE &&& 0xff77, BitVec.ofNat 32 (code + unit * 2 ^ 8), s.rg R.SYS.CLK_MON, s.rg R.PWR.SUP_STAT]
  let all := ws ++ [BitVec.ofNat 32 (crc32 (ws.flatMap wordBytes))]
  let s1 := (all.zipIdx).foldl (fun (s : State) x => s.stw (frecAddr x.2) x.1) s
  { s1 with pwr := { s1.pwr with frecSeq := seq, frecAck := false } }

/-- A time-base fault: counters and releases stop, TIMEBASE is reported, the device enters SAFE (R523). -/
def State.timebaseFault (s : State) : State :=
  let s1 := { s with dev := { s.dev with tbFault := some (s.dev.tbFault.getD s.now) } }
  ((s1.deviceHold 4).report 0x08 0 0 true 0).faultRecord 6 8 0

/-- Loss of PLL_C stops the CAN controllers until it locks again (R524). -/
def State.pllcLost (s : State) : State := { s with dev := { s.dev with pllcDown := true } }

/-- A flagged PLL: its bit of `SYS.CLK_MON` and the reaction of R523 and R524. -/
def State.pllLost (s : State) (p : Pll) (freq : Bool) : State :=
  match p with
  | .t => (s.putBit R.SYS.CLK_MON (b2n freq) true).timebaseFault
  | .a => (s.putBit R.SYS.CLK_MON (2 + b2n freq) true).report 0x09 0 0 true 0
  | .c => (s.putBit R.SYS.CLK_MON (4 + b2n freq) true).pllcLost
  | .serdes n => s.putBit R.SYS.CLK_MON (6 + n.val) true
  | .pcie => s.putBit R.SYS.CLK_MON 10 true

end Sys2Proof.Machine
end

