-- ==== Sys2Proof/Machine/TimeUnit.lean ====
section
/-! DEFINITION. The PTP clocks, machine time, TIME_UNSURE and the snapshots (R57 to R70). -/

namespace Sys2Proof.Machine

/-- The source number of the time unit and Fantail (R77). -/
def srcTime : Nat := 0x170

/-- A clock after a change, with how it ran before. -/
def PtpClock.after (c d : PtpClock) : PtpClock :=
  if c.edge = d.edge ∧ c.val = d.val ∧ c.incr = d.incr then d
  else { d with hist := ⟨c.edge, c.val, c.incr, d.edge⟩ :: c.hist }
/-- The state with one PTP clock changed. -/
def State.setPtp (s : State) (n : Bool) (f : PtpClock → PtpClock) : State :=
  if n then { s with time := { s.time with ptp1 := s.time.ptp1.after (f s.time.ptp1) } }
  else { s with time := { s.time with ptp0 := s.time.ptp0.after (f s.time.ptp0) } }

/-- `ADJ_COUNT` increased by `k`, wrapping (R66). -/
def State.adj (s : State) (k : Nat) : State :=
  s.putFld R.TIME.MT_STAT 31 16 (s.fld R.TIME.MT_STAT 31 16 + k)

/-- C set at a TCLK edge, with the SLEWING flag. -/
def State.setC (s : State) (e : Nat) (c : Int) : State :=
  ({ s with time := { s.time with c := c, cEdge := e } }).putBit R.TIME.MT_STAT 2 (decide (c ≠ 0))

/-- The slew that has reached zero by an edge ends: counted and posted at its own edge (R62, R66). -/
def State.endSlew (s : State) (e : Nat) : State :=
  if s.time.c ≠ 0 ∧ s.time.slewEnd ≤ e then
    let d := s.time.slewEnd
    ((s.setC d 0).adj 1).post srcTime 0x06 (d * 16) 0
  else s

/-- C changes by `d` at an edge (R61), with the slew that starts, runs on or ends there (R62, R66). -/
def State.changeC (s0 : State) (e : Nat) (d : Int) : State :=
  let s := s0.endSlew e
  let old := s.time.cAt e
  let new := old + d
  let s1 := s.setC e new
  if old = 0 then (if new = 0 then s1 else s1.adj 1)
  else if new = 0 then (s1.adj 1).post srcTime 0x06 (e * 16) 0 else s1

/-- The limits of `INCR` (R58). -/
def incrMin : Nat := 0xFFBE76C9
/-- The upper limit of `INCR` (R58). -/
def incrMax : Nat := 0x100418937

/-- A write of `INCR` (R58): clamped, counted, and due 20 ns later. -/
def State.writeIncr (s : State) (n : Bool) (v : Nat) : State :=
  let w := v % 2 ^ 40
  let c := clampN incrMin incrMax w
  let s1 := ((s.setRg64 (R.PTP.INCR (b2n n)) c).setPtp n
    (fun p => { p with incrPend := p.incrPend ++ [(s.now + ns 20, c)] })).adj 1
  if c = w then s1
  else (s1.putBit (R.PG_STAT (R.PTP.base (b2n n))) 18 true).postNow srcTime 0x07 (b2n n)

/-- The earliest pending `INCR` that is due governs every TCLK edge from its instant on (R58). -/
def State.applyIncr (s : State) (n : Bool) : State :=
  match (s.ptp n).incrPend with
  | (d, v) :: rest =>
    if d ≤ s.now then
      s.setPtp n (fun p => { p.rebase (edgeOf (ceilEdge d) - 1) with incr := v, incrPend := rest })
    else s
  | [] => s

/-- A write of `OFFSET` stages a step, replacing one not yet applied (R59). -/
def State.writeOffset (s : State) (n : Bool) (v : Nat) : State :=
  s.setPtp n (fun p => { p with offPend := some (s.now + ns 20, sx 64 v) })

/-- An accepted soft reset of a PTP page: the pending step is dropped, and `INCR` is nominal again as after a write at the
acceptance; the clock runs on (R59). -/
def State.ptpReset (s : State) (n : Bool) : State :=
  (s.setPtp n (fun p => { p with offPend := none })).writeIncr n 0x100000000

/-- The staged step, at the first TCLK edge 20 ns or more after the write: added, or refused when the
seconds would become negative; a step of the selected clock changes C by the opposite (R59, R61, R66). -/
def State.applyOffset (s : State) (n : Bool) : State :=
  match (s.ptp n).offPend with
  | none => s
  | some (d, off) =>
    if d ≤ s.now then
      let e := edgeOf (ceilEdge d)
      let new : Int := ((s.ptp n).at e : Int) + off * 2 ^ 32
      let s1 := s.setPtp n (fun p => { p with offPend := none })
      if new < 0 then s1.putBit (R.PG_STAT (R.PTP.base (b2n n))) 19 true
      else
        let s2 := (s1.setPtp n (fun p => { p.rebase e with val := new.toNat })).adj 1
        if s.sel = n then s2.changeC e (-(off * 2 ^ 32)) else s2
    else s

/-- The selected clock changes at a TCLK edge: C takes up the difference (R61, R66). -/
def State.selectClock (s : State) (n : Bool) (e : Nat) : State :=
  if s.sel = n then s else
  let d : Int := ((s.ptp s.sel).at e : Int) - ((s.ptp n).at e : Int)
  ((((s.putBit R.TIME.MT_STAT 1 n).adj 1).changeC e d)).post srcTime 0x01 (e * 16) (b2n n)

/-- TIME_UNSURE as `TIME.MT_STAT` and `SYS.DEV_STATE` show it. -/
def State.putUnsure (s : State) (u : Bool) : State :=
  (s.putBit R.TIME.MT_STAT 0 u).putBit R.SYS.DEV_STATE 17 u
/-- TIME_UNSURE changes at the first TCLK edge from now on, and the change is posted there (R67, R68). -/
def State.turnUnsure (s : State) (u : Bool) (code payload : Nat) : State :=
  let e := ceilEdge s.now
  ({ s.putUnsure u with time := { s.time with unsureAt := edgeOf e } }).post srcTime code e payload

/-- `MT_CTRL.STANDALONE`. -/
def State.standalone (s : State) : Bool := s.bit R.TIME.MT_CTRL 0

/-- TIME_UNSURE is set, unless STANDALONE holds it 0, and posted with its cause (R67). -/
def State.setUnsure (s : State) (cause : Nat) : State :=
  if s.standalone then s
  else
    let s1 := s.putFld R.TIME.MT_STAT 7 4 0
    if s.unsure then s1 else s1.turnUnsure true 0x02 cause

/-- TIME_UNSURE clears and is posted (R68). -/
def State.clearUnsure (s : State) (alone : Bool) : State :=
  if s.unsure then s.turnUnsure false 0x03 (b2n alone) else s

/-- The end of a sync interval of the selected domain with an offset of machine time from the master
in 2^-32 ns: the guard counts of R67 and R68. -/
def State.syncInterval (s : State) (ofs : Int) : State :=
  if s.standalone then s
  else if ofs.natAbs ≤ s.fld R.TIME.GUARD 23 0 * 2 ^ 32 then
    let c := min 8 (s.fld R.TIME.MT_STAT 7 4 + 1)
    let s1 := ({ s with time := { s.time with outCount := 0 } }).putFld R.TIME.MT_STAT 7 4 c
    if c = 8 then s1.clearUnsure false else s1
  else
    let k := min 2 (s.time.outCount + 1)
    let s1 := ({ s with time := { s.time with outCount := k } }).putFld R.TIME.MT_STAT 7 4 0
    if k = 2 then s1.setUnsure 1 else s1

/-- RESEED: C is zero from the next TCLK edge, a running slew ends there (R63, R66). -/
def State.reseed (s0 : State) : State :=
  let e := edgeOf (ceilEdge s0.now)
  let s := s0.endSlew e
  let old := s.time.cAt e
  let s1 := ((s.setC e 0).adj 1).post srcTime 0x05 (e * 16) (ux 48 (old.fdiv (2 ^ 32)))
  if old = 0 then s1 else (s1.adj 1).post srcTime 0x06 (e * 16) 0

/-- A write to `TIME.MT_CTRL`: STANDALONE under the lock (R42, R67, R68), RESEED from any master (R63, R570), which takes
effect if TIME_UNSURE is 1 as the write reaches the page. -/
def State.writeMtCtrl (s : State) (m : Master) (v : Nat) : State :=
  let on := bitN v 0
  let s1 := if s.lockOk R.TIME.base m then
      let s0 := (s.putBit R.TIME.MT_CTRL 0 on).setPage R.TIME.base (fun p => { p with lockFrom := s.now })
      if on then (s0.clearUnsure true).putFld R.TIME.MT_STAT 7 4 0 else s0.setUnsure 3
    else if on ≠ s.standalone then s.failInc R.TIME.base else s
  if bitN v 1 && s.unsure then s1.reseed else s1

/-- The low and high words of C: nanoseconds, rounded down, and the fraction (R61, assumption log 6). -/
def cNs (c : Int) : Nat := ux 64 (c.fdiv (2 ^ 32))
/-- The fraction word of C. -/
def cFrac (c : Int) : Nat := (c.fmod (2 ^ 32)).toNat

/-- A snapshot at a TCLK edge replaces all snapshot registers at once; with `INCR` as the register holds it, so that it
belongs to the same writes as `ADJ_COUNT` (R65, R66). -/
def State.snapshot (s : State) (e : Nat) : State :=
  let p0 := s.time.ptp0.at e
  let p1 := s.time.ptp1.at e
  let c := s.time.cAt e
  let info := b2n s.sel + 2 * b2n (decide (c ≠ 0)) + s.fld R.TIME.MT_STAT 31 16 * 0x10000
  (((((((((s.setRg R.TIME.SNAP_INFO (BitVec.ofNat 32 info)).setRg64 R.TIME.SNAP_GTC (e * 16)).setRg64
    R.TIME.SNAP_PTP0_SEC (secOf p0)).setRg64 R.TIME.SNAP_PTP0_NSF (nsfOf p0)).setRg64
    R.TIME.SNAP_PTP1_SEC (secOf p1)).setRg64 R.TIME.SNAP_PTP1_NSF (nsfOf p1)).setRg64
    R.TIME.SNAP_C_NS (cNs c)).setRg R.TIME.SNAP_C_FRAC (BitVec.ofNat 32 (cFrac c))).setRg64
    R.TIME.SNAP_INCR0 (s.rg64 (R.PTP.INCR 0))).setRg64 R.TIME.SNAP_INCR1 (s.rg64 (R.PTP.INCR 1))

/-- The period of TRIG = 2 captures (R65). -/
def State.snapPeriod (s : State) : Time := us (nz (s.fld R.TIME.SNAP_CTRL 31 16))

/-- The words of the time unit's pages that follow the clocks (R53, R57, R61, R70). -/
def State.timeLive (s : State) (a : Nat) : Option Word :=
  let e := edgeOf s.now
  let w64 (b v : Nat) : Option Word := if a = b then some (BitVec.ofNat 32 v)
    else if a = b + 4 then some (BitVec.ofNat 32 (v >>> 32)) else none
  let m := s.mt.toNat
  (w64 R.TIME.GTC (floorEdge s.now)).orElse fun _ => (w64 R.TIME.C_NS (cNs (s.time.cAt e))).orElse fun _ =>
  (if a = R.TIME.C_FRAC then some (BitVec.ofNat 32 (cFrac (s.time.cAt e))) else none).orElse fun _ =>
  (w64 R.TIME.MT_SEC (secOf m)).orElse fun _ => (w64 R.TIME.MT_NSF (nsfOf m)).orElse fun _ =>
  (w64 (R.PTP.SEC 0) (secOf (s.time.ptp0.at e))).orElse fun _ =>
  (w64 (R.PTP.NSF 0) (nsfOf (s.time.ptp0.at e))).orElse fun _ =>
  (w64 (R.PTP.SEC 1) (secOf (s.time.ptp1.at e))).orElse fun _ => w64 (R.PTP.NSF 1) (nsfOf (s.time.ptp1.at e))

/-- INCR_WRITE: a complete write of `PTP[n].INCR` (R58). -/
def execIncrWrite (t : Time) (_m : Master) (n : Bool) (v : DWord) (s : State) : Host.Outcome State Fault Refusal :=
  .next ((s.tick t).onPage (R.PTP.base (b2n n)) (fun s => s.writeIncr n v.toNat))
/-- INCR_APPLY (R58). -/
def execIncrApply (t : Time) (n : Bool) (s : State) : Host.Outcome State Fault Refusal := .next ((s.tick t).applyIncr n)
/-- OFFSET_WRITE: a complete write of `PTP[n].OFFSET` (R59). -/
def execOffsetWrite (t : Time) (_m : Master) (n : Bool) (v : DWord) (s : State) : Host.Outcome State Fault Refusal :=
  .next ((s.tick t).onPage (R.PTP.base (b2n n)) (fun s => s.writeOffset n v.toNat))
/-- OFFSET_APPLY (R59). -/
def execOffsetApply (t : Time) (n : Bool) (s : State) : Host.Outcome State Fault Refusal :=
  .next ((s.tick t).applyOffset n)
/-- SLEW_DONE (R62). -/
def execSlewDone (t : Time) (s : State) : Host.Outcome State Fault Refusal :=
  .next ((s.tick t).endSlew (edgeOf (max s.now t)))
/-- STANDALONE_SET (R68). -/
def execStandaloneSet (t : Time) (m : Master) (s : State) : Host.Outcome State Fault Refusal :=
  .next ((s.tick t).onPage R.TIME.base (fun s => s.writeMtCtrl m 1))
/-- STANDALONE_CLEAR (R67). -/
def execStandaloneClear (t : Time) (m : Master) (s : State) : Host.Outcome State Fault Refusal :=
  .next ((s.tick t).onPage R.TIME.base (fun s => s.writeMtCtrl m 0))

/-- A write to `TIME.SNAP_CTRL`: the RW fields, and TAKE captures at the first TCLK edge (R65). -/
def State.writeSnapCtrl (s : State) (m : Master) (v : Nat) : State :=
  let s1 := s.writeReg m R.TIME.base R.TIME.SNAP_CTRL v
  if bitN v 0 then s1.snapshot (edgeOf (ceilEdge s.now)) else s1

/-- SNAPSHOT_TAKE: the write leaves the trigger settings as they are (R65). -/
def execSnapshotTake (t : Time) (m : Master) (s : State) : Host.Outcome State Fault Refusal :=
  .next ((s.tick t).onPage R.TIME.base (fun s => s.writeSnapCtrl m ((s.rg R.TIME.SNAP_CTRL).toNat ||| 1)))

/-- SNAPSHOT_PERIOD: with TRIG = 2, a capture at the latest whole multiple of PERIOD_US (R65). -/
def execSnapshotPeriod (t : Time) (s : State) : Host.Outcome State Fault Refusal :=
  let s := s.tick t
  let due := s.now / s.snapPeriod * s.snapPeriod
  .next (if s.fld R.TIME.SNAP_CTRL 2 1 = 2 ∧ s.time.lastPeriodic < due then
    ({ s with time := { s.time with lastPeriodic := due } }).snapshot (edgeOf due) else s)

end Sys2Proof.Machine
end

