-- ==== Sys2Proof/Machine/Windshaft.lean ====
section
/-! DEFINITION. Windshaft for a single axis: queue, segments, ticks, stops and commands (R300 to R311,
R320 to R323, R328, R329). -/

namespace Sys2Proof.Machine

/-! ### Access -/

/-- The Windshaft state of an axis. -/
def State.aw (s : State) (a : Nat) : WsAx := vget s.ws a
/-- The state with an axis's Windshaft state changed. -/
def State.setAw (s : State) (a : Nat) (f : WsAx → WsAx) : State := { s with ws := vupd s.ws a f }
/-- A group. -/
def State.gr (s : State) (g : Nat) : WsGrp := vget s.grp g
/-- The state with a group changed. -/
def State.setGr (s : State) (g : Nat) (f : WsGrp → WsGrp) : State := { s with grp := vupd s.grp g f }
/-- `AXIS[n].STAT.STATE`: 0 IDLE, 1 ARMED, 2 MOVING, 3 STOPPING, 4 STOPPED, 5 FOLLOWING. -/
def State.axState (s : State) (a : Nat) : Nat := s.fld (R.AXIS.STAT a) 2 0
/-- The state with STATE set. -/
def State.setAxState (s : State) (a v : Nat) : State := s.putFld (R.AXIS.STAT a) 2 0 v
/-- The commanded position, Q48.16. -/
def State.posCmdOf (s : State) (a : Nat) : Int := s.sgn64 (R.AXIS.POS_CMD a)
/-- The commanded velocity, Q40.24. -/
def State.velCmdOf (s : State) (a : Nat) : Int := s.sgn64 (R.AXIS.VEL_CMD a)
/-- The state with the commanded position and velocity set. -/
def State.setPV (s : State) (a : Nat) (p v : Int) : State :=
  (s.setRg64 (R.AXIS.POS_CMD a) (ux 64 p)).setRg64 (R.AXIS.VEL_CMD a) (ux 64 v)
/-- The magnitude of a Q40.24 register. -/
def State.mag (s : State) (r : Nat) : Nat := (s.sgn64 r).natAbs
/-- `CTRL.SRC` is the Wallower. -/
def State.wallSrc (s : State) (a : Nat) : Bool := s.fld (R.AXIS.CTRL a) 1 0 == 1
/-- The enabled group of an axis (R312). -/
def State.groupOf (s : State) (a : Nat) : Option Nat :=
  (List.range 16).find? (fun g => s.bit (R.IGRP.CTRL g) 0 && bitN (s.rg64 (R.IGRP.MEMBERS g)) a)

/-- An event of Windshaft, with its `PG_IRQ` bit (R328, R331). -/
def State.wsPost (s : State) (a code : Nat) (stamp : Time) (payload : Nat) : State :=
  let bits := match code with
    | 0x02 => 1 | 0x03 => 2 | 0x04 => 4 | 0x0C => 8 | 0x06 => 16 | 0x07 => 16 | 0x08 => 32 | 0x09 => 32 | _ => 0
  let s1 := if bits = 0 then s else s.irq (R.AXIS.base a) bits
  s1.post (axisSrc a) code stamp payload

/-! ### The queue (R305 to R307) -/

/-- Entries held (R305). -/
def State.qLevel (s : State) (a : Nat) : Nat :=
  (s.fld (R.AXIS.Q_WR a) 9 0 + 1024 - s.fld (R.AXIS.Q_RD a) 9 0) % 1024

/-- The address of word `w` of the entry that a count designates (R305). -/
def segAddr (a count w : Nat) : Nat := 0x3200000 + a * 0x8000 + count % 512 * 0x40 + 4 * w

/-- Word `w` of an entry. -/
def State.segW (s : State) (a count w : Nat) : Nat := (s.ldw (segAddr a count w)).toNat
/-- Words `w` and `w + 1` of an entry as a signed number. -/
def State.segD (s : State) (a count w : Nat) : Int := sx 64 (s.segW a count w + s.segW a count (w + 1) * 2 ^ 32)

/-- A write of `Q_WR` (R305). -/
def State.writeQwr (s : State) (a v : Nat) : State :=
  let n := (v % 1024 + 1024 - s.fld (R.AXIS.Q_RD a) 9 0) % 1024
  if n ≤ 512 ∧ s.qLevel a ≤ n then s.setRg (R.AXIS.Q_WR a) (BitVec.ofNat 32 (v % 1024))
  else s.cfgRefused (R.AXIS.base a)

/-- `n` entries consumed. -/
def State.qDrop (s : State) (a n : Nat) : State :=
  s.setRg (R.AXIS.Q_RD a) (BitVec.ofNat 32 ((s.fld (R.AXIS.Q_RD a) 9 0 + n) % 1024))

/-- The axis's limit registers in the order of the entry's words. -/
def limReg (a k : Nat) : Nat := R.AXIS.VMAX a + 8 * k

/-- A limit in force for a segment, Q40.24 (R307). -/
def State.limOf (s : State) (a : Nat) (g : Seg) (k : Nat) : Nat :=
  let ax := s.mag (limReg a k)
  let v := g.lims.getD k 0
  if v = 0 then ax else min v ax

/-- The limits in force: vm, am, dm and jm; none when one of them is 0 (R307, R309). -/
def State.limits (s : State) (a : Nat) (g : Seg) : Option (Rat × Rat × Rat × Option Rat) :=
  let l (k : Nat) : Nat := s.limOf a g k
  if l 0 = 0 ∨ l 1 = 0 ∨ l 2 = 0 ∨ (g.jerk ∧ l 3 = 0) then none
  else some (ofVel (l 0), ofVel (l 1), ofVel (l 2), if g.jerk then some (ofVel (l 3)) else none)

/-- The limit magnitudes of an entry's words 4 to 11. -/
def State.segLims (s : State) (a count : Nat) : List Nat :=
  (List.range 4).map (fun k => (s.segD a count (4 + 2 * k)).natAbs)

/-- The entry that a count designates, read with the start position `p`, and the reason of SEG_ERR, 0 for
none (R306, R307). -/
def State.readSeg (s : State) (a count : Nat) (p : Int) : Seg × Nat :=
  let w := s.segW a count 0
  let kind := bitsN w 3 0
  let g0 : Seg := { kind := kind, tag := bitsN w 31 16, event := bitN w 7, blend := bitN w 5, jerk := bitN w 6,
                    lims := s.segLims a count, vend := (s.segD a count 12).natAbs }
  let t := s.segD a count 2
  let bad2 := bitsN w 15 8 ≠ 0 ∨ s.segW a count 1 ≠ 0 ∨ s.segW a count 14 ≠ 0 ∨ s.segW a count 15 ≠ 0
  match kind with
  | 1 =>
    let g := { g0 with target := satI 64 (if bitN w 4 then p + t else t) }
    (g, if bad2 then 2 else if (s.limits a g).isNone then 3 else 0)
  | 2 =>
    let vm : Int := s.limOf a g0 0
    let g := { g0 with target := clampI (-vm) vm t }
    (g, if bad2 then 2 else if (s.limits a g).isNone then 3 else 0)
  | 3 =>
    let g := { g0 with target := s.segW a count 2 }
    (g, if bad2 then 2 else if s.segW a count 2 = 0 then 4 else 0)
  | 6 => (g0, if bad2 then 2 else 0)
  | _ => (g0, 1)

/-! ### Stops (R320, R321) -/

/-- The stop deceleration in force, Q40.24 (R320). -/
def State.stopDecOf (s : State) (a : Nat) : Nat :=
  let d := s.mag (R.AXIS.STOP_DEC a)
  if d = 0 then s.mag (R.AXIS.DMAX a) else d

/-- Windshaft reports standstill: to the slot's protection, or to the Brakewheel (R169, R321, R466). -/
def State.standstill (s : State) (a : Nat) : State :=
  match s.slotOf a with
  | some n => s.slotStandstill n
  | none => { s with bw := { s.bw with still := s.bw.still ||| 2 ^ a } }

/-- The axis is at rest after a stop (R321), or after a disengagement (R344). -/
def State.wsStopped (s : State) (a : Nat) (tk : Time) : State :=
  let w := s.aw a
  let s1 := (s.setPV a (s.posCmdOf a) 0).setAw a (fun w => { w with prof := none, acc := 0, holding := false, disengaging := false })
  if w.disengaging then ((s1.setAxState a 0).setRg64 (R.AXIS.REMAIN a) 0).standstill a
  else
    let kind := match w.seg with | some g => g.kind | none => 0
    let rem := match w.seg with | some g => if g.kind = 1 then satI 64 (g.target - s.posCmdOf a) else 0 | none => 0
    let s2 := ((s1.setAxState a 4).putBit (R.AXIS.STAT a) 3 (kind == 2)).setRg64 (R.AXIS.REMAIN a) (ux 64 rem)
    (s2.wsPost a 0x04 tk (s.fld (R.AXIS.STAT a) 7 6 + (if rem = 0 then 0 else 4))).standstill a

/-- A stop begins at a tick from the present position, velocity and acceleration (R320). -/
def State.wsBeginStop (s : State) (a : Nat) (tk : Time) (cause dec jerk : Nat) : State :=
  let w := s.aw a
  let p := planStop (ofPos (s.posCmdOf a)) (ofVel (s.velCmdOf a)) w.acc (ofVel dec)
    (if jerk = 0 then none else some (ofVel jerk))
  let s1 := ((s.setAxState a 3).putFld (R.AXIS.STAT a) 7 6 cause).setAw a (fun w => { w with
    prof := some p, t0 := tk, holding := false, stopDec := dec, stopJerk := jerk })
  let s2 := if dec = 0 then s1.wsPost a 0x0C tk (s.fld (R.AXIS.TAG a) 15 0 + 6 * 2 ^ 16) else s1
  if p.total = 0 then s2.wsStopped a tk else s2

/-- A stop on the axis's own ramp (R320). -/
def State.wsStop (s : State) (a : Nat) (tk : Time) (cause : Nat) : State :=
  s.wsBeginStop a tk cause (s.stopDecOf a) (s.mag (R.AXIS.STOP_JERK a))

/-- A stop request waits for the first tick at least 100 ns later; a fault replaces the cause (R320). -/
def State.stopRequest (s : State) (a cause : Nat) : State :=
  s.setAw a (fun w => { w with stopAt := match w.stopAt with
    | some (t, c) => some (t, max c cause)
    | none => some (s.now + ns 100, cause) })

/-! ### Segments (R307 to R311) -/

/-- The end speed of a position move with BLEND that reaches its target in the direction `dir`, and whether the
look-ahead allowed it (R311). -/
def State.blendSpeed (s : State) (a : Nat) (g : Seg) (dir : Int) : Rat × Bool :=
  if s.qLevel a = 0 then (0, false) else
  let nx := s.readSeg a (s.fld (R.AXIS.Q_RD a) 9 0) g.target
  let d1 := nx.1.target - g.target
  if nx.2 ≠ 0 ∨ nx.1.kind ≠ 1 ∨ dir * d1 ≤ 0 then (0, false) else
  match s.limits a nx.1 with
  | none => (0, false)
  | some (vm, _, dm, jm) =>
    let vend := ofVel g.vend
    let cap := if vend < vm then vend else vm
    (largest (fun x => decide (stopDistance x dm jm ≤ ratAbs (ofPos d1))) 0 cap, true)

/-- The axis's completed-segment count advances (R329). -/
def State.wsCount (s : State) (a : Nat) : State :=
  s.putFld (R.AXIS.TAG a) 31 16 (s.fld (R.AXIS.TAG a) 31 16 + 1)

/-- A move, velocity move or dwell starts at a tick (R308 to R311). -/
def State.wsPlan (s : State) (a : Nat) (tk : Time) (g : Seg) : State :=
  let s1 := (s.setAxState a 2).setAw a (fun w => { w with seg := some g, t0 := tk, holding := false })
  if g.kind = 3 then
    (s1.setPV a (s.posCmdOf a) 0).setAw a (fun w => { w with prof := none, acc := 0 })
  else
    let s2 := s1.setRg64 (R.AXIS.TARGET a) (ux 64 g.target)
    match s.limits a g with
    | none => s2
    | some (vm, am, dm, jm) =>
      if g.kind = 2 then
        s2.setAw a (fun w => { w with prof := some (planVelocity (ofPos (s.posCmdOf a)) (ofVel (s.velCmdOf a)) (ofVel g.target) am dm jm) })
      else
        let dir := finalDir (ofPos (s.posCmdOf a)) (ofVel (s.velCmdOf a)) (ofPos g.target) dm jm
        let b := if g.blend then s.blendSpeed a g dir else (0, true)
        let m := planMove (ofPos (s.posCmdOf a)) (ofVel (s.velCmdOf a)) (ofPos g.target) vm am dm jm b.1
        let s3 := s2.setAw a (fun w => { w with prof := some m.1 })
        let s4 := if g.blend && !b.2 && decide (0 < g.vend) then s3.wsPost a 0x08 tk g.tag else s3
        if m.2 then s4.wsPost a 0x09 tk g.tag else s4

/-- The end position and velocity of the motion in progress hold at its final tick (R309). -/
def State.wsFinal (s : State) (a : Nat) (tk : Time) : State :=
  match (s.aw a).prof with
  | some p =>
    let e := p.at (secs (tk - (s.aw a).t0))
    (s.setPV a (posQ e.1) (velQ e.2.1)).setAw a (fun w => { w with acc := e.2.2 })
  | none => s

/-- SEG_DONE of the segment in progress (R306, R308). -/
def State.wsSegDone (s : State) (a : Nat) (tk : Time) : State :=
  match (s.aw a).seg with
  | none => s
  | some g =>
    let s1 := (s.wsFinal a tk).wsCount a
    let s2 := if g.event then s1.wsPost a 0x02 tk g.tag else s1
    if g.kind = 2 then s2.setAw a (fun w => { w with holding := true }) else s2

/-- The queue is empty when a segment would start: a velocity move goes on, a completed move or dwell ends at
rest with QUEUE_EMPTY, and a start leaves the axis at rest (R308). -/
def State.wsEmpty (s : State) (a : Nat) (tk : Time) : State :=
  let w := s.aw a
  if w.holding then s
  else
    let s1 := ((s.setPV a (s.posCmdOf a) 0).setAxState a 0).setAw a (fun w => { w with seg := none, prof := none, acc := 0 })
    if w.seg.isSome then s1.wsPost a 0x03 tk 0 else s1

/-- A malformed head segment: removed, SEG_ERR, and a moving axis stops (R307). -/
def State.wsMalformed (s : State) (a : Nat) (tk : Time) (tag reason : Nat) : State :=
  let s1 := ((s.wsPost a 0x0C tk (tag + reason * 2 ^ 16)).setRg64 (R.AXIS.REMAIN a) 0).setAw a (fun w =>
    { w with seg := none, prof := none, holding := false })
  if s.velCmdOf a ≠ 0 then s1.wsStop a tk 2
  else (s1.setAxState a 0).setAw a (fun w => { w with acc := 0 })

/-- The motion in progress has reached its end by the tick (R308, R309). -/
def State.wsEnded (s : State) (a : Nat) (tk : Time) : Bool :=
  let w := s.aw a
  match w.prof with
  | some p => decide (p.total ≤ secs (tk - w.t0))
  | none => match w.seg with
    | some g => decide (w.t0 + us g.target.toNat ≤ tk)
    | none => false

/-- Head segments start at a tick until one takes time (R307, R308). -/
def State.wsRun (a : Nat) (tk : Time) : Nat → State → State
  | 0, s => s
  | fuel + 1, s =>
    if s.qLevel a = 0 then s.wsEmpty a tk else
    let r := s.readSeg a (s.fld (R.AXIS.Q_RD a) 9 0) (s.posCmdOf a)
    let inj := s.bit (R.PG_ERRINJ (R.AXIS.base a)) 16
    let reason := if inj then 1 else r.2
    let s1 := ((if inj then s.putBit (R.PG_ERRINJ (R.AXIS.base a)) 16 false else s).qDrop a 1).putFld
      (R.AXIS.TAG a) 15 0 r.1.tag
    if reason ≠ 0 then s1.wsMalformed a tk r.1.tag reason
    else
      let s2 := if r.1.event then s1.wsPost a 0x01 tk (r.1.tag + r.1.kind * 2 ^ 16) else s1
      if r.1.kind = 6 then State.wsRun a tk fuel (s2.wsCount a)
      else
        let s3 := s2.wsPlan a tk r.1
        if s3.wsEnded a tk then State.wsRun a tk fuel (s3.wsSegDone a tk) else s3

/-- The bound of `wsRun`: more entries than a queue can hold. -/
def runFuel : Nat := 1024

/-! ### The tick (R301 to R304, R320 to R322) -/

/-- The primary port of an axis for the tick, an `FB_SEL` that takes effect there included (R114). -/
def State.primaryAt (s : State) (a : Nat) (tk : Time) : Option Nat :=
  let f := vget s.fbSel a
  (match (f.pend.filter (fun (x : Word × Time) => decide (x.2 ≤ tk))).getLast? with
   | some (w, _) => { f with sel := w }
   | none => f).primary

/-- P is taken from the primary port, with V = 0 (R304). -/
def State.wsInit (s : State) (a : Nat) (tk : Time) : State :=
  let smp := (s.primaryAt a tk).map (fun n => s.fbSample n tk)
  match smp with
  | some (p, _, _, true) => (s.setPV a p 0).setAw a (fun w => { w with invalid := false, acc := 0 })
  | _ => ((s.setPV a (s.posCmdOf a) 0).setAw a (fun w => { w with invalid := true, acc := 0 })).wsPost a 0x0D tk 0

/-- The first tick after RUN, and SETPOS and FBPOS that wait (R304, R323). -/
def State.wsPrelude (s : State) (a : Nat) (tk : Time) : State :=
  let w := s.aw a
  let s1 := if w.initDue then
      let s0 := s.setAw a (fun w => { w with initDue := false, invalid := false, prof := none, seg := none, holding := false, acc := 0 })
      let s0 := if s.axState a = 4 ∨ s.axState a = 1 then s0 else s0.setAxState a 0
      if s.bit (R.AXIS.CTRL a) 3 then s0.wsInit a tk else s0.setPV a (s.posCmdOf a) 0
    else s
  match w.setReq with
  | some false => (s1.setPV a (s1.sgn64 (R.AXIS.SETPOS_VAL a)) 0).setAw a (fun w => { w with setReq := none, invalid := false, acc := 0 })
  | some true => (s1.setAw a (fun w => { w with setReq := none })).wsInit a tk
  | none => s1

/-- The motion in progress advances to the tick (R308, R309, R320). -/
def State.wsEval (s : State) (a : Nat) (tk : Time) : State :=
  let st := s.axState a
  if st ≠ 2 ∧ st ≠ 3 then s else
  let s1 := s.wsFinal a tk
  if !s1.wsEnded a tk then s1
  else if st = 3 then s1.wsStopped a tk
  else if (s.aw a).holding then State.wsRun a tk runFuel s1
  else State.wsRun a tk runFuel (s1.wsSegDone a tk)

/-- The slot's protection asks for a stop since `t` (R169, R320). -/
def State.slotStop3 (s : State) (a : Nat) : Option Time :=
  match s.slotOf a with
  | some n => if s.slotLevel n = 3 then (s.ps n).stopAt else none
  | none => none

/-- A stop that is due at the tick: a request, or L3 of the slot, with its cause (R320). -/
def State.stopDue (s : State) (a : Nat) (tk : Time) : Option Nat :=
  let l3 := match s.slotStop3 a with | some t => decide (t + ns 100 ≤ tk) | none => false
  if l3 then some 2 else
  match (s.aw a).stopAt with
  | some (t, c) => if t ≤ tk then some c else none
  | none => none

/-- The stops of R320 at a tick. -/
def State.wsStops (s : State) (a : Nat) (tk : Time) : State :=
  match s.stopDue a tk with
  | none => s
  | some c =>
    let s1 := s.setAw a (fun w => { w with stopAt := none })
    match s.axState a with
    | 2 => s1.wsStop a tk c
    | 3 =>
      if c = 2 ∧ s.fld (R.AXIS.STAT a) 7 6 ≠ 2 then s1.wsBeginStop a tk 2 (s.aw a).stopDec (s.aw a).stopJerk else s1
    | _ => if c = 2 then s1.standstill a else s1

/-- START at a tick: START is posted and the head segment begins (R318, R323). -/
def State.wsStart (s : State) (a : Nat) (tk : Time) (set_ : Nat) (shared : Bool) : State :=
  let s1 := s.wsPost a 0x06 tk (set_ + b2n shared * 16 + b2n (s.qLevel a == 0) * 32)
  let s2 := (s1.setAxState a 0).setAw a (fun w => { w with seg := none, prof := none, holding := false, startAt := none, sharedAt := none })
  State.wsRun a tk runFuel (s2.setRg64 (R.AXIS.REMAIN a) 0)

/-- A RESUME at a tick: the interrupted segment with a fresh plan, then the queue (R322). -/
def State.wsResume (s : State) (a : Nat) (tk : Time) : State :=
  let s1 := ((s.setAw a (fun w => { w with resumeAt := none })).wsPost a 0x05 tk (s.fld (R.AXIS.TAG a) 15 0)).putBit
    (R.AXIS.STAT a) 3 false
  let s2 := s1.setRg64 (R.AXIS.REMAIN a) 0
  match (s.aw a).seg with
  | none => State.wsRun a tk runFuel (s2.setAxState a 0)
  | some g =>
    if g.kind ≠ 3 ∧ (s.limits a g).isNone then s2.wsMalformed a tk g.tag 3
    else
      let s3 := s2.wsPlan a tk g
      if s3.wsEnded a tk then State.wsRun a tk runFuel (s3.wsSegDone a tk) else s3

/-- A start set's member has begun: `SS_TS` takes t_s, the set's STATE becomes 3, and it has no members any more (R318). -/
def State.setStarted (s : State) (n : Nat) : State :=
  if s.fld (R.IGRP.SS_STAT n) 2 0 = 2 then
    { ((s.putFld (R.IGRP.SS_STAT n) 2 0 3).setRg64 (R.IGRP.SS_TS n) (vget s.sset n).ts).irq (R.IGRP.base n) 2 with
      sset := vupd s.sset n (fun _ => {}) }
  else s

/-- The starts and resumes that are due at a tick. -/
def State.wsStarts (s : State) (a : Nat) (tk : Time) : State :=
  let w := s.aw a
  let s1 := match w.startAt with
    | some t =>
      if t ≤ tk ∧ s.axState a = 0 then s.wsStart a tk (s.fld (R.AXIS.CTRL a) 7 4) false else s
    | none => s
  let s2 := match w.sharedAt with
    | some (t, n) => if t ≤ tk then (s1.wsStart a tk n true).setStarted n else s1
    | none => s1
  match w.resumeAt with
  | some t => if t ≤ tk ∧ s2.axState a = 4 then s2.wsResume a tk else s2
  | none => s2

/-- The position that the plan in progress gives for a coming instant (R302). -/
def State.wsPlanned (s : State) (a : Nat) (t : Time) : Int :=
  let w := s.aw a
  match w.prof with
  | some p => if s.axState a = 2 ∨ s.axState a = 3 then posQ (p.at (secs (t - w.t0))).1 else s.posCmdOf a
  | none => s.posCmdOf a

/-- The position of the next tick (R302). -/
def State.wsNextPos (s : State) (a : Nat) (tk : Time) : Int := s.wsPlanned a (s.innerAhead a tk (s.outer a))

/-- The tick of an axis is taken: its position, its velocity and the position of its next tick stand from here on (R302). -/
def State.markTick (s : State) (a : Nat) (tk : Time) (pn : Option Int) : State :=
  s.setAw a (fun w => { w with
    tick := some tk, pn := pn, past := (⟨tk, s.posCmdOf a, s.velCmdOf a, pn⟩ :: w.past).take 16 })

/-- One tick of an axis that Windshaft drives alone. -/
def State.wsTick (s : State) (a : Nat) (tk : Time) : State :=
  let s1 := (((s.wsPrelude a tk).wsEval a tk).wsStops a tk).wsStarts a tk
  s1.markTick a tk (some (s1.wsNextPos a tk))

/-- Position and velocity `d` after a tick, never beyond the next tick's position where that is known (R302). -/
def extrapolate (p v : Int) (pn : Option Int) (d : Nat) : Int × Int :=
  let x := satI 64 (roundHalfEven (p * 2 ^ 8 * 16000000000 + v * (d : Int)) (2 ^ 8 * 16000000000))
  (match pn with
   | some q => clampI (min p q) (max p q) x
   | none => x, v)

/-- Frame words 20 to 23 of an axis for instant `t`: position and velocity (R302), those of an earlier tick for an
instant before the latest one (R356). Where the next tick's position is not known, the extrapolation stands unclamped
(assumption log 50). -/
def State.cmdAt (s : State) (a : Nat) (t : Time) : Int × Int :=
  let w := s.aw a
  let p := s.posCmdOf a
  let v := s.velCmdOf a
  match w.tick with
  | some tk =>
    if t < tk then
      (match w.past.find? (fun x => decide (x.at_ ≤ t)) with
       | some x => extrapolate x.p x.v x.pn (t - x.at_)
       | none => (p, v))
    else if !s.axRun a then (p, v) else extrapolate p v w.pn (t - tk)
  | none => (p, v)

/-- The axis had a tick at or before `t` (R356); ticks older than the 16 kept count. -/
def State.tickBefore (s : State) (a : Nat) (t : Time) : Bool :=
  let l := (s.aw a).past
  l.any (fun x => decide (x.at_ ≤ t)) || decide (16 ≤ l.length)

/-- The ticks of an axis end: from here on its words hold (R301). -/
def State.ticksEnd (s : State) (a : Nat) : State :=
  let p := s.posCmdOf a
  s.setAw a (fun w => if w.past.isEmpty then w else
    { w with past := (⟨s.now, p, s.velCmdOf a, some p⟩ :: w.past).take 16 })

/-- The first coming tick of some axes, at which an event of theirs is stamped; now, where none has one (R328, R348,
assumption log 165). -/
def State.eventTick (s : State) (axes : List Nat) : Time :=
  (axes.foldl (fun (m : Option Time) a => match m, s.tickFrom a s.now with
    | some x, some y => some (min x y)
    | none, y => y
    | x, none => x) none).getD s.now

/-! ### Commands (R322, R323) -/

/-- RESUME is permitted by the levels: slot below L3 and no Brakewheel request on the axis (R322). -/
def State.resumeOk (s : State) (a : Nat) : Bool :=
  match s.slotOf a with
  | some n => decide (s.slotLevel n < 3) && s.fld (R.PSP.BW_REQ n) 2 0 == 0
  | none => decide (bitsN (s.rg (R.BRAKE.AXLVL (a / 8))).toNat (4 * (a % 8) + 2) (4 * (a % 8)) < 2)

/-- STATE is IDLE or STOPPED. -/
def State.atRest (s : State) (a : Nat) : Bool := s.axState a == 0 || s.axState a == 4

/-- START of an axis alone (R301, R304, R312, R320, R323, R332). -/
def State.axStart (s : State) (a : Nat) : State :=
  if s.axState a = 0 ∧ s.axRun a ∧ (s.groupOf a).isNone ∧ !(s.aw a).invalid ∧ s.stopDecOf a ≠ 0 ∧ !s.wallSrc a then
    s.setAw a (fun w => { w with startAt := some (w.startAt.getD (s.now + us 1)) })
  else s.cmdRefused (R.AXIS.base a)

/-- RESUME of an axis alone (R320, R322); for a Wallower axis the tick re-engages the link (R345). -/
def State.axResume (s : State) (a : Nat) : State :=
  if s.axState a = 4 ∧ s.axRun a ∧ s.resumeOk a ∧ s.stopDecOf a ≠ 0 then
    s.setAw a (fun w => { w with resumeAt := some s.now })
  else s.cmdRefused (R.AXIS.base a)

/-- ABANDON of an axis alone (R323). -/
def State.axAbandon (s : State) (a : Nat) : State :=
  if s.axState a = 4 then
    (((s.setAxState a 0).setRg64 (R.AXIS.REMAIN a) 0).putBit (R.AXIS.STAT a) 3 false).setAw a (fun w =>
      { w with seg := none, holding := false, resumeAt := none })
  else s.cmdRefused (R.AXIS.base a)

/-- FLUSH of an axis (R323). -/
def State.axFlush (s : State) (a : Nat) : State :=
  if s.atRest a then s.setRg (R.AXIS.Q_RD a) (s.rg (R.AXIS.Q_WR a)) else s.cmdRefused (R.AXIS.base a)

/-- SETPOS (R323). -/
def State.axSetpos (s : State) (a : Nat) : State :=
  if s.atRest a then s.setAw a (fun w => { w with setReq := some false, invalid := false }) else s.cmdRefused (R.AXIS.base a)

/-- FBPOS (R304, R323). -/
def State.axFbpos (s : State) (a : Nat) : State :=
  let ok := match (vget s.fbSel a).primary with
    | some n => (s.fbSample n s.now).2.2.2
    | none => false
  if s.atRest a && ok then s.setAw a (fun w => { w with setReq := some true, invalid := false }) else s.cmdRefused (R.AXIS.base a)

end Sys2Proof.Machine
end

