-- ==== Sys2Proof/Machine/Groups.lean ====
section
/-! DEFINITION. Interpolation groups (R312 to R316), their stops and commands (R320 to R323), and
shared starts (R317 to R319, R330). -/

namespace Sys2Proof.Machine

/-! ### Access -/

/-- The member axes of a group, in ascending order (R312). -/
def State.members (s : State) (g : Nat) : List Nat :=
  (List.range 64).filter (fun a => bitN (s.rg64 (R.IGRP.MEMBERS g)) a)
/-- `IGRP[g].CTRL.QAXIS`. -/
def State.qaxis (s : State) (g : Nat) : Nat := s.fld (R.IGRP.CTRL g) 13 8
/-- `IGRP[g].STAT.STATE`. -/
def State.grState (s : State) (g : Nat) : Nat := s.fld (R.IGRP.STAT g) 2 0
/-- The group's STATE and that of its members set. -/
def State.setGrState (s : State) (g v : Nat) : State :=
  (s.members g).foldl (fun s a => if (s.gr g).broken = some a then s else s.setAxState a v) (s.putFld (R.IGRP.STAT g) 2 0 v)
/-- The lead progress, Q48.16. -/
def State.grS (s : State) (g : Nat) : Int := s.sgn64 (R.IGRP.S g)
/-- Δmax, Q48.16. -/
def State.grMax (s : State) (g : Nat) : Nat := s.rg64 (R.IGRP.SMAX g)

/-! ### Group segments (R313 to R315) -/

/-- Target entries of a group of `m` members. -/
def targetEntries (m : Nat) : Nat := (m + 3) / 4

/-- How many of the next `n` entries after the head are queued target entries, in order. -/
def State.targetsThere (s : State) (q c n : Nat) : Nat :=
  ((List.range n).takeWhile (fun i => decide (i + 1 < s.qLevel q) && bitsN (s.segW q (c + 1 + i) 0) 3 0 == 5)).length

/-- A group segment at the head of the group's queue: the segment, the reason of SEG_ERR, and the entries
it takes (R307, R313). -/
def State.readGroupSeg (s : State) (g : Nat) : Seg × Nat × Nat :=
  let q := s.qaxis g
  let c := s.fld (R.AXIS.Q_RD q) 9 0
  let ms := s.members g
  let w := s.segW q c 0
  let n := targetEntries ms.length
  let there := s.targetsThere q c n
  let rel := bitN w 4
  let tg : List Int := ms.mapIdx (fun i a =>
    let t := s.segD q (c + 1 + i / 4) (2 + 2 * (i % 4))
    satI 64 (if rel then s.posCmdOf a + t else t))
  let seg : Seg := { kind := bitsN w 3 0, tag := bitsN w 31 16, event := bitN w 7, blend := bitN w 5, jerk := bitN w 6,
                     lims := s.segLims q c, targets := tg }
  let bad2 := bitsN w 15 8 ≠ 0 ∨ s.segW q c 1 ≠ 0 ∨ s.segW q c 14 ≠ 0 ∨ s.segW q c 15 ≠ 0 ∨
    (List.range there).any (fun i => bitsN (s.segW q (c + 1 + i) 0) 15 8 ≠ 0 || s.segW q (c + 1 + i) 1 ≠ 0)
  if seg.kind ≠ 4 then (seg, 1, 1)
  else (seg, if there < n then 5 else if bad2 then 2 else 0, 1 + there)

/-- A path limit in Q40.24 from a limit of each member: the smallest of L_i · Δmax / |Δ_i| (R314). -/
def pathMin (shares : List Share) (dmax : Nat) (l : Nat → Nat) : Option Rat :=
  shares.foldl (fun (acc : Option Rat) (x : Share) =>
    if x.delta = 0 then acc
    else
      let num : Nat := l x.axis * dmax
      let v : Rat := (num : Rat) / (x.delta.natAbs : Rat)
      some (match acc with
        | some w => if v < w then v else w
        | none => v)) none

/-- A path limit with the group's cap and the header's limit (R314). -/
def State.pathLimit (s : State) (g : Nat) (seg : Seg) (k : Nat) : Rat :=
  let gr := s.gr g
  let base := (pathMin gr.shares (s.grMax g) (fun a => s.mag (limReg a k))).getD 0
  let cap (x : Rat) (c : Nat) : Rat := if c ≠ 0 ∧ (c : Rat) < x then (c : Rat) else x
  cap (cap base (s.mag (R.IGRP.VMAX g + 8 * k))) (seg.lims.getD k 0) / (2 ^ 24 : Nat)

/-- Δ_i, the lead and Δmax at the start of a group segment (R314). -/
def State.setShares (s : State) (g : Nat) (targets : List Int) : State :=
  let sh : List Share := (s.members g).zipWith (fun a t => ⟨a, s.posCmdOf a, t - s.posCmdOf a⟩) targets
  let dmax := sh.foldl (fun m x => max m x.delta.natAbs) 0
  let lead := ((sh.find? (fun x => x.delta.natAbs == dmax)).map (·.axis)).getD 0
  let s1 := ((s.setGr g (fun r => { r with shares := sh })).setRg64 (R.IGRP.SMAX g) dmax).setRg64 (R.IGRP.S g) 0
  let s2 := (s.members g).foldl (fun s a => s.putBit (R.AXIS.STAT a) 5 (a == lead)) s1
  (((s.members g).zip targets).foldl (fun s x => s.setRg64 (R.AXIS.TARGET x.1) (ux 64 x.2)) s2).putFld
    (R.IGRP.STAT g) 13 8 lead

/-- The position of a member at the progress `p`: its share of it, exactly (R315). -/
def Share.at (x : Share) (dmax : Nat) (p : Int) : Int := if dmax = 0 then x.p0 + x.delta else x.p0 + (x.delta * p).fdiv dmax
/-- The velocity of a member at the lead's velocity (R315). -/
def Share.vel (x : Share) (dmax : Nat) (v : Int) : Int := if dmax = 0 then 0 else roundHalfEven (v * x.delta) dmax

/-- The members that follow the lead take their values from the progress (R315). -/
def State.applyShares (s : State) (g : Nat) (only : Option Nat) : State :=
  let r := s.gr g
  r.shares.foldl (fun s x =>
    if r.broken = some x.axis ∨ (only.isSome ∧ only ≠ some x.axis) then s
    else s.setPV x.axis (x.at (s.grMax g) (s.grS g)) (x.vel (s.grMax g) r.vLead)) s

/-- The lead's profile at a tick gives the progress and the lead's velocity. -/
def State.grProgress (s : State) (g : Nat) (tk : Time) : State :=
  match (s.gr g).prof with
  | none => s
  | some p =>
    let e := p.at (secs (tk - (s.gr g).t0))
    (s.setRg64 (R.IGRP.S g) (ux 64 (clampI 0 (s.grMax g) (posQ e.1)))).setGr g (fun r => { r with vLead := velQ e.2.1, acc := e.2.2 })

/-- The profile of the lead from its present progress to Δmax (R314, R322); none when a limit is 0. -/
def State.grPlan (s : State) (g : Nat) (tk : Time) (seg : Seg) : Option State :=
  let dmax := s.grMax g
  let l (k : Nat) : Rat := s.pathLimit g seg k
  if dmax = 0 then
    some (s.setGr g (fun r => { r with seg := some seg, prof := some {}, t0 := tk, vLead := 0, acc := 0 }))
  else if l 0 = 0 ∨ l 1 = 0 ∨ l 2 = 0 ∨ (seg.jerk ∧ l 3 = 0) then none
  else
    let m := planMove (ofPos (s.grS g)) 0 (ofPos dmax) (l 0) (l 1) (l 2) (if seg.jerk then some (l 3) else none) 0
    some ((s.setGr g (fun r => { r with seg := some seg, prof := some m.1, t0 := tk, vLead := 0, acc := 0 })).setRg64
      (R.IGRP.VPATH g) (ux 64 (velQ (l 0))))

/-- The lead's profile has ended by the tick. -/
def State.grEnded (s : State) (g : Nat) (tk : Time) : Bool :=
  match (s.gr g).prof with
  | some p => decide (p.total ≤ secs (tk - (s.gr g).t0))
  | none => true

/-! ### Stops (R316, R320, R321) -/

/-- A member at rest after a group's stop (R321). -/
def State.grMemberStopped (s : State) (g a : Nat) (tk : Time) : State :=
  let i := ((s.members g).takeWhile (fun x => x != a)).length
  let rem : Int := match (s.gr g).seg with
    | some seg => satI 64 (seg.targets.getD i (s.posCmdOf a) - s.posCmdOf a)
    | none => 0
  let s1 := (((s.setPV a (s.posCmdOf a) 0).setAxState a 4).putBit (R.AXIS.STAT a) 3 false).setRg64 (R.AXIS.REMAIN a) (ux 64 rem)
  (s1.wsPost a 0x04 tk (s.fld (R.AXIS.STAT a) 7 6 + (if rem = 0 then 0 else 4))).standstill a

/-- EN clears: the members are no longer grouped (R316). -/
def State.grDisable (s : State) (g : Nat) : State :=
  let s1 := (s.members g).foldl (fun s a => (s.putBit (R.AXIS.STAT a) 4 false).putBit (R.AXIS.STAT a) 5 false) s
  ((s1.putBit (R.IGRP.CTRL g) 0 false).putFld (R.IGRP.STAT g) 2 0 0).setGr g (fun _ => {})

/-- The whole group is at rest after a stop (R321). -/
def State.grStopped (s : State) (g : Nat) (tk : Time) : State :=
  let s1 := (s.setGr g (fun r => { r with prof := none, vLead := 0, acc := 0 })).putFld (R.IGRP.STAT g) 2 0 4
  let s2 := (s.members g).foldl (fun s a => if (s.gr g).broken = some a then s else s.grMemberStopped g a tk) s1
  if (s.gr g).broken.isSome then s2.grDisable g else s2

/-- The group's stop begins at a tick with a path ramp (R320). -/
def State.grBeginStop (s : State) (g : Nat) (tk : Time) (cause : Nat) (dec jerk : Rat) : State :=
  let r := s.gr g
  let p := planStop (ofPos (s.grS g)) (ofVel r.vLead) r.acc dec (if jerk = 0 then none else some jerk)
  let s1 := (s.setGrState g 3).setGr g (fun r => { r with prof := some p, t0 := tk, stopDec := dec, stopJerk := jerk, stopAt := none })
  let s2 := (s.members g).foldl (fun s a => if r.broken = some a then s else s.putFld (R.AXIS.STAT a) 7 6 cause) s1
  let zero := (s.members g).filter (fun a => s.stopDecOf a == 0)
  let s3 := if dec = 0 then zero.foldl (fun s a => s.wsPost a 0x0C tk (s.fld (R.AXIS.TAG a) 15 0 + 6 * 2 ^ 16)) s2 else s2
  if p.total = 0 ∧ r.broken.isNone then s3.grStopped g tk else s3

/-- The path ramp of the members' `STOP_DEC` and `STOP_JERK` (R320). -/
def State.grStopLimits (s : State) (g : Nat) : Rat × Rat :=
  let sh := (s.gr g).shares
  let dmax := s.grMax g
  if (s.members g).any (fun a => s.stopDecOf a == 0) then (0, 0) else
  let withJerk := sh.filter (fun x => s.mag (R.AXIS.STOP_JERK x.axis) ≠ 0)
  ((pathMin sh dmax s.stopDecOf).getD 0 / (2 ^ 24 : Nat),
   (pathMin withJerk dmax (fun a => s.mag (R.AXIS.STOP_JERK a))).getD 0 / (2 ^ 24 : Nat))

/-- A stop of the group on the members' ramps. -/
def State.grStop (s : State) (g : Nat) (tk : Time) (cause : Nat) : State :=
  let l := s.grStopLimits g
  s.grBeginStop g tk cause l.1 l.2

/-- A stop request on the group (R320). -/
def State.grStopRequest (s : State) (g cause : Nat) : State :=
  s.setGr g (fun r => { r with stopAt := match r.stopAt with
    | some (t, c) => some (t, max c cause)
    | none => some (s.now + ns 100, cause) })

/-- The group breaks: GROUP_BROKEN, the affected axis holds its values, the others stop from the next tick (R316). An armed
group leaves its start set, and its members go back to the STATE they had (assumption log 193). -/
def State.grBreak (s : State) (g a : Nat) (stamp : Time) : State :=
  if (s.gr g).broken.isSome then s else
  let s0 := if s.grState g = 1 then
      let x := s.setGrState g (s.gr g).pre
      { x with sset := vupd x.sset (s.fld (R.IGRP.CTRL g) 19 16) (fun y => { y with groups := y.groups.erase g }) }
    else s
  let s1 := ((s0.irq (R.IGRP.base g) 1).post (axisSrc (s.qaxis g)) 0x0A stamp (g + a * 2 ^ 4)).setGr g (fun r =>
    { r with broken := some a, stopAt := some (stamp, 1), startAt := none, sharedAt := none, resumeAt := none })
  let s2 := (s1.setAw a (fun w => { w with pn := some (s.posCmdOf a) })).setAxState a 0
  if s.grState g = 2 ∨ s.grState g = 3 then s2 else s2.grDisable g

/-! ### Segments (R307, R308, R313) -/

/-- A malformed group segment: removed, SEG_ERR for every member (R307, R313). -/
def State.grMalformed (s : State) (g : Nat) (tk : Time) (tag reason : Nat) : State :=
  let s1 := (s.members g).foldl (fun s a =>
    (s.wsPost a 0x0C tk (tag + reason * 2 ^ 16)).setRg64 (R.AXIS.REMAIN a) 0) s
  (s1.setGr g (fun r => { r with seg := none, prof := none, vLead := 0, acc := 0 })).setGrState g 0

/-- The segment in progress is complete: every member is at its target (R308, R315). -/
def State.grSegDone (s : State) (g : Nat) (tk : Time) : State :=
  let s1 := ((s.setRg64 (R.IGRP.S g) (s.grMax g)).setGr g (fun r => { r with vLead := 0, acc := 0 })).applyShares g none
  match (s.gr g).seg with
  | none => s1
  | some seg =>
    let s2 := s1.wsCount (s.qaxis g)
    if seg.event then s2.wsPost (s.qaxis g) 0x02 tk seg.tag else s2

/-- Group segments start at a tick until one takes time (R308, R313, R314). -/
def State.grRun (g : Nat) (tk : Time) : Nat → State → State
  | 0, s => s
  | fuel + 1, s =>
    let q := s.qaxis g
    if s.qLevel q = 0 then
      let s1 := (s.setGrState g 0).setGr g (fun r => { r with seg := none, prof := none, vLead := 0, acc := 0 })
      if (s.gr g).seg.isSome then s1.wsPost q 0x03 tk 0 else s1
    else
      let r := s.readGroupSeg g
      let inj := s.bit (R.PG_ERRINJ (R.AXIS.base q)) 16
      let reason := if inj then 1 else r.2.1
      let s1 := ((if inj then s.putBit (R.PG_ERRINJ (R.AXIS.base q)) 16 false else s).qDrop q r.2.2).putFld
        (R.AXIS.TAG q) 15 0 r.1.tag
      if reason ≠ 0 then s1.grMalformed g tk r.1.tag reason
      else
        let s2 := s1.setShares g r.1.targets
        (s2.grPlan g tk r.1).elim (s2.grMalformed g tk r.1.tag 3) (fun s3 =>
          let s4 := if r.1.event then s3.wsPost q 0x01 tk (r.1.tag + 4 * 2 ^ 16) else s3
          let s5 := (if r.1.blend then s4.wsPost q 0x08 tk r.1.tag else s4).setGrState g 2
          if s5.grEnded g tk then State.grRun g tk fuel (s5.grSegDone g tk) else s5)

/-! ### The group's tick -/

/-- START of a group at a tick (R318, R323). -/
def State.grStart (s : State) (g : Nat) (tk : Time) (set_ : Nat) (shared : Bool) : State :=
  let s1 := (s.members g).foldl (fun s a =>
    (s.wsPost a 0x06 tk (set_ + b2n shared * 16 + b2n (s.qLevel (s.qaxis g) == 0) * 32)).setRg64 (R.AXIS.REMAIN a) 0) s
  State.grRun g tk runFuel ((s1.setGrState g 0).setGr g (fun r =>
    { r with seg := none, prof := none, startAt := none, sharedAt := none }))

/-- RESUME of a group at a tick: the lead goes on from its stopped progress (R322). -/
def State.grResume (s : State) (g : Nat) (tk : Time) : State :=
  let s1 := (s.members g).foldl (fun s a =>
    (s.wsPost a 0x05 tk (s.fld (R.AXIS.TAG (s.qaxis g)) 15 0)).setRg64 (R.AXIS.REMAIN a) 0)
    (s.setGr g (fun r => { r with resumeAt := none }))
  match (s.gr g).seg with
  | none => State.grRun g tk runFuel (s1.setGrState g 0)
  | some seg =>
    (s1.grPlan g tk seg).elim (s1.grMalformed g tk seg.tag 3) (fun s2 =>
      let s3 := s2.setGrState g 2
      if s3.grEnded g tk then State.grRun g tk runFuel (s3.grSegDone g tk) else s3)

/-- The stop that is due for the group at a tick: its own request, a member's, or L3 of a member's slot (R320). -/
def State.grStopDue (s : State) (g : Nat) (tk : Time) : Option Nat :=
  let own := match (s.gr g).stopAt with | some (t, c) => if t ≤ tk then some c else none | none => none
  (s.members g).foldl (fun acc a =>
    if (s.gr g).broken = some a then acc else
    match s.stopDue a tk, acc with
    | some c, some d => some (max c d)
    | some c, none => some c
    | none, x => x) own

/-- The stops of a group at a tick (R320). -/
def State.grStops (s : State) (g : Nat) (tk : Time) : State :=
  (s.grStopDue g tk).elim s (fun c =>
    let s1 := (s.members g).foldl (fun s a => s.setAw a (fun w => { w with stopAt := none }))
      (s.setGr g (fun r => { r with stopAt := none }))
    if s.grState g = 2 then s1.grStop g tk c
    else if s.grState g = 3 then
      (if c = 2 ∧ s.fld (R.AXIS.STAT (s.qaxis g)) 7 6 ≠ 2 then s1.grBeginStop g tk 2 (s.gr g).stopDec (s.gr g).stopJerk else s1)
    else if c = 2 then (s.members g).foldl (fun s a => s.standstill a) s1 else s1)

/-- The starts and resumes of a group that are due at a tick. -/
def State.grStarts (s : State) (g : Nat) (tk : Time) : State :=
  let r := s.gr g
  let s1 := match r.startAt with
    | some t => if t ≤ tk ∧ s.grState g = 0 then s.grStart g tk (s.fld (R.IGRP.CTRL g) 19 16) false else s
    | none => s
  let s2 := match r.sharedAt with
    | some (t, n) => if t ≤ tk then (s1.grStart g tk n true).setStarted n else s1
    | none => s1
  match r.resumeAt with
  | some t => if t ≤ tk ∧ s2.grState g = 4 then s2.grResume g tk else s2
  | none => s2

/-- The position that the group's plan in progress gives a member for a coming instant (R302, R315). -/
def State.grPlanned (s : State) (g a : Nat) (t : Time) : Int :=
  let r := s.gr g
  match r.prof, r.shares.find? (fun x => x.axis == a) with
  | some p, some x =>
    if s.grState g = 2 ∨ s.grState g = 3 then x.at (s.grMax g) (clampI 0 (s.grMax g) (posQ (p.at (secs (t - r.t0))).1))
    else s.posCmdOf a
  | _, _ => s.posCmdOf a

/-- Each member's tick is taken, with the position of its next one (R302). -/
def State.grMark (s : State) (g : Nat) (tk : Time) (only : Option Nat) : State :=
  let r := s.gr g
  (s.members g).foldl (fun s a =>
    if r.broken = some a ∨ (only.isSome ∧ only ≠ some a) then s else
    let nx := s.grPlanned g a (s.innerAhead a tk (s.outer a))
    s.markTick a tk (some nx)) s

/-- A member's share starts from where SETPOS or FBPOS put it. -/
def State.grShift (s : State) (g a : Nat) (before : Int) : State :=
  s.setGr g (fun r => { r with shares := r.shares.map (fun x =>
    if x.axis = a then { x with p0 := x.p0 + (s.posCmdOf a - before) } else x) })

/-- First ticks, SETPOS and FBPOS of the members (R304, R323). -/
def State.grPrelude (s : State) (g : Nat) (tk : Time) (only : Option Nat) : State :=
  (s.members g).foldl (fun s a =>
    if only.isSome ∧ only ≠ some a then s
    else if (s.aw a).initDue ∨ (s.aw a).setReq.isSome then
      let b := s.posCmdOf a
      (s.wsPrelude a tk).grShift g a b
    else s) s

/-- One common tick of a group. -/
def State.grTick (s : State) (g : Nat) (tk : Time) : State :=
  let s0 := (s.grPrelude g tk none).setGr g (fun r => { r with tick := some tk })
  let st := s0.grState g
  let s1 := if st = 2 ∨ st = 3 then
      let e := (s0.grProgress g tk).applyShares g none
      if !e.grEnded g tk then e
      else if st = 3 then e.grStopped g tk
      else State.grRun g tk runFuel (e.grSegDone g tk)
    else s0
  ((s1.grStops g tk).grStarts g tk).grMark g tk none

/-- A tick of one member of a broken group: from the first tick after the break on it stops on the group's ramp, from
where the path stands there (R316). -/
def State.grBrokenTick (s : State) (g a : Nat) (tk : Time) : State :=
  if (s.gr g).broken = some a then s.markTick a tk (some (s.posCmdOf a))
  else
    let s0 := s.grPrelude g tk (some a)
    let after := match (s.gr g).stopAt with | some (b, _) => decide (b < tk) | none => true
    let s1 := if s0.grState g = 2 && after then (s0.grProgress g tk).grStop g tk 1 else s0
    let s2 := (s1.grProgress g tk).applyShares g (some a)
    let s3 := s2.grMark g tk (some a)
    if !s3.grEnded g tk ∨ s3.axState a = 4 ∨ (s3.grState g = 2 ∧ !after) then s3
    else
      let s4 := s3.grMemberStopped g a tk
      if (s4.members g).all (fun x => (s4.gr g).broken == some x || s4.axState x == 4) then s4.grDisable g else s4

/-- A tick of an axis of an enabled group: the group advances once for all members, after the check that
their ticks are still common; a group that breaks at rest is at an end, and the axis ticks alone (R312, R316). -/
def State.groupTick (s : State) (g a : Nat) (tk : Time) : State :=
  if (s.gr g).broken.isSome then s.grBrokenTick g a tk else
  let off := (s.members g).filter (fun m => !((s.axs m).next == some tk && s.levelDue m (s.levels m - 1)))
  if off = [] then s.grTick g tk
  else
    let who := if off.length + 1 = (s.members g).length then a else off.headD a
    let s1 := s.grBreak g who tk
    if (s1.gr g).broken.isSome then s1.grBrokenTick g a tk else s1.wsTick a tk

/-! ### Commands of a group (R312, R322, R323) -/

/-- The reason for refusing EN = 1, 0 for none (R312). -/
def State.grRefusal (s : State) (g : Nat) : Nat :=
  let ms := s.members g
  if ms.length = 0 ∨ 8 < ms.length then 1
  else if ms.any (fun a => (s.groupOf a).isSome) then 2
  else if ms.any (fun a => !s.atRest a || s.wallSrc a) then 3
  else if ms.any (fun a => s.tickFrom a s.now == none) ||
      !ms.all (fun a => (s.tickFrom a s.now).map (fun t => s.periodAt a (s.levels a - 1) t) ==
        (s.tickFrom (ms.headD 0) s.now).map (fun t => s.periodAt (ms.headD 0) (s.levels (ms.headD 0) - 1) t) &&
        s.tickFrom a s.now == s.tickFrom (ms.headD 0) s.now) then 4
  else 0

/-- The start set that a group or an axis has joined is armed or triggered. -/
def State.setArmed (s : State) (n : Nat) : Bool := s.fld (R.IGRP.SS_STAT n) 2 0 == 1 || s.fld (R.IGRP.SS_STAT n) 2 0 == 2

/-- A write of `IGRP[g].CTRL` (R312, R317). -/
def State.writeIgrpCtrl (s : State) (g v : Nat) : State :=
  let pg := R.IGRP.base g
  let w := BitVec.ofNat 32 (v &&& 0x1f3f01)
  let was := s.bit (R.IGRP.CTRL g) 0
  let join := bitsN v 20 16 ≠ s.fld (R.IGRP.CTRL g) 20 16
  if join ∧ (s.setArmed (s.fld (R.IGRP.CTRL g) 19 16) ∨ s.setArmed (bitsN v 19 16)) then s.cfgRefused pg
  else if was then
    if bitsN v 13 8 ≠ s.qaxis g then s.cfgRefused pg
    else if bitN v 0 then s.setRg (R.IGRP.CTRL g) w
    else if s.grState g = 0 ∨ s.grState g = 4 then (s.grDisable g).setRg (R.IGRP.CTRL g) w
    else s.cfgRefused pg
  else if bitN v 0 then
    let r := s.grRefusal g
    if r ≠ 0 then (s.cfgRefused pg).putFld (R.IGRP.STAT g) 23 16 r
    else if !(s.members g).contains (bitsN v 13 8) then s.cfgRefused pg
    else
      let s1 := ((s.setRg (R.IGRP.CTRL g) w).setGr g (fun _ => {})).putFld (R.IGRP.STAT g) 2 0 0
      (s.members g).foldl (fun s a => (s.putBit (R.AXIS.STAT a) 4 true).setAxState a 0) s1
  else s.setRg (R.IGRP.CTRL g) w

/-- The group is enabled and has the given STATE. -/
def State.grIs (s : State) (g st : Nat) : Bool := s.bit (R.IGRP.CTRL g) 0 && s.grState g == st && (s.gr g).broken.isNone

/-- START of a group (R304, R320, R323). -/
def State.grStartCmd (s : State) (g : Nat) : State :=
  if s.grIs g 0 && (s.members g).all (fun a => s.axRun a && !(s.aw a).invalid && s.stopDecOf a != 0) then
    s.setGr g (fun r => { r with startAt := some (r.startAt.getD (s.now + us 1)) })
  else s.cmdRefused (R.IGRP.base g)
/-- RESUME of a group, written to the page `pg` of the group or of a member (R320, R322, R323). -/
def State.grResumeCmd (s : State) (g pg : Nat) : State :=
  if s.grIs g 4 && (s.members g).all (fun a => s.axRun a && s.resumeOk a && s.stopDecOf a != 0) then
    s.setGr g (fun r => { r with resumeAt := some s.now })
  else s.cmdRefused pg
/-- ABANDON of a group, written to the page `pg` of the group or of a member (R323). -/
def State.grAbandonCmd (s : State) (g pg : Nat) : State :=
  if s.grIs g 4 then
    let s1 := (s.members g).foldl (fun s a => s.setRg64 (R.AXIS.REMAIN a) 0) s
    (s1.setGrState g 0).setGr g (fun r => { r with seg := none, resumeAt := none })
  else s.cmdRefused pg
/-- FLUSH of a group: of every member (R323). -/
def State.grFlushCmd (s : State) (g : Nat) : State :=
  if s.grIs g 0 || s.grIs g 4 then (s.members g).foldl (fun s a => s.setRg (R.AXIS.Q_RD a) (s.rg (R.AXIS.Q_WR a))) s
  else s.cmdRefused (R.IGRP.base g)

/-! ### Start sets (R317 to R319) -/

/-- The groups that have joined a start set. -/
def State.setGroups (s : State) (n : Nat) : List Nat :=
  (List.range 16).filter (fun g => s.bit (R.IGRP.CTRL g) 0 && s.bit (R.IGRP.CTRL g) 20 && s.fld (R.IGRP.CTRL g) 19 16 == n)
/-- The single axes that have joined a start set (a grouped axis's own fields are ignored). -/
def State.setAxes (s : State) (n : Nat) : List Nat :=
  (List.range 64).filter (fun a => s.bit (R.AXIS.CTRL a) 8 && s.fld (R.AXIS.CTRL a) 7 4 == n && (s.groupOf a).isNone)
/-- Every axis that a start set moves. -/
def State.setAll (s : State) (axes groups : List Nat) : List Nat := axes ++ groups.flatMap (fun g => s.members g)

/-- The members of an armed set go back to the STATE they had. -/
def State.unarm (s : State) (n : Nat) : State :=
  let ss := vget s.sset n
  let s1 := ss.axes.foldl (fun s a =>
    (if s.axState a = 1 then s.setAxState a (s.aw a).pre else s).setAw a (fun w => { w with sharedAt := none })) s
  let s2 := ss.groups.foldl (fun s g =>
    (if s.grState g = 1 then s.setGrState g (s.gr g).pre else s).setGr g (fun r => { r with sharedAt := none })) s1
  { s2 with sset := vupd s2.sset n (fun _ => {}) }

/-- A start set fails: STATE 4 with a reason, START_FAIL under the lowest member axis (R317, R319, R328). -/
def State.setFail (s : State) (n reason : Nat) : State :=
  let ss := vget s.sset n
  let all := if s.setArmed n then s.setAll ss.axes ss.groups else s.setAll (s.setAxes n) (s.setGroups n)
  let s1 := ((s.unarm n).putFld (R.IGRP.SS_STAT n) 2 0 4).putFld (R.IGRP.SS_STAT n) 15 8 reason
  let s2 := s1.irq (R.IGRP.base n) 4
  match all with
  | [] => s2
  | a :: r => s2.wsPost (r.foldl min a) 0x07 s.now (n + reason * 2 ^ 8)

/-- ARM of a start set (R317). -/
def State.setArm (s : State) (n : Nat) : State :=
  let axes := s.setAxes n
  let groups := s.setGroups n
  let all := s.setAll axes groups
  if all = [] then s.setFail n 1
  else if all.any (fun a => !s.atRest a || (s.aw a).invalid || s.tickFrom a s.now == none) then s.setFail n 2
  else if s.fld (R.IGRP.SS_CTRL n) 1 0 = 2 ∧ s.unsure then s.setFail n 3
  else if s.commonTick all s.now = none then s.setFail n 4
  else
    let s1 := { s with sset := vupd s.sset n (fun _ => { axes := axes, groups := groups }) }
    let s2 := axes.foldl (fun s a => (s.setAw a (fun w => { w with pre := s.axState a, startAt := none, resumeAt := none })).setAxState a 1) s1
    let s3 := groups.foldl (fun s g => (s.setGr g (fun r => { r with pre := s.grState g, startAt := none, resumeAt := none })).setGrState g 1) s2
    s3.setRg (R.IGRP.SS_STAT n) 1

/-- The members of a set wait for its start instant t_s (R318). -/
def State.setShare (s : State) (n : Nat) (ts : Time) : State :=
  let ss := vget s.sset n
  let s1 := { s with sset := vupd s.sset n (fun x => { x with ts := ts }) }
  let s2 := ss.axes.foldl (fun s a => s.setAw a (fun w => { w with sharedAt := some (ts, n) })) s1
  ss.groups.foldl (fun s g => s.setGr g (fun r => { r with sharedAt := some (ts, n) })) s2

/-- The trigger instant e of an armed set, and its start instant t_s (R318). -/
def State.setTrigger (s : State) (n : Nat) (e : Time) : State :=
  if s.fld (R.IGRP.SS_STAT n) 2 0 ≠ 1 then s else
  let all := s.setAll (vget s.sset n).axes (vget s.sset n).groups
  if all = [] then s.setFail n 1 else
  match s.commonTick all (e + us 1) with
  | none => s.setFail n 4
  | some ts => ((s.putFld (R.IGRP.SS_STAT n) 2 0 2).setRg64 (R.IGRP.SS_TE n) e).setShare n ts

/-- A write of `IGRP[n].SS_CTRL` (R317, R318, R330). -/
def State.writeSsCtrl (s : State) (n v : Nat) : State :=
  let pg := R.IGRP.base n
  let armed := s.setArmed n
  if bitsN v 1 0 = 3 then s.cfgRefused pg
  else if armed ∧ (bitN v 8 ∨ bitsN v 10 9 = 0 ∨ bitsN v 5 0 ≠ s.fld (R.IGRP.SS_CTRL n) 5 0) then s.cfgRefused pg
  else
    let s1 := s.setRg (R.IGRP.SS_CTRL n) (BitVec.ofNat 32 (bitsN v 5 0))
    let s2 := if bitN v 9 then (s1.unarm n).setRg (R.IGRP.SS_STAT n) 0 else s1
    let s3 := if bitN v 10 ∧ bitsN v 1 0 = 0 then s2.setTrigger n (ceilEdge s.now) else s2
    if bitN v 8 then s3.setArm n else s3

/-- SCHED_CANCEL: a machine-time action is cancelled at its instant (R69). -/
def State.schedCancel (s : State) (kind inst : Nat) (at_ : Time) (targetNs : Nat) : State :=
  s.post srcTime 0x04 at_ (targetNs % 1000000000 + inst % 256 * 2 ^ 32 + kind * 2 ^ 40)

/-- Machine time reaches `SS_MT` of a set armed with TRIG = 2 (R318, R319). -/
def State.setMtTrigger (s : State) (n : Nat) : State :=
  let tgt := mtOfRegs (s.rg64 (R.IGRP.SS_MT_SEC n)) (s.rg64 (R.IGRP.SS_MT_NSF n))
  if s.fld (R.IGRP.SS_STAT n) 2 0 = 1 ∧ s.fld (R.IGRP.SS_CTRL n) 1 0 = 2 ∧ s.mtReached tgt then
    if s.unsureAt (edgeOf (ceilEdge s.now)) then (s.schedCancel 1 n (ceilEdge s.now) (bitsN (s.rg64 (R.IGRP.SS_MT_NSF n)) 61 32)).setFail n 6
    else s.setTrigger n (ceilEdge s.now)
  else s

/-- An edge of a SYNC pin triggers the sets armed for it (R318). -/
def State.setSync (s : State) (pin : Nat) (rising : Bool) (stamp : Time) : State :=
  (List.range 16).foldl (fun s n =>
    let c := s.rg (R.IGRP.SS_CTRL n)
    if wfld c 1 0 = 1 ∧ wfld c 4 2 = pin ∧ wbit c 5 = !rising then s.setTrigger n stamp else s) s

/-! ### Commands of an axis in or out of a group (R320, R323) -/

/-- STOP: of an armed member it disarms the set (R317); of a grouped axis it stops the group (R320). A slave whose link is
armed does not move: refused (R323). -/
def State.axStopCmd (s : State) (a : Nat) : State :=
  match s.axState a with
  | 1 =>
    (match (List.range 16).find? (fun n => s.setArmed n &&
        (s.setAll (vget s.sset n).axes (vget s.sset n).groups).contains a) with
     | some n => s.setFail n 5
     | none => s.cmdRefused (R.AXIS.base a))
  | 2 => (match s.groupOf a with
    | some g => s.grStopRequest g 0
    | none => s.stopRequest a 0)
  | 5 => s.stopRequest a 0
  | _ => s.cmdRefused (R.AXIS.base a)

/-- STOP of a group (R317, R320, R323). -/
def State.grStopCmd (s : State) (g : Nat) : State :=
  if s.grIs g 2 then s.grStopRequest g 1
  else if s.grIs g 1 then s.setFail (s.fld (R.IGRP.CTRL g) 19 16) 5
  else s.cmdRefused (R.IGRP.base g)

/-- A write of `AXIS[n].CMD`: one bit per write (R323). -/
def State.writeAxCmd (s : State) (a v : Nat) : State :=
  match v % 128 with
  | 1 => s.axStart a
  | 2 => s.axStopCmd a
  | 4 => (match s.groupOf a with | some g => s.grResumeCmd g (R.AXIS.base a) | none => s.axResume a)
  | 8 => (match s.groupOf a with | some g => s.grAbandonCmd g (R.AXIS.base a) | none => s.axAbandon a)
  | 16 => s.axFlush a
  | 32 => s.axSetpos a
  | 64 => s.axFbpos a
  | _ => s.cmdRefused (R.AXIS.base a)

/-- A write of `IGRP[g].CMD`: one bit per write (R323). -/
def State.writeGrCmd (s : State) (g v : Nat) : State :=
  match v % 32 with
  | 1 => s.grStartCmd g
  | 2 => s.grStopCmd g
  | 4 => s.grResumeCmd g (R.IGRP.base g)
  | 8 => s.grAbandonCmd g (R.IGRP.base g)
  | 16 => s.grFlushCmd g
  | _ => s.cmdRefused (R.IGRP.base g)

/-- The writes of an IGRP page that have an effect of their own (R312, R330). -/
def State.igrpHook (s : State) (g off v : Nat) : Option State :=
  if off = 0x40 then some (s.writeIgrpCtrl g v)
  else if off = 0x48 ∧ s.bit (R.IGRP.CTRL g) 0 then some (s.cfgRefused (R.IGRP.base g))
  else if off = 0x50 then some (s.writeGrCmd g v)
  else if off = 0x100 then some (s.writeSsCtrl g v)
  else none

end Sys2Proof.Machine
end

