-- ==== Sys2Proof/Machine/Wallower.lean ====
section
/-! DEFINITION. The Wallower: masters, gear and cam links, engaging, disengaging, holding and resuming
(R332 to R351), and the tick of an axis whatever drives it. -/

namespace Sys2Proof.Machine

/-! ### Access -/

/-- A link. -/
def State.lk (s : State) (l : Nat) : LinkSt := vget s.wall.link l
/-- The state with a link changed. -/
def State.setLk (s : State) (l : Nat) (f : LinkSt → LinkSt) : State :=
  { s with wall := { s.wall with link := vupd s.wall.link l f } }
/-- A virtual master. -/
def State.vmOf (s : State) (v : Nat) : VmSt := vget s.wall.vm v
/-- The state with a virtual master changed. -/
def State.setVm (s : State) (v : Nat) (f : VmSt → VmSt) : State :=
  { s with wall := { s.wall with vm := vupd s.wall.vm v f } }
/-- `GL.STAT.STATE`: 0 IDLE, 1 ARMED, 2 ENGAGING, 3 ENGAGED, 4 DISENGAGING, 5 HELD. -/
def State.linkState (s : State) (l : Nat) : Nat := s.fld (R.LINK.STAT l) 2 0
/-- The state with a link's STATE set. -/
def State.setLinkState (s : State) (l v : Nat) : State := s.putFld (R.LINK.STAT l) 2 0 v
/-- `GL.CFG.SLAVE`. -/
def State.slaveOf (s : State) (l : Nat) : Nat := s.fld (R.LINK.CFG l) 5 0
/-- `GL.CFG.MSRC`. -/
def State.msrc (s : State) (l : Nat) : Nat := s.fld (R.LINK.CFG l) 13 12
/-- `GL.CFG.MIDX`. -/
def State.midx (s : State) (l : Nat) : Nat := s.fld (R.LINK.CFG l) 21 16
/-- The link is a cam. -/
def State.isCam (s : State) (l : Nat) : Bool := s.bit (R.LINK.CFG l) 8
/-- The table in force of a link. -/
def State.camOf (s : State) (l : Nat) : Nat := s.fld (R.LINK.CAM l) 5 0
/-- The link that drives an axis: the one not IDLE that names it (R332). -/
def State.linkOf (s : State) (a : Nat) : Option Nat :=
  (List.range 64).find? (fun l => s.linkState l != 0 && s.slaveOf l == a)
/-- An event of the Wallower under the slave's source, with its `PG_IRQ` bit (R348, R351). -/
def State.wallPost (s : State) (l code : Nat) (stamp : Time) (payload : Nat) : State :=
  let bits := match code with | 0x1C => 1 | 0x1A => 2 | 0x1B => 4 | 0x1E => 8 | 0x1D => 16 | _ => 0
  let s1 := if bits = 0 then s else s.irq (R.WALL.base) bits
  s1.post (axisSrc (s.slaveOf l)) code stamp payload

/-! ### Masters (R333 to R335) -/

/-- Velocity of a virtual master, Q40.24. -/
def VmSt.velQ (v : VmSt) : Int := satI 64 (carried ((v.vel : Rat) / (2 ^ 24 * 10 ^ 6 : Nat)) (2 ^ 24))
/-- Position of a virtual master at `t`, in counts (R334). -/
def VmSt.posAt (v : VmSt) (t : Time) : Rat :=
  (v.pos : Rat) / (2 ^ 24 * 10 ^ 12 : Nat) + (v.vel : Rat) / (2 ^ 24 * 10 ^ 6 : Nat) * secs (t - v.last)

/-- The newest sample of a remote slot at or before `t`, if it is fresh enough (R335). -/
def State.remoteAt (s : State) (r : Nat) (t : Time) : Option RsSample :=
  match (vget s.wall.rs r).find? (fun x => x.stamp ≤ (t : Int)) with
  | some x => if (t : Int) - x.stamp ≤ us (s.fld (R.WALL.RS_TMO r) 19 0) then some x else none
  | none => none

/-- The master value (Q48.16) and velocity (Q40.24) of a link at `t`; none when it is lost (R333). -/
def State.masterAt (s : State) (l : Nat) (t : Time) : Option (Int × Int) :=
  let i := s.midx l
  match s.msrc l with
  | 0 => if s.axRun i then some (s.cmdAt i t) else none
  | 1 =>
    if 48 ≤ i then none else
    let x := s.fbSample i t
    if s.posValid i then some (x.1, x.2.1) else none
  | 2 =>
    if i < 8 ∧ s.bit (R.WALL.VM_CTRL i) 0 then some (posQ ((s.vmOf i).posAt t), (s.vmOf i).velQ) else none
  | _ =>
    if 16 ≤ i then none else
    (s.remoteAt i t).map (fun x =>
      (satI 64 (x.pos + roundHalfEven (x.vel * ((t : Int) - x.stamp)) (2 ^ 8 * 16000000000)), x.vel))

/-! ### Relations (R337 to R340) -/

/-- Point `i` of a table, -1 to N + 1, Q48.16 (R338, R339). -/
def State.camPoint (s : State) (c : Nat) (i : Int) : Int :=
  let n : Nat := s.fld (R.CT.N c) 12 0
  let rise := s.sgn64 (R.CT.RISE c)
  let y (k : Nat) : Int := sx 64 (Memory.readN s.mem (0x3000000 + c * 0x8000 + k * 8) 8)
  if i < 0 then y (n - 1) - rise
  else if i.toNat < n then y i.toNat
  else if i.toNat = n then y 0 + rise
  else y 1 + rise

/-- The cycle index of the master value `m` in a table (R339). -/
def State.camK (s : State) (l c : Nat) (m : Int) : Int :=
  (m - s.sgn64 (R.LINK.M_OFS l)).fdiv (s.sgn64 (R.CT.LEN c))

/-- The curve of a table over one cycle at the master value `m`, without the cycle base, in counts, and
its slope in counts per count (R339). -/
def State.camCurve (s : State) (l c : Nat) (m : Int) : Rat × Rat :=
  let len := s.sgn64 (R.CT.LEN c)
  let n : Int := s.fld (R.CT.N c) 12 0
  let u := (m - s.sgn64 (R.LINK.M_OFS l)) - s.camK l c m * len
  let g : Rat := ((u * n : Int) : Rat) / (len : Rat)
  let i := (u * n).fdiv len
  let f : Rat := g - (i : Rat)
  let y (k : Int) : Rat := ofPos (s.camPoint c k)
  let t (k : Int) : Rat := (y (k + 1) - y (k - 1)) / 2
  let h00 := 2 * f * f * f - 3 * f * f + 1
  let h10 := f * f * f - 2 * f * f + f
  let h01 := -2 * f * f * f + 3 * f * f
  let h11 := f * f * f - f * f
  let d00 := 6 * f * f - 6 * f
  let d10 := 3 * f * f - 4 * f + 1
  let d01 := -6 * f * f + 6 * f
  let d11 := 3 * f * f - 2 * f
  (h00 * y i + h10 * t i + h01 * y (i + 1) + h11 * t (i + 1),
   (n : Rat) / ofPos len * (d00 * y i + d10 * t i + d01 * y (i + 1) + d11 * t (i + 1)))

/-- The relation R at the master value `m`, Q48.16 (R337, R339). -/
def State.relation (s : State) (l : Nat) (m : Int) : Int :=
  if s.isCam l then
    let c := s.camOf l
    let k := s.camK l c m
    posQ (ofPos ((s.lk l).cb + s.sgn64 (R.CT.RISE c) * (k - (s.lk l).kPrev)) + (s.camCurve l c m).1)
  else
    s.sgn64 (R.LINK.SREF l) + (s.sgn32 (R.LINK.NUM l) * (m - s.sgn64 (R.LINK.MREF l))).fdiv (s.rg (R.LINK.DEN l)).toNat

/-- The slope of the relation at `m` (R343). -/
def State.slope (s : State) (l : Nat) (m : Int) : Rat :=
  if s.isCam l then (s.camCurve l (s.camOf l) m).2
  else (s.sgn32 (R.LINK.NUM l) : Rat) / ((s.rg (R.LINK.DEN l)).toNat : Rat)

/-- The slave's velocity on the relation (R337, R339). -/
def State.relVel (s : State) (l : Nat) (m vm : Int) : Int :=
  if s.isCam l then velQ (ofVel vm * s.slope l m)
  else satI 64 (roundHalfEven (vm * s.sgn32 (R.LINK.NUM l)) (s.rg (R.LINK.DEN l)).toNat)

/-- The table named is valid: N from 2 to 4,096 and LEN above 0 (R342, R349). -/
def State.tableOk (s : State) (c : Nat) : Bool :=
  decide (2 ≤ s.fld (R.CT.N c) 12 0) && decide (s.fld (R.CT.N c) 12 0 ≤ 4096) && decide (0 < s.sgn64 (R.CT.LEN c))

/-- The table is in use (R341). -/
def State.tableUsed (s : State) (c : Nat) : Bool :=
  (List.range 64).any (fun l =>
    let st := s.linkState l
    (st == 1 || st == 2 || st == 3 || st == 5) &&
      (s.camOf l == c || (s.bit (R.LINK.CAM l) 14 && s.fld (R.LINK.CAM l) 13 8 == c)))

/-- The cycle index follows the master on an engaged cam: the table switch of R340, then CB and k of R339. -/
def State.camAdvance (s : State) (l : Nat) (m : Int) (tk : Time) : State :=
  if !s.isCam l then s else
  let c := s.camOf l
  let k := s.camK l c m
  let d := k - (s.lk l).kPrev
  if d ≠ 0 ∧ s.bit (R.LINK.CAM l) 14 then
    let n := s.fld (R.LINK.CAM l) 13 8
    let y0 := s.camPoint c 0
    let yn := s.camPoint n 0
    let rn := s.sgn64 (R.CT.RISE n)
    let gain : Int := if 0 < d then y0 + s.sgn64 (R.CT.RISE c) - yn + rn * (d - 1) else y0 - yn - rn + rn * (d + 1)
    let s1 := ((s.putFld (R.LINK.CAM l) 5 0 n).putBit (R.LINK.CAM l) 14 false).wallPost l 0x1D tk (l + n * 2 ^ 8)
    let cb := (s.lk l).cb + gain
    (s1.setLk l (fun x => { x with cb := cb, kPrev := s1.camK l n m })).setRg64 (R.LINK.SREF l) (ux 64 cb)
  else
    let cb := (s.lk l).cb + s.sgn64 (R.CT.RISE c) * d
    (s.setLk l (fun x => { x with cb := cb, kPrev := k })).setRg64 (R.LINK.SREF l) (ux 64 cb)

/-! ### Engaging (R342, R343) -/

/-- The links upstream of a master, nearest first, at most `n` (R333). -/
def State.upstream (s : State) (l : Nat) : Nat → List Nat
  | 0 => []
  | n + 1 =>
    if s.msrc l ≠ 0 then [] else
    match s.linkOf (s.midx l) with
    | some k => k :: s.upstream k n
    | none => []

/-- The longest chain of links that follow an axis, at most `n` deep (R333). -/
def State.downDepth (s : State) (a : Nat) : Nat → Nat
  | 0 => 0
  | n + 1 => (List.range 64).foldl (fun d l =>
      if s.linkState l ≠ 0 ∧ s.msrc l = 0 ∧ s.midx l = a then max d (1 + s.downDepth (s.slaveOf l) n) else d) 0

/-- The reason for refusing ENGAGE, 0 for none (R336, R342). -/
def State.engageRefusal (s : State) (l : Nat) : Nat :=
  let a := s.slaveOf l
  let up := s.upstream l 9
  if s.linkState l ≠ 0 then 7
  else if !s.wallSrc a || !s.axRun a then 1
  else if s.axState a ≠ 0 ∨ (s.linkOf a).isSome then 2
  else if (s.masterAt l s.now).isNone ∨ (s.msrc l = 3 ∧ !s.bit (R.WALL.RS_CFG (s.midx l)) 24) then 3
  else if (s.msrc l = 0 ∧ s.midx l = a) ∨ up.any (fun k => s.msrc k == 0 && s.midx k == a) ∨
      8 < up.length + 1 + s.downDepth a 9 then 4
  else if s.rg (R.LINK.DEN l) = 0 ∨ (s.isCam l ∧ (!s.tableOk (s.camOf l) ∨ s.fld (R.LINK.CFG l) 28 27 = 2)) ∨
      s.fld (R.LINK.CFG l) 28 27 = 3 then 5
  else if s.msrc l = 3 ∧ s.unsure then 6
  else if s.stopDecOf a = 0 then 8
  else 0

/-- The master value at the slave's latest tick, at `t`: of a virtual master, as it stood at that tick (R343). -/
def State.masterWas (s : State) (l : Nat) (t : Time) : Option Int :=
  let i := s.midx l
  if s.msrc l = 2 then
    if i < 8 ∧ s.bit (R.WALL.VM_CTRL i) 0 then some (posQ ((vget (vget s.wall.vmTick (s.slaveOf l)) i).posAt t)) else none
  else (s.masterAt l t).map (·.1)

/-- `GL.CMD.ENGAGE` (R342); LINK_ARMED is stamped at the slave's coming tick (R348, assumption log 165). -/
def State.engage (s : State) (l : Nat) : State :=
  let r := s.engageRefusal l
  if r ≠ 0 then (s.putFld (R.LINK.STAT l) 15 8 r).cmdRefused R.WALL.base
  else
    let a := s.slaveOf l
    let prev := match (s.aw a).tick with | some t => s.masterWas l t | none => none
    let s1 := ((s.setLinkState l 1).setAxState a 1).setLk l (fun _ => { mPrev := prev, armAt := s.now })
    s1.wallPost l 0x18 (s.eventTick [a]) l

/-- The increasing or decreasing crossing of `pos` between two master values: `some true` increasing (R343). -/
def crossing (pos : Int) (dirs : Nat) (m0 : Option Int) (m : Int) : Option Bool :=
  match m0 with
  | none => none
  | some p =>
    if p < pos ∧ pos ≤ m ∧ dirs ≠ 1 then some true
    else if pos < p ∧ m ≤ pos ∧ dirs ≠ 0 then some false else none

/-- The relation and the ramp are fixed at engagement (R343), or the ramp alone on a resume (R345). -/
def State.engageAt (s : State) (l : Nat) (tk : Time) (ma : Int) (up crossed resume : Bool) : State :=
  let a := s.slaveOf l
  let sa := s.posCmdOf a
  let d : Int := if up then 1 else -1
  let mb := ma + d * ((s.sgn64 (R.LINK.ENG_DIST l)).natAbs : Int)
  let slv := s.sgn64 (R.LINK.ENG_SLV l)
  let base : Int := match s.fld (R.LINK.CFG l) 28 27 with
    | 0 => slv
    | 1 => sa + slv
    | _ => sa + (s.sgn32 (R.LINK.NUM l) * (mb - ma)).fdiv (s.rg (R.LINK.DEN l)).toNat
  let s1 := if resume then s else
    let s0 := (s.setRg64 (R.LINK.MREF l) (ux 64 mb)).setRg64 (R.LINK.SREF l) (ux 64 base)
    if s.isCam l then s0.setLk l (fun x => { x with cb := base, kPrev := s.camK l (s.camOf l) mb })
    else s0.setRg64 (R.LINK.REM l) 0
  let sb := s1.relation l mb
  let gb := s1.slope l mb
  let s2 := s1.setLk l (fun x => { x with ma := ma, mb := mb, sa := sa, sb := sb, gb := gb })
  ((s2.setLinkState l 2).setAxState a 5).wallPost l 0x19 tk (l + b2n crossed * 2 ^ 6 + b2n resume * 2 ^ 7)

/-- P and V of an engaging or engaged link at a tick (R337, R339, R343). -/
def State.linkValue (s : State) (l : Nat) (tk : Time) (m vm : Int) : State :=
  let a := s.slaveOf l
  let x := s.lk l
  let span : Rat := ofPos (x.mb - x.ma)
  let w : Rat := if x.mb = x.ma then 1 else ofPos (m - x.ma) / span
  let old := s.velCmdOf a
  let r : State :=
    if s.linkState l = 3 ∨ 1 ≤ w then
      let s1 := s.camAdvance l m tk
      let s2 := if s.linkState l = 2 then (s1.setLinkState l 3).wallPost l 0x1A tk l else s1
      let s3 := if s.isCam l then s2 else s2.setRg64 (R.LINK.REM l)
        ((s.sgn32 (R.LINK.NUM l) * (m - s.sgn64 (R.LINK.MREF l))) % ((s.rg (R.LINK.DEN l)).toNat : Int)).toNat
      s3.setPV a (satI 64 (s2.relation l m)) (s2.relVel l m vm)
    else if w ≤ 0 then s.setPV a x.sa 0
    else
      let h00 := 2 * w * w * w - 3 * w * w + 1
      let h01 := -2 * w * w * w + 3 * w * w
      let h11 := w * w * w - w * w
      let d01 := -6 * w * w + 6 * w
      let d11 := 3 * w * w - 2 * w
      s.setPV a (posQ (h00 * ofPos x.sa + h01 * ofPos x.sb + h11 * x.gb * span))
        (velQ (ofVel vm * (d01 * ofPos (x.sb - x.sa) / span + d11 * x.gb)))
  let dt := match (s.aw a).tick with | some t => tk - t | none => 0
  r.setAw a (fun w => { w with acc := if dt = 0 then 0 else ofVel (r.velCmdOf a - old) / secs dt })

/-! ### The slave's tick (R344 to R347) -/

/-- No link drives an axis with SRC = 1 any more: it is IDLE, and its words hold (R332). -/
def State.slaveIdle (s : State) (a : Nat) : State :=
  if s.axState a = 0 then s else
  let p := s.posCmdOf a
  (s.setAxState a 0).setAw a (fun w =>
    { w with seg := none, pn := some p, resumeAt := none, stopAt := none, disengaging := false })
/-- A link returns to IDLE, and its slave too (R332). -/
def State.linkIdle (s : State) (l : Nat) : State := (s.slaveIdle (s.slaveOf l)).setLinkState l 0

/-- LINK_FAULT with its reason (R346, R348). -/
def State.linkFault (s : State) (l reason : Nat) (tk : Time) : State :=
  (s.putFld (R.LINK.STAT l) 15 8 reason).wallPost l 0x1C tk (l + reason * 2 ^ 8)

/-- Windshaft takes a following slave over at a tick, where the commanded words stand at it. -/
def State.takeOver (s : State) (a : Nat) (tk : Time) : State :=
  let c := s.cmdAt a tk
  (s.setPV a c.1 c.2).setAw a (fun w => { w with seg := none, holding := false })

/-- The slave of a link stops and the link is held (R345, R346). -/
def State.linkHold (s : State) (l cause : Nat) (tk : Time) : State :=
  let a := s.slaveOf l
  ((s.setLinkState l 5).takeOver a tk).wsStop a tk cause

/-- A link disengages at a tick: the slave comes to rest on its stop ramp (R344). -/
def State.linkDisengage (s : State) (l : Nat) (tk : Time) (crossed : Bool) : State :=
  let a := s.slaveOf l
  let s1 := ((s.setLinkState l 4).setLk l (fun x => { x with disAt := none, disArm := false })).wallPost l 0x1B tk
    (l + b2n crossed * 2 ^ 6)
  ((s1.takeOver a tk).setAw a (fun w => { w with disengaging := true })).wsStop a tk 0

/-- The injection of R351 names the link: used at its tick. -/
def State.linkInj (s : State) (l : Nat) : Bool := s.bit (R.PG_ERRINJ R.WALL.base) 16 && s.wall.inj == some l

/-- SCHED_CANCEL of a link to a remote master, at the tick that it would have engaged (R69, R336). -/
def State.remoteCancel (s : State) (l : Nat) (tk : Time) : State :=
  s.schedCancel 2 l tk ((s.mtAt (edgeOf tk) / 2 ^ 32) % 1000000000).toNat

/-- Steps 4 to 7 of R347 with the master value. -/
def State.linkRun (s : State) (l : Nat) (tk : Time) (m vm : Int) : State :=
  let c := s.rg (R.LINK.CFG l)
  let x := s.lk l
  let cross := crossing (s.sgn64 (R.LINK.ENG_POS l)) (wfld c 26 25) x.mPrev m
  let eng : Option (Int × Bool × Bool) :=
    if s.linkState l ≠ 1 then none
    else if wbit c 24 then (if x.armAt + ns 100 ≤ tk then some (m, decide (0 ≤ vm), false) else none)
    else cross.map (fun up => (s.sgn64 (R.LINK.ENG_POS l), up, true))
  let s1 := match eng with
    | none => s
    | some (ma, up, cr) =>
      if s.msrc l = 3 ∧ s.unsureAt (edgeOf tk) then
        (((s.remoteCancel l tk).linkIdle l).wallPost l 0x1E tk (l + 2 ^ 6))
      else s.engageAt l tk ma up cr false
  let st := s1.linkState l
  let s2 :=
    if st ≠ 2 ∧ st ≠ 3 then s1
    else if x.disArm && (crossing (s.sgn64 (R.LINK.DIS_POS l)) (wfld c 26 25) x.mPrev m).isSome then s1.linkDisengage l tk true
    else s1.linkValue l tk m vm
  s2.setLk l (fun x => { x with mPrev := some m })

/-- A RESUME of a held link's slave re-engages at the tick (R345); a link to a remote master does not while TIME_UNSURE is
1, and stays held (R69, R336, assumption log 58). -/
def State.linkResume (s : State) (l : Nat) (tk : Time) (m vm : Int) : State :=
  let a := s.slaveOf l
  if s.msrc l = 3 ∧ s.unsureAt (edgeOf tk) then (s.setAw a (fun w => { w with resumeAt := none })).remoteCancel l tk else
  let s1 := ((s.setAw a (fun w => { w with resumeAt := none })).wsPost a 0x05 tk (s.fld (R.AXIS.TAG a) 15 0)).setLk l
    (fun x => { x with disArm := false, disAt := none })
  let s2 := (s1.engageAt l tk m (decide (0 ≤ vm)) false true).linkValue l tk m vm
  s2.setLk l (fun x => { x with mPrev := some m })

/-- The link of a slave at the slave's tick, in the order of R347; `GL.MASTER` takes m at every tick that has one (R350). -/
def State.linkTick (s0 : State) (l : Nat) (tk : Time) : State :=
  let inj := s0.linkInj l
  let s1 := if inj then { s0.putBit (R.PG_ERRINJ R.WALL.base) 16 false with wall := { s0.wall with inj := none } } else s0
  let mv := if inj then none else s1.masterAt l tk
  let s : State := match mv with | some (m, _) => s1.setRg64 (R.LINK.MASTER l) (ux 64 m) | none => s1
  let a := s.slaveOf l
  let st := s.linkState l
  let active : Bool := st == 2 || st == 3
  let disDue : Bool := match (s.lk l).disAt with | some t => decide (t ≤ tk) | none => false
  match mv with
  | none =>
    if st = 1 then (s.linkFault l 0x10 tk).linkIdle l
    else if active then (s.linkFault l 0x10 tk).linkHold l 2 tk
    else s.wsStops a tk
  | some (m, vm) =>
    if active ∧ s.msrc l = 3 ∧ s.unsure ∧ s.bit (R.WALL.RS_CFG (s.midx l)) 25 then
      (s.linkFault l 0x12 tk).linkDisengage l tk false
    else if st = 1 ∧ (s.lk l).cancel then (s.linkIdle l).wallPost l 0x1E tk l
    else if active && disDue then s.linkDisengage l tk false
    else if active then
      match s.stopDue a tk with
      | some c => (s.setAw a (fun w => { w with stopAt := none })).linkHold l c tk
      | none => s.linkRun l tk m vm
    else if st = 1 then (s.wsStops a tk).linkRun l tk m vm
    else
      let s1 := s.wsStops a tk
      match (s1.aw a).resumeAt with
      | some t => if st = 5 ∧ t ≤ tk ∧ s1.axState a = 4 then s1.linkResume l tk m vm else s1
      | none => s1

/-- A disengaged slave at rest ends its link (R344). -/
def State.linkRest (s : State) (l : Nat) : State :=
  if s.linkState l = 4 ∧ s.axState (s.slaveOf l) ≠ 3 then s.setLinkState l 0 else s

/-- The deepest chain of links, with the axis that is no slave (R333). -/
def chainFuel : Nat := 9

/-- The latest tick of an axis at or before the coming instant `t`, counted from its tick `ti`. -/
def State.tickUpTo (s : State) (i ti t : Nat) : Time :=
  let at_ (k : Nat) : Time := s.innerAhead i ti (k * s.outer i)
  let k := (t - ti) * 2 / nz (at_ 2 - ti)
  if at_ (k + 1) ≤ t then at_ (k + 1) else if at_ k ≤ t then at_ k else at_ (k - 1)

/-- Position and velocity of an axis at a coming instant, as the present tick knows them: those of its plan, or those that its
link gives it at its own coming ticks, down the chain of links (R302, R332, R333, assumption log 50). -/
def State.axisAhead : Nat → State → Nat → Time → Int × Int
  | 0, s, i, t => s.cmdAt i t
  | fuel + 1, s, i, t =>
    match (s.aw i).tick with
    | none => s.cmdAt i t
    | some ti =>
      if !s.axRun i || decide (t < s.innerAhead i ti (s.outer i)) then s.cmdAt i t
      else if s.axState i ≠ 5 then
        ((match s.groupOf i with | some g => s.grPlanned g i t | none => s.wsPlanned i t), s.velCmdOf i)
      else match s.linkOf i with
        | none => s.cmdAt i t
        | some l =>
          let val (u : Time) : Option (Int × Int) :=
            (if s.msrc l = 0 then some (State.axisAhead fuel s (s.midx l) u) else s.masterAt l u).map (fun m =>
              let x := s.linkValue l u m.1 m.2
              (x.posCmdOf i, x.velCmdOf i))
          let tj := s.tickUpTo i ti t
          match val tj with
          | some (p, v) => extrapolate p v ((val (s.innerAhead i tj (s.outer i))).map Prod.fst) (t - tj)
          | none => s.cmdAt i t

/-- The master value and velocity of a link for the slave's coming tick, as the present tick knows them (assumption
log 50). -/
def State.masterAhead (s : State) (l : Nat) (t : Time) : Option (Int × Int) :=
  if s.msrc l ≠ 0 ∨ !s.axRun (s.midx l) then s.masterAt l t else some (State.axisAhead chainFuel s (s.midx l) t)

/-- P(j+1) of a following slave, where the present tick fixes it (R302, R332, assumption log 50). -/
def State.linkAhead (s : State) (a : Nat) (tk : Time) : Option Int :=
  match s.linkOf a with
  | none => some (s.posCmdOf a)
  | some l =>
    let t := s.innerAhead a tk (s.outer a)
    (s.masterAhead l t).map (fun m => (s.linkValue l t m.1 m.2).posCmdOf a)

/-- A shared start reaches a member with SRC = 1: START is posted, and the axis goes back to the STATE it had, since
Windshaft's queue does not drive it (R300, R318, assumption log 166). -/
def State.wallShared (s : State) (a : Nat) (tk : Time) : State :=
  match (s.aw a).sharedAt with
  | some (t, n) =>
    if tk < t then s else
    let s1 := (s.wsPost a 0x06 tk (n + 16 + b2n (s.qLevel a == 0) * 32)).setAw a (fun w => { w with sharedAt := none })
    (if s1.axState a = 1 then s1.setAxState a (s.aw a).pre else s1).setStarted n
  | none => s

/-- One tick of an axis with SRC = 1 (R332, R347). -/
def State.wallTick (s : State) (a : Nat) (tk : Time) : State :=
  let s0 := { s with wall := { s.wall with vmTick := vupd s.wall.vmTick a (fun _ => s.wall.vm) } }
  let s1 := (s0.wsPrelude a tk).wallShared a tk
  let s2 := if s1.axState a = 3 then s1.wsEval a tk else s1
  let s3 := match s2.linkOf a with
    | some l => (s2.linkTick l tk).linkRest l
    | none =>
      let s0 := s2.wsStops a tk
      match (s0.aw a).resumeAt with
      | some t => if t ≤ tk ∧ s0.axState a = 4 then
          ((s0.setAw a (fun w => { w with resumeAt := none, seg := none })).wsPost a 0x05 tk (s0.fld (R.AXIS.TAG a) 15 0)).setAxState a 0
        else s0
      | none => s0
  s3.markTick a tk (if s3.axState a = 5 then s3.linkAhead a tk else some (s3.wsNextPos a tk))

/-- The axis's next sample instant is a tick that has come and has not been taken (R301). -/
def State.tickWaits (s : State) (a : Nat) (tk : Time) : Bool :=
  s.axRun a && (s.axs a).next == some tk && s.levelDue a (s.levels a - 1) && (s.aw a).tick != some tk

/-- The profile tick of an axis at `tk`: the axes that it follows first (R301, R333, R347). -/
def State.tickAxis (a : Nat) (tk : Time) : Nat → State → State
  | 0, s => s
  | fuel + 1, s =>
    if !s.tickWaits a tk then s else
    match s.groupOf a with
    | some g => s.groupTick g a tk
    | none =>
      if s.wallSrc a then
        let s1 := match s.linkOf a with
          | some l => if s.msrc l = 0 then State.tickAxis (s.midx l) tk fuel s else s
          | none => s
        s1.wallTick a tk
      else s.wsTick a tk

/-- PROFILE_TICK: the tick of an axis that is due (R301). -/
def State.profileTick (s : State) (a : Nat) : State :=
  match (s.axs a).next with
  | some tk => if tk ≤ s.now then State.tickAxis a tk chainFuel s else s
  | none => s

/-- The slave's Sluice entry stops running: the fault is stamped at the tick that would have come (R346, R348, assumption
log 165). -/
def State.linkSlaveStops (s : State) (a : Nat) : State :=
  match s.linkOf a with
  | some l => (s.linkFault l 0x11 (s.eventTick [a])).linkIdle l
  | none => s

/-! ### Commands and registers (R334, R341, R344, R349) -/

/-- `GL.CMD`: one bit per write (R344, R347). -/
def State.writeGlCmd (s : State) (l v : Nat) : State :=
  let st := s.linkState l
  match v % 16 with
  | 1 => s.engage l
  | 2 => if st = 2 ∨ st = 3 then s.setLk l (fun x => { x with disAt := some (s.now + ns 100) }) else s.cmdRefused R.WALL.base
  | 4 => if st = 1 ∨ st = 2 ∨ st = 3 then s.setLk l (fun x => { x with disArm := true }) else s.cmdRefused R.WALL.base
  | 8 => if st = 1 then s.setLk l (fun x => { x with cancel := true }) else s.cmdRefused R.WALL.base
  | _ => s.cmdRefused R.WALL.base

/-- A write of `GL.CAM` (R349). -/
def State.writeCam (s : State) (m : Master) (l v : Nat) : State :=
  if (s.linkState l ≠ 0 ∧ bitsN v 5 0 ≠ s.camOf l) ∨ (bitN v 14 ∧ !s.tableOk (bitsN v 13 8)) then s.cfgRefused R.WALL.base
  else s.writeReg m (R.LINK.base l) (R.LINK.CAM l) v

/-- The writes of a link's window that have an effect of their own: the configuration is written while the link is IDLE,
and its read-only registers take no write (R349, R350). -/
def State.linkHook (s : State) (m : Master) (l off v : Nat) : Option State :=
  if off = 0x104 then some (s.writeGlCmd l v)
  else if off = 0x138 then some (s.writeCam m l v)
  else if 0x138 ≤ off then none
  else if s.linkState l ≠ 0 ∨ (off = 0x100 ∧ bitsN v 26 25 = 3) then some (s.cfgRefused R.WALL.base)
  else none

/-- A write of a table register: refused while the table is in use (R341). -/
def State.ctHook (s : State) (c off : Nat) : Option State :=
  if off < 0x218 ∧ s.tableUsed c then some (s.cfgRefused R.WALL.base) else none

/-- A link that is armed, engaging, engaged or held names the virtual master (R334). -/
def State.vmNamed (s : State) (v : Nat) : Bool :=
  (List.range 64).any (fun l =>
    let st := s.linkState l
    (st == 1 || st == 2 || st == 3 || st == 5) && s.msrc l == 2 && s.midx l == v)

/-- `VM[v].CTRL.SETPOS` (R334). -/
def State.vmSetpos (s : State) (v : Nat) : State :=
  if s.vmNamed v then s.cmdRefused R.WALL.base else s.setVm v (fun x => { x with setReq := true })

/-- The registers of a virtual master follow it (R350). -/
def State.vmShow (s : State) (v : Nat) : State :=
  let x := s.vmOf v
  (s.setRg64 (R.WALL.VM_POS v) (ux 64 (posQ ((x.pos : Rat) / (2 ^ 24 * 10 ^ 12 : Nat))))).setRg64 (R.WALL.VM_VEL_NOW v) (ux 64 x.velQ)

/-- A write of `VM[v].CTRL` (R334): EN = 0 holds the position with zero velocity. -/
def State.writeVmCtrl (s : State) (v w : Nat) : State :=
  let was := s.bit (R.WALL.VM_CTRL v) 0
  let on := bitN w 0
  let s1 := s.setRg (R.WALL.VM_CTRL v) (BitVec.ofNat 32 (w % 2))
  let s2 := if was = on then s1
    else if on then s1.setVm v (fun x => { x with last := s.now })
    else (s1.setVm v (fun x => { x with pos := x.pos + x.vel * ((s.now - x.last : Nat) : Int) / 16000, vel := 0, last := s.now })).vmShow v
  if bitN w 1 then s2.vmSetpos v else s2

/-- VIRTUAL_MASTER_UPDATE: the next multiple of 1,000 ns of an enabled virtual master (R334). -/
def State.vmUpdate (s : State) (v : Nat) : State :=
  let x := s.vmOf v
  let due := (x.last / us 1 + 1) * us 1
  if !s.bit (R.WALL.VM_CTRL v) 0 ∨ s.now < due then s else
  let tgt := s.sgn64 (R.WALL.VM_VEL v) * 10 ^ 6
  let acc : Int := (s.sgn64 (R.WALL.VM_ACC v)).natAbs
  let vel := if acc = 0 then tgt else x.vel + clampI (-acc) acc (tgt - x.vel)
  let pos := (if x.setReq then s.sgn64 (R.WALL.VM_SETPOS_VAL v) * 2 ^ 8 * 10 ^ 12 else x.pos + vel)
  (s.setVm v (fun _ => { pos := pos, vel := vel, last := due, setReq := false })).vmShow v

/-- The writes of the WALL page outside its windows that have an effect of their own. -/
def State.wallHook (s : State) (off v : Nat) : Option State :=
  if 0x300 ≤ off ∧ off < 0x500 ∧ off % 0x40 = 0 then some (s.writeVmCtrl ((off - 0x300) / 0x40) v)
  else none

/-- ACTIVE and HELD (R350). -/
def State.wallLive (s : State) (off : Nat) : Option Word :=
  let act := maskOf 64 (fun l => s.linkState l == 2 || s.linkState l == 3)
  let held := maskOf 64 (fun l => s.linkState l == 5)
  match off with
  | 0x48 => some (BitVec.ofNat 32 act)
  | 0x4c => some (BitVec.ofNat 32 (act >>> 32))
  | 0x50 => some (BitVec.ofNat 32 held)
  | 0x54 => some (BitVec.ofNat 32 (held >>> 32))
  | _ => none

/-- IN_USE of a table (R341). -/
def State.ctLive (s : State) (c off : Nat) : Option Word :=
  if off = 0x218 then some (BitVec.ofNat 32 (b2n (s.tableUsed c))) else none

/-- A sample put in its place, newest first. -/
def insertSample (x : RsSample) : List RsSample → List RsSample
  | [] => [x]
  | y :: r => if y.stamp ≤ x.stamp then x :: y :: r else y :: insertSample x r

/-- A sample of an axis broadcast frame reaches the remote slots that take it (R335, R443): the device,
the axis, the local stamp, position and velocity. -/
def State.remoteSample (s : State) (dev ax : Nat) (x : RsSample) : State :=
  (List.range 16).foldl (fun s r =>
    let c := s.rg (R.WALL.RS_CFG r)
    if !wbit c 24 || wfld c 15 0 != dev || wfld c 21 16 != ax then s else
    let all := insertSample x (vget s.wall.rs r)
    let late := all.filter (fun p => decide ((s.now : Int) < p.stamp))
    let keep := late ++ (all.filter (fun p => decide (p.stamp ≤ (s.now : Int)))).take 16
    ({ s with wall := { s.wall with rs := vupd s.wall.rs r (fun _ => keep) } }).setRg64 (R.WALL.RS_LAST r)
      (ux 64 (match keep with | y :: _ => y.stamp | [] => x.stamp))) s

/-- A soft reset of the WALL page: no link drives any axis, so every slave that is not armed by a start set is IDLE and
its words hold (R38, R332). -/
def State.wallReset (s : State) : State :=
  (List.range 64).foldl (fun (s : State) a =>
    let set_ := (List.range 16).any (fun n => (s.setAll (vget s.sset n).axes (vget s.sset n).groups).contains a)
    if s.wallSrc a && (s.groupOf a).isNone && !(s.axState a == 1 && set_) then s.slaveIdle a else s)
    { s with wall := { vmTick := s.wall.vmTick } }

/-- A soft reset of an AXIS page: the axis has SRC = 0, so a link no longer drives it, and the comparator sources of its
slot follow their filters again (R38, R326, R332). -/
def State.axisReset (s : State) (a : Nat) : State :=
  let s1 := match s.linkOf a with | some l => s.setLinkState l 0 | none => s
  match s1.slotOf a with | some n => s1.cmpMuteSync n | none => s1

/-- A soft reset of an IGRP page: the axes that were members of the group are no longer grouped, and hold their words
(R38, R301). -/
def State.groupReset (s : State) (g : Nat) : State :=
  (List.range 64).foldl (fun (s : State) a =>
    if s.bit (R.AXIS.STAT a) 4 && (s.groupOf a).isNone then
      ((s.putFld (R.AXIS.STAT a) 5 4 0).setAxState a 0).setAw a (fun w => { w with pn := some (s.posCmdOf a), startAt := none, resumeAt := none })
    else s) { s with grp := vupd s.grp g (fun _ => {}) }

/-! ### The AXIS page (R324, R329) -/

/-- A write of `AXIS[n].CTRL` (R312, R316, R317, R324, R329). An axis given to the Wallower while STOPPED becomes IDLE, as
by ABANDON: no link drives it (R332, assumption log 167). -/
def State.writeAxCtrl (s : State) (a v : Nat) : State :=
  let pg := R.AXIS.base a
  let join := bitsN v 8 4 ≠ s.fld (R.AXIS.CTRL a) 8 4
  let stepOk := match s.slotOf a with
    | some n => s.axRun a && s.omode n == 1 && s.bit (R.PWM.CTRL n) 7
    | none => false
  let linked : Bool := match s.linkOf a with | some _ => bitsN v 1 0 != 1 | none => false
  if 2 ≤ bitsN v 1 0 ∨ !s.atRest a ∨ linked = true ∨ (bitN v 2 ∧ !stepOk) ∨
      (join ∧ (s.setArmed (s.fld (R.AXIS.CTRL a) 7 4) ∨ s.setArmed (bitsN v 7 4))) then s.cfgRefused pg
  else
    let toWall : Bool := bitsN v 1 0 == 1 && !s.wallSrc a
    let s1 := s.setRg (R.AXIS.CTRL a) (BitVec.ofNat 32 (v % 2 ^ 9))
    let s2 := if bitN v 2 = s.bit (R.AXIS.CTRL a) 2 then s1 else
      match s.slotOf a with | some n => s1.cmpMuteSync n | none => s1
    match s.groupOf a with
    | some g => if toWall then s2.grBreak g a (s.eventTick ((s.members g).erase a)) else s2
    | none => if toWall && s.axState a == 4 then s2.axAbandon a else s2

/-- Entries of `MS_TAB` rise in VTH and coarsen in resolution (R325). -/
def msTabOk (ws : List Word) : Bool :=
  let on := ws.filter (fun w => wbit w 31)
  on.all (fun w => decide (wfld w 26 24 < 6)) &&
    (on.zip (on.drop 1)).all (fun p => decide (wfld p.1 23 0 < wfld p.2 23 0) && decide (wfld p.1 26 24 < wfld p.2 26 24))

/-- A write of `MS_TAB[k]` (R325, R329). -/
def State.writeMsTab (s : State) (m : Master) (a k v : Nat) : State :=
  let ws := (List.range 6).map (fun i => if i = k then BitVec.ofNat 32 v else s.rg (R.AXIS.MS_TAB a i))
  if msTabOk ws && decide (bitsN v 26 24 < 6) then s.writeReg m (R.AXIS.base a) (R.AXIS.MS_TAB a k) v
  else s.cfgRefused (R.AXIS.base a)

/-- The writes of an AXIS page that have an effect of their own. -/
def State.axisHook (s : State) (m : Master) (a off v : Nat) : Option State :=
  if off = 0x40 then some (s.writeFbSel a v)
  else if off = 0x44 then some (s.writeAxCtrl a v)
  else if off = 0x48 then some (match s.linkOf a, v % 128 with
    | some l, 4 => if s.linkState l = 5 ∧ ((s.masterAt l s.now).isNone ∨ (s.msrc l = 3 ∧ s.unsure)) then
        s.cmdRefused (R.AXIS.base a) else s.writeAxCmd a v
    | some l, 8 => if s.axState a = 4 then (s.writeAxCmd a v).setLinkState l 0 else s.writeAxCmd a v
    | _, _ => s.writeAxCmd a v)
  else if off = 0x50 then some (s.writeQwr a v)
  else if 0xe0 ≤ off ∧ off < 0xf8 then some (s.writeMsTab m a ((off - 0xe0) / 4) v)
  else if 0xc0 ≤ off ∧ off < 0xd8 ∧ !s.atRest a then some (s.cfgRefused (R.AXIS.base a))
  else none

/-- Q_LEVEL (R329). -/
def State.axisLive (s : State) (a off : Nat) : Option Word :=
  if off = 0x58 then some (BitVec.ofNat 32 (s.qLevel a)) else none

/-! ### The commands -/

/-- PROFILE_TICK (R301). -/
def execProfileTick (t : Time) (a : Fin 64) (s : State) : Host.Outcome State Fault Refusal := .next ((s.tick t).profileTick a)
/-- QUEUE_WRITE: a write of `Q_WR` (R305). -/
def execQueueWrite (t : Time) (_m : Master) (a : Fin 64) (v : Word) (s : State) : Host.Outcome State Fault Refusal :=
  .next ((s.tick t).onPage (R.AXIS.base a) (fun s => s.writeQwr a v.toNat))
/-- A write of one bit of `AXIS[n].CMD`. -/
def State.axCmdWrite (s : State) (m : Master) (a bit_ : Nat) : State :=
  s.onPage (R.AXIS.base a) (fun s => (s.axisHook m a 0x48 (2 ^ bit_)).getD s)
/-- AXIS_START (R323). -/
def execAxisStart (t : Time) (m : Master) (a : Fin 64) (s : State) : Host.Outcome State Fault Refusal := .next ((s.tick t).axCmdWrite m a 0)
/-- AXIS_STOP (R320). -/
def execAxisStop (t : Time) (m : Master) (a : Fin 64) (s : State) : Host.Outcome State Fault Refusal := .next ((s.tick t).axCmdWrite m a 1)
/-- AXIS_RESUME (R322, R345). -/
def execAxisResume (t : Time) (m : Master) (a : Fin 64) (s : State) : Host.Outcome State Fault Refusal := .next ((s.tick t).axCmdWrite m a 2)
/-- AXIS_ABANDON (R323, R345). -/
def execAxisAbandon (t : Time) (m : Master) (a : Fin 64) (s : State) : Host.Outcome State Fault Refusal := .next ((s.tick t).axCmdWrite m a 3)
/-- AXIS_FLUSH (R323). -/
def execAxisFlush (t : Time) (m : Master) (a : Fin 64) (s : State) : Host.Outcome State Fault Refusal := .next ((s.tick t).axCmdWrite m a 4)
/-- AXIS_SETPOS (R323). -/
def execAxisSetpos (t : Time) (m : Master) (a : Fin 64) (s : State) : Host.Outcome State Fault Refusal := .next ((s.tick t).axCmdWrite m a 5)
/-- AXIS_FBPOS (R323). -/
def execAxisFbpos (t : Time) (m : Master) (a : Fin 64) (s : State) : Host.Outcome State Fault Refusal := .next ((s.tick t).axCmdWrite m a 6)
/-- GROUP_ENABLE: a write of `IGRP[g].CTRL` (R312). -/
def execGroupEnable (t : Time) (_m : Master) (g : Fin 16) (v : Word) (s : State) : Host.Outcome State Fault Refusal :=
  .next ((s.tick t).onPage (R.IGRP.base g) (fun s => s.writeIgrpCtrl g v.toNat))
/-- A write of one bit of `IGRP[g].CMD`. -/
def State.grCmdWrite (s : State) (g bit_ : Nat) : State := s.onPage (R.IGRP.base g) (fun s => s.writeGrCmd g (2 ^ bit_))
/-- GROUP_START (R323). -/
def execGroupStart (t : Time) (_m : Master) (g : Fin 16) (s : State) : Host.Outcome State Fault Refusal := .next ((s.tick t).grCmdWrite g 0)
/-- GROUP_STOP (R320). -/
def execGroupStop (t : Time) (_m : Master) (g : Fin 16) (s : State) : Host.Outcome State Fault Refusal := .next ((s.tick t).grCmdWrite g 1)
/-- GROUP_RESUME (R322). -/
def execGroupResume (t : Time) (_m : Master) (g : Fin 16) (s : State) : Host.Outcome State Fault Refusal := .next ((s.tick t).grCmdWrite g 2)
/-- GROUP_ABANDON (R323). -/
def execGroupAbandon (t : Time) (_m : Master) (g : Fin 16) (s : State) : Host.Outcome State Fault Refusal := .next ((s.tick t).grCmdWrite g 3)
/-- GROUP_FLUSH (R323). -/
def execGroupFlush (t : Time) (_m : Master) (g : Fin 16) (s : State) : Host.Outcome State Fault Refusal := .next ((s.tick t).grCmdWrite g 4)
/-- A write of `SS_CTRL` with TRIG, PIN and EDGE as they stand. -/
def State.ssWrite (s : State) (n bit_ : Nat) : State :=
  s.onPage (R.IGRP.base n) (fun s => s.writeSsCtrl n (2 ^ bit_ + s.fld (R.IGRP.SS_CTRL n) 5 0))
/-- START_SET_ARM (R317). -/
def execStartSetArm (t : Time) (_m : Master) (n : Fin 16) (s : State) : Host.Outcome State Fault Refusal := .next ((s.tick t).ssWrite n 8)
/-- START_SET_DISARM (R330). -/
def execStartSetDisarm (t : Time) (_m : Master) (n : Fin 16) (s : State) : Host.Outcome State Fault Refusal := .next ((s.tick t).ssWrite n 9)
/-- START_SET_STROBE (R318). -/
def execStartSetStrobe (t : Time) (_m : Master) (n : Fin 16) (s : State) : Host.Outcome State Fault Refusal := .next ((s.tick t).ssWrite n 10)
/-- START_SET_MT_TRIGGER (R318, R319). -/
def execStartSetMtTrigger (t : Time) (n : Fin 16) (s : State) : Host.Outcome State Fault Refusal := .next ((s.tick t).setMtTrigger n)
/-- The members of a triggered set take their ticks at t_s (R318). -/
def State.setStart (s : State) (n : Nat) : State :=
  let ss := vget s.sset n
  if s.fld (R.IGRP.SS_STAT n) 2 0 = 2 ∧ ss.ts ≤ s.now then
    (s.setAll ss.axes ss.groups).foldl (fun s a => s.profileTick a) s
  else s
/-- START: the start instant of a triggered set (R318). -/
def execStart (t : Time) (n : Fin 16) (s : State) : Host.Outcome State Fault Refusal := .next ((s.tick t).setStart n)
/-- A write of `GL.CMD` through the writing master's window. -/
def State.glWrite (s : State) (m : Master) (bit_ : Nat) : State :=
  s.onPage R.WALL.base (fun s => s.writeGlCmd (s.selOf m).lsel (2 ^ bit_))
/-- ENGAGE (R342). -/
def execEngage (t : Time) (m : Master) (s : State) : Host.Outcome State Fault Refusal := .next ((s.tick t).glWrite m 0)
/-- DISENGAGE (R344). -/
def execDisengage (t : Time) (m : Master) (s : State) : Host.Outcome State Fault Refusal := .next ((s.tick t).glWrite m 1)
/-- DIS_ARM (R344). -/
def execDisArm (t : Time) (m : Master) (s : State) : Host.Outcome State Fault Refusal := .next ((s.tick t).glWrite m 2)
/-- CANCEL (R344). -/
def execCancel (t : Time) (m : Master) (s : State) : Host.Outcome State Fault Refusal := .next ((s.tick t).glWrite m 3)
/-- VIRTUAL_MASTER_UPDATE (R334). -/
def execVirtualMasterUpdate (t : Time) (v : Fin 8) (s : State) : Host.Outcome State Fault Refusal := .next ((s.tick t).vmUpdate v)
/-- VM_SETPOS: a write of `CTRL` with SETPOS = 1 and EN as it stands (R334). -/
def execVmSetpos (t : Time) (_m : Master) (v : Fin 8) (s : State) : Host.Outcome State Fault Refusal :=
  .next ((s.tick t).onPage R.WALL.base (fun s => s.writeVmCtrl v (2 + s.fld (R.WALL.VM_CTRL v) 0 0)))
/-- CT_WRITE: a write of `N` (0), `LEN` (1) or `RISE` (2) of the table that the master's TSEL names (R341). -/
def execCtWrite (t : Time) (m : Master) (k : Fin 3) (v : DWord) (s : State) : Host.Outcome State Fault Refusal :=
  .next ((s.tick t).onPage R.WALL.base (fun s =>
    let c := (s.selOf m).tsel
    (s.ctHook c (0x200 + 8 * k)).getD (s.writeReg m (R.CT.base c) (R.CT.N c + 8 * k) v.toNat)))

end Sys2Proof.Machine
end

