-- ==== Sys2Proof/Machine/Stepper.lean ====
section
/-! DEFINITION. Stepper microstepping and the coil-current chopper (R324 to R327). -/

namespace Sys2Proof.Machine

/-- The stepper of an axis. -/
def State.sp (s : State) (a : Nat) : StepSt := vget s.stp a
/-- The state with an axis's stepper changed. -/
def State.setSp (s : State) (a : Nat) (f : StepSt → StepSt) : State := { s with stp := vupd s.stp a f }

/-! ### Microsteps (R324, R325) -/

/-- Counts per microstep of a resolution code (R324, R329). -/
def resCounts (r : Nat) : Nat := match r with | 0 => 1 | 1 => 2 | 2 => 4 | 3 => 16 | 4 => 64 | _ => 256

/-- The quantised microstep of `c` counts at resolution code `r` (R324). -/
def microstep (c : Int) (r : Nat) : Int :=
  let g : Int := resCounts r
  128 + g * (2 * (c - 128) + g).fdiv (2 * g)

/-- The circle constant with an error below 2^-64. -/
def piRat : Rat := (57952155664616982739 : Nat) / (2 ^ 64 : Nat)

/-- Cosine (`odd` false) or sine of `x` from 0 to π/4, by its power series, with an error below 2^-50. -/
def trigSeries (odd : Bool) (x : Rat) : Rat :=
  let t0 : Rat := if odd then x else 1
  let n0 : Nat := if odd then 2 else 1
  ((List.range 10).foldl (fun (acc : Rat × Rat) (k : Nat) =>
    let d : Nat := (n0 + 2 * k) * (n0 + 2 * k + 1)
    let t : Rat := -(acc.2 * x * x) / (d : Rat)
    (acc.1 + t, t)) (t0, t0)).1

/-- Cosine of k/1024 of a turn, for k from 0 to 256. -/
def cosQuarter (k : Nat) : Rat :=
  if k ≤ 128 then trigSeries false (2 * piRat * (k : Rat) / 1024)
  else trigSeries true (2 * piRat * ((256 - k : Nat) : Rat) / 1024)

/-- Cosine of k/1024 of a turn. -/
def cosTurn (k : Nat) : Rat :=
  let k := k % 1024
  if k ≤ 256 then cosQuarter k
  else if k ≤ 512 then -cosQuarter (512 - k)
  else if k ≤ 768 then -cosQuarter (k - 512)
  else cosQuarter (1024 - k)

/-- A value in an integer format whose rounding the spec leaves open: one of the two neighbours (assumption log 61). -/
def openRound (x : Rat) : Int :=
  let f := x.num.fdiv x.den
  if (f : Rat) = x then f else if Config.carryUp x.num x.den then f + 1 else f

/-- The references of both bridges at the microstep `q` (R324). -/
def coilRefs (mag q : Nat) : Int × Int :=
  (satI 32 (openRound ((mag : Rat) * cosTurn q)), satI 32 (openRound ((mag : Rat) * cosTurn (q + 768))))

/-- The interval between two positions in Q48.16 contains a full-step position, its ends included (R325, assumption
log 168). -/
def passesFullStep (p0 p1 : Int) : Bool :=
  decide (min p0 p1 ≤ 128 * 65536 + 256 * 65536 * (max p0 p1 - 128 * 65536).fdiv (256 * 65536))

/-- The resolution that `MS_TAB` asks for at the speed `w`, in full steps/s with 2^-32 resolution: the target
code when a change is due (R325). -/
def State.resDue (s : State) (a : Nat) (w32 : Nat) (cur : Nat) : Option Nat :=
  let tab := (List.range 6).map (fun k => s.rg (R.AXIS.MS_TAB a k))
  let on := tab.filter (fun e => wbit e 31)
  let tgt := match (on.filter (fun e => decide (wfld e 23 0 * 2 ^ 32 ≤ w32))).getLast? with
    | some e => wfld e 26 24
    | none => 0
  if tgt = cur then none
  else if cur < tgt then some tgt
  else match on.find? (fun e => wfld e 26 24 == cur) with
    | some e => if 100 * w32 < 95 * (wfld e 23 0 * 2 ^ 32) then some tgt else none
    | none => some tgt

/-- `I_MAG`: the hold current once V has been 0 for `STEP_HOLD_DLY` (R324). -/
def State.stepMag (s : State) (a : Nat) (tk : Time) : Nat :=
  match (s.sp a).restFrom with
  | some t => (s.rg (if t + us (s.fld (R.AXIS.STEP_HOLD_DLY a) 15 0) ≤ tk then R.AXIS.STEP_IHOLD a else R.AXIS.STEP_IRUN a)).toNat
  | none => (s.rg (R.AXIS.STEP_IRUN a)).toNat

/-- An inner sample instant of an axis: how long V has been 0 is followed whether or not the stepper runs; the references formed at the previous one take effect, the
resolution may change, and q and the next references are formed (R324, R325). -/
def State.stepSample (s0 : State) (a : Nat) (tk : Time) : State :=
  let pv := s0.cmdAt a tk
  let rest := if pv.2 = 0 then some ((s0.sp a).restFrom.getD tk) else none
  let s := s0.setSp a (fun x => { x with restFrom := rest, ofs := (s0.sgn32 (R.AXIS.STEP_OFS_A a), s0.sgn32 (R.AXIS.STEP_OFS_B a)) })
  if !s.bit (R.AXIS.CTRL a) 2 then s.setSp a (fun x => { x with last := none, due := none, refs := (0, 0), next := (0, 0) }) else
  let c := roundHalfEven pv.1 65536
  let cur := s.fld (R.AXIS.STEP_STAT a) 12 10
  let w32 := pv.2.natAbs
  let due := s.resDue a w32 cur
  let x := s.sp a
  let pass := passesFullStep (x.last.getD pv.1) pv.1
  let now_ := match due with | some r => if pass then some r else none | none => none
  let res := now_.getD cur
  let s1 := match now_ with | some r => s.wsPost a 0x0B tk r | none => s
  let q := (microstep c res % 1024).toNat
  let s2 := s1.setSp a (fun x => { x with
    last := some pv.1, due := if now_.isSome then none else due, refs := x.next })
  let s3 := (((s2.putFld (R.AXIS.STEP_STAT a) 9 0 q).putFld (R.AXIS.STEP_STAT a) 12 10 res).putBit (R.AXIS.STEP_STAT a) 13
    (due.isSome && now_.isNone))
  s3.setSp a (fun x => { x with next := coilRefs (s3.stepMag a tk) q })

/-! ### The chopper (R326, R327) -/

/-- A bridge's chopper state: 0 ON, 1 FAST, 2 SLOW. -/
def State.brState (s : State) (a x : Nat) : Nat := s.fld (R.AXIS.STEP_STAT a) (15 + 2 * x) (14 + 2 * x)

/-- The commands of a bridge's half-bridges, and its state (R327): `drive` none for slow decay. -/
def State.brDrive (s : State) (n a x st : Nat) (drive : Option Bool) : State :=
  let bits := match drive with | some true => 1 | some false => 2 | none => 0
  (s.putFld (R.AXIS.STEP_STAT a) (15 + 2 * x) (14 + 2 * x) st).setPw n (fun p => { p with
    chopCmd := p.chopCmd - bitsN p.chopCmd (2 * x + 1) (2 * x) * 4 ^ x + bits * 4 ^ x })

/-- One step of a bridge's state machine at an instant (R327). -/
def State.brStep (s : State) (n a x : Nat) : State :=
  let i := s.stepRef a x
  let b := vget (s.sp a).br x
  let cfg := s.rg (R.AXIS.STEP_CHOP a)
  let toff := ns (100 * wfld cfg 9 0)
  let blank := ns (100 * wfld cfg 15 10)
  let fd := min 16 (wfld cfg 20 16)
  let zero := decide (i.natAbs < 2 ^ 15)
  let pos := decide (0 ≤ i)
  let pk := s.bit (R.SDM.CMP_STAT n) (if pos then x else 4 + x) && !s.testing n x (!pos)
  match s.brState a x with
  | 0 =>
    if zero || (decide (b.tOn + blank ≤ s.now) && pk) || pos != b.pos then
      (s.setSp a (fun z => { z with br := vupd z.br x (fun b => { b with tOff := s.now }) })).brDrive n a x 1 (some (!b.pos))
    else s.brDrive n a x 0 (some b.pos)
  | 1 =>
    if b.tOff + toff * fd / 16 ≤ s.now then s.brDrive n a x 2 none else s.brDrive n a x 1 (some (!b.pos))
  | _ =>
    if b.tOff + toff ≤ s.now ∧ !zero then
      (s.setSp a (fun z => { z with br := vupd z.br x (fun b => { b with tOn := s.now, pos := pos }) })).brDrive n a x 0 (some pos)
    else s.brDrive n a x 2 none

/-- Both bridges of a stepper slot at an instant, and its gates (R327). -/
def State.chopperEval (s : State) (n : Nat) : State :=
  match s.stepAxis n with
  | none => s
  | some a => (((s.brStep n a 0).brStep n a 1)).slotEval n

/-- The wait of one bridge has ended in the given state (R327). -/
def State.chopperWait (s : State) (n x st : Nat) : State :=
  match s.stepAxis n with
  | none => s
  | some a => if s.brState a x = st then (s.brStep n a x).slotEval n else s

/-- CMP_THRESHOLD_CROSSING: a fast-path update, and the chopper's peak (R128, R129, R327). -/
def execCmpThresholdCrossing (t : Time) (n : Fin 48) (i : Fin 4) (clk : List Time) (pin : List (Time × Bool))
    (c : Time) (s : State) : Host.Outcome State Fault Refusal := .next (((s.tick t).fastUpdate n i clk pin c).chopperEval n)
/-- CHOPPER_FAST_END (R327). -/
def execChopperFastEnd (t : Time) (n : Fin 48) (x : Fin 2) (s : State) : Host.Outcome State Fault Refusal :=
  .next ((s.tick t).chopperWait n x 1)
/-- CHOPPER_OFF_END (R327). -/
def execChopperOffEnd (t : Time) (n : Fin 48) (x : Fin 2) (s : State) : Host.Outcome State Fault Refusal :=
  .next ((s.tick t).chopperWait n x 2)
/-- CHOPPER_BLANK_END (R327). -/
def execChopperBlankEnd (t : Time) (n : Fin 48) (x : Fin 2) (s : State) : Host.Outcome State Fault Refusal :=
  .next ((s.tick t).chopperWait n x 0)

end Sys2Proof.Machine
end

