-- ==== Sys2Proof/Machine/Latch.lean ====
section
/-! DEFINITION. Capture inputs, SYNC pins and the Latch unit (R352 to R361). -/

namespace Sys2Proof.Machine

/-- A latch channel. -/
def State.ltc (s : State) (l : Nat) : LatchChan := vget s.lat.chan l
/-- The state with a latch channel changed. -/
def State.setLtc (s : State) (l : Nat) (f : LatchChan → LatchChan) : State :=
  { s with lat := { s.lat with chan := vupd s.lat.chan l f } }
/-- The channel is armed (`LT.STAT.ARMED`). -/
def State.chanArmed (s : State) (l : Nat) : Bool := s.bit (R.LT.STAT l) 0
/-- The channel armed or disarmed, in `LT.STAT` and `CAPT.ARMED`. -/
def State.armChan (s : State) (l : Nat) (on : Bool) : State :=
  (s.putBit (R.LT.STAT l) 0 on).putBit (R.CAPT.ARMED (l / 32)) (l % 32) on
/-- `LT.STAT.WAITING` shows whether a result of the channel is incomplete. -/
def State.showWaiting (s : State) (l : Nat) : State :=
  s.putBit (R.LT.STAT l) 1 (s.lat.waits.any (fun w => w.chan == l))
/-- `RES_LEVEL` shows the results queued. -/
def State.showResults (s : State) : State := s.setRg R.CAPT.RES_LEVEL (BitVec.ofNat 32 s.lat.queue.length)

/-! ### Positions (R355) -/

/-- The linear interpolation between two points, in Q48.16, rounded half to even. -/
def lerpQ (p q : Int) (num den : Nat) : Int := roundHalfEven ((p * den + (q - p) * num) * 65536) den

/-- A later edge or sample that brackets the instant has arrived (R355). -/
def State.bracketed (s : State) (p : Nat) (t : Time) : Bool :=
  if s.fbMode p < 3 then (vget s.fbp p).edges.any (fun e => decide (t < e.stamp))
  else (vget s.fbp p).samples.any (fun x => decide ((t : Int) < x.ts)) &&
    (vget s.fbp p).samples.any (fun x => decide (x.ts ≤ (t : Int)))

/-- The latched position of a port for an instant, EXTRAP and REVERSAL (R355); none where the port's history
does not reach back to the instant (assumption log 63). -/
def State.latchPos (s : State) (p : Nat) (t : Time) : Option (Int × Bool × Bool) :=
  let st := vget s.fbp p
  if s.fbMode p < 3 then
    let nxt := (st.edges.filter (fun e => decide (t < e.stamp))).getLast?
    match st.edges.find? (fun e => decide (e.stamp ≤ t)) with
    | some e =>
      let c := e.after
      if e.stamp = t then some (c * 65536, false, false) else
      (match nxt with
       | some n =>
         if n.fwd = e.fwd then some (lerpQ c (c + (if n.fwd then 1 else -1)) (t - e.stamp) (n.stamp - e.stamp), false, false)
         else some (c * 65536, false, true)
       | none => some (s.edgePos p t, true, false))
    | none =>
      if 257 ≤ st.edges.length then none
      else if nxt.isSome then some (s.countAt p t * 65536, false, false)
      else some (s.edgePos p t, true, false)
  else
    let nxt := (st.samples.filter (fun x => decide ((t : Int) < x.ts))).getLast?
    match st.samples.find? (fun x => decide (x.ts ≤ (t : Int))), nxt with
    | some e, some n => some (lerpQ e.pos n.pos ((t : Int) - e.ts).toNat (n.ts - e.ts).toNat, false, false)
    | some e, none => some (if e.ts = (t : Int) then (e.pos * 65536, false, false) else (s.serialPos p t, true, false))
    | none, _ => if 17 ≤ st.samples.length then none else some (s.serialPos p t, true, false)

/-! ### Results (R356 to R358) -/

/-- The eight words of a result (R358). -/
def latchWords (w : LatchWait) (pos : Int) (ext rev : Bool) (seq rej : Nat) : LatchRes :=
  let p := ux 64 pos
  let c := ux 64 (if wbit w.cfg 20 then w.cmd else 0)
  ⟨#v[BitVec.ofNat 32 w.stamp, BitVec.ofNat 32 (w.stamp >>> 32), BitVec.ofNat 32 p, BitVec.ofNat 32 (p >>> 32),
    BitVec.ofNat 32 c, BitVec.ofNat 32 (c >>> 32),
    BitVec.ofNat 32 (w.chan + b2n w.fbValid * 2 ^ 8 + b2n w.cmdValid * 2 ^ 9 + b2n ext * 2 ^ 10 + b2n rev * 2 ^ 11 +
      seq % 2 ^ 16 * 2 ^ 16), BitVec.ofNat 32 (min rej 0xFFFF)]⟩

/-- A complete result enters the queue, or is rejected by its window (R357, R358). -/
def State.latchQueue (s : State) (w : LatchWait) (pos : Int) (ext rev : Bool) : State :=
  let l := w.chan
  let v := if wbit w.cfg 3 then (if wbit w.cfg 20 then w.cmd else 0) else pos
  if wbit w.cfg 2 && !(decide (s.sgn64 (R.LT.WIN_LO l) ≤ v) && decide (v ≤ s.sgn64 (R.LT.WIN_HI l))) then
    s.setLtc l (fun c => { c with rejected := min 0xFFFF (c.rejected + 1) })
  else
    let r := latchWords w pos ext rev (s.ltc l).seq (s.ltc l).rejected
    let s1 := ({ s with lat := { s.lat with queue := s.lat.queue ++ [r] } }).showResults
    let s2 := s1.setLtc l (fun c => { c with seq := (c.seq + 1) % 2 ^ 16, rejected := 0 })
    let s3 := if s2.lat.queue.length = nz (s2.fld R.CAPT.RES_IRQ_LEVEL 12 0) then s2.irq R.CAPT.base 1 else s2
    if wfld w.cfg 1 0 = 1 then (s3.armChan l false).irq R.CAPT.base 4 else s3

/-- An incomplete result is formed and completes; forming it is an evaluation of its port (R102, R116, R355). -/
def State.latchFinish (s : State) (w : LatchWait) : State :=
  let s0 := ({ s with lat := { s.lat with waits := s.lat.waits.erase w } }).showWaiting w.chan
  if !wbit w.cfg 13 then s0.latchQueue w 0 false false else
  let s1 := s0.velZero (wfld w.cfg 19 14) w.stamp
  match s1.latchPos (wfld w.cfg 19 14) w.stamp with
  | some (p, ext, rev) => s1.latchQueue w p ext rev
  | none => s1.free.2.latchQueue w (sx 64 s1.free.1.toNat) false false

/-- What a trigger finds of a channel at its instant: commanded position and its validity, FB_VALID (R355, R356). -/
def State.latchView (s : State) (l : Nat) (t : Time) : Int × Bool × Bool :=
  let c := s.rg (R.LT.CFG l)
  let a := wfld c 26 21
  ((s.cmdAt a t).1, wbit c 20 && s.tickBefore a t, wbit c 13 && s.validAt (wfld c 19 14) t)

/-- A trigger of a channel at stamp `t` (R353, R354, R358). -/
def State.latchTrigger (s : State) (l : Nat) (t : Time) (view : Int × Bool × Bool) : State :=
  let c := s.rg (R.LT.CFG l)
  if !s.en R.CAPT.base || !s.chanArmed l || (wfld c 1 0 == 1 && s.lat.waits.any (fun w => w.chan == l)) then s else
  let inj := s.bit (R.PG_ERRINJ R.CAPT.base) 16
  if inj || decide (4096 ≤ s.lat.waits.length + s.lat.queue.length) then
    ((if inj then s.putBit (R.PG_ERRINJ R.CAPT.base) 16 false else s).count R.CAPT.LOST 15 0 1).irq R.CAPT.base 2
  else
    let w : LatchWait := { chan := l, cfg := c, stamp := t, cmd := view.1, cmdValid := view.2.1, fbValid := view.2.2 }
    let s1 := ({ s with lat := { s.lat with waits := s.lat.waits ++ [w] } }).showWaiting l
    if wbit c 13 then s1 else s1.latchFinish w

/-- `CFG.EDGE` takes an edge of the given polarity. -/
def latchEdge (c : Word) (rising : Bool) : Bool :=
  match wfld c 12 11 with | 0 => rising | 1 => !rising | _ => true

/-- An edge of a pin triggers the channels that wait for it, in order of channel number (R353). -/
def State.latchPin (s : State) (trig idx : Nat) (rising : Bool) (t : Time) : State :=
  (List.range 128).foldl (fun (s : State) l =>
    let c := s.rg (R.LT.CFG l)
    if wfld c 5 4 = trig ∧ wfld c 10 6 = idx ∧ latchEdge c rising then s.latchTrigger l t (s.latchView l t) else s) s

/-- The records that Q5 took trigger their channels (R353). -/
def State.latchRecords (s : State) : State :=
  let rs := s.lat.inbox
  rs.foldl (fun (s : State) r =>
    (List.range 128).foldl (fun (s : State) l =>
      if s.latchTakes l ⟨r.1, r.2.1, r.2.2, 0⟩ then s.latchTrigger l r.1 (s.latchView l r.1) else s) s)
    { s with lat := { s.lat with inbox := [] } }

/-- The result is complete: its position needs no later edge, or the bracketing edge has arrived (R355, R357). -/
def State.latchReady (s : State) (w : LatchWait) : Bool := s.bracketed (wfld w.cfg 19 14) w.stamp
/-- WAIT_MAX has passed (R355). -/
def State.latchExpired (s : State) (w : LatchWait) : Bool := decide (w.stamp + ns (s.rg (R.LT.WAIT_MAX w.chan)).toNat ≤ s.now)

/-- The incomplete results that satisfy `f` complete, in order of channel number (R357). -/
def State.latchSweep (s : State) (f : State → LatchWait → Bool) : State :=
  (List.range 128).foldl (fun (s : State) l =>
    (s.lat.waits.filter (fun w => w.chan == l && f s w)).foldl (fun (s : State) w => s.latchFinish w) s) s

/-- LATCH_RESULT_COMPLETE: the results whose next edge or sample has arrived (R355). -/
def execLatchResultComplete (t : Time) (s : State) : Host.Outcome State Fault Refusal :=
  .next ((s.tick t).latchSweep State.latchReady)
/-- LATCH_WAIT_TIMEOUT: the results whose WAIT_MAX has passed (R355). -/
def execLatchWaitTimeout (t : Time) (s : State) : Host.Outcome State Fault Refusal :=
  .next ((s.tick t).latchSweep (fun s w => s.latchExpired w && !s.latchReady w))

/-! ### Commands and registers (R354, R359 to R361) -/

/-- ARM, refused while MODE = 0 (R354, R360). -/
def State.latchArm (s : State) (l : Nat) : State :=
  if s.fld (R.LT.CFG l) 1 0 = 0 then s.cmdRefused R.CAPT.base else s.armChan l true
/-- DISARM (R354). -/
def State.latchDisarm (s : State) (l : Nat) : State := s.armChan l false
/-- A write of `LT.CMD` (R354). -/
def State.writeLtCmd (s : State) (l v : Nat) : State :=
  let s1 := if bitN v 0 then s.latchArm l else s
  if bitN v 1 then s1.latchDisarm l else s1

/-- LATCH_ARM: a write of `LT.CMD` by a master, to the channel its LTSEL names (R354, R360). -/
def execLatchArm (t : Time) (m : Master) (s : State) : Host.Outcome State Fault Refusal :=
  .next ((s.tick t).onPage R.CAPT.base (fun s => s.writeLtCmd (s.selOf m).ltsel 1))
/-- LATCH_DISARM (R354, R360). -/
def execLatchDisarm (t : Time) (m : Master) (s : State) : Host.Outcome State Fault Refusal :=
  .next ((s.tick t).onPage R.CAPT.base (fun s => s.writeLtCmd (s.selOf m).ltsel 2))

/-- Writes behind the channel window with a meaning of their own (R354, R360). -/
def State.latHook (s : State) (l off v : Nat) : Option State :=
  if off = 0x108 then some (s.writeLtCmd l v)
  else if 0x100 ≤ off ∧ off < 0x124 ∧ off ≠ 0x10c then
    (if s.chanArmed l || (off == 0x100 && (bitsN v 1 0 == 3 || bitsN v 12 11 == 3 || decide (48 ≤ bitsN v 19 14))) then
      some (s.cfgRefused R.CAPT.base) else none)
  else none

/-- The words of the CAPT page that show the present levels of the pins (R352, R360). -/
def State.capLive (s : State) (off : Nat) : Option Word :=
  if off = 0x4c then some s.lat.cpPins
  else if off = 0x5c then some (wput (s.rg R.CAPT.SYNC_EDGE) 23 16 s.lat.syncPins.toNat)
  else none

/-- What a capture takes of a pop word of the result queue (R39, R359, assumption log 154). -/
def State.resPopNow (s : State) (i : Nat) : Word :=
  if i = 0 then (s.lat.queue.headD ⟨Vector.replicate 8 0⟩).words[0]
  else match s.lat.hold with
    | some (_, r) => vget r.words i
    | none => 0

/-- A pop of the result queue: the head, or an all-zero record, is held for the master; word 0 (R359). -/
def State.resPop (s : State) (m : Master) : Word × State :=
  match s.popShut (R.CAPT.base + 0x80) with
  | some w => (w, s)
  | none =>
  let r : LatchRes := s.lat.queue.headD ⟨Vector.replicate 8 0⟩
  (r.words[0], ({ s with lat := { s.lat with queue := s.lat.queue.tail, hold := some (m, r) } }).showResults)

/-- A read of pop words 1 to 7 (R359). -/
def State.resPopWord (s : State) (m : Master) (i : Nat) : Word × State :=
  match s.popShut (R.CAPT.base + 0x80 + 4 * i) with
  | some w => (w, s)
  | none =>
  match s.lat.hold with
  | some (h, r) =>
    if h = m then (vget r.words i, if i = 7 then { s with lat := { s.lat with hold := none } } else s)
    else (0, s.pairErr R.CAPT.base)
  | none => (0, s.pairErr R.CAPT.base)

/-- RES_POP: a 32-bit read of `RES_POP0`, or a 64-bit read of `RES_POP0`/`RES_POP1` (R359). -/
def execResPop (t : Time) (m : Master) (wide : Bool) (s : State) : Host.Outcome State Fault Refusal :=
  let r := (s.tick t).resPop m
  .next (if wide then
      let r2 := r.2.resPopWord m 1
      r2.2.ret2 r.1 r2.1
    else r.2.ret r.1)
/-- RES_POP_WORD: a read of pop word 1 to 7 (R359). -/
def execResPopWord (t : Time) (m : Master) (i : Fin 8) (s : State) : Host.Outcome State Fault Refusal :=
  let r := (s.tick t).resPopWord m (max i.val 1)
  .next (r.2.ret r.1)

/-! ### Pins (R352) -/

/-- An edge closer than 1 ns to the last stamped edge of its input: a glitch, without a stamp (R56). -/
def tdcGlitch (last : Option Time) (stamp : Time) : Bool := last.any (fun l => decide (stamp < l + 16))

/-- An edge of a capture input (R352, R353); of a glitch the input keeps the level alone (R56, assumption log 164). -/
def State.cpEdge (s : State) (i : Nat) (lvl : Bool) (stamp : Time) : State :=
  if s.lat.cpPins.getLsbD i = lvl then s else
  let s0 := { s with lat := { s.lat with cpPins := wput s.lat.cpPins i i (b2n lvl) } }
  if tdcGlitch (vget s.lat.cpLast i) stamp then s0 else
  let s1 := { s0 with lat := { s0.lat with cpLast := vupd s0.lat.cpLast i (fun _ => some stamp) } }.probeStamp (16 + i) stamp
  let s2 := if s1.en R.CAPT.base && s1.bit (if lvl then R.CAPT.CP_RISE else R.CAPT.CP_FALL) i then
      s1.post (0x30 + i) 0x01 stamp (b2n lvl) else s1
  s2.latchPin 0 i lvl stamp

/-- An edge of a SYNC pin: the event, a snapshot, shared starts and latch channels (R65, R318, R352, R353); of a glitch
the level alone (R56, assumption log 164). -/
def State.syncEdge (s : State) (i : Nat) (lvl : Bool) (stamp : Time) : State :=
  if s.lat.syncPins.getLsbD i = lvl then s else
  let s0 := { s with lat := { s.lat with syncPins := BitVec.ofNat 8 (putBitN s.lat.syncPins.toNat i lvl) } }
  if tdcGlitch (vget s.lat.syncLast i) stamp then s0 else
  let s1 := { s0 with lat := { s0.lat with syncLast := vupd s0.lat.syncLast i (fun _ => some stamp) } }.probeStamp (8 + i) stamp
  let s2 := if s1.en R.CAPT.base && s1.bit R.CAPT.SYNC_EDGE (if lvl then i else 8 + i) then
      s1.post (0x150 + i) 0x01 stamp (b2n lvl) else s1
  let s3 := if s2.fld R.TIME.SNAP_CTRL 2 1 = 1 ∧ s2.fld R.TIME.SNAP_CTRL 5 3 = i then s2.snapshot (edgeOf (ceilEdge stamp)) else s2
  (s3.setSync i lvl stamp).latchPin 2 i lvl stamp

/-- CP_EDGE: an edge of capture input `i` to level `lvl`, with its TDC stamp (R352). -/
def execCpEdge (t : Time) (i : Fin 32) (lvl : Bool) (stamp : Time) (s : State) : Host.Outcome State Fault Refusal :=
  .next ((s.tick t).cpEdge i lvl stamp)
/-- SYNC_EDGE: an edge of pin SYNCi to level `lvl`, with its TDC stamp (R352). -/
def execSyncEdge (t : Time) (i : Fin 8) (lvl : Bool) (stamp : Time) (s : State) : Host.Outcome State Fault Refusal :=
  .next ((s.tick t).syncEdge i lvl stamp)

end Sys2Proof.Machine
end

