-- ==== Sys2Proof/Machine/Field.lean ====
section
/-! DEFINITION. The field inputs and outputs (R380 to R396). -/

namespace Sys2Proof.Machine

/-- A field input. -/
def State.fin (s : State) (i : Nat) : FiSt := vget s.fi i
/-- The state with a field input changed. -/
def State.setFin (s : State) (i : Nat) (f : FiSt → FiSt) : State := { s with fi := vupd s.fi i f }
/-- A field output. -/
def State.fout (s : State) (j : Nat) : FoSt := vget s.fo j
/-- The state with a field output changed. -/
def State.setFout (s : State) (j : Nat) (f : FoSt → FoSt) : State := { s with fo := vupd s.fo j f }
/-- An event of a field input with its `PG_IRQ` bit (R394, R396). -/
def State.fiPost (s : State) (i code : Nat) (stamp : Time) (payload : Nat) : State :=
  (s.irq R.FIELD.base (if code = 1 then 1 else 2)).post (0x80 + i) code stamp payload
/-- An event of a field output with its `PG_IRQ` bit (R394, R396). -/
def State.foPost (s : State) (j code payload : Nat) : State :=
  (s.irq R.FIELD.base (if code = 1 then 4 else 16)).postNow (0xA0 + j) code payload
/-- FO_FAULT: fault number `f` set or cleared (R391, R394). -/
def State.foFaultPost (s : State) (j f : Nat) (set : Bool) : State := s.foPost j 0x01 (f + b2n set * 8)
/-- `FIELD.STAT.UV`. -/
def State.fieldUv (s : State) : Bool := s.bit R.FIELD.STAT 0

/-! ### Inputs (R381 to R385) -/

/-- The level of an input before debouncing, INV applied (R383). -/
def State.fiLevel (s : State) (i : Nat) : Bool := (s.fin i).pin != s.bit (R.FIELD.FI_CFG i) 2

/-- Debouncing goes on while the page and the input are enabled, the link is alive and the field supply is up. -/
def State.fiLive (s : State) (i : Nat) : Bool :=
  s.en R.FIELD.base && s.bit (R.FIELD.FI_CFG i) 0 && !s.bit (R.FIELD.FI_STAT i) 3 && !s.fieldUv

/-- What a latch on an input finds at a raw stamp, whatever axis and port its channel names (R355, R356). -/
def State.fiViews (s : State) (t : Time) : List (Int × Bool) × List Bool :=
  ((List.range 64).map (fun a => ((s.cmdAt a t).1, s.tickBefore a t)), (List.range 48).map (fun n => s.validAt n t))

/-- Debouncing judges the present level from an instant on: a level that differs from the accepted state waits,
one that equals it discards what waited (R383). -/
def State.fiJudge (s : State) (i : Nat) (t : Time) : State :=
  let lv := s.fiLevel i
  let s1 := s.putBit (R.FIELD.FI_STAT i) 1 lv
  if !s1.fiLive i then s1.setFin i (fun f => { f with pend := none })
  else if lv = s1.bit (R.FIELD.FI_STAT i) 0 then s1.setFin i (fun f => { f with pend := none })
  else
    let x := s1.fiViews t
    s1.setFin i (fun f => { f with pend := some (t, lv), cmds := x.1, valids := x.2 })

/-- The raw stamp of what arrives through a coupler now: 120 ns earlier (R23, R380, R382). -/
def State.rawNow (s : State) : Time := s.now - ns 120

/-- The sample period of an input. -/
def State.fiSper (s : State) (i : Nat) : Time := us (s.fld (R.FIELD.FI_CFG i) 17 8)
/-- The field die compares the input with its threshold at an FCLK edge: always with a continuous sink, and otherwise in
the last 1 us of each 2 us window that begins every SPER us (R381, assumption log 195). -/
def State.fiSampled (s : State) (i : Nat) (e : Time) : Bool :=
  let per := s.fiSper i
  let x := ((e : Int) - (Config.fiPhase i (s.fin i).since : Nat)) % (per : Int)
  decide (per < us 3) || (decide ((us 1 : Nat) ≤ x) && decide (x ≤ (us 2 : Nat)))
/-- The FCLK edge whose level arrives now: 110 ns to 130 ns ago (R380). -/
def State.fiEdge (s : State) (seen : Time) : Time := max (s.now - ns 130) (min (s.now - ns 110) seen)
/-- A level change that the field die saw at an FCLK edge arrives through the coupler now: its raw stamp is 120 ns before
its arrival; between the sampling windows the level holds (R381, R382). -/
def State.fiChange (s : State) (i : Nat) (lvl : Bool) (seen : Time) : State :=
  if (s.fin i).pin = lvl ∨ !s.fiSampled i (s.fiEdge seen) then s
  else (s.setFin i (fun f => { f with pin := lvl })).fiJudge i s.rawNow

/-- The debounce time of an input. -/
def State.fiDeb (s : State) (i : Nat) : Time := us (s.fld (R.FIELD.FI_DEB i) 15 0)

/-- What a latch channel on an input takes of what stood at the raw stamp (R355, R356). -/
def FiSt.viewOf (f : FiSt) (c : Word) : Int × Bool × Bool :=
  let x := f.cmds.getD (wfld c 26 21) (0, false)
  (x.1, wbit c 20 && x.2, wbit c 13 && f.valids.getD (wfld c 19 14) false)
/-- The latch channels on an input take its accepted change (R353, R383). -/
def State.fiLatch (s : State) (i : Nat) (lv : Bool) (raw : Time) : State :=
  (List.range 128).foldl (fun (s : State) l =>
    let c := s.rg (R.LT.CFG l)
    if wfld c 5 4 = 1 ∧ wfld c 10 6 = i ∧ latchEdge c lv then s.latchTrigger l raw ((s.fin i).viewOf c) else s) s

/-- The decision instant: a change becomes the accepted state (R383). -/
def State.fiDecide (s : State) (i : Nat) : State :=
  match (s.fin i).pend with
  | none => s
  | some (raw, lv) =>
    let at_ := raw + s.fiDeb i
    if s.now < at_ then s else
    let s1 := (((s.setFin i (fun f => { f with pend := none })).putBit (R.FIELD.FI_STAT i) 0 lv).putBit
      R.FIELD.FI_STATE i lv).setRg64 (R.FIELD.FI_STAMP i) raw
    let s2 := s1.probeStamp (48 + i) raw
    let c := s2.rg (R.FIELD.FI_CFG i)
    let s3 := if wbit c (if lv then 18 else 19) then
        s2.fiPost i 0x01 at_ (b2n lv + b2n (decide (3 ≤ wfld c 17 8)) * 2 + raw / 16 % 2 ^ 32 * 2 ^ 16) else s2
    s3.fiLatch i lv raw

/-- FIELD_INPUT_CHANGE: a change of input `i` to `lvl`, which the field die saw at its FCLK edge `seen`, arrives through its
coupler at the command's instant (R382). -/
def execFieldInputChange (t : Time) (i : Fin 32) (lvl : Bool) (seen : Time) (s : State) :
    Host.Outcome State Fault Refusal := .next ((s.tick t).fiChange i lvl seen)
/-- FI_EDGE (R383). -/
def execFiEdge (t : Time) (i : Fin 32) (s : State) : Host.Outcome State Fault Refusal := .next ((s.tick t).fiDecide i)

/-- A sampling window ends, with a current below 0.35 mA or not (R384). -/
def State.wireWindow (s : State) (i : Nat) (low : Bool) : State :=
  let c := s.rg (R.FIELD.FI_CFG i)
  if !s.fiLive i || !wbit c 3 then s.setFin i (fun f => { f with low := 0 }) else
  if low then
    let k := (s.fin i).low + 1
    let s1 := s.setFin i (fun f => { f with low := min k 15 })
    if nz (wfld c 7 4) ≤ k ∧ !s.bit (R.FIELD.FI_STAT i) 2 then
      (s1.putBit (R.FIELD.FI_STAT i) 2 true).fiPost i 0x02 s.now 1 else s1
  else
    let s1 := s.setFin i (fun f => { f with low := 0 })
    if s.bit (R.FIELD.FI_STAT i) 2 then (s1.putBit (R.FIELD.FI_STAT i) 2 false).fiPost i 0x02 s.now 0 else s1
/-- WIRE_BREAK: a sampling window of input `i` ends (R384). -/
def execWireBreak (t : Time) (i : Fin 32) (low : Bool) (s : State) : Host.Outcome State Fault Refusal :=
  .next ((s.tick t).wireWindow i low)

/-- No refresh from an input's coupler for 20 us (R385). -/
def State.fiSilence (s : State) (i : Nat) : State :=
  if s.bit (R.FIELD.FI_STAT i) 3 then s else
  (((s.putBit (R.FIELD.FI_STAT i) 3 true).setFin i (fun f => { f with pend := none })).fiPost i 0x03 s.now 1).report
    0x20 i 0 true 0
/-- FI_SILENT (R385). -/
def execFiSilent (t : Time) (i : Fin 32) (s : State) : Host.Outcome State Fault Refusal := .next ((s.tick t).fiSilence i)
/-- The first valid refresh after silence, with the level it carries (R385). -/
def State.fiReturn (s : State) (i : Nat) (lvl : Bool) : State :=
  if !s.bit (R.FIELD.FI_STAT i) 3 then s else
  ((((s.putBit (R.FIELD.FI_STAT i) 3 false).setFin i (fun f => { f with pin := lvl })).fiPost i 0x03 s.now 0).reportClear
    0x20 i).fiJudge i s.rawNow
/-- FI_REFRESH_RETURN (R385). -/
def execFiRefreshReturn (t : Time) (i : Fin 32) (lvl : Bool) (s : State) : Host.Outcome State Fault Refusal :=
  .next ((s.tick t).fiReturn i lvl)

/-! ### Outputs (R386 to R389) -/

/-- `CTRL.MODE` of an output. -/
def State.foMode (s : State) (j : Nat) : Nat := s.fld (R.FIELD.FO_CTRL j) 1 0
/-- `CTRL.AXIS` of an output. -/
def State.foAxis (s : State) (j : Nat) : Nat := s.fld (R.FIELD.FO_CTRL j) 7 2
/-- The MODE 3 outputs of an axis in ascending number: the element at r has rank r (R387). -/
def State.foOfAxis (s : State) (a : Nat) : List Nat :=
  (List.range 32).filter (fun j => s.foMode j == 3 && s.foAxis j == a)
/-- The ladder's level for an axis (`AXLVL`). -/
def State.axLevel (s : State) (a : Nat) : Nat := s.fld (R.BRAKE.AXLVL (a / 8)) (4 * (a % 8) + 2) (4 * (a % 8))
/-- A member of the safety group. -/
def State.sgMember (s : State) (j : Nat) : Bool := s.bit R.BRAKE.SG_MEMBERS j
/-- The Brakewheel holds the safety group: HOLD, SAFE, an island fault or a proof test (R464, R485). -/
def State.sgHeld (s : State) : Bool := s.bit R.BRAKE.SG_CTRL 0 || s.dev.st == .safe || s.bw.island || s.sess.proof

/-- A condition holds the output off (R386, R391, R392, R466). -/
def State.foHeld (s : State) (j : Nat) : Bool :=
  !s.en R.FIELD.base || s.dev.st != .run || s.dev.outsOff || s.foMode j == 0 || s.fld (R.FIELD.FO_STAT j) 3 1 != 0 || (s.fout j).silent ||
    s.fld R.FIELD.STAT 1 0 != 0 || s.bit (R.FIELD.FO_STAT j) 8 ||
    (s.foMode j == 3 && (s.slotOf (s.foAxis j)).isNone && decide (4 ≤ s.axLevel (s.foAxis j)))

/-- A reported fault `f` ends with its condition (R391). -/
def State.foUnreport (s : State) (j f : Nat) : State :=
  if s.bit (R.FIELD.FO_STAT j) f then (s.putBit (R.FIELD.FO_STAT j) f false).foFaultPost j f false else s
/-- The output switches on or off. OL_OFF and SHORT_VF are conditions of an output that is off: they end as it
switches on (R391, assumption log 174). -/
def State.foSwitch (s : State) (j : Nat) (on : Bool) : State :=
  let s0 := if s.bit (R.FIELD.FO_STAT j) 0 = on then s else
    s.setFout j (fun f => { f with onAcc := f.onAcc + (s.now - f.onFrom.getD s.now), swAt := s.now,
                                   onFrom := if on then some s.now else none })
  let s1 := (s0.putBit (R.FIELD.FO_STAT j) 0 on).putBit R.FIELD.FO_ON j on
  if on then (s1.foUnreport j 5).foUnreport j 6 else s1
/-- An output that a condition holds off is off (R386). -/
def State.foEval (s : State) (j : Nat) : State :=
  if s.foHeld j then (s.setFout j (fun f => { f with offAt := none })).foSwitch j false else s
/-- Every output evaluated. -/
def State.foEvalAll (s : State) : State := (List.range 32).foldl (fun s j => s.foEval j) s

/-- The period of an output. -/
def State.foPer (s : State) (j : Nat) : Nat := s.fld (R.FIELD.FO_PER j) 19 0 * 1000

/-- The on-time in ns of a duty word for a period in ns (R388). -/
def foOnTime (d : Word) (per : Nat) : Nat :=
  let x := d.toInt
  let w0 : Nat := if x ≤ 0 then 0 else
    let n := min (x.toNat / 2 ^ 15) 65535
    if n = 65535 then per else n * per / 65536
  let w1 := if w0 < 2000 then 0 else w0
  if per - w1 < 2000 then per else w1

/-- The staged register writes of a page that satisfy `f` take effect (R44, R388). -/
def State.releaseWhere (s : State) (pg : Nat) (f : Staged → Bool) : State :=
  if s.bit (R.PG_SHADOW pg) 0 then s else
  let ws := (s.page pg).staged.filter f
  (ws.foldl (fun (s : State) (w : Staged) => s.setRg (pg + w.off) w.val) s).setPage pg (fun p =>
    { p with staged := p.staged.filter (fun w => !f w) })

/-- The offset of `FO[j].DUTY` in the FIELD page. -/
def foDutyOff (j : Nat) : Nat := R.FIELD.FO_DUTY j - R.FIELD.base

/-- The output in the period that starts at `p`, by the duty in force (R387, R388). -/
def State.foDrive (s : State) (j : Nat) (p : Int) : State :=
  let per := s.foPer j
  if s.foHeld j then s.foSwitch j false else
  let w := if s.foMode j = 1 then per else foOnTime (s.rg (R.FIELD.FO_DUTY j)) per
  if w = 0 then s.foSwitch j false
  else if w = per then s.foSwitch j true
  else (s.foSwitch j true).setFout j (fun f => { f with offAt := some (p.toNat + ns w) })
/-- A duty that a commit releases at the very instant at which the output's period started is in force for it (R18, R388). -/
def State.foDuty (s : State) (j : Nat) (v : Word) : State :=
  let s1 := s.setRg (R.FIELD.FO_DUTY j) v
  if (s1.fout j).start = some (s1.now : Int) then (s1.setFout j (fun f => { f with offAt := none })).foDrive j s1.now else s1

/-- A period of output `j` starts: staged duties of outputs not driven by an axis are released, and the duty in
force sets the on-time (R387, R388). -/
def State.foStart (s : State) (j : Nat) : State :=
  let per := s.foPer j
  let anchor : Int := s.rg64 R.FIELD.FO_ANCHOR
  let p : Int := (s.now : Int) - ((s.now : Int) - anchor) % (16 * per : Nat)
  if (s.fout j).start = some p ∨ per = 0 then s else
  let s1 := s.setFout j (fun f => { f with start := some p, offAt := none })
  let s2 := if s1.foMode j = 3 then s1
    else s1.releaseWhere R.FIELD.base (fun w => w.off == foDutyOff j && decide ((w.from_ : Int) ≤ p))
  s2.foDrive j p

/-- FO_PERIOD_START (R387, R388). -/
def execFoPeriodStart (t : Time) (j : Fin 32) (s : State) : Host.Outcome State Fault Refusal := .next ((s.tick t).foStart j)

/-- The on-time ends (R388). -/
def State.foOnEnd (s : State) (j : Nat) : State :=
  match (s.fout j).offAt with
  | some x => if s.now < x then s else (s.setFout j (fun f => { f with offAt := none })).foSwitch j false
  | none => s
/-- FO_ON_TIME_END (R388). -/
def execFoOnTimeEnd (t : Time) (j : Fin 32) (s : State) : Host.Outcome State Fault Refusal := .next ((s.tick t).foOnEnd j)

/-- Frame word 17 of an axis at `tk`: the latest conversion of its rank-0 output with a stamp at or before it (R15, R389). -/
def State.foCurrent (s : State) (a : Nat) (tk : Time) : Word :=
  match s.foOfAxis a with
  | j :: _ => (((s.fout j).convs.find? (fun x => decide (x.1 ≤ tk))).map Prod.snd).getD 0
  | [] => 0

/-- A write of `FO[j].CTRL` (R387, R396). -/
def State.writeFoCtrl (s : State) (m : Master) (j v : Nat) : State :=
  let md := bitsN v 1 0
  if s.foMode j ≠ 0 ∧ md ≠ 0 then s.cfgRefused R.FIELD.base
  else if md = 3 ∧ 4 ≤ (s.foOfAxis (bitsN v 7 2)).length then s.cfgRefused R.FIELD.base
  else
    let s0 := (s.writeReg m R.FIELD.base (R.FIELD.FO_CTRL j) v).foEval j
    let s1 := s0.setFout j (fun f => { f with onAcc := 0 })
    let s2 := if s1.bit (R.FIELD.FO_CTRL j) 8 then s1 else s1.foUnreport j 4
    if s2.bit (R.FIELD.FO_CTRL j) 9 then s2 else s2.foUnreport j 5
/-- FO_CONFIG_WRITE (R387). -/
def execFoConfigWrite (t : Time) (m : Master) (j : Fin 32) (v : Word) (s : State) : Host.Outcome State Fault Refusal :=
  .next ((s.tick t).onPage R.FIELD.base (fun s => s.writeFoCtrl m j v.toNat))

/-! ### Diagnostics (R391) -/

/-- A field fault of an output is reported to the ladder, and as SG_FAULT for a member of the safety group (R391, R470). -/
def State.foReport (s : State) (j code : Nat) : State :=
  let s1 := s.report code j 0 true 0
  if s1.sgMember j then s1.report 0x23 j 0 true 0 else s1
/-- A field fault of an output is reported clear; SG_FAULT clears with the last one. -/
def State.foReportClear (s : State) (j code : Nat) : State :=
  let s1 := s.reportClear code j
  if s1.fld (R.FIELD.FO_STAT j) 2 1 = 0 ∧ !(s1.fout j).ctlSilent then s1.reportClear 0x23 j else s1

/-- OC (1) or THERMAL (2) is detected or its condition ends (R391). -/
def State.foLatching (s : State) (j f : Nat) (set : Bool) : State :=
  let s1 := s.setFout j (fun o => { o with cond := if set then o.cond ||| 2 ^ f else o.cond ^^^ (o.cond &&& 2 ^ f) })
  if !set || s.bit (R.FIELD.FO_STAT j) f then s1 else
  (((s1.putBit (R.FIELD.FO_STAT j) f true).foFaultPost j f true).foReport j 0x21).foEval j

/-- The output has been off for 10 ms (R391). -/
def State.foOff (s : State) (j : Nat) : Bool :=
  !s.bit (R.FIELD.FO_STAT j) 0 && decide ((s.fout j).swAt + ms 10 ≤ s.now)
/-- OL_ON (4), OL_OFF (5) or SHORT_VF (6) is detected or ends: reported only (R391). -/
def State.foReported (s : State) (j f : Nat) (set : Bool) : State :=
  let en : Bool := match f with
    | 4 => s.bit (R.FIELD.FO_CTRL j) 8
    | 5 => s.bit (R.FIELD.FO_CTRL j) 9 && s.foOff j && !s.bit (R.FIELD.FO_STAT j) 6
    | _ => s.foOff j
  if (set && !en) || s.bit (R.FIELD.FO_STAT j) f == set then s
  else
    let s1 := if set && f == 6 then s.foUnreport j 5 else s
    (s1.putBit (R.FIELD.FO_STAT j) f set).foFaultPost j f set

/-- The on-time of an output since its current fell below 20 mA, at this instant (R391). -/
def State.foLit (s : State) (j : Nat) : Nat :=
  (s.fout j).onAcc + (s.now - (s.fout j).onFrom.getD s.now)
/-- The current has stood above `OC_LIM` for longer than INRUSH ms, or above 2.5 A for longer than 50 ms (R391). -/
def State.foOver (s : State) (j : Nat) (t : Time) : Bool :=
  (s.fout j).ocFrom.any (fun x => x + ms (s.fld (R.FIELD.FO_OC_LIM j) 23 16) < t) ||
    (s.fout j).inFrom.any (fun x => x + ms 50 < t)
/-- The current has stood below 20 mA for 10 ms of on-time (R391). -/
def State.foOpen (s : State) (j : Nat) : Bool := (s.fout j).lowI && decide (ms 10 ≤ s.foLit j)
/-- The end of the conversion of an output that is due now, which is its stamp: 2 us before the coming inner sample
instant for the rank-0 output of an axis, and otherwise the latest GTC multiple of 50 us (R389, assumption log 196). -/
def State.foEnd (s : State) (j : Nat) : Option Time :=
  let a := s.foAxis j
  let last := (s.fout j).convs.head?.map Prod.fst
  let g := s.now / us 50 * us 50
  let grid := if last.all (fun x => x < g) then some g else none
  if (s.foOfAxis a).head? = some j then
    match s.levelFrom a 1 s.now with
    | some tk => if tk ≤ s.now + us 2 ∧ us 2 ≤ tk ∧ last.all (fun x => x + us 50 ≤ tk) then some (tk - us 2) else none
    | none => grid
  else grid
/-- The 12-bit code of a current in uA (R389). -/
def foCode (ua : Nat) : Nat := min (ua * 4096 / 2500000) 4095
/-- What a conversion of `ua` uA that ended at `e` leaves in the output's own state (R389, R391). -/
def FoSt.convert (f : FoSt) (e : Time) (ua lim : Nat) (now : Time) : FoSt :=
  { f with
    convs := ((e, BitVec.ofNat 32 (foCode ua * 2 ^ 19)) :: f.convs).take 4,
    ocFrom := if lim < foCode ua then some (f.ocFrom.getD e) else none,
    inFrom := if 2500000 < ua then some (f.inFrom.getD e) else none,
    lowI := decide (ua < 20000),
    onAcc := if ua < 20000 then f.onAcc else 0,
    onFrom := if ua < 20000 then f.onFrom else f.onFrom.map (fun _ => now) }
/-- A frame of the axis whose rank-0 output it is takes a conversion while it is not ready and its t_k is not earlier
(R15, R389). -/
def State.foFrames (s : State) (j : Nat) (e : Time) (v : Word) : State :=
  let a := s.foAxis j
  if (s.foOfAxis a).head? = some j then
    { s with ax := vupd s.ax a (fun x => { x with lv := x.lv.map (fun l =>
        { l with frames := l.frames.map (fun f =>
          if !f.isReady ∧ e ≤ f.tk then { f with words := vupd f.words 17 (fun _ => v) } else f) }) }) }
  else s
/-- The averaged current of an output, in uA, at the end of the conversion that is due: CURRENT, the frames, OC and OL_ON
follow it (R389, R391). -/
def State.foConversion (s : State) (j ua : Nat) : State :=
  match s.foEnd j with
  | none => s
  | some e =>
    let v := BitVec.ofNat 32 (foCode ua * 2 ^ 19)
    let s1 := ((s.setRg (R.FIELD.FO_CURRENT j) v).setFout j (fun f =>
      f.convert e ua (s.fld (R.FIELD.FO_OC_LIM j) 11 0) s.now)).foFrames j e v
    (s1.foLatching j 1 (s1.foOver j e)).foReported j 4 (s1.foOpen j)
/-- FO_CURRENT_CONVERSION: the average of 50 us that ends is `ua` uA (R389). -/
def execFoCurrentConversion (t : Time) (j : Fin 32) (ua : Fin 16777216) (s : State) : Host.Outcome State Fault Refusal :=
  .next ((s.tick t).foConversion j ua)

/-- FO_FAULT: a diagnostic condition of output `j` is detected or ends; `f` is the fault number of R394. OC and OL_ON follow
the conversions, as they stand at this instant; the other conditions are the field die's own. -/
def execFoFault (t : Time) (j : Fin 32) (f : Fin 8) (set : Bool) (s : State) : Host.Outcome State Fault Refusal :=
  let s := s.tick t
  .next (match f.val with
    | 1 => s.foLatching j 1 (s.foOver j s.now)
    | 2 => s.foLatching j 2 set
    | 4 => s.foReported j 4 (s.foOpen j)
    | 5 | 6 => s.foReported j f set
    | _ => s)

/-- The silence time of an output's watchdog on the field die (R391, R464). -/
def State.foSilence (s : State) (j : Nat) : Time :=
  us (if s.sgMember j then s.fld R.BRAKE.SG_CTRL 25 16 else s.fld (R.FIELD.FO_CTRL j) 25 16)

/-- `PG_ERRINJ` stops the refresh of this output (R396). -/
def State.foInjected (s : State) (j : Nat) : Bool :=
  s.bit (R.PG_ERRINJ R.FIELD.base) 21 && s.fld (R.PG_ERRINJ R.FIELD.base) 20 16 == j

/-- The field die has seen no refresh for the silence time: LOGIC_SILENT latches (R391, R393, R464). -/
def State.foLogicSilent (s : State) (j : Nat) : State :=
  let due : Bool := match (s.fout j).stopped with
    | some x => decide (x + s.foSilence j ≤ s.now)
    | none => true
  if (s.fout j).silent || !due then s else
  let s1 := s.setFout j (fun f =>
    { f with
      silent := true
      lost := f.lost || f.stopped.isNone
      stopped := if s.bit (R.FIELD.FO_STAT j) 8 then f.stopped else none })
  let s2 := if s1.foInjected j then s1.putBit (R.PG_ERRINJ R.FIELD.base) 21 false else s1
  let s3 := if (s2.fout j).ctlSilent || s2.bit (R.FIELD.FO_STAT j) 3 then s2
    else (s2.putBit (R.FIELD.FO_STAT j) 3 true).foFaultPost j 3 true
  (if s3.bit (R.FIELD.FO_STAT j) 8 then s3.foPost j 0x02 3 else s3).foEval j
/-- FO_LOGIC_SILENT (R391, R393). -/
def execFoLogicSilent (t : Time) (j : Fin 32) (s : State) : Host.Outcome State Fault Refusal := .next ((s.tick t).foLogicSilent j)

/-- The control side sees no refresh from an output's coupler for 20 us (R391, R470). -/
def State.foCtlSilent (s : State) (j : Nat) : State :=
  if (s.fout j).ctlSilent then s else (s.setFout j (fun f => { f with ctlSilent := true })).foReport j 0x22
/-- FO_SILENT (R391). -/
def execFoSilent (t : Time) (j : Fin 32) (s : State) : Host.Outcome State Fault Refusal := .next ((s.tick t).foCtlSilent j)
/-- The link of an output returns: a LOGIC_SILENT of the field die is reported (R391). -/
def State.foReturn (s : State) (j : Nat) : State :=
  let s0 := s.setFout j (fun f => { f with lost := false })
  let s1 := if (s0.fout j).ctlSilent then (s0.setFout j (fun f => { f with ctlSilent := false })).foReportClear j 0x22 else s0
  if (s1.fout j).silent && !s1.bit (R.FIELD.FO_STAT j) 3 then
    (s1.putBit (R.FIELD.FO_STAT j) 3 true).foFaultPost j 3 true else s1
/-- FO_REFRESH_RETURN (R391). -/
def execFoRefreshReturn (t : Time) (j : Fin 32) (s : State) : Host.Outcome State Fault Refusal := .next ((s.tick t).foReturn j)

/-- A latched fault is cleared, or the write is refused while its condition stands (R391). -/
def State.foClearBit (s : State) (j f : Nat) : State :=
  if !s.bit (R.FIELD.FO_STAT j) f then s else
  if f = 3 then
    (if (s.fout j).stopped.isSome || (s.fout j).lost || s.foInjected j || (s.fout j).ctlSilent then s.cmdRefused R.FIELD.base
     else ((s.putBit (R.FIELD.FO_STAT j) 3 false).setFout j (fun o => { o with silent := false })).foFaultPost j 3 false)
  else if bitN (s.fout j).cond f then s.cmdRefused R.FIELD.base
  else
    let s1 := (s.putBit (R.FIELD.FO_STAT j) f false).foFaultPost j f false
    if s1.fld (R.FIELD.FO_STAT j) 2 1 = 0 then s1.foReportClear j 0x21 else s1
/-- A write of `FO[j].CLR` (R391). -/
def State.writeFoClr (s : State) (j v : Nat) : State :=
  (List.range 3).foldl (fun (s : State) k => if bitN v k then s.foClearBit j (k + 1) else s) s
/-- FO_CLEAR (R391). -/
def execFoClear (t : Time) (_m : Master) (j : Fin 32) (v : Word) (s : State) : Host.Outcome State Fault Refusal :=
  .next ((s.tick t).onPage R.FIELD.base (fun s => s.writeFoClr j v.toNat))

/-! ### Field supply (R392) -/

/-- UV_OFF of every output set or cleared (R391). -/
def State.uvOff (s : State) (set : Bool) : State :=
  (List.range 32).foldl (fun (s : State) j =>
    if s.bit (R.FIELD.FO_STAT j) 7 = set then s else (s.putBit (R.FIELD.FO_STAT j) 7 set).foFaultPost j 7 set) s

/-- UV_HOLD clears. -/
def State.uvRelease (s : State) : State := (s.putBit R.FIELD.STAT 1 false).uvOff false

/-- A measurement of VFIELD arrives over the status pair, which is alive then (R380, R395, assumption log 162). -/
def State.fieldMeasure (s : State) (v : Nat) : State := (s.putFld R.FIELD.STAT 31 16 v).putBit R.FIELD.STAT 2 true

/-- The status pair dies: `FIELD.STAT.LINK` (R395, assumption log 162). -/
def State.fieldDead (s : State) : State := s.putBit R.FIELD.STAT 2 false

/-- VFIELD is measured below 8.0 V: every output turns off (R392). -/
def State.fieldDown (s : State) (v : Nat) : State :=
  let s1 := s.fieldMeasure v
  if 800 ≤ v ∨ s1.fieldUv then s1 else
  let s2 := ((s1.putFld R.FIELD.STAT 1 0 3).irq R.FIELD.base 8).uvOff true
  (List.range 32).foldl (fun (s : State) i => s.setFin i (fun f => { f with pend := none })) s2.foEvalAll
/-- FIELD_UNDERVOLTAGE: VFIELD is `v` times 10 mV (R392), or with none the status pair has died (assumption log 162). -/
def execFieldUndervoltage (t : Time) (v : Option (Fin 65536)) (s : State) : Host.Outcome State Fault Refusal :=
  let s := s.tick t
  .next (match v with
    | some v => s.fieldDown v
    | none => s.fieldDead)

/-- VFIELD has stayed above 8.5 V for 1 ms (R392). -/
def State.fieldUp (s : State) (v : Nat) : State :=
  let s1 := s.fieldMeasure v
  if v ≤ 850 ∨ !s1.fieldUv then s1 else
  let s2 := (s1.putBit R.FIELD.STAT 0 false).irq R.FIELD.base 8
  let s3 := if s2.bit R.FIELD.CTRL 0 then s2.uvRelease else s2
  (List.range 32).foldl (fun (s : State) i => s.fiJudge i s.now) s3
/-- FIELD_UV_RECOVERY (R392). -/
def execFieldUvRecovery (t : Time) (v : Fin 65536) (s : State) : Host.Outcome State Fault Refusal :=
  .next ((s.tick t).fieldUp v)

/-- A write of 1 to `FIELD.CMD.UV_CLR` (R392). -/
def State.uvClr (s : State) : State :=
  if s.fieldUv then s.cmdRefused R.FIELD.base
  else if s.bit R.FIELD.STAT 1 then s.uvRelease else s
/-- UV_CLR (R392). -/
def execUvClr (t : Time) (_m : Master) (s : State) : Host.Outcome State Fault Refusal :=
  .next ((s.tick t).onPage R.FIELD.base State.uvClr)

/-! ### The safety group (R393, R464) -/

/-- One member's hold is taken or given up, on both paths (R393, R464). -/
def State.sgOne (s : State) (j : Nat) : State :=
  let mem := s.sgMember j
  let want := mem && s.sgHeld
  let s1 := s.putBit (R.FIELD.FO_STAT j) 9 mem
  if want = s1.bit (R.FIELD.FO_STAT j) 8 then s1 else
  let s2 := (s1.putBit (R.FIELD.FO_STAT j) 8 want).foPost j 0x02 (b2n want)
  if want then (s2.setFout j (fun f => { f with stopped := some (f.stopped.getD s.now) })).foEval j
  else if (s2.fout j).silent then s2.setFout j (fun f => { f with stopped := none }) else s2
/-- The safety group evaluated. -/
def State.sgEval (s : State) : State := (List.range 32).foldl (fun s j => s.sgOne j) s

/-- What leaving or entering RUN or SAFE does at the power stage and at the field outputs (R28, R386, R464). -/
def State.runSync (s : State) : State := (s.slotEvalAll.sgEval).foEvalAll

/-! ### Registers (R395, R396) -/

/-- Writes to the FIELD page with a meaning of their own. -/
def State.fieldHook (s : State) (m : Master) (off v : Nat) : Option State :=
  if off = 0x48 then some (if bitN v 0 then s.uvClr else s)
  else if 0x100 ≤ off ∧ off < 0x500 then
    let i := (off - 0x100) / 0x20
    (if off % 0x20 = 0 then
      some (if s.bit (R.FIELD.FI_CFG i) 0 then s.cfgRefused R.FIELD.base
        else ((s.writeReg m R.FIELD.base (R.FIELD.FI_CFG i) v).setFin i (fun f => { f with since := s.now })).fiJudge i s.now)
     else none)
  else if 0x500 ≤ off ∧ off < 0x900 then
    let j := (off - 0x500) / 0x20
    (match off % 0x20 with
     | 0 => some (s.writeFoCtrl m j v)
     | 0x10 => some (s.writeFoClr j v)
     | _ => none)
  else none

/-- The FIELD page becomes enabled or disabled: inputs are judged anew, outputs evaluated. -/
def State.fieldEnable (s : State) : State :=
  (List.range 32).foldl (fun (s : State) i => s.fiJudge i s.now) s.foEvalAll

/-- The hidden state of the page after its soft reset: what the field die and the Brakewheel hold goes on and shows again
(R38, R391, R393, assumption log 126). -/
def State.fieldReset (s : State) : State :=
  let fi : Vector FiSt 32 := s.fi.map (fun x => { pin := x.pin, since := s.now })
  let fo : Vector FoSt 32 := s.fo.map (fun x =>
    { cond := x.cond, silent := x.silent, ctlSilent := x.ctlSilent, stopped := x.stopped, lost := x.lost, swAt := s.now })
  let s1 := { s with fi := fi, fo := fo }.fieldEnable.sgEval
  (List.range 32).foldl (fun (s : State) j =>
    if (s.fout j).silent && !(s.fout j).ctlSilent then (s.putBit (R.FIELD.FO_STAT j) 3 true).foFaultPost j 3 true else s) s1

/-- A write of `PG_ERRINJ` of the FIELD page: the refresh of the named output stops (R396). -/
def State.fieldInject (s : State) : State :=
  if s.bit (R.PG_ERRINJ R.FIELD.base) 21 then
    s.setFout (s.fld (R.PG_ERRINJ R.FIELD.base) 20 16) (fun f => { f with stopped := some (f.stopped.getD s.now) })
  else s

end Sys2Proof.Machine
end

