-- ==== Sys2Proof/Machine/Device.lean ====
section
/-! DEFINITION. The commands that change the device state, with what leaving or entering RUN does at the power
stage and at the field outputs (R24, R27 to R30, R523, R568). -/

namespace Sys2Proof.Machine

/-- A write of `SYS.RUN_CTRL` with its effect on the outputs (R28, R30). -/
def State.runCtrl (s : State) (m : Master) (v : Nat) : State := (s.writeRunCtrl m v).runSync

/-- OUT_EN_SET (R568). -/
def execOutEnSet (t : Time) (m : Master) (s : State) : Host.Outcome State Fault Refusal :=
  .next ((s.tick t).onPage R.SYS.base (fun s => s.runCtrl m 1))
/-- OUT_EN_CLEAR (R28). -/
def execOutEnClear (t : Time) (m : Master) (s : State) : Host.Outcome State Fault Refusal :=
  .next ((s.tick t).onPage R.SYS.base (fun s => s.runCtrl m 0))
/-- RUN_ENTRY: the release becomes present while OUT_EN = 1 in READY (R568). -/
def execRunEntry (t : Time) (s : State) : Host.Outcome State Fault Refusal := .next (s.tick t).tryRun.runSync
/-- SAFE_ACK: the write leaves OUT_EN as it is (R30). -/
def execSafeAck (t : Time) (m : Master) (s : State) : Host.Outcome State Fault Refusal :=
  .next ((s.tick t).onPage R.SYS.base (fun s => s.runCtrl m (2 + b2n s.outEn)))

/-- PLL_LOCK_LOST: the lock or the frequency of a PLL is lost and flagged (R24). -/
def execPllLockLost (t : Time) (p : Pll) (freq : Bool) (s : State) : Host.Outcome State Fault Refusal :=
  .next (let s1 := ((s.tick t).pllLost p freq).runSync
    if p = .c then s1.canStopAll else s1)

/-- REFCLK_LOST: REFCLK_LOST, PLLT_LOCK_LOST, PLLA_FREQ and PLLC_FREQ in one step, with the reactions
to the loss of the time base, PLL_A and PLL_C (R24). -/
def execRefclkLost (t : Time) (s : State) : Host.Outcome State Fault Refusal :=
  .next (((((s.tick t).putBit R.SYS.CLK_MON 11 true).pllLost .t false).pllLost .a true).pllLost .c true).runSync.canStopAll

end Sys2Proof.Machine
end

