-- ==== Sys2Proof/Machine/Race.lean ====
section
/-! DEFINITION. The bridges: ports, egress queues, gate lists, filtering databases and peer delay (R417 to R424). -/

namespace Sys2Proof.Machine

/-- A race: 0 Race A, 1 Race B. -/
def State.raceOf (s : State) (r : Nat) : RaceSt := vget s.race r
/-- The state with a race changed. -/
def State.setRace (s : State) (r : Nat) (f : RaceSt → RaceSt) : State := { s with race := vupd s.race r f }
/-- An event of a port (R445). -/
def State.ethPost (s : State) (n code payload : Nat) : State := s.postNow (0x0D0 + n) code payload
/-- The PTP role of a port: 0 disabled, 1 master, 2 slave, 3 passive (R422). -/
def State.ptpRole (s : State) (n : Nat) : Nat := s.fld (R.ETH.CTRL n) 3 2
/-- A forced link loss is in force (R448). -/
def State.linkForced (s : State) (n : Nat) : Bool :=
  match (s.port n).injAt with
  | some t => decide (s.now < t + ms 1)
  | none => false
/-- The link of a port reads up. -/
def State.linkUp (s : State) (n : Nat) : Bool := s.bit (R.ETH.STAT n) 0 && !s.linkForced n
/-- The SerDes PLL of a port relocks: transmit requests are held (R525). -/
def State.txHeld (s : State) (n : Nat) : Bool := s.bit R.SYS.CLK_MON (6 + n)
/-- The port is asCapable (R424). -/
def State.asCapable (s : State) (n : Nat) : Bool := s.bit (R.ETH.STAT n) 2
/-- The clock of race `r` is grandmaster (R426). -/
def State.gm (s : State) (r : Nat) : Bool := s.bit (R.PTP.FT_CFG r) 20
/-- The slave port of a race (R425, R426). -/
def State.slavePort (s : State) (r : Nat) : Option Nat :=
  if s.gm r then none else [2 * r, 2 * r + 1].find? (fun n => s.ptpRole n == 2)

/-- The value of a piece of a PTP clock at an instant in fine ticks, in 2^-36 ns (R57). -/
def PtpPiece.fine (p : PtpPiece) (t : Time) : Int :=
  (p.val : Int) * 16 + ((t : Int) - 16 * (p.edge : Int)) * (p.incr : Int)
/-- How a PTP clock runs since its latest change. -/
def PtpClock.piece (c : PtpClock) : PtpPiece := ⟨c.edge, c.val, c.incr, c.edge⟩
/-- What the PTP clock of race `r` read, or will read as it runs, at an instant in fine ticks, in 2^-36 ns (R57). -/
def State.ptpFine (s : State) (r : Nat) (t : Time) : Int :=
  let c := s.ptp (r == 1)
  if 16 * c.edge ≤ t then c.piece.fine t
  else ((c.hist.find? (fun p => decide (16 * p.edge ≤ t))).getD (c.hist.getLast?.getD c.piece)).fine t
/-- The ranges of whole ns that the PTP clock of race `r` has run through since an instant, newest first; a step parts
two of them (R419). -/
def State.ptpRuns (s : State) (r : Nat) (since : Time) : List (Int × Int) :=
  let c := s.ptp (r == 1)
  let all := { c.piece with upto := edgeOf s.now } :: c.hist
  (all.filter (fun p => decide (since ≤ 16 * p.upto))).map (fun p =>
    ((p.fine (max since (16 * p.edge))).fdiv (2 ^ 36), (p.fine (min s.now (16 * p.upto))).fdiv (2 ^ 36)))

/-! ### Frames -/

/-- `n` bytes of a frame from offset `i`, as a big-endian number. -/
def beAt (b : List Byte) (i n : Nat) : Nat := ((b.drop i).take n).foldl (fun a x => a * 256 + x.toNat) 0
/-- A number as `n` big-endian bytes. -/
def beBytes (n v : Nat) : List Byte := (List.range n).map (fun i => BitVec.ofNat 8 (v >>> (8 * (n - 1 - i))))
/-- A frame with the bytes from offset `i` replaced. -/
def beSet (b : List Byte) (i : Nat) (x : List Byte) : List Byte := b.take i ++ x ++ b.drop (i + x.length)
/-- The frame carries an IEEE 802.1Q tag. -/
def tagged (b : List Byte) : Bool := beAt b 12 2 == 0x8100
/-- The EtherType of a frame, after a tag. -/
def etype (b : List Byte) : Nat := if tagged b then beAt b 16 2 else beAt b 12 2
/-- Where the payload of a frame begins. -/
def payAt (b : List Byte) : Nat := if tagged b then 18 else 14
/-- Transmission with FCS, padding, preamble and interframe gap, in fine ticks (R418). -/
def State.frameTime (s : State) (n : Nat) (b : List Byte) : Time :=
  ns ((max 60 b.length + 4 + 20) * (if s.bit (R.ETH.STAT n) 1 then 80 else 8))
/-- The priority of a frame at a port: its tag's PCP, or `PCP_DEF` (R417). -/
def State.pcpOf (s : State) (n : Nat) (b : List Byte) : Nat :=
  if tagged b then beAt b 14 2 / 2 ^ 13 else s.fld (R.ETH.CTRL n) 7 5
/-- Bytes and frames that a race holds in its queues (R417). -/
def State.raceUse (s : State) (r : Nat) : Nat × Nat :=
  [2 * r, 2 * r + 1].foldl (fun (u : Nat × Nat) n =>
    (s.port n).queues.toList.foldl (fun (u : Nat × Nat) q =>
      q.foldl (fun (u : Nat × Nat) f => (u.1 + f.bytes.length, u.2 + 1)) u) u) (0, 0)
/-- A PTP frame of the device: message type, sequence and length of the message; the source address and the port
identity are not stated by the spec and are open values (assumption logs 83, 106). -/
def State.ptpFrame (s : State) (r typ seq len : Nat) : List Byte × State :=
  let mac := s.free
  let pid := mac.2.free
  (beBytes 6 0x0180C200000E ++ beBytes 6 (mac.1.toNat % 2 ^ 48) ++ beBytes 2 0x88F7 ++
    beBytes 2 ((0x10 + typ) * 256 + 2) ++ beBytes 2 len ++ beBytes 1 (s.fld (R.PTP.FT_CFG r) 7 0) ++ beBytes 15 0 ++
    beBytes 10 pid.1.toNat ++ beBytes 2 seq ++ beBytes 2 0 ++ List.replicate (len - 34) 0, pid.2)
/-- A frame enters an egress queue, or is dropped and counted (R417). -/
def State.egress (s : State) (n : Nat) (k : EgKind) (b : List Byte) (prio : Nat) : State :=
  let u := s.raceUse (n / 2)
  if 2 ^ 18 < u.1 + b.length ∨ 2048 ≤ u.2 then (s.count (R.ETH.DROP n) 15 0 1).irq (R.ETH.base n) 4
  else
    let q := s.fld (R.ETH.PCP_MAP n) (3 * prio + 2) (3 * prio)
    s.setPort n (fun p => { p with queues := vupd p.queues q (· ++ [⟨k, b, s.now, false⟩]) })

/-! ### Filtering database (R417, R447) -/

/-- The learned entries that have not aged out. -/
def State.fdbLive (s : State) (r : Nat) : List (Nat × Nat × Time) :=
  (s.raceOf r).fdb.filter (fun e => decide (s.now ≤ e.2.2 + sec (s.fld (R.PTP.FDB_AGE r) 15 0)))
/-- A source address is learned: port 0 or 1 external, 2 internal. -/
def State.learn (s : State) (r port mac : Nat) : State :=
  if s.bit (R.PTP.FDB_AGE r) 16 = false ∨ mac / 2 ^ 40 % 2 = 1 then s else
  let old := (s.fdbLive r).filter (fun e => e.1 != mac)
  if 1024 ≤ old.length then s.setRace r (fun x => { x with fdb := old })
  else s.setRace r (fun x => { x with fdb := (mac, port, s.now) :: old })
/-- The ports a frame goes to, as a mask of ports 0 to 2, without the one it came from. -/
def State.fdbPorts (s : State) (r inp mac : Nat) : Nat :=
  let sta := (List.range 64).find? (fun e =>
    let v := s.rg64 (R.PTP.FDB_STATIC r e)
    bitN v 63 && bitsN v 47 0 == mac)
  let m : Nat := match sta with
    | some e => bitsN (s.rg64 (R.PTP.FDB_STATIC r e)) 50 48
    | none =>
      if mac / 2 ^ 40 % 2 = 1 then 7 else
      match (s.fdbLive r).find? (fun e => e.1 == mac) with
      | some e => 2 ^ e.2.1
      | none => 7
  maskOf 3 (fun p => m.testBit p && p != inp)

/-- A frame from the internal port of race `r` is forwarded to the external ports. -/
def State.raceSend (s : State) (r : Nat) (b : List Byte) : State :=
  let s1 := s.learn r 2 (beAt b 6 6)
  let m := s1.fdbPorts r 2 (beAt b 0 6)
  [0, 1].foldl (fun (s : State) p =>
    if m.testBit p then s.egress (2 * r + p) .data b (s.pcpOf (2 * r + p) b) else s) s1
/-- A frame to the races of a mask. -/
def State.raceSendMask (s : State) (mask : Nat) (b : List Byte) : State :=
  [0, 1].foldl (fun (s : State) r => if mask.testBit r then s.raceSend r b else s) s
/-- The races that ordinary traffic of the device goes out on: both without redundancy or while traffic is
doubled, otherwise the active one (R431, R437). -/
def State.traffic (s : State) : Nat :=
  if s.bit (R.PTP.RED_CTRL 0) 0 = false ∨ s.bit (R.PTP.RED_STAT 0) 3 then 3 else 2 ^ s.fld (R.PTP.RED_STAT 0) 0 0

/-- A frame at external port `n` (R417): counted, learned and forwarded; true when it reaches the internal port. -/
def State.bridgeRx (s : State) (n : Nat) (b : List Byte) (ok : Bool) : State × Bool :=
  if !ok || decide (b.length < 60) || decide (1518 < b.length) then (s.count (R.ETH.RX_ERR n) 15 0 1, false)
  else
    let r := n / 2
    let s1 := (s.count (R.ETH.RX_FRAMES n) 31 0 1).learn r (n % 2) (beAt b 6 6)
    if etype b = 0x88F7 then (s1, true) else
    let m := s1.fdbPorts r (n % 2) (beAt b 0 6)
    let o := 1 - n % 2
    let s2 := if m.testBit o then s1.egress (2 * r + o) .data b (s1.pcpOf n b) else s1
    (s2, m.testBit 2)

/-! ### Gate lists (R418 to R420) -/

/-- The gate states of a list over its cycle: where each ends, in ns, and the gates (R419). -/
def GclBank.segs (g : GclBank) : List (Nat × Nat) :=
  let es := ((List.range g.len).map (fun e => tget 0xFFFFFFFF g.ents e)).filter (fun w => wfld w 31 8 != 0)
  let ends := (es.foldl (fun (a : Nat × List (Nat × Nat)) w =>
    let e := min g.cycle (a.1 + wfld w 31 8)
    if a.1 < g.cycle then (e, a.2 ++ [(e, wfld w 7 0)]) else a) (0, [])).2
  match ends.getLast? with
  | some x => if x.1 < g.cycle then ends.dropLast ++ [(g.cycle, x.2)] else ends
  | none => []
/-- The list runs and the clock has reached its first cycle. -/
def State.gclRuns (s : State) (n : Nat) : Bool :=
  s.bit (R.ETH.GCL_CTRL n) 0 && !(s.port n).gclOff &&
    decide (((s.port n).gcl.base : Int) * 2 ^ 36 ≤ s.ptpFine (n / 2) s.now)
/-- The PTP time of a port's race now, in ns and rounded down. -/
def State.ptpNs (s : State) (n : Nat) : Int := (s.ptpFine (n / 2) s.now).fdiv (2 ^ 36)
/-- The latest cycle start of a list at or before `t` ns, if there is one (R419). -/
def GclBank.startAt (g : GclBank) (t : Int) : Option Int :=
  if t < g.base then none else some ((g.base : Int) + (t - g.base) / g.cycle * g.cycle)
/-- A cycle start of a list at or after `want` ns has come since an instant, after it or also at it (R420). -/
def State.startSince (s : State) (n : Nat) (since : Time) (want : Int) (after : Bool) : Bool :=
  let runs := s.ptpRuns (n / 2) since
  runs.zipIdx.any (fun x =>
    let lo := if after && x.2 + 1 == runs.length then x.1.1 + 1 else x.1.1
    match (s.port n).gcl.startAt x.1.2 with
    | some c => decide (max want lo ≤ c)
    | none => false)
/-- The first cycle start of a list from a clock value in 2^-36 ns on, in the same unit (R419). -/
def GclBank.startFrom (g : GclBank) (v : Int) : Int :=
  let b : Int := (g.base : Int) * 2 ^ 36
  let cyc : Int := (g.cycle : Int) * 2 ^ 36
  if v ≤ b then b else b + (v - b + cyc - 1) / cyc * cyc
/-- The gate states that follow from now on while EN = 1, each with its end in 2^-36 ns of the race's clock from now: before
the list's first cycle the states of `GATES_OFF`, then the list for the rest of its cycle and the next one (R419, R420). -/
def State.gateRuns (s : State) (n : Nat) : List (Int × Nat) :=
  let g := (s.port n).gcl
  let v := s.ptpFine (n / 2) s.now
  let off := s.fld (R.ETH.GCL_CTRL n) 15 8
  let cyc : Int := (g.cycle : Int) * 2 ^ 36
  let sg : List (Int × Nat) := if g.segs.isEmpty then [(cyc, off)] else g.segs.map (fun x => ((x.1 : Int) * 2 ^ 36, x.2))
  if !s.gclRuns n then
    let d := g.startFrom v - v
    (d, off) :: sg.map (fun x => (x.1 + d, x.2))
  else
    let pos := (v - (g.base : Int) * 2 ^ 36) % cyc
    (sg.filter (fun x => decide (pos < x.1))).map (fun x => (x.1 - pos, x.2)) ++ sg.map (fun x => (x.1 + cyc - pos, x.2))
/-- How long the gate of queue `q` stays open from now, in 2^-36 ns of the race's clock: none when it is closed,
`some none` when it never closes (R418, R419). -/
def State.gateOpen (s : State) (n q : Nat) : Option (Option Int) :=
  if !s.bit (R.ETH.GCL_CTRL n) 0 then (if s.bit (R.ETH.GCL_CTRL n) (8 + q) then some none else none)
  else
    let all := s.gateRuns n
    let run := all.takeWhile (fun x => x.2.testBit q)
    match run.getLast? with
    | none => none
    | some x => if run.length = all.length then some none else some (some x.1)

/-- GCL_CYCLE_START: the first cycle of a new list begins, and PEND clears (R420). -/
def State.gclStart (s : State) (n : Nat) : State :=
  let p := s.port n
  if p.gclOff && s.startSince n p.swapAt p.gcl.base false then
    (s.setPort n (fun p => { p with gclOff := false })).putBit (R.ETH.GCL_CTRL n) 2 false
  else s
/-- The banks swap (R420). -/
def State.gclSwapNow (s : State) (n : Nat) : State :=
  let old := (s.port n).gcl
  let new : GclBank := { len := s.fld (R.ETH.GCL_LEN n) 8 0, cycle := (s.rg (R.ETH.GCL_CYCLE n)).toNat,
                         base := s.rg64 (R.ETH.GCL_BASE n),
                         ents := (List.range 256).foldl (fun (m : List (Nat × Word)) e => tset 0xFFFFFFFF m e (s.rg (R.ETH.GCL n e))) [] }
  let s1 := (List.range 256).foldl (fun (s : State) e => s.setRg (R.ETH.GCL n e) (tget 0xFFFFFFFF old.ents e)) s
  let s2 := ((s1.setRg (R.ETH.GCL_LEN n) (BitVec.ofNat 32 old.len)).setRg (R.ETH.GCL_CYCLE n) (BitVec.ofNat 32 old.cycle)).setRg64
    (R.ETH.GCL_BASE n) old.base
  (s2.setPort n (fun p => { p with gcl := new, gclOff := true, swapAt := s.now })).putBit (R.ETH.GCL_CTRL n) 3
    (!s.bit (R.ETH.GCL_CTRL n) 3)
/-- GCL_SWAP: the swap's instant has come (R420). -/
def State.gclSwap (s : State) (n : Nat) : State :=
  let p := s.port n
  let want : Int := (s.rg64 (R.ETH.GCL_CHANGE_AT n) : Int)
  if s.bit (R.ETH.GCL_CTRL n) 2 = false ∨ p.gclOff then s
  else if s.bit (R.ETH.GCL_CTRL n) 0 then
    (if s.startSince n p.pendAt want true then s.gclSwapNow n else s)
  else if want ≤ s.ptpNs n then s.gclSwapNow n else s
/-- A write of `GCL_CTRL` (R419, R420). -/
def State.writeGclCtrl (s : State) (n v : Nat) : State :=
  let w := s.rg (R.ETH.GCL_CTRL n)
  let pend := wbit w 2 || bitN v 1
  let s1 := s.setRg (R.ETH.GCL_CTRL n) (BitVec.ofNat 32 ((v &&& 0xff01) + b2n pend * 4 + b2n (wbit w 3) * 8))
  if bitN v 1 ∧ wbit w 2 = false then s1.setPort n (fun p => { p with pendAt := s.now, gclOff := false }) else s1

/-! ### Egress (R418, R423, R426) -/

/-- A frame with zero padding to the minimum length and its FCS, the CRC-32 of IEEE 802.3, low byte first (R423, R473). -/
def wireOf (b : List Byte) : List Byte :=
  let p := b ++ List.replicate (60 - b.length) 0
  let c := crc32 (p.map (fun x => x.toNat))
  p ++ [BitVec.ofNat 8 c, BitVec.ofNat 8 (c / 2 ^ 8), BitVec.ofNat 8 (c / 2 ^ 16), BitVec.ofNat 8 (c / 2 ^ 24)]
/-- A frame that leaves at `t` with a one-step field. -/
def EgFrame.sentAt (f : EgFrame) (t : Time) (field : Int) : EgSent := ⟨t, f, field, wireOf f.bytes⟩
/-- A frame as it leaves at `t`: a relayed Sync with its correctionField grown by link delay and residence time
(R425), an originated Sync with its origin timestamp in ns (R426), a Pdelay_Resp with the turnaround (R424). -/
def State.sendForm (s : State) (n : Nat) (f : EgFrame) : EgSent :=
  let r := n / 2
  let t := s.now + s.fld (R.ETH.LAT_OUT n) 15 0
  match f.kind with
  | .relay ing d =>
    let i := payAt f.bytes + 8
    let res := openRound (((s.ptpFine r t - s.ptpFine r ing : Int) : Rat) / (2 ^ 20 : Nat))
    let c := sx 64 (beAt f.bytes i 8) + (d : Int) + res
    { f with bytes := beSet f.bytes i (beBytes 8 (ux 64 c)) }.sentAt t c
  | .sync _ =>
    let o := openRound (((s.ptpFine r t : Int) : Rat) / (2 ^ 36 : Nat))
    let x := beBytes 6 (o.toNat / 1000000000) ++ beBytes 4 (o.toNat % 1000000000)
    { f with bytes := beSet f.bytes (payAt f.bytes + 34) x }.sentAt t o
  | .pdelayResp ing =>
    let d := openRound (((s.ptpFine r t - s.ptpFine r ing : Int) : Rat) / (2 ^ 20 : Nat))
    { f with bytes := beSet f.bytes (payAt f.bytes + 8) (beBytes 8 (ux 64 d)) }.sentAt t d
  | _ => f.sentAt t 0
/-- The head of a queue fits its gate (R418). -/
def State.fits (s : State) (n : Nat) (f : EgFrame) (open_ : Option Int) : Bool :=
  match open_ with
  | none => true
  | some d => decide (s.ptpFine (n / 2) (s.now + s.frameTime n f.bytes) - s.ptpFine (n / 2) s.now < d)
/-- The heads that cannot end in time are counted once, from queue `q` up to the one that is sent (R418). -/
def State.egressSelect (s : State) (n : Nat) : State :=
  if s.now < (s.port n).busyUntil ∨ s.txHeld n then s else
  let r := (List.range 8).reverse.foldl (fun (a : State × Bool) q =>
    if a.2 then a else
    match vget (a.1.port n).queues q with
    | [] => a
    | f :: rest =>
      match a.1.gateOpen n q with
      | none => a
      | some o =>
        if a.1.fits n f o then
          let x := a.1.sendForm n f
          ((a.1.setPort n (fun p => { p with queues := vupd p.queues q (fun _ => rest), sent := some x,
                                             busyUntil := s.now + s.frameTime n f.bytes })).count (R.ETH.TX_FRAMES n) 31 0 1, true)
        else if f.late then a
        else ((a.1.setPort n (fun p => { p with queues := vupd p.queues q (fun _ => { f with late := true } :: rest) })).count
          (R.ETH.GCL_OVERRUN n) 15 0 1, false)) (s, false)
  r.1
/-- EGRESS_SELECT (R418). -/
def execEgressSelect (t : Time) (n : Fin 4) (s : State) : Host.Outcome State Fault Refusal := .next ((s.tick t).egressSelect n)
/-- GCL_CYCLE_START (R419, R420). -/
def execGclCycleStart (t : Time) (n : Fin 4) (s : State) : Host.Outcome State Fault Refusal := .next ((s.tick t).gclStart n)
/-- GCL_CHANGE: a write of `CHANGE` that leaves the other fields as they are (R420). -/
def execGclChange (t : Time) (_m : Master) (n : Fin 4) (s : State) : Host.Outcome State Fault Refusal :=
  .next ((s.tick t).onPage (R.ETH.base n) (fun s => s.writeGclCtrl n ((s.rg (R.ETH.GCL_CTRL n)).toNat ||| 2)))
/-- GCL_SWAP (R420). -/
def execGclSwap (t : Time) (n : Fin 4) (s : State) : Host.Outcome State Fault Refusal := .next ((s.tick t).gclSwap n)

/-! ### Peer delay (R424) -/

/-- A time of 2^k s has passed. -/
def passed (dt : Time) (k : Int) : Bool :=
  if 0 ≤ k then decide (sec 1 * 2 ^ k.toNat ≤ dt) else decide (sec 1 ≤ dt * 2 ^ (-k).toNat)
/-- A port originates Pdelay_Req (R424). -/
def State.pdelayRequest (s : State) (n : Nat) : State :=
  let p := s.port n
  let due : Bool := match p.pdLast with
    | some t => passed (s.now - t) (sx 8 (s.fld (R.ETH.PDELAY_CFG n) 7 0))
    | none => true
  if s.ptpRole n = 0 ∨ due = false then s else
  let f := s.ptpFrame (n / 2) 2 p.pdSeq 54
  (f.2.setPort n (fun p => { p with pdLast := some s.now, pdSeq := (p.pdSeq + 1) % 2 ^ 16 })).egress n (.pdelayReq p.pdSeq)
    f.1 (s.fld (R.ETH.CTRL n) 7 5)
/-- asCapable is judged: a port without a valid exchange has no link delay and is not asCapable (R424, R445, R448,
assumption log 176). -/
def State.judgeCapable (s : State) (n : Nat) : State :=
  let c := s.rg (R.ETH.PDELAY_CFG n)
  let ok := s.ptpRole n != 0 && !(s.port n).pdDelays.isEmpty && decide ((s.port n).pdFailed < nz (wfld c 15 8)) &&
    decide ((s.rg (R.ETH.LINK_DELAY n)).toNat ≤ wfld c 31 16 * 2 ^ 16)
  if s.asCapable n = ok then s
  else ((s.putBit (R.ETH.STAT n) 2 ok).ethPost n 0x03 (b2n ok)).irq (R.ETH.base n) 2
/-- An exchange completes with its stamps, the turnaround and the neighbour rate ratio, or fails (R423, R424). -/
def State.pdelayResponse (s : State) (n : Nat) (x : Option PdelayRes) : State :=
  if s.ptpRole n = 0 then s else
  match x with
  | none => (s.setPort n (fun p => { p with pdFailed := p.pdFailed + 1 })).judgeCapable n
  | some x =>
    let t1 : Int := (x.t1 : Int) + (s.fld (R.ETH.LAT_OUT n) 15 0 : Nat)
    let t4 : Int := (x.t4 : Int) + (s.fld (R.ETH.LAT_IN n) 15 0 : Nat)
    let d : Rat := ((((t4 - t1) * 4096 : Int) : Rat) * (1 + (x.nrr : Rat) / (2 ^ 41 : Nat)) - (x.turn : Rat)) / 2
    let ds := (d :: (s.port n).pdDelays).take 16
    let mean : Rat := ds.foldl (· + ·) 0 / (ds.length : Nat)
    (((s.setPort n (fun p => { p with pdFailed := 0, pdDelays := ds })).setRg (R.ETH.LINK_DELAY n)
      (BitVec.ofNat 32 (openRound mean).toNat)).setRg (R.ETH.NRR n) (BitVec.ofInt 32 x.nrr)).judgeCapable n
/-- PDELAY_REQUEST (R424). -/
def execPdelayRequest (t : Time) (n : Fin 4) (s : State) : Host.Outcome State Fault Refusal := .next ((s.tick t).pdelayRequest n)
/-- PDELAY_RESPONSE (R424). -/
def execPdelayResponse (t : Time) (n : Fin 4) (x : Option PdelayRes) (s : State) : Host.Outcome State Fault Refusal :=
  .next ((s.tick t).pdelayResponse n x)

/-! ### Registers -/

/-- A write of `ETH[n].CTRL`: a second slave port of a race is refused; without auto-negotiation the port runs at SPEED
(R446, assumption log 199). -/
def State.writeEthCtrl (s : State) (n v : Nat) : State :=
  if bitsN v 3 2 = 2 ∧ s.ptpRole (n / 2 * 2 + 1 - n % 2) = 2 then s.cfgRefused (R.ETH.base n)
  else
    let s1 := s.setRg (R.ETH.CTRL n) (BitVec.ofNat 32 (v &&& 0xff))
    (if bitN v 1 then s1 else s1.putBit (R.ETH.STAT n) 1 (bitN v 0)).judgeCapable n
/-- Writes of an ETH page with a meaning of their own (R420, R446). -/
def State.ethHook (s : State) (n off v : Nat) : Option State :=
  if off = 0x40 then some (s.writeEthCtrl n v)
  else if off = 0x58 then some ((s.setRg (R.ETH.PDELAY_CFG n) (BitVec.ofNat 32 v)).judgeCapable n)
  else if off = 0x80 then some (s.writeGclCtrl n v)
  else if (off = 0x84 ∨ off = 0x88 ∨ off = 0x90 ∨ off = 0x94 ∨ 0x400 ≤ off) ∧ s.bit (R.ETH.GCL_CTRL n) 2 then
    some (s.cfgRefused (R.ETH.base n))
  else none
/-- `STAT` with a forced link loss and TX_HELD (R446, R448). -/
def State.ethLive (s : State) (n off : Nat) : Option Word :=
  if off = 0x44 then some (wput (wput (s.rg (R.ETH.STAT n)) 0 0 (b2n (s.linkUp n))) 3 3 (b2n (s.txHeld n))) else none
/-- A forced link loss begins (R448): the link reads down, which is a change of LINK (R445). -/
def State.ethInject (s : State) (n : Nat) : State :=
  if s.bit (R.PG_ERRINJ (R.ETH.base n)) 16 = false ∨ (s.port n).injAt.isSome then s else
  let s1 := s.setPort n (fun p => { p with injAt := some s.now })
  if s.linkUp n then (s1.ethPost n 0x02 0).irq (R.ETH.base n) 1 else s1

end Sys2Proof.Machine
end

