-- ==== Sys2Proof/Machine/Cores.lean ====
section
/-! DEFINITION. The cores outside their instructions: registers, memories, control, halts, vectors,
watchdog and debug access (R187 to R223). -/

namespace Sys2Proof.Machine

/-- A core. -/
def State.cr (s : State) (c : Nat) : CoreSt := vget s.core c
/-- The state with a core changed. -/
def State.setCr (s : State) (c : Nat) (f : CoreSt → CoreSt) : State := { s with core := vupd s.core c f }
/-- A Stone core (R187). -/
def isStone (c : Nat) : Bool := c < 28
/-- A millwright (R187). -/
def isMw (c : Nat) : Bool := 28 ≤ c && c < 32
/-- The page that shows a core: STONE, MW, or BRAKE for the pair. -/
def corePage (c : Nat) : Nat :=
  if c < 28 then pageBase 0x8 c else if c < 32 then pageBase 0x9 (c - 28) else R.BRAKE.base
/-- Weir source of a core (R223). -/
def coreSrc (c : Nat) : Nat := if c < 28 then 0x120 + c else if c < 32 then 0x140 + (c - 28) else 0x148
/-- An event of a core; the pair has none of its own (R487, R223). -/
def State.corePost (s : State) (c code payload : Nat) : State :=
  if c = 32 then s else s.postNow (coreSrc c) code payload
/-- A page interrupt of a core; the pair has none of its own (R489). -/
def State.coreIrq (s : State) (c bits : Nat) : State := if c = 32 then s else s.irq (corePage c) bits
/-- `STAT.STATE`: 0 IDLE, 1 RUN, 2 WAIT, 3 HALTED, 4 FAULTED, 5 BIST. -/
def State.coreState (s : State) (c : Nat) : Nat := s.fld (R.CORE.STAT c) 2 0
/-- The state with `STAT.STATE` set. -/
def State.setCoreState0 (s : State) (c v : Nat) : State := s.putFld (R.CORE.STAT c) 2 0 v
/-- A running axis is placed on the core (R256). -/
def State.hostsAxes (s : State) (c : Nat) : Bool :=
  (List.range 64).any (fun a => s.bit (R.SLUICE.AX_CTRL a) 0 && s.fld (R.SLUICE.AX_PLACE a) 4 0 == c)
/-! ### The target of a waiting migration (R273, R275) -/

/-- An event of a core's source with `PG_IRQ` bits of the SLUICE page (R281, R284). -/
def State.slCorePost (s : State) (c code : Nat) (stamp : Time) (payload irqBits : Nat) : State :=
  (s.irq R.SLUICE.base irqBits).post (0x120 + c) code stamp payload
/-- A migration ends without moving anything (R274, R275). -/
def State.migFail (s : State) (reason : Nat) : State :=
  let m := s.mig
  let s1 := ({ s with mig := { m with waiting := false } }).putFld R.SLUICE.MIG_STAT 2 0 4
  let s2 := (s1.putFld R.SLUICE.MIG_STAT 23 16 reason).slCorePost m.src 0x14 s.now (m.dst + reason * 2 ^ 8) 32
  (List.range 64).foldl (fun (s : State) a => if bitN m.axes a then s.putBit (R.SLUICE.AX_STAT a) 9 false else s) s2
/-- A migration waits and may still be ended: its cutoff t_m − 80 ns has not come (R275). -/
def State.migOpen (s : State) : Bool := s.mig.waiting && !s.mig.cut && decide (s.now + ns 80 < s.mig.tm)
/-- `SLUICE.CORE[c].CFG.IMAGE`. -/
def State.imageOf (s : State) (c : Nat) : Nat := s.fld (R.SLUICE.CORE_CFG c) 7 0
/-- The conditions on a target that reason 0x04 names (R273). -/
def State.migTargetBad (s : State) (c : Nat) : Bool :=
  s.coreState c != 0 || !s.en (corePage c) || s.hostsAxes c
/-- A waiting migration whose target no longer meets its conditions, or whose IMAGE has changed, ends (R275). -/
def State.migWatch (s : State) : State :=
  if s.migOpen && (s.migTargetBad s.mig.dst || s.imageOf s.mig.dst != s.mig.image) then s.migFail 0x11 else s
/-- The state with `STAT.STATE` set; a migration that waits for the core as its target is looked at (R275). -/
def State.setCoreState (s : State) (c v : Nat) : State := (s.setCoreState0 c v).migWatch

/-- The core is IDLE, HALTED or FAULTED. -/
def State.coreQuiet (s : State) (c : Nat) : Bool :=
  s.coreState c == 0 || s.coreState c == 3 || s.coreState c == 4

/-! ### Memories (R190, R215) -/

/-- Words of P, X and Y of a core (R190). -/
def spaceSize (c sp : Nat) : Nat :=
  if c < 28 then 0x4000 else if c < 32 then 0x10000 else if sp = 0 then 0x8000 else 0x4000

/-- The byte address of word `a` of space `sp` (0 P, 1 X, 2 Y). -/
def spaceAddr (c sp a : Nat) : Nat :=
  (if c < 28 then 0x2000000 + c * 0x40000 + sp * 0x10000
   else if c < 32 then 0x2800000 + (c - 28) * 0x100000 + (match sp with | 0 => 0 | 1 => 0x80000 | _ => 0xC0000)
   else 0x2c00000 + (match sp with | 0 => 0 | 1 => 0x20000 | _ => 0x30000)) + 4 * a

/-- The byte address of word `i` of the state window of a Stone core (R191). -/
def stateAddr (c i : Nat) : Nat := 0x2000000 + c * 0x40000 + 0x30000 + 4 * i

/-- Flipped bits of a stored word. -/
def State.eccOf (s : State) (addr : Nat) : Nat := tget 0 s.ecc addr

/-- A word written to a memory with SEC-DED code shown on page `pg`: an armed injection flips its bits (R37, R215). -/
def State.eccWrite (s : State) (pg addr : Nat) (v : Word) : State :=
  let e := R.PG_ERRINJ pg
  let n := if s.bit e 1 then 2 else if s.bit e 0 then 1 else 0
  let s1 := if n = 2 then s.putBit e 1 false else if n = 1 then s.putBit e 0 false else s
  { s1.stw addr v with ecc := tset 0 s1.ecc addr n }

/-- A single-bit error corrected: the word rewritten, counted and posted (R215). -/
def State.eccCorr (s : State) (c addr sp a : Nat) : State :=
  let s1 := { s with ecc := tset 0 s.ecc addr 0 }
  if c = 32 then s1.count R.BRAKE.ECC_CNT 15 0 1
  else ((s1.count (R.CORE.ECC_CNT c) 15 0 1).coreIrq c 4).corePost c 0x04 (a + sp * 2 ^ 20)

/-- A double-bit error counted (R215); the island counts corrected errors only (R451, R488). -/
def State.eccDouble (s : State) (c : Nat) : State := if c = 32 then s else s.count (R.CORE.ECC_CNT c) 31 16 1

/-! ### Registers (R189, R219) -/

/-- SR with LDEPTH (R189). -/
def CoreSt.srNow (k : CoreSt) : Word := wput k.sr 9 8 k.loops.length
/-- LC (R189, R245). -/
def CoreSt.lc (k : CoreSt) : Nat :=
  match k.rpt with
  | some n => n
  | none => match k.loops with | l :: _ => l.count | [] => 0
/-- `BRPT` level `l`, 0 the outermost (R219). -/
def CoreSt.level (k : CoreSt) (l : Nat) : Option Loop := k.loops.reverse[l]?

/-- The register of an index of R219. -/
def CoreSt.read (k : CoreSt) (c i : Nat) : Nat :=
  if i < 0x10 then (vget k.x i).toNat
  else if i < 0x1C then
    let a := (vget k.acc ((i - 0x10) / 3)).toNat
    match (i - 0x10) % 3 with | 0 => bitsN a 31 0 | 1 => bitsN a 63 32 | _ => bitsN a 79 64
  else if i < 0x20 then 0
  else if i < 0x28 then vget k.p (i - 0x20)
  else if i < 0x30 then ux 32 (sx 20 (vget k.m (i - 0x28)))
  else if i < 0x34 then vget k.b (i - 0x30)
  else if i < 0x38 then vget k.l (i - 0x34)
  else match i with
  | 0x38 => k.lc
  | 0x39 => k.srNow.toNat
  | 0x3A => k.cfg.toNat
  | 0x3B => if c < 28 then k.epoch else 0
  | 0x3C => k.pc
  | 0x50 => if isMw c then k.rpc else 0
  | 0x51 => if isMw c then k.rsr.toNat else 0
  | 0x52 => if isMw c then k.nrpc else 0
  | 0x53 => if isMw c then k.nrsr.toNat else 0
  | 0x54 => if isMw c then k.win0 else 0
  | 0x55 => if isMw c then k.win1 else 0
  | _ =>
    if 0x40 ≤ i ∧ i < 0x49 ∧ 28 ≤ c then
      match k.level ((i - 0x40) / 3) with
      | some l => (match (i - 0x40) % 3 with | 0 => l.start | 1 => l.end_ | _ => l.count)
      | none => 0
    else 0

/-- SR after a write: reserved bits and LDEPTH stay, IE stays 0 except on a millwright (R189, R232). -/
def srWritten (c v : Nat) : Word := BitVec.ofNat 32 (if isMw c then v % 256 else v % 128)

/-- The `BRPT` levels, innermost first, with level `l` (0 the outermost) changed. -/
def setLevel (ls : List Loop) (l : Nat) (f : Loop → Loop) : List Loop :=
  ls.mapIdx (fun i x => if i + l + 1 = ls.length then f x else x)

/-- A write of the register of an index of R219. -/
def CoreSt.write (k : CoreSt) (c i v : Nat) : CoreSt :=
  let v20 := v % 2 ^ 20
  if i < 0x10 then { k with x := vupd k.x i (fun _ => BitVec.ofNat 32 v) }
  else if i < 0x1C then
    { k with acc := vupd k.acc ((i - 0x10) / 3) (fun a =>
        let n := a.toNat
        BitVec.ofNat 80 (match (i - 0x10) % 3 with
          | 0 => n - bitsN n 31 0 + v % 2 ^ 32
          | 1 => n - bitsN n 63 32 * 2 ^ 32 + v % 2 ^ 32 * 2 ^ 32
          | _ => n % 2 ^ 64 + v % 2 ^ 16 * 2 ^ 64)) }
  else if i < 0x20 then k
  else if i < 0x28 then { k with p := vupd k.p (i - 0x20) (fun _ => v20) }
  else if i < 0x30 then { k with m := vupd k.m (i - 0x28) (fun _ => v20) }
  else if i < 0x34 then { k with b := vupd k.b (i - 0x30) (fun _ => v20) }
  else if i < 0x38 then { k with l := vupd k.l (i - 0x34) (fun _ => v20) }
  else match i with
  | 0x38 =>
    (match k.rpt with
     | some _ => { k with rpt := some (v % 2 ^ 17) }
     | none => { k with loops := match k.loops with | l :: r => { l with count := v % 2 ^ 17 } :: r | [] => [] })
  | 0x39 => { k with sr := srWritten c v }
  | 0x3A => { k with cfg := BitVec.ofNat 32 (v % 8) }
  | 0x3C => { k with pc := v20 }
  | 0x50 => if isMw c then { k with rpc := v20 } else k
  | 0x51 => if isMw c then { k with rsr := BitVec.ofNat 32 v } else k
  | 0x52 => if isMw c then { k with nrpc := v20 } else k
  | 0x53 => if isMw c then { k with nrsr := BitVec.ofNat 32 v } else k
  | 0x54 => if isMw c then { k with win0 := v % 128 } else k
  | 0x55 => if isMw c then { k with win1 := v % 128 } else k
  | _ =>
    if 0x40 ≤ i ∧ i < 0x49 ∧ 28 ≤ c then
      { k with loops := setLevel k.loops ((i - 0x40) / 3) (fun l =>
          match (i - 0x40) % 3 with
          | 0 => { l with start := v20 }
          | 1 => { l with end_ := v20 }
          | _ => { l with count := v % 2 ^ 17 }) }
    else k

/-- A pending result takes its place (R198). -/
def State.land (s : State) (c : Nat) (w : Wr) : State :=
  match w with
  | .x i v => s.setCr c (fun k => { k with x := vupd k.x i (fun _ => v) })
  | .sr clr st => s.setCr c (fun k => { k with sr := (k.sr &&& ~~~clr) ||| st })
  | .acc a v _ => s.setCr c (fun k => { k with acc := vupd k.acc a (fun _ => v) })
  | .reg i v => s.setCr c (fun k => k.write c i v)
  | .restore v => s.setCr c (fun k => let k1 := k.write c 0x39 v; { k1 with srHist := List.replicate 4 k1.sr })
  | .mem a v => s.eccWrite (corePage c) a v

/-- Every issued instruction completes (R199, R207): pending results land in the order of their cycles,
and branches see the flags as they then stand. -/
def State.drain (s : State) (c : Nat) : State :=
  let ps := (s.cr c).pend
  let s1 := (List.range 20).foldl (fun s d =>
    (ps.filter (fun p => p.left == d)).foldl (fun s p => s.land c p.wr) s) s
  s1.setCr c (fun k => { k with pend := [], srHist := List.replicate 4 k.sr })

/-- The results whose distance has come take their places, the older first (R198). -/
def State.landDue (s : State) (c : Nat) : State :=
  let due := (s.cr c).pend.filter (fun p => p.left == 0)
  (due.foldl (fun (s : State) p => s.land c p.wr) s).setCr c (fun k => { k with pend := k.pend.filter (fun p => p.left != 0) })

/-! ### Boundaries (R206, R252) -/

/-- The length in words of the instruction at a program address: 2 for MOVL and BRPT.L (R224, R228). -/
def State.insLen (s : State) (c a : Nat) : Nat :=
  let op := wfld (s.ldw (spaceAddr c 0 a)) 31 26
  if op = 0x06 ∨ op = 0x36 then 2 else 1

/-- How many further instructions lie between the one at `a` and the one that contains END, up to 2:
0 for the last itself, 3 for more. -/
def State.toEnd (s : State) (c a e : Nat) : Nat :=
  let a1 := a + s.insLen c a
  let a2 := a1 + s.insLen c a1
  let a3 := a2 + s.insLen c a2
  if e < a1 then 0 else if e < a2 then 1 else if e < a3 then 2 else 3

/-- The instruction at `a` is among the last `n` of the body of a level. -/
def State.nearEnd (s : State) (c a n : Nat) (l : Loop) : Bool :=
  decide (l.start ≤ a) && decide (a ≤ l.end_) && decide (s.toEnd c a l.end_ < n)

/-- The boundary before the next instruction is clean (R206). -/
def State.cleanBoundary (s : State) (c : Nat) : Bool :=
  let k := s.cr c
  k.slots.isNone && k.rpt.isNone && !k.stall && !k.loops.any (fun l => s.nearEnd c k.pc 2 l)

/-! ### Control (R217 to R220) -/

/-- The accepted request clears REFUSED, the refused one sets it. -/
def State.reqRefused (s : State) (c : Nat) (b : Bool) : State := s.putBit (R.CORE.STAT c) 5 b

/-- The core halts: every issued instruction completes, and the reason is recorded and posted (R207, R217). -/
def State.haltNow (s : State) (c why which : Nat) : State :=
  let s1 := (s.drain c).setCoreState c 3
  let s2 := ((s1.putBit (R.CORE.STAT c) 4 false).putFld (R.CORE.STAT c) 7 6 why).putFld (R.CORE.STAT c) 10 8 which
  let s3 := s2.setCr c (fun k => { k with
    stepping := false, wdLeft := k.wdDue.map (fun d => d - s.now), wdDue := none })
  ((s3.setRg (R.CORE.PC c) (BitVec.ofNat 32 (s3.cr c).pc)).coreIrq c 2).corePost c 0x02
    (why + (s3.cr c).pc * 4)

/-- A halt waits for the next clean boundary, or is taken at once there (R206, R217). -/
def State.haltAsk (s : State) (c why which : Nat) : State :=
  if s.coreState c = 2 ∨ s.cleanBoundary c then s.haltNow c why which
  else (s.putBit (R.CORE.STAT c) 4 true).setCr c (fun k => { k with haltWhy := (why, which) })

/-- A pending halt, or the end of a step once an instruction has issued, is taken when the boundary is clean
(R217, R218). -/
def State.takeHalt (s : State) (c : Nat) : State :=
  if s.coreState c ≠ 1 ∨ !s.cleanBoundary c then s
  else if s.bit (R.CORE.STAT c) 4 then s.haltNow c (s.cr c).haltWhy.1 (s.cr c).haltWhy.2
  else if (s.cr c).stepping && (s.cr c).issued then s.haltNow c 1 0
  else s

/-- The watchdog runs on after a halt (R213). -/
def CoreSt.wdResume (k : CoreSt) (now : Time) : CoreSt :=
  { k with wdDue := match k.wdLeft with | some l => some (now + l) | none => k.wdDue, wdLeft := none }

/-- The core starts at `ENTRY` with its registers at their reset values (R189, R220). -/
def State.startCore (s : State) (c entry : Nat) : State :=
  let z : CoreSt := {}
  let s1 := s.setCr c (fun k => ({ z with
    pc := entry, srHist := List.replicate 4 0, outQ := k.outQ, trc := k.trc, dbgOld := k.dbgOld, orphan := k.orphan
    edges := k.edges, wdDue := k.wdDue, wdLeft := k.wdLeft, wdOnce := k.wdOnce }).wdResume s.now)
  let s2 := (s1.setCoreState c 1).putFld (R.CORE.STAT c) 22 16 0
  let s3 := (s2.putBit (R.CORE.STAT c) 4 false).setRg64 (R.CORE.BUSY_CYC c) 0
  (s3.setRg (R.CORE.PC c) (BitVec.ofNat 32 entry)).corePost c 0x06 entry

/-- GO (R220). -/
def State.coreGo (s : State) (c : Nat) : State :=
  if s.coreState c = 0 ∧ s.en (corePage c) ∧ ¬(isMw c ∧ bitN s.bist.noGo (c - 28)) then (s.startCore c (s.fld (R.CORE.ENTRY c) 19 0)).reqRefused c false
  else s.reqRefused c true

/-- The instruction in progress is given up; an access of it through a system window still completes (R193). -/
def CoreSt.giveUp (k : CoreSt) : CoreSt :=
  { k with slots := none, rpt := none, waitFor := none, after := none, stall := false, stepping := false, accs := []
           orphan := if k.stall then k.orphan ++ k.accs else k.orphan }

/-- The core enters IDLE with its registers kept; the watchdog of a HALTED millwright counts again (R213, R220). -/
def State.stopNow (s : State) (c : Nat) : State :=
  let st := s.coreState c
  let s1 := ((s.drain c).setCoreState c 0).putBit (R.CORE.STAT c) 4 false
  let s2 := s1.setCr c (fun k => k.giveUp.wdResume s.now)
  if st = 0 then s2
  else (s2.setRg (R.CORE.PC c) (BitVec.ofNat 32 (s2.cr c).pc)).corePost c 0x07 st

/-- A Stone core that hosts axes is stopped or halted only with FORCE (R217). -/
def State.mayStop (s : State) (c : Nat) : Bool := !(isStone c && s.hostsAxes c) || s.bit (R.CORE.CTRL c) 5

/-- STOP (R217, R220); a core in BIST is not stopped. -/
def State.coreStop (s : State) (c : Nat) : State :=
  if s.mayStop c && s.coreState c != 5 then (s.stopNow c).reqRefused c false else s.reqRefused c true

/-- HALT (R217). -/
def State.coreHalt (s : State) (c : Nat) : State :=
  if s.mayStop c && (s.coreState c == 1 || s.coreState c == 2) then (s.reqRefused c false).haltAsk c 0 0
  else s.reqRefused c true

/-- RESUME or STEP from HALTED: the core goes on at PC, so a `WAITT` that the halt ended is issued again (R218, assumption
log 169). -/
def State.coreResume (s : State) (c : Nat) (step : Bool) : State :=
  if s.coreState c ≠ 3 then s.reqRefused c true else
  (((s.reqRefused c false).setCoreState c 1).setCr c (fun k =>
    { k.wdResume s.now with stepping := step, skipBp := true, issued := false, waitFor := none, after := none })).corePost c 0x03 (b2n step)

/-- A write of a core's `CTRL` (R217, R220). -/
def State.writeCoreCtrl (s : State) (c v : Nat) : State :=
  let s1 := s.putBit (R.CORE.CTRL c) 5 (bitN v 5)
  let s2 := if bitN v 6 = s1.bit (R.CORE.CTRL c) 6 then s1
    else if s1.coreQuiet c then s1.putBit (R.CORE.CTRL c) 6 (bitN v 6)
    else s1.putBit (R.PG_STAT (corePage c)) 16 true
  let s3 := if bitN v 0 then s2.coreGo c else s2
  let s4 := if bitN v 1 then s3.coreStop c else s3
  let s5 := if bitN v 2 then s4.coreHalt c else s4
  let s6 := if bitN v 3 then s5.coreResume c false else s5
  if bitN v 4 then s6.coreResume c true else s6

/-- A write of `PG_CTRL.EN` = 0 acts as a STOP: true when it is refused (R220). -/
def State.coreDisable (s : State) (c : Nat) : Bool × State :=
  if s.mayStop c then (false, (s.stopNow c).reqRefused c false) else (true, s.reqRefused c true)

/-! ### Debug access (R218, R219) -/

/-- The breakpoint and watchpoint words as written: `BP[0]` to `BP[3]`, `WP[0]`, `WP[1]`. -/
def State.dbgRegs (s : State) (c : Nat) : List Word :=
  (List.range 6).map (fun i => s.rg (if i < 4 then R.CORE.BP c i else R.CORE.WP c (i - 4)))
/-- The breakpoint and watchpoint words in force now: those before the first write that does not act yet (R218). -/
def State.dbgWords (s : State) (c : Nat) : List Word :=
  match (s.cr c).dbgOld.find? (fun x => decide (s.now < x.1)) with
  | some x => x.2
  | none => s.dbgRegs c

/-- Ten cycles of a core in fine ticks, rounded up (R187, R218). -/
def tenCycles (c : Nat) : Time := if c < 28 then 134 else if c < 32 then 267 else 400

/-- A breakpoint or watchpoint write acts 10 cycles later (R218). -/
def State.writeDbgWord (s : State) (m : Master) (c a v : Nat) : State :=
  let old := s.dbgRegs c
  (s.writeReg m (corePage c) a v).setCr c (fun k => { k with
    dbgOld := k.dbgOld.filter (fun x => decide (s.now < x.1)) ++ [(s.now + tenCycles c, old)] })

/-- A breakpoint that covers a program address. -/
def State.bpAt (s : State) (c pc : Nat) : Option Nat :=
  let ws := s.dbgWords c
  (List.range 4).find? (fun b => wbit (ws.getD b 0) 31 && wfld (ws.getD b 0) 19 0 == pc)

/-- A watchpoint that covers an access: space 1 X, 2 Y (R218, R220). -/
def State.wpAt (s : State) (c sp a : Nat) (store : Bool) : Option Nat :=
  let ws := s.dbgWords c
  (List.range 2).find? (fun w =>
    let x := ws.getD (4 + w) 0
    wbit x 31 && wfld x 19 0 == a && wfld x 21 20 == sp && wbit x (if store then 23 else 22))

/-- `DBG_DATA` read (R219). -/
def State.dbgRead (s : State) (c : Nat) : Word × State :=
  if s.coreQuiet c then
    (BitVec.ofNat 32 (((s.drain c).cr c).read c (s.fld (R.CORE.DBG_SEL c) 7 0)), s.reqRefused c false)
  else (0, s.reqRefused c true)

/-- `DBG_DATA` write (R219). -/
def State.dbgWrite (s : State) (c v : Nat) : State :=
  if s.coreQuiet c then
    let i := s.fld (R.CORE.DBG_SEL c) 7 0
    let s1 := (s.reqRefused c false).setCr c (fun k =>
      let k1 := k.write c i v
      if i = 0x39 then { k1 with srHist := List.replicate 4 k1.sr } else k1)
    if i = 0x3C then s1.setRg (R.CORE.PC c) (BitVec.ofNat 32 (v % 2 ^ 20)) else s1
  else s.reqRefused c true

/-! ### Faults and vectors (R206, R208 to R214) -/

/-- The core enters FAULTED: state, `PG_IRQ[0]`, CORE_FAULT (R208, R210). -/
def State.enterFaulted (s : State) (c cause pc : Nat) : State :=
  let s1 := ((s.drain c).setCoreState c 4).putBit (R.CORE.STAT c) 4 false
  let s2 := s1.setCr c (fun k => { k.giveUp with pc := pc })
  ((s2.setRg (R.CORE.PC c) (BitVec.ofNat 32 pc)).coreIrq c 1).corePost c 0x01 (cause + pc * 2 ^ 8)

/-- The fault registers (R214): the address is recorded for an access only. -/
def State.recordFault (s : State) (c cause pc : Nat) (addr : Option Nat) : State :=
  let s1 := (s.setRg (R.CORE.FAULT_CAUSE c) (BitVec.ofNat 32 cause)).setRg (R.CORE.FAULT_PC c) (BitVec.ofNat 32 pc)
  match addr with
  | some a => s1.setRg (R.CORE.FAULT_ADDR c) (BitVec.ofNat 32 a)
  | none => s1

/-- A vector is entered: PC and SR saved, IE cleared, PC at VBASE + 8·v (R210). A breakpoint there acts (R218), and an
access in progress still completes (R193). -/
def State.enterVector (s : State) (c v pc : Nat) : State :=
  let base := s.fld (R.MW.VBASE (c - 28)) 19 0
  (s.drain c).setCr c (fun k =>
    let sr' := wput k.sr 7 7 0
    let k1 := { k with
      sr := sr', srHist := List.replicate 4 sr', pc := (base + 8 * v) % 2 ^ 20, slots := none, rpt := none, skipBp := false
      stall := false, accs := [], orphan := if k.stall then k.orphan ++ k.accs else k.orphan
      edges := if v < 8 ∧ v ≠ 2 ∧ bitN k.edges v then k.edges - 2 ^ v else k.edges }
    if v < 2 then { k1 with nrpc := pc, nrsr := k.srNow, nmi := true }
    else { k1 with rpc := pc, rsr := k.srNow })

/-- A FAULT at the instruction at `pc` (R206, R208, R210, R214): FAULTED, or vector 0 of a millwright, or
a double fault. -/
def State.faultAt (s : State) (c cause pc : Nat) (addr : Option Nat) : State :=
  let s1 := s.recordFault c cause pc addr
  let s2 := s1.putBit (R.CORE.STAT c) 4 false
  if !isMw c then s2.enterFaulted c cause pc
  else if (s.cr c).nmi then (s2.recordFault c 0x09 pc addr).enterFaulted c 0x09 pc
  else (s2.coreIrq c 1).enterVector c 0 pc

/-- The pages that an entry of `ROUTE` covers, lowest instance first (R211). -/
def routeHit (s : State) (w : Word) : Option (Nat × Nat) :=
  if !wbit w 31 then none else
  ((List.range 64).find? (fun n =>
    decide (wfld w 15 8 ≤ n) && decide (n ≤ wfld w 23 16) && pageExists (pageBase (wfld w 4 0) n) &&
      s.pageIrq (pageBase (wfld w 4 0) n))).map (fun n => (wfld w 4 0, n))

/-- The pending vectors of a millwright, bit per vector (R209, R211). -/
def State.vecPend (s : State) (k : Nat) : Nat :=
  (s.cr (28 + k)).edges + (if s.bit (R.PG_IRQ R.WEIR.base) k then 4 else 0) +
    (List.range 24).foldl (fun m j => if (routeHit s (s.rg (R.MW.ROUTE k j))).isSome then m + 2 ^ (8 + j) else m) 0

/-- The lowest vector that may be taken (R209): vector 1 always, 2 to 31 with IE and `VEC_EN`. -/
def State.vecTake (s : State) (k : Nat) : Option Nat :=
  let p := s.vecPend k
  let ie := wbit (s.cr (28 + k)).sr 7
  let en := (s.rg (R.MW.VEC_EN k)).toNat
  (List.range 32).find? (fun v => bitN p v && (v == 1 || (decide (2 ≤ v) && ie && bitN en v)))

/-- A pending vector is taken at a clean boundary (R210). -/
def State.vectorEntry (s : State) (k : Nat) : State :=
  let c := 28 + k
  if s.coreState c ≠ 1 ∨ !s.cleanBoundary c then s else
  let s0 := s
  let s := s0.landDue c
  match s.vecTake k with
  | none => s0
  | some v =>
    if v < 2 ∧ (s.cr c).nmi then (s.recordFault c 0x09 (s.cr c).pc none).enterFaulted c 0x09 (s.cr c).pc
    else
      let s1 := if 8 ≤ v then
          match routeHit s (s.rg (R.MW.ROUTE k (v - 8))) with
          | some (ty, n) => s.setRg (R.MW.VEC_SRC k) (BitVec.ofNat 32 (v + ty * 2 ^ 8 + n * 2 ^ 16))
          | none => s
        else s
      s1.enterVector c v (s.cr c).pc

/-- An edge vector becomes pending (R209). -/
def State.vecEdge (s : State) (k v : Nat) : State :=
  s.setCr (28 + k) (fun c => if bitN c.edges v then c else { c with edges := c.edges + 2 ^ v })

/-- `WDOG.TIMEOUT` (R221). -/
def State.wdTime (s : State) (k : Nat) : Time := us (nz (s.fld (R.MW.WDOG k) 23 0))

/-- A write of `WDOG`: EN = 1 starts the count (R213). -/
def State.writeWdog (s : State) (m : Master) (k v : Nat) : State :=
  let was := s.bit (R.MW.WDOG k) 31
  let s1 := s.writeReg m (R.MW.base k) (R.MW.WDOG k) v
  if bitN v 31 = was then s1
  else s1.setCr (28 + k) (fun c =>
    if !bitN v 31 then { c with wdDue := none, wdLeft := none, wdOnce := false }
    else if s.coreState (28 + k) = 3 then { c with wdLeft := some (s1.wdTime k), wdOnce := false }
    else { c with wdDue := some (s.now + s1.wdTime k), wdOnce := false })

/-- A write of `WDOG_KICK` (R213). -/
def State.wdogKick (s : State) (k v : Nat) : State :=
  if v ≠ 0xA5C3 ∨ !s.bit (R.MW.WDOG k) 31 then s else
  s.setCr (28 + k) (fun c =>
    if s.coreState (28 + k) = 3 then { c with wdLeft := some (s.wdTime k), wdOnce := false }
    else { c with wdDue := some (s.now + s.wdTime k), wdOnce := false })

/-- The watchdog expires: vector 1 first, WDOG2 the second time (R213). -/
def State.wdogExpire (s : State) (k : Nat) : State :=
  let c := 28 + k
  match (s.cr c).wdDue with
  | none => s
  | some d =>
    if s.now < d ∨ !s.bit (R.MW.WDOG k) 31 then s
    else if (s.cr c).wdOnce then
      let s1 := (s.setCr c (fun x => { x with wdDue := none })).recordFault c 0x08 (s.cr c).pc none
      let s2 := (s1.coreIrq c 8).corePost c 0x05 1
      (s2.enterFaulted c 0x08 (s.cr c).pc).report 0x0B k 0 true 0
    else
      let s1 := s.setCr c (fun x => { x with wdDue := some (d + s.wdTime k), wdOnce := true })
      ((s1.vecEdge k 1).coreIrq c 8).corePost c 0x05 0

/-- A timer of a millwright fires at the first TCLK edge with GTC at or after it (R221). -/
def State.timerFire (s : State) (k i : Nat) : State :=
  if s.bit (R.MW.TIMER_CTRL k) i && decide (ceilEdge (s.rg64 (R.MW.TIMER k i)) ≤ s.now) then
    (s.putBit (R.MW.TIMER_CTRL k) i false).vecEdge k (4 + i)
  else s

/-! ### Hooks -/

/-- The writes of a STONE or MW page that have an effect of their own. -/
def State.coreHook (s : State) (m : Master) (c off v : Nat) : Option State :=
  let pg := corePage c
  if off = 0x40 then some (s.writeCoreCtrl c v)
  else if off = 0x48 ∨ (0xA0 ≤ off ∧ off < 0xE0) then
    some (if s.coreQuiet c && !(0xA0 ≤ off && off % 8 == 0 && bitsN v 21 20 == 3) then s.writeReg m pg (coreBase c + off) v
      else s.putBit (R.PG_STAT pg) 16 true)
  else if 0x70 ≤ off ∧ off < 0x88 then some (s.writeDbgWord m c (coreBase c + off) v)
  else if off = 0x94 then some (s.dbgWrite c v)
  else if isMw c ∧ off = 0x10C then some (if bitN v 0 then s.vecEdge (c - 28) 3 else s)
  else if isMw c ∧ off = 0x114 then some (s.writeWdog m (c - 28) v)
  else if isMw c ∧ off = 0x118 then some (s.wdogKick (c - 28) v)
  else none

/-- The words of a STONE or MW page that follow the core: DRAINED, PC, VEC_PEND. -/
def State.coreLive (s : State) (c off : Nat) : Option Word :=
  if off = 0x44 ∧ isStone c then some (wput (s.rg (R.CORE.STAT c)) 3 3 (b2n (!s.hostsAxes c)))
  else if off = 0x4C then some (BitVec.ofNat 32 (s.cr c).pc)
  else if isMw c ∧ off = 0x108 then some (BitVec.ofNat 32 (s.vecPend (c - 28)))
  else none

/-- A breakpoint is met before the instruction at PC issues (R218). -/
def State.breakpointHit (s : State) (c : Nat) : State :=
  if s.coreState c ≠ 1 ∨ (s.cr c).skipBp then s else
  match s.bpAt c (s.cr c).pc with
  | some b => s.haltAsk c 2 b
  | none => s

/-- A watchpoint halt that waits is taken (R218). -/
def State.watchpointHit (s : State) (c : Nat) : State :=
  if s.bit (R.CORE.STAT c) 4 ∧ (s.cr c).haltWhy.1 = 3 then s.takeHalt c else s

/-! ### The commands -/

/-- VECTOR_ENTRY (R210). -/
def execVectorEntry (t : Time) (k : Fin 4) (s : State) : Host.Outcome State Fault Refusal := .next ((s.tick t).vectorEntry k)
/-- WDOG_EXPIRE (R213). -/
def execWdogExpire (t : Time) (k : Fin 4) (s : State) : Host.Outcome State Fault Refusal := .next ((s.tick t).wdogExpire k)
/-- WDOG_KICK (R213). -/
def execWdogKick (t : Time) (_m : Master) (k : Fin 4) (v : Word) (s : State) : Host.Outcome State Fault Refusal :=
  .next ((s.tick t).onPage (R.MW.base k) (fun s => s.wdogKick k v.toNat))
/-- MW_TIMER_FIRE (R221). -/
def execMwTimerFire (t : Time) (k i : Fin 4) (s : State) : Host.Outcome State Fault Refusal := .next ((s.tick t).timerFire k i)
/-- DOORBELL (R209). -/
def execDoorbell (t : Time) (_m : Master) (k : Fin 4) (s : State) : Host.Outcome State Fault Refusal :=
  .next ((s.tick t).onPage (R.MW.base k) (fun s => s.vecEdge k 3))
/-- A request bit of `CTRL` as a master writes it: the RW bits FORCE and MPU_EN are written as they stand. -/
def State.ctrlReq (s : State) (c bit_ : Nat) : State :=
  s.onPage (corePage c) (fun s => s.writeCoreCtrl c (2 ^ bit_ + s.fld (R.CORE.CTRL c) 6 5 * 2 ^ 5))
/-- CORE_GO (R220). -/
def execCoreGo (t : Time) (_m : Master) (c : Fin 32) (s : State) : Host.Outcome State Fault Refusal :=
  .next ((s.tick t).ctrlReq c 0)
/-- CORE_STOP (R217). -/
def execCoreStop (t : Time) (_m : Master) (c : Fin 32) (s : State) : Host.Outcome State Fault Refusal :=
  .next ((s.tick t).ctrlReq c 1)
/-- CORE_HALT (R217). -/
def execCoreHalt (t : Time) (_m : Master) (c : Fin 32) (s : State) : Host.Outcome State Fault Refusal :=
  .next ((s.tick t).ctrlReq c 2)
/-- HALTED: a pending halt, or the end of a step, is taken (R217). -/
def execHalted (t : Time) (c : Fin 33) (s : State) : Host.Outcome State Fault Refusal := .next ((s.tick t).takeHalt c)
/-- CORE_RESUME (R218). -/
def execCoreResume (t : Time) (_m : Master) (c : Fin 32) (s : State) : Host.Outcome State Fault Refusal :=
  .next ((s.tick t).ctrlReq c 3)
/-- CORE_STEP (R218). -/
def execCoreStep (t : Time) (_m : Master) (c : Fin 32) (s : State) : Host.Outcome State Fault Refusal :=
  .next ((s.tick t).ctrlReq c 4)
/-- BREAKPOINT_HIT (R218). -/
def execBreakpointHit (t : Time) (c : Fin 33) (s : State) : Host.Outcome State Fault Refusal :=
  .next ((s.tick t).breakpointHit c)
/-- WATCHPOINT_HIT (R218). -/
def execWatchpointHit (t : Time) (c : Fin 33) (s : State) : Host.Outcome State Fault Refusal :=
  .next ((s.tick t).watchpointHit c)
/-- DBG_DATA_READ (R219). -/
def execDbgDataRead (t : Time) (_m : Master) (c : Fin 32) (s : State) : Host.Outcome State Fault Refusal :=
  let r := (s.tick t).dbgRead c
  .next { r.2 with rd := BitVec.ofNat 64 r.1.toNat }
/-- DBG_DATA_WRITE (R219). -/
def execDbgDataWrite (t : Time) (_m : Master) (c : Fin 32) (v : Word) (s : State) : Host.Outcome State Fault Refusal :=
  .next ((s.tick t).onPage (corePage c) (fun s => s.dbgWrite c v.toNat))

end Sys2Proof.Machine
end

