-- ==== Sys2Proof/Machine/Sluice.lean ====
section
/-! DEFINITION. The Sluice: the schedule, staging, the commit instant and the sample frame, misses and overruns,
parking and suspension, migration and automatic replacement (R12 to R21, R44, R45, R256 to R284). -/

namespace Sys2Proof.Machine

/-! ### Access -/

/-- One level of an axis. -/
def State.lvl (s : State) (a l : Nat) : PeriodSt := vget (s.axs a).lv l
/-- The state with one level of an axis changed. -/
def State.setLvl (s : State) (a l : Nat) (f : PeriodSt → PeriodSt) : State :=
  s.setAx a (fun x => { x with lv := vupd x.lv l f })
/-- `PLACE.CORE`. -/
def State.coreOfAx (s : State) (a : Nat) : Nat := s.fld (R.SLUICE.AX_PLACE a) 4 0
/-- `PLACE.EPOCH`. -/
def State.epochOf (s : State) (a : Nat) : Nat := s.fld (R.SLUICE.AX_PLACE a) 23 16
/-- `CLOSE_l`. -/
def State.closeWord (s : State) (a l : Nat) : Nat := s.fld (R.SLUICE.AX_CLOSE a) (8 * l + 5) (8 * l)
/-- `RES_l`. -/
def State.resOf (s : State) (a l : Nat) : Nat := s.fld (R.SLUICE.AX_RES a) (8 * l + 6) (8 * l)
/-- `BUDGET_l`. -/
def State.budgetOf (s : State) (a l : Nat) : Nat := s.fld (R.SLUICE.AX_BUDGET a) (10 * l + 9) (10 * l)
/-- `MISS_LEVEL`: 6 and 7 act as 5. -/
def State.missLevel (s : State) (a : Nat) : Nat := min 5 (s.fld (R.SLUICE.AX_CFG a) 23 21)
/-- `OVR_LEVEL`: 6 and 7 act as 5. -/
def State.ovrLevel (s : State) (a : Nat) : Nat := min 5 (s.fld (R.SLUICE.AX_CFG a) 26 24)
/-- `MISS_MAX`: 0 to 2 act as 3. -/
def State.missMax (s : State) (a : Nat) : Nat := max 3 (s.fld (R.SLUICE.AX_CFG a) 31 27)
/-- PARK is in effect (R261). -/
def State.parkOn (s : State) (a : Nat) : Bool := (s.axs a).park
/-- The axis is suspended (R262). -/
def State.suspended (s : State) (a : Nat) : Bool := s.bit (R.SLUICE.AX_STAT a) 10
/-- A migration moves the axis, and is not over. -/
def State.migMoves (s : State) (a : Nat) : Bool := s.mig.waiting && bitN s.mig.axes a
/-- An event of an axis with `PG_IRQ` bits of the SLUICE page (R282, R284). -/
def State.slAxPost (s : State) (a code : Nat) (stamp : Time) (payload irqBits : Nat) : State :=
  (if irqBits = 0 then s else s.irq R.SLUICE.base irqBits).post (axisSrc a) code stamp payload

/-- Period (a, l) is hosted by core `c`: the axis runs, has the level, and is placed there; from the cutoff of a
migration on the target hosts its periods too (R256, R260, R276). -/
def State.hosts (s : State) (c a l : Nat) : Bool :=
  s.axRun a && decide (l < s.levels a) &&
    (s.coreOfAx a == c || (s.migMoves a && s.mig.cut && s.mig.dst == c))

/-! ### Frames (R12 to R16, R247) -/

/-- A frame is delivered to a core: current axis, EPOCH, and the periods' bookkeeping (R191, R247). -/
def State.waittDeliver (s : State) (c a l : Nat) (f : Frame) : State :=
  let key := a * 4 + l
  let ep := wfld f.words[14] 15 8
  let s1 := s.setCr c (fun k => { k with frames := tput k.frames key (some f), outs := tput k.outs key none, epoch := ep, cycOf := some (a, l), cyc := 0, waitFor := none, pc := (k.after.map (·.1)).getD k.pc, loops := (k.after.map (·.2)).getD k.loops, after := none })
  let s2 := (s1.putFld (R.CORE.STAT c) 22 16 (64 + a)).setCoreState c 1
  s2.setLvl a l (fun p => { p with frames := p.frames.map (fun x => if x.k ≤ f.k then { x with delivered := true } else x) })

/-- The newest frame of a period that is ready and may be delivered to its core (R247, R277). -/
def State.readyFrame (s : State) (a l : Nat) : Option Frame :=
  match (s.lvl a l).frames.find? (fun f => f.isReady) with
  | some f => if f.delivered || f.old then none else some f
  | none => none

/-- A core that waits for a period takes its frame, if one is ready (R247). -/
def State.waittTry (s : State) (a l : Nat) : State :=
  let c := s.coreOfAx a
  if s.coreState c = 2 ∧ (s.cr c).waitFor = some (a, l) ∧ s.hosts c a l then
    match s.readyFrame a l with
    | some f => s.waittDeliver c a l f
    | none => s
  else s

/-- The frame words of an axis at an instant, words 2 to 5 and 24 on apart (R13, R14, R21, R302, R389). -/
def State.frameWords (s : State) (a l : Nat) (tk : Time) (held : Bool) : Vector Word 32 :=
  let lo (v : Int) : Word := BitVec.ofNat 32 (ux 64 v)
  let hi (v : Int) : Word := BitVec.ofNat 32 (ux 64 v >>> 32)
  let st := 16 * b2n held + 32 * b2n (s.unsureAt (edgeOf tk)) + s.epochOf a * 2 ^ 8
  let set_ : Word × Word := if l + 1 < s.levels a then (s.lvl a (l + 1)).out else (0, 0)
  let cmd := s.cmdAt a tk
  let w15 : Word := match s.slotOf a with
    | some n => if (s.auxOf n 4).isSome then 0x80000000 else 0
    | none => 0
  let w16 : Word := match s.slotOf a with
    | some n => (match s.auxOf n 5 with
      | some j => s.rg (R.AUXADC.AIN_RESULT (j / 8) (j % 8))
      | none => 0)
    | none => 0
  let k := (s.lvl a l).seq
  let u (i : Nat) : Word := s.rg (R.AXIS.USER a i)
  let ws : List Word := [BitVec.ofNat 32 tk, BitVec.ofNat 32 (tk >>> 32), 0, 0, 0, 0, 0, 0, 0, 0, 0, 0, 0, 0,
    BitVec.ofNat 32 st, w15, w16, s.foCurrent a tk, set_.1, set_.2, lo cmd.1, hi cmd.1, lo cmd.2, hi cmd.2,
    BitVec.ofNat 32 k, BitVec.ofNat 32 (k >>> 32), u 0, u 1, u 2, u 3, u 4, u 5]
  s.portWords a tk (Vector.ofFn (fun (i : Fin 32) => ws.getD i 0))

/-- Frame values as Hopper nodes (R362). -/
def State.frameNodes (s : State) (a l : Nat) (f : Frame) (ws : List Nat) : State :=
  if !s.hopEn then s else
  ws.foldl (fun (s : State) (w : Nat) => s.hopNode 1 (a * 2 ^ 8 + l * 2 ^ 6 + w) (vget f.words w) f.tk) s

/-- The frame of one level is frozen (R12, R16, R267). -/
def State.freezeLevel (s : State) (a l : Nat) (tk ready : Time) : State :=
  let p := s.lvl a l
  let need := match s.slotOf a with | some n => s.sdNeed n | none => 0
  let aux := match s.slotOf a with | some n => (s.auxOf n 4).isSome | none => false
  let f : Frame := { k := p.seq, tk := tk, ready := ready, words := s.frameWords a l tk (p.held || s.parkOn a), need := need, auxWait := aux }
  (s.setLvl a l (fun p => { p with seq := p.seq + 1, frames := f :: p.frames.filter (fun x => !x.isReady || decide (f.k < x.k + 8)) })).frameNodes a l f
    ([0, 1] ++ (List.range 15).map (· + 17))

/-- What happens at an inner sample instant besides the frames: windows, triggered conversions, selections, the
watches of the feedback ports, ASC, the stepper (R114, R123, R133, R177, R324, R571). -/
def State.sampleSide (s : State) (a : Nat) (tk prev ready : Time) : State :=
  let f := (s.lvl a 0).last
  let ports := (vget s.fbSel a).primary.toList ++ (vget s.fbSel a).secondary.toList
  let s1 := ports.eraseDups.foldl (fun (s : State) n => (s.velZero n tk).stallSample n a prev tk) s
  let s2 := s1.stepSample a tk
  match s.slotOf a with
  | some n =>
    let v := (sx 64 (f.words[8].toNat + f.words[9].toNat * 2 ^ 32)).natAbs
    (((s2.openWindows n tk ready).auxTrigger n tk).ascSample n v (wbit f.words[14] 0)).chopperEval n
  | none => s2

/-- The sample frames of an instant are frozen, and the axis goes on to its next instant (R12, R18, R20). -/
def State.freeze (s : State) (a : Nat) (tk next : Time) : State :=
  let x := s.axs a
  let s1 := s.applyFbSel a tk
  let s2 := match s.slotOf a with | some n => s1.applyAuxSel n tk | none => s1
  let ready := tk + (match s.slotOf a with | some n => s2.frameDelay n tk | none => ns 60)
  let s3 := (List.range 3).foldl (fun (s : State) l => if s.levelDue a l then s.freezeLevel a l tk ready else s) s2
  let s4 := s3.sampleSide a tk (x.prev.getD tk) ready
  s4.setAx a (fun x => { x with prev := some tk, next := some next, idx := x.idx + 1, cut := false })

/-- The frames of an axis that have become ready (R16, R127, R134). -/
def State.frameReady (s : State) (a : Nat) : State :=
  (List.range 3).foldl (fun (s : State) l =>
    let due := ((s.lvl a l).frames.filter (fun f => !f.isReady && decide (f.ready ≤ s.now))).reverse
    due.foldl (fun (s : State) (f : Frame) =>
      let s1 := match s.slotOf a with
        | some n =>
          if l = 0 then
            let s0 := s.judgeInputs n f.need f.good
            (match s.auxOf n 4 with
             | some j =>
               if f.auxWait ∧ f.need ≠ 0 then
                 (((s0.count (R.AUXADC.LATE (j / 8)) 15 0 1).irq (R.SDM.base n) 4).post (slotSrc n) 0x37 f.ready
                   (j + f.tk / 16 % 2 ^ 16 * 2 ^ 16))
               else s0
             | none => s0)
          else s
        | none => s
      let ok : Bool := f.need &&& f.good == f.need
      let g : Frame := { f with isReady := true, words := f.words.set 14 (wput f.words[14] 3 3 (b2n ok)) }
      let keep (fs : List Frame) : List Frame := (fs.map (fun x => if x.k = f.k then g else x)).filter (fun x => decide (f.k ≤ x.k))
      (s1.setLvl a l (fun p => { p with frames := keep p.frames })).frameNodes a l g ([2, 3, 4, 5] ++ (List.range 11).map (· + 6))) s) s

/-- FRAME_READY: the frames of an axis that are ready, delivered to a core that waits (R16, R247). -/
def execFrameReady (t : Time) (a : Fin 64) (s : State) : Host.Outcome State Fault Refusal :=
  .next ((List.range 3).foldl (fun (s : State) l => s.waittTry a l) ((s.tick t).frameReady a))

/-! ### The staging cutoff (R17, R269) -/

/-- The staging cutoff of the coming commit instant: undelivered frames of the levels that commit are overrun. -/
def State.cutoff (s : State) (a : Nat) : State :=
  let x := s.axs a
  match x.next with
  | none => s
  | some tk =>
    if x.cut || decide (s.now + ns 80 < tk) || !s.axRun a then s else
    let s1 := s.setAx a (fun x => { x with cut := true })
    if s.parkOn a || x.prev.isNone then s1 else
    (List.range 3).foldl (fun (s : State) l =>
      if !s.levelDue a l then s else
      let f := (s.lvl a l).last
      if f.delivered then s else
      let c := s.coreOfAx a
      let s2 := (s.setLvl a l (fun p => { p with overrun := true })).count (R.SLUICE.AX_MISS_CNT a) 31 24 1
      (s2.slCorePost c 0x10 (cutoffOf tk) (a + l * 2 ^ 6 + f.k % 256 * 2 ^ 8) 4).report 0x19 a (2 ^ a) false (s.ovrLevel a)) s1

/-- STAGING_CUTOFF (R17, R269). -/
def execStagingCutoff (t : Time) (a : Fin 64) (s : State) : Host.Outcome State Fault Refusal := .next ((s.tick t).cutoff a)

/-! ### Arrival of OUT writes (R263 to R265) -/

/-- The staging word is mapped (R263). -/
def State.wordMapped (s : State) (a l w : Nat) : Bool :=
  if l = 0 then (decide (w ≤ 20) && (s.slotOf a).isSome) || (decide (24 ≤ w) && decide (w ≤ 27))
  else decide (w ≤ 1)

/-- The next commit instants of a level, nearest first, and the frame number of each (R265). -/
def State.nextCommits (s : State) (a l : Nat) : List (Time × Nat) :=
  let x := s.axs a
  match x.next with
  | none => []
  | some t0 =>
    let r := nz (s.ratio a l)
    let i0 := if x.prev.isNone then r else (r - x.idx % r) % r
    let t1 := s.innerAhead a t0 i0
    let k1 := (s.lvl a l).seq + (if x.prev.isNone then 1 else 0)
    [(t1, k1), (s.innerAhead a t1 r, k1 + 1)]

/-- The epoch of an axis in force at a coming instant (R265, R276). -/
def State.epochAt (s : State) (a : Nat) (t : Time) : Nat :=
  if s.migMoves a && bitN s.mig.left a && decide (s.mig.tm ≤ t) then (s.epochOf a + 1) % 256 else s.epochOf a

/-- `n` writes for the commit instant `c` are dropped and counted; the event is posted once per commit instant and level
(R265, R282). -/
def State.dropWrite (s : State) (a l kind payload : Nat) (arr c : Time) (n : Nat) : State :=
  let hi := 8 * kind + 7
  let s1 := (s.count R.SLUICE.DROP hi (8 * kind) n).irq R.SLUICE.base 8
  if (s.lvl a l).posted.contains (c, kind) then s1 else
  (s1.setLvl a l (fun p => { p with posted := (c, kind) :: p.posted })).post (axisSrc a)
    (match kind with | 0 => 0x33 | 1 => 0x32 | _ => 0x34) arr payload

/-- One `OUT` write arrives at `arr`: period, word, value, tag and SEQ (R265). -/
def State.outArrive (s : State) (a l w : Nat) (v : Word) (tag seq : Nat) (arr : Time) : State :=
  if !s.axRun a || (s.axs a).next.isNone || s.parkOn a then s else
  let cs := s.nextCommits a l
  match cs.find? (fun c => decide (arr + ns 80 ≤ c.1)) with
  | none => s
  | some (c, k) =>
    let first := (cs.headD (0, 0)).1 == c
    let base := l + w * 2 ^ 2
    let e := s.epochAt a (cutoffOf c)
    if tag ≠ e then s.dropWrite a l 0 (base + tag * 2 ^ 8 + e * 2 ^ 16) arr c 1
    else if seq ≠ k % 256 then s.dropWrite a l 1 base arr c 1
    else if !s.wordMapped a l w then s.dropWrite a l 2 base arr c 1
    else
      let inj := R.PG_ERRINJ R.SLUICE.base
      if l = 0 ∧ w = s.closeWord a 0 ∧ s.bit inj 22 ∧ s.fld inj 21 16 = a then s.putBit inj 22 false
      else s.setLvl a l (fun p =>
        if first then { p with stage := tput p.stage w (some v) } else { p with stage2 := tput p.stage2 w (some v) })

/-- OUT_WRITE_ARRIVAL: the oldest `OUT` write of a core that is on its way arrives (R25, R264, R265). -/
def execOutWriteArrival (t : Time) (c : Fin 33) (s : State) : Host.Outcome State Fault Refusal :=
  let s := s.tick t
  .next (match (s.cr c).outQ with
    | [] => s
    | (per, w, v, tag, seq, arr) :: rest =>
      if s.now < arr then s else
      (s.setCr c (fun k => { k with outQ := rest })).outArrive (per / 4) (per % 4) w v tag seq arr)

/-! ### The commit (R18, R44, R45, R263, R266 to R268) -/

/-- The offset in the PWM page that a level-0 staging word drives (R263). -/
def pwmTarget (w : Nat) : Option Nat :=
  let o (r : Nat → Nat) : Nat := r 0 - R.PWM.base 0
  if w ≤ 7 then some (o (fun n => R.PWM.CMP n w))
  else match w with
    | 8 => some (o R.PWM.PERIOD)
    | 9 => some (o R.PWM.PHASE)
    | 10 => some (o R.PWM.ANCHOR)
    | 11 => some (o R.PWM.ANCHOR + 4)
    | 12 => some (o R.PWM.MINP)
    | _ => if 13 ≤ w ∧ w ≤ 20 then
        some (if w % 2 = 1 then o (fun n => R.PWM.DT_R n ((w - 13) / 2)) else o (fun n => R.PWM.DT_F n ((w - 13) / 2)))
      else none

/-- A value released into a register: the bits of the field, clamped as a write would be (R8, R44). -/
def State.releaseReg (s : State) (addr : Nat) (v : Word) : State :=
  match findReg addr with
  | some (r, hi) => s.setRg addr (BitVec.ofNat 32 (clampFields (if hi then [] else r.clamp) ((v &&& wordOf hi r.rws).toNat)))
  | none => s

/-- The staged register writes of a page that a commit instant releases: those that an `OUT` write meets are
dropped with SHADOW_LOST (R44, R45). A write that reached the page exactly at the cutoff is among them (assumption log
178). The offsets released are returned. -/
def State.releasePage (s : State) (pg : Nat) (tk : Time) (outOffs : List Nat) (mine : Staged → Bool) : State × List Nat :=
  if s.bit (R.PG_SHADOW pg) 0 then (s, []) else
  let due := (s.page pg).staged.filter (fun w => mine w && decide (w.from_ + ns 80 ≤ tk))
  let clash := due.any (fun w => outOffs.contains w.off)
  let rel := due.filter (fun w => !outOffs.contains w.off)
  let s1 := s.setPage pg (fun p => { p with staged := p.staged.filter (fun w => !(mine w && decide (w.from_ + ns 80 ≤ tk))) })
  let s2 := if clash then s1.putBit (R.PG_STAT pg) 4 true else s1
  (rel.foldl (fun (s : State) (w : Staged) => s.releaseReg (pg + w.off) w.val) s2, rel.map (·.off))

/-- The words of a complete commit that are released, both words of a 64-bit target or neither, and the word that was
staged alone (R263). -/
def pairedWords (st : List (Nat × Word)) (lo : Nat) : List (Nat × Word) × Option Nat :=
  let has (w : Nat) : Bool := st.any (fun x => x.1 == w)
  if has lo != has (lo + 1) then (st.filter (fun x => x.1 != lo && x.1 != lo + 1), some (if has lo then lo else lo + 1))
  else (st, none)

/-- A level commits at `tk`: complete, or a held repeat (R265 to R268). The level-0 words released are returned. -/
def State.commitLevel (s : State) (a l : Nat) (tk : Time) : State × List (Nat × Word) :=
  let p := s.lvl a l
  let clear (s : State) : State := s.setLvl a l (fun p => { p with
    stage := p.stage2, stage2 := [], posted := p.posted.filter (fun x => decide (tk < x.1)), overrun := false })
  if s.parkOn a then (clear s, []) else
  if p.stage.any (fun x => x.1 == s.closeWord a l) then
    let pr := pairedWords p.stage (if l = 0 then 10 else 0)
    let s0 := match pr.2 with | some w => s.dropWrite a l 2 (l + w * 2 ^ 2) tk tk 2 | none => s
    let s1 := pr.1.foldl (fun (s : State) (x : Nat × Word) => s.hopNode 2 (a * 2 ^ 8 + l * 2 ^ 6 + x.1) x.2 tk) s0
    let s2 := (clear s1).setLvl a l (fun p => { p with miss := 0, held := false })
    if l = 0 then ((s2.putBit (R.SLUICE.AX_STAT a) 8 false).putFld (R.SLUICE.AX_STAT a) 7 0 0, pr.1)
    else
      let s3 := if pr.1 = [] then s2 else
        s2.setLvl a l (fun p => { p with out := (tget p.out.1 pr.1 0, tget p.out.2 pr.1 1) })
      (s3, [])
  else
    let n := p.miss + 1
    let s1 := (clear s).setLvl a l (fun p => { p with miss := n, held := true })
    let s2 := (s1.count (R.SLUICE.AX_MISS_CNT a) (8 * l + 7) (8 * l) 1).slAxPost a 0x30 tk
      (l + b2n p.overrun * 2 ^ 2 + min n 255 * 2 ^ 8) 1
    let esc (s : State) (lv : Nat) : State :=
      (s.report 0x18 a (2 ^ a) false lv).slAxPost a 0x31 tk (l + lv * 2 ^ 2) 2
    let s3 := if n = 2 then esc s2 (s2.missLevel a) else s2
    let s4 := if n = s3.missMax a ∧ s3.missLevel a < 4 then esc s3 4 else s3
    let s5 := s4.hopHeld a tk
    if l = 0 then ((s5.putBit (R.SLUICE.AX_STAT a) 8 true).putFld (R.SLUICE.AX_STAT a) 7 0 (min n 255), [])
    else (s5, [])

/-- The PARK value written last before the cutoff takes effect: the miss counts return to 0, and what is staged is discarded
at every level (R261). -/
def State.parkApply (s : State) (a : Nat) (tk : Time) : State :=
  match ((s.axs a).parkPend.filter (fun x => decide (x.2 + ns 80 < tk))).getLast? with
  | some (v, _) =>
    let s0 := s.setAx a (fun x => { x with parkPend := x.parkPend.filter (fun y => !decide (y.2 + ns 80 < tk)) })
    if v = s0.parkOn a then s0 else
    let s1 := s0.setAx a (fun x => { x with park := v, parked := 0, lv := x.lv.map (fun p =>
      { p with miss := 0, stage := if v then [] else p.stage, stage2 := if v then [] else p.stage2 }) })
    s1.putFld (R.SLUICE.AX_STAT a) 7 0 0
  | none => s

/-- A field-output duty released by an axis (R263, R387). -/
def State.releaseDuties (s : State) (a : Nat) (ws : List (Nat × Word)) : State × List Nat :=
  ws.foldl (fun (r : State × List Nat) (x : Nat × Word) =>
    if 24 ≤ x.1 ∧ x.1 ≤ 27 then
      match (r.1.foOfAxis a)[x.1 - 24]? with
      | some j => (r.1.foDuty j x.2, foDutyOff j :: r.2)
      | none => r
    else r) (s, [])

/-- The words released to the slot's registers, the offsets returned; an injection drops `CMP[0]` (R263). -/
def State.releaseSlot (s : State) (n : Nat) (tk : Time) (ws : List (Nat × Word)) : State × List Nat :=
  let cmp0 := R.PWM.CMP 0 0 - R.PWM.base 0
  let old := s.rg (R.PWM.CMP n 0)
  let o := ws.foldl (fun (r : State × List Nat) (x : Nat × Word) =>
    match pwmTarget x.1 with
    | some off => (r.1.releaseReg (R.PWM.base n + off) x.2, off :: r.2)
    | none => r) (s, [])
  let r := o.1.releasePage (R.PWM.base n) tk o.2 (fun _ => true)
  let offs := o.2 ++ r.2
  if r.1.bit (R.PG_ERRINJ (R.PWM.base n)) 17 ∧ offs.contains cmp0 then
    ((r.1.setRg (R.PWM.CMP n 0) old).putBit (R.PG_ERRINJ (R.PWM.base n)) 17 false, offs.filter (· ≠ cmp0))
  else (r.1, offs)

/-- A released period change or re-anchoring keeps t_m an inner commit instant of a moved axis, or ends the
migration (R275). -/
def State.migGrid (s : State) (a : Nat) (next : Time) : State :=
  if !s.migMoves a || !s.migOpen then s else
  let s1 := s.setAx a (fun x => { x with next := some next })
  if s1.levelFrom a 1 s.mig.tm = some s.mig.tm then s else s.migFail 0x14

/-- The switch of a moved axis at t_m: epoch, core, miss counts; what the source staged for a commit after t_m is stale
(R276, R277, R278, assumption log 192). -/
def State.migMove (s : State) (a : Nat) (tk : Time) : State :=
  let m := s.mig
  let e := (s.epochOf a + 1) % 256
  let s1 := ({ s with mig := { m with left := m.left - 2 ^ a } }).putFld (R.SLUICE.AX_PLACE a) 23 16 e
  let s2 := (s1.putFld (R.SLUICE.AX_PLACE a) 4 0 m.dst).setAx a (fun x =>
    { x with lv := x.lv.map (fun p => { p with
      miss := 0, stage := [], stage2 := [], frames := p.frames.map (fun f => { f with old := true }) }) })
  let s3 := (s2.putFld (R.SLUICE.AX_STAT a) 7 0 0).slAxPost a 0x35 tk (e + m.dst * 2 ^ 8 + m.src * 2 ^ 16) 0
  let s4 := s3.setCr m.src (fun k => { k with gone := k.gone ||| 2 ^ a })
  match (s4.cr m.src).waitFor with
  | some (b, _) => if b = a ∧ s4.coreState m.src = 2 then s4.stopNow m.src else s4
  | none => s4

/-- The switch at the commit instant t_m of a moved axis (R276). -/
def State.migSwitch (s : State) (a : Nat) (tk : Time) : State :=
  if s.migMoves a && s.mig.cut && bitN s.mig.left a && s.mig.tm == tk then s.migMove a tk else s

/-- The commit and sample instant `tk` of an axis: release, outputs, frame, in this order (R18). -/
def State.commitAxis (s0 : State) (a : Nat) (tk : Time) : State :=
  let s := ((s0.profileTick a).cutoff a).parkApply a tk
  let due := (List.range 3).filter (fun l => s.levelDue a l)
  let r := due.foldl (fun (r : State × List (Nat × Word)) l =>
    let x := r.1.commitLevel a l tk
    (x.1, r.2 ++ x.2)) (s, [])
  let s1 := r.1.setAx a (fun x => if x.park then { x with parked := x.parked ||| due.foldl (fun m l => m + 2 ^ l) 0 } else x)
  let d := s1.releaseDuties a r.2
  let s2 := (d.1.releasePage R.FIELD.base tk d.2 (fun w => (d.1.foOfAxis a).any (fun j => foDutyOff j == w.off))).1
  let s3 := (s2.releasePage (R.AXIS.base a) tk [] (fun _ => true)).1
  let p := match s3.slotOf a with
    | some n =>
      let q := s3.releaseSlot n tk r.2
      let q1 := q.1.pwmCommit n tk q.2
      (q1, q1.nextAfter n tk)
    | none => (s3, tk + ns (s3.rg (R.SLUICE.AX_TPERIOD a)).toNat)
  ((p.1.migGrid a p.2).migSwitch a tk).freeze a tk p.2

/-- The update instant of a slot that no running axis owns (R44, R145). -/
def State.commitSlot (s : State) (n : Nat) : State :=
  match (s.pw n).next with
  | some tk =>
    if s.now < tk ∨ (s.ownerOf n).isSome then s else
    let r := s.releaseSlot n tk []
    let s1 := r.1.pwmCommit n tk r.2
    s1.setPw n (fun p => { p with next := some (s1.nextAfter n tk) })
  | none => s

/-- COMMIT_INSTANT: of an axis (0 to 63), or of slot n − 64 without an owner; it acts when the instant has come.
A time-base fault stops every release (R18, R523). -/
def execCommitInstant (t : Time) (n : Fin 112) (s : State) : Host.Outcome State Fault Refusal :=
  let s := s.tick t
  .next (if s.dev.tbFault.isSome then s
    else if n.val < 64 then
      (match (s.axs n).next with
       | some tk => if tk ≤ s.now ∧ s.axRun n ∧ (s.axs n).prev.isSome then s.commitAxis n tk else s
       | none => s)
    else s.commitSlot (n.val - 64))

/-- AXIS_FIRST_SAMPLE: the first inner sample instant after RUN or a resumption: frames, and no commit of the axis; a slot
that started before it is armed by it (R145, R259, R262). -/
def State.firstSample (s0 : State) (a : Nat) : State :=
  match (s0.axs a).next with
  | some tk =>
    if s0.now < tk ∨ !s0.axRun a ∨ (s0.axs a).prev.isSome ∨ s0.dev.tbFault.isSome then s0 else
    let s := s0.profileTick a
    let q := match s.slotOf a with
      | some n =>
        let s1 := if s.bit (R.PWM.STAT n) 2 ∨ s.rg64 (R.PWM.ZERO_REF n) = tk then s else s.pwmCommit n tk []
        (s1, s1.nextAfter n tk)
      | none => (s, tk + ns (s.rg (R.SLUICE.AX_TPERIOD a)).toNat)
    q.1.freeze a tk q.2
  | none => s0
/-- AXIS_FIRST_SAMPLE (R259). -/
def execAxisFirstSample (t : Time) (a : Fin 64) (s : State) : Host.Outcome State Fault Refusal := .next ((s.tick t).firstSample a)

/-! ### RUN and PARK (R257 to R262) -/

/-- The period of level `l` of an axis in force, in ns (R258). -/
def State.periodNs (s : State) (a l : Nat) : Rat :=
  match s.slotOf a with
  | some n =>
    let p := if s.slotRun n then (s.pw n).per else (s.periodUsed n).1
    (s.ratio a l * p : Nat) / ((if s.updMode n = 2 then 32 else 16 : Nat) : Rat)
  | none => ((s.ratio a l * (s.rg (R.SLUICE.AX_TPERIOD a)).toNat : Nat) : Rat)

/-- The sum of f(axis, level) / T_l over the levels of the axes listed. -/
def State.rateSum (s : State) (axes : List Nat) (f : Nat → Nat → Nat) : Rat :=
  axes.foldl (fun (x : Rat) a => (List.range (s.levels a)).foldl (fun (x : Rat) l => x + ((f a l : Nat) : Rat) / s.periodNs a l) x) 0

/-- The running axes on a core, with `a` besides. -/
def State.axesWith (s : State) (a c : Nat) : List Nat :=
  (List.range 64).filter (fun b => b == a || (s.axRun b && s.coreOfAx b == c))

/-- The state region of an axis: offset and length in units of 64 words. -/
def State.regionOf (s : State) (a : Nat) : Nat × Nat :=
  (s.fld (R.SLUICE.AX_PLACE a) 11 8, s.fld (R.SLUICE.AX_PLACE a) 15 12 + 1)

/-- The lowest reason that refuses RUN = 1, 0 for none (R257, R258). -/
def State.runRefusal (s : State) (a : Nat) : Nat :=
  let c := s.coreOfAx a
  let rg := s.regionOf a
  let others := (List.range 64).filter (fun b => b != a && s.axRun b)
  let overlap := others.any (fun b => s.coreOfAx b == c &&
    decide (rg.1 < (s.regionOf b).1 + (s.regionOf b).2) && decide ((s.regionOf b).1 < rg.1 + rg.2))
  let tp := (s.rg (R.SLUICE.AX_TPERIOD a)).toNat
  let lv := List.range (s.levels a)
  if s.levels a = 0 then 1
  else if 27 < c ∨ s.bit R.SLUICE.SPARE c ∨ !s.en (corePage c) ∨ s.coreState c = 5 then 2
  else if 16 < rg.1 + rg.2 ∨ overlap then 3
  else if (match s.slotOf a with | some n => others.any (fun b => s.slotOf b == some n) | none => false) then 4
  else if (s.slotOf a).isNone ∧ (tp < 2000 ∨ 268435455 < tp) then 5
  else if lv.any (fun l => !s.wordMapped a l (s.closeWord a l) || s.resOf a l == 0 || decide (64 < s.resOf a l)) then 6
  else if (12 : Rat) / 10 < s.rateSum (s.axesWith a c) (fun b l => 64 * s.budgetOf b l) then 7
  else if (6 : Rat) / 10 < s.rateSum (s.axesWith a c) (fun b l => 32 + s.resOf b l) ∨
      (6 : Rat) / 10 < s.rateSum (a :: others) (fun b l => 32 + s.resOf b l) then 8
  else if !s.coreQuiet c then 9
  else if s.migMoves a ∨ (s.mig.waiting ∧ (s.mig.dst = c ∨ s.mig.src = c)) then 10
  else 0

/-- The first inner sample instant of an axis at or after `t` (R12, R144, R256, R259); none while its slot does
not count. -/
def State.firstInstant (s : State) (a : Nat) (t : Time) : Option Time :=
  match s.slotOf a with
  | some n => if s.slotRun n then some (s.nextUpd n (t - 1)) else none
  | none =>
    let an : Int := s.rg64 (R.SLUICE.AX_TANCHOR a)
    let p : Int := nz (ns (s.rg (R.SLUICE.AX_TPERIOD a)).toNat)
    some ((t : Int) + (an - t) % p).toNat

/-- A write of RUN is refused (R257). -/
def State.runRefused (s : State) (a reason : Nat) : State :=
  (s.cfgRefused R.SLUICE.base).setRg R.SLUICE.CHECK (BitVec.ofNat 32 (reason + a * 2 ^ 8))

/-- RUN = 1 is accepted (R259). -/
def State.runSet (s : State) (a : Nat) : State :=
  let t := s.now + ns 100
  let s1 := s.putBit (R.SLUICE.AX_CTRL a) 0 true
  let s2 := s1.setAx a (fun x => { x with next := s1.firstInstant a t, prev := none, idx := 0, cut := false, start := t, lv := Vector.replicate 3 {} })
  let s3 := s2.setAw a (fun w => { w with initDue := true })
  match s3.slotOf a with
  | some n => (s3.setPw n (fun p => { p with next := none })).cmpMuteSync n
  | none => s3

/-- The axis stops freezing and committing: what was staged is discarded, undelivered frames are gone, those not yet ready
with their words as they stand for the Hopper (R260, R262, R362). -/
def State.axisQuiet (s : State) (a : Nat) : State :=
  let s0 := (List.range 3).foldl (fun (s : State) l =>
    ((s.lvl a l).frames.filter (fun f => !f.isReady)).reverse.foldl (fun (s : State) f =>
      s.frameNodes a l f ((List.range 15).map (· + 2))) s) s
  (s0.setAx a (fun x => { x with next := none, prev := none, idx := 0, cut := false, lv := x.lv.map (fun p => { p with stage := [], stage2 := [], frames := [], miss := 0, posted := [], overrun := false }) })).stallGap a

/-- RUN = 0 is accepted (R260). -/
def State.runClear (s : State) (a : Nat) : State :=
  let s1 := match s.groupOf a with | some g => s.grBreak g a (s.eventTick ((s.members g).erase a)) | none => s
  let s2 := ((s1.linkSlaveStops a).ticksEnd a).axisQuiet a
  let s3 := ((s2.putBit (R.SLUICE.AX_CTRL a) 0 false).putBit (R.SLUICE.AX_STAT a) 10 false).putFld (R.SLUICE.AX_STAT a) 8 0 0
  match s3.slotOf a with
  | some n => (if s3.slotRun n then s3.setPw n (fun p => { p with next := some (s3.nextUpd n s3.now) }) else s3).cmpMuteSync n
  | none => s3

/-- A soft reset of the SLUICE page: no axis runs and no migration waits (R38, R260); slots keep their own update instants. -/
def State.sluiceReset (s : State) : State :=
  let s1 := (List.range 64).foldl (fun (s : State) a =>
    if (s.axs a).next.isSome then
      let s1 := match s.groupOf a with | some g => s.grBreak g a (ceilEdge s.now) | none => s
      ((s1.linkSlaveStops a).ticksEnd a).axisQuiet a
    else s.axisQuiet a) { s with mig := {} }
  let s2 := { s1 with ax := s1.ax.map (fun _ => {}) }
  (List.range 48).foldl (fun (s : State) n =>
    if s.slotRun n && (s.pw n).next.isNone then (s.setPw n (fun p => { p with next := some (s.nextUpd n s.now) })).cmpMuteSync n
    else s) s2

/-- RUN = 0 is permitted (R257). -/
def State.runClearRefusal (s : State) (a : Nat) : Nat :=
  let all := (List.range (s.levels a)).all (fun l => bitN (s.axs a).parked l)
  if !s.coreQuiet (s.coreOfAx a) && !(s.parkOn a && all) then 9
  else if s.migMoves a || (s.mig.waiting && s.mig.dst == s.coreOfAx a) then 10
  else 0

/-- A write of `AX[a].CTRL`: a change of RUN, and PARK (R257, R258, R261). -/
def State.writeRun (s : State) (a v : Nat) : State :=
  let on := bitN v 0
  let reason := if on = s.axRun a then 0 else if on then s.runRefusal a else s.runClearRefusal a
  if reason ≠ 0 then s.runRefused a reason else
  let s1 := (s.putBit (R.SLUICE.AX_CTRL a) 1 (bitN v 1)).setAx a (fun x =>
    if bitN v 1 = s.bit (R.SLUICE.AX_CTRL a) 1 then x else { x with parkPend := x.parkPend ++ [(bitN v 1, s.now)] })
  if on = s.axRun a then s1 else if on then s1.runSet a else s1.runClear a

/-- SLOT_START: the counter starts at G, and an owning axis takes its first instant from it (R144, R259, R262). -/
def State.slotBegin (s : State) (n : Nat) : State :=
  match (s.pw n).start with
  | some g =>
    if s.now < g then s else
    let s1 := s.slotStart n g
    (match s1.ownerOf n with
     | some a =>
       let lo := max g (s1.axs a).start
       let first := if s1.updMode n ≠ 1 ∧ lo = g then g else s1.nextUpd n (lo - 1)
       let s2 := s1.setPw n (fun p => { p with next := none })
       (s2.setAx a (fun x => { x with next := some first, prev := none, idx := 0, cut := false })).putFld (R.SLUICE.AX_STAT a) 10 10 0 |>.putFld (R.SLUICE.AX_STAT a) 7 0 0
     | none => s1)
  | none => s
/-- SLOT_START (R144, R145, R262). -/
def execSlotStart (t : Time) (n : Fin 48) (s : State) : Host.Outcome State Fault Refusal := .next ((s.tick t).slotBegin n)

/-- EN written 0: the counter stops, and an owning axis is suspended (R146, R262, R275). -/
def State.slotOff (s : State) (n : Nat) : State :=
  let s1 := (s.putBit (R.PG_CTRL (R.PWM.base n)) 0 false).slotStop n
  match s1.ownerOf n with
  | some a =>
    let s2 := (s1.axisQuiet a).putBit (R.SLUICE.AX_STAT a) 10 true
    if s2.migMoves a && s2.migOpen then s2.migFail 0x14 else s2
  | none => s1
/-- SLOT_DISABLE (R146, R262). -/
def execSlotDisable (t : Time) (_m : Master) (n : Fin 48) (s : State) : Host.Outcome State Fault Refusal :=
  .next ((s.tick t).onPage (R.PWM.base n) (fun s => if s.en (R.PWM.base n) then s.slotOff n else s))

/-! ### Migration (R272 to R280) -/

/-- SPARE_READY (R279). -/
def State.spareReady (s : State) (c : Nat) : Bool := s.bit R.SLUICE.SPARE c && !s.migTargetBad c

/-- The reason that refuses a migration, 0 for none (R273). -/
def State.migRefusal (s : State) (src dst : Nat) : Nat :=
  if s.mig.waiting then 1
  else if 27 < src ∨ 27 < dst ∨ src = dst then 2
  else if !s.hostsAxes src then 3
  else if s.migTargetBad dst then 4
  else if s.imageOf src ≠ s.imageOf dst then 5
  else 0

/-- The common instant of a migration: none ends it, one sets it waiting (R273, R274). -/
def State.migSet (s : State) (src dst : Nat) (axes : List Nat) (m : MigSt) : Option Time → State
  | none => ({ s with mig := m }).migFail 0x10
  | some tm =>
    let s1 := ({ s with mig := { m with tm := tm } }).setRg64 R.SLUICE.MIG_TM tm
    let s2 := (s1.putFld R.SLUICE.MIG_STAT 2 0 1).putFld R.SLUICE.MIG_STAT 23 16 0
    let s3 := axes.foldl (fun (s : State) a => s.putBit (R.SLUICE.AX_STAT a) 9 true) s2
    s3.slCorePost src 0x12 s.now (dst + tm / 16 % 2 ^ 32 * 2 ^ 16) 0
/-- A migration is requested: refused, ended at once, or waiting for t_m (R273, R274). -/
def State.migRequest (s : State) (src dst at_ : Nat) (auto : Bool) : State :=
  let reason := s.migRefusal src dst
  if reason = 1 then
    ((s.putFld R.SLUICE.MIG_STAT 2 0 3).putFld R.SLUICE.MIG_STAT 23 16 1).slCorePost src 0x14 s.now (dst + 2 ^ 8) 32
  else
    let s1 := ((s.putFld R.SLUICE.MIG_STAT 8 4 src).putFld R.SLUICE.MIG_STAT 13 9 dst).putBit R.SLUICE.MIG_STAT 3 auto
    if reason ≠ 0 then
      ((s1.putFld R.SLUICE.MIG_STAT 2 0 3).putFld R.SLUICE.MIG_STAT 23 16 reason).slCorePost src 0x14 s.now (dst + reason * 2 ^ 8) 32
    else
      let axes := (List.range 64).filter (fun a => s.axRun a && s.coreOfAx a == src)
      let mask := axes.foldl (fun m a => m + 2 ^ a) 0
      let from_ := max (if at_ = 0 then s.now else at_) (s.now + ns 280)
      let lo := axes.foldl (fun m a => match (s.axs a).next, (s.axs a).prev with
        | some t, none => max m (t + 1)
        | _, _ => m) from_
      let m0 : MigSt := { s.mig with src := src, dst := dst, image := s.imageOf dst, axes := mask, left := mask, cut := false, waiting := true }
      s1.migSet src dst axes m0 (s.common (axes.map (fun a => (a, 1))) (max at_ s.now + sec 1) searchFuel lo)

/-- Automatic replacement is requested for a faulted core (R280). -/
def State.autoRequest (s : State) (c : Nat) (stamp : Time) : State :=
  if !s.hostsAxes c then s else
  match (List.range 28).find? (fun d => d != c && s.spareReady d && s.imageOf d == s.imageOf c) with
  | none => s.slCorePost c 0x15 stamp 0 64
  | some d => (s.slCorePost c 0x16 s.now d 0).migRequest c d stamp true

/-- A replacement is requested; a migration that waits from another source is aborted for it (R280). -/
def State.autoPreempt (s : State) (c : Nat) (stamp : Time) : State :=
  if s.mig.waiting && s.hostsAxes c then (s.migFail 0x13).autoRequest c stamp else s.autoRequest c stamp

/-- A Stone core that hosts axes has entered FAULTED; the target of a migration hosts the moved axes from its cutoff on
(R276, R280). -/
def State.autoMig (s : State) (c : Nat) : State :=
  let late := s.mig.waiting && !s.migOpen
  if !(isStone c && s.bit R.SLUICE.CTRL 0 && (s.hostsAxes c || (late && s.mig.dst == c)) && s.coreState c == 4) then s
  else if s.mig.waiting && s.mig.src == c then s
  else if late then { s with mig := { s.mig with queued := s.mig.queued ++ [(c, s.now)] } }
  else s.autoPreempt c s.now

/-- A FAULT of a core with what the Sluice does about it (R206, R208, R280). -/
def State.coreFault (s : State) (c cause pc : Nat) (addr : Option Nat) : State := (s.faultAt c cause pc addr).autoMig c

/-- A write of `MIG_CMD` (R273, R275). -/
def State.writeMigCmd (s : State) (v : Nat) : State :=
  let s1 := s.setRg R.SLUICE.MIG_CMD (BitVec.ofNat 32 (bitsN v 4 0 + bitsN v 12 8 * 2 ^ 8))
  let s2 := if bitN v 16 then s1.migRequest (bitsN v 4 0) (bitsN v 12 8) (s1.rg64 R.SLUICE.MIG_AT) false else s1
  if bitN v 17 && s2.migOpen then s2.migFail 0x12 else s2
/-- MIG_START: a write of `MIG_CMD` with GO = 1 (R273, R274). -/
def execMigStart (t : Time) (_m : Master) (src dst : Fin 32) (s : State) : Host.Outcome State Fault Refusal :=
  .next ((s.tick t).onPage R.SLUICE.base (fun s => s.writeMigCmd (src.val + dst.val * 2 ^ 8 + 2 ^ 16)))
/-- MIGRATION_ABORT: a write of `MIG_CMD` with ABORT = 1, SRC and DST as they stand (R275). -/
def execMigrationAbort (t : Time) (_m : Master) (s : State) : Host.Outcome State Fault Refusal :=
  .next ((s.tick t).onPage R.SLUICE.base (fun s => s.writeMigCmd ((s.rg R.SLUICE.MIG_CMD).toNat % 2 ^ 13 + 2 ^ 17)))

/-- The state mover copies word `i` of the state window, word `k` of its region: a single-bit error is corrected at the
source, an armed injection acts on the target, and a double-bit error goes with the word (R215, R222, R276, assumption
log 171). -/
def State.moveWord (s : State) (src dst i k : Nat) : State :=
  let from_ := stateAddr src i
  let e := s.eccOf from_
  let s1 := if e = 1 then s.eccCorr src from_ 1 (0x4000 + k) else s
  let s2 := s1.eccWrite (corePage dst) (stateAddr dst i) (s1.ldw from_)
  if 2 ≤ e then { s2 with ecc := tset 0 s2.ecc (stateAddr dst i) e } else s2

/-- The cutoff of t_m: the regions are copied as they stand, and the target starts (R276, R277). -/
def State.migCutoff (s : State) : State :=
  let m := s.mig
  if !m.waiting ∨ m.cut ∨ s.now < cutoffOf m.tm then s else
  let s1 := (List.range 64).foldl (fun (s : State) a =>
    if !bitN m.axes a then s else
    let rg := s.regionOf a
    (List.range (64 * rg.2)).foldl (fun (s : State) i => s.moveWord m.src m.dst (64 * rg.1 + i) i) s) s
  let s2 := { s1 with mig := { m with cut := true } }
  s2.startCore m.dst (s2.fld (R.CORE.ENTRY m.dst) 19 0)
/-- MIGRATION_CUTOFF (R276). -/
def execMigrationCutoff (t : Time) (s : State) : Host.Outcome State Fault Refusal := .next (s.tick t).migCutoff

/-- Every moved axis has switched at t_m, a suspended one without a commit: the migration is done, and queued requests are
made, each of which pre-empts one that waits (R262, R275, R276, R280). -/
def State.migFinish (s00 : State) : State :=
  if !s00.mig.waiting ∨ !s00.mig.cut ∨ s00.now < s00.mig.tm then s00 else
  let s := (List.range 64).foldl (fun (s : State) a =>
    if bitN s.mig.left a && (s.axs a).next.isNone then s.migMove a s.mig.tm else s) s00
  let m := s.mig
  if m.left ≠ 0 then s else
  let s1 := ({ s with mig := { m with waiting := false, queued := [] } }).putFld R.SLUICE.MIG_STAT 2 0 2
  let s2 := (List.range 64).foldl (fun (s : State) a => if bitN m.axes a then s.putBit (R.SLUICE.AX_STAT a) 9 false else s) s1
  let s3 := s2.slCorePost m.src 0x13 m.tm m.dst 16
  m.queued.foldl (fun (s : State) (q : Nat × Time) => s.autoPreempt q.1 q.2) s3
/-- MIG_DONE (R276). -/
def execMigDone (t : Time) (s : State) : Host.Outcome State Fault Refusal := .next (s.tick t).migFinish

/-! ### The budget (R270) -/

/-- The run of a core from its latest `WAITT` return ends at its next `WAITT` (R220, R270). -/
def State.budgetEnd (s : State) (c : Nat) : State :=
  match (s.cr c).cycOf with
  | none => s
  | some (a, l) =>
    let n := (s.cr c).cyc
    let s1 := s.putFld (R.CORE.RUN_MAX c) 23 0 (max (s.fld (R.CORE.RUN_MAX c) 23 0) (min n 0xFFFFFF))
    let b := s.budgetOf a l
    if b ≠ 0 ∧ 64 * b < n ∧ !s.parkOn a ∧ s.axRun a ∧ !s.suspended a then
      s1.slCorePost c 0x11 s.now (a + l * 2 ^ 6 + min n 0xFFFFFF * 2 ^ 8) 128
    else s1

/-! ### Registers -/

/-- Writes to the SLUICE page with a meaning of their own (R257, R273). -/
def State.sluiceHook (s : State) (off v : Nat) : Option State :=
  if off = 0x50 then some (s.writeMigCmd v)
  else if 0x100 ≤ off ∧ off < 0x1e0 ∧ off % 8 = 0 then some ((s.setRg (R.SLUICE.base + off) (BitVec.ofNat 32 (v % 256))).migWatch)
  else if 0x300 ≤ off ∧ off < 0xf00 then
    let a := (off - 0x300) / 0x30
    let o := (off - 0x300) % 0x30
    (if (o < 0x28) ∧ s.axRun a then some (s.cfgRefused R.SLUICE.base)
     else none)
  else none

/-- `SLUICE.CORE[c].STAT` (R258, R279, R283). -/
def State.coreStatWord (s : State) (c : Nat) : Word :=
  let n := ((List.range 64).filter (fun a => s.axRun a && s.coreOfAx a == c)).length
  let load : Rat := s.rateSum ((List.range 64).filter (fun a => s.axRun a && s.coreOfAx a == c)) (fun b l => 64 * s.budgetOf b l)
  let u := min 0xFFFF (load * 65536 * 10 / 12).floor.toNat
  BitVec.ofNat 32 (b2n (n == 0) + b2n (s.spareReady c) * 2 + min n 31 * 2 ^ 2 + u * 2 ^ 16)

/-- Registers of the SLUICE page that are read live. -/
def State.sluiceLive (s : State) (off : Nat) : Option Word :=
  if 0x100 ≤ off ∧ off < 0x1e0 ∧ off % 8 = 4 then some (s.coreStatWord ((off - 0x100) / 8)) else none

end Sys2Proof.Machine
end

