-- ==== Sys2Proof/Machine/Island.lean ====
section
/-! DEFINITION. The Brakewheel: the ladder, levels, STO channels, slot gates, safety ticks and island faults
(R449 to R471). -/

namespace Sys2Proof.Machine

/-- The Weir source of the island (R487). -/
def srcBw : Nat := 0x148
/-- The state with the Brakewheel changed. -/
def State.setBw (s : State) (f : BwSt → BwSt) : State := { s with bw := f s.bw }
/-- An event of the island, with its page interrupt bits. -/
def State.bwPost (s : State) (code payload irq : Nat) : State :=
  let s1 := s.postNow srcBw code payload
  if irq = 0 then s1 else s1.irq R.BRAKE.base irq

/-! ### Reports, levels and escalation (R465 to R470) -/

/-- The kind of source unit of a code (R465, R470). -/
def unitKind (code : Nat) : Nat :=
  if code = 0x10 ∨ code = 0x0D then 1
  else if code = 0x11 then 2
  else if 0x12 ≤ code ∧ code ≤ 0x15 then 3
  else if code = 0x18 ∨ code = 0x19 then 4
  else if 0x28 ≤ code ∧ code ≤ 0x2A then 5
  else if code = 0x20 then 6
  else if 0x21 ≤ code ∧ code ≤ 0x23 then 7
  else if code = 0x0B then 8
  else 0x100 + (if code ≤ 6 ∨ code = 0x0C then 0 else code)
/-- Two reports come from the same source unit. -/
def sameUnit (c u c' u' : Nat) : Bool := unitKind c == unitKind c' && u == u'
/-- The range of levels of a code; equal ends are fixed (R470). -/
def levelRange (code : Nat) : Nat × Nat :=
  if code ∈ [1, 2, 3, 4, 5, 6, 8, 9] then (4, 4)
  else if code ∈ [0x0A, 0x0B, 0x0D] then (1, 4)
  else if code = 0x0C then (1, 3)
  else if code = 0x11 ∨ code = 0x12 then (2, 5)
  else if code ∈ [0x20, 0x21, 0x22] then (0, 4)
  else if code = 0x23 then (2, 4)
  else if code = 0x24 then (0, 3)
  else if code = 0x28 ∨ code = 0x29 then (1, 5)
  else if code = 0x2A then (3, 3)
  else (0, 5)
/-- The nibble of `FLEVEL` of a code. -/
def State.flevel (s : State) (code : Nat) : Nat := s.fld (R.BRAKE.FLEVEL (code / 8)) (4 * (code % 8) + 3) (4 * (code % 8))
/-- `FLEVEL` as a write leaves it: fixed codes keep their nibble, levels stay in range (R470, R488). -/
def flevelWritten (i : Nat) (old v : Word) : Word :=
  (List.range 8).foldl (fun (w : Word) k =>
    let r := levelRange (8 * i + k)
    if r.1 = r.2 then wput w (4 * k + 3) (4 * k) (wfld old (4 * k + 3) (4 * k))
    else if r.1 = 0 ∨ wfld v (4 * k + 2) (4 * k) ≠ 0 ∨ 8 * i + k < 0x28 then
      wput w (4 * k + 2) (4 * k) (clampN r.1 r.2 (wfld v (4 * k + 2) (4 * k)))
    else w) v
/-- The level of a report: the carried level, at least `FLEVEL`, for codes 0x10, 0x18 and 0x19; the level of the
unit where `FLEVEL` sets none; otherwise `FLEVEL` (R462, R470). -/
def State.reportLevel (s : State) (code carried : Nat) : Nat :=
  let f := s.flevel code % 8
  min 5 (if code ∈ [0x10, 0x18, 0x19] then max f carried
    else if code ∈ [0x13, 0x14, 0x15] then (if f = 0 then carried else f)
    else if code ∈ [0x28, 0x29] then (if f = 0 then max 1 carried else f) else f)

/-- Whether two scopes meet (R468). -/
def scopeMeets (a : Nat) (ad : Bool) (b : Nat) (bd : Bool) : Bool := ad || bd || (a &&& b) != 0
/-- The meet of two scopes. -/
def scopeMeet (a : Nat) (ad : Bool) (b : Nat) (bd : Bool) : Nat × Bool :=
  if ad then (b, bd) else if bd then (a, ad) else (a &&& b, false)
/-- The lowest axis of a scope, 0 for the device. -/
def lowAxis (axes : Nat) (dev : Bool) : Nat := if dev then 0 else ((List.range 64).find? (fun a => axes.testBit a)).getD 0
/-- The cap of a level for an axis (R468). -/
def State.axisCap (s : State) (a : Nat) : Nat :=
  match s.slotOf a with
  | some n => if s.ascPossible n then 5 else 4
  | none => 4
/-- The cap of an escalation: L5, L4 with a fault of the time base or PLL_A, or the caps of its axes (R468, R470). -/
def State.escCap (s : State) (axes : Nat) (dev : Bool) (parts : List (Nat × Nat)) : Nat :=
  if parts.any (fun p => p.1 == 8 || p.1 == 9) then 4
  else if dev then 5
  else (List.range 64).foldl (fun m a => if axes.testBit a then max m (s.axisCap a) else m) 4

/-- The recovery time (R468). -/
def State.bwRecov (s : State) : Time := ms (nz (s.fld R.BRAKE.CTRL 23 16))

/-- A report at L1 or above meets the open windows: second and third faults, and its own window (R468). -/
def State.secondFault (s : State) (r : Report) (lvl : Nat) (dev : Bool) : State :=
  let me := (r.code, r.unit)
  let own := r.code == 0x10 && decide (((s.ps r.unit).latches.foldl (fun m l => max m l.level) 0) < (s.ps r.unit).esc)
  let hits := s.bw.wins.filter (fun w => decide (s.now < w.until_) && !own && !sameUnit w.code w.unit r.code r.unit &&
    scopeMeets w.axes w.dev r.axes dev)
  let until_ := s.now + s.bwRecov
  let s1 := hits.foldl (fun (s : State) (w : BwWin) =>
    let o := scopeMeet w.axes w.dev r.axes dev
    let parts := w.parts ++ [me]
    let new := min (s.escCap o.1 o.2 parts) (max w.level lvl + 1)
    (s.setBw (fun b => { b with
      escs := b.escs ++ [⟨o.1, o.2, new, parts⟩], wins := b.wins ++ [⟨until_, r.code, r.unit, o.1, o.2, new, parts⟩] })).bwPost 0x03
      (w.code + r.code * 2 ^ 8 + new * 2 ^ 16 + b2n o.2 * 2 ^ 19 + lowAxis o.1 o.2 * 2 ^ 20) 2) s
  s1.setBw (fun b => { b with wins := b.wins.filter (fun w => decide (s.now < w.until_)) ++ [⟨until_, r.code, r.unit, r.axes, dev, lvl, [me]⟩] })

/-- One report reaches the ladder (R465, R466). -/
def State.ladderOne (s : State) (r : Report) : State :=
  let is (f : BwFault) : Bool := f.code == r.code && f.unit == r.unit
  if !r.set then s.setBw (fun b => { b with faults := b.faults.map (fun f => if is f then { f with on_ := false } else f) })
  else
    let lvl := s.reportLevel r.code r.level
    let dev := r.dev || bitN (s.flevel r.code) 3
    let old := s.bw.faults.find? is
    let changed : Bool := match old with | some f => f.level != lvl | none => true
    let f : BwFault := { code := r.code, unit := r.unit, axes := r.axes, dev := dev, level := lvl,
                          pt := match old with | some f => f.pt | none => s.sess.proof }
    let s1 := s.setBw (fun b => { b with faults := b.faults.filter (fun f => !is f) ++ [f] })
    let s2 := if changed ∧ 1 ≤ lvl then
      s1.bwPost 0x01 (r.code + lvl * 2 ^ 8 + b2n dev * 2 ^ 11 + lowAxis r.axes dev * 2 ^ 12 + r.unit * 2 ^ 24) 1 else s1
    let s3 := if dev && decide (4 ≤ lvl) then (s2.setBw (fun b => { b with lastL4 := r.code })).faultRecord 5 r.code r.unit else s2
    if r.echo = false ∧ 1 ≤ lvl then s3.secondFault r lvl dev else s3

/-- The level requested for an axis in `PREQ` (R463). -/
def State.preq (s : State) (a : Nat) : Nat := s.fld (R.BRAKE.PREQ (a / 8)) (4 * (a % 8) + 2) (4 * (a % 8))
/-- The level of an axis without the island's timers, and whether an escalation gives it; the reports of slot
`excl` are left out (R466, R468). -/
def State.levelOf (s : State) (a : Nat) (excl : Option Nat) : Nat × Bool :=
  let cap := s.axisCap a
  let f := s.bw.faults.foldl (fun (m : Nat) f =>
    if (f.dev || f.axes.testBit a) && !(f.code == 0x10 && excl == some f.unit) then max m (if f.dev then min cap f.level else f.level)
    else m) (s.preq a)
  let e := s.bw.escs.foldl (fun (m : Nat) x => if x.dev || x.axes.testBit a then max m (min cap x.level) else m) 0
  (max f e, decide (f < e))
/-- The level that island timers and standstill have raised an axis to. -/
def State.raisedOf (s : State) (a : Nat) : Nat := tget 0 s.bw.raised a
/-- The device level (R466). -/
def State.devLevel (s : State) : Nat :=
  let f := s.bw.faults.foldl (fun (m : Nat) f => if f.dev then max m f.level else m) 0
  s.bw.escs.foldl (fun (m : Nat) x => if x.dev then max m x.level else m) f

/-- The level in force for an axis is shown and posted (R466, R487). -/
def State.showLevel (s : State) (a lvl : Nat) (esc : Bool) : State :=
  let old := s.axLevel a
  let s1 := s.putFld (R.BRAKE.AXLVL (a / 8)) (4 * (a % 8) + 3) (4 * (a % 8)) (lvl + 8 * b2n esc)
  if old = lvl then s1 else s1.bwPost 0x04 (a + lvl * 2 ^ 6) 0

/-- An axis without a slot: the island timers and the Windshaft stop (R466). -/
def State.slotless (s : State) (a lvl : Nat) : State :=
  let s1 := s.setBw (fun b => { b with
    degAt := if lvl = 2 then (if tget 0 b.degAt a = 0 then tput b.degAt a (some (s.now + 1)) else b.degAt) else tput b.degAt a none
    stopAt := if lvl = 3 then (if tget 0 b.stopAt a = 0 then tput b.stopAt a (some (s.now + 1)) else b.stopAt) else tput b.stopAt a none })
  if lvl = 3 ∧ tget 0 s.bw.stopAt a = 0 then s1.stopRequest a 2 else s1

/-- The island's timers of an axis that does not run, or that owns a slot, do not run (R466). -/
def State.untimed (s : State) (a : Nat) : State :=
  s.setBw (fun b => { b with degAt := tput b.degAt a none, stopAt := tput b.stopAt a none })

/-- The levels of every axis are recomputed and applied (R466). -/
def State.levelsEval (s : State) : State :=
  let s0 := s.setBw (fun b => { b with
    escs := b.escs.filter (fun e => e.parts.any (fun p => b.faults.any (fun f => f.code == p.1 && f.unit == p.2))) })
  let s1 := (List.range 64).foldl (fun (s : State) a =>
    let l := s.levelOf a none
    let s' := if l.1 < 2 ∧ s.raisedOf a ≠ 0 then s.setBw (fun b => { b with raised := tput b.raised a none }) else s
    let lv := max l.1 (s'.raisedOf a)
    let s'' := if s'.axRun a && (s'.slotOf a).isNone then s'.slotless a lv else s'.untimed a
    s''.showLevel a lv (l.2 && decide (lv = l.1))) s0
  let s2 := s1.setBw (fun b => { b with dev := s1.devLevel })
  (List.range 48).foldl (fun (s : State) n =>
    let l := match s.ownerOf n with
      | some a => max (s.levelOf a (some n)).1 (s.raisedOf a)
      | none => 0
    let w := if l < 2 then 0 else l
    if tget 0 s.bw.issued n = w then s
    else s.setBw (fun b => { b with issued := tset 0 b.issued n w, reqs := b.reqs ++ [(n, w, s.now + ns 20)] })) s2

/-! ### Channels, release and gates (R456 to R460) -/

/-- A safety cycle (R453, R488). -/
def State.cyc (s : State) : Time := us (s.fld R.BRAKE.CTRL 15 0)
/-- What a channel needs besides its bit of `STO_CMD`, `on_` saying whether it is active: at device level L5 a channel stays
active, and one that has been withdrawn stays withdrawn (R456, R466, R485, assumption log 172). -/
def State.chanOk (s : State) (on_ : Bool) : Bool :=
  (decide (s.bw.dev < 4) || (s.bw.dev == 5 && on_)) && !s.bw.island && !s.sess.proof &&
    (match s.bw.kick with | some k => decide (s.now ≤ k + 2 * s.cyc) | none => false)
/-- The gates that the Brakewheel issues (R459). -/
def State.gateMask (s : State) : Nat :=
  let rel := s.bw.chA && s.bw.chB
  maskOf 48 (fun n => rel && (match s.ownerOf n with
    | none => true
    | some a =>
      !s.sess.proof && (decide (s.axLevel a < 4) || (s.axLevel a == 5 && s.ascPossible n && !s.bit (R.PSP.STAT n) 21 &&
        s.bit (R.PSP.STAT n) 3))))
/-- The channels, the release and the device-wide hold (R456 to R458, R460). -/
def State.chanEval (s : State) : State :=
  let a := s.chanOk s.bw.chA && s.bit R.BRAKE.STO_CMD 0
  let b := s.chanOk s.bw.chB && s.bit R.BRAKE.STO_CMD 1
  let rel := a && b
  let was := s.bw.chA && s.bw.chB
  let ever := s.bw.ever || rel
  let idle := !s.bw.chA && !s.bw.chB
  let s1 := s.setBw (fun w => { w with
    chA := a, chB := b, ever := ever, differ := if a != b then some (w.differ.getD s.now) else none
    err := if idle then true else w.err, errAt := if idle then s.now else w.errAt })
  let s2 := if rel = was then s1
    else (s1.putBit R.SYS.DEV_STATE 16 rel).bwPost 0x05 (b2n rel + b2n a * 2 + b2n b * 4) 4
  let s3 := if ever && !a && !b then (if s2.dev.hold then s2 else s2.deviceHold 3)
    else if s2.dev.hold && s2.dev.tbFault.isNone && (a || b) then { s2 with dev := { s2.dev with hold := false } } else s2
  s3.tryRun
/-- The Brakewheel's outputs follow its state: levels, channels, gates and safety group (R466, R467). -/
def State.bwSync (s : State) : State :=
  let s1 := s.levelsEval.chanEval
  let new := s1.gateMask
  let chg := (List.range 48).filter (fun n => bitN new n != bitN s1.bw.gates n)
  let s2 := s1.setBw (fun b => { b with
    gates := new, gateReqs := b.gateReqs ++ chg.map (fun n => (n, bitN new n, s.now + ns 20)) })
  s2.runSync

/-- A write of `AX[a].CTRL`. Where it changes RUN, a slot has another owner: the levels, the requests to the slots and
their gates follow (R256, R459, R466). -/
def State.writeAxRun (s : State) (a v : Nat) : State :=
  let s1 := s.writeRun a v
  if s1.axRun a = s.axRun a then s1 else s1.bwSync
/-- AXIS_RUN_SET: PARK is written as it stands (R258, R259). -/
def execAxisRunSet (t : Time) (_m : Master) (a : Fin 64) (s : State) : Host.Outcome State Fault Refusal :=
  .next ((s.tick t).onPage R.SLUICE.base (fun s => s.writeAxRun a (1 + 2 * s.fld (R.SLUICE.AX_CTRL a) 1 1)))
/-- AXIS_RUN_CLEAR: PARK is written as it stands (R260). -/
def execAxisRunClear (t : Time) (_m : Master) (a : Fin 64) (s : State) : Host.Outcome State Fault Refusal :=
  .next ((s.tick t).onPage R.SLUICE.base (fun s => s.writeAxRun a (2 * s.fld (R.SLUICE.AX_CTRL a) 1 1)))
/-- PARK_WRITE: RUN is written as it stands (R261). -/
def execParkWrite (t : Time) (_m : Master) (a : Fin 64) (park : Bool) (s : State) : Host.Outcome State Fault Refusal :=
  .next ((s.tick t).onPage R.SLUICE.base (fun s => s.writeAxRun a (b2n (s.axRun a) + 2 * b2n park)))

/-- The reports in the inbox reach the ladder in order (R465). -/
def State.ladder (s : State) : State :=
  (s.bw.inbox.foldl (fun (s : State) r => s.ladderOne r) (s.setBw (fun b => { b with inbox := [] }))).bwSync
/-- An axis without a slot that reported standstill at L3 goes to L4 (R466). -/
def State.standstills (s : State) : State :=
  if s.bw.still = 0 then s else
  ((List.range 64).foldl (fun (s : State) a =>
    if bitN s.bw.still a && tget 0 s.bw.stopAt a != 0 then s.setBw (fun b => { b with raised := tset 0 b.raised a 4 }) else s) s).setBw
    (fun b => { b with still := 0 })
/-- FAULT_REPORT: the reports that have been sent reach the ladder (R465 to R468). -/
def execFaultReport (t : Time) (s : State) : Host.Outcome State Fault Refusal := .next (s.tick t).standstills.ladder

/-- RECOVERY_WINDOW_END: the windows whose time is over close (R468). -/
def execRecoveryWindowEnd (t : Time) (s : State) : Host.Outcome State Fault Refusal :=
  let s := s.tick t
  .next (s.setBw (fun b => { b with wins := b.wins.filter (fun w => decide (s.now < w.until_)) }))

/-- An island timer of an axis runs out (R466). -/
def State.axisTimer (s : State) (a lvl : Nat) (at_ : Nat) (dur : Time) : State :=
  if at_ ≠ 0 ∧ at_ - 1 + dur ≤ s.now then (s.setBw (fun b => { b with raised := tset 0 b.raised a (max lvl (tget 0 b.raised a)) })).bwSync else s
/-- AXIS_DEGRADE_TIMEOUT (R466). -/
def execAxisDegradeTimeout (t : Time) (a : Fin 64) (s : State) : Host.Outcome State Fault Refusal :=
  let s := s.tick t
  .next (s.axisTimer a 3 (tget 0 s.bw.degAt a) (ms (nz (s.fld R.BRAKE.AXTIME 15 0))))
/-- AXIS_STOP_TIMEOUT: STOP_TMAX, or the standstill before it (R466). -/
def execAxisStopTimeout (t : Time) (a : Fin 64) (s : State) : Host.Outcome State Fault Refusal :=
  let s := s.tick t
  .next (if bitN s.bw.still a then s.standstills.bwSync
    else s.axisTimer a 4 (tget 0 s.bw.stopAt a) (ms (nz (s.fld R.BRAKE.AXTIME 31 16))))

/-! ### Clearing (R469) -/

/-- The source of a fault is still active: what it reported last, or the condition itself (R469, assumption log 91). -/
def State.sourceActive (s : State) (f : BwFault) : Bool :=
  if f.code ≤ 6 ∨ f.code = 8 ∨ f.code = 9 then true
  else if f.code = 0x0A then decide (512 ≤ (vget s.weir.queues 7).length)
  else if f.code = 0x0B then s.coreState (28 + f.unit) == 4
  else if f.code = 0x0C then s.bit R.BRAKE.DIAG_STAT 16
  else if f.code = 0x0D then s.fld (R.PSP.TEST_STAT f.unit) 2 0 == 4
  else if 0x12 ≤ f.code ∧ f.code ≤ 0x15 then
    bitN (s.rg64 (R.BRAKE.SM_FLAGS (if f.code = 0x12 then 3 else f.code - 0x13))) f.unit
  else if f.code = 0x18 ∨ f.code = 0x19 then (List.range 3).any (fun l => (s.lvl f.unit l).miss != 0)
  else if f.code = 0x24 then s.fld (R.PTP.RED_STAT 0) 2 1 == 3
  else if 0x28 ≤ f.code ∧ f.code ≤ 0x2A then false
  else f.on_
/-- A write of `FCLR` (R469, R452). -/
def State.fclr (s : State) (v : Nat) : State :=
  let hit (f : BwFault) : Bool := f.code == bitsN v 7 0 && (bitN v 14 || f.unit == bitsN v 13 8)
  (s.bw.faults.foldl (fun (s : State) f =>
    if !hit f then s
    else if s.sourceActive f then s.bwPost 0x0A (f.code + f.unit * 2 ^ 24) 0x40
    else (s.setBw (fun b => { b with faults := b.faults.filter (fun g => !(g.code == f.code && g.unit == f.unit)) })).bwPost 0x02
      (f.code + f.unit * 2 ^ 24) 0) s).bwSync
/-- The masters that may clear a fault: the host, a millwright, or none for the pair (R469). -/
def mayClear (m : Option Master) : Bool :=
  match m with
  | some .spi | some .debug => false
  | _ => true
/-- A write of `FCLR`: that of a master that may not make it is refused (R469, assumption log 201). -/
def State.writeFclr (s : State) (m : Option Master) (v : Nat) : State :=
  if mayClear m then s.fclr v else s.cmdRefused R.BRAKE.base
/-- FCLR, by a master or by the pair (R469). -/
def execFclr (t : Time) (m : Option Master) (v : Word) (s : State) : Host.Outcome State Fault Refusal :=
  .next ((s.tick t).onPage R.BRAKE.base (fun s => s.writeFclr m v.toNat))

/-! ### Island faults (R450 to R453, R457) -/

/-- An island fault: recorded, the pair stops in FAULTED, and the reaction follows (R452). -/
def State.islandFault (s : State) (code : Nat) : State :=
  let s1 := (s.setBw (fun b => { b with island := true })).faultRecord 4 code 0
  let s2 := if s1.coreState 32 = 4 then s1
    else (s1.setCoreState 32 4).setCr 32 (fun k => { k with slots := none, rpt := none, stall := false, stepping := false })
  (s2.report code 0 0 true 0).ladder
/-- LOCKSTEP: the checker finds the two cores divergent at an instruction (R450, R487). -/
def execLockstep (t : Time) (pc : Fin 1048576) (s : State) : Host.Outcome State Fault Refusal :=
  .next ((((s.tick t).putBit (R.PG_ERRINJ R.BRAKE.base) 16 false).postNow 0x149 0x01 pc.val).islandFault 1)
/-- BW_CLOCK (R451). -/
def execBwClock (t : Time) (s : State) : Host.Outcome State Fault Refusal := .next ((s.tick t).islandFault 2)
/-- BW_SUPPLY (R451). -/
def execBwSupply (t : Time) (s : State) : Host.Outcome State Fault Refusal := .next ((s.tick t).islandFault 3)
/-- A disagreement has lasted 2 us: of the two commands, or the one that an injection forces on channel A (R457, R489). -/
def State.stoDiffers (s : State) : Bool :=
  s.bw.differ.any (fun d => decide (d + us 2 ≤ s.now)) || s.bw.injAt.any (fun d => decide (d + us 2 ≤ s.now))
/-- STO_DISCREPANCY: a pin has differed from its channel's command for 2 us (`pin`), or what the island itself sees has
(R457, R489). -/
def State.stoDiscrepancy (s : State) (pin : Bool) : State :=
  let s1 := if s.bw.injAt.any (fun d => decide (d + us 2 ≤ s.now)) then
      (s.setBw (fun b => { b with injAt := none })).putBit (R.PG_ERRINJ R.BRAKE.base) 17 false else s
  if pin || s.stoDiffers then s1.islandFault 6 else s1
/-- STO_DISCREPANCY (R457). -/
def execStoDiscrepancy (t : Time) (pin : Bool) (s : State) : Host.Outcome State Fault Refusal :=
  .next ((s.tick t).stoDiscrepancy pin)

/-! ### The pair's commands (R453 to R456, R460, R463, R464) -/

/-- A master other than the pair writes a register marked pair only (R454). -/
def State.pairOnly (s : State) (m : Option Master) (f : State → State) : State :=
  match m with
  | none => f s
  | some _ => s.onPage R.BRAKE.base (fun s => s.cfgRefused R.BRAKE.base)
/-- A write of `STO_CMD` (R456). -/
def State.writeStoCmd (s : State) (v : Nat) : State := (s.setRg R.BRAKE.STO_CMD (BitVec.ofNat 32 (v % 4))).bwSync
/-- A write of `STO_KICK` (R456). -/
def State.stoKick (s : State) : State := (s.setBw (fun b => { b with kick := some s.now })).bwSync
/-- A write of `PREQ[i]`: a level of 6 or 7 refuses it (R463, R488). -/
def State.writePreq (s : State) (i v : Nat) : State :=
  if (List.range 8).any (fun k => decide (6 ≤ bitsN v (4 * k + 2) (4 * k))) then s.cfgRefused R.BRAKE.base
  else (s.setRg (R.BRAKE.PREQ i) (BitVec.ofNat 32 (v &&& 0x77777777))).bwSync
/-- STO_CMD_WRITE, by the pair or by another master, which is refused (R454, R456). -/
def execStoCmdWrite (t : Time) (m : Option Master) (v : Word) (s : State) : Host.Outcome State Fault Refusal :=
  .next ((s.tick t).pairOnly m (fun s => s.writeStoCmd v.toNat))
/-- STO_KICK (R454, R456). -/
def execStoKick (t : Time) (m : Option Master) (s : State) : Host.Outcome State Fault Refusal :=
  .next ((s.tick t).pairOnly m State.stoKick)
/-- STO_KICK_TIMEOUT: no kick for 2 CYC (R456). -/
def execStoKickTimeout (t : Time) (s : State) : Host.Outcome State Fault Refusal := .next (s.tick t).bwSync
/-- PREQ_WRITE (R463, R467). -/
def execPreqWrite (t : Time) (m : Option Master) (i : Fin 8) (v : Word) (s : State) : Host.Outcome State Fault Refusal :=
  .next ((s.tick t).pairOnly m (fun s => s.writePreq i v.toNat))
/-- HOLD of the safety group as the pair writes it (R464). -/
def State.pairHold (s : State) (on : Bool) : State := (s.putBit R.BRAKE.SG_CTRL 0 on).sgEval
/-- SG_HOLD_WRITE: by the pair, or by the owner of the unlocked page with a session (R43, R464). -/
def execSgHoldWrite (t : Time) (m : Option Master) (on : Bool) (s : State) : Host.Outcome State Fault Refusal :=
  let s := s.tick t
  .next (match m with
    | none => s.pairHold on
    | some m => s.onPage R.BRAKE.base (fun s =>
        (s.writeReg m R.BRAKE.base R.BRAKE.SG_CTRL ((s.rg R.BRAKE.SG_CTRL).toNat / 2 * 2 + b2n on)).sgEval))
/-- ERR_TOGGLE (R460). -/
def execErrToggle (t : Time) (s : State) : Host.Outcome State Fault Refusal :=
  let s := s.tick t
  .next (if (s.bw.chA ∨ s.bw.chB) ∧ s.bw.errAt + us (s.fld R.BRAKE.ERR_CFG 15 0) ≤ s.now then
    s.setBw (fun b => { b with err := !b.err, errAt := b.errAt + us (s.fld R.BRAKE.ERR_CFG 15 0) }) else s)
/-- The level of `ERRA` (R460). -/
def State.errA (s : State) : Bool := s.bw.chA && s.bw.err
/-- The level of `ERRB` (R460). -/
def State.errB (s : State) : Bool := s.bw.chB && !s.bw.err

/-- The pair's read of `CYC_WAIT` (R453): the tick count where a tick has released it, otherwise the pair stalls. -/
def State.cycWaitRead (s : State) : Option Word × State :=
  if s.bw.ticked then (some (s.rg R.BRAKE.CYC_WAIT), (s.setBw (fun b => { b with ticked := false })).setCr 32 (fun k => { k with stall := false }))
  else (none, s.setCr 32 (fun k => { k with stall := true }))
/-- CYC_WAIT_READ: the pair begins a read of `CYC_WAIT` and stalls (R453). -/
def execCycWaitRead (t : Time) (s : State) : Host.Outcome State Fault Refusal :=
  let s := s.tick t
  .next (if s.coreState 32 = 1 ∧ (s.cr 32).stall = false then s.cycWaitRead.2 else s)

end Sys2Proof.Machine
end

