-- ==== Sys2Proof/Machine/Monitor.lean ====
section
/-! DEFINITION. The safe monitors and the periodic diagnostics (R461, R462, R471). -/

namespace Sys2Proof.Machine

/-! ### The pair as a writer (R454) -/

/-- A BRAKE register is written, by a master under the access codes, or by the pair, which needs neither unlock nor
session and is not logged (R454). -/
def State.bwWrite (s : State) (m : Option Master) (a v : Nat) : State :=
  match m with
  | some m => s.writeReg m R.BRAKE.base a v
  | none =>
    match findReg a with
    | some (r, false) => s.setRow r a (r.written true (s.rowVal r a) v)
    | _ => s
/-- The selectors of a master or of the pair (R488). -/
def State.bwSel (s : State) (m : Option Master) : Selectors :=
  match m with
  | some m => s.selOf m
  | none => tget {} s.sels 7
/-- The writer may change RW-L fields of the BRAKE page (R43, R454). -/
def State.bwLock (s : State) (m : Option Master) : Bool :=
  match m with
  | some m => s.lockOk R.BRAKE.base m
  | none => true
/-- A command on the BRAKE page by a master or by the pair. -/
def State.onBrake (s : State) (m : Option Master) (f : State → State) : State :=
  match m with
  | some _ => s.onPage R.BRAKE.base f
  | none => f s

/-! ### Counting and checks (R461, R462) -/

/-- A monitor. -/
def State.smOf (s : State) (n : Nat) : SmSt := vget s.bw.sm n
/-- The state with a monitor changed. -/
def State.setSm (s : State) (n : Nat) (f : SmSt → SmSt) : State := s.setBw (fun b => { b with sm := vupd b.sm n f })
/-- The monitor is enabled. -/
def State.smEn (s : State) (n : Nat) : Bool := s.bit (R.SM.CFG n) 0
/-- A check of a monitor fails: 0 SPD, 1 POS, 2 MOVED, 3 XCHECK. The flag is set, and a new one is reported at the
level of `SM.CFG`; 6 sets the flag only (R462, R470). -/
def State.smFlag (s : State) (n k : Nat) : State :=
  let f := s.rg64 (R.BRAKE.SM_FLAGS k)
  if bitN f n then s else
  let s1 := s.setRg64 (R.BRAKE.SM_FLAGS k) (f ||| 2 ^ n)
  let c := s.rg (R.SM.CFG n)
  let lvl := match k with | 0 => wfld c 12 10 | 1 => wfld c 15 13 | _ => wfld c 18 16
  if k ≠ 3 ∧ lvl = 6 then s1
  else s1.report (if k = 3 then 0x12 else 0x13 + k) n (2 ^ wfld c 8 3) (wbit c 9) (if k = 3 then 0 else lvl)
/-- POS and MOVED after an accepted edge or a word (R462). -/
def State.smCheck (s : State) (n : Nat) : State :=
  let c := s.rg (R.SM.CFG n)
  let v := s.sgn32 (R.SM.COUNT n)
  let s1 := if wbit c 19 && (decide (v < s.sgn32 (R.SM.POS_LO n)) || decide (s.sgn32 (R.SM.POS_HI n) < v)) then s.smFlag n 1 else s
  if wbit c 20 && decide (s.fld (R.SM.STILL_TOL n) 15 0 < (s.rg (R.SM.COUNT n) - s.rg (R.SM.STILL_REF n)).toInt.natAbs) then
    s1.smFlag n 2 else s1
/-- A counting edge: the interval in its direction, the count, and the checks (R461, R462). -/
def State.smCountEdge (s : State) (n : Nat) (fwd : Bool) (stamp : Time) : State :=
  let x := s.smOf n
  let int := (s.rg (R.SM.SPD_INT n)).toNat
  let fast : Bool := match (if fwd then x.fwd else x.rev) with
    | some t => int != 0 && decide (stamp < t + ns int)
    | none => false
  let s1 := (s.setRg (R.SM.COUNT n) (s.rg (R.SM.COUNT n) + (if fwd then 1 else -1))).setSm n (fun x =>
    if fwd then { x with fwd := some stamp } else { x with rev := some stamp })
  (if fast then s1.smFlag n 0 else s1).smCheck n
/-- The decoder state that the present levels give: A and B in bits 1 and 0, or W V U. -/
def SmSt.decNow (x : SmSt) (mode : Nat) : Nat :=
  let u := b2n (vget x.levels 0)
  let v := b2n (vget x.levels 1)
  if mode = 1 then u + 2 * v + 4 * b2n (vget x.levels 2) else 2 * u + v
/-- An accepted edge of a monitor, decoded as its mode says; an illegal transition sets XCHECK, and the decoder takes
the present levels (R461, R91, R92). `had` says that the line has had an accepted edge before. -/
def State.smDecode (s : State) (n line : Nat) (level : Bool) (stamp : Time) (had : Bool) : State :=
  let x := s.smOf n
  let mode := s.fld (R.SM.CFG n) 2 1
  let bad : State := ((s.setSm n (fun x => { x with dec := x.decNow mode })).smFlag n 3).smCheck n
  if mode = 0 then
    let close : Bool := match vget x.acc (1 - line) with
      | some o => decide (stamp < o + 16) && decide (o < stamp + 16)
      | none => false
    let new := if line = 0 then b2n level * 2 + x.dec % 2 else x.dec / 2 * 2 + b2n level
    if close || (had && new == x.dec) then bad
    else if new = x.dec then s.smCheck n
    else (s.setSm n (fun x => { x with dec := new })).smCountEdge n (quadNext x.dec = new) stamp
  else if mode = 1 then
    let new := x.dec - bitsN x.dec line line * 2 ^ line + b2n level * 2 ^ line
    if new = x.dec then s.smCheck n
    else if new ≠ 0 ∧ new ≠ 7 ∧ (hallNext x.dec = new ∨ hallNext new = x.dec) then
      (s.setSm n (fun x => { x with dec := new })).smCountEdge n (hallNext x.dec = new) stamp
    else bad
  else if line = 0 ∧ level then s.smCountEdge n (vget x.levels 1) stamp
  else s
/-- The lines that a mode of a monitor decodes. -/
def smLine (mode line : Nat) : Bool := match mode with | 0 => decide (line < 2) | 1 => true | 2 => line == 0 | _ => false
/-- A line of a monitor changes: its level, the monitor's own minimum edge interval, and the decoder (R461). -/
def State.smEdge (s : State) (n line : Nat) (level : Bool) (stamp : Time) : State :=
  let x := s.smOf n
  let s1 := s.setSm n (fun x => { x with levels := vupd x.levels line (fun _ => level) })
  let early : Bool := match vget x.acc line with
    | some t => decide (stamp < t + ns (nz (s.fld (R.SM.MIN_INT n) 15 0)))
    | none => false
  if !s.smEn n || !smLine (s.fld (R.SM.CFG n) 2 1) line || early then s1
  else
    (s1.setSm n (fun x => { x with acc := vupd x.acc line (fun _ => some stamp) })).smDecode n line level stamp (vget x.acc line).isSome
/-- A valid serial word in MODE 3 (R461, R462). -/
def State.smWord (s : State) (n : Nat) : State :=
  if !s.smEn n || s.fld (R.SM.CFG n) 2 1 != 3 then s else
  match (vget s.fbp n).samples.head? with
  | none => s
  | some w =>
    if (s.smOf n).word = some w.ts then s else
    let new := BitVec.ofInt 32 w.pos
    let d := (new - s.rg (R.SM.COUNT n)).toInt.natAbs
    let int := (s.rg (R.SM.SPD_INT n)).toNat
    let fast : Bool := match (s.smOf n).word with
      | some t => int != 0 && decide (w.ts - t < ((16 * d * int : Nat) : Int))
      | none => false
    let s1 := (s.setRg (R.SM.COUNT n) new).setSm n (fun x => { x with word := some w.ts })
    (if fast then s1.smFlag n 0 else s1).smCheck n
/-- SAFE_MONITOR_EDGE (R461, R462). -/
def execSafeMonitorEdge (t : Time) (n : Fin 48) (x : SmIn) (s : State) : Host.Outcome State Fault Refusal :=
  let s := s.tick t
  .next (match x with
    | .edge l v st => s.smEdge n l v st
    | .word => s.smWord n)
/-- The comparison of the monitor's count with the port's counter (R462). -/
def State.smXcheck (s : State) (n : Nat) : State :=
  if !s.smEn n then s else
  let d := (s.rg (R.SM.COUNT n) - BitVec.ofInt 32 (s.fbCount n)).toInt.natAbs
  if d ≤ s.fld (R.SM.XTOL n) 15 0 then s.setSm n (fun x => { x with offSince := none })
  else
    let since := (s.smOf n).offSince.getD s.now
    let s1 := s.setSm n (fun x => { x with offSince := some since })
    if since + us (s.fld (R.SM.XTOL n) 31 16) ≤ s.now then s1.smFlag n 3 else s1
/-- XCHECK (R462). -/
def execXcheck (t : Time) (n : Fin 48) (s : State) : Host.Outcome State Fault Refusal := .next ((s.tick t).smXcheck n)

/-- A write of 1 bits to the flags of a check (R462): the cleared monitors report clear. -/
def State.smFlagsClear (s : State) (k v : Nat) : State :=
  let f := s.rg64 (R.BRAKE.SM_FLAGS k)
  (List.range 48).foldl (fun (s : State) n =>
    if bitN f n && bitN v n then s.reportClear (if k = 3 then 0x12 else 0x13 + k) n else s)
    (s.setRg64 (R.BRAKE.SM_FLAGS k) (f ^^^ (f &&& v)))
/-- SM_FLAGS_CLEAR, by the pair; another master is refused (R454, R462). -/
def execSmFlagsClear (t : Time) (m : Option Master) (k : Fin 4) (v : DWord) (s : State) : Host.Outcome State Fault Refusal :=
  .next ((s.tick t).pairOnly m (fun s => s.smFlagsClear k v.toNat))

/-- A write of `SM.CFG` (R461, R462, R488): a level of 7 is refused; EN 0 to 1 loads the count and the decoder;
STILL_EN = 1 captures the reference. -/
def State.writeSmCfg (s : State) (m : Option Master) (n v : Nat) : State :=
  if bitsN v 12 10 = 7 ∨ bitsN v 15 13 = 7 ∨ bitsN v 18 16 = 7 then s.cfgRefused R.BRAKE.base else
  let was := s.smEn n
  let ok := s.bwLock m && (m.isNone || !s.logFull)
  let s1 := s.bwWrite m (R.SM.CFG n) v
  if !ok then s1 else
  let s2 := if !was && s1.smEn n then
      (s1.setRg (R.SM.COUNT n) (BitVec.ofInt 32 (s1.fbCount n))).setSm n (fun x =>
        { levels := x.levels, dec := x.decNow (s1.fld (R.SM.CFG n) 2 1) })
    else s1
  if s1.bit (R.SM.CFG n) 20 then s2.setRg (R.SM.STILL_REF n) (s2.rg (R.SM.COUNT n)) else s2

/-- DIAG_DUE (R471). -/
def execDiagDue (t : Time) (s : State) : Host.Outcome State Fault Refusal := .next (s.tick t).diagEval

end Sys2Proof.Machine
end

