-- ==== Sys2Proof/Machine/Mirast.lean ====
section
/-! DEFINITION. Mirast frames, producers, consumers and the safety tick (R453, R473 to R479). -/

namespace Sys2Proof.Machine

/-! ### Frames (R473, R474) -/

/-- One byte of the safety CRC (R474). -/
def mirCrcByte (c b : Nat) : Nat :=
  (List.range 8).foldl (fun c _ => if bitN c 31 then ((c * 2) % 2 ^ 32) ^^^ 0x1EDC6F41 else c * 2) (c ^^^ (b * 2 ^ 24))
/-- The safety CRC of a byte string (R474). -/
def mirCrc (seed : Nat) (bs : List Byte) : Nat := bs.foldl (fun c b => mirCrcByte c b.toNat) seed
/-- A producer. -/
def State.mirTx (s : State) (c : Nat) : MirTx := vget s.bw.tx c
/-- A consumer. -/
def State.mirRx (s : State) (c : Nat) : MirRx := vget s.bw.rx c
/-- The state with a producer changed. -/
def State.setTx (s : State) (c : Nat) (f : MirTx → MirTx) : State := s.setBw (fun b => { b with tx := vupd b.tx c f })
/-- The state with a consumer changed. -/
def State.setRx (s : State) (c : Nat) (f : MirRx → MirRx) : State := s.setBw (fun b => { b with rx := vupd b.rx c f })
/-- Machine time at an instant in whole nanoseconds since second 0, as 64 bits (R473). -/
def State.mtNs (s : State) (at_ : Time) : Nat := ux 64 ((s.mtAt (edgeOf at_)).fdiv (2 ^ 32))
/-- A Mirast frame of producer `c` for an instant; as every frame, it gets its FCS as it leaves (R473, R474, `wireOf`). -/
def State.mirFrame (s : State) (c : Nat) (at_ : Time) : List Byte :=
  let cfg := s.rg (R.CONN.CFG c)
  let len := min 64 (wfld cfg 7 1)
  let pdu := beBytes 1 0x11 ++ beBytes 1 (b2n s.unsure) ++ beBytes 2 (s.fld R.BRAKE.DEV_ID 15 0) ++ beBytes 2 (wfld cfg 31 16) ++
    beBytes 2 (s.mirTx c).seq ++ beBytes 8 (s.mtNs at_) ++ beBytes 1 len ++
    (List.range len).map (fun i => (s.mirTx c).payload.getD i 0)
  let vid := s.rg R.BRAKE.MIR_VID
  let head := beBytes 6 (s.rg64 R.BRAKE.MIR_DST) ++ beBytes 6 (s.rg64 R.BRAKE.MIR_SRC) ++
    (if wbit vid 12 then beBytes 2 0x8100 ++ beBytes 2 (wfld vid 15 13 * 2 ^ 13 + wfld vid 11 0) else []) ++
    beBytes 2 (s.fld R.BRAKE.MIR_ETYPE 15 0)
  let b := head ++ pdu ++ beBytes 4 (mirCrc (s.rg (R.CONN.SEED c)).toNat pdu)
  b ++ List.replicate (60 - b.length) 0

/-! ### Producers (R475) -/

/-- The address of word `w` of a producer's payload registers. -/
def txWord (c w : Nat) : Nat := R.BRAKE.base + 0xc00 + 0x40 * c + 4 * w
/-- The address of word `w` of a consumer's payload registers. -/
def rxWord (c w : Nat) : Nat := R.BRAKE.base + 0x800 + 0x40 * c + 4 * w
/-- COMMIT: the payload registers become the payload (R475). -/
def State.mirCommit (s : State) (c : Nat) : State :=
  s.setTx c (fun x => { x with
    payload := (List.range 16).flatMap (fun w => (wordBytes (s.rg (txWord c w))).map (fun v => BitVec.ofNat 8 v)) })
/-- A producer sends at its instant, one copy per race (R475, R433). -/
def State.mirSend (s : State) (c : Nat) : State :=
  let p := us (s.rg (R.CONN.PERIOD c)).toNat
  let at_ := s.now / p * p
  if s.bit (R.CONN.CFG c) 0 = false ∨ at_ ≤ (s.mirTx c).last then s else
  let b := s.mirFrame c at_
  (s.setTx c (fun x => { x with seq := (x.seq + 1) % 2 ^ 16, last := at_ })).raceSendMask 3 b
/-- MIRAST_SEND (R475). -/
def execMirastSend (t : Time) (c : Fin 16) (s : State) : Host.Outcome State Fault Refusal := .next ((s.tick t).mirSend c)

/-! ### Consumers (R476 to R479) -/

/-- `CONN.STAT` of consumer `c`. -/
def rxStat (c : Nat) : Nat := R.CONN.STAT (16 + c)
/-- The state of a consumer: 0 CLOSED, 1 WAIT, 2 RUN, 3 DEGRADED, 4 FAILED. -/
def State.rxState (s : State) (c : Nat) : Nat := s.fld (rxStat c) 18 16
/-- A consumer changes its state, which posts CONN_STATE (R479, R487). -/
def State.setRxState (s : State) (c v : Nat) : State :=
  if s.rxState c = v then s else (s.putFld (rxStat c) 18 16 v).bwPost 0x06 (16 + c + v * 2 ^ 5) 8
/-- A consumer fails with a fault of its connection (R479, R470). -/
def State.rxFail (s : State) (c code lvl : Nat) : State :=
  let s1 := (s.setRxState c 4).setRx c (fun x => { x with pair := none, lost := [] })
  s1.report code c (s.rg64 (R.CONN.AXES (16 + c))) (s.bit (R.CONN.CFG (16 + c)) 1) lvl
/-- A count of `ERRCNT`: 0 CRC, 1 SEQ, 2 AGE, 3 DUP. -/
def State.rxErr (s : State) (c k : Nat) : State := s.count (R.CONN.ERRCNT (16 + c)) (8 * k + 7) (8 * k) 1
/-- SKEW of a consumer. -/
def State.skew (s : State) (c : Nat) : Time := us (s.rg (R.CONN.SKEW (16 + c))).toNat
/-- A pair is complete (R477, R479). -/
def State.rxPaired (s : State) (c : Nat) : State :=
  (s.setRx c (fun x => { x with pair := none, newest := x.newest.map (fun f => { f with paired := true }) })).setRxState c 2
/-- A new frame (R477). -/
def State.rxNew (s : State) (c r seq : Nat) (b pl : List Byte) (at_ : Time) : State :=
  s.setRx c (fun x => { x with
    last := seq, newAt := at_, newest := some ⟨seq, pl, false⟩
    lost := x.lost ++ (match x.pair with | some p => [p.2.2] | none => []), pair := some (r, b, at_) })
/-- A valid copy in WAIT, RUN or DEGRADED (R477). -/
def State.rxValid (s : State) (c r seq : Nat) (b pl : List Byte) (at_ : Time) : State :=
  let x := s.mirRx c
  let other : Option (List Byte) := match x.pair with
    | some p => if p.1 ≠ r ∧ seq = x.last ∧ at_ ≤ p.2.2 + s.skew c then some p.2.1 else none
    | none => none
  match other with
  | some first => if first = b then s.rxPaired c else s.rxFail c 0x29 (s.fld (R.CONN.CFG (16 + c)) 7 5)
  | none =>
    let d := (seq + 2 ^ 16 - x.last) % 2 ^ 16
    if s.rxState c = 1 ∨ (1 ≤ d ∧ d ≤ nz (s.fld (R.CONN.WIN (16 + c)) 14 0)) then s.rxNew c r seq b pl at_
    else s.rxErr c (if d = 0 then 3 else 1)
/-- A copy of a Mirast frame at consumer `c` from race `r` (R476). -/
def State.rxCopy (s : State) (c r : Nat) (b : List Byte) (at_ : Time) : State :=
  let k := 16 + c
  let p := b.drop (payAt b)
  let len := beAt p 16 1
  let cfg := s.rg (R.CONN.CFG k)
  if !wbit cfg 0 || beAt p 0 1 != 0x11 || decide (64 < len) || decide (p.length < 21 + len) ||
      beAt p 2 2 != s.fld (R.CONN.SRC_DEV k) 15 0 || beAt p 4 2 != wfld cfg 31 16 then s
  else if mirCrc (s.rg (R.CONN.SEED k)).toNat (p.take (17 + len)) ≠ beAt p (17 + len) 4 then s.rxErr c 0
  else
    let skip := s.unsure || (beAt p 1 1).testBit 0
    let age := ((s.mtNs at_ : Int) - beAt p 8 8).natAbs
    if !skip && decide (1000 * (s.rg (R.CONN.AGE_MAX k)).toNat < age) then s.rxErr c 2
    else
      let s1 := if skip then s.putBit (rxStat c) 20 true else s
      if s1.rxState c ∈ [1, 2, 3] then s1.rxValid c r (beAt p 6 2) b ((p.drop 17).take len) at_ else s1
/-- A frame of race `r` reaches the Mirast engine (R476). -/
def State.mirReceive (s : State) (r : Nat) (b : List Byte) (at_ : Time) : State :=
  if etype b ≠ s.fld R.BRAKE.MIR_ETYPE 15 0 then s else (List.range 16).foldl (fun (s : State) c => s.rxCopy c r b at_) s
/-- MIRAST_PAIR_TIMEOUT: a pair has stayed incomplete for SKEW (R477, R479). -/
def State.rxUnpaired (s : State) (c : Nat) : State :=
  let x := s.mirRx c
  let all := x.lost ++ (match x.pair with | some p => [p.2.2] | none => [])
  let lateOnes := all.filter (fun a => decide (a + s.skew c ≤ s.now))
  match lateOnes.head? with
  | none => s
  | some a =>
    let s1 := s.setRx c (fun x => { x with
      lost := x.lost.filter (fun a => decide (s.now < a + s.skew c))
      pair := x.pair.filter (fun p => decide (s.now < p.2.2 + s.skew c)) })
    if s.rxState c = 2 then (s1.setRx c (fun x => { x with degAt := a + s.skew c })).setRxState c 3 else s1
/-- MIRAST_PAIR_TIMEOUT (R477). -/
def execMirastPairTimeout (t : Time) (c : Fin 16) (s : State) : Host.Outcome State Fault Refusal :=
  .next ((s.tick t).rxUnpaired c)
/-- TMO has passed: since OPEN in WAIT, since the latest new frame in RUN and DEGRADED (R479). -/
def State.rxTimeout (s : State) (c : Nat) : State :=
  let x := s.mirRx c
  let from_ := if s.rxState c = 1 then x.openAt else x.newAt
  if s.rxState c ∈ [1, 2, 3] ∧ from_ + ms (nz (s.fld (R.CONN.TMO (16 + c)) 15 0)) ≤ s.now then
    s.rxFail c 0x28 (s.fld (R.CONN.CFG (16 + c)) 4 2)
  else s
/-- MIR_TIMEOUT (R479). -/
def execMirTimeout (t : Time) (c : Fin 16) (s : State) : Host.Outcome State Fault Refusal := .next ((s.tick t).rxTimeout c)
/-- DEG_T has passed in DEGRADED (R479). -/
def State.rxDegraded (s : State) (c : Nat) : State :=
  if s.rxState c = 3 ∧ (s.mirRx c).degAt + ms (100 * (s.rg (R.CONN.DEG_T (16 + c))).toNat) ≤ s.now then s.rxFail c 0x2A 3 else s
/-- MIR_DEGRADED (R479). -/
def execMirDegraded (t : Time) (c : Fin 16) (s : State) : Host.Outcome State Fault Refusal := .next ((s.tick t).rxDegraded c)

/-- OPEN: from CLOSED, or from FAILED once the connection's faults are cleared, while EN = 1 (R479). -/
def State.connOpen (s : State) (c : Nat) : State :=
  let faulty := s.bw.faults.any (fun f => decide (0x28 ≤ f.code) && decide (f.code ≤ 0x2A) && f.unit == c)
  if s.bit (R.CONN.CFG (16 + c)) 0 ∧ (s.rxState c = 0 ∨ (s.rxState c = 4 ∧ !faulty)) then
    ((s.setRx c (fun _ => { openAt := s.now, newAt := s.now })).putBit (rxStat c) 20 false).setRxState c 1
  else s.cmdRefused R.BRAKE.base
/-- CLOSED (R479). -/
def State.connClose (s : State) (c : Nat) : State := (s.setRx c (fun x => { x with pair := none, lost := [] })).setRxState c 0
/-- A write of `CONN.CMD` of connection `k` (R475, R479). -/
def State.writeConnCmd (s : State) (k v : Nat) : State :=
  let s1 := if !bitN v 0 then s else if k < 16 then s.mirCommit k else s.connOpen (k - 16)
  if bitN v 1 ∧ 16 ≤ k then s1.connClose (k - 16) else s1
/-- CONN_COMMIT: `CONN.CMD` of the selected connection written with bit 0 (R475). -/
def execConnCommit (t : Time) (m : Option Master) (s : State) : Host.Outcome State Fault Refusal :=
  .next ((s.tick t).onBrake m (fun s => s.writeConnCmd (s.bwSel m).csel 1))
/-- CONN_OPEN: `CONN.CMD` of the selected connection written with bit 0 (R479). -/
def execConnOpen (t : Time) (m : Option Master) (s : State) : Host.Outcome State Fault Refusal :=
  .next ((s.tick t).onBrake m (fun s => s.writeConnCmd (s.bwSel m).csel 1))
/-- CONN_CLOSE: `CONN.CMD` of the selected connection written with bit 1 (R479). -/
def execConnClose (t : Time) (m : Option Master) (s : State) : Host.Outcome State Fault Refusal :=
  .next ((s.tick t).onBrake m (fun s => s.writeConnCmd (s.bwSel m).csel 2))
/-- A write of a register of connection `k`: CFG, SEED, PERIOD, SRC_DEV and WIN only while EN = 0 (R488). -/
def State.writeConn (s : State) (m : Option Master) (k off v : Nat) : State :=
  let a := R.CONN.base k + off
  if off = 0x40c then s.writeConnCmd k v
  else if off ∈ [0x400, 0x404, 0x408, 0x414, 0x424] ∧ s.bit (R.CONN.CFG k) 0 then s.cfgRefused R.BRAKE.base
  else
    let s1 := s.bwWrite m a v
    if off = 0x400 ∧ k < 16 ∧ s1.bit (R.CONN.CFG k) 0 then s1.setTx k (fun x => { x with last := s.now }) else s1

/-! ### The safety tick (R453, R478) -/

/-- The payload and the status of a consumer at a tick (R478). -/
def State.rxTick (s : State) (c : Nat) : State :=
  let live := s.rxState c == 2 || s.rxState c == 3
  let s1 := s.putBit (rxStat c) 21 live
  match (s.mirRx c).newest with
  | none => s1
  | some f =>
    let word (w : Nat) : Word := BitVec.ofNat 32 ((List.range 4).foldl (fun (a : Nat) i =>
      a + (f.payload.getD (4 * w + i) 0).toNat * 256 ^ i) 0)
    (List.range 16).foldl (fun (s : State) w => s.setRg (rxWord c w) (word w))
      ((s1.putFld (rxStat c) 15 0 f.seq).putBit (rxStat c) 19 f.paired)
/-- SAFETY_TICK (R453, R478). -/
def State.safetyTick (s : State) : State :=
  let at_ := s.now / s.cyc * s.cyc
  if at_ ≤ s.bw.tick then s else
  let s1 := (List.range 16).foldl (fun (s : State) c => s.rxTick c)
    ((s.setBw (fun b => { b with tick := at_ })).setRg R.BRAKE.CYC_WAIT (s.rg R.BRAKE.CYC_WAIT + 1))
  if s.coreState 32 = 1 ∧ (s.cr 32).stall then
    (s1.setBw (fun b => { b with ticked := true })).setCr 32 (fun k => { k with stall := false })
  else if s.bw.start + 2 * s.cyc ≤ at_ ∧ s.coreState 32 ≠ 4 ∧ !s.sess.proof then s1.islandFault 5
  else s1
/-- SAFETY_TICK (R453). -/
def execSafetyTick (t : Time) (s : State) : Host.Outcome State Fault Refusal := .next (s.tick t).safetyTick

end Sys2Proof.Machine
end

