-- ==== Sys2Proof/Machine/Sha.lean ====
section
/-! DEFINITION. The password hash: PBKDF2-HMAC-SHA-256 of RFC 8018 with 4,096 iterations and 32 bytes of result (R480).
SHA-256 and HMAC are those of FIPS 180-4 and RFC 2104 (assumption log 202). -/

namespace Sys2Proof.Machine

/-- The round constants of SHA-256, first half. -/
def shaK0 : List Nat :=
  [0x428a2f98, 0x71374491, 0xb5c0fbcf, 0xe9b5dba5, 0x3956c25b, 0x59f111f1, 0x923f82a4, 0xab1c5ed5,
   0xd807aa98, 0x12835b01, 0x243185be, 0x550c7dc3, 0x72be5d74, 0x80deb1fe, 0x9bdc06a7, 0xc19bf174,
   0xe49b69c1, 0xefbe4786, 0x0fc19dc6, 0x240ca1cc, 0x2de92c6f, 0x4a7484aa, 0x5cb0a9dc, 0x76f988da,
   0x983e5152, 0xa831c66d, 0xb00327c8, 0xbf597fc7, 0xc6e00bf3, 0xd5a79147, 0x06ca6351, 0x14292967]
/-- The round constants of SHA-256, second half. -/
def shaK1 : List Nat :=
  [0x27b70a85, 0x2e1b2138, 0x4d2c6dfc, 0x53380d13, 0x650a7354, 0x766a0abb, 0x81c2c92e, 0x92722c85,
   0xa2bfe8a1, 0xa81a664b, 0xc24b8b70, 0xc76c51a3, 0xd192e819, 0xd6990624, 0xf40e3585, 0x106aa070,
   0x19a4c116, 0x1e376c08, 0x2748774c, 0x34b0bcb5, 0x391c0cb3, 0x4ed8aa4a, 0x5b9cca4f, 0x682e6ff3,
   0x748f82ee, 0x78a5636f, 0x84c87814, 0x8cc70208, 0x90befffa, 0xa4506ceb, 0xbef9a3f7, 0xc67178f2]
/-- The initial hash value of SHA-256. -/
def shaInit : List (BitVec 32) :=
  [0x6a09e667, 0xbb67ae85, 0x3c6ef372, 0xa54ff53a, 0x510e527f, 0x9b05688c, 0x1f83d9ab, 0x5be0cd19]
/-- One more word of the message schedule; the newest word comes first. -/
def shaExtend (w : List (BitVec 32)) : List (BitVec 32) :=
  let a := w.getD 1 0
  let b := w.getD 14 0
  let s1 := a.rotateRight 17 ^^^ a.rotateRight 19 ^^^ (a >>> 10)
  let s0 := b.rotateRight 7 ^^^ b.rotateRight 18 ^^^ (b >>> 3)
  (s1 + w.getD 6 0 + s0 + w.getD 15 0) :: w
/-- One round on the working variables a to h. -/
def shaRound (v : List (BitVec 32)) (kw : Nat × BitVec 32) : List (BitVec 32) :=
  match v with
  | [a, b, c, d, e, f, g, h] =>
    let t1 := h + (e.rotateRight 6 ^^^ e.rotateRight 11 ^^^ e.rotateRight 25) + ((e &&& f) ^^^ (~~~e &&& g)) +
      BitVec.ofNat 32 kw.1 + kw.2
    let t2 := (a.rotateRight 2 ^^^ a.rotateRight 13 ^^^ a.rotateRight 22) + ((a &&& b) ^^^ (a &&& c) ^^^ (b &&& c))
    [t1 + t2, a, b, c, d + t1, e, f, g]
  | _ => v
/-- A block of 16 words is compressed into the hash value. -/
def shaBlock (h : List (BitVec 32)) (blk : List (BitVec 32)) : List (BitVec 32) :=
  let w := ((List.range 48).foldl (fun w _ => shaExtend w) blk.reverse).reverse
  List.zipWith (· + ·) h (((shaK0 ++ shaK1).zip w).foldl shaRound h)
/-- Byte `i` of a number of `n` bytes, the high one first. -/
def shaByte (n v i : Nat) : Nat := v >>> (8 * (n - 1 - i)) % 256
/-- SHA-256 of a byte string (FIPS 180-4). -/
def sha256 (bs : List Nat) : List Nat :=
  let n := bs.length
  let p := bs ++ [0x80] ++ List.replicate ((119 - n % 64) % 64) 0 ++ (List.range 8).map (shaByte 8 (8 * n))
  let word (i : Nat) : BitVec 32 := BitVec.ofNat 32 ((List.range 4).foldl (fun a j => a * 256 + p.getD (4 * i + j) 0) 0)
  let h := (List.range (p.length / 64)).foldl (fun h b => shaBlock h ((List.range 16).map (fun i => word (16 * b + i)))) shaInit
  h.flatMap (fun x => (List.range 4).map (shaByte 4 x.toNat))
/-- HMAC-SHA-256 with a key of at most 64 bytes (RFC 2104). -/
def hmacSha (key msg : List Nat) : List Nat :=
  let k := key ++ List.replicate (64 - key.length) 0
  sha256 (k.map (fun b => b ^^^ 0x5c) ++ sha256 (k.map (fun b => b ^^^ 0x36) ++ msg))
/-- The stored form of a password under a salt: PBKDF2-HMAC-SHA-256, 4,096 iterations, 32 bytes, byte 0 the high byte
(R480). -/
@[irreducible] def passwordHash (salt pw : List Nat) : BitVec 256 :=
  let u1 := hmacSha pw (salt ++ [0, 0, 0, 1])
  let r := (List.range 4095).foldl (fun (x : List Nat × List Nat) _ =>
    let u := hmacSha pw x.1
    (u, List.zipWith (· ^^^ ·) x.2 u)) (u1, u1)
  BitVec.ofNat 256 (r.2.foldl (fun a b => a * 256 + b) 0)

end Sys2Proof.Machine
end

