-- ==== Sys2Proof/Machine/Session.lean ====
section
/-! DEFINITION. Password, sessions, the change log, proof-test sessions and the BRAKE page (R480 to R489). -/

namespace Sys2Proof.Machine

/-- The state with the session changed. -/
def State.setSess (s : State) (f : SessSt → SessSt) : State := { s with sess := f s.sess }
/-- The lockout of R481 is in force. -/
def State.lockedOut (s : State) : Bool :=
  match s.sess.lockout with
  | some t => decide (s.now < t + sec 60)
  | none => false
/-- The bytes of `PW_DATA` (R481, R5). -/
def State.pwBytes (s : State) (len : Nat) : List Nat := (s.sess.pwData.toList.flatMap wordBytes).take len
/-- The session has an owner and `m` is it. -/
def State.sessOwner (s : State) (m : Master) : Bool := s.sess.state == .opened && s.sess.owner == m

/-- OPEN: verification begins, or the command is refused (R480, R481). -/
def State.sessOpen (s : State) (m : Master) (len : Nat) : State :=
  match s.sess.pwHash with
  | none => s.cmdRefused R.BRAKE.base
  | some h =>
    if s.sess.state ≠ .none ∨ s.lockedOut ∨ len < 8 ∨ 32 < len then s.cmdRefused R.BRAKE.base
    else
      let ok := passwordHash s.sess.salt (s.pwBytes len) == h
      s.setSess (fun x => { x with
        state := .verifying, owner := m, user := s.fld R.BRAKE.SESS_USER 15 0, since := s.now, matched := ok })
/-- Verification ends (R481). -/
def State.sessVerified (s : State) : State :=
  if s.sess.state ≠ .verifying then s
  else if s.sess.matched then
    (s.setSess (fun x => { x with state := .opened, since := s.now, fails := 0, lastFail := false })).bwPost 0x07
      (1 + s.sess.owner.code * 4) 0x10
  else
    let n := min 255 (s.sess.fails + 1)
    (s.setSess (fun x => { x with
      state := .none, fails := n, lastFail := true, lockout := if 5 ≤ n then some s.now else x.lockout })).bwPost 0x08
      (n + b2n (decide (5 ≤ n)) * 2 ^ 8) 0x10

/-- The CRC-32 of the pair's program memory (R483). -/
def State.programCrc (s : State) : Nat :=
  (((List.range 0x8000).foldl (fun (c : Nat) i =>
    (wordBytes (s.ldw (spaceAddr 32 0 i))).foldl crc32Byte c) 0xFFFFFFFF)) ^^^ 0xFFFFFFFF
/-- A special entry of the change log: 1 password set, 2 proof-test open, 3 proof-test close, 4 seal (R483). -/
def State.specialEntry (s : State) (kind : Nat) (old new : Word) : State := s.logEntry R.BRAKE.base 0x164 kind old new

/-- Proof test closes: its island faults are cleared, injections end, and the pair restarts at `ENTRY` (R485). -/
def State.proofEnd (s : State) : State :=
  if !s.sess.proof then s else
  let gone := s.bw.faults.filter (fun f => f.pt && decide (f.code ≤ 6))
  let kept := s.bw.faults.filter (fun f => !(f.pt && decide (f.code ≤ 6)))
  let still := kept.any (fun f => decide (f.code ≤ 6))
  let s0 := (s.setSess (fun x => { x with proof := false })).setRg (R.PG_ERRINJ R.BRAKE.base) 0
  let s1 := s0.setBw (fun b => { b with faults := kept, island := still, injAt := none })
  let s2 := gone.foldl (fun (s : State) f => s.bwPost 0x02 (f.code + f.unit * 2 ^ 24) 0) (s1.bwPost 0x0B 0 0)
  let s3 := if still then s2 else (s2.startCore 32 (s2.fld R.BRAKE.ENTRY 19 0)).setBw (fun b => { b with start := s.now, ticked := false })
  s3.bwSync
/-- The entry of a proof-test closing, where there is room for it. -/
def State.proofEntry (s : State) : State :=
  if !s.sess.proof || s.logFull then s else
  s.free.2.specialEntry 3 (BitVec.ofNat 32 s.programCrc) (s.free.1.truncate 32)
/-- The session ends: 0 closed, 2 timed out (R482, R485). -/
def State.sessEnd (s : State) (kind : Nat) : State :=
  let s1 := s.proofEntry.proofEnd
  (s1.setSess (fun x => { x with state := .none, user := 0 })).bwPost 0x07 (kind + s.sess.owner.code * 4) 0x10
/-- CLOSE (R482). -/
def State.sessClose (s : State) (m : Master) : State := if s.sessOwner m then s.sessEnd 0 else s.cmdRefused R.BRAKE.base
/-- SET_PW (R480, R482). -/
def State.setPw' (s : State) (m : Master) (len : Nat) : State :=
  let bs := s.pwBytes len
  let may := s.sessOwner m || (s.sess.pwHash.isNone && s.sess.state == .none)
  if !may || decide (len < 8) || decide (32 < len) || bs.any (fun b => decide (b < 0x20) || decide (0x7E < b)) then
    s.cmdRefused R.BRAKE.base
  else if s.logFull then s.logRefuse R.BRAKE.base
  else
    let u := if s.sessOwner m then s.sess.user else s.fld R.BRAKE.SESS_USER 15 0
    let was := s.sess.user
    let f1 := s.free
    let f2 := f1.2.free
    let f3 := f2.2.free
    let f4 := f3.2.free
    let s1 := (((f4.2.setSess (fun x => { x with user := u })).specialEntry 1 (f3.1.truncate 32) (f4.1.truncate 32))).setSess
      (fun x => { x with user := was })
    let salt := (List.range 8).map (fun i => bitsN f1.1.toNat (8 * i + 7) (8 * i)) ++
      (List.range 8).map (fun i => bitsN f2.1.toNat (8 * i + 7) (8 * i))
    s1.setSess (fun x => { x with salt := salt, pwHash := some (passwordHash salt bs) })
/-- The CRC-32 over the entries of the change log (R484). -/
def State.logSum (s : State) : Nat := crc32 (s.sess.log.flatten.flatMap wordBytes)
/-- SEAL (R484). -/
def State.sealLog (s : State) (m : Master) : State :=
  if !s.sessOwner m || s.logSum != (s.rg R.BRAKE.LOG_SEAL).toNat then s.cmdRefused R.BRAKE.base
  else
    let n := s.sess.log.length
    let crc := s.rg R.BRAKE.LOG_SEAL
    let s1 := (s.setSess (fun x => { x with log := [], chain := crc })).putBit R.BRAKE.STAT 7 false
    (s1.specialEntry 4 (BitVec.ofNat 32 n) crc).bwPost 0x09 (2 + n % 2 ^ 16 * 2 ^ 16) 0x20
/-- PT_OPEN (R485). -/
def State.ptOpen (s : State) (m : Master) : State :=
  if !s.sessOwner m || s.dev.st == .run || s.sess.proof then s.cmdRefused R.BRAKE.base
  else if s.logFull then s.logRefuse R.BRAKE.base
  else
    let f1 := s.free
    let f2 := f1.2.free
    let s1 := (f2.2.specialEntry 2 (f1.1.truncate 32) (f2.1.truncate 32)).setSess (fun x => { x with proof := true, proofAt := s.now })
    let s2 := (s1.setRg R.BRAKE.STO_CMD 0).setBw (fun b => { b with kick := none })
    let s3 := if s2.coreState 32 = 1 then (s2.setCr 32 (fun k => { k with stall := false })).haltNow 32 0 0 else s2
    (s3.bwPost 0x0B 1 0).bwSync
/-- PT_CLOSE (R485). -/
def State.ptClose (s : State) (m : Master) : State :=
  if !s.sessOwner m || !s.sess.proof then s.cmdRefused R.BRAKE.base
  else if s.logFull then s.logRefuse R.BRAKE.base
  else s.proofEntry.proofEnd
/-- A write of `SESS_CMD`: one command per write; `PW_DATA` is cleared after it (R481, R482, R484, R485). -/
def State.writeSessCmd (s : State) (m : Master) (v : Nat) : State :=
  let len := bitsN v 13 8
  let s1 := match bitsN v 5 0 with
    | 1 => s.sessOpen m len
    | 2 => s.sessClose m
    | 4 => s.setPw' m len
    | 8 => s.sealLog m
    | 16 => s.ptOpen m
    | 32 => s.ptClose m
    | _ => s.cmdRefused R.BRAKE.base
  s1.setSess (fun x => { x with pwData := Vector.replicate 8 0 })

/-- SESSION_OPEN (R481). -/
def execSessionOpen (t : Time) (m : Master) (len : Fin 64) (s : State) : Host.Outcome State Fault Refusal :=
  .next ((s.tick t).onPage R.BRAKE.base (fun s => s.writeSessCmd m (1 + len.val * 2 ^ 8)))
/-- PASSWORD_VERIFIED (R481). -/
def execPasswordVerified (t : Time) (s : State) : Host.Outcome State Fault Refusal := .next (s.tick t).sessVerified
/-- LOCKOUT_END (R481). -/
def execLockoutEnd (t : Time) (s : State) : Host.Outcome State Fault Refusal :=
  let s := s.tick t
  .next (if s.lockedOut then s else s.setSess (fun x => { x with lockout := none }))
/-- SESSION_CLOSE (R482). -/
def execSessionClose (t : Time) (m : Master) (s : State) : Host.Outcome State Fault Refusal :=
  .next ((s.tick t).onPage R.BRAKE.base (fun s => s.writeSessCmd m 2))
/-- SESSION_TIMEOUT (R482). -/
def execSessionTimeout (t : Time) (s : State) : Host.Outcome State Fault Refusal :=
  let s := s.tick t
  .next (if s.sess.state = .opened ∧ s.sess.since + sec (s.fld R.BRAKE.SESS_TMO 15 0) ≤ s.now then s.sessEnd 2 else s)
/-- SET_PW (R482). -/
def execSetPw (t : Time) (m : Master) (len : Fin 64) (s : State) : Host.Outcome State Fault Refusal :=
  .next ((s.tick t).onPage R.BRAKE.base (fun s => s.writeSessCmd m (4 + len.val * 2 ^ 8)))
/-- SEAL (R484). -/
def execSeal (t : Time) (m : Master) (s : State) : Host.Outcome State Fault Refusal :=
  .next ((s.tick t).onPage R.BRAKE.base (fun s => s.writeSessCmd m 8))
/-- PT_OPEN (R485). -/
def execPtOpen (t : Time) (m : Master) (s : State) : Host.Outcome State Fault Refusal :=
  .next ((s.tick t).onPage R.BRAKE.base (fun s => s.writeSessCmd m 16))
/-- PT_CLOSE (R485). -/
def execPtClose (t : Time) (m : Master) (s : State) : Host.Outcome State Fault Refusal :=
  .next ((s.tick t).onPage R.BRAKE.base (fun s => s.writeSessCmd m 32))

/-! ### The BRAKE page (R488, R489) -/

/-- A safety change log entry that the island makes for a write of FLEVEL goes with the value that results (R470). -/
def State.writeFlevel (s : State) (m : Option Master) (i v : Nat) : State :=
  let old := s.rg (R.BRAKE.FLEVEL i)
  (s.bwWrite m (R.BRAKE.FLEVEL i) (flevelWritten i old (BitVec.ofNat 32 v)).toNat)
/-- Writes to the BRAKE page with a meaning of their own, by a master or by the pair. -/
def State.brakeHook (s : State) (m : Option Master) (off v : Nat) : Option State :=
  let sl := s.bwSel m
  let sel (f : Selectors → Selectors) : State := match m with
    | some m => s.setSel m f
    | none => { s with sels := tset {} s.sels 7 (f sl) }
  if off = 0x48 then some (s.pairOnly m (fun s => s.writeStoCmd v))
  else if off = 0x4c then some (s.pairOnly m State.stoKick)
  else if off = 0x60 then some (s.writeFclr m v)
  else if off = 0x70 then some (s.bwWrite m R.BRAKE.SG_MEMBERS v).sgEval
  else if off = 0x74 then some (s.bwWrite m R.BRAKE.SG_CTRL v).sgEval
  else if 0xa0 ≤ off ∧ off < 0xc0 then some (s.pairOnly m (fun s => s.writePreq ((off - 0xa0) / 4) v))
  else if 0xe0 ≤ off ∧ off < 0x100 then some (s.pairOnly m (fun s => s.smFlagsClear ((off - 0xe0) / 8) v))
  else if 0x100 ≤ off ∧ off < 0x120 then some (s.writeFlevel m ((off - 0x100) / 4) v)
  else if off = 0x120 then some (if v % 64 < 48 then sel (fun x => { x with smsel := v % 64 }) else s.cfgRefused R.BRAKE.base)
  else if off = 0x124 then some (sel (fun x => { x with csel := v % 32 }))
  else if 0x140 ≤ off ∧ off < 0x160 then
    some (s.setSess (fun x => { x with pwData := vupd x.pwData ((off - 0x140) / 4) (fun _ => BitVec.ofNat 32 v) }))
  else if off = 0x164 then (match m with
    | some m => some (s.writeSessCmd m v)
    | none => some (s.cmdRefused R.BRAKE.base))
  else if off = 0x200 then some (s.writeSmCfg m sl.smsel v)
  else if 0x200 < off ∧ off < 0x224 then some (s.bwWrite m (R.SM.base sl.smsel + off) v)
  else if 0x400 ≤ off ∧ off < 0x440 then some (s.writeConn m sl.csel off v)
  else if 0xc00 ≤ off ∧ off < 0x1000 then some (s.pairOnly m (fun s => s.setRg (R.BRAKE.base + off) (BitVec.ofNat 32 v)))
  else none

/-- `PG_ERRINJ` of the BRAKE page is usable only in a proof-test session; bit 17 begins a disagreement of 3 us on channel A
(R485, R489). -/
def State.brakeInject (s : State) : State :=
  if !s.sess.proof then s.setRg (R.PG_ERRINJ R.BRAKE.base) 0
  else if s.bit (R.PG_ERRINJ R.BRAKE.base) 17 ∧ s.bw.injAt.all (fun x => decide (x + us 3 ≤ s.now)) then
    s.setBw (fun b => { b with injAt := some s.now })
  else s

/-- The words of the BRAKE page that follow the island. -/
def State.brakeLive (s : State) (sl : Selectors) (off : Nat) : Option Word :=
  if off = 0x44 then
    let rel := s.bw.chA && s.bw.chB
    let pair := match s.coreState 32 with | 3 => 2 | 4 => 3 | _ => b2n (s.cr 32).stall
    some (BitVec.ofNat 32 (s.bw.dev + b2n rel * 8 + b2n s.bw.chA * 2 ^ 4 + b2n s.bw.chB * 2 ^ 5 + b2n s.sess.pwHash.isSome * 2 ^ 6 +
      s.fld R.BRAKE.STAT 7 7 * 2 ^ 7 + b2n s.sess.proof * 2 ^ 8 + pair * 2 ^ 9 + s.bw.lastL4 * 2 ^ 16))
  else if off = 0x68 ∨ off = 0x6c then
    some (wordOf (off == 0x6c) (maskOf 64 (fun c => s.bw.faults.any (fun f => f.code == c))))
  else if off = 0x120 then some (BitVec.ofNat 32 sl.smsel)
  else if off = 0x124 then some (BitVec.ofNat 32 sl.csel)
  else if off = 0x128 then some (BitVec.ofNat 32 (vget s.weir.queues 7).length)
  else if off = 0x168 then
    let st := match s.sess.state with | .none => 0 | .verifying => 1 | .opened => 2
    let left := match s.sess.lockout with
      | some t => if s.lockedOut then cdiv (t + sec 60 - s.now) (sec 1) else 0
      | none => 0
    let own := if s.sess.state = .opened then s.sess.owner.code else 0
    some (BitVec.ofNat 32 (st + own * 4 + b2n s.sess.lastFail * 2 ^ 5 + b2n s.lockedOut * 2 ^ 6 + s.sess.fails * 2 ^ 8 + left * 2 ^ 16))
  else if off = 0x170 then some (BitVec.ofNat 32 s.sess.log.length)
  else if off = 0x17c then some (BitVec.ofNat 32 (s.diagHours + s.fld R.BRAKE.DIAG_STAT 16 16 * 2 ^ 16))
  else if 0x180 ≤ off ∧ off < 0x1a0 then
    some ((s.sess.log.getD (s.fld R.BRAKE.LOG_IDX 9 0) []).getD ((off - 0x180) / 4) 0)
  else none

end Sys2Proof.Machine
end

