-- ==== Sys2Proof/Machine/Rings.lean ====
section
/-! DEFINITION. The rings of the host interface: tags, completions, the event ring, frame buffers, interrupts and the
HOST and SPI pages (R493 to R513). -/

namespace Sys2Proof.Machine

/-! ### Fetching and completing (R493, R496, R499 to R502) -/

/-- Completions that ring `r` owes (R496). -/
def State.owed (s : State) (r : Nat) : Nat := (s.host.cmds.filter (fun c => c.ring == r && !c.aborted)).length
/-- CQ `r` has room for one more than it owes (R496). -/
def State.cqRoom (s : State) (r : Nat) : Bool :=
  let late := b2n (match s.host.late with | some x => x.2.1 == r | none => false)
  decide ((vget s.host.cq r).length + s.owed r + late + (s.host.aborts.filter (fun x => x.1 == r)).length + 1 < s.ringSize r)
/-- The fetcher may take a descriptor of ring `r` (R493, R496). -/
def State.canFetch (s : State) (r : Nat) : Bool :=
  s.bit (R.HOST.SQ_CFG r) 0 && s.hostOk && s.fld (R.HOST.SQ_TAIL r) 11 0 % s.ringSize r != s.fld (R.HOST.SQ_HEAD r) 11 0 && s.cqRoom r
/-- The ring whose descriptor the fetcher takes next, and how many it has taken there before (R493). -/
def State.nextRing (s : State) : Option (Nat × Nat) :=
  let r := s.host.ring
  if s.host.took < nz (s.fld (R.HOST.SQ_CFG r) 11 8) ∧ s.canFetch r then some (r, s.host.took)
  else (((List.range 8).map (fun i => (r + 1 + i) % 8)).find? (fun i => s.canFetch i)).map (fun i => (i, 0))

/-- DESCRIPTOR_FETCH: the fetcher takes a descriptor, whose words it has read from host memory (R493, R499). -/
def State.fetchDesc (s : State) (d : List Word) : State :=
  match s.nextRing with
  | none => s
  | some (r, k) =>
    let w := (d.getD 0 0).toNat / 2 ^ 16
    let s1 := (s.setRg (R.HOST.SQ_HEAD r) (BitVec.ofNat 32 ((s.fld (R.HOST.SQ_HEAD r) 11 0 + 1) % s.ringSize r))).setHost
      (fun h => { h with ring := r, took := k + 1 })
    let s2 := s1.lateDesc
    if (s2.tag (tagIdx w)).st = 2 then s2.setHost (fun h => { h with late := some (hclkEdge s.now, r, d) }) else s2.judgeDesc r d
/-- DESCRIPTOR_FETCH (R499). -/
def execDescriptorFetch (t : Time) (d : Vector Word 8) (s : State) : Host.Outcome State Fault Refusal :=
  .next ((s.tick t).fetchDesc d.toList)

/-- The place of the command of ring `r` with an opcode that goes on or starts next: commands of a ring start in ring
order, and one with FENCE once every earlier one has completed (R493, assumption log 175). -/
def State.nextCmd (s : State) (r op : Nat) : Option Nat :=
  match s.host.cmds.findIdx? (fun c => c.ring == r && c.ended.isNone && (c.desc.getD 0 0).toNat % 2 ^ 8 == op) with
  | none => none
  | some i =>
    let c := s.host.cmds.getD i default
    let before := (s.host.cmds.take i).filter (fun c => c.ring == r)
    let may := before.all (fun c => c.started || c.ended.isSome) && (!wbit (c.desc.getD 0 0) 8 || before.isEmpty)
    if c.started || may then some i else none
/-- COMMAND_COMPLETION: the oldest command of ring `r` that has ended completes; an aborted one's completion is dropped
and counted (R496, R502). ABORTED completions that waited for the PCIe PLL come first (R525). -/
def State.complete (s : State) (r : Nat) : State :=
  match (if s.hostOk then s.host.aborts.find? (fun x => x.1 == r) else none) with
  | some x => (s.setHost (fun h => { h with aborts := h.aborts.erase x })).postCq r x.2.1 1 x.2.2 none none
  | none =>
  match s.host.cmds.findIdx? (fun c => c.ring == r && c.ended.isSome) with
  | none => s
  | some i =>
    let c := s.host.cmds.getD i default
    if c.aborted then ((s.dropCmd i).count R.HOST.TAG_ERR 15 0 1).irq R.HOST.base 2
    else if !s.hostOk then s
    else (s.dropCmd i).postOwn c (c.ended.getD ⟨0, 0, none⟩)
/-- COMMAND_COMPLETION (R496). -/
def execCommandCompletion (t : Time) (r : Fin 8) (s : State) : Host.Outcome State Fault Refusal :=
  .next ((s.tick t).complete r)

/-- The index of a tag word becomes FREE with the next generation (R500). -/
def State.freeTag (s : State) (i : Nat) : State := s.setTag i { gen := ((s.tag i).gen + 1) % 8 }
/-- A write of `CQ[r].HEAD` (R500). -/
def State.ackCq (s : State) (r v : Nat) : State :=
  let n := s.ringSize r
  let h := s.fld (R.HOST.CQ_HEAD r) 11 0
  let d := (v % 4096 + n - h % n) % n
  let l := vget s.host.cq r
  if n ≤ v % 4096 ∨ l.length < d then s.cfgRefused R.HOST.base
  else
    let s1 := (l.take d).foldl (fun (s : State) o => match o with | some i => s.freeTag i | none => s) s
    ((s1.setRg (R.HOST.CQ_HEAD r) (BitVec.ofNat 32 (v % 4096))).setHost (fun h =>
      { h with cq := vupd h.cq r (fun l => l.drop d) })).lateDesc
/-- COMPLETION_ACK (R500). -/
def execCompletionAck (t : Time) (_m : Master) (r : Fin 8) (v : Word) (s : State) : Host.Outcome State Fault Refusal :=
  .next ((s.tick t).onPage R.HOST.base (fun s => s.ackCq r v.toNat))

/-- A write of `HOST.ABORT`: judged at once, or, for a command that has ended, after the completions of its HCLK edge
(R501, R502). -/
def State.abortTag (s : State) (w : Nat) : State :=
  let ended := (s.abortee w).any (fun k => (s.host.cmds.getD k default).ended.isSome)
  if (s.tag (tagIdx w)).st = 1 ∧ (s.tag (tagIdx w)).gen = tagGen w ∧ ended then
    s.setHost (fun h => { h with abortDue := h.abortDue ++ [(hclkEdge s.now, w)] })
  else s.abortJudge w
/-- TAG_ABORT (R501). -/
def execTagAbort (t : Time) (_m : Master) (v : Word) (s : State) : Host.Outcome State Fault Refusal :=
  .next ((s.tick t).onPage R.HOST.base (fun s => s.abortTag (v.toNat % 2 ^ 16)))
/-- TAG_QUARANTINE_END (R501). -/
def execTagQuarantineEnd (t : Time) (i : Fin 8192) (s : State) : Host.Outcome State Fault Refusal :=
  let s := s.tick t
  let x := s.tag i
  .next (if x.st = 3 ∧ x.at_ + ms 2 ≤ s.now then s.setTag i { x with st := 0, at_ := 0 } else s)
/-- SQ_DOORBELL: a write of `SQ[r].TAIL` (R493). -/
def execSqDoorbell (t : Time) (m : Master) (r : Fin 8) (v : Word) (s : State) : Host.Outcome State Fault Refusal :=
  .next ((s.tick t).onPage R.HOST.base (fun s => s.writeReg m R.HOST.base (R.HOST.SQ_TAIL r) v.toNat))

/-! ### Event ring and frame buffers (R497, R498) -/

/-- EVENT_RING_WRITE: records of Q4 go to the event ring while it has room, and the tail is written back (R497). -/
def State.eventRing (s : State) : State :=
  let n := 2 ^ clampN 4 12 (s.fld R.HOST.EV_CFG 4 1)
  let h := s.fld R.HOST.EV_HEAD 11 0 % n
  let t := s.fld R.HOST.EV_TAIL 11 0
  let room := (h + n - t - 1) % n
  let es := (vget s.weir.queues 4).take room
  if s.bit R.HOST.EV_CFG 0 = false ∨ s.hostOk = false ∨ es.isEmpty then s
  else
    let s1 := (es.zipIdx).foldl (fun (s : State) x =>
      s.hostWords (s.rg64 R.HOST.EV_BASE + 16 * ((t + x.2) % n)) ((List.range 4).map (fun i => x.1.word i))) s
    let nt := BitVec.ofNat 32 ((t + es.length) % n)
    let s2 := (s1.setRg R.HOST.EV_TAIL nt).hostWords (s.rg64 R.HOST.EV_WB) [nt]
    ({ s2 with weir := { s2.weir with queues := vupd s2.weir.queues 4 (fun q => q.drop es.length) } }).msiEntry 8
/-- EVENT_RING_WRITE (R497). -/
def execEventRingWrite (t : Time) (s : State) : Host.Outcome State Fault Refusal := .next (s.tick t).eventRing
/-- A frame of race `f` goes to the host's frame ring; `buf` is the buffer address that the next entry holds (R498). -/
def State.frDeliver (s : State) (f port : Nat) (b : List Byte) (stamp : Time) (buf : DWord) : State :=
  let n := 2 ^ clampN 4 12 (s.fld (R.HOST.FR_CFG f) 4 1)
  let h := s.fld (R.HOST.FR_HEAD f) 11 0
  if s.bit (R.HOST.FR_CFG f) 0 = false then s
  else if s.hostOk = false ∨ h = s.fld (R.HOST.FR_TAIL f) 11 0 % n then (s.count (R.HOST.FR_DROP f) 15 0 1).irq R.HOST.base 0x20
  else
    let e := s.rg64 (R.HOST.FR_BASE f) + 32 * h
    let s1 := s.hostWrite buf.toNat b
    let s2 := s1.hostWords (e + 8) [BitVec.ofNat 32 (b.length % 2 ^ 11 + port * 2 ^ 11 + 2 ^ 15)]
    let s3 := s2.hostWords (e + 16) [BitVec.ofNat 32 stamp, BitVec.ofNat 32 (stamp >>> 32)]
    (s3.setRg (R.HOST.FR_HEAD f) (BitVec.ofNat 32 ((h + 1) % n))).msiEntry (9 + f)
/-- FR_TAIL_WRITE (R498). -/
def execFrTailWrite (t : Time) (m : Master) (f : Fin 2) (v : Word) (s : State) : Host.Outcome State Fault Refusal :=
  .next ((s.tick t).onPage R.HOST.base (fun s => s.writeReg m R.HOST.base (R.HOST.FR_TAIL f) v.toNat))

/-- A write of `VEC_EOI` (R505). -/
def State.vecEoi (s : State) (v : Nat) : State := if 12 ≤ v % 64 ∧ bitN s.host.vecs (v % 64) then s.msiSend (v % 64) else s
/-- VEC_EOI (R505). -/
def execVecEoi (t : Time) (_m : Master) (v : Word) (s : State) : Host.Outcome State Fault Refusal :=
  .next ((s.tick t).onPage R.HOST.base (fun s => s.vecEoi v.toNat))

/-! ### The link (R490, R494) -/

/-- Link down, hot reset or function level reset: rings off, commands stopped, tags quarantined, and the registers of the
HOST page at their reset values; a hot or function level reset leaves the link as it is (R494). -/
def State.pcieReset (s : State) (down : Bool) : State :=
  let stat := s.rg R.HOST.STAT
  let tags := s.host.tags.foldl (fun (l : List (Nat × Tag)) p =>
    if p.2.st = 0 then l else tset {} l p.1 (if p.2.st = 3 then p.2 else { gen := (p.2.gen + 1) % 8, st := 3, at_ := s.now })) s.host.tags
  let late := (s.host.cmds.filter (fun c => c.ended.isSome)).length
  let keep := (s.host.cmds.filter (fun c => c.started && c.ended.isNone)).map (fun c => { c with aborted := true })
  let s1 := { s.setPage R.HOST.base (fun _ => {}) with
    regs := s.regs.filter (fun p => pageOf p.1 != R.HOST.base)
    host := { tags := tags, cmds := keep, sent := s.host.sent } }
  let s2 := s1.setRg R.HOST.STAT (if down then stat &&& 0xffffff80 else stat)
  let s3 := if late = 0 then s2 else (s2.count R.HOST.TAG_ERR 15 0 late).irq R.HOST.base 2
  if down ∧ wbit stat 0 then s3.irq R.HOST.base 8 else s3
/-- PCIE_RESET (R494). -/
def execPcieReset (t : Time) (down : Bool) (s : State) : Host.Outcome State Fault Refusal := .next ((s.tick t).pcieReset down)
/-- The endpoint answers a configuration request with Configuration Request Retry Status: until P6 (R492). -/
def State.configRetry (s : State) : Bool := !s.up
/-- PCIE_LINK_UP: the link comes up at a generation and a width of 1, 2 or 4 lanes (R490, R511, R512). -/
def execPcieLinkUp (t : Time) (gen : Fin 4) (width : Fin 3) (s : State) : Host.Outcome State Fault Refusal :=
  let s := s.tick t
  let v := s.putFld R.HOST.STAT 6 0 (1 + (gen.val + 1) * 2 + 2 ^ width.val * 2 ^ 4)
  .next (if s.pcieUp then v else v.irq R.HOST.base 8)

/-! ### Registers (R511, R512) -/

/-- The ring is idle: HEAD = TAIL and nothing is owed (R511). -/
def State.ringIdle (s : State) (r : Nat) : Bool :=
  s.fld (R.HOST.SQ_HEAD r) 11 0 == s.fld (R.HOST.SQ_TAIL r) 11 0 % s.ringSize r && s.owed r == 0 && s.host.aborts.all (fun x => x.1 != r)
/-- A base or configuration register of a ring (R511): written while its EN = 0; EN is cleared only while it is idle. -/
def State.writeRing (s : State) (m : Master) (a cfg v : Nat) (idle : Bool) : State :=
  if s.bit cfg 0 then
    (if a = cfg ∧ !bitN v 0 ∧ idle ∧ (s.rg cfg).toNat - 1 = v then s.writeReg m R.HOST.base a v else s.cfgRefused R.HOST.base)
  else s.writeReg m R.HOST.base a v
/-- Writes to the HOST page with a meaning of their own. -/
def State.hostHook (s : State) (m : Master) (off v : Nat) : Option State :=
  if off = 0x4c then some (s.abortTag (v % 2 ^ 16))
  else if off = 0x5c then some (s.vecEoi v)
  else if off = 0x60 ∨ off = 0x68 ∨ off = 0x70 then
    some (s.writeRing m (R.HOST.base + off) R.HOST.EV_CFG v (s.fld R.HOST.EV_HEAD 11 0 == s.fld R.HOST.EV_TAIL 11 0))
  else if 0x80 ≤ off ∧ off < 0x280 then
    let r := (off - 0x80) / 0x40
    (match (off - 0x80) % 0x40 with
     | 0x00 | 0x08 => some (s.writeRing m (R.HOST.base + off) (R.HOST.SQ_CFG r) v (s.ringIdle r))
     | 0x10 => some (if bitsN v 6 5 = 0 then s.cfgRefused R.HOST.base
         else s.writeRing m (R.HOST.base + off) (R.HOST.SQ_CFG r) v (s.ringIdle r))
     | 0x1c => some (s.ackCq r v)
     | _ => none)
  else if 0x280 ≤ off ∧ off < 0x2c0 then
    let f := (off - 0x280) / 0x20
    (match (off - 0x280) % 0x20 with
     | 0x00 | 0x08 => some (s.writeRing m (R.HOST.base + off) (R.HOST.FR_CFG f) v
         (s.fld (R.HOST.FR_HEAD f) 11 0 == s.fld (R.HOST.FR_TAIL f) 11 0))
     | _ => none)
  else if 0x800 ≤ off ∧ off < 0xc00 then
    let s1 := s.setRg (R.HOST.base + off) (BitVec.ofNat 32 v)
    some (if bitN s1.host.pba ((off - 0x800) / 16) then s1.msiSend ((off - 0x800) / 16) else s1)
  else none
/-- The words of the HOST page that follow the tags and the vectors. -/
def State.hostLive (s : State) (off : Nat) : Option Word :=
  if off = 0x44 then
    some (BitVec.ofNat 32 ((s.host.tags.filter (fun p => p.2.st == 1 || p.2.st == 2)).length +
      (s.host.tags.filter (fun p => p.2.st == 3)).length * 2 ^ 16))
  else if off = 0x58 then some (BitVec.ofNat 32 (if s.now = s.dev.rel then 0 else (Config.fabricLoad s.now).val))
  else if 0x800 ≤ off ∧ off < 0xc00 then some (s.rg (R.HOST.base + off))
  else if off = 0xc00 ∨ off = 0xc04 then some (wordOf (off == 0xc04) s.host.pba)
  else none

/-! ### The SPI port (R507 to R509, R513) -/

/-- The CRC-8 of an SPI frame over its first 64 clocks (R507). -/
def spiCrc (v : Nat) : Nat := crcMsb 8 0x07 0 (bitsMsb 64 v)
/-- What a frame whose first clock comes at `first` shifts out: STATUS, address and data; and the state after a
delivery (R509). -/
def State.spiOut (s : State) (first : Time) : DWord × State :=
  let code := s.spi.code
  let low := (if code = 0 then 0 else 4) + code * 16
  let word (st a d : Nat) : DWord := BitVec.ofNat 64 (st * 2 ^ 56 + a * 2 ^ 32 + d)
  match s.spi.read with
  | some (a, d, some at_) =>
    if at_ < first then (word (low + 1) a d.toNat, { s with spi := { s.spi with read := none } }) else (word (low + 2) 0 0, s)
  | some (_, _, none) => (word (low + 2) 0 0, s)
  | none => (word low 0 0, s)
/-- A frame is discarded with a code (R508). -/
def State.spiDiscard (s : State) (code : Nat) : State :=
  let s1 := ({ s with spi := { s.spi with code := code } }).putFld R.SPI.STAT 6 4 code
  let s2 := match code with
    | 1 => s1.count R.SPI.ERRCNT 7 0 1
    | 2 => s1.count R.SPI.ERRCNT 15 8 1
    | 3 => s1.count R.SPI.ERRCNT 23 16 1
    | 4 => s1.count R.SPI.ERRCNT 31 24 1
    | 5 => s1.count R.SPI.ERRCNT2 7 0 1
    | _ => s1.count R.SPI.ERRCNT2 15 8 1
  s2.irq R.SPI.base 1
/-- The discard code of a frame, 0 for an accepted one (R508, R513). -/
def State.spiJudge (s : State) (clocks mosi : Nat) (idle : Bool) : Nat :=
  let v := mosi / 256
  let op := bitsN v 63 56
  if clocks < 72 then 1 else if 72 < clocks then 2 else if !idle then 3
  else if s.bit (R.PG_ERRINJ R.SPI.base) 16 ∨ spiCrc v ≠ mosi % 256 then 4
  else if 2 < op then 5 else if op = 1 ∧ s.spi.read.isSome then 6 else 0
/-- The words of the SPI page that follow the port. -/
def State.spiLive (s : State) (off : Nat) : Option Word :=
  if off = 0x40 then some (wput (s.rg R.SPI.STAT) 1 1 (b2n s.spi.read.isSome)) else none

end Sys2Proof.Machine
end

