-- ==== Sys2Proof/Machine/Ether.lean ====
section
/-! DEFINITION. What reaches the device over the races: delivery by EtherType, Fantail, the race redundancy and axis
broadcast frames (R421 to R448). -/

namespace Sys2Proof.Machine

/-! ### Fantail (R425 to R429) -/

/-- The message type of a PTP frame (R422, assumption log 83). -/
def ptpType (b : List Byte) : Nat := beAt b (payAt b) 1 % 16
/-- The frame is a PTP frame of a type. -/
def isPtp (b : List Byte) (typ : Nat) : Bool := etype b == 0x88F7 && ptpType b == typ
/-- Domain `r` is tracked. -/
def State.tracked (s : State) (r : Nat) : Bool := s.bit (R.PTP.FT_STAT r) 0
/-- `FT_CFG.LOG_SYNC`. -/
def State.logSync (s : State) (r : Nat) : Int := sx 8 (s.fld (R.PTP.FT_CFG r) 15 8)
/-- How many sync intervals have passed since the latest Sync or origination of a domain. -/
def State.missed (s : State) (r : Nat) : Nat :=
  match (s.raceOf r).lastSync with
  | some t =>
    let dt := s.now - t
    let k := s.logSync r
    if 0 ≤ k then dt / (sec 1 * 2 ^ k.toNat) else dt * 2 ^ (-k).toNat / sec 1
  | none => 0
/-- The loss of a domain is due (R428). -/
def State.lossDue (s : State) (r : Nat) : Bool :=
  s.tracked r && decide (nz (s.fld (R.PTP.FT_CFG r) 19 16) ≤ s.missed r)

/-- Redundancy is on. -/
def State.redEn (s : State) : Bool := s.bit (R.PTP.RED_CTRL 0) 0
/-- `RED_CTRL.DETECT`. -/
def State.redDetect (s : State) : Nat := s.fld (R.PTP.RED_CTRL 0) 2 1
/-- `RED_N`. -/
def State.redN (s : State) : Nat := nz (s.fld (R.PTP.RED_CTRL 0) 7 4)
/-- The active race. -/
def State.active (s : State) : Nat := s.fld (R.PTP.RED_STAT 0) 0 0
/-- The `FAIL` bit of a race. -/
def State.raceBad (s : State) (r : Nat) : Bool := s.bit (R.PTP.RED_STAT 0) (1 + r)
/-- A drill runs. -/
def State.drilling (s : State) : Bool := s.bit (R.PTP.RED_STAT 0) 4
/-- Traffic is doubled. -/
def State.doubled (s : State) : Bool := s.bit (R.PTP.RED_STAT 0) 3
/-- The redundancy state changed. -/
def State.setRed (s : State) (f : RedSt → RedSt) : State := { s with red := f s.red }
/-- The latest instant at which a failure condition of a race held. -/
def State.badNow (s : State) (r : Nat) : State :=
  s.setRed (fun x => if r = 0 then { x with badA := s.now } else { x with badB := s.now })
/-- A failure condition of R435 that stands: a watched link down for RED_N cycles, or the domain lost. -/
def State.selfBad (s : State) (r : Nat) : Bool :=
  s.redEn && (s.redDetect == 1 || s.redDetect == 2) && ((s.raceOf r).lost ||
    [2 * r, 2 * r + 1].any (fun n => s.bit (R.ETH.CTRL n) 4 && decide (s.redN ≤ vget s.red.down n)))
/-- A sync interval of a domain ends with an offset in 2^-36 ns (R427, R428, R445). -/
def State.domainSync (s : State) (r : Nat) (ofs : Int) : State :=
  let o16 := openRound ((ofs : Rat) / (2 ^ 20 : Nat))
  let s0 : State := if s.selfBad r then s.badNow r else s
  let s1 := (s0.setRg64 (R.PTP.FT_OFFSET r) (ux 64 o16)).setRace r
    (fun x => { x with lastSync := some s.now, lost := false })
  let s2 := if s.tracked r then s1
    else ((s1.putBit (R.PTP.FT_STAT r) 0 true).postNow srcTime 0x21 r).irq (R.PTP.base r) 1
  let s3 := s2.postNow srcTime 0x22 (r + ux 32 (satI 32 (openRound ((ofs : Rat) / (2 ^ 36 : Nat)))) * 2 ^ 16)
  if s.sel = (r == 1) then
    let x := ofs + 16 * s3.time.cAt (edgeOf s.now)
    s3.syncInterval (if 0 ≤ x then -((-x).fdiv 16) else x.fdiv 16)
  else s3
/-- A PTP message belongs to the domain of its race (R422). -/
def State.inDomain (s : State) (r : Nat) (b : List Byte) : Bool := beAt b (payAt b + 4) 1 == s.fld (R.PTP.FT_CFG r) 7 0
/-- A Sync that arrived at external port `n` with its ingress stamp (R422, R424, R425, R427): true when it is also
relayed. -/
def State.syncAccept (s : State) (n : Nat) (b : List Byte) (stamp : Time) : State :=
  let r := n / 2
  let h := payAt b
  if s.inDomain r b = false then s
  else if (beAt b (h + 6) 1).testBit 1 then s.count (R.PTP.FT_ERR r) 15 0 1
  else if s.slavePort r ≠ some n then s
  else if !s.asCapable n then s.count (R.PTP.FT_ERR r) 15 0 1
  else
    let d := (s.rg (R.ETH.LINK_DELAY n)).toNat
    let origin : Int := ((beAt b (h + 34) 6 * 1000000000 + beAt b (h + 40) 4 : Nat) : Int)
    let master := origin * 2 ^ 36 + (sx 64 (beAt b (h + 8) 8) + (d : Int)) * 2 ^ 20
    let s1 := ((s.setRg64 (R.PTP.FT_OFS_GTC r) stamp).putFld (R.PTP.FT_STAT r) 31 16
      (s.fld (R.PTP.FT_STAT r) 31 16 + 1)).domainSync r (s.ptpFine r stamp - master)
    let o := 2 * r + 1 - n % 2
    if s1.ptpRole o = 1 ∧ s1.asCapable o then s1.egress o (.relay stamp d) b (s1.pcpOf n b) else s1
/-- SYNC_ORIGINATE: a grandmaster race sends a Sync on each asCapable master port, with offset 0 (R426, R427). -/
def State.syncOriginate (s : State) (r : Nat) : State :=
  let x := s.raceOf r
  let due : Bool := match x.origLast with
    | some t => passed (s.now - t) (s.logSync r)
    | none => true
  if s.gm r = false ∨ due = false then s else
  let s1 := s.setRace r (fun x => { x with origLast := some s.now, origSeq := (x.origSeq + 1) % 2 ^ 16 })
  let s2 := [2 * r, 2 * r + 1].foldl (fun (s : State) n =>
    if s.ptpRole n = 1 ∧ s.asCapable n then
      let f := s.ptpFrame r 0 x.origSeq 44
      f.2.egress n (.sync x.origSeq) f.1 (s.fld (R.ETH.CTRL n) 7 5)
    else s) s1
  s2.domainSync r 0
/-- SYNC_ORIGINATE (R426). -/
def execSyncOriginate (t : Time) (r : Fin 2) (s : State) : Host.Outcome State Fault Refusal := .next ((s.tick t).syncOriginate r)

/-! ### Redundancy: judging (R434 to R436, R439) -/

/-- A race fails, by comparison (0) or by self-diagnosis (1) (R434, R435, R439). -/
def State.raceFail (s : State) (r kind : Nat) : State :=
  let s0 := (s.badNow r).setRed (fun x => { x with origBad := x.origBad || (s.drilling && x.orig == r) })
  if s.raceBad r then s0 else
  let s1 := ((s0.putBit (R.PTP.RED_STAT 0) (1 + r) true).postNow 0x0D0 0x10 (r + 2 * kind)).irq (R.PTP.base 0) 2
  if s.raceBad (1 - r) then
    (((s1.setRed (fun x => { x with held := false })).postNow 0x0D0 0x13 0).irq (R.PTP.base 0) 0x10).report 0x24 0 0 true 0
  else if s.active = r ∧ !s.drilling then s1.setRed (fun x => { x with held := true })
  else s1
/-- One race is judged bad for a cycle, or both judged without a fault (R434). -/
def State.redJudge (s : State) (num : Nat) (a b : Bool) : State :=
  s.setRed (fun x => { x with cycs := x.cycs.map (fun c => if c.num = num then
    { c with compared := true, badA := c.badA || a, badB := c.badB || b } else c) })
/-- The oldest cycles that have ended and wait for no copy are counted (R434). -/
def State.redFinal (s : State) : State :=
  let done := s.red.cycs.takeWhile (fun c => c.ended && s.red.copies.all (fun x => x.num != c.num || decide (2 ≤ x.race)))
  let s1 := s.setRed (fun x => { x with cycs := x.cycs.drop done.length })
  done.foldl (fun (s : State) c =>
    if !c.compared then s else
    let a := if c.badA then s.red.runA + 1 else 0
    let b := if c.badB then s.red.runB + 1 else 0
    let s1 := s.setRed (fun x => { x with runA := a, runB := b })
    let s2 : State := if c.badA then s1.badNow 0 else s1
    let s3 : State := if c.badB then s2.badNow 1 else s2
    let s4 : State := if s3.redN ≤ s3.red.runA then s3.raceFail 0 0 else s3
    if s4.redN ≤ s4.red.runB then s4.raceFail 1 0 else s4) s1
/-- The comparison key of a frame that is compared: source, EtherType and the key fields (R434). -/
def State.redKey (s : State) (b : List Byte) : Option (List Byte) :=
  let p := b.drop (payAt b)
  let src := (b.drop 6).take 6 ++ beBytes 2 (etype b)
  if etype b = s.fld R.BRAKE.MIR_ETYPE 15 0 then some (src ++ (p.drop 2).take 6)
  else if etype b = s.fld (R.PTP.ABF_ETYPE 0) 15 0 ∧ (beAt p 1 1).testBit 1 then some (src ++ (p.drop 2).take 4)
  else none
/-- A copy that was judged is no partner any more: its sequence number may come again, or has come on its own race (R434,
assumption log 200). -/
def State.redStale (s : State) (r : Nat) (k : List Byte) (c : Copy) : Bool :=
  decide (2 ≤ c.race) && (decide (c.at_ + ms 250 ≤ s.now) || (c.race % 2 == r && c.key == k))
/-- A copy arrives on race `r` (R434). -/
def State.redCompare (s : State) (r : Nat) (b : List Byte) : State :=
  if !s.redEn ∨ s.redDetect = 1 then s else
  match s.redKey b with
  | none => s
  | some k =>
    let s := s.setRed (fun x => { x with copies := x.copies.filter (fun c => !s.redStale r k c) })
    match s.red.copies.findIdx? (fun c => c.race % 2 != r && c.key == k) with
    | some i =>
      let c := s.red.copies.getD i default
      let s1 := s.setRed (fun x => { x with copies := x.copies.eraseIdx i })
      if 2 ≤ c.race then s1
      else (s1.redJudge c.num (c.bytes != b) (c.bytes != b)).redFinal
    | none =>
      let num := s.red.num
      let new : List CycRec := if s.red.cycs.any (fun c => c.num == num) then [] else [{ num := num }]
      s.setRed (fun x => { x with cycs := x.cycs ++ new, copies := x.copies ++ [⟨r, k, b, s.now, num⟩] })
/-- RED_SKEW_EXPIRY: copies whose partners have not come within RED_SKEW (R434). -/
def State.redSkew (s : State) : State :=
  let out := s.red.copies.filter (fun c => decide (c.race < 2) && decide (c.at_ + ns (s.fld (R.PTP.RED_SKEW 0) 19 0) ≤ s.now))
  if out.isEmpty then s else
  let rest := s.red.copies.filter (fun c => !out.contains c)
  let judged := (out.map (fun c => { c with race := c.race + 2 })).reverse ++
    rest.filter (fun c => decide (2 ≤ c.race) && decide (s.now < c.at_ + ms 250))
  let all := rest.filter (fun c => decide (c.race < 2)) ++ judged
  let s1 := s.setRed (fun x => { x with copies := all })
  (out.foldl (fun (s : State) c => s.redJudge c.num (c.race == 1) (c.race == 0)) s1).redFinal
/-- RED_SKEW_EXPIRY (R434). -/
def execRedSkewExpiry (t : Time) (s : State) : Host.Outcome State Fault Refusal := .next (s.tick t).redSkew
/-- RACE_OK: no failure condition of a failed race has held for HOLDOFF (R436). -/
def State.raceOk (s : State) (r : Nat) : State :=
  if !s.raceBad r then s
  else if s.selfBad r then s.badNow r
  else
    let bad := if r = 0 then s.red.badA else s.red.badB
    if s.now < bad + ms (100 * nz (s.fld (R.PTP.RED_CTRL 0) 31 16)) then s
    else
      let s1 := ((s.putBit (R.PTP.RED_STAT 0) (1 + r) false).postNow 0x0D0 0x12 r).irq (R.PTP.base 0) 2
      let s2 := s1.setRed (fun x => { x with held := x.held && s.active != r })
      if s.raceBad (1 - r) then s2.reportClear 0x24 0 else s2
/-- RACE_OK (R436). -/
def execRaceOk (t : Time) (r : Fin 2) (s : State) : Host.Outcome State Fault Refusal := .next ((s.tick t).raceOk r)

/-! ### Domains: loss and selection (R428, R429, R435) -/

/-- DOMAIN_LOST: no Sync for SYNC_LOSS_N intervals; the other clock takes over where its domain is tracked (R428, R429,
R435). -/
def State.domainLost (s : State) (r : Nat) : State :=
  if !s.lossDue r then s else
  let s1 := ((s.putBit (R.PTP.FT_STAT r) 0 false).postNow srcTime 0x20 r).irq (R.PTP.base r) 1
  let s2 := s1.setRace r (fun x => { x with lost := true })
  let other := s2.tracked (1 - r) && !s2.lossDue (1 - r)
  let s3 := if s.sel = (r == 1) ∧ other then s2.selectClock (r == 0) (edgeOf (ceilEdge s.now)) else s2
  let s4 := if other then s3 else s3.setUnsure 2
  if s4.redEn ∧ (s4.redDetect = 1 ∨ s4.redDetect = 2) then s4.raceFail r 1 else s4
/-- DOMAIN_LOST (R428). -/
def execDomainLost (t : Time) (r : Fin 2) (s : State) : Host.Outcome State Fault Refusal := .next ((s.tick t).domainLost r)
/-- `FT_CMD.SELECT`: losses that are due come first (R429). -/
def State.ftSelect (s : State) (r : Nat) : State :=
  let s1 := (s.domainLost 0).domainLost 1
  if s1.tracked r then s1.selectClock (r == 1) (edgeOf (ceilEdge s1.now)) else s1.cmdRefused (R.PTP.base r)
/-- FT_SELECT (R429). -/
def execFtSelect (t : Time) (_m : Master) (r : Fin 2) (s : State) : Host.Outcome State Fault Refusal :=
  .next ((s.tick t).onPage (R.PTP.base r) (fun s => s.ftSelect r))
/-- `FDB_CMD.FLUSH` (R447). -/
def State.fdbFlush (s : State) (r : Nat) : State := s.setRace r (fun x => { x with fdb := [] })
/-- FDB_FLUSH (R447). -/
def execFdbFlush (t : Time) (_m : Master) (r : Fin 2) (s : State) : Host.Outcome State Fault Refusal :=
  .next ((s.tick t).onPage (R.PTP.base r) (fun s => s.fdbFlush r))

/-! ### Links (R445, R448) -/

/-- LINK_UP: a link comes up, at the negotiated speed `slow` or, without auto-negotiation, at SPEED; the loss of a watched
link that stood as a failure condition ends here (R435, R436, R446). -/
def State.linkRise (s : State) (n : Nat) (slow : Bool) : State :=
  let sp := if s.bit (R.ETH.CTRL n) 1 then slow else s.bit (R.ETH.CTRL n) 0
  let s0 := if s.selfBad (n / 2) then s.badNow (n / 2) else s
  let s1 := (s0.putBit (R.ETH.STAT n) 0 true).putBit (R.ETH.STAT n) 1 sp
  let s2 := if s1.linkUp n then s1.setRed (fun x => { x with down := vupd x.down n (fun _ => 0) }) else s1
  if s.linkUp n || !s2.linkUp n then s2 else (s2.ethPost n 0x01 (b2n sp)).irq (R.ETH.base n) 1
/-- LINK_UP (R445). -/
def execLinkUp (t : Time) (n : Fin 4) (slow : Bool) (s : State) : Host.Outcome State Fault Refusal :=
  .next ((s.tick t).linkRise n slow)
/-- LINK_DOWN (R445). -/
def State.linkFall (s : State) (n : Nat) : State :=
  let s1 := s.putBit (R.ETH.STAT n) 0 false
  if s.linkUp n then (s1.ethPost n 0x02 0).irq (R.ETH.base n) 1 else s1
/-- LINK_DOWN (R445). -/
def execLinkDown (t : Time) (n : Fin 4) (s : State) : Host.Outcome State Fault Refusal := .next ((s.tick t).linkFall n)

/-! ### Axis broadcast frames (R441 to R443) -/

/-- The rate of machine time in 2^-32 ns per TCLK edge, with a slew in progress (R57, R62). -/
def State.mtRate (s : State) : Int :=
  let c := s.time.cAt (edgeOf s.now)
  ((s.ptp s.sel).incr : Int) + (if 0 < c then -(slewStep : Int) else if c < 0 then (slewStep : Int) else 0)
/-- The GTC stamp of a machine time in 2^-32 ns, by the relation in force (R335). -/
def State.gtcOf (s : State) (m : Int) : Int :=
  (16 * edgeOf s.now : Nat) + openRound ((16 * (m - s.mt) : Int) / (s.mtRate : Rat))
/-- One enabled remote slot names the device. -/
def State.abfWanted (s : State) (dev : Nat) : Bool :=
  (List.range 16).any (fun r => s.bit (R.WALL.RS_CFG r) 24 && s.fld (R.WALL.RS_CFG r) 15 0 == dev)
/-- An axis broadcast frame is received (R443). -/
def State.abfReceive (s : State) (b : List Byte) : State :=
  let p := b.drop (payAt b)
  let n := beAt p 6 1
  let dev := beAt p 2 2
  let seq := beAt p 4 2
  if !s.bit (R.PTP.ABF_CTRL 0) 1 || beAt p 0 1 != 0x11 || n == 0 || decide (32 < n) || decide (p.length < 8 + 28 * n) ||
      !s.abfWanted dev then s else
  let old := (tget (65536, 0) (s.red.abf) dev : Nat × Time)
  let d := (seq + 65536 - old.1) % 65536
  if old.1 < 65536 ∧ s.now < old.2 + sec 1 ∧ (d = 0 ∨ 32767 < d) then s.count (R.PTP.ABF_DROP 0) 15 0 1
  else if (beAt p 1 1).testBit 0 then s.count (R.PTP.ABF_DROP 0) 31 16 1
  else
    let s1 := s.setRed (fun x => { x with abf := tput x.abf dev (some (seq, s.now)) })
    (List.range n).foldl (fun (s : State) i =>
      let q := p.drop (8 + 28 * i)
      if (beAt q 1 1).testBit 0 then
        s.remoteSample dev (beAt q 0 1 % 64)
          ⟨s.gtcOf ((beAt q 4 8 : Int) * 2 ^ 32 + (beAt q 2 2 : Int) * 2 ^ 16), sx 64 (beAt q 12 8), sx 64 (beAt q 20 8)⟩
      else s) s1
/-- The position, the velocity and the validity that a sample of an axis carries (R442). -/
def State.abfSource (s : State) (a : Nat) (fb : Bool) : (Int × Int × Bool) × State :=
  if fb then
    match (vget s.fbSel a).primary with
    | some n => let v := s.fbSample n s.now; ((v.1, v.2.1, s.posValid n), s)
    | none => ((sx 64 s.free.1.toNat, sx 64 s.free.2.free.1.toNat, false), s.free.2.free.2)
  else let v := s.cmdAt a s.now; ((v.1, v.2, true), s)
/-- One sample of an axis at a cycle instant (R441, R442): its bytes, and the state where an axis has no primary port
and the sample has no value. -/
def State.abfSample (s : State) (a : Nat) : List Byte × State :=
  let fb := bitN (s.rg64 (R.PTP.ABF_SRC 0)) a
  let m := s.mt
  let x := s.abfSource a fb
  (beBytes 1 a ++ beBytes 1 (b2n x.1.2.2 + 2 * b2n fb) ++ beBytes 2 (m.fmod (2 ^ 32) / 2 ^ 16).toNat ++
    beBytes 8 (m.fdiv (2 ^ 32)).toNat ++ beBytes 8 (ux 64 x.1.1) ++ beBytes 8 (ux 64 x.1.2.1), x.2)
/-- The sample of one more axis joins the bytes of a frame (R442). -/
def State.abfPut (x : List Byte × State) (a : Nat) : List Byte × State :=
  (x.1 ++ (x.2.abfSample a).1, (x.2.abfSample a).2)
/-- One axis broadcast frame for some axes (R442). -/
def State.abfFrame (s : State) (as_ : List Nat) : State :=
  let c := s.rg (R.PTP.ABF_CTRL 0)
  let vid := s.rg (R.PTP.ABF_VID 0)
  let seq := s.fld (R.PTP.ABF_SEQ 0) 15 0
  let mac := s.free
  let body := as_.foldl State.abfPut ([], mac.2)
  let tag := if wbit vid 12 then beBytes 2 0x8100 ++ beBytes 2 (wfld c 10 8 * 2 ^ 13 + wfld vid 11 0) else []
  let mask := if wbit c 2 then 3 else s.traffic
  let b := beBytes 6 (bitsN (s.rg64 (R.PTP.ABF_DST 0)) 47 0) ++ beBytes 6 (mac.1.toNat % 2 ^ 48) ++ tag ++
    beBytes 2 (s.fld (R.PTP.ABF_ETYPE 0) 15 0) ++ beBytes 1 0x11 ++ beBytes 1 (b2n s.unsure + 2 * b2n (mask == 3)) ++
    beBytes 2 (s.fld (R.PTP.ABF_DEV_ID 0) 15 0) ++ beBytes 2 seq ++ beBytes 1 as_.length ++ beBytes 1 0 ++ body.1
  ((body.2.putFld (R.PTP.ABF_SEQ 0) 15 0 (seq + 1)).raceSendMask mask b)
/-- ABF_TRANSMIT: the samples of a cycle instant (R441). -/
def State.abfTransmit (s : State) : State :=
  let as_ := (List.range 64).filter (fun a => bitN (s.rg64 (R.PTP.ABF_AXES 0)) a && s.axRun a)
  if !s.bit (R.PTP.ABF_CTRL 0) 0 ∨ as_.isEmpty then s
  else
    let s1 := s.abfFrame (as_.take 32)
    if (as_.drop 32).isEmpty then s1 else s1.abfFrame (as_.drop 32)
/-- A write of `ABF_CTRL` (R441). -/
def State.writeAbf (s : State) (m : Master) (v : Nat) : State :=
  if bitN v 0 ∧ bitsN (s.rg64 (R.PTP.ABF_DST 0)) 47 0 = 0 then s.cfgRefused (R.PTP.base 0)
  else s.writeReg m (R.PTP.base 0) (R.PTP.ABF_CTRL 0) v

/-! ### Redundancy: cycles, switches and drills (R431, R432, R437 to R440) -/

/-- Traffic moves to a race: the event's flags say whether it reverts or drills (R437, R445). -/
def State.raceSwitch (s : State) (new : Nat) (revert drill : Bool) : State :=
  let st := R.PTP.RED_STAT 0
  let s1 := (((s.putFld st 0 0 new).putFld st 31 16 (s.fld st 31 16 + 1)).putBit st 3 true).setRed
    (fun x => { x with double := 2, held := false })
  (s1.postNow 0x0D0 0x11 (new + 2 * b2n revert + 4 * b2n drill)).irq (R.PTP.base 0) 4
/-- A drill ends: 1 pass, 2 fail, 3 aborted (R440). -/
def State.drillDone (s : State) (result : Nat) : State :=
  let st := R.PTP.RED_STAT 0
  let s1 := ((s.putBit st 4 false).putFld st 6 5 result).setRed (fun x => { x with drillAt := none, left := 0, drillBad := false })
  let s2 := (s1.postNow 0x0D0 0x14 result).irq (R.PTP.base 0) 8
  if result = 1 then (s2.setBw (fun b => { b with drill := some s.now })).diagEval else s2
/-- The cycle in progress ends: it counts for the judgement, for double forwarding and for a drill (R432). -/
def State.endCycle (s : State) : State :=
  let d := s.red.double - 1
  let s1 := s.setRed (fun x => { x with
    cycs := x.cycs.map (fun c => if c.num = x.num then { c with ended := true } else c)
    num := x.num + 1, double := d, left := x.left - 1 })
  (if d = 0 then s1.putBit (R.PTP.RED_STAT 0) 3 false else s1).redFinal
/-- Remote slots that have lost their master, as a mask (R335, R440). -/
def State.remoteLost (s : State) : Nat :=
  maskOf 16 (fun r => s.bit (R.WALL.RS_CFG r) 24 && (s.remoteAt r s.now).isNone)
/-- The watched links at the end of a cycle, and the failures of R435. -/
def State.redWatch (s : State) : State :=
  let s1 := s.setRed (fun x => { x with down := (List.range 4).foldl (fun (v : Vector Nat 4) n =>
    vupd v n (fun k => if s.bit (R.ETH.CTRL n) 4 && !s.linkUp n then k + 1 else 0)) x.down })
  [0, 1].foldl (fun (s : State) r => if s.selfBad r then (if s.raceBad r then s.badNow r else s.raceFail r 1) else s) s1
/-- Remote slots that lost their master since the latest cycle instant, as a mask. -/
def State.newlyLost (s : State) : Nat := s.remoteLost &&& (s.remoteLost ^^^ (s.remoteLost &&& s.red.lost0))
/-- Samples arrive during a drill: a slot that had lost its master before them fails it, though it has one again at
the next cycle instant (R440). -/
def State.drillWatch (s : State) : State :=
  if s.drilling then s.setRed (fun x => { x with drillBad := x.drillBad || s.newlyLost != 0 }) else s
/-- A drill in progress at a cycle instant: a remote slot that loses its master fails it; it ends by failure or after
its cycles (R440). -/
def State.drillStep (s : State) : State :=
  let drilled := s.active
  let lost := s.remoteLost
  let bad := s.red.drillBad || s.newlyLost != 0
  let s1 := s.setRed (fun x => { x with lost0 := lost })
  let s2 := if bad then s1.raceFail drilled 1 else s1
  let stay := s2.raceBad s.red.orig || s2.red.origBad
  if s2.raceBad drilled then (if s2.raceBad s.red.orig then s2 else s2.raceSwitch s.red.orig false true).drillDone 2
  else if s2.red.left = 0 then (if stay then s2 else s2.raceSwitch s.red.orig false true).drillDone 1
  else s2
/-- An accepted drill begins at the first cycle instant at least 1 us after its write (R440). -/
def State.drillBegin (s : State) : State :=
  match s.red.drillAt with
  | none => s
  | some t =>
    if s.now < t + us 1 ∨ s.red.double ≠ 0 then s
    else if s.raceBad (1 - s.active) then s.drillDone 3
    else
      let s1 := s.setRed (fun x => { x with drillAt := none, orig := s.active, left := nz (s.fld (R.PTP.DRILL_CFG 0) 15 0),
                                            lost0 := s.remoteLost, drillBad := false, origBad := false })
      (s1.raceSwitch (1 - s.active) false true).putBit (R.PTP.RED_STAT 0) 4 true
/-- Switches of a cycle instant (R437 to R440). -/
def State.redSwitches (s : State) : State :=
  if !s.redEn then s
  else if s.drilling then s.drillStep
  else if s.red.double ≠ 0 then s
  else if s.red.held then s.raceSwitch (1 - s.active) false false
  else
    let pref := s.fld (R.PTP.RED_CTRL 0) 3 3
    if s.active ≠ pref ∧ !s.raceBad pref ∧ (s.red.prefAt = 0 ∨ s.red.prefAt + us 1 ≤ s.now) then s.raceSwitch pref true false
    else s.drillBegin
/-- RED_CYCLE_INSTANT: machine time has reached the next multiple of RED_CYCLE (R431). -/
def State.redCycle (s : State) : State :=
  let c := nz (s.fld (R.PTP.RED_CYCLE 0) 27 0)
  let now_ := (s.mt.fdiv (2 ^ 32)).toNat
  let at_ := now_ / c * c
  if at_ < s.red.next then s else
  (((s.setRed (fun x => { x with next := at_ + 1 })).endCycle.redWatch).redSwitches).abfTransmit
/-- RED_CYCLE_INSTANT (R431). -/
def execRedCycleInstant (t : Time) (s : State) : Host.Outcome State Fault Refusal := .next (s.tick t).redCycle
/-- A step of machine time ends the cycle in progress (R432). -/
def State.redStep (s : State) : State :=
  (s.endCycle).setRed (fun x => { x with next := (s.mt.fdiv (2 ^ 32)).toNat + 1 })
/-- A write of `MT_CTRL` with the redundancy unit's part in RESEED (R63, R432). -/
def State.writeMt (s : State) (m : Master) (v : Nat) : State :=
  let s1 := s.writeMtCtrl m v
  if bitN v 1 ∧ s.unsure then s1.redStep else s1
/-- RESEED: the write leaves STANDALONE as it is (R63, R432). -/
def execReseed (t : Time) (m : Master) (s : State) : Host.Outcome State Fault Refusal :=
  .next ((s.tick t).onPage R.TIME.base (fun s => s.writeMt m (2 + b2n s.standalone)))

/-- A write of `RED_CTRL` (R438, R439, R447). -/
def State.writeRed (s : State) (m : Master) (v : Nat) : State :=
  let abort : Bool := s.drilling && !bitN v 0
  if bitsN v 2 1 = 3 ∨ ((s.doubled ∨ s.drilling) ∧ !abort) then s.cfgRefused (R.PTP.base 0)
  else
    let s1 := if abort then s.drillDone 3 else s
    let s2 := if bitN v 3 ≠ s.bit (R.PTP.RED_CTRL 0) 3 then s1.setRed (fun x => { x with prefAt := s.now }) else s1
    let s3 := s2.writeReg m (R.PTP.base 0) (R.PTP.RED_CTRL 0) v
    if bitN v 0 then s3
    else (s3.putBit (R.PTP.RED_STAT 0) 3 false).setRed (fun x => { x with
      cycs := [], copies := [], runA := 0, runB := 0, double := 0, held := false, drillAt := none })
/-- RED_CTRL_WRITE (R438, R439). -/
def execRedCtrlWrite (t : Time) (m : Master) (v : Word) (s : State) : Host.Outcome State Fault Refusal :=
  .next ((s.tick t).onPage (R.PTP.base 0) (fun s => s.writeRed m v.toNat))
/-- A write of `RED_CMD.DRILL` (R440). -/
def State.drill (s : State) : State :=
  if !s.redEn ∨ s.drilling ∨ s.doubled ∨ s.raceBad (1 - s.active) then s.cmdRefused (R.PTP.base 0)
  else s.setRed (fun x => { x with drillAt := some (x.drillAt.getD s.now) })
/-- DRILL (R440). -/
def execDrill (t : Time) (_m : Master) (s : State) : Host.Outcome State Fault Refusal :=
  .next ((s.tick t).onPage (R.PTP.base 0) (fun s => s.drill))

/-! ### Reception (R421 to R425) -/

/-- A frame at the internal port of a race is delivered (R421): `buf` is the buffer address of the next entry of the
host's frame ring. -/
def State.ethDeliver (s : State) (n : Nat) (b : List Byte) (stamp : Time) (buf : DWord) : State :=
  let r := n / 2
  let ing := stamp + s.fld (R.ETH.LAT_IN n) 15 0
  if etype b = 0x88F7 then
    let s1 := s.frDeliver r (n % 2) b ing buf
    if ptpType b = 0 then s1.syncAccept n b ing
    else if ptpType b = 2 ∧ s.ptpRole n ≠ 0 ∧ s.inDomain r b then
      let f := s1.ptpFrame r 3 (beAt b (payAt b + 30) 2) 54
      f.2.egress n (.pdelayResp ing) f.1 (s.fld (R.ETH.CTRL n) 7 5)
    else s1
  else
    let s0 := s.redCompare r b
    if etype b = s.fld R.BRAKE.MIR_ETYPE 15 0 then s0.mirReceive r b stamp
    else if etype b = s.fld (R.PTP.ABF_ETYPE 0) 15 0 then s0.drillWatch.abfReceive b
    else s0.frDeliver r (n % 2) b ing buf
/-- A frame at an external port: bytes without FCS, whether the FCS is good, the ingress stamp (R417, R421). -/
def State.ethReceive (s : State) (n : Nat) (b : List Byte) (ok : Bool) (stamp : Time) (buf : DWord) : State :=
  if !s.linkUp n then s else
  let x := s.bridgeRx n b ok
  if x.2 then x.1.ethDeliver n b stamp buf else x.1
/-- ETH_FRAME_RECEIVE (R421). -/
def execEthFrameReceive (t : Time) (n : Fin 4) (bytes : List Byte) (ok : Bool) (stamp : Time) (buf : DWord) (s : State) :
    Host.Outcome State Fault Refusal :=
  .next ((s.tick t).ethReceive n bytes ok stamp buf)
/-- SYNC_RECEIVED: a Sync arrives at an external port (R425). -/
def execSyncReceived (t : Time) (n : Fin 4) (bytes : List Byte) (stamp : Time) (buf : DWord) (s : State) :
    Host.Outcome State Fault Refusal :=
  let s := s.tick t
  .next (if isPtp bytes 0 then s.ethReceive n bytes true stamp buf else s)

/-! ### Registers (R447) -/

/-- Writes of a PTP page with a meaning of their own, apart from INCR and OFFSET. -/
def State.ftHook (s : State) (m : Master) (r off v : Nat) : Option State :=
  if off = 0x78 then some (if bitN v 0 then s.ftSelect r else s)
  else if off = 0x88 then some (if bitN v 0 then s.fdbFlush r else s)
  else if r ≠ 0 then none
  else if off = 0x100 then some (s.writeRed m v)
  else if off = 0x108 then
    some (s.setRg (R.PTP.RED_SKEW 0) (BitVec.ofNat 32 (clampN 1000 (s.fld (R.PTP.RED_CYCLE 0) 27 0 - 1000) (bitsN v 19 0))))
  else if off = 0x10c then some (if bitN v 0 then s.drill else s)
  else if off = 0x140 then some (s.writeAbf m v)
  else none
/-- The words of a PTP page that follow Fantail and the bridge (R447). -/
def State.ftLive (s : State) (r off : Nat) : Option Word :=
  if off = 0x64 then
    some (wput (wput (wput (s.rg (R.PTP.FT_STAT r)) 15 8 (min 255 (s.missed r)))
      1 1 (match s.slavePort r with | some n => n % 2 | none => 0)) 2 2 (b2n (s.slavePort r).isSome))
  else if off = 0x84 then some (BitVec.ofNat 32 (s.fdbLive r).length)
  else if off = 0x8c then some (BitVec.ofNat 32 (cdiv (s.raceUse r).1 1024))
  else none

end Sys2Proof.Machine
end

