-- ==== Sys2Proof/Machine/Bist.lean ====
section
/-! DEFINITION. The BIST engine: runs, failure reports and repair requests (R538 to R546, R548, R549). -/

namespace Sys2Proof.Machine

/-- The state with the BIST engine changed. -/
def State.setBist (s : State) (f : BistSt → BistSt) : State := { s with bist := f s.bist }
/-- A run of a kind is in progress on an instance. -/
def State.bistOn (s : State) (kind inst : Nat) : Bool :=
  match s.bist.run with
  | some r => r.kind == kind && r.inst == inst
  | none => false
/-- A Stone core is under test (R541). -/
def State.coreTested (s : State) (c : Nat) : Bool := s.bistOn 1 c || s.bistOn 2 c
/-- The bytes from `lo` to `hi` read 0 again. -/
def Memory.clear (m : List Host.Cell) (lo hi : Nat) : List Host.Cell := m.filter (fun p => decide (p.1 < lo) || decide (hi ≤ p.1))
/-- Memory from `lo` to `hi` holds 0 with valid check bits (R542). -/
def State.zeroMem (s : State) (lo hi : Nat) : State :=
  { s with mem := Memory.clear s.mem lo hi, ecc := s.ecc.filter (fun p => decide (p.1 < lo) || decide (hi ≤ p.1)) }

/-! ### Starting and ending a run (R539 to R543) -/

/-- The reason of R539 that refuses a START on the target, 0 for none: the lowest code that applies. -/
def State.bistReason (s : State) (kind inst : Nat) : Nat :=
  if s.bist.run.isSome then 1
  else if ¬(kind = 1 ∨ kind = 2 ∨ kind = 3 ∨ kind = 4 ∨ kind = 0x20) then 2
  else if (kind ≤ 2 ∧ 28 ≤ inst) ∨ (kind = 4 ∧ 48 ≤ inst) ∨ ((kind = 3 ∨ kind = 0x20) ∧ inst ≠ 0) then 3
  else if kind ≤ 2 ∧ (s.hostsAxes inst ∨ (s.coreState inst ≠ 0 ∧ s.coreState inst ≠ 4)) then 4
  else if kind ≤ 2 ∧ s.mig.waiting ∧ (s.mig.src = inst ∨ s.mig.dst = inst) then 5
  else if kind = 3 ∧ (s.hopState ≠ 0 ∨ !s.hop.segs.isEmpty) then 6
  else if kind = 4 ∧ s.en (R.PWM.base inst) then 7
  else if kind = 0x20 ∧ !s.sess.proof then 8
  else 0
/-- START (R539, R541). -/
def State.bistStart (s : State) (m : Master) : State :=
  let w := s.rg R.BIST.TARGET
  let kind := wfld w 7 0
  let inst := wfld w 15 8
  let why := s.bistReason kind inst
  let st := R.BIST.STAT
  if why ≠ 0 then ((s.putBit st 4 true).putFld st 15 8 why).cmdRefused R.BIST.base
  else
    let inj := R.PG_ERRINJ R.BIST.base
    let s1 := (s.setRg st (BitVec.ofNat 32 (1 + m.code * 2 ^ 16))).setBist
      (fun b => { b with run := some ⟨kind, inst, wfld w 19 16, s.bit inj 16⟩ })
    let s2 := s1.putBit inj 16 false
    if kind ≤ 2 then s2.setCoreState inst 5
    else if kind = 3 then s2.setHop (fun h => { h with bist := true })
    else s2
/-- The memories of a core that a run tests, one bit each for P, X, Y and the state window (R540, R548). -/
def BistRun.mems (r : BistRun) : Nat := if r.kind = 1 then (if r.sel = 0 then 15 else r.sel) else 0
/-- MEM of the first memory of a run (R548, R549). -/
def BistRun.firstMem (r : BistRun) : Nat :=
  match r.kind with
  | 1 => ((List.range 4).find? (fun i => bitN r.mems i)).getD 0
  | 3 => 4
  | 4 => 5
  | 0x20 => 6
  | _ => 0
/-- What every end of a run leaves: zeroed memories, the core IDLE with its registers at reset, the Hopper as after
CLEAR (R542). -/
def State.bistClean (s : State) (r : BistRun) : State :=
  let s0 := s.setBist (fun b => { b with run := none })
  let zero (s : State) (sp : Nat) : State := s.zeroMem (spaceAddr r.inst sp 0) (spaceAddr r.inst sp 0x4000)
  if r.kind ≤ 2 then
    let s1 := [0, 1, 2].foldl (fun (s : State) sp => if bitN r.mems sp then zero s sp else s) s0
    let s2 := if bitN r.mems 3 then s1.zeroMem (stateAddr r.inst 0) (stateAddr r.inst 0x400) else s1
    ((s2.setCr r.inst (fun _ => {})).setCoreState r.inst 0).setRg (R.CORE.PC r.inst) 0
  else if r.kind = 3 then
    ((s0.zeroMem hopperBase (hopperBase + 2 ^ 24)).setHop (fun h => { h with bist := false, bad := [] })).hopClearAll
  else if r.kind = 0x20 then
    [0, 1, 2].foldl (fun (s : State) sp => s.zeroMem (spaceAddr 32 sp 0) (spaceAddr 32 sp (spaceSize 32 sp))) s0
  else s0
/-- The failure words of the page. -/
def State.showFails (s : State) (fs : List BistFail) : State :=
  (List.range 8).foldl (fun (s : State) i =>
    let f := fs.getD i ⟨⟨0, 0, 0⟩, none, false⟩
    let row : Bool := match f.spare with | some e => e.row | none => false
    (s.setRg (R.BIST.FAIL_ADDR i) (BitVec.ofNat 32 (f.bit.addr % 2 ^ 24 + f.bit.mem % 16 * 2 ^ 24))).setRg (R.BIST.FAIL_BIT i)
      (BitVec.ofNat 32 (f.bit.bit % 64 + b2n f.spare.isSome * 2 ^ 8 + b2n row * 2 ^ 9 + b2n f.covered * 2 ^ 10))) s
/-- A run ends before its last operation: ABORTED (R542). -/
def State.bistStop (s : State) : State :=
  match s.bist.run with
  | none => s
  | some r =>
    let s1 := (s.bistClean r).setBist (fun b => { b with fails := [] })
    ((((s1.putFld R.BIST.STAT 3 0 8).showFails []).setRg R.BIST.NFAIL 0)).irq R.BIST.base 1
/-- A power-down or a reset ends a run with no result (R542). -/
def State.bistDrop (s : State) : State :=
  match s.bist.run with
  | none => s
  | some r => (s.bistClean r).putFld R.BIST.STAT 3 0 0
/-- A write of `PG_CTRL.EN` = 0 to the Stone core under test ends the run (R542). -/
def State.bistDisable (s : State) (c : Nat) : State := if s.coreTested c then s.bistStop else s

/-! ### Failure reports (R544) -/

/-- The spare types of the memories of a run: none for logic and slot tests. -/
def BistRun.spares (r : BistRun) : Bool := r.kind == 1 || r.kind == 3 || r.kind == 0x20
/-- The 64 KiB block of a failing bit. -/
def bbBlock (b : BistBit) : Nat := b.addr / 2 ^ 14
/-- The row of a failing bit: address bits [13:6]. -/
def bbRow (b : BistBit) : Nat := bitsN b.addr 13 6
/-- The column of a failing bit: address bits [5:0] with the bit number. -/
def bbCol (b : BistBit) : Nat := bitsN b.addr 5 0 * 64 + b.bit
/-- Two failing bits of one block. -/
def bbNear (a b : BistBit) : Bool := a.mem == b.mem && bbBlock a == bbBlock b
/-- An entry covers a failing bit of a run. -/
def RepEntry.covers (e : RepEntry) (r : BistRun) (b : BistBit) : Bool :=
  e.ty == r.kind && e.inst == r.inst && e.mem == b.mem && e.block == (bbBlock b) && e.idx == (if e.row then (bbRow b) else (bbCol b))
/-- Entries of a kind in the block of a failing bit. -/
def spareUse (es : List RepEntry) (r : BistRun) (b : BistBit) (row : Bool) : Nat :=
  (es.filter (fun e => e.ty == r.kind && e.inst == r.inst && e.mem == b.mem && e.block == (bbBlock b) && e.row == row)).length
/-- One failure joins the report: covered by a spare already proposed, or with a spare of its own where one is free. -/
def proposeOne (table : List RepEntry) (r : BistRun) (all : List BistBit) (done : List BistFail) (i : Nat) (b : BistBit) : BistFail :=
  let prop := done.filterMap (fun f => f.spare)
  if !r.spares then ⟨b, none, false⟩
  else if prop.any (fun e => e.covers r b) then ⟨b, none, true⟩
  else
    let others := (all.zipIdx).filter (fun x => x.2 != i && bbNear x.1 b)
    let free (row : Bool) : Bool := decide (spareUse (table ++ prop) r b row < 2)
    let row : Bool := others.any (fun x => (bbRow x.1) == (bbRow b)) || (!others.any (fun x => (bbCol x.1) == (bbCol b)) && free true)
    if free row then ⟨b, some ⟨r.kind, r.inst, b.mem, (bbBlock b), row, if row then (bbRow b) else (bbCol b)⟩, false⟩ else ⟨b, none, false⟩
/-- The report of a run: the first eight failures with the spares proposed for them. -/
def propose (table : List RepEntry) (r : BistRun) (bits : List BistBit) : List BistFail :=
  let bs := bits.take 8
  (bs.zipIdx).foldl (fun (d : List BistFail) x => d ++ [proposeOne table r bs d x.2 x.1]) []
/-- The report of the start-up test: its first eight failing bits, each with the kind and the instance of its run, and the
spares proposed for them (R544, R547). -/
def proposeStart (table : List RepEntry) (bits : List (Nat × Nat × BistBit)) : List BistFail :=
  ((bits.take 8).zipIdx).foldl (fun (d : List BistFail) x =>
    let same := ((bits.take 8).zipIdx).filter (fun y => y.1.1 == x.1.1 && y.1.2.1 == x.1.2.1)
    let i := (same.filter (fun y => decide (y.2 < x.2))).length
    d ++ [proposeOne table ⟨x.1.1, x.1.2.1, 0, false⟩ (same.map (fun y => y.1.2.2)) d i x.1.2.2]) []
/-- RESULT of a run that reached its last operation with `n` failing bits (R543): 1 PASS, 2 FAIL, 3 INVALID_CONDITIONS. -/
def bistVerdict (x : BistResult) (n : Nat) : Nat :=
  if x.vLow < 720 ∨ 780 < x.vHigh ∨ 200 < x.dev.natAbs then 3 else if n = 0 then 1 else 2
/-- A failing bit that a run can find: in a memory that it tests, at a word of that memory; a period and an output of a
slot; and any bit of the island or of a logic test (R540, R544, R548). -/
def BistRun.finds (r : BistRun) (b : BistBit) : Bool :=
  match r.kind with
  | 1 => decide (b.mem < 4) && bitN r.mems b.mem && decide (b.addr < (if b.mem = 3 then 0x400 else 0x4000))
  | 3 => b.mem == 4 && decide (b.addr < 2 ^ 22)
  | 4 => b.mem == 5 && decide (b.addr < 64) && decide (b.bit < 8)
  | 0x20 => b.mem == 6
  | _ => true
/-- BIST_RUN_END: a run reaches its last operation (R542 to R544, R548, R549). -/
def State.bistEnd (s : State) (x : BistResult) : State :=
  match s.bist.run with
  | none => s
  | some r =>
    let bits : List BistBit := if r.inject then [⟨r.firstMem, 0, 0⟩] else (x.bits.filter r.finds).take 8
    let n := if r.inject then 1 else if bits.length < 8 then bits.length else max x.count 8
    let v := bistVerdict x n
    let fs := propose s.bist.table r bits
    let s1 := ((s.bistClean r).setBist (fun b => { b with fails := fs })).showFails fs
    let s2 := (s1.putFld R.BIST.STAT 3 0 (v * 2)).putBit R.BIST.STAT 20 r.inject
    let s3 := (s2.setRg R.BIST.NFAIL (BitVec.ofNat 32 (min 0xFFFF n + fs.length * 2 ^ 16))).setRg R.BIST.VCORE
      (BitVec.ofNat 32 (x.vLow % 2 ^ 16 + x.vHigh % 2 ^ 16 * 2 ^ 16))
    let s4 := s3.setRg R.BIST.CLKDEV (BitVec.ofNat 32 (ux 16 x.dev))
    let s5 := if v = 1 then s4.count R.BIST.RUNS 15 0 1 else s4.count R.BIST.RUNS 31 16 1
    s5.irq R.BIST.base (1 + (if v = 2 then 2 else 0) + (if v = 3 then 4 else 0))

/-! ### Repair (R545, R546) -/

/-- The CFS is busy with a transaction (R526). -/
def State.cfsBusy (s : State) : Bool := s.pwr.cfs.isSome
/-- The reason of R545 that refuses a REPAIR, 0 for none: the lowest code that applies. -/
def State.repairReason (s : State) (i : Nat) : Nat :=
  let f := s.bist.fails.getD i ⟨⟨0, 0, 0⟩, none, false⟩
  let gone : Bool := match f.spare with | some e => s.bist.table.contains e | none => true
  let island : Bool := match f.spare with | some e => e.ty == 0x20 | none => false
  if s.fld R.BIST.STAT 3 1 ≠ 2 then 1
  else if s.bist.fails.length ≤ i ∨ f.covered then 2
  else if gone then 3
  else if 1024 ≤ s.bist.table.length then 4
  else if s.cfsBusy ∨ s.pwr.brown then 5
  else if s.bit R.BIST.STAT 20 then 6
  else if island ∧ !s.sess.proof then 7
  else 0
/-- REPAIR (R545): the entry is written as one journalled transaction of two words at an address among the device words
that the spec does not state. -/
def State.bistRepair (s : State) (i : Nat) : State :=
  let why := s.repairReason i
  if why ≠ 0 then ((s.putFld R.BIST.REP_STAT 23 16 why).cmdRefused R.BIST.base).irq R.BIST.base 8
  else
    let f := s.bist.fails.getD i ⟨⟨0, 0, 0⟩, none, false⟩
    let a := s.freeIn 0x1F0000 0x1FFFFE
    let w0 := a.2.free
    let w1 := w0.2.free
    let s1 := w1.2.putBit R.CFS.STAT 0 true
    { s1 with pwr := { s1.pwr with
        cfs := some ⟨a.1.toNat, [w0.1.truncate 32, w1.1.truncate 32], s.now, s.bit (R.PG_ERRINJ R.CFS.base) 16, f.spare⟩ } }
/-- A write of `BIST.CMD`: one command per write (R548). -/
def State.writeBistCmd (s : State) (m : Master) (v : Nat) : State :=
  match bitsN v 2 0 with
  | 1 => s.bistStart m
  | 2 => s.bistStop
  | 4 => s.bistRepair (bitsN v 10 8)
  | _ => s.cmdRefused R.BIST.base
/-- Writes of the BIST page with a meaning of their own. -/
def State.bistHook (s : State) (m : Master) (off v : Nat) : Option State :=
  if off = 0x40 then some (s.writeBistCmd m v)
  else if off = 0x44 ∧ s.bist.run.isSome then some (s.cfgRefused R.BIST.base)
  else none
/-- `REP_STAT` follows the table (R548). -/
def State.bistLive (s : State) (off : Nat) : Option Word :=
  if off = 0x60 then
    let n := s.bist.table.length
    some (wput (wput (s.rg R.BIST.REP_STAT) 10 0 n) 11 11 (b2n (decide (1024 ≤ n))))
  else none

/-- BIST_START (R539). -/
def execBistStart (t : Time) (m : Master) (s : State) : Host.Outcome State Fault Refusal :=
  .next ((s.tick t).onPage R.BIST.base (fun s => s.writeBistCmd m 1))
/-- BIST_ABORT (R542). -/
def execBistAbort (t : Time) (m : Master) (s : State) : Host.Outcome State Fault Refusal :=
  .next ((s.tick t).onPage R.BIST.base (fun s => s.writeBistCmd m 2))
/-- BIST_RUN_END (R542). -/
def execBistRunEnd (t : Time) (x : BistResult) (s : State) : Host.Outcome State Fault Refusal := .next ((s.tick t).bistEnd x)
/-- BIST_REPAIR (R545). -/
def execBistRepair (t : Time) (m : Master) (i : Fin 8) (s : State) : Host.Outcome State Fault Refusal :=
  .next ((s.tick t).onPage R.BIST.base (fun s => s.writeBistCmd m (4 + i.val * 2 ^ 8)))

end Sys2Proof.Machine
end

