-- ==== Sys2Proof/Machine/Restore.lean ====
section
/-! DEFINITION. `PG_CTRL.EN`, and the registers that the configuration image restores before the blocks are released
(R37, R52, assumption log 203). -/

namespace Sys2Proof.Machine

/-- `PG_CTRL.EN` written with a new value. -/
def State.enChange (s : State) (pg : Nat) (on : Bool) : State :=
  let n := instOf pg
  let put := s.putBit (R.PG_CTRL pg) 0 on
  let core (c : Nat) : State :=
    if on then (if c < 28 ∧ bitN s.bist.heldOff c then s else put)
    else
      let r := (s.bistDisable c).coreDisable c
      if r.1 then r.2 else (r.2.putBit (R.PG_CTRL pg) 0 false).migWatch
  match tyOf pg with
  | 0x04 => if on then put.fbEnable n else put.fbDisable n
  | 0x05 => put.sdmEnable n
  | 0x06 => if on then put.slotEnable n else s.slotOff n
  | 0x07 => if on then put.pspEnable n else put.slotEval n
  | 0x08 => core n
  | 0x09 => core (28 + n)
  | 0x0f => if on then put.hopEnable else put
  | 0x10 => put.fieldEnable
  | 0x11 => if on then put.canEnable n else put.canDisable n
  | _ => put

/-! ### Restoring the configuration image (R52) -/

/-- The registers of the backup domain (R536). -/
def keptReg (a : Nat) : Bool :=
  [R.PWR.SUP_STAT, R.PWR.STICKY, R.PWR.RST_CNT, R.PWR.SEQ_STAT, R.PWR.RTC_SET, R.PWR.RTC_SET + 4, R.PWR.CHG_CFG, R.PWR.GAUGE_CFG,
   R.PWR.GAUGE].contains a
/-- When the image word of an address acts: 0 before the blocks run, 1 with the `PG_CTRL` of the pages, 2 after them (`RUN`
of an axis, `CTRL` of an axis and of a group, `CTRL` of a port); 3 never (the rest of the header but `PG_IRQ_EN` and
`PG_SHADOW`, and the backup domain). -/
def restorePhase (a : Nat) : Nat :=
  let o := offOf a
  if keptReg a then 3
  else if o < 0x40 then (if o = 4 then (if enFixed (tyOf a) then 3 else 1) else if o = 0x10 ∨ o = 0x1c then 0 else 3)
  else match tyOf a with
  | 0x0a => if 0x300 ≤ o ∧ o < 0xf00 ∧ (o - 0x300) % 0x30 = 4 then 2 else 0
  | 0x0b => if o = 0x44 then 2 else 0
  | 0x0c => if o = 0x40 then 2 else 0
  | 0x12 => if o = 0x40 then 2 else 0
  | _ => 0
/-- A register word restored: only the bits that a write can set take the image's value, each field in its range (R7, R8,
R52, R570). -/
def State.restoreWord (s : State) (x : Nat × Word) : State :=
  match findReg x.1 with
  | some (r, hi) =>
    let w := mixBits (s.rg x.1).toNat x.2.toNat (wordOf hi (r.rw ||| r.rwl ||| r.rws)).toNat
    s.setRg x.1 (BitVec.ofNat 32 (if hi then w else clampFields r.clamp w))
  | none => s
/-- What follows a restored register in the hidden state of its block, as it would follow a write (R119, R133, R114, R57,
R334, R461, R475, R213). -/
def State.restoreHidden (s : State) (a : Nat) : State :=
  let n := instOf a
  let o := offOf a
  match tyOf a with
  | 0x05 =>
    if o = 0x40 then s.setSd n (fun d => { d with div := s.fld (R.SDM.CLK_CFG n) 7 0 })
    else if o = 0x44 then s.setSd n (fun d => { d with auxSel := s.rg (R.SDM.AUX_SEL n) }) else s
  | 0x06 =>
    if o = 0x40 ∨ o = 0xb0 ∨ (0xc0 ≤ o ∧ o < 0xe0) then
      ((((s.pickMask n s.now).cmpMuteSync n).ascSync n).chopInactive n).slotEval n else s
  | 0x07 => if 0x40 ≤ o then ((s.ascSync n).chopInactive n).slotEval n else s
  | 0x09 =>
    if o = 0x114 ∧ s.bit (R.MW.WDOG n) 31 then s.setCr (28 + n) (fun c => { c with wdDue := some (s.now + s.wdTime n) }) else s
  | 0x0b => if o = 0x40 then { s with fbSel := vupd s.fbSel n (fun f => { f with sel := s.rg (R.AXIS.FB_SEL n) }) } else s
  | 0x0d =>
    if 0x300 ≤ o ∧ o < 0x500 ∧ o % 0x40 = 0 then s.setVm ((o - 0x300) / 0x40) (fun x => { x with last := s.now }) else s
  | 0x13 =>
    if o = 0x50 ∨ o = 0x54 then s.setPtp (n == 1) (fun p => { p with incr := s.rg64 (R.PTP.INCR n) }) else s
  | 0x14 => if o = 0x70 ∨ o = 0x74 then s.sgEval else s
  | 0x43 =>
    if o = 0x200 ∧ s.smEn n then s.setSm n (fun x => { x with dec := x.decNow (s.fld (R.SM.CFG n) 2 1) }) else s
  | 0x44 => if o = 0x400 ∧ n < 16 then s.setTx n (fun x => { x with last := s.now }) else s
  | _ => s
/-- A restored word that starts something acts as its write does once the blocks are there (R256, R304, R312, R446). -/
def State.restoreStart (s : State) (x : Nat × Word) : State :=
  let n := instOf x.1
  match tyOf x.1 with
  | 0x0a => s.writeAxRun ((offOf x.1 - 0x300) / 0x30) x.2.toNat
  | 0x0b => s.writeAxCtrl n x.2.toNat
  | 0x0c => s.writeIgrpCtrl n x.2.toNat
  | 0x12 => s.writeEthCtrl n x.2.toNat
  | _ => s
/-- The register words of the image replace reset values before the blocks are released (R52, assumption log 203). -/
def State.restore (s : State) (ws : List (Nat × Word)) : State :=
  let at_ (k : Nat) : List (Nat × Word) := ws.filter (fun x => restorePhase x.1 == k && (pageExists (pageOf x.1) || 0x40 ≤ tyOf x.1))
  let s1 := (at_ 0).foldl (fun (s : State) x => s.restoreWord x) s
  let s2 := (at_ 0).foldl (fun (s : State) x => s.restoreHidden x.1) s1
  let s3 := (at_ 1).foldl (fun (s : State) x => if wbit x.2 0 && !s.en (pageOf x.1) then s.enChange (pageOf x.1) true else s) s2
  (at_ 2).foldl (fun (s : State) x => s.restoreStart x) s3

end Sys2Proof.Machine
end

