-- ==== Sys2Proof/Machine/Power.lean ====
section
/-! DEFINITION. Power-up, power-down, reset, the backup domain and the configuration store (R514 to R537). -/

namespace Sys2Proof.Machine

/-- The state with the power domain changed. -/
def State.setPwr (s : State) (f : PwrSt → PwrSt) : State := { s with pwr := f s.pwr }
/-- An event of the power domain (R535). -/
def State.pwrPost (s : State) (code payload : Nat) : State := s.postNow 0x180 code payload

/-! ### The RTC (R530) -/

/-- One BCLK period, 1 / 32,768 s, in quarters of a fine tick. -/
def bclk : Nat := 1953125
/-- The RTC in 2^-15 s at an instant in quarters of a fine tick, as it runs. -/
def PwrSt.rtcAtQ (p : PwrSt) (q : Nat) : Nat := if p.xtal then p.rtc + (q - p.rtcAt) / bclk else p.rtc
/-- A set whose BCLK edge has come is in force: the saved GTC base has moved by the same step (R530). -/
def PwrSt.rtcSync (p : PwrSt) (now : Time) : PwrSt :=
  match p.rtcNext with
  | some (e, v) =>
    if e ≤ 4 * now ∧ p.xtal then
      { p with rtc := v, rtcAt := e, rtcNext := none, saved := p.saved.map (fun x => (x.1, x.2 + v - p.rtcAtQ e)) }
    else p
  | none => p
/-- The RTC now, in 2^-15 s. -/
def State.rtcNow (s : State) : Nat := (s.pwr.rtcSync s.now).rtcAtQ (4 * s.now)
/-- The layout of `PWR.RTC`: 48 bits of seconds, 15 bits of sub-seconds (R536). -/
def rtcWord (r : Nat) : Nat := r / 2 ^ 15 % 2 ^ 48 + r % 2 ^ 15 * 2 ^ 48
/-- A complete write of `RTC_SET` (R530). -/
def State.writeRtc (s : State) (m : Master) (v : Nat) : State :=
  let s1 := s.writeReg m R.PWR.base R.PWR.RTC_SET v
  if !s.lockOk R.PWR.base m then s1
  else
    let p := s1.pwr.rtcSync s.now
    let e := p.rtcAt + ((4 * s.now - p.rtcAt) / bclk + 1) * bclk
    s1.setPwr (fun _ => { p with rtcNext := some (e, v % 2 ^ 48 * 2 ^ 15 + v / 2 ^ 48 % 2 ^ 15) })
/-- RTC_SET (R530). -/
def execRtcSet (t : Time) (m : Master) (v : DWord) (s : State) : Host.Outcome State Fault Refusal :=
  .next ((s.tick t).onPage R.PWR.base (fun s => s.writeRtc m v.toNat))
/-- XTAL_FAIL: BCLK has stopped for 1 ms (R530). -/
def execXtalFail (t : Time) (s : State) : Host.Outcome State Fault Refusal :=
  let s := s.tick t
  .next (if s.pwr.xtal then (s.putBit R.PWR.STICKY 6 true).setPwr (fun p => { p with rtc := s.rtcNow, rtcNext := none, xtal := false })
    else s)

/-! ### The configuration store (R526 to R529, R537) -/

/-- The address of a word of the configuration store. -/
def cfsAddr (w : Nat) : Nat := cfsBase + 4 * w
/-- The commit record of a transaction is complete (R526). -/
def CfsTxn.committed (x : CfsTxn) (now : Time) : Bool := !x.bad && decide (x.at_ + ns (100 * (x.words.length + 2)) ≤ now)
/-- The transaction's journal entry is retired (R526). -/
def CfsTxn.ended (x : CfsTxn) (now : Time) : Bool := decide (x.at_ + ns (100 * (2 * x.words.length + 3)) ≤ now)
/-- The data of a transaction reach their places; a repair joins the table (R526, R545). -/
def State.cfsApply (s : State) (x : CfsTxn) : State :=
  if x.bad then s else
  match x.repair with
  | some e => s.setBist (fun b => { b with table := b.table ++ [e] })
  | none => (x.words.zipIdx).foldl (fun (s : State) y => s.stw (cfsAddr (x.addr + y.2)) y.1) s
/-- What a word of the store reads as (R527); the words of the device are not stated, so the read gives an open value. -/
def State.cfsWord (s : State) (a : Nat) : Word × State :=
  if 0x1F0000 ≤ a then (s.free.1.truncate 32, s.free.2) else
  let old := s.ldw (cfsAddr a)
  match s.pwr.cfs with
  | some x => (if x.committed s.now && x.repair.isNone && decide (x.addr ≤ a) && decide (a < x.addr + x.words.length)
      then x.words.getD (a - x.addr) 0 else old, s)
  | none => (old, s)
/-- A command is refused (R526, R537). -/
def State.cfsRefuse (s : State) : State := (s.putBit R.CFS.STAT 1 true).irq R.CFS.base 2
/-- `CMD.WRITE` (R526). -/
def State.cfsWrite (s : State) : State :=
  let a := s.fld R.CFS.ADDR 20 0
  let n := s.fld R.CFS.LEN 6 0
  if s.cfsBusy ∨ s.pwr.brown ∨ n = 0 ∨ 64 < n ∨ 0x1F0000 < a + n then s.cfsRefuse
  else
    let inj := R.PG_ERRINJ R.CFS.base
    let s1 := (s.putFld R.CFS.STAT 1 0 1).putBit inj 16 false
    s1.setPwr (fun p => { p with cfs := some ⟨a, (List.range n).map (fun i => s.rg (R.CFS.BUF i)), s.now, s.bit inj 16, none⟩ })
/-- `CMD.READ` (R537). -/
def State.cfsRead (s : State) : State :=
  let a := s.fld R.CFS.ADDR 20 0
  let n := s.fld R.CFS.LEN 6 0
  if n = 0 ∨ 64 < n then s.cfsRefuse
  else
    ((List.range n).foldl (fun (s : State) i =>
      let x := s.cfsWord (a + i)
      x.2.setRg (R.CFS.BUF i) x.1) (s.putBit R.CFS.STAT 1 false)).irq R.CFS.base 1
/-- A write of `CFS.CMD`: one bit per write (R537). -/
def State.writeCfsCmd (s : State) (v : Nat) : State :=
  match bitsN v 1 0 with
  | 1 => s.cfsWrite
  | 2 => s.cfsRead
  | _ => s.cfsRefuse
/-- CFS_DONE: the journal entry is retired (R526, R546). -/
def State.cfsDone (s : State) : State :=
  match s.pwr.cfs with
  | none => s
  | some x =>
    if !x.ended s.now then s else
    let s1 := ((s.cfsApply x).setPwr (fun p => { p with cfs := none })).putBit R.CFS.STAT 0 false
    let s2 := s1.pwrPost 0x05 (x.addr % 2 ^ 21)
    if x.repair.isSome then s2.irq R.BIST.base 8 else s2.irq R.CFS.base 1
/-- CFS_WRITE (R526). -/
def execCfsWrite (t : Time) (_m : Master) (s : State) : Host.Outcome State Fault Refusal :=
  .next ((s.tick t).onPage R.CFS.base (fun s => s.writeCfsCmd 1))
/-- CFS_READ (R537). -/
def execCfsRead (t : Time) (_m : Master) (s : State) : Host.Outcome State Fault Refusal :=
  .next ((s.tick t).onPage R.CFS.base (fun s => s.writeCfsCmd 2))
/-- CFS_DONE (R526). -/
def execCfsDone (t : Time) (s : State) : Host.Outcome State Fault Refusal := .next (s.tick t).cfsDone
/-- Writes of the CFS page with a meaning of their own. -/
def State.cfsHook (s : State) (off v : Nat) : Option State :=
  if off = 0x4c then some (s.writeCfsCmd v)
  else if 0x100 ≤ off ∧ off < 0x200 ∧ s.cfsBusy then some (s.cfgRefused R.CFS.base)
  else none

/-! ### Power-down and reset (R515, R519, R520) -/

/-- The supplies of a group in `SUP_STAT` (R514, R536). -/
def groupBits (g : Nat) : Nat := match g with | 0 => 3 | 1 => 0x1c | _ => 0x20
/-- Supplies become good or go away; on VBAK the backup domain runs alone (R514, R536). -/
def State.supply (s : State) (bits : Nat) (good : Bool) : State :=
  let v := (s.rg R.PWR.SUP_STAT).toNat
  let n := if good then v ||| bits else v ^^^ (v &&& bits)
  s.setRg R.PWR.SUP_STAT (BitVec.ofNat 32 (n % 256 + b2n (!bitN n 5) * 256))
/-- D1: every gate and every field output off, and a BIST run ends (R519, R542). -/
def State.powerD1 (s : State) : State :=
  (({ s with dev := { s.dev with outsOff := true } }).bistDrop).runSync
/-- A transaction whose commit record is complete runs to its end; any other is abandoned (R529). -/
def State.cfsSettle (s : State) : State :=
  match s.pwr.cfs with
  | some x => (if x.committed s.now then s.cfsApply x else s).setPwr (fun p => { p with cfs := none })
  | none => s
/-- D2: the store settles, GTC, state and fault record are saved, and the PCIe link is gone (R519, R531). -/
def State.powerD2 (s : State) (kind : Nat) : State :=
  let s1 := s.cfsSettle.faultRecord kind 0 0
  (s1.setPwr (fun p => { p.rtcSync s.now with saved := some (s.now, s.rtcNow) })).pcieReset true
/-- The device leaves its operating states. -/
def State.toState (s : State) (d : DevState) : State := { s with dev := { s.dev with st := d } }
/-- Power-up begins at P2 (R516). -/
def State.powerUp (s : State) : State :=
  (s.toState .standby).setPwr (fun p => { p with
    step := 2, group := 0, upAt := s.now, rise := false, brown := false, byReset := false, tested := false, boot := none, down := 0 })
/-- The backup domain is lost: what it kept reads 0 (R27, R536). -/
def State.toOff (s : State) : State :=
  let kept : List Nat := [R.PWR.STICKY, R.PWR.RST_CNT, R.PWR.SEQ_STAT, R.PWR.RTC_SET, R.PWR.RTC_SET + 4, R.PWR.CHG_CFG,
    R.PWR.GAUGE_CFG, R.PWR.GAUGE, R.PWR.SUP_STAT]
  let s1 := kept.foldl (fun (s : State) a => s.setRg a 0) (s.toState .off)
  { s1 with mem := Memory.clear s1.mem bsramBase hostBase, pwr := { pwrEn := false, nrst := s.pwr.nrst, cfs := s.pwr.cfs },
            sess := { s1.sess with fails := 0 } }
/-- D4: WATCH, or OFF without VBAK; a rise that came meanwhile starts power-up again (R518, R519). -/
def State.powerD4 (s : State) : State :=
  let s1 := s.setPwr (fun p => { p with down := 0 })
  if !s1.bit R.PWR.SUP_STAT 7 then s1.toOff
  else if s1.pwr.rise && s1.pwr.pwrEn then s1.powerUp
  else s1.toState .watch
/-- POWER_DOWN_STEP: the power-down step that comes next completes (R519). -/
def State.powerDown (s : State) : State :=
  match s.pwr.down with
  | 1 => s.powerD1.setPwr (fun p => { p with down := 2 })
  | 2 => (s.powerD2 1).setPwr (fun p => { p with down := 3 })
  | 3 => (((s.supply (groupBits 2) false).supply (groupBits 1) false).supply (groupBits 0) false).setPwr
    (fun p => { p with down := 4 })
  | 4 => s.powerD4
  | _ => s
/-- POWER_DOWN_STEP (R519). -/
def execPowerDownStep (t : Time) (s : State) : Host.Outcome State Fault Refusal := .next (s.tick t).powerDown
/-- A transaction that a collapse left with its commit record complete is replayed from the journal (R528). -/
def State.cfsReplay (s : State) : State :=
  match s.pwr.cfs with
  | some x => (s.cfsApply x).setPwr (fun p => { p with cfs := none, replayed := p.replayed + 1 })
  | none => s
/-- A power-up step in progress ends at its safe point (R518, R520). -/
def State.stepStop (s : State) : State := if s.pwr.step = 4 then s.cfsReplay else s
/-- PWR_EN_FALL: the filtered fall (R518, R519). -/
def State.enFall (s : State) : State :=
  let s1 := s.setPwr (fun p => { p with pwrEn := false, rise := false })
  if s1.pwr.down ≠ 0 then s1
  else if s1.up then s1.setPwr (fun p => { p with down := 1 })
  else if s1.dev.st = .standby then s1.stepStop.setPwr (fun p => { p with down := 3 })
  else s1
/-- PWR_EN_FALL (R518). -/
def execPwrEnFall (t : Time) (s : State) : Host.Outcome State Fault Refusal := .next (s.tick t).enFall
/-- PWR_EN_RISE: the filtered rise starts power-up, or waits for the end of a power-down (R516, R518). -/
def State.enRise (s : State) : State :=
  let s1 := s.setPwr (fun p => { p with pwrEn := true })
  if s.pwr.pwrEn ∨ s.dev.st = .off then s1
  else if s.pwr.down ≠ 0 then s1.setPwr (fun p => { p with rise := true })
  else if s.dev.st = .watch then s1.powerUp
  else s1
/-- PWR_EN_RISE (R516). -/
def execPwrEnRise (t : Time) (s : State) : Host.Outcome State Fault Refusal := .next (s.tick t).enRise
/-- BROWN_OUT: a supply has been below its window for 1 us; D1 and D2 at once (R515). When the supplies collapse before D2
ends, nothing is saved and the journal keeps what it holds (R528). -/
def State.brownOut (s : State) (i : Nat) (collapse : Bool) : State :=
  if !s.up ∨ 3 ≤ s.pwr.down then s.supply (2 ^ i) false else
  let s1 := ((s.setPwr (fun p => { p with brown := true })).putBit R.PWR.STICKY 1 true).supply (2 ^ i) false
  let s2 := s1.powerD1
  let s3 := if collapse then
      (s2.setPwr (fun p => { p with cfs := p.cfs.filter (fun x => x.committed s.now) })).pcieReset true
    else s2.powerD2 2
  s3.setPwr (fun p => { p with down := 3, rise := false })
/-- BROWN_OUT (R515). -/
def execBrownOut (t : Time) (supply : Fin 6) (collapse : Bool) (s : State) : Host.Outcome State Fault Refusal :=
  .next ((s.tick t).brownOut supply collapse)
/-- RESET_ASSERT: the filtered low of `nRST` (R520). -/
def State.resetLow (s : State) : State :=
  let s1 := s.setPwr (fun p => { p with nrst := false, fallAt := s.now, fallClk := s.rg R.SYS.CLK_MON, longSeen := false })
  if !s.pwr.nrst then s
  else if s1.pwr.down ≠ 0 then s1
  else if s1.up then
    ((s1.powerD1.powerD2 3).toState .standby).setPwr (fun p => { p with step := 4, byReset := true, tested := false, boot := none })
  else if s1.dev.st = .standby ∧ 4 ≤ s1.pwr.step then
    s1.stepStop.setPwr (fun p => { p with step := 4, byReset := true, tested := false, boot := none })
  else s1
/-- RESET_ASSERT (R520). -/
def execResetAssert (t : Time) (s : State) : Host.Outcome State Fault Refusal := .next (s.tick t).resetLow
/-- The lock flags of `SYS.CLK_MON` (R24). -/
def lockBits : Word := 0x7d5
/-- RESET_RELEASE: the filtered rise of `nRST`; power-up goes on at P4, or at P3 when a PLL lost lock meanwhile (R520). -/
def State.resetHigh (s : State) : State :=
  let lost := s.rg R.SYS.CLK_MON &&& ~~~s.pwr.fallClk &&& lockBits ≠ 0
  let s1 := s.setPwr (fun p => { p with nrst := true })
  if s.pwr.nrst ∨ s.pwr.down ≠ 0 ∨ s.dev.st ≠ .standby ∨ s.pwr.step < 4 then s1
  else s1.setPwr (fun p => { p with step := if lost then 3 else 4 })
/-- RESET_RELEASE (R520). -/
def execResetRelease (t : Time) (s : State) : Host.Outcome State Fault Refusal := .next (s.tick t).resetHigh
/-- RESET_LONG: `nRST` has been low for more than 10 s (R521). -/
def execResetLong (t : Time) (s : State) : Host.Outcome State Fault Refusal :=
  let s := s.tick t
  .next (if !s.pwr.nrst && !s.pwr.longSeen && decide (s.pwr.fallAt + sec 10 < s.now) && s.dev.st != .off then
    ((s.putBit R.PWR.STICKY 0 true).count R.PWR.RST_CNT 15 0 1).setPwr (fun p => { p with longSeen := true, longPost := true })
    else s)
/-- VBAK_GOOD (R27). -/
def execVbakGood (t : Time) (s : State) : Host.Outcome State Fault Refusal :=
  let s := (s.tick t).supply 0x80 true
  .next (if s.dev.st = .off then (s.toState .watch).setPwr (fun p => { p with rtc := 0, rtcAt := 4 * s.now }) else s)
/-- VBAK_LOST: only WATCH goes to OFF (R27). -/
def execVbakLost (t : Time) (s : State) : Host.Outcome State Fault Refusal :=
  let s := (s.tick t).supply 0x80 false
  .next (if s.dev.st = .watch ∧ s.pwr.down = 0 then s.toOff else s)

/-! ### Power-up (R516, R517, R547) -/

/-- `SEQ_EN0` to `SEQ_EN2` (R514, R522). -/
def State.seqEn (s : State) : Nat :=
  if s.pwr.down = 4 then 0 else
  match s.dev.st with
  | .off | .watch => 0
  | .standby => if s.pwr.step = 2 then 2 ^ (s.pwr.group + 1) - 1 else 7
  | _ => 7
/-- POWER_UP_TIMEOUT: a group is not good or a PLL does not lock in time (R517). -/
def execPowerUpTimeout (t : Time) (item : Fin 7) (s : State) : Host.Outcome State Fault Refusal :=
  let s := s.tick t
  .next (if s.dev.st = .standby ∧ s.pwr.down = 0 ∧ ((s.pwr.step = 2 ∧ item.val = s.pwr.group + 1) ∨ (s.pwr.step = 3 ∧ 4 ≤ item.val)) then
    ((s.putBit R.PWR.STICKY 2 true).putFld R.PWR.SEQ_STAT 5 3 item.val).setPwr (fun p => { p with down := 3, rise := false })
    else s)
/-- The GTC at the release (R54): the saved value and what the RTC has counted since. -/
def State.gtcStart (s : State) : Time :=
  match s.pwr.saved with
  | some x => x.1 + (if s.pwr.xtal then ns ((s.rtcNow - x.2) * 1000000000 / 2 ^ 15) else 0)
  | none => 0
/-- The value that the PTP clocks take from the RTC, in 2^-32 ns (R57). -/
def rtcPtp (r : Nat) : Nat := (r / 2 ^ 15 % 2 ^ 48 * 1000000000 + r % 2 ^ 15 * 1000000000 / 2 ^ 15) * 2 ^ 32
/-- The blocks at their reset values, with what survives a power-down: the backup domain, the configuration store, the
levels of the pins, and host memory (R52, R54, R57, R536). -/
def State.fresh (s : State) : State :=
  let g := s.gtcStart
  let ptp : PtpClock := { edge := edgeOf g, val := rtcPtp s.rtcNow }
  { now := g, pending := s.pending, freeCtr := s.freeCtr, rd := s.rd
    regs := s.regs.filter (fun p => keptReg p.1)
    mem := s.mem.filter (fun p => decide (cfsBase ≤ p.1))
    dev := { rel := g }
    time := { ptp0 := ptp, ptp1 := ptp, cEdge := edgeOf g, lastPeriodic := g }
    sess := { fails := s.sess.fails, pwHash := s.sess.pwHash, salt := s.sess.salt, log := s.sess.log, chain := s.sess.chain }
    bw := { start := g, sm := s.bw.sm.map (fun x => { levels := x.levels }) }
    hop := { judged := g }
    fbp := s.fbp.map (fun p => { lines := p.lines.map (fun l => { raw := l.raw }) })
    pwm := s.pwm.map (fun w => { filt := w.filt.map (fun f => { raw := f.raw, out := f.raw, since := g }) })
    fi := s.fi.map (fun f => { pin := f.pin })
    tins := s.tins
    bist := { table := s.bist.table }
    pwr := { s.pwr.rtcSync s.now with
      step := 6, rtc := s.rtcNow, rtcAt := 4 * g - (4 * s.now - (s.pwr.rtcSync s.now).rtcAt) % bclk, xtal := true,
      boot := none, fails := [], failBits := [], longPost := false, replayed := 0, byReset := false, tested := false,
      tryAt := g, gaugeAt := g } }
/-- A word list of a boot record loaded at a base. -/
def State.loadWords (s : State) (base : Nat) (ws : List (Nat × Word)) : State :=
  ws.foldl (fun (s : State) x => s.stw (base + x.1 / 4 * 4) x.2) s
/-- The Brakewheel pair starts from its boot record, or is held FAULTED with BW_CORE (R455). -/
def State.bootPair (s : State) (b : Boot) (failed : Bool) : State :=
  match b.pair with
  | some (e, ws) =>
    let s1 := ((s.loadWords 0x2c00000 ws).setRg R.BRAKE.ENTRY (BitVec.ofNat 32 (e % 2 ^ 20))).startCore 32 (e % 2 ^ 20)
    if failed then s1.islandFault 5 else s1
  | none => s.islandFault 5
/-- The millwrights start from their boot records (R510). -/
def State.bootMws (s : State) (b : Boot) : State :=
  if b.mwErr then (s.putBit R.HOST.STAT 8 true).irq R.HOST.base 0x10
  else if b.mws.isEmpty then s
  else
    let s1 := b.mws.foldl (fun (s : State) x =>
      if 4 ≤ x.1 ∨ !s.en (R.MW.base x.1) then s
      else (s.loadWords (0x2800000 + x.1 * 0x100000) x.2.2).setRg (R.CORE.ENTRY (28 + x.1)) (BitVec.ofNat 32 (x.2.1 % 2 ^ 20))) s
    (b.mws.foldl (fun (s : State) x => if 4 ≤ x.1 ∨ !s.en (R.MW.base x.1) then s else s.coreGo (28 + x.1)) s1).putBit
      R.HOST.STAT 7 true
/-- Targets that failed the start-up BIST keep out of service (R547). -/
def State.startFail (s : State) (f : Nat × Nat) : State :=
  match f.1 with
  | 3 => ((s.setBist (fun b => { b with heldOff := putBitN b.heldOff f.2 true })).putBit R.SLUICE.SPARE f.2 false).putBit
      (R.PG_CTRL (corePage f.2)) 0 false
  | 4 => s.setBist (fun b => { b with noGo := putBitN b.noGo f.2 true })
  | 7 => s.setHop (fun h => { h with bist := true })
  | _ => s
/-- The result of the start-up BIST on the BIST page (R547, R548). -/
def State.startResult (s : State) (fails : List (Nat × Nat)) (bits : List (Nat × Nat × BistBit)) : State :=
  let fs := proposeStart s.bist.table bits
  let s1 := (s.setBist (fun b => { b with fails := fs })).showFails fs
  ((s1.putFld R.BIST.STAT 3 1 (if fails.isEmpty && bits.isEmpty then 1 else 2)).putBit R.BIST.STAT 19 true).setRg R.BIST.NFAIL
    (BitVec.ofNat 32 (min 0xFFFF bits.length + fs.length * 2 ^ 16))
/-- The redundancy unit at release: the active race is the one that PREF names, and the first cycle instant comes later
than the machine time of the release (R431). -/
def State.redRelease (s : State) : State :=
  (s.putFld (R.PTP.RED_STAT 0) 0 0 (s.fld (R.PTP.RED_CTRL 0) 3 3)).setRed (fun x =>
    { x with next := (s.mt.fdiv (2 ^ 32)).toNat + 1 })
/-- P6: the blocks are released and the device reaches READY (R516, R52, R54, R57, R67, R455, R510, R535). -/
def State.release (s : State) : State :=
  let p := s.pwr
  let b : Boot := p.boot.getD default
  let s1 := if p.tested then p.fails.foldl (fun (s : State) f => s.startFail f) s.fresh else s.fresh
  let s2 := s1.restore (if b.ok then b.regs else [])
  let s3 := ((s2.putBit R.CFS.STAT 2 b.ok).putBit R.CFS.STAT 3 (b.crcErr || b.pairCrcErr)).putFld R.CFS.STAT 15 8 p.replayed
  let s4 := (s3.putBit R.TIME.MT_STAT 3 p.saved.isNone).putBit R.PWR.CHG_STAT 0 (s3.bit R.PWR.CHG_CFG 0)
  let s5 := if p.byReset then s4 else
    (s4.putFld R.PWR.RST_CNT 31 16 (s4.fld R.PWR.RST_CNT 31 16 + 1)).setRg R.PWR.SEQ_STAT
      (BitVec.ofNat 32 (6 + min 0xFFFF ((s.now - p.upAt) / us 10) * 2 ^ 16))
  let s6 := if s5.standalone then s5.putUnsure false else s5.postNow srcTime 0x02 0
  let s7 := s6.pwrPost 0x01 (b2n p.byReset + b2n (decide (0 < p.replayed)) * 4 + b2n p.tested * 8 + b2n p.saved.isNone * 16)
  let s8 := if p.longPost then (s7.pwrPost 0x02 (s7.fld R.PWR.RST_CNT 15 0)).irq R.PWR.base 4 else s7
  let s9 := if p.tested then (p.fails.foldl (fun (s : State) f => s.startFail f) s8).startResult p.fails p.failBits else s8
  ((s9.bootPair b (p.fails.any (fun f => f.1 ∈ [1, 2, 5, 6]))).bootMws b).redRelease
/-- POWER_UP_STEP: the power-up step in progress completes (R516). -/
def State.upStep (s : State) (x : UpStep) : State :=
  if s.dev.st ≠ .standby ∨ s.pwr.down ≠ 0 then s else
  let go (s : State) (n : Nat) : State := (s.putFld R.PWR.SEQ_STAT 2 0 s.pwr.step).setPwr (fun p => { p with step := n })
  match s.pwr.step, x with
  | 2, .done =>
    let s1 := s.supply (groupBits s.pwr.group) true
    if s.pwr.group < 2 then s1.setPwr (fun p => { p with group := p.group + 1 }) else go s1 3
  | 3, .done => go s 4
  | 4, .image b =>
    if !s.pwr.nrst then s else go (s.cfsReplay.setPwr (fun p => { p with boot := some b })) (if b.ok && b.bist then 5 else 6)
  | 5, .tested fails reps bits =>
    go ((s.setPwr (fun p => { p with tested := true, fails := fails, failBits := bits })).setBist (fun b =>
      { b with table := (b.table ++ reps).take 1024 })) 6
  | 6, .done => if s.pwr.nrst then s.release else s
  | _, _ => s
/-- POWER_UP_STEP (R516). -/
def execPowerUpStep (t : Time) (x : UpStep) (s : State) : Host.Outcome State Fault Refusal := .next ((s.tick t).upStep x)

/-! ### Relocking PLLs (R24, R524, R525) -/

/-- PLL_RELOCK: a SerDes, PCIe or PLL_C PLL locks again (R24, R524, R525). -/
def State.relock (s : State) (p : Pll) : State :=
  match p with
  | .serdes n => s.putBit R.SYS.CLK_MON (6 + n.val) false
  | .pcie =>
    let s1 := (s.putBit R.SYS.CLK_MON 10 false).setHost (fun h => { h with cmds := h.cmds.map (fun c => { c with held := none }) })
    (List.range 64).foldl (fun (s : State) v =>
      if bitN s.host.due v && (decide (12 ≤ v) || decide (s.msiFrom v ≤ s.now)) then s.msiSend v else s) s1
  | .c => if s.dev.pllcDown then ({ s with dev := { s.dev with pllcDown := false } }).canRestartAll else s
  | _ => s
/-- PLL_RELOCK (R24). -/
def execPllRelock (t : Time) (p : Pll) (s : State) : Host.Outcome State Fault Refusal := .next ((s.tick t).relock p)
/-- SETTLE_DROP: requests held for 1 ms are dropped, port 0 to 3, or 4 for PCIe (R525). -/
def State.settleDrop (s : State) (k : Nat) : State :=
  if k < 4 then
    let old (f : EgFrame) : Bool := decide (f.at_ + ms 1 ≤ s.now)
    let n := (s.port k).queues.toList.foldl (fun (n : Nat) q => n + (q.filter old).length) 0
    if !s.txHeld k ∨ n = 0 then s
    else
      let s1 := s.setPort k (fun p => { p with queues := p.queues.map (fun q => q.filter (fun f => !old f)) })
      (((s1.count (R.ETH.DROP k) 31 16 n).irq (R.ETH.base k) 4).pwrPost 0x03 k).irq R.PWR.base 2
  else
    let old (c : HostCmd) : Bool := c.ended.isNone && (match c.held with | some t => decide (t + ms 1 ≤ s.now) | none => false)
    if !s.pcieHeld ∨ !s.host.cmds.any old then s
    else
      let s1 := s.setHost (fun h => { h with cmds := h.cmds.map (fun c =>
        if old c then { c with held := none, ended := some ⟨7, c.done, none⟩ } else c) })
      (s1.pwrPost 0x03 4).irq R.PWR.base 2
/-- SETTLE_DROP (R525). -/
def execSettleDrop (t : Time) (k : Fin 5) (s : State) : Host.Outcome State Fault Refusal := .next ((s.tick t).settleDrop k)

/-! ### Backup SRAM, charger and gauge (R531 to R534) -/

/-- The word of the backup SRAM that `BSRAM_ADDR` names. -/
def State.bsramAt (s : State) : Nat := bsramBase + 4 * s.fld R.PWR.BSRAM_ADDR 9 0
/-- `BSRAM_ADDR` advances (R531). -/
def State.bsramNext (s : State) : State := s.putFld R.PWR.BSRAM_ADDR 9 0 (s.fld R.PWR.BSRAM_ADDR 9 0 + 1)
/-- A read of `BSRAM_DATA` (R531). -/
def State.bsramRead (s : State) : Word × State := (s.ldw s.bsramAt, s.bsramNext)
/-- A write of `BSRAM_DATA`: discarded for words 0 to 63 (R531). -/
def State.bsramWrite (s : State) (v : Word) : State :=
  (if s.fld R.PWR.BSRAM_ADDR 9 0 < 64 then s else s.stw s.bsramAt v).bsramNext
/-- BSRAM_DATA_READ (R531). -/
def execBsramDataRead (t : Time) (_m : Master) (s : State) : Host.Outcome State Fault Refusal :=
  let s := s.tick t
  let r := s.bsramRead
  .next (if s.up then { r.2 with rd := BitVec.ofNat 64 r.1.toNat } else s)
/-- BSRAM_DATA_WRITE (R531). -/
def execBsramDataWrite (t : Time) (_m : Master) (v : Word) (s : State) : Host.Outcome State Fault Refusal :=
  .next ((s.tick t).onPage R.PWR.base (fun s => s.bsramWrite v))
/-- `FREC_ACK`: a kept record may be replaced (R532). -/
def State.frecAck (s : State) : State := s.setPwr (fun p => { p with frecAck := true })
/-- FREC_ACK (R532). -/
def execFrecAck (t : Time) (_m : Master) (s : State) : Host.Outcome State Fault Refusal :=
  .next ((s.tick t).onPage R.PWR.base State.frecAck)
/-- `CHG_STAT`. -/
def State.chg (s : State) : Nat := s.fld R.PWR.CHG_STAT 1 0
/-- The charger may run: VIO33 is good and EN = 1 (R533). -/
def State.chgOn (s : State) : Bool := s.bit R.PWR.SUP_STAT 5 && s.bit R.PWR.CHG_CFG 0
/-- An event of the cell (R535). -/
def State.cellPost (s : State) (k : Nat) : State := (s.pwrPost 0x04 k).irq R.PWR.base 1
/-- CELL_ABSENT: the charger finds no cell and stops (R533). -/
def execCellAbsent (t : Time) (s : State) : Host.Outcome State Fault Refusal :=
  let s := s.tick t
  .next (if s.chgOn ∧ (s.chg = 1 ∨ s.chg = 2) then
    (((s.putFld R.PWR.CHG_STAT 1 0 3).putBit R.PWR.STICKY 3 true).setPwr (fun p => { p with tryAt := s.now })).cellPost 1 else s)
/-- CHARGER_RETRY: 10 ms of constant current every 10 s; it draws current with VBAK at or below 3.1 V, or not (R533). -/
def execChargerRetry (t : Time) (draws : Bool) (s : State) : Host.Outcome State Fault Refusal :=
  let s := s.tick t
  .next (if s.chgOn ∧ s.chg = 3 ∧ s.pwr.tryAt + sec 10 ≤ s.now then
    let s1 := s.setPwr (fun p => { p with tryAt := s.now, back := p.back || draws })
    if draws then (s1.putFld R.PWR.CHG_STAT 1 0 1).cellPost 2 else s1 else s)
/-- CHARGER_THRESHOLD: VBAK reaches 3.1 V (0), the current falls below ICHG / 10 (1), or VBAK falls below 3.0 V (2) (R533). -/
def execChargerThreshold (t : Time) (k : Fin 3) (s : State) : Host.Outcome State Fault Refusal :=
  let s := s.tick t
  .next (match s.chgOn, s.chg, k.val with
    | true, 1, 0 => s.putFld R.PWR.CHG_STAT 1 0 2
    | true, 2, 1 => s.putFld R.PWR.CHG_STAT 1 0 0
    | true, 0, 2 => s.putFld R.PWR.CHG_STAT 1 0 1
    | _, _, _ => s)
/-- A write of `CHG_CFG`: the charger starts with EN and stops without it (R533). -/
def State.writeChg (s : State) (m : Master) (v : Nat) : State :=
  let s1 := s.writeReg m R.PWR.base R.PWR.CHG_CFG v
  if !bitN v 0 then s1.putFld R.PWR.CHG_STAT 1 0 0
  else if s.bit R.PWR.CHG_CFG 0 = false ∧ s.bit R.PWR.SUP_STAT 5 then s1.putFld R.PWR.CHG_STAT 1 0 1
  else s1
/-- The charge that V_LOAD stands for (R534); open where V_FULL = V_EMPTY. -/
def State.gaugeQ (s : State) (v : Nat) : Nat × State :=
  let g := s.rg R.PWR.GAUGE_CFG
  let cap := wfld g 15 0
  let lo : Int := 20 * wfld g 23 16
  let hi : Int := 20 * wfld g 31 24
  if lo = hi then ((s.freeIn 0 cap).1.toNat, (s.freeIn 0 cap).2)
  else
    let f : Rat := (((v : Int) - lo : Int) : Rat) / ((hi - lo : Int) : Rat)
    ((openRound ((cap : Rat) * max 0 (min 1 f))).toNat, s)
/-- GAUGE_TEST: the charge since the latest test joins the count, and V_LOAD corrects it (R534). -/
def State.gaugeTest (s : State) (v : Nat) (q : Int) : State :=
  if !s.bit R.PWR.SUP_STAT 5 ∨ s.now < s.pwr.gaugeAt + sec 60 then s else
  let cap := s.fld R.PWR.GAUGE_CFG 15 0
  let n := (clampI 0 0xFFFF ((s.fld R.PWR.GAUGE 15 0 : Int) + q)).toNat
  let x := s.gaugeQ v
  let low : Bool := decide (20 * n ≤ cap) && decide (cap ≤ 5 * x.1)
  let weak : Bool := decide (4 * cap ≤ 5 * n) && decide (5 * x.1 ≤ cap)
  let use_ := low || weak || s.pwr.back
  let s1 := (x.2.setRg R.PWR.GAUGE (BitVec.ofNat 32 ((if use_ then x.1 else n) + v % 2 ^ 16 * 2 ^ 16))).setPwr
    (fun p => { p with gaugeAt := s.now, back := false })
  if low then (s1.putBit R.PWR.STICKY 4 true).cellPost 3
  else if weak then (s1.putBit R.PWR.STICKY 5 true).cellPost 4
  else s1
/-- GAUGE_TEST (R534). -/
def execGaugeTest (t : Time) (v : Fin 65536) (q : Int) (s : State) : Host.Outcome State Fault Refusal :=
  .next ((s.tick t).gaugeTest v q)

/-! ### Registers (R536) -/

/-- Writes of the PWR page with a meaning of their own. -/
def State.pwrHook (s : State) (m : Master) (off v : Nat) : Option State :=
  if off = 0x50 then some (if bitN v 0 then s.frecAck else s)
  else if off = 0x60 then some (s.writeRtc m v)
  else if off = 0x68 then some (s.writeChg m v)
  else if off = 0x84 then some (s.bsramWrite (BitVec.ofNat 32 v))
  else none
/-- The words of the PWR page that follow the backup domain. -/
def State.pwrLive (s : State) (off : Nat) : Option Word :=
  if off = 0x58 ∨ off = 0x5c then some (wordOf (off == 0x5c) (rtcWord s.rtcNow))
  else if off = 0x84 then some (s.ldw s.bsramAt)
  else none

end Sys2Proof.Machine
end

