-- ==== Sys2Proof/Machine/Bus.lean ====
section
/-! DEFINITION. The register map as the masters reach it: mapping, access widths, the page header, soft reset, freeze,
unlock sequence, word pairs, read effects and memory windows (R7, R8, R32 to R51), and the commands of chapter 02. -/

namespace Sys2Proof.Machine

/-! ### Live values -/

/-- A word of the filters of Q5, which follow from the CAPT configuration: 0 while no latch channel takes a Weir event,
and otherwise open as a function of the source numbers and codes of the channels that do (R79, R82, assumption log 12). -/
def State.q5Filter (s : State) (o : Nat) : Word :=
  let takes := (List.range 128).filter (fun l => s.latchFiltered l)
  if takes.isEmpty ∨ o % 16 = 4 then 0
  else Config.latchFilter (takes.map (fun l => (s.rg (R.LT.EVT l)).toNat % 2 ^ 16)) (o / 4) &&&
    (if o % 16 = 0 then 0x83ff03ff else 0xffffffff)
/-- The words of the WEIR page that follow the queues, and the filters of Q5 and Q7 (R79, R82). -/
def State.weirLive (s : State) (off : Nat) : Option Word :=
  if 0x100 ≤ off ∧ off < 0x200 ∧ off % 0x20 = 4 then
    some (BitVec.ofNat 32 (vget s.weir.queues ((off - 0x100) / 0x20)).length)
  else if 0x900 ≤ off ∧ off < 0xa00 then some (s.q5Filter (off - 0x900))
  else if 0xb00 ≤ off ∧ off < 0xc00 then
    some (s.rg ((if off % 16 = 0 then R.BRAKE.Q7_FLT_SRC 0 else R.BRAKE.Q7_FLT_CODE 0 - 8) + (off - 0xb00)))
  else none
/-- The live word at an address of a register page, as a master with the selectors `sl` sees it (R8, R349). -/
def State.regNow (s : State) (sl : Selectors) (a : Nat) : Word :=
  let o := offOf a
  let n := instOf a
  let b := bankOf sl a
  let live : Option Word := match tyOf a with
    | 0x01 => if o = 0x40 then some (wput (s.rg a) 17 17 (b2n s.unsure)) else none
    | 0x02 => s.timeLive a
    | 0x03 => s.weirLive o
    | 0x04 => s.fbpLive n o
    | 0x05 => s.sdmLive n o
    | 0x06 => s.pwmLive n o
    | 0x07 => s.pspLive n o
    | 0x08 => s.coreLive n o
    | 0x09 => s.coreLive (28 + n) o
    | 0x0a => s.sluiceLive o
    | 0x0b => s.axisLive n o
    | 0x0d => if o = 0x40 then some (BitVec.ofNat 32 sl.lsel) else if o = 0x44 then some (BitVec.ofNat 32 sl.tsel)
              else if 0x200 ≤ o ∧ o < 0x220 then s.ctLive sl.tsel o else s.wallLive o
    | 0x0e => if o = 0x40 then some (BitVec.ofNat 32 sl.ltsel) else s.capLive o
    | 0x0f => s.hopLive o
    | 0x11 => if o = 0x68 then some (BitVec.ofNat 32 (tget 0 sl.txsel n)) else none
    | 0x12 => s.ethLive n o
    | 0x13 => (s.timeLive a).orElse (fun _ => s.ftLive n o)
    | 0x14 => if 0x300 ≤ o ∧ o < 0x358 then (if s.sess.proof then s.coreLive 32 (o - 0x2c0) else some 0) else s.brakeLive sl o
    | 0x15 => s.hostLive o
    | 0x16 => s.pwrLive o
    | 0x17 => s.bistLive o
    | 0x1a => s.spiLive o
    | _ => none
  live.getD (if (findReg b).isNone then 0 else s.rg b)

/-! ### Freeze (R39) -/

/-- The offsets of the elements of a row. -/
def RegRow.offs (r : RegRow) : List Nat :=
  let os := r.dims.foldl (fun (os : List Nat) d => os.flatMap (fun o => (List.range d.1).map (fun i => o + i * d.2))) [r.off]
  if r.wide then os.flatMap (fun o => [o, o + 4]) else os
/-- The register is RO or RC. -/
def RegRow.frozen (r : RegRow) : Bool :=
  r.rw == 0 && r.rwl == 0 && r.rws == 0 && r.w1c == 0 && r.w1s == 0 && r.wo == 0
/-- A read of the address pops a record. -/
def isPop (a : Nat) : Bool :=
  let o := offOf a
  match tyOf a with
  | 0x03 => 0x100 ≤ o && o < 0x200 && 0x10 ≤ o % 0x20
  | 0x0e => 0x80 ≤ o && o < 0xa0
  | 0x11 => 0x200 ≤ o && o < 0x300 && o % 0x80 < 0x50
  | 0x14 => 0x130 ≤ o && o < 0x140
  | _ => false
/-- The filters of Q5 and Q7 on the WEIR page are RO, unlike those of the other queues (R82). -/
def filterRo (a : Nat) : Bool :=
  tyOf a == 0x3 && ((0x900 ≤ offOf a && offOf a < 0xa00) || (0xb00 ≤ offOf a && offOf a < 0xc00))
/-- What a capture takes of a pop word (R39, assumption log 154). -/
def State.popNow (s : State) (a : Nat) : Word :=
  let o := offOf a
  match tyOf a with
  | 0x03 => s.weirPopNow ((o - 0x100) / 0x20) ((o % 0x20 - 0x10) / 4)
  | 0x0e => s.resPopNow ((o - 0x80) / 4)
  | 0x11 => s.canPopNow (instOf a) ((o - 0x200) / 0x80) (o % 0x80 / 4)
  | _ => s.weirPopNow 7 ((o - 0x130) / 4)
/-- The registers of a page with the selectors that show each of them. -/
def rowsOfPage (pg : Nat) : List (Selectors × RegRow) :=
  let at_ (sl : Selectors) (rs : List RegRow) : List (Selectors × RegRow) := rs.map (fun r => (sl, r))
  let more : List (Selectors × RegRow) := match tyOf pg with
    | 0x0d => (List.range 64).flatMap (fun l => at_ { lsel := l } RegTable.gl ++ at_ { tsel := l } RegTable.ct)
    | 0x0e => (List.range 128).flatMap (fun l => at_ { ltsel := l } RegTable.lt)
    | 0x11 => (List.range 32).flatMap (fun b => at_ { txsel := [(instOf pg, b)] } RegTable.txb)
    | 0x14 => (List.range 48).flatMap (fun n => at_ { smsel := n } RegTable.sm) ++
        (List.range 32).flatMap (fun c => at_ { csel := c } RegTable.conn) ++
        at_ {} ((RegTable.core.filter (fun r => r.off < 0x98)).map (fun r => { r with off := r.off + 0x2c0 }))
    | _ => []
  at_ {} (RegTable.rows (tyOf pg)) ++ more
/-- The captured words of a page, by the address of the register (R39). -/
def State.capture (s : State) (pg : Nat) : List (Nat × Word) :=
  (rowsOfPage pg).foldl (fun (acc : List (Nat × Word)) x =>
    x.2.offs.foldl (fun acc o =>
      if !(x.2.frozen || filterRo (pg + o)) then acc else tput acc (bankOf x.1 (pg + o)) (some (if isPop (pg + o) then s.popNow (pg + o) else s.regNow x.1 (pg + o)))) acc) []
/-- The word a read of a master returns: captured or live (R39). -/
def State.view (s : State) (m : Master) (a : Nat) : Word :=
  let sl := s.selOf m
  (s.snapOf (pageOf a) (bankOf sl a)).getD (s.regNow sl a)

/-! ### Reads (R8, R48, R50, R51) -/

/-- The bits of a register that a read clears: its RC fields, `WEIR.STAT.INJ_REFUSED` and `SDM.STAT.OVERLAP`. -/
def readMask (a : Nat) (r : RegRow) : Nat :=
  if a = R.WEIR.STAT then 0x20000 else if tyOf a = 0x5 ∧ offOf a = 0x48 then 0x100 else r.rc
/-- A read clears the RC fields: the live ones, or, while frozen, the counts that the capture holds (R39, R51). -/
def State.readClear (s : State) (pg b : Nat) (r : RegRow) : State :=
  let k := readMask b r
  if k = 0 then s else
  let live := (s.rg b).toNat
  match s.snapOf pg b with
  | none => s.setRg b (BitVec.ofNat 32 (live ^^^ (live &&& k)))
  | some w =>
    let c := w.toNat &&& k
    let l := live &&& k
    let peak := (tyOf b = 0x8 ∨ tyOf b = 0x9) ∧ offOf b = 0x68
    let left := if peak then (if l = c then 0 else l) else l - min l c
    (s.setRg b (BitVec.ofNat 32 ((live ^^^ l) + left))).setPage pg (fun p =>
      { p with snap := tput p.snap b (some (BitVec.ofNat 32 (w.toNat ^^^ c))) })
/-- The bits of `PG_STAT` that a read clears: PAIR_ERR, SHADOW_LOST, and the refusal flags of the pages (R37). -/
def statClear (pg : Nat) : Nat := if tyOf pg = 0x13 then 0xf0018 else 0x30018
/-- A read of a header word (R37, R39, R46). -/
def State.readHeader (s : State) (pg o : Nat) : Word × State :=
  let w := s.rg (pg + o)
  if o = 8 then (w, s.setRg (pg + 8) (w &&& ~~~(BitVec.ofNat 32 (statClear pg))))
  else if o = 0x14 then (w, s.putFld (R.PG_LOCK pg) 15 8 0)
  else if o = 0x1c then (wput w 2 2 (b2n (!(s.page pg).staged.isEmpty)), s)
  else if o < 0x20 then (w, s)
  else (0, s)
/-- Reads with an effect of their own: pops and the data ports. -/
def State.readEffect (s : State) (m : Master) (a : Nat) : Option (Word × State) :=
  let o := offOf a
  let n := instOf a
  match tyOf a with
  | 0x03 =>
    if isPop a then
      some (if o % 0x20 = 0x10 then s.weirPop (some m) R.WEIR.base ((o - 0x100) / 0x20)
        else s.weirPopWord (some m) R.WEIR.base ((o - 0x100) / 0x20) ((o % 0x20 - 0x10) / 4))
    else none
  | 0x08 => if o = 0x94 then some (s.dbgRead n) else none
  | 0x09 => if o = 0x94 then some (s.dbgRead (28 + n)) else none
  | 0x0e => if isPop a then some (if o = 0x80 then s.resPop m else s.resPopWord m ((o - 0x80) / 4)) else none
  | 0x11 =>
    if isPop a then
      some (if o % 0x80 = 0 then s.canPop m n ((o - 0x200) / 0x80) else s.canPopWord m n ((o - 0x200) / 0x80) (o % 0x80 / 4))
    else none
  | 0x14 =>
    if isPop a then
      some (if o = 0x130 then s.weirPop (some m) R.BRAKE.base 7 else s.weirPopWord (some m) R.BRAKE.base 7 ((o - 0x130) / 4))
    else if o = 0x354 ∧ s.sess.proof then some (s.dbgRead 32)
    else none
  | 0x16 => if o = 0x84 then some s.bsramRead else none
  | _ => none
/-- A read of one word of a register page; `hold` for a 32-bit access, which uses the read-holding register (R48, R50); a high
word read while that register is empty is live and sets PAIR_ERR (assumption log 179). -/
def State.readWord (s : State) (m : Master) (a : Nat) (hold : Bool) : Word × State :=
  let o := offOf a
  let pg := pageOf a
  if o < 0x40 then s.readHeader pg o else
  match s.readEffect m a with
  | some r => r
  | none =>
    let b := bankOf (s.selOf m) a
    let v := s.view m a
    match findReg b with
    | none => (v, s)
    | some (r, hi) =>
      if !r.wide then (v, s.readClear pg b r)
      else if !hold then (v, s)
      else if !hi then (v, s.setPage pg (fun p => { p with rdHold := some (m, o, s.view m (a + 4)) }))
      else match (s.page pg).rdHold with
        | some (h, lo, w) => if h = m ∧ lo + 4 = o then (w, s) else (v, s.pairErr pg)
        | none => (v, s.pairErr pg)

/-! ### The header: unlock, soft reset, freeze, staging control (R37 to R46) -/

/-- The page locks (R42). -/
def State.lockPage (s : State) (pg : Nat) : State := s.putFld (R.PG_LOCK pg) 3 0 0
/-- An unlock sequence that has lasted more than 1 us is aborted (R41). -/
def State.unlockTimeout (s : State) (pg : Nat) : State :=
  match (s.page pg).keySeq with
  | some (_, t0) => if t0 + us 1 < s.now then s.abortSeq pg else s
  | none => s
/-- An unlocked page locks 10 ms after the later of the unlock and the owner's last RW-L write (R42). -/
def State.lockTimeout (s : State) (pg : Nat) : State :=
  if s.bit (R.PG_LOCK pg) 0 ∧ (s.page pg).lockFrom + ms 10 ≤ s.now then s.lockPage pg else s
/-- A write of `PG_LOCK` (R41, R42, R569). -/
def State.lockWrite (s0 : State) (m : Master) (pg v : Nat) : State :=
  let s := s0.unlockTimeout pg
  let seq := (s.page pg).keySeq
  let mine : Bool := match seq with | some (h, _) => h == m | none => false
  if v = 0xC41A then (s.abortSeq pg).setPage pg (fun p => { p with keySeq := some (m, s.now) })
  else if v = 0xA14C ∧ mine then
    ((s.putFld (R.PG_LOCK pg) 3 1 m.code).putBit (R.PG_LOCK pg) 0 true).setPage pg (fun p =>
      { p with keySeq := none, lockFrom := s.now })
  else
    let s1 := s.abortSeq pg
    if v = 0 ∧ s.owns pg m then s1.lockPage pg
    else if seq.isSome ∨ (v = 0 ∧ !s.bit (R.PG_LOCK pg) 0) then s1
    else s1.failInc pg

/-- A soft reset is asked for (R38). -/
def State.softReset (s : State) (pg : Nat) : State :=
  if enFixed (tyOf pg) ∨ s.en pg then s.putBit (R.PG_STAT pg) 1 true
  else
    let s1 := if tyOf pg = 0x13 then s.ptpReset (instOf pg == 1) else s
    (((s1.putBit (R.PG_STAT pg) 1 false).putBit (R.PG_STAT pg) 0 true).putBit (R.PG_CTRL pg) 1 true).setPage pg (fun p =>
      { p with staged := [], resetAt := some s.now })
/-- FREEZE written 1 (R39). -/
def State.freezePage (s : State) (pg : Nat) : State :=
  let snap := s.capture pg
  ((s.putBit (R.PG_CTRL pg) 2 true).putBit (R.PG_STAT pg) 2 true).setPage pg (fun p => { p with snap := snap })
/-- FREEZE written 0 (R39). -/
def State.freezeRelease (s : State) (pg : Nat) : State :=
  ((s.putBit (R.PG_CTRL pg) 2 false).putBit (R.PG_STAT pg) 2 false).setPage pg (fun p => { p with snap := [] })
/-- A write of `PG_CTRL`: EN first, then SRST, then FREEZE (R37 to R39). A slot under BIST refuses EN = 1 (R541). -/
def State.writePgCtrl (s : State) (pg v : Nat) : State :=
  if tyOf pg = 0x6 ∧ bitN v 0 ∧ s.bistOn 4 (instOf pg) then s.cfgRefused pg else
  let s1 := if enFixed (tyOf pg) || bitN v 0 == s.en pg then s else s.enChange pg (bitN v 0)
  let s2 := if bitN v 1 then s1.softReset pg else s1
  if bitN v 2 then s2.freezePage pg else s2.freezeRelease pg
/-- A write of `PG_SHADOW` (R46): HOLD written 0 lets the staged values go from now on. -/
def State.writeShadow (s : State) (pg v : Nat) : State :=
  let was := s.bit (R.PG_SHADOW pg) 0
  let s1 := s.putBit (R.PG_SHADOW pg) 0 (bitN v 0)
  let s2 := if was && !bitN v 0 then
      s1.setPage pg (fun p => { p with staged := p.staged.map (fun w => { w with from_ := max w.from_ s.now }) })
    else s1
  if bitN v 1 then s2.setPage pg (fun p => { p with staged := [] }) else s2
/-- What a write of `PG_ERRINJ` starts on the page (R186, R351, R396, R448, R489). -/
def State.injected (s : State) (m : Master) (pg : Nat) : State :=
  match tyOf pg with
  | 0x07 => s.pspInject (instOf pg)
  | 0x0d => { s with wall := { s.wall with inj := if s.bit (R.PG_ERRINJ pg) 16 then some (s.selOf m).lsel else none } }
  | 0x10 => s.fieldInject
  | 0x12 => s.ethInject (instOf pg)
  | 0x14 => s.brakeInject
  | _ => s
/-- A write of `PG_IRQ`: bits that the block sets in the same TCLK cycle stay set (R40). -/
def State.writePgIrq (s : State) (pg v : Nat) : State :=
  let at_ := (s.page pg).irqAt
  let keep := if at_.1 = edgeOf s.now then at_.2 else 0
  s.setRg (R.PG_IRQ pg) (s.rg (R.PG_IRQ pg) &&& ~~~(BitVec.ofNat 32 (v ^^^ (v &&& keep))))
/-- A write of a header word other than `PG_LOCK` (R37). -/
def State.writeHeader (s : State) (m : Master) (pg o v : Nat) : State :=
  if o = 4 then s.writePgCtrl pg v
  else if o = 0xc then s.writePgIrq pg v
  else if o = 0x10 then s.setRg (R.PG_IRQ_EN pg) (BitVec.ofNat 32 v)
  else if o = 0x18 then
    let s1 := s.writeReg m pg (R.PG_ERRINJ pg) v
    if s.lockOk pg m && !(isSafety pg && s.logFull) then s1.injected m pg else s1
  else if o = 0x1c then s.writeShadow pg v
  else s

/-! ### Soft reset completes (R38, R52) -/

/-- The address belongs to the page, or to the registers behind its windows (R349, R409, R488). -/
def ofPage (pg a : Nat) : Bool :=
  pageOf a == pg ||
    (match tyOf pg with
     | 0x0d => tyOf a == 0x40 || tyOf a == 0x41
     | 0x0e => tyOf a == 0x42
     | 0x11 => (List.range 32).any (fun b => pageOf a == R.TXB.base (instOf pg * 32 + b))
     | _ => false)
/-- Every register of the page but `PG_LOCK` takes its reset value (R38, R52, assumption log 126). -/
def State.resetRegs (s : State) (pg : Nat) : State :=
  { s with regs := s.regs.filter (fun p => !ofPage pg p.1 || p.1 == R.PG_LOCK pg) }
/-- A PWM slot after the soft reset of its page. -/
def State.pwmReset (s : State) (n : Nat) : State :=
  let z : PwmSt := {}
  let s1 := (s.setPw n (fun p => { z with sto := p.sto, filt := p.filt, hist := p.hist })).tripRestart n
  let s2 := ((s1.cmpMuteSync n).ascSync n).chopInactive n
  (s2.ascReport n (s.bit (R.PSP.STAT n) 3)).slotEval n
/-- The protection of a slot after the soft reset of its page: a test gives its input back, the sources stand as their lines
do, and the Brakewheel learns of the level. -/
def State.pspReset (s : State) (n : Nat) : State :=
  let s1 := s.setPs n (fun p => { ({} : PspSt) with after := p.after })
  let s2 := match (s.ps n).test with | some ts => s1.testRestore n ts | none => s1
  let s3 := (List.range 20).foldl (fun (s : State) k => s.srcSet n k (s.srcOut n k)) s2
  (s3.slotEcho n).slotEval n
/-- The hidden state of a block after a soft reset of its page (assumption log 126). -/
def State.resetBlock (s : State) (pg : Nat) : State :=
  let n := instOf pg
  let sels (f : Selectors → Selectors) : State :=
    { s with sels := (List.range 8).foldl (fun (x : List (Nat × Selectors)) k => tset {} x k (f (tget {} s.sels k))) s.sels }
  match tyOf pg with
  | 0x04 =>
    let z : FbpSt := {}
    s.setFbp n (fun p => { z with lines := p.lines.map (fun l => { l with accStamp := none, rejStamped := false, rejPlain := false }) })
  | 0x05 => (s.sdmReset n).auxSources n
  | 0x06 => s.pwmReset n
  | 0x07 => s.pspReset n
  | 0x08 => (s.setCr n (fun k => { ({} : CoreSt) with outQ := k.outQ })).migWatch
  | 0x09 => s.setCr (28 + n) (fun k => { ({} : CoreSt) with orphan := k.giveUp.orphan })
  | 0x0a => s.sluiceReset.bwSync
  | 0x0b => { s with ws := vupd s.ws n (fun _ => {}), stp := vupd s.stp n (fun _ => {}), fbSel := vupd s.fbSel n (fun _ => {}) }.axisReset n
  | 0x0c => { (s.unarm n).groupReset n with sset := vupd s.sset n (fun _ => {}) }
  | 0x0d => (sels (fun x => { x with lsel := 0, tsel := 0 })).wallReset
  | 0x0e => { sels (fun x => { x with ltsel := 0 }) with lat := { cpPins := s.lat.cpPins, syncPins := s.lat.syncPins } }
  | 0x0f =>
    let z : HopSt := {}
    s.setHop (fun h =>
      { z with last := h.last, seen := h.seen, slotSeen := h.slotSeen, judged := h.judged, bad := h.bad, bist := h.bist })
  | 0x10 => s.fieldReset
  | 0x11 => { sels (fun x => { x with txsel := tset 0 x.txsel n 0 }) with can := vupd s.can n (fun _ => {}) }
  | 0x12 => s.setPort n (fun _ => {})
  | 0x13 =>
    let s2 := s.setRace n (fun _ => {})
    if n = 0 then s2.setRed (fun x => { ({} : RedSt) with next := x.next, num := x.num }) else s2
  | 0x17 => s.bistStop.setBist (fun b => { b with fails := [] })
  | 0x19 =>
    (List.range 48).foldl (fun (s : State) k => s.auxSources k) { s with aux := vupd s.aux n (fun _ => {}) }
  | _ => s
/-- An accepted soft reset completes (R38). -/
def State.softResetDone (s : State) (pg : Nat) : State :=
  if !s.busy pg then s else
  ((s.resetRegs pg).setPage pg (fun p => { keySeq := p.keySeq, lockFrom := p.lockFrom })).resetBlock pg

/-! ### Writes (R35, R38, R41, R49, R50) -/

/-- Writes of the WEIR page with a meaning of their own (R79, R83). -/
def State.weirHook (s : State) (off v : Nat) : Option State :=
  if off = 0x50 then some (s.weirInject v)
  else if off = 0x1a0 ∨ off = 0x1e0 then some (s.setRg (R.WEIR.base + off) (BitVec.ofNat 32 ((v &&& 0x1ff0000) + 1)))
  else if (0x900 ≤ off ∧ off < 0xa00) ∨ (0xb00 ≤ off ∧ off < 0xc00) then some s
  else none
/-- The effect a page gives a complete write to one of its registers, where it has one of its own. -/
def State.pageHook (s : State) (m : Master) (a v : Nat) : Option State :=
  let o := offOf a
  let n := instOf a
  let sl := s.selOf m
  match tyOf a with
  | 0x01 => if o = 0x44 then some (s.runCtrl m v) else none
  | 0x02 => if a = R.TIME.MT_CTRL then some (s.writeMt m v) else if a = R.TIME.SNAP_CTRL then some (s.writeSnapCtrl m v) else none
  | 0x03 => s.weirHook o v
  | 0x04 => s.fbpHook m n o v
  | 0x05 => s.sdmHook m n o v
  | 0x06 => s.pwmHook m n o v
  | 0x07 => s.pspHook m n o v
  | 0x08 => s.coreHook m n o v
  | 0x09 => s.coreHook m (28 + n) o v
  | 0x0a =>
    if 0x300 ≤ o ∧ o < 0xf00 ∧ (o - 0x300) % 0x30 = 4 then some (s.writeAxRun ((o - 0x300) / 0x30) v) else s.sluiceHook o v
  | 0x0b => s.axisHook m n o v
  | 0x0c => s.igrpHook n o v
  | 0x0d =>
    if o = 0x40 then some (s.setSel m (fun x => { x with lsel := v % 64 }))
    else if o = 0x44 then some (s.setSel m (fun x => { x with tsel := v % 64 }))
    else if 0x100 ≤ o ∧ o < 0x160 then s.linkHook m sl.lsel o v
    else if 0x200 ≤ o ∧ o < 0x220 then s.ctHook sl.tsel o
    else s.wallHook o v
  | 0x0e =>
    if o = 0x40 then some (s.setSel m (fun x => { x with ltsel := v % 128 })) else s.latHook sl.ltsel o v
  | 0x0f => s.hopHook m o v
  | 0x10 => s.fieldHook m o v
  | 0x11 =>
    if o = 0x68 then some (s.setSel m (fun x => { x with txsel := tset 0 x.txsel n (v % 32) }))
    else if 0x300 ≤ o ∧ o < 0x360 then s.txbHook n (tget 0 sl.txsel n) o
    else s.canHook n o v
  | 0x12 => s.ethHook n o v
  | 0x13 => if o = 0x50 then some (s.writeIncr (n == 1) v) else if o = 0x58 then some (s.writeOffset (n == 1) v) else s.ftHook m n o v
  | 0x14 =>
    if 0x300 ≤ o ∧ o < 0x358 then (if s.sess.proof then s.coreHook m 32 (o - 0x2c0) v else some s) else s.brakeHook (some m) o v
  | 0x15 => s.hostHook m o v
  | 0x16 => s.pwrHook m o v
  | 0x17 => s.bistHook m o v
  | 0x18 => s.cfsHook o v
  | 0x19 => s.auxHook m n o v
  | _ => none
/-- A complete write to a register: the page's own effect, or the effect of the access codes; a staged register of a
slot that is off acts at once (R8, R44, R146). -/
def State.writeFull (s : State) (m : Master) (a v : Nat) : State :=
  match s.pageHook m a v with
  | some t => t
  | none =>
    let pg := pageOf a
    let b := bankOf (s.selOf m) a
    match findReg b with
    | some (r, false) =>
      let s1 := s.writeRow m pg b r v
      if r.rws ≠ 0 ∧ tyOf a = 0x6 ∧ !s.en pg then s1.flushStaged pg else s1
    | _ => s
/-- A write of one word of a register page; `hold` for a 32-bit access, which uses the write-holding register (R49). -/
def State.writeWord (s : State) (m : Master) (a v : Nat) (hold : Bool) : State :=
  let pg := pageOf a
  let o := offOf a
  if o = 0x14 then (if !s.up || s.busy pg then s else s.lockWrite m pg v) else
  s.onPage pg (fun s =>
    if o < 0x40 then s.writeHeader m pg o v else
    match findReg (bankOf (s.selOf m) a) with
    | some (r, hi) =>
      if !r.wide then s.writeFull m a v
      else if !hold then s
      else if !hi then s.setPage pg (fun p => { p with wrHold := some (m, o, BitVec.ofNat 32 v) })
      else match (s.page pg).wrHold with
        | some (h, lo, w) =>
          if h = m ∧ lo + 4 = o then (s.setPage pg (fun p => { p with wrHold := none })).writeFull m (a - 4) (w.toNat + v * 2 ^ 32)
          else s.pairErr pg
        | none => s.pairErr pg
    | none => if tyOf a = 0x15 ∧ 0x800 ≤ o ∧ o < 0xc00 then s.writeFull m a v else s)
/-- A 64-bit write: one 64-bit register in one access, or two words, the low one first (R50). -/
def State.writePair (s : State) (m : Master) (a v : Nat) : State :=
  let wide : Bool := match findReg (bankOf (s.selOf m) a) with | some (r, hi) => r.wide && !hi | none => false
  if wide then s.onPage (pageOf a) (fun s => s.writeFull m a v)
  else (s.writeWord m a (v % 2 ^ 32) false).writeWord m (a + 4) (v >>> 32) false

/-! ### The memory windows (R34, R35, R305, R341, R541) -/

/-- The core whose memory a window address is, with the page that counts its ECC errors. -/
def winCore (a : Nat) : Option Nat :=
  match windowOf a with
  | .stone n => some n
  | .mw k => some (28 + k)
  | .brake => some 32
  | _ => none
/-- A write to the word is refused with MEM_BUSY (R34, R341, R541). -/
def State.winRefused (s : State) (a : Nat) : Bool :=
  match windowOf a with
  | .stone n => s.coreTested n || (s.coreState n != 3 && s.hostsAxes n)
  | .mw k => s.coreState (28 + k) != 3
  | .brake => !s.sess.proof
  | .cam => s.tableUsed ((a - 0x3000000) / 0x8000)
  | _ => false
/-- The word belongs to a queue entry between `Q_RD` and `Q_WR` (R305). -/
def State.queued (s : State) (a : Nat) : Bool :=
  let x := (a - 0x3200000) / 0x8000
  let e := (a - 0x3200000) % 0x8000 / 0x40
  windowOf a == .segq && decide ((e + 512 - s.fld (R.AXIS.Q_RD x) 9 0 % 512) % 512 < s.qLevel x)
/-- The bytes of `new` under the enables `be` put over a word. -/
def mixLanes (be : Nat) (old new : Nat) : Nat :=
  (List.range 4).foldl (fun w i => w + (if bitN be i then bitsN new (8 * i + 7) (8 * i) else bitsN old (8 * i + 7) (8 * i)) * 2 ^ (8 * i)) 0
/-- Bytes of one word of a window are stored; a word of a queued entry takes a value that the spec leaves open (R305). -/
def State.winWord (s : State) (a be v : Nat) : State :=
  if be = 0 then s else
  let new := BitVec.ofNat 32 (mixLanes be (s.ldw a).toNat v)
  match winCore a with
  | some c => s.eccWrite (corePage c) a new
  | none => if s.queued a then s.free.2.stw a (s.free.1.truncate 32) else s.stw a new
/-- The space (0 program, 1 X, 2 Y) and the word address at which core `c` sees a word of its windows (R190). -/
def winPlace (c a : Nat) : Nat × Nat :=
  if c < 28 then
    let o := a % 0x40000
    if o < 0x30000 then (o / 0x10000, o % 0x10000 / 4) else (1, 0x4000 + o % 0x10000 / 4)
  else if c < 32 then
    let o := a % 0x100000
    (if o < 0x40000 then 0 else if o < 0xc0000 then 1 else 2, o % 0x40000 / 4)
  else if a < 0x2c20000 then (0, (a - 0x2c00000) / 4) else (if a < 0x2c30000 then 1 else 2, a % 0x10000 / 4)
/-- A read of one word of a window: a single-bit error is corrected (R215), the word of a double-bit error is open, and in
an island memory such an access raises BW_ECC2 (R451). -/
def State.winRead (s : State) (a : Nat) : Word × State :=
  match winCore a with
  | some c =>
    if s.coreTested c ∨ s.eccOf a = 0 then (s.ldw a, s)
    else if s.eccOf a = 1 then (s.ldw a, s.eccCorr c a (winPlace c a).1 (winPlace c a).2)
    else (s.free.1.truncate 32, if c = 32 then s.free.2.islandFault 4 else s.free.2)
  | none => (s.ldw a, s)

/-! ### One access (R32, R33, R35) -/

/-- The address is that of a register page of an existing instance; the second PTP page has no redundancy block (R32, R447). -/
def regMapped (a : Nat) : Bool :=
  pageExists a && !(tyOf a == 0x13 && instOf a == 1 && 0x100 ≤ offOf a && offOf a < 0x180)
/-- The address is mapped for an access: aligned, and in a page or a window (R32, R33). -/
def mapped (a nb : Nat) : Bool :=
  a % nb == 0 && (if a < 0x2000000 then regMapped a else windowOf a != .none)
/-- A write of a master, `be` its byte enables (R33 to R35, R49, R50). -/
def State.busWrite (s : State) (m : Master) (a nb be v : Nat) : State :=
  if !s.up then s
  else if !mapped a nb then s.mapErr m a 0
  else if a < 0x2000000 then
    if nb < 4 ∨ be % 2 ^ nb ≠ 2 ^ nb - 1 then s.mapErr m a 1
    else if nb = 8 then s.writePair m a v
    else s.writeWord m a (v % 2 ^ 32) true
  else
    let w := a / 4 * 4
    let lanes := be % 2 ^ nb * 2 ^ (a % 4)
    let data := v % 2 ^ (8 * nb) * 2 ^ (8 * (a % 4))
    if (lanes % 16 ≠ 0 ∧ s.winRefused w) ∨ (lanes / 16 ≠ 0 ∧ s.winRefused (w + 4)) then s.mapErr m a 2
    else (s.winWord w (lanes % 16) (data % 2 ^ 32)).winWord (w + 4) (lanes / 16) (data >>> 32)
/-- A read of a master, `be` its byte enables: the value, and the state after its effects (R33, R35, R48, R50). A 64-bit
read, partial or not, uses no holding register (assumption log 177). -/
def State.busRead (s : State) (m : Master) (a nb be : Nat) : DWord × State :=
  if !s.up then (0, s)
  else if !mapped a nb then (0, s.mapErr m a 0)
  else
    let w := a / 4 * 4
    let lanes := be % 2 ^ nb * 2 ^ (a % 4)
    let one (s : State) (x : Nat) : Word × State := if a < 0x2000000 then s.readWord m x (nb != 8) else s.winRead x
    let lo := if lanes % 16 = 0 then (0, s) else one s w
    let hi := if lanes / 16 = 0 then (0, lo.2) else one lo.2 (w + 4)
    let val := mixLanes (lanes % 16) 0 lo.1.toNat + mixLanes (lanes / 16) 0 hi.1.toNat * 2 ^ 32
    (BitVec.ofNat 64 (val / 2 ^ (8 * (a % 4))), hi.2)

/-! ### The commands of chapter 02 -/

/-- A 32-bit write by a master, all bytes enabled. -/
def State.write32 (s : State) (m : Master) (a : Nat) (v : Word) : State := s.busWrite m a 4 15 v.toNat
/-- A 32-bit read by a master, what it returns kept in `rd`. -/
def State.read32 (s : State) (m : Master) (a : Nat) : State :=
  let r := s.busRead m a 4 15
  { r.2 with rd := r.1 }

/-- REGISTER_WRITE (R8, R35, R50): a write of any width and byte enables. -/
def execRegisterWrite (t : Time) (m : Master) (a : BitVec 26) (w : Width) (be : BitVec 8) (v : DWord) (s : State) :
    Host.Outcome State Fault Refusal := .next ((s.tick t).busWrite m a.toNat w.bytes be.toNat v.toNat)
/-- STAGED_REGISTER_WRITE (R44): a 32-bit write, or with `wide` a 64-bit write, of an RW-S register. -/
def execStagedRegisterWrite (t : Time) (m : Master) (a : BitVec 26) (wide : Bool) (v : DWord) (s : State) :
    Host.Outcome State Fault Refusal :=
  .next ((s.tick t).busWrite m a.toNat (if wide then 8 else 4) 0xff v.toNat)
/-- RC_READ (R51): a read of any width and byte enables. -/
def execRcRead (t : Time) (m : Master) (a : BitVec 26) (w : Width) (be : BitVec 8) (s : State) : Host.Outcome State Fault Refusal :=
  let r := (s.tick t).busRead m a.toNat w.bytes be.toNat
  .next { r.2 with rd := r.1 }
/-- PAIR_LOW_READ (R48). -/
def execPairLowRead (t : Time) (m : Master) (a : BitVec 26) (s : State) : Host.Outcome State Fault Refusal :=
  .next ((s.tick t).read32 m a.toNat)
/-- PAIR_HIGH_READ (R48). -/
def execPairHighRead (t : Time) (m : Master) (a : BitVec 26) (s : State) : Host.Outcome State Fault Refusal :=
  .next ((s.tick t).read32 m a.toNat)
/-- PAIR_LOW_WRITE (R49). -/
def execPairLowWrite (t : Time) (m : Master) (a : BitVec 26) (v : Word) (s : State) : Host.Outcome State Fault Refusal :=
  .next ((s.tick t).write32 m a.toNat v)
/-- PAIR_HIGH_WRITE (R49). -/
def execPairHighWrite (t : Time) (m : Master) (a : BitVec 26) (v : Word) (s : State) : Host.Outcome State Fault Refusal :=
  .next ((s.tick t).write32 m a.toNat v)
/-- UNMAPPED_ACCESS (R33): a read, or with `wr` a write, of any width. -/
def execUnmappedAccess (t : Time) (m : Master) (a : BitVec 26) (w : Width) (wr : Bool) (v : DWord) (s : State) :
    Host.Outcome State Fault Refusal :=
  let s := s.tick t
  let r := s.busRead m a.toNat w.bytes 0xff
  .next (if wr then s.busWrite m a.toNat w.bytes 0xff v.toNat else { r.2 with rd := r.1 })
/-- The value of a page's `PG_CTRL` with its control bits replaced. -/
def State.ctrlWord (s : State) (pg : Nat) (srst : Bool) (freeze : Bool) : Word :=
  BitVec.ofNat 32 (b2n (s.en pg) + b2n srst * 2 + b2n freeze * 4)
/-- SOFT_RESET (R38): SRST is written 1 to the page at `a`, the other bits as they stand. -/
def execSoftReset (t : Time) (m : Master) (a : BitVec 26) (s : State) : Host.Outcome State Fault Refusal :=
  let s := s.tick t
  let pg := pageOf a.toNat
  .next (s.write32 m (R.PG_CTRL pg) (s.ctrlWord pg true (s.frozen pg)))
/-- SOFT_RESET_DONE (R38): the soft reset of the page at `a` completes, within 1 us. -/
def execSoftResetDone (t : Time) (a : BitVec 26) (s : State) : Host.Outcome State Fault Refusal :=
  .next ((s.tick t).softResetDone (pageOf a.toNat))
/-- FREEZE_CAPTURE (R39). -/
def execFreezeCapture (t : Time) (m : Master) (a : BitVec 26) (s : State) : Host.Outcome State Fault Refusal :=
  let s := s.tick t
  let pg := pageOf a.toNat
  .next (s.write32 m (R.PG_CTRL pg) (s.ctrlWord pg false true))
/-- FREEZE_RELEASE (R39). -/
def execFreezeRelease (t : Time) (m : Master) (a : BitVec 26) (s : State) : Host.Outcome State Fault Refusal :=
  let s := s.tick t
  let pg := pageOf a.toNat
  .next (s.write32 m (R.PG_CTRL pg) (s.ctrlWord pg false false))
/-- IRQ_CLEAR (R40). -/
def execIrqClear (t : Time) (m : Master) (a : BitVec 26) (v : Word) (s : State) : Host.Outcome State Fault Refusal :=
  .next ((s.tick t).write32 m (R.PG_IRQ (pageOf a.toNat)) v)
/-- UNLOCK_FIRST_KEY (R41). -/
def execUnlockFirstKey (t : Time) (m : Master) (a : BitVec 26) (s : State) : Host.Outcome State Fault Refusal :=
  .next ((s.tick t).write32 m (R.PG_LOCK (pageOf a.toNat)) 0xC41A)
/-- UNLOCK_SECOND_KEY (R41). -/
def execUnlockSecondKey (t : Time) (m : Master) (a : BitVec 26) (s : State) : Host.Outcome State Fault Refusal :=
  .next ((s.tick t).write32 m (R.PG_LOCK (pageOf a.toNat)) 0xA14C)
/-- UNLOCK_TIMEOUT (R41). -/
def execUnlockTimeout (t : Time) (a : BitVec 26) (s : State) : Host.Outcome State Fault Refusal :=
  .next ((s.tick t).unlockTimeout (pageOf a.toNat))
/-- LOCK_ZERO_WRITE (R42, R569). -/
def execLockZeroWrite (t : Time) (m : Master) (a : BitVec 26) (s : State) : Host.Outcome State Fault Refusal :=
  .next ((s.tick t).write32 m (R.PG_LOCK (pageOf a.toNat)) 0)
/-- LOCK_OTHER_WRITE (R569). -/
def execLockOtherWrite (t : Time) (m : Master) (a : BitVec 26) (v : Word) (s : State) : Host.Outcome State Fault Refusal :=
  .next ((s.tick t).write32 m (R.PG_LOCK (pageOf a.toNat)) v)
/-- LOCK_TIMEOUT (R42). -/
def execLockTimeout (t : Time) (a : BitVec 26) (s : State) : Host.Outcome State Fault Refusal :=
  .next ((s.tick t).lockTimeout (pageOf a.toNat))
/-- LOCKED_REGISTER_WRITE (R42, R43, R570). -/
def execLockedRegisterWrite (t : Time) (m : Master) (a : BitVec 26) (wide : Bool) (v : DWord) (s : State) :
    Host.Outcome State Fault Refusal :=
  .next ((s.tick t).busWrite m a.toNat (if wide then 8 else 4) 0xff v.toNat)
/-- SHADOW_HOLD (R46). -/
def execShadowHold (t : Time) (m : Master) (a : BitVec 26) (on : Bool) (s : State) : Host.Outcome State Fault Refusal :=
  .next ((s.tick t).write32 m (R.PG_SHADOW (pageOf a.toNat)) (if on then 1 else 0))
/-- SHADOW_DISCARD (R46): HOLD as it stands. -/
def execShadowDiscard (t : Time) (m : Master) (a : BitVec 26) (s : State) : Host.Outcome State Fault Refusal :=
  let s := s.tick t
  let pg := pageOf a.toNat
  .next (s.write32 m (R.PG_SHADOW pg) (BitVec.ofNat 32 (b2n (s.bit (R.PG_SHADOW pg) 0) + 2)))
/-- SELECTOR_WRITE (R349): a write of a selector of the writing master. -/
def execSelectorWrite (t : Time) (m : Master) (a : BitVec 26) (v : Word) (s : State) : Host.Outcome State Fault Refusal :=
  .next ((s.tick t).write32 m a.toNat v)

end Sys2Proof.Machine
end

