-- ==== Sys2Proof/Machine/HostCmd.lean ====
section
/-! DEFINITION. The commands of the submission rings, the SPI frames and the reads of BAR2 (R491, R493 to R495, R502, R507
to R509, R525, R376). -/

namespace Sys2Proof.Machine

/-! ### System addresses (R192, R491) -/

/-- A write to a system byte address (R192): BAR0 below 0x04000000, then BAR2 as the host sees it, with the pond first and
the Hopper memory from 0x05000000 on, which takes no write; only the host and the millwrights reach the pond (R491). -/
def State.sysWrite (s : State) (m : Master) (a nb be v : Nat) : State :=
  if a < 0x4000000 then s.busWrite m a nb be v
  else if !s.up then s
  else if a % nb ≠ 0 ∨ 0x4800000 ≤ a ∨ m = .spi ∨ m = .debug then s.mapErr m a 0
  else
    let p := pondBase + (a - 0x4000000)
    { s with mem := (List.range nb).foldl (fun (x : List Host.Cell) i =>
        if bitN be i then Memory.write x (p + i) (BitVec.ofNat 8 (v >>> (8 * i))) else x) s.mem }
/-- A read of a system byte address (R192, R376, R491, R541): each word of the Hopper memory is checked for parity. -/
def State.sysRead (s : State) (m : Master) (a nb be : Nat) : DWord × State :=
  if a < 0x4000000 then s.busRead m a nb be
  else if !s.up then (0, s)
  else if a % nb ≠ 0 ∨ m = .spi ∨ m = .debug ∨ 0x6000000 ≤ a ∨ (0x4800000 ≤ a ∧ a < 0x5000000) then (0, s.mapErr m a 0)
  else if a < 0x4800000 then (BitVec.ofNat 64 (Memory.readN s.mem (pondBase + (a - 0x4000000)) nb), s)
  else if s.bistOn 3 0 then (0, s)
  else
    let h := hopperBase + (a - 0x5000000)
    let s1 := s.hopParity (h / 4 * 4)
    (BitVec.ofNat 64 (Memory.readN s.mem h nb), if nb = 8 then s1.hopParity (h + 4) else s1)

/-! ### Ring commands (R493, R495, R502) -/

/-- Word `i` of a command's descriptor. -/
def HostCmd.word (c : HostCmd) (i : Nat) : Nat := (c.desc.getD i 0).toNat
/-- The opcode of a command. -/
def HostCmd.op (c : HostCmd) : Nat := c.word 0 % 2 ^ 8
/-- LEN of a command. -/
def HostCmd.len (c : HostCmd) : Nat := c.word 1 % 2 ^ 24
/-- DADDR of a command. -/
def HostCmd.daddr (c : HostCmd) : Nat := c.word 4 + c.word 5 * 2 ^ 32
/-- The command of ring `r` with an opcode that goes on or starts next, with its place (R493). -/
def State.ringCmd (s : State) (r op : Nat) : Option (Nat × HostCmd) :=
  (s.nextCmd r op).map (fun i => (i, s.host.cmds.getD i default))
/-- The command at place `i` ends. -/
def State.endCmd (s : State) (i status bytes : Nat) (data : Option DWord) : State :=
  s.setCmd i (fun c => { c with started := true, done := bytes, ended := some ⟨status, bytes, data⟩ })
/-- REG_READ: one read at DADDR (R495). -/
def State.regRead (s : State) (r : Nat) : State :=
  match s.ringCmd r 1 with
  | none => s
  | some (i, c) =>
    let x := s.sysRead .host c.daddr c.len 0xff
    x.2.endCmd i 0 c.len (some x.1)
/-- REG_WRITE: one write at DADDR (R495). -/
def State.regWrite (s : State) (r : Nat) : State :=
  match s.ringCmd r 2 with
  | none => s
  | some (i, c) => (s.sysWrite .host c.daddr c.len 0xff (c.word 6 + c.word 7 * 2 ^ 32)).endCmd i 0 c.len none
/-- HOST_NOP (R495). -/
def State.hostNop (s : State) (r : Nat) : State :=
  match s.ringCmd r 6 with
  | none => s
  | some (i, _) => s.endCmd i 0 0 none

/-- The DMA of a command fails: the host memory access fails, or the injection of R512 is used. -/
def State.dmaFails (s : State) (ok : Bool) : Bool := !ok || s.bit (R.PG_ERRINJ R.HOST.base) 16
/-- The injection of R512 clears when used. -/
def State.dmaUsed (s : State) : State := s.putBit (R.PG_ERRINJ R.HOST.base) 16 false
/-- The DMA of the command at place `i` waits for the PCIe PLL (R525). -/
def State.holdDma (s : State) (i : Nat) : State :=
  s.setCmd i (fun c => { c with started := true, held := some (c.held.getD s.now) })
/-- The words that a started copy may still move: all that are left, or, once aborted, those up to the next 256 B
boundary of its device address (R502). -/
def HostCmd.room (c : HostCmd) : Nat :=
  let left := (c.len - c.done) / 4
  if c.aborted then min left ((256 - (c.daddr + c.done) % 256) % 256 / 4) else left
/-- A copy has moved what it had to (R495, R502). -/
def State.copyEnd (s : State) (i : Nat) : State :=
  let c := s.host.cmds.getD i default
  if c.room = 0 then s.endCmd i 0 c.done none else s
/-- A copy may act at a system address: a memory window or the pond (R495). -/
def copyable (a : Nat) : Bool :=
  a % 4 == 0 && ((0x2000000 ≤ a && a < 0x4000000 && windowOf a != .none) || (0x4000000 ≤ a && a < 0x4800000))
/-- One word of a copy to the device; it ends with BAD_ADDR at an address that takes no copy, or at a refused word. -/
def State.copyInWord (s : State) (i : Nat) (w : Word) : State :=
  let c := s.host.cmds.getD i default
  let a := c.daddr + c.done
  if c.ended.isSome ∨ c.room = 0 then s
  else if !copyable a then s.endCmd i 3 c.done none
  else if a < 0x4000000 ∧ s.winRefused a then (s.sysWrite .host a 4 15 w.toNat).endCmd i 3 c.done none
  else (s.sysWrite .host a 4 15 w.toNat).setCmd i (fun c => { c with done := c.done + 4 })
/-- One word of a copy from the device. -/
def State.copyOutWord (s : State) (i : Nat) : State :=
  let c := s.host.cmds.getD i default
  let a := c.daddr + c.done
  if c.ended.isSome ∨ c.room = 0 then s
  else if !copyable a then s.endCmd i 3 c.done none
  else
    let x := s.sysRead .host a 4 15
    (x.2.hostWords (c.word 2 + c.word 3 * 2 ^ 32 + c.done) [x.1.truncate 32]).setCmd i (fun c => { c with done := c.done + 4 })
/-- A portion of a copy: held, failed, or moved word by word by `f` (R495, R502, R525). -/
def State.copyStep (s : State) (r op : Nat) (ok : Bool) (f : State → Nat → State) : State :=
  match s.ringCmd r op with
  | none => s
  | some (i, c) =>
    if c.aborted ∧ c.room = 0 then s.endCmd i 0 c.done none
    else if s.pcieHeld then s.holdDma i
    else if s.dmaFails ok then s.dmaUsed.endCmd i 7 c.done none
    else (f (s.setCmd i (fun c => { c with started := true, held := none })) i).copyEnd i
/-- Internal ports that a frame to the races of a mask is to leave by. -/
def State.sendTargets (s : State) (mask : Nat) (b : List Byte) : Nat :=
  ([0, 1].filter (fun r => bitN mask r)).foldl (fun (n : Nat) r =>
    let m := (s.learn r 2 (beAt b 6 6)).fdbPorts r 2 (beAt b 0 6)
    n + b2n (m.testBit 0) + b2n (m.testBit 1)) 0
/-- TX_FRAME: the frame at HADDR, as the device reads it, goes to the race in RACE (R495, R417). -/
def State.txFrame (s : State) (r : Nat) (b : List Byte) (ok : Bool) : State :=
  match s.ringCmd r 5 with
  | none => s
  | some (i, c) =>
    if c.aborted then s.endCmd i 0 0 none
    else if s.pcieHeld then s.holdDma i
    else if s.dmaFails ok then s.dmaUsed.endCmd i 7 0 none
    else
      let mask := if c.word 6 % 4 = 0 then s.traffic else c.word 6 % 4
      let fr := (b ++ List.replicate c.len 0).take c.len
      let s1 := s.raceSendMask mask fr
      let used := s1.raceUse 0 |>.2
      let before := s.raceUse 0 |>.2
      let lost := decide (used + (s1.raceUse 1).2 < before + (s.raceUse 1).2 + s.sendTargets mask fr)
      s1.endCmd i (if lost then 8 else 0) c.len none

/-- REG_READ (R495): the command of ring `r` that goes on next. -/
def execRegRead (t : Time) (r : Fin 8) (s : State) : Host.Outcome State Fault Refusal := .next ((s.tick t).regRead r)
/-- REG_WRITE (R495). -/
def execRegWrite (t : Time) (r : Fin 8) (s : State) : Host.Outcome State Fault Refusal := .next ((s.tick t).regWrite r)
/-- COPY_IN (R495): the next words of the copy of ring `r`, as the device reads them from the host. -/
def execCopyIn (t : Time) (r : Fin 8) (data : List Word) (ok : Bool) (s : State) : Host.Outcome State Fault Refusal :=
  .next ((s.tick t).copyStep r 3 ok (fun s i => data.foldl (fun (s : State) w => s.copyInWord i w) s))
/-- COPY_OUT (R495): the next `n` words of the copy of ring `r`. -/
def execCopyOut (t : Time) (r : Fin 8) (n : Fin 65536) (ok : Bool) (s : State) : Host.Outcome State Fault Refusal :=
  .next ((s.tick t).copyStep r 4 ok (fun s i => (List.range n).foldl (fun (s : State) _ => s.copyOutWord i) s))
/-- TX_FRAME (R495). -/
def execTxFrame (t : Time) (r : Fin 8) (bytes : List Byte) (ok : Bool) (s : State) : Host.Outcome State Fault Refusal :=
  .next ((s.tick t).txFrame r bytes ok)
/-- HOST_NOP (R495). -/
def execHostNop (t : Time) (r : Fin 8) (s : State) : Host.Outcome State Fault Refusal := .next ((s.tick t).hostNop r)
/-- BAR2_READ (R376, R491): a read by the host at an offset of BAR2. -/
def execBar2Read (t : Time) (a : BitVec 25) (w : Width) (s : State) : Host.Outcome State Fault Refusal :=
  let x := (s.tick t).sysRead .host (0x4000000 + a.toNat) w.bytes 0xff
  .next { x.2 with rd := x.1 }
/-- MEMORY_WINDOW_WRITE (R34, R491): a write to a memory window of BAR0, or by the host to BAR2, from 0x04000000 on. -/
def execMemoryWindowWrite (t : Time) (m : Master) (a : BitVec 27) (w : Width) (be : BitVec 8) (v : DWord) (s : State) :
    Host.Outcome State Fault Refusal := .next ((s.tick t).sysWrite m a.toNat w.bytes be.toNat v.toNat)

/-! ### SPI frames (R507 to R509) -/

/-- `SPI_nCS` rises after `clocks` clocks with the bits `mosi` of the first 72; the clock is at its idle level or not; the
mode is 3; the first clock came at `first`. -/
def State.spiFrame (s : State) (clocks mosi : Nat) (idle mode3 : Bool) (first : Time) : State :=
  if clocks = 0 ∨ !s.up then s else
  let out := s.spiOut first
  let s1 := { out.2 with rd := out.1 }
  let code := s1.spiJudge clocks mosi idle
  let s2 := (s1.putBit (R.PG_ERRINJ R.SPI.base) 16 false).putBit R.SPI.STAT 2 mode3
  if code ≠ 0 then s2.spiDiscard code else
  let s3 := ({ s2 with spi := { s2.spi with code := 0 } }).count R.SPI.FRAMES 31 0 1
  let v := mosi / 256
  let a := bitsN v 55 32
  match bitsN v 63 56 with
  | 1 =>
    let x := s3.busRead .spi (4 * a) 4 15
    { x.2 with spi := { x.2.spi with read := some (a, x.1.truncate 32, none) } }
  | 2 => s3.busWrite .spi (4 * a) 4 15 (v % 2 ^ 32)
  | _ => s3
/-- A frame of 72 clocks with its CRC. -/
def spiWord (op a d : Nat) : Nat :=
  let v := op * 2 ^ 56 + a * 2 ^ 32 + d
  v * 256 + spiCrc v
/-- SPI_FRAME (R508). -/
def execSpiFrame (t : Time) (clocks : Fin 256) (mosi : BitVec 72) (idle mode3 : Bool) (first : Time) (s : State) :
    Host.Outcome State Fault Refusal := .next ((s.tick t).spiFrame clocks mosi.toNat idle mode3 first)
/-- SPI_READ (R508): a well-formed READ frame of the word address `a`. -/
def execSpiRead (t : Time) (a : BitVec 24) (mode3 : Bool) (first : Time) (s : State) : Host.Outcome State Fault Refusal :=
  .next ((s.tick t).spiFrame 72 (spiWord 1 a.toNat 0) true mode3 first)
/-- SPI_WRITE (R508). -/
def execSpiWrite (t : Time) (a : BitVec 24) (v : Word) (mode3 : Bool) (first : Time) (s : State) : Host.Outcome State Fault Refusal :=
  .next ((s.tick t).spiFrame 72 (spiWord 2 a.toNat v.toNat) true mode3 first)
/-- SPI_NOP (R507). -/
def execSpiNop (t : Time) (mode3 : Bool) (first : Time) (s : State) : Host.Outcome State Fault Refusal :=
  .next ((s.tick t).spiFrame 72 (spiWord 0 0 0) true mode3 first)
/-- SPI_READ_DONE (R509): the read of an accepted READ frame completes. -/
def execSpiReadDone (t : Time) (s : State) : Host.Outcome State Fault Refusal :=
  let s := s.tick t
  .next (match s.spi.read with
    | some (a, w, none) => { s with spi := { s.spi with read := some (a, w, some s.now) } }
    | _ => s)

/-! ### The Weir's delivery (R72, R353) -/

/-- WEIR_DELIVERY (R72): one TCLK edge of the Weir, with the sources whose watermark is below the frontier; the Latch unit
takes the records of Q5. -/
def execWeirDelivery (t : Time) (lag : List (Fin 1024)) (s : State) : Host.Outcome State Fault Refusal :=
  .next ((s.tick t).weirEdge (lag.map (fun x => x.val))).1.latchRecords

end Sys2Proof.Machine
end

