-- ==== Sys2Proof/Machine/Flags.lean ====
section
/-! DEFINITION. The flags of the Stone instruction set: the codes of R229 as pending results of SR, and the conditions of
a branch (R189, R242). -/

namespace Sys2Proof.Machine

/-- An exact value lies in the signed range of `n` bits: no overflow. -/
def fits (n : Nat) (v : Int) : Bool := decide (-(2 ^ (n - 1) : Int) ≤ v) && decide (v < (2 ^ (n - 1) : Int))
/-- Z and N of a result, in their places in SR (R189). -/
def znBits {n : Nat} (r : BitVec n) : Nat := b2n (r == 0) + 2 * b2n r.msb
/-- VL and V in their places: both set with an overflow (R189, R229). -/
def vBits (ovf : Bool) : Nat := 24 * b2n ovf
/-- Code ZNCV (R229). -/
def flZNCV {n : Nat} (r : BitVec n) (c ovf : Bool) : Wr := .sr 15 (BitVec.ofNat 32 (znBits r + 4 * b2n c + vBits ovf))
/-- Code ZNV (R229). -/
def flZNV {n : Nat} (r : BitVec n) (ovf : Bool) : Wr := .sr 11 (BitVec.ofNat 32 (znBits r + vBits ovf))
/-- Code ZN: VL becomes 0 (R229). -/
def flZN {n : Nat} (r : BitVec n) : Wr := .sr 11 (BitVec.ofNat 32 (znBits r))
/-- Code VO (R229). -/
def flVO (ovf : Bool) : Wr := .sr 8 (BitVec.ofNat 32 (vBits ovf))
/-- Z and N alone, of `SATX` (R239). -/
def flExcess {n : Nat} (r : BitVec n) : Wr := .sr 3 (BitVec.ofNat 32 (znBits r))
/-- S set by a store that clipped (R202). -/
def flSat : Wr := .sr 0 32
/-- VL and V set by a store that wrapped (R202). -/
def flWrap : Wr := .sr 0 24
/-- DZ set (R189, R241). -/
def flDZ : Wr := .sr 0 64

/-- The condition of R242 on the flags that a branch sees. -/
def condTrue (cond : Nat) (sr : Word) : Bool :=
  let z := wbit sr 0
  let n := wbit sr 1
  let c := wbit sr 2
  let vl := wbit sr 3
  match cond with
  | 0 => true
  | 1 => z
  | 2 => !z
  | 3 => n != vl
  | 4 => n == vl
  | 5 => !z && n == vl
  | 6 => z || n != vl
  | 7 => c
  | 8 => !c
  | 9 => n
  | 10 => !n
  | 11 => vl
  | 12 => !vl
  | 13 => wbit sr 4
  | 14 => wbit sr 5
  | _ => false

end Sys2Proof.Machine
end

