-- ==== Sys2Proof/Machine/IsaWords.lean ====
section
/-! DEFINITION. The words of the Stone instruction set: which instruction a word is, and which words are illegal
(R224, R227, R228, R230 to R254). -/

namespace Sys2Proof.Machine

/-- The instructions of chapter 09, by mnemonic. -/
inductive Op
  | add | sub | neg | abs | and_ | or_ | xor | not_ | min | max | mov | cmp | cls
  | shl | shra | shrl | shli | shrai | shrli | addi | cmpi | movi | movhi | movl | movpi | movs
  | ld | st | sta | ldd | mpy | mac | mpyd | macd | ftap
  | clra | mova | adda | suba | nega | absa | asr | asl | ldah | ldax | addah | addax | xlo | xhi | xgd | cmpa | satx
  | sincos | atan2 | rsqrt | div | divi
  | bcc | call | bri | calli | ret | retn | reti | nop | bkpt | rpt | brpt | brptL
  | waitt | in_ | out | trc
deriving DecidableEq, Repr

/-- FN of the R form (R230). -/
def fnR : List (Nat × Op) :=
  [(0x00, .add), (0x01, .sub), (0x02, .neg), (0x03, .abs), (0x04, .and_), (0x05, .or_), (0x06, .xor), (0x07, .not_), (0x08, .min),
   (0x09, .max), (0x0A, .mov), (0x0B, .cmp), (0x0C, .cls), (0x10, .shl), (0x11, .shra), (0x12, .shrl), (0x14, .shli),
   (0x15, .shrai), (0x16, .shrli)]
/-- FN of the MAC form (R236). -/
def fnMac : List (Nat × Op) := [(0, .mpy), (1, .mac), (2, .mpyd), (3, .macd)]
/-- FN of the A form (R238). -/
def fnA : List (Nat × Op) :=
  [(0x00, .clra), (0x01, .mova), (0x02, .adda), (0x03, .suba), (0x04, .nega), (0x05, .absa), (0x06, .asr), (0x07, .asl),
   (0x08, .ldah), (0x09, .ldax), (0x0A, .addah), (0x0B, .addax), (0x0C, .xlo), (0x0D, .xhi), (0x0E, .xgd), (0x0F, .cmpa)]
/-- FN of the PR form (R240). -/
def fnPr : List (Nat × Op) := [(0, .sincos), (1, .atan2), (2, .rsqrt), (3, .div), (4, .divi)]
/-- FN of the C form (R243, R251). -/
def fnC : List (Nat × Op) := [(0, .nop), (1, .bri), (2, .calli), (3, .ret), (4, .retn), (5, .reti), (6, .bkpt)]
/-- The opcodes that name one instruction (R228). -/
def opMap : List (Nat × Op) :=
  [(0x02, .addi), (0x03, .cmpi), (0x04, .movi), (0x05, .movhi), (0x06, .movl), (0x07, .movpi), (0x08, .movs), (0x10, .ld),
   (0x11, .st), (0x12, .sta), (0x13, .ld), (0x14, .st), (0x15, .sta), (0x16, .ldd), (0x18, .in_), (0x19, .out), (0x1A, .trc),
   (0x1B, .waitt), (0x21, .ftap), (0x23, .satx), (0x30, .bcc), (0x31, .call), (0x34, .rpt), (0x35, .brpt), (0x36, .brptL)]
/-- The instruction whose opcode and function a first word holds, none for a reserved one (R228). -/
def opOf (w : Word) : Option Op :=
  match wfld w 31 26 with
  | 0x01 => fnR.lookup (wfld w 5 0)
  | 0x20 => fnMac.lookup (wfld w 25 23)
  | 0x22 => fnA.lookup (wfld w 25 21)
  | 0x24 => fnPr.lookup (wfld w 25 23)
  | 0x32 => fnC.lookup (wfld w 25 22)
  | op => opMap.lookup op
/-- The word begins a 64-bit form (R224, R228). -/
def isLong (w : Word) : Bool := wfld w 31 26 == 0x06 || wfld w 31 26 == 0x36
/-- Words of an instruction. -/
def wordsOf (w : Word) : Nat := if isLong w then 2 else 1

/-- The reserved and unused bits of the first word, which must be 0 (R227, R230, R231, R236 to R240, R243, R251). -/
def zeroBits : Op → Nat
  | .add | .sub | .and_ | .or_ | .xor | .min | .max | .shl | .shra | .shrl => 0x3FC0
  | .neg | .abs | .not_ | .mov | .cls => 0x3FFC0
  | .cmp => 0x03C03FC0
  | .shli | .shrai | .shrli => 0x3F800
  | .addi => 0x30000
  | .cmpi => 0x03C30000
  | .movi | .movhi => 0x3F0000
  | .movl => 0x3FFFFF
  | .movpi => 0x300000
  | .movs => 0x1FFF
  | .ld | .st | .sta | .in_ | .out => 0
  | .ldd => 0x3
  | .trc => 0x300000
  | .waitt => 0x3FFFF
  | .mpy | .mac => 0x1FEF
  | .mpyd | .macd => 0x7
  | .ftap => 0x3FFFF
  | .clra => 0x7FFFF
  | .mova | .adda | .suba | .nega | .absa | .cmpa => 0x1FFFF
  | .asr => 0x1FE03
  | .asl => 0x1FE07
  | .ldah | .addah => 0x61FFF
  | .ldax | .addax => 0x601FF
  | .xlo | .xhi | .xgd => 0x181FFF
  | .satx => 0x3FFF
  | .sincos | .rsqrt => 0x7FFF
  | .atan2 | .div | .divi => 0x7FF
  | .bcc => 0x300000
  | .call => 0x03F00000
  | .nop | .ret | .retn | .reti | .bkpt => 0x3FFFFF
  | .bri => 0x7FFF
  | .calli => 0x7FFFF
  | .rpt => 0x3FFF000
  | .brpt => 0
  | .brptL => 0x100000

/-- MODE and OFS of the M form, and the reserved bit of the D form (R227). -/
def formM (w : Word) : Bool :=
  if decide (0x13 ≤ wfld w 31 26) && decide (wfld w 31 26 ≤ 0x15) then !wbit w 20
  else match wfld w 20 18 with
  | 0 => wfld w 14 0 == 0
  | 1 | 3 | 6 => wfld w 11 0 == 0
  | 7 => false
  | _ => true
/-- MODE and OFS of the F form (R227). -/
def formF (w : Word) : Bool :=
  match wfld w 19 17 with
  | 0 => wfld w 13 0 == 0
  | 1 | 3 | 6 => wfld w 10 0 == 0
  | _ => true
/-- An index and direction that R232 permits for the class of core `c`. -/
def movsOk (c : Nat) (w : Word) : Bool :=
  let i := wfld w 20 13
  let read := wbit w 25
  let mw := decide (28 ≤ c) && decide (c < 32)
  if 0x20 ≤ i ∧ i < 0x38 then true
  else if i = 0x39 ∨ i = 0x3A then true
  else if i = 0x38 ∨ i = 0x3C then read
  else if i = 0x3B then read && decide (c < 28)
  else if 0x40 ≤ i ∧ i < 0x49 then read && decide (28 ≤ c)
  else if 0x50 ≤ i ∧ i < 0x56 then mw
  else false
/-- The class of core `c` has the instruction (R253). -/
def classHas (c : Nat) : Op → Bool
  | .brpt | .brptL => decide (28 ≤ c)
  | .retn | .reti => decide (28 ≤ c) && decide (c < 32)
  | .waitt | .in_ | .out => decide (c < 28)
  | .trc => decide (c < 32)
  | _ => true
/-- The words of an instruction are legal on core `c` (R254). -/
def legal (c : Nat) (o : Op) (w0 w1 : Word) : Bool :=
  classHas c o && (w0.toNat &&& zeroBits o) == 0 &&
  match o with
  | .movs => movsOk c w0
  | .ld | .st => formM w0
  | .sta => formM w0 && wfld w0 25 24 != 3
  | .ldd => !(wfld w0 17 15 == wfld w0 9 7 && wfld w0 11 10 != 0 && wfld w0 3 2 != 0)
  | .in_ | .out => formF w0 && wfld w0 21 20 != 3
  | .trc => formF w0
  | .waitt => wfld w0 19 18 != 3
  | .ftap => wfld w0 23 21 != wfld w0 20 18
  | .satx => wfld w0 25 24 != wfld w0 23 22
  | .sincos => !wbit w0 19
  | .bcc => wfld w0 25 22 != 15
  | .bri => wfld w0 18 15 != 15
  | .brptL => if wbit w0 25 then w1 == 0 else wfld w1 31 16 == 0
  | _ => true
/-- A branch, call or return, `RPT` or `BRPT` (R199). -/
def isControl : Op → Bool
  | .bcc | .call | .bri | .calli | .ret | .retn | .reti | .rpt | .brpt | .brptL => true
  | _ => false

end Sys2Proof.Machine
end

