-- ==== Sys2Proof/Machine/Operands.lean ====
section
/-! DEFINITION. The operand forms of the Stone instruction set: the addressing modes of R194 to R196 and the fields of the
M, D and F forms (R227). -/

namespace Sys2Proof.Machine

/-- A new pointer value of a post- or pre-modify: wrapped for P0 to P3 with a length, linear otherwise (R195). -/
def CoreSt.circ (k : CoreSt) (n : Nat) (q : Int) : Nat :=
  let q := ux 20 q
  if n < 4 ∧ vget k.l n ≠ 0 then
    ux 20 (Int.ofNat (vget k.b n) + (Int.ofNat q - Int.ofNat (vget k.b n)) % Int.ofNat (vget k.l n))
  else q
/-- The 20 bits of a number in reverse order. -/
def rev20 (v : Nat) : Nat := maskOf 20 (fun i => bitN v (19 - i))
/-- The reverse-carry sum (R196): added from bit 19 down to bit 0, the carry out of bit 0 lost. -/
def revAdd (p m : Nat) : Nat := rev20 ((rev20 p + rev20 m) % 2 ^ 20)
/-- A pointer update, visible at distance 1 (R198). -/
def ptrWr (n q : Nat) : Nat × Wr := (1, .reg (0x20 + n) q)
/-- The address that a mode uses and the pointer update it makes (R194): mode, pointer, modifier register, immediate. -/
def CoreSt.effAddr (k : CoreSt) (mode pn mm : Nat) (imm : Int) : Nat × List (Nat × Wr) :=
  let p : Int := Int.ofNat (vget k.p pn)
  let m : Int := sx 20 (vget k.m mm)
  match mode with
  | 0 => (vget k.p pn, [])
  | 1 => (vget k.p pn, [ptrWr pn (k.circ pn (p + m))])
  | 2 => (vget k.p pn, [ptrWr pn (k.circ pn (p + imm))])
  | 3 => (k.circ pn (p + m), [ptrWr pn (k.circ pn (p + m))])
  | 4 => (k.circ pn (p + imm), [ptrWr pn (k.circ pn (p + imm))])
  | 5 => (ux 20 (p + imm), [])
  | 6 => (vget k.p pn, [ptrWr pn (revAdd (vget k.p pn) (vget k.m mm))])
  | _ => (ux 20 imm, [])
/-- The word is one of the direct forms of a load or store (R228). -/
def isDirect (w : Word) : Bool := decide (0x13 ≤ wfld w 31 26) && decide (wfld w 31 26 ≤ 0x15)
/-- The space of an M or D form: 1 for X, 2 for Y (R233). -/
def spOf (w : Word) : Nat := wfld w 21 21 + 1
/-- The address and the pointer update of an M or D form (R227, R233). -/
def CoreSt.addrM (k : CoreSt) (w : Word) : Nat × List (Nat × Wr) :=
  if isDirect w then (wfld w 19 0, [])
  else k.effAddr (wfld w 20 18) (wfld w 17 15) (wfld w 14 12) (sx 15 (wfld w 14 0))
/-- The index and the pointer update of an F form (R227, R248). -/
def CoreSt.addrF (k : CoreSt) (w : Word) : Nat × List (Nat × Wr) :=
  if wfld w 19 17 = 7 then (wfld w 13 0, [])
  else k.effAddr (wfld w 19 17) (wfld w 16 14) (wfld w 13 11) (sx 14 (wfld w 13 0))
/-- The update of one side of `LDD`: 0 none, 1 by M, 2 up by one, 3 down by one (R235). -/
def CoreSt.sideUpd (k : CoreSt) (n m ai : Nat) : List (Nat × Wr) :=
  let p : Int := Int.ofNat (vget k.p n)
  match ai with
  | 0 => []
  | 1 => [ptrWr n (k.circ n (p + sx 20 (vget k.m m)))]
  | 2 => [ptrWr n (k.circ n (p + 1))]
  | _ => [ptrWr n (k.circ n (p - 1))]

end Sys2Proof.Machine
end

