-- ==== Sys2Proof/Machine/IsaCore.lean ====
section
/-! DEFINITION. The issue of one instruction by a core: fetch, legality, placement, data accesses, delay slots, repeats,
pending results, faults (R187 to R218, R252 to R255). -/

namespace Sys2Proof.Machine

/-- What an instruction does to the flow of its core (R199, R203, R204, R247, R251). -/
inductive Ctl
  | next
  | slots (target : Option Nat) (branch : Bool)
  | rpt (n : Nat)
  | loop (l : Loop)
  | bkpt
  | waitt (axis level : Nat)
deriving DecidableEq, Repr, Inhabited

/-- The effects of an instruction: results with their distances, whether a pipelined primitive gives them, the flow, the
data accesses that watchpoints see (space, address, store), and stores through a system window or the pair's aperture. -/
structure Eff where
  wr : List (Nat × Wr) := []
  prim : Bool := false
  ctl : Ctl := .next
  accs : List (Nat × Nat × Bool) := []
  win : List (Nat × Word) := []
  page : List (Nat × Word) := []
deriving DecidableEq, Repr, Inhabited

/-- How an instruction goes: a FAULT with its cause and data address, a stall until an access completes, or its effects. -/
inductive Out
  | fault (s : State) (cause : Nat) (addr : Option Nat)
  | stall
  | ok (s : State) (e : Eff)

/-- The meaning of an instruction: state, core, its words, and whether a system-window access has completed. -/
abbrev Sem := State → Nat → Word → Word → Bool → Out

/-- A meaning that only reads the core's registers and gives results (R198). -/
def plain (f : CoreSt → Word → List (Nat × Wr)) : Sem := fun s c w _ _ => .ok s { wr := f (s.cr c) w }

/-! ### Data accesses (R190 to R193, R215, R216, R255) -/

/-- Where an access goes: a word of memory by its byte address, a system byte address, an offset of the BRAKE page. -/
inductive Place
  | mem (addr : Nat)
  | window (sa : Nat)
  | page (off : Nat)
deriving DecidableEq, Repr

/-- An X address of a millwright lies in a system window (R190). -/
def inWindow (c sp a : Nat) : Bool := isMw c && sp == 1 && decide (0x80000 ≤ a)
/-- A region of the core covers the access and grants its kind, 24 load, 25 store, 26 fetch (R216). -/
def State.mpuOk (s : State) (c sp a kind : Nat) : Bool :=
  !s.bit (R.CORE.CTRL c) 6 || (List.range 8).any (fun r =>
    let b := s.rg (R.CORE.MPU_BASE c r)
    let l := s.rg (R.CORE.MPU_LIM c r)
    wbit l 31 && wbit l kind && wfld b 21 20 == sp && decide (wfld b 19 0 ≤ a) && decide (a ≤ wfld l 19 0))
/-- The place of a mapped data address, none for an unmapped one (R190 to R192). -/
def State.mapData (s : State) (c sp a : Nat) : Option Place :=
  let k := s.cr c
  if a < spaceSize c sp then some (.mem (spaceAddr c sp a))
  else if sp ≠ 1 then none
  else if c < 28 then
    if 0x4000 ≤ a ∧ a < 0x4400 then
      some (.mem (stateAddr c ((s.regionOf (s.fld (R.CORE.STAT c) 21 16)).1 * 64 + (a - 0x4000))))
    else none
  else if c < 32 then
    if a < 0x80000 then none
    else
      let w := if a < 0xC0000 then k.win0 else k.win1
      if 72 ≤ w then none else some (.window (w * 2 ^ 20 + 4 * (a % 0x40000)))
  else if 0x80000 ≤ a ∧ a < 0x80400 then some (.page (4 * (a - 0x80000)))
  else none
/-- The aperture does not show the word (R191). -/
def State.apertureBad (s : State) (c sp a : Nat) : Bool :=
  decide (c < 28) && sp == 1 && decide (0x4000 ≤ a) &&
    (!s.bit (R.CORE.STAT c) 22 || decide ((s.regionOf (s.fld (R.CORE.STAT c) 21 16)).2 * 64 ≤ a - 0x4000))
/-- The cause that refuses an access, in the order of R255. -/
def State.accFault (s : State) (c : Nat) (acc : Nat × Nat × Bool) : Option Nat :=
  match s.mapData c acc.1 acc.2.1 with
  | none => some 0x04
  | some p =>
    if !s.mpuOk c acc.1 acc.2.1 (if acc.2.2 then 25 else 24) then some 0x03
    else if s.apertureBad c acc.1 acc.2.1 then some 0x0A
    else match p with
      | .mem b => if !acc.2.2 && decide (2 ≤ s.eccOf b) then some 0x05 else none
      | _ => none
/-- The data accesses of an instruction are judged in their order; an access through a system window under `RPT` is a
placement fault, and otherwise stalls the core until it completes (R193, R199, R255). -/
def State.withAccs (s : State) (c : Nat) (accs : List (Nat × Nat × Bool)) (done : Bool) (k : State → Out) : Out :=
  let win := accs.any (fun x => inWindow c x.1 x.2.1)
  if win && (s.cr c).rpt.isSome then .fault s 0x02 none else
  match accs.findSome? (fun x => (s.accFault c x).map (fun f => (f, x.2.1 + x.1 * 2 ^ 20))) with
  | some (cause, addr) => .fault (if cause = 0x05 then s.eccDouble c else s) cause (some addr)
  | none => if win && !done then .stall else k s

/-- The master that a millwright is (R36, R193). -/
def mwMaster (c : Nat) : Master := match c - 28 with | 0 => .mw0 | 1 => .mw1 | 2 => .mw2 | _ => .mw3

/-- A read of the pair through its aperture; none while it stalls in `CYC_WAIT` (R453, R454). -/
def State.pairRead (s : State) (off : Nat) : Option Word × State :=
  let a := R.BRAKE.base + off
  if a = R.BRAKE.CYC_WAIT then s.cycWaitRead
  else if off < 0x40 then let r := s.readHeader R.BRAKE.base off; (some r.1, r.2)
  else if off = 0x130 then let r := s.weirPop none R.BRAKE.base 7; (some r.1, r.2)
  else if isPop a then let r := s.weirPopWord none R.BRAKE.base 7 ((off - 0x130) / 4); (some r.1, r.2)
  else if off = 0x354 ∧ s.sess.proof then let r := s.dbgRead 32; (some r.1, r.2)
  else
    let sl := tget {} s.sels 7
    let b := bankOf sl a
    let v := ((if s.frozen R.BRAKE.base then s.snapOf R.BRAKE.base b else none)).getD (s.regNow sl a)
    (some v, match findReg b with | some (r, false) => s.readClear R.BRAKE.base b r | _ => s)
/-- A write of the pair through its aperture: no unlock, no session, no log; a 64-bit register takes each word by itself
(R454, assumption log 105). -/
def State.pairWrite (s : State) (off v : Nat) : State :=
  let pg := R.BRAKE.base
  if s.busy pg then s
  else if off < 0x40 then
    if off = 0x04 then s.writePgCtrl pg v
    else if off = 0x0c then s.writePgIrq pg v
    else if off = 0x10 then s.setRg (R.PG_IRQ_EN pg) (BitVec.ofNat 32 v)
    else if off = 0x18 then (s.bwWrite none (R.PG_ERRINJ pg) v).brakeInject
    else if off = 0x1c then s.writeShadow pg v
    else s
  else if 0x300 ≤ off ∧ off < 0x358 then
    (if s.sess.proof then (s.coreHook .debug 32 (off - 0x2c0) v).getD s else s)
  else if 0xe0 ≤ off ∧ off < 0x100 ∧ off % 8 = 4 then (s.brakeHook none (off - 4) (v * 2 ^ 32)).getD s
  else match s.brakeHook none off v with
    | some t => t
    | none =>
      let b := bankOf (tget {} s.sels 7) (pg + off)
      match findReg b with
      | some (r, false) => s.bwWrite none b (if r.wide then v + (s.rg (b + 4)).toNat * 2 ^ 32 else v)
      | some (_, true) => s.bwWrite none (b - 4) ((s.rg (b - 4)).toNat + v * 2 ^ 32)
      | none => s

/-- A load from an address that `withAccs` has judged: a single-bit error is corrected; none while the pair stalls. -/
def State.loadWord (s : State) (c sp a : Nat) : Option Word × State :=
  match s.mapData c sp a with
  | some (.mem b) => (some (s.ldw b), if s.eccOf b = 1 then s.eccCorr c b sp a else s)
  | some (.window sa) => let r := s.sysRead (mwMaster c) sa 4 15; (some (r.1.truncate 32), r.2)
  | some (.page off) => s.pairRead off
  | none => (none, s)
/-- A store to an address that `withAccs` has judged, put with the effects (R198). -/
def State.storeWord (s : State) (c sp a : Nat) (v : Word) (e : Eff) : Eff :=
  match s.mapData c sp a with
  | some (.mem b) => { e with wr := (3, .mem b v) :: e.wr }
  | some (.window sa) => { e with win := e.win ++ [(sa, v)] }
  | some (.page off) => { e with page := e.page ++ [(off, v)] }
  | none => e

/-! ### Fetch (R190, R215, R216, R226) -/

/-- What fetching a word of the program meets. -/
def State.fetchFault (s : State) (c a : Nat) : Option Nat :=
  if spaceSize c 0 ≤ a then some 0x04
  else if !s.mpuOk c 0 a 26 then some 0x03
  else if 2 ≤ s.eccOf (spaceAddr c 0 a) then some 0x05
  else none
/-- The word at a program address, a single-bit error corrected. -/
def State.fetchWord (s : State) (c a : Nat) : Word × State :=
  let b := spaceAddr c 0 a
  (s.ldw b, if s.eccOf b = 1 then s.eccCorr c b 0 a else s)
/-- The words of the instruction at PC, or the cause and the address of a fault of the fetch. -/
def State.fetch (s : State) (c pc : Nat) : Except (Nat × Nat) (Word × Word × State) :=
  match s.fetchFault c pc with
  | some f => .error (f, pc)
  | none =>
    let x := s.fetchWord c pc
    if !isLong x.1 then .ok (x.1, 0, x.2)
    else match s.fetchFault c (pc + 1) with
      | some f => .error (f, pc + 1)
      | none =>
        let y := x.2.fetchWord c (pc + 1)
        .ok (x.1, y.1, y.2)

/-! ### Placement (R199, R246) -/

/-- The instruction at `pc` may not stand there. -/
def State.misplaced (s : State) (c : Nat) (o : Op) : Bool :=
  let k := s.cr c
  ((isControl o || o == .waitt) && (k.slots.isSome || k.rpt.isSome)) ||
  k.loops.any (fun l => (isControl o && s.nearEnd c k.pc 3 l) ||
    (s.nearEnd c k.pc 1 l && decide (s.toEnd c l.start l.end_ < 2)))

/-! ### Results (R198) -/

/-- An issue begins: due results stand, and SR joins what later branches see. -/
def State.beginIssue (s : State) (c : Nat) : State :=
  (s.landDue c).setCr c (fun k => { k with srHist := (k.sr :: k.srHist).take 4 })
/-- SR as a conditional branch sees it: as it stood three issues earlier (R198). -/
def CoreSt.branchSr (k : CoreSt) : Word := k.srHist.getD 3 0

/-! ### The flow (R199, R203 to R205, R246) -/

/-- The levels after the instruction with its words at `pc` to `pc + len - 1` has issued, and where the innermost one that
goes on loops back to (R204, R246). -/
def loopBack (pc len : Nat) : List Loop → List Loop × Option Nat
  | [] => ([], none)
  | l :: r =>
    if pc ≤ l.end_ ∧ l.end_ < pc + len then
      if 1 < l.count then ({ l with count := l.count - 1 } :: r, some l.start) else loopBack pc len r
    else (l :: r, none)
/-- In sequence, or back to the start of a body. -/
def CoreSt.goOn (k : CoreSt) (pc len : Nat) : CoreSt :=
  let x := loopBack pc len k.loops
  { k with loops := x.1, pc := x.2.getD ((pc + len) % 2 ^ 20) }
/-- The flow after an instruction that is no repeat and changes no flow itself: a delay slot passes, and after the second
the branch is taken (R199, R205). -/
def CoreSt.flow (k : CoreSt) (pc len : Nat) : CoreSt :=
  match k.slots with
  | none => k.goOn pc len
  | some sl =>
    if 1 < sl.left then ({ k with slots := some { sl with left := sl.left - 1 } }).goOn pc len
    else match sl.target with
      | none => ({ k with slots := none }).goOn pc len
      | some t =>
        let inside (l : Loop) : Bool := decide (l.start ≤ t) && decide (t ≤ l.end_)
        { k with slots := none, pc := t, loops := if sl.branch then k.loops.dropWhile (fun l => !inside l) else k.loops }
/-- PC, delay slots, repeat and levels after an issue (R199, R203, R204). -/
def CoreSt.advance (k : CoreSt) (pc len : Nat) (ctl : Ctl) : CoreSt :=
  let seq := (pc + len) % 2 ^ 20
  match k.rpt with
  | some n => if 1 < n then { k with rpt := some (n - 1) } else ({ k with rpt := none }).flow pc len
  | none =>
    match ctl with
    | .slots t b => { k with pc := seq, slots := some ⟨2, t, b⟩ }
    | .rpt n => { k with pc := seq, rpt := some n }
    | .loop l => { k with pc := seq, loops := l :: k.loops }
    | .waitt _ _ => k
    | _ => k.flow pc len

/-! ### The end of an issue -/

/-- A halt with its reason waits for the next clean boundary (R206, R217). -/
def State.armHalt (s : State) (c why which : Nat) : State :=
  if s.bit (R.CORE.STAT c) 4 then s
  else (s.putBit (R.CORE.STAT c) 4 true).setCr c (fun k => { k with haltWhy := (why, which) })
/-- `WAITT` once it has issued: the run ends, and the newest ready frame is delivered or waited for; a period that a
migration moved away ends with IDLE (R247, R270, R278). -/
def State.waittIssue (s : State) (c a l : Nat) : State :=
  let s1 := ((s.drain c).budgetEnd c).setCr c (fun k => { k with cycOf := none })
  if !s1.hosts c a l then s1.stopNow c else
  let k1 := (s1.cr c).goOn (s1.cr c).pc 1
  let s2 := s1.setCr c (fun k => { k with waitFor := some (a, l), after := some (k1.pc, k1.loops) })
  match (if s1.coreOfAx a = c then s1.readyFrame a l else none) with
  | some f => s2.waittDeliver c a l f
  | none => s2.setCoreState c 2
/-- The end of an issue: flow, counts, results, watchpoints and breakpoints, and the stores that leave the core. -/
def State.finish (s : State) (c len : Nat) (e : Eff) : State :=
  let k := s.cr c
  let pc := k.pc
  let bp := if k.skipBp then none else s.bpAt c pc
  let pend := k.pend.map (fun p => { p with left := p.left - 1 }) ++
    e.wr.map (fun x => ({ left := x.1 - 1, wr := x.2, prim := e.prim } : PendW))
  let s1 := s.setCr c (fun k =>
    { k.advance pc len e.ctl with pend := pend, stall := false, accs := [], skipBp := false, issued := true, cyc := k.cyc + 1 })
  let s2 := s1.setRg64 (R.CORE.BUSY_CYC c) (s1.rg64 (R.CORE.BUSY_CYC c) + 1)
  let s3 := if pend.any (fun p => p.left == 0 && p.prim) then s2 else s2.landDue c
  let s4 := match e.accs.findSome? (fun x => s.wpAt c x.1 x.2.1 x.2.2) with | some w => s3.armHalt c 3 w | none => s3
  let s5 := match bp with | some b => s4.armHalt c 2 b | none => s4
  let s6 := if e.ctl = .bkpt then s5.armHalt c 2 7 else s5
  let s7 := e.win.foldl (fun (s : State) x => s.sysWrite (mwMaster c) x.1 4 15 x.2.toNat) s6
  let s8 := e.page.foldl (fun (s : State) x => s.pairWrite x.1 x.2.toNat) s7
  match e.ctl with
  | .waitt a l => s8.waittIssue c a l
  | _ => s8
/-- A FAULT at the instruction at PC; one of the pair is an island fault, BW_ECC2 or BW_CORE (R206, R208, R451, R452). -/
def State.failAt (s : State) (c cause : Nat) (addr : Option Nat) : State :=
  let pc := (s.cr c).pc
  let s1 := s.setCr c (fun k => { k with skipBp := false, issued := true })
  if c = 32 then (s1.faultAt c cause pc addr).islandFault (if cause = 0x05 then 4 else 5)
  else s1.coreFault c cause pc addr

/-! ### The issue -/

/-- The core may issue its next instruction: it runs, the access it stalls on has completed, and at a clean boundary no
halt, step end, breakpoint or vector comes first (R193, R206, R209, R217, R218). -/
def State.canIssue (s : State) (c : Nat) (done : Bool) : Bool :=
  let k := s.cr c
  s.coreState c == 1 && k.stall == done &&
    !(s.cleanBoundary c && (s.bit (R.CORE.STAT c) 4 || (k.stepping && k.issued) ||
      (!k.skipBp && (s.bpAt c k.pc).isSome) || (isMw c && (s.vecTake (c - 28)).isSome)))
/-- An injected fault meets the instruction: ILLEGAL on a Stone or millwright core (R222), a lockstep mismatch of the
pair (R450, R489). -/
def State.injectedIssue (s : State) (c : Nat) : Option State :=
  let inj := R.PG_ERRINJ (corePage c)
  if !s.bit inj 16 then none
  else
    let s1 := s.putBit inj 16 false
    some (if c = 32 then (s1.postNow 0x149 0x01 (s.cr c).pc).islandFault 1 else s1.failAt c 0x01 none)
/-- The accesses through system windows that an instruction makes once they complete: loads, then stores with their values
(R193). -/
def State.windowAccs (s : State) (c : Nat) (w0 w1 : Word) (m : Sem) : List (Nat × Option Word) :=
  match m s c w0 w1 true with
  | .ok _ e =>
    e.accs.filterMap (fun x => match s.mapData c x.1 x.2.1 with
      | some (.window sa) => if x.2.2 then none else some (sa, none)
      | _ => none) ++ e.win.map (fun x => (x.1, some x.2))
  | _ => []
/-- One issue of core `c` as the instruction `o` with the meaning `m`. It acts where the core may issue and the word at PC
is that instruction, or is no instruction at all (assumption log 124); the faults come in the order of R255. `BKPT` is
ILLEGAL on the pair outside a proof-test session (R450), and an injection acts where an instruction issues and not where an
access that it stalls on completes (R193, R222). -/
def State.issue (s0 : State) (c : Nat) (o : Op) (m : Sem) (done : Bool) : State :=
  if !(s0.landDue c).canIssue c done then s0 else
  let s := s0.beginIssue c
  match s.fetch c (s.cr c).pc with
  | .error (f, a) => (if f = 0x05 then s.eccDouble c else s).failAt c f (some a)
  | .ok (w0, w1, s1) =>
    if opOf w0 ≠ some o ∧ opOf w0 ≠ none then s0
    else match (if done then none else s1.injectedIssue c) with
      | some t => t
      | none =>
        if opOf w0 = none ∨ !legal c o w0 w1 ∨ (c = 32 ∧ o = .bkpt ∧ !s1.sess.proof) then s1.failAt c 0x01 none
        else if s1.misplaced c o then s1.failAt c 0x02 none
        else match m s1 c w0 w1 done with
          | .fault s2 cause addr => s2.failAt c cause addr
          | .stall => s0.setCr c (fun k => { k with stall := true, accs := s1.windowAccs c w0 w1 m })
          | .ok s2 e => s2.finish c (wordsOf w0) e

end Sys2Proof.Machine
end

