-- ==== Sys2Proof/Machine/IsaFlow.lean ====
section
/-! DEFINITION. Branches, calls, returns, `NOP`, `BKPT` and the repeats (R199, R203 to R205, R242 to R246, R251). -/

namespace Sys2Proof.Machine

/-- TGT of the B form. -/
def fTgt (w : Word) : Nat := wfld w 19 0
/-- A branch or a return: two delay slots, then the target if it is taken. -/
def jump (s : State) (target : Option Nat) (branch : Bool) : Out := .ok s { ctl := .slots target branch }
/-- The address of the instruction after the second delay slot (R243). -/
def State.returnAddr (s : State) (c : Nat) : Nat :=
  let a1 := (s.cr c).pc + 1
  let a2 := a1 + s.insLen c a1
  (a2 + s.insLen c a2) % 2 ^ 20
/-- A call: P7 takes the return address at distance 3 (R243). -/
def callTo (s : State) (c target : Nat) : Out :=
  .ok s { wr := [(3, .reg 0x27 (s.returnAddr c))], ctl := .slots (some target) false }
/-- Bcc. -/
def semBcc : Sem := fun s c w _ _ => jump s (if condTrue (wfld w 25 22) (s.cr c).branchSr then some (fTgt w) else none) true
/-- CALL. -/
def semCall : Sem := fun s c w _ _ => callTo s c (fTgt w)
/-- BRI. -/
def semBri : Sem := fun s c w _ _ =>
  jump s (if condTrue (wfld w 18 15) (s.cr c).branchSr then some (vget (s.cr c).p (wfld w 21 19)) else none) true
/-- CALLI. -/
def semCalli : Sem := fun s c w _ _ => callTo s c (vget (s.cr c).p (wfld w 21 19))
/-- RET. -/
def semRet : Sem := fun s c _ _ _ => jump s (some (vget (s.cr c).p 7)) false
/-- RETN: NRPC and NRSR; vector 0 or 1 may be taken again (R210, R243). Every instruction at the target sees the restored SR
(assumption log 170). -/
def semRetn : Sem := fun s c _ _ _ =>
  .ok (s.setCr c (fun k => { k with nmi := false }))
    { wr := [(3, .restore (s.cr c).nrsr.toNat)], ctl := .slots (some (s.cr c).nrpc) false }
/-- RETI: RPC and RSR, as RETN (R243, assumption log 170). -/
def semReti : Sem := fun s c _ _ _ =>
  .ok s { wr := [(3, .restore (s.cr c).rsr.toNat)], ctl := .slots (some (s.cr c).rpc) false }
/-- NOP. -/
def semNop : Sem := fun s _ _ _ _ => .ok s {}
/-- BKPT (R251). -/
def semBkpt : Sem := fun s _ _ _ _ => .ok s { ctl := .bkpt }
/-- RPT (R245). -/
def semRpt : Sem := fun s _ w _ _ => .ok s { ctl := .rpt (wfld w 11 0 + 1) }
/-- A new `BRPT` level: a body of fewer than three words and an END before its start are misplaced, and a fourth level
does not fit (R204, R246). -/
def newLoop (s : State) (c start end_ count : Nat) : Out :=
  if end_ < start + 2 then .fault s 0x02 none
  else if 3 ≤ (s.cr c).loops.length then .fault s 0x06 none
  else .ok s { ctl := .loop ⟨start, end_, count⟩ }
/-- BRPT (R246). -/
def semBrpt : Sem := fun s c w _ _ =>
  let start := ((s.cr c).pc + 1) % 2 ^ 20
  newLoop s c start ((start + wfld w 9 0) % 2 ^ 20) (wfld w 25 10 + 1)
/-- BRPT.L (R246). -/
def semBrptL : Sem := fun s c w0 w1 _ =>
  let k := s.cr c
  newLoop s c ((k.pc + 2) % 2 ^ 20) (wfld w0 19 0)
    ((if wbit w0 25 then (vget k.x (wfld w0 24 21)).toNat % 2 ^ 16 else wfld w1 15 0) + 1)

/-- BCC (R243). -/
def execOpBcc (t : Time) (c : Fin 33) (s : State) : Host.Outcome State Fault Refusal := .next ((s.tick t).issue c .bcc semBcc false)
/-- CALL (R243). -/
def execOpCall (t : Time) (c : Fin 33) (s : State) : Host.Outcome State Fault Refusal := .next ((s.tick t).issue c .call semCall false)
/-- BRI (R243). -/
def execOpBri (t : Time) (c : Fin 33) (s : State) : Host.Outcome State Fault Refusal := .next ((s.tick t).issue c .bri semBri false)
/-- CALLI (R243). -/
def execOpCalli (t : Time) (c : Fin 33) (s : State) : Host.Outcome State Fault Refusal := .next ((s.tick t).issue c .calli semCalli false)
/-- RET (R243). -/
def execOpRet (t : Time) (c : Fin 33) (s : State) : Host.Outcome State Fault Refusal := .next ((s.tick t).issue c .ret semRet false)
/-- RETN (R243). -/
def execOpRetn (t : Time) (c : Fin 33) (s : State) : Host.Outcome State Fault Refusal := .next ((s.tick t).issue c .retn semRetn false)
/-- RETI (R243). -/
def execOpReti (t : Time) (c : Fin 33) (s : State) : Host.Outcome State Fault Refusal := .next ((s.tick t).issue c .reti semReti false)
/-- NOP (R251). -/
def execOpNop (t : Time) (c : Fin 33) (s : State) : Host.Outcome State Fault Refusal := .next ((s.tick t).issue c .nop semNop false)
/-- BKPT (R251). -/
def execOpBkpt (t : Time) (c : Fin 33) (s : State) : Host.Outcome State Fault Refusal := .next ((s.tick t).issue c .bkpt semBkpt false)
/-- RPT (R245). -/
def execOpRpt (t : Time) (c : Fin 33) (s : State) : Host.Outcome State Fault Refusal := .next ((s.tick t).issue c .rpt semRpt false)
/-- BRPT (R246). -/
def execOpBrpt (t : Time) (c : Fin 33) (s : State) : Host.Outcome State Fault Refusal := .next ((s.tick t).issue c .brpt semBrpt false)
/-- BRPT_L (R246). -/
def execOpBrptL (t : Time) (c : Fin 33) (s : State) : Host.Outcome State Fault Refusal := .next ((s.tick t).issue c .brptL semBrptL false)

end Sys2Proof.Machine
end

