-- ==== Sys2Proof/Machine/IsaInt.lean ====
section
/-! DEFINITION. Integer and logic, immediates and system moves (R230 to R232). -/

namespace Sys2Proof.Machine

/-- XD of the R and I forms. -/
def fXD (w : Word) : Nat := wfld w 25 22
/-- The X register that XA names. -/
def CoreSt.xa (k : CoreSt) (w : Word) : Word := vget k.x (wfld w 21 18)
/-- The X register that XB names. -/
def CoreSt.xb (k : CoreSt) (w : Word) : Word := vget k.x (wfld w 17 14)
/-- IMM16, sign-extended. -/
def imm16 (w : Word) : Word := BitVec.ofInt 32 (sx 16 (wfld w 15 0))
/-- An X result at distance 1 with its flags (R198). -/
def xRes (w : Word) (v : Word) (fl : Wr) : List (Nat × Wr) := [(1, .x (fXD w) v), (1, fl)]
/-- The sum with code ZNCV: carry out, and signed overflow (R229). -/
def addFl (a b : Word) : Wr := flZNCV (a + b) (decide (2 ^ 32 ≤ a.toNat + b.toNat)) (!fits 32 (a.toInt + b.toInt))
/-- The difference with code ZNCV: borrow, and signed overflow (R229). -/
def subFl (a b : Word) : Wr := flZNCV (a - b) (decide (a.toNat < b.toNat)) (!fits 32 (a.toInt - b.toInt))
/-- Bits below bit 31 that equal it before the first that differs (R230). -/
def clsOf (a : Word) : Nat := ((List.range 31).takeWhile (fun i => a.getLsbD (30 - i) == a.msb)).length
/-- A left shift; 32 or more gives 0 (R230). -/
def shl (a : Word) (n : Nat) : Word := a <<< n
/-- An arithmetic right shift; 32 or more fills with the sign (R230). -/
def shra (a : Word) (n : Nat) : Word := a.sshiftRight n
/-- A logical right shift; 32 or more gives 0 (R230). -/
def shrl (a : Word) (n : Nat) : Word := a >>> n
/-- The amount Xb[5:0] of a shift. -/
def CoreSt.amount (k : CoreSt) (w : Word) : Nat := (k.xb w).toNat % 64
/-- The amount AUX[4:0] of a shift. -/
def amountI (w : Word) : Nat := wfld w 10 6

/-- ADD. -/
def semAdd (k : CoreSt) (w : Word) : List (Nat × Wr) := xRes w (k.xa w + k.xb w) (addFl (k.xa w) (k.xb w))
/-- SUB. -/
def semSub (k : CoreSt) (w : Word) : List (Nat × Wr) := xRes w (k.xa w - k.xb w) (subFl (k.xa w) (k.xb w))
/-- NEG: 0 - Xa. -/
def semNeg (k : CoreSt) (w : Word) : List (Nat × Wr) := xRes w (0 - k.xa w) (subFl 0 (k.xa w))
/-- ABS: 0x80000000 stays with VL. -/
def semAbs (k : CoreSt) (w : Word) : List (Nat × Wr) :=
  let v := if (k.xa w).msb then 0 - k.xa w else k.xa w
  xRes w v (flZNV v (k.xa w == 0x80000000))
/-- AND. -/
def semAnd (k : CoreSt) (w : Word) : List (Nat × Wr) := xRes w (k.xa w &&& k.xb w) (flZN (k.xa w &&& k.xb w))
/-- OR. -/
def semOr (k : CoreSt) (w : Word) : List (Nat × Wr) := xRes w (k.xa w ||| k.xb w) (flZN (k.xa w ||| k.xb w))
/-- XOR. -/
def semXor (k : CoreSt) (w : Word) : List (Nat × Wr) := xRes w (k.xa w ^^^ k.xb w) (flZN (k.xa w ^^^ k.xb w))
/-- NOT. -/
def semNot (k : CoreSt) (w : Word) : List (Nat × Wr) := xRes w (~~~(k.xa w)) (flZN (~~~(k.xa w)))
/-- MIN: signed. -/
def semMin (k : CoreSt) (w : Word) : List (Nat × Wr) :=
  let v := if (k.xa w).slt (k.xb w) then k.xa w else k.xb w
  xRes w v (flZN v)
/-- MAX: signed. -/
def semMax (k : CoreSt) (w : Word) : List (Nat × Wr) :=
  let v := if (k.xa w).slt (k.xb w) then k.xb w else k.xa w
  xRes w v (flZN v)
/-- MOV. -/
def semMov (k : CoreSt) (w : Word) : List (Nat × Wr) := xRes w (k.xa w) (flZN (k.xa w))
/-- CMP: flags of Xa - Xb only. -/
def semCmp (k : CoreSt) (w : Word) : List (Nat × Wr) := [(1, subFl (k.xa w) (k.xb w))]
/-- CLS. -/
def semCls (k : CoreSt) (w : Word) : List (Nat × Wr) :=
  let v := BitVec.ofNat 32 (clsOf (k.xa w))
  xRes w v (flZN v)
/-- SHL. -/
def semShl (k : CoreSt) (w : Word) : List (Nat × Wr) := xRes w (shl (k.xa w) (k.amount w)) (flZN (shl (k.xa w) (k.amount w)))
/-- SHRA. -/
def semShra (k : CoreSt) (w : Word) : List (Nat × Wr) := xRes w (shra (k.xa w) (k.amount w)) (flZN (shra (k.xa w) (k.amount w)))
/-- SHRL. -/
def semShrl (k : CoreSt) (w : Word) : List (Nat × Wr) := xRes w (shrl (k.xa w) (k.amount w)) (flZN (shrl (k.xa w) (k.amount w)))
/-- SHLI. -/
def semShli (k : CoreSt) (w : Word) : List (Nat × Wr) := xRes w (shl (k.xa w) (amountI w)) (flZN (shl (k.xa w) (amountI w)))
/-- SHRAI. -/
def semShrai (k : CoreSt) (w : Word) : List (Nat × Wr) := xRes w (shra (k.xa w) (amountI w)) (flZN (shra (k.xa w) (amountI w)))
/-- SHRLI. -/
def semShrli (k : CoreSt) (w : Word) : List (Nat × Wr) := xRes w (shrl (k.xa w) (amountI w)) (flZN (shrl (k.xa w) (amountI w)))
/-- ADDI. -/
def semAddi (k : CoreSt) (w : Word) : List (Nat × Wr) := xRes w (k.xa w + imm16 w) (addFl (k.xa w) (imm16 w))
/-- CMPI. -/
def semCmpi (k : CoreSt) (w : Word) : List (Nat × Wr) := [(1, subFl (k.xa w) (imm16 w))]
/-- MOVI. -/
def semMovi (_k : CoreSt) (w : Word) : List (Nat × Wr) := [(1, .x (fXD w) (imm16 w))]
/-- MOVHI: the low half of Xd is kept. -/
def semMovhi (k : CoreSt) (w : Word) : List (Nat × Wr) :=
  [(1, .x (fXD w) (BitVec.ofNat 32 (wfld w 15 0 * 2 ^ 16 + (vget k.x (fXD w)).toNat % 2 ^ 16)))]
/-- MOVL: the second word is the immediate. -/
def semMovl : Sem := fun s _ w0 w1 _ => .ok s { wr := [(1, .x (fXD w0) w1)] }
/-- MOVPI: a move into P or M (R198). -/
def semMovpi (_k : CoreSt) (w : Word) : List (Nat × Wr) := [(3, .reg (0x20 + wfld w 25 22) (wfld w 19 0))]
/-- The distance of a value written by `MOVS` (R198, assumption log 127). -/
def movsDist (i : Nat) : Nat := if i < 0x38 ∨ i = 0x3A ∨ i = 0x54 ∨ i = 0x55 then 3 else 1
/-- MOVS (R232): PC reads as the address of the `MOVS` + 1. -/
def semMovs : Sem := fun s c w _ _ =>
  let k := s.cr c
  let i := wfld w 20 13
  let xr := wfld w 24 21
  .ok s { wr :=
    if wbit w 25 then [(1, .x xr (BitVec.ofNat 32 (if i = 0x3C then (k.pc + 1) % 2 ^ 20 else k.read c i)))]
    else [(movsDist i, .reg i (vget k.x xr).toNat)] }

/-- ADD (R230). -/
def execOpAdd (t : Time) (c : Fin 33) (s : State) : Host.Outcome State Fault Refusal := .next ((s.tick t).issue c .add (plain semAdd) false)
/-- SUB (R230). -/
def execOpSub (t : Time) (c : Fin 33) (s : State) : Host.Outcome State Fault Refusal := .next ((s.tick t).issue c .sub (plain semSub) false)
/-- NEG (R230). -/
def execOpNeg (t : Time) (c : Fin 33) (s : State) : Host.Outcome State Fault Refusal := .next ((s.tick t).issue c .neg (plain semNeg) false)
/-- ABS (R230). -/
def execOpAbs (t : Time) (c : Fin 33) (s : State) : Host.Outcome State Fault Refusal := .next ((s.tick t).issue c .abs (plain semAbs) false)
/-- AND (R230). -/
def execOpAnd (t : Time) (c : Fin 33) (s : State) : Host.Outcome State Fault Refusal := .next ((s.tick t).issue c .and_ (plain semAnd) false)
/-- OR (R230). -/
def execOpOr (t : Time) (c : Fin 33) (s : State) : Host.Outcome State Fault Refusal := .next ((s.tick t).issue c .or_ (plain semOr) false)
/-- XOR (R230). -/
def execOpXor (t : Time) (c : Fin 33) (s : State) : Host.Outcome State Fault Refusal := .next ((s.tick t).issue c .xor (plain semXor) false)
/-- NOT (R230). -/
def execOpNot (t : Time) (c : Fin 33) (s : State) : Host.Outcome State Fault Refusal := .next ((s.tick t).issue c .not_ (plain semNot) false)
/-- MIN (R230). -/
def execOpMin (t : Time) (c : Fin 33) (s : State) : Host.Outcome State Fault Refusal := .next ((s.tick t).issue c .min (plain semMin) false)
/-- MAX (R230). -/
def execOpMax (t : Time) (c : Fin 33) (s : State) : Host.Outcome State Fault Refusal := .next ((s.tick t).issue c .max (plain semMax) false)
/-- MOV (R230). -/
def execOpMov (t : Time) (c : Fin 33) (s : State) : Host.Outcome State Fault Refusal := .next ((s.tick t).issue c .mov (plain semMov) false)
/-- CMP (R230). -/
def execOpCmp (t : Time) (c : Fin 33) (s : State) : Host.Outcome State Fault Refusal := .next ((s.tick t).issue c .cmp (plain semCmp) false)
/-- CLS (R230). -/
def execOpCls (t : Time) (c : Fin 33) (s : State) : Host.Outcome State Fault Refusal := .next ((s.tick t).issue c .cls (plain semCls) false)
/-- SHL (R230). -/
def execOpShl (t : Time) (c : Fin 33) (s : State) : Host.Outcome State Fault Refusal := .next ((s.tick t).issue c .shl (plain semShl) false)
/-- SHRA (R230). -/
def execOpShra (t : Time) (c : Fin 33) (s : State) : Host.Outcome State Fault Refusal := .next ((s.tick t).issue c .shra (plain semShra) false)
/-- SHRL (R230). -/
def execOpShrl (t : Time) (c : Fin 33) (s : State) : Host.Outcome State Fault Refusal := .next ((s.tick t).issue c .shrl (plain semShrl) false)
/-- SHLI (R230). -/
def execOpShli (t : Time) (c : Fin 33) (s : State) : Host.Outcome State Fault Refusal := .next ((s.tick t).issue c .shli (plain semShli) false)
/-- SHRAI (R230). -/
def execOpShrai (t : Time) (c : Fin 33) (s : State) : Host.Outcome State Fault Refusal := .next ((s.tick t).issue c .shrai (plain semShrai) false)
/-- SHRLI (R230). -/
def execOpShrli (t : Time) (c : Fin 33) (s : State) : Host.Outcome State Fault Refusal := .next ((s.tick t).issue c .shrli (plain semShrli) false)
/-- ADDI (R231). -/
def execOpAddi (t : Time) (c : Fin 33) (s : State) : Host.Outcome State Fault Refusal := .next ((s.tick t).issue c .addi (plain semAddi) false)
/-- CMPI (R231). -/
def execOpCmpi (t : Time) (c : Fin 33) (s : State) : Host.Outcome State Fault Refusal := .next ((s.tick t).issue c .cmpi (plain semCmpi) false)
/-- MOVI (R231). -/
def execOpMovi (t : Time) (c : Fin 33) (s : State) : Host.Outcome State Fault Refusal := .next ((s.tick t).issue c .movi (plain semMovi) false)
/-- MOVHI (R231). -/
def execOpMovhi (t : Time) (c : Fin 33) (s : State) : Host.Outcome State Fault Refusal := .next ((s.tick t).issue c .movhi (plain semMovhi) false)
/-- MOVL (R231). -/
def execOpMovl (t : Time) (c : Fin 33) (s : State) : Host.Outcome State Fault Refusal := .next ((s.tick t).issue c .movl semMovl false)
/-- MOVPI (R231). -/
def execOpMovpi (t : Time) (c : Fin 33) (s : State) : Host.Outcome State Fault Refusal := .next ((s.tick t).issue c .movpi (plain semMovpi) false)
/-- MOVS (R232). -/
def execOpMovs (t : Time) (c : Fin 33) (s : State) : Host.Outcome State Fault Refusal := .next ((s.tick t).issue c .movs semMovs false)

end Sys2Proof.Machine
end

