-- ==== Sys2Proof/Machine/IsaMem.lean ====
section
/-! DEFINITION. Loads, stores, `LDD` and the end of a system-window access (R193, R202, R233 to R235). -/

namespace Sys2Proof.Machine

/-- LD (R233). -/
def semLd : Sem := fun s c w _ done =>
  let ad := (s.cr c).addrM w
  let accs := [(spOf w, ad.1, false)]
  s.withAccs c accs done (fun s =>
    let r := s.loadWord c (spOf w) ad.1
    match r.1 with
    | some v => .ok r.2 { wr := (2, .x (wfld w 25 22) v) :: ad.2, accs := accs }
    | none => .stall)
/-- ST (R233). -/
def semSt : Sem := fun s c w _ done =>
  let k := s.cr c
  let ad := k.addrM w
  let accs := [(spOf w, ad.1, true)]
  s.withAccs c accs done (fun s =>
    .ok s (s.storeWord c (spOf w) ad.1 (vget k.x (wfld w 25 22)) { wr := ad.2, accs := accs }))
/-- A store of an accumulator to 32 bits, with the flags it sets (R202): `conv` for convergent rounding. -/
def storeAcc (a : BitVec 80) (fm sat conv : Bool) : Word × List (Nat × Wr) :=
  let low := a.toNat % 2 ^ 32
  let h0 : Int := if fm then a.toInt.fdiv (2 ^ 32) else a.toInt
  let up := fm && conv && (decide (0x80000000 < low) || (low == 0x80000000 && decide (h0 % 2 = 1)))
  let h : Int := if up then h0 + 1 else h0
  if fits 32 h then (BitVec.ofInt 32 h, [])
  else if sat then (if h < 0 then 0x80000000 else 0x7FFFFFFF, [(1, flSat)])
  else (BitVec.ofInt 32 h, [(1, flWrap)])
/-- STA (R202, R234). -/
def semSta : Sem := fun s c w _ done =>
  let k := s.cr c
  let ad := k.addrM w
  let accs := [(spOf w, ad.1, true)]
  let conv := wfld w 25 24 == 1 || (wfld w 25 24 == 0 && !wbit k.cfg 0)
  let r := storeAcc (vget k.acc (wfld w 23 22)) (wbit k.cfg 2) (wbit k.cfg 1) conv
  s.withAccs c accs done (fun s =>
    .ok s (s.storeWord c (spOf w) ad.1 r.1 { wr := ad.2 ++ r.2, accs := accs }))
/-- LDD (R235): one X word and one Y word. -/
def semLdd : Sem := fun s c w _ done =>
  let k := s.cr c
  let pi := wfld w 17 15
  let pj := wfld w 9 7
  let accs := [(1, vget k.p pi, false), (2, vget k.p pj, false)]
  s.withAccs c accs done (fun s =>
    let x := s.loadWord c 1 (vget k.p pi)
    let y := x.2.loadWord c 2 (vget k.p pj)
    match x.1, y.1 with
    | some vx, some vy => .ok y.2 {
        wr := [(2, .x (wfld w 25 22) vx), (2, .x (wfld w 21 18) vy)] ++ k.sideUpd pi (wfld w 14 12) (wfld w 11 10) ++
          k.sideUpd pj (wfld w 6 4) (wfld w 3 2)
        accs := accs }
    | _, _ => .stall)

/-- LD (R233). -/
def execOpLd (t : Time) (c : Fin 33) (s : State) : Host.Outcome State Fault Refusal := .next ((s.tick t).issue c .ld semLd false)
/-- ST (R233). -/
def execOpSt (t : Time) (c : Fin 33) (s : State) : Host.Outcome State Fault Refusal := .next ((s.tick t).issue c .st semSt false)
/-- STA (R234). -/
def execOpSta (t : Time) (c : Fin 33) (s : State) : Host.Outcome State Fault Refusal := .next ((s.tick t).issue c .sta semSta false)
/-- LDD (R235). -/
def execOpLdd (t : Time) (c : Fin 33) (s : State) : Host.Outcome State Fault Refusal := .next ((s.tick t).issue c .ldd semLdd false)

end Sys2Proof.Machine
end

