-- ==== Sys2Proof/Machine/IsaMac.lean ====
section
/-! DEFINITION. Multiply-accumulate, `FTAP`, the accumulator operations and `SATX` (R200, R201, R236 to R239). -/

namespace Sys2Proof.Machine

/-- A product under `CFG.FM`, negated by its sign bit (R200, R236). -/
def CoreSt.prod (k : CoreSt) (x y : Word) (neg : Bool) : Int :=
  let p := x.toInt * y.toInt * (if wbit k.cfg 2 then 2 else 1)
  if neg then -p else p
/-- The accumulator as a later instruction of the group reads it: a result at distance 1 chains (R198, R236). -/
def CoreSt.chainAcc (k : CoreSt) (n : Nat) : BitVec 80 :=
  match k.pend.reverse.findSome? (fun p => match p.wr with
    | .acc a v true => if a = n ∧ p.left = 1 then some v else none
    | _ => none) with
  | some v => v
  | none => vget k.acc n
/-- An accumulation into ACCn with code VO; it chains (R236). -/
def accumulate (n : Nat) (base sum : Int) : List (Nat × Wr) :=
  [(2, .acc n (BitVec.ofInt 80 (base + sum)) true), (1, flVO (!fits 80 (base + sum)))]
/-- AN of the MAC form. -/
def macAN (w : Word) : Nat := wfld w 22 21
/-- The first product of the MAC form. -/
def CoreSt.prod1 (k : CoreSt) (w : Word) : Int := k.prod (vget k.x (wfld w 20 17)) (vget k.x (wfld w 16 13)) (wbit w 4)
/-- The second product of the MAC form. -/
def CoreSt.prod2 (k : CoreSt) (w : Word) : Int := k.prod (vget k.x (wfld w 12 9)) (vget k.x (wfld w 8 5)) (wbit w 3)
/-- MPY. -/
def semMpy (k : CoreSt) (w : Word) : List (Nat × Wr) := accumulate (macAN w) 0 (k.prod1 w)
/-- MAC. -/
def semMac (k : CoreSt) (w : Word) : List (Nat × Wr) := accumulate (macAN w) (k.chainAcc (macAN w)).toInt (k.prod1 w)
/-- MPYD. -/
def semMpyd (k : CoreSt) (w : Word) : List (Nat × Wr) := accumulate (macAN w) 0 (k.prod1 w + k.prod2 w)
/-- MACD. -/
def semMacd (k : CoreSt) (w : Word) : List (Nat × Wr) := accumulate (macAN w) (k.chainAcc (macAN w)).toInt (k.prod1 w + k.prod2 w)
/-- FTAP (R237): one tap and one move of the delay line. -/
def semFtap : Sem := fun s c w _ done =>
  let k := s.cr c
  let pi := wfld w 23 21
  let pj := wfld w 20 18
  let an := wfld w 25 24
  let p : Int := Int.ofNat (vget k.p pi)
  let dst := k.circ pi (p + 1)
  let accs := [(1, vget k.p pi, false), (2, vget k.p pj, false), (1, dst, true)]
  s.withAccs c accs done (fun s =>
    let x := s.loadWord c 1 (vget k.p pi)
    let y := x.2.loadWord c 2 (vget k.p pj)
    match x.1, y.1 with
    | some vx, some vy =>
      .ok y.2 (y.2.storeWord c 1 dst vx { wr := [ptrWr pi (k.circ pi (p - 1)), ptrWr pj (k.circ pj (Int.ofNat (vget k.p pj) + 1))] ++ accumulate an (k.chainAcc an).toInt (k.prod vx vy false), accs := accs })
    | _, _ => .stall)

/-! ### Accumulator operations (R238) -/

/-- ACCd. -/
def CoreSt.accD (k : CoreSt) (w : Word) : Int := (vget k.acc (wfld w 20 19)).toInt
/-- ACCs. -/
def CoreSt.accS (k : CoreSt) (w : Word) : BitVec 80 := vget k.acc (wfld w 18 17)
/-- Xa of the A form. -/
def CoreSt.aXa (k : CoreSt) (w : Word) : Word := vget k.x (wfld w 16 13)
/-- sext80(Xa:Xb), Xa the high word. -/
def CoreSt.aPair (k : CoreSt) (w : Word) : Int := (k.aXa w).toInt * 2 ^ 32 + ((vget k.x (wfld w 12 9)).toNat : Int)
/-- sext80(Xa) * 2^32. -/
def CoreSt.aHigh (k : CoreSt) (w : Word) : Int := (k.aXa w).toInt * 2 ^ 32
/-- An accumulator result at distance 2 with code ZNV, which overflows where the exact value does not fit (R201, R238). -/
def accZNV (w : Word) (v : Int) : List (Nat × Wr) :=
  [(2, .acc (wfld w 20 19) (BitVec.ofInt 80 v) false), (1, flZNV (BitVec.ofInt 80 v) (!fits 80 v))]
/-- An accumulator result at distance 2 with code ZN (R238). -/
def accZN (w : Word) (v : Int) : List (Nat × Wr) :=
  [(2, .acc (wfld w 20 19) (BitVec.ofInt 80 v) false), (1, flZN (BitVec.ofInt 80 v))]
/-- SH of the A form. -/
def aSh (w : Word) : Nat := wfld w 8 3
/-- An arithmetic right shift of an accumulator: truncated, or rounded to nearest with ties to even (R201). -/
def asrVal (a : Int) (sh : Nat) (conv : Bool) : Int :=
  let q := a.fdiv (2 ^ sh : Nat)
  let r := 2 * (a - q * (2 ^ sh : Nat))
  if conv && (decide ((2 ^ sh : Nat) < r) || (decide (r = (2 ^ sh : Nat)) && decide (q % 2 = 1))) then q + 1 else q
/-- CLRA. -/
def semClra (_k : CoreSt) (w : Word) : List (Nat × Wr) := accZN w 0
/-- MOVA. -/
def semMova (k : CoreSt) (w : Word) : List (Nat × Wr) := accZN w (k.accS w).toInt
/-- ADDA. -/
def semAdda (k : CoreSt) (w : Word) : List (Nat × Wr) := accZNV w (k.accD w + (k.accS w).toInt)
/-- SUBA. -/
def semSuba (k : CoreSt) (w : Word) : List (Nat × Wr) := accZNV w (k.accD w - (k.accS w).toInt)
/-- NEGA. -/
def semNega (k : CoreSt) (w : Word) : List (Nat × Wr) := accZNV w (-(k.accS w).toInt)
/-- ABSA. -/
def semAbsa (k : CoreSt) (w : Word) : List (Nat × Wr) := accZNV w ((k.accS w).toInt.natAbs : Int)
/-- ASR. -/
def semAsr (k : CoreSt) (w : Word) : List (Nat × Wr) := accZN w (asrVal (k.accS w).toInt (aSh w) (wbit w 2))
/-- ASL: the exact value fits where no bit unequal to the result's sign leaves bit 79. -/
def semAsl (k : CoreSt) (w : Word) : List (Nat × Wr) := accZNV w ((k.accS w).toInt * (2 ^ aSh w : Nat))
/-- LDAH. -/
def semLdah (k : CoreSt) (w : Word) : List (Nat × Wr) := accZN w (k.aHigh w)
/-- LDAX. -/
def semLdax (k : CoreSt) (w : Word) : List (Nat × Wr) := accZN w (k.aPair w)
/-- ADDAH. -/
def semAddah (k : CoreSt) (w : Word) : List (Nat × Wr) := accZNV w (k.accD w + k.aHigh w)
/-- ADDAX. -/
def semAddax (k : CoreSt) (w : Word) : List (Nat × Wr) := accZNV w (k.accD w + k.aPair w)
/-- XLO. -/
def semXlo (k : CoreSt) (w : Word) : List (Nat × Wr) := [(1, .x (wfld w 16 13) ((k.accS w).extractLsb' 0 32))]
/-- XHI. -/
def semXhi (k : CoreSt) (w : Word) : List (Nat × Wr) := [(1, .x (wfld w 16 13) ((k.accS w).extractLsb' 32 32))]
/-- XGD. -/
def semXgd (k : CoreSt) (w : Word) : List (Nat × Wr) := [(1, .x (wfld w 16 13) (((k.accS w).extractLsb' 64 16).signExtend 32))]
/-- CMPA. -/
def semCmpa (k : CoreSt) (w : Word) : List (Nat × Wr) :=
  let v := k.accD w - (k.accS w).toInt
  [(1, flZNV (BitVec.ofInt 80 v) (!fits 80 v))]
/-- SATX: the limit where the value is clipped, and the excess (R239). -/
def satx (v lo hi : Int) : Option Int × Int := if hi < v then (some hi, v - hi) else if v < lo then (some lo, v - lo) else (none, 0)
/-- SATX. -/
def semSatx (k : CoreSt) (w : Word) : List (Nat × Wr) :=
  let r := satx (vget k.acc (wfld w 25 24)).toInt ((vget k.x (wfld w 21 18)).toInt * 2 ^ 32) ((vget k.x (wfld w 17 14)).toInt * 2 ^ 32)
  (match r.1 with | some x => [(2, .acc (wfld w 25 24) (BitVec.ofInt 80 x) false)] | none => []) ++
    [(2, .acc (wfld w 23 22) (BitVec.ofInt 80 r.2) false), (1, flExcess (BitVec.ofInt 80 r.2))]

/-- MPY (R236). -/
def execOpMpy (t : Time) (c : Fin 33) (s : State) : Host.Outcome State Fault Refusal := .next ((s.tick t).issue c .mpy (plain semMpy) false)
/-- MAC (R236). -/
def execOpMac (t : Time) (c : Fin 33) (s : State) : Host.Outcome State Fault Refusal := .next ((s.tick t).issue c .mac (plain semMac) false)
/-- MPYD (R236). -/
def execOpMpyd (t : Time) (c : Fin 33) (s : State) : Host.Outcome State Fault Refusal := .next ((s.tick t).issue c .mpyd (plain semMpyd) false)
/-- MACD (R236). -/
def execOpMacd (t : Time) (c : Fin 33) (s : State) : Host.Outcome State Fault Refusal := .next ((s.tick t).issue c .macd (plain semMacd) false)
/-- FTAP (R237). -/
def execOpFtap (t : Time) (c : Fin 33) (s : State) : Host.Outcome State Fault Refusal := .next ((s.tick t).issue c .ftap semFtap false)
/-- CLRA (R238). -/
def execOpClra (t : Time) (c : Fin 33) (s : State) : Host.Outcome State Fault Refusal := .next ((s.tick t).issue c .clra (plain semClra) false)
/-- MOVA (R238). -/
def execOpMova (t : Time) (c : Fin 33) (s : State) : Host.Outcome State Fault Refusal := .next ((s.tick t).issue c .mova (plain semMova) false)
/-- ADDA (R238). -/
def execOpAdda (t : Time) (c : Fin 33) (s : State) : Host.Outcome State Fault Refusal := .next ((s.tick t).issue c .adda (plain semAdda) false)
/-- SUBA (R238). -/
def execOpSuba (t : Time) (c : Fin 33) (s : State) : Host.Outcome State Fault Refusal := .next ((s.tick t).issue c .suba (plain semSuba) false)
/-- NEGA (R238). -/
def execOpNega (t : Time) (c : Fin 33) (s : State) : Host.Outcome State Fault Refusal := .next ((s.tick t).issue c .nega (plain semNega) false)
/-- ABSA (R238). -/
def execOpAbsa (t : Time) (c : Fin 33) (s : State) : Host.Outcome State Fault Refusal := .next ((s.tick t).issue c .absa (plain semAbsa) false)
/-- ASR (R238). -/
def execOpAsr (t : Time) (c : Fin 33) (s : State) : Host.Outcome State Fault Refusal := .next ((s.tick t).issue c .asr (plain semAsr) false)
/-- ASL (R238). -/
def execOpAsl (t : Time) (c : Fin 33) (s : State) : Host.Outcome State Fault Refusal := .next ((s.tick t).issue c .asl (plain semAsl) false)
/-- LDAH (R238). -/
def execOpLdah (t : Time) (c : Fin 33) (s : State) : Host.Outcome State Fault Refusal := .next ((s.tick t).issue c .ldah (plain semLdah) false)
/-- LDAX (R238). -/
def execOpLdax (t : Time) (c : Fin 33) (s : State) : Host.Outcome State Fault Refusal := .next ((s.tick t).issue c .ldax (plain semLdax) false)
/-- ADDAH (R238). -/
def execOpAddah (t : Time) (c : Fin 33) (s : State) : Host.Outcome State Fault Refusal := .next ((s.tick t).issue c .addah (plain semAddah) false)
/-- ADDAX (R238). -/
def execOpAddax (t : Time) (c : Fin 33) (s : State) : Host.Outcome State Fault Refusal := .next ((s.tick t).issue c .addax (plain semAddax) false)
/-- XLO (R238). -/
def execOpXlo (t : Time) (c : Fin 33) (s : State) : Host.Outcome State Fault Refusal := .next ((s.tick t).issue c .xlo (plain semXlo) false)
/-- XHI (R238). -/
def execOpXhi (t : Time) (c : Fin 33) (s : State) : Host.Outcome State Fault Refusal := .next ((s.tick t).issue c .xhi (plain semXhi) false)
/-- XGD (R238). -/
def execOpXgd (t : Time) (c : Fin 33) (s : State) : Host.Outcome State Fault Refusal := .next ((s.tick t).issue c .xgd (plain semXgd) false)
/-- CMPA (R238). -/
def execOpCmpa (t : Time) (c : Fin 33) (s : State) : Host.Outcome State Fault Refusal := .next ((s.tick t).issue c .cmpa (plain semCmpa) false)
/-- SATX (R239). -/
def execOpSatx (t : Time) (c : Fin 33) (s : State) : Host.Outcome State Fault Refusal := .next ((s.tick t).issue c .satx (plain semSatx) false)

end Sys2Proof.Machine
end

