-- ==== Sys2Proof/Machine/IsaPeriod.lean ====
section
/-! DEFINITION. The period, frame and trace instructions, and the end of a system-window access (R25, R26, R193,
R247 to R250). -/

namespace Sys2Proof.Machine

/-- The instant at which an instruction issued now enters EX2, four cycles later, in fine ticks rounded up (R197). -/
def ex2At (c : Nat) (now : Time) : Time := now + (if c < 28 then 54 else 107)
/-- The core may use the period for `IN` and `OUT`: it hosts it, or a migration took it away and the core runs on
(R248, R249, R278). -/
def State.usesPeriod (s : State) (c a l : Nat) : Bool :=
  s.hosts c a l || (bitN (s.cr c).gone a && decide (l < s.levels a))
/-- The current axis, none before the first `WAITT` return (R191). -/
def State.curAxis (s : State) (c : Nat) : Option Nat :=
  if s.bit (R.CORE.STAT c) 22 then some (s.fld (R.CORE.STAT c) 21 16) else none
/-- The period of an `IN` or `OUT`, none for NOT_HOSTED (R248). -/
def State.ioPeriod (s : State) (c : Nat) (w : Word) : Option Nat :=
  match s.curAxis c with
  | some a => if s.usesPeriod c a (wfld w 21 20) then some (a * 4 + wfld w 21 20) else none
  | none => none
/-- The frame that `WAITT` most recently delivered for a period (R248). -/
def CoreSt.frameOf (k : CoreSt) (key : Nat) : Option Frame := (k.frames.find? (fun x => x.1 == key)).map (·.2)
/-- WAITT (R247). -/
def semWaitt : Sem := fun s c w _ _ =>
  let a := wfld w 25 20
  let l := wfld w 19 18
  if s.usesPeriod c a l then .ok s { ctl := .waitt a l } else .fault s 0x07 none
/-- IN (R248). -/
def semIn : Sem := fun s c w _ _ =>
  let k := s.cr c
  match s.ioPeriod c w with
  | none => .fault s 0x07 none
  | some key =>
    let ad := k.addrF w
    let v : Word := match k.frameOf key with | some f => vget f.words (ad.1 % 32) | none => 0
    .ok s { wr := (2, .x (wfld w 25 22) v) :: ad.2 }
/-- A write that leaves for staging: beyond the reservation the fabric discards it (R25, R26, R249, R264). -/
def State.stageOut (s : State) (c key word : Nat) (v : Word) (f : Frame) : State :=
  let n := tget 0 (s.cr c).outs key
  if s.resOf (key / 4) (key % 4) ≤ n then s.count R.SYS.FAB_STAT 15 0 1
  else s.setCr c (fun k => { k with
    outs := tput k.outs key (some (n + 1))
    outQ := k.outQ ++ [(key, word, v, k.epoch, (f.k + 1) % 256, ex2At c s.now + ns 40)] })
/-- OUT (R249). -/
def semOut : Sem := fun s c w _ _ =>
  let k := s.cr c
  match s.ioPeriod c w with
  | none => .fault s 0x07 none
  | some key =>
    let ad := k.addrF w
    let s1 := match k.frameOf key with
      | some f => s.stageOut c key (ad.1 % 64) (vget k.x (wfld w 25 22)) f
      | none => s
    .ok s1 { wr := ad.2 }
/-- TRC (R250): a full buffer drops the word and counts it. -/
def semTrc : Sem := fun s c w _ _ =>
  let k := s.cr c
  let ad := k.addrF w
  let stamp := (ex2At c s.now + 8) / 16 * 16
  let s1 := if k.trc.length < 16 then
      s.setCr c (fun k => { k with trc := k.trc ++ [⟨ad.1 % 64, vget k.x (wfld w 25 22), stamp⟩] })
    else s.count (R.HOPPER.TRC_DROP c) 15 0 1
  .ok s1 { wr := ad.2 }

/-- WAITT (R247). -/
def execOpWaitt (t : Time) (c : Fin 33) (s : State) : Host.Outcome State Fault Refusal := .next ((s.tick t).issue c .waitt semWaitt false)
/-- IN (R248). -/
def execOpIn (t : Time) (c : Fin 33) (s : State) : Host.Outcome State Fault Refusal := .next ((s.tick t).issue c .in_ semIn false)
/-- OUT (R249). -/
def execOpOut (t : Time) (c : Fin 33) (s : State) : Host.Outcome State Fault Refusal := .next ((s.tick t).issue c .out semOut false)
/-- TRC (R250). -/
def execOpTrc (t : Time) (c : Fin 33) (s : State) : Host.Outcome State Fault Refusal := .next ((s.tick t).issue c .trc semTrc false)

/-- Accesses of an instruction that a stop or a fault ended complete: the millwright makes them, and nothing takes what they
read (R193). -/
def State.orphanDone (s : State) (c : Nat) : State :=
  (s.cr c).orphan.foldl (fun (s : State) x => match x.2 with
    | none => (s.sysRead (mwMaster c) x.1 4 15).2
    | some v => s.sysWrite (mwMaster c) x.1 4 15 v.toNat) (s.setCr c (fun k => { k with orphan := [] }))

/-- The system-window access on which a millwright stalls completes, and its instruction with it; an access that a stop left
behind comes first (R193). -/
def State.accessDone (s : State) (c : Nat) : State :=
  if isMw c && !(s.cr c).orphan.isEmpty then s.orphanDone c
  else if !isMw c || !(s.cr c).stall then s else
  match opOf (s.ldw (spaceAddr c 0 (s.cr c).pc)) with
  | some .ld => s.issue c .ld semLd true
  | some .st => s.issue c .st semSt true
  | some .sta => s.issue c .sta semSta true
  | some .ldd => s.issue c .ldd semLdd true
  | some .ftap => s.issue c .ftap semFtap true
  | _ => s
/-- SYSTEM_WINDOW_DONE (R193). -/
def execSystemWindowDone (t : Time) (c : Fin 33) (s : State) : Host.Outcome State Fault Refusal := .next ((s.tick t).accessDone c)

end Sys2Proof.Machine
end

