-- ==== Sys2Proof/Machine/IsaPrim.lean ====
section
/-! DEFINITION. The pipelined primitives (R240, R241): within the accuracies stated, the result is an open value
(assumption log 125). -/

namespace Sys2Proof.Machine

/-- XD of the PR form. -/
def prXD (w : Word) : Nat := wfld w 22 19
/-- XA of the PR form. -/
def CoreSt.prA (k : CoreSt) (w : Word) : Word := vget k.x (wfld w 18 15)
/-- XB of the PR form. -/
def CoreSt.prB (k : CoreSt) (w : Word) : Word := vget k.x (wfld w 14 11)
/-- The nearest integer. -/
def ratRound (x : Rat) : Int := (x + 1 / 2).floor
/-- Sine of `r` * 2^-32 of a turn, for `r` from 0 to 2^30. -/
def sinQuarter (r : Nat) : Rat :=
  if r ≤ 2 ^ 29 then trigSeries true (2 * piRat * (r : Rat) / (2 ^ 32 : Nat))
  else trigSeries false (2 * piRat * ((2 ^ 30 - r : Nat) : Rat) / (2 ^ 32 : Nat))
/-- Sine of `a` * 2^-32 of a turn. -/
def sinTurn (a : Nat) : Rat :=
  let r := a % 2 ^ 30
  match a / 2 ^ 30 % 4 with
  | 0 => sinQuarter r
  | 1 => sinQuarter (2 ^ 30 - r)
  | 2 => -sinQuarter r
  | _ => -sinQuarter (2 ^ 30 - r)
/-- A sine in Q1.31: exact at multiples of a quarter turn, otherwise within 4 LSB (R241). -/
def State.sinValue (s : State) (a : Nat) : Word × State :=
  if a % 2 ^ 30 = 0 then
    (match a / 2 ^ 30 % 4 with | 1 => 0x7FFFFFFF | 3 => 0x80000000 | _ => 0, s)
  else
    let v := ratRound (sinTurn a * (2 ^ 31 : Nat))
    let r := s.freeIn (satI 32 (v - 4)) (satI 32 (v + 4))
    (BitVec.ofInt 32 r.1, r.2)
/-- SINCOS (R241). -/
def semSincos : Sem := fun s c w _ _ =>
  let a := ((s.cr c).prA w).toNat
  let sn := s.sinValue a
  let cs := sn.2.sinValue ((a + 2 ^ 30) % 2 ^ 32)
  .ok cs.2 { wr := [(6, .x (prXD w) sn.1), (6, .x (prXD w + 1) cs.1)], prim := true }

/-- The arc tangent of num/den, 0 ≤ num ≤ 0.42 den, in radians with an error below 2^-55, by its power series. -/
def atanSeries (num den : Nat) : Rat :=
  let z : Nat := num * 2 ^ 64 / den
  let z2 : Nat := z * z / 2 ^ 64
  let r := (List.range 26).foldl (fun (acc : Int × Nat) k =>
    let t := acc.2
    (acc.1 + (if k % 2 = 0 then ((t / (2 * k + 1) : Nat) : Int) else -((t / (2 * k + 1) : Nat) : Int)), t * z2 / 2 ^ 64)) ((0 : Int), z)
  (r.1 : Rat) / (2 ^ 64 : Nat)
/-- The arc tangent of num/den, 0 ≤ num ≤ den, in turns. -/
def atanTurn (num den : Nat) : Rat :=
  (if 1000 * num ≤ 414 * den then atanSeries num den else piRat / 4 - atanSeries (den - num) (den + num)) / (2 * piRat)
/-- The angle of (x, y) in turns, from -1/2 to 1/2; (0, 0) has none. -/
def angleTurn (y x : Int) : Rat :=
  let ay := y.natAbs
  let ax := x.natAbs
  let p := if ay ≤ ax then atanTurn ay ax else 1 / 4 - atanTurn ax ay
  let q := if x < 0 then 1 / 2 - p else p
  if y < 0 then -q else q
/-- ATAN2: (0, 0) gives 0, otherwise within 64 LSB of the angle (R241). -/
def semAtan2 : Sem := fun s c w _ _ =>
  let y := ((s.cr c).prA w).toInt
  let x := ((s.cr c).prB w).toInt
  if y = 0 ∧ x = 0 then .ok s { wr := [(12, .x (prXD w) 0)], prim := true }
  else
    let v := ratRound (angleTurn y x * (2 ^ 32 : Nat))
    let r := s.freeIn (v - 64) (v + 64)
    .ok r.2 { wr := [(12, .x (prXD w) (BitVec.ofInt 32 r.1))], prim := true }
/-- RSQRT: a relative error of 2^-22 before rounding and clipping (R241). -/
def semRsqrt : Sem := fun s c w _ _ =>
  let a := ((s.cr c).prA w).toInt
  if a ≤ 0 then .ok s { wr := [(8, .x (prXD w) 0x7FFFFFFF), (8, flVO false), (8, flDZ)], prim := true }
  else
    let sq : Rat := ((2 ^ 63 : Nat) : Rat) / (a.toNat : Rat)
    let e : Rat := 1 / (2 ^ 22 : Nat)
    let r := s.freeIn (ratRound (ratSqrt sq false * (1 - e))) (ratRound (ratSqrt sq true * (1 + e)))
    .ok r.2 { wr := [(8, .x (prXD w) (BitVec.ofInt 32 (min r.1 0x7FFFFFFF))), (8, flVO (decide (0x7FFFFFFF < r.1)))], prim := true }
/-- The quotient of a division with its flags (R241): a zero divisor sets DZ alone, a clipped quotient VL. -/
def divWr (w : Word) (num b : Int) (neg : Bool) : List (Nat × Wr) :=
  if b = 0 then [(18, .x (prXD w) (if neg then 0x80000000 else 0x7FFFFFFF)), (18, flDZ)]
  else
    let q := num.tdiv b
    [(18, .x (prXD w) (BitVec.ofInt 32 (satI 32 q))), (18, flVO (!fits 32 q))]
/-- DIV (R241). -/
def semDiv : Sem := fun s c w _ _ =>
  let a := ((s.cr c).prA w).toInt
  .ok s { wr := divWr w (a * 2 ^ 31) ((s.cr c).prB w).toInt (decide (a < 0)), prim := true }
/-- DIVI (R241). -/
def semDivi : Sem := fun s c w _ _ =>
  let a := ((s.cr c).prA w).toInt
  .ok s { wr := divWr w a ((s.cr c).prB w).toInt (decide (a < 0)), prim := true }

/-- SINCOS (R240). -/
def execOpSincos (t : Time) (c : Fin 33) (s : State) : Host.Outcome State Fault Refusal := .next ((s.tick t).issue c .sincos semSincos false)
/-- ATAN2 (R240). -/
def execOpAtan2 (t : Time) (c : Fin 33) (s : State) : Host.Outcome State Fault Refusal := .next ((s.tick t).issue c .atan2 semAtan2 false)
/-- RSQRT (R240). -/
def execOpRsqrt (t : Time) (c : Fin 33) (s : State) : Host.Outcome State Fault Refusal := .next ((s.tick t).issue c .rsqrt semRsqrt false)
/-- DIV (R240). -/
def execOpDiv (t : Time) (c : Fin 33) (s : State) : Host.Outcome State Fault Refusal := .next ((s.tick t).issue c .div semDiv false)
/-- DIVI (R240). -/
def execOpDivi (t : Time) (c : Fin 33) (s : State) : Host.Outcome State Fault Refusal := .next ((s.tick t).issue c .divi semDivi false)
/-- PRIMITIVE_RESULT: the results whose distance has come take their places, where the last issue left a primitive's
among them (R240, assumption log 128). -/
def execPrimitiveResult (t : Time) (c : Fin 33) (s : State) : Host.Outcome State Fault Refusal := .next ((s.tick t).landDue c)

end Sys2Proof.Machine
end

