-- ==== Sys2Proof/Machine/Dispatch.lean ====
section
/-! DEFINITION. One arm per command: the direct call of its meaning. -/

namespace Sys2Proof.Machine

def exec (i : Instr) (s : State) : Host.Outcome State Fault Refusal :=
  match i with
  | .registerWrite t m a w be v => Sys2Proof.Machine.execRegisterWrite t m a w be v s
  | .stagedRegisterWrite t m a wide v => Sys2Proof.Machine.execStagedRegisterWrite t m a wide v s
  | .rcRead t m a w be => Sys2Proof.Machine.execRcRead t m a w be s
  | .pairLowRead t m a => Sys2Proof.Machine.execPairLowRead t m a s
  | .pairHighRead t m a => Sys2Proof.Machine.execPairHighRead t m a s
  | .pairLowWrite t m a v => Sys2Proof.Machine.execPairLowWrite t m a v s
  | .pairHighWrite t m a v => Sys2Proof.Machine.execPairHighWrite t m a v s
  | .unmappedAccess t m a w wr v => Sys2Proof.Machine.execUnmappedAccess t m a w wr v s
  | .memoryWindowWrite t m a w be v => Sys2Proof.Machine.execMemoryWindowWrite t m a w be v s
  | .softReset t m a => Sys2Proof.Machine.execSoftReset t m a s
  | .softResetDone t a => Sys2Proof.Machine.execSoftResetDone t a s
  | .freezeCapture t m a => Sys2Proof.Machine.execFreezeCapture t m a s
  | .freezeRelease t m a => Sys2Proof.Machine.execFreezeRelease t m a s
  | .irqClear t m a v => Sys2Proof.Machine.execIrqClear t m a v s
  | .unlockFirstKey t m a => Sys2Proof.Machine.execUnlockFirstKey t m a s
  | .unlockSecondKey t m a => Sys2Proof.Machine.execUnlockSecondKey t m a s
  | .unlockTimeout t a => Sys2Proof.Machine.execUnlockTimeout t a s
  | .lockZeroWrite t m a => Sys2Proof.Machine.execLockZeroWrite t m a s
  | .lockOtherWrite t m a v => Sys2Proof.Machine.execLockOtherWrite t m a v s
  | .lockTimeout t a => Sys2Proof.Machine.execLockTimeout t a s
  | .lockedRegisterWrite t m a wide v => Sys2Proof.Machine.execLockedRegisterWrite t m a wide v s
  | .shadowHold t m a on => Sys2Proof.Machine.execShadowHold t m a on s
  | .shadowDiscard t m a => Sys2Proof.Machine.execShadowDiscard t m a s
  | .selectorWrite t m a v => Sys2Proof.Machine.execSelectorWrite t m a v s
  | .commitInstant t n => Sys2Proof.Machine.execCommitInstant t n s
  | .frameReady t a => Sys2Proof.Machine.execFrameReady t a s
  | .stagingCutoff t a => Sys2Proof.Machine.execStagingCutoff t a s
  | .outWriteArrival t c => Sys2Proof.Machine.execOutWriteArrival t c s
  | .outEnSet t m => Sys2Proof.Machine.execOutEnSet t m s
  | .outEnClear t m => Sys2Proof.Machine.execOutEnClear t m s
  | .runEntry t => Sys2Proof.Machine.execRunEntry t s
  | .safeAck t m => Sys2Proof.Machine.execSafeAck t m s
  | .pllLockLost t p freq => Sys2Proof.Machine.execPllLockLost t p freq s
  | .refclkLost t => Sys2Proof.Machine.execRefclkLost t s
  | .incrWrite t m n v => Sys2Proof.Machine.execIncrWrite t m n v s
  | .incrApply t n => Sys2Proof.Machine.execIncrApply t n s
  | .offsetWrite t m n v => Sys2Proof.Machine.execOffsetWrite t m n v s
  | .offsetApply t n => Sys2Proof.Machine.execOffsetApply t n s
  | .slewDone t => Sys2Proof.Machine.execSlewDone t s
  | .reseed t m => Sys2Proof.Machine.execReseed t m s
  | .standaloneSet t m => Sys2Proof.Machine.execStandaloneSet t m s
  | .standaloneClear t m => Sys2Proof.Machine.execStandaloneClear t m s
  | .snapshotTake t m => Sys2Proof.Machine.execSnapshotTake t m s
  | .snapshotPeriod t => Sys2Proof.Machine.execSnapshotPeriod t s
  | .weirPost t src code stamp payload => Sys2Proof.Machine.execWeirPost t src code stamp payload s
  | .weirDelivery t lag => Sys2Proof.Machine.execWeirDelivery t lag s
  | .stallClear t => Sys2Proof.Machine.execStallClear t s
  | .weirInject t m v => Sys2Proof.Machine.execWeirInject t m v s
  | .weirPop t m q wide => Sys2Proof.Machine.execWeirPop t m q wide s
  | .weirPopWord t m q ix => Sys2Proof.Machine.execWeirPopWord t m q ix s
  | .feedbackEdge t n line stamp level stamped => Sys2Proof.Machine.execFeedbackEdge t n line stamp level stamped s
  | .glitchGatheredPost t n => Sys2Proof.Machine.execGlitchGatheredPost t n s
  | .minIntExpiry t n line => Sys2Proof.Machine.execMinIntExpiry t n line s
  | .fbpConfigWrite t m n v => Sys2Proof.Machine.execFbpConfigWrite t m n v s
  | .portEnable t m n => Sys2Proof.Machine.execPortEnable t m n s
  | .fbRestore t m n => Sys2Proof.Machine.execFbRestore t m n s
  | .fbSet t m n => Sys2Proof.Machine.execFbSet t m n s
  | .fbZsetArm t m n => Sys2Proof.Machine.execFbZsetArm t m n s
  | .fbZsetDisarm t m n => Sys2Proof.Machine.execFbZsetDisarm t m n s
  | .fbReload t m n => Sys2Proof.Machine.execFbReload t m n s
  | .limitWrite t m n hi v => Sys2Proof.Machine.execLimitWrite t m n hi v s
  | .serialRequest t n tk => Sys2Proof.Machine.execSerialRequest t n tk s
  | .serialWord t n data crc => Sys2Proof.Machine.execSerialWord t n data crc s
  | .serialTimeout t n => Sys2Proof.Machine.execSerialTimeout t n s
  | .sentFrame t n sync fall status data crc => Sys2Proof.Machine.execSentFrame t n sync fall status data crc s
  | .sentTimeout t n => Sys2Proof.Machine.execSentTimeout t n s
  | .lineFault t n pairs => Sys2Proof.Machine.execLineFault t n pairs s
  | .edgeStall t n a => Sys2Proof.Machine.execEdgeStall t n a s
  | .fbpFaultClear t m n v => Sys2Proof.Machine.execFbpFaultClear t m n v s
  | .fbSelWrite t m a v => Sys2Proof.Machine.execFbSelWrite t m a v s
  | .sinc3Window t n ix clk pin mid run => Sys2Proof.Machine.execSinc3Window t n ix clk pin mid run s
  | .sdClkLoss t n last => Sys2Proof.Machine.execSdClkLoss t n last s
  | .sdManErr t n ix c => Sys2Proof.Machine.execSdManErr t n ix c s
  | .sdStuck t n ix run => Sys2Proof.Machine.execSdStuck t n ix run s
  | .sdmConfigWrite t m n k v => Sys2Proof.Machine.execSdmConfigWrite t m n k v s
  | .cmpThresholdCrossing t n ix clk pin c => Sys2Proof.Machine.execCmpThresholdCrossing t n ix clk pin c s
  | .auxConversionStart t m => Sys2Proof.Machine.execAuxConversionStart t m s
  | .auxConversionDone t m v => Sys2Proof.Machine.execAuxConversionDone t m v s
  | .auxWindowCrossing t m j v => Sys2Proof.Machine.execAuxWindowCrossing t m j v s
  | .slotEnable t m n => Sys2Proof.Machine.execSlotEnable t m n s
  | .slotStart t n => Sys2Proof.Machine.execSlotStart t n s
  | .slotDisable t m n => Sys2Proof.Machine.execSlotDisable t m n s
  | .pwmConfigWrite t m n v => Sys2Proof.Machine.execPwmConfigWrite t m n v s
  | .reanchorPauseEnd t n => Sys2Proof.Machine.execReanchorPauseEnd t n s
  | .compareMatch t n => Sys2Proof.Machine.execCompareMatch t n s
  | .deadTimeEnd t n => Sys2Proof.Machine.execDeadTimeEnd t n s
  | .tripSourceChange t p level => Sys2Proof.Machine.execTripSourceChange t p level s
  | .tripFilterExpiry t n k => Sys2Proof.Machine.execTripFilterExpiry t n k s
  | .commEnable t m n port => Sys2Proof.Machine.execCommEnable t m n port s
  | .pwmComm t n => Sys2Proof.Machine.execComm t n s
  | .pwmOverride t m n v => Sys2Proof.Machine.execOverride t m n v s
  | .protectionEnable t m n => Sys2Proof.Machine.execProtectionEnable t m n s
  | .degradeTimeout t n => Sys2Proof.Machine.execDegradeTimeout t n s
  | .stopTimeout t n => Sys2Proof.Machine.execStopTimeout t n s
  | .protectionClear t m n v => Sys2Proof.Machine.execProtectionClear t m n v s
  | .bwRequest t n => Sys2Proof.Machine.execBwRequest t n s
  | .slotStoGate t n => Sys2Proof.Machine.execSlotStoGate t n s
  | .selfTestStart t m n v => Sys2Proof.Machine.execSelfTestStart t m n v s
  | .selfTestPhaseEnd t n line => Sys2Proof.Machine.execSelfTestPhaseEnd t n line s
  | .chopLimit t n => Sys2Proof.Machine.execChopLimit t n s
  | .chopCoolEnd t n => Sys2Proof.Machine.execChopCoolEnd t n s
  | .chopStale t n => Sys2Proof.Machine.execChopStale t n s
  | .opAdd t c => Sys2Proof.Machine.execOpAdd t c s
  | .opSub t c => Sys2Proof.Machine.execOpSub t c s
  | .opNeg t c => Sys2Proof.Machine.execOpNeg t c s
  | .opAbs t c => Sys2Proof.Machine.execOpAbs t c s
  | .opAnd t c => Sys2Proof.Machine.execOpAnd t c s
  | .opOr t c => Sys2Proof.Machine.execOpOr t c s
  | .opXor t c => Sys2Proof.Machine.execOpXor t c s
  | .opNot t c => Sys2Proof.Machine.execOpNot t c s
  | .opMin t c => Sys2Proof.Machine.execOpMin t c s
  | .opMax t c => Sys2Proof.Machine.execOpMax t c s
  | .opMov t c => Sys2Proof.Machine.execOpMov t c s
  | .opCmp t c => Sys2Proof.Machine.execOpCmp t c s
  | .opCls t c => Sys2Proof.Machine.execOpCls t c s
  | .opShl t c => Sys2Proof.Machine.execOpShl t c s
  | .opShra t c => Sys2Proof.Machine.execOpShra t c s
  | .opShrl t c => Sys2Proof.Machine.execOpShrl t c s
  | .opShli t c => Sys2Proof.Machine.execOpShli t c s
  | .opShrai t c => Sys2Proof.Machine.execOpShrai t c s
  | .opShrli t c => Sys2Proof.Machine.execOpShrli t c s
  | .opAddi t c => Sys2Proof.Machine.execOpAddi t c s
  | .opCmpi t c => Sys2Proof.Machine.execOpCmpi t c s
  | .opMovi t c => Sys2Proof.Machine.execOpMovi t c s
  | .opMovhi t c => Sys2Proof.Machine.execOpMovhi t c s
  | .opMovl t c => Sys2Proof.Machine.execOpMovl t c s
  | .opMovpi t c => Sys2Proof.Machine.execOpMovpi t c s
  | .opMovs t c => Sys2Proof.Machine.execOpMovs t c s
  | .opLd t c => Sys2Proof.Machine.execOpLd t c s
  | .opSt t c => Sys2Proof.Machine.execOpSt t c s
  | .opSta t c => Sys2Proof.Machine.execOpSta t c s
  | .opLdd t c => Sys2Proof.Machine.execOpLdd t c s
  | .opMpy t c => Sys2Proof.Machine.execOpMpy t c s
  | .opMac t c => Sys2Proof.Machine.execOpMac t c s
  | .opMpyd t c => Sys2Proof.Machine.execOpMpyd t c s
  | .opMacd t c => Sys2Proof.Machine.execOpMacd t c s
  | .opFtap t c => Sys2Proof.Machine.execOpFtap t c s
  | .opClra t c => Sys2Proof.Machine.execOpClra t c s
  | .opMova t c => Sys2Proof.Machine.execOpMova t c s
  | .opAdda t c => Sys2Proof.Machine.execOpAdda t c s
  | .opSuba t c => Sys2Proof.Machine.execOpSuba t c s
  | .opNega t c => Sys2Proof.Machine.execOpNega t c s
  | .opAbsa t c => Sys2Proof.Machine.execOpAbsa t c s
  | .opAsr t c => Sys2Proof.Machine.execOpAsr t c s
  | .opAsl t c => Sys2Proof.Machine.execOpAsl t c s
  | .opLdah t c => Sys2Proof.Machine.execOpLdah t c s
  | .opLdax t c => Sys2Proof.Machine.execOpLdax t c s
  | .opAddah t c => Sys2Proof.Machine.execOpAddah t c s
  | .opAddax t c => Sys2Proof.Machine.execOpAddax t c s
  | .opXlo t c => Sys2Proof.Machine.execOpXlo t c s
  | .opXhi t c => Sys2Proof.Machine.execOpXhi t c s
  | .opXgd t c => Sys2Proof.Machine.execOpXgd t c s
  | .opCmpa t c => Sys2Proof.Machine.execOpCmpa t c s
  | .opSatx t c => Sys2Proof.Machine.execOpSatx t c s
  | .opSincos t c => Sys2Proof.Machine.execOpSincos t c s
  | .opAtan2 t c => Sys2Proof.Machine.execOpAtan2 t c s
  | .opRsqrt t c => Sys2Proof.Machine.execOpRsqrt t c s
  | .opDiv t c => Sys2Proof.Machine.execOpDiv t c s
  | .opDivi t c => Sys2Proof.Machine.execOpDivi t c s
  | .primitiveResult t c => Sys2Proof.Machine.execPrimitiveResult t c s
  | .opBcc t c => Sys2Proof.Machine.execOpBcc t c s
  | .opCall t c => Sys2Proof.Machine.execOpCall t c s
  | .opBri t c => Sys2Proof.Machine.execOpBri t c s
  | .opCalli t c => Sys2Proof.Machine.execOpCalli t c s
  | .opRet t c => Sys2Proof.Machine.execOpRet t c s
  | .opRetn t c => Sys2Proof.Machine.execOpRetn t c s
  | .opReti t c => Sys2Proof.Machine.execOpReti t c s
  | .opNop t c => Sys2Proof.Machine.execOpNop t c s
  | .opBkpt t c => Sys2Proof.Machine.execOpBkpt t c s
  | .opRpt t c => Sys2Proof.Machine.execOpRpt t c s
  | .opBrpt t c => Sys2Proof.Machine.execOpBrpt t c s
  | .opBrptL t c => Sys2Proof.Machine.execOpBrptL t c s
  | .opWaitt t c => Sys2Proof.Machine.execOpWaitt t c s
  | .opIn t c => Sys2Proof.Machine.execOpIn t c s
  | .opOut t c => Sys2Proof.Machine.execOpOut t c s
  | .opTrc t c => Sys2Proof.Machine.execOpTrc t c s
  | .systemWindowDone t c => Sys2Proof.Machine.execSystemWindowDone t c s
  | .vectorEntry t k => Sys2Proof.Machine.execVectorEntry t k s
  | .wdogExpire t k => Sys2Proof.Machine.execWdogExpire t k s
  | .wdogKick t m k v => Sys2Proof.Machine.execWdogKick t m k v s
  | .mwTimerFire t k ix => Sys2Proof.Machine.execMwTimerFire t k ix s
  | .doorbell t m k => Sys2Proof.Machine.execDoorbell t m k s
  | .coreGo t m c => Sys2Proof.Machine.execCoreGo t m c s
  | .coreStop t m c => Sys2Proof.Machine.execCoreStop t m c s
  | .coreHalt t m c => Sys2Proof.Machine.execCoreHalt t m c s
  | .halted t c => Sys2Proof.Machine.execHalted t c s
  | .coreResume t m c => Sys2Proof.Machine.execCoreResume t m c s
  | .coreStep t m c => Sys2Proof.Machine.execCoreStep t m c s
  | .breakpointHit t c => Sys2Proof.Machine.execBreakpointHit t c s
  | .watchpointHit t c => Sys2Proof.Machine.execWatchpointHit t c s
  | .dbgDataRead t m c => Sys2Proof.Machine.execDbgDataRead t m c s
  | .dbgDataWrite t m c v => Sys2Proof.Machine.execDbgDataWrite t m c v s
  | .axisRunSet t m a => Sys2Proof.Machine.execAxisRunSet t m a s
  | .axisFirstSample t a => Sys2Proof.Machine.execAxisFirstSample t a s
  | .axisRunClear t m a => Sys2Proof.Machine.execAxisRunClear t m a s
  | .parkWrite t m a park => Sys2Proof.Machine.execParkWrite t m a park s
  | .migStart t m src dst => Sys2Proof.Machine.execMigStart t m src dst s
  | .migrationAbort t m => Sys2Proof.Machine.execMigrationAbort t m s
  | .migrationCutoff t => Sys2Proof.Machine.execMigrationCutoff t s
  | .migDone t => Sys2Proof.Machine.execMigDone t s
  | .profileTick t a => Sys2Proof.Machine.execProfileTick t a s
  | .queueWrite t m a v => Sys2Proof.Machine.execQueueWrite t m a v s
  | .axisStart t m a => Sys2Proof.Machine.execAxisStart t m a s
  | .axisStop t m a => Sys2Proof.Machine.execAxisStop t m a s
  | .axisResume t m a => Sys2Proof.Machine.execAxisResume t m a s
  | .axisAbandon t m a => Sys2Proof.Machine.execAxisAbandon t m a s
  | .axisFlush t m a => Sys2Proof.Machine.execAxisFlush t m a s
  | .axisSetpos t m a => Sys2Proof.Machine.execAxisSetpos t m a s
  | .axisFbpos t m a => Sys2Proof.Machine.execAxisFbpos t m a s
  | .groupEnable t m g v => Sys2Proof.Machine.execGroupEnable t m g v s
  | .groupStart t m g => Sys2Proof.Machine.execGroupStart t m g s
  | .groupStop t m g => Sys2Proof.Machine.execGroupStop t m g s
  | .groupResume t m g => Sys2Proof.Machine.execGroupResume t m g s
  | .groupAbandon t m g => Sys2Proof.Machine.execGroupAbandon t m g s
  | .groupFlush t m g => Sys2Proof.Machine.execGroupFlush t m g s
  | .startSetArm t m n => Sys2Proof.Machine.execStartSetArm t m n s
  | .startSetDisarm t m n => Sys2Proof.Machine.execStartSetDisarm t m n s
  | .startSetStrobe t m n => Sys2Proof.Machine.execStartSetStrobe t m n s
  | .startSetMtTrigger t n => Sys2Proof.Machine.execStartSetMtTrigger t n s
  | .startSetStart t n => Sys2Proof.Machine.execStart t n s
  | .chopperFastEnd t n x => Sys2Proof.Machine.execChopperFastEnd t n x s
  | .chopperOffEnd t n x => Sys2Proof.Machine.execChopperOffEnd t n x s
  | .engage t m => Sys2Proof.Machine.execEngage t m s
  | .disengage t m => Sys2Proof.Machine.execDisengage t m s
  | .disArm t m => Sys2Proof.Machine.execDisArm t m s
  | .cancel t m => Sys2Proof.Machine.execCancel t m s
  | .virtualMasterUpdate t v => Sys2Proof.Machine.execVirtualMasterUpdate t v s
  | .vmSetpos t m v => Sys2Proof.Machine.execVmSetpos t m v s
  | .ctWrite t m k v => Sys2Proof.Machine.execCtWrite t m k v s
  | .cpEdge t ix lvl stamp => Sys2Proof.Machine.execCpEdge t ix lvl stamp s
  | .syncEdge t ix lvl stamp => Sys2Proof.Machine.execSyncEdge t ix lvl stamp s
  | .latchArm t m => Sys2Proof.Machine.execLatchArm t m s
  | .latchDisarm t m => Sys2Proof.Machine.execLatchDisarm t m s
  | .latchResultComplete t => Sys2Proof.Machine.execLatchResultComplete t s
  | .latchWaitTimeout t => Sys2Proof.Machine.execLatchWaitTimeout t s
  | .resPop t m wide => Sys2Proof.Machine.execResPop t m wide s
  | .resPopWord t m ix => Sys2Proof.Machine.execResPopWord t m ix s
  | .traceEntry t k => Sys2Proof.Machine.execTraceEntry t k s
  | .segmentRearm t => Sys2Proof.Machine.execSegmentRearm t s
  | .hopperArm t m => Sys2Proof.Machine.execHopperArm t m s
  | .hopperDisarm t m => Sys2Proof.Machine.execHopperDisarm t m s
  | .hopperForce t m => Sys2Proof.Machine.execHopperForce t m s
  | .hopperClear t m => Sys2Proof.Machine.execHopperClear t m s
  | .hopperMtTrigger t => Sys2Proof.Machine.execHopperMtTrigger t s
  | .segRdWrite t m v => Sys2Proof.Machine.execSegRdWrite t m v s
  | .drainRdWrite t m v => Sys2Proof.Machine.execDrainRdWrite t m v s
  | .drainCopyDone t => Sys2Proof.Machine.execDrainCopyDone t s
  | .fieldInputChange t ix lvl arrival => Sys2Proof.Machine.execFieldInputChange t ix lvl arrival s
  | .fiEdge t ix => Sys2Proof.Machine.execFiEdge t ix s
  | .wireBreak t ix low => Sys2Proof.Machine.execWireBreak t ix low s
  | .fiSilent t ix => Sys2Proof.Machine.execFiSilent t ix s
  | .fiRefreshReturn t ix lvl => Sys2Proof.Machine.execFiRefreshReturn t ix lvl s
  | .foConfigWrite t m j v => Sys2Proof.Machine.execFoConfigWrite t m j v s
  | .foPeriodStart t j => Sys2Proof.Machine.execFoPeriodStart t j s
  | .foOnTimeEnd t j => Sys2Proof.Machine.execFoOnTimeEnd t j s
  | .foCurrentConversion t j c => Sys2Proof.Machine.execFoCurrentConversion t j c s
  | .foFault t j f set => Sys2Proof.Machine.execFoFault t j f set s
  | .foLogicSilent t j => Sys2Proof.Machine.execFoLogicSilent t j s
  | .foClear t m j v => Sys2Proof.Machine.execFoClear t m j v s
  | .fieldUndervoltage t v => Sys2Proof.Machine.execFieldUndervoltage t v s
  | .fieldUvRecovery t v => Sys2Proof.Machine.execFieldUvRecovery t v s
  | .uvClr t m => Sys2Proof.Machine.execUvClr t m s
  | .canModeWrite t m n v => Sys2Proof.Machine.execCanModeWrite t m n v s
  | .canModeChange t n => Sys2Proof.Machine.execCanModeChange t n s
  | .canTimingWrite t m n d v => Sys2Proof.Machine.execCanTimingWrite t m n d v s
  | .canRx t n f sof arb res => Sys2Proof.Machine.execCanRx t n f sof arb res s
  | .rxqPop t m n q ix wide => Sys2Proof.Machine.execRxqPop t m n q ix wide s
  | .txReq t m n v => Sys2Proof.Machine.execTxReq t m n v s
  | .txAbort t m n v => Sys2Proof.Machine.execTxAbort t m n v s
  | .canTxSelect t n => Sys2Proof.Machine.execCanTxSelect t n s
  | .canTxAttemptEnd t n res tdc => Sys2Proof.Machine.execCanTxAttemptEnd t n res tdc s
  | .boffRec t m n => Sys2Proof.Machine.execBoffRec t m n s
  | .boffRecovered t n => Sys2Proof.Machine.execBoffRecovered t n s
  | .ethFrameReceive t n bytes ok stamp buf => Sys2Proof.Machine.execEthFrameReceive t n bytes ok stamp buf s
  | .egressSelect t n => Sys2Proof.Machine.execEgressSelect t n s
  | .gclCycleStart t n => Sys2Proof.Machine.execGclCycleStart t n s
  | .gclChange t m n => Sys2Proof.Machine.execGclChange t m n s
  | .gclSwap t n => Sys2Proof.Machine.execGclSwap t n s
  | .pdelayRequest t n => Sys2Proof.Machine.execPdelayRequest t n s
  | .pdelayResponse t n x => Sys2Proof.Machine.execPdelayResponse t n x s
  | .syncReceived t n bytes stamp buf => Sys2Proof.Machine.execSyncReceived t n bytes stamp buf s
  | .syncOriginate t r => Sys2Proof.Machine.execSyncOriginate t r s
  | .domainLost t r => Sys2Proof.Machine.execDomainLost t r s
  | .ftSelect t m r => Sys2Proof.Machine.execFtSelect t m r s
  | .fdbFlush t m r => Sys2Proof.Machine.execFdbFlush t m r s
  | .linkUp t n slow => Sys2Proof.Machine.execLinkUp t n slow s
  | .linkDown t n => Sys2Proof.Machine.execLinkDown t n s
  | .redCycleInstant t => Sys2Proof.Machine.execRedCycleInstant t s
  | .redSkewExpiry t => Sys2Proof.Machine.execRedSkewExpiry t s
  | .raceOk t r => Sys2Proof.Machine.execRaceOk t r s
  | .redCtrlWrite t m v => Sys2Proof.Machine.execRedCtrlWrite t m v s
  | .drill t m => Sys2Proof.Machine.execDrill t m s
  | .safetyTick t => Sys2Proof.Machine.execSafetyTick t s
  | .cycWaitRead t => Sys2Proof.Machine.execCycWaitRead t s
  | .stoCmdWrite t m v => Sys2Proof.Machine.execStoCmdWrite t m v s
  | .stoKick t m => Sys2Proof.Machine.execStoKick t m s
  | .stoKickTimeout t => Sys2Proof.Machine.execStoKickTimeout t s
  | .stoDiscrepancy t pin => Sys2Proof.Machine.execStoDiscrepancy t pin s
  | .lockstep t pc => Sys2Proof.Machine.execLockstep t pc s
  | .bwClock t => Sys2Proof.Machine.execBwClock t s
  | .bwSupply t => Sys2Proof.Machine.execBwSupply t s
  | .safeMonitorEdge t n x => Sys2Proof.Machine.execSafeMonitorEdge t n x s
  | .xcheck t n => Sys2Proof.Machine.execXcheck t n s
  | .smFlagsClear t m k v => Sys2Proof.Machine.execSmFlagsClear t m k v s
  | .preqWrite t m ix v => Sys2Proof.Machine.execPreqWrite t m ix v s
  | .sgHoldWrite t m on => Sys2Proof.Machine.execSgHoldWrite t m on s
  | .faultReport t => Sys2Proof.Machine.execFaultReport t s
  | .recoveryWindowEnd t => Sys2Proof.Machine.execRecoveryWindowEnd t s
  | .axisDegradeTimeout t a => Sys2Proof.Machine.execAxisDegradeTimeout t a s
  | .axisStopTimeout t a => Sys2Proof.Machine.execAxisStopTimeout t a s
  | .fclr t m v => Sys2Proof.Machine.execFclr t m v s
  | .diagDue t => Sys2Proof.Machine.execDiagDue t s
  | .mirastSend t c => Sys2Proof.Machine.execMirastSend t c s
  | .mirastPairTimeout t c => Sys2Proof.Machine.execMirastPairTimeout t c s
  | .mirTimeout t c => Sys2Proof.Machine.execMirTimeout t c s
  | .mirDegraded t c => Sys2Proof.Machine.execMirDegraded t c s
  | .connCommit t m => Sys2Proof.Machine.execConnCommit t m s
  | .connOpen t m => Sys2Proof.Machine.execConnOpen t m s
  | .connClose t m => Sys2Proof.Machine.execConnClose t m s
  | .sessionOpen t m len => Sys2Proof.Machine.execSessionOpen t m len s
  | .passwordVerified t => Sys2Proof.Machine.execPasswordVerified t s
  | .lockoutEnd t => Sys2Proof.Machine.execLockoutEnd t s
  | .sessionClose t m => Sys2Proof.Machine.execSessionClose t m s
  | .sessionTimeout t => Sys2Proof.Machine.execSessionTimeout t s
  | .setPw t m len => Sys2Proof.Machine.execSetPw t m len s
  | .seal t m => Sys2Proof.Machine.execSeal t m s
  | .ptOpen t m => Sys2Proof.Machine.execPtOpen t m s
  | .ptClose t m => Sys2Proof.Machine.execPtClose t m s
  | .sqDoorbell t m r v => Sys2Proof.Machine.execSqDoorbell t m r v s
  | .descriptorFetch t d => Sys2Proof.Machine.execDescriptorFetch t d s
  | .regRead t r => Sys2Proof.Machine.execRegRead t r s
  | .regWrite t r => Sys2Proof.Machine.execRegWrite t r s
  | .copyIn t r data ok => Sys2Proof.Machine.execCopyIn t r data ok s
  | .copyOut t r n ok => Sys2Proof.Machine.execCopyOut t r n ok s
  | .txFrame t r bytes ok => Sys2Proof.Machine.execTxFrame t r bytes ok s
  | .hostNop t r => Sys2Proof.Machine.execHostNop t r s
  | .commandCompletion t r => Sys2Proof.Machine.execCommandCompletion t r s
  | .completionAck t m r v => Sys2Proof.Machine.execCompletionAck t m r v s
  | .tagAbort t m v => Sys2Proof.Machine.execTagAbort t m v s
  | .tagQuarantineEnd t ix => Sys2Proof.Machine.execTagQuarantineEnd t ix s
  | .eventRingWrite t => Sys2Proof.Machine.execEventRingWrite t s
  | .frTailWrite t m f v => Sys2Proof.Machine.execFrTailWrite t m f v s
  | .vecEoi t m v => Sys2Proof.Machine.execVecEoi t m v s
  | .pcieReset t down => Sys2Proof.Machine.execPcieReset t down s
  | .spiFrame t clocks mosi idle mode3 first => Sys2Proof.Machine.execSpiFrame t clocks mosi idle mode3 first s
  | .spiRead t a mode3 first => Sys2Proof.Machine.execSpiRead t a mode3 first s
  | .spiWrite t a v mode3 first => Sys2Proof.Machine.execSpiWrite t a v mode3 first s
  | .spiNop t mode3 first => Sys2Proof.Machine.execSpiNop t mode3 first s
  | .pwrEnRise t => Sys2Proof.Machine.execPwrEnRise t s
  | .pwrEnFall t => Sys2Proof.Machine.execPwrEnFall t s
  | .powerUpStep t x => Sys2Proof.Machine.execPowerUpStep t x s
  | .powerUpTimeout t item => Sys2Proof.Machine.execPowerUpTimeout t item s
  | .powerDownStep t => Sys2Proof.Machine.execPowerDownStep t s
  | .brownOut t supply collapse => Sys2Proof.Machine.execBrownOut t supply collapse s
  | .resetAssert t => Sys2Proof.Machine.execResetAssert t s
  | .resetRelease t => Sys2Proof.Machine.execResetRelease t s
  | .resetLong t => Sys2Proof.Machine.execResetLong t s
  | .vbakGood t => Sys2Proof.Machine.execVbakGood t s
  | .vbakLost t => Sys2Proof.Machine.execVbakLost t s
  | .settleDrop t k => Sys2Proof.Machine.execSettleDrop t k s
  | .cfsWrite t m => Sys2Proof.Machine.execCfsWrite t m s
  | .cfsRead t m => Sys2Proof.Machine.execCfsRead t m s
  | .cfsDone t => Sys2Proof.Machine.execCfsDone t s
  | .rtcSet t m v => Sys2Proof.Machine.execRtcSet t m v s
  | .xtalFail t => Sys2Proof.Machine.execXtalFail t s
  | .bsramDataRead t m => Sys2Proof.Machine.execBsramDataRead t m s
  | .bsramDataWrite t m v => Sys2Proof.Machine.execBsramDataWrite t m v s
  | .frecAck t m => Sys2Proof.Machine.execFrecAck t m s
  | .cellAbsent t => Sys2Proof.Machine.execCellAbsent t s
  | .chargerRetry t draws => Sys2Proof.Machine.execChargerRetry t draws s
  | .gaugeTest t v q => Sys2Proof.Machine.execGaugeTest t v q s
  | .bistStart t m => Sys2Proof.Machine.execBistStart t m s
  | .bistAbort t m => Sys2Proof.Machine.execBistAbort t m s
  | .bistRunEnd t x => Sys2Proof.Machine.execBistRunEnd t x s
  | .bistRepair t m ix => Sys2Proof.Machine.execBistRepair t m ix s
  | .pllRelock t p => Sys2Proof.Machine.execPllRelock t p s
  | .chopMinOnEnd t n => Sys2Proof.Machine.execChopMinOnEnd t n s
  | .chopperBlankEnd t n x => Sys2Proof.Machine.execChopperBlankEnd t n x s
  | .foSilent t j => Sys2Proof.Machine.execFoSilent t j s
  | .foRefreshReturn t j => Sys2Proof.Machine.execFoRefreshReturn t j s
  | .recessiveSequence t n res => Sys2Proof.Machine.execRecessiveSequence t n res s
  | .canRxError t n type eights => Sys2Proof.Machine.execCanRxError t n type eights s
  | .pcieLinkUp t gen width => Sys2Proof.Machine.execPcieLinkUp t gen width s
  | .spiReadDone t => Sys2Proof.Machine.execSpiReadDone t s
  | .bar2Read t a w => Sys2Proof.Machine.execBar2Read t a w s
  | .errToggle t => Sys2Proof.Machine.execErrToggle t s
  | .chargerThreshold t k => Sys2Proof.Machine.execChargerThreshold t k s

end Sys2Proof.Machine
end

