-- ==== Sys2Proof/Machine/Pins.lean ====
section
/-! DEFINITION. What the pins of the device carry, as far as the registers and the device state decide it (R84, R118,
R142, R456, R460, R514, R522): views of the state that no command changes by itself (assumption log 186). -/

namespace Sys2Proof.Machine

/-- A pin or pair that carries a clock: high-impedance, driven, or taken as an input, and the signalling (R84, R118). -/
inductive ClockPin
  | z
  | output (singleEnded : Bool)
  | input (singleEnded : Bool)
deriving DecidableEq, Repr

/-- P2 of a feedback port: the serial clock in modes 3 and 4, in the signalling that `CTRL.RXSE` gives the pair (R84). -/
def State.p2Pin (s : State) (n : Nat) : ClockPin :=
  if s.up && s.en (R.FBP.base n) && (s.fbMode n == 3 || s.fbMode n == 4) then
    .output (s.bit (R.FBP.CTRL n) 6)
  else .z

/-- `SLnn_MCLK`: an output in internal-clock mode and an input in external-clock mode, in the signalling of SD0 (R118). -/
def State.mclkPin (s : State) (n : Nat) : ClockPin :=
  if s.up && s.en (R.SDM.base n) then
    if s.sdExt n then .input (s.bit (R.SDM.IN_CFG n 0) 2) else .output (s.bit (R.SDM.IN_CFG n 0) 2)
  else .z

/-- The level of gate output i of a slot: none while it is high-impedance, otherwise its state in the polarity of
`CTRL.GPOL` (R142, R522). -/
def State.gatePin (s : State) (n i : Nat) : Option Bool :=
  if s.up then some ((s.gate n i).on != s.bit (R.PWM.CTRL n) (16 + i)) else none

/-- The level of `STO_A` and `STO_B`: none while high-impedance (R456, R522). -/
def State.stoPins (s : State) : Option (Bool × Bool) := if s.up then some (s.bw.chA, s.bw.chB) else none

/-- The level of `ERRA` and `ERRB`: none while high-impedance (R460, R522). -/
def State.errPins (s : State) : Option (Bool × Bool) :=
  if s.up then some (s.errA, s.errB) else none

/-- `CNnn_TX`: what the controller drives, recessive unless it takes part in bus traffic; none while high-impedance
(R397, R400, R413, R522). -/
def State.canPin (s : State) (n : Nat) : Option CanDrive :=
  if !s.up then none
  else if s.canRuns n && (s.canMode n == 1 || s.canMode n == 2) && s.canErr n != 2 then some (s.cn n).drive
  else some .recessive

/-- The levels of `SEQ_EN0` to `SEQ_EN2`: none in OFF, where they are high-impedance (R514, R522). -/
def State.seqPins (s : State) : Option Nat := if s.dev.st = .off then none else some s.seqEn

end Sys2Proof.Machine
end

