-- ==== Sys2Proof/WellFormed.lean ====
section
/-! DEFINITION. Well-formed commands: what the types of the operands do not say already. The meanings do not depend on it. -/

namespace Sys2Proof

/-- The instant of a command. -/
def Instr.time : Instr → Time
  | .registerWrite t _ _ _ _ _ => t
  | .stagedRegisterWrite t _ _ _ _ => t
  | .rcRead t _ _ _ _ => t
  | .pairLowRead t _ _ => t
  | .pairHighRead t _ _ => t
  | .pairLowWrite t _ _ _ => t
  | .pairHighWrite t _ _ _ => t
  | .unmappedAccess t _ _ _ _ _ => t
  | .memoryWindowWrite t _ _ _ _ _ => t
  | .softReset t _ _ => t
  | .softResetDone t _ => t
  | .freezeCapture t _ _ => t
  | .freezeRelease t _ _ => t
  | .irqClear t _ _ _ => t
  | .unlockFirstKey t _ _ => t
  | .unlockSecondKey t _ _ => t
  | .unlockTimeout t _ => t
  | .lockZeroWrite t _ _ => t
  | .lockOtherWrite t _ _ _ => t
  | .lockTimeout t _ => t
  | .lockedRegisterWrite t _ _ _ _ => t
  | .shadowHold t _ _ _ => t
  | .shadowDiscard t _ _ => t
  | .selectorWrite t _ _ _ => t
  | .commitInstant t _ => t
  | .frameReady t _ => t
  | .stagingCutoff t _ => t
  | .outWriteArrival t _ => t
  | .outEnSet t _ => t
  | .outEnClear t _ => t
  | .runEntry t => t
  | .safeAck t _ => t
  | .pllLockLost t _ _ => t
  | .refclkLost t => t
  | .incrWrite t _ _ _ => t
  | .incrApply t _ => t
  | .offsetWrite t _ _ _ => t
  | .offsetApply t _ => t
  | .slewDone t => t
  | .reseed t _ => t
  | .standaloneSet t _ => t
  | .standaloneClear t _ => t
  | .snapshotTake t _ => t
  | .snapshotPeriod t => t
  | .weirPost t _ _ _ _ => t
  | .weirDelivery t _ => t
  | .stallClear t => t
  | .weirInject t _ _ => t
  | .weirPop t _ _ _ => t
  | .weirPopWord t _ _ _ => t
  | .feedbackEdge t _ _ _ _ _ => t
  | .glitchGatheredPost t _ => t
  | .minIntExpiry t _ _ => t
  | .fbpConfigWrite t _ _ _ => t
  | .portEnable t _ _ => t
  | .fbRestore t _ _ => t
  | .fbSet t _ _ => t
  | .fbZsetArm t _ _ => t
  | .fbZsetDisarm t _ _ => t
  | .fbReload t _ _ => t
  | .limitWrite t _ _ _ _ => t
  | .serialRequest t _ _ => t
  | .serialWord t _ _ _ => t
  | .serialTimeout t _ => t
  | .sentFrame t _ _ _ _ _ _ => t
  | .sentTimeout t _ => t
  | .lineFault t _ _ => t
  | .edgeStall t _ _ => t
  | .fbpFaultClear t _ _ _ => t
  | .fbSelWrite t _ _ _ => t
  | .sinc3Window t _ _ _ _ _ _ => t
  | .sdClkLoss t _ _ => t
  | .sdManErr t _ _ _ => t
  | .sdStuck t _ _ _ => t
  | .sdmConfigWrite t _ _ _ _ => t
  | .cmpThresholdCrossing t _ _ _ _ _ => t
  | .auxConversionStart t _ => t
  | .auxConversionDone t _ _ => t
  | .auxWindowCrossing t _ _ _ => t
  | .slotEnable t _ _ => t
  | .slotStart t _ => t
  | .slotDisable t _ _ => t
  | .pwmConfigWrite t _ _ _ => t
  | .reanchorPauseEnd t _ => t
  | .compareMatch t _ => t
  | .deadTimeEnd t _ => t
  | .tripSourceChange t _ _ => t
  | .tripFilterExpiry t _ _ => t
  | .commEnable t _ _ _ => t
  | .pwmComm t _ => t
  | .pwmOverride t _ _ _ => t
  | .protectionEnable t _ _ => t
  | .degradeTimeout t _ => t
  | .stopTimeout t _ => t
  | .protectionClear t _ _ _ => t
  | .bwRequest t _ => t
  | .slotStoGate t _ => t
  | .selfTestStart t _ _ _ => t
  | .selfTestPhaseEnd t _ _ => t
  | .chopLimit t _ => t
  | .chopCoolEnd t _ => t
  | .chopStale t _ => t
  | .opAdd t _ => t
  | .opSub t _ => t
  | .opNeg t _ => t
  | .opAbs t _ => t
  | .opAnd t _ => t
  | .opOr t _ => t
  | .opXor t _ => t
  | .opNot t _ => t
  | .opMin t _ => t
  | .opMax t _ => t
  | .opMov t _ => t
  | .opCmp t _ => t
  | .opCls t _ => t
  | .opShl t _ => t
  | .opShra t _ => t
  | .opShrl t _ => t
  | .opShli t _ => t
  | .opShrai t _ => t
  | .opShrli t _ => t
  | .opAddi t _ => t
  | .opCmpi t _ => t
  | .opMovi t _ => t
  | .opMovhi t _ => t
  | .opMovl t _ => t
  | .opMovpi t _ => t
  | .opMovs t _ => t
  | .opLd t _ => t
  | .opSt t _ => t
  | .opSta t _ => t
  | .opLdd t _ => t
  | .opMpy t _ => t
  | .opMac t _ => t
  | .opMpyd t _ => t
  | .opMacd t _ => t
  | .opFtap t _ => t
  | .opClra t _ => t
  | .opMova t _ => t
  | .opAdda t _ => t
  | .opSuba t _ => t
  | .opNega t _ => t
  | .opAbsa t _ => t
  | .opAsr t _ => t
  | .opAsl t _ => t
  | .opLdah t _ => t
  | .opLdax t _ => t
  | .opAddah t _ => t
  | .opAddax t _ => t
  | .opXlo t _ => t
  | .opXhi t _ => t
  | .opXgd t _ => t
  | .opCmpa t _ => t
  | .opSatx t _ => t
  | .opSincos t _ => t
  | .opAtan2 t _ => t
  | .opRsqrt t _ => t
  | .opDiv t _ => t
  | .opDivi t _ => t
  | .primitiveResult t _ => t
  | .opBcc t _ => t
  | .opCall t _ => t
  | .opBri t _ => t
  | .opCalli t _ => t
  | .opRet t _ => t
  | .opRetn t _ => t
  | .opReti t _ => t
  | .opNop t _ => t
  | .opBkpt t _ => t
  | .opRpt t _ => t
  | .opBrpt t _ => t
  | .opBrptL t _ => t
  | .opWaitt t _ => t
  | .opIn t _ => t
  | .opOut t _ => t
  | .opTrc t _ => t
  | .systemWindowDone t _ => t
  | .vectorEntry t _ => t
  | .wdogExpire t _ => t
  | .wdogKick t _ _ _ => t
  | .mwTimerFire t _ _ => t
  | .doorbell t _ _ => t
  | .coreGo t _ _ => t
  | .coreStop t _ _ => t
  | .coreHalt t _ _ => t
  | .halted t _ => t
  | .coreResume t _ _ => t
  | .coreStep t _ _ => t
  | .breakpointHit t _ => t
  | .watchpointHit t _ => t
  | .dbgDataRead t _ _ => t
  | .dbgDataWrite t _ _ _ => t
  | .axisRunSet t _ _ => t
  | .axisFirstSample t _ => t
  | .axisRunClear t _ _ => t
  | .parkWrite t _ _ _ => t
  | .migStart t _ _ _ => t
  | .migrationAbort t _ => t
  | .migrationCutoff t => t
  | .migDone t => t
  | .profileTick t _ => t
  | .queueWrite t _ _ _ => t
  | .axisStart t _ _ => t
  | .axisStop t _ _ => t
  | .axisResume t _ _ => t
  | .axisAbandon t _ _ => t
  | .axisFlush t _ _ => t
  | .axisSetpos t _ _ => t
  | .axisFbpos t _ _ => t
  | .groupEnable t _ _ _ => t
  | .groupStart t _ _ => t
  | .groupStop t _ _ => t
  | .groupResume t _ _ => t
  | .groupAbandon t _ _ => t
  | .groupFlush t _ _ => t
  | .startSetArm t _ _ => t
  | .startSetDisarm t _ _ => t
  | .startSetStrobe t _ _ => t
  | .startSetMtTrigger t _ => t
  | .startSetStart t _ => t
  | .chopperFastEnd t _ _ => t
  | .chopperOffEnd t _ _ => t
  | .engage t _ => t
  | .disengage t _ => t
  | .disArm t _ => t
  | .cancel t _ => t
  | .virtualMasterUpdate t _ => t
  | .vmSetpos t _ _ => t
  | .ctWrite t _ _ _ => t
  | .cpEdge t _ _ _ => t
  | .syncEdge t _ _ _ => t
  | .latchArm t _ => t
  | .latchDisarm t _ => t
  | .latchResultComplete t => t
  | .latchWaitTimeout t => t
  | .resPop t _ _ => t
  | .resPopWord t _ _ => t
  | .traceEntry t _ => t
  | .segmentRearm t => t
  | .hopperArm t _ => t
  | .hopperDisarm t _ => t
  | .hopperForce t _ => t
  | .hopperClear t _ => t
  | .hopperMtTrigger t => t
  | .segRdWrite t _ _ => t
  | .drainRdWrite t _ _ => t
  | .drainCopyDone t => t
  | .fieldInputChange t _ _ _ => t
  | .fiEdge t _ => t
  | .wireBreak t _ _ => t
  | .fiSilent t _ => t
  | .fiRefreshReturn t _ _ => t
  | .foConfigWrite t _ _ _ => t
  | .foPeriodStart t _ => t
  | .foOnTimeEnd t _ => t
  | .foCurrentConversion t _ _ => t
  | .foFault t _ _ _ => t
  | .foLogicSilent t _ => t
  | .foClear t _ _ _ => t
  | .fieldUndervoltage t _ => t
  | .fieldUvRecovery t _ => t
  | .uvClr t _ => t
  | .canModeWrite t _ _ _ => t
  | .canModeChange t _ => t
  | .canTimingWrite t _ _ _ _ => t
  | .canRx t _ _ _ _ _ => t
  | .rxqPop t _ _ _ _ _ => t
  | .txReq t _ _ _ => t
  | .txAbort t _ _ _ => t
  | .canTxSelect t _ => t
  | .canTxAttemptEnd t _ _ _ => t
  | .boffRec t _ _ => t
  | .boffRecovered t _ => t
  | .ethFrameReceive t _ _ _ _ _ => t
  | .egressSelect t _ => t
  | .gclCycleStart t _ => t
  | .gclChange t _ _ => t
  | .gclSwap t _ => t
  | .pdelayRequest t _ => t
  | .pdelayResponse t _ _ => t
  | .syncReceived t _ _ _ _ => t
  | .syncOriginate t _ => t
  | .domainLost t _ => t
  | .ftSelect t _ _ => t
  | .fdbFlush t _ _ => t
  | .linkUp t _ _ => t
  | .linkDown t _ => t
  | .redCycleInstant t => t
  | .redSkewExpiry t => t
  | .raceOk t _ => t
  | .redCtrlWrite t _ _ => t
  | .drill t _ => t
  | .safetyTick t => t
  | .cycWaitRead t => t
  | .stoCmdWrite t _ _ => t
  | .stoKick t _ => t
  | .stoKickTimeout t => t
  | .stoDiscrepancy t _ => t
  | .lockstep t _ => t
  | .bwClock t => t
  | .bwSupply t => t
  | .safeMonitorEdge t _ _ => t
  | .xcheck t _ => t
  | .smFlagsClear t _ _ _ => t
  | .preqWrite t _ _ _ => t
  | .sgHoldWrite t _ _ => t
  | .faultReport t => t
  | .recoveryWindowEnd t => t
  | .axisDegradeTimeout t _ => t
  | .axisStopTimeout t _ => t
  | .fclr t _ _ => t
  | .diagDue t => t
  | .mirastSend t _ => t
  | .mirastPairTimeout t _ => t
  | .mirTimeout t _ => t
  | .mirDegraded t _ => t
  | .connCommit t _ => t
  | .connOpen t _ => t
  | .connClose t _ => t
  | .sessionOpen t _ _ => t
  | .passwordVerified t => t
  | .lockoutEnd t => t
  | .sessionClose t _ => t
  | .sessionTimeout t => t
  | .setPw t _ _ => t
  | .seal t _ => t
  | .ptOpen t _ => t
  | .ptClose t _ => t
  | .sqDoorbell t _ _ _ => t
  | .descriptorFetch t _ => t
  | .regRead t _ => t
  | .regWrite t _ => t
  | .copyIn t _ _ _ => t
  | .copyOut t _ _ _ => t
  | .txFrame t _ _ _ => t
  | .hostNop t _ => t
  | .commandCompletion t _ => t
  | .completionAck t _ _ _ => t
  | .tagAbort t _ _ => t
  | .tagQuarantineEnd t _ => t
  | .eventRingWrite t => t
  | .frTailWrite t _ _ _ => t
  | .vecEoi t _ _ => t
  | .pcieReset t _ => t
  | .spiFrame t _ _ _ _ _ => t
  | .spiRead t _ _ _ => t
  | .spiWrite t _ _ _ _ => t
  | .spiNop t _ _ => t
  | .pwrEnRise t => t
  | .pwrEnFall t => t
  | .powerUpStep t _ => t
  | .powerUpTimeout t _ => t
  | .powerDownStep t => t
  | .brownOut t _ _ => t
  | .resetAssert t => t
  | .resetRelease t => t
  | .resetLong t => t
  | .vbakGood t => t
  | .vbakLost t => t
  | .settleDrop t _ => t
  | .cfsWrite t _ => t
  | .cfsRead t _ => t
  | .cfsDone t => t
  | .rtcSet t _ _ => t
  | .xtalFail t => t
  | .bsramDataRead t _ => t
  | .bsramDataWrite t _ _ => t
  | .frecAck t _ => t
  | .cellAbsent t => t
  | .chargerRetry t _ => t
  | .gaugeTest t _ _ => t
  | .bistStart t _ => t
  | .bistAbort t _ => t
  | .bistRunEnd t _ => t
  | .bistRepair t _ _ => t
  | .pllRelock t _ => t
  | .chopMinOnEnd t _ => t
  | .chopperBlankEnd t _ _ => t
  | .foSilent t _ => t
  | .foRefreshReturn t _ => t
  | .recessiveSequence t _ _ => t
  | .canRxError t _ _ _ => t
  | .pcieLinkUp t _ _ => t
  | .spiReadDone t => t
  | .bar2Read t _ _ => t
  | .errToggle t => t
  | .chargerThreshold t _ => t

/-- The instant lies in the range of the GTC (R53). -/
def timeOk (i : Instr) : Bool := decide (i.time < 2 ^ 64)
/-- The nibbles of a SENT message are four bits each (R107). -/
def nibblesOk : Instr → Bool
  | .sentFrame _ _ _ _ _ data _ => data.all (fun d => decide (d < 16))
  | _ => true
/-- A CAN frame carries at most 64 data bytes (R405). -/
def canOk : Instr → Bool
  | .canRx _ _ f _ _ _ => decide (f.data.length ≤ 64)
  | _ => true
/-- A portion of a copy is not longer than LEN can say (R495). -/
def copyOk : Instr → Bool
  | .copyIn _ _ data _ => decide (4 * data.length < 2 ^ 24)
  | .txFrame _ _ bytes _ => decide (bytes.length < 2 ^ 24)
  | _ => true
/-- A command is well formed. -/
def WellFormed (i : Instr) : Bool := timeOk i && nibblesOk i && canOk i && copyOk i

end Sys2Proof
end

