-- ==== Sys2Proof/Safety.lean ====
section
/-! DEFINITION. What counts as a safe run, in the terms that the statements use. -/

namespace Sys2Proof.Machine

/-- The sparse tables of the state are in their canonical form: keys strictly rising, and no entry equal to what an
unlisted key reads as (registers: the reset value of R52; memory: assumption log 5). -/
structure State.Canonical (s : State) : Prop where
  mem : Memory.wf s.mem = true
  regs : twf resetWord s.regs = true
  pages : twf (fun _ => ({} : PageSt)) s.pages = true
  sels : twf (fun _ => ({} : Selectors)) s.sels = true

/-- A write reaches the page and nothing else comes first: the pages are accessible (R31), no soft reset runs on it
(R38), and no unlock sequence is open on it that the write would abort (R41). -/
structure State.Writable (s : State) (pg : Nat) : Prop where
  up : s.up = true
  idle : s.busy pg = false
  shut : (s.page pg).keySeq = none

/-- The address of a word of a register page that exists (R32, R33). -/
structure IsReg (a : Nat) : Prop where
  low : a < 0x2000000
  there : mapped a 4 = true

/-- The words of the instruction at the PC of core `c` when its next issue begins, none where the fetch faults (R224, R226). -/
def State.wordsAt (s : State) (c : Nat) : Option (Word × Word) :=
  match (s.beginIssue c).fetch c ((s.beginIssue c).cr c).pc with
  | .ok x => some (x.1, x.2.1)
  | .error _ => none
/-- The state in which the instruction at the PC of core `c` acts: due results stand, and a corrected fetch has been
counted (R198, R215). -/
def State.atIssue (s : State) (c : Nat) : State :=
  match (s.beginIssue c).fetch c ((s.beginIssue c).cr c).pc with
  | .ok x => x.2.2
  | .error _ => s
/-- Core `c` issues the instruction `o` of the words `w0` and `w1` that stand at its PC: it runs and no halt, breakpoint or
vector comes first, no injected fault meets it, and it is legal on the core, in a proof-test session for `BKPT` on the pair,
and where it stands (R199, R206, R222, R254, R255);
`done` says that the system-window access on which it stalled has completed (R193). -/
structure State.Issues (s : State) (c : Nat) (o : Op) (w0 w1 : Word) (done : Bool) : Prop where
  ready : (s.landDue c).canIssue c done = true
  words : s.wordsAt c = some (w0, w1)
  op : opOf w0 = some o
  plain : done = false → (s.atIssue c).bit (R.PG_ERRINJ (corePage c)) 16 = false
  legal : Machine.legal c o w0 w1 = true
  proof : c = 32 → o = .bkpt → (s.atIssue c).sess.proof = true
  placed : (s.atIssue c).misplaced c o = false

end Sys2Proof.Machine

namespace Sys2Proof

open Sys2Proof.Machine

/-- A step completes: it ends in a next state, with no fault and no refusal. -/
def Completes (s : State) : Prop := ∃ t, step s = .next t

end Sys2Proof
end

