-- ==== Sys2Proof/Certificates/Slice0/Obligations.lean ====
section
/-! DEFINITION. The statements for the provers. -/

open Sys2Proof Sys2Proof.Machine

/-- A step takes the command at the front of the queue and is its effect on the state with the queue's rest. On an empty queue
the block idles: the second clause is the model's choice (assumption log 129). -/
def Obligations.stepRunsFrontCommand : Prop :=
  -- the command at the front runs
  (∀ (c : Instr) (rest : List Instr) (s : State), step { s with pending := c :: rest } = exec c { s with pending := rest }) ∧
  -- an empty queue leaves the block as it is
  (∀ (s : State), s.pending = [] → step s = .next s)

/-- Every step ends in a next state: no command of the table faults or is refused. -/
def Obligations.everyStepCompletes : Prop :=
  -- from every state
  (∀ (s : State), Completes s)

/-- The queue is first in, first out: a step takes exactly the command at the front, and no command puts one in. -/
def Obligations.queueFirstInFirstOut : Prop :=
  -- every step
  (∀ (s r : State), step s = .next r → r.pending = s.pending.tail)

/-- Every step keeps the tables of the state in their canonical form: registers, pages, selectors and memory. -/
def Obligations.stepKeepsCanonicalForm : Prop :=
  -- every step from a canonical state
  (∀ (s r : State), s.Canonical → step s = .next r → r.Canonical)

/-- The state after release from STANDBY is canonical and its queue is empty. -/
def Obligations.resetIsCanonical : Prop :=
  State.reset.Canonical ∧ State.reset.pending = []

/-- At release every register word has its reset value (R52), shown for the header and for registers of several pages by the
values that the spec writes out: identity (R37), EN of the fixed pages (R37), `SYS.DEV_STATE` (R31), and the two queues that
are always enabled (R82). -/
def Obligations.resetRegisterValues : Prop :=
  (∀ (a : Nat), State.reset.rg a = resetWord a) ∧
  State.reset.rg 0x607000 = 0x06070201 ∧ State.reset.rg 0xB3F000 = 0x0B3F0201 ∧
  State.reset.rg (R.PG_CTRL R.SYS.base) = 1 ∧ State.reset.rg (R.PG_CTRL (R.PWM.base 7)) = 0 ∧
  State.reset.rg R.SYS.DEV_STATE &&& 0xFFFF = 0x0023 ∧ State.reset.dev.st = .ready ∧
  State.reset.rg (R.WEIR.Q_CTRL 5) = 0x10001 ∧ State.reset.rg (R.WEIR.Q_CTRL 7) = 0x10001 ∧
  State.reset.bit R.SYS.RUN_CTRL 0 = false

/-- Words written out from the encodings of the instruction set are the instructions they stand for (R224, R227, R228). -/
def Obligations.stoneWordsDecode : Prop :=
  (opOf 0x04C84000 = some .add ∧ wfld 0x04C84000 25 22 = 3 ∧ wfld 0x04C84000 21 18 = 2 ∧ wfld 0x04C84000 17 14 = 1) ∧
  opOf 0x40841000 = some .ld ∧ opOf 0x49008000 = some .sta ∧ opOf 0x8136B488 = some .mpyd ∧ opOf 0x84940000 = some .ftap ∧
  opOf 0xD0000003 = some .rpt ∧ opOf 0xD400FC04 = some .brpt ∧ opOf 0x6C500000 = some .waitt ∧ opOf 0xC8000000 = some .nop

/-- A register holds what was written to it, field by field, and its neighbours hold what they held (R5, R8). -/
def Obligations.registersHold : Prop :=
  -- a word: the register reads as written, the others as before, and nothing but the register table changes
  (∀ (s : State) (a b : Nat) (w : Word), s.Canonical →
    (s.setRg a w).rg a = w ∧ (b ≠ a → (s.setRg a w).rg b = s.rg b) ∧ s.setRg a w = { s with regs := (s.setRg a w).regs }) ∧
  -- a field: its bits read as written and the other bits as before
  (∀ (s : State) (a hi lo v i : Nat), s.Canonical → lo ≤ hi → hi < 32 →
    (s.putFld a hi lo v).bit a i = (if lo ≤ i ∧ i ≤ hi then v.testBit (i - lo) else s.bit a i)) ∧
  -- two words: a 64-bit register, low word at the lower offset
  (∀ (s : State) (a v b : Nat), s.Canonical → v < 2 ^ 64 →
    (s.setRg64 a v).rg64 a = v ∧ (b ≠ a → b ≠ a + 4 → (s.setRg64 a v).rg b = s.rg b)) ∧
  -- a saturating count stops at the field's last value
  (∀ (s : State) (a hi lo n : Nat), s.Canonical → lo ≤ hi → hi < 32 →
    (s.count a hi lo n).fld a hi lo = min (2 ^ (hi + 1 - lo) - 1) (s.fld a hi lo + n))

/-- Memory holds what was stored: words are little-endian (R5), and a store changes its own bytes alone. -/
def Obligations.memoryHolds : Prop :=
  -- a stored word reads back, and every byte outside it as before
  (∀ (s : State) (a x : Nat) (w : Word), s.Canonical →
    (s.stw a w).ldw a = w ∧ (x < a ∨ a + 4 ≤ x → Memory.read (s.stw a w).mem x = Memory.read s.mem x) ∧
    (s.stw a w) = { s with mem := (s.stw a w).mem }) ∧
  -- the low byte lies at the lower address
  (∀ (s : State) (a i : Nat) (w : Word), s.Canonical → i < 4 →
    Memory.read (s.stw a w).mem (a + i) = BitVec.ofNat 8 (w.toNat / 256 ^ i))

/-- A write of a plain register changes its own bits alone: RW bits take the value, a 1 clears a W1C bit, RO and reserved bits
keep theirs; every other register, all of memory and every other part of the state stay as they were (R7, R8). -/
def Obligations.plainWriteFrame : Prop :=
  -- a 32-bit register of no staged and no locked field, and no effect of its own
  (∀ (s u r' : State) (t : Time) (m : Master) (a : BitVec 26) (be : BitVec 8) (v : DWord) (r : RegRow) (i : Nat), s.tick t = u →
    u.Canonical → u.Writable (pageOf a.toNat) → IsReg a.toNat → 0x40 ≤ offOf a.toNat → be.toNat % 16 = 15 →
    findReg (bankOf (u.selOf m) a.toNat) = some (r, false) → r.wide = false → r.rws = 0 → r.rwl = 0 → r.clamp = [] →
    u.pageHook m a.toNat (v.toNat % 2 ^ 32) = none → i < 32 → exec (.registerWrite t m a .b32 be v) s = .next r' →
    r' = { u with regs := r'.regs } ∧
    (∀ b, b ≠ bankOf (u.selOf m) a.toNat → r'.rg b = u.rg b) ∧
    r'.bit (bankOf (u.selOf m) a.toNat) i =
      (if r.w1c.testBit i && v.toNat.testBit i then false
       else if r.rw.testBit i then v.toNat.testBit i else u.bit (bankOf (u.selOf m) a.toNat) i))

/-- The widths of an access to a register page (R33, R35, R50): a partial write is discarded and recorded as PARTIAL, a misaligned
access is recorded as UNMAPPED, and a 64-bit write is one write of a 64-bit register or two of its words, the low one first. -/
def Obligations.accessWidths : Prop :=
  -- fewer than 32 bits, or partial byte enables: discarded, PARTIAL (R35)
  (∀ (s u : State) (t : Time) (m : Master) (a : BitVec 26) (w : Width) (be : BitVec 8) (v : DWord), s.tick t = u → u.up = true →
    mapped a.toNat w.bytes = true → a.toNat < 0x2000000 → (w.bytes < 4 ∨ be.toNat % 2 ^ w.bytes ≠ 2 ^ w.bytes - 1) →
    exec (.registerWrite t m a w be v) s = .next (u.mapErr m a.toNat 1)) ∧
  -- misaligned: no effect but UNMAPPED, a read returns 0 (R33)
  (∀ (s u : State) (t : Time) (m : Master) (a : BitVec 26) (w : Width) (be : BitVec 8) (v : DWord), s.tick t = u → u.up = true →
    a.toNat % w.bytes ≠ 0 →
    exec (.registerWrite t m a w be v) s = .next (u.mapErr m a.toNat 0) ∧
    exec (.rcRead t m a w be) s = .next { u.mapErr m a.toNat 0 with rd := 0 }) ∧
  -- a 64-bit register in one access: one write, and the holding register stays out of it (R50)
  (∀ (s u : State) (t : Time) (m : Master) (a : BitVec 26) (be : BitVec 8) (v : DWord) (r : RegRow), s.tick t = u →
    u.Writable (pageOf a.toNat) → mapped a.toNat 8 = true → a.toNat < 0x2000000 → be.toNat = 255 →
    findReg (bankOf (u.selOf m) a.toNat) = some (r, false) → r.wide = true →
    exec (.registerWrite t m a .b64 be v) s = .next (u.writeFull m a.toNat v.toNat)) ∧
  -- two words that are not one register: the low one, then the high one (R50)
  (∀ (s u : State) (t : Time) (m : Master) (a : BitVec 26) (be : BitVec 8) (v : DWord) (r : RegRow), s.tick t = u →
    u.up = true → mapped a.toNat 8 = true → a.toNat < 0x2000000 → be.toNat = 255 →
    findReg (bankOf (u.selOf m) a.toNat) = some (r, false) → r.wide = false →
    exec (.registerWrite t m a .b64 be v) s =
      .next ((u.writeWord m a.toNat (v.toNat % 2 ^ 32) false).writeWord m (a.toNat + 4) (v.toNat / 2 ^ 32) false))

/-- While the device is in no state that shows its pages, a write has no effect and a read returns 0 (R31, with assumption
log 118: the spec says that the page is not accessible), and its outputs are high-impedance (R522, with assumption log 186); while
it is in one, an enable, a mode and a polarity decide what a pin carries (R84, R118, R142). -/
def Obligations.pagesClosed : Prop :=
  -- writes and reads of every kind of access
  (∀ (s u : State) (t : Time) (m : Master) (a : BitVec 26) (w : Width) (be : BitVec 8) (v : DWord), s.tick t = u → u.up = false →
    exec (.registerWrite t m a w be v) s = .next u ∧ exec (.rcRead t m a w be) s = .next { u with rd := 0 } ∧
    exec (.irqClear t m a (v.truncate 32)) s = .next u ∧ exec (.unlockFirstKey t m a) s = .next u ∧
    exec (.shadowHold t m a true) s = .next u) ∧
  -- the outputs (R522)
  (∀ (s : State) (n i : Nat), s.up = false →
    s.p2Pin n = .z ∧ s.mclkPin n = .z ∧ s.gatePin n i = none ∧ s.stoPins = none ∧ s.errPins = none) ∧
  -- P2 of a feedback port (R84), MCLK of a slot (R118) and a gate output (R142) of an accessible device
  (∀ (s : State) (n i : Nat), s.up = true →
    (s.en (R.FBP.base n) = false → s.p2Pin n = .z) ∧ (s.fbMode n ≠ 3 → s.fbMode n ≠ 4 → s.p2Pin n = .z) ∧
    (s.en (R.FBP.base n) = true → (s.fbMode n = 3 ∨ s.fbMode n = 4) → s.p2Pin n = .output (s.bit (R.FBP.CTRL n) 6)) ∧
    (s.en (R.SDM.base n) = false → s.mclkPin n = .z) ∧
    (s.en (R.SDM.base n) = true → s.sdExt n = false → s.mclkPin n = .output (s.bit (R.SDM.IN_CFG n 0) 2)) ∧
    (s.en (R.SDM.base n) = true → s.sdExt n = true → s.mclkPin n = .input (s.bit (R.SDM.IN_CFG n 0) 2)) ∧
    (s.bit (R.PWM.CTRL n) (16 + i) = false → s.gatePin n i = some (s.gate n i).on) ∧
    (s.bit (R.PWM.CTRL n) (16 + i) = true → s.gatePin n i = some !(s.gate n i).on))

/-- The read-holding register of a page (R48): the low word captures the high word for its reader, the high word returns it to
that reader, and to any other reader, or after the low word of another register, the live word with PAIR_ERR. -/
def Obligations.pairReads : Prop :=
  -- low word, then high word by the same master
  (∀ (s u : State) (t : Time) (m : Master) (a : BitVec 26) (r : RegRow), s.tick t = u → u.Canonical → u.up = true →
    IsReg a.toNat → a.toNat % 4 = 0 → 0x40 ≤ offOf a.toNat → u.readEffect m a.toNat = none →
    findReg (bankOf (u.selOf m) a.toNat) = some (r, false) → r.wide = true →
    ∃ h, exec (.pairLowRead t m a) s = .next h ∧ h.rd = BitVec.ofNat 64 (u.view m a.toNat).toNat ∧
      (h.page (pageOf a.toNat)).rdHold = some (m, offOf a.toNat, u.view m (a.toNat + 4))) ∧
  -- the high word by a master that does not hold it: the live word, and PAIR_ERR
  (∀ (s u : State) (t : Time) (m h : Master) (a : BitVec 26) (r : RegRow) (lo : Nat) (w : Word), s.tick t = u → u.up = true →
    IsReg a.toNat → a.toNat % 4 = 0 → 0x40 ≤ offOf a.toNat → u.readEffect m a.toNat = none →
    findReg (bankOf (u.selOf m) a.toNat) = some (r, true) → r.wide = true →
    (u.page (pageOf a.toNat)).rdHold = some (h, lo, w) → (h ≠ m ∨ lo + 4 ≠ offOf a.toNat) →
    exec (.pairHighRead t m a) s =
      .next { u.pairErr (pageOf a.toNat) with rd := BitVec.ofNat 64 (u.view m a.toNat).toNat })

/-- The write-holding register of a page (R49), with or without an unlock sequence that the write aborts (R41). -/
def Obligations.pairWrites : Prop :=
  -- a low word is held; it replaces what any master held
  (∀ (s u : State) (t : Time) (m : Master) (a : BitVec 26) (v : Word) (r : RegRow), s.tick t = u → u.up = true →
    u.busy (pageOf a.toNat) = false → IsReg a.toNat → 0x40 ≤ offOf a.toNat →
    findReg (bankOf (u.selOf m) a.toNat) = some (r, false) → r.wide = true →
    exec (.pairLowWrite t m a v) s = .next ((u.abortSeq (pageOf a.toNat)).setPage (pageOf a.toNat)
      (fun p => { p with wrHold := some (m, offOf a.toNat, v) }))) ∧
  -- the high word by the same master completes the write of both words together
  (∀ (s u : State) (t : Time) (m : Master) (a : BitVec 26) (v w : Word) (r : RegRow) (lo : Nat), s.tick t = u → u.Canonical →
    u.up = true → u.busy (pageOf a.toNat) = false → IsReg a.toNat → 0x40 ≤ offOf a.toNat →
    findReg (bankOf (u.selOf m) a.toNat) = some (r, true) → r.wide = true →
    (u.page (pageOf a.toNat)).wrHold = some (m, lo, w) → lo + 4 = offOf a.toNat →
    exec (.pairHighWrite t m a v) s = .next (((u.abortSeq (pageOf a.toNat)).setPage (pageOf a.toNat)
      (fun p => { p with wrHold := none })).writeFull m (a.toNat - 4) (w.toNat + v.toNat * 2 ^ 32))) ∧
  -- by another master, or after the low word of another register, or after none: discarded, and PAIR_ERR
  (∀ (s u : State) (t : Time) (m : Master) (a : BitVec 26) (v : Word) (r : RegRow), s.tick t = u → u.Canonical → u.up = true →
    u.busy (pageOf a.toNat) = false → IsReg a.toNat → 0x40 ≤ offOf a.toNat →
    findReg (bankOf (u.selOf m) a.toNat) = some (r, true) → r.wide = true →
    (∀ h lo w, (u.page (pageOf a.toNat)).wrHold = some (h, lo, w) → h ≠ m ∨ lo + 4 ≠ offOf a.toNat) →
    exec (.pairHighWrite t m a v) s = .next ((u.abortSeq (pageOf a.toNat)).pairErr (pageOf a.toNat)))

/-- A read of a register with RC fields, no capture held, returns the live word and clears exactly its RC bits in the same step
(R51). -/
def Obligations.readToClear : Prop :=
  -- the word returned, the bits left, the other registers and memory
  (∀ (s u r' : State) (t : Time) (m : Master) (a : BitVec 26) (r : RegRow) (i : Nat), s.tick t = u → u.Canonical → u.up = true →
    IsReg a.toNat → a.toNat % 4 = 0 → 0x40 ≤ offOf a.toNat → u.readEffect m a.toNat = none → u.frozen (pageOf a.toNat) = false →
    findReg (bankOf (u.selOf m) a.toNat) = some (r, false) → r.wide = false → i < 32 →
    exec (.rcRead t m a .b32 15) s = .next r' →
    r'.rd = BitVec.ofNat 64 (u.view m a.toNat).toNat ∧ r'.mem = u.mem ∧
    (∀ b, b ≠ bankOf (u.selOf m) a.toNat → r'.rg b = u.rg b) ∧
    r'.bit (bankOf (u.selOf m) a.toNat) i = (u.bit (bankOf (u.selOf m) a.toNat) i &&
      !(readMask (bankOf (u.selOf m) a.toNat) r).testBit i))

/-- A write to `PG_LOCK` that is neither a first key nor the second key that completes the writer's own open sequence (R569): the
owner's 0 locks the page, a 0 while the page is locked and no sequence is open does nothing, and any other counts in FAILS once
and leaves the lock as it is, an open sequence aborted. -/
def Obligations.lockWrites : Prop :=
  -- 0 by the lock owner while the page is unlocked locks it; an open sequence is aborted and counted
  (∀ (s u : State) (t : Time) (m : Master) (a : BitVec 26) (pg : Nat), s.tick t = u → pageOf a.toNat = pg → u.up = true →
    u.busy pg = false → IsReg (R.PG_LOCK pg) → (∀ h t0, (u.page pg).keySeq = some (h, t0) → u.now ≤ t0 + us 1) →
    u.owns pg m = true → exec (.lockZeroWrite t m a) s = .next ((u.abortSeq pg).putFld (R.PG_LOCK pg) 3 0 0)) ∧
  -- 0 while the page is locked and no sequence is open
  (∀ (s u : State) (t : Time) (m : Master) (a : BitVec 26) (pg : Nat), s.tick t = u → pageOf a.toNat = pg → u.up = true →
    u.busy pg = false → IsReg (R.PG_LOCK pg) → (u.page pg).keySeq = none → u.bit (R.PG_LOCK pg) 0 = false →
    exec (.lockZeroWrite t m a) s = .next u) ∧
  -- 0 by another master while the page is unlocked, no sequence open: counted
  (∀ (s u : State) (t : Time) (m : Master) (a : BitVec 26) (pg : Nat), s.tick t = u → pageOf a.toNat = pg → u.up = true →
    u.busy pg = false → IsReg (R.PG_LOCK pg) → (u.page pg).keySeq = none → u.bit (R.PG_LOCK pg) 0 = true → u.owns pg m = false →
    exec (.lockZeroWrite t m a) s = .next (u.failInc pg)) ∧
  -- 0 by a master that is not the owner of an unlocked page, a sequence open: aborted and counted once
  (∀ (s u : State) (t t0 : Time) (m h : Master) (a : BitVec 26) (pg : Nat), s.tick t = u → pageOf a.toNat = pg → u.up = true →
    u.busy pg = false → IsReg (R.PG_LOCK pg) → (u.page pg).keySeq = some (h, t0) → u.now ≤ t0 + us 1 → u.owns pg m = false →
    exec (.lockZeroWrite t m a) s = .next ((u.setPage pg (fun p => { p with keySeq := none })).failInc pg)) ∧
  -- any other value with no sequence open: counted
  (∀ (s u : State) (t : Time) (m : Master) (a : BitVec 26) (v : Word) (pg : Nat), s.tick t = u → pageOf a.toNat = pg →
    u.up = true → u.busy pg = false → IsReg (R.PG_LOCK pg) → v ≠ 0 → v ≠ 0xC41A → (u.page pg).keySeq = none →
    exec (.lockOtherWrite t m a v) s = .next (u.failInc pg)) ∧
  -- any other value with a sequence open, but the second key of the sequence's own master: aborted and counted once
  (∀ (s u : State) (t t0 : Time) (m h : Master) (a : BitVec 26) (v : Word) (pg : Nat), s.tick t = u → pageOf a.toNat = pg →
    u.up = true → u.busy pg = false → IsReg (R.PG_LOCK pg) → v ≠ 0 → v ≠ 0xC41A →
    (u.page pg).keySeq = some (h, t0) → u.now ≤ t0 + us 1 → (v ≠ 0xA14C ∨ h ≠ m) →
    exec (.lockOtherWrite t m a v) s = .next ((u.setPage pg (fun p => { p with keySeq := none })).failInc pg)) ∧
  -- what counting does: FAILS up by one to at most 0xFF, the lock's own fields and every other register as before
  (∀ (s : State) (pg b : Nat), s.Canonical →
    (s.failInc pg).fld (R.PG_LOCK pg) 15 8 = min 0xFF (s.fld (R.PG_LOCK pg) 15 8 + 1) ∧
    (s.failInc pg).fld (R.PG_LOCK pg) 3 0 = s.fld (R.PG_LOCK pg) 3 0 ∧
    (b ≠ R.PG_LOCK pg → (s.failInc pg).rg b = s.rg b))

/-- A record that finds its queue full (R80): it is not queued there, the queue's `Q_DROP` counts, no other queue and no other
queue's count changes, and for Q7 the Brakewheel is told. -/
def Obligations.fullQueueDrops : Prop :=
  -- a queue with room, but Q5 and Q6, whose units take their records at once, takes the record at its end; no other changes
  (∀ (s : State) (q j : Nat) (e : EvRec), q < 8 → j < 8 → q ≠ 5 → q ≠ 6 → (vget s.weir.queues q).length < 512 →
    vget (s.enqueue q e).weir.queues j = (if j = q then vget s.weir.queues q ++ [e] else vget s.weir.queues j)) ∧
  -- a full queue
  (∀ (s : State) (q j : Nat) (e : EvRec), s.Canonical → q < 8 → j < 8 → 512 ≤ (vget s.weir.queues q).length →
    (s.enqueue q e).weir = s.weir ∧
    (s.enqueue q e).fld (R.WEIR.Q_DROP j) 15 0 =
      (if j = q then min 0xFFFF (s.fld (R.WEIR.Q_DROP q) 15 0 + 1) else s.fld (R.WEIR.Q_DROP j) 15 0) ∧
    (s.enqueue q e).bw.inbox = (if q = 7 then s.bw.inbox ++ [⟨0x0A, 0, 0, true, 0, true, false⟩] else s.bw.inbox))

/-- Circular pointers (R195) and reverse-carry sums (R196): for a new pointer value of 20 bits (R194), P0 to P3 with a length stay
inside their buffer, with no length the pointer is linear, and the sum carries from bit 19 towards bit 0. -/
def Obligations.pointersWrap : Prop :=
  -- P0 to P3 with a length
  (∀ (k : CoreSt) (n q : Nat), n < 4 → q < 2 ^ 20 → vget k.l n ≠ 0 →
    (k.circ n q : Int) =
      (((vget k.b n : Nat) : Int) + ((q : Int) - ((vget k.b n : Nat) : Int)) % ((vget k.l n : Nat) : Int)) % 2 ^ 20) ∧
  -- no length, or a pointer without one
  (∀ (k : CoreSt) (n q : Nat), q < 2 ^ 20 → (4 ≤ n ∨ vget k.l n = 0) → k.circ n q = q) ∧
  -- the reverse-carry sum: the sum of the two words with their bits turned round, turned round again
  (∀ (p m i : Nat), p < 2 ^ 20 → m < 2 ^ 20 → i < 20 →
    (revAdd p m).testBit (19 - i) = ((rev20 p + rev20 m) % 2 ^ 20).testBit i ∧ (rev20 p).testBit i = p.testBit (19 - i))

/-- The product of a multiply (R200): a 64-bit signed product, doubled with `CFG.FM` = 1, in 80 bits as it stands; the fractional
product of −1 and −1 is +1.0. -/
def Obligations.products : Prop :=
  -- integer and fractional products
  (∀ (k : CoreSt) (x y : Word),
    (wbit k.cfg 2 = false → k.prod x y false = x.toInt * y.toInt) ∧
    (wbit k.cfg 2 = true → k.prod x y false = 2 * (x.toInt * y.toInt)) ∧
    (BitVec.ofInt 80 (k.prod x y false)).toInt = k.prod x y false ∧ (BitVec.ofInt 64 (x.toInt * y.toInt)).toInt = x.toInt * y.toInt) ∧
  -- −1 times −1 in fractional mode
  (∀ (k : CoreSt), wbit k.cfg 2 = true → BitVec.ofInt 80 (k.prod 0x80000000 0x80000000 false) = 0x00008000000000000000)

/-- What an issue with a result for an X register and flags does on a core with nothing pending: the register and the flags alone
change (R198), the other registers of the core, every other core and all of memory stay, and of the register pages only the
issue count and the halt request of the core's own page may change. -/
def Obligations.integerResultFrame : Prop :=
  -- the result and the flags stand at distance 1
  (∀ (v : State) (c n d : Nat) (y cl st : Word) (k : CoreSt), c < 33 → d < 16 → v.cr c = k → k.pend = [] →
    ((v.finish c n { wr := [(1, .x d y), (1, .sr cl st)] }).cr c).x = vupd k.x d (fun _ => y) ∧
    ((v.finish c n { wr := [(1, .x d y), (1, .sr cl st)] }).cr c).sr = ((k.sr &&& ~~~cl) ||| st) ∧
    ((v.finish c n { wr := [(1, .x d y), (1, .sr cl st)] }).cr c).acc = k.acc ∧
    ((v.finish c n { wr := [(1, .x d y), (1, .sr cl st)] }).cr c).p = k.p ∧
    ((v.finish c n { wr := [(1, .x d y), (1, .sr cl st)] }).cr c).pend = []) ∧
  -- everything else
  (∀ (v : State) (c n d e b : Nat) (y cl st : Word), v.Canonical → c < 33 → e ≠ c → (v.cr c).pend = [] →
    b ≠ R.CORE.STAT c → b ≠ R.CORE.BUSY_CYC c → b ≠ R.CORE.BUSY_CYC c + 4 →
    (v.finish c n { wr := [(1, .x d y), (1, .sr cl st)] }).cr e = v.cr e ∧
    (v.finish c n { wr := [(1, .x d y), (1, .sr cl st)] }).rg b = v.rg b ∧
    v.finish c n { wr := [(1, .x d y), (1, .sr cl st)] } = { v with
      core := (v.finish c n { wr := [(1, .x d y), (1, .sr cl st)] }).core
      regs := (v.finish c n { wr := [(1, .x d y), (1, .sr cl st)] }).regs })

/-- A store (R198): it leaves memory as it is when it issues and waits for distance 3, and when it lands it changes the four bytes
of its word and nothing else of memory. -/
def Obligations.storesLand : Prop :=
  -- at its issue
  (∀ (v : State) (c n b : Nat) (y : Word), c < 33 → (v.cr c).pend = [] →
    (v.finish c n { wr := [(3, .mem b y)] }).mem = v.mem ∧
    ((v.finish c n { wr := [(3, .mem b y)] }).cr c).pend = [{ left := 2, wr := .mem b y }]) ∧
  -- where it lands, no injection armed (R37)
  (∀ (v : State) (c b x : Nat) (y : Word), v.Canonical → v.bit (R.PG_ERRINJ (corePage c)) 0 = false →
    v.bit (R.PG_ERRINJ (corePage c)) 1 = false →
    (v.land c (.mem b y)).ldw b = y ∧
    (x < b ∨ b + 4 ≤ x → Memory.read (v.land c (.mem b y)).mem x = Memory.read v.mem x) ∧
    v.land c (.mem b y) = { v with mem := (v.land c (.mem b y)).mem, ecc := (v.land c (.mem b y)).ecc })

/-- SAFE goes to READY and never directly to RUN (R27, R29, R30): a write of `SYS.RUN_CTRL` in SAFE leaves the device there or, with
SAFE_ACK and the hold withdrawn, takes it to READY; a 1 written to OUT_EN there is not kept and not counted. -/
def Obligations.safeNeverToRun : Prop :=
  -- every value by every master
  (∀ (s : State) (m : Master) (v : Nat), s.dev.st = .safe →
    ((s.writeRunCtrl m v).dev.st = .safe ∨ (s.writeRunCtrl m v).dev.st = .ready ∧ bitN v 1 = true ∧ s.dev.hold = false)) ∧
  -- OUT_EN written 1
  (∀ (s : State) (m : Master) (v : Nat), s.Canonical → s.dev.st = .safe → bitN v 0 = true →
    (s.writeRunCtrl m v).outEn = s.outEn ∧ (s.writeRunCtrl m v).rg (R.PG_LOCK R.SYS.base) = s.rg (R.PG_LOCK R.SYS.base))

/-- The commands of chapter 02 complete (R8, R33, R34, R38 to R46, R48, R49, R51, R349, R569): where a write reaches the
page, what each of them leaves. -/
def Obligations.registerCommandsComplete : Prop :=
  -- REGISTER_WRITE: a plain RW register takes the written value field by field (R8)
  (∀ (s u : State) (t : Time) (m : Master) (a : BitVec 26) (be : BitVec 8) (v : DWord) (r : RegRow), s.tick t = u →
    u.Writable (pageOf a.toNat) → IsReg a.toNat → 0x40 ≤ offOf a.toNat → be.toNat % 16 = 15 →
    findReg (bankOf (u.selOf m) a.toNat) = some (r, false) → r.wide = false → r.rws = 0 → r.rwl = 0 →
    u.pageHook m a.toNat (v.toNat % 2 ^ 32) = none →
    exec (.registerWrite t m a .b32 be v) s = .next (u.setRow r (bankOf (u.selOf m) a.toNat)
      (r.written false (u.rowVal r (bankOf (u.selOf m) a.toNat)) (v.toNat % 2 ^ 32)))) ∧
  -- STAGED_REGISTER_WRITE: the value waits for the commit instant (R44)
  (∀ (s u : State) (t : Time) (m : Master) (a : BitVec 26) (v : DWord) (r : RegRow), s.tick t = u →
    u.Writable (pageOf a.toNat) → IsReg a.toNat → 0x40 ≤ offOf a.toNat →
    findReg (bankOf (u.selOf m) a.toNat) = some (r, false) → r.wide = false → r.rws ≠ 0 →
    (tyOf a.toNat ≠ 0x6 ∨ u.en (pageOf a.toNat) = true) → u.pageHook m a.toNat (v.toNat % 2 ^ 32) = none →
    exec (.stagedRegisterWrite t m a false v) s =
      .next (u.stage (pageOf a.toNat) r (bankOf (u.selOf m) a.toNat) (v.toNat % 2 ^ 32))) ∧
  -- RC_READ: the count is returned and cleared in one step (R51)
  (∀ (s u : State) (t : Time) (m : Master) (a : BitVec 26) (r : RegRow), s.tick t = u → u.up = true → IsReg a.toNat →
    a.toNat % 4 = 0 → 0x40 ≤ offOf a.toNat → u.readEffect m a.toNat = none →
    findReg (bankOf (u.selOf m) a.toNat) = some (r, false) → r.wide = false →
    exec (.rcRead t m a .b32 15) s =
      .next { u.readClear (pageOf a.toNat) (bankOf (u.selOf m) a.toNat) r with rd := BitVec.ofNat 64 (u.view m a.toNat).toNat }) ∧
  -- PAIR_LOW_READ: the high word is captured for the reading master (R48)
  (∀ (s u : State) (t : Time) (m : Master) (a : BitVec 26) (r : RegRow), s.tick t = u → u.up = true → IsReg a.toNat →
    a.toNat % 4 = 0 → 0x40 ≤ offOf a.toNat → u.readEffect m a.toNat = none →
    findReg (bankOf (u.selOf m) a.toNat) = some (r, false) → r.wide = true →
    exec (.pairLowRead t m a) s =
      .next { u.setPage (pageOf a.toNat) (fun p => { p with rdHold := some (m, offOf a.toNat, u.view m (a.toNat + 4)) }) with
        rd := BitVec.ofNat 64 (u.view m a.toNat).toNat }) ∧
  -- PAIR_HIGH_READ: the captured word is returned to the master that captured it (R48)
  (∀ (s u : State) (t : Time) (m : Master) (a : BitVec 26) (r : RegRow) (lo : Nat) (w : Word), s.tick t = u → u.up = true →
    IsReg a.toNat → a.toNat % 4 = 0 → 0x40 ≤ offOf a.toNat → u.readEffect m a.toNat = none →
    findReg (bankOf (u.selOf m) a.toNat) = some (r, true) → r.wide = true →
    (u.page (pageOf a.toNat)).rdHold = some (m, lo, w) → lo + 4 = offOf a.toNat →
    exec (.pairHighRead t m a) s = .next { u with rd := BitVec.ofNat 64 w.toNat }) ∧
  -- PAIR_LOW_WRITE: the low word is held (R49)
  (∀ (s u : State) (t : Time) (m : Master) (a : BitVec 26) (v : Word) (r : RegRow), s.tick t = u →
    u.Writable (pageOf a.toNat) → IsReg a.toNat → 0x40 ≤ offOf a.toNat →
    findReg (bankOf (u.selOf m) a.toNat) = some (r, false) → r.wide = true →
    exec (.pairLowWrite t m a v) s =
      .next (u.setPage (pageOf a.toNat) (fun p => { p with wrHold := some (m, offOf a.toNat, v) }))) ∧
  -- PAIR_HIGH_WRITE: the held write completes as one 64-bit write (R49)
  (∀ (s u : State) (t : Time) (m : Master) (a : BitVec 26) (v w : Word) (r : RegRow) (lo : Nat), s.tick t = u →
    u.Writable (pageOf a.toNat) → IsReg a.toNat → 0x40 ≤ offOf a.toNat →
    findReg (bankOf (u.selOf m) a.toNat) = some (r, true) → r.wide = true →
    (u.page (pageOf a.toNat)).wrHold = some (m, lo, w) → lo + 4 = offOf a.toNat →
    exec (.pairHighWrite t m a v) s =
      .next ((u.setPage (pageOf a.toNat) (fun p => { p with wrHold := none })).writeFull m (a.toNat - 4)
        (w.toNat + v.toNat * 2 ^ 32))) ∧
  -- UNMAPPED_ACCESS: UNMAPPED, the address and the master are recorded; a read returns 0 (R33)
  (∀ (s u : State) (t : Time) (m : Master) (a : BitVec 26) (w : Width) (v : DWord), s.tick t = u → u.up = true →
    mapped a.toNat w.bytes = false →
    exec (.unmappedAccess t m a w true v) s = .next (u.mapErr m a.toNat 0) ∧
    exec (.unmappedAccess t m a w false v) s = .next { u.mapErr m a.toNat 0 with rd := 0 }) ∧
  -- MEMORY_WINDOW_WRITE: an accepted write stores its bytes; a refused one records MEM_BUSY (R34)
  (∀ (s u : State) (t : Time) (m : Master) (a : BitVec 27) (v : DWord), s.tick t = u → u.up = true →
    mapped a.toNat 4 = true → 0x2000000 ≤ a.toNat → a.toNat < 0x4000000 → a.toNat % 4 = 0 →
    (u.winRefused a.toNat = true → exec (.memoryWindowWrite t m a .b32 15 v) s = .next (u.mapErr m a.toNat 2)) ∧
    (u.winRefused a.toNat = false →
      exec (.memoryWindowWrite t m a .b32 15 v) s = .next (u.winWord a.toNat 15 (v.toNat % 2 ^ 32))))

/-- The commands of the page header complete (R37 to R43, R45, R46, R349, R569). -/
def Obligations.headerCommandsComplete : Prop :=
  -- SOFT_RESET: a page that is disabled takes it: BUSY, and its staged writes are dropped; on a PTP page a pending OFFSET is
  -- discarded, and on FT1 INCR is at its reset value (R38, R59)
  (∀ (s u v : State) (t : Time) (m : Master) (a : BitVec 26) (pg : Nat), s.tick t = u → pageOf a.toNat = pg → u.Writable pg →
    IsReg (R.PG_CTRL pg) → enFixed (tyOf a.toNat) = false → u.en pg = false → u.frozen pg = false →
    (if tyOf pg = 0x13 then u.ptpReset (instOf pg == 1) else u) = v →
    exec (.softReset t m a) s = .next ((((((v.putBit (R.PG_STAT pg) 1 false).putBit (R.PG_STAT pg) 0 true).putBit
      (R.PG_CTRL pg) 1 true).setPage pg (fun p => { p with staged := [], resetAt := some u.now })).freezeRelease pg))) ∧
  -- SOFT_RESET_DONE: the registers are back at their reset values, and the block behind them (R38)
  (∀ (s u : State) (t : Time) (a : BitVec 26) (pg : Nat), s.tick t = u → pageOf a.toNat = pg → u.busy pg = true →
    exec (.softResetDone t a) s =
      .next (((u.resetRegs pg).setPage pg (fun p => { keySeq := p.keySeq, lockFrom := p.lockFrom })).resetBlock pg)) ∧
  -- FREEZE_CAPTURE and FREEZE_RELEASE (R39)
  (∀ (s u : State) (t : Time) (m : Master) (a : BitVec 26) (pg : Nat), s.tick t = u → pageOf a.toNat = pg → u.Writable pg →
    IsReg (R.PG_CTRL pg) → u.bistOn 4 (instOf a.toNat) = false →
    exec (.freezeCapture t m a) s = .next (((u.putBit (R.PG_CTRL pg) 2 true).putBit (R.PG_STAT pg) 2 true).setPage pg
      (fun p => { p with snap := u.capture pg })) ∧
    exec (.freezeRelease t m a) s = .next (((u.putBit (R.PG_CTRL pg) 2 false).putBit (R.PG_STAT pg) 2 false).setPage pg
      (fun p => { p with snap := [] }))) ∧
  -- IRQ_CLEAR: the bits written 1 clear, but those that the block set at the same TCLK edge (R40)
  (∀ (s u : State) (t : Time) (m : Master) (a : BitVec 26) (v : Word) (pg : Nat), s.tick t = u → pageOf a.toNat = pg →
    u.Writable pg → IsReg (R.PG_IRQ pg) →
    exec (.irqClear t m a v) s = .next (u.setRg (R.PG_IRQ pg) (u.rg (R.PG_IRQ pg) &&& ~~~(BitVec.ofNat 32
      (v.toNat ^^^ (v.toNat &&& if (u.page pg).irqAt.1 = edgeOf u.now then (u.page pg).irqAt.2 else 0)))))) ∧
  -- UNLOCK_FIRST_KEY opens a sequence for the writing master (R41)
  (∀ (s u : State) (t : Time) (m : Master) (a : BitVec 26) (pg : Nat), s.tick t = u → pageOf a.toNat = pg → u.Writable pg →
    IsReg (R.PG_LOCK pg) →
    exec (.unlockFirstKey t m a) s = .next (u.setPage pg (fun p => { p with keySeq := some (m, u.now) }))) ∧
  -- UNLOCK_SECOND_KEY by the same master within 1 us makes it the owner of the unlocked page (R41)
  (∀ (s u : State) (t t0 : Time) (m : Master) (a : BitVec 26) (pg : Nat), s.tick t = u → pageOf a.toNat = pg → u.up = true →
    u.busy pg = false → IsReg (R.PG_LOCK pg) → (u.page pg).keySeq = some (m, t0) → u.now ≤ t0 + us 1 →
    exec (.unlockSecondKey t m a) s = .next (((u.putFld (R.PG_LOCK pg) 3 1 m.code).putBit (R.PG_LOCK pg) 0 true).setPage pg
      (fun p => { p with keySeq := none, lockFrom := u.now }))) ∧
  -- UNLOCK_TIMEOUT: 1 us after the first key the sequence aborts and FAILS counts (R41)
  (∀ (s u : State) (t t0 : Time) (m : Master) (a : BitVec 26) (pg : Nat), s.tick t = u → pageOf a.toNat = pg →
    (u.page pg).keySeq = some (m, t0) → t0 + us 1 < u.now →
    exec (.unlockTimeout t a) s = .next ((u.setPage pg (fun p => { p with keySeq := none })).failInc pg)) ∧
  -- LOCK_ZERO_WRITE by the owner locks the page (R569)
  (∀ (s u : State) (t : Time) (m : Master) (a : BitVec 26) (pg : Nat), s.tick t = u → pageOf a.toNat = pg → u.Writable pg →
    IsReg (R.PG_LOCK pg) → u.owns pg m = true →
    exec (.lockZeroWrite t m a) s = .next (u.putFld (R.PG_LOCK pg) 3 0 0)) ∧
  -- LOCK_OTHER_WRITE: no effect on the lock, and FAILS counts (R569)
  (∀ (s u : State) (t : Time) (m : Master) (a : BitVec 26) (v : Word) (pg : Nat), s.tick t = u → pageOf a.toNat = pg →
    u.Writable pg → IsReg (R.PG_LOCK pg) → v ≠ 0 → v ≠ 0xC41A → v ≠ 0xA14C →
    exec (.lockOtherWrite t m a v) s = .next (u.failInc pg)) ∧
  -- LOCK_TIMEOUT: 10 ms after the latest lock event the page locks again (R42)
  (∀ (s u : State) (t : Time) (a : BitVec 26) (pg : Nat), s.tick t = u → pageOf a.toNat = pg →
    u.bit (R.PG_LOCK pg) 0 = true → (u.page pg).lockFrom + ms 10 ≤ u.now →
    exec (.lockTimeout t a) s = .next (u.putFld (R.PG_LOCK pg) 3 0 0)) ∧
  -- LOCKED_REGISTER_WRITE on a safety page by its owner in its own session, with room in the log: logged, the RW-L fields take the
  -- value, and the lock's time starts again (R42, R43, R483)
  (∀ (s u : State) (t : Time) (m : Master) (a : BitVec 26) (v : DWord) (r : RegRow) (b pg : Nat), s.tick t = u →
    pageOf a.toNat = pg → u.Writable pg → IsReg a.toNat → 0x40 ≤ offOf a.toNat → bankOf (u.selOf m) a.toNat = b →
    findReg b = some (r, false) → r.wide = false → r.rws = 0 → r.rwl ≠ 0 → u.lockOk pg m = true → isSafety pg = true → u.logFull = false →
    u.pageHook m a.toNat (v.toNat % 2 ^ 32) = none →
    exec (.lockedRegisterWrite t m a false v) s =
      .next (((u.logEntry pg (b % 0x1000) 0 (wordOf false (u.rowVal r b)) (wordOf false (r.written true (u.rowVal r b) (v.toNat % 2 ^ 32)))).setRow
        r b (r.written true (u.rowVal r b) (v.toNat % 2 ^ 32))).setPage pg (fun p => { p with lockFrom := u.now }))) ∧
  -- LOCKED_REGISTER_WRITE by a master without the lock that would change a RW-L field: the other fields alone, and FAILS counts (R42)
  (∀ (s u : State) (t : Time) (m : Master) (a : BitVec 26) (v : DWord) (r : RegRow) (b pg : Nat), s.tick t = u →
    pageOf a.toNat = pg → u.Writable pg → IsReg a.toNat → 0x40 ≤ offOf a.toNat → bankOf (u.selOf m) a.toNat = b →
    findReg b = some (r, false) → r.wide = false → r.rws = 0 → r.rwl ≠ 0 → u.lockOk pg m = false →
    (u.rowVal r b ^^^ r.written true (u.rowVal r b) (v.toNat % 2 ^ 32)) &&& r.rwl ≠ 0 → u.pageHook m a.toNat (v.toNat % 2 ^ 32) = none →
    exec (.lockedRegisterWrite t m a false v) s = .next ((u.setRow r b (r.written false (u.rowVal r b) (v.toNat % 2 ^ 32))).failInc pg)) ∧
  -- SHADOW_HOLD: HOLD is set, or cleared, and the staged writes go from now on (R46)
  (∀ (s u : State) (t : Time) (m : Master) (a : BitVec 26) (pg : Nat), s.tick t = u → pageOf a.toNat = pg → u.Writable pg →
    IsReg (R.PG_SHADOW pg) →
    exec (.shadowHold t m a true) s = .next (u.putBit (R.PG_SHADOW pg) 0 true) ∧
    (u.bit (R.PG_SHADOW pg) 0 = true →
      exec (.shadowHold t m a false) s = .next ((u.putBit (R.PG_SHADOW pg) 0 false).setPage pg
        (fun p => { p with staged := p.staged.map (fun w => { w with from_ := max w.from_ u.now }) })))) ∧
  -- SHADOW_DISCARD drops the staged writes (R46)
  (∀ (s u : State) (t : Time) (m : Master) (a : BitVec 26) (pg : Nat), s.tick t = u → pageOf a.toNat = pg → u.Writable pg →
    IsReg (R.PG_SHADOW pg) → u.bit (R.PG_SHADOW pg) 0 = false →
    exec (.shadowDiscard t m a) s = .next ((u.putBit (R.PG_SHADOW pg) 0 false).setPage pg (fun p => { p with staged := [] }))) ∧
  -- SELECTOR_WRITE of LSEL sets the selection of the writing master (R349)
  (∀ (s u : State) (t : Time) (m : Master) (a : BitVec 26) (v : Word), s.tick t = u → u.Writable (pageOf a.toNat) →
    IsReg a.toNat → a.toNat = R.WALL.base + 0x40 →
    exec (.selectorWrite t m a v) s = .next (u.setSel m (fun x => { x with lsel := v.toNat % 64 })))

/-- The commands that change the device state complete (R24, R28, R30, R568). -/
def Obligations.deviceStateCommandsComplete : Prop :=
  -- OUT_EN_SET by the lock owner in READY with the release present: OUT_EN is set and RUN entered with cause 1 (R568)
  (∀ (s u : State) (t : Time) (m : Master), s.tick t = u → s.Canonical → u.Writable R.SYS.base → u.lockOk R.SYS.base m = true →
    u.dev.st = .ready → u.bwRel = true →
    exec (.outEnSet t m) s = .next (((((u.putBit R.SYS.RUN_CTRL 0 true).toDev .run 1)).setPage R.SYS.base
      (fun p => { p with lockFrom := u.now })).runSync)) ∧
  -- OUT_EN_CLEAR in RUN: OUT_EN clears and the device is in READY with cause 2; the outputs follow (R28)
  (∀ (s u : State) (t : Time) (m : Master), s.tick t = u → u.Writable R.SYS.base → u.lockOk R.SYS.base m = true →
    u.dev.st = .run →
    exec (.outEnClear t m) s = .next ((((u.putBit R.SYS.RUN_CTRL 0 false).toDev .ready 2).setPage R.SYS.base
      (fun p => { p with lockFrom := u.now })).runSync)) ∧
  -- RUN_ENTRY (R568)
  (∀ (s u : State) (t : Time), s.tick t = u → u.dev.st = .ready → u.outEn = true → u.bwRel = true →
    exec (.runEntry t) s = .next (u.toDev .run 1).runSync) ∧
  -- SAFE_ACK with OUT_EN clear: READY with cause 5 once the hold is withdrawn, ACK_EARLY before (R30)
  (∀ (s u : State) (t : Time) (m : Master), s.tick t = u → u.Writable R.SYS.base → u.lockOk R.SYS.base m = false →
    u.outEn = false → u.dev.st = .safe →
    (u.dev.hold = false → exec (.safeAck t m) s = .next (u.toDev .ready 5).runSync) ∧
    (u.dev.hold = true → exec (.safeAck t m) s = .next (u.putBit R.SYS.DEV_STATE 7 true).runSync)) ∧
  -- PLL_LOCK_LOST is flagged in CLK_MON; the time base goes with PLL_T (R24, R523)
  (∀ (s u : State) (t : Time) (freq : Bool), s.tick t = u →
    (exec (.pllLockLost t .t freq) s = .next ((u.putBit R.SYS.CLK_MON (b2n freq) true).timebaseFault).runSync) ∧
    (exec (.pllLockLost t .a freq) s = .next (((u.putBit R.SYS.CLK_MON (2 + b2n freq) true).report 0x09 0 0 true 0).runSync)) ∧
    (exec (.pllLockLost t .pcie freq) s = .next (u.putBit R.SYS.CLK_MON 10 true).runSync)) ∧
  -- REFCLK_LOST sets all the flags in one step (R24)
  (∀ (s u : State) (t : Time), s.tick t = u →
    exec (.refclkLost t) s = .next
      (((((((u.putBit R.SYS.CLK_MON 11 true).putBit R.SYS.CLK_MON 0 true).timebaseFault).putBit R.SYS.CLK_MON 3 true).report
        0x09 0 0 true 0).putBit R.SYS.CLK_MON 5 true).pllcLost.runSync.canStopAll))

/-- The commands of the time unit complete (R58, R59, R62, R63, R65, R67, R68). -/
def Obligations.timeCommandsComplete : Prop :=
  -- INCR_WRITE: within the limits the value is kept, counted, and due 20 ns later (R58)
  (∀ (s u : State) (t : Time) (m : Master) (n : Bool) (v : DWord), s.tick t = u → u.Writable (R.PTP.base (b2n n)) →
    incrMin ≤ v.toNat % 2 ^ 40 → v.toNat % 2 ^ 40 ≤ incrMax →
    exec (.incrWrite t m n v) s = .next (((u.setRg64 (R.PTP.INCR (b2n n)) (v.toNat % 2 ^ 40)).setPtp n
      (fun p => { p with incrPend := p.incrPend ++ [(u.now + ns 20, v.toNat % 2 ^ 40)] })).adj 1)) ∧
  -- INCR_APPLY: from its instant on the new value governs the edges (R58)
  (∀ (s u : State) (t d : Time) (n : Bool) (v : Nat) (rest : List (Time × Nat)), s.tick t = u →
    (u.ptp n).incrPend = (d, v) :: rest → d ≤ u.now →
    exec (.incrApply t n) s = .next (u.setPtp n
      (fun p => { p.rebase (edgeOf (ceilEdge d) - 1) with incr := v, incrPend := rest }))) ∧
  -- OFFSET_WRITE stages the step (R59)
  (∀ (s u : State) (t : Time) (m : Master) (n : Bool) (v : DWord), s.tick t = u → u.Writable (R.PTP.base (b2n n)) →
    exec (.offsetWrite t m n v) s = .next (u.setPtp n (fun p => { p with offPend := some (u.now + ns 20, sx 64 v.toNat) }))) ∧
  -- OFFSET_APPLY adds the step to a clock that is not selected (R59)
  (∀ (s u : State) (t d : Time) (n : Bool) (off : Int), s.tick t = u → (u.ptp n).offPend = some (d, off) → d ≤ u.now →
    u.sel ≠ n → 0 ≤ ((u.ptp n).at (edgeOf (ceilEdge d)) : Int) + off * 2 ^ 32 →
    exec (.offsetApply t n) s = .next (((u.setPtp n (fun p => { p with offPend := none })).setPtp n
      (fun p => { p.rebase (edgeOf (ceilEdge d)) with
        val := (((u.ptp n).at (edgeOf (ceilEdge d)) : Int) + off * 2 ^ 32).toNat })).adj 1)) ∧
  -- SLEW_DONE: C is zero at the edge where the slew ends, counted and posted there (R62, R66)
  (∀ (s u : State) (t : Time), s.tick t = u → u.time.c ≠ 0 → u.time.slewEnd ≤ edgeOf (max s.now t) →
    exec (.slewDone t) s = .next (((u.setC u.time.slewEnd 0).adj 1).post srcTime 0x06 (u.time.slewEnd * 16) 0)) ∧
  -- RESEED while TIME_UNSURE, with no slew running: C stays zero, counted and posted, and the redundancy
  -- cycle in progress ends (R63, R432)
  (∀ (s u : State) (t : Time) (m : Master), s.tick t = u → u.Writable R.TIME.base → u.lockOk R.TIME.base m = false →
    u.standalone = false → u.unsure = true → u.time.c = 0 →
    exec (.reseed t m) s = .next (((u.setC (edgeOf (ceilEdge u.now)) 0).adj 1).post srcTime 0x05
      (edgeOf (ceilEdge u.now) * 16) 0).redStep) ∧
  -- STANDALONE_SET by the lock owner: the guard count restarts and TIME_UNSURE clears (R68)
  (∀ (s u : State) (t : Time) (m : Master), s.tick t = u → u.Writable R.TIME.base → u.lockOk R.TIME.base m = true →
    exec (.standaloneSet t m) s = .next ((((u.putBit R.TIME.MT_CTRL 0 true).setPage R.TIME.base
      (fun p => { p with lockFrom := u.now })).clearUnsure true).putFld R.TIME.MT_STAT 7 4 0)) ∧
  -- STANDALONE_CLEAR by the lock owner: TIME_UNSURE is set with cause 3 (R67)
  (∀ (s u : State) (t : Time) (m : Master), s.tick t = u → u.Writable R.TIME.base → u.lockOk R.TIME.base m = true →
    exec (.standaloneClear t m) s = .next (((u.putBit R.TIME.MT_CTRL 0 false).setPage R.TIME.base
      (fun p => { p with lockFrom := u.now })).setUnsure 3)) ∧
  -- SNAPSHOT_TAKE and SNAPSHOT_PERIOD capture every snapshot register at one TCLK edge (R65)
  (∀ (s u : State) (t : Time) (m : Master), s.tick t = u → u.Writable R.TIME.base →
    exec (.snapshotTake t m) s = .next ((u.writeReg m R.TIME.base R.TIME.SNAP_CTRL
      ((u.rg R.TIME.SNAP_CTRL).toNat ||| 1)).snapshot (edgeOf (ceilEdge u.now)))) ∧
  (∀ (s u : State) (t : Time), s.tick t = u → u.fld R.TIME.SNAP_CTRL 2 1 = 2 →
    u.time.lastPeriodic < u.now / u.snapPeriod * u.snapPeriod →
    exec (.snapshotPeriod t) s = .next (({ u with time := { u.time with
      lastPeriodic := u.now / u.snapPeriod * u.snapPeriod } }).snapshot (edgeOf (u.now / u.snapPeriod * u.snapPeriod))))

/-- The commands of the Weir complete (R71 to R75, R81, R83). -/
def Obligations.weirCommandsComplete : Prop :=
  -- a record of Q5 is the Latch unit's at the edge at which the queue takes it (R79, R353; the model's choice, log 62)
  (∀ (s : State) (e : EvRec), (vget s.weir.queues 5).length < 512 →
    (s.enqueue 5 e).weir = s.weir ∧ (s.enqueue 5 e).lat.inbox = s.lat.inbox ++ [(e.stamp, e.src, e.code)]) ∧
  -- WEIR_POST in time: the event joins its source's buffer, which takes 16 (R71, R75)
  (∀ (s u : State) (t stamp : Time) (src : Fin 1024) (code : Fin 64) (p : BitVec 48), s.tick t = u →
    srcExists src.val = true → 1 ≤ code.val → code.val ≤ 0x3C →
    u.now ≤ deliveryEdge ⟨stamp, src.val, code.val, p.toNat⟩ → u.buffered src.val < 16 →
    exec (.weirPost t src code stamp p) s =
      .next { u with weir := { u.weir with pend := putEvent ⟨stamp, src.val, code.val, p.toNat % 2 ^ 48⟩ u.weir.pend } }) ∧
  -- WEIR_POST after its delivery edge: LATE counts and a LATE_DROP record stands in its place at the frontier (R73)
  (∀ (s u v : State) (t stamp : Time) (src : Fin 1024) (code : Fin 64) (p : BitVec 48), s.tick t = u →
    srcExists src.val = true → 1 ≤ code.val → code.val ≤ 0x3C →
    deliveryEdge ⟨stamp, src.val, code.val, p.toNat⟩ < u.now → ((u.count R.WEIR.LATE 15 0 1).irq R.WEIR.base 0x200) = v →
    exec (.weirPost t src code stamp p) s = .next { v with
      weir := { v.weir with pend := putEvent ⟨ceilEdge u.now - horizon, src.val, 0x3F, stamp % 2 ^ 48⟩ v.weir.pend } }) ∧
  -- STALL_CLEAR once every watermark has been past the frontier for 1 us (R74)
  (∀ (s u : State) (t : Time), s.tick t = u → u.bit R.WEIR.STAT 16 = true → u.weir.clearFrom + us 1 ≤ u.now →
    exec (.stallClear t) s = .next (({ u with weir := { u.weir with stalled := [] } }).putBit R.WEIR.STAT 16 false)) ∧
  -- WEIR_INJECT posts from source 0x3FF, and refuses the codes that are not a program's (R83)
  (∀ (s u : State) (t : Time) (m : Master) (v : DWord), s.tick t = u → u.Writable R.WEIR.base →
    ((bitsN v.toNat 5 0 = 0 ∨ 0x3D ≤ bitsN v.toNat 5 0) →
      exec (.weirInject t m v) s = .next (u.putBit R.WEIR.STAT 17 true)) ∧
    (bitsN v.toNat 5 0 ≠ 0 → bitsN v.toNat 5 0 < 0x3D →
      exec (.weirInject t m v) s = .next (u.post 0x3FF (bitsN v.toNat 5 0) (ceilEdge u.now) (bitsN v.toNat 63 16)))) ∧
  -- WEIR_POP: word 0 of the head record, which is removed and held for the reading master (R81)
  (∀ (s u : State) (t : Time) (m : Master) (q : Fin 8) (e : EvRec) (l : List EvRec), s.tick t = u → q.val ≠ 4 →
    u.up = true → u.frozen R.WEIR.base = false → vget u.weir.queues q.val = e :: l →
    exec (.weirPop t m q false) s = .next { u with
      weir := { u.weir with queues := vupd u.weir.queues q.val List.tail, hold := vupd u.weir.hold q.val (fun _ => some (some m, e)) }
      rd := BitVec.ofNat 64 (e.word 0).toNat }) ∧
  -- WEIR_POP_WORD: the words of the held record, and the third ends the hold (R81)
  (∀ (s u : State) (t : Time) (m : Master) (q : Fin 8) (i : Fin 4) (e : EvRec), s.tick t = u → q.val ≠ 4 → i.val ≠ 0 →
    u.up = true → u.frozen R.WEIR.base = false → vget u.weir.hold q.val = some (some m, e) →
    (i.val ≠ 3 → exec (.weirPopWord t m q i) s = .next { u with rd := BitVec.ofNat 64 (e.word i.val).toNat }) ∧
    (i.val = 3 → exec (.weirPopWord t m q i) s = .next { u with
      weir := { u.weir with hold := vupd u.weir.hold q.val (fun _ => none) }
      rd := BitVec.ofNat 64 (e.word 3).toNat }))

/-- The commands of the Sluice complete (R16, R17, R18, R44, R144, R145, R146, R257 to R262, R264, R265, R269, R273 to R276). -/
def Obligations.sluiceCommandsComplete : Prop :=
  -- COMMIT_INSTANT of a running axis whose instant has come: release, outputs, frame (R18)
  (∀ (s u : State) (t tk : Time) (n : Fin 112), s.tick t = u → u.dev.tbFault = none → n.val < 64 →
    (u.axs n).next = some tk → tk ≤ u.now → u.axRun n = true → (u.axs n).prev ≠ none →
    exec (.commitInstant t n) s = .next (u.commitAxis n tk)) ∧
  -- COMMIT_INSTANT of a slot that no running axis owns: the staged writes are released, and the next instant follows (R44)
  (∀ (s u v : State) (t tk : Time) (n : Fin 112) (offs : List Nat), s.tick t = u → u.dev.tbFault = none → 64 ≤ n.val →
    (u.pw (n.val - 64)).next = some tk → tk ≤ u.now → u.ownerOf (n.val - 64) = none →
    u.releaseSlot (n.val - 64) tk [] = (v, offs) →
    exec (.commitInstant t n) s = .next ((v.pwmCommit (n.val - 64) tk offs).setPw (n.val - 64)
      (fun p => { p with next := some ((v.pwmCommit (n.val - 64) tk offs).nextAfter (n.val - 64) tk) }))) ∧
  -- FRAME_READY: the frames that are ready are marked so, and each level's frame goes to a core that waits for it (R16, R247)
  (∀ (s u : State) (t : Time) (a : Fin 64), s.tick t = u →
    exec (.frameReady t a) s = .next ((((u.frameReady a).waittTry a 0).waittTry a 1).waittTry a 2)) ∧
  -- STAGING_CUTOFF of a level-0 axis whose frame is not delivered: OVERRUN, counted, posted and reported (R269)
  (∀ (s u v : State) (t tk : Time) (a : Fin 64), s.tick t = u → (u.axs a).next = some tk → (u.axs a).cut = false →
    tk ≤ u.now + ns 80 → u.axRun a = true → u.parkOn a = false → (u.axs a).prev ≠ none → u.levels a = 1 →
    (u.setAx a (fun x => { x with cut := true })) = v → (v.lvl a 0).last.delivered = false → v.levels a = 1 →
    exec (.stagingCutoff t a) s = .next ((((v.setLvl a 0 (fun p => { p with overrun := true })).count (R.SLUICE.AX_MISS_CNT a) 31 24 1).slCorePost
      (v.coreOfAx a) 0x10 (cutoffOf tk) (a.val + 0 * 2 ^ 6 + (v.lvl a 0).last.k % 256 * 2 ^ 8) 4).report 0x19 a (2 ^ a.val) false (v.ovrLevel a))) ∧
  -- OUT_WRITE_ARRIVAL: the oldest write on its way reaches its period (R264, R265)
  (∀ (s u : State) (t arr : Time) (c : Fin 33) (per w tag seq : Nat) (v : Word) (rest : List (Nat × Nat × Word × Nat × Nat × Time)),
    s.tick t = u → (u.cr c).outQ = (per, w, v, tag, seq, arr) :: rest → arr ≤ u.now →
    exec (.outWriteArrival t c) s = .next ((u.setCr c (fun k => { k with outQ := rest })).outArrive (per / 4) (per % 4) w v tag seq arr)) ∧
  -- SLOT_START of a slot without an owner: its counter starts at G (R144)
  (∀ (s u : State) (t g : Time) (n : Fin 48), s.tick t = u → (u.pw n).start = some g → g ≤ u.now →
    (u.slotStart n g).ownerOf n = none →
    exec (.slotStart t n) s = .next (u.slotStart n g)) ∧
  -- SLOT_DISABLE of a slot without an owner: EN clears and the counter stops (R146)
  (∀ (s u : State) (t : Time) (m : Master) (n : Fin 48), s.tick t = u → u.Writable (R.PWM.base n) → u.en (R.PWM.base n) = true →
    ((u.putBit (R.PG_CTRL (R.PWM.base n)) 0 false).slotStop n).ownerOf n = none →
    exec (.slotDisable t m n) s = .next ((u.putBit (R.PG_CTRL (R.PWM.base n)) 0 false).slotStop n)) ∧
  -- AXIS_RUN_SET without a reason against it: RUN is set and the axis takes its first instant; its slot's level, request and
  -- gate follow (R258, R259, R459, R466)
  (∀ (s u v : State) (t : Time) (m : Master) (a : Fin 64), s.tick t = u → u.Writable R.SLUICE.base → u.axRun a = false →
    u.runRefusal a = 0 → u.bit (R.SLUICE.AX_CTRL a) 1 = false → (u.putBit (R.SLUICE.AX_CTRL a) 1 false).runSet a = v →
    v.axRun a = true →
    exec (.axisRunSet t m a) s = .next v.bwSync) ∧
  -- AXIS_RUN_SET with a reason: refused, with the lowest reason and the axis in CHECK (R257)
  (∀ (s u : State) (t : Time) (m : Master) (a : Fin 64), s.tick t = u → u.Writable R.SLUICE.base → u.axRun a = false →
    u.runRefusal a ≠ 0 →
    exec (.axisRunSet t m a) s = .next ((u.cfgRefused R.SLUICE.base).setRg R.SLUICE.CHECK
      (BitVec.ofNat 32 (u.runRefusal a + a.val * 2 ^ 8)))) ∧
  -- AXIS_FIRST_SAMPLE of an axis without a slot: frames are frozen, nothing commits, one period to the next instant (R259)
  (∀ (s u : State) (t tk : Time) (a : Fin 64), s.tick t = u → (u.axs a).next = some tk → tk ≤ u.now → u.axRun a = true →
    (u.axs a).prev = none → u.dev.tbFault = none → (u.profileTick a).slotOf a = none →
    exec (.axisFirstSample t a) s = .next ((u.profileTick a).freeze a tk
      (tk + ns ((u.profileTick a).rg (R.SLUICE.AX_TPERIOD a)).toNat))) ∧
  -- AXIS_RUN_CLEAR without a reason against it (R260)
  (∀ (s u v : State) (t : Time) (m : Master) (a : Fin 64), s.tick t = u → u.Writable R.SLUICE.base → u.axRun a = true →
    u.runClearRefusal a = 0 → u.bit (R.SLUICE.AX_CTRL a) 1 = false → (u.putBit (R.SLUICE.AX_CTRL a) 1 false).runClear a = v →
    v.axRun a = false →
    exec (.axisRunClear t m a) s = .next v.bwSync) ∧
  -- PARK_WRITE: a new value is kept with the instant it reached the page (R261)
  (∀ (s u : State) (t : Time) (m : Master) (a : Fin 64) (p : Bool), s.tick t = u → u.Writable R.SLUICE.base →
    u.bit (R.SLUICE.AX_CTRL a) 1 ≠ p →
    exec (.parkWrite t m a p) s = .next ((u.putBit (R.SLUICE.AX_CTRL a) 1 p).setAx a
      (fun x => { x with parkPend := x.parkPend ++ [(p, u.now)] }))) ∧
  -- MIG_START with a reason against it: MIG_STAT and an event name the reason (R273)
  (∀ (s u v : State) (t : Time) (m : Master) (src dst : Fin 32), s.tick t = u → u.Writable R.SLUICE.base →
    u.setRg R.SLUICE.MIG_CMD (BitVec.ofNat 32 (src.val + dst.val * 2 ^ 8)) = v → v.migRefusal src dst = 2 →
    v.mig.waiting = false →
    exec (.migStart t m src dst) s = .next (((((((v.putFld R.SLUICE.MIG_STAT 8 4 src).putFld R.SLUICE.MIG_STAT 13 9 dst).putBit
      R.SLUICE.MIG_STAT 3 false).putFld R.SLUICE.MIG_STAT 2 0 3).putFld R.SLUICE.MIG_STAT 23 16 2).slCorePost src 0x14 v.now
      (dst.val + 2 * 2 ^ 8) 32))) ∧
  -- MIG_START without one: the migration waits for its common instant t_m, or ends at once without one (R274)
  (∀ (s u v : State) (t : Time) (m : Master) (src dst : Fin 32), s.tick t = u → u.Writable R.SLUICE.base →
    u.setRg R.SLUICE.MIG_CMD (BitVec.ofNat 32 (src.val + dst.val * 2 ^ 8)) = v → v.migRefusal src dst = 0 →
    exec (.migStart t m src dst) s = .next (v.migRequest src dst (v.rg64 R.SLUICE.MIG_AT) false)) ∧
  -- MIGRATION_ABORT of a migration that waits, before the cutoff: it ends with reason 0x12 (R275)
  (∀ (s u v : State) (t : Time) (m : Master), s.tick t = u → u.Writable R.SLUICE.base → u.migOpen = true →
    u.setRg R.SLUICE.MIG_CMD (BitVec.ofNat 32 (u.fld R.SLUICE.MIG_CMD 4 0 + u.fld R.SLUICE.MIG_CMD 12 8 * 2 ^ 8)) = v →
    exec (.migrationAbort t m) s = .next (v.migFail 0x12)) ∧
  -- MIGRATION_CUTOFF: the state regions are copied word by word and the target core starts (R215, R222, R276)
  (∀ (s u : State) (t : Time), s.tick t = u → u.mig.waiting = true → u.mig.cut = false → cutoffOf u.mig.tm ≤ u.now →
    exec (.migrationCutoff t) s = .next (
      let v := (List.range 64).foldl (fun (w : State) a => if !bitN u.mig.axes a then w else
        (List.range (64 * (w.regionOf a).2)).foldl (fun (x : State) i =>
          x.moveWord u.mig.src u.mig.dst (64 * (w.regionOf a).1 + i) i) w) u
      ({ v with mig := { u.mig with cut := true } }).startCore u.mig.dst
        (({ v with mig := { u.mig with cut := true } } : State).fld (R.CORE.ENTRY u.mig.dst) 19 0))) ∧
  -- MIG_DONE once every moved axis has switched at t_m (R276)
  (∀ (s u : State) (t : Time), s.tick t = u → u.mig.waiting = true → u.mig.cut = true → u.mig.tm ≤ u.now → u.mig.left = 0 →
    u.mig.queued = [] →
    exec (.migDone t) s = .next (((List.range 64).foldl (fun (w : State) a =>
      if bitN u.mig.axes a then w.putBit (R.SLUICE.AX_STAT a) 9 false else w)
      (({ u with mig := { u.mig with waiting := false, queued := [] } } : State).putFld R.SLUICE.MIG_STAT 2 0 2)).slCorePost
      u.mig.src 0x13 u.mig.tm u.mig.dst 16))

/-- The commands DESCRIPTOR_FETCH, REG_READ, REG_WRITE, COPY_IN, COPY_OUT, TX_FRAME, HOST_NOP, COMMAND_COMPLETION,
COMPLETION_ACK, TAG_ABORT and TAG_QUARANTINE_END complete (R493, R495, R496, R499 to R502, R525). -/
def Obligations.ringCommandsComplete : Prop :=
  -- DESCRIPTOR_FETCH of a descriptor whose tag is DONE: it waits for the acknowledgements of its HCLK edge (R500)
  (∀ (s u : State) (t : Time) (d : Vector Word 8) (r k : Nat), s.tick t = u → u.nextRing = some (r, k) → u.host.late = none →
    (u.tag (tagIdx ((d.toList.getD 0 0).toNat / 2 ^ 16))).st = 2 →
    exec (.descriptorFetch t d) s = .next ((u.setRg (R.HOST.SQ_HEAD r)
      (BitVec.ofNat 32 ((u.fld (R.HOST.SQ_HEAD r) 11 0 + 1) % u.ringSize r))).setHost
      (fun h => { h with ring := r, took := k + 1, late := some (hclkEdge u.now, r, d.toList) }))) ∧
  -- DESCRIPTOR_FETCH of a descriptor whose tag is free, with none waiting for an edge: HEAD moves on, the tag is in flight, the command waits (R493, R499)
  (∀ (s u v : State) (t : Time) (d : Vector Word 8) (r k g : Nat), s.tick t = u → u.nextRing = some (r, k) →
    u.tag (tagIdx ((d.toList.getD 0 0).toNat / 2 ^ 16)) = { gen := g } → tagGen ((d.toList.getD 0 0).toNat / 2 ^ 16) = g →
    (u.setRg (R.HOST.SQ_HEAD r) (BitVec.ofNat 32 ((u.fld (R.HOST.SQ_HEAD r) 11 0 + 1) % u.ringSize r))).setHost
      (fun h => { h with ring := r, took := k + 1 }) = v → u.host.late = none →
    exec (.descriptorFetch t d) s = .next ((v.setTag (tagIdx ((d.toList.getD 0 0).toNat / 2 ^ 16)) { gen := g, st := 1 }).setHost
      (fun h => { h with cmds := h.cmds ++ [{ ring := r, desc := d.toList, ended := badDesc (v.fld (R.HOST.SQ_CFG r) 6 5) d.toList }] }))) ∧
  -- REG_READ: one read at DADDR, whose value the completion returns (R495)
  (∀ (s u w : State) (t : Time) (r : Fin 8) (i : Nat) (c : HostCmd) (v : DWord), s.tick t = u → u.ringCmd r 1 = some (i, c) →
    u.sysRead .host c.daddr c.len 0xff = (v, w) →
    exec (.regRead t r) s = .next (w.endCmd i 0 c.len (some v))) ∧
  -- REG_WRITE: one write at DADDR (R495)
  (∀ (s u : State) (t : Time) (r : Fin 8) (i : Nat) (c : HostCmd), s.tick t = u → u.ringCmd r 2 = some (i, c) →
    exec (.regWrite t r) s = .next ((u.sysWrite .host c.daddr c.len 0xff (c.word 6 + c.word 7 * 2 ^ 32)).endCmd i 0 c.len none)) ∧
  -- COPY_IN: the words move to the device one by one (R495); a failing DMA ends the copy with DMA_ERR
  (∀ (s u : State) (t : Time) (r : Fin 8) (data : List Word) (ok : Bool) (i : Nat) (c : HostCmd), s.tick t = u →
    u.ringCmd r 3 = some (i, c) → c.aborted = false → u.pcieHeld = false →
    (u.dmaFails ok = false → exec (.copyIn t r data ok) s = .next ((data.foldl (fun (x : State) w => x.copyInWord i w)
      (u.setCmd i (fun c => { c with started := true, held := none }))).copyEnd i)) ∧
    (u.dmaFails ok = true → exec (.copyIn t r data ok) s = .next (u.dmaUsed.endCmd i 7 c.done none))) ∧
  -- COPY_OUT: the words move to the host one by one (R495)
  (∀ (s u : State) (t : Time) (r : Fin 8) (n : Fin 65536) (ok : Bool) (i : Nat) (c : HostCmd), s.tick t = u →
    u.ringCmd r 4 = some (i, c) → c.aborted = false → u.pcieHeld = false → u.dmaFails ok = false →
    exec (.copyOut t r n ok) s = .next (((List.range n).foldl (fun (x : State) _ => x.copyOutWord i)
      (u.setCmd i (fun c => { c with started := true, held := none }))).copyEnd i)) ∧
  -- TX_FRAME: the frame goes to the races named, and completes with OK when no port drops it (R495, R417)
  (∀ (s u v : State) (t : Time) (r : Fin 8) (b : List Byte) (ok : Bool) (i : Nat) (c : HostCmd), s.tick t = u →
    u.ringCmd r 5 = some (i, c) → c.aborted = false → u.pcieHeld = false → u.dmaFails ok = false → c.word 6 % 4 ≠ 0 →
    u.raceSendMask (c.word 6 % 4) ((b ++ List.replicate c.len 0).take c.len) = v →
    (u.raceUse 0).2 + (u.raceUse 1).2 + u.sendTargets (c.word 6 % 4) ((b ++ List.replicate c.len 0).take c.len) ≤
      (v.raceUse 0).2 + (v.raceUse 1).2 →
    exec (.txFrame t r b ok) s = .next (v.endCmd i 0 c.len none)) ∧
  -- HOST_NOP (R495)
  (∀ (s u : State) (t : Time) (r : Fin 8) (i : Nat) (c : HostCmd), s.tick t = u → u.ringCmd r 6 = some (i, c) →
    exec (.hostNop t r) s = .next (u.endCmd i 0 0 none)) ∧
  -- COMMAND_COMPLETION: the oldest command that has ended completes into its ring (R496); an aborted one is only counted (R502)
  (∀ (s u : State) (t : Time) (r : Fin 8) (i : Nat) (c : HostCmd) (e : CmdEnd), s.tick t = u →
    u.host.aborts.find? (fun x => x.1 == r.val) = none →
    u.host.cmds.findIdx? (fun c => c.ring == r.val && c.ended.isSome) = some i → u.host.cmds.getD i default = c → c.ended = some e →
    (c.aborted = false → u.hostOk = true → exec (.commandCompletion t r) s = .next ((u.dropCmd i).postOwn c e)) ∧
    (c.aborted = true → exec (.commandCompletion t r) s =
      .next (((u.dropCmd i).count R.HOST.TAG_ERR 15 0 1).irq R.HOST.base 2))) ∧
  -- COMMAND_COMPLETION while an ABORTED completion waited for the PCIe PLL: that one goes first (R501, R525)
  (∀ (s u : State) (t : Time) (r : Fin 8) (w n : Nat) (l : List (Nat × Nat × Nat)), s.tick t = u → u.hostOk = true →
    u.host.aborts = (r.val, w, n) :: l →
    exec (.commandCompletion t r) s = .next ((u.setHost (fun h => { h with aborts := l })).postCq r w 1 n none none)) ∧
  -- COMPLETION_ACK that consumes nothing new, no descriptor waiting for it: HEAD as written (R500)
  (∀ (s u : State) (t : Time) (m : Master) (r : Fin 8) (v : Word), s.tick t = u → u.Writable R.HOST.base →
    v.toNat < u.ringSize r → v.toNat = u.fld (R.HOST.CQ_HEAD r) 11 0 → u.host.late = none →
    exec (.completionAck t m r v) s = .next ((u.setRg (R.HOST.CQ_HEAD r) (BitVec.ofNat 32 (v.toNat % 4096))).setHost
      (fun h => { h with cq := vupd h.cq r.val (fun l => l.drop 0) }))) ∧
  -- COMPLETION_ACK of the one completion owed frees its tag with the next generation (R500)
  (∀ (s u : State) (t : Time) (m : Master) (r : Fin 8) (v : Word) (i : Nat), s.tick t = u → u.Writable R.HOST.base →
    v.toNat < u.ringSize r → v.toNat = u.fld (R.HOST.CQ_HEAD r) 11 0 + 1 → vget u.host.cq r.val = [some i] → u.host.late = none →
    exec (.completionAck t m r v) s = .next ((((u.setTag i { gen := ((u.tag i).gen + 1) % 8 }).setRg (R.HOST.CQ_HEAD r)
      (BitVec.ofNat 32 (v.toNat % 4096)))).setHost (fun h => { h with cq := vupd h.cq r.val (fun l => l.drop 1) }))) ∧
  -- TAG_ABORT of a tag that is not in flight: ABORT_STAT and the interrupt (R501)
  (∀ (s u : State) (t : Time) (m : Master) (v : Word), s.tick t = u → u.Writable R.HOST.base →
    (u.tag (tagIdx (v.toNat % 2 ^ 16))).st ≠ 1 →
    exec (.tagAbort t m v) s = .next ((u.putBit R.HOST.ABORT_STAT 0 true).irq R.HOST.base 4)) ∧
  -- TAG_ABORT of a command that has ended: decided after the completions of its HCLK edge (R501)
  (∀ (s u : State) (t : Time) (m : Master) (v : Word) (k : Nat) (c : HostCmd), s.tick t = u → u.Writable R.HOST.base →
    (u.tag (tagIdx (v.toNat % 2 ^ 16))).st = 1 → (u.tag (tagIdx (v.toNat % 2 ^ 16))).gen = tagGen (v.toNat % 2 ^ 16) →
    u.abortee (v.toNat % 2 ^ 16) = some k → u.host.cmds.getD k default = c → c.ended.isSome = true →
    exec (.tagAbort t m v) s =
      .next (u.setHost (fun h => { h with abortDue := h.abortDue ++ [(hclkEdge u.now, v.toNat % 2 ^ 16)] }))) ∧
  -- TAG_ABORT of a command that has not started or ended: ABORTED is posted, the tag is quarantined, the command gone (R501, R502)
  (∀ (s u : State) (t : Time) (m : Master) (v : Word) (k : Nat) (c : HostCmd), s.tick t = u → u.Writable R.HOST.base →
    (u.tag (tagIdx (v.toNat % 2 ^ 16))).st = 1 → (u.tag (tagIdx (v.toNat % 2 ^ 16))).gen = tagGen (v.toNat % 2 ^ 16) →
    u.abortee (v.toNat % 2 ^ 16) = some k →
    u.host.cmds.getD k default = c → c.started = false → c.ended = none →
    exec (.tagAbort t m v) s = .next ((((u.putBit R.HOST.ABORT_STAT 0 false).postAborted c.ring (v.toNat % 2 ^ 16) c.done).setTag
      (tagIdx (v.toNat % 2 ^ 16)) { gen := (tagGen (v.toNat % 2 ^ 16) + 1) % 8, st := 3, at_ := u.now }).dropCmd k)) ∧
  -- TAG_QUARANTINE_END: the index is FREE again 2 ms after (R501)
  (∀ (s u : State) (t : Time) (i : Fin 8192), s.tick t = u → (u.tag i).st = 3 → (u.tag i).at_ + ms 2 ≤ u.now →
    exec (.tagQuarantineEnd t i) s = .next (u.setTag i { u.tag i with st := 0, at_ := 0 }))

/-- The commands SQ_DOORBELL, EVENT_RING_WRITE, FR_TAIL_WRITE, VEC_EOI, PCIE_RESET, PCIE_LINK_UP and BAR2_READ complete
(R376, R490, R491, R493, R494, R497, R498, R505, R511). -/
def Obligations.hostQueueCommandsComplete : Prop :=
  -- SQ_DOORBELL: TAIL as written (R493)
  (∀ (s u : State) (t : Time) (m : Master) (r : Fin 8) (v : Word), s.tick t = u → u.Writable R.HOST.base →
    exec (.sqDoorbell t m r v) s = .next (u.writeReg m R.HOST.base (R.HOST.SQ_TAIL r) v.toNat)) ∧
  -- EVENT_RING_WRITE of one record: it lies in the ring and leaves Q4, and the tail is written back (R497)
  (∀ (s u w : State) (t : Time) (e : EvRec), s.tick t = u → vget u.weir.queues 4 = [e] → u.bit R.HOST.EV_CFG 0 = true → u.hostOk = true →
    u.fld R.HOST.EV_CFG 4 1 = 4 → u.fld R.HOST.EV_HEAD 11 0 = 0 → u.fld R.HOST.EV_TAIL 11 0 = 0 →
    ((u.hostWords (u.rg64 R.HOST.EV_BASE) [e.word 0, e.word 1, e.word 2, e.word 3]).setRg R.HOST.EV_TAIL 1).hostWords
      (u.rg64 R.HOST.EV_WB) [1] = w →
    exec (.eventRingWrite t) s =
      .next (({ w with weir := { w.weir with queues := vupd w.weir.queues 4 (fun q => q.drop 1) } } : State).msiEntry 8)) ∧
  -- FR_TAIL_WRITE (R498)
  (∀ (s u : State) (t : Time) (m : Master) (f : Fin 2) (v : Word), s.tick t = u → u.Writable R.HOST.base →
    exec (.frTailWrite t m f v) s = .next (u.writeReg m R.HOST.base (R.HOST.FR_TAIL f) v.toNat)) ∧
  -- VEC_EOI of a routed vector that is still pending: its message goes out again (R505)
  (∀ (s u : State) (t : Time) (m : Master) (v : Word), s.tick t = u → u.Writable R.HOST.base → 12 ≤ v.toNat % 64 →
    bitN u.host.vecs (v.toNat % 64) = true →
    exec (.vecEoi t m v) s = .next (u.msiSend (v.toNat % 64))) ∧
  -- PCIE_RESET with an idle interface: the registers of the HOST page and its header return to reset, the link is down (R494)
  (∀ (s u : State) (t : Time), s.tick t = u → u.host.tags = [] → u.host.cmds = [] → u.pcieUp = true →
    exec (.pcieReset t true) s = .next (((({ u.setPage R.HOST.base (fun _ => {}) with
      regs := u.regs.filter (fun p => pageOf p.1 != R.HOST.base)
      host := { sent := u.host.sent } } : State).setRg R.HOST.STAT (u.rg R.HOST.STAT &&& 0xffffff80))).irq R.HOST.base 8)) ∧
  -- PCIE_LINK_UP: generation and width, and the interrupt when the link was down (R490, R511)
  (∀ (s u : State) (t : Time) (g : Fin 4) (w : Fin 3), s.tick t = u → u.pcieUp = false →
    exec (.pcieLinkUp t g w) s =
      .next ((u.putFld R.HOST.STAT 6 0 (1 + (g.val + 1) * 2 + 2 ^ w.val * 2 ^ 4)).irq R.HOST.base 8)) ∧
  -- BAR2_READ of the pond (R491)
  (∀ (s u : State) (t : Time) (a : BitVec 25) (w : Width), s.tick t = u → u.up = true → a.toNat < 0x800000 → a.toNat % w.bytes = 0 →
    exec (.bar2Read t a w) s = .next { u with rd := BitVec.ofNat 64 (Memory.readN u.mem (pondBase + a.toNat) w.bytes) }) ∧
  -- BAR2_READ of the Hopper memory, with the parity check of its words (R376, R541)
  (∀ (s u v : State) (t : Time) (a : BitVec 25) (w : Width), s.tick t = u → u.up = true → 0x1000000 ≤ a.toNat →
    a.toNat % w.bytes = 0 → u.bistOn 3 0 = false →
    (if w.bytes = 8 then (u.hopParity ((hopperBase + (a.toNat - 0x1000000)) / 4 * 4)).hopParity (hopperBase + (a.toNat - 0x1000000) + 4)
      else u.hopParity ((hopperBase + (a.toNat - 0x1000000)) / 4 * 4)) = v →
    exec (.bar2Read t a w) s = .next { v with rd := BitVec.ofNat 64 (Memory.readN u.mem (hopperBase + (a.toNat - 0x1000000)) w.bytes) })

/-- The commands of the SPI port and the Weir's delivery complete (R72, R75, R353, R507 to R509, R513). -/
def Obligations.spiCommandsComplete : Prop :=
  -- SPI_FRAME of too few clocks: discarded with code 1 (R508)
  (∀ (s u v : State) (t first : Time) (o : DWord) (clocks : Fin 256) (mosi : BitVec 72) (idle mode3 : Bool), s.tick t = u → u.up = true →
    0 < clocks.val → clocks.val < 72 → u.spiOut first = (o, v) →
    exec (.spiFrame t clocks mosi idle mode3 first) s = .next (((({ v with rd := o } : State).putBit (R.PG_ERRINJ R.SPI.base) 16 false).putBit
      R.SPI.STAT 2 mode3).spiDiscard 1)) ∧
  -- SPI_FRAME of 72 clocks with its CRC and the opcode NOP: accepted and counted (R507, R508)
  (∀ (s u : State) (t first : Time) (clocks : Fin 256) (mosi : BitVec 72) (mode3 : Bool), s.tick t = u → u.up = true →
    clocks.val = 72 → bitsN mosi.toNat 71 64 = 0 → spiCrc (mosi.toNat / 256) = mosi.toNat % 256 →
    u.bit (R.PG_ERRINJ R.SPI.base) 16 = false →
    exec (.spiFrame t clocks mosi true mode3 first) s = .next (({ (({ (u.spiOut first).2 with rd := (u.spiOut first).1 } : State).putBit
      (R.PG_ERRINJ R.SPI.base) 16 false).putBit R.SPI.STAT 2 mode3 with spi := { (u.spiOut first).2.spi with code := 0 } } : State).count
      R.SPI.FRAMES 31 0 1)) ∧
  -- SPI_READ that is accepted: counted, and the read is made; its data follow in a later frame (R508, R509)
  (∀ (s u v : State) (t first : Time) (a : BitVec 24) (x : DWord) (mode3 : Bool), s.tick t = u → u.up = true → u.spi.read = none →
    u.bit (R.PG_ERRINJ R.SPI.base) 16 = false →
    (({ (({ u with rd := (u.spiOut first).1 } : State).putBit (R.PG_ERRINJ R.SPI.base) 16 false).putBit R.SPI.STAT 2 mode3 with
      spi := { u.spi with code := 0 } } : State).count R.SPI.FRAMES 31 0 1).busRead .spi (4 * a.toNat) 4 15 = (x, v) →
    exec (.spiRead t a mode3 first) s = .next { v with spi := { v.spi with read := some (a.toNat, x.truncate 32, none) } }) ∧
  -- SPI_WRITE that is accepted: counted, and the write is made (R508)
  (∀ (s u : State) (t first : Time) (a : BitVec 24) (w : Word) (mode3 : Bool), s.tick t = u → u.up = true → u.spi.read = none →
    u.bit (R.PG_ERRINJ R.SPI.base) 16 = false →
    exec (.spiWrite t a w mode3 first) s = .next ((({ (({ u with rd := (u.spiOut first).1 } : State).putBit (R.PG_ERRINJ R.SPI.base) 16 false).putBit
      R.SPI.STAT 2 mode3 with spi := { u.spi with code := 0 } } : State).count R.SPI.FRAMES 31 0 1).busWrite .spi (4 * a.toNat) 4 15 w.toNat)) ∧
  -- SPI_NOP: counted (R507)
  (∀ (s u : State) (t first : Time) (mode3 : Bool), s.tick t = u → u.up = true → u.spi.read = none →
    u.bit (R.PG_ERRINJ R.SPI.base) 16 = false →
    exec (.spiNop t mode3 first) s = .next (({ (({ u with rd := (u.spiOut first).1 } : State).putBit (R.PG_ERRINJ R.SPI.base) 16 false).putBit
      R.SPI.STAT 2 mode3 with spi := { u.spi with code := 0 } } : State).count R.SPI.FRAMES 31 0 1)) ∧
  -- SPI_READ_DONE: the data of the read are there from now on (R509)
  (∀ (s u : State) (t : Time) (a : Nat) (w : Word), s.tick t = u → u.spi.read = some (a, w, none) →
    exec (.spiReadDone t) s = .next { u with spi := { u.spi with read := some (a, w, some u.now) } }) ∧
  -- WEIR_DELIVERY of the second record of an edge: the first event in order goes to its queues (R72, R75)
  (∀ (s u : State) (t : Time) (e : EvRec), s.tick t = u → u.weir.lastEdge = floorEdge u.now → u.weir.atEdge = 1 → u.weir.stalled = [] →
    firstEvent (u.weir.pend.filter (fun e => e.stamp + horizon ≤ floorEdge u.now)) = some e →
    exec (.weirDelivery t []) s = .next (((u.deliverOne (floorEdge u.now) e).overflowPosts (floorEdge u.now)).latchRecords))

/-- The commands of the feedback ports complete (R87 to R90, R95, R98, R99, R103 to R108, R111, R112, R114, R571). -/
def Obligations.portCommandsComplete : Prop :=
  -- FEEDBACK_EDGE on an enabled port, the first of its line: it is accepted (R88)
  (∀ (s u v : State) (t stamp : Time) (n : Fin 48) (line : Fin 3) (level : Bool), s.tick t = u → u.en (R.FBP.base n) = true →
    lineUsed (u.fbMode n) line = true → (vget (vget u.fbp n).lines line).accStamp = none →
    u.setFbp n (fun p => { p with lines := vupd p.lines line.val (fun l => { l with raw := level }) }) = v →
    exec (.feedbackEdge t n line stamp level true) s = .next ((v.acceptEdge n line stamp
      (level != u.bit (R.FBP.CTRL n) (10 + line.val))).refreshFrames n (fun tk => decide (stamp ≤ tk))).commLate) ∧
  -- FEEDBACK_EDGE after an accepted one: accepted from MIN_INT on, rejected before (R88)
  (∀ (s u v : State) (t stamp a : Time) (n : Fin 48) (line : Fin 3) (level : Bool), s.tick t = u → u.en (R.FBP.base n) = true →
    lineUsed (u.fbMode n) line = true → (vget (vget u.fbp n).lines line).accStamp = some a →
    u.setFbp n (fun p => { p with lines := vupd p.lines line.val (fun l => { l with raw := level }) }) = v →
    (a + u.minInt n ≤ stamp → exec (.feedbackEdge t n line stamp level true) s = .next ((v.acceptEdge n line stamp
      (level != u.bit (R.FBP.CTRL n) (10 + line.val))).refreshFrames n (fun tk => decide (stamp ≤ tk))).commLate) ∧
    (stamp < a + u.minInt n → exec (.feedbackEdge t n line stamp level true) s =
      .next ((v.rejectEdge n line stamp true).refreshFrames n (fun tk => decide (stamp ≤ tk))).commLate)) ∧
  -- MIN_INT_EXPIRY with the level left by the accepted edge: the rejections are forgotten (R89)
  (∀ (s u : State) (t a : Time) (n : Fin 48) (line : Fin 3), s.tick t = u → u.en (R.FBP.base n) = true →
    (vget (vget u.fbp n).lines line).accStamp = some a → a + u.minInt n ≤ u.now → (vget (vget u.fbp n).lines line).rejStamped = true →
    u.lineLevel n line = (vget (vget u.fbp n).lines line).accLevel →
    exec (.minIntExpiry t n line) s = .next ((u.setFbp n (fun p => { p with lines := vupd p.lines line.val (fun l =>
      { l with rejStamped := false, rejPlain := false }) })).refreshFrames n (fun tk => decide (a + u.minInt n ≤ tk))).commLate) ∧
  -- MIN_INT_EXPIRY with another level after a stamped edge was rejected: an edge of the present level is accepted, stamped
  -- with the instant the interval expired (R89)
  (∀ (s u v : State) (t a : Time) (n : Fin 48) (line : Fin 3), s.tick t = u → u.en (R.FBP.base n) = true →
    (vget (vget u.fbp n).lines line).accStamp = some a → a + u.minInt n ≤ u.now → (vget (vget u.fbp n).lines line).rejStamped = true →
    u.lineLevel n line ≠ (vget (vget u.fbp n).lines line).accLevel →
    u.setFbp n (fun p => { p with lines := vupd p.lines line.val (fun l => { l with rejStamped := false, rejPlain := false }) }) = v →
    exec (.minIntExpiry t n line) s = .next ((v.acceptEdge n line (a + u.minInt n) (u.lineLevel n line)).refreshFrames n
      (fun tk => decide (a + u.minInt n ≤ tk))).commLate) ∧
  -- MIN_INT_EXPIRY with another level in modes 0 and 1 after unstamped edges alone: an illegal transition (R89, R91)
  (∀ (s u v : State) (t a : Time) (n : Fin 48) (line : Fin 3), s.tick t = u → u.en (R.FBP.base n) = true → u.fbMode n < 2 →
    (vget (vget u.fbp n).lines line).accStamp = some a → a + u.minInt n ≤ u.now → (vget (vget u.fbp n).lines line).rejStamped = false →
    (vget (vget u.fbp n).lines line).rejPlain = true → u.lineLevel n line ≠ (vget (vget u.fbp n).lines line).accLevel →
    u.setFbp n (fun p => { p with lines := vupd p.lines line.val (fun l => { l with rejStamped := false, rejPlain := false }) }) = v →
    exec (.minIntExpiry t n line) s = .next ((v.illegal n (a + u.minInt n)).refreshFrames n (fun tk => decide (a + u.minInt n ≤ tk))).commLate) ∧
  -- GLITCH_GATHERED_POST: 1 µs after the last post the gathered edges are posted (R90)
  (∀ (s u : State) (t l : Time) (n : Fin 48), s.tick t = u → (vget u.fbp n).glLast = some l → 0 < (vget u.fbp n).glCount →
    l + us 1 ≤ u.now →
    exec (.glitchGatheredPost t n) s = .next ((u.post n 0x02 (l + us 1) (min 0xFFFF (vget u.fbp n).glCount +
      (vget u.fbp n).glLines * 2 ^ 16)).setFbp n (fun p => { p with glCount := 0, glLines := 0, glLast := some (l + us 1) }))) ∧
  -- FBP_CONFIG_WRITE while EN = 0 (R87); refused while EN = 1 (R117)
  (∀ (s u : State) (t : Time) (m : Master) (n : Fin 48) (v : Word), s.tick t = u → u.Writable (R.FBP.base n) →
    (u.en (R.FBP.base n) = false → bitsN v.toNat 3 0 < 6 → bitsN v.toNat 18 17 ≠ 3 →
      exec (.fbpConfigWrite t m n v) s = .next (u.setRg (R.FBP.CTRL n) (BitVec.ofNat 32 (v.toNat % 2 ^ 19)))) ∧
    (u.en (R.FBP.base n) = true → exec (.fbpConfigWrite t m n v) s = .next (u.cfgRefused (R.FBP.base n)))) ∧
  -- PORT_ENABLE (R87)
  (∀ (s u : State) (t : Time) (m : Master) (n : Fin 48), s.tick t = u → u.Writable (R.FBP.base n) → u.en (R.FBP.base n) = false →
    exec (.portEnable t m n) s = .next ((u.putBit (R.PG_CTRL (R.FBP.base n)) 0 true).fbEnable n)) ∧
  -- RESTORE within the limits, with no saturation and no fault: POS_VALID again, and VALID is posted (R98)
  (∀ (s u : State) (t : Time) (m : Master) (n : Fin 48), s.tick t = u → u.Writable (R.FBP.base n) → u.fbSat n = false →
    (u.posValid n = true ∨ (vget u.fbp n).lost = .limit) → u.fbLo n ≤ u.fbPlace n → u.fbPlace n ≤ u.fbHi n →
    exec (.fbRestore t m n) s = .next (((u.setPos n (u.fbPlace n) 0 false (u.fbSide n)).setValid n).post n 0x06 (ceilEdge u.now) 2)) ∧
  -- SET loads POS_SET_VAL (R98)
  (∀ (s u v : State) (t : Time) (m : Master) (n : Fin 48), s.tick t = u → u.Writable (R.FBP.base n) →
    u.setCounter n (u.sgn64 (R.FBP.POS_SET_VAL n)) (ceilEdge u.now) = v →
    ((u.fbMode n < 3 ∨ (vget u.fbp n).lost ≠ .fault) → exec (.fbSet t m n) s = .next ((v.setValid n).post n 0x06 (ceilEdge u.now) 0)) ∧
    (3 ≤ u.fbMode n → (vget u.fbp n).lost = .fault → exec (.fbSet t m n) s = .next (v.post n 0x06 (ceilEdge u.now) 0))) ∧
  -- ZSET_ARM in mode 0 (R95)
  (∀ (s u : State) (t : Time) (m : Master) (n : Fin 48), s.tick t = u → u.Writable (R.FBP.base n) → u.fbMode n = 0 →
    exec (.fbZsetArm t m n) s = .next (u.putBit (R.FBP.STAT n) 11 true)) ∧
  -- ZSET_DISARM in mode 0 (R95)
  (∀ (s u : State) (t : Time) (m : Master) (n : Fin 48), s.tick t = u → u.Writable (R.FBP.base n) → u.fbMode n = 0 →
    exec (.fbZsetDisarm t m n) s = .next (u.putBit (R.FBP.STAT n) 11 false)) ∧
  -- RELOAD in a serial mode: the next word loads (R98)
  (∀ (s u : State) (t : Time) (m : Master) (n : Fin 48), s.tick t = u → u.Writable (R.FBP.base n) → 3 ≤ u.fbMode n →
    exec (.fbReload t m n) s = .next (u.setFbp n (fun p => { p with reload := true }))) ∧
  -- LIMIT_WRITE of a high limit that keeps the counter inside: the limit and the flags (R99); an empty range is refused
  (∀ (s u : State) (t : Time) (m : Master) (n : Fin 48) (v : DWord), s.tick t = u → u.Writable (R.FBP.base n) → in48 v.toNat = true →
    (u.fbLo n ≤ sx 64 v.toNat → u.fbLo n ≤ u.fbCount n → u.fbCount n ≤ sx 64 v.toNat →
      exec (.limitWrite t m n true v) s = .next ((u.setRg64 (R.FBP.LIM_HI n) v.toNat).limFlags n)) ∧
    (sx 64 v.toNat < u.fbLo n → exec (.limitWrite t m n true v) s = .next (u.cfgRefused (R.FBP.base n)))) ∧
  -- SERIAL_REQUEST at SER_LEAD before the sample instant of a primary user (R103)
  (∀ (s u : State) (t tk : Time) (n : Fin 48), s.tick t = u → u.en (R.FBP.base n) = true → u.fbMode n = 4 →
    u.requestAt n tk = true → tk - ns (u.fld (R.FBP.SER_LEAD n) 19 0) ≤ u.now → (vget u.fbp n).endPrev = none → (vget u.fbp n).req = none →
    exec (.serialRequest t n tk) s = .next (u.setFbp n (fun p => { p with req := some (tk - ns (u.fld (R.FBP.SER_LEAD n) 19 0), tk) }))) ∧
  -- SERIAL_WORD with its CRC wrong: counted, posted and a failed request (R106)
  (∀ (s u v : State) (t tr tk : Time) (n : Fin 48) (d crc : List Bool), s.tick t = u → (vget u.fbp n).req = some (tr, tk) →
    u.fbMode n = 4 → u.bit (R.PG_ERRINJ (R.FBP.base n)) 17 = false → u.fld (R.FBP.SER_CRC n) 20 20 = 0 →
    (u.setFbp n (fun p => { p with req := none, endPrev := some u.now })).setRg64 (R.FBP.SER_RAW n)
      (ofBitsMsb d % 2 ^ u.fld (R.FBP.SER_CFG n) 5 0) = v → v.bit (R.PG_ERRINJ (R.FBP.base n)) 17 = false →
    v.rg (R.FBP.SER_CRC n) = u.rg (R.FBP.SER_CRC n) →
    crcMsb (u.fld (R.FBP.SER_CRC n) 19 16 + 1) (u.fld (R.FBP.SER_CRC n) 15 0) 0 (bitsMsb (u.fld (R.FBP.SER_CFG n) 5 0)
      (ofBitsMsb d % 2 ^ u.fld (R.FBP.SER_CFG n) 5 0)) ≠ ofBitsMsb crc % 2 ^ (u.fld (R.FBP.SER_CRC n) 19 16 + 1) →
    exec (.serialWord t n d crc) s = .next ((v.serErr n 0x09 (R.FBP.SER_ERRCNT n) 7 tr).serFail n tr)) ∧
  -- SERIAL_WORD of an SSI port: the position word is taken (R104, R109)
  (∀ (s u v : State) (t tr tk : Time) (n : Fin 48) (d crc : List Bool), s.tick t = u → (vget u.fbp n).req = some (tr, tk) →
    u.fbMode n = 3 → u.bit (R.PG_ERRINJ (R.FBP.base n)) 17 = false → u.bit (R.FBP.SER_CFG n) 9 = false →
    tr + ns ((u.fld (R.FBP.SER_CFG n) 5 0 + 1) * u.fld (R.FBP.SER_CLK n) 13 0 + u.fld (R.FBP.SER_CFG n) 25 16) ≤ u.now → u.now ≤ tk →
    (u.setFbp n (fun p => { p with req := none, endPrev := some (tr + ns ((u.fld (R.FBP.SER_CFG n) 5 0 + 1) * u.fld (R.FBP.SER_CLK n) 13 0 +
      u.fld (R.FBP.SER_CFG n) 25 16)) })).setRg64 (R.FBP.SER_RAW n) (ofBitsMsb d % 2 ^ u.fld (R.FBP.SER_CFG n) 5 0) = v →
    v.bit (R.PG_ERRINJ (R.FBP.base n)) 17 = false → v.fbMode n = 3 → v.fld (R.FBP.SER_LAT n) 19 0 = u.fld (R.FBP.SER_LAT n) 19 0 →
    exec (.serialWord t n d crc) s = .next (v.acceptWord n (u.fld (R.FBP.SER_CFG n) 5 0 - u.fld (R.FBP.SER_CFG n) 8 6)
      (ofBitsMsb d % 2 ^ u.fld (R.FBP.SER_CFG n) 5 0 / 2 ^ u.fld (R.FBP.SER_CFG n) 8 6)
      ((tr : Int) + ns (u.fld (R.FBP.SER_LAT n) 19 0)) tr (tr + ns ((u.fld (R.FBP.SER_CFG n) 5 0 + 1) * u.fld (R.FBP.SER_CLK n) 13 0 +
      u.fld (R.FBP.SER_CFG n) 25 16)))) ∧
  -- SERIAL_TIMEOUT: no start bit within SER_TMO of a BiSS-C request (R105)
  (∀ (s u : State) (t tr tk : Time) (n : Fin 48), s.tick t = u → (vget u.fbp n).req = some (tr, tk) → u.fbMode n = 4 →
    tr + ns (u.fld (R.FBP.SER_TMO n) 19 0) ≤ u.now →
    exec (.serialTimeout t n) s = .next (((u.setFbp n (fun p => { p with req := none, endPrev := some u.now })).serErr n 0x0A
      (R.FBP.SER_ERRCNT n) 15 tr).serFail n tr)) ∧
  -- SENT_FRAME whose sync pulse is out of tolerance: only the pulse is remembered (R107)
  (∀ (s u : State) (t fall : Time) (n : Fin 48) (sync : Nat) (status crc : Fin 16) (d : List Nat), s.tick t = u →
    u.en (R.FBP.base n) = true → u.fbMode n = 5 → 5 * (56 * ns (u.fld (R.FBP.SENT_CFG n) 16 0)) < 4 * sync →
    exec (.sentFrame t n sync fall status d crc) s = .next (u.setFbp n (fun p => { p with sync := some sync }))) ∧
  -- SENT_FRAME that is good: its word is taken (R107, R108)
  (∀ (s u v : State) (t fall : Time) (n : Fin 48) (sync : Nat) (status crc : Fin 16) (d : List Nat), s.tick t = u →
    u.en (R.FBP.base n) = true → u.fbMode n = 5 → 3 * (56 * ns (u.fld (R.FBP.SENT_CFG n) 16 0)) ≤ 4 * sync →
    4 * sync ≤ 5 * (56 * ns (u.fld (R.FBP.SENT_CFG n) 16 0)) → (vget u.fbp n).sync = none →
    sentCrc4 (u.bit (R.FBP.SENT_CFG n) 20) ((d.map (· % 16)).take (u.fld (R.FBP.SENT_CFG n) 19 17)) = crc.val →
    ((u.setFbp n (fun p => { p with sync := some sync })).setRg64 (R.FBP.SER_RAW n)
      (((d.map (· % 16)).take (u.fld (R.FBP.SENT_CFG n) 19 17)).foldl (fun a x => a * 16 + x) 0)).sentSlow n status = v →
    v.fld (R.FBP.SER_LAT n) 19 0 = u.fld (R.FBP.SER_LAT n) 19 0 →
    exec (.sentFrame t n sync fall status d crc) s = .next ((v.setFbp n (fun p => { p with sentLast := u.now })).acceptWord n
      (4 * u.fld (R.FBP.SENT_CFG n) 19 17) (((d.map (· % 16)).take (u.fld (R.FBP.SENT_CFG n) 19 17)).foldl (fun a x => a * 16 + x) 0)
      ((fall : Int) - ns (u.fld (R.FBP.SER_LAT n) 19 0)) fall u.now)) ∧
  -- SENT_TIMEOUT (R108)
  (∀ (s u : State) (t : Time) (n : Fin 48), s.tick t = u → u.en (R.FBP.base n) = true → u.fbMode n = 5 →
    (vget u.fbp n).sentLast + ns (u.fld (R.FBP.SER_TMO n) 19 0) ≤ u.now →
    exec (.sentTimeout t n) s = .next (((u.setFbp n (fun p => { p with
      sentLast := (vget u.fbp n).sentLast + ns (u.fld (R.FBP.SER_TMO n) 19 0) })).serErr n 0x0A (R.FBP.SER_ERRCNT n) 15
      ((vget u.fbp n).sentLast + ns (u.fld (R.FBP.SER_TMO n) 19 0))).serFail n
      ((vget u.fbp n).sentLast + ns (u.fld (R.FBP.SER_TMO n) 19 0)))) ∧
  -- LINE_FAULT of an enabled port whose pairs are all used as LVDS inputs (R111)
  (∀ (s u : State) (t : Time) (n : Fin 48) (p : Fin 8), s.tick t = u → u.en (R.FBP.base n) = true → u.fbMode n = 0 →
    u.fld (R.FBP.CTRL n) 6 4 = 0 → p.val ≠ 0 →
    exec (.lineFault t n p) s = .next (u.fbFault n 2 0x11 u.now p.val)) ∧
  -- EDGE_STALL after DIAG_INT under command without an edge (R111, R571)
  (∀ (s u : State) (t st : Time) (n : Fin 48) (a b : Fin 64), s.tick t = u → (vget u.fbp n).stall.find? (fun x => x.1 == a.val) = some (b.val, st) →
    st + us (u.fld (R.FBP.DIAG_INT n) 13 0) ≤ u.now → u.fbMode n < 3 →
    exec (.edgeStall t n a) s = .next ((u.setFbp n (fun p => { p with
      stall := (p.stall.filter (fun x => x.1 ≠ a.val)) ++ [(a.val, st + us (u.fld (R.FBP.DIAG_INT n) 13 0))] })).fbFault n 3 0x12 u.now a.val)) ∧
  -- FBP_FAULT_CLEAR: the written bits clear, and the port reports clear when none is left (R112, R469)
  (∀ (s u : State) (t : Time) (m : Master) (n : Fin 48) (v : Word), s.tick t = u → u.Writable (R.FBP.base n) →
    (u.rg (R.FBP.FAULT n) &&& ~~~v ≠ 0 → exec (.fbpFaultClear t m n v) s = .next (u.setRg (R.FBP.FAULT n) (u.rg (R.FBP.FAULT n) &&& ~~~v))) ∧
    (u.rg (R.FBP.FAULT n) ≠ 0 → u.rg (R.FBP.FAULT n) &&& ~~~v = 0 →
      exec (.fbpFaultClear t m n v) s = .next ((u.setRg (R.FBP.FAULT n) 0).reportClear 0x11 n))) ∧
  -- FB_SEL_WRITE: readable at once, in force from the first inner sample instant 100 ns later (R114)
  (∀ (s u : State) (t : Time) (m : Master) (a : Fin 64) (v : Word), s.tick t = u → u.Writable (R.AXIS.base a) →
    exec (.fbSelWrite t m a v) s = .next { u.setRg (R.AXIS.FB_SEL a) (BitVec.ofNat 32 (v.toNat &&& 0x7F7F)) with
      fbSel := vupd u.fbSel a.val (fun f => { f with pend := f.pend ++ [(BitVec.ofNat 32 (v.toNat &&& 0x7F7F), u.now + ns 100)] }) })

/-- The commands of the PWM generator complete (R144, R146, R148, R149, R152 to R154, R158, R159). -/
def Obligations.pwmCommandsComplete : Prop :=
  -- SLOT_ENABLE: the start instant is the first of the zero grid at least 100 ns on (R144)
  (∀ (s u v : State) (t : Time) (m : Master) (n : Fin 48), s.tick t = u → u.Writable (R.PWM.base n) → u.en (R.PWM.base n) = false →
    u.putBit (R.PG_CTRL (R.PWM.base n)) 0 true = v →
    exec (.slotEnable t m n) s = .next (v.setPw n (fun p => { p with
      start := some (v.gridFrom n (v.periodUsed n).1 ((v.now : Int) + ns 100)).toNat }))) ∧
  -- PWM_CONFIG_WRITE while EN = 1 or with a reserved value: refused (R146)
  (∀ (s u : State) (t : Time) (m : Master) (n : Fin 48) (v : Word), s.tick t = u → u.Writable (R.PWM.base n) →
    (u.en (R.PWM.base n) = true ∨ bitsN v.toNat 1 0 = 3 ∨ bitsN v.toNat 4 3 = 3 ∨ bitsN v.toNat 6 5 = 3) →
    exec (.pwmConfigWrite t m n v) s = .next (u.cfgRefused (R.PWM.base n))) ∧
  -- PWM_CONFIG_WRITE of an allowed value while EN = 0 (R146)
  (∀ (s u w : State) (t : Time) (m : Master) (n : Fin 48) (v : Word), s.tick t = u → u.Writable (R.PWM.base n) → u.en (R.PWM.base n) = false →
    bitsN v.toNat 1 0 ≠ 3 → bitsN v.toNat 4 3 ≠ 3 → bitsN v.toNat 6 5 ≠ 3 →
    (u.writeReg m (R.PWM.base n) (R.PWM.CTRL n) v.toNat).chopInactive n = w →
    exec (.pwmConfigWrite t m n v) s =
      .next (((((w.pickMask n w.now).cmpMuteSync n).ascSync n).ascReport n (u.bit (R.PSP.STAT n) 3)).slotEval n)) ∧
  -- REANCHOR_PAUSE_END: the counter runs on (R148)
  (∀ (s u : State) (t e : Time) (n : Fin 48) (x : Nat), s.tick t = u → (u.pw n).pause = some (e, x) → e ≤ u.now →
    exec (.reanchorPauseEnd t n) s = .next (((u.setPw n (fun p => { p with pause := none })).putBit (R.PWM.STAT n) 3 false).slotEval n)) ∧
  -- COMPARE_MATCH and DEAD_TIME_END: the outputs of the slot follow the counter (R149, R152, R153)
  (∀ (s u : State) (t : Time) (n : Fin 48), s.tick t = u →
    exec (.compareMatch t n) s = .next (u.slotEval n) ∧ exec (.deadTimeEnd t n) s = .next (u.slotEval n)) ∧
  -- TRIP_SOURCE_CHANGE of FLTB with a filter: the raw level is held with its instant (R154)
  (∀ (s u : State) (t : Time) (n : Fin 48) (level : Bool), s.tick t = u → (vget (u.pw n).filt 1).raw = level → u.tripLen n 1 ≠ 0 →
    (vget (u.pw n).filt 1).out = level → (vget (u.pw n).filt 1).left = none → (u.pw n).tripFrom ≤ u.now →
    exec (.tripSourceChange t (.fltb n) level) s =
      .next (u.setPw n (fun p => { p with filt := vupd p.filt 1 (fun f => { f with raw := !level, since := u.now, left := none }) }))) ∧
  -- TRIP_FILTER_EXPIRY: the level has held for LEN samples (R154)
  (∀ (s u : State) (t : Time) (n : Fin 48) (k : Fin 18) (b : Bool), s.tick t = u → (vget (u.pw n).filt k).raw = b →
    (vget (u.pw n).filt k).out ≠ b → u.tripDue n k (vget (u.pw n).filt k).since ≤ u.now →
    exec (.tripFilterExpiry t n k) s = .next ((u.setPw n (fun p => { p with
      filt := vupd p.filt k.val (fun f => { f with out := f.raw, left := none }) })).srcSet n k b)) ∧
  -- COMM_ENABLE: the port's Hall state is taken over, from the next TCLK edge (R158)
  (∀ (s u : State) (t : Time) (m : Master) (n : Fin 48) (port : Fin 64), s.tick t = u → u.Writable (R.PWM.base n) →
    exec (.commEnable t m n port) s = .next ((u.writeReg m (R.PWM.base n) (R.PWM.COMM_CFG n) (1 + 2 * port.val)).maskFrom n)) ∧
  -- COMM: one mask application that is due and not late (R158)
  (∀ (s u v : State) (t c : Time) (n : Fin 48) (h : Nat), s.tick t = u → (u.pw n).commPend = [(c, h, c)] → c ≤ u.now →
    u.setPw n (fun p => { p with commPend := p.commPend.erase (c, h, c) }) = v →
    exec (.pwmComm t n) s = .next ((v.setHall n h c).slotEval n)) ∧
  -- OVERRIDE switched on with an allowed mask: posted, and the mask applies from the next TCLK edge (R159)
  (∀ (s u : State) (t : Time) (m : Master) (n : Fin 48) (v : Word), s.tick t = u → u.Writable (R.PWM.base n) →
    u.maskValid n (bitsN v.toNat 15 0) = true → u.bit (R.PWM.OVR_MASK n) 16 = false → bitN v.toNat 16 = true →
    exec (.pwmOverride t m n v) s = .next (((u.writeReg m (R.PWM.base n) (R.PWM.OVR_MASK n) v.toNat).post (slotSrc n) 0x08
      (ceilEdge (u.now + 1)) 1).maskFrom n)) ∧
  -- OVERRIDE with a mask that R156 does not allow: refused (R156)
  (∀ (s u : State) (t : Time) (m : Master) (n : Fin 48) (v : Word), s.tick t = u → u.Writable (R.PWM.base n) →
    u.maskValid n (bitsN v.toNat 15 0) = false →
    exec (.pwmOverride t m n v) s = .next (u.cfgRefused (R.PWM.base n)))

/-- The commands of the power stage protection complete (R165, R169, R171 to R173, R178, R180 to R183). -/
def Obligations.protectionCommandsComplete : Prop :=
  -- PROTECTION_ENABLE (R165)
  (∀ (s u : State) (t : Time) (m : Master) (n : Fin 48), s.tick t = u → u.Writable (R.PSP.base n) → u.en (R.PSP.base n) = false →
    exec (.protectionEnable t m n) s = .next ((u.putBit (R.PG_CTRL (R.PSP.base n)) 0 true).pspEnable n)) ∧
  -- DEGRADE_TIMEOUT at L2 after DEG_TIME: L3 (R169)
  (∀ (s u : State) (t t0 : Time) (n : Fin 48), s.tick t = u → (u.ps n).degAt = some t0 → u.slotLevel n = 2 →
    t0 + ms (nz (u.fld (R.PSP.DEG_TIME n) 15 0)) ≤ u.now →
    exec (.degradeTimeout t n) s = .next ((u.raiseLevel n 3).slotEval n)) ∧
  -- STOP_TIMEOUT at L3 after STOP_TMAX: L4 (R169)
  (∀ (s u : State) (t t0 : Time) (n : Fin 48), s.tick t = u → (u.ps n).stopAt = some t0 → (u.ps n).degAt = none → u.slotLevel n = 3 →
    t0 + ms (nz (u.fld (R.PSP.STOP_TMAX n) 15 0)) ≤ u.now →
    exec (.stopTimeout t n) s = .next ((u.raiseLevel n 4).slotEval n)) ∧
  -- PROTECTION_CLEAR by the SPI or the debug port: refused (R171)
  (∀ (s u : State) (t : Time) (m : Master) (n : Fin 48) (v : Word), s.tick t = u → u.Writable (R.PSP.base n) → (m = .spi ∨ m = .debug) →
    exec (.protectionClear t m n v) s = .next (u.putBit (R.PG_STAT (R.PSP.base n)) 16 true)) ∧
  -- PROTECTION_CLEAR by another master: the bits are judged one by one, or kept until a running self-test ends (R171)
  (∀ (s u : State) (t : Time) (m : Master) (n : Fin 48) (v : Word), s.tick t = u → u.Writable (R.PSP.base n) → m ≠ .spi → m ≠ .debug →
    ((u.ps n).test = none → exec (.protectionClear t m n v) s = .next (u.clearBits n (v.toNat % 2 ^ 20))) ∧
    ((u.ps n).test ≠ none → exec (.protectionClear t m n v) s =
      .next (u.setPs n (fun p => { p with clearPend := p.clearPend ||| v.toNat % 2 ^ 20 })))) ∧
  -- BW_REQUEST: the earliest issued level of the slot that is due arrives (R173)
  (∀ (s u : State) (t d : Time) (n : Fin 48) (l : Nat), s.tick t = u →
    u.bw.reqs.find? (fun r => r.1 == n.val && decide (r.2.2 ≤ u.now)) = some (n.val, l, d) →
    exec (.bwRequest t n) s = .next (({ u with bw := { u.bw with reqs := u.bw.reqs.erase (n.val, l, d) } } : State).bwRequest n l)) ∧
  -- SLOT_STO_GATE: the gate that the Brakewheel issued 20 ns ago (R25, R178)
  (∀ (s u : State) (t d : Time) (n : Fin 48) (g : Bool), s.tick t = u →
    u.bw.gateReqs.filter (fun r => r.1 == n.val && decide (r.2.2 ≤ u.now)) = [(n.val, g, d)] →
    exec (.slotStoGate t n) s = .next (({ u.setPw n (fun p => { p with sto := g }) with bw := { u.bw with
      gateReqs := u.bw.gateReqs.filter (fun r => !(r.1 == n.val && decide (r.2.2 ≤ u.now))) } } : State).slotEval n)) ∧
  -- SELF_TEST_START that is refused: TEST_REFUSED (R180)
  (∀ (s u : State) (t : Time) (m : Master) (n : Fin 48) (v : Word), s.tick t = u → u.Writable (R.PSP.base n) →
    u.testRefused n v.toNat = true →
    exec (.selfTestStart t m n v) s = .next (u.putBit (R.PSP.TEST_STAT n) 3 true)) ∧
  -- SELF_TEST_START that is accepted: the first phase begins (R180, R181)
  (∀ (s u : State) (t : Time) (m : Master) (n : Fin 48) (v : Word), s.tick t = u → u.Writable (R.PSP.base n) →
    u.testRefused n v.toNat = false →
    exec (.selfTestStart t m n v) s = .next (((u.setPs n (fun p => { p with test := some ⟨bitsN v.toNat 2 0, bitN v.toNat 3, bitN v.toNat 4, false,
      u.now, u.now + u.phaseLimit n (bitsN v.toNat 2 0) (bitN v.toNat 4), false, none, u.testFlag n (bitsN v.toNat 2 0) (bitN v.toNat 3),
      maskOf 8 (fun i => (u.gate n i).on), u.slotLevel n, u.now⟩ })).setRg
      (R.PSP.TEST_STAT n) (BitVec.ofNat 32 (1 + bitsN v.toNat 2 0 * 2 ^ 4 + b2n (bitN v.toNat 3) * 2 ^ 7 + b2n (bitN v.toNat 4) * 2 ^ 8))).putBit
      (R.PSP.STAT n) 16 true)) ∧
  -- SELF_TEST_PHASE_END of the first phase, on the flag change in time: the second phase begins (R181)
  (∀ (s u v : State) (t : Time) (n : Fin 48) (ts : TestSt) (line : List Time × List (Time × Bool)), s.tick t = u →
    (u.ps n).test = some ts → ts.clear = false → ts.flag0 = false → u.testUpdate n ts line.1 line.2 = v →
    v.testFlag n ts.target ts.side = true → v.now ≤ ts.limit →
    exec (.selfTestPhaseEnd t n line) s = .next (v.setPs n (fun p => { p with test := some { ts with
      clear := true, start := v.now, limit := v.now + v.phaseLimit n ts.target ts.threshold, flag0 := true, firstOk := true
      setAt := some (v.now - ts.start) } }))) ∧
  -- SELF_TEST_PHASE_END of the second phase, both changes in time: the test passes, and the trip paths follow again (R181, R182)
  (∀ (s u v : State) (t : Time) (n : Fin 48) (ts : TestSt) (line : List Time × List (Time × Bool)), s.tick t = u →
    (u.ps n).test = some ts → ts.clear = true → ts.flag0 = true → ts.firstOk = true → u.testUpdate n ts line.1 line.2 = v →
    v.testFlag n ts.target ts.side = false → v.now ≤ ts.limit →
    exec (.selfTestPhaseEnd t n line) s = .next ((v.testFinish n ts 1).testRestore n ts)) ∧
  -- SELF_TEST_PHASE_END at the limit of a phase whose flag did not change as asked: a first phase goes on with the second, and
  -- a change that was possible counts as a failure (R181, R182)
  (∀ (s u v : State) (t : Time) (n : Fin 48) (ts : TestSt) (line : List Time × List (Time × Bool)), s.tick t = u →
    (u.ps n).test = some ts → u.testUpdate n ts line.1 line.2 = v → v.testFlag n ts.target ts.side = ts.flag0 → ts.limit ≤ v.now →
    v.testImpossible n ts = false →
    (ts.clear = false → exec (.selfTestPhaseEnd t n line) s = .next (v.setPs n (fun p => { p with test := some { ts with
      clear := true, start := v.now, limit := v.now + v.phaseLimit n ts.target ts.threshold, flag0 := ts.flag0, firstOk := false
      setAt := some 0 } }))) ∧
    (ts.clear = true → ts.firstOk = true → exec (.selfTestPhaseEnd t n line) s = .next ((v.testFinish n ts 2).testRestore n ts))) ∧
  -- CHOP_LIMIT, CHOP_COOL_END, CHOP_STALE and CHOP_MIN_ON_END: the chopper and the gates are evaluated (R183)
  (∀ (s u : State) (t : Time) (n : Fin 48), s.tick t = u →
    exec (.chopLimit t n) s = .next (u.slotEval n) ∧ exec (.chopCoolEnd t n) s = .next (u.slotEval n) ∧
    exec (.chopStale t n) s = .next (u.slotEval n) ∧ exec (.chopMinOnEnd t n) s = .next (u.slotEval n))

/-- The commands of current sensing and of the stepper's chopper complete (R119 to R121, R123, R126 to R129, R132 to R136, R327). -/
def Obligations.sensingCommandsComplete : Prop :=
  -- SINC3_WINDOW of an internally clocked input that is in time and clean: MAIN, the centre error, and the frames of its instant (R123, R124)
  (∀ (s u : State) (t run : Time) (n : Fin 48) (i : Fin 4) (clk : List Time) (pin mid : List (Time × Bool)) (w : SdWin) (rest : List SdWin)
    (bits : List Bool) (c0 fin : Int), s.tick t = u → (vget (u.sd n).ins i).wins = w :: rest → u.sdInt n i = true →
    u.windowBits n i w clk pin = some (bits, c0, fin) → fin ≤ (u.now : Int) → fin + ns 60 ≤ (w.ready : Int) →
    u.bit (R.PG_ERRINJ (R.SDM.base n)) 16 = false → (vget (u.sd n).ins i).stuck = none → (u.sd n).changed = none →
    (vget (u.sd n).ins i).manErr = none → (u.sd n).lost = none → ((u.sd n).since : Int) ≤ c0 →
    exec (.sinc3Window t n i clk pin mid run) s = .next ((((((((u.setIn n i (fun d => { d with wins := rest, past := d.past ++ [fin], inv := false })).setRg
      (R.SDM.IN_MAIN n i) (BitVec.ofInt 32 (sinc3 (u.osr n i) (bits.map (fun b => b != u.bit (R.SDM.IN_CFG n i) 4))))).setRg
      (R.SDM.IN_CENTRE_ERR n i) (BitVec.ofNat 32 (ux 16 ((c0 + fin) / 2 - w.tk)))).putBit (R.SDM.STAT n) i true).putBit (R.SDM.STAT n)
      (4 + i.val) (!u.centred n i w.tk)).slotFrames n w.tk (fun f => { f with
        words := vupd f.words (2 + i.val) (fun _ => BitVec.ofInt 32 (sinc3 (u.osr n i) (bits.map (fun b => b != u.bit (R.SDM.IN_CFG n i) 4))))
        good := f.good ||| 2 ^ i.val })).sdmInv n))) ∧
  -- SD_CLK_LOSS of an enabled external clock: CLK_LOSS, and every enabled input is invalid (R120, R127)
  (∀ (s u : State) (t last : Time) (n : Fin 48), s.tick t = u → u.en (R.SDM.base n) = true → u.sdExt n = true →
    last + 4 * u.sdP n ≤ u.now →
    exec (.sdClkLoss t n last) s = .next (((List.range 4).foldl (fun (w : State) i => if w.inEn n i then
      w.setIn n i (fun d => { d with inv := true }) else w)
      ((u.setSd n (fun d => { d with lost := some u.now, clk := false })).sdFault n 8 0x32 0)).sdmInv n)) ∧
  -- SD_MAN_ERR of an enabled Manchester input (R121)
  (∀ (s u : State) (t c : Time) (n : Fin 48) (i : Fin 4), s.tick t = u → u.inEn n i = true → u.bit (R.SDM.IN_CFG n i) 1 = true →
    exec (.sdManErr t n i c) s = .next (((u.setIn n i (fun d => { d with manErr := some c })).count (R.SDM.ERRCNT n) 15 0 1).sdFault n (4 + i.val) 0x31
      (i.val + 1 * 2 ^ 16))) ∧
  -- SD_STUCK after STUCK_N × 8 bits without a transition (R127)
  (∀ (s u : State) (t : Time) (n : Fin 48) (i : Fin 4) (run : Time × Nat), s.tick t = u → u.inEn n i = true →
    u.fld (R.SDM.IN_CFG n i) 31 24 ≠ 0 →
    run.1 + u.fld (R.SDM.IN_CFG n i) 31 24 * 8 * (if u.sdInt n i then u.sdP n else run.2) ≤ u.now →
    exec (.sdStuck t n i run) s = .next ((u.setIn n i (fun d => { d with stuck := some run.1 })).sdFault n i 0x30 i)) ∧
  -- SDM_CONFIG_WRITE of an input while EN = 1, or of CLK_CFG while EN = 0 and no division change waits (R119, R126)
  (∀ (s u : State) (t : Time) (m : Master) (n : Fin 48) (k : Fin 5) (v : Word), s.tick t = u → u.Writable (R.SDM.base n) →
    (k.val < 4 → u.en (R.SDM.base n) = true → exec (.sdmConfigWrite t m n k v) s = .next (u.cfgRefused (R.SDM.base n))) ∧
    (k.val = 4 → u.en (R.SDM.base n) = false → exec (.sdmConfigWrite t m n k v) s =
      .next (((u.setSd n (fun d => { d with
        dlys := d.dlys.filter (fun x => decide (u.now ≤ x.1 + ns 1000000)) ++ [(u.now, u.fld (R.SDM.CLK_CFG n) 23 16)] })).writeReg m
        (R.SDM.base n) (R.SDM.CLK_CFG n) v.toNat).divCommit n u.now))) ∧
  -- AUX_CONVERSION_START: the triggered conversion that waits first starts (R133)
  (∀ (s u : State) (t tk : Time) (m : Fin 2) (n j : Nat) (rest : List (Time × Nat × Nat)), s.tick t = u → (vget u.aux m).conv = none →
    (vget u.aux m).lastS = none → u.en (R.AUXADC.base m) = true → (vget u.aux m).queue = (tk, n, j) :: rest → tk ≤ u.now →
    exec (.auxConversionStart t m) s = .next (({ u with aux := vupd u.aux m.val (fun a => { a with
      conv := some ⟨j, max (ceilEdge tk) 0, some (tk, n)⟩, lastS := some (max (ceilEdge tk) 0), queue := rest }) } : State).auxStat m)) ∧
  -- AUX_CONVERSION_DONE: RESULT and STAMP, the frame words, and the choppers that the input serves (R132 to R134, R183)
  (∀ (s u v : State) (t : Time) (m : Fin 2) (x j : Nat) (st : Time) (r : Word), s.tick t = u →
    (vget u.aux m).conv = some ⟨j, st, none⟩ → st + ns 200 ≤ u.now → BitVec.ofNat 32 (adcCode x % 65536 * 2 ^ 15) = r →
    ((u.setRg (R.AUXADC.AIN_RESULT m j) r).setRg64 (R.AUXADC.AIN_STAMP m j) st).hopNode 4 (8 * m.val + j) r st = v →
    exec (.auxConversionDone t m x) s = .next ((List.range 48).foldl (fun (x : State) n =>
        if x.auxOf n 4 = some (8 * m.val + j) then x.slotEval n else x)
      ((List.range 64).foldl (fun (x : State) a => match x.slotOf a with
        | some n =>
          if x.auxOf n 5 = some (8 * m.val + j) then
            { x with ax := vupd x.ax a (fun y => { y with lv := y.lv.map (fun l => { l with frames := l.frames.map (fun f =>
              if !f.isReady ∧ st ≤ f.tk then { f with words := vupd f.words 16 (fun _ => r) } else f) }) }) }
          else x
        | none => x)
        (({ v with aux := vupd v.aux m.val (fun a => { a with
          conv := none, doneAt := vupd a.doneAt j (fun _ => some (st + ns 200)) }) } : State).auxStat m)))) ∧
  -- AUX_WINDOW_CROSSING of an input whose comparator halves are disabled: both flags are held at 0 (R136)
  (∀ (s u w : State) (t : Time) (m : Fin 2) (j : Fin 8) (v : Nat), s.tick t = u → u.bit (R.AUXADC.AIN_WIN_CFG m j) 30 = false →
    u.bit (R.AUXADC.AIN_WIN_CFG m j) 31 = false →
    { u with aux := vupd u.aux m.val (fun a => { a with levels := vupd a.levels j.val (fun _ => v) }) } = w →
    exec (.auxWindowCrossing t m j v) s = .next ((w.setWinFlag m j false false).setWinFlag m j true false)) ∧
  -- AUX_WINDOW_CROSSING above the high threshold: the high flag is set (R136)
  (∀ (s u w : State) (t : Time) (m : Fin 2) (j : Fin 8) (v : Nat), s.tick t = u → u.bit (R.AUXADC.AIN_WIN_CFG m j) 30 = true →
    u.bit (R.AUXADC.AIN_WIN_CFG m j) 31 = false → u.bit (R.AUXADC.AIN_WIN_STAT m j) 0 = false →
    { u with aux := vupd u.aux m.val (fun a => { a with levels := vupd a.levels j.val (fun _ => v) }) } = w →
    w.winPhase (8 * m.val + j.val) false = none → u.fld (R.AUXADC.AIN_WIN_CFG m j) 11 0 * 2 ^ 20 < v →
    exec (.auxWindowCrossing t m j v) s = .next ((w.setWinFlag m j false true).setWinFlag m j true false)) ∧
  -- CMP_THRESHOLD_CROSSING: the fast path is updated with its comparators, then the chopper (R128, R129, R327)
  (∀ (s u : State) (t c : Time) (n : Fin 48) (i : Fin 4) (clk : List Time) (pin : List (Time × Bool)), s.tick t = u →
    exec (.cmpThresholdCrossing t n i clk pin c) s = .next ((u.fastUpdate n i clk pin c).chopperEval n)) ∧
  -- CHOPPER_FAST_END, CHOPPER_OFF_END and CHOPPER_BLANK_END: the bridge in that state takes its step (R327)
  (∀ (s u : State) (t : Time) (n : Fin 48) (x : Fin 2) (a : Nat), s.tick t = u → u.stepAxis n = some a →
    (u.brState a x = 1 → exec (.chopperFastEnd t n x) s = .next ((u.brStep n a x).slotEval n)) ∧
    (u.brState a x = 2 → exec (.chopperOffEnd t n x) s = .next ((u.brStep n a x).slotEval n)) ∧
    (u.brState a x = 0 → exec (.chopperBlankEnd t n x) s = .next ((u.brStep n a x).slotEval n)))

/-- The integer instructions complete: each issue that nothing stops ends with the result and the flags of R229 to R232. -/
def Obligations.integerInstructionsComplete : Prop :=
  -- ADD, SUB, NEG, ABS: code ZNCV or ZNV (R229, R230)
  (∀ (s u v : State) (t : Time) (c : Fin 33) (w0 w1 : Word) (k : CoreSt), s.tick t = u → u.atIssue c = v → v.cr c = k →
    (u.Issues c .add w0 w1 false → exec (.opAdd t c) s = .next (v.finish c (wordsOf w0) { wr := [(1, .x (fXD w0) (k.xa w0 + k.xb w0)), (1, addFl (k.xa w0) (k.xb w0))] })) ∧
    (u.Issues c .sub w0 w1 false → exec (.opSub t c) s = .next (v.finish c (wordsOf w0) { wr := [(1, .x (fXD w0) (k.xa w0 - k.xb w0)), (1, subFl (k.xa w0) (k.xb w0))] })) ∧
    (u.Issues c .neg w0 w1 false → exec (.opNeg t c) s = .next (v.finish c (wordsOf w0) { wr := [(1, .x (fXD w0) (0 - k.xa w0)), (1, subFl 0 (k.xa w0))] })) ∧
    (u.Issues c .abs w0 w1 false → exec (.opAbs t c) s = .next (v.finish c (wordsOf w0) { wr := [(1, .x (fXD w0) (if (k.xa w0).msb then 0 - k.xa w0 else k.xa w0)), (1, flZNV (if (k.xa w0).msb then 0 - k.xa w0 else k.xa w0) (k.xa w0 == 0x80000000))] }))) ∧
  -- AND, OR, XOR, NOT, MIN, MAX, MOV, CLS: code ZN (R230)
  (∀ (s u v : State) (t : Time) (c : Fin 33) (w0 w1 : Word) (k : CoreSt), s.tick t = u → u.atIssue c = v → v.cr c = k →
    (u.Issues c .and_ w0 w1 false → exec (.opAnd t c) s = .next (v.finish c (wordsOf w0) { wr := [(1, .x (fXD w0) (k.xa w0 &&& k.xb w0)), (1, flZN (k.xa w0 &&& k.xb w0))] })) ∧
    (u.Issues c .or_ w0 w1 false → exec (.opOr t c) s = .next (v.finish c (wordsOf w0) { wr := [(1, .x (fXD w0) (k.xa w0 ||| k.xb w0)), (1, flZN (k.xa w0 ||| k.xb w0))] })) ∧
    (u.Issues c .xor w0 w1 false → exec (.opXor t c) s = .next (v.finish c (wordsOf w0) { wr := [(1, .x (fXD w0) (k.xa w0 ^^^ k.xb w0)), (1, flZN (k.xa w0 ^^^ k.xb w0))] })) ∧
    (u.Issues c .not_ w0 w1 false → exec (.opNot t c) s = .next (v.finish c (wordsOf w0) { wr := [(1, .x (fXD w0) (~~~(k.xa w0))), (1, flZN (~~~(k.xa w0)))] })) ∧
    (u.Issues c .min w0 w1 false → exec (.opMin t c) s = .next (v.finish c (wordsOf w0) { wr := [(1, .x (fXD w0) (if (k.xa w0).slt (k.xb w0) then k.xa w0 else k.xb w0)), (1, flZN (if (k.xa w0).slt (k.xb w0) then k.xa w0 else k.xb w0))] })) ∧
    (u.Issues c .max w0 w1 false → exec (.opMax t c) s = .next (v.finish c (wordsOf w0) { wr := [(1, .x (fXD w0) (if (k.xa w0).slt (k.xb w0) then k.xb w0 else k.xa w0)), (1, flZN (if (k.xa w0).slt (k.xb w0) then k.xb w0 else k.xa w0))] })) ∧
    (u.Issues c .mov w0 w1 false → exec (.opMov t c) s = .next (v.finish c (wordsOf w0) { wr := [(1, .x (fXD w0) (k.xa w0)), (1, flZN (k.xa w0))] })) ∧
    (u.Issues c .cls w0 w1 false → exec (.opCls t c) s = .next (v.finish c (wordsOf w0) { wr := [(1, .x (fXD w0) (BitVec.ofNat 32 (clsOf (k.xa w0)))), (1, flZN (BitVec.ofNat 32 (clsOf (k.xa w0))))] }))) ∧
  -- CMP and CMPI: flags only (R230, R231)
  (∀ (s u v : State) (t : Time) (c : Fin 33) (w0 w1 : Word) (k : CoreSt), s.tick t = u → u.atIssue c = v → v.cr c = k →
    (u.Issues c .cmp w0 w1 false → exec (.opCmp t c) s = .next (v.finish c (wordsOf w0) { wr := [(1, subFl (k.xa w0) (k.xb w0))] })) ∧
    (u.Issues c .cmpi w0 w1 false → exec (.opCmpi t c) s = .next (v.finish c (wordsOf w0) { wr := [(1, subFl (k.xa w0) (imm16 w0))] }))) ∧
  -- SHL, SHRA, SHRL by Xb[5:0], SHLI, SHRAI, SHRLI by AUX (R230)
  (∀ (s u v : State) (t : Time) (c : Fin 33) (w0 w1 : Word) (k : CoreSt), s.tick t = u → u.atIssue c = v → v.cr c = k →
    (u.Issues c .shl w0 w1 false → exec (.opShl t c) s = .next (v.finish c (wordsOf w0) { wr := [(1, .x (fXD w0) ((k.xa w0) <<< ((k.xb w0).toNat % 64))), (1, flZN ((k.xa w0) <<< ((k.xb w0).toNat % 64)))] })) ∧
    (u.Issues c .shra w0 w1 false → exec (.opShra t c) s = .next (v.finish c (wordsOf w0) { wr := [(1, .x (fXD w0) ((k.xa w0).sshiftRight ((k.xb w0).toNat % 64))), (1, flZN ((k.xa w0).sshiftRight ((k.xb w0).toNat % 64)))] })) ∧
    (u.Issues c .shrl w0 w1 false → exec (.opShrl t c) s = .next (v.finish c (wordsOf w0) { wr := [(1, .x (fXD w0) ((k.xa w0) >>> ((k.xb w0).toNat % 64))), (1, flZN ((k.xa w0) >>> ((k.xb w0).toNat % 64)))] })) ∧
    (u.Issues c .shli w0 w1 false → exec (.opShli t c) s = .next (v.finish c (wordsOf w0) { wr := [(1, .x (fXD w0) ((k.xa w0) <<< (wfld w0 10 6))), (1, flZN ((k.xa w0) <<< (wfld w0 10 6)))] })) ∧
    (u.Issues c .shrai w0 w1 false → exec (.opShrai t c) s = .next (v.finish c (wordsOf w0) { wr := [(1, .x (fXD w0) ((k.xa w0).sshiftRight (wfld w0 10 6))), (1, flZN ((k.xa w0).sshiftRight (wfld w0 10 6)))] })) ∧
    (u.Issues c .shrli w0 w1 false → exec (.opShrli t c) s = .next (v.finish c (wordsOf w0) { wr := [(1, .x (fXD w0) ((k.xa w0) >>> (wfld w0 10 6))), (1, flZN ((k.xa w0) >>> (wfld w0 10 6)))] }))) ∧
  -- ADDI, MOVI, MOVHI, MOVL, MOVPI: MOVPI stands at distance 3 (R198, R231)
  (∀ (s u v : State) (t : Time) (c : Fin 33) (w0 w1 : Word) (k : CoreSt), s.tick t = u → u.atIssue c = v → v.cr c = k →
    (u.Issues c .addi w0 w1 false → exec (.opAddi t c) s = .next (v.finish c (wordsOf w0) { wr := [(1, .x (fXD w0) (k.xa w0 + imm16 w0)), (1, addFl (k.xa w0) (imm16 w0))] })) ∧
    (u.Issues c .movi w0 w1 false → exec (.opMovi t c) s = .next (v.finish c (wordsOf w0) { wr := [(1, .x (fXD w0) (imm16 w0))] })) ∧
    (u.Issues c .movhi w0 w1 false → exec (.opMovhi t c) s = .next (v.finish c (wordsOf w0) { wr := [(1, .x (fXD w0) (BitVec.ofNat 32 (wfld w0 15 0 * 2 ^ 16 + (vget k.x (fXD w0)).toNat % 2 ^ 16)))] })) ∧
    (u.Issues c .movl w0 w1 false → exec (.opMovl t c) s = .next (v.finish c (wordsOf w0) { wr := [(1, .x (fXD w0) w1)] })) ∧
    (u.Issues c .movpi w0 w1 false → exec (.opMovpi t c) s = .next (v.finish c (wordsOf w0) { wr := [(3, .reg (0x20 + wfld w0 25 22) (wfld w0 19 0))] }))) ∧
  -- MOVS: a read, in which PC is the address of the MOVS + 1, or a write of a special register (R232, R198)
  (∀ (s u v : State) (t : Time) (c : Fin 33) (w0 w1 : Word) (k : CoreSt), s.tick t = u → u.atIssue c = v → v.cr c = k →
    (u.Issues c .movs w0 w1 false → exec (.opMovs t c) s = .next (v.finish c (wordsOf w0) {
      wr := if wbit w0 25 then [(1, .x (wfld w0 24 21) (BitVec.ofNat 32 (if wfld w0 20 13 = 0x3C then (k.pc + 1) % 2 ^ 20 else k.read c (wfld w0 20 13))))]
        else [(movsDist (wfld w0 20 13), .reg (wfld w0 20 13) (vget k.x (wfld w0 24 21)).toNat)] })))

/-- The loads, the stores and FTAP complete on the memories of the core, and a load through a system window when its access does
(R193, R233 to R235, R237). -/
def Obligations.memoryInstructionsComplete : Prop :=
  -- LD from a memory of the core: the word stands at distance 2 (R198, R233)
  (∀ (s u v : State) (t : Time) (c : Fin 33) (w0 w1 : Word) (k : CoreSt) (sp a b : Nat) (upd : List (Nat × Wr)), s.tick t = u → u.atIssue c = v → v.cr c = k →
    u.Issues c .ld w0 w1 false →
    k.addrM w0 = (a, upd) →
    spOf w0 = sp →
    inWindow c sp a = false →
    v.accFault c (sp, a, false) = none →
    v.mapData c sp a = some (.mem b) →
    v.eccOf b = 0 →
    exec (.opLd t c) s = .next (v.finish c (wordsOf w0) { wr := (2, .x (wfld w0 25 22) (v.ldw b)) :: upd, accs := [(sp, a, false)] })) ∧
  -- ST to a memory of the core (R233)
  (∀ (s u v : State) (t : Time) (c : Fin 33) (w0 w1 : Word) (k : CoreSt) (sp a b : Nat) (upd : List (Nat × Wr)), s.tick t = u → u.atIssue c = v → v.cr c = k →
    u.Issues c .st w0 w1 false →
    k.addrM w0 = (a, upd) →
    spOf w0 = sp →
    inWindow c sp a = false →
    v.accFault c (sp, a, true) = none →
    v.mapData c sp a = some (.mem b) →
    exec (.opSt t c) s = .next (v.finish c (wordsOf w0) { wr := (3, .mem b (vget k.x (wfld w0 25 22))) :: upd, accs := [(sp, a, true)] })) ∧
  -- STA: an accumulator as 32 bits under CFG.FM, SAT and RND, with the flags it sets (R202, R234)
  (∀ (s u v : State) (t : Time) (c : Fin 33) (w0 w1 : Word) (k : CoreSt) (sp a b : Nat) (upd : List (Nat × Wr)) (y : Word) (fl : List (Nat × Wr)), s.tick t = u → u.atIssue c = v → v.cr c = k →
    u.Issues c .sta w0 w1 false →
    k.addrM w0 = (a, upd) →
    spOf w0 = sp →
    inWindow c sp a = false →
    v.accFault c (sp, a, true) = none →
    v.mapData c sp a = some (.mem b) →
    storeAcc (vget k.acc (wfld w0 23 22)) (wbit k.cfg 2) (wbit k.cfg 1) (wfld w0 25 24 == 1 || (wfld w0 25 24 == 0 && !wbit k.cfg 0)) = (y, fl) →
    exec (.opSta t c) s = .next (v.finish c (wordsOf w0) { wr := (3, .mem b y) :: (upd ++ fl), accs := [(sp, a, true)] })) ∧
  -- LDD: one X word and one Y word, and both pointer updates (R235)
  (∀ (s u v : State) (t : Time) (c : Fin 33) (w0 w1 : Word) (k : CoreSt) (i j b d : Nat), s.tick t = u → u.atIssue c = v → v.cr c = k →
    u.Issues c .ldd w0 w1 false →
    wfld w0 17 15 = i →
    wfld w0 9 7 = j →
    inWindow c 1 (vget k.p i) = false →
    inWindow c 2 (vget k.p j) = false →
    v.accFault c (1, vget k.p i, false) = none →
    v.accFault c (2, vget k.p j, false) = none →
    v.mapData c 1 (vget k.p i) = some (.mem b) →
    v.mapData c 2 (vget k.p j) = some (.mem d) →
    v.eccOf b = 0 →
    v.eccOf d = 0 →
    exec (.opLdd t c) s = .next (v.finish c (wordsOf w0) {
      wr := [(2, .x (wfld w0 25 22) (v.ldw b)), (2, .x (wfld w0 21 18) (v.ldw d))] ++ k.sideUpd i (wfld w0 14 12) (wfld w0 11 10) ++
        k.sideUpd j (wfld w0 6 4) (wfld w0 3 2)
      accs := [(1, vget k.p i, false), (2, vget k.p j, false)] })) ∧
  -- FTAP: one tap, and the X word moves up the delay line (R237)
  (∀ (s u v : State) (t : Time) (c : Fin 33) (w0 w1 : Word) (k : CoreSt) (i j b d e p : Nat), s.tick t = u → u.atIssue c = v → v.cr c = k →
    u.Issues c .ftap w0 w1 false →
    wfld w0 23 21 = i →
    wfld w0 20 18 = j →
    k.circ i (Int.ofNat (vget k.p i) + 1) = p →
    inWindow c 1 (vget k.p i) = false →
    inWindow c 2 (vget k.p j) = false →
    v.accFault c (1, vget k.p i, false) = none →
    v.accFault c (2, vget k.p j, false) = none →
    v.mapData c 1 (vget k.p i) = some (.mem b) →
    v.mapData c 2 (vget k.p j) = some (.mem d) →
    v.eccOf b = 0 →
    v.eccOf d = 0 →
    inWindow c 1 p = false →
    v.accFault c (1, p, true) = none →
    v.mapData c 1 p = some (.mem e) →
    exec (.opFtap t c) s = .next (v.finish c (wordsOf w0) {
      wr := (3, .mem e (v.ldw b)) :: ([ptrWr i (k.circ i (Int.ofNat (vget k.p i) - 1)), ptrWr j (k.circ j (Int.ofNat (vget k.p j) + 1))] ++
        accumulate (wfld w0 25 24) (k.chainAcc (wfld w0 25 24)).toInt (k.prod (v.ldw b) (v.ldw d) false))
      accs := [(1, vget k.p i, false), (2, vget k.p j, false), (1, p, true)] })) ∧
  -- SYSTEM_WINDOW_DONE: the load on which a millwright stalls completes with its instruction (R193)
  (∀ (s u v w : State) (t : Time) (c : Fin 33) (w0 w1 : Word) (k : CoreSt) (a sa : Nat) (upd : List (Nat × Wr)) (x : DWord), s.tick t = u → u.atIssue c = v → v.cr c = k →
    u.Issues c .ld w0 w1 true →
    isMw c = true →
    (u.cr c).stall = true →
    (u.cr c).orphan = [] →
    opOf (u.ldw (spaceAddr c 0 (u.cr c).pc)) = some .ld →
    k.addrM w0 = (a, upd) →
    spOf w0 = 1 →
    k.rpt = none →
    v.accFault c (1, a, false) = none →
    v.mapData c 1 a = some (.window sa) →
    v.sysRead (mwMaster c) sa 4 15 = (x, w) →
    exec (.systemWindowDone t c) s = .next (w.finish c (wordsOf w0) { wr := (2, .x (wfld w0 25 22) (x.truncate 32)) :: upd, accs := [(1, a, false)] }))

/-- The multiply-accumulate and accumulator instructions complete (R200, R201, R236, R238, R239). -/
def Obligations.accumulatorInstructionsComplete : Prop :=
  -- MPY, MAC, MPYD, MACD: the products stand at distance 2 and chain (R198, R200, R236)
  (∀ (s u v : State) (t : Time) (c : Fin 33) (w0 w1 : Word) (k : CoreSt), s.tick t = u → u.atIssue c = v → v.cr c = k →
    (u.Issues c .mpy w0 w1 false → exec (.opMpy t c) s = .next (v.finish c (wordsOf w0) { wr := accumulate (macAN w0) 0 (k.prod1 w0) })) ∧
    (u.Issues c .mac w0 w1 false → exec (.opMac t c) s = .next (v.finish c (wordsOf w0) { wr := accumulate (macAN w0) (k.chainAcc (macAN w0)).toInt (k.prod1 w0) })) ∧
    (u.Issues c .mpyd w0 w1 false → exec (.opMpyd t c) s = .next (v.finish c (wordsOf w0) { wr := accumulate (macAN w0) 0 (k.prod1 w0 + k.prod2 w0) })) ∧
    (u.Issues c .macd w0 w1 false → exec (.opMacd t c) s = .next (v.finish c (wordsOf w0) { wr := accumulate (macAN w0) (k.chainAcc (macAN w0)).toInt (k.prod1 w0 + k.prod2 w0) }))) ∧
  -- The accumulator operations with code ZN (R238)
  (∀ (s u v : State) (t : Time) (c : Fin 33) (w0 w1 : Word) (k : CoreSt), s.tick t = u → u.atIssue c = v → v.cr c = k →
    (u.Issues c .clra w0 w1 false → exec (.opClra t c) s = .next (v.finish c (wordsOf w0) { wr := [(2, .acc (wfld w0 20 19) (BitVec.ofInt 80 (0)) false), (1, flZN (BitVec.ofInt 80 (0)))] })) ∧
    (u.Issues c .mova w0 w1 false → exec (.opMova t c) s = .next (v.finish c (wordsOf w0) { wr := [(2, .acc (wfld w0 20 19) (BitVec.ofInt 80 ((k.accS w0).toInt)) false), (1, flZN (BitVec.ofInt 80 ((k.accS w0).toInt)))] })) ∧
    (u.Issues c .asr w0 w1 false → exec (.opAsr t c) s = .next (v.finish c (wordsOf w0) { wr := [(2, .acc (wfld w0 20 19) (BitVec.ofInt 80 (asrVal (k.accS w0).toInt (wfld w0 8 3) (wbit w0 2))) false), (1, flZN (BitVec.ofInt 80 (asrVal (k.accS w0).toInt (wfld w0 8 3) (wbit w0 2))))] })) ∧
    (u.Issues c .ldah w0 w1 false → exec (.opLdah t c) s = .next (v.finish c (wordsOf w0) { wr := [(2, .acc (wfld w0 20 19) (BitVec.ofInt 80 (k.aHigh w0)) false), (1, flZN (BitVec.ofInt 80 (k.aHigh w0)))] })) ∧
    (u.Issues c .ldax w0 w1 false → exec (.opLdax t c) s = .next (v.finish c (wordsOf w0) { wr := [(2, .acc (wfld w0 20 19) (BitVec.ofInt 80 (k.aPair w0)) false), (1, flZN (BitVec.ofInt 80 (k.aPair w0)))] }))) ∧
  -- The accumulator operations with code ZNV (R238)
  (∀ (s u v : State) (t : Time) (c : Fin 33) (w0 w1 : Word) (k : CoreSt), s.tick t = u → u.atIssue c = v → v.cr c = k →
    (u.Issues c .adda w0 w1 false → exec (.opAdda t c) s = .next (v.finish c (wordsOf w0) { wr := [(2, .acc (wfld w0 20 19) (BitVec.ofInt 80 (k.accD w0 + (k.accS w0).toInt)) false), (1, flZNV (BitVec.ofInt 80 (k.accD w0 + (k.accS w0).toInt)) (!fits 80 (k.accD w0 + (k.accS w0).toInt)))] })) ∧
    (u.Issues c .suba w0 w1 false → exec (.opSuba t c) s = .next (v.finish c (wordsOf w0) { wr := [(2, .acc (wfld w0 20 19) (BitVec.ofInt 80 (k.accD w0 - (k.accS w0).toInt)) false), (1, flZNV (BitVec.ofInt 80 (k.accD w0 - (k.accS w0).toInt)) (!fits 80 (k.accD w0 - (k.accS w0).toInt)))] })) ∧
    (u.Issues c .nega w0 w1 false → exec (.opNega t c) s = .next (v.finish c (wordsOf w0) { wr := [(2, .acc (wfld w0 20 19) (BitVec.ofInt 80 (-(k.accS w0).toInt)) false), (1, flZNV (BitVec.ofInt 80 (-(k.accS w0).toInt)) (!fits 80 (-(k.accS w0).toInt)))] })) ∧
    (u.Issues c .absa w0 w1 false → exec (.opAbsa t c) s = .next (v.finish c (wordsOf w0) { wr := [(2, .acc (wfld w0 20 19) (BitVec.ofInt 80 (((k.accS w0).toInt.natAbs : Int))) false), (1, flZNV (BitVec.ofInt 80 (((k.accS w0).toInt.natAbs : Int))) (!fits 80 (((k.accS w0).toInt.natAbs : Int))))] })) ∧
    (u.Issues c .asl w0 w1 false → exec (.opAsl t c) s = .next (v.finish c (wordsOf w0) { wr := [(2, .acc (wfld w0 20 19) (BitVec.ofInt 80 ((k.accS w0).toInt * (2 ^ wfld w0 8 3 : Nat))) false), (1, flZNV (BitVec.ofInt 80 ((k.accS w0).toInt * (2 ^ wfld w0 8 3 : Nat))) (!fits 80 ((k.accS w0).toInt * (2 ^ wfld w0 8 3 : Nat))))] })) ∧
    (u.Issues c .addah w0 w1 false → exec (.opAddah t c) s = .next (v.finish c (wordsOf w0) { wr := [(2, .acc (wfld w0 20 19) (BitVec.ofInt 80 (k.accD w0 + k.aHigh w0)) false), (1, flZNV (BitVec.ofInt 80 (k.accD w0 + k.aHigh w0)) (!fits 80 (k.accD w0 + k.aHigh w0)))] })) ∧
    (u.Issues c .addax w0 w1 false → exec (.opAddax t c) s = .next (v.finish c (wordsOf w0) { wr := [(2, .acc (wfld w0 20 19) (BitVec.ofInt 80 (k.accD w0 + k.aPair w0)) false), (1, flZNV (BitVec.ofInt 80 (k.accD w0 + k.aPair w0)) (!fits 80 (k.accD w0 + k.aPair w0)))] }))) ∧
  -- XLO, XHI, XGD and CMPA (R238)
  (∀ (s u v : State) (t : Time) (c : Fin 33) (w0 w1 : Word) (k : CoreSt), s.tick t = u → u.atIssue c = v → v.cr c = k →
    (u.Issues c .xlo w0 w1 false → exec (.opXlo t c) s = .next (v.finish c (wordsOf w0) { wr := [(1, .x (wfld w0 16 13) ((k.accS w0).extractLsb' 0 32))] })) ∧
    (u.Issues c .xhi w0 w1 false → exec (.opXhi t c) s = .next (v.finish c (wordsOf w0) { wr := [(1, .x (wfld w0 16 13) ((k.accS w0).extractLsb' 32 32))] })) ∧
    (u.Issues c .xgd w0 w1 false → exec (.opXgd t c) s = .next (v.finish c (wordsOf w0) { wr := [(1, .x (wfld w0 16 13) (((k.accS w0).extractLsb' 64 16).signExtend 32))] })) ∧
    (u.Issues c .cmpa w0 w1 false → exec (.opCmpa t c) s = .next (v.finish c (wordsOf w0) { wr := [(1, flZNV (BitVec.ofInt 80 (k.accD w0 - (k.accS w0).toInt)) (!fits 80 (k.accD w0 - (k.accS w0).toInt)))] }))) ∧
  -- SATX: a value outside the limits is clipped, and the excess goes to the other accumulator; within them only that one is
  -- written, with 0 (R239)
  (∀ (s u v : State) (t : Time) (c : Fin 33) (w0 w1 : Word) (k : CoreSt) (x lo hi : Int), s.tick t = u → u.atIssue c = v → v.cr c = k →
    u.Issues c .satx w0 w1 false → (vget k.acc (wfld w0 25 24)).toInt = x →
    (vget k.x (wfld w0 21 18)).toInt * 2 ^ 32 = lo → (vget k.x (wfld w0 17 14)).toInt * 2 ^ 32 = hi →
    (hi < x → exec (.opSatx t c) s = .next (v.finish c (wordsOf w0) { wr := [(2, .acc (wfld w0 25 24) (BitVec.ofInt 80 hi) false),
      (2, .acc (wfld w0 23 22) (BitVec.ofInt 80 (x - hi)) false), (1, flExcess (BitVec.ofInt 80 (x - hi)))] })) ∧
    (x ≤ hi → x < lo → exec (.opSatx t c) s = .next (v.finish c (wordsOf w0) { wr := [(2, .acc (wfld w0 25 24) (BitVec.ofInt 80 lo) false),
      (2, .acc (wfld w0 23 22) (BitVec.ofInt 80 (x - lo)) false), (1, flExcess (BitVec.ofInt 80 (x - lo)))] })) ∧
    (lo ≤ x → x ≤ hi → exec (.opSatx t c) s = .next (v.finish c (wordsOf w0) { wr := [(2, .acc (wfld w0 23 22) 0 false),
      (1, flExcess (0 : BitVec 80))] })))

/-- The pipelined primitives complete (R240, R241). -/
def Obligations.primitivesComplete : Prop :=
  -- SINCOS: sine and cosine, each within the accuracy of R241, at distance 6 (model's choice of the open bits: log 125)
  (∀ (s u v v1 v2 : State) (t : Time) (c : Fin 33) (w0 w1 : Word) (k : CoreSt) (x y : Word) (a : Nat), s.tick t = u → u.atIssue c = v → v.cr c = k →
    u.Issues c .sincos w0 w1 false →
    (k.prA w0).toNat = a →
    v.sinValue a = (x, v1) →
    v1.sinValue ((a + 2 ^ 30) % 2 ^ 32) = (y, v2) →
    exec (.opSincos t c) s = .next (v2.finish c (wordsOf w0) { wr := [(6, .x (prXD w0) x), (6, .x (prXD w0 + 1) y)], prim := true })) ∧
  -- ATAN2 of (0, 0) is 0 (R241)
  (∀ (s u v : State) (t : Time) (c : Fin 33) (w0 w1 : Word) (k : CoreSt), s.tick t = u → u.atIssue c = v → v.cr c = k →
    u.Issues c .atan2 w0 w1 false →
    k.prA w0 = 0 →
    k.prB w0 = 0 →
    exec (.opAtan2 t c) s = .next (v.finish c (wordsOf w0) { wr := [(12, .x (prXD w0) 0)], prim := true })) ∧
  -- ATAN2 of any other pair: within 64 LSB of the angle, at distance 12 (R241, log 125)
  (∀ (s u v v1 : State) (t : Time) (c : Fin 33) (w0 w1 : Word) (k : CoreSt) (y x z : Int), s.tick t = u → u.atIssue c = v → v.cr c = k →
    u.Issues c .atan2 w0 w1 false →
    (k.prA w0).toInt = y →
    (k.prB w0).toInt = x →
    (y ≠ 0 ∨ x ≠ 0) →
    v.freeIn (ratRound (angleTurn y x * (2 ^ 32 : Nat)) - 64) (ratRound (angleTurn y x * (2 ^ 32 : Nat)) + 64) = (z, v1) →
    exec (.opAtan2 t c) s = .next (v1.finish c (wordsOf w0) { wr := [(12, .x (prXD w0) (BitVec.ofInt 32 z))], prim := true })) ∧
  -- RSQRT of an operand that is not positive: the clip with DZ, and VL 0 (R240, R241)
  (∀ (s u v : State) (t : Time) (c : Fin 33) (w0 w1 : Word) (k : CoreSt), s.tick t = u → u.atIssue c = v → v.cr c = k →
    u.Issues c .rsqrt w0 w1 false →
    (k.prA w0).toInt ≤ 0 →
    exec (.opRsqrt t c) s = .next (v.finish c (wordsOf w0) { wr := [(8, .x (prXD w0) 0x7FFFFFFF), (8, flVO false), (8, flDZ)], prim := true })) ∧
  -- RSQRT of a positive operand: within 2^-22 before rounding, clipped with VO (R241, log 125)
  (∀ (s u v v1 : State) (t : Time) (c : Fin 33) (w0 w1 : Word) (k : CoreSt) (a z : Int), s.tick t = u → u.atIssue c = v → v.cr c = k →
    u.Issues c .rsqrt w0 w1 false →
    (k.prA w0).toInt = a →
    0 < a →
    v.freeIn (ratRound (ratSqrt (((2 ^ 63 : Nat) : Rat) / (a.toNat : Rat)) false * (1 - (1 : Rat) / (2 ^ 22 : Nat)))) (ratRound (ratSqrt (((2 ^ 63 : Nat) : Rat) / (a.toNat : Rat)) true * (1 + (1 : Rat) / (2 ^ 22 : Nat)))) = (z, v1) →
    exec (.opRsqrt t c) s = .next (v1.finish c (wordsOf w0) { wr := [(8, .x (prXD w0) (BitVec.ofInt 32 (min z 0x7FFFFFFF))), (8, flVO (decide (0x7FFFFFFF < z)))], prim := true })) ∧
  -- DIV and DIVI by a divisor that is not 0: the truncated quotient, clipped with VO, at distance 18 (R241)
  (∀ (s u v : State) (t : Time) (c : Fin 33) (w0 w1 : Word) (k : CoreSt) (a b : Int), s.tick t = u → u.atIssue c = v → v.cr c = k →
    (k.prA w0).toInt = a →
    (k.prB w0).toInt = b →
    b ≠ 0 →
    (u.Issues c .div w0 w1 false → exec (.opDiv t c) s = .next (v.finish c (wordsOf w0) {
      wr := [(18, .x (prXD w0) (BitVec.ofInt 32 (satI 32 ((a * 2 ^ 31).tdiv b)))), (18, flVO (!fits 32 ((a * 2 ^ 31).tdiv b)))], prim := true })) ∧
    (u.Issues c .divi w0 w1 false → exec (.opDivi t c) s = .next (v.finish c (wordsOf w0) {
      wr := [(18, .x (prXD w0) (BitVec.ofInt 32 (satI 32 (a.tdiv b)))), (18, flVO (!fits 32 (a.tdiv b)))], prim := true }))) ∧
  -- DIV and DIVI by 0: the end of the range by the sign of the dividend, with DZ (R241)
  (∀ (s u v : State) (t : Time) (c : Fin 33) (w0 w1 : Word) (k : CoreSt) (a : Int), s.tick t = u → u.atIssue c = v → v.cr c = k →
    (k.prA w0).toInt = a →
    k.prB w0 = 0 →
    (u.Issues c .div w0 w1 false → exec (.opDiv t c) s = .next (v.finish c (wordsOf w0) {
      wr := [(18, .x (prXD w0) (if decide (a < 0) then 0x80000000 else 0x7FFFFFFF)), (18, flDZ)], prim := true })) ∧
    (u.Issues c .divi w0 w1 false → exec (.opDivi t c) s = .next (v.finish c (wordsOf w0) {
      wr := [(18, .x (prXD w0) (if decide (a < 0) then 0x80000000 else 0x7FFFFFFF)), (18, flDZ)], prim := true }))) ∧
  -- PRIMITIVE_RESULT: the result whose distance has come takes its place (R240, log 128)
  (∀ (s u : State) (t : Time) (c : Fin 33) (d : Nat) (w : Word), s.tick t = u → (u.cr c).pend = [⟨0, .x d w, true⟩] →
    exec (.primitiveResult t c) s = .next ((u.land c (.x d w)).setCr c (fun k => { k with pend := k.pend.filter (fun p => p.left != 0) })))

/-- Branches, calls, returns, NOP, BKPT and the repeats complete (R199, R203, R204, R242 to R246, R251). -/
def Obligations.flowInstructionsComplete : Prop :=
  -- BCC and BRI: two delay slots, then the target where the condition holds three issues back (R198, R199, R242, R243)
  (∀ (s u v : State) (t : Time) (c : Fin 33) (w0 w1 : Word) (k : CoreSt), s.tick t = u → u.atIssue c = v → v.cr c = k →
    (u.Issues c .bcc w0 w1 false → exec (.opBcc t c) s = .next (v.finish c (wordsOf w0) { ctl := .slots (if condTrue (wfld w0 25 22) k.branchSr then some (fTgt w0) else none) true })) ∧
    (u.Issues c .bri w0 w1 false → exec (.opBri t c) s = .next (v.finish c (wordsOf w0) { ctl := .slots (if condTrue (wfld w0 18 15) k.branchSr then some (vget k.p (wfld w0 21 19)) else none) true }))) ∧
  -- CALL, CALLI and RET: P7 takes the return address at distance 3 (R243)
  (∀ (s u v : State) (t : Time) (c : Fin 33) (w0 w1 : Word) (k : CoreSt), s.tick t = u → u.atIssue c = v → v.cr c = k →
    (u.Issues c .call w0 w1 false → exec (.opCall t c) s = .next (v.finish c (wordsOf w0) { wr := [(3, .reg 0x27 (v.returnAddr c))], ctl := .slots (some (fTgt w0)) false })) ∧
    (u.Issues c .calli w0 w1 false → exec (.opCalli t c) s = .next (v.finish c (wordsOf w0) { wr := [(3, .reg 0x27 (v.returnAddr c))], ctl := .slots (some (vget k.p (wfld w0 21 19))) false })) ∧
    (u.Issues c .ret w0 w1 false → exec (.opRet t c) s = .next (v.finish c (wordsOf w0) { ctl := .slots (some (vget k.p 7)) false }))) ∧
  -- RETI, NOP and RPT (R243, R245, R251)
  (∀ (s u v : State) (t : Time) (c : Fin 33) (w0 w1 : Word) (k : CoreSt), s.tick t = u → u.atIssue c = v → v.cr c = k →
    (u.Issues c .reti w0 w1 false → exec (.opReti t c) s = .next (v.finish c (wordsOf w0) { wr := [(3, .restore k.rsr.toNat)], ctl := .slots (some k.rpc) false })) ∧
    (u.Issues c .nop w0 w1 false → exec (.opNop t c) s = .next (v.finish c (wordsOf w0) { })) ∧
    (u.Issues c .rpt w0 w1 false → exec (.opRpt t c) s = .next (v.finish c (wordsOf w0) { ctl := .rpt (wfld w0 11 0 + 1) }))) ∧
  -- RETN: NRPC and NRSR, and vectors 0 and 1 may be taken again (R210, R243)
  (∀ (s u v : State) (t : Time) (c : Fin 33) (w0 w1 : Word) (k : CoreSt), s.tick t = u → u.atIssue c = v → v.cr c = k →
    u.Issues c .retn w0 w1 false →
    exec (.opRetn t c) s = .next ((v.setCr c (fun k => { k with nmi := false })).finish c (wordsOf w0)
      { wr := [(3, .restore k.nrsr.toNat)], ctl := .slots (some k.nrpc) false })) ∧
  -- BKPT: a halt at the next clean boundary (R251); the pair has it in a proof-test session only
  (∀ (s u v : State) (t : Time) (c : Fin 33) (w0 w1 : Word) (k : CoreSt), s.tick t = u → u.atIssue c = v → v.cr c = k →
    u.Issues c .bkpt w0 w1 false →
    exec (.opBkpt t c) s = .next (v.finish c (wordsOf w0) { ctl := .bkpt })) ∧
  -- BKPT on the pair outside a proof-test session: ILLEGAL (R251)
  (∀ (s u v : State) (t : Time) (w0 w1 : Word), s.tick t = u → u.atIssue 32 = v → (u.landDue 32).canIssue 32 false = true →
    u.wordsAt 32 = some (w0, w1) → opOf w0 = some .bkpt → v.bit (R.PG_ERRINJ (corePage 32)) 16 = false → v.sess.proof = false →
    exec (.opBkpt t 32) s = .next (v.failAt 32 0x01 none)) ∧
  -- BRPT and BRPT.L: a new level with the words after it as its body (R204, R246)
  (∀ (s u v : State) (t : Time) (c : Fin 33) (w0 w1 : Word) (k : CoreSt) (st e n : Nat), s.tick t = u → u.atIssue c = v → v.cr c = k →
    k.loops.length < 3 →
    st + 2 ≤ e →
    (u.Issues c .brpt w0 w1 false → (k.pc + 1) % 2 ^ 20 = st → (st + wfld w0 9 0) % 2 ^ 20 = e → wfld w0 25 10 + 1 = n →
      exec (.opBrpt t c) s = .next (v.finish c (wordsOf w0) { ctl := .loop ⟨st, e, n⟩ })) ∧
    (u.Issues c .brptL w0 w1 false → (k.pc + 2) % 2 ^ 20 = st → wfld w0 19 0 = e →
      (if wbit w0 25 then (vget k.x (wfld w0 24 21)).toNat % 2 ^ 16 else wfld w1 15 0) + 1 = n →
      exec (.opBrptL t c) s = .next (v.finish c (wordsOf w0) { ctl := .loop ⟨st, e, n⟩ })))

/-- The period, frame and trace instructions complete (R247 to R250). -/
def Obligations.periodInstructionsComplete : Prop :=
  -- WAITT of a period that the core hosts or has hosted: the run ends and the newest ready frame is delivered or waited for (R247, R278)
  (∀ (s u v : State) (t : Time) (c : Fin 33) (w0 w1 : Word) (k : CoreSt), s.tick t = u → u.atIssue c = v → v.cr c = k →
    u.Issues c .waitt w0 w1 false →
    v.usesPeriod c (wfld w0 25 20) (wfld w0 19 18) = true →
    exec (.opWaitt t c) s = .next (v.finish c (wordsOf w0) { ctl := .waitt (wfld w0 25 20) (wfld w0 19 18) })) ∧
  -- IN of a period with a delivered frame: the frame word stands at distance 2 (R248)
  (∀ (s u v : State) (t : Time) (c : Fin 33) (w0 w1 : Word) (k : CoreSt) (key a : Nat) (upd : List (Nat × Wr)) (f : Frame), s.tick t = u → u.atIssue c = v → v.cr c = k →
    u.Issues c .in_ w0 w1 false →
    v.ioPeriod c w0 = some key →
    k.addrF w0 = (a, upd) →
    k.frameOf key = some f →
    exec (.opIn t c) s = .next (v.finish c (wordsOf w0) { wr := (2, .x (wfld w0 25 22) (vget f.words (a % 32))) :: upd })) ∧
  -- OUT within the reservation: the write leaves for staging with the tag and the number of the next frame (R249, R264)
  (∀ (s u v : State) (t : Time) (c : Fin 33) (w0 w1 : Word) (k : CoreSt) (key a : Nat) (upd : List (Nat × Wr)) (f : Frame), s.tick t = u → u.atIssue c = v → v.cr c = k →
    u.Issues c .out w0 w1 false →
    v.ioPeriod c w0 = some key →
    k.addrF w0 = (a, upd) →
    k.frameOf key = some f →
    tget 0 k.outs key < v.resOf (key / 4) (key % 4) →
    exec (.opOut t c) s = .next ((v.setCr c (fun k => { k with
      outs := tput k.outs key (some (tget 0 k.outs key + 1))
      outQ := k.outQ ++ [(key, a % 64, vget k.x (wfld w0 25 22), k.epoch, (f.k + 1) % 256, ex2At c v.now + ns 40)] })).finish c (wordsOf w0) { wr := upd })) ∧
  -- TRC with room in the buffer: the word and its stamp wait for the Hopper (R250)
  (∀ (s u v : State) (t : Time) (c : Fin 33) (w0 w1 : Word) (k : CoreSt) (a : Nat) (upd : List (Nat × Wr)), s.tick t = u → u.atIssue c = v → v.cr c = k →
    u.Issues c .trc w0 w1 false →
    k.addrF w0 = (a, upd) →
    k.trc.length < 16 →
    exec (.opTrc t c) s = .next ((v.setCr c (fun k => { k with trc := k.trc ++ [⟨a % 64, vget k.x (wfld w0 25 22),
      (ex2At c v.now + 8) / 16 * 16⟩] })).finish c (wordsOf w0) { wr := upd }))

/-- The commands of the cores complete (R209, R210, R213, R217 to R221). -/
def Obligations.coreCommandsComplete : Prop :=
  -- VECTOR_ENTRY of a vector from 2 to 7 at a clean boundary (R209, R210)
  (∀ (s u v : State) (t : Time) (k : Fin 4) (x : Nat), s.tick t = u → u.coreState (28 + k.val) = 1 → u.cleanBoundary (28 + k.val) = true →
    u.landDue (28 + k.val) = v → v.vecTake k = some x → 2 ≤ x → x < 8 →
    exec (.vectorEntry t k) s = .next (v.enterVector (28 + k.val) x (v.cr (28 + k.val)).pc)) ∧
  -- VECTOR_ENTRY of a routed vector: VEC_SRC names the page (R210, R211)
  (∀ (s u v : State) (t : Time) (k : Fin 4) (x ty n : Nat), s.tick t = u → u.coreState (28 + k.val) = 1 → u.cleanBoundary (28 + k.val) = true →
    u.landDue (28 + k.val) = v → v.vecTake k = some x → 8 ≤ x → routeHit v (v.rg (R.MW.ROUTE k (x - 8))) = some (ty, n) →
    exec (.vectorEntry t k) s = .next ((v.setRg (R.MW.VEC_SRC k) (BitVec.ofNat 32 (x + ty * 2 ^ 8 + n * 2 ^ 16))).enterVector (28 + k.val) x
      ((v.setRg (R.MW.VEC_SRC k) (BitVec.ofNat 32 (x + ty * 2 ^ 8 + n * 2 ^ 16))).cr (28 + k.val)).pc)) ∧
  -- WDOG_EXPIRE, the first time: vector 1 becomes pending, and the count runs again (R213)
  (∀ (s u : State) (t d : Time) (k : Fin 4), s.tick t = u → (u.cr (28 + k.val)).wdDue = some d → d ≤ u.now → u.bit (R.MW.WDOG k) 31 = true →
    (u.cr (28 + k.val)).wdOnce = false →
    exec (.wdogExpire t k) s = .next ((((u.setCr (28 + k.val) (fun x => { x with wdDue := some (d + u.wdTime k), wdOnce := true })).vecEdge k 1).coreIrq
      (28 + k.val) 8).corePost (28 + k.val) 0x05 0)) ∧
  -- WDOG_EXPIRE, the second time: FAULTED with WDOG2, and an island fault (R213)
  (∀ (s u : State) (t d : Time) (k : Fin 4), s.tick t = u → (u.cr (28 + k.val)).wdDue = some d → d ≤ u.now → u.bit (R.MW.WDOG k) 31 = true →
    (u.cr (28 + k.val)).wdOnce = true →
    exec (.wdogExpire t k) s = .next ((((((u.setCr (28 + k.val) (fun x => { x with wdDue := none })).recordFault (28 + k.val) 0x08
      (u.cr (28 + k.val)).pc none).coreIrq (28 + k.val) 8).corePost (28 + k.val) 0x05 1).enterFaulted (28 + k.val) 0x08
      (u.cr (28 + k.val)).pc).report 0x0B k 0 true 0)) ∧
  -- WDOG_KICK with the key while the watchdog is enabled (R213)
  (∀ (s u : State) (t : Time) (m : Master) (k : Fin 4), s.tick t = u → u.Writable (R.MW.base k) → u.bit (R.MW.WDOG k) 31 = true →
    u.coreState (28 + k.val) ≠ 3 →
    exec (.wdogKick t m k 0xA5C3) s = .next (u.setCr (28 + k.val) (fun c => { c with wdDue := some (u.now + u.wdTime k), wdOnce := false }))) ∧
  -- MW_TIMER_FIRE: the timer clears its enable and its vector is pending (R221)
  (∀ (s u : State) (t : Time) (k i : Fin 4), s.tick t = u → u.bit (R.MW.TIMER_CTRL k) i = true → ceilEdge (u.rg64 (R.MW.TIMER k i)) ≤ u.now →
    exec (.mwTimerFire t k i) s = .next ((u.putBit (R.MW.TIMER_CTRL k) i false).vecEdge k (4 + i.val))) ∧
  -- DOORBELL: vector 3 is pending (R209)
  (∀ (s u : State) (t : Time) (m : Master) (k : Fin 4), s.tick t = u → u.Writable (R.MW.base k) →
    exec (.doorbell t m k) s = .next (u.vecEdge k 3)) ∧
  -- CORE_GO, CORE_STOP, CORE_HALT, CORE_RESUME and CORE_STEP: the request is accepted and REFUSED clears, or refused with no other
  -- effect; FORCE is written as it stands (R217, R218, R220)
  (∀ (s u v : State) (t : Time) (m : Master) (c : Fin 32), s.tick t = u → u.Canonical → u.Writable (corePage c) →
    u.putBit (R.CORE.CTRL c) 5 (u.bit (R.CORE.CTRL c) 5) = v →
    (v.coreState c = 0 → v.en (corePage c) = true → u.bist.noGo = 0 →
      exec (.coreGo t m c) s = .next ((v.startCore c (v.fld (R.CORE.ENTRY c) 19 0)).reqRefused c false)) ∧
    (v.coreState c ≠ 0 → exec (.coreGo t m c) s = .next (v.reqRefused c true)) ∧
    (v.mayStop c = true → v.coreState c ≠ 5 → exec (.coreStop t m c) s = .next ((v.stopNow c).reqRefused c false)) ∧
    (v.mayStop c = true → v.coreState c = 1 → (v.reqRefused c false).cleanBoundary c = true →
      exec (.coreHalt t m c) s = .next ((v.reqRefused c false).haltNow c 0 0)) ∧
    (v.coreState c = 3 → exec (.coreResume t m c) s = .next ((((v.reqRefused c false).setCoreState c 1).setCr c (fun k =>
      { k.wdResume v.now with stepping := false, skipBp := true, issued := false, waitFor := none, after := none })).corePost c 0x03 0)) ∧
    (v.coreState c = 3 → exec (.coreStep t m c) s = .next ((((v.reqRefused c false).setCoreState c 1).setCr c (fun k =>
      { k.wdResume v.now with stepping := true, skipBp := true, issued := false, waitFor := none, after := none })).corePost c 0x03 1))) ∧
  -- HALTED: a pending halt is taken at a clean boundary with its reason (R217)
  (∀ (s u : State) (t : Time) (c : Fin 33), s.tick t = u → u.coreState c = 1 → u.cleanBoundary c = true → u.bit (R.CORE.STAT c) 4 = true →
    exec (.halted t c) s = .next (u.haltNow c (u.cr c).haltWhy.1 (u.cr c).haltWhy.2)) ∧
  -- BREAKPOINT_HIT at a clean boundary (R218)
  (∀ (s u : State) (t : Time) (c : Fin 33) (b : Nat), s.tick t = u → u.coreState c = 1 → (u.cr c).skipBp = false → u.bpAt c (u.cr c).pc = some b →
    u.cleanBoundary c = true →
    exec (.breakpointHit t c) s = .next (u.haltNow c 2 b)) ∧
  -- WATCHPOINT_HIT: the halt that a watchpoint asked for is taken at a clean boundary (R218)
  (∀ (s u : State) (t : Time) (c : Fin 33) (w : Nat), s.tick t = u → u.bit (R.CORE.STAT c) 4 = true → (u.cr c).haltWhy = (3, w) → u.coreState c = 1 →
    u.cleanBoundary c = true →
    exec (.watchpointHit t c) s = .next (u.haltNow c 3 w)) ∧
  -- DBG_DATA_READ of a quiet core: the selected value as pending results leave it; of another core: 0 and REFUSED (R219)
  (∀ (s u : State) (t : Time) (m : Master) (c : Fin 32), s.tick t = u →
    (u.coreQuiet c = true → exec (.dbgDataRead t m c) s = .next { u.reqRefused c false with
      rd := BitVec.ofNat 64 (BitVec.ofNat 32 (((u.drain c).cr c).read c (u.fld (R.CORE.DBG_SEL c) 7 0))).toNat }) ∧
    (u.coreQuiet c = false → exec (.dbgDataRead t m c) s = .next { u.reqRefused c true with rd := 0 })) ∧
  -- DBG_DATA_WRITE of a quiet core: the selected register takes the value (R219)
  (∀ (s u : State) (t : Time) (m : Master) (c : Fin 32) (v : Word), s.tick t = u → u.Writable (corePage c) → u.coreQuiet c = true →
    u.fld (R.CORE.DBG_SEL c) 7 0 ≠ 0x39 → u.fld (R.CORE.DBG_SEL c) 7 0 ≠ 0x3C →
    exec (.dbgDataWrite t m c v) s = .next ((u.reqRefused c false).setCr c (fun k => k.write c (u.fld (R.CORE.DBG_SEL c) 7 0) v.toNat)))

/-- The commands of the Latch unit and of the Hopper complete (R352 to R355, R359, R363, R366, R368, R372 to R375, R378). -/
def Obligations.captureCommandsComplete : Prop :=
  -- CP_EDGE: the level, the event where the edge is enabled, and the latch channels in order (R352, R353)
  (∀ (s u v : State) (t stamp : Time) (i : Fin 32) (lvl : Bool), s.tick t = u → u.lat.cpPins.getLsbD i ≠ lvl →
    tdcGlitch (vget u.lat.cpLast i) stamp = false →
    ({ u with lat := { u.lat with
      cpPins := wput u.lat.cpPins i i (b2n lvl), cpLast := vupd u.lat.cpLast i.val (fun _ => some stamp) } } : State).probeStamp
      (16 + i.val) stamp = v → v.en R.CAPT.base = true →
    v.bit (if lvl then R.CAPT.CP_RISE else R.CAPT.CP_FALL) i = true →
    exec (.cpEdge t i lvl stamp) s = .next ((v.post (0x30 + i.val) 0x01 stamp (b2n lvl)).latchPin 0 i lvl stamp)) ∧
  -- SYNC_EDGE: the level, the event, the shared starts and the latch channels (R318, R352, R353)
  (∀ (s u v w : State) (t stamp : Time) (i : Fin 8) (lvl : Bool), s.tick t = u → u.lat.syncPins.getLsbD i ≠ lvl →
    tdcGlitch (vget u.lat.syncLast i) stamp = false →
    ({ u with lat := { u.lat with
      syncPins := BitVec.ofNat 8 (putBitN u.lat.syncPins.toNat i lvl), syncLast := vupd u.lat.syncLast i.val (fun _ => some stamp) } } :
      State).probeStamp (8 + i.val) stamp = v → v.en R.CAPT.base = true →
    v.bit R.CAPT.SYNC_EDGE (if lvl then i.val else 8 + i.val) = true → v.post (0x150 + i.val) 0x01 stamp (b2n lvl) = w →
    w.fld R.TIME.SNAP_CTRL 2 1 ≠ 1 →
    exec (.syncEdge t i lvl stamp) s = .next ((w.setSync i lvl stamp).latchPin 2 i lvl stamp)) ∧
  -- LATCH_ARM and LATCH_DISARM of the channel that the master's LTSEL names (R354)
  (∀ (s u : State) (t : Time) (m : Master), s.tick t = u → u.Writable R.CAPT.base →
    (u.fld (R.LT.CFG (u.selOf m).ltsel) 1 0 ≠ 0 → exec (.latchArm t m) s = .next (u.armChan (u.selOf m).ltsel true)) ∧
    (u.fld (R.LT.CFG (u.selOf m).ltsel) 1 0 = 0 → exec (.latchArm t m) s = .next (u.cmdRefused R.CAPT.base)) ∧
    exec (.latchDisarm t m) s = .next (u.armChan (u.selOf m).ltsel false)) ∧
  -- LATCH_RESULT_COMPLETE and LATCH_WAIT_TIMEOUT: the results concerned complete, channel by channel (R355, R357)
  (∀ (s u : State) (t : Time), s.tick t = u →
    exec (.latchResultComplete t) s = .next (u.latchSweep State.latchReady) ∧
    exec (.latchWaitTimeout t) s = .next (u.latchSweep (fun s w => s.latchExpired w && !s.latchReady w))) ∧
  -- RES_POP: the head of the queue is removed and held for the master (R359)
  (∀ (s u : State) (t : Time) (m : Master) (r : LatchRes) (l : List LatchRes), s.tick t = u → u.popShut (R.CAPT.base + 0x80) = none → u.lat.queue = r :: l →
    exec (.resPop t m false) s = .next { ({ u with lat := { u.lat with queue := l, hold := some (m, r) } } : State).showResults with
      rd := BitVec.ofNat 64 r.words[0].toNat }) ∧
  -- RES_POP_WORD by the holder: word 7 ends the hold (R359)
  (∀ (s u : State) (t : Time) (m : Master) (i : Fin 8) (r : LatchRes), s.tick t = u → u.popShut (R.CAPT.base + 0x80 + 4 * i.val) = none → u.lat.hold = some (m, r) →
    i.val ≠ 0 →
    (i.val < 7 → exec (.resPopWord t m i) s = .next { u with rd := BitVec.ofNat 64 (vget r.words i.val).toNat }) ∧
    (i.val = 7 → exec (.resPopWord t m i) s = .next { u with
      lat := { u.lat with hold := none }, rd := BitVec.ofNat 64 (vget r.words i.val).toNat })) ∧
  -- TRACE_ENTRY of a core: the oldest word leaves its buffer; the Hopper takes it only while it is enabled (R363)
  (∀ (s u : State) (t : Time) (k : Fin 33) (w : TraceWord) (rest : List TraceWord), s.tick t = u → k.val < 32 → (vget u.core k).trc = w :: rest →
    u.hopEn = false →
    exec (.traceEntry t k) s = .next { u with core := vupd u.core k.val (fun c => { c with trc := rest }) }) ∧
  -- TRACE_ENTRY of a core while the Hopper captures its channel: the word waits for its TCLK edge, with the other words due
  -- at it (R362, R363)
  (∀ (s u v : State) (t : Time) (k : Fin 33) (w : TraceWord) (rest : List TraceWord), s.tick t = u → k.val < 32 → (vget u.core k).trc = w :: rest →
    u.hopEn = true → wfld (u.hrg (R.HOPPER.CH_SRC w.chan)) 23 20 = 0 →
    ({ u with core := vupd u.core k.val (fun c => { c with trc := rest }) } : State).thValue w.chan w.val w.stamp = v → v.capturing = true →
    bitN (v.rg64 R.HOPPER.CH_EN) w.chan = true →
    exec (.traceEntry t k) s = .next (v.setHop (fun h => { h with nodes := h.nodes ++ [⟨w.chan, w.val, w.stamp, ceilEdge v.now⟩] }))) ∧
  -- TRACE_ENTRY of the hardware nodes: their values go with the TCLK edge at which they are due (R363)
  (∀ (s : State) (t : Time), exec (.traceEntry t 32) s = .next (s.tick t)) ∧
  -- SEGMENT_REARM (R372)
  (∀ (s u : State) (t : Time), s.tick t = u → u.hopState = 3 → exec (.segmentRearm t) s = .next u.hopStart) ∧
  -- HOPPER_ARM from IDLE (R368, R372); refused with a reason in any other state (R373)
  (∀ (s u : State) (t : Time) (m : Master), s.tick t = u → u.Writable R.HOPPER.base →
    (u.hopState = 0 → u.hop.bist = false → u.bit R.HOPPER.TRIG_CFG 9 = false →
      exec (.hopperArm t m) s = .next (u.setHop (fun h => { h with taken := 0, missed := 0, aFired := none, last := u.probeNow, seen := u.probeNow, stamps := [], fresh := [], pulse := 0, matching := u.patMask u.probeNow, nodes := [], due := 0 })).hopStart) ∧
    (u.hopState ≠ 0 → exec (.hopperArm t m) s = .next ((u.putFld R.HOPPER.STAT 15 8 1).cmdRefused R.HOPPER.base))) ∧
  -- HOPPER_DISARM: a segment that waits for its trigger is discarded (R373)
  (∀ (s u : State) (t : Time) (m : Master), s.tick t = u → u.Writable R.HOPPER.base → u.hopState ≠ 2 →
    exec (.hopperDisarm t m) s = .next ((u.setHop (fun h => { h with aFired := none, want := false })).setHopState 0)) ∧
  -- HOPPER_FORCE: the cause FORCE is due at the TCLK edge that follows (R366, R369)
  (∀ (s u : State) (t : Time) (m : Master), s.tick t = u → u.Writable R.HOPPER.base →
    exec (.hopperForce t m) s = .next (u.hopDue 64)) ∧
  -- HOPPER_CLEAR in IDLE: every segment free, SEQ_NEXT, SEG_RD and PEND 0 (R378)
  (∀ (s u : State) (t : Time) (m : Master), s.tick t = u → u.Writable R.HOPPER.base → u.hopState = 0 →
    exec (.hopperClear t m) s = .next (((u.setHop (fun h => { h with segs := [], next := 0, missed := 0, full := false })).setRg R.HOPPER.SEQ_NEXT
      0).putFld R.HOPPER.SEG_RD 15 0 0).showPend) ∧
  -- HOPPER_MT_TRIGGER when machine time has reached TRIG_MT (R368)
  (∀ (s u : State) (t : Time), s.tick t = u → u.hopState ≠ 0 → u.bit R.HOPPER.TRIG_CFG 9 = true →
    u.mtReached (mtOfRegs (u.rg64 R.HOPPER.TRIG_MT_SEC) (u.rg64 R.HOPPER.TRIG_MT_NSF)) = true → u.unsureAt (edgeOf (ceilEdge u.now)) = false →
    exec (.hopperMtTrigger t) s = .next ((u.putBit R.HOPPER.TRIG_CFG 9 false).hopDue 32)) ∧
  -- SEG_RD_WRITE with a drain destination: the value alone; without one the segments passed are free again (R375)
  (∀ (s u v : State) (t : Time) (m : Master) (x : Word), s.tick t = u → u.Writable R.HOPPER.base →
    u.putFld R.HOPPER.SEG_RD 15 0 (x.toNat % 2 ^ 16) = v →
    (v.fld R.HOPPER.DRAIN_CTRL 1 0 ≠ 0 → exec (.segRdWrite t m x) s = .next v) ∧
    (v.fld R.HOPPER.DRAIN_CTRL 1 0 = 0 → exec (.segRdWrite t m x) s = .next (v.setHop (fun h => { h with segs := h.segs.filter (fun g =>
      decide ((x.toNat % 2 ^ 16 + u.segNum - u.fld R.HOPPER.SEG_RD 15 0 % u.segNum) % u.segNum ≤
        (g.idx + u.segNum - u.fld R.HOPPER.SEG_RD 15 0 % u.segNum) % u.segNum)) })).hopFreed)) ∧
  -- DRAIN_RD_WRITE (R375)
  (∀ (s u : State) (t : Time) (m : Master) (v : Word), s.tick t = u → u.Writable R.HOPPER.base →
    exec (.drainRdWrite t m v) s = .next (u.setRg R.HOPPER.DRAIN_RD v)) ∧
  -- DRAIN_COPY_DONE without bad words: the oldest pending segment lies at its slot, DRAIN_WR advances and the segment is free (R375)
  (∀ (s u : State) (t : Time) (g : HopSeg) (rest : List HopSeg) (sz src dest : Nat), s.tick t = u → u.copying = true → u.hop.segs = g :: rest →
    u.hop.bad = [] → 2 ^ u.segSize = sz → u.segBase g.idx = src →
    (if u.fld R.HOPPER.DRAIN_CTRL 1 0 = 1 then hostBase else pondBase) + (u.rg64 R.HOPPER.DRAIN_BASE / sz * sz +
      (u.rg R.HOPPER.DRAIN_WR).toNat % nz (u.fld R.HOPPER.DRAIN_SLOTS 16 0) * sz) = dest →
    exec (.drainCopyDone t) s = .next ((((List.range (sz / 4)).foldl (fun (x : State) i => x.stw (dest + 4 * i) (x.ldw (src + 4 * i))) u).setHop
      (fun h => { h with segs := rest })).setRg R.HOPPER.DRAIN_WR (BitVec.ofNat 32 ((u.rg R.HOPPER.DRAIN_WR).toNat + 1))).hopFreed)

/-- The commands of an axis in Windshaft complete (R301, R304, R305, R316, R320, R322, R323, R345). -/
def Obligations.axisCommandsComplete : Prop :=
  -- PROFILE_TICK of a single axis that Windshaft drives, at a sample instant of its outermost level (R301)
  (∀ (s u : State) (t tk : Time) (a : Fin 64), s.tick t = u → (u.axs a).next = some tk → tk ≤ u.now → u.axRun a = true →
    u.levelDue a (u.levels a - 1) = true → (u.aw a).tick ≠ some tk → u.groupOf a = none → u.wallSrc a = false →
    exec (.profileTick t a) s = .next (u.wsTick a tk)) ∧
  -- PROFILE_TICK of an axis that the Wallower drives and no other axis's commanded position (R301, R347)
  (∀ (s u : State) (t tk : Time) (a : Fin 64), s.tick t = u → (u.axs a).next = some tk → tk ≤ u.now → u.axRun a = true →
    u.levelDue a (u.levels a - 1) = true → (u.aw a).tick ≠ some tk → u.groupOf a = none → u.wallSrc a = true →
    (u.linkOf a).all (fun l => u.msrc l != 0) = true →
    exec (.profileTick t a) s = .next (u.wallTick a tk)) ∧
  -- PROFILE_TICK of a grouped axis (R301, R313)
  (∀ (s u : State) (t tk : Time) (a : Fin 64) (g : Nat), s.tick t = u → (u.axs a).next = some tk → tk ≤ u.now → u.axRun a = true →
    u.levelDue a (u.levels a - 1) = true → (u.aw a).tick ≠ some tk → u.groupOf a = some g →
    exec (.profileTick t a) s = .next (u.groupTick g a tk)) ∧
  -- QUEUE_WRITE: the pointer moves forward over entries that the queue has room for; otherwise CFG_REFUSED (R305)
  (∀ (s u : State) (t : Time) (m : Master) (a : Fin 64) (v : Word), s.tick t = u → u.Writable (R.AXIS.base a) →
    ((v.toNat % 1024 + 1024 - u.fld (R.AXIS.Q_RD a) 9 0) % 1024 ≤ 512 →
      u.qLevel a ≤ (v.toNat % 1024 + 1024 - u.fld (R.AXIS.Q_RD a) 9 0) % 1024 →
      exec (.queueWrite t m a v) s = .next (u.setRg (R.AXIS.Q_WR a) (BitVec.ofNat 32 (v.toNat % 1024)))) ∧
    (512 < (v.toNat % 1024 + 1024 - u.fld (R.AXIS.Q_RD a) 9 0) % 1024 →
      exec (.queueWrite t m a v) s = .next (u.cfgRefused (R.AXIS.base a))) ∧
    ((v.toNat % 1024 + 1024 - u.fld (R.AXIS.Q_RD a) 9 0) % 1024 < u.qLevel a →
      exec (.queueWrite t m a v) s = .next (u.cfgRefused (R.AXIS.base a)))) ∧
  -- AXIS_START of an IDLE axis in RUN that is in no group, no slave, not invalid, and has a stop deceleration:
  -- it starts at the first tick from 1 us on (R301, R323)
  (∀ (s u : State) (t : Time) (m : Master) (a : Fin 64), s.tick t = u → u.Writable (R.AXIS.base a) → u.axState a = 0 → u.axRun a = true →
    u.groupOf a = none → (u.aw a).invalid = false → u.stopDecOf a ≠ 0 → u.wallSrc a = false →
    exec (.axisStart t m a) s = .next (u.setAw a (fun w => { w with startAt := some (w.startAt.getD (u.now + us 1)) }))) ∧
  -- AXIS_START of an axis that is not IDLE: refused (R323)
  (∀ (s u : State) (t : Time) (m : Master) (a : Fin 64), s.tick t = u → u.Writable (R.AXIS.base a) → u.axState a ≠ 0 →
    exec (.axisStart t m a) s = .next (u.cmdRefused (R.AXIS.base a))) ∧
  -- AXIS_STOP of a MOVING axis in no group: the stop becomes effective from 100 ns on (R320); in any STATE but ARMED,
  -- MOVING and FOLLOWING it is refused (R323)
  (∀ (s u : State) (t : Time) (m : Master) (a : Fin 64), s.tick t = u → u.Writable (R.AXIS.base a) →
    (u.axState a = 2 → u.groupOf a = none → exec (.axisStop t m a) s = .next (u.stopRequest a 0)) ∧
    (u.axState a = 0 ∨ u.axState a = 3 ∨ u.axState a = 4 → exec (.axisStop t m a) s = .next (u.cmdRefused (R.AXIS.base a)))) ∧
  -- AXIS_STOP of a MOVING axis in a group stops the group (R320)
  (∀ (s u : State) (t : Time) (m : Master) (a : Fin 64) (g : Nat), s.tick t = u → u.Writable (R.AXIS.base a) → u.axState a = 2 →
    u.groupOf a = some g → exec (.axisStop t m a) s = .next (u.grStopRequest g 0)) ∧
  -- AXIS_RESUME of a STOPPED axis in no group and on no link, in RUN, that the levels permit, with a stop deceleration (R322)
  (∀ (s u : State) (t : Time) (m : Master) (a : Fin 64), s.tick t = u → u.Writable (R.AXIS.base a) → u.linkOf a = none →
    u.groupOf a = none → u.axState a = 4 → u.axRun a = true → u.resumeOk a = true → u.stopDecOf a ≠ 0 →
    exec (.axisResume t m a) s = .next (u.setAw a (fun w => { w with resumeAt := some u.now }))) ∧
  -- AXIS_ABANDON of a STOPPED axis in no group: IDLE, its interrupted segment gone; a held link returns to IDLE (R323, R345)
  (∀ (s u : State) (t : Time) (m : Master) (a : Fin 64), s.tick t = u → u.Writable (R.AXIS.base a) → u.groupOf a = none → u.axState a = 4 →
    u.linkOf a = none → exec (.axisAbandon t m a) s = .next (u.axAbandon a)) ∧
  -- AXIS_ABANDON of the STOPPED slave of a link: the link is IDLE too (R345)
  (∀ (s u : State) (t : Time) (m : Master) (a : Fin 64) (l : Nat), s.tick t = u → u.Writable (R.AXIS.base a) → u.groupOf a = none → u.axState a = 4 →
    u.linkOf a = some l → exec (.axisAbandon t m a) s = .next ((u.axAbandon a).setLinkState l 0)) ∧
  -- AXIS_FLUSH of an axis at rest empties its queue; otherwise refused (R323)
  (∀ (s u : State) (t : Time) (m : Master) (a : Fin 64), s.tick t = u → u.Writable (R.AXIS.base a) →
    (u.atRest a = true → exec (.axisFlush t m a) s = .next (u.setRg (R.AXIS.Q_RD a) (u.rg (R.AXIS.Q_WR a)))) ∧
    (u.atRest a = false → exec (.axisFlush t m a) s = .next (u.cmdRefused (R.AXIS.base a)))) ∧
  -- AXIS_SETPOS and AXIS_FBPOS at rest: the commanded position is set at the next tick (R323); FBPOS needs a valid primary port
  (∀ (s u : State) (t : Time) (m : Master) (a : Fin 64), s.tick t = u → u.Writable (R.AXIS.base a) →
    (u.atRest a = true → exec (.axisSetpos t m a) s = .next (u.setAw a (fun w => { w with setReq := some false, invalid := false }))) ∧
    (u.atRest a = false → exec (.axisSetpos t m a) s = .next (u.cmdRefused (R.AXIS.base a))) ∧
    ((vget u.fbSel a).primary = none → exec (.axisFbpos t m a) s = .next (u.cmdRefused (R.AXIS.base a)))) ∧
  -- AXIS_FBPOS at rest with a valid primary port (R304, R323)
  (∀ (s u : State) (t : Time) (m : Master) (a : Fin 64) (n : Nat), s.tick t = u → u.Writable (R.AXIS.base a) → u.atRest a = true →
    (vget u.fbSel a).primary = some n → (u.fbSample n u.now).2.2.2 = true →
    exec (.axisFbpos t m a) s = .next (u.setAw a (fun w => { w with setReq := some true, invalid := false })))

/-- The commands of an interpolation group complete (R312, R315, R320, R322, R323). -/
def Obligations.groupCommandsComplete : Prop :=
  -- GROUP_ENABLE with an illegal configuration: CFG_REFUSED with its reason; with a legal one the group is IDLE, its members are grouped and IDLE (R312)
  (∀ (s u : State) (t : Time) (m : Master) (g : Fin 16) (v : Word), s.tick t = u → u.Writable (R.IGRP.base g) →
    u.bit (R.IGRP.CTRL g) 0 = false → bitsN v.toNat 20 16 = u.fld (R.IGRP.CTRL g) 20 16 → bitN v.toNat 0 = true →
    (u.grRefusal g ≠ 0 → exec (.groupEnable t m g v) s =
      .next ((u.cfgRefused (R.IGRP.base g)).putFld (R.IGRP.STAT g) 23 16 (u.grRefusal g))) ∧
    (u.grRefusal g = 0 → bitsN v.toNat 13 8 ∈ u.members g → exec (.groupEnable t m g v) s =
      .next ((u.members g).foldl (fun s a => (s.putBit (R.AXIS.STAT a) 4 true).setAxState a 0)
        (((u.setRg (R.IGRP.CTRL g) (BitVec.ofNat 32 (v.toNat &&& 0x1f3f01))).setGr g (fun _ => {})).putFld (R.IGRP.STAT g) 2 0 0)))) ∧
  -- GROUP_START of an enabled IDLE group whose members are all in RUN and may start (R323)
  (∀ (s u : State) (t : Time) (m : Master) (g : Fin 16), s.tick t = u → u.Writable (R.IGRP.base g) → u.grIs g 0 = true →
    (u.members g).all (fun a => u.axRun a && !(u.aw a).invalid && u.stopDecOf a != 0) = true →
    exec (.groupStart t m g) s = .next (u.setGr g (fun r => { r with startAt := some (r.startAt.getD (u.now + us 1)) }))) ∧
  -- GROUP_STOP of a MOVING group: all members stop together; the command's cause ranks above a member's STOP (R320)
  (∀ (s u : State) (t : Time) (m : Master) (g : Fin 16), s.tick t = u → u.Writable (R.IGRP.base g) → u.grIs g 2 = true →
    exec (.groupStop t m g) s = .next (u.grStopRequest g 1)) ∧
  -- GROUP_RESUME of a STOPPED group whose members may all resume (R322)
  (∀ (s u : State) (t : Time) (m : Master) (g : Fin 16), s.tick t = u → u.Writable (R.IGRP.base g) → u.grIs g 4 = true →
    (u.members g).all (fun a => u.axRun a && u.resumeOk a && u.stopDecOf a != 0) = true →
    exec (.groupResume t m g) s = .next (u.setGr g (fun r => { r with resumeAt := some u.now }))) ∧
  -- GROUP_ABANDON of a STOPPED group: IDLE, nothing left of the interrupted segment (R323)
  (∀ (s u : State) (t : Time) (m : Master) (g : Fin 16), s.tick t = u → u.Writable (R.IGRP.base g) → u.grIs g 4 = true →
    exec (.groupAbandon t m g) s = .next ((((u.members g).foldl (fun s a => s.setRg64 (R.AXIS.REMAIN a) 0) u).setGrState g 0).setGr g
      (fun r => { r with seg := none, resumeAt := none }))) ∧
  -- GROUP_FLUSH of a group that is IDLE or STOPPED empties every member's queue (R323)
  (∀ (s u : State) (t : Time) (m : Master) (g : Fin 16), s.tick t = u → u.Writable (R.IGRP.base g) → (u.grIs g 0 || u.grIs g 4) = true →
    exec (.groupFlush t m g) s = .next ((u.members g).foldl (fun s a => s.setRg (R.AXIS.Q_RD a) (s.rg (R.AXIS.Q_WR a))) u)) ∧
  -- every command of a group that is not enabled is refused (R323)
  (∀ (s u : State) (t : Time) (m : Master) (g : Fin 16), s.tick t = u → u.Writable (R.IGRP.base g) → u.bit (R.IGRP.CTRL g) 0 = false →
    exec (.groupStart t m g) s = .next (u.cmdRefused (R.IGRP.base g)) ∧ exec (.groupStop t m g) s = .next (u.cmdRefused (R.IGRP.base g)) ∧
    exec (.groupResume t m g) s = .next (u.cmdRefused (R.IGRP.base g)) ∧ exec (.groupAbandon t m g) s = .next (u.cmdRefused (R.IGRP.base g)) ∧
    exec (.groupFlush t m g) s = .next (u.cmdRefused (R.IGRP.base g)))

/-- The commands of the start sets complete (R317 to R319, R330). -/
def Obligations.startSetCommandsComplete : Prop :=
  -- START_SET_ARM of a set that is not armed: the arm is judged and taken, or refused with its reason (R317)
  (∀ (s u : State) (t : Time) (m : Master) (n : Fin 16), s.tick t = u → u.Writable (R.IGRP.base n) → u.setArmed n = false →
    u.fld (R.IGRP.SS_CTRL n) 1 0 ≠ 3 →
    exec (.startSetArm t m n) s = .next ((u.setRg (R.IGRP.SS_CTRL n) (BitVec.ofNat 32 (u.fld (R.IGRP.SS_CTRL n) 5 0))).setArm n)) ∧
  -- START_SET_ARM while it is armed: refused (R317)
  (∀ (s u : State) (t : Time) (m : Master) (n : Fin 16), s.tick t = u → u.Writable (R.IGRP.base n) → u.setArmed n = true →
    exec (.startSetArm t m n) s = .next (u.cfgRefused (R.IGRP.base n))) ∧
  -- START_SET_DISARM: the set is IDLE, its members have the STATE that they had (R317, R330)
  (∀ (s u : State) (t : Time) (m : Master) (n : Fin 16), s.tick t = u → u.Writable (R.IGRP.base n) → u.fld (R.IGRP.SS_CTRL n) 1 0 ≠ 3 →
    exec (.startSetDisarm t m n) s = .next (((u.setRg (R.IGRP.SS_CTRL n)
      (BitVec.ofNat 32 (u.fld (R.IGRP.SS_CTRL n) 5 0))).unarm n).setRg (R.IGRP.SS_STAT n) 0)) ∧
  -- START_SET_STROBE with TRIG = 0: e is the first TCLK edge not earlier than the write (R318)
  (∀ (s u : State) (t : Time) (m : Master) (n : Fin 16), s.tick t = u → u.Writable (R.IGRP.base n) → u.fld (R.IGRP.SS_CTRL n) 1 0 = 0 →
    exec (.startSetStrobe t m n) s = .next ((u.setRg (R.IGRP.SS_CTRL n)
      (BitVec.ofNat 32 (u.fld (R.IGRP.SS_CTRL n) 5 0))).setTrigger n (ceilEdge u.now))) ∧
  -- START_SET_STROBE with another TRIG triggers nothing (R318)
  (∀ (s u : State) (t : Time) (m : Master) (n : Fin 16), s.tick t = u → u.Writable (R.IGRP.base n) →
    (u.fld (R.IGRP.SS_CTRL n) 1 0 = 1 ∨ u.fld (R.IGRP.SS_CTRL n) 1 0 = 2) →
    exec (.startSetStrobe t m n) s = .next (u.setRg (R.IGRP.SS_CTRL n) (BitVec.ofNat 32 (u.fld (R.IGRP.SS_CTRL n) 5 0)))) ∧
  -- START_SET_MT_TRIGGER: an armed set with TRIG = 2 whose instant machine time has reached triggers (R318),
  -- and is cancelled and fails while machine time is unsure (R69, R319)
  (∀ (s u : State) (t : Time) (n : Fin 16), s.tick t = u → u.fld (R.IGRP.SS_STAT n) 2 0 = 1 → u.fld (R.IGRP.SS_CTRL n) 1 0 = 2 →
    u.mtReached (mtOfRegs (u.rg64 (R.IGRP.SS_MT_SEC n)) (u.rg64 (R.IGRP.SS_MT_NSF n))) = true →
    (u.unsureAt (edgeOf (ceilEdge u.now)) = false → exec (.startSetMtTrigger t n) s = .next (u.setTrigger n (ceilEdge u.now))) ∧
    (u.unsureAt (edgeOf (ceilEdge u.now)) = true → exec (.startSetMtTrigger t n) s =
      .next ((u.schedCancel 1 n (ceilEdge u.now) (bitsN (u.rg64 (R.IGRP.SS_MT_NSF n)) 61 32)).setFail n 6))) ∧
  -- START: the members of a triggered set take their ticks at its start instant (R318)
  (∀ (s u : State) (t : Time) (n : Fin 16), s.tick t = u → u.fld (R.IGRP.SS_STAT n) 2 0 = 2 → (vget u.sset n).ts ≤ u.now →
    exec (.startSetStart t n) s = .next ((u.setAll (vget u.sset n).axes (vget u.sset n).groups).foldl (fun s a => s.profileTick a) u))

/-- The commands of the Wallower complete (R334, R341, R342, R344). -/
def Obligations.linkCommandsComplete : Prop :=
  -- ENGAGE of the link that the master's LSEL names, refused: REASON and CMD_REFUSED; accepted: link and slave are ARMED, LINK_ARMED is posted (R342)
  (∀ (s u : State) (t : Time) (m : Master) (l : Nat), s.tick t = u → u.Writable R.WALL.base → (u.selOf m).lsel = l →
    (u.engageRefusal l ≠ 0 → exec (.engage t m) s = .next ((u.putFld (R.LINK.STAT l) 15 8 (u.engageRefusal l)).cmdRefused R.WALL.base)) ∧
    (u.engageRefusal l = 0 → exec (.engage t m) s = .next (((((u.setLinkState l 1).setAxState (u.slaveOf l) 1).setLk l (fun _ =>
      { mPrev := match (u.aw (u.slaveOf l)).tick with | some t => u.masterWas l t | none => none,
        armAt := u.now }))).wallPost l 0x18 (u.eventTick [u.slaveOf l]) l))) ∧
  -- DISENGAGE of an engaging or engaged link: it disengages 100 ns later; otherwise CMD_REFUSED (R344)
  (∀ (s u : State) (t : Time) (m : Master) (l : Nat), s.tick t = u → u.Writable R.WALL.base → (u.selOf m).lsel = l →
    (u.linkState l = 2 ∨ u.linkState l = 3 → exec (.disengage t m) s = .next (u.setLk l (fun x => { x with disAt := some (u.now + ns 100) }))) ∧
    (u.linkState l ≠ 2 → u.linkState l ≠ 3 → exec (.disengage t m) s = .next (u.cmdRefused R.WALL.base))) ∧
  -- DIS_ARM of an armed, engaging or engaged link arms the disengagement at a crossing; otherwise CMD_REFUSED (R344)
  (∀ (s u : State) (t : Time) (m : Master) (l : Nat), s.tick t = u → u.Writable R.WALL.base → (u.selOf m).lsel = l →
    (u.linkState l = 1 ∨ u.linkState l = 2 ∨ u.linkState l = 3 →
      exec (.disArm t m) s = .next (u.setLk l (fun x => { x with disArm := true }))) ∧
    (u.linkState l ≠ 1 → u.linkState l ≠ 2 → u.linkState l ≠ 3 → exec (.disArm t m) s = .next (u.cmdRefused R.WALL.base))) ∧
  -- CANCEL of an armed link: taken at the next tick; otherwise CMD_REFUSED (R344)
  (∀ (s u : State) (t : Time) (m : Master) (l : Nat), s.tick t = u → u.Writable R.WALL.base → (u.selOf m).lsel = l →
    (u.linkState l = 1 → exec (.cancel t m) s = .next (u.setLk l (fun x => { x with cancel := true }))) ∧
    (u.linkState l ≠ 1 → exec (.cancel t m) s = .next (u.cmdRefused R.WALL.base))) ∧
  -- VIRTUAL_MASTER_UPDATE of an enabled virtual master, not before the next multiple of 1 us: the velocity moves towards VEL by
  -- at most ACC a microsecond (at once with ACC = 0), the position by the velocity, or to SETPOS_VAL (R334)
  (∀ (s u : State) (t : Time) (v : Fin 8) (x : VmSt) (vel : Int), s.tick t = u → u.vmOf v = x → u.bit (R.WALL.VM_CTRL v) 0 = true →
    (x.last / us 1 + 1) * us 1 ≤ u.now →
    ((u.sgn64 (R.WALL.VM_ACC v)).natAbs = 0 → vel = u.sgn64 (R.WALL.VM_VEL v) * 10 ^ 6 →
      exec (.virtualMasterUpdate t v) s = .next ((u.setVm v (fun _ => {
        pos := if x.setReq then u.sgn64 (R.WALL.VM_SETPOS_VAL v) * 2 ^ 8 * 10 ^ 12 else x.pos + vel, vel := vel,
        last := (x.last / us 1 + 1) * us 1, setReq := false })).vmShow v)) ∧
    ((u.sgn64 (R.WALL.VM_ACC v)).natAbs ≠ 0 → vel = x.vel + clampI (-((u.sgn64 (R.WALL.VM_ACC v)).natAbs : Int))
        ((u.sgn64 (R.WALL.VM_ACC v)).natAbs : Int) (u.sgn64 (R.WALL.VM_VEL v) * 10 ^ 6 - x.vel) →
      exec (.virtualMasterUpdate t v) s = .next ((u.setVm v (fun _ => {
        pos := if x.setReq then u.sgn64 (R.WALL.VM_SETPOS_VAL v) * 2 ^ 8 * 10 ^ 12 else x.pos + vel, vel := vel,
        last := (x.last / us 1 + 1) * us 1, setReq := false })).vmShow v))) ∧
  -- VM_SETPOS: refused while a link that is not IDLE or disengaging names the virtual master; otherwise it acts at the next update (R334)
  (∀ (s u : State) (t : Time) (m : Master) (v : Fin 8), s.tick t = u → u.Writable R.WALL.base → u.rg (R.WALL.VM_CTRL v) = 1 →
    exec (.vmSetpos t m v) s = .next (((u.setRg (R.WALL.VM_CTRL v) 1)).vmSetpos v)) ∧
  -- CT_WRITE of the table that the master's TSEL names: refused while a link uses it (R341)
  (∀ (s u : State) (t : Time) (m : Master) (k : Fin 3) (v : DWord) (c : Nat), s.tick t = u → u.Writable R.WALL.base → (u.selOf m).tsel = c →
    (u.tableUsed c = true → exec (.ctWrite t m k v) s = .next (u.cfgRefused R.WALL.base)) ∧
    (u.tableUsed c = false → exec (.ctWrite t m k v) s = .next (u.writeReg m (R.CT.base c) (R.CT.N c + 8 * k) v.toNat)))

/-- The commands of the field inputs complete (R382 to R385). -/
def Obligations.fieldInputCommandsComplete : Prop :=
  -- FIELD_INPUT_CHANGE to a level that differs from the last one, at an edge that samples it: it is judged from its raw
  -- stamp on (R23, R382, R383)
  (∀ (s u : State) (t seen : Time) (i : Fin 32) (lvl : Bool), s.tick t = u →
    ((u.fin i).pin ≠ lvl → u.fiSampled i (u.fiEdge seen) = true → exec (.fieldInputChange t i lvl seen) s =
      .next ((u.setFin i (fun f => { f with pin := lvl })).fiJudge i u.rawNow)) ∧
    ((u.fin i).pin = lvl → exec (.fieldInputChange t i lvl seen) s = .next u)) ∧
  -- FIELD_INPUT_CHANGE between the sampling windows of a slow input: its level is held (R381)
  (∀ (s u : State) (t seen : Time) (i : Fin 32) (lvl : Bool), s.tick t = u → u.fiSampled i (u.fiEdge seen) = false →
    exec (.fieldInputChange t i lvl seen) s = .next u) ∧
  -- FI_EDGE at or after the decision instant of a waiting change: the accepted state and its raw stamp (R383), the probe of
  -- the input (R73), the event with the raw stamp where it is selected (R394), the latch channels (R353)
  (∀ (s u v : State) (t raw : Time) (i : Fin 32) (lv : Bool), s.tick t = u → (u.fin i).pend = some (raw, lv) → raw + u.fiDeb i ≤ u.now →
    ((((u.setFin i (fun f => { f with pend := none })).putBit (R.FIELD.FI_STAT i) 0 lv).putBit R.FIELD.FI_STATE i lv).setRg64
      (R.FIELD.FI_STAMP i) raw).probeStamp (48 + i) raw = v →
    (v.bit (R.FIELD.FI_CFG i) (if lv then 18 else 19) = false → exec (.fiEdge t i) s = .next (v.fiLatch i lv raw)) ∧
    (v.bit (R.FIELD.FI_CFG i) (if lv then 18 else 19) = true → exec (.fiEdge t i) s = .next ((v.fiPost i 0x01 (raw + u.fiDeb i)
      (b2n lv + b2n (decide (3 ≤ v.fld (R.FIELD.FI_CFG i) 17 8)) * 2 + raw / 16 % 2 ^ 32 * 2 ^ 16)).fiLatch i lv raw))) ∧
  -- FI_EDGE with nothing waiting, or before the decision instant, changes nothing (R383)
  (∀ (s u : State) (t : Time) (i : Fin 32), s.tick t = u → (u.fin i).pend.all (fun p => decide (u.now < p.1 + u.fiDeb i)) = true →
    exec (.fiEdge t i) s = .next u) ∧
  -- WIRE_BREAK: a window without the current is counted; at the configured count the break is flagged and posted (R384)
  (∀ (s u v : State) (t : Time) (i : Fin 32), s.tick t = u → u.fiLive i = true → u.bit (R.FIELD.FI_CFG i) 3 = true →
    u.setFin i (fun f => { f with low := min ((u.fin i).low + 1) 15 }) = v →
    (nz (u.fld (R.FIELD.FI_CFG i) 7 4) ≤ (u.fin i).low + 1 → u.bit (R.FIELD.FI_STAT i) 2 = false →
      exec (.wireBreak t i true) s = .next ((v.putBit (R.FIELD.FI_STAT i) 2 true).fiPost i 0x02 u.now 1)) ∧
    ((u.fin i).low + 1 < nz (u.fld (R.FIELD.FI_CFG i) 7 4) → exec (.wireBreak t i true) s = .next v)) ∧
  -- WIRE_BREAK: one window with the current ends the break (R384)
  (∀ (s u : State) (t : Time) (i : Fin 32), s.tick t = u → u.fiLive i = true → u.bit (R.FIELD.FI_CFG i) 3 = true →
    u.bit (R.FIELD.FI_STAT i) 2 = true →
    exec (.wireBreak t i false) s = .next (((u.setFin i (fun f => { f with low := 0 })).putBit (R.FIELD.FI_STAT i) 2 false).fiPost i 0x02 u.now 0)) ∧
  -- FI_SILENT: SILENT is set, what waited is discarded, the event and field fault 0x20 of the Brakewheel (R385)
  (∀ (s u : State) (t : Time) (i : Fin 32), s.tick t = u →
    (u.bit (R.FIELD.FI_STAT i) 3 = false → exec (.fiSilent t i) s = .next ((((u.putBit (R.FIELD.FI_STAT i) 3 true).setFin i
      (fun f => { f with pend := none })).fiPost i 0x03 u.now 1).report 0x20 i 0 true 0)) ∧
    (u.bit (R.FIELD.FI_STAT i) 3 = true → exec (.fiSilent t i) s = .next u)) ∧
  -- FI_REFRESH_RETURN ends the silence: the level it carries is judged from its raw stamp on (R382, R385)
  (∀ (s u : State) (t : Time) (i : Fin 32) (lvl : Bool), s.tick t = u →
    (u.bit (R.FIELD.FI_STAT i) 3 = true → exec (.fiRefreshReturn t i lvl) s = .next (((((u.putBit (R.FIELD.FI_STAT i) 3 false).setFin i
      (fun f => { f with pin := lvl })).fiPost i 0x03 u.now 0).reportClear 0x20 i).fiJudge i (u.now - ns 120))) ∧
    (u.bit (R.FIELD.FI_STAT i) 3 = false → exec (.fiRefreshReturn t i lvl) s = .next u))

/-- The commands of the field outputs and the field supply complete (R387 to R393). -/
def Obligations.fieldOutputCommandsComplete : Prop :=
  -- FO_CONFIG_WRITE: refused where it changes a MODE to another one but OFF, or gives an axis a fifth output (R387)
  (∀ (s u w x : State) (t : Time) (m : Master) (j : Fin 32) (v : Word), s.tick t = u → u.Writable R.FIELD.base →
    ((u.writeReg m R.FIELD.base (R.FIELD.FO_CTRL j) v.toNat).foEval j).setFout j (fun f => { f with onAcc := 0 }) = w →
    (if w.bit (R.FIELD.FO_CTRL j) 8 then w else w.foUnreport j 4) = x →
    (u.foMode j ≠ 0 → bitsN v.toNat 1 0 ≠ 0 → exec (.foConfigWrite t m j v) s = .next (u.cfgRefused R.FIELD.base)) ∧
    (u.foMode j = 0 → bitsN v.toNat 1 0 = 3 → 4 ≤ (u.foOfAxis (bitsN v.toNat 7 2)).length →
      exec (.foConfigWrite t m j v) s = .next (u.cfgRefused R.FIELD.base)) ∧
    (u.foMode j = 0 → bitsN v.toNat 1 0 ≠ 3 → exec (.foConfigWrite t m j v) s =
      .next (if x.bit (R.FIELD.FO_CTRL j) 9 then x else x.foUnreport j 5))) ∧
  -- FO_PERIOD_START of a new period in MODE 1 or 2 of an output that nothing holds off: the duties staged up to its grid instant
  -- are in force; MODE 1 is on throughout, MODE 2 for the on-time of the duty (R386 to R388)
  (∀ (s u v : State) (t : Time) (j : Fin 32) (p : Int) (w : Nat), s.tick t = u → u.foPer j ≠ 0 →
    (u.now : Int) - ((u.now : Int) - (u.rg64 R.FIELD.FO_ANCHOR : Int)) % (16 * u.foPer j : Nat) = p → (u.fout j).start ≠ some p →
    u.foMode j ≠ 3 → (u.setFout j (fun f => { f with start := some p, offAt := none })).releaseWhere R.FIELD.base
      (fun w => w.off == foDutyOff j && decide ((w.from_ : Int) ≤ p)) = v →
    (if v.foMode j = 1 then v.foPer j else foOnTime (v.rg (R.FIELD.FO_DUTY j)) (v.foPer j)) = w →
    (v.foHeld j = true → exec (.foPeriodStart t j) s = .next (v.foSwitch j false)) ∧
    (v.foHeld j = false → w = 0 → exec (.foPeriodStart t j) s = .next (v.foSwitch j false)) ∧
    (v.foHeld j = false → w = v.foPer j → w ≠ 0 → exec (.foPeriodStart t j) s = .next (v.foSwitch j true)) ∧
    (v.foHeld j = false → w ≠ v.foPer j → w ≠ 0 → exec (.foPeriodStart t j) s = .next ((v.foSwitch j true).setFout j
      (fun f => { f with offAt := some (p.toNat + ns w) })))) ∧
  -- FO_PERIOD_START of an output of an axis (MODE 3), not held: the duty in force sets its on-time (R387, R388)
  (∀ (s u v : State) (t : Time) (j : Fin 32) (p : Int) (w : Nat), s.tick t = u → u.foPer j ≠ 0 →
    (u.now : Int) - ((u.now : Int) - (u.rg64 R.FIELD.FO_ANCHOR : Int)) % (16 * u.foPer j : Nat) = p → (u.fout j).start ≠ some p →
    u.foMode j = 3 → u.setFout j (fun f => { f with start := some p, offAt := none }) = v → v.foHeld j = false →
    foOnTime (v.rg (R.FIELD.FO_DUTY j)) (u.foPer j) = w →
    (w = 0 → exec (.foPeriodStart t j) s = .next (v.foSwitch j false)) ∧
    (w = u.foPer j → w ≠ 0 → exec (.foPeriodStart t j) s = .next (v.foSwitch j true)) ∧
    (w ≠ u.foPer j → w ≠ 0 → exec (.foPeriodStart t j) s = .next ((v.foSwitch j true).setFout j
      (fun f => { f with offAt := some (p.toNat + ns w) })))) ∧
  -- FO_ON_TIME_END at or after the end of the on-time: off (R388)
  (∀ (s u : State) (t x : Time) (j : Fin 32), s.tick t = u → (u.fout j).offAt = some x →
    (x ≤ u.now → exec (.foOnTimeEnd t j) s = .next ((u.setFout j (fun f => { f with offAt := none })).foSwitch j false)) ∧
    (u.now < x → exec (.foOnTimeEnd t j) s = .next u)) ∧
  -- FO_CURRENT_CONVERSION at an instant with no conversion due: nothing (R389)
  (∀ (s u : State) (t : Time) (j : Fin 32) (i : Fin 16777216), s.tick t = u → u.foEnd j = none →
    exec (.foCurrentConversion t j i) s = .next u) ∧
  -- FO_CURRENT_CONVERSION that ends at e: the code stands in FO_CURRENT from bit 19 up (R389), the frames
  -- of its axis take it (R15), OC and OL_ON follow (R391)
  (∀ (s u v x : State) (t e : Time) (j : Fin 32) (i : Fin 16777216) (w : Word), s.tick t = u → u.foEnd j = some e →
    BitVec.ofNat 32 (foCode i * 2 ^ 19) = w →
    (u.setRg (R.FIELD.FO_CURRENT j) w).setFout j (fun f => f.convert e i (u.fld (R.FIELD.FO_OC_LIM j) 11 0) u.now) = v →
    (if (v.foOfAxis (v.foAxis j)).head? = some j.val then
      { v with ax := vupd v.ax (v.foAxis j) (fun x => { x with lv := x.lv.map (fun l => { l with frames := l.frames.map (fun f =>
        if !f.isReady ∧ e ≤ f.tk then { f with words := vupd f.words 17 (fun _ => w) } else f) }) }) }
    else v) = x →
    exec (.foCurrentConversion t j i) s = .next ((x.foLatching j 1 (x.foOver j e)).foReported j 4 (x.foOpen j))) ∧
  -- FO_FAULT, OC or THERMAL newly detected: it latches, posts, reports field fault 0x21, and the output is off (R391)
  (∀ (s u : State) (t : Time) (j : Fin 32) (f : Fin 8) (b : Bool), s.tick t = u →
    (f = 1 ∧ u.foOver j u.now = true) ∨ (f = 2 ∧ b = true) → u.bit (R.FIELD.FO_STAT j) f = false →
    exec (.foFault t j f b) s = .next (((((u.setFout j (fun o => { o with cond := o.cond ||| 2 ^ f.val })).putBit (R.FIELD.FO_STAT j) f true).foFaultPost
      j f true).foReport j 0x21).foEval j)) ∧
  -- FO_FAULT, OC or THERMAL ends: the latched fault stands (R391)
  (∀ (s u : State) (t : Time) (j : Fin 32) (f : Fin 8) (b : Bool), s.tick t = u →
    (f = 1 ∧ u.foOver j u.now = false) ∨ (f = 2 ∧ b = false) →
    exec (.foFault t j f b) s = .next (u.setFout j (fun o => { o with cond := o.cond ^^^ (o.cond &&& 2 ^ f.val) }))) ∧
  -- FO_FAULT, OL_ON, OL_OFF and SHORT_VF end: reported only (R391)
  (∀ (s u : State) (t : Time) (j : Fin 32) (f : Fin 8) (b : Bool), s.tick t = u →
    (f = 4 ∧ u.foOpen j = false) ∨ (f = 5 ∧ b = false) ∨ (f = 6 ∧ b = false) → u.bit (R.FIELD.FO_STAT j) f = true →
    exec (.foFault t j f b) s = .next ((u.putBit (R.FIELD.FO_STAT j) f false).foFaultPost j f false)) ∧
  -- FO_LOGIC_SILENT where the field die already knows, or before the silence time: nothing (R391)
  (∀ (s u : State) (t : Time) (j : Fin 32), s.tick t = u → (u.fout j).silent = true → exec (.foLogicSilent t j) s = .next u) ∧
  -- FO_LOGIC_SILENT of an output outside the safety group with a live link and no injection: the coupler has lost its refresh, it latches and the output is off (R391)
  (∀ (s u : State) (t : Time) (j : Fin 32), s.tick t = u → (u.fout j).silent = false → (u.fout j).stopped = none → u.foInjected j = false →
    (u.fout j).ctlSilent = false → u.bit (R.FIELD.FO_STAT j) 3 = false → u.bit (R.FIELD.FO_STAT j) 8 = false →
    exec (.foLogicSilent t j) s = .next ((((u.setFout j (fun f => { f with silent := true, lost := true, stopped := none })).putBit (R.FIELD.FO_STAT j) 3
      true).foFaultPost j 3 true).foEval j)) ∧
  -- FO_SILENT: the control side has seen no refresh for 20 us: field fault 0x22 (R391)
  (∀ (s u : State) (t : Time) (j : Fin 32), s.tick t = u →
    ((u.fout j).ctlSilent = false → exec (.foSilent t j) s = .next ((u.setFout j (fun f => { f with ctlSilent := true })).foReport j 0x22)) ∧
    ((u.fout j).ctlSilent = true → exec (.foSilent t j) s = .next u)) ∧
  -- FO_REFRESH_RETURN: field fault 0x22 clears; a LOGIC_SILENT of the field die shows now (R391)
  (∀ (s u v : State) (t : Time) (j : Fin 32), s.tick t = u → (u.fout j).ctlSilent = true →
    ((u.setFout j (fun f => { f with lost := false })).setFout j (fun f => { f with ctlSilent := false })).foReportClear j 0x22 = v →
    ((v.fout j).silent = true → v.bit (R.FIELD.FO_STAT j) 3 = false →
      exec (.foRefreshReturn t j) s = .next ((v.putBit (R.FIELD.FO_STAT j) 3 true).foFaultPost j 3 true)) ∧
    ((v.fout j).silent = false → exec (.foRefreshReturn t j) s = .next v)) ∧
  -- FO_CLEAR: each latched fault named clears, or the write is refused while its condition stands (R391)
  (∀ (s u : State) (t : Time) (m : Master) (j : Fin 32) (v : Word), s.tick t = u → u.Writable R.FIELD.base →
    exec (.foClear t m j v) s = .next ((List.range 3).foldl (fun (s : State) k => if bitN v.toNat k then s.foClearBit j (k + 1) else s) u)) ∧
  -- FIELD_UNDERVOLTAGE, the field die itself without supply: LINK reads 0, for the status pair is dead (R392, R395)
  (∀ (s u : State) (t : Time), s.tick t = u → exec (.fieldUndervoltage t none) s = .next (u.putBit R.FIELD.STAT 2 false)) ∧
  -- FIELD_UNDERVOLTAGE below 8.0 V: UV and UV_HOLD, every output off, what debounced is discarded (R392)
  (∀ (s u w : State) (t : Time) (v : Fin 65536), s.tick t = u → u.fieldMeasure v = w →
    (800 ≤ v.val → exec (.fieldUndervoltage t (some v)) s = .next w) ∧
    (v.val < 800 → w.fieldUv = false → exec (.fieldUndervoltage t (some v)) s = .next ((List.range 32).foldl (fun (s : State) i => s.setFin i
      (fun f => { f with pend := none })) ((((w.putFld R.FIELD.STAT 1 0 3).irq R.FIELD.base 8).uvOff true).foEvalAll)))) ∧
  -- FIELD_UV_RECOVERY above 8.5 V: UV ends; UV_HOLD ends too where CTRL says so; the inputs are judged anew (R392)
  (∀ (s u w : State) (t : Time) (v : Fin 65536), s.tick t = u → u.fieldMeasure v = w →
    (v.val ≤ 850 → exec (.fieldUvRecovery t v) s = .next w) ∧
    (850 < v.val → w.fieldUv = true → u.bit R.FIELD.CTRL 0 = false → exec (.fieldUvRecovery t v) s =
      .next ((List.range 32).foldl (fun (s : State) i => s.fiJudge i s.now) ((w.putBit R.FIELD.STAT 0 false).irq R.FIELD.base 8))) ∧
    (850 < v.val → w.fieldUv = true → u.bit R.FIELD.CTRL 0 = true → exec (.fieldUvRecovery t v) s =
      .next ((List.range 32).foldl (fun (s : State) i => s.fiJudge i s.now) ((w.putBit R.FIELD.STAT 0 false).irq R.FIELD.base 8).uvRelease))) ∧
  -- UV_CLR: refused while UV stands; otherwise UV_HOLD ends (R392)
  (∀ (s u : State) (t : Time) (m : Master), s.tick t = u → u.Writable R.FIELD.base →
    (u.fieldUv = true → exec (.uvClr t m) s = .next (u.cmdRefused R.FIELD.base)) ∧
    (u.fieldUv = false → u.bit R.FIELD.STAT 1 = true → exec (.uvClr t m) s = .next u.uvRelease))

/-- The commands of mode, timing and reception of a CAN controller complete (R398, R400 to R402, R404 to R407, R412). -/
def Obligations.canReceiveCommandsComplete : Prop :=
  -- CAN_MODE_WRITE: the control word stands; the mode takes effect at once where no frame can be in progress (R400)
  (∀ (s u : State) (t : Time) (m : Master) (n : Fin 16) (v : Word), s.tick t = u → u.Writable (R.CAN.base n) →
    ((u.setRg (R.CAN.CTRL n) (BitVec.ofNat 32 (v.toNat &&& 0xfff1f))).canIdle n = true → exec (.canModeWrite t m n v) s =
      .next ((u.setRg (R.CAN.CTRL n) (BitVec.ofNat 32 (v.toNat &&& 0xfff1f))).canEnter n)) ∧
    ((u.setRg (R.CAN.CTRL n) (BitVec.ofNat 32 (v.toNat &&& 0xfff1f))).canIdle n = false → exec (.canModeWrite t m n v) s =
      .next (u.setRg (R.CAN.CTRL n) (BitVec.ofNat 32 (v.toNat &&& 0xfff1f))))) ∧
  -- CAN_MODE_CHANGE between frames: the requested mode takes effect; not while a frame is in progress (R400)
  (∀ (s u : State) (t : Time) (n : Fin 16), s.tick t = u →
    (u.canTxing n = false → u.bit (R.CAN.STAT n) 4 = false → exec (.canModeChange t n) s = .next (u.canEnter n)) ∧
    (u.canTxing n = true → exec (.canModeChange t n) s = .next u) ∧
    (u.bit (R.CAN.STAT n) 4 = true → exec (.canModeChange t n) s = .next u)) ∧
  -- CAN_TIMING_WRITE of NBT: taken in CONFIG within the limits of R398, otherwise CFG_REFUSED
  (∀ (s u : State) (t : Time) (m : Master) (n : Fin 16) (v : Word), s.tick t = u → u.Writable (R.CAN.base n) →
    (u.fld (R.CAN.CTRL n) 1 0 = 0 → timingOk (v.toNat &&& 0x7ffffff) (u.rg (R.CAN.DBT n)).toNat = true →
      exec (.canTimingWrite t m n false v) s = .next ((u.setRg (R.CAN.NBT n) (BitVec.ofNat 32 (v.toNat &&& 0x7ffffff))).setRg (R.CAN.DBT n)
        (BitVec.ofNat 32 (u.rg (R.CAN.DBT n)).toNat))) ∧
    (u.fld (R.CAN.CTRL n) 1 0 ≠ 0 → exec (.canTimingWrite t m n false v) s = .next (u.cfgRefused (R.CAN.base n))) ∧
    (timingOk (v.toNat &&& 0x7ffffff) (u.rg (R.CAN.DBT n)).toNat = false →
      exec (.canTimingWrite t m n false v) s = .next (u.cfgRefused (R.CAN.base n)))) ∧
  -- CAN_TIMING_WRITE of DBT (R398)
  (∀ (s u : State) (t : Time) (m : Master) (n : Fin 16) (v : Word), s.tick t = u → u.Writable (R.CAN.base n) →
    u.fld (R.CAN.CTRL n) 1 0 = 0 → timingOk (u.rg (R.CAN.NBT n)).toNat (v.toNat &&& 0x3ffffff) = true →
    exec (.canTimingWrite t m n true v) s = .next ((u.setRg (R.CAN.NBT n) (BitVec.ofNat 32 (u.rg (R.CAN.NBT n)).toNat)).setRg (R.CAN.DBT n)
        (BitVec.ofNat 32 (v.toNat &&& 0x3ffffff)))) ∧
  -- CAN_RX: the start of another node's frame: a frame is in progress (R415); its recessive res bit (R402); at its acceptance
  -- point it is acknowledged, filtered and recorded (R397, R404, R405); a controller that transmits, or that takes no part in
  -- the bus, takes nothing
  (∀ (s u : State) (t sof arb : Time) (n : Fin 16) (f : CanFrame) (x : CanRxAt), s.tick t = u →
    (u.canOnBus n = true → u.canTxing n = false → exec (.canRx t n f sof arb .start) s =
      .next ((u.putBit (R.CAN.STAT n) 4 true).canDrive n .recessive)) ∧
    (u.canOnBus n = true → u.canTxing n = false → exec (.canRx t n f sof arb .resBit) s = .next (u.canRes n)) ∧
    (u.canOnBus n = true → u.canTxing n = false → exec (.canRx t n f sof arb .accept) s =
      .next ((((u.putBit (R.CAN.STAT n) 4 false).canDrive n .ack).canRxOk n).canAccept n (canNormal f) sof arb)) ∧
    (u.canOnBus n = false → exec (.canRx t n f sof arb x) s = .next u) ∧
    (u.canTxing n = true → exec (.canRx t n f sof arb x) s = .next u)) ∧
  -- CAN_RX_ERROR in NORMAL: the error flag, the steps of REC or, in an overload frame, of TEC, the log, the event, the error
  -- state; in RESTRICTED the counters stand and the controller waits (R401, R412)
  (∀ (s u v : State) (t : Time) (n : Fin 16) (e : Fin 5) (k : CanSteps), s.tick t = u → u.canOnBus n = true → u.canTxing n = false →
    (((u.setCan n (fun c => { c with fltOld := [] })).putBit (R.CAN.STAT n) 4 false).canDrive n (u.canFlag n)) = v →
    (u.canMode n ≠ 2 → k.tx = false → exec (.canRxError t n e k) s = .next (((v.setCan n (fun c =>
      { c with rec_ := min 255 (c.rec_ + (b2n k.one + 8 * k.eights)) })).canBusError n e).canJudge n)) ∧
    (u.canMode n ≠ 2 → k.tx = true → exec (.canRxError t n e k) s = .next (((v.setCan n (fun c =>
      { c with tec := min 511 (c.tec + (b2n k.one + 8 * k.eights)) })).canBusError n e).canJudge n)) ∧
    (u.canMode n = 2 → exec (.canRxError t n e k) s = .next ((v.setCan n (fun c => { c with wait11 := true })).canBusError n e))) ∧
  -- RXQ_POP of word 0: the head leaves the queue and is held for the master (R407)
  (∀ (s u v : State) (t : Time) (m : Master) (n : Fin 16) (q : Fin 2) (r : CanRec), s.tick t = u → u.popShut (canPopAddr n q 0) = none →
    (vget (u.cn n).queues q).headD (Vector.replicate 20 0) = r →
    (u.setCan n (fun c => { c with queues := vupd c.queues q List.tail, hold := vupd c.hold q (fun _ => some (m, r)) })).canLevel n q = v →
    (v.cn n).late = none → exec (.rxqPop t m n q 0 false) s = .next (v.ret r[0])) ∧
  -- RXQ_POP of word 0 at the KCLK edge at which a frame found the queue full: the pop comes first, the frame is stored (R405)
  (∀ (s u v : State) (t : Time) (m : Master) (n : Fin 16) (q : Fin 2) (r : CanRec) (x : CanLate), s.tick t = u →
    u.popShut (canPopAddr n q 0) = none → (vget (u.cn n).queues q).headD (Vector.replicate 20 0) = r →
    (u.setCan n (fun c => { c with queues := vupd c.queues q List.tail, hold := vupd c.hold q (fun _ => some (m, r)) })).canLevel n q = v →
    (v.cn n).late = some x → x.q = q → (vget (v.cn n).queues q).length < 64 →
    exec (.rxqPop t m n q 0 false) s = .next (((v.setCan n (fun c => { c with late := none })).canStore n x).ret r[0])) ∧
  -- RXQ_POP of a later word by the master that popped: the held word; word 19 gives the hold up (R407)
  (∀ (s u : State) (t : Time) (m : Master) (n : Fin 16) (q : Fin 2) (i : Fin 20) (r : CanRec), s.tick t = u → i ≠ 0 → u.popShut (canPopAddr n q i) = none →
    vget (u.cn n).hold q = some (m, r) →
    (i.val < 19 → exec (.rxqPop t m n q i false) s = .next (u.ret (vget r i))) ∧
    (i = 19 → exec (.rxqPop t m n q i false) s = .next ((u.setCan n (fun c => { c with hold := vupd c.hold q (fun _ => none) })).ret (vget r i)))) ∧
  -- RXQ_POP of a later word with no hold reads 0 and records PAIR_ERR (R407)
  (∀ (s u : State) (t : Time) (m : Master) (n : Fin 16) (q : Fin 2) (i : Fin 20), s.tick t = u → i ≠ 0 → u.popShut (canPopAddr n q i) = none →
    vget (u.cn n).hold q = none → exec (.rxqPop t m n q i false) s = .next ((u.pairErr (R.CAN.base n)).ret 0)) ∧
  -- RXQ_POP with the pages not accessible, or while a freeze snapshot is held, pops nothing (R31, R39)
  (∀ (s u : State) (t : Time) (m : Master) (n : Fin 16) (q : Fin 2) (i : Fin 20) (w : Word), s.tick t = u →
    u.popShut (canPopAddr n q i) = some w → exec (.rxqPop t m n q i false) s = .next (u.ret w))

/-- The commands of transmission and bus-off of a CAN controller complete (R408 to R413). -/
def Obligations.canTransmitCommandsComplete : Prop :=
  -- TX_REQ: the buffers whose bits are set are requested in ascending number (R408)
  (∀ (s u : State) (t : Time) (m : Master) (n : Fin 16) (v : Word), s.tick t = u → u.Writable (R.CAN.base n) →
    exec (.txReq t m n v) s = .next ((List.range 32).foldl (fun (s : State) b => if bitN v.toNat b then s.txReqOne n b else s) u)) ∧
  -- TX_ABORT: the buffers whose bits are set, in ascending number (R411)
  (∀ (s u : State) (t : Time) (m : Master) (n : Fin 16) (v : Word), s.tick t = u → u.Writable (R.CAN.base n) →
    exec (.txAbort t m n v) s = .next ((List.range 32).foldl (fun (s : State) b => if bitN v.toNat b then s.txAbortOne n b else s) u)) ∧
  -- CAN_TX_SELECT with an idle bus: the pending buffer that would win arbitration is in transmission (R409); its frame is on
  -- the pin in NORMAL (R400), and own bits are first compared at the sample point of the data phase (R399)
  (∀ (s u : State) (t : Time) (n : Fin 16) (b : Nat), s.tick t = u → u.canMayStart n = true → u.canWinner n = some b →
    exec (.canTxSelect t n) s = .next (((((u.txbSet n b 2).putFld (R.CAN.STAT n) 12 8 b).putBit (R.CAN.STAT n) 13 true).putBit (R.CAN.STAT n) 4
      true).setCan n (fun c => { c with
        drive := if u.canMode n = 1 then .frame b else .recessive
        ownSample := (((((u.txbSet n b 2).putFld (R.CAN.STAT n) 12 8 b).putBit (R.CAN.STAT n) 13 true).putBit (R.CAN.STAT n) 4 true).fld
          (R.CAN.DBT n) 4 0 + 1) * (2 + ((((u.txbSet n b 2).putFld (R.CAN.STAT n) 12 8 b).putBit (R.CAN.STAT n) 13 true).putBit
          (R.CAN.STAT n) 4 true).fld (R.CAN.DBT n) 9 5) }))) ∧
  -- CAN_TX_SELECT with nothing pending, or where the controller may not start: nothing (R409)
  (∀ (s u : State) (t : Time) (n : Fin 16), s.tick t = u → u.canMayStart n = false ∨ u.canWinner n = none →
    exec (.canTxSelect t n) s = .next u) ∧
  -- CAN_TX_ATTEMPT_END, arbitration lost: it is counted; the buffer is pending again or, at the limit, abandoned (R410)
  (∀ (s u v : State) (t : Time) (n : Fin 16) (b k : Nat), s.tick t = u → u.canTxing n = true → u.canRuns n = true →
    u.fld (R.CAN.STAT n) 12 8 = b → (u.putBit (R.CAN.STAT n) 13 false).canDrive n .recessive = v →
    min 255 (v.fld (R.TXB.STAT (txb n b)) 15 8 + 1) = k →
    exec (.canTxAttemptEnd t n .lost none) s = .next ((v.putFld (R.TXB.STAT (txb n b)) 15 8 k).txbRetry n b 2 1
      (decide (v.fld (R.CAN.CTRL n) 15 8 ≠ 0 ∧ v.fld (R.CAN.CTRL n) 15 8 ≤ k)))) ∧
  -- CAN_TX_ATTEMPT_END, sent with no inverted CRC bit: the stamp, outcome 1, TX_DONE, TEC one lower (R410, R412); in LOOPBACK
  -- the frame is received as well (R400)
  (∀ (s u v w : State) (t sof arb : Time) (n : Fin 16) (b : Nat), s.tick t = u → u.canTxing n = true → u.canRuns n = true →
    u.fld (R.CAN.STAT n) 12 8 = b → u.bit (R.PG_ERRINJ (R.CAN.base n)) 16 = false →
    ((((((u.putBit (R.CAN.STAT n) 13 false).canDrive n .recessive).putBit (R.PG_ERRINJ (R.CAN.base n)) 16 false).setRg64
      (R.TXB.STAMP (txb n b)) (sof / 16 * 16)).txbEnd n b 1).putBit (R.CAN.STAT n) 4 false) = v →
    (((v.canPost n 0x02 (sof / 16 % 2 ^ 32 + b * 2 ^ 32)).irq (R.CAN.base n) 8).setCan n
      (fun c => { c with abortReq := 0, tec := c.tec - 1 })).canJudge n = w →
    (u.canMode n ≠ 3 → exec (.canTxAttemptEnd t n (.sent sof arb) none) s = .next w) ∧
    (u.canMode n = 3 → exec (.canTxAttemptEnd t n (.sent sof arb) none) s = .next (w.canAccept n (u.txbFrame n b) sof arb))) ∧
  -- CAN_TX_ATTEMPT_END, an error, or a frame sent with an inverted CRC bit, which a receiver or the controller itself sees:
  -- TEC rises by 8 (and by 8 for each further step), unless exempt; log, event; again or abandoned (R410, R412, R416)
  (∀ (s u v : State) (t sof arb : Time) (n : Fin 16) (b e eights type : Nat) (k : Fin 5) (exempt crc : Bool) (x : CanEnd), s.tick t = u →
    u.canTxing n = true → u.canRuns n = true → u.fld (R.CAN.STAT n) 12 8 = b →
    (x = .error k exempt eights crc ∧ type = k.val ∧ v = (if crc then ((u.putBit (R.CAN.STAT n) 13 false).canDrive n (u.canFlag n)).putBit
        (R.PG_ERRINJ (R.CAN.base n)) 16 false else (u.putBit (R.CAN.STAT n) 13 false).canDrive n (u.canFlag n))) ∨
      (x = .sent sof arb ∧ u.bit (R.PG_ERRINJ (R.CAN.base n)) 16 = true ∧ type = (if u.canMode n = 3 then 3 else 4) ∧ exempt = false ∧
        eights = 0 ∧ v = (((u.putBit (R.CAN.STAT n) 13 false).canDrive n .recessive).putBit (R.PG_ERRINJ (R.CAN.base n)) 16 false).canDrive n
          (u.canFlag n)) →
    v.fld (R.TXB.STAT (txb n b)) 19 16 + 1 = e →
    exec (.canTxAttemptEnd t n x none) s = .next (((((((v.putFld (R.TXB.STAT (txb n b)) 19 16 (min 15 e)).putBit
      (R.CAN.STAT n) 4 false).setCan n (fun c => { c with tec := min 511 (c.tec + (if exempt then 0 else 8) + 8 * eights) })).canBusError n
      type).txbRetry n b 3 2 (decide (v.fld (R.CAN.CTRL n) 19 16 < e)))).canJudge n)) ∧
  -- BOFF_REC starts the recovery of a controller in bus-off; otherwise it is refused (R413)
  (∀ (s u : State) (t : Time) (m : Master) (n : Fin 16), s.tick t = u → u.Writable (R.CAN.base n) →
    (u.canErr n = 2 → u.canRecovering n = false → exec (.boffRec t m n) s = .next (u.canRecover n)) ∧
    (u.canErr n ≠ 2 → exec (.boffRec t m n) s = .next (u.cmdRefused (R.CAN.base n))) ∧
    (u.canRecovering n = true → exec (.boffRec t m n) s = .next (u.cmdRefused (R.CAN.base n)))) ∧
  -- RECESSIVE_SEQUENCE: 11 recessive bits end a wait and are counted in recovery (R401, R402, R413)
  (∀ (s u : State) (t : Time) (n : Fin 16), s.tick t = u → u.canRuns n = true →
    (u.canErr n = 2 → u.canRecovering n = true → exec (.recessiveSequence t n false) s = .next ((u.putFld (R.CAN.STAT n) 23 16
      (min 128 (u.fld (R.CAN.STAT n) 23 16 + 1))).setCan n (fun c => { c with wait11 := false }))) ∧
    (u.canErr n ≠ 2 → exec (.recessiveSequence t n false) s = .next (u.setCan n (fun c => { c with wait11 := false })))) ∧
  -- RECESSIVE_SEQUENCE after a recessive res bit that no command reported: that first (R402)
  (∀ (s u : State) (t : Time) (n : Fin 16), s.tick t = u → u.canOnBus n = true → u.canTxing n = false →
    exec (.recessiveSequence t n true) s = .next ((u.canRes n).recessive n)) ∧
  -- BOFF_RECOVERED after 128 sequences: counters 0, error-active, BUS_OFF_END (R413)
  (∀ (s u : State) (t : Time) (n : Fin 16), s.tick t = u →
    (u.canErr n = 2 → u.canRecovering n = true → u.fld (R.CAN.STAT n) 23 16 = 128 → exec (.boffRecovered t n) s = .next ((((((u.setCan n
      (fun c => { c with tec := 0, rec_ := 0 })).putBit (R.CAN.STAT n) 5 false).canShow n).canSetErr n 0).canPost n 0x07 0).irq (R.CAN.base n) 0x40)) ∧
    (u.fld (R.CAN.STAT n) 23 16 ≠ 128 → exec (.boffRecovered t n) s = .next u))

/-- The commands of the races complete: links, reception, Fantail (R421 to R429, R445 to R448). -/
def Obligations.etherCommandsComplete : Prop :=
  -- LINK_UP: the link stands with the negotiated speed or, with AN_EN = 0, that of CTRL (R446), a race bad until now was bad
  -- until this instant (R436), and LINK_UP is posted where the port was down (R445)
  (∀ (s u w v : State) (t : Time) (n : Fin 4) (slow sp : Bool), s.tick t = u →
    (if u.bit (R.ETH.CTRL n) 1 then slow else u.bit (R.ETH.CTRL n) 0) = sp →
    (if u.selfBad (n / 2) then u.badNow (n / 2) else u) = w → (w.putBit (R.ETH.STAT n) 0 true).putBit (R.ETH.STAT n) 1 sp = v →
    v.linkUp n = true →
    (u.linkUp n = false → exec (.linkUp t n slow) s = .next (((v.setRed (fun x => { x with down := vupd x.down n.val (fun _ => 0) })).ethPost n
      0x01 (b2n sp)).irq (R.ETH.base n) 1)) ∧
    (u.linkUp n = true → exec (.linkUp t n slow) s = .next (v.setRed (fun x => { x with down := vupd x.down n.val (fun _ => 0) })))) ∧
  -- LINK_UP while an injected loss is in force: the link still reads down (R448)
  (∀ (s u w v : State) (t : Time) (n : Fin 4) (slow sp : Bool), s.tick t = u →
    (if u.bit (R.ETH.CTRL n) 1 then slow else u.bit (R.ETH.CTRL n) 0) = sp →
    (if u.selfBad (n / 2) then u.badNow (n / 2) else u) = w → (w.putBit (R.ETH.STAT n) 0 true).putBit (R.ETH.STAT n) 1 sp = v →
    v.linkUp n = false → exec (.linkUp t n slow) s = .next v) ∧
  -- LINK_DOWN: the link is down, LINK_DOWN is posted if it was up (R445)
  (∀ (s u : State) (t : Time) (n : Fin 4), s.tick t = u →
    (u.linkUp n = true → exec (.linkDown t n) s = .next (((u.putBit (R.ETH.STAT n) 0 false).ethPost n 0x02 0).irq (R.ETH.base n) 1)) ∧
    (u.linkUp n = false → exec (.linkDown t n) s = .next (u.putBit (R.ETH.STAT n) 0 false))) ∧
  -- ETH_FRAME_RECEIVE: nothing on a link that is down; otherwise the bridge forwards, filters and learns, and delivers a frame that
  -- is for the internal port (R417 to R421)
  (∀ (s u : State) (t stamp : Time) (n : Fin 4) (bytes : List Byte) (ok : Bool) (buf : DWord), s.tick t = u →
    (u.linkUp n = false → exec (.ethFrameReceive t n bytes ok stamp buf) s = .next u) ∧
    (u.linkUp n = true → (u.bridgeRx n bytes ok).2 = false → exec (.ethFrameReceive t n bytes ok stamp buf) s = .next (u.bridgeRx n bytes ok).1) ∧
    (u.linkUp n = true → (u.bridgeRx n bytes ok).2 = true → exec (.ethFrameReceive t n bytes ok stamp buf) s =
      .next ((u.bridgeRx n bytes ok).1.ethDeliver n bytes stamp buf))) ∧
  -- SYNC_RECEIVED: a frame that is no Sync changes nothing; a Sync on a link that is up is received (R422, R425)
  (∀ (s u : State) (t stamp : Time) (n : Fin 4) (bytes : List Byte) (buf : DWord), s.tick t = u →
    (isPtp bytes 0 = false → exec (.syncReceived t n bytes stamp buf) s = .next u) ∧
    (isPtp bytes 0 = true → exec (.syncReceived t n bytes stamp buf) s = .next (u.ethReceive n bytes true stamp buf))) ∧
  -- SYNC_ORIGINATE of a race that is no grandmaster, or before its interval has passed: nothing (R426)
  (∀ (s u : State) (t : Time) (r : Fin 2), s.tick t = u →
    (u.gm r = false → exec (.syncOriginate t r) s = .next u) ∧
    (u.gm r = true → (u.raceOf r).origLast = none → u.ptpRole (2 * r) ≠ 1 → u.ptpRole (2 * r + 1) ≠ 1 → exec (.syncOriginate t r) s =
      .next ((u.setRace r (fun x => { x with origLast := some u.now, origSeq := (x.origSeq + 1) % 2 ^ 16 })).domainSync r 0))) ∧
  -- DOMAIN_LOST before the loss is due: nothing (R428)
  (∀ (s u : State) (t : Time) (r : Fin 2), s.tick t = u → u.lossDue r = false → exec (.domainLost t r) s = .next u) ∧
  -- DOMAIN_LOST of a due loss of the clock not selected, with redundancy off and the other domain tracked: the lock goes, the loss
  -- is posted (R428)
  (∀ (s u v : State) (t : Time) (r : Fin 2), s.tick t = u → u.lossDue r = true → u.sel = (r == 0) →
    (((u.putBit (R.PTP.FT_STAT r) 0 false).postNow srcTime 0x20 r).irq (R.PTP.base r) 1).setRace r (fun x => { x with lost := true }) = v →
    (v.tracked (1 - r) && !v.lossDue (1 - r)) = true → v.redEn = false →
    exec (.domainLost t r) s = .next v) ∧
  -- FT_SELECT of a tracked domain, once due losses are taken: its clock is selected; otherwise CMD_REFUSED (R429)
  (∀ (s u v : State) (t : Time) (m : Master) (r : Fin 2), s.tick t = u → u.Writable (R.PTP.base r) →
    (u.domainLost 0).domainLost 1 = v →
    (v.tracked r = true → exec (.ftSelect t m r) s = .next (v.selectClock (r.val == 1) (edgeOf (ceilEdge v.now)))) ∧
    (v.tracked r = false → exec (.ftSelect t m r) s = .next (v.cmdRefused (R.PTP.base r)))) ∧
  -- FDB_FLUSH: the race's addresses are forgotten (R447)
  (∀ (s u : State) (t : Time) (m : Master) (r : Fin 2), s.tick t = u → u.Writable (R.PTP.base r) →
    exec (.fdbFlush t m r) s = .next (u.setRace r (fun x => { x with fdb := [] })))

/-- The commands of the race redundancy complete (R431 to R440). -/
def Obligations.redundancyCommandsComplete : Prop :=
  -- RED_CYCLE_INSTANT once machine time has reached the next multiple of RED_CYCLE: the cycle ends, the links are watched, the
  -- traffic switches, the axis broadcast is sent; before that nothing (R431, R432, R437, R441)
  (∀ (s u : State) (t : Time) (k : Nat), s.tick t = u →
    (u.mt.fdiv (2 ^ 32)).toNat / nz (u.fld (R.PTP.RED_CYCLE 0) 27 0) * nz (u.fld (R.PTP.RED_CYCLE 0) 27 0) = k →
    (u.red.next ≤ k → exec (.redCycleInstant t) s =
      .next (((((u.setRed (fun x => { x with next := k + 1 })).endCycle).redWatch).redSwitches).abfTransmit)) ∧
    (k < u.red.next → exec (.redCycleInstant t) s = .next u)) ∧
  -- RED_SKEW_EXPIRY with no copy overdue: nothing (R434)
  (∀ (s u : State) (t : Time), s.tick t = u →
    u.red.copies.filter (fun c => decide (c.race < 2) && decide (c.at_ + ns (u.fld (R.PTP.RED_SKEW 0) 19 0) ≤ u.now)) = [] →
    exec (.redSkewExpiry t) s = .next u) ∧
  -- RED_SKEW_EXPIRY of one copy whose partner has not come: the other race is judged bad for the cycle (R434)
  (∀ (s u : State) (t : Time) (c : Copy), s.tick t = u → u.red.copies = [c] → c.race < 2 →
    c.at_ + ns (u.fld (R.PTP.RED_SKEW 0) 19 0) ≤ u.now →
    exec (.redSkewExpiry t) s = .next (((u.setRed (fun x => { x with copies := [{ c with race := c.race + 2 }] })).redJudge c.num (c.race == 1)
      (c.race == 0)).redFinal)) ∧
  -- RACE_OK of a race that has not failed: nothing; while a condition of R435 stands, the hold-off starts again (R436)
  (∀ (s u : State) (t : Time) (r : Fin 2), s.tick t = u →
    (u.raceBad r = false → exec (.raceOk t r) s = .next u) ∧
    (u.raceBad r = true → u.selfBad r = true → exec (.raceOk t r) s = .next (u.badNow r))) ∧
  -- RACE_OK after the hold-off, the other race being well: the failure bit clears and RACE_OK is posted (R436, R439)
  (∀ (s u : State) (t : Time), s.tick t = u → u.raceBad 1 = true → u.selfBad 1 = false → u.raceBad 0 = false →
    u.red.badB + ms (100 * nz (u.fld (R.PTP.RED_CTRL 0) 31 16)) ≤ u.now →
    (((u.putBit (R.PTP.RED_STAT 0) 2 false).postNow 0x0D0 0x12 1).irq (R.PTP.base 0) 2).raceBad 0 = false →
    exec (.raceOk t 1) s = .next ((((u.putBit (R.PTP.RED_STAT 0) 2 false).postNow 0x0D0 0x12 1).irq (R.PTP.base 0) 2).setRed (fun x =>
      { x with held := x.held && u.active != 1 }))) ∧
  -- RED_CTRL_WRITE during double forwarding or a drill, but for one that switches redundancy off: refused (R438, R440)
  (∀ (s u : State) (t : Time) (m : Master) (v : Word), s.tick t = u → u.Writable (R.PTP.base 0) →
    (bitsN v.toNat 2 1 = 3 → exec (.redCtrlWrite t m v) s = .next (u.cfgRefused (R.PTP.base 0))) ∧
    (u.doubled = true → u.drilling = false → exec (.redCtrlWrite t m v) s = .next (u.cfgRefused (R.PTP.base 0))) ∧
    (u.drilling = true → bitN v.toNat 0 = true → exec (.redCtrlWrite t m v) s = .next (u.cfgRefused (R.PTP.base 0)))) ∧
  -- RED_CTRL_WRITE otherwise, with EN = 1 and the preferred race as it was: the register takes the value (R438)
  (∀ (s u : State) (t : Time) (m : Master) (v : Word), s.tick t = u → u.Writable (R.PTP.base 0) → bitsN v.toNat 2 1 ≠ 3 →
    u.doubled = false → u.drilling = false → bitN v.toNat 0 = true → bitN v.toNat 3 = u.bit (R.PTP.RED_CTRL 0) 3 →
    exec (.redCtrlWrite t m v) s = .next (u.writeReg m (R.PTP.base 0) (R.PTP.RED_CTRL 0) v.toNat)) ∧
  -- DRILL: accepted with redundancy on, no drill and no double forwarding, and the other race well; otherwise CMD_REFUSED (R440)
  (∀ (s u : State) (t : Time) (m : Master), s.tick t = u → u.Writable (R.PTP.base 0) →
    (u.redEn = true → u.drilling = false → u.doubled = false → u.raceBad (1 - u.active) = false → exec (.drill t m) s =
      .next (u.setRed (fun x => { x with drillAt := some (x.drillAt.getD u.now) }))) ∧
    (u.redEn = false → exec (.drill t m) s = .next (u.cmdRefused (R.PTP.base 0))) ∧
    (u.drilling = true → exec (.drill t m) s = .next (u.cmdRefused (R.PTP.base 0))) ∧
    (u.doubled = true → exec (.drill t m) s = .next (u.cmdRefused (R.PTP.base 0))) ∧
    (u.raceBad (1 - u.active) = true → exec (.drill t m) s = .next (u.cmdRefused (R.PTP.base 0))))

/-- The commands of egress, gate lists and peer delay complete (R418 to R420, R423, R424). -/
def Obligations.egressCommandsComplete : Prop :=
  -- EGRESS_SELECT while a frame is being sent or transmission is held: nothing (R418, R525)
  (∀ (s u : State) (t : Time) (n : Fin 4), s.tick t = u → u.now < (u.port n).busyUntil ∨ u.txHeld n = true →
    exec (.egressSelect t n) s = .next u) ∧
  -- EGRESS_SELECT with one frame waiting, in queue 7, its gate open throughout: it is sent and counted (R418)
  (∀ (s u : State) (t : Time) (n : Fin 4) (f : EgFrame), s.tick t = u → (u.port n).busyUntil ≤ u.now → u.txHeld n = false →
    (u.port n).queues = vupd (Vector.replicate 8 []) 7 (fun _ => [f]) → u.gateOpen n 7 = some none →
    exec (.egressSelect t n) s = .next ((u.setPort n (fun p =>
      { p with queues := vupd p.queues 7 (fun _ => []), sent := some (u.sendForm n f), busyUntil := u.now + u.frameTime n f.bytes })).count
        (R.ETH.TX_FRAMES n) 31 0 1)) ∧
  -- GCL_CYCLE_START of the first cycle of a swapped list: the list runs and PEND clears (R420)
  (∀ (s u : State) (t : Time) (n : Fin 4) (b : Bool), s.tick t = u →
    u.startSince n (u.port n).swapAt (u.port n).gcl.base false = b →
    ((u.port n).gclOff = true → b = true → exec (.gclCycleStart t n) s =
      .next ((u.setPort n (fun p => { p with gclOff := false })).putBit (R.ETH.GCL_CTRL n) 2 false)) ∧
    ((u.port n).gclOff = true → b = false → exec (.gclCycleStart t n) s = .next u) ∧
    ((u.port n).gclOff = false → exec (.gclCycleStart t n) s = .next u)) ∧
  -- GCL_CHANGE: PEND stands; with no change pending before, its instant is kept (R420)
  (∀ (s u v : State) (t : Time) (m : Master) (n : Fin 4) (w : Word), s.tick t = u → u.Writable (R.ETH.base n) →
    u.rg (R.ETH.GCL_CTRL n) = w → wbit w 2 = false →
    u.setRg (R.ETH.GCL_CTRL n) (BitVec.ofNat 32 (((w.toNat ||| 2) &&& 0xff01) + 4 + b2n (wbit w 3) * 8)) = v →
    exec (.gclChange t m n) s = .next (v.setPort n (fun p => { p with pendAt := u.now, gclOff := false }))) ∧
  -- GCL_CHANGE with one pending: PEND stays (R420)
  (∀ (s u : State) (t : Time) (m : Master) (n : Fin 4) (w : Word), s.tick t = u → u.Writable (R.ETH.base n) →
    u.rg (R.ETH.GCL_CTRL n) = w → wbit w 2 = true →
    exec (.gclChange t m n) s = .next (u.setRg (R.ETH.GCL_CTRL n) (BitVec.ofNat 32 (((w.toNat ||| 2) &&& 0xff01) + 4 + b2n (wbit w 3) * 8)))) ∧
  -- GCL_SWAP with no change pending: nothing; with one pending and no list running, at its instant: the banks swap (R420)
  (∀ (s u : State) (t : Time) (n : Fin 4), s.tick t = u →
    (u.bit (R.ETH.GCL_CTRL n) 2 = false → exec (.gclSwap t n) s = .next u) ∧
    (u.bit (R.ETH.GCL_CTRL n) 2 = true → (u.port n).gclOff = false → u.bit (R.ETH.GCL_CTRL n) 0 = false →
      (u.rg64 (R.ETH.GCL_CHANGE_AT n) : Int) ≤ u.ptpNs n → exec (.gclSwap t n) s = .next (u.gclSwapNow n)) ∧
    (u.bit (R.ETH.GCL_CTRL n) 2 = true → (u.port n).gclOff = false → u.bit (R.ETH.GCL_CTRL n) 0 = false →
      u.ptpNs n < (u.rg64 (R.ETH.GCL_CHANGE_AT n) : Int) → exec (.gclSwap t n) s = .next u)) ∧
  -- PDELAY_REQUEST of a port outside PTP, or before its interval has passed: nothing (R424)
  (∀ (s u : State) (t t0 : Time) (n : Fin 4), s.tick t = u →
    (u.ptpRole n = 0 → exec (.pdelayRequest t n) s = .next u) ∧
    ((u.port n).pdLast = some t0 → passed (u.now - t0) (sx 8 (u.fld (R.ETH.PDELAY_CFG n) 7 0)) = false →
      exec (.pdelayRequest t n) s = .next u)) ∧
  -- PDELAY_REQUEST when it is due: the request enters the egress queues with the next sequence number (R424)
  (∀ (s u : State) (t : Time) (n : Fin 4), s.tick t = u → u.ptpRole n ≠ 0 → (u.port n).pdLast = none →
    exec (.pdelayRequest t n) s = .next (((u.ptpFrame (n.val / 2) 2 (u.port n).pdSeq 54).2.setPort n (fun p =>
      { p with pdLast := some u.now, pdSeq := (p.pdSeq + 1) % 2 ^ 16 })).egress n (.pdelayReq (u.port n).pdSeq)
        (u.ptpFrame (n.val / 2) 2 (u.port n).pdSeq 54).1 (u.fld (R.ETH.CTRL n) 7 5))) ∧
  -- PDELAY_RESPONSE: a failed exchange is counted, and asCapable judged; a complete one gives the mean link delay and the rate ratio (R424)
  (∀ (s u : State) (t : Time) (n : Fin 4) (x : PdelayRes) (ds : List Rat), s.tick t = u → u.ptpRole n ≠ 0 →
    (((((((x.t4 : Int) + (u.fld (R.ETH.LAT_IN n) 15 0 : Nat) - ((x.t1 : Int) + (u.fld (R.ETH.LAT_OUT n) 15 0 : Nat))) * 4096 : Int) : Rat) *
      (1 + (x.nrr : Rat) / (2 ^ 41 : Nat)) - (x.turn : Rat)) / 2) :: (u.port n).pdDelays).take 16 = ds →
    exec (.pdelayResponse t n none) s = .next ((u.setPort n (fun p => { p with pdFailed := p.pdFailed + 1 })).judgeCapable n) ∧
    exec (.pdelayResponse t n (some x)) s = .next ((((u.setPort n (fun p => { p with pdFailed := 0, pdDelays := ds })).setRg (R.ETH.LINK_DELAY n)
      (BitVec.ofNat 32 (openRound (ds.foldl (· + ·) 0 / (ds.length : Nat))).toNat)).setRg (R.ETH.NRR n) (BitVec.ofInt 32 x.nrr)).judgeCapable n)) ∧
  -- PDELAY_RESPONSE at a port outside PTP: nothing (R424)
  (∀ (s u : State) (t : Time) (n : Fin 4) (x : Option PdelayRes), s.tick t = u → u.ptpRole n = 0 →
    exec (.pdelayResponse t n x) s = .next u)

/-- The commands of the safety tick and of Mirast complete (R453, R475, R477 to R479). -/
def Obligations.mirastCommandsComplete : Prop :=
  -- SAFETY_TICK at or before the tick taken last: nothing (R453)
  (∀ (s u : State) (t : Time), s.tick t = u → u.now / u.cyc * u.cyc ≤ u.bw.tick → exec (.safetyTick t) s = .next u) ∧
  -- SAFETY_TICK with the pair waiting for it: the count, the consumers' payloads, and the pair goes on; a pair that does not
  -- wait misses the tick from two cycles on: island fault 5 (R453, R478)
  (∀ (s u v : State) (t : Time), s.tick t = u → u.bw.tick < u.now / u.cyc * u.cyc →
    (List.range 16).foldl (fun (s : State) c => s.rxTick c) ((u.setBw (fun b => { b with tick := u.now / u.cyc * u.cyc })).setRg
      R.BRAKE.CYC_WAIT (u.rg R.BRAKE.CYC_WAIT + 1)) = v →
    (u.coreState 32 = 1 → (u.cr 32).stall = true → exec (.safetyTick t) s =
      .next ((v.setBw (fun b => { b with ticked := true })).setCr 32 (fun k => { k with stall := false }))) ∧
    (u.bw.start + 2 * u.cyc ≤ u.now / u.cyc * u.cyc → (u.cr 32).stall = false → u.coreState 32 ≠ 4 → u.sess.proof = false →
      exec (.safetyTick t) s = .next (v.islandFault 5)) ∧
    (u.now / u.cyc * u.cyc < u.bw.start + 2 * u.cyc → (u.cr 32).stall = false → exec (.safetyTick t) s = .next v)) ∧
  -- MIRAST_SEND of an enabled producer at its instant: one copy per race; otherwise nothing (R433, R475)
  (∀ (s u : State) (t : Time) (c : Fin 16) (p i : Time), s.tick t = u → us (u.rg (R.CONN.PERIOD c)).toNat = p → u.now / p * p = i →
    (u.bit (R.CONN.CFG c) 0 = true → (u.mirTx c).last < i → exec (.mirastSend t c) s = .next (((u.setTx c (fun x =>
      { x with seq := (x.seq + 1) % 2 ^ 16, last := i })).raceSendMask 3 (u.mirFrame c i)))) ∧
    (u.bit (R.CONN.CFG c) 0 = false → exec (.mirastSend t c) s = .next u) ∧
    (i ≤ (u.mirTx c).last → exec (.mirastSend t c) s = .next u)) ∧
  -- MIRAST_PAIR_TIMEOUT with no copy past SKEW: nothing (R477)
  (∀ (s u : State) (t : Time) (c : Fin 16), s.tick t = u → (u.mirRx c).lost = [] → (u.mirRx c).pair = none →
    exec (.mirastPairTimeout t c) s = .next u) ∧
  -- MIRAST_PAIR_TIMEOUT in RUN with an incomplete pair past SKEW: DEGRADED (R477, R479)
  (∀ (s u : State) (t a : Time) (c : Fin 16) (r : Nat) (b : List Byte), s.tick t = u → (u.mirRx c).lost = [] →
    (u.mirRx c).pair = some (r, b, a) → a + u.skew c ≤ u.now → u.rxState c = 2 →
    exec (.mirastPairTimeout t c) s = .next (((u.setRx c (fun x =>
      { x with
        lost := x.lost.filter (fun a => decide (u.now < a + u.skew c)),
        pair := x.pair.filter (fun p => decide (u.now < p.2.2 + u.skew c)) })).setRx c (fun x =>
      { x with degAt := a + u.skew c })).setRxState c 3)) ∧
  -- MIR_TIMEOUT in RUN once TMO has passed since the latest new frame: FAILED with fault 0x28; before that nothing (R479)
  (∀ (s u : State) (t : Time) (c : Fin 16), s.tick t = u → u.rxState c = 2 →
    ((u.mirRx c).newAt + ms (nz (u.fld (R.CONN.TMO (16 + c)) 15 0)) ≤ u.now → exec (.mirTimeout t c) s =
      .next (u.rxFail c 0x28 (u.fld (R.CONN.CFG (16 + c)) 4 2))) ∧
    (u.now < (u.mirRx c).newAt + ms (nz (u.fld (R.CONN.TMO (16 + c)) 15 0)) → exec (.mirTimeout t c) s = .next u)) ∧
  -- MIR_DEGRADED once DEG_T has passed in DEGRADED: FAILED with fault 0x2A (R479)
  (∀ (s u : State) (t : Time) (c : Fin 16), s.tick t = u →
    (u.rxState c = 3 → (u.mirRx c).degAt + ms (100 * (u.rg (R.CONN.DEG_T (16 + c))).toNat) ≤ u.now →
      exec (.mirDegraded t c) s = .next (u.rxFail c 0x2A 3)) ∧
    (u.rxState c ≠ 3 → exec (.mirDegraded t c) s = .next u)) ∧
  -- CONN_COMMIT and CONN_OPEN by the pair: the command of the connection that its CSEL names (R475, R479)
  (∀ (s u : State) (t : Time) (k : Nat), s.tick t = u → (u.bwSel none).csel = k →
    (k < 16 → exec (.connCommit t none) s = .next (u.mirCommit k) ∧ exec (.connOpen t none) s = .next (u.mirCommit k)) ∧
    (16 ≤ k → exec (.connOpen t none) s = .next (u.connOpen (k - 16)) ∧ exec (.connCommit t none) s = .next (u.connOpen (k - 16)) ∧
      exec (.connClose t none) s = .next (u.connClose (k - 16)))) ∧
  -- CONN_COMMIT by a master: the payload registers of the producer that its CSEL names become its payload (R475)
  (∀ (s u : State) (t : Time) (m : Master) (k : Nat), s.tick t = u → u.Writable R.BRAKE.base → (u.selOf m).csel = k → k < 16 →
    exec (.connCommit t (some m)) s = .next (u.mirCommit k)) ∧
  -- CONN_OPEN by a master of a CLOSED consumer with EN = 1: WAIT (R479)
  (∀ (s u : State) (t : Time) (m : Master) (k : Nat), s.tick t = u → u.Writable R.BRAKE.base → (u.selOf m).csel = k → 16 ≤ k →
    u.bit (R.CONN.CFG (16 + (k - 16))) 0 = true → u.rxState (k - 16) = 0 →
    exec (.connOpen t (some m)) s = .next (((u.setRx (k - 16) (fun _ => { openAt := u.now, newAt := u.now })).putBit
      (rxStat (k - 16)) 20 false).setRxState (k - 16) 1)) ∧
  -- CONN_CLOSE by a master of a consumer: CLOSED, nothing of its pair kept (R479)
  (∀ (s u : State) (t : Time) (m : Master) (k : Nat), s.tick t = u → u.Writable R.BRAKE.base → (u.selOf m).csel = k → 16 ≤ k →
    exec (.connClose t (some m)) s = .next ((u.setRx (k - 16) (fun x => { x with pair := none, lost := [] })).setRxState (k - 16) 0))

/-- The commands of the Brakewheel's ladder, channels and monitors complete (R450 to R471). -/
def Obligations.islandCommandsComplete : Prop :=
  -- CYC_WAIT_READ by a pair in RUN that has not begun one: with a tick waiting it goes on, otherwise it stalls (R453)
  (∀ (s u : State) (t : Time), s.tick t = u → u.coreState 32 = 1 → (u.cr 32).stall = false →
    (u.bw.ticked = true → exec (.cycWaitRead t) s = .next ((u.setBw (fun b => { b with ticked := false })).setCr 32 (fun k => { k with stall := false }))) ∧
    (u.bw.ticked = false → exec (.cycWaitRead t) s = .next (u.setCr 32 (fun k => { k with stall := true })))) ∧
  -- STO_CMD_WRITE, STO_KICK, PREQ_WRITE and SM_FLAGS_CLEAR by any master but the pair are refused (R454)
  (∀ (s u : State) (t : Time) (m : Master) (v : Word) (i : Fin 8) (k : Fin 4) (d : DWord), s.tick t = u → u.Writable R.BRAKE.base →
    exec (.stoCmdWrite t (some m) v) s = .next (u.cfgRefused R.BRAKE.base) ∧ exec (.stoKick t (some m)) s = .next (u.cfgRefused R.BRAKE.base) ∧
    exec (.preqWrite t (some m) i v) s = .next (u.cfgRefused R.BRAKE.base) ∧
    exec (.smFlagsClear t (some m) k d) s = .next (u.cfgRefused R.BRAKE.base)) ∧
  -- STO_CMD_WRITE by the pair: the commands of channels A and B; then levels, channels, release and gates follow (R456 to R459)
  (∀ (s u : State) (t : Time) (v : Word), s.tick t = u →
    exec (.stoCmdWrite t none v) s = .next ((u.setRg R.BRAKE.STO_CMD (BitVec.ofNat 32 (v.toNat % 4))).bwSync)) ∧
  -- STO_KICK by the pair, and the end of 2 CYC without one (R456)
  (∀ (s u : State) (t : Time), s.tick t = u →
    exec (.stoKick t none) s = .next ((u.setBw (fun b => { b with kick := some u.now })).bwSync) ∧ exec (.stoKickTimeout t) s = .next u.bwSync) ∧
  -- STO_DISCREPANCY of a pin, of two commands that have differed for 2 us, or of an injected difference, which is then used up:
  -- island fault 6; otherwise nothing (R457, R489)
  (∀ (s u v : State) (t d : Time) (pin : Bool), s.tick t = u →
    (if u.bw.injAt.any (fun d => decide (d + us 2 ≤ u.now)) then
      (u.setBw (fun b => { b with injAt := none })).putBit (R.PG_ERRINJ R.BRAKE.base) 17 false else u) = v →
    (pin = true → exec (.stoDiscrepancy t pin) s = .next (v.islandFault 6)) ∧
    (u.bw.differ = some d → d + us 2 ≤ u.now → exec (.stoDiscrepancy t pin) s = .next (v.islandFault 6)) ∧
    (u.bw.injAt = some d → d + us 2 ≤ u.now → exec (.stoDiscrepancy t pin) s = .next (v.islandFault 6)) ∧
    (pin = false → u.bw.differ = none → u.bw.injAt = none → exec (.stoDiscrepancy t pin) s = .next u)) ∧
  -- LOCKSTEP: posted with the pair's PC, then island fault 1 (R450); BW_CLOCK and BW_SUPPLY: island faults 2 and 3 (R451)
  (∀ (s u : State) (t : Time) (pc : Fin 1048576), s.tick t = u →
    exec (.lockstep t pc) s = .next (((u.putBit (R.PG_ERRINJ R.BRAKE.base) 16 false).postNow 0x149 0x01 pc.val).islandFault 1) ∧
    exec (.bwClock t) s = .next (u.islandFault 2) ∧ exec (.bwSupply t) s = .next (u.islandFault 3)) ∧
  -- PREQ_WRITE by the pair: the requested levels of eight axes, refused with a level of 6 or 7 (R463, R488)
  (∀ (s u : State) (t : Time) (i : Fin 8) (v : Word), s.tick t = u →
    ((List.range 8).any (fun k => decide (6 ≤ bitsN v.toNat (4 * k + 2) (4 * k))) = false → exec (.preqWrite t none i v) s =
      .next ((u.setRg (R.BRAKE.PREQ i) (BitVec.ofNat 32 (v.toNat &&& 0x77777777))).bwSync)) ∧
    ((List.range 8).any (fun k => decide (6 ≤ bitsN v.toNat (4 * k + 2) (4 * k))) = true →
      exec (.preqWrite t none i v) s = .next (u.cfgRefused R.BRAKE.base))) ∧
  -- SG_HOLD_WRITE by the pair: the safety group is held or given up on both paths (R464)
  (∀ (s u : State) (t : Time) (on : Bool), s.tick t = u → exec (.sgHoldWrite t none on) s = .next ((u.putBit R.BRAKE.SG_CTRL 0 on).sgEval)) ∧
  -- SG_HOLD_WRITE by a master: a register write under the page's lock and session (R43, R464)
  (∀ (s u : State) (t : Time) (m : Master) (on : Bool), s.tick t = u → u.Writable R.BRAKE.base →
    exec (.sgHoldWrite t (some m) on) s = .next ((u.writeReg m R.BRAKE.base R.BRAKE.SG_CTRL ((u.rg R.BRAKE.SG_CTRL).toNat / 2 * 2 + b2n on)).sgEval)) ∧
  -- FAULT_REPORT: the standstills, then the reports sent so far in their order; the reaction follows (R465 to R468)
  (∀ (s u : State) (t : Time), s.tick t = u → exec (.faultReport t) s = .next u.standstills.ladder) ∧
  -- RECOVERY_WINDOW_END: the windows whose time is over close (R468)
  (∀ (s u : State) (t : Time), s.tick t = u →
    exec (.recoveryWindowEnd t) s = .next (u.setBw (fun b => { b with wins := b.wins.filter (fun w => decide (u.now < w.until_)) }))) ∧
  -- AXIS_DEGRADE_TIMEOUT of an axis that runs no timer, and of one whose time is over: at least L3 (R466)
  (∀ (s u : State) (t : Time) (a : Fin 64), s.tick t = u →
    (tget 0 u.bw.degAt a = 0 → exec (.axisDegradeTimeout t a) s = .next u) ∧
    (tget 0 u.bw.degAt a ≠ 0 → tget 0 u.bw.degAt a - 1 + ms (nz (u.fld R.BRAKE.AXTIME 15 0)) ≤ u.now → exec (.axisDegradeTimeout t a) s =
      .next ((u.setBw (fun b => { b with raised := tset 0 b.raised a (max 3 (tget 0 b.raised a)) })).bwSync))) ∧
  -- AXIS_STOP_TIMEOUT: the standstill of the axis, or STOP_TMAX: at least L4 (R466)
  (∀ (s u : State) (t : Time) (a : Fin 64), s.tick t = u →
    (bitN u.bw.still a = true → exec (.axisStopTimeout t a) s = .next u.standstills.bwSync) ∧
    (bitN u.bw.still a = false → tget 0 u.bw.stopAt a ≠ 0 → tget 0 u.bw.stopAt a - 1 + ms (nz (u.fld R.BRAKE.AXTIME 31 16)) ≤ u.now →
      exec (.axisStopTimeout t a) s = .next ((u.setBw (fun b => { b with raised := tset 0 b.raised a (max 4 (tget 0 b.raised a)) })).bwSync)) ∧
    (bitN u.bw.still a = false → tget 0 u.bw.stopAt a = 0 → exec (.axisStopTimeout t a) s = .next u)) ∧
  -- FCLR, by the host, a millwright or the pair: every matching fault clears unless its source is still active; by another
  -- master it is refused (R469)
  (∀ (s u : State) (t : Time) (m : Option Master) (v : Word), s.tick t = u → u.Writable R.BRAKE.base →
    (mayClear m = true → exec (.fclr t m v) s = .next (u.fclr v.toNat)) ∧
    (mayClear m = false → exec (.fclr t m v) s = .next (u.cmdRefused R.BRAKE.base))) ∧
  -- ERR_TOGGLE with a channel active, once ERR_CFG has passed: the phase of ERRA and ERRB turns (R460)
  (∀ (s u : State) (t : Time), s.tick t = u →
    (u.bw.chA = true → u.bw.errAt + us (u.fld R.BRAKE.ERR_CFG 15 0) ≤ u.now → exec (.errToggle t) s =
      .next (u.setBw (fun b => { b with err := !b.err, errAt := b.errAt + us (u.fld R.BRAKE.ERR_CFG 15 0) }))) ∧
    (u.bw.chA = false → u.bw.chB = false → exec (.errToggle t) s = .next u)) ∧
  -- SAFE_MONITOR_EDGE of a line, or a valid serial word of the port (R461, R462)
  (∀ (s u : State) (t st : Time) (n : Fin 48) (l : Fin 3) (v : Bool), s.tick t = u →
    exec (.safeMonitorEdge t n (.edge l v st)) s = .next (u.smEdge n l v st) ∧ exec (.safeMonitorEdge t n .word) s = .next (u.smWord n)) ∧
  -- XCHECK of an enabled monitor whose count agrees with the port's within XTOL; of a disabled one: nothing (R462)
  (∀ (s u : State) (t : Time) (n : Fin 48), s.tick t = u →
    (u.smEn n = false → exec (.xcheck t n) s = .next u) ∧
    (u.smEn n = true → (u.rg (R.SM.COUNT n) - BitVec.ofInt 32 (u.fbCount n)).toInt.natAbs ≤ u.fld (R.SM.XTOL n) 15 0 →
      exec (.xcheck t n) s = .next (u.setSm n (fun x => { x with offSince := none })))) ∧
  -- SM_FLAGS_CLEAR by the pair: the flags named go, and the monitors report clear (R462)
  (∀ (s u : State) (t : Time) (k : Fin 4) (v : DWord), s.tick t = u →
    exec (.smFlagsClear t none k v) s = .next ((List.range 48).foldl (fun (s : State) n =>
      if bitN (u.rg64 (R.BRAKE.SM_FLAGS k)) n && bitN v.toNat n then s.reportClear (if k.val = 3 then 0x12 else 0x13 + k) n else s)
      (u.setRg64 (R.BRAKE.SM_FLAGS k) (u.rg64 (R.BRAKE.SM_FLAGS k) ^^^ (u.rg64 (R.BRAKE.SM_FLAGS k) &&& v.toNat))))) ∧
  -- DIAG_DUE (R471)
  (∀ (s u : State) (t : Time), s.tick t = u → exec (.diagDue t) s = .next u.diagEval)

/-- The commands of password, session, change log and proof test complete (R480 to R485); every write of SESS_CMD clears
PW_DATA (R481). -/
def Obligations.sessionCommandsComplete : Prop :=
  -- SESSION_OPEN with a password set, no session, no lockout and a legal length: verification begins (R480, R481)
  (∀ (s u : State) (t : Time) (m : Master) (len : Fin 64) (h : BitVec 256), s.tick t = u → u.Writable R.BRAKE.base → u.sess.pwHash = some h →
    u.sess.state = .none → u.lockedOut = false → 8 ≤ len.val → len.val ≤ 32 →
    exec (.sessionOpen t m len) s = .next (((u.setSess (fun x =>
      { x with
        state := .verifying, owner := m, user := u.fld R.BRAKE.SESS_USER 15 0,
        since := u.now, matched := passwordHash u.sess.salt (u.pwBytes len) == h }))).setSess
      (fun x => { x with pwData := Vector.replicate 8 0 }))) ∧
  -- SESSION_OPEN without a password, or with a length that is too short: refused (R480, R481)
  (∀ (s u : State) (t : Time) (m : Master) (len : Fin 64), s.tick t = u → u.Writable R.BRAKE.base →
    (u.sess.pwHash = none → exec (.sessionOpen t m len) s = .next ((u.cmdRefused R.BRAKE.base).setSess (fun x => { x with pwData := Vector.replicate 8 0 }))) ∧
    (len.val < 8 → exec (.sessionOpen t m len) s = .next ((u.cmdRefused R.BRAKE.base).setSess (fun x => { x with pwData := Vector.replicate 8 0 })))) ∧
  -- PASSWORD_VERIFIED: the session opens, or the failure is counted and the fifth one locks out for 60 s (R481)
  (∀ (s u : State) (t : Time), s.tick t = u → u.sess.state = .verifying →
    (u.sess.matched = true → exec (.passwordVerified t) s = .next ((u.setSess (fun x =>
      { x with state := .opened, since := u.now, fails := 0, lastFail := false })).bwPost 0x07 (1 + u.sess.owner.code * 4) 0x10)) ∧
    (u.sess.matched = false → exec (.passwordVerified t) s = .next ((u.setSess (fun x =>
      { x with
        state := .none, fails := min 255 (u.sess.fails + 1),
        lastFail := true, lockout := if 5 ≤ min 255 (u.sess.fails + 1) then some u.now else x.lockout })).bwPost 0x08
      (min 255 (u.sess.fails + 1) + b2n (decide (5 ≤ min 255 (u.sess.fails + 1))) * 2 ^ 8) 0x10))) ∧
  -- LOCKOUT_END after 60 s: the lockout is over (R481)
  (∀ (s u : State) (t : Time), s.tick t = u →
    (u.lockedOut = false → exec (.lockoutEnd t) s = .next (u.setSess (fun x => { x with lockout := none }))) ∧
    (u.lockedOut = true → exec (.lockoutEnd t) s = .next u)) ∧
  -- SESSION_CLOSE by the owner ends the session; by anyone else it is refused (R482)
  (∀ (s u : State) (t : Time) (m : Master), s.tick t = u → u.Writable R.BRAKE.base →
    (u.sessOwner m = true → exec (.sessionClose t m) s = .next ((u.sessEnd 0).setSess (fun x => { x with pwData := Vector.replicate 8 0 }))) ∧
    (u.sessOwner m = false → exec (.sessionClose t m) s = .next ((u.cmdRefused R.BRAKE.base).setSess (fun x => { x with pwData := Vector.replicate 8 0 })))) ∧
  -- SESSION_TIMEOUT of a session that has been open for SESS_TMO (R482)
  (∀ (s u : State) (t : Time), s.tick t = u →
    (u.sess.state = .opened → u.sess.since + sec (u.fld R.BRAKE.SESS_TMO 15 0) ≤ u.now → exec (.sessionTimeout t) s = .next (u.sessEnd 2)) ∧
    (u.sess.state ≠ .opened → exec (.sessionTimeout t) s = .next u)) ∧
  -- SET_PW with no password set and no session, a legal length, printable characters and room in the log: the password is set and
  -- logged; the salt and the program CRCs that the spec does not state are open values (R480, R482, R483)
  (∀ (s u : State) (t : Time) (m : Master) (len : Fin 64), s.tick t = u → u.Writable R.BRAKE.base → u.sess.pwHash = none → u.sess.state = .none →
    8 ≤ len.val → len.val ≤ 32 → (u.pwBytes len).any (fun b => decide (b < 0x20) || decide (0x7E < b)) = false → u.logFull = false →
    ∃ r, exec (.setPw t m len) s = .next r ∧ r.sess.pwHash = some (passwordHash r.sess.salt (u.pwBytes len)) ∧
      r.sess.log.length = u.sess.log.length + 1 ∧ r.sess.pwData = Vector.replicate 8 0) ∧
  -- SET_PW without the right to, or with an illegal length: refused (R480, R482)
  (∀ (s u : State) (t : Time) (m : Master) (len : Fin 64), s.tick t = u → u.Writable R.BRAKE.base →
    (u.sess.pwHash ≠ none → u.sessOwner m = false → exec (.setPw t m len) s =
      .next ((u.cmdRefused R.BRAKE.base).setSess (fun x => { x with pwData := Vector.replicate 8 0 }))) ∧
    (32 < len.val → exec (.setPw t m len) s = .next ((u.cmdRefused R.BRAKE.base).setSess (fun x => { x with pwData := Vector.replicate 8 0 })))) ∧
  -- SEAL by the owner with the CRC-32 of the log in LOG_SEAL: the log is emptied, the chain goes on from it (R484)
  (∀ (s u : State) (t : Time) (m : Master), s.tick t = u → u.Writable R.BRAKE.base →
    (u.sessOwner m = true → u.logSum = (u.rg R.BRAKE.LOG_SEAL).toNat → exec (.seal t m) s =
      .next ((((((u.setSess (fun x => { x with log := [], chain := u.rg R.BRAKE.LOG_SEAL })).putBit R.BRAKE.STAT 7 false).specialEntry 4
        (BitVec.ofNat 32 u.sess.log.length) (u.rg R.BRAKE.LOG_SEAL)).bwPost 0x09 (2 + u.sess.log.length % 2 ^ 16 * 2 ^ 16) 0x20)).setSess
        (fun x => { x with pwData := Vector.replicate 8 0 }))) ∧
    (u.sessOwner m = false → exec (.seal t m) s = .next ((u.cmdRefused R.BRAKE.base).setSess (fun x => { x with pwData := Vector.replicate 8 0 }))) ∧
    (u.logSum ≠ (u.rg R.BRAKE.LOG_SEAL).toNat → exec (.seal t m) s =
      .next ((u.cmdRefused R.BRAKE.base).setSess (fun x => { x with pwData := Vector.replicate 8 0 })))) ∧
  -- PT_OPEN by the owner outside RUN with room in the log: a proof-test session; both channels are commanded off (R485)
  (∀ (s u : State) (t : Time) (m : Master), s.tick t = u → u.Writable R.BRAKE.base →
    (u.sessOwner m = true → u.dev.st ≠ .run → u.sess.proof = false → u.logFull = false →
      exec (.ptOpen t m) s = .next ((u.ptOpen m).setSess (fun x => { x with pwData := Vector.replicate 8 0 })) ∧ (u.ptOpen m).sess.proof = true) ∧
    (u.sessOwner m = false → exec (.ptOpen t m) s = .next ((u.cmdRefused R.BRAKE.base).setSess (fun x => { x with pwData := Vector.replicate 8 0 }))) ∧
    (u.dev.st = .run → exec (.ptOpen t m) s = .next ((u.cmdRefused R.BRAKE.base).setSess (fun x => { x with pwData := Vector.replicate 8 0 }))) ∧
    (u.sess.proof = true → exec (.ptOpen t m) s = .next ((u.cmdRefused R.BRAKE.base).setSess (fun x => { x with pwData := Vector.replicate 8 0 })))) ∧
  -- PT_CLOSE by the owner in a proof-test session with room in the log: logged, and the session of the test ends; else refused (R485)
  (∀ (s u : State) (t : Time) (m : Master), s.tick t = u → u.Writable R.BRAKE.base →
    (u.sessOwner m = true → u.sess.proof = true → u.logFull = false → exec (.ptClose t m) s =
      .next (u.proofEntry.proofEnd.setSess (fun x => { x with pwData := Vector.replicate 8 0 }))) ∧
    (u.sess.proof = false → exec (.ptClose t m) s = .next ((u.cmdRefused R.BRAKE.base).setSess (fun x => { x with pwData := Vector.replicate 8 0 }))))

/-- The commands of power-up, power-down and reset complete (R515 to R521, R27). -/
def Obligations.powerCommandsComplete : Prop :=
  -- PWR_EN_RISE in WATCH starts power-up at P2; during a power-down it waits; in any other state only the level counts (R516, R518)
  (∀ (s u : State) (t : Time), s.tick t = u → u.pwr.pwrEn = false →
    (u.dev.st = .watch → u.pwr.down = 0 → exec (.pwrEnRise t) s = .next ((u.setPwr (fun p => { p with pwrEn := true })).powerUp)) ∧
    (u.dev.st ≠ .off → u.pwr.down ≠ 0 → exec (.pwrEnRise t) s = .next ((u.setPwr (fun p => { p with pwrEn := true })).setPwr (fun p => { p with rise := true }))) ∧
    (u.dev.st = .off → exec (.pwrEnRise t) s = .next (u.setPwr (fun p => { p with pwrEn := true })))) ∧
  -- PWR_EN_FALL from READY, RUN or SAFE begins power-down at D1; during one only the level counts (R518, R519)
  (∀ (s u v : State) (t : Time), s.tick t = u → u.setPwr (fun p => { p with pwrEn := false, rise := false }) = v →
    (u.pwr.down ≠ 0 → exec (.pwrEnFall t) s = .next v) ∧
    (u.pwr.down = 0 → u.up = true → exec (.pwrEnFall t) s = .next (v.setPwr (fun p => { p with down := 1 }))) ∧
    (u.pwr.down = 0 → u.dev.st = .standby → exec (.pwrEnFall t) s = .next (v.stepStop.setPwr (fun p => { p with down := 3 }))) ∧
    (u.pwr.down = 0 → u.dev.st = .watch → exec (.pwrEnFall t) s = .next v)) ∧
  -- POWER_UP_STEP: nothing outside STANDBY or during power-down; a supply group (P2), the PLLs (P3), the release (P6) (R516)
  (∀ (s u : State) (t : Time) (x : UpStep), s.tick t = u →
    (u.dev.st ≠ .standby → exec (.powerUpStep t x) s = .next u) ∧
    (u.dev.st = .standby → u.pwr.down = 0 → u.pwr.step = 2 → u.pwr.group < 2 → x = .done → exec (.powerUpStep t x) s =
      .next ((u.supply (groupBits u.pwr.group) true).setPwr (fun p => { p with group := p.group + 1 }))) ∧
    (u.dev.st = .standby → u.pwr.down = 0 → u.pwr.step = 3 → x = .done → exec (.powerUpStep t x) s =
      .next ((u.putFld R.PWR.SEQ_STAT 2 0 3).setPwr (fun p => { p with step := 4 }))) ∧
    (u.dev.st = .standby → u.pwr.down = 0 → u.pwr.step = 6 → u.pwr.nrst = true → x = .done → exec (.powerUpStep t x) s = .next u.release)) ∧
  -- POWER_UP_STEP: the image that P4 read, and the outcome of the start-up BIST (P5) (R516, R547)
  (∀ (s u v : State) (t : Time) (b : Boot) (fails : List (Nat × Nat)) (reps : List RepEntry) (bits : List (Nat × Nat × BistBit)), s.tick t = u →
    u.dev.st = .standby → u.pwr.down = 0 →
    (u.pwr.step = 4 → u.pwr.nrst = true → u.cfsReplay.setPwr (fun p => { p with boot := some b }) = v → exec (.powerUpStep t (.image b)) s =
      .next ((v.putFld R.PWR.SEQ_STAT 2 0 v.pwr.step).setPwr (fun p => { p with step := if b.ok && b.bist then 5 else 6 }))) ∧
    (u.pwr.step = 5 → (u.setPwr (fun p => { p with tested := true, fails := fails, failBits := bits })).setBist (fun b =>
      { b with table := (b.table ++ reps).take 1024 }) = v → exec (.powerUpStep t (.tested fails reps bits)) s =
      .next ((v.putFld R.PWR.SEQ_STAT 2 0 v.pwr.step).setPwr (fun p => { p with step := 6 })))) ∧
  -- POWER_UP_TIMEOUT of the group that ramps or of a PLL: SEQ_FAIL, the item, and power-down from D3 (R517); of anything else nothing
  (∀ (s u : State) (t : Time) (item : Fin 7), s.tick t = u → u.dev.st = .standby → u.pwr.down = 0 →
    (u.pwr.step = 2 → item.val = u.pwr.group + 1 → exec (.powerUpTimeout t item) s =
      .next (((u.putBit R.PWR.STICKY 2 true).putFld R.PWR.SEQ_STAT 5 3 item.val).setPwr (fun p => { p with down := 3, rise := false }))) ∧
    (u.pwr.step = 3 → 4 ≤ item.val → exec (.powerUpTimeout t item) s =
      .next (((u.putBit R.PWR.STICKY 2 true).putFld R.PWR.SEQ_STAT 5 3 item.val).setPwr (fun p => { p with down := 3, rise := false }))) ∧
    (u.pwr.step = 4 → exec (.powerUpTimeout t item) s = .next u)) ∧
  -- POWER_DOWN_STEP: D1 outputs off, D2 save and reset of the link, D3 supplies off, D4 WATCH, OFF or power-up again (R518, R519)
  (∀ (s u : State) (t : Time), s.tick t = u →
    (u.pwr.down = 0 → exec (.powerDownStep t) s = .next u) ∧
    (u.pwr.down = 1 → exec (.powerDownStep t) s = .next (u.powerD1.setPwr (fun p => { p with down := 2 }))) ∧
    (u.pwr.down = 2 → exec (.powerDownStep t) s = .next ((u.powerD2 1).setPwr (fun p => { p with down := 3 }))) ∧
    (u.pwr.down = 3 → exec (.powerDownStep t) s = .next ((((u.supply 0x20 false).supply 0x1c false).supply 3 false).setPwr
      (fun p => { p with down := 4 }))) ∧
    (u.pwr.down = 4 → exec (.powerDownStep t) s = .next u.powerD4)) ∧
  -- BROWN_OUT outside READY, RUN and SAFE: only the supply's flag (R515)
  (∀ (s u : State) (t : Time) (i : Fin 6) (c : Bool), s.tick t = u → u.up = false →
    exec (.brownOut t i c) s = .next (u.supply (2 ^ i.val) false)) ∧
  -- BROWN_OUT in READY, RUN or SAFE without a collapse: BROWN_OUT is flagged, D1 and D2 at once (R515)
  (∀ (s u : State) (t : Time) (i : Fin 6), s.tick t = u → u.up = true → u.pwr.down < 3 →
    exec (.brownOut t i false) s = .next (((((((u.setPwr (fun p => { p with brown := true })).putBit R.PWR.STICKY 1 true).supply (2 ^ i.val)
      false).powerD1).powerD2 2)).setPwr (fun p => { p with down := 3, rise := false }))) ∧
  -- BROWN_OUT with a collapse before D2 ends: nothing is saved; a transaction without its commit record is lost (R515, R528)
  (∀ (s u : State) (t : Time) (i : Fin 6), s.tick t = u → u.up = true → u.pwr.down < 3 →
    exec (.brownOut t i true) s = .next (((((((u.setPwr (fun p => { p with brown := true })).putBit R.PWR.STICKY 1 true).supply (2 ^ i.val)
      false).powerD1).setPwr (fun p => { p with cfs := p.cfs.filter (fun x => x.committed u.now) })).pcieReset true).setPwr
      (fun p => { p with down := 3, rise := false }))) ∧
  -- RESET_ASSERT in READY, RUN or SAFE: D1 and D2, then STANDBY at P4 (R520)
  (∀ (s u : State) (t : Time), s.tick t = u → u.pwr.nrst = true → u.pwr.down = 0 → u.up = true →
    exec (.resetAssert t) s = .next ((((((u.setPwr (fun p =>
      { p with nrst := false, fallAt := u.now, fallClk := u.rg R.SYS.CLK_MON, longSeen := false })).powerD1).powerD2 3).toState .standby)).setPwr
      (fun p => { p with step := 4, byReset := true, tested := false, boot := none }))) ∧
  -- RESET_ASSERT while nRST is low already: nothing (R520)
  (∀ (s u : State) (t : Time), s.tick t = u → u.pwr.nrst = false → exec (.resetAssert t) s = .next u) ∧
  -- RESET_RELEASE in STANDBY from P4 on: power-up goes on at P4, or at P3 where a PLL lost lock meanwhile (R520)
  (∀ (s u : State) (t : Time), s.tick t = u → u.pwr.nrst = false → u.pwr.down = 0 → u.dev.st = .standby → 4 ≤ u.pwr.step →
    (u.rg R.SYS.CLK_MON &&& ~~~u.pwr.fallClk &&& lockBits = 0 → exec (.resetRelease t) s =
      .next ((u.setPwr (fun p => { p with nrst := true })).setPwr (fun p => { p with step := 4 }))) ∧
    (u.rg R.SYS.CLK_MON &&& ~~~u.pwr.fallClk &&& lockBits ≠ 0 → exec (.resetRelease t) s =
      .next ((u.setPwr (fun p => { p with nrst := true })).setPwr (fun p => { p with step := 3 })))) ∧
  -- RESET_LONG: counted once per low of nRST of more than 10 s (R521)
  (∀ (s u : State) (t : Time), s.tick t = u →
    (u.pwr.nrst = false → u.pwr.longSeen = false → u.pwr.fallAt + sec 10 < u.now → u.dev.st ≠ .off → exec (.resetLong t) s =
      .next (((u.putBit R.PWR.STICKY 0 true).count R.PWR.RST_CNT 15 0 1).setPwr (fun p => { p with longSeen := true, longPost := true }))) ∧
    (u.pwr.nrst = true → exec (.resetLong t) s = .next u) ∧ (u.pwr.longSeen = true → exec (.resetLong t) s = .next u)) ∧
  -- VBAK_GOOD in OFF: WATCH, with the RTC at 0; VBAK_LOST in WATCH: OFF; elsewhere only the flag (R27, R530)
  (∀ (s u : State) (t : Time), s.tick t = u →
    (u.dev.st = .off → exec (.vbakGood t) s = .next (((u.supply 0x80 true).toState .watch).setPwr (fun p => { p with rtc := 0, rtcAt := 4 * u.now }))) ∧
    (u.dev.st ≠ .off → exec (.vbakGood t) s = .next (u.supply 0x80 true)) ∧
    (u.dev.st = .watch → u.pwr.down = 0 → exec (.vbakLost t) s = .next ((u.supply 0x80 false).toOff)) ∧
    (u.dev.st ≠ .watch → exec (.vbakLost t) s = .next (u.supply 0x80 false)))

/-- The commands of the backup domain, the configuration store, the charger and the gauge complete (R24, R524 to R534). -/
def Obligations.backupCommandsComplete : Prop :=
  -- SETTLE_DROP of a port that is not held, or with nothing held for 1 ms: nothing (R525)
  (∀ (s u : State) (t : Time) (k : Fin 5), s.tick t = u → k.val < 4 → u.txHeld k = false → exec (.settleDrop t k) s = .next u) ∧
  -- SETTLE_DROP at a port that is held: the frames queued for 1 ms are dropped and counted (R525)
  (∀ (s u : State) (t : Time) (k : Fin 5) (n : Nat), s.tick t = u → k.val < 4 → u.txHeld k = true →
    (u.port k).queues.toList.foldl (fun (n : Nat) q => n + (q.filter (fun f => decide (f.at_ + ms 1 ≤ u.now))).length) 0 = n → n ≠ 0 →
    exec (.settleDrop t k) s = .next ((((((u.setPort k (fun p => { p with queues := p.queues.map (fun q => q.filter
      (fun f => !decide (f.at_ + ms 1 ≤ u.now))) })).count (R.ETH.DROP k) 31 16 n).irq (R.ETH.base k) 4).pwrPost 0x03 k).irq R.PWR.base 2))) ∧
  -- PLL_RELOCK: the flag of a SerDes PLL clears; PLL_C lets the CAN controllers restart; the others have no effect of their own (R24, R524)
  (∀ (s u : State) (t : Time) (n : Fin 4), s.tick t = u →
    exec (.pllRelock t (.serdes n)) s = .next (u.putBit R.SYS.CLK_MON (6 + n.val) false) ∧
    (u.dev.pllcDown = true → exec (.pllRelock t .c) s = .next (({ u with dev := { u.dev with pllcDown := false } } : State).canRestartAll)) ∧
    (u.dev.pllcDown = false → exec (.pllRelock t .c) s = .next u)) ∧
  -- CFS_WRITE with a legal address and length, no transaction in progress and no brown-out: the transaction begins (R526)
  (∀ (s u : State) (t : Time) (m : Master) (a n : Nat), s.tick t = u → u.Writable R.CFS.base → u.pwr.cfs = none → u.pwr.brown = false →
    u.fld R.CFS.ADDR 20 0 = a → u.fld R.CFS.LEN 6 0 = n → 1 ≤ n → n ≤ 64 → a + n ≤ 0x1F0000 →
    exec (.cfsWrite t m) s = .next ((((u.putFld R.CFS.STAT 1 0 1).putBit (R.PG_ERRINJ R.CFS.base) 16 false)).setPwr (fun p =>
      { p with cfs := some ⟨a, (List.range n).map (fun i => u.rg (R.CFS.BUF i)), u.now, u.bit (R.PG_ERRINJ R.CFS.base) 16, none⟩ }))) ∧
  -- CFS_WRITE and CFS_READ with an illegal length, and CFS_WRITE while busy or after a brown-out: refused (R526, R537)
  (∀ (s u : State) (t : Time) (m : Master), s.tick t = u → u.Writable R.CFS.base →
    (u.fld R.CFS.LEN 6 0 = 0 → exec (.cfsWrite t m) s = .next u.cfsRefuse ∧ exec (.cfsRead t m) s = .next u.cfsRefuse) ∧
    (64 < u.fld R.CFS.LEN 6 0 → exec (.cfsWrite t m) s = .next u.cfsRefuse ∧ exec (.cfsRead t m) s = .next u.cfsRefuse) ∧
    (u.cfsBusy = true → exec (.cfsWrite t m) s = .next u.cfsRefuse) ∧ (u.pwr.brown = true → exec (.cfsWrite t m) s = .next u.cfsRefuse)) ∧
  -- CFS_READ with a legal length: the words stand in the buffer, a committed transaction's words among them (R527, R537)
  (∀ (s u : State) (t : Time) (m : Master) (a n : Nat), s.tick t = u → u.Writable R.CFS.base → u.fld R.CFS.ADDR 20 0 = a → u.fld R.CFS.LEN 6 0 = n →
    1 ≤ n → n ≤ 64 →
    exec (.cfsRead t m) s = .next (((List.range n).foldl (fun (s : State) i => (s.cfsWord (a + i)).2.setRg (R.CFS.BUF i) (s.cfsWord (a + i)).1)
      (u.putBit R.CFS.STAT 1 false)).irq R.CFS.base 1)) ∧
  -- CFS_DONE of a transaction whose journal entry is retired: its words, the event and the interrupt (R526); before that nothing
  (∀ (s u : State) (t : Time) (x : CfsTxn), s.tick t = u → u.pwr.cfs = some x → x.repair = none →
    (x.ended u.now = true → exec (.cfsDone t) s = .next (((((u.cfsApply x).setPwr (fun p => { p with cfs := none })).putBit R.CFS.STAT 0
      false).pwrPost 0x05 (x.addr % 2 ^ 21)).irq R.CFS.base 1)) ∧
    (x.ended u.now = false → exec (.cfsDone t) s = .next u)) ∧
  -- RTC_SET by a master that holds the lock: in force at the next BCLK edge (R530)
  (∀ (s u v : State) (t : Time) (m : Master) (d : DWord), s.tick t = u → u.Writable R.PWR.base →
    u.writeReg m R.PWR.base R.PWR.RTC_SET d.toNat = v → u.lockOk R.PWR.base m = true →
    exec (.rtcSet t m d) s = .next (v.setPwr (fun _ => { v.pwr.rtcSync u.now with rtcNext := some ((v.pwr.rtcSync u.now).rtcAt +
      ((4 * u.now - (v.pwr.rtcSync u.now).rtcAt) / bclk + 1) * bclk, d.toNat % 2 ^ 48 * 2 ^ 15 + d.toNat / 2 ^ 48 % 2 ^ 15) }))) ∧
  -- XTAL_FAIL: the RTC stops where it stands, and XTAL_FAIL is flagged; once (R530)
  (∀ (s u : State) (t : Time), s.tick t = u →
    (u.pwr.xtal = true → exec (.xtalFail t) s = .next ((u.putBit R.PWR.STICKY 6 true).setPwr (fun p => { p with rtc := u.rtcNow, rtcNext := none, xtal := false }))) ∧
    (u.pwr.xtal = false → exec (.xtalFail t) s = .next u)) ∧
  -- BSRAM_DATA_READ: the word that BSRAM_ADDR names, and the address advances (R531)
  (∀ (s u : State) (t : Time) (m : Master), s.tick t = u → u.up = true →
    exec (.bsramDataRead t m) s = .next { u.bsramNext with rd := BitVec.ofNat 64 (u.ldw u.bsramAt).toNat }) ∧
  -- BSRAM_DATA_WRITE: words 0 to 63 are kept, any other takes the value; the address advances (R531)
  (∀ (s u : State) (t : Time) (m : Master) (v : Word), s.tick t = u → u.Writable R.PWR.base →
    (u.fld R.PWR.BSRAM_ADDR 9 0 < 64 → exec (.bsramDataWrite t m v) s = .next u.bsramNext) ∧
    (64 ≤ u.fld R.PWR.BSRAM_ADDR 9 0 → exec (.bsramDataWrite t m v) s = .next (u.stw u.bsramAt v).bsramNext)) ∧
  -- FREC_ACK: the kept fault record may be replaced (R532)
  (∀ (s u : State) (t : Time) (m : Master), s.tick t = u → u.Writable R.PWR.base →
    exec (.frecAck t m) s = .next (u.setPwr (fun p => { p with frecAck := true }))) ∧
  -- CELL_ABSENT while charging: the charger tries again later (R533)
  (∀ (s u : State) (t : Time), s.tick t = u →
    (u.chgOn = true → u.chg = 1 → exec (.cellAbsent t) s = .next ((((u.putFld R.PWR.CHG_STAT 1 0 3).putBit R.PWR.STICKY 3 true).setPwr (fun p =>
      { p with tryAt := u.now })).cellPost 1)) ∧
    (u.chgOn = false → exec (.cellAbsent t) s = .next u)) ∧
  -- CHARGER_RETRY every 10 s with no cell: a cell that draws current has returned (R533)
  (∀ (s u : State) (t : Time), s.tick t = u → u.chgOn = true → u.chg = 3 → u.pwr.tryAt + sec 10 ≤ u.now →
    exec (.chargerRetry t true) s = .next (((u.setPwr (fun p => { p with tryAt := u.now, back := true })).putFld R.PWR.CHG_STAT 1 0 1).cellPost 2) ∧
    exec (.chargerRetry t false) s = .next (u.setPwr (fun p => { p with tryAt := u.now }))) ∧
  -- CHARGER_THRESHOLD: constant current to 3.1 V, then constant voltage, then done, and again below 3.0 V (R533)
  (∀ (s u : State) (t : Time), s.tick t = u → u.chgOn = true →
    (u.chg = 1 → exec (.chargerThreshold t 0) s = .next (u.putFld R.PWR.CHG_STAT 1 0 2)) ∧
    (u.chg = 2 → exec (.chargerThreshold t 1) s = .next (u.putFld R.PWR.CHG_STAT 1 0 0)) ∧
    (u.chg = 0 → exec (.chargerThreshold t 2) s = .next (u.putFld R.PWR.CHG_STAT 1 0 1))) ∧
  -- GAUGE_TEST without VIO33, or within 60 s of the latest one: nothing (R534)
  (∀ (s u : State) (t : Time) (v : Fin 65536) (q : Int), s.tick t = u →
    (u.bit R.PWR.SUP_STAT 5 = false → exec (.gaugeTest t v q) s = .next u) ∧
    (u.now < u.pwr.gaugeAt + sec 60 → exec (.gaugeTest t v q) s = .next u)) ∧
  -- GAUGE_TEST that finds the count and V_LOAD in agreement: the count stands, the voltage beside it (R534)
  (∀ (s u : State) (t : Time) (v : Fin 65536) (q : Int) (n : Nat), s.tick t = u → u.bit R.PWR.SUP_STAT 5 = true →
    u.pwr.gaugeAt + sec 60 ≤ u.now → u.pwr.back = false → wfld (u.rg R.PWR.GAUGE_CFG) 23 16 ≠ wfld (u.rg R.PWR.GAUGE_CFG) 31 24 →
    (clampI 0 0xFFFF ((u.fld R.PWR.GAUGE 15 0 : Int) + q)).toNat = n → u.fld R.PWR.GAUGE_CFG 15 0 < 20 * n → 5 * n < 4 * u.fld R.PWR.GAUGE_CFG 15 0 →
    exec (.gaugeTest t v q) s = .next ((u.setRg R.PWR.GAUGE (BitVec.ofNat 32 (n + v.val * 2 ^ 16))).setPwr
      (fun p => { p with gaugeAt := u.now, back := false })))

/-- The commands of the BIST engine complete (R539, R542 to R545). -/
def Obligations.bistCommandsComplete : Prop :=
  -- BIST_START that R539 refuses: REFUSED with the lowest reason, CMD_REFUSED
  (∀ (s u : State) (t : Time) (m : Master) (w : Word), s.tick t = u → u.Writable R.BIST.base → u.rg R.BIST.TARGET = w →
    u.bistReason (wfld w 7 0) (wfld w 15 8) ≠ 0 →
    exec (.bistStart t m) s = .next (((u.putBit R.BIST.STAT 4 true).putFld R.BIST.STAT 15 8 (u.bistReason (wfld w 7 0) (wfld w 15 8))).cmdRefused
      R.BIST.base)) ∧
  -- BIST_START that is accepted on a Stone core: the run is in progress and the core is under test (R539, R541)
  (∀ (s u : State) (t : Time) (m : Master) (w : Word), s.tick t = u → u.Writable R.BIST.base → u.rg R.BIST.TARGET = w →
    u.bistReason (wfld w 7 0) (wfld w 15 8) = 0 → wfld w 7 0 ≤ 2 →
    exec (.bistStart t m) s = .next (((((u.setRg R.BIST.STAT (BitVec.ofNat 32 (1 + m.code * 2 ^ 16))).setBist (fun b =>
      { b with run := some ⟨wfld w 7 0, wfld w 15 8, wfld w 19 16, u.bit (R.PG_ERRINJ R.BIST.base) 16⟩ })).putBit (R.PG_ERRINJ R.BIST.base) 16
      false)).setCoreState (wfld w 15 8) 5)) ∧
  -- BIST_ABORT of a run: ABORTED, the memories and the core as after a run; with no run nothing (R542)
  (∀ (s u : State) (t : Time) (m : Master) (r : BistRun), s.tick t = u → u.Writable R.BIST.base →
    (u.bist.run = some r → exec (.bistAbort t m) s = .next (((((((u.bistClean r).setBist (fun b => { b with fails := [] })).putFld R.BIST.STAT 3 0
      8).showFails []).setRg R.BIST.NFAIL 0)).irq R.BIST.base 1)) ∧
    (u.bist.run = none → exec (.bistAbort t m) s = .next u)) ∧
  -- BIST_RUN_END with no run: nothing (R542)
  (∀ (s u : State) (t : Time) (x : BistResult), s.tick t = u → u.bist.run = none → exec (.bistRunEnd t x) s = .next u) ∧
  -- BIST_RUN_END without a failure, the supply and the clock within their limits: PASS, counted (R542, R543)
  (∀ (s u : State) (t : Time) (x : BistResult) (r : BistRun), s.tick t = u → u.bist.run = some r → r.inject = false → x.bits = [] → x.count = 0 →
    720 ≤ x.vLow → x.vHigh ≤ 780 → x.dev.natAbs ≤ 200 →
    exec (.bistRunEnd t x) s = .next ((((((((((u.bistClean r).setBist (fun b => { b with fails := [] })).showFails []).putFld R.BIST.STAT 3 0
      2).putBit R.BIST.STAT 20 false).setRg R.BIST.NFAIL 0).setRg R.BIST.VCORE (BitVec.ofNat 32 (x.vLow % 2 ^ 16 + x.vHigh % 2 ^ 16 * 2 ^ 16))).setRg
      R.BIST.CLKDEV (BitVec.ofNat 32 (ux 16 x.dev))).count R.BIST.RUNS 15 0 1).irq R.BIST.base 1)) ∧
  -- BIST_REPAIR that R545 refuses: the lowest reason, CMD_REFUSED
  (∀ (s u : State) (t : Time) (m : Master) (i : Fin 8), s.tick t = u → u.Writable R.BIST.base → u.repairReason i ≠ 0 →
    exec (.bistRepair t m i) s = .next (((u.putFld R.BIST.REP_STAT 23 16 (u.repairReason i)).cmdRefused R.BIST.base).irq R.BIST.base 8)) ∧
  -- BIST_REPAIR that is accepted: a journalled transaction of two words carries the proposed entry (R545); where the words lie and
  -- what they hold the spec does not state
  (∀ (s u : State) (t : Time) (m : Master) (i : Fin 8), s.tick t = u → u.Writable R.BIST.base → u.repairReason i = 0 →
    ∃ r x, exec (.bistRepair t m i) s = .next r ∧ r.pwr.cfs = some x ∧ x.words.length = 2 ∧ x.at_ = u.now ∧
      x.repair = (u.bist.fails.getD i ⟨⟨0, 0, 0⟩, none, false⟩).spare ∧ r.bit R.CFS.STAT 0 = true)
end

