-- ==== Sys2Proof/Laws/Bus.lean ====
section
/-! SUPPORT. What an access to a register page comes down to (R31, R33, R35, R38, R41). -/

namespace Sys2Proof.Machine

/-- A write that reaches a page and aborts nothing has its own effect. -/
theorem State.onPage_writable {s : State} {pg : Nat} {k : State → State} (h : s.Writable pg) : s.onPage pg k = k s := by
  simp [State.onPage, State.abortSeq, h.up, h.idle, h.shut]

/-- While the pages are not accessible a write has no effect (R31). -/
theorem State.onPage_down {s : State} {pg : Nat} {k : State → State} (h : s.up = false) : s.onPage pg k = s := by
  simp [State.onPage, h]

theorem offOf_page (a o : Nat) (h : o < 0x1000) : offOf (pageOf a + o) = o := by
  unfold offOf pageOf; omega
theorem pageOf_page (a o : Nat) (h : o < 0x1000) : pageOf (pageOf a + o) = pageOf a := by
  unfold pageOf; omega
theorem tyOf_page (a o : Nat) (h : o < 0x1000) : tyOf (pageOf a + o) = tyOf a := by
  unfold tyOf pageOf; omega
theorem instOf_page (a o : Nat) (h : o < 0x1000) : instOf (pageOf a + o) = instOf a := by
  unfold instOf pageOf; omega

/-- An aligned 32-bit write with all byte enables is a write of that word (R35). -/
theorem State.busWrite_word {s : State} {m : Master} {a be v : Nat} (hu : s.up = true) (h : IsReg a) (hb : be % 16 = 15) :
    s.busWrite m a 4 be v = s.writeWord m a (v % 2 ^ 32) true := by
  have := h.low
  simp [State.busWrite, hu, h.there, hb, this]

theorem State.write32_word {s : State} {m : Master} {a : Nat} {v : Word} (hu : s.up = true) (h : IsReg a) :
    s.write32 m a v = s.writeWord m a v.toNat true := by
  rw [State.write32, State.busWrite_word hu h (by decide), Nat.mod_eq_of_lt v.isLt]

/-- A write of a header word other than `PG_LOCK`. -/
theorem State.write32_header {s : State} {m : Master} {a o : Nat} {v : Word} (hw : s.Writable (pageOf a))
    (h : IsReg (pageOf a + o)) (ho : o < 0x40) (hl : o ≠ 0x14) :
    s.write32 m (pageOf a + o) v = s.writeHeader m (pageOf a) o v.toNat := by
  rw [State.write32_word hw.up h]
  unfold State.writeWord
  extract_lets pg o'
  have hpg : pg = pageOf a := pageOf_page a o (by omega)
  have ho' : o' = o := offOf_page a o (by omega)
  clear_value pg o'
  subst hpg ho'
  rw [if_neg hl, State.onPage_writable hw, if_pos ho]

/-- A write of `PG_LOCK`. -/
theorem State.write32_lock {s : State} {m : Master} {a : Nat} {v : Word} (hu : s.up = true) (hb : s.busy (pageOf a) = false)
    (h : IsReg (pageOf a + 0x14)) : s.write32 m (pageOf a + 0x14) v = s.lockWrite m (pageOf a) v.toNat := by
  rw [State.write32_word hu h]
  unfold State.writeWord
  extract_lets pg o
  have hpg : pg = pageOf a := pageOf_page a 0x14 (by omega)
  have ho : o = 0x14 := offOf_page a 0x14 (by omega)
  clear_value pg o
  subst hpg ho
  rw [if_pos rfl, hu, hb]
  rfl

theorem bitsN_eq (v hi lo : Nat) : bitsN v hi lo = v / 2 ^ lo % 2 ^ (hi + 1 - lo) := by
  rw [bitsN, Nat.shiftRight_eq_div_pow]

/-- The bytes of a word under all enables are the word. -/
theorem mixLanes_full (old w : Nat) (h : w < 2 ^ 32) : mixLanes 15 old w = w := by
  have hb : ∀ i, i < 4 → bitN 15 i = true := by decide
  unfold mixLanes
  rw [show List.range 4 = [0, 1, 2, 3] from rfl, List.foldl_cons, List.foldl_cons, List.foldl_cons, List.foldl_cons,
    List.foldl_nil, if_pos (hb 0 (by omega)), if_pos (hb 1 (by omega)), if_pos (hb 2 (by omega)), if_pos (hb 3 (by omega)),
    bitsN_eq, bitsN_eq, bitsN_eq, bitsN_eq]
  omega

/-- An aligned 32-bit read of a register page returns the word that `readWord` reads (R35). -/
theorem State.read32_word {s : State} {m : Master} {a : Nat} (hu : s.up = true) (h : IsReg a) (h4 : a % 4 = 0) :
    s.read32 m a = { (s.readWord m a true).2 with rd := BitVec.ofNat 64 (s.readWord m a true).1.toNat } := by
  have hl := h.low
  have ht := h.there
  have ha : a / 4 * 4 = a := by omega
  have e : s.busRead m a 4 15 = (BitVec.ofNat 64 (s.readWord m a true).1.toNat, (s.readWord m a true).2) := by
    unfold State.busRead
    rw [hu, ht, Bool.not_true, if_neg Bool.false_ne_true, if_neg Bool.false_ne_true]
    extract_lets w lanes one lo hi val
    have hw : w = a := ha
    have hlanes : lanes = 15 := by
      show 15 % 2 ^ 4 * 2 ^ (a % 4) = 15
      rw [h4]
      decide
    have hlo : lo = s.readWord m a true := by
      show (if lanes % 16 = 0 then _ else one s w) = _
      rw [hlanes, if_neg (by decide)]
      unfold one
      rw [hw, if_pos hl]
      rfl
    have hhi : hi = (0, lo.2) := by
      show (if lanes / 16 = 0 then _ else _) = _
      rw [hlanes, if_pos (by decide)]
    have hm : ∀ x : Word, mixLanes 15 0 x.toNat = x.toNat := fun x => mixLanes_full 0 _ x.isLt
    have h0 : ∀ x, mixLanes 0 0 x = 0 := by
      intro x
      have hb : ∀ i, i < 4 → ¬ bitN 0 i = true := by decide
      unfold mixLanes
      rw [show List.range 4 = [0, 1, 2, 3] from rfl, List.foldl_cons, List.foldl_cons, List.foldl_cons, List.foldl_cons,
        List.foldl_nil, if_neg (hb 0 (by omega)), if_neg (hb 1 (by omega)), if_neg (hb 2 (by omega)), if_neg (hb 3 (by omega)),
        bitsN_eq, bitsN_eq, bitsN_eq, bitsN_eq]
      omega
    have hv : val = (s.readWord m a true).1.toNat := by
      show mixLanes (lanes % 16) 0 lo.1.toNat + mixLanes (lanes / 16) 0 hi.1.toNat * 2 ^ 32 = _
      rw [hlanes, show 15 % 16 = 15 from rfl, show 15 / 16 = 0 from rfl, hm, h0, hlo, Nat.zero_mul, Nat.add_zero]
    clear_value val hi lo
    subst hhi hv hlo
    rw [h4, Nat.mul_zero, Nat.pow_zero, Nat.div_one]
  rw [State.read32, e]

end Sys2Proof.Machine
end

