-- ==== Sys2Proof/Laws/Issue.lean ====
section
/-! SUPPORT. One issue of a core: what it comes to where nothing stands in the instruction's way. -/

namespace Sys2Proof.Machine

/-- An issue that nothing stops is the meaning of the instruction, its fault taken or its effects finished (R206, R255). -/
theorem State.issue_of {s : State} {c : Nat} {o : Op} {w0 w1 : Word} {done : Bool} (h : s.Issues c o w0 w1 done) (m : Sem) :
    s.issue c o m done = (match m (s.atIssue c) c w0 w1 done with
      | .fault t cause addr => t.failAt c cause addr
      | .stall => s.setCr c (fun k => { k with stall := true, accs := (s.atIssue c).windowAccs c w0 w1 m })
      | .ok t e => t.finish c (wordsOf w0) e) := by
  obtain ⟨h1, h2, h3, h4, h5, h7, h6⟩ := h
  unfold State.wordsAt at h2
  unfold State.atIssue at h4 h6 h7 ⊢
  unfold State.issue
  rw [if_neg (by simp [h1])]
  cases hf : (s.beginIssue c).fetch c ((s.beginIssue c).cr c).pc with
  | error e => rw [hf] at h2; simp at h2
  | ok x =>
    obtain ⟨a, b, v⟩ := x
    rw [hf] at h2 h4 h6 h7
    simp only [Option.some.injEq, Prod.mk.injEq] at h2
    obtain ⟨rfl, rfl⟩ := h2
    have hi : (if done then none else v.injectedIssue c) = none := by
      cases done with
      | true => rfl
      | false =>
        have : v.bit (R.PG_ERRINJ (corePage c)) 16 = false := h4 rfl
        simp [State.injectedIssue, this]
    have e1 : ¬(opOf a ≠ some o ∧ opOf a ≠ none) := by simp [h3]
    have e2 : ¬(opOf a = none ∨ (!Machine.legal c o a b) = true ∨ (c = 32 ∧ o = .bkpt ∧ !v.sess.proof)) := by
      rintro (h | h | ⟨rfl, rfl, h⟩)
      · simp [h3] at h
      · simp [h5] at h
      · have : v.sess.proof = true := h7 rfl rfl
        simp [this] at h
    have e3 : ¬(v.misplaced c o = true) := by
      intro h
      have : v.misplaced c o = false := h6
      rw [h] at this
      cases this
    dsimp only
    rw [hf]
    dsimp only
    rw [if_neg e1, hi]
    dsimp only
    rw [if_neg e2, if_neg e3]
    all_goals (cases m v c a b done <;> rfl)

/-- An instruction that only reads the core's registers completes with its results (R198). -/
theorem State.issue_plain {s : State} {c : Nat} {o : Op} {w0 w1 : Word} (h : s.Issues c o w0 w1 false) (f : CoreSt → Word → List (Nat × Wr)) :
    s.issue c o (Machine.plain f) false = (s.atIssue c).finish c (wordsOf w0) { wr := f ((s.atIssue c).cr c) w0 } := by
  rw [State.issue_of h]; rfl

end Sys2Proof.Machine
end

