-- ==== Sys2Proof/Laws/Table.lean ====
section
/-! SUPPORT. The sparse tables (registers, pages, memory): what a read after a write gives, and that every operation
keeps the canonical form. -/

namespace Sys2Proof.Machine

/-- The canonical form, said of the whole list. -/
theorem twf_iff {α} [DecidableEq α] (d : Nat → α) (l : List (Nat × α)) :
    twf d l = true ↔ l.Pairwise (fun p q => p.1 < q.1) ∧ ∀ p ∈ l, p.2 ≠ d p.1 := by
  induction l with
  | nil => simp [twf]
  | cons p r ih =>
    obtain ⟨a, v⟩ := p
    cases r with
    | nil => simp [twf]
    | cons q r =>
      obtain ⟨b, w⟩ := q
      rw [twf, Bool.and_eq_true, ih]
      simp only [Bool.and_eq_true, decide_eq_true_eq, List.pairwise_cons, List.mem_cons, forall_eq_or_imp]
      constructor
      · rintro ⟨⟨hv, hab⟩, ⟨hb, hr⟩, hn⟩
        exact ⟨⟨⟨hab, fun x hx => Nat.lt_trans hab (hb x hx)⟩, hb, hr⟩, hv, hn⟩
      · rintro ⟨⟨⟨hab, _⟩, hb, hr⟩, hv, hn⟩
        exact ⟨⟨hv, hab⟩, ⟨hb, hr⟩, hn⟩

/-- Leaving entries out keeps the canonical form. -/
theorem twf_filter {α} [DecidableEq α] (d : Nat → α) (p : Nat × α → Bool) (l : List (Nat × α)) (h : twf d l = true) :
    twf d (l.filter p) = true := by
  rw [twf_iff] at *
  exact ⟨h.1.filter p, fun q hq => h.2 q (List.mem_of_mem_filter hq)⟩

/-- The keys that a write leaves are those that were there and the one written. -/
theorem tput_mem {α} (l : List (Nat × α)) (k : Nat) (v : Option α) (p : Nat × α) (h : p ∈ tput l k v) :
    p ∈ l ∨ v = some p.2 ∧ p.1 = k := by
  induction l with
  | nil => cases v <;> simp [tput] at h; simp [h]
  | cons q r ih =>
    obtain ⟨a, w⟩ := q
    simp only [tput] at h
    split at h
    · cases v <;> simp at h
      · exact .inl (by simp [h])
      · rcases h with h | h <;> simp [h]
    · split at h
      · cases v <;> simp at h
        · exact .inl (by simp [h])
        · rcases h with h | h | h <;> simp [h]
      · rcases List.mem_cons.1 h with h | h
        · simp [h]
        · rcases ih h with h | h
          · simp [h]
          · exact .inr h

/-- A write keeps the keys in their order. -/
theorem tput_sorted {α} (l : List (Nat × α)) (k : Nat) (v : Option α) (h : l.Pairwise (fun p q => p.1 < q.1)) :
    (tput l k v).Pairwise (fun p q => p.1 < q.1) := by
  induction l with
  | nil => cases v <;> simp [tput]
  | cons q r ih =>
    obtain ⟨a, w⟩ := q
    obtain ⟨h1, h2⟩ := List.pairwise_cons.1 h
    simp only [tput]
    split
    · rename_i e; subst e
      cases v with
      | none => exact h2
      | some x => exact List.pairwise_cons.2 ⟨h1, h2⟩
    · split
      · cases v with
        | none => exact h
        | some x =>
          refine List.pairwise_cons.2 ⟨fun p hp => ?_, h⟩
          rcases List.mem_cons.1 hp with hp | hp
          · subst hp; assumption
          · exact Nat.lt_trans ‹k < a› (h1 p hp)
      · refine List.pairwise_cons.2 ⟨fun p hp => ?_, ih h2⟩
        rcases tput_mem r k v p hp with hp | hp
        · exact h1 p hp
        · simp only [hp.2]; omega

/-- A write keeps the canonical form. -/
theorem twf_tset {α} [DecidableEq α] (d : Nat → α) (l : List (Nat × α)) (k : Nat) (v : α) (h : twf d l = true) :
    twf d (tset (d k) l k v) = true := by
  rw [twf_iff] at *
  refine ⟨tput_sorted l k _ h.1, fun p hp => ?_⟩
  rcases tput_mem l k _ p hp with hp | ⟨hv, hk⟩
  · exact h.2 p hp
  · split at hv
    · cases hv
    · cases hv; rw [hk]; assumption

/-- A key below every listed one reads as its default. -/
theorem tget_below {α} (d : α) (l : List (Nat × α)) (k : Nat) (h : ∀ p ∈ l, k < p.1) : tget d l k = d := by
  cases l with
  | nil => rfl
  | cons q r =>
    obtain ⟨a, w⟩ := q
    have := h (a, w) (by simp)
    simp only [tget]; rw [if_neg (by omega), if_pos this]

/-- A read of the key just written. -/
theorem tget_tput_same {α} (d : α) (l : List (Nat × α)) (k : Nat) (v : Option α) (h : l.Pairwise (fun p q => p.1 < q.1)) :
    tget d (tput l k v) k = v.getD d := by
  induction l with
  | nil => cases v <;> simp [tput, tget]
  | cons q r ih =>
    obtain ⟨a, w⟩ := q
    obtain ⟨h1, h2⟩ := List.pairwise_cons.1 h
    simp only [tput]
    split
    · rename_i e; subst e
      cases v with
      | none => exact tget_below d r a h1
      | some x => simp [tget]
    · split
      · cases v with
        | none => simp only [tget, Option.getD_none]; rw [if_neg ‹_›, if_pos ‹_›]
        | some x => simp [tget]
      · simp only [tget]; rw [if_neg ‹_›, if_neg ‹_›]; exact ih h2

/-- A read of another key. -/
theorem tget_tput_other {α} (d : α) (l : List (Nat × α)) (k j : Nat) (v : Option α) (hj : j ≠ k)
    (h : l.Pairwise (fun p q => p.1 < q.1)) : tget d (tput l k v) j = tget d l j := by
  induction l with
  | nil =>
    cases v with
    | none => rfl
    | some x => simp only [tput, tget]; rw [if_neg (Ne.symm hj)]; split <;> rfl
  | cons q r ih =>
    obtain ⟨a, w⟩ := q
    obtain ⟨h1, h2⟩ := List.pairwise_cons.1 h
    simp only [tput]
    split
    · rename_i e; subst e
      cases v with
      | none =>
        simp only [tget]; rw [if_neg (Ne.symm hj)]
        split
        · exact tget_below d r j (fun p hp => Nat.lt_trans ‹_› (h1 p hp))
        · rfl
      | some x => simp only [tget]; rw [if_neg (Ne.symm hj), if_neg (Ne.symm hj)]
    · split
      · cases v with
        | none => rfl
        | some x =>
          rw [tget, if_neg (Ne.symm hj)]
          split
          · exact (tget_below d _ j (fun p hp => by
              rcases List.mem_cons.1 hp with hp | hp
              · subst hp; show j < a; omega
              · have := h1 p hp; omega)).symm
          · rfl
      · simp only [tget, ih h2]

/-- A read of the key just written. -/
theorem tget_tset_same {α} [DecidableEq α] (d : α) (l : List (Nat × α)) (k : Nat) (v : α)
    (h : l.Pairwise (fun p q => p.1 < q.1)) : tget d (tset d l k v) k = v := by
  rw [tset, tget_tput_same _ _ _ _ h]
  split <;> simp_all

/-- A read of another key. -/
theorem tget_tset_other {α} [DecidableEq α] (d d' : α) (l : List (Nat × α)) (k j : Nat) (v : α) (hj : j ≠ k)
    (h : l.Pairwise (fun p q => p.1 < q.1)) : tget d (tset d' l k v) j = tget d l j :=
  tget_tput_other d l k j _ hj h

/-! ### Memory -/

/-- A byte written keeps memory's canonical form. -/
theorem Memory.wf_write (m : List Host.Cell) (a : Nat) (b : Byte) (h : Memory.wf m = true) :
    Memory.wf (Memory.write m a b) = true := twf_tset (fun _ => (0 : Byte)) m a b h
/-- Bytes written keep memory's canonical form. -/
theorem Memory.wf_writeN (n : Nat) (m : List Host.Cell) (a v : Nat) (h : Memory.wf m = true) :
    Memory.wf (Memory.writeN m a v n) = true := by
  induction n generalizing m a v with
  | zero => exact h
  | succ n ih => exact ih _ _ _ (Memory.wf_write _ _ _ h)
/-- Bytes cleared keep memory's canonical form. -/
theorem Memory.wf_clear (m : List Host.Cell) (lo hi : Nat) (h : Memory.wf m = true) :
    Memory.wf (Memory.clear m lo hi) = true := twf_filter _ _ _ h
/-- A byte just written reads as written. -/
theorem Memory.read_write_same (m : List Host.Cell) (a : Nat) (b : Byte) (h : Memory.wf m = true) :
    Memory.read (Memory.write m a b) a = b := tget_tset_same 0 m a b ((twf_iff _ _).1 h).1
/-- Another byte reads as before. -/
theorem Memory.read_write_other (m : List Host.Cell) (a x : Nat) (b : Byte) (hx : x ≠ a) (h : Memory.wf m = true) :
    Memory.read (Memory.write m a b) x = Memory.read m x := tget_tset_other 0 0 m a x b hx ((twf_iff _ _).1 h).1
/-- Bytes outside the bytes written read as before. -/
theorem Memory.read_writeN_other (n : Nat) (m : List Host.Cell) (a v x : Nat) (hx : x < a ∨ a + n ≤ x) (h : Memory.wf m = true) :
    Memory.read (Memory.writeN m a v n) x = Memory.read m x := by
  induction n generalizing m a v with
  | zero => rfl
  | succ n ih =>
    rw [Memory.writeN, ih _ _ _ (by omega) (Memory.wf_write _ _ _ h), Memory.read_write_other _ _ _ _ (by omega) h]

end Sys2Proof.Machine
end

