-- ==== Sys2Proof/Laws/Keeps.lean ====
section
/-! SUPPORT. What no operation of the model does: it never touches the queue, and it never leaves the canonical form.
The relation between a state and the state an operation gives, and its rules for updates, choices, folds and pairs. -/

namespace Sys2Proof.Machine

/-- The queue stays and a canonical state stays canonical. -/
structure Keeps (s t : State) : Prop where
  queue : t.pending = s.pending
  canon : s.Canonical → t.Canonical

/-- `Keeps`, where there is a state. -/
def KeepsOpt (s : State) (o : Option State) : Prop := ∀ t, o = some t → Keeps s t
/-- `Keeps`, where there is a result. -/
def KeepsOpt2 {α : Type} (s : State) (o : Option (α × State)) : Prop := ∀ t, o = some t → Keeps s t.2
/-- `Keeps`, where the words could be fetched. -/
def KeepsExcept (s : State) (r : Except (Nat × Nat) (Word × Word × State)) : Prop :=
  ∀ x, r = .ok x → Keeps s x.2.2
/-- `Keeps`, of what an instruction answers. -/
def KeepsOut (s : State) : Out → Prop
  | .fault t _ _ => Keeps s t
  | .stall => True
  | .ok t _ => Keeps s t
/-- `Keeps`, of the meaning of an instruction. -/
def KeepsSem (m : Sem) : Prop := ∀ s c w0 w1 d, KeepsOut s (m s c w0 w1 d)
/-- `Keeps`, of what a command answers. -/
def KeepsOutcome (s : State) : Host.Outcome State Fault Refusal → Prop
  | .next t => Keeps s t
  | _ => True

theorem Keeps.refl (s : State) : Keeps s s := ⟨rfl, id⟩
theorem Keeps.via {s x t : State} (h : Keeps x t) (g : Keeps s x) : Keeps s t :=
  ⟨h.queue.trans g.queue, fun c => h.canon (g.canon c)⟩
theorem Keeps.ite {s a b : State} {c : Prop} [Decidable c] (h : Keeps s a) (g : Keeps s b) : Keeps s (if c then a else b) := by
  split <;> assumption
theorem Keeps.ite2 {α : Type} {s : State} {a b : α × State} {c : Prop} [Decidable c] (h : Keeps s a.2) (g : Keeps s b.2) :
    Keeps s (if c then a else b).2 := by
  split <;> assumption
theorem Keeps.ite1 {α : Type} {s : State} {a b : State × α} {c : Prop} [Decidable c] (h : Keeps s a.1) (g : Keeps s b.1) :
    Keeps s (if c then a else b).1 := by
  split <;> assumption
theorem Keeps.pair {α : Type} {s t : State} {a : α} (h : Keeps s t) : Keeps s (a, t).2 := h
theorem Keeps.getD {s x : State} {o : Option State} (h : KeepsOpt s o) (g : Keeps s x) : Keeps s (o.getD x) := by
  cases o with
  | none => exact g
  | some t => exact h t rfl
theorem Keeps.elim {α : Type} {s x : State} {o : Option α} {f : α → State} (g : Keeps s x) (h : ∀ a, o = some a → Keeps s (f a)) :
    Keeps s (o.elim x f) := by
  cases o with
  | none => exact g
  | some a => exact h a rfl
theorem Keeps.fold {α : Type} {f : State → α → State} {l : List α} {s x : State} (h : ∀ y a, Keeps y (f y a)) (g : Keeps s x) :
    Keeps s (l.foldl f x) := by
  induction l generalizing x with
  | nil => exact g
  | cons a l ih => exact ih ((h x a).via g)
theorem Keeps.fold1 {α β : Type} {f : State × β → α → State × β} {l : List α} {s : State} {x : State × β}
    (h : ∀ y a, Keeps y.1 (f y a).1) (g : Keeps s x.1) : Keeps s (l.foldl f x).1 := by
  induction l generalizing x with
  | nil => exact g
  | cons a l ih => exact ih ((h x a).via g)
theorem Keeps.fold2 {α β : Type} {f : β × State → α → β × State} {l : List α} {s : State} {x : β × State}
    (h : ∀ y a, Keeps y.2 (f y a).2) (g : Keeps s x.2) : Keeps s (l.foldl f x).2 := by
  induction l generalizing x with
  | nil => exact g
  | cons a l ih => exact ih ((h x a).via g)

theorem KeepsOpt.none (s : State) : KeepsOpt s none := fun _ h => nomatch h
theorem KeepsOpt.some {s t : State} (h : Keeps s t) : KeepsOpt s (some t) := fun _ e => by cases e; exact h
theorem KeepsOpt.get {s t : State} {o : Option State} (h : KeepsOpt s o) (e : o = .some t) : Keeps s t := h t e
theorem KeepsOpt.via {s x : State} {o : Option State} (h : KeepsOpt x o) (g : Keeps s x) : KeepsOpt s o :=
  fun t e => (h t e).via g
theorem KeepsOpt.ite {s : State} {a b : Option State} {c : Prop} [Decidable c] (h : KeepsOpt s a) (g : KeepsOpt s b) :
    KeepsOpt s (if c then a else b) := by
  split <;> assumption
theorem KeepsOpt.map {s : State} {o : Option State} {f : State → State} (h : KeepsOpt s o) (g : ∀ x, Keeps x (f x)) :
    KeepsOpt s (o.map f) := by
  cases o with
  | none => exact KeepsOpt.none s
  | some t => exact KeepsOpt.some ((g t).via (h t rfl))

theorem KeepsOpt2.none {α : Type} (s : State) : KeepsOpt2 (α := α) s none := fun _ h => nomatch h
theorem KeepsOpt2.some {α : Type} {s : State} {x : α × State} (h : Keeps s x.2) : KeepsOpt2 s (some x) :=
  fun _ e => by cases e; exact h
theorem KeepsOpt2.get {α : Type} {s : State} {x : α × State} {o : Option (α × State)} (h : KeepsOpt2 s o) (e : o = .some x) :
    Keeps s x.2 := h x e
theorem KeepsOpt2.via {α : Type} {s x : State} {o : Option (α × State)} (h : KeepsOpt2 x o) (g : Keeps s x) : KeepsOpt2 s o :=
  fun t e => (h t e).via g
theorem KeepsOpt2.ite {α : Type} {s : State} {a b : Option (α × State)} {c : Prop} [Decidable c] (h : KeepsOpt2 s a)
    (g : KeepsOpt2 s b) : KeepsOpt2 s (if c then a else b) := by
  split <;> assumption

theorem KeepsExcept.get {s : State} {r : Except (Nat × Nat) (Word × Word × State)} (h : KeepsExcept s r)
    {x : Word × Word × State} (e : r = .ok x) : Keeps s x.2.2 := h x e

theorem KeepsOut.via {s x : State} {o : Out} (h : KeepsOut x o) (g : Keeps s x) : KeepsOut s o := by
  cases o with
  | fault => exact Keeps.via h g
  | stall => trivial
  | ok => exact Keeps.via h g
theorem KeepsOut.fault {s t : State} {n : Nat} {a : Option Nat} (h : Keeps s t) : KeepsOut s (.fault t n a) := h
theorem KeepsOut.stall (s : State) : KeepsOut s .stall := trivial
theorem KeepsOut.ok {s t : State} {e : Eff} (h : Keeps s t) : KeepsOut s (.ok t e) := h
theorem KeepsOut.ite {s : State} {a b : Out} {c : Prop} [Decidable c] (h : KeepsOut s a) (g : KeepsOut s b) :
    KeepsOut s (if c then a else b) := by
  split <;> assumption
theorem KeepsSem.app {m : Sem} (h : KeepsSem m) {s x : State} {c : Nat} {w0 w1 : Word} {d : Bool} (g : Keeps s x) :
    KeepsOut s (m x c w0 w1 d) := (h x c w0 w1 d).via g

theorem KeepsOutcome.next {s t : State} (h : Keeps s t) : KeepsOutcome s (.next t) := h
theorem KeepsOutcome.ite {s : State} {a b : Host.Outcome State Fault Refusal} {c : Prop} [Decidable c]
    (h : KeepsOutcome s a) (g : KeepsOutcome s b) : KeepsOutcome s (if c then a else b) := by
  split <;> assumption

/-! A local value of an operation: what is shown of it once is all that is used of it. -/

theorem Keeps.hav {s t : State} (x : State) (h : Keeps s x) (g : Keeps s x → Keeps s t) : Keeps s t := g h
theorem Keeps.hav2 {α : Type} {s t : State} (x : α × State) (h : Keeps s x.2) (g : Keeps s x.2 → Keeps s t) : Keeps s t := g h
theorem Keeps.hav1 {α : Type} {s t : State} (x : State × α) (h : Keeps s x.1) (g : Keeps s x.1 → Keeps s t) : Keeps s t := g h
theorem KeepsOpt.hav {s : State} {o : Option State} (x : State) (h : Keeps s x) (g : Keeps s x → KeepsOpt s o) : KeepsOpt s o := g h
theorem KeepsOpt.hav2 {α : Type} {s : State} {o : Option State} (x : α × State) (h : Keeps s x.2) (g : Keeps s x.2 → KeepsOpt s o) :
    KeepsOpt s o := g h
theorem KeepsOpt2.hav {α : Type} {s : State} {o : Option (α × State)} (x : State) (h : Keeps s x)
    (g : Keeps s x → KeepsOpt2 s o) : KeepsOpt2 s o := g h
theorem KeepsOpt2.hav2 {α β : Type} {s : State} {o : Option (α × State)} (x : β × State) (h : Keeps s x.2)
    (g : Keeps s x.2 → KeepsOpt2 s o) : KeepsOpt2 s o := g h
theorem KeepsOut.hav {s : State} {o : Out} (x : State) (h : Keeps s x) (g : Keeps s x → KeepsOut s o) : KeepsOut s o := g h
theorem KeepsOut.hav2 {α : Type} {s : State} {o : Out} (x : α × State) (h : Keeps s x.2) (g : Keeps s x.2 → KeepsOut s o) :
    KeepsOut s o := g h
theorem KeepsOutcome.hav {s : State} {o : Host.Outcome State Fault Refusal} (x : State) (h : Keeps s x)
    (g : Keeps s x → KeepsOutcome s o) : KeepsOutcome s o := g h
theorem KeepsOutcome.hav2 {α : Type} {s : State} {o : Host.Outcome State Fault Refusal} (x : α × State) (h : Keeps s x.2)
    (g : Keeps s x.2 → KeepsOutcome s o) : KeepsOutcome s o := g h

/-- An update of the other fields. -/
theorem Keeps.upd_iff {s x : State}
    {now : Time} {rd : DWord} {freeCtr : Nat} {dev : DevSt} {time : TimeSt} {weir : WeirSt} {sess : SessSt}
    {bw : BwSt} {fbp : Vector FbpSt 48} {fbSel : Vector FbSelSt 64} {ax : Vector AxSt 64} {mig : MigSt}
    {core : Vector CoreSt 33} {ecc : List (Nat × Nat)} {sdm : Vector SdmSt 48} {aux : Vector AuxSt 2}
    {pwm : Vector PwmSt 48} {tins : Nat} {psp : Vector PspSt 48} {ws : Vector WsAx 64} {stp : Vector StepSt 64}
    {grp : Vector WsGrp 16} {sset : Vector StartSet 16} {wall : WallSt} {lat : LatchUnit} {hop : HopSt}
    {fi : Vector FiSt 32} {fo : Vector FoSt 32} {can : Vector CanSt 16} {eth : Vector EthPort 4}
    {race : Vector RaceSt 2} {red : RedSt} {pwr : PwrSt} {host : HostSt} {spi : SpiSt} {bist : BistSt} :
    Keeps s ⟨now, x.pending, x.regs, x.pages, x.mem, x.sels, rd, freeCtr, dev, time, weir, sess, bw, fbp, fbSel, ax, mig, core, ecc, sdm, aux, pwm, tins, psp, ws, stp, grp, sset, wall, lat, hop, fi, fo, can, eth, race, red, pwr, host, spi, bist⟩ ↔
      Keeps s x :=
  ⟨fun h => ⟨h.queue, fun c => have k := h.canon c; ⟨k.mem, k.regs, k.pages, k.sels⟩⟩,
   fun h => ⟨h.queue, fun c => have k := h.canon c; ⟨k.mem, k.regs, k.pages, k.sels⟩⟩⟩

end Sys2Proof.Machine
end

