-- ==== Sys2Proof/Laws/KeepsClock.lean ====
section
/-! SUPPORT. The operations of Machine/Clock.lean keep the queue and the canonical form (`Keeps`). -/

set_option linter.unusedTactic false
set_option linter.unreachableTactic false
set_option linter.unusedSimpArgs false

namespace Sys2Proof.Machine

theorem State.setRg_keeps (s : State) (a : Nat) (v : Word) :
    Keeps s (State.setRg s a v) := by
  exact ⟨rfl, fun c => ⟨c.mem, twf_tset resetWord _ _ _ c.regs, c.pages, c.sels⟩⟩
theorem State.irq_keeps (s : State) (b bits : Nat) :
    Keeps s (State.irq s b bits) := by
  exact ⟨rfl, fun c => ⟨c.mem, twf_tset resetWord _ _ _ c.regs, twf_tset (fun _ => ({} : PageSt)) _ _ _ c.pages, c.sels⟩⟩
theorem State.putFld_keeps (s : State) (a hi lo v : Nat) :
    Keeps s (State.putFld s a hi lo v) := by
  unfold State.putFld
  with_reducible repeat' first
    | exact .refl _ | refine (State.setRg_keeps _ _ _).via ?_
theorem State.count_keeps (s : State) (a hi lo n : Nat) :
    Keeps s (State.count s a hi lo n) := by
  unfold State.count
  with_reducible repeat' first
    | exact .refl _ | refine (State.putFld_keeps _ _ _ _ _).via ?_
theorem State.setRg64_keeps (s : State) (a v : Nat) :
    Keeps s (State.setRg64 s a v) := by
  unfold State.setRg64
  with_reducible repeat' first
    | exact .refl _ | refine (State.setRg_keeps _ _ _).via ?_
theorem State.putBit_keeps (s : State) (a i : Nat) (b : Bool) :
    Keeps s (State.putBit s a i b) := by
  unfold State.putBit
  with_reducible repeat' first
    | exact .refl _ | refine (State.putFld_keeps _ _ _ _ _).via ?_

end Sys2Proof.Machine
end

