-- ==== Sys2Proof/Laws/KeepsOps.lean ====
section
/-! SUPPORT. The operations of Machine/Ops.lean keep the queue and the canonical form (`Keeps`). -/

set_option linter.unusedTactic false
set_option linter.unreachableTactic false
set_option linter.unusedSimpArgs false

namespace Sys2Proof.Machine

theorem State.free_keeps (s : State) :
    Keeps s (State.free s).2 := by
  unfold State.free
  with_reducible repeat' first
    | simp only [Keeps.upd_iff] | exact .refl _ | dsimp only
theorem State.freeIn_keeps (s : State) (lo hi : Int) :
    Keeps s (State.freeIn s lo hi).2 := by
  unfold State.freeIn
  with_reducible repeat' first
    | exact .refl _ | refine (State.free_keeps _).via ?_ | dsimp only
theorem State.post_keeps (s : State) (src code : Nat) (stamp : Time) (payload : Nat) :
    Keeps s (State.post s src code stamp payload) := by
  unfold State.post
  with_reducible repeat' first
    | simp only [Keeps.upd_iff] | exact .refl _ | refine .ite ?_ ?_ | refine .ite2 ?_ ?_ | refine .ite1 ?_ ?_
    | refine (State.irq_keeps _ _ _).via ?_ | split | dsimp only
theorem State.postNow_keeps (s : State) (src code payload : Nat) :
    Keeps s (State.postNow s src code payload) := by
  unfold State.postNow
  with_reducible repeat' first
    | exact .refl _ | refine (State.post_keeps _ _ _ _ _).via ?_
theorem State.report_keeps (s : State) (code unit axes : Nat) (dev : Bool) (level : Nat) :
    Keeps s (State.report s code unit axes dev level) := by
  unfold State.report
  with_reducible repeat' first
    | simp only [Keeps.upd_iff] | assumption | exact .refl _ | dsimp only
theorem State.reportClear_keeps (s : State) (code unit : Nat) :
    Keeps s (State.reportClear s code unit) := by
  unfold State.reportClear
  with_reducible repeat' first
    | simp only [Keeps.upd_iff] | assumption | exact .refl _ | dsimp only
theorem State.setPage_keeps (s : State) (b : Nat) (f : PageSt → PageSt) :
    Keeps s (State.setPage s b f) := by
  exact ⟨rfl, fun c => ⟨c.mem, c.regs, twf_tset (fun _ => ({} : PageSt)) _ _ _ c.pages, c.sels⟩⟩
theorem State.setSel_keeps (s : State) (m : Master) (f : Selectors → Selectors) :
    Keeps s (State.setSel s m f) := by
  exact ⟨rfl, fun c => ⟨c.mem, c.regs, c.pages, twf_tset (fun _ => ({} : Selectors)) _ _ _ c.sels⟩⟩
theorem State.failInc_keeps (s : State) (b : Nat) :
    Keeps s (State.failInc s b) := by
  unfold State.failInc
  with_reducible repeat' first
    | exact .refl _ | refine (State.count_keeps _ _ _ _ _).via ?_
theorem State.pairErr_keeps (s : State) (b : Nat) :
    Keeps s (State.pairErr s b) := by
  unfold State.pairErr
  with_reducible repeat' first
    | exact .refl _ | refine (State.putBit_keeps _ _ _ _).via ?_
theorem State.abortSeq_keeps (s : State) (b : Nat) :
    Keeps s (State.abortSeq s b) := by
  unfold State.abortSeq
  with_reducible repeat' first
    | simp only [Keeps.upd_iff] | assumption | exact .refl _ | refine (State.failInc_keeps _ _).via ?_
    | refine (State.setPage_keeps _ _ _).via ?_ | intro _ | split | dsimp only
theorem State.onPage_keeps (s : State) (b : Nat) (k : State → State) (hk : ∀ x, Keeps x (k x)) :
    Keeps s (State.onPage s b k) := by
  unfold State.onPage
  with_reducible repeat' first
    | assumption | exact .refl _ | refine .ite ?_ ?_ | refine (hk _).via ?_ | refine (State.abortSeq_keeps _ _).via ?_
    | split
theorem State.cfgRefused_keeps (s : State) (b : Nat) :
    Keeps s (State.cfgRefused s b) := by
  unfold State.cfgRefused
  with_reducible repeat' first
    | exact .refl _ | refine (State.putBit_keeps _ _ _ _).via ?_
theorem State.cmdRefused_keeps (s : State) (b : Nat) :
    Keeps s (State.cmdRefused s b) := by
  unfold State.cmdRefused
  with_reducible repeat' first
    | exact .refl _ | refine (State.putBit_keeps _ _ _ _).via ?_
theorem State.logEntry_keeps (s : State) (b off special : Nat) (old new : Word) :
    Keeps s (State.logEntry s b off special old new) := by
  unfold State.logEntry
  with_reducible repeat' first
    | simp only [Keeps.upd_iff] | assumption | exact .refl _ | refine .ite ?_ ?_ | refine .getD ?_ ?_ | intro _
    | split | dsimp only
theorem State.logRefuse_keeps (s : State) (b : Nat) :
    Keeps s (State.logRefuse s b) := by
  unfold State.logRefuse
  with_reducible repeat' first
    | exact .refl _ | refine (State.postNow_keeps _ _ _ _).via ?_ | refine (State.irq_keeps _ _ _).via ?_
    | refine (State.failInc_keeps _ _).via ?_ | refine (State.putBit_keeps _ _ _ _).via ?_
theorem State.setRow_keeps (s : State) (r : RegRow) (a v : Nat) :
    Keeps s (State.setRow s r a v) := by
  unfold State.setRow
  with_reducible repeat' first
    | exact .refl _ | refine .ite ?_ ?_ | refine (State.setRg64_keeps _ _ _).via ?_
    | refine (State.setRg_keeps _ _ _).via ?_ | split
theorem State.stage_keeps (s : State) (pg : Nat) (r : RegRow) (a v : Nat) :
    Keeps s (State.stage s pg r a v) := by
  unfold State.stage
  with_reducible repeat' first
    | simp only [Keeps.upd_iff] | assumption | exact .refl _ | refine .ite ?_ ?_
    | refine (State.setPage_keeps _ _ _).via ?_ | intro _ | split | dsimp only
theorem State.writeRow_keeps (s : State) (m : Master) (pg a : Nat) (r : RegRow) (v : Nat) :
    Keeps s (State.writeRow s m pg a r v) := by
  unfold State.writeRow
  with_reducible repeat' first
    | simp only [Keeps.upd_iff] | assumption | exact .refl _ | refine .ite ?_ ?_
    | refine (State.setPage_keeps _ _ _).via ?_ | refine (State.failInc_keeps _ _).via ?_
    | refine (State.logEntry_keeps _ _ _ _ _ _).via ?_ | refine (State.logRefuse_keeps _ _).via ?_
    | refine (State.setRow_keeps _ _ _ _).via ?_ | refine (State.stage_keeps _ _ _ _ _).via ?_ | intro _ | split
    | dsimp only
theorem State.writeReg_keeps (s : State) (m : Master) (pg a v : Nat) :
    Keeps s (State.writeReg s m pg a v) := by
  unfold State.writeReg
  with_reducible repeat' first
    | simp only [Keeps.upd_iff] | assumption | exact .refl _ | refine (State.writeRow_keeps _ _ _ _ _ _).via ?_
    | intro _ | split
theorem State.mapErr_keeps (s : State) (m : Master) (a bitNo : Nat) :
    Keeps s (State.mapErr s m a bitNo) := by
  unfold State.mapErr
  with_reducible repeat' first
    | exact .refl _ | refine (State.setRg_keeps _ _ _).via ?_ | refine (State.putFld_keeps _ _ _ _ _).via ?_
    | refine (State.putBit_keeps _ _ _ _).via ?_
theorem State.stw_keeps (s : State) (a : Nat) (w : Word) :
    Keeps s (State.stw s a w) := by
  exact ⟨rfl, fun c => ⟨Memory.wf_writeN _ _ _ _ c.mem, c.regs, c.pages, c.sels⟩⟩
theorem State.releaseStaged_keeps (s : State) (pg : Nat) (tc : Time) :
    Keeps s (State.releaseStaged s pg tc) := by
  unfold State.releaseStaged
  with_reducible repeat' first
    | simp only [Keeps.upd_iff] | assumption | exact .refl _ | refine (State.setRg_keeps _ _ _).via ?_
    | refine (State.setPage_keeps _ _ _).via ?_ | refine .fold (fun _ _ => ?_) ?_ | intro _ | dsimp only

end Sys2Proof.Machine
end

