-- ==== Sys2Proof/Laws/KeepsCanQueue.lean ====
section
/-! SUPPORT. The operations of Machine/CanQueue.lean keep the queue and the canonical form (`Keeps`). -/

set_option linter.unusedTactic false
set_option linter.unreachableTactic false
set_option linter.unusedSimpArgs false

namespace Sys2Proof.Machine

theorem State.setCan_keeps (s : State) (n : Nat) (f : CanSt → CanSt) :
    Keeps s (State.setCan s n f) := by
  unfold State.setCan
  with_reducible repeat' first
    | simp only [Keeps.upd_iff] | assumption | exact .refl _ | dsimp only
theorem State.canLevel_keeps (s : State) (n q : Nat) :
    Keeps s (State.canLevel s n q) := by
  unfold State.canLevel
  with_reducible repeat' first
    | assumption | exact .refl _ | refine (State.setRg_keeps _ _ _).via ?_ | dsimp only
theorem State.canStore_keeps (s : State) (n : Nat) (x : CanLate) :
    Keeps s (State.canStore s n x) := by
  unfold State.canStore
  with_reducible repeat' first
    | simp only [Keeps.upd_iff] | assumption | exact .refl _ | refine .ite ?_ ?_
    | refine (State.setCan_keeps _ _ _).via ?_ | refine (State.canLevel_keeps _ _ _).via ?_
    | refine (State.irq_keeps _ _ _).via ?_ | refine (State.post_keeps _ _ _ _ _).via ?_ | intro _ | split
    | dsimp only
theorem State.canLose_keeps (s : State) (n : Nat) (x : CanLate) :
    Keeps s (State.canLose s n x) := by
  unfold State.canLose
  with_reducible repeat' first
    | simp only [Keeps.upd_iff] | assumption | exact .refl _ | refine (State.setCan_keeps _ _ _).via ?_
    | refine (State.count_keeps _ _ _ _ _).via ?_ | refine (State.irq_keeps _ _ _).via ?_
    | refine (State.post_keeps _ _ _ _ _).via ?_ | intro _ | dsimp only
theorem State.canSettle_keeps (s : State) (t : Time) :
    Keeps s (State.canSettle s t) := by
  unfold State.canSettle
  with_reducible repeat' first
    | simp only [Keeps.upd_iff] | assumption | exact .refl _ | refine .ite ?_ ?_
    | refine (State.canLose_keeps _ _ _).via ?_ | refine .fold (fun _ _ => ?_) ?_ | intro _ | split | dsimp only
theorem State.canRoom_keeps (s : State) (n q : Nat) :
    Keeps s (State.canRoom s n q) := by
  unfold State.canRoom
  with_reducible repeat' first
    | simp only [Keeps.upd_iff] | assumption | exact .refl _ | refine .ite ?_ ?_
    | refine (State.setCan_keeps _ _ _).via ?_ | refine (State.canStore_keeps _ _ _).via ?_ | intro _ | split
    | dsimp only

end Sys2Proof.Machine
end

