-- ==== Sys2Proof/Laws/KeepsMsix.lean ====
section
/-! SUPPORT. The operations of Machine/Msix.lean keep the queue and the canonical form (`Keeps`). -/

set_option linter.unusedTactic false
set_option linter.unreachableTactic false
set_option linter.unusedSimpArgs false

namespace Sys2Proof.Machine

theorem State.setHost_keeps (s : State) (f : HostSt → HostSt) :
    Keeps s (State.setHost s f) := by
  unfold State.setHost
  with_reducible repeat' first
    | simp only [Keeps.upd_iff] | exact .refl _
theorem State.hostWrite_keeps (s : State) (a : Nat) (b : List Byte) :
    Keeps s (State.hostWrite s a b) := by
  exact Keeps.fold (fun _ _ => ⟨rfl, fun c => ⟨Memory.wf_write _ _ _ c.mem, c.regs, c.pages, c.sels⟩⟩) (.refl _)
theorem State.hostWords_keeps (s : State) (a : Nat) (ws : List Word) :
    Keeps s (State.hostWords s a ws) := by
  unfold State.hostWords
  with_reducible repeat' first
    | assumption | exact .refl _ | refine (State.hostWrite_keeps _ _ _).via ?_ | intro _ | dsimp only
theorem State.msiSend_keeps (s : State) (v : Nat) :
    Keeps s (State.msiSend s v) := by
  unfold State.msiSend
  with_reducible repeat' first
    | simp only [Keeps.upd_iff] | assumption | exact .refl _ | refine .ite ?_ ?_
    | refine (State.setHost_keeps _ _).via ?_ | refine (State.hostWords_keeps _ _ _).via ?_ | intro _ | split
    | dsimp only
theorem State.msiEntry_keeps (s : State) (v : Nat) :
    Keeps s (State.msiEntry s v) := by
  unfold State.msiEntry
  with_reducible repeat' first
    | simp only [Keeps.upd_iff] | assumption | exact .refl _ | refine .ite ?_ ?_
    | refine (State.setHost_keeps _ _).via ?_ | refine (State.msiSend_keeps _ _).via ?_ | intro _ | split | dsimp only
theorem State.coalLapse_keeps (s : State) (t : Time) :
    Keeps s (State.coalLapse s t) := by
  unfold State.coalLapse
  with_reducible repeat' first
    | simp only [Keeps.upd_iff] | assumption | exact .refl _ | refine .ite ?_ ?_ | refine .ite2 ?_ ?_
    | refine .ite1 ?_ ?_ | refine (State.setHost_keeps _ _).via ?_ | refine (State.msiSend_keeps _ _).via ?_
    | refine .fold (fun _ _ => ?_) ?_ | refine .fold1 (fun _ _ => ?_) ?_ | refine .fold2 (fun _ _ => ?_) ?_ | intro _
    | split | dsimp only
theorem State.vecEval_keeps (s : State) :
    Keeps s (State.vecEval s) := by
  unfold State.vecEval
  with_reducible repeat' first
    | simp only [Keeps.upd_iff] | assumption | exact .refl _ | refine .ite ?_ ?_
    | refine (State.setHost_keeps _ _).via ?_ | refine (State.msiEntry_keeps _ _).via ?_
    | refine (State.msiSend_keeps _ _).via ?_ | refine .fold (fun _ _ => ?_) ?_ | intro _ | split | dsimp only

end Sys2Proof.Machine
end

