-- ==== Sys2Proof/Laws/KeepsHostTag.lean ====
section
/-! SUPPORT. The operations of Machine/HostTag.lean keep the queue and the canonical form (`Keeps`). -/

set_option linter.unusedTactic false
set_option linter.unreachableTactic false
set_option linter.unusedSimpArgs false

namespace Sys2Proof.Machine

theorem State.setTag_keeps (s : State) (i : Nat) (x : Tag) :
    Keeps s (State.setTag s i x) := by
  unfold State.setTag
  with_reducible repeat' first
    | simp only [Keeps.upd_iff] | assumption | exact .refl _ | refine (State.setHost_keeps _ _).via ?_ | intro _
    | dsimp only
theorem State.postCq_keeps (s : State) (r tag status bytes : Nat) (data : Option DWord) (own : Option Nat) :
    Keeps s (State.postCq s r tag status bytes data own) := by
  unfold State.postCq
  with_reducible repeat' first
    | simp only [Keeps.upd_iff] | assumption | exact .refl _ | refine .ite ?_ ?_
    | refine (State.setRg_keeps _ _ _).via ?_ | refine (State.setHost_keeps _ _).via ?_
    | refine (State.hostWords_keeps _ _ _).via ?_ | refine (State.msiEntry_keeps _ _).via ?_ | intro _ | split
    | dsimp only
theorem State.postOwn_keeps (s : State) (c : HostCmd) (e : CmdEnd) :
    Keeps s (State.postOwn s c e) := by
  unfold State.postOwn
  with_reducible repeat' first
    | simp only [Keeps.upd_iff] | assumption | exact .refl _ | refine (State.setTag_keeps _ _ _).via ?_
    | refine (State.postCq_keeps _ _ _ _ _ _ _).via ?_ | refine .getD ?_ ?_ | dsimp only
theorem State.postReject_keeps (s : State) (r w status : Nat) :
    Keeps s (State.postReject s r w status) := by
  unfold State.postReject
  with_reducible repeat' first
    | assumption | exact .refl _ | refine (State.count_keeps _ _ _ _ _).via ?_ | refine (State.irq_keeps _ _ _).via ?_
    | refine (State.postCq_keeps _ _ _ _ _ _ _).via ?_ | dsimp only
theorem State.judgeDesc_keeps (s : State) (r : Nat) (d : List Word) :
    Keeps s (State.judgeDesc s r d) := by
  unfold State.judgeDesc
  with_reducible repeat' first
    | simp only [Keeps.upd_iff] | assumption | exact .refl _ | refine .ite ?_ ?_
    | refine (State.setTag_keeps _ _ _).via ?_ | refine (State.postReject_keeps _ _ _ _).via ?_
    | refine (State.setHost_keeps _ _).via ?_ | refine .getD ?_ ?_ | intro _ | split | dsimp only
theorem State.lateDesc_keeps (s : State) :
    Keeps s (State.lateDesc s) := by
  unfold State.lateDesc
  with_reducible repeat' first
    | simp only [Keeps.upd_iff] | assumption | exact .refl _ | refine (State.judgeDesc_keeps _ _ _).via ?_
    | refine (State.setHost_keeps _ _).via ?_ | intro _ | split | dsimp only
theorem State.dropCmd_keeps (s : State) (i : Nat) :
    Keeps s (State.dropCmd s i) := by
  unfold State.dropCmd
  with_reducible repeat' first
    | simp only [Keeps.upd_iff] | assumption | exact .refl _ | refine (State.setHost_keeps _ _).via ?_ | intro _
    | dsimp only
theorem State.setCmd_keeps (s : State) (i : Nat) (f : HostCmd → HostCmd) :
    Keeps s (State.setCmd s i f) := by
  unfold State.setCmd
  with_reducible repeat' first
    | simp only [Keeps.upd_iff] | assumption | exact .refl _ | refine .ite ?_ ?_
    | refine (State.setHost_keeps _ _).via ?_ | intro _ | split | dsimp only
theorem State.postAborted_keeps (s : State) (r w bytes : Nat) :
    Keeps s (State.postAborted s r w bytes) := by
  unfold State.postAborted
  with_reducible repeat' first
    | simp only [Keeps.upd_iff] | assumption | exact .refl _ | refine .ite ?_ ?_
    | refine (State.postCq_keeps _ _ _ _ _ _ _).via ?_ | refine (State.setHost_keeps _ _).via ?_ | intro _ | split
    | dsimp only
theorem State.abortRefuse_keeps (s : State) :
    Keeps s (State.abortRefuse s) := by
  unfold State.abortRefuse
  with_reducible repeat' first
    | assumption | exact .refl _ | refine (State.putBit_keeps _ _ _ _).via ?_ | refine (State.irq_keeps _ _ _).via ?_
    | dsimp only
theorem State.abortJudge_keeps (s : State) (w : Nat) :
    Keeps s (State.abortJudge s w) := by
  unfold State.abortJudge
  with_reducible repeat' first
    | simp only [Keeps.upd_iff] | assumption | exact .refl _ | refine .ite ?_ ?_
    | refine (State.putBit_keeps _ _ _ _).via ?_ | refine (State.count_keeps _ _ _ _ _).via ?_
    | refine (State.irq_keeps _ _ _).via ?_ | refine (State.setTag_keeps _ _ _).via ?_
    | refine (State.dropCmd_keeps _ _).via ?_ | refine (State.setCmd_keeps _ _ _).via ?_
    | refine (State.postAborted_keeps _ _ _ _).via ?_ | refine (State.abortRefuse_keeps _).via ?_ | refine .getD ?_ ?_
    | intro _ | split | dsimp only
theorem State.lateAborts_keeps (s : State) :
    Keeps s (State.lateAborts s) := by
  unfold State.lateAborts
  with_reducible repeat' first
    | simp only [Keeps.upd_iff] | assumption | exact .refl _ | refine (State.abortJudge_keeps _ _).via ?_
    | refine (State.setHost_keeps _ _).via ?_ | refine .fold (fun _ _ => ?_) ?_ | refine .fold2 (fun _ _ => ?_) ?_
    | intro _ | dsimp only
theorem State.hostSettle_keeps (s : State) (t : Time) :
    Keeps s (State.hostSettle s t) := by
  unfold State.hostSettle
  with_reducible repeat' first
    | simp only [Keeps.upd_iff] | assumption | exact .refl _ | refine .ite ?_ ?_ | refine .ite1 ?_ ?_
    | refine (State.lateDesc_keeps _).via ?_ | refine (State.lateAborts_keeps _).via ?_ | intro _ | split | dsimp only

end Sys2Proof.Machine
end

