-- ==== Sys2Proof/Laws/KeepsLapse.lean ====
section
/-! SUPPORT. The operations of Machine/Lapse.lean keep the queue and the canonical form (`Keeps`). -/

set_option linter.unusedTactic false
set_option linter.unreachableTactic false
set_option linter.unusedSimpArgs false

namespace Sys2Proof.Machine

theorem State.setPort_keeps (s : State) (n : Nat) (f : EthPort → EthPort) :
    Keeps s (State.setPort s n f) := by
  unfold State.setPort
  with_reducible repeat' first
    | simp only [Keeps.upd_iff] | assumption | exact .refl _ | dsimp only
theorem State.ethLapse_keeps (s : State) (n : Nat) (t : Time) :
    Keeps s (State.ethLapse s n t) := by
  unfold State.ethLapse
  with_reducible repeat' first
    | simp only [Keeps.upd_iff] | assumption | exact .refl _ | refine .ite ?_ ?_
    | refine (State.putBit_keeps _ _ _ _).via ?_ | refine (State.irq_keeps _ _ _).via ?_
    | refine (State.setPort_keeps _ _ _).via ?_ | refine (State.post_keeps _ _ _ _ _).via ?_ | intro _ | split
    | dsimp only
theorem State.brakeLapse_keeps (s : State) (t : Time) :
    Keeps s (State.brakeLapse s t) := by
  unfold State.brakeLapse
  with_reducible repeat' first
    | assumption | exact .refl _ | refine .ite ?_ ?_ | refine (State.putBit_keeps _ _ _ _).via ?_ | intro _ | split
    | dsimp only
theorem State.lapse_keeps (s : State) (t : Time) :
    Keeps s (State.lapse s t) := by
  unfold State.lapse
  with_reducible repeat' first
    | assumption | exact .refl _ | refine (State.canSettle_keeps _ _).via ?_
    | refine (State.hostSettle_keeps _ _).via ?_ | refine (State.ethLapse_keeps _ _ _).via ?_
    | refine (State.brakeLapse_keeps _ _).via ?_ | refine (State.coalLapse_keeps _ _).via ?_
    | refine .fold (fun _ _ => ?_) ?_ | intro _ | dsimp only

end Sys2Proof.Machine
end

