-- ==== Sys2Proof/Laws/KeepsHopper.lean ====
section
/-! SUPPORT. The operations of Machine/Hopper.lean keep the queue and the canonical form (`Keeps`). -/

set_option linter.unusedTactic false
set_option linter.unreachableTactic false
set_option linter.unusedSimpArgs false

namespace Sys2Proof.Machine

theorem State.setHopState_keeps (s : State) (v : Nat) :
    Keeps s (State.setHopState s v) := by
  unfold State.setHopState
  with_reducible repeat' first
    | exact .refl _ | refine (State.putFld_keeps _ _ _ _ _).via ?_
theorem State.setHop_keeps (s : State) (f : HopSt → HopSt) :
    Keeps s (State.setHop s f) := by
  unfold State.setHop
  with_reducible repeat' first
    | simp only [Keeps.upd_iff] | exact .refl _
theorem State.hopPost_keeps (s : State) (code : Nat) (stamp : Time) (payload : Nat) :
    Keeps s (State.hopPost s code stamp payload) := by
  unfold State.hopPost
  with_reducible repeat' first
    | exact .refl _ | refine (State.post_keeps _ _ _ _ _).via ?_ | refine (State.irq_keeps _ _ _).via ?_
theorem State.hopCount_keeps (s : State) (a n : Nat) :
    Keeps s (State.hopCount s a n) := by
  unfold State.hopCount
  with_reducible repeat' first
    | exact .refl _ | refine (State.count_keeps _ _ _ _ _).via ?_
theorem State.hopStw_keeps (s : State) (a : Nat) (w : Word) :
    Keeps s (State.hopStw s a w) := by
  unfold State.hopStw
  with_reducible repeat' first
    | simp only [Keeps.upd_iff] | assumption | exact .refl _ | refine (State.setHop_keeps _ _).via ?_
    | refine (State.stw_keeps _ _ _).via ?_ | intro _ | dsimp only
theorem State.probeStamp_keeps (s : State) (bit_ : Nat) (stamp : Time) :
    Keeps s (State.probeStamp s bit_ stamp) := by
  unfold State.probeStamp
  with_reducible repeat' first
    | simp only [Keeps.upd_iff] | assumption | exact .refl _ | refine .ite ?_ ?_
    | refine (State.setHop_keeps _ _).via ?_ | intro _ | split | dsimp only
theorem State.hopProbe_keeps (s : State) :
    Keeps s (State.hopProbe s) := by
  unfold State.hopProbe
  with_reducible repeat' first
    | simp only [Keeps.upd_iff] | assumption | exact .refl _ | refine (State.setHop_keeps _ _).via ?_ | intro _
    | split | dsimp only
theorem State.probePulse_keeps (s : State) (bit_ : Nat) (stamp : Time) :
    Keeps s (State.probePulse s bit_ stamp) := by
  unfold State.probePulse
  with_reducible repeat' first
    | simp only [Keeps.upd_iff] | assumption | exact .refl _ | refine .ite ?_ ?_
    | refine (State.setHop_keeps _ _).via ?_ | intro _ | split | dsimp only
theorem State.hopRecord_keeps (s : State) (src code : Nat) (stamp : Time) :
    Keeps s (State.hopRecord s src code stamp) := by
  unfold State.hopRecord
  with_reducible repeat' first
    | assumption | exact .refl _ | refine .ite ?_ ?_ | refine (State.probePulse_keeps _ _ _).via ?_
    | refine .fold (fun _ _ => ?_) ?_ | intro _ | split | dsimp only
theorem State.hopHeld_keeps (s : State) (a : Nat) (tc : Time) :
    Keeps s (State.hopHeld s a tc) := by
  unfold State.hopHeld
  with_reducible repeat' first
    | assumption | exact .refl _ | refine .ite ?_ ?_ | refine (State.probePulse_keeps _ _ _).via ?_
    | refine .fold (fun _ _ => ?_) ?_ | intro _ | split | dsimp only
theorem State.thValue_keeps (s : State) (c : Nat) (v : Word) (stamp : Time) :
    Keeps s (State.thValue s c v stamp) := by
  unfold State.thValue
  with_reducible repeat' first
    | simp only [Keeps.upd_iff] | assumption | exact .refl _ | refine .ite ?_ ?_
    | refine (State.setHop_keeps _ _).via ?_ | refine (State.probeStamp_keeps _ _ _).via ?_
    | refine (State.hopProbe_keeps _).via ?_ | refine .fold (fun _ _ => ?_) ?_ | intro _ | split | dsimp only
theorem State.hopNode_keeps (s : State) (kind idx : Nat) (v : Word) (stamp : Time) :
    Keeps s (State.hopNode s kind idx v stamp) := by
  unfold State.hopNode
  with_reducible repeat' first
    | simp only [Keeps.upd_iff] | assumption | exact .refl _ | refine .ite ?_ ?_
    | refine (State.thValue_keeps _ _ _ _).via ?_ | refine (State.setHop_keeps _ _).via ?_
    | refine .fold (fun _ _ => ?_) ?_ | intro _ | split | dsimp only
theorem State.showPend_keeps (s : State) :
    Keeps s (State.showPend s) := by
  unfold State.showPend
  with_reducible repeat' first
    | exact .refl _ | refine (State.setRg_keeps _ _ _).via ?_
theorem State.captureIn_keeps (s : State) (i : Nat) :
    Keeps s (State.captureIn s i) := by
  unfold State.captureIn
  with_reducible repeat' first
    | simp only [Keeps.upd_iff] | assumption | exact .refl _ | refine (State.setRg_keeps _ _ _).via ?_
    | refine (State.setHopState_keeps _ _).via ?_ | refine (State.setHop_keeps _ _).via ?_ | intro _ | dsimp only
theorem State.enterFull_keeps (s : State) :
    Keeps s (State.enterFull s) := by
  unfold State.enterFull
  with_reducible repeat' first
    | simp only [Keeps.upd_iff] | assumption | exact .refl _ | refine .ite ?_ ?_
    | refine (State.hopPost_keeps _ _ _ _).via ?_ | refine (State.setHop_keeps _ _).via ?_ | intro _ | split
    | dsimp only
theorem State.hopOver_keeps (s : State) :
    Keeps s (State.hopOver s) := by
  unfold State.hopOver
  with_reducible repeat' first
    | simp only [Keeps.upd_iff] | assumption | exact .refl _ | refine .ite ?_ ?_
    | refine (State.putFld_keeps _ _ _ _ _).via ?_ | refine (State.setHopState_keeps _ _).via ?_
    | refine (State.setHop_keeps _ _).via ?_ | refine (State.hopPost_keeps _ _ _ _).via ?_
    | refine (State.hopCount_keeps _ _ _).via ?_ | refine (State.showPend_keeps _).via ?_
    | refine (State.captureIn_keeps _ _).via ?_ | refine (State.enterFull_keeps _).via ?_ | refine .getD ?_ ?_
    | intro _ | split | dsimp only
theorem State.hopStart_keeps (s : State) :
    Keeps s (State.hopStart s) := by
  unfold State.hopStart
  with_reducible repeat' first
    | simp only [Keeps.upd_iff] | assumption | exact .refl _ | refine .ite ?_ ?_
    | refine (State.setHopState_keeps _ _).via ?_ | refine (State.setHop_keeps _ _).via ?_
    | refine (State.captureIn_keeps _ _).via ?_ | intro _ | split | dsimp only
theorem State.segDone_keeps (s : State) (trunc : Bool) :
    Keeps s (State.segDone s trunc) := by
  unfold State.segDone
  with_reducible repeat' first
    | simp only [Keeps.upd_iff] | assumption | exact .refl _ | refine .ite ?_ ?_
    | refine (State.setRg_keeps _ _ _).via ?_ | refine (State.setHopState_keeps _ _).via ?_
    | refine (State.setHop_keeps _ _).via ?_ | refine (State.hopPost_keeps _ _ _ _).via ?_
    | refine (State.hopStw_keeps _ _ _).via ?_ | refine (State.showPend_keeps _).via ?_ | refine .getD ?_ ?_
    | refine .fold (fun _ _ => ?_) ?_ | intro _ | split | dsimp only
theorem State.hopLost_keeps (s : State) (e : Time) (n : Nat) :
    Keeps s (State.hopLost s e n) := by
  unfold State.hopLost
  with_reducible repeat' first
    | assumption | exact .refl _ | refine (State.hopPost_keeps _ _ _ _).via ?_
    | refine (State.hopCount_keeps _ _ _).via ?_ | refine .fold (fun _ _ => ?_) ?_ | intro _ | dsimp only
theorem State.hopTrigger_keeps (s : State) (causes : Nat) (stamp e : Time) :
    Keeps s (State.hopTrigger s causes stamp e) := by
  unfold State.hopTrigger
  with_reducible repeat' first
    | simp only [Keeps.upd_iff] | assumption | exact .refl _ | refine .ite ?_ ?_
    | refine (State.setHopState_keeps _ _).via ?_ | refine (State.setHop_keeps _ _).via ?_
    | refine (State.hopPost_keeps _ _ _ _).via ?_ | refine (State.hopCount_keeps _ _ _).via ?_
    | refine (State.segDone_keeps _ _).via ?_ | refine (State.hopLost_keeps _ _ _).via ?_ | intro _ | split
    | dsimp only
theorem State.hopAgain_keeps (s : State) (e : Time) (n : Nat) :
    Keeps s (State.hopAgain s e n) := by
  unfold State.hopAgain
  with_reducible repeat' first
    | simp only [Keeps.upd_iff] | assumption | exact .refl _ | refine (State.hopCount_keeps _ _ _).via ?_
    | refine (State.setHop_keeps _ _).via ?_ | refine (State.hopLost_keeps _ _ _).via ?_ | intro _ | split
    | dsimp only
theorem State.hopEntry_keeps (s : State) (w3 : Nat) (v : Word) (stamp : Time) :
    Keeps s (State.hopEntry s w3 v stamp) := by
  unfold State.hopEntry
  with_reducible repeat' first
    | simp only [Keeps.upd_iff] | assumption | exact .refl _ | refine .ite ?_ ?_
    | refine (State.hopStw_keeps _ _ _).via ?_ | refine (State.setHop_keeps _ _).via ?_
    | refine (State.putBit_keeps _ _ _ _).via ?_ | refine (State.segDone_keeps _ _).via ?_ | intro _ | split
    | dsimp only
theorem State.hopAccept_keeps (s : State) :
    Keeps s (State.hopAccept s) := by
  unfold State.hopAccept
  with_reducible repeat' first
    | simp only [Keeps.upd_iff] | assumption | exact .refl _ | refine .ite ?_ ?_
    | refine (State.setHop_keeps _ _).via ?_ | refine (State.hopCount_keeps _ _ _).via ?_
    | refine (State.hopEntry_keeps _ _ _ _).via ?_ | refine .fold (fun _ _ => ?_) ?_ | intro _ | split | dsimp only
theorem State.hopJudge_keeps (s : State) (e : Time) (v : Nat) :
    Keeps s (State.hopJudge s e v) := by
  unfold State.hopJudge
  with_reducible repeat' first
    | simp only [Keeps.upd_iff] | assumption | exact .refl _ | refine .ite ?_ ?_
    | refine (State.setHop_keeps _ _).via ?_ | refine (State.hopTrigger_keeps _ _ _ _).via ?_
    | refine .fold (fun _ _ => ?_) ?_ | intro _ | split | dsimp only
theorem State.hopSteady_keeps (s : State) (e : Time) (k : Nat) :
    Keeps s (State.hopSteady s e k) := by
  unfold State.hopSteady
  with_reducible repeat' first
    | simp only [Keeps.upd_iff] | assumption | exact .refl _ | refine .ite ?_ ?_
    | refine (State.setHop_keeps _ _).via ?_ | refine (State.hopAgain_keeps _ _ _).via ?_
    | refine (State.hopTrigger_keeps _ _ _ _).via ?_ | intro _ | split | dsimp only
theorem State.hopSlots_keeps (s0 : State) :
    Keeps s0 (State.hopSlots s0) := by
  unfold State.hopSlots
  with_reducible repeat' first
    | simp only [Keeps.upd_iff] | assumption | exact .refl _ | refine .ite ?_ ?_
    | refine (State.setHop_keeps _ _).via ?_ | refine (State.hopNode_keeps _ _ _ _ _).via ?_
    | refine .fold (fun _ _ => ?_) ?_ | intro _ | split | dsimp only
theorem State.hopNote_keeps (s : State) :
    Keeps s (State.hopNote s) := by
  unfold State.hopNote
  with_reducible repeat' first
    | assumption | exact .refl _ | refine (State.hopProbe_keeps _).via ?_ | refine (State.hopSlots_keeps _).via ?_
    | dsimp only
theorem State.hopEnable_keeps (s : State) :
    Keeps s (State.hopEnable s) := by
  unfold State.hopEnable
  with_reducible repeat' first
    | simp only [Keeps.upd_iff] | assumption | exact .refl _ | refine (State.setHop_keeps _ _).via ?_
    | refine .fold (fun _ _ => ?_) ?_ | intro _ | split | dsimp only
theorem State.hopLate_keeps (s : State) :
    Keeps s (State.hopLate s) := by
  unfold State.hopLate
  with_reducible repeat' first
    | simp only [Keeps.upd_iff] | assumption | exact .refl _ | refine (State.setHop_keeps _ _).via ?_ | intro _
    | dsimp only
theorem State.hopMtDue_keeps (s : State) (e : Time) :
    Keeps s (State.hopMtDue s e) := by
  unfold State.hopMtDue
  with_reducible repeat' first
    | simp only [Keeps.upd_iff] | assumption | exact .refl _ | refine .ite ?_ ?_
    | refine (State.setHop_keeps _ _).via ?_ | refine (State.post_keeps _ _ _ _ _).via ?_ | intro _ | split
    | dsimp only
theorem State.hopEdge_keeps (s : State) (e : Time) :
    Keeps s (State.hopEdge s e) := by
  unfold State.hopEdge
  with_reducible repeat' first
    | simp only [Keeps.upd_iff] | assumption | exact .refl _ | refine .ite ?_ ?_ | refine .ite1 ?_ ?_
    | refine (State.setHop_keeps _ _).via ?_ | refine (State.hopProbe_keeps _).via ?_
    | refine (State.hopOver_keeps _).via ?_ | refine (State.hopAccept_keeps _).via ?_
    | refine (State.hopJudge_keeps _ _ _).via ?_ | refine (State.hopLate_keeps _).via ?_
    | refine (State.hopMtDue_keeps _ _).via ?_ | intro _ | split | dsimp only
theorem State.hopSettle_keeps (s : State) (t : Time) :
    Keeps s (State.hopSettle s t) := by
  unfold State.hopSettle
  with_reducible repeat' first
    | assumption | exact .refl _ | refine .ite ?_ ?_ | refine (State.hopSteady_keeps _ _ _).via ?_
    | refine (State.hopNote_keeps _).via ?_ | refine (State.hopEdge_keeps _ _).via ?_ | split | dsimp only
theorem State.tick_keeps (s : State) (t : Time) :
    Keeps s (State.tick s t) := by
  unfold State.tick
  with_reducible repeat' first
    | simp only [Keeps.upd_iff] | assumption | exact .refl _ | refine (State.hopSettle_keeps _ _).via ?_
    | refine (State.lapse_keeps _ _).via ?_ | refine (State.vecEval_keeps _).via ?_ | dsimp only
theorem State.hopRefuse_keeps (s : State) (reason : Nat) :
    Keeps s (State.hopRefuse s reason) := by
  unfold State.hopRefuse
  with_reducible repeat' first
    | exact .refl _ | refine (State.cmdRefused_keeps _ _).via ?_ | refine (State.putFld_keeps _ _ _ _ _).via ?_
theorem State.hopArm_keeps (s : State) :
    Keeps s (State.hopArm s) := by
  unfold State.hopArm
  with_reducible repeat' first
    | simp only [Keeps.upd_iff] | assumption | exact .refl _ | refine .ite ?_ ?_
    | refine (State.setHop_keeps _ _).via ?_ | refine (State.hopStart_keeps _).via ?_
    | refine (State.hopRefuse_keeps _ _).via ?_ | intro _ | split | dsimp only
theorem State.hopDisarm_keeps (s : State) :
    Keeps s (State.hopDisarm s) := by
  unfold State.hopDisarm
  with_reducible repeat' first
    | simp only [Keeps.upd_iff] | assumption | exact .refl _ | refine .ite ?_ ?_
    | refine (State.setHopState_keeps _ _).via ?_ | refine (State.setHop_keeps _ _).via ?_
    | refine (State.segDone_keeps _ _).via ?_ | intro _ | split | dsimp only
theorem State.hopDue_keeps (s : State) (cause : Nat) :
    Keeps s (State.hopDue s cause) := by
  unfold State.hopDue
  with_reducible repeat' first
    | simp only [Keeps.upd_iff] | assumption | exact .refl _ | refine (State.setHop_keeps _ _).via ?_ | intro _
    | dsimp only
theorem State.hopForce_keeps (s : State) :
    Keeps s (State.hopForce s) := by
  unfold State.hopForce
  with_reducible repeat' first
    | exact .refl _ | refine (State.hopDue_keeps _ _).via ?_
theorem State.hopClearAll_keeps (s : State) :
    Keeps s (State.hopClearAll s) := by
  unfold State.hopClearAll
  with_reducible repeat' first
    | simp only [Keeps.upd_iff] | assumption | exact .refl _ | refine (State.showPend_keeps _).via ?_
    | refine (State.putFld_keeps _ _ _ _ _).via ?_ | refine (State.setRg_keeps _ _ _).via ?_
    | refine (State.setHop_keeps _ _).via ?_ | intro _ | dsimp only
theorem State.hopClear_keeps (s : State) :
    Keeps s (State.hopClear s) := by
  unfold State.hopClear
  with_reducible repeat' first
    | exact .refl _ | refine .ite ?_ ?_ | refine (State.hopRefuse_keeps _ _).via ?_
    | refine (State.hopClearAll_keeps _).via ?_ | split
theorem State.writeHopCmd_keeps (s : State) (v : Nat) :
    Keeps s (State.writeHopCmd s v) := by
  unfold State.writeHopCmd
  with_reducible repeat' first
    | simp only [Keeps.upd_iff] | assumption | exact .refl _ | refine (State.hopRefuse_keeps _ _).via ?_
    | refine (State.hopArm_keeps _).via ?_ | refine (State.hopDisarm_keeps _).via ?_
    | refine (State.hopForce_keeps _).via ?_ | refine (State.hopClear_keeps _).via ?_ | intro _ | split | dsimp only
theorem State.hopFreed_keeps (s : State) :
    Keeps s (State.hopFreed s) := by
  unfold State.hopFreed
  with_reducible repeat' first
    | exact .refl _ | refine .ite ?_ ?_ | refine (State.showPend_keeps _).via ?_
    | refine (State.hopStart_keeps _).via ?_ | split | dsimp only
theorem State.writeSegRd_keeps (s : State) (v : Nat) :
    Keeps s (State.writeSegRd s v) := by
  unfold State.writeSegRd
  with_reducible repeat' first
    | simp only [Keeps.upd_iff] | assumption | exact .refl _ | refine .ite ?_ ?_
    | refine (State.putFld_keeps _ _ _ _ _).via ?_ | refine (State.hopFreed_keeps _).via ?_
    | refine (State.setHop_keeps _ _).via ?_ | intro _ | split | dsimp only
theorem State.hopParity_keeps (s : State) (a : Nat) :
    Keeps s (State.hopParity s a) := by
  unfold State.hopParity
  with_reducible repeat' first
    | exact .refl _ | refine .ite ?_ ?_ | refine (State.hopPost_keeps _ _ _ _).via ?_
    | refine (State.hopCount_keeps _ _ _).via ?_ | split | dsimp only
theorem State.drainDone_keeps (s : State) :
    Keeps s (State.drainDone s) := by
  unfold State.drainDone
  with_reducible repeat' first
    | simp only [Keeps.upd_iff] | assumption | exact .refl _ | refine .ite ?_ ?_
    | refine (State.stw_keeps _ _ _).via ?_ | refine (State.hopParity_keeps _ _).via ?_
    | refine (State.hopFreed_keeps _).via ?_ | refine (State.setRg_keeps _ _ _).via ?_
    | refine (State.setHop_keeps _ _).via ?_ | refine .fold (fun _ _ => ?_) ?_ | intro _ | split | dsimp only
theorem State.writeDrainCtrl_keeps (s : State) (m : Master) (v : Nat) :
    Keeps s (State.writeDrainCtrl s m v) := by
  unfold State.writeDrainCtrl
  with_reducible repeat' first
    | exact .refl _ | refine .ite ?_ ?_ | refine (State.cfgRefused_keeps _ _).via ?_
    | refine (State.writeReg_keeps _ _ _ _ _).via ?_ | split | dsimp only
theorem State.writeSegCfg_keeps (s : State) (m : Master) (v : Nat) :
    Keeps s (State.writeSegCfg s m v) := by
  unfold State.writeSegCfg
  with_reducible repeat' first
    | exact .refl _ | refine .ite ?_ ?_ | refine (State.cfgRefused_keeps _ _).via ?_
    | refine (State.writeReg_keeps _ _ _ _ _).via ?_ | split | dsimp only
theorem State.writePre_keeps (s : State) (m : Master) (v : Nat) :
    Keeps s (State.writePre s m v) := by
  unfold State.writePre
  with_reducible repeat' first
    | exact .refl _ | refine .ite ?_ ?_ | refine (State.cfgRefused_keeps _ _).via ?_
    | refine (State.writeReg_keeps _ _ _ _ _).via ?_ | split
theorem State.writeHopLate_keeps (s : State) (m : Master) (a v : Nat) :
    Keeps s (State.writeHopLate s m a v) := by
  unfold State.writeHopLate
  with_reducible repeat' first
    | simp only [Keeps.upd_iff] | assumption | exact .refl _ | refine .ite ?_ ?_ | refine .ite2 ?_ ?_
    | refine .ite1 ?_ ?_ | refine (State.writeReg_keeps _ _ _ _ _).via ?_ | refine (State.setHop_keeps _ _).via ?_
    | intro _ | split | dsimp only
theorem State.writeChSrc_keeps (s : State) (m : Master) (c v : Nat) :
    Keeps s (State.writeChSrc s m c v) := by
  unfold State.writeChSrc
  with_reducible repeat' first
    | assumption | exact .refl _ | refine .ite ?_ ?_ | refine (State.writeHopLate_keeps _ _ _ _).via ?_
    | refine (State.cfgRefused_keeps _ _).via ?_ | split | dsimp only
theorem State.hopHook_keeps (s : State) (m : Master) (off v : Nat) :
    KeepsOpt s (State.hopHook s m off v) := by
  unfold State.hopHook
  with_reducible repeat' first
    | exact .none _ | refine .some ?_ | assumption | exact .refl _ | refine .ite ?_ ?_
    | refine (State.setRg_keeps _ _ _).via ?_ | refine (State.writeHopCmd_keeps _ _).via ?_
    | refine (State.writeSegRd_keeps _ _).via ?_ | refine (State.writeDrainCtrl_keeps _ _ _).via ?_
    | refine (State.writeSegCfg_keeps _ _ _).via ?_ | refine (State.writePre_keeps _ _ _).via ?_
    | refine (State.writeHopLate_keeps _ _ _ _).via ?_ | refine (State.writeChSrc_keeps _ _ _ _).via ?_
    | refine (State.cfgRefused_keeps _ _).via ?_ | split | dsimp only
theorem State.traceArrive_keeps (s : State) (k : Nat) :
    Keeps s (State.traceArrive s k) := by
  unfold State.traceArrive
  with_reducible repeat' first
    | simp only [Keeps.upd_iff] | assumption | exact .refl _ | refine .ite ?_ ?_
    | refine (State.setHop_keeps _ _).via ?_ | refine (State.thValue_keeps _ _ _ _).via ?_ | intro _ | split
    | dsimp only
theorem execTraceEntry_keeps (t : Time) (k : Fin 33) (s : State) :
    KeepsOutcome s (execTraceEntry t k s) := by
  unfold execTraceEntry
  with_reducible repeat' first
    | refine .next ?_ | assumption | exact .refl _ | refine .ite ?_ ?_ | refine (State.tick_keeps _ _).via ?_
    | refine (State.traceArrive_keeps _ _).via ?_ | split | dsimp only
theorem execSegmentRearm_keeps (t : Time) (s : State) :
    KeepsOutcome s (execSegmentRearm t s) := by
  unfold execSegmentRearm
  with_reducible repeat' first
    | refine .next ?_ | exact .refl _ | refine .ite ?_ ?_ | refine (State.tick_keeps _ _).via ?_
    | refine (State.hopStart_keeps _).via ?_ | split | dsimp only
theorem State.hopCmdWrite_keeps (s : State) (v : Nat) :
    Keeps s (State.hopCmdWrite s v) := by
  unfold State.hopCmdWrite
  with_reducible repeat' first
    | assumption | exact .refl _ | refine (State.onPage_keeps _ _ _ ?_).via ?_
    | refine (State.writeHopCmd_keeps _ _).via ?_ | intro _ | dsimp only
theorem execHopperArm_keeps (t : Time) (_m : Master) (s : State) :
    KeepsOutcome s (execHopperArm t _m s) := by
  unfold execHopperArm
  with_reducible repeat' first
    | refine .next ?_ | exact .refl _ | refine (State.hopCmdWrite_keeps _ _).via ?_
    | refine (State.tick_keeps _ _).via ?_
theorem execHopperDisarm_keeps (t : Time) (_m : Master) (s : State) :
    KeepsOutcome s (execHopperDisarm t _m s) := by
  unfold execHopperDisarm
  with_reducible repeat' first
    | refine .next ?_ | exact .refl _ | refine (State.hopCmdWrite_keeps _ _).via ?_
    | refine (State.tick_keeps _ _).via ?_
theorem execHopperForce_keeps (t : Time) (_m : Master) (s : State) :
    KeepsOutcome s (execHopperForce t _m s) := by
  unfold execHopperForce
  with_reducible repeat' first
    | refine .next ?_ | exact .refl _ | refine (State.hopCmdWrite_keeps _ _).via ?_
    | refine (State.tick_keeps _ _).via ?_
theorem execHopperClear_keeps (t : Time) (_m : Master) (s : State) :
    KeepsOutcome s (execHopperClear t _m s) := by
  unfold execHopperClear
  with_reducible repeat' first
    | refine .next ?_ | exact .refl _ | refine (State.hopCmdWrite_keeps _ _).via ?_
    | refine (State.tick_keeps _ _).via ?_
theorem State.hopMt_keeps (s : State) :
    Keeps s (State.hopMt s) := by
  unfold State.hopMt
  with_reducible repeat' first
    | assumption | exact .refl _ | refine .ite ?_ ?_ | refine (State.putBit_keeps _ _ _ _).via ?_
    | refine (State.hopDue_keeps _ _).via ?_ | split | dsimp only
theorem execHopperMtTrigger_keeps (t : Time) (s : State) :
    KeepsOutcome s (execHopperMtTrigger t s) := by
  unfold execHopperMtTrigger
  with_reducible repeat' first
    | refine .next ?_ | exact .refl _ | refine (State.hopMt_keeps _).via ?_ | refine (State.tick_keeps _ _).via ?_
theorem execSegRdWrite_keeps (t : Time) (_m : Master) (v : Word) (s : State) :
    KeepsOutcome s (execSegRdWrite t _m v s) := by
  unfold execSegRdWrite
  with_reducible repeat' first
    | refine .next ?_ | assumption | exact .refl _ | refine (State.onPage_keeps _ _ _ ?_).via ?_
    | refine (State.tick_keeps _ _).via ?_ | refine (State.writeSegRd_keeps _ _).via ?_ | intro _ | dsimp only
theorem execDrainRdWrite_keeps (t : Time) (_m : Master) (v : Word) (s : State) :
    KeepsOutcome s (execDrainRdWrite t _m v s) := by
  unfold execDrainRdWrite
  with_reducible repeat' first
    | refine .next ?_ | assumption | exact .refl _ | refine (State.onPage_keeps _ _ _ ?_).via ?_
    | refine (State.tick_keeps _ _).via ?_ | refine (State.setRg_keeps _ _ _).via ?_ | intro _ | dsimp only
theorem execDrainCopyDone_keeps (t : Time) (s : State) :
    KeepsOutcome s (execDrainCopyDone t s) := by
  unfold execDrainCopyDone
  with_reducible repeat' first
    | refine .next ?_ | exact .refl _ | refine (State.drainDone_keeps _).via ?_ | refine (State.tick_keeps _ _).via ?_

end Sys2Proof.Machine
end

