-- ==== Sys2Proof/Laws/KeepsFbp.lean ====
section
/-! SUPPORT. The operations of Machine/Fbp.lean keep the queue and the canonical form (`Keeps`). -/

set_option linter.unusedTactic false
set_option linter.unreachableTactic false
set_option linter.unusedSimpArgs false

namespace Sys2Proof.Machine

theorem State.setFbp_keeps (s : State) (n : Nat) (f : FbpSt → FbpSt) :
    Keeps s (State.setFbp s n f) := by
  unfold State.setFbp
  with_reducible repeat' first
    | simp only [Keeps.upd_iff] | exact .refl _
theorem State.putValid_keeps (s : State) (n : Nat) (v : Bool) :
    Keeps s (State.putValid s n v) := by
  unfold State.putValid
  with_reducible repeat' first
    | simp only [Keeps.upd_iff] | assumption | exact .refl _ | refine .ite ?_ ?_
    | refine (State.setFbp_keeps _ _ _).via ?_ | refine (State.putBit_keeps _ _ _ _).via ?_ | intro _ | split
    | dsimp only
theorem State.clearByFault_keeps (s : State) (n : Nat) :
    Keeps s (State.clearByFault s n) := by
  unfold State.clearByFault
  with_reducible repeat' first
    | simp only [Keeps.upd_iff] | assumption | exact .refl _ | refine (State.setFbp_keeps _ _ _).via ?_
    | refine (State.putValid_keeps _ _ _).via ?_ | intro _ | dsimp only
theorem State.clearByLimit_keeps (s : State) (n : Nat) :
    Keeps s (State.clearByLimit s n) := by
  unfold State.clearByLimit
  with_reducible repeat' first
    | simp only [Keeps.upd_iff] | assumption | exact .refl _ | refine .ite ?_ ?_
    | refine (State.setFbp_keeps _ _ _).via ?_ | refine (State.putValid_keeps _ _ _).via ?_ | intro _ | split
    | dsimp only
theorem State.setValid_keeps (s : State) (n : Nat) :
    Keeps s (State.setValid s n) := by
  unfold State.setValid
  with_reducible repeat' first
    | simp only [Keeps.upd_iff] | assumption | exact .refl _ | refine (State.setFbp_keeps _ _ _).via ?_
    | refine (State.putValid_keeps _ _ _).via ?_ | intro _ | dsimp only
theorem State.fbFault_keeps (s : State) (n bitNo code : Nat) (stamp : Time) (payload : Nat) :
    Keeps s (State.fbFault s n bitNo code stamp payload) := by
  unfold State.fbFault
  with_reducible repeat' first
    | exact .refl _ | refine (State.report_keeps _ _ _ _ _ _).via ?_ | refine (State.post_keeps _ _ _ _ _).via ?_
    | refine (State.clearByFault_keeps _ _).via ?_ | refine (State.irq_keeps _ _ _).via ?_
    | refine (State.putBit_keeps _ _ _ _).via ?_
theorem State.limFlags_keeps (s : State) (n : Nat) :
    Keeps s (State.limFlags s n) := by
  unfold State.limFlags
  with_reducible repeat' first
    | exact .refl _ | refine (State.putBit_keeps _ _ _ _).via ?_ | dsimp only
theorem State.setPos_keeps (s : State) (n : Nat) (c : Int) (ovr : Nat) (sat side : Bool) :
    Keeps s (State.setPos s n c ovr sat side) := by
  unfold State.setPos
  with_reducible repeat' first
    | exact .refl _ | refine (State.limFlags_keeps _ _).via ?_ | refine (State.setRg_keeps _ _ _).via ?_
    | refine (State.setRg64_keeps _ _ _).via ?_
theorem State.placeBeyond_keeps (s : State) (n : Nat) (side : Bool) (ovr : Nat) (stamp : Time) :
    Keeps s (State.placeBeyond s n side ovr stamp) := by
  unfold State.placeBeyond
  with_reducible repeat' first
    | exact .refl _ | refine .ite ?_ ?_ | refine (State.post_keeps _ _ _ _ _).via ?_
    | refine (State.setPos_keeps _ _ _ _ _ _).via ?_ | split | dsimp only
theorem State.overrun_keeps (s : State) (n : Nat) (side fresh : Bool) (ovr : Nat) (stamp : Time) :
    Keeps s (State.overrun s n side fresh ovr stamp) := by
  unfold State.overrun
  with_reducible repeat' first
    | exact .refl _ | refine .ite ?_ ?_ | refine (State.irq_keeps _ _ _).via ?_
    | refine (State.clearByLimit_keeps _ _).via ?_ | refine (State.placeBeyond_keeps _ _ _ _ _).via ?_
    | refine (State.post_keeps _ _ _ _ _).via ?_ | split | dsimp only
theorem State.moveCounter_keeps (s : State) (n : Nat) (d : Int) (stamp : Time) :
    Keeps s (State.moveCounter s n d stamp) := by
  unfold State.moveCounter
  with_reducible repeat' first
    | exact .refl _ | refine .ite ?_ ?_ | refine (State.setPos_keeps _ _ _ _ _ _).via ?_
    | refine (State.irq_keeps _ _ _).via ?_ | refine (State.clearByLimit_keeps _ _).via ?_
    | refine (State.overrun_keeps _ _ _ _ _ _).via ?_ | split | dsimp only
theorem State.setCounter_keeps (s : State) (n : Nat) (v : Int) (at_ : Time) :
    Keeps s (State.setCounter s n v at_) := by
  unfold State.setCounter
  with_reducible repeat' first
    | simp only [Keeps.upd_iff] | assumption | exact .refl _ | refine (State.setFbp_keeps _ _ _).via ?_
    | refine (State.setPos_keeps _ _ _ _ _ _).via ?_ | intro _ | dsimp only
theorem State.writeLimit_keeps (s : State) (n : Nat) (hi : Bool) (v : Nat) :
    Keeps s (State.writeLimit s n hi v) := by
  unfold State.writeLimit
  with_reducible repeat' first
    | exact .refl _ | refine .ite ?_ ?_ | refine (State.cfgRefused_keeps _ _).via ?_
    | refine (State.setRg64_keeps _ _ _).via ?_ | refine (State.limFlags_keeps _ _).via ?_
    | refine (State.clearByLimit_keeps _ _).via ?_ | refine (State.post_keeps _ _ _ _ _).via ?_
    | refine (State.irq_keeps _ _ _).via ?_ | refine (State.setPos_keeps _ _ _ _ _ _).via ?_
    | refine (State.placeBeyond_keeps _ _ _ _ _).via ?_ | split | dsimp only
theorem State.postGlitch_keeps (s : State) (n : Nat) (at_ : Time) :
    Keeps s (State.postGlitch s n at_) := by
  unfold State.postGlitch
  with_reducible repeat' first
    | simp only [Keeps.upd_iff] | assumption | exact .refl _ | refine (State.setFbp_keeps _ _ _).via ?_
    | refine (State.post_keeps _ _ _ _ _).via ?_ | intro _ | dsimp only
theorem State.glitchDue_keeps (s : State) (n : Nat) (t : Time) :
    Keeps s (State.glitchDue s n t) := by
  unfold State.glitchDue
  with_reducible repeat' first
    | simp only [Keeps.upd_iff] | assumption | exact .refl _ | refine .ite ?_ ?_
    | refine (State.postGlitch_keeps _ _ _).via ?_ | intro _ | split
theorem State.rejectEdge_keeps (s : State) (n line : Nat) (stamp : Time) (stamped : Bool) :
    Keeps s (State.rejectEdge s n line stamp stamped) := by
  unfold State.rejectEdge
  with_reducible repeat' first
    | simp only [Keeps.upd_iff] | assumption | exact .refl _ | refine .ite ?_ ?_
    | refine (State.glitchDue_keeps _ _ _).via ?_ | refine (State.irq_keeps _ _ _).via ?_
    | refine (State.count_keeps _ _ _ _ _).via ?_ | refine (State.setFbp_keeps _ _ _).via ?_
    | refine (State.fbFault_keeps _ _ _ _ _ _).via ?_ | refine (State.postGlitch_keeps _ _ _).via ?_ | intro _ | split
    | dsimp only
theorem State.hallEdge_keeps (s : State) (n st : Nat) (stamp : Time) :
    Keeps s (State.hallEdge s n st stamp) := by
  unfold State.hallEdge
  with_reducible repeat' first
    | simp only [Keeps.upd_iff] | assumption | exact .refl _ | refine .ite ?_ ?_ | refine .fold (fun _ _ => ?_) ?_
    | intro _ | split | dsimp only
theorem State.illegal_keeps (s : State) (n : Nat) (stamp : Time) :
    Keeps s (State.illegal s n stamp) := by
  unfold State.illegal
  with_reducible repeat' first
    | simp only [Keeps.upd_iff] | assumption | exact .refl _ | refine .ite ?_ ?_
    | refine (State.fbFault_keeps _ _ _ _ _ _).via ?_ | refine (State.setFbp_keeps _ _ _).via ?_
    | refine (State.hallEdge_keeps _ _ _ _).via ?_ | refine (State.post_keeps _ _ _ _ _).via ?_ | intro _ | split
    | dsimp only
theorem State.countEdge_keeps (s : State) (n : Nat) (fwd0 : Bool) (stamp : Time) :
    Keeps s (State.countEdge s n fwd0 stamp) := by
  unfold State.countEdge
  with_reducible repeat' first
    | simp only [Keeps.upd_iff] | assumption | exact .refl _ | refine .ite ?_ ?_
    | refine (State.putBit_keeps _ _ _ _).via ?_ | refine (State.setRg64_keeps _ _ _).via ?_
    | refine (State.setFbp_keeps _ _ _).via ?_ | refine (State.moveCounter_keeps _ _ _ _).via ?_
    | refine (State.hopNode_keeps _ _ _ _ _).via ?_ | intro _ | split | dsimp only
theorem State.indexEdge_keeps (s : State) (n : Nat) (stamp : Time) :
    Keeps s (State.indexEdge s n stamp) := by
  unfold State.indexEdge
  with_reducible repeat' first
    | exact .refl _ | refine .ite ?_ ?_ | refine (State.post_keeps _ _ _ _ _).via ?_
    | refine (State.irq_keeps _ _ _).via ?_ | refine (State.setRg64_keeps _ _ _).via ?_
    | refine (State.putBit_keeps _ _ _ _).via ?_ | refine (State.setValid_keeps _ _).via ?_
    | refine (State.setCounter_keeps _ _ _ _).via ?_ | split | dsimp only
theorem State.quadEdge_keeps (s : State) (n line : Nat) (stamp : Time) (prevPol : Option Bool) (pol : Bool) :
    Keeps s (State.quadEdge s n line stamp prevPol pol) := by
  unfold State.quadEdge
  with_reducible repeat' first
    | simp only [Keeps.upd_iff] | assumption | exact .refl _ | refine .ite ?_ ?_
    | refine (State.illegal_keeps _ _ _).via ?_ | refine (State.putBit_keeps _ _ _ _).via ?_
    | refine (State.setFbp_keeps _ _ _).via ?_ | refine (State.countEdge_keeps _ _ _ _).via ?_ | intro _ | split
    | dsimp only
theorem State.hallLine_keeps (s : State) (n line : Nat) (stamp : Time) (pol : Bool) :
    Keeps s (State.hallLine s n line stamp pol) := by
  unfold State.hallLine
  with_reducible repeat' first
    | simp only [Keeps.upd_iff] | assumption | exact .refl _ | refine .ite ?_ ?_
    | refine (State.illegal_keeps _ _ _).via ?_ | refine (State.putBit_keeps _ _ _ _).via ?_
    | refine (State.post_keeps _ _ _ _ _).via ?_ | refine (State.setFbp_keeps _ _ _).via ?_
    | refine (State.hallEdge_keeps _ _ _ _).via ?_ | refine (State.countEdge_keeps _ _ _ _).via ?_ | intro _ | split
    | dsimp only
theorem State.stepLine_keeps (s : State) (n line : Nat) (stamp : Time) (pol : Bool) :
    Keeps s (State.stepLine s n line stamp pol) := by
  unfold State.stepLine
  with_reducible repeat' first
    | simp only [Keeps.upd_iff] | assumption | exact .refl _ | refine .ite ?_ ?_ | refine .ite1 ?_ ?_
    | refine (State.putBit_keeps _ _ _ _).via ?_ | refine (State.irq_keeps _ _ _).via ?_
    | refine (State.setFbp_keeps _ _ _).via ?_ | refine (State.illegal_keeps _ _ _).via ?_
    | refine (State.countEdge_keeps _ _ _ _).via ?_ | refine (State.post_keeps _ _ _ _ _).via ?_ | intro _ | split
    | dsimp only
theorem State.acceptEdge_keeps (s : State) (n line : Nat) (stamp : Time) (pol : Bool) :
    Keeps s (State.acceptEdge s n line stamp pol) := by
  unfold State.acceptEdge
  with_reducible repeat' first
    | simp only [Keeps.upd_iff] | assumption | exact .refl _ | refine .ite ?_ ?_
    | refine (State.setFbp_keeps _ _ _).via ?_ | refine (State.indexEdge_keeps _ _ _).via ?_
    | refine (State.quadEdge_keeps _ _ _ _ _ _).via ?_ | refine (State.hallLine_keeps _ _ _ _ _).via ?_
    | refine (State.stepLine_keeps _ _ _ _ _).via ?_ | intro _ | split | dsimp only
theorem State.feedbackEdge_keeps (s : State) (n line : Nat) (stamp : Time) (raw stamped : Bool) :
    Keeps s (State.feedbackEdge s n line stamp raw stamped) := by
  unfold State.feedbackEdge
  with_reducible repeat' first
    | simp only [Keeps.upd_iff] | assumption | exact .refl _ | refine .ite ?_ ?_
    | refine (State.setFbp_keeps _ _ _).via ?_ | refine (State.rejectEdge_keeps _ _ _ _ _).via ?_
    | refine (State.acceptEdge_keeps _ _ _ _ _).via ?_ | intro _ | split | dsimp only
theorem State.minIntExpiry_keeps (s : State) (n line : Nat) :
    Keeps s (State.minIntExpiry s n line) := by
  unfold State.minIntExpiry
  with_reducible repeat' first
    | simp only [Keeps.upd_iff] | assumption | exact .refl _ | refine .ite ?_ ?_
    | refine (State.setFbp_keeps _ _ _).via ?_ | refine (State.acceptEdge_keeps _ _ _ _ _).via ?_
    | refine (State.illegal_keeps _ _ _).via ?_ | intro _ | split | dsimp only
theorem State.velZero_keeps (s : State) (n : Nat) (tk : Time) :
    Keeps s (State.velZero s n tk) := by
  unfold State.velZero
  with_reducible repeat' first
    | exact .refl _ | refine (State.putBit_keeps _ _ _ _).via ?_ | dsimp only
theorem State.refreshFrames_keeps (s : State) (n : Nat) (ok : Time → Bool) :
    Keeps s (State.refreshFrames s n ok) := by
  unfold State.refreshFrames
  with_reducible repeat' first
    | simp only [Keeps.upd_iff] | assumption | exact .refl _ | refine .ite ?_ ?_
    | refine (State.velZero_keeps _ _ _).via ?_ | refine .fold (fun _ _ => ?_) ?_ | intro _ | split | dsimp only
theorem State.serFail_keeps (s : State) (n : Nat) (stamp : Time) :
    Keeps s (State.serFail s n stamp) := by
  unfold State.serFail
  with_reducible repeat' first
    | simp only [Keeps.upd_iff] | assumption | exact .refl _ | refine .ite ?_ ?_
    | refine (State.putBit_keeps _ _ _ _).via ?_ | refine (State.setFbp_keeps _ _ _).via ?_
    | refine (State.fbFault_keeps _ _ _ _ _ _).via ?_ | intro _ | split | dsimp only
theorem State.serErr_keeps (s : State) (n code reg hi : Nat) (t : Time) :
    Keeps s (State.serErr s n code reg hi t) := by
  unfold State.serErr
  with_reducible repeat' first
    | exact .refl _ | refine (State.post_keeps _ _ _ _ _).via ?_ | refine (State.irq_keeps _ _ _).via ?_
    | refine (State.count_keeps _ _ _ _ _).via ?_
theorem State.fbLoad_keeps (s : State) (n : Nat) (val : Int) (reload : Bool) :
    Keeps s (State.fbLoad s n val reload) := by
  unfold State.fbLoad
  with_reducible repeat' first
    | exact .refl _ | refine .ite ?_ ?_ | refine (State.setValid_keeps _ _).via ?_
    | refine (State.setPos_keeps _ _ _ _ _ _).via ?_ | refine (State.moveCounter_keeps _ _ _ _).via ?_ | split
    | dsimp only
theorem State.acceptWord_keeps (s : State) (n pw p : Nat) (ts : Int) (reqStamp : Nat) (done : Time) :
    Keeps s (State.acceptWord s n pw p ts reqStamp done) := by
  unfold State.acceptWord
  with_reducible repeat' first
    | simp only [Keeps.upd_iff] | assumption | exact .refl _ | refine .ite ?_ ?_
    | refine (State.setFbp_keeps _ _ _).via ?_ | refine (State.putBit_keeps _ _ _ _).via ?_
    | refine (State.setRg64_keeps _ _ _).via ?_ | refine (State.moveCounter_keeps _ _ _ _).via ?_
    | refine (State.fbLoad_keeps _ _ _ _).via ?_ | refine (State.postNow_keeps _ _ _ _).via ?_
    | refine (State.fbFault_keeps _ _ _ _ _ _).via ?_ | refine (State.refreshFrames_keeps _ _ _).via ?_ | intro _
    | split | dsimp only
theorem State.serialWord_keeps (s : State) (n : Nat) (data crc : List Bool) :
    Keeps s (State.serialWord s n data crc) := by
  unfold State.serialWord
  with_reducible repeat' first
    | simp only [Keeps.upd_iff] | assumption | exact .refl _ | refine .ite ?_ ?_
    | refine (State.setRg64_keeps _ _ _).via ?_ | refine (State.setFbp_keeps _ _ _).via ?_
    | refine (State.putBit_keeps _ _ _ _).via ?_ | refine (State.serFail_keeps _ _ _).via ?_
    | refine (State.serErr_keeps _ _ _ _ _ _).via ?_ | refine (State.post_keeps _ _ _ _ _).via ?_
    | refine (State.count_keeps _ _ _ _ _).via ?_ | refine (State.acceptWord_keeps _ _ _ _ _ _ _).via ?_ | intro _
    | split | dsimp only
theorem State.serialTimeout_keeps (s : State) (n : Nat) :
    Keeps s (State.serialTimeout s n) := by
  unfold State.serialTimeout
  with_reducible repeat' first
    | simp only [Keeps.upd_iff] | assumption | exact .refl _ | refine .ite ?_ ?_
    | refine (State.serFail_keeps _ _ _).via ?_ | refine (State.serErr_keeps _ _ _ _ _ _).via ?_
    | refine (State.setFbp_keeps _ _ _).via ?_ | intro _ | split | dsimp only
theorem State.sentSlow_keeps (s : State) (n status : Nat) :
    Keeps s (State.sentSlow s n status) := by
  unfold State.sentSlow
  with_reducible repeat' first
    | simp only [Keeps.upd_iff] | assumption | exact .refl _ | refine .ite ?_ ?_
    | refine (State.setFbp_keeps _ _ _).via ?_ | refine (State.irq_keeps _ _ _).via ?_
    | refine (State.post_keeps _ _ _ _ _).via ?_ | refine (State.setRg_keeps _ _ _).via ?_
    | refine (State.count_keeps _ _ _ _ _).via ?_ | intro _ | split | dsimp only
theorem State.sentFrame_keeps (s : State) (n sync : Nat) (fall : Time) (status : Nat) (data : List Nat) (crc : Nat) :
    Keeps s (State.sentFrame s n sync fall status data crc) := by
  unfold State.sentFrame
  with_reducible repeat' first
    | simp only [Keeps.upd_iff] | assumption | exact .refl _ | refine .ite ?_ ?_
    | refine (State.setFbp_keeps _ _ _).via ?_ | refine (State.sentSlow_keeps _ _ _).via ?_
    | refine (State.setRg64_keeps _ _ _).via ?_ | refine (State.serFail_keeps _ _ _).via ?_
    | refine (State.serErr_keeps _ _ _ _ _ _).via ?_ | refine (State.acceptWord_keeps _ _ _ _ _ _ _).via ?_
    | refine .fold (fun _ _ => ?_) ?_ | intro _ | split | dsimp only
theorem State.sentTimeout_keeps (s : State) (n : Nat) :
    Keeps s (State.sentTimeout s n) := by
  unfold State.sentTimeout
  with_reducible repeat' first
    | simp only [Keeps.upd_iff] | assumption | exact .refl _ | refine .ite ?_ ?_
    | refine (State.serFail_keeps _ _ _).via ?_ | refine (State.serErr_keeps _ _ _ _ _ _).via ?_
    | refine (State.setFbp_keeps _ _ _).via ?_ | intro _ | split | dsimp only
theorem State.stallSample_keeps (s : State) (n a : Nat) (prev tk : Time) :
    Keeps s (State.stallSample s n a prev tk) := by
  unfold State.stallSample
  with_reducible repeat' first
    | simp only [Keeps.upd_iff] | assumption | exact .refl _ | refine .ite ?_ ?_ | refine .ite1 ?_ ?_
    | refine (State.setFbp_keeps _ _ _).via ?_ | intro _ | split | dsimp only
theorem State.stallGap_keeps (s : State) (a : Nat) :
    Keeps s (State.stallGap s a) := by
  unfold State.stallGap
  with_reducible repeat' first
    | simp only [Keeps.upd_iff] | assumption | exact .refl _ | refine (State.setFbp_keeps _ _ _).via ?_
    | refine .fold (fun _ _ => ?_) ?_ | refine .fold1 (fun _ _ => ?_) ?_ | intro _ | dsimp only
theorem State.edgeStall_keeps (s : State) (n a : Nat) :
    Keeps s (State.edgeStall s n a) := by
  unfold State.edgeStall
  with_reducible repeat' first
    | simp only [Keeps.upd_iff] | assumption | exact .refl _ | refine .ite ?_ ?_ | refine .ite1 ?_ ?_
    | refine (State.fbFault_keeps _ _ _ _ _ _).via ?_ | refine (State.setFbp_keeps _ _ _).via ?_ | intro _ | split
    | dsimp only
theorem State.writeFbCtrl_keeps (s : State) (n v : Nat) :
    Keeps s (State.writeFbCtrl s n v) := by
  unfold State.writeFbCtrl
  with_reducible repeat' first
    | exact .refl _ | refine .ite ?_ ?_ | refine (State.cfgRefused_keeps _ _).via ?_
    | refine (State.setRg_keeps _ _ _).via ?_ | split
theorem State.writeSerCfg_keeps (s : State) (m : Master) (n v : Nat) :
    Keeps s (State.writeSerCfg s m n v) := by
  unfold State.writeSerCfg
  with_reducible repeat' first
    | exact .refl _ | refine .ite ?_ ?_ | refine (State.cfgRefused_keeps _ _).via ?_
    | refine (State.writeReg_keeps _ _ _ _ _).via ?_ | split
theorem State.writeSentCfg_keeps (s : State) (m : Master) (n v : Nat) :
    Keeps s (State.writeSentCfg s m n v) := by
  unfold State.writeSentCfg
  with_reducible repeat' first
    | exact .refl _ | refine .ite ?_ ?_ | refine (State.cfgRefused_keeps _ _).via ?_
    | refine (State.writeReg_keeps _ _ _ _ _).via ?_ | split
theorem State.fbEnable_keeps (s : State) (n : Nat) :
    Keeps s (State.fbEnable s n) := by
  unfold State.fbEnable
  with_reducible repeat' first
    | simp only [Keeps.upd_iff] | assumption | exact .refl _ | refine .ite ?_ ?_
    | refine (State.setFbp_keeps _ _ _).via ?_ | refine (State.putValid_keeps _ _ _).via ?_
    | refine (State.setPos_keeps _ _ _ _ _ _).via ?_ | refine (State.putBit_keeps _ _ _ _).via ?_ | intro _ | split
    | dsimp only
theorem State.fbDisable_keeps (s : State) (n : Nat) :
    Keeps s (State.fbDisable s n) := by
  unfold State.fbDisable
  with_reducible repeat' first
    | simp only [Keeps.upd_iff] | assumption | exact .refl _ | refine (State.setFbp_keeps _ _ _).via ?_ | intro _
    | dsimp only
theorem State.posCmd_keeps (s : State) (n v : Nat) :
    Keeps s (State.posCmd s n v) := by
  unfold State.posCmd
  with_reducible repeat' first
    | simp only [Keeps.upd_iff] | assumption | exact .refl _ | refine .ite ?_ ?_
    | refine (State.post_keeps _ _ _ _ _).via ?_ | refine (State.setValid_keeps _ _).via ?_
    | refine (State.setPos_keeps _ _ _ _ _ _).via ?_ | refine (State.cmdRefused_keeps _ _).via ?_
    | refine (State.setCounter_keeps _ _ _ _).via ?_ | refine (State.putBit_keeps _ _ _ _).via ?_
    | refine (State.setFbp_keeps _ _ _).via ?_ | intro _ | split | dsimp only
theorem State.fbFaultClear_keeps (s : State) (n v : Nat) :
    Keeps s (State.fbFaultClear s n v) := by
  unfold State.fbFaultClear
  with_reducible repeat' first
    | exact .refl _ | refine .ite ?_ ?_ | refine (State.setRg_keeps _ _ _).via ?_
    | refine (State.reportClear_keeps _ _ _).via ?_ | split | dsimp only
theorem State.writeFbSel_keeps (s : State) (a v : Nat) :
    Keeps s (State.writeFbSel s a v) := by
  unfold State.writeFbSel
  with_reducible repeat' first
    | simp only [Keeps.upd_iff] | assumption | exact .refl _ | refine (State.setRg_keeps _ _ _).via ?_ | intro _
    | dsimp only
theorem State.applyFbSel_keeps (s : State) (a : Nat) (tk : Time) :
    Keeps s (State.applyFbSel s a tk) := by
  unfold State.applyFbSel
  with_reducible repeat' first
    | simp only [Keeps.upd_iff] | assumption | exact .refl _ | refine .ite ?_ ?_ | refine .ite2 ?_ ?_
    | refine .ite1 ?_ ?_ | refine (State.setFbp_keeps _ _ _).via ?_ | refine .fold (fun _ _ => ?_) ?_
    | refine .fold1 (fun _ _ => ?_) ?_ | refine .fold2 (fun _ _ => ?_) ?_ | intro _ | split | dsimp only
theorem State.fbpHook_keeps (s : State) (m : Master) (n off v : Nat) :
    KeepsOpt s (State.fbpHook s m n off v) := by
  unfold State.fbpHook
  with_reducible repeat' first
    | exact .none _ | refine .some ?_ | exact .refl _ | refine .ite ?_ ?_
    | refine (State.writeFbCtrl_keeps _ _ _).via ?_ | refine (State.fbFaultClear_keeps _ _ _).via ?_
    | refine (State.writeLimit_keeps _ _ _ _).via ?_ | refine (State.posCmd_keeps _ _ _).via ?_
    | refine (State.setRg64_keeps _ _ _).via ?_ | refine (State.cfgRefused_keeps _ _).via ?_
    | refine (State.writeSerCfg_keeps _ _ _ _).via ?_ | refine (State.writeSentCfg_keeps _ _ _ _).via ?_ | split
theorem execGlitchGatheredPost_keeps (t : Time) (n : Fin 48) (s : State) :
    KeepsOutcome s (execGlitchGatheredPost t n s) := by
  unfold execGlitchGatheredPost
  with_reducible repeat' first
    | refine .next ?_ | exact .refl _ | refine (State.tick_keeps _ _).via ?_
    | refine (State.glitchDue_keeps _ _ _).via ?_ | dsimp only
theorem execFbpConfigWrite_keeps (t : Time) (_m : Master) (n : Fin 48) (v : Word) (s : State) :
    KeepsOutcome s (execFbpConfigWrite t _m n v s) := by
  unfold execFbpConfigWrite
  with_reducible repeat' first
    | refine .next ?_ | assumption | exact .refl _ | refine (State.onPage_keeps _ _ _ ?_).via ?_
    | refine (State.tick_keeps _ _).via ?_ | refine (State.writeFbCtrl_keeps _ _ _).via ?_ | intro _ | dsimp only
theorem execPortEnable_keeps (t : Time) (_m : Master) (n : Fin 48) (s : State) :
    KeepsOutcome s (execPortEnable t _m n s) := by
  unfold execPortEnable
  with_reducible repeat' first
    | refine .next ?_ | assumption | exact .refl _ | refine .ite ?_ ?_ | refine (State.onPage_keeps _ _ _ ?_).via ?_
    | refine (State.tick_keeps _ _).via ?_ | refine (State.fbEnable_keeps _ _).via ?_
    | refine (State.putBit_keeps _ _ _ _).via ?_ | intro _ | split | dsimp only
theorem execFbRestore_keeps (t : Time) (_m : Master) (n : Fin 48) (s : State) :
    KeepsOutcome s (execFbRestore t _m n s) := by
  unfold execFbRestore
  with_reducible repeat' first
    | refine .next ?_ | assumption | exact .refl _ | refine (State.onPage_keeps _ _ _ ?_).via ?_
    | refine (State.tick_keeps _ _).via ?_ | refine (State.posCmd_keeps _ _ _).via ?_ | intro _ | dsimp only
theorem execFbSet_keeps (t : Time) (_m : Master) (n : Fin 48) (s : State) :
    KeepsOutcome s (execFbSet t _m n s) := by
  unfold execFbSet
  with_reducible repeat' first
    | refine .next ?_ | assumption | exact .refl _ | refine (State.onPage_keeps _ _ _ ?_).via ?_
    | refine (State.tick_keeps _ _).via ?_ | refine (State.posCmd_keeps _ _ _).via ?_ | intro _ | dsimp only
theorem execFbZsetArm_keeps (t : Time) (_m : Master) (n : Fin 48) (s : State) :
    KeepsOutcome s (execFbZsetArm t _m n s) := by
  unfold execFbZsetArm
  with_reducible repeat' first
    | refine .next ?_ | assumption | exact .refl _ | refine (State.onPage_keeps _ _ _ ?_).via ?_
    | refine (State.tick_keeps _ _).via ?_ | refine (State.posCmd_keeps _ _ _).via ?_ | intro _ | dsimp only
theorem execFbZsetDisarm_keeps (t : Time) (_m : Master) (n : Fin 48) (s : State) :
    KeepsOutcome s (execFbZsetDisarm t _m n s) := by
  unfold execFbZsetDisarm
  with_reducible repeat' first
    | refine .next ?_ | assumption | exact .refl _ | refine (State.onPage_keeps _ _ _ ?_).via ?_
    | refine (State.tick_keeps _ _).via ?_ | refine (State.posCmd_keeps _ _ _).via ?_ | intro _ | dsimp only
theorem execFbReload_keeps (t : Time) (_m : Master) (n : Fin 48) (s : State) :
    KeepsOutcome s (execFbReload t _m n s) := by
  unfold execFbReload
  with_reducible repeat' first
    | refine .next ?_ | assumption | exact .refl _ | refine (State.onPage_keeps _ _ _ ?_).via ?_
    | refine (State.tick_keeps _ _).via ?_ | refine (State.posCmd_keeps _ _ _).via ?_ | intro _ | dsimp only
theorem execLimitWrite_keeps (t : Time) (_m : Master) (n : Fin 48) (hi : Bool) (v : DWord) (s : State) :
    KeepsOutcome s (execLimitWrite t _m n hi v s) := by
  unfold execLimitWrite
  with_reducible repeat' first
    | refine .next ?_ | assumption | exact .refl _ | refine (State.onPage_keeps _ _ _ ?_).via ?_
    | refine (State.tick_keeps _ _).via ?_ | refine (State.writeLimit_keeps _ _ _ _).via ?_ | intro _ | dsimp only
theorem execSerialWord_keeps (t : Time) (n : Fin 48) (data crc : List Bool) (s : State) :
    KeepsOutcome s (execSerialWord t n data crc s) := by
  unfold execSerialWord
  with_reducible repeat' first
    | refine .next ?_ | exact .refl _ | refine (State.serialWord_keeps _ _ _ _).via ?_
    | refine (State.tick_keeps _ _).via ?_
theorem execSerialTimeout_keeps (t : Time) (n : Fin 48) (s : State) :
    KeepsOutcome s (execSerialTimeout t n s) := by
  unfold execSerialTimeout
  with_reducible repeat' first
    | refine .next ?_ | exact .refl _ | refine (State.serialTimeout_keeps _ _).via ?_
    | refine (State.tick_keeps _ _).via ?_
theorem execSentFrame_keeps (t : Time) (n : Fin 48) (sync : Nat) (fall : Time) (status : Fin 16) (data : List Nat) (crc : Fin 16) (s : State) :
    KeepsOutcome s (execSentFrame t n sync fall status data crc s) := by
  unfold execSentFrame
  with_reducible repeat' first
    | refine .next ?_ | exact .refl _ | refine (State.sentFrame_keeps _ _ _ _ _ _ _).via ?_
    | refine (State.tick_keeps _ _).via ?_
theorem execSentTimeout_keeps (t : Time) (n : Fin 48) (s : State) :
    KeepsOutcome s (execSentTimeout t n s) := by
  unfold execSentTimeout
  with_reducible repeat' first
    | refine .next ?_ | exact .refl _ | refine (State.sentTimeout_keeps _ _).via ?_
    | refine (State.tick_keeps _ _).via ?_
theorem execLineFault_keeps (t : Time) (n : Fin 48) (pairs : Fin 8) (s : State) :
    KeepsOutcome s (execLineFault t n pairs s) := by
  unfold execLineFault
  with_reducible repeat' first
    | refine .next ?_ | simp only [Keeps.upd_iff] | assumption | exact .refl _ | refine .ite ?_ ?_
    | refine (State.tick_keeps _ _).via ?_ | refine (State.fbFault_keeps _ _ _ _ _ _).via ?_ | intro _ | split
    | dsimp only
theorem execEdgeStall_keeps (t : Time) (n : Fin 48) (a : Fin 64) (s : State) :
    KeepsOutcome s (execEdgeStall t n a s) := by
  unfold execEdgeStall
  with_reducible repeat' first
    | refine .next ?_ | exact .refl _ | refine (State.edgeStall_keeps _ _ _).via ?_
    | refine (State.tick_keeps _ _).via ?_
theorem execFbpFaultClear_keeps (t : Time) (_m : Master) (n : Fin 48) (v : Word) (s : State) :
    KeepsOutcome s (execFbpFaultClear t _m n v s) := by
  unfold execFbpFaultClear
  with_reducible repeat' first
    | refine .next ?_ | assumption | exact .refl _ | refine (State.onPage_keeps _ _ _ ?_).via ?_
    | refine (State.tick_keeps _ _).via ?_ | refine (State.fbFaultClear_keeps _ _ _).via ?_ | intro _ | dsimp only
theorem execFbSelWrite_keeps (t : Time) (_m : Master) (a : Fin 64) (v : Word) (s : State) :
    KeepsOutcome s (execFbSelWrite t _m a v s) := by
  unfold execFbSelWrite
  with_reducible repeat' first
    | refine .next ?_ | assumption | exact .refl _ | refine (State.onPage_keeps _ _ _ ?_).via ?_
    | refine (State.tick_keeps _ _).via ?_ | refine (State.writeFbSel_keeps _ _ _).via ?_ | intro _ | dsimp only

end Sys2Proof.Machine
end

