-- ==== Sys2Proof/Laws/KeepsAxisTime.lean ====
section
/-! SUPPORT. The operations of Machine/AxisTime.lean keep the queue and the canonical form (`Keeps`). -/

set_option linter.unusedTactic false
set_option linter.unreachableTactic false
set_option linter.unusedSimpArgs false

namespace Sys2Proof.Machine

theorem State.setAx_keeps (s : State) (a : Nat) (f : AxSt → AxSt) :
    Keeps s (State.setAx s a f) := by
  unfold State.setAx
  with_reducible repeat' first
    | simp only [Keeps.upd_iff] | exact .refl _
theorem State.serialRequest_keeps (s : State) (n : Nat) (tk : Time) :
    Keeps s (State.serialRequest s n tk) := by
  unfold State.serialRequest
  with_reducible repeat' first
    | simp only [Keeps.upd_iff] | assumption | exact .refl _ | refine .ite ?_ ?_
    | refine (State.post_keeps _ _ _ _ _).via ?_ | refine (State.irq_keeps _ _ _).via ?_
    | refine (State.count_keeps _ _ _ _ _).via ?_ | refine (State.setFbp_keeps _ _ _).via ?_ | intro _ | split
    | dsimp only
theorem execSerialRequest_keeps (t : Time) (n : Fin 48) (tk : Time) (s : State) :
    KeepsOutcome s (execSerialRequest t n tk s) := by
  unfold execSerialRequest
  with_reducible repeat' first
    | refine .next ?_ | exact .refl _ | refine (State.serialRequest_keeps _ _ _).via ?_
    | refine (State.tick_keeps _ _).via ?_

end Sys2Proof.Machine
end

