-- ==== Sys2Proof/Laws/KeepsCores.lean ====
section
/-! SUPPORT. The operations of Machine/Cores.lean keep the queue and the canonical form (`Keeps`). -/

set_option linter.unusedTactic false
set_option linter.unreachableTactic false
set_option linter.unusedSimpArgs false

namespace Sys2Proof.Machine

theorem State.setCr_keeps (s : State) (c : Nat) (f : CoreSt → CoreSt) :
    Keeps s (State.setCr s c f) := by
  unfold State.setCr
  with_reducible repeat' first
    | simp only [Keeps.upd_iff] | exact .refl _
theorem State.corePost_keeps (s : State) (c code payload : Nat) :
    Keeps s (State.corePost s c code payload) := by
  unfold State.corePost
  with_reducible repeat' first
    | exact .refl _ | refine .ite ?_ ?_ | refine (State.postNow_keeps _ _ _ _).via ?_ | split
theorem State.coreIrq_keeps (s : State) (c bits : Nat) :
    Keeps s (State.coreIrq s c bits) := by
  unfold State.coreIrq
  with_reducible repeat' first
    | exact .refl _ | refine .ite ?_ ?_ | refine (State.irq_keeps _ _ _).via ?_ | split
theorem State.setCoreState0_keeps (s : State) (c v : Nat) :
    Keeps s (State.setCoreState0 s c v) := by
  unfold State.setCoreState0
  with_reducible repeat' first
    | exact .refl _ | refine (State.putFld_keeps _ _ _ _ _).via ?_
theorem State.slCorePost_keeps (s : State) (c code : Nat) (stamp : Time) (payload irqBits : Nat) :
    Keeps s (State.slCorePost s c code stamp payload irqBits) := by
  unfold State.slCorePost
  with_reducible repeat' first
    | exact .refl _ | refine (State.post_keeps _ _ _ _ _).via ?_ | refine (State.irq_keeps _ _ _).via ?_
theorem State.migFail_keeps (s : State) (reason : Nat) :
    Keeps s (State.migFail s reason) := by
  unfold State.migFail
  with_reducible repeat' first
    | simp only [Keeps.upd_iff] | assumption | exact .refl _ | refine .ite ?_ ?_
    | refine (State.putFld_keeps _ _ _ _ _).via ?_ | refine (State.slCorePost_keeps _ _ _ _ _ _).via ?_
    | refine (State.putBit_keeps _ _ _ _).via ?_ | refine .fold (fun _ _ => ?_) ?_ | intro _ | split | dsimp only
theorem State.migWatch_keeps (s : State) :
    Keeps s (State.migWatch s) := by
  unfold State.migWatch
  with_reducible repeat' first
    | assumption | exact .refl _ | refine .ite ?_ ?_ | refine (State.migFail_keeps _ _).via ?_ | split | dsimp only
theorem State.setCoreState_keeps (s : State) (c v : Nat) :
    Keeps s (State.setCoreState s c v) := by
  unfold State.setCoreState
  with_reducible repeat' first
    | exact .refl _ | refine (State.migWatch_keeps _).via ?_ | refine (State.setCoreState0_keeps _ _ _).via ?_
theorem State.eccWrite_keeps (s : State) (pg addr : Nat) (v : Word) :
    Keeps s (State.eccWrite s pg addr v) := by
  unfold State.eccWrite
  with_reducible repeat' first
    | simp only [Keeps.upd_iff] | exact .refl _ | refine .ite ?_ ?_ | refine (State.putBit_keeps _ _ _ _).via ?_
    | refine (State.stw_keeps _ _ _).via ?_ | split | dsimp only
theorem State.eccCorr_keeps (s : State) (c addr sp a : Nat) :
    Keeps s (State.eccCorr s c addr sp a) := by
  unfold State.eccCorr
  with_reducible repeat' first
    | simp only [Keeps.upd_iff] | exact .refl _ | refine .ite ?_ ?_ | refine (State.count_keeps _ _ _ _ _).via ?_
    | refine (State.corePost_keeps _ _ _ _).via ?_ | refine (State.coreIrq_keeps _ _ _).via ?_ | split | dsimp only
theorem State.eccDouble_keeps (s : State) (c : Nat) :
    Keeps s (State.eccDouble s c) := by
  unfold State.eccDouble
  with_reducible repeat' first
    | assumption | exact .refl _ | refine .ite ?_ ?_ | refine (State.count_keeps _ _ _ _ _).via ?_ | split
    | dsimp only
theorem State.land_keeps (s : State) (c : Nat) (w : Wr) :
    Keeps s (State.land s c w) := by
  unfold State.land
  with_reducible repeat' first
    | simp only [Keeps.upd_iff] | assumption | exact .refl _ | refine (State.setCr_keeps _ _ _).via ?_
    | refine (State.eccWrite_keeps _ _ _ _).via ?_ | intro _ | split | dsimp only
theorem State.drain_keeps (s : State) (c : Nat) :
    Keeps s (State.drain s c) := by
  unfold State.drain
  with_reducible repeat' first
    | simp only [Keeps.upd_iff] | assumption | exact .refl _ | refine (State.land_keeps _ _ _).via ?_
    | refine (State.setCr_keeps _ _ _).via ?_ | refine .fold (fun _ _ => ?_) ?_ | intro _ | dsimp only
theorem State.landDue_keeps (s : State) (c : Nat) :
    Keeps s (State.landDue s c) := by
  unfold State.landDue
  with_reducible repeat' first
    | simp only [Keeps.upd_iff] | assumption | exact .refl _ | refine (State.setCr_keeps _ _ _).via ?_
    | refine (State.land_keeps _ _ _).via ?_ | refine .fold (fun _ _ => ?_) ?_ | intro _ | dsimp only
theorem State.reqRefused_keeps (s : State) (c : Nat) (b : Bool) :
    Keeps s (State.reqRefused s c b) := by
  unfold State.reqRefused
  with_reducible repeat' first
    | exact .refl _ | refine (State.putBit_keeps _ _ _ _).via ?_
theorem State.haltNow_keeps (s : State) (c why which : Nat) :
    Keeps s (State.haltNow s c why which) := by
  unfold State.haltNow
  with_reducible repeat' first
    | simp only [Keeps.upd_iff] | assumption | exact .refl _ | refine (State.setCoreState_keeps _ _ _).via ?_
    | refine (State.drain_keeps _ _).via ?_ | refine (State.putFld_keeps _ _ _ _ _).via ?_
    | refine (State.putBit_keeps _ _ _ _).via ?_ | refine (State.setCr_keeps _ _ _).via ?_
    | refine (State.corePost_keeps _ _ _ _).via ?_ | refine (State.coreIrq_keeps _ _ _).via ?_
    | refine (State.setRg_keeps _ _ _).via ?_ | intro _ | dsimp only
theorem State.haltAsk_keeps (s : State) (c why which : Nat) :
    Keeps s (State.haltAsk s c why which) := by
  unfold State.haltAsk
  with_reducible repeat' first
    | simp only [Keeps.upd_iff] | assumption | exact .refl _ | refine .ite ?_ ?_
    | refine (State.haltNow_keeps _ _ _ _).via ?_ | refine (State.setCr_keeps _ _ _).via ?_
    | refine (State.putBit_keeps _ _ _ _).via ?_ | intro _ | split | dsimp only
theorem State.takeHalt_keeps (s : State) (c : Nat) :
    Keeps s (State.takeHalt s c) := by
  unfold State.takeHalt
  with_reducible repeat' first
    | assumption | exact .refl _ | refine .ite ?_ ?_ | refine .ite2 ?_ ?_ | refine .ite1 ?_ ?_
    | refine (State.haltNow_keeps _ _ _ _).via ?_ | split | dsimp only
theorem State.startCore_keeps (s : State) (c entry : Nat) :
    Keeps s (State.startCore s c entry) := by
  unfold State.startCore
  with_reducible repeat' first
    | simp only [Keeps.upd_iff] | assumption | exact .refl _ | refine (State.setCr_keeps _ _ _).via ?_
    | refine (State.putFld_keeps _ _ _ _ _).via ?_ | refine (State.setCoreState_keeps _ _ _).via ?_
    | refine (State.setRg64_keeps _ _ _).via ?_ | refine (State.putBit_keeps _ _ _ _).via ?_
    | refine (State.corePost_keeps _ _ _ _).via ?_ | refine (State.setRg_keeps _ _ _).via ?_ | intro _ | dsimp only
theorem State.coreGo_keeps (s : State) (c : Nat) :
    Keeps s (State.coreGo s c) := by
  unfold State.coreGo
  with_reducible repeat' first
    | exact .refl _ | refine .ite ?_ ?_ | refine (State.reqRefused_keeps _ _ _).via ?_
    | refine (State.startCore_keeps _ _ _).via ?_ | split
theorem State.stopNow_keeps (s : State) (c : Nat) :
    Keeps s (State.stopNow s c) := by
  unfold State.stopNow
  with_reducible repeat' first
    | assumption | exact .refl _ | refine .ite ?_ ?_ | refine (State.putBit_keeps _ _ _ _).via ?_
    | refine (State.setCoreState_keeps _ _ _).via ?_ | refine (State.drain_keeps _ _).via ?_
    | refine (State.setCr_keeps _ _ _).via ?_ | refine (State.corePost_keeps _ _ _ _).via ?_
    | refine (State.setRg_keeps _ _ _).via ?_ | intro _ | split | dsimp only
theorem State.coreStop_keeps (s : State) (c : Nat) :
    Keeps s (State.coreStop s c) := by
  unfold State.coreStop
  with_reducible repeat' first
    | exact .refl _ | refine .ite ?_ ?_ | refine (State.reqRefused_keeps _ _ _).via ?_
    | refine (State.stopNow_keeps _ _).via ?_ | split
theorem State.coreHalt_keeps (s : State) (c : Nat) :
    Keeps s (State.coreHalt s c) := by
  unfold State.coreHalt
  with_reducible repeat' first
    | exact .refl _ | refine .ite ?_ ?_ | refine (State.haltAsk_keeps _ _ _ _).via ?_
    | refine (State.reqRefused_keeps _ _ _).via ?_ | split
theorem State.coreResume_keeps (s : State) (c : Nat) (step : Bool) :
    Keeps s (State.coreResume s c step) := by
  unfold State.coreResume
  with_reducible repeat' first
    | simp only [Keeps.upd_iff] | assumption | exact .refl _ | refine .ite ?_ ?_
    | refine (State.setCr_keeps _ _ _).via ?_ | refine (State.corePost_keeps _ _ _ _).via ?_
    | refine (State.setCoreState_keeps _ _ _).via ?_ | refine (State.reqRefused_keeps _ _ _).via ?_ | intro _ | split
    | dsimp only
theorem State.writeCoreCtrl_keeps (s : State) (c v : Nat) :
    Keeps s (State.writeCoreCtrl s c v) := by
  unfold State.writeCoreCtrl
  extract_lets s1 s2 s3 s4 s5 s6
  have h1 : Keeps s s1 := State.putBit_keeps _ _ _ _
  have h2 : Keeps s s2 := .ite h1 (.ite ((State.putBit_keeps _ _ _ _).via h1) ((State.putBit_keeps _ _ _ _).via h1))
  have h3 : Keeps s s3 := .ite ((State.coreGo_keeps _ _).via h2) h2
  have h4 : Keeps s s4 := .ite ((State.coreStop_keeps _ _).via h3) h3
  have h5 : Keeps s s5 := .ite ((State.coreHalt_keeps _ _).via h4) h4
  have h6 : Keeps s s6 := .ite ((State.coreResume_keeps _ _ _).via h5) h5
  exact .ite ((State.coreResume_keeps _ _ _).via h6) h6
theorem State.coreDisable_keeps (s : State) (c : Nat) :
    Keeps s (State.coreDisable s c).2 := by
  unfold State.coreDisable
  with_reducible repeat' first
    | exact .refl _ | refine .ite ?_ ?_ | refine .ite2 ?_ ?_ | refine (State.reqRefused_keeps _ _ _).via ?_
    | refine (State.stopNow_keeps _ _).via ?_ | split | dsimp only
theorem State.writeDbgWord_keeps (s : State) (m : Master) (c a v : Nat) :
    Keeps s (State.writeDbgWord s m c a v) := by
  unfold State.writeDbgWord
  with_reducible repeat' first
    | simp only [Keeps.upd_iff] | assumption | exact .refl _ | refine (State.setCr_keeps _ _ _).via ?_
    | refine (State.writeReg_keeps _ _ _ _ _).via ?_ | intro _ | dsimp only
theorem State.dbgRead_keeps (s : State) (c : Nat) :
    Keeps s (State.dbgRead s c).2 := by
  unfold State.dbgRead
  with_reducible repeat' first
    | exact .refl _ | refine .ite ?_ ?_ | refine .ite2 ?_ ?_ | refine (State.drain_keeps _ _).via ?_
    | refine (State.reqRefused_keeps _ _ _).via ?_ | split | dsimp only
theorem State.dbgWrite_keeps (s : State) (c v : Nat) :
    Keeps s (State.dbgWrite s c v) := by
  unfold State.dbgWrite
  with_reducible repeat' first
    | simp only [Keeps.upd_iff] | assumption | exact .refl _ | refine .ite ?_ ?_
    | refine (State.setCr_keeps _ _ _).via ?_ | refine (State.reqRefused_keeps _ _ _).via ?_
    | refine (State.setRg_keeps _ _ _).via ?_ | intro _ | split | dsimp only
theorem State.enterFaulted_keeps (s : State) (c cause pc : Nat) :
    Keeps s (State.enterFaulted s c cause pc) := by
  unfold State.enterFaulted
  with_reducible repeat' first
    | simp only [Keeps.upd_iff] | assumption | exact .refl _ | refine (State.putBit_keeps _ _ _ _).via ?_
    | refine (State.setCoreState_keeps _ _ _).via ?_ | refine (State.drain_keeps _ _).via ?_
    | refine (State.setCr_keeps _ _ _).via ?_ | refine (State.corePost_keeps _ _ _ _).via ?_
    | refine (State.coreIrq_keeps _ _ _).via ?_ | refine (State.setRg_keeps _ _ _).via ?_ | intro _ | dsimp only
theorem State.recordFault_keeps (s : State) (c cause pc : Nat) (addr : Option Nat) :
    Keeps s (State.recordFault s c cause pc addr) := by
  unfold State.recordFault
  with_reducible repeat' first
    | simp only [Keeps.upd_iff] | assumption | exact .refl _ | refine (State.setRg_keeps _ _ _).via ?_ | intro _
    | split | dsimp only
theorem State.enterVector_keeps (s : State) (c v pc : Nat) :
    Keeps s (State.enterVector s c v pc) := by
  unfold State.enterVector
  with_reducible repeat' first
    | simp only [Keeps.upd_iff] | assumption | exact .refl _ | refine .ite ?_ ?_
    | refine (State.setCr_keeps _ _ _).via ?_ | refine (State.drain_keeps _ _).via ?_ | intro _ | split | dsimp only
theorem State.faultAt_keeps (s : State) (c cause pc : Nat) (addr : Option Nat) :
    Keeps s (State.faultAt s c cause pc addr) := by
  unfold State.faultAt
  with_reducible repeat' first
    | exact .refl _ | refine .ite ?_ ?_ | refine (State.recordFault_keeps _ _ _ _ _).via ?_
    | refine (State.putBit_keeps _ _ _ _).via ?_ | refine (State.enterFaulted_keeps _ _ _ _).via ?_
    | refine (State.enterVector_keeps _ _ _ _).via ?_ | refine (State.coreIrq_keeps _ _ _).via ?_ | split | dsimp only
theorem State.vectorEntry_keeps (s : State) (k : Nat) :
    Keeps s (State.vectorEntry s k) := by
  unfold State.vectorEntry
  with_reducible repeat' first
    | simp only [Keeps.upd_iff] | assumption | exact .refl _ | refine .ite ?_ ?_
    | refine (State.landDue_keeps _ _).via ?_ | refine (State.enterFaulted_keeps _ _ _ _).via ?_
    | refine (State.recordFault_keeps _ _ _ _ _).via ?_ | refine (State.setRg_keeps _ _ _).via ?_
    | refine (State.enterVector_keeps _ _ _ _).via ?_ | intro _ | split | dsimp only
theorem State.vecEdge_keeps (s : State) (k v : Nat) :
    Keeps s (State.vecEdge s k v) := by
  unfold State.vecEdge
  with_reducible repeat' first
    | simp only [Keeps.upd_iff] | assumption | exact .refl _ | refine .ite ?_ ?_
    | refine (State.setCr_keeps _ _ _).via ?_ | intro _ | split | dsimp only
theorem State.writeWdog_keeps (s : State) (m : Master) (k v : Nat) :
    Keeps s (State.writeWdog s m k v) := by
  unfold State.writeWdog
  with_reducible repeat' first
    | simp only [Keeps.upd_iff] | assumption | exact .refl _ | refine .ite ?_ ?_
    | refine (State.writeReg_keeps _ _ _ _ _).via ?_ | refine (State.setCr_keeps _ _ _).via ?_ | intro _ | split
    | dsimp only
theorem State.wdogKick_keeps (s : State) (k v : Nat) :
    Keeps s (State.wdogKick s k v) := by
  unfold State.wdogKick
  with_reducible repeat' first
    | simp only [Keeps.upd_iff] | assumption | exact .refl _ | refine .ite ?_ ?_
    | refine (State.setCr_keeps _ _ _).via ?_ | intro _ | split | dsimp only
theorem State.wdogExpire_keeps (s : State) (k : Nat) :
    Keeps s (State.wdogExpire s k) := by
  unfold State.wdogExpire
  with_reducible repeat' first
    | simp only [Keeps.upd_iff] | assumption | exact .refl _ | refine .ite ?_ ?_
    | refine (State.recordFault_keeps _ _ _ _ _).via ?_ | refine (State.setCr_keeps _ _ _).via ?_
    | refine (State.corePost_keeps _ _ _ _).via ?_ | refine (State.coreIrq_keeps _ _ _).via ?_
    | refine (State.report_keeps _ _ _ _ _ _).via ?_ | refine (State.enterFaulted_keeps _ _ _ _).via ?_
    | refine (State.vecEdge_keeps _ _ _).via ?_ | intro _ | split | dsimp only
theorem State.timerFire_keeps (s : State) (k i : Nat) :
    Keeps s (State.timerFire s k i) := by
  unfold State.timerFire
  with_reducible repeat' first
    | exact .refl _ | refine .ite ?_ ?_ | refine (State.vecEdge_keeps _ _ _).via ?_
    | refine (State.putBit_keeps _ _ _ _).via ?_ | split
theorem State.coreHook_keeps (s : State) (m : Master) (c off v : Nat) :
    KeepsOpt s (State.coreHook s m c off v) := by
  unfold State.coreHook
  with_reducible repeat' first
    | exact .none _ | refine .some ?_ | exact .refl _ | refine .ite ?_ ?_
    | refine (State.writeCoreCtrl_keeps _ _ _).via ?_ | refine (State.writeReg_keeps _ _ _ _ _).via ?_
    | refine (State.putBit_keeps _ _ _ _).via ?_ | refine (State.writeDbgWord_keeps _ _ _ _ _).via ?_
    | refine (State.dbgWrite_keeps _ _ _).via ?_ | refine (State.vecEdge_keeps _ _ _).via ?_
    | refine (State.writeWdog_keeps _ _ _ _).via ?_ | refine (State.wdogKick_keeps _ _ _).via ?_ | split | dsimp only
theorem State.breakpointHit_keeps (s : State) (c : Nat) :
    Keeps s (State.breakpointHit s c) := by
  unfold State.breakpointHit
  with_reducible repeat' first
    | simp only [Keeps.upd_iff] | assumption | exact .refl _ | refine .ite ?_ ?_
    | refine (State.haltAsk_keeps _ _ _ _).via ?_ | intro _ | split
theorem State.watchpointHit_keeps (s : State) (c : Nat) :
    Keeps s (State.watchpointHit s c) := by
  unfold State.watchpointHit
  with_reducible repeat' first
    | exact .refl _ | refine .ite ?_ ?_ | refine .ite1 ?_ ?_ | refine (State.takeHalt_keeps _ _).via ?_ | split
    | dsimp only
theorem execVectorEntry_keeps (t : Time) (k : Fin 4) (s : State) :
    KeepsOutcome s (execVectorEntry t k s) := by
  unfold execVectorEntry
  with_reducible repeat' first
    | refine .next ?_ | exact .refl _ | refine (State.vectorEntry_keeps _ _).via ?_
    | refine (State.tick_keeps _ _).via ?_
theorem execWdogExpire_keeps (t : Time) (k : Fin 4) (s : State) :
    KeepsOutcome s (execWdogExpire t k s) := by
  unfold execWdogExpire
  with_reducible repeat' first
    | refine .next ?_ | exact .refl _ | refine (State.wdogExpire_keeps _ _).via ?_
    | refine (State.tick_keeps _ _).via ?_
theorem execWdogKick_keeps (t : Time) (_m : Master) (k : Fin 4) (v : Word) (s : State) :
    KeepsOutcome s (execWdogKick t _m k v s) := by
  unfold execWdogKick
  with_reducible repeat' first
    | refine .next ?_ | assumption | exact .refl _ | refine (State.onPage_keeps _ _ _ ?_).via ?_
    | refine (State.tick_keeps _ _).via ?_ | refine (State.wdogKick_keeps _ _ _).via ?_ | intro _ | dsimp only
theorem execMwTimerFire_keeps (t : Time) (k i : Fin 4) (s : State) :
    KeepsOutcome s (execMwTimerFire t k i s) := by
  unfold execMwTimerFire
  with_reducible repeat' first
    | refine .next ?_ | exact .refl _ | refine (State.timerFire_keeps _ _ _).via ?_
    | refine (State.tick_keeps _ _).via ?_
theorem execDoorbell_keeps (t : Time) (_m : Master) (k : Fin 4) (s : State) :
    KeepsOutcome s (execDoorbell t _m k s) := by
  unfold execDoorbell
  with_reducible repeat' first
    | refine .next ?_ | assumption | exact .refl _ | refine (State.onPage_keeps _ _ _ ?_).via ?_
    | refine (State.tick_keeps _ _).via ?_ | refine (State.vecEdge_keeps _ _ _).via ?_ | intro _ | dsimp only
theorem State.ctrlReq_keeps (s : State) (c bit_ : Nat) :
    Keeps s (State.ctrlReq s c bit_) := by
  unfold State.ctrlReq
  with_reducible repeat' first
    | assumption | exact .refl _ | refine (State.onPage_keeps _ _ _ ?_).via ?_
    | refine (State.writeCoreCtrl_keeps _ _ _).via ?_ | intro _ | dsimp only
theorem execCoreGo_keeps (t : Time) (_m : Master) (c : Fin 32) (s : State) :
    KeepsOutcome s (execCoreGo t _m c s) := by
  unfold execCoreGo
  with_reducible repeat' first
    | refine .next ?_ | exact .refl _ | refine (State.ctrlReq_keeps _ _ _).via ?_
    | refine (State.tick_keeps _ _).via ?_
theorem execCoreStop_keeps (t : Time) (_m : Master) (c : Fin 32) (s : State) :
    KeepsOutcome s (execCoreStop t _m c s) := by
  unfold execCoreStop
  with_reducible repeat' first
    | refine .next ?_ | exact .refl _ | refine (State.ctrlReq_keeps _ _ _).via ?_
    | refine (State.tick_keeps _ _).via ?_
theorem execCoreHalt_keeps (t : Time) (_m : Master) (c : Fin 32) (s : State) :
    KeepsOutcome s (execCoreHalt t _m c s) := by
  unfold execCoreHalt
  with_reducible repeat' first
    | refine .next ?_ | exact .refl _ | refine (State.ctrlReq_keeps _ _ _).via ?_
    | refine (State.tick_keeps _ _).via ?_
theorem execHalted_keeps (t : Time) (c : Fin 33) (s : State) :
    KeepsOutcome s (execHalted t c s) := by
  unfold execHalted
  with_reducible repeat' first
    | refine .next ?_ | exact .refl _ | refine (State.takeHalt_keeps _ _).via ?_
    | refine (State.tick_keeps _ _).via ?_
theorem execCoreResume_keeps (t : Time) (_m : Master) (c : Fin 32) (s : State) :
    KeepsOutcome s (execCoreResume t _m c s) := by
  unfold execCoreResume
  with_reducible repeat' first
    | refine .next ?_ | exact .refl _ | refine (State.ctrlReq_keeps _ _ _).via ?_
    | refine (State.tick_keeps _ _).via ?_
theorem execCoreStep_keeps (t : Time) (_m : Master) (c : Fin 32) (s : State) :
    KeepsOutcome s (execCoreStep t _m c s) := by
  unfold execCoreStep
  with_reducible repeat' first
    | refine .next ?_ | exact .refl _ | refine (State.ctrlReq_keeps _ _ _).via ?_
    | refine (State.tick_keeps _ _).via ?_
theorem execBreakpointHit_keeps (t : Time) (c : Fin 33) (s : State) :
    KeepsOutcome s (execBreakpointHit t c s) := by
  unfold execBreakpointHit
  with_reducible repeat' first
    | refine .next ?_ | exact .refl _ | refine (State.breakpointHit_keeps _ _).via ?_
    | refine (State.tick_keeps _ _).via ?_
theorem execWatchpointHit_keeps (t : Time) (c : Fin 33) (s : State) :
    KeepsOutcome s (execWatchpointHit t c s) := by
  unfold execWatchpointHit
  with_reducible repeat' first
    | refine .next ?_ | exact .refl _ | refine (State.watchpointHit_keeps _ _).via ?_
    | refine (State.tick_keeps _ _).via ?_
theorem execDbgDataRead_keeps (t : Time) (_m : Master) (c : Fin 32) (s : State) :
    KeepsOutcome s (execDbgDataRead t _m c s) := by
  unfold execDbgDataRead
  with_reducible repeat' first
    | refine .next ?_ | simp only [Keeps.upd_iff] | exact .refl _ | refine (State.dbgRead_keeps _ _).via ?_
    | refine (State.tick_keeps _ _).via ?_ | dsimp only
theorem execDbgDataWrite_keeps (t : Time) (_m : Master) (c : Fin 32) (v : Word) (s : State) :
    KeepsOutcome s (execDbgDataWrite t _m c v s) := by
  unfold execDbgDataWrite
  with_reducible repeat' first
    | refine .next ?_ | assumption | exact .refl _ | refine (State.onPage_keeps _ _ _ ?_).via ?_
    | refine (State.tick_keeps _ _).via ?_ | refine (State.dbgWrite_keeps _ _ _).via ?_ | intro _ | dsimp only

end Sys2Proof.Machine
end

