-- ==== Sys2Proof/Laws/KeepsBist.lean ====
section
/-! SUPPORT. The operations of Machine/Bist.lean keep the queue and the canonical form (`Keeps`). -/

set_option linter.unusedTactic false
set_option linter.unreachableTactic false
set_option linter.unusedSimpArgs false

namespace Sys2Proof.Machine

theorem State.setBist_keeps (s : State) (f : BistSt → BistSt) :
    Keeps s (State.setBist s f) := by
  unfold State.setBist
  with_reducible repeat' first
    | simp only [Keeps.upd_iff] | exact .refl _
theorem State.zeroMem_keeps (s : State) (lo hi : Nat) :
    Keeps s (State.zeroMem s lo hi) := by
  exact ⟨rfl, fun c => ⟨Memory.wf_clear _ _ _ c.mem, c.regs, c.pages, c.sels⟩⟩
theorem State.bistStart_keeps (s : State) (m : Master) :
    Keeps s (State.bistStart s m) := by
  unfold State.bistStart
  with_reducible repeat' first
    | simp only [Keeps.upd_iff] | assumption | exact .refl _ | refine .ite ?_ ?_
    | refine (State.cmdRefused_keeps _ _).via ?_ | refine (State.putFld_keeps _ _ _ _ _).via ?_
    | refine (State.putBit_keeps _ _ _ _).via ?_ | refine (State.setBist_keeps _ _).via ?_
    | refine (State.setRg_keeps _ _ _).via ?_ | refine (State.setCoreState_keeps _ _ _).via ?_
    | refine (State.setHop_keeps _ _).via ?_ | intro _ | split | dsimp only
theorem State.bistClean_keeps (s : State) (r : BistRun) :
    Keeps s (State.bistClean s r) := by
  unfold State.bistClean
  with_reducible repeat' first
    | simp only [Keeps.upd_iff] | assumption | exact .refl _ | refine .ite ?_ ?_
    | refine (State.setBist_keeps _ _).via ?_ | refine (State.zeroMem_keeps _ _ _).via ?_
    | refine (State.setRg_keeps _ _ _).via ?_ | refine (State.setCoreState_keeps _ _ _).via ?_
    | refine (State.setCr_keeps _ _ _).via ?_ | refine (State.hopClearAll_keeps _).via ?_
    | refine (State.setHop_keeps _ _).via ?_ | refine .fold (fun _ _ => ?_) ?_ | intro _ | split | dsimp only
theorem State.showFails_keeps (s : State) (fs : List BistFail) :
    Keeps s (State.showFails s fs) := by
  unfold State.showFails
  with_reducible repeat' first
    | simp only [Keeps.upd_iff] | assumption | exact .refl _ | refine (State.setRg_keeps _ _ _).via ?_
    | refine .getD ?_ ?_ | refine .fold (fun _ _ => ?_) ?_ | intro _ | split | dsimp only
theorem State.bistStop_keeps (s : State) :
    Keeps s (State.bistStop s) := by
  unfold State.bistStop
  with_reducible repeat' first
    | simp only [Keeps.upd_iff] | assumption | exact .refl _ | refine (State.setBist_keeps _ _).via ?_
    | refine (State.bistClean_keeps _ _).via ?_ | refine (State.irq_keeps _ _ _).via ?_
    | refine (State.setRg_keeps _ _ _).via ?_ | refine (State.showFails_keeps _ _).via ?_
    | refine (State.putFld_keeps _ _ _ _ _).via ?_ | intro _ | split | dsimp only
theorem State.bistDrop_keeps (s : State) :
    Keeps s (State.bistDrop s) := by
  unfold State.bistDrop
  with_reducible repeat' first
    | simp only [Keeps.upd_iff] | assumption | exact .refl _ | refine (State.putFld_keeps _ _ _ _ _).via ?_
    | refine (State.bistClean_keeps _ _).via ?_ | intro _ | split
theorem State.bistDisable_keeps (s : State) (c : Nat) :
    Keeps s (State.bistDisable s c) := by
  unfold State.bistDisable
  with_reducible repeat' first
    | exact .refl _ | refine .ite ?_ ?_ | refine (State.bistStop_keeps _).via ?_ | split
theorem State.bistEnd_keeps (s : State) (x : BistResult) :
    Keeps s (State.bistEnd s x) := by
  unfold State.bistEnd
  with_reducible repeat' first
    | simp only [Keeps.upd_iff] | assumption | exact .refl _ | refine .ite ?_ ?_
    | refine (State.setBist_keeps _ _).via ?_ | refine (State.bistClean_keeps _ _).via ?_
    | refine (State.showFails_keeps _ _).via ?_ | refine (State.setRg_keeps _ _ _).via ?_
    | refine (State.putFld_keeps _ _ _ _ _).via ?_ | refine (State.putBit_keeps _ _ _ _).via ?_
    | refine (State.count_keeps _ _ _ _ _).via ?_ | refine (State.irq_keeps _ _ _).via ?_ | intro _ | split
    | dsimp only
theorem State.bistRepair_keeps (s : State) (i : Nat) :
    Keeps s (State.bistRepair s i) := by
  unfold State.bistRepair
  with_reducible repeat' first
    | simp only [Keeps.upd_iff] | exact .refl _ | refine .ite ?_ ?_ | refine .ite2 ?_ ?_ | refine .ite1 ?_ ?_
    | refine (State.irq_keeps _ _ _).via ?_ | refine (State.cmdRefused_keeps _ _).via ?_
    | refine (State.putFld_keeps _ _ _ _ _).via ?_ | refine (State.freeIn_keeps _ _ _).via ?_
    | refine (State.free_keeps _).via ?_ | refine (State.putBit_keeps _ _ _ _).via ?_ | refine .getD ?_ ?_ | split
    | dsimp only
theorem State.writeBistCmd_keeps (s : State) (m : Master) (v : Nat) :
    Keeps s (State.writeBistCmd s m v) := by
  unfold State.writeBistCmd
  with_reducible repeat' first
    | simp only [Keeps.upd_iff] | assumption | exact .refl _ | refine (State.bistStart_keeps _ _).via ?_
    | refine (State.bistStop_keeps _).via ?_ | refine (State.bistRepair_keeps _ _).via ?_
    | refine (State.cmdRefused_keeps _ _).via ?_ | intro _ | split
theorem State.bistHook_keeps (s : State) (m : Master) (off v : Nat) :
    KeepsOpt s (State.bistHook s m off v) := by
  unfold State.bistHook
  with_reducible repeat' first
    | exact .none _ | refine .some ?_ | exact .refl _ | refine .ite ?_ ?_
    | refine (State.writeBistCmd_keeps _ _ _).via ?_ | refine (State.cfgRefused_keeps _ _).via ?_ | split
theorem execBistStart_keeps (t : Time) (m : Master) (s : State) :
    KeepsOutcome s (execBistStart t m s) := by
  unfold execBistStart
  with_reducible repeat' first
    | refine .next ?_ | assumption | exact .refl _ | refine (State.onPage_keeps _ _ _ ?_).via ?_
    | refine (State.tick_keeps _ _).via ?_ | refine (State.writeBistCmd_keeps _ _ _).via ?_ | intro _ | dsimp only
theorem execBistAbort_keeps (t : Time) (m : Master) (s : State) :
    KeepsOutcome s (execBistAbort t m s) := by
  unfold execBistAbort
  with_reducible repeat' first
    | refine .next ?_ | assumption | exact .refl _ | refine (State.onPage_keeps _ _ _ ?_).via ?_
    | refine (State.tick_keeps _ _).via ?_ | refine (State.writeBistCmd_keeps _ _ _).via ?_ | intro _ | dsimp only
theorem execBistRunEnd_keeps (t : Time) (x : BistResult) (s : State) :
    KeepsOutcome s (execBistRunEnd t x s) := by
  unfold execBistRunEnd
  with_reducible repeat' first
    | refine .next ?_ | exact .refl _ | refine (State.bistEnd_keeps _ _).via ?_ | refine (State.tick_keeps _ _).via ?_
theorem execBistRepair_keeps (t : Time) (m : Master) (i : Fin 8) (s : State) :
    KeepsOutcome s (execBistRepair t m i s) := by
  unfold execBistRepair
  with_reducible repeat' first
    | refine .next ?_ | assumption | exact .refl _ | refine (State.onPage_keeps _ _ _ ?_).via ?_
    | refine (State.tick_keeps _ _).via ?_ | refine (State.writeBistCmd_keeps _ _ _).via ?_ | intro _ | dsimp only

end Sys2Proof.Machine
end

