-- ==== Sys2Proof/Laws/KeepsWeir.lean ====
section
/-! SUPPORT. The operations of Machine/Weir.lean keep the queue and the canonical form (`Keeps`). -/

set_option linter.unusedTactic false
set_option linter.unreachableTactic false
set_option linter.unusedSimpArgs false

namespace Sys2Proof.Machine

theorem State.enqueue_keeps (s : State) (q : Nat) (e : EvRec) :
    Keeps s (State.enqueue s q e) := by
  unfold State.enqueue
  with_reducible repeat' first
    | simp only [Keeps.upd_iff] | assumption | exact .refl _ | refine .ite ?_ ?_
    | refine (State.count_keeps _ _ _ _ _).via ?_ | refine (State.irq_keeps _ _ _).via ?_
    | refine (State.hopRecord_keeps _ _ _ _).via ?_ | refine (State.report_keeps _ _ _ _ _ _).via ?_ | split
    | dsimp only
theorem State.deliverRec_keeps (s : State) (e : EvRec) :
    Keeps s (State.deliverRec s e) := by
  unfold State.deliverRec
  with_reducible repeat' first
    | assumption | exact .refl _ | refine .ite ?_ ?_ | refine (State.enqueue_keeps _ _ _).via ?_
    | refine .fold (fun _ _ => ?_) ?_ | intro _ | split | dsimp only
theorem State.overflowPosts_keeps (s : State) (edge : Time) :
    Keeps s (State.overflowPosts s edge) := by
  unfold State.overflowPosts
  with_reducible repeat' first
    | simp only [Keeps.upd_iff] | assumption | exact .refl _ | refine .ite ?_ ?_ | refine .ite2 ?_ ?_
    | refine .ite1 ?_ ?_ | refine .fold (fun _ _ => ?_) ?_ | refine .fold1 (fun _ _ => ?_) ?_
    | refine .fold2 (fun _ _ => ?_) ?_ | intro _ | split | dsimp only
theorem State.deliverOne_keeps (s : State) (edge : Time) (e : EvRec) :
    Keeps s (State.deliverOne s edge e) := by
  unfold State.deliverOne
  with_reducible repeat' first
    | simp only [Keeps.upd_iff] | exact .refl _ | refine .ite ?_ ?_ | refine (State.irq_keeps _ _ _).via ?_
    | refine (State.count_keeps _ _ _ _ _).via ?_ | refine (State.deliverRec_keeps _ _).via ?_ | split | dsimp only
theorem State.deliverUpTo_keeps (edge : Time) (x1 : Nat) (x2 : State) :
    Keeps x2 (State.deliverUpTo edge x1 x2).1 := by
  induction x1 generalizing x2 with
  | zero => exact .refl _
  | succ n ih =>
    unfold State.deliverUpTo
    split
    · exact .refl _
    · exact (ih _).via (State.deliverOne_keeps _ _ _)
theorem State.weirOwn_keeps (s : State) (edge : Time) (src code payload : Nat) :
    Keeps s (State.weirOwn s edge src code payload) := by
  unfold State.weirOwn
  with_reducible repeat' first
    | simp only [Keeps.upd_iff] | exact .refl _
theorem State.markStalled_keeps (s : State) (edge : Time) (src : Nat) :
    Keeps s (State.markStalled s edge src) := by
  unfold State.markStalled
  with_reducible repeat' first
    | simp only [Keeps.upd_iff] | exact .refl _ | refine .ite ?_ ?_ | refine (State.putBit_keeps _ _ _ _).via ?_
    | refine (State.putFld_keeps _ _ _ _ _).via ?_ | refine (State.weirOwn_keeps _ _ _ _ _).via ?_
    | refine (State.irq_keeps _ _ _).via ?_ | split | dsimp only
theorem State.stallEdge_keeps (s : State) (edge : Time) (lags : List Nat) :
    Keeps s (State.stallEdge s edge lags) := by
  unfold State.stallEdge
  with_reducible repeat' first
    | simp only [Keeps.upd_iff] | assumption | exact .refl _ | refine .ite ?_ ?_
    | refine (State.markStalled_keeps _ _ _).via ?_ | refine .fold (fun _ _ => ?_) ?_ | intro _ | split | dsimp only
theorem State.weirEdge_keeps (s : State) (lag : List Nat) :
    Keeps s (State.weirEdge s lag).1 := by
  unfold State.weirEdge
  with_reducible repeat' first
    | exact .refl _ | refine (State.stallEdge_keeps _ _ _).via ?_ | refine (State.deliverUpTo_keeps _ _ _).via ?_
    | refine (State.overflowPosts_keeps _ _).via ?_ | dsimp only
theorem State.weirPost_keeps (s : State) (src code : Nat) (stamp : Time) (payload : Nat) :
    Keeps s (State.weirPost s src code stamp payload) := by
  unfold State.weirPost
  with_reducible repeat' first
    | exact .refl _ | refine .ite ?_ ?_ | refine (State.weirOwn_keeps _ _ _ _ _).via ?_
    | refine (State.irq_keeps _ _ _).via ?_ | refine (State.count_keeps _ _ _ _ _).via ?_
    | refine (State.post_keeps _ _ _ _ _).via ?_ | split
theorem execWeirPost_keeps (t : Time) (src : Fin 1024) (code : Fin 64) (stamp : Time) (payload : BitVec 48) (s : State) :
    KeepsOutcome s (execWeirPost t src code stamp payload s) := by
  unfold execWeirPost
  with_reducible repeat' first
    | refine .next ?_ | exact .refl _ | refine .ite ?_ ?_ | refine (State.tick_keeps _ _).via ?_
    | refine (State.weirPost_keeps _ _ _ _ _).via ?_ | split | dsimp only
theorem execStallClear_keeps (t : Time) (s : State) :
    KeepsOutcome s (execStallClear t s) := by
  unfold execStallClear
  with_reducible repeat' first
    | refine .next ?_ | simp only [Keeps.upd_iff] | exact .refl _ | refine .ite ?_ ?_
    | refine (State.tick_keeps _ _).via ?_ | refine (State.putBit_keeps _ _ _ _).via ?_ | split | dsimp only
theorem State.weirInject_keeps (s : State) (v : Nat) :
    Keeps s (State.weirInject s v) := by
  unfold State.weirInject
  with_reducible repeat' first
    | exact .refl _ | refine .ite ?_ ?_ | refine (State.putBit_keeps _ _ _ _).via ?_
    | refine (State.post_keeps _ _ _ _ _).via ?_ | split | dsimp only
theorem execWeirInject_keeps (t : Time) (_m : Master) (v : DWord) (s : State) :
    KeepsOutcome s (execWeirInject t _m v s) := by
  unfold execWeirInject
  with_reducible repeat' first
    | refine .next ?_ | assumption | exact .refl _ | refine (State.tick_keeps _ _).via ?_
    | refine (State.onPage_keeps _ _ _ ?_).via ?_ | refine (State.weirInject_keeps _ _).via ?_ | intro _ | dsimp only
theorem State.weirPop_keeps (s : State) (m : Option Master) (pg q : Nat) :
    Keeps s (State.weirPop s m pg q).2 := by
  unfold State.weirPop
  with_reducible repeat' first
    | simp only [Keeps.upd_iff] | assumption | exact .refl _ | refine .ite ?_ ?_ | refine .ite2 ?_ ?_ | intro _
    | split | dsimp only
theorem State.weirPopWord_keeps (s : State) (m : Option Master) (pg q i : Nat) :
    Keeps s (State.weirPopWord s m pg q i).2 := by
  unfold State.weirPopWord
  with_reducible repeat' first
    | simp only [Keeps.upd_iff] | assumption | exact .refl _ | refine .ite ?_ ?_ | refine .ite2 ?_ ?_
    | refine (State.pairErr_keeps _ _).via ?_ | intro _ | split | dsimp only
theorem State.ret_keeps (s : State) (w : Word) :
    Keeps s (State.ret s w) := by
  unfold State.ret
  with_reducible repeat' first
    | simp only [Keeps.upd_iff] | exact .refl _
theorem State.ret2_keeps (s : State) (lo hi : Word) :
    Keeps s (State.ret2 s lo hi) := by
  unfold State.ret2
  with_reducible repeat' first
    | simp only [Keeps.upd_iff] | exact .refl _
theorem execWeirPop_keeps (t : Time) (m : Master) (q : Fin 8) (wide : Bool) (s : State) :
    KeepsOutcome s (execWeirPop t m q wide s) := by
  unfold execWeirPop
  with_reducible repeat' first
    | refine .next ?_ | exact .refl _ | refine .ite ?_ ?_ | refine .ite2 ?_ ?_ | refine .ite1 ?_ ?_
    | refine (State.weirPop_keeps _ _ _ _).via ?_ | refine (State.tick_keeps _ _).via ?_
    | refine (State.weirPopWord_keeps _ _ _ _ _).via ?_ | refine (State.ret2_keeps _ _ _).via ?_
    | refine (State.ret_keeps _ _).via ?_ | split | dsimp only
theorem execWeirPopWord_keeps (t : Time) (m : Master) (q : Fin 8) (i : Fin 4) (s : State) :
    KeepsOutcome s (execWeirPopWord t m q i s) := by
  unfold execWeirPopWord
  with_reducible repeat' first
    | refine .next ?_ | exact .refl _ | refine (State.weirPopWord_keeps _ _ _ _ _).via ?_
    | refine (State.tick_keeps _ _).via ?_ | refine (State.ret_keeps _ _).via ?_ | dsimp only

end Sys2Proof.Machine
end

