-- ==== Sys2Proof/Laws/KeepsCan.lean ====
section
/-! SUPPORT. The operations of Machine/Can.lean keep the queue and the canonical form (`Keeps`). -/

set_option linter.unusedTactic false
set_option linter.unreachableTactic false
set_option linter.unusedSimpArgs false

namespace Sys2Proof.Machine

theorem State.canPost_keeps (s : State) (n code payload : Nat) :
    Keeps s (State.canPost s n code payload) := by
  unfold State.canPost
  with_reducible repeat' first
    | exact .refl _ | refine (State.post_keeps _ _ _ _ _).via ?_
theorem State.canDrive_keeps (s : State) (n : Nat) (d : CanDrive) :
    Keeps s (State.canDrive s n d) := by
  unfold State.canDrive
  with_reducible repeat' first
    | simp only [Keeps.upd_iff] | assumption | exact .refl _ | refine (State.setCan_keeps _ _ _).via ?_ | intro _
    | dsimp only
theorem State.canShow_keeps (s : State) (n : Nat) :
    Keeps s (State.canShow s n) := by
  unfold State.canShow
  with_reducible repeat' first
    | exact .refl _ | refine (State.setRg_keeps _ _ _).via ?_ | dsimp only
theorem State.canSetErr_keeps (s : State) (n e : Nat) :
    Keeps s (State.canSetErr s n e) := by
  unfold State.canSetErr
  with_reducible repeat' first
    | exact .refl _ | refine .ite ?_ ?_ | refine (State.irq_keeps _ _ _).via ?_
    | refine (State.canPost_keeps _ _ _ _).via ?_ | refine (State.putFld_keeps _ _ _ _ _).via ?_ | split
theorem State.txbSet_keeps (s : State) (n b st : Nat) :
    Keeps s (State.txbSet s n b st) := by
  unfold State.txbSet
  with_reducible repeat' first
    | exact .refl _ | refine (State.putBit_keeps _ _ _ _).via ?_ | refine (State.putFld_keeps _ _ _ _ _).via ?_
theorem State.txbEnd_keeps (s : State) (n b outcome : Nat) :
    Keeps s (State.txbEnd s n b outcome) := by
  unfold State.txbEnd
  with_reducible repeat' first
    | exact .refl _ | refine (State.putFld_keeps _ _ _ _ _).via ?_ | refine (State.txbSet_keeps _ _ _ _).via ?_
theorem State.txbFail_keeps (s : State) (n b outcome reason : Nat) :
    Keeps s (State.txbFail s n b outcome reason) := by
  unfold State.txbFail
  with_reducible repeat' first
    | exact .refl _ | refine (State.irq_keeps _ _ _).via ?_ | refine (State.canPost_keeps _ _ _ _).via ?_
    | refine (State.txbEnd_keeps _ _ _ _).via ?_
theorem State.txbAborted_keeps (s : State) (n b : Nat) :
    Keeps s (State.txbAborted s n b) := by
  unfold State.txbAborted
  with_reducible repeat' first
    | exact .refl _ | refine (State.irq_keeps _ _ _).via ?_ | refine (State.canPost_keeps _ _ _ _).via ?_
    | refine (State.txbEnd_keeps _ _ _ _).via ?_
theorem State.canRecover_keeps (s : State) (n : Nat) :
    Keeps s (State.canRecover s n) := by
  unfold State.canRecover
  with_reducible repeat' first
    | exact .refl _ | refine (State.putFld_keeps _ _ _ _ _).via ?_ | refine (State.putBit_keeps _ _ _ _).via ?_
theorem State.canBusOff_keeps (s : State) (n : Nat) :
    Keeps s (State.canBusOff s n) := by
  unfold State.canBusOff
  with_reducible repeat' first
    | assumption | exact .refl _ | refine .ite ?_ ?_ | refine (State.canDrive_keeps _ _ _).via ?_
    | refine (State.txbFail_keeps _ _ _ _ _).via ?_ | refine (State.canRecover_keeps _ _).via ?_
    | refine .fold (fun _ _ => ?_) ?_ | intro _ | split | dsimp only
theorem State.canJudge_keeps (s : State) (n : Nat) :
    Keeps s (State.canJudge s n) := by
  unfold State.canJudge
  with_reducible repeat' first
    | exact .refl _ | refine .ite ?_ ?_ | refine (State.canSetErr_keeps _ _ _).via ?_
    | refine (State.canShow_keeps _ _).via ?_ | refine (State.canBusOff_keeps _ _).via ?_ | split | dsimp only
theorem State.canBusError_keeps (s : State) (n type : Nat) :
    Keeps s (State.canBusError s n type) := by
  unfold State.canBusError
  with_reducible repeat' first
    | exact .refl _ | refine .ite ?_ ?_ | refine (State.count_keeps _ _ _ _ _).via ?_
    | refine (State.irq_keeps _ _ _).via ?_ | refine (State.canPost_keeps _ _ _ _).via ?_ | split | dsimp only
theorem State.canEnter_keeps (s : State) (n : Nat) :
    Keeps s (State.canEnter s n) := by
  unfold State.canEnter
  with_reducible repeat' first
    | simp only [Keeps.upd_iff] | assumption | exact .refl _ | refine .ite ?_ ?_
    | refine (State.canShow_keeps _ _).via ?_ | refine (State.canSetErr_keeps _ _ _).via ?_
    | refine (State.setCan_keeps _ _ _).via ?_ | refine (State.putFld_keeps _ _ _ _ _).via ?_
    | refine (State.putBit_keeps _ _ _ _).via ?_ | intro _ | split | dsimp only
theorem State.canEnable_keeps (s : State) (n : Nat) :
    Keeps s (State.canEnable s n) := by
  unfold State.canEnable
  with_reducible repeat' first
    | simp only [Keeps.upd_iff] | assumption | exact .refl _ | refine (State.canEnter_keeps _ _).via ?_
    | refine (State.setCan_keeps _ _ _).via ?_ | intro _ | dsimp only
theorem State.writeErrCnt_keeps (s : State) (n v : Nat) :
    Keeps s (State.writeErrCnt s n v) := by
  unfold State.writeErrCnt
  with_reducible repeat' first
    | simp only [Keeps.upd_iff] | assumption | exact .refl _ | refine .ite ?_ ?_
    | refine (State.canJudge_keeps _ _).via ?_ | refine (State.setCan_keeps _ _ _).via ?_ | intro _ | split
    | dsimp only
theorem State.writeCanCtrl_keeps (s : State) (n v : Nat) :
    Keeps s (State.writeCanCtrl s n v) := by
  unfold State.writeCanCtrl
  with_reducible repeat' first
    | exact .refl _ | refine .ite ?_ ?_ | refine (State.setRg_keeps _ _ _).via ?_
    | refine (State.canEnter_keeps _ _).via ?_ | split | dsimp only
theorem State.writeCanTiming_keeps (s : State) (n : Nat) (d : Bool) (v : Nat) :
    Keeps s (State.writeCanTiming s n d v) := by
  unfold State.writeCanTiming
  with_reducible repeat' first
    | exact .refl _ | refine .ite ?_ ?_ | refine (State.cfgRefused_keeps _ _).via ?_
    | refine (State.setRg_keeps _ _ _).via ?_ | split | dsimp only
theorem State.writeFlt_keeps (s : State) (n a : Nat) (v : Word) :
    Keeps s (State.writeFlt s n a v) := by
  unfold State.writeFlt
  with_reducible repeat' first
    | simp only [Keeps.upd_iff] | assumption | exact .refl _ | refine (State.setRg_keeps _ _ _).via ?_
    | refine (State.setCan_keeps _ _ _).via ?_ | intro _ | dsimp only
theorem State.canAccept_keeps (s : State) (n : Nat) (f : CanFrame) (sof arb : Time) :
    Keeps s (State.canAccept s n f sof arb) := by
  unfold State.canAccept
  with_reducible repeat' first
    | simp only [Keeps.upd_iff] | assumption | exact .refl _ | refine .ite ?_ ?_ | refine .ite2 ?_ ?_
    | refine .ite1 ?_ ?_ | refine (State.setCan_keeps _ _ _).via ?_ | refine (State.canStore_keeps _ _ _).via ?_
    | refine .getD ?_ ?_ | intro _ | split | dsimp only
theorem State.canRxError_keeps (s : State) (n type : Nat) (k : CanSteps) :
    Keeps s (State.canRxError s n type k) := by
  unfold State.canRxError
  with_reducible repeat' first
    | simp only [Keeps.upd_iff] | assumption | exact .refl _ | refine .ite ?_ ?_
    | refine (State.canDrive_keeps _ _ _).via ?_ | refine (State.canJudge_keeps _ _).via ?_
    | refine (State.canBusError_keeps _ _ _).via ?_ | refine (State.setCan_keeps _ _ _).via ?_
    | refine (State.putBit_keeps _ _ _ _).via ?_ | intro _ | split | dsimp only
theorem State.canRxOk_keeps (s : State) (n : Nat) :
    Keeps s (State.canRxOk s n) := by
  unfold State.canRxOk
  with_reducible repeat' first
    | simp only [Keeps.upd_iff] | assumption | exact .refl _ | refine .ite ?_ ?_ | refine .ite2 ?_ ?_
    | refine .ite1 ?_ ?_ | refine (State.canJudge_keeps _ _).via ?_ | refine (State.setCan_keeps _ _ _).via ?_
    | refine (State.freeIn_keeps _ _ _).via ?_ | intro _ | split | dsimp only
theorem State.canRes_keeps (s : State) (n : Nat) :
    Keeps s (State.canRes s n) := by
  unfold State.canRes
  with_reducible repeat' first
    | simp only [Keeps.upd_iff] | assumption | exact .refl _ | refine .ite ?_ ?_
    | refine (State.canPost_keeps _ _ _ _).via ?_ | refine (State.canRxError_keeps _ _ _ _).via ?_
    | refine (State.setCan_keeps _ _ _).via ?_ | refine (State.putBit_keeps _ _ _ _).via ?_
    | refine (State.count_keeps _ _ _ _ _).via ?_ | refine (State.irq_keeps _ _ _).via ?_ | intro _ | split
    | dsimp only
theorem State.canRx_keeps (s : State) (n : Nat) (f : CanFrame) (sof arb : Time) (at_ : CanRxAt) :
    Keeps s (State.canRx s n f sof arb at_) := by
  unfold State.canRx
  with_reducible repeat' first
    | simp only [Keeps.upd_iff] | assumption | exact .refl _ | refine (State.canDrive_keeps _ _ _).via ?_
    | refine (State.canAccept_keeps _ _ _ _ _).via ?_ | refine (State.canRxOk_keeps _ _).via ?_
    | refine (State.canRes_keeps _ _).via ?_ | refine (State.putBit_keeps _ _ _ _).via ?_ | intro _ | split
    | dsimp only
theorem execCanRx_keeps (t : Time) (n : Fin 16) (f : CanFrame) (sof arb : Time) (res : CanRxAt) (s : State) :
    KeepsOutcome s (execCanRx t n f sof arb res s) := by
  unfold execCanRx
  with_reducible repeat' first
    | refine .next ?_ | assumption | exact .refl _ | refine .ite ?_ ?_ | refine (State.canRx_keeps _ _ _ _ _ _).via ?_
    | refine (State.tick_keeps _ _).via ?_ | split | dsimp only
theorem execCanRxError_keeps (t : Time) (n : Fin 16) (type : Fin 5) (k : CanSteps) (s : State) :
    KeepsOutcome s (execCanRxError t n type k s) := by
  unfold execCanRxError
  with_reducible repeat' first
    | refine .next ?_ | assumption | exact .refl _ | refine .ite ?_ ?_
    | refine (State.canRxError_keeps _ _ _ _).via ?_ | refine (State.tick_keeps _ _).via ?_ | split | dsimp only
theorem State.canPop_keeps (s : State) (m : Master) (n q : Nat) :
    Keeps s (State.canPop s m n q).2 := by
  unfold State.canPop
  with_reducible repeat' first
    | simp only [Keeps.upd_iff] | assumption | exact .refl _ | refine (State.setCan_keeps _ _ _).via ?_
    | refine (State.canLevel_keeps _ _ _).via ?_ | refine (State.canRoom_keeps _ _ _).via ?_ | intro _ | split
    | dsimp only
theorem State.canPopWord_keeps (s : State) (m : Master) (n q i : Nat) :
    Keeps s (State.canPopWord s m n q i).2 := by
  unfold State.canPopWord
  with_reducible repeat' first
    | simp only [Keeps.upd_iff] | assumption | exact .refl _ | refine .ite ?_ ?_ | refine .ite2 ?_ ?_
    | refine (State.setCan_keeps _ _ _).via ?_ | refine (State.pairErr_keeps _ _).via ?_ | intro _ | split
    | dsimp only
theorem execRxqPop_keeps (t : Time) (m : Master) (n : Fin 16) (q : Fin 2) (i : Fin 20) (wide : Bool) (s : State) :
    KeepsOutcome s (execRxqPop t m n q i wide s) := by
  unfold execRxqPop
  with_reducible repeat' first
    | refine .next ?_ | exact .refl _ | refine .ite ?_ ?_ | refine .ite2 ?_ ?_ | refine .ite1 ?_ ?_
    | refine (State.canPop_keeps _ _ _ _).via ?_ | refine (State.canPopWord_keeps _ _ _ _ _).via ?_
    | refine (State.tick_keeps _ _).via ?_ | refine (State.ret2_keeps _ _ _).via ?_
    | refine (State.ret_keeps _ _).via ?_ | split | dsimp only
theorem State.txReqOne_keeps (s : State) (n b : Nat) :
    Keeps s (State.txReqOne s n b) := by
  unfold State.txReqOne
  with_reducible repeat' first
    | simp only [Keeps.upd_iff] | assumption | exact .refl _ | refine .ite ?_ ?_ | refine .ite2 ?_ ?_
    | refine .ite1 ?_ ?_ | refine (State.cmdRefused_keeps _ _).via ?_ | refine (State.irq_keeps _ _ _).via ?_
    | refine (State.canPost_keeps _ _ _ _).via ?_ | refine (State.putFld_keeps _ _ _ _ _).via ?_
    | refine (State.txbSet_keeps _ _ _ _).via ?_ | refine (State.setCan_keeps _ _ _).via ?_ | intro _ | split
    | dsimp only
theorem State.txReq_keeps (s : State) (n v : Nat) :
    Keeps s (State.txReq s n v) := by
  unfold State.txReq
  with_reducible repeat' first
    | assumption | exact .refl _ | refine .ite ?_ ?_ | refine (State.txReqOne_keeps _ _ _).via ?_
    | refine .fold (fun _ _ => ?_) ?_ | intro _ | split | dsimp only
theorem State.txAbortOne_keeps (s : State) (n b : Nat) :
    Keeps s (State.txAbortOne s n b) := by
  unfold State.txAbortOne
  with_reducible repeat' first
    | simp only [Keeps.upd_iff] | assumption | exact .refl _ | refine .ite ?_ ?_ | refine .ite2 ?_ ?_
    | refine .ite1 ?_ ?_ | refine (State.setCan_keeps _ _ _).via ?_ | refine (State.txbSet_keeps _ _ _ _).via ?_
    | refine (State.txbAborted_keeps _ _ _).via ?_ | intro _ | split | dsimp only
theorem State.txAbort_keeps (s : State) (n v : Nat) :
    Keeps s (State.txAbort s n v) := by
  unfold State.txAbort
  with_reducible repeat' first
    | assumption | exact .refl _ | refine .ite ?_ ?_ | refine (State.txAbortOne_keeps _ _ _).via ?_
    | refine .fold (fun _ _ => ?_) ?_ | intro _ | split | dsimp only
theorem State.canSelect_keeps (s : State) (n : Nat) :
    Keeps s (State.canSelect s n) := by
  unfold State.canSelect
  with_reducible repeat' first
    | simp only [Keeps.upd_iff] | assumption | exact .refl _ | refine .ite ?_ ?_
    | refine (State.txbSet_keeps _ _ _ _).via ?_ | refine (State.setCan_keeps _ _ _).via ?_
    | refine (State.putFld_keeps _ _ _ _ _).via ?_ | refine (State.putBit_keeps _ _ _ _).via ?_ | intro _ | split
    | dsimp only
theorem execCanTxSelect_keeps (t : Time) (n : Fin 16) (s : State) :
    KeepsOutcome s (execCanTxSelect t n s) := by
  unfold execCanTxSelect
  with_reducible repeat' first
    | refine .next ?_ | exact .refl _ | refine (State.canSelect_keeps _ _).via ?_
    | refine (State.tick_keeps _ _).via ?_
theorem State.txbRetry_keeps (s : State) (n b outcome reason : Nat) (give : Bool) :
    Keeps s (State.txbRetry s n b outcome reason give) := by
  unfold State.txbRetry
  with_reducible repeat' first
    | simp only [Keeps.upd_iff] | assumption | exact .refl _ | refine .ite ?_ ?_
    | refine (State.setCan_keeps _ _ _).via ?_ | refine (State.txbAborted_keeps _ _ _).via ?_
    | refine (State.txbFail_keeps _ _ _ _ _).via ?_ | refine (State.txbSet_keeps _ _ _ _).via ?_ | intro _ | split
    | dsimp only
theorem State.canAttemptEnd_keeps (s : State) (n : Nat) (res : CanEnd) (tdc : Option Nat) :
    Keeps s (State.canAttemptEnd s n res tdc) := by
  unfold State.canAttemptEnd
  with_reducible repeat' first
    | simp only [Keeps.upd_iff] | assumption | exact .refl _ | refine .ite ?_ ?_
    | refine (State.canPost_keeps _ _ _ _).via ?_ | refine (State.canDrive_keeps _ _ _).via ?_
    | refine (State.txbEnd_keeps _ _ _ _).via ?_ | refine (State.canJudge_keeps _ _).via ?_
    | refine (State.canBusError_keeps _ _ _).via ?_ | refine (State.canAccept_keeps _ _ _ _ _).via ?_
    | refine (State.txbRetry_keeps _ _ _ _ _ _).via ?_ | refine (State.setCan_keeps _ _ _).via ?_
    | refine (State.putFld_keeps _ _ _ _ _).via ?_ | refine (State.putBit_keeps _ _ _ _).via ?_
    | refine (State.setRg64_keeps _ _ _).via ?_ | refine (State.irq_keeps _ _ _).via ?_ | intro _ | split | dsimp only
theorem execCanTxAttemptEnd_keeps (t : Time) (n : Fin 16) (res : CanEnd) (tdc : Option Nat) (s : State) :
    KeepsOutcome s (execCanTxAttemptEnd t n res tdc s) := by
  unfold execCanTxAttemptEnd
  with_reducible repeat' first
    | refine .next ?_ | exact .refl _ | refine (State.canAttemptEnd_keeps _ _ _ _).via ?_
    | refine (State.tick_keeps _ _).via ?_
theorem State.boffRec_keeps (s : State) (n : Nat) :
    Keeps s (State.boffRec s n) := by
  unfold State.boffRec
  with_reducible repeat' first
    | exact .refl _ | refine .ite ?_ ?_ | refine (State.canRecover_keeps _ _).via ?_
    | refine (State.cmdRefused_keeps _ _).via ?_ | split
theorem State.boffDone_keeps (s : State) (n : Nat) :
    Keeps s (State.boffDone s n) := by
  unfold State.boffDone
  with_reducible repeat' first
    | simp only [Keeps.upd_iff] | assumption | exact .refl _ | refine .ite ?_ ?_
    | refine (State.putBit_keeps _ _ _ _).via ?_ | refine (State.setCan_keeps _ _ _).via ?_
    | refine (State.irq_keeps _ _ _).via ?_ | refine (State.canPost_keeps _ _ _ _).via ?_
    | refine (State.canSetErr_keeps _ _ _).via ?_ | refine (State.canShow_keeps _ _).via ?_ | intro _ | split
    | dsimp only
theorem State.recessive_keeps (s : State) (n : Nat) :
    Keeps s (State.recessive s n) := by
  unfold State.recessive
  with_reducible repeat' first
    | simp only [Keeps.upd_iff] | assumption | exact .refl _ | refine .ite ?_ ?_
    | refine (State.putFld_keeps _ _ _ _ _).via ?_ | refine (State.setCan_keeps _ _ _).via ?_ | intro _ | split
    | dsimp only
theorem execRecessiveSequence_keeps (t : Time) (n : Fin 16) (res : Bool) (s : State) :
    KeepsOutcome s (execRecessiveSequence t n res s) := by
  unfold execRecessiveSequence
  with_reducible repeat' first
    | refine .next ?_ | exact .refl _ | refine .ite ?_ ?_ | refine (State.tick_keeps _ _).via ?_
    | refine (State.recessive_keeps _ _).via ?_ | refine (State.canRes_keeps _ _).via ?_ | split | dsimp only
theorem execBoffRecovered_keeps (t : Time) (n : Fin 16) (s : State) :
    KeepsOutcome s (execBoffRecovered t n s) := by
  unfold execBoffRecovered
  with_reducible repeat' first
    | refine .next ?_ | exact .refl _ | refine (State.boffDone_keeps _ _).via ?_
    | refine (State.tick_keeps _ _).via ?_
theorem State.canHalt_keeps (s : State) (n : Nat) :
    Keeps s (State.canHalt s n) := by
  unfold State.canHalt
  with_reducible repeat' first
    | simp only [Keeps.upd_iff] | assumption | exact .refl _ | refine .ite ?_ ?_
    | refine (State.txbSet_keeps _ _ _ _).via ?_ | refine (State.txbAborted_keeps _ _ _).via ?_
    | refine (State.recessive_keeps _ _).via ?_ | refine (State.setCan_keeps _ _ _).via ?_
    | refine (State.putBit_keeps _ _ _ _).via ?_ | intro _ | split | dsimp only
theorem State.canDisable_keeps (s : State) (n : Nat) :
    Keeps s (State.canDisable s n) := by
  unfold State.canDisable
  with_reducible repeat' first
    | exact .refl _ | refine (State.canEnter_keeps _ _).via ?_ | refine (State.canHalt_keeps _ _).via ?_
theorem State.canStopAll_keeps (s : State) :
    Keeps s (State.canStopAll s) := by
  unfold State.canStopAll
  with_reducible repeat' first
    | assumption | exact .refl _ | refine (State.canHalt_keeps _ _).via ?_ | refine .fold (fun _ _ => ?_) ?_ | intro _
    | dsimp only
theorem State.canRestartAll_keeps (s : State) :
    Keeps s (State.canRestartAll s) := by
  unfold State.canRestartAll
  with_reducible repeat' first
    | simp only [Keeps.upd_iff] | assumption | exact .refl _ | refine (State.setCan_keeps _ _ _).via ?_
    | refine .fold (fun _ _ => ?_) ?_ | intro _ | dsimp only
theorem State.canHook_keeps (s : State) (n off v : Nat) :
    KeepsOpt s (State.canHook s n off v) := by
  unfold State.canHook
  with_reducible repeat' first
    | exact .none _ | refine .some ?_ | assumption | exact .refl _ | refine .ite ?_ ?_
    | refine (State.writeErrCnt_keeps _ _ _).via ?_ | refine (State.writeCanCtrl_keeps _ _ _).via ?_
    | refine (State.writeCanTiming_keeps _ _ _ _).via ?_ | refine (State.writeFlt_keeps _ _ _ _).via ?_
    | refine (State.txReq_keeps _ _ _).via ?_ | refine (State.txAbort_keeps _ _ _).via ?_
    | refine (State.boffRec_keeps _ _).via ?_ | split | dsimp only
theorem State.txbHook_keeps (s : State) (n b off : Nat) :
    KeepsOpt s (State.txbHook s n b off) := by
  unfold State.txbHook
  with_reducible repeat' first
    | exact .none _ | refine .some ?_ | exact .refl _ | refine .ite ?_ ?_ | refine (State.cfgRefused_keeps _ _).via ?_
    | split
theorem execCanModeWrite_keeps (t : Time) (_m : Master) (n : Fin 16) (v : Word) (s : State) :
    KeepsOutcome s (execCanModeWrite t _m n v s) := by
  unfold execCanModeWrite
  with_reducible repeat' first
    | refine .next ?_ | assumption | exact .refl _ | refine (State.onPage_keeps _ _ _ ?_).via ?_
    | refine (State.tick_keeps _ _).via ?_ | refine (State.writeCanCtrl_keeps _ _ _).via ?_ | intro _ | dsimp only
theorem execCanModeChange_keeps (t : Time) (n : Fin 16) (s : State) :
    KeepsOutcome s (execCanModeChange t n s) := by
  unfold execCanModeChange
  with_reducible repeat' first
    | refine .next ?_ | assumption | exact .refl _ | refine .ite ?_ ?_ | refine (State.canEnter_keeps _ _).via ?_
    | refine (State.tick_keeps _ _).via ?_ | split | dsimp only
theorem execCanTimingWrite_keeps (t : Time) (_m : Master) (n : Fin 16) (d : Bool) (v : Word) (s : State) :
    KeepsOutcome s (execCanTimingWrite t _m n d v s) := by
  unfold execCanTimingWrite
  with_reducible repeat' first
    | refine .next ?_ | assumption | exact .refl _ | refine (State.onPage_keeps _ _ _ ?_).via ?_
    | refine (State.tick_keeps _ _).via ?_ | refine (State.writeCanTiming_keeps _ _ _ _).via ?_ | intro _ | dsimp only
theorem execTxReq_keeps (t : Time) (_m : Master) (n : Fin 16) (v : Word) (s : State) :
    KeepsOutcome s (execTxReq t _m n v s) := by
  unfold execTxReq
  with_reducible repeat' first
    | refine .next ?_ | assumption | exact .refl _ | refine (State.onPage_keeps _ _ _ ?_).via ?_
    | refine (State.tick_keeps _ _).via ?_ | refine (State.txReq_keeps _ _ _).via ?_ | intro _ | dsimp only
theorem execTxAbort_keeps (t : Time) (_m : Master) (n : Fin 16) (v : Word) (s : State) :
    KeepsOutcome s (execTxAbort t _m n v s) := by
  unfold execTxAbort
  with_reducible repeat' first
    | refine .next ?_ | assumption | exact .refl _ | refine (State.onPage_keeps _ _ _ ?_).via ?_
    | refine (State.tick_keeps _ _).via ?_ | refine (State.txAbort_keeps _ _ _).via ?_ | intro _ | dsimp only
theorem execBoffRec_keeps (t : Time) (_m : Master) (n : Fin 16) (s : State) :
    KeepsOutcome s (execBoffRec t _m n s) := by
  unfold execBoffRec
  with_reducible repeat' first
    | refine .next ?_ | assumption | exact .refl _ | refine (State.onPage_keeps _ _ _ ?_).via ?_
    | refine (State.tick_keeps _ _).via ?_ | refine (State.boffRec_keeps _ _).via ?_ | intro _ | dsimp only

end Sys2Proof.Machine
end

