-- ==== Sys2Proof/Laws/KeepsSlot.lean ====
section
/-! SUPPORT. The operations of Machine/Slot.lean keep the queue and the canonical form (`Keeps`). -/

set_option linter.unusedTactic false
set_option linter.unreachableTactic false
set_option linter.unusedSimpArgs false

namespace Sys2Proof.Machine

theorem State.setPw_keeps (s : State) (n : Nat) (f : PwmSt → PwmSt) :
    Keeps s (State.setPw s n f) := by
  unfold State.setPw
  with_reducible repeat' first
    | simp only [Keeps.upd_iff] | exact .refl _
theorem State.setPs_keeps (s : State) (n : Nat) (f : PspSt → PspSt) :
    Keeps s (State.setPs s n f) := by
  unfold State.setPs
  with_reducible repeat' first
    | simp only [Keeps.upd_iff] | exact .refl _
theorem State.setGate_keeps (s : State) (n i : Nat) (f : Gate → Gate) :
    Keeps s (State.setGate s n i f) := by
  unfold State.setGate
  with_reducible repeat' first
    | simp only [Keeps.upd_iff] | assumption | exact .refl _ | refine (State.setPw_keeps _ _ _).via ?_ | intro _
    | dsimp only
theorem State.gateOff_keeps (s : State) (n i : Nat) (t : Time) :
    Keeps s (State.gateOff s n i t) := by
  unfold State.gateOff
  with_reducible repeat' first
    | simp only [Keeps.upd_iff] | assumption | exact .refl _ | refine (State.setPw_keeps _ _ _).via ?_ | intro _
    | dsimp only
theorem State.cmdOff_keeps (s : State) (n i : Nat) :
    Keeps s (State.cmdOff s n i) := by
  unfold State.cmdOff
  with_reducible repeat' first
    | simp only [Keeps.upd_iff] | assumption | exact .refl _ | refine .ite ?_ ?_
    | refine (State.gateOff_keeps _ _ _ _).via ?_ | refine (State.post_keeps _ _ _ _ _).via ?_
    | refine (State.irq_keeps _ _ _).via ?_ | refine (State.count_keeps _ _ _ _ _).via ?_
    | refine (State.setGate_keeps _ _ _ _).via ?_ | intro _ | split | dsimp only
theorem State.stepOff_keeps (s : State) (n i : Nat) :
    Keeps s (State.stepOff s n i) := by
  unfold State.stepOff
  with_reducible repeat' first
    | simp only [Keeps.upd_iff] | assumption | exact .refl _ | refine .ite ?_ ?_ | refine .ite2 ?_ ?_
    | refine .ite1 ?_ ?_ | refine (State.setGate_keeps _ _ _ _).via ?_ | refine (State.gateOff_keeps _ _ _ _).via ?_
    | refine (State.cmdOff_keeps _ _ _).via ?_ | intro _ | split | dsimp only
theorem State.overlap_keeps (s : State) (n : Nat) :
    Keeps s (State.overlap s n) := by
  unfold State.overlap
  with_reducible repeat' first
    | simp only [Keeps.upd_iff] | assumption | exact .refl _ | refine (State.setGate_keeps _ _ _ _).via ?_
    | refine (State.irq_keeps _ _ _).via ?_ | refine (State.count_keeps _ _ _ _ _).via ?_
    | refine (State.putBit_keeps _ _ _ _).via ?_ | refine (State.setPs_keeps _ _ _).via ?_
    | refine (State.postNow_keeps _ _ _ _).via ?_ | intro _ | dsimp only
theorem State.stepOn_keeps (s : State) (n i : Nat) :
    Keeps s (State.stepOn s n i) := by
  unfold State.stepOn
  with_reducible repeat' first
    | simp only [Keeps.upd_iff] | assumption | exact .refl _ | refine .ite ?_ ?_ | refine .ite1 ?_ ?_
    | refine (State.overlap_keeps _ _).via ?_ | refine (State.setGate_keeps _ _ _ _).via ?_ | intro _ | split
    | dsimp only
theorem State.risingEdges_keeps (s : State) (n rising : Nat) :
    Keeps s (State.risingEdges s n rising) := by
  unfold State.risingEdges
  with_reducible repeat' first
    | simp only [Keeps.upd_iff] | assumption | exact .refl _ | refine .ite ?_ ?_
    | refine (State.setPs_keeps _ _ _).via ?_ | refine (State.putFld_keeps _ _ _ _ _).via ?_ | intro _ | split
    | dsimp only
theorem State.injectEnd_keeps (s : State) (n : Nat) :
    Keeps s (State.injectEnd s n) := by
  unfold State.injectEnd
  with_reducible repeat' first
    | simp only [Keeps.upd_iff] | assumption | exact .refl _ | refine .ite ?_ ?_ | refine .ite2 ?_ ?_
    | refine .ite1 ?_ ?_ | refine (State.putBit_keeps _ _ _ _).via ?_ | refine (State.setPs_keeps _ _ _).via ?_
    | refine .fold (fun _ _ => ?_) ?_ | refine .fold1 (fun _ _ => ?_) ?_ | refine .fold2 (fun _ _ => ?_) ?_ | intro _
    | split | dsimp only
theorem State.putMask_keeps (s : State) (n m : Nat) (ovr : Bool) (at_ : Time) :
    Keeps s (State.putMask s n m ovr at_) := by
  unfold State.putMask
  with_reducible repeat' first
    | exact .refl _ | refine .ite ?_ ?_ | refine (State.putBit_keeps _ _ _ _).via ?_
    | refine (State.post_keeps _ _ _ _ _).via ?_ | refine (State.putFld_keeps _ _ _ _ _).via ?_ | split | dsimp only
theorem State.pickMask_keeps (s : State) (n : Nat) (at_ : Time) :
    Keeps s (State.pickMask s n at_) := by
  unfold State.pickMask
  with_reducible repeat' first
    | exact .refl _ | refine .ite ?_ ?_ | refine (State.putMask_keeps _ _ _ _ _).via ?_ | split
theorem State.maskStep_keeps (s : State) (n : Nat) :
    Keeps s (State.maskStep s n) := by
  unfold State.maskStep
  with_reducible repeat' first
    | simp only [Keeps.upd_iff] | assumption | exact .refl _ | refine .ite ?_ ?_
    | refine (State.setPw_keeps _ _ _).via ?_ | refine (State.putFld_keeps _ _ _ _ _).via ?_
    | refine (State.pickMask_keeps _ _ _).via ?_ | intro _ | split | dsimp only
theorem State.chopSet_keeps (s : State) (n : Nat) (on : Bool) :
    Keeps s (State.chopSet s n on) := by
  unfold State.chopSet
  with_reducible repeat' first
    | assumption | exact .refl _ | refine (State.putBit_keeps _ _ _ _).via ?_ | dsimp only
theorem State.chopStep_keeps (s : State) (n : Nat) :
    Keeps s (State.chopStep s n) := by
  unfold State.chopStep
  with_reducible repeat' first
    | simp only [Keeps.upd_iff] | assumption | exact .refl _ | refine .ite ?_ ?_ | refine .ite2 ?_ ?_
    | refine .ite1 ?_ ?_ | refine (State.putBit_keeps _ _ _ _).via ?_ | refine (State.irq_keeps _ _ _).via ?_
    | refine (State.postNow_keeps _ _ _ _).via ?_ | refine (State.setPs_keeps _ _ _).via ?_
    | refine (State.chopSet_keeps _ _ _).via ?_ | intro _ | split | dsimp only
theorem State.gateEval_keeps (s0 : State) (n : Nat) :
    Keeps s0 (State.gateEval s0 n) := by
  unfold State.gateEval
  with_reducible repeat' first
    | simp only [Keeps.upd_iff] | assumption | exact .refl _ | refine .ite ?_ ?_
    | refine (State.putFld_keeps _ _ _ _ _).via ?_ | refine (State.setPw_keeps _ _ _).via ?_
    | refine (State.stepOff_keeps _ _ _).via ?_ | refine (State.stepOn_keeps _ _ _).via ?_
    | refine (State.risingEdges_keeps _ _ _).via ?_ | refine (State.injectEnd_keeps _ _).via ?_
    | refine (State.maskStep_keeps _ _).via ?_ | refine (State.chopStep_keeps _ _).via ?_
    | refine .fold (fun _ _ => ?_) ?_ | intro _ | split | dsimp only
theorem State.ascEnter_keeps (s : State) (n attr : Nat) :
    Keeps s (State.ascEnter s n attr) := by
  unfold State.ascEnter
  with_reducible repeat' first
    | simp only [Keeps.upd_iff] | assumption | exact .refl _ | refine .ite ?_ ?_
    | refine (State.putBit_keeps _ _ _ _).via ?_ | refine (State.postNow_keeps _ _ _ _).via ?_
    | refine (State.irq_keeps _ _ _).via ?_ | refine (State.setPs_keeps _ _ _).via ?_ | intro _ | split | dsimp only
theorem State.ascLeave_keeps (s : State) (n : Nat) :
    Keeps s (State.ascLeave s n) := by
  unfold State.ascLeave
  with_reducible repeat' first
    | exact .refl _ | refine (State.putBit_keeps _ _ _ _).via ?_
theorem State.ascSync_keeps (s : State) (n : Nat) :
    Keeps s (State.ascSync s n) := by
  unfold State.ascSync
  with_reducible repeat' first
    | assumption | exact .refl _ | refine .ite ?_ ?_ | refine (State.putBit_keeps _ _ _ _).via ?_
    | refine (State.ascEnter_keeps _ _ _).via ?_ | split | dsimp only
theorem State.slotReport_keeps (s : State) (n : Nat) :
    Keeps s (State.slotReport s n) := by
  unfold State.slotReport
  with_reducible repeat' first
    | exact .refl _ | refine .ite ?_ ?_ | refine (State.reportClear_keeps _ _ _).via ?_
    | refine (State.report_keeps _ _ _ _ _ _).via ?_ | split
theorem State.slotEcho_keeps (s : State) (n : Nat) :
    Keeps s (State.slotEcho s n) := by
  unfold State.slotEcho
  with_reducible repeat' first
    | simp only [Keeps.upd_iff] | assumption | exact .refl _ | refine (State.slotReport_keeps _ _).via ?_ | intro _
    | dsimp only
theorem State.ascReport_keeps (s : State) (n : Nat) (was : Bool) :
    Keeps s (State.ascReport s n was) := by
  unfold State.ascReport
  with_reducible repeat' first
    | assumption | exact .refl _ | refine .ite ?_ ?_ | refine (State.slotReport_keeps _ _).via ?_
    | refine (State.slotEcho_keeps _ _).via ?_ | split | dsimp only
theorem State.applyLevel_keeps (s : State) (n attr : Nat) :
    Keeps s (State.applyLevel s n attr) := by
  unfold State.applyLevel
  with_reducible repeat' first
    | simp only [Keeps.upd_iff] | assumption | exact .refl _ | refine .ite ?_ ?_
    | refine (State.putFld_keeps _ _ _ _ _).via ?_ | refine (State.putBit_keeps _ _ _ _).via ?_
    | refine (State.setPs_keeps _ _ _).via ?_ | refine (State.ascEnter_keeps _ _ _).via ?_
    | refine (State.ascLeave_keeps _ _).via ?_ | intro _ | split | dsimp only
theorem State.raiseLevel_keeps (s : State) (n l : Nat) :
    Keeps s (State.raiseLevel s n l) := by
  unfold State.raiseLevel
  with_reducible repeat' first
    | simp only [Keeps.upd_iff] | assumption | exact .refl _ | refine .ite ?_ ?_
    | refine (State.slotReport_keeps _ _).via ?_ | refine (State.applyLevel_keeps _ _ _).via ?_
    | refine (State.setPs_keeps _ _ _).via ?_ | intro _ | split | dsimp only
theorem State.timerStep_keeps (s : State) (n : Nat) (t : Time) :
    Keeps s (State.timerStep s n t) := by
  unfold State.timerStep
  with_reducible repeat' first
    | simp only [Keeps.upd_iff] | assumption | exact .refl _ | refine .ite ?_ ?_
    | refine (State.raiseLevel_keeps _ _ _).via ?_ | intro _ | split
theorem State.latchSrc_keeps (s0 : State) (n k lvl : Nat) :
    Keeps s0 (State.latchSrc s0 n k lvl) := by
  unfold State.latchSrc
  with_reducible repeat' first
    | simp only [Keeps.upd_iff] | assumption | exact .refl _ | refine .ite ?_ ?_
    | refine (State.putBit_keeps _ _ _ _).via ?_ | refine (State.irq_keeps _ _ _).via ?_
    | refine (State.postNow_keeps _ _ _ _).via ?_ | refine (State.setPs_keeps _ _ _).via ?_
    | refine (State.gateEval_keeps _ _).via ?_ | refine (State.slotReport_keeps _ _).via ?_
    | refine (State.applyLevel_keeps _ _ _).via ?_ | refine (State.timerStep_keeps _ _ _).via ?_ | intro _ | split
    | dsimp only
theorem State.slotEval_keeps (s : State) (n : Nat) :
    Keeps s (State.slotEval s n) := by
  unfold State.slotEval
  with_reducible repeat' first
    | simp only [Keeps.upd_iff] | assumption | exact .refl _ | refine .ite ?_ ?_
    | refine (State.gateEval_keeps _ _).via ?_ | refine (State.latchSrc_keeps _ _ _ _).via ?_
    | refine (State.setPs_keeps _ _ _).via ?_ | intro _ | split | dsimp only
theorem State.slotEvalAll_keeps (s : State) :
    Keeps s (State.slotEvalAll s) := by
  unfold State.slotEvalAll
  with_reducible repeat' first
    | assumption | exact .refl _ | refine (State.slotEval_keeps _ _).via ?_ | refine .fold (fun _ _ => ?_) ?_
    | intro _ | dsimp only

end Sys2Proof.Machine
end

