-- ==== Sys2Proof/Laws/KeepsPsp.lean ====
section
/-! SUPPORT. The operations of Machine/Psp.lean keep the queue and the canonical form (`Keeps`). -/

set_option linter.unusedTactic false
set_option linter.unreachableTactic false
set_option linter.unusedSimpArgs false

namespace Sys2Proof.Machine

theorem State.cbcTrip_keeps (s : State) (n k : Nat) :
    Keeps s (State.cbcTrip s n k) := by
  unfold State.cbcTrip
  with_reducible repeat' first
    | simp only [Keeps.upd_iff] | assumption | exact .refl _ | refine .ite ?_ ?_
    | refine (State.irq_keeps _ _ _).via ?_ | refine (State.count_keeps _ _ _ _ _).via ?_
    | refine (State.setPs_keeps _ _ _).via ?_ | refine (State.postNow_keeps _ _ _ _).via ?_
    | refine (State.latchSrc_keeps _ _ _ _).via ?_ | refine (State.slotEval_keeps _ _).via ?_ | intro _ | split
    | dsimp only
theorem State.ascFlta_keeps (s : State) (n : Nat) :
    Keeps s (State.ascFlta s n) := by
  unfold State.ascFlta
  with_reducible repeat' first
    | simp only [Keeps.upd_iff] | assumption | exact .refl _ | refine .ite ?_ ?_
    | refine (State.slotEval_keeps _ _).via ?_ | refine (State.postNow_keeps _ _ _ _).via ?_
    | refine (State.irq_keeps _ _ _).via ?_ | refine (State.putBit_keeps _ _ _ _).via ?_
    | refine (State.setPs_keeps _ _ _).via ?_ | intro _ | split | dsimp only
theorem State.srcAssert_keeps (s : State) (n k : Nat) :
    Keeps s (State.srcAssert s n k) := by
  unfold State.srcAssert
  with_reducible repeat' first
    | exact .refl _ | refine .ite ?_ ?_ | refine (State.ascFlta_keeps _ _).via ?_
    | refine (State.latchSrc_keeps _ _ _ _).via ?_ | refine (State.cbcTrip_keeps _ _ _).via ?_ | split | dsimp only
theorem State.srcSet_keeps (s0 : State) (n k : Nat) (level : Bool) :
    Keeps s0 (State.srcSet s0 n k level) := by
  unfold State.srcSet
  with_reducible repeat' first
    | assumption | exact .refl _ | refine .ite ?_ ?_ | refine .ite1 ?_ ?_ | refine (State.injectEnd_keeps _ _).via ?_
    | refine (State.putBit_keeps _ _ _ _).via ?_ | refine (State.srcAssert_keeps _ _ _).via ?_ | intro _ | split
    | dsimp only
theorem State.cmpMuteSync_keeps (s : State) (n : Nat) :
    Keeps s (State.cmpMuteSync s n) := by
  unfold State.cmpMuteSync
  with_reducible repeat' first
    | assumption | exact .refl _ | refine (State.srcSet_keeps _ _ _ _).via ?_ | refine .fold (fun _ _ => ?_) ?_
    | intro _ | dsimp only
theorem State.sdmInv_keeps (s : State) (n : Nat) :
    Keeps s (State.sdmInv s n) := by
  unfold State.sdmInv
  with_reducible repeat' first
    | exact .refl _ | refine (State.srcSet_keeps _ _ _ _).via ?_
theorem State.pspEnable_keeps (s : State) (n : Nat) :
    Keeps s (State.pspEnable s n) := by
  unfold State.pspEnable
  with_reducible repeat' first
    | assumption | exact .refl _ | refine .ite ?_ ?_ | refine (State.srcAssert_keeps _ _ _).via ?_
    | refine (State.injectEnd_keeps _ _).via ?_ | refine .fold (fun _ _ => ?_) ?_ | intro _ | split | dsimp only
theorem State.pspInject_keeps (s0 : State) (n : Nat) :
    Keeps s0 (State.pspInject s0 n) := by
  unfold State.pspInject
  with_reducible repeat' first
    | simp only [Keeps.upd_iff] | assumption | exact .refl _ | refine .ite ?_ ?_ | refine .ite1 ?_ ?_
    | refine (State.putFld_keeps _ _ _ _ _).via ?_ | refine (State.putBit_keeps _ _ _ _).via ?_
    | refine (State.srcAssert_keeps _ _ _).via ?_ | refine (State.setPs_keeps _ _ _).via ?_
    | refine (State.injectEnd_keeps _ _).via ?_ | intro _ | split | dsimp only
theorem State.raiseTo_keeps (s : State) (n l : Nat) :
    Keeps s (State.raiseTo s n l) := by
  unfold State.raiseTo
  with_reducible repeat' first
    | exact .refl _ | refine (State.slotEval_keeps _ _).via ?_ | refine (State.raiseLevel_keeps _ _ _).via ?_
theorem State.degradeTimeout_keeps (s : State) (n : Nat) :
    Keeps s (State.degradeTimeout s n) := by
  unfold State.degradeTimeout
  with_reducible repeat' first
    | exact .refl _ | refine .ite ?_ ?_ | refine (State.slotEval_keeps _ _).via ?_
    | refine (State.timerStep_keeps _ _ _).via ?_ | split
theorem State.stopTimeout_keeps (s : State) (n : Nat) :
    Keeps s (State.stopTimeout s n) := by
  unfold State.stopTimeout
  with_reducible repeat' first
    | exact .refl _ | refine .ite ?_ ?_ | refine (State.slotEval_keeps _ _).via ?_
    | refine (State.timerStep_keeps _ _ _).via ?_ | split
theorem State.slotStandstill_keeps (s : State) (n : Nat) :
    Keeps s (State.slotStandstill s n) := by
  unfold State.slotStandstill
  with_reducible repeat' first
    | exact .refl _ | refine .ite ?_ ?_ | refine (State.raiseTo_keeps _ _ _).via ?_ | split
theorem State.bwRequest_keeps (s : State) (n lvl : Nat) :
    Keeps s (State.bwRequest s n lvl) := by
  unfold State.bwRequest
  with_reducible repeat' first
    | simp only [Keeps.upd_iff] | assumption | exact .refl _ | refine .ite ?_ ?_
    | refine (State.setRg_keeps _ _ _).via ?_ | refine (State.irq_keeps _ _ _).via ?_
    | refine (State.postNow_keeps _ _ _ _).via ?_ | refine (State.setPs_keeps _ _ _).via ?_
    | refine (State.slotEcho_keeps _ _).via ?_ | refine (State.applyLevel_keeps _ _ _).via ?_
    | refine (State.slotEval_keeps _ _).via ?_ | intro _ | split | dsimp only
theorem State.bwArrive_keeps (s : State) (n : Nat) :
    Keeps s (State.bwArrive s n) := by
  unfold State.bwArrive
  with_reducible repeat' first
    | simp only [Keeps.upd_iff] | assumption | exact .refl _ | refine (State.bwRequest_keeps _ _ _).via ?_ | intro _
    | split | dsimp only
theorem State.endLatched_keeps (s : State) (n : Nat) :
    Keeps s (State.endLatched s n) := by
  unfold State.endLatched
  with_reducible repeat' first
    | simp only [Keeps.upd_iff] | assumption | exact .refl _ | refine .ite ?_ ?_
    | refine (State.applyLevel_keeps _ _ _).via ?_ | refine (State.setPs_keeps _ _ _).via ?_
    | refine (State.putBit_keeps _ _ _ _).via ?_ | intro _ | split | dsimp only
theorem State.clearBits_keeps (s0 : State) (n v : Nat) :
    Keeps s0 (State.clearBits s0 n v) := by
  unfold State.clearBits
  with_reducible repeat' first
    | simp only [Keeps.upd_iff] | assumption | exact .refl _ | refine .ite ?_ ?_ | refine .ite1 ?_ ?_
    | refine (State.setRg_keeps _ _ _).via ?_ | refine (State.irq_keeps _ _ _).via ?_
    | refine (State.postNow_keeps _ _ _ _).via ?_ | refine (State.endLatched_keeps _ _).via ?_
    | refine (State.setPs_keeps _ _ _).via ?_ | refine (State.injectEnd_keeps _ _).via ?_
    | refine (State.slotEcho_keeps _ _).via ?_ | refine (State.slotEval_keeps _ _).via ?_ | intro _ | split
    | dsimp only
theorem State.pspClear_keeps (s : State) (m : Master) (n v : Nat) :
    Keeps s (State.pspClear s m n v) := by
  unfold State.pspClear
  with_reducible repeat' first
    | simp only [Keeps.upd_iff] | assumption | exact .refl _ | refine .ite ?_ ?_
    | refine (State.putBit_keeps _ _ _ _).via ?_ | refine (State.setPs_keeps _ _ _).via ?_
    | refine (State.clearBits_keeps _ _ _).via ?_ | intro _ | split | dsimp only
theorem State.ascSample_keeps (s : State) (n vel : Nat) (valid : Bool) :
    Keeps s (State.ascSample s n vel valid) := by
  unfold State.ascSample
  with_reducible repeat' first
    | simp only [Keeps.upd_iff] | assumption | exact .refl _ | refine .ite ?_ ?_
    | refine (State.setPs_keeps _ _ _).via ?_ | refine (State.slotEval_keeps _ _).via ?_
    | refine (State.postNow_keeps _ _ _ _).via ?_ | refine (State.irq_keeps _ _ _).via ?_
    | refine (State.putBit_keeps _ _ _ _).via ?_ | intro _ | split | dsimp only
theorem State.testStart_keeps (s : State) (n v : Nat) :
    Keeps s (State.testStart s n v) := by
  unfold State.testStart
  with_reducible repeat' first
    | simp only [Keeps.upd_iff] | assumption | exact .refl _ | refine .ite ?_ ?_
    | refine (State.putBit_keeps _ _ _ _).via ?_ | refine (State.setRg_keeps _ _ _).via ?_
    | refine (State.setPs_keeps _ _ _).via ?_ | intro _ | split | dsimp only
theorem State.diagEval_keeps (s : State) :
    Keeps s (State.diagEval s) := by
  unfold State.diagEval
  with_reducible repeat' first
    | exact .refl _ | refine .ite ?_ ?_ | refine (State.putBit_keeps _ _ _ _).via ?_
    | refine (State.report_keeps _ _ _ _ _ _).via ?_ | refine (State.reportClear_keeps _ _ _).via ?_ | split
    | dsimp only
theorem State.testFinish_keeps (s : State) (n : Nat) (ts : TestSt) (result : Nat) :
    Keeps s (State.testFinish s n ts result) := by
  unfold State.testFinish
  with_reducible repeat' first
    | simp only [Keeps.upd_iff] | assumption | exact .refl _ | refine .ite ?_ ?_
    | refine (State.putBit_keeps _ _ _ _).via ?_ | refine (State.setPs_keeps _ _ _).via ?_
    | refine (State.putFld_keeps _ _ _ _ _).via ?_ | refine (State.postNow_keeps _ _ _ _).via ?_
    | refine (State.irq_keeps _ _ _).via ?_ | refine (State.count_keeps _ _ _ _ _).via ?_
    | refine (State.diagEval_keeps _).via ?_ | refine (State.report_keeps _ _ _ _ _ _).via ?_
    | refine (State.slotEval_keeps _ _).via ?_ | refine (State.clearBits_keeps _ _ _).via ?_ | intro _ | split
    | dsimp only
theorem State.chopInactive_keeps (s : State) (n : Nat) :
    Keeps s (State.chopInactive s n) := by
  unfold State.chopInactive
  with_reducible repeat' first
    | exact .refl _ | refine (State.putBit_keeps _ _ _ _).via ?_
theorem State.writeSrcCfg_keeps (s : State) (m : Master) (n k v : Nat) :
    Keeps s (State.writeSrcCfg s m n k v) := by
  unfold State.writeSrcCfg
  with_reducible repeat' first
    | exact .refl _ | refine .ite ?_ ?_ | refine (State.putBit_keeps _ _ _ _).via ?_
    | refine (State.writeReg_keeps _ _ _ _ _).via ?_ | split | dsimp only
theorem State.pspHook_keeps (s : State) (m : Master) (n off v : Nat) :
    KeepsOpt s (State.pspHook s m n off v) := by
  unfold State.pspHook
  with_reducible repeat' first
    | exact .none _ | refine .some ?_ | assumption | exact .refl _ | refine .ite ?_ ?_
    | refine (State.writeReg_keeps _ _ _ _ _).via ?_ | refine (State.pspClear_keeps _ _ _ _).via ?_
    | refine (State.testStart_keeps _ _ _).via ?_ | refine (State.chopInactive_keeps _ _).via ?_
    | refine (State.writeSrcCfg_keeps _ _ _ _ _).via ?_ | refine (State.ascSync_keeps _ _).via ?_
    | refine (State.ascReport_keeps _ _ _).via ?_ | refine (State.slotEval_keeps _ _).via ?_ | split | dsimp only
theorem execProtectionEnable_keeps (t : Time) (_m : Master) (n : Fin 48) (s : State) :
    KeepsOutcome s (execProtectionEnable t _m n s) := by
  unfold execProtectionEnable
  with_reducible repeat' first
    | refine .next ?_ | assumption | exact .refl _ | refine .ite ?_ ?_ | refine (State.onPage_keeps _ _ _ ?_).via ?_
    | refine (State.tick_keeps _ _).via ?_ | refine (State.pspEnable_keeps _ _).via ?_
    | refine (State.putBit_keeps _ _ _ _).via ?_ | intro _ | split | dsimp only
theorem execDegradeTimeout_keeps (t : Time) (n : Fin 48) (s : State) :
    KeepsOutcome s (execDegradeTimeout t n s) := by
  unfold execDegradeTimeout
  with_reducible repeat' first
    | refine .next ?_ | exact .refl _ | refine (State.degradeTimeout_keeps _ _).via ?_
    | refine (State.tick_keeps _ _).via ?_
theorem execStopTimeout_keeps (t : Time) (n : Fin 48) (s : State) :
    KeepsOutcome s (execStopTimeout t n s) := by
  unfold execStopTimeout
  with_reducible repeat' first
    | refine .next ?_ | exact .refl _ | refine (State.stopTimeout_keeps _ _).via ?_
    | refine (State.tick_keeps _ _).via ?_
theorem execProtectionClear_keeps (t : Time) (m : Master) (n : Fin 48) (v : Word) (s : State) :
    KeepsOutcome s (execProtectionClear t m n v s) := by
  unfold execProtectionClear
  with_reducible repeat' first
    | refine .next ?_ | assumption | exact .refl _ | refine (State.onPage_keeps _ _ _ ?_).via ?_
    | refine (State.tick_keeps _ _).via ?_ | refine (State.pspClear_keeps _ _ _ _).via ?_ | intro _ | dsimp only
theorem execBwRequest_keeps (t : Time) (n : Fin 48) (s : State) :
    KeepsOutcome s (execBwRequest t n s) := by
  unfold execBwRequest
  with_reducible repeat' first
    | refine .next ?_ | exact .refl _ | refine (State.bwArrive_keeps _ _).via ?_
    | refine (State.tick_keeps _ _).via ?_
theorem State.gateArrive_keeps (s : State) (n : Nat) :
    Keeps s (State.gateArrive s n) := by
  unfold State.gateArrive
  with_reducible repeat' first
    | simp only [Keeps.upd_iff] | assumption | exact .refl _ | refine (State.setPw_keeps _ _ _).via ?_
    | refine .fold (fun _ _ => ?_) ?_ | refine .fold1 (fun _ _ => ?_) ?_ | refine .fold2 (fun _ _ => ?_) ?_ | intro _
    | dsimp only
theorem execSlotStoGate_keeps (t : Time) (n : Fin 48) (s : State) :
    KeepsOutcome s (execSlotStoGate t n s) := by
  unfold execSlotStoGate
  with_reducible repeat' first
    | refine .next ?_ | exact .refl _ | refine (State.slotEval_keeps _ _).via ?_
    | refine (State.gateArrive_keeps _ _).via ?_ | refine (State.tick_keeps _ _).via ?_
theorem execSelfTestStart_keeps (t : Time) (_m : Master) (n : Fin 48) (v : Word) (s : State) :
    KeepsOutcome s (execSelfTestStart t _m n v s) := by
  unfold execSelfTestStart
  with_reducible repeat' first
    | refine .next ?_ | assumption | exact .refl _ | refine (State.onPage_keeps _ _ _ ?_).via ?_
    | refine (State.tick_keeps _ _).via ?_ | refine (State.testStart_keeps _ _ _).via ?_ | intro _ | dsimp only
theorem execChopLimit_keeps (t : Time) (n : Fin 48) (s : State) :
    KeepsOutcome s (execChopLimit t n s) := by
  unfold execChopLimit
  with_reducible repeat' first
    | refine .next ?_ | assumption | exact .refl _ | refine (State.tick_keeps _ _).via ?_
    | refine (State.slotEval_keeps _ _).via ?_ | dsimp only
theorem execChopCoolEnd_keeps (t : Time) (n : Fin 48) (s : State) :
    KeepsOutcome s (execChopCoolEnd t n s) := by
  unfold execChopCoolEnd
  with_reducible repeat' first
    | refine .next ?_ | assumption | exact .refl _ | refine (State.tick_keeps _ _).via ?_
    | refine (State.slotEval_keeps _ _).via ?_ | dsimp only
theorem execChopStale_keeps (t : Time) (n : Fin 48) (s : State) :
    KeepsOutcome s (execChopStale t n s) := by
  unfold execChopStale
  with_reducible repeat' first
    | refine .next ?_ | assumption | exact .refl _ | refine (State.tick_keeps _ _).via ?_
    | refine (State.slotEval_keeps _ _).via ?_ | dsimp only
theorem execChopMinOnEnd_keeps (t : Time) (n : Fin 48) (s : State) :
    KeepsOutcome s (execChopMinOnEnd t n s) := by
  unfold execChopMinOnEnd
  with_reducible repeat' first
    | refine .next ?_ | assumption | exact .refl _ | refine (State.tick_keeps _ _).via ?_
    | refine (State.slotEval_keeps _ _).via ?_ | dsimp only

end Sys2Proof.Machine
end

