-- ==== Sys2Proof/Laws/KeepsWindshaft.lean ====
section
/-! SUPPORT. The operations of Machine/Windshaft.lean keep the queue and the canonical form (`Keeps`). -/

set_option linter.unusedTactic false
set_option linter.unreachableTactic false
set_option linter.unusedSimpArgs false

namespace Sys2Proof.Machine

theorem State.setAw_keeps (s : State) (a : Nat) (f : WsAx → WsAx) :
    Keeps s (State.setAw s a f) := by
  unfold State.setAw
  with_reducible repeat' first
    | simp only [Keeps.upd_iff] | exact .refl _
theorem State.setGr_keeps (s : State) (g : Nat) (f : WsGrp → WsGrp) :
    Keeps s (State.setGr s g f) := by
  unfold State.setGr
  with_reducible repeat' first
    | simp only [Keeps.upd_iff] | exact .refl _
theorem State.setAxState_keeps (s : State) (a v : Nat) :
    Keeps s (State.setAxState s a v) := by
  unfold State.setAxState
  with_reducible repeat' first
    | exact .refl _ | refine (State.putFld_keeps _ _ _ _ _).via ?_
theorem State.ticksEnd_keeps (s : State) (a : Nat) :
    Keeps s (State.ticksEnd s a) := by
  unfold State.ticksEnd
  with_reducible repeat' first
    | simp only [Keeps.upd_iff] | assumption | exact .refl _ | refine .ite ?_ ?_
    | refine (State.setAw_keeps _ _ _).via ?_ | intro _ | split | dsimp only
theorem State.stopRequest_keeps (s : State) (a cause : Nat) :
    Keeps s (State.stopRequest s a cause) := by
  unfold State.stopRequest
  with_reducible repeat' first
    | simp only [Keeps.upd_iff] | assumption | exact .refl _ | refine (State.setAw_keeps _ _ _).via ?_ | intro _
    | split | dsimp only
theorem State.axAbandon_keeps (s : State) (a : Nat) :
    Keeps s (State.axAbandon s a) := by
  unfold State.axAbandon
  with_reducible repeat' first
    | simp only [Keeps.upd_iff] | assumption | exact .refl _ | refine .ite ?_ ?_
    | refine (State.setAw_keeps _ _ _).via ?_ | refine (State.putBit_keeps _ _ _ _).via ?_
    | refine (State.setRg64_keeps _ _ _).via ?_ | refine (State.setAxState_keeps _ _ _).via ?_
    | refine (State.cmdRefused_keeps _ _).via ?_ | intro _ | split | dsimp only
theorem State.axStart_keeps (s : State) (a : Nat) :
    Keeps s (State.axStart s a) := by
  unfold State.axStart
  with_reducible repeat' first
    | simp only [Keeps.upd_iff] | assumption | exact .refl _ | refine .ite ?_ ?_
    | refine (State.setAw_keeps _ _ _).via ?_ | refine (State.cmdRefused_keeps _ _).via ?_ | refine .getD ?_ ?_
    | intro _ | split | dsimp only
theorem State.wsPost_keeps (s : State) (a code : Nat) (stamp : Time) (payload : Nat) :
    Keeps s (State.wsPost s a code stamp payload) := by
  unfold State.wsPost
  with_reducible repeat' first
    | simp only [Keeps.upd_iff] | assumption | exact .refl _ | refine .ite ?_ ?_
    | refine (State.irq_keeps _ _ _).via ?_ | refine (State.post_keeps _ _ _ _ _).via ?_ | intro _ | split
    | dsimp only
theorem State.axResume_keeps (s : State) (a : Nat) :
    Keeps s (State.axResume s a) := by
  unfold State.axResume
  with_reducible repeat' first
    | simp only [Keeps.upd_iff] | assumption | exact .refl _ | refine .ite ?_ ?_
    | refine (State.setAw_keeps _ _ _).via ?_ | refine (State.cmdRefused_keeps _ _).via ?_ | intro _ | split
    | dsimp only
theorem State.axFlush_keeps (s : State) (a : Nat) :
    Keeps s (State.axFlush s a) := by
  unfold State.axFlush
  with_reducible repeat' first
    | exact .refl _ | refine .ite ?_ ?_ | refine (State.setRg_keeps _ _ _).via ?_
    | refine (State.cmdRefused_keeps _ _).via ?_ | split
theorem State.axSetpos_keeps (s : State) (a : Nat) :
    Keeps s (State.axSetpos s a) := by
  unfold State.axSetpos
  with_reducible repeat' first
    | simp only [Keeps.upd_iff] | assumption | exact .refl _ | refine .ite ?_ ?_
    | refine (State.setAw_keeps _ _ _).via ?_ | refine (State.cmdRefused_keeps _ _).via ?_ | intro _ | split
    | dsimp only
theorem State.axFbpos_keeps (s : State) (a : Nat) :
    Keeps s (State.axFbpos s a) := by
  unfold State.axFbpos
  with_reducible repeat' first
    | simp only [Keeps.upd_iff] | assumption | exact .refl _ | refine .ite ?_ ?_ | refine .ite2 ?_ ?_
    | refine (State.setAw_keeps _ _ _).via ?_ | refine (State.cmdRefused_keeps _ _).via ?_ | intro _ | split
    | dsimp only
theorem State.writeQwr_keeps (s : State) (a v : Nat) :
    Keeps s (State.writeQwr s a v) := by
  unfold State.writeQwr
  with_reducible repeat' first
    | exact .refl _ | refine .ite ?_ ?_ | refine (State.setRg_keeps _ _ _).via ?_
    | refine (State.cfgRefused_keeps _ _).via ?_ | split | dsimp only
theorem State.setPV_keeps (s : State) (a : Nat) (p v : Int) :
    Keeps s (State.setPV s a p v) := by
  unfold State.setPV
  with_reducible repeat' first
    | exact .refl _ | refine (State.setRg64_keeps _ _ _).via ?_
theorem State.markTick_keeps (s : State) (a : Nat) (tk : Time) (pn : Option Int) :
    Keeps s (State.markTick s a tk pn) := by
  unfold State.markTick
  with_reducible repeat' first
    | simp only [Keeps.upd_iff] | assumption | exact .refl _ | refine (State.setAw_keeps _ _ _).via ?_ | intro _
    | dsimp only
theorem State.wsInit_keeps (s : State) (a : Nat) (tk : Time) :
    Keeps s (State.wsInit s a tk) := by
  unfold State.wsInit
  with_reducible repeat' first
    | simp only [Keeps.upd_iff] | assumption | exact .refl _ | refine (State.setAw_keeps _ _ _).via ?_
    | refine (State.setPV_keeps _ _ _ _).via ?_ | refine (State.wsPost_keeps _ _ _ _ _).via ?_ | intro _ | split
    | dsimp only
theorem State.wsPrelude_keeps (s : State) (a : Nat) (tk : Time) :
    Keeps s (State.wsPrelude s a tk) := by
  unfold State.wsPrelude
  with_reducible repeat' first
    | simp only [Keeps.upd_iff] | assumption | exact .refl _ | refine .ite ?_ ?_
    | refine (State.setAw_keeps _ _ _).via ?_ | refine (State.setAxState_keeps _ _ _).via ?_
    | refine (State.wsInit_keeps _ _ _).via ?_ | refine (State.setPV_keeps _ _ _ _).via ?_ | intro _ | split
    | dsimp only
theorem State.standstill_keeps (s : State) (a : Nat) :
    Keeps s (State.standstill s a) := by
  unfold State.standstill
  with_reducible repeat' first
    | simp only [Keeps.upd_iff] | assumption | exact .refl _ | refine (State.slotStandstill_keeps _ _).via ?_
    | intro _ | split
theorem State.qDrop_keeps (s : State) (a n : Nat) :
    Keeps s (State.qDrop s a n) := by
  unfold State.qDrop
  with_reducible repeat' first
    | exact .refl _ | refine (State.setRg_keeps _ _ _).via ?_
theorem State.wsCount_keeps (s : State) (a : Nat) :
    Keeps s (State.wsCount s a) := by
  unfold State.wsCount
  with_reducible repeat' first
    | exact .refl _ | refine (State.putFld_keeps _ _ _ _ _).via ?_
theorem State.setStarted_keeps (s : State) (n : Nat) :
    Keeps s (State.setStarted s n) := by
  unfold State.setStarted
  with_reducible repeat' first
    | simp only [Keeps.upd_iff] | assumption | exact .refl _ | refine .ite ?_ ?_
    | refine (State.irq_keeps _ _ _).via ?_ | refine (State.setRg64_keeps _ _ _).via ?_
    | refine (State.putFld_keeps _ _ _ _ _).via ?_ | intro _ | split | dsimp only
theorem State.wsFinal_keeps (s : State) (a : Nat) (tk : Time) :
    Keeps s (State.wsFinal s a tk) := by
  unfold State.wsFinal
  with_reducible repeat' first
    | simp only [Keeps.upd_iff] | assumption | exact .refl _ | refine (State.setAw_keeps _ _ _).via ?_
    | refine (State.setPV_keeps _ _ _ _).via ?_ | intro _ | split | dsimp only
theorem State.wsStopped_keeps (s : State) (a : Nat) (tk : Time) :
    Keeps s (State.wsStopped s a tk) := by
  unfold State.wsStopped
  with_reducible repeat' first
    | simp only [Keeps.upd_iff] | assumption | exact .refl _ | refine .ite ?_ ?_
    | refine (State.setAw_keeps _ _ _).via ?_ | refine (State.setPV_keeps _ _ _ _).via ?_
    | refine (State.standstill_keeps _ _).via ?_ | refine (State.setRg64_keeps _ _ _).via ?_
    | refine (State.setAxState_keeps _ _ _).via ?_ | refine (State.putBit_keeps _ _ _ _).via ?_
    | refine (State.wsPost_keeps _ _ _ _ _).via ?_ | intro _ | split | dsimp only
theorem State.wsEmpty_keeps (s : State) (a : Nat) (tk : Time) :
    Keeps s (State.wsEmpty s a tk) := by
  unfold State.wsEmpty
  with_reducible repeat' first
    | simp only [Keeps.upd_iff] | assumption | exact .refl _ | refine .ite ?_ ?_
    | refine (State.setAw_keeps _ _ _).via ?_ | refine (State.setAxState_keeps _ _ _).via ?_
    | refine (State.setPV_keeps _ _ _ _).via ?_ | refine (State.wsPost_keeps _ _ _ _ _).via ?_ | intro _ | split
    | dsimp only
theorem State.wsBeginStop_keeps (s : State) (a : Nat) (tk : Time) (cause dec jerk : Nat) :
    Keeps s (State.wsBeginStop s a tk cause dec jerk) := by
  unfold State.wsBeginStop
  with_reducible repeat' first
    | simp only [Keeps.upd_iff] | assumption | exact .refl _ | refine .ite ?_ ?_
    | refine (State.setAw_keeps _ _ _).via ?_ | refine (State.putFld_keeps _ _ _ _ _).via ?_
    | refine (State.setAxState_keeps _ _ _).via ?_ | refine (State.wsPost_keeps _ _ _ _ _).via ?_
    | refine (State.wsStopped_keeps _ _ _).via ?_ | intro _ | split | dsimp only
theorem State.wsStop_keeps (s : State) (a : Nat) (tk : Time) (cause : Nat) :
    Keeps s (State.wsStop s a tk cause) := by
  unfold State.wsStop
  with_reducible repeat' first
    | exact .refl _ | refine (State.wsBeginStop_keeps _ _ _ _ _ _).via ?_
theorem State.wsMalformed_keeps (s : State) (a : Nat) (tk : Time) (tag reason : Nat) :
    Keeps s (State.wsMalformed s a tk tag reason) := by
  unfold State.wsMalformed
  with_reducible repeat' first
    | simp only [Keeps.upd_iff] | assumption | exact .refl _ | refine .ite ?_ ?_
    | refine (State.setAw_keeps _ _ _).via ?_ | refine (State.setRg64_keeps _ _ _).via ?_
    | refine (State.wsPost_keeps _ _ _ _ _).via ?_ | refine (State.wsStop_keeps _ _ _ _).via ?_
    | refine (State.setAxState_keeps _ _ _).via ?_ | intro _ | split | dsimp only
theorem State.wsPlan_keeps (s : State) (a : Nat) (tk : Time) (g : Seg) :
    Keeps s (State.wsPlan s a tk g) := by
  unfold State.wsPlan
  with_reducible repeat' first
    | simp only [Keeps.upd_iff] | assumption | exact .refl _ | refine .ite ?_ ?_ | refine .ite2 ?_ ?_
    | refine .ite1 ?_ ?_ | refine (State.setAw_keeps _ _ _).via ?_ | refine (State.setAxState_keeps _ _ _).via ?_
    | refine (State.setPV_keeps _ _ _ _).via ?_ | refine (State.setRg64_keeps _ _ _).via ?_
    | refine (State.wsPost_keeps _ _ _ _ _).via ?_ | intro _ | split | dsimp only
theorem State.wsSegDone_keeps (s : State) (a : Nat) (tk : Time) :
    Keeps s (State.wsSegDone s a tk) := by
  unfold State.wsSegDone
  with_reducible repeat' first
    | simp only [Keeps.upd_iff] | assumption | exact .refl _ | refine .ite ?_ ?_
    | refine (State.wsCount_keeps _ _).via ?_ | refine (State.wsFinal_keeps _ _ _).via ?_
    | refine (State.wsPost_keeps _ _ _ _ _).via ?_ | refine (State.setAw_keeps _ _ _).via ?_ | intro _ | split
    | dsimp only
theorem State.wsRun_keeps (a : Nat) (tk : Time) (x2 : Nat) (x3 : State) :
    Keeps x3 (State.wsRun a tk x2 x3) := by
  induction x2 generalizing x3 with
  | zero => exact .refl _
  | succ n ih =>
    unfold State.wsRun
    refine .ite (State.wsEmpty_keeps _ _ _) ?_
    extract_lets r inj reason s1 s2 s3
    have h1 : Keeps x3 s1 := (State.putFld_keeps _ _ _ _ _).via ((State.qDrop_keeps _ _ _).via
      (.ite (State.putBit_keeps _ _ _ _) (.refl _)))
    have h2 : Keeps x3 s2 := .ite ((State.wsPost_keeps _ _ _ _ _).via h1) h1
    have h3 : Keeps x3 s3 := (State.wsPlan_keeps _ _ _ _).via h2
    refine .ite ((State.wsMalformed_keeps _ _ _ _ _).via h1) (.ite ((ih _).via ((State.wsCount_keeps _ _).via h2)) ?_)
    exact .ite ((ih _).via ((State.wsSegDone_keeps _ _ _).via h3)) h3
theorem State.wsEval_keeps (s : State) (a : Nat) (tk : Time) :
    Keeps s (State.wsEval s a tk) := by
  unfold State.wsEval
  with_reducible repeat' first
    | exact .refl _ | refine .ite ?_ ?_ | refine (State.wsFinal_keeps _ _ _).via ?_
    | refine (State.wsStopped_keeps _ _ _).via ?_ | refine (State.wsRun_keeps _ _ _ _).via ?_
    | refine (State.wsSegDone_keeps _ _ _).via ?_ | split | dsimp only
theorem State.wsStops_keeps (s : State) (a : Nat) (tk : Time) :
    Keeps s (State.wsStops s a tk) := by
  unfold State.wsStops
  with_reducible repeat' first
    | simp only [Keeps.upd_iff] | assumption | exact .refl _ | refine .ite ?_ ?_
    | refine (State.setAw_keeps _ _ _).via ?_ | refine (State.wsStop_keeps _ _ _ _).via ?_
    | refine (State.wsBeginStop_keeps _ _ _ _ _ _).via ?_ | refine (State.standstill_keeps _ _).via ?_ | intro _
    | split | dsimp only
theorem State.wsStart_keeps (s : State) (a : Nat) (tk : Time) (set_ : Nat) (shared : Bool) :
    Keeps s (State.wsStart s a tk set_ shared) := by
  unfold State.wsStart
  with_reducible repeat' first
    | simp only [Keeps.upd_iff] | assumption | exact .refl _ | refine (State.wsPost_keeps _ _ _ _ _).via ?_
    | refine (State.setAw_keeps _ _ _).via ?_ | refine (State.setAxState_keeps _ _ _).via ?_
    | refine (State.wsRun_keeps _ _ _ _).via ?_ | refine (State.setRg64_keeps _ _ _).via ?_ | intro _ | dsimp only
theorem State.wsResume_keeps (s : State) (a : Nat) (tk : Time) :
    Keeps s (State.wsResume s a tk) := by
  unfold State.wsResume
  with_reducible repeat' first
    | simp only [Keeps.upd_iff] | assumption | exact .refl _ | refine .ite ?_ ?_
    | refine (State.putBit_keeps _ _ _ _).via ?_ | refine (State.wsPost_keeps _ _ _ _ _).via ?_
    | refine (State.setAw_keeps _ _ _).via ?_ | refine (State.setRg64_keeps _ _ _).via ?_
    | refine (State.wsRun_keeps _ _ _ _).via ?_ | refine (State.setAxState_keeps _ _ _).via ?_
    | refine (State.wsMalformed_keeps _ _ _ _ _).via ?_ | refine (State.wsPlan_keeps _ _ _ _).via ?_
    | refine (State.wsSegDone_keeps _ _ _).via ?_ | intro _ | split | dsimp only
theorem State.wsStarts_keeps (s : State) (a : Nat) (tk : Time) :
    Keeps s (State.wsStarts s a tk) := by
  unfold State.wsStarts
  with_reducible repeat' first
    | simp only [Keeps.upd_iff] | assumption | exact .refl _ | refine .ite ?_ ?_
    | refine (State.wsStart_keeps _ _ _ _ _).via ?_ | refine (State.setStarted_keeps _ _).via ?_
    | refine (State.wsResume_keeps _ _ _).via ?_ | intro _ | split | dsimp only
theorem State.wsTick_keeps (s : State) (a : Nat) (tk : Time) :
    Keeps s (State.wsTick s a tk) := by
  unfold State.wsTick
  with_reducible repeat' first
    | exact .refl _ | refine (State.wsStarts_keeps _ _ _).via ?_ | refine (State.wsStops_keeps _ _ _).via ?_
    | refine (State.wsEval_keeps _ _ _).via ?_ | refine (State.wsPrelude_keeps _ _ _).via ?_
    | refine (State.markTick_keeps _ _ _ _).via ?_ | dsimp only

end Sys2Proof.Machine
end

