-- ==== Sys2Proof/Laws/KeepsGroups.lean ====
section
/-! SUPPORT. The operations of Machine/Groups.lean keep the queue and the canonical form (`Keeps`). -/

set_option linter.unusedTactic false
set_option linter.unreachableTactic false
set_option linter.unusedSimpArgs false

namespace Sys2Proof.Machine

theorem State.setGrState_keeps (s : State) (g v : Nat) :
    Keeps s (State.setGrState s g v) := by
  unfold State.setGrState
  with_reducible repeat' first
    | assumption | exact .refl _ | refine .ite ?_ ?_ | refine (State.setAxState_keeps _ _ _).via ?_
    | refine (State.putFld_keeps _ _ _ _ _).via ?_ | refine .fold (fun _ _ => ?_) ?_ | intro _ | split | dsimp only
theorem State.setShares_keeps (s : State) (g : Nat) (targets : List Int) :
    Keeps s (State.setShares s g targets) := by
  unfold State.setShares
  with_reducible repeat' first
    | simp only [Keeps.upd_iff] | assumption | exact .refl _ | refine (State.setRg64_keeps _ _ _).via ?_
    | refine (State.setGr_keeps _ _ _).via ?_ | refine (State.putBit_keeps _ _ _ _).via ?_
    | refine (State.putFld_keeps _ _ _ _ _).via ?_ | refine .getD ?_ ?_ | refine .fold (fun _ _ => ?_) ?_
    | refine .fold1 (fun _ _ => ?_) ?_ | refine .fold2 (fun _ _ => ?_) ?_ | intro _ | dsimp only
theorem State.applyShares_keeps (s : State) (g : Nat) (only : Option Nat) :
    Keeps s (State.applyShares s g only) := by
  unfold State.applyShares
  with_reducible repeat' first
    | assumption | exact .refl _ | refine .ite ?_ ?_ | refine (State.setPV_keeps _ _ _ _).via ?_
    | refine .fold (fun _ _ => ?_) ?_ | intro _ | split | dsimp only
theorem State.grProgress_keeps (s : State) (g : Nat) (tk : Time) :
    Keeps s (State.grProgress s g tk) := by
  unfold State.grProgress
  with_reducible repeat' first
    | simp only [Keeps.upd_iff] | assumption | exact .refl _ | refine (State.setGr_keeps _ _ _).via ?_
    | refine (State.setRg64_keeps _ _ _).via ?_ | intro _ | split | dsimp only
theorem State.grPlan_keeps (s : State) (g : Nat) (tk : Time) (seg : Seg) :
    KeepsOpt s (State.grPlan s g tk seg) := by
  unfold State.grPlan
  with_reducible repeat' first
    | exact .none _ | refine .some ?_ | simp only [Keeps.upd_iff] | assumption | exact .refl _ | refine .ite ?_ ?_
    | refine .ite1 ?_ ?_ | refine (State.setGr_keeps _ _ _).via ?_ | refine (State.setRg64_keeps _ _ _).via ?_
    | intro _ | split | dsimp only
theorem State.grMemberStopped_keeps (s : State) (g a : Nat) (tk : Time) :
    Keeps s (State.grMemberStopped s g a tk) := by
  unfold State.grMemberStopped
  with_reducible repeat' first
    | simp only [Keeps.upd_iff] | assumption | exact .refl _ | refine .ite ?_ ?_
    | refine (State.setRg64_keeps _ _ _).via ?_ | refine (State.putBit_keeps _ _ _ _).via ?_
    | refine (State.setAxState_keeps _ _ _).via ?_ | refine (State.setPV_keeps _ _ _ _).via ?_
    | refine (State.standstill_keeps _ _).via ?_ | refine (State.wsPost_keeps _ _ _ _ _).via ?_ | refine .getD ?_ ?_
    | intro _ | split | dsimp only
theorem State.grDisable_keeps (s : State) (g : Nat) :
    Keeps s (State.grDisable s g) := by
  unfold State.grDisable
  with_reducible repeat' first
    | assumption | exact .refl _ | refine (State.putBit_keeps _ _ _ _).via ?_
    | refine (State.setGr_keeps _ _ _).via ?_ | refine (State.putFld_keeps _ _ _ _ _).via ?_
    | refine .fold (fun _ _ => ?_) ?_ | intro _ | dsimp only
theorem State.grStopped_keeps (s : State) (g : Nat) (tk : Time) :
    Keeps s (State.grStopped s g tk) := by
  unfold State.grStopped
  with_reducible repeat' first
    | simp only [Keeps.upd_iff] | assumption | exact .refl _ | refine .ite ?_ ?_
    | refine (State.putFld_keeps _ _ _ _ _).via ?_ | refine (State.setGr_keeps _ _ _).via ?_
    | refine (State.grMemberStopped_keeps _ _ _ _).via ?_ | refine (State.grDisable_keeps _ _).via ?_
    | refine .fold (fun _ _ => ?_) ?_ | intro _ | split | dsimp only
theorem State.grBeginStop_keeps (s : State) (g : Nat) (tk : Time) (cause : Nat) (dec jerk : ℚ) :
    Keeps s (State.grBeginStop s g tk cause dec jerk) := by
  unfold State.grBeginStop
  with_reducible repeat' first
    | simp only [Keeps.upd_iff] | assumption | exact .refl _ | refine .ite ?_ ?_
    | refine (State.setGr_keeps _ _ _).via ?_ | refine (State.setGrState_keeps _ _ _).via ?_
    | refine (State.putFld_keeps _ _ _ _ _).via ?_ | refine (State.wsPost_keeps _ _ _ _ _).via ?_
    | refine (State.grStopped_keeps _ _ _).via ?_ | refine .fold (fun _ _ => ?_) ?_ | intro _ | split | dsimp only
theorem State.grStop_keeps (s : State) (g : Nat) (tk : Time) (cause : Nat) :
    Keeps s (State.grStop s g tk cause) := by
  unfold State.grStop
  with_reducible repeat' first
    | exact .refl _ | refine (State.grBeginStop_keeps _ _ _ _ _ _).via ?_ | dsimp only
theorem State.grStopRequest_keeps (s : State) (g cause : Nat) :
    Keeps s (State.grStopRequest s g cause) := by
  unfold State.grStopRequest
  with_reducible repeat' first
    | simp only [Keeps.upd_iff] | assumption | exact .refl _ | refine (State.setGr_keeps _ _ _).via ?_ | intro _
    | split | dsimp only
theorem State.grBreak_keeps (s : State) (g a : Nat) (stamp : Time) :
    Keeps s (State.grBreak s g a stamp) := by
  unfold State.grBreak
  with_reducible repeat' first
    | simp only [Keeps.upd_iff] | assumption | exact .refl _ | refine .ite ?_ ?_
    | refine (State.irq_keeps _ _ _).via ?_ | refine (State.setGrState_keeps _ _ _).via ?_
    | refine (State.grDisable_keeps _ _).via ?_ | refine (State.post_keeps _ _ _ _ _).via ?_
    | refine (State.setAw_keeps _ _ _).via ?_ | refine (State.setGr_keeps _ _ _).via ?_
    | refine (State.setAxState_keeps _ _ _).via ?_ | intro _ | split | dsimp only
theorem State.grMalformed_keeps (s : State) (g : Nat) (tk : Time) (tag reason : Nat) :
    Keeps s (State.grMalformed s g tk tag reason) := by
  unfold State.grMalformed
  with_reducible repeat' first
    | simp only [Keeps.upd_iff] | assumption | exact .refl _ | refine (State.setRg64_keeps _ _ _).via ?_
    | refine (State.wsPost_keeps _ _ _ _ _).via ?_ | refine (State.setGrState_keeps _ _ _).via ?_
    | refine (State.setGr_keeps _ _ _).via ?_ | refine .fold (fun _ _ => ?_) ?_ | intro _ | dsimp only
theorem State.grSegDone_keeps (s : State) (g : Nat) (tk : Time) :
    Keeps s (State.grSegDone s g tk) := by
  unfold State.grSegDone
  with_reducible repeat' first
    | simp only [Keeps.upd_iff] | assumption | exact .refl _ | refine .ite ?_ ?_
    | refine (State.applyShares_keeps _ _ _).via ?_ | refine (State.setGr_keeps _ _ _).via ?_
    | refine (State.setRg64_keeps _ _ _).via ?_ | refine (State.wsCount_keeps _ _).via ?_
    | refine (State.wsPost_keeps _ _ _ _ _).via ?_ | intro _ | split | dsimp only
theorem State.grRun_keeps (g : Nat) (tk : Time) (x2 : Nat) (x3 : State) :
    Keeps x3 (State.grRun g tk x2 x3) := by
  induction x2 generalizing x3 with
  | zero => exact .refl _
  | succ n ih =>
    unfold State.grRun
    extract_lets q s1 r inj reason s2 s3
    refine .ite (.ite ((State.wsPost_keeps _ _ _ _ _).via ?_) ?_) ?_
    · exact (State.setGr_keeps _ _ _).via (State.setGrState_keeps _ _ _)
    · exact (State.setGr_keeps _ _ _).via (State.setGrState_keeps _ _ _)
    have h2 : Keeps x3 s2 := (State.putFld_keeps _ _ _ _ _).via ((State.qDrop_keeps _ _ _).via
      (.ite (State.putBit_keeps _ _ _ _) (.refl _)))
    have h3 : Keeps x3 s3 := (State.setShares_keeps _ _ _).via h2
    clear_value s3 s2 r inj reason
    refine .ite ((State.grMalformed_keeps _ _ _ _ _).via h2) ?_
    refine .elim ((State.grMalformed_keeps _ _ _ _ _).via h3) (fun s4 e => ?_)
    have h5 := ((State.grPlan_keeps _ _ _ _).get e).via h3
    extract_lets s5 s6
    have h6 : Keeps x3 s6 := by unfold s6 s5; exact (State.setGrState_keeps _ _ _).via (.ite ((State.wsPost_keeps _ _ _ _ _).via (.ite ((State.wsPost_keeps _ _ _ _ _).via h5) h5)) (.ite ((State.wsPost_keeps _ _ _ _ _).via h5) h5))
    exact .ite ((ih _).via ((State.grSegDone_keeps _ _ _).via h6)) h6
theorem State.grStart_keeps (s : State) (g : Nat) (tk : Time) (set_ : Nat) (shared : Bool) :
    Keeps s (State.grStart s g tk set_ shared) := by
  unfold State.grStart
  with_reducible repeat' first
    | simp only [Keeps.upd_iff] | assumption | exact .refl _ | refine (State.setRg64_keeps _ _ _).via ?_
    | refine (State.wsPost_keeps _ _ _ _ _).via ?_ | refine (State.grRun_keeps _ _ _ _).via ?_
    | refine (State.setGr_keeps _ _ _).via ?_ | refine (State.setGrState_keeps _ _ _).via ?_
    | refine .fold (fun _ _ => ?_) ?_ | intro _ | dsimp only
theorem State.grResume_keeps (s : State) (g : Nat) (tk : Time) :
    Keeps s (State.grResume s g tk) := by
  unfold State.grResume
  with_reducible repeat' first
    | simp only [Keeps.upd_iff] | assumption | exact .refl _ | refine .ite ?_ ?_
    | refine (State.setRg64_keeps _ _ _).via ?_ | refine (State.wsPost_keeps _ _ _ _ _).via ?_
    | refine (State.setGr_keeps _ _ _).via ?_ | refine (State.grRun_keeps _ _ _ _).via ?_
    | refine (State.setGrState_keeps _ _ _).via ?_
    | refine (State.grPlan_keeps _ _ _ _).via ?_ | refine ((State.grPlan_keeps _ _ _ _).get ‹_›).via ?_
    | refine (State.grMalformed_keeps _ _ _ _ _).via ?_ | refine (State.grSegDone_keeps _ _ _).via ?_
    | refine .elim ?_ (fun _ _ => ?_) | refine .fold (fun _ _ => ?_) ?_ | intro _ | split | dsimp only
theorem State.grStops_keeps (s : State) (g : Nat) (tk : Time) :
    Keeps s (State.grStops s g tk) := by
  unfold State.grStops
  with_reducible repeat' first
    | simp only [Keeps.upd_iff] | assumption | exact .refl _ | refine .ite ?_ ?_
    | refine (State.setAw_keeps _ _ _).via ?_ | refine (State.setGr_keeps _ _ _).via ?_
    | refine (State.grStop_keeps _ _ _ _).via ?_ | refine (State.grBeginStop_keeps _ _ _ _ _ _).via ?_
    | refine (State.standstill_keeps _ _).via ?_ | refine .elim ?_ (fun _ _ => ?_) | refine .fold (fun _ _ => ?_) ?_
    | intro _ | split | dsimp only
theorem State.grStarts_keeps (s : State) (g : Nat) (tk : Time) :
    Keeps s (State.grStarts s g tk) := by
  unfold State.grStarts
  with_reducible repeat' first
    | simp only [Keeps.upd_iff] | assumption | exact .refl _ | refine .ite ?_ ?_
    | refine (State.grStart_keeps _ _ _ _ _).via ?_ | refine (State.setStarted_keeps _ _).via ?_
    | refine (State.grResume_keeps _ _ _).via ?_ | intro _ | split | dsimp only
theorem State.grMark_keeps (s : State) (g : Nat) (tk : Time) (only : Option Nat) :
    Keeps s (State.grMark s g tk only) := by
  unfold State.grMark
  with_reducible repeat' first
    | assumption | exact .refl _ | refine .ite ?_ ?_ | refine (State.markTick_keeps _ _ _ _).via ?_
    | refine .fold (fun _ _ => ?_) ?_ | intro _ | split | dsimp only
theorem State.grShift_keeps (s : State) (g a : Nat) (before : Int) :
    Keeps s (State.grShift s g a before) := by
  unfold State.grShift
  with_reducible repeat' first
    | simp only [Keeps.upd_iff] | assumption | exact .refl _ | refine .ite ?_ ?_
    | refine (State.setGr_keeps _ _ _).via ?_ | intro _ | split | dsimp only
theorem State.grPrelude_keeps (s : State) (g : Nat) (tk : Time) (only : Option Nat) :
    Keeps s (State.grPrelude s g tk only) := by
  unfold State.grPrelude
  with_reducible repeat' first
    | assumption | exact .refl _ | refine .ite ?_ ?_ | refine (State.grShift_keeps _ _ _ _).via ?_
    | refine (State.wsPrelude_keeps _ _ _).via ?_ | refine .fold (fun _ _ => ?_) ?_ | intro _ | split | dsimp only
theorem State.grTick_keeps (s : State) (g : Nat) (tk : Time) :
    Keeps s (State.grTick s g tk) := by
  unfold State.grTick
  with_reducible repeat' first
    | simp only [Keeps.upd_iff] | assumption | exact .refl _ | refine .ite ?_ ?_
    | refine (State.setGr_keeps _ _ _).via ?_ | refine (State.grPrelude_keeps _ _ _ _).via ?_
    | refine (State.applyShares_keeps _ _ _).via ?_ | refine (State.grProgress_keeps _ _ _).via ?_
    | refine (State.grStopped_keeps _ _ _).via ?_ | refine (State.grRun_keeps _ _ _ _).via ?_
    | refine (State.grSegDone_keeps _ _ _).via ?_ | refine (State.grMark_keeps _ _ _ _).via ?_
    | refine (State.grStarts_keeps _ _ _).via ?_ | refine (State.grStops_keeps _ _ _).via ?_ | intro _ | split
    | dsimp only
theorem State.grBrokenTick_keeps (s : State) (g a : Nat) (tk : Time) :
    Keeps s (State.grBrokenTick s g a tk) := by
  unfold State.grBrokenTick
  with_reducible repeat' first
    | simp only [Keeps.upd_iff] | assumption | exact .refl _ | refine .ite ?_ ?_
    | refine (State.markTick_keeps _ _ _ _).via ?_ | refine (State.grPrelude_keeps _ _ _ _).via ?_
    | refine (State.grStop_keeps _ _ _ _).via ?_ | refine (State.grProgress_keeps _ _ _).via ?_
    | refine (State.applyShares_keeps _ _ _).via ?_ | refine (State.grMark_keeps _ _ _ _).via ?_
    | refine (State.grMemberStopped_keeps _ _ _ _).via ?_ | refine (State.grDisable_keeps _ _).via ?_ | intro _
    | split | dsimp only
theorem State.groupTick_keeps (s : State) (g a : Nat) (tk : Time) :
    Keeps s (State.groupTick s g a tk) := by
  unfold State.groupTick
  with_reducible repeat' first
    | assumption | exact .refl _ | refine .ite ?_ ?_ | refine (State.grBreak_keeps _ _ _ _).via ?_
    | refine (State.grTick_keeps _ _ _).via ?_ | refine (State.grBrokenTick_keeps _ _ _ _).via ?_
    | refine (State.wsTick_keeps _ _ _).via ?_ | intro _ | split | dsimp only
theorem State.writeIgrpCtrl_keeps (s : State) (g v : Nat) :
    Keeps s (State.writeIgrpCtrl s g v) := by
  unfold State.writeIgrpCtrl
  with_reducible repeat' first
    | assumption | exact .refl _ | refine .ite ?_ ?_ | refine (State.cfgRefused_keeps _ _).via ?_
    | refine (State.setRg_keeps _ _ _).via ?_ | refine (State.grDisable_keeps _ _).via ?_
    | refine (State.putFld_keeps _ _ _ _ _).via ?_ | refine (State.setGr_keeps _ _ _).via ?_
    | refine (State.setAxState_keeps _ _ _).via ?_ | refine (State.putBit_keeps _ _ _ _).via ?_
    | refine .fold (fun _ _ => ?_) ?_ | intro _ | split | dsimp only
theorem State.grStartCmd_keeps (s : State) (g : Nat) :
    Keeps s (State.grStartCmd s g) := by
  unfold State.grStartCmd
  with_reducible repeat' first
    | simp only [Keeps.upd_iff] | assumption | exact .refl _ | refine .ite ?_ ?_
    | refine (State.setGr_keeps _ _ _).via ?_ | refine (State.cmdRefused_keeps _ _).via ?_ | refine .getD ?_ ?_
    | intro _ | split | dsimp only
theorem State.grResumeCmd_keeps (s : State) (g pg : Nat) :
    Keeps s (State.grResumeCmd s g pg) := by
  unfold State.grResumeCmd
  with_reducible repeat' first
    | simp only [Keeps.upd_iff] | assumption | exact .refl _ | refine .ite ?_ ?_
    | refine (State.setGr_keeps _ _ _).via ?_ | refine (State.cmdRefused_keeps _ _).via ?_ | intro _ | split
    | dsimp only
theorem State.grAbandonCmd_keeps (s : State) (g pg : Nat) :
    Keeps s (State.grAbandonCmd s g pg) := by
  unfold State.grAbandonCmd
  with_reducible repeat' first
    | simp only [Keeps.upd_iff] | assumption | exact .refl _ | refine .ite ?_ ?_
    | refine (State.setRg64_keeps _ _ _).via ?_ | refine (State.setGr_keeps _ _ _).via ?_
    | refine (State.setGrState_keeps _ _ _).via ?_ | refine (State.cmdRefused_keeps _ _).via ?_
    | refine .fold (fun _ _ => ?_) ?_ | intro _ | split | dsimp only
theorem State.grFlushCmd_keeps (s : State) (g : Nat) :
    Keeps s (State.grFlushCmd s g) := by
  unfold State.grFlushCmd
  with_reducible repeat' first
    | assumption | exact .refl _ | refine .ite ?_ ?_ | refine (State.setRg_keeps _ _ _).via ?_
    | refine (State.cmdRefused_keeps _ _).via ?_ | refine .fold (fun _ _ => ?_) ?_ | intro _ | split | dsimp only
theorem State.unarm_keeps (s : State) (n : Nat) :
    Keeps s (State.unarm s n) := by
  unfold State.unarm
  with_reducible repeat' first
    | simp only [Keeps.upd_iff] | assumption | exact .refl _ | refine .ite ?_ ?_
    | refine (State.setAw_keeps _ _ _).via ?_ | refine (State.setAxState_keeps _ _ _).via ?_
    | refine (State.setGr_keeps _ _ _).via ?_ | refine (State.setGrState_keeps _ _ _).via ?_
    | refine .fold (fun _ _ => ?_) ?_ | intro _ | split | dsimp only
theorem State.setFail_keeps (s : State) (n reason : Nat) :
    Keeps s (State.setFail s n reason) := by
  unfold State.setFail
  with_reducible repeat' first
    | simp only [Keeps.upd_iff] | assumption | exact .refl _ | refine .ite ?_ ?_
    | refine (State.putFld_keeps _ _ _ _ _).via ?_ | refine (State.unarm_keeps _ _).via ?_
    | refine (State.irq_keeps _ _ _).via ?_ | refine (State.wsPost_keeps _ _ _ _ _).via ?_
    | refine .fold (fun _ _ => ?_) ?_ | intro _ | split | dsimp only
theorem State.setArm_keeps (s : State) (n : Nat) :
    Keeps s (State.setArm s n) := by
  unfold State.setArm
  with_reducible repeat' first
    | simp only [Keeps.upd_iff] | assumption | exact .refl _ | refine .ite ?_ ?_
    | refine (State.setFail_keeps _ _ _).via ?_ | refine (State.setAxState_keeps _ _ _).via ?_
    | refine (State.setAw_keeps _ _ _).via ?_ | refine (State.setGrState_keeps _ _ _).via ?_
    | refine (State.setGr_keeps _ _ _).via ?_ | refine (State.setRg_keeps _ _ _).via ?_
    | refine .fold (fun _ _ => ?_) ?_ | intro _ | split | dsimp only
theorem State.setShare_keeps (s : State) (n : Nat) (ts : Time) :
    Keeps s (State.setShare s n ts) := by
  unfold State.setShare
  with_reducible repeat' first
    | simp only [Keeps.upd_iff] | assumption | exact .refl _ | refine (State.setAw_keeps _ _ _).via ?_
    | refine (State.setGr_keeps _ _ _).via ?_ | refine .fold (fun _ _ => ?_) ?_ | intro _ | dsimp only
theorem State.setTrigger_keeps (s : State) (n : Nat) (e : Time) :
    Keeps s (State.setTrigger s n e) := by
  unfold State.setTrigger
  with_reducible repeat' first
    | simp only [Keeps.upd_iff] | assumption | exact .refl _ | refine .ite ?_ ?_
    | refine (State.putFld_keeps _ _ _ _ _).via ?_ | refine (State.setRg64_keeps _ _ _).via ?_
    | refine (State.setFail_keeps _ _ _).via ?_ | refine (State.setShare_keeps _ _ _).via ?_ | intro _ | split
    | dsimp only
theorem State.writeSsCtrl_keeps (s : State) (n v : Nat) :
    Keeps s (State.writeSsCtrl s n v) := by
  unfold State.writeSsCtrl
  with_reducible repeat' first
    | exact .refl _ | refine .ite ?_ ?_ | refine (State.cfgRefused_keeps _ _).via ?_
    | refine (State.setRg_keeps _ _ _).via ?_ | refine (State.unarm_keeps _ _).via ?_
    | refine (State.setTrigger_keeps _ _ _).via ?_ | refine (State.setArm_keeps _ _).via ?_ | split | dsimp only
theorem State.schedCancel_keeps (s : State) (kind inst : Nat) (at_ : Time) (targetNs : Nat) :
    Keeps s (State.schedCancel s kind inst at_ targetNs) := by
  unfold State.schedCancel
  with_reducible repeat' first
    | exact .refl _ | refine (State.post_keeps _ _ _ _ _).via ?_
theorem State.setMtTrigger_keeps (s : State) (n : Nat) :
    Keeps s (State.setMtTrigger s n) := by
  unfold State.setMtTrigger
  with_reducible repeat' first
    | exact .refl _ | refine .ite ?_ ?_ | refine (State.setFail_keeps _ _ _).via ?_
    | refine (State.schedCancel_keeps _ _ _ _ _).via ?_ | refine (State.setTrigger_keeps _ _ _).via ?_ | split
    | dsimp only
theorem State.setSync_keeps (s : State) (pin : Nat) (rising : Bool) (stamp : Time) :
    Keeps s (State.setSync s pin rising stamp) := by
  unfold State.setSync
  with_reducible repeat' first
    | assumption | exact .refl _ | refine .ite ?_ ?_ | refine (State.setTrigger_keeps _ _ _).via ?_
    | refine .fold (fun _ _ => ?_) ?_ | intro _ | split | dsimp only
theorem State.axStopCmd_keeps (s : State) (a : Nat) :
    Keeps s (State.axStopCmd s a) := by
  unfold State.axStopCmd
  with_reducible repeat' first
    | simp only [Keeps.upd_iff] | assumption | exact .refl _ | refine (State.setFail_keeps _ _ _).via ?_
    | refine (State.cmdRefused_keeps _ _).via ?_ | refine (State.grStopRequest_keeps _ _ _).via ?_
    | refine (State.stopRequest_keeps _ _ _).via ?_ | intro _ | split | dsimp only
theorem State.grStopCmd_keeps (s : State) (g : Nat) :
    Keeps s (State.grStopCmd s g) := by
  unfold State.grStopCmd
  with_reducible repeat' first
    | exact .refl _ | refine .ite ?_ ?_ | refine (State.grStopRequest_keeps _ _ _).via ?_
    | refine (State.setFail_keeps _ _ _).via ?_ | refine (State.cmdRefused_keeps _ _).via ?_ | split
theorem State.writeAxCmd_keeps (s : State) (a v : Nat) :
    Keeps s (State.writeAxCmd s a v) := by
  unfold State.writeAxCmd
  with_reducible repeat' first
    | simp only [Keeps.upd_iff] | assumption | exact .refl _ | refine (State.axStart_keeps _ _).via ?_
    | refine (State.axStopCmd_keeps _ _).via ?_ | refine (State.grResumeCmd_keeps _ _ _).via ?_
    | refine (State.axResume_keeps _ _).via ?_ | refine (State.grAbandonCmd_keeps _ _ _).via ?_
    | refine (State.axAbandon_keeps _ _).via ?_ | refine (State.axFlush_keeps _ _).via ?_
    | refine (State.axSetpos_keeps _ _).via ?_ | refine (State.axFbpos_keeps _ _).via ?_
    | refine (State.cmdRefused_keeps _ _).via ?_ | intro _ | split
theorem State.writeGrCmd_keeps (s : State) (g v : Nat) :
    Keeps s (State.writeGrCmd s g v) := by
  unfold State.writeGrCmd
  with_reducible repeat' first
    | simp only [Keeps.upd_iff] | assumption | exact .refl _ | refine (State.grStartCmd_keeps _ _).via ?_
    | refine (State.grStopCmd_keeps _ _).via ?_ | refine (State.grResumeCmd_keeps _ _ _).via ?_
    | refine (State.grAbandonCmd_keeps _ _ _).via ?_ | refine (State.grFlushCmd_keeps _ _).via ?_
    | refine (State.cmdRefused_keeps _ _).via ?_ | intro _ | split
theorem State.igrpHook_keeps (s : State) (g off v : Nat) :
    KeepsOpt s (State.igrpHook s g off v) := by
  unfold State.igrpHook
  with_reducible repeat' first
    | exact .none _ | refine .some ?_ | exact .refl _ | refine .ite ?_ ?_
    | refine (State.writeIgrpCtrl_keeps _ _ _).via ?_ | refine (State.cfgRefused_keeps _ _).via ?_
    | refine (State.writeGrCmd_keeps _ _ _).via ?_ | refine (State.writeSsCtrl_keeps _ _ _).via ?_ | split

end Sys2Proof.Machine
end

