-- ==== Sys2Proof/Laws/KeepsTimeUnit.lean ====
section
/-! SUPPORT. The operations of Machine/TimeUnit.lean keep the queue and the canonical form (`Keeps`). -/

set_option linter.unusedTactic false
set_option linter.unreachableTactic false
set_option linter.unusedSimpArgs false

namespace Sys2Proof.Machine

theorem State.setPtp_keeps (s : State) (n : Bool) (f : PtpClock → PtpClock) :
    Keeps s (State.setPtp s n f) := by
  unfold State.setPtp
  with_reducible repeat' first
    | simp only [Keeps.upd_iff] | assumption | exact .refl _ | refine .ite ?_ ?_ | split | dsimp only
theorem State.adj_keeps (s : State) (k : Nat) :
    Keeps s (State.adj s k) := by
  unfold State.adj
  with_reducible repeat' first
    | exact .refl _ | refine (State.putFld_keeps _ _ _ _ _).via ?_
theorem State.setC_keeps (s : State) (e : Nat) (c : Int) :
    Keeps s (State.setC s e c) := by
  unfold State.setC
  with_reducible repeat' first
    | simp only [Keeps.upd_iff] | exact .refl _ | refine (State.putBit_keeps _ _ _ _).via ?_
theorem State.endSlew_keeps (s : State) (e : Nat) :
    Keeps s (State.endSlew s e) := by
  unfold State.endSlew
  with_reducible repeat' first
    | exact .refl _ | refine .ite ?_ ?_ | refine (State.post_keeps _ _ _ _ _).via ?_
    | refine (State.adj_keeps _ _).via ?_ | refine (State.setC_keeps _ _ _).via ?_ | split | dsimp only
theorem State.changeC_keeps (s0 : State) (e : Nat) (d : Int) :
    Keeps s0 (State.changeC s0 e d) := by
  unfold State.changeC
  with_reducible repeat' first
    | exact .refl _ | refine .ite ?_ ?_ | refine (State.endSlew_keeps _ _).via ?_
    | refine (State.setC_keeps _ _ _).via ?_ | refine (State.adj_keeps _ _).via ?_
    | refine (State.post_keeps _ _ _ _ _).via ?_ | split | dsimp only
theorem State.writeIncr_keeps (s : State) (n : Bool) (v : Nat) :
    Keeps s (State.writeIncr s n v) := by
  unfold State.writeIncr
  with_reducible repeat' first
    | simp only [Keeps.upd_iff] | assumption | exact .refl _ | refine .ite ?_ ?_ | refine (State.adj_keeps _ _).via ?_
    | refine (State.setPtp_keeps _ _ _).via ?_ | refine (State.setRg64_keeps _ _ _).via ?_
    | refine (State.postNow_keeps _ _ _ _).via ?_ | refine (State.putBit_keeps _ _ _ _).via ?_ | intro _ | split
    | dsimp only
theorem State.applyIncr_keeps (s : State) (n : Bool) :
    Keeps s (State.applyIncr s n) := by
  unfold State.applyIncr
  with_reducible repeat' first
    | simp only [Keeps.upd_iff] | assumption | exact .refl _ | refine .ite ?_ ?_
    | refine (State.setPtp_keeps _ _ _).via ?_ | intro _ | split | dsimp only
theorem State.writeOffset_keeps (s : State) (n : Bool) (v : Nat) :
    Keeps s (State.writeOffset s n v) := by
  unfold State.writeOffset
  with_reducible repeat' first
    | simp only [Keeps.upd_iff] | assumption | exact .refl _ | refine (State.setPtp_keeps _ _ _).via ?_ | intro _
    | dsimp only
theorem State.ptpReset_keeps (s : State) (n : Bool) :
    Keeps s (State.ptpReset s n) := by
  unfold State.ptpReset
  with_reducible repeat' first
    | simp only [Keeps.upd_iff] | assumption | exact .refl _ | refine (State.writeIncr_keeps _ _ _).via ?_
    | refine (State.setPtp_keeps _ _ _).via ?_ | intro _ | dsimp only
theorem State.applyOffset_keeps (s : State) (n : Bool) :
    Keeps s (State.applyOffset s n) := by
  unfold State.applyOffset
  with_reducible repeat' first
    | simp only [Keeps.upd_iff] | assumption | exact .refl _ | refine .ite ?_ ?_
    | refine (State.setPtp_keeps _ _ _).via ?_ | refine (State.putBit_keeps _ _ _ _).via ?_
    | refine (State.adj_keeps _ _).via ?_ | refine (State.changeC_keeps _ _ _).via ?_ | intro _ | split | dsimp only
theorem State.selectClock_keeps (s : State) (n : Bool) (e : Nat) :
    Keeps s (State.selectClock s n e) := by
  unfold State.selectClock
  with_reducible repeat' first
    | exact .refl _ | refine .ite ?_ ?_ | refine (State.post_keeps _ _ _ _ _).via ?_
    | refine (State.changeC_keeps _ _ _).via ?_ | refine (State.adj_keeps _ _).via ?_
    | refine (State.putBit_keeps _ _ _ _).via ?_ | split | dsimp only
theorem State.putUnsure_keeps (s : State) (u : Bool) :
    Keeps s (State.putUnsure s u) := by
  unfold State.putUnsure
  with_reducible repeat' first
    | exact .refl _ | refine (State.putBit_keeps _ _ _ _).via ?_
theorem State.turnUnsure_keeps (s : State) (u : Bool) (code payload : Nat) :
    Keeps s (State.turnUnsure s u code payload) := by
  unfold State.turnUnsure
  with_reducible repeat' first
    | simp only [Keeps.upd_iff] | exact .refl _ | refine (State.post_keeps _ _ _ _ _).via ?_
    | refine (State.putUnsure_keeps _ _).via ?_ | dsimp only
theorem State.setUnsure_keeps (s : State) (cause : Nat) :
    Keeps s (State.setUnsure s cause) := by
  unfold State.setUnsure
  with_reducible repeat' first
    | exact .refl _ | refine .ite ?_ ?_ | refine (State.putFld_keeps _ _ _ _ _).via ?_
    | refine (State.turnUnsure_keeps _ _ _ _).via ?_ | split | dsimp only
theorem State.clearUnsure_keeps (s : State) (alone : Bool) :
    Keeps s (State.clearUnsure s alone) := by
  unfold State.clearUnsure
  with_reducible repeat' first
    | exact .refl _ | refine .ite ?_ ?_ | refine (State.turnUnsure_keeps _ _ _ _).via ?_ | split
theorem State.syncInterval_keeps (s : State) (ofs : Int) :
    Keeps s (State.syncInterval s ofs) := by
  unfold State.syncInterval
  with_reducible repeat' first
    | simp only [Keeps.upd_iff] | exact .refl _ | refine .ite ?_ ?_ | refine (State.putFld_keeps _ _ _ _ _).via ?_
    | refine (State.clearUnsure_keeps _ _).via ?_ | refine (State.setUnsure_keeps _ _).via ?_ | split | dsimp only
theorem State.reseed_keeps (s0 : State) :
    Keeps s0 (State.reseed s0) := by
  unfold State.reseed
  with_reducible repeat' first
    | assumption | exact .refl _ | refine .ite ?_ ?_ | refine (State.post_keeps _ _ _ _ _).via ?_
    | refine (State.adj_keeps _ _).via ?_ | refine (State.setC_keeps _ _ _).via ?_
    | refine (State.endSlew_keeps _ _).via ?_ | split | dsimp only
theorem State.writeMtCtrl_keeps (s : State) (m : Master) (v : Nat) :
    Keeps s (State.writeMtCtrl s m v) := by
  unfold State.writeMtCtrl
  with_reducible repeat' first
    | simp only [Keeps.upd_iff] | assumption | exact .refl _ | refine .ite ?_ ?_
    | refine (State.putFld_keeps _ _ _ _ _).via ?_ | refine (State.putBit_keeps _ _ _ _).via ?_
    | refine (State.setPage_keeps _ _ _).via ?_ | refine (State.failInc_keeps _ _).via ?_
    | refine (State.setUnsure_keeps _ _).via ?_ | refine (State.clearUnsure_keeps _ _).via ?_
    | refine (State.reseed_keeps _).via ?_ | intro _ | split | dsimp only
theorem State.snapshot_keeps (s : State) (e : Nat) :
    Keeps s (State.snapshot s e) := by
  unfold State.snapshot
  with_reducible repeat' first
    | assumption | exact .refl _ | refine (State.setRg_keeps _ _ _).via ?_ | refine (State.setRg64_keeps _ _ _).via ?_
    | dsimp only
theorem execIncrWrite_keeps (t : Time) (_m : Master) (n : Bool) (v : DWord) (s : State) :
    KeepsOutcome s (execIncrWrite t _m n v s) := by
  unfold execIncrWrite
  with_reducible repeat' first
    | refine .next ?_ | assumption | exact .refl _ | refine (State.onPage_keeps _ _ _ ?_).via ?_
    | refine (State.tick_keeps _ _).via ?_ | refine (State.writeIncr_keeps _ _ _).via ?_ | intro _ | dsimp only
theorem execIncrApply_keeps (t : Time) (n : Bool) (s : State) :
    KeepsOutcome s (execIncrApply t n s) := by
  unfold execIncrApply
  with_reducible repeat' first
    | refine .next ?_ | exact .refl _ | refine (State.applyIncr_keeps _ _).via ?_
    | refine (State.tick_keeps _ _).via ?_
theorem execOffsetWrite_keeps (t : Time) (_m : Master) (n : Bool) (v : DWord) (s : State) :
    KeepsOutcome s (execOffsetWrite t _m n v s) := by
  unfold execOffsetWrite
  with_reducible repeat' first
    | refine .next ?_ | assumption | exact .refl _ | refine (State.onPage_keeps _ _ _ ?_).via ?_
    | refine (State.tick_keeps _ _).via ?_ | refine (State.writeOffset_keeps _ _ _).via ?_ | intro _ | dsimp only
theorem execOffsetApply_keeps (t : Time) (n : Bool) (s : State) :
    KeepsOutcome s (execOffsetApply t n s) := by
  unfold execOffsetApply
  with_reducible repeat' first
    | refine .next ?_ | exact .refl _ | refine (State.applyOffset_keeps _ _).via ?_
    | refine (State.tick_keeps _ _).via ?_
theorem execSlewDone_keeps (t : Time) (s : State) :
    KeepsOutcome s (execSlewDone t s) := by
  unfold execSlewDone
  with_reducible repeat' first
    | refine .next ?_ | exact .refl _ | refine (State.endSlew_keeps _ _).via ?_ | refine (State.tick_keeps _ _).via ?_
theorem execStandaloneSet_keeps (t : Time) (m : Master) (s : State) :
    KeepsOutcome s (execStandaloneSet t m s) := by
  unfold execStandaloneSet
  with_reducible repeat' first
    | refine .next ?_ | assumption | exact .refl _ | refine (State.onPage_keeps _ _ _ ?_).via ?_
    | refine (State.tick_keeps _ _).via ?_ | refine (State.writeMtCtrl_keeps _ _ _).via ?_ | intro _ | dsimp only
theorem execStandaloneClear_keeps (t : Time) (m : Master) (s : State) :
    KeepsOutcome s (execStandaloneClear t m s) := by
  unfold execStandaloneClear
  with_reducible repeat' first
    | refine .next ?_ | assumption | exact .refl _ | refine (State.onPage_keeps _ _ _ ?_).via ?_
    | refine (State.tick_keeps _ _).via ?_ | refine (State.writeMtCtrl_keeps _ _ _).via ?_ | intro _ | dsimp only
theorem State.writeSnapCtrl_keeps (s : State) (m : Master) (v : Nat) :
    Keeps s (State.writeSnapCtrl s m v) := by
  unfold State.writeSnapCtrl
  with_reducible repeat' first
    | exact .refl _ | refine .ite ?_ ?_ | refine (State.writeReg_keeps _ _ _ _ _).via ?_
    | refine (State.snapshot_keeps _ _).via ?_ | split | dsimp only
theorem execSnapshotTake_keeps (t : Time) (m : Master) (s : State) :
    KeepsOutcome s (execSnapshotTake t m s) := by
  unfold execSnapshotTake
  with_reducible repeat' first
    | refine .next ?_ | assumption | exact .refl _ | refine (State.onPage_keeps _ _ _ ?_).via ?_
    | refine (State.tick_keeps _ _).via ?_ | refine (State.writeSnapCtrl_keeps _ _ _).via ?_ | intro _ | dsimp only
theorem execSnapshotPeriod_keeps (t : Time) (s : State) :
    KeepsOutcome s (execSnapshotPeriod t s) := by
  unfold execSnapshotPeriod
  with_reducible repeat' first
    | refine .next ?_ | simp only [Keeps.upd_iff] | exact .refl _ | refine .ite ?_ ?_
    | refine (State.tick_keeps _ _).via ?_ | refine (State.snapshot_keeps _ _).via ?_ | split | dsimp only

end Sys2Proof.Machine
end

