-- ==== Sys2Proof/Laws/KeepsLatch.lean ====
section
/-! SUPPORT. The operations of Machine/Latch.lean keep the queue and the canonical form (`Keeps`). -/

set_option linter.unusedTactic false
set_option linter.unreachableTactic false
set_option linter.unusedSimpArgs false

namespace Sys2Proof.Machine

theorem State.setLtc_keeps (s : State) (l : Nat) (f : LatchChan → LatchChan) :
    Keeps s (State.setLtc s l f) := by
  unfold State.setLtc
  with_reducible repeat' first
    | simp only [Keeps.upd_iff] | exact .refl _
theorem State.armChan_keeps (s : State) (l : Nat) (on : Bool) :
    Keeps s (State.armChan s l on) := by
  unfold State.armChan
  with_reducible repeat' first
    | exact .refl _ | refine (State.putBit_keeps _ _ _ _).via ?_
theorem State.showWaiting_keeps (s : State) (l : Nat) :
    Keeps s (State.showWaiting s l) := by
  unfold State.showWaiting
  with_reducible repeat' first
    | assumption | exact .refl _ | refine (State.putBit_keeps _ _ _ _).via ?_ | intro _ | dsimp only
theorem State.showResults_keeps (s : State) :
    Keeps s (State.showResults s) := by
  unfold State.showResults
  with_reducible repeat' first
    | exact .refl _ | refine (State.setRg_keeps _ _ _).via ?_
theorem State.latchQueue_keeps (s : State) (w : LatchWait) (pos : Int) (ext rev : Bool) :
    Keeps s (State.latchQueue s w pos ext rev) := by
  unfold State.latchQueue
  with_reducible repeat' first
    | simp only [Keeps.upd_iff] | assumption | exact .refl _ | refine .ite ?_ ?_
    | refine (State.setLtc_keeps _ _ _).via ?_ | refine (State.showResults_keeps _).via ?_
    | refine (State.irq_keeps _ _ _).via ?_ | refine (State.armChan_keeps _ _ _).via ?_ | intro _ | split | dsimp only
theorem State.latchFinish_keeps (s : State) (w : LatchWait) :
    Keeps s (State.latchFinish s w) := by
  unfold State.latchFinish
  with_reducible repeat' first
    | simp only [Keeps.upd_iff] | assumption | exact .refl _ | refine .ite ?_ ?_ | refine .ite2 ?_ ?_
    | refine .ite1 ?_ ?_ | refine (State.velZero_keeps _ _ _).via ?_ | refine (State.showWaiting_keeps _ _).via ?_
    | refine (State.latchQueue_keeps _ _ _ _ _).via ?_ | refine (State.free_keeps _).via ?_ | intro _ | split
    | dsimp only
theorem State.latchTrigger_keeps (s : State) (l : Nat) (t : Time) (view : Int × Bool × Bool) :
    Keeps s (State.latchTrigger s l t view) := by
  unfold State.latchTrigger
  with_reducible repeat' first
    | simp only [Keeps.upd_iff] | assumption | exact .refl _ | refine .ite ?_ ?_ | refine .ite2 ?_ ?_
    | refine .ite1 ?_ ?_ | refine (State.irq_keeps _ _ _).via ?_ | refine (State.count_keeps _ _ _ _ _).via ?_
    | refine (State.putBit_keeps _ _ _ _).via ?_ | refine (State.showWaiting_keeps _ _).via ?_
    | refine (State.latchFinish_keeps _ _).via ?_ | intro _ | split | dsimp only
theorem State.latchPin_keeps (s : State) (trig idx : Nat) (rising : Bool) (t : Time) :
    Keeps s (State.latchPin s trig idx rising t) := by
  unfold State.latchPin
  with_reducible repeat' first
    | assumption | exact .refl _ | refine .ite ?_ ?_ | refine (State.latchTrigger_keeps _ _ _ _).via ?_
    | refine .fold (fun _ _ => ?_) ?_ | intro _ | split | dsimp only
theorem State.latchRecords_keeps (s : State) :
    Keeps s (State.latchRecords s) := by
  unfold State.latchRecords
  with_reducible repeat' first
    | simp only [Keeps.upd_iff] | assumption | exact .refl _ | refine .ite ?_ ?_ | refine .ite2 ?_ ?_
    | refine .ite1 ?_ ?_ | refine (State.latchTrigger_keeps _ _ _ _).via ?_ | refine .fold (fun _ _ => ?_) ?_
    | refine .fold1 (fun _ _ => ?_) ?_ | refine .fold2 (fun _ _ => ?_) ?_ | intro _ | split | dsimp only
theorem State.latchSweep_keeps (s : State) (f : State → LatchWait → Bool) :
    Keeps s (State.latchSweep s f) := by
  unfold State.latchSweep
  with_reducible repeat' first
    | assumption | exact .refl _ | refine (State.latchFinish_keeps _ _).via ?_ | refine .fold (fun _ _ => ?_) ?_
    | intro _ | dsimp only
theorem execLatchResultComplete_keeps (t : Time) (s : State) :
    KeepsOutcome s (execLatchResultComplete t s) := by
  unfold execLatchResultComplete
  with_reducible repeat' first
    | refine .next ?_ | exact .refl _ | refine (State.latchSweep_keeps _ _).via ?_
    | refine (State.tick_keeps _ _).via ?_
theorem execLatchWaitTimeout_keeps (t : Time) (s : State) :
    KeepsOutcome s (execLatchWaitTimeout t s) := by
  unfold execLatchWaitTimeout
  with_reducible repeat' first
    | refine .next ?_ | assumption | exact .refl _ | refine (State.latchSweep_keeps _ _).via ?_
    | refine (State.tick_keeps _ _).via ?_ | intro _ | dsimp only
theorem State.latchArm_keeps (s : State) (l : Nat) :
    Keeps s (State.latchArm s l) := by
  unfold State.latchArm
  with_reducible repeat' first
    | exact .refl _ | refine .ite ?_ ?_ | refine (State.cmdRefused_keeps _ _).via ?_
    | refine (State.armChan_keeps _ _ _).via ?_ | split
theorem State.latchDisarm_keeps (s : State) (l : Nat) :
    Keeps s (State.latchDisarm s l) := by
  unfold State.latchDisarm
  with_reducible repeat' first
    | exact .refl _ | refine (State.armChan_keeps _ _ _).via ?_
theorem State.writeLtCmd_keeps (s : State) (l v : Nat) :
    Keeps s (State.writeLtCmd s l v) := by
  unfold State.writeLtCmd
  with_reducible repeat' first
    | exact .refl _ | refine .ite ?_ ?_ | refine (State.latchArm_keeps _ _).via ?_
    | refine (State.latchDisarm_keeps _ _).via ?_ | split | dsimp only
theorem execLatchArm_keeps (t : Time) (m : Master) (s : State) :
    KeepsOutcome s (execLatchArm t m s) := by
  unfold execLatchArm
  with_reducible repeat' first
    | refine .next ?_ | assumption | exact .refl _ | refine (State.onPage_keeps _ _ _ ?_).via ?_
    | refine (State.tick_keeps _ _).via ?_ | refine (State.writeLtCmd_keeps _ _ _).via ?_ | intro _ | dsimp only
theorem execLatchDisarm_keeps (t : Time) (m : Master) (s : State) :
    KeepsOutcome s (execLatchDisarm t m s) := by
  unfold execLatchDisarm
  with_reducible repeat' first
    | refine .next ?_ | assumption | exact .refl _ | refine (State.onPage_keeps _ _ _ ?_).via ?_
    | refine (State.tick_keeps _ _).via ?_ | refine (State.writeLtCmd_keeps _ _ _).via ?_ | intro _ | dsimp only
theorem State.latHook_keeps (s : State) (l off v : Nat) :
    KeepsOpt s (State.latHook s l off v) := by
  unfold State.latHook
  with_reducible repeat' first
    | exact .none _ | refine .some ?_ | exact .refl _ | refine .ite ?_ ?_
    | refine (State.writeLtCmd_keeps _ _ _).via ?_ | refine (State.cfgRefused_keeps _ _).via ?_ | split
theorem State.resPop_keeps (s : State) (m : Master) :
    Keeps s (State.resPop s m).2 := by
  unfold State.resPop
  with_reducible repeat' first
    | simp only [Keeps.upd_iff] | assumption | exact .refl _ | refine (State.showResults_keeps _).via ?_ | intro _
    | split | dsimp only
theorem State.resPopWord_keeps (s : State) (m : Master) (i : Nat) :
    Keeps s (State.resPopWord s m i).2 := by
  unfold State.resPopWord
  with_reducible repeat' first
    | simp only [Keeps.upd_iff] | assumption | exact .refl _ | refine .ite ?_ ?_ | refine .ite2 ?_ ?_
    | refine (State.pairErr_keeps _ _).via ?_ | intro _ | split | dsimp only
theorem execResPop_keeps (t : Time) (m : Master) (wide : Bool) (s : State) :
    KeepsOutcome s (execResPop t m wide s) := by
  unfold execResPop
  with_reducible repeat' first
    | refine .next ?_ | exact .refl _ | refine .ite ?_ ?_ | refine .ite2 ?_ ?_ | refine .ite1 ?_ ?_
    | refine (State.resPop_keeps _ _).via ?_ | refine (State.tick_keeps _ _).via ?_
    | refine (State.resPopWord_keeps _ _ _).via ?_ | refine (State.ret2_keeps _ _ _).via ?_
    | refine (State.ret_keeps _ _).via ?_ | split | dsimp only
theorem execResPopWord_keeps (t : Time) (m : Master) (i : Fin 8) (s : State) :
    KeepsOutcome s (execResPopWord t m i s) := by
  unfold execResPopWord
  with_reducible repeat' first
    | refine .next ?_ | exact .refl _ | refine (State.resPopWord_keeps _ _ _).via ?_
    | refine (State.tick_keeps _ _).via ?_ | refine (State.ret_keeps _ _).via ?_ | dsimp only
theorem State.cpEdge_keeps (s : State) (i : Nat) (lvl : Bool) (stamp : Time) :
    Keeps s (State.cpEdge s i lvl stamp) := by
  unfold State.cpEdge
  with_reducible repeat' first
    | simp only [Keeps.upd_iff] | assumption | exact .refl _ | refine .ite ?_ ?_
    | refine (State.probeStamp_keeps _ _ _).via ?_ | refine (State.latchPin_keeps _ _ _ _ _).via ?_
    | refine (State.post_keeps _ _ _ _ _).via ?_ | intro _ | split | dsimp only
theorem State.syncEdge_keeps (s : State) (i : Nat) (lvl : Bool) (stamp : Time) :
    Keeps s (State.syncEdge s i lvl stamp) := by
  unfold State.syncEdge
  with_reducible repeat' first
    | simp only [Keeps.upd_iff] | assumption | exact .refl _ | refine .ite ?_ ?_
    | refine (State.setSync_keeps _ _ _ _).via ?_ | refine (State.probeStamp_keeps _ _ _).via ?_
    | refine (State.latchPin_keeps _ _ _ _ _).via ?_ | refine (State.post_keeps _ _ _ _ _).via ?_
    | refine (State.snapshot_keeps _ _).via ?_ | intro _ | split | dsimp only
theorem execCpEdge_keeps (t : Time) (i : Fin 32) (lvl : Bool) (stamp : Time) (s : State) :
    KeepsOutcome s (execCpEdge t i lvl stamp s) := by
  unfold execCpEdge
  with_reducible repeat' first
    | refine .next ?_ | exact .refl _ | refine (State.cpEdge_keeps _ _ _ _).via ?_
    | refine (State.tick_keeps _ _).via ?_
theorem execSyncEdge_keeps (t : Time) (i : Fin 8) (lvl : Bool) (stamp : Time) (s : State) :
    KeepsOutcome s (execSyncEdge t i lvl stamp s) := by
  unfold execSyncEdge
  with_reducible repeat' first
    | refine .next ?_ | exact .refl _ | refine (State.syncEdge_keeps _ _ _ _).via ?_
    | refine (State.tick_keeps _ _).via ?_

end Sys2Proof.Machine
end

