-- ==== Sys2Proof/Laws/KeepsField.lean ====
section
/-! SUPPORT. The operations of Machine/Field.lean keep the queue and the canonical form (`Keeps`). -/

set_option linter.unusedTactic false
set_option linter.unreachableTactic false
set_option linter.unusedSimpArgs false

namespace Sys2Proof.Machine

theorem State.setFin_keeps (s : State) (i : Nat) (f : FiSt → FiSt) :
    Keeps s (State.setFin s i f) := by
  unfold State.setFin
  with_reducible repeat' first
    | simp only [Keeps.upd_iff] | exact .refl _
theorem State.setFout_keeps (s : State) (j : Nat) (f : FoSt → FoSt) :
    Keeps s (State.setFout s j f) := by
  unfold State.setFout
  with_reducible repeat' first
    | simp only [Keeps.upd_iff] | exact .refl _
theorem State.fiPost_keeps (s : State) (i code : Nat) (stamp : Time) (payload : Nat) :
    Keeps s (State.fiPost s i code stamp payload) := by
  unfold State.fiPost
  with_reducible repeat' first
    | exact .refl _ | refine .ite ?_ ?_ | refine (State.post_keeps _ _ _ _ _).via ?_
    | refine (State.irq_keeps _ _ _).via ?_ | split
theorem State.foPost_keeps (s : State) (j code payload : Nat) :
    Keeps s (State.foPost s j code payload) := by
  unfold State.foPost
  with_reducible repeat' first
    | exact .refl _ | refine .ite ?_ ?_ | refine (State.postNow_keeps _ _ _ _).via ?_
    | refine (State.irq_keeps _ _ _).via ?_ | split
theorem State.foFaultPost_keeps (s : State) (j f : Nat) (set : Bool) :
    Keeps s (State.foFaultPost s j f set) := by
  unfold State.foFaultPost
  with_reducible repeat' first
    | exact .refl _ | refine (State.foPost_keeps _ _ _ _).via ?_
theorem State.fiJudge_keeps (s : State) (i : Nat) (t : Time) :
    Keeps s (State.fiJudge s i t) := by
  unfold State.fiJudge
  with_reducible repeat' first
    | simp only [Keeps.upd_iff] | assumption | exact .refl _ | refine .ite ?_ ?_ | refine .ite2 ?_ ?_
    | refine .ite1 ?_ ?_ | refine (State.putBit_keeps _ _ _ _).via ?_ | refine (State.setFin_keeps _ _ _).via ?_
    | intro _ | split | dsimp only
theorem State.fiChange_keeps (s : State) (i : Nat) (lvl : Bool) (seen : Time) :
    Keeps s (State.fiChange s i lvl seen) := by
  unfold State.fiChange
  with_reducible repeat' first
    | simp only [Keeps.upd_iff] | assumption | exact .refl _ | refine .ite ?_ ?_
    | refine (State.setFin_keeps _ _ _).via ?_ | refine (State.fiJudge_keeps _ _ _).via ?_ | intro _ | split
    | dsimp only
theorem State.fiLatch_keeps (s : State) (i : Nat) (lv : Bool) (raw : Time) :
    Keeps s (State.fiLatch s i lv raw) := by
  unfold State.fiLatch
  with_reducible repeat' first
    | assumption | exact .refl _ | refine .ite ?_ ?_ | refine (State.latchTrigger_keeps _ _ _ _).via ?_
    | refine .fold (fun _ _ => ?_) ?_ | intro _ | split | dsimp only
theorem State.fiDecide_keeps (s : State) (i : Nat) :
    Keeps s (State.fiDecide s i) := by
  unfold State.fiDecide
  with_reducible repeat' first
    | simp only [Keeps.upd_iff] | assumption | exact .refl _ | refine .ite ?_ ?_
    | refine (State.setRg64_keeps _ _ _).via ?_ | refine (State.putBit_keeps _ _ _ _).via ?_
    | refine (State.setFin_keeps _ _ _).via ?_ | refine (State.probeStamp_keeps _ _ _).via ?_
    | refine (State.fiPost_keeps _ _ _ _ _).via ?_ | refine (State.fiLatch_keeps _ _ _ _).via ?_ | intro _ | split
    | dsimp only
theorem execFieldInputChange_keeps (t : Time) (i : Fin 32) (lvl : Bool) (seen : Time) (s : State) :
    KeepsOutcome s (execFieldInputChange t i lvl seen s) := by
  unfold execFieldInputChange
  with_reducible repeat' first
    | refine .next ?_ | assumption | exact .refl _ | refine (State.fiChange_keeps _ _ _ _).via ?_
    | refine (State.tick_keeps _ _).via ?_ | dsimp only
theorem execFiEdge_keeps (t : Time) (i : Fin 32) (s : State) :
    KeepsOutcome s (execFiEdge t i s) := by
  unfold execFiEdge
  with_reducible repeat' first
    | refine .next ?_ | exact .refl _ | refine (State.fiDecide_keeps _ _).via ?_
    | refine (State.tick_keeps _ _).via ?_
theorem State.wireWindow_keeps (s : State) (i : Nat) (low : Bool) :
    Keeps s (State.wireWindow s i low) := by
  unfold State.wireWindow
  with_reducible repeat' first
    | simp only [Keeps.upd_iff] | assumption | exact .refl _ | refine .ite ?_ ?_
    | refine (State.setFin_keeps _ _ _).via ?_ | refine (State.fiPost_keeps _ _ _ _ _).via ?_
    | refine (State.putBit_keeps _ _ _ _).via ?_ | intro _ | split | dsimp only
theorem execWireBreak_keeps (t : Time) (i : Fin 32) (low : Bool) (s : State) :
    KeepsOutcome s (execWireBreak t i low s) := by
  unfold execWireBreak
  with_reducible repeat' first
    | refine .next ?_ | exact .refl _ | refine (State.wireWindow_keeps _ _ _).via ?_
    | refine (State.tick_keeps _ _).via ?_
theorem State.fiSilence_keeps (s : State) (i : Nat) :
    Keeps s (State.fiSilence s i) := by
  unfold State.fiSilence
  with_reducible repeat' first
    | simp only [Keeps.upd_iff] | assumption | exact .refl _ | refine .ite ?_ ?_
    | refine (State.report_keeps _ _ _ _ _ _).via ?_ | refine (State.fiPost_keeps _ _ _ _ _).via ?_
    | refine (State.setFin_keeps _ _ _).via ?_ | refine (State.putBit_keeps _ _ _ _).via ?_ | intro _ | split
    | dsimp only
theorem execFiSilent_keeps (t : Time) (i : Fin 32) (s : State) :
    KeepsOutcome s (execFiSilent t i s) := by
  unfold execFiSilent
  with_reducible repeat' first
    | refine .next ?_ | exact .refl _ | refine (State.fiSilence_keeps _ _).via ?_
    | refine (State.tick_keeps _ _).via ?_
theorem State.fiReturn_keeps (s : State) (i : Nat) (lvl : Bool) :
    Keeps s (State.fiReturn s i lvl) := by
  unfold State.fiReturn
  with_reducible repeat' first
    | simp only [Keeps.upd_iff] | assumption | exact .refl _ | refine .ite ?_ ?_
    | refine (State.fiJudge_keeps _ _ _).via ?_ | refine (State.reportClear_keeps _ _ _).via ?_
    | refine (State.fiPost_keeps _ _ _ _ _).via ?_ | refine (State.setFin_keeps _ _ _).via ?_
    | refine (State.putBit_keeps _ _ _ _).via ?_ | intro _ | split | dsimp only
theorem execFiRefreshReturn_keeps (t : Time) (i : Fin 32) (lvl : Bool) (s : State) :
    KeepsOutcome s (execFiRefreshReturn t i lvl s) := by
  unfold execFiRefreshReturn
  with_reducible repeat' first
    | refine .next ?_ | exact .refl _ | refine (State.fiReturn_keeps _ _ _).via ?_
    | refine (State.tick_keeps _ _).via ?_
theorem State.foUnreport_keeps (s : State) (j f : Nat) :
    Keeps s (State.foUnreport s j f) := by
  unfold State.foUnreport
  with_reducible repeat' first
    | exact .refl _ | refine .ite ?_ ?_ | refine (State.foFaultPost_keeps _ _ _ _).via ?_
    | refine (State.putBit_keeps _ _ _ _).via ?_ | split
theorem State.foSwitch_keeps (s : State) (j : Nat) (on : Bool) :
    Keeps s (State.foSwitch s j on) := by
  unfold State.foSwitch
  with_reducible repeat' first
    | simp only [Keeps.upd_iff] | assumption | exact .refl _ | refine .ite ?_ ?_
    | refine (State.putBit_keeps _ _ _ _).via ?_ | refine (State.setFout_keeps _ _ _).via ?_
    | refine (State.foUnreport_keeps _ _ _).via ?_ | refine .getD ?_ ?_ | intro _ | split | dsimp only
theorem State.foEval_keeps (s : State) (j : Nat) :
    Keeps s (State.foEval s j) := by
  unfold State.foEval
  with_reducible repeat' first
    | simp only [Keeps.upd_iff] | assumption | exact .refl _ | refine .ite ?_ ?_
    | refine (State.foSwitch_keeps _ _ _).via ?_ | refine (State.setFout_keeps _ _ _).via ?_ | intro _ | split
    | dsimp only
theorem State.foEvalAll_keeps (s : State) :
    Keeps s (State.foEvalAll s) := by
  unfold State.foEvalAll
  with_reducible repeat' first
    | assumption | exact .refl _ | refine (State.foEval_keeps _ _).via ?_ | refine .fold (fun _ _ => ?_) ?_ | intro _
    | dsimp only
theorem State.releaseWhere_keeps (s : State) (pg : Nat) (f : Staged → Bool) :
    Keeps s (State.releaseWhere s pg f) := by
  unfold State.releaseWhere
  with_reducible repeat' first
    | simp only [Keeps.upd_iff] | assumption | exact .refl _ | refine .ite ?_ ?_
    | refine (State.setPage_keeps _ _ _).via ?_ | refine (State.setRg_keeps _ _ _).via ?_
    | refine .fold (fun _ _ => ?_) ?_ | intro _ | split | dsimp only
theorem State.foDrive_keeps (s : State) (j : Nat) (p : Int) :
    Keeps s (State.foDrive s j p) := by
  unfold State.foDrive
  with_reducible repeat' first
    | simp only [Keeps.upd_iff] | assumption | exact .refl _ | refine .ite ?_ ?_
    | refine (State.setFout_keeps _ _ _).via ?_ | refine (State.foSwitch_keeps _ _ _).via ?_ | intro _ | split
    | dsimp only
theorem State.foDuty_keeps (s : State) (j : Nat) (v : Word) :
    Keeps s (State.foDuty s j v) := by
  unfold State.foDuty
  with_reducible repeat' first
    | simp only [Keeps.upd_iff] | assumption | exact .refl _ | refine .ite ?_ ?_
    | refine (State.setRg_keeps _ _ _).via ?_ | refine (State.setFout_keeps _ _ _).via ?_
    | refine (State.foDrive_keeps _ _ _).via ?_ | intro _ | split | dsimp only
theorem State.foStart_keeps (s : State) (j : Nat) :
    Keeps s (State.foStart s j) := by
  unfold State.foStart
  with_reducible repeat' first
    | simp only [Keeps.upd_iff] | assumption | exact .refl _ | refine .ite ?_ ?_
    | refine (State.setFout_keeps _ _ _).via ?_ | refine (State.releaseWhere_keeps _ _ _).via ?_
    | refine (State.foDrive_keeps _ _ _).via ?_ | intro _ | split | dsimp only
theorem execFoPeriodStart_keeps (t : Time) (j : Fin 32) (s : State) :
    KeepsOutcome s (execFoPeriodStart t j s) := by
  unfold execFoPeriodStart
  with_reducible repeat' first
    | refine .next ?_ | exact .refl _ | refine (State.foStart_keeps _ _).via ?_ | refine (State.tick_keeps _ _).via ?_
theorem State.foOnEnd_keeps (s : State) (j : Nat) :
    Keeps s (State.foOnEnd s j) := by
  unfold State.foOnEnd
  with_reducible repeat' first
    | simp only [Keeps.upd_iff] | assumption | exact .refl _ | refine .ite ?_ ?_
    | refine (State.foSwitch_keeps _ _ _).via ?_ | refine (State.setFout_keeps _ _ _).via ?_ | intro _ | split
    | dsimp only
theorem execFoOnTimeEnd_keeps (t : Time) (j : Fin 32) (s : State) :
    KeepsOutcome s (execFoOnTimeEnd t j s) := by
  unfold execFoOnTimeEnd
  with_reducible repeat' first
    | refine .next ?_ | exact .refl _ | refine (State.foOnEnd_keeps _ _).via ?_ | refine (State.tick_keeps _ _).via ?_
theorem State.writeFoCtrl_keeps (s : State) (m : Master) (j v : Nat) :
    Keeps s (State.writeFoCtrl s m j v) := by
  unfold State.writeFoCtrl
  with_reducible repeat' first
    | simp only [Keeps.upd_iff] | assumption | exact .refl _ | refine .ite ?_ ?_
    | refine (State.setFout_keeps _ _ _).via ?_ | refine (State.foUnreport_keeps _ _ _).via ?_
    | refine (State.foEval_keeps _ _).via ?_ | refine (State.cfgRefused_keeps _ _).via ?_
    | refine (State.writeReg_keeps _ _ _ _ _).via ?_ | intro _ | split | dsimp only
theorem execFoConfigWrite_keeps (t : Time) (m : Master) (j : Fin 32) (v : Word) (s : State) :
    KeepsOutcome s (execFoConfigWrite t m j v s) := by
  unfold execFoConfigWrite
  with_reducible repeat' first
    | refine .next ?_ | assumption | exact .refl _ | refine (State.onPage_keeps _ _ _ ?_).via ?_
    | refine (State.tick_keeps _ _).via ?_ | refine (State.writeFoCtrl_keeps _ _ _ _).via ?_ | intro _ | dsimp only
theorem State.foReport_keeps (s : State) (j code : Nat) :
    Keeps s (State.foReport s j code) := by
  unfold State.foReport
  with_reducible repeat' first
    | exact .refl _ | refine .ite ?_ ?_ | refine (State.report_keeps _ _ _ _ _ _).via ?_ | split | dsimp only
theorem State.foReportClear_keeps (s : State) (j code : Nat) :
    Keeps s (State.foReportClear s j code) := by
  unfold State.foReportClear
  with_reducible repeat' first
    | exact .refl _ | refine .ite ?_ ?_ | refine (State.reportClear_keeps _ _ _).via ?_ | split | dsimp only
theorem State.foLatching_keeps (s : State) (j f : Nat) (set : Bool) :
    Keeps s (State.foLatching s j f set) := by
  unfold State.foLatching
  with_reducible repeat' first
    | simp only [Keeps.upd_iff] | assumption | exact .refl _ | refine .ite ?_ ?_
    | refine (State.setFout_keeps _ _ _).via ?_ | refine (State.foEval_keeps _ _).via ?_
    | refine (State.foReport_keeps _ _ _).via ?_ | refine (State.foFaultPost_keeps _ _ _ _).via ?_
    | refine (State.putBit_keeps _ _ _ _).via ?_ | intro _ | split | dsimp only
theorem State.foReported_keeps (s : State) (j f : Nat) (set : Bool) :
    Keeps s (State.foReported s j f set) := by
  unfold State.foReported
  with_reducible repeat' first
    | simp only [Keeps.upd_iff] | assumption | exact .refl _ | refine .ite ?_ ?_
    | refine (State.putBit_keeps _ _ _ _).via ?_ | refine (State.foFaultPost_keeps _ _ _ _).via ?_
    | refine (State.foUnreport_keeps _ _ _).via ?_ | intro _ | split | dsimp only
theorem State.foFrames_keeps (s : State) (j : Nat) (e : Time) (v : Word) :
    Keeps s (State.foFrames s j e v) := by
  unfold State.foFrames
  with_reducible repeat' first
    | simp only [Keeps.upd_iff] | assumption | exact .refl _ | refine .ite ?_ ?_ | intro _ | split | dsimp only
theorem State.foConversion_keeps (s : State) (j ua : Nat) :
    Keeps s (State.foConversion s j ua) := by
  unfold State.foConversion
  with_reducible repeat' first
    | simp only [Keeps.upd_iff] | assumption | exact .refl _ | refine (State.setRg_keeps _ _ _).via ?_
    | refine (State.setFout_keeps _ _ _).via ?_ | refine (State.foLatching_keeps _ _ _ _).via ?_
    | refine (State.foReported_keeps _ _ _ _).via ?_ | refine (State.foFrames_keeps _ _ _ _).via ?_ | intro _ | split
    | dsimp only
theorem execFoCurrentConversion_keeps (t : Time) (j : Fin 32) (ua : Fin 16777216) (s : State) :
    KeepsOutcome s (execFoCurrentConversion t j ua s) := by
  unfold execFoCurrentConversion
  with_reducible repeat' first
    | refine .next ?_ | assumption | exact .refl _ | refine (State.foConversion_keeps _ _ _).via ?_
    | refine (State.tick_keeps _ _).via ?_ | dsimp only
theorem execFoFault_keeps (t : Time) (j : Fin 32) (f : Fin 8) (set : Bool) (s : State) :
    KeepsOutcome s (execFoFault t j f set s) := by
  unfold execFoFault
  with_reducible repeat' first
    | refine .next ?_ | simp only [Keeps.upd_iff] | assumption | exact .refl _
    | refine (State.foLatching_keeps _ _ _ _).via ?_ | refine (State.foReported_keeps _ _ _ _).via ?_
    | refine (State.tick_keeps _ _).via ?_ | intro _ | split | dsimp only
theorem State.foLogicSilent_keeps (s : State) (j : Nat) :
    Keeps s (State.foLogicSilent s j) := by
  unfold State.foLogicSilent
  with_reducible repeat' first
    | simp only [Keeps.upd_iff] | assumption | exact .refl _ | refine .ite ?_ ?_
    | refine (State.putBit_keeps _ _ _ _).via ?_ | refine (State.setFout_keeps _ _ _).via ?_
    | refine (State.foPost_keeps _ _ _ _).via ?_ | refine (State.foFaultPost_keeps _ _ _ _).via ?_
    | refine (State.foEval_keeps _ _).via ?_ | intro _ | split | dsimp only
theorem execFoLogicSilent_keeps (t : Time) (j : Fin 32) (s : State) :
    KeepsOutcome s (execFoLogicSilent t j s) := by
  unfold execFoLogicSilent
  with_reducible repeat' first
    | refine .next ?_ | exact .refl _ | refine (State.foLogicSilent_keeps _ _).via ?_
    | refine (State.tick_keeps _ _).via ?_
theorem State.foCtlSilent_keeps (s : State) (j : Nat) :
    Keeps s (State.foCtlSilent s j) := by
  unfold State.foCtlSilent
  with_reducible repeat' first
    | simp only [Keeps.upd_iff] | assumption | exact .refl _ | refine .ite ?_ ?_
    | refine (State.foReport_keeps _ _ _).via ?_ | refine (State.setFout_keeps _ _ _).via ?_ | intro _ | split
    | dsimp only
theorem execFoSilent_keeps (t : Time) (j : Fin 32) (s : State) :
    KeepsOutcome s (execFoSilent t j s) := by
  unfold execFoSilent
  with_reducible repeat' first
    | refine .next ?_ | exact .refl _ | refine (State.foCtlSilent_keeps _ _).via ?_
    | refine (State.tick_keeps _ _).via ?_
theorem State.foReturn_keeps (s : State) (j : Nat) :
    Keeps s (State.foReturn s j) := by
  unfold State.foReturn
  with_reducible repeat' first
    | simp only [Keeps.upd_iff] | assumption | exact .refl _ | refine .ite ?_ ?_
    | refine (State.putBit_keeps _ _ _ _).via ?_ | refine (State.setFout_keeps _ _ _).via ?_
    | refine (State.foFaultPost_keeps _ _ _ _).via ?_ | refine (State.foReportClear_keeps _ _ _).via ?_ | intro _
    | split | dsimp only
theorem execFoRefreshReturn_keeps (t : Time) (j : Fin 32) (s : State) :
    KeepsOutcome s (execFoRefreshReturn t j s) := by
  unfold execFoRefreshReturn
  with_reducible repeat' first
    | refine .next ?_ | exact .refl _ | refine (State.foReturn_keeps _ _).via ?_
    | refine (State.tick_keeps _ _).via ?_
theorem State.foClearBit_keeps (s : State) (j f : Nat) :
    Keeps s (State.foClearBit s j f) := by
  unfold State.foClearBit
  with_reducible repeat' first
    | simp only [Keeps.upd_iff] | assumption | exact .refl _ | refine .ite ?_ ?_
    | refine (State.putBit_keeps _ _ _ _).via ?_ | refine (State.setFout_keeps _ _ _).via ?_
    | refine (State.foFaultPost_keeps _ _ _ _).via ?_ | refine (State.foReportClear_keeps _ _ _).via ?_
    | refine (State.cmdRefused_keeps _ _).via ?_ | intro _ | split | dsimp only
theorem State.writeFoClr_keeps (s : State) (j v : Nat) :
    Keeps s (State.writeFoClr s j v) := by
  unfold State.writeFoClr
  with_reducible repeat' first
    | assumption | exact .refl _ | refine .ite ?_ ?_ | refine (State.foClearBit_keeps _ _ _).via ?_
    | refine .fold (fun _ _ => ?_) ?_ | intro _ | split | dsimp only
theorem execFoClear_keeps (t : Time) (_m : Master) (j : Fin 32) (v : Word) (s : State) :
    KeepsOutcome s (execFoClear t _m j v s) := by
  unfold execFoClear
  with_reducible repeat' first
    | refine .next ?_ | assumption | exact .refl _ | refine (State.onPage_keeps _ _ _ ?_).via ?_
    | refine (State.tick_keeps _ _).via ?_ | refine (State.writeFoClr_keeps _ _ _).via ?_ | intro _ | dsimp only
theorem State.uvOff_keeps (s : State) (set : Bool) :
    Keeps s (State.uvOff s set) := by
  unfold State.uvOff
  with_reducible repeat' first
    | assumption | exact .refl _ | refine .ite ?_ ?_ | refine (State.foFaultPost_keeps _ _ _ _).via ?_
    | refine (State.putBit_keeps _ _ _ _).via ?_ | refine .fold (fun _ _ => ?_) ?_ | intro _ | split | dsimp only
theorem State.uvRelease_keeps (s : State) :
    Keeps s (State.uvRelease s) := by
  unfold State.uvRelease
  with_reducible repeat' first
    | exact .refl _ | refine (State.uvOff_keeps _ _).via ?_ | refine (State.putBit_keeps _ _ _ _).via ?_
theorem State.fieldMeasure_keeps (s : State) (v : Nat) :
    Keeps s (State.fieldMeasure s v) := by
  unfold State.fieldMeasure
  with_reducible repeat' first
    | exact .refl _ | refine (State.putBit_keeps _ _ _ _).via ?_ | refine (State.putFld_keeps _ _ _ _ _).via ?_
theorem State.fieldDead_keeps (s : State) :
    Keeps s (State.fieldDead s) := by
  unfold State.fieldDead
  with_reducible repeat' first
    | assumption | exact .refl _ | refine (State.putBit_keeps _ _ _ _).via ?_ | dsimp only
theorem State.fieldDown_keeps (s : State) (v : Nat) :
    Keeps s (State.fieldDown s v) := by
  unfold State.fieldDown
  with_reducible repeat' first
    | simp only [Keeps.upd_iff] | assumption | exact .refl _ | refine .ite ?_ ?_
    | refine (State.fieldMeasure_keeps _ _).via ?_ | refine (State.uvOff_keeps _ _).via ?_
    | refine (State.irq_keeps _ _ _).via ?_ | refine (State.putFld_keeps _ _ _ _ _).via ?_
    | refine (State.setFin_keeps _ _ _).via ?_ | refine (State.foEvalAll_keeps _).via ?_
    | refine .fold (fun _ _ => ?_) ?_ | intro _ | split | dsimp only
theorem execFieldUndervoltage_keeps (t : Time) (v : Option (Fin 65536)) (s : State) :
    KeepsOutcome s (execFieldUndervoltage t v s) := by
  unfold execFieldUndervoltage
  with_reducible repeat' first
    | refine .next ?_ | simp only [Keeps.upd_iff] | assumption | exact .refl _
    | refine (State.fieldDead_keeps _).via ?_ | refine (State.fieldDown_keeps _ _).via ?_
    | refine (State.tick_keeps _ _).via ?_ | intro _ | split | dsimp only
theorem State.fieldUp_keeps (s : State) (v : Nat) :
    Keeps s (State.fieldUp s v) := by
  unfold State.fieldUp
  with_reducible repeat' first
    | assumption | exact .refl _ | refine .ite ?_ ?_ | refine (State.fieldMeasure_keeps _ _).via ?_
    | refine (State.irq_keeps _ _ _).via ?_ | refine (State.putBit_keeps _ _ _ _).via ?_
    | refine (State.uvRelease_keeps _).via ?_ | refine (State.fiJudge_keeps _ _ _).via ?_
    | refine .fold (fun _ _ => ?_) ?_ | intro _ | split | dsimp only
theorem execFieldUvRecovery_keeps (t : Time) (v : Fin 65536) (s : State) :
    KeepsOutcome s (execFieldUvRecovery t v s) := by
  unfold execFieldUvRecovery
  with_reducible repeat' first
    | refine .next ?_ | exact .refl _ | refine (State.fieldUp_keeps _ _).via ?_ | refine (State.tick_keeps _ _).via ?_
theorem State.uvClr_keeps (s : State) :
    Keeps s (State.uvClr s) := by
  unfold State.uvClr
  with_reducible repeat' first
    | exact .refl _ | refine .ite ?_ ?_ | refine (State.cmdRefused_keeps _ _).via ?_
    | refine (State.uvRelease_keeps _).via ?_ | split
theorem execUvClr_keeps (t : Time) (_m : Master) (s : State) :
    KeepsOutcome s (execUvClr t _m s) := by
  unfold execUvClr
  with_reducible repeat' first
    | refine .next ?_ | exact .refl _ | refine (State.onPage_keeps _ _ _ ?_).via ?_
    | refine (State.tick_keeps _ _).via ?_ | refine (State.uvClr_keeps _).via ?_ | intro _
theorem State.sgOne_keeps (s : State) (j : Nat) :
    Keeps s (State.sgOne s j) := by
  unfold State.sgOne
  with_reducible repeat' first
    | simp only [Keeps.upd_iff] | assumption | exact .refl _ | refine .ite ?_ ?_
    | refine (State.putBit_keeps _ _ _ _).via ?_ | refine (State.foPost_keeps _ _ _ _).via ?_
    | refine (State.foEval_keeps _ _).via ?_ | refine (State.setFout_keeps _ _ _).via ?_ | refine .getD ?_ ?_
    | intro _ | split | dsimp only
theorem State.sgEval_keeps (s : State) :
    Keeps s (State.sgEval s) := by
  unfold State.sgEval
  with_reducible repeat' first
    | assumption | exact .refl _ | refine (State.sgOne_keeps _ _).via ?_ | refine .fold (fun _ _ => ?_) ?_ | intro _
    | dsimp only
theorem State.runSync_keeps (s : State) :
    Keeps s (State.runSync s) := by
  unfold State.runSync
  with_reducible repeat' first
    | exact .refl _ | refine (State.foEvalAll_keeps _).via ?_ | refine (State.sgEval_keeps _).via ?_
    | refine (State.slotEvalAll_keeps _).via ?_
theorem State.fieldHook_keeps (s : State) (m : Master) (off v : Nat) :
    KeepsOpt s (State.fieldHook s m off v) := by
  unfold State.fieldHook
  with_reducible repeat' first
    | exact .none _ | refine .some ?_ | simp only [Keeps.upd_iff] | assumption | exact .refl _ | refine .ite ?_ ?_
    | refine (State.setFin_keeps _ _ _).via ?_ | refine (State.fiJudge_keeps _ _ _).via ?_
    | refine (State.writeFoCtrl_keeps _ _ _ _).via ?_ | refine (State.writeFoClr_keeps _ _ _).via ?_
    | refine (State.uvClr_keeps _).via ?_ | refine (State.cfgRefused_keeps _ _).via ?_
    | refine (State.writeReg_keeps _ _ _ _ _).via ?_ | intro _ | split | dsimp only
theorem State.fieldEnable_keeps (s : State) :
    Keeps s (State.fieldEnable s) := by
  unfold State.fieldEnable
  with_reducible repeat' first
    | assumption | exact .refl _ | refine (State.fiJudge_keeps _ _ _).via ?_ | refine (State.foEvalAll_keeps _).via ?_
    | refine .fold (fun _ _ => ?_) ?_ | intro _ | dsimp only
theorem State.fieldReset_keeps (s : State) :
    Keeps s (State.fieldReset s) := by
  unfold State.fieldReset
  with_reducible repeat' first
    | simp only [Keeps.upd_iff] | assumption | exact .refl _ | refine .ite ?_ ?_
    | refine (State.putBit_keeps _ _ _ _).via ?_ | refine (State.foFaultPost_keeps _ _ _ _).via ?_
    | refine (State.sgEval_keeps _).via ?_ | refine (State.fieldEnable_keeps _).via ?_
    | refine .fold (fun _ _ => ?_) ?_ | intro _ | split | dsimp only
theorem State.fieldInject_keeps (s : State) :
    Keeps s (State.fieldInject s) := by
  unfold State.fieldInject
  with_reducible repeat' first
    | simp only [Keeps.upd_iff] | assumption | exact .refl _ | refine .ite ?_ ?_
    | refine (State.setFout_keeps _ _ _).via ?_ | refine .getD ?_ ?_ | intro _ | split | dsimp only

end Sys2Proof.Machine
end

