-- ==== Sys2Proof/Laws/KeepsSys.lean ====
section
/-! SUPPORT. The operations of Machine/Sys.lean keep the queue and the canonical form (`Keeps`). -/

set_option linter.unusedTactic false
set_option linter.unreachableTactic false
set_option linter.unusedSimpArgs false

namespace Sys2Proof.Machine

theorem State.toDev_keeps (s : State) (d : DevState) (cause : Nat) :
    Keeps s (State.toDev s d cause) := by
  unfold State.toDev
  with_reducible repeat' first
    | simp only [Keeps.upd_iff] | exact .refl _ | refine .ite ?_ ?_ | refine (State.putFld_keeps _ _ _ _ _).via ?_
    | refine (State.putBit_keeps _ _ _ _).via ?_ | split | dsimp only
theorem State.tryRun_keeps (s : State) :
    Keeps s (State.tryRun s) := by
  unfold State.tryRun
  with_reducible repeat' first
    | exact .refl _ | refine .ite ?_ ?_ | refine (State.toDev_keeps _ _ _).via ?_ | split
theorem State.writeOutEn_keeps (s : State) (on : Bool) :
    Keeps s (State.writeOutEn s on) := by
  unfold State.writeOutEn
  with_reducible repeat' first
    | exact .refl _ | refine .ite ?_ ?_ | refine (State.tryRun_keeps _).via ?_
    | refine (State.putBit_keeps _ _ _ _).via ?_ | refine (State.toDev_keeps _ _ _).via ?_ | split | dsimp only
theorem State.safeAck_keeps (s : State) :
    Keeps s (State.safeAck s) := by
  unfold State.safeAck
  with_reducible repeat' first
    | exact .refl _ | refine .ite ?_ ?_ | refine (State.putBit_keeps _ _ _ _).via ?_
    | refine (State.toDev_keeps _ _ _).via ?_ | split
theorem State.writeRunCtrl_keeps (s : State) (m : Master) (v : Nat) :
    Keeps s (State.writeRunCtrl s m v) := by
  unfold State.writeRunCtrl
  with_reducible repeat' first
    | simp only [Keeps.upd_iff] | assumption | exact .refl _ | refine .ite ?_ ?_
    | refine (State.setPage_keeps _ _ _).via ?_ | refine (State.writeOutEn_keeps _ _).via ?_
    | refine (State.failInc_keeps _ _).via ?_ | refine (State.safeAck_keeps _).via ?_ | intro _ | split | dsimp only
theorem State.deviceHold_keeps (s : State) (cause : Nat) :
    Keeps s (State.deviceHold s cause) := by
  unfold State.deviceHold
  with_reducible repeat' first
    | simp only [Keeps.upd_iff] | exact .refl _ | refine .ite ?_ ?_ | refine (State.toDev_keeps _ _ _).via ?_
    | refine (State.putBit_keeps _ _ _ _).via ?_ | split | dsimp only
theorem State.faultRecord_keeps (s : State) (kind code unit : Nat) :
    Keeps s (State.faultRecord s kind code unit) := by
  unfold State.faultRecord
  with_reducible repeat' first
    | simp only [Keeps.upd_iff] | assumption | exact .refl _ | refine .ite ?_ ?_ | refine .ite2 ?_ ?_
    | refine .ite1 ?_ ?_ | refine (State.stw_keeps _ _ _).via ?_ | refine .fold (fun _ _ => ?_) ?_
    | refine .fold1 (fun _ _ => ?_) ?_ | refine .fold2 (fun _ _ => ?_) ?_ | intro _ | split | dsimp only
theorem State.timebaseFault_keeps (s : State) :
    Keeps s (State.timebaseFault s) := by
  unfold State.timebaseFault
  with_reducible repeat' first
    | simp only [Keeps.upd_iff] | exact .refl _ | refine (State.faultRecord_keeps _ _ _ _).via ?_
    | refine (State.report_keeps _ _ _ _ _ _).via ?_ | refine (State.deviceHold_keeps _ _).via ?_ | refine .getD ?_ ?_
    | dsimp only
theorem State.pllcLost_keeps (s : State) :
    Keeps s (State.pllcLost s) := by
  unfold State.pllcLost
  with_reducible repeat' first
    | simp only [Keeps.upd_iff] | exact .refl _
theorem State.pllLost_keeps (s : State) (p : Pll) (freq : Bool) :
    Keeps s (State.pllLost s p freq) := by
  unfold State.pllLost
  with_reducible repeat' first
    | simp only [Keeps.upd_iff] | assumption | exact .refl _ | refine (State.timebaseFault_keeps _).via ?_
    | refine (State.putBit_keeps _ _ _ _).via ?_ | refine (State.report_keeps _ _ _ _ _ _).via ?_
    | refine (State.pllcLost_keeps _).via ?_ | intro _ | split

end Sys2Proof.Machine
end

