-- ==== Sys2Proof/Laws/KeepsDevice.lean ====
section
/-! SUPPORT. The operations of Machine/Device.lean keep the queue and the canonical form (`Keeps`). -/

set_option linter.unusedTactic false
set_option linter.unreachableTactic false
set_option linter.unusedSimpArgs false

namespace Sys2Proof.Machine

theorem State.runCtrl_keeps (s : State) (m : Master) (v : Nat) :
    Keeps s (State.runCtrl s m v) := by
  unfold State.runCtrl
  with_reducible repeat' first
    | exact .refl _ | refine (State.runSync_keeps _).via ?_ | refine (State.writeRunCtrl_keeps _ _ _).via ?_
theorem execOutEnSet_keeps (t : Time) (m : Master) (s : State) :
    KeepsOutcome s (execOutEnSet t m s) := by
  unfold execOutEnSet
  with_reducible repeat' first
    | refine .next ?_ | assumption | exact .refl _ | refine (State.onPage_keeps _ _ _ ?_).via ?_
    | refine (State.tick_keeps _ _).via ?_ | refine (State.runCtrl_keeps _ _ _).via ?_ | intro _ | dsimp only
theorem execOutEnClear_keeps (t : Time) (m : Master) (s : State) :
    KeepsOutcome s (execOutEnClear t m s) := by
  unfold execOutEnClear
  with_reducible repeat' first
    | refine .next ?_ | assumption | exact .refl _ | refine (State.onPage_keeps _ _ _ ?_).via ?_
    | refine (State.tick_keeps _ _).via ?_ | refine (State.runCtrl_keeps _ _ _).via ?_ | intro _ | dsimp only
theorem execRunEntry_keeps (t : Time) (s : State) :
    KeepsOutcome s (execRunEntry t s) := by
  unfold execRunEntry
  with_reducible repeat' first
    | refine .next ?_ | exact .refl _ | refine (State.runSync_keeps _).via ?_ | refine (State.tryRun_keeps _).via ?_
    | refine (State.tick_keeps _ _).via ?_
theorem execSafeAck_keeps (t : Time) (m : Master) (s : State) :
    KeepsOutcome s (execSafeAck t m s) := by
  unfold execSafeAck
  with_reducible repeat' first
    | refine .next ?_ | assumption | exact .refl _ | refine (State.onPage_keeps _ _ _ ?_).via ?_
    | refine (State.tick_keeps _ _).via ?_ | refine (State.runCtrl_keeps _ _ _).via ?_ | intro _ | dsimp only
theorem execPllLockLost_keeps (t : Time) (p : Pll) (freq : Bool) (s : State) :
    KeepsOutcome s (execPllLockLost t p freq s) := by
  unfold execPllLockLost
  with_reducible repeat' first
    | refine .next ?_ | exact .refl _ | refine .ite ?_ ?_ | refine (State.runSync_keeps _).via ?_
    | refine (State.pllLost_keeps _ _ _).via ?_ | refine (State.tick_keeps _ _).via ?_
    | refine (State.canStopAll_keeps _).via ?_ | split | dsimp only
theorem execRefclkLost_keeps (t : Time) (s : State) :
    KeepsOutcome s (execRefclkLost t s) := by
  unfold execRefclkLost
  with_reducible repeat' first
    | refine .next ?_ | exact .refl _ | refine (State.canStopAll_keeps _).via ?_
    | refine (State.runSync_keeps _).via ?_ | refine (State.pllLost_keeps _ _ _).via ?_
    | refine (State.putBit_keeps _ _ _ _).via ?_ | refine (State.tick_keeps _ _).via ?_

end Sys2Proof.Machine
end

