-- ==== Sys2Proof/Laws/KeepsPwm.lean ====
section
/-! SUPPORT. The operations of Machine/Pwm.lean keep the queue and the canonical form (`Keeps`). -/

set_option linter.unusedTactic false
set_option linter.unreachableTactic false
set_option linter.unusedSimpArgs false

namespace Sys2Proof.Machine

theorem State.applyCmp_keeps (s : State) (n h : Nat) :
    Keeps s (State.applyCmp s n h) := by
  unfold State.applyCmp
  with_reducible repeat' first
    | simp only [Keeps.upd_iff] | assumption | exact .refl _ | refine .ite ?_ ?_
    | refine (State.setPw_keeps _ _ _).via ?_ | refine (State.count_keeps _ _ _ _ _).via ?_ | intro _ | split
    | dsimp only
theorem State.mclkAnchor_keeps (s : State) (n : Nat) (at_ : Time) :
    Keeps s (State.mclkAnchor s n at_) := by
  unfold State.mclkAnchor
  with_reducible repeat' first
    | simp only [Keeps.upd_iff] | assumption | exact .refl _ | intro _ | dsimp only
theorem State.periodClamp_keeps (s : State) (n per : Nat) (at_ : Time) :
    Keeps s (State.periodClamp s n per at_) := by
  unfold State.periodClamp
  with_reducible repeat' first
    | exact .refl _ | refine (State.post_keeps _ _ _ _ _).via ?_ | refine (State.irq_keeps _ _ _).via ?_
theorem State.slotEnable_keeps (s : State) (n : Nat) :
    Keeps s (State.slotEnable s n) := by
  unfold State.slotEnable
  with_reducible repeat' first
    | simp only [Keeps.upd_iff] | assumption | exact .refl _ | refine (State.setPw_keeps _ _ _).via ?_ | intro _
    | dsimp only
theorem State.slotStart_keeps (s : State) (n : Nat) (g : Time) :
    Keeps s (State.slotStart s n g) := by
  unfold State.slotStart
  with_reducible repeat' first
    | simp only [Keeps.upd_iff] | assumption | exact .refl _ | refine .ite ?_ ?_ | refine .ite2 ?_ ?_
    | refine .ite1 ?_ ?_ | refine (State.putFld_keeps _ _ _ _ _).via ?_ | refine (State.setRg64_keeps _ _ _).via ?_
    | refine (State.post_keeps _ _ _ _ _).via ?_ | refine (State.applyCmp_keeps _ _ _).via ?_
    | refine (State.mclkAnchor_keeps _ _ _).via ?_ | refine (State.periodClamp_keeps _ _ _ _).via ?_
    | refine (State.setPw_keeps _ _ _).via ?_ | refine (State.setPs_keeps _ _ _).via ?_
    | refine (State.slotEval_keeps _ _).via ?_ | refine .fold (fun _ _ => ?_) ?_ | refine .fold1 (fun _ _ => ?_) ?_
    | refine .fold2 (fun _ _ => ?_) ?_ | intro _ | split | dsimp only
theorem State.flushStaged_keeps (s : State) (pg : Nat) :
    Keeps s (State.flushStaged s pg) := by
  unfold State.flushStaged
  with_reducible repeat' first
    | simp only [Keeps.upd_iff] | assumption | exact .refl _ | refine (State.setRg_keeps _ _ _).via ?_
    | refine (State.setPage_keeps _ _ _).via ?_ | refine .fold (fun _ _ => ?_) ?_ | intro _ | dsimp only
theorem State.slotStop_keeps (s : State) (n : Nat) :
    Keeps s (State.slotStop s n) := by
  unfold State.slotStop
  with_reducible repeat' first
    | simp only [Keeps.upd_iff] | assumption | exact .refl _ | refine .ite ?_ ?_
    | refine (State.gateOff_keeps _ _ _ _).via ?_ | refine (State.setPw_keeps _ _ _).via ?_
    | refine (State.putFld_keeps _ _ _ _ _).via ?_ | refine (State.slotEval_keeps _ _).via ?_
    | refine (State.flushStaged_keeps _ _).via ?_ | refine .fold (fun _ _ => ?_) ?_ | intro _ | split | dsimp only
theorem State.periodChange_keeps (s : State) (n : Nat) (tc : Time) (atZero : Bool) :
    Keeps s (State.periodChange s n tc atZero) := by
  unfold State.periodChange
  with_reducible repeat' first
    | simp only [Keeps.upd_iff] | assumption | exact .refl _ | refine .ite ?_ ?_ | refine .ite2 ?_ ?_
    | refine .ite1 ?_ ?_ | refine (State.setPw_keeps _ _ _).via ?_ | refine (State.setRg64_keeps _ _ _).via ?_
    | refine (State.periodClamp_keeps _ _ _ _).via ?_ | intro _ | split | dsimp only
theorem State.reanchor_keeps (s : State) (n : Nat) (tc : Time) (atZero : Bool) :
    Keeps s (State.reanchor s n tc atZero) := by
  unfold State.reanchor
  with_reducible repeat' first
    | simp only [Keeps.upd_iff] | assumption | exact .refl _ | refine .ite ?_ ?_
    | refine (State.setPw_keeps _ _ _).via ?_ | refine (State.putBit_keeps _ _ _ _).via ?_
    | refine (State.setRg64_keeps _ _ _).via ?_ | refine (State.post_keeps _ _ _ _ _).via ?_
    | refine (State.irq_keeps _ _ _).via ?_ | intro _ | split | dsimp only
theorem State.divCommit_keeps (s : State) (n : Nat) (tc : Time) :
    Keeps s (State.divCommit s n tc) := by
  unfold State.divCommit
  with_reducible repeat' first
    | simp only [Keeps.upd_iff] | assumption | exact .refl _ | refine .ite ?_ ?_ | intro _ | split | dsimp only
theorem State.pwmCommit_keeps (s : State) (n : Nat) (tc : Time) (rel : List Nat) :
    Keeps s (State.pwmCommit s n tc rel) := by
  unfold State.pwmCommit
  with_reducible repeat' first
    | assumption | exact .refl _ | refine .ite ?_ ?_ | refine (State.periodChange_keeps _ _ _ _).via ?_
    | refine (State.reanchor_keeps _ _ _ _).via ?_ | refine (State.mclkAnchor_keeps _ _ _).via ?_
    | refine (State.applyCmp_keeps _ _ _).via ?_ | refine (State.slotEval_keeps _ _).via ?_
    | refine (State.divCommit_keeps _ _ _).via ?_ | refine (State.putBit_keeps _ _ _ _).via ?_
    | refine .fold (fun _ _ => ?_) ?_ | intro _ | split | dsimp only
theorem State.writePwmCtrl_keeps (s : State) (m : Master) (n v : Nat) :
    Keeps s (State.writePwmCtrl s m n v) := by
  unfold State.writePwmCtrl
  with_reducible repeat' first
    | assumption | exact .refl _ | refine .ite ?_ ?_ | refine (State.cfgRefused_keeps _ _).via ?_
    | refine (State.writeReg_keeps _ _ _ _ _).via ?_ | refine (State.cmpMuteSync_keeps _ _).via ?_
    | refine (State.chopInactive_keeps _ _).via ?_ | refine (State.pickMask_keeps _ _ _).via ?_
    | refine (State.ascSync_keeps _ _).via ?_ | refine (State.ascReport_keeps _ _ _).via ?_
    | refine (State.slotEval_keeps _ _).via ?_ | split | dsimp only
theorem State.tripOut_keeps (s : State) (n k : Nat) :
    Keeps s (State.tripOut s n k) := by
  unfold State.tripOut
  with_reducible repeat' first
    | simp only [Keeps.upd_iff] | assumption | exact .refl _ | refine .ite ?_ ?_
    | refine (State.srcSet_keeps _ _ _ _).via ?_ | refine (State.setPw_keeps _ _ _).via ?_ | intro _ | split
    | dsimp only
theorem State.tripExpiry_keeps (s : State) (n k : Nat) :
    Keeps s (State.tripExpiry s n k) := by
  unfold State.tripExpiry
  with_reducible repeat' first
    | exact .refl _ | refine .ite ?_ ?_ | refine (State.tripOut_keeps _ _ _).via ?_ | split | dsimp only
theorem State.tripRaw_keeps (s0 : State) (n k : Nat) (level : Bool) :
    Keeps s0 (State.tripRaw s0 n k level) := by
  unfold State.tripRaw
  with_reducible repeat' first
    | simp only [Keeps.upd_iff] | assumption | exact .refl _ | refine .ite ?_ ?_
    | refine (State.tripOut_keeps _ _ _).via ?_ | refine (State.tripExpiry_keeps _ _ _).via ?_
    | refine (State.setPw_keeps _ _ _).via ?_ | refine (State.setPs_keeps _ _ _).via ?_ | intro _ | split | dsimp only
theorem State.tripPin_keeps (s : State) (p : TripPin) (level : Bool) :
    Keeps s (State.tripPin s p level) := by
  unfold State.tripPin
  with_reducible repeat' first
    | simp only [Keeps.upd_iff] | assumption | exact .refl _ | refine (State.tripRaw_keeps _ _ _ _).via ?_
    | refine .fold (fun _ _ => ?_) ?_ | intro _ | split | dsimp only
theorem State.tripRestart_keeps (s : State) (n : Nat) :
    Keeps s (State.tripRestart s n) := by
  unfold State.tripRestart
  with_reducible repeat' first
    | simp only [Keeps.upd_iff] | assumption | exact .refl _ | refine .ite ?_ ?_
    | refine (State.tripOut_keeps _ _ _).via ?_ | refine (State.tripRaw_keeps _ _ _ _).via ?_
    | refine (State.setPw_keeps _ _ _).via ?_ | refine .fold (fun _ _ => ?_) ?_ | intro _ | split | dsimp only
theorem State.writeTrip_keeps (s : State) (m : Master) (n off v : Nat) :
    Keeps s (State.writeTrip s m n off v) := by
  unfold State.writeTrip
  with_reducible repeat' first
    | simp only [Keeps.upd_iff] | assumption | exact .refl _ | refine (State.writeReg_keeps _ _ _ _ _).via ?_
    | refine (State.tripExpiry_keeps _ _ _).via ?_ | refine (State.tripRestart_keeps _ _).via ?_
    | refine (State.setPw_keeps _ _ _).via ?_ | refine .fold (fun _ _ => ?_) ?_ | intro _ | dsimp only
theorem State.applyMask_keeps (s : State) (n m : Nat) (ovr : Bool) (at_ : Time) :
    Keeps s (State.applyMask s n m ovr at_) := by
  unfold State.applyMask
  with_reducible repeat' first
    | exact .refl _ | refine (State.slotEval_keeps _ _).via ?_ | refine (State.putMask_keeps _ _ _ _ _).via ?_
theorem State.setHall_keeps (s : State) (n st : Nat) (at_ : Time) :
    Keeps s (State.setHall s n st at_) := by
  unfold State.setHall
  with_reducible repeat' first
    | simp only [Keeps.upd_iff] | assumption | exact .refl _ | refine .ite ?_ ?_
    | refine (State.putFld_keeps _ _ _ _ _).via ?_ | refine (State.setPw_keeps _ _ _).via ?_
    | refine (State.applyMask_keeps _ _ _ _ _).via ?_ | intro _ | split | dsimp only
theorem State.commApply_keeps (s : State) (n : Nat) (c : Time × Nat × Time) :
    Keeps s (State.commApply s n c) := by
  unfold State.commApply
  with_reducible repeat' first
    | simp only [Keeps.upd_iff] | assumption | exact .refl _ | refine .ite ?_ ?_ | refine .ite2 ?_ ?_
    | refine .ite1 ?_ ?_ | refine (State.setPw_keeps _ _ _).via ?_ | refine (State.post_keeps _ _ _ _ _).via ?_
    | refine (State.irq_keeps _ _ _).via ?_ | refine (State.count_keeps _ _ _ _ _).via ?_
    | refine (State.setHall_keeps _ _ _ _).via ?_ | intro _ | split | dsimp only
theorem State.commDue_keeps (s : State) (n : Nat) :
    Keeps s (State.commDue s n) := by
  unfold State.commDue
  with_reducible repeat' first
    | assumption | exact .refl _ | refine (State.commApply_keeps _ _ _).via ?_ | refine .fold (fun _ _ => ?_) ?_
    | refine .fold1 (fun _ _ => ?_) ?_ | intro _ | dsimp only
theorem State.commLate_keeps (s : State) :
    Keeps s (State.commLate s) := by
  unfold State.commLate
  with_reducible repeat' first
    | assumption | exact .refl _ | refine (State.commApply_keeps _ _ _).via ?_ | refine .fold (fun _ _ => ?_) ?_
    | refine .fold1 (fun _ _ => ?_) ?_ | refine .fold2 (fun _ _ => ?_) ?_ | intro _ | dsimp only
theorem State.maskFrom_keeps (s : State) (n : Nat) :
    Keeps s (State.maskFrom s n) := by
  unfold State.maskFrom
  with_reducible repeat' first
    | simp only [Keeps.upd_iff] | assumption | exact .refl _ | refine (State.slotEval_keeps _ _).via ?_
    | refine (State.setPw_keeps _ _ _).via ?_ | intro _ | dsimp only
theorem State.writeCommCfg_keeps (s : State) (m : Master) (n v : Nat) :
    Keeps s (State.writeCommCfg s m n v) := by
  unfold State.writeCommCfg
  with_reducible repeat' first
    | simp only [Keeps.upd_iff] | assumption | exact .refl _ | refine .ite ?_ ?_
    | refine (State.writeReg_keeps _ _ _ _ _).via ?_ | refine (State.maskFrom_keeps _ _).via ?_
    | refine (State.setPw_keeps _ _ _).via ?_ | intro _ | split | dsimp only
theorem State.writeOvr_keeps (s : State) (m : Master) (n v : Nat) :
    Keeps s (State.writeOvr s m n v) := by
  unfold State.writeOvr
  with_reducible repeat' first
    | simp only [Keeps.upd_iff] | assumption | exact .refl _ | refine .ite ?_ ?_
    | refine (State.cfgRefused_keeps _ _).via ?_ | refine (State.writeReg_keeps _ _ _ _ _).via ?_
    | refine (State.post_keeps _ _ _ _ _).via ?_ | refine (State.maskFrom_keeps _ _).via ?_
    | refine (State.applyMask_keeps _ _ _ _ _).via ?_ | refine (State.putFld_keeps _ _ _ _ _).via ?_
    | refine (State.setPw_keeps _ _ _).via ?_ | intro _ | split | dsimp only
theorem State.pwmHook_keeps (s : State) (m : Master) (n off v : Nat) :
    KeepsOpt s (State.pwmHook s m n off v) := by
  unfold State.pwmHook
  with_reducible repeat' first
    | exact .none _ | refine .some ?_ | assumption | exact .refl _ | refine .ite ?_ ?_
    | refine (State.cfgRefused_keeps _ _).via ?_ | refine (State.writeReg_keeps _ _ _ _ _).via ?_
    | refine (State.writePwmCtrl_keeps _ _ _ _).via ?_ | refine (State.writeTrip_keeps _ _ _ _ _).via ?_
    | refine (State.writeCommCfg_keeps _ _ _ _).via ?_ | refine (State.writeOvr_keeps _ _ _ _).via ?_ | split
    | dsimp only
theorem execFeedbackEdge_keeps (t : Time) (n : Fin 48) (line : Fin 3) (stamp : Time) (level stamped : Bool) (s : State) :
    KeepsOutcome s (execFeedbackEdge t n line stamp level stamped s) := by
  unfold execFeedbackEdge
  with_reducible repeat' first
    | refine .next ?_ | assumption | exact .refl _ | refine (State.commLate_keeps _).via ?_
    | refine (State.refreshFrames_keeps _ _ _).via ?_ | refine (State.feedbackEdge_keeps _ _ _ _ _ _).via ?_
    | refine (State.tick_keeps _ _).via ?_ | intro _ | dsimp only
theorem execMinIntExpiry_keeps (t : Time) (n : Fin 48) (line : Fin 3) (s : State) :
    KeepsOutcome s (execMinIntExpiry t n line s) := by
  unfold execMinIntExpiry
  with_reducible repeat' first
    | refine .next ?_ | assumption | exact .refl _ | refine (State.tick_keeps _ _).via ?_
    | refine (State.commLate_keeps _).via ?_ | refine (State.refreshFrames_keeps _ _ _).via ?_
    | refine (State.minIntExpiry_keeps _ _ _).via ?_ | refine .getD ?_ ?_ | intro _ | dsimp only
theorem execSlotEnable_keeps (t : Time) (_m : Master) (n : Fin 48) (s : State) :
    KeepsOutcome s (execSlotEnable t _m n s) := by
  unfold execSlotEnable
  with_reducible repeat' first
    | refine .next ?_ | assumption | exact .refl _ | refine .ite ?_ ?_ | refine (State.onPage_keeps _ _ _ ?_).via ?_
    | refine (State.tick_keeps _ _).via ?_ | refine (State.slotEnable_keeps _ _).via ?_
    | refine (State.putBit_keeps _ _ _ _).via ?_ | intro _ | split | dsimp only
theorem execPwmConfigWrite_keeps (t : Time) (m : Master) (n : Fin 48) (v : Word) (s : State) :
    KeepsOutcome s (execPwmConfigWrite t m n v s) := by
  unfold execPwmConfigWrite
  with_reducible repeat' first
    | refine .next ?_ | assumption | exact .refl _ | refine (State.onPage_keeps _ _ _ ?_).via ?_
    | refine (State.tick_keeps _ _).via ?_ | refine (State.writePwmCtrl_keeps _ _ _ _).via ?_ | intro _ | dsimp only
theorem execReanchorPauseEnd_keeps (t : Time) (n : Fin 48) (s : State) :
    KeepsOutcome s (execReanchorPauseEnd t n s) := by
  unfold execReanchorPauseEnd
  with_reducible repeat' first
    | refine .next ?_ | simp only [Keeps.upd_iff] | assumption | exact .refl _ | refine .ite ?_ ?_
    | refine (State.tick_keeps _ _).via ?_ | refine (State.slotEval_keeps _ _).via ?_
    | refine (State.putBit_keeps _ _ _ _).via ?_ | refine (State.setPw_keeps _ _ _).via ?_ | intro _ | split
    | dsimp only
theorem execCompareMatch_keeps (t : Time) (n : Fin 48) (s : State) :
    KeepsOutcome s (execCompareMatch t n s) := by
  unfold execCompareMatch
  with_reducible repeat' first
    | refine .next ?_ | exact .refl _ | refine (State.slotEval_keeps _ _).via ?_
    | refine (State.tick_keeps _ _).via ?_
theorem execDeadTimeEnd_keeps (t : Time) (n : Fin 48) (s : State) :
    KeepsOutcome s (execDeadTimeEnd t n s) := by
  unfold execDeadTimeEnd
  with_reducible repeat' first
    | refine .next ?_ | exact .refl _ | refine (State.slotEval_keeps _ _).via ?_
    | refine (State.tick_keeps _ _).via ?_
theorem execTripSourceChange_keeps (t : Time) (p : TripPin) (level : Bool) (s : State) :
    KeepsOutcome s (execTripSourceChange t p level s) := by
  unfold execTripSourceChange
  with_reducible repeat' first
    | refine .next ?_ | exact .refl _ | refine (State.tripPin_keeps _ _ _).via ?_
    | refine (State.tick_keeps _ _).via ?_
theorem execTripFilterExpiry_keeps (t : Time) (n : Fin 48) (k : Fin 18) (s : State) :
    KeepsOutcome s (execTripFilterExpiry t n k s) := by
  unfold execTripFilterExpiry
  with_reducible repeat' first
    | refine .next ?_ | exact .refl _ | refine (State.tripExpiry_keeps _ _ _).via ?_
    | refine (State.tick_keeps _ _).via ?_
theorem execCommEnable_keeps (t : Time) (m : Master) (n : Fin 48) (port : Fin 64) (s : State) :
    KeepsOutcome s (execCommEnable t m n port s) := by
  unfold execCommEnable
  with_reducible repeat' first
    | refine .next ?_ | assumption | exact .refl _ | refine (State.onPage_keeps _ _ _ ?_).via ?_
    | refine (State.tick_keeps _ _).via ?_ | refine (State.writeCommCfg_keeps _ _ _ _).via ?_ | intro _ | dsimp only
theorem execComm_keeps (t : Time) (n : Fin 48) (s : State) :
    KeepsOutcome s (execComm t n s) := by
  unfold execComm
  with_reducible repeat' first
    | refine .next ?_ | exact .refl _ | refine (State.slotEval_keeps _ _).via ?_
    | refine (State.commDue_keeps _ _).via ?_ | refine (State.tick_keeps _ _).via ?_
theorem execOverride_keeps (t : Time) (m : Master) (n : Fin 48) (v : Word) (s : State) :
    KeepsOutcome s (execOverride t m n v s) := by
  unfold execOverride
  with_reducible repeat' first
    | refine .next ?_ | assumption | exact .refl _ | refine (State.onPage_keeps _ _ _ ?_).via ?_
    | refine (State.tick_keeps _ _).via ?_ | refine (State.writeOvr_keeps _ _ _ _).via ?_ | intro _ | dsimp only

end Sys2Proof.Machine
end

