-- ==== Sys2Proof/Laws/KeepsSdm.lean ====
section
/-! SUPPORT. The operations of Machine/Sdm.lean keep the queue and the canonical form (`Keeps`). -/

set_option linter.unusedTactic false
set_option linter.unreachableTactic false
set_option linter.unusedSimpArgs false

namespace Sys2Proof.Machine

theorem State.setSd_keeps (s : State) (n : Nat) (f : SdmSt → SdmSt) :
    Keeps s (State.setSd s n f) := by
  unfold State.setSd
  with_reducible repeat' first
    | simp only [Keeps.upd_iff] | exact .refl _
theorem State.setIn_keeps (s : State) (n i : Nat) (f : SdIn → SdIn) :
    Keeps s (State.setIn s n i f) := by
  unfold State.setIn
  with_reducible repeat' first
    | simp only [Keeps.upd_iff] | assumption | exact .refl _ | refine (State.setSd_keeps _ _ _).via ?_ | intro _
    | dsimp only
theorem State.openWindows_keeps (s : State) (n : Nat) (tk ready : Time) :
    Keeps s (State.openWindows s n tk ready) := by
  unfold State.openWindows
  with_reducible repeat' first
    | simp only [Keeps.upd_iff] | assumption | exact .refl _ | refine .ite ?_ ?_
    | refine (State.putBit_keeps _ _ _ _).via ?_ | refine (State.setIn_keeps _ _ _ _).via ?_
    | refine .fold (fun _ _ => ?_) ?_ | intro _ | split | dsimp only
theorem State.updFrames_keeps (s : State) (a : Nat) (tk : Time) (f : Frame → Frame) :
    Keeps s (State.updFrames s a tk f) := by
  unfold State.updFrames
  with_reducible repeat' first
    | simp only [Keeps.upd_iff] | assumption | exact .refl _ | refine .ite ?_ ?_ | intro _ | split | dsimp only
theorem State.slotFrames_keeps (s : State) (n : Nat) (tk : Time) (f : Frame → Frame) :
    Keeps s (State.slotFrames s n tk f) := by
  unfold State.slotFrames
  with_reducible repeat' first
    | simp only [Keeps.upd_iff] | assumption | exact .refl _ | refine (State.updFrames_keeps _ _ _ _).via ?_ | intro _
    | split
theorem State.windowDone_keeps (s : State) (n i : Nat) (clk : List Time) (pin : List (Time × Bool)) (run : Time) :
    Keeps s (State.windowDone s n i clk pin run) := by
  unfold State.windowDone
  with_reducible repeat' first
    | simp only [Keeps.upd_iff] | assumption | exact .refl _ | refine .ite ?_ ?_
    | refine (State.setRg_keeps _ _ _).via ?_ | refine (State.putBit_keeps _ _ _ _).via ?_
    | refine (State.sdmInv_keeps _ _).via ?_ | refine (State.setSd_keeps _ _ _).via ?_
    | refine (State.setIn_keeps _ _ _ _).via ?_ | refine (State.slotFrames_keeps _ _ _ _).via ?_ | intro _ | split
    | dsimp only
theorem State.judgeInputs_keeps (s : State) (n need good : Nat) :
    Keeps s (State.judgeInputs s n need good) := by
  unfold State.judgeInputs
  with_reducible repeat' first
    | simp only [Keeps.upd_iff] | assumption | exact .refl _ | refine .ite ?_ ?_
    | refine (State.sdmInv_keeps _ _).via ?_ | refine (State.putBit_keeps _ _ _ _).via ?_
    | refine (State.setIn_keeps _ _ _ _).via ?_ | refine .fold (fun _ _ => ?_) ?_ | intro _ | split | dsimp only
theorem State.sdFault_keeps (s : State) (n bitNo code payload : Nat) :
    Keeps s (State.sdFault s n bitNo code payload) := by
  unfold State.sdFault
  with_reducible repeat' first
    | exact .refl _ | refine (State.postNow_keeps _ _ _ _).via ?_ | refine (State.irq_keeps _ _ _).via ?_
    | refine (State.putBit_keeps _ _ _ _).via ?_
theorem State.clkLoss_keeps (s : State) (n : Nat) (last : Time) :
    Keeps s (State.clkLoss s n last) := by
  unfold State.clkLoss
  with_reducible repeat' first
    | simp only [Keeps.upd_iff] | assumption | exact .refl _ | refine .ite ?_ ?_
    | refine (State.sdFault_keeps _ _ _ _ _).via ?_ | refine (State.setSd_keeps _ _ _).via ?_
    | refine (State.sdmInv_keeps _ _).via ?_ | refine (State.setIn_keeps _ _ _ _).via ?_
    | refine .fold (fun _ _ => ?_) ?_ | intro _ | split | dsimp only
theorem State.manErr_keeps (s : State) (n i : Nat) (c : Time) :
    Keeps s (State.manErr s n i c) := by
  unfold State.manErr
  with_reducible repeat' first
    | simp only [Keeps.upd_iff] | assumption | exact .refl _ | refine .ite ?_ ?_
    | refine (State.sdFault_keeps _ _ _ _ _).via ?_ | refine (State.count_keeps _ _ _ _ _).via ?_
    | refine (State.setIn_keeps _ _ _ _).via ?_ | intro _ | split | dsimp only
theorem State.sdStuck_keeps (s : State) (n i : Nat) (run : Time) (per : Nat) :
    Keeps s (State.sdStuck s n i run per) := by
  unfold State.sdStuck
  with_reducible repeat' first
    | simp only [Keeps.upd_iff] | assumption | exact .refl _ | refine .ite ?_ ?_
    | refine (State.sdFault_keeps _ _ _ _ _).via ?_ | refine (State.setIn_keeps _ _ _ _).via ?_ | intro _ | split
    | dsimp only
theorem State.writeInCfg_keeps (s : State) (m : Master) (n i v : Nat) :
    Keeps s (State.writeInCfg s m n i v) := by
  unfold State.writeInCfg
  with_reducible repeat' first
    | exact .refl _ | refine .ite ?_ ?_ | refine (State.cfgRefused_keeps _ _).via ?_
    | refine (State.writeReg_keeps _ _ _ _ _).via ?_ | split | dsimp only
theorem State.writeClkCfg_keeps (s : State) (m : Master) (n v : Nat) :
    Keeps s (State.writeClkCfg s m n v) := by
  unfold State.writeClkCfg
  with_reducible repeat' first
    | simp only [Keeps.upd_iff] | assumption | exact .refl _ | refine .ite ?_ ?_ | refine .ite1 ?_ ?_
    | refine (State.cfgRefused_keeps _ _).via ?_ | refine (State.writeReg_keeps _ _ _ _ _).via ?_
    | refine (State.divCommit_keeps _ _ _).via ?_ | refine (State.setSd_keeps _ _ _).via ?_ | intro _ | split
    | dsimp only
theorem State.setCmpFlag_keeps (s : State) (n c : Nat) (lo on : Bool) :
    Keeps s (State.setCmpFlag s n c lo on) := by
  unfold State.setCmpFlag
  with_reducible repeat' first
    | exact .refl _ | refine .ite ?_ ?_ | refine (State.tripRaw_keeps _ _ _ _).via ?_
    | refine (State.putBit_keeps _ _ _ _).via ?_ | split
theorem State.clearCmpFlags_keeps (s : State) (n : Nat) :
    Keeps s (State.clearCmpFlags s n) := by
  unfold State.clearCmpFlags
  with_reducible repeat' first
    | assumption | exact .refl _ | refine (State.setCmpFlag_keeps _ _ _ _ _).via ?_ | refine .fold (fun _ _ => ?_) ?_
    | intro _ | dsimp only
theorem State.sdmEnable_keeps (s : State) (n : Nat) :
    Keeps s (State.sdmEnable s n) := by
  unfold State.sdmEnable
  with_reducible repeat' first
    | simp only [Keeps.upd_iff] | assumption | exact .refl _ | refine .ite ?_ ?_
    | refine (State.sdmInv_keeps _ _).via ?_ | refine (State.clearCmpFlags_keeps _ _).via ?_
    | refine (State.setSd_keeps _ _ _).via ?_ | refine (State.divCommit_keeps _ _ _).via ?_ | intro _ | split
    | dsimp only
theorem State.sdmReset_keeps (s : State) (n : Nat) :
    Keeps s (State.sdmReset s n) := by
  unfold State.sdmReset
  with_reducible repeat' first
    | simp only [Keeps.upd_iff] | assumption | exact .refl _ | refine (State.sdmInv_keeps _ _).via ?_
    | refine (State.clearCmpFlags_keeps _ _).via ?_ | refine (State.setSd_keeps _ _ _).via ?_ | intro _ | dsimp only
theorem State.writeCmpCfg_keeps (s : State) (m : Master) (n c v : Nat) :
    Keeps s (State.writeCmpCfg s m n c v) := by
  unfold State.writeCmpCfg
  with_reducible repeat' first
    | exact .refl _ | refine .ite ?_ ?_ | refine (State.writeReg_keeps _ _ _ _ _).via ?_
    | refine (State.setCmpFlag_keeps _ _ _ _ _).via ?_ | split | dsimp only
theorem State.cmpHalf_keeps (s : State) (n c i : Nat) (lo : Bool) (f centre : Int) :
    Keeps s (State.cmpHalf s n c i lo f centre) := by
  unfold State.cmpHalf
  with_reducible repeat' first
    | exact .refl _ | refine .ite ?_ ?_ | refine (State.putBit_keeps _ _ _ _).via ?_
    | refine (State.irq_keeps _ _ _).via ?_ | refine (State.setCmpFlag_keeps _ _ _ _ _).via ?_
    | refine (State.post_keeps _ _ _ _ _).via ?_ | split | dsimp only
theorem State.cmpTripSync_keeps (s : State) (n c : Nat) (lo : Bool) :
    Keeps s (State.cmpTripSync s n c lo) := by
  unfold State.cmpTripSync
  with_reducible repeat' first
    | exact .refl _ | refine .ite ?_ ?_ | refine (State.setCmpFlag_keeps _ _ _ _ _).via ?_ | split
theorem State.cmpEval_keeps (s : State) (n i : Nat) (f centre : Int) :
    Keeps s (State.cmpEval s n i f centre) := by
  unfold State.cmpEval
  with_reducible repeat' first
    | assumption | exact .refl _ | refine .ite ?_ ?_ | refine (State.cmpHalf_keeps _ _ _ _ _ _ _).via ?_
    | refine .fold (fun _ _ => ?_) ?_ | intro _ | split | dsimp only
theorem State.afterTest_keeps (s : State) (n i : Nat) (oldest : Int) :
    Keeps s (State.afterTest s n i oldest) := by
  unfold State.afterTest
  with_reducible repeat' first
    | simp only [Keeps.upd_iff] | assumption | exact .refl _ | refine .ite ?_ ?_
    | refine (State.cmpTripSync_keeps _ _ _ _).via ?_ | refine (State.setPs_keeps _ _ _).via ?_ | intro _ | split
    | dsimp only
theorem State.fastUpdate_keeps (s : State) (n i : Nat) (clk : List Time) (pin : List (Time × Bool)) (c : Time) :
    Keeps s (State.fastUpdate s n i clk pin c) := by
  unfold State.fastUpdate
  with_reducible repeat' first
    | simp only [Keeps.upd_iff] | assumption | exact .refl _ | refine .ite ?_ ?_ | refine .ite2 ?_ ?_
    | refine .ite1 ?_ ?_ | refine (State.setRg_keeps _ _ _).via ?_ | refine (State.hopNode_keeps _ _ _ _ _).via ?_
    | refine (State.setSd_keeps _ _ _).via ?_ | refine (State.setIn_keeps _ _ _ _).via ?_
    | refine (State.cmpEval_keeps _ _ _ _ _).via ?_ | refine (State.afterTest_keeps _ _ _ _).via ?_ | intro _ | split
    | dsimp only
theorem State.auxSources_keeps (s : State) (n : Nat) :
    Keeps s (State.auxSources s n) := by
  unfold State.auxSources
  with_reducible repeat' first
    | simp only [Keeps.upd_iff] | assumption | exact .refl _ | refine .ite ?_ ?_
    | refine (State.tripRaw_keeps _ _ _ _).via ?_ | refine .fold (fun _ _ => ?_) ?_ | intro _ | split | dsimp only
theorem State.writeAuxSel_keeps (s : State) (m : Master) (n v : Nat) :
    Keeps s (State.writeAuxSel s m n v) := by
  unfold State.writeAuxSel
  with_reducible repeat' first
    | simp only [Keeps.upd_iff] | assumption | exact .refl _ | refine .ite ?_ ?_
    | refine (State.writeReg_keeps _ _ _ _ _).via ?_ | refine (State.setSd_keeps _ _ _).via ?_
    | refine (State.auxSources_keeps _ _).via ?_ | intro _ | split | dsimp only
theorem State.applyAuxSel_keeps (s : State) (n : Nat) (tk : Time) :
    Keeps s (State.applyAuxSel s n tk) := by
  unfold State.applyAuxSel
  with_reducible repeat' first
    | simp only [Keeps.upd_iff] | assumption | exact .refl _ | refine (State.auxSources_keeps _ _).via ?_
    | refine (State.setSd_keeps _ _ _).via ?_ | intro _ | split | dsimp only
theorem State.auxStat_keeps (s : State) (m : Nat) :
    Keeps s (State.auxStat s m) := by
  unfold State.auxStat
  with_reducible repeat' first
    | exact .refl _ | refine (State.setRg_keeps _ _ _).via ?_ | dsimp only
theorem State.auxTrigger_keeps (s : State) (n : Nat) (tk : Time) :
    Keeps s (State.auxTrigger s n tk) := by
  unfold State.auxTrigger
  with_reducible repeat' first
    | simp only [Keeps.upd_iff] | assumption | exact .refl _ | refine (State.auxStat_keeps _ _).via ?_ | intro _
    | split | dsimp only
theorem State.auxStart_keeps (s : State) (m : Nat) :
    Keeps s (State.auxStart s m) := by
  unfold State.auxStart
  with_reducible repeat' first
    | simp only [Keeps.upd_iff] | assumption | exact .refl _ | refine .ite ?_ ?_
    | refine (State.auxStat_keeps _ _).via ?_ | intro _ | split | dsimp only
theorem State.auxDone_keeps (s : State) (m code : Nat) :
    Keeps s (State.auxDone s m code) := by
  unfold State.auxDone
  with_reducible repeat' first
    | simp only [Keeps.upd_iff] | assumption | exact .refl _ | refine .ite ?_ ?_
    | refine (State.setRg_keeps _ _ _).via ?_ | refine (State.setRg64_keeps _ _ _).via ?_
    | refine (State.hopNode_keeps _ _ _ _ _).via ?_ | refine (State.slotFrames_keeps _ _ _ _).via ?_
    | refine (State.auxStat_keeps _ _).via ?_ | refine (State.slotEval_keeps _ _).via ?_
    | refine .fold (fun _ _ => ?_) ?_ | intro _ | split | dsimp only
theorem State.setWinFlag_keeps (s : State) (m j : Nat) (below on : Bool) :
    Keeps s (State.setWinFlag s m j below on) := by
  unfold State.setWinFlag
  with_reducible repeat' first
    | assumption | exact .refl _ | refine .ite ?_ ?_ | refine (State.irq_keeps _ _ _).via ?_
    | refine (State.putBit_keeps _ _ _ _).via ?_ | refine (State.postNow_keeps _ _ _ _).via ?_
    | refine (State.auxSources_keeps _ _).via ?_ | refine .fold (fun _ _ => ?_) ?_ | intro _ | split | dsimp only
theorem State.winCompare_keeps (s0 : State) (m j v : Nat) :
    Keeps s0 (State.winCompare s0 m j v) := by
  unfold State.winCompare
  with_reducible repeat' first
    | simp only [Keeps.upd_iff] | assumption | exact .refl _ | refine .ite ?_ ?_
    | refine (State.setWinFlag_keeps _ _ _ _ _).via ?_ | intro _ | split | dsimp only
theorem State.writeWinCfg_keeps (s : State) (m : Master) (k j v : Nat) :
    Keeps s (State.writeWinCfg s m k j v) := by
  unfold State.writeWinCfg
  with_reducible repeat' first
    | exact .refl _ | refine .ite ?_ ?_ | refine (State.writeReg_keeps _ _ _ _ _).via ?_
    | refine (State.setWinFlag_keeps _ _ _ _ _).via ?_ | split | dsimp only
theorem State.testUpdate_keeps (s : State) (n : Nat) (ts : TestSt) (clk : List Time) (pin : List (Time × Bool)) :
    Keeps s (State.testUpdate s n ts clk pin) := by
  unfold State.testUpdate
  with_reducible repeat' first
    | simp only [Keeps.upd_iff] | assumption | exact .refl _ | refine .ite ?_ ?_
    | refine (State.setRg_keeps _ _ _).via ?_ | refine (State.cmpHalf_keeps _ _ _ _ _ _ _).via ?_
    | refine (State.cmpEval_keeps _ _ _ _ _).via ?_ | refine (State.winCompare_keeps _ _ _ _).via ?_ | intro _ | split
    | dsimp only
theorem State.testRestore_keeps (s : State) (n : Nat) (ts : TestSt) :
    Keeps s (State.testRestore s n ts) := by
  unfold State.testRestore
  with_reducible repeat' first
    | simp only [Keeps.upd_iff] | assumption | exact .refl _ | refine .ite ?_ ?_
    | refine (State.auxSources_keeps _ _).via ?_ | refine (State.winCompare_keeps _ _ _ _).via ?_
    | refine (State.cmpTripSync_keeps _ _ _ _).via ?_ | refine (State.setPs_keeps _ _ _).via ?_
    | refine .fold (fun _ _ => ?_) ?_ | intro _ | split | dsimp only
theorem State.phaseEnd_keeps (s0 : State) (n : Nat) (clk : List Time) (pin : List (Time × Bool)) :
    Keeps s0 (State.phaseEnd s0 n clk pin) := by
  unfold State.phaseEnd
  with_reducible repeat' first
    | simp only [Keeps.upd_iff] | assumption | exact .refl _ | refine .ite ?_ ?_
    | refine (State.testUpdate_keeps _ _ _ _ _).via ?_ | refine (State.setPs_keeps _ _ _).via ?_
    | refine (State.testRestore_keeps _ _ _).via ?_ | refine (State.testFinish_keeps _ _ _ _).via ?_ | intro _ | split
    | dsimp only
theorem State.sdmHook_keeps (s : State) (m : Master) (n off v : Nat) :
    KeepsOpt s (State.sdmHook s m n off v) := by
  unfold State.sdmHook
  with_reducible repeat' first
    | exact .none _ | refine .some ?_ | exact .refl _ | refine .ite ?_ ?_
    | refine (State.writeClkCfg_keeps _ _ _ _).via ?_ | refine (State.writeAuxSel_keeps _ _ _ _).via ?_
    | refine (State.writeInCfg_keeps _ _ _ _ _).via ?_ | refine (State.writeCmpCfg_keeps _ _ _ _ _).via ?_ | split
theorem State.auxHook_keeps (s : State) (m : Master) (n off v : Nat) :
    KeepsOpt s (State.auxHook s m n off v) := by
  unfold State.auxHook
  with_reducible repeat' first
    | exact .none _ | refine .some ?_ | exact .refl _ | refine .ite ?_ ?_
    | refine (State.writeWinCfg_keeps _ _ _ _ _).via ?_ | split
theorem execSinc3Window_keeps (t : Time) (n : Fin 48) (i : Fin 4) (clk : List Time) (pin mid : List (Time × Bool)) (run : Time) (s : State) :
    KeepsOutcome s (execSinc3Window t n i clk pin mid run s) := by
  unfold execSinc3Window
  with_reducible repeat' first
    | refine .next ?_ | exact .refl _ | refine (State.windowDone_keeps _ _ _ _ _ _).via ?_
    | refine (State.tick_keeps _ _).via ?_
theorem execSdClkLoss_keeps (t : Time) (n : Fin 48) (last : Time) (s : State) :
    KeepsOutcome s (execSdClkLoss t n last s) := by
  unfold execSdClkLoss
  with_reducible repeat' first
    | refine .next ?_ | exact .refl _ | refine (State.clkLoss_keeps _ _ _).via ?_
    | refine (State.tick_keeps _ _).via ?_
theorem execSdManErr_keeps (t : Time) (n : Fin 48) (i : Fin 4) (c : Time) (s : State) :
    KeepsOutcome s (execSdManErr t n i c s) := by
  unfold execSdManErr
  with_reducible repeat' first
    | refine .next ?_ | exact .refl _ | refine (State.manErr_keeps _ _ _ _).via ?_
    | refine (State.tick_keeps _ _).via ?_
theorem execSdStuck_keeps (t : Time) (n : Fin 48) (i : Fin 4) (run : Time × Nat) (s : State) :
    KeepsOutcome s (execSdStuck t n i run s) := by
  unfold execSdStuck
  with_reducible repeat' first
    | refine .next ?_ | exact .refl _ | refine (State.sdStuck_keeps _ _ _ _ _).via ?_
    | refine (State.tick_keeps _ _).via ?_
theorem execSdmConfigWrite_keeps (t : Time) (m : Master) (n : Fin 48) (k : Fin 5) (v : Word) (s : State) :
    KeepsOutcome s (execSdmConfigWrite t m n k v s) := by
  unfold execSdmConfigWrite
  with_reducible repeat' first
    | refine .next ?_ | assumption | exact .refl _ | refine .ite ?_ ?_ | refine (State.onPage_keeps _ _ _ ?_).via ?_
    | refine (State.tick_keeps _ _).via ?_ | refine (State.writeInCfg_keeps _ _ _ _ _).via ?_
    | refine (State.writeClkCfg_keeps _ _ _ _).via ?_ | intro _ | split | dsimp only
theorem execSelfTestPhaseEnd_keeps (t : Time) (n : Fin 48) (line : List Time × List (Time × Bool)) (s : State) :
    KeepsOutcome s (execSelfTestPhaseEnd t n line s) := by
  unfold execSelfTestPhaseEnd
  with_reducible repeat' first
    | refine .next ?_ | exact .refl _ | refine (State.phaseEnd_keeps _ _ _ _).via ?_
    | refine (State.tick_keeps _ _).via ?_
theorem execAuxConversionStart_keeps (t : Time) (m : Fin 2) (s : State) :
    KeepsOutcome s (execAuxConversionStart t m s) := by
  unfold execAuxConversionStart
  with_reducible repeat' first
    | refine .next ?_ | exact .refl _ | refine (State.auxStart_keeps _ _).via ?_
    | refine (State.tick_keeps _ _).via ?_
theorem execAuxConversionDone_keeps (t : Time) (m : Fin 2) (v : Nat) (s : State) :
    KeepsOutcome s (execAuxConversionDone t m v s) := by
  unfold execAuxConversionDone
  with_reducible repeat' first
    | refine .next ?_ | exact .refl _ | refine (State.auxDone_keeps _ _ _).via ?_
    | refine (State.tick_keeps _ _).via ?_
theorem execAuxWindowCrossing_keeps (t : Time) (m : Fin 2) (j : Fin 8) (v : Nat) (s : State) :
    KeepsOutcome s (execAuxWindowCrossing t m j v s) := by
  unfold execAuxWindowCrossing
  with_reducible repeat' first
    | refine .next ?_ | exact .refl _ | refine (State.winCompare_keeps _ _ _ _).via ?_
    | refine (State.tick_keeps _ _).via ?_

end Sys2Proof.Machine
end

