-- ==== Sys2Proof/Laws/KeepsStepper.lean ====
section
/-! SUPPORT. The operations of Machine/Stepper.lean keep the queue and the canonical form (`Keeps`). -/

set_option linter.unusedTactic false
set_option linter.unreachableTactic false
set_option linter.unusedSimpArgs false

namespace Sys2Proof.Machine

theorem State.setSp_keeps (s : State) (a : Nat) (f : StepSt → StepSt) :
    Keeps s (State.setSp s a f) := by
  unfold State.setSp
  with_reducible repeat' first
    | simp only [Keeps.upd_iff] | exact .refl _
theorem State.stepSample_keeps (s0 : State) (a : Nat) (tk : Time) :
    Keeps s0 (State.stepSample s0 a tk) := by
  unfold State.stepSample
  with_reducible repeat' first
    | simp only [Keeps.upd_iff] | assumption | exact .refl _ | refine .ite ?_ ?_ | refine .ite2 ?_ ?_
    | refine .ite1 ?_ ?_ | refine (State.setSp_keeps _ _ _).via ?_ | refine (State.wsPost_keeps _ _ _ _ _).via ?_
    | refine (State.putBit_keeps _ _ _ _).via ?_ | refine (State.putFld_keeps _ _ _ _ _).via ?_ | refine .getD ?_ ?_
    | intro _ | split | dsimp only
theorem State.brDrive_keeps (s : State) (n a x st : Nat) (drive : Option Bool) :
    Keeps s (State.brDrive s n a x st drive) := by
  unfold State.brDrive
  with_reducible repeat' first
    | simp only [Keeps.upd_iff] | assumption | exact .refl _ | refine (State.setPw_keeps _ _ _).via ?_
    | refine (State.putFld_keeps _ _ _ _ _).via ?_ | intro _ | split | dsimp only
theorem State.brStep_keeps (s : State) (n a x : Nat) :
    Keeps s (State.brStep s n a x) := by
  unfold State.brStep
  with_reducible repeat' first
    | simp only [Keeps.upd_iff] | assumption | exact .refl _ | refine .ite ?_ ?_
    | refine (State.setSp_keeps _ _ _).via ?_ | refine (State.brDrive_keeps _ _ _ _ _ _).via ?_ | intro _ | split
    | dsimp only
theorem State.chopperEval_keeps (s : State) (n : Nat) :
    Keeps s (State.chopperEval s n) := by
  unfold State.chopperEval
  with_reducible repeat' first
    | simp only [Keeps.upd_iff] | assumption | exact .refl _ | refine (State.slotEval_keeps _ _).via ?_
    | refine (State.brStep_keeps _ _ _ _).via ?_ | intro _ | split
theorem State.chopperWait_keeps (s : State) (n x st : Nat) :
    Keeps s (State.chopperWait s n x st) := by
  unfold State.chopperWait
  with_reducible repeat' first
    | simp only [Keeps.upd_iff] | assumption | exact .refl _ | refine .ite ?_ ?_
    | refine (State.slotEval_keeps _ _).via ?_ | refine (State.brStep_keeps _ _ _ _).via ?_ | intro _ | split
theorem execCmpThresholdCrossing_keeps (t : Time) (n : Fin 48) (i : Fin 4) (clk : List Time) (pin : List (Time × Bool)) (c : Time) (s : State) :
    KeepsOutcome s (execCmpThresholdCrossing t n i clk pin c s) := by
  unfold execCmpThresholdCrossing
  with_reducible repeat' first
    | refine .next ?_ | exact .refl _ | refine (State.chopperEval_keeps _ _).via ?_
    | refine (State.fastUpdate_keeps _ _ _ _ _ _).via ?_ | refine (State.tick_keeps _ _).via ?_
theorem execChopperFastEnd_keeps (t : Time) (n : Fin 48) (x : Fin 2) (s : State) :
    KeepsOutcome s (execChopperFastEnd t n x s) := by
  unfold execChopperFastEnd
  with_reducible repeat' first
    | refine .next ?_ | exact .refl _ | refine (State.chopperWait_keeps _ _ _ _).via ?_
    | refine (State.tick_keeps _ _).via ?_
theorem execChopperOffEnd_keeps (t : Time) (n : Fin 48) (x : Fin 2) (s : State) :
    KeepsOutcome s (execChopperOffEnd t n x s) := by
  unfold execChopperOffEnd
  with_reducible repeat' first
    | refine .next ?_ | exact .refl _ | refine (State.chopperWait_keeps _ _ _ _).via ?_
    | refine (State.tick_keeps _ _).via ?_
theorem execChopperBlankEnd_keeps (t : Time) (n : Fin 48) (x : Fin 2) (s : State) :
    KeepsOutcome s (execChopperBlankEnd t n x s) := by
  unfold execChopperBlankEnd
  with_reducible repeat' first
    | refine .next ?_ | exact .refl _ | refine (State.chopperWait_keeps _ _ _ _).via ?_
    | refine (State.tick_keeps _ _).via ?_

end Sys2Proof.Machine
end

