-- ==== Sys2Proof/Laws/KeepsWallower.lean ====
section
/-! SUPPORT. The operations of Machine/Wallower.lean keep the queue and the canonical form (`Keeps`). -/

set_option linter.unusedTactic false
set_option linter.unreachableTactic false
set_option linter.unusedSimpArgs false

namespace Sys2Proof.Machine

theorem State.setLk_keeps (s : State) (l : Nat) (f : LinkSt → LinkSt) :
    Keeps s (State.setLk s l f) := by
  unfold State.setLk
  with_reducible repeat' first
    | simp only [Keeps.upd_iff] | exact .refl _
theorem State.setVm_keeps (s : State) (v : Nat) (f : VmSt → VmSt) :
    Keeps s (State.setVm s v f) := by
  unfold State.setVm
  with_reducible repeat' first
    | simp only [Keeps.upd_iff] | exact .refl _
theorem State.setLinkState_keeps (s : State) (l v : Nat) :
    Keeps s (State.setLinkState s l v) := by
  unfold State.setLinkState
  with_reducible repeat' first
    | exact .refl _ | refine (State.putFld_keeps _ _ _ _ _).via ?_
theorem State.wallPost_keeps (s : State) (l code : Nat) (stamp : Time) (payload : Nat) :
    Keeps s (State.wallPost s l code stamp payload) := by
  unfold State.wallPost
  with_reducible repeat' first
    | simp only [Keeps.upd_iff] | assumption | exact .refl _ | refine .ite ?_ ?_
    | refine (State.irq_keeps _ _ _).via ?_ | refine (State.post_keeps _ _ _ _ _).via ?_ | intro _ | split
    | dsimp only
theorem State.camAdvance_keeps (s : State) (l : Nat) (m : Int) (tk : Time) :
    Keeps s (State.camAdvance s l m tk) := by
  unfold State.camAdvance
  with_reducible repeat' first
    | simp only [Keeps.upd_iff] | assumption | exact .refl _ | refine .ite ?_ ?_
    | refine (State.wallPost_keeps _ _ _ _ _).via ?_ | refine (State.putBit_keeps _ _ _ _).via ?_
    | refine (State.putFld_keeps _ _ _ _ _).via ?_ | refine (State.setRg64_keeps _ _ _).via ?_
    | refine (State.setLk_keeps _ _ _).via ?_ | intro _ | split | dsimp only
theorem State.engage_keeps (s : State) (l : Nat) :
    Keeps s (State.engage s l) := by
  unfold State.engage
  with_reducible repeat' first
    | simp only [Keeps.upd_iff] | assumption | exact .refl _ | refine .ite ?_ ?_
    | refine (State.putFld_keeps _ _ _ _ _).via ?_ | refine (State.tick_keeps _ _).via ?_
    | refine (State.cmdRefused_keeps _ _).via ?_ | refine (State.setLk_keeps _ _ _).via ?_
    | refine (State.setLinkState_keeps _ _ _).via ?_ | refine (State.wallPost_keeps _ _ _ _ _).via ?_
    | refine (State.setAxState_keeps _ _ _).via ?_ | intro _ | split | dsimp only
theorem State.engageAt_keeps (s : State) (l : Nat) (tk : Time) (ma : Int) (up crossed resume : Bool) :
    Keeps s (State.engageAt s l tk ma up crossed resume) := by
  unfold State.engageAt
  with_reducible repeat' first
    | simp only [Keeps.upd_iff] | assumption | exact .refl _ | refine .ite ?_ ?_
    | refine (State.setRg64_keeps _ _ _).via ?_ | refine (State.setLk_keeps _ _ _).via ?_
    | refine (State.wallPost_keeps _ _ _ _ _).via ?_ | refine (State.setAxState_keeps _ _ _).via ?_
    | refine (State.setLinkState_keeps _ _ _).via ?_ | intro _ | split | dsimp only
theorem State.linkValue_keeps (s : State) (l : Nat) (tk : Time) (m vm : Int) :
    Keeps s (State.linkValue s l tk m vm) := by
  unfold State.linkValue
  with_reducible repeat' first
    | simp only [Keeps.upd_iff] | assumption | exact .refl _ | refine .ite ?_ ?_
    | refine (State.camAdvance_keeps _ _ _ _).via ?_ | refine (State.wallPost_keeps _ _ _ _ _).via ?_
    | refine (State.setLinkState_keeps _ _ _).via ?_ | refine (State.setRg64_keeps _ _ _).via ?_
    | refine (State.setPV_keeps _ _ _ _).via ?_ | refine (State.setAw_keeps _ _ _).via ?_ | intro _ | split
    | dsimp only
theorem State.slaveIdle_keeps (s : State) (a : Nat) :
    Keeps s (State.slaveIdle s a) := by
  unfold State.slaveIdle
  with_reducible repeat' first
    | simp only [Keeps.upd_iff] | assumption | exact .refl _ | refine .ite ?_ ?_
    | refine (State.setAw_keeps _ _ _).via ?_ | refine (State.setAxState_keeps _ _ _).via ?_ | intro _ | split
    | dsimp only
theorem State.linkIdle_keeps (s : State) (l : Nat) :
    Keeps s (State.linkIdle s l) := by
  unfold State.linkIdle
  with_reducible repeat' first
    | assumption | exact .refl _ | refine (State.setLinkState_keeps _ _ _).via ?_
    | refine (State.slaveIdle_keeps _ _).via ?_ | dsimp only
theorem State.linkFault_keeps (s : State) (l reason : Nat) (tk : Time) :
    Keeps s (State.linkFault s l reason tk) := by
  unfold State.linkFault
  with_reducible repeat' first
    | exact .refl _ | refine (State.wallPost_keeps _ _ _ _ _).via ?_ | refine (State.putFld_keeps _ _ _ _ _).via ?_
theorem State.takeOver_keeps (s : State) (a : Nat) (tk : Time) :
    Keeps s (State.takeOver s a tk) := by
  unfold State.takeOver
  with_reducible repeat' first
    | simp only [Keeps.upd_iff] | assumption | exact .refl _ | refine (State.setAw_keeps _ _ _).via ?_
    | refine (State.setPV_keeps _ _ _ _).via ?_ | intro _ | dsimp only
theorem State.linkHold_keeps (s : State) (l cause : Nat) (tk : Time) :
    Keeps s (State.linkHold s l cause tk) := by
  unfold State.linkHold
  with_reducible repeat' first
    | exact .refl _ | refine (State.wsStop_keeps _ _ _ _).via ?_ | refine (State.takeOver_keeps _ _ _).via ?_
    | refine (State.setLinkState_keeps _ _ _).via ?_ | dsimp only
theorem State.linkDisengage_keeps (s : State) (l : Nat) (tk : Time) (crossed : Bool) :
    Keeps s (State.linkDisengage s l tk crossed) := by
  unfold State.linkDisengage
  with_reducible repeat' first
    | simp only [Keeps.upd_iff] | assumption | exact .refl _ | refine (State.wallPost_keeps _ _ _ _ _).via ?_
    | refine (State.setLk_keeps _ _ _).via ?_ | refine (State.setLinkState_keeps _ _ _).via ?_
    | refine (State.wsStop_keeps _ _ _ _).via ?_ | refine (State.setAw_keeps _ _ _).via ?_
    | refine (State.takeOver_keeps _ _ _).via ?_ | intro _ | dsimp only
theorem State.remoteCancel_keeps (s : State) (l : Nat) (tk : Time) :
    Keeps s (State.remoteCancel s l tk) := by
  unfold State.remoteCancel
  with_reducible repeat' first
    | assumption | exact .refl _ | refine (State.schedCancel_keeps _ _ _ _ _).via ?_ | dsimp only
theorem State.linkRun_keeps (s : State) (l : Nat) (tk : Time) (m vm : Int) :
    Keeps s (State.linkRun s l tk m vm) := by
  unfold State.linkRun
  with_reducible repeat' first
    | simp only [Keeps.upd_iff] | assumption | exact .refl _ | refine .ite ?_ ?_
    | refine (State.setLk_keeps _ _ _).via ?_ | refine (State.wallPost_keeps _ _ _ _ _).via ?_
    | refine (State.engageAt_keeps _ _ _ _ _ _ _).via ?_ | refine (State.linkValue_keeps _ _ _ _ _).via ?_
    | refine (State.linkIdle_keeps _ _).via ?_ | refine (State.linkDisengage_keeps _ _ _ _).via ?_
    | refine (State.remoteCancel_keeps _ _ _).via ?_ | intro _ | split | dsimp only
theorem State.linkResume_keeps (s : State) (l : Nat) (tk : Time) (m vm : Int) :
    Keeps s (State.linkResume s l tk m vm) := by
  unfold State.linkResume
  with_reducible repeat' first
    | simp only [Keeps.upd_iff] | assumption | exact .refl _ | refine .ite ?_ ?_
    | refine (State.setLk_keeps _ _ _).via ?_ | refine (State.engageAt_keeps _ _ _ _ _ _ _).via ?_
    | refine (State.linkValue_keeps _ _ _ _ _).via ?_ | refine (State.remoteCancel_keeps _ _ _).via ?_
    | refine (State.setAw_keeps _ _ _).via ?_ | refine (State.wsPost_keeps _ _ _ _ _).via ?_ | intro _ | split
    | dsimp only
theorem State.linkTick_keeps (s0 : State) (l : Nat) (tk : Time) :
    Keeps s0 (State.linkTick s0 l tk) := by
  unfold State.linkTick
  with_reducible repeat' first
    | simp only [Keeps.upd_iff] | assumption | exact .refl _ | refine .ite ?_ ?_
    | refine (State.putBit_keeps _ _ _ _).via ?_ | refine (State.setRg64_keeps _ _ _).via ?_
    | refine (State.linkIdle_keeps _ _).via ?_ | refine (State.linkFault_keeps _ _ _ _).via ?_
    | refine (State.linkHold_keeps _ _ _ _).via ?_ | refine (State.wsStops_keeps _ _ _).via ?_
    | refine (State.linkDisengage_keeps _ _ _ _).via ?_ | refine (State.wallPost_keeps _ _ _ _ _).via ?_
    | refine (State.setAw_keeps _ _ _).via ?_ | refine (State.linkRun_keeps _ _ _ _ _).via ?_
    | refine (State.linkResume_keeps _ _ _ _ _).via ?_ | intro _ | split | dsimp only
theorem State.linkRest_keeps (s : State) (l : Nat) :
    Keeps s (State.linkRest s l) := by
  unfold State.linkRest
  with_reducible repeat' first
    | exact .refl _ | refine .ite ?_ ?_ | refine (State.setLinkState_keeps _ _ _).via ?_ | split
theorem State.wallShared_keeps (s : State) (a : Nat) (tk : Time) :
    Keeps s (State.wallShared s a tk) := by
  unfold State.wallShared
  with_reducible repeat' first
    | simp only [Keeps.upd_iff] | assumption | exact .refl _ | refine .ite ?_ ?_
    | refine (State.setAw_keeps _ _ _).via ?_ | refine (State.wsPost_keeps _ _ _ _ _).via ?_
    | refine (State.setStarted_keeps _ _).via ?_ | refine (State.setAxState_keeps _ _ _).via ?_ | intro _ | split
    | dsimp only
theorem State.wallTick_keeps (s : State) (a : Nat) (tk : Time) :
    Keeps s (State.wallTick s a tk) := by
  unfold State.wallTick
  with_reducible repeat' first
    | simp only [Keeps.upd_iff] | assumption | exact .refl _ | refine .ite ?_ ?_
    | refine (State.linkTick_keeps _ _ _).via ?_ | refine (State.linkRest_keeps _ _).via ?_
    | refine (State.wallShared_keeps _ _ _).via ?_ | refine (State.setAw_keeps _ _ _).via ?_
    | refine (State.setAxState_keeps _ _ _).via ?_ | refine (State.wsPost_keeps _ _ _ _ _).via ?_
    | refine (State.wsPrelude_keeps _ _ _).via ?_ | refine (State.wsEval_keeps _ _ _).via ?_
    | refine (State.wsStops_keeps _ _ _).via ?_ | refine (State.markTick_keeps _ _ _ _).via ?_ | intro _ | split
    | dsimp only
theorem State.tickAxis_keeps (a : Nat) (tk : Time) (x2 : Nat) (x3 : State) :
    Keeps x3 (State.tickAxis a tk x2 x3) := by
  induction x2 generalizing a x3 with
  | zero => exact .refl _
  | succ n ih =>
    unfold State.tickAxis
    refine .ite (.refl _) ?_
    split
    · exact State.groupTick_keeps _ _ _ _
    · refine .ite ((State.wallTick_keeps _ _ _).via ?_) (State.wsTick_keeps _ _ _)
      split
      · exact .ite (ih _ _) (.refl _)
      · exact .refl _
theorem State.profileTick_keeps (s : State) (a : Nat) :
    Keeps s (State.profileTick s a) := by
  unfold State.profileTick
  with_reducible repeat' first
    | simp only [Keeps.upd_iff] | assumption | exact .refl _ | refine .ite ?_ ?_
    | refine (State.tickAxis_keeps _ _ _ _).via ?_ | intro _ | split
theorem State.linkSlaveStops_keeps (s : State) (a : Nat) :
    Keeps s (State.linkSlaveStops s a) := by
  unfold State.linkSlaveStops
  with_reducible repeat' first
    | simp only [Keeps.upd_iff] | assumption | exact .refl _ | refine (State.linkIdle_keeps _ _).via ?_
    | refine (State.linkFault_keeps _ _ _ _).via ?_ | intro _ | split
theorem State.writeGlCmd_keeps (s : State) (l v : Nat) :
    Keeps s (State.writeGlCmd s l v) := by
  unfold State.writeGlCmd
  with_reducible repeat' first
    | simp only [Keeps.upd_iff] | assumption | exact .refl _ | refine .ite ?_ ?_
    | refine (State.cmdRefused_keeps _ _).via ?_ | refine (State.setLk_keeps _ _ _).via ?_
    | refine (State.engage_keeps _ _).via ?_ | intro _ | split | dsimp only
theorem State.writeCam_keeps (s : State) (m : Master) (l v : Nat) :
    Keeps s (State.writeCam s m l v) := by
  unfold State.writeCam
  with_reducible repeat' first
    | exact .refl _ | refine .ite ?_ ?_ | refine (State.cfgRefused_keeps _ _).via ?_
    | refine (State.writeReg_keeps _ _ _ _ _).via ?_ | split
theorem State.linkHook_keeps (s : State) (m : Master) (l off v : Nat) :
    KeepsOpt s (State.linkHook s m l off v) := by
  unfold State.linkHook
  with_reducible repeat' first
    | exact .none _ | refine .some ?_ | exact .refl _ | refine .ite ?_ ?_
    | refine (State.writeGlCmd_keeps _ _ _).via ?_ | refine (State.writeCam_keeps _ _ _ _).via ?_
    | refine (State.cfgRefused_keeps _ _).via ?_ | split
theorem State.ctHook_keeps (s : State) (c off : Nat) :
    KeepsOpt s (State.ctHook s c off) := by
  unfold State.ctHook
  with_reducible repeat' first
    | exact .none _ | refine .some ?_ | exact .refl _ | refine .ite ?_ ?_ | refine (State.cfgRefused_keeps _ _).via ?_
    | split
theorem State.vmSetpos_keeps (s : State) (v : Nat) :
    Keeps s (State.vmSetpos s v) := by
  unfold State.vmSetpos
  with_reducible repeat' first
    | simp only [Keeps.upd_iff] | assumption | exact .refl _ | refine .ite ?_ ?_
    | refine (State.cmdRefused_keeps _ _).via ?_ | refine (State.setVm_keeps _ _ _).via ?_ | intro _ | split
    | dsimp only
theorem State.vmShow_keeps (s : State) (v : Nat) :
    Keeps s (State.vmShow s v) := by
  unfold State.vmShow
  with_reducible repeat' first
    | exact .refl _ | refine (State.setRg64_keeps _ _ _).via ?_ | dsimp only
theorem State.writeVmCtrl_keeps (s : State) (v w : Nat) :
    Keeps s (State.writeVmCtrl s v w) := by
  unfold State.writeVmCtrl
  with_reducible repeat' first
    | simp only [Keeps.upd_iff] | assumption | exact .refl _ | refine .ite ?_ ?_
    | refine (State.setRg_keeps _ _ _).via ?_ | refine (State.setVm_keeps _ _ _).via ?_
    | refine (State.vmShow_keeps _ _).via ?_ | refine (State.vmSetpos_keeps _ _).via ?_ | intro _ | split | dsimp only
theorem State.vmUpdate_keeps (s : State) (v : Nat) :
    Keeps s (State.vmUpdate s v) := by
  unfold State.vmUpdate
  with_reducible repeat' first
    | assumption | exact .refl _ | refine .ite ?_ ?_ | refine (State.vmShow_keeps _ _).via ?_
    | refine (State.setVm_keeps _ _ _).via ?_ | intro _ | split | dsimp only
theorem State.wallHook_keeps (s : State) (off v : Nat) :
    KeepsOpt s (State.wallHook s off v) := by
  unfold State.wallHook
  with_reducible repeat' first
    | exact .none _ | refine .some ?_ | exact .refl _ | refine .ite ?_ ?_
    | refine (State.writeVmCtrl_keeps _ _ _).via ?_ | split
theorem State.remoteSample_keeps (s : State) (dev ax : Nat) (x : RsSample) :
    Keeps s (State.remoteSample s dev ax x) := by
  unfold State.remoteSample
  with_reducible repeat' first
    | simp only [Keeps.upd_iff] | assumption | exact .refl _ | refine .ite ?_ ?_
    | refine (State.setRg64_keeps _ _ _).via ?_ | refine .fold (fun _ _ => ?_) ?_ | intro _ | split | dsimp only
theorem State.wallReset_keeps (s : State) :
    Keeps s (State.wallReset s) := by
  unfold State.wallReset
  with_reducible repeat' first
    | simp only [Keeps.upd_iff] | assumption | exact .refl _ | refine .ite ?_ ?_
    | refine (State.slaveIdle_keeps _ _).via ?_ | refine .fold (fun _ _ => ?_) ?_ | intro _ | split | dsimp only
theorem State.axisReset_keeps (s : State) (a : Nat) :
    Keeps s (State.axisReset s a) := by
  unfold State.axisReset
  with_reducible repeat' first
    | simp only [Keeps.upd_iff] | assumption | exact .refl _ | refine (State.setLinkState_keeps _ _ _).via ?_
    | refine (State.cmpMuteSync_keeps _ _).via ?_ | intro _ | split | dsimp only
theorem State.groupReset_keeps (s : State) (g : Nat) :
    Keeps s (State.groupReset s g) := by
  unfold State.groupReset
  with_reducible repeat' first
    | simp only [Keeps.upd_iff] | assumption | exact .refl _ | refine .ite ?_ ?_
    | refine (State.setAw_keeps _ _ _).via ?_ | refine (State.setAxState_keeps _ _ _).via ?_
    | refine (State.putFld_keeps _ _ _ _ _).via ?_ | refine .fold (fun _ _ => ?_) ?_ | intro _ | split | dsimp only
theorem State.writeAxCtrl_keeps (s : State) (a v : Nat) :
    Keeps s (State.writeAxCtrl s a v) := by
  unfold State.writeAxCtrl
  with_reducible repeat' first
    | simp only [Keeps.upd_iff] | assumption | exact .refl _ | refine .ite ?_ ?_
    | refine (State.cfgRefused_keeps _ _).via ?_ | refine (State.setRg_keeps _ _ _).via ?_
    | refine (State.cmpMuteSync_keeps _ _).via ?_ | refine (State.grBreak_keeps _ _ _ _).via ?_
    | refine (State.axAbandon_keeps _ _).via ?_ | intro _ | split | dsimp only
theorem State.writeMsTab_keeps (s : State) (m : Master) (a k v : Nat) :
    Keeps s (State.writeMsTab s m a k v) := by
  unfold State.writeMsTab
  with_reducible repeat' first
    | assumption | exact .refl _ | refine .ite ?_ ?_ | refine (State.writeReg_keeps _ _ _ _ _).via ?_
    | refine (State.cfgRefused_keeps _ _).via ?_ | intro _ | split | dsimp only
theorem State.axisHook_keeps (s : State) (m : Master) (a off v : Nat) :
    KeepsOpt s (State.axisHook s m a off v) := by
  unfold State.axisHook
  with_reducible repeat' first
    | exact .none _ | refine .some ?_ | simp only [Keeps.upd_iff] | assumption | exact .refl _ | refine .ite ?_ ?_
    | refine (State.writeFbSel_keeps _ _ _).via ?_ | refine (State.writeAxCtrl_keeps _ _ _).via ?_
    | refine (State.cmdRefused_keeps _ _).via ?_ | refine (State.writeAxCmd_keeps _ _ _).via ?_
    | refine (State.setLinkState_keeps _ _ _).via ?_ | refine (State.writeQwr_keeps _ _ _).via ?_
    | refine (State.writeMsTab_keeps _ _ _ _ _).via ?_ | refine (State.cfgRefused_keeps _ _).via ?_ | intro _ | split
theorem execProfileTick_keeps (t : Time) (a : Fin 64) (s : State) :
    KeepsOutcome s (execProfileTick t a s) := by
  unfold execProfileTick
  with_reducible repeat' first
    | refine .next ?_ | exact .refl _ | refine (State.profileTick_keeps _ _).via ?_
    | refine (State.tick_keeps _ _).via ?_
theorem execQueueWrite_keeps (t : Time) (_m : Master) (a : Fin 64) (v : Word) (s : State) :
    KeepsOutcome s (execQueueWrite t _m a v s) := by
  unfold execQueueWrite
  with_reducible repeat' first
    | refine .next ?_ | assumption | exact .refl _ | refine (State.onPage_keeps _ _ _ ?_).via ?_
    | refine (State.tick_keeps _ _).via ?_ | refine (State.writeQwr_keeps _ _ _).via ?_ | intro _ | dsimp only
theorem State.axCmdWrite_keeps (s : State) (m : Master) (a bit_ : Nat) :
    Keeps s (State.axCmdWrite s m a bit_) := by
  unfold State.axCmdWrite
  with_reducible repeat' first
    | assumption | exact .refl _ | refine (State.onPage_keeps _ _ _ ?_).via ?_
    | refine (State.axisHook_keeps _ _ _ _ _).via ?_ | refine ((State.axisHook_keeps _ _ _ _ _).get ‹_›).via ?_
    | refine .getD ?_ ?_ | intro _ | dsimp only
theorem execAxisStart_keeps (t : Time) (m : Master) (a : Fin 64) (s : State) :
    KeepsOutcome s (execAxisStart t m a s) := by
  unfold execAxisStart
  with_reducible repeat' first
    | refine .next ?_ | exact .refl _ | refine (State.axCmdWrite_keeps _ _ _ _).via ?_
    | refine (State.tick_keeps _ _).via ?_
theorem execAxisStop_keeps (t : Time) (m : Master) (a : Fin 64) (s : State) :
    KeepsOutcome s (execAxisStop t m a s) := by
  unfold execAxisStop
  with_reducible repeat' first
    | refine .next ?_ | exact .refl _ | refine (State.axCmdWrite_keeps _ _ _ _).via ?_
    | refine (State.tick_keeps _ _).via ?_
theorem execAxisResume_keeps (t : Time) (m : Master) (a : Fin 64) (s : State) :
    KeepsOutcome s (execAxisResume t m a s) := by
  unfold execAxisResume
  with_reducible repeat' first
    | refine .next ?_ | exact .refl _ | refine (State.axCmdWrite_keeps _ _ _ _).via ?_
    | refine (State.tick_keeps _ _).via ?_
theorem execAxisAbandon_keeps (t : Time) (m : Master) (a : Fin 64) (s : State) :
    KeepsOutcome s (execAxisAbandon t m a s) := by
  unfold execAxisAbandon
  with_reducible repeat' first
    | refine .next ?_ | exact .refl _ | refine (State.axCmdWrite_keeps _ _ _ _).via ?_
    | refine (State.tick_keeps _ _).via ?_
theorem execAxisFlush_keeps (t : Time) (m : Master) (a : Fin 64) (s : State) :
    KeepsOutcome s (execAxisFlush t m a s) := by
  unfold execAxisFlush
  with_reducible repeat' first
    | refine .next ?_ | exact .refl _ | refine (State.axCmdWrite_keeps _ _ _ _).via ?_
    | refine (State.tick_keeps _ _).via ?_
theorem execAxisSetpos_keeps (t : Time) (m : Master) (a : Fin 64) (s : State) :
    KeepsOutcome s (execAxisSetpos t m a s) := by
  unfold execAxisSetpos
  with_reducible repeat' first
    | refine .next ?_ | exact .refl _ | refine (State.axCmdWrite_keeps _ _ _ _).via ?_
    | refine (State.tick_keeps _ _).via ?_
theorem execAxisFbpos_keeps (t : Time) (m : Master) (a : Fin 64) (s : State) :
    KeepsOutcome s (execAxisFbpos t m a s) := by
  unfold execAxisFbpos
  with_reducible repeat' first
    | refine .next ?_ | exact .refl _ | refine (State.axCmdWrite_keeps _ _ _ _).via ?_
    | refine (State.tick_keeps _ _).via ?_
theorem execGroupEnable_keeps (t : Time) (_m : Master) (g : Fin 16) (v : Word) (s : State) :
    KeepsOutcome s (execGroupEnable t _m g v s) := by
  unfold execGroupEnable
  with_reducible repeat' first
    | refine .next ?_ | assumption | exact .refl _ | refine (State.onPage_keeps _ _ _ ?_).via ?_
    | refine (State.tick_keeps _ _).via ?_ | refine (State.writeIgrpCtrl_keeps _ _ _).via ?_ | intro _ | dsimp only
theorem State.grCmdWrite_keeps (s : State) (g bit_ : Nat) :
    Keeps s (State.grCmdWrite s g bit_) := by
  unfold State.grCmdWrite
  with_reducible repeat' first
    | assumption | exact .refl _ | refine (State.onPage_keeps _ _ _ ?_).via ?_
    | refine (State.writeGrCmd_keeps _ _ _).via ?_ | intro _ | dsimp only
theorem execGroupStart_keeps (t : Time) (_m : Master) (g : Fin 16) (s : State) :
    KeepsOutcome s (execGroupStart t _m g s) := by
  unfold execGroupStart
  with_reducible repeat' first
    | refine .next ?_ | exact .refl _ | refine (State.grCmdWrite_keeps _ _ _).via ?_
    | refine (State.tick_keeps _ _).via ?_
theorem execGroupStop_keeps (t : Time) (_m : Master) (g : Fin 16) (s : State) :
    KeepsOutcome s (execGroupStop t _m g s) := by
  unfold execGroupStop
  with_reducible repeat' first
    | refine .next ?_ | exact .refl _ | refine (State.grCmdWrite_keeps _ _ _).via ?_
    | refine (State.tick_keeps _ _).via ?_
theorem execGroupResume_keeps (t : Time) (_m : Master) (g : Fin 16) (s : State) :
    KeepsOutcome s (execGroupResume t _m g s) := by
  unfold execGroupResume
  with_reducible repeat' first
    | refine .next ?_ | exact .refl _ | refine (State.grCmdWrite_keeps _ _ _).via ?_
    | refine (State.tick_keeps _ _).via ?_
theorem execGroupAbandon_keeps (t : Time) (_m : Master) (g : Fin 16) (s : State) :
    KeepsOutcome s (execGroupAbandon t _m g s) := by
  unfold execGroupAbandon
  with_reducible repeat' first
    | refine .next ?_ | exact .refl _ | refine (State.grCmdWrite_keeps _ _ _).via ?_
    | refine (State.tick_keeps _ _).via ?_
theorem execGroupFlush_keeps (t : Time) (_m : Master) (g : Fin 16) (s : State) :
    KeepsOutcome s (execGroupFlush t _m g s) := by
  unfold execGroupFlush
  with_reducible repeat' first
    | refine .next ?_ | exact .refl _ | refine (State.grCmdWrite_keeps _ _ _).via ?_
    | refine (State.tick_keeps _ _).via ?_
theorem State.ssWrite_keeps (s : State) (n bit_ : Nat) :
    Keeps s (State.ssWrite s n bit_) := by
  unfold State.ssWrite
  with_reducible repeat' first
    | assumption | exact .refl _ | refine (State.onPage_keeps _ _ _ ?_).via ?_
    | refine (State.writeSsCtrl_keeps _ _ _).via ?_ | intro _ | dsimp only
theorem execStartSetArm_keeps (t : Time) (_m : Master) (n : Fin 16) (s : State) :
    KeepsOutcome s (execStartSetArm t _m n s) := by
  unfold execStartSetArm
  with_reducible repeat' first
    | refine .next ?_ | exact .refl _ | refine (State.ssWrite_keeps _ _ _).via ?_
    | refine (State.tick_keeps _ _).via ?_
theorem execStartSetDisarm_keeps (t : Time) (_m : Master) (n : Fin 16) (s : State) :
    KeepsOutcome s (execStartSetDisarm t _m n s) := by
  unfold execStartSetDisarm
  with_reducible repeat' first
    | refine .next ?_ | exact .refl _ | refine (State.ssWrite_keeps _ _ _).via ?_
    | refine (State.tick_keeps _ _).via ?_
theorem execStartSetStrobe_keeps (t : Time) (_m : Master) (n : Fin 16) (s : State) :
    KeepsOutcome s (execStartSetStrobe t _m n s) := by
  unfold execStartSetStrobe
  with_reducible repeat' first
    | refine .next ?_ | exact .refl _ | refine (State.ssWrite_keeps _ _ _).via ?_
    | refine (State.tick_keeps _ _).via ?_
theorem execStartSetMtTrigger_keeps (t : Time) (n : Fin 16) (s : State) :
    KeepsOutcome s (execStartSetMtTrigger t n s) := by
  unfold execStartSetMtTrigger
  with_reducible repeat' first
    | refine .next ?_ | exact .refl _ | refine (State.setMtTrigger_keeps _ _).via ?_
    | refine (State.tick_keeps _ _).via ?_
theorem State.setStart_keeps (s : State) (n : Nat) :
    Keeps s (State.setStart s n) := by
  unfold State.setStart
  with_reducible repeat' first
    | assumption | exact .refl _ | refine .ite ?_ ?_ | refine (State.profileTick_keeps _ _).via ?_
    | refine .fold (fun _ _ => ?_) ?_ | intro _ | split | dsimp only
theorem execStart_keeps (t : Time) (n : Fin 16) (s : State) :
    KeepsOutcome s (execStart t n s) := by
  unfold execStart
  with_reducible repeat' first
    | refine .next ?_ | exact .refl _ | refine (State.setStart_keeps _ _).via ?_
    | refine (State.tick_keeps _ _).via ?_
theorem State.glWrite_keeps (s : State) (m : Master) (bit_ : Nat) :
    Keeps s (State.glWrite s m bit_) := by
  unfold State.glWrite
  with_reducible repeat' first
    | assumption | exact .refl _ | refine (State.onPage_keeps _ _ _ ?_).via ?_
    | refine (State.writeGlCmd_keeps _ _ _).via ?_ | intro _ | dsimp only
theorem execEngage_keeps (t : Time) (m : Master) (s : State) :
    KeepsOutcome s (execEngage t m s) := by
  unfold execEngage
  with_reducible repeat' first
    | refine .next ?_ | exact .refl _ | refine (State.glWrite_keeps _ _ _).via ?_
    | refine (State.tick_keeps _ _).via ?_
theorem execDisengage_keeps (t : Time) (m : Master) (s : State) :
    KeepsOutcome s (execDisengage t m s) := by
  unfold execDisengage
  with_reducible repeat' first
    | refine .next ?_ | exact .refl _ | refine (State.glWrite_keeps _ _ _).via ?_
    | refine (State.tick_keeps _ _).via ?_
theorem execDisArm_keeps (t : Time) (m : Master) (s : State) :
    KeepsOutcome s (execDisArm t m s) := by
  unfold execDisArm
  with_reducible repeat' first
    | refine .next ?_ | exact .refl _ | refine (State.glWrite_keeps _ _ _).via ?_
    | refine (State.tick_keeps _ _).via ?_
theorem execCancel_keeps (t : Time) (m : Master) (s : State) :
    KeepsOutcome s (execCancel t m s) := by
  unfold execCancel
  with_reducible repeat' first
    | refine .next ?_ | exact .refl _ | refine (State.glWrite_keeps _ _ _).via ?_
    | refine (State.tick_keeps _ _).via ?_
theorem execVirtualMasterUpdate_keeps (t : Time) (v : Fin 8) (s : State) :
    KeepsOutcome s (execVirtualMasterUpdate t v s) := by
  unfold execVirtualMasterUpdate
  with_reducible repeat' first
    | refine .next ?_ | exact .refl _ | refine (State.vmUpdate_keeps _ _).via ?_
    | refine (State.tick_keeps _ _).via ?_
theorem execVmSetpos_keeps (t : Time) (_m : Master) (v : Fin 8) (s : State) :
    KeepsOutcome s (execVmSetpos t _m v s) := by
  unfold execVmSetpos
  with_reducible repeat' first
    | refine .next ?_ | assumption | exact .refl _ | refine (State.onPage_keeps _ _ _ ?_).via ?_
    | refine (State.tick_keeps _ _).via ?_ | refine (State.writeVmCtrl_keeps _ _ _).via ?_ | intro _ | dsimp only
theorem execCtWrite_keeps (t : Time) (m : Master) (k : Fin 3) (v : DWord) (s : State) :
    KeepsOutcome s (execCtWrite t m k v s) := by
  unfold execCtWrite
  with_reducible repeat' first
    | refine .next ?_ | assumption | exact .refl _ | refine (State.onPage_keeps _ _ _ ?_).via ?_
    | refine (State.tick_keeps _ _).via ?_
    | refine (State.ctHook_keeps _ _ _).via ?_ | refine ((State.ctHook_keeps _ _ _).get ‹_›).via ?_
    | refine (State.writeReg_keeps _ _ _ _ _).via ?_ | refine .getD ?_ ?_ | intro _ | dsimp only

end Sys2Proof.Machine
end

