-- ==== Sys2Proof/Laws/KeepsSluice.lean ====
section
/-! SUPPORT. The operations of Machine/Sluice.lean keep the queue and the canonical form (`Keeps`). -/

set_option linter.unusedTactic false
set_option linter.unreachableTactic false
set_option linter.unusedSimpArgs false

namespace Sys2Proof.Machine

theorem State.setLvl_keeps (s : State) (a l : Nat) (f : PeriodSt → PeriodSt) :
    Keeps s (State.setLvl s a l f) := by
  unfold State.setLvl
  with_reducible repeat' first
    | simp only [Keeps.upd_iff] | assumption | exact .refl _ | refine (State.setAx_keeps _ _ _).via ?_ | intro _
    | dsimp only
theorem State.slAxPost_keeps (s : State) (a code : Nat) (stamp : Time) (payload irqBits : Nat) :
    Keeps s (State.slAxPost s a code stamp payload irqBits) := by
  unfold State.slAxPost
  with_reducible repeat' first
    | exact .refl _ | refine .ite ?_ ?_ | refine (State.post_keeps _ _ _ _ _).via ?_
    | refine (State.irq_keeps _ _ _).via ?_ | split
theorem State.waittDeliver_keeps (s : State) (c a l : Nat) (f : Frame) :
    Keeps s (State.waittDeliver s c a l f) := by
  unfold State.waittDeliver
  with_reducible repeat' first
    | simp only [Keeps.upd_iff] | assumption | exact .refl _ | refine .ite ?_ ?_ | refine .ite2 ?_ ?_
    | refine .ite1 ?_ ?_ | refine (State.setCr_keeps _ _ _).via ?_ | refine (State.setCoreState_keeps _ _ _).via ?_
    | refine (State.putFld_keeps _ _ _ _ _).via ?_ | refine (State.setLvl_keeps _ _ _ _).via ?_ | refine .getD ?_ ?_
    | intro _ | split | dsimp only
theorem State.waittTry_keeps (s : State) (a l : Nat) :
    Keeps s (State.waittTry s a l) := by
  unfold State.waittTry
  with_reducible repeat' first
    | simp only [Keeps.upd_iff] | assumption | exact .refl _ | refine .ite ?_ ?_
    | refine (State.waittDeliver_keeps _ _ _ _ _).via ?_ | intro _ | split | dsimp only
theorem State.frameNodes_keeps (s : State) (a l : Nat) (f : Frame) (ws : List Nat) :
    Keeps s (State.frameNodes s a l f ws) := by
  unfold State.frameNodes
  with_reducible repeat' first
    | assumption | exact .refl _ | refine .ite ?_ ?_ | refine (State.hopNode_keeps _ _ _ _ _).via ?_
    | refine .fold (fun _ _ => ?_) ?_ | intro _ | split | dsimp only
theorem State.freezeLevel_keeps (s : State) (a l : Nat) (tk ready : Time) :
    Keeps s (State.freezeLevel s a l tk ready) := by
  unfold State.freezeLevel
  with_reducible repeat' first
    | simp only [Keeps.upd_iff] | assumption | exact .refl _ | refine (State.setLvl_keeps _ _ _ _).via ?_
    | refine (State.frameNodes_keeps _ _ _ _ _).via ?_ | intro _ | split | dsimp only
theorem State.sampleSide_keeps (s : State) (a : Nat) (tk prev ready : Time) :
    Keeps s (State.sampleSide s a tk prev ready) := by
  unfold State.sampleSide
  with_reducible repeat' first
    | simp only [Keeps.upd_iff] | assumption | exact .refl _ | refine (State.stallSample_keeps _ _ _ _ _).via ?_
    | refine (State.velZero_keeps _ _ _).via ?_ | refine (State.stepSample_keeps _ _ _).via ?_
    | refine (State.chopperEval_keeps _ _).via ?_ | refine (State.ascSample_keeps _ _ _ _).via ?_
    | refine (State.auxTrigger_keeps _ _ _).via ?_ | refine (State.openWindows_keeps _ _ _ _).via ?_
    | refine .fold (fun _ _ => ?_) ?_ | intro _ | split | dsimp only
theorem State.freeze_keeps (s : State) (a : Nat) (tk next : Time) :
    Keeps s (State.freeze s a tk next) := by
  unfold State.freeze
  with_reducible repeat' first
    | simp only [Keeps.upd_iff] | assumption | exact .refl _ | refine .ite ?_ ?_
    | refine (State.applyFbSel_keeps _ _ _).via ?_ | refine (State.applyAuxSel_keeps _ _ _).via ?_
    | refine (State.freezeLevel_keeps _ _ _ _ _).via ?_ | refine (State.sampleSide_keeps _ _ _ _ _).via ?_
    | refine (State.setAx_keeps _ _ _).via ?_ | refine .getD ?_ ?_ | refine .fold (fun _ _ => ?_) ?_ | intro _ | split
    | dsimp only
theorem State.frameReady_keeps (s : State) (a : Nat) :
    Keeps s (State.frameReady s a) := by
  unfold State.frameReady
  with_reducible repeat' first
    | simp only [Keeps.upd_iff] | assumption | exact .refl _ | refine .ite ?_ ?_
    | refine (State.judgeInputs_keeps _ _ _ _).via ?_ | refine (State.post_keeps _ _ _ _ _).via ?_
    | refine (State.irq_keeps _ _ _).via ?_ | refine (State.count_keeps _ _ _ _ _).via ?_
    | refine (State.frameNodes_keeps _ _ _ _ _).via ?_ | refine (State.setLvl_keeps _ _ _ _).via ?_
    | refine .fold (fun _ _ => ?_) ?_ | intro _ | split | dsimp only
theorem execFrameReady_keeps (t : Time) (a : Fin 64) (s : State) :
    KeepsOutcome s (execFrameReady t a s) := by
  unfold execFrameReady
  with_reducible repeat' first
    | refine .next ?_ | assumption | exact .refl _ | refine (State.waittTry_keeps _ _ _).via ?_
    | refine (State.frameReady_keeps _ _).via ?_ | refine (State.tick_keeps _ _).via ?_
    | refine .fold (fun _ _ => ?_) ?_ | intro _ | dsimp only
theorem State.cutoff_keeps (s : State) (a : Nat) :
    Keeps s (State.cutoff s a) := by
  unfold State.cutoff
  with_reducible repeat' first
    | simp only [Keeps.upd_iff] | assumption | exact .refl _ | refine .ite ?_ ?_
    | refine (State.setAx_keeps _ _ _).via ?_ | refine (State.count_keeps _ _ _ _ _).via ?_
    | refine (State.setLvl_keeps _ _ _ _).via ?_ | refine (State.report_keeps _ _ _ _ _ _).via ?_
    | refine (State.slCorePost_keeps _ _ _ _ _ _).via ?_ | refine .fold (fun _ _ => ?_) ?_ | intro _ | split
    | dsimp only
theorem execStagingCutoff_keeps (t : Time) (a : Fin 64) (s : State) :
    KeepsOutcome s (execStagingCutoff t a s) := by
  unfold execStagingCutoff
  with_reducible repeat' first
    | refine .next ?_ | exact .refl _ | refine (State.cutoff_keeps _ _).via ?_ | refine (State.tick_keeps _ _).via ?_
theorem State.dropWrite_keeps (s : State) (a l kind payload : Nat) (arr c : Time) (n : Nat) :
    Keeps s (State.dropWrite s a l kind payload arr c n) := by
  unfold State.dropWrite
  with_reducible repeat' first
    | simp only [Keeps.upd_iff] | assumption | exact .refl _ | refine .ite ?_ ?_
    | refine (State.irq_keeps _ _ _).via ?_ | refine (State.count_keeps _ _ _ _ _).via ?_
    | refine (State.post_keeps _ _ _ _ _).via ?_ | refine (State.setLvl_keeps _ _ _ _).via ?_ | intro _ | split
    | dsimp only
theorem State.outArrive_keeps (s : State) (a l w : Nat) (v : Word) (tag seq : Nat) (arr : Time) :
    Keeps s (State.outArrive s a l w v tag seq arr) := by
  unfold State.outArrive
  with_reducible repeat' first
    | simp only [Keeps.upd_iff] | assumption | exact .refl _ | refine .ite ?_ ?_ | refine .ite1 ?_ ?_
    | refine (State.dropWrite_keeps _ _ _ _ _ _ _ _).via ?_ | refine (State.putBit_keeps _ _ _ _).via ?_
    | refine (State.setLvl_keeps _ _ _ _).via ?_ | intro _ | split | dsimp only
theorem execOutWriteArrival_keeps (t : Time) (c : Fin 33) (s : State) :
    KeepsOutcome s (execOutWriteArrival t c s) := by
  unfold execOutWriteArrival
  with_reducible repeat' first
    | refine .next ?_ | simp only [Keeps.upd_iff] | assumption | exact .refl _ | refine .ite ?_ ?_
    | refine (State.tick_keeps _ _).via ?_ | refine (State.outArrive_keeps _ _ _ _ _ _ _ _).via ?_
    | refine (State.setCr_keeps _ _ _).via ?_ | intro _ | split | dsimp only
theorem State.releaseReg_keeps (s : State) (addr : Nat) (v : Word) :
    Keeps s (State.releaseReg s addr v) := by
  unfold State.releaseReg
  with_reducible repeat' first
    | simp only [Keeps.upd_iff] | assumption | exact .refl _ | refine .ite ?_ ?_
    | refine (State.setRg_keeps _ _ _).via ?_ | intro _ | split
theorem State.releasePage_keeps (s : State) (pg : Nat) (tk : Time) (outOffs : List Nat) (mine : Staged → Bool) :
    Keeps s (State.releasePage s pg tk outOffs mine).1 := by
  unfold State.releasePage
  with_reducible repeat' first
    | simp only [Keeps.upd_iff] | assumption | exact .refl _ | refine .ite ?_ ?_ | refine .ite1 ?_ ?_
    | refine (State.setPage_keeps _ _ _).via ?_ | refine (State.putBit_keeps _ _ _ _).via ?_
    | refine (State.releaseReg_keeps _ _ _).via ?_ | refine .fold (fun _ _ => ?_) ?_ | intro _ | split | dsimp only
theorem State.commitLevel_keeps (s : State) (a l : Nat) (tk : Time) :
    Keeps s (State.commitLevel s a l tk).1 := by
  unfold State.commitLevel
  with_reducible repeat' first
    | simp only [Keeps.upd_iff] | assumption | exact .refl _ | refine .ite ?_ ?_ | refine .ite2 ?_ ?_
    | refine .ite1 ?_ ?_ | refine (State.putFld_keeps _ _ _ _ _).via ?_ | refine (State.putBit_keeps _ _ _ _).via ?_
    | refine (State.count_keeps _ _ _ _ _).via ?_ | refine (State.overrun_keeps _ _ _ _ _ _).via ?_
    | refine (State.hopHeld_keeps _ _ _).via ?_ | refine (State.hopNode_keeps _ _ _ _ _).via ?_
    | refine (State.report_keeps _ _ _ _ _ _).via ?_ | refine (State.stage_keeps _ _ _ _ _).via ?_
    | refine (State.setLvl_keeps _ _ _ _).via ?_ | refine (State.slAxPost_keeps _ _ _ _ _ _).via ?_
    | refine (State.dropWrite_keeps _ _ _ _ _ _ _ _).via ?_ | refine .fold (fun _ _ => ?_) ?_
    | refine .fold1 (fun _ _ => ?_) ?_ | refine .fold2 (fun _ _ => ?_) ?_ | intro _ | split | dsimp only
theorem State.parkApply_keeps (s : State) (a : Nat) (tk : Time) :
    Keeps s (State.parkApply s a tk) := by
  unfold State.parkApply
  with_reducible repeat' first
    | simp only [Keeps.upd_iff] | assumption | exact .refl _ | refine .ite ?_ ?_ | refine .ite2 ?_ ?_
    | refine (State.setAx_keeps _ _ _).via ?_ | refine (State.putFld_keeps _ _ _ _ _).via ?_
    | refine (State.stage_keeps _ _ _ _ _).via ?_ | intro _ | split | dsimp only
theorem State.releaseDuties_keeps (s : State) (a : Nat) (ws : List (Nat × Word)) :
    Keeps s (State.releaseDuties s a ws).1 := by
  unfold State.releaseDuties
  with_reducible repeat' first
    | simp only [Keeps.upd_iff] | assumption | exact .refl _ | refine .ite ?_ ?_ | refine .ite2 ?_ ?_
    | refine .ite1 ?_ ?_ | refine (State.foDuty_keeps _ _ _).via ?_ | refine .fold (fun _ _ => ?_) ?_
    | refine .fold1 (fun _ _ => ?_) ?_ | refine .fold2 (fun _ _ => ?_) ?_ | intro _ | split | dsimp only
theorem State.releaseSlot_keeps (s : State) (n : Nat) (tk : Time) (ws : List (Nat × Word)) :
    Keeps s (State.releaseSlot s n tk ws).1 := by
  unfold State.releaseSlot
  with_reducible repeat' first
    | simp only [Keeps.upd_iff] | assumption | exact .refl _ | refine .ite ?_ ?_ | refine .ite2 ?_ ?_
    | refine .ite1 ?_ ?_ | refine (State.releaseReg_keeps _ _ _).via ?_
    | refine (State.releasePage_keeps _ _ _ _ _).via ?_ | refine (State.putBit_keeps _ _ _ _).via ?_
    | refine (State.setRg_keeps _ _ _).via ?_ | refine .fold (fun _ _ => ?_) ?_ | refine .fold1 (fun _ _ => ?_) ?_
    | refine .fold2 (fun _ _ => ?_) ?_ | intro _ | split | dsimp only
theorem State.migGrid_keeps (s : State) (a : Nat) (next : Time) :
    Keeps s (State.migGrid s a next) := by
  unfold State.migGrid
  with_reducible repeat' first
    | simp only [Keeps.upd_iff] | assumption | exact .refl _ | refine .ite ?_ ?_
    | refine (State.setAx_keeps _ _ _).via ?_ | refine (State.migFail_keeps _ _).via ?_ | intro _ | split | dsimp only
theorem State.migMove_keeps (s : State) (a : Nat) (tk : Time) :
    Keeps s (State.migMove s a tk) := by
  unfold State.migMove
  with_reducible repeat' first
    | simp only [Keeps.upd_iff] | assumption | exact .refl _ | refine .ite ?_ ?_
    | refine (State.setAx_keeps _ _ _).via ?_ | refine (State.putFld_keeps _ _ _ _ _).via ?_
    | refine (State.setCr_keeps _ _ _).via ?_ | refine (State.stopNow_keeps _ _).via ?_
    | refine (State.slAxPost_keeps _ _ _ _ _ _).via ?_ | intro _ | split | dsimp only
theorem State.migSwitch_keeps (s : State) (a : Nat) (tk : Time) :
    Keeps s (State.migSwitch s a tk) := by
  unfold State.migSwitch
  with_reducible repeat' first
    | exact .refl _ | refine .ite ?_ ?_ | refine (State.migMove_keeps _ _ _).via ?_ | split
theorem State.commitAxis_keeps (s0 : State) (a : Nat) (tk : Time) :
    Keeps s0 (State.commitAxis s0 a tk) := by
  unfold State.commitAxis
  with_reducible repeat' first
    | simp only [Keeps.upd_iff] | assumption | exact .refl _ | refine .ite ?_ ?_ | refine .ite2 ?_ ?_
    | refine .ite1 ?_ ?_ | refine (State.parkApply_keeps _ _ _).via ?_ | refine (State.cutoff_keeps _ _).via ?_
    | refine (State.profileTick_keeps _ _).via ?_ | refine (State.commitLevel_keeps _ _ _ _).via ?_
    | refine (State.setAx_keeps _ _ _).via ?_ | refine (State.releaseDuties_keeps _ _ _).via ?_
    | refine (State.releasePage_keeps _ _ _ _ _).via ?_ | refine (State.releaseSlot_keeps _ _ _ _).via ?_
    | refine (State.pwmCommit_keeps _ _ _ _).via ?_ | refine (State.freeze_keeps _ _ _ _).via ?_
    | refine (State.migSwitch_keeps _ _ _).via ?_ | refine (State.migGrid_keeps _ _ _).via ?_
    | refine .fold (fun _ _ => ?_) ?_ | refine .fold1 (fun _ _ => ?_) ?_ | refine .fold2 (fun _ _ => ?_) ?_ | intro _
    | split | dsimp only
theorem State.commitSlot_keeps (s : State) (n : Nat) :
    Keeps s (State.commitSlot s n) := by
  unfold State.commitSlot
  with_reducible repeat' first
    | simp only [Keeps.upd_iff] | assumption | exact .refl _ | refine .ite ?_ ?_ | refine .ite2 ?_ ?_
    | refine .ite1 ?_ ?_ | refine (State.releaseSlot_keeps _ _ _ _).via ?_
    | refine (State.pwmCommit_keeps _ _ _ _).via ?_ | refine (State.setPw_keeps _ _ _).via ?_ | intro _ | split
    | dsimp only
theorem execCommitInstant_keeps (t : Time) (n : Fin 112) (s : State) :
    KeepsOutcome s (execCommitInstant t n s) := by
  unfold execCommitInstant
  with_reducible repeat' first
    | refine .next ?_ | simp only [Keeps.upd_iff] | assumption | exact .refl _ | refine .ite ?_ ?_
    | refine (State.tick_keeps _ _).via ?_ | refine (State.commitAxis_keeps _ _ _).via ?_
    | refine (State.commitSlot_keeps _ _).via ?_ | intro _ | split | dsimp only
theorem State.firstSample_keeps (s0 : State) (a : Nat) :
    Keeps s0 (State.firstSample s0 a) := by
  unfold State.firstSample
  with_reducible repeat' first
    | simp only [Keeps.upd_iff] | assumption | exact .refl _ | refine .ite ?_ ?_ | refine .ite2 ?_ ?_
    | refine .ite1 ?_ ?_ | refine (State.profileTick_keeps _ _).via ?_ | refine (State.pwmCommit_keeps _ _ _ _).via ?_
    | refine (State.freeze_keeps _ _ _ _).via ?_ | intro _ | split | dsimp only
theorem execAxisFirstSample_keeps (t : Time) (a : Fin 64) (s : State) :
    KeepsOutcome s (execAxisFirstSample t a s) := by
  unfold execAxisFirstSample
  with_reducible repeat' first
    | refine .next ?_ | exact .refl _ | refine (State.firstSample_keeps _ _).via ?_
    | refine (State.tick_keeps _ _).via ?_
theorem State.runRefused_keeps (s : State) (a reason : Nat) :
    Keeps s (State.runRefused s a reason) := by
  unfold State.runRefused
  with_reducible repeat' first
    | exact .refl _ | refine (State.setRg_keeps _ _ _).via ?_ | refine (State.cfgRefused_keeps _ _).via ?_
theorem State.runSet_keeps (s : State) (a : Nat) :
    Keeps s (State.runSet s a) := by
  unfold State.runSet
  with_reducible repeat' first
    | simp only [Keeps.upd_iff] | assumption | exact .refl _ | refine (State.putBit_keeps _ _ _ _).via ?_
    | refine (State.setAx_keeps _ _ _).via ?_ | refine (State.setAw_keeps _ _ _).via ?_
    | refine (State.cmpMuteSync_keeps _ _).via ?_ | refine (State.setPw_keeps _ _ _).via ?_ | intro _ | split
    | dsimp only
theorem State.axisQuiet_keeps (s : State) (a : Nat) :
    Keeps s (State.axisQuiet s a) := by
  unfold State.axisQuiet
  with_reducible repeat' first
    | simp only [Keeps.upd_iff] | assumption | exact .refl _ | refine (State.setAx_keeps _ _ _).via ?_
    | refine (State.stallGap_keeps _ _).via ?_ | refine (State.frameNodes_keeps _ _ _ _ _).via ?_
    | refine .fold (fun _ _ => ?_) ?_ | intro _ | dsimp only
theorem State.runClear_keeps (s : State) (a : Nat) :
    Keeps s (State.runClear s a) := by
  unfold State.runClear
  with_reducible repeat' first
    | simp only [Keeps.upd_iff] | assumption | exact .refl _ | refine .ite ?_ ?_
    | refine (State.grBreak_keeps _ _ _ _).via ?_ | refine (State.axisQuiet_keeps _ _).via ?_
    | refine (State.ticksEnd_keeps _ _).via ?_ | refine (State.linkSlaveStops_keeps _ _).via ?_
    | refine (State.putFld_keeps _ _ _ _ _).via ?_ | refine (State.putBit_keeps _ _ _ _).via ?_
    | refine (State.cmpMuteSync_keeps _ _).via ?_ | refine (State.setPw_keeps _ _ _).via ?_ | intro _ | split
    | dsimp only
theorem State.sluiceReset_keeps (s : State) :
    Keeps s (State.sluiceReset s) := by
  unfold State.sluiceReset
  with_reducible repeat' first
    | simp only [Keeps.upd_iff] | assumption | exact .refl _ | refine .ite ?_ ?_
    | refine (State.grBreak_keeps _ _ _ _).via ?_ | refine (State.cmpMuteSync_keeps _ _).via ?_
    | refine (State.setPw_keeps _ _ _).via ?_ | refine (State.axisQuiet_keeps _ _).via ?_
    | refine (State.linkSlaveStops_keeps _ _).via ?_ | refine (State.ticksEnd_keeps _ _).via ?_
    | refine .fold (fun _ _ => ?_) ?_ | intro _ | split | dsimp only
theorem State.writeRun_keeps (s : State) (a v : Nat) :
    Keeps s (State.writeRun s a v) := by
  unfold State.writeRun
  with_reducible repeat' first
    | simp only [Keeps.upd_iff] | assumption | exact .refl _ | refine .ite ?_ ?_
    | refine (State.runRefused_keeps _ _ _).via ?_ | refine (State.setAx_keeps _ _ _).via ?_
    | refine (State.putBit_keeps _ _ _ _).via ?_ | refine (State.runSet_keeps _ _).via ?_
    | refine (State.runClear_keeps _ _).via ?_ | intro _ | split | dsimp only
theorem State.slotBegin_keeps (s : State) (n : Nat) :
    Keeps s (State.slotBegin s n) := by
  unfold State.slotBegin
  with_reducible repeat' first
    | simp only [Keeps.upd_iff] | assumption | exact .refl _ | refine .ite ?_ ?_
    | refine (State.slotStart_keeps _ _ _).via ?_ | refine (State.setPw_keeps _ _ _).via ?_
    | refine (State.putFld_keeps _ _ _ _ _).via ?_ | refine (State.setAx_keeps _ _ _).via ?_ | intro _ | split
    | dsimp only
theorem execSlotStart_keeps (t : Time) (n : Fin 48) (s : State) :
    KeepsOutcome s (execSlotStart t n s) := by
  unfold execSlotStart
  with_reducible repeat' first
    | refine .next ?_ | exact .refl _ | refine (State.slotBegin_keeps _ _).via ?_
    | refine (State.tick_keeps _ _).via ?_
theorem State.slotOff_keeps (s : State) (n : Nat) :
    Keeps s (State.slotOff s n) := by
  unfold State.slotOff
  with_reducible repeat' first
    | simp only [Keeps.upd_iff] | assumption | exact .refl _ | refine .ite ?_ ?_
    | refine (State.slotStop_keeps _ _).via ?_ | refine (State.putBit_keeps _ _ _ _).via ?_
    | refine (State.axisQuiet_keeps _ _).via ?_ | refine (State.migFail_keeps _ _).via ?_ | intro _ | split
    | dsimp only
theorem execSlotDisable_keeps (t : Time) (_m : Master) (n : Fin 48) (s : State) :
    KeepsOutcome s (execSlotDisable t _m n s) := by
  unfold execSlotDisable
  with_reducible repeat' first
    | refine .next ?_ | assumption | exact .refl _ | refine .ite ?_ ?_ | refine (State.onPage_keeps _ _ _ ?_).via ?_
    | refine (State.tick_keeps _ _).via ?_ | refine (State.slotOff_keeps _ _).via ?_ | intro _ | split | dsimp only
theorem State.migSet_keeps (s : State) (src dst : Nat) (axes : List Nat) (m : MigSt) (x5 : Option Time) :
    Keeps s (State.migSet s src dst axes m x5) := by
  unfold State.migSet
  with_reducible repeat' first
    | simp only [Keeps.upd_iff]
    | assumption
    | exact .refl _
    | refine .ite ?_ ?_
    | refine .ite2 ?_ ?_
    | refine .ite1 ?_ ?_
    | refine (State.migFail_keeps _ _).via ?_
    | refine (State.setRg64_keeps _ _ _).via ?_
    | refine (State.putFld_keeps _ _ _ _ _).via ?_
    | refine (State.putBit_keeps _ _ _ _).via ?_
    | refine (State.slCorePost_keeps _ _ _ _ _ _).via ?_
    | refine .getD ?_ ?_
    | refine .elim ?_ (fun _ _ => ?_)
    | refine .fold (fun _ _ => ?_) ?_
    | refine .fold1 (fun _ _ => ?_) ?_
    | refine .fold2 (fun _ _ => ?_) ?_
    | intro _
    | split
    | dsimp only
theorem State.migRequest_keeps (s : State) (src dst at_ : Nat) (auto : Bool) :
    Keeps s (State.migRequest s src dst at_ auto) := by
  unfold State.migRequest
  with_reducible repeat' first
    | simp only [Keeps.upd_iff] | assumption | exact .refl _ | refine .ite ?_ ?_
    | refine (State.putFld_keeps _ _ _ _ _).via ?_ | refine (State.putBit_keeps _ _ _ _).via ?_
    | refine (State.slCorePost_keeps _ _ _ _ _ _).via ?_ | refine (State.migSet_keeps _ _ _ _ _ _).via ?_
    | refine .fold (fun _ _ => ?_) ?_ | intro _ | split | dsimp only
theorem State.autoRequest_keeps (s : State) (c : Nat) (stamp : Time) :
    Keeps s (State.autoRequest s c stamp) := by
  unfold State.autoRequest
  with_reducible repeat' first
    | simp only [Keeps.upd_iff] | assumption | exact .refl _ | refine .ite ?_ ?_
    | refine (State.slCorePost_keeps _ _ _ _ _ _).via ?_ | refine (State.migRequest_keeps _ _ _ _ _).via ?_ | intro _
    | split | dsimp only
theorem State.autoPreempt_keeps (s : State) (c : Nat) (stamp : Time) :
    Keeps s (State.autoPreempt s c stamp) := by
  unfold State.autoPreempt
  with_reducible repeat' first
    | exact .refl _ | refine .ite ?_ ?_ | refine (State.autoRequest_keeps _ _ _).via ?_
    | refine (State.migFail_keeps _ _).via ?_ | split
theorem State.autoMig_keeps (s : State) (c : Nat) :
    Keeps s (State.autoMig s c) := by
  unfold State.autoMig
  with_reducible repeat' first
    | simp only [Keeps.upd_iff] | exact .refl _ | refine .ite ?_ ?_ | refine (State.autoPreempt_keeps _ _ _).via ?_
    | split | dsimp only
theorem State.coreFault_keeps (s : State) (c cause pc : Nat) (addr : Option Nat) :
    Keeps s (State.coreFault s c cause pc addr) := by
  unfold State.coreFault
  with_reducible repeat' first
    | exact .refl _ | refine (State.autoMig_keeps _ _).via ?_ | refine (State.faultAt_keeps _ _ _ _ _).via ?_
theorem State.writeMigCmd_keeps (s : State) (v : Nat) :
    Keeps s (State.writeMigCmd s v) := by
  unfold State.writeMigCmd
  with_reducible repeat' first
    | exact .refl _ | refine .ite ?_ ?_ | refine (State.setRg_keeps _ _ _).via ?_
    | refine (State.migRequest_keeps _ _ _ _ _).via ?_ | refine (State.migFail_keeps _ _).via ?_ | split | dsimp only
theorem execMigStart_keeps (t : Time) (_m : Master) (src dst : Fin 32) (s : State) :
    KeepsOutcome s (execMigStart t _m src dst s) := by
  unfold execMigStart
  with_reducible repeat' first
    | refine .next ?_ | assumption | exact .refl _ | refine (State.onPage_keeps _ _ _ ?_).via ?_
    | refine (State.tick_keeps _ _).via ?_ | refine (State.writeMigCmd_keeps _ _).via ?_ | intro _ | dsimp only
theorem execMigrationAbort_keeps (t : Time) (_m : Master) (s : State) :
    KeepsOutcome s (execMigrationAbort t _m s) := by
  unfold execMigrationAbort
  with_reducible repeat' first
    | refine .next ?_ | assumption | exact .refl _ | refine (State.onPage_keeps _ _ _ ?_).via ?_
    | refine (State.tick_keeps _ _).via ?_ | refine (State.writeMigCmd_keeps _ _).via ?_ | intro _ | dsimp only
theorem State.moveWord_keeps (s : State) (src dst i k : Nat) :
    Keeps s (State.moveWord s src dst i k) := by
  unfold State.moveWord
  with_reducible repeat' first
    | simp only [Keeps.upd_iff] | exact .refl _ | refine .ite ?_ ?_ | refine (State.eccCorr_keeps _ _ _ _ _).via ?_
    | refine (State.eccWrite_keeps _ _ _ _).via ?_ | split | dsimp only
theorem State.migCutoff_keeps (s : State) :
    Keeps s (State.migCutoff s) := by
  unfold State.migCutoff
  with_reducible repeat' first
    | simp only [Keeps.upd_iff] | assumption | exact .refl _ | refine .ite ?_ ?_ | refine .ite2 ?_ ?_
    | refine .ite1 ?_ ?_ | refine (State.moveWord_keeps _ _ _ _ _).via ?_
    | refine (State.startCore_keeps _ _ _).via ?_ | refine .fold (fun _ _ => ?_) ?_ | refine .fold1 (fun _ _ => ?_) ?_
    | refine .fold2 (fun _ _ => ?_) ?_ | intro _ | split | dsimp only
theorem execMigrationCutoff_keeps (t : Time) (s : State) :
    KeepsOutcome s (execMigrationCutoff t s) := by
  unfold execMigrationCutoff
  with_reducible repeat' first
    | refine .next ?_ | exact .refl _ | refine (State.migCutoff_keeps _).via ?_ | refine (State.tick_keeps _ _).via ?_
theorem State.migFinish_keeps (s00 : State) :
    Keeps s00 (State.migFinish s00) := by
  unfold State.migFinish
  with_reducible repeat' first
    | simp only [Keeps.upd_iff] | assumption | exact .refl _ | refine .ite ?_ ?_ | refine .ite2 ?_ ?_
    | refine .ite1 ?_ ?_ | refine (State.migMove_keeps _ _ _).via ?_ | refine (State.putFld_keeps _ _ _ _ _).via ?_
    | refine (State.putBit_keeps _ _ _ _).via ?_ | refine (State.slCorePost_keeps _ _ _ _ _ _).via ?_
    | refine (State.autoPreempt_keeps _ _ _).via ?_ | refine .fold (fun _ _ => ?_) ?_
    | refine .fold1 (fun _ _ => ?_) ?_ | refine .fold2 (fun _ _ => ?_) ?_ | intro _ | split | dsimp only
theorem execMigDone_keeps (t : Time) (s : State) :
    KeepsOutcome s (execMigDone t s) := by
  unfold execMigDone
  with_reducible repeat' first
    | refine .next ?_ | exact .refl _ | refine (State.migFinish_keeps _).via ?_ | refine (State.tick_keeps _ _).via ?_
theorem State.budgetEnd_keeps (s : State) (c : Nat) :
    Keeps s (State.budgetEnd s c) := by
  unfold State.budgetEnd
  with_reducible repeat' first
    | simp only [Keeps.upd_iff] | assumption | exact .refl _ | refine .ite ?_ ?_
    | refine (State.putFld_keeps _ _ _ _ _).via ?_ | refine (State.slCorePost_keeps _ _ _ _ _ _).via ?_ | intro _
    | split | dsimp only
theorem State.sluiceHook_keeps (s : State) (off v : Nat) :
    KeepsOpt s (State.sluiceHook s off v) := by
  unfold State.sluiceHook
  with_reducible repeat' first
    | exact .none _ | refine .some ?_ | exact .refl _ | refine .ite ?_ ?_
    | refine (State.writeMigCmd_keeps _ _).via ?_ | refine (State.migWatch_keeps _).via ?_
    | refine (State.setRg_keeps _ _ _).via ?_ | refine (State.cfgRefused_keeps _ _).via ?_ | split | dsimp only

end Sys2Proof.Machine
end

