-- ==== Sys2Proof/Laws/KeepsIsland.lean ====
section
/-! SUPPORT. The operations of Machine/Island.lean keep the queue and the canonical form (`Keeps`). -/

set_option linter.unusedTactic false
set_option linter.unreachableTactic false
set_option linter.unusedSimpArgs false

namespace Sys2Proof.Machine

theorem State.setBw_keeps (s : State) (f : BwSt → BwSt) :
    Keeps s (State.setBw s f) := by
  unfold State.setBw
  with_reducible repeat' first
    | simp only [Keeps.upd_iff] | exact .refl _
theorem State.bwPost_keeps (s : State) (code payload irq : Nat) :
    Keeps s (State.bwPost s code payload irq) := by
  unfold State.bwPost
  with_reducible repeat' first
    | exact .refl _ | refine .ite ?_ ?_ | refine (State.postNow_keeps _ _ _ _).via ?_
    | refine (State.irq_keeps _ _ _).via ?_ | split | dsimp only
theorem State.secondFault_keeps (s : State) (r : Report) (lvl : Nat) (dev : Bool) :
    Keeps s (State.secondFault s r lvl dev) := by
  unfold State.secondFault
  with_reducible repeat' first
    | simp only [Keeps.upd_iff] | assumption | exact .refl _ | refine (State.bwPost_keeps _ _ _ _).via ?_
    | refine (State.setBw_keeps _ _).via ?_ | refine .fold (fun _ _ => ?_) ?_ | refine .fold1 (fun _ _ => ?_) ?_
    | refine .fold2 (fun _ _ => ?_) ?_ | intro _ | dsimp only
theorem State.ladderOne_keeps (s : State) (r : Report) :
    Keeps s (State.ladderOne s r) := by
  unfold State.ladderOne
  with_reducible repeat' first
    | simp only [Keeps.upd_iff] | assumption | exact .refl _ | refine .ite ?_ ?_
    | refine (State.setBw_keeps _ _).via ?_ | refine (State.bwPost_keeps _ _ _ _).via ?_
    | refine (State.secondFault_keeps _ _ _ _).via ?_ | refine (State.faultRecord_keeps _ _ _ _).via ?_ | intro _
    | split | dsimp only
theorem State.showLevel_keeps (s : State) (a lvl : Nat) (esc : Bool) :
    Keeps s (State.showLevel s a lvl esc) := by
  unfold State.showLevel
  with_reducible repeat' first
    | exact .refl _ | refine .ite ?_ ?_ | refine (State.putFld_keeps _ _ _ _ _).via ?_
    | refine (State.bwPost_keeps _ _ _ _).via ?_ | split | dsimp only
theorem State.slotless_keeps (s : State) (a lvl : Nat) :
    Keeps s (State.slotless s a lvl) := by
  unfold State.slotless
  with_reducible repeat' first
    | simp only [Keeps.upd_iff] | assumption | exact .refl _ | refine .ite ?_ ?_
    | refine (State.setBw_keeps _ _).via ?_ | refine (State.stopRequest_keeps _ _ _).via ?_ | intro _ | split
    | dsimp only
theorem State.untimed_keeps (s : State) (a : Nat) :
    Keeps s (State.untimed s a) := by
  unfold State.untimed
  with_reducible repeat' first
    | simp only [Keeps.upd_iff] | assumption | exact .refl _ | refine (State.setBw_keeps _ _).via ?_ | intro _
    | dsimp only
theorem State.levelsEval_keeps (s : State) :
    Keeps s (State.levelsEval s) := by
  unfold State.levelsEval
  with_reducible repeat' first
    | simp only [Keeps.upd_iff] | assumption | exact .refl _ | refine .ite ?_ ?_ | refine .ite2 ?_ ?_
    | refine .ite1 ?_ ?_ | refine (State.setBw_keeps _ _).via ?_ | refine (State.slotless_keeps _ _ _).via ?_
    | refine (State.untimed_keeps _ _).via ?_ | refine (State.showLevel_keeps _ _ _ _).via ?_
    | refine .fold (fun _ _ => ?_) ?_ | refine .fold1 (fun _ _ => ?_) ?_ | refine .fold2 (fun _ _ => ?_) ?_ | intro _
    | split | dsimp only
theorem State.chanEval_keeps (s : State) :
    Keeps s (State.chanEval s) := by
  unfold State.chanEval
  with_reducible repeat' first
    | simp only [Keeps.upd_iff] | assumption | exact .refl _ | refine .ite ?_ ?_
    | refine (State.putBit_keeps _ _ _ _).via ?_ | refine (State.setBw_keeps _ _).via ?_
    | refine (State.bwPost_keeps _ _ _ _).via ?_ | refine (State.deviceHold_keeps _ _).via ?_
    | refine (State.tryRun_keeps _).via ?_ | refine .getD ?_ ?_ | intro _ | split | dsimp only
theorem State.bwSync_keeps (s : State) :
    Keeps s (State.bwSync s) := by
  unfold State.bwSync
  with_reducible repeat' first
    | simp only [Keeps.upd_iff] | assumption | exact .refl _ | refine (State.chanEval_keeps _).via ?_
    | refine (State.levelsEval_keeps _).via ?_ | refine (State.setBw_keeps _ _).via ?_
    | refine (State.runSync_keeps _).via ?_ | intro _ | dsimp only
theorem State.writeAxRun_keeps (s : State) (a v : Nat) :
    Keeps s (State.writeAxRun s a v) := by
  unfold State.writeAxRun
  with_reducible repeat' first
    | exact .refl _ | refine .ite ?_ ?_ | refine (State.writeRun_keeps _ _ _).via ?_
    | refine (State.bwSync_keeps _).via ?_ | split | dsimp only
theorem execAxisRunSet_keeps (t : Time) (_m : Master) (a : Fin 64) (s : State) :
    KeepsOutcome s (execAxisRunSet t _m a s) := by
  unfold execAxisRunSet
  with_reducible repeat' first
    | refine .next ?_ | assumption | exact .refl _ | refine (State.onPage_keeps _ _ _ ?_).via ?_
    | refine (State.tick_keeps _ _).via ?_ | refine (State.writeAxRun_keeps _ _ _).via ?_ | intro _ | dsimp only
theorem execAxisRunClear_keeps (t : Time) (_m : Master) (a : Fin 64) (s : State) :
    KeepsOutcome s (execAxisRunClear t _m a s) := by
  unfold execAxisRunClear
  with_reducible repeat' first
    | refine .next ?_ | assumption | exact .refl _ | refine (State.onPage_keeps _ _ _ ?_).via ?_
    | refine (State.tick_keeps _ _).via ?_ | refine (State.writeAxRun_keeps _ _ _).via ?_ | intro _ | dsimp only
theorem execParkWrite_keeps (t : Time) (_m : Master) (a : Fin 64) (park : Bool) (s : State) :
    KeepsOutcome s (execParkWrite t _m a park s) := by
  unfold execParkWrite
  with_reducible repeat' first
    | refine .next ?_ | assumption | exact .refl _ | refine (State.onPage_keeps _ _ _ ?_).via ?_
    | refine (State.tick_keeps _ _).via ?_ | refine (State.writeAxRun_keeps _ _ _).via ?_ | intro _ | dsimp only
theorem State.ladder_keeps (s : State) :
    Keeps s (State.ladder s) := by
  unfold State.ladder
  with_reducible repeat' first
    | simp only [Keeps.upd_iff] | assumption | exact .refl _ | refine (State.bwSync_keeps _).via ?_
    | refine (State.ladderOne_keeps _ _).via ?_ | refine (State.setBw_keeps _ _).via ?_
    | refine .fold (fun _ _ => ?_) ?_ | intro _ | dsimp only
theorem State.standstills_keeps (s : State) :
    Keeps s (State.standstills s) := by
  unfold State.standstills
  with_reducible repeat' first
    | simp only [Keeps.upd_iff] | assumption | exact .refl _ | refine .ite ?_ ?_
    | refine (State.setBw_keeps _ _).via ?_ | refine .fold (fun _ _ => ?_) ?_ | intro _ | split | dsimp only
theorem execFaultReport_keeps (t : Time) (s : State) :
    KeepsOutcome s (execFaultReport t s) := by
  unfold execFaultReport
  with_reducible repeat' first
    | refine .next ?_ | exact .refl _ | refine (State.ladder_keeps _).via ?_
    | refine (State.standstills_keeps _).via ?_ | refine (State.tick_keeps _ _).via ?_
theorem execRecoveryWindowEnd_keeps (t : Time) (s : State) :
    KeepsOutcome s (execRecoveryWindowEnd t s) := by
  unfold execRecoveryWindowEnd
  with_reducible repeat' first
    | refine .next ?_ | simp only [Keeps.upd_iff] | assumption | exact .refl _ | refine (State.tick_keeps _ _).via ?_
    | refine (State.setBw_keeps _ _).via ?_ | intro _ | dsimp only
theorem State.axisTimer_keeps (s : State) (a lvl at_ : Nat) (dur : Time) :
    Keeps s (State.axisTimer s a lvl at_ dur) := by
  unfold State.axisTimer
  with_reducible repeat' first
    | simp only [Keeps.upd_iff] | assumption | exact .refl _ | refine .ite ?_ ?_
    | refine (State.bwSync_keeps _).via ?_ | refine (State.setBw_keeps _ _).via ?_ | intro _ | split | dsimp only
theorem execAxisDegradeTimeout_keeps (t : Time) (a : Fin 64) (s : State) :
    KeepsOutcome s (execAxisDegradeTimeout t a s) := by
  unfold execAxisDegradeTimeout
  with_reducible repeat' first
    | refine .next ?_ | exact .refl _ | refine (State.tick_keeps _ _).via ?_
    | refine (State.axisTimer_keeps _ _ _ _ _).via ?_ | dsimp only
theorem execAxisStopTimeout_keeps (t : Time) (a : Fin 64) (s : State) :
    KeepsOutcome s (execAxisStopTimeout t a s) := by
  unfold execAxisStopTimeout
  with_reducible repeat' first
    | refine .next ?_ | exact .refl _ | refine .ite ?_ ?_ | refine (State.tick_keeps _ _).via ?_
    | refine (State.bwSync_keeps _).via ?_ | refine (State.standstills_keeps _).via ?_
    | refine (State.axisTimer_keeps _ _ _ _ _).via ?_ | split | dsimp only
theorem State.fclr_keeps (s : State) (v : Nat) :
    Keeps s (State.fclr s v) := by
  unfold State.fclr
  with_reducible repeat' first
    | simp only [Keeps.upd_iff] | assumption | exact .refl _ | refine .ite ?_ ?_
    | refine (State.bwSync_keeps _).via ?_ | refine (State.bwPost_keeps _ _ _ _).via ?_
    | refine (State.setBw_keeps _ _).via ?_ | refine .fold (fun _ _ => ?_) ?_ | intro _ | split | dsimp only
theorem State.writeFclr_keeps (s : State) (m : Option Master) (v : Nat) :
    Keeps s (State.writeFclr s m v) := by
  unfold State.writeFclr
  with_reducible repeat' first
    | assumption | exact .refl _ | refine .ite ?_ ?_ | refine (State.fclr_keeps _ _).via ?_
    | refine (State.cmdRefused_keeps _ _).via ?_ | split | dsimp only
theorem execFclr_keeps (t : Time) (m : Option Master) (v : Word) (s : State) :
    KeepsOutcome s (execFclr t m v s) := by
  unfold execFclr
  with_reducible repeat' first
    | refine .next ?_ | assumption | exact .refl _ | refine (State.tick_keeps _ _).via ?_
    | refine (State.writeFclr_keeps _ _ _).via ?_ | refine (State.onPage_keeps _ _ _ ?_).via ?_ | intro _ | dsimp only
theorem State.islandFault_keeps (s : State) (code : Nat) :
    Keeps s (State.islandFault s code) := by
  unfold State.islandFault
  with_reducible repeat' first
    | simp only [Keeps.upd_iff] | assumption | exact .refl _ | refine .ite ?_ ?_
    | refine (State.faultRecord_keeps _ _ _ _).via ?_ | refine (State.setBw_keeps _ _).via ?_
    | refine (State.setCr_keeps _ _ _).via ?_ | refine (State.setCoreState_keeps _ _ _).via ?_
    | refine (State.ladder_keeps _).via ?_ | refine (State.report_keeps _ _ _ _ _ _).via ?_ | intro _ | split
    | dsimp only
theorem execLockstep_keeps (t : Time) (pc : Fin 1048576) (s : State) :
    KeepsOutcome s (execLockstep t pc s) := by
  unfold execLockstep
  with_reducible repeat' first
    | refine .next ?_ | exact .refl _ | refine (State.islandFault_keeps _ _).via ?_
    | refine (State.postNow_keeps _ _ _ _).via ?_ | refine (State.putBit_keeps _ _ _ _).via ?_
    | refine (State.tick_keeps _ _).via ?_
theorem execBwClock_keeps (t : Time) (s : State) :
    KeepsOutcome s (execBwClock t s) := by
  unfold execBwClock
  with_reducible repeat' first
    | refine .next ?_ | exact .refl _ | refine (State.islandFault_keeps _ _).via ?_
    | refine (State.tick_keeps _ _).via ?_
theorem execBwSupply_keeps (t : Time) (s : State) :
    KeepsOutcome s (execBwSupply t s) := by
  unfold execBwSupply
  with_reducible repeat' first
    | refine .next ?_ | exact .refl _ | refine (State.islandFault_keeps _ _).via ?_
    | refine (State.tick_keeps _ _).via ?_
theorem State.stoDiscrepancy_keeps (s : State) (pin : Bool) :
    Keeps s (State.stoDiscrepancy s pin) := by
  unfold State.stoDiscrepancy
  with_reducible repeat' first
    | simp only [Keeps.upd_iff] | assumption | exact .refl _ | refine .ite ?_ ?_
    | refine (State.putBit_keeps _ _ _ _).via ?_ | refine (State.setBw_keeps _ _).via ?_
    | refine (State.islandFault_keeps _ _).via ?_ | intro _ | split | dsimp only
theorem execStoDiscrepancy_keeps (t : Time) (pin : Bool) (s : State) :
    KeepsOutcome s (execStoDiscrepancy t pin s) := by
  unfold execStoDiscrepancy
  with_reducible repeat' first
    | refine .next ?_ | assumption | exact .refl _ | refine (State.tick_keeps _ _).via ?_
    | refine (State.stoDiscrepancy_keeps _ _).via ?_ | dsimp only
theorem State.pairOnly_keeps (s : State) (m : Option Master) (f : State → State) (hf : ∀ x, Keeps x (f x)) :
    Keeps s (State.pairOnly s m f) := by
  unfold State.pairOnly
  with_reducible repeat' first
    | simp only [Keeps.upd_iff] | assumption | exact .refl _ | refine (hf _).via ?_
    | refine (State.onPage_keeps _ _ _ ?_).via ?_ | refine (State.cfgRefused_keeps _ _).via ?_ | intro _ | split
    | dsimp only
theorem State.writeStoCmd_keeps (s : State) (v : Nat) :
    Keeps s (State.writeStoCmd s v) := by
  unfold State.writeStoCmd
  with_reducible repeat' first
    | exact .refl _ | refine (State.bwSync_keeps _).via ?_ | refine (State.setRg_keeps _ _ _).via ?_
theorem State.stoKick_keeps (s : State) :
    Keeps s (State.stoKick s) := by
  unfold State.stoKick
  with_reducible repeat' first
    | simp only [Keeps.upd_iff] | assumption | exact .refl _ | refine (State.bwSync_keeps _).via ?_
    | refine (State.setBw_keeps _ _).via ?_ | intro _ | dsimp only
theorem State.writePreq_keeps (s : State) (i v : Nat) :
    Keeps s (State.writePreq s i v) := by
  unfold State.writePreq
  with_reducible repeat' first
    | assumption | exact .refl _ | refine .ite ?_ ?_ | refine (State.cfgRefused_keeps _ _).via ?_
    | refine (State.bwSync_keeps _).via ?_ | refine (State.setRg_keeps _ _ _).via ?_ | intro _ | split | dsimp only
theorem execStoCmdWrite_keeps (t : Time) (m : Option Master) (v : Word) (s : State) :
    KeepsOutcome s (execStoCmdWrite t m v s) := by
  unfold execStoCmdWrite
  with_reducible repeat' first
    | refine .next ?_ | assumption | exact .refl _ | refine (State.pairOnly_keeps _ _ _ ?_).via ?_
    | refine (State.tick_keeps _ _).via ?_ | refine (State.writeStoCmd_keeps _ _).via ?_ | intro _ | dsimp only
theorem execStoKick_keeps (t : Time) (m : Option Master) (s : State) :
    KeepsOutcome s (execStoKick t m s) := by
  unfold execStoKick
  with_reducible repeat' first
    | refine .next ?_ | exact .refl _ | refine (State.pairOnly_keeps _ _ _ ?_).via ?_
    | refine (State.tick_keeps _ _).via ?_ | refine (State.stoKick_keeps _).via ?_ | intro _
theorem execStoKickTimeout_keeps (t : Time) (s : State) :
    KeepsOutcome s (execStoKickTimeout t s) := by
  unfold execStoKickTimeout
  with_reducible repeat' first
    | refine .next ?_ | exact .refl _ | refine (State.bwSync_keeps _).via ?_ | refine (State.tick_keeps _ _).via ?_
theorem execPreqWrite_keeps (t : Time) (m : Option Master) (i : Fin 8) (v : Word) (s : State) :
    KeepsOutcome s (execPreqWrite t m i v s) := by
  unfold execPreqWrite
  with_reducible repeat' first
    | refine .next ?_ | assumption | exact .refl _ | refine (State.pairOnly_keeps _ _ _ ?_).via ?_
    | refine (State.tick_keeps _ _).via ?_ | refine (State.writePreq_keeps _ _ _).via ?_ | intro _ | dsimp only
theorem State.pairHold_keeps (s : State) (on : Bool) :
    Keeps s (State.pairHold s on) := by
  unfold State.pairHold
  with_reducible repeat' first
    | exact .refl _ | refine (State.sgEval_keeps _).via ?_ | refine (State.putBit_keeps _ _ _ _).via ?_
theorem execSgHoldWrite_keeps (t : Time) (m : Option Master) (on : Bool) (s : State) :
    KeepsOutcome s (execSgHoldWrite t m on s) := by
  unfold execSgHoldWrite
  with_reducible repeat' first
    | refine .next ?_ | simp only [Keeps.upd_iff] | assumption | exact .refl _ | refine (State.tick_keeps _ _).via ?_
    | refine (State.pairHold_keeps _ _).via ?_ | refine (State.onPage_keeps _ _ _ ?_).via ?_
    | refine (State.sgEval_keeps _).via ?_ | refine (State.writeReg_keeps _ _ _ _ _).via ?_ | intro _ | split
    | dsimp only
theorem execErrToggle_keeps (t : Time) (s : State) :
    KeepsOutcome s (execErrToggle t s) := by
  unfold execErrToggle
  with_reducible repeat' first
    | refine .next ?_ | simp only [Keeps.upd_iff] | assumption | exact .refl _ | refine .ite ?_ ?_
    | refine (State.tick_keeps _ _).via ?_ | refine (State.setBw_keeps _ _).via ?_ | intro _ | split | dsimp only
theorem State.cycWaitRead_keeps (s : State) :
    Keeps s (State.cycWaitRead s).2 := by
  unfold State.cycWaitRead
  with_reducible repeat' first
    | simp only [Keeps.upd_iff] | assumption | exact .refl _ | refine .ite ?_ ?_ | refine .ite2 ?_ ?_
    | refine (State.setCr_keeps _ _ _).via ?_ | refine (State.setBw_keeps _ _).via ?_ | intro _ | split | dsimp only
theorem execCycWaitRead_keeps (t : Time) (s : State) :
    KeepsOutcome s (execCycWaitRead t s) := by
  unfold execCycWaitRead
  with_reducible repeat' first
    | refine .next ?_ | exact .refl _ | refine .ite ?_ ?_ | refine .ite2 ?_ ?_ | refine (State.tick_keeps _ _).via ?_
    | refine (State.cycWaitRead_keeps _).via ?_ | split | dsimp only

end Sys2Proof.Machine
end

