-- ==== Sys2Proof/Laws/KeepsMonitor.lean ====
section
/-! SUPPORT. The operations of Machine/Monitor.lean keep the queue and the canonical form (`Keeps`). -/

set_option linter.unusedTactic false
set_option linter.unreachableTactic false
set_option linter.unusedSimpArgs false

namespace Sys2Proof.Machine

theorem State.bwWrite_keeps (s : State) (m : Option Master) (a v : Nat) :
    Keeps s (State.bwWrite s m a v) := by
  unfold State.bwWrite
  with_reducible repeat' first
    | simp only [Keeps.upd_iff] | assumption | exact .refl _ | refine (State.writeReg_keeps _ _ _ _ _).via ?_
    | refine (State.setRow_keeps _ _ _ _).via ?_ | intro _ | split
theorem State.onBrake_keeps (s : State) (m : Option Master) (f : State → State) (hf : ∀ x, Keeps x (f x)) :
    Keeps s (State.onBrake s m f) := by
  unfold State.onBrake
  with_reducible repeat' first
    | simp only [Keeps.upd_iff] | assumption | exact .refl _ | refine (hf _).via ?_
    | refine (State.onPage_keeps _ _ _ ?_).via ?_ | intro _ | split
theorem State.setSm_keeps (s : State) (n : Nat) (f : SmSt → SmSt) :
    Keeps s (State.setSm s n f) := by
  unfold State.setSm
  with_reducible repeat' first
    | simp only [Keeps.upd_iff] | assumption | exact .refl _ | refine (State.setBw_keeps _ _).via ?_ | intro _
    | dsimp only
theorem State.smFlag_keeps (s : State) (n k : Nat) :
    Keeps s (State.smFlag s n k) := by
  unfold State.smFlag
  with_reducible repeat' first
    | simp only [Keeps.upd_iff] | assumption | exact .refl _ | refine .ite ?_ ?_
    | refine (State.setRg64_keeps _ _ _).via ?_ | refine (State.report_keeps _ _ _ _ _ _).via ?_ | intro _ | split
    | dsimp only
theorem State.smCheck_keeps (s : State) (n : Nat) :
    Keeps s (State.smCheck s n) := by
  unfold State.smCheck
  with_reducible repeat' first
    | exact .refl _ | refine .ite ?_ ?_ | refine (State.smFlag_keeps _ _ _).via ?_ | split | dsimp only
theorem State.smCountEdge_keeps (s : State) (n : Nat) (fwd : Bool) (stamp : Time) :
    Keeps s (State.smCountEdge s n fwd stamp) := by
  unfold State.smCountEdge
  with_reducible repeat' first
    | simp only [Keeps.upd_iff] | assumption | exact .refl _ | refine .ite ?_ ?_
    | refine (State.setSm_keeps _ _ _).via ?_ | refine (State.setRg_keeps _ _ _).via ?_
    | refine (State.smCheck_keeps _ _).via ?_ | refine (State.smFlag_keeps _ _ _).via ?_ | intro _ | split
    | dsimp only
theorem State.smDecode_keeps (s : State) (n line : Nat) (level : Bool) (stamp : Time) (had : Bool) :
    Keeps s (State.smDecode s n line level stamp had) := by
  unfold State.smDecode
  with_reducible repeat' first
    | simp only [Keeps.upd_iff] | assumption | exact .refl _ | refine .ite ?_ ?_
    | refine (State.smCheck_keeps _ _).via ?_ | refine (State.smFlag_keeps _ _ _).via ?_
    | refine (State.setSm_keeps _ _ _).via ?_ | refine (State.smCountEdge_keeps _ _ _ _).via ?_ | intro _ | split
    | dsimp only
theorem State.smEdge_keeps (s : State) (n line : Nat) (level : Bool) (stamp : Time) :
    Keeps s (State.smEdge s n line level stamp) := by
  unfold State.smEdge
  with_reducible repeat' first
    | simp only [Keeps.upd_iff] | assumption | exact .refl _ | refine .ite ?_ ?_
    | refine (State.setSm_keeps _ _ _).via ?_ | refine (State.smDecode_keeps _ _ _ _ _ _).via ?_ | intro _ | split
    | dsimp only
theorem State.smWord_keeps (s : State) (n : Nat) :
    Keeps s (State.smWord s n) := by
  unfold State.smWord
  with_reducible repeat' first
    | simp only [Keeps.upd_iff] | assumption | exact .refl _ | refine .ite ?_ ?_
    | refine (State.setSm_keeps _ _ _).via ?_ | refine (State.setRg_keeps _ _ _).via ?_
    | refine (State.smCheck_keeps _ _).via ?_ | refine (State.smFlag_keeps _ _ _).via ?_ | intro _ | split
    | dsimp only
theorem execSafeMonitorEdge_keeps (t : Time) (n : Fin 48) (x : SmIn) (s : State) :
    KeepsOutcome s (execSafeMonitorEdge t n x s) := by
  unfold execSafeMonitorEdge
  with_reducible repeat' first
    | refine .next ?_ | simp only [Keeps.upd_iff] | assumption | exact .refl _ | refine (State.tick_keeps _ _).via ?_
    | refine (State.smEdge_keeps _ _ _ _ _).via ?_ | refine (State.smWord_keeps _ _).via ?_ | intro _ | split
    | dsimp only
theorem State.smXcheck_keeps (s : State) (n : Nat) :
    Keeps s (State.smXcheck s n) := by
  unfold State.smXcheck
  with_reducible repeat' first
    | simp only [Keeps.upd_iff] | assumption | exact .refl _ | refine .ite ?_ ?_
    | refine (State.setSm_keeps _ _ _).via ?_ | refine (State.smFlag_keeps _ _ _).via ?_ | refine .getD ?_ ?_
    | intro _ | split | dsimp only
theorem execXcheck_keeps (t : Time) (n : Fin 48) (s : State) :
    KeepsOutcome s (execXcheck t n s) := by
  unfold execXcheck
  with_reducible repeat' first
    | refine .next ?_ | exact .refl _ | refine (State.smXcheck_keeps _ _).via ?_
    | refine (State.tick_keeps _ _).via ?_
theorem State.smFlagsClear_keeps (s : State) (k v : Nat) :
    Keeps s (State.smFlagsClear s k v) := by
  unfold State.smFlagsClear
  with_reducible repeat' first
    | assumption | exact .refl _ | refine .ite ?_ ?_ | refine (State.reportClear_keeps _ _ _).via ?_
    | refine (State.setRg64_keeps _ _ _).via ?_ | refine .fold (fun _ _ => ?_) ?_ | intro _ | split | dsimp only
theorem execSmFlagsClear_keeps (t : Time) (m : Option Master) (k : Fin 4) (v : DWord) (s : State) :
    KeepsOutcome s (execSmFlagsClear t m k v s) := by
  unfold execSmFlagsClear
  with_reducible repeat' first
    | refine .next ?_ | assumption | exact .refl _ | refine (State.pairOnly_keeps _ _ _ ?_).via ?_
    | refine (State.tick_keeps _ _).via ?_ | refine (State.smFlagsClear_keeps _ _ _).via ?_ | intro _ | dsimp only
theorem State.writeSmCfg_keeps (s : State) (m : Option Master) (n v : Nat) :
    Keeps s (State.writeSmCfg s m n v) := by
  unfold State.writeSmCfg
  with_reducible repeat' first
    | assumption | exact .refl _ | refine .ite ?_ ?_ | refine (State.setRg_keeps _ _ _).via ?_
    | refine (State.bwWrite_keeps _ _ _ _).via ?_ | refine (State.setSm_keeps _ _ _).via ?_
    | refine (State.cfgRefused_keeps _ _).via ?_ | intro _ | split | dsimp only
theorem execDiagDue_keeps (t : Time) (s : State) :
    KeepsOutcome s (execDiagDue t s) := by
  unfold execDiagDue
  with_reducible repeat' first
    | refine .next ?_ | exact .refl _ | refine (State.diagEval_keeps _).via ?_ | refine (State.tick_keeps _ _).via ?_

end Sys2Proof.Machine
end

