-- ==== Sys2Proof/Laws/KeepsRace.lean ====
section
/-! SUPPORT. The operations of Machine/Race.lean keep the queue and the canonical form (`Keeps`). -/

set_option linter.unusedTactic false
set_option linter.unreachableTactic false
set_option linter.unusedSimpArgs false

namespace Sys2Proof.Machine

theorem State.setRace_keeps (s : State) (r : Nat) (f : RaceSt → RaceSt) :
    Keeps s (State.setRace s r f) := by
  unfold State.setRace
  with_reducible repeat' first
    | simp only [Keeps.upd_iff] | exact .refl _
theorem State.ethPost_keeps (s : State) (n code payload : Nat) :
    Keeps s (State.ethPost s n code payload) := by
  unfold State.ethPost
  with_reducible repeat' first
    | exact .refl _ | refine (State.postNow_keeps _ _ _ _).via ?_
theorem State.ptpFrame_keeps (s : State) (r typ seq len : Nat) :
    Keeps s (State.ptpFrame s r typ seq len).2 := by
  unfold State.ptpFrame
  with_reducible repeat' first
    | exact .refl _ | refine (State.free_keeps _).via ?_ | dsimp only
theorem State.egress_keeps (s : State) (n : Nat) (k : EgKind) (b : List Byte) (prio : Nat) :
    Keeps s (State.egress s n k b prio) := by
  unfold State.egress
  with_reducible repeat' first
    | simp only [Keeps.upd_iff] | assumption | exact .refl _ | refine .ite ?_ ?_ | refine .ite2 ?_ ?_
    | refine .ite1 ?_ ?_ | refine (State.irq_keeps _ _ _).via ?_ | refine (State.count_keeps _ _ _ _ _).via ?_
    | refine (State.setPort_keeps _ _ _).via ?_ | intro _ | split | dsimp only
theorem State.learn_keeps (s : State) (r port mac : Nat) :
    Keeps s (State.learn s r port mac) := by
  unfold State.learn
  with_reducible repeat' first
    | simp only [Keeps.upd_iff] | assumption | exact .refl _ | refine .ite ?_ ?_ | refine .ite1 ?_ ?_
    | refine (State.setRace_keeps _ _ _).via ?_ | intro _ | split | dsimp only
theorem State.raceSend_keeps (s : State) (r : Nat) (b : List Byte) :
    Keeps s (State.raceSend s r b) := by
  unfold State.raceSend
  with_reducible repeat' first
    | assumption | exact .refl _ | refine .ite ?_ ?_ | refine (State.learn_keeps _ _ _ _).via ?_
    | refine (State.egress_keeps _ _ _ _ _).via ?_ | refine .fold (fun _ _ => ?_) ?_ | intro _ | split | dsimp only
theorem State.raceSendMask_keeps (s : State) (mask : Nat) (b : List Byte) :
    Keeps s (State.raceSendMask s mask b) := by
  unfold State.raceSendMask
  with_reducible repeat' first
    | assumption | exact .refl _ | refine .ite ?_ ?_ | refine (State.raceSend_keeps _ _ _).via ?_
    | refine .fold (fun _ _ => ?_) ?_ | intro _ | split | dsimp only
theorem State.bridgeRx_keeps (s : State) (n : Nat) (b : List Byte) (ok : Bool) :
    Keeps s (State.bridgeRx s n b ok).1 := by
  unfold State.bridgeRx
  with_reducible repeat' first
    | exact .refl _ | refine .ite ?_ ?_ | refine .ite1 ?_ ?_ | refine (State.count_keeps _ _ _ _ _).via ?_
    | refine (State.learn_keeps _ _ _ _).via ?_ | refine (State.egress_keeps _ _ _ _ _).via ?_ | split | dsimp only
theorem State.gclStart_keeps (s : State) (n : Nat) :
    Keeps s (State.gclStart s n) := by
  unfold State.gclStart
  with_reducible repeat' first
    | simp only [Keeps.upd_iff] | assumption | exact .refl _ | refine .ite ?_ ?_
    | refine (State.putBit_keeps _ _ _ _).via ?_ | refine (State.setPort_keeps _ _ _).via ?_ | intro _ | split
    | dsimp only
theorem State.gclSwapNow_keeps (s : State) (n : Nat) :
    Keeps s (State.gclSwapNow s n) := by
  unfold State.gclSwapNow
  with_reducible repeat' first
    | simp only [Keeps.upd_iff] | assumption | exact .refl _ | refine (State.setRg_keeps _ _ _).via ?_
    | refine (State.putBit_keeps _ _ _ _).via ?_ | refine (State.setRg64_keeps _ _ _).via ?_
    | refine (State.setPort_keeps _ _ _).via ?_ | refine .fold (fun _ _ => ?_) ?_ | intro _ | dsimp only
theorem State.gclSwap_keeps (s : State) (n : Nat) :
    Keeps s (State.gclSwap s n) := by
  unfold State.gclSwap
  with_reducible repeat' first
    | assumption | exact .refl _ | refine .ite ?_ ?_ | refine (State.gclSwapNow_keeps _ _).via ?_ | split | dsimp only
theorem State.writeGclCtrl_keeps (s : State) (n v : Nat) :
    Keeps s (State.writeGclCtrl s n v) := by
  unfold State.writeGclCtrl
  with_reducible repeat' first
    | simp only [Keeps.upd_iff] | assumption | exact .refl _ | refine .ite ?_ ?_
    | refine (State.setRg_keeps _ _ _).via ?_ | refine (State.setPort_keeps _ _ _).via ?_ | intro _ | split
    | dsimp only
theorem State.egressSelect_keeps (s : State) (n : Nat) :
    Keeps s (State.egressSelect s n) := by
  unfold State.egressSelect
  with_reducible repeat' first
    | simp only [Keeps.upd_iff] | assumption | exact .refl _ | refine .ite ?_ ?_ | refine .ite2 ?_ ?_
    | refine .ite1 ?_ ?_ | refine (State.count_keeps _ _ _ _ _).via ?_ | refine (State.setPort_keeps _ _ _).via ?_
    | refine .fold (fun _ _ => ?_) ?_ | refine .fold1 (fun _ _ => ?_) ?_ | refine .fold2 (fun _ _ => ?_) ?_ | intro _
    | split | dsimp only
theorem execEgressSelect_keeps (t : Time) (n : Fin 4) (s : State) :
    KeepsOutcome s (execEgressSelect t n s) := by
  unfold execEgressSelect
  with_reducible repeat' first
    | refine .next ?_ | exact .refl _ | refine (State.egressSelect_keeps _ _).via ?_
    | refine (State.tick_keeps _ _).via ?_
theorem execGclCycleStart_keeps (t : Time) (n : Fin 4) (s : State) :
    KeepsOutcome s (execGclCycleStart t n s) := by
  unfold execGclCycleStart
  with_reducible repeat' first
    | refine .next ?_ | exact .refl _ | refine (State.gclStart_keeps _ _).via ?_
    | refine (State.tick_keeps _ _).via ?_
theorem execGclChange_keeps (t : Time) (_m : Master) (n : Fin 4) (s : State) :
    KeepsOutcome s (execGclChange t _m n s) := by
  unfold execGclChange
  with_reducible repeat' first
    | refine .next ?_ | assumption | exact .refl _ | refine (State.onPage_keeps _ _ _ ?_).via ?_
    | refine (State.tick_keeps _ _).via ?_ | refine (State.writeGclCtrl_keeps _ _ _).via ?_ | intro _ | dsimp only
theorem execGclSwap_keeps (t : Time) (n : Fin 4) (s : State) :
    KeepsOutcome s (execGclSwap t n s) := by
  unfold execGclSwap
  with_reducible repeat' first
    | refine .next ?_ | exact .refl _ | refine (State.gclSwap_keeps _ _).via ?_ | refine (State.tick_keeps _ _).via ?_
theorem State.pdelayRequest_keeps (s : State) (n : Nat) :
    Keeps s (State.pdelayRequest s n) := by
  unfold State.pdelayRequest
  with_reducible repeat' first
    | simp only [Keeps.upd_iff] | assumption | exact .refl _ | refine .ite ?_ ?_ | refine .ite2 ?_ ?_
    | refine .ite1 ?_ ?_ | refine (State.ptpFrame_keeps _ _ _ _ _).via ?_
    | refine (State.egress_keeps _ _ _ _ _).via ?_ | refine (State.setPort_keeps _ _ _).via ?_ | intro _ | split
    | dsimp only
theorem State.judgeCapable_keeps (s : State) (n : Nat) :
    Keeps s (State.judgeCapable s n) := by
  unfold State.judgeCapable
  with_reducible repeat' first
    | assumption | exact .refl _ | refine .ite ?_ ?_ | refine (State.putBit_keeps _ _ _ _).via ?_
    | refine (State.irq_keeps _ _ _).via ?_ | refine (State.ethPost_keeps _ _ _ _).via ?_ | split | dsimp only
theorem State.pdelayResponse_keeps (s : State) (n : Nat) (x : Option PdelayRes) :
    Keeps s (State.pdelayResponse s n x) := by
  unfold State.pdelayResponse
  with_reducible repeat' first
    | simp only [Keeps.upd_iff] | assumption | exact .refl _ | refine .ite ?_ ?_
    | refine (State.judgeCapable_keeps _ _).via ?_ | refine (State.setPort_keeps _ _ _).via ?_
    | refine (State.setRg_keeps _ _ _).via ?_ | refine .fold (fun _ _ => ?_) ?_ | intro _ | split | dsimp only
theorem execPdelayRequest_keeps (t : Time) (n : Fin 4) (s : State) :
    KeepsOutcome s (execPdelayRequest t n s) := by
  unfold execPdelayRequest
  with_reducible repeat' first
    | refine .next ?_ | exact .refl _ | refine (State.pdelayRequest_keeps _ _).via ?_
    | refine (State.tick_keeps _ _).via ?_
theorem execPdelayResponse_keeps (t : Time) (n : Fin 4) (x : Option PdelayRes) (s : State) :
    KeepsOutcome s (execPdelayResponse t n x s) := by
  unfold execPdelayResponse
  with_reducible repeat' first
    | refine .next ?_ | exact .refl _ | refine (State.pdelayResponse_keeps _ _ _).via ?_
    | refine (State.tick_keeps _ _).via ?_
theorem State.writeEthCtrl_keeps (s : State) (n v : Nat) :
    Keeps s (State.writeEthCtrl s n v) := by
  unfold State.writeEthCtrl
  with_reducible repeat' first
    | assumption | exact .refl _ | refine .ite ?_ ?_ | refine (State.setRg_keeps _ _ _).via ?_
    | refine (State.putBit_keeps _ _ _ _).via ?_ | refine (State.cfgRefused_keeps _ _).via ?_
    | refine (State.judgeCapable_keeps _ _).via ?_ | split | dsimp only
theorem State.ethHook_keeps (s : State) (n off v : Nat) :
    KeepsOpt s (State.ethHook s n off v) := by
  unfold State.ethHook
  with_reducible repeat' first
    | exact .none _ | refine .some ?_ | assumption | exact .refl _ | refine .ite ?_ ?_
    | refine (State.setRg_keeps _ _ _).via ?_ | refine (State.cfgRefused_keeps _ _).via ?_
    | refine (State.writeGclCtrl_keeps _ _ _).via ?_ | refine (State.judgeCapable_keeps _ _).via ?_
    | refine (State.writeEthCtrl_keeps _ _ _).via ?_ | split | dsimp only
theorem State.ethInject_keeps (s : State) (n : Nat) :
    Keeps s (State.ethInject s n) := by
  unfold State.ethInject
  with_reducible repeat' first
    | simp only [Keeps.upd_iff] | assumption | exact .refl _ | refine .ite ?_ ?_
    | refine (State.setPort_keeps _ _ _).via ?_ | refine (State.irq_keeps _ _ _).via ?_
    | refine (State.ethPost_keeps _ _ _ _).via ?_ | intro _ | split | dsimp only

end Sys2Proof.Machine
end

