-- ==== Sys2Proof/Laws/KeepsMirast.lean ====
section
/-! SUPPORT. The operations of Machine/Mirast.lean keep the queue and the canonical form (`Keeps`). -/

set_option linter.unusedTactic false
set_option linter.unreachableTactic false
set_option linter.unusedSimpArgs false

namespace Sys2Proof.Machine

theorem State.setTx_keeps (s : State) (c : Nat) (f : MirTx → MirTx) :
    Keeps s (State.setTx s c f) := by
  unfold State.setTx
  with_reducible repeat' first
    | simp only [Keeps.upd_iff] | assumption | exact .refl _ | refine (State.setBw_keeps _ _).via ?_ | intro _
    | dsimp only
theorem State.mirCommit_keeps (s : State) (c : Nat) :
    Keeps s (State.mirCommit s c) := by
  unfold State.mirCommit
  with_reducible repeat' first
    | simp only [Keeps.upd_iff] | assumption | exact .refl _ | refine (State.setTx_keeps _ _ _).via ?_ | intro _
    | dsimp only
theorem State.setRxState_keeps (s : State) (c v : Nat) :
    Keeps s (State.setRxState s c v) := by
  unfold State.setRxState
  with_reducible repeat' first
    | exact .refl _ | refine .ite ?_ ?_ | refine (State.bwPost_keeps _ _ _ _).via ?_
    | refine (State.putFld_keeps _ _ _ _ _).via ?_ | split
theorem State.setRx_keeps (s : State) (c : Nat) (f : MirRx → MirRx) :
    Keeps s (State.setRx s c f) := by
  unfold State.setRx
  with_reducible repeat' first
    | simp only [Keeps.upd_iff] | assumption | exact .refl _ | refine (State.setBw_keeps _ _).via ?_ | intro _
    | dsimp only
theorem State.connOpen_keeps (s : State) (c : Nat) :
    Keeps s (State.connOpen s c) := by
  unfold State.connOpen
  with_reducible repeat' first
    | assumption | exact .refl _ | refine .ite ?_ ?_ | refine (State.setRxState_keeps _ _ _).via ?_
    | refine (State.putBit_keeps _ _ _ _).via ?_ | refine (State.setRx_keeps _ _ _).via ?_
    | refine (State.cmdRefused_keeps _ _).via ?_ | intro _ | split | dsimp only
theorem State.connClose_keeps (s : State) (c : Nat) :
    Keeps s (State.connClose s c) := by
  unfold State.connClose
  with_reducible repeat' first
    | simp only [Keeps.upd_iff] | assumption | exact .refl _ | refine (State.setRxState_keeps _ _ _).via ?_
    | refine (State.setRx_keeps _ _ _).via ?_ | intro _ | dsimp only
theorem State.writeConnCmd_keeps (s : State) (k v : Nat) :
    Keeps s (State.writeConnCmd s k v) := by
  unfold State.writeConnCmd
  with_reducible repeat' first
    | exact .refl _ | refine .ite ?_ ?_ | refine (State.mirCommit_keeps _ _).via ?_
    | refine (State.connOpen_keeps _ _).via ?_ | refine (State.connClose_keeps _ _).via ?_ | split | dsimp only
theorem State.writeConn_keeps (s : State) (m : Option Master) (k off v : Nat) :
    Keeps s (State.writeConn s m k off v) := by
  unfold State.writeConn
  with_reducible repeat' first
    | simp only [Keeps.upd_iff] | assumption | exact .refl _ | refine .ite ?_ ?_
    | refine (State.writeConnCmd_keeps _ _ _).via ?_ | refine (State.cfgRefused_keeps _ _).via ?_
    | refine (State.bwWrite_keeps _ _ _ _).via ?_ | refine (State.setTx_keeps _ _ _).via ?_ | intro _ | split
    | dsimp only
theorem State.rxErr_keeps (s : State) (c k : Nat) :
    Keeps s (State.rxErr s c k) := by
  unfold State.rxErr
  with_reducible repeat' first
    | exact .refl _ | refine (State.count_keeps _ _ _ _ _).via ?_
theorem State.rxPaired_keeps (s : State) (c : Nat) :
    Keeps s (State.rxPaired s c) := by
  unfold State.rxPaired
  with_reducible repeat' first
    | simp only [Keeps.upd_iff] | assumption | exact .refl _ | refine (State.setRxState_keeps _ _ _).via ?_
    | refine (State.setRx_keeps _ _ _).via ?_ | intro _ | dsimp only
theorem State.rxFail_keeps (s : State) (c code lvl : Nat) :
    Keeps s (State.rxFail s c code lvl) := by
  unfold State.rxFail
  with_reducible repeat' first
    | simp only [Keeps.upd_iff] | assumption | exact .refl _ | refine (State.setRx_keeps _ _ _).via ?_
    | refine (State.setRxState_keeps _ _ _).via ?_ | refine (State.report_keeps _ _ _ _ _ _).via ?_ | intro _
    | dsimp only
theorem State.rxNew_keeps (s : State) (c r seq : Nat) (b pl : List Byte) (at_ : Time) :
    Keeps s (State.rxNew s c r seq b pl at_) := by
  unfold State.rxNew
  with_reducible repeat' first
    | simp only [Keeps.upd_iff] | assumption | exact .refl _ | refine (State.setRx_keeps _ _ _).via ?_ | intro _
    | split | dsimp only
theorem State.rxValid_keeps (s : State) (c r seq : Nat) (b pl : List Byte) (at_ : Time) :
    Keeps s (State.rxValid s c r seq b pl at_) := by
  unfold State.rxValid
  with_reducible repeat' first
    | simp only [Keeps.upd_iff] | assumption | exact .refl _ | refine .ite ?_ ?_ | refine .ite2 ?_ ?_
    | refine .ite1 ?_ ?_ | refine (State.rxPaired_keeps _ _).via ?_ | refine (State.rxFail_keeps _ _ _ _).via ?_
    | refine (State.rxNew_keeps _ _ _ _ _ _ _).via ?_ | refine (State.rxErr_keeps _ _ _).via ?_ | intro _ | split
    | dsimp only
theorem State.rxCopy_keeps (s : State) (c r : Nat) (b : List Byte) (at_ : Time) :
    Keeps s (State.rxCopy s c r b at_) := by
  unfold State.rxCopy
  with_reducible repeat' first
    | exact .refl _ | refine .ite ?_ ?_ | refine (State.rxErr_keeps _ _ _).via ?_
    | refine (State.putBit_keeps _ _ _ _).via ?_ | refine (State.rxValid_keeps _ _ _ _ _ _ _).via ?_ | split
    | dsimp only
theorem State.mirReceive_keeps (s : State) (r : Nat) (b : List Byte) (at_ : Time) :
    Keeps s (State.mirReceive s r b at_) := by
  unfold State.mirReceive
  with_reducible repeat' first
    | assumption | exact .refl _ | refine .ite ?_ ?_ | refine (State.rxCopy_keeps _ _ _ _ _).via ?_
    | refine .fold (fun _ _ => ?_) ?_ | intro _ | split | dsimp only
theorem State.mirSend_keeps (s : State) (c : Nat) :
    Keeps s (State.mirSend s c) := by
  unfold State.mirSend
  with_reducible repeat' first
    | simp only [Keeps.upd_iff] | assumption | exact .refl _ | refine .ite ?_ ?_
    | refine (State.raceSendMask_keeps _ _ _).via ?_ | refine (State.setTx_keeps _ _ _).via ?_ | intro _ | split
    | dsimp only
theorem State.rxDegraded_keeps (s : State) (c : Nat) :
    Keeps s (State.rxDegraded s c) := by
  unfold State.rxDegraded
  with_reducible repeat' first
    | exact .refl _ | refine .ite ?_ ?_ | refine (State.rxFail_keeps _ _ _ _).via ?_ | split
theorem State.rxTick_keeps (s : State) (c : Nat) :
    Keeps s (State.rxTick s c) := by
  unfold State.rxTick
  with_reducible repeat' first
    | simp only [Keeps.upd_iff] | assumption | exact .refl _ | refine (State.putBit_keeps _ _ _ _).via ?_
    | refine (State.setRg_keeps _ _ _).via ?_ | refine (State.putFld_keeps _ _ _ _ _).via ?_ | refine .getD ?_ ?_
    | refine .fold (fun _ _ => ?_) ?_ | intro _ | split | dsimp only
theorem State.rxTimeout_keeps (s : State) (c : Nat) :
    Keeps s (State.rxTimeout s c) := by
  unfold State.rxTimeout
  with_reducible repeat' first
    | exact .refl _ | refine .ite ?_ ?_ | refine (State.rxFail_keeps _ _ _ _).via ?_ | split | dsimp only
theorem State.rxUnpaired_keeps (s : State) (c : Nat) :
    Keeps s (State.rxUnpaired s c) := by
  unfold State.rxUnpaired
  with_reducible repeat' first
    | simp only [Keeps.upd_iff] | assumption | exact .refl _ | refine .ite ?_ ?_ | refine .ite2 ?_ ?_
    | refine (State.setRx_keeps _ _ _).via ?_ | refine (State.setRxState_keeps _ _ _).via ?_ | intro _ | split
    | dsimp only
theorem State.safetyTick_keeps (s : State) :
    Keeps s (State.safetyTick s) := by
  unfold State.safetyTick
  with_reducible repeat' first
    | simp only [Keeps.upd_iff] | assumption | exact .refl _ | refine .ite ?_ ?_
    | refine (State.rxTick_keeps _ _).via ?_ | refine (State.setRg_keeps _ _ _).via ?_
    | refine (State.setBw_keeps _ _).via ?_ | refine (State.setCr_keeps _ _ _).via ?_
    | refine (State.islandFault_keeps _ _).via ?_ | refine .fold (fun _ _ => ?_) ?_ | intro _ | split | dsimp only
theorem execSafetyTick_keeps (t : Time) (s : State) :
    KeepsOutcome s (execSafetyTick t s) := by
  unfold execSafetyTick
  with_reducible repeat' first
    | refine .next ?_ | exact .refl _ | refine (State.safetyTick_keeps _).via ?_
    | refine (State.tick_keeps _ _).via ?_
theorem execMirastSend_keeps (t : Time) (c : Fin 16) (s : State) :
    KeepsOutcome s (execMirastSend t c s) := by
  unfold execMirastSend
  with_reducible repeat' first
    | refine .next ?_ | exact .refl _ | refine (State.mirSend_keeps _ _).via ?_ | refine (State.tick_keeps _ _).via ?_
theorem execMirastPairTimeout_keeps (t : Time) (c : Fin 16) (s : State) :
    KeepsOutcome s (execMirastPairTimeout t c s) := by
  unfold execMirastPairTimeout
  with_reducible repeat' first
    | refine .next ?_ | exact .refl _ | refine (State.rxUnpaired_keeps _ _).via ?_
    | refine (State.tick_keeps _ _).via ?_
theorem execMirTimeout_keeps (t : Time) (c : Fin 16) (s : State) :
    KeepsOutcome s (execMirTimeout t c s) := by
  unfold execMirTimeout
  with_reducible repeat' first
    | refine .next ?_ | exact .refl _ | refine (State.rxTimeout_keeps _ _).via ?_
    | refine (State.tick_keeps _ _).via ?_
theorem execMirDegraded_keeps (t : Time) (c : Fin 16) (s : State) :
    KeepsOutcome s (execMirDegraded t c s) := by
  unfold execMirDegraded
  with_reducible repeat' first
    | refine .next ?_ | exact .refl _ | refine (State.rxDegraded_keeps _ _).via ?_
    | refine (State.tick_keeps _ _).via ?_
theorem execConnCommit_keeps (t : Time) (m : Option Master) (s : State) :
    KeepsOutcome s (execConnCommit t m s) := by
  unfold execConnCommit
  with_reducible repeat' first
    | refine .next ?_ | assumption | exact .refl _ | refine (State.onBrake_keeps _ _ _ ?_).via ?_
    | refine (State.tick_keeps _ _).via ?_ | refine (State.writeConnCmd_keeps _ _ _).via ?_ | intro _ | dsimp only
theorem execConnOpen_keeps (t : Time) (m : Option Master) (s : State) :
    KeepsOutcome s (execConnOpen t m s) := by
  unfold execConnOpen
  with_reducible repeat' first
    | refine .next ?_ | assumption | exact .refl _ | refine (State.onBrake_keeps _ _ _ ?_).via ?_
    | refine (State.tick_keeps _ _).via ?_ | refine (State.writeConnCmd_keeps _ _ _).via ?_ | intro _ | dsimp only
theorem execConnClose_keeps (t : Time) (m : Option Master) (s : State) :
    KeepsOutcome s (execConnClose t m s) := by
  unfold execConnClose
  with_reducible repeat' first
    | refine .next ?_ | assumption | exact .refl _ | refine (State.onBrake_keeps _ _ _ ?_).via ?_
    | refine (State.tick_keeps _ _).via ?_ | refine (State.writeConnCmd_keeps _ _ _).via ?_ | intro _ | dsimp only

end Sys2Proof.Machine
end

