-- ==== Sys2Proof/Laws/KeepsRings.lean ====
section
/-! SUPPORT. The operations of Machine/Rings.lean keep the queue and the canonical form (`Keeps`). -/

set_option linter.unusedTactic false
set_option linter.unreachableTactic false
set_option linter.unusedSimpArgs false

namespace Sys2Proof.Machine

theorem State.fetchDesc_keeps (s : State) (d : List Word) :
    Keeps s (State.fetchDesc s d) := by
  unfold State.fetchDesc
  with_reducible repeat' first
    | simp only [Keeps.upd_iff] | assumption | exact .refl _ | refine .ite ?_ ?_
    | refine (State.setRg_keeps _ _ _).via ?_ | refine (State.judgeDesc_keeps _ _ _).via ?_
    | refine (State.lateDesc_keeps _).via ?_ | refine (State.setHost_keeps _ _).via ?_ | refine .getD ?_ ?_ | intro _
    | split | dsimp only
theorem execDescriptorFetch_keeps (t : Time) (d : Vector Word 8) (s : State) :
    KeepsOutcome s (execDescriptorFetch t d s) := by
  unfold execDescriptorFetch
  with_reducible repeat' first
    | refine .next ?_ | exact .refl _ | refine (State.fetchDesc_keeps _ _).via ?_
    | refine (State.tick_keeps _ _).via ?_
theorem State.complete_keeps (s : State) (r : Nat) :
    Keeps s (State.complete s r) := by
  unfold State.complete
  with_reducible repeat' first
    | simp only [Keeps.upd_iff] | assumption | exact .refl _ | refine .ite ?_ ?_ | refine .ite2 ?_ ?_
    | refine .ite1 ?_ ?_ | refine (State.postCq_keeps _ _ _ _ _ _ _).via ?_ | refine (State.setHost_keeps _ _).via ?_
    | refine (State.irq_keeps _ _ _).via ?_ | refine (State.count_keeps _ _ _ _ _).via ?_
    | refine (State.dropCmd_keeps _ _).via ?_ | refine (State.postOwn_keeps _ _ _).via ?_ | refine .getD ?_ ?_
    | intro _ | split | dsimp only
theorem execCommandCompletion_keeps (t : Time) (r : Fin 8) (s : State) :
    KeepsOutcome s (execCommandCompletion t r s) := by
  unfold execCommandCompletion
  with_reducible repeat' first
    | refine .next ?_ | exact .refl _ | refine (State.complete_keeps _ _).via ?_
    | refine (State.tick_keeps _ _).via ?_
theorem State.freeTag_keeps (s : State) (i : Nat) :
    Keeps s (State.freeTag s i) := by
  unfold State.freeTag
  with_reducible repeat' first
    | exact .refl _ | refine (State.setTag_keeps _ _ _).via ?_
theorem State.ackCq_keeps (s : State) (r v : Nat) :
    Keeps s (State.ackCq s r v) := by
  unfold State.ackCq
  with_reducible repeat' first
    | simp only [Keeps.upd_iff] | assumption | exact .refl _ | refine .ite ?_ ?_
    | refine (State.setRg_keeps _ _ _).via ?_ | refine (State.lateDesc_keeps _).via ?_
    | refine (State.setHost_keeps _ _).via ?_ | refine (State.cfgRefused_keeps _ _).via ?_
    | refine (State.freeTag_keeps _ _).via ?_ | refine .fold (fun _ _ => ?_) ?_ | intro _ | split | dsimp only
theorem execCompletionAck_keeps (t : Time) (_m : Master) (r : Fin 8) (v : Word) (s : State) :
    KeepsOutcome s (execCompletionAck t _m r v s) := by
  unfold execCompletionAck
  with_reducible repeat' first
    | refine .next ?_ | assumption | exact .refl _ | refine (State.onPage_keeps _ _ _ ?_).via ?_
    | refine (State.tick_keeps _ _).via ?_ | refine (State.ackCq_keeps _ _ _).via ?_ | intro _ | dsimp only
theorem State.abortTag_keeps (s : State) (w : Nat) :
    Keeps s (State.abortTag s w) := by
  unfold State.abortTag
  with_reducible repeat' first
    | simp only [Keeps.upd_iff] | assumption | exact .refl _ | refine .ite ?_ ?_
    | refine (State.abortJudge_keeps _ _).via ?_ | refine (State.setHost_keeps _ _).via ?_ | refine .getD ?_ ?_
    | intro _ | split | dsimp only
theorem execTagAbort_keeps (t : Time) (_m : Master) (v : Word) (s : State) :
    KeepsOutcome s (execTagAbort t _m v s) := by
  unfold execTagAbort
  with_reducible repeat' first
    | refine .next ?_ | assumption | exact .refl _ | refine (State.onPage_keeps _ _ _ ?_).via ?_
    | refine (State.tick_keeps _ _).via ?_ | refine (State.abortTag_keeps _ _).via ?_ | intro _ | dsimp only
theorem execTagQuarantineEnd_keeps (t : Time) (i : Fin 8192) (s : State) :
    KeepsOutcome s (execTagQuarantineEnd t i s) := by
  unfold execTagQuarantineEnd
  with_reducible repeat' first
    | refine .next ?_ | simp only [Keeps.upd_iff] | exact .refl _ | refine .ite ?_ ?_
    | refine (State.tick_keeps _ _).via ?_ | refine (State.setTag_keeps _ _ _).via ?_ | split | dsimp only
theorem execSqDoorbell_keeps (t : Time) (m : Master) (r : Fin 8) (v : Word) (s : State) :
    KeepsOutcome s (execSqDoorbell t m r v s) := by
  unfold execSqDoorbell
  with_reducible repeat' first
    | refine .next ?_ | assumption | exact .refl _ | refine (State.onPage_keeps _ _ _ ?_).via ?_
    | refine (State.tick_keeps _ _).via ?_ | refine (State.writeReg_keeps _ _ _ _ _).via ?_ | intro _ | dsimp only
theorem State.eventRing_keeps (s : State) :
    Keeps s (State.eventRing s) := by
  unfold State.eventRing
  with_reducible repeat' first
    | simp only [Keeps.upd_iff] | assumption | exact .refl _ | refine .ite ?_ ?_ | refine .ite2 ?_ ?_
    | refine .ite1 ?_ ?_ | refine (State.hostWords_keeps _ _ _).via ?_ | refine (State.setRg_keeps _ _ _).via ?_
    | refine (State.msiEntry_keeps _ _).via ?_ | refine .fold (fun _ _ => ?_) ?_ | refine .fold1 (fun _ _ => ?_) ?_
    | refine .fold2 (fun _ _ => ?_) ?_ | intro _ | split | dsimp only
theorem execEventRingWrite_keeps (t : Time) (s : State) :
    KeepsOutcome s (execEventRingWrite t s) := by
  unfold execEventRingWrite
  with_reducible repeat' first
    | refine .next ?_ | exact .refl _ | refine (State.eventRing_keeps _).via ?_ | refine (State.tick_keeps _ _).via ?_
theorem State.frDeliver_keeps (s : State) (f port : Nat) (b : List Byte) (stamp : Time) (buf : DWord) :
    Keeps s (State.frDeliver s f port b stamp buf) := by
  unfold State.frDeliver
  with_reducible repeat' first
    | exact .refl _ | refine .ite ?_ ?_ | refine (State.irq_keeps _ _ _).via ?_
    | refine (State.count_keeps _ _ _ _ _).via ?_ | refine (State.hostWrite_keeps _ _ _).via ?_
    | refine (State.hostWords_keeps _ _ _).via ?_ | refine (State.msiEntry_keeps _ _).via ?_
    | refine (State.setRg_keeps _ _ _).via ?_ | split | dsimp only
theorem execFrTailWrite_keeps (t : Time) (m : Master) (f : Fin 2) (v : Word) (s : State) :
    KeepsOutcome s (execFrTailWrite t m f v s) := by
  unfold execFrTailWrite
  with_reducible repeat' first
    | refine .next ?_ | assumption | exact .refl _ | refine (State.onPage_keeps _ _ _ ?_).via ?_
    | refine (State.tick_keeps _ _).via ?_ | refine (State.writeReg_keeps _ _ _ _ _).via ?_ | intro _ | dsimp only
theorem State.vecEoi_keeps (s : State) (v : Nat) :
    Keeps s (State.vecEoi s v) := by
  unfold State.vecEoi
  with_reducible repeat' first
    | exact .refl _ | refine .ite ?_ ?_ | refine (State.msiSend_keeps _ _).via ?_ | split
theorem execVecEoi_keeps (t : Time) (_m : Master) (v : Word) (s : State) :
    KeepsOutcome s (execVecEoi t _m v s) := by
  unfold execVecEoi
  with_reducible repeat' first
    | refine .next ?_ | assumption | exact .refl _ | refine (State.onPage_keeps _ _ _ ?_).via ?_
    | refine (State.tick_keeps _ _).via ?_ | refine (State.vecEoi_keeps _ _).via ?_ | intro _ | dsimp only
theorem State.pcieReset_keeps (s : State) (down : Bool) :
    Keeps s (State.pcieReset s down) := by
  unfold State.pcieReset
  extract_lets stat tags late keep src s1 s2 s3
  have h1 : Keeps s s1 := ⟨rfl, fun c => have k := (State.setPage_keeps s R.HOST.base (fun _ => {})).canon c
    ⟨k.mem, twf_filter _ _ _ c.regs, k.pages, k.sels⟩⟩
  have h3 : Keeps s s3 := .ite ((State.setRg_keeps _ _ _).via h1)
    ((State.irq_keeps _ _ _).via ((State.count_keeps _ _ _ _ _).via ((State.setRg_keeps _ _ _).via h1)))
  exact .ite ((State.irq_keeps _ _ _).via h3) h3
theorem execPcieReset_keeps (t : Time) (down : Bool) (s : State) :
    KeepsOutcome s (execPcieReset t down s) := by
  unfold execPcieReset
  with_reducible repeat' first
    | refine .next ?_ | exact .refl _ | refine (State.pcieReset_keeps _ _).via ?_
    | refine (State.tick_keeps _ _).via ?_
theorem execPcieLinkUp_keeps (t : Time) (gen : Fin 4) (width : Fin 3) (s : State) :
    KeepsOutcome s (execPcieLinkUp t gen width s) := by
  unfold execPcieLinkUp
  with_reducible repeat' first
    | refine .next ?_ | exact .refl _ | refine .ite ?_ ?_ | refine (State.tick_keeps _ _).via ?_
    | refine (State.putFld_keeps _ _ _ _ _).via ?_ | refine (State.irq_keeps _ _ _).via ?_ | split | dsimp only
theorem State.writeRing_keeps (s : State) (m : Master) (a cfg v : Nat) (idle : Bool) :
    Keeps s (State.writeRing s m a cfg v idle) := by
  unfold State.writeRing
  with_reducible repeat' first
    | exact .refl _ | refine .ite ?_ ?_ | refine (State.writeReg_keeps _ _ _ _ _).via ?_
    | refine (State.cfgRefused_keeps _ _).via ?_ | split
theorem State.hostHook_keeps (s : State) (m : Master) (off v : Nat) :
    KeepsOpt s (State.hostHook s m off v) := by
  unfold State.hostHook
  with_reducible repeat' first
    | exact .none _ | refine .some ?_ | simp only [Keeps.upd_iff] | assumption | exact .refl _ | refine .ite ?_ ?_
    | refine (State.abortTag_keeps _ _).via ?_ | refine (State.vecEoi_keeps _ _).via ?_
    | refine (State.writeRing_keeps _ _ _ _ _ _).via ?_ | refine (State.cfgRefused_keeps _ _).via ?_
    | refine (State.ackCq_keeps _ _ _).via ?_ | refine (State.setRg_keeps _ _ _).via ?_
    | refine (State.msiSend_keeps _ _).via ?_ | intro _ | split | dsimp only
theorem State.spiOut_keeps (s : State) (first : Time) :
    Keeps s (State.spiOut s first).2 := by
  unfold State.spiOut
  with_reducible repeat' first
    | simp only [Keeps.upd_iff] | assumption | exact .refl _ | refine .ite ?_ ?_ | refine .ite2 ?_ ?_ | intro _
    | split | dsimp only
theorem State.spiDiscard_keeps (s : State) (code : Nat) :
    Keeps s (State.spiDiscard s code) := by
  unfold State.spiDiscard
  with_reducible repeat' first
    | simp only [Keeps.upd_iff] | assumption | exact .refl _ | refine (State.putFld_keeps _ _ _ _ _).via ?_
    | refine (State.count_keeps _ _ _ _ _).via ?_ | refine (State.irq_keeps _ _ _).via ?_ | intro _ | split
    | dsimp only

end Sys2Proof.Machine
end

