-- ==== Sys2Proof/Laws/KeepsEther.lean ====
section
/-! SUPPORT. The operations of Machine/Ether.lean keep the queue and the canonical form (`Keeps`). -/

set_option linter.unusedTactic false
set_option linter.unreachableTactic false
set_option linter.unusedSimpArgs false

namespace Sys2Proof.Machine

theorem State.setRed_keeps (s : State) (f : RedSt → RedSt) :
    Keeps s (State.setRed s f) := by
  unfold State.setRed
  with_reducible repeat' first
    | simp only [Keeps.upd_iff] | exact .refl _
theorem State.badNow_keeps (s : State) (r : Nat) :
    Keeps s (State.badNow s r) := by
  unfold State.badNow
  with_reducible repeat' first
    | simp only [Keeps.upd_iff] | assumption | exact .refl _ | refine .ite ?_ ?_
    | refine (State.setRed_keeps _ _).via ?_ | intro _ | split | dsimp only
theorem State.domainSync_keeps (s : State) (r : Nat) (ofs : Int) :
    Keeps s (State.domainSync s r ofs) := by
  unfold State.domainSync
  with_reducible repeat' first
    | simp only [Keeps.upd_iff] | assumption | exact .refl _ | refine .ite ?_ ?_
    | refine (State.badNow_keeps _ _).via ?_ | refine (State.setRace_keeps _ _ _).via ?_
    | refine (State.setRg64_keeps _ _ _).via ?_ | refine (State.irq_keeps _ _ _).via ?_
    | refine (State.postNow_keeps _ _ _ _).via ?_ | refine (State.putBit_keeps _ _ _ _).via ?_
    | refine (State.syncInterval_keeps _ _).via ?_ | intro _ | split | dsimp only
theorem State.syncAccept_keeps (s : State) (n : Nat) (b : List Byte) (stamp : Time) :
    Keeps s (State.syncAccept s n b stamp) := by
  unfold State.syncAccept
  with_reducible repeat' first
    | assumption | exact .refl _ | refine .ite ?_ ?_ | refine (State.putFld_keeps _ _ _ _ _).via ?_
    | refine (State.setRg64_keeps _ _ _).via ?_ | refine (State.count_keeps _ _ _ _ _).via ?_
    | refine (State.domainSync_keeps _ _ _).via ?_ | refine (State.egress_keeps _ _ _ _ _).via ?_ | split | dsimp only
theorem State.syncOriginate_keeps (s : State) (r : Nat) :
    Keeps s (State.syncOriginate s r) := by
  unfold State.syncOriginate
  with_reducible repeat' first
    | simp only [Keeps.upd_iff] | assumption | exact .refl _ | refine .ite ?_ ?_ | refine .ite2 ?_ ?_
    | refine .ite1 ?_ ?_ | refine (State.setRace_keeps _ _ _).via ?_ | refine (State.ptpFrame_keeps _ _ _ _ _).via ?_
    | refine (State.egress_keeps _ _ _ _ _).via ?_ | refine (State.domainSync_keeps _ _ _).via ?_
    | refine .fold (fun _ _ => ?_) ?_ | refine .fold1 (fun _ _ => ?_) ?_ | refine .fold2 (fun _ _ => ?_) ?_ | intro _
    | split | dsimp only
theorem execSyncOriginate_keeps (t : Time) (r : Fin 2) (s : State) :
    KeepsOutcome s (execSyncOriginate t r s) := by
  unfold execSyncOriginate
  with_reducible repeat' first
    | refine .next ?_ | exact .refl _ | refine (State.syncOriginate_keeps _ _).via ?_
    | refine (State.tick_keeps _ _).via ?_
theorem State.raceFail_keeps (s : State) (r kind : Nat) :
    Keeps s (State.raceFail s r kind) := by
  unfold State.raceFail
  with_reducible repeat' first
    | simp only [Keeps.upd_iff] | assumption | exact .refl _ | refine .ite ?_ ?_
    | refine (State.putBit_keeps _ _ _ _).via ?_ | refine (State.irq_keeps _ _ _).via ?_
    | refine (State.setRed_keeps _ _).via ?_ | refine (State.badNow_keeps _ _).via ?_
    | refine (State.postNow_keeps _ _ _ _).via ?_ | refine (State.report_keeps _ _ _ _ _ _).via ?_ | intro _ | split
    | dsimp only
theorem State.redJudge_keeps (s : State) (num : Nat) (a b : Bool) :
    Keeps s (State.redJudge s num a b) := by
  unfold State.redJudge
  with_reducible repeat' first
    | simp only [Keeps.upd_iff] | assumption | exact .refl _ | refine .ite ?_ ?_
    | refine (State.setRed_keeps _ _).via ?_ | intro _ | split | dsimp only
theorem State.redFinal_keeps (s : State) :
    Keeps s (State.redFinal s) := by
  unfold State.redFinal
  with_reducible repeat' first
    | simp only [Keeps.upd_iff] | assumption | exact .refl _ | refine .ite ?_ ?_
    | refine (State.setRed_keeps _ _).via ?_ | refine (State.badNow_keeps _ _).via ?_
    | refine (State.raceFail_keeps _ _ _).via ?_ | refine .fold (fun _ _ => ?_) ?_ | intro _ | split | dsimp only
theorem State.redCompare_keeps (s : State) (r : Nat) (b : List Byte) :
    Keeps s (State.redCompare s r b) := by
  unfold State.redCompare
  with_reducible repeat' first
    | simp only [Keeps.upd_iff] | assumption | exact .refl _ | refine .ite ?_ ?_
    | refine (State.setRed_keeps _ _).via ?_ | refine (State.redJudge_keeps _ _ _ _).via ?_
    | refine (State.redFinal_keeps _).via ?_ | refine .getD ?_ ?_ | intro _ | split | dsimp only
theorem State.redSkew_keeps (s : State) :
    Keeps s (State.redSkew s) := by
  unfold State.redSkew
  with_reducible repeat' first
    | simp only [Keeps.upd_iff] | assumption | exact .refl _ | refine .ite ?_ ?_
    | refine (State.setRed_keeps _ _).via ?_ | refine (State.redJudge_keeps _ _ _ _).via ?_
    | refine (State.redFinal_keeps _).via ?_ | refine .fold (fun _ _ => ?_) ?_ | intro _ | split | dsimp only
theorem execRedSkewExpiry_keeps (t : Time) (s : State) :
    KeepsOutcome s (execRedSkewExpiry t s) := by
  unfold execRedSkewExpiry
  with_reducible repeat' first
    | refine .next ?_ | exact .refl _ | refine (State.redSkew_keeps _).via ?_ | refine (State.tick_keeps _ _).via ?_
theorem State.raceOk_keeps (s : State) (r : Nat) :
    Keeps s (State.raceOk s r) := by
  unfold State.raceOk
  with_reducible repeat' first
    | simp only [Keeps.upd_iff] | assumption | exact .refl _ | refine .ite ?_ ?_
    | refine (State.badNow_keeps _ _).via ?_ | refine (State.irq_keeps _ _ _).via ?_
    | refine (State.postNow_keeps _ _ _ _).via ?_ | refine (State.putBit_keeps _ _ _ _).via ?_
    | refine (State.setRed_keeps _ _).via ?_ | refine (State.reportClear_keeps _ _ _).via ?_ | intro _ | split
    | dsimp only
theorem execRaceOk_keeps (t : Time) (r : Fin 2) (s : State) :
    KeepsOutcome s (execRaceOk t r s) := by
  unfold execRaceOk
  with_reducible repeat' first
    | refine .next ?_ | exact .refl _ | refine (State.raceOk_keeps _ _).via ?_ | refine (State.tick_keeps _ _).via ?_
theorem State.domainLost_keeps (s : State) (r : Nat) :
    Keeps s (State.domainLost s r) := by
  unfold State.domainLost
  with_reducible repeat' first
    | simp only [Keeps.upd_iff] | assumption | exact .refl _ | refine .ite ?_ ?_
    | refine (State.irq_keeps _ _ _).via ?_ | refine (State.postNow_keeps _ _ _ _).via ?_
    | refine (State.putBit_keeps _ _ _ _).via ?_ | refine (State.setRace_keeps _ _ _).via ?_
    | refine (State.selectClock_keeps _ _ _).via ?_ | refine (State.setUnsure_keeps _ _).via ?_
    | refine (State.raceFail_keeps _ _ _).via ?_ | intro _ | split | dsimp only
theorem execDomainLost_keeps (t : Time) (r : Fin 2) (s : State) :
    KeepsOutcome s (execDomainLost t r s) := by
  unfold execDomainLost
  with_reducible repeat' first
    | refine .next ?_ | exact .refl _ | refine (State.domainLost_keeps _ _).via ?_
    | refine (State.tick_keeps _ _).via ?_
theorem State.ftSelect_keeps (s : State) (r : Nat) :
    Keeps s (State.ftSelect s r) := by
  unfold State.ftSelect
  with_reducible repeat' first
    | exact .refl _ | refine .ite ?_ ?_ | refine (State.domainLost_keeps _ _).via ?_
    | refine (State.selectClock_keeps _ _ _).via ?_ | refine (State.cmdRefused_keeps _ _).via ?_ | split | dsimp only
theorem execFtSelect_keeps (t : Time) (_m : Master) (r : Fin 2) (s : State) :
    KeepsOutcome s (execFtSelect t _m r s) := by
  unfold execFtSelect
  with_reducible repeat' first
    | refine .next ?_ | assumption | exact .refl _ | refine (State.onPage_keeps _ _ _ ?_).via ?_
    | refine (State.tick_keeps _ _).via ?_ | refine (State.ftSelect_keeps _ _).via ?_ | intro _ | dsimp only
theorem State.fdbFlush_keeps (s : State) (r : Nat) :
    Keeps s (State.fdbFlush s r) := by
  unfold State.fdbFlush
  with_reducible repeat' first
    | simp only [Keeps.upd_iff] | assumption | exact .refl _ | refine (State.setRace_keeps _ _ _).via ?_ | intro _
    | dsimp only
theorem execFdbFlush_keeps (t : Time) (_m : Master) (r : Fin 2) (s : State) :
    KeepsOutcome s (execFdbFlush t _m r s) := by
  unfold execFdbFlush
  with_reducible repeat' first
    | refine .next ?_ | assumption | exact .refl _ | refine (State.onPage_keeps _ _ _ ?_).via ?_
    | refine (State.tick_keeps _ _).via ?_ | refine (State.fdbFlush_keeps _ _).via ?_ | intro _ | dsimp only
theorem State.linkRise_keeps (s : State) (n : Nat) (slow : Bool) :
    Keeps s (State.linkRise s n slow) := by
  unfold State.linkRise
  with_reducible repeat' first
    | simp only [Keeps.upd_iff] | assumption | exact .refl _ | refine .ite ?_ ?_
    | refine (State.putBit_keeps _ _ _ _).via ?_ | refine (State.irq_keeps _ _ _).via ?_
    | refine (State.setRed_keeps _ _).via ?_ | refine (State.badNow_keeps _ _).via ?_
    | refine (State.ethPost_keeps _ _ _ _).via ?_ | intro _ | split | dsimp only
theorem execLinkUp_keeps (t : Time) (n : Fin 4) (slow : Bool) (s : State) :
    KeepsOutcome s (execLinkUp t n slow s) := by
  unfold execLinkUp
  with_reducible repeat' first
    | refine .next ?_ | exact .refl _ | refine (State.linkRise_keeps _ _ _).via ?_
    | refine (State.tick_keeps _ _).via ?_
theorem State.linkFall_keeps (s : State) (n : Nat) :
    Keeps s (State.linkFall s n) := by
  unfold State.linkFall
  with_reducible repeat' first
    | exact .refl _ | refine .ite ?_ ?_ | refine (State.putBit_keeps _ _ _ _).via ?_
    | refine (State.irq_keeps _ _ _).via ?_ | refine (State.ethPost_keeps _ _ _ _).via ?_ | split | dsimp only
theorem execLinkDown_keeps (t : Time) (n : Fin 4) (s : State) :
    KeepsOutcome s (execLinkDown t n s) := by
  unfold execLinkDown
  with_reducible repeat' first
    | refine .next ?_ | exact .refl _ | refine (State.linkFall_keeps _ _).via ?_
    | refine (State.tick_keeps _ _).via ?_
theorem State.abfReceive_keeps (s : State) (b : List Byte) :
    Keeps s (State.abfReceive s b) := by
  unfold State.abfReceive
  with_reducible repeat' first
    | simp only [Keeps.upd_iff] | assumption | exact .refl _ | refine .ite ?_ ?_ | refine .ite2 ?_ ?_
    | refine .ite1 ?_ ?_ | refine (State.count_keeps _ _ _ _ _).via ?_ | refine (State.setRed_keeps _ _).via ?_
    | refine (State.remoteSample_keeps _ _ _ _).via ?_ | refine .fold (fun _ _ => ?_) ?_
    | refine .fold1 (fun _ _ => ?_) ?_ | refine .fold2 (fun _ _ => ?_) ?_ | intro _ | split | dsimp only
theorem State.abfSource_keeps (s : State) (a : Nat) (fb : Bool) :
    Keeps s (State.abfSource s a fb).2 := by
  unfold State.abfSource
  with_reducible repeat' first
    | simp only [Keeps.upd_iff] | assumption | exact .refl _ | refine .ite ?_ ?_ | refine .ite2 ?_ ?_
    | refine .ite1 ?_ ?_ | refine (State.free_keeps _).via ?_ | intro _ | split | dsimp only
theorem State.abfSample_keeps (s : State) (a : Nat) :
    Keeps s (State.abfSample s a).2 := by
  have h : ∀ r, r = State.abfSample s a → Keeps s r.2 := by
    rintro ⟨r1, r2⟩ h
    rw [State.abfSample] at h
    show Keeps s r2
    rw [(Prod.mk.inj h).2]
    exact State.abfSource_keeps _ _ _
  exact h _ rfl
theorem State.abfFrame_keeps (s : State) (as_ : List Nat) :
    Keeps s (State.abfFrame s as_) := by
  have hp : ∀ y a, Keeps y.2 (State.abfPut y a).2 := by
    intro y a
    have h : ∀ r, r = State.abfPut y a → Keeps y.2 r.2 := by
      rintro ⟨r1, r2⟩ h
      rw [State.abfPut] at h
      show Keeps y.2 r2
      rw [(Prod.mk.inj h).2]
      exact State.abfSample_keeps _ _
    exact h _ rfl
  unfold State.abfFrame
  extract_lets c vid seq mac body tag b
  have hb : Keeps s body.2 := .fold2 hp (.pair (State.free_keeps _))
  clear_value body b
  exact (State.raceSendMask_keeps _ _ _).via ((State.putFld_keeps _ _ _ _ _).via hb)
theorem State.abfTransmit_keeps (s : State) :
    Keeps s (State.abfTransmit s) := by
  unfold State.abfTransmit
  with_reducible repeat' first
    | assumption | exact .refl _ | refine .ite ?_ ?_ | refine (State.abfFrame_keeps _ _).via ?_ | intro _ | split
    | dsimp only
theorem State.writeAbf_keeps (s : State) (m : Master) (v : Nat) :
    Keeps s (State.writeAbf s m v) := by
  unfold State.writeAbf
  with_reducible repeat' first
    | exact .refl _ | refine .ite ?_ ?_ | refine (State.cfgRefused_keeps _ _).via ?_
    | refine (State.writeReg_keeps _ _ _ _ _).via ?_ | split
theorem State.raceSwitch_keeps (s : State) (new : Nat) (revert drill : Bool) :
    Keeps s (State.raceSwitch s new revert drill) := by
  unfold State.raceSwitch
  with_reducible repeat' first
    | simp only [Keeps.upd_iff] | assumption | exact .refl _ | refine (State.setRed_keeps _ _).via ?_
    | refine (State.putBit_keeps _ _ _ _).via ?_ | refine (State.putFld_keeps _ _ _ _ _).via ?_
    | refine (State.irq_keeps _ _ _).via ?_ | refine (State.postNow_keeps _ _ _ _).via ?_ | intro _ | dsimp only
theorem State.drillDone_keeps (s : State) (result : Nat) :
    Keeps s (State.drillDone s result) := by
  unfold State.drillDone
  with_reducible repeat' first
    | simp only [Keeps.upd_iff] | assumption | exact .refl _ | refine .ite ?_ ?_
    | refine (State.setRed_keeps _ _).via ?_ | refine (State.putFld_keeps _ _ _ _ _).via ?_
    | refine (State.putBit_keeps _ _ _ _).via ?_ | refine (State.irq_keeps _ _ _).via ?_
    | refine (State.postNow_keeps _ _ _ _).via ?_ | refine (State.diagEval_keeps _).via ?_
    | refine (State.setBw_keeps _ _).via ?_ | intro _ | split | dsimp only
theorem State.endCycle_keeps (s : State) :
    Keeps s (State.endCycle s) := by
  unfold State.endCycle
  with_reducible repeat' first
    | simp only [Keeps.upd_iff] | assumption | exact .refl _ | refine .ite ?_ ?_
    | refine (State.setRed_keeps _ _).via ?_ | refine (State.redFinal_keeps _).via ?_
    | refine (State.putBit_keeps _ _ _ _).via ?_ | intro _ | split | dsimp only
theorem State.redWatch_keeps (s : State) :
    Keeps s (State.redWatch s) := by
  unfold State.redWatch
  with_reducible repeat' first
    | simp only [Keeps.upd_iff] | assumption | exact .refl _ | refine .ite ?_ ?_
    | refine (State.setRed_keeps _ _).via ?_ | refine (State.badNow_keeps _ _).via ?_
    | refine (State.raceFail_keeps _ _ _).via ?_ | refine .fold (fun _ _ => ?_) ?_ | intro _ | split | dsimp only
theorem State.drillWatch_keeps (s : State) :
    Keeps s (State.drillWatch s) := by
  unfold State.drillWatch
  with_reducible repeat' first
    | simp only [Keeps.upd_iff] | assumption | exact .refl _ | refine .ite ?_ ?_
    | refine (State.setRed_keeps _ _).via ?_ | intro _ | split | dsimp only
theorem State.drillStep_keeps (s : State) :
    Keeps s (State.drillStep s) := by
  unfold State.drillStep
  with_reducible repeat' first
    | simp only [Keeps.upd_iff] | assumption | exact .refl _ | refine .ite ?_ ?_
    | refine (State.setRed_keeps _ _).via ?_ | refine (State.raceFail_keeps _ _ _).via ?_
    | refine (State.raceSwitch_keeps _ _ _ _).via ?_ | refine (State.drillDone_keeps _ _).via ?_ | intro _ | split
    | dsimp only
theorem State.drillBegin_keeps (s : State) :
    Keeps s (State.drillBegin s) := by
  unfold State.drillBegin
  with_reducible repeat' first
    | simp only [Keeps.upd_iff] | assumption | exact .refl _ | refine .ite ?_ ?_
    | refine (State.putBit_keeps _ _ _ _).via ?_ | refine (State.setRed_keeps _ _).via ?_
    | refine (State.raceSwitch_keeps _ _ _ _).via ?_ | refine (State.drillDone_keeps _ _).via ?_ | intro _ | split
    | dsimp only
theorem State.redSwitches_keeps (s : State) :
    Keeps s (State.redSwitches s) := by
  unfold State.redSwitches
  with_reducible repeat' first
    | exact .refl _ | refine .ite ?_ ?_ | refine (State.drillStep_keeps _).via ?_
    | refine (State.raceSwitch_keeps _ _ _ _).via ?_ | refine (State.drillBegin_keeps _).via ?_ | split | dsimp only
theorem State.redCycle_keeps (s : State) :
    Keeps s (State.redCycle s) := by
  unfold State.redCycle
  with_reducible repeat' first
    | simp only [Keeps.upd_iff] | assumption | exact .refl _ | refine .ite ?_ ?_
    | refine (State.abfTransmit_keeps _).via ?_ | refine (State.redSwitches_keeps _).via ?_
    | refine (State.redWatch_keeps _).via ?_ | refine (State.endCycle_keeps _).via ?_
    | refine (State.setRed_keeps _ _).via ?_ | intro _ | split | dsimp only
theorem execRedCycleInstant_keeps (t : Time) (s : State) :
    KeepsOutcome s (execRedCycleInstant t s) := by
  unfold execRedCycleInstant
  with_reducible repeat' first
    | refine .next ?_ | exact .refl _ | refine (State.redCycle_keeps _).via ?_ | refine (State.tick_keeps _ _).via ?_
theorem State.redStep_keeps (s : State) :
    Keeps s (State.redStep s) := by
  unfold State.redStep
  with_reducible repeat' first
    | simp only [Keeps.upd_iff] | assumption | exact .refl _ | refine (State.setRed_keeps _ _).via ?_
    | refine (State.endCycle_keeps _).via ?_ | intro _ | dsimp only
theorem State.writeMt_keeps (s : State) (m : Master) (v : Nat) :
    Keeps s (State.writeMt s m v) := by
  unfold State.writeMt
  with_reducible repeat' first
    | exact .refl _ | refine .ite ?_ ?_ | refine (State.writeMtCtrl_keeps _ _ _).via ?_
    | refine (State.redStep_keeps _).via ?_ | split | dsimp only
theorem execReseed_keeps (t : Time) (m : Master) (s : State) :
    KeepsOutcome s (execReseed t m s) := by
  unfold execReseed
  with_reducible repeat' first
    | refine .next ?_ | assumption | exact .refl _ | refine (State.onPage_keeps _ _ _ ?_).via ?_
    | refine (State.tick_keeps _ _).via ?_ | refine (State.writeMt_keeps _ _ _).via ?_ | intro _ | dsimp only
theorem State.writeRed_keeps (s : State) (m : Master) (v : Nat) :
    Keeps s (State.writeRed s m v) := by
  unfold State.writeRed
  with_reducible repeat' first
    | simp only [Keeps.upd_iff] | assumption | exact .refl _ | refine .ite ?_ ?_
    | refine (State.cfgRefused_keeps _ _).via ?_ | refine (State.drillDone_keeps _ _).via ?_
    | refine (State.setRed_keeps _ _).via ?_ | refine (State.writeReg_keeps _ _ _ _ _).via ?_
    | refine (State.putBit_keeps _ _ _ _).via ?_ | intro _ | split | dsimp only
theorem execRedCtrlWrite_keeps (t : Time) (m : Master) (v : Word) (s : State) :
    KeepsOutcome s (execRedCtrlWrite t m v s) := by
  unfold execRedCtrlWrite
  with_reducible repeat' first
    | refine .next ?_ | assumption | exact .refl _ | refine (State.onPage_keeps _ _ _ ?_).via ?_
    | refine (State.tick_keeps _ _).via ?_ | refine (State.writeRed_keeps _ _ _).via ?_ | intro _ | dsimp only
theorem State.drill_keeps (s : State) :
    Keeps s (State.drill s) := by
  unfold State.drill
  with_reducible repeat' first
    | simp only [Keeps.upd_iff] | assumption | exact .refl _ | refine .ite ?_ ?_
    | refine (State.cmdRefused_keeps _ _).via ?_ | refine (State.setRed_keeps _ _).via ?_ | refine .getD ?_ ?_
    | intro _ | split | dsimp only
theorem execDrill_keeps (t : Time) (_m : Master) (s : State) :
    KeepsOutcome s (execDrill t _m s) := by
  unfold execDrill
  with_reducible repeat' first
    | refine .next ?_ | assumption | exact .refl _ | refine (State.onPage_keeps _ _ _ ?_).via ?_
    | refine (State.tick_keeps _ _).via ?_ | refine (State.drill_keeps _).via ?_ | intro _ | dsimp only
theorem State.ethDeliver_keeps (s : State) (n : Nat) (b : List Byte) (stamp : Time) (buf : DWord) :
    Keeps s (State.ethDeliver s n b stamp buf) := by
  unfold State.ethDeliver
  with_reducible repeat' first
    | assumption | exact .refl _ | refine .ite ?_ ?_ | refine .ite2 ?_ ?_ | refine .ite1 ?_ ?_
    | refine (State.syncAccept_keeps _ _ _ _).via ?_ | refine (State.redCompare_keeps _ _ _).via ?_
    | refine (State.abfReceive_keeps _ _).via ?_ | refine (State.drillWatch_keeps _).via ?_
    | refine (State.mirReceive_keeps _ _ _ _).via ?_ | refine (State.ptpFrame_keeps _ _ _ _ _).via ?_
    | refine (State.egress_keeps _ _ _ _ _).via ?_ | refine (State.frDeliver_keeps _ _ _ _ _ _).via ?_ | split
    | dsimp only
theorem State.ethReceive_keeps (s : State) (n : Nat) (b : List Byte) (ok : Bool) (stamp : Time) (buf : DWord) :
    Keeps s (State.ethReceive s n b ok stamp buf) := by
  unfold State.ethReceive
  with_reducible repeat' first
    | exact .refl _ | refine .ite ?_ ?_ | refine .ite2 ?_ ?_ | refine .ite1 ?_ ?_
    | refine (State.bridgeRx_keeps _ _ _ _).via ?_ | refine (State.ethDeliver_keeps _ _ _ _ _).via ?_ | split
    | dsimp only
theorem execEthFrameReceive_keeps (t : Time) (n : Fin 4) (bytes : List Byte) (ok : Bool) (stamp : Time) (buf : DWord) (s : State) :
    KeepsOutcome s (execEthFrameReceive t n bytes ok stamp buf s) := by
  unfold execEthFrameReceive
  with_reducible repeat' first
    | refine .next ?_ | exact .refl _ | refine (State.ethReceive_keeps _ _ _ _ _ _).via ?_
    | refine (State.tick_keeps _ _).via ?_
theorem execSyncReceived_keeps (t : Time) (n : Fin 4) (bytes : List Byte) (stamp : Time) (buf : DWord) (s : State) :
    KeepsOutcome s (execSyncReceived t n bytes stamp buf s) := by
  unfold execSyncReceived
  with_reducible repeat' first
    | refine .next ?_ | exact .refl _ | refine .ite ?_ ?_ | refine (State.tick_keeps _ _).via ?_
    | refine (State.ethReceive_keeps _ _ _ _ _ _).via ?_ | split | dsimp only
theorem State.ftHook_keeps (s : State) (m : Master) (r off v : Nat) :
    KeepsOpt s (State.ftHook s m r off v) := by
  unfold State.ftHook
  with_reducible repeat' first
    | exact .none _ | refine .some ?_ | exact .refl _ | refine .ite ?_ ?_ | refine (State.ftSelect_keeps _ _).via ?_
    | refine (State.fdbFlush_keeps _ _).via ?_ | refine (State.writeRed_keeps _ _ _).via ?_
    | refine (State.setRg_keeps _ _ _).via ?_ | refine (State.drill_keeps _).via ?_
    | refine (State.writeAbf_keeps _ _ _).via ?_ | split

end Sys2Proof.Machine
end

