-- ==== Sys2Proof/Laws/KeepsRestore.lean ====
section
/-! SUPPORT. The operations of Machine/Restore.lean keep the queue and the canonical form (`Keeps`). -/

set_option linter.unusedTactic false
set_option linter.unreachableTactic false
set_option linter.unusedSimpArgs false

namespace Sys2Proof.Machine

theorem State.enChange_keeps (s : State) (pg : Nat) (on : Bool) :
    Keeps s (State.enChange s pg on) := by
  unfold State.enChange
  with_reducible repeat' first
    | simp only [Keeps.upd_iff] | assumption | exact .refl _ | refine .ite ?_ ?_ | refine .ite2 ?_ ?_
    | refine .ite1 ?_ ?_ | refine (State.bistDisable_keeps _ _).via ?_ | refine (State.canEnable_keeps _ _).via ?_
    | refine (State.canDisable_keeps _ _).via ?_ | refine (State.putBit_keeps _ _ _ _).via ?_
    | refine (State.migWatch_keeps _).via ?_ | refine (State.coreDisable_keeps _ _).via ?_
    | refine (State.fbEnable_keeps _ _).via ?_ | refine (State.fbDisable_keeps _ _).via ?_
    | refine (State.fieldEnable_keeps _).via ?_ | refine (State.hopEnable_keeps _).via ?_
    | refine (State.pspEnable_keeps _ _).via ?_ | refine (State.slotEnable_keeps _ _).via ?_
    | refine (State.sdmEnable_keeps _ _).via ?_ | refine (State.slotEval_keeps _ _).via ?_
    | refine (State.slotOff_keeps _ _).via ?_ | intro _ | split | dsimp only
theorem State.restoreWord_keeps (s : State) (x : Nat × Word) :
    Keeps s (State.restoreWord s x) := by
  unfold State.restoreWord
  with_reducible repeat' first
    | simp only [Keeps.upd_iff] | assumption | exact .refl _ | refine .ite ?_ ?_ | refine .ite2 ?_ ?_
    | refine .ite1 ?_ ?_ | refine (State.setRg_keeps _ _ _).via ?_ | intro _ | split | dsimp only
theorem State.restoreHidden_keeps (s : State) (a : Nat) :
    Keeps s (State.restoreHidden s a) := by
  unfold State.restoreHidden
  with_reducible repeat' first
    | simp only [Keeps.upd_iff] | assumption | exact .refl _ | refine .ite ?_ ?_
    | refine (State.setCr_keeps _ _ _).via ?_ | refine (State.sgEval_keeps _).via ?_
    | refine (State.setTx_keeps _ _ _).via ?_ | refine (State.setSm_keeps _ _ _).via ?_
    | refine (State.cmpMuteSync_keeps _ _).via ?_ | refine (State.chopInactive_keeps _ _).via ?_
    | refine (State.setSd_keeps _ _ _).via ?_ | refine (State.pickMask_keeps _ _ _).via ?_
    | refine (State.ascSync_keeps _ _).via ?_ | refine (State.slotEval_keeps _ _).via ?_
    | refine (State.setPtp_keeps _ _ _).via ?_ | refine (State.setVm_keeps _ _ _).via ?_ | intro _ | split
    | dsimp only
theorem State.restoreStart_keeps (s : State) (x : Nat × Word) :
    Keeps s (State.restoreStart s x) := by
  unfold State.restoreStart
  with_reducible repeat' first
    | simp only [Keeps.upd_iff] | assumption | exact .refl _ | refine (State.writeIgrpCtrl_keeps _ _ _).via ?_
    | refine (State.writeAxRun_keeps _ _ _).via ?_ | refine (State.writeEthCtrl_keeps _ _ _).via ?_
    | refine (State.writeAxCtrl_keeps _ _ _).via ?_ | intro _ | split | dsimp only
theorem State.restore_keeps (s : State) (ws : List (Nat × Word)) :
    Keeps s (State.restore s ws) := by
  unfold State.restore
  with_reducible repeat' first
    | assumption | exact .refl _ | refine .ite ?_ ?_ | refine .ite2 ?_ ?_ | refine .ite1 ?_ ?_
    | refine (State.enChange_keeps _ _ _).via ?_ | refine (State.restoreWord_keeps _ _).via ?_
    | refine (State.restoreHidden_keeps _ _).via ?_ | refine (State.restoreStart_keeps _ _).via ?_
    | refine .fold (fun _ _ => ?_) ?_ | refine .fold1 (fun _ _ => ?_) ?_ | refine .fold2 (fun _ _ => ?_) ?_ | intro _
    | split | dsimp only

end Sys2Proof.Machine
end

