-- ==== Sys2Proof/Laws/KeepsPower.lean ====
section
/-! SUPPORT. The operations of Machine/Power.lean keep the queue and the canonical form (`Keeps`). -/

set_option linter.unusedTactic false
set_option linter.unreachableTactic false
set_option linter.unusedSimpArgs false

namespace Sys2Proof.Machine

theorem State.setPwr_keeps (s : State) (f : PwrSt → PwrSt) :
    Keeps s (State.setPwr s f) := by
  unfold State.setPwr
  with_reducible repeat' first
    | simp only [Keeps.upd_iff] | exact .refl _
theorem State.pwrPost_keeps (s : State) (code payload : Nat) :
    Keeps s (State.pwrPost s code payload) := by
  unfold State.pwrPost
  with_reducible repeat' first
    | exact .refl _ | refine (State.postNow_keeps _ _ _ _).via ?_
theorem State.writeRtc_keeps (s : State) (m : Master) (v : Nat) :
    Keeps s (State.writeRtc s m v) := by
  unfold State.writeRtc
  with_reducible repeat' first
    | simp only [Keeps.upd_iff] | assumption | exact .refl _ | refine .ite ?_ ?_
    | refine (State.writeReg_keeps _ _ _ _ _).via ?_ | refine (State.setPwr_keeps _ _).via ?_ | intro _ | split
    | dsimp only
theorem execRtcSet_keeps (t : Time) (m : Master) (v : DWord) (s : State) :
    KeepsOutcome s (execRtcSet t m v s) := by
  unfold execRtcSet
  with_reducible repeat' first
    | refine .next ?_ | assumption | exact .refl _ | refine (State.onPage_keeps _ _ _ ?_).via ?_
    | refine (State.tick_keeps _ _).via ?_ | refine (State.writeRtc_keeps _ _ _).via ?_ | intro _ | dsimp only
theorem execXtalFail_keeps (t : Time) (s : State) :
    KeepsOutcome s (execXtalFail t s) := by
  unfold execXtalFail
  with_reducible repeat' first
    | refine .next ?_ | simp only [Keeps.upd_iff] | assumption | exact .refl _ | refine .ite ?_ ?_
    | refine (State.tick_keeps _ _).via ?_ | refine (State.setPwr_keeps _ _).via ?_
    | refine (State.putBit_keeps _ _ _ _).via ?_ | intro _ | split | dsimp only
theorem State.cfsApply_keeps (s : State) (x : CfsTxn) :
    Keeps s (State.cfsApply s x) := by
  unfold State.cfsApply
  with_reducible repeat' first
    | simp only [Keeps.upd_iff] | assumption | exact .refl _ | refine .ite ?_ ?_ | refine .ite2 ?_ ?_
    | refine .ite1 ?_ ?_ | refine (State.setBist_keeps _ _).via ?_ | refine (State.stw_keeps _ _ _).via ?_
    | refine .fold (fun _ _ => ?_) ?_ | refine .fold1 (fun _ _ => ?_) ?_ | refine .fold2 (fun _ _ => ?_) ?_ | intro _
    | split | dsimp only
theorem State.cfsWord_keeps (s : State) (a : Nat) :
    Keeps s (State.cfsWord s a).2 := by
  unfold State.cfsWord
  with_reducible repeat' first
    | simp only [Keeps.upd_iff] | assumption | exact .refl _ | refine .ite ?_ ?_ | refine .ite2 ?_ ?_
    | refine .ite1 ?_ ?_ | refine (State.free_keeps _).via ?_ | refine .getD ?_ ?_ | intro _ | split | dsimp only
theorem State.cfsRefuse_keeps (s : State) :
    Keeps s (State.cfsRefuse s) := by
  unfold State.cfsRefuse
  with_reducible repeat' first
    | exact .refl _ | refine (State.irq_keeps _ _ _).via ?_ | refine (State.putBit_keeps _ _ _ _).via ?_
theorem State.cfsWrite_keeps (s : State) :
    Keeps s (State.cfsWrite s) := by
  unfold State.cfsWrite
  with_reducible repeat' first
    | simp only [Keeps.upd_iff] | assumption | exact .refl _ | refine .ite ?_ ?_
    | refine (State.cfsRefuse_keeps _).via ?_ | refine (State.putBit_keeps _ _ _ _).via ?_
    | refine (State.putFld_keeps _ _ _ _ _).via ?_ | refine (State.setPwr_keeps _ _).via ?_ | intro _ | split
    | dsimp only
theorem State.cfsRead_keeps (s : State) :
    Keeps s (State.cfsRead s) := by
  unfold State.cfsRead
  with_reducible repeat' first
    | assumption | exact .refl _ | refine .ite ?_ ?_ | refine .ite2 ?_ ?_ | refine .ite1 ?_ ?_
    | refine (State.cfsRefuse_keeps _).via ?_ | refine (State.irq_keeps _ _ _).via ?_
    | refine (State.cfsWord_keeps _ _).via ?_ | refine (State.setRg_keeps _ _ _).via ?_
    | refine (State.putBit_keeps _ _ _ _).via ?_ | refine .fold (fun _ _ => ?_) ?_ | refine .fold1 (fun _ _ => ?_) ?_
    | refine .fold2 (fun _ _ => ?_) ?_ | intro _ | split | dsimp only
theorem State.writeCfsCmd_keeps (s : State) (v : Nat) :
    Keeps s (State.writeCfsCmd s v) := by
  unfold State.writeCfsCmd
  with_reducible repeat' first
    | simp only [Keeps.upd_iff] | assumption | exact .refl _ | refine (State.cfsWrite_keeps _).via ?_
    | refine (State.cfsRead_keeps _).via ?_ | refine (State.cfsRefuse_keeps _).via ?_ | intro _ | split
theorem State.cfsDone_keeps (s : State) :
    Keeps s (State.cfsDone s) := by
  unfold State.cfsDone
  with_reducible repeat' first
    | simp only [Keeps.upd_iff] | assumption | exact .refl _ | refine .ite ?_ ?_
    | refine (State.putBit_keeps _ _ _ _).via ?_ | refine (State.setPwr_keeps _ _).via ?_
    | refine (State.cfsApply_keeps _ _).via ?_ | refine (State.pwrPost_keeps _ _ _).via ?_
    | refine (State.irq_keeps _ _ _).via ?_ | intro _ | split | dsimp only
theorem execCfsWrite_keeps (t : Time) (_m : Master) (s : State) :
    KeepsOutcome s (execCfsWrite t _m s) := by
  unfold execCfsWrite
  with_reducible repeat' first
    | refine .next ?_ | assumption | exact .refl _ | refine (State.onPage_keeps _ _ _ ?_).via ?_
    | refine (State.tick_keeps _ _).via ?_ | refine (State.writeCfsCmd_keeps _ _).via ?_ | intro _ | dsimp only
theorem execCfsRead_keeps (t : Time) (_m : Master) (s : State) :
    KeepsOutcome s (execCfsRead t _m s) := by
  unfold execCfsRead
  with_reducible repeat' first
    | refine .next ?_ | assumption | exact .refl _ | refine (State.onPage_keeps _ _ _ ?_).via ?_
    | refine (State.tick_keeps _ _).via ?_ | refine (State.writeCfsCmd_keeps _ _).via ?_ | intro _ | dsimp only
theorem execCfsDone_keeps (t : Time) (s : State) :
    KeepsOutcome s (execCfsDone t s) := by
  unfold execCfsDone
  with_reducible repeat' first
    | refine .next ?_ | exact .refl _ | refine (State.cfsDone_keeps _).via ?_ | refine (State.tick_keeps _ _).via ?_
theorem State.cfsHook_keeps (s : State) (off v : Nat) :
    KeepsOpt s (State.cfsHook s off v) := by
  unfold State.cfsHook
  with_reducible repeat' first
    | exact .none _ | refine .some ?_ | exact .refl _ | refine .ite ?_ ?_
    | refine (State.writeCfsCmd_keeps _ _).via ?_ | refine (State.cfgRefused_keeps _ _).via ?_ | split
theorem State.supply_keeps (s : State) (bits : Nat) (good : Bool) :
    Keeps s (State.supply s bits good) := by
  unfold State.supply
  with_reducible repeat' first
    | exact .refl _ | refine .ite ?_ ?_ | refine (State.setRg_keeps _ _ _).via ?_ | split | dsimp only
theorem State.powerD1_keeps (s : State) :
    Keeps s (State.powerD1 s) := by
  unfold State.powerD1
  with_reducible repeat' first
    | simp only [Keeps.upd_iff] | exact .refl _ | refine (State.runSync_keeps _).via ?_
    | refine (State.bistDrop_keeps _).via ?_
theorem State.cfsSettle_keeps (s : State) :
    Keeps s (State.cfsSettle s) := by
  unfold State.cfsSettle
  with_reducible repeat' first
    | simp only [Keeps.upd_iff] | assumption | exact .refl _ | refine .ite ?_ ?_
    | refine (State.setPwr_keeps _ _).via ?_ | refine (State.cfsApply_keeps _ _).via ?_ | intro _ | split | dsimp only
theorem State.powerD2_keeps (s : State) (kind : Nat) :
    Keeps s (State.powerD2 s kind) := by
  unfold State.powerD2
  with_reducible repeat' first
    | simp only [Keeps.upd_iff] | assumption | exact .refl _ | refine (State.faultRecord_keeps _ _ _ _).via ?_
    | refine (State.cfsSettle_keeps _).via ?_ | refine (State.pcieReset_keeps _ _).via ?_
    | refine (State.setPwr_keeps _ _).via ?_ | intro _ | dsimp only
theorem State.toState_keeps (s : State) (d : DevState) :
    Keeps s (State.toState s d) := by
  unfold State.toState
  with_reducible repeat' first
    | simp only [Keeps.upd_iff] | exact .refl _
theorem State.powerUp_keeps (s : State) :
    Keeps s (State.powerUp s) := by
  unfold State.powerUp
  with_reducible repeat' first
    | simp only [Keeps.upd_iff] | assumption | exact .refl _ | refine (State.setPwr_keeps _ _).via ?_
    | refine (State.toState_keeps _ _).via ?_ | intro _ | dsimp only
theorem State.toOff_keeps (s : State) :
    Keeps s (State.toOff s) := by
  have h : ∀ x y : State, Keeps s x → ∀ p q, Keeps s { x with mem := Memory.clear x.mem bsramBase hostBase, pwr := p, sess := q } :=
    fun x _ h p q => ⟨h.queue, fun c => have k := h.canon c; ⟨Memory.wf_clear _ _ _ k.mem, k.regs, k.pages, k.sels⟩⟩
  exact h _ s (.fold (fun _ _ => State.setRg_keeps _ _ _) (State.toState_keeps _ _)) _ _
theorem State.powerD4_keeps (s : State) :
    Keeps s (State.powerD4 s) := by
  unfold State.powerD4
  with_reducible repeat' first
    | simp only [Keeps.upd_iff] | assumption | exact .refl _ | refine .ite ?_ ?_
    | refine (State.setPwr_keeps _ _).via ?_ | refine (State.toOff_keeps _).via ?_
    | refine (State.powerUp_keeps _).via ?_ | refine (State.toState_keeps _ _).via ?_ | intro _ | split | dsimp only
theorem State.powerDown_keeps (s : State) :
    Keeps s (State.powerDown s) := by
  unfold State.powerDown
  with_reducible repeat' first
    | simp only [Keeps.upd_iff] | assumption | exact .refl _ | refine (State.setPwr_keeps _ _).via ?_
    | refine (State.powerD1_keeps _).via ?_ | refine (State.powerD2_keeps _ _).via ?_
    | refine (State.supply_keeps _ _ _).via ?_ | refine (State.powerD4_keeps _).via ?_ | intro _ | split | dsimp only
theorem execPowerDownStep_keeps (t : Time) (s : State) :
    KeepsOutcome s (execPowerDownStep t s) := by
  unfold execPowerDownStep
  with_reducible repeat' first
    | refine .next ?_ | exact .refl _ | refine (State.powerDown_keeps _).via ?_ | refine (State.tick_keeps _ _).via ?_
theorem State.cfsReplay_keeps (s : State) :
    Keeps s (State.cfsReplay s) := by
  unfold State.cfsReplay
  with_reducible repeat' first
    | simp only [Keeps.upd_iff] | assumption | exact .refl _ | refine (State.setPwr_keeps _ _).via ?_
    | refine (State.cfsApply_keeps _ _).via ?_ | intro _ | split | dsimp only
theorem State.stepStop_keeps (s : State) :
    Keeps s (State.stepStop s) := by
  unfold State.stepStop
  with_reducible repeat' first
    | exact .refl _ | refine .ite ?_ ?_ | refine (State.cfsReplay_keeps _).via ?_ | split
theorem State.enFall_keeps (s : State) :
    Keeps s (State.enFall s) := by
  unfold State.enFall
  with_reducible repeat' first
    | simp only [Keeps.upd_iff] | assumption | exact .refl _ | refine .ite ?_ ?_
    | refine (State.setPwr_keeps _ _).via ?_ | refine (State.stepStop_keeps _).via ?_ | intro _ | split | dsimp only
theorem execPwrEnFall_keeps (t : Time) (s : State) :
    KeepsOutcome s (execPwrEnFall t s) := by
  unfold execPwrEnFall
  with_reducible repeat' first
    | refine .next ?_ | exact .refl _ | refine (State.enFall_keeps _).via ?_ | refine (State.tick_keeps _ _).via ?_
theorem State.enRise_keeps (s : State) :
    Keeps s (State.enRise s) := by
  unfold State.enRise
  with_reducible repeat' first
    | simp only [Keeps.upd_iff] | assumption | exact .refl _ | refine .ite ?_ ?_
    | refine (State.setPwr_keeps _ _).via ?_ | refine (State.powerUp_keeps _).via ?_ | intro _ | split | dsimp only
theorem execPwrEnRise_keeps (t : Time) (s : State) :
    KeepsOutcome s (execPwrEnRise t s) := by
  unfold execPwrEnRise
  with_reducible repeat' first
    | refine .next ?_ | exact .refl _ | refine (State.enRise_keeps _).via ?_ | refine (State.tick_keeps _ _).via ?_
theorem State.brownOut_keeps (s : State) (i : Nat) (collapse : Bool) :
    Keeps s (State.brownOut s i collapse) := by
  unfold State.brownOut
  with_reducible repeat' first
    | simp only [Keeps.upd_iff] | assumption | exact .refl _ | refine .ite ?_ ?_
    | refine (State.supply_keeps _ _ _).via ?_ | refine (State.putBit_keeps _ _ _ _).via ?_
    | refine (State.setPwr_keeps _ _).via ?_ | refine (State.powerD1_keeps _).via ?_
    | refine (State.pcieReset_keeps _ _).via ?_ | refine (State.powerD2_keeps _ _).via ?_ | intro _ | split
    | dsimp only
theorem execBrownOut_keeps (t : Time) (supply : Fin 6) (collapse : Bool) (s : State) :
    KeepsOutcome s (execBrownOut t supply collapse s) := by
  unfold execBrownOut
  with_reducible repeat' first
    | refine .next ?_ | exact .refl _ | refine (State.brownOut_keeps _ _ _).via ?_
    | refine (State.tick_keeps _ _).via ?_
theorem State.resetLow_keeps (s : State) :
    Keeps s (State.resetLow s) := by
  unfold State.resetLow
  with_reducible repeat' first
    | simp only [Keeps.upd_iff] | assumption | exact .refl _ | refine .ite ?_ ?_
    | refine (State.setPwr_keeps _ _).via ?_ | refine (State.toState_keeps _ _).via ?_
    | refine (State.powerD2_keeps _ _).via ?_ | refine (State.powerD1_keeps _).via ?_
    | refine (State.stepStop_keeps _).via ?_ | intro _ | split | dsimp only
theorem execResetAssert_keeps (t : Time) (s : State) :
    KeepsOutcome s (execResetAssert t s) := by
  unfold execResetAssert
  with_reducible repeat' first
    | refine .next ?_ | exact .refl _ | refine (State.resetLow_keeps _).via ?_ | refine (State.tick_keeps _ _).via ?_
theorem State.resetHigh_keeps (s : State) :
    Keeps s (State.resetHigh s) := by
  unfold State.resetHigh
  with_reducible repeat' first
    | simp only [Keeps.upd_iff] | assumption | exact .refl _ | refine .ite ?_ ?_
    | refine (State.setPwr_keeps _ _).via ?_ | intro _ | split | dsimp only
theorem execResetRelease_keeps (t : Time) (s : State) :
    KeepsOutcome s (execResetRelease t s) := by
  unfold execResetRelease
  with_reducible repeat' first
    | refine .next ?_ | exact .refl _ | refine (State.resetHigh_keeps _).via ?_ | refine (State.tick_keeps _ _).via ?_
theorem execResetLong_keeps (t : Time) (s : State) :
    KeepsOutcome s (execResetLong t s) := by
  unfold execResetLong
  with_reducible repeat' first
    | refine .next ?_ | simp only [Keeps.upd_iff] | assumption | exact .refl _ | refine .ite ?_ ?_
    | refine (State.tick_keeps _ _).via ?_ | refine (State.setPwr_keeps _ _).via ?_
    | refine (State.count_keeps _ _ _ _ _).via ?_ | refine (State.putBit_keeps _ _ _ _).via ?_ | intro _ | split
    | dsimp only
theorem execVbakGood_keeps (t : Time) (s : State) :
    KeepsOutcome s (execVbakGood t s) := by
  unfold execVbakGood
  with_reducible repeat' first
    | refine .next ?_ | simp only [Keeps.upd_iff] | assumption | exact .refl _ | refine .ite ?_ ?_
    | refine (State.supply_keeps _ _ _).via ?_ | refine (State.tick_keeps _ _).via ?_
    | refine (State.setPwr_keeps _ _).via ?_ | refine (State.toState_keeps _ _).via ?_ | intro _ | split | dsimp only
theorem execVbakLost_keeps (t : Time) (s : State) :
    KeepsOutcome s (execVbakLost t s) := by
  unfold execVbakLost
  with_reducible repeat' first
    | refine .next ?_ | exact .refl _ | refine .ite ?_ ?_ | refine (State.supply_keeps _ _ _).via ?_
    | refine (State.tick_keeps _ _).via ?_ | refine (State.toOff_keeps _).via ?_ | split | dsimp only
theorem execPowerUpTimeout_keeps (t : Time) (item : Fin 7) (s : State) :
    KeepsOutcome s (execPowerUpTimeout t item s) := by
  unfold execPowerUpTimeout
  with_reducible repeat' first
    | refine .next ?_ | simp only [Keeps.upd_iff] | assumption | exact .refl _ | refine .ite ?_ ?_
    | refine (State.tick_keeps _ _).via ?_ | refine (State.setPwr_keeps _ _).via ?_
    | refine (State.putFld_keeps _ _ _ _ _).via ?_ | refine (State.putBit_keeps _ _ _ _).via ?_ | intro _ | split
    | dsimp only
theorem State.fresh_keeps (s : State) :
    Keeps s (State.fresh s) := by
  exact ⟨rfl, fun c => ⟨twf_filter _ _ _ c.mem, twf_filter _ _ _ c.regs, rfl, rfl⟩⟩
theorem State.loadWords_keeps (s : State) (base : Nat) (ws : List (Nat × Word)) :
    Keeps s (State.loadWords s base ws) := by
  unfold State.loadWords
  with_reducible repeat' first
    | assumption | exact .refl _ | refine (State.stw_keeps _ _ _).via ?_ | refine .fold (fun _ _ => ?_) ?_
    | refine .fold1 (fun _ _ => ?_) ?_ | refine .fold2 (fun _ _ => ?_) ?_ | intro _ | dsimp only
theorem State.bootPair_keeps (s : State) (b : Boot) (failed : Bool) :
    Keeps s (State.bootPair s b failed) := by
  unfold State.bootPair
  with_reducible repeat' first
    | simp only [Keeps.upd_iff] | assumption | exact .refl _ | refine .ite ?_ ?_
    | refine (State.startCore_keeps _ _ _).via ?_ | refine (State.setRg_keeps _ _ _).via ?_
    | refine (State.loadWords_keeps _ _ _).via ?_ | refine (State.islandFault_keeps _ _).via ?_ | intro _ | split
    | dsimp only
theorem State.bootMws_keeps (s : State) (b : Boot) :
    Keeps s (State.bootMws s b) := by
  unfold State.bootMws
  with_reducible repeat' first
    | assumption | exact .refl _ | refine .ite ?_ ?_ | refine .ite2 ?_ ?_ | refine .ite1 ?_ ?_
    | refine (State.irq_keeps _ _ _).via ?_ | refine (State.putBit_keeps _ _ _ _).via ?_
    | refine (State.setRg_keeps _ _ _).via ?_ | refine (State.loadWords_keeps _ _ _).via ?_
    | refine (State.coreGo_keeps _ _).via ?_ | refine .fold (fun _ _ => ?_) ?_ | refine .fold1 (fun _ _ => ?_) ?_
    | refine .fold2 (fun _ _ => ?_) ?_ | intro _ | split | dsimp only
theorem State.startFail_keeps (s : State) (f : Nat × Nat) :
    Keeps s (State.startFail s f) := by
  unfold State.startFail
  with_reducible repeat' first
    | simp only [Keeps.upd_iff] | assumption | exact .refl _ | refine (State.putBit_keeps _ _ _ _).via ?_
    | refine (State.setBist_keeps _ _).via ?_ | refine (State.setHop_keeps _ _).via ?_ | intro _ | split | dsimp only
theorem State.startResult_keeps (s : State) (fails : List (Nat × Nat)) (bits : List (Nat × Nat × BistBit)) :
    Keeps s (State.startResult s fails bits) := by
  unfold State.startResult
  with_reducible repeat' first
    | simp only [Keeps.upd_iff] | assumption | exact .refl _ | refine .ite ?_ ?_
    | refine (State.setBist_keeps _ _).via ?_ | refine (State.showFails_keeps _ _).via ?_
    | refine (State.setRg_keeps _ _ _).via ?_ | refine (State.putFld_keeps _ _ _ _ _).via ?_
    | refine (State.putBit_keeps _ _ _ _).via ?_ | intro _ | split | dsimp only
theorem State.redRelease_keeps (s : State) :
    Keeps s (State.redRelease s) := by
  unfold State.redRelease
  with_reducible repeat' first
    | simp only [Keeps.upd_iff] | assumption | exact .refl _ | refine (State.putFld_keeps _ _ _ _ _).via ?_
    | refine (State.setRed_keeps _ _).via ?_ | intro _ | dsimp only
theorem State.release_keeps (s : State) :
    Keeps s (State.release s) := by
  unfold State.release
  with_reducible repeat' first
    | assumption | exact .refl _ | refine .ite ?_ ?_ | refine .ite1 ?_ ?_ | refine (State.setRg_keeps _ _ _).via ?_
    | refine (State.putFld_keeps _ _ _ _ _).via ?_ | refine (State.putBit_keeps _ _ _ _).via ?_
    | refine (State.irq_keeps _ _ _).via ?_ | refine (State.postNow_keeps _ _ _ _).via ?_
    | refine (State.pwrPost_keeps _ _ _).via ?_ | refine (State.fresh_keeps _).via ?_
    | refine (State.bootPair_keeps _ _ _).via ?_ | refine (State.bootMws_keeps _ _).via ?_
    | refine (State.startFail_keeps _ _).via ?_ | refine (State.startResult_keeps _ _ _).via ?_
    | refine (State.redRelease_keeps _).via ?_ | refine (State.restore_keeps _ _).via ?_
    | refine (State.putUnsure_keeps _ _).via ?_ | refine .getD ?_ ?_ | refine .fold (fun _ _ => ?_) ?_
    | refine .fold1 (fun _ _ => ?_) ?_ | intro _ | split | dsimp only
theorem State.upStep_keeps (s : State) (x : UpStep) :
    Keeps s (State.upStep s x) := by
  unfold State.upStep
  with_reducible repeat' first
    | simp only [Keeps.upd_iff] | assumption | exact .refl _ | refine .ite ?_ ?_
    | refine (State.setPwr_keeps _ _).via ?_ | refine (State.putFld_keeps _ _ _ _ _).via ?_
    | refine (State.supply_keeps _ _ _).via ?_ | refine (State.cfsReplay_keeps _).via ?_
    | refine (State.setBist_keeps _ _).via ?_ | refine (State.release_keeps _).via ?_ | intro _ | split | dsimp only
theorem execPowerUpStep_keeps (t : Time) (x : UpStep) (s : State) :
    KeepsOutcome s (execPowerUpStep t x s) := by
  unfold execPowerUpStep
  with_reducible repeat' first
    | refine .next ?_ | exact .refl _ | refine (State.upStep_keeps _ _).via ?_ | refine (State.tick_keeps _ _).via ?_
theorem State.relock_keeps (s : State) (p : Pll) :
    Keeps s (State.relock s p) := by
  unfold State.relock
  with_reducible repeat' first
    | simp only [Keeps.upd_iff] | assumption | exact .refl _ | refine .ite ?_ ?_
    | refine (State.canRestartAll_keeps _).via ?_ | refine (State.putBit_keeps _ _ _ _).via ?_
    | refine (State.setHost_keeps _ _).via ?_ | refine (State.msiSend_keeps _ _).via ?_
    | refine .fold (fun _ _ => ?_) ?_ | intro _ | split | dsimp only
theorem execPllRelock_keeps (t : Time) (p : Pll) (s : State) :
    KeepsOutcome s (execPllRelock t p s) := by
  unfold execPllRelock
  with_reducible repeat' first
    | refine .next ?_ | exact .refl _ | refine (State.relock_keeps _ _).via ?_ | refine (State.tick_keeps _ _).via ?_
theorem State.settleDrop_keeps (s : State) (k : Nat) :
    Keeps s (State.settleDrop s k) := by
  unfold State.settleDrop
  with_reducible repeat' first
    | simp only [Keeps.upd_iff] | assumption | exact .refl _ | refine .ite ?_ ?_
    | refine (State.setPort_keeps _ _ _).via ?_ | refine (State.irq_keeps _ _ _).via ?_
    | refine (State.pwrPost_keeps _ _ _).via ?_ | refine (State.count_keeps _ _ _ _ _).via ?_
    | refine (State.setHost_keeps _ _).via ?_ | refine .fold (fun _ _ => ?_) ?_ | intro _ | split | dsimp only
theorem execSettleDrop_keeps (t : Time) (k : Fin 5) (s : State) :
    KeepsOutcome s (execSettleDrop t k s) := by
  unfold execSettleDrop
  with_reducible repeat' first
    | refine .next ?_ | exact .refl _ | refine (State.settleDrop_keeps _ _).via ?_
    | refine (State.tick_keeps _ _).via ?_
theorem State.bsramNext_keeps (s : State) :
    Keeps s (State.bsramNext s) := by
  unfold State.bsramNext
  with_reducible repeat' first
    | exact .refl _ | refine (State.putFld_keeps _ _ _ _ _).via ?_
theorem State.bsramRead_keeps (s : State) :
    Keeps s (State.bsramRead s).2 := by
  unfold State.bsramRead
  with_reducible repeat' first
    | exact .refl _ | refine (State.bsramNext_keeps _).via ?_ | dsimp only
theorem State.bsramWrite_keeps (s : State) (v : Word) :
    Keeps s (State.bsramWrite s v) := by
  unfold State.bsramWrite
  with_reducible repeat' first
    | exact .refl _ | refine .ite ?_ ?_ | refine (State.bsramNext_keeps _).via ?_
    | refine (State.stw_keeps _ _ _).via ?_ | split
theorem execBsramDataRead_keeps (t : Time) (_m : Master) (s : State) :
    KeepsOutcome s (execBsramDataRead t _m s) := by
  unfold execBsramDataRead
  with_reducible repeat' first
    | refine .next ?_ | simp only [Keeps.upd_iff] | exact .refl _ | refine .ite ?_ ?_ | refine .ite2 ?_ ?_
    | refine .ite1 ?_ ?_ | refine (State.tick_keeps _ _).via ?_ | refine (State.bsramRead_keeps _).via ?_ | split
    | dsimp only
theorem execBsramDataWrite_keeps (t : Time) (_m : Master) (v : Word) (s : State) :
    KeepsOutcome s (execBsramDataWrite t _m v s) := by
  unfold execBsramDataWrite
  with_reducible repeat' first
    | refine .next ?_ | assumption | exact .refl _ | refine (State.onPage_keeps _ _ _ ?_).via ?_
    | refine (State.tick_keeps _ _).via ?_ | refine (State.bsramWrite_keeps _ _).via ?_ | intro _ | dsimp only
theorem State.frecAck_keeps (s : State) :
    Keeps s (State.frecAck s) := by
  unfold State.frecAck
  with_reducible repeat' first
    | simp only [Keeps.upd_iff] | assumption | exact .refl _ | refine (State.setPwr_keeps _ _).via ?_ | intro _
    | dsimp only
theorem execFrecAck_keeps (t : Time) (_m : Master) (s : State) :
    KeepsOutcome s (execFrecAck t _m s) := by
  unfold execFrecAck
  with_reducible repeat' first
    | refine .next ?_ | exact .refl _ | refine (State.onPage_keeps _ _ _ ?_).via ?_
    | refine (State.tick_keeps _ _).via ?_ | refine (State.frecAck_keeps _).via ?_ | intro _
theorem State.cellPost_keeps (s : State) (k : Nat) :
    Keeps s (State.cellPost s k) := by
  unfold State.cellPost
  with_reducible repeat' first
    | exact .refl _ | refine (State.irq_keeps _ _ _).via ?_ | refine (State.pwrPost_keeps _ _ _).via ?_
theorem execCellAbsent_keeps (t : Time) (s : State) :
    KeepsOutcome s (execCellAbsent t s) := by
  unfold execCellAbsent
  with_reducible repeat' first
    | refine .next ?_ | simp only [Keeps.upd_iff] | assumption | exact .refl _ | refine .ite ?_ ?_
    | refine (State.tick_keeps _ _).via ?_ | refine (State.cellPost_keeps _ _).via ?_
    | refine (State.setPwr_keeps _ _).via ?_ | refine (State.putBit_keeps _ _ _ _).via ?_
    | refine (State.putFld_keeps _ _ _ _ _).via ?_ | intro _ | split | dsimp only
theorem execChargerRetry_keeps (t : Time) (draws : Bool) (s : State) :
    KeepsOutcome s (execChargerRetry t draws s) := by
  unfold execChargerRetry
  with_reducible repeat' first
    | refine .next ?_ | simp only [Keeps.upd_iff] | assumption | exact .refl _ | refine .ite ?_ ?_
    | refine (State.tick_keeps _ _).via ?_ | refine (State.setPwr_keeps _ _).via ?_
    | refine (State.cellPost_keeps _ _).via ?_ | refine (State.putFld_keeps _ _ _ _ _).via ?_ | intro _ | split
    | dsimp only
theorem execChargerThreshold_keeps (t : Time) (k : Fin 3) (s : State) :
    KeepsOutcome s (execChargerThreshold t k s) := by
  unfold execChargerThreshold
  with_reducible repeat' first
    | refine .next ?_ | simp only [Keeps.upd_iff] | assumption | exact .refl _ | refine (State.tick_keeps _ _).via ?_
    | refine (State.putFld_keeps _ _ _ _ _).via ?_ | intro _ | split | dsimp only
theorem State.writeChg_keeps (s : State) (m : Master) (v : Nat) :
    Keeps s (State.writeChg s m v) := by
  unfold State.writeChg
  with_reducible repeat' first
    | exact .refl _ | refine .ite ?_ ?_ | refine (State.writeReg_keeps _ _ _ _ _).via ?_
    | refine (State.putFld_keeps _ _ _ _ _).via ?_ | split | dsimp only
theorem State.gaugeQ_keeps (s : State) (v : Nat) :
    Keeps s (State.gaugeQ s v).2 := by
  unfold State.gaugeQ
  with_reducible repeat' first
    | exact .refl _ | refine .ite ?_ ?_ | refine .ite2 ?_ ?_ | refine .ite1 ?_ ?_
    | refine (State.freeIn_keeps _ _ _).via ?_ | split | dsimp only
theorem State.gaugeTest_keeps (s : State) (v : Nat) (q : Int) :
    Keeps s (State.gaugeTest s v q) := by
  unfold State.gaugeTest
  with_reducible repeat' first
    | simp only [Keeps.upd_iff] | assumption | exact .refl _ | refine .ite ?_ ?_ | refine .ite2 ?_ ?_
    | refine .ite1 ?_ ?_ | refine (State.gaugeQ_keeps _ _).via ?_ | refine (State.setPwr_keeps _ _).via ?_
    | refine (State.setRg_keeps _ _ _).via ?_ | refine (State.cellPost_keeps _ _).via ?_
    | refine (State.putBit_keeps _ _ _ _).via ?_ | intro _ | split | dsimp only
theorem execGaugeTest_keeps (t : Time) (v : Fin 65536) (q : Int) (s : State) :
    KeepsOutcome s (execGaugeTest t v q s) := by
  unfold execGaugeTest
  with_reducible repeat' first
    | refine .next ?_ | exact .refl _ | refine (State.gaugeTest_keeps _ _ _).via ?_
    | refine (State.tick_keeps _ _).via ?_
theorem State.pwrHook_keeps (s : State) (m : Master) (off v : Nat) :
    KeepsOpt s (State.pwrHook s m off v) := by
  unfold State.pwrHook
  with_reducible repeat' first
    | exact .none _ | refine .some ?_ | exact .refl _ | refine .ite ?_ ?_ | refine (State.frecAck_keeps _).via ?_
    | refine (State.writeRtc_keeps _ _ _).via ?_ | refine (State.writeChg_keeps _ _ _).via ?_
    | refine (State.bsramWrite_keeps _ _).via ?_ | split

end Sys2Proof.Machine
end

