-- ==== Sys2Proof/Laws/KeepsSession.lean ====
section
/-! SUPPORT. The operations of Machine/Session.lean keep the queue and the canonical form (`Keeps`). -/

set_option linter.unusedTactic false
set_option linter.unreachableTactic false
set_option linter.unusedSimpArgs false

namespace Sys2Proof.Machine

theorem State.setSess_keeps (s : State) (f : SessSt → SessSt) :
    Keeps s (State.setSess s f) := by
  unfold State.setSess
  with_reducible repeat' first
    | simp only [Keeps.upd_iff] | exact .refl _
theorem State.sessOpen_keeps (s : State) (m : Master) (len : Nat) :
    Keeps s (State.sessOpen s m len) := by
  unfold State.sessOpen
  with_reducible repeat' first
    | simp only [Keeps.upd_iff] | assumption | exact .refl _ | refine .ite ?_ ?_
    | refine (State.cmdRefused_keeps _ _).via ?_ | refine (State.setSess_keeps _ _).via ?_ | intro _ | split
    | dsimp only
theorem State.sessVerified_keeps (s : State) :
    Keeps s (State.sessVerified s) := by
  unfold State.sessVerified
  with_reducible repeat' first
    | simp only [Keeps.upd_iff] | assumption | exact .refl _ | refine .ite ?_ ?_
    | refine (State.bwPost_keeps _ _ _ _).via ?_ | refine (State.setSess_keeps _ _).via ?_ | intro _ | split
    | dsimp only
theorem State.specialEntry_keeps (s : State) (kind : Nat) (old new : Word) :
    Keeps s (State.specialEntry s kind old new) := by
  unfold State.specialEntry
  with_reducible repeat' first
    | exact .refl _ | refine (State.logEntry_keeps _ _ _ _ _ _).via ?_
theorem State.proofEnd_keeps (s : State) :
    Keeps s (State.proofEnd s) := by
  unfold State.proofEnd
  with_reducible repeat' first
    | simp only [Keeps.upd_iff] | assumption | exact .refl _ | refine .ite ?_ ?_
    | refine (State.setRg_keeps _ _ _).via ?_ | refine (State.startCore_keeps _ _ _).via ?_
    | refine (State.setBw_keeps _ _).via ?_ | refine (State.bwPost_keeps _ _ _ _).via ?_
    | refine (State.bwSync_keeps _).via ?_ | refine (State.setSess_keeps _ _).via ?_ | refine .fold (fun _ _ => ?_) ?_
    | intro _ | split | dsimp only
theorem State.proofEntry_keeps (s : State) :
    Keeps s (State.proofEntry s) := by
  unfold State.proofEntry
  with_reducible repeat' first
    | exact .refl _ | refine .ite ?_ ?_ | refine .ite2 ?_ ?_ | refine .ite1 ?_ ?_
    | refine (State.specialEntry_keeps _ _ _ _).via ?_ | refine (State.free_keeps _).via ?_ | split | dsimp only
theorem State.sessEnd_keeps (s : State) (kind : Nat) :
    Keeps s (State.sessEnd s kind) := by
  unfold State.sessEnd
  with_reducible repeat' first
    | simp only [Keeps.upd_iff] | assumption | exact .refl _ | refine (State.proofEnd_keeps _).via ?_
    | refine (State.proofEntry_keeps _).via ?_ | refine (State.bwPost_keeps _ _ _ _).via ?_
    | refine (State.setSess_keeps _ _).via ?_ | intro _ | dsimp only
theorem State.sessClose_keeps (s : State) (m : Master) :
    Keeps s (State.sessClose s m) := by
  unfold State.sessClose
  with_reducible repeat' first
    | exact .refl _ | refine .ite ?_ ?_ | refine (State.sessEnd_keeps _ _).via ?_
    | refine (State.cmdRefused_keeps _ _).via ?_ | split
theorem State.setPw'_keeps (s : State) (m : Master) (len : Nat) :
    Keeps s (State.setPw' s m len) := by
  unfold State.setPw'
  with_reducible repeat' first
    | simp only [Keeps.upd_iff] | assumption | exact .refl _ | refine .ite ?_ ?_ | refine .ite2 ?_ ?_
    | refine .ite1 ?_ ?_ | refine (State.free_keeps _).via ?_ | refine (State.cmdRefused_keeps _ _).via ?_
    | refine (State.logRefuse_keeps _ _).via ?_ | refine (State.setSess_keeps _ _).via ?_
    | refine (State.specialEntry_keeps _ _ _ _).via ?_ | intro _ | split | dsimp only
theorem State.sealLog_keeps (s : State) (m : Master) :
    Keeps s (State.sealLog s m) := by
  unfold State.sealLog
  with_reducible repeat' first
    | simp only [Keeps.upd_iff] | assumption | exact .refl _ | refine .ite ?_ ?_
    | refine (State.cmdRefused_keeps _ _).via ?_ | refine (State.putBit_keeps _ _ _ _).via ?_
    | refine (State.setSess_keeps _ _).via ?_ | refine (State.bwPost_keeps _ _ _ _).via ?_
    | refine (State.specialEntry_keeps _ _ _ _).via ?_ | intro _ | split | dsimp only
theorem State.ptOpen_keeps (s : State) (m : Master) :
    Keeps s (State.ptOpen s m) := by
  unfold State.ptOpen
  with_reducible repeat' first
    | simp only [Keeps.upd_iff] | assumption | exact .refl _ | refine .ite ?_ ?_ | refine .ite2 ?_ ?_
    | refine .ite1 ?_ ?_ | refine (State.cmdRefused_keeps _ _).via ?_ | refine (State.logRefuse_keeps _ _).via ?_
    | refine (State.free_keeps _).via ?_ | refine (State.setSess_keeps _ _).via ?_
    | refine (State.specialEntry_keeps _ _ _ _).via ?_ | refine (State.setBw_keeps _ _).via ?_
    | refine (State.setRg_keeps _ _ _).via ?_ | refine (State.haltNow_keeps _ _ _ _).via ?_
    | refine (State.setCr_keeps _ _ _).via ?_ | refine (State.bwSync_keeps _).via ?_
    | refine (State.bwPost_keeps _ _ _ _).via ?_ | intro _ | split | dsimp only
theorem State.ptClose_keeps (s : State) (m : Master) :
    Keeps s (State.ptClose s m) := by
  unfold State.ptClose
  with_reducible repeat' first
    | exact .refl _ | refine .ite ?_ ?_ | refine (State.cmdRefused_keeps _ _).via ?_
    | refine (State.logRefuse_keeps _ _).via ?_ | refine (State.proofEnd_keeps _).via ?_
    | refine (State.proofEntry_keeps _).via ?_ | split
theorem State.writeSessCmd_keeps (s : State) (m : Master) (v : Nat) :
    Keeps s (State.writeSessCmd s m v) := by
  unfold State.writeSessCmd
  with_reducible repeat' first
    | simp only [Keeps.upd_iff] | assumption | exact .refl _ | refine (State.sessOpen_keeps _ _ _).via ?_
    | refine (State.sessClose_keeps _ _).via ?_ | refine (State.setPw'_keeps _ _ _).via ?_
    | refine (State.sealLog_keeps _ _).via ?_ | refine (State.ptOpen_keeps _ _).via ?_
    | refine (State.ptClose_keeps _ _).via ?_ | refine (State.cmdRefused_keeps _ _).via ?_
    | refine (State.setSess_keeps _ _).via ?_ | intro _ | split | dsimp only
theorem execSessionOpen_keeps (t : Time) (m : Master) (len : Fin 64) (s : State) :
    KeepsOutcome s (execSessionOpen t m len s) := by
  unfold execSessionOpen
  with_reducible repeat' first
    | refine .next ?_ | assumption | exact .refl _ | refine (State.onPage_keeps _ _ _ ?_).via ?_
    | refine (State.tick_keeps _ _).via ?_ | refine (State.writeSessCmd_keeps _ _ _).via ?_ | intro _ | dsimp only
theorem execPasswordVerified_keeps (t : Time) (s : State) :
    KeepsOutcome s (execPasswordVerified t s) := by
  unfold execPasswordVerified
  with_reducible repeat' first
    | refine .next ?_ | exact .refl _ | refine (State.sessVerified_keeps _).via ?_
    | refine (State.tick_keeps _ _).via ?_ | split
theorem execLockoutEnd_keeps (t : Time) (s : State) :
    KeepsOutcome s (execLockoutEnd t s) := by
  unfold execLockoutEnd
  with_reducible repeat' first
    | refine .next ?_ | simp only [Keeps.upd_iff] | assumption | exact .refl _ | refine .ite ?_ ?_
    | refine (State.tick_keeps _ _).via ?_ | refine (State.setSess_keeps _ _).via ?_ | intro _ | split | dsimp only
theorem execSessionClose_keeps (t : Time) (m : Master) (s : State) :
    KeepsOutcome s (execSessionClose t m s) := by
  unfold execSessionClose
  with_reducible repeat' first
    | refine .next ?_ | assumption | exact .refl _ | refine (State.onPage_keeps _ _ _ ?_).via ?_
    | refine (State.tick_keeps _ _).via ?_ | refine (State.writeSessCmd_keeps _ _ _).via ?_ | intro _ | dsimp only
theorem execSessionTimeout_keeps (t : Time) (s : State) :
    KeepsOutcome s (execSessionTimeout t s) := by
  unfold execSessionTimeout
  with_reducible repeat' first
    | refine .next ?_ | exact .refl _ | refine .ite ?_ ?_ | refine (State.tick_keeps _ _).via ?_
    | refine (State.sessEnd_keeps _ _).via ?_ | split | dsimp only
theorem execSetPw_keeps (t : Time) (m : Master) (len : Fin 64) (s : State) :
    KeepsOutcome s (execSetPw t m len s) := by
  unfold execSetPw
  with_reducible repeat' first
    | refine .next ?_ | assumption | exact .refl _ | refine (State.onPage_keeps _ _ _ ?_).via ?_
    | refine (State.tick_keeps _ _).via ?_ | refine (State.writeSessCmd_keeps _ _ _).via ?_ | intro _ | dsimp only
theorem execSeal_keeps (t : Time) (m : Master) (s : State) :
    KeepsOutcome s (execSeal t m s) := by
  unfold execSeal
  with_reducible repeat' first
    | refine .next ?_ | assumption | exact .refl _ | refine (State.onPage_keeps _ _ _ ?_).via ?_
    | refine (State.tick_keeps _ _).via ?_ | refine (State.writeSessCmd_keeps _ _ _).via ?_ | intro _ | dsimp only
theorem execPtOpen_keeps (t : Time) (m : Master) (s : State) :
    KeepsOutcome s (execPtOpen t m s) := by
  unfold execPtOpen
  with_reducible repeat' first
    | refine .next ?_ | assumption | exact .refl _ | refine (State.onPage_keeps _ _ _ ?_).via ?_
    | refine (State.tick_keeps _ _).via ?_ | refine (State.writeSessCmd_keeps _ _ _).via ?_ | intro _ | dsimp only
theorem execPtClose_keeps (t : Time) (m : Master) (s : State) :
    KeepsOutcome s (execPtClose t m s) := by
  unfold execPtClose
  with_reducible repeat' first
    | refine .next ?_ | assumption | exact .refl _ | refine (State.onPage_keeps _ _ _ ?_).via ?_
    | refine (State.tick_keeps _ _).via ?_ | refine (State.writeSessCmd_keeps _ _ _).via ?_ | intro _ | dsimp only
theorem State.writeFlevel_keeps (s : State) (m : Option Master) (i v : Nat) :
    Keeps s (State.writeFlevel s m i v) := by
  unfold State.writeFlevel
  with_reducible repeat' first
    | exact .refl _ | refine (State.bwWrite_keeps _ _ _ _).via ?_ | dsimp only
theorem State.brakeHook_keeps (s : State) (m : Option Master) (off v : Nat) :
    KeepsOpt s (State.brakeHook s m off v) := by
  unfold State.brakeHook
  extract_lets sl sel
  have hsel : ∀ f, Keeps s (sel f) := by
    intro f
    cases m with
    | none => exact ⟨rfl, fun c => ⟨c.mem, c.regs, c.pages, twf_tset (fun _ => ({} : Selectors)) _ _ _ c.sels⟩⟩
    | some m => exact State.setSel_keeps _ _ _
  clear_value sel sl
  with_reducible repeat' first
    | exact hsel _ | exact .none _ | refine .some ?_ | simp only [Keeps.upd_iff] | assumption | exact .refl _
    | refine .ite ?_ ?_ | refine (State.setRg_keeps _ _ _).via ?_ | refine (State.sgEval_keeps _).via ?_
    | refine (State.writeFclr_keeps _ _ _).via ?_ | refine (State.pairOnly_keeps _ _ _ ?_).via ?_
    | refine (State.writeStoCmd_keeps _ _).via ?_ | refine (State.stoKick_keeps _).via ?_
    | refine (State.writePreq_keeps _ _ _).via ?_ | refine (State.writeConn_keeps _ _ _ _ _).via ?_
    | refine (State.bwWrite_keeps _ _ _ _).via ?_ | refine (State.smFlagsClear_keeps _ _ _).via ?_
    | refine (State.writeSmCfg_keeps _ _ _ _).via ?_ | refine (State.setSel_keeps _ _ _).via ?_
    | refine (State.cfgRefused_keeps _ _).via ?_ | refine (State.cmdRefused_keeps _ _).via ?_
    | refine (State.setSess_keeps _ _).via ?_ | refine (State.writeSessCmd_keeps _ _ _).via ?_
    | refine (State.writeFlevel_keeps _ _ _ _).via ?_ | intro _ | split | dsimp only
theorem State.brakeInject_keeps (s : State) :
    Keeps s (State.brakeInject s) := by
  unfold State.brakeInject
  with_reducible repeat' first
    | simp only [Keeps.upd_iff] | assumption | exact .refl _ | refine .ite ?_ ?_
    | refine (State.setRg_keeps _ _ _).via ?_ | refine (State.setBw_keeps _ _).via ?_ | intro _ | split | dsimp only

end Sys2Proof.Machine
end

