-- ==== Sys2Proof/Laws/KeepsBus.lean ====
section
/-! SUPPORT. The operations of Machine/Bus.lean keep the queue and the canonical form (`Keeps`). -/

set_option linter.unusedTactic false
set_option linter.unreachableTactic false
set_option linter.unusedSimpArgs false

namespace Sys2Proof.Machine

theorem State.readClear_keeps (s : State) (pg b : Nat) (r : RegRow) :
    Keeps s (State.readClear s pg b r) := by
  unfold State.readClear
  with_reducible repeat' first
    | simp only [Keeps.upd_iff] | assumption | exact .refl _ | refine .ite ?_ ?_
    | refine (State.setRg_keeps _ _ _).via ?_ | refine (State.setPage_keeps _ _ _).via ?_ | intro _ | split
    | dsimp only
theorem State.readHeader_keeps (s : State) (pg o : Nat) :
    Keeps s (State.readHeader s pg o).2 := by
  unfold State.readHeader
  with_reducible repeat' first
    | exact .refl _ | refine .ite ?_ ?_ | refine .ite2 ?_ ?_ | refine (State.setRg_keeps _ _ _).via ?_
    | refine (State.putFld_keeps _ _ _ _ _).via ?_ | split | dsimp only
theorem State.readEffect_keeps (s : State) (m : Master) (a : Nat) :
    KeepsOpt2 s (State.readEffect s m a) := by
  unfold State.readEffect
  with_reducible repeat' first
    | exact .none _ | refine .some ?_ | simp only [Keeps.upd_iff] | assumption | exact .refl _ | refine .ite ?_ ?_
    | refine (State.weirPop_keeps _ _ _ _).via ?_ | refine (State.weirPopWord_keeps _ _ _ _ _).via ?_
    | refine (State.dbgRead_keeps _ _).via ?_ | refine (State.resPop_keeps _ _).via ?_
    | refine (State.resPopWord_keeps _ _ _).via ?_ | refine (State.canPop_keeps _ _ _ _).via ?_
    | refine (State.canPopWord_keeps _ _ _ _ _).via ?_ | refine (State.bsramRead_keeps _).via ?_ | intro _ | split
    | dsimp only
theorem State.readWord_keeps (s : State) (m : Master) (a : Nat) (hold : Bool) :
    Keeps s (State.readWord s m a hold).2 := by
  unfold State.readWord
  with_reducible repeat' first
    | simp only [Keeps.upd_iff] | assumption | exact .refl _ | refine .ite ?_ ?_ | refine .ite2 ?_ ?_
    | refine (State.readHeader_keeps _ _ _).via ?_
    | refine (State.readEffect_keeps _ _ _).via ?_ | refine ((State.readEffect_keeps _ _ _).get ‹_›).via ?_
    | refine (State.readClear_keeps _ _ _ _).via ?_ | refine (State.setPage_keeps _ _ _).via ?_
    | refine (State.pairErr_keeps _ _).via ?_ | intro _ | split | dsimp only
theorem State.lockPage_keeps (s : State) (pg : Nat) :
    Keeps s (State.lockPage s pg) := by
  unfold State.lockPage
  with_reducible repeat' first
    | exact .refl _ | refine (State.putFld_keeps _ _ _ _ _).via ?_
theorem State.unlockTimeout_keeps (s : State) (pg : Nat) :
    Keeps s (State.unlockTimeout s pg) := by
  unfold State.unlockTimeout
  with_reducible repeat' first
    | simp only [Keeps.upd_iff] | assumption | exact .refl _ | refine .ite ?_ ?_
    | refine (State.abortSeq_keeps _ _).via ?_ | intro _ | split
theorem State.lockTimeout_keeps (s : State) (pg : Nat) :
    Keeps s (State.lockTimeout s pg) := by
  unfold State.lockTimeout
  with_reducible repeat' first
    | exact .refl _ | refine .ite ?_ ?_ | refine (State.lockPage_keeps _ _).via ?_ | split
theorem State.lockWrite_keeps (s0 : State) (m : Master) (pg v : Nat) :
    Keeps s0 (State.lockWrite s0 m pg v) := by
  unfold State.lockWrite
  with_reducible repeat' first
    | simp only [Keeps.upd_iff] | assumption | exact .refl _ | refine .ite ?_ ?_
    | refine (State.unlockTimeout_keeps _ _).via ?_ | refine (State.setPage_keeps _ _ _).via ?_
    | refine (State.abortSeq_keeps _ _).via ?_ | refine (State.putBit_keeps _ _ _ _).via ?_
    | refine (State.putFld_keeps _ _ _ _ _).via ?_ | refine (State.lockPage_keeps _ _).via ?_
    | refine (State.failInc_keeps _ _).via ?_ | intro _ | split | dsimp only
theorem State.softReset_keeps (s : State) (pg : Nat) :
    Keeps s (State.softReset s pg) := by
  unfold State.softReset
  with_reducible repeat' first
    | simp only [Keeps.upd_iff] | assumption | exact .refl _ | refine .ite ?_ ?_
    | refine (State.putBit_keeps _ _ _ _).via ?_ | refine (State.ptpReset_keeps _ _).via ?_
    | refine (State.setPage_keeps _ _ _).via ?_ | intro _ | split | dsimp only
theorem State.freezePage_keeps (s : State) (pg : Nat) :
    Keeps s (State.freezePage s pg) := by
  unfold State.freezePage
  with_reducible repeat' first
    | simp only [Keeps.upd_iff] | assumption | exact .refl _ | refine (State.setPage_keeps _ _ _).via ?_
    | refine (State.putBit_keeps _ _ _ _).via ?_ | intro _ | dsimp only
theorem State.freezeRelease_keeps (s : State) (pg : Nat) :
    Keeps s (State.freezeRelease s pg) := by
  unfold State.freezeRelease
  with_reducible repeat' first
    | simp only [Keeps.upd_iff] | assumption | exact .refl _ | refine (State.setPage_keeps _ _ _).via ?_
    | refine (State.putBit_keeps _ _ _ _).via ?_ | intro _ | dsimp only
theorem State.writePgCtrl_keeps (s : State) (pg v : Nat) :
    Keeps s (State.writePgCtrl s pg v) := by
  unfold State.writePgCtrl
  with_reducible repeat' first
    | exact .refl _ | refine .ite ?_ ?_ | refine (State.cfgRefused_keeps _ _).via ?_
    | refine (State.enChange_keeps _ _ _).via ?_ | refine (State.softReset_keeps _ _).via ?_
    | refine (State.freezePage_keeps _ _).via ?_ | refine (State.freezeRelease_keeps _ _).via ?_ | split | dsimp only
theorem State.writeShadow_keeps (s : State) (pg v : Nat) :
    Keeps s (State.writeShadow s pg v) := by
  unfold State.writeShadow
  with_reducible repeat' first
    | simp only [Keeps.upd_iff] | assumption | exact .refl _ | refine .ite ?_ ?_
    | refine (State.putBit_keeps _ _ _ _).via ?_ | refine (State.setPage_keeps _ _ _).via ?_ | intro _ | split
    | dsimp only
theorem State.injected_keeps (s : State) (m : Master) (pg : Nat) :
    Keeps s (State.injected s m pg) := by
  unfold State.injected
  with_reducible repeat' first
    | simp only [Keeps.upd_iff] | assumption | exact .refl _ | refine .ite ?_ ?_
    | refine (State.pspInject_keeps _ _).via ?_ | refine (State.fieldInject_keeps _).via ?_
    | refine (State.ethInject_keeps _ _).via ?_ | refine (State.brakeInject_keeps _).via ?_ | intro _ | split
theorem State.writePgIrq_keeps (s : State) (pg v : Nat) :
    Keeps s (State.writePgIrq s pg v) := by
  unfold State.writePgIrq
  with_reducible repeat' first
    | exact .refl _ | refine .ite ?_ ?_ | refine .ite2 ?_ ?_ | refine .ite1 ?_ ?_
    | refine (State.setRg_keeps _ _ _).via ?_ | split | dsimp only
theorem State.writeHeader_keeps (s : State) (m : Master) (pg o v : Nat) :
    Keeps s (State.writeHeader s m pg o v) := by
  unfold State.writeHeader
  with_reducible repeat' first
    | exact .refl _ | refine .ite ?_ ?_ | refine (State.writePgCtrl_keeps _ _ _).via ?_
    | refine (State.writePgIrq_keeps _ _ _).via ?_ | refine (State.setRg_keeps _ _ _).via ?_
    | refine (State.writeReg_keeps _ _ _ _ _).via ?_ | refine (State.injected_keeps _ _ _).via ?_
    | refine (State.writeShadow_keeps _ _ _).via ?_ | split | dsimp only
theorem State.resetRegs_keeps (s : State) (pg : Nat) :
    Keeps s (State.resetRegs s pg) := by
  exact ⟨rfl, fun c => ⟨c.mem, twf_filter _ _ _ c.regs, c.pages, c.sels⟩⟩
theorem State.pwmReset_keeps (s : State) (n : Nat) :
    Keeps s (State.pwmReset s n) := by
  unfold State.pwmReset
  with_reducible repeat' first
    | simp only [Keeps.upd_iff] | assumption | exact .refl _ | refine (State.cmpMuteSync_keeps _ _).via ?_
    | refine (State.chopInactive_keeps _ _).via ?_ | refine (State.tripRestart_keeps _ _).via ?_
    | refine (State.setPw_keeps _ _ _).via ?_ | refine (State.ascSync_keeps _ _).via ?_
    | refine (State.ascReport_keeps _ _ _).via ?_ | refine (State.slotEval_keeps _ _).via ?_ | intro _ | dsimp only
theorem State.pspReset_keeps (s : State) (n : Nat) :
    Keeps s (State.pspReset s n) := by
  unfold State.pspReset
  with_reducible repeat' first
    | simp only [Keeps.upd_iff] | assumption | exact .refl _ | refine (State.srcSet_keeps _ _ _ _).via ?_
    | refine (State.testRestore_keeps _ _ _).via ?_ | refine (State.setPs_keeps _ _ _).via ?_
    | refine (State.slotEcho_keeps _ _).via ?_ | refine (State.slotEval_keeps _ _).via ?_
    | refine .fold (fun _ _ => ?_) ?_ | intro _ | split | dsimp only
theorem State.resetBlock_keeps (s : State) (pg : Nat) :
    Keeps s (State.resetBlock s pg) := by
  unfold State.resetBlock
  extract_lets n sels
  have hsel : ∀ f, Keeps s (sels f) := by
    intro f
    refine ⟨rfl, fun c => ⟨c.mem, c.regs, c.pages, ?_⟩⟩
    have h : ∀ (l : List Nat) (x : List (Nat × Selectors)), twf (fun _ => ({} : Selectors)) x = true →
        twf (fun _ => ({} : Selectors)) (l.foldl (fun x k => tset {} x k (f (tget {} s.sels k))) x) = true := by
      intro l
      induction l with
      | nil => exact fun _ h => h
      | cons i l ih => exact fun x h => ih _ (twf_tset (fun _ => ({} : Selectors)) x i _ h)
    exact h _ _ c.sels
  clear_value sels
  with_reducible repeat' first
    | exact hsel _ | simp only [Keeps.upd_iff] | assumption | exact .refl _ | refine .ite ?_ ?_
    | refine (State.setBist_keeps _ _).via ?_ | refine (State.bistStop_keeps _).via ?_
    | refine (State.pwmReset_keeps _ _).via ?_ | refine (State.pspReset_keeps _ _).via ?_
    | refine (State.setCr_keeps _ _ _).via ?_ | refine (State.migWatch_keeps _).via ?_
    | refine (State.setRed_keeps _ _).via ?_ | refine (State.setFbp_keeps _ _ _).via ?_
    | refine (State.fieldReset_keeps _).via ?_ | refine (State.unarm_keeps _ _).via ?_
    | refine (State.setHop_keeps _ _).via ?_ | refine (State.bwSync_keeps _).via ?_
    | refine (State.setPort_keeps _ _ _).via ?_ | refine (State.setRace_keeps _ _ _).via ?_
    | refine (State.sdmReset_keeps _ _).via ?_ | refine (State.auxSources_keeps _ _).via ?_
    | refine (State.sluiceReset_keeps _).via ?_ | refine (State.wallReset_keeps _).via ?_
    | refine (State.axisReset_keeps _ _).via ?_ | refine (State.groupReset_keeps _ _).via ?_
    | refine .fold (fun _ _ => ?_) ?_ | intro _ | split | dsimp only
theorem State.softResetDone_keeps (s : State) (pg : Nat) :
    Keeps s (State.softResetDone s pg) := by
  unfold State.softResetDone
  with_reducible repeat' first
    | assumption | exact .refl _ | refine .ite ?_ ?_ | refine (State.resetBlock_keeps _ _).via ?_
    | refine (State.setPage_keeps _ _ _).via ?_ | refine (State.resetRegs_keeps _ _).via ?_ | intro _ | split
    | dsimp only
theorem State.weirHook_keeps (s : State) (off v : Nat) :
    KeepsOpt s (State.weirHook s off v) := by
  unfold State.weirHook
  with_reducible repeat' first
    | exact .none _ | refine .some ?_ | exact .refl _ | refine .ite ?_ ?_ | refine (State.weirInject_keeps _ _).via ?_
    | refine (State.setRg_keeps _ _ _).via ?_ | split
theorem State.pageHook_keeps (s : State) (m : Master) (a v : Nat) :
    KeepsOpt s (State.pageHook s m a v) := by
  unfold State.pageHook
  with_reducible repeat' first
    | exact .none _ | refine .some ?_ | simp only [Keeps.upd_iff] | assumption | exact .refl _ | refine .ite ?_ ?_
    | refine (State.runCtrl_keeps _ _ _).via ?_ | refine (State.writeMt_keeps _ _ _).via ?_
    | refine (State.writeSnapCtrl_keeps _ _ _).via ?_
    | refine (State.weirHook_keeps _ _ _).via ?_ | refine ((State.weirHook_keeps _ _ _).get ‹_›).via ?_
    | refine (State.fbpHook_keeps _ _ _ _ _).via ?_ | refine ((State.fbpHook_keeps _ _ _ _ _).get ‹_›).via ?_
    | refine (State.sdmHook_keeps _ _ _ _ _).via ?_ | refine ((State.sdmHook_keeps _ _ _ _ _).get ‹_›).via ?_
    | refine (State.pwmHook_keeps _ _ _ _ _).via ?_ | refine ((State.pwmHook_keeps _ _ _ _ _).get ‹_›).via ?_
    | refine (State.pspHook_keeps _ _ _ _ _).via ?_ | refine ((State.pspHook_keeps _ _ _ _ _).get ‹_›).via ?_
    | refine (State.coreHook_keeps _ _ _ _ _).via ?_ | refine ((State.coreHook_keeps _ _ _ _ _).get ‹_›).via ?_
    | refine (State.writeAxRun_keeps _ _ _).via ?_
    | refine (State.sluiceHook_keeps _ _ _).via ?_ | refine ((State.sluiceHook_keeps _ _ _).get ‹_›).via ?_
    | refine (State.axisHook_keeps _ _ _ _ _).via ?_ | refine ((State.axisHook_keeps _ _ _ _ _).get ‹_›).via ?_
    | refine (State.igrpHook_keeps _ _ _ _).via ?_ | refine ((State.igrpHook_keeps _ _ _ _).get ‹_›).via ?_
    | refine (State.setSel_keeps _ _ _).via ?_
    | refine (State.linkHook_keeps _ _ _ _ _).via ?_ | refine ((State.linkHook_keeps _ _ _ _ _).get ‹_›).via ?_
    | refine (State.ctHook_keeps _ _ _).via ?_ | refine ((State.ctHook_keeps _ _ _).get ‹_›).via ?_
    | refine (State.wallHook_keeps _ _ _).via ?_ | refine ((State.wallHook_keeps _ _ _).get ‹_›).via ?_
    | refine (State.latHook_keeps _ _ _ _).via ?_ | refine ((State.latHook_keeps _ _ _ _).get ‹_›).via ?_
    | refine (State.hopHook_keeps _ _ _ _).via ?_ | refine ((State.hopHook_keeps _ _ _ _).get ‹_›).via ?_
    | refine (State.fieldHook_keeps _ _ _ _).via ?_ | refine ((State.fieldHook_keeps _ _ _ _).get ‹_›).via ?_
    | refine (State.txbHook_keeps _ _ _ _).via ?_ | refine ((State.txbHook_keeps _ _ _ _).get ‹_›).via ?_
    | refine (State.canHook_keeps _ _ _ _).via ?_ | refine ((State.canHook_keeps _ _ _ _).get ‹_›).via ?_
    | refine (State.ethHook_keeps _ _ _ _).via ?_ | refine ((State.ethHook_keeps _ _ _ _).get ‹_›).via ?_
    | refine (State.writeIncr_keeps _ _ _).via ?_ | refine (State.writeOffset_keeps _ _ _).via ?_
    | refine (State.ftHook_keeps _ _ _ _ _).via ?_ | refine ((State.ftHook_keeps _ _ _ _ _).get ‹_›).via ?_
    | refine (State.brakeHook_keeps _ _ _ _).via ?_ | refine ((State.brakeHook_keeps _ _ _ _).get ‹_›).via ?_
    | refine (State.hostHook_keeps _ _ _ _).via ?_ | refine ((State.hostHook_keeps _ _ _ _).get ‹_›).via ?_
    | refine (State.pwrHook_keeps _ _ _ _).via ?_ | refine ((State.pwrHook_keeps _ _ _ _).get ‹_›).via ?_
    | refine (State.bistHook_keeps _ _ _ _).via ?_ | refine ((State.bistHook_keeps _ _ _ _).get ‹_›).via ?_
    | refine (State.cfsHook_keeps _ _ _).via ?_ | refine ((State.cfsHook_keeps _ _ _).get ‹_›).via ?_
    | refine (State.auxHook_keeps _ _ _ _ _).via ?_ | refine ((State.auxHook_keeps _ _ _ _ _).get ‹_›).via ?_
    | intro _ | split | dsimp only
theorem State.writeFull_keeps (s : State) (m : Master) (a v : Nat) :
    Keeps s (State.writeFull s m a v) := by
  unfold State.writeFull
  with_reducible repeat' first
    | simp only [Keeps.upd_iff] | assumption | exact .refl _ | refine .ite ?_ ?_
    | refine (State.pageHook_keeps _ _ _ _).via ?_ | refine ((State.pageHook_keeps _ _ _ _).get ‹_›).via ?_
    | refine (State.writeRow_keeps _ _ _ _ _ _).via ?_ | refine (State.flushStaged_keeps _ _).via ?_ | intro _ | split
    | dsimp only
theorem State.writeWord_keeps (s : State) (m : Master) (a v : Nat) (hold : Bool) :
    Keeps s (State.writeWord s m a v hold) := by
  unfold State.writeWord
  with_reducible repeat' first
    | simp only [Keeps.upd_iff] | assumption | exact .refl _ | refine .ite ?_ ?_
    | refine (State.lockWrite_keeps _ _ _ _).via ?_ | refine (State.onPage_keeps _ _ _ ?_).via ?_
    | refine (State.writeHeader_keeps _ _ _ _ _).via ?_ | refine (State.writeFull_keeps _ _ _ _).via ?_
    | refine (State.setPage_keeps _ _ _).via ?_ | refine (State.pairErr_keeps _ _).via ?_ | intro _ | split
    | dsimp only
theorem State.writePair_keeps (s : State) (m : Master) (a v : Nat) :
    Keeps s (State.writePair s m a v) := by
  unfold State.writePair
  with_reducible repeat' first
    | simp only [Keeps.upd_iff] | assumption | exact .refl _ | refine .ite ?_ ?_
    | refine (State.onPage_keeps _ _ _ ?_).via ?_ | refine (State.writeFull_keeps _ _ _ _).via ?_
    | refine (State.writeWord_keeps _ _ _ _ _).via ?_ | intro _ | split | dsimp only
theorem State.winWord_keeps (s : State) (a be v : Nat) :
    Keeps s (State.winWord s a be v) := by
  unfold State.winWord
  with_reducible repeat' first
    | simp only [Keeps.upd_iff] | assumption | exact .refl _ | refine .ite ?_ ?_ | refine .ite2 ?_ ?_
    | refine .ite1 ?_ ?_ | refine (State.eccWrite_keeps _ _ _ _).via ?_ | refine (State.stw_keeps _ _ _).via ?_
    | refine (State.free_keeps _).via ?_ | intro _ | split | dsimp only
theorem State.winRead_keeps (s : State) (a : Nat) :
    Keeps s (State.winRead s a).2 := by
  unfold State.winRead
  with_reducible repeat' first
    | simp only [Keeps.upd_iff] | assumption | exact .refl _ | refine .ite ?_ ?_ | refine .ite2 ?_ ?_
    | refine .ite1 ?_ ?_ | refine (State.eccCorr_keeps _ _ _ _ _).via ?_ | refine (State.islandFault_keeps _ _).via ?_
    | refine (State.free_keeps _).via ?_ | intro _ | split | dsimp only
theorem State.busWrite_keeps (s : State) (m : Master) (a nb be v : Nat) :
    Keeps s (State.busWrite s m a nb be v) := by
  unfold State.busWrite
  with_reducible repeat' first
    | exact .refl _ | refine .ite ?_ ?_ | refine (State.mapErr_keeps _ _ _ _).via ?_
    | refine (State.writePair_keeps _ _ _ _).via ?_ | refine (State.writeWord_keeps _ _ _ _ _).via ?_
    | refine (State.winWord_keeps _ _ _ _).via ?_ | split | dsimp only
theorem State.busRead_keeps (s : State) (m : Master) (a nb be : Nat) :
    Keeps s (State.busRead s m a nb be).2 := by
  unfold State.busRead
  with_reducible repeat' first
    | exact .refl _ | refine .ite ?_ ?_ | refine .ite2 ?_ ?_ | refine .ite1 ?_ ?_
    | refine (State.mapErr_keeps _ _ _ _).via ?_ | refine (State.readWord_keeps _ _ _ _).via ?_
    | refine (State.winRead_keeps _ _).via ?_ | split | dsimp only
theorem State.write32_keeps (s : State) (m : Master) (a : Nat) (v : Word) :
    Keeps s (State.write32 s m a v) := by
  unfold State.write32
  with_reducible repeat' first
    | exact .refl _ | refine (State.busWrite_keeps _ _ _ _ _ _).via ?_
theorem State.read32_keeps (s : State) (m : Master) (a : Nat) :
    Keeps s (State.read32 s m a) := by
  unfold State.read32
  with_reducible repeat' first
    | simp only [Keeps.upd_iff] | exact .refl _ | refine (State.busRead_keeps _ _ _ _ _).via ?_ | dsimp only
theorem execRegisterWrite_keeps (t : Time) (m : Master) (a : BitVec 26) (w : Width) (be : BitVec 8) (v : DWord) (s : State) :
    KeepsOutcome s (execRegisterWrite t m a w be v s) := by
  unfold execRegisterWrite
  with_reducible repeat' first
    | refine .next ?_ | exact .refl _ | refine (State.busWrite_keeps _ _ _ _ _ _).via ?_
    | refine (State.tick_keeps _ _).via ?_
theorem execStagedRegisterWrite_keeps (t : Time) (m : Master) (a : BitVec 26) (wide : Bool) (v : DWord) (s : State) :
    KeepsOutcome s (execStagedRegisterWrite t m a wide v s) := by
  unfold execStagedRegisterWrite
  with_reducible repeat' first
    | refine .next ?_ | exact .refl _ | refine .ite ?_ ?_ | refine (State.busWrite_keeps _ _ _ _ _ _).via ?_
    | refine (State.tick_keeps _ _).via ?_ | split
theorem execRcRead_keeps (t : Time) (m : Master) (a : BitVec 26) (w : Width) (be : BitVec 8) (s : State) :
    KeepsOutcome s (execRcRead t m a w be s) := by
  unfold execRcRead
  with_reducible repeat' first
    | refine .next ?_ | simp only [Keeps.upd_iff] | exact .refl _ | refine (State.busRead_keeps _ _ _ _ _).via ?_
    | refine (State.tick_keeps _ _).via ?_ | dsimp only
theorem execPairLowRead_keeps (t : Time) (m : Master) (a : BitVec 26) (s : State) :
    KeepsOutcome s (execPairLowRead t m a s) := by
  unfold execPairLowRead
  with_reducible repeat' first
    | refine .next ?_ | exact .refl _ | refine (State.read32_keeps _ _ _).via ?_
    | refine (State.tick_keeps _ _).via ?_
theorem execPairHighRead_keeps (t : Time) (m : Master) (a : BitVec 26) (s : State) :
    KeepsOutcome s (execPairHighRead t m a s) := by
  unfold execPairHighRead
  with_reducible repeat' first
    | refine .next ?_ | exact .refl _ | refine (State.read32_keeps _ _ _).via ?_
    | refine (State.tick_keeps _ _).via ?_
theorem execPairLowWrite_keeps (t : Time) (m : Master) (a : BitVec 26) (v : Word) (s : State) :
    KeepsOutcome s (execPairLowWrite t m a v s) := by
  unfold execPairLowWrite
  with_reducible repeat' first
    | refine .next ?_ | exact .refl _ | refine (State.write32_keeps _ _ _ _).via ?_
    | refine (State.tick_keeps _ _).via ?_
theorem execPairHighWrite_keeps (t : Time) (m : Master) (a : BitVec 26) (v : Word) (s : State) :
    KeepsOutcome s (execPairHighWrite t m a v s) := by
  unfold execPairHighWrite
  with_reducible repeat' first
    | refine .next ?_ | exact .refl _ | refine (State.write32_keeps _ _ _ _).via ?_
    | refine (State.tick_keeps _ _).via ?_
theorem execUnmappedAccess_keeps (t : Time) (m : Master) (a : BitVec 26) (w : Width) (wr : Bool) (v : DWord) (s : State) :
    KeepsOutcome s (execUnmappedAccess t m a w wr v s) := by
  unfold execUnmappedAccess
  with_reducible repeat' first
    | refine .next ?_ | simp only [Keeps.upd_iff] | exact .refl _ | refine .ite ?_ ?_ | refine .ite2 ?_ ?_
    | refine .ite1 ?_ ?_ | refine (State.tick_keeps _ _).via ?_ | refine (State.busRead_keeps _ _ _ _ _).via ?_
    | refine (State.busWrite_keeps _ _ _ _ _ _).via ?_ | split | dsimp only
theorem execSoftReset_keeps (t : Time) (m : Master) (a : BitVec 26) (s : State) :
    KeepsOutcome s (execSoftReset t m a s) := by
  unfold execSoftReset
  with_reducible repeat' first
    | refine .next ?_ | exact .refl _ | refine (State.tick_keeps _ _).via ?_
    | refine (State.write32_keeps _ _ _ _).via ?_ | dsimp only
theorem execSoftResetDone_keeps (t : Time) (a : BitVec 26) (s : State) :
    KeepsOutcome s (execSoftResetDone t a s) := by
  unfold execSoftResetDone
  with_reducible repeat' first
    | refine .next ?_ | exact .refl _ | refine (State.softResetDone_keeps _ _).via ?_
    | refine (State.tick_keeps _ _).via ?_
theorem execFreezeCapture_keeps (t : Time) (m : Master) (a : BitVec 26) (s : State) :
    KeepsOutcome s (execFreezeCapture t m a s) := by
  unfold execFreezeCapture
  with_reducible repeat' first
    | refine .next ?_ | exact .refl _ | refine (State.tick_keeps _ _).via ?_
    | refine (State.write32_keeps _ _ _ _).via ?_ | dsimp only
theorem execFreezeRelease_keeps (t : Time) (m : Master) (a : BitVec 26) (s : State) :
    KeepsOutcome s (execFreezeRelease t m a s) := by
  unfold execFreezeRelease
  with_reducible repeat' first
    | refine .next ?_ | exact .refl _ | refine (State.tick_keeps _ _).via ?_
    | refine (State.write32_keeps _ _ _ _).via ?_ | dsimp only
theorem execIrqClear_keeps (t : Time) (m : Master) (a : BitVec 26) (v : Word) (s : State) :
    KeepsOutcome s (execIrqClear t m a v s) := by
  unfold execIrqClear
  with_reducible repeat' first
    | refine .next ?_ | exact .refl _ | refine (State.write32_keeps _ _ _ _).via ?_
    | refine (State.tick_keeps _ _).via ?_
theorem execUnlockFirstKey_keeps (t : Time) (m : Master) (a : BitVec 26) (s : State) :
    KeepsOutcome s (execUnlockFirstKey t m a s) := by
  unfold execUnlockFirstKey
  with_reducible repeat' first
    | refine .next ?_ | exact .refl _ | refine (State.write32_keeps _ _ _ _).via ?_
    | refine (State.tick_keeps _ _).via ?_
theorem execUnlockSecondKey_keeps (t : Time) (m : Master) (a : BitVec 26) (s : State) :
    KeepsOutcome s (execUnlockSecondKey t m a s) := by
  unfold execUnlockSecondKey
  with_reducible repeat' first
    | refine .next ?_ | exact .refl _ | refine (State.write32_keeps _ _ _ _).via ?_
    | refine (State.tick_keeps _ _).via ?_
theorem execUnlockTimeout_keeps (t : Time) (a : BitVec 26) (s : State) :
    KeepsOutcome s (execUnlockTimeout t a s) := by
  unfold execUnlockTimeout
  with_reducible repeat' first
    | refine .next ?_ | exact .refl _ | refine (State.unlockTimeout_keeps _ _).via ?_
    | refine (State.tick_keeps _ _).via ?_
theorem execLockZeroWrite_keeps (t : Time) (m : Master) (a : BitVec 26) (s : State) :
    KeepsOutcome s (execLockZeroWrite t m a s) := by
  unfold execLockZeroWrite
  with_reducible repeat' first
    | refine .next ?_ | exact .refl _ | refine (State.write32_keeps _ _ _ _).via ?_
    | refine (State.tick_keeps _ _).via ?_
theorem execLockOtherWrite_keeps (t : Time) (m : Master) (a : BitVec 26) (v : Word) (s : State) :
    KeepsOutcome s (execLockOtherWrite t m a v s) := by
  unfold execLockOtherWrite
  with_reducible repeat' first
    | refine .next ?_ | exact .refl _ | refine (State.write32_keeps _ _ _ _).via ?_
    | refine (State.tick_keeps _ _).via ?_
theorem execLockTimeout_keeps (t : Time) (a : BitVec 26) (s : State) :
    KeepsOutcome s (execLockTimeout t a s) := by
  unfold execLockTimeout
  with_reducible repeat' first
    | refine .next ?_ | exact .refl _ | refine (State.lockTimeout_keeps _ _).via ?_
    | refine (State.tick_keeps _ _).via ?_
theorem execLockedRegisterWrite_keeps (t : Time) (m : Master) (a : BitVec 26) (wide : Bool) (v : DWord) (s : State) :
    KeepsOutcome s (execLockedRegisterWrite t m a wide v s) := by
  unfold execLockedRegisterWrite
  with_reducible repeat' first
    | refine .next ?_ | exact .refl _ | refine .ite ?_ ?_ | refine (State.busWrite_keeps _ _ _ _ _ _).via ?_
    | refine (State.tick_keeps _ _).via ?_ | split
theorem execShadowHold_keeps (t : Time) (m : Master) (a : BitVec 26) (on : Bool) (s : State) :
    KeepsOutcome s (execShadowHold t m a on s) := by
  unfold execShadowHold
  with_reducible repeat' first
    | refine .next ?_ | exact .refl _ | refine .ite ?_ ?_ | refine (State.write32_keeps _ _ _ _).via ?_
    | refine (State.tick_keeps _ _).via ?_ | split
theorem execShadowDiscard_keeps (t : Time) (m : Master) (a : BitVec 26) (s : State) :
    KeepsOutcome s (execShadowDiscard t m a s) := by
  unfold execShadowDiscard
  with_reducible repeat' first
    | refine .next ?_ | exact .refl _ | refine (State.tick_keeps _ _).via ?_
    | refine (State.write32_keeps _ _ _ _).via ?_ | dsimp only
theorem execSelectorWrite_keeps (t : Time) (m : Master) (a : BitVec 26) (v : Word) (s : State) :
    KeepsOutcome s (execSelectorWrite t m a v s) := by
  unfold execSelectorWrite
  with_reducible repeat' first
    | refine .next ?_ | exact .refl _ | refine (State.write32_keeps _ _ _ _).via ?_
    | refine (State.tick_keeps _ _).via ?_

end Sys2Proof.Machine
end

