-- ==== Sys2Proof/Laws/KeepsHostCmd.lean ====
section
/-! SUPPORT. The operations of Machine/HostCmd.lean keep the queue and the canonical form (`Keeps`). -/

set_option linter.unusedTactic false
set_option linter.unreachableTactic false
set_option linter.unusedSimpArgs false

namespace Sys2Proof.Machine

theorem State.sysRead_keeps (s : State) (m : Master) (a nb be : Nat) :
    Keeps s (State.sysRead s m a nb be).2 := by
  unfold State.sysRead
  with_reducible repeat' first
    | exact .refl _ | refine .ite ?_ ?_ | refine .ite2 ?_ ?_ | refine (State.busRead_keeps _ _ _ _ _).via ?_
    | refine (State.mapErr_keeps _ _ _ _).via ?_ | refine (State.hopParity_keeps _ _).via ?_ | split | dsimp only
theorem State.sysWrite_keeps (s : State) (m : Master) (a nb be v : Nat) :
    Keeps s (State.sysWrite s m a nb be v) := by
  unfold State.sysWrite
  refine .ite (State.busWrite_keeps _ _ _ _ _ _) (.ite (.refl _) (.ite (State.mapErr_keeps _ _ _ _) ?_))
  refine ⟨rfl, fun c => ⟨?_, c.regs, c.pages, c.sels⟩⟩
  have h : ∀ (l : List Nat) (x : List Host.Cell), Memory.wf x = true → Memory.wf (l.foldl (fun x i =>
      if bitN be i then Memory.write x (pondBase + (a - 0x4000000) + i) (BitVec.ofNat 8 (v >>> (8 * i))) else x) x) = true := by
    intro l
    induction l with
    | nil => exact fun _ h => h
    | cons i l ih => exact fun x h => ih _ (by
      by_cases hb : bitN be i = true
      · simp only [hb, if_true]; exact Memory.wf_write _ _ _ h
      · simp only [hb]; exact h)
  exact h _ _ c.mem
theorem State.endCmd_keeps (s : State) (i status bytes : Nat) (data : Option DWord) :
    Keeps s (State.endCmd s i status bytes data) := by
  unfold State.endCmd
  with_reducible repeat' first
    | simp only [Keeps.upd_iff] | assumption | exact .refl _ | refine (State.setCmd_keeps _ _ _).via ?_ | intro _
    | dsimp only
theorem State.copyEnd_keeps (s : State) (i : Nat) :
    Keeps s (State.copyEnd s i) := by
  unfold State.copyEnd
  with_reducible repeat' first
    | exact .refl _ | refine .ite ?_ ?_ | refine (State.endCmd_keeps _ _ _ _ _).via ?_ | refine .getD ?_ ?_ | split
    | dsimp only
theorem State.copyInWord_keeps (s : State) (i : Nat) (w : Word) :
    Keeps s (State.copyInWord s i w) := by
  unfold State.copyInWord
  with_reducible repeat' first
    | simp only [Keeps.upd_iff] | assumption | exact .refl _ | refine .ite ?_ ?_
    | refine (State.endCmd_keeps _ _ _ _ _).via ?_ | refine (State.sysWrite_keeps _ _ _ _ _ _).via ?_
    | refine (State.setCmd_keeps _ _ _).via ?_ | refine .getD ?_ ?_ | intro _ | split | dsimp only
theorem State.copyOutWord_keeps (s : State) (i : Nat) :
    Keeps s (State.copyOutWord s i) := by
  unfold State.copyOutWord
  with_reducible repeat' first
    | simp only [Keeps.upd_iff] | assumption | exact .refl _ | refine .ite ?_ ?_ | refine .ite2 ?_ ?_
    | refine .ite1 ?_ ?_ | refine (State.endCmd_keeps _ _ _ _ _).via ?_
    | refine (State.sysRead_keeps _ _ _ _ _).via ?_ | refine (State.setCmd_keeps _ _ _).via ?_
    | refine (State.hostWords_keeps _ _ _).via ?_ | refine .getD ?_ ?_ | intro _ | split | dsimp only
theorem State.holdDma_keeps (s : State) (i : Nat) :
    Keeps s (State.holdDma s i) := by
  unfold State.holdDma
  with_reducible repeat' first
    | simp only [Keeps.upd_iff] | assumption | exact .refl _ | refine (State.setCmd_keeps _ _ _).via ?_
    | refine .getD ?_ ?_ | intro _ | dsimp only
theorem State.dmaUsed_keeps (s : State) :
    Keeps s (State.dmaUsed s) := by
  unfold State.dmaUsed
  with_reducible repeat' first
    | exact .refl _ | refine (State.putBit_keeps _ _ _ _).via ?_
theorem State.copyStep_keeps (s : State) (r op : Nat) (ok : Bool) (f : State → Nat → State) (hf : ∀ x y, Keeps x (f x y)) :
    Keeps s (State.copyStep s r op ok f) := by
  unfold State.copyStep
  with_reducible repeat' first
    | simp only [Keeps.upd_iff] | assumption | exact .refl _ | refine .ite ?_ ?_ | refine (hf _ _).via ?_
    | refine (State.endCmd_keeps _ _ _ _ _).via ?_ | refine (State.holdDma_keeps _ _).via ?_
    | refine (State.dmaUsed_keeps _).via ?_ | refine (State.copyEnd_keeps _ _).via ?_
    | refine (State.setCmd_keeps _ _ _).via ?_ | intro _ | split | dsimp only
theorem State.hostNop_keeps (s : State) (r : Nat) :
    Keeps s (State.hostNop s r) := by
  unfold State.hostNop
  with_reducible repeat' first
    | simp only [Keeps.upd_iff] | assumption | exact .refl _ | refine (State.endCmd_keeps _ _ _ _ _).via ?_ | intro _
    | split
theorem State.regRead_keeps (s : State) (r : Nat) :
    Keeps s (State.regRead s r) := by
  unfold State.regRead
  with_reducible repeat' first
    | simp only [Keeps.upd_iff] | assumption | exact .refl _ | refine (State.sysRead_keeps _ _ _ _ _).via ?_
    | refine (State.endCmd_keeps _ _ _ _ _).via ?_ | intro _ | split | dsimp only
theorem State.regWrite_keeps (s : State) (r : Nat) :
    Keeps s (State.regWrite s r) := by
  unfold State.regWrite
  with_reducible repeat' first
    | simp only [Keeps.upd_iff] | assumption | exact .refl _ | refine (State.endCmd_keeps _ _ _ _ _).via ?_
    | refine (State.sysWrite_keeps _ _ _ _ _ _).via ?_ | intro _ | split
theorem State.spiFrame_keeps (s : State) (clocks mosi : Nat) (idle mode3 : Bool) (first : Time) :
    Keeps s (State.spiFrame s clocks mosi idle mode3 first) := by
  unfold State.spiFrame
  with_reducible repeat' first
    | simp only [Keeps.upd_iff] | assumption | exact .refl _ | refine .ite ?_ ?_ | refine .ite2 ?_ ?_
    | refine .ite1 ?_ ?_ | refine (State.spiOut_keeps _ _).via ?_ | refine (State.putBit_keeps _ _ _ _).via ?_
    | refine (State.spiDiscard_keeps _ _).via ?_ | refine (State.count_keeps _ _ _ _ _).via ?_
    | refine (State.busRead_keeps _ _ _ _ _).via ?_ | refine (State.busWrite_keeps _ _ _ _ _ _).via ?_ | intro _
    | split | dsimp only
theorem State.txFrame_keeps (s : State) (r : Nat) (b : List Byte) (ok : Bool) :
    Keeps s (State.txFrame s r b ok) := by
  unfold State.txFrame
  with_reducible repeat' first
    | simp only [Keeps.upd_iff] | assumption | exact .refl _ | refine .ite ?_ ?_ | refine .ite2 ?_ ?_
    | refine (State.endCmd_keeps _ _ _ _ _).via ?_ | refine (State.holdDma_keeps _ _).via ?_
    | refine (State.dmaUsed_keeps _).via ?_ | refine (State.raceSendMask_keeps _ _ _).via ?_ | intro _ | split
    | dsimp only
theorem execMemoryWindowWrite_keeps (t : Time) (m : Master) (a : BitVec 27) (w : Width) (be : BitVec 8) (v : DWord) (s : State) :
    KeepsOutcome s (execMemoryWindowWrite t m a w be v s) := by
  unfold execMemoryWindowWrite
  with_reducible repeat' first
    | refine .next ?_ | exact .refl _ | refine (State.sysWrite_keeps _ _ _ _ _ _).via ?_
    | refine (State.tick_keeps _ _).via ?_
theorem execWeirDelivery_keeps (t : Time) (lag : List (Fin 1024)) (s : State) :
    KeepsOutcome s (execWeirDelivery t lag s) := by
  unfold execWeirDelivery
  with_reducible repeat' first
    | refine .next ?_ | assumption | exact .refl _ | refine (State.latchRecords_keeps _).via ?_
    | refine (State.weirEdge_keeps _ _).via ?_ | refine (State.tick_keeps _ _).via ?_ | intro _ | dsimp only
theorem execRegRead_keeps (t : Time) (r : Fin 8) (s : State) :
    KeepsOutcome s (execRegRead t r s) := by
  unfold execRegRead
  with_reducible repeat' first
    | refine .next ?_ | exact .refl _ | refine (State.regRead_keeps _ _).via ?_ | refine (State.tick_keeps _ _).via ?_
theorem execRegWrite_keeps (t : Time) (r : Fin 8) (s : State) :
    KeepsOutcome s (execRegWrite t r s) := by
  unfold execRegWrite
  with_reducible repeat' first
    | refine .next ?_ | exact .refl _ | refine (State.regWrite_keeps _ _).via ?_
    | refine (State.tick_keeps _ _).via ?_
theorem execCopyIn_keeps (t : Time) (r : Fin 8) (data : List Word) (ok : Bool) (s : State) :
    KeepsOutcome s (execCopyIn t r data ok s) := by
  unfold execCopyIn
  with_reducible repeat' first
    | refine .next ?_ | assumption | exact .refl _ | refine (State.copyStep_keeps _ _ _ _ _ ?_).via ?_
    | refine (State.tick_keeps _ _).via ?_ | refine (State.copyInWord_keeps _ _ _).via ?_
    | refine .fold (fun _ _ => ?_) ?_ | intro _ | dsimp only
theorem execCopyOut_keeps (t : Time) (r : Fin 8) (n : Fin 65536) (ok : Bool) (s : State) :
    KeepsOutcome s (execCopyOut t r n ok s) := by
  unfold execCopyOut
  with_reducible repeat' first
    | refine .next ?_ | assumption | exact .refl _ | refine (State.copyStep_keeps _ _ _ _ _ ?_).via ?_
    | refine (State.tick_keeps _ _).via ?_ | refine (State.copyOutWord_keeps _ _).via ?_
    | refine .fold (fun _ _ => ?_) ?_ | intro _ | dsimp only
theorem execTxFrame_keeps (t : Time) (r : Fin 8) (bytes : List Byte) (ok : Bool) (s : State) :
    KeepsOutcome s (execTxFrame t r bytes ok s) := by
  unfold execTxFrame
  with_reducible repeat' first
    | refine .next ?_ | exact .refl _ | refine (State.txFrame_keeps _ _ _ _).via ?_
    | refine (State.tick_keeps _ _).via ?_
theorem execHostNop_keeps (t : Time) (r : Fin 8) (s : State) :
    KeepsOutcome s (execHostNop t r s) := by
  unfold execHostNop
  with_reducible repeat' first
    | refine .next ?_ | exact .refl _ | refine (State.hostNop_keeps _ _).via ?_ | refine (State.tick_keeps _ _).via ?_
theorem execSpiFrame_keeps (t : Time) (clocks : Fin 256) (mosi : BitVec 72) (idle mode3 : Bool) (first : Time) (s : State) :
    KeepsOutcome s (execSpiFrame t clocks mosi idle mode3 first s) := by
  unfold execSpiFrame
  with_reducible repeat' first
    | refine .next ?_ | exact .refl _ | refine (State.spiFrame_keeps _ _ _ _ _ _).via ?_
    | refine (State.tick_keeps _ _).via ?_
theorem execSpiRead_keeps (t : Time) (a : BitVec 24) (mode3 : Bool) (first : Time) (s : State) :
    KeepsOutcome s (execSpiRead t a mode3 first s) := by
  unfold execSpiRead
  with_reducible repeat' first
    | refine .next ?_ | exact .refl _ | refine (State.spiFrame_keeps _ _ _ _ _ _).via ?_
    | refine (State.tick_keeps _ _).via ?_
theorem execSpiWrite_keeps (t : Time) (a : BitVec 24) (v : Word) (mode3 : Bool) (first : Time) (s : State) :
    KeepsOutcome s (execSpiWrite t a v mode3 first s) := by
  unfold execSpiWrite
  with_reducible repeat' first
    | refine .next ?_ | exact .refl _ | refine (State.spiFrame_keeps _ _ _ _ _ _).via ?_
    | refine (State.tick_keeps _ _).via ?_
theorem execSpiNop_keeps (t : Time) (mode3 : Bool) (first : Time) (s : State) :
    KeepsOutcome s (execSpiNop t mode3 first s) := by
  unfold execSpiNop
  with_reducible repeat' first
    | refine .next ?_ | exact .refl _ | refine (State.spiFrame_keeps _ _ _ _ _ _).via ?_
    | refine (State.tick_keeps _ _).via ?_
theorem execSpiReadDone_keeps (t : Time) (s : State) :
    KeepsOutcome s (execSpiReadDone t s) := by
  unfold execSpiReadDone
  with_reducible repeat' first
    | refine .next ?_ | simp only [Keeps.upd_iff] | assumption | exact .refl _ | refine (State.tick_keeps _ _).via ?_
    | intro _ | split | dsimp only
theorem execBar2Read_keeps (t : Time) (a : BitVec 25) (w : Width) (s : State) :
    KeepsOutcome s (execBar2Read t a w s) := by
  unfold execBar2Read
  with_reducible repeat' first
    | refine .next ?_ | simp only [Keeps.upd_iff] | exact .refl _ | refine (State.sysRead_keeps _ _ _ _ _).via ?_
    | refine (State.tick_keeps _ _).via ?_ | dsimp only

end Sys2Proof.Machine
end

