-- ==== Sys2Proof/Laws/KeepsIsaCore.lean ====
section
/-! SUPPORT. The operations of Machine/IsaCore.lean keep the queue and the canonical form (`Keeps`). -/

set_option linter.unusedTactic false
set_option linter.unreachableTactic false
set_option linter.unusedSimpArgs false

namespace Sys2Proof.Machine

theorem plain_keeps (f : CoreSt → Word → List (Nat × Wr)) :
    KeepsSem (plain f) := by
  intro s c w0 w1 e
  unfold plain
  with_reducible repeat' first
    | refine .ok ?_ | assumption | exact .refl _ | intro _ | dsimp only
theorem State.withAccs_keeps (s : State) (c : Nat) (accs : List (Nat × Nat × Bool)) (done : Bool) (k : State → Out) (hk : ∀ x, KeepsOut x (k x)) :
    KeepsOut s (State.withAccs s c accs done k) := by
  unfold State.withAccs
  with_reducible repeat' first
    | exact .stall _ | refine .fault ?_ | simp only [Keeps.upd_iff] | assumption | exact .refl _ | refine .ite ?_ ?_
    | refine .ite2 ?_ ?_ | refine .ite1 ?_ ?_ | refine (hk _).via ?_ | refine (State.eccDouble_keeps _ _).via ?_
    | intro _ | split | dsimp only
theorem State.pairRead_keeps (s : State) (off : Nat) :
    Keeps s (State.pairRead s off).2 := by
  unfold State.pairRead
  with_reducible repeat' first
    | simp only [Keeps.upd_iff] | assumption | exact .refl _ | refine .ite ?_ ?_ | refine .ite2 ?_ ?_
    | refine .ite1 ?_ ?_ | refine (State.cycWaitRead_keeps _).via ?_ | refine (State.readHeader_keeps _ _ _).via ?_
    | refine (State.weirPop_keeps _ _ _ _).via ?_ | refine (State.weirPopWord_keeps _ _ _ _ _).via ?_
    | refine (State.dbgRead_keeps _ _).via ?_ | refine (State.readClear_keeps _ _ _ _).via ?_ | refine .getD ?_ ?_
    | intro _ | split | dsimp only
theorem State.pairWrite_keeps (s : State) (off v : Nat) :
    Keeps s (State.pairWrite s off v) := by
  unfold State.pairWrite
  with_reducible repeat' first
    | simp only [Keeps.upd_iff] | assumption | exact .refl _ | refine .ite ?_ ?_
    | refine (State.writePgCtrl_keeps _ _ _).via ?_ | refine (State.writePgIrq_keeps _ _ _).via ?_
    | refine (State.setRg_keeps _ _ _).via ?_ | refine (State.brakeInject_keeps _).via ?_
    | refine (State.bwWrite_keeps _ _ _ _).via ?_ | refine (State.writeShadow_keeps _ _ _).via ?_
    | refine (State.coreHook_keeps _ _ _ _ _).via ?_ | refine ((State.coreHook_keeps _ _ _ _ _).get ‹_›).via ?_
    | refine (State.brakeHook_keeps _ _ _ _).via ?_ | refine ((State.brakeHook_keeps _ _ _ _).get ‹_›).via ?_
    | refine .getD ?_ ?_ | intro _ | split | dsimp only
theorem State.loadWord_keeps (s : State) (c sp a : Nat) :
    Keeps s (State.loadWord s c sp a).2 := by
  unfold State.loadWord
  with_reducible repeat' first
    | simp only [Keeps.upd_iff] | assumption | exact .refl _ | refine .ite ?_ ?_ | refine .ite2 ?_ ?_
    | refine .ite1 ?_ ?_ | refine (State.eccCorr_keeps _ _ _ _ _).via ?_
    | refine (State.sysRead_keeps _ _ _ _ _).via ?_ | refine (State.pairRead_keeps _ _).via ?_ | intro _ | split
    | dsimp only
theorem State.fetchWord_keeps (s : State) (c a : Nat) :
    Keeps s (State.fetchWord s c a).2 := by
  unfold State.fetchWord
  with_reducible repeat' first
    | exact .refl _ | refine .ite ?_ ?_ | refine .ite2 ?_ ?_ | refine (State.eccCorr_keeps _ _ _ _ _).via ?_ | split
    | dsimp only
theorem State.fetch_keeps (s : State) (c pc : Nat) :
    KeepsExcept s (State.fetch s c pc) := by
  intro x h
  unfold State.fetch at h
  split at h
  · contradiction
  · dsimp only at h
    split at h
    · cases h; exact State.fetchWord_keeps _ _ _
    · split at h
      · contradiction
      · cases h; exact (State.fetchWord_keeps _ _ _).via (State.fetchWord_keeps _ _ _)
theorem State.beginIssue_keeps (s : State) (c : Nat) :
    Keeps s (State.beginIssue s c) := by
  unfold State.beginIssue
  with_reducible repeat' first
    | simp only [Keeps.upd_iff] | assumption | exact .refl _ | refine (State.setCr_keeps _ _ _).via ?_
    | refine (State.landDue_keeps _ _).via ?_ | intro _ | dsimp only
theorem State.armHalt_keeps (s : State) (c why which : Nat) :
    Keeps s (State.armHalt s c why which) := by
  unfold State.armHalt
  with_reducible repeat' first
    | simp only [Keeps.upd_iff] | assumption | exact .refl _ | refine .ite ?_ ?_
    | refine (State.setCr_keeps _ _ _).via ?_ | refine (State.putBit_keeps _ _ _ _).via ?_ | intro _ | split
    | dsimp only
theorem State.waittIssue_keeps (s : State) (c a l : Nat) :
    Keeps s (State.waittIssue s c a l) := by
  unfold State.waittIssue
  with_reducible repeat' first
    | simp only [Keeps.upd_iff] | assumption | exact .refl _ | refine .ite ?_ ?_
    | refine (State.setCr_keeps _ _ _).via ?_ | refine (State.budgetEnd_keeps _ _).via ?_
    | refine (State.drain_keeps _ _).via ?_ | refine (State.stopNow_keeps _ _).via ?_
    | refine (State.waittDeliver_keeps _ _ _ _ _).via ?_ | refine (State.setCoreState_keeps _ _ _).via ?_ | intro _
    | split | dsimp only
theorem State.finish_keeps (s : State) (c len : Nat) (e : Eff) :
    Keeps s (State.finish s c len e) := by
  unfold State.finish
  with_reducible repeat' first
    | simp only [Keeps.upd_iff] | assumption | exact .refl _ | refine .ite ?_ ?_ | refine .ite2 ?_ ?_
    | refine .ite1 ?_ ?_ | refine (State.setRg64_keeps _ _ _).via ?_ | refine (State.setCr_keeps _ _ _).via ?_
    | refine (State.landDue_keeps _ _).via ?_ | refine (State.sysWrite_keeps _ _ _ _ _ _).via ?_
    | refine (State.pairWrite_keeps _ _ _).via ?_ | refine (State.armHalt_keeps _ _ _ _).via ?_
    | refine (State.waittIssue_keeps _ _ _ _).via ?_ | refine .fold (fun _ _ => ?_) ?_
    | refine .fold1 (fun _ _ => ?_) ?_ | refine .fold2 (fun _ _ => ?_) ?_ | intro _ | split | dsimp only
theorem State.failAt_keeps (s : State) (c cause : Nat) (addr : Option Nat) :
    Keeps s (State.failAt s c cause addr) := by
  unfold State.failAt
  with_reducible repeat' first
    | simp only [Keeps.upd_iff] | assumption | exact .refl _ | refine .ite ?_ ?_
    | refine (State.setCr_keeps _ _ _).via ?_ | refine (State.faultAt_keeps _ _ _ _ _).via ?_
    | refine (State.islandFault_keeps _ _).via ?_ | refine (State.coreFault_keeps _ _ _ _ _).via ?_ | intro _ | split
    | dsimp only
theorem State.injectedIssue_keeps (s : State) (c : Nat) :
    KeepsOpt s (State.injectedIssue s c) := by
  unfold State.injectedIssue
  with_reducible repeat' first
    | exact .none _ | refine .some ?_ | exact .refl _ | refine .ite ?_ ?_ | refine (State.putBit_keeps _ _ _ _).via ?_
    | refine (State.islandFault_keeps _ _).via ?_ | refine (State.postNow_keeps _ _ _ _).via ?_
    | refine (State.failAt_keeps _ _ _ _).via ?_ | split | dsimp only
theorem State.issue_keeps (s0 : State) (c : Nat) (o : Op) (m : Sem) (done : Bool) (hm : KeepsSem m) :
    Keeps s0 (State.issue s0 c o m done) := by
  unfold State.issue
  refine .ite (.refl _) ?_
  extract_lets s
  have hs : Keeps s0 s := State.beginIssue_keeps _ _
  clear_value s
  split
  · exact (State.failAt_keeps _ _ _ _).via (.ite ((State.eccDouble_keeps _ _).via hs) hs)
  · rename_i w0 w1 s1 h1
    have h1 := ((State.fetch_keeps _ _ _).get h1).via hs
    have hi : KeepsOpt s1 (if done = true then none else s1.injectedIssue c) := by
      cases done
      · exact State.injectedIssue_keeps _ _
      · exact .none _
    refine .ite (.refl _) ?_
    split
    · exact (hi.get ‹_›).via h1
    · refine .ite ((State.failAt_keeps _ _ _ _).via h1) (.ite ((State.failAt_keeps _ _ _ _).via h1) ?_)
      have h2 := hm s1 c w0 w1 done
      generalize m s1 c w0 w1 done = r at h2 ⊢
      cases r with
      | fault s2 cause addr => exact (State.failAt_keeps _ _ _ _).via (Keeps.via h2 h1)
      | stall => exact State.setCr_keeps _ _ _
      | ok s2 e => exact (State.finish_keeps _ _ _ _).via (Keeps.via h2 h1)

end Sys2Proof.Machine
end

