-- ==== Sys2Proof/Laws/KeepsIsaFlow.lean ====
section
/-! SUPPORT. The operations of Machine/IsaFlow.lean keep the queue and the canonical form (`Keeps`). -/

set_option linter.unusedTactic false
set_option linter.unreachableTactic false
set_option linter.unusedSimpArgs false

namespace Sys2Proof.Machine

theorem jump_keeps (s : State) (target : Option Nat) (branch : Bool) :
    KeepsOut s (jump s target branch) := by
  unfold jump
  with_reducible repeat' first
    | refine .ok ?_ | exact .refl _
theorem callTo_keeps (s : State) (c target : Nat) :
    KeepsOut s (callTo s c target) := by
  unfold callTo
  with_reducible repeat' first
    | refine .ok ?_ | exact .refl _
theorem semBcc_keeps :
    KeepsSem (semBcc) := by
  intro s c w0 w1 e
  unfold semBcc
  with_reducible repeat' first
    | assumption | exact .refl _ | refine .ite ?_ ?_ | refine (jump_keeps _ _ _).via ?_ | intro _ | split | dsimp only
theorem semCall_keeps :
    KeepsSem (semCall) := by
  intro s c w0 w1 e
  unfold semCall
  with_reducible repeat' first
    | assumption | exact .refl _ | refine (callTo_keeps _ _ _).via ?_ | intro _ | dsimp only
theorem semBri_keeps :
    KeepsSem (semBri) := by
  intro s c w0 w1 e
  unfold semBri
  with_reducible repeat' first
    | assumption | exact .refl _ | refine .ite ?_ ?_ | refine (jump_keeps _ _ _).via ?_ | intro _ | split | dsimp only
theorem semCalli_keeps :
    KeepsSem (semCalli) := by
  intro s c w0 w1 e
  unfold semCalli
  with_reducible repeat' first
    | assumption | exact .refl _ | refine (callTo_keeps _ _ _).via ?_ | intro _ | dsimp only
theorem semRet_keeps :
    KeepsSem (semRet) := by
  intro s c w0 w1 e
  unfold semRet
  with_reducible repeat' first
    | assumption | exact .refl _ | refine (jump_keeps _ _ _).via ?_ | intro _ | dsimp only
theorem semRetn_keeps :
    KeepsSem (semRetn) := by
  intro s c w0 w1 e
  unfold semRetn
  with_reducible repeat' first
    | refine .ok ?_ | simp only [Keeps.upd_iff] | assumption | exact .refl _ | refine (State.setCr_keeps _ _ _).via ?_
    | intro _ | dsimp only
theorem semReti_keeps :
    KeepsSem (semReti) := by
  intro s c w0 w1 e
  unfold semReti
  with_reducible repeat' first
    | refine .ok ?_ | assumption | exact .refl _ | intro _ | dsimp only
theorem semNop_keeps :
    KeepsSem (semNop) := by
  intro s c w0 w1 e
  unfold semNop
  with_reducible repeat' first
    | refine .ok ?_ | assumption | exact .refl _ | intro _ | dsimp only
theorem semBkpt_keeps  :
    KeepsSem semBkpt := by
  intro s c w0 w1 e
  unfold semBkpt
  with_reducible repeat' first
    | refine .ok ?_ | assumption | exact .refl _ | intro _ | dsimp only
theorem semRpt_keeps :
    KeepsSem (semRpt) := by
  intro s c w0 w1 e
  unfold semRpt
  with_reducible repeat' first
    | refine .ok ?_ | assumption | exact .refl _ | intro _ | dsimp only
theorem newLoop_keeps (s : State) (c start end_ count : Nat) :
    KeepsOut s (newLoop s c start end_ count) := by
  unfold newLoop
  with_reducible repeat' first
    | refine .ok ?_ | refine .fault ?_ | exact .refl _ | refine .ite ?_ ?_ | split
theorem semBrpt_keeps :
    KeepsSem (semBrpt) := by
  intro s c w0 w1 e
  unfold semBrpt
  with_reducible repeat' first
    | assumption | exact .refl _ | refine (newLoop_keeps _ _ _ _ _).via ?_ | intro _ | dsimp only
theorem semBrptL_keeps :
    KeepsSem (semBrptL) := by
  intro s c w0 w1 e
  unfold semBrptL
  with_reducible repeat' first
    | assumption | exact .refl _ | refine .ite ?_ ?_ | refine (newLoop_keeps _ _ _ _ _).via ?_ | intro _ | split
    | dsimp only
theorem execOpBcc_keeps (t : Time) (c : Fin 33) (s : State) :
    KeepsOutcome s (execOpBcc t c s) := by
  unfold execOpBcc
  with_reducible repeat' first
    | refine .next ?_ | exact .refl _ | refine (State.issue_keeps _ _ _ _ _ ?_).via ?_
    | refine (State.tick_keeps _ _).via ?_ | exact semBcc_keeps | refine semBcc_keeps.app ?_ | intro _
theorem execOpCall_keeps (t : Time) (c : Fin 33) (s : State) :
    KeepsOutcome s (execOpCall t c s) := by
  unfold execOpCall
  with_reducible repeat' first
    | refine .next ?_ | exact .refl _ | refine (State.issue_keeps _ _ _ _ _ ?_).via ?_
    | refine (State.tick_keeps _ _).via ?_ | exact semCall_keeps | refine semCall_keeps.app ?_ | intro _
theorem execOpBri_keeps (t : Time) (c : Fin 33) (s : State) :
    KeepsOutcome s (execOpBri t c s) := by
  unfold execOpBri
  with_reducible repeat' first
    | refine .next ?_ | exact .refl _ | refine (State.issue_keeps _ _ _ _ _ ?_).via ?_
    | refine (State.tick_keeps _ _).via ?_ | exact semBri_keeps | refine semBri_keeps.app ?_ | intro _
theorem execOpCalli_keeps (t : Time) (c : Fin 33) (s : State) :
    KeepsOutcome s (execOpCalli t c s) := by
  unfold execOpCalli
  with_reducible repeat' first
    | refine .next ?_ | exact .refl _ | refine (State.issue_keeps _ _ _ _ _ ?_).via ?_
    | refine (State.tick_keeps _ _).via ?_ | exact semCalli_keeps | refine semCalli_keeps.app ?_ | intro _
theorem execOpRet_keeps (t : Time) (c : Fin 33) (s : State) :
    KeepsOutcome s (execOpRet t c s) := by
  unfold execOpRet
  with_reducible repeat' first
    | refine .next ?_ | exact .refl _ | refine (State.issue_keeps _ _ _ _ _ ?_).via ?_
    | refine (State.tick_keeps _ _).via ?_ | exact semRet_keeps | refine semRet_keeps.app ?_ | intro _
theorem execOpRetn_keeps (t : Time) (c : Fin 33) (s : State) :
    KeepsOutcome s (execOpRetn t c s) := by
  unfold execOpRetn
  with_reducible repeat' first
    | refine .next ?_ | exact .refl _ | refine (State.issue_keeps _ _ _ _ _ ?_).via ?_
    | refine (State.tick_keeps _ _).via ?_ | exact semRetn_keeps | refine semRetn_keeps.app ?_ | intro _
theorem execOpReti_keeps (t : Time) (c : Fin 33) (s : State) :
    KeepsOutcome s (execOpReti t c s) := by
  unfold execOpReti
  with_reducible repeat' first
    | refine .next ?_ | exact .refl _ | refine (State.issue_keeps _ _ _ _ _ ?_).via ?_
    | refine (State.tick_keeps _ _).via ?_ | exact semReti_keeps | refine semReti_keeps.app ?_ | intro _
theorem execOpNop_keeps (t : Time) (c : Fin 33) (s : State) :
    KeepsOutcome s (execOpNop t c s) := by
  unfold execOpNop
  with_reducible repeat' first
    | refine .next ?_ | exact .refl _ | refine (State.issue_keeps _ _ _ _ _ ?_).via ?_
    | refine (State.tick_keeps _ _).via ?_ | exact semNop_keeps | refine semNop_keeps.app ?_ | intro _
theorem execOpBkpt_keeps (t : Time) (c : Fin 33) (s : State) :
    KeepsOutcome s (execOpBkpt t c s) := by
  unfold execOpBkpt
  with_reducible repeat' first
    | refine .next ?_ | exact .refl _ | refine (State.issue_keeps _ _ _ _ _ ?_).via ?_
    | refine (State.tick_keeps _ _).via ?_ | exact semBkpt_keeps | refine semBkpt_keeps.app ?_ | intro _
theorem execOpRpt_keeps (t : Time) (c : Fin 33) (s : State) :
    KeepsOutcome s (execOpRpt t c s) := by
  unfold execOpRpt
  with_reducible repeat' first
    | refine .next ?_ | exact .refl _ | refine (State.issue_keeps _ _ _ _ _ ?_).via ?_
    | refine (State.tick_keeps _ _).via ?_ | exact semRpt_keeps | refine semRpt_keeps.app ?_ | intro _
theorem execOpBrpt_keeps (t : Time) (c : Fin 33) (s : State) :
    KeepsOutcome s (execOpBrpt t c s) := by
  unfold execOpBrpt
  with_reducible repeat' first
    | refine .next ?_ | exact .refl _ | refine (State.issue_keeps _ _ _ _ _ ?_).via ?_
    | refine (State.tick_keeps _ _).via ?_ | exact semBrpt_keeps | refine semBrpt_keeps.app ?_ | intro _
theorem execOpBrptL_keeps (t : Time) (c : Fin 33) (s : State) :
    KeepsOutcome s (execOpBrptL t c s) := by
  unfold execOpBrptL
  with_reducible repeat' first
    | refine .next ?_ | exact .refl _ | refine (State.issue_keeps _ _ _ _ _ ?_).via ?_
    | refine (State.tick_keeps _ _).via ?_ | exact semBrptL_keeps | refine semBrptL_keeps.app ?_ | intro _

end Sys2Proof.Machine
end

