-- ==== Sys2Proof/Laws/KeepsIsaInt.lean ====
section
/-! SUPPORT. The operations of Machine/IsaInt.lean keep the queue and the canonical form (`Keeps`). -/

set_option linter.unusedTactic false
set_option linter.unreachableTactic false
set_option linter.unusedSimpArgs false

namespace Sys2Proof.Machine

theorem execOpAdd_keeps (t : Time) (c : Fin 33) (s : State) :
    KeepsOutcome s (execOpAdd t c s) := by
  unfold execOpAdd
  with_reducible repeat' first
    | refine .next ?_ | exact .refl _ | refine (State.issue_keeps _ _ _ _ _ ?_).via ?_
    | refine (State.tick_keeps _ _).via ?_ | exact (plain_keeps _) | refine (plain_keeps _).app ?_ | intro _
theorem execOpSub_keeps (t : Time) (c : Fin 33) (s : State) :
    KeepsOutcome s (execOpSub t c s) := by
  unfold execOpSub
  with_reducible repeat' first
    | refine .next ?_ | exact .refl _ | refine (State.issue_keeps _ _ _ _ _ ?_).via ?_
    | refine (State.tick_keeps _ _).via ?_ | exact (plain_keeps _) | refine (plain_keeps _).app ?_ | intro _
theorem execOpNeg_keeps (t : Time) (c : Fin 33) (s : State) :
    KeepsOutcome s (execOpNeg t c s) := by
  unfold execOpNeg
  with_reducible repeat' first
    | refine .next ?_ | exact .refl _ | refine (State.issue_keeps _ _ _ _ _ ?_).via ?_
    | refine (State.tick_keeps _ _).via ?_ | exact (plain_keeps _) | refine (plain_keeps _).app ?_ | intro _
theorem execOpAbs_keeps (t : Time) (c : Fin 33) (s : State) :
    KeepsOutcome s (execOpAbs t c s) := by
  unfold execOpAbs
  with_reducible repeat' first
    | refine .next ?_ | exact .refl _ | refine (State.issue_keeps _ _ _ _ _ ?_).via ?_
    | refine (State.tick_keeps _ _).via ?_ | exact (plain_keeps _) | refine (plain_keeps _).app ?_ | intro _
theorem execOpAnd_keeps (t : Time) (c : Fin 33) (s : State) :
    KeepsOutcome s (execOpAnd t c s) := by
  unfold execOpAnd
  with_reducible repeat' first
    | refine .next ?_ | exact .refl _ | refine (State.issue_keeps _ _ _ _ _ ?_).via ?_
    | refine (State.tick_keeps _ _).via ?_ | exact (plain_keeps _) | refine (plain_keeps _).app ?_ | intro _
theorem execOpOr_keeps (t : Time) (c : Fin 33) (s : State) :
    KeepsOutcome s (execOpOr t c s) := by
  unfold execOpOr
  with_reducible repeat' first
    | refine .next ?_ | exact .refl _ | refine (State.issue_keeps _ _ _ _ _ ?_).via ?_
    | refine (State.tick_keeps _ _).via ?_ | exact (plain_keeps _) | refine (plain_keeps _).app ?_ | intro _
theorem execOpXor_keeps (t : Time) (c : Fin 33) (s : State) :
    KeepsOutcome s (execOpXor t c s) := by
  unfold execOpXor
  with_reducible repeat' first
    | refine .next ?_ | exact .refl _ | refine (State.issue_keeps _ _ _ _ _ ?_).via ?_
    | refine (State.tick_keeps _ _).via ?_ | exact (plain_keeps _) | refine (plain_keeps _).app ?_ | intro _
theorem execOpNot_keeps (t : Time) (c : Fin 33) (s : State) :
    KeepsOutcome s (execOpNot t c s) := by
  unfold execOpNot
  with_reducible repeat' first
    | refine .next ?_ | exact .refl _ | refine (State.issue_keeps _ _ _ _ _ ?_).via ?_
    | refine (State.tick_keeps _ _).via ?_ | exact (plain_keeps _) | refine (plain_keeps _).app ?_ | intro _
theorem execOpMin_keeps (t : Time) (c : Fin 33) (s : State) :
    KeepsOutcome s (execOpMin t c s) := by
  unfold execOpMin
  with_reducible repeat' first
    | refine .next ?_ | exact .refl _ | refine (State.issue_keeps _ _ _ _ _ ?_).via ?_
    | refine (State.tick_keeps _ _).via ?_ | exact (plain_keeps _) | refine (plain_keeps _).app ?_ | intro _
theorem execOpMax_keeps (t : Time) (c : Fin 33) (s : State) :
    KeepsOutcome s (execOpMax t c s) := by
  unfold execOpMax
  with_reducible repeat' first
    | refine .next ?_ | exact .refl _ | refine (State.issue_keeps _ _ _ _ _ ?_).via ?_
    | refine (State.tick_keeps _ _).via ?_ | exact (plain_keeps _) | refine (plain_keeps _).app ?_ | intro _
theorem execOpMov_keeps (t : Time) (c : Fin 33) (s : State) :
    KeepsOutcome s (execOpMov t c s) := by
  unfold execOpMov
  with_reducible repeat' first
    | refine .next ?_ | exact .refl _ | refine (State.issue_keeps _ _ _ _ _ ?_).via ?_
    | refine (State.tick_keeps _ _).via ?_ | exact (plain_keeps _) | refine (plain_keeps _).app ?_ | intro _
theorem execOpCmp_keeps (t : Time) (c : Fin 33) (s : State) :
    KeepsOutcome s (execOpCmp t c s) := by
  unfold execOpCmp
  with_reducible repeat' first
    | refine .next ?_ | exact .refl _ | refine (State.issue_keeps _ _ _ _ _ ?_).via ?_
    | refine (State.tick_keeps _ _).via ?_ | exact (plain_keeps _) | refine (plain_keeps _).app ?_ | intro _
theorem execOpCls_keeps (t : Time) (c : Fin 33) (s : State) :
    KeepsOutcome s (execOpCls t c s) := by
  unfold execOpCls
  with_reducible repeat' first
    | refine .next ?_ | exact .refl _ | refine (State.issue_keeps _ _ _ _ _ ?_).via ?_
    | refine (State.tick_keeps _ _).via ?_ | exact (plain_keeps _) | refine (plain_keeps _).app ?_ | intro _
theorem execOpShl_keeps (t : Time) (c : Fin 33) (s : State) :
    KeepsOutcome s (execOpShl t c s) := by
  unfold execOpShl
  with_reducible repeat' first
    | refine .next ?_ | exact .refl _ | refine (State.issue_keeps _ _ _ _ _ ?_).via ?_
    | refine (State.tick_keeps _ _).via ?_ | exact (plain_keeps _) | refine (plain_keeps _).app ?_ | intro _
theorem execOpShra_keeps (t : Time) (c : Fin 33) (s : State) :
    KeepsOutcome s (execOpShra t c s) := by
  unfold execOpShra
  with_reducible repeat' first
    | refine .next ?_ | exact .refl _ | refine (State.issue_keeps _ _ _ _ _ ?_).via ?_
    | refine (State.tick_keeps _ _).via ?_ | exact (plain_keeps _) | refine (plain_keeps _).app ?_ | intro _
theorem execOpShrl_keeps (t : Time) (c : Fin 33) (s : State) :
    KeepsOutcome s (execOpShrl t c s) := by
  unfold execOpShrl
  with_reducible repeat' first
    | refine .next ?_ | exact .refl _ | refine (State.issue_keeps _ _ _ _ _ ?_).via ?_
    | refine (State.tick_keeps _ _).via ?_ | exact (plain_keeps _) | refine (plain_keeps _).app ?_ | intro _
theorem execOpShli_keeps (t : Time) (c : Fin 33) (s : State) :
    KeepsOutcome s (execOpShli t c s) := by
  unfold execOpShli
  with_reducible repeat' first
    | refine .next ?_ | exact .refl _ | refine (State.issue_keeps _ _ _ _ _ ?_).via ?_
    | refine (State.tick_keeps _ _).via ?_ | exact (plain_keeps _) | refine (plain_keeps _).app ?_ | intro _
theorem execOpShrai_keeps (t : Time) (c : Fin 33) (s : State) :
    KeepsOutcome s (execOpShrai t c s) := by
  unfold execOpShrai
  with_reducible repeat' first
    | refine .next ?_ | exact .refl _ | refine (State.issue_keeps _ _ _ _ _ ?_).via ?_
    | refine (State.tick_keeps _ _).via ?_ | exact (plain_keeps _) | refine (plain_keeps _).app ?_ | intro _
theorem execOpShrli_keeps (t : Time) (c : Fin 33) (s : State) :
    KeepsOutcome s (execOpShrli t c s) := by
  unfold execOpShrli
  with_reducible repeat' first
    | refine .next ?_ | exact .refl _ | refine (State.issue_keeps _ _ _ _ _ ?_).via ?_
    | refine (State.tick_keeps _ _).via ?_ | exact (plain_keeps _) | refine (plain_keeps _).app ?_ | intro _
theorem execOpAddi_keeps (t : Time) (c : Fin 33) (s : State) :
    KeepsOutcome s (execOpAddi t c s) := by
  unfold execOpAddi
  with_reducible repeat' first
    | refine .next ?_ | exact .refl _ | refine (State.issue_keeps _ _ _ _ _ ?_).via ?_
    | refine (State.tick_keeps _ _).via ?_ | exact (plain_keeps _) | refine (plain_keeps _).app ?_ | intro _
theorem execOpCmpi_keeps (t : Time) (c : Fin 33) (s : State) :
    KeepsOutcome s (execOpCmpi t c s) := by
  unfold execOpCmpi
  with_reducible repeat' first
    | refine .next ?_ | exact .refl _ | refine (State.issue_keeps _ _ _ _ _ ?_).via ?_
    | refine (State.tick_keeps _ _).via ?_ | exact (plain_keeps _) | refine (plain_keeps _).app ?_ | intro _
theorem execOpMovi_keeps (t : Time) (c : Fin 33) (s : State) :
    KeepsOutcome s (execOpMovi t c s) := by
  unfold execOpMovi
  with_reducible repeat' first
    | refine .next ?_ | exact .refl _ | refine (State.issue_keeps _ _ _ _ _ ?_).via ?_
    | refine (State.tick_keeps _ _).via ?_ | exact (plain_keeps _) | refine (plain_keeps _).app ?_ | intro _
theorem execOpMovhi_keeps (t : Time) (c : Fin 33) (s : State) :
    KeepsOutcome s (execOpMovhi t c s) := by
  unfold execOpMovhi
  with_reducible repeat' first
    | refine .next ?_ | exact .refl _ | refine (State.issue_keeps _ _ _ _ _ ?_).via ?_
    | refine (State.tick_keeps _ _).via ?_ | exact (plain_keeps _) | refine (plain_keeps _).app ?_ | intro _
theorem semMovl_keeps :
    KeepsSem (semMovl) := by
  intro s c w0 w1 e
  unfold semMovl
  with_reducible repeat' first
    | refine .ok ?_ | assumption | exact .refl _ | intro _ | dsimp only
theorem execOpMovl_keeps (t : Time) (c : Fin 33) (s : State) :
    KeepsOutcome s (execOpMovl t c s) := by
  unfold execOpMovl
  with_reducible repeat' first
    | refine .next ?_ | exact .refl _ | refine (State.issue_keeps _ _ _ _ _ ?_).via ?_
    | refine (State.tick_keeps _ _).via ?_ | exact semMovl_keeps | refine semMovl_keeps.app ?_ | intro _
theorem execOpMovpi_keeps (t : Time) (c : Fin 33) (s : State) :
    KeepsOutcome s (execOpMovpi t c s) := by
  unfold execOpMovpi
  with_reducible repeat' first
    | refine .next ?_ | exact .refl _ | refine (State.issue_keeps _ _ _ _ _ ?_).via ?_
    | refine (State.tick_keeps _ _).via ?_ | exact (plain_keeps _) | refine (plain_keeps _).app ?_ | intro _
theorem semMovs_keeps :
    KeepsSem (semMovs) := by
  intro s c w0 w1 e
  unfold semMovs
  with_reducible repeat' first
    | refine .ok ?_ | assumption | exact .refl _ | refine .ite ?_ ?_ | intro _ | split | dsimp only
theorem execOpMovs_keeps (t : Time) (c : Fin 33) (s : State) :
    KeepsOutcome s (execOpMovs t c s) := by
  unfold execOpMovs
  with_reducible repeat' first
    | refine .next ?_ | exact .refl _ | refine (State.issue_keeps _ _ _ _ _ ?_).via ?_
    | refine (State.tick_keeps _ _).via ?_ | exact semMovs_keeps | refine semMovs_keeps.app ?_ | intro _

end Sys2Proof.Machine
end

