-- ==== Sys2Proof/Laws/KeepsIsaMac.lean ====
section
/-! SUPPORT. The operations of Machine/IsaMac.lean keep the queue and the canonical form (`Keeps`). -/

set_option linter.unusedTactic false
set_option linter.unreachableTactic false
set_option linter.unusedSimpArgs false

namespace Sys2Proof.Machine

theorem semFtap_keeps :
    KeepsSem (semFtap) := by
  intro s c w0 w1 e
  unfold semFtap
  with_reducible repeat' first
    | exact .stall _ | refine .ok ?_ | simp only [Keeps.upd_iff] | assumption | exact .refl _
    | refine (State.withAccs_keeps _ _ _ _ _ ?_).via ?_ | refine (State.loadWord_keeps _ _ _ _).via ?_ | intro _
    | split | dsimp only
theorem execOpMpy_keeps (t : Time) (c : Fin 33) (s : State) :
    KeepsOutcome s (execOpMpy t c s) := by
  unfold execOpMpy
  with_reducible repeat' first
    | refine .next ?_ | exact .refl _ | refine (State.issue_keeps _ _ _ _ _ ?_).via ?_
    | refine (State.tick_keeps _ _).via ?_ | exact (plain_keeps _) | refine (plain_keeps _).app ?_ | intro _
theorem execOpMac_keeps (t : Time) (c : Fin 33) (s : State) :
    KeepsOutcome s (execOpMac t c s) := by
  unfold execOpMac
  with_reducible repeat' first
    | refine .next ?_ | exact .refl _ | refine (State.issue_keeps _ _ _ _ _ ?_).via ?_
    | refine (State.tick_keeps _ _).via ?_ | exact (plain_keeps _) | refine (plain_keeps _).app ?_ | intro _
theorem execOpMpyd_keeps (t : Time) (c : Fin 33) (s : State) :
    KeepsOutcome s (execOpMpyd t c s) := by
  unfold execOpMpyd
  with_reducible repeat' first
    | refine .next ?_ | exact .refl _ | refine (State.issue_keeps _ _ _ _ _ ?_).via ?_
    | refine (State.tick_keeps _ _).via ?_ | exact (plain_keeps _) | refine (plain_keeps _).app ?_ | intro _
theorem execOpMacd_keeps (t : Time) (c : Fin 33) (s : State) :
    KeepsOutcome s (execOpMacd t c s) := by
  unfold execOpMacd
  with_reducible repeat' first
    | refine .next ?_ | exact .refl _ | refine (State.issue_keeps _ _ _ _ _ ?_).via ?_
    | refine (State.tick_keeps _ _).via ?_ | exact (plain_keeps _) | refine (plain_keeps _).app ?_ | intro _
theorem execOpFtap_keeps (t : Time) (c : Fin 33) (s : State) :
    KeepsOutcome s (execOpFtap t c s) := by
  unfold execOpFtap
  with_reducible repeat' first
    | refine .next ?_ | exact .refl _ | refine (State.issue_keeps _ _ _ _ _ ?_).via ?_
    | refine (State.tick_keeps _ _).via ?_ | exact semFtap_keeps | refine semFtap_keeps.app ?_ | intro _
theorem execOpClra_keeps (t : Time) (c : Fin 33) (s : State) :
    KeepsOutcome s (execOpClra t c s) := by
  unfold execOpClra
  with_reducible repeat' first
    | refine .next ?_ | exact .refl _ | refine (State.issue_keeps _ _ _ _ _ ?_).via ?_
    | refine (State.tick_keeps _ _).via ?_ | exact (plain_keeps _) | refine (plain_keeps _).app ?_ | intro _
theorem execOpMova_keeps (t : Time) (c : Fin 33) (s : State) :
    KeepsOutcome s (execOpMova t c s) := by
  unfold execOpMova
  with_reducible repeat' first
    | refine .next ?_ | exact .refl _ | refine (State.issue_keeps _ _ _ _ _ ?_).via ?_
    | refine (State.tick_keeps _ _).via ?_ | exact (plain_keeps _) | refine (plain_keeps _).app ?_ | intro _
theorem execOpAdda_keeps (t : Time) (c : Fin 33) (s : State) :
    KeepsOutcome s (execOpAdda t c s) := by
  unfold execOpAdda
  with_reducible repeat' first
    | refine .next ?_ | exact .refl _ | refine (State.issue_keeps _ _ _ _ _ ?_).via ?_
    | refine (State.tick_keeps _ _).via ?_ | exact (plain_keeps _) | refine (plain_keeps _).app ?_ | intro _
theorem execOpSuba_keeps (t : Time) (c : Fin 33) (s : State) :
    KeepsOutcome s (execOpSuba t c s) := by
  unfold execOpSuba
  with_reducible repeat' first
    | refine .next ?_ | exact .refl _ | refine (State.issue_keeps _ _ _ _ _ ?_).via ?_
    | refine (State.tick_keeps _ _).via ?_ | exact (plain_keeps _) | refine (plain_keeps _).app ?_ | intro _
theorem execOpNega_keeps (t : Time) (c : Fin 33) (s : State) :
    KeepsOutcome s (execOpNega t c s) := by
  unfold execOpNega
  with_reducible repeat' first
    | refine .next ?_ | exact .refl _ | refine (State.issue_keeps _ _ _ _ _ ?_).via ?_
    | refine (State.tick_keeps _ _).via ?_ | exact (plain_keeps _) | refine (plain_keeps _).app ?_ | intro _
theorem execOpAbsa_keeps (t : Time) (c : Fin 33) (s : State) :
    KeepsOutcome s (execOpAbsa t c s) := by
  unfold execOpAbsa
  with_reducible repeat' first
    | refine .next ?_ | exact .refl _ | refine (State.issue_keeps _ _ _ _ _ ?_).via ?_
    | refine (State.tick_keeps _ _).via ?_ | exact (plain_keeps _) | refine (plain_keeps _).app ?_ | intro _
theorem execOpAsr_keeps (t : Time) (c : Fin 33) (s : State) :
    KeepsOutcome s (execOpAsr t c s) := by
  unfold execOpAsr
  with_reducible repeat' first
    | refine .next ?_ | exact .refl _ | refine (State.issue_keeps _ _ _ _ _ ?_).via ?_
    | refine (State.tick_keeps _ _).via ?_ | exact (plain_keeps _) | refine (plain_keeps _).app ?_ | intro _
theorem execOpAsl_keeps (t : Time) (c : Fin 33) (s : State) :
    KeepsOutcome s (execOpAsl t c s) := by
  unfold execOpAsl
  with_reducible repeat' first
    | refine .next ?_ | exact .refl _ | refine (State.issue_keeps _ _ _ _ _ ?_).via ?_
    | refine (State.tick_keeps _ _).via ?_ | exact (plain_keeps _) | refine (plain_keeps _).app ?_ | intro _
theorem execOpLdah_keeps (t : Time) (c : Fin 33) (s : State) :
    KeepsOutcome s (execOpLdah t c s) := by
  unfold execOpLdah
  with_reducible repeat' first
    | refine .next ?_ | exact .refl _ | refine (State.issue_keeps _ _ _ _ _ ?_).via ?_
    | refine (State.tick_keeps _ _).via ?_ | exact (plain_keeps _) | refine (plain_keeps _).app ?_ | intro _
theorem execOpLdax_keeps (t : Time) (c : Fin 33) (s : State) :
    KeepsOutcome s (execOpLdax t c s) := by
  unfold execOpLdax
  with_reducible repeat' first
    | refine .next ?_ | exact .refl _ | refine (State.issue_keeps _ _ _ _ _ ?_).via ?_
    | refine (State.tick_keeps _ _).via ?_ | exact (plain_keeps _) | refine (plain_keeps _).app ?_ | intro _
theorem execOpAddah_keeps (t : Time) (c : Fin 33) (s : State) :
    KeepsOutcome s (execOpAddah t c s) := by
  unfold execOpAddah
  with_reducible repeat' first
    | refine .next ?_ | exact .refl _ | refine (State.issue_keeps _ _ _ _ _ ?_).via ?_
    | refine (State.tick_keeps _ _).via ?_ | exact (plain_keeps _) | refine (plain_keeps _).app ?_ | intro _
theorem execOpAddax_keeps (t : Time) (c : Fin 33) (s : State) :
    KeepsOutcome s (execOpAddax t c s) := by
  unfold execOpAddax
  with_reducible repeat' first
    | refine .next ?_ | exact .refl _ | refine (State.issue_keeps _ _ _ _ _ ?_).via ?_
    | refine (State.tick_keeps _ _).via ?_ | exact (plain_keeps _) | refine (plain_keeps _).app ?_ | intro _
theorem execOpXlo_keeps (t : Time) (c : Fin 33) (s : State) :
    KeepsOutcome s (execOpXlo t c s) := by
  unfold execOpXlo
  with_reducible repeat' first
    | refine .next ?_ | exact .refl _ | refine (State.issue_keeps _ _ _ _ _ ?_).via ?_
    | refine (State.tick_keeps _ _).via ?_ | exact (plain_keeps _) | refine (plain_keeps _).app ?_ | intro _
theorem execOpXhi_keeps (t : Time) (c : Fin 33) (s : State) :
    KeepsOutcome s (execOpXhi t c s) := by
  unfold execOpXhi
  with_reducible repeat' first
    | refine .next ?_ | exact .refl _ | refine (State.issue_keeps _ _ _ _ _ ?_).via ?_
    | refine (State.tick_keeps _ _).via ?_ | exact (plain_keeps _) | refine (plain_keeps _).app ?_ | intro _
theorem execOpXgd_keeps (t : Time) (c : Fin 33) (s : State) :
    KeepsOutcome s (execOpXgd t c s) := by
  unfold execOpXgd
  with_reducible repeat' first
    | refine .next ?_ | exact .refl _ | refine (State.issue_keeps _ _ _ _ _ ?_).via ?_
    | refine (State.tick_keeps _ _).via ?_ | exact (plain_keeps _) | refine (plain_keeps _).app ?_ | intro _
theorem execOpCmpa_keeps (t : Time) (c : Fin 33) (s : State) :
    KeepsOutcome s (execOpCmpa t c s) := by
  unfold execOpCmpa
  with_reducible repeat' first
    | refine .next ?_ | exact .refl _ | refine (State.issue_keeps _ _ _ _ _ ?_).via ?_
    | refine (State.tick_keeps _ _).via ?_ | exact (plain_keeps _) | refine (plain_keeps _).app ?_ | intro _
theorem execOpSatx_keeps (t : Time) (c : Fin 33) (s : State) :
    KeepsOutcome s (execOpSatx t c s) := by
  unfold execOpSatx
  with_reducible repeat' first
    | refine .next ?_ | exact .refl _ | refine (State.issue_keeps _ _ _ _ _ ?_).via ?_
    | refine (State.tick_keeps _ _).via ?_ | exact (plain_keeps _) | refine (plain_keeps _).app ?_ | intro _

end Sys2Proof.Machine
end

