-- ==== Sys2Proof/Laws/KeepsIsaMem.lean ====
section
/-! SUPPORT. The operations of Machine/IsaMem.lean keep the queue and the canonical form (`Keeps`). -/

set_option linter.unusedTactic false
set_option linter.unreachableTactic false
set_option linter.unusedSimpArgs false

namespace Sys2Proof.Machine

theorem semLd_keeps :
    KeepsSem (semLd) := by
  intro s c w0 w1 e
  unfold semLd
  with_reducible repeat' first
    | exact .stall _ | refine .ok ?_ | simp only [Keeps.upd_iff] | assumption | exact .refl _
    | refine (State.withAccs_keeps _ _ _ _ _ ?_).via ?_ | refine (State.loadWord_keeps _ _ _ _).via ?_ | intro _
    | split | dsimp only
theorem semSt_keeps :
    KeepsSem (semSt) := by
  intro s c w0 w1 e
  unfold semSt
  with_reducible repeat' first
    | refine .ok ?_ | simp only [Keeps.upd_iff] | assumption | exact .refl _
    | refine (State.withAccs_keeps _ _ _ _ _ ?_).via ?_ | intro _ | dsimp only
theorem semSta_keeps :
    KeepsSem (semSta) := by
  intro s c w0 w1 e
  unfold semSta
  with_reducible repeat' first
    | refine .ok ?_ | simp only [Keeps.upd_iff] | assumption | exact .refl _
    | refine (State.withAccs_keeps _ _ _ _ _ ?_).via ?_ | intro _ | dsimp only
theorem semLdd_keeps :
    KeepsSem (semLdd) := by
  intro s c w0 w1 e
  unfold semLdd
  with_reducible repeat' first
    | exact .stall _ | refine .ok ?_ | simp only [Keeps.upd_iff] | assumption | exact .refl _
    | refine (State.withAccs_keeps _ _ _ _ _ ?_).via ?_ | refine (State.loadWord_keeps _ _ _ _).via ?_ | intro _
    | split | dsimp only
theorem execOpLd_keeps (t : Time) (c : Fin 33) (s : State) :
    KeepsOutcome s (execOpLd t c s) := by
  unfold execOpLd
  with_reducible repeat' first
    | refine .next ?_ | exact .refl _ | refine (State.issue_keeps _ _ _ _ _ ?_).via ?_
    | refine (State.tick_keeps _ _).via ?_ | exact semLd_keeps | refine semLd_keeps.app ?_ | intro _
theorem execOpSt_keeps (t : Time) (c : Fin 33) (s : State) :
    KeepsOutcome s (execOpSt t c s) := by
  unfold execOpSt
  with_reducible repeat' first
    | refine .next ?_ | exact .refl _ | refine (State.issue_keeps _ _ _ _ _ ?_).via ?_
    | refine (State.tick_keeps _ _).via ?_ | exact semSt_keeps | refine semSt_keeps.app ?_ | intro _
theorem execOpSta_keeps (t : Time) (c : Fin 33) (s : State) :
    KeepsOutcome s (execOpSta t c s) := by
  unfold execOpSta
  with_reducible repeat' first
    | refine .next ?_ | exact .refl _ | refine (State.issue_keeps _ _ _ _ _ ?_).via ?_
    | refine (State.tick_keeps _ _).via ?_ | exact semSta_keeps | refine semSta_keeps.app ?_ | intro _
theorem execOpLdd_keeps (t : Time) (c : Fin 33) (s : State) :
    KeepsOutcome s (execOpLdd t c s) := by
  unfold execOpLdd
  with_reducible repeat' first
    | refine .next ?_ | exact .refl _ | refine (State.issue_keeps _ _ _ _ _ ?_).via ?_
    | refine (State.tick_keeps _ _).via ?_ | exact semLdd_keeps | refine semLdd_keeps.app ?_ | intro _

end Sys2Proof.Machine
end

