-- ==== Sys2Proof/Laws/KeepsIsaPeriod.lean ====
section
/-! SUPPORT. The operations of Machine/IsaPeriod.lean keep the queue and the canonical form (`Keeps`). -/

set_option linter.unusedTactic false
set_option linter.unreachableTactic false
set_option linter.unusedSimpArgs false

namespace Sys2Proof.Machine

theorem semWaitt_keeps  :
    KeepsSem semWaitt := by
  intro s c w0 w1 e
  unfold semWaitt
  with_reducible repeat' first
    | refine .ok ?_ | refine .fault ?_ | assumption | exact .refl _ | refine .ite ?_ ?_ | intro _ | split | dsimp only
theorem semIn_keeps :
    KeepsSem (semIn) := by
  intro s c w0 w1 e
  unfold semIn
  with_reducible repeat' first
    | refine .ok ?_ | refine .fault ?_ | simp only [Keeps.upd_iff] | assumption | exact .refl _ | intro _ | split
    | dsimp only
theorem State.stageOut_keeps (s : State) (c key word : Nat) (v : Word) (f : Frame) :
    Keeps s (State.stageOut s c key word v f) := by
  unfold State.stageOut
  with_reducible repeat' first
    | simp only [Keeps.upd_iff] | assumption | exact .refl _ | refine .ite ?_ ?_
    | refine (State.count_keeps _ _ _ _ _).via ?_ | refine (State.setCr_keeps _ _ _).via ?_ | intro _ | split
    | dsimp only
theorem semOut_keeps :
    KeepsSem (semOut) := by
  intro s c w0 w1 e
  unfold semOut
  with_reducible repeat' first
    | refine .ok ?_ | refine .fault ?_ | simp only [Keeps.upd_iff] | assumption | exact .refl _
    | refine (State.stageOut_keeps _ _ _ _ _ _).via ?_ | intro _ | split | dsimp only
theorem semTrc_keeps :
    KeepsSem (semTrc) := by
  intro s c w0 w1 e
  unfold semTrc
  with_reducible repeat' first
    | refine .ok ?_ | simp only [Keeps.upd_iff] | assumption | exact .refl _ | refine .ite ?_ ?_ | refine .ite2 ?_ ?_
    | refine .ite1 ?_ ?_ | refine (State.setCr_keeps _ _ _).via ?_ | refine (State.count_keeps _ _ _ _ _).via ?_
    | intro _ | split | dsimp only
theorem execOpWaitt_keeps (t : Time) (c : Fin 33) (s : State) :
    KeepsOutcome s (execOpWaitt t c s) := by
  unfold execOpWaitt
  with_reducible repeat' first
    | refine .next ?_ | exact .refl _ | refine (State.issue_keeps _ _ _ _ _ ?_).via ?_
    | refine (State.tick_keeps _ _).via ?_ | exact semWaitt_keeps | refine semWaitt_keeps.app ?_ | intro _
theorem execOpIn_keeps (t : Time) (c : Fin 33) (s : State) :
    KeepsOutcome s (execOpIn t c s) := by
  unfold execOpIn
  with_reducible repeat' first
    | refine .next ?_ | exact .refl _ | refine (State.issue_keeps _ _ _ _ _ ?_).via ?_
    | refine (State.tick_keeps _ _).via ?_ | exact semIn_keeps | refine semIn_keeps.app ?_ | intro _
theorem execOpOut_keeps (t : Time) (c : Fin 33) (s : State) :
    KeepsOutcome s (execOpOut t c s) := by
  unfold execOpOut
  with_reducible repeat' first
    | refine .next ?_ | exact .refl _ | refine (State.issue_keeps _ _ _ _ _ ?_).via ?_
    | refine (State.tick_keeps _ _).via ?_ | exact semOut_keeps | refine semOut_keeps.app ?_ | intro _
theorem execOpTrc_keeps (t : Time) (c : Fin 33) (s : State) :
    KeepsOutcome s (execOpTrc t c s) := by
  unfold execOpTrc
  with_reducible repeat' first
    | refine .next ?_ | exact .refl _ | refine (State.issue_keeps _ _ _ _ _ ?_).via ?_
    | refine (State.tick_keeps _ _).via ?_ | exact semTrc_keeps | refine semTrc_keeps.app ?_ | intro _
theorem State.orphanDone_keeps (s : State) (c : Nat) :
    Keeps s (State.orphanDone s c) := by
  unfold State.orphanDone
  with_reducible repeat' first
    | simp only [Keeps.upd_iff] | assumption | exact .refl _ | refine (State.sysRead_keeps _ _ _ _ _).via ?_
    | refine (State.sysWrite_keeps _ _ _ _ _ _).via ?_ | refine (State.setCr_keeps _ _ _).via ?_
    | refine .fold (fun _ _ => ?_) ?_ | refine .fold1 (fun _ _ => ?_) ?_ | refine .fold2 (fun _ _ => ?_) ?_ | intro _
    | split | dsimp only
theorem State.accessDone_keeps (s : State) (c : Nat) :
    Keeps s (State.accessDone s c) := by
  unfold State.accessDone
  with_reducible repeat' first
    | simp only [Keeps.upd_iff] | assumption | exact .refl _ | refine .ite ?_ ?_
    | refine (State.orphanDone_keeps _ _).via ?_ | refine (State.issue_keeps _ _ _ _ _ ?_).via ?_
    | exact semLd_keeps | refine semLd_keeps.app ?_ | exact semSt_keeps | refine semSt_keeps.app ?_
    | exact semSta_keeps | refine semSta_keeps.app ?_ | exact semLdd_keeps | refine semLdd_keeps.app ?_
    | exact semFtap_keeps | refine semFtap_keeps.app ?_ | intro _ | split
theorem execSystemWindowDone_keeps (t : Time) (c : Fin 33) (s : State) :
    KeepsOutcome s (execSystemWindowDone t c s) := by
  unfold execSystemWindowDone
  with_reducible repeat' first
    | refine .next ?_ | exact .refl _ | refine (State.accessDone_keeps _ _).via ?_
    | refine (State.tick_keeps _ _).via ?_

end Sys2Proof.Machine
end

