-- ==== Sys2Proof/Laws/KeepsIsaPrim.lean ====
section
/-! SUPPORT. The operations of Machine/IsaPrim.lean keep the queue and the canonical form (`Keeps`). -/

set_option linter.unusedTactic false
set_option linter.unreachableTactic false
set_option linter.unusedSimpArgs false

namespace Sys2Proof.Machine

theorem State.sinValue_keeps (s : State) (a : Nat) :
    Keeps s (State.sinValue s a).2 := by
  unfold State.sinValue
  with_reducible repeat' first
    | simp only [Keeps.upd_iff] | assumption | exact .refl _ | refine .ite ?_ ?_ | refine .ite2 ?_ ?_
    | refine .ite1 ?_ ?_ | refine (State.freeIn_keeps _ _ _).via ?_ | intro _ | split | dsimp only
theorem semSincos_keeps :
    KeepsSem (semSincos) := by
  intro s c w0 w1 e
  unfold semSincos
  with_reducible repeat' first
    | refine .ok ?_ | assumption | exact .refl _ | refine (State.sinValue_keeps _ _).via ?_ | intro _ | dsimp only
theorem execOpSincos_keeps (t : Time) (c : Fin 33) (s : State) :
    KeepsOutcome s (execOpSincos t c s) := by
  unfold execOpSincos
  with_reducible repeat' first
    | refine .next ?_ | exact .refl _ | refine (State.issue_keeps _ _ _ _ _ ?_).via ?_
    | refine (State.tick_keeps _ _).via ?_ | exact semSincos_keeps | refine semSincos_keeps.app ?_ | intro _
theorem semAtan2_keeps :
    KeepsSem (semAtan2) := by
  intro s c w0 w1 e
  unfold semAtan2
  with_reducible repeat' first
    | refine .ok ?_ | assumption | exact .refl _ | refine .ite ?_ ?_ | refine .ite2 ?_ ?_ | refine .ite1 ?_ ?_
    | refine (State.freeIn_keeps _ _ _).via ?_ | intro _ | split | dsimp only
theorem execOpAtan2_keeps (t : Time) (c : Fin 33) (s : State) :
    KeepsOutcome s (execOpAtan2 t c s) := by
  unfold execOpAtan2
  with_reducible repeat' first
    | refine .next ?_ | exact .refl _ | refine (State.issue_keeps _ _ _ _ _ ?_).via ?_
    | refine (State.tick_keeps _ _).via ?_ | exact semAtan2_keeps | refine semAtan2_keeps.app ?_ | intro _
theorem semRsqrt_keeps :
    KeepsSem (semRsqrt) := by
  intro s c w0 w1 e
  unfold semRsqrt
  with_reducible repeat' first
    | refine .ok ?_ | assumption | exact .refl _ | refine .ite ?_ ?_ | refine .ite2 ?_ ?_ | refine .ite1 ?_ ?_
    | refine (State.freeIn_keeps _ _ _).via ?_ | intro _ | split | dsimp only
theorem execOpRsqrt_keeps (t : Time) (c : Fin 33) (s : State) :
    KeepsOutcome s (execOpRsqrt t c s) := by
  unfold execOpRsqrt
  with_reducible repeat' first
    | refine .next ?_ | exact .refl _ | refine (State.issue_keeps _ _ _ _ _ ?_).via ?_
    | refine (State.tick_keeps _ _).via ?_ | exact semRsqrt_keeps | refine semRsqrt_keeps.app ?_ | intro _
theorem semDiv_keeps :
    KeepsSem (semDiv) := by
  intro s c w0 w1 e
  unfold semDiv
  with_reducible repeat' first
    | refine .ok ?_ | assumption | exact .refl _ | intro _ | dsimp only
theorem execOpDiv_keeps (t : Time) (c : Fin 33) (s : State) :
    KeepsOutcome s (execOpDiv t c s) := by
  unfold execOpDiv
  with_reducible repeat' first
    | refine .next ?_ | exact .refl _ | refine (State.issue_keeps _ _ _ _ _ ?_).via ?_
    | refine (State.tick_keeps _ _).via ?_ | exact semDiv_keeps | refine semDiv_keeps.app ?_ | intro _
theorem semDivi_keeps :
    KeepsSem (semDivi) := by
  intro s c w0 w1 e
  unfold semDivi
  with_reducible repeat' first
    | refine .ok ?_ | assumption | exact .refl _ | intro _ | dsimp only
theorem execOpDivi_keeps (t : Time) (c : Fin 33) (s : State) :
    KeepsOutcome s (execOpDivi t c s) := by
  unfold execOpDivi
  with_reducible repeat' first
    | refine .next ?_ | exact .refl _ | refine (State.issue_keeps _ _ _ _ _ ?_).via ?_
    | refine (State.tick_keeps _ _).via ?_ | exact semDivi_keeps | refine semDivi_keeps.app ?_ | intro _
theorem execPrimitiveResult_keeps (t : Time) (c : Fin 33) (s : State) :
    KeepsOutcome s (execPrimitiveResult t c s) := by
  unfold execPrimitiveResult
  with_reducible repeat' first
    | refine .next ?_ | exact .refl _ | refine (State.landDue_keeps _ _).via ?_ | refine (State.tick_keeps _ _).via ?_

end Sys2Proof.Machine
end

