-- ==== Sys2Proof/Laws/KeepsExec.lean ====
section
/-! SUPPORT. Every command keeps the queue and the canonical form (`Keeps`): one case per constructor. -/

namespace Sys2Proof.Machine

/-- What a command answers keeps the queue and the canonical form. -/
theorem exec_keeps (i : Instr) (s : State) : KeepsOutcome s (exec i s) :=
  match i with
  | .registerWrite t m a w be v => execRegisterWrite_keeps t m a w be v s
  | .stagedRegisterWrite t m a wide v => execStagedRegisterWrite_keeps t m a wide v s
  | .rcRead t m a w be => execRcRead_keeps t m a w be s
  | .pairLowRead t m a => execPairLowRead_keeps t m a s
  | .pairHighRead t m a => execPairHighRead_keeps t m a s
  | .pairLowWrite t m a v => execPairLowWrite_keeps t m a v s
  | .pairHighWrite t m a v => execPairHighWrite_keeps t m a v s
  | .unmappedAccess t m a w wr v => execUnmappedAccess_keeps t m a w wr v s
  | .memoryWindowWrite t m a w be v => execMemoryWindowWrite_keeps t m a w be v s
  | .softReset t m a => execSoftReset_keeps t m a s
  | .softResetDone t a => execSoftResetDone_keeps t a s
  | .freezeCapture t m a => execFreezeCapture_keeps t m a s
  | .freezeRelease t m a => execFreezeRelease_keeps t m a s
  | .irqClear t m a v => execIrqClear_keeps t m a v s
  | .unlockFirstKey t m a => execUnlockFirstKey_keeps t m a s
  | .unlockSecondKey t m a => execUnlockSecondKey_keeps t m a s
  | .unlockTimeout t a => execUnlockTimeout_keeps t a s
  | .lockZeroWrite t m a => execLockZeroWrite_keeps t m a s
  | .lockOtherWrite t m a v => execLockOtherWrite_keeps t m a v s
  | .lockTimeout t a => execLockTimeout_keeps t a s
  | .lockedRegisterWrite t m a wide v => execLockedRegisterWrite_keeps t m a wide v s
  | .shadowHold t m a on => execShadowHold_keeps t m a on s
  | .shadowDiscard t m a => execShadowDiscard_keeps t m a s
  | .selectorWrite t m a v => execSelectorWrite_keeps t m a v s
  | .commitInstant t n => execCommitInstant_keeps t n s
  | .frameReady t a => execFrameReady_keeps t a s
  | .stagingCutoff t a => execStagingCutoff_keeps t a s
  | .outWriteArrival t c => execOutWriteArrival_keeps t c s
  | .outEnSet t m => execOutEnSet_keeps t m s
  | .outEnClear t m => execOutEnClear_keeps t m s
  | .runEntry t => execRunEntry_keeps t s
  | .safeAck t m => execSafeAck_keeps t m s
  | .pllLockLost t p freq => execPllLockLost_keeps t p freq s
  | .refclkLost t => execRefclkLost_keeps t s
  | .incrWrite t m n v => execIncrWrite_keeps t m n v s
  | .incrApply t n => execIncrApply_keeps t n s
  | .offsetWrite t m n v => execOffsetWrite_keeps t m n v s
  | .offsetApply t n => execOffsetApply_keeps t n s
  | .slewDone t => execSlewDone_keeps t s
  | .reseed t m => execReseed_keeps t m s
  | .standaloneSet t m => execStandaloneSet_keeps t m s
  | .standaloneClear t m => execStandaloneClear_keeps t m s
  | .snapshotTake t m => execSnapshotTake_keeps t m s
  | .snapshotPeriod t => execSnapshotPeriod_keeps t s
  | .weirPost t src code stamp payload => execWeirPost_keeps t src code stamp payload s
  | .weirDelivery t lag => execWeirDelivery_keeps t lag s
  | .stallClear t => execStallClear_keeps t s
  | .weirInject t m v => execWeirInject_keeps t m v s
  | .weirPop t m q wide => execWeirPop_keeps t m q wide s
  | .weirPopWord t m q ix => execWeirPopWord_keeps t m q ix s
  | .feedbackEdge t n line stamp level stamped => execFeedbackEdge_keeps t n line stamp level stamped s
  | .glitchGatheredPost t n => execGlitchGatheredPost_keeps t n s
  | .minIntExpiry t n line => execMinIntExpiry_keeps t n line s
  | .fbpConfigWrite t m n v => execFbpConfigWrite_keeps t m n v s
  | .portEnable t m n => execPortEnable_keeps t m n s
  | .fbRestore t m n => execFbRestore_keeps t m n s
  | .fbSet t m n => execFbSet_keeps t m n s
  | .fbZsetArm t m n => execFbZsetArm_keeps t m n s
  | .fbZsetDisarm t m n => execFbZsetDisarm_keeps t m n s
  | .fbReload t m n => execFbReload_keeps t m n s
  | .limitWrite t m n hi v => execLimitWrite_keeps t m n hi v s
  | .serialRequest t n tk => execSerialRequest_keeps t n tk s
  | .serialWord t n data crc => execSerialWord_keeps t n data crc s
  | .serialTimeout t n => execSerialTimeout_keeps t n s
  | .sentFrame t n sync fall status data crc => execSentFrame_keeps t n sync fall status data crc s
  | .sentTimeout t n => execSentTimeout_keeps t n s
  | .lineFault t n pairs => execLineFault_keeps t n pairs s
  | .edgeStall t n a => execEdgeStall_keeps t n a s
  | .fbpFaultClear t m n v => execFbpFaultClear_keeps t m n v s
  | .fbSelWrite t m a v => execFbSelWrite_keeps t m a v s
  | .sinc3Window t n ix clk pin mid run => execSinc3Window_keeps t n ix clk pin mid run s
  | .sdClkLoss t n last => execSdClkLoss_keeps t n last s
  | .sdManErr t n ix c => execSdManErr_keeps t n ix c s
  | .sdStuck t n ix run => execSdStuck_keeps t n ix run s
  | .sdmConfigWrite t m n k v => execSdmConfigWrite_keeps t m n k v s
  | .cmpThresholdCrossing t n ix clk pin c => execCmpThresholdCrossing_keeps t n ix clk pin c s
  | .auxConversionStart t m => execAuxConversionStart_keeps t m s
  | .auxConversionDone t m v => execAuxConversionDone_keeps t m v s
  | .auxWindowCrossing t m j v => execAuxWindowCrossing_keeps t m j v s
  | .slotEnable t m n => execSlotEnable_keeps t m n s
  | .slotStart t n => execSlotStart_keeps t n s
  | .slotDisable t m n => execSlotDisable_keeps t m n s
  | .pwmConfigWrite t m n v => execPwmConfigWrite_keeps t m n v s
  | .reanchorPauseEnd t n => execReanchorPauseEnd_keeps t n s
  | .compareMatch t n => execCompareMatch_keeps t n s
  | .deadTimeEnd t n => execDeadTimeEnd_keeps t n s
  | .tripSourceChange t p level => execTripSourceChange_keeps t p level s
  | .tripFilterExpiry t n k => execTripFilterExpiry_keeps t n k s
  | .commEnable t m n port => execCommEnable_keeps t m n port s
  | .pwmComm t n => execComm_keeps t n s
  | .pwmOverride t m n v => execOverride_keeps t m n v s
  | .protectionEnable t m n => execProtectionEnable_keeps t m n s
  | .degradeTimeout t n => execDegradeTimeout_keeps t n s
  | .stopTimeout t n => execStopTimeout_keeps t n s
  | .protectionClear t m n v => execProtectionClear_keeps t m n v s
  | .bwRequest t n => execBwRequest_keeps t n s
  | .slotStoGate t n => execSlotStoGate_keeps t n s
  | .selfTestStart t m n v => execSelfTestStart_keeps t m n v s
  | .selfTestPhaseEnd t n line => execSelfTestPhaseEnd_keeps t n line s
  | .chopLimit t n => execChopLimit_keeps t n s
  | .chopCoolEnd t n => execChopCoolEnd_keeps t n s
  | .chopStale t n => execChopStale_keeps t n s
  | .opAdd t c => execOpAdd_keeps t c s
  | .opSub t c => execOpSub_keeps t c s
  | .opNeg t c => execOpNeg_keeps t c s
  | .opAbs t c => execOpAbs_keeps t c s
  | .opAnd t c => execOpAnd_keeps t c s
  | .opOr t c => execOpOr_keeps t c s
  | .opXor t c => execOpXor_keeps t c s
  | .opNot t c => execOpNot_keeps t c s
  | .opMin t c => execOpMin_keeps t c s
  | .opMax t c => execOpMax_keeps t c s
  | .opMov t c => execOpMov_keeps t c s
  | .opCmp t c => execOpCmp_keeps t c s
  | .opCls t c => execOpCls_keeps t c s
  | .opShl t c => execOpShl_keeps t c s
  | .opShra t c => execOpShra_keeps t c s
  | .opShrl t c => execOpShrl_keeps t c s
  | .opShli t c => execOpShli_keeps t c s
  | .opShrai t c => execOpShrai_keeps t c s
  | .opShrli t c => execOpShrli_keeps t c s
  | .opAddi t c => execOpAddi_keeps t c s
  | .opCmpi t c => execOpCmpi_keeps t c s
  | .opMovi t c => execOpMovi_keeps t c s
  | .opMovhi t c => execOpMovhi_keeps t c s
  | .opMovl t c => execOpMovl_keeps t c s
  | .opMovpi t c => execOpMovpi_keeps t c s
  | .opMovs t c => execOpMovs_keeps t c s
  | .opLd t c => execOpLd_keeps t c s
  | .opSt t c => execOpSt_keeps t c s
  | .opSta t c => execOpSta_keeps t c s
  | .opLdd t c => execOpLdd_keeps t c s
  | .opMpy t c => execOpMpy_keeps t c s
  | .opMac t c => execOpMac_keeps t c s
  | .opMpyd t c => execOpMpyd_keeps t c s
  | .opMacd t c => execOpMacd_keeps t c s
  | .opFtap t c => execOpFtap_keeps t c s
  | .opClra t c => execOpClra_keeps t c s
  | .opMova t c => execOpMova_keeps t c s
  | .opAdda t c => execOpAdda_keeps t c s
  | .opSuba t c => execOpSuba_keeps t c s
  | .opNega t c => execOpNega_keeps t c s
  | .opAbsa t c => execOpAbsa_keeps t c s
  | .opAsr t c => execOpAsr_keeps t c s
  | .opAsl t c => execOpAsl_keeps t c s
  | .opLdah t c => execOpLdah_keeps t c s
  | .opLdax t c => execOpLdax_keeps t c s
  | .opAddah t c => execOpAddah_keeps t c s
  | .opAddax t c => execOpAddax_keeps t c s
  | .opXlo t c => execOpXlo_keeps t c s
  | .opXhi t c => execOpXhi_keeps t c s
  | .opXgd t c => execOpXgd_keeps t c s
  | .opCmpa t c => execOpCmpa_keeps t c s
  | .opSatx t c => execOpSatx_keeps t c s
  | .opSincos t c => execOpSincos_keeps t c s
  | .opAtan2 t c => execOpAtan2_keeps t c s
  | .opRsqrt t c => execOpRsqrt_keeps t c s
  | .opDiv t c => execOpDiv_keeps t c s
  | .opDivi t c => execOpDivi_keeps t c s
  | .primitiveResult t c => execPrimitiveResult_keeps t c s
  | .opBcc t c => execOpBcc_keeps t c s
  | .opCall t c => execOpCall_keeps t c s
  | .opBri t c => execOpBri_keeps t c s
  | .opCalli t c => execOpCalli_keeps t c s
  | .opRet t c => execOpRet_keeps t c s
  | .opRetn t c => execOpRetn_keeps t c s
  | .opReti t c => execOpReti_keeps t c s
  | .opNop t c => execOpNop_keeps t c s
  | .opBkpt t c => execOpBkpt_keeps t c s
  | .opRpt t c => execOpRpt_keeps t c s
  | .opBrpt t c => execOpBrpt_keeps t c s
  | .opBrptL t c => execOpBrptL_keeps t c s
  | .opWaitt t c => execOpWaitt_keeps t c s
  | .opIn t c => execOpIn_keeps t c s
  | .opOut t c => execOpOut_keeps t c s
  | .opTrc t c => execOpTrc_keeps t c s
  | .systemWindowDone t c => execSystemWindowDone_keeps t c s
  | .vectorEntry t k => execVectorEntry_keeps t k s
  | .wdogExpire t k => execWdogExpire_keeps t k s
  | .wdogKick t m k v => execWdogKick_keeps t m k v s
  | .mwTimerFire t k ix => execMwTimerFire_keeps t k ix s
  | .doorbell t m k => execDoorbell_keeps t m k s
  | .coreGo t m c => execCoreGo_keeps t m c s
  | .coreStop t m c => execCoreStop_keeps t m c s
  | .coreHalt t m c => execCoreHalt_keeps t m c s
  | .halted t c => execHalted_keeps t c s
  | .coreResume t m c => execCoreResume_keeps t m c s
  | .coreStep t m c => execCoreStep_keeps t m c s
  | .breakpointHit t c => execBreakpointHit_keeps t c s
  | .watchpointHit t c => execWatchpointHit_keeps t c s
  | .dbgDataRead t m c => execDbgDataRead_keeps t m c s
  | .dbgDataWrite t m c v => execDbgDataWrite_keeps t m c v s
  | .axisRunSet t m a => execAxisRunSet_keeps t m a s
  | .axisFirstSample t a => execAxisFirstSample_keeps t a s
  | .axisRunClear t m a => execAxisRunClear_keeps t m a s
  | .parkWrite t m a park => execParkWrite_keeps t m a park s
  | .migStart t m src dst => execMigStart_keeps t m src dst s
  | .migrationAbort t m => execMigrationAbort_keeps t m s
  | .migrationCutoff t => execMigrationCutoff_keeps t s
  | .migDone t => execMigDone_keeps t s
  | .profileTick t a => execProfileTick_keeps t a s
  | .queueWrite t m a v => execQueueWrite_keeps t m a v s
  | .axisStart t m a => execAxisStart_keeps t m a s
  | .axisStop t m a => execAxisStop_keeps t m a s
  | .axisResume t m a => execAxisResume_keeps t m a s
  | .axisAbandon t m a => execAxisAbandon_keeps t m a s
  | .axisFlush t m a => execAxisFlush_keeps t m a s
  | .axisSetpos t m a => execAxisSetpos_keeps t m a s
  | .axisFbpos t m a => execAxisFbpos_keeps t m a s
  | .groupEnable t m g v => execGroupEnable_keeps t m g v s
  | .groupStart t m g => execGroupStart_keeps t m g s
  | .groupStop t m g => execGroupStop_keeps t m g s
  | .groupResume t m g => execGroupResume_keeps t m g s
  | .groupAbandon t m g => execGroupAbandon_keeps t m g s
  | .groupFlush t m g => execGroupFlush_keeps t m g s
  | .startSetArm t m n => execStartSetArm_keeps t m n s
  | .startSetDisarm t m n => execStartSetDisarm_keeps t m n s
  | .startSetStrobe t m n => execStartSetStrobe_keeps t m n s
  | .startSetMtTrigger t n => execStartSetMtTrigger_keeps t n s
  | .startSetStart t n => execStart_keeps t n s
  | .chopperFastEnd t n x => execChopperFastEnd_keeps t n x s
  | .chopperOffEnd t n x => execChopperOffEnd_keeps t n x s
  | .engage t m => execEngage_keeps t m s
  | .disengage t m => execDisengage_keeps t m s
  | .disArm t m => execDisArm_keeps t m s
  | .cancel t m => execCancel_keeps t m s
  | .virtualMasterUpdate t v => execVirtualMasterUpdate_keeps t v s
  | .vmSetpos t m v => execVmSetpos_keeps t m v s
  | .ctWrite t m k v => execCtWrite_keeps t m k v s
  | .cpEdge t ix lvl stamp => execCpEdge_keeps t ix lvl stamp s
  | .syncEdge t ix lvl stamp => execSyncEdge_keeps t ix lvl stamp s
  | .latchArm t m => execLatchArm_keeps t m s
  | .latchDisarm t m => execLatchDisarm_keeps t m s
  | .latchResultComplete t => execLatchResultComplete_keeps t s
  | .latchWaitTimeout t => execLatchWaitTimeout_keeps t s
  | .resPop t m wide => execResPop_keeps t m wide s
  | .resPopWord t m ix => execResPopWord_keeps t m ix s
  | .traceEntry t k => execTraceEntry_keeps t k s
  | .segmentRearm t => execSegmentRearm_keeps t s
  | .hopperArm t m => execHopperArm_keeps t m s
  | .hopperDisarm t m => execHopperDisarm_keeps t m s
  | .hopperForce t m => execHopperForce_keeps t m s
  | .hopperClear t m => execHopperClear_keeps t m s
  | .hopperMtTrigger t => execHopperMtTrigger_keeps t s
  | .segRdWrite t m v => execSegRdWrite_keeps t m v s
  | .drainRdWrite t m v => execDrainRdWrite_keeps t m v s
  | .drainCopyDone t => execDrainCopyDone_keeps t s
  | .fieldInputChange t ix lvl arrival => execFieldInputChange_keeps t ix lvl arrival s
  | .fiEdge t ix => execFiEdge_keeps t ix s
  | .wireBreak t ix low => execWireBreak_keeps t ix low s
  | .fiSilent t ix => execFiSilent_keeps t ix s
  | .fiRefreshReturn t ix lvl => execFiRefreshReturn_keeps t ix lvl s
  | .foConfigWrite t m j v => execFoConfigWrite_keeps t m j v s
  | .foPeriodStart t j => execFoPeriodStart_keeps t j s
  | .foOnTimeEnd t j => execFoOnTimeEnd_keeps t j s
  | .foCurrentConversion t j c => execFoCurrentConversion_keeps t j c s
  | .foFault t j f set => execFoFault_keeps t j f set s
  | .foLogicSilent t j => execFoLogicSilent_keeps t j s
  | .foClear t m j v => execFoClear_keeps t m j v s
  | .fieldUndervoltage t v => execFieldUndervoltage_keeps t v s
  | .fieldUvRecovery t v => execFieldUvRecovery_keeps t v s
  | .uvClr t m => execUvClr_keeps t m s
  | .canModeWrite t m n v => execCanModeWrite_keeps t m n v s
  | .canModeChange t n => execCanModeChange_keeps t n s
  | .canTimingWrite t m n d v => execCanTimingWrite_keeps t m n d v s
  | .canRx t n f sof arb res => execCanRx_keeps t n f sof arb res s
  | .rxqPop t m n q ix wide => execRxqPop_keeps t m n q ix wide s
  | .txReq t m n v => execTxReq_keeps t m n v s
  | .txAbort t m n v => execTxAbort_keeps t m n v s
  | .canTxSelect t n => execCanTxSelect_keeps t n s
  | .canTxAttemptEnd t n res tdc => execCanTxAttemptEnd_keeps t n res tdc s
  | .boffRec t m n => execBoffRec_keeps t m n s
  | .boffRecovered t n => execBoffRecovered_keeps t n s
  | .ethFrameReceive t n bytes ok stamp buf => execEthFrameReceive_keeps t n bytes ok stamp buf s
  | .egressSelect t n => execEgressSelect_keeps t n s
  | .gclCycleStart t n => execGclCycleStart_keeps t n s
  | .gclChange t m n => execGclChange_keeps t m n s
  | .gclSwap t n => execGclSwap_keeps t n s
  | .pdelayRequest t n => execPdelayRequest_keeps t n s
  | .pdelayResponse t n x => execPdelayResponse_keeps t n x s
  | .syncReceived t n bytes stamp buf => execSyncReceived_keeps t n bytes stamp buf s
  | .syncOriginate t r => execSyncOriginate_keeps t r s
  | .domainLost t r => execDomainLost_keeps t r s
  | .ftSelect t m r => execFtSelect_keeps t m r s
  | .fdbFlush t m r => execFdbFlush_keeps t m r s
  | .linkUp t n slow => execLinkUp_keeps t n slow s
  | .linkDown t n => execLinkDown_keeps t n s
  | .redCycleInstant t => execRedCycleInstant_keeps t s
  | .redSkewExpiry t => execRedSkewExpiry_keeps t s
  | .raceOk t r => execRaceOk_keeps t r s
  | .redCtrlWrite t m v => execRedCtrlWrite_keeps t m v s
  | .drill t m => execDrill_keeps t m s
  | .safetyTick t => execSafetyTick_keeps t s
  | .cycWaitRead t => execCycWaitRead_keeps t s
  | .stoCmdWrite t m v => execStoCmdWrite_keeps t m v s
  | .stoKick t m => execStoKick_keeps t m s
  | .stoKickTimeout t => execStoKickTimeout_keeps t s
  | .stoDiscrepancy t pin => execStoDiscrepancy_keeps t pin s
  | .lockstep t pc => execLockstep_keeps t pc s
  | .bwClock t => execBwClock_keeps t s
  | .bwSupply t => execBwSupply_keeps t s
  | .safeMonitorEdge t n x => execSafeMonitorEdge_keeps t n x s
  | .xcheck t n => execXcheck_keeps t n s
  | .smFlagsClear t m k v => execSmFlagsClear_keeps t m k v s
  | .preqWrite t m ix v => execPreqWrite_keeps t m ix v s
  | .sgHoldWrite t m on => execSgHoldWrite_keeps t m on s
  | .faultReport t => execFaultReport_keeps t s
  | .recoveryWindowEnd t => execRecoveryWindowEnd_keeps t s
  | .axisDegradeTimeout t a => execAxisDegradeTimeout_keeps t a s
  | .axisStopTimeout t a => execAxisStopTimeout_keeps t a s
  | .fclr t m v => execFclr_keeps t m v s
  | .diagDue t => execDiagDue_keeps t s
  | .mirastSend t c => execMirastSend_keeps t c s
  | .mirastPairTimeout t c => execMirastPairTimeout_keeps t c s
  | .mirTimeout t c => execMirTimeout_keeps t c s
  | .mirDegraded t c => execMirDegraded_keeps t c s
  | .connCommit t m => execConnCommit_keeps t m s
  | .connOpen t m => execConnOpen_keeps t m s
  | .connClose t m => execConnClose_keeps t m s
  | .sessionOpen t m len => execSessionOpen_keeps t m len s
  | .passwordVerified t => execPasswordVerified_keeps t s
  | .lockoutEnd t => execLockoutEnd_keeps t s
  | .sessionClose t m => execSessionClose_keeps t m s
  | .sessionTimeout t => execSessionTimeout_keeps t s
  | .setPw t m len => execSetPw_keeps t m len s
  | .seal t m => execSeal_keeps t m s
  | .ptOpen t m => execPtOpen_keeps t m s
  | .ptClose t m => execPtClose_keeps t m s
  | .sqDoorbell t m r v => execSqDoorbell_keeps t m r v s
  | .descriptorFetch t d => execDescriptorFetch_keeps t d s
  | .regRead t r => execRegRead_keeps t r s
  | .regWrite t r => execRegWrite_keeps t r s
  | .copyIn t r data ok => execCopyIn_keeps t r data ok s
  | .copyOut t r n ok => execCopyOut_keeps t r n ok s
  | .txFrame t r bytes ok => execTxFrame_keeps t r bytes ok s
  | .hostNop t r => execHostNop_keeps t r s
  | .commandCompletion t r => execCommandCompletion_keeps t r s
  | .completionAck t m r v => execCompletionAck_keeps t m r v s
  | .tagAbort t m v => execTagAbort_keeps t m v s
  | .tagQuarantineEnd t ix => execTagQuarantineEnd_keeps t ix s
  | .eventRingWrite t => execEventRingWrite_keeps t s
  | .frTailWrite t m f v => execFrTailWrite_keeps t m f v s
  | .vecEoi t m v => execVecEoi_keeps t m v s
  | .pcieReset t down => execPcieReset_keeps t down s
  | .spiFrame t clocks mosi idle mode3 first => execSpiFrame_keeps t clocks mosi idle mode3 first s
  | .spiRead t a mode3 first => execSpiRead_keeps t a mode3 first s
  | .spiWrite t a v mode3 first => execSpiWrite_keeps t a v mode3 first s
  | .spiNop t mode3 first => execSpiNop_keeps t mode3 first s
  | .pwrEnRise t => execPwrEnRise_keeps t s
  | .pwrEnFall t => execPwrEnFall_keeps t s
  | .powerUpStep t x => execPowerUpStep_keeps t x s
  | .powerUpTimeout t item => execPowerUpTimeout_keeps t item s
  | .powerDownStep t => execPowerDownStep_keeps t s
  | .brownOut t supply collapse => execBrownOut_keeps t supply collapse s
  | .resetAssert t => execResetAssert_keeps t s
  | .resetRelease t => execResetRelease_keeps t s
  | .resetLong t => execResetLong_keeps t s
  | .vbakGood t => execVbakGood_keeps t s
  | .vbakLost t => execVbakLost_keeps t s
  | .settleDrop t k => execSettleDrop_keeps t k s
  | .cfsWrite t m => execCfsWrite_keeps t m s
  | .cfsRead t m => execCfsRead_keeps t m s
  | .cfsDone t => execCfsDone_keeps t s
  | .rtcSet t m v => execRtcSet_keeps t m v s
  | .xtalFail t => execXtalFail_keeps t s
  | .bsramDataRead t m => execBsramDataRead_keeps t m s
  | .bsramDataWrite t m v => execBsramDataWrite_keeps t m v s
  | .frecAck t m => execFrecAck_keeps t m s
  | .cellAbsent t => execCellAbsent_keeps t s
  | .chargerRetry t draws => execChargerRetry_keeps t draws s
  | .gaugeTest t v q => execGaugeTest_keeps t v q s
  | .bistStart t m => execBistStart_keeps t m s
  | .bistAbort t m => execBistAbort_keeps t m s
  | .bistRunEnd t x => execBistRunEnd_keeps t x s
  | .bistRepair t m ix => execBistRepair_keeps t m ix s
  | .pllRelock t p => execPllRelock_keeps t p s
  | .chopMinOnEnd t n => execChopMinOnEnd_keeps t n s
  | .chopperBlankEnd t n x => execChopperBlankEnd_keeps t n x s
  | .foSilent t j => execFoSilent_keeps t j s
  | .foRefreshReturn t j => execFoRefreshReturn_keeps t j s
  | .recessiveSequence t n res => execRecessiveSequence_keeps t n res s
  | .canRxError t n type eights => execCanRxError_keeps t n type eights s
  | .pcieLinkUp t gen width => execPcieLinkUp_keeps t gen width s
  | .spiReadDone t => execSpiReadDone_keeps t s
  | .bar2Read t a w => execBar2Read_keeps t a w s
  | .errToggle t => execErrToggle_keeps t s
  | .chargerThreshold t k => execChargerThreshold_keeps t k s

end Sys2Proof.Machine
end

