-- ==== Sys2Proof/Laws/Regs.lean ====
section
/-! SUPPORT. Registers and their fields: what a read after a write gives. -/

namespace Sys2Proof.Machine

/-- The keys of a canonical register table rise. -/
theorem State.Canonical.sorted {s : State} (h : s.Canonical) : s.regs.Pairwise (fun p q => p.1 < q.1) :=
  ((twf_iff _ _).1 h.regs).1

/-- A register set keeps the tables canonical. -/
theorem State.Canonical.setRg {s : State} (h : s.Canonical) (a : Nat) (v : Word) : (s.setRg a v).Canonical :=
  ⟨h.mem, twf_tset resetWord _ _ _ h.regs, h.pages, h.sels⟩
theorem State.Canonical.putFld {s : State} (h : s.Canonical) (a hi lo v : Nat) : (s.putFld a hi lo v).Canonical := h.setRg _ _
theorem State.Canonical.putBit {s : State} (h : s.Canonical) (a i : Nat) (b : Bool) : (s.putBit a i b).Canonical := h.setRg _ _

/-- A register reads as it was set. -/
theorem State.rg_setRg_same {s : State} (h : s.Canonical) (a : Nat) (v : Word) : (s.setRg a v).rg a = v :=
  tget_tset_same _ _ _ _ h.sorted
/-- The other registers read as before. -/
theorem State.rg_setRg_other {s : State} (h : s.Canonical) (a b : Nat) (v : Word) (hb : b ≠ a) : (s.setRg a v).rg b = s.rg b :=
  tget_tset_other _ _ _ _ _ _ hb h.sorted

/-- A bit of a word with a field set. -/
theorem wbit_wput (w : Word) (hi lo v i : Nat) (hl : lo ≤ hi) (hh : hi < 32) :
    wbit (wput w hi lo v) i = if lo ≤ i ∧ i ≤ hi then v.testBit (i - lo) else wbit w i := by
  have e : ∀ x : Word, wbit x i = x.getLsbD i := fun x => rfl
  rw [e, e, wput]
  simp only [BitVec.getLsbD_or, BitVec.getLsbD_and, BitVec.getLsbD_not, BitVec.getLsbD_ofNat, Nat.testBit_and,
    Nat.testBit_shiftLeft, Nat.testBit_two_pow_sub_one]
  by_cases h32 : i < 32
  · by_cases h1 : lo ≤ i
    · by_cases h2 : i ≤ hi
      · have : i - lo < hi + 1 - lo := by omega
        simp [h32, h1, h2, this]
      · have : ¬ i - lo < hi + 1 - lo := by omega
        simp [h32, h1, h2, this]
    · simp [h32, h1]
  · have : ¬ (lo ≤ i ∧ i ≤ hi) := by omega
    rw [if_neg this]
    simp [h32, BitVec.getLsbD_of_ge w i (by omega)]

/-- A bit just set. -/
theorem State.bit_putBit_same {s : State} (h : s.Canonical) (a i : Nat) (b : Bool) (hi : i < 32) : (s.putBit a i b).bit a i = b := by
  rw [State.bit, State.putBit, State.putFld, State.rg_setRg_same h, wbit_wput _ _ _ _ _ (Nat.le_refl i) hi]
  cases b <;> simp [b2n]
/-- Another bit of the register. -/
theorem State.bit_putFld_same {s : State} (h : s.Canonical) (a hi lo v i : Nat) (hl : lo ≤ hi) (hh : hi < 32)
    (hi' : i < lo ∨ hi < i) : (s.putFld a hi lo v).bit a i = s.bit a i := by
  rw [State.bit, State.putFld, State.rg_setRg_same h, wbit_wput _ _ _ _ _ hl hh, if_neg (by omega)]
  rfl
theorem State.bit_putBit_bit {s : State} (h : s.Canonical) (a i j : Nat) (b : Bool) (hi : i < 32) (hj : j ≠ i) :
    (s.putBit a i b).bit a j = s.bit a j := State.bit_putFld_same h a i i _ j (Nat.le_refl i) hi (by omega)
/-- A bit of another register. -/
theorem State.bit_putFld_other {s : State} (h : s.Canonical) (a b hi lo v i : Nat) (hb : b ≠ a) :
    (s.putFld a hi lo v).bit b i = s.bit b i := by
  rw [State.bit, State.putFld, State.rg_setRg_other h _ _ _ hb]
  rfl
theorem State.bit_putBit_other {s : State} (h : s.Canonical) (a b i j : Nat) (v : Bool) (hb : b ≠ a) :
    (s.putBit a i v).bit b j = s.bit b j := State.bit_putFld_other h a b i i _ j hb

/-- A field of a word just set. -/
theorem wfld_wput (w : Word) (hi lo v : Nat) (hl : lo ≤ hi) (hh : hi < 32) : wfld (wput w hi lo v) hi lo = v % 2 ^ (hi + 1 - lo) := by
  apply Nat.eq_of_testBit_eq
  intro i
  have e := wbit_wput w hi lo v (lo + i) hl hh
  rw [wbit] at e
  rw [wfld, bitsN, Nat.testBit_mod_two_pow, Nat.testBit_mod_two_pow, Nat.testBit_shiftRight, e]
  by_cases h1 : i < hi + 1 - lo
  · rw [if_pos (by omega), Nat.add_sub_cancel_left]
  · simp [h1]
/-- A field just set. -/
theorem State.fld_putFld_same {s : State} (h : s.Canonical) (a hi lo v : Nat) (hl : lo ≤ hi) (hh : hi < 32) :
    (s.putFld a hi lo v).fld a hi lo = v % 2 ^ (hi + 1 - lo) := by
  rw [State.fld, State.putFld, State.rg_setRg_same h, wfld_wput _ _ _ _ hl hh]
/-- A field of another register. -/
theorem State.fld_setRg_other {s : State} (h : s.Canonical) (a b hi lo : Nat) (v : Word) (hb : b ≠ a) :
    (s.setRg a v).fld b hi lo = s.fld b hi lo := by
  rw [State.fld, State.rg_setRg_other h _ _ _ hb]; rfl

end Sys2Proof.Machine
end

