-- ==== Sys2Proof/Laws/State.lean ====
section
/-! SUPPORT. What each update of the state leaves as it was: one lemma per field per update, so that no proof unfolds an
update of the record, and what the changed parts then hold. -/

namespace Sys2Proof.Machine

/-! `setRg` changes `regs` alone. -/

@[simp] theorem State.setRg_now (s : State) (a : Nat) (v : Word) : (s.setRg a v).now = s.now := rfl
@[simp] theorem State.setRg_pending (s : State) (a : Nat) (v : Word) : (s.setRg a v).pending = s.pending := rfl
@[simp] theorem State.setRg_pages (s : State) (a : Nat) (v : Word) : (s.setRg a v).pages = s.pages := rfl
@[simp] theorem State.setRg_mem (s : State) (a : Nat) (v : Word) : (s.setRg a v).mem = s.mem := rfl
@[simp] theorem State.setRg_sels (s : State) (a : Nat) (v : Word) : (s.setRg a v).sels = s.sels := rfl
@[simp] theorem State.setRg_rd (s : State) (a : Nat) (v : Word) : (s.setRg a v).rd = s.rd := rfl
@[simp] theorem State.setRg_freeCtr (s : State) (a : Nat) (v : Word) : (s.setRg a v).freeCtr = s.freeCtr := rfl
@[simp] theorem State.setRg_dev (s : State) (a : Nat) (v : Word) : (s.setRg a v).dev = s.dev := rfl
@[simp] theorem State.setRg_time (s : State) (a : Nat) (v : Word) : (s.setRg a v).time = s.time := rfl
@[simp] theorem State.setRg_weir (s : State) (a : Nat) (v : Word) : (s.setRg a v).weir = s.weir := rfl
@[simp] theorem State.setRg_sess (s : State) (a : Nat) (v : Word) : (s.setRg a v).sess = s.sess := rfl
@[simp] theorem State.setRg_bw (s : State) (a : Nat) (v : Word) : (s.setRg a v).bw = s.bw := rfl
@[simp] theorem State.setRg_fbp (s : State) (a : Nat) (v : Word) : (s.setRg a v).fbp = s.fbp := rfl
@[simp] theorem State.setRg_fbSel (s : State) (a : Nat) (v : Word) : (s.setRg a v).fbSel = s.fbSel := rfl
@[simp] theorem State.setRg_ax (s : State) (a : Nat) (v : Word) : (s.setRg a v).ax = s.ax := rfl
@[simp] theorem State.setRg_mig (s : State) (a : Nat) (v : Word) : (s.setRg a v).mig = s.mig := rfl
@[simp] theorem State.setRg_core (s : State) (a : Nat) (v : Word) : (s.setRg a v).core = s.core := rfl
@[simp] theorem State.setRg_ecc (s : State) (a : Nat) (v : Word) : (s.setRg a v).ecc = s.ecc := rfl
@[simp] theorem State.setRg_sdm (s : State) (a : Nat) (v : Word) : (s.setRg a v).sdm = s.sdm := rfl
@[simp] theorem State.setRg_aux (s : State) (a : Nat) (v : Word) : (s.setRg a v).aux = s.aux := rfl
@[simp] theorem State.setRg_pwm (s : State) (a : Nat) (v : Word) : (s.setRg a v).pwm = s.pwm := rfl
@[simp] theorem State.setRg_tins (s : State) (a : Nat) (v : Word) : (s.setRg a v).tins = s.tins := rfl
@[simp] theorem State.setRg_psp (s : State) (a : Nat) (v : Word) : (s.setRg a v).psp = s.psp := rfl
@[simp] theorem State.setRg_ws (s : State) (a : Nat) (v : Word) : (s.setRg a v).ws = s.ws := rfl
@[simp] theorem State.setRg_stp (s : State) (a : Nat) (v : Word) : (s.setRg a v).stp = s.stp := rfl
@[simp] theorem State.setRg_grp (s : State) (a : Nat) (v : Word) : (s.setRg a v).grp = s.grp := rfl
@[simp] theorem State.setRg_sset (s : State) (a : Nat) (v : Word) : (s.setRg a v).sset = s.sset := rfl
@[simp] theorem State.setRg_wall (s : State) (a : Nat) (v : Word) : (s.setRg a v).wall = s.wall := rfl
@[simp] theorem State.setRg_lat (s : State) (a : Nat) (v : Word) : (s.setRg a v).lat = s.lat := rfl
@[simp] theorem State.setRg_hop (s : State) (a : Nat) (v : Word) : (s.setRg a v).hop = s.hop := rfl
@[simp] theorem State.setRg_fi (s : State) (a : Nat) (v : Word) : (s.setRg a v).fi = s.fi := rfl
@[simp] theorem State.setRg_fo (s : State) (a : Nat) (v : Word) : (s.setRg a v).fo = s.fo := rfl
@[simp] theorem State.setRg_can (s : State) (a : Nat) (v : Word) : (s.setRg a v).can = s.can := rfl
@[simp] theorem State.setRg_eth (s : State) (a : Nat) (v : Word) : (s.setRg a v).eth = s.eth := rfl
@[simp] theorem State.setRg_race (s : State) (a : Nat) (v : Word) : (s.setRg a v).race = s.race := rfl
@[simp] theorem State.setRg_red (s : State) (a : Nat) (v : Word) : (s.setRg a v).red = s.red := rfl
@[simp] theorem State.setRg_pwr (s : State) (a : Nat) (v : Word) : (s.setRg a v).pwr = s.pwr := rfl
@[simp] theorem State.setRg_host (s : State) (a : Nat) (v : Word) : (s.setRg a v).host = s.host := rfl
@[simp] theorem State.setRg_spi (s : State) (a : Nat) (v : Word) : (s.setRg a v).spi = s.spi := rfl
@[simp] theorem State.setRg_bist (s : State) (a : Nat) (v : Word) : (s.setRg a v).bist = s.bist := rfl
@[simp] theorem State.setRg_ldw (s : State) (a : Nat) (v : Word) (y : Nat) : (s.setRg a v).ldw y = s.ldw y := rfl
@[simp] theorem State.setRg_cr (s : State) (a : Nat) (v : Word) (y : Nat) : (s.setRg a v).cr y = s.cr y := rfl
@[simp] theorem State.setRg_page (s : State) (a : Nat) (v : Word) (y : Nat) : (s.setRg a v).page y = s.page y := rfl
@[simp] theorem State.setRg_selOf (s : State) (a : Nat) (v : Word) (y : Master) : (s.setRg a v).selOf y = s.selOf y := rfl
@[simp] theorem State.setRg_up (s : State) (a : Nat) (v : Word)  : (s.setRg a v).up = s.up := rfl
@[simp] theorem State.setRg_buffered (s : State) (a : Nat) (v : Word) (y : Nat) : (s.setRg a v).buffered y = s.buffered y := rfl

/-! `putFld` changes `regs` alone. -/

@[simp] theorem State.putFld_now (s : State) (a hi lo v : Nat) : (s.putFld a hi lo v).now = s.now := rfl
@[simp] theorem State.putFld_pending (s : State) (a hi lo v : Nat) : (s.putFld a hi lo v).pending = s.pending := rfl
@[simp] theorem State.putFld_pages (s : State) (a hi lo v : Nat) : (s.putFld a hi lo v).pages = s.pages := rfl
@[simp] theorem State.putFld_mem (s : State) (a hi lo v : Nat) : (s.putFld a hi lo v).mem = s.mem := rfl
@[simp] theorem State.putFld_sels (s : State) (a hi lo v : Nat) : (s.putFld a hi lo v).sels = s.sels := rfl
@[simp] theorem State.putFld_rd (s : State) (a hi lo v : Nat) : (s.putFld a hi lo v).rd = s.rd := rfl
@[simp] theorem State.putFld_freeCtr (s : State) (a hi lo v : Nat) : (s.putFld a hi lo v).freeCtr = s.freeCtr := rfl
@[simp] theorem State.putFld_dev (s : State) (a hi lo v : Nat) : (s.putFld a hi lo v).dev = s.dev := rfl
@[simp] theorem State.putFld_time (s : State) (a hi lo v : Nat) : (s.putFld a hi lo v).time = s.time := rfl
@[simp] theorem State.putFld_weir (s : State) (a hi lo v : Nat) : (s.putFld a hi lo v).weir = s.weir := rfl
@[simp] theorem State.putFld_sess (s : State) (a hi lo v : Nat) : (s.putFld a hi lo v).sess = s.sess := rfl
@[simp] theorem State.putFld_bw (s : State) (a hi lo v : Nat) : (s.putFld a hi lo v).bw = s.bw := rfl
@[simp] theorem State.putFld_fbp (s : State) (a hi lo v : Nat) : (s.putFld a hi lo v).fbp = s.fbp := rfl
@[simp] theorem State.putFld_fbSel (s : State) (a hi lo v : Nat) : (s.putFld a hi lo v).fbSel = s.fbSel := rfl
@[simp] theorem State.putFld_ax (s : State) (a hi lo v : Nat) : (s.putFld a hi lo v).ax = s.ax := rfl
@[simp] theorem State.putFld_mig (s : State) (a hi lo v : Nat) : (s.putFld a hi lo v).mig = s.mig := rfl
@[simp] theorem State.putFld_core (s : State) (a hi lo v : Nat) : (s.putFld a hi lo v).core = s.core := rfl
@[simp] theorem State.putFld_ecc (s : State) (a hi lo v : Nat) : (s.putFld a hi lo v).ecc = s.ecc := rfl
@[simp] theorem State.putFld_sdm (s : State) (a hi lo v : Nat) : (s.putFld a hi lo v).sdm = s.sdm := rfl
@[simp] theorem State.putFld_aux (s : State) (a hi lo v : Nat) : (s.putFld a hi lo v).aux = s.aux := rfl
@[simp] theorem State.putFld_pwm (s : State) (a hi lo v : Nat) : (s.putFld a hi lo v).pwm = s.pwm := rfl
@[simp] theorem State.putFld_tins (s : State) (a hi lo v : Nat) : (s.putFld a hi lo v).tins = s.tins := rfl
@[simp] theorem State.putFld_psp (s : State) (a hi lo v : Nat) : (s.putFld a hi lo v).psp = s.psp := rfl
@[simp] theorem State.putFld_ws (s : State) (a hi lo v : Nat) : (s.putFld a hi lo v).ws = s.ws := rfl
@[simp] theorem State.putFld_stp (s : State) (a hi lo v : Nat) : (s.putFld a hi lo v).stp = s.stp := rfl
@[simp] theorem State.putFld_grp (s : State) (a hi lo v : Nat) : (s.putFld a hi lo v).grp = s.grp := rfl
@[simp] theorem State.putFld_sset (s : State) (a hi lo v : Nat) : (s.putFld a hi lo v).sset = s.sset := rfl
@[simp] theorem State.putFld_wall (s : State) (a hi lo v : Nat) : (s.putFld a hi lo v).wall = s.wall := rfl
@[simp] theorem State.putFld_lat (s : State) (a hi lo v : Nat) : (s.putFld a hi lo v).lat = s.lat := rfl
@[simp] theorem State.putFld_hop (s : State) (a hi lo v : Nat) : (s.putFld a hi lo v).hop = s.hop := rfl
@[simp] theorem State.putFld_fi (s : State) (a hi lo v : Nat) : (s.putFld a hi lo v).fi = s.fi := rfl
@[simp] theorem State.putFld_fo (s : State) (a hi lo v : Nat) : (s.putFld a hi lo v).fo = s.fo := rfl
@[simp] theorem State.putFld_can (s : State) (a hi lo v : Nat) : (s.putFld a hi lo v).can = s.can := rfl
@[simp] theorem State.putFld_eth (s : State) (a hi lo v : Nat) : (s.putFld a hi lo v).eth = s.eth := rfl
@[simp] theorem State.putFld_race (s : State) (a hi lo v : Nat) : (s.putFld a hi lo v).race = s.race := rfl
@[simp] theorem State.putFld_red (s : State) (a hi lo v : Nat) : (s.putFld a hi lo v).red = s.red := rfl
@[simp] theorem State.putFld_pwr (s : State) (a hi lo v : Nat) : (s.putFld a hi lo v).pwr = s.pwr := rfl
@[simp] theorem State.putFld_host (s : State) (a hi lo v : Nat) : (s.putFld a hi lo v).host = s.host := rfl
@[simp] theorem State.putFld_spi (s : State) (a hi lo v : Nat) : (s.putFld a hi lo v).spi = s.spi := rfl
@[simp] theorem State.putFld_bist (s : State) (a hi lo v : Nat) : (s.putFld a hi lo v).bist = s.bist := rfl
@[simp] theorem State.putFld_ldw (s : State) (a hi lo v : Nat) (y : Nat) : (s.putFld a hi lo v).ldw y = s.ldw y := rfl
@[simp] theorem State.putFld_cr (s : State) (a hi lo v : Nat) (y : Nat) : (s.putFld a hi lo v).cr y = s.cr y := rfl
@[simp] theorem State.putFld_page (s : State) (a hi lo v : Nat) (y : Nat) : (s.putFld a hi lo v).page y = s.page y := rfl
@[simp] theorem State.putFld_selOf (s : State) (a hi lo v : Nat) (y : Master) : (s.putFld a hi lo v).selOf y = s.selOf y := rfl
@[simp] theorem State.putFld_up (s : State) (a hi lo v : Nat)  : (s.putFld a hi lo v).up = s.up := rfl
@[simp] theorem State.putFld_buffered (s : State) (a hi lo v : Nat) (y : Nat) : (s.putFld a hi lo v).buffered y = s.buffered y := rfl

/-! `putBit` changes `regs` alone. -/

@[simp] theorem State.putBit_now (s : State) (a i : Nat) (b : Bool) : (s.putBit a i b).now = s.now := rfl
@[simp] theorem State.putBit_pending (s : State) (a i : Nat) (b : Bool) : (s.putBit a i b).pending = s.pending := rfl
@[simp] theorem State.putBit_pages (s : State) (a i : Nat) (b : Bool) : (s.putBit a i b).pages = s.pages := rfl
@[simp] theorem State.putBit_mem (s : State) (a i : Nat) (b : Bool) : (s.putBit a i b).mem = s.mem := rfl
@[simp] theorem State.putBit_sels (s : State) (a i : Nat) (b : Bool) : (s.putBit a i b).sels = s.sels := rfl
@[simp] theorem State.putBit_rd (s : State) (a i : Nat) (b : Bool) : (s.putBit a i b).rd = s.rd := rfl
@[simp] theorem State.putBit_freeCtr (s : State) (a i : Nat) (b : Bool) : (s.putBit a i b).freeCtr = s.freeCtr := rfl
@[simp] theorem State.putBit_dev (s : State) (a i : Nat) (b : Bool) : (s.putBit a i b).dev = s.dev := rfl
@[simp] theorem State.putBit_time (s : State) (a i : Nat) (b : Bool) : (s.putBit a i b).time = s.time := rfl
@[simp] theorem State.putBit_weir (s : State) (a i : Nat) (b : Bool) : (s.putBit a i b).weir = s.weir := rfl
@[simp] theorem State.putBit_sess (s : State) (a i : Nat) (b : Bool) : (s.putBit a i b).sess = s.sess := rfl
@[simp] theorem State.putBit_bw (s : State) (a i : Nat) (b : Bool) : (s.putBit a i b).bw = s.bw := rfl
@[simp] theorem State.putBit_fbp (s : State) (a i : Nat) (b : Bool) : (s.putBit a i b).fbp = s.fbp := rfl
@[simp] theorem State.putBit_fbSel (s : State) (a i : Nat) (b : Bool) : (s.putBit a i b).fbSel = s.fbSel := rfl
@[simp] theorem State.putBit_ax (s : State) (a i : Nat) (b : Bool) : (s.putBit a i b).ax = s.ax := rfl
@[simp] theorem State.putBit_mig (s : State) (a i : Nat) (b : Bool) : (s.putBit a i b).mig = s.mig := rfl
@[simp] theorem State.putBit_core (s : State) (a i : Nat) (b : Bool) : (s.putBit a i b).core = s.core := rfl
@[simp] theorem State.putBit_ecc (s : State) (a i : Nat) (b : Bool) : (s.putBit a i b).ecc = s.ecc := rfl
@[simp] theorem State.putBit_sdm (s : State) (a i : Nat) (b : Bool) : (s.putBit a i b).sdm = s.sdm := rfl
@[simp] theorem State.putBit_aux (s : State) (a i : Nat) (b : Bool) : (s.putBit a i b).aux = s.aux := rfl
@[simp] theorem State.putBit_pwm (s : State) (a i : Nat) (b : Bool) : (s.putBit a i b).pwm = s.pwm := rfl
@[simp] theorem State.putBit_tins (s : State) (a i : Nat) (b : Bool) : (s.putBit a i b).tins = s.tins := rfl
@[simp] theorem State.putBit_psp (s : State) (a i : Nat) (b : Bool) : (s.putBit a i b).psp = s.psp := rfl
@[simp] theorem State.putBit_ws (s : State) (a i : Nat) (b : Bool) : (s.putBit a i b).ws = s.ws := rfl
@[simp] theorem State.putBit_stp (s : State) (a i : Nat) (b : Bool) : (s.putBit a i b).stp = s.stp := rfl
@[simp] theorem State.putBit_grp (s : State) (a i : Nat) (b : Bool) : (s.putBit a i b).grp = s.grp := rfl
@[simp] theorem State.putBit_sset (s : State) (a i : Nat) (b : Bool) : (s.putBit a i b).sset = s.sset := rfl
@[simp] theorem State.putBit_wall (s : State) (a i : Nat) (b : Bool) : (s.putBit a i b).wall = s.wall := rfl
@[simp] theorem State.putBit_lat (s : State) (a i : Nat) (b : Bool) : (s.putBit a i b).lat = s.lat := rfl
@[simp] theorem State.putBit_hop (s : State) (a i : Nat) (b : Bool) : (s.putBit a i b).hop = s.hop := rfl
@[simp] theorem State.putBit_fi (s : State) (a i : Nat) (b : Bool) : (s.putBit a i b).fi = s.fi := rfl
@[simp] theorem State.putBit_fo (s : State) (a i : Nat) (b : Bool) : (s.putBit a i b).fo = s.fo := rfl
@[simp] theorem State.putBit_can (s : State) (a i : Nat) (b : Bool) : (s.putBit a i b).can = s.can := rfl
@[simp] theorem State.putBit_eth (s : State) (a i : Nat) (b : Bool) : (s.putBit a i b).eth = s.eth := rfl
@[simp] theorem State.putBit_race (s : State) (a i : Nat) (b : Bool) : (s.putBit a i b).race = s.race := rfl
@[simp] theorem State.putBit_red (s : State) (a i : Nat) (b : Bool) : (s.putBit a i b).red = s.red := rfl
@[simp] theorem State.putBit_pwr (s : State) (a i : Nat) (b : Bool) : (s.putBit a i b).pwr = s.pwr := rfl
@[simp] theorem State.putBit_host (s : State) (a i : Nat) (b : Bool) : (s.putBit a i b).host = s.host := rfl
@[simp] theorem State.putBit_spi (s : State) (a i : Nat) (b : Bool) : (s.putBit a i b).spi = s.spi := rfl
@[simp] theorem State.putBit_bist (s : State) (a i : Nat) (b : Bool) : (s.putBit a i b).bist = s.bist := rfl
@[simp] theorem State.putBit_ldw (s : State) (a i : Nat) (b : Bool) (y : Nat) : (s.putBit a i b).ldw y = s.ldw y := rfl
@[simp] theorem State.putBit_cr (s : State) (a i : Nat) (b : Bool) (y : Nat) : (s.putBit a i b).cr y = s.cr y := rfl
@[simp] theorem State.putBit_page (s : State) (a i : Nat) (b : Bool) (y : Nat) : (s.putBit a i b).page y = s.page y := rfl
@[simp] theorem State.putBit_selOf (s : State) (a i : Nat) (b : Bool) (y : Master) : (s.putBit a i b).selOf y = s.selOf y := rfl
@[simp] theorem State.putBit_up (s : State) (a i : Nat) (b : Bool)  : (s.putBit a i b).up = s.up := rfl
@[simp] theorem State.putBit_buffered (s : State) (a i : Nat) (b : Bool) (y : Nat) : (s.putBit a i b).buffered y = s.buffered y := rfl

/-! `setRg64` changes `regs` alone. -/

@[simp] theorem State.setRg64_now (s : State) (a v : Nat) : (s.setRg64 a v).now = s.now := rfl
@[simp] theorem State.setRg64_pending (s : State) (a v : Nat) : (s.setRg64 a v).pending = s.pending := rfl
@[simp] theorem State.setRg64_pages (s : State) (a v : Nat) : (s.setRg64 a v).pages = s.pages := rfl
@[simp] theorem State.setRg64_mem (s : State) (a v : Nat) : (s.setRg64 a v).mem = s.mem := rfl
@[simp] theorem State.setRg64_sels (s : State) (a v : Nat) : (s.setRg64 a v).sels = s.sels := rfl
@[simp] theorem State.setRg64_rd (s : State) (a v : Nat) : (s.setRg64 a v).rd = s.rd := rfl
@[simp] theorem State.setRg64_freeCtr (s : State) (a v : Nat) : (s.setRg64 a v).freeCtr = s.freeCtr := rfl
@[simp] theorem State.setRg64_dev (s : State) (a v : Nat) : (s.setRg64 a v).dev = s.dev := rfl
@[simp] theorem State.setRg64_time (s : State) (a v : Nat) : (s.setRg64 a v).time = s.time := rfl
@[simp] theorem State.setRg64_weir (s : State) (a v : Nat) : (s.setRg64 a v).weir = s.weir := rfl
@[simp] theorem State.setRg64_sess (s : State) (a v : Nat) : (s.setRg64 a v).sess = s.sess := rfl
@[simp] theorem State.setRg64_bw (s : State) (a v : Nat) : (s.setRg64 a v).bw = s.bw := rfl
@[simp] theorem State.setRg64_fbp (s : State) (a v : Nat) : (s.setRg64 a v).fbp = s.fbp := rfl
@[simp] theorem State.setRg64_fbSel (s : State) (a v : Nat) : (s.setRg64 a v).fbSel = s.fbSel := rfl
@[simp] theorem State.setRg64_ax (s : State) (a v : Nat) : (s.setRg64 a v).ax = s.ax := rfl
@[simp] theorem State.setRg64_mig (s : State) (a v : Nat) : (s.setRg64 a v).mig = s.mig := rfl
@[simp] theorem State.setRg64_core (s : State) (a v : Nat) : (s.setRg64 a v).core = s.core := rfl
@[simp] theorem State.setRg64_ecc (s : State) (a v : Nat) : (s.setRg64 a v).ecc = s.ecc := rfl
@[simp] theorem State.setRg64_sdm (s : State) (a v : Nat) : (s.setRg64 a v).sdm = s.sdm := rfl
@[simp] theorem State.setRg64_aux (s : State) (a v : Nat) : (s.setRg64 a v).aux = s.aux := rfl
@[simp] theorem State.setRg64_pwm (s : State) (a v : Nat) : (s.setRg64 a v).pwm = s.pwm := rfl
@[simp] theorem State.setRg64_tins (s : State) (a v : Nat) : (s.setRg64 a v).tins = s.tins := rfl
@[simp] theorem State.setRg64_psp (s : State) (a v : Nat) : (s.setRg64 a v).psp = s.psp := rfl
@[simp] theorem State.setRg64_ws (s : State) (a v : Nat) : (s.setRg64 a v).ws = s.ws := rfl
@[simp] theorem State.setRg64_stp (s : State) (a v : Nat) : (s.setRg64 a v).stp = s.stp := rfl
@[simp] theorem State.setRg64_grp (s : State) (a v : Nat) : (s.setRg64 a v).grp = s.grp := rfl
@[simp] theorem State.setRg64_sset (s : State) (a v : Nat) : (s.setRg64 a v).sset = s.sset := rfl
@[simp] theorem State.setRg64_wall (s : State) (a v : Nat) : (s.setRg64 a v).wall = s.wall := rfl
@[simp] theorem State.setRg64_lat (s : State) (a v : Nat) : (s.setRg64 a v).lat = s.lat := rfl
@[simp] theorem State.setRg64_hop (s : State) (a v : Nat) : (s.setRg64 a v).hop = s.hop := rfl
@[simp] theorem State.setRg64_fi (s : State) (a v : Nat) : (s.setRg64 a v).fi = s.fi := rfl
@[simp] theorem State.setRg64_fo (s : State) (a v : Nat) : (s.setRg64 a v).fo = s.fo := rfl
@[simp] theorem State.setRg64_can (s : State) (a v : Nat) : (s.setRg64 a v).can = s.can := rfl
@[simp] theorem State.setRg64_eth (s : State) (a v : Nat) : (s.setRg64 a v).eth = s.eth := rfl
@[simp] theorem State.setRg64_race (s : State) (a v : Nat) : (s.setRg64 a v).race = s.race := rfl
@[simp] theorem State.setRg64_red (s : State) (a v : Nat) : (s.setRg64 a v).red = s.red := rfl
@[simp] theorem State.setRg64_pwr (s : State) (a v : Nat) : (s.setRg64 a v).pwr = s.pwr := rfl
@[simp] theorem State.setRg64_host (s : State) (a v : Nat) : (s.setRg64 a v).host = s.host := rfl
@[simp] theorem State.setRg64_spi (s : State) (a v : Nat) : (s.setRg64 a v).spi = s.spi := rfl
@[simp] theorem State.setRg64_bist (s : State) (a v : Nat) : (s.setRg64 a v).bist = s.bist := rfl
@[simp] theorem State.setRg64_ldw (s : State) (a v : Nat) (y : Nat) : (s.setRg64 a v).ldw y = s.ldw y := rfl
@[simp] theorem State.setRg64_cr (s : State) (a v : Nat) (y : Nat) : (s.setRg64 a v).cr y = s.cr y := rfl
@[simp] theorem State.setRg64_page (s : State) (a v : Nat) (y : Nat) : (s.setRg64 a v).page y = s.page y := rfl
@[simp] theorem State.setRg64_selOf (s : State) (a v : Nat) (y : Master) : (s.setRg64 a v).selOf y = s.selOf y := rfl
@[simp] theorem State.setRg64_up (s : State) (a v : Nat)  : (s.setRg64 a v).up = s.up := rfl
@[simp] theorem State.setRg64_buffered (s : State) (a v : Nat) (y : Nat) : (s.setRg64 a v).buffered y = s.buffered y := rfl

/-! `count` changes `regs` alone. -/

@[simp] theorem State.count_now (s : State) (a hi lo n : Nat) : (s.count a hi lo n).now = s.now := rfl
@[simp] theorem State.count_pending (s : State) (a hi lo n : Nat) : (s.count a hi lo n).pending = s.pending := rfl
@[simp] theorem State.count_pages (s : State) (a hi lo n : Nat) : (s.count a hi lo n).pages = s.pages := rfl
@[simp] theorem State.count_mem (s : State) (a hi lo n : Nat) : (s.count a hi lo n).mem = s.mem := rfl
@[simp] theorem State.count_sels (s : State) (a hi lo n : Nat) : (s.count a hi lo n).sels = s.sels := rfl
@[simp] theorem State.count_rd (s : State) (a hi lo n : Nat) : (s.count a hi lo n).rd = s.rd := rfl
@[simp] theorem State.count_freeCtr (s : State) (a hi lo n : Nat) : (s.count a hi lo n).freeCtr = s.freeCtr := rfl
@[simp] theorem State.count_dev (s : State) (a hi lo n : Nat) : (s.count a hi lo n).dev = s.dev := rfl
@[simp] theorem State.count_time (s : State) (a hi lo n : Nat) : (s.count a hi lo n).time = s.time := rfl
@[simp] theorem State.count_weir (s : State) (a hi lo n : Nat) : (s.count a hi lo n).weir = s.weir := rfl
@[simp] theorem State.count_sess (s : State) (a hi lo n : Nat) : (s.count a hi lo n).sess = s.sess := rfl
@[simp] theorem State.count_bw (s : State) (a hi lo n : Nat) : (s.count a hi lo n).bw = s.bw := rfl
@[simp] theorem State.count_fbp (s : State) (a hi lo n : Nat) : (s.count a hi lo n).fbp = s.fbp := rfl
@[simp] theorem State.count_fbSel (s : State) (a hi lo n : Nat) : (s.count a hi lo n).fbSel = s.fbSel := rfl
@[simp] theorem State.count_ax (s : State) (a hi lo n : Nat) : (s.count a hi lo n).ax = s.ax := rfl
@[simp] theorem State.count_mig (s : State) (a hi lo n : Nat) : (s.count a hi lo n).mig = s.mig := rfl
@[simp] theorem State.count_core (s : State) (a hi lo n : Nat) : (s.count a hi lo n).core = s.core := rfl
@[simp] theorem State.count_ecc (s : State) (a hi lo n : Nat) : (s.count a hi lo n).ecc = s.ecc := rfl
@[simp] theorem State.count_sdm (s : State) (a hi lo n : Nat) : (s.count a hi lo n).sdm = s.sdm := rfl
@[simp] theorem State.count_aux (s : State) (a hi lo n : Nat) : (s.count a hi lo n).aux = s.aux := rfl
@[simp] theorem State.count_pwm (s : State) (a hi lo n : Nat) : (s.count a hi lo n).pwm = s.pwm := rfl
@[simp] theorem State.count_tins (s : State) (a hi lo n : Nat) : (s.count a hi lo n).tins = s.tins := rfl
@[simp] theorem State.count_psp (s : State) (a hi lo n : Nat) : (s.count a hi lo n).psp = s.psp := rfl
@[simp] theorem State.count_ws (s : State) (a hi lo n : Nat) : (s.count a hi lo n).ws = s.ws := rfl
@[simp] theorem State.count_stp (s : State) (a hi lo n : Nat) : (s.count a hi lo n).stp = s.stp := rfl
@[simp] theorem State.count_grp (s : State) (a hi lo n : Nat) : (s.count a hi lo n).grp = s.grp := rfl
@[simp] theorem State.count_sset (s : State) (a hi lo n : Nat) : (s.count a hi lo n).sset = s.sset := rfl
@[simp] theorem State.count_wall (s : State) (a hi lo n : Nat) : (s.count a hi lo n).wall = s.wall := rfl
@[simp] theorem State.count_lat (s : State) (a hi lo n : Nat) : (s.count a hi lo n).lat = s.lat := rfl
@[simp] theorem State.count_hop (s : State) (a hi lo n : Nat) : (s.count a hi lo n).hop = s.hop := rfl
@[simp] theorem State.count_fi (s : State) (a hi lo n : Nat) : (s.count a hi lo n).fi = s.fi := rfl
@[simp] theorem State.count_fo (s : State) (a hi lo n : Nat) : (s.count a hi lo n).fo = s.fo := rfl
@[simp] theorem State.count_can (s : State) (a hi lo n : Nat) : (s.count a hi lo n).can = s.can := rfl
@[simp] theorem State.count_eth (s : State) (a hi lo n : Nat) : (s.count a hi lo n).eth = s.eth := rfl
@[simp] theorem State.count_race (s : State) (a hi lo n : Nat) : (s.count a hi lo n).race = s.race := rfl
@[simp] theorem State.count_red (s : State) (a hi lo n : Nat) : (s.count a hi lo n).red = s.red := rfl
@[simp] theorem State.count_pwr (s : State) (a hi lo n : Nat) : (s.count a hi lo n).pwr = s.pwr := rfl
@[simp] theorem State.count_host (s : State) (a hi lo n : Nat) : (s.count a hi lo n).host = s.host := rfl
@[simp] theorem State.count_spi (s : State) (a hi lo n : Nat) : (s.count a hi lo n).spi = s.spi := rfl
@[simp] theorem State.count_bist (s : State) (a hi lo n : Nat) : (s.count a hi lo n).bist = s.bist := rfl
@[simp] theorem State.count_ldw (s : State) (a hi lo n : Nat) (y : Nat) : (s.count a hi lo n).ldw y = s.ldw y := rfl
@[simp] theorem State.count_cr (s : State) (a hi lo n : Nat) (y : Nat) : (s.count a hi lo n).cr y = s.cr y := rfl
@[simp] theorem State.count_page (s : State) (a hi lo n : Nat) (y : Nat) : (s.count a hi lo n).page y = s.page y := rfl
@[simp] theorem State.count_selOf (s : State) (a hi lo n : Nat) (y : Master) : (s.count a hi lo n).selOf y = s.selOf y := rfl
@[simp] theorem State.count_up (s : State) (a hi lo n : Nat)  : (s.count a hi lo n).up = s.up := rfl
@[simp] theorem State.count_buffered (s : State) (a hi lo n : Nat) (y : Nat) : (s.count a hi lo n).buffered y = s.buffered y := rfl

/-! `setCoreState0` changes `regs` alone. -/

@[simp] theorem State.setCoreState0_now (s : State) (c v : Nat) : (s.setCoreState0 c v).now = s.now := rfl
@[simp] theorem State.setCoreState0_pending (s : State) (c v : Nat) : (s.setCoreState0 c v).pending = s.pending := rfl
@[simp] theorem State.setCoreState0_pages (s : State) (c v : Nat) : (s.setCoreState0 c v).pages = s.pages := rfl
@[simp] theorem State.setCoreState0_mem (s : State) (c v : Nat) : (s.setCoreState0 c v).mem = s.mem := rfl
@[simp] theorem State.setCoreState0_sels (s : State) (c v : Nat) : (s.setCoreState0 c v).sels = s.sels := rfl
@[simp] theorem State.setCoreState0_rd (s : State) (c v : Nat) : (s.setCoreState0 c v).rd = s.rd := rfl
@[simp] theorem State.setCoreState0_freeCtr (s : State) (c v : Nat) : (s.setCoreState0 c v).freeCtr = s.freeCtr := rfl
@[simp] theorem State.setCoreState0_dev (s : State) (c v : Nat) : (s.setCoreState0 c v).dev = s.dev := rfl
@[simp] theorem State.setCoreState0_time (s : State) (c v : Nat) : (s.setCoreState0 c v).time = s.time := rfl
@[simp] theorem State.setCoreState0_weir (s : State) (c v : Nat) : (s.setCoreState0 c v).weir = s.weir := rfl
@[simp] theorem State.setCoreState0_sess (s : State) (c v : Nat) : (s.setCoreState0 c v).sess = s.sess := rfl
@[simp] theorem State.setCoreState0_bw (s : State) (c v : Nat) : (s.setCoreState0 c v).bw = s.bw := rfl
@[simp] theorem State.setCoreState0_fbp (s : State) (c v : Nat) : (s.setCoreState0 c v).fbp = s.fbp := rfl
@[simp] theorem State.setCoreState0_fbSel (s : State) (c v : Nat) : (s.setCoreState0 c v).fbSel = s.fbSel := rfl
@[simp] theorem State.setCoreState0_ax (s : State) (c v : Nat) : (s.setCoreState0 c v).ax = s.ax := rfl
@[simp] theorem State.setCoreState0_mig (s : State) (c v : Nat) : (s.setCoreState0 c v).mig = s.mig := rfl
@[simp] theorem State.setCoreState0_core (s : State) (c v : Nat) : (s.setCoreState0 c v).core = s.core := rfl
@[simp] theorem State.setCoreState0_ecc (s : State) (c v : Nat) : (s.setCoreState0 c v).ecc = s.ecc := rfl
@[simp] theorem State.setCoreState0_sdm (s : State) (c v : Nat) : (s.setCoreState0 c v).sdm = s.sdm := rfl
@[simp] theorem State.setCoreState0_aux (s : State) (c v : Nat) : (s.setCoreState0 c v).aux = s.aux := rfl
@[simp] theorem State.setCoreState0_pwm (s : State) (c v : Nat) : (s.setCoreState0 c v).pwm = s.pwm := rfl
@[simp] theorem State.setCoreState0_tins (s : State) (c v : Nat) : (s.setCoreState0 c v).tins = s.tins := rfl
@[simp] theorem State.setCoreState0_psp (s : State) (c v : Nat) : (s.setCoreState0 c v).psp = s.psp := rfl
@[simp] theorem State.setCoreState0_ws (s : State) (c v : Nat) : (s.setCoreState0 c v).ws = s.ws := rfl
@[simp] theorem State.setCoreState0_stp (s : State) (c v : Nat) : (s.setCoreState0 c v).stp = s.stp := rfl
@[simp] theorem State.setCoreState0_grp (s : State) (c v : Nat) : (s.setCoreState0 c v).grp = s.grp := rfl
@[simp] theorem State.setCoreState0_sset (s : State) (c v : Nat) : (s.setCoreState0 c v).sset = s.sset := rfl
@[simp] theorem State.setCoreState0_wall (s : State) (c v : Nat) : (s.setCoreState0 c v).wall = s.wall := rfl
@[simp] theorem State.setCoreState0_lat (s : State) (c v : Nat) : (s.setCoreState0 c v).lat = s.lat := rfl
@[simp] theorem State.setCoreState0_hop (s : State) (c v : Nat) : (s.setCoreState0 c v).hop = s.hop := rfl
@[simp] theorem State.setCoreState0_fi (s : State) (c v : Nat) : (s.setCoreState0 c v).fi = s.fi := rfl
@[simp] theorem State.setCoreState0_fo (s : State) (c v : Nat) : (s.setCoreState0 c v).fo = s.fo := rfl
@[simp] theorem State.setCoreState0_can (s : State) (c v : Nat) : (s.setCoreState0 c v).can = s.can := rfl
@[simp] theorem State.setCoreState0_eth (s : State) (c v : Nat) : (s.setCoreState0 c v).eth = s.eth := rfl
@[simp] theorem State.setCoreState0_race (s : State) (c v : Nat) : (s.setCoreState0 c v).race = s.race := rfl
@[simp] theorem State.setCoreState0_red (s : State) (c v : Nat) : (s.setCoreState0 c v).red = s.red := rfl
@[simp] theorem State.setCoreState0_pwr (s : State) (c v : Nat) : (s.setCoreState0 c v).pwr = s.pwr := rfl
@[simp] theorem State.setCoreState0_host (s : State) (c v : Nat) : (s.setCoreState0 c v).host = s.host := rfl
@[simp] theorem State.setCoreState0_spi (s : State) (c v : Nat) : (s.setCoreState0 c v).spi = s.spi := rfl
@[simp] theorem State.setCoreState0_bist (s : State) (c v : Nat) : (s.setCoreState0 c v).bist = s.bist := rfl
@[simp] theorem State.setCoreState0_ldw (s : State) (c v : Nat) (y : Nat) : (s.setCoreState0 c v).ldw y = s.ldw y := rfl
@[simp] theorem State.setCoreState0_cr (s : State) (c v : Nat) (y : Nat) : (s.setCoreState0 c v).cr y = s.cr y := rfl
@[simp] theorem State.setCoreState0_page (s : State) (c v : Nat) (y : Nat) : (s.setCoreState0 c v).page y = s.page y := rfl
@[simp] theorem State.setCoreState0_selOf (s : State) (c v : Nat) (y : Master) : (s.setCoreState0 c v).selOf y = s.selOf y := rfl
@[simp] theorem State.setCoreState0_up (s : State) (c v : Nat)  : (s.setCoreState0 c v).up = s.up := rfl
@[simp] theorem State.setCoreState0_buffered (s : State) (c v : Nat) (y : Nat) : (s.setCoreState0 c v).buffered y = s.buffered y := rfl

/-! `irq` changes `regs` and `pages` alone. -/

@[simp] theorem State.irq_now (s : State) (b bits : Nat) : (s.irq b bits).now = s.now := rfl
@[simp] theorem State.irq_pending (s : State) (b bits : Nat) : (s.irq b bits).pending = s.pending := rfl
@[simp] theorem State.irq_mem (s : State) (b bits : Nat) : (s.irq b bits).mem = s.mem := rfl
@[simp] theorem State.irq_sels (s : State) (b bits : Nat) : (s.irq b bits).sels = s.sels := rfl
@[simp] theorem State.irq_rd (s : State) (b bits : Nat) : (s.irq b bits).rd = s.rd := rfl
@[simp] theorem State.irq_freeCtr (s : State) (b bits : Nat) : (s.irq b bits).freeCtr = s.freeCtr := rfl
@[simp] theorem State.irq_dev (s : State) (b bits : Nat) : (s.irq b bits).dev = s.dev := rfl
@[simp] theorem State.irq_time (s : State) (b bits : Nat) : (s.irq b bits).time = s.time := rfl
@[simp] theorem State.irq_weir (s : State) (b bits : Nat) : (s.irq b bits).weir = s.weir := rfl
@[simp] theorem State.irq_sess (s : State) (b bits : Nat) : (s.irq b bits).sess = s.sess := rfl
@[simp] theorem State.irq_bw (s : State) (b bits : Nat) : (s.irq b bits).bw = s.bw := rfl
@[simp] theorem State.irq_fbp (s : State) (b bits : Nat) : (s.irq b bits).fbp = s.fbp := rfl
@[simp] theorem State.irq_fbSel (s : State) (b bits : Nat) : (s.irq b bits).fbSel = s.fbSel := rfl
@[simp] theorem State.irq_ax (s : State) (b bits : Nat) : (s.irq b bits).ax = s.ax := rfl
@[simp] theorem State.irq_mig (s : State) (b bits : Nat) : (s.irq b bits).mig = s.mig := rfl
@[simp] theorem State.irq_core (s : State) (b bits : Nat) : (s.irq b bits).core = s.core := rfl
@[simp] theorem State.irq_ecc (s : State) (b bits : Nat) : (s.irq b bits).ecc = s.ecc := rfl
@[simp] theorem State.irq_sdm (s : State) (b bits : Nat) : (s.irq b bits).sdm = s.sdm := rfl
@[simp] theorem State.irq_aux (s : State) (b bits : Nat) : (s.irq b bits).aux = s.aux := rfl
@[simp] theorem State.irq_pwm (s : State) (b bits : Nat) : (s.irq b bits).pwm = s.pwm := rfl
@[simp] theorem State.irq_tins (s : State) (b bits : Nat) : (s.irq b bits).tins = s.tins := rfl
@[simp] theorem State.irq_psp (s : State) (b bits : Nat) : (s.irq b bits).psp = s.psp := rfl
@[simp] theorem State.irq_ws (s : State) (b bits : Nat) : (s.irq b bits).ws = s.ws := rfl
@[simp] theorem State.irq_stp (s : State) (b bits : Nat) : (s.irq b bits).stp = s.stp := rfl
@[simp] theorem State.irq_grp (s : State) (b bits : Nat) : (s.irq b bits).grp = s.grp := rfl
@[simp] theorem State.irq_sset (s : State) (b bits : Nat) : (s.irq b bits).sset = s.sset := rfl
@[simp] theorem State.irq_wall (s : State) (b bits : Nat) : (s.irq b bits).wall = s.wall := rfl
@[simp] theorem State.irq_lat (s : State) (b bits : Nat) : (s.irq b bits).lat = s.lat := rfl
@[simp] theorem State.irq_hop (s : State) (b bits : Nat) : (s.irq b bits).hop = s.hop := rfl
@[simp] theorem State.irq_fi (s : State) (b bits : Nat) : (s.irq b bits).fi = s.fi := rfl
@[simp] theorem State.irq_fo (s : State) (b bits : Nat) : (s.irq b bits).fo = s.fo := rfl
@[simp] theorem State.irq_can (s : State) (b bits : Nat) : (s.irq b bits).can = s.can := rfl
@[simp] theorem State.irq_eth (s : State) (b bits : Nat) : (s.irq b bits).eth = s.eth := rfl
@[simp] theorem State.irq_race (s : State) (b bits : Nat) : (s.irq b bits).race = s.race := rfl
@[simp] theorem State.irq_red (s : State) (b bits : Nat) : (s.irq b bits).red = s.red := rfl
@[simp] theorem State.irq_pwr (s : State) (b bits : Nat) : (s.irq b bits).pwr = s.pwr := rfl
@[simp] theorem State.irq_host (s : State) (b bits : Nat) : (s.irq b bits).host = s.host := rfl
@[simp] theorem State.irq_spi (s : State) (b bits : Nat) : (s.irq b bits).spi = s.spi := rfl
@[simp] theorem State.irq_bist (s : State) (b bits : Nat) : (s.irq b bits).bist = s.bist := rfl
@[simp] theorem State.irq_ldw (s : State) (b bits : Nat) (y : Nat) : (s.irq b bits).ldw y = s.ldw y := rfl
@[simp] theorem State.irq_cr (s : State) (b bits : Nat) (y : Nat) : (s.irq b bits).cr y = s.cr y := rfl
@[simp] theorem State.irq_selOf (s : State) (b bits : Nat) (y : Master) : (s.irq b bits).selOf y = s.selOf y := rfl
@[simp] theorem State.irq_up (s : State) (b bits : Nat)  : (s.irq b bits).up = s.up := rfl
@[simp] theorem State.irq_buffered (s : State) (b bits : Nat) (y : Nat) : (s.irq b bits).buffered y = s.buffered y := rfl

/-! `setPage` changes `pages` alone. -/

@[simp] theorem State.setPage_now (s : State) (b : Nat) (f : PageSt → PageSt) : (s.setPage b f).now = s.now := rfl
@[simp] theorem State.setPage_pending (s : State) (b : Nat) (f : PageSt → PageSt) : (s.setPage b f).pending = s.pending := rfl
@[simp] theorem State.setPage_regs (s : State) (b : Nat) (f : PageSt → PageSt) : (s.setPage b f).regs = s.regs := rfl
@[simp] theorem State.setPage_mem (s : State) (b : Nat) (f : PageSt → PageSt) : (s.setPage b f).mem = s.mem := rfl
@[simp] theorem State.setPage_sels (s : State) (b : Nat) (f : PageSt → PageSt) : (s.setPage b f).sels = s.sels := rfl
@[simp] theorem State.setPage_rd (s : State) (b : Nat) (f : PageSt → PageSt) : (s.setPage b f).rd = s.rd := rfl
@[simp] theorem State.setPage_freeCtr (s : State) (b : Nat) (f : PageSt → PageSt) : (s.setPage b f).freeCtr = s.freeCtr := rfl
@[simp] theorem State.setPage_dev (s : State) (b : Nat) (f : PageSt → PageSt) : (s.setPage b f).dev = s.dev := rfl
@[simp] theorem State.setPage_time (s : State) (b : Nat) (f : PageSt → PageSt) : (s.setPage b f).time = s.time := rfl
@[simp] theorem State.setPage_weir (s : State) (b : Nat) (f : PageSt → PageSt) : (s.setPage b f).weir = s.weir := rfl
@[simp] theorem State.setPage_sess (s : State) (b : Nat) (f : PageSt → PageSt) : (s.setPage b f).sess = s.sess := rfl
@[simp] theorem State.setPage_bw (s : State) (b : Nat) (f : PageSt → PageSt) : (s.setPage b f).bw = s.bw := rfl
@[simp] theorem State.setPage_fbp (s : State) (b : Nat) (f : PageSt → PageSt) : (s.setPage b f).fbp = s.fbp := rfl
@[simp] theorem State.setPage_fbSel (s : State) (b : Nat) (f : PageSt → PageSt) : (s.setPage b f).fbSel = s.fbSel := rfl
@[simp] theorem State.setPage_ax (s : State) (b : Nat) (f : PageSt → PageSt) : (s.setPage b f).ax = s.ax := rfl
@[simp] theorem State.setPage_mig (s : State) (b : Nat) (f : PageSt → PageSt) : (s.setPage b f).mig = s.mig := rfl
@[simp] theorem State.setPage_core (s : State) (b : Nat) (f : PageSt → PageSt) : (s.setPage b f).core = s.core := rfl
@[simp] theorem State.setPage_ecc (s : State) (b : Nat) (f : PageSt → PageSt) : (s.setPage b f).ecc = s.ecc := rfl
@[simp] theorem State.setPage_sdm (s : State) (b : Nat) (f : PageSt → PageSt) : (s.setPage b f).sdm = s.sdm := rfl
@[simp] theorem State.setPage_aux (s : State) (b : Nat) (f : PageSt → PageSt) : (s.setPage b f).aux = s.aux := rfl
@[simp] theorem State.setPage_pwm (s : State) (b : Nat) (f : PageSt → PageSt) : (s.setPage b f).pwm = s.pwm := rfl
@[simp] theorem State.setPage_tins (s : State) (b : Nat) (f : PageSt → PageSt) : (s.setPage b f).tins = s.tins := rfl
@[simp] theorem State.setPage_psp (s : State) (b : Nat) (f : PageSt → PageSt) : (s.setPage b f).psp = s.psp := rfl
@[simp] theorem State.setPage_ws (s : State) (b : Nat) (f : PageSt → PageSt) : (s.setPage b f).ws = s.ws := rfl
@[simp] theorem State.setPage_stp (s : State) (b : Nat) (f : PageSt → PageSt) : (s.setPage b f).stp = s.stp := rfl
@[simp] theorem State.setPage_grp (s : State) (b : Nat) (f : PageSt → PageSt) : (s.setPage b f).grp = s.grp := rfl
@[simp] theorem State.setPage_sset (s : State) (b : Nat) (f : PageSt → PageSt) : (s.setPage b f).sset = s.sset := rfl
@[simp] theorem State.setPage_wall (s : State) (b : Nat) (f : PageSt → PageSt) : (s.setPage b f).wall = s.wall := rfl
@[simp] theorem State.setPage_lat (s : State) (b : Nat) (f : PageSt → PageSt) : (s.setPage b f).lat = s.lat := rfl
@[simp] theorem State.setPage_hop (s : State) (b : Nat) (f : PageSt → PageSt) : (s.setPage b f).hop = s.hop := rfl
@[simp] theorem State.setPage_fi (s : State) (b : Nat) (f : PageSt → PageSt) : (s.setPage b f).fi = s.fi := rfl
@[simp] theorem State.setPage_fo (s : State) (b : Nat) (f : PageSt → PageSt) : (s.setPage b f).fo = s.fo := rfl
@[simp] theorem State.setPage_can (s : State) (b : Nat) (f : PageSt → PageSt) : (s.setPage b f).can = s.can := rfl
@[simp] theorem State.setPage_eth (s : State) (b : Nat) (f : PageSt → PageSt) : (s.setPage b f).eth = s.eth := rfl
@[simp] theorem State.setPage_race (s : State) (b : Nat) (f : PageSt → PageSt) : (s.setPage b f).race = s.race := rfl
@[simp] theorem State.setPage_red (s : State) (b : Nat) (f : PageSt → PageSt) : (s.setPage b f).red = s.red := rfl
@[simp] theorem State.setPage_pwr (s : State) (b : Nat) (f : PageSt → PageSt) : (s.setPage b f).pwr = s.pwr := rfl
@[simp] theorem State.setPage_host (s : State) (b : Nat) (f : PageSt → PageSt) : (s.setPage b f).host = s.host := rfl
@[simp] theorem State.setPage_spi (s : State) (b : Nat) (f : PageSt → PageSt) : (s.setPage b f).spi = s.spi := rfl
@[simp] theorem State.setPage_bist (s : State) (b : Nat) (f : PageSt → PageSt) : (s.setPage b f).bist = s.bist := rfl
@[simp] theorem State.setPage_rg (s : State) (b : Nat) (f : PageSt → PageSt) (y : Nat) : (s.setPage b f).rg y = s.rg y := rfl
@[simp] theorem State.setPage_ldw (s : State) (b : Nat) (f : PageSt → PageSt) (y : Nat) : (s.setPage b f).ldw y = s.ldw y := rfl
@[simp] theorem State.setPage_cr (s : State) (b : Nat) (f : PageSt → PageSt) (y : Nat) : (s.setPage b f).cr y = s.cr y := rfl
@[simp] theorem State.setPage_selOf (s : State) (b : Nat) (f : PageSt → PageSt) (y : Master) : (s.setPage b f).selOf y = s.selOf y := rfl
@[simp] theorem State.setPage_up (s : State) (b : Nat) (f : PageSt → PageSt)  : (s.setPage b f).up = s.up := rfl
@[simp] theorem State.setPage_buffered (s : State) (b : Nat) (f : PageSt → PageSt) (y : Nat) : (s.setPage b f).buffered y = s.buffered y := rfl

/-! `setSel` changes `sels` alone. -/

@[simp] theorem State.setSel_now (s : State) (m : Master) (f : Selectors → Selectors) : (s.setSel m f).now = s.now := rfl
@[simp] theorem State.setSel_pending (s : State) (m : Master) (f : Selectors → Selectors) : (s.setSel m f).pending = s.pending := rfl
@[simp] theorem State.setSel_regs (s : State) (m : Master) (f : Selectors → Selectors) : (s.setSel m f).regs = s.regs := rfl
@[simp] theorem State.setSel_pages (s : State) (m : Master) (f : Selectors → Selectors) : (s.setSel m f).pages = s.pages := rfl
@[simp] theorem State.setSel_mem (s : State) (m : Master) (f : Selectors → Selectors) : (s.setSel m f).mem = s.mem := rfl
@[simp] theorem State.setSel_rd (s : State) (m : Master) (f : Selectors → Selectors) : (s.setSel m f).rd = s.rd := rfl
@[simp] theorem State.setSel_freeCtr (s : State) (m : Master) (f : Selectors → Selectors) : (s.setSel m f).freeCtr = s.freeCtr := rfl
@[simp] theorem State.setSel_dev (s : State) (m : Master) (f : Selectors → Selectors) : (s.setSel m f).dev = s.dev := rfl
@[simp] theorem State.setSel_time (s : State) (m : Master) (f : Selectors → Selectors) : (s.setSel m f).time = s.time := rfl
@[simp] theorem State.setSel_weir (s : State) (m : Master) (f : Selectors → Selectors) : (s.setSel m f).weir = s.weir := rfl
@[simp] theorem State.setSel_sess (s : State) (m : Master) (f : Selectors → Selectors) : (s.setSel m f).sess = s.sess := rfl
@[simp] theorem State.setSel_bw (s : State) (m : Master) (f : Selectors → Selectors) : (s.setSel m f).bw = s.bw := rfl
@[simp] theorem State.setSel_fbp (s : State) (m : Master) (f : Selectors → Selectors) : (s.setSel m f).fbp = s.fbp := rfl
@[simp] theorem State.setSel_fbSel (s : State) (m : Master) (f : Selectors → Selectors) : (s.setSel m f).fbSel = s.fbSel := rfl
@[simp] theorem State.setSel_ax (s : State) (m : Master) (f : Selectors → Selectors) : (s.setSel m f).ax = s.ax := rfl
@[simp] theorem State.setSel_mig (s : State) (m : Master) (f : Selectors → Selectors) : (s.setSel m f).mig = s.mig := rfl
@[simp] theorem State.setSel_core (s : State) (m : Master) (f : Selectors → Selectors) : (s.setSel m f).core = s.core := rfl
@[simp] theorem State.setSel_ecc (s : State) (m : Master) (f : Selectors → Selectors) : (s.setSel m f).ecc = s.ecc := rfl
@[simp] theorem State.setSel_sdm (s : State) (m : Master) (f : Selectors → Selectors) : (s.setSel m f).sdm = s.sdm := rfl
@[simp] theorem State.setSel_aux (s : State) (m : Master) (f : Selectors → Selectors) : (s.setSel m f).aux = s.aux := rfl
@[simp] theorem State.setSel_pwm (s : State) (m : Master) (f : Selectors → Selectors) : (s.setSel m f).pwm = s.pwm := rfl
@[simp] theorem State.setSel_tins (s : State) (m : Master) (f : Selectors → Selectors) : (s.setSel m f).tins = s.tins := rfl
@[simp] theorem State.setSel_psp (s : State) (m : Master) (f : Selectors → Selectors) : (s.setSel m f).psp = s.psp := rfl
@[simp] theorem State.setSel_ws (s : State) (m : Master) (f : Selectors → Selectors) : (s.setSel m f).ws = s.ws := rfl
@[simp] theorem State.setSel_stp (s : State) (m : Master) (f : Selectors → Selectors) : (s.setSel m f).stp = s.stp := rfl
@[simp] theorem State.setSel_grp (s : State) (m : Master) (f : Selectors → Selectors) : (s.setSel m f).grp = s.grp := rfl
@[simp] theorem State.setSel_sset (s : State) (m : Master) (f : Selectors → Selectors) : (s.setSel m f).sset = s.sset := rfl
@[simp] theorem State.setSel_wall (s : State) (m : Master) (f : Selectors → Selectors) : (s.setSel m f).wall = s.wall := rfl
@[simp] theorem State.setSel_lat (s : State) (m : Master) (f : Selectors → Selectors) : (s.setSel m f).lat = s.lat := rfl
@[simp] theorem State.setSel_hop (s : State) (m : Master) (f : Selectors → Selectors) : (s.setSel m f).hop = s.hop := rfl
@[simp] theorem State.setSel_fi (s : State) (m : Master) (f : Selectors → Selectors) : (s.setSel m f).fi = s.fi := rfl
@[simp] theorem State.setSel_fo (s : State) (m : Master) (f : Selectors → Selectors) : (s.setSel m f).fo = s.fo := rfl
@[simp] theorem State.setSel_can (s : State) (m : Master) (f : Selectors → Selectors) : (s.setSel m f).can = s.can := rfl
@[simp] theorem State.setSel_eth (s : State) (m : Master) (f : Selectors → Selectors) : (s.setSel m f).eth = s.eth := rfl
@[simp] theorem State.setSel_race (s : State) (m : Master) (f : Selectors → Selectors) : (s.setSel m f).race = s.race := rfl
@[simp] theorem State.setSel_red (s : State) (m : Master) (f : Selectors → Selectors) : (s.setSel m f).red = s.red := rfl
@[simp] theorem State.setSel_pwr (s : State) (m : Master) (f : Selectors → Selectors) : (s.setSel m f).pwr = s.pwr := rfl
@[simp] theorem State.setSel_host (s : State) (m : Master) (f : Selectors → Selectors) : (s.setSel m f).host = s.host := rfl
@[simp] theorem State.setSel_spi (s : State) (m : Master) (f : Selectors → Selectors) : (s.setSel m f).spi = s.spi := rfl
@[simp] theorem State.setSel_bist (s : State) (m : Master) (f : Selectors → Selectors) : (s.setSel m f).bist = s.bist := rfl
@[simp] theorem State.setSel_rg (s : State) (m : Master) (f : Selectors → Selectors) (y : Nat) : (s.setSel m f).rg y = s.rg y := rfl
@[simp] theorem State.setSel_ldw (s : State) (m : Master) (f : Selectors → Selectors) (y : Nat) : (s.setSel m f).ldw y = s.ldw y := rfl
@[simp] theorem State.setSel_cr (s : State) (m : Master) (f : Selectors → Selectors) (y : Nat) : (s.setSel m f).cr y = s.cr y := rfl
@[simp] theorem State.setSel_page (s : State) (m : Master) (f : Selectors → Selectors) (y : Nat) : (s.setSel m f).page y = s.page y := rfl
@[simp] theorem State.setSel_up (s : State) (m : Master) (f : Selectors → Selectors)  : (s.setSel m f).up = s.up := rfl
@[simp] theorem State.setSel_buffered (s : State) (m : Master) (f : Selectors → Selectors) (y : Nat) : (s.setSel m f).buffered y = s.buffered y := rfl

/-! `stw` changes `mem` alone. -/

@[simp] theorem State.stw_now (s : State) (a : Nat) (w : Word) : (s.stw a w).now = s.now := rfl
@[simp] theorem State.stw_pending (s : State) (a : Nat) (w : Word) : (s.stw a w).pending = s.pending := rfl
@[simp] theorem State.stw_regs (s : State) (a : Nat) (w : Word) : (s.stw a w).regs = s.regs := rfl
@[simp] theorem State.stw_pages (s : State) (a : Nat) (w : Word) : (s.stw a w).pages = s.pages := rfl
@[simp] theorem State.stw_sels (s : State) (a : Nat) (w : Word) : (s.stw a w).sels = s.sels := rfl
@[simp] theorem State.stw_rd (s : State) (a : Nat) (w : Word) : (s.stw a w).rd = s.rd := rfl
@[simp] theorem State.stw_freeCtr (s : State) (a : Nat) (w : Word) : (s.stw a w).freeCtr = s.freeCtr := rfl
@[simp] theorem State.stw_dev (s : State) (a : Nat) (w : Word) : (s.stw a w).dev = s.dev := rfl
@[simp] theorem State.stw_time (s : State) (a : Nat) (w : Word) : (s.stw a w).time = s.time := rfl
@[simp] theorem State.stw_weir (s : State) (a : Nat) (w : Word) : (s.stw a w).weir = s.weir := rfl
@[simp] theorem State.stw_sess (s : State) (a : Nat) (w : Word) : (s.stw a w).sess = s.sess := rfl
@[simp] theorem State.stw_bw (s : State) (a : Nat) (w : Word) : (s.stw a w).bw = s.bw := rfl
@[simp] theorem State.stw_fbp (s : State) (a : Nat) (w : Word) : (s.stw a w).fbp = s.fbp := rfl
@[simp] theorem State.stw_fbSel (s : State) (a : Nat) (w : Word) : (s.stw a w).fbSel = s.fbSel := rfl
@[simp] theorem State.stw_ax (s : State) (a : Nat) (w : Word) : (s.stw a w).ax = s.ax := rfl
@[simp] theorem State.stw_mig (s : State) (a : Nat) (w : Word) : (s.stw a w).mig = s.mig := rfl
@[simp] theorem State.stw_core (s : State) (a : Nat) (w : Word) : (s.stw a w).core = s.core := rfl
@[simp] theorem State.stw_ecc (s : State) (a : Nat) (w : Word) : (s.stw a w).ecc = s.ecc := rfl
@[simp] theorem State.stw_sdm (s : State) (a : Nat) (w : Word) : (s.stw a w).sdm = s.sdm := rfl
@[simp] theorem State.stw_aux (s : State) (a : Nat) (w : Word) : (s.stw a w).aux = s.aux := rfl
@[simp] theorem State.stw_pwm (s : State) (a : Nat) (w : Word) : (s.stw a w).pwm = s.pwm := rfl
@[simp] theorem State.stw_tins (s : State) (a : Nat) (w : Word) : (s.stw a w).tins = s.tins := rfl
@[simp] theorem State.stw_psp (s : State) (a : Nat) (w : Word) : (s.stw a w).psp = s.psp := rfl
@[simp] theorem State.stw_ws (s : State) (a : Nat) (w : Word) : (s.stw a w).ws = s.ws := rfl
@[simp] theorem State.stw_stp (s : State) (a : Nat) (w : Word) : (s.stw a w).stp = s.stp := rfl
@[simp] theorem State.stw_grp (s : State) (a : Nat) (w : Word) : (s.stw a w).grp = s.grp := rfl
@[simp] theorem State.stw_sset (s : State) (a : Nat) (w : Word) : (s.stw a w).sset = s.sset := rfl
@[simp] theorem State.stw_wall (s : State) (a : Nat) (w : Word) : (s.stw a w).wall = s.wall := rfl
@[simp] theorem State.stw_lat (s : State) (a : Nat) (w : Word) : (s.stw a w).lat = s.lat := rfl
@[simp] theorem State.stw_hop (s : State) (a : Nat) (w : Word) : (s.stw a w).hop = s.hop := rfl
@[simp] theorem State.stw_fi (s : State) (a : Nat) (w : Word) : (s.stw a w).fi = s.fi := rfl
@[simp] theorem State.stw_fo (s : State) (a : Nat) (w : Word) : (s.stw a w).fo = s.fo := rfl
@[simp] theorem State.stw_can (s : State) (a : Nat) (w : Word) : (s.stw a w).can = s.can := rfl
@[simp] theorem State.stw_eth (s : State) (a : Nat) (w : Word) : (s.stw a w).eth = s.eth := rfl
@[simp] theorem State.stw_race (s : State) (a : Nat) (w : Word) : (s.stw a w).race = s.race := rfl
@[simp] theorem State.stw_red (s : State) (a : Nat) (w : Word) : (s.stw a w).red = s.red := rfl
@[simp] theorem State.stw_pwr (s : State) (a : Nat) (w : Word) : (s.stw a w).pwr = s.pwr := rfl
@[simp] theorem State.stw_host (s : State) (a : Nat) (w : Word) : (s.stw a w).host = s.host := rfl
@[simp] theorem State.stw_spi (s : State) (a : Nat) (w : Word) : (s.stw a w).spi = s.spi := rfl
@[simp] theorem State.stw_bist (s : State) (a : Nat) (w : Word) : (s.stw a w).bist = s.bist := rfl
@[simp] theorem State.stw_rg (s : State) (a : Nat) (w : Word) (y : Nat) : (s.stw a w).rg y = s.rg y := rfl
@[simp] theorem State.stw_cr (s : State) (a : Nat) (w : Word) (y : Nat) : (s.stw a w).cr y = s.cr y := rfl
@[simp] theorem State.stw_page (s : State) (a : Nat) (w : Word) (y : Nat) : (s.stw a w).page y = s.page y := rfl
@[simp] theorem State.stw_selOf (s : State) (a : Nat) (w : Word) (y : Master) : (s.stw a w).selOf y = s.selOf y := rfl
@[simp] theorem State.stw_up (s : State) (a : Nat) (w : Word)  : (s.stw a w).up = s.up := rfl
@[simp] theorem State.stw_buffered (s : State) (a : Nat) (w : Word) (y : Nat) : (s.stw a w).buffered y = s.buffered y := rfl

/-! `setAx` changes `ax` alone. -/

@[simp] theorem State.setAx_now (s : State) (a : Nat) (f : AxSt → AxSt) : (s.setAx a f).now = s.now := rfl
@[simp] theorem State.setAx_pending (s : State) (a : Nat) (f : AxSt → AxSt) : (s.setAx a f).pending = s.pending := rfl
@[simp] theorem State.setAx_regs (s : State) (a : Nat) (f : AxSt → AxSt) : (s.setAx a f).regs = s.regs := rfl
@[simp] theorem State.setAx_pages (s : State) (a : Nat) (f : AxSt → AxSt) : (s.setAx a f).pages = s.pages := rfl
@[simp] theorem State.setAx_mem (s : State) (a : Nat) (f : AxSt → AxSt) : (s.setAx a f).mem = s.mem := rfl
@[simp] theorem State.setAx_sels (s : State) (a : Nat) (f : AxSt → AxSt) : (s.setAx a f).sels = s.sels := rfl
@[simp] theorem State.setAx_rd (s : State) (a : Nat) (f : AxSt → AxSt) : (s.setAx a f).rd = s.rd := rfl
@[simp] theorem State.setAx_freeCtr (s : State) (a : Nat) (f : AxSt → AxSt) : (s.setAx a f).freeCtr = s.freeCtr := rfl
@[simp] theorem State.setAx_dev (s : State) (a : Nat) (f : AxSt → AxSt) : (s.setAx a f).dev = s.dev := rfl
@[simp] theorem State.setAx_time (s : State) (a : Nat) (f : AxSt → AxSt) : (s.setAx a f).time = s.time := rfl
@[simp] theorem State.setAx_weir (s : State) (a : Nat) (f : AxSt → AxSt) : (s.setAx a f).weir = s.weir := rfl
@[simp] theorem State.setAx_sess (s : State) (a : Nat) (f : AxSt → AxSt) : (s.setAx a f).sess = s.sess := rfl
@[simp] theorem State.setAx_bw (s : State) (a : Nat) (f : AxSt → AxSt) : (s.setAx a f).bw = s.bw := rfl
@[simp] theorem State.setAx_fbp (s : State) (a : Nat) (f : AxSt → AxSt) : (s.setAx a f).fbp = s.fbp := rfl
@[simp] theorem State.setAx_fbSel (s : State) (a : Nat) (f : AxSt → AxSt) : (s.setAx a f).fbSel = s.fbSel := rfl
@[simp] theorem State.setAx_mig (s : State) (a : Nat) (f : AxSt → AxSt) : (s.setAx a f).mig = s.mig := rfl
@[simp] theorem State.setAx_core (s : State) (a : Nat) (f : AxSt → AxSt) : (s.setAx a f).core = s.core := rfl
@[simp] theorem State.setAx_ecc (s : State) (a : Nat) (f : AxSt → AxSt) : (s.setAx a f).ecc = s.ecc := rfl
@[simp] theorem State.setAx_sdm (s : State) (a : Nat) (f : AxSt → AxSt) : (s.setAx a f).sdm = s.sdm := rfl
@[simp] theorem State.setAx_aux (s : State) (a : Nat) (f : AxSt → AxSt) : (s.setAx a f).aux = s.aux := rfl
@[simp] theorem State.setAx_pwm (s : State) (a : Nat) (f : AxSt → AxSt) : (s.setAx a f).pwm = s.pwm := rfl
@[simp] theorem State.setAx_tins (s : State) (a : Nat) (f : AxSt → AxSt) : (s.setAx a f).tins = s.tins := rfl
@[simp] theorem State.setAx_psp (s : State) (a : Nat) (f : AxSt → AxSt) : (s.setAx a f).psp = s.psp := rfl
@[simp] theorem State.setAx_ws (s : State) (a : Nat) (f : AxSt → AxSt) : (s.setAx a f).ws = s.ws := rfl
@[simp] theorem State.setAx_stp (s : State) (a : Nat) (f : AxSt → AxSt) : (s.setAx a f).stp = s.stp := rfl
@[simp] theorem State.setAx_grp (s : State) (a : Nat) (f : AxSt → AxSt) : (s.setAx a f).grp = s.grp := rfl
@[simp] theorem State.setAx_sset (s : State) (a : Nat) (f : AxSt → AxSt) : (s.setAx a f).sset = s.sset := rfl
@[simp] theorem State.setAx_wall (s : State) (a : Nat) (f : AxSt → AxSt) : (s.setAx a f).wall = s.wall := rfl
@[simp] theorem State.setAx_lat (s : State) (a : Nat) (f : AxSt → AxSt) : (s.setAx a f).lat = s.lat := rfl
@[simp] theorem State.setAx_hop (s : State) (a : Nat) (f : AxSt → AxSt) : (s.setAx a f).hop = s.hop := rfl
@[simp] theorem State.setAx_fi (s : State) (a : Nat) (f : AxSt → AxSt) : (s.setAx a f).fi = s.fi := rfl
@[simp] theorem State.setAx_fo (s : State) (a : Nat) (f : AxSt → AxSt) : (s.setAx a f).fo = s.fo := rfl
@[simp] theorem State.setAx_can (s : State) (a : Nat) (f : AxSt → AxSt) : (s.setAx a f).can = s.can := rfl
@[simp] theorem State.setAx_eth (s : State) (a : Nat) (f : AxSt → AxSt) : (s.setAx a f).eth = s.eth := rfl
@[simp] theorem State.setAx_race (s : State) (a : Nat) (f : AxSt → AxSt) : (s.setAx a f).race = s.race := rfl
@[simp] theorem State.setAx_red (s : State) (a : Nat) (f : AxSt → AxSt) : (s.setAx a f).red = s.red := rfl
@[simp] theorem State.setAx_pwr (s : State) (a : Nat) (f : AxSt → AxSt) : (s.setAx a f).pwr = s.pwr := rfl
@[simp] theorem State.setAx_host (s : State) (a : Nat) (f : AxSt → AxSt) : (s.setAx a f).host = s.host := rfl
@[simp] theorem State.setAx_spi (s : State) (a : Nat) (f : AxSt → AxSt) : (s.setAx a f).spi = s.spi := rfl
@[simp] theorem State.setAx_bist (s : State) (a : Nat) (f : AxSt → AxSt) : (s.setAx a f).bist = s.bist := rfl
@[simp] theorem State.setAx_rg (s : State) (a : Nat) (f : AxSt → AxSt) (y : Nat) : (s.setAx a f).rg y = s.rg y := rfl
@[simp] theorem State.setAx_ldw (s : State) (a : Nat) (f : AxSt → AxSt) (y : Nat) : (s.setAx a f).ldw y = s.ldw y := rfl
@[simp] theorem State.setAx_cr (s : State) (a : Nat) (f : AxSt → AxSt) (y : Nat) : (s.setAx a f).cr y = s.cr y := rfl
@[simp] theorem State.setAx_page (s : State) (a : Nat) (f : AxSt → AxSt) (y : Nat) : (s.setAx a f).page y = s.page y := rfl
@[simp] theorem State.setAx_selOf (s : State) (a : Nat) (f : AxSt → AxSt) (y : Master) : (s.setAx a f).selOf y = s.selOf y := rfl
@[simp] theorem State.setAx_up (s : State) (a : Nat) (f : AxSt → AxSt)  : (s.setAx a f).up = s.up := rfl
@[simp] theorem State.setAx_buffered (s : State) (a : Nat) (f : AxSt → AxSt) (y : Nat) : (s.setAx a f).buffered y = s.buffered y := rfl

/-! `setBist` changes `bist` alone. -/

@[simp] theorem State.setBist_now (s : State) (f : BistSt → BistSt) : (s.setBist f).now = s.now := rfl
@[simp] theorem State.setBist_pending (s : State) (f : BistSt → BistSt) : (s.setBist f).pending = s.pending := rfl
@[simp] theorem State.setBist_regs (s : State) (f : BistSt → BistSt) : (s.setBist f).regs = s.regs := rfl
@[simp] theorem State.setBist_pages (s : State) (f : BistSt → BistSt) : (s.setBist f).pages = s.pages := rfl
@[simp] theorem State.setBist_mem (s : State) (f : BistSt → BistSt) : (s.setBist f).mem = s.mem := rfl
@[simp] theorem State.setBist_sels (s : State) (f : BistSt → BistSt) : (s.setBist f).sels = s.sels := rfl
@[simp] theorem State.setBist_rd (s : State) (f : BistSt → BistSt) : (s.setBist f).rd = s.rd := rfl
@[simp] theorem State.setBist_freeCtr (s : State) (f : BistSt → BistSt) : (s.setBist f).freeCtr = s.freeCtr := rfl
@[simp] theorem State.setBist_dev (s : State) (f : BistSt → BistSt) : (s.setBist f).dev = s.dev := rfl
@[simp] theorem State.setBist_time (s : State) (f : BistSt → BistSt) : (s.setBist f).time = s.time := rfl
@[simp] theorem State.setBist_weir (s : State) (f : BistSt → BistSt) : (s.setBist f).weir = s.weir := rfl
@[simp] theorem State.setBist_sess (s : State) (f : BistSt → BistSt) : (s.setBist f).sess = s.sess := rfl
@[simp] theorem State.setBist_bw (s : State) (f : BistSt → BistSt) : (s.setBist f).bw = s.bw := rfl
@[simp] theorem State.setBist_fbp (s : State) (f : BistSt → BistSt) : (s.setBist f).fbp = s.fbp := rfl
@[simp] theorem State.setBist_fbSel (s : State) (f : BistSt → BistSt) : (s.setBist f).fbSel = s.fbSel := rfl
@[simp] theorem State.setBist_ax (s : State) (f : BistSt → BistSt) : (s.setBist f).ax = s.ax := rfl
@[simp] theorem State.setBist_mig (s : State) (f : BistSt → BistSt) : (s.setBist f).mig = s.mig := rfl
@[simp] theorem State.setBist_core (s : State) (f : BistSt → BistSt) : (s.setBist f).core = s.core := rfl
@[simp] theorem State.setBist_ecc (s : State) (f : BistSt → BistSt) : (s.setBist f).ecc = s.ecc := rfl
@[simp] theorem State.setBist_sdm (s : State) (f : BistSt → BistSt) : (s.setBist f).sdm = s.sdm := rfl
@[simp] theorem State.setBist_aux (s : State) (f : BistSt → BistSt) : (s.setBist f).aux = s.aux := rfl
@[simp] theorem State.setBist_pwm (s : State) (f : BistSt → BistSt) : (s.setBist f).pwm = s.pwm := rfl
@[simp] theorem State.setBist_tins (s : State) (f : BistSt → BistSt) : (s.setBist f).tins = s.tins := rfl
@[simp] theorem State.setBist_psp (s : State) (f : BistSt → BistSt) : (s.setBist f).psp = s.psp := rfl
@[simp] theorem State.setBist_ws (s : State) (f : BistSt → BistSt) : (s.setBist f).ws = s.ws := rfl
@[simp] theorem State.setBist_stp (s : State) (f : BistSt → BistSt) : (s.setBist f).stp = s.stp := rfl
@[simp] theorem State.setBist_grp (s : State) (f : BistSt → BistSt) : (s.setBist f).grp = s.grp := rfl
@[simp] theorem State.setBist_sset (s : State) (f : BistSt → BistSt) : (s.setBist f).sset = s.sset := rfl
@[simp] theorem State.setBist_wall (s : State) (f : BistSt → BistSt) : (s.setBist f).wall = s.wall := rfl
@[simp] theorem State.setBist_lat (s : State) (f : BistSt → BistSt) : (s.setBist f).lat = s.lat := rfl
@[simp] theorem State.setBist_hop (s : State) (f : BistSt → BistSt) : (s.setBist f).hop = s.hop := rfl
@[simp] theorem State.setBist_fi (s : State) (f : BistSt → BistSt) : (s.setBist f).fi = s.fi := rfl
@[simp] theorem State.setBist_fo (s : State) (f : BistSt → BistSt) : (s.setBist f).fo = s.fo := rfl
@[simp] theorem State.setBist_can (s : State) (f : BistSt → BistSt) : (s.setBist f).can = s.can := rfl
@[simp] theorem State.setBist_eth (s : State) (f : BistSt → BistSt) : (s.setBist f).eth = s.eth := rfl
@[simp] theorem State.setBist_race (s : State) (f : BistSt → BistSt) : (s.setBist f).race = s.race := rfl
@[simp] theorem State.setBist_red (s : State) (f : BistSt → BistSt) : (s.setBist f).red = s.red := rfl
@[simp] theorem State.setBist_pwr (s : State) (f : BistSt → BistSt) : (s.setBist f).pwr = s.pwr := rfl
@[simp] theorem State.setBist_host (s : State) (f : BistSt → BistSt) : (s.setBist f).host = s.host := rfl
@[simp] theorem State.setBist_spi (s : State) (f : BistSt → BistSt) : (s.setBist f).spi = s.spi := rfl
@[simp] theorem State.setBist_rg (s : State) (f : BistSt → BistSt) (y : Nat) : (s.setBist f).rg y = s.rg y := rfl
@[simp] theorem State.setBist_ldw (s : State) (f : BistSt → BistSt) (y : Nat) : (s.setBist f).ldw y = s.ldw y := rfl
@[simp] theorem State.setBist_cr (s : State) (f : BistSt → BistSt) (y : Nat) : (s.setBist f).cr y = s.cr y := rfl
@[simp] theorem State.setBist_page (s : State) (f : BistSt → BistSt) (y : Nat) : (s.setBist f).page y = s.page y := rfl
@[simp] theorem State.setBist_selOf (s : State) (f : BistSt → BistSt) (y : Master) : (s.setBist f).selOf y = s.selOf y := rfl
@[simp] theorem State.setBist_up (s : State) (f : BistSt → BistSt)  : (s.setBist f).up = s.up := rfl
@[simp] theorem State.setBist_buffered (s : State) (f : BistSt → BistSt) (y : Nat) : (s.setBist f).buffered y = s.buffered y := rfl

/-! `setCan` changes `can` alone. -/

@[simp] theorem State.setCan_now (s : State) (n : Nat) (f : CanSt → CanSt) : (s.setCan n f).now = s.now := rfl
@[simp] theorem State.setCan_pending (s : State) (n : Nat) (f : CanSt → CanSt) : (s.setCan n f).pending = s.pending := rfl
@[simp] theorem State.setCan_regs (s : State) (n : Nat) (f : CanSt → CanSt) : (s.setCan n f).regs = s.regs := rfl
@[simp] theorem State.setCan_pages (s : State) (n : Nat) (f : CanSt → CanSt) : (s.setCan n f).pages = s.pages := rfl
@[simp] theorem State.setCan_mem (s : State) (n : Nat) (f : CanSt → CanSt) : (s.setCan n f).mem = s.mem := rfl
@[simp] theorem State.setCan_sels (s : State) (n : Nat) (f : CanSt → CanSt) : (s.setCan n f).sels = s.sels := rfl
@[simp] theorem State.setCan_rd (s : State) (n : Nat) (f : CanSt → CanSt) : (s.setCan n f).rd = s.rd := rfl
@[simp] theorem State.setCan_freeCtr (s : State) (n : Nat) (f : CanSt → CanSt) : (s.setCan n f).freeCtr = s.freeCtr := rfl
@[simp] theorem State.setCan_dev (s : State) (n : Nat) (f : CanSt → CanSt) : (s.setCan n f).dev = s.dev := rfl
@[simp] theorem State.setCan_time (s : State) (n : Nat) (f : CanSt → CanSt) : (s.setCan n f).time = s.time := rfl
@[simp] theorem State.setCan_weir (s : State) (n : Nat) (f : CanSt → CanSt) : (s.setCan n f).weir = s.weir := rfl
@[simp] theorem State.setCan_sess (s : State) (n : Nat) (f : CanSt → CanSt) : (s.setCan n f).sess = s.sess := rfl
@[simp] theorem State.setCan_bw (s : State) (n : Nat) (f : CanSt → CanSt) : (s.setCan n f).bw = s.bw := rfl
@[simp] theorem State.setCan_fbp (s : State) (n : Nat) (f : CanSt → CanSt) : (s.setCan n f).fbp = s.fbp := rfl
@[simp] theorem State.setCan_fbSel (s : State) (n : Nat) (f : CanSt → CanSt) : (s.setCan n f).fbSel = s.fbSel := rfl
@[simp] theorem State.setCan_ax (s : State) (n : Nat) (f : CanSt → CanSt) : (s.setCan n f).ax = s.ax := rfl
@[simp] theorem State.setCan_mig (s : State) (n : Nat) (f : CanSt → CanSt) : (s.setCan n f).mig = s.mig := rfl
@[simp] theorem State.setCan_core (s : State) (n : Nat) (f : CanSt → CanSt) : (s.setCan n f).core = s.core := rfl
@[simp] theorem State.setCan_ecc (s : State) (n : Nat) (f : CanSt → CanSt) : (s.setCan n f).ecc = s.ecc := rfl
@[simp] theorem State.setCan_sdm (s : State) (n : Nat) (f : CanSt → CanSt) : (s.setCan n f).sdm = s.sdm := rfl
@[simp] theorem State.setCan_aux (s : State) (n : Nat) (f : CanSt → CanSt) : (s.setCan n f).aux = s.aux := rfl
@[simp] theorem State.setCan_pwm (s : State) (n : Nat) (f : CanSt → CanSt) : (s.setCan n f).pwm = s.pwm := rfl
@[simp] theorem State.setCan_tins (s : State) (n : Nat) (f : CanSt → CanSt) : (s.setCan n f).tins = s.tins := rfl
@[simp] theorem State.setCan_psp (s : State) (n : Nat) (f : CanSt → CanSt) : (s.setCan n f).psp = s.psp := rfl
@[simp] theorem State.setCan_ws (s : State) (n : Nat) (f : CanSt → CanSt) : (s.setCan n f).ws = s.ws := rfl
@[simp] theorem State.setCan_stp (s : State) (n : Nat) (f : CanSt → CanSt) : (s.setCan n f).stp = s.stp := rfl
@[simp] theorem State.setCan_grp (s : State) (n : Nat) (f : CanSt → CanSt) : (s.setCan n f).grp = s.grp := rfl
@[simp] theorem State.setCan_sset (s : State) (n : Nat) (f : CanSt → CanSt) : (s.setCan n f).sset = s.sset := rfl
@[simp] theorem State.setCan_wall (s : State) (n : Nat) (f : CanSt → CanSt) : (s.setCan n f).wall = s.wall := rfl
@[simp] theorem State.setCan_lat (s : State) (n : Nat) (f : CanSt → CanSt) : (s.setCan n f).lat = s.lat := rfl
@[simp] theorem State.setCan_hop (s : State) (n : Nat) (f : CanSt → CanSt) : (s.setCan n f).hop = s.hop := rfl
@[simp] theorem State.setCan_fi (s : State) (n : Nat) (f : CanSt → CanSt) : (s.setCan n f).fi = s.fi := rfl
@[simp] theorem State.setCan_fo (s : State) (n : Nat) (f : CanSt → CanSt) : (s.setCan n f).fo = s.fo := rfl
@[simp] theorem State.setCan_eth (s : State) (n : Nat) (f : CanSt → CanSt) : (s.setCan n f).eth = s.eth := rfl
@[simp] theorem State.setCan_race (s : State) (n : Nat) (f : CanSt → CanSt) : (s.setCan n f).race = s.race := rfl
@[simp] theorem State.setCan_red (s : State) (n : Nat) (f : CanSt → CanSt) : (s.setCan n f).red = s.red := rfl
@[simp] theorem State.setCan_pwr (s : State) (n : Nat) (f : CanSt → CanSt) : (s.setCan n f).pwr = s.pwr := rfl
@[simp] theorem State.setCan_host (s : State) (n : Nat) (f : CanSt → CanSt) : (s.setCan n f).host = s.host := rfl
@[simp] theorem State.setCan_spi (s : State) (n : Nat) (f : CanSt → CanSt) : (s.setCan n f).spi = s.spi := rfl
@[simp] theorem State.setCan_bist (s : State) (n : Nat) (f : CanSt → CanSt) : (s.setCan n f).bist = s.bist := rfl
@[simp] theorem State.setCan_rg (s : State) (n : Nat) (f : CanSt → CanSt) (y : Nat) : (s.setCan n f).rg y = s.rg y := rfl
@[simp] theorem State.setCan_ldw (s : State) (n : Nat) (f : CanSt → CanSt) (y : Nat) : (s.setCan n f).ldw y = s.ldw y := rfl
@[simp] theorem State.setCan_cr (s : State) (n : Nat) (f : CanSt → CanSt) (y : Nat) : (s.setCan n f).cr y = s.cr y := rfl
@[simp] theorem State.setCan_page (s : State) (n : Nat) (f : CanSt → CanSt) (y : Nat) : (s.setCan n f).page y = s.page y := rfl
@[simp] theorem State.setCan_selOf (s : State) (n : Nat) (f : CanSt → CanSt) (y : Master) : (s.setCan n f).selOf y = s.selOf y := rfl
@[simp] theorem State.setCan_up (s : State) (n : Nat) (f : CanSt → CanSt)  : (s.setCan n f).up = s.up := rfl
@[simp] theorem State.setCan_buffered (s : State) (n : Nat) (f : CanSt → CanSt) (y : Nat) : (s.setCan n f).buffered y = s.buffered y := rfl

/-! `setCr` changes `core` alone. -/

@[simp] theorem State.setCr_now (s : State) (c : Nat) (f : CoreSt → CoreSt) : (s.setCr c f).now = s.now := rfl
@[simp] theorem State.setCr_pending (s : State) (c : Nat) (f : CoreSt → CoreSt) : (s.setCr c f).pending = s.pending := rfl
@[simp] theorem State.setCr_regs (s : State) (c : Nat) (f : CoreSt → CoreSt) : (s.setCr c f).regs = s.regs := rfl
@[simp] theorem State.setCr_pages (s : State) (c : Nat) (f : CoreSt → CoreSt) : (s.setCr c f).pages = s.pages := rfl
@[simp] theorem State.setCr_mem (s : State) (c : Nat) (f : CoreSt → CoreSt) : (s.setCr c f).mem = s.mem := rfl
@[simp] theorem State.setCr_sels (s : State) (c : Nat) (f : CoreSt → CoreSt) : (s.setCr c f).sels = s.sels := rfl
@[simp] theorem State.setCr_rd (s : State) (c : Nat) (f : CoreSt → CoreSt) : (s.setCr c f).rd = s.rd := rfl
@[simp] theorem State.setCr_freeCtr (s : State) (c : Nat) (f : CoreSt → CoreSt) : (s.setCr c f).freeCtr = s.freeCtr := rfl
@[simp] theorem State.setCr_dev (s : State) (c : Nat) (f : CoreSt → CoreSt) : (s.setCr c f).dev = s.dev := rfl
@[simp] theorem State.setCr_time (s : State) (c : Nat) (f : CoreSt → CoreSt) : (s.setCr c f).time = s.time := rfl
@[simp] theorem State.setCr_weir (s : State) (c : Nat) (f : CoreSt → CoreSt) : (s.setCr c f).weir = s.weir := rfl
@[simp] theorem State.setCr_sess (s : State) (c : Nat) (f : CoreSt → CoreSt) : (s.setCr c f).sess = s.sess := rfl
@[simp] theorem State.setCr_bw (s : State) (c : Nat) (f : CoreSt → CoreSt) : (s.setCr c f).bw = s.bw := rfl
@[simp] theorem State.setCr_fbp (s : State) (c : Nat) (f : CoreSt → CoreSt) : (s.setCr c f).fbp = s.fbp := rfl
@[simp] theorem State.setCr_fbSel (s : State) (c : Nat) (f : CoreSt → CoreSt) : (s.setCr c f).fbSel = s.fbSel := rfl
@[simp] theorem State.setCr_ax (s : State) (c : Nat) (f : CoreSt → CoreSt) : (s.setCr c f).ax = s.ax := rfl
@[simp] theorem State.setCr_mig (s : State) (c : Nat) (f : CoreSt → CoreSt) : (s.setCr c f).mig = s.mig := rfl
@[simp] theorem State.setCr_ecc (s : State) (c : Nat) (f : CoreSt → CoreSt) : (s.setCr c f).ecc = s.ecc := rfl
@[simp] theorem State.setCr_sdm (s : State) (c : Nat) (f : CoreSt → CoreSt) : (s.setCr c f).sdm = s.sdm := rfl
@[simp] theorem State.setCr_aux (s : State) (c : Nat) (f : CoreSt → CoreSt) : (s.setCr c f).aux = s.aux := rfl
@[simp] theorem State.setCr_pwm (s : State) (c : Nat) (f : CoreSt → CoreSt) : (s.setCr c f).pwm = s.pwm := rfl
@[simp] theorem State.setCr_tins (s : State) (c : Nat) (f : CoreSt → CoreSt) : (s.setCr c f).tins = s.tins := rfl
@[simp] theorem State.setCr_psp (s : State) (c : Nat) (f : CoreSt → CoreSt) : (s.setCr c f).psp = s.psp := rfl
@[simp] theorem State.setCr_ws (s : State) (c : Nat) (f : CoreSt → CoreSt) : (s.setCr c f).ws = s.ws := rfl
@[simp] theorem State.setCr_stp (s : State) (c : Nat) (f : CoreSt → CoreSt) : (s.setCr c f).stp = s.stp := rfl
@[simp] theorem State.setCr_grp (s : State) (c : Nat) (f : CoreSt → CoreSt) : (s.setCr c f).grp = s.grp := rfl
@[simp] theorem State.setCr_sset (s : State) (c : Nat) (f : CoreSt → CoreSt) : (s.setCr c f).sset = s.sset := rfl
@[simp] theorem State.setCr_wall (s : State) (c : Nat) (f : CoreSt → CoreSt) : (s.setCr c f).wall = s.wall := rfl
@[simp] theorem State.setCr_lat (s : State) (c : Nat) (f : CoreSt → CoreSt) : (s.setCr c f).lat = s.lat := rfl
@[simp] theorem State.setCr_hop (s : State) (c : Nat) (f : CoreSt → CoreSt) : (s.setCr c f).hop = s.hop := rfl
@[simp] theorem State.setCr_fi (s : State) (c : Nat) (f : CoreSt → CoreSt) : (s.setCr c f).fi = s.fi := rfl
@[simp] theorem State.setCr_fo (s : State) (c : Nat) (f : CoreSt → CoreSt) : (s.setCr c f).fo = s.fo := rfl
@[simp] theorem State.setCr_can (s : State) (c : Nat) (f : CoreSt → CoreSt) : (s.setCr c f).can = s.can := rfl
@[simp] theorem State.setCr_eth (s : State) (c : Nat) (f : CoreSt → CoreSt) : (s.setCr c f).eth = s.eth := rfl
@[simp] theorem State.setCr_race (s : State) (c : Nat) (f : CoreSt → CoreSt) : (s.setCr c f).race = s.race := rfl
@[simp] theorem State.setCr_red (s : State) (c : Nat) (f : CoreSt → CoreSt) : (s.setCr c f).red = s.red := rfl
@[simp] theorem State.setCr_pwr (s : State) (c : Nat) (f : CoreSt → CoreSt) : (s.setCr c f).pwr = s.pwr := rfl
@[simp] theorem State.setCr_host (s : State) (c : Nat) (f : CoreSt → CoreSt) : (s.setCr c f).host = s.host := rfl
@[simp] theorem State.setCr_spi (s : State) (c : Nat) (f : CoreSt → CoreSt) : (s.setCr c f).spi = s.spi := rfl
@[simp] theorem State.setCr_bist (s : State) (c : Nat) (f : CoreSt → CoreSt) : (s.setCr c f).bist = s.bist := rfl
@[simp] theorem State.setCr_rg (s : State) (c : Nat) (f : CoreSt → CoreSt) (y : Nat) : (s.setCr c f).rg y = s.rg y := rfl
@[simp] theorem State.setCr_ldw (s : State) (c : Nat) (f : CoreSt → CoreSt) (y : Nat) : (s.setCr c f).ldw y = s.ldw y := rfl
@[simp] theorem State.setCr_page (s : State) (c : Nat) (f : CoreSt → CoreSt) (y : Nat) : (s.setCr c f).page y = s.page y := rfl
@[simp] theorem State.setCr_selOf (s : State) (c : Nat) (f : CoreSt → CoreSt) (y : Master) : (s.setCr c f).selOf y = s.selOf y := rfl
@[simp] theorem State.setCr_up (s : State) (c : Nat) (f : CoreSt → CoreSt)  : (s.setCr c f).up = s.up := rfl
@[simp] theorem State.setCr_buffered (s : State) (c : Nat) (f : CoreSt → CoreSt) (y : Nat) : (s.setCr c f).buffered y = s.buffered y := rfl

/-! `setRed` changes `red` alone. -/

@[simp] theorem State.setRed_now (s : State) (f : RedSt → RedSt) : (s.setRed f).now = s.now := rfl
@[simp] theorem State.setRed_pending (s : State) (f : RedSt → RedSt) : (s.setRed f).pending = s.pending := rfl
@[simp] theorem State.setRed_regs (s : State) (f : RedSt → RedSt) : (s.setRed f).regs = s.regs := rfl
@[simp] theorem State.setRed_pages (s : State) (f : RedSt → RedSt) : (s.setRed f).pages = s.pages := rfl
@[simp] theorem State.setRed_mem (s : State) (f : RedSt → RedSt) : (s.setRed f).mem = s.mem := rfl
@[simp] theorem State.setRed_sels (s : State) (f : RedSt → RedSt) : (s.setRed f).sels = s.sels := rfl
@[simp] theorem State.setRed_rd (s : State) (f : RedSt → RedSt) : (s.setRed f).rd = s.rd := rfl
@[simp] theorem State.setRed_freeCtr (s : State) (f : RedSt → RedSt) : (s.setRed f).freeCtr = s.freeCtr := rfl
@[simp] theorem State.setRed_dev (s : State) (f : RedSt → RedSt) : (s.setRed f).dev = s.dev := rfl
@[simp] theorem State.setRed_time (s : State) (f : RedSt → RedSt) : (s.setRed f).time = s.time := rfl
@[simp] theorem State.setRed_weir (s : State) (f : RedSt → RedSt) : (s.setRed f).weir = s.weir := rfl
@[simp] theorem State.setRed_sess (s : State) (f : RedSt → RedSt) : (s.setRed f).sess = s.sess := rfl
@[simp] theorem State.setRed_bw (s : State) (f : RedSt → RedSt) : (s.setRed f).bw = s.bw := rfl
@[simp] theorem State.setRed_fbp (s : State) (f : RedSt → RedSt) : (s.setRed f).fbp = s.fbp := rfl
@[simp] theorem State.setRed_fbSel (s : State) (f : RedSt → RedSt) : (s.setRed f).fbSel = s.fbSel := rfl
@[simp] theorem State.setRed_ax (s : State) (f : RedSt → RedSt) : (s.setRed f).ax = s.ax := rfl
@[simp] theorem State.setRed_mig (s : State) (f : RedSt → RedSt) : (s.setRed f).mig = s.mig := rfl
@[simp] theorem State.setRed_core (s : State) (f : RedSt → RedSt) : (s.setRed f).core = s.core := rfl
@[simp] theorem State.setRed_ecc (s : State) (f : RedSt → RedSt) : (s.setRed f).ecc = s.ecc := rfl
@[simp] theorem State.setRed_sdm (s : State) (f : RedSt → RedSt) : (s.setRed f).sdm = s.sdm := rfl
@[simp] theorem State.setRed_aux (s : State) (f : RedSt → RedSt) : (s.setRed f).aux = s.aux := rfl
@[simp] theorem State.setRed_pwm (s : State) (f : RedSt → RedSt) : (s.setRed f).pwm = s.pwm := rfl
@[simp] theorem State.setRed_tins (s : State) (f : RedSt → RedSt) : (s.setRed f).tins = s.tins := rfl
@[simp] theorem State.setRed_psp (s : State) (f : RedSt → RedSt) : (s.setRed f).psp = s.psp := rfl
@[simp] theorem State.setRed_ws (s : State) (f : RedSt → RedSt) : (s.setRed f).ws = s.ws := rfl
@[simp] theorem State.setRed_stp (s : State) (f : RedSt → RedSt) : (s.setRed f).stp = s.stp := rfl
@[simp] theorem State.setRed_grp (s : State) (f : RedSt → RedSt) : (s.setRed f).grp = s.grp := rfl
@[simp] theorem State.setRed_sset (s : State) (f : RedSt → RedSt) : (s.setRed f).sset = s.sset := rfl
@[simp] theorem State.setRed_wall (s : State) (f : RedSt → RedSt) : (s.setRed f).wall = s.wall := rfl
@[simp] theorem State.setRed_lat (s : State) (f : RedSt → RedSt) : (s.setRed f).lat = s.lat := rfl
@[simp] theorem State.setRed_hop (s : State) (f : RedSt → RedSt) : (s.setRed f).hop = s.hop := rfl
@[simp] theorem State.setRed_fi (s : State) (f : RedSt → RedSt) : (s.setRed f).fi = s.fi := rfl
@[simp] theorem State.setRed_fo (s : State) (f : RedSt → RedSt) : (s.setRed f).fo = s.fo := rfl
@[simp] theorem State.setRed_can (s : State) (f : RedSt → RedSt) : (s.setRed f).can = s.can := rfl
@[simp] theorem State.setRed_eth (s : State) (f : RedSt → RedSt) : (s.setRed f).eth = s.eth := rfl
@[simp] theorem State.setRed_race (s : State) (f : RedSt → RedSt) : (s.setRed f).race = s.race := rfl
@[simp] theorem State.setRed_pwr (s : State) (f : RedSt → RedSt) : (s.setRed f).pwr = s.pwr := rfl
@[simp] theorem State.setRed_host (s : State) (f : RedSt → RedSt) : (s.setRed f).host = s.host := rfl
@[simp] theorem State.setRed_spi (s : State) (f : RedSt → RedSt) : (s.setRed f).spi = s.spi := rfl
@[simp] theorem State.setRed_bist (s : State) (f : RedSt → RedSt) : (s.setRed f).bist = s.bist := rfl
@[simp] theorem State.setRed_rg (s : State) (f : RedSt → RedSt) (y : Nat) : (s.setRed f).rg y = s.rg y := rfl
@[simp] theorem State.setRed_ldw (s : State) (f : RedSt → RedSt) (y : Nat) : (s.setRed f).ldw y = s.ldw y := rfl
@[simp] theorem State.setRed_cr (s : State) (f : RedSt → RedSt) (y : Nat) : (s.setRed f).cr y = s.cr y := rfl
@[simp] theorem State.setRed_page (s : State) (f : RedSt → RedSt) (y : Nat) : (s.setRed f).page y = s.page y := rfl
@[simp] theorem State.setRed_selOf (s : State) (f : RedSt → RedSt) (y : Master) : (s.setRed f).selOf y = s.selOf y := rfl
@[simp] theorem State.setRed_up (s : State) (f : RedSt → RedSt)  : (s.setRed f).up = s.up := rfl
@[simp] theorem State.setRed_buffered (s : State) (f : RedSt → RedSt) (y : Nat) : (s.setRed f).buffered y = s.buffered y := rfl

/-! `setFbp` changes `fbp` alone. -/

@[simp] theorem State.setFbp_now (s : State) (n : Nat) (f : FbpSt → FbpSt) : (s.setFbp n f).now = s.now := rfl
@[simp] theorem State.setFbp_pending (s : State) (n : Nat) (f : FbpSt → FbpSt) : (s.setFbp n f).pending = s.pending := rfl
@[simp] theorem State.setFbp_regs (s : State) (n : Nat) (f : FbpSt → FbpSt) : (s.setFbp n f).regs = s.regs := rfl
@[simp] theorem State.setFbp_pages (s : State) (n : Nat) (f : FbpSt → FbpSt) : (s.setFbp n f).pages = s.pages := rfl
@[simp] theorem State.setFbp_mem (s : State) (n : Nat) (f : FbpSt → FbpSt) : (s.setFbp n f).mem = s.mem := rfl
@[simp] theorem State.setFbp_sels (s : State) (n : Nat) (f : FbpSt → FbpSt) : (s.setFbp n f).sels = s.sels := rfl
@[simp] theorem State.setFbp_rd (s : State) (n : Nat) (f : FbpSt → FbpSt) : (s.setFbp n f).rd = s.rd := rfl
@[simp] theorem State.setFbp_freeCtr (s : State) (n : Nat) (f : FbpSt → FbpSt) : (s.setFbp n f).freeCtr = s.freeCtr := rfl
@[simp] theorem State.setFbp_dev (s : State) (n : Nat) (f : FbpSt → FbpSt) : (s.setFbp n f).dev = s.dev := rfl
@[simp] theorem State.setFbp_time (s : State) (n : Nat) (f : FbpSt → FbpSt) : (s.setFbp n f).time = s.time := rfl
@[simp] theorem State.setFbp_weir (s : State) (n : Nat) (f : FbpSt → FbpSt) : (s.setFbp n f).weir = s.weir := rfl
@[simp] theorem State.setFbp_sess (s : State) (n : Nat) (f : FbpSt → FbpSt) : (s.setFbp n f).sess = s.sess := rfl
@[simp] theorem State.setFbp_bw (s : State) (n : Nat) (f : FbpSt → FbpSt) : (s.setFbp n f).bw = s.bw := rfl
@[simp] theorem State.setFbp_fbSel (s : State) (n : Nat) (f : FbpSt → FbpSt) : (s.setFbp n f).fbSel = s.fbSel := rfl
@[simp] theorem State.setFbp_ax (s : State) (n : Nat) (f : FbpSt → FbpSt) : (s.setFbp n f).ax = s.ax := rfl
@[simp] theorem State.setFbp_mig (s : State) (n : Nat) (f : FbpSt → FbpSt) : (s.setFbp n f).mig = s.mig := rfl
@[simp] theorem State.setFbp_core (s : State) (n : Nat) (f : FbpSt → FbpSt) : (s.setFbp n f).core = s.core := rfl
@[simp] theorem State.setFbp_ecc (s : State) (n : Nat) (f : FbpSt → FbpSt) : (s.setFbp n f).ecc = s.ecc := rfl
@[simp] theorem State.setFbp_sdm (s : State) (n : Nat) (f : FbpSt → FbpSt) : (s.setFbp n f).sdm = s.sdm := rfl
@[simp] theorem State.setFbp_aux (s : State) (n : Nat) (f : FbpSt → FbpSt) : (s.setFbp n f).aux = s.aux := rfl
@[simp] theorem State.setFbp_pwm (s : State) (n : Nat) (f : FbpSt → FbpSt) : (s.setFbp n f).pwm = s.pwm := rfl
@[simp] theorem State.setFbp_tins (s : State) (n : Nat) (f : FbpSt → FbpSt) : (s.setFbp n f).tins = s.tins := rfl
@[simp] theorem State.setFbp_psp (s : State) (n : Nat) (f : FbpSt → FbpSt) : (s.setFbp n f).psp = s.psp := rfl
@[simp] theorem State.setFbp_ws (s : State) (n : Nat) (f : FbpSt → FbpSt) : (s.setFbp n f).ws = s.ws := rfl
@[simp] theorem State.setFbp_stp (s : State) (n : Nat) (f : FbpSt → FbpSt) : (s.setFbp n f).stp = s.stp := rfl
@[simp] theorem State.setFbp_grp (s : State) (n : Nat) (f : FbpSt → FbpSt) : (s.setFbp n f).grp = s.grp := rfl
@[simp] theorem State.setFbp_sset (s : State) (n : Nat) (f : FbpSt → FbpSt) : (s.setFbp n f).sset = s.sset := rfl
@[simp] theorem State.setFbp_wall (s : State) (n : Nat) (f : FbpSt → FbpSt) : (s.setFbp n f).wall = s.wall := rfl
@[simp] theorem State.setFbp_lat (s : State) (n : Nat) (f : FbpSt → FbpSt) : (s.setFbp n f).lat = s.lat := rfl
@[simp] theorem State.setFbp_hop (s : State) (n : Nat) (f : FbpSt → FbpSt) : (s.setFbp n f).hop = s.hop := rfl
@[simp] theorem State.setFbp_fi (s : State) (n : Nat) (f : FbpSt → FbpSt) : (s.setFbp n f).fi = s.fi := rfl
@[simp] theorem State.setFbp_fo (s : State) (n : Nat) (f : FbpSt → FbpSt) : (s.setFbp n f).fo = s.fo := rfl
@[simp] theorem State.setFbp_can (s : State) (n : Nat) (f : FbpSt → FbpSt) : (s.setFbp n f).can = s.can := rfl
@[simp] theorem State.setFbp_eth (s : State) (n : Nat) (f : FbpSt → FbpSt) : (s.setFbp n f).eth = s.eth := rfl
@[simp] theorem State.setFbp_race (s : State) (n : Nat) (f : FbpSt → FbpSt) : (s.setFbp n f).race = s.race := rfl
@[simp] theorem State.setFbp_red (s : State) (n : Nat) (f : FbpSt → FbpSt) : (s.setFbp n f).red = s.red := rfl
@[simp] theorem State.setFbp_pwr (s : State) (n : Nat) (f : FbpSt → FbpSt) : (s.setFbp n f).pwr = s.pwr := rfl
@[simp] theorem State.setFbp_host (s : State) (n : Nat) (f : FbpSt → FbpSt) : (s.setFbp n f).host = s.host := rfl
@[simp] theorem State.setFbp_spi (s : State) (n : Nat) (f : FbpSt → FbpSt) : (s.setFbp n f).spi = s.spi := rfl
@[simp] theorem State.setFbp_bist (s : State) (n : Nat) (f : FbpSt → FbpSt) : (s.setFbp n f).bist = s.bist := rfl
@[simp] theorem State.setFbp_rg (s : State) (n : Nat) (f : FbpSt → FbpSt) (y : Nat) : (s.setFbp n f).rg y = s.rg y := rfl
@[simp] theorem State.setFbp_ldw (s : State) (n : Nat) (f : FbpSt → FbpSt) (y : Nat) : (s.setFbp n f).ldw y = s.ldw y := rfl
@[simp] theorem State.setFbp_cr (s : State) (n : Nat) (f : FbpSt → FbpSt) (y : Nat) : (s.setFbp n f).cr y = s.cr y := rfl
@[simp] theorem State.setFbp_page (s : State) (n : Nat) (f : FbpSt → FbpSt) (y : Nat) : (s.setFbp n f).page y = s.page y := rfl
@[simp] theorem State.setFbp_selOf (s : State) (n : Nat) (f : FbpSt → FbpSt) (y : Master) : (s.setFbp n f).selOf y = s.selOf y := rfl
@[simp] theorem State.setFbp_up (s : State) (n : Nat) (f : FbpSt → FbpSt)  : (s.setFbp n f).up = s.up := rfl
@[simp] theorem State.setFbp_buffered (s : State) (n : Nat) (f : FbpSt → FbpSt) (y : Nat) : (s.setFbp n f).buffered y = s.buffered y := rfl

/-! `setFin` changes `fi` alone. -/

@[simp] theorem State.setFin_now (s : State) (i : Nat) (f : FiSt → FiSt) : (s.setFin i f).now = s.now := rfl
@[simp] theorem State.setFin_pending (s : State) (i : Nat) (f : FiSt → FiSt) : (s.setFin i f).pending = s.pending := rfl
@[simp] theorem State.setFin_regs (s : State) (i : Nat) (f : FiSt → FiSt) : (s.setFin i f).regs = s.regs := rfl
@[simp] theorem State.setFin_pages (s : State) (i : Nat) (f : FiSt → FiSt) : (s.setFin i f).pages = s.pages := rfl
@[simp] theorem State.setFin_mem (s : State) (i : Nat) (f : FiSt → FiSt) : (s.setFin i f).mem = s.mem := rfl
@[simp] theorem State.setFin_sels (s : State) (i : Nat) (f : FiSt → FiSt) : (s.setFin i f).sels = s.sels := rfl
@[simp] theorem State.setFin_rd (s : State) (i : Nat) (f : FiSt → FiSt) : (s.setFin i f).rd = s.rd := rfl
@[simp] theorem State.setFin_freeCtr (s : State) (i : Nat) (f : FiSt → FiSt) : (s.setFin i f).freeCtr = s.freeCtr := rfl
@[simp] theorem State.setFin_dev (s : State) (i : Nat) (f : FiSt → FiSt) : (s.setFin i f).dev = s.dev := rfl
@[simp] theorem State.setFin_time (s : State) (i : Nat) (f : FiSt → FiSt) : (s.setFin i f).time = s.time := rfl
@[simp] theorem State.setFin_weir (s : State) (i : Nat) (f : FiSt → FiSt) : (s.setFin i f).weir = s.weir := rfl
@[simp] theorem State.setFin_sess (s : State) (i : Nat) (f : FiSt → FiSt) : (s.setFin i f).sess = s.sess := rfl
@[simp] theorem State.setFin_bw (s : State) (i : Nat) (f : FiSt → FiSt) : (s.setFin i f).bw = s.bw := rfl
@[simp] theorem State.setFin_fbp (s : State) (i : Nat) (f : FiSt → FiSt) : (s.setFin i f).fbp = s.fbp := rfl
@[simp] theorem State.setFin_fbSel (s : State) (i : Nat) (f : FiSt → FiSt) : (s.setFin i f).fbSel = s.fbSel := rfl
@[simp] theorem State.setFin_ax (s : State) (i : Nat) (f : FiSt → FiSt) : (s.setFin i f).ax = s.ax := rfl
@[simp] theorem State.setFin_mig (s : State) (i : Nat) (f : FiSt → FiSt) : (s.setFin i f).mig = s.mig := rfl
@[simp] theorem State.setFin_core (s : State) (i : Nat) (f : FiSt → FiSt) : (s.setFin i f).core = s.core := rfl
@[simp] theorem State.setFin_ecc (s : State) (i : Nat) (f : FiSt → FiSt) : (s.setFin i f).ecc = s.ecc := rfl
@[simp] theorem State.setFin_sdm (s : State) (i : Nat) (f : FiSt → FiSt) : (s.setFin i f).sdm = s.sdm := rfl
@[simp] theorem State.setFin_aux (s : State) (i : Nat) (f : FiSt → FiSt) : (s.setFin i f).aux = s.aux := rfl
@[simp] theorem State.setFin_pwm (s : State) (i : Nat) (f : FiSt → FiSt) : (s.setFin i f).pwm = s.pwm := rfl
@[simp] theorem State.setFin_tins (s : State) (i : Nat) (f : FiSt → FiSt) : (s.setFin i f).tins = s.tins := rfl
@[simp] theorem State.setFin_psp (s : State) (i : Nat) (f : FiSt → FiSt) : (s.setFin i f).psp = s.psp := rfl
@[simp] theorem State.setFin_ws (s : State) (i : Nat) (f : FiSt → FiSt) : (s.setFin i f).ws = s.ws := rfl
@[simp] theorem State.setFin_stp (s : State) (i : Nat) (f : FiSt → FiSt) : (s.setFin i f).stp = s.stp := rfl
@[simp] theorem State.setFin_grp (s : State) (i : Nat) (f : FiSt → FiSt) : (s.setFin i f).grp = s.grp := rfl
@[simp] theorem State.setFin_sset (s : State) (i : Nat) (f : FiSt → FiSt) : (s.setFin i f).sset = s.sset := rfl
@[simp] theorem State.setFin_wall (s : State) (i : Nat) (f : FiSt → FiSt) : (s.setFin i f).wall = s.wall := rfl
@[simp] theorem State.setFin_lat (s : State) (i : Nat) (f : FiSt → FiSt) : (s.setFin i f).lat = s.lat := rfl
@[simp] theorem State.setFin_hop (s : State) (i : Nat) (f : FiSt → FiSt) : (s.setFin i f).hop = s.hop := rfl
@[simp] theorem State.setFin_fo (s : State) (i : Nat) (f : FiSt → FiSt) : (s.setFin i f).fo = s.fo := rfl
@[simp] theorem State.setFin_can (s : State) (i : Nat) (f : FiSt → FiSt) : (s.setFin i f).can = s.can := rfl
@[simp] theorem State.setFin_eth (s : State) (i : Nat) (f : FiSt → FiSt) : (s.setFin i f).eth = s.eth := rfl
@[simp] theorem State.setFin_race (s : State) (i : Nat) (f : FiSt → FiSt) : (s.setFin i f).race = s.race := rfl
@[simp] theorem State.setFin_red (s : State) (i : Nat) (f : FiSt → FiSt) : (s.setFin i f).red = s.red := rfl
@[simp] theorem State.setFin_pwr (s : State) (i : Nat) (f : FiSt → FiSt) : (s.setFin i f).pwr = s.pwr := rfl
@[simp] theorem State.setFin_host (s : State) (i : Nat) (f : FiSt → FiSt) : (s.setFin i f).host = s.host := rfl
@[simp] theorem State.setFin_spi (s : State) (i : Nat) (f : FiSt → FiSt) : (s.setFin i f).spi = s.spi := rfl
@[simp] theorem State.setFin_bist (s : State) (i : Nat) (f : FiSt → FiSt) : (s.setFin i f).bist = s.bist := rfl
@[simp] theorem State.setFin_rg (s : State) (i : Nat) (f : FiSt → FiSt) (y : Nat) : (s.setFin i f).rg y = s.rg y := rfl
@[simp] theorem State.setFin_ldw (s : State) (i : Nat) (f : FiSt → FiSt) (y : Nat) : (s.setFin i f).ldw y = s.ldw y := rfl
@[simp] theorem State.setFin_cr (s : State) (i : Nat) (f : FiSt → FiSt) (y : Nat) : (s.setFin i f).cr y = s.cr y := rfl
@[simp] theorem State.setFin_page (s : State) (i : Nat) (f : FiSt → FiSt) (y : Nat) : (s.setFin i f).page y = s.page y := rfl
@[simp] theorem State.setFin_selOf (s : State) (i : Nat) (f : FiSt → FiSt) (y : Master) : (s.setFin i f).selOf y = s.selOf y := rfl
@[simp] theorem State.setFin_up (s : State) (i : Nat) (f : FiSt → FiSt)  : (s.setFin i f).up = s.up := rfl
@[simp] theorem State.setFin_buffered (s : State) (i : Nat) (f : FiSt → FiSt) (y : Nat) : (s.setFin i f).buffered y = s.buffered y := rfl

/-! `setFout` changes `fo` alone. -/

@[simp] theorem State.setFout_now (s : State) (j : Nat) (f : FoSt → FoSt) : (s.setFout j f).now = s.now := rfl
@[simp] theorem State.setFout_pending (s : State) (j : Nat) (f : FoSt → FoSt) : (s.setFout j f).pending = s.pending := rfl
@[simp] theorem State.setFout_regs (s : State) (j : Nat) (f : FoSt → FoSt) : (s.setFout j f).regs = s.regs := rfl
@[simp] theorem State.setFout_pages (s : State) (j : Nat) (f : FoSt → FoSt) : (s.setFout j f).pages = s.pages := rfl
@[simp] theorem State.setFout_mem (s : State) (j : Nat) (f : FoSt → FoSt) : (s.setFout j f).mem = s.mem := rfl
@[simp] theorem State.setFout_sels (s : State) (j : Nat) (f : FoSt → FoSt) : (s.setFout j f).sels = s.sels := rfl
@[simp] theorem State.setFout_rd (s : State) (j : Nat) (f : FoSt → FoSt) : (s.setFout j f).rd = s.rd := rfl
@[simp] theorem State.setFout_freeCtr (s : State) (j : Nat) (f : FoSt → FoSt) : (s.setFout j f).freeCtr = s.freeCtr := rfl
@[simp] theorem State.setFout_dev (s : State) (j : Nat) (f : FoSt → FoSt) : (s.setFout j f).dev = s.dev := rfl
@[simp] theorem State.setFout_time (s : State) (j : Nat) (f : FoSt → FoSt) : (s.setFout j f).time = s.time := rfl
@[simp] theorem State.setFout_weir (s : State) (j : Nat) (f : FoSt → FoSt) : (s.setFout j f).weir = s.weir := rfl
@[simp] theorem State.setFout_sess (s : State) (j : Nat) (f : FoSt → FoSt) : (s.setFout j f).sess = s.sess := rfl
@[simp] theorem State.setFout_bw (s : State) (j : Nat) (f : FoSt → FoSt) : (s.setFout j f).bw = s.bw := rfl
@[simp] theorem State.setFout_fbp (s : State) (j : Nat) (f : FoSt → FoSt) : (s.setFout j f).fbp = s.fbp := rfl
@[simp] theorem State.setFout_fbSel (s : State) (j : Nat) (f : FoSt → FoSt) : (s.setFout j f).fbSel = s.fbSel := rfl
@[simp] theorem State.setFout_ax (s : State) (j : Nat) (f : FoSt → FoSt) : (s.setFout j f).ax = s.ax := rfl
@[simp] theorem State.setFout_mig (s : State) (j : Nat) (f : FoSt → FoSt) : (s.setFout j f).mig = s.mig := rfl
@[simp] theorem State.setFout_core (s : State) (j : Nat) (f : FoSt → FoSt) : (s.setFout j f).core = s.core := rfl
@[simp] theorem State.setFout_ecc (s : State) (j : Nat) (f : FoSt → FoSt) : (s.setFout j f).ecc = s.ecc := rfl
@[simp] theorem State.setFout_sdm (s : State) (j : Nat) (f : FoSt → FoSt) : (s.setFout j f).sdm = s.sdm := rfl
@[simp] theorem State.setFout_aux (s : State) (j : Nat) (f : FoSt → FoSt) : (s.setFout j f).aux = s.aux := rfl
@[simp] theorem State.setFout_pwm (s : State) (j : Nat) (f : FoSt → FoSt) : (s.setFout j f).pwm = s.pwm := rfl
@[simp] theorem State.setFout_tins (s : State) (j : Nat) (f : FoSt → FoSt) : (s.setFout j f).tins = s.tins := rfl
@[simp] theorem State.setFout_psp (s : State) (j : Nat) (f : FoSt → FoSt) : (s.setFout j f).psp = s.psp := rfl
@[simp] theorem State.setFout_ws (s : State) (j : Nat) (f : FoSt → FoSt) : (s.setFout j f).ws = s.ws := rfl
@[simp] theorem State.setFout_stp (s : State) (j : Nat) (f : FoSt → FoSt) : (s.setFout j f).stp = s.stp := rfl
@[simp] theorem State.setFout_grp (s : State) (j : Nat) (f : FoSt → FoSt) : (s.setFout j f).grp = s.grp := rfl
@[simp] theorem State.setFout_sset (s : State) (j : Nat) (f : FoSt → FoSt) : (s.setFout j f).sset = s.sset := rfl
@[simp] theorem State.setFout_wall (s : State) (j : Nat) (f : FoSt → FoSt) : (s.setFout j f).wall = s.wall := rfl
@[simp] theorem State.setFout_lat (s : State) (j : Nat) (f : FoSt → FoSt) : (s.setFout j f).lat = s.lat := rfl
@[simp] theorem State.setFout_hop (s : State) (j : Nat) (f : FoSt → FoSt) : (s.setFout j f).hop = s.hop := rfl
@[simp] theorem State.setFout_fi (s : State) (j : Nat) (f : FoSt → FoSt) : (s.setFout j f).fi = s.fi := rfl
@[simp] theorem State.setFout_can (s : State) (j : Nat) (f : FoSt → FoSt) : (s.setFout j f).can = s.can := rfl
@[simp] theorem State.setFout_eth (s : State) (j : Nat) (f : FoSt → FoSt) : (s.setFout j f).eth = s.eth := rfl
@[simp] theorem State.setFout_race (s : State) (j : Nat) (f : FoSt → FoSt) : (s.setFout j f).race = s.race := rfl
@[simp] theorem State.setFout_red (s : State) (j : Nat) (f : FoSt → FoSt) : (s.setFout j f).red = s.red := rfl
@[simp] theorem State.setFout_pwr (s : State) (j : Nat) (f : FoSt → FoSt) : (s.setFout j f).pwr = s.pwr := rfl
@[simp] theorem State.setFout_host (s : State) (j : Nat) (f : FoSt → FoSt) : (s.setFout j f).host = s.host := rfl
@[simp] theorem State.setFout_spi (s : State) (j : Nat) (f : FoSt → FoSt) : (s.setFout j f).spi = s.spi := rfl
@[simp] theorem State.setFout_bist (s : State) (j : Nat) (f : FoSt → FoSt) : (s.setFout j f).bist = s.bist := rfl
@[simp] theorem State.setFout_rg (s : State) (j : Nat) (f : FoSt → FoSt) (y : Nat) : (s.setFout j f).rg y = s.rg y := rfl
@[simp] theorem State.setFout_ldw (s : State) (j : Nat) (f : FoSt → FoSt) (y : Nat) : (s.setFout j f).ldw y = s.ldw y := rfl
@[simp] theorem State.setFout_cr (s : State) (j : Nat) (f : FoSt → FoSt) (y : Nat) : (s.setFout j f).cr y = s.cr y := rfl
@[simp] theorem State.setFout_page (s : State) (j : Nat) (f : FoSt → FoSt) (y : Nat) : (s.setFout j f).page y = s.page y := rfl
@[simp] theorem State.setFout_selOf (s : State) (j : Nat) (f : FoSt → FoSt) (y : Master) : (s.setFout j f).selOf y = s.selOf y := rfl
@[simp] theorem State.setFout_up (s : State) (j : Nat) (f : FoSt → FoSt)  : (s.setFout j f).up = s.up := rfl
@[simp] theorem State.setFout_buffered (s : State) (j : Nat) (f : FoSt → FoSt) (y : Nat) : (s.setFout j f).buffered y = s.buffered y := rfl

/-! `setHop` changes `hop` alone. -/

@[simp] theorem State.setHop_now (s : State) (f : HopSt → HopSt) : (s.setHop f).now = s.now := rfl
@[simp] theorem State.setHop_pending (s : State) (f : HopSt → HopSt) : (s.setHop f).pending = s.pending := rfl
@[simp] theorem State.setHop_regs (s : State) (f : HopSt → HopSt) : (s.setHop f).regs = s.regs := rfl
@[simp] theorem State.setHop_pages (s : State) (f : HopSt → HopSt) : (s.setHop f).pages = s.pages := rfl
@[simp] theorem State.setHop_mem (s : State) (f : HopSt → HopSt) : (s.setHop f).mem = s.mem := rfl
@[simp] theorem State.setHop_sels (s : State) (f : HopSt → HopSt) : (s.setHop f).sels = s.sels := rfl
@[simp] theorem State.setHop_rd (s : State) (f : HopSt → HopSt) : (s.setHop f).rd = s.rd := rfl
@[simp] theorem State.setHop_freeCtr (s : State) (f : HopSt → HopSt) : (s.setHop f).freeCtr = s.freeCtr := rfl
@[simp] theorem State.setHop_dev (s : State) (f : HopSt → HopSt) : (s.setHop f).dev = s.dev := rfl
@[simp] theorem State.setHop_time (s : State) (f : HopSt → HopSt) : (s.setHop f).time = s.time := rfl
@[simp] theorem State.setHop_weir (s : State) (f : HopSt → HopSt) : (s.setHop f).weir = s.weir := rfl
@[simp] theorem State.setHop_sess (s : State) (f : HopSt → HopSt) : (s.setHop f).sess = s.sess := rfl
@[simp] theorem State.setHop_bw (s : State) (f : HopSt → HopSt) : (s.setHop f).bw = s.bw := rfl
@[simp] theorem State.setHop_fbp (s : State) (f : HopSt → HopSt) : (s.setHop f).fbp = s.fbp := rfl
@[simp] theorem State.setHop_fbSel (s : State) (f : HopSt → HopSt) : (s.setHop f).fbSel = s.fbSel := rfl
@[simp] theorem State.setHop_ax (s : State) (f : HopSt → HopSt) : (s.setHop f).ax = s.ax := rfl
@[simp] theorem State.setHop_mig (s : State) (f : HopSt → HopSt) : (s.setHop f).mig = s.mig := rfl
@[simp] theorem State.setHop_core (s : State) (f : HopSt → HopSt) : (s.setHop f).core = s.core := rfl
@[simp] theorem State.setHop_ecc (s : State) (f : HopSt → HopSt) : (s.setHop f).ecc = s.ecc := rfl
@[simp] theorem State.setHop_sdm (s : State) (f : HopSt → HopSt) : (s.setHop f).sdm = s.sdm := rfl
@[simp] theorem State.setHop_aux (s : State) (f : HopSt → HopSt) : (s.setHop f).aux = s.aux := rfl
@[simp] theorem State.setHop_pwm (s : State) (f : HopSt → HopSt) : (s.setHop f).pwm = s.pwm := rfl
@[simp] theorem State.setHop_tins (s : State) (f : HopSt → HopSt) : (s.setHop f).tins = s.tins := rfl
@[simp] theorem State.setHop_psp (s : State) (f : HopSt → HopSt) : (s.setHop f).psp = s.psp := rfl
@[simp] theorem State.setHop_ws (s : State) (f : HopSt → HopSt) : (s.setHop f).ws = s.ws := rfl
@[simp] theorem State.setHop_stp (s : State) (f : HopSt → HopSt) : (s.setHop f).stp = s.stp := rfl
@[simp] theorem State.setHop_grp (s : State) (f : HopSt → HopSt) : (s.setHop f).grp = s.grp := rfl
@[simp] theorem State.setHop_sset (s : State) (f : HopSt → HopSt) : (s.setHop f).sset = s.sset := rfl
@[simp] theorem State.setHop_wall (s : State) (f : HopSt → HopSt) : (s.setHop f).wall = s.wall := rfl
@[simp] theorem State.setHop_lat (s : State) (f : HopSt → HopSt) : (s.setHop f).lat = s.lat := rfl
@[simp] theorem State.setHop_fi (s : State) (f : HopSt → HopSt) : (s.setHop f).fi = s.fi := rfl
@[simp] theorem State.setHop_fo (s : State) (f : HopSt → HopSt) : (s.setHop f).fo = s.fo := rfl
@[simp] theorem State.setHop_can (s : State) (f : HopSt → HopSt) : (s.setHop f).can = s.can := rfl
@[simp] theorem State.setHop_eth (s : State) (f : HopSt → HopSt) : (s.setHop f).eth = s.eth := rfl
@[simp] theorem State.setHop_race (s : State) (f : HopSt → HopSt) : (s.setHop f).race = s.race := rfl
@[simp] theorem State.setHop_red (s : State) (f : HopSt → HopSt) : (s.setHop f).red = s.red := rfl
@[simp] theorem State.setHop_pwr (s : State) (f : HopSt → HopSt) : (s.setHop f).pwr = s.pwr := rfl
@[simp] theorem State.setHop_host (s : State) (f : HopSt → HopSt) : (s.setHop f).host = s.host := rfl
@[simp] theorem State.setHop_spi (s : State) (f : HopSt → HopSt) : (s.setHop f).spi = s.spi := rfl
@[simp] theorem State.setHop_bist (s : State) (f : HopSt → HopSt) : (s.setHop f).bist = s.bist := rfl
@[simp] theorem State.setHop_rg (s : State) (f : HopSt → HopSt) (y : Nat) : (s.setHop f).rg y = s.rg y := rfl
@[simp] theorem State.setHop_ldw (s : State) (f : HopSt → HopSt) (y : Nat) : (s.setHop f).ldw y = s.ldw y := rfl
@[simp] theorem State.setHop_cr (s : State) (f : HopSt → HopSt) (y : Nat) : (s.setHop f).cr y = s.cr y := rfl
@[simp] theorem State.setHop_page (s : State) (f : HopSt → HopSt) (y : Nat) : (s.setHop f).page y = s.page y := rfl
@[simp] theorem State.setHop_selOf (s : State) (f : HopSt → HopSt) (y : Master) : (s.setHop f).selOf y = s.selOf y := rfl
@[simp] theorem State.setHop_up (s : State) (f : HopSt → HopSt)  : (s.setHop f).up = s.up := rfl
@[simp] theorem State.setHop_buffered (s : State) (f : HopSt → HopSt) (y : Nat) : (s.setHop f).buffered y = s.buffered y := rfl

/-! `setBw` changes `bw` alone. -/

@[simp] theorem State.setBw_now (s : State) (f : BwSt → BwSt) : (s.setBw f).now = s.now := rfl
@[simp] theorem State.setBw_pending (s : State) (f : BwSt → BwSt) : (s.setBw f).pending = s.pending := rfl
@[simp] theorem State.setBw_regs (s : State) (f : BwSt → BwSt) : (s.setBw f).regs = s.regs := rfl
@[simp] theorem State.setBw_pages (s : State) (f : BwSt → BwSt) : (s.setBw f).pages = s.pages := rfl
@[simp] theorem State.setBw_mem (s : State) (f : BwSt → BwSt) : (s.setBw f).mem = s.mem := rfl
@[simp] theorem State.setBw_sels (s : State) (f : BwSt → BwSt) : (s.setBw f).sels = s.sels := rfl
@[simp] theorem State.setBw_rd (s : State) (f : BwSt → BwSt) : (s.setBw f).rd = s.rd := rfl
@[simp] theorem State.setBw_freeCtr (s : State) (f : BwSt → BwSt) : (s.setBw f).freeCtr = s.freeCtr := rfl
@[simp] theorem State.setBw_dev (s : State) (f : BwSt → BwSt) : (s.setBw f).dev = s.dev := rfl
@[simp] theorem State.setBw_time (s : State) (f : BwSt → BwSt) : (s.setBw f).time = s.time := rfl
@[simp] theorem State.setBw_weir (s : State) (f : BwSt → BwSt) : (s.setBw f).weir = s.weir := rfl
@[simp] theorem State.setBw_sess (s : State) (f : BwSt → BwSt) : (s.setBw f).sess = s.sess := rfl
@[simp] theorem State.setBw_fbp (s : State) (f : BwSt → BwSt) : (s.setBw f).fbp = s.fbp := rfl
@[simp] theorem State.setBw_fbSel (s : State) (f : BwSt → BwSt) : (s.setBw f).fbSel = s.fbSel := rfl
@[simp] theorem State.setBw_ax (s : State) (f : BwSt → BwSt) : (s.setBw f).ax = s.ax := rfl
@[simp] theorem State.setBw_mig (s : State) (f : BwSt → BwSt) : (s.setBw f).mig = s.mig := rfl
@[simp] theorem State.setBw_core (s : State) (f : BwSt → BwSt) : (s.setBw f).core = s.core := rfl
@[simp] theorem State.setBw_ecc (s : State) (f : BwSt → BwSt) : (s.setBw f).ecc = s.ecc := rfl
@[simp] theorem State.setBw_sdm (s : State) (f : BwSt → BwSt) : (s.setBw f).sdm = s.sdm := rfl
@[simp] theorem State.setBw_aux (s : State) (f : BwSt → BwSt) : (s.setBw f).aux = s.aux := rfl
@[simp] theorem State.setBw_pwm (s : State) (f : BwSt → BwSt) : (s.setBw f).pwm = s.pwm := rfl
@[simp] theorem State.setBw_tins (s : State) (f : BwSt → BwSt) : (s.setBw f).tins = s.tins := rfl
@[simp] theorem State.setBw_psp (s : State) (f : BwSt → BwSt) : (s.setBw f).psp = s.psp := rfl
@[simp] theorem State.setBw_ws (s : State) (f : BwSt → BwSt) : (s.setBw f).ws = s.ws := rfl
@[simp] theorem State.setBw_stp (s : State) (f : BwSt → BwSt) : (s.setBw f).stp = s.stp := rfl
@[simp] theorem State.setBw_grp (s : State) (f : BwSt → BwSt) : (s.setBw f).grp = s.grp := rfl
@[simp] theorem State.setBw_sset (s : State) (f : BwSt → BwSt) : (s.setBw f).sset = s.sset := rfl
@[simp] theorem State.setBw_wall (s : State) (f : BwSt → BwSt) : (s.setBw f).wall = s.wall := rfl
@[simp] theorem State.setBw_lat (s : State) (f : BwSt → BwSt) : (s.setBw f).lat = s.lat := rfl
@[simp] theorem State.setBw_hop (s : State) (f : BwSt → BwSt) : (s.setBw f).hop = s.hop := rfl
@[simp] theorem State.setBw_fi (s : State) (f : BwSt → BwSt) : (s.setBw f).fi = s.fi := rfl
@[simp] theorem State.setBw_fo (s : State) (f : BwSt → BwSt) : (s.setBw f).fo = s.fo := rfl
@[simp] theorem State.setBw_can (s : State) (f : BwSt → BwSt) : (s.setBw f).can = s.can := rfl
@[simp] theorem State.setBw_eth (s : State) (f : BwSt → BwSt) : (s.setBw f).eth = s.eth := rfl
@[simp] theorem State.setBw_race (s : State) (f : BwSt → BwSt) : (s.setBw f).race = s.race := rfl
@[simp] theorem State.setBw_red (s : State) (f : BwSt → BwSt) : (s.setBw f).red = s.red := rfl
@[simp] theorem State.setBw_pwr (s : State) (f : BwSt → BwSt) : (s.setBw f).pwr = s.pwr := rfl
@[simp] theorem State.setBw_host (s : State) (f : BwSt → BwSt) : (s.setBw f).host = s.host := rfl
@[simp] theorem State.setBw_spi (s : State) (f : BwSt → BwSt) : (s.setBw f).spi = s.spi := rfl
@[simp] theorem State.setBw_bist (s : State) (f : BwSt → BwSt) : (s.setBw f).bist = s.bist := rfl
@[simp] theorem State.setBw_rg (s : State) (f : BwSt → BwSt) (y : Nat) : (s.setBw f).rg y = s.rg y := rfl
@[simp] theorem State.setBw_ldw (s : State) (f : BwSt → BwSt) (y : Nat) : (s.setBw f).ldw y = s.ldw y := rfl
@[simp] theorem State.setBw_cr (s : State) (f : BwSt → BwSt) (y : Nat) : (s.setBw f).cr y = s.cr y := rfl
@[simp] theorem State.setBw_page (s : State) (f : BwSt → BwSt) (y : Nat) : (s.setBw f).page y = s.page y := rfl
@[simp] theorem State.setBw_selOf (s : State) (f : BwSt → BwSt) (y : Master) : (s.setBw f).selOf y = s.selOf y := rfl
@[simp] theorem State.setBw_up (s : State) (f : BwSt → BwSt)  : (s.setBw f).up = s.up := rfl
@[simp] theorem State.setBw_buffered (s : State) (f : BwSt → BwSt) (y : Nat) : (s.setBw f).buffered y = s.buffered y := rfl

/-! `setHost` changes `host` alone. -/

@[simp] theorem State.setHost_now (s : State) (f : HostSt → HostSt) : (s.setHost f).now = s.now := rfl
@[simp] theorem State.setHost_pending (s : State) (f : HostSt → HostSt) : (s.setHost f).pending = s.pending := rfl
@[simp] theorem State.setHost_regs (s : State) (f : HostSt → HostSt) : (s.setHost f).regs = s.regs := rfl
@[simp] theorem State.setHost_pages (s : State) (f : HostSt → HostSt) : (s.setHost f).pages = s.pages := rfl
@[simp] theorem State.setHost_mem (s : State) (f : HostSt → HostSt) : (s.setHost f).mem = s.mem := rfl
@[simp] theorem State.setHost_sels (s : State) (f : HostSt → HostSt) : (s.setHost f).sels = s.sels := rfl
@[simp] theorem State.setHost_rd (s : State) (f : HostSt → HostSt) : (s.setHost f).rd = s.rd := rfl
@[simp] theorem State.setHost_freeCtr (s : State) (f : HostSt → HostSt) : (s.setHost f).freeCtr = s.freeCtr := rfl
@[simp] theorem State.setHost_dev (s : State) (f : HostSt → HostSt) : (s.setHost f).dev = s.dev := rfl
@[simp] theorem State.setHost_time (s : State) (f : HostSt → HostSt) : (s.setHost f).time = s.time := rfl
@[simp] theorem State.setHost_weir (s : State) (f : HostSt → HostSt) : (s.setHost f).weir = s.weir := rfl
@[simp] theorem State.setHost_sess (s : State) (f : HostSt → HostSt) : (s.setHost f).sess = s.sess := rfl
@[simp] theorem State.setHost_bw (s : State) (f : HostSt → HostSt) : (s.setHost f).bw = s.bw := rfl
@[simp] theorem State.setHost_fbp (s : State) (f : HostSt → HostSt) : (s.setHost f).fbp = s.fbp := rfl
@[simp] theorem State.setHost_fbSel (s : State) (f : HostSt → HostSt) : (s.setHost f).fbSel = s.fbSel := rfl
@[simp] theorem State.setHost_ax (s : State) (f : HostSt → HostSt) : (s.setHost f).ax = s.ax := rfl
@[simp] theorem State.setHost_mig (s : State) (f : HostSt → HostSt) : (s.setHost f).mig = s.mig := rfl
@[simp] theorem State.setHost_core (s : State) (f : HostSt → HostSt) : (s.setHost f).core = s.core := rfl
@[simp] theorem State.setHost_ecc (s : State) (f : HostSt → HostSt) : (s.setHost f).ecc = s.ecc := rfl
@[simp] theorem State.setHost_sdm (s : State) (f : HostSt → HostSt) : (s.setHost f).sdm = s.sdm := rfl
@[simp] theorem State.setHost_aux (s : State) (f : HostSt → HostSt) : (s.setHost f).aux = s.aux := rfl
@[simp] theorem State.setHost_pwm (s : State) (f : HostSt → HostSt) : (s.setHost f).pwm = s.pwm := rfl
@[simp] theorem State.setHost_tins (s : State) (f : HostSt → HostSt) : (s.setHost f).tins = s.tins := rfl
@[simp] theorem State.setHost_psp (s : State) (f : HostSt → HostSt) : (s.setHost f).psp = s.psp := rfl
@[simp] theorem State.setHost_ws (s : State) (f : HostSt → HostSt) : (s.setHost f).ws = s.ws := rfl
@[simp] theorem State.setHost_stp (s : State) (f : HostSt → HostSt) : (s.setHost f).stp = s.stp := rfl
@[simp] theorem State.setHost_grp (s : State) (f : HostSt → HostSt) : (s.setHost f).grp = s.grp := rfl
@[simp] theorem State.setHost_sset (s : State) (f : HostSt → HostSt) : (s.setHost f).sset = s.sset := rfl
@[simp] theorem State.setHost_wall (s : State) (f : HostSt → HostSt) : (s.setHost f).wall = s.wall := rfl
@[simp] theorem State.setHost_lat (s : State) (f : HostSt → HostSt) : (s.setHost f).lat = s.lat := rfl
@[simp] theorem State.setHost_hop (s : State) (f : HostSt → HostSt) : (s.setHost f).hop = s.hop := rfl
@[simp] theorem State.setHost_fi (s : State) (f : HostSt → HostSt) : (s.setHost f).fi = s.fi := rfl
@[simp] theorem State.setHost_fo (s : State) (f : HostSt → HostSt) : (s.setHost f).fo = s.fo := rfl
@[simp] theorem State.setHost_can (s : State) (f : HostSt → HostSt) : (s.setHost f).can = s.can := rfl
@[simp] theorem State.setHost_eth (s : State) (f : HostSt → HostSt) : (s.setHost f).eth = s.eth := rfl
@[simp] theorem State.setHost_race (s : State) (f : HostSt → HostSt) : (s.setHost f).race = s.race := rfl
@[simp] theorem State.setHost_red (s : State) (f : HostSt → HostSt) : (s.setHost f).red = s.red := rfl
@[simp] theorem State.setHost_pwr (s : State) (f : HostSt → HostSt) : (s.setHost f).pwr = s.pwr := rfl
@[simp] theorem State.setHost_spi (s : State) (f : HostSt → HostSt) : (s.setHost f).spi = s.spi := rfl
@[simp] theorem State.setHost_bist (s : State) (f : HostSt → HostSt) : (s.setHost f).bist = s.bist := rfl
@[simp] theorem State.setHost_rg (s : State) (f : HostSt → HostSt) (y : Nat) : (s.setHost f).rg y = s.rg y := rfl
@[simp] theorem State.setHost_ldw (s : State) (f : HostSt → HostSt) (y : Nat) : (s.setHost f).ldw y = s.ldw y := rfl
@[simp] theorem State.setHost_cr (s : State) (f : HostSt → HostSt) (y : Nat) : (s.setHost f).cr y = s.cr y := rfl
@[simp] theorem State.setHost_page (s : State) (f : HostSt → HostSt) (y : Nat) : (s.setHost f).page y = s.page y := rfl
@[simp] theorem State.setHost_selOf (s : State) (f : HostSt → HostSt) (y : Master) : (s.setHost f).selOf y = s.selOf y := rfl
@[simp] theorem State.setHost_up (s : State) (f : HostSt → HostSt)  : (s.setHost f).up = s.up := rfl
@[simp] theorem State.setHost_buffered (s : State) (f : HostSt → HostSt) (y : Nat) : (s.setHost f).buffered y = s.buffered y := rfl

/-! `setPwr` changes `pwr` alone. -/

@[simp] theorem State.setPwr_now (s : State) (f : PwrSt → PwrSt) : (s.setPwr f).now = s.now := rfl
@[simp] theorem State.setPwr_pending (s : State) (f : PwrSt → PwrSt) : (s.setPwr f).pending = s.pending := rfl
@[simp] theorem State.setPwr_regs (s : State) (f : PwrSt → PwrSt) : (s.setPwr f).regs = s.regs := rfl
@[simp] theorem State.setPwr_pages (s : State) (f : PwrSt → PwrSt) : (s.setPwr f).pages = s.pages := rfl
@[simp] theorem State.setPwr_mem (s : State) (f : PwrSt → PwrSt) : (s.setPwr f).mem = s.mem := rfl
@[simp] theorem State.setPwr_sels (s : State) (f : PwrSt → PwrSt) : (s.setPwr f).sels = s.sels := rfl
@[simp] theorem State.setPwr_rd (s : State) (f : PwrSt → PwrSt) : (s.setPwr f).rd = s.rd := rfl
@[simp] theorem State.setPwr_freeCtr (s : State) (f : PwrSt → PwrSt) : (s.setPwr f).freeCtr = s.freeCtr := rfl
@[simp] theorem State.setPwr_dev (s : State) (f : PwrSt → PwrSt) : (s.setPwr f).dev = s.dev := rfl
@[simp] theorem State.setPwr_time (s : State) (f : PwrSt → PwrSt) : (s.setPwr f).time = s.time := rfl
@[simp] theorem State.setPwr_weir (s : State) (f : PwrSt → PwrSt) : (s.setPwr f).weir = s.weir := rfl
@[simp] theorem State.setPwr_sess (s : State) (f : PwrSt → PwrSt) : (s.setPwr f).sess = s.sess := rfl
@[simp] theorem State.setPwr_bw (s : State) (f : PwrSt → PwrSt) : (s.setPwr f).bw = s.bw := rfl
@[simp] theorem State.setPwr_fbp (s : State) (f : PwrSt → PwrSt) : (s.setPwr f).fbp = s.fbp := rfl
@[simp] theorem State.setPwr_fbSel (s : State) (f : PwrSt → PwrSt) : (s.setPwr f).fbSel = s.fbSel := rfl
@[simp] theorem State.setPwr_ax (s : State) (f : PwrSt → PwrSt) : (s.setPwr f).ax = s.ax := rfl
@[simp] theorem State.setPwr_mig (s : State) (f : PwrSt → PwrSt) : (s.setPwr f).mig = s.mig := rfl
@[simp] theorem State.setPwr_core (s : State) (f : PwrSt → PwrSt) : (s.setPwr f).core = s.core := rfl
@[simp] theorem State.setPwr_ecc (s : State) (f : PwrSt → PwrSt) : (s.setPwr f).ecc = s.ecc := rfl
@[simp] theorem State.setPwr_sdm (s : State) (f : PwrSt → PwrSt) : (s.setPwr f).sdm = s.sdm := rfl
@[simp] theorem State.setPwr_aux (s : State) (f : PwrSt → PwrSt) : (s.setPwr f).aux = s.aux := rfl
@[simp] theorem State.setPwr_pwm (s : State) (f : PwrSt → PwrSt) : (s.setPwr f).pwm = s.pwm := rfl
@[simp] theorem State.setPwr_tins (s : State) (f : PwrSt → PwrSt) : (s.setPwr f).tins = s.tins := rfl
@[simp] theorem State.setPwr_psp (s : State) (f : PwrSt → PwrSt) : (s.setPwr f).psp = s.psp := rfl
@[simp] theorem State.setPwr_ws (s : State) (f : PwrSt → PwrSt) : (s.setPwr f).ws = s.ws := rfl
@[simp] theorem State.setPwr_stp (s : State) (f : PwrSt → PwrSt) : (s.setPwr f).stp = s.stp := rfl
@[simp] theorem State.setPwr_grp (s : State) (f : PwrSt → PwrSt) : (s.setPwr f).grp = s.grp := rfl
@[simp] theorem State.setPwr_sset (s : State) (f : PwrSt → PwrSt) : (s.setPwr f).sset = s.sset := rfl
@[simp] theorem State.setPwr_wall (s : State) (f : PwrSt → PwrSt) : (s.setPwr f).wall = s.wall := rfl
@[simp] theorem State.setPwr_lat (s : State) (f : PwrSt → PwrSt) : (s.setPwr f).lat = s.lat := rfl
@[simp] theorem State.setPwr_hop (s : State) (f : PwrSt → PwrSt) : (s.setPwr f).hop = s.hop := rfl
@[simp] theorem State.setPwr_fi (s : State) (f : PwrSt → PwrSt) : (s.setPwr f).fi = s.fi := rfl
@[simp] theorem State.setPwr_fo (s : State) (f : PwrSt → PwrSt) : (s.setPwr f).fo = s.fo := rfl
@[simp] theorem State.setPwr_can (s : State) (f : PwrSt → PwrSt) : (s.setPwr f).can = s.can := rfl
@[simp] theorem State.setPwr_eth (s : State) (f : PwrSt → PwrSt) : (s.setPwr f).eth = s.eth := rfl
@[simp] theorem State.setPwr_race (s : State) (f : PwrSt → PwrSt) : (s.setPwr f).race = s.race := rfl
@[simp] theorem State.setPwr_red (s : State) (f : PwrSt → PwrSt) : (s.setPwr f).red = s.red := rfl
@[simp] theorem State.setPwr_host (s : State) (f : PwrSt → PwrSt) : (s.setPwr f).host = s.host := rfl
@[simp] theorem State.setPwr_spi (s : State) (f : PwrSt → PwrSt) : (s.setPwr f).spi = s.spi := rfl
@[simp] theorem State.setPwr_bist (s : State) (f : PwrSt → PwrSt) : (s.setPwr f).bist = s.bist := rfl
@[simp] theorem State.setPwr_rg (s : State) (f : PwrSt → PwrSt) (y : Nat) : (s.setPwr f).rg y = s.rg y := rfl
@[simp] theorem State.setPwr_ldw (s : State) (f : PwrSt → PwrSt) (y : Nat) : (s.setPwr f).ldw y = s.ldw y := rfl
@[simp] theorem State.setPwr_cr (s : State) (f : PwrSt → PwrSt) (y : Nat) : (s.setPwr f).cr y = s.cr y := rfl
@[simp] theorem State.setPwr_page (s : State) (f : PwrSt → PwrSt) (y : Nat) : (s.setPwr f).page y = s.page y := rfl
@[simp] theorem State.setPwr_selOf (s : State) (f : PwrSt → PwrSt) (y : Master) : (s.setPwr f).selOf y = s.selOf y := rfl
@[simp] theorem State.setPwr_buffered (s : State) (f : PwrSt → PwrSt) (y : Nat) : (s.setPwr f).buffered y = s.buffered y := rfl

/-! `setPort` changes `eth` alone. -/

@[simp] theorem State.setPort_now (s : State) (n : Nat) (f : EthPort → EthPort) : (s.setPort n f).now = s.now := rfl
@[simp] theorem State.setPort_pending (s : State) (n : Nat) (f : EthPort → EthPort) : (s.setPort n f).pending = s.pending := rfl
@[simp] theorem State.setPort_regs (s : State) (n : Nat) (f : EthPort → EthPort) : (s.setPort n f).regs = s.regs := rfl
@[simp] theorem State.setPort_pages (s : State) (n : Nat) (f : EthPort → EthPort) : (s.setPort n f).pages = s.pages := rfl
@[simp] theorem State.setPort_mem (s : State) (n : Nat) (f : EthPort → EthPort) : (s.setPort n f).mem = s.mem := rfl
@[simp] theorem State.setPort_sels (s : State) (n : Nat) (f : EthPort → EthPort) : (s.setPort n f).sels = s.sels := rfl
@[simp] theorem State.setPort_rd (s : State) (n : Nat) (f : EthPort → EthPort) : (s.setPort n f).rd = s.rd := rfl
@[simp] theorem State.setPort_freeCtr (s : State) (n : Nat) (f : EthPort → EthPort) : (s.setPort n f).freeCtr = s.freeCtr := rfl
@[simp] theorem State.setPort_dev (s : State) (n : Nat) (f : EthPort → EthPort) : (s.setPort n f).dev = s.dev := rfl
@[simp] theorem State.setPort_time (s : State) (n : Nat) (f : EthPort → EthPort) : (s.setPort n f).time = s.time := rfl
@[simp] theorem State.setPort_weir (s : State) (n : Nat) (f : EthPort → EthPort) : (s.setPort n f).weir = s.weir := rfl
@[simp] theorem State.setPort_sess (s : State) (n : Nat) (f : EthPort → EthPort) : (s.setPort n f).sess = s.sess := rfl
@[simp] theorem State.setPort_bw (s : State) (n : Nat) (f : EthPort → EthPort) : (s.setPort n f).bw = s.bw := rfl
@[simp] theorem State.setPort_fbp (s : State) (n : Nat) (f : EthPort → EthPort) : (s.setPort n f).fbp = s.fbp := rfl
@[simp] theorem State.setPort_fbSel (s : State) (n : Nat) (f : EthPort → EthPort) : (s.setPort n f).fbSel = s.fbSel := rfl
@[simp] theorem State.setPort_ax (s : State) (n : Nat) (f : EthPort → EthPort) : (s.setPort n f).ax = s.ax := rfl
@[simp] theorem State.setPort_mig (s : State) (n : Nat) (f : EthPort → EthPort) : (s.setPort n f).mig = s.mig := rfl
@[simp] theorem State.setPort_core (s : State) (n : Nat) (f : EthPort → EthPort) : (s.setPort n f).core = s.core := rfl
@[simp] theorem State.setPort_ecc (s : State) (n : Nat) (f : EthPort → EthPort) : (s.setPort n f).ecc = s.ecc := rfl
@[simp] theorem State.setPort_sdm (s : State) (n : Nat) (f : EthPort → EthPort) : (s.setPort n f).sdm = s.sdm := rfl
@[simp] theorem State.setPort_aux (s : State) (n : Nat) (f : EthPort → EthPort) : (s.setPort n f).aux = s.aux := rfl
@[simp] theorem State.setPort_pwm (s : State) (n : Nat) (f : EthPort → EthPort) : (s.setPort n f).pwm = s.pwm := rfl
@[simp] theorem State.setPort_tins (s : State) (n : Nat) (f : EthPort → EthPort) : (s.setPort n f).tins = s.tins := rfl
@[simp] theorem State.setPort_psp (s : State) (n : Nat) (f : EthPort → EthPort) : (s.setPort n f).psp = s.psp := rfl
@[simp] theorem State.setPort_ws (s : State) (n : Nat) (f : EthPort → EthPort) : (s.setPort n f).ws = s.ws := rfl
@[simp] theorem State.setPort_stp (s : State) (n : Nat) (f : EthPort → EthPort) : (s.setPort n f).stp = s.stp := rfl
@[simp] theorem State.setPort_grp (s : State) (n : Nat) (f : EthPort → EthPort) : (s.setPort n f).grp = s.grp := rfl
@[simp] theorem State.setPort_sset (s : State) (n : Nat) (f : EthPort → EthPort) : (s.setPort n f).sset = s.sset := rfl
@[simp] theorem State.setPort_wall (s : State) (n : Nat) (f : EthPort → EthPort) : (s.setPort n f).wall = s.wall := rfl
@[simp] theorem State.setPort_lat (s : State) (n : Nat) (f : EthPort → EthPort) : (s.setPort n f).lat = s.lat := rfl
@[simp] theorem State.setPort_hop (s : State) (n : Nat) (f : EthPort → EthPort) : (s.setPort n f).hop = s.hop := rfl
@[simp] theorem State.setPort_fi (s : State) (n : Nat) (f : EthPort → EthPort) : (s.setPort n f).fi = s.fi := rfl
@[simp] theorem State.setPort_fo (s : State) (n : Nat) (f : EthPort → EthPort) : (s.setPort n f).fo = s.fo := rfl
@[simp] theorem State.setPort_can (s : State) (n : Nat) (f : EthPort → EthPort) : (s.setPort n f).can = s.can := rfl
@[simp] theorem State.setPort_race (s : State) (n : Nat) (f : EthPort → EthPort) : (s.setPort n f).race = s.race := rfl
@[simp] theorem State.setPort_red (s : State) (n : Nat) (f : EthPort → EthPort) : (s.setPort n f).red = s.red := rfl
@[simp] theorem State.setPort_pwr (s : State) (n : Nat) (f : EthPort → EthPort) : (s.setPort n f).pwr = s.pwr := rfl
@[simp] theorem State.setPort_host (s : State) (n : Nat) (f : EthPort → EthPort) : (s.setPort n f).host = s.host := rfl
@[simp] theorem State.setPort_spi (s : State) (n : Nat) (f : EthPort → EthPort) : (s.setPort n f).spi = s.spi := rfl
@[simp] theorem State.setPort_bist (s : State) (n : Nat) (f : EthPort → EthPort) : (s.setPort n f).bist = s.bist := rfl
@[simp] theorem State.setPort_rg (s : State) (n : Nat) (f : EthPort → EthPort) (y : Nat) : (s.setPort n f).rg y = s.rg y := rfl
@[simp] theorem State.setPort_ldw (s : State) (n : Nat) (f : EthPort → EthPort) (y : Nat) : (s.setPort n f).ldw y = s.ldw y := rfl
@[simp] theorem State.setPort_cr (s : State) (n : Nat) (f : EthPort → EthPort) (y : Nat) : (s.setPort n f).cr y = s.cr y := rfl
@[simp] theorem State.setPort_page (s : State) (n : Nat) (f : EthPort → EthPort) (y : Nat) : (s.setPort n f).page y = s.page y := rfl
@[simp] theorem State.setPort_selOf (s : State) (n : Nat) (f : EthPort → EthPort) (y : Master) : (s.setPort n f).selOf y = s.selOf y := rfl
@[simp] theorem State.setPort_up (s : State) (n : Nat) (f : EthPort → EthPort)  : (s.setPort n f).up = s.up := rfl
@[simp] theorem State.setPort_buffered (s : State) (n : Nat) (f : EthPort → EthPort) (y : Nat) : (s.setPort n f).buffered y = s.buffered y := rfl

/-! `setRace` changes `race` alone. -/

@[simp] theorem State.setRace_now (s : State) (r : Nat) (f : RaceSt → RaceSt) : (s.setRace r f).now = s.now := rfl
@[simp] theorem State.setRace_pending (s : State) (r : Nat) (f : RaceSt → RaceSt) : (s.setRace r f).pending = s.pending := rfl
@[simp] theorem State.setRace_regs (s : State) (r : Nat) (f : RaceSt → RaceSt) : (s.setRace r f).regs = s.regs := rfl
@[simp] theorem State.setRace_pages (s : State) (r : Nat) (f : RaceSt → RaceSt) : (s.setRace r f).pages = s.pages := rfl
@[simp] theorem State.setRace_mem (s : State) (r : Nat) (f : RaceSt → RaceSt) : (s.setRace r f).mem = s.mem := rfl
@[simp] theorem State.setRace_sels (s : State) (r : Nat) (f : RaceSt → RaceSt) : (s.setRace r f).sels = s.sels := rfl
@[simp] theorem State.setRace_rd (s : State) (r : Nat) (f : RaceSt → RaceSt) : (s.setRace r f).rd = s.rd := rfl
@[simp] theorem State.setRace_freeCtr (s : State) (r : Nat) (f : RaceSt → RaceSt) : (s.setRace r f).freeCtr = s.freeCtr := rfl
@[simp] theorem State.setRace_dev (s : State) (r : Nat) (f : RaceSt → RaceSt) : (s.setRace r f).dev = s.dev := rfl
@[simp] theorem State.setRace_time (s : State) (r : Nat) (f : RaceSt → RaceSt) : (s.setRace r f).time = s.time := rfl
@[simp] theorem State.setRace_weir (s : State) (r : Nat) (f : RaceSt → RaceSt) : (s.setRace r f).weir = s.weir := rfl
@[simp] theorem State.setRace_sess (s : State) (r : Nat) (f : RaceSt → RaceSt) : (s.setRace r f).sess = s.sess := rfl
@[simp] theorem State.setRace_bw (s : State) (r : Nat) (f : RaceSt → RaceSt) : (s.setRace r f).bw = s.bw := rfl
@[simp] theorem State.setRace_fbp (s : State) (r : Nat) (f : RaceSt → RaceSt) : (s.setRace r f).fbp = s.fbp := rfl
@[simp] theorem State.setRace_fbSel (s : State) (r : Nat) (f : RaceSt → RaceSt) : (s.setRace r f).fbSel = s.fbSel := rfl
@[simp] theorem State.setRace_ax (s : State) (r : Nat) (f : RaceSt → RaceSt) : (s.setRace r f).ax = s.ax := rfl
@[simp] theorem State.setRace_mig (s : State) (r : Nat) (f : RaceSt → RaceSt) : (s.setRace r f).mig = s.mig := rfl
@[simp] theorem State.setRace_core (s : State) (r : Nat) (f : RaceSt → RaceSt) : (s.setRace r f).core = s.core := rfl
@[simp] theorem State.setRace_ecc (s : State) (r : Nat) (f : RaceSt → RaceSt) : (s.setRace r f).ecc = s.ecc := rfl
@[simp] theorem State.setRace_sdm (s : State) (r : Nat) (f : RaceSt → RaceSt) : (s.setRace r f).sdm = s.sdm := rfl
@[simp] theorem State.setRace_aux (s : State) (r : Nat) (f : RaceSt → RaceSt) : (s.setRace r f).aux = s.aux := rfl
@[simp] theorem State.setRace_pwm (s : State) (r : Nat) (f : RaceSt → RaceSt) : (s.setRace r f).pwm = s.pwm := rfl
@[simp] theorem State.setRace_tins (s : State) (r : Nat) (f : RaceSt → RaceSt) : (s.setRace r f).tins = s.tins := rfl
@[simp] theorem State.setRace_psp (s : State) (r : Nat) (f : RaceSt → RaceSt) : (s.setRace r f).psp = s.psp := rfl
@[simp] theorem State.setRace_ws (s : State) (r : Nat) (f : RaceSt → RaceSt) : (s.setRace r f).ws = s.ws := rfl
@[simp] theorem State.setRace_stp (s : State) (r : Nat) (f : RaceSt → RaceSt) : (s.setRace r f).stp = s.stp := rfl
@[simp] theorem State.setRace_grp (s : State) (r : Nat) (f : RaceSt → RaceSt) : (s.setRace r f).grp = s.grp := rfl
@[simp] theorem State.setRace_sset (s : State) (r : Nat) (f : RaceSt → RaceSt) : (s.setRace r f).sset = s.sset := rfl
@[simp] theorem State.setRace_wall (s : State) (r : Nat) (f : RaceSt → RaceSt) : (s.setRace r f).wall = s.wall := rfl
@[simp] theorem State.setRace_lat (s : State) (r : Nat) (f : RaceSt → RaceSt) : (s.setRace r f).lat = s.lat := rfl
@[simp] theorem State.setRace_hop (s : State) (r : Nat) (f : RaceSt → RaceSt) : (s.setRace r f).hop = s.hop := rfl
@[simp] theorem State.setRace_fi (s : State) (r : Nat) (f : RaceSt → RaceSt) : (s.setRace r f).fi = s.fi := rfl
@[simp] theorem State.setRace_fo (s : State) (r : Nat) (f : RaceSt → RaceSt) : (s.setRace r f).fo = s.fo := rfl
@[simp] theorem State.setRace_can (s : State) (r : Nat) (f : RaceSt → RaceSt) : (s.setRace r f).can = s.can := rfl
@[simp] theorem State.setRace_eth (s : State) (r : Nat) (f : RaceSt → RaceSt) : (s.setRace r f).eth = s.eth := rfl
@[simp] theorem State.setRace_red (s : State) (r : Nat) (f : RaceSt → RaceSt) : (s.setRace r f).red = s.red := rfl
@[simp] theorem State.setRace_pwr (s : State) (r : Nat) (f : RaceSt → RaceSt) : (s.setRace r f).pwr = s.pwr := rfl
@[simp] theorem State.setRace_host (s : State) (r : Nat) (f : RaceSt → RaceSt) : (s.setRace r f).host = s.host := rfl
@[simp] theorem State.setRace_spi (s : State) (r : Nat) (f : RaceSt → RaceSt) : (s.setRace r f).spi = s.spi := rfl
@[simp] theorem State.setRace_bist (s : State) (r : Nat) (f : RaceSt → RaceSt) : (s.setRace r f).bist = s.bist := rfl
@[simp] theorem State.setRace_rg (s : State) (r : Nat) (f : RaceSt → RaceSt) (y : Nat) : (s.setRace r f).rg y = s.rg y := rfl
@[simp] theorem State.setRace_ldw (s : State) (r : Nat) (f : RaceSt → RaceSt) (y : Nat) : (s.setRace r f).ldw y = s.ldw y := rfl
@[simp] theorem State.setRace_cr (s : State) (r : Nat) (f : RaceSt → RaceSt) (y : Nat) : (s.setRace r f).cr y = s.cr y := rfl
@[simp] theorem State.setRace_page (s : State) (r : Nat) (f : RaceSt → RaceSt) (y : Nat) : (s.setRace r f).page y = s.page y := rfl
@[simp] theorem State.setRace_selOf (s : State) (r : Nat) (f : RaceSt → RaceSt) (y : Master) : (s.setRace r f).selOf y = s.selOf y := rfl
@[simp] theorem State.setRace_up (s : State) (r : Nat) (f : RaceSt → RaceSt)  : (s.setRace r f).up = s.up := rfl
@[simp] theorem State.setRace_buffered (s : State) (r : Nat) (f : RaceSt → RaceSt) (y : Nat) : (s.setRace r f).buffered y = s.buffered y := rfl

/-! `setSd` changes `sdm` alone. -/

@[simp] theorem State.setSd_now (s : State) (n : Nat) (f : SdmSt → SdmSt) : (s.setSd n f).now = s.now := rfl
@[simp] theorem State.setSd_pending (s : State) (n : Nat) (f : SdmSt → SdmSt) : (s.setSd n f).pending = s.pending := rfl
@[simp] theorem State.setSd_regs (s : State) (n : Nat) (f : SdmSt → SdmSt) : (s.setSd n f).regs = s.regs := rfl
@[simp] theorem State.setSd_pages (s : State) (n : Nat) (f : SdmSt → SdmSt) : (s.setSd n f).pages = s.pages := rfl
@[simp] theorem State.setSd_mem (s : State) (n : Nat) (f : SdmSt → SdmSt) : (s.setSd n f).mem = s.mem := rfl
@[simp] theorem State.setSd_sels (s : State) (n : Nat) (f : SdmSt → SdmSt) : (s.setSd n f).sels = s.sels := rfl
@[simp] theorem State.setSd_rd (s : State) (n : Nat) (f : SdmSt → SdmSt) : (s.setSd n f).rd = s.rd := rfl
@[simp] theorem State.setSd_freeCtr (s : State) (n : Nat) (f : SdmSt → SdmSt) : (s.setSd n f).freeCtr = s.freeCtr := rfl
@[simp] theorem State.setSd_dev (s : State) (n : Nat) (f : SdmSt → SdmSt) : (s.setSd n f).dev = s.dev := rfl
@[simp] theorem State.setSd_time (s : State) (n : Nat) (f : SdmSt → SdmSt) : (s.setSd n f).time = s.time := rfl
@[simp] theorem State.setSd_weir (s : State) (n : Nat) (f : SdmSt → SdmSt) : (s.setSd n f).weir = s.weir := rfl
@[simp] theorem State.setSd_sess (s : State) (n : Nat) (f : SdmSt → SdmSt) : (s.setSd n f).sess = s.sess := rfl
@[simp] theorem State.setSd_bw (s : State) (n : Nat) (f : SdmSt → SdmSt) : (s.setSd n f).bw = s.bw := rfl
@[simp] theorem State.setSd_fbp (s : State) (n : Nat) (f : SdmSt → SdmSt) : (s.setSd n f).fbp = s.fbp := rfl
@[simp] theorem State.setSd_fbSel (s : State) (n : Nat) (f : SdmSt → SdmSt) : (s.setSd n f).fbSel = s.fbSel := rfl
@[simp] theorem State.setSd_ax (s : State) (n : Nat) (f : SdmSt → SdmSt) : (s.setSd n f).ax = s.ax := rfl
@[simp] theorem State.setSd_mig (s : State) (n : Nat) (f : SdmSt → SdmSt) : (s.setSd n f).mig = s.mig := rfl
@[simp] theorem State.setSd_core (s : State) (n : Nat) (f : SdmSt → SdmSt) : (s.setSd n f).core = s.core := rfl
@[simp] theorem State.setSd_ecc (s : State) (n : Nat) (f : SdmSt → SdmSt) : (s.setSd n f).ecc = s.ecc := rfl
@[simp] theorem State.setSd_aux (s : State) (n : Nat) (f : SdmSt → SdmSt) : (s.setSd n f).aux = s.aux := rfl
@[simp] theorem State.setSd_pwm (s : State) (n : Nat) (f : SdmSt → SdmSt) : (s.setSd n f).pwm = s.pwm := rfl
@[simp] theorem State.setSd_tins (s : State) (n : Nat) (f : SdmSt → SdmSt) : (s.setSd n f).tins = s.tins := rfl
@[simp] theorem State.setSd_psp (s : State) (n : Nat) (f : SdmSt → SdmSt) : (s.setSd n f).psp = s.psp := rfl
@[simp] theorem State.setSd_ws (s : State) (n : Nat) (f : SdmSt → SdmSt) : (s.setSd n f).ws = s.ws := rfl
@[simp] theorem State.setSd_stp (s : State) (n : Nat) (f : SdmSt → SdmSt) : (s.setSd n f).stp = s.stp := rfl
@[simp] theorem State.setSd_grp (s : State) (n : Nat) (f : SdmSt → SdmSt) : (s.setSd n f).grp = s.grp := rfl
@[simp] theorem State.setSd_sset (s : State) (n : Nat) (f : SdmSt → SdmSt) : (s.setSd n f).sset = s.sset := rfl
@[simp] theorem State.setSd_wall (s : State) (n : Nat) (f : SdmSt → SdmSt) : (s.setSd n f).wall = s.wall := rfl
@[simp] theorem State.setSd_lat (s : State) (n : Nat) (f : SdmSt → SdmSt) : (s.setSd n f).lat = s.lat := rfl
@[simp] theorem State.setSd_hop (s : State) (n : Nat) (f : SdmSt → SdmSt) : (s.setSd n f).hop = s.hop := rfl
@[simp] theorem State.setSd_fi (s : State) (n : Nat) (f : SdmSt → SdmSt) : (s.setSd n f).fi = s.fi := rfl
@[simp] theorem State.setSd_fo (s : State) (n : Nat) (f : SdmSt → SdmSt) : (s.setSd n f).fo = s.fo := rfl
@[simp] theorem State.setSd_can (s : State) (n : Nat) (f : SdmSt → SdmSt) : (s.setSd n f).can = s.can := rfl
@[simp] theorem State.setSd_eth (s : State) (n : Nat) (f : SdmSt → SdmSt) : (s.setSd n f).eth = s.eth := rfl
@[simp] theorem State.setSd_race (s : State) (n : Nat) (f : SdmSt → SdmSt) : (s.setSd n f).race = s.race := rfl
@[simp] theorem State.setSd_red (s : State) (n : Nat) (f : SdmSt → SdmSt) : (s.setSd n f).red = s.red := rfl
@[simp] theorem State.setSd_pwr (s : State) (n : Nat) (f : SdmSt → SdmSt) : (s.setSd n f).pwr = s.pwr := rfl
@[simp] theorem State.setSd_host (s : State) (n : Nat) (f : SdmSt → SdmSt) : (s.setSd n f).host = s.host := rfl
@[simp] theorem State.setSd_spi (s : State) (n : Nat) (f : SdmSt → SdmSt) : (s.setSd n f).spi = s.spi := rfl
@[simp] theorem State.setSd_bist (s : State) (n : Nat) (f : SdmSt → SdmSt) : (s.setSd n f).bist = s.bist := rfl
@[simp] theorem State.setSd_rg (s : State) (n : Nat) (f : SdmSt → SdmSt) (y : Nat) : (s.setSd n f).rg y = s.rg y := rfl
@[simp] theorem State.setSd_ldw (s : State) (n : Nat) (f : SdmSt → SdmSt) (y : Nat) : (s.setSd n f).ldw y = s.ldw y := rfl
@[simp] theorem State.setSd_cr (s : State) (n : Nat) (f : SdmSt → SdmSt) (y : Nat) : (s.setSd n f).cr y = s.cr y := rfl
@[simp] theorem State.setSd_page (s : State) (n : Nat) (f : SdmSt → SdmSt) (y : Nat) : (s.setSd n f).page y = s.page y := rfl
@[simp] theorem State.setSd_selOf (s : State) (n : Nat) (f : SdmSt → SdmSt) (y : Master) : (s.setSd n f).selOf y = s.selOf y := rfl
@[simp] theorem State.setSd_up (s : State) (n : Nat) (f : SdmSt → SdmSt)  : (s.setSd n f).up = s.up := rfl
@[simp] theorem State.setSd_buffered (s : State) (n : Nat) (f : SdmSt → SdmSt) (y : Nat) : (s.setSd n f).buffered y = s.buffered y := rfl

/-! `setSess` changes `sess` alone. -/

@[simp] theorem State.setSess_now (s : State) (f : SessSt → SessSt) : (s.setSess f).now = s.now := rfl
@[simp] theorem State.setSess_pending (s : State) (f : SessSt → SessSt) : (s.setSess f).pending = s.pending := rfl
@[simp] theorem State.setSess_regs (s : State) (f : SessSt → SessSt) : (s.setSess f).regs = s.regs := rfl
@[simp] theorem State.setSess_pages (s : State) (f : SessSt → SessSt) : (s.setSess f).pages = s.pages := rfl
@[simp] theorem State.setSess_mem (s : State) (f : SessSt → SessSt) : (s.setSess f).mem = s.mem := rfl
@[simp] theorem State.setSess_sels (s : State) (f : SessSt → SessSt) : (s.setSess f).sels = s.sels := rfl
@[simp] theorem State.setSess_rd (s : State) (f : SessSt → SessSt) : (s.setSess f).rd = s.rd := rfl
@[simp] theorem State.setSess_freeCtr (s : State) (f : SessSt → SessSt) : (s.setSess f).freeCtr = s.freeCtr := rfl
@[simp] theorem State.setSess_dev (s : State) (f : SessSt → SessSt) : (s.setSess f).dev = s.dev := rfl
@[simp] theorem State.setSess_time (s : State) (f : SessSt → SessSt) : (s.setSess f).time = s.time := rfl
@[simp] theorem State.setSess_weir (s : State) (f : SessSt → SessSt) : (s.setSess f).weir = s.weir := rfl
@[simp] theorem State.setSess_bw (s : State) (f : SessSt → SessSt) : (s.setSess f).bw = s.bw := rfl
@[simp] theorem State.setSess_fbp (s : State) (f : SessSt → SessSt) : (s.setSess f).fbp = s.fbp := rfl
@[simp] theorem State.setSess_fbSel (s : State) (f : SessSt → SessSt) : (s.setSess f).fbSel = s.fbSel := rfl
@[simp] theorem State.setSess_ax (s : State) (f : SessSt → SessSt) : (s.setSess f).ax = s.ax := rfl
@[simp] theorem State.setSess_mig (s : State) (f : SessSt → SessSt) : (s.setSess f).mig = s.mig := rfl
@[simp] theorem State.setSess_core (s : State) (f : SessSt → SessSt) : (s.setSess f).core = s.core := rfl
@[simp] theorem State.setSess_ecc (s : State) (f : SessSt → SessSt) : (s.setSess f).ecc = s.ecc := rfl
@[simp] theorem State.setSess_sdm (s : State) (f : SessSt → SessSt) : (s.setSess f).sdm = s.sdm := rfl
@[simp] theorem State.setSess_aux (s : State) (f : SessSt → SessSt) : (s.setSess f).aux = s.aux := rfl
@[simp] theorem State.setSess_pwm (s : State) (f : SessSt → SessSt) : (s.setSess f).pwm = s.pwm := rfl
@[simp] theorem State.setSess_tins (s : State) (f : SessSt → SessSt) : (s.setSess f).tins = s.tins := rfl
@[simp] theorem State.setSess_psp (s : State) (f : SessSt → SessSt) : (s.setSess f).psp = s.psp := rfl
@[simp] theorem State.setSess_ws (s : State) (f : SessSt → SessSt) : (s.setSess f).ws = s.ws := rfl
@[simp] theorem State.setSess_stp (s : State) (f : SessSt → SessSt) : (s.setSess f).stp = s.stp := rfl
@[simp] theorem State.setSess_grp (s : State) (f : SessSt → SessSt) : (s.setSess f).grp = s.grp := rfl
@[simp] theorem State.setSess_sset (s : State) (f : SessSt → SessSt) : (s.setSess f).sset = s.sset := rfl
@[simp] theorem State.setSess_wall (s : State) (f : SessSt → SessSt) : (s.setSess f).wall = s.wall := rfl
@[simp] theorem State.setSess_lat (s : State) (f : SessSt → SessSt) : (s.setSess f).lat = s.lat := rfl
@[simp] theorem State.setSess_hop (s : State) (f : SessSt → SessSt) : (s.setSess f).hop = s.hop := rfl
@[simp] theorem State.setSess_fi (s : State) (f : SessSt → SessSt) : (s.setSess f).fi = s.fi := rfl
@[simp] theorem State.setSess_fo (s : State) (f : SessSt → SessSt) : (s.setSess f).fo = s.fo := rfl
@[simp] theorem State.setSess_can (s : State) (f : SessSt → SessSt) : (s.setSess f).can = s.can := rfl
@[simp] theorem State.setSess_eth (s : State) (f : SessSt → SessSt) : (s.setSess f).eth = s.eth := rfl
@[simp] theorem State.setSess_race (s : State) (f : SessSt → SessSt) : (s.setSess f).race = s.race := rfl
@[simp] theorem State.setSess_red (s : State) (f : SessSt → SessSt) : (s.setSess f).red = s.red := rfl
@[simp] theorem State.setSess_pwr (s : State) (f : SessSt → SessSt) : (s.setSess f).pwr = s.pwr := rfl
@[simp] theorem State.setSess_host (s : State) (f : SessSt → SessSt) : (s.setSess f).host = s.host := rfl
@[simp] theorem State.setSess_spi (s : State) (f : SessSt → SessSt) : (s.setSess f).spi = s.spi := rfl
@[simp] theorem State.setSess_bist (s : State) (f : SessSt → SessSt) : (s.setSess f).bist = s.bist := rfl
@[simp] theorem State.setSess_rg (s : State) (f : SessSt → SessSt) (y : Nat) : (s.setSess f).rg y = s.rg y := rfl
@[simp] theorem State.setSess_ldw (s : State) (f : SessSt → SessSt) (y : Nat) : (s.setSess f).ldw y = s.ldw y := rfl
@[simp] theorem State.setSess_cr (s : State) (f : SessSt → SessSt) (y : Nat) : (s.setSess f).cr y = s.cr y := rfl
@[simp] theorem State.setSess_page (s : State) (f : SessSt → SessSt) (y : Nat) : (s.setSess f).page y = s.page y := rfl
@[simp] theorem State.setSess_selOf (s : State) (f : SessSt → SessSt) (y : Master) : (s.setSess f).selOf y = s.selOf y := rfl
@[simp] theorem State.setSess_up (s : State) (f : SessSt → SessSt)  : (s.setSess f).up = s.up := rfl
@[simp] theorem State.setSess_buffered (s : State) (f : SessSt → SessSt) (y : Nat) : (s.setSess f).buffered y = s.buffered y := rfl

/-! `setPw` changes `pwm` alone. -/

@[simp] theorem State.setPw_now (s : State) (n : Nat) (f : PwmSt → PwmSt) : (s.setPw n f).now = s.now := rfl
@[simp] theorem State.setPw_pending (s : State) (n : Nat) (f : PwmSt → PwmSt) : (s.setPw n f).pending = s.pending := rfl
@[simp] theorem State.setPw_regs (s : State) (n : Nat) (f : PwmSt → PwmSt) : (s.setPw n f).regs = s.regs := rfl
@[simp] theorem State.setPw_pages (s : State) (n : Nat) (f : PwmSt → PwmSt) : (s.setPw n f).pages = s.pages := rfl
@[simp] theorem State.setPw_mem (s : State) (n : Nat) (f : PwmSt → PwmSt) : (s.setPw n f).mem = s.mem := rfl
@[simp] theorem State.setPw_sels (s : State) (n : Nat) (f : PwmSt → PwmSt) : (s.setPw n f).sels = s.sels := rfl
@[simp] theorem State.setPw_rd (s : State) (n : Nat) (f : PwmSt → PwmSt) : (s.setPw n f).rd = s.rd := rfl
@[simp] theorem State.setPw_freeCtr (s : State) (n : Nat) (f : PwmSt → PwmSt) : (s.setPw n f).freeCtr = s.freeCtr := rfl
@[simp] theorem State.setPw_dev (s : State) (n : Nat) (f : PwmSt → PwmSt) : (s.setPw n f).dev = s.dev := rfl
@[simp] theorem State.setPw_time (s : State) (n : Nat) (f : PwmSt → PwmSt) : (s.setPw n f).time = s.time := rfl
@[simp] theorem State.setPw_weir (s : State) (n : Nat) (f : PwmSt → PwmSt) : (s.setPw n f).weir = s.weir := rfl
@[simp] theorem State.setPw_sess (s : State) (n : Nat) (f : PwmSt → PwmSt) : (s.setPw n f).sess = s.sess := rfl
@[simp] theorem State.setPw_bw (s : State) (n : Nat) (f : PwmSt → PwmSt) : (s.setPw n f).bw = s.bw := rfl
@[simp] theorem State.setPw_fbp (s : State) (n : Nat) (f : PwmSt → PwmSt) : (s.setPw n f).fbp = s.fbp := rfl
@[simp] theorem State.setPw_fbSel (s : State) (n : Nat) (f : PwmSt → PwmSt) : (s.setPw n f).fbSel = s.fbSel := rfl
@[simp] theorem State.setPw_ax (s : State) (n : Nat) (f : PwmSt → PwmSt) : (s.setPw n f).ax = s.ax := rfl
@[simp] theorem State.setPw_mig (s : State) (n : Nat) (f : PwmSt → PwmSt) : (s.setPw n f).mig = s.mig := rfl
@[simp] theorem State.setPw_core (s : State) (n : Nat) (f : PwmSt → PwmSt) : (s.setPw n f).core = s.core := rfl
@[simp] theorem State.setPw_ecc (s : State) (n : Nat) (f : PwmSt → PwmSt) : (s.setPw n f).ecc = s.ecc := rfl
@[simp] theorem State.setPw_sdm (s : State) (n : Nat) (f : PwmSt → PwmSt) : (s.setPw n f).sdm = s.sdm := rfl
@[simp] theorem State.setPw_aux (s : State) (n : Nat) (f : PwmSt → PwmSt) : (s.setPw n f).aux = s.aux := rfl
@[simp] theorem State.setPw_tins (s : State) (n : Nat) (f : PwmSt → PwmSt) : (s.setPw n f).tins = s.tins := rfl
@[simp] theorem State.setPw_psp (s : State) (n : Nat) (f : PwmSt → PwmSt) : (s.setPw n f).psp = s.psp := rfl
@[simp] theorem State.setPw_ws (s : State) (n : Nat) (f : PwmSt → PwmSt) : (s.setPw n f).ws = s.ws := rfl
@[simp] theorem State.setPw_stp (s : State) (n : Nat) (f : PwmSt → PwmSt) : (s.setPw n f).stp = s.stp := rfl
@[simp] theorem State.setPw_grp (s : State) (n : Nat) (f : PwmSt → PwmSt) : (s.setPw n f).grp = s.grp := rfl
@[simp] theorem State.setPw_sset (s : State) (n : Nat) (f : PwmSt → PwmSt) : (s.setPw n f).sset = s.sset := rfl
@[simp] theorem State.setPw_wall (s : State) (n : Nat) (f : PwmSt → PwmSt) : (s.setPw n f).wall = s.wall := rfl
@[simp] theorem State.setPw_lat (s : State) (n : Nat) (f : PwmSt → PwmSt) : (s.setPw n f).lat = s.lat := rfl
@[simp] theorem State.setPw_hop (s : State) (n : Nat) (f : PwmSt → PwmSt) : (s.setPw n f).hop = s.hop := rfl
@[simp] theorem State.setPw_fi (s : State) (n : Nat) (f : PwmSt → PwmSt) : (s.setPw n f).fi = s.fi := rfl
@[simp] theorem State.setPw_fo (s : State) (n : Nat) (f : PwmSt → PwmSt) : (s.setPw n f).fo = s.fo := rfl
@[simp] theorem State.setPw_can (s : State) (n : Nat) (f : PwmSt → PwmSt) : (s.setPw n f).can = s.can := rfl
@[simp] theorem State.setPw_eth (s : State) (n : Nat) (f : PwmSt → PwmSt) : (s.setPw n f).eth = s.eth := rfl
@[simp] theorem State.setPw_race (s : State) (n : Nat) (f : PwmSt → PwmSt) : (s.setPw n f).race = s.race := rfl
@[simp] theorem State.setPw_red (s : State) (n : Nat) (f : PwmSt → PwmSt) : (s.setPw n f).red = s.red := rfl
@[simp] theorem State.setPw_pwr (s : State) (n : Nat) (f : PwmSt → PwmSt) : (s.setPw n f).pwr = s.pwr := rfl
@[simp] theorem State.setPw_host (s : State) (n : Nat) (f : PwmSt → PwmSt) : (s.setPw n f).host = s.host := rfl
@[simp] theorem State.setPw_spi (s : State) (n : Nat) (f : PwmSt → PwmSt) : (s.setPw n f).spi = s.spi := rfl
@[simp] theorem State.setPw_bist (s : State) (n : Nat) (f : PwmSt → PwmSt) : (s.setPw n f).bist = s.bist := rfl
@[simp] theorem State.setPw_rg (s : State) (n : Nat) (f : PwmSt → PwmSt) (y : Nat) : (s.setPw n f).rg y = s.rg y := rfl
@[simp] theorem State.setPw_ldw (s : State) (n : Nat) (f : PwmSt → PwmSt) (y : Nat) : (s.setPw n f).ldw y = s.ldw y := rfl
@[simp] theorem State.setPw_cr (s : State) (n : Nat) (f : PwmSt → PwmSt) (y : Nat) : (s.setPw n f).cr y = s.cr y := rfl
@[simp] theorem State.setPw_page (s : State) (n : Nat) (f : PwmSt → PwmSt) (y : Nat) : (s.setPw n f).page y = s.page y := rfl
@[simp] theorem State.setPw_selOf (s : State) (n : Nat) (f : PwmSt → PwmSt) (y : Master) : (s.setPw n f).selOf y = s.selOf y := rfl
@[simp] theorem State.setPw_up (s : State) (n : Nat) (f : PwmSt → PwmSt)  : (s.setPw n f).up = s.up := rfl
@[simp] theorem State.setPw_buffered (s : State) (n : Nat) (f : PwmSt → PwmSt) (y : Nat) : (s.setPw n f).buffered y = s.buffered y := rfl

/-! `setPs` changes `psp` alone. -/

@[simp] theorem State.setPs_now (s : State) (n : Nat) (f : PspSt → PspSt) : (s.setPs n f).now = s.now := rfl
@[simp] theorem State.setPs_pending (s : State) (n : Nat) (f : PspSt → PspSt) : (s.setPs n f).pending = s.pending := rfl
@[simp] theorem State.setPs_regs (s : State) (n : Nat) (f : PspSt → PspSt) : (s.setPs n f).regs = s.regs := rfl
@[simp] theorem State.setPs_pages (s : State) (n : Nat) (f : PspSt → PspSt) : (s.setPs n f).pages = s.pages := rfl
@[simp] theorem State.setPs_mem (s : State) (n : Nat) (f : PspSt → PspSt) : (s.setPs n f).mem = s.mem := rfl
@[simp] theorem State.setPs_sels (s : State) (n : Nat) (f : PspSt → PspSt) : (s.setPs n f).sels = s.sels := rfl
@[simp] theorem State.setPs_rd (s : State) (n : Nat) (f : PspSt → PspSt) : (s.setPs n f).rd = s.rd := rfl
@[simp] theorem State.setPs_freeCtr (s : State) (n : Nat) (f : PspSt → PspSt) : (s.setPs n f).freeCtr = s.freeCtr := rfl
@[simp] theorem State.setPs_dev (s : State) (n : Nat) (f : PspSt → PspSt) : (s.setPs n f).dev = s.dev := rfl
@[simp] theorem State.setPs_time (s : State) (n : Nat) (f : PspSt → PspSt) : (s.setPs n f).time = s.time := rfl
@[simp] theorem State.setPs_weir (s : State) (n : Nat) (f : PspSt → PspSt) : (s.setPs n f).weir = s.weir := rfl
@[simp] theorem State.setPs_sess (s : State) (n : Nat) (f : PspSt → PspSt) : (s.setPs n f).sess = s.sess := rfl
@[simp] theorem State.setPs_bw (s : State) (n : Nat) (f : PspSt → PspSt) : (s.setPs n f).bw = s.bw := rfl
@[simp] theorem State.setPs_fbp (s : State) (n : Nat) (f : PspSt → PspSt) : (s.setPs n f).fbp = s.fbp := rfl
@[simp] theorem State.setPs_fbSel (s : State) (n : Nat) (f : PspSt → PspSt) : (s.setPs n f).fbSel = s.fbSel := rfl
@[simp] theorem State.setPs_ax (s : State) (n : Nat) (f : PspSt → PspSt) : (s.setPs n f).ax = s.ax := rfl
@[simp] theorem State.setPs_mig (s : State) (n : Nat) (f : PspSt → PspSt) : (s.setPs n f).mig = s.mig := rfl
@[simp] theorem State.setPs_core (s : State) (n : Nat) (f : PspSt → PspSt) : (s.setPs n f).core = s.core := rfl
@[simp] theorem State.setPs_ecc (s : State) (n : Nat) (f : PspSt → PspSt) : (s.setPs n f).ecc = s.ecc := rfl
@[simp] theorem State.setPs_sdm (s : State) (n : Nat) (f : PspSt → PspSt) : (s.setPs n f).sdm = s.sdm := rfl
@[simp] theorem State.setPs_aux (s : State) (n : Nat) (f : PspSt → PspSt) : (s.setPs n f).aux = s.aux := rfl
@[simp] theorem State.setPs_pwm (s : State) (n : Nat) (f : PspSt → PspSt) : (s.setPs n f).pwm = s.pwm := rfl
@[simp] theorem State.setPs_tins (s : State) (n : Nat) (f : PspSt → PspSt) : (s.setPs n f).tins = s.tins := rfl
@[simp] theorem State.setPs_ws (s : State) (n : Nat) (f : PspSt → PspSt) : (s.setPs n f).ws = s.ws := rfl
@[simp] theorem State.setPs_stp (s : State) (n : Nat) (f : PspSt → PspSt) : (s.setPs n f).stp = s.stp := rfl
@[simp] theorem State.setPs_grp (s : State) (n : Nat) (f : PspSt → PspSt) : (s.setPs n f).grp = s.grp := rfl
@[simp] theorem State.setPs_sset (s : State) (n : Nat) (f : PspSt → PspSt) : (s.setPs n f).sset = s.sset := rfl
@[simp] theorem State.setPs_wall (s : State) (n : Nat) (f : PspSt → PspSt) : (s.setPs n f).wall = s.wall := rfl
@[simp] theorem State.setPs_lat (s : State) (n : Nat) (f : PspSt → PspSt) : (s.setPs n f).lat = s.lat := rfl
@[simp] theorem State.setPs_hop (s : State) (n : Nat) (f : PspSt → PspSt) : (s.setPs n f).hop = s.hop := rfl
@[simp] theorem State.setPs_fi (s : State) (n : Nat) (f : PspSt → PspSt) : (s.setPs n f).fi = s.fi := rfl
@[simp] theorem State.setPs_fo (s : State) (n : Nat) (f : PspSt → PspSt) : (s.setPs n f).fo = s.fo := rfl
@[simp] theorem State.setPs_can (s : State) (n : Nat) (f : PspSt → PspSt) : (s.setPs n f).can = s.can := rfl
@[simp] theorem State.setPs_eth (s : State) (n : Nat) (f : PspSt → PspSt) : (s.setPs n f).eth = s.eth := rfl
@[simp] theorem State.setPs_race (s : State) (n : Nat) (f : PspSt → PspSt) : (s.setPs n f).race = s.race := rfl
@[simp] theorem State.setPs_red (s : State) (n : Nat) (f : PspSt → PspSt) : (s.setPs n f).red = s.red := rfl
@[simp] theorem State.setPs_pwr (s : State) (n : Nat) (f : PspSt → PspSt) : (s.setPs n f).pwr = s.pwr := rfl
@[simp] theorem State.setPs_host (s : State) (n : Nat) (f : PspSt → PspSt) : (s.setPs n f).host = s.host := rfl
@[simp] theorem State.setPs_spi (s : State) (n : Nat) (f : PspSt → PspSt) : (s.setPs n f).spi = s.spi := rfl
@[simp] theorem State.setPs_bist (s : State) (n : Nat) (f : PspSt → PspSt) : (s.setPs n f).bist = s.bist := rfl
@[simp] theorem State.setPs_rg (s : State) (n : Nat) (f : PspSt → PspSt) (y : Nat) : (s.setPs n f).rg y = s.rg y := rfl
@[simp] theorem State.setPs_ldw (s : State) (n : Nat) (f : PspSt → PspSt) (y : Nat) : (s.setPs n f).ldw y = s.ldw y := rfl
@[simp] theorem State.setPs_cr (s : State) (n : Nat) (f : PspSt → PspSt) (y : Nat) : (s.setPs n f).cr y = s.cr y := rfl
@[simp] theorem State.setPs_page (s : State) (n : Nat) (f : PspSt → PspSt) (y : Nat) : (s.setPs n f).page y = s.page y := rfl
@[simp] theorem State.setPs_selOf (s : State) (n : Nat) (f : PspSt → PspSt) (y : Master) : (s.setPs n f).selOf y = s.selOf y := rfl
@[simp] theorem State.setPs_up (s : State) (n : Nat) (f : PspSt → PspSt)  : (s.setPs n f).up = s.up := rfl
@[simp] theorem State.setPs_buffered (s : State) (n : Nat) (f : PspSt → PspSt) (y : Nat) : (s.setPs n f).buffered y = s.buffered y := rfl

/-! `setSp` changes `stp` alone. -/

@[simp] theorem State.setSp_now (s : State) (a : Nat) (f : StepSt → StepSt) : (s.setSp a f).now = s.now := rfl
@[simp] theorem State.setSp_pending (s : State) (a : Nat) (f : StepSt → StepSt) : (s.setSp a f).pending = s.pending := rfl
@[simp] theorem State.setSp_regs (s : State) (a : Nat) (f : StepSt → StepSt) : (s.setSp a f).regs = s.regs := rfl
@[simp] theorem State.setSp_pages (s : State) (a : Nat) (f : StepSt → StepSt) : (s.setSp a f).pages = s.pages := rfl
@[simp] theorem State.setSp_mem (s : State) (a : Nat) (f : StepSt → StepSt) : (s.setSp a f).mem = s.mem := rfl
@[simp] theorem State.setSp_sels (s : State) (a : Nat) (f : StepSt → StepSt) : (s.setSp a f).sels = s.sels := rfl
@[simp] theorem State.setSp_rd (s : State) (a : Nat) (f : StepSt → StepSt) : (s.setSp a f).rd = s.rd := rfl
@[simp] theorem State.setSp_freeCtr (s : State) (a : Nat) (f : StepSt → StepSt) : (s.setSp a f).freeCtr = s.freeCtr := rfl
@[simp] theorem State.setSp_dev (s : State) (a : Nat) (f : StepSt → StepSt) : (s.setSp a f).dev = s.dev := rfl
@[simp] theorem State.setSp_time (s : State) (a : Nat) (f : StepSt → StepSt) : (s.setSp a f).time = s.time := rfl
@[simp] theorem State.setSp_weir (s : State) (a : Nat) (f : StepSt → StepSt) : (s.setSp a f).weir = s.weir := rfl
@[simp] theorem State.setSp_sess (s : State) (a : Nat) (f : StepSt → StepSt) : (s.setSp a f).sess = s.sess := rfl
@[simp] theorem State.setSp_bw (s : State) (a : Nat) (f : StepSt → StepSt) : (s.setSp a f).bw = s.bw := rfl
@[simp] theorem State.setSp_fbp (s : State) (a : Nat) (f : StepSt → StepSt) : (s.setSp a f).fbp = s.fbp := rfl
@[simp] theorem State.setSp_fbSel (s : State) (a : Nat) (f : StepSt → StepSt) : (s.setSp a f).fbSel = s.fbSel := rfl
@[simp] theorem State.setSp_ax (s : State) (a : Nat) (f : StepSt → StepSt) : (s.setSp a f).ax = s.ax := rfl
@[simp] theorem State.setSp_mig (s : State) (a : Nat) (f : StepSt → StepSt) : (s.setSp a f).mig = s.mig := rfl
@[simp] theorem State.setSp_core (s : State) (a : Nat) (f : StepSt → StepSt) : (s.setSp a f).core = s.core := rfl
@[simp] theorem State.setSp_ecc (s : State) (a : Nat) (f : StepSt → StepSt) : (s.setSp a f).ecc = s.ecc := rfl
@[simp] theorem State.setSp_sdm (s : State) (a : Nat) (f : StepSt → StepSt) : (s.setSp a f).sdm = s.sdm := rfl
@[simp] theorem State.setSp_aux (s : State) (a : Nat) (f : StepSt → StepSt) : (s.setSp a f).aux = s.aux := rfl
@[simp] theorem State.setSp_pwm (s : State) (a : Nat) (f : StepSt → StepSt) : (s.setSp a f).pwm = s.pwm := rfl
@[simp] theorem State.setSp_tins (s : State) (a : Nat) (f : StepSt → StepSt) : (s.setSp a f).tins = s.tins := rfl
@[simp] theorem State.setSp_psp (s : State) (a : Nat) (f : StepSt → StepSt) : (s.setSp a f).psp = s.psp := rfl
@[simp] theorem State.setSp_ws (s : State) (a : Nat) (f : StepSt → StepSt) : (s.setSp a f).ws = s.ws := rfl
@[simp] theorem State.setSp_grp (s : State) (a : Nat) (f : StepSt → StepSt) : (s.setSp a f).grp = s.grp := rfl
@[simp] theorem State.setSp_sset (s : State) (a : Nat) (f : StepSt → StepSt) : (s.setSp a f).sset = s.sset := rfl
@[simp] theorem State.setSp_wall (s : State) (a : Nat) (f : StepSt → StepSt) : (s.setSp a f).wall = s.wall := rfl
@[simp] theorem State.setSp_lat (s : State) (a : Nat) (f : StepSt → StepSt) : (s.setSp a f).lat = s.lat := rfl
@[simp] theorem State.setSp_hop (s : State) (a : Nat) (f : StepSt → StepSt) : (s.setSp a f).hop = s.hop := rfl
@[simp] theorem State.setSp_fi (s : State) (a : Nat) (f : StepSt → StepSt) : (s.setSp a f).fi = s.fi := rfl
@[simp] theorem State.setSp_fo (s : State) (a : Nat) (f : StepSt → StepSt) : (s.setSp a f).fo = s.fo := rfl
@[simp] theorem State.setSp_can (s : State) (a : Nat) (f : StepSt → StepSt) : (s.setSp a f).can = s.can := rfl
@[simp] theorem State.setSp_eth (s : State) (a : Nat) (f : StepSt → StepSt) : (s.setSp a f).eth = s.eth := rfl
@[simp] theorem State.setSp_race (s : State) (a : Nat) (f : StepSt → StepSt) : (s.setSp a f).race = s.race := rfl
@[simp] theorem State.setSp_red (s : State) (a : Nat) (f : StepSt → StepSt) : (s.setSp a f).red = s.red := rfl
@[simp] theorem State.setSp_pwr (s : State) (a : Nat) (f : StepSt → StepSt) : (s.setSp a f).pwr = s.pwr := rfl
@[simp] theorem State.setSp_host (s : State) (a : Nat) (f : StepSt → StepSt) : (s.setSp a f).host = s.host := rfl
@[simp] theorem State.setSp_spi (s : State) (a : Nat) (f : StepSt → StepSt) : (s.setSp a f).spi = s.spi := rfl
@[simp] theorem State.setSp_bist (s : State) (a : Nat) (f : StepSt → StepSt) : (s.setSp a f).bist = s.bist := rfl
@[simp] theorem State.setSp_rg (s : State) (a : Nat) (f : StepSt → StepSt) (y : Nat) : (s.setSp a f).rg y = s.rg y := rfl
@[simp] theorem State.setSp_ldw (s : State) (a : Nat) (f : StepSt → StepSt) (y : Nat) : (s.setSp a f).ldw y = s.ldw y := rfl
@[simp] theorem State.setSp_cr (s : State) (a : Nat) (f : StepSt → StepSt) (y : Nat) : (s.setSp a f).cr y = s.cr y := rfl
@[simp] theorem State.setSp_page (s : State) (a : Nat) (f : StepSt → StepSt) (y : Nat) : (s.setSp a f).page y = s.page y := rfl
@[simp] theorem State.setSp_selOf (s : State) (a : Nat) (f : StepSt → StepSt) (y : Master) : (s.setSp a f).selOf y = s.selOf y := rfl
@[simp] theorem State.setSp_up (s : State) (a : Nat) (f : StepSt → StepSt)  : (s.setSp a f).up = s.up := rfl
@[simp] theorem State.setSp_buffered (s : State) (a : Nat) (f : StepSt → StepSt) (y : Nat) : (s.setSp a f).buffered y = s.buffered y := rfl

/-! `setLk` changes `wall` alone. -/

@[simp] theorem State.setLk_now (s : State) (l : Nat) (f : LinkSt → LinkSt) : (s.setLk l f).now = s.now := rfl
@[simp] theorem State.setLk_pending (s : State) (l : Nat) (f : LinkSt → LinkSt) : (s.setLk l f).pending = s.pending := rfl
@[simp] theorem State.setLk_regs (s : State) (l : Nat) (f : LinkSt → LinkSt) : (s.setLk l f).regs = s.regs := rfl
@[simp] theorem State.setLk_pages (s : State) (l : Nat) (f : LinkSt → LinkSt) : (s.setLk l f).pages = s.pages := rfl
@[simp] theorem State.setLk_mem (s : State) (l : Nat) (f : LinkSt → LinkSt) : (s.setLk l f).mem = s.mem := rfl
@[simp] theorem State.setLk_sels (s : State) (l : Nat) (f : LinkSt → LinkSt) : (s.setLk l f).sels = s.sels := rfl
@[simp] theorem State.setLk_rd (s : State) (l : Nat) (f : LinkSt → LinkSt) : (s.setLk l f).rd = s.rd := rfl
@[simp] theorem State.setLk_freeCtr (s : State) (l : Nat) (f : LinkSt → LinkSt) : (s.setLk l f).freeCtr = s.freeCtr := rfl
@[simp] theorem State.setLk_dev (s : State) (l : Nat) (f : LinkSt → LinkSt) : (s.setLk l f).dev = s.dev := rfl
@[simp] theorem State.setLk_time (s : State) (l : Nat) (f : LinkSt → LinkSt) : (s.setLk l f).time = s.time := rfl
@[simp] theorem State.setLk_weir (s : State) (l : Nat) (f : LinkSt → LinkSt) : (s.setLk l f).weir = s.weir := rfl
@[simp] theorem State.setLk_sess (s : State) (l : Nat) (f : LinkSt → LinkSt) : (s.setLk l f).sess = s.sess := rfl
@[simp] theorem State.setLk_bw (s : State) (l : Nat) (f : LinkSt → LinkSt) : (s.setLk l f).bw = s.bw := rfl
@[simp] theorem State.setLk_fbp (s : State) (l : Nat) (f : LinkSt → LinkSt) : (s.setLk l f).fbp = s.fbp := rfl
@[simp] theorem State.setLk_fbSel (s : State) (l : Nat) (f : LinkSt → LinkSt) : (s.setLk l f).fbSel = s.fbSel := rfl
@[simp] theorem State.setLk_ax (s : State) (l : Nat) (f : LinkSt → LinkSt) : (s.setLk l f).ax = s.ax := rfl
@[simp] theorem State.setLk_mig (s : State) (l : Nat) (f : LinkSt → LinkSt) : (s.setLk l f).mig = s.mig := rfl
@[simp] theorem State.setLk_core (s : State) (l : Nat) (f : LinkSt → LinkSt) : (s.setLk l f).core = s.core := rfl
@[simp] theorem State.setLk_ecc (s : State) (l : Nat) (f : LinkSt → LinkSt) : (s.setLk l f).ecc = s.ecc := rfl
@[simp] theorem State.setLk_sdm (s : State) (l : Nat) (f : LinkSt → LinkSt) : (s.setLk l f).sdm = s.sdm := rfl
@[simp] theorem State.setLk_aux (s : State) (l : Nat) (f : LinkSt → LinkSt) : (s.setLk l f).aux = s.aux := rfl
@[simp] theorem State.setLk_pwm (s : State) (l : Nat) (f : LinkSt → LinkSt) : (s.setLk l f).pwm = s.pwm := rfl
@[simp] theorem State.setLk_tins (s : State) (l : Nat) (f : LinkSt → LinkSt) : (s.setLk l f).tins = s.tins := rfl
@[simp] theorem State.setLk_psp (s : State) (l : Nat) (f : LinkSt → LinkSt) : (s.setLk l f).psp = s.psp := rfl
@[simp] theorem State.setLk_ws (s : State) (l : Nat) (f : LinkSt → LinkSt) : (s.setLk l f).ws = s.ws := rfl
@[simp] theorem State.setLk_stp (s : State) (l : Nat) (f : LinkSt → LinkSt) : (s.setLk l f).stp = s.stp := rfl
@[simp] theorem State.setLk_grp (s : State) (l : Nat) (f : LinkSt → LinkSt) : (s.setLk l f).grp = s.grp := rfl
@[simp] theorem State.setLk_sset (s : State) (l : Nat) (f : LinkSt → LinkSt) : (s.setLk l f).sset = s.sset := rfl
@[simp] theorem State.setLk_lat (s : State) (l : Nat) (f : LinkSt → LinkSt) : (s.setLk l f).lat = s.lat := rfl
@[simp] theorem State.setLk_hop (s : State) (l : Nat) (f : LinkSt → LinkSt) : (s.setLk l f).hop = s.hop := rfl
@[simp] theorem State.setLk_fi (s : State) (l : Nat) (f : LinkSt → LinkSt) : (s.setLk l f).fi = s.fi := rfl
@[simp] theorem State.setLk_fo (s : State) (l : Nat) (f : LinkSt → LinkSt) : (s.setLk l f).fo = s.fo := rfl
@[simp] theorem State.setLk_can (s : State) (l : Nat) (f : LinkSt → LinkSt) : (s.setLk l f).can = s.can := rfl
@[simp] theorem State.setLk_eth (s : State) (l : Nat) (f : LinkSt → LinkSt) : (s.setLk l f).eth = s.eth := rfl
@[simp] theorem State.setLk_race (s : State) (l : Nat) (f : LinkSt → LinkSt) : (s.setLk l f).race = s.race := rfl
@[simp] theorem State.setLk_red (s : State) (l : Nat) (f : LinkSt → LinkSt) : (s.setLk l f).red = s.red := rfl
@[simp] theorem State.setLk_pwr (s : State) (l : Nat) (f : LinkSt → LinkSt) : (s.setLk l f).pwr = s.pwr := rfl
@[simp] theorem State.setLk_host (s : State) (l : Nat) (f : LinkSt → LinkSt) : (s.setLk l f).host = s.host := rfl
@[simp] theorem State.setLk_spi (s : State) (l : Nat) (f : LinkSt → LinkSt) : (s.setLk l f).spi = s.spi := rfl
@[simp] theorem State.setLk_bist (s : State) (l : Nat) (f : LinkSt → LinkSt) : (s.setLk l f).bist = s.bist := rfl
@[simp] theorem State.setLk_rg (s : State) (l : Nat) (f : LinkSt → LinkSt) (y : Nat) : (s.setLk l f).rg y = s.rg y := rfl
@[simp] theorem State.setLk_ldw (s : State) (l : Nat) (f : LinkSt → LinkSt) (y : Nat) : (s.setLk l f).ldw y = s.ldw y := rfl
@[simp] theorem State.setLk_cr (s : State) (l : Nat) (f : LinkSt → LinkSt) (y : Nat) : (s.setLk l f).cr y = s.cr y := rfl
@[simp] theorem State.setLk_page (s : State) (l : Nat) (f : LinkSt → LinkSt) (y : Nat) : (s.setLk l f).page y = s.page y := rfl
@[simp] theorem State.setLk_selOf (s : State) (l : Nat) (f : LinkSt → LinkSt) (y : Master) : (s.setLk l f).selOf y = s.selOf y := rfl
@[simp] theorem State.setLk_up (s : State) (l : Nat) (f : LinkSt → LinkSt)  : (s.setLk l f).up = s.up := rfl
@[simp] theorem State.setLk_buffered (s : State) (l : Nat) (f : LinkSt → LinkSt) (y : Nat) : (s.setLk l f).buffered y = s.buffered y := rfl

/-! `setVm` changes `wall` alone. -/

@[simp] theorem State.setVm_now (s : State) (v : Nat) (f : VmSt → VmSt) : (s.setVm v f).now = s.now := rfl
@[simp] theorem State.setVm_pending (s : State) (v : Nat) (f : VmSt → VmSt) : (s.setVm v f).pending = s.pending := rfl
@[simp] theorem State.setVm_regs (s : State) (v : Nat) (f : VmSt → VmSt) : (s.setVm v f).regs = s.regs := rfl
@[simp] theorem State.setVm_pages (s : State) (v : Nat) (f : VmSt → VmSt) : (s.setVm v f).pages = s.pages := rfl
@[simp] theorem State.setVm_mem (s : State) (v : Nat) (f : VmSt → VmSt) : (s.setVm v f).mem = s.mem := rfl
@[simp] theorem State.setVm_sels (s : State) (v : Nat) (f : VmSt → VmSt) : (s.setVm v f).sels = s.sels := rfl
@[simp] theorem State.setVm_rd (s : State) (v : Nat) (f : VmSt → VmSt) : (s.setVm v f).rd = s.rd := rfl
@[simp] theorem State.setVm_freeCtr (s : State) (v : Nat) (f : VmSt → VmSt) : (s.setVm v f).freeCtr = s.freeCtr := rfl
@[simp] theorem State.setVm_dev (s : State) (v : Nat) (f : VmSt → VmSt) : (s.setVm v f).dev = s.dev := rfl
@[simp] theorem State.setVm_time (s : State) (v : Nat) (f : VmSt → VmSt) : (s.setVm v f).time = s.time := rfl
@[simp] theorem State.setVm_weir (s : State) (v : Nat) (f : VmSt → VmSt) : (s.setVm v f).weir = s.weir := rfl
@[simp] theorem State.setVm_sess (s : State) (v : Nat) (f : VmSt → VmSt) : (s.setVm v f).sess = s.sess := rfl
@[simp] theorem State.setVm_bw (s : State) (v : Nat) (f : VmSt → VmSt) : (s.setVm v f).bw = s.bw := rfl
@[simp] theorem State.setVm_fbp (s : State) (v : Nat) (f : VmSt → VmSt) : (s.setVm v f).fbp = s.fbp := rfl
@[simp] theorem State.setVm_fbSel (s : State) (v : Nat) (f : VmSt → VmSt) : (s.setVm v f).fbSel = s.fbSel := rfl
@[simp] theorem State.setVm_ax (s : State) (v : Nat) (f : VmSt → VmSt) : (s.setVm v f).ax = s.ax := rfl
@[simp] theorem State.setVm_mig (s : State) (v : Nat) (f : VmSt → VmSt) : (s.setVm v f).mig = s.mig := rfl
@[simp] theorem State.setVm_core (s : State) (v : Nat) (f : VmSt → VmSt) : (s.setVm v f).core = s.core := rfl
@[simp] theorem State.setVm_ecc (s : State) (v : Nat) (f : VmSt → VmSt) : (s.setVm v f).ecc = s.ecc := rfl
@[simp] theorem State.setVm_sdm (s : State) (v : Nat) (f : VmSt → VmSt) : (s.setVm v f).sdm = s.sdm := rfl
@[simp] theorem State.setVm_aux (s : State) (v : Nat) (f : VmSt → VmSt) : (s.setVm v f).aux = s.aux := rfl
@[simp] theorem State.setVm_pwm (s : State) (v : Nat) (f : VmSt → VmSt) : (s.setVm v f).pwm = s.pwm := rfl
@[simp] theorem State.setVm_tins (s : State) (v : Nat) (f : VmSt → VmSt) : (s.setVm v f).tins = s.tins := rfl
@[simp] theorem State.setVm_psp (s : State) (v : Nat) (f : VmSt → VmSt) : (s.setVm v f).psp = s.psp := rfl
@[simp] theorem State.setVm_ws (s : State) (v : Nat) (f : VmSt → VmSt) : (s.setVm v f).ws = s.ws := rfl
@[simp] theorem State.setVm_stp (s : State) (v : Nat) (f : VmSt → VmSt) : (s.setVm v f).stp = s.stp := rfl
@[simp] theorem State.setVm_grp (s : State) (v : Nat) (f : VmSt → VmSt) : (s.setVm v f).grp = s.grp := rfl
@[simp] theorem State.setVm_sset (s : State) (v : Nat) (f : VmSt → VmSt) : (s.setVm v f).sset = s.sset := rfl
@[simp] theorem State.setVm_lat (s : State) (v : Nat) (f : VmSt → VmSt) : (s.setVm v f).lat = s.lat := rfl
@[simp] theorem State.setVm_hop (s : State) (v : Nat) (f : VmSt → VmSt) : (s.setVm v f).hop = s.hop := rfl
@[simp] theorem State.setVm_fi (s : State) (v : Nat) (f : VmSt → VmSt) : (s.setVm v f).fi = s.fi := rfl
@[simp] theorem State.setVm_fo (s : State) (v : Nat) (f : VmSt → VmSt) : (s.setVm v f).fo = s.fo := rfl
@[simp] theorem State.setVm_can (s : State) (v : Nat) (f : VmSt → VmSt) : (s.setVm v f).can = s.can := rfl
@[simp] theorem State.setVm_eth (s : State) (v : Nat) (f : VmSt → VmSt) : (s.setVm v f).eth = s.eth := rfl
@[simp] theorem State.setVm_race (s : State) (v : Nat) (f : VmSt → VmSt) : (s.setVm v f).race = s.race := rfl
@[simp] theorem State.setVm_red (s : State) (v : Nat) (f : VmSt → VmSt) : (s.setVm v f).red = s.red := rfl
@[simp] theorem State.setVm_pwr (s : State) (v : Nat) (f : VmSt → VmSt) : (s.setVm v f).pwr = s.pwr := rfl
@[simp] theorem State.setVm_host (s : State) (v : Nat) (f : VmSt → VmSt) : (s.setVm v f).host = s.host := rfl
@[simp] theorem State.setVm_spi (s : State) (v : Nat) (f : VmSt → VmSt) : (s.setVm v f).spi = s.spi := rfl
@[simp] theorem State.setVm_bist (s : State) (v : Nat) (f : VmSt → VmSt) : (s.setVm v f).bist = s.bist := rfl
@[simp] theorem State.setVm_rg (s : State) (v : Nat) (f : VmSt → VmSt) (y : Nat) : (s.setVm v f).rg y = s.rg y := rfl
@[simp] theorem State.setVm_ldw (s : State) (v : Nat) (f : VmSt → VmSt) (y : Nat) : (s.setVm v f).ldw y = s.ldw y := rfl
@[simp] theorem State.setVm_cr (s : State) (v : Nat) (f : VmSt → VmSt) (y : Nat) : (s.setVm v f).cr y = s.cr y := rfl
@[simp] theorem State.setVm_page (s : State) (v : Nat) (f : VmSt → VmSt) (y : Nat) : (s.setVm v f).page y = s.page y := rfl
@[simp] theorem State.setVm_selOf (s : State) (v : Nat) (f : VmSt → VmSt) (y : Master) : (s.setVm v f).selOf y = s.selOf y := rfl
@[simp] theorem State.setVm_up (s : State) (v : Nat) (f : VmSt → VmSt)  : (s.setVm v f).up = s.up := rfl
@[simp] theorem State.setVm_buffered (s : State) (v : Nat) (f : VmSt → VmSt) (y : Nat) : (s.setVm v f).buffered y = s.buffered y := rfl

/-! `setAw` changes `ws` alone. -/

@[simp] theorem State.setAw_now (s : State) (a : Nat) (f : WsAx → WsAx) : (s.setAw a f).now = s.now := rfl
@[simp] theorem State.setAw_pending (s : State) (a : Nat) (f : WsAx → WsAx) : (s.setAw a f).pending = s.pending := rfl
@[simp] theorem State.setAw_regs (s : State) (a : Nat) (f : WsAx → WsAx) : (s.setAw a f).regs = s.regs := rfl
@[simp] theorem State.setAw_pages (s : State) (a : Nat) (f : WsAx → WsAx) : (s.setAw a f).pages = s.pages := rfl
@[simp] theorem State.setAw_mem (s : State) (a : Nat) (f : WsAx → WsAx) : (s.setAw a f).mem = s.mem := rfl
@[simp] theorem State.setAw_sels (s : State) (a : Nat) (f : WsAx → WsAx) : (s.setAw a f).sels = s.sels := rfl
@[simp] theorem State.setAw_rd (s : State) (a : Nat) (f : WsAx → WsAx) : (s.setAw a f).rd = s.rd := rfl
@[simp] theorem State.setAw_freeCtr (s : State) (a : Nat) (f : WsAx → WsAx) : (s.setAw a f).freeCtr = s.freeCtr := rfl
@[simp] theorem State.setAw_dev (s : State) (a : Nat) (f : WsAx → WsAx) : (s.setAw a f).dev = s.dev := rfl
@[simp] theorem State.setAw_time (s : State) (a : Nat) (f : WsAx → WsAx) : (s.setAw a f).time = s.time := rfl
@[simp] theorem State.setAw_weir (s : State) (a : Nat) (f : WsAx → WsAx) : (s.setAw a f).weir = s.weir := rfl
@[simp] theorem State.setAw_sess (s : State) (a : Nat) (f : WsAx → WsAx) : (s.setAw a f).sess = s.sess := rfl
@[simp] theorem State.setAw_bw (s : State) (a : Nat) (f : WsAx → WsAx) : (s.setAw a f).bw = s.bw := rfl
@[simp] theorem State.setAw_fbp (s : State) (a : Nat) (f : WsAx → WsAx) : (s.setAw a f).fbp = s.fbp := rfl
@[simp] theorem State.setAw_fbSel (s : State) (a : Nat) (f : WsAx → WsAx) : (s.setAw a f).fbSel = s.fbSel := rfl
@[simp] theorem State.setAw_ax (s : State) (a : Nat) (f : WsAx → WsAx) : (s.setAw a f).ax = s.ax := rfl
@[simp] theorem State.setAw_mig (s : State) (a : Nat) (f : WsAx → WsAx) : (s.setAw a f).mig = s.mig := rfl
@[simp] theorem State.setAw_core (s : State) (a : Nat) (f : WsAx → WsAx) : (s.setAw a f).core = s.core := rfl
@[simp] theorem State.setAw_ecc (s : State) (a : Nat) (f : WsAx → WsAx) : (s.setAw a f).ecc = s.ecc := rfl
@[simp] theorem State.setAw_sdm (s : State) (a : Nat) (f : WsAx → WsAx) : (s.setAw a f).sdm = s.sdm := rfl
@[simp] theorem State.setAw_aux (s : State) (a : Nat) (f : WsAx → WsAx) : (s.setAw a f).aux = s.aux := rfl
@[simp] theorem State.setAw_pwm (s : State) (a : Nat) (f : WsAx → WsAx) : (s.setAw a f).pwm = s.pwm := rfl
@[simp] theorem State.setAw_tins (s : State) (a : Nat) (f : WsAx → WsAx) : (s.setAw a f).tins = s.tins := rfl
@[simp] theorem State.setAw_psp (s : State) (a : Nat) (f : WsAx → WsAx) : (s.setAw a f).psp = s.psp := rfl
@[simp] theorem State.setAw_stp (s : State) (a : Nat) (f : WsAx → WsAx) : (s.setAw a f).stp = s.stp := rfl
@[simp] theorem State.setAw_grp (s : State) (a : Nat) (f : WsAx → WsAx) : (s.setAw a f).grp = s.grp := rfl
@[simp] theorem State.setAw_sset (s : State) (a : Nat) (f : WsAx → WsAx) : (s.setAw a f).sset = s.sset := rfl
@[simp] theorem State.setAw_wall (s : State) (a : Nat) (f : WsAx → WsAx) : (s.setAw a f).wall = s.wall := rfl
@[simp] theorem State.setAw_lat (s : State) (a : Nat) (f : WsAx → WsAx) : (s.setAw a f).lat = s.lat := rfl
@[simp] theorem State.setAw_hop (s : State) (a : Nat) (f : WsAx → WsAx) : (s.setAw a f).hop = s.hop := rfl
@[simp] theorem State.setAw_fi (s : State) (a : Nat) (f : WsAx → WsAx) : (s.setAw a f).fi = s.fi := rfl
@[simp] theorem State.setAw_fo (s : State) (a : Nat) (f : WsAx → WsAx) : (s.setAw a f).fo = s.fo := rfl
@[simp] theorem State.setAw_can (s : State) (a : Nat) (f : WsAx → WsAx) : (s.setAw a f).can = s.can := rfl
@[simp] theorem State.setAw_eth (s : State) (a : Nat) (f : WsAx → WsAx) : (s.setAw a f).eth = s.eth := rfl
@[simp] theorem State.setAw_race (s : State) (a : Nat) (f : WsAx → WsAx) : (s.setAw a f).race = s.race := rfl
@[simp] theorem State.setAw_red (s : State) (a : Nat) (f : WsAx → WsAx) : (s.setAw a f).red = s.red := rfl
@[simp] theorem State.setAw_pwr (s : State) (a : Nat) (f : WsAx → WsAx) : (s.setAw a f).pwr = s.pwr := rfl
@[simp] theorem State.setAw_host (s : State) (a : Nat) (f : WsAx → WsAx) : (s.setAw a f).host = s.host := rfl
@[simp] theorem State.setAw_spi (s : State) (a : Nat) (f : WsAx → WsAx) : (s.setAw a f).spi = s.spi := rfl
@[simp] theorem State.setAw_bist (s : State) (a : Nat) (f : WsAx → WsAx) : (s.setAw a f).bist = s.bist := rfl
@[simp] theorem State.setAw_rg (s : State) (a : Nat) (f : WsAx → WsAx) (y : Nat) : (s.setAw a f).rg y = s.rg y := rfl
@[simp] theorem State.setAw_ldw (s : State) (a : Nat) (f : WsAx → WsAx) (y : Nat) : (s.setAw a f).ldw y = s.ldw y := rfl
@[simp] theorem State.setAw_cr (s : State) (a : Nat) (f : WsAx → WsAx) (y : Nat) : (s.setAw a f).cr y = s.cr y := rfl
@[simp] theorem State.setAw_page (s : State) (a : Nat) (f : WsAx → WsAx) (y : Nat) : (s.setAw a f).page y = s.page y := rfl
@[simp] theorem State.setAw_selOf (s : State) (a : Nat) (f : WsAx → WsAx) (y : Master) : (s.setAw a f).selOf y = s.selOf y := rfl
@[simp] theorem State.setAw_up (s : State) (a : Nat) (f : WsAx → WsAx)  : (s.setAw a f).up = s.up := rfl
@[simp] theorem State.setAw_buffered (s : State) (a : Nat) (f : WsAx → WsAx) (y : Nat) : (s.setAw a f).buffered y = s.buffered y := rfl

/-! `setGr` changes `grp` alone. -/

@[simp] theorem State.setGr_now (s : State) (g : Nat) (f : WsGrp → WsGrp) : (s.setGr g f).now = s.now := rfl
@[simp] theorem State.setGr_pending (s : State) (g : Nat) (f : WsGrp → WsGrp) : (s.setGr g f).pending = s.pending := rfl
@[simp] theorem State.setGr_regs (s : State) (g : Nat) (f : WsGrp → WsGrp) : (s.setGr g f).regs = s.regs := rfl
@[simp] theorem State.setGr_pages (s : State) (g : Nat) (f : WsGrp → WsGrp) : (s.setGr g f).pages = s.pages := rfl
@[simp] theorem State.setGr_mem (s : State) (g : Nat) (f : WsGrp → WsGrp) : (s.setGr g f).mem = s.mem := rfl
@[simp] theorem State.setGr_sels (s : State) (g : Nat) (f : WsGrp → WsGrp) : (s.setGr g f).sels = s.sels := rfl
@[simp] theorem State.setGr_rd (s : State) (g : Nat) (f : WsGrp → WsGrp) : (s.setGr g f).rd = s.rd := rfl
@[simp] theorem State.setGr_freeCtr (s : State) (g : Nat) (f : WsGrp → WsGrp) : (s.setGr g f).freeCtr = s.freeCtr := rfl
@[simp] theorem State.setGr_dev (s : State) (g : Nat) (f : WsGrp → WsGrp) : (s.setGr g f).dev = s.dev := rfl
@[simp] theorem State.setGr_time (s : State) (g : Nat) (f : WsGrp → WsGrp) : (s.setGr g f).time = s.time := rfl
@[simp] theorem State.setGr_weir (s : State) (g : Nat) (f : WsGrp → WsGrp) : (s.setGr g f).weir = s.weir := rfl
@[simp] theorem State.setGr_sess (s : State) (g : Nat) (f : WsGrp → WsGrp) : (s.setGr g f).sess = s.sess := rfl
@[simp] theorem State.setGr_bw (s : State) (g : Nat) (f : WsGrp → WsGrp) : (s.setGr g f).bw = s.bw := rfl
@[simp] theorem State.setGr_fbp (s : State) (g : Nat) (f : WsGrp → WsGrp) : (s.setGr g f).fbp = s.fbp := rfl
@[simp] theorem State.setGr_fbSel (s : State) (g : Nat) (f : WsGrp → WsGrp) : (s.setGr g f).fbSel = s.fbSel := rfl
@[simp] theorem State.setGr_ax (s : State) (g : Nat) (f : WsGrp → WsGrp) : (s.setGr g f).ax = s.ax := rfl
@[simp] theorem State.setGr_mig (s : State) (g : Nat) (f : WsGrp → WsGrp) : (s.setGr g f).mig = s.mig := rfl
@[simp] theorem State.setGr_core (s : State) (g : Nat) (f : WsGrp → WsGrp) : (s.setGr g f).core = s.core := rfl
@[simp] theorem State.setGr_ecc (s : State) (g : Nat) (f : WsGrp → WsGrp) : (s.setGr g f).ecc = s.ecc := rfl
@[simp] theorem State.setGr_sdm (s : State) (g : Nat) (f : WsGrp → WsGrp) : (s.setGr g f).sdm = s.sdm := rfl
@[simp] theorem State.setGr_aux (s : State) (g : Nat) (f : WsGrp → WsGrp) : (s.setGr g f).aux = s.aux := rfl
@[simp] theorem State.setGr_pwm (s : State) (g : Nat) (f : WsGrp → WsGrp) : (s.setGr g f).pwm = s.pwm := rfl
@[simp] theorem State.setGr_tins (s : State) (g : Nat) (f : WsGrp → WsGrp) : (s.setGr g f).tins = s.tins := rfl
@[simp] theorem State.setGr_psp (s : State) (g : Nat) (f : WsGrp → WsGrp) : (s.setGr g f).psp = s.psp := rfl
@[simp] theorem State.setGr_ws (s : State) (g : Nat) (f : WsGrp → WsGrp) : (s.setGr g f).ws = s.ws := rfl
@[simp] theorem State.setGr_stp (s : State) (g : Nat) (f : WsGrp → WsGrp) : (s.setGr g f).stp = s.stp := rfl
@[simp] theorem State.setGr_sset (s : State) (g : Nat) (f : WsGrp → WsGrp) : (s.setGr g f).sset = s.sset := rfl
@[simp] theorem State.setGr_wall (s : State) (g : Nat) (f : WsGrp → WsGrp) : (s.setGr g f).wall = s.wall := rfl
@[simp] theorem State.setGr_lat (s : State) (g : Nat) (f : WsGrp → WsGrp) : (s.setGr g f).lat = s.lat := rfl
@[simp] theorem State.setGr_hop (s : State) (g : Nat) (f : WsGrp → WsGrp) : (s.setGr g f).hop = s.hop := rfl
@[simp] theorem State.setGr_fi (s : State) (g : Nat) (f : WsGrp → WsGrp) : (s.setGr g f).fi = s.fi := rfl
@[simp] theorem State.setGr_fo (s : State) (g : Nat) (f : WsGrp → WsGrp) : (s.setGr g f).fo = s.fo := rfl
@[simp] theorem State.setGr_can (s : State) (g : Nat) (f : WsGrp → WsGrp) : (s.setGr g f).can = s.can := rfl
@[simp] theorem State.setGr_eth (s : State) (g : Nat) (f : WsGrp → WsGrp) : (s.setGr g f).eth = s.eth := rfl
@[simp] theorem State.setGr_race (s : State) (g : Nat) (f : WsGrp → WsGrp) : (s.setGr g f).race = s.race := rfl
@[simp] theorem State.setGr_red (s : State) (g : Nat) (f : WsGrp → WsGrp) : (s.setGr g f).red = s.red := rfl
@[simp] theorem State.setGr_pwr (s : State) (g : Nat) (f : WsGrp → WsGrp) : (s.setGr g f).pwr = s.pwr := rfl
@[simp] theorem State.setGr_host (s : State) (g : Nat) (f : WsGrp → WsGrp) : (s.setGr g f).host = s.host := rfl
@[simp] theorem State.setGr_spi (s : State) (g : Nat) (f : WsGrp → WsGrp) : (s.setGr g f).spi = s.spi := rfl
@[simp] theorem State.setGr_bist (s : State) (g : Nat) (f : WsGrp → WsGrp) : (s.setGr g f).bist = s.bist := rfl
@[simp] theorem State.setGr_rg (s : State) (g : Nat) (f : WsGrp → WsGrp) (y : Nat) : (s.setGr g f).rg y = s.rg y := rfl
@[simp] theorem State.setGr_ldw (s : State) (g : Nat) (f : WsGrp → WsGrp) (y : Nat) : (s.setGr g f).ldw y = s.ldw y := rfl
@[simp] theorem State.setGr_cr (s : State) (g : Nat) (f : WsGrp → WsGrp) (y : Nat) : (s.setGr g f).cr y = s.cr y := rfl
@[simp] theorem State.setGr_page (s : State) (g : Nat) (f : WsGrp → WsGrp) (y : Nat) : (s.setGr g f).page y = s.page y := rfl
@[simp] theorem State.setGr_selOf (s : State) (g : Nat) (f : WsGrp → WsGrp) (y : Master) : (s.setGr g f).selOf y = s.selOf y := rfl
@[simp] theorem State.setGr_up (s : State) (g : Nat) (f : WsGrp → WsGrp)  : (s.setGr g f).up = s.up := rfl
@[simp] theorem State.setGr_buffered (s : State) (g : Nat) (f : WsGrp → WsGrp) (y : Nat) : (s.setGr g f).buffered y = s.buffered y := rfl

/-! `failInc` changes `regs` alone. -/

@[simp] theorem State.failInc_now (s : State) (b : Nat) : (s.failInc b).now = s.now := rfl
@[simp] theorem State.failInc_pending (s : State) (b : Nat) : (s.failInc b).pending = s.pending := rfl
@[simp] theorem State.failInc_pages (s : State) (b : Nat) : (s.failInc b).pages = s.pages := rfl
@[simp] theorem State.failInc_mem (s : State) (b : Nat) : (s.failInc b).mem = s.mem := rfl
@[simp] theorem State.failInc_sels (s : State) (b : Nat) : (s.failInc b).sels = s.sels := rfl
@[simp] theorem State.failInc_rd (s : State) (b : Nat) : (s.failInc b).rd = s.rd := rfl
@[simp] theorem State.failInc_freeCtr (s : State) (b : Nat) : (s.failInc b).freeCtr = s.freeCtr := rfl
@[simp] theorem State.failInc_dev (s : State) (b : Nat) : (s.failInc b).dev = s.dev := rfl
@[simp] theorem State.failInc_time (s : State) (b : Nat) : (s.failInc b).time = s.time := rfl
@[simp] theorem State.failInc_weir (s : State) (b : Nat) : (s.failInc b).weir = s.weir := rfl
@[simp] theorem State.failInc_sess (s : State) (b : Nat) : (s.failInc b).sess = s.sess := rfl
@[simp] theorem State.failInc_bw (s : State) (b : Nat) : (s.failInc b).bw = s.bw := rfl
@[simp] theorem State.failInc_fbp (s : State) (b : Nat) : (s.failInc b).fbp = s.fbp := rfl
@[simp] theorem State.failInc_fbSel (s : State) (b : Nat) : (s.failInc b).fbSel = s.fbSel := rfl
@[simp] theorem State.failInc_ax (s : State) (b : Nat) : (s.failInc b).ax = s.ax := rfl
@[simp] theorem State.failInc_mig (s : State) (b : Nat) : (s.failInc b).mig = s.mig := rfl
@[simp] theorem State.failInc_core (s : State) (b : Nat) : (s.failInc b).core = s.core := rfl
@[simp] theorem State.failInc_ecc (s : State) (b : Nat) : (s.failInc b).ecc = s.ecc := rfl
@[simp] theorem State.failInc_sdm (s : State) (b : Nat) : (s.failInc b).sdm = s.sdm := rfl
@[simp] theorem State.failInc_aux (s : State) (b : Nat) : (s.failInc b).aux = s.aux := rfl
@[simp] theorem State.failInc_pwm (s : State) (b : Nat) : (s.failInc b).pwm = s.pwm := rfl
@[simp] theorem State.failInc_tins (s : State) (b : Nat) : (s.failInc b).tins = s.tins := rfl
@[simp] theorem State.failInc_psp (s : State) (b : Nat) : (s.failInc b).psp = s.psp := rfl
@[simp] theorem State.failInc_ws (s : State) (b : Nat) : (s.failInc b).ws = s.ws := rfl
@[simp] theorem State.failInc_stp (s : State) (b : Nat) : (s.failInc b).stp = s.stp := rfl
@[simp] theorem State.failInc_grp (s : State) (b : Nat) : (s.failInc b).grp = s.grp := rfl
@[simp] theorem State.failInc_sset (s : State) (b : Nat) : (s.failInc b).sset = s.sset := rfl
@[simp] theorem State.failInc_wall (s : State) (b : Nat) : (s.failInc b).wall = s.wall := rfl
@[simp] theorem State.failInc_lat (s : State) (b : Nat) : (s.failInc b).lat = s.lat := rfl
@[simp] theorem State.failInc_hop (s : State) (b : Nat) : (s.failInc b).hop = s.hop := rfl
@[simp] theorem State.failInc_fi (s : State) (b : Nat) : (s.failInc b).fi = s.fi := rfl
@[simp] theorem State.failInc_fo (s : State) (b : Nat) : (s.failInc b).fo = s.fo := rfl
@[simp] theorem State.failInc_can (s : State) (b : Nat) : (s.failInc b).can = s.can := rfl
@[simp] theorem State.failInc_eth (s : State) (b : Nat) : (s.failInc b).eth = s.eth := rfl
@[simp] theorem State.failInc_race (s : State) (b : Nat) : (s.failInc b).race = s.race := rfl
@[simp] theorem State.failInc_red (s : State) (b : Nat) : (s.failInc b).red = s.red := rfl
@[simp] theorem State.failInc_pwr (s : State) (b : Nat) : (s.failInc b).pwr = s.pwr := rfl
@[simp] theorem State.failInc_host (s : State) (b : Nat) : (s.failInc b).host = s.host := rfl
@[simp] theorem State.failInc_spi (s : State) (b : Nat) : (s.failInc b).spi = s.spi := rfl
@[simp] theorem State.failInc_bist (s : State) (b : Nat) : (s.failInc b).bist = s.bist := rfl
@[simp] theorem State.failInc_ldw (s : State) (b : Nat) (y : Nat) : (s.failInc b).ldw y = s.ldw y := rfl
@[simp] theorem State.failInc_cr (s : State) (b : Nat) (y : Nat) : (s.failInc b).cr y = s.cr y := rfl
@[simp] theorem State.failInc_page (s : State) (b : Nat) (y : Nat) : (s.failInc b).page y = s.page y := rfl
@[simp] theorem State.failInc_selOf (s : State) (b : Nat) (y : Master) : (s.failInc b).selOf y = s.selOf y := rfl
@[simp] theorem State.failInc_up (s : State) (b : Nat)  : (s.failInc b).up = s.up := rfl
@[simp] theorem State.failInc_buffered (s : State) (b : Nat) (y : Nat) : (s.failInc b).buffered y = s.buffered y := rfl

/-! `pairErr` changes `regs` alone. -/

@[simp] theorem State.pairErr_now (s : State) (b : Nat) : (s.pairErr b).now = s.now := rfl
@[simp] theorem State.pairErr_pending (s : State) (b : Nat) : (s.pairErr b).pending = s.pending := rfl
@[simp] theorem State.pairErr_pages (s : State) (b : Nat) : (s.pairErr b).pages = s.pages := rfl
@[simp] theorem State.pairErr_mem (s : State) (b : Nat) : (s.pairErr b).mem = s.mem := rfl
@[simp] theorem State.pairErr_sels (s : State) (b : Nat) : (s.pairErr b).sels = s.sels := rfl
@[simp] theorem State.pairErr_rd (s : State) (b : Nat) : (s.pairErr b).rd = s.rd := rfl
@[simp] theorem State.pairErr_freeCtr (s : State) (b : Nat) : (s.pairErr b).freeCtr = s.freeCtr := rfl
@[simp] theorem State.pairErr_dev (s : State) (b : Nat) : (s.pairErr b).dev = s.dev := rfl
@[simp] theorem State.pairErr_time (s : State) (b : Nat) : (s.pairErr b).time = s.time := rfl
@[simp] theorem State.pairErr_weir (s : State) (b : Nat) : (s.pairErr b).weir = s.weir := rfl
@[simp] theorem State.pairErr_sess (s : State) (b : Nat) : (s.pairErr b).sess = s.sess := rfl
@[simp] theorem State.pairErr_bw (s : State) (b : Nat) : (s.pairErr b).bw = s.bw := rfl
@[simp] theorem State.pairErr_fbp (s : State) (b : Nat) : (s.pairErr b).fbp = s.fbp := rfl
@[simp] theorem State.pairErr_fbSel (s : State) (b : Nat) : (s.pairErr b).fbSel = s.fbSel := rfl
@[simp] theorem State.pairErr_ax (s : State) (b : Nat) : (s.pairErr b).ax = s.ax := rfl
@[simp] theorem State.pairErr_mig (s : State) (b : Nat) : (s.pairErr b).mig = s.mig := rfl
@[simp] theorem State.pairErr_core (s : State) (b : Nat) : (s.pairErr b).core = s.core := rfl
@[simp] theorem State.pairErr_ecc (s : State) (b : Nat) : (s.pairErr b).ecc = s.ecc := rfl
@[simp] theorem State.pairErr_sdm (s : State) (b : Nat) : (s.pairErr b).sdm = s.sdm := rfl
@[simp] theorem State.pairErr_aux (s : State) (b : Nat) : (s.pairErr b).aux = s.aux := rfl
@[simp] theorem State.pairErr_pwm (s : State) (b : Nat) : (s.pairErr b).pwm = s.pwm := rfl
@[simp] theorem State.pairErr_tins (s : State) (b : Nat) : (s.pairErr b).tins = s.tins := rfl
@[simp] theorem State.pairErr_psp (s : State) (b : Nat) : (s.pairErr b).psp = s.psp := rfl
@[simp] theorem State.pairErr_ws (s : State) (b : Nat) : (s.pairErr b).ws = s.ws := rfl
@[simp] theorem State.pairErr_stp (s : State) (b : Nat) : (s.pairErr b).stp = s.stp := rfl
@[simp] theorem State.pairErr_grp (s : State) (b : Nat) : (s.pairErr b).grp = s.grp := rfl
@[simp] theorem State.pairErr_sset (s : State) (b : Nat) : (s.pairErr b).sset = s.sset := rfl
@[simp] theorem State.pairErr_wall (s : State) (b : Nat) : (s.pairErr b).wall = s.wall := rfl
@[simp] theorem State.pairErr_lat (s : State) (b : Nat) : (s.pairErr b).lat = s.lat := rfl
@[simp] theorem State.pairErr_hop (s : State) (b : Nat) : (s.pairErr b).hop = s.hop := rfl
@[simp] theorem State.pairErr_fi (s : State) (b : Nat) : (s.pairErr b).fi = s.fi := rfl
@[simp] theorem State.pairErr_fo (s : State) (b : Nat) : (s.pairErr b).fo = s.fo := rfl
@[simp] theorem State.pairErr_can (s : State) (b : Nat) : (s.pairErr b).can = s.can := rfl
@[simp] theorem State.pairErr_eth (s : State) (b : Nat) : (s.pairErr b).eth = s.eth := rfl
@[simp] theorem State.pairErr_race (s : State) (b : Nat) : (s.pairErr b).race = s.race := rfl
@[simp] theorem State.pairErr_red (s : State) (b : Nat) : (s.pairErr b).red = s.red := rfl
@[simp] theorem State.pairErr_pwr (s : State) (b : Nat) : (s.pairErr b).pwr = s.pwr := rfl
@[simp] theorem State.pairErr_host (s : State) (b : Nat) : (s.pairErr b).host = s.host := rfl
@[simp] theorem State.pairErr_spi (s : State) (b : Nat) : (s.pairErr b).spi = s.spi := rfl
@[simp] theorem State.pairErr_bist (s : State) (b : Nat) : (s.pairErr b).bist = s.bist := rfl
@[simp] theorem State.pairErr_ldw (s : State) (b : Nat) (y : Nat) : (s.pairErr b).ldw y = s.ldw y := rfl
@[simp] theorem State.pairErr_cr (s : State) (b : Nat) (y : Nat) : (s.pairErr b).cr y = s.cr y := rfl
@[simp] theorem State.pairErr_page (s : State) (b : Nat) (y : Nat) : (s.pairErr b).page y = s.page y := rfl
@[simp] theorem State.pairErr_selOf (s : State) (b : Nat) (y : Master) : (s.pairErr b).selOf y = s.selOf y := rfl
@[simp] theorem State.pairErr_up (s : State) (b : Nat)  : (s.pairErr b).up = s.up := rfl
@[simp] theorem State.pairErr_buffered (s : State) (b : Nat) (y : Nat) : (s.pairErr b).buffered y = s.buffered y := rfl

/-! `mapErr` changes `regs` alone. -/

@[simp] theorem State.mapErr_now (s : State) (m : Master) (a bitNo : Nat) : (s.mapErr m a bitNo).now = s.now := rfl
@[simp] theorem State.mapErr_pending (s : State) (m : Master) (a bitNo : Nat) : (s.mapErr m a bitNo).pending = s.pending := rfl
@[simp] theorem State.mapErr_pages (s : State) (m : Master) (a bitNo : Nat) : (s.mapErr m a bitNo).pages = s.pages := rfl
@[simp] theorem State.mapErr_mem (s : State) (m : Master) (a bitNo : Nat) : (s.mapErr m a bitNo).mem = s.mem := rfl
@[simp] theorem State.mapErr_sels (s : State) (m : Master) (a bitNo : Nat) : (s.mapErr m a bitNo).sels = s.sels := rfl
@[simp] theorem State.mapErr_rd (s : State) (m : Master) (a bitNo : Nat) : (s.mapErr m a bitNo).rd = s.rd := rfl
@[simp] theorem State.mapErr_freeCtr (s : State) (m : Master) (a bitNo : Nat) : (s.mapErr m a bitNo).freeCtr = s.freeCtr := rfl
@[simp] theorem State.mapErr_dev (s : State) (m : Master) (a bitNo : Nat) : (s.mapErr m a bitNo).dev = s.dev := rfl
@[simp] theorem State.mapErr_time (s : State) (m : Master) (a bitNo : Nat) : (s.mapErr m a bitNo).time = s.time := rfl
@[simp] theorem State.mapErr_weir (s : State) (m : Master) (a bitNo : Nat) : (s.mapErr m a bitNo).weir = s.weir := rfl
@[simp] theorem State.mapErr_sess (s : State) (m : Master) (a bitNo : Nat) : (s.mapErr m a bitNo).sess = s.sess := rfl
@[simp] theorem State.mapErr_bw (s : State) (m : Master) (a bitNo : Nat) : (s.mapErr m a bitNo).bw = s.bw := rfl
@[simp] theorem State.mapErr_fbp (s : State) (m : Master) (a bitNo : Nat) : (s.mapErr m a bitNo).fbp = s.fbp := rfl
@[simp] theorem State.mapErr_fbSel (s : State) (m : Master) (a bitNo : Nat) : (s.mapErr m a bitNo).fbSel = s.fbSel := rfl
@[simp] theorem State.mapErr_ax (s : State) (m : Master) (a bitNo : Nat) : (s.mapErr m a bitNo).ax = s.ax := rfl
@[simp] theorem State.mapErr_mig (s : State) (m : Master) (a bitNo : Nat) : (s.mapErr m a bitNo).mig = s.mig := rfl
@[simp] theorem State.mapErr_core (s : State) (m : Master) (a bitNo : Nat) : (s.mapErr m a bitNo).core = s.core := rfl
@[simp] theorem State.mapErr_ecc (s : State) (m : Master) (a bitNo : Nat) : (s.mapErr m a bitNo).ecc = s.ecc := rfl
@[simp] theorem State.mapErr_sdm (s : State) (m : Master) (a bitNo : Nat) : (s.mapErr m a bitNo).sdm = s.sdm := rfl
@[simp] theorem State.mapErr_aux (s : State) (m : Master) (a bitNo : Nat) : (s.mapErr m a bitNo).aux = s.aux := rfl
@[simp] theorem State.mapErr_pwm (s : State) (m : Master) (a bitNo : Nat) : (s.mapErr m a bitNo).pwm = s.pwm := rfl
@[simp] theorem State.mapErr_tins (s : State) (m : Master) (a bitNo : Nat) : (s.mapErr m a bitNo).tins = s.tins := rfl
@[simp] theorem State.mapErr_psp (s : State) (m : Master) (a bitNo : Nat) : (s.mapErr m a bitNo).psp = s.psp := rfl
@[simp] theorem State.mapErr_ws (s : State) (m : Master) (a bitNo : Nat) : (s.mapErr m a bitNo).ws = s.ws := rfl
@[simp] theorem State.mapErr_stp (s : State) (m : Master) (a bitNo : Nat) : (s.mapErr m a bitNo).stp = s.stp := rfl
@[simp] theorem State.mapErr_grp (s : State) (m : Master) (a bitNo : Nat) : (s.mapErr m a bitNo).grp = s.grp := rfl
@[simp] theorem State.mapErr_sset (s : State) (m : Master) (a bitNo : Nat) : (s.mapErr m a bitNo).sset = s.sset := rfl
@[simp] theorem State.mapErr_wall (s : State) (m : Master) (a bitNo : Nat) : (s.mapErr m a bitNo).wall = s.wall := rfl
@[simp] theorem State.mapErr_lat (s : State) (m : Master) (a bitNo : Nat) : (s.mapErr m a bitNo).lat = s.lat := rfl
@[simp] theorem State.mapErr_hop (s : State) (m : Master) (a bitNo : Nat) : (s.mapErr m a bitNo).hop = s.hop := rfl
@[simp] theorem State.mapErr_fi (s : State) (m : Master) (a bitNo : Nat) : (s.mapErr m a bitNo).fi = s.fi := rfl
@[simp] theorem State.mapErr_fo (s : State) (m : Master) (a bitNo : Nat) : (s.mapErr m a bitNo).fo = s.fo := rfl
@[simp] theorem State.mapErr_can (s : State) (m : Master) (a bitNo : Nat) : (s.mapErr m a bitNo).can = s.can := rfl
@[simp] theorem State.mapErr_eth (s : State) (m : Master) (a bitNo : Nat) : (s.mapErr m a bitNo).eth = s.eth := rfl
@[simp] theorem State.mapErr_race (s : State) (m : Master) (a bitNo : Nat) : (s.mapErr m a bitNo).race = s.race := rfl
@[simp] theorem State.mapErr_red (s : State) (m : Master) (a bitNo : Nat) : (s.mapErr m a bitNo).red = s.red := rfl
@[simp] theorem State.mapErr_pwr (s : State) (m : Master) (a bitNo : Nat) : (s.mapErr m a bitNo).pwr = s.pwr := rfl
@[simp] theorem State.mapErr_host (s : State) (m : Master) (a bitNo : Nat) : (s.mapErr m a bitNo).host = s.host := rfl
@[simp] theorem State.mapErr_spi (s : State) (m : Master) (a bitNo : Nat) : (s.mapErr m a bitNo).spi = s.spi := rfl
@[simp] theorem State.mapErr_bist (s : State) (m : Master) (a bitNo : Nat) : (s.mapErr m a bitNo).bist = s.bist := rfl
@[simp] theorem State.mapErr_ldw (s : State) (m : Master) (a bitNo : Nat) (y : Nat) : (s.mapErr m a bitNo).ldw y = s.ldw y := rfl
@[simp] theorem State.mapErr_cr (s : State) (m : Master) (a bitNo : Nat) (y : Nat) : (s.mapErr m a bitNo).cr y = s.cr y := rfl
@[simp] theorem State.mapErr_page (s : State) (m : Master) (a bitNo : Nat) (y : Nat) : (s.mapErr m a bitNo).page y = s.page y := rfl
@[simp] theorem State.mapErr_selOf (s : State) (m : Master) (a bitNo : Nat) (y : Master) : (s.mapErr m a bitNo).selOf y = s.selOf y := rfl
@[simp] theorem State.mapErr_up (s : State) (m : Master) (a bitNo : Nat)  : (s.mapErr m a bitNo).up = s.up := rfl
@[simp] theorem State.mapErr_buffered (s : State) (m : Master) (a bitNo : Nat) (y : Nat) : (s.mapErr m a bitNo).buffered y = s.buffered y := rfl

/-! `report` changes `bw` alone. -/

@[simp] theorem State.report_now (s : State) (code unit axes : Nat) (dev : Bool) (level : Nat) : (s.report code unit axes dev level).now = s.now := rfl
@[simp] theorem State.report_pending (s : State) (code unit axes : Nat) (dev : Bool) (level : Nat) : (s.report code unit axes dev level).pending = s.pending := rfl
@[simp] theorem State.report_regs (s : State) (code unit axes : Nat) (dev : Bool) (level : Nat) : (s.report code unit axes dev level).regs = s.regs := rfl
@[simp] theorem State.report_pages (s : State) (code unit axes : Nat) (dev : Bool) (level : Nat) : (s.report code unit axes dev level).pages = s.pages := rfl
@[simp] theorem State.report_mem (s : State) (code unit axes : Nat) (dev : Bool) (level : Nat) : (s.report code unit axes dev level).mem = s.mem := rfl
@[simp] theorem State.report_sels (s : State) (code unit axes : Nat) (dev : Bool) (level : Nat) : (s.report code unit axes dev level).sels = s.sels := rfl
@[simp] theorem State.report_rd (s : State) (code unit axes : Nat) (dev : Bool) (level : Nat) : (s.report code unit axes dev level).rd = s.rd := rfl
@[simp] theorem State.report_freeCtr (s : State) (code unit axes : Nat) (dev : Bool) (level : Nat) : (s.report code unit axes dev level).freeCtr = s.freeCtr := rfl
@[simp] theorem State.report_dev (s : State) (code unit axes : Nat) (dev : Bool) (level : Nat) : (s.report code unit axes dev level).dev = s.dev := rfl
@[simp] theorem State.report_time (s : State) (code unit axes : Nat) (dev : Bool) (level : Nat) : (s.report code unit axes dev level).time = s.time := rfl
@[simp] theorem State.report_weir (s : State) (code unit axes : Nat) (dev : Bool) (level : Nat) : (s.report code unit axes dev level).weir = s.weir := rfl
@[simp] theorem State.report_sess (s : State) (code unit axes : Nat) (dev : Bool) (level : Nat) : (s.report code unit axes dev level).sess = s.sess := rfl
@[simp] theorem State.report_fbp (s : State) (code unit axes : Nat) (dev : Bool) (level : Nat) : (s.report code unit axes dev level).fbp = s.fbp := rfl
@[simp] theorem State.report_fbSel (s : State) (code unit axes : Nat) (dev : Bool) (level : Nat) : (s.report code unit axes dev level).fbSel = s.fbSel := rfl
@[simp] theorem State.report_ax (s : State) (code unit axes : Nat) (dev : Bool) (level : Nat) : (s.report code unit axes dev level).ax = s.ax := rfl
@[simp] theorem State.report_mig (s : State) (code unit axes : Nat) (dev : Bool) (level : Nat) : (s.report code unit axes dev level).mig = s.mig := rfl
@[simp] theorem State.report_core (s : State) (code unit axes : Nat) (dev : Bool) (level : Nat) : (s.report code unit axes dev level).core = s.core := rfl
@[simp] theorem State.report_ecc (s : State) (code unit axes : Nat) (dev : Bool) (level : Nat) : (s.report code unit axes dev level).ecc = s.ecc := rfl
@[simp] theorem State.report_sdm (s : State) (code unit axes : Nat) (dev : Bool) (level : Nat) : (s.report code unit axes dev level).sdm = s.sdm := rfl
@[simp] theorem State.report_aux (s : State) (code unit axes : Nat) (dev : Bool) (level : Nat) : (s.report code unit axes dev level).aux = s.aux := rfl
@[simp] theorem State.report_pwm (s : State) (code unit axes : Nat) (dev : Bool) (level : Nat) : (s.report code unit axes dev level).pwm = s.pwm := rfl
@[simp] theorem State.report_tins (s : State) (code unit axes : Nat) (dev : Bool) (level : Nat) : (s.report code unit axes dev level).tins = s.tins := rfl
@[simp] theorem State.report_psp (s : State) (code unit axes : Nat) (dev : Bool) (level : Nat) : (s.report code unit axes dev level).psp = s.psp := rfl
@[simp] theorem State.report_ws (s : State) (code unit axes : Nat) (dev : Bool) (level : Nat) : (s.report code unit axes dev level).ws = s.ws := rfl
@[simp] theorem State.report_stp (s : State) (code unit axes : Nat) (dev : Bool) (level : Nat) : (s.report code unit axes dev level).stp = s.stp := rfl
@[simp] theorem State.report_grp (s : State) (code unit axes : Nat) (dev : Bool) (level : Nat) : (s.report code unit axes dev level).grp = s.grp := rfl
@[simp] theorem State.report_sset (s : State) (code unit axes : Nat) (dev : Bool) (level : Nat) : (s.report code unit axes dev level).sset = s.sset := rfl
@[simp] theorem State.report_wall (s : State) (code unit axes : Nat) (dev : Bool) (level : Nat) : (s.report code unit axes dev level).wall = s.wall := rfl
@[simp] theorem State.report_lat (s : State) (code unit axes : Nat) (dev : Bool) (level : Nat) : (s.report code unit axes dev level).lat = s.lat := rfl
@[simp] theorem State.report_hop (s : State) (code unit axes : Nat) (dev : Bool) (level : Nat) : (s.report code unit axes dev level).hop = s.hop := rfl
@[simp] theorem State.report_fi (s : State) (code unit axes : Nat) (dev : Bool) (level : Nat) : (s.report code unit axes dev level).fi = s.fi := rfl
@[simp] theorem State.report_fo (s : State) (code unit axes : Nat) (dev : Bool) (level : Nat) : (s.report code unit axes dev level).fo = s.fo := rfl
@[simp] theorem State.report_can (s : State) (code unit axes : Nat) (dev : Bool) (level : Nat) : (s.report code unit axes dev level).can = s.can := rfl
@[simp] theorem State.report_eth (s : State) (code unit axes : Nat) (dev : Bool) (level : Nat) : (s.report code unit axes dev level).eth = s.eth := rfl
@[simp] theorem State.report_race (s : State) (code unit axes : Nat) (dev : Bool) (level : Nat) : (s.report code unit axes dev level).race = s.race := rfl
@[simp] theorem State.report_red (s : State) (code unit axes : Nat) (dev : Bool) (level : Nat) : (s.report code unit axes dev level).red = s.red := rfl
@[simp] theorem State.report_pwr (s : State) (code unit axes : Nat) (dev : Bool) (level : Nat) : (s.report code unit axes dev level).pwr = s.pwr := rfl
@[simp] theorem State.report_host (s : State) (code unit axes : Nat) (dev : Bool) (level : Nat) : (s.report code unit axes dev level).host = s.host := rfl
@[simp] theorem State.report_spi (s : State) (code unit axes : Nat) (dev : Bool) (level : Nat) : (s.report code unit axes dev level).spi = s.spi := rfl
@[simp] theorem State.report_bist (s : State) (code unit axes : Nat) (dev : Bool) (level : Nat) : (s.report code unit axes dev level).bist = s.bist := rfl
@[simp] theorem State.report_rg (s : State) (code unit axes : Nat) (dev : Bool) (level : Nat) (y : Nat) : (s.report code unit axes dev level).rg y = s.rg y := rfl
@[simp] theorem State.report_ldw (s : State) (code unit axes : Nat) (dev : Bool) (level : Nat) (y : Nat) : (s.report code unit axes dev level).ldw y = s.ldw y := rfl
@[simp] theorem State.report_cr (s : State) (code unit axes : Nat) (dev : Bool) (level : Nat) (y : Nat) : (s.report code unit axes dev level).cr y = s.cr y := rfl
@[simp] theorem State.report_page (s : State) (code unit axes : Nat) (dev : Bool) (level : Nat) (y : Nat) : (s.report code unit axes dev level).page y = s.page y := rfl
@[simp] theorem State.report_selOf (s : State) (code unit axes : Nat) (dev : Bool) (level : Nat) (y : Master) : (s.report code unit axes dev level).selOf y = s.selOf y := rfl
@[simp] theorem State.report_up (s : State) (code unit axes : Nat) (dev : Bool) (level : Nat)  : (s.report code unit axes dev level).up = s.up := rfl
@[simp] theorem State.report_buffered (s : State) (code unit axes : Nat) (dev : Bool) (level : Nat) (y : Nat) : (s.report code unit axes dev level).buffered y = s.buffered y := rfl

/-! What the record holds that an update has changed. -/

@[simp] theorem State.setRg_regs (s : State) (a : Nat) (v : Word) : (s.setRg a v).regs = tset (resetWord a) s.regs a v := rfl
@[simp] theorem State.setPage_pages (s : State) (b : Nat) (f : PageSt → PageSt) : (s.setPage b f).pages = tset {} s.pages b (f (s.page b)) := rfl
@[simp] theorem State.setSel_sels (s : State) (m : Master) (f : Selectors → Selectors) : (s.setSel m f).sels = tset {} s.sels m.code (f (s.selOf m)) := rfl
@[simp] theorem State.stw_mem (s : State) (a : Nat) (w : Word) : (s.stw a w).mem = Memory.writeN s.mem a w.toNat 4 := rfl
@[simp] theorem State.setCr_core (s : State) (c : Nat) (f : CoreSt → CoreSt) : (s.setCr c f).core = vupd s.core c f := rfl
@[simp] theorem State.report_inbox (s : State) (code unit axes : Nat) (dev : Bool) (level : Nat) :
    (s.report code unit axes dev level).bw.inbox = s.bw.inbox ++ [⟨code, unit, axes, dev, level, true, false⟩] := rfl

/-! The elements of a bank. -/

/-- The element just changed. -/
theorem vget_vupd_same {α} {n : Nat} [Inhabited α] (v : Vector α n) (i : Nat) (f : α → α) (h : i < n) : vget (vupd v i f) i = f (vget v i) := by
  unfold vget vupd; simp [h]
/-- Another element. -/
theorem vget_vupd_other {α} {n : Nat} [Inhabited α] (v : Vector α n) (i j : Nat) (f : α → α) (h : j ≠ i) : vget (vupd v i f) j = vget v j := by
  unfold vget vupd
  by_cases hj : j < n <;> by_cases hi : i < n <;> simp [hj, hi]
  rw [Vector.getElem_set]; simp [Ne.symm h]
/-- The core just changed. -/
theorem State.cr_setCr_same (s : State) (c : Nat) (f : CoreSt → CoreSt) (h : c < 33) : (s.setCr c f).cr c = f (s.cr c) :=
  vget_vupd_same _ _ _ h
/-- Another core. -/
theorem State.cr_setCr_other (s : State) (c d : Nat) (f : CoreSt → CoreSt) (h : d ≠ c) : (s.setCr c f).cr d = s.cr d :=
  vget_vupd_other _ _ _ _ h
/-- The hidden state of a page just changed. -/
theorem State.page_setPage_same {s : State} {pg : Nat} {f : PageSt → PageSt} (h : s.Canonical) :
    (s.setPage pg f).page pg = f (s.page pg) := tget_tset_same _ _ _ _ ((twf_iff _ _).1 h.pages).1
/-- The hidden state of another page. -/
theorem State.page_setPage_other {s : State} {pg q : Nat} {f : PageSt → PageSt} (h : s.Canonical) (hq : q ≠ pg) :
    (s.setPage pg f).page q = s.page q := tget_tset_other _ _ _ _ _ _ hq ((twf_iff _ _).1 h.pages).1
/-- The word just stored. -/
theorem State.bytes_stw {s : State} (h : s.Canonical) (a : Nat) (w : Word) :
    Memory.read (s.stw a w).mem a = BitVec.ofNat 8 w.toNat ∧ Memory.read (s.stw a w).mem (a + 1) = BitVec.ofNat 8 (w.toNat / 256) ∧
    Memory.read (s.stw a w).mem (a + 1 + 1) = BitVec.ofNat 8 (w.toNat / 256 / 256) ∧
    Memory.read (s.stw a w).mem (a + 1 + 1 + 1) = BitVec.ofNat 8 (w.toNat / 256 / 256 / 256) := by
  have hm := h.mem
  have w1 := Memory.wf_write s.mem a (BitVec.ofNat 8 w.toNat) hm
  have w2 := Memory.wf_write _ (a + 1) (BitVec.ofNat 8 (w.toNat / 256)) w1
  have w3 := Memory.wf_write _ (a + 1 + 1) (BitVec.ofNat 8 (w.toNat / 256 / 256)) w2
  simp only [State.stw, Memory.writeN]
  refine ⟨?_, ?_, ?_, Memory.read_write_same _ _ _ w3⟩
  · rw [Memory.read_write_other _ _ a _ (by omega) w3, Memory.read_write_other _ _ a _ (by omega) w2,
      Memory.read_write_other _ _ a _ (by omega) w1, Memory.read_write_same _ _ _ hm]
  · rw [Memory.read_write_other _ _ (a + 1) _ (by omega) w3, Memory.read_write_other _ _ (a + 1) _ (by omega) w2,
      Memory.read_write_same _ _ _ w1]
  · rw [Memory.read_write_other _ _ (a + 1 + 1) _ (by omega) w3, Memory.read_write_same _ _ _ w2]
/-- Nothing waits for the end of a clock edge or for the passing of time. -/
def State.settled (s : State) : Bool :=
  s.can.toList.all (fun c => c.late.isNone) && s.host.late.isNone && s.host.abortDue.isEmpty &&
    (List.range 4).all (fun n => (s.port n).injAt.isNone) && s.bw.injAt.isNone && decide (s.host.due % 2 ^ 12 = 0)
/-- Time changes nothing in a settled state by itself. -/
theorem State.lapse_settled {s : State} (t : Time) (h : s.settled = true) : s.lapse t = s := by
  simp only [State.settled, Bool.and_eq_true, decide_eq_true_eq, Option.isNone_iff_eq_none, List.isEmpty_iff] at h
  obtain ⟨⟨⟨⟨⟨h1, h2⟩, h3⟩, h4⟩, h5⟩, h6⟩ := h
  have hc : s.canSettle t = s := by unfold State.canSettle; rw [if_pos h1]
  have hh : s.hostSettle t = s := by unfold State.hostSettle; simp [h2, h3]
  have he (n : Nat) (hn : n < 4) : s.ethLapse n t = s := by
    have := List.all_eq_true.mp h4 n (List.mem_range.mpr hn)
    unfold State.ethLapse
    rw [Option.isNone_iff_eq_none.mp this]
  have hb : s.brakeLapse t = s := by unfold State.brakeLapse; simp [h5]
  have hl : s.coalLapse t = s := by unfold State.coalLapse; rw [if_pos (.inl h6)]
  unfold State.lapse
  rw [hc, hh]
  simp only [List.range, List.range.loop, List.foldl_cons, List.foldl_nil, he 0 (by omega), he 1 (by omega), he 2 (by omega),
    he 3 (by omega), hb, hl]
/-- A state that nothing falls due in is its own tick (no interrupt vector changes and the Hopper is off). -/
theorem State.tick_of {s : State} {t : Time}
    (h : (decide (s.vecMask = s.host.vecs) && s.settled && !s.hopEn && decide (s.now = t)) = true) : s.tick t = s := by
  simp only [Bool.and_eq_true, decide_eq_true_eq, Bool.not_eq_true'] at h
  have : max t t = s.now := by rw [h.2]; exact Nat.max_self t
  unfold State.tick State.vecEval State.hopSettle
  simp only [h.1.1.1, h.2, if_true, State.lapse_settled _ h.1.1.2, h.1.2, Bool.not_false]
  rw [this]

end Sys2Proof.Machine
end

