-- ==== Sys2Proof/Tests/Slice0.lean ====
section
/-! SUPPORT. The model's own tests: well-formedness, words and examples of the spec, and for every statement with hypotheses
concrete states and operands that meet them, clause by clause. -/

namespace Sys2Proof

open Machine

set_option Elab.async false
set_option linter.unusedVariables false

/-! ### Well-formed commands -/

/-- An instant beyond the range of the GTC is refused. -/
theorem test_wf_time : WellFormed (.lockTimeout (2 ^ 64) 0) = false ∧ WellFormed (.lockTimeout (2 ^ 64 - 1) 0) = true := by decide
/-- A nibble of five bits is refused. -/
theorem test_wf_nibbles : WellFormed (.sentFrame 0 0 0 0 0 [3, 16] 0) = false ∧ WellFormed (.sentFrame 0 0 0 0 0 [3, 15] 0) = true := by decide
/-- A CAN frame of 65 data bytes is refused. -/
theorem test_wf_can : WellFormed (.canRx 0 0 ⟨0, 15, false, false, List.replicate 65 0⟩ 0 0 .accept) = false ∧
    WellFormed (.canRx 0 0 ⟨0, 15, false, false, List.replicate 64 0⟩ 0 0 .accept) = true := by decide +kernel
/-- A portion of a copy longer than LEN is refused: the check counts its bytes. -/
theorem test_wf_copy (l : List Word) (h : l.length = 2 ^ 22) : copyOk (.copyIn 0 0 l true) = false := by simp [copyOk, h]

/-! ### Examples of the spec -/

/-- The words of the table of example encodings. -/
theorem test_words : opOf 0x04C84000 = some .add ∧ opOf 0x40841000 = some .ld ∧ opOf 0x49008000 = some .sta ∧
    opOf 0x8136B488 = some .mpyd ∧ opOf 0x84940000 = some .ftap ∧ opOf 0xD0000003 = some .rpt ∧ opOf 0xD400FC04 = some .brpt ∧
    opOf 0x6C500000 = some .waitt ∧ opOf 0xC8000000 = some .nop := by decide
/-- The fields of `LD X2, X:*P0+=M1`. -/
theorem test_ld_fields : wfld 0x40841000 25 22 = 2 ∧ spOf 0x40841000 = 1 ∧ wfld 0x40841000 20 18 = 1 ∧ wfld 0x40841000 17 15 = 0 ∧
    wfld 0x40841000 14 12 = 1 := by decide
/-- The identity of SL07 and the last page of the axes (after R32). -/
theorem test_pg_id : State.reset.rg 0x607000 = 0x06070201 ∧ R.AXIS.base 63 = 0xB3F000 := by decide
/-- The bit-reversed sequence of an FFT of 8 points (after R196). -/
theorem test_bit_reversed : revAdd 0x100 4 = 0x104 ∧ revAdd 0x104 4 = 0x102 ∧ revAdd 0x102 4 = 0x106 ∧ revAdd 0x107 4 = 0x100 := by decide
/-- MW1 with WIN0 = 6 reaches 0x61C100 at X address 0x87040 (after R192). -/
theorem test_window : (State.reset.setCr 29 (fun k => { k with win0 := 6 })).mapData 29 1 0x87040 = some (.window 0x61C100) := by decide +kernel
/-- `SATX` of 0.75 and a tail with the limits −0.5 and 0.5 (after R239). -/
theorem test_satx : satx 0x6000000012345678 (-0x4000000000000000) 0x4000000000000000 = (some 0x4000000000000000, 0x2000000012345678) := by decide
/-- A circular pointer stays in its buffer and wraps both ways (R195). -/
theorem test_circular : (({ (default : CoreSt) with b := Vector.replicate 4 0x100, l := Vector.replicate 4 10 }).circ 0 0x10A = 0x100) ∧
    ({ (default : CoreSt) with b := Vector.replicate 4 0x100, l := Vector.replicate 4 10 }).circ 0 0xFF = 0x109 := by decide

/-! ### Steps -/

/-- The front of the queue runs, and the rest waits. -/
theorem test_fifo : (match step { State.reset with pending := [.lockTimeout 0 0, .errToggle 0] } with
    | .next s => decide (s.pending = [.errToggle 0]) | _ => false) = true := by decide +kernel
/-- The host's high-word read after another master's low-word read returns the live word and sets PAIR_ERR (after R50). -/
theorem test_pair_err : (match exec (.pairHighRead 0 .host (BitVec.ofNat 26 (R.FIELD.FI_STAMP 31 + 4)))
      (((State.reset.setRg64 (R.FIELD.FI_STAMP 31) 0x200000010).setPage R.FIELD.base
        (fun p => { p with rdHold := some (.mw1, R.FIELD.FI_STAMP 31 - R.FIELD.base, 1) }))) with
    | .next s => s.rd == 2 && s.bit (R.PG_STAT R.FIELD.base) 3 | _ => false) = true := by decide +kernel
/-- ADD X3, X2, X1 of 5 and 7 on a core with nothing pending. -/
theorem test_add : (match exec (.opAdd 0 1) ((((State.reset.stw (spaceAddr 1 0 0) 0x04C84000).setCoreState 1 1)).setCr 1
      (fun k => { k with x := vupd (vupd k.x 2 (fun _ => 5)) 1 (fun _ => 7) })) with
    | .next s => vget (s.cr 1).x 3 == 12 && (s.cr 1).pc == 1 | _ => false) = true := by decide +kernel

/-- Field input 31 at an instant, with a sampling period of 1 ms. -/
def fiWit (t : Time) : State := ({ State.reset with now := t }).setRg (R.FIELD.FI_CFG 31) 0x3e800
/-- When an input is sampled, in terms of its period and its phase (R381). -/
theorem fiSampled_of {s : State} {i : Nat} {e p d : Nat} (hp : s.fiSper i = p) (hd : (s.fin i).since = d) :
    s.fiSampled i e = (decide (p < us 3) || (decide ((us 1 : Nat) ≤ ((e : Int) - (Config.fiPhase i d : Nat)) % (p : Int)) &&
      decide (((e : Int) - (Config.fiPhase i d : Nat)) % (p : Int) ≤ (us 2 : Nat)))) := by
  subst hp hd; rfl
/-- The hypotheses about a held level are met, whatever the phase of the sampling windows (R381). -/
theorem wit_held_input : ∃ (s : State) (u : State) (t : Time) (seen : Time) (i : Fin 32) (_ : Bool), s.tick t = u ∧ u.fiSampled i (u.fiEdge seen) = false := by
  have e1 : (fiWit 16000000).fiEdge 0 = 15997920 := by decide +kernel
  have e2 : (fiWit 16160000).fiEdge 0 = 16157920 := by decide +kernel
  have h1 := fiSampled_of (s := fiWit 16000000) (i := 31) (e := 15997920) (p := 16000000) (d := 0) (by decide +kernel) (by decide +kernel)
  have h2 := fiSampled_of (s := fiWit 16160000) (i := 31) (e := 16157920) (p := 16000000) (d := 0) (by decide +kernel) (by decide +kernel)
  have u1 : us 1 = 16000 := rfl
  have u2 : us 2 = 32000 := rfl
  have u3 : us 3 = 48000 := rfl
  by_cases a : (fiWit 16000000).fiSampled 31 15997920 = false
  · exact ⟨fiWit 16000000, _, 16000000, 0, 31, true, State.tick_of (by decide +kernel), by rw [e1]; exact a⟩
  · refine ⟨fiWit 16160000, _, 16160000, 0, 31, true, State.tick_of (by decide +kernel), ?_⟩
    rw [e2]
    show (fiWit 16160000).fiSampled 31 16157920 = false
    rw [h1, u1, u2, u3] at a; rw [h2, u1, u2, u3]
    simp only [Bool.or_eq_false_iff, Bool.and_eq_false_iff, decide_eq_false_iff_not] at a ⊢
    omega
/-- The example `abc` of FIPS 180-4 (R480). -/
theorem test_sha256 : sha256 [97, 98, 99] = (List.range 32).map
    (shaByte 32 0xba7816bf8f01cfea414140de5dae2223b00361a396177a9cb410ff61f20015ad) := by decide +kernel
/-- The second test case of RFC 4231 (R480). -/
theorem test_hmac : hmacSha [74, 101, 102, 101] [119, 104, 97, 116, 32, 100, 111, 32, 121, 97, 32, 119, 97, 110, 116, 32, 102, 111,
    114, 32, 110, 111, 116, 104, 105, 110, 103, 63] = (List.range 32).map (shaByte 32 0x5bdcc146bf60754e6a042426089575c75a003f089d2739839dec58b964ec3843) := by decide +kernel
/-- The check value of the CRC-32 of IEEE 802.3, of the digits 1 to 9 (R423). -/
theorem test_crc32 : crc32 [49, 50, 51, 52, 53, 54, 55, 56, 57] = 0xcbf43926 := by decide +kernel

/-! ### The hypotheses of the statements are met -/

theorem Machine.canonical_of {s : State} (h : (Memory.wf s.mem && twf resetWord s.regs && twf (fun _ => ({} : PageSt)) s.pages && twf (fun _ => ({} : Selectors)) s.sels) = true) : s.Canonical := by
  simp only [Bool.and_eq_true] at h
  exact ⟨h.1.1.1, h.1.1.2, h.1.2, h.2⟩
theorem Machine.writable_of {s : State} {pg : Nat} (h : (s.up && !s.busy pg && decide ((s.page pg).keySeq = none)) = true) : s.Writable pg := by
  simp only [Bool.and_eq_true, Bool.not_eq_true', decide_eq_true_eq] at h
  exact ⟨h.1.1, h.1.2, h.2⟩
theorem Machine.isReg_of {a : Nat} (h : (decide (a < 0x2000000) && mapped a 4) = true) : IsReg a := by
  simp only [Bool.and_eq_true, decide_eq_true_eq] at h
  exact ⟨h.1, h.2⟩
theorem Machine.issues_of {s : State} {c : Nat} {o : Op} {w0 w1 : Word} {d : Bool}
    (h : ((s.landDue c).canIssue c d && decide (s.wordsAt c = some (w0, w1)) && decide (opOf w0 = some o) &&
      !(s.atIssue c).bit (R.PG_ERRINJ (corePage c)) 16 && Machine.legal c o w0 w1 &&
      (decide (c ≠ 32) || decide (o ≠ .bkpt) || (s.atIssue c).sess.proof) && !(s.atIssue c).misplaced c o) = true) : s.Issues c o w0 w1 d := by
  simp only [Bool.and_eq_true, Bool.or_eq_true, Bool.not_eq_true', decide_eq_true_eq] at h
  exact ⟨h.1.1.1.1.1.1, h.1.1.1.1.1.2, h.1.1.1.1.2, fun _ => h.1.1.1.2, h.1.1.2, fun e e' => h.1.2.resolve_left (fun n => n.elim (fun n => n e) (fun n => n e')), h.2⟩
theorem Machine.next_of {o : Host.Outcome State Fault Refusal} {r : State}
    (h : (match o with | .next t => decide (t = r) | _ => false) = true) : o = .next r := by
  cases o <;> simp_all
/-- A core that runs with two words at its PC. -/
def isa (c : Nat) (w0 w1 : Word) : State := ((State.reset.stw (spaceAddr c 0 0) w0).stw (spaceAddr c 0 1) w1).setCoreState c 1
/-- A field output of axis 0 that nothing holds off, with a duty in force and a period of 1 ms. -/
def foWit (d : Word) : State := (((({ State.reset with dev := { State.reset.dev with st := .run } }).setRg (R.FIELD.FO_CTRL 31) 3).setRg (R.FIELD.FO_PER 31) 1000).putBit (R.PG_CTRL R.FIELD.base) 0 true).setRg (R.FIELD.FO_DUTY 31) d
/-- CAN controller 15 enabled in a mode, requested CONFIG. -/
def canWit (md : Nat) : State := (State.reset.putBit (R.PG_CTRL (R.CAN.base 15)) 0 true).putFld (R.CAN.STAT 15) 3 2 md
/-- An Ethernet port that is enabled, its link down. -/
def ethWit (n : Nat) : State := (State.reset.putBit (R.PG_CTRL (R.ETH.base n)) 0 true).putBit (R.ETH.CTRL n) 0 true
/-- Both domains tracked, the second one lost for 100 s. -/
def lossWit : State := ((({ State.reset with now := sec 100 }).putBit (R.PTP.FT_STAT 0) 0 true).putBit (R.PTP.FT_STAT 1) 0 true).setRace 1 (fun x => { x with lastSync := some 0 })
/-- A pair that runs and misses a safety tick at 1 s. -/
def tickWit : State := ({ State.reset with now := sec 1 }).setCoreState 32 1
/-- The PWR page unlocked by the host. -/
def rtcWit : State := State.reset.setRg (R.PG_LOCK R.PWR.base) 1
/-- A session of the host. -/
def pspWit : State := { State.reset with sess := { State.reset.sess with state := .opened, owner := .host } }

theorem test_witness_stepRunsFrontCommand :
    ∃ (s : State), s.pending = [] :=
  ⟨State.reset, by decide +kernel⟩

theorem test_witness_queueFirstInFirstOut :
    ∃ (s : State) (r : State), step s = .next r :=
  ⟨{ State.reset with pending := [.lockTimeout 0 0] }, State.reset, next_of (by decide +kernel)⟩

theorem test_witness_stepKeepsCanonicalForm :
    ∃ (s : State) (r : State), s.Canonical ∧ step s = .next r :=
  ⟨{ State.reset with pending := [.lockTimeout 0 0] }, State.reset, canonical_of (by decide +kernel), next_of (by decide +kernel)⟩

theorem test_witness_registersHold :
    (∃ (s : State) (a : Nat) (b : Nat) (w : Word), s.Canonical) ∧
    (∃ (s : State) (a : Nat) (hi : Nat) (lo : Nat) (v : Nat) (i : Nat), s.Canonical ∧ lo ≤ hi ∧ hi < 32) ∧
    (∃ (s : State) (a : Nat) (v : Nat) (b : Nat), s.Canonical ∧ v < 2 ^ 64) ∧
    (∃ (s : State) (a : Nat) (hi : Nat) (lo : Nat) (n : Nat), s.Canonical ∧ lo ≤ hi ∧ hi < 32) :=
  ⟨⟨State.reset, 0, 0, 0, canonical_of (by decide +kernel)⟩,
   ⟨State.reset, 0x40, 7, 4, 3, 4, canonical_of (by decide +kernel), by decide +kernel⟩,
   ⟨State.reset, 0, 0, 0, canonical_of (by decide +kernel), by decide +kernel⟩,
   ⟨State.reset, 0x40, 7, 4, 3, canonical_of (by decide +kernel), by decide +kernel⟩⟩

theorem test_witness_memoryHolds :
    (∃ (s : State) (a : Nat) (x : Nat) (w : Word), s.Canonical) ∧
    (∃ (s : State) (a : Nat) (i : Nat) (w : Word), s.Canonical ∧ i < 4) :=
  ⟨⟨State.reset, 0, 0, 0, canonical_of (by decide +kernel)⟩,
   ⟨State.reset, 0x2800000, 3, 0, canonical_of (by decide +kernel), by decide +kernel⟩⟩

theorem test_witness_plainWriteFrame :
    ∃ (s : State) (u : State) (r' : State) (t : Time) (m : Master) (a : BitVec 26) (be : BitVec 8) (v : DWord) (r : RegRow) (i : Nat), s.tick t = u ∧ u.Canonical ∧ u.Writable (pageOf a.toNat) ∧ IsReg a.toNat ∧ 0x40 ≤ offOf a.toNat ∧ be.toNat % 16 = 15 ∧ findReg (bankOf (u.selOf m) a.toNat) = some (r, false) ∧ r.wide = false ∧ r.rws = 0 ∧ r.rwl = 0 ∧ r.clamp = [] ∧ u.pageHook m a.toNat (v.toNat % 2 ^ 32) = none ∧ i < 32 ∧ exec (.registerWrite t m a .b32 be v) s = .next r' :=
  ⟨State.reset, State.reset, (State.reset.setRg (R.ETH.LAT_IN 3) 7), 0, .host, (BitVec.ofNat 26 (R.ETH.LAT_IN 3)), 15, 7, ((findReg (R.ETH.LAT_IN 3)).elim default (·.1)), 0, State.tick_of (by decide +kernel), canonical_of (by decide +kernel), writable_of (by decide +kernel), isReg_of (by decide +kernel), by decide +kernel, by decide +kernel, by decide +kernel, by decide +kernel, by decide +kernel, by decide +kernel, by decide +kernel, by decide +kernel, by decide +kernel, next_of (by decide +kernel)⟩

theorem test_witness_accessWidths :
    (∃ (s : State) (u : State) (t : Time) (m : Master) (a : BitVec 26) (w : Width) (be : BitVec 8) (v : DWord), s.tick t = u ∧ u.up = true ∧ mapped a.toNat w.bytes = true ∧ a.toNat < 0x2000000 ∧ ((w.bytes < 4 ∨ be.toNat % 2 ^ w.bytes ≠ 2 ^ w.bytes - 1))) ∧
    (∃ (s : State) (u : State) (t : Time) (m : Master) (a : BitVec 26) (w : Width) (be : BitVec 8) (v : DWord), s.tick t = u ∧ u.up = true ∧ a.toNat % w.bytes ≠ 0) ∧
    (∃ (s : State) (u : State) (t : Time) (m : Master) (a : BitVec 26) (be : BitVec 8) (v : DWord) (r : RegRow), s.tick t = u ∧ u.Writable (pageOf a.toNat) ∧ mapped a.toNat 8 = true ∧ a.toNat < 0x2000000 ∧ be.toNat = 255 ∧ findReg (bankOf (u.selOf m) a.toNat) = some (r, false) ∧ r.wide = true) ∧
    (∃ (s : State) (u : State) (t : Time) (m : Master) (a : BitVec 26) (be : BitVec 8) (v : DWord) (r : RegRow), s.tick t = u ∧ u.up = true ∧ mapped a.toNat 8 = true ∧ a.toNat < 0x2000000 ∧ be.toNat = 255 ∧ findReg (bankOf (u.selOf m) a.toNat) = some (r, false) ∧ r.wide = false) :=
  ⟨⟨State.reset, State.reset, 0, .host, (BitVec.ofNat 26 (R.FIELD.FI_DEB 31)), .b16, 3, 0, State.tick_of (by decide +kernel), by decide +kernel⟩,
   ⟨State.reset, State.reset, 0, .host, 0x100041, .b64, 0, 0, State.tick_of (by decide +kernel), by decide +kernel⟩,
   ⟨State.reset, State.reset, 0, .host, (BitVec.ofNat 26 (R.PTP.FDB_STATIC 1 3)), 255, 3, ((findReg (R.PTP.FDB_STATIC 1 3)).elim default (·.1)), State.tick_of (by decide +kernel), writable_of (by decide +kernel), by decide +kernel⟩,
   ⟨State.reset, State.reset, 0, .host, (BitVec.ofNat 26 (R.ETH.LAT_IN 3)), 255, 3, ((findReg (R.ETH.LAT_IN 3)).elim default (·.1)), State.tick_of (by decide +kernel), by decide +kernel⟩⟩

theorem test_witness_pagesClosed :
    (∃ (s : State) (u : State) (t : Time) (m : Master) (a : BitVec 26) (w : Width) (be : BitVec 8) (v : DWord), s.tick t = u ∧ u.up = false) ∧
    (∃ (s : State) (n : Nat) (i : Nat), s.up = false) ∧
    (∃ (s : State) (n : Nat) (i : Nat), s.up = true) :=
  ⟨⟨{ State.reset with dev := { State.reset.dev with st := .standby } }, { State.reset with dev := { State.reset.dev with st := .standby } }, 0, .host, 0, .b32, 0, 0, State.tick_of (by decide +kernel), by decide +kernel⟩,
   ⟨{ State.reset with dev := { State.reset.dev with st := .standby } }, 0, 0, by decide +kernel⟩,
   ⟨State.reset, 0, 0, by decide +kernel⟩⟩

theorem test_witness_pairReads :
    (∃ (s : State) (u : State) (t : Time) (m : Master) (a : BitVec 26) (r : RegRow), s.tick t = u ∧ u.Canonical ∧ u.up = true ∧ IsReg a.toNat ∧ a.toNat % 4 = 0 ∧ 0x40 ≤ offOf a.toNat ∧ u.readEffect m a.toNat = none ∧ findReg (bankOf (u.selOf m) a.toNat) = some (r, false) ∧ r.wide = true) ∧
    (∃ (s : State) (u : State) (t : Time) (m : Master) (h : Master) (a : BitVec 26) (r : RegRow) (lo : Nat) (w : Word), s.tick t = u ∧ u.up = true ∧ IsReg a.toNat ∧ a.toNat % 4 = 0 ∧ 0x40 ≤ offOf a.toNat ∧ u.readEffect m a.toNat = none ∧ findReg (bankOf (u.selOf m) a.toNat) = some (r, true) ∧ r.wide = true ∧ (u.page (pageOf a.toNat)).rdHold = some (h, lo, w) ∧ ((h ≠ m ∨ lo + 4 ≠ offOf a.toNat))) :=
  ⟨⟨State.reset, State.reset, 0, .host, (BitVec.ofNat 26 (R.FIELD.FI_STAMP 31)), ((findReg (R.FIELD.FI_STAMP 31)).elim default (·.1)), State.tick_of (by decide +kernel), canonical_of (by decide +kernel), by decide +kernel, isReg_of (by decide +kernel), by decide +kernel⟩,
   ⟨(State.reset).setPage R.FIELD.base (fun p => { p with rdHold := some (.mw1, R.FIELD.FI_STAMP 31 - R.FIELD.base, 9) }), (State.reset).setPage R.FIELD.base (fun p => { p with rdHold := some (.mw1, R.FIELD.FI_STAMP 31 - R.FIELD.base, 9) }), 0, .host, .mw1, (BitVec.ofNat 26 (R.FIELD.FI_STAMP 31 + 4)), ((findReg (R.FIELD.FI_STAMP 31 + 4)).elim default (·.1)), (R.FIELD.FI_STAMP 31 - R.FIELD.base), 9, State.tick_of (by decide +kernel), by decide +kernel, isReg_of (by decide +kernel), by decide +kernel⟩⟩

theorem test_witness_pairWrites :
    (∃ (s : State) (u : State) (t : Time) (m : Master) (a : BitVec 26) (v : Word) (r : RegRow), s.tick t = u ∧ u.up = true ∧ u.busy (pageOf a.toNat) = false ∧ IsReg a.toNat ∧ 0x40 ≤ offOf a.toNat ∧ findReg (bankOf (u.selOf m) a.toNat) = some (r, false) ∧ r.wide = true) ∧
    (∃ (s : State) (u : State) (t : Time) (m : Master) (a : BitVec 26) (v : Word) (w : Word) (r : RegRow) (lo : Nat), s.tick t = u ∧ u.Canonical ∧ u.up = true ∧ u.busy (pageOf a.toNat) = false ∧ IsReg a.toNat ∧ 0x40 ≤ offOf a.toNat ∧ findReg (bankOf (u.selOf m) a.toNat) = some (r, true) ∧ r.wide = true ∧ (u.page (pageOf a.toNat)).wrHold = some (m, lo, w) ∧ lo + 4 = offOf a.toNat) ∧
    (∃ (s : State) (u : State) (t : Time) (m : Master) (a : BitVec 26) (v : Word) (r : RegRow), s.tick t = u ∧ u.Canonical ∧ u.up = true ∧ u.busy (pageOf a.toNat) = false ∧ IsReg a.toNat ∧ 0x40 ≤ offOf a.toNat ∧ findReg (bankOf (u.selOf m) a.toNat) = some (r, true) ∧ r.wide = true ∧ ((∀ h lo w, (u.page (pageOf a.toNat)).wrHold = some (h, lo, w) → h ≠ m ∨ lo + 4 ≠ offOf a.toNat))) :=
  ⟨⟨State.reset, State.reset, 0, .host, (BitVec.ofNat 26 (R.PTP.FDB_STATIC 1 3)), 3, ((findReg (R.PTP.FDB_STATIC 1 3)).elim default (·.1)), State.tick_of (by decide +kernel), by decide +kernel, by decide +kernel, isReg_of (by decide +kernel), by decide +kernel⟩,
   ⟨(State.reset).setPage (R.PTP.base 1) (fun p => { p with wrHold := some (.host, R.PTP.FDB_STATIC 1 3 - R.PTP.base 1, 9) }), (State.reset).setPage (R.PTP.base 1) (fun p => { p with wrHold := some (.host, R.PTP.FDB_STATIC 1 3 - R.PTP.base 1, 9) }), 0, .host, (BitVec.ofNat 26 (R.PTP.FDB_STATIC 1 3 + 4)), 3, 9, ((findReg (R.PTP.FDB_STATIC 1 3 + 4)).elim default (·.1)), (R.PTP.FDB_STATIC 1 3 - R.PTP.base 1), State.tick_of (by decide +kernel), canonical_of (by decide +kernel), by decide +kernel, by decide +kernel, isReg_of (by decide +kernel), by decide +kernel⟩,
   ⟨State.reset, State.reset, 0, .host, (BitVec.ofNat 26 (R.PTP.FDB_STATIC 1 3 + 4)), 3, ((findReg (R.PTP.FDB_STATIC 1 3 + 4)).elim default (·.1)), State.tick_of (by decide +kernel), canonical_of (by decide +kernel), by decide +kernel, by decide +kernel, isReg_of (by decide +kernel), by decide +kernel, by decide +kernel, by decide +kernel, (fun _ _ _ h => by cases h)⟩⟩

theorem test_witness_readToClear :
    ∃ (s : State) (u : State) (r' : State) (t : Time) (m : Master) (a : BitVec 26) (r : RegRow) (i : Nat), s.tick t = u ∧ u.Canonical ∧ u.up = true ∧ IsReg a.toNat ∧ a.toNat % 4 = 0 ∧ 0x40 ≤ offOf a.toNat ∧ u.readEffect m a.toNat = none ∧ u.frozen (pageOf a.toNat) = false ∧ findReg (bankOf (u.selOf m) a.toNat) = some (r, false) ∧ r.wide = false ∧ i < 32 ∧ exec (.rcRead t m a .b32 15) s = .next r' :=
  ⟨(State.reset).setRg (R.ETH.RX_ERR 3) 5, (State.reset).setRg (R.ETH.RX_ERR 3) 5, ({ State.reset with rd := 5 }), 0, .host, (BitVec.ofNat 26 (R.ETH.RX_ERR 3)), ((findReg (R.ETH.RX_ERR 3)).elim default (·.1)), 0, State.tick_of (by decide +kernel), canonical_of (by decide +kernel), by decide +kernel, isReg_of (by decide +kernel), by decide +kernel, by decide +kernel, by decide +kernel, by decide +kernel, by decide +kernel, by decide +kernel, by decide +kernel, next_of (by decide +kernel)⟩

theorem test_witness_lockWrites :
    (∃ (s : State) (u : State) (t : Time) (m : Master) (a : BitVec 26) (pg : Nat), s.tick t = u ∧ pageOf a.toNat = pg ∧ u.up = true ∧ u.busy pg = false ∧ IsReg (R.PG_LOCK pg) ∧ ((∀ h t0, (u.page pg).keySeq = some (h, t0) → u.now ≤ t0 + us 1)) ∧ u.owns pg m = true) ∧
    (∃ (s : State) (u : State) (t : Time) (m : Master) (a : BitVec 26) (pg : Nat), s.tick t = u ∧ pageOf a.toNat = pg ∧ u.up = true ∧ u.busy pg = false ∧ IsReg (R.PG_LOCK pg) ∧ (u.page pg).keySeq = none ∧ u.bit (R.PG_LOCK pg) 0 = false) ∧
    (∃ (s : State) (u : State) (t : Time) (m : Master) (a : BitVec 26) (pg : Nat), s.tick t = u ∧ pageOf a.toNat = pg ∧ u.up = true ∧ u.busy pg = false ∧ IsReg (R.PG_LOCK pg) ∧ (u.page pg).keySeq = none ∧ u.bit (R.PG_LOCK pg) 0 = true ∧ u.owns pg m = false) ∧
    (∃ (s : State) (u : State) (t : Time) (t0 : Time) (m : Master) (h : Master) (a : BitVec 26) (pg : Nat), s.tick t = u ∧ pageOf a.toNat = pg ∧ u.up = true ∧ u.busy pg = false ∧ IsReg (R.PG_LOCK pg) ∧ (u.page pg).keySeq = some (h, t0) ∧ u.now ≤ t0 + us 1 ∧ u.owns pg m = false) ∧
    (∃ (s : State) (u : State) (t : Time) (m : Master) (a : BitVec 26) (v : Word) (pg : Nat), s.tick t = u ∧ pageOf a.toNat = pg ∧ u.up = true ∧ u.busy pg = false ∧ IsReg (R.PG_LOCK pg) ∧ v ≠ 0 ∧ v ≠ 0xC41A ∧ (u.page pg).keySeq = none) ∧
    (∃ (s : State) (u : State) (t : Time) (t0 : Time) (m : Master) (h : Master) (a : BitVec 26) (v : Word) (pg : Nat), s.tick t = u ∧ pageOf a.toNat = pg ∧ u.up = true ∧ u.busy pg = false ∧ IsReg (R.PG_LOCK pg) ∧ v ≠ 0 ∧ v ≠ 0xC41A ∧ (u.page pg).keySeq = some (h, t0) ∧ u.now ≤ t0 + us 1 ∧ ((v ≠ 0xA14C ∨ h ≠ m))) ∧
    (∃ (s : State) (pg : Nat) (b : Nat), s.Canonical) :=
  ⟨⟨(State.reset).setRg (R.PG_LOCK (R.PWM.base 47)) 1, (State.reset).setRg (R.PG_LOCK (R.PWM.base 47)) 1, 0, .host, (BitVec.ofNat 26 (R.PWM.base 47)), (R.PWM.base 47), State.tick_of (by decide +kernel), by decide +kernel, by decide +kernel, by decide +kernel, isReg_of (by decide +kernel), (fun _ _ h => by cases h), by decide +kernel⟩,
   ⟨State.reset, State.reset, 0, .host, (BitVec.ofNat 26 (R.PWM.base 47)), (R.PWM.base 47), State.tick_of (by decide +kernel), by decide +kernel, by decide +kernel, by decide +kernel, isReg_of (by decide +kernel), by decide +kernel⟩,
   ⟨(State.reset).setRg (R.PG_LOCK (R.PWM.base 47)) 1, (State.reset).setRg (R.PG_LOCK (R.PWM.base 47)) 1, 0, .spi, (BitVec.ofNat 26 (R.PWM.base 47)), (R.PWM.base 47), State.tick_of (by decide +kernel), by decide +kernel, by decide +kernel, by decide +kernel, isReg_of (by decide +kernel), by decide +kernel⟩,
   ⟨(State.reset).setPage (R.PWM.base 47) (fun p => { p with keySeq := some (.host, 0) }), (State.reset).setPage (R.PWM.base 47) (fun p => { p with keySeq := some (.host, 0) }), 0, 0, .host, .host, (BitVec.ofNat 26 (R.PWM.base 47)), (R.PWM.base 47), State.tick_of (by decide +kernel), by decide +kernel, by decide +kernel, by decide +kernel, isReg_of (by decide +kernel), by decide +kernel⟩,
   ⟨State.reset, State.reset, 0, .host, (BitVec.ofNat 26 (R.PWM.base 47)), 1, (R.PWM.base 47), State.tick_of (by decide +kernel), by decide +kernel, by decide +kernel, by decide +kernel, isReg_of (by decide +kernel), by decide +kernel⟩,
   ⟨(State.reset).setPage (R.PWM.base 47) (fun p => { p with keySeq := some (.host, 0) }), (State.reset).setPage (R.PWM.base 47) (fun p => { p with keySeq := some (.host, 0) }), 0, 0, .host, .host, (BitVec.ofNat 26 (R.PWM.base 47)), 1, (R.PWM.base 47), State.tick_of (by decide +kernel), by decide +kernel, by decide +kernel, by decide +kernel, isReg_of (by decide +kernel), by decide +kernel⟩,
   ⟨State.reset, 0, 0, canonical_of (by decide +kernel)⟩⟩

theorem test_witness_fullQueueDrops :
    (∃ (s : State) (q : Nat) (j : Nat) (e : EvRec), q < 8 ∧ j < 8 ∧ q ≠ 5 ∧ q ≠ 6 ∧ (vget s.weir.queues q).length < 512) ∧
    (∃ (s : State) (q : Nat) (j : Nat) (e : EvRec), s.Canonical ∧ q < 8 ∧ j < 8 ∧ 512 ≤ (vget s.weir.queues q).length) :=
  ⟨⟨State.reset, 4, 4, ⟨1, 2, 3, 4⟩, by decide +kernel⟩,
   ⟨{ State.reset with weir := { State.reset.weir with queues := vupd State.reset.weir.queues 7 (fun _ => List.replicate 512 ⟨0, 0, 0, 0⟩) } }, 7, 7, ⟨1, 2, 3, 4⟩, canonical_of (by decide +kernel), by decide +kernel⟩⟩

theorem test_witness_pointersWrap :
    (∃ (k : CoreSt) (n : Nat) (q : Nat), n < 4 ∧ q < 2 ^ 20 ∧ vget k.l n ≠ 0) ∧
    (∃ (k : CoreSt) (n : Nat) (q : Nat), q < 2 ^ 20 ∧ ((4 ≤ n ∨ vget k.l n = 0))) ∧
    (∃ (p : Nat) (m : Nat) (i : Nat), p < 2 ^ 20 ∧ m < 2 ^ 20 ∧ i < 20) :=
  ⟨⟨{ (default : CoreSt) with l := vupd (default : CoreSt).l 0 (fun _ => 10), b := vupd (default : CoreSt).b 0 (fun _ => 256) }, 0, 266, by decide +kernel⟩,
   ⟨(default : CoreSt), 4, 0, by decide +kernel⟩,
   ⟨256, 4, 0, by decide +kernel⟩⟩

theorem test_witness_products :
    ∃ (k : CoreSt), wbit k.cfg 2 = true :=
  ⟨{ (default : CoreSt) with cfg := 4 }, by decide +kernel⟩

theorem test_witness_integerResultFrame :
    (∃ (v : State) (c : Nat) (n : Nat) (d : Nat) (y : Word) (cl : Word) (st : Word) (k : CoreSt), c < 33 ∧ d < 16 ∧ v.cr c = k ∧ k.pend = []) ∧
    (∃ (v : State) (c : Nat) (n : Nat) (d : Nat) (e : Nat) (b : Nat) (y : Word) (cl : Word) (st : Word), v.Canonical ∧ c < 33 ∧ e ≠ c ∧ (v.cr c).pend = [] ∧ b ≠ R.CORE.STAT c ∧ b ≠ R.CORE.BUSY_CYC c ∧ b ≠ R.CORE.BUSY_CYC c + 4) :=
  ⟨⟨State.reset, 5, 0, 15, 9, 15, 1, (default : CoreSt), by decide +kernel, by decide +kernel, rfl, by decide +kernel⟩,
   ⟨State.reset, 5, 0, 15, 6, 0x607040, 9, 0, 0, canonical_of (by decide +kernel), by decide +kernel⟩⟩

theorem test_witness_storesLand :
    (∃ (v : State) (c : Nat) (n : Nat) (b : Nat) (y : Word), c < 33 ∧ (v.cr c).pend = []) ∧
    (∃ (v : State) (c : Nat) (b : Nat) (x : Nat) (y : Word), v.Canonical ∧ v.bit (R.PG_ERRINJ (corePage c)) 0 = false ∧ v.bit (R.PG_ERRINJ (corePage c)) 1 = false) :=
  ⟨⟨State.reset, 5, 0, 0x2150000, 9, by decide +kernel⟩,
   ⟨State.reset, 5, 0x2150000, 3, 9, canonical_of (by decide +kernel), by decide +kernel⟩⟩

theorem test_witness_safeNeverToRun :
    (∃ (s : State) (m : Master) (v : Nat), s.dev.st = .safe) ∧
    (∃ (s : State) (m : Master) (v : Nat), s.Canonical ∧ s.dev.st = .safe ∧ bitN v 0 = true) :=
  ⟨⟨{ State.reset with dev := { State.reset.dev with st := .safe } }, .host, 3, by decide +kernel⟩,
   ⟨{ State.reset with dev := { State.reset.dev with st := .safe } }, .host, 3, canonical_of (by decide +kernel), by decide +kernel⟩⟩

theorem test_witness_registerCommandsComplete :
    (∃ (s : State) (u : State) (t : Time) (m : Master) (a : BitVec 26) (be : BitVec 8) (v : DWord) (r : RegRow), s.tick t = u ∧ u.Writable (pageOf a.toNat) ∧ IsReg a.toNat ∧ 0x40 ≤ offOf a.toNat ∧ be.toNat % 16 = 15 ∧ findReg (bankOf (u.selOf m) a.toNat) = some (r, false) ∧ r.wide = false ∧ r.rws = 0 ∧ r.rwl = 0 ∧ u.pageHook m a.toNat (v.toNat % 2 ^ 32) = none) ∧
    (∃ (s : State) (u : State) (t : Time) (m : Master) (a : BitVec 26) (v : DWord) (r : RegRow), s.tick t = u ∧ u.Writable (pageOf a.toNat) ∧ IsReg a.toNat ∧ 0x40 ≤ offOf a.toNat ∧ findReg (bankOf (u.selOf m) a.toNat) = some (r, false) ∧ r.wide = false ∧ r.rws ≠ 0 ∧ ((tyOf a.toNat ≠ 0x6 ∨ u.en (pageOf a.toNat) = true)) ∧ u.pageHook m a.toNat (v.toNat % 2 ^ 32) = none) ∧
    (∃ (s : State) (u : State) (t : Time) (m : Master) (a : BitVec 26) (r : RegRow), s.tick t = u ∧ u.up = true ∧ IsReg a.toNat ∧ a.toNat % 4 = 0 ∧ 0x40 ≤ offOf a.toNat ∧ u.readEffect m a.toNat = none ∧ findReg (bankOf (u.selOf m) a.toNat) = some (r, false) ∧ r.wide = false) ∧
    (∃ (s : State) (u : State) (t : Time) (m : Master) (a : BitVec 26) (r : RegRow), s.tick t = u ∧ u.up = true ∧ IsReg a.toNat ∧ a.toNat % 4 = 0 ∧ 0x40 ≤ offOf a.toNat ∧ u.readEffect m a.toNat = none ∧ findReg (bankOf (u.selOf m) a.toNat) = some (r, false) ∧ r.wide = true) ∧
    (∃ (s : State) (u : State) (t : Time) (m : Master) (a : BitVec 26) (r : RegRow) (lo : Nat) (w : Word), s.tick t = u ∧ u.up = true ∧ IsReg a.toNat ∧ a.toNat % 4 = 0 ∧ 0x40 ≤ offOf a.toNat ∧ u.readEffect m a.toNat = none ∧ findReg (bankOf (u.selOf m) a.toNat) = some (r, true) ∧ r.wide = true ∧ (u.page (pageOf a.toNat)).rdHold = some (m, lo, w) ∧ lo + 4 = offOf a.toNat) ∧
    (∃ (s : State) (u : State) (t : Time) (m : Master) (a : BitVec 26) (v : Word) (r : RegRow), s.tick t = u ∧ u.Writable (pageOf a.toNat) ∧ IsReg a.toNat ∧ 0x40 ≤ offOf a.toNat ∧ findReg (bankOf (u.selOf m) a.toNat) = some (r, false) ∧ r.wide = true) ∧
    (∃ (s : State) (u : State) (t : Time) (m : Master) (a : BitVec 26) (v : Word) (w : Word) (r : RegRow) (lo : Nat), s.tick t = u ∧ u.Writable (pageOf a.toNat) ∧ IsReg a.toNat ∧ 0x40 ≤ offOf a.toNat ∧ findReg (bankOf (u.selOf m) a.toNat) = some (r, true) ∧ r.wide = true ∧ (u.page (pageOf a.toNat)).wrHold = some (m, lo, w) ∧ lo + 4 = offOf a.toNat) ∧
    (∃ (s : State) (u : State) (t : Time) (m : Master) (a : BitVec 26) (w : Width) (v : DWord), s.tick t = u ∧ u.up = true ∧ mapped a.toNat w.bytes = false) :=
  ⟨⟨State.reset, State.reset, 0, .host, (BitVec.ofNat 26 (R.FIELD.FI_DEB 31)), 15, 7, ((findReg (R.FIELD.FI_DEB 31)).elim default (·.1)), State.tick_of (by decide +kernel), writable_of (by decide +kernel), isReg_of (by decide +kernel), by decide +kernel⟩,
   ⟨State.reset, State.reset, 0, .host, (BitVec.ofNat 26 (R.FIELD.FO_DUTY 31)), 7, ((findReg (R.FIELD.FO_DUTY 31)).elim default (·.1)), State.tick_of (by decide +kernel), writable_of (by decide +kernel), isReg_of (by decide +kernel), by decide +kernel⟩,
   ⟨(State.reset).setRg (R.ETH.RX_ERR 3) 5, (State.reset).setRg (R.ETH.RX_ERR 3) 5, 0, .host, (BitVec.ofNat 26 (R.ETH.RX_ERR 3)), ((findReg (R.ETH.RX_ERR 3)).elim default (·.1)), State.tick_of (by decide +kernel), by decide +kernel, isReg_of (by decide +kernel), by decide +kernel⟩,
   ⟨(State.reset).setRg64 (R.FIELD.FI_STAMP 31) 0x500000007, (State.reset).setRg64 (R.FIELD.FI_STAMP 31) 0x500000007, 0, .host, (BitVec.ofNat 26 (R.FIELD.FI_STAMP 31)), ((findReg (R.FIELD.FI_STAMP 31)).elim default (·.1)), State.tick_of (by decide +kernel), by decide +kernel, isReg_of (by decide +kernel), by decide +kernel⟩,
   ⟨(State.reset).setPage R.FIELD.base (fun p => { p with rdHold := some (.host, R.FIELD.FI_STAMP 31 - R.FIELD.base, 9) }), (State.reset).setPage R.FIELD.base (fun p => { p with rdHold := some (.host, R.FIELD.FI_STAMP 31 - R.FIELD.base, 9) }), 0, .host, (BitVec.ofNat 26 (R.FIELD.FI_STAMP 31 + 4)), ((findReg (R.FIELD.FI_STAMP 31 + 4)).elim default (·.1)), (R.FIELD.FI_STAMP 31 - R.FIELD.base), 9, State.tick_of (by decide +kernel), by decide +kernel, isReg_of (by decide +kernel), by decide +kernel⟩,
   ⟨State.reset, State.reset, 0, .host, (BitVec.ofNat 26 (R.PTP.FDB_STATIC 1 3)), 3, ((findReg (R.PTP.FDB_STATIC 1 3)).elim default (·.1)), State.tick_of (by decide +kernel), writable_of (by decide +kernel), isReg_of (by decide +kernel), by decide +kernel⟩,
   ⟨(State.reset).setPage (R.PTP.base 1) (fun p => { p with wrHold := some (.host, R.PTP.FDB_STATIC 1 3 - R.PTP.base 1, 9) }), (State.reset).setPage (R.PTP.base 1) (fun p => { p with wrHold := some (.host, R.PTP.FDB_STATIC 1 3 - R.PTP.base 1, 9) }), 0, .host, (BitVec.ofNat 26 (R.PTP.FDB_STATIC 1 3 + 4)), 3, 9, ((findReg (R.PTP.FDB_STATIC 1 3 + 4)).elim default (·.1)), (R.PTP.FDB_STATIC 1 3 - R.PTP.base 1), State.tick_of (by decide +kernel), writable_of (by decide +kernel), isReg_of (by decide +kernel), by decide +kernel⟩,
   ⟨State.reset, State.reset, 0, .host, 0x1ffffff, .b8, 0, State.tick_of (by decide +kernel), by decide +kernel⟩⟩

theorem test_witness_registerCommandsComplete_2 :
    (∃ (s : State) (u : State) (t : Time) (m : Master) (a : BitVec 27) (v : DWord), s.tick t = u ∧ u.up = true ∧ mapped a.toNat 4 = true ∧ 0x2000000 ≤ a.toNat ∧ a.toNat < 0x4000000 ∧ a.toNat % 4 = 0 ∧ u.winRefused a.toNat = true) ∧
    (∃ (s : State) (u : State) (t : Time) (m : Master) (a : BitVec 27) (v : DWord), s.tick t = u ∧ u.up = true ∧ mapped a.toNat 4 = true ∧ 0x2000000 ≤ a.toNat ∧ a.toNat < 0x4000000 ∧ a.toNat % 4 = 0 ∧ u.winRefused a.toNat = false) :=
  ⟨⟨State.reset, State.reset, 0, .host, 0x2800004, 9, State.tick_of (by decide +kernel), by decide +kernel⟩,
   ⟨State.reset, State.reset, 0, .host, 0x2000004, 9, State.tick_of (by decide +kernel), by decide +kernel⟩⟩

theorem test_witness_headerCommandsComplete :
    (∃ (s : State) (u : State) (v : State) (t : Time) (m : Master) (a : BitVec 26) (pg : Nat), s.tick t = u ∧ pageOf a.toNat = pg ∧ u.Writable pg ∧ IsReg (R.PG_CTRL pg) ∧ enFixed (tyOf a.toNat) = false ∧ u.en pg = false ∧ u.frozen pg = false ∧ (if tyOf pg = 0x13 then u.ptpReset (instOf pg == 1) else u) = v) ∧
    (∃ (s : State) (u : State) (t : Time) (a : BitVec 26) (pg : Nat), s.tick t = u ∧ pageOf a.toNat = pg ∧ u.busy pg = true) ∧
    (∃ (s : State) (u : State) (t : Time) (m : Master) (a : BitVec 26) (pg : Nat), s.tick t = u ∧ pageOf a.toNat = pg ∧ u.Writable pg ∧ IsReg (R.PG_CTRL pg) ∧ u.bistOn 4 (instOf a.toNat) = false) ∧
    (∃ (s : State) (u : State) (t : Time) (m : Master) (a : BitVec 26) (v : Word) (pg : Nat), s.tick t = u ∧ pageOf a.toNat = pg ∧ u.Writable pg ∧ IsReg (R.PG_IRQ pg)) ∧
    (∃ (s : State) (u : State) (t : Time) (m : Master) (a : BitVec 26) (pg : Nat), s.tick t = u ∧ pageOf a.toNat = pg ∧ u.Writable pg ∧ IsReg (R.PG_LOCK pg)) ∧
    (∃ (s : State) (u : State) (t : Time) (t0 : Time) (m : Master) (a : BitVec 26) (pg : Nat), s.tick t = u ∧ pageOf a.toNat = pg ∧ u.up = true ∧ u.busy pg = false ∧ IsReg (R.PG_LOCK pg) ∧ (u.page pg).keySeq = some (m, t0) ∧ u.now ≤ t0 + us 1) ∧
    (∃ (s : State) (u : State) (t : Time) (t0 : Time) (m : Master) (a : BitVec 26) (pg : Nat), s.tick t = u ∧ pageOf a.toNat = pg ∧ (u.page pg).keySeq = some (m, t0) ∧ t0 + us 1 < u.now) ∧
    (∃ (s : State) (u : State) (t : Time) (m : Master) (a : BitVec 26) (pg : Nat), s.tick t = u ∧ pageOf a.toNat = pg ∧ u.Writable pg ∧ IsReg (R.PG_LOCK pg) ∧ u.owns pg m = true) :=
  ⟨⟨State.reset, State.reset, State.reset, 0, .host, (BitVec.ofNat 26 (R.PWM.base 47)), (R.PWM.base 47), State.tick_of (by decide +kernel), by decide +kernel, writable_of (by decide +kernel), isReg_of (by decide +kernel), by decide +kernel, by decide +kernel, by decide +kernel, rfl⟩,
   ⟨(({ State.reset with now := us 100 }).setRg (R.PG_STAT (R.PWM.base 47)) 1).setPage (R.PWM.base 47) (fun p => { p with resetAt := some 0 }), (({ State.reset with now := us 100 }).setRg (R.PG_STAT (R.PWM.base 47)) 1).setPage (R.PWM.base 47) (fun p => { p with resetAt := some 0 }), (us 100), (BitVec.ofNat 26 (R.PWM.base 47)), (R.PWM.base 47), State.tick_of (by decide +kernel), by decide +kernel⟩,
   ⟨State.reset, State.reset, 0, .host, (BitVec.ofNat 26 (R.PWM.base 47)), (R.PWM.base 47), State.tick_of (by decide +kernel), by decide +kernel, writable_of (by decide +kernel), isReg_of (by decide +kernel), by decide +kernel⟩,
   ⟨(State.reset).setRg (R.PG_IRQ (R.PWM.base 47)) 7, (State.reset).setRg (R.PG_IRQ (R.PWM.base 47)) 7, 0, .host, (BitVec.ofNat 26 (R.PWM.base 47)), 5, (R.PWM.base 47), State.tick_of (by decide +kernel), by decide +kernel, writable_of (by decide +kernel), isReg_of (by decide +kernel)⟩,
   ⟨State.reset, State.reset, 0, .host, (BitVec.ofNat 26 (R.PWM.base 47)), (R.PWM.base 47), State.tick_of (by decide +kernel), by decide +kernel, writable_of (by decide +kernel), isReg_of (by decide +kernel)⟩,
   ⟨(State.reset).setPage (R.PWM.base 47) (fun p => { p with keySeq := some (.host, 0) }), (State.reset).setPage (R.PWM.base 47) (fun p => { p with keySeq := some (.host, 0) }), 0, 0, .host, (BitVec.ofNat 26 (R.PWM.base 47)), (R.PWM.base 47), State.tick_of (by decide +kernel), by decide +kernel, by decide +kernel, by decide +kernel, isReg_of (by decide +kernel), by decide +kernel⟩,
   ⟨({ State.reset with now := us 2 }).setPage (R.PWM.base 47) (fun p => { p with keySeq := some (.host, 0) }), ({ State.reset with now := us 2 }).setPage (R.PWM.base 47) (fun p => { p with keySeq := some (.host, 0) }), (us 2), 0, .host, (BitVec.ofNat 26 (R.PWM.base 47)), (R.PWM.base 47), State.tick_of (by decide +kernel), by decide +kernel⟩,
   ⟨(State.reset).setRg (R.PG_LOCK (R.PWM.base 47)) 1, (State.reset).setRg (R.PG_LOCK (R.PWM.base 47)) 1, 0, .host, (BitVec.ofNat 26 (R.PWM.base 47)), (R.PWM.base 47), State.tick_of (by decide +kernel), by decide +kernel, writable_of (by decide +kernel), isReg_of (by decide +kernel), by decide +kernel⟩⟩

theorem test_witness_headerCommandsComplete_2 :
    (∃ (s : State) (u : State) (t : Time) (m : Master) (a : BitVec 26) (v : Word) (pg : Nat), s.tick t = u ∧ pageOf a.toNat = pg ∧ u.Writable pg ∧ IsReg (R.PG_LOCK pg) ∧ v ≠ 0 ∧ v ≠ 0xC41A ∧ v ≠ 0xA14C) ∧
    (∃ (s : State) (u : State) (t : Time) (a : BitVec 26) (pg : Nat), s.tick t = u ∧ pageOf a.toNat = pg ∧ u.bit (R.PG_LOCK pg) 0 = true ∧ (u.page pg).lockFrom + ms 10 ≤ u.now) ∧
    (∃ (s : State) (u : State) (t : Time) (m : Master) (a : BitVec 26) (v : DWord) (r : RegRow) (b : Nat) (pg : Nat), s.tick t = u ∧ pageOf a.toNat = pg ∧ u.Writable pg ∧ IsReg a.toNat ∧ 0x40 ≤ offOf a.toNat ∧ bankOf (u.selOf m) a.toNat = b ∧ findReg b = some (r, false) ∧ r.wide = false ∧ r.rws = 0 ∧ r.rwl ≠ 0 ∧ u.lockOk pg m = true ∧ isSafety pg = true ∧ u.logFull = false ∧ u.pageHook m a.toNat (v.toNat % 2 ^ 32) = none) ∧
    (∃ (s : State) (u : State) (t : Time) (m : Master) (a : BitVec 26) (v : DWord) (r : RegRow) (b : Nat) (pg : Nat), s.tick t = u ∧ pageOf a.toNat = pg ∧ u.Writable pg ∧ IsReg a.toNat ∧ 0x40 ≤ offOf a.toNat ∧ bankOf (u.selOf m) a.toNat = b ∧ findReg b = some (r, false) ∧ r.wide = false ∧ r.rws = 0 ∧ r.rwl ≠ 0 ∧ u.lockOk pg m = false ∧ (u.rowVal r b ^^^ r.written true (u.rowVal r b) (v.toNat % 2 ^ 32)) &&& r.rwl ≠ 0 ∧ u.pageHook m a.toNat (v.toNat % 2 ^ 32) = none) ∧
    (∃ (s : State) (u : State) (t : Time) (m : Master) (a : BitVec 26) (pg : Nat), s.tick t = u ∧ pageOf a.toNat = pg ∧ u.Writable pg ∧ IsReg (R.PG_SHADOW pg) ∧ u.bit (R.PG_SHADOW pg) 0 = true) ∧
    (∃ (s : State) (u : State) (t : Time) (m : Master) (a : BitVec 26) (pg : Nat), s.tick t = u ∧ pageOf a.toNat = pg ∧ u.Writable pg ∧ IsReg (R.PG_SHADOW pg) ∧ u.bit (R.PG_SHADOW pg) 0 = false) ∧
    (∃ (s : State) (u : State) (t : Time) (m : Master) (a : BitVec 26) (v : Word), s.tick t = u ∧ u.Writable (pageOf a.toNat) ∧ IsReg a.toNat ∧ a.toNat = R.WALL.base + 0x40) :=
  ⟨⟨State.reset, State.reset, 0, .host, (BitVec.ofNat 26 (R.PWM.base 47)), 1, (R.PWM.base 47), State.tick_of (by decide +kernel), by decide +kernel, writable_of (by decide +kernel), isReg_of (by decide +kernel), by decide +kernel⟩,
   ⟨({ State.reset with now := ms 10 }).setRg (R.PG_LOCK (R.PWM.base 47)) 1, ({ State.reset with now := ms 10 }).setRg (R.PG_LOCK (R.PWM.base 47)) 1, (ms 10), (BitVec.ofNat 26 (R.PWM.base 47)), (R.PWM.base 47), State.tick_of (by decide +kernel), by decide +kernel⟩,
   ⟨(pspWit).setRg (R.PG_LOCK (R.PSP.base 47)) 1, (pspWit).setRg (R.PG_LOCK (R.PSP.base 47)) 1, 0, .host, (BitVec.ofNat 26 (R.PSP.base 47 + 0x64)), 500, ((findReg (R.PSP.base 47 + 0x64)).elim default (·.1)), (R.PSP.base 47 + 0x64), (R.PSP.base 47), State.tick_of (by decide +kernel), by decide +kernel, writable_of (by decide +kernel), isReg_of (by decide +kernel), by decide +kernel⟩,
   ⟨State.reset, State.reset, 0, .host, (BitVec.ofNat 26 (R.PSP.base 47 + 0x64)), 500, ((findReg (R.PSP.base 47 + 0x64)).elim default (·.1)), (R.PSP.base 47 + 0x64), (R.PSP.base 47), State.tick_of (by decide +kernel), by decide +kernel, writable_of (by decide +kernel), isReg_of (by decide +kernel), by decide +kernel⟩,
   ⟨(State.reset).setRg (R.PG_SHADOW (R.PWM.base 47)) 1, (State.reset).setRg (R.PG_SHADOW (R.PWM.base 47)) 1, 0, .host, (BitVec.ofNat 26 (R.PWM.base 47)), (R.PWM.base 47), State.tick_of (by decide +kernel), by decide +kernel, writable_of (by decide +kernel), isReg_of (by decide +kernel), by decide +kernel⟩,
   ⟨State.reset, State.reset, 0, .host, (BitVec.ofNat 26 (R.PWM.base 47)), (R.PWM.base 47), State.tick_of (by decide +kernel), by decide +kernel, writable_of (by decide +kernel), isReg_of (by decide +kernel), by decide +kernel⟩,
   ⟨State.reset, State.reset, 0, .host, (BitVec.ofNat 26 (R.WALL.base + 0x40)), 63, State.tick_of (by decide +kernel), writable_of (by decide +kernel), isReg_of (by decide +kernel), by decide +kernel⟩⟩

theorem test_witness_deviceStateCommandsComplete :
    (∃ (s : State) (u : State) (t : Time) (m : Master), s.tick t = u ∧ s.Canonical ∧ u.Writable R.SYS.base ∧ u.lockOk R.SYS.base m = true ∧ u.dev.st = .ready ∧ u.bwRel = true) ∧
    (∃ (s : State) (u : State) (t : Time) (m : Master), s.tick t = u ∧ u.Writable R.SYS.base ∧ u.lockOk R.SYS.base m = true ∧ u.dev.st = .run) ∧
    (∃ (s : State) (u : State) (t : Time), s.tick t = u ∧ u.dev.st = .ready ∧ u.outEn = true ∧ u.bwRel = true) ∧
    (∃ (s : State) (u : State) (t : Time) (m : Master), s.tick t = u ∧ u.Writable R.SYS.base ∧ u.lockOk R.SYS.base m = false ∧ u.outEn = false ∧ u.dev.st = .safe ∧ u.dev.hold = false) ∧
    (∃ (s : State) (u : State) (t : Time) (m : Master), s.tick t = u ∧ u.Writable R.SYS.base ∧ u.lockOk R.SYS.base m = false ∧ u.outEn = false ∧ u.dev.st = .safe ∧ u.dev.hold = true) ∧
    (∃ (s : State) (u : State) (t : Time) (freq : Bool), s.tick t = u) ∧
    (∃ (s : State) (u : State) (t : Time), s.tick t = u) :=
  ⟨⟨(State.reset.setRg (R.PG_LOCK R.SYS.base) 1).putBit R.SYS.DEV_STATE 16 true, (State.reset.setRg (R.PG_LOCK R.SYS.base) 1).putBit R.SYS.DEV_STATE 16 true, 0, .host, State.tick_of (by decide +kernel), canonical_of (by decide +kernel), writable_of (by decide +kernel), by decide +kernel⟩,
   ⟨{ (State.reset.setRg (R.PG_LOCK R.SYS.base) 1) with dev := { State.reset.dev with st := .run } }, { (State.reset.setRg (R.PG_LOCK R.SYS.base) 1) with dev := { State.reset.dev with st := .run } }, 0, .host, State.tick_of (by decide +kernel), writable_of (by decide +kernel), by decide +kernel⟩,
   ⟨(State.reset.putBit R.SYS.DEV_STATE 16 true).putBit R.SYS.RUN_CTRL 0 true, (State.reset.putBit R.SYS.DEV_STATE 16 true).putBit R.SYS.RUN_CTRL 0 true, 0, State.tick_of (by decide +kernel), by decide +kernel⟩,
   ⟨{ State.reset with dev := { State.reset.dev with st := .safe } }, { State.reset with dev := { State.reset.dev with st := .safe } }, 0, .host, State.tick_of (by decide +kernel), writable_of (by decide +kernel), by decide +kernel⟩,
   ⟨{ State.reset with dev := { State.reset.dev with st := .safe, hold := true } }, { State.reset with dev := { State.reset.dev with st := .safe, hold := true } }, 0, .host, State.tick_of (by decide +kernel), writable_of (by decide +kernel), by decide +kernel⟩,
   ⟨State.reset, State.reset, 0, true, State.tick_of (by decide +kernel)⟩,
   ⟨State.reset, State.reset, 0, State.tick_of (by decide +kernel)⟩⟩

theorem test_witness_timeCommandsComplete :
    (∃ (s : State) (u : State) (t : Time) (m : Master) (n : Bool) (v : DWord), s.tick t = u ∧ u.Writable (R.PTP.base (b2n n)) ∧ incrMin ≤ v.toNat % 2 ^ 40 ∧ v.toNat % 2 ^ 40 ≤ incrMax) ∧
    (∃ (s : State) (u : State) (t : Time) (d : Time) (n : Bool) (v : Nat) (rest : List (Time × Nat)), s.tick t = u ∧ (u.ptp n).incrPend = (d, v) :: rest ∧ d ≤ u.now) ∧
    (∃ (s : State) (u : State) (t : Time) (m : Master) (n : Bool) (v : DWord), s.tick t = u ∧ u.Writable (R.PTP.base (b2n n))) ∧
    (∃ (s : State) (u : State) (t : Time) (d : Time) (n : Bool) (off : Int), s.tick t = u ∧ (u.ptp n).offPend = some (d, off) ∧ d ≤ u.now ∧ u.sel ≠ n ∧ 0 ≤ ((u.ptp n).at (edgeOf (ceilEdge d)) : Int) + off * 2 ^ 32) ∧
    (∃ (s : State) (u : State) (t : Time), s.tick t = u ∧ u.time.c ≠ 0 ∧ u.time.slewEnd ≤ edgeOf (max s.now t)) ∧
    (∃ (s : State) (u : State) (t : Time) (m : Master), s.tick t = u ∧ u.Writable R.TIME.base ∧ u.lockOk R.TIME.base m = false ∧ u.standalone = false ∧ u.unsure = true ∧ u.time.c = 0) ∧
    (∃ (s : State) (u : State) (t : Time) (m : Master), s.tick t = u ∧ u.Writable R.TIME.base ∧ u.lockOk R.TIME.base m = true) ∧
    (∃ (s : State) (u : State) (t : Time) (m : Master), s.tick t = u ∧ u.Writable R.TIME.base ∧ u.lockOk R.TIME.base m = true) :=
  ⟨⟨State.reset, State.reset, 0, .host, true, (BitVec.ofNat 64 incrMin), State.tick_of (by decide +kernel), writable_of (by decide +kernel), by decide +kernel⟩,
   ⟨(State.reset.setPtp true (fun p => { p with incrPend := [(0, 7)] })), (State.reset.setPtp true (fun p => { p with incrPend := [(0, 7)] })), 0, 0, true, 7, [], State.tick_of (by decide +kernel), by decide +kernel⟩,
   ⟨State.reset, State.reset, 0, .host, true, 0, State.tick_of (by decide +kernel), writable_of (by decide +kernel)⟩,
   ⟨(State.reset.setPtp true (fun p => { p with offPend := some (0, 5) })), (State.reset.setPtp true (fun p => { p with offPend := some (0, 5) })), 0, 0, true, 5, State.tick_of (by decide +kernel), by decide +kernel⟩,
   ⟨{ State.reset with now := sec 1, time := { State.reset.time with c := 1 } }, { State.reset with now := sec 1, time := { State.reset.time with c := 1 } }, (sec 1), State.tick_of (by decide +kernel), by decide +kernel⟩,
   ⟨(State.reset.setRg R.TIME.MT_STAT 1), (State.reset.setRg R.TIME.MT_STAT 1), 0, .host, State.tick_of (by decide +kernel), writable_of (by decide +kernel), by decide +kernel⟩,
   ⟨(State.reset.setRg (R.PG_LOCK R.TIME.base) 1), (State.reset.setRg (R.PG_LOCK R.TIME.base) 1), 0, .host, State.tick_of (by decide +kernel), writable_of (by decide +kernel), by decide +kernel⟩,
   ⟨(State.reset.setRg (R.PG_LOCK R.TIME.base) 1), (State.reset.setRg (R.PG_LOCK R.TIME.base) 1), 0, .host, State.tick_of (by decide +kernel), writable_of (by decide +kernel), by decide +kernel⟩⟩

theorem test_witness_timeCommandsComplete_2 :
    (∃ (s : State) (u : State) (t : Time) (m : Master), s.tick t = u ∧ u.Writable R.TIME.base) ∧
    (∃ (s : State) (u : State) (t : Time), s.tick t = u ∧ u.fld R.TIME.SNAP_CTRL 2 1 = 2 ∧ u.time.lastPeriodic < u.now / u.snapPeriod * u.snapPeriod) :=
  ⟨⟨State.reset, State.reset, 0, .host, State.tick_of (by decide +kernel), writable_of (by decide +kernel)⟩,
   ⟨({ State.reset with now := sec 10 }).setRg R.TIME.SNAP_CTRL 4, ({ State.reset with now := sec 10 }).setRg R.TIME.SNAP_CTRL 4, (sec 10), State.tick_of (by decide +kernel), by decide +kernel⟩⟩

theorem test_witness_weirCommandsComplete :
    (∃ (s : State) (e : EvRec), (vget s.weir.queues 5).length < 512) ∧
    (∃ (s : State) (u : State) (t : Time) (stamp : Time) (src : Fin 1024) (code : Fin 64) (p : BitVec 48), s.tick t = u ∧ srcExists src.val = true ∧ 1 ≤ code.val ∧ code.val ≤ 0x3C ∧ u.now ≤ deliveryEdge ⟨stamp, src.val, code.val, p.toNat⟩ ∧ u.buffered src.val < 16) ∧
    (∃ (s : State) (u : State) (v : State) (t : Time) (stamp : Time) (src : Fin 1024) (code : Fin 64) (p : BitVec 48), s.tick t = u ∧ srcExists src.val = true ∧ 1 ≤ code.val ∧ code.val ≤ 0x3C ∧ deliveryEdge ⟨stamp, src.val, code.val, p.toNat⟩ < u.now ∧ ((u.count R.WEIR.LATE 15 0 1).irq R.WEIR.base 0x200) = v) ∧
    (∃ (s : State) (u : State) (t : Time), s.tick t = u ∧ u.bit R.WEIR.STAT 16 = true ∧ u.weir.clearFrom + us 1 ≤ u.now) ∧
    (∃ (s : State) (u : State) (t : Time) (m : Master) (v : DWord), s.tick t = u ∧ u.Writable R.WEIR.base ∧ ((bitsN v.toNat 5 0 = 0 ∨ 0x3D ≤ bitsN v.toNat 5 0))) ∧
    (∃ (s : State) (u : State) (t : Time) (m : Master) (v : DWord), s.tick t = u ∧ u.Writable R.WEIR.base ∧ bitsN v.toNat 5 0 ≠ 0 ∧ bitsN v.toNat 5 0 < 0x3D) ∧
    (∃ (s : State) (u : State) (t : Time) (m : Master) (q : Fin 8) (e : EvRec) (l : List EvRec), s.tick t = u ∧ q.val ≠ 4 ∧ u.up = true ∧ u.frozen R.WEIR.base = false ∧ vget u.weir.queues q.val = e :: l) ∧
    (∃ (s : State) (u : State) (t : Time) (m : Master) (q : Fin 8) (i : Fin 4) (e : EvRec), s.tick t = u ∧ q.val ≠ 4 ∧ i.val ≠ 0 ∧ u.up = true ∧ u.frozen R.WEIR.base = false ∧ vget u.weir.hold q.val = some (some m, e) ∧ i.val ≠ 3) :=
  ⟨⟨State.reset, ⟨1, 2, 3, 4⟩, by decide +kernel⟩,
   ⟨State.reset, State.reset, 0, 0, 1, 2, 0, State.tick_of (by decide +kernel), by decide +kernel⟩,
   ⟨{ State.reset with now := sec 1 }, { State.reset with now := sec 1 }, (({ State.reset with now := sec 1 }).count R.WEIR.LATE 15 0 1).irq R.WEIR.base 0x200, (sec 1), 0, 1, 2, 0, State.tick_of (by decide +kernel), by decide +kernel, by decide +kernel, by decide +kernel, by decide +kernel, rfl⟩,
   ⟨({ State.reset with now := sec 1, weir := { State.reset.weir with stalled := [3] } }).setRg R.WEIR.STAT 0x10000, ({ State.reset with now := sec 1, weir := { State.reset.weir with stalled := [3] } }).setRg R.WEIR.STAT 0x10000, (sec 1), State.tick_of (by decide +kernel), by decide +kernel⟩,
   ⟨State.reset, State.reset, 0, .host, 0x3d, State.tick_of (by decide +kernel), writable_of (by decide +kernel), by decide +kernel⟩,
   ⟨State.reset, State.reset, 0, .host, 0x3c, State.tick_of (by decide +kernel), writable_of (by decide +kernel), by decide +kernel⟩,
   ⟨{ State.reset with weir := { State.reset.weir with queues := vupd State.reset.weir.queues 7 (fun _ => [⟨1, 2, 3, 4⟩]) } }, { State.reset with weir := { State.reset.weir with queues := vupd State.reset.weir.queues 7 (fun _ => [⟨1, 2, 3, 4⟩]) } }, 0, .host, 7, ⟨1, 2, 3, 4⟩, [], State.tick_of (by decide +kernel), by decide +kernel⟩,
   ⟨{ State.reset with weir := { State.reset.weir with hold := vupd State.reset.weir.hold 7 (fun _ => some (some .host, ⟨1, 2, 3, 4⟩)) } }, { State.reset with weir := { State.reset.weir with hold := vupd State.reset.weir.hold 7 (fun _ => some (some .host, ⟨1, 2, 3, 4⟩)) } }, 0, .host, 7, 2, ⟨1, 2, 3, 4⟩, State.tick_of (by decide +kernel), by decide +kernel⟩⟩

theorem test_witness_weirCommandsComplete_2 :
    ∃ (s : State) (u : State) (t : Time) (m : Master) (q : Fin 8) (i : Fin 4) (e : EvRec), s.tick t = u ∧ q.val ≠ 4 ∧ i.val ≠ 0 ∧ u.up = true ∧ u.frozen R.WEIR.base = false ∧ vget u.weir.hold q.val = some (some m, e) ∧ i.val = 3 :=
  ⟨{ State.reset with weir := { State.reset.weir with hold := vupd State.reset.weir.hold 7 (fun _ => some (some .host, ⟨1, 2, 3, 4⟩)) } }, { State.reset with weir := { State.reset.weir with hold := vupd State.reset.weir.hold 7 (fun _ => some (some .host, ⟨1, 2, 3, 4⟩)) } }, 0, .host, 7, 3, ⟨1, 2, 3, 4⟩, State.tick_of (by decide +kernel), by decide +kernel⟩

theorem test_witness_sluiceCommandsComplete :
    (∃ (s : State) (u : State) (t : Time) (tk : Time) (n : Fin 112), s.tick t = u ∧ u.dev.tbFault = none ∧ n.val < 64 ∧ (u.axs n).next = some tk ∧ tk ≤ u.now ∧ u.axRun n = true ∧ (u.axs n).prev ≠ none) ∧
    (∃ (s : State) (u : State) (v : State) (t : Time) (tk : Time) (n : Fin 112) (offs : List Nat), s.tick t = u ∧ u.dev.tbFault = none ∧ 64 ≤ n.val ∧ (u.pw (n.val - 64)).next = some tk ∧ tk ≤ u.now ∧ u.ownerOf (n.val - 64) = none ∧ u.releaseSlot (n.val - 64) tk [] = (v, offs)) ∧
    (∃ (s : State) (u : State) (t : Time) (a : Fin 64), s.tick t = u) ∧
    (∃ (s : State) (u : State) (v : State) (t : Time) (tk : Time) (a : Fin 64), s.tick t = u ∧ (u.axs a).next = some tk ∧ (u.axs a).cut = false ∧ tk ≤ u.now + ns 80 ∧ u.axRun a = true ∧ u.parkOn a = false ∧ (u.axs a).prev ≠ none ∧ u.levels a = 1 ∧ (u.setAx a (fun x => { x with cut := true })) = v ∧ (v.lvl a 0).last.delivered = false ∧ v.levels a = 1) ∧
    (∃ (s : State) (u : State) (t : Time) (arr : Time) (c : Fin 33) (per : Nat) (w : Nat) (tag : Nat) (seq : Nat) (v : Word) (rest : List (Nat × Nat × Word × Nat × Nat × Time)), s.tick t = u ∧ (u.cr c).outQ = (per, w, v, tag, seq, arr) :: rest ∧ arr ≤ u.now) ∧
    (∃ (s : State) (u : State) (t : Time) (g : Time) (n : Fin 48), s.tick t = u ∧ (u.pw n).start = some g ∧ g ≤ u.now ∧ (u.slotStart n g).ownerOf n = none) ∧
    (∃ (s : State) (u : State) (t : Time) (m : Master) (n : Fin 48), s.tick t = u ∧ u.Writable (R.PWM.base n) ∧ u.en (R.PWM.base n) = true ∧ ((u.putBit (R.PG_CTRL (R.PWM.base n)) 0 false).slotStop n).ownerOf n = none) ∧
    (∃ (s : State) (u : State) (v : State) (t : Time) (m : Master) (a : Fin 64), s.tick t = u ∧ u.Writable R.SLUICE.base ∧ u.axRun a = false ∧ u.runRefusal a = 0 ∧ u.bit (R.SLUICE.AX_CTRL a) 1 = false ∧ (u.putBit (R.SLUICE.AX_CTRL a) 1 false).runSet a = v ∧ v.axRun a = true) :=
  ⟨⟨(State.reset.putBit (R.SLUICE.AX_CTRL 0) 0 true).setAx 0 (fun x => { x with next := some 0, prev := some 0 }), (State.reset.putBit (R.SLUICE.AX_CTRL 0) 0 true).setAx 0 (fun x => { x with next := some 0, prev := some 0 }), 0, 0, 0, State.tick_of (by decide +kernel), by decide +kernel⟩,
   ⟨(State.reset.setPw 0 (fun x => { x with next := some 0 })), (State.reset.setPw 0 (fun x => { x with next := some 0 })), (State.releaseSlot (State.reset.setPw 0 (fun x => { x with next := some 0 })) 0 0 []).1, 0, 0, 64, (State.releaseSlot (State.reset.setPw 0 (fun x => { x with next := some 0 })) 0 0 []).2, State.tick_of (by decide +kernel), by decide +kernel, by decide +kernel, by decide +kernel, by decide +kernel, by decide +kernel, rfl⟩,
   ⟨State.reset, State.reset, 0, 0, State.tick_of (by decide +kernel)⟩,
   ⟨((State.reset.putBit (R.SLUICE.AX_CTRL 0) 0 true).putFld (R.SLUICE.AX_CFG 0) 1 0 1).setAx 0 (fun x => { x with next := some 0, prev := some 0 }), ((State.reset.putBit (R.SLUICE.AX_CTRL 0) 0 true).putFld (R.SLUICE.AX_CFG 0) 1 0 1).setAx 0 (fun x => { x with next := some 0, prev := some 0 }), (((State.reset.putBit (R.SLUICE.AX_CTRL 0) 0 true).putFld (R.SLUICE.AX_CFG 0) 1 0 1).setAx 0 (fun x => { x with next := some 0, prev := some 0 })).setAx 0 (fun x => { x with cut := true }), 0, 0, 0, State.tick_of (by decide +kernel), by decide +kernel, by decide +kernel, by decide +kernel, by decide +kernel, by decide +kernel, by decide +kernel, by decide +kernel, rfl, by decide +kernel⟩,
   ⟨(State.reset.setCr 1 (fun k => { k with outQ := [(0, 0, 0, 0, 0, 0)] })), (State.reset.setCr 1 (fun k => { k with outQ := [(0, 0, 0, 0, 0, 0)] })), 0, 0, 1, 0, 0, 0, 0, 0, [], State.tick_of (by decide +kernel), by decide +kernel⟩,
   ⟨(State.reset.setPw 47 (fun x => { x with start := some 0 })), (State.reset.setPw 47 (fun x => { x with start := some 0 })), 0, 0, 47, State.tick_of (by decide +kernel), by decide +kernel⟩,
   ⟨(State.reset.putBit (R.PG_CTRL (R.PWM.base 47)) 0 true), (State.reset.putBit (R.PG_CTRL (R.PWM.base 47)) 0 true), 0, .host, 47, State.tick_of (by decide +kernel), writable_of (by decide +kernel), by decide +kernel⟩,
   ⟨((((State.reset.putFld (R.SLUICE.AX_CFG 0) 1 0 1).setRg (R.SLUICE.AX_TPERIOD 0) 2000).putBit (R.PG_CTRL (corePage 0)) 0 true).putFld (R.SLUICE.AX_RES 0) 6 0 1).setRg (R.SLUICE.AX_CLOSE 0) 24, ((((State.reset.putFld (R.SLUICE.AX_CFG 0) 1 0 1).setRg (R.SLUICE.AX_TPERIOD 0) 2000).putBit (R.PG_CTRL (corePage 0)) 0 true).putFld (R.SLUICE.AX_RES 0) 6 0 1).setRg (R.SLUICE.AX_CLOSE 0) 24, (State.runSet (State.putBit (((((State.reset.putFld (R.SLUICE.AX_CFG 0) 1 0 1).setRg (R.SLUICE.AX_TPERIOD 0) 2000).putBit (R.PG_CTRL (corePage 0)) 0 true).putFld (R.SLUICE.AX_RES 0) 6 0 1).setRg (R.SLUICE.AX_CLOSE 0) 24) (R.SLUICE.AX_CTRL 0) 1 false) 0), 0, .host, 0, State.tick_of (by decide +kernel), writable_of (by decide +kernel), by decide +kernel, by decide +kernel, by decide +kernel, rfl, by decide +kernel⟩⟩

theorem test_witness_sluiceCommandsComplete_2 :
    (∃ (s : State) (u : State) (t : Time) (m : Master) (a : Fin 64), s.tick t = u ∧ u.Writable R.SLUICE.base ∧ u.axRun a = false ∧ u.runRefusal a ≠ 0) ∧
    (∃ (s : State) (u : State) (t : Time) (tk : Time) (a : Fin 64), s.tick t = u ∧ (u.axs a).next = some tk ∧ tk ≤ u.now ∧ u.axRun a = true ∧ (u.axs a).prev = none ∧ u.dev.tbFault = none ∧ (u.profileTick a).slotOf a = none) ∧
    (∃ (s : State) (u : State) (v : State) (t : Time) (m : Master) (a : Fin 64), s.tick t = u ∧ u.Writable R.SLUICE.base ∧ u.axRun a = true ∧ u.runClearRefusal a = 0 ∧ u.bit (R.SLUICE.AX_CTRL a) 1 = false ∧ (u.putBit (R.SLUICE.AX_CTRL a) 1 false).runClear a = v ∧ v.axRun a = false) ∧
    (∃ (s : State) (u : State) (t : Time) (m : Master) (a : Fin 64) (p : Bool), s.tick t = u ∧ u.Writable R.SLUICE.base ∧ u.bit (R.SLUICE.AX_CTRL a) 1 ≠ p) ∧
    (∃ (s : State) (u : State) (v : State) (t : Time) (m : Master) (src : Fin 32) (dst : Fin 32), s.tick t = u ∧ u.Writable R.SLUICE.base ∧ u.setRg R.SLUICE.MIG_CMD (BitVec.ofNat 32 (src.val + dst.val * 2 ^ 8)) = v ∧ v.migRefusal src dst = 2 ∧ v.mig.waiting = false) ∧
    (∃ (s : State) (u : State) (v : State) (t : Time) (m : Master) (src : Fin 32) (dst : Fin 32), s.tick t = u ∧ u.Writable R.SLUICE.base ∧ u.setRg R.SLUICE.MIG_CMD (BitVec.ofNat 32 (src.val + dst.val * 2 ^ 8)) = v ∧ v.migRefusal src dst = 0) ∧
    (∃ (s : State) (u : State) (v : State) (t : Time) (m : Master), s.tick t = u ∧ u.Writable R.SLUICE.base ∧ u.migOpen = true ∧ u.setRg R.SLUICE.MIG_CMD (BitVec.ofNat 32 (u.fld R.SLUICE.MIG_CMD 4 0 + u.fld R.SLUICE.MIG_CMD 12 8 * 2 ^ 8)) = v) ∧
    (∃ (s : State) (u : State) (t : Time), s.tick t = u ∧ u.mig.waiting = true ∧ u.mig.cut = false ∧ cutoffOf u.mig.tm ≤ u.now) :=
  ⟨⟨State.reset, State.reset, 0, .host, 0, State.tick_of (by decide +kernel), writable_of (by decide +kernel), by decide +kernel⟩,
   ⟨(State.reset.putBit (R.SLUICE.AX_CTRL 0) 0 true).setAx 0 (fun x => { x with next := some 0 }), (State.reset.putBit (R.SLUICE.AX_CTRL 0) 0 true).setAx 0 (fun x => { x with next := some 0 }), 0, 0, 0, State.tick_of (by decide +kernel), by decide +kernel⟩,
   ⟨(State.reset.putBit (R.SLUICE.AX_CTRL 0) 0 true), (State.reset.putBit (R.SLUICE.AX_CTRL 0) 0 true), ((State.reset.putBit (R.SLUICE.AX_CTRL 0) 0 true).putBit (R.SLUICE.AX_CTRL 0) 1 false).runClear 0, 0, .host, 0, State.tick_of (by decide +kernel), writable_of (by decide +kernel), by decide +kernel, by decide +kernel, by decide +kernel, rfl, by decide +kernel⟩,
   ⟨State.reset, State.reset, 0, .host, 0, true, State.tick_of (by decide +kernel), writable_of (by decide +kernel), by decide +kernel⟩,
   ⟨State.reset, State.reset, (State.reset.setRg R.SLUICE.MIG_CMD (BitVec.ofNat 32 (0 + 0 * 2 ^ 8))), 0, .host, 0, 0, State.tick_of (by decide +kernel), writable_of (by decide +kernel), rfl, by decide +kernel⟩,
   ⟨(State.reset.putBit (R.SLUICE.AX_CTRL 0) 0 true).putBit (R.PG_CTRL (corePage 27)) 0 true, (State.reset.putBit (R.SLUICE.AX_CTRL 0) 0 true).putBit (R.PG_CTRL (corePage 27)) 0 true, ((State.reset.putBit (R.SLUICE.AX_CTRL 0) 0 true).putBit (R.PG_CTRL (corePage 27)) 0 true).setRg R.SLUICE.MIG_CMD (BitVec.ofNat 32 (0 + 27 * 2 ^ 8)), 0, .host, 0, 27, State.tick_of (by decide +kernel), writable_of (by decide +kernel), rfl, by decide +kernel⟩,
   ⟨{ State.reset with mig := { waiting := true, tm := ns 200 } }, { State.reset with mig := { waiting := true, tm := ns 200 } }, ({ State.reset with mig := { waiting := true, tm := ns 200 } } : State).setRg R.SLUICE.MIG_CMD (BitVec.ofNat 32 0), 0, .host, State.tick_of (by decide +kernel), writable_of (by decide +kernel), by decide +kernel, rfl⟩,
   ⟨{ (State.reset.putBit (R.PG_CTRL (corePage 27)) 0 true) with mig := { waiting := true, dst := 27 } }, { (State.reset.putBit (R.PG_CTRL (corePage 27)) 0 true) with mig := { waiting := true, dst := 27 } }, 0, State.tick_of (by decide +kernel), by decide +kernel⟩⟩

theorem test_witness_sluiceCommandsComplete_3 :
    ∃ (s : State) (u : State) (t : Time), s.tick t = u ∧ u.mig.waiting = true ∧ u.mig.cut = true ∧ u.mig.tm ≤ u.now ∧ u.mig.left = 0 ∧ u.mig.queued = [] :=
  ⟨{ State.reset with mig := { waiting := true, cut := true } }, { State.reset with mig := { waiting := true, cut := true } }, 0, State.tick_of (by decide +kernel), by decide +kernel⟩

theorem test_witness_ringCommandsComplete :
    (∃ (s : State) (u : State) (t : Time) (d : Vector Word 8) (r : Nat) (k : Nat), s.tick t = u ∧ u.nextRing = some (r, k) ∧ u.host.late = none ∧ (u.tag (tagIdx ((d.toList.getD 0 0).toNat / 2 ^ 16))).st = 2) ∧
    (∃ (s : State) (u : State) (v : State) (t : Time) (d : Vector Word 8) (r : Nat) (k : Nat) (g : Nat), s.tick t = u ∧ u.nextRing = some (r, k) ∧ u.tag (tagIdx ((d.toList.getD 0 0).toNat / 2 ^ 16)) = { gen := g } ∧ tagGen ((d.toList.getD 0 0).toNat / 2 ^ 16) = g ∧ (u.setRg (R.HOST.SQ_HEAD r) (BitVec.ofNat 32 ((u.fld (R.HOST.SQ_HEAD r) 11 0 + 1) % u.ringSize r))).setHost (fun h => { h with ring := r, took := k + 1 }) = v ∧ u.host.late = none) ∧
    (∃ (s : State) (u : State) (w : State) (t : Time) (r : Fin 8) (i : Nat) (c : HostCmd) (v : DWord), s.tick t = u ∧ u.ringCmd r 1 = some (i, c) ∧ u.sysRead .host c.daddr c.len 0xff = (v, w)) ∧
    (∃ (s : State) (u : State) (t : Time) (r : Fin 8) (i : Nat) (c : HostCmd), s.tick t = u ∧ u.ringCmd r 2 = some (i, c)) ∧
    (∃ (s : State) (u : State) (t : Time) (r : Fin 8) (data : List Word) (ok : Bool) (i : Nat) (c : HostCmd), s.tick t = u ∧ u.ringCmd r 3 = some (i, c) ∧ c.aborted = false ∧ u.pcieHeld = false ∧ u.dmaFails ok = false) ∧
    (∃ (s : State) (u : State) (t : Time) (r : Fin 8) (data : List Word) (ok : Bool) (i : Nat) (c : HostCmd), s.tick t = u ∧ u.ringCmd r 3 = some (i, c) ∧ c.aborted = false ∧ u.pcieHeld = false ∧ u.dmaFails ok = true) ∧
    (∃ (s : State) (u : State) (t : Time) (r : Fin 8) (n : Fin 65536) (ok : Bool) (i : Nat) (c : HostCmd), s.tick t = u ∧ u.ringCmd r 4 = some (i, c) ∧ c.aborted = false ∧ u.pcieHeld = false ∧ u.dmaFails ok = false) ∧
    (∃ (s : State) (u : State) (v : State) (t : Time) (r : Fin 8) (b : List Byte) (ok : Bool) (i : Nat) (c : HostCmd), s.tick t = u ∧ u.ringCmd r 5 = some (i, c) ∧ c.aborted = false ∧ u.pcieHeld = false ∧ u.dmaFails ok = false ∧ c.word 6 % 4 ≠ 0 ∧ u.raceSendMask (c.word 6 % 4) ((b ++ List.replicate c.len 0).take c.len) = v ∧ (u.raceUse 0).2 + (u.raceUse 1).2 + u.sendTargets (c.word 6 % 4) ((b ++ List.replicate c.len 0).take c.len) ≤ (v.raceUse 0).2 + (v.raceUse 1).2) :=
  ⟨⟨(((State.reset.putBit R.HOST.STAT 0 true).putBit (R.HOST.SQ_CFG 7) 0 true).setRg (R.HOST.SQ_TAIL 7) 1).setHost (fun h => { h with tags := [(0, { st := 2 })] }), (((State.reset.putBit R.HOST.STAT 0 true).putBit (R.HOST.SQ_CFG 7) 0 true).setRg (R.HOST.SQ_TAIL 7) 1).setHost (fun h => { h with tags := [(0, { st := 2 })] }), 0, (Vector.replicate 8 6), 7, 0, State.tick_of (by decide +kernel), by decide +kernel⟩,
   ⟨(((State.reset.putBit R.HOST.STAT 0 true).putBit (R.HOST.SQ_CFG 7) 0 true).setRg (R.HOST.SQ_TAIL 7) 1), (((State.reset.putBit R.HOST.STAT 0 true).putBit (R.HOST.SQ_CFG 7) 0 true).setRg (R.HOST.SQ_TAIL 7) 1), (((((State.reset.putBit R.HOST.STAT 0 true).putBit (R.HOST.SQ_CFG 7) 0 true).setRg (R.HOST.SQ_TAIL 7) 1).setRg (R.HOST.SQ_HEAD 7) 1).setHost (fun h => { h with ring := 7, took := 1 })), 0, (Vector.replicate 8 6), 7, 0, 0, State.tick_of (by decide +kernel), by decide +kernel, by decide +kernel, by decide +kernel, rfl, by decide +kernel⟩,
   ⟨(State.reset.setHost (fun h => { h with cmds := [{ ring := 7, desc := [1, 4, 0, 0, 0x1000040, 0, 0, 0] }] })), (State.reset.setHost (fun h => { h with cmds := [{ ring := 7, desc := [1, 4, 0, 0, 0x1000040, 0, 0, 0] }] })), ((State.reset.setHost (fun h => { h with cmds := [{ ring := 7, desc := [1, 4, 0, 0, 0x1000040, 0, 0, 0] }] })).sysRead .host 0x1000040 4 0xff).2, 0, 7, 0, { ring := 7, desc := [1, 4, 0, 0, 0x1000040, 0, 0, 0] }, ((State.reset.setHost (fun h => { h with cmds := [{ ring := 7, desc := [1, 4, 0, 0, 0x1000040, 0, 0, 0] }] })).sysRead .host 0x1000040 4 0xff).1, State.tick_of (by decide +kernel), by decide +kernel⟩,
   ⟨(State.reset.setHost (fun h => { h with cmds := [{ ring := 7, desc := [2, 4, 0, 0, 0x1000040, 0, 0, 0] }] })), (State.reset.setHost (fun h => { h with cmds := [{ ring := 7, desc := [2, 4, 0, 0, 0x1000040, 0, 0, 0] }] })), 0, 7, 0, { ring := 7, desc := [2, 4, 0, 0, 0x1000040, 0, 0, 0] }, State.tick_of (by decide +kernel), by decide +kernel⟩,
   ⟨(State.reset.setHost (fun h => { h with cmds := [{ ring := 7, desc := [3, 4, 0, 0, 0x4000000, 0, 0, 0] }] })), (State.reset.setHost (fun h => { h with cmds := [{ ring := 7, desc := [3, 4, 0, 0, 0x4000000, 0, 0, 0] }] })), 0, 7, [7], true, 0, { ring := 7, desc := [3, 4, 0, 0, 0x4000000, 0, 0, 0] }, State.tick_of (by decide +kernel), by decide +kernel⟩,
   ⟨(State.reset.setHost (fun h => { h with cmds := [{ ring := 7, desc := [3, 4, 0, 0, 0x4000000, 0, 0, 0] }] })), (State.reset.setHost (fun h => { h with cmds := [{ ring := 7, desc := [3, 4, 0, 0, 0x4000000, 0, 0, 0] }] })), 0, 7, [], false, 0, { ring := 7, desc := [3, 4, 0, 0, 0x4000000, 0, 0, 0] }, State.tick_of (by decide +kernel), by decide +kernel⟩,
   ⟨(State.reset.setHost (fun h => { h with cmds := [{ ring := 7, desc := [4, 4, 0, 0, 0x4000000, 0, 0, 0] }] })), (State.reset.setHost (fun h => { h with cmds := [{ ring := 7, desc := [4, 4, 0, 0, 0x4000000, 0, 0, 0] }] })), 0, 7, 1, true, 0, { ring := 7, desc := [4, 4, 0, 0, 0x4000000, 0, 0, 0] }, State.tick_of (by decide +kernel), by decide +kernel⟩,
   ⟨(State.reset.setHost (fun h => { h with cmds := [{ ring := 7, desc := [5, 60, 0, 0, 0, 0, 1, 0] }] })), (State.reset.setHost (fun h => { h with cmds := [{ ring := 7, desc := [5, 60, 0, 0, 0, 0, 1, 0] }] })), (State.reset.setHost (fun h => { h with cmds := [{ ring := 7, desc := [5, 60, 0, 0, 0, 0, 1, 0] }] })).raceSendMask 1 (List.replicate 60 0), 0, 7, [], true, 0, { ring := 7, desc := [5, 60, 0, 0, 0, 0, 1, 0] }, State.tick_of (by decide +kernel), by decide +kernel, by decide +kernel, by decide +kernel, by decide +kernel, by decide +kernel, rfl, by decide +kernel⟩⟩

theorem test_witness_ringCommandsComplete_2 :
    (∃ (s : State) (u : State) (t : Time) (r : Fin 8) (i : Nat) (c : HostCmd), s.tick t = u ∧ u.ringCmd r 6 = some (i, c)) ∧
    (∃ (s : State) (u : State) (t : Time) (r : Fin 8) (i : Nat) (c : HostCmd) (e : CmdEnd), s.tick t = u ∧ u.host.aborts.find? (fun x => x.1 == r.val) = none ∧ u.host.cmds.findIdx? (fun c => c.ring == r.val && c.ended.isSome) = some i ∧ u.host.cmds.getD i default = c ∧ c.ended = some e ∧ c.aborted = false ∧ u.hostOk = true) ∧
    (∃ (s : State) (u : State) (t : Time) (r : Fin 8) (i : Nat) (c : HostCmd) (e : CmdEnd), s.tick t = u ∧ u.host.aborts.find? (fun x => x.1 == r.val) = none ∧ u.host.cmds.findIdx? (fun c => c.ring == r.val && c.ended.isSome) = some i ∧ u.host.cmds.getD i default = c ∧ c.ended = some e ∧ c.aborted = true) ∧
    (∃ (s : State) (u : State) (t : Time) (r : Fin 8) (w : Nat) (n : Nat) (l : List (Nat × Nat × Nat)), s.tick t = u ∧ u.hostOk = true ∧ u.host.aborts = (r.val, w, n) :: l) ∧
    (∃ (s : State) (u : State) (t : Time) (m : Master) (r : Fin 8) (v : Word), s.tick t = u ∧ u.Writable R.HOST.base ∧ v.toNat < u.ringSize r ∧ v.toNat = u.fld (R.HOST.CQ_HEAD r) 11 0 ∧ u.host.late = none) ∧
    (∃ (s : State) (u : State) (t : Time) (m : Master) (r : Fin 8) (v : Word) (i : Nat), s.tick t = u ∧ u.Writable R.HOST.base ∧ v.toNat < u.ringSize r ∧ v.toNat = u.fld (R.HOST.CQ_HEAD r) 11 0 + 1 ∧ vget u.host.cq r.val = [some i] ∧ u.host.late = none) ∧
    (∃ (s : State) (u : State) (t : Time) (m : Master) (v : Word), s.tick t = u ∧ u.Writable R.HOST.base ∧ (u.tag (tagIdx (v.toNat % 2 ^ 16))).st ≠ 1) ∧
    (∃ (s : State) (u : State) (t : Time) (m : Master) (v : Word) (k : Nat) (c : HostCmd), s.tick t = u ∧ u.Writable R.HOST.base ∧ (u.tag (tagIdx (v.toNat % 2 ^ 16))).st = 1 ∧ (u.tag (tagIdx (v.toNat % 2 ^ 16))).gen = tagGen (v.toNat % 2 ^ 16) ∧ u.abortee (v.toNat % 2 ^ 16) = some k ∧ u.host.cmds.getD k default = c ∧ c.ended.isSome = true) :=
  ⟨⟨(State.reset.setHost (fun h => { h with cmds := [{ ring := 7, desc := [6, 0, 0, 0, 0, 0, 0, 0] }] })), (State.reset.setHost (fun h => { h with cmds := [{ ring := 7, desc := [6, 0, 0, 0, 0, 0, 0, 0] }] })), 0, 7, 0, { ring := 7, desc := [6, 0, 0, 0, 0, 0, 0, 0] }, State.tick_of (by decide +kernel), by decide +kernel⟩,
   ⟨(State.reset.putBit R.HOST.STAT 0 true).setHost (fun h => { h with cmds := [{ ring := 7, desc := [6], ended := some ⟨0, 0, none⟩ }] }), (State.reset.putBit R.HOST.STAT 0 true).setHost (fun h => { h with cmds := [{ ring := 7, desc := [6], ended := some ⟨0, 0, none⟩ }] }), 0, 7, 0, { ring := 7, desc := [6], ended := some ⟨0, 0, none⟩ }, ⟨0, 0, none⟩, State.tick_of (by decide +kernel), by decide +kernel, by decide +kernel, rfl, by decide +kernel⟩,
   ⟨(State.reset.setHost (fun h => { h with cmds := [{ ring := 7, desc := [6], ended := some ⟨0, 0, none⟩, aborted := true }] })), (State.reset.setHost (fun h => { h with cmds := [{ ring := 7, desc := [6], ended := some ⟨0, 0, none⟩, aborted := true }] })), 0, 7, 0, { ring := 7, desc := [6], ended := some ⟨0, 0, none⟩, aborted := true }, ⟨0, 0, none⟩, State.tick_of (by decide +kernel), by decide +kernel, by decide +kernel, rfl, by decide +kernel⟩,
   ⟨(State.reset.putBit R.HOST.STAT 0 true).setHost (fun h => { h with aborts := [(7, 5, 0)] }), (State.reset.putBit R.HOST.STAT 0 true).setHost (fun h => { h with aborts := [(7, 5, 0)] }), 0, 7, 5, 0, [], State.tick_of (by decide +kernel), by decide +kernel⟩,
   ⟨State.reset, State.reset, 0, .host, 0, 0, State.tick_of (by decide +kernel), writable_of (by decide +kernel), by decide +kernel⟩,
   ⟨(State.reset.setHost (fun h => { h with cq := vupd h.cq 7 (fun _ => [some 8191]) })), (State.reset.setHost (fun h => { h with cq := vupd h.cq 7 (fun _ => [some 8191]) })), 0, .host, 7, 1, 8191, State.tick_of (by decide +kernel), writable_of (by decide +kernel), by decide +kernel⟩,
   ⟨State.reset, State.reset, 0, .host, 0, State.tick_of (by decide +kernel), writable_of (by decide +kernel), by decide +kernel⟩,
   ⟨(State.reset.setHost (fun h => { h with tags := [(5, { st := 1 })], cmds := [{ ring := 7, desc := [0x50006], ended := some ⟨0, 0, none⟩ }] })), (State.reset.setHost (fun h => { h with tags := [(5, { st := 1 })], cmds := [{ ring := 7, desc := [0x50006], ended := some ⟨0, 0, none⟩ }] })), 0, .host, 5, 0, { ring := 7, desc := [0x50006], ended := some ⟨0, 0, none⟩ }, State.tick_of (by decide +kernel), writable_of (by decide +kernel), by decide +kernel, by decide +kernel, by decide +kernel, rfl, by decide +kernel⟩⟩

theorem test_witness_ringCommandsComplete_3 :
    (∃ (s : State) (u : State) (t : Time) (m : Master) (v : Word) (k : Nat) (c : HostCmd), s.tick t = u ∧ u.Writable R.HOST.base ∧ (u.tag (tagIdx (v.toNat % 2 ^ 16))).st = 1 ∧ (u.tag (tagIdx (v.toNat % 2 ^ 16))).gen = tagGen (v.toNat % 2 ^ 16) ∧ u.abortee (v.toNat % 2 ^ 16) = some k ∧ u.host.cmds.getD k default = c ∧ c.started = false ∧ c.ended = none) ∧
    (∃ (s : State) (u : State) (t : Time) (i : Fin 8192), s.tick t = u ∧ (u.tag i).st = 3 ∧ (u.tag i).at_ + ms 2 ≤ u.now) :=
  ⟨⟨(State.reset.setHost (fun h => { h with tags := [(5, { st := 1 })], cmds := [{ ring := 7, desc := [0x50006] }] })), (State.reset.setHost (fun h => { h with tags := [(5, { st := 1 })], cmds := [{ ring := 7, desc := [0x50006] }] })), 0, .host, 5, 0, { ring := 7, desc := [0x50006] }, State.tick_of (by decide +kernel), writable_of (by decide +kernel), by decide +kernel, by decide +kernel, by decide +kernel, rfl, by decide +kernel⟩,
   ⟨{ State.reset with now := ms 2, host := { tags := [(8191, { st := 3 })] } }, { State.reset with now := ms 2, host := { tags := [(8191, { st := 3 })] } }, (ms 2), 8191, State.tick_of (by decide +kernel), by decide +kernel⟩⟩

theorem test_witness_hostQueueCommandsComplete :
    (∃ (s : State) (u : State) (t : Time) (m : Master) (r : Fin 8) (v : Word), s.tick t = u ∧ u.Writable R.HOST.base) ∧
    (∃ (s : State) (u : State) (w : State) (t : Time) (e : EvRec), s.tick t = u ∧ vget u.weir.queues 4 = [e] ∧ u.bit R.HOST.EV_CFG 0 = true ∧ u.hostOk = true ∧ u.fld R.HOST.EV_CFG 4 1 = 4 ∧ u.fld R.HOST.EV_HEAD 11 0 = 0 ∧ u.fld R.HOST.EV_TAIL 11 0 = 0 ∧ ((u.hostWords (u.rg64 R.HOST.EV_BASE) [e.word 0, e.word 1, e.word 2, e.word 3]).setRg R.HOST.EV_TAIL 1).hostWords (u.rg64 R.HOST.EV_WB) [1] = w) ∧
    (∃ (s : State) (u : State) (t : Time) (m : Master) (f : Fin 2) (v : Word), s.tick t = u ∧ u.Writable R.HOST.base) ∧
    (∃ (s : State) (u : State) (t : Time) (m : Master) (v : Word), s.tick t = u ∧ u.Writable R.HOST.base ∧ 12 ≤ v.toNat % 64 ∧ bitN u.host.vecs (v.toNat % 64) = true) ∧
    (∃ (s : State) (u : State) (t : Time), s.tick t = u ∧ u.host.tags = [] ∧ u.host.cmds = [] ∧ u.pcieUp = true) ∧
    (∃ (s : State) (u : State) (t : Time) (g : Fin 4) (w : Fin 3), s.tick t = u ∧ u.pcieUp = false) ∧
    (∃ (s : State) (u : State) (t : Time) (a : BitVec 25) (w : Width), s.tick t = u ∧ u.up = true ∧ a.toNat < 0x800000 ∧ a.toNat % w.bytes = 0) ∧
    (∃ (s : State) (u : State) (v : State) (t : Time) (a : BitVec 25) (w : Width), s.tick t = u ∧ u.up = true ∧ 0x1000000 ≤ a.toNat ∧ a.toNat % w.bytes = 0 ∧ u.bistOn 3 0 = false ∧ (if w.bytes = 8 then (u.hopParity ((hopperBase + (a.toNat - 0x1000000)) / 4 * 4)).hopParity (hopperBase + (a.toNat - 0x1000000) + 4) else u.hopParity ((hopperBase + (a.toNat - 0x1000000)) / 4 * 4)) = v) :=
  ⟨⟨State.reset, State.reset, 0, .host, 0, 0, State.tick_of (by decide +kernel), writable_of (by decide +kernel)⟩,
   ⟨{ (((State.reset.putBit R.HOST.STAT 0 true).putBit R.HOST.EV_CFG 0 true).putFld R.HOST.EV_CFG 4 1 4) with weir := { queues := vupd (Vector.replicate 8 []) 4 (fun _ => [⟨0, 1, 2, 3⟩]) } }, { (((State.reset.putBit R.HOST.STAT 0 true).putBit R.HOST.EV_CFG 0 true).putFld R.HOST.EV_CFG 4 1 4) with weir := { queues := vupd (Vector.replicate 8 []) 4 (fun _ => [⟨0, 1, 2, 3⟩]) } }, _, 0, ⟨0, 1, 2, 3⟩, State.tick_of (by decide +kernel), by decide +kernel, by decide +kernel, by decide +kernel, by decide +kernel, by decide +kernel, by decide +kernel, rfl⟩,
   ⟨State.reset, State.reset, 0, .host, 0, 0, State.tick_of (by decide +kernel), writable_of (by decide +kernel)⟩,
   ⟨{ (((State.reset.setRg (R.HOST.ROUTE 0) 0xBF000001).setRg (R.PG_IRQ 0x100000) 1).setRg (R.PG_IRQ_EN 0x100000) 1) with host := { vecs := 2 ^ 63 } }, { (((State.reset.setRg (R.HOST.ROUTE 0) 0xBF000001).setRg (R.PG_IRQ 0x100000) 1).setRg (R.PG_IRQ_EN 0x100000) 1) with host := { vecs := 2 ^ 63 } }, 0, .host, 63, State.tick_of (by decide +kernel), writable_of (by decide +kernel), by decide +kernel⟩,
   ⟨(State.reset.putBit R.HOST.STAT 0 true), (State.reset.putBit R.HOST.STAT 0 true), 0, State.tick_of (by decide +kernel), by decide +kernel⟩,
   ⟨State.reset, State.reset, 0, 0, 0, State.tick_of (by decide +kernel), by decide +kernel⟩,
   ⟨State.reset, State.reset, 0, 0x7ffff8, .b64, State.tick_of (by decide +kernel), by decide +kernel⟩,
   ⟨State.reset, State.reset, _, 0, 0x1fffffc, .b32, State.tick_of (by decide +kernel), by decide +kernel, by decide +kernel, by decide +kernel, by decide +kernel, rfl⟩⟩

theorem test_witness_spiCommandsComplete :
    (∃ (s : State) (u : State) (v : State) (t : Time) (first : Time) (o : DWord) (clocks : Fin 256) (mosi : BitVec 72) (idle : Bool) (mode3 : Bool), s.tick t = u ∧ u.up = true ∧ 0 < clocks.val ∧ clocks.val < 72 ∧ u.spiOut first = (o, v)) ∧
    (∃ (s : State) (u : State) (t : Time) (first : Time) (clocks : Fin 256) (mosi : BitVec 72) (mode3 : Bool), s.tick t = u ∧ u.up = true ∧ clocks.val = 72 ∧ bitsN mosi.toNat 71 64 = 0 ∧ spiCrc (mosi.toNat / 256) = mosi.toNat % 256 ∧ u.bit (R.PG_ERRINJ R.SPI.base) 16 = false) ∧
    (∃ (s : State) (u : State) (v : State) (t : Time) (first : Time) (a : BitVec 24) (x : DWord) (mode3 : Bool), s.tick t = u ∧ u.up = true ∧ u.spi.read = none ∧ u.bit (R.PG_ERRINJ R.SPI.base) 16 = false ∧ (({ (({ u with rd := (u.spiOut first).1 } : State).putBit (R.PG_ERRINJ R.SPI.base) 16 false).putBit R.SPI.STAT 2 mode3 with spi := { u.spi with code := 0 } } : State).count R.SPI.FRAMES 31 0 1).busRead .spi (4 * a.toNat) 4 15 = (x, v)) ∧
    (∃ (s : State) (u : State) (t : Time) (first : Time) (a : BitVec 24) (w : Word) (mode3 : Bool), s.tick t = u ∧ u.up = true ∧ u.spi.read = none ∧ u.bit (R.PG_ERRINJ R.SPI.base) 16 = false) ∧
    (∃ (s : State) (u : State) (t : Time) (first : Time) (mode3 : Bool), s.tick t = u ∧ u.up = true ∧ u.spi.read = none ∧ u.bit (R.PG_ERRINJ R.SPI.base) 16 = false) ∧
    (∃ (s : State) (u : State) (t : Time) (a : Nat) (w : Word), s.tick t = u ∧ u.spi.read = some (a, w, none)) ∧
    (∃ (s : State) (u : State) (t : Time) (e : EvRec), s.tick t = u ∧ u.weir.lastEdge = floorEdge u.now ∧ u.weir.atEdge = 1 ∧ u.weir.stalled = [] ∧ firstEvent (u.weir.pend.filter (fun e => e.stamp + horizon ≤ floorEdge u.now)) = some e) :=
  ⟨⟨State.reset, State.reset, State.reset, 0, 0, 0, 71, 0, true, true, State.tick_of (by decide +kernel), by decide +kernel, by decide +kernel, by decide +kernel, rfl⟩,
   ⟨State.reset, State.reset, 0, 0, 72, 0, true, State.tick_of (by decide +kernel), by decide +kernel⟩,
   ⟨State.reset, State.reset, _, 0, 0, 0x400010, _, true, State.tick_of (by decide +kernel), by decide +kernel, by decide +kernel, by decide +kernel, rfl⟩,
   ⟨State.reset, State.reset, 0, 0, 0x400010, 0, true, State.tick_of (by decide +kernel), by decide +kernel⟩,
   ⟨State.reset, State.reset, 0, 0, true, State.tick_of (by decide +kernel), by decide +kernel⟩,
   ⟨{ State.reset with spi := { read := some (1, 2, none) } }, { State.reset with spi := { read := some (1, 2, none) } }, 0, 1, 2, State.tick_of (by decide +kernel), by decide +kernel⟩,
   ⟨{ State.reset with now := ns 320, weir := { pend := [⟨0, 1, 2, 3⟩], lastEdge := ns 320, atEdge := 1 } }, { State.reset with now := ns 320, weir := { pend := [⟨0, 1, 2, 3⟩], lastEdge := ns 320, atEdge := 1 } }, (ns 320), ⟨0, 1, 2, 3⟩, State.tick_of (by decide +kernel), by decide +kernel⟩⟩

theorem test_witness_portCommandsComplete :
    (∃ (s : State) (u : State) (v : State) (t : Time) (stamp : Time) (n : Fin 48) (line : Fin 3) (level : Bool), s.tick t = u ∧ u.en (R.FBP.base n) = true ∧ lineUsed (u.fbMode n) line = true ∧ (vget (vget u.fbp n).lines line).accStamp = none ∧ u.setFbp n (fun p => { p with lines := vupd p.lines line.val (fun l => { l with raw := level }) }) = v) ∧
    (∃ (s : State) (u : State) (v : State) (t : Time) (stamp : Time) (a : Time) (n : Fin 48) (line : Fin 3) (level : Bool), s.tick t = u ∧ u.en (R.FBP.base n) = true ∧ lineUsed (u.fbMode n) line = true ∧ (vget (vget u.fbp n).lines line).accStamp = some a ∧ u.setFbp n (fun p => { p with lines := vupd p.lines line.val (fun l => { l with raw := level }) }) = v ∧ a + u.minInt n ≤ stamp) ∧
    (∃ (s : State) (u : State) (v : State) (t : Time) (stamp : Time) (a : Time) (n : Fin 48) (line : Fin 3) (level : Bool), s.tick t = u ∧ u.en (R.FBP.base n) = true ∧ lineUsed (u.fbMode n) line = true ∧ (vget (vget u.fbp n).lines line).accStamp = some a ∧ u.setFbp n (fun p => { p with lines := vupd p.lines line.val (fun l => { l with raw := level }) }) = v ∧ stamp < a + u.minInt n) ∧
    (∃ (s : State) (u : State) (t : Time) (a : Time) (n : Fin 48) (line : Fin 3), s.tick t = u ∧ u.en (R.FBP.base n) = true ∧ (vget (vget u.fbp n).lines line).accStamp = some a ∧ a + u.minInt n ≤ u.now ∧ (vget (vget u.fbp n).lines line).rejStamped = true ∧ u.lineLevel n line = (vget (vget u.fbp n).lines line).accLevel) ∧
    (∃ (s : State) (u : State) (v : State) (t : Time) (a : Time) (n : Fin 48) (line : Fin 3), s.tick t = u ∧ u.en (R.FBP.base n) = true ∧ (vget (vget u.fbp n).lines line).accStamp = some a ∧ a + u.minInt n ≤ u.now ∧ (vget (vget u.fbp n).lines line).rejStamped = true ∧ u.lineLevel n line ≠ (vget (vget u.fbp n).lines line).accLevel ∧ u.setFbp n (fun p => { p with lines := vupd p.lines line.val (fun l => { l with rejStamped := false, rejPlain := false }) }) = v) ∧
    (∃ (s : State) (u : State) (v : State) (t : Time) (a : Time) (n : Fin 48) (line : Fin 3), s.tick t = u ∧ u.en (R.FBP.base n) = true ∧ u.fbMode n < 2 ∧ (vget (vget u.fbp n).lines line).accStamp = some a ∧ a + u.minInt n ≤ u.now ∧ (vget (vget u.fbp n).lines line).rejStamped = false ∧ (vget (vget u.fbp n).lines line).rejPlain = true ∧ u.lineLevel n line ≠ (vget (vget u.fbp n).lines line).accLevel ∧ u.setFbp n (fun p => { p with lines := vupd p.lines line.val (fun l => { l with rejStamped := false, rejPlain := false }) }) = v) ∧
    (∃ (s : State) (u : State) (t : Time) (l : Time) (n : Fin 48), s.tick t = u ∧ (vget u.fbp n).glLast = some l ∧ 0 < (vget u.fbp n).glCount ∧ l + us 1 ≤ u.now) ∧
    (∃ (s : State) (u : State) (t : Time) (m : Master) (n : Fin 48) (v : Word), s.tick t = u ∧ u.Writable (R.FBP.base n) ∧ u.en (R.FBP.base n) = false ∧ bitsN v.toNat 3 0 < 6 ∧ bitsN v.toNat 18 17 ≠ 3) :=
  ⟨⟨(State.reset.putBit (R.PG_CTRL (R.FBP.base 47)) 0 true), (State.reset.putBit (R.PG_CTRL (R.FBP.base 47)) 0 true), _, 0, 0, 47, 2, true, State.tick_of (by decide +kernel), by decide +kernel, by decide +kernel, by decide +kernel, rfl⟩,
   ⟨(State.reset.putBit (R.PG_CTRL (R.FBP.base 47)) 0 true).setFbp 47 (fun p => { p with lines := vupd p.lines 2 (fun l => { l with accStamp := some 0 }) }), (State.reset.putBit (R.PG_CTRL (R.FBP.base 47)) 0 true).setFbp 47 (fun p => { p with lines := vupd p.lines 2 (fun l => { l with accStamp := some 0 }) }), _, 0, (ns 5), 0, 47, 2, true, State.tick_of (by decide +kernel), by decide +kernel, by decide +kernel, by decide +kernel, rfl, by decide +kernel⟩,
   ⟨(State.reset.putBit (R.PG_CTRL (R.FBP.base 47)) 0 true).setFbp 47 (fun p => { p with lines := vupd p.lines 2 (fun l => { l with accStamp := some 0 }) }), (State.reset.putBit (R.PG_CTRL (R.FBP.base 47)) 0 true).setFbp 47 (fun p => { p with lines := vupd p.lines 2 (fun l => { l with accStamp := some 0 }) }), _, 0, 79, 0, 47, 2, true, State.tick_of (by decide +kernel), by decide +kernel, by decide +kernel, by decide +kernel, rfl, by decide +kernel⟩,
   ⟨(({ State.reset with now := ms 10 }).putBit (R.PG_CTRL (R.FBP.base 47)) 0 true).setFbp 47 (fun p => { p with lines := vupd p.lines 2 (fun l => { l with accStamp := some 0, rejStamped := true }) }), (({ State.reset with now := ms 10 }).putBit (R.PG_CTRL (R.FBP.base 47)) 0 true).setFbp 47 (fun p => { p with lines := vupd p.lines 2 (fun l => { l with accStamp := some 0, rejStamped := true }) }), (ms 10), 0, 47, 2, State.tick_of (by decide +kernel), by decide +kernel⟩,
   ⟨(({ State.reset with now := ms 10 }).putBit (R.PG_CTRL (R.FBP.base 47)) 0 true).setFbp 47 (fun p => { p with lines := vupd p.lines 2 (fun l => { l with accStamp := some 0, accLevel := true, rejStamped := true }) }), (({ State.reset with now := ms 10 }).putBit (R.PG_CTRL (R.FBP.base 47)) 0 true).setFbp 47 (fun p => { p with lines := vupd p.lines 2 (fun l => { l with accStamp := some 0, accLevel := true, rejStamped := true }) }), _, (ms 10), 0, 47, 2, State.tick_of (by decide +kernel), by decide +kernel, by decide +kernel, by decide +kernel, by decide +kernel, by decide +kernel, rfl⟩,
   ⟨(({ State.reset with now := ms 10 }).putBit (R.PG_CTRL (R.FBP.base 47)) 0 true).setFbp 47 (fun p => { p with lines := vupd p.lines 2 (fun l => { l with accStamp := some 0, accLevel := true, rejPlain := true }) }), (({ State.reset with now := ms 10 }).putBit (R.PG_CTRL (R.FBP.base 47)) 0 true).setFbp 47 (fun p => { p with lines := vupd p.lines 2 (fun l => { l with accStamp := some 0, accLevel := true, rejPlain := true }) }), _, (ms 10), 0, 47, 2, State.tick_of (by decide +kernel), by decide +kernel, by decide +kernel, by decide +kernel, by decide +kernel, by decide +kernel, by decide +kernel, by decide +kernel, rfl⟩,
   ⟨({ State.reset with now := us 1 }).setFbp 47 (fun p => { p with glLast := some 0, glCount := 1 }), ({ State.reset with now := us 1 }).setFbp 47 (fun p => { p with glLast := some 0, glCount := 1 }), (us 1), 0, 47, State.tick_of (by decide +kernel), by decide +kernel⟩,
   ⟨State.reset, State.reset, 0, .host, 0, 5, State.tick_of (by decide +kernel), writable_of (by decide +kernel), by decide +kernel⟩⟩

theorem test_witness_portCommandsComplete_2 :
    (∃ (s : State) (u : State) (t : Time) (m : Master) (n : Fin 48) (v : Word), s.tick t = u ∧ u.Writable (R.FBP.base n) ∧ u.en (R.FBP.base n) = true) ∧
    (∃ (s : State) (u : State) (t : Time) (m : Master) (n : Fin 48), s.tick t = u ∧ u.Writable (R.FBP.base n) ∧ u.en (R.FBP.base n) = false) ∧
    (∃ (s : State) (u : State) (t : Time) (m : Master) (n : Fin 48), s.tick t = u ∧ u.Writable (R.FBP.base n) ∧ u.fbSat n = false ∧ ((u.posValid n = true ∨ (vget u.fbp n).lost = .limit)) ∧ u.fbLo n ≤ u.fbPlace n ∧ u.fbPlace n ≤ u.fbHi n) ∧
    (∃ (s : State) (u : State) (v : State) (t : Time) (m : Master) (n : Fin 48), s.tick t = u ∧ u.Writable (R.FBP.base n) ∧ u.setCounter n (u.sgn64 (R.FBP.POS_SET_VAL n)) (ceilEdge u.now) = v ∧ ((u.fbMode n < 3 ∨ (vget u.fbp n).lost ≠ .fault))) ∧
    (∃ (s : State) (u : State) (v : State) (t : Time) (m : Master) (n : Fin 48), s.tick t = u ∧ u.Writable (R.FBP.base n) ∧ u.setCounter n (u.sgn64 (R.FBP.POS_SET_VAL n)) (ceilEdge u.now) = v ∧ 3 ≤ u.fbMode n ∧ (vget u.fbp n).lost = .fault) ∧
    (∃ (s : State) (u : State) (t : Time) (m : Master) (n : Fin 48), s.tick t = u ∧ u.Writable (R.FBP.base n) ∧ u.fbMode n = 0) ∧
    (∃ (s : State) (u : State) (t : Time) (m : Master) (n : Fin 48), s.tick t = u ∧ u.Writable (R.FBP.base n) ∧ u.fbMode n = 0) ∧
    (∃ (s : State) (u : State) (t : Time) (m : Master) (n : Fin 48), s.tick t = u ∧ u.Writable (R.FBP.base n) ∧ 3 ≤ u.fbMode n) :=
  ⟨⟨(State.reset.putBit (R.PG_CTRL (R.FBP.base 47)) 0 true), (State.reset.putBit (R.PG_CTRL (R.FBP.base 47)) 0 true), 0, .host, 47, 0, State.tick_of (by decide +kernel), writable_of (by decide +kernel), by decide +kernel⟩,
   ⟨State.reset, State.reset, 0, .host, 0, State.tick_of (by decide +kernel), writable_of (by decide +kernel), by decide +kernel⟩,
   ⟨(State.reset.setFbp 47 (fun p => { p with lost := .limit })), (State.reset.setFbp 47 (fun p => { p with lost := .limit })), 0, .host, 47, State.tick_of (by decide +kernel), writable_of (by decide +kernel), by decide +kernel⟩,
   ⟨State.reset, State.reset, _, 0, .host, 47, State.tick_of (by decide +kernel), writable_of (by decide +kernel), rfl, by decide +kernel⟩,
   ⟨(State.reset.putFld (R.FBP.CTRL 47) 3 0 3).setFbp 47 (fun p => { p with lost := .fault }), (State.reset.putFld (R.FBP.CTRL 47) 3 0 3).setFbp 47 (fun p => { p with lost := .fault }), _, 0, .host, 47, State.tick_of (by decide +kernel), writable_of (by decide +kernel), rfl, by decide +kernel⟩,
   ⟨State.reset, State.reset, 0, .host, 0, State.tick_of (by decide +kernel), writable_of (by decide +kernel), by decide +kernel⟩,
   ⟨State.reset, State.reset, 0, .host, 0, State.tick_of (by decide +kernel), writable_of (by decide +kernel), by decide +kernel⟩,
   ⟨(State.reset.putFld (R.FBP.CTRL 47) 3 0 3), (State.reset.putFld (R.FBP.CTRL 47) 3 0 3), 0, .host, 47, State.tick_of (by decide +kernel), writable_of (by decide +kernel), by decide +kernel⟩⟩

theorem test_witness_portCommandsComplete_3 :
    (∃ (s : State) (u : State) (t : Time) (m : Master) (n : Fin 48) (v : DWord), s.tick t = u ∧ u.Writable (R.FBP.base n) ∧ in48 v.toNat = true ∧ u.fbLo n ≤ sx 64 v.toNat ∧ u.fbLo n ≤ u.fbCount n ∧ u.fbCount n ≤ sx 64 v.toNat) ∧
    (∃ (s : State) (u : State) (t : Time) (m : Master) (n : Fin 48) (v : DWord), s.tick t = u ∧ u.Writable (R.FBP.base n) ∧ in48 v.toNat = true ∧ sx 64 v.toNat < u.fbLo n) ∧
    (∃ (s : State) (u : State) (t : Time) (tk : Time) (n : Fin 48), s.tick t = u ∧ u.en (R.FBP.base n) = true ∧ u.fbMode n = 4 ∧ u.requestAt n tk = true ∧ tk - ns (u.fld (R.FBP.SER_LEAD n) 19 0) ≤ u.now ∧ (vget u.fbp n).endPrev = none ∧ (vget u.fbp n).req = none) ∧
    (∃ (s : State) (u : State) (v : State) (t : Time) (tr : Time) (tk : Time) (n : Fin 48) (d : List Bool) (crc : List Bool), s.tick t = u ∧ (vget u.fbp n).req = some (tr, tk) ∧ u.fbMode n = 4 ∧ u.bit (R.PG_ERRINJ (R.FBP.base n)) 17 = false ∧ u.fld (R.FBP.SER_CRC n) 20 20 = 0 ∧ (u.setFbp n (fun p => { p with req := none, endPrev := some u.now })).setRg64 (R.FBP.SER_RAW n) (ofBitsMsb d % 2 ^ u.fld (R.FBP.SER_CFG n) 5 0) = v ∧ v.bit (R.PG_ERRINJ (R.FBP.base n)) 17 = false ∧ v.rg (R.FBP.SER_CRC n) = u.rg (R.FBP.SER_CRC n) ∧ crcMsb (u.fld (R.FBP.SER_CRC n) 19 16 + 1) (u.fld (R.FBP.SER_CRC n) 15 0) 0 (bitsMsb (u.fld (R.FBP.SER_CFG n) 5 0) (ofBitsMsb d % 2 ^ u.fld (R.FBP.SER_CFG n) 5 0)) ≠ ofBitsMsb crc % 2 ^ (u.fld (R.FBP.SER_CRC n) 19 16 + 1)) ∧
    (∃ (s : State) (u : State) (v : State) (t : Time) (tr : Time) (tk : Time) (n : Fin 48) (d : List Bool) (crc : List Bool), s.tick t = u ∧ (vget u.fbp n).req = some (tr, tk) ∧ u.fbMode n = 3 ∧ u.bit (R.PG_ERRINJ (R.FBP.base n)) 17 = false ∧ u.bit (R.FBP.SER_CFG n) 9 = false ∧ tr + ns ((u.fld (R.FBP.SER_CFG n) 5 0 + 1) * u.fld (R.FBP.SER_CLK n) 13 0 + u.fld (R.FBP.SER_CFG n) 25 16) ≤ u.now ∧ u.now ≤ tk ∧ (u.setFbp n (fun p => { p with req := none, endPrev := some (tr + ns ((u.fld (R.FBP.SER_CFG n) 5 0 + 1) * u.fld (R.FBP.SER_CLK n) 13 0 + u.fld (R.FBP.SER_CFG n) 25 16)) })).setRg64 (R.FBP.SER_RAW n) (ofBitsMsb d % 2 ^ u.fld (R.FBP.SER_CFG n) 5 0) = v ∧ v.bit (R.PG_ERRINJ (R.FBP.base n)) 17 = false ∧ v.fbMode n = 3 ∧ v.fld (R.FBP.SER_LAT n) 19 0 = u.fld (R.FBP.SER_LAT n) 19 0) ∧
    (∃ (s : State) (u : State) (t : Time) (tr : Time) (tk : Time) (n : Fin 48), s.tick t = u ∧ (vget u.fbp n).req = some (tr, tk) ∧ u.fbMode n = 4 ∧ tr + ns (u.fld (R.FBP.SER_TMO n) 19 0) ≤ u.now) ∧
    (∃ (s : State) (u : State) (t : Time) (fall : Time) (n : Fin 48) (sync : Nat) (status : Fin 16) (crc : Fin 16) (d : List Nat), s.tick t = u ∧ u.en (R.FBP.base n) = true ∧ u.fbMode n = 5 ∧ 5 * (56 * ns (u.fld (R.FBP.SENT_CFG n) 16 0)) < 4 * sync) ∧
    (∃ (s : State) (u : State) (v : State) (t : Time) (fall : Time) (n : Fin 48) (sync : Nat) (status : Fin 16) (crc : Fin 16) (d : List Nat), s.tick t = u ∧ u.en (R.FBP.base n) = true ∧ u.fbMode n = 5 ∧ 3 * (56 * ns (u.fld (R.FBP.SENT_CFG n) 16 0)) ≤ 4 * sync ∧ 4 * sync ≤ 5 * (56 * ns (u.fld (R.FBP.SENT_CFG n) 16 0)) ∧ (vget u.fbp n).sync = none ∧ sentCrc4 (u.bit (R.FBP.SENT_CFG n) 20) ((d.map (· % 16)).take (u.fld (R.FBP.SENT_CFG n) 19 17)) = crc.val ∧ ((u.setFbp n (fun p => { p with sync := some sync })).setRg64 (R.FBP.SER_RAW n) (((d.map (· % 16)).take (u.fld (R.FBP.SENT_CFG n) 19 17)).foldl (fun a x => a * 16 + x) 0)).sentSlow n status = v ∧ v.fld (R.FBP.SER_LAT n) 19 0 = u.fld (R.FBP.SER_LAT n) 19 0) :=
  ⟨⟨State.reset, State.reset, 0, .host, 0, 0, State.tick_of (by decide +kernel), writable_of (by decide +kernel), by decide +kernel⟩,
   ⟨(State.reset.setRg64 (R.FBP.LIM_LO 0) 1), (State.reset.setRg64 (R.FBP.LIM_LO 0) 1), 0, .host, 0, 0, State.tick_of (by decide +kernel), writable_of (by decide +kernel), by decide +kernel⟩,
   ⟨{ ((((State.reset.putFld (R.FBP.CTRL 47) 3 0 4).putBit (R.PG_CTRL (R.FBP.base 47)) 0 true).putFld (R.SLUICE.AX_CFG 63) 1 0 1).putBit (R.SLUICE.AX_CTRL 63) 0 true).setAx 63 (fun x => { x with next := some (ms 1) }) with now := ms 1, fbSel := vupd State.reset.fbSel 63 (fun f => { f with sel := 0x6f }) }, { ((((State.reset.putFld (R.FBP.CTRL 47) 3 0 4).putBit (R.PG_CTRL (R.FBP.base 47)) 0 true).putFld (R.SLUICE.AX_CFG 63) 1 0 1).putBit (R.SLUICE.AX_CTRL 63) 0 true).setAx 63 (fun x => { x with next := some (ms 1) }) with now := ms 1, fbSel := vupd State.reset.fbSel 63 (fun f => { f with sel := 0x6f }) }, (ms 1), (ms 1), 47, State.tick_of (by decide +kernel), by decide +kernel⟩,
   ⟨((State.reset.putFld (R.FBP.CTRL 47) 3 0 4).setRg (R.FBP.SER_CRC 47) 0).setFbp 47 (fun p => { p with req := some (0, 0) }), ((State.reset.putFld (R.FBP.CTRL 47) 3 0 4).setRg (R.FBP.SER_CRC 47) 0).setFbp 47 (fun p => { p with req := some (0, 0) }), _, 0, 0, 0, 47, [], [true], State.tick_of (by decide +kernel), by decide +kernel, by decide +kernel, by decide +kernel, by decide +kernel, rfl, by decide +kernel⟩,
   ⟨((({ State.reset with now := ms 10 }).putFld (R.FBP.CTRL 47) 3 0 3)).setFbp 47 (fun p => { p with req := some (0, ms 10) }), ((({ State.reset with now := ms 10 }).putFld (R.FBP.CTRL 47) 3 0 3)).setFbp 47 (fun p => { p with req := some (0, ms 10) }), _, (ms 10), 0, (ms 10), 47, [true, false, true], [], State.tick_of (by decide +kernel), by decide +kernel, by decide +kernel, by decide +kernel, by decide +kernel, by decide +kernel, by decide +kernel, rfl, by decide +kernel⟩,
   ⟨((({ State.reset with now := ms 100 }).putFld (R.FBP.CTRL 47) 3 0 4)).setFbp 47 (fun p => { p with req := some (0, 0) }), ((({ State.reset with now := ms 100 }).putFld (R.FBP.CTRL 47) 3 0 4)).setFbp 47 (fun p => { p with req := some (0, 0) }), (ms 100), 0, 0, 47, State.tick_of (by decide +kernel), by decide +kernel⟩,
   ⟨(State.reset.putFld (R.FBP.CTRL 47) 3 0 5).putBit (R.PG_CTRL (R.FBP.base 47)) 0 true, (State.reset.putFld (R.FBP.CTRL 47) 3 0 5).putBit (R.PG_CTRL (R.FBP.base 47)) 0 true, 0, 0, 47, 1000000000, 0, 0, [], State.tick_of (by decide +kernel), by decide +kernel⟩,
   ⟨(State.reset.putFld (R.FBP.CTRL 47) 3 0 5).putBit (R.PG_CTRL (R.FBP.base 47)) 0 true, (State.reset.putFld (R.FBP.CTRL 47) 3 0 5).putBit (R.PG_CTRL (R.FBP.base 47)) 0 true, _, 0, 0, 47, (56 * ns (State.reset.fld (R.FBP.SENT_CFG 47) 16 0)), 0, (BitVec.toFin (BitVec.ofNat 4 (sentCrc4 (State.reset.bit (R.FBP.SENT_CFG 47) 20) (([1, 2, 3, 4, 5, 6]).take (State.reset.fld (R.FBP.SENT_CFG 47) 19 17))))), [1, 2, 3, 4, 5, 6], State.tick_of (by decide +kernel), by decide +kernel, by decide +kernel, by decide +kernel, by decide +kernel, by decide +kernel, by decide +kernel, rfl, by decide +kernel⟩⟩

theorem test_witness_portCommandsComplete_4 :
    (∃ (s : State) (u : State) (t : Time) (n : Fin 48), s.tick t = u ∧ u.en (R.FBP.base n) = true ∧ u.fbMode n = 5 ∧ (vget u.fbp n).sentLast + ns (u.fld (R.FBP.SER_TMO n) 19 0) ≤ u.now) ∧
    (∃ (s : State) (u : State) (t : Time) (n : Fin 48) (p : Fin 8), s.tick t = u ∧ u.en (R.FBP.base n) = true ∧ u.fbMode n = 0 ∧ u.fld (R.FBP.CTRL n) 6 4 = 0 ∧ p.val ≠ 0) ∧
    (∃ (s : State) (u : State) (t : Time) (st : Time) (n : Fin 48) (a : Fin 64) (b : Fin 64), s.tick t = u ∧ (vget u.fbp n).stall.find? (fun x => x.1 == a.val) = some (b.val, st) ∧ st + us (u.fld (R.FBP.DIAG_INT n) 13 0) ≤ u.now ∧ u.fbMode n < 3) ∧
    (∃ (s : State) (u : State) (t : Time) (m : Master) (n : Fin 48) (v : Word), s.tick t = u ∧ u.Writable (R.FBP.base n) ∧ u.rg (R.FBP.FAULT n) &&& ~~~v ≠ 0) ∧
    (∃ (s : State) (u : State) (t : Time) (m : Master) (n : Fin 48) (v : Word), s.tick t = u ∧ u.Writable (R.FBP.base n) ∧ u.rg (R.FBP.FAULT n) ≠ 0 ∧ u.rg (R.FBP.FAULT n) &&& ~~~v = 0) ∧
    (∃ (s : State) (u : State) (t : Time) (m : Master) (a : Fin 64) (v : Word), s.tick t = u ∧ u.Writable (R.AXIS.base a)) :=
  ⟨⟨((({ State.reset with now := ms 100 }).putFld (R.FBP.CTRL 47) 3 0 5)).putBit (R.PG_CTRL (R.FBP.base 47)) 0 true, ((({ State.reset with now := ms 100 }).putFld (R.FBP.CTRL 47) 3 0 5)).putBit (R.PG_CTRL (R.FBP.base 47)) 0 true, (ms 100), 47, State.tick_of (by decide +kernel), by decide +kernel⟩,
   ⟨(State.reset.putBit (R.PG_CTRL (R.FBP.base 47)) 0 true), (State.reset.putBit (R.PG_CTRL (R.FBP.base 47)) 0 true), 0, 47, 7, State.tick_of (by decide +kernel), by decide +kernel⟩,
   ⟨({ State.reset with now := sec 1 }).setFbp 47 (fun p => { p with stall := [(63, 0)] }), ({ State.reset with now := sec 1 }).setFbp 47 (fun p => { p with stall := [(63, 0)] }), (sec 1), 0, 47, 63, 63, State.tick_of (by decide +kernel), by decide +kernel⟩,
   ⟨(State.reset.setRg (R.FBP.FAULT 47) 3), (State.reset.setRg (R.FBP.FAULT 47) 3), 0, .host, 47, 1, State.tick_of (by decide +kernel), writable_of (by decide +kernel), by decide +kernel⟩,
   ⟨(State.reset.setRg (R.FBP.FAULT 47) 3), (State.reset.setRg (R.FBP.FAULT 47) 3), 0, .host, 47, 3, State.tick_of (by decide +kernel), writable_of (by decide +kernel), by decide +kernel⟩,
   ⟨State.reset, State.reset, 0, .host, 63, 0, State.tick_of (by decide +kernel), writable_of (by decide +kernel)⟩⟩

theorem test_witness_pwmCommandsComplete :
    (∃ (s : State) (u : State) (v : State) (t : Time) (m : Master) (n : Fin 48), s.tick t = u ∧ u.Writable (R.PWM.base n) ∧ u.en (R.PWM.base n) = false ∧ u.putBit (R.PG_CTRL (R.PWM.base n)) 0 true = v) ∧
    (∃ (s : State) (u : State) (t : Time) (m : Master) (n : Fin 48) (v : Word), s.tick t = u ∧ u.Writable (R.PWM.base n) ∧ ((u.en (R.PWM.base n) = true ∨ bitsN v.toNat 1 0 = 3 ∨ bitsN v.toNat 4 3 = 3 ∨ bitsN v.toNat 6 5 = 3))) ∧
    (∃ (s : State) (u : State) (w : State) (t : Time) (m : Master) (n : Fin 48) (v : Word), s.tick t = u ∧ u.Writable (R.PWM.base n) ∧ u.en (R.PWM.base n) = false ∧ bitsN v.toNat 1 0 ≠ 3 ∧ bitsN v.toNat 4 3 ≠ 3 ∧ bitsN v.toNat 6 5 ≠ 3 ∧ (u.writeReg m (R.PWM.base n) (R.PWM.CTRL n) v.toNat).chopInactive n = w) ∧
    (∃ (s : State) (u : State) (t : Time) (e : Time) (n : Fin 48) (x : Nat), s.tick t = u ∧ (u.pw n).pause = some (e, x) ∧ e ≤ u.now) ∧
    (∃ (s : State) (u : State) (t : Time) (n : Fin 48), s.tick t = u) ∧
    (∃ (s : State) (u : State) (t : Time) (n : Fin 48) (level : Bool), s.tick t = u ∧ (vget (u.pw n).filt 1).raw = level ∧ u.tripLen n 1 ≠ 0 ∧ (vget (u.pw n).filt 1).out = level ∧ (vget (u.pw n).filt 1).left = none ∧ (u.pw n).tripFrom ≤ u.now) ∧
    (∃ (s : State) (u : State) (t : Time) (n : Fin 48) (k : Fin 18) (b : Bool), s.tick t = u ∧ (vget (u.pw n).filt k).raw = b ∧ (vget (u.pw n).filt k).out ≠ b ∧ u.tripDue n k (vget (u.pw n).filt k).since ≤ u.now) ∧
    (∃ (s : State) (u : State) (t : Time) (m : Master) (n : Fin 48) (port : Fin 64), s.tick t = u ∧ u.Writable (R.PWM.base n)) :=
  ⟨⟨State.reset, State.reset, _, 0, .host, 47, State.tick_of (by decide +kernel), writable_of (by decide +kernel), by decide +kernel, rfl⟩,
   ⟨State.reset, State.reset, 0, .host, 0, 3, State.tick_of (by decide +kernel), writable_of (by decide +kernel), by decide +kernel⟩,
   ⟨State.reset, State.reset, _, 0, .host, 47, 0, State.tick_of (by decide +kernel), writable_of (by decide +kernel), by decide +kernel, by decide +kernel, by decide +kernel, by decide +kernel, rfl⟩,
   ⟨(State.reset.setPw 47 (fun p => { p with pause := some (0, 1) })), (State.reset.setPw 47 (fun p => { p with pause := some (0, 1) })), 0, 0, 47, 1, State.tick_of (by decide +kernel), by decide +kernel⟩,
   ⟨State.reset, State.reset, 0, 0, State.tick_of (by decide +kernel)⟩,
   ⟨(State.reset.setRg (R.PWM.TRIP_LEN 47) 0xff00), (State.reset.setRg (R.PWM.TRIP_LEN 47) 0xff00), 0, 47, false, State.tick_of (by decide +kernel), by decide +kernel⟩,
   ⟨({ State.reset with now := sec 1 }).setPw 47 (fun p => { p with filt := vupd p.filt 17 (fun f => { f with raw := true }) }), ({ State.reset with now := sec 1 }).setPw 47 (fun p => { p with filt := vupd p.filt 17 (fun f => { f with raw := true }) }), (sec 1), 47, 17, true, State.tick_of (by decide +kernel), by decide +kernel⟩,
   ⟨State.reset, State.reset, 0, .host, 47, 47, State.tick_of (by decide +kernel), writable_of (by decide +kernel)⟩⟩

theorem test_witness_pwmCommandsComplete_2 :
    (∃ (s : State) (u : State) (v : State) (t : Time) (c : Time) (n : Fin 48) (h : Nat), s.tick t = u ∧ (u.pw n).commPend = [(c, h, c)] ∧ c ≤ u.now ∧ u.setPw n (fun p => { p with commPend := p.commPend.erase (c, h, c) }) = v) ∧
    (∃ (s : State) (u : State) (t : Time) (m : Master) (n : Fin 48) (v : Word), s.tick t = u ∧ u.Writable (R.PWM.base n) ∧ u.maskValid n (bitsN v.toNat 15 0) = true ∧ u.bit (R.PWM.OVR_MASK n) 16 = false ∧ bitN v.toNat 16 = true) ∧
    (∃ (s : State) (u : State) (t : Time) (m : Master) (n : Fin 48) (v : Word), s.tick t = u ∧ u.Writable (R.PWM.base n) ∧ u.maskValid n (bitsN v.toNat 15 0) = false) :=
  ⟨⟨(State.reset.setPw 47 (fun p => { p with commPend := [(0, 5, 0)] })), (State.reset.setPw 47 (fun p => { p with commPend := [(0, 5, 0)] })), _, 0, 0, 47, 5, State.tick_of (by decide +kernel), by decide +kernel, by decide +kernel, rfl⟩,
   ⟨State.reset, State.reset, 0, .host, 47, 0x10000, State.tick_of (by decide +kernel), writable_of (by decide +kernel), by decide +kernel⟩,
   ⟨State.reset, State.reset, 0, .host, 47, 0x10003, State.tick_of (by decide +kernel), writable_of (by decide +kernel), by decide +kernel⟩⟩

theorem test_witness_protectionCommandsComplete :
    (∃ (s : State) (u : State) (t : Time) (m : Master) (n : Fin 48), s.tick t = u ∧ u.Writable (R.PSP.base n) ∧ u.en (R.PSP.base n) = false) ∧
    (∃ (s : State) (u : State) (t : Time) (t0 : Time) (n : Fin 48), s.tick t = u ∧ (u.ps n).degAt = some t0 ∧ u.slotLevel n = 2 ∧ t0 + ms (nz (u.fld (R.PSP.DEG_TIME n) 15 0)) ≤ u.now) ∧
    (∃ (s : State) (u : State) (t : Time) (t0 : Time) (n : Fin 48), s.tick t = u ∧ (u.ps n).stopAt = some t0 ∧ (u.ps n).degAt = none ∧ u.slotLevel n = 3 ∧ t0 + ms (nz (u.fld (R.PSP.STOP_TMAX n) 15 0)) ≤ u.now) ∧
    (∃ (s : State) (u : State) (t : Time) (m : Master) (n : Fin 48) (v : Word), s.tick t = u ∧ u.Writable (R.PSP.base n) ∧ ((m = .spi ∨ m = .debug))) ∧
    (∃ (s : State) (u : State) (t : Time) (m : Master) (n : Fin 48) (v : Word), s.tick t = u ∧ u.Writable (R.PSP.base n) ∧ m ≠ .spi ∧ m ≠ .debug ∧ (u.ps n).test = none) ∧
    (∃ (s : State) (u : State) (t : Time) (m : Master) (n : Fin 48) (v : Word), s.tick t = u ∧ u.Writable (R.PSP.base n) ∧ m ≠ .spi ∧ m ≠ .debug ∧ (u.ps n).test ≠ none) ∧
    (∃ (s : State) (u : State) (t : Time) (d : Time) (n : Fin 48) (l : Nat), s.tick t = u ∧ u.bw.reqs.find? (fun r => r.1 == n.val && decide (r.2.2 ≤ u.now)) = some (n.val, l, d)) ∧
    (∃ (s : State) (u : State) (t : Time) (d : Time) (n : Fin 48) (g : Bool), s.tick t = u ∧ u.bw.gateReqs.filter (fun r => r.1 == n.val && decide (r.2.2 ≤ u.now)) = [(n.val, g, d)]) :=
  ⟨⟨State.reset, State.reset, 0, .host, 47, State.tick_of (by decide +kernel), writable_of (by decide +kernel), by decide +kernel⟩,
   ⟨((({ State.reset with now := sec 100 }).setRg (R.PSP.BW_REQ 47) 2).putFld (R.PSP.STAT 47) 2 0 2).setPs 47 (fun p => { p with degAt := some 0 }), ((({ State.reset with now := sec 100 }).setRg (R.PSP.BW_REQ 47) 2).putFld (R.PSP.STAT 47) 2 0 2).setPs 47 (fun p => { p with degAt := some 0 }), (sec 100), 0, 47, State.tick_of (by decide +kernel), by decide +kernel⟩,
   ⟨((({ State.reset with now := sec 100 }).setRg (R.PSP.BW_REQ 47) 3).putFld (R.PSP.STAT 47) 2 0 3).setPs 47 (fun p => { p with stopAt := some 0 }), ((({ State.reset with now := sec 100 }).setRg (R.PSP.BW_REQ 47) 3).putFld (R.PSP.STAT 47) 2 0 3).setPs 47 (fun p => { p with stopAt := some 0 }), (sec 100), 0, 47, State.tick_of (by decide +kernel), by decide +kernel⟩,
   ⟨State.reset, State.reset, 0, .debug, 47, 0, State.tick_of (by decide +kernel), writable_of (by decide +kernel), by decide +kernel⟩,
   ⟨State.reset, State.reset, 0, .host, 47, 0, State.tick_of (by decide +kernel), writable_of (by decide +kernel), by decide +kernel⟩,
   ⟨(State.reset.setPs 47 (fun p => { p with test := some ⟨0, false, false, false, 0, 0, false, none, false, 0, 0, 0⟩ })), (State.reset.setPs 47 (fun p => { p with test := some ⟨0, false, false, false, 0, 0, false, none, false, 0, 0, 0⟩ })), 0, .host, 47, 0, State.tick_of (by decide +kernel), writable_of (by decide +kernel), by decide +kernel⟩,
   ⟨{ State.reset with bw := { State.reset.bw with reqs := [(47, 5, 0)] } }, { State.reset with bw := { State.reset.bw with reqs := [(47, 5, 0)] } }, 0, 0, 47, 5, State.tick_of (by decide +kernel), by decide +kernel⟩,
   ⟨{ State.reset with bw := { State.reset.bw with gateReqs := [(47, true, 0), (47, false, 5)] } }, { State.reset with bw := { State.reset.bw with gateReqs := [(47, true, 0), (47, false, 5)] } }, 0, 0, 47, true, State.tick_of (by decide +kernel), by decide +kernel⟩⟩

theorem test_witness_protectionCommandsComplete_2 :
    (∃ (s : State) (u : State) (t : Time) (m : Master) (n : Fin 48) (v : Word), s.tick t = u ∧ u.Writable (R.PSP.base n) ∧ u.testRefused n v.toNat = true) ∧
    (∃ (s : State) (u : State) (t : Time) (m : Master) (n : Fin 48) (v : Word), s.tick t = u ∧ u.Writable (R.PSP.base n) ∧ u.testRefused n v.toNat = false) ∧
    (∃ (s : State) (u : State) (v : State) (t : Time) (n : Fin 48) (ts : TestSt) (line : List Time × List (Time × Bool)), s.tick t = u ∧ (u.ps n).test = some ts ∧ ts.clear = false ∧ ts.flag0 = false ∧ u.testUpdate n ts line.1 line.2 = v ∧ v.testFlag n ts.target ts.side = true ∧ v.now ≤ ts.limit) ∧
    (∃ (s : State) (u : State) (v : State) (t : Time) (n : Fin 48) (ts : TestSt) (line : List Time × List (Time × Bool)), s.tick t = u ∧ (u.ps n).test = some ts ∧ ts.clear = true ∧ ts.flag0 = true ∧ ts.firstOk = true ∧ u.testUpdate n ts line.1 line.2 = v ∧ v.testFlag n ts.target ts.side = false ∧ v.now ≤ ts.limit) ∧
    (∃ (s : State) (u : State) (v : State) (t : Time) (n : Fin 48) (ts : TestSt) (line : List Time × List (Time × Bool)), s.tick t = u ∧ (u.ps n).test = some ts ∧ u.testUpdate n ts line.1 line.2 = v ∧ v.testFlag n ts.target ts.side = ts.flag0 ∧ ts.limit ≤ v.now ∧ v.testImpossible n ts = false ∧ ts.clear = false) ∧
    (∃ (s : State) (u : State) (v : State) (t : Time) (n : Fin 48) (ts : TestSt) (line : List Time × List (Time × Bool)), s.tick t = u ∧ (u.ps n).test = some ts ∧ u.testUpdate n ts line.1 line.2 = v ∧ v.testFlag n ts.target ts.side = ts.flag0 ∧ ts.limit ≤ v.now ∧ v.testImpossible n ts = false ∧ ts.clear = true ∧ ts.firstOk = true) ∧
    (∃ (s : State) (u : State) (t : Time) (n : Fin 48), s.tick t = u) :=
  ⟨⟨State.reset, State.reset, 0, .host, 0, 7, State.tick_of (by decide +kernel), writable_of (by decide +kernel), by decide +kernel⟩,
   ⟨(({ State.reset with now := sec 1 }).putBit (R.SDM.CMP_CFG 47 0) 0 true), (({ State.reset with now := sec 1 }).putBit (R.SDM.CMP_CFG 47 0) 0 true), (sec 1), .host, 47, 0, State.tick_of (by decide +kernel), writable_of (by decide +kernel), by decide +kernel⟩,
   ⟨(State.reset.putBit (R.SDM.CMP_STAT 47) 0 true).setPs 47 (fun p => { p with test := some ⟨0, false, true, false, 0, 0, false, none, false, 0, 0, 0⟩ }), (State.reset.putBit (R.SDM.CMP_STAT 47) 0 true).setPs 47 (fun p => { p with test := some ⟨0, false, true, false, 0, 0, false, none, false, 0, 0, 0⟩ }), _, 0, 47, ⟨0, false, true, false, 0, 0, false, none, false, 0, 0, 0⟩, ([], []), State.tick_of (by decide +kernel), by decide +kernel, by decide +kernel, by decide +kernel, rfl, by decide +kernel⟩,
   ⟨(State.reset.setPs 47 (fun p => { p with test := some ⟨0, false, true, true, 0, 0, true, some 0, true, 0, 0, 0⟩ })), (State.reset.setPs 47 (fun p => { p with test := some ⟨0, false, true, true, 0, 0, true, some 0, true, 0, 0, 0⟩ })), _, 0, 47, ⟨0, false, true, true, 0, 0, true, some 0, true, 0, 0, 0⟩, ([], []), State.tick_of (by decide +kernel), by decide +kernel, by decide +kernel, by decide +kernel, by decide +kernel, rfl, by decide +kernel⟩,
   ⟨(State.reset.setPs 47 (fun p => { p with test := some ⟨0, false, true, false, 0, 0, false, none, false, 0, 0, 0⟩ })), (State.reset.setPs 47 (fun p => { p with test := some ⟨0, false, true, false, 0, 0, false, none, false, 0, 0, 0⟩ })), _, 0, 47, ⟨0, false, true, false, 0, 0, false, none, false, 0, 0, 0⟩, ([], []), State.tick_of (by decide +kernel), by decide +kernel, rfl, by decide +kernel⟩,
   ⟨(State.reset.setPs 47 (fun p => { p with test := some ⟨0, false, true, true, 0, 0, true, some 0, false, 0, 0, 0⟩ })), (State.reset.setPs 47 (fun p => { p with test := some ⟨0, false, true, true, 0, 0, true, some 0, false, 0, 0, 0⟩ })), _, 0, 47, ⟨0, false, true, true, 0, 0, true, some 0, false, 0, 0, 0⟩, ([], []), State.tick_of (by decide +kernel), by decide +kernel, rfl, by decide +kernel⟩,
   ⟨State.reset, State.reset, 0, 0, State.tick_of (by decide +kernel)⟩⟩

theorem test_witness_sensingCommandsComplete :
    (∃ (s : State) (u : State) (t : Time) (run : Time) (n : Fin 48) (i : Fin 4) (clk : List Time) (pin : List (Time × Bool)) (mid : List (Time × Bool)) (w : SdWin) (rest : List SdWin) (bits : List Bool) (c0 : Int) (fin : Int), s.tick t = u ∧ (vget (u.sd n).ins i).wins = w :: rest ∧ u.sdInt n i = true ∧ u.windowBits n i w clk pin = some (bits, c0, fin) ∧ fin ≤ (u.now : Int) ∧ fin + ns 60 ≤ (w.ready : Int) ∧ u.bit (R.PG_ERRINJ (R.SDM.base n)) 16 = false ∧ (vget (u.sd n).ins i).stuck = none ∧ (u.sd n).changed = none ∧ (vget (u.sd n).ins i).manErr = none ∧ (u.sd n).lost = none ∧ ((u.sd n).since : Int) ≤ c0) ∧
    (∃ (s : State) (u : State) (t : Time) (last : Time) (n : Fin 48), s.tick t = u ∧ u.en (R.SDM.base n) = true ∧ u.sdExt n = true ∧ last + 4 * u.sdP n ≤ u.now) ∧
    (∃ (s : State) (u : State) (t : Time) (c : Time) (n : Fin 48) (i : Fin 4), s.tick t = u ∧ u.inEn n i = true ∧ u.bit (R.SDM.IN_CFG n i) 1 = true) ∧
    (∃ (s : State) (u : State) (t : Time) (n : Fin 48) (i : Fin 4) (run : Time × Nat), s.tick t = u ∧ u.inEn n i = true ∧ u.fld (R.SDM.IN_CFG n i) 31 24 ≠ 0 ∧ run.1 + u.fld (R.SDM.IN_CFG n i) 31 24 * 8 * (if u.sdInt n i then u.sdP n else run.2) ≤ u.now) ∧
    (∃ (s : State) (u : State) (t : Time) (m : Master) (n : Fin 48) (k : Fin 5) (v : Word), s.tick t = u ∧ u.Writable (R.SDM.base n) ∧ k.val < 4 ∧ u.en (R.SDM.base n) = true) ∧
    (∃ (s : State) (u : State) (t : Time) (m : Master) (n : Fin 48) (k : Fin 5) (v : Word), s.tick t = u ∧ u.Writable (R.SDM.base n) ∧ k.val = 4 ∧ u.en (R.SDM.base n) = false) ∧
    (∃ (s : State) (u : State) (t : Time) (tk : Time) (m : Fin 2) (n : Nat) (j : Nat) (rest : List (Time × Nat × Nat)), s.tick t = u ∧ (vget u.aux m).conv = none ∧ (vget u.aux m).lastS = none ∧ u.en (R.AUXADC.base m) = true ∧ (vget u.aux m).queue = (tk, n, j) :: rest ∧ tk ≤ u.now) ∧
    (∃ (s : State) (u : State) (v : State) (t : Time) (m : Fin 2) (x : Nat) (j : Nat) (st : Time) (r : Word), s.tick t = u ∧ (vget u.aux m).conv = some ⟨j, st, none⟩ ∧ st + ns 200 ≤ u.now ∧ BitVec.ofNat 32 (adcCode x % 65536 * 2 ^ 15) = r ∧ ((u.setRg (R.AUXADC.AIN_RESULT m j) r).setRg64 (R.AUXADC.AIN_STAMP m j) st).hopNode 4 (8 * m.val + j) r st = v) :=
  ⟨⟨({ State.reset with now := ms 1 }).setIn 47 3 (fun d => { d with wins := [⟨0, 0, 0, ms 1⟩] }), ({ State.reset with now := ms 1 }).setIn 47 3 (fun d => { d with wins := [⟨0, 0, 0, ms 1⟩] }), (ms 1), 0, 47, 3, [], [], [], ⟨0, 0, 0, ms 1⟩, [], (List.replicate 96 false), 0, 76800, State.tick_of (by decide +kernel), by decide +kernel⟩,
   ⟨(({ State.reset with now := sec 1 }).putBit (R.SDM.CLK_CFG 47) 8 true).putBit (R.PG_CTRL (R.SDM.base 47)) 0 true, (({ State.reset with now := sec 1 }).putBit (R.SDM.CLK_CFG 47) 8 true).putBit (R.PG_CTRL (R.SDM.base 47)) 0 true, (sec 1), 0, 47, State.tick_of (by decide +kernel), by decide +kernel⟩,
   ⟨(State.reset.putFld (R.SDM.IN_CFG 47 3) 1 0 3).putBit (R.PG_CTRL (R.SDM.base 47)) 0 true, (State.reset.putFld (R.SDM.IN_CFG 47 3) 1 0 3).putBit (R.PG_CTRL (R.SDM.base 47)) 0 true, 0, 0, 47, 3, State.tick_of (by decide +kernel), by decide +kernel⟩,
   ⟨(({ State.reset with now := sec 1 }).setRg (R.SDM.IN_CFG 47 3) 0x01000001).putBit (R.PG_CTRL (R.SDM.base 47)) 0 true, (({ State.reset with now := sec 1 }).setRg (R.SDM.IN_CFG 47 3) 0x01000001).putBit (R.PG_CTRL (R.SDM.base 47)) 0 true, (sec 1), 47, 3, (0, 0), State.tick_of (by decide +kernel), by decide +kernel⟩,
   ⟨(State.reset.putBit (R.PG_CTRL (R.SDM.base 47)) 0 true), (State.reset.putBit (R.PG_CTRL (R.SDM.base 47)) 0 true), 0, .host, 47, 3, 0, State.tick_of (by decide +kernel), writable_of (by decide +kernel), by decide +kernel⟩,
   ⟨State.reset, State.reset, 0, .host, 0, 4, 0, State.tick_of (by decide +kernel), writable_of (by decide +kernel), by decide +kernel⟩,
   ⟨{ (State.reset.putBit (R.PG_CTRL (R.AUXADC.base 1)) 0 true) with aux := vupd State.reset.aux 1 (fun a => { a with queue := [(0, 47, 7)] }) }, { (State.reset.putBit (R.PG_CTRL (R.AUXADC.base 1)) 0 true) with aux := vupd State.reset.aux 1 (fun a => { a with queue := [(0, 47, 7)] }) }, 0, 0, 1, 47, 7, [], State.tick_of (by decide +kernel), by decide +kernel⟩,
   ⟨{ State.reset with now := ns 200, aux := vupd State.reset.aux 1 (fun a => { a with conv := some ⟨7, 0, none⟩ }) }, { State.reset with now := ns 200, aux := vupd State.reset.aux 1 (fun a => { a with conv := some ⟨7, 0, none⟩ }) }, _, (ns 200), 1, 0, 7, 0, 0, State.tick_of (by decide +kernel), by decide +kernel, by decide +kernel, by decide +kernel, rfl⟩⟩

theorem test_witness_sensingCommandsComplete_2 :
    (∃ (s : State) (u : State) (w : State) (t : Time) (m : Fin 2) (j : Fin 8) (v : Nat), s.tick t = u ∧ u.bit (R.AUXADC.AIN_WIN_CFG m j) 30 = false ∧ u.bit (R.AUXADC.AIN_WIN_CFG m j) 31 = false ∧ { u with aux := vupd u.aux m.val (fun a => { a with levels := vupd a.levels j.val (fun _ => v) }) } = w) ∧
    (∃ (s : State) (u : State) (w : State) (t : Time) (m : Fin 2) (j : Fin 8) (v : Nat), s.tick t = u ∧ u.bit (R.AUXADC.AIN_WIN_CFG m j) 30 = true ∧ u.bit (R.AUXADC.AIN_WIN_CFG m j) 31 = false ∧ u.bit (R.AUXADC.AIN_WIN_STAT m j) 0 = false ∧ { u with aux := vupd u.aux m.val (fun a => { a with levels := vupd a.levels j.val (fun _ => v) }) } = w ∧ w.winPhase (8 * m.val + j.val) false = none ∧ u.fld (R.AUXADC.AIN_WIN_CFG m j) 11 0 * 2 ^ 20 < v) ∧
    (∃ (s : State) (u : State) (t : Time) (c : Time) (n : Fin 48) (i : Fin 4) (clk : List Time) (pin : List (Time × Bool)), s.tick t = u) ∧
    (∃ (s : State) (u : State) (t : Time) (n : Fin 48) (x : Fin 2) (a : Nat), s.tick t = u ∧ u.stepAxis n = some a ∧ u.brState a x = 1) ∧
    (∃ (s : State) (u : State) (t : Time) (n : Fin 48) (x : Fin 2) (a : Nat), s.tick t = u ∧ u.stepAxis n = some a ∧ u.brState a x = 2) ∧
    (∃ (s : State) (u : State) (t : Time) (n : Fin 48) (x : Fin 2) (a : Nat), s.tick t = u ∧ u.stepAxis n = some a ∧ u.brState a x = 0) :=
  ⟨⟨State.reset, State.reset, _, 0, 1, 7, 0, State.tick_of (by decide +kernel), by decide +kernel, by decide +kernel, rfl⟩,
   ⟨(State.reset.setRg (R.AUXADC.AIN_WIN_CFG 1 7) 0x40000000), (State.reset.setRg (R.AUXADC.AIN_WIN_CFG 1 7) 0x40000000), _, 0, 1, 7, 1, State.tick_of (by decide +kernel), by decide +kernel, by decide +kernel, by decide +kernel, rfl, by decide +kernel⟩,
   ⟨State.reset, State.reset, 0, 0, 0, 0, [], [], State.tick_of (by decide +kernel)⟩,
   ⟨((((State.reset.putFld (R.PWM.CTRL 47) 7 0 0x81).putFld (R.SLUICE.AX_CFG 63) 20 14 (1 + 47 * 2)).putBit (R.SLUICE.AX_CTRL 63) 0 true).putBit (R.AXIS.CTRL 63) 2 true).putFld (R.AXIS.STEP_STAT 63) 17 16 1, ((((State.reset.putFld (R.PWM.CTRL 47) 7 0 0x81).putFld (R.SLUICE.AX_CFG 63) 20 14 (1 + 47 * 2)).putBit (R.SLUICE.AX_CTRL 63) 0 true).putBit (R.AXIS.CTRL 63) 2 true).putFld (R.AXIS.STEP_STAT 63) 17 16 1, 0, 47, 1, 63, State.tick_of (by decide +kernel), by decide +kernel⟩,
   ⟨((((State.reset.putFld (R.PWM.CTRL 47) 7 0 0x81).putFld (R.SLUICE.AX_CFG 63) 20 14 (1 + 47 * 2)).putBit (R.SLUICE.AX_CTRL 63) 0 true).putBit (R.AXIS.CTRL 63) 2 true).putFld (R.AXIS.STEP_STAT 63) 17 16 2, ((((State.reset.putFld (R.PWM.CTRL 47) 7 0 0x81).putFld (R.SLUICE.AX_CFG 63) 20 14 (1 + 47 * 2)).putBit (R.SLUICE.AX_CTRL 63) 0 true).putBit (R.AXIS.CTRL 63) 2 true).putFld (R.AXIS.STEP_STAT 63) 17 16 2, 0, 47, 1, 63, State.tick_of (by decide +kernel), by decide +kernel⟩,
   ⟨((((State.reset.putFld (R.PWM.CTRL 47) 7 0 0x81).putFld (R.SLUICE.AX_CFG 63) 20 14 (1 + 47 * 2)).putBit (R.SLUICE.AX_CTRL 63) 0 true).putBit (R.AXIS.CTRL 63) 2 true), ((((State.reset.putFld (R.PWM.CTRL 47) 7 0 0x81).putFld (R.SLUICE.AX_CFG 63) 20 14 (1 + 47 * 2)).putBit (R.SLUICE.AX_CTRL 63) 0 true).putBit (R.AXIS.CTRL 63) 2 true), 0, 47, 1, 63, State.tick_of (by decide +kernel), by decide +kernel⟩⟩

theorem test_witness_integerInstructionsComplete :
    (∃ (s : State) (u : State) (v : State) (t : Time) (c : Fin 33) (w0 : Word) (w1 : Word) (k : CoreSt), s.tick t = u ∧ u.atIssue c = v ∧ v.cr c = k ∧ u.Issues c .add w0 w1 false) ∧
    (∃ (s : State) (u : State) (v : State) (t : Time) (c : Fin 33) (w0 : Word) (w1 : Word) (k : CoreSt), s.tick t = u ∧ u.atIssue c = v ∧ v.cr c = k ∧ u.Issues c .sub w0 w1 false) ∧
    (∃ (s : State) (u : State) (v : State) (t : Time) (c : Fin 33) (w0 : Word) (w1 : Word) (k : CoreSt), s.tick t = u ∧ u.atIssue c = v ∧ v.cr c = k ∧ u.Issues c .neg w0 w1 false) ∧
    (∃ (s : State) (u : State) (v : State) (t : Time) (c : Fin 33) (w0 : Word) (w1 : Word) (k : CoreSt), s.tick t = u ∧ u.atIssue c = v ∧ v.cr c = k ∧ u.Issues c .abs w0 w1 false) ∧
    (∃ (s : State) (u : State) (v : State) (t : Time) (c : Fin 33) (w0 : Word) (w1 : Word) (k : CoreSt), s.tick t = u ∧ u.atIssue c = v ∧ v.cr c = k ∧ u.Issues c .and_ w0 w1 false) ∧
    (∃ (s : State) (u : State) (v : State) (t : Time) (c : Fin 33) (w0 : Word) (w1 : Word) (k : CoreSt), s.tick t = u ∧ u.atIssue c = v ∧ v.cr c = k ∧ u.Issues c .or_ w0 w1 false) ∧
    (∃ (s : State) (u : State) (v : State) (t : Time) (c : Fin 33) (w0 : Word) (w1 : Word) (k : CoreSt), s.tick t = u ∧ u.atIssue c = v ∧ v.cr c = k ∧ u.Issues c .xor w0 w1 false) ∧
    (∃ (s : State) (u : State) (v : State) (t : Time) (c : Fin 33) (w0 : Word) (w1 : Word) (k : CoreSt), s.tick t = u ∧ u.atIssue c = v ∧ v.cr c = k ∧ u.Issues c .not_ w0 w1 false) :=
  ⟨⟨(isa 1 0x04c84000 0x00000000), (isa 1 0x04c84000 0x00000000), _, 0, 1, 0x04c84000, 0x0, _, State.tick_of (by decide +kernel), rfl, rfl, issues_of (by decide +kernel)⟩,
   ⟨(isa 1 0x04c84001 0x00000000), (isa 1 0x04c84001 0x00000000), _, 0, 1, 0x04c84001, 0x0, _, State.tick_of (by decide +kernel), rfl, rfl, issues_of (by decide +kernel)⟩,
   ⟨(isa 1 0x04c80002 0x00000000), (isa 1 0x04c80002 0x00000000), _, 0, 1, 0x04c80002, 0x0, _, State.tick_of (by decide +kernel), rfl, rfl, issues_of (by decide +kernel)⟩,
   ⟨(isa 1 0x04c80003 0x00000000), (isa 1 0x04c80003 0x00000000), _, 0, 1, 0x04c80003, 0x0, _, State.tick_of (by decide +kernel), rfl, rfl, issues_of (by decide +kernel)⟩,
   ⟨(isa 1 0x04c84004 0x00000000), (isa 1 0x04c84004 0x00000000), _, 0, 1, 0x04c84004, 0x0, _, State.tick_of (by decide +kernel), rfl, rfl, issues_of (by decide +kernel)⟩,
   ⟨(isa 1 0x04c84005 0x00000000), (isa 1 0x04c84005 0x00000000), _, 0, 1, 0x04c84005, 0x0, _, State.tick_of (by decide +kernel), rfl, rfl, issues_of (by decide +kernel)⟩,
   ⟨(isa 1 0x04c84006 0x00000000), (isa 1 0x04c84006 0x00000000), _, 0, 1, 0x04c84006, 0x0, _, State.tick_of (by decide +kernel), rfl, rfl, issues_of (by decide +kernel)⟩,
   ⟨(isa 1 0x04c80007 0x00000000), (isa 1 0x04c80007 0x00000000), _, 0, 1, 0x04c80007, 0x0, _, State.tick_of (by decide +kernel), rfl, rfl, issues_of (by decide +kernel)⟩⟩

theorem test_witness_integerInstructionsComplete_2 :
    (∃ (s : State) (u : State) (v : State) (t : Time) (c : Fin 33) (w0 : Word) (w1 : Word) (k : CoreSt), s.tick t = u ∧ u.atIssue c = v ∧ v.cr c = k ∧ u.Issues c .min w0 w1 false) ∧
    (∃ (s : State) (u : State) (v : State) (t : Time) (c : Fin 33) (w0 : Word) (w1 : Word) (k : CoreSt), s.tick t = u ∧ u.atIssue c = v ∧ v.cr c = k ∧ u.Issues c .max w0 w1 false) ∧
    (∃ (s : State) (u : State) (v : State) (t : Time) (c : Fin 33) (w0 : Word) (w1 : Word) (k : CoreSt), s.tick t = u ∧ u.atIssue c = v ∧ v.cr c = k ∧ u.Issues c .mov w0 w1 false) ∧
    (∃ (s : State) (u : State) (v : State) (t : Time) (c : Fin 33) (w0 : Word) (w1 : Word) (k : CoreSt), s.tick t = u ∧ u.atIssue c = v ∧ v.cr c = k ∧ u.Issues c .cls w0 w1 false) ∧
    (∃ (s : State) (u : State) (v : State) (t : Time) (c : Fin 33) (w0 : Word) (w1 : Word) (k : CoreSt), s.tick t = u ∧ u.atIssue c = v ∧ v.cr c = k ∧ u.Issues c .cmp w0 w1 false) ∧
    (∃ (s : State) (u : State) (v : State) (t : Time) (c : Fin 33) (w0 : Word) (w1 : Word) (k : CoreSt), s.tick t = u ∧ u.atIssue c = v ∧ v.cr c = k ∧ u.Issues c .cmpi w0 w1 false) ∧
    (∃ (s : State) (u : State) (v : State) (t : Time) (c : Fin 33) (w0 : Word) (w1 : Word) (k : CoreSt), s.tick t = u ∧ u.atIssue c = v ∧ v.cr c = k ∧ u.Issues c .shl w0 w1 false) ∧
    (∃ (s : State) (u : State) (v : State) (t : Time) (c : Fin 33) (w0 : Word) (w1 : Word) (k : CoreSt), s.tick t = u ∧ u.atIssue c = v ∧ v.cr c = k ∧ u.Issues c .shra w0 w1 false) :=
  ⟨⟨(isa 1 0x04c84008 0x00000000), (isa 1 0x04c84008 0x00000000), _, 0, 1, 0x04c84008, 0x0, _, State.tick_of (by decide +kernel), rfl, rfl, issues_of (by decide +kernel)⟩,
   ⟨(isa 1 0x04c84009 0x00000000), (isa 1 0x04c84009 0x00000000), _, 0, 1, 0x04c84009, 0x0, _, State.tick_of (by decide +kernel), rfl, rfl, issues_of (by decide +kernel)⟩,
   ⟨(isa 1 0x04c8000a 0x00000000), (isa 1 0x04c8000a 0x00000000), _, 0, 1, 0x04c8000a, 0x0, _, State.tick_of (by decide +kernel), rfl, rfl, issues_of (by decide +kernel)⟩,
   ⟨(isa 1 0x04c8000c 0x00000000), (isa 1 0x04c8000c 0x00000000), _, 0, 1, 0x04c8000c, 0x0, _, State.tick_of (by decide +kernel), rfl, rfl, issues_of (by decide +kernel)⟩,
   ⟨(isa 1 0x0408400b 0x00000000), (isa 1 0x0408400b 0x00000000), _, 0, 1, 0x0408400b, 0x0, _, State.tick_of (by decide +kernel), rfl, rfl, issues_of (by decide +kernel)⟩,
   ⟨(isa 1 0x0c088000 0x00000000), (isa 1 0x0c088000 0x00000000), _, 0, 1, 0x0c088000, 0x0, _, State.tick_of (by decide +kernel), rfl, rfl, issues_of (by decide +kernel)⟩,
   ⟨(isa 1 0x04c84010 0x00000000), (isa 1 0x04c84010 0x00000000), _, 0, 1, 0x04c84010, 0x0, _, State.tick_of (by decide +kernel), rfl, rfl, issues_of (by decide +kernel)⟩,
   ⟨(isa 1 0x04c84011 0x00000000), (isa 1 0x04c84011 0x00000000), _, 0, 1, 0x04c84011, 0x0, _, State.tick_of (by decide +kernel), rfl, rfl, issues_of (by decide +kernel)⟩⟩

theorem test_witness_integerInstructionsComplete_3 :
    (∃ (s : State) (u : State) (v : State) (t : Time) (c : Fin 33) (w0 : Word) (w1 : Word) (k : CoreSt), s.tick t = u ∧ u.atIssue c = v ∧ v.cr c = k ∧ u.Issues c .shrl w0 w1 false) ∧
    (∃ (s : State) (u : State) (v : State) (t : Time) (c : Fin 33) (w0 : Word) (w1 : Word) (k : CoreSt), s.tick t = u ∧ u.atIssue c = v ∧ v.cr c = k ∧ u.Issues c .shli w0 w1 false) ∧
    (∃ (s : State) (u : State) (v : State) (t : Time) (c : Fin 33) (w0 : Word) (w1 : Word) (k : CoreSt), s.tick t = u ∧ u.atIssue c = v ∧ v.cr c = k ∧ u.Issues c .shrai w0 w1 false) ∧
    (∃ (s : State) (u : State) (v : State) (t : Time) (c : Fin 33) (w0 : Word) (w1 : Word) (k : CoreSt), s.tick t = u ∧ u.atIssue c = v ∧ v.cr c = k ∧ u.Issues c .shrli w0 w1 false) ∧
    (∃ (s : State) (u : State) (v : State) (t : Time) (c : Fin 33) (w0 : Word) (w1 : Word) (k : CoreSt), s.tick t = u ∧ u.atIssue c = v ∧ v.cr c = k ∧ u.Issues c .addi w0 w1 false) ∧
    (∃ (s : State) (u : State) (v : State) (t : Time) (c : Fin 33) (w0 : Word) (w1 : Word) (k : CoreSt), s.tick t = u ∧ u.atIssue c = v ∧ v.cr c = k ∧ u.Issues c .movi w0 w1 false) ∧
    (∃ (s : State) (u : State) (v : State) (t : Time) (c : Fin 33) (w0 : Word) (w1 : Word) (k : CoreSt), s.tick t = u ∧ u.atIssue c = v ∧ v.cr c = k ∧ u.Issues c .movhi w0 w1 false) ∧
    (∃ (s : State) (u : State) (v : State) (t : Time) (c : Fin 33) (w0 : Word) (w1 : Word) (k : CoreSt), s.tick t = u ∧ u.atIssue c = v ∧ v.cr c = k ∧ u.Issues c .movl w0 w1 false) :=
  ⟨⟨(isa 1 0x04c84012 0x00000000), (isa 1 0x04c84012 0x00000000), _, 0, 1, 0x04c84012, 0x0, _, State.tick_of (by decide +kernel), rfl, rfl, issues_of (by decide +kernel)⟩,
   ⟨(isa 1 0x04c807d4 0x00000000), (isa 1 0x04c807d4 0x00000000), _, 0, 1, 0x04c807d4, 0x0, _, State.tick_of (by decide +kernel), rfl, rfl, issues_of (by decide +kernel)⟩,
   ⟨(isa 1 0x04c807d5 0x00000000), (isa 1 0x04c807d5 0x00000000), _, 0, 1, 0x04c807d5, 0x0, _, State.tick_of (by decide +kernel), rfl, rfl, issues_of (by decide +kernel)⟩,
   ⟨(isa 1 0x04c807d6 0x00000000), (isa 1 0x04c807d6 0x00000000), _, 0, 1, 0x04c807d6, 0x0, _, State.tick_of (by decide +kernel), rfl, rfl, issues_of (by decide +kernel)⟩,
   ⟨(isa 1 0x08c8ffff 0x00000000), (isa 1 0x08c8ffff 0x00000000), _, 0, 1, 0x08c8ffff, 0x0, _, State.tick_of (by decide +kernel), rfl, rfl, issues_of (by decide +kernel)⟩,
   ⟨(isa 1 0x10c08000 0x00000000), (isa 1 0x10c08000 0x00000000), _, 0, 1, 0x10c08000, 0x0, _, State.tick_of (by decide +kernel), rfl, rfl, issues_of (by decide +kernel)⟩,
   ⟨(isa 1 0x14c08000 0x00000000), (isa 1 0x14c08000 0x00000000), _, 0, 1, 0x14c08000, 0x0, _, State.tick_of (by decide +kernel), rfl, rfl, issues_of (by decide +kernel)⟩,
   ⟨(isa 1 0x1bc00000 0xffffffff), (isa 1 0x1bc00000 0xffffffff), _, 0, 1, 0x1bc00000, 0xffffffff, _, State.tick_of (by decide +kernel), rfl, rfl, issues_of (by decide +kernel)⟩⟩

theorem test_witness_integerInstructionsComplete_4 :
    (∃ (s : State) (u : State) (v : State) (t : Time) (c : Fin 33) (w0 : Word) (w1 : Word) (k : CoreSt), s.tick t = u ∧ u.atIssue c = v ∧ v.cr c = k ∧ u.Issues c .movpi w0 w1 false) ∧
    (∃ (s : State) (u : State) (v : State) (t : Time) (c : Fin 33) (w0 : Word) (w1 : Word) (k : CoreSt), s.tick t = u ∧ u.atIssue c = v ∧ v.cr c = k ∧ u.Issues c .movs w0 w1 false) :=
  ⟨⟨(isa 1 0x1fcfffff 0x00000000), (isa 1 0x1fcfffff 0x00000000), _, 0, 1, 0x1fcfffff, 0x0, _, State.tick_of (by decide +kernel), rfl, rfl, issues_of (by decide +kernel)⟩,
   ⟨(isa 1 0x22678000 0x00000000), (isa 1 0x22678000 0x00000000), _, 0, 1, 0x22678000, 0x0, _, State.tick_of (by decide +kernel), rfl, rfl, issues_of (by decide +kernel)⟩⟩

theorem test_witness_memoryInstructionsComplete :
    (∃ (s : State) (u : State) (v : State) (t : Time) (c : Fin 33) (w0 : Word) (w1 : Word) (k : CoreSt) (sp : Nat) (a : Nat) (b : Nat) (upd : List (Nat × Wr)), s.tick t = u ∧ u.atIssue c = v ∧ v.cr c = k ∧ u.Issues c .ld w0 w1 false ∧ k.addrM w0 = (a, upd) ∧ spOf w0 = sp ∧ inWindow c sp a = false ∧ v.accFault c (sp, a, false) = none ∧ v.mapData c sp a = some (.mem b) ∧ v.eccOf b = 0) ∧
    (∃ (s : State) (u : State) (v : State) (t : Time) (c : Fin 33) (w0 : Word) (w1 : Word) (k : CoreSt) (sp : Nat) (a : Nat) (b : Nat) (upd : List (Nat × Wr)), s.tick t = u ∧ u.atIssue c = v ∧ v.cr c = k ∧ u.Issues c .st w0 w1 false ∧ k.addrM w0 = (a, upd) ∧ spOf w0 = sp ∧ inWindow c sp a = false ∧ v.accFault c (sp, a, true) = none ∧ v.mapData c sp a = some (.mem b)) ∧
    (∃ (s : State) (u : State) (v : State) (t : Time) (c : Fin 33) (w0 : Word) (w1 : Word) (k : CoreSt) (sp : Nat) (a : Nat) (b : Nat) (upd : List (Nat × Wr)) (y : Word) (fl : List (Nat × Wr)), s.tick t = u ∧ u.atIssue c = v ∧ v.cr c = k ∧ u.Issues c .sta w0 w1 false ∧ k.addrM w0 = (a, upd) ∧ spOf w0 = sp ∧ inWindow c sp a = false ∧ v.accFault c (sp, a, true) = none ∧ v.mapData c sp a = some (.mem b) ∧ storeAcc (vget k.acc (wfld w0 23 22)) (wbit k.cfg 2) (wbit k.cfg 1) (wfld w0 25 24 == 1 || (wfld w0 25 24 == 0 && !wbit k.cfg 0)) = (y, fl)) ∧
    (∃ (s : State) (u : State) (v : State) (t : Time) (c : Fin 33) (w0 : Word) (w1 : Word) (k : CoreSt) (i : Nat) (j : Nat) (b : Nat) (d : Nat), s.tick t = u ∧ u.atIssue c = v ∧ v.cr c = k ∧ u.Issues c .ldd w0 w1 false ∧ wfld w0 17 15 = i ∧ wfld w0 9 7 = j ∧ inWindow c 1 (vget k.p i) = false ∧ inWindow c 2 (vget k.p j) = false ∧ v.accFault c (1, vget k.p i, false) = none ∧ v.accFault c (2, vget k.p j, false) = none ∧ v.mapData c 1 (vget k.p i) = some (.mem b) ∧ v.mapData c 2 (vget k.p j) = some (.mem d) ∧ v.eccOf b = 0 ∧ v.eccOf d = 0) ∧
    (∃ (s : State) (u : State) (v : State) (t : Time) (c : Fin 33) (w0 : Word) (w1 : Word) (k : CoreSt) (i : Nat) (j : Nat) (b : Nat) (d : Nat) (e : Nat) (p : Nat), s.tick t = u ∧ u.atIssue c = v ∧ v.cr c = k ∧ u.Issues c .ftap w0 w1 false ∧ wfld w0 23 21 = i ∧ wfld w0 20 18 = j ∧ k.circ i (Int.ofNat (vget k.p i) + 1) = p ∧ inWindow c 1 (vget k.p i) = false ∧ inWindow c 2 (vget k.p j) = false ∧ v.accFault c (1, vget k.p i, false) = none ∧ v.accFault c (2, vget k.p j, false) = none ∧ v.mapData c 1 (vget k.p i) = some (.mem b) ∧ v.mapData c 2 (vget k.p j) = some (.mem d) ∧ v.eccOf b = 0 ∧ v.eccOf d = 0 ∧ inWindow c 1 p = false ∧ v.accFault c (1, p, true) = none ∧ v.mapData c 1 p = some (.mem e)) ∧
    (∃ (s : State) (u : State) (v : State) (w : State) (t : Time) (c : Fin 33) (w0 : Word) (w1 : Word) (k : CoreSt) (a : Nat) (sa : Nat) (upd : List (Nat × Wr)) (x : DWord), s.tick t = u ∧ u.atIssue c = v ∧ v.cr c = k ∧ u.Issues c .ld w0 w1 true ∧ isMw c = true ∧ (u.cr c).stall = true ∧ (u.cr c).orphan = [] ∧ opOf (u.ldw (spaceAddr c 0 (u.cr c).pc)) = some .ld ∧ k.addrM w0 = (a, upd) ∧ spOf w0 = 1 ∧ k.rpt = none ∧ v.accFault c (1, a, false) = none ∧ v.mapData c 1 a = some (.window sa) ∧ v.sysRead (mwMaster c) sa 4 15 = (x, w)) :=
  ⟨⟨(isa 27 0x4ce03fff 0x0), (isa 27 0x4ce03fff 0x0), _, 0, 27, 0x4ce03fff, 0x0, _, 2, 0x3fff, (spaceAddr 27 2 0x3fff), [], State.tick_of (by decide +kernel), rfl, rfl, issues_of (by decide +kernel), by decide +kernel⟩,
   ⟨(isa 27 0x50e03fff 0x0), (isa 27 0x50e03fff 0x0), _, 0, 27, 0x50e03fff, 0x0, _, 2, 0x3fff, (spaceAddr 27 2 0x3fff), [], State.tick_of (by decide +kernel), rfl, rfl, issues_of (by decide +kernel), by decide +kernel⟩,
   ⟨(isa 27 0x55203fff 0x0), (isa 27 0x55203fff 0x0), _, 0, 27, 0x55203fff, 0x0, _, 2, 0x3fff, (spaceAddr 27 2 0x3fff), [], 0, [], State.tick_of (by decide +kernel), rfl, rfl, issues_of (by decide +kernel), by decide +kernel⟩,
   ⟨(isa 1 0x58c80888 0x0), (isa 1 0x58c80888 0x0), _, 0, 1, 0x58c80888, 0x0, _, 0, 1, (spaceAddr 1 1 0), (spaceAddr 1 2 0), State.tick_of (by decide +kernel), rfl, rfl, issues_of (by decide +kernel), by decide +kernel⟩,
   ⟨(isa 1 0x84040000 0x0), (isa 1 0x84040000 0x0), _, 0, 1, 0x84040000, 0x0, _, 0, 1, (spaceAddr 1 1 0), (spaceAddr 1 2 0), (spaceAddr 1 1 1), 1, State.tick_of (by decide +kernel), rfl, rfl, issues_of (by decide +kernel), by decide +kernel⟩,
   ⟨(isa 31 0x4cc80000 0).setCr 31 (fun k => { k with stall := true }), (isa 31 0x4cc80000 0).setCr 31 (fun k => { k with stall := true }), _, _, 0, 31, 0x4cc80000, 0x0, _, 0x80000, 0, [], _, State.tick_of (by decide +kernel), rfl, rfl, issues_of (by decide +kernel), by decide +kernel, by decide +kernel, by decide +kernel, by decide +kernel, by decide +kernel, by decide +kernel, by decide +kernel, by decide +kernel, by decide +kernel, rfl⟩⟩

theorem test_witness_accumulatorInstructionsComplete :
    (∃ (s : State) (u : State) (v : State) (t : Time) (c : Fin 33) (w0 : Word) (w1 : Word) (k : CoreSt), s.tick t = u ∧ u.atIssue c = v ∧ v.cr c = k ∧ u.Issues c .mpy w0 w1 false) ∧
    (∃ (s : State) (u : State) (v : State) (t : Time) (c : Fin 33) (w0 : Word) (w1 : Word) (k : CoreSt), s.tick t = u ∧ u.atIssue c = v ∧ v.cr c = k ∧ u.Issues c .mac w0 w1 false) ∧
    (∃ (s : State) (u : State) (v : State) (t : Time) (c : Fin 33) (w0 : Word) (w1 : Word) (k : CoreSt), s.tick t = u ∧ u.atIssue c = v ∧ v.cr c = k ∧ u.Issues c .mpyd w0 w1 false) ∧
    (∃ (s : State) (u : State) (v : State) (t : Time) (c : Fin 33) (w0 : Word) (w1 : Word) (k : CoreSt), s.tick t = u ∧ u.atIssue c = v ∧ v.cr c = k ∧ u.Issues c .macd w0 w1 false) ∧
    (∃ (s : State) (u : State) (v : State) (t : Time) (c : Fin 33) (w0 : Word) (w1 : Word) (k : CoreSt), s.tick t = u ∧ u.atIssue c = v ∧ v.cr c = k ∧ u.Issues c .clra w0 w1 false) ∧
    (∃ (s : State) (u : State) (v : State) (t : Time) (c : Fin 33) (w0 : Word) (w1 : Word) (k : CoreSt), s.tick t = u ∧ u.atIssue c = v ∧ v.cr c = k ∧ u.Issues c .mova w0 w1 false) ∧
    (∃ (s : State) (u : State) (v : State) (t : Time) (c : Fin 33) (w0 : Word) (w1 : Word) (k : CoreSt), s.tick t = u ∧ u.atIssue c = v ∧ v.cr c = k ∧ u.Issues c .asr w0 w1 false) ∧
    (∃ (s : State) (u : State) (v : State) (t : Time) (c : Fin 33) (w0 : Word) (w1 : Word) (k : CoreSt), s.tick t = u ∧ u.atIssue c = v ∧ v.cr c = k ∧ u.Issues c .ldah w0 w1 false) :=
  ⟨⟨(isa 1 0x80642010 0x00000000), (isa 1 0x80642010 0x00000000), _, 0, 1, 0x80642010, 0x0, _, State.tick_of (by decide +kernel), rfl, rfl, issues_of (by decide +kernel)⟩,
   ⟨(isa 1 0x80e42000 0x00000000), (isa 1 0x80e42000 0x00000000), _, 0, 1, 0x80e42000, 0x0, _, State.tick_of (by decide +kernel), rfl, rfl, issues_of (by decide +kernel)⟩,
   ⟨(isa 1 0x816428a8 0x00000000), (isa 1 0x816428a8 0x00000000), _, 0, 1, 0x816428a8, 0x0, _, State.tick_of (by decide +kernel), rfl, rfl, issues_of (by decide +kernel)⟩,
   ⟨(isa 1 0x81e428a0 0x00000000), (isa 1 0x81e428a0 0x00000000), _, 0, 1, 0x81e428a0, 0x0, _, State.tick_of (by decide +kernel), rfl, rfl, issues_of (by decide +kernel)⟩,
   ⟨(isa 1 0x88180000 0x00000000), (isa 1 0x88180000 0x00000000), _, 0, 1, 0x88180000, 0x0, _, State.tick_of (by decide +kernel), rfl, rfl, issues_of (by decide +kernel)⟩,
   ⟨(isa 1 0x883c0000 0x00000000), (isa 1 0x883c0000 0x00000000), _, 0, 1, 0x883c0000, 0x0, _, State.tick_of (by decide +kernel), rfl, rfl, issues_of (by decide +kernel)⟩,
   ⟨(isa 1 0x88dc01fc 0x00000000), (isa 1 0x88dc01fc 0x00000000), _, 0, 1, 0x88dc01fc, 0x0, _, State.tick_of (by decide +kernel), rfl, rfl, issues_of (by decide +kernel)⟩,
   ⟨(isa 1 0x8918a000 0x00000000), (isa 1 0x8918a000 0x00000000), _, 0, 1, 0x8918a000, 0x0, _, State.tick_of (by decide +kernel), rfl, rfl, issues_of (by decide +kernel)⟩⟩

theorem test_witness_accumulatorInstructionsComplete_2 :
    (∃ (s : State) (u : State) (v : State) (t : Time) (c : Fin 33) (w0 : Word) (w1 : Word) (k : CoreSt), s.tick t = u ∧ u.atIssue c = v ∧ v.cr c = k ∧ u.Issues c .ldax w0 w1 false) ∧
    (∃ (s : State) (u : State) (v : State) (t : Time) (c : Fin 33) (w0 : Word) (w1 : Word) (k : CoreSt), s.tick t = u ∧ u.atIssue c = v ∧ v.cr c = k ∧ u.Issues c .adda w0 w1 false) ∧
    (∃ (s : State) (u : State) (v : State) (t : Time) (c : Fin 33) (w0 : Word) (w1 : Word) (k : CoreSt), s.tick t = u ∧ u.atIssue c = v ∧ v.cr c = k ∧ u.Issues c .suba w0 w1 false) ∧
    (∃ (s : State) (u : State) (v : State) (t : Time) (c : Fin 33) (w0 : Word) (w1 : Word) (k : CoreSt), s.tick t = u ∧ u.atIssue c = v ∧ v.cr c = k ∧ u.Issues c .nega w0 w1 false) ∧
    (∃ (s : State) (u : State) (v : State) (t : Time) (c : Fin 33) (w0 : Word) (w1 : Word) (k : CoreSt), s.tick t = u ∧ u.atIssue c = v ∧ v.cr c = k ∧ u.Issues c .absa w0 w1 false) ∧
    (∃ (s : State) (u : State) (v : State) (t : Time) (c : Fin 33) (w0 : Word) (w1 : Word) (k : CoreSt), s.tick t = u ∧ u.atIssue c = v ∧ v.cr c = k ∧ u.Issues c .asl w0 w1 false) ∧
    (∃ (s : State) (u : State) (v : State) (t : Time) (c : Fin 33) (w0 : Word) (w1 : Word) (k : CoreSt), s.tick t = u ∧ u.atIssue c = v ∧ v.cr c = k ∧ u.Issues c .addah w0 w1 false) ∧
    (∃ (s : State) (u : State) (v : State) (t : Time) (c : Fin 33) (w0 : Word) (w1 : Word) (k : CoreSt), s.tick t = u ∧ u.atIssue c = v ∧ v.cr c = k ∧ u.Issues c .addax w0 w1 false) :=
  ⟨⟨(isa 1 0x8938ac00 0x00000000), (isa 1 0x8938ac00 0x00000000), _, 0, 1, 0x8938ac00, 0x0, _, State.tick_of (by decide +kernel), rfl, rfl, issues_of (by decide +kernel)⟩,
   ⟨(isa 1 0x885c0000 0x00000000), (isa 1 0x885c0000 0x00000000), _, 0, 1, 0x885c0000, 0x0, _, State.tick_of (by decide +kernel), rfl, rfl, issues_of (by decide +kernel)⟩,
   ⟨(isa 1 0x887c0000 0x00000000), (isa 1 0x887c0000 0x00000000), _, 0, 1, 0x887c0000, 0x0, _, State.tick_of (by decide +kernel), rfl, rfl, issues_of (by decide +kernel)⟩,
   ⟨(isa 1 0x889c0000 0x00000000), (isa 1 0x889c0000 0x00000000), _, 0, 1, 0x889c0000, 0x0, _, State.tick_of (by decide +kernel), rfl, rfl, issues_of (by decide +kernel)⟩,
   ⟨(isa 1 0x88bc0000 0x00000000), (isa 1 0x88bc0000 0x00000000), _, 0, 1, 0x88bc0000, 0x0, _, State.tick_of (by decide +kernel), rfl, rfl, issues_of (by decide +kernel)⟩,
   ⟨(isa 1 0x88fc01f8 0x00000000), (isa 1 0x88fc01f8 0x00000000), _, 0, 1, 0x88fc01f8, 0x0, _, State.tick_of (by decide +kernel), rfl, rfl, issues_of (by decide +kernel)⟩,
   ⟨(isa 1 0x8958a000 0x00000000), (isa 1 0x8958a000 0x00000000), _, 0, 1, 0x8958a000, 0x0, _, State.tick_of (by decide +kernel), rfl, rfl, issues_of (by decide +kernel)⟩,
   ⟨(isa 1 0x8978ac00 0x00000000), (isa 1 0x8978ac00 0x00000000), _, 0, 1, 0x8978ac00, 0x0, _, State.tick_of (by decide +kernel), rfl, rfl, issues_of (by decide +kernel)⟩⟩

theorem test_witness_accumulatorInstructionsComplete_3 :
    (∃ (s : State) (u : State) (v : State) (t : Time) (c : Fin 33) (w0 : Word) (w1 : Word) (k : CoreSt), s.tick t = u ∧ u.atIssue c = v ∧ v.cr c = k ∧ u.Issues c .xlo w0 w1 false) ∧
    (∃ (s : State) (u : State) (v : State) (t : Time) (c : Fin 33) (w0 : Word) (w1 : Word) (k : CoreSt), s.tick t = u ∧ u.atIssue c = v ∧ v.cr c = k ∧ u.Issues c .xhi w0 w1 false) ∧
    (∃ (s : State) (u : State) (v : State) (t : Time) (c : Fin 33) (w0 : Word) (w1 : Word) (k : CoreSt), s.tick t = u ∧ u.atIssue c = v ∧ v.cr c = k ∧ u.Issues c .xgd w0 w1 false) ∧
    (∃ (s : State) (u : State) (v : State) (t : Time) (c : Fin 33) (w0 : Word) (w1 : Word) (k : CoreSt), s.tick t = u ∧ u.atIssue c = v ∧ v.cr c = k ∧ u.Issues c .cmpa w0 w1 false) ∧
    (∃ (s : State) (u : State) (v : State) (t : Time) (c : Fin 33) (w0 : Word) (w1 : Word) (k : CoreSt) (x : Int) (lo : Int) (hi : Int), s.tick t = u ∧ u.atIssue c = v ∧ v.cr c = k ∧ u.Issues c .satx w0 w1 false ∧ (vget k.acc (wfld w0 25 24)).toInt = x ∧ (vget k.x (wfld w0 21 18)).toInt * 2 ^ 32 = lo ∧ (vget k.x (wfld w0 17 14)).toInt * 2 ^ 32 = hi ∧ hi < x) ∧
    (∃ (s : State) (u : State) (v : State) (t : Time) (c : Fin 33) (w0 : Word) (w1 : Word) (k : CoreSt) (x : Int) (lo : Int) (hi : Int), s.tick t = u ∧ u.atIssue c = v ∧ v.cr c = k ∧ u.Issues c .satx w0 w1 false ∧ (vget k.acc (wfld w0 25 24)).toInt = x ∧ (vget k.x (wfld w0 21 18)).toInt * 2 ^ 32 = lo ∧ (vget k.x (wfld w0 17 14)).toInt * 2 ^ 32 = hi ∧ x ≤ hi ∧ x < lo) ∧
    (∃ (s : State) (u : State) (v : State) (t : Time) (c : Fin 33) (w0 : Word) (w1 : Word) (k : CoreSt) (x : Int) (lo : Int) (hi : Int), s.tick t = u ∧ u.atIssue c = v ∧ v.cr c = k ∧ u.Issues c .satx w0 w1 false ∧ (vget k.acc (wfld w0 25 24)).toInt = x ∧ (vget k.x (wfld w0 21 18)).toInt * 2 ^ 32 = lo ∧ (vget k.x (wfld w0 17 14)).toInt * 2 ^ 32 = hi ∧ lo ≤ x ∧ x ≤ hi) :=
  ⟨⟨(isa 1 0x8984a000 0x00000000), (isa 1 0x8984a000 0x00000000), _, 0, 1, 0x8984a000, 0x0, _, State.tick_of (by decide +kernel), rfl, rfl, issues_of (by decide +kernel)⟩,
   ⟨(isa 1 0x89a4a000 0x00000000), (isa 1 0x89a4a000 0x00000000), _, 0, 1, 0x89a4a000, 0x0, _, State.tick_of (by decide +kernel), rfl, rfl, issues_of (by decide +kernel)⟩,
   ⟨(isa 1 0x89c4a000 0x00000000), (isa 1 0x89c4a000 0x00000000), _, 0, 1, 0x89c4a000, 0x0, _, State.tick_of (by decide +kernel), rfl, rfl, issues_of (by decide +kernel)⟩,
   ⟨(isa 1 0x89fc0000 0x00000000), (isa 1 0x89fc0000 0x00000000), _, 0, 1, 0x89fc0000, 0x0, _, State.tick_of (by decide +kernel), rfl, rfl, issues_of (by decide +kernel)⟩,
   ⟨(isa 1 0x8f848000 0x0).setCr 1 (fun k => { k with acc := vupd k.acc 3 (fun _ => 1) }), (isa 1 0x8f848000 0x0).setCr 1 (fun k => { k with acc := vupd k.acc 3 (fun _ => 1) }), _, 0, 1, 0x8f848000, 0x0, _, 1, 0, 0, State.tick_of (by decide +kernel), rfl, rfl, issues_of (by decide +kernel), by decide +kernel⟩,
   ⟨(isa 1 0x8f848000 0x0).setCr 1 (fun k => { k with acc := vupd k.acc 3 (fun _ => 1), x := vupd (vupd k.x 1 (fun _ => 1)) 2 (fun _ => 1) }), (isa 1 0x8f848000 0x0).setCr 1 (fun k => { k with acc := vupd k.acc 3 (fun _ => 1), x := vupd (vupd k.x 1 (fun _ => 1)) 2 (fun _ => 1) }), _, 0, 1, 0x8f848000, 0x0, _, 1, 4294967296, 4294967296, State.tick_of (by decide +kernel), rfl, rfl, issues_of (by decide +kernel), by decide +kernel⟩,
   ⟨(isa 1 0x8f848000 0x0), (isa 1 0x8f848000 0x0), _, 0, 1, 0x8f848000, 0x0, _, 0, 0, 0, State.tick_of (by decide +kernel), rfl, rfl, issues_of (by decide +kernel), by decide +kernel⟩⟩

theorem test_witness_primitivesComplete :
    (∃ (s : State) (u : State) (v : State) (v1 : State) (v2 : State) (t : Time) (c : Fin 33) (w0 : Word) (w1 : Word) (k : CoreSt) (x : Word) (y : Word) (a : Nat), s.tick t = u ∧ u.atIssue c = v ∧ v.cr c = k ∧ u.Issues c .sincos w0 w1 false ∧ (k.prA w0).toNat = a ∧ v.sinValue a = (x, v1) ∧ v1.sinValue ((a + 2 ^ 30) % 2 ^ 32) = (y, v2)) ∧
    (∃ (s : State) (u : State) (v : State) (t : Time) (c : Fin 33) (w0 : Word) (w1 : Word) (k : CoreSt), s.tick t = u ∧ u.atIssue c = v ∧ v.cr c = k ∧ u.Issues c .atan2 w0 w1 false ∧ k.prA w0 = 0 ∧ k.prB w0 = 0) ∧
    (∃ (s : State) (u : State) (v : State) (v1 : State) (t : Time) (c : Fin 33) (w0 : Word) (w1 : Word) (k : CoreSt) (y : Int) (x : Int) (z : Int), s.tick t = u ∧ u.atIssue c = v ∧ v.cr c = k ∧ u.Issues c .atan2 w0 w1 false ∧ (k.prA w0).toInt = y ∧ (k.prB w0).toInt = x ∧ ((y ≠ 0 ∨ x ≠ 0)) ∧ v.freeIn (ratRound (angleTurn y x * (2 ^ 32 : Nat)) - 64) (ratRound (angleTurn y x * (2 ^ 32 : Nat)) + 64) = (z, v1)) ∧
    (∃ (s : State) (u : State) (v : State) (t : Time) (c : Fin 33) (w0 : Word) (w1 : Word) (k : CoreSt), s.tick t = u ∧ u.atIssue c = v ∧ v.cr c = k ∧ u.Issues c .rsqrt w0 w1 false ∧ (k.prA w0).toInt ≤ 0) ∧
    (∃ (s : State) (u : State) (v : State) (v1 : State) (t : Time) (c : Fin 33) (w0 : Word) (w1 : Word) (k : CoreSt) (a : Int) (z : Int), s.tick t = u ∧ u.atIssue c = v ∧ v.cr c = k ∧ u.Issues c .rsqrt w0 w1 false ∧ (k.prA w0).toInt = a ∧ 0 < a ∧ v.freeIn (ratRound (ratSqrt (((2 ^ 63 : Nat) : Rat) / (a.toNat : Rat)) false * (1 - (1 : Rat) / (2 ^ 22 : Nat)))) (ratRound (ratSqrt (((2 ^ 63 : Nat) : Rat) / (a.toNat : Rat)) true * (1 + (1 : Rat) / (2 ^ 22 : Nat)))) = (z, v1)) ∧
    (∃ (s : State) (u : State) (v : State) (t : Time) (c : Fin 33) (w0 : Word) (w1 : Word) (k : CoreSt) (a : Int) (b : Int), s.tick t = u ∧ u.atIssue c = v ∧ v.cr c = k ∧ (k.prA w0).toInt = a ∧ (k.prB w0).toInt = b ∧ b ≠ 0 ∧ u.Issues c .div w0 w1 false) ∧
    (∃ (s : State) (u : State) (v : State) (t : Time) (c : Fin 33) (w0 : Word) (w1 : Word) (k : CoreSt) (a : Int) (b : Int), s.tick t = u ∧ u.atIssue c = v ∧ v.cr c = k ∧ (k.prA w0).toInt = a ∧ (k.prB w0).toInt = b ∧ b ≠ 0 ∧ u.Issues c .divi w0 w1 false) ∧
    (∃ (s : State) (u : State) (v : State) (t : Time) (c : Fin 33) (w0 : Word) (w1 : Word) (k : CoreSt) (a : Int), s.tick t = u ∧ u.atIssue c = v ∧ v.cr c = k ∧ (k.prA w0).toInt = a ∧ k.prB w0 = 0 ∧ u.Issues c .div w0 w1 false) :=
  ⟨⟨(isa 1 0x90210000 0x0), (isa 1 0x90210000 0x0), _, (isa 1 0x90210000 0).atIssue 1, (isa 1 0x90210000 0).atIssue 1, 0, 1, 0x90210000, 0x0, _, 0, 0x7fffffff, 0, State.tick_of (by decide +kernel), rfl, rfl, issues_of (by decide +kernel), by decide +kernel⟩,
   ⟨(isa 1 0x90a10800 0x0), (isa 1 0x90a10800 0x0), _, 0, 1, 0x90a10800, 0x0, _, State.tick_of (by decide +kernel), rfl, rfl, issues_of (by decide +kernel), by decide +kernel⟩,
   ⟨(isa 1 0x90a10800 0).setCr 1 (fun k => { k with x := vupd k.x 2 (fun _ => 1) }), (isa 1 0x90a10800 0).setCr 1 (fun k => { k with x := vupd k.x 2 (fun _ => 1) }), _, _, 0, 1, 0x90a10800, 0x0, _, 1, 0, _, State.tick_of (by decide +kernel), rfl, rfl, issues_of (by decide +kernel), by decide +kernel, by decide +kernel, by decide +kernel, rfl⟩,
   ⟨(isa 1 0x91210000 0x0), (isa 1 0x91210000 0x0), _, 0, 1, 0x91210000, 0x0, _, State.tick_of (by decide +kernel), rfl, rfl, issues_of (by decide +kernel), by decide +kernel⟩,
   ⟨(isa 1 0x91210000 0).setCr 1 (fun k => { k with x := vupd k.x 2 (fun _ => 1) }), (isa 1 0x91210000 0).setCr 1 (fun k => { k with x := vupd k.x 2 (fun _ => 1) }), _, _, 0, 1, 0x91210000, 0x0, _, 1, _, State.tick_of (by decide +kernel), rfl, rfl, issues_of (by decide +kernel), by decide +kernel, by decide +kernel, rfl⟩,
   ⟨(isa 1 0x91a10800 0).setCr 1 (fun k => { k with x := vupd k.x 1 (fun _ => 1) }), (isa 1 0x91a10800 0).setCr 1 (fun k => { k with x := vupd k.x 1 (fun _ => 1) }), _, 0, 1, 0x91a10800, 0x0, _, 0, 1, State.tick_of (by decide +kernel), rfl, rfl, by decide +kernel, by decide +kernel, by decide +kernel, issues_of (by decide +kernel)⟩,
   ⟨(isa 1 0x92210800 0).setCr 1 (fun k => { k with x := vupd k.x 1 (fun _ => 1) }), (isa 1 0x92210800 0).setCr 1 (fun k => { k with x := vupd k.x 1 (fun _ => 1) }), _, 0, 1, 0x92210800, 0x0, _, 0, 1, State.tick_of (by decide +kernel), rfl, rfl, by decide +kernel, by decide +kernel, by decide +kernel, issues_of (by decide +kernel)⟩,
   ⟨(isa 1 0x91a10800 0x0), (isa 1 0x91a10800 0x0), _, 0, 1, 0x91a10800, 0x0, _, 0, State.tick_of (by decide +kernel), rfl, rfl, by decide +kernel, by decide +kernel, issues_of (by decide +kernel)⟩⟩

theorem test_witness_primitivesComplete_2 :
    (∃ (s : State) (u : State) (v : State) (t : Time) (c : Fin 33) (w0 : Word) (w1 : Word) (k : CoreSt) (a : Int), s.tick t = u ∧ u.atIssue c = v ∧ v.cr c = k ∧ (k.prA w0).toInt = a ∧ k.prB w0 = 0 ∧ u.Issues c .divi w0 w1 false) ∧
    (∃ (s : State) (u : State) (t : Time) (c : Fin 33) (d : Nat) (w : Word), s.tick t = u ∧ (u.cr c).pend = [⟨0, .x d w, true⟩]) :=
  ⟨⟨(isa 1 0x92210800 0x0), (isa 1 0x92210800 0x0), _, 0, 1, 0x92210800, 0x0, _, 0, State.tick_of (by decide +kernel), rfl, rfl, by decide +kernel, by decide +kernel, issues_of (by decide +kernel)⟩,
   ⟨(State.reset.setCr 32 (fun k => { k with pend := [⟨0, .x 3 7, true⟩] })), (State.reset.setCr 32 (fun k => { k with pend := [⟨0, .x 3 7, true⟩] })), 0, 32, 3, 7, State.tick_of (by decide +kernel), by decide +kernel⟩⟩

theorem test_witness_flowInstructionsComplete :
    (∃ (s : State) (u : State) (v : State) (t : Time) (c : Fin 33) (w0 : Word) (w1 : Word) (k : CoreSt), s.tick t = u ∧ u.atIssue c = v ∧ v.cr c = k ∧ u.Issues c .bcc w0 w1 false) ∧
    (∃ (s : State) (u : State) (v : State) (t : Time) (c : Fin 33) (w0 : Word) (w1 : Word) (k : CoreSt), s.tick t = u ∧ u.atIssue c = v ∧ v.cr c = k ∧ u.Issues c .bri w0 w1 false) ∧
    (∃ (s : State) (u : State) (v : State) (t : Time) (c : Fin 33) (w0 : Word) (w1 : Word) (k : CoreSt), s.tick t = u ∧ u.atIssue c = v ∧ v.cr c = k ∧ u.Issues c .call w0 w1 false) ∧
    (∃ (s : State) (u : State) (v : State) (t : Time) (c : Fin 33) (w0 : Word) (w1 : Word) (k : CoreSt), s.tick t = u ∧ u.atIssue c = v ∧ v.cr c = k ∧ u.Issues c .calli w0 w1 false) ∧
    (∃ (s : State) (u : State) (v : State) (t : Time) (c : Fin 33) (w0 : Word) (w1 : Word) (k : CoreSt), s.tick t = u ∧ u.atIssue c = v ∧ v.cr c = k ∧ u.Issues c .ret w0 w1 false) ∧
    (∃ (s : State) (u : State) (v : State) (t : Time) (c : Fin 33) (w0 : Word) (w1 : Word) (k : CoreSt), s.tick t = u ∧ u.atIssue c = v ∧ v.cr c = k ∧ u.Issues c .reti w0 w1 false) ∧
    (∃ (s : State) (u : State) (v : State) (t : Time) (c : Fin 33) (w0 : Word) (w1 : Word) (k : CoreSt), s.tick t = u ∧ u.atIssue c = v ∧ v.cr c = k ∧ u.Issues c .nop w0 w1 false) ∧
    (∃ (s : State) (u : State) (v : State) (t : Time) (c : Fin 33) (w0 : Word) (w1 : Word) (k : CoreSt), s.tick t = u ∧ u.atIssue c = v ∧ v.cr c = k ∧ u.Issues c .rpt w0 w1 false) :=
  ⟨⟨(isa 1 0xc00fffff 0x00000000), (isa 1 0xc00fffff 0x00000000), _, 0, 1, 0xc00fffff, 0x0, _, State.tick_of (by decide +kernel), rfl, rfl, issues_of (by decide +kernel)⟩,
   ⟨(isa 1 0xc8780000 0x00000000), (isa 1 0xc8780000 0x00000000), _, 0, 1, 0xc8780000, 0x0, _, State.tick_of (by decide +kernel), rfl, rfl, issues_of (by decide +kernel)⟩,
   ⟨(isa 1 0xc40fffff 0x00000000), (isa 1 0xc40fffff 0x00000000), _, 0, 1, 0xc40fffff, 0x0, _, State.tick_of (by decide +kernel), rfl, rfl, issues_of (by decide +kernel)⟩,
   ⟨(isa 1 0xc8b80000 0x00000000), (isa 1 0xc8b80000 0x00000000), _, 0, 1, 0xc8b80000, 0x0, _, State.tick_of (by decide +kernel), rfl, rfl, issues_of (by decide +kernel)⟩,
   ⟨(isa 1 0xc8c00000 0x00000000), (isa 1 0xc8c00000 0x00000000), _, 0, 1, 0xc8c00000, 0x0, _, State.tick_of (by decide +kernel), rfl, rfl, issues_of (by decide +kernel)⟩,
   ⟨(isa 31 0xc9400000 0x00000000), (isa 31 0xc9400000 0x00000000), _, 0, 31, 0xc9400000, 0x0, _, State.tick_of (by decide +kernel), rfl, rfl, issues_of (by decide +kernel)⟩,
   ⟨(isa 1 0xc8000000 0x00000000), (isa 1 0xc8000000 0x00000000), _, 0, 1, 0xc8000000, 0x0, _, State.tick_of (by decide +kernel), rfl, rfl, issues_of (by decide +kernel)⟩,
   ⟨(isa 1 0xd0000fff 0x00000000), (isa 1 0xd0000fff 0x00000000), _, 0, 1, 0xd0000fff, 0x0, _, State.tick_of (by decide +kernel), rfl, rfl, issues_of (by decide +kernel)⟩⟩

theorem test_witness_flowInstructionsComplete_2 :
    (∃ (s : State) (u : State) (v : State) (t : Time) (c : Fin 33) (w0 : Word) (w1 : Word) (k : CoreSt), s.tick t = u ∧ u.atIssue c = v ∧ v.cr c = k ∧ u.Issues c .retn w0 w1 false) ∧
    (∃ (s : State) (u : State) (v : State) (t : Time) (c : Fin 33) (w0 : Word) (w1 : Word) (k : CoreSt), s.tick t = u ∧ u.atIssue c = v ∧ v.cr c = k ∧ u.Issues c .bkpt w0 w1 false) ∧
    (∃ (s : State) (u : State) (v : State) (t : Time) (w0 : Word) (w1 : Word), s.tick t = u ∧ u.atIssue 32 = v ∧ (u.landDue 32).canIssue 32 false = true ∧ u.wordsAt 32 = some (w0, w1) ∧ opOf w0 = some .bkpt ∧ v.bit (R.PG_ERRINJ (corePage 32)) 16 = false ∧ v.sess.proof = false) ∧
    (∃ (s : State) (u : State) (v : State) (t : Time) (c : Fin 33) (w0 : Word) (w1 : Word) (k : CoreSt) (st : Nat) (e : Nat) (n : Nat), s.tick t = u ∧ u.atIssue c = v ∧ v.cr c = k ∧ k.loops.length < 3 ∧ st + 2 ≤ e ∧ u.Issues c .brpt w0 w1 false ∧ (k.pc + 1) % 2 ^ 20 = st ∧ (st + wfld w0 9 0) % 2 ^ 20 = e ∧ wfld w0 25 10 + 1 = n) ∧
    (∃ (s : State) (u : State) (v : State) (t : Time) (c : Fin 33) (w0 : Word) (w1 : Word) (k : CoreSt) (st : Nat) (e : Nat) (n : Nat), s.tick t = u ∧ u.atIssue c = v ∧ v.cr c = k ∧ k.loops.length < 3 ∧ st + 2 ≤ e ∧ u.Issues c .brptL w0 w1 false ∧ (k.pc + 2) % 2 ^ 20 = st ∧ wfld w0 19 0 = e ∧ (if wbit w0 25 then (vget k.x (wfld w0 24 21)).toNat % 2 ^ 16 else wfld w1 15 0) + 1 = n) :=
  ⟨⟨(isa 31 0xc9000000 0x0), (isa 31 0xc9000000 0x0), _, 0, 31, 0xc9000000, 0x0, _, State.tick_of (by decide +kernel), rfl, rfl, issues_of (by decide +kernel)⟩,
   ⟨(isa 1 0xc9800000 0x0), (isa 1 0xc9800000 0x0), _, 0, 1, 0xc9800000, 0x0, _, State.tick_of (by decide +kernel), rfl, rfl, issues_of (by decide +kernel)⟩,
   ⟨(isa 32 0xc9800000 0x0), (isa 32 0xc9800000 0x0), _, 0, 0xc9800000, 0x0, State.tick_of (by decide +kernel), rfl, by decide +kernel⟩,
   ⟨(isa 31 0xd4000402 0x0), (isa 31 0xd4000402 0x0), _, 0, 31, 0xd4000402, 0x0, _, 1, 3, 2, State.tick_of (by decide +kernel), rfl, rfl, by decide +kernel, by decide +kernel, issues_of (by decide +kernel), by decide +kernel⟩,
   ⟨(isa 31 0xd80fffff 0xffff), (isa 31 0xd80fffff 0xffff), _, 0, 31, 0xd80fffff, 0xffff, _, 2, 0xfffff, 0x10000, State.tick_of (by decide +kernel), rfl, rfl, by decide +kernel, by decide +kernel, issues_of (by decide +kernel), by decide +kernel⟩⟩

theorem test_witness_periodInstructionsComplete :
    (∃ (s : State) (u : State) (v : State) (t : Time) (c : Fin 33) (w0 : Word) (w1 : Word) (k : CoreSt), s.tick t = u ∧ u.atIssue c = v ∧ v.cr c = k ∧ u.Issues c .waitt w0 w1 false ∧ v.usesPeriod c (wfld w0 25 20) (wfld w0 19 18) = true) ∧
    (∃ (s : State) (u : State) (v : State) (t : Time) (c : Fin 33) (w0 : Word) (w1 : Word) (k : CoreSt) (key : Nat) (a : Nat) (upd : List (Nat × Wr)) (f : Frame), s.tick t = u ∧ u.atIssue c = v ∧ v.cr c = k ∧ u.Issues c .in_ w0 w1 false ∧ v.ioPeriod c w0 = some key ∧ k.addrF w0 = (a, upd) ∧ k.frameOf key = some f) ∧
    (∃ (s : State) (u : State) (v : State) (t : Time) (c : Fin 33) (w0 : Word) (w1 : Word) (k : CoreSt) (key : Nat) (a : Nat) (upd : List (Nat × Wr)) (f : Frame), s.tick t = u ∧ u.atIssue c = v ∧ v.cr c = k ∧ u.Issues c .out w0 w1 false ∧ v.ioPeriod c w0 = some key ∧ k.addrF w0 = (a, upd) ∧ k.frameOf key = some f ∧ tget 0 k.outs key < v.resOf (key / 4) (key % 4)) ∧
    (∃ (s : State) (u : State) (v : State) (t : Time) (c : Fin 33) (w0 : Word) (w1 : Word) (k : CoreSt) (a : Nat) (upd : List (Nat × Wr)), s.tick t = u ∧ u.atIssue c = v ∧ v.cr c = k ∧ u.Issues c .trc w0 w1 false ∧ k.addrF w0 = (a, upd) ∧ k.trc.length < 16) :=
  ⟨⟨(((isa 1 0x6ff80000 0).putBit (R.SLUICE.AX_CTRL 63) 0 true).putFld (R.SLUICE.AX_CFG 63) 1 0 3).putFld (R.SLUICE.AX_PLACE 63) 4 0 1, (((isa 1 0x6ff80000 0).putBit (R.SLUICE.AX_CTRL 63) 0 true).putFld (R.SLUICE.AX_CFG 63) 1 0 3).putFld (R.SLUICE.AX_PLACE 63) 4 0 1, _, 0, 1, 0x6ff80000, 0x0, _, State.tick_of (by decide +kernel), rfl, rfl, issues_of (by decide +kernel), by decide +kernel⟩,
   ⟨(((((isa 1 0x60ee001f 0).putBit (R.SLUICE.AX_CTRL 63) 0 true).putFld (R.SLUICE.AX_CFG 63) 1 0 3).putFld (R.SLUICE.AX_PLACE 63) 4 0 1).putFld (R.CORE.STAT 1) 22 16 (64 + 63)).setCr 1 (fun k => { k with frames := [(254, { k := 5 })] }), (((((isa 1 0x60ee001f 0).putBit (R.SLUICE.AX_CTRL 63) 0 true).putFld (R.SLUICE.AX_CFG 63) 1 0 3).putFld (R.SLUICE.AX_PLACE 63) 4 0 1).putFld (R.CORE.STAT 1) 22 16 (64 + 63)).setCr 1 (fun k => { k with frames := [(254, { k := 5 })] }), _, 0, 1, 0x60ee001f, 0x0, _, 254, 31, [], { k := 5 }, State.tick_of (by decide +kernel), rfl, rfl, issues_of (by decide +kernel), by decide +kernel⟩,
   ⟨((((((isa 1 0x64ee003f 0).putBit (R.SLUICE.AX_CTRL 63) 0 true).putFld (R.SLUICE.AX_CFG 63) 1 0 3).putFld (R.SLUICE.AX_PLACE 63) 4 0 1).putFld (R.CORE.STAT 1) 22 16 (64 + 63)).putFld (R.SLUICE.AX_RES 63) 22 16 1).setCr 1 (fun k => { k with frames := [(254, { k := 5 })] }), ((((((isa 1 0x64ee003f 0).putBit (R.SLUICE.AX_CTRL 63) 0 true).putFld (R.SLUICE.AX_CFG 63) 1 0 3).putFld (R.SLUICE.AX_PLACE 63) 4 0 1).putFld (R.CORE.STAT 1) 22 16 (64 + 63)).putFld (R.SLUICE.AX_RES 63) 22 16 1).setCr 1 (fun k => { k with frames := [(254, { k := 5 })] }), _, 0, 1, 0x64ee003f, 0x0, _, 254, 63, [], { k := 5 }, State.tick_of (by decide +kernel), rfl, rfl, issues_of (by decide +kernel), by decide +kernel⟩,
   ⟨(isa 1 0x68ce003f 0x0), (isa 1 0x68ce003f 0x0), _, 0, 1, 0x68ce003f, 0x0, _, 63, [], State.tick_of (by decide +kernel), rfl, rfl, issues_of (by decide +kernel), by decide +kernel⟩⟩

theorem test_witness_coreCommandsComplete :
    (∃ (s : State) (u : State) (v : State) (t : Time) (k : Fin 4) (x : Nat), s.tick t = u ∧ u.coreState (28 + k.val) = 1 ∧ u.cleanBoundary (28 + k.val) = true ∧ u.landDue (28 + k.val) = v ∧ v.vecTake k = some x ∧ 2 ≤ x ∧ x < 8) ∧
    (∃ (s : State) (u : State) (v : State) (t : Time) (k : Fin 4) (x : Nat) (ty : Nat) (n : Nat), s.tick t = u ∧ u.coreState (28 + k.val) = 1 ∧ u.cleanBoundary (28 + k.val) = true ∧ u.landDue (28 + k.val) = v ∧ v.vecTake k = some x ∧ 8 ≤ x ∧ routeHit v (v.rg (R.MW.ROUTE k (x - 8))) = some (ty, n)) ∧
    (∃ (s : State) (u : State) (t : Time) (d : Time) (k : Fin 4), s.tick t = u ∧ (u.cr (28 + k.val)).wdDue = some d ∧ d ≤ u.now ∧ u.bit (R.MW.WDOG k) 31 = true ∧ (u.cr (28 + k.val)).wdOnce = false) ∧
    (∃ (s : State) (u : State) (t : Time) (d : Time) (k : Fin 4), s.tick t = u ∧ (u.cr (28 + k.val)).wdDue = some d ∧ d ≤ u.now ∧ u.bit (R.MW.WDOG k) 31 = true ∧ (u.cr (28 + k.val)).wdOnce = true) ∧
    (∃ (s : State) (u : State) (t : Time) (m : Master) (k : Fin 4), s.tick t = u ∧ u.Writable (R.MW.base k) ∧ u.bit (R.MW.WDOG k) 31 = true ∧ u.coreState (28 + k.val) ≠ 3) ∧
    (∃ (s : State) (u : State) (t : Time) (k : Fin 4) (i : Fin 4), s.tick t = u ∧ u.bit (R.MW.TIMER_CTRL k) i = true ∧ ceilEdge (u.rg64 (R.MW.TIMER k i)) ≤ u.now) ∧
    (∃ (s : State) (u : State) (t : Time) (m : Master) (k : Fin 4), s.tick t = u ∧ u.Writable (R.MW.base k)) ∧
    (∃ (s : State) (u : State) (v : State) (t : Time) (m : Master) (c : Fin 32), s.tick t = u ∧ u.Canonical ∧ u.Writable (corePage c) ∧ u.putBit (R.CORE.CTRL c) 5 (u.bit (R.CORE.CTRL c) 5) = v ∧ v.coreState c = 0 ∧ v.en (corePage c) = true ∧ u.bist.noGo = 0) :=
  ⟨⟨((State.reset.setCoreState 31 1).setRg (R.MW.VEC_EN 3) 8).setCr 31 (fun c => { c with edges := 8, sr := 0x80 }), ((State.reset.setCoreState 31 1).setRg (R.MW.VEC_EN 3) 8).setCr 31 (fun c => { c with edges := 8, sr := 0x80 }), _, 0, 3, 3, State.tick_of (by decide +kernel), by decide +kernel, by decide +kernel, rfl, by decide +kernel⟩,
   ⟨((((((State.reset.setCoreState 31 1).setRg (R.MW.VEC_EN 3) 0x80000000).setRg (R.MW.ROUTE 3 23) 0x80000001).setRg (R.PG_IRQ R.SYS.base) 1).setRg (R.PG_IRQ_EN R.SYS.base) 1)).setCr 31 (fun c => { c with sr := 0x80 }), ((((((State.reset.setCoreState 31 1).setRg (R.MW.VEC_EN 3) 0x80000000).setRg (R.MW.ROUTE 3 23) 0x80000001).setRg (R.PG_IRQ R.SYS.base) 1).setRg (R.PG_IRQ_EN R.SYS.base) 1)).setCr 31 (fun c => { c with sr := 0x80 }), _, 0, 3, 31, 1, 0, State.tick_of (by decide +kernel), by decide +kernel, by decide +kernel, rfl, by decide +kernel⟩,
   ⟨(State.reset.putBit (R.MW.WDOG 3) 31 true).setCr 31 (fun c => { c with wdDue := some 0 }), (State.reset.putBit (R.MW.WDOG 3) 31 true).setCr 31 (fun c => { c with wdDue := some 0 }), 0, 0, 3, State.tick_of (by decide +kernel), by decide +kernel⟩,
   ⟨(State.reset.putBit (R.MW.WDOG 3) 31 true).setCr 31 (fun c => { c with wdDue := some 0, wdOnce := true }), (State.reset.putBit (R.MW.WDOG 3) 31 true).setCr 31 (fun c => { c with wdDue := some 0, wdOnce := true }), 0, 0, 3, State.tick_of (by decide +kernel), by decide +kernel⟩,
   ⟨(State.reset.putBit (R.MW.WDOG 3) 31 true), (State.reset.putBit (R.MW.WDOG 3) 31 true), 0, .host, 3, State.tick_of (by decide +kernel), writable_of (by decide +kernel), by decide +kernel⟩,
   ⟨(State.reset.putBit (R.MW.TIMER_CTRL 3) 3 true), (State.reset.putBit (R.MW.TIMER_CTRL 3) 3 true), 0, 3, 3, State.tick_of (by decide +kernel), by decide +kernel⟩,
   ⟨State.reset, State.reset, 0, .host, 3, State.tick_of (by decide +kernel), writable_of (by decide +kernel)⟩,
   ⟨(State.reset.putBit (R.PG_CTRL (corePage 27)) 0 true), (State.reset.putBit (R.PG_CTRL (corePage 27)) 0 true), (State.reset.putBit (R.PG_CTRL (corePage 27)) 0 true).putBit (R.CORE.CTRL 27) 5 false, 0, .host, 27, State.tick_of (by decide +kernel), canonical_of (by decide +kernel), writable_of (by decide +kernel), rfl, by decide +kernel⟩⟩

theorem test_witness_coreCommandsComplete_2 :
    (∃ (s : State) (u : State) (v : State) (t : Time) (m : Master) (c : Fin 32), s.tick t = u ∧ u.Canonical ∧ u.Writable (corePage c) ∧ u.putBit (R.CORE.CTRL c) 5 (u.bit (R.CORE.CTRL c) 5) = v ∧ v.coreState c ≠ 0) ∧
    (∃ (s : State) (u : State) (v : State) (t : Time) (m : Master) (c : Fin 32), s.tick t = u ∧ u.Canonical ∧ u.Writable (corePage c) ∧ u.putBit (R.CORE.CTRL c) 5 (u.bit (R.CORE.CTRL c) 5) = v ∧ v.mayStop c = true ∧ v.coreState c ≠ 5) ∧
    (∃ (s : State) (u : State) (v : State) (t : Time) (m : Master) (c : Fin 32), s.tick t = u ∧ u.Canonical ∧ u.Writable (corePage c) ∧ u.putBit (R.CORE.CTRL c) 5 (u.bit (R.CORE.CTRL c) 5) = v ∧ v.mayStop c = true ∧ v.coreState c = 1 ∧ (v.reqRefused c false).cleanBoundary c = true) ∧
    (∃ (s : State) (u : State) (v : State) (t : Time) (m : Master) (c : Fin 32), s.tick t = u ∧ u.Canonical ∧ u.Writable (corePage c) ∧ u.putBit (R.CORE.CTRL c) 5 (u.bit (R.CORE.CTRL c) 5) = v ∧ v.coreState c = 3) ∧
    (∃ (s : State) (u : State) (v : State) (t : Time) (m : Master) (c : Fin 32), s.tick t = u ∧ u.Canonical ∧ u.Writable (corePage c) ∧ u.putBit (R.CORE.CTRL c) 5 (u.bit (R.CORE.CTRL c) 5) = v ∧ v.coreState c = 3) ∧
    (∃ (s : State) (u : State) (t : Time) (c : Fin 33), s.tick t = u ∧ u.coreState c = 1 ∧ u.cleanBoundary c = true ∧ u.bit (R.CORE.STAT c) 4 = true) ∧
    (∃ (s : State) (u : State) (t : Time) (c : Fin 33) (b : Nat), s.tick t = u ∧ u.coreState c = 1 ∧ (u.cr c).skipBp = false ∧ u.bpAt c (u.cr c).pc = some b ∧ u.cleanBoundary c = true) ∧
    (∃ (s : State) (u : State) (t : Time) (c : Fin 33) (w : Nat), s.tick t = u ∧ u.bit (R.CORE.STAT c) 4 = true ∧ (u.cr c).haltWhy = (3, w) ∧ u.coreState c = 1 ∧ u.cleanBoundary c = true) :=
  ⟨⟨(State.reset.setCoreState 31 5), (State.reset.setCoreState 31 5), (State.reset.setCoreState 31 5).putBit (R.CORE.CTRL 31) 5 false, 0, .host, 31, State.tick_of (by decide +kernel), canonical_of (by decide +kernel), writable_of (by decide +kernel), rfl, by decide +kernel⟩,
   ⟨State.reset, State.reset, (State.reset).putBit (R.CORE.CTRL 31) 5 false, 0, .host, 31, State.tick_of (by decide +kernel), canonical_of (by decide +kernel), writable_of (by decide +kernel), rfl, by decide +kernel⟩,
   ⟨(State.reset.setCoreState 31 1), (State.reset.setCoreState 31 1), (State.reset.setCoreState 31 1).putBit (R.CORE.CTRL 31) 5 false, 0, .host, 31, State.tick_of (by decide +kernel), canonical_of (by decide +kernel), writable_of (by decide +kernel), rfl, by decide +kernel⟩,
   ⟨(State.reset.setCoreState 31 3), (State.reset.setCoreState 31 3), (State.reset.setCoreState 31 3).putBit (R.CORE.CTRL 31) 5 false, 0, .host, 31, State.tick_of (by decide +kernel), canonical_of (by decide +kernel), writable_of (by decide +kernel), rfl, by decide +kernel⟩,
   ⟨(State.reset.setCoreState 27 3), (State.reset.setCoreState 27 3), (State.reset.setCoreState 27 3).putBit (R.CORE.CTRL 27) 5 false, 0, .host, 27, State.tick_of (by decide +kernel), canonical_of (by decide +kernel), writable_of (by decide +kernel), rfl, by decide +kernel⟩,
   ⟨(State.reset.setCoreState 32 1).putBit (R.CORE.STAT 32) 4 true, (State.reset.setCoreState 32 1).putBit (R.CORE.STAT 32) 4 true, 0, 32, State.tick_of (by decide +kernel), by decide +kernel⟩,
   ⟨(State.reset.setCoreState 32 1).setRg (R.CORE.BP 32 3) 0x80000000, (State.reset.setCoreState 32 1).setRg (R.CORE.BP 32 3) 0x80000000, 0, 32, 3, State.tick_of (by decide +kernel), by decide +kernel⟩,
   ⟨((State.reset.setCoreState 32 1).putBit (R.CORE.STAT 32) 4 true).setCr 32 (fun c => { c with haltWhy := (3, 1) }), ((State.reset.setCoreState 32 1).putBit (R.CORE.STAT 32) 4 true).setCr 32 (fun c => { c with haltWhy := (3, 1) }), 0, 32, 1, State.tick_of (by decide +kernel), by decide +kernel⟩⟩

theorem test_witness_coreCommandsComplete_3 :
    (∃ (s : State) (u : State) (t : Time) (m : Master) (c : Fin 32), s.tick t = u ∧ u.coreQuiet c = true) ∧
    (∃ (s : State) (u : State) (t : Time) (m : Master) (c : Fin 32), s.tick t = u ∧ u.coreQuiet c = false) ∧
    (∃ (s : State) (u : State) (t : Time) (m : Master) (c : Fin 32) (v : Word), s.tick t = u ∧ u.Writable (corePage c) ∧ u.coreQuiet c = true ∧ u.fld (R.CORE.DBG_SEL c) 7 0 ≠ 0x39 ∧ u.fld (R.CORE.DBG_SEL c) 7 0 ≠ 0x3C) :=
  ⟨⟨State.reset, State.reset, 0, .host, 31, State.tick_of (by decide +kernel), by decide +kernel⟩,
   ⟨(State.reset.setCoreState 31 1), (State.reset.setCoreState 31 1), 0, .host, 31, State.tick_of (by decide +kernel), by decide +kernel⟩,
   ⟨State.reset, State.reset, 0, .host, 31, 0, State.tick_of (by decide +kernel), writable_of (by decide +kernel), by decide +kernel⟩⟩

theorem test_witness_captureCommandsComplete :
    (∃ (s : State) (u : State) (v : State) (t : Time) (stamp : Time) (i : Fin 32) (lvl : Bool), s.tick t = u ∧ u.lat.cpPins.getLsbD i ≠ lvl ∧ tdcGlitch (vget u.lat.cpLast i) stamp = false ∧ ({ u with lat := { u.lat with cpPins := wput u.lat.cpPins i i (b2n lvl), cpLast := vupd u.lat.cpLast i.val (fun _ => some stamp) } } : State).probeStamp (16 + i.val) stamp = v ∧ v.en R.CAPT.base = true ∧ v.bit (if lvl then R.CAPT.CP_RISE else R.CAPT.CP_FALL) i = true) ∧
    (∃ (s : State) (u : State) (v : State) (w : State) (t : Time) (stamp : Time) (i : Fin 8) (lvl : Bool), s.tick t = u ∧ u.lat.syncPins.getLsbD i ≠ lvl ∧ tdcGlitch (vget u.lat.syncLast i) stamp = false ∧ ({ u with lat := { u.lat with syncPins := BitVec.ofNat 8 (putBitN u.lat.syncPins.toNat i lvl), syncLast := vupd u.lat.syncLast i.val (fun _ => some stamp) } } : State).probeStamp (8 + i.val) stamp = v ∧ v.en R.CAPT.base = true ∧ v.bit R.CAPT.SYNC_EDGE (if lvl then i.val else 8 + i.val) = true ∧ v.post (0x150 + i.val) 0x01 stamp (b2n lvl) = w ∧ w.fld R.TIME.SNAP_CTRL 2 1 ≠ 1) ∧
    (∃ (s : State) (u : State) (t : Time) (m : Master), s.tick t = u ∧ u.Writable R.CAPT.base ∧ u.fld (R.LT.CFG (u.selOf m).ltsel) 1 0 ≠ 0) ∧
    (∃ (s : State) (u : State) (t : Time) (m : Master), s.tick t = u ∧ u.Writable R.CAPT.base ∧ u.fld (R.LT.CFG (u.selOf m).ltsel) 1 0 = 0) ∧
    (∃ (s : State) (u : State) (t : Time), s.tick t = u) ∧
    (∃ (s : State) (u : State) (t : Time) (m : Master) (r : LatchRes) (l : List LatchRes), s.tick t = u ∧ u.popShut (R.CAPT.base + 0x80) = none ∧ u.lat.queue = r :: l) ∧
    (∃ (s : State) (u : State) (t : Time) (m : Master) (i : Fin 8) (r : LatchRes), s.tick t = u ∧ u.popShut (R.CAPT.base + 0x80 + 4 * i.val) = none ∧ u.lat.hold = some (m, r) ∧ i.val ≠ 0 ∧ i.val < 7) ∧
    (∃ (s : State) (u : State) (t : Time) (m : Master) (i : Fin 8) (r : LatchRes), s.tick t = u ∧ u.popShut (R.CAPT.base + 0x80 + 4 * i.val) = none ∧ u.lat.hold = some (m, r) ∧ i.val ≠ 0 ∧ i.val = 7) :=
  ⟨⟨(State.reset.putBit R.CAPT.CP_RISE 31 true).putBit (R.PG_CTRL R.CAPT.base) 0 true, (State.reset.putBit R.CAPT.CP_RISE 31 true).putBit (R.PG_CTRL R.CAPT.base) 0 true, _, 0, 0, 31, true, State.tick_of (by decide +kernel), by decide +kernel, by decide +kernel, rfl, by decide +kernel⟩,
   ⟨(State.reset.putBit R.CAPT.SYNC_EDGE 7 true).putBit (R.PG_CTRL R.CAPT.base) 0 true, (State.reset.putBit R.CAPT.SYNC_EDGE 7 true).putBit (R.PG_CTRL R.CAPT.base) 0 true, _, _, 0, 0, 7, true, State.tick_of (by decide +kernel), by decide +kernel, by decide +kernel, rfl, by decide +kernel, by decide +kernel, rfl, by decide +kernel⟩,
   ⟨(State.reset.setRg (R.LT.CFG 0) 1), (State.reset.setRg (R.LT.CFG 0) 1), 0, .host, State.tick_of (by decide +kernel), writable_of (by decide +kernel), by decide +kernel⟩,
   ⟨State.reset, State.reset, 0, .host, State.tick_of (by decide +kernel), writable_of (by decide +kernel), by decide +kernel⟩,
   ⟨State.reset, State.reset, 0, State.tick_of (by decide +kernel)⟩,
   ⟨{ State.reset with lat := { queue := [⟨Vector.replicate 8 7⟩] } }, { State.reset with lat := { queue := [⟨Vector.replicate 8 7⟩] } }, 0, .host, ⟨Vector.replicate 8 7⟩, [], State.tick_of (by decide +kernel), by decide +kernel⟩,
   ⟨{ State.reset with lat := { hold := some (.host, ⟨Vector.replicate 8 7⟩) } }, { State.reset with lat := { hold := some (.host, ⟨Vector.replicate 8 7⟩) } }, 0, .host, 1, ⟨Vector.replicate 8 7⟩, State.tick_of (by decide +kernel), by decide +kernel⟩,
   ⟨{ State.reset with lat := { hold := some (.host, ⟨Vector.replicate 8 7⟩) } }, { State.reset with lat := { hold := some (.host, ⟨Vector.replicate 8 7⟩) } }, 0, .host, 7, ⟨Vector.replicate 8 7⟩, State.tick_of (by decide +kernel), by decide +kernel⟩⟩

theorem test_witness_captureCommandsComplete_2 :
    (∃ (s : State) (u : State) (t : Time) (k : Fin 33) (w : TraceWord) (rest : List TraceWord), s.tick t = u ∧ k.val < 32 ∧ (vget u.core k).trc = w :: rest ∧ u.hopEn = false) ∧
    (∃ (s : State) (u : State) (v : State) (t : Time) (k : Fin 33) (w : TraceWord) (rest : List TraceWord), s.tick t = u ∧ k.val < 32 ∧ (vget u.core k).trc = w :: rest ∧ u.hopEn = true ∧ wfld (u.hrg (R.HOPPER.CH_SRC w.chan)) 23 20 = 0 ∧ ({ u with core := vupd u.core k.val (fun c => { c with trc := rest }) } : State).thValue w.chan w.val w.stamp = v ∧ v.capturing = true ∧ bitN (v.rg64 R.HOPPER.CH_EN) w.chan = true) ∧
    (∃ (s : State) (u : State) (t : Time), s.tick t = u ∧ u.hopState = 3) ∧
    (∃ (s : State) (u : State) (t : Time) (m : Master), s.tick t = u ∧ u.Writable R.HOPPER.base ∧ u.hopState = 0 ∧ u.hop.bist = false ∧ u.bit R.HOPPER.TRIG_CFG 9 = false) ∧
    (∃ (s : State) (u : State) (t : Time) (m : Master), s.tick t = u ∧ u.Writable R.HOPPER.base ∧ u.hopState ≠ 0) ∧
    (∃ (s : State) (u : State) (t : Time) (m : Master), s.tick t = u ∧ u.Writable R.HOPPER.base ∧ u.hopState ≠ 2) ∧
    (∃ (s : State) (u : State) (t : Time) (m : Master), s.tick t = u ∧ u.Writable R.HOPPER.base) ∧
    (∃ (s : State) (u : State) (t : Time) (m : Master), s.tick t = u ∧ u.Writable R.HOPPER.base ∧ u.hopState = 0) :=
  ⟨⟨(State.reset.setCr 31 (fun k => { k with trc := [⟨1, 2, 3⟩] })), (State.reset.setCr 31 (fun k => { k with trc := [⟨1, 2, 3⟩] })), 0, 31, ⟨1, 2, 3⟩, [], State.tick_of (by decide +kernel), by decide +kernel⟩,
   ⟨((((State.reset.setHopState 1).putBit (R.PG_CTRL R.HOPPER.base) 0 true).setRg64 R.HOPPER.CH_EN 2).setCr 31 (fun k => { k with trc := [⟨1, 2, 3⟩] })), ((((State.reset.setHopState 1).putBit (R.PG_CTRL R.HOPPER.base) 0 true).setRg64 R.HOPPER.CH_EN 2).setCr 31 (fun k => { k with trc := [⟨1, 2, 3⟩] })).tick 0, _, 0, 31, ⟨1, 2, 3⟩, [], rfl, by decide +kernel, by decide +kernel, by decide +kernel, by decide +kernel, rfl, by decide +kernel⟩,
   ⟨(State.reset.setHopState 3), (State.reset.setHopState 3), 0, State.tick_of (by decide +kernel), by decide +kernel⟩,
   ⟨State.reset, State.reset, 0, .host, State.tick_of (by decide +kernel), writable_of (by decide +kernel), by decide +kernel⟩,
   ⟨(State.reset.setHopState 4), (State.reset.setHopState 4), 0, .host, State.tick_of (by decide +kernel), writable_of (by decide +kernel), by decide +kernel⟩,
   ⟨(State.reset.setHopState 1), (State.reset.setHopState 1), 0, .host, State.tick_of (by decide +kernel), writable_of (by decide +kernel), by decide +kernel⟩,
   ⟨State.reset, State.reset, 0, .host, State.tick_of (by decide +kernel), writable_of (by decide +kernel)⟩,
   ⟨State.reset, State.reset, 0, .host, State.tick_of (by decide +kernel), writable_of (by decide +kernel), by decide +kernel⟩⟩

theorem test_witness_captureCommandsComplete_3 :
    (∃ (s : State) (u : State) (t : Time), s.tick t = u ∧ u.hopState ≠ 0 ∧ u.bit R.HOPPER.TRIG_CFG 9 = true ∧ u.mtReached (mtOfRegs (u.rg64 R.HOPPER.TRIG_MT_SEC) (u.rg64 R.HOPPER.TRIG_MT_NSF)) = true ∧ u.unsureAt (edgeOf (ceilEdge u.now)) = false) ∧
    (∃ (s : State) (u : State) (v : State) (t : Time) (m : Master) (x : Word), s.tick t = u ∧ u.Writable R.HOPPER.base ∧ u.putFld R.HOPPER.SEG_RD 15 0 (x.toNat % 2 ^ 16) = v ∧ v.fld R.HOPPER.DRAIN_CTRL 1 0 ≠ 0) ∧
    (∃ (s : State) (u : State) (v : State) (t : Time) (m : Master) (x : Word), s.tick t = u ∧ u.Writable R.HOPPER.base ∧ u.putFld R.HOPPER.SEG_RD 15 0 (x.toNat % 2 ^ 16) = v ∧ v.fld R.HOPPER.DRAIN_CTRL 1 0 = 0) ∧
    (∃ (s : State) (u : State) (t : Time) (m : Master) (v : Word), s.tick t = u ∧ u.Writable R.HOPPER.base) ∧
    (∃ (s : State) (u : State) (t : Time) (g : HopSeg) (rest : List HopSeg) (sz : Nat) (src : Nat) (dest : Nat), s.tick t = u ∧ u.copying = true ∧ u.hop.segs = g :: rest ∧ u.hop.bad = [] ∧ 2 ^ u.segSize = sz ∧ u.segBase g.idx = src ∧ (if u.fld R.HOPPER.DRAIN_CTRL 1 0 = 1 then hostBase else pondBase) + (u.rg64 R.HOPPER.DRAIN_BASE / sz * sz + (u.rg R.HOPPER.DRAIN_WR).toNat % nz (u.fld R.HOPPER.DRAIN_SLOTS 16 0) * sz) = dest) :=
  ⟨⟨((State.reset.setHopState 1).putBit R.HOPPER.TRIG_CFG 9 true).putBit R.TIME.MT_STAT 0 false, ((State.reset.setHopState 1).putBit R.HOPPER.TRIG_CFG 9 true).putBit R.TIME.MT_STAT 0 false, 0, State.tick_of (by decide +kernel), by decide +kernel⟩,
   ⟨(State.reset.putFld R.HOPPER.DRAIN_CTRL 1 0 1), (State.reset.putFld R.HOPPER.DRAIN_CTRL 1 0 1), (State.reset.putFld R.HOPPER.DRAIN_CTRL 1 0 1).putFld R.HOPPER.SEG_RD 15 0 0, 0, .host, 0, State.tick_of (by decide +kernel), writable_of (by decide +kernel), rfl, by decide +kernel⟩,
   ⟨State.reset, State.reset, (State.reset.putFld R.HOPPER.SEG_RD 15 0 0), 0, .host, 0, State.tick_of (by decide +kernel), writable_of (by decide +kernel), rfl, by decide +kernel⟩,
   ⟨State.reset, State.reset, 0, .host, 0, State.tick_of (by decide +kernel), writable_of (by decide +kernel)⟩,
   ⟨(((State.reset.setHop (fun h => { h with segs := [⟨0, 0⟩] })).putFld R.HOPPER.DRAIN_CTRL 1 0 2).putFld R.HOPPER.DRAIN_SLOTS 16 0 1).putFld R.HOPPER.SEG_CFG 4 0 6, (((State.reset.setHop (fun h => { h with segs := [⟨0, 0⟩] })).putFld R.HOPPER.DRAIN_CTRL 1 0 2).putFld R.HOPPER.DRAIN_SLOTS 16 0 1).putFld R.HOPPER.SEG_CFG 4 0 6, 0, ⟨0, 0⟩, [], 64, hopperBase, pondBase, State.tick_of (by decide +kernel), by decide +kernel⟩⟩

theorem test_witness_axisCommandsComplete :
    (∃ (s : State) (u : State) (t : Time) (tk : Time) (a : Fin 64), s.tick t = u ∧ (u.axs a).next = some tk ∧ tk ≤ u.now ∧ u.axRun a = true ∧ u.levelDue a (u.levels a - 1) = true ∧ (u.aw a).tick ≠ some tk ∧ u.groupOf a = none ∧ u.wallSrc a = false) ∧
    (∃ (s : State) (u : State) (t : Time) (tk : Time) (a : Fin 64), s.tick t = u ∧ (u.axs a).next = some tk ∧ tk ≤ u.now ∧ u.axRun a = true ∧ u.levelDue a (u.levels a - 1) = true ∧ (u.aw a).tick ≠ some tk ∧ u.groupOf a = none ∧ u.wallSrc a = true ∧ (u.linkOf a).all (fun l => u.msrc l != 0) = true) ∧
    (∃ (s : State) (u : State) (t : Time) (tk : Time) (a : Fin 64) (g : Nat), s.tick t = u ∧ (u.axs a).next = some tk ∧ tk ≤ u.now ∧ u.axRun a = true ∧ u.levelDue a (u.levels a - 1) = true ∧ (u.aw a).tick ≠ some tk ∧ u.groupOf a = some g) ∧
    (∃ (s : State) (u : State) (t : Time) (m : Master) (a : Fin 64) (v : Word), s.tick t = u ∧ u.Writable (R.AXIS.base a) ∧ (v.toNat % 1024 + 1024 - u.fld (R.AXIS.Q_RD a) 9 0) % 1024 ≤ 512 ∧ u.qLevel a ≤ (v.toNat % 1024 + 1024 - u.fld (R.AXIS.Q_RD a) 9 0) % 1024) ∧
    (∃ (s : State) (u : State) (t : Time) (m : Master) (a : Fin 64) (v : Word), s.tick t = u ∧ u.Writable (R.AXIS.base a) ∧ 512 < (v.toNat % 1024 + 1024 - u.fld (R.AXIS.Q_RD a) 9 0) % 1024) ∧
    (∃ (s : State) (u : State) (t : Time) (m : Master) (a : Fin 64) (v : Word), s.tick t = u ∧ u.Writable (R.AXIS.base a) ∧ (v.toNat % 1024 + 1024 - u.fld (R.AXIS.Q_RD a) 9 0) % 1024 < u.qLevel a) ∧
    (∃ (s : State) (u : State) (t : Time) (m : Master) (a : Fin 64), s.tick t = u ∧ u.Writable (R.AXIS.base a) ∧ u.axState a = 0 ∧ u.axRun a = true ∧ u.groupOf a = none ∧ (u.aw a).invalid = false ∧ u.stopDecOf a ≠ 0 ∧ u.wallSrc a = false) ∧
    (∃ (s : State) (u : State) (t : Time) (m : Master) (a : Fin 64), s.tick t = u ∧ u.Writable (R.AXIS.base a) ∧ u.axState a ≠ 0) :=
  ⟨⟨((State.reset.putBit (R.SLUICE.AX_CTRL 63) 0 true).putFld (R.SLUICE.AX_CFG 63) 1 0 1).setAx 63 (fun x => { x with next := some 0 }), ((State.reset.putBit (R.SLUICE.AX_CTRL 63) 0 true).putFld (R.SLUICE.AX_CFG 63) 1 0 1).setAx 63 (fun x => { x with next := some 0 }), 0, 0, 63, State.tick_of (by decide +kernel), by decide +kernel⟩,
   ⟨((((State.reset.setRg (R.AXIS.CTRL 63) 1).putBit (R.SLUICE.AX_CTRL 63) 0 true).putFld (R.SLUICE.AX_CFG 63) 1 0 1).setAx 63 (fun x => { x with next := some 0 })), ((((State.reset.setRg (R.AXIS.CTRL 63) 1).putBit (R.SLUICE.AX_CTRL 63) 0 true).putFld (R.SLUICE.AX_CFG 63) 1 0 1).setAx 63 (fun x => { x with next := some 0 })), 0, 0, 63, State.tick_of (by decide +kernel), by decide +kernel⟩,
   ⟨((((State.reset.setRg64 (R.IGRP.MEMBERS 15) (2 ^ 63)).putBit (R.IGRP.CTRL 15) 0 true).putBit (R.SLUICE.AX_CTRL 63) 0 true).putFld (R.SLUICE.AX_CFG 63) 1 0 1).setAx 63 (fun x => { x with next := some 0 }), ((((State.reset.setRg64 (R.IGRP.MEMBERS 15) (2 ^ 63)).putBit (R.IGRP.CTRL 15) 0 true).putBit (R.SLUICE.AX_CTRL 63) 0 true).putFld (R.SLUICE.AX_CFG 63) 1 0 1).setAx 63 (fun x => { x with next := some 0 }), 0, 0, 63, 15, State.tick_of (by decide +kernel), by decide +kernel⟩,
   ⟨State.reset, State.reset, 0, .host, 63, 512, State.tick_of (by decide +kernel), writable_of (by decide +kernel), by decide +kernel⟩,
   ⟨State.reset, State.reset, 0, .host, 63, 513, State.tick_of (by decide +kernel), writable_of (by decide +kernel), by decide +kernel⟩,
   ⟨(State.reset.setRg (R.AXIS.Q_WR 63) 2), (State.reset.setRg (R.AXIS.Q_WR 63) 2), 0, .host, 63, 1, State.tick_of (by decide +kernel), writable_of (by decide +kernel), by decide +kernel⟩,
   ⟨(State.reset.putBit (R.SLUICE.AX_CTRL 63) 0 true).setRg64 (R.AXIS.DMAX 63) 5, (State.reset.putBit (R.SLUICE.AX_CTRL 63) 0 true).setRg64 (R.AXIS.DMAX 63) 5, 0, .host, 63, State.tick_of (by decide +kernel), writable_of (by decide +kernel), by decide +kernel⟩,
   ⟨(State.reset.setAxState 63 2), (State.reset.setAxState 63 2), 0, .host, 63, State.tick_of (by decide +kernel), writable_of (by decide +kernel), by decide +kernel⟩⟩

theorem test_witness_axisCommandsComplete_2 :
    (∃ (s : State) (u : State) (t : Time) (m : Master) (a : Fin 64), s.tick t = u ∧ u.Writable (R.AXIS.base a) ∧ u.axState a = 2 ∧ u.groupOf a = none) ∧
    (∃ (s : State) (u : State) (t : Time) (m : Master) (a : Fin 64), s.tick t = u ∧ u.Writable (R.AXIS.base a) ∧ (u.axState a = 0 ∨ u.axState a = 3 ∨ u.axState a = 4)) ∧
    (∃ (s : State) (u : State) (t : Time) (m : Master) (a : Fin 64) (g : Nat), s.tick t = u ∧ u.Writable (R.AXIS.base a) ∧ u.axState a = 2 ∧ u.groupOf a = some g) ∧
    (∃ (s : State) (u : State) (t : Time) (m : Master) (a : Fin 64), s.tick t = u ∧ u.Writable (R.AXIS.base a) ∧ u.linkOf a = none ∧ u.groupOf a = none ∧ u.axState a = 4 ∧ u.axRun a = true ∧ u.resumeOk a = true ∧ u.stopDecOf a ≠ 0) ∧
    (∃ (s : State) (u : State) (t : Time) (m : Master) (a : Fin 64), s.tick t = u ∧ u.Writable (R.AXIS.base a) ∧ u.groupOf a = none ∧ u.axState a = 4 ∧ u.linkOf a = none) ∧
    (∃ (s : State) (u : State) (t : Time) (m : Master) (a : Fin 64) (l : Nat), s.tick t = u ∧ u.Writable (R.AXIS.base a) ∧ u.groupOf a = none ∧ u.axState a = 4 ∧ u.linkOf a = some l) ∧
    (∃ (s : State) (u : State) (t : Time) (m : Master) (a : Fin 64), s.tick t = u ∧ u.Writable (R.AXIS.base a) ∧ u.atRest a = true) ∧
    (∃ (s : State) (u : State) (t : Time) (m : Master) (a : Fin 64), s.tick t = u ∧ u.Writable (R.AXIS.base a) ∧ u.atRest a = false) :=
  ⟨⟨(State.reset.setAxState 63 2), (State.reset.setAxState 63 2), 0, .host, 63, State.tick_of (by decide +kernel), writable_of (by decide +kernel), by decide +kernel⟩,
   ⟨(State.reset.setAxState 63 4), (State.reset.setAxState 63 4), 0, .host, 63, State.tick_of (by decide +kernel), writable_of (by decide +kernel), by decide +kernel⟩,
   ⟨((State.reset.setRg64 (R.IGRP.MEMBERS 15) (2 ^ 63)).putBit (R.IGRP.CTRL 15) 0 true).setAxState 63 2, ((State.reset.setRg64 (R.IGRP.MEMBERS 15) (2 ^ 63)).putBit (R.IGRP.CTRL 15) 0 true).setAxState 63 2, 0, .host, 63, 15, State.tick_of (by decide +kernel), writable_of (by decide +kernel), by decide +kernel⟩,
   ⟨((State.reset.putBit (R.SLUICE.AX_CTRL 63) 0 true).setRg64 (R.AXIS.DMAX 63) 5).setAxState 63 4, ((State.reset.putBit (R.SLUICE.AX_CTRL 63) 0 true).setRg64 (R.AXIS.DMAX 63) 5).setAxState 63 4, 0, .host, 63, State.tick_of (by decide +kernel), writable_of (by decide +kernel), by decide +kernel⟩,
   ⟨(State.reset.setAxState 63 4), (State.reset.setAxState 63 4), 0, .host, 63, State.tick_of (by decide +kernel), writable_of (by decide +kernel), by decide +kernel⟩,
   ⟨((State.reset.setAxState 63 4).setRg (R.LINK.CFG 62) 63).setLinkState 62 5, ((State.reset.setAxState 63 4).setRg (R.LINK.CFG 62) 63).setLinkState 62 5, 0, .host, 63, 62, State.tick_of (by decide +kernel), writable_of (by decide +kernel), by decide +kernel⟩,
   ⟨(State.reset.setRg (R.AXIS.Q_WR 63) 7), (State.reset.setRg (R.AXIS.Q_WR 63) 7), 0, .host, 63, State.tick_of (by decide +kernel), writable_of (by decide +kernel), by decide +kernel⟩,
   ⟨(State.reset.setAxState 63 2), (State.reset.setAxState 63 2), 0, .host, 63, State.tick_of (by decide +kernel), writable_of (by decide +kernel), by decide +kernel⟩⟩

theorem test_witness_axisCommandsComplete_3 :
    (∃ (s : State) (u : State) (t : Time) (m : Master) (a : Fin 64), s.tick t = u ∧ u.Writable (R.AXIS.base a) ∧ u.atRest a = true) ∧
    (∃ (s : State) (u : State) (t : Time) (m : Master) (a : Fin 64), s.tick t = u ∧ u.Writable (R.AXIS.base a) ∧ u.atRest a = false) ∧
    (∃ (s : State) (u : State) (t : Time) (m : Master) (a : Fin 64), s.tick t = u ∧ u.Writable (R.AXIS.base a) ∧ (vget u.fbSel a).primary = none) ∧
    (∃ (s : State) (u : State) (t : Time) (m : Master) (a : Fin 64) (n : Nat), s.tick t = u ∧ u.Writable (R.AXIS.base a) ∧ u.atRest a = true ∧ (vget u.fbSel a).primary = some n ∧ (u.fbSample n u.now).2.2.2 = true) :=
  ⟨⟨State.reset, State.reset, 0, .host, 63, State.tick_of (by decide +kernel), writable_of (by decide +kernel), by decide +kernel⟩,
   ⟨(State.reset.setAxState 63 2), (State.reset.setAxState 63 2), 0, .host, 63, State.tick_of (by decide +kernel), writable_of (by decide +kernel), by decide +kernel⟩,
   ⟨State.reset, State.reset, 0, .host, 63, State.tick_of (by decide +kernel), writable_of (by decide +kernel), by decide +kernel⟩,
   ⟨{ (State.reset.setRg (R.FBP.STAT 47) 1) with fbSel := vupd State.reset.fbSel 63 (fun f => { f with sel := 0x6f }) }, { (State.reset.setRg (R.FBP.STAT 47) 1) with fbSel := vupd State.reset.fbSel 63 (fun f => { f with sel := 0x6f }) }, 0, .host, 63, 47, State.tick_of (by decide +kernel), writable_of (by decide +kernel), by decide +kernel⟩⟩

theorem test_witness_groupCommandsComplete :
    (∃ (s : State) (u : State) (t : Time) (m : Master) (g : Fin 16) (v : Word), s.tick t = u ∧ u.Writable (R.IGRP.base g) ∧ u.bit (R.IGRP.CTRL g) 0 = false ∧ bitsN v.toNat 20 16 = u.fld (R.IGRP.CTRL g) 20 16 ∧ bitN v.toNat 0 = true ∧ u.grRefusal g ≠ 0) ∧
    (∃ (s : State) (u : State) (t : Time) (m : Master) (g : Fin 16) (v : Word), s.tick t = u ∧ u.Writable (R.IGRP.base g) ∧ u.bit (R.IGRP.CTRL g) 0 = false ∧ bitsN v.toNat 20 16 = u.fld (R.IGRP.CTRL g) 20 16 ∧ bitN v.toNat 0 = true ∧ u.grRefusal g = 0 ∧ bitsN v.toNat 13 8 ∈ u.members g) ∧
    (∃ (s : State) (u : State) (t : Time) (m : Master) (g : Fin 16), s.tick t = u ∧ u.Writable (R.IGRP.base g) ∧ u.grIs g 0 = true ∧ (u.members g).all (fun a => u.axRun a && !(u.aw a).invalid && u.stopDecOf a != 0) = true) ∧
    (∃ (s : State) (u : State) (t : Time) (m : Master) (g : Fin 16), s.tick t = u ∧ u.Writable (R.IGRP.base g) ∧ u.grIs g 2 = true) ∧
    (∃ (s : State) (u : State) (t : Time) (m : Master) (g : Fin 16), s.tick t = u ∧ u.Writable (R.IGRP.base g) ∧ u.grIs g 4 = true ∧ (u.members g).all (fun a => u.axRun a && u.resumeOk a && u.stopDecOf a != 0) = true) ∧
    (∃ (s : State) (u : State) (t : Time) (m : Master) (g : Fin 16), s.tick t = u ∧ u.Writable (R.IGRP.base g) ∧ u.grIs g 4 = true) ∧
    (∃ (s : State) (u : State) (t : Time) (m : Master) (g : Fin 16), s.tick t = u ∧ u.Writable (R.IGRP.base g) ∧ (u.grIs g 0 || u.grIs g 4) = true) ∧
    (∃ (s : State) (u : State) (t : Time) (m : Master) (g : Fin 16), s.tick t = u ∧ u.Writable (R.IGRP.base g) ∧ u.bit (R.IGRP.CTRL g) 0 = false) :=
  ⟨⟨State.reset, State.reset, 0, .host, 15, 1, State.tick_of (by decide +kernel), writable_of (by decide +kernel), by decide +kernel⟩,
   ⟨((((State.reset.setRg64 (R.IGRP.MEMBERS 15) (2 ^ 63)).putBit (R.SLUICE.AX_CTRL 63) 0 true).putFld (R.SLUICE.AX_CFG 63) 1 0 1).setRg (R.SLUICE.AX_TPERIOD 63) 2000).setAx 63 (fun x => { x with next := some 0, prev := some 0 }), ((((State.reset.setRg64 (R.IGRP.MEMBERS 15) (2 ^ 63)).putBit (R.SLUICE.AX_CTRL 63) 0 true).putFld (R.SLUICE.AX_CFG 63) 1 0 1).setRg (R.SLUICE.AX_TPERIOD 63) 2000).setAx 63 (fun x => { x with next := some 0, prev := some 0 }), 0, .host, 15, 0x3f01, State.tick_of (by decide +kernel), writable_of (by decide +kernel), by decide +kernel⟩,
   ⟨(((State.reset.setRg64 (R.IGRP.MEMBERS 15) (2 ^ 63)).putBit (R.IGRP.CTRL 15) 0 true).putBit (R.SLUICE.AX_CTRL 63) 0 true).setRg64 (R.AXIS.DMAX 63) 5, (((State.reset.setRg64 (R.IGRP.MEMBERS 15) (2 ^ 63)).putBit (R.IGRP.CTRL 15) 0 true).putBit (R.SLUICE.AX_CTRL 63) 0 true).setRg64 (R.AXIS.DMAX 63) 5, 0, .host, 15, State.tick_of (by decide +kernel), writable_of (by decide +kernel), by decide +kernel⟩,
   ⟨(State.reset.putBit (R.IGRP.CTRL 15) 0 true).putFld (R.IGRP.STAT 15) 2 0 2, (State.reset.putBit (R.IGRP.CTRL 15) 0 true).putFld (R.IGRP.STAT 15) 2 0 2, 0, .host, 15, State.tick_of (by decide +kernel), writable_of (by decide +kernel), by decide +kernel⟩,
   ⟨((((State.reset.setRg64 (R.IGRP.MEMBERS 15) (2 ^ 63)).putBit (R.IGRP.CTRL 15) 0 true).putFld (R.IGRP.STAT 15) 2 0 4).putBit (R.SLUICE.AX_CTRL 63) 0 true).setRg64 (R.AXIS.DMAX 63) 5, ((((State.reset.setRg64 (R.IGRP.MEMBERS 15) (2 ^ 63)).putBit (R.IGRP.CTRL 15) 0 true).putFld (R.IGRP.STAT 15) 2 0 4).putBit (R.SLUICE.AX_CTRL 63) 0 true).setRg64 (R.AXIS.DMAX 63) 5, 0, .host, 15, State.tick_of (by decide +kernel), writable_of (by decide +kernel), by decide +kernel⟩,
   ⟨((State.reset.setRg64 (R.IGRP.MEMBERS 15) (2 ^ 63)).putBit (R.IGRP.CTRL 15) 0 true).putFld (R.IGRP.STAT 15) 2 0 4, ((State.reset.setRg64 (R.IGRP.MEMBERS 15) (2 ^ 63)).putBit (R.IGRP.CTRL 15) 0 true).putFld (R.IGRP.STAT 15) 2 0 4, 0, .host, 15, State.tick_of (by decide +kernel), writable_of (by decide +kernel), by decide +kernel⟩,
   ⟨((State.reset.setRg64 (R.IGRP.MEMBERS 15) (2 ^ 63)).putBit (R.IGRP.CTRL 15) 0 true).setRg (R.AXIS.Q_WR 63) 4, ((State.reset.setRg64 (R.IGRP.MEMBERS 15) (2 ^ 63)).putBit (R.IGRP.CTRL 15) 0 true).setRg (R.AXIS.Q_WR 63) 4, 0, .host, 15, State.tick_of (by decide +kernel), writable_of (by decide +kernel), by decide +kernel⟩,
   ⟨State.reset, State.reset, 0, .host, 15, State.tick_of (by decide +kernel), writable_of (by decide +kernel), by decide +kernel⟩⟩

theorem test_witness_startSetCommandsComplete :
    (∃ (s : State) (u : State) (t : Time) (m : Master) (n : Fin 16), s.tick t = u ∧ u.Writable (R.IGRP.base n) ∧ u.setArmed n = false ∧ u.fld (R.IGRP.SS_CTRL n) 1 0 ≠ 3) ∧
    (∃ (s : State) (u : State) (t : Time) (m : Master) (n : Fin 16), s.tick t = u ∧ u.Writable (R.IGRP.base n) ∧ u.setArmed n = true) ∧
    (∃ (s : State) (u : State) (t : Time) (m : Master) (n : Fin 16), s.tick t = u ∧ u.Writable (R.IGRP.base n) ∧ u.fld (R.IGRP.SS_CTRL n) 1 0 ≠ 3) ∧
    (∃ (s : State) (u : State) (t : Time) (m : Master) (n : Fin 16), s.tick t = u ∧ u.Writable (R.IGRP.base n) ∧ u.fld (R.IGRP.SS_CTRL n) 1 0 = 0) ∧
    (∃ (s : State) (u : State) (t : Time) (m : Master) (n : Fin 16), s.tick t = u ∧ u.Writable (R.IGRP.base n) ∧ ((u.fld (R.IGRP.SS_CTRL n) 1 0 = 1 ∨ u.fld (R.IGRP.SS_CTRL n) 1 0 = 2))) ∧
    (∃ (s : State) (u : State) (t : Time) (n : Fin 16), s.tick t = u ∧ u.fld (R.IGRP.SS_STAT n) 2 0 = 1 ∧ u.fld (R.IGRP.SS_CTRL n) 1 0 = 2 ∧ u.mtReached (mtOfRegs (u.rg64 (R.IGRP.SS_MT_SEC n)) (u.rg64 (R.IGRP.SS_MT_NSF n))) = true ∧ u.unsureAt (edgeOf (ceilEdge u.now)) = false) ∧
    (∃ (s : State) (u : State) (t : Time) (n : Fin 16), s.tick t = u ∧ u.fld (R.IGRP.SS_STAT n) 2 0 = 1 ∧ u.fld (R.IGRP.SS_CTRL n) 1 0 = 2 ∧ u.mtReached (mtOfRegs (u.rg64 (R.IGRP.SS_MT_SEC n)) (u.rg64 (R.IGRP.SS_MT_NSF n))) = true ∧ u.unsureAt (edgeOf (ceilEdge u.now)) = true) ∧
    (∃ (s : State) (u : State) (t : Time) (n : Fin 16), s.tick t = u ∧ u.fld (R.IGRP.SS_STAT n) 2 0 = 2 ∧ (vget u.sset n).ts ≤ u.now) :=
  ⟨⟨State.reset, State.reset, 0, .host, 15, State.tick_of (by decide +kernel), writable_of (by decide +kernel), by decide +kernel⟩,
   ⟨(State.reset.setRg (R.IGRP.SS_STAT 15) 1), (State.reset.setRg (R.IGRP.SS_STAT 15) 1), 0, .host, 15, State.tick_of (by decide +kernel), writable_of (by decide +kernel), by decide +kernel⟩,
   ⟨{ ((State.reset.setRg (R.IGRP.SS_STAT 15) 1).setAxState 63 1) with sset := vupd State.reset.sset 15 (fun _ => { axes := [63] }) }, { ((State.reset.setRg (R.IGRP.SS_STAT 15) 1).setAxState 63 1) with sset := vupd State.reset.sset 15 (fun _ => { axes := [63] }) }, 0, .host, 15, State.tick_of (by decide +kernel), writable_of (by decide +kernel), by decide +kernel⟩,
   ⟨(State.reset.setRg (R.IGRP.SS_STAT 15) 1), (State.reset.setRg (R.IGRP.SS_STAT 15) 1), 0, .host, 15, State.tick_of (by decide +kernel), writable_of (by decide +kernel), by decide +kernel⟩,
   ⟨(State.reset.setRg (R.IGRP.SS_CTRL 15) 2), (State.reset.setRg (R.IGRP.SS_CTRL 15) 2), 0, .host, 15, State.tick_of (by decide +kernel), writable_of (by decide +kernel), by decide +kernel⟩,
   ⟨((State.reset.setRg (R.IGRP.SS_STAT 15) 1).setRg (R.IGRP.SS_CTRL 15) 2).setRg R.TIME.MT_STAT 0, ((State.reset.setRg (R.IGRP.SS_STAT 15) 1).setRg (R.IGRP.SS_CTRL 15) 2).setRg R.TIME.MT_STAT 0, 0, 15, State.tick_of (by decide +kernel), by decide +kernel⟩,
   ⟨(State.reset.setRg (R.IGRP.SS_STAT 15) 1).setRg (R.IGRP.SS_CTRL 15) 2, (State.reset.setRg (R.IGRP.SS_STAT 15) 1).setRg (R.IGRP.SS_CTRL 15) 2, 0, 15, State.tick_of (by decide +kernel), by decide +kernel⟩,
   ⟨(State.reset.setRg (R.IGRP.SS_STAT 15) 2), (State.reset.setRg (R.IGRP.SS_STAT 15) 2), 0, 15, State.tick_of (by decide +kernel), by decide +kernel⟩⟩

theorem test_witness_linkCommandsComplete :
    (∃ (s : State) (u : State) (t : Time) (m : Master) (l : Nat), s.tick t = u ∧ u.Writable R.WALL.base ∧ (u.selOf m).lsel = l ∧ u.engageRefusal l ≠ 0) ∧
    (∃ (s : State) (u : State) (t : Time) (m : Master) (l : Nat), s.tick t = u ∧ u.Writable R.WALL.base ∧ (u.selOf m).lsel = l ∧ u.engageRefusal l = 0) ∧
    (∃ (s : State) (u : State) (t : Time) (m : Master) (l : Nat), s.tick t = u ∧ u.Writable R.WALL.base ∧ (u.selOf m).lsel = l ∧ (u.linkState l = 2 ∨ u.linkState l = 3)) ∧
    (∃ (s : State) (u : State) (t : Time) (m : Master) (l : Nat), s.tick t = u ∧ u.Writable R.WALL.base ∧ (u.selOf m).lsel = l ∧ u.linkState l ≠ 2 ∧ u.linkState l ≠ 3) ∧
    (∃ (s : State) (u : State) (t : Time) (m : Master) (l : Nat), s.tick t = u ∧ u.Writable R.WALL.base ∧ (u.selOf m).lsel = l ∧ (u.linkState l = 1 ∨ u.linkState l = 2 ∨ u.linkState l = 3)) ∧
    (∃ (s : State) (u : State) (t : Time) (m : Master) (l : Nat), s.tick t = u ∧ u.Writable R.WALL.base ∧ (u.selOf m).lsel = l ∧ u.linkState l ≠ 1 ∧ u.linkState l ≠ 2 ∧ u.linkState l ≠ 3) ∧
    (∃ (s : State) (u : State) (t : Time) (m : Master) (l : Nat), s.tick t = u ∧ u.Writable R.WALL.base ∧ (u.selOf m).lsel = l ∧ u.linkState l = 1) ∧
    (∃ (s : State) (u : State) (t : Time) (m : Master) (l : Nat), s.tick t = u ∧ u.Writable R.WALL.base ∧ (u.selOf m).lsel = l ∧ u.linkState l ≠ 1) :=
  ⟨⟨State.reset, State.reset, 0, .spi, 0, State.tick_of (by decide +kernel), writable_of (by decide +kernel), by decide +kernel⟩,
   ⟨((((State.reset.setRg (R.AXIS.CTRL 0) 1).putBit (R.SLUICE.AX_CTRL 0) 0 true).setRg64 (R.AXIS.DMAX 0) 5).setRg (R.LINK.CFG 0) 0x2000).setRg (R.WALL.VM_CTRL 0) 1, ((((State.reset.setRg (R.AXIS.CTRL 0) 1).putBit (R.SLUICE.AX_CTRL 0) 0 true).setRg64 (R.AXIS.DMAX 0) 5).setRg (R.LINK.CFG 0) 0x2000).setRg (R.WALL.VM_CTRL 0) 1, 0, .host, 0, State.tick_of (by decide +kernel), writable_of (by decide +kernel), by decide +kernel⟩,
   ⟨(State.reset.setLinkState 0 3), (State.reset.setLinkState 0 3), 0, .host, 0, State.tick_of (by decide +kernel), writable_of (by decide +kernel), by decide +kernel⟩,
   ⟨State.reset, State.reset, 0, .spi, 0, State.tick_of (by decide +kernel), writable_of (by decide +kernel), by decide +kernel⟩,
   ⟨(State.reset.setLinkState 0 2), (State.reset.setLinkState 0 2), 0, .host, 0, State.tick_of (by decide +kernel), writable_of (by decide +kernel), by decide +kernel⟩,
   ⟨State.reset, State.reset, 0, .spi, 0, State.tick_of (by decide +kernel), writable_of (by decide +kernel), by decide +kernel⟩,
   ⟨(State.reset.setLinkState 0 1), (State.reset.setLinkState 0 1), 0, .host, 0, State.tick_of (by decide +kernel), writable_of (by decide +kernel), by decide +kernel⟩,
   ⟨State.reset, State.reset, 0, .spi, 0, State.tick_of (by decide +kernel), writable_of (by decide +kernel), by decide +kernel⟩⟩

theorem test_witness_linkCommandsComplete_2 :
    (∃ (s : State) (u : State) (t : Time) (v : Fin 8) (x : VmSt) (vel : Int), s.tick t = u ∧ u.vmOf v = x ∧ u.bit (R.WALL.VM_CTRL v) 0 = true ∧ (x.last / us 1 + 1) * us 1 ≤ u.now ∧ (u.sgn64 (R.WALL.VM_ACC v)).natAbs = 0 ∧ vel = u.sgn64 (R.WALL.VM_VEL v) * 10 ^ 6) ∧
    (∃ (s : State) (u : State) (t : Time) (v : Fin 8) (x : VmSt) (vel : Int), s.tick t = u ∧ u.vmOf v = x ∧ u.bit (R.WALL.VM_CTRL v) 0 = true ∧ (x.last / us 1 + 1) * us 1 ≤ u.now ∧ (u.sgn64 (R.WALL.VM_ACC v)).natAbs ≠ 0 ∧ vel = x.vel + clampI (-((u.sgn64 (R.WALL.VM_ACC v)).natAbs : Int)) ((u.sgn64 (R.WALL.VM_ACC v)).natAbs : Int) (u.sgn64 (R.WALL.VM_VEL v) * 10 ^ 6 - x.vel)) ∧
    (∃ (s : State) (u : State) (t : Time) (m : Master) (v : Fin 8), s.tick t = u ∧ u.Writable R.WALL.base ∧ u.rg (R.WALL.VM_CTRL v) = 1) ∧
    (∃ (s : State) (u : State) (t : Time) (m : Master) (k : Fin 3) (v : DWord) (c : Nat), s.tick t = u ∧ u.Writable R.WALL.base ∧ (u.selOf m).tsel = c ∧ u.tableUsed c = true) ∧
    (∃ (s : State) (u : State) (t : Time) (m : Master) (k : Fin 3) (v : DWord) (c : Nat), s.tick t = u ∧ u.Writable R.WALL.base ∧ (u.selOf m).tsel = c ∧ u.tableUsed c = false) :=
  ⟨⟨({ State.reset with now := us 1 }).setRg (R.WALL.VM_CTRL 7) 1, ({ State.reset with now := us 1 }).setRg (R.WALL.VM_CTRL 7) 1, (us 1), 7, {}, 0, State.tick_of (by decide +kernel), rfl, by decide +kernel⟩,
   ⟨((({ State.reset with now := us 1 }).setRg (R.WALL.VM_CTRL 7) 1).setRg (R.WALL.VM_ACC 7) 3).setRg (R.WALL.VM_VEL 7) 9, ((({ State.reset with now := us 1 }).setRg (R.WALL.VM_CTRL 7) 1).setRg (R.WALL.VM_ACC 7) 3).setRg (R.WALL.VM_VEL 7) 9, (us 1), 7, {}, 3, State.tick_of (by decide +kernel), rfl, by decide +kernel⟩,
   ⟨(State.reset.setRg (R.WALL.VM_CTRL 7) 1), (State.reset.setRg (R.WALL.VM_CTRL 7) 1), 0, .host, 7, State.tick_of (by decide +kernel), writable_of (by decide +kernel), by decide +kernel⟩,
   ⟨(State.reset.setLinkState 0 3), (State.reset.setLinkState 0 3), 0, .host, 2, 0, 0, State.tick_of (by decide +kernel), writable_of (by decide +kernel), by decide +kernel⟩,
   ⟨State.reset, State.reset, 0, .spi, 2, 5, 0, State.tick_of (by decide +kernel), writable_of (by decide +kernel), by decide +kernel⟩⟩

theorem test_witness_fieldInputCommandsComplete :
    (∃ (s : State) (u : State) (t : Time) (seen : Time) (i : Fin 32) (lvl : Bool), s.tick t = u ∧ (u.fin i).pin ≠ lvl ∧ u.fiSampled i (u.fiEdge seen) = true) ∧
    (∃ (s : State) (u : State) (t : Time) (seen : Time) (i : Fin 32) (lvl : Bool), s.tick t = u ∧ (u.fin i).pin = lvl) ∧
    (∃ (s : State) (u : State) (t : Time) (seen : Time) (i : Fin 32) (lvl : Bool), s.tick t = u ∧ u.fiSampled i (u.fiEdge seen) = false) ∧
    (∃ (s : State) (u : State) (v : State) (t : Time) (raw : Time) (i : Fin 32) (lv : Bool), s.tick t = u ∧ (u.fin i).pend = some (raw, lv) ∧ raw + u.fiDeb i ≤ u.now ∧ ((((u.setFin i (fun f => { f with pend := none })).putBit (R.FIELD.FI_STAT i) 0 lv).putBit R.FIELD.FI_STATE i lv).setRg64 (R.FIELD.FI_STAMP i) raw).probeStamp (48 + i) raw = v ∧ v.bit (R.FIELD.FI_CFG i) (if lv then 18 else 19) = false) ∧
    (∃ (s : State) (u : State) (v : State) (t : Time) (raw : Time) (i : Fin 32) (lv : Bool), s.tick t = u ∧ (u.fin i).pend = some (raw, lv) ∧ raw + u.fiDeb i ≤ u.now ∧ ((((u.setFin i (fun f => { f with pend := none })).putBit (R.FIELD.FI_STAT i) 0 lv).putBit R.FIELD.FI_STATE i lv).setRg64 (R.FIELD.FI_STAMP i) raw).probeStamp (48 + i) raw = v ∧ v.bit (R.FIELD.FI_CFG i) (if lv then 18 else 19) = true) ∧
    (∃ (s : State) (u : State) (t : Time) (i : Fin 32), s.tick t = u ∧ (u.fin i).pend.all (fun p => decide (u.now < p.1 + u.fiDeb i)) = true) ∧
    (∃ (s : State) (u : State) (v : State) (t : Time) (i : Fin 32), s.tick t = u ∧ u.fiLive i = true ∧ u.bit (R.FIELD.FI_CFG i) 3 = true ∧ u.setFin i (fun f => { f with low := min ((u.fin i).low + 1) 15 }) = v ∧ nz (u.fld (R.FIELD.FI_CFG i) 7 4) ≤ (u.fin i).low + 1 ∧ u.bit (R.FIELD.FI_STAT i) 2 = false) ∧
    (∃ (s : State) (u : State) (v : State) (t : Time) (i : Fin 32), s.tick t = u ∧ u.fiLive i = true ∧ u.bit (R.FIELD.FI_CFG i) 3 = true ∧ u.setFin i (fun f => { f with low := min ((u.fin i).low + 1) 15 }) = v ∧ (u.fin i).low + 1 < nz (u.fld (R.FIELD.FI_CFG i) 7 4)) :=
  ⟨⟨(State.reset.setRg (R.FIELD.FI_CFG 31) 0x100), (State.reset.setRg (R.FIELD.FI_CFG 31) 0x100), 0, 0, 31, true, State.tick_of (by decide +kernel), by decide +kernel⟩,
   ⟨State.reset, State.reset, 0, 0, 31, false, State.tick_of (by decide +kernel), by decide +kernel⟩,
   wit_held_input,
   ⟨(({ State.reset with now := sec 1 }).setRg (R.FIELD.FI_CFG 31) 1).setFin 31 (fun f => { f with pend := some (1, true) }), (({ State.reset with now := sec 1 }).setRg (R.FIELD.FI_CFG 31) 1).setFin 31 (fun f => { f with pend := some (1, true) }), (((((((({ State.reset with now := sec 1 }).setRg (R.FIELD.FI_CFG 31) 1).setFin 31 (fun f => { f with pend := some (1, true) })).setFin 31 (fun f => { f with pend := none })).putBit (R.FIELD.FI_STAT 31) 0 true).putBit R.FIELD.FI_STATE 31 true).setRg64 (R.FIELD.FI_STAMP 31) 1)).probeStamp (48 + 31) 1, (sec 1), 1, 31, true, State.tick_of (by decide +kernel), by decide +kernel, by decide +kernel, rfl, by decide +kernel⟩,
   ⟨(({ State.reset with now := sec 1 }).setRg (R.FIELD.FI_CFG 31) 0x40000).setFin 31 (fun f => { f with pend := some (1, true) }), (({ State.reset with now := sec 1 }).setRg (R.FIELD.FI_CFG 31) 0x40000).setFin 31 (fun f => { f with pend := some (1, true) }), (((((((({ State.reset with now := sec 1 }).setRg (R.FIELD.FI_CFG 31) 0x40000).setFin 31 (fun f => { f with pend := some (1, true) })).setFin 31 (fun f => { f with pend := none })).putBit (R.FIELD.FI_STAT 31) 0 true).putBit R.FIELD.FI_STATE 31 true).setRg64 (R.FIELD.FI_STAMP 31) 1)).probeStamp (48 + 31) 1, (sec 1), 1, 31, true, State.tick_of (by decide +kernel), by decide +kernel, by decide +kernel, rfl, by decide +kernel⟩,
   ⟨(State.reset.setRg (R.FIELD.FI_DEB 31) 5).setFin 31 (fun f => { f with pend := some (1, true) }), (State.reset.setRg (R.FIELD.FI_DEB 31) 5).setFin 31 (fun f => { f with pend := some (1, true) }), 0, 31, State.tick_of (by decide +kernel), by decide +kernel⟩,
   ⟨(State.reset.setRg (R.FIELD.FI_CFG 31) 0x19).putBit (R.PG_CTRL R.FIELD.base) 0 true, (State.reset.setRg (R.FIELD.FI_CFG 31) 0x19).putBit (R.PG_CTRL R.FIELD.base) 0 true, ((State.reset.setRg (R.FIELD.FI_CFG 31) 0x19).putBit (R.PG_CTRL R.FIELD.base) 0 true).setFin 31 (fun f => { f with low := 1 }), 0, 31, State.tick_of (by decide +kernel), by decide +kernel, by decide +kernel, rfl, by decide +kernel⟩,
   ⟨(State.reset.setRg (R.FIELD.FI_CFG 31) 0x29).putBit (R.PG_CTRL R.FIELD.base) 0 true, (State.reset.setRg (R.FIELD.FI_CFG 31) 0x29).putBit (R.PG_CTRL R.FIELD.base) 0 true, ((State.reset.setRg (R.FIELD.FI_CFG 31) 0x29).putBit (R.PG_CTRL R.FIELD.base) 0 true).setFin 31 (fun f => { f with low := 1 }), 0, 31, State.tick_of (by decide +kernel), by decide +kernel, by decide +kernel, rfl, by decide +kernel⟩⟩

theorem test_witness_fieldInputCommandsComplete_2 :
    (∃ (s : State) (u : State) (t : Time) (i : Fin 32), s.tick t = u ∧ u.fiLive i = true ∧ u.bit (R.FIELD.FI_CFG i) 3 = true ∧ u.bit (R.FIELD.FI_STAT i) 2 = true) ∧
    (∃ (s : State) (u : State) (t : Time) (i : Fin 32), s.tick t = u ∧ u.bit (R.FIELD.FI_STAT i) 3 = false) ∧
    (∃ (s : State) (u : State) (t : Time) (i : Fin 32), s.tick t = u ∧ u.bit (R.FIELD.FI_STAT i) 3 = true) ∧
    (∃ (s : State) (u : State) (t : Time) (i : Fin 32) (lvl : Bool), s.tick t = u ∧ u.bit (R.FIELD.FI_STAT i) 3 = true) ∧
    (∃ (s : State) (u : State) (t : Time) (i : Fin 32) (lvl : Bool), s.tick t = u ∧ u.bit (R.FIELD.FI_STAT i) 3 = false) :=
  ⟨⟨((State.reset.setRg (R.FIELD.FI_CFG 31) 0x19).putBit (R.PG_CTRL R.FIELD.base) 0 true).setRg (R.FIELD.FI_STAT 31) 4, ((State.reset.setRg (R.FIELD.FI_CFG 31) 0x19).putBit (R.PG_CTRL R.FIELD.base) 0 true).setRg (R.FIELD.FI_STAT 31) 4, 0, 31, State.tick_of (by decide +kernel), by decide +kernel⟩,
   ⟨State.reset, State.reset, 0, 31, State.tick_of (by decide +kernel), by decide +kernel⟩,
   ⟨(State.reset.setRg (R.FIELD.FI_STAT 31) 8), (State.reset.setRg (R.FIELD.FI_STAT 31) 8), 0, 31, State.tick_of (by decide +kernel), by decide +kernel⟩,
   ⟨(State.reset.setRg (R.FIELD.FI_STAT 31) 8), (State.reset.setRg (R.FIELD.FI_STAT 31) 8), 0, 31, true, State.tick_of (by decide +kernel), by decide +kernel⟩,
   ⟨State.reset, State.reset, 0, 31, true, State.tick_of (by decide +kernel), by decide +kernel⟩⟩

theorem test_witness_fieldOutputCommandsComplete :
    (∃ (s : State) (u : State) (w : State) (x : State) (t : Time) (m : Master) (j : Fin 32) (v : Word), s.tick t = u ∧ u.Writable R.FIELD.base ∧ ((u.writeReg m R.FIELD.base (R.FIELD.FO_CTRL j) v.toNat).foEval j).setFout j (fun f => { f with onAcc := 0 }) = w ∧ (if w.bit (R.FIELD.FO_CTRL j) 8 then w else w.foUnreport j 4) = x ∧ u.foMode j ≠ 0 ∧ bitsN v.toNat 1 0 ≠ 0) ∧
    (∃ (s : State) (u : State) (w : State) (x : State) (t : Time) (m : Master) (j : Fin 32) (v : Word), s.tick t = u ∧ u.Writable R.FIELD.base ∧ ((u.writeReg m R.FIELD.base (R.FIELD.FO_CTRL j) v.toNat).foEval j).setFout j (fun f => { f with onAcc := 0 }) = w ∧ (if w.bit (R.FIELD.FO_CTRL j) 8 then w else w.foUnreport j 4) = x ∧ u.foMode j = 0 ∧ bitsN v.toNat 1 0 = 3 ∧ 4 ≤ (u.foOfAxis (bitsN v.toNat 7 2)).length) ∧
    (∃ (s : State) (u : State) (w : State) (x : State) (t : Time) (m : Master) (j : Fin 32) (v : Word), s.tick t = u ∧ u.Writable R.FIELD.base ∧ ((u.writeReg m R.FIELD.base (R.FIELD.FO_CTRL j) v.toNat).foEval j).setFout j (fun f => { f with onAcc := 0 }) = w ∧ (if w.bit (R.FIELD.FO_CTRL j) 8 then w else w.foUnreport j 4) = x ∧ u.foMode j = 0 ∧ bitsN v.toNat 1 0 ≠ 3) ∧
    (∃ (s : State) (u : State) (v : State) (t : Time) (j : Fin 32) (p : Int) (w : Nat), s.tick t = u ∧ u.foPer j ≠ 0 ∧ (u.now : Int) - ((u.now : Int) - (u.rg64 R.FIELD.FO_ANCHOR : Int)) % (16 * u.foPer j : Nat) = p ∧ (u.fout j).start ≠ some p ∧ u.foMode j ≠ 3 ∧ (u.setFout j (fun f => { f with start := some p, offAt := none })).releaseWhere R.FIELD.base (fun w => w.off == foDutyOff j && decide ((w.from_ : Int) ≤ p)) = v ∧ (if v.foMode j = 1 then v.foPer j else foOnTime (v.rg (R.FIELD.FO_DUTY j)) (v.foPer j)) = w ∧ v.foHeld j = true) ∧
    (∃ (s : State) (u : State) (v : State) (t : Time) (j : Fin 32) (p : Int) (w : Nat), s.tick t = u ∧ u.foPer j ≠ 0 ∧ (u.now : Int) - ((u.now : Int) - (u.rg64 R.FIELD.FO_ANCHOR : Int)) % (16 * u.foPer j : Nat) = p ∧ (u.fout j).start ≠ some p ∧ u.foMode j ≠ 3 ∧ (u.setFout j (fun f => { f with start := some p, offAt := none })).releaseWhere R.FIELD.base (fun w => w.off == foDutyOff j && decide ((w.from_ : Int) ≤ p)) = v ∧ (if v.foMode j = 1 then v.foPer j else foOnTime (v.rg (R.FIELD.FO_DUTY j)) (v.foPer j)) = w ∧ v.foHeld j = false ∧ w = 0) ∧
    (∃ (s : State) (u : State) (v : State) (t : Time) (j : Fin 32) (p : Int) (w : Nat), s.tick t = u ∧ u.foPer j ≠ 0 ∧ (u.now : Int) - ((u.now : Int) - (u.rg64 R.FIELD.FO_ANCHOR : Int)) % (16 * u.foPer j : Nat) = p ∧ (u.fout j).start ≠ some p ∧ u.foMode j ≠ 3 ∧ (u.setFout j (fun f => { f with start := some p, offAt := none })).releaseWhere R.FIELD.base (fun w => w.off == foDutyOff j && decide ((w.from_ : Int) ≤ p)) = v ∧ (if v.foMode j = 1 then v.foPer j else foOnTime (v.rg (R.FIELD.FO_DUTY j)) (v.foPer j)) = w ∧ v.foHeld j = false ∧ w = v.foPer j ∧ w ≠ 0) ∧
    (∃ (s : State) (u : State) (v : State) (t : Time) (j : Fin 32) (p : Int) (w : Nat), s.tick t = u ∧ u.foPer j ≠ 0 ∧ (u.now : Int) - ((u.now : Int) - (u.rg64 R.FIELD.FO_ANCHOR : Int)) % (16 * u.foPer j : Nat) = p ∧ (u.fout j).start ≠ some p ∧ u.foMode j ≠ 3 ∧ (u.setFout j (fun f => { f with start := some p, offAt := none })).releaseWhere R.FIELD.base (fun w => w.off == foDutyOff j && decide ((w.from_ : Int) ≤ p)) = v ∧ (if v.foMode j = 1 then v.foPer j else foOnTime (v.rg (R.FIELD.FO_DUTY j)) (v.foPer j)) = w ∧ v.foHeld j = false ∧ w ≠ v.foPer j ∧ w ≠ 0) ∧
    (∃ (s : State) (u : State) (v : State) (t : Time) (j : Fin 32) (p : Int) (w : Nat), s.tick t = u ∧ u.foPer j ≠ 0 ∧ (u.now : Int) - ((u.now : Int) - (u.rg64 R.FIELD.FO_ANCHOR : Int)) % (16 * u.foPer j : Nat) = p ∧ (u.fout j).start ≠ some p ∧ u.foMode j = 3 ∧ u.setFout j (fun f => { f with start := some p, offAt := none }) = v ∧ v.foHeld j = false ∧ foOnTime (v.rg (R.FIELD.FO_DUTY j)) (u.foPer j) = w ∧ w = 0) :=
  ⟨⟨(State.reset.setRg (R.FIELD.FO_CTRL 31) 1), (State.reset.setRg (R.FIELD.FO_CTRL 31) 1), _, _, 0, .host, 31, 2, State.tick_of (by decide +kernel), writable_of (by decide +kernel), rfl, rfl, by decide +kernel⟩,
   ⟨(((State.reset.setRg (R.FIELD.FO_CTRL 1) 0xff).setRg (R.FIELD.FO_CTRL 2) 0xff).setRg (R.FIELD.FO_CTRL 3) 0xff).setRg (R.FIELD.FO_CTRL 4) 0xff, (((State.reset.setRg (R.FIELD.FO_CTRL 1) 0xff).setRg (R.FIELD.FO_CTRL 2) 0xff).setRg (R.FIELD.FO_CTRL 3) 0xff).setRg (R.FIELD.FO_CTRL 4) 0xff, _, _, 0, .host, 31, 0xff, State.tick_of (by decide +kernel), writable_of (by decide +kernel), rfl, rfl, by decide +kernel⟩,
   ⟨State.reset, State.reset, _, _, 0, .host, 31, 2, State.tick_of (by decide +kernel), writable_of (by decide +kernel), rfl, rfl, by decide +kernel⟩,
   ⟨(State.reset.setRg (R.FIELD.FO_CTRL 31) 2).setRg (R.FIELD.FO_PER 31) 1, (State.reset.setRg (R.FIELD.FO_CTRL 31) 2).setRg (R.FIELD.FO_PER 31) 1, ((State.reset.setRg (R.FIELD.FO_CTRL 31) 2).setRg (R.FIELD.FO_PER 31) 1).setFout 31 (fun f => { f with start := some 0, offAt := none }), 0, 31, 0, 1000, State.tick_of (by decide +kernel), by decide +kernel⟩,
   ⟨(foWit 0).setRg (R.FIELD.FO_CTRL 31) 2, (foWit 0).setRg (R.FIELD.FO_CTRL 31) 2, ((foWit 0).setRg (R.FIELD.FO_CTRL 31) 2).setFout 31 (fun f => { f with start := some 0, offAt := none }), 0, 31, 0, 0, State.tick_of (by decide +kernel), by decide +kernel⟩,
   ⟨(foWit 0).setRg (R.FIELD.FO_CTRL 31) 1, (foWit 0).setRg (R.FIELD.FO_CTRL 31) 1, ((foWit 0).setRg (R.FIELD.FO_CTRL 31) 1).setFout 31 (fun f => { f with start := some 0, offAt := none }), 0, 31, 0, 1000000, State.tick_of (by decide +kernel), by decide +kernel⟩,
   ⟨(foWit 0x40000000).setRg (R.FIELD.FO_CTRL 31) 2, (foWit 0x40000000).setRg (R.FIELD.FO_CTRL 31) 2, ((foWit 0x40000000).setRg (R.FIELD.FO_CTRL 31) 2).setFout 31 (fun f => { f with start := some 0, offAt := none }), 0, 31, 0, 500000, State.tick_of (by decide +kernel), by decide +kernel⟩,
   ⟨(foWit 0), (foWit 0), (foWit 0).setFout 31 (fun f => { f with start := some 0, offAt := none }), 0, 31, 0, 0, State.tick_of (by decide +kernel), by decide +kernel⟩⟩

theorem test_witness_fieldOutputCommandsComplete_2 :
    (∃ (s : State) (u : State) (v : State) (t : Time) (j : Fin 32) (p : Int) (w : Nat), s.tick t = u ∧ u.foPer j ≠ 0 ∧ (u.now : Int) - ((u.now : Int) - (u.rg64 R.FIELD.FO_ANCHOR : Int)) % (16 * u.foPer j : Nat) = p ∧ (u.fout j).start ≠ some p ∧ u.foMode j = 3 ∧ u.setFout j (fun f => { f with start := some p, offAt := none }) = v ∧ v.foHeld j = false ∧ foOnTime (v.rg (R.FIELD.FO_DUTY j)) (u.foPer j) = w ∧ w = u.foPer j ∧ w ≠ 0) ∧
    (∃ (s : State) (u : State) (v : State) (t : Time) (j : Fin 32) (p : Int) (w : Nat), s.tick t = u ∧ u.foPer j ≠ 0 ∧ (u.now : Int) - ((u.now : Int) - (u.rg64 R.FIELD.FO_ANCHOR : Int)) % (16 * u.foPer j : Nat) = p ∧ (u.fout j).start ≠ some p ∧ u.foMode j = 3 ∧ u.setFout j (fun f => { f with start := some p, offAt := none }) = v ∧ v.foHeld j = false ∧ foOnTime (v.rg (R.FIELD.FO_DUTY j)) (u.foPer j) = w ∧ w ≠ u.foPer j ∧ w ≠ 0) ∧
    (∃ (s : State) (u : State) (t : Time) (x : Time) (j : Fin 32), s.tick t = u ∧ (u.fout j).offAt = some x ∧ x ≤ u.now) ∧
    (∃ (s : State) (u : State) (t : Time) (x : Time) (j : Fin 32), s.tick t = u ∧ (u.fout j).offAt = some x ∧ u.now < x) ∧
    (∃ (s : State) (u : State) (t : Time) (j : Fin 32) (i : Fin 16777216), s.tick t = u ∧ u.foEnd j = none) ∧
    (∃ (s : State) (u : State) (v : State) (x : State) (t : Time) (e : Time) (j : Fin 32) (i : Fin 16777216) (w : Word), s.tick t = u ∧ u.foEnd j = some e ∧ BitVec.ofNat 32 (foCode i * 2 ^ 19) = w ∧ (u.setRg (R.FIELD.FO_CURRENT j) w).setFout j (fun f => f.convert e i (u.fld (R.FIELD.FO_OC_LIM j) 11 0) u.now) = v ∧ (if (v.foOfAxis (v.foAxis j)).head? = some j.val then { v with ax := vupd v.ax (v.foAxis j) (fun x => { x with lv := x.lv.map (fun l => { l with frames := l.frames.map (fun f => if !f.isReady ∧ e ≤ f.tk then { f with words := vupd f.words 17 (fun _ => w) } else f) }) }) } else v) = x) ∧
    (∃ (s : State) (u : State) (t : Time) (j : Fin 32) (f : Fin 8) (b : Bool), s.tick t = u ∧ ((f = 1 ∧ u.foOver j u.now = true) ∨ (f = 2 ∧ b = true)) ∧ u.bit (R.FIELD.FO_STAT j) f = false) ∧
    (∃ (s : State) (u : State) (t : Time) (j : Fin 32) (f : Fin 8) (b : Bool), s.tick t = u ∧ ((f = 1 ∧ u.foOver j u.now = false) ∨ (f = 2 ∧ b = false))) :=
  ⟨⟨(foWit 0x7fffffff), (foWit 0x7fffffff), (foWit 0x7fffffff).setFout 31 (fun f => { f with start := some 0, offAt := none }), 0, 31, 0, 1000000, State.tick_of (by decide +kernel), by decide +kernel⟩,
   ⟨(foWit 0x40000000), (foWit 0x40000000), (foWit 0x40000000).setFout 31 (fun f => { f with start := some 0, offAt := none }), 0, 31, 0, 500000, State.tick_of (by decide +kernel), by decide +kernel⟩,
   ⟨(State.reset.setFout 31 (fun f => { f with offAt := some 0 })), (State.reset.setFout 31 (fun f => { f with offAt := some 0 })), 0, 0, 31, State.tick_of (by decide +kernel), by decide +kernel⟩,
   ⟨(State.reset.setFout 31 (fun f => { f with offAt := some 1 })), (State.reset.setFout 31 (fun f => { f with offAt := some 1 })), 0, 1, 31, State.tick_of (by decide +kernel), by decide +kernel⟩,
   ⟨(State.reset.setFout 31 (fun f => { f with convs := [(0, 0)] })), (State.reset.setFout 31 (fun f => { f with convs := [(0, 0)] })), 0, 31, 0, State.tick_of (by decide +kernel), by decide +kernel⟩,
   ⟨(State.reset.setRg (R.FIELD.FO_CTRL 31) 0xff), (State.reset.setRg (R.FIELD.FO_CTRL 31) 0xff), _, _, 0, 0, 31, 2500000, 0x7ff80000, State.tick_of (by decide +kernel), by decide +kernel, by decide +kernel, rfl, rfl⟩,
   ⟨State.reset, State.reset, 0, 31, 2, true, State.tick_of (by decide +kernel), .inr ⟨rfl, rfl⟩, by decide +kernel⟩,
   ⟨State.reset, State.reset, 0, 31, 2, false, State.tick_of (by decide +kernel), .inr ⟨rfl, rfl⟩⟩⟩

theorem test_witness_fieldOutputCommandsComplete_3 :
    (∃ (s : State) (u : State) (t : Time) (j : Fin 32) (f : Fin 8) (b : Bool), s.tick t = u ∧ ((f = 4 ∧ u.foOpen j = false) ∨ (f = 5 ∧ b = false) ∨ (f = 6 ∧ b = false)) ∧ u.bit (R.FIELD.FO_STAT j) f = true) ∧
    (∃ (s : State) (u : State) (t : Time) (j : Fin 32), s.tick t = u ∧ (u.fout j).silent = true) ∧
    (∃ (s : State) (u : State) (t : Time) (j : Fin 32), s.tick t = u ∧ (u.fout j).silent = false ∧ (u.fout j).stopped = none ∧ u.foInjected j = false ∧ (u.fout j).ctlSilent = false ∧ u.bit (R.FIELD.FO_STAT j) 3 = false ∧ u.bit (R.FIELD.FO_STAT j) 8 = false) ∧
    (∃ (s : State) (u : State) (t : Time) (j : Fin 32), s.tick t = u ∧ (u.fout j).ctlSilent = false) ∧
    (∃ (s : State) (u : State) (t : Time) (j : Fin 32), s.tick t = u ∧ (u.fout j).ctlSilent = true) ∧
    (∃ (s : State) (u : State) (v : State) (t : Time) (j : Fin 32), s.tick t = u ∧ (u.fout j).ctlSilent = true ∧ ((u.setFout j (fun f => { f with lost := false })).setFout j (fun f => { f with ctlSilent := false })).foReportClear j 0x22 = v ∧ (v.fout j).silent = true ∧ v.bit (R.FIELD.FO_STAT j) 3 = false) ∧
    (∃ (s : State) (u : State) (v : State) (t : Time) (j : Fin 32), s.tick t = u ∧ (u.fout j).ctlSilent = true ∧ ((u.setFout j (fun f => { f with lost := false })).setFout j (fun f => { f with ctlSilent := false })).foReportClear j 0x22 = v ∧ (v.fout j).silent = false) ∧
    (∃ (s : State) (u : State) (t : Time) (m : Master) (j : Fin 32) (v : Word), s.tick t = u ∧ u.Writable R.FIELD.base) :=
  ⟨⟨(State.reset.setRg (R.FIELD.FO_STAT 31) 0x40), (State.reset.setRg (R.FIELD.FO_STAT 31) 0x40), 0, 31, 6, false, State.tick_of (by decide +kernel), .inr (.inr ⟨rfl, rfl⟩), by decide +kernel⟩,
   ⟨(State.reset.setFout 31 (fun f => { f with silent := true })), (State.reset.setFout 31 (fun f => { f with silent := true })), 0, 31, State.tick_of (by decide +kernel), by decide +kernel⟩,
   ⟨State.reset, State.reset, 0, 31, State.tick_of (by decide +kernel), by decide +kernel⟩,
   ⟨State.reset, State.reset, 0, 31, State.tick_of (by decide +kernel), by decide +kernel⟩,
   ⟨(State.reset.setFout 31 (fun f => { f with ctlSilent := true })), (State.reset.setFout 31 (fun f => { f with ctlSilent := true })), 0, 31, State.tick_of (by decide +kernel), by decide +kernel⟩,
   ⟨(State.reset.setFout 31 (fun f => { f with ctlSilent := true, silent := true })), (State.reset.setFout 31 (fun f => { f with ctlSilent := true, silent := true })), (((State.reset.setFout 31 (fun f => { f with ctlSilent := true, silent := true })).setFout 31 (fun f => { f with lost := false })).setFout 31 (fun f => { f with ctlSilent := false })).foReportClear 31 0x22, 0, 31, State.tick_of (by decide +kernel), by decide +kernel, rfl, by decide +kernel⟩,
   ⟨(State.reset.setFout 31 (fun f => { f with ctlSilent := true })), (State.reset.setFout 31 (fun f => { f with ctlSilent := true })), (((State.reset.setFout 31 (fun f => { f with ctlSilent := true })).setFout 31 (fun f => { f with lost := false })).setFout 31 (fun f => { f with ctlSilent := false })).foReportClear 31 0x22, 0, 31, State.tick_of (by decide +kernel), by decide +kernel, rfl, by decide +kernel⟩,
   ⟨(State.reset.setRg (R.FIELD.FO_STAT 31) 6), (State.reset.setRg (R.FIELD.FO_STAT 31) 6), 0, .host, 31, 3, State.tick_of (by decide +kernel), writable_of (by decide +kernel)⟩⟩

theorem test_witness_fieldOutputCommandsComplete_4 :
    (∃ (s : State) (u : State) (t : Time), s.tick t = u) ∧
    (∃ (s : State) (u : State) (w : State) (t : Time) (v : Fin 65536), s.tick t = u ∧ u.fieldMeasure v = w ∧ 800 ≤ v.val) ∧
    (∃ (s : State) (u : State) (w : State) (t : Time) (v : Fin 65536), s.tick t = u ∧ u.fieldMeasure v = w ∧ v.val < 800 ∧ w.fieldUv = false) ∧
    (∃ (s : State) (u : State) (w : State) (t : Time) (v : Fin 65536), s.tick t = u ∧ u.fieldMeasure v = w ∧ v.val ≤ 850) ∧
    (∃ (s : State) (u : State) (w : State) (t : Time) (v : Fin 65536), s.tick t = u ∧ u.fieldMeasure v = w ∧ 850 < v.val ∧ w.fieldUv = true ∧ u.bit R.FIELD.CTRL 0 = false) ∧
    (∃ (s : State) (u : State) (w : State) (t : Time) (v : Fin 65536), s.tick t = u ∧ u.fieldMeasure v = w ∧ 850 < v.val ∧ w.fieldUv = true ∧ u.bit R.FIELD.CTRL 0 = true) ∧
    (∃ (s : State) (u : State) (t : Time) (m : Master), s.tick t = u ∧ u.Writable R.FIELD.base ∧ u.fieldUv = true) ∧
    (∃ (s : State) (u : State) (t : Time) (m : Master), s.tick t = u ∧ u.Writable R.FIELD.base ∧ u.fieldUv = false ∧ u.bit R.FIELD.STAT 1 = true) :=
  ⟨⟨State.reset, State.reset, 0, State.tick_of (by decide +kernel)⟩,
   ⟨State.reset, State.reset, (State.reset.fieldMeasure 800), 0, 800, State.tick_of (by decide +kernel), rfl, by decide +kernel⟩,
   ⟨(State.reset.setRg R.FIELD.STAT 0), (State.reset.setRg R.FIELD.STAT 0), (State.reset.setRg R.FIELD.STAT 0).fieldMeasure 799, 0, 799, State.tick_of (by decide +kernel), rfl, by decide +kernel⟩,
   ⟨State.reset, State.reset, (State.reset.fieldMeasure 850), 0, 850, State.tick_of (by decide +kernel), rfl, by decide +kernel⟩,
   ⟨(State.reset.setRg R.FIELD.STAT 3), (State.reset.setRg R.FIELD.STAT 3), (State.reset.setRg R.FIELD.STAT 3).fieldMeasure 851, 0, 851, State.tick_of (by decide +kernel), rfl, by decide +kernel⟩,
   ⟨(State.reset.setRg R.FIELD.STAT 3).setRg R.FIELD.CTRL 1, (State.reset.setRg R.FIELD.STAT 3).setRg R.FIELD.CTRL 1, ((State.reset.setRg R.FIELD.STAT 3).setRg R.FIELD.CTRL 1).fieldMeasure 851, 0, 851, State.tick_of (by decide +kernel), rfl, by decide +kernel⟩,
   ⟨(State.reset.setRg R.FIELD.STAT 3), (State.reset.setRg R.FIELD.STAT 3), 0, .host, State.tick_of (by decide +kernel), writable_of (by decide +kernel), by decide +kernel⟩,
   ⟨(State.reset.setRg R.FIELD.STAT 2), (State.reset.setRg R.FIELD.STAT 2), 0, .host, State.tick_of (by decide +kernel), writable_of (by decide +kernel), by decide +kernel⟩⟩

theorem test_witness_canReceiveCommandsComplete :
    (∃ (s : State) (u : State) (t : Time) (m : Master) (n : Fin 16) (v : Word), s.tick t = u ∧ u.Writable (R.CAN.base n) ∧ (u.setRg (R.CAN.CTRL n) (BitVec.ofNat 32 (v.toNat &&& 0xfff1f))).canIdle n = true) ∧
    (∃ (s : State) (u : State) (t : Time) (m : Master) (n : Fin 16) (v : Word), s.tick t = u ∧ u.Writable (R.CAN.base n) ∧ (u.setRg (R.CAN.CTRL n) (BitVec.ofNat 32 (v.toNat &&& 0xfff1f))).canIdle n = false) ∧
    (∃ (s : State) (u : State) (t : Time) (n : Fin 16), s.tick t = u ∧ u.canTxing n = false ∧ u.bit (R.CAN.STAT n) 4 = false) ∧
    (∃ (s : State) (u : State) (t : Time) (n : Fin 16), s.tick t = u ∧ u.canTxing n = true) ∧
    (∃ (s : State) (u : State) (t : Time) (n : Fin 16), s.tick t = u ∧ u.bit (R.CAN.STAT n) 4 = true) ∧
    (∃ (s : State) (u : State) (t : Time) (m : Master) (n : Fin 16) (v : Word), s.tick t = u ∧ u.Writable (R.CAN.base n) ∧ u.fld (R.CAN.CTRL n) 1 0 = 0 ∧ timingOk (v.toNat &&& 0x7ffffff) (u.rg (R.CAN.DBT n)).toNat = true) ∧
    (∃ (s : State) (u : State) (t : Time) (m : Master) (n : Fin 16) (v : Word), s.tick t = u ∧ u.Writable (R.CAN.base n) ∧ u.fld (R.CAN.CTRL n) 1 0 ≠ 0) ∧
    (∃ (s : State) (u : State) (t : Time) (m : Master) (n : Fin 16) (v : Word), s.tick t = u ∧ u.Writable (R.CAN.base n) ∧ timingOk (v.toNat &&& 0x7ffffff) (u.rg (R.CAN.DBT n)).toNat = false) :=
  ⟨⟨State.reset, State.reset, 0, .host, 15, 1, State.tick_of (by decide +kernel), writable_of (by decide +kernel), by decide +kernel⟩,
   ⟨(canWit 1), (canWit 1), 0, .host, 15, 0, State.tick_of (by decide +kernel), writable_of (by decide +kernel), by decide +kernel⟩,
   ⟨(canWit 1).setCan 15 (fun c => { c with tec := 9 }), (canWit 1).setCan 15 (fun c => { c with tec := 9 }), 0, 15, State.tick_of (by decide +kernel), by decide +kernel⟩,
   ⟨(canWit 1).putBit (R.CAN.STAT 15) 13 true, (canWit 1).putBit (R.CAN.STAT 15) 13 true, 0, 15, State.tick_of (by decide +kernel), by decide +kernel⟩,
   ⟨(canWit 1).putBit (R.CAN.STAT 15) 4 true, (canWit 1).putBit (R.CAN.STAT 15) 4 true, 0, 15, State.tick_of (by decide +kernel), by decide +kernel⟩,
   ⟨State.reset, State.reset, 0, .host, 15, (State.reset.rg (R.CAN.NBT 15)), State.tick_of (by decide +kernel), writable_of (by decide +kernel), by decide +kernel⟩,
   ⟨(State.reset.setRg (R.CAN.CTRL 15) 1), (State.reset.setRg (R.CAN.CTRL 15) 1), 0, .host, 15, 0, State.tick_of (by decide +kernel), writable_of (by decide +kernel), by decide +kernel⟩,
   ⟨State.reset, State.reset, 0, .host, 15, 0, State.tick_of (by decide +kernel), writable_of (by decide +kernel), by decide +kernel⟩⟩

theorem test_witness_canReceiveCommandsComplete_2 :
    (∃ (s : State) (u : State) (t : Time) (m : Master) (n : Fin 16) (v : Word), s.tick t = u ∧ u.Writable (R.CAN.base n) ∧ u.fld (R.CAN.CTRL n) 1 0 = 0 ∧ timingOk (u.rg (R.CAN.NBT n)).toNat (v.toNat &&& 0x3ffffff) = true) ∧
    (∃ (s : State) (u : State) (t : Time) (sof : Time) (arb : Time) (n : Fin 16) (f : CanFrame) (x : CanRxAt), s.tick t = u ∧ u.canOnBus n = true ∧ u.canTxing n = false) ∧
    (∃ (s : State) (u : State) (t : Time) (sof : Time) (arb : Time) (n : Fin 16) (f : CanFrame) (x : CanRxAt), s.tick t = u ∧ u.canOnBus n = true ∧ u.canTxing n = false) ∧
    (∃ (s : State) (u : State) (t : Time) (sof : Time) (arb : Time) (n : Fin 16) (f : CanFrame) (x : CanRxAt), s.tick t = u ∧ u.canOnBus n = true ∧ u.canTxing n = false) ∧
    (∃ (s : State) (u : State) (t : Time) (sof : Time) (arb : Time) (n : Fin 16) (f : CanFrame) (x : CanRxAt), s.tick t = u ∧ u.canOnBus n = false) ∧
    (∃ (s : State) (u : State) (t : Time) (sof : Time) (arb : Time) (n : Fin 16) (f : CanFrame) (x : CanRxAt), s.tick t = u ∧ u.canTxing n = true) ∧
    (∃ (s : State) (u : State) (v : State) (t : Time) (n : Fin 16) (e : Fin 5) (k : CanSteps), s.tick t = u ∧ u.canOnBus n = true ∧ u.canTxing n = false ∧ (((u.setCan n (fun c => { c with fltOld := [] })).putBit (R.CAN.STAT n) 4 false).canDrive n (u.canFlag n)) = v ∧ u.canMode n ≠ 2 ∧ k.tx = false) ∧
    (∃ (s : State) (u : State) (v : State) (t : Time) (n : Fin 16) (e : Fin 5) (k : CanSteps), s.tick t = u ∧ u.canOnBus n = true ∧ u.canTxing n = false ∧ (((u.setCan n (fun c => { c with fltOld := [] })).putBit (R.CAN.STAT n) 4 false).canDrive n (u.canFlag n)) = v ∧ u.canMode n ≠ 2 ∧ k.tx = true) :=
  ⟨⟨State.reset, State.reset, 0, .host, 15, (State.reset.rg (R.CAN.DBT 15)), State.tick_of (by decide +kernel), writable_of (by decide +kernel), by decide +kernel⟩,
   ⟨(canWit 1), (canWit 1), 0, 0, 0, 15, ⟨0, 8, false, false, [1]⟩, .start, State.tick_of (by decide +kernel), by decide +kernel⟩,
   ⟨(canWit 1), (canWit 1), 0, 0, 0, 15, ⟨0, 8, false, false, [1]⟩, .start, State.tick_of (by decide +kernel), by decide +kernel⟩,
   ⟨(canWit 1), (canWit 1), 0, 0, 0, 15, ⟨0, 8, false, false, [1]⟩, .start, State.tick_of (by decide +kernel), by decide +kernel⟩,
   ⟨State.reset, State.reset, 0, 0, 0, 15, ⟨0, 8, false, false, [1]⟩, .accept, State.tick_of (by decide +kernel), by decide +kernel⟩,
   ⟨(canWit 1).putBit (R.CAN.STAT 15) 13 true, (canWit 1).putBit (R.CAN.STAT 15) 13 true, 0, 0, 0, 15, ⟨0, 8, false, false, [1]⟩, .start, State.tick_of (by decide +kernel), by decide +kernel⟩,
   ⟨(canWit 1), (canWit 1), _, 0, 15, 4, ⟨true, 1, false⟩, State.tick_of (by decide +kernel), by decide +kernel, by decide +kernel, rfl, by decide +kernel⟩,
   ⟨(canWit 1), (canWit 1), _, 0, 15, 4, ⟨false, 1, true⟩, State.tick_of (by decide +kernel), by decide +kernel, by decide +kernel, rfl, by decide +kernel⟩⟩

theorem test_witness_canReceiveCommandsComplete_3 :
    (∃ (s : State) (u : State) (v : State) (t : Time) (n : Fin 16) (e : Fin 5) (k : CanSteps), s.tick t = u ∧ u.canOnBus n = true ∧ u.canTxing n = false ∧ (((u.setCan n (fun c => { c with fltOld := [] })).putBit (R.CAN.STAT n) 4 false).canDrive n (u.canFlag n)) = v ∧ u.canMode n = 2) ∧
    (∃ (s : State) (u : State) (v : State) (t : Time) (m : Master) (n : Fin 16) (q : Fin 2) (r : CanRec), s.tick t = u ∧ u.popShut (canPopAddr n q 0) = none ∧ (vget (u.cn n).queues q).headD (Vector.replicate 20 0) = r ∧ (u.setCan n (fun c => { c with queues := vupd c.queues q List.tail, hold := vupd c.hold q (fun _ => some (m, r)) })).canLevel n q = v ∧ (v.cn n).late = none) ∧
    (∃ (s : State) (u : State) (v : State) (t : Time) (m : Master) (n : Fin 16) (q : Fin 2) (r : CanRec) (x : CanLate), s.tick t = u ∧ u.popShut (canPopAddr n q 0) = none ∧ (vget (u.cn n).queues q).headD (Vector.replicate 20 0) = r ∧ (u.setCan n (fun c => { c with queues := vupd c.queues q List.tail, hold := vupd c.hold q (fun _ => some (m, r)) })).canLevel n q = v ∧ (v.cn n).late = some x ∧ x.q = q ∧ (vget (v.cn n).queues q).length < 64) ∧
    (∃ (s : State) (u : State) (t : Time) (m : Master) (n : Fin 16) (q : Fin 2) (i : Fin 20) (r : CanRec), s.tick t = u ∧ i ≠ 0 ∧ u.popShut (canPopAddr n q i) = none ∧ vget (u.cn n).hold q = some (m, r) ∧ i.val < 19) ∧
    (∃ (s : State) (u : State) (t : Time) (m : Master) (n : Fin 16) (q : Fin 2) (i : Fin 20) (r : CanRec), s.tick t = u ∧ i ≠ 0 ∧ u.popShut (canPopAddr n q i) = none ∧ vget (u.cn n).hold q = some (m, r) ∧ i = 19) ∧
    (∃ (s : State) (u : State) (t : Time) (m : Master) (n : Fin 16) (q : Fin 2) (i : Fin 20), s.tick t = u ∧ i ≠ 0 ∧ u.popShut (canPopAddr n q i) = none ∧ vget (u.cn n).hold q = none) ∧
    (∃ (s : State) (u : State) (t : Time) (m : Master) (n : Fin 16) (q : Fin 2) (i : Fin 20) (w : Word), s.tick t = u ∧ u.popShut (canPopAddr n q i) = some w) :=
  ⟨⟨(canWit 2), (canWit 2), _, 0, 15, 2, ⟨true, 0, false⟩, State.tick_of (by decide +kernel), by decide +kernel, by decide +kernel, rfl, by decide +kernel⟩,
   ⟨(State.reset.setCan 15 (fun c => { c with queues := vupd c.queues 1 (fun _ => [Vector.replicate 20 7]) })), (State.reset.setCan 15 (fun c => { c with queues := vupd c.queues 1 (fun _ => [Vector.replicate 20 7]) })), _, 0, .host, 15, 1, (Vector.replicate 20 7), State.tick_of (by decide +kernel), by decide +kernel, rfl, rfl, by decide +kernel⟩,
   ⟨(State.reset.setCan 15 (fun c => { c with queues := vupd c.queues 1 (fun _ => List.replicate 64 (Vector.replicate 20 7)), late := some ⟨0, 0, 1, Vector.replicate 20 8, 0⟩ })), (State.reset.setCan 15 (fun c => { c with queues := vupd c.queues 1 (fun _ => List.replicate 64 (Vector.replicate 20 7)), late := some ⟨0, 0, 1, Vector.replicate 20 8, 0⟩ })).tick 0, _, 0, .host, 15, 1, (Vector.replicate 20 7), ⟨0, 0, 1, Vector.replicate 20 8, 0⟩, rfl, by decide +kernel, by decide +kernel, rfl, by decide +kernel, rfl, by decide +kernel⟩,
   ⟨(State.reset.setCan 15 (fun c => { c with hold := vupd c.hold 1 (fun _ => some (.host, Vector.replicate 20 7)) })), (State.reset.setCan 15 (fun c => { c with hold := vupd c.hold 1 (fun _ => some (.host, Vector.replicate 20 7)) })), 0, .host, 15, 1, 18, (Vector.replicate 20 7), State.tick_of (by decide +kernel), by decide +kernel⟩,
   ⟨(State.reset.setCan 15 (fun c => { c with hold := vupd c.hold 1 (fun _ => some (.host, Vector.replicate 20 7)) })), (State.reset.setCan 15 (fun c => { c with hold := vupd c.hold 1 (fun _ => some (.host, Vector.replicate 20 7)) })), 0, .host, 15, 1, 19, (Vector.replicate 20 7), State.tick_of (by decide +kernel), by decide +kernel⟩,
   ⟨State.reset, State.reset, 0, .host, 15, 1, 19, State.tick_of (by decide +kernel), by decide +kernel⟩,
   ⟨{ State.reset with pwr := { State.reset.pwr with down := 4 } }, { State.reset with pwr := { State.reset.pwr with down := 4 } }, 0, .host, 15, 1, 19, 0, State.tick_of (by decide +kernel), by decide +kernel⟩⟩

theorem test_witness_canTransmitCommandsComplete :
    (∃ (s : State) (u : State) (t : Time) (m : Master) (n : Fin 16) (v : Word), s.tick t = u ∧ u.Writable (R.CAN.base n)) ∧
    (∃ (s : State) (u : State) (t : Time) (m : Master) (n : Fin 16) (v : Word), s.tick t = u ∧ u.Writable (R.CAN.base n)) ∧
    (∃ (s : State) (u : State) (t : Time) (n : Fin 16) (b : Nat), s.tick t = u ∧ u.canMayStart n = true ∧ u.canWinner n = some b) ∧
    (∃ (s : State) (u : State) (t : Time) (n : Fin 16), s.tick t = u ∧ (u.canMayStart n = false ∨ u.canWinner n = none)) ∧
    (∃ (s : State) (u : State) (v : State) (t : Time) (n : Fin 16) (b : Nat) (k : Nat), s.tick t = u ∧ u.canTxing n = true ∧ u.canRuns n = true ∧ u.fld (R.CAN.STAT n) 12 8 = b ∧ (u.putBit (R.CAN.STAT n) 13 false).canDrive n .recessive = v ∧ min 255 (v.fld (R.TXB.STAT (txb n b)) 15 8 + 1) = k) ∧
    (∃ (s : State) (u : State) (v : State) (w : State) (t : Time) (sof : Time) (arb : Time) (n : Fin 16) (b : Nat), s.tick t = u ∧ u.canTxing n = true ∧ u.canRuns n = true ∧ u.fld (R.CAN.STAT n) 12 8 = b ∧ u.bit (R.PG_ERRINJ (R.CAN.base n)) 16 = false ∧ ((((((u.putBit (R.CAN.STAT n) 13 false).canDrive n .recessive).putBit (R.PG_ERRINJ (R.CAN.base n)) 16 false).setRg64 (R.TXB.STAMP (txb n b)) (sof / 16 * 16)).txbEnd n b 1).putBit (R.CAN.STAT n) 4 false) = v ∧ (((v.canPost n 0x02 (sof / 16 % 2 ^ 32 + b * 2 ^ 32)).irq (R.CAN.base n) 8).setCan n (fun c => { c with abortReq := 0, tec := c.tec - 1 })).canJudge n = w ∧ u.canMode n ≠ 3) ∧
    (∃ (s : State) (u : State) (v : State) (w : State) (t : Time) (sof : Time) (arb : Time) (n : Fin 16) (b : Nat), s.tick t = u ∧ u.canTxing n = true ∧ u.canRuns n = true ∧ u.fld (R.CAN.STAT n) 12 8 = b ∧ u.bit (R.PG_ERRINJ (R.CAN.base n)) 16 = false ∧ ((((((u.putBit (R.CAN.STAT n) 13 false).canDrive n .recessive).putBit (R.PG_ERRINJ (R.CAN.base n)) 16 false).setRg64 (R.TXB.STAMP (txb n b)) (sof / 16 * 16)).txbEnd n b 1).putBit (R.CAN.STAT n) 4 false) = v ∧ (((v.canPost n 0x02 (sof / 16 % 2 ^ 32 + b * 2 ^ 32)).irq (R.CAN.base n) 8).setCan n (fun c => { c with abortReq := 0, tec := c.tec - 1 })).canJudge n = w ∧ u.canMode n = 3) ∧
    (∃ (s : State) (u : State) (v : State) (t : Time) (sof : Time) (arb : Time) (n : Fin 16) (b : Nat) (e : Nat) (eights : Nat) (type : Nat) (k : Fin 5) (exempt : Bool) (crc : Bool) (x : CanEnd), s.tick t = u ∧ u.canTxing n = true ∧ u.canRuns n = true ∧ u.fld (R.CAN.STAT n) 12 8 = b ∧ ((x = .error k exempt eights crc ∧ type = k.val ∧ v = (if crc then ((u.putBit (R.CAN.STAT n) 13 false).canDrive n (u.canFlag n)).putBit (R.PG_ERRINJ (R.CAN.base n)) 16 false else (u.putBit (R.CAN.STAT n) 13 false).canDrive n (u.canFlag n))) ∨ (x = .sent sof arb ∧ u.bit (R.PG_ERRINJ (R.CAN.base n)) 16 = true ∧ type = (if u.canMode n = 3 then 3 else 4) ∧ exempt = false ∧ eights = 0 ∧ v = (((u.putBit (R.CAN.STAT n) 13 false).canDrive n .recessive).putBit (R.PG_ERRINJ (R.CAN.base n)) 16 false).canDrive n (u.canFlag n))) ∧ v.fld (R.TXB.STAT (txb n b)) 19 16 + 1 = e) :=
  ⟨⟨State.reset, State.reset, 0, .host, 15, 0x80000001, State.tick_of (by decide +kernel), writable_of (by decide +kernel)⟩,
   ⟨((State.reset.setCan 15 (fun c => { c with reqAt := (7, 0) })).txbSet 15 31 1), ((State.reset.setCan 15 (fun c => { c with reqAt := (7, 0) })).txbSet 15 31 1), 0, .host, 15, 0x80000000, State.tick_of (by decide +kernel), writable_of (by decide +kernel)⟩,
   ⟨((canWit 1).txbSet 15 31 1), ((canWit 1).txbSet 15 31 1), 0, 15, 31, State.tick_of (by decide +kernel), by decide +kernel⟩,
   ⟨State.reset, State.reset, 0, 15, State.tick_of (by decide +kernel), by decide +kernel⟩,
   ⟨(((canWit 1).txbSet 15 31 2).putFld (R.CAN.STAT 15) 12 8 31).putBit (R.CAN.STAT 15) 13 true, (((canWit 1).txbSet 15 31 2).putFld (R.CAN.STAT 15) 12 8 31).putBit (R.CAN.STAT 15) 13 true, _, 0, 15, 31, 1, State.tick_of (by decide +kernel), by decide +kernel, by decide +kernel, by decide +kernel, rfl, by decide +kernel⟩,
   ⟨(((canWit 1).txbSet 15 31 2).putFld (R.CAN.STAT 15) 12 8 31).putBit (R.CAN.STAT 15) 13 true, (((canWit 1).txbSet 15 31 2).putFld (R.CAN.STAT 15) 12 8 31).putBit (R.CAN.STAT 15) 13 true, _, _, 0, 16, 0, 15, 31, State.tick_of (by decide +kernel), by decide +kernel, by decide +kernel, by decide +kernel, by decide +kernel, rfl, rfl, by decide +kernel⟩,
   ⟨(((canWit 3).txbSet 15 31 2).putFld (R.CAN.STAT 15) 12 8 31).putBit (R.CAN.STAT 15) 13 true, (((canWit 3).txbSet 15 31 2).putFld (R.CAN.STAT 15) 12 8 31).putBit (R.CAN.STAT 15) 13 true, _, _, 0, 16, 0, 15, 31, State.tick_of (by decide +kernel), by decide +kernel, by decide +kernel, by decide +kernel, by decide +kernel, rfl, rfl, by decide +kernel⟩,
   ⟨(((canWit 1).txbSet 15 31 2).putFld (R.CAN.STAT 15) 12 8 31).putBit (R.CAN.STAT 15) 13 true, (((canWit 1).txbSet 15 31 2).putFld (R.CAN.STAT 15) 12 8 31).putBit (R.CAN.STAT 15) 13 true, (((((canWit 1).txbSet 15 31 2).putFld (R.CAN.STAT 15) 12 8 31).putBit (R.CAN.STAT 15) 13 true).putBit (R.CAN.STAT 15) 13 false).canDrive 15 .activeFlag, 0, 0, 0, 15, 31, 1, 0, 0, 0, false, false, (.error 0 false 0 false), State.tick_of (by decide +kernel), by decide +kernel, by decide +kernel, by decide +kernel, .inl ⟨rfl, rfl, rfl⟩, by decide +kernel⟩⟩

theorem test_witness_canTransmitCommandsComplete_2 :
    (∃ (s : State) (u : State) (t : Time) (m : Master) (n : Fin 16), s.tick t = u ∧ u.Writable (R.CAN.base n) ∧ u.canErr n = 2 ∧ u.canRecovering n = false) ∧
    (∃ (s : State) (u : State) (t : Time) (m : Master) (n : Fin 16), s.tick t = u ∧ u.Writable (R.CAN.base n) ∧ u.canErr n ≠ 2) ∧
    (∃ (s : State) (u : State) (t : Time) (m : Master) (n : Fin 16), s.tick t = u ∧ u.Writable (R.CAN.base n) ∧ u.canRecovering n = true) ∧
    (∃ (s : State) (u : State) (t : Time) (n : Fin 16), s.tick t = u ∧ u.canRuns n = true ∧ u.canErr n = 2 ∧ u.canRecovering n = true) ∧
    (∃ (s : State) (u : State) (t : Time) (n : Fin 16), s.tick t = u ∧ u.canRuns n = true ∧ u.canErr n ≠ 2) ∧
    (∃ (s : State) (u : State) (t : Time) (n : Fin 16), s.tick t = u ∧ u.canOnBus n = true ∧ u.canTxing n = false) ∧
    (∃ (s : State) (u : State) (t : Time) (n : Fin 16), s.tick t = u ∧ u.canErr n = 2 ∧ u.canRecovering n = true ∧ u.fld (R.CAN.STAT n) 23 16 = 128) ∧
    (∃ (s : State) (u : State) (t : Time) (n : Fin 16), s.tick t = u ∧ u.fld (R.CAN.STAT n) 23 16 ≠ 128) :=
  ⟨⟨(canWit 1).putFld (R.CAN.STAT 15) 1 0 2, (canWit 1).putFld (R.CAN.STAT 15) 1 0 2, 0, .host, 15, State.tick_of (by decide +kernel), writable_of (by decide +kernel), by decide +kernel⟩,
   ⟨State.reset, State.reset, 0, .host, 15, State.tick_of (by decide +kernel), writable_of (by decide +kernel), by decide +kernel⟩,
   ⟨(canWit 1).putBit (R.CAN.STAT 15) 5 true, (canWit 1).putBit (R.CAN.STAT 15) 5 true, 0, .host, 15, State.tick_of (by decide +kernel), writable_of (by decide +kernel), by decide +kernel⟩,
   ⟨((canWit 1).putFld (R.CAN.STAT 15) 1 0 2).putBit (R.CAN.STAT 15) 5 true, ((canWit 1).putFld (R.CAN.STAT 15) 1 0 2).putBit (R.CAN.STAT 15) 5 true, 0, 15, State.tick_of (by decide +kernel), by decide +kernel⟩,
   ⟨(canWit 1).setCan 15 (fun c => { c with wait11 := true }), (canWit 1).setCan 15 (fun c => { c with wait11 := true }), 0, 15, State.tick_of (by decide +kernel), by decide +kernel⟩,
   ⟨(canWit 1), (canWit 1), 0, 15, State.tick_of (by decide +kernel), by decide +kernel⟩,
   ⟨(((canWit 1).putFld (R.CAN.STAT 15) 1 0 2).putBit (R.CAN.STAT 15) 5 true).putFld (R.CAN.STAT 15) 23 16 128, (((canWit 1).putFld (R.CAN.STAT 15) 1 0 2).putBit (R.CAN.STAT 15) 5 true).putFld (R.CAN.STAT 15) 23 16 128, 0, 15, State.tick_of (by decide +kernel), by decide +kernel⟩,
   ⟨State.reset, State.reset, 0, 15, State.tick_of (by decide +kernel), by decide +kernel⟩⟩

theorem test_witness_etherCommandsComplete :
    (∃ (s : State) (u : State) (w : State) (v : State) (t : Time) (n : Fin 4) (slow : Bool) (sp : Bool), s.tick t = u ∧ (if u.bit (R.ETH.CTRL n) 1 then slow else u.bit (R.ETH.CTRL n) 0) = sp ∧ (if u.selfBad (n / 2) then u.badNow (n / 2) else u) = w ∧ (w.putBit (R.ETH.STAT n) 0 true).putBit (R.ETH.STAT n) 1 sp = v ∧ v.linkUp n = true ∧ u.linkUp n = false) ∧
    (∃ (s : State) (u : State) (w : State) (v : State) (t : Time) (n : Fin 4) (slow : Bool) (sp : Bool), s.tick t = u ∧ (if u.bit (R.ETH.CTRL n) 1 then slow else u.bit (R.ETH.CTRL n) 0) = sp ∧ (if u.selfBad (n / 2) then u.badNow (n / 2) else u) = w ∧ (w.putBit (R.ETH.STAT n) 0 true).putBit (R.ETH.STAT n) 1 sp = v ∧ v.linkUp n = true ∧ u.linkUp n = true) ∧
    (∃ (s : State) (u : State) (w : State) (v : State) (t : Time) (n : Fin 4) (slow : Bool) (sp : Bool), s.tick t = u ∧ (if u.bit (R.ETH.CTRL n) 1 then slow else u.bit (R.ETH.CTRL n) 0) = sp ∧ (if u.selfBad (n / 2) then u.badNow (n / 2) else u) = w ∧ (w.putBit (R.ETH.STAT n) 0 true).putBit (R.ETH.STAT n) 1 sp = v ∧ v.linkUp n = false) ∧
    (∃ (s : State) (u : State) (t : Time) (n : Fin 4), s.tick t = u ∧ u.linkUp n = true) ∧
    (∃ (s : State) (u : State) (t : Time) (n : Fin 4), s.tick t = u ∧ u.linkUp n = false) ∧
    (∃ (s : State) (u : State) (t : Time) (stamp : Time) (n : Fin 4) (bytes : List Byte) (ok : Bool) (buf : DWord), s.tick t = u ∧ u.linkUp n = false) ∧
    (∃ (s : State) (u : State) (t : Time) (stamp : Time) (n : Fin 4) (bytes : List Byte) (ok : Bool) (buf : DWord), s.tick t = u ∧ u.linkUp n = true ∧ (u.bridgeRx n bytes ok).2 = false) ∧
    (∃ (s : State) (u : State) (t : Time) (stamp : Time) (n : Fin 4) (bytes : List Byte) (ok : Bool) (buf : DWord), s.tick t = u ∧ u.linkUp n = true ∧ (u.bridgeRx n bytes ok).2 = true) :=
  ⟨⟨(ethWit 3), (ethWit 3), _, _, 0, 3, false, false, State.tick_of (by decide +kernel), by decide +kernel, rfl, rfl, by decide +kernel⟩,
   ⟨(ethWit 3).putBit (R.ETH.STAT 3) 0 true, (ethWit 3).putBit (R.ETH.STAT 3) 0 true, _, _, 0, 3, true, true, State.tick_of (by decide +kernel), by decide +kernel, rfl, rfl, by decide +kernel⟩,
   ⟨(ethWit 3).setPort 3 (fun p => { p with injAt := some 0 }), ((ethWit 3).setPort 3 (fun p => { p with injAt := some 0 })).tick 0, _, _, 0, 3, true, true, rfl, by decide +kernel, rfl, rfl, by decide +kernel⟩,
   ⟨(ethWit 3).putBit (R.ETH.STAT 3) 0 true, (ethWit 3).putBit (R.ETH.STAT 3) 0 true, 0, 3, State.tick_of (by decide +kernel), by decide +kernel⟩,
   ⟨State.reset, State.reset, 0, 3, State.tick_of (by decide +kernel), by decide +kernel⟩,
   ⟨State.reset, State.reset, 0, 0, 3, [], true, 0, State.tick_of (by decide +kernel), by decide +kernel⟩,
   ⟨(ethWit 3).putBit (R.ETH.STAT 3) 0 true, (ethWit 3).putBit (R.ETH.STAT 3) 0 true, 0, 0, 3, [1, 2], false, 0, State.tick_of (by decide +kernel), by decide +kernel⟩,
   ⟨(ethWit 3).putBit (R.ETH.STAT 3) 0 true, (ethWit 3).putBit (R.ETH.STAT 3) 0 true, 0, 0, 3, (List.replicate 6 255 ++ List.replicate 6 2 ++ [8, 0] ++ List.replicate 46 0), true, 0, State.tick_of (by decide +kernel), by decide +kernel⟩⟩

theorem test_witness_etherCommandsComplete_2 :
    (∃ (s : State) (u : State) (t : Time) (stamp : Time) (n : Fin 4) (bytes : List Byte) (buf : DWord), s.tick t = u ∧ isPtp bytes 0 = false) ∧
    (∃ (s : State) (u : State) (t : Time) (stamp : Time) (n : Fin 4) (bytes : List Byte) (buf : DWord), s.tick t = u ∧ isPtp bytes 0 = true) ∧
    (∃ (s : State) (u : State) (t : Time) (r : Fin 2), s.tick t = u ∧ u.gm r = false) ∧
    (∃ (s : State) (u : State) (t : Time) (r : Fin 2), s.tick t = u ∧ u.gm r = true ∧ (u.raceOf r).origLast = none ∧ u.ptpRole (2 * r) ≠ 1 ∧ u.ptpRole (2 * r + 1) ≠ 1) ∧
    (∃ (s : State) (u : State) (t : Time) (r : Fin 2), s.tick t = u ∧ u.lossDue r = false) ∧
    (∃ (s : State) (u : State) (v : State) (t : Time) (r : Fin 2), s.tick t = u ∧ u.lossDue r = true ∧ u.sel = (r == 0) ∧ (((u.putBit (R.PTP.FT_STAT r) 0 false).postNow srcTime 0x20 r).irq (R.PTP.base r) 1).setRace r (fun x => { x with lost := true }) = v ∧ (v.tracked (1 - r) && !v.lossDue (1 - r)) = true ∧ v.redEn = false) ∧
    (∃ (s : State) (u : State) (v : State) (t : Time) (m : Master) (r : Fin 2), s.tick t = u ∧ u.Writable (R.PTP.base r) ∧ (u.domainLost 0).domainLost 1 = v ∧ v.tracked r = true) ∧
    (∃ (s : State) (u : State) (v : State) (t : Time) (m : Master) (r : Fin 2), s.tick t = u ∧ u.Writable (R.PTP.base r) ∧ (u.domainLost 0).domainLost 1 = v ∧ v.tracked r = false) :=
  ⟨⟨State.reset, State.reset, 0, 0, 3, [], 0, State.tick_of (by decide +kernel), by decide +kernel⟩,
   ⟨State.reset, State.reset, 0, 0, 3, (List.replicate 12 1 ++ [0x88, 0xf7, 0]), 0, State.tick_of (by decide +kernel), by decide +kernel⟩,
   ⟨State.reset, State.reset, 0, 1, State.tick_of (by decide +kernel), by decide +kernel⟩,
   ⟨(State.reset.putBit (R.PTP.FT_CFG 1) 20 true), (State.reset.putBit (R.PTP.FT_CFG 1) 20 true), 0, 1, State.tick_of (by decide +kernel), by decide +kernel⟩,
   ⟨State.reset, State.reset, 0, 1, State.tick_of (by decide +kernel), by decide +kernel⟩,
   ⟨lossWit, lossWit, (((lossWit.putBit (R.PTP.FT_STAT 1) 0 false).postNow srcTime 0x20 1).irq (R.PTP.base 1) 1).setRace 1 (fun x => { x with lost := true }), (sec 100), 1, State.tick_of (by decide +kernel), by decide +kernel, by decide +kernel, rfl, by decide +kernel⟩,
   ⟨(State.reset.putBit (R.PTP.FT_STAT 1) 0 true), (State.reset.putBit (R.PTP.FT_STAT 1) 0 true), (State.reset.putBit (R.PTP.FT_STAT 1) 0 true), 0, .host, 1, State.tick_of (by decide +kernel), writable_of (by decide +kernel), rfl, by decide +kernel⟩,
   ⟨State.reset, State.reset, State.reset, 0, .host, 1, State.tick_of (by decide +kernel), writable_of (by decide +kernel), rfl, by decide +kernel⟩⟩

theorem test_witness_etherCommandsComplete_3 :
    ∃ (s : State) (u : State) (t : Time) (m : Master) (r : Fin 2), s.tick t = u ∧ u.Writable (R.PTP.base r) :=
  ⟨State.reset, State.reset, 0, .host, 1, State.tick_of (by decide +kernel), writable_of (by decide +kernel)⟩

theorem test_witness_redundancyCommandsComplete :
    (∃ (s : State) (u : State) (t : Time) (k : Nat), s.tick t = u ∧ (u.mt.fdiv (2 ^ 32)).toNat / nz (u.fld (R.PTP.RED_CYCLE 0) 27 0) * nz (u.fld (R.PTP.RED_CYCLE 0) 27 0) = k ∧ u.red.next ≤ k) ∧
    (∃ (s : State) (u : State) (t : Time) (k : Nat), s.tick t = u ∧ (u.mt.fdiv (2 ^ 32)).toNat / nz (u.fld (R.PTP.RED_CYCLE 0) 27 0) * nz (u.fld (R.PTP.RED_CYCLE 0) 27 0) = k ∧ k < u.red.next) ∧
    (∃ (s : State) (u : State) (t : Time), s.tick t = u ∧ u.red.copies.filter (fun c => decide (c.race < 2) && decide (c.at_ + ns (u.fld (R.PTP.RED_SKEW 0) 19 0) ≤ u.now)) = []) ∧
    (∃ (s : State) (u : State) (t : Time) (c : Copy), s.tick t = u ∧ u.red.copies = [c] ∧ c.race < 2 ∧ c.at_ + ns (u.fld (R.PTP.RED_SKEW 0) 19 0) ≤ u.now) ∧
    (∃ (s : State) (u : State) (t : Time) (r : Fin 2), s.tick t = u ∧ u.raceBad r = false) ∧
    (∃ (s : State) (u : State) (t : Time) (r : Fin 2), s.tick t = u ∧ u.raceBad r = true ∧ u.selfBad r = true) ∧
    (∃ (s : State) (u : State) (t : Time), s.tick t = u ∧ u.raceBad 1 = true ∧ u.selfBad 1 = false ∧ u.raceBad 0 = false ∧ u.red.badB + ms (100 * nz (u.fld (R.PTP.RED_CTRL 0) 31 16)) ≤ u.now ∧ (((u.putBit (R.PTP.RED_STAT 0) 2 false).postNow 0x0D0 0x12 1).irq (R.PTP.base 0) 2).raceBad 0 = false) ∧
    (∃ (s : State) (u : State) (t : Time) (m : Master) (v : Word), s.tick t = u ∧ u.Writable (R.PTP.base 0) ∧ bitsN v.toNat 2 1 = 3) :=
  ⟨⟨State.reset, State.reset, 0, 0, State.tick_of (by decide +kernel), by decide +kernel⟩,
   ⟨(State.reset.setRed (fun x => { x with next := 1 })), (State.reset.setRed (fun x => { x with next := 1 })), 0, 0, State.tick_of (by decide +kernel), by decide +kernel⟩,
   ⟨State.reset, State.reset, 0, State.tick_of (by decide +kernel), by decide +kernel⟩,
   ⟨({ State.reset with now := sec 1 }).setRed (fun x => { x with copies := [⟨1, [], [], 0, 0⟩] }), ({ State.reset with now := sec 1 }).setRed (fun x => { x with copies := [⟨1, [], [], 0, 0⟩] }), (sec 1), ⟨1, [], [], 0, 0⟩, State.tick_of (by decide +kernel), by decide +kernel⟩,
   ⟨State.reset, State.reset, 0, 1, State.tick_of (by decide +kernel), by decide +kernel⟩,
   ⟨(((State.reset.putBit (R.PTP.RED_STAT 0) 2 true).setRg (R.PTP.RED_CTRL 0) 3).setRace 1 (fun x => { x with lost := true })), (((State.reset.putBit (R.PTP.RED_STAT 0) 2 true).setRg (R.PTP.RED_CTRL 0) 3).setRace 1 (fun x => { x with lost := true })), 0, 1, State.tick_of (by decide +kernel), by decide +kernel⟩,
   ⟨({ State.reset with now := sec 1000 }).putBit (R.PTP.RED_STAT 0) 2 true, ({ State.reset with now := sec 1000 }).putBit (R.PTP.RED_STAT 0) 2 true, (sec 1000), State.tick_of (by decide +kernel), by decide +kernel⟩,
   ⟨State.reset, State.reset, 0, .host, 6, State.tick_of (by decide +kernel), writable_of (by decide +kernel), by decide +kernel⟩⟩

theorem test_witness_redundancyCommandsComplete_2 :
    (∃ (s : State) (u : State) (t : Time) (m : Master) (v : Word), s.tick t = u ∧ u.Writable (R.PTP.base 0) ∧ u.doubled = true ∧ u.drilling = false) ∧
    (∃ (s : State) (u : State) (t : Time) (m : Master) (v : Word), s.tick t = u ∧ u.Writable (R.PTP.base 0) ∧ u.drilling = true ∧ bitN v.toNat 0 = true) ∧
    (∃ (s : State) (u : State) (t : Time) (m : Master) (v : Word), s.tick t = u ∧ u.Writable (R.PTP.base 0) ∧ bitsN v.toNat 2 1 ≠ 3 ∧ u.doubled = false ∧ u.drilling = false ∧ bitN v.toNat 0 = true ∧ bitN v.toNat 3 = u.bit (R.PTP.RED_CTRL 0) 3) ∧
    (∃ (s : State) (u : State) (t : Time) (m : Master), s.tick t = u ∧ u.Writable (R.PTP.base 0) ∧ u.redEn = true ∧ u.drilling = false ∧ u.doubled = false ∧ u.raceBad (1 - u.active) = false) ∧
    (∃ (s : State) (u : State) (t : Time) (m : Master), s.tick t = u ∧ u.Writable (R.PTP.base 0) ∧ u.redEn = false) ∧
    (∃ (s : State) (u : State) (t : Time) (m : Master), s.tick t = u ∧ u.Writable (R.PTP.base 0) ∧ u.drilling = true) ∧
    (∃ (s : State) (u : State) (t : Time) (m : Master), s.tick t = u ∧ u.Writable (R.PTP.base 0) ∧ u.doubled = true) ∧
    (∃ (s : State) (u : State) (t : Time) (m : Master), s.tick t = u ∧ u.Writable (R.PTP.base 0) ∧ u.raceBad (1 - u.active) = true) :=
  ⟨⟨(State.reset.putBit (R.PTP.RED_STAT 0) 3 true), (State.reset.putBit (R.PTP.RED_STAT 0) 3 true), 0, .host, 0, State.tick_of (by decide +kernel), writable_of (by decide +kernel), by decide +kernel⟩,
   ⟨(State.reset.putBit (R.PTP.RED_STAT 0) 4 true), (State.reset.putBit (R.PTP.RED_STAT 0) 4 true), 0, .host, 1, State.tick_of (by decide +kernel), writable_of (by decide +kernel), by decide +kernel⟩,
   ⟨State.reset, State.reset, 0, .host, 3, State.tick_of (by decide +kernel), writable_of (by decide +kernel), by decide +kernel⟩,
   ⟨(State.reset.setRg (R.PTP.RED_CTRL 0) 1), (State.reset.setRg (R.PTP.RED_CTRL 0) 1), 0, .host, State.tick_of (by decide +kernel), writable_of (by decide +kernel), by decide +kernel⟩,
   ⟨State.reset, State.reset, 0, .host, State.tick_of (by decide +kernel), writable_of (by decide +kernel), by decide +kernel⟩,
   ⟨(State.reset.putBit (R.PTP.RED_STAT 0) 4 true), (State.reset.putBit (R.PTP.RED_STAT 0) 4 true), 0, .host, State.tick_of (by decide +kernel), writable_of (by decide +kernel), by decide +kernel⟩,
   ⟨(State.reset.putBit (R.PTP.RED_STAT 0) 3 true), (State.reset.putBit (R.PTP.RED_STAT 0) 3 true), 0, .host, State.tick_of (by decide +kernel), writable_of (by decide +kernel), by decide +kernel⟩,
   ⟨(State.reset.putBit (R.PTP.RED_STAT 0) 2 true), (State.reset.putBit (R.PTP.RED_STAT 0) 2 true), 0, .host, State.tick_of (by decide +kernel), writable_of (by decide +kernel), by decide +kernel⟩⟩

theorem test_witness_egressCommandsComplete :
    (∃ (s : State) (u : State) (t : Time) (n : Fin 4), s.tick t = u ∧ (u.now < (u.port n).busyUntil ∨ u.txHeld n = true)) ∧
    (∃ (s : State) (u : State) (t : Time) (n : Fin 4) (f : EgFrame), s.tick t = u ∧ (u.port n).busyUntil ≤ u.now ∧ u.txHeld n = false ∧ (u.port n).queues = vupd (Vector.replicate 8 []) 7 (fun _ => [f]) ∧ u.gateOpen n 7 = some none) ∧
    (∃ (s : State) (u : State) (t : Time) (n : Fin 4) (b : Bool), s.tick t = u ∧ u.startSince n (u.port n).swapAt (u.port n).gcl.base false = b ∧ (u.port n).gclOff = true ∧ b = true) ∧
    (∃ (s : State) (u : State) (t : Time) (n : Fin 4) (b : Bool), s.tick t = u ∧ u.startSince n (u.port n).swapAt (u.port n).gcl.base false = b ∧ (u.port n).gclOff = true ∧ b = false) ∧
    (∃ (s : State) (u : State) (t : Time) (n : Fin 4) (b : Bool), s.tick t = u ∧ u.startSince n (u.port n).swapAt (u.port n).gcl.base false = b ∧ (u.port n).gclOff = false) ∧
    (∃ (s : State) (u : State) (v : State) (t : Time) (m : Master) (n : Fin 4) (w : Word), s.tick t = u ∧ u.Writable (R.ETH.base n) ∧ u.rg (R.ETH.GCL_CTRL n) = w ∧ wbit w 2 = false ∧ u.setRg (R.ETH.GCL_CTRL n) (BitVec.ofNat 32 (((w.toNat ||| 2) &&& 0xff01) + 4 + b2n (wbit w 3) * 8)) = v) ∧
    (∃ (s : State) (u : State) (t : Time) (m : Master) (n : Fin 4) (w : Word), s.tick t = u ∧ u.Writable (R.ETH.base n) ∧ u.rg (R.ETH.GCL_CTRL n) = w ∧ wbit w 2 = true) ∧
    (∃ (s : State) (u : State) (t : Time) (n : Fin 4), s.tick t = u ∧ u.bit (R.ETH.GCL_CTRL n) 2 = false) :=
  ⟨⟨(State.reset.setPort 3 (fun p => { p with busyUntil := 1 })), (State.reset.setPort 3 (fun p => { p with busyUntil := 1 })), 0, 3, State.tick_of (by decide +kernel), by decide +kernel⟩,
   ⟨(State.reset.setRg (R.ETH.GCL_CTRL 3) 0xff00).setPort 3 (fun p => { p with queues := vupd p.queues 7 (fun _ => [⟨.data, [1], 0, false⟩]) }), (State.reset.setRg (R.ETH.GCL_CTRL 3) 0xff00).setPort 3 (fun p => { p with queues := vupd p.queues 7 (fun _ => [⟨.data, [1], 0, false⟩]) }), 0, 3, ⟨.data, [1], 0, false⟩, State.tick_of (by decide +kernel), by decide +kernel⟩,
   ⟨(State.reset.setPort 3 (fun p => { p with gclOff := true, gcl := { p.gcl with cycle := 1000 } })), (State.reset.setPort 3 (fun p => { p with gclOff := true, gcl := { p.gcl with cycle := 1000 } })), 0, 3, true, State.tick_of (by decide +kernel), by decide +kernel⟩,
   ⟨(State.reset.setPort 3 (fun p => { p with gclOff := true, gcl := { p.gcl with base := 1000000000000000000, cycle := 1000 } })), (State.reset.setPort 3 (fun p => { p with gclOff := true, gcl := { p.gcl with base := 1000000000000000000, cycle := 1000 } })), 0, 3, false, State.tick_of (by decide +kernel), by decide +kernel⟩,
   ⟨State.reset, State.reset, 0, 3, _, State.tick_of (by decide +kernel), rfl, by decide +kernel⟩,
   ⟨(State.reset.setRg (R.ETH.GCL_CTRL 3) 0xff01), (State.reset.setRg (R.ETH.GCL_CTRL 3) 0xff01), (State.reset.setRg (R.ETH.GCL_CTRL 3) 0xff01).setRg (R.ETH.GCL_CTRL 3) 0xff05, 0, .host, 3, 0xff01, State.tick_of (by decide +kernel), writable_of (by decide +kernel), by decide +kernel, by decide +kernel, rfl⟩,
   ⟨(State.reset.setRg (R.ETH.GCL_CTRL 3) 0xff05), (State.reset.setRg (R.ETH.GCL_CTRL 3) 0xff05), 0, .host, 3, 0xff05, State.tick_of (by decide +kernel), writable_of (by decide +kernel), by decide +kernel⟩,
   ⟨State.reset, State.reset, 0, 3, State.tick_of (by decide +kernel), by decide +kernel⟩⟩

theorem test_witness_egressCommandsComplete_2 :
    (∃ (s : State) (u : State) (t : Time) (n : Fin 4), s.tick t = u ∧ u.bit (R.ETH.GCL_CTRL n) 2 = true ∧ (u.port n).gclOff = false ∧ u.bit (R.ETH.GCL_CTRL n) 0 = false ∧ (u.rg64 (R.ETH.GCL_CHANGE_AT n) : Int) ≤ u.ptpNs n) ∧
    (∃ (s : State) (u : State) (t : Time) (n : Fin 4), s.tick t = u ∧ u.bit (R.ETH.GCL_CTRL n) 2 = true ∧ (u.port n).gclOff = false ∧ u.bit (R.ETH.GCL_CTRL n) 0 = false ∧ u.ptpNs n < (u.rg64 (R.ETH.GCL_CHANGE_AT n) : Int)) ∧
    (∃ (s : State) (u : State) (t : Time) (t0 : Time) (n : Fin 4), s.tick t = u ∧ u.ptpRole n = 0) ∧
    (∃ (s : State) (u : State) (t : Time) (t0 : Time) (n : Fin 4), s.tick t = u ∧ (u.port n).pdLast = some t0 ∧ passed (u.now - t0) (sx 8 (u.fld (R.ETH.PDELAY_CFG n) 7 0)) = false) ∧
    (∃ (s : State) (u : State) (t : Time) (n : Fin 4), s.tick t = u ∧ u.ptpRole n ≠ 0 ∧ (u.port n).pdLast = none) ∧
    (∃ (s : State) (u : State) (t : Time) (n : Fin 4) (x : PdelayRes) (ds : List Rat), s.tick t = u ∧ u.ptpRole n ≠ 0 ∧ (((((((x.t4 : Int) + (u.fld (R.ETH.LAT_IN n) 15 0 : Nat) - ((x.t1 : Int) + (u.fld (R.ETH.LAT_OUT n) 15 0 : Nat))) * 4096 : Int) : Rat) * (1 + (x.nrr : Rat) / (2 ^ 41 : Nat)) - (x.turn : Rat)) / 2) :: (u.port n).pdDelays).take 16 = ds) ∧
    (∃ (s : State) (u : State) (t : Time) (n : Fin 4) (x : Option PdelayRes), s.tick t = u ∧ u.ptpRole n = 0) :=
  ⟨⟨(State.reset.setRg (R.ETH.GCL_CTRL 3) 0xff04), (State.reset.setRg (R.ETH.GCL_CTRL 3) 0xff04), 0, 3, State.tick_of (by decide +kernel), by decide +kernel⟩,
   ⟨(State.reset.setRg (R.ETH.GCL_CTRL 3) 0xff04).setRg (R.ETH.GCL_CHANGE_AT 3) 5, (State.reset.setRg (R.ETH.GCL_CTRL 3) 0xff04).setRg (R.ETH.GCL_CHANGE_AT 3) 5, 0, 3, State.tick_of (by decide +kernel), by decide +kernel⟩,
   ⟨State.reset, State.reset, 0, 0, 3, State.tick_of (by decide +kernel), by decide +kernel⟩,
   ⟨(State.reset.setPort 3 (fun p => { p with pdLast := some 0 })), (State.reset.setPort 3 (fun p => { p with pdLast := some 0 })), 0, 0, 3, State.tick_of (by decide +kernel), by decide +kernel⟩,
   ⟨(State.reset.setRg (R.ETH.CTRL 3) 4), (State.reset.setRg (R.ETH.CTRL 3) 4), 0, 3, State.tick_of (by decide +kernel), by decide +kernel⟩,
   ⟨(State.reset.setRg (R.ETH.CTRL 3) 4), (State.reset.setRg (R.ETH.CTRL 3) 4), 0, 3, ⟨0, 100, 0, 0⟩, [204800], State.tick_of (by decide +kernel), by decide +kernel⟩,
   ⟨State.reset, State.reset, 0, 3, none, State.tick_of (by decide +kernel), by decide +kernel⟩⟩

theorem test_witness_mirastCommandsComplete :
    (∃ (s : State) (u : State) (t : Time), s.tick t = u ∧ u.now / u.cyc * u.cyc ≤ u.bw.tick) ∧
    (∃ (s : State) (u : State) (v : State) (t : Time), s.tick t = u ∧ u.bw.tick < u.now / u.cyc * u.cyc ∧ (List.range 16).foldl (fun (s : State) c => s.rxTick c) ((u.setBw (fun b => { b with tick := u.now / u.cyc * u.cyc })).setRg R.BRAKE.CYC_WAIT (u.rg R.BRAKE.CYC_WAIT + 1)) = v ∧ u.coreState 32 = 1 ∧ (u.cr 32).stall = true) ∧
    (∃ (s : State) (u : State) (v : State) (t : Time), s.tick t = u ∧ u.bw.tick < u.now / u.cyc * u.cyc ∧ (List.range 16).foldl (fun (s : State) c => s.rxTick c) ((u.setBw (fun b => { b with tick := u.now / u.cyc * u.cyc })).setRg R.BRAKE.CYC_WAIT (u.rg R.BRAKE.CYC_WAIT + 1)) = v ∧ u.bw.start + 2 * u.cyc ≤ u.now / u.cyc * u.cyc ∧ (u.cr 32).stall = false ∧ u.coreState 32 ≠ 4 ∧ u.sess.proof = false) ∧
    (∃ (s : State) (u : State) (v : State) (t : Time), s.tick t = u ∧ u.bw.tick < u.now / u.cyc * u.cyc ∧ (List.range 16).foldl (fun (s : State) c => s.rxTick c) ((u.setBw (fun b => { b with tick := u.now / u.cyc * u.cyc })).setRg R.BRAKE.CYC_WAIT (u.rg R.BRAKE.CYC_WAIT + 1)) = v ∧ u.now / u.cyc * u.cyc < u.bw.start + 2 * u.cyc ∧ (u.cr 32).stall = false) ∧
    (∃ (s : State) (u : State) (t : Time) (c : Fin 16) (p : Time) (i : Time), s.tick t = u ∧ us (u.rg (R.CONN.PERIOD c)).toNat = p ∧ u.now / p * p = i ∧ u.bit (R.CONN.CFG c) 0 = true ∧ (u.mirTx c).last < i) ∧
    (∃ (s : State) (u : State) (t : Time) (c : Fin 16) (p : Time) (i : Time), s.tick t = u ∧ us (u.rg (R.CONN.PERIOD c)).toNat = p ∧ u.now / p * p = i ∧ u.bit (R.CONN.CFG c) 0 = false) ∧
    (∃ (s : State) (u : State) (t : Time) (c : Fin 16) (p : Time) (i : Time), s.tick t = u ∧ us (u.rg (R.CONN.PERIOD c)).toNat = p ∧ u.now / p * p = i ∧ i ≤ (u.mirTx c).last) ∧
    (∃ (s : State) (u : State) (t : Time) (c : Fin 16), s.tick t = u ∧ (u.mirRx c).lost = [] ∧ (u.mirRx c).pair = none) :=
  ⟨⟨State.reset, State.reset, 0, State.tick_of (by decide +kernel), by decide +kernel⟩,
   ⟨(tickWit.setCr 32 (fun k => { k with stall := true })), (tickWit.setCr 32 (fun k => { k with stall := true })), (List.range 16).foldl (fun (s : State) c => s.rxTick c) (((tickWit.setCr 32 (fun k => { k with stall := true })).setBw (fun b => { b with tick := tickWit.now / tickWit.cyc * tickWit.cyc })).setRg R.BRAKE.CYC_WAIT (tickWit.rg R.BRAKE.CYC_WAIT + 1)), (sec 1), State.tick_of (by decide +kernel), by decide +kernel, rfl, by decide +kernel⟩,
   ⟨tickWit, tickWit, (List.range 16).foldl (fun (s : State) c => s.rxTick c) ((tickWit.setBw (fun b => { b with tick := tickWit.now / tickWit.cyc * tickWit.cyc })).setRg R.BRAKE.CYC_WAIT (tickWit.rg R.BRAKE.CYC_WAIT + 1)), (sec 1), State.tick_of (by decide +kernel), by decide +kernel, rfl, by decide +kernel⟩,
   ⟨(tickWit.setBw (fun b => { b with start := sec 1 })), (tickWit.setBw (fun b => { b with start := sec 1 })), (List.range 16).foldl (fun (s : State) c => s.rxTick c) (((tickWit.setBw (fun b => { b with start := sec 1 })).setBw (fun b => { b with tick := tickWit.now / tickWit.cyc * tickWit.cyc })).setRg R.BRAKE.CYC_WAIT (tickWit.rg R.BRAKE.CYC_WAIT + 1)), (sec 1), State.tick_of (by decide +kernel), by decide +kernel, rfl, by decide +kernel⟩,
   ⟨(({ State.reset with now := sec 1 }).setRg (R.CONN.CFG 15) 1).setRg (R.CONN.PERIOD 15) 1000, (({ State.reset with now := sec 1 }).setRg (R.CONN.CFG 15) 1).setRg (R.CONN.PERIOD 15) 1000, (sec 1), 15, (us 1000), (sec 1), State.tick_of (by decide +kernel), by decide +kernel⟩,
   ⟨({ State.reset with now := sec 1 }).setRg (R.CONN.PERIOD 15) 1000, ({ State.reset with now := sec 1 }).setRg (R.CONN.PERIOD 15) 1000, (sec 1), 15, (us 1000), (sec 1), State.tick_of (by decide +kernel), by decide +kernel⟩,
   ⟨(State.reset.setRg (R.CONN.PERIOD 15) 1000), (State.reset.setRg (R.CONN.PERIOD 15) 1000), 0, 15, (us 1000), 0, State.tick_of (by decide +kernel), by decide +kernel⟩,
   ⟨State.reset, State.reset, 0, 15, State.tick_of (by decide +kernel), by decide +kernel⟩⟩

theorem test_witness_mirastCommandsComplete_2 :
    (∃ (s : State) (u : State) (t : Time) (a : Time) (c : Fin 16) (r : Nat) (b : List Byte), s.tick t = u ∧ (u.mirRx c).lost = [] ∧ (u.mirRx c).pair = some (r, b, a) ∧ a + u.skew c ≤ u.now ∧ u.rxState c = 2) ∧
    (∃ (s : State) (u : State) (t : Time) (c : Fin 16), s.tick t = u ∧ u.rxState c = 2 ∧ (u.mirRx c).newAt + ms (nz (u.fld (R.CONN.TMO (16 + c)) 15 0)) ≤ u.now) ∧
    (∃ (s : State) (u : State) (t : Time) (c : Fin 16), s.tick t = u ∧ u.rxState c = 2 ∧ u.now < (u.mirRx c).newAt + ms (nz (u.fld (R.CONN.TMO (16 + c)) 15 0))) ∧
    (∃ (s : State) (u : State) (t : Time) (c : Fin 16), s.tick t = u ∧ u.rxState c = 3 ∧ (u.mirRx c).degAt + ms (100 * (u.rg (R.CONN.DEG_T (16 + c))).toNat) ≤ u.now) ∧
    (∃ (s : State) (u : State) (t : Time) (c : Fin 16), s.tick t = u ∧ u.rxState c ≠ 3) ∧
    (∃ (s : State) (u : State) (t : Time) (k : Nat), s.tick t = u ∧ (u.bwSel none).csel = k ∧ k < 16) ∧
    (∃ (s : State) (u : State) (t : Time) (k : Nat), s.tick t = u ∧ (u.bwSel none).csel = k ∧ 16 ≤ k) ∧
    (∃ (s : State) (u : State) (t : Time) (m : Master) (k : Nat), s.tick t = u ∧ u.Writable R.BRAKE.base ∧ (u.selOf m).csel = k ∧ k < 16) :=
  ⟨⟨(({ State.reset with now := sec 1 }).putFld (rxStat 15) 18 16 2).setRx 15 (fun x => { x with pair := some (1, [], 0) }), (({ State.reset with now := sec 1 }).putFld (rxStat 15) 18 16 2).setRx 15 (fun x => { x with pair := some (1, [], 0) }), (sec 1), 0, 15, 1, [], State.tick_of (by decide +kernel), by decide +kernel⟩,
   ⟨({ State.reset with now := sec 1000 }).putFld (rxStat 15) 18 16 2, ({ State.reset with now := sec 1000 }).putFld (rxStat 15) 18 16 2, (sec 1000), 15, State.tick_of (by decide +kernel), by decide +kernel⟩,
   ⟨(State.reset.putFld (rxStat 15) 18 16 2), (State.reset.putFld (rxStat 15) 18 16 2), 0, 15, State.tick_of (by decide +kernel), by decide +kernel⟩,
   ⟨({ State.reset with now := sec 1000000 }).putFld (rxStat 15) 18 16 3, ({ State.reset with now := sec 1000000 }).putFld (rxStat 15) 18 16 3, (sec 1000000), 15, State.tick_of (by decide +kernel), by decide +kernel⟩,
   ⟨State.reset, State.reset, 0, 15, State.tick_of (by decide +kernel), by decide +kernel⟩,
   ⟨State.reset, State.reset, 0, 0, State.tick_of (by decide +kernel), by decide +kernel⟩,
   ⟨{ State.reset with sels := tset {} State.reset.sels 7 { csel := 31 } }, { State.reset with sels := tset {} State.reset.sels 7 { csel := 31 } }, 0, 31, State.tick_of (by decide +kernel), by decide +kernel⟩,
   ⟨State.reset, State.reset, 0, .host, 0, State.tick_of (by decide +kernel), writable_of (by decide +kernel), by decide +kernel⟩⟩

theorem test_witness_mirastCommandsComplete_3 :
    (∃ (s : State) (u : State) (t : Time) (m : Master) (k : Nat), s.tick t = u ∧ u.Writable R.BRAKE.base ∧ (u.selOf m).csel = k ∧ 16 ≤ k ∧ u.bit (R.CONN.CFG (16 + (k - 16))) 0 = true ∧ u.rxState (k - 16) = 0) ∧
    (∃ (s : State) (u : State) (t : Time) (m : Master) (k : Nat), s.tick t = u ∧ u.Writable R.BRAKE.base ∧ (u.selOf m).csel = k ∧ 16 ≤ k) :=
  ⟨⟨(State.reset.setSel .host (fun x => { x with csel := 31 })).setRg (R.CONN.CFG 31) 1, (State.reset.setSel .host (fun x => { x with csel := 31 })).setRg (R.CONN.CFG 31) 1, 0, .host, 31, State.tick_of (by decide +kernel), writable_of (by decide +kernel), by decide +kernel⟩,
   ⟨(State.reset.setSel .host (fun x => { x with csel := 31 })).putFld (rxStat 15) 18 16 2, (State.reset.setSel .host (fun x => { x with csel := 31 })).putFld (rxStat 15) 18 16 2, 0, .host, 31, State.tick_of (by decide +kernel), writable_of (by decide +kernel), by decide +kernel⟩⟩

theorem test_witness_islandCommandsComplete :
    (∃ (s : State) (u : State) (t : Time), s.tick t = u ∧ u.coreState 32 = 1 ∧ (u.cr 32).stall = false ∧ u.bw.ticked = true) ∧
    (∃ (s : State) (u : State) (t : Time), s.tick t = u ∧ u.coreState 32 = 1 ∧ (u.cr 32).stall = false ∧ u.bw.ticked = false) ∧
    (∃ (s : State) (u : State) (t : Time) (m : Master) (v : Word) (i : Fin 8) (k : Fin 4) (d : DWord), s.tick t = u ∧ u.Writable R.BRAKE.base) ∧
    (∃ (s : State) (u : State) (t : Time) (v : Word), s.tick t = u) ∧
    (∃ (s : State) (u : State) (t : Time), s.tick t = u) ∧
    (∃ (s : State) (u : State) (v : State) (t : Time) (d : Time) (pin : Bool), s.tick t = u ∧ (if u.bw.injAt.any (fun d => decide (d + us 2 ≤ u.now)) then (u.setBw (fun b => { b with injAt := none })).putBit (R.PG_ERRINJ R.BRAKE.base) 17 false else u) = v ∧ pin = true) ∧
    (∃ (s : State) (u : State) (v : State) (t : Time) (d : Time) (pin : Bool), s.tick t = u ∧ (if u.bw.injAt.any (fun d => decide (d + us 2 ≤ u.now)) then (u.setBw (fun b => { b with injAt := none })).putBit (R.PG_ERRINJ R.BRAKE.base) 17 false else u) = v ∧ u.bw.differ = some d ∧ d + us 2 ≤ u.now) ∧
    (∃ (s : State) (u : State) (v : State) (t : Time) (d : Time) (pin : Bool), s.tick t = u ∧ (if u.bw.injAt.any (fun d => decide (d + us 2 ≤ u.now)) then (u.setBw (fun b => { b with injAt := none })).putBit (R.PG_ERRINJ R.BRAKE.base) 17 false else u) = v ∧ u.bw.injAt = some d ∧ d + us 2 ≤ u.now) :=
  ⟨⟨(State.reset.setCoreState 32 1).setBw (fun b => { b with ticked := true }), (State.reset.setCoreState 32 1).setBw (fun b => { b with ticked := true }), 0, State.tick_of (by decide +kernel), by decide +kernel⟩,
   ⟨(State.reset.setCoreState 32 1), (State.reset.setCoreState 32 1), 0, State.tick_of (by decide +kernel), by decide +kernel⟩,
   ⟨State.reset, State.reset, 0, .debug, 0, 0, 0, 0, State.tick_of (by decide +kernel), writable_of (by decide +kernel)⟩,
   ⟨State.reset, State.reset, 0, 3, State.tick_of (by decide +kernel)⟩,
   ⟨State.reset, State.reset, 0, State.tick_of (by decide +kernel)⟩,
   ⟨State.reset, State.reset, _, 0, 0, true, State.tick_of (by decide +kernel), rfl, by decide +kernel⟩,
   ⟨({ State.reset with now := us 2 }).setBw (fun b => { b with differ := some 0 }), ({ State.reset with now := us 2 }).setBw (fun b => { b with differ := some 0 }), _, (us 2), 0, true, State.tick_of (by decide +kernel), rfl, by decide +kernel⟩,
   ⟨({ State.reset with now := us 2 }).setBw (fun b => { b with injAt := some 0 }), (({ State.reset with now := us 2 }).setBw (fun b => { b with injAt := some 0 })).tick (us 2), _, (us 2), 0, true, rfl, rfl, by decide +kernel⟩⟩

theorem test_witness_islandCommandsComplete_2 :
    (∃ (s : State) (u : State) (v : State) (t : Time) (d : Time) (pin : Bool), s.tick t = u ∧ (if u.bw.injAt.any (fun d => decide (d + us 2 ≤ u.now)) then (u.setBw (fun b => { b with injAt := none })).putBit (R.PG_ERRINJ R.BRAKE.base) 17 false else u) = v ∧ pin = false ∧ u.bw.differ = none ∧ u.bw.injAt = none) ∧
    (∃ (s : State) (u : State) (t : Time) (pc : Fin 1048576), s.tick t = u) ∧
    (∃ (s : State) (u : State) (t : Time) (i : Fin 8) (v : Word), s.tick t = u ∧ (List.range 8).any (fun k => decide (6 ≤ bitsN v.toNat (4 * k + 2) (4 * k))) = false) ∧
    (∃ (s : State) (u : State) (t : Time) (i : Fin 8) (v : Word), s.tick t = u ∧ (List.range 8).any (fun k => decide (6 ≤ bitsN v.toNat (4 * k + 2) (4 * k))) = true) ∧
    (∃ (s : State) (u : State) (t : Time) (on : Bool), s.tick t = u) ∧
    (∃ (s : State) (u : State) (t : Time) (m : Master) (on : Bool), s.tick t = u ∧ u.Writable R.BRAKE.base) ∧
    (∃ (s : State) (u : State) (t : Time), s.tick t = u) ∧
    (∃ (s : State) (u : State) (t : Time), s.tick t = u) :=
  ⟨⟨State.reset, State.reset, _, 0, 0, false, State.tick_of (by decide +kernel), rfl, by decide +kernel⟩,
   ⟨State.reset, State.reset, 0, 0, State.tick_of (by decide +kernel)⟩,
   ⟨State.reset, State.reset, 0, 7, 0x50000000, State.tick_of (by decide +kernel), by decide +kernel⟩,
   ⟨State.reset, State.reset, 0, 7, 0x60000000, State.tick_of (by decide +kernel), by decide +kernel⟩,
   ⟨State.reset, State.reset, 0, true, State.tick_of (by decide +kernel)⟩,
   ⟨State.reset, State.reset, 0, .host, true, State.tick_of (by decide +kernel), writable_of (by decide +kernel)⟩,
   ⟨{ State.reset with bw := { State.reset.bw with inbox := [⟨0x20, 3, 0, true, 0, true, false⟩] } }, { State.reset with bw := { State.reset.bw with inbox := [⟨0x20, 3, 0, true, 0, true, false⟩] } }, 0, State.tick_of (by decide +kernel)⟩,
   ⟨State.reset, State.reset, 0, State.tick_of (by decide +kernel)⟩⟩

theorem test_witness_islandCommandsComplete_3 :
    (∃ (s : State) (u : State) (t : Time) (a : Fin 64), s.tick t = u ∧ tget 0 u.bw.degAt a = 0) ∧
    (∃ (s : State) (u : State) (t : Time) (a : Fin 64), s.tick t = u ∧ tget 0 u.bw.degAt a ≠ 0 ∧ tget 0 u.bw.degAt a - 1 + ms (nz (u.fld R.BRAKE.AXTIME 15 0)) ≤ u.now) ∧
    (∃ (s : State) (u : State) (t : Time) (a : Fin 64), s.tick t = u ∧ bitN u.bw.still a = true) ∧
    (∃ (s : State) (u : State) (t : Time) (a : Fin 64), s.tick t = u ∧ bitN u.bw.still a = false ∧ tget 0 u.bw.stopAt a ≠ 0 ∧ tget 0 u.bw.stopAt a - 1 + ms (nz (u.fld R.BRAKE.AXTIME 31 16)) ≤ u.now) ∧
    (∃ (s : State) (u : State) (t : Time) (a : Fin 64), s.tick t = u ∧ bitN u.bw.still a = false ∧ tget 0 u.bw.stopAt a = 0) ∧
    (∃ (s : State) (u : State) (t : Time) (m : Option Master) (v : Word), s.tick t = u ∧ u.Writable R.BRAKE.base ∧ mayClear m = true) ∧
    (∃ (s : State) (u : State) (t : Time) (m : Option Master) (v : Word), s.tick t = u ∧ u.Writable R.BRAKE.base ∧ mayClear m = false) ∧
    (∃ (s : State) (u : State) (t : Time), s.tick t = u ∧ u.bw.chA = true ∧ u.bw.errAt + us (u.fld R.BRAKE.ERR_CFG 15 0) ≤ u.now) :=
  ⟨⟨State.reset, State.reset, 0, 63, State.tick_of (by decide +kernel), by decide +kernel⟩,
   ⟨{ State.reset with now := sec 1000, bw := { State.reset.bw with degAt := [(63, 1)] } }, { State.reset with now := sec 1000, bw := { State.reset.bw with degAt := [(63, 1)] } }, (sec 1000), 63, State.tick_of (by decide +kernel), by decide +kernel⟩,
   ⟨{ State.reset with bw := { State.reset.bw with still := 2 ^ 63 } }, { State.reset with bw := { State.reset.bw with still := 2 ^ 63 } }, 0, 63, State.tick_of (by decide +kernel), by decide +kernel⟩,
   ⟨{ State.reset with now := sec 1000, bw := { State.reset.bw with stopAt := [(63, 1)] } }, { State.reset with now := sec 1000, bw := { State.reset.bw with stopAt := [(63, 1)] } }, (sec 1000), 63, State.tick_of (by decide +kernel), by decide +kernel⟩,
   ⟨State.reset, State.reset, 0, 63, State.tick_of (by decide +kernel), by decide +kernel⟩,
   ⟨State.reset, State.reset, 0, none, 0x4020, State.tick_of (by decide +kernel), writable_of (by decide +kernel), by decide +kernel⟩,
   ⟨State.reset, State.reset, 0, (some .spi), 0x4020, State.tick_of (by decide +kernel), writable_of (by decide +kernel), by decide +kernel⟩,
   ⟨{ State.reset with now := sec 1, bw := { State.reset.bw with chA := true } }, { State.reset with now := sec 1, bw := { State.reset.bw with chA := true } }, (sec 1), State.tick_of (by decide +kernel), by decide +kernel⟩⟩

theorem test_witness_islandCommandsComplete_4 :
    (∃ (s : State) (u : State) (t : Time), s.tick t = u ∧ u.bw.chA = false ∧ u.bw.chB = false) ∧
    (∃ (s : State) (u : State) (t : Time) (st : Time) (n : Fin 48) (l : Fin 3) (v : Bool), s.tick t = u) ∧
    (∃ (s : State) (u : State) (t : Time) (n : Fin 48), s.tick t = u ∧ u.smEn n = false) ∧
    (∃ (s : State) (u : State) (t : Time) (n : Fin 48), s.tick t = u ∧ u.smEn n = true ∧ (u.rg (R.SM.COUNT n) - BitVec.ofInt 32 (u.fbCount n)).toInt.natAbs ≤ u.fld (R.SM.XTOL n) 15 0) ∧
    (∃ (s : State) (u : State) (t : Time) (k : Fin 4) (v : DWord), s.tick t = u) ∧
    (∃ (s : State) (u : State) (t : Time), s.tick t = u) :=
  ⟨⟨State.reset, State.reset, 0, State.tick_of (by decide +kernel), by decide +kernel⟩,
   ⟨State.reset, State.reset, 0, 0, 47, 2, true, State.tick_of (by decide +kernel)⟩,
   ⟨State.reset, State.reset, 0, 47, State.tick_of (by decide +kernel), by decide +kernel⟩,
   ⟨(State.reset.setRg (R.SM.CFG 47) 1), (State.reset.setRg (R.SM.CFG 47) 1), 0, 47, State.tick_of (by decide +kernel), by decide +kernel⟩,
   ⟨(State.reset.setRg64 (R.BRAKE.SM_FLAGS 3) 5), (State.reset.setRg64 (R.BRAKE.SM_FLAGS 3) 5), 0, 3, 4, State.tick_of (by decide +kernel)⟩,
   ⟨State.reset, State.reset, 0, State.tick_of (by decide +kernel)⟩⟩

theorem test_witness_sessionCommandsComplete :
    (∃ (s : State) (u : State) (t : Time) (m : Master) (len : Fin 64) (h : BitVec 256), s.tick t = u ∧ u.Writable R.BRAKE.base ∧ u.sess.pwHash = some h ∧ u.sess.state = .none ∧ u.lockedOut = false ∧ 8 ≤ len.val ∧ len.val ≤ 32) ∧
    (∃ (s : State) (u : State) (t : Time) (m : Master) (len : Fin 64), s.tick t = u ∧ u.Writable R.BRAKE.base ∧ u.sess.pwHash = none) ∧
    (∃ (s : State) (u : State) (t : Time) (m : Master) (len : Fin 64), s.tick t = u ∧ u.Writable R.BRAKE.base ∧ len.val < 8) ∧
    (∃ (s : State) (u : State) (t : Time), s.tick t = u ∧ u.sess.state = .verifying ∧ u.sess.matched = true) ∧
    (∃ (s : State) (u : State) (t : Time), s.tick t = u ∧ u.sess.state = .verifying ∧ u.sess.matched = false) ∧
    (∃ (s : State) (u : State) (t : Time), s.tick t = u ∧ u.lockedOut = false) ∧
    (∃ (s : State) (u : State) (t : Time), s.tick t = u ∧ u.lockedOut = true) ∧
    (∃ (s : State) (u : State) (t : Time) (m : Master), s.tick t = u ∧ u.Writable R.BRAKE.base ∧ u.sessOwner m = true) :=
  ⟨⟨{ State.reset with sess := { State.reset.sess with pwHash := some 1 } }, { State.reset with sess := { State.reset.sess with pwHash := some 1 } }, 0, .host, 8, 1, State.tick_of (by decide +kernel), writable_of (by decide +kernel), by decide +kernel⟩,
   ⟨State.reset, State.reset, 0, .host, 8, State.tick_of (by decide +kernel), writable_of (by decide +kernel), by decide +kernel⟩,
   ⟨State.reset, State.reset, 0, .host, 7, State.tick_of (by decide +kernel), writable_of (by decide +kernel), by decide +kernel⟩,
   ⟨{ State.reset with sess := { State.reset.sess with state := .verifying, matched := true } }, { State.reset with sess := { State.reset.sess with state := .verifying, matched := true } }, 0, State.tick_of (by decide +kernel), by decide +kernel⟩,
   ⟨{ State.reset with sess := { State.reset.sess with state := .verifying, fails := 4 } }, { State.reset with sess := { State.reset.sess with state := .verifying, fails := 4 } }, 0, State.tick_of (by decide +kernel), by decide +kernel⟩,
   ⟨{ State.reset with now := sec 60, sess := { State.reset.sess with lockout := some 0 } }, { State.reset with now := sec 60, sess := { State.reset.sess with lockout := some 0 } }, (sec 60), State.tick_of (by decide +kernel), by decide +kernel⟩,
   ⟨{ State.reset with sess := { State.reset.sess with lockout := some 0 } }, { State.reset with sess := { State.reset.sess with lockout := some 0 } }, 0, State.tick_of (by decide +kernel), by decide +kernel⟩,
   ⟨{ State.reset with sess := { State.reset.sess with state := .opened, owner := .spi } }, { State.reset with sess := { State.reset.sess with state := .opened, owner := .spi } }, 0, .spi, State.tick_of (by decide +kernel), writable_of (by decide +kernel), by decide +kernel⟩⟩

theorem test_witness_sessionCommandsComplete_2 :
    (∃ (s : State) (u : State) (t : Time) (m : Master), s.tick t = u ∧ u.Writable R.BRAKE.base ∧ u.sessOwner m = false) ∧
    (∃ (s : State) (u : State) (t : Time), s.tick t = u ∧ u.sess.state = .opened ∧ u.sess.since + sec (u.fld R.BRAKE.SESS_TMO 15 0) ≤ u.now) ∧
    (∃ (s : State) (u : State) (t : Time), s.tick t = u ∧ u.sess.state ≠ .opened) ∧
    (∃ (s : State) (u : State) (t : Time) (m : Master) (len : Fin 64), s.tick t = u ∧ u.Writable R.BRAKE.base ∧ u.sess.pwHash = none ∧ u.sess.state = .none ∧ 8 ≤ len.val ∧ len.val ≤ 32 ∧ (u.pwBytes len).any (fun b => decide (b < 0x20) || decide (0x7E < b)) = false ∧ u.logFull = false) ∧
    (∃ (s : State) (u : State) (t : Time) (m : Master) (len : Fin 64), s.tick t = u ∧ u.Writable R.BRAKE.base ∧ u.sess.pwHash ≠ none ∧ u.sessOwner m = false) ∧
    (∃ (s : State) (u : State) (t : Time) (m : Master) (len : Fin 64), s.tick t = u ∧ u.Writable R.BRAKE.base ∧ 32 < len.val) ∧
    (∃ (s : State) (u : State) (t : Time) (m : Master), s.tick t = u ∧ u.Writable R.BRAKE.base ∧ u.sessOwner m = true ∧ u.logSum = (u.rg R.BRAKE.LOG_SEAL).toNat) ∧
    (∃ (s : State) (u : State) (t : Time) (m : Master), s.tick t = u ∧ u.Writable R.BRAKE.base ∧ u.sessOwner m = false) :=
  ⟨⟨State.reset, State.reset, 0, .spi, State.tick_of (by decide +kernel), writable_of (by decide +kernel), by decide +kernel⟩,
   ⟨{ State.reset with now := sec 100000, sess := { State.reset.sess with state := .opened } }, { State.reset with now := sec 100000, sess := { State.reset.sess with state := .opened } }, (sec 100000), State.tick_of (by decide +kernel), by decide +kernel⟩,
   ⟨State.reset, State.reset, 0, State.tick_of (by decide +kernel), by decide +kernel⟩,
   ⟨{ State.reset with sess := { State.reset.sess with pwData := Vector.replicate 8 0x41414141 } }, { State.reset with sess := { State.reset.sess with pwData := Vector.replicate 8 0x41414141 } }, 0, .host, 32, State.tick_of (by decide +kernel), writable_of (by decide +kernel), by decide +kernel⟩,
   ⟨{ State.reset with sess := { State.reset.sess with pwHash := some 1 } }, { State.reset with sess := { State.reset.sess with pwHash := some 1 } }, 0, .host, 8, State.tick_of (by decide +kernel), writable_of (by decide +kernel), by decide +kernel⟩,
   ⟨State.reset, State.reset, 0, .host, 33, State.tick_of (by decide +kernel), writable_of (by decide +kernel), by decide +kernel⟩,
   ⟨{ State.reset with sess := { State.reset.sess with state := .opened } }, { State.reset with sess := { State.reset.sess with state := .opened } }, 0, .host, State.tick_of (by decide +kernel), writable_of (by decide +kernel), by decide +kernel⟩,
   ⟨State.reset, State.reset, 0, .host, State.tick_of (by decide +kernel), writable_of (by decide +kernel), by decide +kernel⟩⟩

theorem test_witness_sessionCommandsComplete_3 :
    (∃ (s : State) (u : State) (t : Time) (m : Master), s.tick t = u ∧ u.Writable R.BRAKE.base ∧ u.logSum ≠ (u.rg R.BRAKE.LOG_SEAL).toNat) ∧
    (∃ (s : State) (u : State) (t : Time) (m : Master), s.tick t = u ∧ u.Writable R.BRAKE.base ∧ u.sessOwner m = true ∧ u.dev.st ≠ .run ∧ u.sess.proof = false ∧ u.logFull = false) ∧
    (∃ (s : State) (u : State) (t : Time) (m : Master), s.tick t = u ∧ u.Writable R.BRAKE.base ∧ u.sessOwner m = false) ∧
    (∃ (s : State) (u : State) (t : Time) (m : Master), s.tick t = u ∧ u.Writable R.BRAKE.base ∧ u.dev.st = .run) ∧
    (∃ (s : State) (u : State) (t : Time) (m : Master), s.tick t = u ∧ u.Writable R.BRAKE.base ∧ u.sess.proof = true) ∧
    (∃ (s : State) (u : State) (t : Time) (m : Master), s.tick t = u ∧ u.Writable R.BRAKE.base ∧ u.sessOwner m = true ∧ u.sess.proof = true ∧ u.logFull = false) ∧
    (∃ (s : State) (u : State) (t : Time) (m : Master), s.tick t = u ∧ u.Writable R.BRAKE.base ∧ u.sess.proof = false) :=
  ⟨⟨(State.reset.setRg R.BRAKE.LOG_SEAL 1), (State.reset.setRg R.BRAKE.LOG_SEAL 1), 0, .host, State.tick_of (by decide +kernel), writable_of (by decide +kernel), by decide +kernel⟩,
   ⟨{ State.reset with sess := { State.reset.sess with state := .opened } }, { State.reset with sess := { State.reset.sess with state := .opened } }, 0, .host, State.tick_of (by decide +kernel), writable_of (by decide +kernel), by decide +kernel⟩,
   ⟨State.reset, State.reset, 0, .host, State.tick_of (by decide +kernel), writable_of (by decide +kernel), by decide +kernel⟩,
   ⟨{ State.reset with dev := { State.reset.dev with st := .run } }, { State.reset with dev := { State.reset.dev with st := .run } }, 0, .host, State.tick_of (by decide +kernel), writable_of (by decide +kernel), by decide +kernel⟩,
   ⟨{ State.reset with sess := { State.reset.sess with proof := true } }, { State.reset with sess := { State.reset.sess with proof := true } }, 0, .host, State.tick_of (by decide +kernel), writable_of (by decide +kernel), by decide +kernel⟩,
   ⟨{ State.reset with sess := { State.reset.sess with state := .opened, proof := true } }, { State.reset with sess := { State.reset.sess with state := .opened, proof := true } }, 0, .host, State.tick_of (by decide +kernel), writable_of (by decide +kernel), by decide +kernel⟩,
   ⟨State.reset, State.reset, 0, .host, State.tick_of (by decide +kernel), writable_of (by decide +kernel), by decide +kernel⟩⟩

theorem test_witness_powerCommandsComplete :
    (∃ (s : State) (u : State) (t : Time), s.tick t = u ∧ u.pwr.pwrEn = false ∧ u.dev.st = .watch ∧ u.pwr.down = 0) ∧
    (∃ (s : State) (u : State) (t : Time), s.tick t = u ∧ u.pwr.pwrEn = false ∧ u.dev.st ≠ .off ∧ u.pwr.down ≠ 0) ∧
    (∃ (s : State) (u : State) (t : Time), s.tick t = u ∧ u.pwr.pwrEn = false ∧ u.dev.st = .off) ∧
    (∃ (s : State) (u : State) (v : State) (t : Time), s.tick t = u ∧ u.setPwr (fun p => { p with pwrEn := false, rise := false }) = v ∧ u.pwr.down ≠ 0) ∧
    (∃ (s : State) (u : State) (v : State) (t : Time), s.tick t = u ∧ u.setPwr (fun p => { p with pwrEn := false, rise := false }) = v ∧ u.pwr.down = 0 ∧ u.up = true) ∧
    (∃ (s : State) (u : State) (v : State) (t : Time), s.tick t = u ∧ u.setPwr (fun p => { p with pwrEn := false, rise := false }) = v ∧ u.pwr.down = 0 ∧ u.dev.st = .standby) ∧
    (∃ (s : State) (u : State) (v : State) (t : Time), s.tick t = u ∧ u.setPwr (fun p => { p with pwrEn := false, rise := false }) = v ∧ u.pwr.down = 0 ∧ u.dev.st = .watch) ∧
    (∃ (s : State) (u : State) (t : Time) (x : UpStep), s.tick t = u ∧ u.dev.st ≠ .standby) :=
  ⟨⟨{ State.reset with dev := { State.reset.dev with st := .watch }, pwr := { State.reset.pwr with pwrEn := false } }, { State.reset with dev := { State.reset.dev with st := .watch }, pwr := { State.reset.pwr with pwrEn := false } }, 0, State.tick_of (by decide +kernel), by decide +kernel⟩,
   ⟨{ State.reset with dev := { State.reset.dev with st := .watch }, pwr := { State.reset.pwr with pwrEn := false, down := 4 } }, { State.reset with dev := { State.reset.dev with st := .watch }, pwr := { State.reset.pwr with pwrEn := false, down := 4 } }, 0, State.tick_of (by decide +kernel), by decide +kernel⟩,
   ⟨{ State.reset with dev := { State.reset.dev with st := .off }, pwr := { State.reset.pwr with pwrEn := false } }, { State.reset with dev := { State.reset.dev with st := .off }, pwr := { State.reset.pwr with pwrEn := false } }, 0, State.tick_of (by decide +kernel), by decide +kernel⟩,
   ⟨(State.reset.setPwr (fun p => { p with down := 2 })), (State.reset.setPwr (fun p => { p with down := 2 })), (State.reset.setPwr (fun p => { p with down := 2 })).setPwr (fun p => { p with pwrEn := false, rise := false }), 0, State.tick_of (by decide +kernel), rfl, by decide +kernel⟩,
   ⟨State.reset, State.reset, (State.reset.setPwr (fun p => { p with pwrEn := false, rise := false })), 0, State.tick_of (by decide +kernel), rfl, by decide +kernel⟩,
   ⟨{ State.reset with dev := { State.reset.dev with st := .standby } }, { State.reset with dev := { State.reset.dev with st := .standby } }, ({ State.reset with dev := { State.reset.dev with st := .standby } }).setPwr (fun p => { p with pwrEn := false, rise := false }), 0, State.tick_of (by decide +kernel), rfl, by decide +kernel⟩,
   ⟨{ State.reset with dev := { State.reset.dev with st := .watch } }, { State.reset with dev := { State.reset.dev with st := .watch } }, ({ State.reset with dev := { State.reset.dev with st := .watch } }).setPwr (fun p => { p with pwrEn := false, rise := false }), 0, State.tick_of (by decide +kernel), rfl, by decide +kernel⟩,
   ⟨State.reset, State.reset, 0, .done, State.tick_of (by decide +kernel), by decide +kernel⟩⟩

theorem test_witness_powerCommandsComplete_2 :
    (∃ (s : State) (u : State) (t : Time) (x : UpStep), s.tick t = u ∧ u.dev.st = .standby ∧ u.pwr.down = 0 ∧ u.pwr.step = 2 ∧ u.pwr.group < 2 ∧ x = .done) ∧
    (∃ (s : State) (u : State) (t : Time) (x : UpStep), s.tick t = u ∧ u.dev.st = .standby ∧ u.pwr.down = 0 ∧ u.pwr.step = 3 ∧ x = .done) ∧
    (∃ (s : State) (u : State) (t : Time) (x : UpStep), s.tick t = u ∧ u.dev.st = .standby ∧ u.pwr.down = 0 ∧ u.pwr.step = 6 ∧ u.pwr.nrst = true ∧ x = .done) ∧
    (∃ (s : State) (u : State) (v : State) (t : Time) (b : Boot) (fails : List (Nat × Nat)) (reps : List RepEntry) (bits : List (Nat × Nat × BistBit)), s.tick t = u ∧ u.dev.st = .standby ∧ u.pwr.down = 0 ∧ u.pwr.step = 4 ∧ u.pwr.nrst = true ∧ u.cfsReplay.setPwr (fun p => { p with boot := some b }) = v) ∧
    (∃ (s : State) (u : State) (v : State) (t : Time) (b : Boot) (fails : List (Nat × Nat)) (reps : List RepEntry) (bits : List (Nat × Nat × BistBit)), s.tick t = u ∧ u.dev.st = .standby ∧ u.pwr.down = 0 ∧ u.pwr.step = 5 ∧ (u.setPwr (fun p => { p with tested := true, fails := fails, failBits := bits })).setBist (fun b => { b with table := (b.table ++ reps).take 1024 }) = v) ∧
    (∃ (s : State) (u : State) (t : Time) (item : Fin 7), s.tick t = u ∧ u.dev.st = .standby ∧ u.pwr.down = 0 ∧ u.pwr.step = 2 ∧ item.val = u.pwr.group + 1) ∧
    (∃ (s : State) (u : State) (t : Time) (item : Fin 7), s.tick t = u ∧ u.dev.st = .standby ∧ u.pwr.down = 0 ∧ u.pwr.step = 3 ∧ 4 ≤ item.val) ∧
    (∃ (s : State) (u : State) (t : Time) (item : Fin 7), s.tick t = u ∧ u.dev.st = .standby ∧ u.pwr.down = 0 ∧ u.pwr.step = 4) :=
  ⟨⟨{ State.reset with dev := { State.reset.dev with st := .standby }, pwr := { State.reset.pwr with step := 2, group := 1 } }, { State.reset with dev := { State.reset.dev with st := .standby }, pwr := { State.reset.pwr with step := 2, group := 1 } }, 0, .done, State.tick_of (by decide +kernel), by decide +kernel⟩,
   ⟨{ State.reset with dev := { State.reset.dev with st := .standby }, pwr := { State.reset.pwr with step := 3 } }, { State.reset with dev := { State.reset.dev with st := .standby }, pwr := { State.reset.pwr with step := 3 } }, 0, .done, State.tick_of (by decide +kernel), by decide +kernel⟩,
   ⟨{ State.reset with dev := { State.reset.dev with st := .standby } }, { State.reset with dev := { State.reset.dev with st := .standby } }, 0, .done, State.tick_of (by decide +kernel), by decide +kernel⟩,
   ⟨{ State.reset with dev := { State.reset.dev with st := .standby }, pwr := { State.reset.pwr with step := 4 } }, { State.reset with dev := { State.reset.dev with st := .standby }, pwr := { State.reset.pwr with step := 4 } }, ({ State.reset with dev := { State.reset.dev with st := .standby }, pwr := { State.reset.pwr with step := 4 } }).setPwr (fun p => { p with boot := some ⟨true, false, [], true, none, false, [], false⟩ }), 0, ⟨true, false, [], true, none, false, [], false⟩, [], [], [], State.tick_of (by decide +kernel), by decide +kernel, by decide +kernel, by decide +kernel, by decide +kernel, rfl⟩,
   ⟨{ State.reset with dev := { State.reset.dev with st := .standby }, pwr := { State.reset.pwr with step := 5 } }, { State.reset with dev := { State.reset.dev with st := .standby }, pwr := { State.reset.pwr with step := 5 } }, ({ State.reset with dev := { State.reset.dev with st := .standby }, pwr := { State.reset.pwr with step := 5, tested := true, fails := [], failBits := [] } }), 0, ⟨true, false, [], true, none, false, [], false⟩, [], [], [], State.tick_of (by decide +kernel), by decide +kernel, by decide +kernel, by decide +kernel, rfl⟩,
   ⟨{ State.reset with dev := { State.reset.dev with st := .standby }, pwr := { State.reset.pwr with step := 2 } }, { State.reset with dev := { State.reset.dev with st := .standby }, pwr := { State.reset.pwr with step := 2 } }, 0, 1, State.tick_of (by decide +kernel), by decide +kernel⟩,
   ⟨{ State.reset with dev := { State.reset.dev with st := .standby }, pwr := { State.reset.pwr with step := 3 } }, { State.reset with dev := { State.reset.dev with st := .standby }, pwr := { State.reset.pwr with step := 3 } }, 0, 6, State.tick_of (by decide +kernel), by decide +kernel⟩,
   ⟨{ State.reset with dev := { State.reset.dev with st := .standby }, pwr := { State.reset.pwr with step := 4 } }, { State.reset with dev := { State.reset.dev with st := .standby }, pwr := { State.reset.pwr with step := 4 } }, 0, 6, State.tick_of (by decide +kernel), by decide +kernel⟩⟩

theorem test_witness_powerCommandsComplete_3 :
    (∃ (s : State) (u : State) (t : Time), s.tick t = u ∧ u.pwr.down = 0) ∧
    (∃ (s : State) (u : State) (t : Time), s.tick t = u ∧ u.pwr.down = 1) ∧
    (∃ (s : State) (u : State) (t : Time), s.tick t = u ∧ u.pwr.down = 2) ∧
    (∃ (s : State) (u : State) (t : Time), s.tick t = u ∧ u.pwr.down = 3) ∧
    (∃ (s : State) (u : State) (t : Time), s.tick t = u ∧ u.pwr.down = 4) ∧
    (∃ (s : State) (u : State) (t : Time) (i : Fin 6) (c : Bool), s.tick t = u ∧ u.up = false) ∧
    (∃ (s : State) (u : State) (t : Time) (i : Fin 6), s.tick t = u ∧ u.up = true ∧ u.pwr.down < 3) ∧
    (∃ (s : State) (u : State) (t : Time) (i : Fin 6), s.tick t = u ∧ u.up = true ∧ u.pwr.down < 3) :=
  ⟨⟨State.reset, State.reset, 0, State.tick_of (by decide +kernel), by decide +kernel⟩,
   ⟨(State.reset.setPwr (fun p => { p with down := 1 })), (State.reset.setPwr (fun p => { p with down := 1 })), 0, State.tick_of (by decide +kernel), by decide +kernel⟩,
   ⟨(State.reset.setPwr (fun p => { p with down := 2 })), (State.reset.setPwr (fun p => { p with down := 2 })), 0, State.tick_of (by decide +kernel), by decide +kernel⟩,
   ⟨(State.reset.setPwr (fun p => { p with down := 3 })), (State.reset.setPwr (fun p => { p with down := 3 })), 0, State.tick_of (by decide +kernel), by decide +kernel⟩,
   ⟨(State.reset.setPwr (fun p => { p with down := 4 })), (State.reset.setPwr (fun p => { p with down := 4 })), 0, State.tick_of (by decide +kernel), by decide +kernel⟩,
   ⟨{ State.reset with dev := { State.reset.dev with st := .watch } }, { State.reset with dev := { State.reset.dev with st := .watch } }, 0, 5, true, State.tick_of (by decide +kernel), by decide +kernel⟩,
   ⟨State.reset, State.reset, 0, 5, State.tick_of (by decide +kernel), by decide +kernel⟩,
   ⟨State.reset, State.reset, 0, 5, State.tick_of (by decide +kernel), by decide +kernel⟩⟩

theorem test_witness_powerCommandsComplete_4 :
    (∃ (s : State) (u : State) (t : Time), s.tick t = u ∧ u.pwr.nrst = true ∧ u.pwr.down = 0 ∧ u.up = true) ∧
    (∃ (s : State) (u : State) (t : Time), s.tick t = u ∧ u.pwr.nrst = false) ∧
    (∃ (s : State) (u : State) (t : Time), s.tick t = u ∧ u.pwr.nrst = false ∧ u.pwr.down = 0 ∧ u.dev.st = .standby ∧ 4 ≤ u.pwr.step ∧ u.rg R.SYS.CLK_MON &&& ~~~u.pwr.fallClk &&& lockBits = 0) ∧
    (∃ (s : State) (u : State) (t : Time), s.tick t = u ∧ u.pwr.nrst = false ∧ u.pwr.down = 0 ∧ u.dev.st = .standby ∧ 4 ≤ u.pwr.step ∧ u.rg R.SYS.CLK_MON &&& ~~~u.pwr.fallClk &&& lockBits ≠ 0) ∧
    (∃ (s : State) (u : State) (t : Time), s.tick t = u ∧ u.pwr.nrst = false ∧ u.pwr.longSeen = false ∧ u.pwr.fallAt + sec 10 < u.now ∧ u.dev.st ≠ .off) ∧
    (∃ (s : State) (u : State) (t : Time), s.tick t = u ∧ u.pwr.nrst = true) ∧
    (∃ (s : State) (u : State) (t : Time), s.tick t = u ∧ u.pwr.longSeen = true) ∧
    (∃ (s : State) (u : State) (t : Time), s.tick t = u ∧ u.dev.st = .off) :=
  ⟨⟨State.reset, State.reset, 0, State.tick_of (by decide +kernel), by decide +kernel⟩,
   ⟨(State.reset.setPwr (fun p => { p with nrst := false })), (State.reset.setPwr (fun p => { p with nrst := false })), 0, State.tick_of (by decide +kernel), by decide +kernel⟩,
   ⟨{ State.reset with dev := { State.reset.dev with st := .standby }, pwr := { State.reset.pwr with nrst := false } }, { State.reset with dev := { State.reset.dev with st := .standby }, pwr := { State.reset.pwr with nrst := false } }, 0, State.tick_of (by decide +kernel), by decide +kernel⟩,
   ⟨({ State.reset with dev := { State.reset.dev with st := .standby }, pwr := { State.reset.pwr with nrst := false } }).setRg R.SYS.CLK_MON 1, ({ State.reset with dev := { State.reset.dev with st := .standby }, pwr := { State.reset.pwr with nrst := false } }).setRg R.SYS.CLK_MON 1, 0, State.tick_of (by decide +kernel), by decide +kernel⟩,
   ⟨({ State.reset with now := sec 11 }).setPwr (fun p => { p with nrst := false }), ({ State.reset with now := sec 11 }).setPwr (fun p => { p with nrst := false }), (sec 11), State.tick_of (by decide +kernel), by decide +kernel⟩,
   ⟨State.reset, State.reset, 0, State.tick_of (by decide +kernel), by decide +kernel⟩,
   ⟨(State.reset.setPwr (fun p => { p with longSeen := true })), (State.reset.setPwr (fun p => { p with longSeen := true })), 0, State.tick_of (by decide +kernel), by decide +kernel⟩,
   ⟨{ State.reset with dev := { State.reset.dev with st := .off } }, { State.reset with dev := { State.reset.dev with st := .off } }, 0, State.tick_of (by decide +kernel), by decide +kernel⟩⟩

theorem test_witness_powerCommandsComplete_5 :
    (∃ (s : State) (u : State) (t : Time), s.tick t = u ∧ u.dev.st ≠ .off) ∧
    (∃ (s : State) (u : State) (t : Time), s.tick t = u ∧ u.dev.st = .watch ∧ u.pwr.down = 0) ∧
    (∃ (s : State) (u : State) (t : Time), s.tick t = u ∧ u.dev.st ≠ .watch) :=
  ⟨⟨State.reset, State.reset, 0, State.tick_of (by decide +kernel), by decide +kernel⟩,
   ⟨{ State.reset with dev := { State.reset.dev with st := .watch } }, { State.reset with dev := { State.reset.dev with st := .watch } }, 0, State.tick_of (by decide +kernel), by decide +kernel⟩,
   ⟨State.reset, State.reset, 0, State.tick_of (by decide +kernel), by decide +kernel⟩⟩

theorem test_witness_backupCommandsComplete :
    (∃ (s : State) (u : State) (t : Time) (k : Fin 5), s.tick t = u ∧ k.val < 4 ∧ u.txHeld k = false) ∧
    (∃ (s : State) (u : State) (t : Time) (k : Fin 5) (n : Nat), s.tick t = u ∧ k.val < 4 ∧ u.txHeld k = true ∧ (u.port k).queues.toList.foldl (fun (n : Nat) q => n + (q.filter (fun f => decide (f.at_ + ms 1 ≤ u.now))).length) 0 = n ∧ n ≠ 0) ∧
    (∃ (s : State) (u : State) (t : Time) (n : Fin 4), s.tick t = u ∧ u.dev.pllcDown = true) ∧
    (∃ (s : State) (u : State) (t : Time) (n : Fin 4), s.tick t = u ∧ u.dev.pllcDown = false) ∧
    (∃ (s : State) (u : State) (t : Time) (m : Master) (a : Nat) (n : Nat), s.tick t = u ∧ u.Writable R.CFS.base ∧ u.pwr.cfs = none ∧ u.pwr.brown = false ∧ u.fld R.CFS.ADDR 20 0 = a ∧ u.fld R.CFS.LEN 6 0 = n ∧ 1 ≤ n ∧ n ≤ 64 ∧ a + n ≤ 0x1F0000) ∧
    (∃ (s : State) (u : State) (t : Time) (m : Master), s.tick t = u ∧ u.Writable R.CFS.base ∧ u.fld R.CFS.LEN 6 0 = 0) ∧
    (∃ (s : State) (u : State) (t : Time) (m : Master), s.tick t = u ∧ u.Writable R.CFS.base ∧ 64 < u.fld R.CFS.LEN 6 0) ∧
    (∃ (s : State) (u : State) (t : Time) (m : Master), s.tick t = u ∧ u.Writable R.CFS.base ∧ u.cfsBusy = true) :=
  ⟨⟨State.reset, State.reset, 0, 3, State.tick_of (by decide +kernel), by decide +kernel⟩,
   ⟨(({ State.reset with now := ms 1 }).putBit R.SYS.CLK_MON 9 true).setPort 3 (fun p => { p with queues := vupd p.queues 0 (fun _ => [⟨.data, [1], 0, false⟩]) }), (({ State.reset with now := ms 1 }).putBit R.SYS.CLK_MON 9 true).setPort 3 (fun p => { p with queues := vupd p.queues 0 (fun _ => [⟨.data, [1], 0, false⟩]) }), (ms 1), 3, 1, State.tick_of (by decide +kernel), by decide +kernel⟩,
   ⟨{ State.reset with dev := { State.reset.dev with pllcDown := true } }, { State.reset with dev := { State.reset.dev with pllcDown := true } }, 0, 3, State.tick_of (by decide +kernel), by decide +kernel⟩,
   ⟨State.reset, State.reset, 0, 3, State.tick_of (by decide +kernel), by decide +kernel⟩,
   ⟨(State.reset.setRg R.CFS.LEN 64).setRg R.CFS.ADDR 0x1effc0, (State.reset.setRg R.CFS.LEN 64).setRg R.CFS.ADDR 0x1effc0, 0, .host, 0x1effc0, 64, State.tick_of (by decide +kernel), writable_of (by decide +kernel), by decide +kernel⟩,
   ⟨(State.reset.setRg R.CFS.LEN 0), (State.reset.setRg R.CFS.LEN 0), 0, .host, State.tick_of (by decide +kernel), writable_of (by decide +kernel), by decide +kernel⟩,
   ⟨(State.reset.setRg R.CFS.LEN 65), (State.reset.setRg R.CFS.LEN 65), 0, .host, State.tick_of (by decide +kernel), writable_of (by decide +kernel), by decide +kernel⟩,
   ⟨(State.reset.setPwr (fun p => { p with cfs := some ⟨0, [1], 0, false, none⟩ })), (State.reset.setPwr (fun p => { p with cfs := some ⟨0, [1], 0, false, none⟩ })), 0, .host, State.tick_of (by decide +kernel), writable_of (by decide +kernel), by decide +kernel⟩⟩

theorem test_witness_backupCommandsComplete_2 :
    (∃ (s : State) (u : State) (t : Time) (m : Master), s.tick t = u ∧ u.Writable R.CFS.base ∧ u.pwr.brown = true) ∧
    (∃ (s : State) (u : State) (t : Time) (m : Master) (a : Nat) (n : Nat), s.tick t = u ∧ u.Writable R.CFS.base ∧ u.fld R.CFS.ADDR 20 0 = a ∧ u.fld R.CFS.LEN 6 0 = n ∧ 1 ≤ n ∧ n ≤ 64) ∧
    (∃ (s : State) (u : State) (t : Time) (x : CfsTxn), s.tick t = u ∧ u.pwr.cfs = some x ∧ x.repair = none ∧ x.ended u.now = true) ∧
    (∃ (s : State) (u : State) (t : Time) (x : CfsTxn), s.tick t = u ∧ u.pwr.cfs = some x ∧ x.repair = none ∧ x.ended u.now = false) ∧
    (∃ (s : State) (u : State) (v : State) (t : Time) (m : Master) (d : DWord), s.tick t = u ∧ u.Writable R.PWR.base ∧ u.writeReg m R.PWR.base R.PWR.RTC_SET d.toNat = v ∧ u.lockOk R.PWR.base m = true) ∧
    (∃ (s : State) (u : State) (t : Time), s.tick t = u ∧ u.pwr.xtal = true) ∧
    (∃ (s : State) (u : State) (t : Time), s.tick t = u ∧ u.pwr.xtal = false) ∧
    (∃ (s : State) (u : State) (t : Time) (m : Master), s.tick t = u ∧ u.up = true) :=
  ⟨⟨(State.reset.setPwr (fun p => { p with brown := true })), (State.reset.setPwr (fun p => { p with brown := true })), 0, .host, State.tick_of (by decide +kernel), writable_of (by decide +kernel), by decide +kernel⟩,
   ⟨(State.reset.setRg R.CFS.LEN 1), (State.reset.setRg R.CFS.LEN 1), 0, .host, 0, 1, State.tick_of (by decide +kernel), writable_of (by decide +kernel), by decide +kernel⟩,
   ⟨({ State.reset with now := us 1 }).setPwr (fun p => { p with cfs := some ⟨7, [1], 0, false, none⟩ }), ({ State.reset with now := us 1 }).setPwr (fun p => { p with cfs := some ⟨7, [1], 0, false, none⟩ }), (us 1), ⟨7, [1], 0, false, none⟩, State.tick_of (by decide +kernel), by decide +kernel⟩,
   ⟨(State.reset.setPwr (fun p => { p with cfs := some ⟨7, [1], 0, false, none⟩ })), (State.reset.setPwr (fun p => { p with cfs := some ⟨7, [1], 0, false, none⟩ })), 0, ⟨7, [1], 0, false, none⟩, State.tick_of (by decide +kernel), by decide +kernel⟩,
   ⟨rtcWit, rtcWit, (rtcWit.writeReg .host R.PWR.base R.PWR.RTC_SET 5), 0, .host, 5, State.tick_of (by decide +kernel), writable_of (by decide +kernel), rfl, by decide +kernel⟩,
   ⟨State.reset, State.reset, 0, State.tick_of (by decide +kernel), by decide +kernel⟩,
   ⟨(State.reset.setPwr (fun p => { p with xtal := false })), (State.reset.setPwr (fun p => { p with xtal := false })), 0, State.tick_of (by decide +kernel), by decide +kernel⟩,
   ⟨(State.reset.setRg R.PWR.BSRAM_ADDR 1023), (State.reset.setRg R.PWR.BSRAM_ADDR 1023), 0, .host, State.tick_of (by decide +kernel), by decide +kernel⟩⟩

theorem test_witness_backupCommandsComplete_3 :
    (∃ (s : State) (u : State) (t : Time) (m : Master) (v : Word), s.tick t = u ∧ u.Writable R.PWR.base ∧ u.fld R.PWR.BSRAM_ADDR 9 0 < 64) ∧
    (∃ (s : State) (u : State) (t : Time) (m : Master) (v : Word), s.tick t = u ∧ u.Writable R.PWR.base ∧ 64 ≤ u.fld R.PWR.BSRAM_ADDR 9 0) ∧
    (∃ (s : State) (u : State) (t : Time) (m : Master), s.tick t = u ∧ u.Writable R.PWR.base) ∧
    (∃ (s : State) (u : State) (t : Time), s.tick t = u ∧ u.chgOn = true ∧ u.chg = 1) ∧
    (∃ (s : State) (u : State) (t : Time), s.tick t = u ∧ u.chgOn = false) ∧
    (∃ (s : State) (u : State) (t : Time), s.tick t = u ∧ u.chgOn = true ∧ u.chg = 3 ∧ u.pwr.tryAt + sec 10 ≤ u.now) ∧
    (∃ (s : State) (u : State) (t : Time), s.tick t = u ∧ u.chgOn = true ∧ u.chg = 1) ∧
    (∃ (s : State) (u : State) (t : Time), s.tick t = u ∧ u.chgOn = true ∧ u.chg = 2) :=
  ⟨⟨(State.reset.setRg R.PWR.BSRAM_ADDR 63), (State.reset.setRg R.PWR.BSRAM_ADDR 63), 0, .host, 0, State.tick_of (by decide +kernel), writable_of (by decide +kernel), by decide +kernel⟩,
   ⟨(State.reset.setRg R.PWR.BSRAM_ADDR 64), (State.reset.setRg R.PWR.BSRAM_ADDR 64), 0, .host, 9, State.tick_of (by decide +kernel), writable_of (by decide +kernel), by decide +kernel⟩,
   ⟨State.reset, State.reset, 0, .host, State.tick_of (by decide +kernel), writable_of (by decide +kernel)⟩,
   ⟨((State.reset.setRg R.PWR.SUP_STAT 0xff).setRg R.PWR.CHG_CFG 1).setRg R.PWR.CHG_STAT 1, ((State.reset.setRg R.PWR.SUP_STAT 0xff).setRg R.PWR.CHG_CFG 1).setRg R.PWR.CHG_STAT 1, 0, State.tick_of (by decide +kernel), by decide +kernel⟩,
   ⟨(State.reset.setRg R.PWR.CHG_CFG 0), (State.reset.setRg R.PWR.CHG_CFG 0), 0, State.tick_of (by decide +kernel), by decide +kernel⟩,
   ⟨((({ State.reset with now := sec 10 }).setRg R.PWR.SUP_STAT 0xff).setRg R.PWR.CHG_CFG 1).setRg R.PWR.CHG_STAT 3, ((({ State.reset with now := sec 10 }).setRg R.PWR.SUP_STAT 0xff).setRg R.PWR.CHG_CFG 1).setRg R.PWR.CHG_STAT 3, (sec 10), State.tick_of (by decide +kernel), by decide +kernel⟩,
   ⟨((State.reset.setRg R.PWR.SUP_STAT 0xff).setRg R.PWR.CHG_CFG 1).setRg R.PWR.CHG_STAT 1, ((State.reset.setRg R.PWR.SUP_STAT 0xff).setRg R.PWR.CHG_CFG 1).setRg R.PWR.CHG_STAT 1, 0, State.tick_of (by decide +kernel), by decide +kernel⟩,
   ⟨((State.reset.setRg R.PWR.SUP_STAT 0xff).setRg R.PWR.CHG_CFG 1).setRg R.PWR.CHG_STAT 2, ((State.reset.setRg R.PWR.SUP_STAT 0xff).setRg R.PWR.CHG_CFG 1).setRg R.PWR.CHG_STAT 2, 0, State.tick_of (by decide +kernel), by decide +kernel⟩⟩

theorem test_witness_backupCommandsComplete_4 :
    (∃ (s : State) (u : State) (t : Time), s.tick t = u ∧ u.chgOn = true ∧ u.chg = 0) ∧
    (∃ (s : State) (u : State) (t : Time) (v : Fin 65536) (q : Int), s.tick t = u ∧ u.bit R.PWR.SUP_STAT 5 = false) ∧
    (∃ (s : State) (u : State) (t : Time) (v : Fin 65536) (q : Int), s.tick t = u ∧ u.now < u.pwr.gaugeAt + sec 60) ∧
    (∃ (s : State) (u : State) (t : Time) (v : Fin 65536) (q : Int) (n : Nat), s.tick t = u ∧ u.bit R.PWR.SUP_STAT 5 = true ∧ u.pwr.gaugeAt + sec 60 ≤ u.now ∧ u.pwr.back = false ∧ wfld (u.rg R.PWR.GAUGE_CFG) 23 16 ≠ wfld (u.rg R.PWR.GAUGE_CFG) 31 24 ∧ (clampI 0 0xFFFF ((u.fld R.PWR.GAUGE 15 0 : Int) + q)).toNat = n ∧ u.fld R.PWR.GAUGE_CFG 15 0 < 20 * n ∧ 5 * n < 4 * u.fld R.PWR.GAUGE_CFG 15 0) :=
  ⟨⟨(State.reset.setRg R.PWR.SUP_STAT 0xff).setRg R.PWR.CHG_CFG 1, (State.reset.setRg R.PWR.SUP_STAT 0xff).setRg R.PWR.CHG_CFG 1, 0, State.tick_of (by decide +kernel), by decide +kernel⟩,
   ⟨(State.reset.setRg R.PWR.SUP_STAT 0), (State.reset.setRg R.PWR.SUP_STAT 0), 0, 0, 0, State.tick_of (by decide +kernel), by decide +kernel⟩,
   ⟨State.reset, State.reset, 0, 0, 0, State.tick_of (by decide +kernel), by decide +kernel⟩,
   ⟨((({ State.reset with now := sec 60 }).setRg R.PWR.SUP_STAT 0xff).setRg R.PWR.GAUGE_CFG 0xff000064).setRg R.PWR.GAUGE 50, ((({ State.reset with now := sec 60 }).setRg R.PWR.SUP_STAT 0xff).setRg R.PWR.GAUGE_CFG 0xff000064).setRg R.PWR.GAUGE 50, (sec 60), 0, 0, 50, State.tick_of (by decide +kernel), by decide +kernel⟩⟩

theorem test_witness_bistCommandsComplete :
    (∃ (s : State) (u : State) (t : Time) (m : Master) (w : Word), s.tick t = u ∧ u.Writable R.BIST.base ∧ u.rg R.BIST.TARGET = w ∧ u.bistReason (wfld w 7 0) (wfld w 15 8) ≠ 0) ∧
    (∃ (s : State) (u : State) (t : Time) (m : Master) (w : Word), s.tick t = u ∧ u.Writable R.BIST.base ∧ u.rg R.BIST.TARGET = w ∧ u.bistReason (wfld w 7 0) (wfld w 15 8) = 0 ∧ wfld w 7 0 ≤ 2) ∧
    (∃ (s : State) (u : State) (t : Time) (m : Master) (r : BistRun), s.tick t = u ∧ u.Writable R.BIST.base ∧ u.bist.run = some r) ∧
    (∃ (s : State) (u : State) (t : Time) (m : Master) (r : BistRun), s.tick t = u ∧ u.Writable R.BIST.base ∧ u.bist.run = none) ∧
    (∃ (s : State) (u : State) (t : Time) (x : BistResult), s.tick t = u ∧ u.bist.run = none) ∧
    (∃ (s : State) (u : State) (t : Time) (x : BistResult) (r : BistRun), s.tick t = u ∧ u.bist.run = some r ∧ r.inject = false ∧ x.bits = [] ∧ x.count = 0 ∧ 720 ≤ x.vLow ∧ x.vHigh ≤ 780 ∧ x.dev.natAbs ≤ 200) ∧
    (∃ (s : State) (u : State) (t : Time) (m : Master) (i : Fin 8), s.tick t = u ∧ u.Writable R.BIST.base ∧ u.repairReason i ≠ 0) ∧
    (∃ (s : State) (u : State) (t : Time) (m : Master) (i : Fin 8), s.tick t = u ∧ u.Writable R.BIST.base ∧ u.repairReason i = 0) :=
  ⟨⟨(State.reset.setRg R.BIST.TARGET 0x1c01), (State.reset.setRg R.BIST.TARGET 0x1c01), 0, .host, 0x1c01, State.tick_of (by decide +kernel), writable_of (by decide +kernel), by decide +kernel⟩,
   ⟨(State.reset.setRg R.BIST.TARGET 0x1b01), (State.reset.setRg R.BIST.TARGET 0x1b01), 0, .host, 0x1b01, State.tick_of (by decide +kernel), writable_of (by decide +kernel), by decide +kernel⟩,
   ⟨(State.reset.setBist (fun b => { b with run := some ⟨1, 27, 0, false⟩ })), (State.reset.setBist (fun b => { b with run := some ⟨1, 27, 0, false⟩ })), 0, .host, ⟨1, 27, 0, false⟩, State.tick_of (by decide +kernel), writable_of (by decide +kernel), by decide +kernel⟩,
   ⟨State.reset, State.reset, 0, .host, ⟨1, 27, 0, false⟩, State.tick_of (by decide +kernel), writable_of (by decide +kernel), by decide +kernel⟩,
   ⟨State.reset, State.reset, 0, ⟨[], 0, 750, 750, 0⟩, State.tick_of (by decide +kernel), by decide +kernel⟩,
   ⟨(State.reset.setBist (fun b => { b with run := some ⟨1, 27, 0, false⟩ })), (State.reset.setBist (fun b => { b with run := some ⟨1, 27, 0, false⟩ })), 0, ⟨[], 0, 720, 780, -200⟩, ⟨1, 27, 0, false⟩, State.tick_of (by decide +kernel), by decide +kernel⟩,
   ⟨State.reset, State.reset, 0, .host, 7, State.tick_of (by decide +kernel), writable_of (by decide +kernel), by decide +kernel⟩,
   ⟨(State.reset.setRg R.BIST.STAT 4).setBist (fun b => { b with fails := [⟨⟨0, 0, 0⟩, some ⟨1, 27, 0, 0, true, 0⟩, false⟩] }), (State.reset.setRg R.BIST.STAT 4).setBist (fun b => { b with fails := [⟨⟨0, 0, 0⟩, some ⟨1, 27, 0, 0, true, 0⟩, false⟩] }), 0, .host, 0, State.tick_of (by decide +kernel), writable_of (by decide +kernel), by decide +kernel⟩⟩

end Sys2Proof
end

section
/-! PROOFS. What a register holds after a write of one or of two words, and where a saturating count stops (R5, R8). -/

namespace Sys2Proof.Machine

/-- A 64-bit register reads as it was set. -/
theorem State.rg64_setRg64_same {s : State} (h : s.Canonical) (a v : Nat) (hv : v < 2 ^ 64) : (s.setRg64 a v).rg64 a = v := by
  have hlow : (s.setRg64 a v).rg a = BitVec.ofNat 32 v := by
    rw [State.setRg64, State.rg_setRg_other (h.setRg _ _) _ _ _ (by omega), State.rg_setRg_same h]
  have hhigh : (s.setRg64 a v).rg (a + 4) = BitVec.ofNat 32 (v >>> 32) := State.rg_setRg_same (h.setRg _ _) _ _
  rw [State.rg64, hlow, hhigh, BitVec.toNat_ofNat, BitVec.toNat_ofNat, Nat.shiftRight_eq_div_pow]
  omega

/-- A 64-bit register set leaves the words other than its own two as they were. -/
theorem State.rg_setRg64_other {s : State} (h : s.Canonical) (a v b : Nat) (hlow : b ≠ a) (hhigh : b ≠ a + 4) :
    (s.setRg64 a v).rg b = s.rg b := by
  rw [State.setRg64, State.rg_setRg_other (h.setRg _ _) _ _ _ hhigh, State.rg_setRg_other h _ _ _ hlow]

/-- Every bit of a register with a field set. -/
theorem State.bit_putFld {s : State} (h : s.Canonical) (a hi lo v i : Nat) (hl : lo ≤ hi) (hh : hi < 32) :
    (s.putFld a hi lo v).bit a i = if lo ≤ i ∧ i ≤ hi then v.testBit (i - lo) else s.bit a i := by
  rw [State.bit, State.putFld, State.rg_setRg_same h, wbit_wput _ _ _ _ _ hl hh, State.bit]

/-- A saturating count stops at the last value of its field. -/
theorem State.fld_count_same {s : State} (h : s.Canonical) (a hi lo n : Nat) (hl : lo ≤ hi) (hh : hi < 32) :
    (s.count a hi lo n).fld a hi lo = min (2 ^ (hi + 1 - lo) - 1) (s.fld a hi lo + n) := by
  have hpos : 0 < 2 ^ (hi + 1 - lo) := Nat.two_pow_pos _
  rw [State.count, State.fld_putFld_same h _ _ _ _ hl hh, Nat.mod_eq_of_lt (by omega)]

end Sys2Proof.Machine
end

section
/-! PROOFS. What memory holds after a store of several bytes (R5). -/

namespace Sys2Proof.Machine

/-- Each byte stored is the byte of the value at its place, the low one first. -/
theorem Memory.read_writeN_inside (n : Nat) (m : List Host.Cell) (a v i : Nat) (hi : i < n) (h : Memory.wf m = true) :
    Memory.read (Memory.writeN m a v n) (a + i) = BitVec.ofNat 8 (v / 256 ^ i) := by
  induction n generalizing m a v i with
  | zero => omega
  | succ n ih =>
    have hw := Memory.wf_write m a (BitVec.ofNat 8 v) h
    rw [Memory.writeN]
    cases i with
    | zero =>
      rw [Memory.read_writeN_other _ _ _ _ _ (by omega) hw, Nat.add_zero, Memory.read_write_same _ _ _ h, Nat.pow_zero,
        Nat.div_one]
    | succ i =>
      rw [show a + (i + 1) = a + 1 + i by omega, ih _ _ _ _ (by omega) hw, Nat.div_div_eq_div_mul, Nat.pow_succ']

/-- Bytes just stored read back as the value, taken modulo their width. -/
theorem Memory.readN_of_bytes (n : Nat) (m : List Host.Cell) (a v : Nat)
    (h : ∀ i, i < n → Memory.read m (a + i) = BitVec.ofNat 8 (v / 256 ^ i)) : Memory.readN m a n = v % 256 ^ n := by
  induction n generalizing a v with
  | zero => rw [Memory.readN, Nat.pow_zero, Nat.mod_one]
  | succ n ih =>
    have hfirst : Memory.read m a = BitVec.ofNat 8 v := by simpa using h 0 (by omega)
    have hrest : Memory.readN m (a + 1) n = v / 256 % 256 ^ n := by
      refine ih _ _ fun i hi => ?_
      rw [show a + 1 + i = a + (i + 1) by omega, h _ (by omega), Nat.div_div_eq_div_mul, Nat.pow_succ']
    rw [Memory.readN, hfirst, hrest, BitVec.toNat_ofNat, show 2 ^ 8 = 256 from rfl, Nat.pow_succ', Nat.mod_mul]

/-- A word just stored reads back. -/
theorem State.ldw_stw_same {s : State} (h : s.Canonical) (a : Nat) (w : Word) : (s.stw a w).ldw a = w := by
  have hbytes : Memory.readN (s.stw a w).mem a 4 = w.toNat % 256 ^ 4 :=
    Memory.readN_of_bytes _ _ _ _ fun i hi => Memory.read_writeN_inside _ _ _ _ _ hi h.mem
  have hlt : w.toNat < 256 ^ 4 := w.isLt
  rw [State.ldw, hbytes, Nat.mod_eq_of_lt hlt, BitVec.ofNat_toNat, BitVec.setWidth_eq]

end Sys2Proof.Machine
end

section
/-! PROOFS. What a complete write leaves in a register under its access codes (R8), bit by bit. -/

namespace Sys2Proof.Machine

/-- A mix takes the bits of the mask from the new value and the others from the old one. -/
theorem testBit_mixBits (old v k i : Nat) : (mixBits old v k).testBit i = if k.testBit i then v.testBit i else old.testBit i := by
  rw [mixBits, Nat.testBit_or, Nat.testBit_xor, Nat.testBit_and, Nat.testBit_and]
  cases k.testBit i <;> simp

/-- Without the lock and with no clamped field: a 1 clears a W1C bit, an RW bit takes the value, the others stay. -/
theorem RegRow.testBit_written {r : RegRow} (hc : r.clamp = []) (old v i : Nat) :
    (r.written false old v).testBit i =
      if r.w1c.testBit i && v.testBit i then false else if r.rw.testBit i then v.testBit i else old.testBit i := by
  have hmix : r.written false old v = mixBits old v r.rw ^^^ (mixBits old v r.rw &&& (v &&& r.w1c)) := by
    simp [RegRow.written, hc, clampFields]
  rw [hmix, Nat.testBit_xor, Nat.testBit_and, Nat.testBit_and, testBit_mixBits]
  cases r.w1c.testBit i <;> cases v.testBit i <;> simp

/-- The value of a row of 32 bits is its word. -/
theorem State.rowVal_narrow {r : RegRow} (hn : r.wide = false) (s : State) (a : Nat) : s.rowVal r a = (s.rg a).toNat := by
  rw [State.rowVal, hn, if_neg Bool.false_ne_true]

/-- A row of 32 bits is set as its word. -/
theorem State.setRow_narrow {r : RegRow} (hn : r.wide = false) (s : State) (a v : Nat) :
    s.setRow r a v = s.setRg a (BitVec.ofNat 32 v) := by
  rw [State.setRow, hn, if_neg Bool.false_ne_true]

/-- A bit of a register set to a number. -/
theorem State.bit_setRg_ofNat {s : State} (h : s.Canonical) (a n i : Nat) (hi : i < 32) :
    (s.setRg a (BitVec.ofNat 32 n)).bit a i = n.testBit i := by
  rw [State.bit, State.rg_setRg_same h, wbit, BitVec.toNat_ofNat, Nat.testBit_mod_two_pow]
  simp [hi]

end Sys2Proof.Machine
end

section
/-! PROOFS. One word read or written at the register page that the write reaches: the branches of `writeWord`, `writeFull` and
`readWord` past the header (R8, R44, R48, R49, R51). -/

namespace Sys2Proof.Machine

/-- A write to a register of 32 bits is a complete write. -/
theorem State.writeWord_narrow {s : State} {m : Master} {a v : Nat} {hold : Bool} {r : RegRow} {hi : Bool}
    (hw : s.Writable (pageOf a)) (ho : 0x40 ≤ offOf a) (hf : findReg (bankOf (s.selOf m) a) = some (r, hi))
    (hn : r.wide = false) : s.writeWord m a v hold = s.writeFull m a v := by
  have h14 : offOf a ≠ 0x14 := by omega
  have h40 : ¬ offOf a < 0x40 := by omega
  simp [State.writeWord, h14, h40, State.onPage_writable hw, hf, hn]

/-- A write to the low word of a 64-bit register waits in the write-holding register (R49). -/
theorem State.writeWord_pairLow {s : State} {m : Master} {a v : Nat} {r : RegRow}
    (hw : s.Writable (pageOf a)) (ho : 0x40 ≤ offOf a) (hf : findReg (bankOf (s.selOf m) a) = some (r, false))
    (hn : r.wide = true) :
    s.writeWord m a v true = s.setPage (pageOf a) (fun p => { p with wrHold := some (m, offOf a, BitVec.ofNat 32 v) }) := by
  have h14 : offOf a ≠ 0x14 := by omega
  have h40 : ¬ offOf a < 0x40 := by omega
  simp [State.writeWord, h14, h40, State.onPage_writable hw, hf, hn]

/-- A write to the high word completes the write that the same master holds at the low word (R49). -/
theorem State.writeWord_pairHigh {s : State} {m : Master} {a v lo : Nat} {w : Word} {r : RegRow}
    (hw : s.Writable (pageOf a)) (ho : 0x40 ≤ offOf a) (hf : findReg (bankOf (s.selOf m) a) = some (r, true))
    (hn : r.wide = true) (hh : (s.page (pageOf a)).wrHold = some (m, lo, w)) (hlo : lo + 4 = offOf a) :
    s.writeWord m a v true =
      (s.setPage (pageOf a) (fun p => { p with wrHold := none })).writeFull m (a - 4) (w.toNat + v * 2 ^ 32) := by
  have h14 : offOf a ≠ 0x14 := by omega
  have h40 : ¬ offOf a < 0x40 := by omega
  simp [State.writeWord, h14, h40, State.onPage_writable hw, hf, hn, hh, hlo]

/-- A complete write with no effect of its own, to a register of RW and W1C fields alone, sets the row field by field (R8). -/
theorem State.writeFull_plain {s : State} {m : Master} {a v : Nat} {r : RegRow}
    (hp : s.pageHook m a v = none) (hf : findReg (bankOf (s.selOf m) a) = some (r, false)) (hs : r.rws = 0) (hl : r.rwl = 0) :
    s.writeFull m a v = s.setRow r (bankOf (s.selOf m) a) (r.written false (s.rowVal r (bankOf (s.selOf m) a)) v) := by
  simp [State.writeFull, hp, hf, State.writeRow, hs, hl]

/-- A complete write with no effect of its own, to a staged register of a page that is not a slot switched off, is staged (R44). -/
theorem State.writeFull_staged {s : State} {m : Master} {a v : Nat} {r : RegRow}
    (hp : s.pageHook m a v = none) (hf : findReg (bankOf (s.selOf m) a) = some (r, false)) (hs : r.rws ≠ 0)
    (he : tyOf a ≠ 0x6 ∨ s.en (pageOf a) = true) : s.writeFull m a v = s.stage (pageOf a) r (bankOf (s.selOf m) a) v := by
  have hon : ¬ (tyOf a = 6 ∧ s.en (pageOf a) = false) := by
    rintro ⟨hty, hen⟩
    exact he.elim (fun h => h hty) (fun h => by rw [hen] at h; cases h)
  simp [State.writeFull, hp, hf, State.writeRow, hs, hon]

/-- A read of a register of 32 bits returns what its master sees and clears the RC fields (R51). -/
theorem State.readWord_narrow {s : State} {m : Master} {a : Nat} {hold : Bool} {r : RegRow} {hi : Bool} (ho : 0x40 ≤ offOf a)
    (he : s.readEffect m a = none) (hf : findReg (bankOf (s.selOf m) a) = some (r, hi)) (hn : r.wide = false) :
    s.readWord m a hold = (s.view m a, s.readClear (pageOf a) (bankOf (s.selOf m) a) r) := by
  have h40 : ¬ offOf a < 0x40 := by omega
  simp [State.readWord, h40, he, hf, hn]

/-- A read of the low word of a 64-bit register captures the high word for its master (R48). -/
theorem State.readWord_pairLow {s : State} {m : Master} {a : Nat} {r : RegRow} (ho : 0x40 ≤ offOf a)
    (he : s.readEffect m a = none) (hf : findReg (bankOf (s.selOf m) a) = some (r, false)) (hn : r.wide = true) :
    s.readWord m a true =
      (s.view m a, s.setPage (pageOf a) (fun p => { p with rdHold := some (m, offOf a, s.view m (a + 4)) })) := by
  have h40 : ¬ offOf a < 0x40 := by omega
  simp [State.readWord, h40, he, hf, hn]

/-- A read of the high word returns the word that the same master captured at the low word (R48). -/
theorem State.readWord_pairHigh {s : State} {m : Master} {a lo : Nat} {w : Word} {r : RegRow} (ho : 0x40 ≤ offOf a)
    (he : s.readEffect m a = none) (hf : findReg (bankOf (s.selOf m) a) = some (r, true)) (hn : r.wide = true)
    (hh : (s.page (pageOf a)).rdHold = some (m, lo, w)) (hlo : lo + 4 = offOf a) : s.readWord m a true = (w, s) := by
  have h40 : ¬ offOf a < 0x40 := by omega
  simp [State.readWord, h40, he, hf, hn, hh, hlo]

end Sys2Proof.Machine
end

section
/-! PROOFS. One access of a master outside the register pages: an unmapped address, and a word of a memory window (R33 to R35). -/

namespace Sys2Proof.Machine

/-- A write to an unmapped address is recorded and has no other effect (R33). -/
theorem State.busWrite_unmapped {s : State} {m : Master} {a nb be v : Nat} (hu : s.up = true) (h : mapped a nb = false) :
    s.busWrite m a nb be v = s.mapErr m a 0 := by
  simp [State.busWrite, hu, h]

/-- A read of an unmapped address is recorded and returns 0 (R33). -/
theorem State.busRead_unmapped {s : State} {m : Master} {a nb be : Nat} (hu : s.up = true) (h : mapped a nb = false) :
    s.busRead m a nb be = (0, s.mapErr m a 0) := by
  simp [State.busRead, hu, h]

/-- A write below 0x04000000 is a write to BAR0 (R192). -/
theorem State.sysWrite_bar0 {s : State} {m : Master} {a nb be v : Nat} (h : a < 0x4000000) :
    s.sysWrite m a nb be v = s.busWrite m a nb be v := if_pos h

/-- An aligned write of a whole word of a memory window is refused with MEM_BUSY or stores that word (R34). -/
theorem State.busWrite_window {s : State} {m : Master} {a v : Nat} (hu : s.up = true) (h : mapped a 4 = true)
    (hw : 0x2000000 ≤ a) (h4 : a % 4 = 0) :
    s.busWrite m a 4 15 v = if s.winRefused a then s.mapErr m a 2 else s.winWord a 15 (v % 2 ^ 32) := by
  have hlow : ¬ a < 0x2000000 := by omega
  have ha : a / 4 * 4 = a := by omega
  have hnone : ∀ (t : State) (x n : Nat), t.winWord x 0 n = t := fun _ _ _ => rfl
  simp [State.busWrite, hu, h, hlow, ha, h4, hnone]

end Sys2Proof.Machine
end

section
/-! PROOFS. The commands of chapter 02 as accesses of their master to the state at their instant. -/

namespace Sys2Proof.Machine

variable {s u : State} {t : Time} (ht : s.tick t = u) (m : Master)
include ht

theorem exec_registerWrite (a : BitVec 26) (w : Width) (be : BitVec 8) (v : DWord) :
    exec (.registerWrite t m a w be v) s = .next (u.busWrite m a.toNat w.bytes be.toNat v.toNat) := by subst ht; rfl
theorem exec_stagedRegisterWrite (a : BitVec 26) (v : DWord) :
    exec (.stagedRegisterWrite t m a false v) s = .next (u.busWrite m a.toNat 4 0xff v.toNat) := by subst ht; rfl
theorem exec_rcRead (a : BitVec 26) : exec (.rcRead t m a .b32 15) s = .next (u.read32 m a.toNat) := by subst ht; rfl
theorem exec_pairLowRead (a : BitVec 26) : exec (.pairLowRead t m a) s = .next (u.read32 m a.toNat) := by subst ht; rfl
theorem exec_pairHighRead (a : BitVec 26) : exec (.pairHighRead t m a) s = .next (u.read32 m a.toNat) := by subst ht; rfl
theorem exec_pairLowWrite (a : BitVec 26) (v : Word) : exec (.pairLowWrite t m a v) s = .next (u.write32 m a.toNat v) := by
  subst ht; rfl
theorem exec_pairHighWrite (a : BitVec 26) (v : Word) : exec (.pairHighWrite t m a v) s = .next (u.write32 m a.toNat v) := by
  subst ht; rfl
theorem exec_unmappedAccess_write (a : BitVec 26) (w : Width) (v : DWord) :
    exec (.unmappedAccess t m a w true v) s = .next (u.busWrite m a.toNat w.bytes 0xff v.toNat) := by subst ht; rfl
theorem exec_unmappedAccess_read (a : BitVec 26) (w : Width) (v : DWord) :
    exec (.unmappedAccess t m a w false v) s =
      .next { (u.busRead m a.toNat w.bytes 0xff).2 with rd := (u.busRead m a.toNat w.bytes 0xff).1 } := by subst ht; rfl
theorem exec_memoryWindowWrite (a : BitVec 27) (v : DWord) :
    exec (.memoryWindowWrite t m a .b32 15 v) s = .next (u.sysWrite m a.toNat 4 15 v.toNat) := by subst ht; rfl

/-- A 32-bit write to a register with no staged and no locked field and no effect of its own sets its row (R8). -/
theorem exec_registerWrite_plain {a : BitVec 26} {be : BitVec 8} {v : DWord} {r : RegRow}
    (hw : u.Writable (pageOf a.toNat)) (hr : IsReg a.toNat) (ho : 0x40 ≤ offOf a.toNat) (hb : be.toNat % 16 = 15)
    (hf : findReg (bankOf (u.selOf m) a.toNat) = some (r, false)) (hn : r.wide = false) (hs : r.rws = 0) (hl : r.rwl = 0)
    (hp : u.pageHook m a.toNat (v.toNat % 2 ^ 32) = none) :
    exec (.registerWrite t m a .b32 be v) s = .next (u.setRow r (bankOf (u.selOf m) a.toNat)
      (r.written false (u.rowVal r (bankOf (u.selOf m) a.toNat)) (v.toNat % 2 ^ 32))) := by
  rw [exec_registerWrite ht, Width.bytes, State.busWrite_word hw.up hr hb, State.writeWord_narrow hw ho hf hn,
    State.writeFull_plain hp hf hs hl]

end Sys2Proof.Machine
end

section
/-! PROOFS. A step keeps the canonical form: what every command keeps (`exec_keeps`), carried over the queue. -/

namespace Sys2Proof.Machine

/-- The canonical form does not speak of the queue. -/
theorem State.Canonical.withPending {s : State} (h : s.Canonical) (q : List Instr) : { s with pending := q }.Canonical :=
  ⟨h.mem, h.regs, h.pages, h.sels⟩

/-- A command leaves a canonical state canonical. -/
theorem exec_canonical {s r : State} (h : s.Canonical) {c : Instr} (hr : exec c s = .next r) : r.Canonical := by
  have hk : KeepsOutcome s (exec c s) := exec_keeps c s
  rw [hr] at hk
  exact Keeps.canon hk h

/-- A step leaves a canonical state canonical. -/
theorem step_canonical {s r : State} (h : s.Canonical) (hr : step s = .next r) : r.Canonical := by
  unfold step at hr
  split at hr
  · obtain rfl : s = r := by simpa using hr
    exact h
  · exact exec_canonical (h.withPending _) hr

end Sys2Proof.Machine
end

section
/-! PROOFS. The obligations on the state's tables and on the commands of chapter 02. -/

namespace Sys2Proof

open Sys2Proof.Machine

/-- Settles O4: no command leaves the canonical form, and the queue is no part of it. -/
theorem stepKeepsCanonicalForm : Obligations.stepKeepsCanonicalForm := by
  unfold Obligations.stepKeepsCanonicalForm
  exact fun s r h hr => step_canonical h hr

/-- Settles O8, by what a table reads after a write of one of its keys. -/
theorem registersHold : Obligations.registersHold := by
  unfold Obligations.registersHold
  refine ⟨fun s a b w h => ?word, fun s a hi lo v i h hl hh => ?field,
    fun s a v b h hv => ?pair, fun s a hi lo n h hl hh => ?count⟩
  case word => exact ⟨State.rg_setRg_same h a w, State.rg_setRg_other h a b w, rfl⟩
  case field => exact State.bit_putFld h a hi lo v i hl hh
  case pair => exact ⟨State.rg64_setRg64_same h a v hv, State.rg_setRg64_other h a v b⟩
  case count => exact State.fld_count_same h a hi lo n hl hh

/-- Settles O9, by induction on the number of bytes stored. -/
theorem memoryHolds : Obligations.memoryHolds := by
  unfold Obligations.memoryHolds
  refine ⟨fun s a x w h => ?word, fun s a i w h hi => ?byte⟩
  case word => exact ⟨State.ldw_stw_same h a w, fun hx => Memory.read_writeN_other 4 _ _ _ _ hx h.mem, rfl⟩
  case byte => exact Memory.read_writeN_inside 4 _ _ _ _ hi h.mem

/-- Settles O10: the write sets one word of the register table, to the value of the access codes. -/
theorem plainWriteFrame : Obligations.plainWriteFrame := by
  unfold Obligations.plainWriteFrame
  intro s u r' t m a be v r i ht hcan hw hr ho hb hf hn hs hl hc hp hi he
  rw [exec_registerWrite_plain ht m hw hr ho hb hf hn hs hl hp, State.setRow_narrow hn, State.rowVal_narrow hn] at he
  obtain rfl := Host.Outcome.next.inj he
  have hv : (v.toNat % 2 ^ 32).testBit i = v.toNat.testBit i := by rw [Nat.testBit_mod_two_pow, decide_eq_true hi, Bool.true_and]
  refine ⟨rfl, fun b hne => State.rg_setRg_other hcan _ _ _ hne, ?_⟩
  rw [State.bit_setRg_ofNat hcan _ _ _ hi, RegRow.testBit_written hc, hv]
  rfl

/-- Settles O23: each command is one access of its master, and each access takes one branch of the word it reaches. -/
theorem registerCommandsComplete : Obligations.registerCommandsComplete := by
  unfold Obligations.registerCommandsComplete
  refine ⟨?registerWrite, ?stagedRegisterWrite, ?rcRead, ?pairLowRead, ?pairHighRead, ?pairLowWrite, ?pairHighWrite,
    ?unmappedAccess, ?memoryWindowWrite⟩
  case registerWrite =>
    intro s u t m a be v r ht hw hr ho hb hf hn hs hl hp
    exact exec_registerWrite_plain ht m hw hr ho hb hf hn hs hl hp
  case stagedRegisterWrite =>
    intro s u t m a v r ht hw hr ho hf hn hs he hp
    rw [exec_stagedRegisterWrite ht, State.busWrite_word hw.up hr (by decide), State.writeWord_narrow hw ho hf hn,
      State.writeFull_staged hp hf hs he]
  case rcRead =>
    intro s u t m a r ht hu hr h4 ho he hf hn
    rw [exec_rcRead ht, State.read32_word hu hr h4, State.readWord_narrow ho he hf hn]
  case pairLowRead =>
    intro s u t m a r ht hu hr h4 ho he hf hn
    rw [exec_pairLowRead ht, State.read32_word hu hr h4, State.readWord_pairLow ho he hf hn]
  case pairHighRead =>
    intro s u t m a r lo w ht hu hr h4 ho he hf hn hh hlo
    rw [exec_pairHighRead ht, State.read32_word hu hr h4, State.readWord_pairHigh ho he hf hn hh hlo]
  case pairLowWrite =>
    intro s u t m a v r ht hw hr ho hf hn
    rw [exec_pairLowWrite ht, State.write32_word hw.up hr, State.writeWord_pairLow hw ho hf hn, BitVec.ofNat_toNat,
      BitVec.setWidth_eq]
  case pairHighWrite =>
    intro s u t m a v w r lo ht hw hr ho hf hn hh hlo
    rw [exec_pairHighWrite ht, State.write32_word hw.up hr, State.writeWord_pairHigh hw ho hf hn hh hlo]
  case unmappedAccess =>
    intro s u t m a w v ht hu h
    rw [exec_unmappedAccess_write ht, exec_unmappedAccess_read ht, State.busWrite_unmapped hu h, State.busRead_unmapped hu h]
    exact ⟨rfl, rfl⟩
  case memoryWindowWrite =>
    intro s u t m a v ht hu h hlow hhigh h4
    rw [exec_memoryWindowWrite ht, State.sysWrite_bar0 hhigh, State.busWrite_window hu h hlow h4]
    exact ⟨fun hr => by rw [if_pos hr], fun hr => by rw [hr, if_neg Bool.false_ne_true]⟩

end Sys2Proof
end

section
/-! PROOFS. Accesses of a master, and the pins, while the device is in no state that shows its pages (R31, R522), and what decides
a pin otherwise (R84, R118, R142). -/

namespace Sys2Proof.Machine

section Down
variable {s : State} (h : s.up = false)
include h

theorem State.busWrite_down (m : Master) (a nb be v : Nat) : s.busWrite m a nb be v = s := by simp [State.busWrite, h]
theorem State.busRead_down (m : Master) (a nb be : Nat) : s.busRead m a nb be = (0, s) := by simp [State.busRead, h]
theorem State.write32_down (m : Master) (a : Nat) (v : Word) : s.write32 m a v = s := State.busWrite_down h m a 4 15 v.toNat

theorem State.p2Pin_down (n : Nat) : s.p2Pin n = .z := by simp [State.p2Pin, h]
theorem State.mclkPin_down (n : Nat) : s.mclkPin n = .z := by simp [State.mclkPin, h]
theorem State.gatePin_down (n i : Nat) : s.gatePin n i = none := by simp [State.gatePin, h]
theorem State.stoPins_down : s.stoPins = none := by simp [State.stoPins, h]
theorem State.errPins_down : s.errPins = none := by simp [State.errPins, h]
end Down

/-- P2 of a port that is switched off (R84). -/
theorem State.p2Pin_off {s : State} {n : Nat} (he : s.en (R.FBP.base n) = false) : s.p2Pin n = .z := by
  simp [State.p2Pin, he]
/-- P2 of a port in a mode without a serial clock (R84). -/
theorem State.p2Pin_unclocked {s : State} {n : Nat} (h3 : s.fbMode n ≠ 3) (h4 : s.fbMode n ≠ 4) : s.p2Pin n = .z := by
  simp [State.p2Pin, h3, h4]
/-- P2 of a port in a mode with a serial clock drives it (R84). -/
theorem State.p2Pin_clocked {s : State} {n : Nat} (hu : s.up = true) (he : s.en (R.FBP.base n) = true)
    (hm : s.fbMode n = 3 ∨ s.fbMode n = 4) : s.p2Pin n = .output (s.bit (R.FBP.CTRL n) 6) := by
  simp [State.p2Pin, hu, he, hm]

/-- MCLK of a slot that is switched off (R118). -/
theorem State.mclkPin_off {s : State} {n : Nat} (he : s.en (R.SDM.base n) = false) : s.mclkPin n = .z := by
  simp [State.mclkPin, he]
/-- MCLK drives the slot's own clock, or takes an external one (R118). -/
theorem State.mclkPin_on {s : State} {n : Nat} (hu : s.up = true) (he : s.en (R.SDM.base n) = true) :
    s.mclkPin n = if s.sdExt n then .input (s.bit (R.SDM.IN_CFG n 0) 2) else .output (s.bit (R.SDM.IN_CFG n 0) 2) := by
  simp [State.mclkPin, hu, he]

/-- A gate output carries its state in the polarity of `CTRL.GPOL` (R142). -/
theorem State.gatePin_up {s : State} {n i : Nat} (hu : s.up = true) :
    s.gatePin n i = some ((s.gate n i).on != s.bit (R.PWM.CTRL n) (16 + i)) := by
  simp [State.gatePin, hu]

section Commands
variable {s u : State} {t : Time} (ht : s.tick t = u) (m : Master)
include ht

theorem exec_rcRead_busRead (a : BitVec 26) (w : Width) (be : BitVec 8) :
    exec (.rcRead t m a w be) s =
      .next { (u.busRead m a.toNat w.bytes be.toNat).2 with rd := (u.busRead m a.toNat w.bytes be.toNat).1 } := by subst ht; rfl
theorem exec_irqClear_write32 (a : BitVec 26) (v : Word) :
    exec (.irqClear t m a v) s = .next (u.write32 m (R.PG_IRQ (pageOf a.toNat)) v) := by subst ht; rfl
theorem exec_unlockFirstKey_write32 (a : BitVec 26) :
    exec (.unlockFirstKey t m a) s = .next (u.write32 m (R.PG_LOCK (pageOf a.toNat)) 0xC41A) := by subst ht; rfl
theorem exec_shadowHold_write32 (a : BitVec 26) :
    exec (.shadowHold t m a true) s = .next (u.write32 m (R.PG_SHADOW (pageOf a.toNat)) 1) := by subst ht; rfl
end Commands

end Sys2Proof.Machine
end

section
/-! PROOFS. A write of `SYS.RUN_CTRL` and a transition of the device state, part by part (R27, R28, R30, R568). -/

namespace Sys2Proof.Machine

/-- The part of a write of `SYS.RUN_CTRL` that concerns OUT_EN (R42, R570); `writeRunCtrl_eq` ties it to the write. -/
def State.outEnWritten (s : State) (m : Master) (on : Bool) : State :=
  if s.lockOk R.SYS.base m then (s.writeOutEn on).setPage R.SYS.base (fun p => { p with lockFrom := s.now })
  else if on ≠ s.outEn ∧ ¬(s.dev.st = .safe ∧ on) then s.failInc R.SYS.base else s

theorem State.writeRunCtrl_eq (s : State) (m : Master) (v : Nat) :
    s.writeRunCtrl m v = if bitN v 1 then (s.outEnWritten m (bitN v 0)).safeAck else s.outEnWritten m (bitN v 0) := rfl

theorem State.outEnWritten_owner {s : State} {m : Master} (h : s.lockOk R.SYS.base m = true) (on : Bool) :
    s.outEnWritten m on = (s.writeOutEn on).setPage R.SYS.base (fun p => { p with lockFrom := s.now }) := if_pos h

/-- Without the lock, writing OUT_EN as it stands does nothing. -/
theorem State.outEnWritten_asIs {s : State} {m : Master} (h : s.lockOk R.SYS.base m = false) :
    s.outEnWritten m s.outEn = s := by
  simp [State.outEnWritten, h]

/-- A transition changes the state of the device, and no other part of `dev`. -/
theorem State.toDev_dev (s : State) (d : DevState) (cause : Nat) : (s.toDev d cause).dev = { s.dev with st := d } := by
  unfold State.toDev
  split <;> rfl

/-- A transition writes `SYS.DEV_STATE` alone. -/
theorem State.rg_toDev_other {s : State} (h : s.Canonical) (d : DevState) (cause b : Nat) (hb : b ≠ R.SYS.DEV_STATE) :
    (s.toDev d cause).rg b = s.rg b := by
  have hs : ({ s with dev := { s.dev with st := d } } : State).Canonical := ⟨h.mem, h.regs, h.pages, h.sels⟩
  have hput : ∀ (x : State) (hi lo v : Nat), x.Canonical → (x.putFld R.SYS.DEV_STATE hi lo v).rg b = x.rg b :=
    fun x hi lo v hx => State.rg_setRg_other hx _ _ _ hb
  have h3 := ((hs.putFld R.SYS.DEV_STATE 6 4 s.dev.st.code).putFld R.SYS.DEV_STATE 2 0 d.code).putFld R.SYS.DEV_STATE 15 8 cause
  have hflds : ∀ x : State, x.Canonical →
      (((x.putFld R.SYS.DEV_STATE 6 4 s.dev.st.code).putFld R.SYS.DEV_STATE 2 0 d.code).putFld R.SYS.DEV_STATE 15 8 cause).rg b =
        x.rg b := fun x hx => by
    rw [hput _ _ _ _ ((hx.putFld _ _ _ _).putFld _ _ _ _), hput _ _ _ _ (hx.putFld _ _ _ _), hput _ _ _ _ hx]
  unfold State.toDev
  split
  · exact (hput _ 7 7 _ h3).trans (hflds _ hs)
  · exact hflds _ hs

/-- In SAFE a 1 written to OUT_EN is not kept (R30). -/
theorem State.writeOutEn_safe_on {s : State} (h : s.dev.st = .safe) : s.writeOutEn true = s := by
  simp [State.writeOutEn, h]

/-- In SAFE a write of OUT_EN leaves the device state. -/
theorem State.outEnWritten_safe_dev {s : State} (h : s.dev.st = .safe) (m : Master) (on : Bool) :
    (s.outEnWritten m on).dev = s.dev := by
  have hoff : (s.writeOutEn on).dev = s.dev := by cases on <;> simp [State.writeOutEn, h]
  unfold State.outEnWritten
  split
  · exact hoff
  · split <;> rfl

/-- In SAFE a 1 written to OUT_EN changes no register: it is neither kept nor counted (R30). -/
theorem State.outEnWritten_safe_regs {s : State} (h : s.dev.st = .safe) (m : Master) : (s.outEnWritten m true).regs = s.regs := by
  unfold State.outEnWritten
  split
  · rw [State.writeOutEn_safe_on h]
    rfl
  · rw [if_neg (by simp [h])]

/-- SAFE_ACK in SAFE: ACK_EARLY while the hold stands, then READY (R30). -/
theorem State.safeAck_held {s : State} (h : s.dev.hold = true) : s.safeAck = s.putBit R.SYS.DEV_STATE 7 true := if_pos h
theorem State.safeAck_withdrawn {s : State} (h : s.dev.hold = false) (hs : s.dev.st = .safe) : s.safeAck = s.toDev .ready 5 := by
  simp [State.safeAck, h, hs]

/-- SAFE_ACK in SAFE writes `SYS.DEV_STATE` alone. -/
theorem State.rg_safeAck_other {s : State} (hc : s.Canonical) (hs : s.dev.st = .safe) (b : Nat) (hb : b ≠ R.SYS.DEV_STATE) :
    s.safeAck.rg b = s.rg b := by
  cases hh : s.dev.hold with
  | true => rw [State.safeAck_held hh]; exact State.rg_setRg_other hc _ _ _ hb
  | false => rw [State.safeAck_withdrawn hh hs]; exact State.rg_toDev_other hc _ _ _ hb

/-- A write of `SYS.RUN_CTRL` in SAFE with OUT_EN = 1 changes no register but `SYS.DEV_STATE`. -/
theorem State.rg_writeRunCtrl_safe_on {s : State} (hc : s.Canonical) (hs : s.dev.st = .safe) (m : Master) {v : Nat}
    (hv : bitN v 0 = true) (b : Nat) (hb : b ≠ R.SYS.DEV_STATE) : (s.writeRunCtrl m v).rg b = s.rg b := by
  have hregs : (s.outEnWritten m true).regs = s.regs := State.outEnWritten_safe_regs hs m
  have hrg : (s.outEnWritten m true).rg b = s.rg b := by rw [State.rg, State.rg, hregs]
  have hcan : (s.outEnWritten m true).Canonical := by
    refine Keeps.canon ?_ hc
    unfold State.outEnWritten
    rw [State.writeOutEn_safe_on hs]
    exact .ite (State.setPage_keeps _ _ _) (.ite (State.failInc_keeps _ _) (.refl _))
  rw [State.writeRunCtrl_eq, hv]
  split
  · rw [State.rg_safeAck_other hcan ((congrArg DevSt.st (State.outEnWritten_safe_dev hs m true)).trans hs) b hb, hrg]
  · exact hrg

/-- With OUT_EN = 1 and the release present, READY goes to RUN (R27, R568). -/
theorem State.tryRun_ready {s : State} (hs : s.dev.st = .ready) (ho : s.outEn = true) (hr : s.bwRel = true) :
    s.tryRun = s.toDev .run 1 := if_pos ⟨hs, ho, hr⟩

/-- In READY with the release present, OUT_EN = 1 is kept and enters RUN (R568). -/
theorem State.writeOutEn_ready_on {s : State} (hc : s.Canonical) (hs : s.dev.st = .ready) (hr : s.bwRel = true) :
    s.writeOutEn true = (s.putBit R.SYS.RUN_CTRL 0 true).toDev .run 1 := by
  have hkept : (s.putBit R.SYS.RUN_CTRL 0 true).outEn = true := State.bit_putBit_same hc _ _ _ (by omega)
  have hrel : (s.putBit R.SYS.RUN_CTRL 0 true).bwRel = true := (State.bit_putBit_other hc _ _ _ _ _ (by decide)).trans hr
  have hw : s.writeOutEn true = (s.putBit R.SYS.RUN_CTRL 0 true).tryRun := by simp [State.writeOutEn, hs]
  exact hw.trans (State.tryRun_ready (s := s.putBit R.SYS.RUN_CTRL 0 true) hs hkept hrel)

/-- In RUN, OUT_EN = 0 is kept and leads to READY (R28). -/
theorem State.writeOutEn_run_off {s : State} (hs : s.dev.st = .run) :
    s.writeOutEn false = (s.putBit R.SYS.RUN_CTRL 0 false).toDev .ready 2 := by
  simp [State.writeOutEn, hs]

section Commands
variable {s u : State} {t : Time} (ht : s.tick t = u)
include ht

theorem exec_outEnSet (m : Master) (hw : u.Writable R.SYS.base) :
    exec (.outEnSet t m) s = .next (u.outEnWritten m true).runSync := by
  subst ht
  exact congrArg Host.Outcome.next (State.onPage_writable hw)
theorem exec_outEnClear (m : Master) (hw : u.Writable R.SYS.base) :
    exec (.outEnClear t m) s = .next (u.outEnWritten m false).runSync := by
  subst ht
  exact congrArg Host.Outcome.next (State.onPage_writable hw)
/-- SAFE_ACK of a master that does not own the lock: OUT_EN is left as it is (R30). -/
theorem exec_safeAck (m : Master) (hw : u.Writable R.SYS.base) (hl : u.lockOk R.SYS.base m = false) (ho : u.outEn = false) :
    exec (.safeAck t m) s = .next u.safeAck.runSync := by
  have hasis : u.outEnWritten m false = u := by simpa [ho] using State.outEnWritten_asIs hl
  have hcmd : exec (.safeAck t m) s = .next (u.onPage R.SYS.base (fun s => s.runCtrl m (2 + b2n s.outEn))) := by subst ht; rfl
  have hrun : u.writeRunCtrl m 2 = u.safeAck := (u.writeRunCtrl_eq m 2).trans (congrArg State.safeAck hasis)
  rw [hcmd, State.onPage_writable hw, ho]
  exact congrArg (fun x : State => Host.Outcome.next x.runSync) hrun
theorem exec_runEntry : exec (.runEntry t) s = .next u.tryRun.runSync := by subst ht; rfl
/-- PLL_LOCK_LOST of a PLL other than PLL_C (R24). -/
theorem exec_pllLockLost {p : Pll} (hp : p ≠ .c) (freq : Bool) :
    exec (.pllLockLost t p freq) s = .next (u.pllLost p freq).runSync := by
  subst ht
  exact congrArg Host.Outcome.next (if_neg hp)
theorem exec_refclkLost : exec (.refclkLost t) s =
    .next ((((u.putBit R.SYS.CLK_MON 11 true).pllLost .t false).pllLost .a true).pllLost .c true).runSync.canStopAll := by
  subst ht; rfl
end Commands

end Sys2Proof.Machine
end

section
/-! PROOFS. The obligations on the pages, on SAFE and on the commands that change the device state. -/

namespace Sys2Proof

open Sys2Proof.Machine

/-- Settles O12: every access is an access of the bus, which ends at once while the pages are closed. -/
theorem pagesClosed : Obligations.pagesClosed := by
  unfold Obligations.pagesClosed
  refine ⟨fun s u t m a w be v ht hu => ?accesses, fun s n i hu => ?outputs, fun s n i hu => ?pins⟩
  case accesses =>
    rw [exec_registerWrite ht, exec_rcRead_busRead ht, exec_irqClear_write32 ht, exec_unlockFirstKey_write32 ht,
      exec_shadowHold_write32 ht, State.busWrite_down hu, State.busRead_down hu, State.write32_down hu, State.write32_down hu,
      State.write32_down hu]
    exact ⟨rfl, rfl, rfl, rfl, rfl⟩
  case outputs =>
    exact ⟨State.p2Pin_down hu n, State.mclkPin_down hu n, State.gatePin_down hu n i, State.stoPins_down hu,
      State.errPins_down hu⟩
  case pins =>
    refine ⟨State.p2Pin_off, State.p2Pin_unclocked, State.p2Pin_clocked hu, State.mclkPin_off,
      fun he hx => ?_, fun he hx => ?_, fun hp => ?_, fun hp => ?_⟩
    · rw [State.mclkPin_on hu he, hx, if_neg Bool.false_ne_true]
    · rw [State.mclkPin_on hu he, hx, if_pos rfl]
    · rw [State.gatePin_up hu, hp, Bool.bne_false]
    · rw [State.gatePin_up hu, hp, Bool.bne_true]

/-- Settles O22: in SAFE the part of the write that concerns OUT_EN leaves the device state, and SAFE_ACK leads to READY. -/
theorem safeNeverToRun : Obligations.safeNeverToRun := by
  unfold Obligations.safeNeverToRun
  refine ⟨fun s m v hs => ?_, fun s m v hc hs hv => ⟨?_, ?_⟩⟩
  · have hdev := State.outEnWritten_safe_dev hs m (bitN v 0)
    have hst : (s.outEnWritten m (bitN v 0)).dev.st = .safe := by rw [hdev, hs]
    rw [State.writeRunCtrl_eq]
    split
    case isFalse => exact .inl hst
    case isTrue hack =>
      cases hh : s.dev.hold with
      | true => rw [State.safeAck_held (by rw [hdev, hh])]; exact .inl hst
      | false =>
        rw [State.safeAck_withdrawn (by rw [hdev, hh]) hst, State.toDev_dev]
        exact .inr ⟨rfl, hack, rfl⟩
  · rw [State.outEn, State.bit, State.rg_writeRunCtrl_safe_on hc hs m hv _ (by decide)]
    rfl
  · exact State.rg_writeRunCtrl_safe_on hc hs m hv _ (by decide)

/-- Settles O25: each write is its part of `SYS.RUN_CTRL`, and each lost clock sets its flags before the reaction. -/
theorem deviceStateCommandsComplete : Obligations.deviceStateCommandsComplete := by
  unfold Obligations.deviceStateCommandsComplete
  refine ⟨?outEnSet, ?outEnClear, ?runEntry, ?safeAck, ?pllLockLost, ?refclkLost⟩
  case outEnSet =>
    intro s u t m ht hs hw hl hst hr
    have hc : u.Canonical := ht ▸ (State.tick_keeps s t).canon hs
    rw [exec_outEnSet ht m hw, State.outEnWritten_owner hl, State.writeOutEn_ready_on hc hst hr]
  case outEnClear =>
    intro s u t m ht hw hl hst
    rw [exec_outEnClear ht m hw, State.outEnWritten_owner hl, State.writeOutEn_run_off hst]
  case runEntry =>
    intro s u t ht hst ho hr
    rw [exec_runEntry ht, State.tryRun_ready hst ho hr]
  case safeAck =>
    intro s u t m ht hw hl ho hst
    rw [exec_safeAck ht m hw hl ho]
    exact ⟨fun hh => by rw [State.safeAck_withdrawn hh hst], fun hh => by rw [State.safeAck_held hh]⟩
  case pllLockLost =>
    intro s u t freq ht
    exact ⟨exec_pllLockLost ht (by decide) freq, exec_pllLockLost ht (by decide) freq, exec_pllLockLost ht (by decide) freq⟩
  case refclkLost =>
    intro s u t ht
    exact exec_refclkLost ht

end Sys2Proof
end

section
/-! PROOFS. The held ports, the PLLs that lock again and the configuration store, case by case (R24, R524 to R529, R537). -/

namespace Sys2Proof.Machine

/-- With no port held nothing is dropped (R525). -/
theorem State.settleDrop_idle {s : State} {k : Nat} (hk : k < 4) (h : s.txHeld k = false) : s.settleDrop k = s := by
  simp [State.settleDrop, hk, h]

/-- The frames that a held port has queued for 1 ms are dropped, counted and posted (R525). -/
theorem State.settleDrop_held {s : State} {k n : Nat} (hk : k < 4) (h : s.txHeld k = true)
    (hn : (s.port k).queues.toList.foldl
      (fun (n : Nat) q => n + (q.filter (fun f => decide (f.at_ + ms 1 ≤ s.now))).length) 0 = n)
    (h0 : n ≠ 0) :
    s.settleDrop k = ((((s.setPort k (fun p => { p with queues := p.queues.map (fun q => q.filter
      (fun f => !decide (f.at_ + ms 1 ≤ s.now))) })).count (R.ETH.DROP k) 31 16 n).irq (R.ETH.base k) 4).pwrPost 0x03 k).irq
        R.PWR.base 2 := by
  subst hn
  unfold State.settleDrop
  rw [if_pos hk]
  exact if_neg (fun hbar => hbar.elim (fun hheld => by simp [h] at hheld) h0)

/-- PLL_C locks again after a loss (R524), or was not lost. -/
theorem State.relock_c_lost {s : State} (h : s.dev.pllcDown = true) :
    s.relock .c = ({ s with dev := { s.dev with pllcDown := false } } : State).canRestartAll := if_pos h
theorem State.relock_c_locked {s : State} (h : s.dev.pllcDown = false) : s.relock .c = s := by simp [State.relock, h]

/-- What refuses a write of the store (R526, R537). -/
def State.CfsBars (s : State) : Prop :=
  s.cfsBusy = true ∨ s.pwr.brown = true ∨ s.fld R.CFS.LEN 6 0 = 0 ∨ 64 < s.fld R.CFS.LEN 6 0 ∨
    0x1F0000 < s.fld R.CFS.ADDR 20 0 + s.fld R.CFS.LEN 6 0

theorem State.cfsWrite_refused {s : State} (h : s.CfsBars) : s.cfsWrite = s.cfsRefuse := if_pos h
/-- A write that nothing refuses begins its transaction (R526). -/
theorem State.cfsWrite_begins {s : State} (h : ¬ s.CfsBars) :
    s.cfsWrite = ((s.putFld R.CFS.STAT 1 0 1).putBit (R.PG_ERRINJ R.CFS.base) 16 false).setPwr (fun p =>
      { p with cfs := some ⟨s.fld R.CFS.ADDR 20 0, (List.range (s.fld R.CFS.LEN 6 0)).map (fun i => s.rg (R.CFS.BUF i)), s.now,
        s.bit (R.PG_ERRINJ R.CFS.base) 16, none⟩ }) := if_neg h

theorem State.cfsRead_refused {s : State} (h : s.fld R.CFS.LEN 6 0 = 0 ∨ 64 < s.fld R.CFS.LEN 6 0) :
    s.cfsRead = s.cfsRefuse := if_pos h
/-- A read of a legal length brings the words into the buffer, one by one (R527, R537). -/
theorem State.cfsRead_legal {s : State} (h : ¬ (s.fld R.CFS.LEN 6 0 = 0 ∨ 64 < s.fld R.CFS.LEN 6 0)) :
    s.cfsRead = ((List.range (s.fld R.CFS.LEN 6 0)).foldl (fun (x : State) i =>
      (x.cfsWord (s.fld R.CFS.ADDR 20 0 + i)).2.setRg (R.CFS.BUF i) (x.cfsWord (s.fld R.CFS.ADDR 20 0 + i)).1)
      (s.putBit R.CFS.STAT 1 false)).irq R.CFS.base 1 := if_neg h

/-- Before the journal entry is retired CFS_DONE does nothing (R526). -/
theorem State.cfsDone_early {s : State} {x : CfsTxn} (hx : s.pwr.cfs = some x) (he : x.ended s.now = false) : s.cfsDone = s := by
  simp [State.cfsDone, hx, he]
/-- The end of a transaction that is no repair (R526). -/
theorem State.cfsDone_ended {s : State} {x : CfsTxn} (hx : s.pwr.cfs = some x) (hr : x.repair = none) (he : x.ended s.now = true) :
    s.cfsDone = ((((s.cfsApply x).setPwr (fun p => { p with cfs := none })).putBit R.CFS.STAT 0 false).pwrPost 0x05
      (x.addr % 2 ^ 21)).irq R.CFS.base 1 := by
  simp [State.cfsDone, hx, hr, he]

section Commands
variable {s u : State} {t : Time} (ht : s.tick t = u)
include ht

theorem exec_settleDrop (k : Fin 5) : exec (.settleDrop t k) s = .next (u.settleDrop k) := by subst ht; rfl
theorem exec_pllRelock (p : Pll) : exec (.pllRelock t p) s = .next (u.relock p) := by subst ht; rfl
theorem exec_cfsWrite (m : Master) (hw : u.Writable R.CFS.base) : exec (.cfsWrite t m) s = .next u.cfsWrite := by
  subst ht
  exact congrArg Host.Outcome.next (State.onPage_writable hw)
theorem exec_cfsRead (m : Master) (hw : u.Writable R.CFS.base) : exec (.cfsRead t m) s = .next u.cfsRead := by
  subst ht
  exact congrArg Host.Outcome.next (State.onPage_writable hw)
theorem exec_cfsDone : exec (.cfsDone t) s = .next u.cfsDone := by subst ht; rfl
end Commands

end Sys2Proof.Machine
end

section
/-! PROOFS. The RTC, the backup SRAM, the fault record, the charger and the gauge, case by case (R530 to R534). -/

namespace Sys2Proof.Machine

/-- RTC_SET by a master that holds the lock waits for the next BCLK edge (R530). -/
theorem State.writeRtc_owner {s : State} {m : Master} (h : s.lockOk R.PWR.base m = true) (v : Nat) :
    s.writeRtc m v = (s.writeReg m R.PWR.base R.PWR.RTC_SET v).setPwr (fun _ =>
      { (s.writeReg m R.PWR.base R.PWR.RTC_SET v).pwr.rtcSync s.now with
        rtcNext := some (((s.writeReg m R.PWR.base R.PWR.RTC_SET v).pwr.rtcSync s.now).rtcAt +
          ((4 * s.now - ((s.writeReg m R.PWR.base R.PWR.RTC_SET v).pwr.rtcSync s.now).rtcAt) / bclk + 1) * bclk,
          v % 2 ^ 48 * 2 ^ 15 + v / 2 ^ 48 % 2 ^ 15) }) := by
  unfold State.writeRtc
  exact if_neg (by simp [h])

/-- Words 0 to 63 of the backup SRAM are kept from a write (R531). -/
theorem State.bsramWrite_kept {s : State} (h : s.fld R.PWR.BSRAM_ADDR 9 0 < 64) (v : Word) : s.bsramWrite v = s.bsramNext :=
  congrArg State.bsramNext (if_pos h)
theorem State.bsramWrite_stores {s : State} (h : 64 ≤ s.fld R.PWR.BSRAM_ADDR 9 0) (v : Word) :
    s.bsramWrite v = (s.stw s.bsramAt v).bsramNext := congrArg State.bsramNext (if_neg (Nat.not_lt.2 h))

/-- With V_FULL apart from V_EMPTY the charge that V_LOAD stands for is no open value (R534). -/
theorem State.gaugeQ_state {s : State} (h : wfld (s.rg R.PWR.GAUGE_CFG) 23 16 ≠ wfld (s.rg R.PWR.GAUGE_CFG) 31 24) (v : Nat) :
    (s.gaugeQ v).2 = s := by
  have hne : ¬ (20 * (wfld (s.rg R.PWR.GAUGE_CFG) 23 16 : Int) = 20 * (wfld (s.rg R.PWR.GAUGE_CFG) 31 24 : Int)) := by omega
  exact congrArg Prod.snd (if_neg hne)

/-- A test without VIO33, or within 60 s of the latest one (R534). -/
theorem State.gaugeTest_early {s : State} (h : s.bit R.PWR.SUP_STAT 5 = false ∨ s.now < s.pwr.gaugeAt + sec 60) (v : Nat)
    (q : Int) : s.gaugeTest v q = s := if_pos (by simpa using h)

/-- A count between the bounds at which V_LOAD corrects it stands (R534). -/
theorem State.gaugeTest_agrees {s : State} {v n : Nat} {q : Int} (hv : v < 2 ^ 16) (hs : s.bit R.PWR.SUP_STAT 5 = true)
    (hd : s.pwr.gaugeAt + sec 60 ≤ s.now) (hb : s.pwr.back = false)
    (hg : wfld (s.rg R.PWR.GAUGE_CFG) 23 16 ≠ wfld (s.rg R.PWR.GAUGE_CFG) 31 24)
    (hn : (clampI 0 0xFFFF ((s.fld R.PWR.GAUGE 15 0 : Int) + q)).toNat = n)
    (hlow : s.fld R.PWR.GAUGE_CFG 15 0 < 20 * n) (hweak : 5 * n < 4 * s.fld R.PWR.GAUGE_CFG 15 0) :
    s.gaugeTest v q = (s.setRg R.PWR.GAUGE (BitVec.ofNat 32 (n + v * 2 ^ 16))).setPwr
      (fun p => { p with gaugeAt := s.now, back := false }) := by
  have hdue : ¬ ((!s.bit R.PWR.SUP_STAT 5) = true ∨ s.now < s.pwr.gaugeAt + sec 60) := by simp [hs]; omega
  have hnotLow : ¬ 20 * n ≤ s.fld R.PWR.GAUGE_CFG 15 0 := by omega
  have hnotWeak : ¬ 4 * s.fld R.PWR.GAUGE_CFG 15 0 ≤ 5 * n := by omega
  unfold State.gaugeTest
  rw [if_neg hdue]
  simp only [hn, hnotLow, hnotWeak, hb, decide_false, Bool.false_and, Bool.or_false, Bool.false_eq_true, if_false,
    State.gaugeQ_state hg, Nat.mod_eq_of_lt hv]

section Commands
variable {s u : State} {t : Time} (ht : s.tick t = u)
include ht

theorem exec_rtcSet (m : Master) (d : DWord) (hw : u.Writable R.PWR.base) :
    exec (.rtcSet t m d) s = .next (u.writeRtc m d.toNat) := by
  subst ht
  exact congrArg Host.Outcome.next (State.onPage_writable hw)
theorem exec_xtalFail : exec (.xtalFail t) s = .next (if u.pwr.xtal then
    (u.putBit R.PWR.STICKY 6 true).setPwr (fun p => { p with rtc := u.rtcNow, rtcNext := none, xtal := false }) else u) := by
  subst ht; rfl
theorem exec_bsramDataRead (m : Master) (hu : u.up = true) :
    exec (.bsramDataRead t m) s = .next { u.bsramNext with rd := BitVec.ofNat 64 (u.ldw u.bsramAt).toNat } := by
  subst ht
  exact congrArg Host.Outcome.next (if_pos hu)
theorem exec_bsramDataWrite (m : Master) (v : Word) (hw : u.Writable R.PWR.base) :
    exec (.bsramDataWrite t m v) s = .next (u.bsramWrite v) := by
  subst ht
  exact congrArg Host.Outcome.next (State.onPage_writable hw)
theorem exec_frecAck (m : Master) (hw : u.Writable R.PWR.base) :
    exec (.frecAck t m) s = .next (u.setPwr (fun p => { p with frecAck := true })) := by
  subst ht
  exact congrArg Host.Outcome.next (State.onPage_writable hw)
/-- The charger finds no cell only while it charges (R533). -/
theorem exec_cellAbsent : exec (.cellAbsent t) s = .next (if u.chgOn ∧ (u.chg = 1 ∨ u.chg = 2) then
    ((((u.putFld R.PWR.CHG_STAT 1 0 3).putBit R.PWR.STICKY 3 true).setPwr (fun p => { p with tryAt := u.now })).cellPost 1)
    else u) := by
  subst ht; rfl
/-- A retry that is due notes its instant, and that the cell is back where it draws current (R533). -/
theorem exec_chargerRetry_due (h : u.chgOn = true ∧ u.chg = 3 ∧ u.pwr.tryAt + sec 10 ≤ u.now) (draws : Bool) :
    exec (.chargerRetry t draws) s = .next (if draws then
      ((u.setPwr (fun p => { p with tryAt := u.now, back := p.back || draws })).putFld R.PWR.CHG_STAT 1 0 1).cellPost 2
      else u.setPwr (fun p => { p with tryAt := u.now, back := p.back || draws })) := by
  subst ht
  exact congrArg Host.Outcome.next (if_pos h)
/-- Each threshold acts in the one state of the charger that waits for it (R533). -/
theorem exec_chargerThreshold (hon : u.chgOn = true) :
    (u.chg = 1 → exec (.chargerThreshold t 0) s = .next (u.putFld R.PWR.CHG_STAT 1 0 2)) ∧
    (u.chg = 2 → exec (.chargerThreshold t 1) s = .next (u.putFld R.PWR.CHG_STAT 1 0 0)) ∧
    (u.chg = 0 → exec (.chargerThreshold t 2) s = .next (u.putFld R.PWR.CHG_STAT 1 0 1)) := by
  have hexec : ∀ k, exec (.chargerThreshold t k) s = execChargerThreshold t k s := fun _ => rfl
  subst ht
  refine ⟨fun h => ?_, fun h => ?_, fun h => ?_⟩ <;> simp [hexec, execChargerThreshold, hon, h]
theorem exec_gaugeTest (v : Fin 65536) (q : Int) : exec (.gaugeTest t v q) s = .next (u.gaugeTest v q) := by subst ht; rfl
end Commands

end Sys2Proof.Machine
end

section
/-! PROOFS. The obligation on the backup domain, the configuration store, the charger and the gauge. -/

namespace Sys2Proof

open Sys2Proof.Machine

/-- Settles O59: each command is one operation of the power domain, taken in the case that the clause names. -/
theorem backupCommandsComplete : Obligations.backupCommandsComplete := by
  unfold Obligations.backupCommandsComplete
  refine ⟨?settleDropIdle, ?settleDrop, ?pllRelock, ?cfsWrite, ?cfsRefused, ?cfsRead, ?cfsDone, ?rtcSet, ?xtalFail, ?bsramRead,
    ?bsramWrite, ?frecAck, ?cellAbsent, ?chargerRetry, ?chargerThreshold, ?gaugeEarly, ?gaugeAgrees⟩
  case settleDropIdle =>
    intro s u t k ht hk h
    rw [exec_settleDrop ht, State.settleDrop_idle hk h]
  case settleDrop =>
    intro s u t k n ht hk h hn h0
    rw [exec_settleDrop ht, State.settleDrop_held hk h hn h0]
  case pllRelock =>
    intro s u t n ht
    rw [exec_pllRelock ht, exec_pllRelock ht]
    exact ⟨rfl, fun h => by rw [State.relock_c_lost h], fun h => by rw [State.relock_c_locked h]⟩
  case cfsWrite =>
    rintro s u t m a n ht hw hcfs hbrown rfl rfl h1 h64 hend
    have hfree : ¬ u.CfsBars := by
      simp only [State.CfsBars, State.cfsBusy, hcfs, hbrown, Option.isSome_none, Bool.false_eq_true, false_or]
      omega
    rw [exec_cfsWrite ht m hw, State.cfsWrite_begins hfree]
  case cfsRefused =>
    intro s u t m ht hw
    rw [exec_cfsWrite ht m hw, exec_cfsRead ht m hw]
    exact ⟨
      fun h => by rw [State.cfsWrite_refused (.inr (.inr (.inl h))), State.cfsRead_refused (.inl h)]; exact ⟨rfl, rfl⟩,
      fun h => by rw [State.cfsWrite_refused (.inr (.inr (.inr (.inl h)))), State.cfsRead_refused (.inr h)]; exact ⟨rfl, rfl⟩,
      fun h => by rw [State.cfsWrite_refused (.inl h)],
      fun h => by rw [State.cfsWrite_refused (.inr (.inl h))]⟩
  case cfsRead =>
    rintro s u t m a n ht hw rfl rfl h1 h64
    rw [exec_cfsRead ht m hw, State.cfsRead_legal (by omega)]
  case cfsDone =>
    intro s u t x ht hx hr
    rw [exec_cfsDone ht]
    exact ⟨fun he => by rw [State.cfsDone_ended hx hr he], fun he => by rw [State.cfsDone_early hx he]⟩
  case rtcSet =>
    rintro s u v t m d ht hw rfl hl
    rw [exec_rtcSet ht m d hw, State.writeRtc_owner hl]
  case xtalFail =>
    intro s u t ht
    rw [exec_xtalFail ht]
    exact ⟨fun h => by rw [if_pos h], fun h => by rw [h, if_neg Bool.false_ne_true]⟩
  case bsramRead => exact fun s u t m ht hu => exec_bsramDataRead ht m hu
  case bsramWrite =>
    intro s u t m v ht hw
    rw [exec_bsramDataWrite ht m v hw]
    exact ⟨fun h => by rw [State.bsramWrite_kept h], fun h => by rw [State.bsramWrite_stores h]⟩
  case frecAck => exact fun s u t m ht hw => exec_frecAck ht m hw
  case cellAbsent =>
    intro s u t ht
    rw [exec_cellAbsent ht]
    exact ⟨fun hon h => by rw [if_pos ⟨hon, .inl h⟩], fun hoff => by rw [if_neg (by simp [hoff])]⟩
  case chargerRetry =>
    intro s u t ht hon h hd
    rw [exec_chargerRetry_due ht ⟨hon, h, hd⟩, exec_chargerRetry_due ht ⟨hon, h, hd⟩]
    simp only [if_true, Bool.or_true, Bool.or_false, Bool.false_eq_true, if_false, and_self]
  case chargerThreshold => exact fun s u t ht hon => exec_chargerThreshold ht hon
  case gaugeEarly =>
    intro s u t v q ht
    rw [exec_gaugeTest ht]
    exact ⟨fun h => by rw [State.gaugeTest_early (.inl h)], fun h => by rw [State.gaugeTest_early (.inr h)]⟩
  case gaugeAgrees =>
    intro s u t v q n ht hs hd hb hg hn hlow hweak
    rw [exec_gaugeTest ht, State.gaugeTest_agrees v.isLt hs hd hb hg hn hlow hweak]

end Sys2Proof
end

section
/-! PROOFS. PARK_WRITE: RUN is written as it stands, and the outputs follow where RUN reads otherwise after the write (R256,
R261). -/

namespace Sys2Proof.Machine

/-- The write of PARK by itself: the value kept, and a new one noted with the instant it reached the page (R261). -/
def State.parkKept (s : State) (a : Nat) (p : Bool) : State :=
  (s.putBit (R.SLUICE.AX_CTRL a) 1 p).setAx a (fun x =>
    if p = s.bit (R.SLUICE.AX_CTRL a) 1 then x else { x with parkPend := x.parkPend ++ [(p, s.now)] })

/-- A write of `AX[a].CTRL` with RUN as it stands writes PARK alone (R261). -/
theorem State.writeRun_runAsIs (s : State) (a : Nat) (p : Bool) :
    s.writeRun a (b2n (s.axRun a) + 2 * b2n p) = s.parkKept a p := by
  have hrun : ∀ r q : Bool, bitN (b2n r + 2 * b2n q) 0 = r := by decide
  have hpark : ∀ r q : Bool, bitN (b2n r + 2 * b2n q) 1 = q := by decide
  simp [State.writeRun, State.parkKept, hrun, hpark]

/-- What PARK_WRITE leaves: the kept PARK, and the Brakewheel's outputs brought up to date where RUN reads otherwise. -/
theorem exec_parkWrite {s u : State} {t : Time} (ht : s.tick t = u) (m : Master) (a : Fin 64) (p : Bool)
    (hw : u.Writable R.SLUICE.base) :
    exec (.parkWrite t m a p) s =
      .next (if (u.parkKept a p).axRun a = u.axRun a then u.parkKept a p else (u.parkKept a p).bwSync) := by
  have hcmd : exec (.parkWrite t m a p) s =
      .next (u.onPage R.SLUICE.base (fun s => s.writeAxRun a (b2n (s.axRun a) + 2 * b2n p))) := by subst ht; rfl
  rw [hcmd, State.onPage_writable hw, State.writeAxRun, State.writeRun_runAsIs]

/-- In a canonical state PARK_WRITE leaves RUN, so that a new value is kept and nothing else follows (R261). -/
theorem exec_parkWrite_canonical {s u : State} {t : Time} (ht : s.tick t = u) (hc : u.Canonical) (m : Master) (a : Fin 64)
    (p : Bool) (hw : u.Writable R.SLUICE.base) (hp : u.bit (R.SLUICE.AX_CTRL a) 1 ≠ p) :
    exec (.parkWrite t m a p) s = .next ((u.putBit (R.SLUICE.AX_CTRL a) 1 p).setAx a
      (fun x => { x with parkPend := x.parkPend ++ [(p, u.now)] })) := by
  have hrun : (u.parkKept a p).axRun a = u.axRun a := State.bit_putBit_bit hc _ 1 0 p (by omega) (by omega)
  rw [exec_parkWrite ht m a p hw, if_pos hrun, State.parkKept]
  simp only [Ne.symm hp, if_false]

end Sys2Proof.Machine
end

section
/-! PROOFS. What the Brakewheel's outputs come to: the field outputs are evaluated last, so that of FO31 no on-time goes on while
a condition holds it off (R386, R466). -/

namespace Sys2Proof.Machine

/-- Evaluated, an output that a condition holds off has no end of an on-time before it (R386). -/
theorem State.foEval_held {s : State} {j : Nat} (hj : j < 32) :
    ((s.foEval j).fout j).offAt = none ∨ (s.foEval j).foHeld j = false := by
  have hoff : ∀ x : State, (x.fout j).offAt = none → ((x.foSwitch j false).fout j).offAt = none := by
    intro x hx
    have hkeep : ∀ y : State, ((y.putBit (R.FIELD.FO_STAT j) 0 false).putBit R.FIELD.FO_ON j false).fout j = y.fout j :=
      fun _ => rfl
    unfold State.foSwitch
    rw [if_neg Bool.false_ne_true, hkeep]
    split
    · exact hx
    · rw [State.fout, State.setFout, vget_vupd_same _ _ _ hj]
      exact hx
  unfold State.foEval
  split
  case isTrue => exact .inl (hoff _ (by rw [State.fout, State.setFout, vget_vupd_same _ _ _ hj]))
  case isFalse h => exact .inr (Bool.eq_false_iff.2 h)

/-- The Brakewheel's outputs brought up to date end with the evaluation of FO31. -/
theorem State.bwSync_foEval (s : State) : ∃ x : State, s.bwSync = x.foEval 31 := by
  have hlast : ∀ y : State, ∃ x : State, y.runSync = x.foEval 31 := fun y => by
    rw [State.runSync, State.foEvalAll, List.range_succ, List.foldl_append, List.foldl_cons, List.foldl_nil]
    exact ⟨_, rfl⟩
  unfold State.bwSync
  exact hlast _

/-- The register table lists `AX[0].CTRL` twice: PARK reads 1 and RUN reads 0 while the first entry stands, and RUN = 1 in the
second. The end of an on-time of FO31 stands, though the device is not in RUN. -/
def State.ctrlTwice : State :=
  ({ State.reset with regs := [(R.SLUICE.AX_CTRL 0, 2), (R.SLUICE.AX_CTRL 0, 1)] } : State).setFout 31
    (fun f => { f with offAt := some 0 })

end Sys2Proof.Machine
end

section
/-! PROOFS. The obligation on the commands of the Sluice. -/

namespace Sys2Proof

open Sys2Proof.Machine

/-- Refutes O28: the clause on PARK_WRITE does not require a canonical register table. Where the table lists `AX[0].CTRL` twice,
PARK = 0 uncovers the second entry, RUN changes, and the outputs follow, which the clause leaves out: FO31, held off as the
device is not in RUN, loses the end of its on-time. In a canonical state the clause holds (`exec_parkWrite_canonical`). -/
theorem not_sluiceCommandsComplete : ¬ Obligations.sluiceCommandsComplete := by
  unfold Obligations.sluiceCommandsComplete
  rintro ⟨-, -, -, -, -, -, -, -, -, -, -, hpark, -⟩
  have ht : State.ctrlTwice.tick 0 = State.ctrlTwice := State.tick_of (by decide +kernel)
  have hw : State.ctrlTwice.Writable R.SLUICE.base := ⟨by decide +kernel, by decide +kernel, by decide +kernel⟩
  have hstated := hpark State.ctrlTwice State.ctrlTwice 0 .host 0 false ht hw (by decide +kernel)
  have hrun : (State.ctrlTwice.parkKept 0 false).axRun 0 ≠ State.ctrlTwice.axRun 0 := by decide +kernel
  have hdone : exec (.parkWrite 0 .host 0 false) State.ctrlTwice = .next (State.ctrlTwice.parkKept 0 false).bwSync :=
    (exec_parkWrite ht .host 0 false hw).trans (congrArg _ (if_neg hrun))
  obtain ⟨x, hx⟩ := State.bwSync_foEval (State.ctrlTwice.parkKept 0 false)
  have hfixed := hx.symm.trans (Host.Outcome.next.inj (hdone.symm.trans hstated))
  have hheld := State.foEval_held (s := x) (j := 31) (by omega)
  rw [hfixed] at hheld
  exact absurd hheld (by decide +kernel)

end Sys2Proof
end

section
/-! PROOFS. An access to a register page by its width: partial, misaligned and 64-bit accesses (R33, R35, R50). -/

namespace Sys2Proof.Machine

/-- A misaligned address is not mapped (R33). -/
theorem mapped_misaligned {a nb : Nat} (h : a % nb ≠ 0) : mapped a nb = false := by
  simp [mapped, h]

/-- A write of fewer than 32 bits, or with a byte enable clear, is discarded and recorded (R35). -/
theorem State.busWrite_partial {s : State} {m : Master} {a nb be v : Nat} (hu : s.up = true) (h : mapped a nb = true)
    (hlow : a < 0x2000000) (hp : nb < 4 ∨ be % 2 ^ nb ≠ 2 ^ nb - 1) : s.busWrite m a nb be v = s.mapErr m a 1 := by
  unfold State.busWrite
  rw [hu, h, Bool.not_true, if_neg Bool.false_ne_true, if_neg Bool.false_ne_true, if_pos hlow, if_pos hp]

/-- A 64-bit write with all byte enables to a register page (R50). -/
theorem State.busWrite_pair {s : State} {m : Master} {a be v : Nat} (hu : s.up = true) (h : mapped a 8 = true)
    (hlow : a < 0x2000000) (hb : be = 255) : s.busWrite m a 8 be v = s.writePair m a v := by
  have hall : ¬ (8 < 4 ∨ be % 2 ^ 8 ≠ 2 ^ 8 - 1) := by omega
  unfold State.busWrite
  rw [hu, h, Bool.not_true, if_neg Bool.false_ne_true, if_neg Bool.false_ne_true, if_pos hlow, if_neg hall, if_pos rfl]

/-- A 64-bit write of a 64-bit register is one complete write (R50). -/
theorem State.writePair_wide {s : State} {m : Master} {a v : Nat} {r : RegRow} (hw : s.Writable (pageOf a))
    (hf : findReg (bankOf (s.selOf m) a) = some (r, false)) (hn : r.wide = true) : s.writePair m a v = s.writeFull m a v := by
  simp [State.writePair, hf, hn, State.onPage_writable hw]

/-- A 64-bit write of registers of 32 bits writes two words, the low one first (R50). -/
theorem State.writePair_narrow {s : State} {m : Master} {a v : Nat} {r : RegRow}
    (hf : findReg (bankOf (s.selOf m) a) = some (r, false)) (hn : r.wide = false) :
    s.writePair m a v = (s.writeWord m a (v % 2 ^ 32) false).writeWord m (a + 4) (v / 2 ^ 32) false := by
  rw [← Nat.shiftRight_eq_div_pow]
  simp [State.writePair, hf, hn]

end Sys2Proof.Machine
end

section
/-! PROOFS. The holding registers of a page beside the regular pair: a high word whose low word the master does not hold, and a
write that aborts an unlock sequence (R41, R48, R49). -/

namespace Sys2Proof.Machine

/-- A read of the high word by a master that does not hold it, or after the low word of another register, is live (R48). -/
theorem State.readWord_pairHigh_live {s : State} {m h : Master} {a lo : Nat} {w : Word} {r : RegRow} (ho : 0x40 ≤ offOf a)
    (he : s.readEffect m a = none) (hf : findReg (bankOf (s.selOf m) a) = some (r, true)) (hn : r.wide = true)
    (hh : (s.page (pageOf a)).rdHold = some (h, lo, w)) (hne : h ≠ m ∨ lo + 4 ≠ offOf a) :
    s.readWord m a true = (s.view m a, s.pairErr (pageOf a)) := by
  have h40 : ¬ offOf a < 0x40 := by omega
  have hnot : ¬ (h = m ∧ lo + 4 = offOf a) := by rintro ⟨rfl, hlo⟩; exact hne.elim (· rfl) (· hlo)
  simp [State.readWord, h40, he, hf, hn, hh, hnot]

/-- The read-holding register just set. -/
theorem State.rdHold_setPage {s : State} (hc : s.Canonical) (pg : Nat) (x : Option (Master × Nat × Word)) :
    ((s.setPage pg (fun p => { p with rdHold := x })).page pg).rdHold = x := by
  rw [State.page_setPage_same hc]

/-- A write that reaches a page in no soft reset aborts an open unlock sequence and then has its own effect (R38, R41). -/
theorem State.onPage_idle {s : State} {pg : Nat} {k : State → State} (hu : s.up = true) (hb : s.busy pg = false) :
    s.onPage pg k = k (s.abortSeq pg) := by
  simp [State.onPage, hu, hb]

/-- With no unlock sequence open there is nothing to abort. -/
theorem State.abortSeq_shut {s : State} {pg : Nat} (h : (s.page pg).keySeq = none) : s.abortSeq pg = s := by
  simp [State.abortSeq, h]

/-- An open unlock sequence is closed and counted (R41). -/
theorem State.abortSeq_open {s : State} {pg : Nat} {m : Master} {t0 : Time} (h : (s.page pg).keySeq = some (m, t0)) :
    s.abortSeq pg = (s.setPage pg (fun p => { p with keySeq := none })).failInc pg := by
  simp [State.abortSeq, h]

/-- Aborting an unlock sequence leaves every selector. -/
@[simp] theorem State.abortSeq_selOf (s : State) (pg : Nat) (m : Master) : (s.abortSeq pg).selOf m = s.selOf m := by
  unfold State.abortSeq
  split <;> rfl

/-- Aborting an unlock sequence leaves the write-holding register. -/
theorem State.abortSeq_wrHold {s : State} (hc : s.Canonical) (pg : Nat) :
    ((s.abortSeq pg).page pg).wrHold = (s.page pg).wrHold := by
  cases hk : (s.page pg).keySeq with
  | none => rw [State.abortSeq_shut hk]
  | some k =>
    rw [State.abortSeq_open hk, State.failInc, State.count, State.putFld_page, State.page_setPage_same hc]

section Write
variable {s : State} {m : Master} {a v : Nat} {r : RegRow} (hu : s.up = true) (hb : s.busy (pageOf a) = false)
  (ho : 0x40 ≤ offOf a) (hn : r.wide = true)
include hu hb ho hn

/-- A write to the low word waits in the write-holding register; it aborts an open unlock sequence (R41, R49). -/
theorem State.writeWord_pairLow_abort (hf : findReg (bankOf (s.selOf m) a) = some (r, false)) :
    s.writeWord m a v true = (s.abortSeq (pageOf a)).setPage (pageOf a)
      (fun p => { p with wrHold := some (m, offOf a, BitVec.ofNat 32 v) }) := by
  have h14 : offOf a ≠ 0x14 := by omega
  have h40 : ¬ offOf a < 0x40 := by omega
  simp [State.writeWord, h14, h40, State.onPage_idle hu hb, hf, hn]

/-- A write to the high word completes the held write; it aborts an open unlock sequence (R41, R49). -/
theorem State.writeWord_pairHigh_abort {lo : Nat} {w : Word} (hc : s.Canonical)
    (hf : findReg (bankOf (s.selOf m) a) = some (r, true)) (hh : (s.page (pageOf a)).wrHold = some (m, lo, w))
    (hlo : lo + 4 = offOf a) :
    s.writeWord m a v true = ((s.abortSeq (pageOf a)).setPage (pageOf a) (fun p => { p with wrHold := none })).writeFull m
      (a - 4) (w.toNat + v * 2 ^ 32) := by
  have h14 : offOf a ≠ 0x14 := by omega
  have h40 : ¬ offOf a < 0x40 := by omega
  simp [State.writeWord, h14, h40, State.onPage_idle hu hb, hf, hn, State.abortSeq_wrHold hc, hh, hlo]

/-- A write to the high word that completes no held write is discarded with PAIR_ERR (R49). -/
theorem State.writeWord_pairHigh_alone (hc : s.Canonical) (hf : findReg (bankOf (s.selOf m) a) = some (r, true))
    (hne : ∀ h lo w, (s.page (pageOf a)).wrHold = some (h, lo, w) → h ≠ m ∨ lo + 4 ≠ offOf a) :
    s.writeWord m a v true = (s.abortSeq (pageOf a)).pairErr (pageOf a) := by
  have h14 : offOf a ≠ 0x14 := by omega
  have h40 : ¬ offOf a < 0x40 := by omega
  cases hh : (s.page (pageOf a)).wrHold with
  | none => simp [State.writeWord, h14, h40, State.onPage_idle hu hb, hf, hn, State.abortSeq_wrHold hc, hh]
  | some held =>
    obtain ⟨h, lo, w⟩ := held
    have hnot : ¬ (h = m ∧ lo + 4 = offOf a) := by
      rintro ⟨rfl, hlo⟩
      exact (hne h lo w hh).elim (· rfl) (· hlo)
    simp [State.writeWord, h14, h40, State.onPage_idle hu hb, hf, hn, State.abortSeq_wrHold hc, hh, hnot]
end Write

end Sys2Proof.Machine
end

section
/-! PROOFS. What a read to clear leaves while no capture is held (R51). -/

namespace Sys2Proof.Machine

/-- While no capture is held the RC bits of the live word are cleared. -/
theorem State.readClear_live {s : State} {pg : Nat} (hz : s.frozen pg = false) (b : Nat) (r : RegRow) :
    s.readClear pg b r = if readMask b r = 0 then s else
      s.setRg b (BitVec.ofNat 32 ((s.rg b).toNat ^^^ ((s.rg b).toNat &&& readMask b r))) := by
  simp [State.readClear, State.snapOf, hz]

/-- A read to clear leaves memory. -/
theorem State.readClear_mem {s : State} {pg : Nat} (hz : s.frozen pg = false) (b : Nat) (r : RegRow) :
    (s.readClear pg b r).mem = s.mem := by
  rw [State.readClear_live hz]
  split <;> rfl

/-- A read to clear leaves the other registers. -/
theorem State.rg_readClear_other {s : State} {pg b c : Nat} (hc : s.Canonical) (hz : s.frozen pg = false) (r : RegRow)
    (hne : c ≠ b) : (s.readClear pg b r).rg c = s.rg c := by
  rw [State.readClear_live hz]
  split
  · rfl
  · exact State.rg_setRg_other hc _ _ _ hne

/-- A read to clear clears the bits of the mask and leaves the others. -/
theorem State.bit_readClear {s : State} {pg i : Nat} (hc : s.Canonical) (hz : s.frozen pg = false) (b : Nat) (r : RegRow)
    (hi : i < 32) : (s.readClear pg b r).bit b i = (s.bit b i && !(readMask b r).testBit i) := by
  rw [State.readClear_live hz]
  split
  case isTrue hk => rw [hk, Nat.zero_testBit, Bool.not_false, Bool.and_true]
  case isFalse =>
    rw [State.bit_setRg_ofNat hc _ _ _ hi, Nat.testBit_xor, Nat.testBit_and, State.bit, wbit]
    cases (s.rg b).toNat.testBit i <;> simp

end Sys2Proof.Machine
end

section
/-! PROOFS. A write of `PG_LOCK`, case by case, and what counting in FAILS changes (R41, R42, R569). -/

namespace Sys2Proof.Machine

/-- An open unlock sequence, if there is one, has not lasted more than 1 us (R41). -/
def State.SeqInTime (s : State) (pg : Nat) : Prop :=
  ∀ h t0, (s.page pg).keySeq = some (h, t0) → s.now ≤ t0 + us 1

section Sequence
variable {s : State} {pg : Nat}

theorem State.seqInTime_shut (h : (s.page pg).keySeq = none) : s.SeqInTime pg := by
  intro m t0 hk
  rw [h] at hk
  cases hk

theorem State.seqInTime_open {h : Master} {t0 : Time} (hk : (s.page pg).keySeq = some (h, t0)) (ht : s.now ≤ t0 + us 1) :
    s.SeqInTime pg := by
  intro h' t' hk'
  cases hk.symm.trans hk'
  exact ht

/-- A sequence in time does not lapse (R41). -/
theorem State.unlockTimeout_inTime (h : s.SeqInTime pg) : s.unlockTimeout pg = s := by
  cases hk : (s.page pg).keySeq with
  | none => simp [State.unlockTimeout, hk]
  | some k => simp [State.unlockTimeout, hk, h k.1 k.2 hk]

/-- A sequence that has lasted more than 1 us is aborted (R41). -/
theorem State.unlockTimeout_late {m : Master} {t0 : Time} (hk : (s.page pg).keySeq = some (m, t0)) (h : t0 + us 1 < s.now) :
    s.unlockTimeout pg = s.abortSeq pg := by
  simp [State.unlockTimeout, hk, h]

/-- The page locks 10 ms after the latest lock event (R42). -/
theorem State.lockTimeout_due (hb : s.bit (R.PG_LOCK pg) 0 = true) (h : (s.page pg).lockFrom + ms 10 ≤ s.now) :
    s.lockTimeout pg = s.putFld (R.PG_LOCK pg) 3 0 0 := if_pos ⟨hb, h⟩

/-- No master owns a locked page. -/
theorem State.owns_locked (h : s.bit (R.PG_LOCK pg) 0 = false) (m : Master) : s.owns pg m = false := by
  rw [State.owns, h, Bool.false_and]

end Sequence

section LockWrite
variable {s : State} {m : Master} {pg : Nat} (ht : s.SeqInTime pg)
include ht

/-- The first key opens a sequence of its writer (R41). -/
theorem State.lockWrite_firstKey :
    s.lockWrite m pg 0xC41A = (s.abortSeq pg).setPage pg (fun p => { p with keySeq := some (m, s.now) }) := by
  simp [State.lockWrite, State.unlockTimeout_inTime ht]

/-- The second key of the sequence's own master makes it the owner of the unlocked page (R41). -/
theorem State.lockWrite_secondKey {t0 : Time} (hk : (s.page pg).keySeq = some (m, t0)) :
    s.lockWrite m pg 0xA14C = ((s.putFld (R.PG_LOCK pg) 3 1 m.code).putBit (R.PG_LOCK pg) 0 true).setPage pg
      (fun p => { p with keySeq := none, lockFrom := s.now }) := by
  simp [State.lockWrite, State.unlockTimeout_inTime ht, hk]

/-- The owner's 0 locks the page; an open sequence is aborted (R569). -/
theorem State.lockWrite_zero_owner (ho : s.owns pg m = true) :
    s.lockWrite m pg 0 = (s.abortSeq pg).putFld (R.PG_LOCK pg) 3 0 0 := by
  simp [State.lockWrite, State.unlockTimeout_inTime ht, ho, State.lockPage]

/-- A write of no key and no 0 of the owner counts once: an open sequence as it is aborted, and otherwise unless it is a 0 to a
locked page (R569). -/
theorem State.lockWrite_plain {v : Nat} (h1 : v ≠ 0xC41A) (h2 : v ≠ 0xA14C ∨ ∀ t0, (s.page pg).keySeq ≠ some (m, t0))
    (h0 : v ≠ 0 ∨ s.owns pg m = false) :
    s.lockWrite m pg v =
      if (s.page pg).keySeq.isSome ∨ (v = 0 ∧ s.bit (R.PG_LOCK pg) 0 = false) then s.abortSeq pg else s.failInc pg := by
  have hzero : ¬ (v = 0 ∧ s.owns pg m = true) := by
    rintro ⟨rfl, ho⟩
    exact h0.elim (· rfl) (fun h => by rw [ho] at h; cases h)
  cases hk : (s.page pg).keySeq with
  | none => simp [State.lockWrite, State.unlockTimeout_inTime ht, hk, h1, hzero, State.abortSeq_shut hk]
  | some k =>
    obtain ⟨h, t0⟩ := k
    have hkey : ¬ (v = 0xA14C ∧ h = m) := by
      rintro ⟨rfl, rfl⟩
      exact h2.elim (· rfl) (· t0 hk)
    simp [State.lockWrite, State.unlockTimeout_inTime ht, hk, h1, hkey, hzero]

end LockWrite

/-- While no sequence is open, a value that is neither 0 nor the first key counts (R569). -/
theorem State.lockWrite_shut {s : State} {m : Master} {pg v : Nat} (hk : (s.page pg).keySeq = none) (h1 : v ≠ 0xC41A)
    (h0 : v ≠ 0) : s.lockWrite m pg v = s.failInc pg := by
  rw [State.lockWrite_plain (State.seqInTime_shut hk) h1 (.inr (by simp [hk])) (.inl h0), if_neg (by simp [hk, h0])]

/-- A field of a word below a field just set. -/
theorem wfld_wput_below (w : Word) (hi lo v top bot : Nat) (hl : lo ≤ hi) (hh : hi < 32) (ht : top < lo) :
    wfld (wput w hi lo v) top bot = wfld w top bot := by
  apply Nat.eq_of_testBit_eq
  intro k
  rw [wfld, wfld, bitsN, bitsN, Nat.testBit_mod_two_pow, Nat.testBit_mod_two_pow, Nat.testBit_shiftRight,
    Nat.testBit_shiftRight]
  by_cases hk : k < top + 1 - bot
  · have hbit : wbit (wput w hi lo v) (bot + k) = wbit w (bot + k) := by rw [wbit_wput _ _ _ _ _ hl hh, if_neg (by omega)]
    rw [show (wput w hi lo v).toNat.testBit (bot + k) = w.toNat.testBit (bot + k) from hbit]
  · simp [hk]

section Fails
variable {s : State} (hc : s.Canonical) (pg : Nat)
include hc

/-- FAILS saturates at 0xFF. -/
theorem State.fails_failInc :
    (s.failInc pg).fld (R.PG_LOCK pg) 15 8 = min 0xFF (s.fld (R.PG_LOCK pg) 15 8 + 1) :=
  State.fld_count_same hc _ 15 8 1 (by omega) (by omega)
/-- Counting leaves the lock and its owner. -/
theorem State.lock_failInc : (s.failInc pg).fld (R.PG_LOCK pg) 3 0 = s.fld (R.PG_LOCK pg) 3 0 := by
  rw [State.fld, State.failInc, State.count, State.putFld, State.rg_setRg_same hc,
    wfld_wput_below _ _ _ _ _ _ (by omega) (by omega) (by omega), State.fld]
/-- Counting leaves every other register. -/
theorem State.rg_failInc_other {b : Nat} (hb : b ≠ R.PG_LOCK pg) : (s.failInc pg).rg b = s.rg b :=
  State.rg_setRg_other hc _ _ _ hb
end Fails

end Sys2Proof.Machine
end

section
/-! PROOFS. Writes of `PG_CTRL` that leave EN, and writes of `PG_SHADOW` (R38, R39, R46). -/

namespace Sys2Proof.Machine

theorem tyOf_pageOf (a : Nat) : tyOf (pageOf a) = tyOf a := by
  unfold tyOf pageOf; omega
theorem instOf_pageOf (a : Nat) : instOf (pageOf a) = instOf a := by
  unfold instOf pageOf; omega

/-- The bits of a control word: EN as it stands, SRST and FREEZE. -/
theorem State.bitN_ctrlWord (s : State) (pg : Nat) (srst freeze : Bool) :
    bitN (s.ctrlWord pg srst freeze).toNat 0 = s.en pg ∧ bitN (s.ctrlWord pg srst freeze).toNat 1 = srst ∧
    bitN (s.ctrlWord pg srst freeze).toNat 2 = freeze := by
  unfold State.ctrlWord
  generalize s.en pg = e
  revert e srst freeze
  decide

/-- A write of `PG_CTRL` with EN as it stands: the soft reset first, then the freeze (R38, R39). -/
theorem State.writePgCtrl_ctrlWord {s : State} {pg : Nat} (srst freeze : Bool)
    (hb : s.en pg = false ∨ s.bistOn 4 (instOf pg) = false) :
    s.writePgCtrl pg (s.ctrlWord pg srst freeze).toNat =
      if freeze then (if srst then s.softReset pg else s).freezePage pg
      else (if srst then s.softReset pg else s).freezeRelease pg := by
  obtain ⟨h0, h1, h2⟩ := s.bitN_ctrlWord pg srst freeze
  have hbist : ¬ (tyOf pg = 0x6 ∧ s.en pg = true ∧ s.bistOn 4 (instOf pg) = true) := by
    rintro ⟨-, he, hr⟩
    rcases hb with h | h
    · rw [h] at he; cases he
    · rw [h] at hr; cases hr
  simp [State.writePgCtrl, h0, h1, h2, hbist]

/-- A page that is disabled takes a soft reset (R38, R59). -/
theorem State.softReset_disabled {s : State} {pg : Nat} (hf : enFixed (tyOf pg) = false) (he : s.en pg = false) :
    s.softReset pg = (((((if tyOf pg = 0x13 then s.ptpReset (instOf pg == 1) else s).putBit (R.PG_STAT pg) 1 false).putBit
      (R.PG_STAT pg) 0 true).putBit (R.PG_CTRL pg) 1 true).setPage pg
      (fun p => { p with staged := [], resetAt := some s.now })) := by
  simp [State.softReset, hf, he]

/-- An accepted soft reset completes (R38). -/
theorem State.softResetDone_busy {s : State} {pg : Nat} (h : s.busy pg = true) :
    s.softResetDone pg =
      ((s.resetRegs pg).setPage pg (fun p => { keySeq := p.keySeq, lockFrom := p.lockFrom })).resetBlock pg := by
  simp [State.softResetDone, h]

/-- HOLD is set (R46). -/
theorem State.writeShadow_hold (s : State) (pg : Nat) : s.writeShadow pg 1 = s.putBit (R.PG_SHADOW pg) 0 true := by
  have hhold : bitN 1 0 = true := by decide
  have hdiscard : bitN 1 1 = false := by decide
  simp [State.writeShadow, hhold, hdiscard]
/-- HOLD is cleared, and the staged writes go from now on (R46). -/
theorem State.writeShadow_release {s : State} {pg : Nat} (h : s.bit (R.PG_SHADOW pg) 0 = true) :
    s.writeShadow pg 0 = (s.putBit (R.PG_SHADOW pg) 0 false).setPage pg
      (fun p => { p with staged := p.staged.map (fun w => { w with from_ := max w.from_ s.now }) }) := by
  have hnone : ∀ i, bitN 0 i = false := Nat.zero_testBit
  simp [State.writeShadow, hnone, h]
/-- DISCARD drops the staged writes (R46). -/
theorem State.writeShadow_discard {s : State} {pg : Nat} (h : s.bit (R.PG_SHADOW pg) 0 = false) :
    s.writeShadow pg 2 = (s.putBit (R.PG_SHADOW pg) 0 false).setPage pg (fun p => { p with staged := [] }) := by
  have hhold : bitN 2 0 = false := by decide
  have hdiscard : bitN 2 1 = true := by decide
  simp [State.writeShadow, hhold, hdiscard, h]

end Sys2Proof.Machine
end

section
/-! PROOFS. A complete write of a register with RW-L fields (R42, R43, R483). -/

namespace Sys2Proof.Machine

/-- A complete write with no effect of its own, to a register with no staged field, is a write of its row (R8). -/
theorem State.writeFull_row {s : State} {m : Master} {a v : Nat} {r : RegRow} (hp : s.pageHook m a v = none)
    (hf : findReg (bankOf (s.selOf m) a) = some (r, false)) (hs : r.rws = 0) :
    s.writeFull m a v = s.writeRow m (pageOf a) (bankOf (s.selOf m) a) r v := by
  simp [State.writeFull, hp, hf, hs]

/-- A complete write with an effect of its own has that effect. -/
theorem State.writeFull_hook {s x : State} {m : Master} {a v : Nat} (hp : s.pageHook m a v = some x) : s.writeFull m a v = x := by
  simp [State.writeFull, hp]

section Row
variable {s : State} {m : Master} {pg a v : Nat} {r : RegRow} (hs : r.rws = 0) (hl : r.rwl ≠ 0)
include hs hl

/-- The owner's write of a safety page is logged, takes the RW-L fields, and starts the lock's time again (R42, R43, R483). -/
theorem State.writeRow_logged (hn : r.wide = false) (hk : s.lockOk pg m = true) (hy : isSafety pg = true)
    (hg : s.logFull = false) :
    s.writeRow m pg a r v = ((s.logEntry pg (a % 0x1000) 0 (wordOf false (s.rowVal r a))
      (wordOf false (r.written true (s.rowVal r a) v))).setRow r a (r.written true (s.rowVal r a) v)).setPage pg
        (fun p => { p with lockFrom := s.now }) := by
  have hroom : s.logShort r = false := by
    rw [State.logFull, decide_eq_false_iff_not] at hg
    rw [State.logShort, hn, if_neg Bool.false_ne_true, decide_eq_false_iff_not]
    omega
  simp [State.writeRow, hs, hl, hk, hy, hroom, hn]

/-- A write without the lock that would change a RW-L field takes the other fields alone and counts (R42). -/
theorem State.writeRow_unlocked (hk : s.lockOk pg m = false)
    (hd : (s.rowVal r a ^^^ r.written true (s.rowVal r a) v) &&& r.rwl ≠ 0) :
    s.writeRow m pg a r v = (s.setRow r a (r.written false (s.rowVal r a) v)).failInc pg := by
  simp [State.writeRow, hs, hl, hk, hd]
end Row

end Sys2Proof.Machine
end

section
/-! PROOFS. The commands of the page header as writes of a header word of their page (R37 to R46, R569). -/

namespace Sys2Proof.Machine

variable {s u : State} {t : Time} (ht : s.tick t = u) (m : Master) (a : BitVec 26)

section Header
include ht

theorem exec_softReset (hw : u.Writable (pageOf a.toNat)) (hr : IsReg (R.PG_CTRL (pageOf a.toNat))) :
    exec (.softReset t m a) s = .next (u.writePgCtrl (pageOf a.toNat)
      (u.ctrlWord (pageOf a.toNat) true (u.frozen (pageOf a.toNat))).toNat) := by
  subst ht
  exact congrArg Host.Outcome.next (State.write32_header hw hr (by decide) (by decide))
theorem exec_freezeCapture (hw : u.Writable (pageOf a.toNat)) (hr : IsReg (R.PG_CTRL (pageOf a.toNat))) :
    exec (.freezeCapture t m a) s = .next (u.writePgCtrl (pageOf a.toNat)
      (u.ctrlWord (pageOf a.toNat) false true).toNat) := by
  subst ht
  exact congrArg Host.Outcome.next (State.write32_header hw hr (by decide) (by decide))
theorem exec_freezeRelease (hw : u.Writable (pageOf a.toNat)) (hr : IsReg (R.PG_CTRL (pageOf a.toNat))) :
    exec (.freezeRelease t m a) s = .next (u.writePgCtrl (pageOf a.toNat)
      (u.ctrlWord (pageOf a.toNat) false false).toNat) := by
  subst ht
  exact congrArg Host.Outcome.next (State.write32_header hw hr (by decide) (by decide))
theorem exec_irqClear (v : Word) (hw : u.Writable (pageOf a.toNat)) (hr : IsReg (R.PG_IRQ (pageOf a.toNat))) :
    exec (.irqClear t m a v) s = .next (u.writePgIrq (pageOf a.toNat) v.toNat) :=
  (exec_irqClear_write32 ht m a v).trans (congrArg Host.Outcome.next (State.write32_header hw hr (by decide) (by decide)))
theorem exec_shadowHold (on : Bool) (hw : u.Writable (pageOf a.toNat)) (hr : IsReg (R.PG_SHADOW (pageOf a.toNat))) :
    exec (.shadowHold t m a on) s = .next (u.writeShadow (pageOf a.toNat) (b2n on)) := by
  subst ht
  cases on <;> exact congrArg Host.Outcome.next (State.write32_header hw hr (by decide) (by decide))
theorem exec_shadowDiscard (hw : u.Writable (pageOf a.toNat)) (hr : IsReg (R.PG_SHADOW (pageOf a.toNat)))
    (hh : u.bit (R.PG_SHADOW (pageOf a.toNat)) 0 = false) :
    exec (.shadowDiscard t m a) s = .next (u.writeShadow (pageOf a.toNat) 2) := by
  have hcmd : exec (.shadowDiscard t m a) s = .next (u.write32 m (R.PG_SHADOW (pageOf a.toNat))
    (BitVec.ofNat 32 (b2n (u.bit (R.PG_SHADOW (pageOf a.toNat)) 0) + 2))) := by subst ht; rfl
  rw [hcmd, hh]
  exact congrArg Host.Outcome.next (State.write32_header hw hr (by decide) (by decide))

theorem exec_softResetDone : exec (.softResetDone t a) s = .next (u.softResetDone (pageOf a.toNat)) := by subst ht; rfl
theorem exec_unlockTimeout : exec (.unlockTimeout t a) s = .next (u.unlockTimeout (pageOf a.toNat)) := by subst ht; rfl
theorem exec_lockTimeout : exec (.lockTimeout t a) s = .next (u.lockTimeout (pageOf a.toNat)) := by subst ht; rfl
theorem exec_lockedRegisterWrite (v : DWord) :
    exec (.lockedRegisterWrite t m a false v) s = .next (u.busWrite m a.toNat 4 0xff v.toNat) := by subst ht; rfl
theorem exec_selectorWrite (v : Word) : exec (.selectorWrite t m a v) s = .next (u.write32 m a.toNat v) := by subst ht; rfl

/-- LOCKED_REGISTER_WRITE of a 32-bit register with no effect of its own is a write of its row (R42). -/
theorem exec_lockedRegisterWrite_row {v : DWord} {r : RegRow} (hw : u.Writable (pageOf a.toNat)) (hr : IsReg a.toNat)
    (ho : 0x40 ≤ offOf a.toNat) (hf : findReg (bankOf (u.selOf m) a.toNat) = some (r, false)) (hn : r.wide = false)
    (hs : r.rws = 0) (hp : u.pageHook m a.toNat (v.toNat % 2 ^ 32) = none) :
    exec (.lockedRegisterWrite t m a false v) s = .next (u.writeRow m (pageOf a.toNat) (bankOf (u.selOf m) a.toNat) r
      (v.toNat % 2 ^ 32)) := by
  rw [exec_lockedRegisterWrite ht, State.busWrite_word hw.up hr (by decide), State.writeWord_narrow hw ho hf hn,
    State.writeFull_row hp hf hs]
end Header

section Lock
variable (hu : u.up = true) (hb : u.busy (pageOf a.toNat) = false) (hr : IsReg (R.PG_LOCK (pageOf a.toNat)))
include ht hu hb hr

theorem exec_unlockFirstKey : exec (.unlockFirstKey t m a) s = .next (u.lockWrite m (pageOf a.toNat) 0xC41A) :=
  (exec_unlockFirstKey_write32 ht m a).trans (congrArg Host.Outcome.next (State.write32_lock hu hb hr))
theorem exec_unlockSecondKey : exec (.unlockSecondKey t m a) s = .next (u.lockWrite m (pageOf a.toNat) 0xA14C) := by
  subst ht
  exact congrArg Host.Outcome.next (State.write32_lock hu hb hr)
theorem exec_lockZeroWrite : exec (.lockZeroWrite t m a) s = .next (u.lockWrite m (pageOf a.toNat) 0) := by
  subst ht
  exact congrArg Host.Outcome.next (State.write32_lock hu hb hr)
theorem exec_lockOtherWrite (v : Word) : exec (.lockOtherWrite t m a v) s = .next (u.lockWrite m (pageOf a.toNat) v.toNat) := by
  subst ht
  exact congrArg Host.Outcome.next (State.write32_lock hu hb hr)
end Lock

end Sys2Proof.Machine
end

section
/-! PROOFS. The obligations on the values at release, on the widths of an access, on the holding registers, on reads to clear, on
`PG_LOCK` and on the commands of the page header. -/

namespace Sys2Proof

open Sys2Proof.Machine

/-- Settles O5: at release every sparse table is empty. -/
theorem resetIsCanonical : Obligations.resetIsCanonical := by
  unfold Obligations.resetIsCanonical
  exact ⟨⟨rfl, rfl, rfl, rfl⟩, rfl⟩

/-- Settles O6: no register is listed at release, so each reads as its reset value. -/
theorem resetRegisterValues : Obligations.resetRegisterValues := by
  unfold Obligations.resetRegisterValues
  have hrg : ∀ a, State.reset.rg a = resetWord a := fun _ => rfl
  refine ⟨hrg, ?_⟩
  simp only [State.bit, hrg]
  decide

/-- Settles O11, by the branch of the access that each width takes. -/
theorem accessWidths : Obligations.accessWidths := by
  unfold Obligations.accessWidths
  refine ⟨?partialWrite, ?misaligned, ?wideRegister, ?twoWords⟩
  case partialWrite =>
    intro s u t m a w be v ht hu hmap hlow hp
    rw [exec_registerWrite ht, State.busWrite_partial hu hmap hlow hp]
  case misaligned =>
    intro s u t m a w be v ht hu hmis
    have hmap := mapped_misaligned hmis
    rw [exec_registerWrite ht, exec_rcRead_busRead ht, State.busWrite_unmapped hu hmap, State.busRead_unmapped hu hmap]
    exact ⟨rfl, rfl⟩
  case wideRegister =>
    intro s u t m a be v r ht hw hmap hlow hb hf hn
    rw [exec_registerWrite ht, Width.bytes, State.busWrite_pair hw.up hmap hlow hb, State.writePair_wide hw hf hn]
  case twoWords =>
    intro s u t m a be v r ht hu hmap hlow hb hf hn
    rw [exec_registerWrite ht, Width.bytes, State.busWrite_pair hu hmap hlow hb, State.writePair_narrow hf hn]

/-- Settles O13: what the page holds after the low word, and what the high word answers to another reader. -/
theorem pairReads : Obligations.pairReads := by
  unfold Obligations.pairReads
  refine ⟨?lowWord, ?highWordLive⟩
  case lowWord =>
    intro s u t m a r ht hc hu hr h4 ho he hf hn
    rw [exec_pairLowRead ht, State.read32_word hu hr h4, State.readWord_pairLow ho he hf hn]
    exact ⟨_, rfl, rfl, State.rdHold_setPage hc (pageOf a.toNat) (some (m, offOf a.toNat, u.view m (a.toNat + 4)))⟩
  case highWordLive =>
    intro s u t m h a r lo w ht hu hr h4 ho he hf hn hh hne
    rw [exec_pairHighRead ht, State.read32_word hu hr h4, State.readWord_pairHigh_live ho he hf hn hh hne]

/-- Settles O14: the abort of an unlock sequence comes first and leaves the write-holding register. -/
theorem pairWrites : Obligations.pairWrites := by
  unfold Obligations.pairWrites
  refine ⟨?lowWord, ?highWord, ?highWordAlone⟩
  case lowWord =>
    intro s u t m a v r ht hu hb hr ho hf hn
    rw [exec_pairLowWrite ht, State.write32_word hu hr, State.writeWord_pairLow_abort hu hb ho hn hf, BitVec.ofNat_toNat,
      BitVec.setWidth_eq]
  case highWord =>
    intro s u t m a v w r lo ht hc hu hb hr ho hf hn hh hlo
    rw [exec_pairHighWrite ht, State.write32_word hu hr, State.writeWord_pairHigh_abort hu hb ho hn hc hf hh hlo]
  case highWordAlone =>
    intro s u t m a v r ht hc hu hb hr ho hf hn hne
    rw [exec_pairHighWrite ht, State.write32_word hu hr, State.writeWord_pairHigh_alone hu hb ho hn hc hf hne]

/-- Settles O15: the read is the live word, and what it leaves is `readClear`. -/
theorem readToClear : Obligations.readToClear := by
  unfold Obligations.readToClear
  intro s u r' t m a r i ht hc hu hr h4 ho he hz hf hn hi hx
  rw [exec_rcRead ht, State.read32_word hu hr h4, State.readWord_narrow ho he hf hn] at hx
  obtain rfl := Host.Outcome.next.inj hx
  exact ⟨rfl, State.readClear_mem hz _ r, fun b hb => State.rg_readClear_other hc hz r hb, State.bit_readClear hc hz _ r hi⟩

/-- Settles O16: each clause is one case of a write of `PG_LOCK`. -/
theorem lockWrites : Obligations.lockWrites := by
  unfold Obligations.lockWrites
  refine ⟨?zeroOwner, ?zeroLocked, ?zeroOther, ?zeroOpen, ?otherShut, ?otherOpen, ?counting⟩
  case zeroOwner =>
    rintro s u t m a _ ht rfl hu hb hr hseq ho
    rw [exec_lockZeroWrite ht m a hu hb hr, State.lockWrite_zero_owner hseq ho]
  case zeroLocked =>
    rintro s u t m a _ ht rfl hu hb hr hk hbit
    rw [exec_lockZeroWrite ht m a hu hb hr, State.lockWrite_plain (State.seqInTime_shut hk) (by decide) (.inl (by decide))
      (.inr (State.owns_locked hbit m)), if_pos (.inr ⟨rfl, hbit⟩), State.abortSeq_shut hk]
  case zeroOther =>
    rintro s u t m a _ ht rfl hu hb hr hk hbit ho
    rw [exec_lockZeroWrite ht m a hu hb hr, State.lockWrite_plain (State.seqInTime_shut hk) (by decide) (.inl (by decide))
      (.inr ho), if_neg (by simp [hk, hbit])]
  case zeroOpen =>
    rintro s u t t0 m h a _ ht rfl hu hb hr hk hnow ho
    rw [exec_lockZeroWrite ht m a hu hb hr, State.lockWrite_plain (State.seqInTime_open hk hnow) (by decide) (.inl (by decide))
      (.inr ho), if_pos (.inl (by rw [hk]; rfl)), State.abortSeq_open hk]
  case otherShut =>
    rintro s u t m a v _ ht rfl hu hb hr h0 h1 hk
    rw [exec_lockOtherWrite ht m a hu hb hr, State.lockWrite_shut hk (BitVec.toNat_ne.1 h1) (BitVec.toNat_ne.1 h0)]
  case otherOpen =>
    rintro s u t t0 m h a v _ ht rfl hu hb hr h0 h1 hk hnow hne
    have hkey : v.toNat ≠ 0xA14C ∨ ∀ t1, (u.page (pageOf a.toNat)).keySeq ≠ some (m, t1) :=
      hne.imp BitVec.toNat_ne.1 (fun hm t1 hk' => hm (by cases hk.symm.trans hk'; rfl))
    rw [exec_lockOtherWrite ht m a hu hb hr, State.lockWrite_plain (State.seqInTime_open hk hnow) (BitVec.toNat_ne.1 h1) hkey
      (.inl (BitVec.toNat_ne.1 h0)), if_pos (.inl (by rw [hk]; rfl)), State.abortSeq_open hk]
  case counting =>
    intro s pg b hc
    exact ⟨State.fails_failInc hc pg, State.lock_failInc hc pg, State.rg_failInc_other hc pg⟩

/-- Settles O24: each command is one write of a header word, one lapse of time, or one complete write of a locked register. -/
theorem headerCommandsComplete : Obligations.headerCommandsComplete := by
  unfold Obligations.headerCommandsComplete
  refine ⟨?softReset, ?softResetDone, ?freeze, ?irqClear, ?firstKey, ?secondKey, ?unlockTimeout, ?lockZero, ?lockOther,
    ?lockTimeout, ?lockedOwner, ?lockedOther, ?shadowHold, ?shadowDiscard, ?selector⟩
  case softReset =>
    rintro s u _ t m a _ ht rfl hw hr hf he hz rfl
    have hty : enFixed (tyOf (pageOf a.toNat)) = false := by rw [tyOf_pageOf, hf]
    rw [exec_softReset ht m a hw hr, State.writePgCtrl_ctrlWord _ _ (.inl he), hz, if_neg Bool.false_ne_true, if_pos rfl,
      State.softReset_disabled hty he]
  case softResetDone =>
    rintro s u t a _ ht rfl hb
    rw [exec_softResetDone ht, State.softResetDone_busy hb]
  case freeze =>
    rintro s u t m a _ ht rfl hw hr hb
    have hbist : u.bistOn 4 (instOf (pageOf a.toNat)) = false := by rw [instOf_pageOf, hb]
    rw [exec_freezeCapture ht m a hw hr, exec_freezeRelease ht m a hw hr, State.writePgCtrl_ctrlWord _ _ (.inr hbist),
      State.writePgCtrl_ctrlWord _ _ (.inr hbist)]
    exact ⟨rfl, rfl⟩
  case irqClear =>
    rintro s u t m a v _ ht rfl hw hr
    exact exec_irqClear ht m a v hw hr
  case firstKey =>
    rintro s u t m a _ ht rfl hw hr
    rw [exec_unlockFirstKey ht m a hw.up hw.idle hr, State.lockWrite_firstKey (State.seqInTime_shut hw.shut),
      State.abortSeq_shut hw.shut]
  case secondKey =>
    rintro s u t t0 m a _ ht rfl hu hb hr hk hnow
    rw [exec_unlockSecondKey ht m a hu hb hr, State.lockWrite_secondKey (State.seqInTime_open hk hnow) hk]
  case unlockTimeout =>
    rintro s u t t0 m a _ ht rfl hk hlate
    rw [exec_unlockTimeout ht, State.unlockTimeout_late hk hlate, State.abortSeq_open hk]
  case lockZero =>
    rintro s u t m a _ ht rfl hw hr ho
    rw [exec_lockZeroWrite ht m a hw.up hw.idle hr, State.lockWrite_zero_owner (State.seqInTime_shut hw.shut) ho,
      State.abortSeq_shut hw.shut]
  case lockOther =>
    rintro s u t m a v _ ht rfl hw hr h0 h1 -
    rw [exec_lockOtherWrite ht m a hw.up hw.idle hr, State.lockWrite_shut hw.shut (BitVec.toNat_ne.1 h1) (BitVec.toNat_ne.1 h0)]
  case lockTimeout =>
    rintro s u t a _ ht rfl hb hdue
    rw [exec_lockTimeout ht, State.lockTimeout_due hb hdue]
  case lockedOwner =>
    rintro s u t m a v r _ _ ht rfl hw hr ho rfl hf hn hs hl hk hy hg hp
    rw [exec_lockedRegisterWrite_row ht m a hw hr ho hf hn hs hp, State.writeRow_logged hs hl hn hk hy hg]
  case lockedOther =>
    rintro s u t m a v r _ _ ht rfl hw hr ho rfl hf hn hs hl hk hd hp
    rw [exec_lockedRegisterWrite_row ht m a hw hr ho hf hn hs hp, State.writeRow_unlocked hs hl hk hd]
  case shadowHold =>
    rintro s u t m a _ ht rfl hw hr
    rw [exec_shadowHold ht m a true hw hr, exec_shadowHold ht m a false hw hr]
    exact ⟨congrArg _ (State.writeShadow_hold u _), fun hh => congrArg _ (State.writeShadow_release hh)⟩
  case shadowDiscard =>
    rintro s u t m a _ ht rfl hw hr hh
    rw [exec_shadowDiscard ht m a hw hr hh, State.writeShadow_discard hh]
  case selector =>
    intro s u t m a v ht hw hr ha
    have hf : findReg (bankOf (u.selOf m) a.toNat) = some ({ off := 0x40, rw := 0x3f }, false) := by
      have hb : bankOf (u.selOf m) (R.WALL.base + 0x40) = R.WALL.base + 0x40 := rfl
      rw [ha, hb]
      decide
    have ho : 0x40 ≤ offOf a.toNat := by rw [ha]; decide
    have hhook : u.pageHook m a.toNat v.toNat = some (u.setSel m (fun x => { x with lsel := v.toNat % 64 })) := by
      rw [ha]
      rfl
    rw [exec_selectorWrite ht, State.write32_word hw.up hr, State.writeWord_narrow hw ho hf rfl, State.writeFull_hook hhook]

end Sys2Proof
end

section
/-! PROOFS. What a queue of the Weir leaves of a record that it takes and of one that finds it full (R79, R80), and how events reach
their source's buffer (R71, R73, R75). -/

namespace Sys2Proof.Machine

/-- A read of a register other than the interrupt word of the page (R40). -/
theorem State.rg_irq_other {s : State} (h : s.Canonical) (pg bits b : Nat) (hb : b ≠ R.PG_IRQ pg) :
    (s.irq pg bits).rg b = s.rg b := State.rg_setRg_other h _ _ _ hb

/-- The record goes to the unit that the queue serves, or to the queue's end (R79); `enqueue_room` ties it to `enqueue`. -/
def State.queueTakes (s : State) (q : Nat) (e : EvRec) : State :=
  if q = 5 then { s with lat := { s.lat with inbox := s.lat.inbox ++ [(e.stamp, e.src, e.code)] } }
  else if q = 6 then s.hopRecord e.src e.code e.stamp
  else { s with weir := { s.weir with queues := vupd s.weir.queues q (· ++ [e]) } }

section Room
variable {s : State} {q : Nat} (hl : (vget s.weir.queues q).length < 512) (e : EvRec)
include hl

/-- A queue with room takes the record, with the level interrupt on top where the set point is met (R79, R82). -/
theorem State.enqueue_room : s.enqueue q e =
    if (s.queueTakes q e).irqLevel q = (vget s.weir.queues q).length + 1 then (s.queueTakes q e).irq R.WEIR.base (2 ^ q)
    else s.queueTakes q e := if_pos hl

theorem State.enqueue_room_weir : (s.enqueue q e).weir = (s.queueTakes q e).weir := by
  rw [State.enqueue_room hl]
  split <;> rfl
theorem State.enqueue_room_lat : (s.enqueue q e).lat = (s.queueTakes q e).lat := by
  rw [State.enqueue_room hl]
  split <;> rfl
end Room

/-- The count and the interrupt of a record that is not queued (R80); `enqueue_full` ties it to `enqueue`. -/
def State.queueDrops (s : State) (q : Nat) : State := (s.count (R.WEIR.Q_DROP q) 15 0 1).irq R.WEIR.base 0x100

/-- A full queue drops the record, and the Brakewheel is told of one that Q7 drops (R80). -/
theorem State.enqueue_full {s : State} {q : Nat} (hl : 512 ≤ (vget s.weir.queues q).length) (e : EvRec) :
    s.enqueue q e = if q = 7 then (s.queueDrops q).report 0x0A 0 0 true 0 else s.queueDrops q := if_neg (Nat.not_lt.2 hl)

/-- The drop count of a queue is no other queue's, and not the page's interrupt word (R80). -/
theorem qDrop_ne {q j : Nat} (h : j ≠ q) : R.WEIR.Q_DROP j ≠ R.WEIR.Q_DROP q := by
  simp only [R.WEIR.Q_DROP]
  omega
theorem qDrop_ne_irq (j : Nat) : R.WEIR.Q_DROP j ≠ R.PG_IRQ R.WEIR.base := by
  simp only [R.WEIR.Q_DROP, R.PG_IRQ]
  omega

/-- A dropped record moves the count of its own queue alone (R80). -/
theorem State.qDrop_queueDrops {s : State} (h : s.Canonical) (q j : Nat) :
    (s.queueDrops q).fld (R.WEIR.Q_DROP j) 15 0 =
      if j = q then min 0xFFFF (s.fld (R.WEIR.Q_DROP q) 15 0 + 1) else s.fld (R.WEIR.Q_DROP j) 15 0 := by
  have hcount : (s.count (R.WEIR.Q_DROP q) 15 0 1).Canonical := h.putFld _ _ _ _
  rw [State.queueDrops, State.fld, State.rg_irq_other hcount _ _ _ (qDrop_ne_irq j)]
  split
  case isTrue hj => rw [hj]; exact State.fld_count_same h _ 15 0 1 (by omega) (by omega)
  case isFalse hj => exact congrArg (wfld · 15 0) (State.rg_setRg_other h _ _ _ (qDrop_ne hj))

/-- A source with room in its buffer of 16 posts its event (R71, R75). -/
theorem State.post_room {s : State} {src : Nat} (h : s.buffered src < 16) (code : Nat) (stamp : Time) (p : Nat) :
    s.post src code stamp p =
      { s with weir := { s.weir with pend := putEvent ⟨stamp, src, code, p % 2 ^ 48⟩ s.weir.pend } } := if_pos h

section Post
variable {s : State} {src code p : Nat} {stamp : Time}

/-- An event that reaches the Weir by its delivery edge is posted (R71). -/
theorem State.weirPost_inTime (h : s.now ≤ deliveryEdge ⟨stamp, src, code, p⟩) :
    s.weirPost src code stamp p = s.post src code stamp p := if_neg (Nat.not_lt.2 h)
/-- An event that reaches the Weir later is counted, with a LATE_DROP in its place (R73). -/
theorem State.weirPost_late (h : deliveryEdge ⟨stamp, src, code, p⟩ < s.now) :
    s.weirPost src code stamp p =
      ((s.count R.WEIR.LATE 15 0 1).irq R.WEIR.base 0x200).weirOwn (ceilEdge s.now) src 0x3F (stamp % 2 ^ 48) := if_pos h
end Post

/-- A code that is not a program's is refused, another is posted from source 0x3FF at this TCLK edge (R83). -/
theorem State.weirInject_refused {s : State} {v : Nat} (h : bitsN v 5 0 = 0 ∨ 0x3D ≤ bitsN v 5 0) :
    s.weirInject v = s.putBit R.WEIR.STAT 17 true := if_pos h
theorem State.weirInject_posts {s : State} {v : Nat} (h0 : bitsN v 5 0 ≠ 0) (h : bitsN v 5 0 < 0x3D) :
    s.weirInject v = s.post 0x3FF (bitsN v 5 0) (ceilEdge s.now) (bitsN v 63 16) :=
  if_neg (not_or.2 ⟨h0, Nat.not_le.2 h⟩)

end Sys2Proof.Machine
end

section
/-! PROOFS. The pops of a Weir queue, and one TCLK edge of the Weir with no source below the frontier (R72, R75, R81). -/

namespace Sys2Proof.Machine

/-- A pop word of an open page pops (R31, R39). -/
theorem State.popShut_open {s : State} {a : Nat} (hu : s.up = true) (hf : s.frozen (pageOf a) = false) : s.popShut a = none := by
  simp [State.popShut, State.snapOf, hu, hf]

/-- The pop words of a queue lie on the page that shows them. -/
theorem pageOf_weirPopAddr (q : Fin 8) (i : Fin 4) : pageOf (weirPopAddr R.WEIR.base q i) = R.WEIR.base := by
  revert q i
  decide

section Pop
variable {s : State} {m : Master} {q : Fin 8} {e : EvRec} (hq : q.val ≠ 4) (hu : s.up = true) (hf : s.frozen R.WEIR.base = false)
include hq hu hf

/-- A pop returns word 0 of the head record, which leaves the queue and is held for its reader (R81). -/
theorem State.weirPop_head {l : List EvRec} (h : vget s.weir.queues q.val = e :: l) :
    s.weirPop (some m) R.WEIR.base q = (e.word 0, { s with weir := { s.weir with
      queues := vupd s.weir.queues q.val List.tail, hold := vupd s.weir.hold q.val (fun _ => some (some m, e)) } }) := by
  have hopen : s.popShut (weirPopAddr R.WEIR.base q 0) = none :=
    State.popShut_open hu ((congrArg s.frozen (pageOf_weirPopAddr q 0)).trans hf)
  simp [State.weirPop, hopen, hq, h]

/-- The master that holds a record reads its words, and the third ends the hold (R81). -/
theorem State.weirPopWord_held (i : Fin 4) (h : vget s.weir.hold q.val = some (some m, e)) :
    s.weirPopWord (some m) R.WEIR.base q i = (e.word i, if i.val = 3 then
      { s with weir := { s.weir with hold := vupd s.weir.hold q.val (fun _ => none) } } else s) := by
  have hopen : s.popShut (weirPopAddr R.WEIR.base q i) = none :=
    State.popShut_open hu ((congrArg s.frozen (pageOf_weirPopAddr q i)).trans hf)
  simp [State.weirPopWord, hopen, hq, h]
end Pop

/-- With no source below the frontier and none stalled an edge stalls nothing (R74). -/
theorem State.stallEdge_none {s : State} (h : s.weir.stalled = []) (edge : Time) : s.stallEdge edge [] = s := by
  have hrest : (s.weir.stalled.filter (fun x => ([] : List Nat).contains x)) = s.weir.stalled := by rw [h]; rfl
  simp only [State.stallEdge, List.filter_nil, List.foldl_nil, List.isEmpty_nil, if_true, hrest]

/-- The one record that an edge still has room for is the first event in order (R72, R75). -/
theorem State.deliverUpTo_one {s : State} {edge : Time} {e : EvRec}
    (h : firstEvent (s.weir.pend.filter (fun e => e.stamp + horizon ≤ edge)) = some e) :
    State.deliverUpTo edge 1 s = (s.deliverOne edge e, [e]) := by
  simp only [State.deliverUpTo, h]

/-- The second record of an edge with no source stalled (R72, R75). -/
theorem State.weirEdge_second {s : State} {e : EvRec} (hedge : s.weir.lastEdge = floorEdge s.now) (hone : s.weir.atEdge = 1)
    (hst : s.weir.stalled = [])
    (h : firstEvent (s.weir.pend.filter (fun e => e.stamp + horizon ≤ floorEdge s.now)) = some e) :
    s.weirEdge [] = ((s.deliverOne (floorEdge s.now) e).overflowPosts (floorEdge s.now), [e]) := by
  have hquota : s.quota (floorEdge s.now) = 1 := by rw [State.quota, if_pos hedge, hone]
  simp only [State.weirEdge, State.stallEdge_none hst, hquota, State.deliverUpTo_one h]

end Sys2Proof.Machine
end

section
/-! PROOFS. The commands of the Weir as operations on the state at their instant (R71 to R75, R81, R83). -/

namespace Sys2Proof.Machine

variable {s u : State} {t : Time} (ht : s.tick t = u)
include ht

/-- WEIR_POST of a source and a code that exist (R77, R78). -/
theorem exec_weirPost {src : Fin 1024} {code : Fin 64} (hsrc : srcExists src.val = true) (h1 : 1 ≤ code.val)
    (h3c : code.val ≤ 0x3C) (stamp : Time) (p : BitVec 48) :
    exec (.weirPost t src code stamp p) s = .next (u.weirPost src.val code.val stamp p.toNat) := by
  subst ht
  exact congrArg Host.Outcome.next (if_pos (by simp [hsrc, h1, h3c]))
/-- STALL_CLEAR once every watermark has been past the frontier for 1 us (R74). -/
theorem exec_stallClear_due (hst : u.bit R.WEIR.STAT 16 = true) (hdue : u.weir.clearFrom + us 1 ≤ u.now) :
    exec (.stallClear t) s =
      .next (({ u with weir := { u.weir with stalled := [] } } : State).putBit R.WEIR.STAT 16 false) := by
  subst ht
  exact congrArg Host.Outcome.next (if_pos ⟨hst, hdue⟩)
theorem exec_weirInject (m : Master) (v : DWord) (hw : u.Writable R.WEIR.base) :
    exec (.weirInject t m v) s = .next (u.weirInject v.toNat) := by
  subst ht
  exact congrArg Host.Outcome.next (State.onPage_writable hw)
theorem exec_weirPop (m : Master) (q : Fin 8) : exec (.weirPop t m q false) s =
    .next ((u.weirPop (some m) R.WEIR.base q).2.ret (u.weirPop (some m) R.WEIR.base q).1) := by subst ht; rfl
/-- WEIR_POP_WORD of a word past the first (R81). -/
theorem exec_weirPopWord (m : Master) (q : Fin 8) {i : Fin 4} (hi : i.val ≠ 0) : exec (.weirPopWord t m q i) s =
    .next ((u.weirPopWord (some m) R.WEIR.base q i).2.ret (u.weirPopWord (some m) R.WEIR.base q i).1) := by
  have hcmd : exec (.weirPopWord t m q i) s = .next ((u.weirPopWord (some m) R.WEIR.base q (max i.val 1)).2.ret
    (u.weirPopWord (some m) R.WEIR.base q (max i.val 1)).1) := by subst ht; rfl
  rw [hcmd, Nat.max_eq_left (Nat.one_le_iff_ne_zero.2 hi)]
/-- WEIR_DELIVERY with no source below the frontier (R72, R353). -/
theorem exec_weirDelivery : exec (.weirDelivery t []) s = .next (u.weirEdge []).1.latchRecords := by subst ht; rfl

end Sys2Proof.Machine
end

section
/-! PROOFS. The obligations on the Weir's queues and on its commands. -/

namespace Sys2Proof

open Sys2Proof.Machine

/-- Settles O17: a queue with room takes the record at its end, and what a full one leaves is the count and the report. -/
theorem fullQueueDrops : Obligations.fullQueueDrops := by
  unfold Obligations.fullQueueDrops
  refine ⟨?room, ?full⟩
  case room =>
    intro s q j e hq hj h5 h6 hl
    have hown : s.queueTakes q e = { s with weir := { s.weir with queues := vupd s.weir.queues q (· ++ [e]) } } := by
      rw [State.queueTakes, if_neg h5, if_neg h6]
    rw [State.enqueue_room_weir hl, hown]
    split
    case isTrue h => rw [h]; exact vget_vupd_same _ _ _ hq
    case isFalse h => exact vget_vupd_other _ _ _ _ h
  case full =>
    intro s q j e hc hq hj hl
    rw [State.enqueue_full hl]
    split <;> exact ⟨rfl, State.qDrop_queueDrops hc q j, rfl⟩

/-- Settles O27: each command is one operation of the Weir, taken in the case that the clause names. -/
theorem weirCommandsComplete : Obligations.weirCommandsComplete := by
  unfold Obligations.weirCommandsComplete
  refine ⟨?latchQueue, ?postInTime, ?postLate, ?stallClear, ?inject, ?pop, ?popWord⟩
  case latchQueue =>
    intro s e hl
    rw [State.enqueue_room_weir hl, State.enqueue_room_lat hl]
    exact ⟨rfl, rfl⟩
  case postInTime =>
    intro s u t stamp src code p ht hsrc h1 h3c hnow hroom
    rw [exec_weirPost ht hsrc h1 h3c, State.weirPost_inTime hnow, State.post_room hroom]
  case postLate =>
    rintro s u _ t stamp src code p ht hsrc h1 h3c hlate rfl
    rw [exec_weirPost ht hsrc h1 h3c, State.weirPost_late hlate]
    rfl
  case stallClear => exact fun s u t ht hst hdue => exec_stallClear_due ht hst hdue
  case inject =>
    intro s u t m v ht hw
    rw [exec_weirInject ht m v hw]
    exact ⟨fun h => by rw [State.weirInject_refused h], fun h0 h => by rw [State.weirInject_posts h0 h]⟩
  case pop =>
    intro s u t m q e l ht hq hu hf h
    rw [exec_weirPop ht, State.weirPop_head hq hu hf h]
    rfl
  case popWord =>
    intro s u t m q i e ht hq hi hu hf h
    rw [exec_weirPopWord ht m q hi, State.weirPopWord_held hq hu hf i h]
    exact ⟨fun h3 => by rw [if_neg h3]; rfl, fun h3 => by rw [if_pos h3, h3]; rfl⟩

end Sys2Proof
end

section
/-! PROOFS. The operations of the time unit, case by case (R58, R59, R62, R63, R67, R68). -/

namespace Sys2Proof.Machine

/-- Within its limits a new `INCR` is kept as written (R58). -/
theorem State.writeIncr_within {s : State} {n : Bool} {v : Nat} (hmin : incrMin ≤ v % 2 ^ 40) (hmax : v % 2 ^ 40 ≤ incrMax) :
    s.writeIncr n v = ((s.setRg64 (R.PTP.INCR (b2n n)) (v % 2 ^ 40)).setPtp n
      (fun p => { p with incrPend := p.incrPend ++ [(s.now + ns 20, v % 2 ^ 40)] })).adj 1 := by
  have hclamp : clampN incrMin incrMax (v % 2 ^ 40) = v % 2 ^ 40 := by
    rw [clampN, Nat.min_eq_right hmax, Nat.max_eq_right hmin]
  simp only [State.writeIncr, hclamp, if_true]

/-- A pending `INCR` that is due governs the edges from its instant on (R58). -/
theorem State.applyIncr_due {s : State} {n : Bool} {d : Time} {v : Nat} {rest : List (Time × Nat)}
    (h : (s.ptp n).incrPend = (d, v) :: rest) (hd : d ≤ s.now) :
    s.applyIncr n = s.setPtp n (fun p => { p.rebase (edgeOf (ceilEdge d) - 1) with incr := v, incrPend := rest }) := by
  simp only [State.applyIncr, h, hd, if_true]

/-- A step that is due and leaves the seconds positive is added to a clock that is not selected (R59). -/
theorem State.applyOffset_unselected {s : State} {n : Bool} {d : Time} {off : Int} (h : (s.ptp n).offPend = some (d, off))
    (hd : d ≤ s.now) (hsel : s.sel ≠ n) (hpos : 0 ≤ ((s.ptp n).at (edgeOf (ceilEdge d)) : Int) + off * 2 ^ 32) :
    s.applyOffset n = ((s.setPtp n (fun p => { p with offPend := none })).setPtp n
      (fun p => { p.rebase (edgeOf (ceilEdge d)) with
        val := (((s.ptp n).at (edgeOf (ceilEdge d)) : Int) + off * 2 ^ 32).toNat })).adj 1 := by
  simp only [State.applyOffset, h, hd, if_true, if_neg (Int.not_lt.2 hpos), if_neg hsel]

/-- A slew that has reached zero ends at its own edge (R62, R66); with C = 0 none runs. -/
theorem State.endSlew_ended {s : State} {e : Nat} (hc : s.time.c ≠ 0) (he : s.time.slewEnd ≤ e) :
    s.endSlew e = ((s.setC s.time.slewEnd 0).adj 1).post srcTime 0x06 (s.time.slewEnd * 16) 0 := if_pos ⟨hc, he⟩
theorem State.endSlew_idle {s : State} (hc : s.time.c = 0) (e : Nat) : s.endSlew e = s := if_neg (fun h => h.1 hc)

/-- With C = 0 it is zero at every edge. -/
theorem TimeSt.cAt_zero {x : TimeSt} (hc : x.c = 0) (e : Nat) : x.cAt e = 0 := by simp [TimeSt.cAt, hc]

/-- RESEED with no slew running (R63, R66). -/
theorem State.reseed_idle {s : State} (hc : s.time.c = 0) : s.reseed =
    ((s.setC (edgeOf (ceilEdge s.now)) 0).adj 1).post srcTime 0x05 (edgeOf (ceilEdge s.now) * 16) 0 := by
  have hpayload : ux 48 ((0 : Int).fdiv (2 ^ 32)) = 0 := by decide
  simp only [State.reseed, State.endSlew_idle hc, TimeSt.cAt_zero hc, hpayload, if_true]

/-- The owner's write of STANDALONE = 1, without RESEED (R42, R68). -/
theorem State.writeMtCtrl_owner_set {s : State} {m : Master} (hl : s.lockOk R.TIME.base m = true) :
    s.writeMtCtrl m 1 = (((s.putBit R.TIME.MT_CTRL 0 true).setPage R.TIME.base
      (fun p => { p with lockFrom := s.now })).clearUnsure true).putFld R.TIME.MT_STAT 7 4 0 := by
  have hon : bitN 1 0 = true := by decide
  have hseed : bitN 1 1 = false := by decide
  simp only [State.writeMtCtrl, hon, hseed, hl, if_true, Bool.false_and, Bool.false_eq_true, if_false]

/-- The owner's write of STANDALONE = 0, without RESEED (R42, R67). -/
theorem State.writeMtCtrl_owner_clear {s : State} {m : Master} (hl : s.lockOk R.TIME.base m = true) :
    s.writeMtCtrl m 0 = ((s.putBit R.TIME.MT_CTRL 0 false).setPage R.TIME.base
      (fun p => { p with lockFrom := s.now })).setUnsure 3 := by
  have hnone : ∀ i, bitN 0 i = false := Nat.zero_testBit
  simp only [State.writeMtCtrl, hnone, hl, if_true, Bool.false_and, Bool.false_eq_true, if_false]

/-- RESEED while TIME_UNSURE, by a master without the lock that leaves STANDALONE = 0: machine time is seeded again, and the
redundancy cycle in progress ends (R63, R432, R570). -/
theorem State.writeMt_reseed {s : State} {m : Master} (hl : s.lockOk R.TIME.base m = false) (ha : s.standalone = false)
    (hu : s.unsure = true) : s.writeMt m 2 = s.reseed.redStep := by
  have hon : bitN 2 0 = false := by decide
  have hseed : bitN 2 1 = true := by decide
  have hctrl : s.writeMtCtrl m 2 = s.reseed := by
    simp only [State.writeMtCtrl, hon, hseed, hl, ha, hu, Bool.false_eq_true, if_false, ne_eq, not_true, Bool.true_and, if_true]
  rw [State.writeMt, hctrl]
  exact if_pos ⟨hseed, hu⟩

/-- A write of `SNAP_CTRL` with TAKE captures at the first TCLK edge (R65). -/
theorem State.writeSnapCtrl_take {s : State} {v : Nat} (h : bitN v 0 = true) (m : Master) :
    s.writeSnapCtrl m v = (s.writeReg m R.TIME.base R.TIME.SNAP_CTRL v).snapshot (edgeOf (ceilEdge s.now)) := if_pos h

section Commands
variable {s u : State} {t : Time} (ht : s.tick t = u)
include ht

theorem exec_incrWrite (m : Master) (n : Bool) (v : DWord) (hw : u.Writable (R.PTP.base (b2n n))) :
    exec (.incrWrite t m n v) s = .next (u.writeIncr n v.toNat) := by
  subst ht
  exact congrArg Host.Outcome.next (State.onPage_writable hw)
theorem exec_incrApply (n : Bool) : exec (.incrApply t n) s = .next (u.applyIncr n) := by subst ht; rfl
theorem exec_offsetWrite (m : Master) (n : Bool) (v : DWord) (hw : u.Writable (R.PTP.base (b2n n))) :
    exec (.offsetWrite t m n v) s = .next (u.writeOffset n v.toNat) := by
  subst ht
  exact congrArg Host.Outcome.next (State.onPage_writable hw)
theorem exec_offsetApply (n : Bool) : exec (.offsetApply t n) s = .next (u.applyOffset n) := by subst ht; rfl
theorem exec_slewDone : exec (.slewDone t) s = .next (u.endSlew (edgeOf (max s.now t))) := by subst ht; rfl
/-- RESEED writes STANDALONE as it stands (R63). -/
theorem exec_reseed (m : Master) (hw : u.Writable R.TIME.base) :
    exec (.reseed t m) s = .next (u.writeMt m (2 + b2n u.standalone)) := by
  subst ht
  exact congrArg Host.Outcome.next (State.onPage_writable hw)
theorem exec_standaloneSet (m : Master) (hw : u.Writable R.TIME.base) :
    exec (.standaloneSet t m) s = .next (u.writeMtCtrl m 1) := by
  subst ht
  exact congrArg Host.Outcome.next (State.onPage_writable hw)
theorem exec_standaloneClear (m : Master) (hw : u.Writable R.TIME.base) :
    exec (.standaloneClear t m) s = .next (u.writeMtCtrl m 0) := by
  subst ht
  exact congrArg Host.Outcome.next (State.onPage_writable hw)
/-- SNAPSHOT_TAKE writes the trigger settings as they stand (R65). -/
theorem exec_snapshotTake (m : Master) (hw : u.Writable R.TIME.base) :
    exec (.snapshotTake t m) s = .next (u.writeSnapCtrl m ((u.rg R.TIME.SNAP_CTRL).toNat ||| 1)) := by
  subst ht
  exact congrArg Host.Outcome.next (State.onPage_writable hw)
/-- SNAPSHOT_PERIOD with TRIG = 2 and a whole multiple of the period passed since the latest capture (R65). -/
theorem exec_snapshotPeriod_due (htrig : u.fld R.TIME.SNAP_CTRL 2 1 = 2)
    (hdue : u.time.lastPeriodic < u.now / u.snapPeriod * u.snapPeriod) :
    exec (.snapshotPeriod t) s = .next (({ u with time := { u.time with
      lastPeriodic := u.now / u.snapPeriod * u.snapPeriod } } : State).snapshot
        (edgeOf (u.now / u.snapPeriod * u.snapPeriod))) := by
  subst ht
  exact congrArg Host.Outcome.next (if_pos ⟨htrig, hdue⟩)
end Commands

end Sys2Proof.Machine
end

section
/-! PROOFS. The obligation on the commands of the time unit. -/

namespace Sys2Proof

open Sys2Proof.Machine

/-- Settles O26: each command is one operation of the time unit, taken in the case that the clause names. -/
theorem timeCommandsComplete : Obligations.timeCommandsComplete := by
  unfold Obligations.timeCommandsComplete
  refine ⟨?incrWrite, ?incrApply, ?offsetWrite, ?offsetApply, ?slewDone, ?reseed, ?standaloneSet, ?standaloneClear,
    ?snapshotTake, ?snapshotPeriod⟩
  case incrWrite =>
    intro s u t m n v ht hw hmin hmax
    rw [exec_incrWrite ht m n v hw, State.writeIncr_within hmin hmax]
  case incrApply =>
    intro s u t d n v rest ht h hd
    rw [exec_incrApply ht, State.applyIncr_due h hd]
  case offsetWrite => exact fun s u t m n v ht hw => exec_offsetWrite ht m n v hw
  case offsetApply =>
    intro s u t d n off ht h hd hsel hpos
    rw [exec_offsetApply ht, State.applyOffset_unselected h hd hsel hpos]
  case slewDone =>
    intro s u t ht hc he
    rw [exec_slewDone ht, State.endSlew_ended hc he]
  case reseed =>
    intro s u t m ht hw hl ha hu hc
    have hv : 2 + b2n u.standalone = 2 := by rw [ha]; rfl
    rw [exec_reseed ht m hw, hv, State.writeMt_reseed hl ha hu, State.reseed_idle hc]
  case standaloneSet =>
    intro s u t m ht hw hl
    rw [exec_standaloneSet ht m hw, State.writeMtCtrl_owner_set hl]
  case standaloneClear =>
    intro s u t m ht hw hl
    rw [exec_standaloneClear ht m hw, State.writeMtCtrl_owner_clear hl]
  case snapshotTake =>
    intro s u t m ht hw
    have htake : bitN ((u.rg R.TIME.SNAP_CTRL).toNat ||| 1) 0 = true := by simp [bitN]
    rw [exec_snapshotTake ht m hw, State.writeSnapCtrl_take htake]
  case snapshotPeriod => exact fun s u t ht htrig hdue => exec_snapshotPeriod_due ht htrig hdue

end Sys2Proof
end

section
/-! PROOFS. A frame of the SPI port: its CRC and fields, its judgement, and what an accepted one leaves (R507 to R509, R513). -/

namespace Sys2Proof.Machine

/-- A CRC of `n` bits stays within them. -/
theorem crcMsb_lt {n poly : Nat} (hp : poly < 2 ^ n) (bits : List Bool) {c : Nat} (hc : c < 2 ^ n) :
    crcMsb n poly c bits < 2 ^ n := by
  induction bits generalizing c with
  | nil => exact hc
  | cons b bits ih =>
    refine ih ?_
    have hshift : c * 2 % 2 ^ n < 2 ^ n := Nat.mod_lt _ (Nat.two_pow_pos n)
    dsimp only
    split
    · exact Nat.xor_lt_two_pow hshift hp
    · exact hshift

theorem spiCrc_lt (v : Nat) : spiCrc v < 256 := crcMsb_lt (n := 8) (by decide) _ (by decide)

theorem spiWord_eq (op a d : Nat) : spiWord op a d =
    (op * 2 ^ 56 + a * 2 ^ 32 + d) * 256 + spiCrc (op * 2 ^ 56 + a * 2 ^ 32 + d) := rfl
/-- The first 64 clocks of a frame are its opcode, address and data, the last 8 their CRC (R507). -/
theorem spiWord_div (op a d : Nat) : spiWord op a d / 256 = op * 2 ^ 56 + a * 2 ^ 32 + d := by
  have hcrc := spiCrc_lt (op * 2 ^ 56 + a * 2 ^ 32 + d)
  rw [spiWord_eq]
  omega
theorem spiWord_crc (op a d : Nat) : spiCrc (spiWord op a d / 256) = spiWord op a d % 256 := by
  have hcrc := spiCrc_lt (op * 2 ^ 56 + a * 2 ^ 32 + d)
  rw [spiWord_div, spiWord_eq]
  omega

section Fields
variable {op a d : Nat} (hop : op < 2 ^ 8) (ha : a < 2 ^ 24) (hd : d < 2 ^ 32)
include ha hd

theorem spiWord_addr : bitsN (spiWord op a d / 256) 55 32 = a := by
  rw [spiWord_div, bitsN_eq]
  omega
include hop
theorem spiWord_op : bitsN (spiWord op a d / 256) 63 56 = op := by
  rw [spiWord_div, bitsN_eq]
  omega
omit hop ha
theorem spiWord_data : spiWord op a d / 256 % 2 ^ 32 = d := by
  rw [spiWord_div]
  omega
end Fields

/-- With no read in progress a frame shifts out STATUS and leaves the port as it was (R509). -/
theorem State.spiOut_idle {s : State} (h : s.spi.read = none) (first : Time) : (s.spiOut first).2 = s := by
  simp only [State.spiOut, h]
/-- What a frame shifts out changes the port's read alone (R509). -/
theorem State.spiOut_rg (s : State) (first : Time) (a : Nat) : (s.spiOut first).2.rg a = s.rg a := by
  unfold State.spiOut
  split
  · split <;> rfl
  · rfl
  · rfl

/-- The state in which a frame is judged: the reply shifted out, CRC injection spent, the mode noted (R507, R509, R513). -/
def State.spiShifted (s : State) (mode3 : Bool) (first : Time) : State :=
  (({ (s.spiOut first).2 with rd := (s.spiOut first).1 } : State).putBit (R.PG_ERRINJ R.SPI.base) 16 false).putBit R.SPI.STAT 2 mode3
/-- An accepted frame clears the discard code and counts (R508). -/
def State.spiAccepted (s : State) (mode3 : Bool) (first : Time) : State :=
  ({ s.spiShifted mode3 first with spi := { (s.spiOut first).2.spi with code := 0 } } : State).count R.SPI.FRAMES 31 0 1

/-- The access that an accepted frame makes (R508, R509); `spiFrame_accepted` ties it to `spiFrame`. -/
def State.spiActs (s : State) (v : Nat) : State :=
  match bitsN v 63 56 with
  | 1 => { (s.busRead .spi (4 * bitsN v 55 32) 4 15).2 with
      spi := { (s.busRead .spi (4 * bitsN v 55 32) 4 15).2.spi with
        read := some (bitsN v 55 32, (s.busRead .spi (4 * bitsN v 55 32) 4 15).1.truncate 32, none) } }
  | 2 => s.busWrite .spi (4 * bitsN v 55 32) 4 15 (v % 2 ^ 32)
  | _ => s

theorem State.spiActs_nop {s : State} {v : Nat} (h : bitsN v 63 56 = 0) : s.spiActs v = s := by
  simp only [State.spiActs, h]
theorem State.spiActs_read {s : State} {a : Nat} (ha : a < 2 ^ 24) : s.spiActs (spiWord 1 a 0 / 256) =
    { (s.busRead .spi (4 * a) 4 15).2 with spi := { (s.busRead .spi (4 * a) 4 15).2.spi with
      read := some (a, (s.busRead .spi (4 * a) 4 15).1.truncate 32, none) } } := by
  simp only [State.spiActs, spiWord_op (show 1 < 2 ^ 8 by decide) ha (show 0 < 2 ^ 32 by decide),
    spiWord_addr ha (show 0 < 2 ^ 32 by decide)]
theorem State.spiActs_write {s : State} {a d : Nat} (ha : a < 2 ^ 24) (hd : d < 2 ^ 32) :
    s.spiActs (spiWord 2 a d / 256) = s.busWrite .spi (4 * a) 4 15 d := by
  simp only [State.spiActs, spiWord_op (show 2 < 2 ^ 8 by decide) ha hd, spiWord_addr ha hd, spiWord_data hd]

/-- What an accepted frame leaves, with no read in progress before it. -/
theorem State.spiAccepted_idle {s : State} (h : s.spi.read = none) (mode3 : Bool) (first : Time) : s.spiAccepted mode3 first =
    ({ (({ s with rd := (s.spiOut first).1 } : State).putBit (R.PG_ERRINJ R.SPI.base) 16 false).putBit R.SPI.STAT 2 mode3 with
      spi := { s.spi with code := 0 } } : State).count R.SPI.FRAMES 31 0 1 := by
  rw [State.spiAccepted, State.spiShifted, State.spiOut_idle h]

section Frame
variable {s : State} (hu : s.up = true) {mosi : Nat} (mode3 : Bool) (first : Time)
include hu

/-- A frame of too few clocks is discarded with code 1 (R508). -/
theorem State.spiFrame_short {clocks : Nat} (h0 : 0 < clocks) (h72 : clocks < 72) (idle : Bool) :
    s.spiFrame clocks mosi idle mode3 first = (s.spiShifted mode3 first).spiDiscard 1 := by
  have hbar : ¬ (clocks = 0 ∨ (!s.up) = true) := by simp [hu]; omega
  have hcode : ∀ x : State, x.spiJudge clocks mosi idle = 1 := fun x => if_pos h72
  unfold State.spiFrame
  rw [if_neg hbar]
  dsimp only
  rw [hcode, if_pos (by decide)]
  rfl

variable (hcrc : spiCrc (mosi / 256) = mosi % 256) (hinj : s.bit (R.PG_ERRINJ R.SPI.base) 16 = false)
include hcrc hinj

/-- An accepted frame: a known opcode, and no read while one is in progress (R507, R508). -/
theorem State.spiFrame_accepted (hop : bitsN (mosi / 256) 63 56 ≤ 2)
    (hidle : bitsN (mosi / 256) 63 56 = 1 → (s.spiOut first).2.spi.read = none) :
    s.spiFrame 72 mosi true mode3 first = (s.spiAccepted mode3 first).spiActs (mosi / 256) := by
  have hbar : ¬ (72 = 0 ∨ (!s.up) = true) := by simp [hu]
  have hinj' : (s.spiOut first).2.bit (R.PG_ERRINJ R.SPI.base) 16 = false := by rw [State.bit, State.spiOut_rg]; exact hinj
  have hcode : ({ (s.spiOut first).2 with rd := (s.spiOut first).1 } : State).spiJudge 72 mosi true = 0 := by
    have hgood : ¬ ((s.spiOut first).2.bit (R.PG_ERRINJ R.SPI.base) 16 = true ∨ spiCrc (mosi / 256) ≠ mosi % 256) := by
      simp [hinj', hcrc]
    have hfree : ¬ (bitsN (mosi / 256) 63 56 = 1 ∧ (s.spiOut first).2.spi.read.isSome = true) :=
      fun ⟨h1, hsome⟩ => by rw [hidle h1] at hsome; cases hsome
    exact (if_neg hgood).trans ((if_neg (Nat.not_lt.2 hop)).trans (if_neg hfree))
  unfold State.spiFrame
  rw [if_neg hbar]
  dsimp only
  rw [hcode, if_neg (by decide)]
  rfl
end Frame

/-- A frame with its CRC and a known opcode, with no read in progress, is accepted (R507, R508). -/
theorem State.spiFrame_word {s : State} (hu : s.up = true) (hr : s.spi.read = none)
    (hinj : s.bit (R.PG_ERRINJ R.SPI.base) 16 = false) (mode3 : Bool) (first : Time) {op a d : Nat} (hop : op ≤ 2)
    (ha : a < 2 ^ 24) (hd : d < 2 ^ 32) :
    s.spiFrame 72 (spiWord op a d) true mode3 first = (s.spiAccepted mode3 first).spiActs (spiWord op a d / 256) :=
  State.spiFrame_accepted hu mode3 first (spiWord_crc op a d) hinj (by rw [spiWord_op (by omega) ha hd]; exact hop)
    (fun _ => by rw [State.spiOut_idle hr]; exact hr)

section Commands
variable {s u : State} {t : Time} (ht : s.tick t = u) (mode3 : Bool) (first : Time)
include ht

theorem exec_spiFrame (clocks : Fin 256) (mosi : BitVec 72) (idle : Bool) : exec (.spiFrame t clocks mosi idle mode3 first) s =
    .next (u.spiFrame clocks mosi.toNat idle mode3 first) := by subst ht; rfl
/-- SPI_READ_DONE of a read that waits for its data (R509). -/
theorem exec_spiReadDone_waiting {a : Nat} {w : Word} (h : u.spi.read = some (a, w, none)) :
    exec (.spiReadDone t) s = .next { u with spi := { u.spi with read := some (a, w, some u.now) } } := by
  subst ht
  show execSpiReadDone t s = _
  simp only [execSpiReadDone, h]

section Accepted
variable (hu : u.up = true) (hr : u.spi.read = none) (hinj : u.bit (R.PG_ERRINJ R.SPI.base) 16 = false)
include hu hr hinj

theorem exec_spiRead (a : BitVec 24) : exec (.spiRead t a mode3 first) s =
    .next ((u.spiAccepted mode3 first).spiActs (spiWord 1 a.toNat 0 / 256)) := by
  rw [← State.spiFrame_word hu hr hinj mode3 first (by decide) a.isLt (by decide)]
  subst ht
  rfl
theorem exec_spiWrite (a : BitVec 24) (w : Word) : exec (.spiWrite t a w mode3 first) s =
    .next ((u.spiAccepted mode3 first).spiActs (spiWord 2 a.toNat w.toNat / 256)) := by
  rw [← State.spiFrame_word hu hr hinj mode3 first (by decide) a.isLt w.isLt]
  subst ht
  rfl
theorem exec_spiNop : exec (.spiNop t mode3 first) s = .next ((u.spiAccepted mode3 first).spiActs (spiWord 0 0 0 / 256)) := by
  rw [← State.spiFrame_word hu hr hinj mode3 first (by decide) (by decide) (by decide)]
  subst ht
  rfl
end Accepted
end Commands

end Sys2Proof.Machine
end

section
/-! PROOFS. The obligation on the commands of the SPI port and on the Weir's delivery. -/

namespace Sys2Proof

open Sys2Proof.Machine

/-- Settles O31: a frame is discarded, or accepted with the access of its opcode; an edge of the Weir delivers its second record. -/
theorem spiCommandsComplete : Obligations.spiCommandsComplete := by
  unfold Obligations.spiCommandsComplete
  refine ⟨?short, ?nopFrame, ?read, ?write, ?nop, ?readDone, ?delivery⟩
  case short =>
    intro s u v t first o clocks mosi idle mode3 ht hu h0 h72 hout
    rw [exec_spiFrame ht, State.spiFrame_short hu mode3 first h0 h72, State.spiShifted, hout]
  case nopFrame =>
    intro s u t first clocks mosi mode3 ht hu h72 hop hcrc hinj
    have hnop : bitsN (mosi.toNat / 256) 63 56 = 0 := by
      rw [bitsN_eq] at hop ⊢
      omega
    rw [exec_spiFrame ht, h72, State.spiFrame_accepted hu mode3 first hcrc hinj (by omega) (by omega), State.spiActs_nop hnop]
    rfl
  case read =>
    intro s u v t first a x mode3 ht hu hr hinj hbus
    rw [exec_spiRead ht mode3 first hu hr hinj, State.spiActs_read a.isLt, State.spiAccepted_idle hr, hbus]
  case write =>
    intro s u t first a w mode3 ht hu hr hinj
    rw [exec_spiWrite ht mode3 first hu hr hinj, State.spiActs_write a.isLt w.isLt, State.spiAccepted_idle hr]
  case nop =>
    intro s u t first mode3 ht hu hr hinj
    have hnop : bitsN (spiWord 0 0 0 / 256) 63 56 = 0 := spiWord_op (by decide) (by decide) (by decide)
    rw [exec_spiNop ht mode3 first hu hr hinj, State.spiActs_nop hnop, State.spiAccepted_idle hr]
  case readDone => exact fun s u t a w ht h => exec_spiReadDone_waiting ht h
  case delivery =>
    intro s u t e ht hedge hone hst h
    rw [exec_weirDelivery ht, State.weirEdge_second hedge hone hst h]

end Sys2Proof
end

section
/-! PROOFS. An edge at a line of a feedback port, the end of MIN_INT on the line, and the post of gathered edges, case by case
(R88 to R91). -/

namespace Sys2Proof.Machine

/-- The raw level of a line as an edge leaves it; `feedbackEdge_first` and `feedbackEdge_rejected` tie it to the model. -/
def State.setRaw (s : State) (n line : Nat) (raw : Bool) : State :=
  s.setFbp n (fun p => { p with lines := vupd p.lines line (fun l => { l with raw := raw }) })
/-- The rejections on a line forgotten; `minIntExpiry_settled` ties it to the model. -/
def State.forgetRejects (s : State) (n line : Nat) : State :=
  s.setFbp n (fun p => { p with lines := vupd p.lines line (fun l => { l with rejStamped := false, rejPlain := false }) })

section Edge
variable {s : State} {n line : Nat} (he : s.en (R.FBP.base n) = true) (hl : lineUsed (s.fbMode n) line = true) (raw : Bool)
include he hl

/-- The first stamped edge of a line is accepted (R88). -/
theorem State.feedbackEdge_first (ha : (vget (vget s.fbp n).lines line).accStamp = none) (stamp : Time) :
    s.feedbackEdge n line stamp raw true =
      (s.setRaw n line raw).acceptEdge n line stamp (raw != s.bit (R.FBP.CTRL n) (10 + line)) := by
  simp [State.feedbackEdge, State.setRaw, he, hl, ha]

section Later
variable {a stamp : Time} (ha : (vget (vget s.fbp n).lines line).accStamp = some a)
include ha

/-- A stamped edge from MIN_INT on after an accepted one is accepted (R88). -/
theorem State.feedbackEdge_accepted (h : a + s.minInt n ≤ stamp) : s.feedbackEdge n line stamp raw true =
    (s.setRaw n line raw).acceptEdge n line stamp (raw != s.bit (R.FBP.CTRL n) (10 + line)) := by
  simp [State.feedbackEdge, State.setRaw, he, hl, ha, Nat.not_lt.2 h]
/-- A stamped edge within MIN_INT of an accepted one is rejected (R88). -/
theorem State.feedbackEdge_rejected (h : stamp < a + s.minInt n) :
    s.feedbackEdge n line stamp raw true = (s.setRaw n line raw).rejectEdge n line stamp true := by
  simp [State.feedbackEdge, State.setRaw, he, hl, ha, h]
end Later
end Edge

section Expiry
variable {s : State} {n line : Nat} {a : Time} (he : s.en (R.FBP.base n) = true)
  (ha : (vget (vget s.fbp n).lines line).accStamp = some a) (hd : a + s.minInt n ≤ s.now)
include he ha hd

/-- MIN_INT ends with the level that the accepted edge left: the rejections are forgotten (R89). -/
theorem State.minIntExpiry_settled (hr : (vget (vget s.fbp n).lines line).rejStamped = true)
    (hv : s.lineLevel n line = (vget (vget s.fbp n).lines line).accLevel) :
    s.minIntExpiry n line = s.forgetRejects n line := by
  simp [State.minIntExpiry, State.forgetRejects, he, ha, Nat.not_lt.2 hd, hr, hv]
/-- MIN_INT ends with another level after a stamped edge was rejected: an edge is accepted there (R89). -/
theorem State.minIntExpiry_accepts (hr : (vget (vget s.fbp n).lines line).rejStamped = true)
    (hv : s.lineLevel n line ≠ (vget (vget s.fbp n).lines line).accLevel) :
    s.minIntExpiry n line = (s.forgetRejects n line).acceptEdge n line (a + s.minInt n) (s.lineLevel n line) := by
  simp [State.minIntExpiry, State.forgetRejects, he, ha, Nat.not_lt.2 hd, hr, hv]
/-- MIN_INT ends with another level in modes 0 and 1 after unstamped edges alone: an illegal transition (R89, R91). -/
theorem State.minIntExpiry_illegal (hm : s.fbMode n < 2) (hs : (vget (vget s.fbp n).lines line).rejStamped = false)
    (hp : (vget (vget s.fbp n).lines line).rejPlain = true)
    (hv : s.lineLevel n line ≠ (vget (vget s.fbp n).lines line).accLevel) :
    s.minIntExpiry n line = (s.forgetRejects n line).illegal n (a + s.minInt n) := by
  have hmode : ¬ (s.fbMode n = 2 ∨ s.fbMode n = 5) := by omega
  simp [State.minIntExpiry, State.forgetRejects, he, ha, Nat.not_lt.2 hd, hs, hp, hv, hmode]
end Expiry

/-- Gathered edges are posted 1 µs after the last post, once that instant has come (R90). -/
theorem State.glitchDue_gathered {s : State} {n : Nat} {l t : Time} (hl : (vget s.fbp n).glLast = some l)
    (hc : 0 < (vget s.fbp n).glCount) (ht : l + us 1 ≤ t) : s.glitchDue n t = s.postGlitch n (l + us 1) := by
  simp only [State.glitchDue, hl]
  exact if_pos ⟨hc, ht⟩

section Commands
variable {s u : State} {t : Time} (ht : s.tick t = u) (n : Fin 48)
include ht

theorem exec_feedbackEdge (line : Fin 3) (stamp : Time) (level stamped : Bool) :
    exec (.feedbackEdge t n line stamp level stamped) s =
      .next ((u.feedbackEdge n line stamp level stamped).refreshFrames n (fun tk => decide (stamp ≤ tk))).commLate := by
  subst ht; rfl
theorem exec_minIntExpiry (line : Fin 3) {a : Time} (ha : (vget (vget u.fbp n).lines line).accStamp = some a) :
    exec (.minIntExpiry t n line) s =
      .next ((u.minIntExpiry n line).refreshFrames n (fun tk => decide (a + u.minInt n ≤ tk))).commLate := by
  subst ht
  show execMinIntExpiry t n line s = _
  simp only [execMinIntExpiry, ha, Option.getD_some]
theorem exec_glitchGatheredPost : exec (.glitchGatheredPost t n) s = .next (u.glitchDue n u.now) := by subst ht; rfl
end Commands

end Sys2Proof.Machine
end

section
/-! PROOFS. Writes to the registers of a feedback port, and of `FB_SEL`, case by case (R87, R95, R98, R99, R112, R114, R117). -/

namespace Sys2Proof.Machine

section Write
variable {s : State} {n : Nat}

/-- `CTRL` takes a value without a reserved field while EN = 0 (R87). -/
theorem State.writeFbCtrl_disabled (he : s.en (R.FBP.base n) = false) {v : Nat} (hm : bitsN v 3 0 < 6)
    (hs : bitsN v 18 17 ≠ 3) : s.writeFbCtrl n v = s.setRg (R.FBP.CTRL n) (BitVec.ofNat 32 (v % 2 ^ 19)) := by
  have hmode : ¬ 6 ≤ bitsN v 3 0 := by omega
  simp [State.writeFbCtrl, he, hmode, hs]
/-- `CTRL` is refused while EN = 1 (R87, R117). -/
theorem State.writeFbCtrl_enabled (he : s.en (R.FBP.base n) = true) (v : Nat) :
    s.writeFbCtrl n v = s.cfgRefused (R.FBP.base n) := by
  simp [State.writeFbCtrl, he]

/-- RESTORE within the limits, with no saturation and no fault (R98). -/
theorem State.posCmd_restore (hs : s.fbSat n = false) (hv : s.posValid n = true ∨ (vget s.fbp n).lost = .limit)
    (hlo : s.fbLo n ≤ s.fbPlace n) (hhi : s.fbPlace n ≤ s.fbHi n) : s.posCmd n 1 =
      ((s.setPos n (s.fbPlace n) 0 false (s.fbSide n)).setValid n).post n 0x06 (ceilEdge s.now) 2 := by
  simp [State.posCmd, hs, hv, hlo, hhi]
/-- SET restores POS_VALID, but not after a fault in modes 3 to 5 (R98, R112). -/
theorem State.posCmd_set (h : s.fbMode n < 3 ∨ (vget s.fbp n).lost ≠ .fault) : s.posCmd n 2 =
    ((s.setCounter n (s.sgn64 (R.FBP.POS_SET_VAL n)) (ceilEdge s.now)).setValid n).post n 0x06 (ceilEdge s.now) 0 := by
  have hfault : ¬ (3 ≤ s.fbMode n ∧ (vget s.fbp n).lost = .fault) := fun ⟨hm, hf⟩ => h.elim (by omega) (· hf)
  simp only [State.posCmd, if_neg hfault]
/-- SET after a fault in modes 3 to 5 loads the counter alone (R98, R112). -/
theorem State.posCmd_set_faulted (hm : 3 ≤ s.fbMode n) (hf : (vget s.fbp n).lost = .fault) : s.posCmd n 2 =
    (s.setCounter n (s.sgn64 (R.FBP.POS_SET_VAL n)) (ceilEdge s.now)).post n 0x06 (ceilEdge s.now) 0 := by
  simp only [State.posCmd, if_pos (And.intro hm hf)]
/-- ZSET_ARM in mode 0 (R95). -/
theorem State.posCmd_arm (hm : s.fbMode n = 0) : s.posCmd n 4 = s.putBit (R.FBP.STAT n) 11 true := if_pos hm
/-- ZSET_DISARM in mode 0 (R95). -/
theorem State.posCmd_disarm (hm : s.fbMode n = 0) : s.posCmd n 8 = s.putBit (R.FBP.STAT n) 11 false := if_pos hm
/-- RELOAD in a serial mode (R98). -/
theorem State.posCmd_reload (hm : 3 ≤ s.fbMode n) : s.posCmd n 16 = s.setFbp n (fun p => { p with reload := true }) :=
  if_pos hm

/-- A high limit that keeps the counter inside (R99). -/
theorem State.writeLimit_high_inside {v : Nat} (hv : in48 v = true) (hlo : s.fbLo n ≤ s.fbCount n)
    (hhi : s.fbCount n ≤ sx 64 v) : s.writeLimit n true v = (s.setRg64 (R.FBP.LIM_HI n) v).limFlags n := by
  have hrange : ¬ sx 64 v < s.fbLo n := by omega
  simp [State.writeLimit, hv, hrange, hlo, hhi]
/-- A high limit below the low one is refused (R99). -/
theorem State.writeLimit_high_empty {v : Nat} (h : sx 64 v < s.fbLo n) :
    s.writeLimit n true v = s.cfgRefused (R.FBP.base n) := by
  simp [State.writeLimit, h]

/-- Bits of `FAULT` that are left stand, and the port's report with them (R112). -/
theorem State.fbFaultClear_some {v : Word} (h : s.rg (R.FBP.FAULT n) &&& ~~~v ≠ 0) :
    s.fbFaultClear n v.toNat = s.setRg (R.FBP.FAULT n) (s.rg (R.FBP.FAULT n) &&& ~~~v) := by
  rw [State.fbFaultClear, BitVec.ofNat_toNat, BitVec.setWidth_eq]
  exact if_neg fun hw => h hw.2
/-- The port reports clear with its last bit (R112, R469). -/
theorem State.fbFaultClear_last {v : Word} (hw : s.rg (R.FBP.FAULT n) ≠ 0) (h : s.rg (R.FBP.FAULT n) &&& ~~~v = 0) :
    s.fbFaultClear n v.toNat = (s.setRg (R.FBP.FAULT n) 0).reportClear 0x11 n := by
  rw [State.fbFaultClear, BitVec.ofNat_toNat, BitVec.setWidth_eq]
  exact (if_pos ⟨hw, h⟩).trans (by rw [h])

end Write

section Commands
variable {s u : State} {t : Time} (ht : s.tick t = u) (m : Master)
include ht

theorem exec_fbSelWrite (a : Fin 64) (v : Word) (hw : u.Writable (R.AXIS.base a)) :
    exec (.fbSelWrite t m a v) s = .next (u.writeFbSel a v.toNat) := by
  subst ht
  exact congrArg Host.Outcome.next (State.onPage_writable hw)

section Port
variable (n : Fin 48) (hw : u.Writable (R.FBP.base n))
include hw

theorem exec_fbpConfigWrite (v : Word) : exec (.fbpConfigWrite t m n v) s = .next (u.writeFbCtrl n v.toNat) := by
  subst ht
  exact congrArg Host.Outcome.next (State.onPage_writable hw)
theorem exec_portEnable (he : u.en (R.FBP.base n) = false) :
    exec (.portEnable t m n) s = .next ((u.putBit (R.PG_CTRL (R.FBP.base n)) 0 true).fbEnable n) := by
  subst ht
  exact congrArg Host.Outcome.next ((State.onPage_writable hw).trans (if_neg (by rw [he]; exact Bool.false_ne_true)))
theorem exec_fbRestore : exec (.fbRestore t m n) s = .next (u.posCmd n 1) := by
  subst ht
  exact congrArg Host.Outcome.next (State.onPage_writable hw)
theorem exec_fbSet : exec (.fbSet t m n) s = .next (u.posCmd n 2) := by
  subst ht
  exact congrArg Host.Outcome.next (State.onPage_writable hw)
theorem exec_fbZsetArm : exec (.fbZsetArm t m n) s = .next (u.posCmd n 4) := by
  subst ht
  exact congrArg Host.Outcome.next (State.onPage_writable hw)
theorem exec_fbZsetDisarm : exec (.fbZsetDisarm t m n) s = .next (u.posCmd n 8) := by
  subst ht
  exact congrArg Host.Outcome.next (State.onPage_writable hw)
theorem exec_fbReload : exec (.fbReload t m n) s = .next (u.posCmd n 16) := by
  subst ht
  exact congrArg Host.Outcome.next (State.onPage_writable hw)
theorem exec_limitWrite (hi : Bool) (v : DWord) : exec (.limitWrite t m n hi v) s = .next (u.writeLimit n hi v.toNat) := by
  subst ht
  exact congrArg Host.Outcome.next (State.onPage_writable hw)
theorem exec_fbpFaultClear (v : Word) : exec (.fbpFaultClear t m n v) s = .next (u.fbFaultClear n v.toNat) := by
  subst ht
  exact congrArg Host.Outcome.next (State.onPage_writable hw)
end Port
end Commands

end Sys2Proof.Machine
end

section
/-! PROOFS. The serial words, the SENT frames and the loss detection of a feedback port, case by case (R103 to R108, R111,
R571). -/

namespace Sys2Proof.Machine

/-- A bit of a register is its field of one bit. -/
theorem State.bit_eq_fld (s : State) (a i : Nat) : s.bit a i = decide (s.fld a i i = 1) := by
  have hone : i + 1 - i = 1 := by omega
  rw [State.bit, wbit, Nat.testBit_eq_decide_div_mod_eq, State.fld, wfld, bitsN_eq, hone, Nat.pow_one]

/-- The data bits of a serial transfer, as `SER_RAW` takes them (R104); `serialWord_badCrc` and `serialWord_ssi` tie it to the
model. -/
def State.serialRaw (s : State) (n : Nat) (data : List Bool) : Nat := ofBitsMsb data % 2 ^ s.fld (R.FBP.SER_CFG n) 5 0
/-- The end of an SSI transfer that was requested at `tr` (R104); `serialWord_ssi` ties it to the model. -/
def State.ssiEnd (s : State) (n : Nat) (tr : Time) : Time :=
  tr + ns ((s.fld (R.FBP.SER_CFG n) 5 0 + 1) * s.fld (R.FBP.SER_CLK n) 13 0 + s.fld (R.FBP.SER_CFG n) 25 16)
/-- The transfer of a port ends at `e` with its raw word; `serialWord_badCrc` and `serialWord_ssi` tie it to the model. -/
def State.serialEnded (s : State) (n : Nat) (data : List Bool) (e : Time) : State :=
  (s.setFbp n (fun p => { p with req := none, endPrev := some e })).setRg64 (R.FBP.SER_RAW n) (s.serialRaw n data)

/-- A BiSS-C request at SER_LEAD before a sample instant that paces the port, with no transfer before it (R103). -/
theorem State.serialRequest_starts {s : State} {n : Nat} {tk : Time} (he : s.en (R.FBP.base n) = true) (hm : s.fbMode n = 4)
    (hq : s.requestAt n tk = true) (hd : tk - ns (s.fld (R.FBP.SER_LEAD n) 19 0) ≤ s.now)
    (hp : (vget s.fbp n).endPrev = none) (hr : (vget s.fbp n).req = none) : s.serialRequest n tk =
      s.setFbp n (fun p => { p with req := some (tk - ns (s.fld (R.FBP.SER_LEAD n) 19 0), tk) }) := by
  simp only [State.serialRequest, he, hm, hq, hp, hr, decide_eq_false (Nat.not_lt.2 hd)]
  rfl

section Request
variable {s : State} {n : Nat} {tr tk : Time} (hr : (vget s.fbp n).req = some (tr, tk))
include hr

/-- No start bit within SER_TMO of a BiSS-C request (R105). -/
theorem State.serialTimeout_biss (hm : s.fbMode n = 4) (hd : tr + ns (s.fld (R.FBP.SER_TMO n) 19 0) ≤ s.now) :
    s.serialTimeout n = ((s.setFbp n (fun p => { p with req := none, endPrev := some s.now })).serErr n 0x0A
      (R.FBP.SER_ERRCNT n) 15 tr).serFail n tr := by
  simp only [State.serialTimeout, hr, if_pos hm]
  exact if_neg (Nat.not_lt.2 hd)

variable (hj : s.bit (R.PG_ERRINJ (R.FBP.base n)) 17 = false) (data crc : List Bool)
include hj

/-- A BiSS-C word whose CRC, sent without inversion, does not match is a failed request (R106). -/
theorem State.serialWord_badCrc (hm : s.fbMode n = 4) (hk : s.fld (R.FBP.SER_CRC n) 20 20 = 0)
    (hc : crcMsb (s.fld (R.FBP.SER_CRC n) 19 16 + 1) (s.fld (R.FBP.SER_CRC n) 15 0) 0
      (bitsMsb (s.fld (R.FBP.SER_CFG n) 5 0) (s.serialRaw n data)) ≠
        ofBitsMsb crc % 2 ^ (s.fld (R.FBP.SER_CRC n) 19 16 + 1)) :
    s.serialWord n data crc =
      ((s.serialEnded n data s.now).serErr n 0x09 (R.FBP.SER_ERRCNT n) 7 tr).serFail n tr := by
  have hplain : wbit (s.rg (R.FBP.SER_CRC n)) 20 = false := by
    show s.bit (R.FBP.SER_CRC n) 20 = false
    rw [State.bit_eq_fld, hk]
    rfl
  simp only [State.serialWord, hr, hm, hj, hplain, decide_true, if_true, Nat.lt_irrefl, if_false, Bool.false_eq_true,
    Bool.false_or, Bool.true_and, bne_iff_ne]
  exact if_pos hc

/-- The position word of an SSI port in binary that ends by its sample instant is taken (R104, R109). -/
theorem State.serialWord_ssi (hm : s.fbMode n = 3) (hg : s.bit (R.FBP.SER_CFG n) 9 = false) (hd : s.ssiEnd n tr ≤ s.now)
    (hk : s.now ≤ tk) : s.serialWord n data crc =
      (s.serialEnded n data (s.ssiEnd n tr)).acceptWord n (s.fld (R.FBP.SER_CFG n) 5 0 - s.fld (R.FBP.SER_CFG n) 8 6)
        (s.serialRaw n data / 2 ^ s.fld (R.FBP.SER_CFG n) 8 6) ((tr : Int) + ns (s.fld (R.FBP.SER_LAT n) 19 0)) tr
        (s.ssiEnd n tr) := by
  have hbinary : wbit (s.rg (R.FBP.SER_CFG n)) 9 = false := hg
  have hended : ¬ s.now < s.ssiEnd n tr := Nat.not_lt.2 hd
  have hintime : ¬ tk + ns 20 < s.ssiEnd n tr :=
    Nat.not_lt.2 (hd.trans (hk.trans (Nat.le_add_right _ _)))
  have hssi : ¬ 3 = 4 := by decide
  simp only [State.serialWord, hr, hm, hj, hbinary, hssi, decide_false, if_false, Bool.false_eq_true, Bool.false_or,
    Bool.false_and, false_and]
  exact (if_neg hended).trans (if_neg hintime)
end Request

/-- The data nibbles of a SENT frame, as many as `SENT_CFG.NIBBLES` names (R107); `sentFrame_good` ties it to the model. -/
def State.sentData (s : State) (n : Nat) (data : List Nat) : List Nat :=
  (data.map (· % 16)).take (s.fld (R.FBP.SENT_CFG n) 19 17)
/-- The word of a SENT frame, its first nibble highest (R107); `sentFrame_good` ties it to the model. -/
def State.sentRaw (s : State) (n : Nat) (data : List Nat) : Nat := (s.sentData n data).foldl (fun a x => a * 16 + x) 0

section Sent
variable {s : State} {n : Nat} (he : s.en (R.FBP.base n) = true) (hm : s.fbMode n = 5) {sync : Nat} (fall : Time)
  {status crc : Nat} {data : List Nat}
include he hm

/-- A sync pulse above its tolerance is remembered, and no word is taken (R107). -/
theorem State.sentFrame_longSync (h : 5 * (56 * ns (s.fld (R.FBP.SENT_CFG n) 16 0)) < 4 * sync) :
    s.sentFrame n sync fall status data crc = s.setFbp n (fun p => { p with sync := some sync }) := by
  have hlong : decide (4 * sync ≤ 5 * (56 * ns (wfld (s.rg (R.FBP.SENT_CFG n)) 16 0))) = false :=
    decide_eq_false (Nat.not_le.2 h)
  simp [State.sentFrame, he, hm, hlong]

/-- A frame with no sync pulse before it, its own pulse in tolerance and its CRC matching, is taken (R107, R108). -/
theorem State.sentFrame_good (hlo : 3 * (56 * ns (s.fld (R.FBP.SENT_CFG n) 16 0)) ≤ 4 * sync)
    (hhi : 4 * sync ≤ 5 * (56 * ns (s.fld (R.FBP.SENT_CFG n) 16 0))) (hy : (vget s.fbp n).sync = none) (hc : crc < 16)
    (hk : sentCrc4 (s.bit (R.FBP.SENT_CFG n) 20) (s.sentData n data) = crc) :
    s.sentFrame n sync fall status data crc =
      (((((s.setFbp n (fun p => { p with sync := some sync })).setRg64 (R.FBP.SER_RAW n) (s.sentRaw n data)).sentSlow n
        status).setFbp n (fun p => { p with sentLast := s.now })).acceptWord n (4 * s.fld (R.FBP.SENT_CFG n) 19 17)
          (s.sentRaw n data) ((fall : Int) - ns (s.fld (R.FBP.SER_LAT n) 19 0)) fall s.now) := by
  have htol : (decide (3 * (56 * ns (wfld (s.rg (R.FBP.SENT_CFG n)) 16 0)) ≤ 4 * sync) &&
      decide (4 * sync ≤ 5 * (56 * ns (wfld (s.rg (R.FBP.SENT_CFG n)) 16 0)))) = true := by
    rw [Bool.and_eq_true, decide_eq_true_iff, decide_eq_true_iff]
    exact ⟨hlo, hhi⟩
  have hcrc : ¬ sentCrc4 (s.bit (R.FBP.SENT_CFG n) 20) (s.sentData n data) ≠ crc % 16 := by
    rw [Nat.mod_eq_of_lt hc, hk]
    exact fun h => h rfl
  simp only [State.sentFrame, he, hm, htol, hy]
  exact if_neg hcrc

/-- SER_TMO without a valid frame is one failed request (R108). -/
theorem State.sentTimeout_due (hd : (vget s.fbp n).sentLast + ns (s.fld (R.FBP.SER_TMO n) 19 0) ≤ s.now) :
    s.sentTimeout n = ((s.setFbp n (fun p => { p with
      sentLast := (vget s.fbp n).sentLast + ns (s.fld (R.FBP.SER_TMO n) 19 0) })).serErr n 0x0A (R.FBP.SER_ERRCNT n) 15
      ((vget s.fbp n).sentLast + ns (s.fld (R.FBP.SER_TMO n) 19 0))).serFail n
      ((vget s.fbp n).sentLast + ns (s.fld (R.FBP.SER_TMO n) 19 0)) := by
  simp [State.sentTimeout, he, hm, hd]
end Sent

/-- DIAG_INT under command without an edge, in an incremental mode: EDGE_STALL, and the interval starts again (R111, R571). -/
theorem State.edgeStall_due {s : State} {n a b : Nat} {st : Time}
    (hf : (vget s.fbp n).stall.find? (fun x => x.1 == a) = some (b, st))
    (hd : st + us (s.fld (R.FBP.DIAG_INT n) 13 0) ≤ s.now) (hm : s.fbMode n < 3) : s.edgeStall n a =
      (s.setFbp n (fun p => { p with stall := (p.stall.filter (fun x => x.1 ≠ a)) ++
        [(a, st + us (s.fld (R.FBP.DIAG_INT n) 13 0))] })).fbFault n 3 0x12 s.now a := by
  simp only [State.edgeStall, hf]
  exact if_neg (not_or.2 ⟨Nat.not_lt.2 hd, Nat.not_le.2 hm⟩)

section Commands
variable {s u : State} {t : Time} (ht : s.tick t = u) (n : Fin 48)
include ht

theorem exec_serialRequest (tk : Time) : exec (.serialRequest t n tk) s = .next (u.serialRequest n tk) := by subst ht; rfl
theorem exec_serialWord (data crc : List Bool) : exec (.serialWord t n data crc) s = .next (u.serialWord n data crc) := by
  subst ht; rfl
theorem exec_serialTimeout : exec (.serialTimeout t n) s = .next (u.serialTimeout n) := by subst ht; rfl
theorem exec_sentFrame (sync : Nat) (fall : Time) (status crc : Fin 16) (data : List Nat) :
    exec (.sentFrame t n sync fall status data crc) s = .next (u.sentFrame n sync fall status data crc) := by subst ht; rfl
theorem exec_sentTimeout : exec (.sentTimeout t n) s = .next (u.sentTimeout n) := by subst ht; rfl
theorem exec_edgeStall (a : Fin 64) : exec (.edgeStall t n a) s = .next (u.edgeStall n a) := by subst ht; rfl
/-- LINE_FAULT in mode 0 with all three pairs used as LVDS inputs (R111). -/
theorem exec_lineFault_lvds (he : u.en (R.FBP.base n) = true) (hm : u.fbMode n = 0) (hl : u.fld (R.FBP.CTRL n) 6 4 = 0)
    {p : Fin 8} (hp : p.val ≠ 0) : exec (.lineFault t n p) s = .next (u.fbFault n 2 0x11 u.now p.val) := by
  have hall : p.val &&& 7 &&& (7 - 0) = p.val := by
    rw [Nat.sub_zero, Nat.and_assoc, Nat.and_self, Nat.and_two_pow_sub_one_of_lt_two_pow (n := 3) p.isLt]
  subst ht
  show execLineFault t n p s = _
  simp only [execLineFault, hm, hl, hall]
  rw [if_pos ⟨he, hp⟩]
end Commands

end Sys2Proof.Machine
end

section
/-! PROOFS. The obligation on the commands of the feedback ports. -/

namespace Sys2Proof

open Sys2Proof.Machine

/-- Settles O32: each command is one operation of its port, taken in the case that the clause names. -/
theorem portCommandsComplete : Obligations.portCommandsComplete := by
  unfold Obligations.portCommandsComplete
  refine ⟨?firstEdge, ?laterEdge, ?expirySettled, ?expiryAccepts, ?expiryIllegal, ?glitch, ?config, ?enable, ?restore, ?set,
    ?arm, ?disarm, ?reload, ?limit, ?request, ?badCrc, ?ssi, ?timeout, ?sentLong, ?sentGood, ?sentTimeout, ?lineFault,
    ?edgeStall, ?faultClear, ?fbSel⟩
  case firstEdge =>
    rintro s u _ t stamp n line level ht he hl ha rfl
    rw [exec_feedbackEdge ht, State.feedbackEdge_first he hl level ha]
    rfl
  case laterEdge =>
    rintro s u _ t stamp a n line level ht he hl ha rfl
    refine ⟨fun h => ?accepted, fun h => ?rejected⟩
    case accepted =>
      rw [exec_feedbackEdge ht, State.feedbackEdge_accepted he hl level ha h]
      rfl
    case rejected =>
      rw [exec_feedbackEdge ht, State.feedbackEdge_rejected he hl level ha h]
      rfl
  case expirySettled =>
    intro s u t a n line ht he ha hd hr hv
    rw [exec_minIntExpiry ht n line ha, State.minIntExpiry_settled he ha hd hr hv]
    rfl
  case expiryAccepts =>
    rintro s u _ t a n line ht he ha hd hr hv rfl
    rw [exec_minIntExpiry ht n line ha, State.minIntExpiry_accepts he ha hd hr hv]
    rfl
  case expiryIllegal =>
    rintro s u _ t a n line ht he hm ha hd hs hp hv rfl
    rw [exec_minIntExpiry ht n line ha, State.minIntExpiry_illegal he ha hd hm hs hp hv]
    rfl
  case glitch =>
    intro s u t l n ht hl hc hd
    rw [exec_glitchGatheredPost ht, State.glitchDue_gathered hl hc hd]
    rfl
  case config =>
    intro s u t m n v ht hw
    refine ⟨fun he hm hs => ?disabled, fun he => ?enabled⟩
    case disabled => rw [exec_fbpConfigWrite ht m n hw, State.writeFbCtrl_disabled he hm hs]
    case enabled => rw [exec_fbpConfigWrite ht m n hw, State.writeFbCtrl_enabled he]
  case enable => exact fun s u t m n ht hw he => exec_portEnable ht m n hw he
  case restore =>
    intro s u t m n ht hw hs hv hlo hhi
    rw [exec_fbRestore ht m n hw, State.posCmd_restore hs hv hlo hhi]
  case set =>
    rintro s u _ t m n ht hw rfl
    refine ⟨fun h => ?valid, fun hm hf => ?faulted⟩
    case valid => rw [exec_fbSet ht m n hw, State.posCmd_set h]
    case faulted => rw [exec_fbSet ht m n hw, State.posCmd_set_faulted hm hf]
  case arm =>
    intro s u t m n ht hw hm
    rw [exec_fbZsetArm ht m n hw, State.posCmd_arm hm]
  case disarm =>
    intro s u t m n ht hw hm
    rw [exec_fbZsetDisarm ht m n hw, State.posCmd_disarm hm]
  case reload =>
    intro s u t m n ht hw hm
    rw [exec_fbReload ht m n hw, State.posCmd_reload hm]
  case limit =>
    intro s u t m n v ht hw hv
    refine ⟨fun _ hlo hhi => ?inside, fun h => ?empty⟩
    case inside => rw [exec_limitWrite ht m n hw, State.writeLimit_high_inside hv hlo hhi]
    case empty => rw [exec_limitWrite ht m n hw, State.writeLimit_high_empty h]
  case request =>
    intro s u t tk n ht he hm hq hd hp hr
    rw [exec_serialRequest ht, State.serialRequest_starts he hm hq hd hp hr]
  case badCrc =>
    rintro s u _ t tr tk n d crc ht hr hm hj hk rfl _ _ hc
    rw [exec_serialWord ht, State.serialWord_badCrc hr hj d crc hm hk hc]
    rfl
  case ssi =>
    rintro s u _ t tr tk n d crc ht hr hm hj hg hd hk rfl _ _ _
    rw [exec_serialWord ht, State.serialWord_ssi hr hj d crc hm hg hd hk]
    rfl
  case timeout =>
    intro s u t tr tk n ht hr hm hd
    rw [exec_serialTimeout ht, State.serialTimeout_biss hr hm hd]
  case sentLong =>
    intro s u t fall n sync status crc d ht he hm h
    rw [exec_sentFrame ht, State.sentFrame_longSync he hm fall h]
  case sentGood =>
    rintro s u _ t fall n sync status crc d ht he hm hlo hhi hy hk rfl _
    rw [exec_sentFrame ht, State.sentFrame_good he hm fall hlo hhi hy crc.isLt hk]
    rfl
  case sentTimeout =>
    intro s u t n ht he hm hd
    rw [exec_sentTimeout ht, State.sentTimeout_due he hm hd]
  case lineFault => exact fun s u t n p ht he hm hl hp => exec_lineFault_lvds ht n he hm hl hp
  case edgeStall =>
    intro s u t st n a b ht hf hd hm
    rw [exec_edgeStall ht, State.edgeStall_due hf hd hm]
  case faultClear =>
    intro s u t m n v ht hw
    refine ⟨fun h => ?some, fun hf h => ?last⟩
    case some => rw [exec_fbpFaultClear ht m n hw, State.fbFaultClear_some h]
    case last => rw [exec_fbpFaultClear ht m n hw, State.fbFaultClear_last hf h]
  case fbSel => exact fun s u t m a v ht hw => exec_fbSelWrite ht m a v hw

end Sys2Proof
end

section
/-! PROOFS. The windows, the losses and the configuration of a modulator input, case by case (R119 to R121, R123, R126, R127). -/

namespace Sys2Proof.Machine

/-- The word that a window's bits give, inverted where `IN.CFG` asks for it (R123); `windowDone_clean` ties it to the model. -/
def State.mainWord (s : State) (n i : Nat) (bits : List Bool) : Word :=
  BitVec.ofInt 32 (sinc3 (s.osr n i) (bits.map (fun b => b != s.bit (R.SDM.IN_CFG n i) 4)))
/-- An input whose oldest window has completed at `fin` and is valid; `windowDone_clean` ties it to the model. -/
def State.winTaken (s : State) (n i : Nat) (rest : List SdWin) (fin : Int) : State :=
  s.setIn n i (fun d => { d with wins := rest, past := d.past ++ [fin], inv := false })

/-- An internally clocked input is neither external nor Manchester (R119). -/
theorem State.sdInt_eq_true {s : State} {n i : Nat} :
    s.sdInt n i = true ↔ s.sdExt n = false ∧ s.bit (R.SDM.IN_CFG n i) 1 = false := by
  simp [State.sdInt]

/-- A window of an internally clocked input that ends in time, with nothing that spoils it, is valid (R123, R124). -/
theorem State.windowDone_clean {s : State} {n i : Nat} {clk : List Time} {pin : List (Time × Bool)} {w : SdWin}
    {rest : List SdWin} {bits : List Bool} {c0 fin : Int} (hw : (vget (s.sd n).ins i).wins = w :: rest)
    (hint : s.sdInt n i = true) (hbits : s.windowBits n i w clk pin = some (bits, c0, fin)) (hend : fin ≤ (s.now : Int))
    (hready : fin + ns 60 ≤ (w.ready : Int)) (hinj : s.bit (R.PG_ERRINJ (R.SDM.base n)) 16 = false)
    (hstuck : (vget (s.sd n).ins i).stuck = none) (hchg : (s.sd n).changed = none)
    (hman : (vget (s.sd n).ins i).manErr = none) (hlost : (s.sd n).lost = none) (hsince : ((s.sd n).since : Int) ≤ c0)
    (run : Time) : s.windowDone n i clk pin run =
      ((((((s.winTaken n i rest fin).setRg (R.SDM.IN_MAIN n i) (s.mainWord n i bits)).setRg (R.SDM.IN_CENTRE_ERR n i)
        (BitVec.ofNat 32 (ux 16 ((c0 + fin) / 2 - w.tk)))).putBit (R.SDM.STAT n) i true).putBit (R.SDM.STAT n) (4 + i)
        (!s.centred n i w.tk)).slotFrames n w.tk (fun f => { f with
          words := vupd f.words (2 + i) (fun _ => s.mainWord n i bits), good := f.good ||| 2 ^ i })).sdmInv n := by
  obtain ⟨hext, -⟩ := State.sdInt_eq_true.1 hint
  have hlate : decide ((w.ready : Int) < fin + ns 60) = false := decide_eq_false (Int.not_lt.2 hready)
  have hbegun : decide (c0 < ((s.sd n).since : Int)) = false := decide_eq_false (Int.not_lt.2 hsince)
  simp only [State.windowDone, hw, hbits, hext, hlate, hbegun, hinj, hstuck, hchg, hman, hlost, hits, Bool.and_false,
    Bool.false_and, Bool.or_false, Bool.not_false, Bool.false_eq_true, if_false]
  exact if_neg (Int.not_lt.2 hend)

/-- What the loss of an external clock leaves (R120, R127). -/
theorem State.clkLoss_due {s : State} {n : Nat} {last : Time} (he : s.en (R.SDM.base n) = true) (hx : s.sdExt n = true)
    (hd : last + 4 * s.sdP n ≤ s.now) : s.clkLoss n last =
      ((List.range 4).foldl (fun (w : State) i => if w.inEn n i then w.setIn n i (fun d => { d with inv := true }) else w)
        ((s.setSd n (fun d => { d with lost := some s.now, clk := false })).sdFault n 8 0x32 0)).sdmInv n := by
  simp only [State.clkLoss, he, hx, decide_eq_false (Nat.not_lt.2 hd)]
  rfl

/-- A Manchester error of an enabled Manchester input (R121). -/
theorem State.manErr_enabled {s : State} {n i : Nat} (he : s.inEn n i = true) (hm : s.bit (R.SDM.IN_CFG n i) 1 = true)
    (c : Time) : s.manErr n i c =
      ((s.setIn n i (fun d => { d with manErr := some c })).count (R.SDM.ERRCNT n) 15 0 1).sdFault n (4 + i) 0x31
        (i + 1 * 2 ^ 16) := by
  simp only [State.manErr, he, hm]
  rfl

/-- No transition for STUCK_N × 8 bits, with STUCK_N not 0 (R127). -/
theorem State.sdStuck_due {s : State} {n i : Nat} {run : Time} {per : Nat} (he : s.inEn n i = true)
    (hk : s.fld (R.SDM.IN_CFG n i) 31 24 ≠ 0)
    (hd : run + s.fld (R.SDM.IN_CFG n i) 31 24 * 8 * (if s.sdInt n i then s.sdP n else per) ≤ s.now) :
    s.sdStuck n i run per = (s.setIn n i (fun d => { d with stuck := some run })).sdFault n i 0x30 i := by
  simp only [State.sdStuck, he, decide_eq_false hk, decide_eq_false (Nat.not_lt.2 hd)]
  rfl

/-- `IN.CFG` is refused while EN = 1 (R126). -/
theorem State.writeInCfg_enabled {s : State} {n : Nat} (he : s.en (R.SDM.base n) = true) (m : Master) (i v : Nat) :
    s.writeInCfg m n i v = s.cfgRefused (R.SDM.base n) := by
  simp only [State.writeInCfg, he, Bool.true_or, if_true]
/-- `CLK_CFG` takes any value while EN = 0, and DIV is in force at once (R119, R126). -/
theorem State.writeClkCfg_disabled {s : State} {n : Nat} (he : s.en (R.SDM.base n) = false) (m : Master) (v : Nat) :
    s.writeClkCfg m n v = ((s.setSd n (fun d => { d with
      dlys := d.dlys.filter (fun x => decide (s.now ≤ x.1 + ns 1000000)) ++ [(s.now, s.fld (R.SDM.CLK_CFG n) 23 16)] })).writeReg
        m (R.SDM.base n) (R.SDM.CLK_CFG n) v).divCommit n s.now := by
  simp only [State.writeClkCfg, he]
  rfl

section Commands
variable {s u : State} {t : Time} (ht : s.tick t = u) (n : Fin 48)
include ht

theorem exec_sinc3Window_internal {i : Fin 4} (hint : u.sdInt n i = true) (clk : List Time) (pin mid : List (Time × Bool))
    (run : Time) : exec (.sinc3Window t n i clk pin mid run) s = .next (u.windowDone n i clk pin run) := by
  obtain ⟨-, hman⟩ := State.sdInt_eq_true.1 hint
  subst ht
  show execSinc3Window t n i clk pin mid run s = _
  simp only [execSinc3Window, hman, Bool.false_eq_true, if_false]
theorem exec_sdClkLoss (last : Time) : exec (.sdClkLoss t n last) s = .next (u.clkLoss n last) := by subst ht; rfl
theorem exec_sdManErr (i : Fin 4) (c : Time) : exec (.sdManErr t n i c) s = .next (u.manErr n i c) := by subst ht; rfl
theorem exec_sdStuck (i : Fin 4) (run : Time × Nat) :
    exec (.sdStuck t n i run) s = .next (u.sdStuck n i run.1 run.2) := by subst ht; rfl

section Config
variable (hw : u.Writable (R.SDM.base n)) (m : Master) {k : Fin 5} (v : Word)
include hw

theorem exec_sdmConfigWrite_input (hk : k.val < 4) :
    exec (.sdmConfigWrite t m n k v) s = .next (u.writeInCfg m n k v.toNat) := by
  subst ht
  exact congrArg Host.Outcome.next ((State.onPage_writable hw).trans (if_pos hk))
theorem exec_sdmConfigWrite_clock (hk : k.val = 4) :
    exec (.sdmConfigWrite t m n k v) s = .next (u.writeClkCfg m n v.toNat) := by
  subst ht
  exact congrArg Host.Outcome.next ((State.onPage_writable hw).trans (if_neg (Nat.not_lt.2 hk.ge)))
end Config
end Commands

end Sys2Proof.Machine
end

section
/-! PROOFS. The conversions and the window comparators of the auxiliary inputs, and the chopper's waits, case by case (R132 to
R136, R183, R327). -/

namespace Sys2Proof.Machine

/-- The triggered conversion that waits first starts, with no conversion before it (R133). -/
theorem State.auxStart_triggered {s : State} {m : Nat} {tk : Time} {n j : Nat} {rest : List (Time × Nat × Nat)}
    (hc : (vget s.aux m).conv = none) (hl : (vget s.aux m).lastS = none) (he : s.en (R.AUXADC.base m) = true)
    (hq : (vget s.aux m).queue = (tk, n, j) :: rest) (hd : tk ≤ s.now) : s.auxStart m =
      ({ s with aux := vupd s.aux m (fun a => { a with
        conv := some ⟨j, max (ceilEdge tk) 0, some (tk, n)⟩, lastS := some (max (ceilEdge tk) 0),
        queue := rest }) } : State).auxStat m := by
  have hfree : decide (s.now < 0) = false := decide_eq_false (Nat.not_lt_zero _)
  simp only [State.auxStart, hc, hl, he, hq, hfree, Option.isSome_none, Bool.or_false, Bool.not_true, Bool.false_eq_true,
    if_false]
  exact if_neg (Nat.not_lt.2 hd)

/-- RESULT and STAMP of an input, and what the Hopper takes of them (R132); `auxDone_untriggered` ties it to the model. -/
def State.auxResult (s : State) (m j : Nat) (st : Time) (r : Word) : State :=
  ((s.setRg (R.AUXADC.AIN_RESULT m j) r).setRg64 (R.AUXADC.AIN_STAMP m j) st).hopNode 4 (8 * m + j) r st
/-- The ADC is free again, and the conversion's end is kept; `auxDone_untriggered` ties it to the model. -/
def State.auxFree (s : State) (m j : Nat) (st : Time) : State :=
  ({ s with aux := vupd s.aux m (fun a => { a with
    conv := none, doneAt := vupd a.doneAt j (fun _ => some (st + ns 200)) }) } : State).auxStat m
/-- Word 16 of a frame that is not ready takes a result sampled by its instant (R133); `auxDone_untriggered` ties it to the
model. -/
def Frame.takeAux (st : Time) (r : Word) (f : Frame) : Frame :=
  if !f.isReady ∧ st ≤ f.tk then { f with words := vupd f.words 16 (fun _ => r) } else f
/-- The frames of the axes whose slot assigns the input to AUX1 (R133); `auxDone_untriggered` ties it to the model. -/
def State.auxFrames (s : State) (ain : Nat) (st : Time) (r : Word) : State :=
  (List.range 64).foldl (fun (x : State) a => match x.slotOf a with
    | some n => if x.auxOf n 5 = some ain then
        { x with ax := vupd x.ax a (fun y => { y with lv := y.lv.map (fun l => { l with
          frames := l.frames.map (Frame.takeAux st r) }) }) }
      else x
    | none => x) s
/-- The slots whose brake chopper the input serves, at the present instant (R183); `auxDone_untriggered` ties it to the
model. -/
def State.auxChoppers (s : State) (ain : Nat) : State :=
  (List.range 48).foldl (fun (x : State) n => if x.auxOf n 4 = some ain then x.slotEval n else x) s

/-- A conversion that nothing triggered completes 200 ns after it was sampled (R132, R134, R183). -/
theorem State.auxDone_untriggered {s : State} {m j : Nat} {st : Time} (hc : (vget s.aux m).conv = some ⟨j, st, none⟩)
    (hd : st + ns 200 ≤ s.now) {code : Nat} {r : Word} (hr : BitVec.ofNat 32 (code % 65536 * 2 ^ 15) = r) :
    s.auxDone m code = (((s.auxResult m j st r).auxFree m j st).auxFrames (8 * m + j) st r).auxChoppers (8 * m + j) := by
  simp only [State.auxDone, hc, hr]
  exact if_neg (Nat.not_lt.2 hd)

/-- The level of an auxiliary input as a crossing leaves it (R136); `winCompare_disabled` and `winCompare_above` tie it to the
model. -/
def State.setAinLevel (s : State) (m j v : Nat) : State :=
  { s with aux := vupd s.aux m (fun a => { a with levels := vupd a.levels j (fun _ => v) }) }

/-- The level is in no register. -/
@[simp] theorem State.rg_setAinLevel (s : State) (m j v a : Nat) : (s.setAinLevel m j v).rg a = s.rg a := rfl

section Window
variable {s : State} {m j : Nat} (hlo : s.bit (R.AUXADC.AIN_WIN_CFG m j) 31 = false)
include hlo

/-- Disabled halves hold their flags at 0 (R136). -/
theorem State.winCompare_disabled (hhi : s.bit (R.AUXADC.AIN_WIN_CFG m j) 30 = false) (v : Nat) : s.winCompare m j v =
    ((s.setAinLevel m j v).setWinFlag m j false false).setWinFlag m j true false := by
  rw [State.bit] at hhi hlo
  rw [State.winCompare, ← State.setAinLevel]
  simp only [State.rg_setAinLevel, hhi, hlo, Bool.false_and]
/-- A level above the high threshold sets the high flag, with no test on that side (R136). -/
theorem State.winCompare_above (hhi : s.bit (R.AUXADC.AIN_WIN_CFG m j) 30 = true)
    (hflag : s.bit (R.AUXADC.AIN_WIN_STAT m j) 0 = false) {v : Nat}
    (htest : (s.setAinLevel m j v).winPhase (8 * m + j) false = none)
    (hv : s.fld (R.AUXADC.AIN_WIN_CFG m j) 11 0 * 2 ^ 20 < v) : s.winCompare m j v =
      ((s.setAinLevel m j v).setWinFlag m j false true).setWinFlag m j true false := by
  rw [State.bit] at hhi hlo hflag
  rw [State.fld] at hv
  rw [State.winCompare, ← State.setAinLevel]
  simp only [State.rg_setAinLevel, hhi, hlo, hflag, htest, Int.ofNat_lt, hv, decide_true,
    Bool.true_and, Bool.false_and, Bool.false_eq_true, if_false]
end Window

/-- The bridge of a stepper slot that waits in the named state takes its step (R327). -/
theorem State.chopperWait_of_brState {s : State} {n a x st : Nat} (ha : s.stepAxis n = some a) (h : s.brState a x = st) :
    s.chopperWait n x st = (s.brStep n a x).slotEval n := by
  simp only [State.chopperWait, ha]
  exact if_pos h

section Commands
variable {s u : State} {t : Time} (ht : s.tick t = u)
include ht

theorem exec_auxConversionStart (m : Fin 2) : exec (.auxConversionStart t m) s = .next (u.auxStart m) := by subst ht; rfl
theorem exec_auxConversionDone (m : Fin 2) (x : Nat) :
    exec (.auxConversionDone t m x) s = .next (u.auxDone m (adcCode x)) := by subst ht; rfl
theorem exec_auxWindowCrossing (m : Fin 2) (j : Fin 8) (v : Nat) :
    exec (.auxWindowCrossing t m j v) s = .next (u.winCompare m j v) := by subst ht; rfl
theorem exec_cmpThresholdCrossing (n : Fin 48) (i : Fin 4) (clk : List Time) (pin : List (Time × Bool)) (c : Time) :
    exec (.cmpThresholdCrossing t n i clk pin c) s = .next ((u.fastUpdate n i clk pin c).chopperEval n) := by subst ht; rfl
theorem exec_chopperFastEnd (n : Fin 48) (x : Fin 2) : exec (.chopperFastEnd t n x) s = .next (u.chopperWait n x 1) := by
  subst ht; rfl
theorem exec_chopperOffEnd (n : Fin 48) (x : Fin 2) : exec (.chopperOffEnd t n x) s = .next (u.chopperWait n x 2) := by
  subst ht; rfl
theorem exec_chopperBlankEnd (n : Fin 48) (x : Fin 2) : exec (.chopperBlankEnd t n x) s = .next (u.chopperWait n x 0) := by
  subst ht; rfl
end Commands

end Sys2Proof.Machine
end

section
/-! PROOFS. The obligation on the commands of current sensing and of the stepper's chopper. -/

namespace Sys2Proof

open Sys2Proof.Machine

/-- Settles O35: each command is one operation of its input, its ADC or its bridge, taken in the case that the clause names. -/
theorem sensingCommandsComplete : Obligations.sensingCommandsComplete := by
  unfold Obligations.sensingCommandsComplete
  refine ⟨?window, ?clkLoss, ?manErr, ?stuck, ?config, ?start, ?done, ?disabled, ?above, ?fast, ?chopper⟩
  case window =>
    intro s u t run n i clk pin mid w rest bits c0 fin ht hw hint hbits hend hready hinj hstuck hchg hman hlost hsince
    rw [exec_sinc3Window_internal ht n hint,
      State.windowDone_clean hw hint hbits hend hready hinj hstuck hchg hman hlost hsince]
    rfl
  case clkLoss =>
    intro s u t last n ht he hx hd
    rw [exec_sdClkLoss ht, State.clkLoss_due he hx hd]
  case manErr =>
    intro s u t c n i ht he hm
    rw [exec_sdManErr ht, State.manErr_enabled he hm]
  case stuck =>
    intro s u t n i run ht he hk hd
    rw [exec_sdStuck ht, State.sdStuck_due he hk hd]
  case config =>
    intro s u t m n k v ht hw
    refine ⟨fun hk he => ?input, fun hk he => ?clock⟩
    case input => rw [exec_sdmConfigWrite_input ht n hw m v hk, State.writeInCfg_enabled he]
    case clock => rw [exec_sdmConfigWrite_clock ht n hw m v hk, State.writeClkCfg_disabled he]
  case start =>
    intro s u t tk m n j rest ht hc hl he hq hd
    rw [exec_auxConversionStart ht, State.auxStart_triggered hc hl he hq hd]
  case done =>
    rintro s u _ t m x j st r ht hc hd hr rfl
    rw [exec_auxConversionDone ht, State.auxDone_untriggered hc hd hr]
    rfl
  case disabled =>
    rintro s u _ t m j v ht hhi hlo rfl
    rw [exec_auxWindowCrossing ht, State.winCompare_disabled hlo hhi]
    rfl
  case above =>
    rintro s u _ t m j v ht hhi hlo hflag rfl htest hv
    rw [exec_auxWindowCrossing ht, State.winCompare_above hlo hhi hflag htest hv]
    rfl
  case fast => exact fun s u t c n i clk pin ht => exec_cmpThresholdCrossing ht n i clk pin c
  case chopper =>
    intro s u t n x a ht ha
    refine ⟨fun h => ?fastEnd, fun h => ?offEnd, fun h => ?blankEnd⟩
    case fastEnd => rw [exec_chopperFastEnd ht, State.chopperWait_of_brState ha h]
    case offEnd => rw [exec_chopperOffEnd ht, State.chopperWait_of_brState ha h]
    case blankEnd => rw [exec_chopperBlankEnd ht, State.chopperWait_of_brState ha h]

end Sys2Proof
end

section
/-! PROOFS. Writes to `CTRL`, `COMM_CFG` and `OVR_MASK` of a PWM slot, case by case (R144, R146, R156, R158, R159). -/

namespace Sys2Proof.Machine

section Write
variable {s : State} {n : Nat}

/-- `CTRL` is refused while EN = 1 and with a reserved field (R146). -/
theorem State.writePwmCtrl_refused {v : Nat}
    (h : s.en (R.PWM.base n) = true ∨ bitsN v 1 0 = 3 ∨ bitsN v 4 3 = 3 ∨ bitsN v 6 5 = 3) (m : Master) :
    s.writePwmCtrl m n v = s.cfgRefused (R.PWM.base n) :=
  if_pos (by simpa only [Bool.or_eq_true, beq_iff_eq, or_assoc] using h)
/-- `CTRL` takes a value without a reserved field while EN = 0, and what hangs on the mode follows (R146). -/
theorem State.writePwmCtrl_disabled (he : s.en (R.PWM.base n) = false) {v : Nat} (ho : bitsN v 1 0 ≠ 3)
    (hu : bitsN v 4 3 ≠ 3) (hg : bitsN v 6 5 ≠ 3) {m : Master} {w : State}
    (hw : (s.writeReg m (R.PWM.base n) (R.PWM.CTRL n) v).chopInactive n = w) : s.writePwmCtrl m n v =
      ((((w.pickMask n w.now).cmpMuteSync n).ascSync n).ascReport n (s.bit (R.PSP.STAT n) 3)).slotEval n := by
  subst hw
  exact if_neg (by simp [he, ho, hu, hg])

/-- `COMM_CFG` written with EN = 1 keeps the waiting mask applications (R158). -/
theorem State.writeCommCfg_enable {v : Nat} (hv : bitN v 0 = true) (m : Master) :
    s.writeCommCfg m n v = (s.writeReg m (R.PWM.base n) (R.PWM.COMM_CFG n) v).maskFrom n := if_pos hv

/-- A mask that R156 does not allow is refused. -/
theorem State.writeOvr_refused {v : Nat} (h : s.maskValid n (bitsN v 15 0) = false) (m : Master) :
    s.writeOvr m n v = s.cfgRefused (R.PWM.base n) := if_pos (by rw [h]; rfl)
/-- An override that begins is posted, and its mask applies from the next TCLK edge (R159). -/
theorem State.writeOvr_begins {v : Nat} (h : s.maskValid n (bitsN v 15 0) = true)
    (hwas : s.bit (R.PWM.OVR_MASK n) 16 = false) (hon : bitN v 16 = true) (m : Master) : s.writeOvr m n v =
      ((s.writeReg m (R.PWM.base n) (R.PWM.OVR_MASK n) v).post (slotSrc n) 0x08 (ceilEdge (s.now + 1)) 1).maskFrom n := by
  simp [State.writeOvr, h, hwas, hon, b2n]

end Write

section Commands
variable {s u : State} {t : Time} (ht : s.tick t = u) (m : Master) (n : Fin 48) (hw : u.Writable (R.PWM.base n))
include ht hw

theorem exec_slotEnable (he : u.en (R.PWM.base n) = false) :
    exec (.slotEnable t m n) s = .next ((u.putBit (R.PG_CTRL (R.PWM.base n)) 0 true).slotEnable n) := by
  subst ht
  exact congrArg Host.Outcome.next ((State.onPage_writable hw).trans (if_neg (by rw [he]; exact Bool.false_ne_true)))
theorem exec_pwmConfigWrite (v : Word) : exec (.pwmConfigWrite t m n v) s = .next (u.writePwmCtrl m n v.toNat) := by
  subst ht
  exact congrArg Host.Outcome.next (State.onPage_writable hw)
theorem exec_commEnable (port : Fin 64) :
    exec (.commEnable t m n port) s = .next (u.writeCommCfg m n (1 + 2 * port.val)) := by
  subst ht
  exact congrArg Host.Outcome.next (State.onPage_writable hw)
theorem exec_pwmOverride (v : Word) : exec (.pwmOverride t m n v) s = .next (u.writeOvr m n v.toNat) := by
  subst ht
  exact congrArg Host.Outcome.next (State.onPage_writable hw)

end Commands

end Sys2Proof.Machine
end

section
/-! PROOFS. The counter's pause, the trip filters and the mask applications of a PWM slot, case by case (R148, R149, R152 to
R154, R158). -/

namespace Sys2Proof.Machine

/-- A change of one element depends on that element alone. -/
theorem vupd_congr {α} {k : Nat} [Inhabited α] {v : Vector α k} {i : Nat} {f g : α → α}
    (h : f (vget v i) = g (vget v i)) : vupd v i f = vupd v i g := by
  unfold vget at h
  unfold vupd
  split
  case isTrue hi => rw [dif_pos hi] at h; rw [h]
  case isFalse => rfl

/-- A change of a slot's PWM state depends on that state alone. -/
theorem State.setPw_congr {s : State} {n : Nat} {f g : PwmSt → PwmSt} (h : f (s.pw n) = g (s.pw n)) :
    s.setPw n f = s.setPw n g :=
  congrArg (fun b => { s with pwm := b }) (vupd_congr h)

/-- A raw level that leaves the output's, with no run broken off, begins a run at its instant (R154). -/
theorem Filt.change_of_settled {f : Filt} (hraw : f.raw = f.out) (hleft : f.left = none) (level : Bool) (t p : Time) :
    f.change level t p = { f with raw := level, since := t, left := none } := by
  simp only [Filt.change, hleft, ne_eq, hraw, not_true_eq_false, if_false]

section Filter
variable {s : State} {n k : Nat}

/-- A filter whose raw level is the output's has nothing to expire (R154). -/
theorem State.tripExpiry_settled (h : (vget (s.pw n).filt k).raw = (vget (s.pw n).filt k).out) : s.tripExpiry n k = s :=
  if_neg fun hd => hd.1 h
/-- A raw level that has held for LEN samples becomes the output's (R154). -/
theorem State.tripExpiry_due {b : Bool} (hraw : (vget (s.pw n).filt k).raw = b) (hout : (vget (s.pw n).filt k).out ≠ b)
    (hd : s.tripDue n k (vget (s.pw n).filt k).since ≤ s.now) : s.tripExpiry n k =
      (s.setPw n (fun p => { p with filt := vupd p.filt k (fun f => { f with out := f.raw, left := none }) })).srcSet n k b := by
  subst hraw
  exact (if_pos ⟨hout.symm, hd⟩).trans (if_neg hout)
/-- The raw level of a settled filter of LEN samples changes: it is held with its instant (R154). Filter 0, left out
here, also notes the gates that FLTA is laid to (R166). -/
theorem State.tripRaw_leaves {level : Bool} (hk : k ≠ 0) (hraw : (vget (s.pw n).filt k).raw = level)
    (hlen : s.tripLen n k ≠ 0) (hout : (vget (s.pw n).filt k).out = level) (hleft : (vget (s.pw n).filt k).left = none)
    (hfrom : (s.pw n).tripFrom ≤ s.now) : s.tripRaw n k (!level) = s.setPw n (fun p => { p with
      filt := vupd p.filt k (fun f => { f with raw := !level, since := s.now, left := none }) }) := by
  have hsettled := hraw.trans hout.symm
  have hinstant : max s.now ((s.pw n).tripFrom - 1) = s.now := Nat.max_eq_left ((Nat.sub_le _ _).trans hfrom)
  have hrecord : s.setPw n (fun p => { p with
      filt := vupd p.filt k (fun f => f.change (!level) (max s.now (p.tripFrom - 1)) (s.tripPer n)) }) =
      s.setPw n (fun p => { p with
        filt := vupd p.filt k (fun f => { f with raw := !level, since := s.now, left := none }) }) :=
    State.setPw_congr (congrArg (fun b => { s.pw n with filt := b })
      (vupd_congr (by rw [hinstant, Filt.change_of_settled hsettled hleft])))
  have hchanges : ¬ (vget (s.pw n).filt k).raw = !level := by rw [hraw]; cases level <;> decide
  simp only [State.tripRaw, State.tripExpiry_settled hsettled, hrecord, if_neg hchanges, hk, hlen, false_and, if_false]

end Filter

/-- One waiting mask application that is due and not late (R158). -/
theorem State.commDue_single {s : State} {n : Nat} {c : Time} {h : Nat} (hp : (s.pw n).commPend = [(c, h, c)])
    (hd : c ≤ s.now) : s.commDue n =
      (s.setPw n (fun p => { p with commPend := p.commPend.erase (c, h, c) })).setHall n h c := by
  have hdue : (s.pw n).commPend.filter (fun x => x.1 ≤ s.now) = [(c, h, c)] := by simp [hp, hd]
  rw [State.commDue, hdue]
  exact if_neg (Nat.lt_irrefl c)

section Commands
variable {s u : State} {t : Time} (ht : s.tick t = u) (n : Fin 48)
include ht

/-- The pause of a re-anchored counter ends (R148). -/
theorem exec_reanchorPauseEnd_due {e : Time} {x : Nat} (hp : (u.pw n).pause = some (e, x)) (hd : e ≤ u.now) :
    exec (.reanchorPauseEnd t n) s =
      .next (((u.setPw n (fun p => { p with pause := none })).putBit (R.PWM.STAT n) 3 false).slotEval n) := by
  subst ht
  show execReanchorPauseEnd t n s = _
  simp only [execReanchorPauseEnd, hp, if_pos hd]
theorem exec_compareMatch : exec (.compareMatch t n) s = .next (u.slotEval n) := by subst ht; rfl
theorem exec_deadTimeEnd : exec (.deadTimeEnd t n) s = .next (u.slotEval n) := by subst ht; rfl
theorem exec_tripSourceChange_fltb (level : Bool) :
    exec (.tripSourceChange t (.fltb n) level) s = .next (u.tripRaw n 1 (!level)) := by subst ht; rfl
theorem exec_tripFilterExpiry (k : Fin 18) : exec (.tripFilterExpiry t n k) s = .next (u.tripExpiry n k) := by
  subst ht; rfl
theorem exec_pwmComm : exec (.pwmComm t n) s = .next ((u.commDue n).slotEval n) := by subst ht; rfl

end Commands

end Sys2Proof.Machine
end

section
/-! PROOFS. The obligation on the commands of the PWM generator. -/

namespace Sys2Proof

open Sys2Proof.Machine

/-- Settles O33: each command is one operation of its slot, taken in the case that the clause names. -/
theorem pwmCommandsComplete : Obligations.pwmCommandsComplete := by
  unfold Obligations.pwmCommandsComplete
  refine ⟨?enable, ?configRefused, ?config, ?pauseEnd, ?counter, ?tripChange, ?tripExpiry, ?commEnable, ?comm, ?override,
    ?overrideRefused⟩
  case enable =>
    rintro s u _ t m n ht hw he rfl
    rw [exec_slotEnable ht m n hw he]
    rfl
  case configRefused =>
    intro s u t m n v ht hw h
    rw [exec_pwmConfigWrite ht m n hw, State.writePwmCtrl_refused h]
  case config =>
    intro s u w t m n v ht hw he ho hu hg hwrite
    rw [exec_pwmConfigWrite ht m n hw, State.writePwmCtrl_disabled he ho hu hg hwrite]
  case pauseEnd => exact fun s u t e n x ht hp hd => exec_reanchorPauseEnd_due ht n hp hd
  case counter => exact fun s u t n ht => ⟨exec_compareMatch ht n, exec_deadTimeEnd ht n⟩
  case tripChange =>
    intro s u t n level ht hraw hlen hout hleft hfrom
    rw [exec_tripSourceChange_fltb ht, State.tripRaw_leaves Nat.one_ne_zero hraw hlen hout hleft hfrom]
  case tripExpiry =>
    intro s u t n k b ht hraw hout hd
    rw [exec_tripFilterExpiry ht, State.tripExpiry_due hraw hout hd]
  case commEnable =>
    intro s u t m n port ht hw
    have hbit : bitN (1 + 2 * port.val) 0 = true := by simp [bitN]
    rw [exec_commEnable ht m n hw, State.writeCommCfg_enable hbit]
  case comm =>
    rintro s u _ t c n h ht hp hd rfl
    rw [exec_pwmComm ht, State.commDue_single hp hd]
  case override =>
    intro s u t m n v ht hw hv hwas hon
    rw [exec_pwmOverride ht m n hw, State.writeOvr_begins hv hwas hon]
  case overrideRefused =>
    intro s u t m n v ht hw hv
    rw [exec_pwmOverride ht m n hw, State.writeOvr_refused hv]

end Sys2Proof
end

section
/-! PROOFS. Latched levels, clears, Brakewheel requests and gates of a protected slot, case by case (R25, R169, R171, R173,
R178). -/

namespace Sys2Proof.Machine

section Slot
variable {s : State} {n : Nat}

/-- DEG_TIME has passed at L2: the slot goes to L3 (R169). -/
theorem State.degradeTimeout_due {t0 : Time} (hdeg : (s.ps n).degAt = some t0) (hl : s.slotLevel n = 2)
    (hd : t0 + ms (nz (s.fld (R.PSP.DEG_TIME n) 15 0)) ≤ s.now) :
    s.degradeTimeout n = (s.raiseLevel n 3).slotEval n := by
  have hstep : s.timerStep n s.now = s.raiseLevel n 3 := by
    simp only [State.timerStep, hdeg]
    exact if_pos ⟨hl, hd⟩
  rw [State.degradeTimeout, if_pos hl, hstep]
/-- STOP_TMAX has passed at L3, with no L2 timer left: the slot goes to L4 (R169). -/
theorem State.stopTimeout_due {t0 : Time} (hstop : (s.ps n).stopAt = some t0) (hdeg : (s.ps n).degAt = none)
    (hl : s.slotLevel n = 3) (hd : t0 + ms (nz (s.fld (R.PSP.STOP_TMAX n) 15 0)) ≤ s.now) :
    s.stopTimeout n = (s.raiseLevel n 4).slotEval n := by
  have hstep : s.timerStep n s.now = s.raiseLevel n 4 := by
    simp only [State.timerStep, hdeg, hstop]
    exact if_pos ⟨hl, hd⟩
  rw [State.stopTimeout, if_pos hl, hstep]

/-- The SPI and the debug port may not clear (R171). -/
theorem State.pspClear_refused {m : Master} (hm : m = .spi ∨ m = .debug) (v : Nat) :
    s.pspClear m n v = s.putBit (R.PG_STAT (R.PSP.base n)) 16 true := if_pos hm

section Allowed
variable {m : Master} (hspi : m ≠ .spi) (hdebug : m ≠ .debug)
include hspi hdebug

/-- With no self-test running the bits are judged at once (R171). -/
theorem State.pspClear_judged (h : (s.ps n).test = none) (v : Nat) : s.pspClear m n v = s.clearBits n (v % 2 ^ 20) :=
  (if_neg (not_or.2 ⟨hspi, hdebug⟩)).trans (if_neg (by simp [h]))
/-- The bits written while a self-test runs wait for its end (R171). -/
theorem State.pspClear_kept (h : (s.ps n).test ≠ none) (v : Nat) :
    s.pspClear m n v = s.setPs n (fun p => { p with clearPend := p.clearPend ||| v % 2 ^ 20 }) :=
  (if_neg (not_or.2 ⟨hspi, hdebug⟩)).trans (if_pos (Option.isSome_iff_ne_none.2 h))
end Allowed

/-- The request that is due first leaves the list and takes effect (R173). -/
theorem State.bwArrive_due {r : Nat × Nat × Time}
    (h : s.bw.reqs.find? (fun r => r.1 == n && decide (r.2.2 ≤ s.now)) = some r) :
    s.bwArrive n = ({ s with bw := { s.bw with reqs := s.bw.reqs.erase r } } : State).bwRequest n r.2.1 := by
  rw [State.bwArrive, h]
/-- A gate that is due alone reaches the slot (R25, R178). -/
theorem State.gateArrive_single {r : Nat × Bool × Time}
    (h : s.bw.gateReqs.filter (fun r => r.1 == n && decide (r.2.2 ≤ s.now)) = [r]) :
    s.gateArrive n = { s.setPw n (fun p => { p with sto := r.2.1 }) with bw := { s.bw with
      gateReqs := s.bw.gateReqs.filter (fun r => !(r.1 == n && decide (r.2.2 ≤ s.now))) } } := by
  simp only [State.gateArrive, h]
  rfl

end Slot

section Commands
variable {s u : State} {t : Time} (ht : s.tick t = u) (n : Fin 48)
include ht

theorem exec_degradeTimeout : exec (.degradeTimeout t n) s = .next (u.degradeTimeout n) := by subst ht; rfl
theorem exec_stopTimeout : exec (.stopTimeout t n) s = .next (u.stopTimeout n) := by subst ht; rfl
theorem exec_bwRequest : exec (.bwRequest t n) s = .next (u.bwArrive n) := by subst ht; rfl
theorem exec_slotStoGate : exec (.slotStoGate t n) s = .next ((u.gateArrive n).slotEval n) := by subst ht; rfl
theorem exec_chopLimit : exec (.chopLimit t n) s = .next (u.slotEval n) := by subst ht; rfl
theorem exec_chopCoolEnd : exec (.chopCoolEnd t n) s = .next (u.slotEval n) := by subst ht; rfl
theorem exec_chopStale : exec (.chopStale t n) s = .next (u.slotEval n) := by subst ht; rfl
theorem exec_chopMinOnEnd : exec (.chopMinOnEnd t n) s = .next (u.slotEval n) := by subst ht; rfl

section Page
variable (hw : u.Writable (R.PSP.base n)) (m : Master)
include hw

theorem exec_protectionEnable (he : u.en (R.PSP.base n) = false) :
    exec (.protectionEnable t m n) s = .next ((u.putBit (R.PG_CTRL (R.PSP.base n)) 0 true).pspEnable n) := by
  subst ht
  exact congrArg Host.Outcome.next ((State.onPage_writable hw).trans (if_neg (by rw [he]; exact Bool.false_ne_true)))
theorem exec_protectionClear (v : Word) : exec (.protectionClear t m n v) s = .next (u.pspClear m n v.toNat) := by
  subst ht
  exact congrArg Host.Outcome.next (State.onPage_writable hw)
theorem exec_selfTestStart (v : Word) : exec (.selfTestStart t m n v) s = .next (u.testStart n v.toNat) := by
  subst ht
  exact congrArg Host.Outcome.next (State.onPage_writable hw)
end Page

end Commands

end Sys2Proof.Machine
end

section
/-! PROOFS. The comparator self-test: what `TEST` begins, and how each of its two phases ends (R180 to R182). -/

namespace Sys2Proof.Machine

/-- The test that a value of `TEST` begins (R180, R181); `testStart_accepted` ties it to the model. -/
def State.newTest (s : State) (n v : Nat) : TestSt :=
  ⟨bitsN v 2 0, bitN v 3, bitN v 4, false, s.now, s.now + s.phaseLimit n (bitsN v 2 0) (bitN v 4), false, none,
    s.testFlag n (bitsN v 2 0) (bitN v 3), maskOf 8 (fun i => (s.gate n i).on), s.slotLevel n, s.now⟩
/-- The flag under test has taken the value that the phase asks for, from the other one and within the limit (R181);
`phaseEnd_set` and `phaseEnd_clear` tie it to the model. -/
def State.flagInTime (s : State) (n : Nat) (ts : TestSt) : Bool :=
  s.testFlag n ts.target ts.side != ts.flag0 && s.testFlag n ts.target ts.side == !ts.clear && decide (s.now ≤ ts.limit)
/-- The second phase of a test whose first phase ended now, in time or not (R181); `phaseEnd_set` ties it to the model. -/
def State.clearPhase (s : State) (n : Nat) (ts : TestSt) (inTime : Bool) : TestSt :=
  { ts with
    clear := true, start := s.now, limit := s.now + s.phaseLimit n ts.target ts.threshold
    flag0 := s.testFlag n ts.target ts.side, firstOk := inTime
    setAt := if inTime then some (s.now - ts.start) else if s.testImpossible n ts then none else some 0 }

section Test
variable {s v : State} {n : Nat} {ts : TestSt}

/-- A value of `TEST` that R180 refuses leaves TEST_REFUSED. -/
theorem State.testStart_refused {val : Nat} (h : s.testRefused n val = true) :
    s.testStart n val = s.putBit (R.PSP.TEST_STAT n) 3 true := if_pos h
/-- An accepted value of `TEST` begins the first phase (R180, R181). -/
theorem State.testStart_accepted {val : Nat} (h : s.testRefused n val = false) : s.testStart n val =
    ((s.setPs n (fun p => { p with test := some (s.newTest n val) })).setRg (R.PSP.TEST_STAT n) (BitVec.ofNat 32
      (1 + bitsN val 2 0 * 2 ^ 4 + b2n (bitN val 3) * 2 ^ 7 + b2n (bitN val 4) * 2 ^ 8))).putBit (R.PSP.STAT n) 16 true :=
  if_neg (by rw [h]; exact Bool.false_ne_true)

/-- The change from the phase's first flag to the one it asks for, by its limit, is in time (R181). -/
theorem State.flagInTime_of_change (h0 : ts.flag0 = ts.clear) (hf : s.testFlag n ts.target ts.side = !ts.clear)
    (hl : s.now ≤ ts.limit) : s.flagInTime n ts = true := by
  simp [State.flagInTime, h0, hf, hl]
/-- A flag that stands as at the start of the phase has not changed in time (R181). -/
theorem State.flagInTime_of_unchanged (hf : s.testFlag n ts.target ts.side = ts.flag0) : s.flagInTime n ts = false := by
  simp [State.flagInTime, hf]

/-- A phase that has seen its change or reached its limit does not go on. -/
theorem phase_over_of_change_or_limit {inTime : Bool} {now limit : Time} (h : inTime = true ∨ limit ≤ now) :
    (!inTime && decide (now < limit)) = false := by
  rcases h with h | h <;> simp [h]

section Phase
variable {clk : List Time} {pin : List (Time × Bool)} {inTime : Bool} (hts : (s.ps n).test = some ts)
  (hv : s.testUpdate n ts clk pin = v) (hin : v.flagInTime n ts = inTime) (hend : inTime = true ∨ ts.limit ≤ v.now)
include hts hv hin hend

/-- A first phase that ends, on the change in time or at its limit, goes on with the second (R181). -/
theorem State.phaseEnd_set (hc : ts.clear = false) :
    s.phaseEnd n clk pin = v.setPs n (fun p => { p with test := some (v.clearPhase n ts inTime) }) := by
  have hgoes : (!inTime && decide (v.now < ts.limit)) = false := phase_over_of_change_or_limit hend
  rw [State.flagInTime, hc, Bool.not_false] at hin
  simp only [State.phaseEnd, hts, hv, hin, hgoes, hc, Bool.false_eq_true, if_false, Bool.not_false, if_true]
  rfl
/-- A second phase after a first one in time ends the test: passed on the change in time, and else failed, or inconclusive
where the change was impossible (R181, R182). -/
theorem State.phaseEnd_clear (hc : ts.clear = true) (hfirst : ts.firstOk = true) :
    s.phaseEnd n clk pin =
      (v.testFinish n ts (if inTime then 1 else if v.testImpossible n ts then 3 else 2)).testRestore n ts := by
  have hgoes : (!inTime && decide (v.now < ts.limit)) = false := phase_over_of_change_or_limit hend
  rw [State.flagInTime, hc, Bool.not_true] at hin
  simp only [State.phaseEnd, hts, hv, hin, hgoes, hc, hfirst, Bool.false_eq_true, if_false, Bool.not_true, if_true]
  cases inTime <;> cases v.testImpossible n ts <;> rfl
end Phase
end Test

theorem exec_selfTestPhaseEnd {s u : State} {t : Time} (ht : s.tick t = u) (n : Fin 48)
    (line : List Time × List (Time × Bool)) :
    exec (.selfTestPhaseEnd t n line) s = .next (u.phaseEnd n line.1 line.2) := by subst ht; rfl

end Sys2Proof.Machine
end

section
/-! PROOFS. The obligation on the commands of the power stage protection. -/

namespace Sys2Proof

open Sys2Proof.Machine

/-- Settles O34: each command is one operation of its slot, taken in the case that the clause names. -/
theorem protectionCommandsComplete : Obligations.protectionCommandsComplete := by
  unfold Obligations.protectionCommandsComplete
  refine ⟨?enable, ?degrade, ?stop, ?clearRefused, ?clear, ?request, ?gate, ?testRefused, ?testStart, ?firstInTime,
    ?secondInTime, ?atLimit, ?chopper⟩
  case enable => exact fun s u t m n ht hw he => exec_protectionEnable ht n hw m he
  case degrade =>
    intro s u t t0 n ht hdeg hl hd
    rw [exec_degradeTimeout ht, State.degradeTimeout_due hdeg hl hd]
  case stop =>
    intro s u t t0 n ht hstop hdeg hl hd
    rw [exec_stopTimeout ht, State.stopTimeout_due hstop hdeg hl hd]
  case clearRefused =>
    intro s u t m n v ht hw hm
    rw [exec_protectionClear ht n hw, State.pspClear_refused hm]
  case clear =>
    intro s u t m n v ht hw hspi hdebug
    refine ⟨fun h => ?judged, fun h => ?kept⟩
    case judged => rw [exec_protectionClear ht n hw, State.pspClear_judged hspi hdebug h]
    case kept => rw [exec_protectionClear ht n hw, State.pspClear_kept hspi hdebug h]
  case request =>
    intro s u t d n l ht h
    rw [exec_bwRequest ht, State.bwArrive_due h]
  case gate =>
    intro s u t d n g ht h
    rw [exec_slotStoGate ht, State.gateArrive_single h]
  case testRefused =>
    intro s u t m n v ht hw h
    rw [exec_selfTestStart ht n hw, State.testStart_refused h]
  case testStart =>
    intro s u t m n v ht hw h
    rw [exec_selfTestStart ht n hw, State.testStart_accepted h]
    rfl
  case firstInTime =>
    intro s u v t n ts line ht hts hc h0 hv hf hl
    have hin : v.flagInTime n ts = true := State.flagInTime_of_change (h0.trans hc.symm) (by rw [hf, hc]; rfl) hl
    rw [exec_selfTestPhaseEnd ht, State.phaseEnd_set hts hv hin (.inl rfl) hc, State.clearPhase, hf]
    rfl
  case secondInTime =>
    intro s u v t n ts line ht hts hc h0 hfirst hv hf hl
    have hin : v.flagInTime n ts = true := State.flagInTime_of_change (h0.trans hc.symm) (by rw [hf, hc]; rfl) hl
    rw [exec_selfTestPhaseEnd ht, State.phaseEnd_clear hts hv hin (.inl rfl) hc hfirst]
    rfl
  case atLimit =>
    intro s u v t n ts line ht hts hv hf hl hpossible
    have hin : v.flagInTime n ts = false := State.flagInTime_of_unchanged hf
    refine ⟨fun hc => ?first, fun hc hfirst => ?second⟩
    case first =>
      rw [exec_selfTestPhaseEnd ht, State.phaseEnd_set hts hv hin (.inr hl) hc, State.clearPhase, hf, hpossible]
      rfl
    case second =>
      rw [exec_selfTestPhaseEnd ht, State.phaseEnd_clear hts hv hin (.inr hl) hc hfirst, hpossible]
      rfl
  case chopper =>
    exact fun s u t n ht => ⟨exec_chopLimit ht n, exec_chopCoolEnd ht n, exec_chopStale ht n, exec_chopMinOnEnd ht n⟩

end Sys2Proof
end

section
/-! PROOFS. Numbers of `n` bits, the bits of a mask, and the pointers of a core (R194 to R196). -/

namespace Sys2Proof.Machine

/-- The low bits of a number, read as a number that is not negative. -/
theorem ux_eq_emod (n : Nat) (v : Int) : (ux n v : Int) = v % 2 ^ n := by
  have hpos : (0 : Int) < 2 ^ n := by positivity
  rw [ux, BitVec.toNat_ofInt, Nat.cast_pow, Nat.cast_ofNat, Int.toNat_of_nonneg (Int.emod_nonneg _ hpos.ne')]

/-- A number that fits is its own low bits. -/
theorem ux_of_lt {n q : Nat} (h : q < 2 ^ n) : ux n (q : Int) = q := by
  have hq : (q : Int) < 2 ^ n := mod_cast h
  exact Int.ofNat.inj ((ux_eq_emod n q).trans (Int.emod_eq_of_lt (Int.natCast_nonneg q) hq))

/-- A mask of one bit more. -/
theorem maskOf_succ (n : Nat) (f : Nat → Bool) :
    maskOf (n + 1) f = if f n then maskOf n f + 2 ^ n else maskOf n f := by
  rw [maskOf, List.range_succ, List.foldl_append]
  rfl

theorem maskOf_lt (n : Nat) (f : Nat → Bool) : maskOf n f < 2 ^ n := by
  induction n with
  | zero => exact Nat.one_pos
  | succ n ih =>
    rw [maskOf_succ, Nat.pow_succ]
    split <;> omega

/-- The bits of a mask are those of its function. -/
theorem testBit_maskOf (n : Nat) (f : Nat → Bool) (i : Nat) : (maskOf n f).testBit i = (decide (i < n) && f i) := by
  induction n with
  | zero => simp [maskOf]
  | succ n ih =>
    have hlt := maskOf_lt n f
    have hsum : maskOf (n + 1) f = 2 ^ n * b2n (f n) + maskOf n f := by
      rw [maskOf_succ]
      cases f n <;> simp [b2n, Nat.add_comm]
    rw [hsum, Nat.testBit_two_pow_mul_add _ hlt, ih]
    rcases Nat.lt_trichotomy i n with h | rfl | h
    case inl => simp [h, Nat.lt_succ_of_lt h]
    case inr.inl => cases hf : f i <;> simp [b2n]
    case inr.inr =>
      have hbit : (b2n (f n)).testBit (i - n) = false := by
        obtain ⟨d, hd⟩ : ∃ d, i - n = d + 1 := ⟨i - n - 1, by omega⟩
        rw [hd, Nat.testBit_succ]
        cases f n <;> simp [b2n]
      rw [if_neg (by omega), hbit, decide_eq_false (by omega), Bool.false_and]

/-- The bits of a word of 20 bits turned round. -/
theorem testBit_rev20 (v : Nat) {i : Nat} (h : i < 20) : (rev20 v).testBit i = v.testBit (19 - i) := by
  rw [rev20, testBit_maskOf, decide_eq_true h, Bool.true_and, bitN]

section Circ
variable (k : CoreSt) {n q : Nat} (hq : q < 2 ^ 20)
include hq

/-- A pointer with a length wraps inside its buffer (R195). -/
theorem CoreSt.circ_wraps (hn : n < 4) (hl : vget k.l n ≠ 0) : (k.circ n q : Int) =
    (((vget k.b n : Nat) : Int) + ((q : Int) - ((vget k.b n : Nat) : Int)) % ((vget k.l n : Nat) : Int)) % 2 ^ 20 := by
  have hcirc : k.circ n q =
      ux 20 (Int.ofNat (vget k.b n) + (Int.ofNat (ux 20 q) - Int.ofNat (vget k.b n)) % Int.ofNat (vget k.l n)) :=
    if_pos ⟨hn, hl⟩
  rw [hcirc, ux_eq_emod, ux_of_lt hq]
  rfl

/-- A pointer without a length is linear (R195). -/
theorem CoreSt.circ_linear (h : 4 ≤ n ∨ vget k.l n = 0) : k.circ n q = q :=
  (if_neg (by rintro ⟨hn, hl⟩; exact h.elim (fun h4 => absurd hn (Nat.not_lt.2 h4)) hl)).trans (ux_of_lt hq)

end Circ

/-- The reverse-carry sum adds the two words turned round, and turns the sum round (R196). -/
theorem testBit_revAdd (p m : Nat) {i : Nat} (h : i < 20) :
    (revAdd p m).testBit (19 - i) = ((rev20 p + rev20 m) % 2 ^ 20).testBit i := by
  rw [revAdd, testBit_rev20 _ (by omega), show 19 - (19 - i) = i by omega]

end Sys2Proof.Machine
end

section
/-! PROOFS. The product of a multiply (R200). -/

namespace Sys2Proof.Machine

/-- The integer product (R200). -/
theorem CoreSt.prod_integer {k : CoreSt} (h : wbit k.cfg 2 = false) (x y : Word) :
    k.prod x y false = x.toInt * y.toInt := by
  simp [CoreSt.prod, h]

/-- The fractional product is doubled (R200). -/
theorem CoreSt.prod_fractional {k : CoreSt} (h : wbit k.cfg 2 = true) (x y : Word) :
    k.prod x y false = 2 * (x.toInt * y.toInt) := by
  simp [CoreSt.prod, h, Int.mul_comm]

/-- A signed product of two words lies between −2^62 and 2^62. -/
theorem product_bounds (x y : Word) : -2 ^ 62 ≤ x.toInt * y.toInt ∧ x.toInt * y.toInt ≤ 2 ^ 62 :=
  ⟨BitVec.le_toInt_mul_toInt, BitVec.toInt_mul_toInt_le⟩

/-- An accumulator holds a product as it stands (R200). -/
theorem CoreSt.toInt_prod (k : CoreSt) (x y : Word) :
    (BitVec.ofInt 80 (k.prod x y false)).toInt = k.prod x y false := by
  obtain ⟨hlow, hhigh⟩ := product_bounds x y
  cases h : wbit k.cfg 2
  case false =>
    rw [CoreSt.prod_integer h]
    exact BitVec.toInt_ofInt_eq_self (by decide) (by omega) (by omega)
  case true =>
    rw [CoreSt.prod_fractional h]
    exact BitVec.toInt_ofInt_eq_self (by decide) (by omega) (by omega)

/-- A product is a number of 64 bits (R200). -/
theorem toInt_product (x y : Word) : (BitVec.ofInt 64 (x.toInt * y.toInt)).toInt = x.toInt * y.toInt := by
  obtain ⟨hlow, hhigh⟩ := product_bounds x y
  exact BitVec.toInt_ofInt_eq_self (by decide) (by omega) (by omega)

end Sys2Proof.Machine
end

section
/-! PROOFS. The obligations on pointers and products. -/

namespace Sys2Proof

open Sys2Proof.Machine

/-- Settles O18: a new pointer value by its cases, and the reverse-carry sum bit by bit. -/
theorem pointersWrap : Obligations.pointersWrap := by
  unfold Obligations.pointersWrap
  refine ⟨fun k n q hn hq hl => ?circular, fun k n q hq h => ?linear, fun p m i hp hm hi => ?reverse⟩
  case circular => exact k.circ_wraps hq hn hl
  case linear => exact k.circ_linear hq h
  case reverse => exact ⟨testBit_revAdd p m hi, testBit_rev20 p hi⟩

/-- Settles O19: a product of two words lies between −2^62 and 2^62, so that its double fits in an accumulator. -/
theorem products : Obligations.products := by
  unfold Obligations.products
  refine ⟨fun k x y => ?all, fun k h => ?minusOne⟩
  case all =>
    exact ⟨fun h => CoreSt.prod_integer h x y, fun h => CoreSt.prod_fractional h x y, k.toInt_prod x y, toInt_product x y⟩
  case minusOne =>
    rw [CoreSt.prod_fractional h]
    decide

end Sys2Proof
end

section
/-! PROOFS. The end of an issue whose effects are results alone, and how results land (R198, R218). -/

namespace Sys2Proof.Machine

/-- The results whose distance has come land in their order, and the others stay. -/
theorem State.landDue_of_pend {s : State} {c : Nat} {ps : List PendW} (h : (s.cr c).pend = ps) :
    s.landDue c = ((ps.filter (fun p => p.left == 0)).foldl (fun (s : State) p => s.land c p.wr) s).setCr c
      (fun k => { k with pend := k.pend.filter (fun p => p.left != 0) }) := by
  subst h
  rfl

/-- An X result and flags that are due land together. -/
theorem State.landDue_xFlags {s : State} {c d : Nat} {y cl st : Word}
    (h : (s.cr c).pend = [⟨0, .x d y, false⟩, ⟨0, .sr cl st, false⟩]) :
    s.landDue c = ((s.land c (.x d y)).land c (.sr cl st)).setCr c
      (fun k => { k with pend := k.pend.filter (fun p => p.left != 0) }) := State.landDue_of_pend h

/-- Nothing lands where no result is due. -/
theorem State.landDue_none {s : State} {c : Nat} (h : (s.cr c).pend.filter (fun p => p.left == 0) = []) :
    s.landDue c = s.setCr c (fun k => { k with pend := k.pend.filter (fun p => p.left != 0) }) := by
  rw [State.landDue_of_pend rfl, h]
  rfl

/-- A pending halt of core `c` is armed, or was before (R206, R217). -/
theorem State.armHalt_cases (s : State) (c why which : Nat) : s.armHalt c why which = s ∨
    s.armHalt c why which = (s.putBit (R.CORE.STAT c) 4 true).setCr c (fun k => { k with haltWhy := (why, which) }) :=
  (em (s.bit (R.CORE.STAT c) 4 = true)).imp (fun h => if_pos h) (fun h => if_neg h)

/-- Core `c` after the issue of `len` words in sequence, with results on their way and none of them landed; `finish_results`
ties it to the model. -/
def CoreSt.afterIssue (k : CoreSt) (len : Nat) (wr : List (Nat × Wr)) : CoreSt :=
  { k.advance k.pc len .next with
    pend := k.pend.map (fun p => { p with left := p.left - 1 }) ++ wr.map (fun x => { left := x.1 - 1, wr := x.2 })
    stall := false, accs := [], skipBp := false, issued := true, cyc := k.cyc + 1 }
/-- The state after the issue: the core has gone on and its issue is counted (R220); `finish_results` ties it to the model. -/
def State.afterIssue (s : State) (c len : Nat) (wr : List (Nat × Wr)) : State :=
  (s.setCr c (fun k => k.afterIssue len wr)).setRg64 (R.CORE.BUSY_CYC c) (s.rg64 (R.CORE.BUSY_CYC c) + 1)

/-- A change of a core depends on that core alone. -/
theorem State.setCr_congr {s : State} {c : Nat} {f g : CoreSt → CoreSt} (h : f (s.cr c) = g (s.cr c)) :
    s.setCr c f = s.setCr c g :=
  congrArg (fun b => { s with core := b }) (vupd_congr h)

section Finish
variable {s : State} {c : Nat} (hp : (s.cr c).pend = []) (len : Nat) (wr : List (Nat × Wr))
include hp

/-- With nothing pending before it, an issue with results alone goes on, counts and lets due results land; a breakpoint that
covers it may leave a halt pending (R198, R218). -/
theorem State.finish_results : s.finish c len { wr := wr } = (s.afterIssue c len wr).landDue c ∨
    ∃ b, s.finish c len { wr := wr } = (((s.afterIssue c len wr).landDue c).putBit (R.CORE.STAT c) 4 true).setCr c
      (fun k => { k with haltWhy := (2, b) }) := by
  unfold State.finish
  extract_lets k pc bp pend s1 s2 s3 s4 s5 s6 s7 s8
  have hs2 : s2 = s.afterIssue c len wr :=
    congrArg (fun x : State => x.setRg64 (R.CORE.BUSY_CYC c) (s.rg64 (R.CORE.BUSY_CYC c) + 1)) (State.setCr_congr rfl)
  have hprim : pend.any (fun p => p.left == 0 && p.prim) = false := by simp [pend, k, hp]
  have hs3 : s3 = (s.afterIssue c len wr).landDue c := by
    rw [← hs2]
    exact if_neg (by rw [hprim]; exact Bool.false_ne_true)
  have hs8 : s8 = match bp with | some b => s3.armHalt c 2 b | none => s3 := rfl
  show s8 = _ ∨ ∃ b, s8 = _
  rw [hs8, hs3]
  cases bp with
  | none => exact .inl rfl
  | some b => exact (State.armHalt_cases _ c 2 b).imp_right fun h => ⟨b, h⟩

end Finish

end Sys2Proof.Machine
end

section
/-! PROOFS. An issue with a result for an X register and flags: what the core holds after it, and what else it leaves (R198). -/

namespace Sys2Proof.Machine

/-- In sequence or back to the start of a body, PC and the levels change alone (R204). -/
theorem CoreSt.goOn_eq (k : CoreSt) (pc len : Nat) : ∃ p ls, k.goOn pc len = { k with pc := p, loops := ls } := ⟨_, _, rfl⟩

/-- The flow changes PC, the delay slots and the levels alone (R199, R205). -/
theorem CoreSt.flow_eq (k : CoreSt) (pc len : Nat) :
    ∃ p sl ls, k.flow pc len = { k with pc := p, slots := sl, loops := ls } := by
  unfold CoreSt.flow
  split
  case h_1 => exact ⟨_, _, _, rfl⟩
  case h_2 sl _ =>
    split
    · exact ⟨_, _, _, rfl⟩
    · split <;> exact ⟨_, _, _, rfl⟩

/-- An issue in sequence moves PC, the delay slots, the repeat and the levels alone (R199, R203, R204). -/
theorem CoreSt.advance_next_eq (k : CoreSt) (pc len : Nat) :
    ∃ p sl r ls, k.advance pc len .next = { k with pc := p, slots := sl, rpt := r, loops := ls } := by
  unfold CoreSt.advance
  split
  case h_1 n _ =>
    split
    · exact ⟨_, _, _, _, rfl⟩
    · obtain ⟨p, sl, ls, h⟩ := CoreSt.flow_eq { k with rpt := none } pc len
      exact ⟨p, sl, none, ls, h⟩
  case h_2 =>
    obtain ⟨p, sl, ls, h⟩ := CoreSt.flow_eq k pc len
    exact ⟨p, sl, k.rpt, ls, h⟩

section AfterIssue
variable (k : CoreSt) (len : Nat) (wr : List (Nat × Wr))

@[simp] theorem CoreSt.afterIssue_x : (k.afterIssue len wr).x = k.x := by
  obtain ⟨p, sl, r, ls, h⟩ := k.advance_next_eq k.pc len
  rw [CoreSt.afterIssue, h]
@[simp] theorem CoreSt.afterIssue_sr : (k.afterIssue len wr).sr = k.sr := by
  obtain ⟨p, sl, r, ls, h⟩ := k.advance_next_eq k.pc len
  rw [CoreSt.afterIssue, h]
@[simp] theorem CoreSt.afterIssue_acc : (k.afterIssue len wr).acc = k.acc := by
  obtain ⟨p, sl, r, ls, h⟩ := k.advance_next_eq k.pc len
  rw [CoreSt.afterIssue, h]
@[simp] theorem CoreSt.afterIssue_p : (k.afterIssue len wr).p = k.p := by
  obtain ⟨p, sl, r, ls, h⟩ := k.advance_next_eq k.pc len
  rw [CoreSt.afterIssue, h]
theorem CoreSt.afterIssue_pend (h : k.pend = []) :
    (k.afterIssue len wr).pend = wr.map (fun x => { left := x.1 - 1, wr := x.2 }) := by
  rw [CoreSt.afterIssue, h]
  rfl

end AfterIssue

section
variable {s : State} {c : Nat}

/-- The core that issued. -/
theorem State.cr_afterIssue (hc : c < 33) (len : Nat) (wr : List (Nat × Wr)) :
    (s.afterIssue c len wr).cr c = (s.cr c).afterIssue len wr := State.cr_setCr_same _ _ _ hc
/-- Another core. -/
theorem State.cr_afterIssue_other {e : Nat} (he : e ≠ c) (len : Nat) (wr : List (Nat × Wr)) :
    (s.afterIssue c len wr).cr e = s.cr e := State.cr_setCr_other _ _ _ _ he
/-- What is pending on a core that had nothing pending before its issue. -/
theorem State.pend_afterIssue (hc : c < 33) (hp : (s.cr c).pend = []) (len : Nat) (wr : List (Nat × Wr)) :
    ((s.afterIssue c len wr).cr c).pend = wr.map (fun x => { left := x.1 - 1, wr := x.2 }) := by
  rw [State.cr_afterIssue hc, CoreSt.afterIssue_pend _ _ _ hp]
/-- The issue keeps the canonical form. -/
theorem State.Canonical.afterIssue (h : s.Canonical) (c len : Nat) (wr : List (Nat × Wr)) : (s.afterIssue c len wr).Canonical := by
  have hcore : (s.setCr c (fun k => k.afterIssue len wr)).Canonical := Keeps.canon (State.setCr_keeps _ _ _) h
  exact Keeps.canon (State.setRg64_keeps _ _ _) hcore
/-- The issue count alone changes of the registers (R220). -/
theorem State.rg_afterIssue_other (h : s.Canonical) {b : Nat} (hlow : b ≠ R.CORE.BUSY_CYC c) (hhigh : b ≠ R.CORE.BUSY_CYC c + 4)
    (len : Nat) (wr : List (Nat × Wr)) : (s.afterIssue c len wr).rg b = s.rg b :=
  State.rg_setRg64_other (Keeps.canon (State.setCr_keeps s c _) h) _ _ _ hlow hhigh

section XFlags
variable {d : Nat} {y cl st : Word} (h : (s.cr c).pend = [⟨0, .x d y, false⟩, ⟨0, .sr cl st, false⟩])
include h

/-- The X register and the flags take their values, and nothing is pending any more. -/
theorem State.cr_landDue_xFlags (hc : c < 33) : (s.landDue c).cr c = { s.cr c with
    x := vupd (s.cr c).x d (fun _ => y), sr := ((s.cr c).sr &&& ~~~cl) ||| st, pend := [] } := by
  simp only [State.landDue_xFlags h, State.land, State.cr_setCr_same _ _ _ hc, h]
  rfl
/-- The other cores stay. -/
theorem State.cr_landDue_xFlags_other {e : Nat} (he : e ≠ c) : (s.landDue c).cr e = s.cr e := by
  simp only [State.landDue_xFlags h, State.land, State.cr_setCr_other _ _ _ _ he]
/-- The registers stay. -/
theorem State.rg_landDue_xFlags (b : Nat) : (s.landDue c).rg b = s.rg b := by
  simp only [State.landDue_xFlags h, State.land, State.setCr_rg]
/-- Of the state the cores change alone. -/
theorem State.landDue_xFlags_frame : ∃ cs, s.landDue c = { s with core := cs } := ⟨_, State.landDue_xFlags h⟩

end XFlags
end

section Result
/-- The results of an instruction with an X register and flags (R198). -/
abbrev xFlagsWr (d : Nat) (y cl st : Word) : List (Nat × Wr) := [(1, .x d y), (1, .sr cl st)]

variable {v : State} {c : Nat} (hc : c < 33) (hp : (v.cr c).pend = []) (n d : Nat) (y cl st : Word)
include hc hp

/-- After an issue with an X result and flags the core holds both, and its other registers as before. -/
theorem State.cr_finish_xFlags : ∃ why, (v.finish c n { wr := xFlagsWr d y cl st }).cr c =
    { (v.cr c).afterIssue n (xFlagsWr d y cl st) with
      x := vupd (v.cr c).x d (fun _ => y), sr := ((v.cr c).sr &&& ~~~cl) ||| st, pend := [], haltWhy := why } := by
  have hland := State.cr_landDue_xFlags (State.pend_afterIssue hc hp n (xFlagsWr d y cl st)) hc
  rw [State.cr_afterIssue hc, CoreSt.afterIssue_x, CoreSt.afterIssue_sr] at hland
  obtain h | ⟨b, h⟩ := State.finish_results hp n (xFlagsWr d y cl st)
  · exact ⟨_, by rw [h, hland]⟩
  · exact ⟨(2, b), by rw [h, State.cr_setCr_same _ _ _ hc, State.putBit_cr, hland]⟩

/-- The other cores stay. -/
theorem State.cr_finish_xFlags_other {e : Nat} (he : e ≠ c) :
    (v.finish c n { wr := xFlagsWr d y cl st }).cr e = v.cr e := by
  have hland := State.cr_landDue_xFlags_other (State.pend_afterIssue hc hp n (xFlagsWr d y cl st)) he
  rw [State.cr_afterIssue_other he] at hland
  obtain h | ⟨b, h⟩ := State.finish_results hp n (xFlagsWr d y cl st)
  · rw [h, hland]
  · rw [h, State.cr_setCr_other _ _ _ _ he, State.putBit_cr, hland]

/-- Of the registers, the issue count and the halt request change alone. -/
theorem State.rg_finish_xFlags_other (hv : v.Canonical) {b : Nat} (hstat : b ≠ R.CORE.STAT c) (hlow : b ≠ R.CORE.BUSY_CYC c)
    (hhigh : b ≠ R.CORE.BUSY_CYC c + 4) : (v.finish c n { wr := xFlagsWr d y cl st }).rg b = v.rg b := by
  have hcan : ((v.afterIssue c n (xFlagsWr d y cl st)).landDue c).Canonical :=
    Keeps.canon (State.landDue_keeps _ _) (hv.afterIssue c n _)
  have hland := State.rg_landDue_xFlags (State.pend_afterIssue hc hp n (xFlagsWr d y cl st)) b
  rw [State.rg_afterIssue_other hv hlow hhigh] at hland
  obtain h | ⟨w, h⟩ := State.finish_results hp n (xFlagsWr d y cl st)
  · rw [h, hland]
  · rw [h, State.setCr_rg, State.putBit, State.putFld, State.rg_setRg_other hcan _ _ _ hstat, hland]

/-- Of the state, the cores and the registers change alone. -/
theorem State.finish_xFlags_frame :
    ∃ cs rs, v.finish c n { wr := xFlagsWr d y cl st } = { v with core := cs, regs := rs } := by
  obtain ⟨cs, hland⟩ := State.landDue_xFlags_frame (State.pend_afterIssue hc hp n (xFlagsWr d y cl st))
  obtain h | ⟨b, h⟩ := State.finish_results hp n (xFlagsWr d y cl st)
  · exact ⟨_, _, h.trans hland⟩
  · exact ⟨_, _, by rw [h, hland]; rfl⟩

end Result

end Sys2Proof.Machine
end

section
/-! PROOFS. A store on its way, and a store that lands (R198, R37). -/

namespace Sys2Proof.Machine

section Issue
variable {v : State} {c : Nat} (hc : c < 33) (hp : (v.cr c).pend = []) (n b : Nat) (y : Word)
include hc hp

/-- A store has not landed when its issue ends (R198). -/
theorem State.landDue_store : (v.afterIssue c n [(3, .mem b y)]).landDue c = (v.afterIssue c n [(3, .mem b y)]).setCr c
    (fun k => { k with pend := k.pend.filter (fun p => p.left != 0) }) := by
  apply State.landDue_none
  rw [State.pend_afterIssue hc hp]
  rfl

/-- An issue with a store leaves memory as it is. -/
theorem State.mem_finish_store : (v.finish c n { wr := [(3, .mem b y)] }).mem = v.mem := by
  have hland : ((v.afterIssue c n [(3, .mem b y)]).landDue c).mem = v.mem := by
    rw [State.landDue_store hc hp]
    rfl
  obtain h | ⟨w, h⟩ := State.finish_results hp n [(3, .mem b y)]
  · rw [h, hland]
  · rw [h, State.setCr_mem, State.putBit_mem, hland]

/-- The store waits for two issues more. -/
theorem State.pend_finish_store :
    ((v.finish c n { wr := [(3, .mem b y)] }).cr c).pend = [{ left := 2, wr := .mem b y }] := by
  have hland : (((v.afterIssue c n [(3, .mem b y)]).landDue c).cr c).pend = [{ left := 2, wr := .mem b y }] := by
    rw [State.landDue_store hc hp, State.cr_setCr_same _ _ _ hc, State.pend_afterIssue hc hp]
    rfl
  obtain h | ⟨w, h⟩ := State.finish_results hp n [(3, .mem b y)]
  · rw [h, hland]
  · rw [h, State.cr_setCr_same _ _ _ hc, State.putBit_cr, hland]

end Issue

/-- With no injection armed a store that lands writes its word, without a flipped bit (R37, R215). -/
theorem State.land_store {v : State} {c : Nat} (h1 : v.bit (R.PG_ERRINJ (corePage c)) 0 = false)
    (h2 : v.bit (R.PG_ERRINJ (corePage c)) 1 = false) (b : Nat) (y : Word) :
    v.land c (.mem b y) = { v.stw b y with ecc := tset 0 v.ecc b 0 } := by
  simp [State.land, State.eccWrite, h1, h2]

end Sys2Proof.Machine
end

section
/-! PROOFS. The obligations on what an issue with an integer result and a store leave. -/

namespace Sys2Proof

open Sys2Proof.Machine

/-- Settles O20: both results are due at the end of the issue, and a breakpoint there touches the halt request alone. -/
theorem integerResultFrame : Obligations.integerResultFrame := by
  unfold Obligations.integerResultFrame
  refine ⟨?core, ?rest⟩
  case core =>
    rintro v c n d y cl st _ hc hd rfl hp
    obtain ⟨why, h⟩ := State.cr_finish_xFlags hc hp n d y cl st
    rw [h]
    exact ⟨rfl, rfl, CoreSt.afterIssue_acc _ n [(1, .x d y), (1, .sr cl st)],
      CoreSt.afterIssue_p _ n [(1, .x d y), (1, .sr cl st)], rfl⟩
  case rest =>
    intro v c n d e b y cl st hv hc he hp hstat hlow hhigh
    obtain ⟨cs, rs, h⟩ := State.finish_xFlags_frame hc hp n d y cl st
    exact ⟨State.cr_finish_xFlags_other hc hp n d y cl st he,
      State.rg_finish_xFlags_other hc hp n d y cl st hv hstat hlow hhigh, by rw [h]⟩

/-- Settles O21: a store is not due when its issue ends, and where it lands it is a store of one word. -/
theorem storesLand : Obligations.storesLand := by
  unfold Obligations.storesLand
  refine ⟨fun v c n b y hc hp => ?issues, fun v c b x y hv h1 h2 => ?lands⟩
  case issues => exact ⟨State.mem_finish_store hc hp n b y, State.pend_finish_store hc hp n b y⟩
  case lands =>
    rw [State.land_store h1 h2]
    exact ⟨State.ldw_stw_same hv b y, fun hx => Memory.read_writeN_other 4 _ _ _ _ hx hv.mem, rfl⟩

end Sys2Proof
end

section
/-! PROOFS. An instruction that nothing stops completes with its effects (R198, R206, R255), and the accumulator instructions as
issues of their meanings (R236, R238, R239). -/

namespace Sys2Proof.Machine

/-- A command that is an issue of the meaning `m`, where the instruction issues and `m` answers effects, ends the issue with
those effects. -/
theorem exec_of_issues {s u t : State} {i : Instr} {c : Nat} {o : Op} {w0 w1 : Word} {done : Bool} {m : Sem} {e : Eff}
    (h : u.Issues c o w0 w1 done) (hi : exec i s = .next (u.issue c o m done))
    (hm : m (u.atIssue c) c w0 w1 done = .ok t e) : exec i s = .next (t.finish c (wordsOf w0) e) := by
  rw [hi, State.issue_of h, hm]

/-- A value above the limits is clipped to the high one (R239). -/
theorem satx_above {v lo hi : Int} (h : hi < v) : satx v lo hi = (some hi, v - hi) := if_pos h
/-- A value below the limits is clipped to the low one (R239). -/
theorem satx_below {v lo hi : Int} (h : v ≤ hi) (hl : v < lo) : satx v lo hi = (some lo, v - lo) :=
  (if_neg (Int.not_lt.2 h)).trans (if_pos hl)
/-- A value within the limits has no excess (R239). -/
theorem satx_within {v lo hi : Int} (hl : lo ≤ v) (h : v ≤ hi) : satx v lo hi = (none, 0) :=
  (if_neg (Int.not_lt.2 h)).trans (if_neg (Int.not_lt.2 hl))

/-- The results of SATX where the value is clipped: the limit, and the excess with its flags (R239). -/
theorem semSatx_clips {k : CoreSt} {w : Word} {x excess : Int}
    (h : satx (vget k.acc (wfld w 25 24)).toInt ((vget k.x (wfld w 21 18)).toInt * 2 ^ 32)
      ((vget k.x (wfld w 17 14)).toInt * 2 ^ 32) = (some x, excess)) :
    semSatx k w = [(2, .acc (wfld w 25 24) (BitVec.ofInt 80 x) false),
      (2, .acc (wfld w 23 22) (BitVec.ofInt 80 excess) false), (1, flExcess (BitVec.ofInt 80 excess))] := by
  rw [semSatx, h]
  rfl
/-- The results of SATX where the value is within the limits (R239). -/
theorem semSatx_keeps {k : CoreSt} {w : Word}
    (h : satx (vget k.acc (wfld w 25 24)).toInt ((vget k.x (wfld w 21 18)).toInt * 2 ^ 32)
      ((vget k.x (wfld w 17 14)).toInt * 2 ^ 32) = (none, 0)) :
    semSatx k w = [(2, .acc (wfld w 23 22) 0 false), (1, flExcess (0 : BitVec 80))] := by
  rw [semSatx, h]
  rfl

/-- SATX issues as an instruction that only reads the core's registers. -/
theorem exec_opSatx {s u v : State} {t : Time} (ht : s.tick t = u) {c : Fin 33} (hv : u.atIssue c = v) {w0 w1 : Word}
    (h : u.Issues c .satx w0 w1 false) :
    exec (.opSatx t c) s = .next (v.finish c (wordsOf w0) { wr := semSatx (v.cr c) w0 }) := by
  subst ht hv
  exact exec_of_issues h rfl rfl

end Sys2Proof.Machine
end

section
/-! PROOFS. The obligation on the accumulator instructions. -/

namespace Sys2Proof

open Sys2Proof.Machine

/-- Settles O38: each command is an issue of its instruction, whose meaning answers the results that the clause names; SATX by
the place of its value among the limits. -/
theorem accumulatorInstructionsComplete : Obligations.accumulatorInstructionsComplete := by
  unfold Obligations.accumulatorInstructionsComplete
  refine ⟨?multiply, ?codeZN, ?codeZNV, ?extract, ?saturate⟩
  case multiply =>
    rintro s _ _ t c w0 w1 _ rfl rfl rfl
    refine ⟨fun h => ?mpy, fun h => ?mac, fun h => ?mpyd, fun h => ?macd⟩
    all_goals exact exec_of_issues h rfl rfl
  case codeZN =>
    rintro s _ _ t c w0 w1 _ rfl rfl rfl
    refine ⟨fun h => ?clra, fun h => ?mova, fun h => ?asr, fun h => ?ldah, fun h => ?ldax⟩
    all_goals exact exec_of_issues h rfl rfl
  case codeZNV =>
    rintro s _ _ t c w0 w1 _ rfl rfl rfl
    refine ⟨fun h => ?adda, fun h => ?suba, fun h => ?nega, fun h => ?absa, fun h => ?asl, fun h => ?addah, fun h => ?addax⟩
    all_goals exact exec_of_issues h rfl rfl
  case extract =>
    rintro s _ _ t c w0 w1 _ rfl rfl rfl
    refine ⟨fun h => ?xlo, fun h => ?xhi, fun h => ?xgd, fun h => ?cmpa⟩
    all_goals exact exec_of_issues h rfl rfl
  case saturate =>
    rintro s u v t c w0 w1 _ _ _ _ ht hv rfl h rfl rfl rfl
    refine ⟨fun hx => ?above, fun hx hl => ?below, fun hl hx => ?within⟩
    case above => rw [exec_opSatx ht hv h, semSatx_clips (satx_above hx)]
    case below => rw [exec_opSatx ht hv h, semSatx_clips (satx_below hx hl)]
    case within => rw [exec_opSatx ht hv h, semSatx_keeps (satx_within hl hx)]

end Sys2Proof
end

section
/-! PROOFS. The data accesses of an instruction on memories of its core, and a load through a system window (R190 to R193,
R255). -/

namespace Sys2Proof.Machine

section Access
variable {s : State} {c : Nat}

/-- Accesses that no rule refuses go on where none goes through a system window, or else once they have completed outside
`RPT` (R193, R199, R255). -/
theorem State.withAccs_go {accs : List (Nat × Nat × Bool)} {done : Bool}
    (hw : (∀ x ∈ accs, inWindow c x.1 x.2.1 = false) ∨ (s.cr c).rpt = none ∧ done = true)
    (hf : ∀ x ∈ accs, s.accFault c x = none) (k : State → Out) : s.withAccs c accs done k = k s := by
  have hfault : accs.findSome? (fun x => (s.accFault c x).map (fun f => (f, x.2.1 + x.1 * 2 ^ 20))) = none := by
    simpa using hf
  rcases hw with hw | ⟨hr, hd⟩
  case inl =>
    have hwin : accs.any (fun x => inWindow c x.1 x.2.1) = false := by simpa using hw
    simp only [State.withAccs, hfault, hwin, Bool.false_and, Bool.false_eq_true, if_false]
  case inr =>
    simp only [State.withAccs, hfault, hr, hd, Option.isSome_none, Bool.not_true, Bool.and_false, Bool.false_eq_true, if_false]

/-- One access outside the system windows. -/
theorem State.withAccs_one {sp a : Nat} {st : Bool} (hw : inWindow c sp a = false) (hf : s.accFault c (sp, a, st) = none)
    (done : Bool) (k : State → Out) : s.withAccs c [(sp, a, st)] done k = k s :=
  State.withAccs_go (.inl (by simpa using hw)) (by simpa using hf) k

/-- A load of a stored word without a flipped bit (R233). -/
theorem State.loadWord_mem {sp a b : Nat} (h : s.mapData c sp a = some (.mem b)) (he : s.eccOf b = 0) :
    s.loadWord c sp a = (some (s.ldw b), s) := by
  simp [State.loadWord, h, he]
/-- A load through a system window is a read by the millwright (R193). -/
theorem State.loadWord_window {sp a sa : Nat} {x : DWord} {w : State} (h : s.mapData c sp a = some (.window sa))
    (hr : s.sysRead (mwMaster c) sa 4 15 = (x, w)) : s.loadWord c sp a = (some (x.truncate 32), w) := by
  simp [State.loadWord, h, hr]
/-- A store to a memory of the core waits for distance 3 (R198, R233). -/
theorem State.storeWord_mem {sp a b : Nat} (h : s.mapData c sp a = some (.mem b)) (v : Word) (e : Eff) :
    s.storeWord c sp a v e = { e with wr := (3, .mem b v) :: e.wr } := by
  simp [State.storeWord, h]

end Access

section Meaning
variable {v : State} {c : Nat} {w0 w1 : Word} {a : Nat} {upd : List (Nat × Wr)} {done : Bool}

/-- LD with its word at hand (R233). -/
theorem semLd_of_load {x : Word} {w : State} (ha : (v.cr c).addrM w0 = (a, upd))
    (hgo : ∀ k, v.withAccs c [(spOf w0, a, false)] done k = k v) (hx : v.loadWord c (spOf w0) a = (some x, w)) :
    semLd v c w0 w1 done = .ok w { wr := (2, .x (wfld w0 25 22) x) :: upd, accs := [(spOf w0, a, false)] } := by
  simp only [semLd, ha, hgo, hx]

/-- ST to a memory of the core (R233). -/
theorem semSt_mem {b : Nat} (ha : (v.cr c).addrM w0 = (a, upd))
    (hgo : ∀ k, v.withAccs c [(spOf w0, a, true)] done k = k v) (hm : v.mapData c (spOf w0) a = some (.mem b)) :
    semSt v c w0 w1 done = .ok v {
      wr := (3, .mem b (vget (v.cr c).x (wfld w0 25 22))) :: upd, accs := [(spOf w0, a, true)] } := by
  simp only [semSt, ha, hgo, State.storeWord_mem hm]

/-- STA to a memory of the core (R202, R234). -/
theorem semSta_mem {b : Nat} {y : Word} {fl : List (Nat × Wr)} (ha : (v.cr c).addrM w0 = (a, upd))
    (hgo : ∀ k, v.withAccs c [(spOf w0, a, true)] done k = k v) (hm : v.mapData c (spOf w0) a = some (.mem b))
    (hy : storeAcc (vget (v.cr c).acc (wfld w0 23 22)) (wbit (v.cr c).cfg 2) (wbit (v.cr c).cfg 1)
      (wfld w0 25 24 == 1 || (wfld w0 25 24 == 0 && !wbit (v.cr c).cfg 0)) = (y, fl)) :
    semSta v c w0 w1 done = .ok v { wr := (3, .mem b y) :: (upd ++ fl), accs := [(spOf w0, a, true)] } := by
  simp only [semSta, ha, hgo, State.storeWord_mem hm, hy]

section Pairs
variable {i j : Nat} {x y : Word} {w w' : State} (hx : v.loadWord c 1 (vget (v.cr c).p i) = (some x, w))
  (hy : w.loadWord c 2 (vget (v.cr c).p j) = (some y, w'))
include hx hy

/-- LDD with both words at hand (R235). -/
theorem semLdd_of_loads (hi : wfld w0 17 15 = i) (hj : wfld w0 9 7 = j) (hgo : ∀ k,
      v.withAccs c [(1, vget (v.cr c).p i, false), (2, vget (v.cr c).p j, false)] done k = k v) :
    semLdd v c w0 w1 done = .ok w' {
      wr := [(2, .x (wfld w0 25 22) x), (2, .x (wfld w0 21 18) y)] ++ (v.cr c).sideUpd i (wfld w0 14 12) (wfld w0 11 10) ++
        (v.cr c).sideUpd j (wfld w0 6 4) (wfld w0 3 2)
      accs := [(1, vget (v.cr c).p i, false), (2, vget (v.cr c).p j, false)] } := by
  subst hi hj
  simp only [semLdd, hgo, hx, hy]

/-- FTAP with both words at hand, and a memory of the core as the end of the move (R237). -/
theorem semFtap_of_loads {p e : Nat} (hi : wfld w0 23 21 = i) (hj : wfld w0 20 18 = j)
    (hp : (v.cr c).circ i (Int.ofNat (vget (v.cr c).p i) + 1) = p) (hgo : ∀ k,
      v.withAccs c [(1, vget (v.cr c).p i, false), (2, vget (v.cr c).p j, false), (1, p, true)] done k = k v)
    (he : w'.mapData c 1 p = some (.mem e)) :
    semFtap v c w0 w1 done = .ok w' {
      wr := (3, .mem e x) :: ([ptrWr i ((v.cr c).circ i (Int.ofNat (vget (v.cr c).p i) - 1)),
        ptrWr j ((v.cr c).circ j (Int.ofNat (vget (v.cr c).p j) + 1))] ++
        accumulate (wfld w0 25 24) ((v.cr c).chainAcc (wfld w0 25 24)).toInt ((v.cr c).prod x y false))
      accs := [(1, vget (v.cr c).p i, false), (2, vget (v.cr c).p j, false), (1, p, true)] } := by
  subst hi hj hp
  simp only [semFtap, hgo, hx, hy, State.storeWord_mem he]

end Pairs

end Meaning

/-- SYSTEM_WINDOW_DONE of a millwright that stalls on a load, with no access left behind, is the issue of that load (R193). -/
theorem State.accessDone_ld {s : State} {c : Nat} (hmw : isMw c = true) (hs : (s.cr c).stall = true)
    (ho : (s.cr c).orphan = []) (hop : opOf (s.ldw (spaceAddr c 0 (s.cr c).pc)) = some .ld) :
    s.accessDone c = s.issue c .ld semLd true := by
  simp [State.accessDone, hmw, hs, ho, hop]

end Sys2Proof.Machine
end

section
/-! PROOFS. The obligation on the loads, the stores and FTAP. -/

namespace Sys2Proof

open Sys2Proof.Machine

/-- Settles O37: every access of the instruction goes on, so that its meaning answers the loaded words, the pending stores and
the pointer updates. -/
theorem memoryInstructionsComplete : Obligations.memoryInstructionsComplete := by
  unfold Obligations.memoryInstructionsComplete
  refine ⟨?ld, ?st, ?sta, ?ldd, ?ftap, ?window⟩
  case ld =>
    rintro s _ _ t c w0 w1 _ _ a b upd rfl rfl rfl h ha rfl hw hf hm he
    exact exec_of_issues h rfl (semLd_of_load ha (State.withAccs_one hw hf _) (State.loadWord_mem hm he))
  case st =>
    rintro s _ _ t c w0 w1 _ _ a b upd rfl rfl rfl h ha rfl hw hf hm
    exact exec_of_issues h rfl (semSt_mem ha (State.withAccs_one hw hf _) hm)
  case sta =>
    rintro s _ _ t c w0 w1 _ _ a b upd y fl rfl rfl rfl h ha rfl hw hf hm hy
    exact exec_of_issues h rfl (semSta_mem ha (State.withAccs_one hw hf _) hm hy)
  case ldd =>
    rintro s _ _ t c w0 w1 _ i j b d rfl rfl rfl h hi hj hw1 hw2 hf1 hf2 hm1 hm2 he1 he2
    exact exec_of_issues h rfl (semLdd_of_loads (State.loadWord_mem hm1 he1) (State.loadWord_mem hm2 he2) hi hj
      (State.withAccs_go (.inl (by simpa using ⟨hw1, hw2⟩)) (by simpa using ⟨hf1, hf2⟩)))
  case ftap =>
    rintro s _ _ t c w0 w1 _ i j b d e p rfl rfl rfl h hi hj hp hw1 hw2 hf1 hf2 hm1 hm2 he1 he2 hw3 hf3 hm3
    exact exec_of_issues h rfl (semFtap_of_loads (State.loadWord_mem hm1 he1) (State.loadWord_mem hm2 he2) hi hj hp
      (State.withAccs_go (.inl (by simpa using ⟨hw1, hw2, hw3⟩)) (by simpa using ⟨hf1, hf2, hf3⟩)) hm3)
  case window =>
    rintro s _ _ w t c w0 w1 _ a sa upd x rfl rfl rfl h hmw hs ho hop ha hsp hr hf hm hread
    rw [← hsp] at hf hm
    have hgo := State.withAccs_go (accs := [(spOf w0, a, false)]) (.inr ⟨hr, rfl⟩) (by simpa using hf)
    have hi : exec (.systemWindowDone t c) s = .next ((s.tick t).issue c .ld semLd true) :=
      congrArg Host.Outcome.next (State.accessDone_ld hmw hs ho hop)
    rw [exec_of_issues h hi (semLd_of_load ha hgo (State.loadWord_window hm hread)), hsp]

end Sys2Proof
end

section
/-! PROOFS. An instruction that is not legal where it would issue, and a repeat that finds room (R204, R246, R251, R254). -/

namespace Sys2Proof.Machine

/-- The fetch answers the words at PC and the state in which the instruction acts. -/
theorem State.fetch_of_wordsAt {s : State} {c : Nat} {w0 w1 : Word} (h : s.wordsAt c = some (w0, w1)) :
    (s.beginIssue c).fetch c ((s.beginIssue c).cr c).pc = .ok (w0, w1, s.atIssue c) := by
  unfold State.wordsAt at h
  unfold State.atIssue
  cases hf : (s.beginIssue c).fetch c ((s.beginIssue c).cr c).pc with
  | error e =>
    rw [hf] at h
    cases h
  | ok x =>
    rw [hf] at h
    cases h
    rfl

/-- `BKPT` on the pair outside a proof-test session is ILLEGAL where it would issue (R251, R255). -/
theorem State.issue_bkpt_closed {s : State} {w0 w1 : Word} (hr : (s.landDue 32).canIssue 32 false = true)
    (hw : s.wordsAt 32 = some (w0, w1)) (ho : opOf w0 = some .bkpt)
    (hi : (s.atIssue 32).bit (R.PG_ERRINJ (corePage 32)) 16 = false) (hp : (s.atIssue 32).sess.proof = false) (m : Sem) :
    s.issue 32 .bkpt m false = (s.atIssue 32).failAt 32 0x01 none := by
  have hnone : (s.atIssue 32).injectedIssue 32 = none := if_pos (by rw [hi]; rfl)
  simp [State.issue, hr, State.fetch_of_wordsAt hw, ho, hnone, hp]

/-- A body of three words or more finds room beside fewer than three levels (R204, R246). -/
theorem newLoop_fits {s : State} {c st e n : Nat} (hl : (s.cr c).loops.length < 3) (he : st + 2 ≤ e) :
    newLoop s c st e n = .ok s { ctl := .loop ⟨st, e, n⟩ } :=
  (if_neg (Nat.not_lt.2 he)).trans (if_neg (Nat.not_le.2 hl))

end Sys2Proof.Machine
end

section
/-! PROOFS. The obligation on branches, calls, returns, NOP, BKPT and the repeats. -/

namespace Sys2Proof

open Sys2Proof.Machine

/-- Settles O40: each command is an issue of its instruction, whose meaning answers the flow that the clause names; a `BKPT` of
the pair outside a proof-test session fails before its meaning. -/
theorem flowInstructionsComplete : Obligations.flowInstructionsComplete := by
  unfold Obligations.flowInstructionsComplete
  refine ⟨?branches, ?calls, ?others, ?retn, ?bkpt, ?bkptClosed, ?repeats⟩
  case branches =>
    rintro s _ _ t c w0 w1 _ rfl rfl rfl
    refine ⟨fun h => ?bcc, fun h => ?bri⟩
    all_goals exact exec_of_issues h rfl rfl
  case calls =>
    rintro s _ _ t c w0 w1 _ rfl rfl rfl
    refine ⟨fun h => ?call, fun h => ?calli, fun h => ?ret⟩
    all_goals exact exec_of_issues h rfl rfl
  case others =>
    rintro s _ _ t c w0 w1 _ rfl rfl rfl
    refine ⟨fun h => ?reti, fun h => ?nop, fun h => ?rpt⟩
    all_goals exact exec_of_issues h rfl rfl
  case retn =>
    rintro s _ _ t c w0 w1 _ rfl rfl rfl h
    exact exec_of_issues h rfl rfl
  case bkpt =>
    rintro s _ _ t c w0 w1 _ rfl rfl rfl h
    exact exec_of_issues h rfl rfl
  case bkptClosed =>
    rintro s _ _ t w0 w1 rfl rfl hr hw ho hi hp
    exact congrArg Host.Outcome.next (State.issue_bkpt_closed hr hw ho hi hp semBkpt)
  case repeats =>
    rintro s _ _ t c w0 w1 _ st e n rfl rfl rfl hl he
    refine ⟨?brpt, ?brptL⟩
    case brpt =>
      rintro h rfl rfl rfl
      exact exec_of_issues h rfl (newLoop_fits hl he)
    case brptL =>
      rintro h rfl rfl rfl
      exact exec_of_issues h rfl (newLoop_fits hl he)

end Sys2Proof
end

section
/-! PROOFS. Vectors, the watchdog and the timers of a millwright, case by case (R209, R210, R213, R221). -/

namespace Sys2Proof.Machine

section Vector
variable {s v : State} {k x : Nat} (hs : s.coreState (28 + k) = 1) (hb : s.cleanBoundary (28 + k) = true)
  (hv : s.landDue (28 + k) = v) (hx : v.vecTake k = some x)
include hs hb hv hx

/-- A vector of the core's own from 2 on is entered at PC (R210). -/
theorem State.vectorEntry_own (h2 : 2 ≤ x) (h8 : x < 8) :
    s.vectorEntry k = v.enterVector (28 + k) x (v.cr (28 + k)).pc := by
  have hlow : ¬ x < 2 := Nat.not_lt.2 h2
  have hhigh : ¬ 8 ≤ x := Nat.not_le.2 h8
  simp [State.vectorEntry, hs, hb, hv, hx, hlow, hhigh]

/-- A routed vector is entered with the page that raises it in VEC_SRC (R210, R211). -/
theorem State.vectorEntry_routed (h8 : 8 ≤ x) {ty n : Nat} (hr : routeHit v (v.rg (R.MW.ROUTE k (x - 8))) = some (ty, n)) :
    s.vectorEntry k = (v.setRg (R.MW.VEC_SRC k) (BitVec.ofNat 32 (x + ty * 2 ^ 8 + n * 2 ^ 16))).enterVector (28 + k) x
      (v.cr (28 + k)).pc := by
  have hlow : ¬ x < 2 := by omega
  simp [State.vectorEntry, hs, hb, hv, hx, hlow, h8, hr]

end Vector

section Watchdog
variable {s : State} {k : Nat} {d : Time} (hd : (s.cr (28 + k)).wdDue = some d) (hn : d ≤ s.now)
  (he : s.bit (R.MW.WDOG k) 31 = true)
include hd hn he

/-- The first expiry makes vector 1 pending and starts the count again (R213). -/
theorem State.wdogExpire_first (ho : (s.cr (28 + k)).wdOnce = false) : s.wdogExpire k =
    (((s.setCr (28 + k) (fun x => { x with wdDue := some (d + s.wdTime k), wdOnce := true })).vecEdge k 1).coreIrq
      (28 + k) 8).corePost (28 + k) 0x05 0 := by
  have hdue : ¬ s.now < d := Nat.not_lt.2 hn
  simp only [State.wdogExpire, hd, hdue, he, ho, Bool.not_true, Bool.false_eq_true, or_self, if_false]

/-- The second expiry in a row is a fault of the core and of the island (R213). -/
theorem State.wdogExpire_second (ho : (s.cr (28 + k)).wdOnce = true) : s.wdogExpire k =
    (((((s.setCr (28 + k) (fun x => { x with wdDue := none })).recordFault (28 + k) 0x08 (s.cr (28 + k)).pc none).coreIrq
      (28 + k) 8).corePost (28 + k) 0x05 1).enterFaulted (28 + k) 0x08 (s.cr (28 + k)).pc).report 0x0B k 0 true 0 := by
  have hdue : ¬ s.now < d := Nat.not_lt.2 hn
  simp only [State.wdogExpire, hd, hdue, he, ho, Bool.not_true, Bool.false_eq_true, or_self, if_false, if_true]

end Watchdog

section
variable {s : State} {k : Nat}

/-- A kick with the key starts the count of an enabled watchdog again, unless its core is HALTED (R213). -/
theorem State.wdogKick_running (he : s.bit (R.MW.WDOG k) 31 = true) (hs : s.coreState (28 + k) ≠ 3) : s.wdogKick k 0xA5C3 =
    s.setCr (28 + k) (fun c => { c with wdDue := some (s.now + s.wdTime k), wdOnce := false }) := by
  simp only [State.wdogKick, he, hs, ne_eq, not_true_eq_false, Bool.not_true, Bool.false_eq_true, or_self, if_false]

/-- A timer that is enabled fires at the first TCLK edge from its instant on (R221). -/
theorem State.timerFire_due {i : Nat} (he : s.bit (R.MW.TIMER_CTRL k) i = true)
    (hd : ceilEdge (s.rg64 (R.MW.TIMER k i)) ≤ s.now) :
    s.timerFire k i = (s.putBit (R.MW.TIMER_CTRL k) i false).vecEdge k (4 + i) :=
  if_pos (by rw [he, decide_eq_true hd]; rfl)

end

section Commands
variable {s u : State} {t : Time} (ht : s.tick t = u) (k : Fin 4)
include ht

theorem exec_vectorEntry : exec (.vectorEntry t k) s = .next (u.vectorEntry k) := by subst ht; rfl
theorem exec_wdogExpire : exec (.wdogExpire t k) s = .next (u.wdogExpire k) := by subst ht; rfl
theorem exec_mwTimerFire (i : Fin 4) : exec (.mwTimerFire t k i) s = .next (u.timerFire k i) := by subst ht; rfl
theorem exec_wdogKick (m : Master) (v : Word) (hw : u.Writable (R.MW.base k)) :
    exec (.wdogKick t m k v) s = .next (u.wdogKick k v.toNat) := by
  subst ht
  exact congrArg Host.Outcome.next (State.onPage_writable hw)
theorem exec_doorbell (m : Master) (hw : u.Writable (R.MW.base k)) :
    exec (.doorbell t m k) s = .next (u.vecEdge k 3) := by
  subst ht
  exact congrArg Host.Outcome.next (State.onPage_writable hw)

end Commands

end Sys2Proof.Machine
end

section
/-! PROOFS. The requests of `CTRL`: the bits that a request writes, and what each request comes to (R217, R218, R220). -/

namespace Sys2Proof.Machine

/-- The bits of a field of a register are bits of the register. -/
theorem State.testBit_fld (s : State) (a hi lo i : Nat) :
    (s.fld a hi lo).testBit i = (decide (i < hi + 1 - lo) && s.bit a (lo + i)) := by
  rw [State.fld, wfld, bitsN, Nat.testBit_mod_two_pow, Nat.testBit_shiftRight, State.bit, wbit]

/-- A request bit below a field from bit 5 on. -/
theorem testBit_request {n : Nat} (hn : n < 5) (f i : Nat) :
    (2 ^ n + f * 2 ^ 5).testBit i = if i < 5 then decide (n = i) else f.testBit (i - 5) := by
  have hlt : 2 ^ n < 2 ^ 5 := Nat.pow_lt_pow_right (by decide) hn
  rw [Nat.add_comm, Nat.mul_comm, Nat.testBit_two_pow_mul_add _ hlt, Nat.testBit_two_pow]

/-- The request of a bit of `CTRL`; `ctrlReq_writable` ties it to the model. -/
def State.coreRequest (s : State) (c : Nat) : Fin 5 → State
  | 0 => s.coreGo c
  | 1 => s.coreStop c
  | 2 => s.coreHalt c
  | 3 => s.coreResume c false
  | 4 => s.coreResume c true

/-- A request on a page that the write reaches: FORCE is written as it stands, MPU_EN stays, and of the requests that of its
bit alone is made (R217, R220). -/
theorem State.ctrlReq_writable {u v : State} {c : Nat} (hc : u.Canonical) (hw : u.Writable (corePage c))
    (hv : u.putBit (R.CORE.CTRL c) 5 (u.bit (R.CORE.CTRL c) 5) = v) (n : Fin 5) : u.ctrlReq c n = v.coreRequest c n := by
  have hbit (i : Nat) := testBit_request n.isLt (u.fld (R.CORE.CTRL c) 6 5) i
  have hforce : bitN (2 ^ n.val + u.fld (R.CORE.CTRL c) 6 5 * 2 ^ 5) 5 = u.bit (R.CORE.CTRL c) 5 := by
    rw [bitN, hbit, if_neg (by decide), State.testBit_fld]
    rfl
  have hmpu : bitN (2 ^ n.val + u.fld (R.CORE.CTRL c) 6 5 * 2 ^ 5) 6 = v.bit (R.CORE.CTRL c) 6 := by
    rw [bitN, hbit, if_neg (by decide), State.testBit_fld, ← hv, State.bit_putBit_bit hc _ _ _ _ (by decide) (by decide)]
    rfl
  have hreq (i : Nat) (hi : i < 5) : bitN (2 ^ n.val + u.fld (R.CORE.CTRL c) 6 5 * 2 ^ 5) i = decide (n.val = i) := by
    rw [bitN, hbit, if_pos hi]
  rw [State.ctrlReq, State.onPage_writable hw, State.writeCoreCtrl]
  simp only [hforce, hv, hmpu, if_true, hreq 0 (by decide), hreq 1 (by decide), hreq 2 (by decide), hreq 3 (by decide),
    hreq 4 (by decide), decide_eq_true_eq]
  fin_cases n <;> rfl

section Request
variable {s : State} {c : Nat}

/-- GO of an IDLE core on an enabled page that no failed BIST run holds back (R220). -/
theorem State.coreGo_accepted (hs : s.coreState c = 0) (he : s.en (corePage c) = true) (hb : s.bist.noGo = 0) :
    s.coreGo c = (s.startCore c (s.fld (R.CORE.ENTRY c) 19 0)).reqRefused c false := by
  simp [State.coreGo, hs, he, hb, bitN]
/-- GO of a core that is not IDLE (R220). -/
theorem State.coreGo_refused (hs : s.coreState c ≠ 0) : s.coreGo c = s.reqRefused c true := if_neg fun h => hs h.1
/-- STOP where it is allowed, outside BIST (R217). -/
theorem State.coreStop_accepted (hm : s.mayStop c = true) (hs : s.coreState c ≠ 5) :
    s.coreStop c = (s.stopNow c).reqRefused c false := by
  simp [State.coreStop, hm, hs]
/-- A halt asked for at a clean boundary is taken at once (R206, R217). -/
theorem State.haltAsk_clean (hb : s.cleanBoundary c = true) (why which : Nat) :
    s.haltAsk c why which = s.haltNow c why which := if_pos (.inr hb)
/-- HALT of a running core where it is allowed (R217). -/
theorem State.coreHalt_running (hm : s.mayStop c = true) (hs : s.coreState c = 1) :
    s.coreHalt c = (s.reqRefused c false).haltAsk c 0 0 := by
  simp [State.coreHalt, hm, hs]
/-- RESUME and STEP of a HALTED core (R218). -/
theorem State.coreResume_halted (hs : s.coreState c = 3) (step : Bool) : s.coreResume c step =
    (((s.reqRefused c false).setCoreState c 1).setCr c (fun k => { k.wdResume s.now with
      stepping := step, skipBp := true, issued := false, waitFor := none, after := none })).corePost c 0x03 (b2n step) :=
  if_neg fun h => h hs

/-- A pending halt is taken at a clean boundary with its reason (R217). -/
theorem State.takeHalt_pending (hs : s.coreState c = 1) (hb : s.cleanBoundary c = true)
    (hp : s.bit (R.CORE.STAT c) 4 = true) : s.takeHalt c = s.haltNow c (s.cr c).haltWhy.1 (s.cr c).haltWhy.2 := by
  simp [State.takeHalt, hs, hb, hp]
/-- A breakpoint that covers PC asks for a halt (R218). -/
theorem State.breakpointHit_at {b : Nat} (hs : s.coreState c = 1) (hk : (s.cr c).skipBp = false)
    (hb : s.bpAt c (s.cr c).pc = some b) : s.breakpointHit c = s.haltAsk c 2 b := by
  simp [State.breakpointHit, hs, hk, hb]
/-- The halt that a watchpoint asked for is taken as any pending one (R218). -/
theorem State.watchpointHit_pending (hp : s.bit (R.CORE.STAT c) 4 = true) (hw : (s.cr c).haltWhy.1 = 3) :
    s.watchpointHit c = s.takeHalt c := if_pos ⟨hp, hw⟩

/-- A debug read of a quiet core shows the register as pending results leave it (R219). -/
theorem State.dbgRead_quiet (hq : s.coreQuiet c = true) : s.dbgRead c =
    (BitVec.ofNat 32 (((s.drain c).cr c).read c (s.fld (R.CORE.DBG_SEL c) 7 0)), s.reqRefused c false) := if_pos hq
/-- A debug read of another core is refused (R219). -/
theorem State.dbgRead_busy (hq : s.coreQuiet c = false) : s.dbgRead c = (0, s.reqRefused c true) :=
  if_neg (by rw [hq]; exact Bool.false_ne_true)
/-- A debug write of a quiet core to a register other than SR and PC sets that register (R219). -/
theorem State.dbgWrite_quiet (hq : s.coreQuiet c = true) (hsr : s.fld (R.CORE.DBG_SEL c) 7 0 ≠ 0x39)
    (hpc : s.fld (R.CORE.DBG_SEL c) 7 0 ≠ 0x3C) (v : Nat) : s.dbgWrite c v =
      (s.reqRefused c false).setCr c (fun k => k.write c (s.fld (R.CORE.DBG_SEL c) 7 0) v) := by
  simp only [State.dbgWrite, hq, hsr, hpc, if_true, if_false]

end Request

section Commands
variable {s u : State} {t : Time} (ht : s.tick t = u)
include ht

section Ctrl
variable {v : State} (m : Master) {c : Fin 32} (hc : u.Canonical) (hw : u.Writable (corePage c))
  (hv : u.putBit (R.CORE.CTRL c) 5 (u.bit (R.CORE.CTRL c) 5) = v)
include hc hw hv

theorem exec_coreGo : exec (.coreGo t m c) s = .next (v.coreGo c) := by
  subst ht
  exact congrArg Host.Outcome.next (State.ctrlReq_writable hc hw hv 0)
theorem exec_coreStop : exec (.coreStop t m c) s = .next (v.coreStop c) := by
  subst ht
  exact congrArg Host.Outcome.next (State.ctrlReq_writable hc hw hv 1)
theorem exec_coreHalt : exec (.coreHalt t m c) s = .next (v.coreHalt c) := by
  subst ht
  exact congrArg Host.Outcome.next (State.ctrlReq_writable hc hw hv 2)
theorem exec_coreResume : exec (.coreResume t m c) s = .next (v.coreResume c false) := by
  subst ht
  exact congrArg Host.Outcome.next (State.ctrlReq_writable hc hw hv 3)
theorem exec_coreStep : exec (.coreStep t m c) s = .next (v.coreResume c true) := by
  subst ht
  exact congrArg Host.Outcome.next (State.ctrlReq_writable hc hw hv 4)

end Ctrl

theorem exec_halted (c : Fin 33) : exec (.halted t c) s = .next (u.takeHalt c) := by subst ht; rfl
theorem exec_breakpointHit (c : Fin 33) : exec (.breakpointHit t c) s = .next (u.breakpointHit c) := by subst ht; rfl
theorem exec_watchpointHit (c : Fin 33) : exec (.watchpointHit t c) s = .next (u.watchpointHit c) := by subst ht; rfl
theorem exec_dbgDataRead (m : Master) (c : Fin 32) :
    exec (.dbgDataRead t m c) s = .next { (u.dbgRead c).2 with rd := BitVec.ofNat 64 (u.dbgRead c).1.toNat } := by
  subst ht
  rfl
theorem exec_dbgDataWrite (m : Master) (c : Fin 32) (v : Word) (hw : u.Writable (corePage c)) :
    exec (.dbgDataWrite t m c v) s = .next (u.dbgWrite c v.toNat) := by
  subst ht
  exact congrArg Host.Outcome.next (State.onPage_writable hw)

end Commands

end Sys2Proof.Machine
end

section
/-! PROOFS. The obligation on the commands of the cores. -/

namespace Sys2Proof

open Sys2Proof.Machine

/-- Settles O42: each command is one operation of its core, taken in the case that the clause names; the five requests of `CTRL`
are one write of it. -/
theorem coreCommandsComplete : Obligations.coreCommandsComplete := by
  unfold Obligations.coreCommandsComplete
  refine ⟨?vector, ?routedVector, ?expiry, ?secondExpiry, ?kick, ?timer, ?doorbell, ?requests, ?halted, ?breakpoint,
    ?watchpoint, ?dbgRead, ?dbgWrite⟩
  case vector =>
    intro s u v t k x ht hs hb hv hx h2 h8
    rw [exec_vectorEntry ht, State.vectorEntry_own hs hb hv hx h2 h8]
  case routedVector =>
    intro s u v t k x ty n ht hs hb hv hx h8 hr
    rw [exec_vectorEntry ht, State.vectorEntry_routed hs hb hv hx h8 hr, State.setRg_cr]
  case expiry =>
    intro s u t d k ht hd hn he ho
    rw [exec_wdogExpire ht, State.wdogExpire_first hd hn he ho]
  case secondExpiry =>
    intro s u t d k ht hd hn he ho
    rw [exec_wdogExpire ht, State.wdogExpire_second hd hn he ho]
  case kick =>
    intro s u t m k ht hw he hs
    rw [exec_wdogKick ht k m _ hw]
    exact congrArg Host.Outcome.next (State.wdogKick_running he hs)
  case timer =>
    intro s u t k i ht he hd
    rw [exec_mwTimerFire ht, State.timerFire_due he hd]
  case doorbell => exact fun s u t m k ht hw => exec_doorbell ht k m hw
  case requests =>
    intro s u v t m c ht hc hw hv
    refine ⟨fun hs he hb => ?go, fun hs => ?goRefused, fun hm hs => ?stop, fun hm hs hb => ?halt, fun hs => ?resume,
      fun hs => ?step⟩
    case go =>
      have hbist : v.bist.noGo = 0 := by rw [← hv, State.putBit_bist, hb]
      rw [exec_coreGo ht m hc hw hv, State.coreGo_accepted hs he hbist]
    case goRefused => rw [exec_coreGo ht m hc hw hv, State.coreGo_refused hs]
    case stop => rw [exec_coreStop ht m hc hw hv, State.coreStop_accepted hm hs]
    case halt => rw [exec_coreHalt ht m hc hw hv, State.coreHalt_running hm hs, State.haltAsk_clean hb]
    case resume =>
      rw [exec_coreResume ht m hc hw hv, State.coreResume_halted hs]
      rfl
    case step =>
      rw [exec_coreStep ht m hc hw hv, State.coreResume_halted hs]
      rfl
  case halted =>
    intro s u t c ht hs hb hp
    rw [exec_halted ht, State.takeHalt_pending hs hb hp]
  case breakpoint =>
    intro s u t c b ht hs hk hb hclean
    rw [exec_breakpointHit ht, State.breakpointHit_at hs hk hb, State.haltAsk_clean hclean]
  case watchpoint =>
    intro s u t c w ht hp hw hs hb
    rw [exec_watchpointHit ht, State.watchpointHit_pending hp (by rw [hw]), State.takeHalt_pending hs hb hp, hw]
  case dbgRead =>
    intro s u t m c ht
    refine ⟨fun hq => ?quiet, fun hq => ?busy⟩
    case quiet => rw [exec_dbgDataRead ht, State.dbgRead_quiet hq]
    case busy =>
      rw [exec_dbgDataRead ht, State.dbgRead_busy hq]
      rfl
  case dbgWrite =>
    intro s u t m c v ht hw hq hsr hpc
    rw [exec_dbgDataWrite ht m c v hw, State.dbgWrite_quiet hq hsr hpc]

end Sys2Proof
end

section
/-! PROOFS. The instruction that a first word holds, by its form: the opcode names it, or the opcode names a form and FN the
instruction (R224, R227, R228). -/

namespace Sys2Proof.Machine

variable {w : Word} {o : Op}

/-- A word of the R form is the instruction of its FN (R228, R230). -/
theorem opOf_formR (hop : wfld w 31 26 = 0x01) (hfn : fnR.lookup (wfld w 5 0) = some o) : opOf w = some o := by
  rw [opOf, hop]
  exact hfn
/-- A word of the MAC form is the instruction of its FN (R228, R236). -/
theorem opOf_formMac (hop : wfld w 31 26 = 0x20) (hfn : fnMac.lookup (wfld w 25 23) = some o) : opOf w = some o := by
  rw [opOf, hop]
  exact hfn
/-- A word of the C form is the instruction of its FN (R228, R243, R251). -/
theorem opOf_formC (hop : wfld w 31 26 = 0x32) (hfn : fnC.lookup (wfld w 25 22) = some o) : opOf w = some o := by
  rw [opOf, hop]
  exact hfn
/-- A word whose opcode names one instruction is that instruction: such an opcode is none of a form with FN (R228). -/
theorem opOf_opcode (hop : opMap.lookup (wfld w 31 26) = some o) : opOf w = some o := by
  unfold opOf
  split
  case h_6 => exact hop
  all_goals
    rename_i hform
    rw [hform] at hop
    cases hop

end Sys2Proof.Machine
end

section
/-! PROOFS. The obligation on words of the instruction set. -/

namespace Sys2Proof

open Sys2Proof.Machine

/-- Settles O7: ADD, MPYD and NOP by the FN of their forms, the other words by their opcodes. -/
theorem stoneWordsDecode : Obligations.stoneWordsDecode := by
  unfold Obligations.stoneWordsDecode
  refine ⟨⟨?add, ?xd, ?xa, ?xb⟩, ?ld, ?sta, ?mpyd, ?ftap, ?rpt, ?brpt, ?waitt, ?nop⟩
  case add => exact opOf_formR (by decide) (by decide)
  case xd | xa | xb => decide
  case mpyd => exact opOf_formMac (by decide) (by decide)
  case nop => exact opOf_formC (by decide) (by decide)
  case ld | sta | ftap | rpt | brpt | waitt => exact opOf_opcode (by decide)

end Sys2Proof
end

section
/-! PROOFS. The obligation on the integer instructions. -/

namespace Sys2Proof

open Sys2Proof.Machine

/-- Settles O36: each command is an issue of its instruction, whose meaning reads the words and the registers of its core and
answers the results and the flags that the clause names. -/
theorem integerInstructionsComplete : Obligations.integerInstructionsComplete := by
  unfold Obligations.integerInstructionsComplete
  refine ⟨?arithmetic, ?logic, ?compare, ?shift, ?immediate, ?special⟩
  case arithmetic =>
    rintro s _ _ t c w0 w1 _ rfl rfl rfl
    refine ⟨fun h => ?add, fun h => ?sub, fun h => ?neg, fun h => ?abs⟩
    all_goals exact exec_of_issues h rfl rfl
  case logic =>
    rintro s _ _ t c w0 w1 _ rfl rfl rfl
    refine ⟨fun h => ?and, fun h => ?or, fun h => ?xor, fun h => ?not, fun h => ?min, fun h => ?max, fun h => ?mov,
      fun h => ?cls⟩
    all_goals exact exec_of_issues h rfl rfl
  case compare =>
    rintro s _ _ t c w0 w1 _ rfl rfl rfl
    refine ⟨fun h => ?cmp, fun h => ?cmpi⟩
    all_goals exact exec_of_issues h rfl rfl
  case shift =>
    rintro s _ _ t c w0 w1 _ rfl rfl rfl
    refine ⟨fun h => ?shl, fun h => ?shra, fun h => ?shrl, fun h => ?shli, fun h => ?shrai, fun h => ?shrli⟩
    all_goals exact exec_of_issues h rfl rfl
  case immediate =>
    rintro s _ _ t c w0 w1 _ rfl rfl rfl
    refine ⟨fun h => ?addi, fun h => ?movi, fun h => ?movhi, fun h => ?movl, fun h => ?movpi⟩
    all_goals exact exec_of_issues h rfl rfl
  case special =>
    rintro s _ _ t c w0 w1 _ rfl rfl rfl h
    exact exec_of_issues h rfl rfl

end Sys2Proof
end

section
/-! PROOFS. The meanings of the pipelined primitives, case by case (R240, R241). -/

namespace Sys2Proof.Machine

section Meaning
variable {v : State} {c : Nat} {w0 w1 : Word} {done : Bool}

/-- SINCOS with both values at hand. -/
theorem semSincos_of_values {v1 v2 : State} {x y : Word} {a : Nat} (ha : ((v.cr c).prA w0).toNat = a)
    (hx : v.sinValue a = (x, v1)) (hy : v1.sinValue ((a + 2 ^ 30) % 2 ^ 32) = (y, v2)) :
    semSincos v c w0 w1 done = .ok v2 { wr := [(6, .x (prXD w0) x), (6, .x (prXD w0 + 1) y)], prim := true } := by
  simp only [semSincos, ha, hx, hy]

/-- ATAN2 of (0, 0). -/
theorem semAtan2_zero (ha : (v.cr c).prA w0 = 0) (hb : (v.cr c).prB w0 = 0) :
    semAtan2 v c w0 w1 done = .ok v { wr := [(12, .x (prXD w0) 0)], prim := true } :=
  if_pos ⟨by rw [ha]; rfl, by rw [hb]; rfl⟩
/-- ATAN2 of another pair, with the open value at hand. -/
theorem semAtan2_of_value {v1 : State} {y x z : Int} (ha : ((v.cr c).prA w0).toInt = y) (hb : ((v.cr c).prB w0).toInt = x)
    (hne : y ≠ 0 ∨ x ≠ 0) (hz : v.freeIn (ratRound (angleTurn y x * (2 ^ 32 : Nat)) - 64)
      (ratRound (angleTurn y x * (2 ^ 32 : Nat)) + 64) = (z, v1)) :
    semAtan2 v c w0 w1 done = .ok v1 { wr := [(12, .x (prXD w0) (BitVec.ofInt 32 z))], prim := true } := by
  have hpair : ¬(y = 0 ∧ x = 0) := fun h => hne.elim (fun hy => hy h.1) (fun hx => hx h.2)
  simp only [semAtan2, ha, hb, if_neg hpair, hz]

/-- RSQRT of an operand that is not positive. -/
theorem semRsqrt_nonpos (ha : ((v.cr c).prA w0).toInt ≤ 0) : semRsqrt v c w0 w1 done =
    .ok v { wr := [(8, .x (prXD w0) 0x7FFFFFFF), (8, flVO false), (8, flDZ)], prim := true } := if_pos ha
/-- RSQRT of a positive operand, with the open value at hand. -/
theorem semRsqrt_of_value {v1 : State} {a z : Int} (ha : ((v.cr c).prA w0).toInt = a) (hpos : 0 < a)
    (hz : v.freeIn (ratRound (ratSqrt (((2 ^ 63 : Nat) : Rat) / (a.toNat : Rat)) false * (1 - (1 : Rat) / (2 ^ 22 : Nat))))
      (ratRound (ratSqrt (((2 ^ 63 : Nat) : Rat) / (a.toNat : Rat)) true * (1 + (1 : Rat) / (2 ^ 22 : Nat)))) = (z, v1)) :
    semRsqrt v c w0 w1 done = .ok v1 { wr := [(8, .x (prXD w0) (BitVec.ofInt 32 (min z 0x7FFFFFFF))),
      (8, flVO (decide (0x7FFFFFFF < z)))], prim := true } := by
  simp only [semRsqrt, ha, if_neg (Int.not_le.2 hpos), hz]

end Meaning

section Division
variable {num b : Int} (w : Word)

/-- The quotient by a divisor that is not 0. -/
theorem divWr_quotient (hb : b ≠ 0) (neg : Bool) : divWr w num b neg =
    [(18, .x (prXD w) (BitVec.ofInt 32 (satI 32 (num.tdiv b)))), (18, flVO (!fits 32 (num.tdiv b)))] := if_neg hb
/-- The end of the range by the sign of the dividend. -/
theorem divWr_zero (hb : b = 0) (neg : Bool) : divWr w num b neg =
    [(18, .x (prXD w) (if neg then 0x80000000 else 0x7FFFFFFF)), (18, flDZ)] := if_pos hb

variable {s u v : State} {t : Time} (ht : s.tick t = u) {c : Fin 33} (hv : u.atIssue c = v) {w0 w1 : Word}
include ht hv

/-- DIV issues with the results of a division of the dividend as a fraction. -/
theorem exec_opDiv (h : u.Issues c .div w0 w1 false) : exec (.opDiv t c) s = .next (v.finish c (wordsOf w0) {
    wr := divWr w0 (((v.cr c).prA w0).toInt * 2 ^ 31) ((v.cr c).prB w0).toInt (decide (((v.cr c).prA w0).toInt < 0))
    prim := true }) := by
  subst ht hv
  exact exec_of_issues h rfl rfl
/-- DIVI issues with the results of a division of the dividend as an integer. -/
theorem exec_opDivi (h : u.Issues c .divi w0 w1 false) : exec (.opDivi t c) s = .next (v.finish c (wordsOf w0) {
    wr := divWr w0 ((v.cr c).prA w0).toInt ((v.cr c).prB w0).toInt (decide (((v.cr c).prA w0).toInt < 0))
    prim := true }) := by
  subst ht hv
  exact exec_of_issues h rfl rfl

end Division

end Sys2Proof.Machine
end

section
/-! PROOFS. The obligation on the pipelined primitives. -/

namespace Sys2Proof

open Sys2Proof.Machine

/-- Settles O39: each command is an issue of its primitive, whose meaning takes the case of its operands that the clause names;
the result that is due lands alone. -/
theorem primitivesComplete : Obligations.primitivesComplete := by
  unfold Obligations.primitivesComplete
  refine ⟨?sincos, ?atan2Zero, ?atan2, ?rsqrtClip, ?rsqrt, ?quotient, ?divByZero, ?result⟩
  case sincos =>
    rintro s _ _ v1 v2 t c w0 w1 _ x y a rfl rfl rfl h ha hx hy
    exact exec_of_issues h rfl (semSincos_of_values ha hx hy)
  case atan2Zero =>
    rintro s _ _ t c w0 w1 _ rfl rfl rfl h ha hb
    exact exec_of_issues h rfl (semAtan2_zero ha hb)
  case atan2 =>
    rintro s _ _ v1 t c w0 w1 _ y x z rfl rfl rfl h ha hb hne hz
    exact exec_of_issues h rfl (semAtan2_of_value ha hb hne hz)
  case rsqrtClip =>
    rintro s _ _ t c w0 w1 _ rfl rfl rfl h ha
    exact exec_of_issues h rfl (semRsqrt_nonpos ha)
  case rsqrt =>
    rintro s _ _ v1 t c w0 w1 _ a z rfl rfl rfl h ha hpos hz
    exact exec_of_issues h rfl (semRsqrt_of_value ha hpos hz)
  case quotient =>
    rintro s u v t c w0 w1 _ _ _ ht hv rfl rfl rfl hb
    refine ⟨fun h => ?div, fun h => ?divi⟩
    case div => rw [exec_opDiv ht hv h, divWr_quotient w0 hb]
    case divi => rw [exec_opDivi ht hv h, divWr_quotient w0 hb]
  case divByZero =>
    rintro s u v t c w0 w1 _ _ ht hv rfl rfl hb
    have hzero : ((v.cr c).prB w0).toInt = 0 := by rw [hb]; rfl
    refine ⟨fun h => ?div, fun h => ?divi⟩
    case div => rw [exec_opDiv ht hv h, divWr_zero w0 hzero]
    case divi => rw [exec_opDivi ht hv h, divWr_zero w0 hzero]
  case result =>
    rintro s _ t c d w rfl hp
    exact congrArg Host.Outcome.next (State.landDue_of_pend hp)

end Sys2Proof
end

section
/-! PROOFS. The meanings of the period, frame and trace instructions where nothing is in their way (R247 to R250). -/

namespace Sys2Proof.Machine

section Meaning
variable {v : State} {c : Nat} {w0 w1 : Word} {done : Bool} {a : Nat} {upd : List (Nat × Wr)}

/-- WAITT of a period that the core may use (R247). -/
theorem semWaitt_uses (h : v.usesPeriod c (wfld w0 25 20) (wfld w0 19 18) = true) :
    semWaitt v c w0 w1 done = .ok v { ctl := .waitt (wfld w0 25 20) (wfld w0 19 18) } := if_pos h

/-- IN of a period with a delivered frame (R248). -/
theorem semIn_delivered {key : Nat} {f : Frame} (hk : v.ioPeriod c w0 = some key) (ha : (v.cr c).addrF w0 = (a, upd))
    (hf : (v.cr c).frameOf key = some f) :
    semIn v c w0 w1 done = .ok v { wr := (2, .x (wfld w0 25 22) (vget f.words (a % 32))) :: upd } := by
  simp only [semIn, hk, ha, hf]

/-- The value of an X register, written within the reservation, joins the writes that leave for staging (R249, R264). -/
theorem State.stageOut_reserved {key : Nat} (h : tget 0 (v.cr c).outs key < v.resOf (key / 4) (key % 4)) (word d : Nat)
    (f : Frame) : v.stageOut c key word (vget (v.cr c).x d) f = v.setCr c (fun k => { k with
      outs := tput k.outs key (some (tget 0 k.outs key + 1))
      outQ := k.outQ ++ [(key, word, vget k.x d, k.epoch, (f.k + 1) % 256, ex2At c v.now + ns 40)] }) :=
  (if_neg (Nat.not_le.2 h)).trans (State.setCr_congr rfl)
/-- OUT of a period with a delivered frame leaves its write to staging (R249). -/
theorem semOut_delivered {key : Nat} {f : Frame} (hk : v.ioPeriod c w0 = some key) (ha : (v.cr c).addrF w0 = (a, upd))
    (hf : (v.cr c).frameOf key = some f) : semOut v c w0 w1 done =
      .ok (v.stageOut c key (a % 64) (vget (v.cr c).x (wfld w0 25 22)) f) { wr := upd } := by
  simp only [semOut, hk, ha, hf]

/-- TRC with room in the buffer (R250). -/
theorem semTrc_room (ha : (v.cr c).addrF w0 = (a, upd)) (hl : (v.cr c).trc.length < 16) : semTrc v c w0 w1 done =
    .ok (v.setCr c (fun k => { k with trc := k.trc ++ [⟨a % 64, vget k.x (wfld w0 25 22),
      (ex2At c v.now + 8) / 16 * 16⟩] })) { wr := upd } := by
  simp only [semTrc, ha, if_pos hl]

end Meaning

end Sys2Proof.Machine
end

section
/-! PROOFS. The obligation on the period, frame and trace instructions. -/

namespace Sys2Proof

open Sys2Proof.Machine

/-- Settles O41: each command is an issue of its instruction, whose meaning finds the period, the frame or the room that the
clause names. -/
theorem periodInstructionsComplete : Obligations.periodInstructionsComplete := by
  unfold Obligations.periodInstructionsComplete
  refine ⟨?waitt, ?frameIn, ?frameOut, ?trace⟩
  case waitt =>
    rintro s _ _ t c w0 w1 _ rfl rfl rfl h hu
    exact exec_of_issues h rfl (semWaitt_uses hu)
  case frameIn =>
    rintro s _ _ t c w0 w1 _ key a upd f rfl rfl rfl h hk ha hf
    exact exec_of_issues h rfl (semIn_delivered hk ha hf)
  case frameOut =>
    rintro s _ _ t c w0 w1 _ key a upd f rfl rfl rfl h hk ha hf hr
    rw [exec_of_issues h rfl (semOut_delivered hk ha hf), State.stageOut_reserved hr]
  case trace =>
    rintro s _ _ t c w0 w1 _ a upd rfl rfl rfl h ha hl
    exact exec_of_issues h rfl (semTrc_room ha hl)

end Sys2Proof
end

section
/-! PROOFS. The profile tick of an axis, by what drives the axis (R301, R313, R347). -/

namespace Sys2Proof.Machine

section Tick
variable {s : State} {a : Nat} {tk : Time}

/-- A tick that has come, at a sample instant of the outermost level, and that the axis has not taken (R301). -/
theorem State.tickWaits_due (hnext : (s.axs a).next = some tk) (hrun : s.axRun a = true)
    (hlevel : s.levelDue a (s.levels a - 1) = true) (hnew : (s.aw a).tick ≠ some tk) : s.tickWaits a tk = true := by
  simp [State.tickWaits, hnext, hrun, hlevel, hnew]

/-- The tick of an axis whose next sample instant has come (R301). -/
theorem State.profileTick_due (hnext : (s.axs a).next = some tk) (hd : tk ≤ s.now) :
    s.profileTick a = State.tickAxis a tk chainFuel s := by
  simp only [State.profileTick, hnext, if_pos hd]

section Waiting
variable (hwait : s.tickWaits a tk = true) (fuel : Nat)
include hwait

/-- The group of an axis takes its tick (R313). -/
theorem State.tickAxis_grouped {g : Nat} (hg : s.groupOf a = some g) :
    State.tickAxis a tk (fuel + 1) s = s.groupTick g a tk := by
  simp only [State.tickAxis, hwait, hg, Bool.not_true, Bool.false_eq_true, if_false]
/-- Windshaft takes the tick of a single axis that it drives (R301). -/
theorem State.tickAxis_single (hg : s.groupOf a = none) (hw : s.wallSrc a = false) :
    State.tickAxis a tk (fuel + 1) s = s.wsTick a tk := by
  simp only [State.tickAxis, hwait, hg, hw, Bool.not_true, Bool.false_eq_true, if_false]
/-- The Wallower takes the tick of a single axis that it drives, at once where no other axis's commanded position is its
master (R347). -/
theorem State.tickAxis_wall (hg : s.groupOf a = none) (hw : s.wallSrc a = true)
    (hm : (s.linkOf a).all (fun l => s.msrc l != 0) = true) :
    State.tickAxis a tk (fuel + 1) s = s.wallTick a tk := by
  simp only [State.tickAxis, hwait, hg, hw, Bool.not_true, Bool.false_eq_true, if_false, if_true]
  cases hl : s.linkOf a with
  | none => rfl
  | some l =>
    have hsrc : s.msrc l ≠ 0 := by simpa [hl] using hm
    simp only [if_neg hsrc]
end Waiting
end Tick

theorem exec_profileTick_due {s u : State} {t tk : Time} {a : Fin 64} (ht : s.tick t = u)
    (hnext : (u.axs a).next = some tk) (hd : tk ≤ u.now) :
    exec (.profileTick t a) s = .next (State.tickAxis a tk chainFuel u) := by
  subst ht
  exact congrArg Host.Outcome.next (State.profileTick_due hnext hd)

end Sys2Proof.Machine
end

section
/-! PROOFS. A write of `Q_WR`, and the requests of `CMD` of an axis, case by case (R304, R305, R320, R322, R323, R345). -/

namespace Sys2Proof.Machine

section Requests
variable {s : State} {a : Nat}

/-- The pointer moves forward over entries that the queue has room for (R305). -/
theorem State.writeQwr_forward {v : Nat} (hroom : (v % 1024 + 1024 - s.fld (R.AXIS.Q_RD a) 9 0) % 1024 ≤ 512)
    (hfwd : s.qLevel a ≤ (v % 1024 + 1024 - s.fld (R.AXIS.Q_RD a) 9 0) % 1024) :
    s.writeQwr a v = s.setRg (R.AXIS.Q_WR a) (BitVec.ofNat 32 (v % 1024)) := if_pos ⟨hroom, hfwd⟩
/-- A pointer beyond the room of the queue, or behind its present value, is refused (R305). -/
theorem State.writeQwr_refused {v : Nat} (h : 512 < (v % 1024 + 1024 - s.fld (R.AXIS.Q_RD a) 9 0) % 1024 ∨
    (v % 1024 + 1024 - s.fld (R.AXIS.Q_RD a) 9 0) % 1024 < s.qLevel a) : s.writeQwr a v = s.cfgRefused (R.AXIS.base a) :=
  if_neg fun ⟨hroom, hfwd⟩ => h.elim hroom.not_gt hfwd.not_gt

/-- START of an axis that may start (R301, R323); a START that still waits keeps its instant (assumption log 52). -/
theorem State.axStart_idle (hs : s.axState a = 0) (hrun : s.axRun a = true) (hg : s.groupOf a = none)
    (hv : (s.aw a).invalid = false) (hdec : s.stopDecOf a ≠ 0) (hw : s.wallSrc a = false) : s.axStart a =
      s.setAw a (fun w => { w with startAt := some (w.startAt.getD (s.now + us 1)) }) :=
  if_pos ⟨hs, hrun, by rw [hg]; rfl, by rw [hv]; rfl, hdec, by rw [hw]; rfl⟩
theorem State.axStart_refused (hs : s.axState a ≠ 0) : s.axStart a = s.cmdRefused (R.AXIS.base a) :=
  if_neg fun h => hs h.1

theorem State.axStopCmd_alone (hs : s.axState a = 2) (hg : s.groupOf a = none) : s.axStopCmd a = s.stopRequest a 0 := by
  simp only [State.axStopCmd, hs, hg]
/-- STOP of a member that moves stops its group (R320). -/
theorem State.axStopCmd_grouped {g : Nat} (hs : s.axState a = 2) (hg : s.groupOf a = some g) :
    s.axStopCmd a = s.grStopRequest g 0 := by
  simp only [State.axStopCmd, hs, hg]
theorem State.axStopCmd_refused (hs : s.axState a = 0 ∨ s.axState a = 3 ∨ s.axState a = 4) :
    s.axStopCmd a = s.cmdRefused (R.AXIS.base a) := by
  rcases hs with hs | hs | hs <;> simp only [State.axStopCmd, hs]

/-- RESUME of a STOPPED axis that may resume (R322). -/
theorem State.axResume_stopped (hs : s.axState a = 4) (hrun : s.axRun a = true) (hok : s.resumeOk a = true)
    (hdec : s.stopDecOf a ≠ 0) : s.axResume a = s.setAw a (fun w => { w with resumeAt := some s.now }) :=
  if_pos ⟨hs, hrun, hok, hdec⟩

theorem State.axFlush_atRest (h : s.atRest a = true) :
    s.axFlush a = s.setRg (R.AXIS.Q_RD a) (s.rg (R.AXIS.Q_WR a)) := if_pos h
theorem State.axFlush_moving (h : s.atRest a = false) : s.axFlush a = s.cmdRefused (R.AXIS.base a) := if_neg (by simp [h])

theorem State.axSetpos_atRest (h : s.atRest a = true) :
    s.axSetpos a = s.setAw a (fun w => { w with setReq := some false, invalid := false }) := if_pos h
theorem State.axSetpos_moving (h : s.atRest a = false) : s.axSetpos a = s.cmdRefused (R.AXIS.base a) := if_neg (by simp [h])

/-- FBPOS of an axis without a primary port (R304). -/
theorem State.axFbpos_noPort (h : (vget s.fbSel a).primary = none) : s.axFbpos a = s.cmdRefused (R.AXIS.base a) := by
  simp only [State.axFbpos, h, Bool.and_false, Bool.false_eq_true, if_false]
/-- FBPOS at rest, with a sample of the primary port that is valid now (R304, R323). -/
theorem State.axFbpos_valid {n : Nat} (hr : s.atRest a = true) (hp : (vget s.fbSel a).primary = some n)
    (hv : (s.fbSample n s.now).2.2.2 = true) :
    s.axFbpos a = s.setAw a (fun w => { w with setReq := some true, invalid := false }) := by
  simp only [State.axFbpos, hp, hr, hv, Bool.and_true, if_true]

end Requests

section Command
variable {s : State} (m : Master) {a : Nat} (hw : s.Writable (R.AXIS.base a))
include hw

/-- A request of an axis that no link drives, or other than RESUME and ABANDON (R323). -/
theorem State.axCmdWrite_plain {k : Nat} (hl : s.linkOf a = none ∨ 2 ^ k % 128 ≠ 4 ∧ 2 ^ k % 128 ≠ 8) :
    s.axCmdWrite m a k = s.writeAxCmd a (2 ^ k) := by
  rw [State.axCmdWrite, State.onPage_writable hw]
  cases h : s.linkOf a with
  | none => simp [State.axisHook, h]
  | some l =>
    obtain ⟨hresume, habandon⟩ := hl.resolve_left (by simp [h])
    simp [State.axisHook, h, hresume, habandon]
/-- ABANDON of a STOPPED slave sets its link IDLE too (R345). -/
theorem State.axCmdWrite_abandon_linked {l : Nat} (hl : s.linkOf a = some l) (hs : s.axState a = 4) :
    s.axCmdWrite m a 3 = (s.writeAxCmd a 8).setLinkState l 0 := by
  rw [State.axCmdWrite, State.onPage_writable hw]
  simp [State.axisHook, hl, hs]
end Command

section Group
variable {s : State} {a : Nat} (hg : s.groupOf a = none)
include hg

theorem State.writeAxCmd_resume_alone : s.writeAxCmd a 4 = s.axResume a := by
  simp [State.writeAxCmd, hg]
theorem State.writeAxCmd_abandon_alone : s.writeAxCmd a 8 = s.axAbandon a := by
  simp [State.writeAxCmd, hg]
end Group

section Commands
variable {s u : State} {t : Time} (ht : s.tick t = u) (m : Master) (a : Fin 64) (hw : u.Writable (R.AXIS.base a))
include ht hw

theorem exec_queueWrite (v : Word) : exec (.queueWrite t m a v) s = .next (u.writeQwr a v.toNat) := by
  subst ht
  exact congrArg Host.Outcome.next (State.onPage_writable hw)
theorem exec_axisStart : exec (.axisStart t m a) s = .next (u.axStart a) := by
  subst ht
  exact congrArg Host.Outcome.next (State.axCmdWrite_plain m hw (.inr (by decide)))
theorem exec_axisStop : exec (.axisStop t m a) s = .next (u.axStopCmd a) := by
  subst ht
  exact congrArg Host.Outcome.next (State.axCmdWrite_plain m hw (.inr (by decide)))
theorem exec_axisResume_alone (hl : u.linkOf a = none) (hg : u.groupOf a = none) :
    exec (.axisResume t m a) s = .next (u.axResume a) := by
  subst ht
  exact congrArg Host.Outcome.next ((State.axCmdWrite_plain m hw (.inl hl)).trans (State.writeAxCmd_resume_alone hg))
theorem exec_axisAbandon_alone (hl : u.linkOf a = none) (hg : u.groupOf a = none) :
    exec (.axisAbandon t m a) s = .next (u.axAbandon a) := by
  subst ht
  exact congrArg Host.Outcome.next ((State.axCmdWrite_plain m hw (.inl hl)).trans (State.writeAxCmd_abandon_alone hg))
theorem exec_axisAbandon_linked {l : Nat} (hl : u.linkOf a = some l) (hg : u.groupOf a = none) (hs : u.axState a = 4) :
    exec (.axisAbandon t m a) s = .next ((u.axAbandon a).setLinkState l 0) := by
  subst ht
  rw [← State.writeAxCmd_abandon_alone hg]
  exact congrArg Host.Outcome.next (State.axCmdWrite_abandon_linked m hw hl hs)
theorem exec_axisFlush : exec (.axisFlush t m a) s = .next (u.axFlush a) := by
  subst ht
  exact congrArg Host.Outcome.next (State.axCmdWrite_plain m hw (.inr (by decide)))
theorem exec_axisSetpos : exec (.axisSetpos t m a) s = .next (u.axSetpos a) := by
  subst ht
  exact congrArg Host.Outcome.next (State.axCmdWrite_plain m hw (.inr (by decide)))
theorem exec_axisFbpos : exec (.axisFbpos t m a) s = .next (u.axFbpos a) := by
  subst ht
  exact congrArg Host.Outcome.next (State.axCmdWrite_plain m hw (.inr (by decide)))

end Commands

end Sys2Proof.Machine
end

section
/-! PROOFS. The obligation on the commands of an axis in Windshaft. -/

namespace Sys2Proof

open Sys2Proof.Machine

/-- Settles O44: a tick goes to what drives the axis, and each command is one request of its axis, taken in the case that the
clause names. -/
theorem axisCommandsComplete : Obligations.axisCommandsComplete := by
  unfold Obligations.axisCommandsComplete
  refine ⟨?singleTick, ?wallTick, ?groupTick, ?queue, ?start, ?startRefused, ?stop, ?stopGrouped, ?resume, ?abandon,
    ?abandonSlave, ?flush, ?setpos, ?fbpos⟩
  case singleTick =>
    intro s u t tk a ht hnext hd hrun hlevel hnew hg hsrc
    have hwait := State.tickWaits_due hnext hrun hlevel hnew
    rw [exec_profileTick_due ht hnext hd, chainFuel, State.tickAxis_single hwait _ hg hsrc]
  case wallTick =>
    intro s u t tk a ht hnext hd hrun hlevel hnew hg hsrc hm
    have hwait := State.tickWaits_due hnext hrun hlevel hnew
    rw [exec_profileTick_due ht hnext hd, chainFuel, State.tickAxis_wall hwait _ hg hsrc hm]
  case groupTick =>
    intro s u t tk a g ht hnext hd hrun hlevel hnew hg
    have hwait := State.tickWaits_due hnext hrun hlevel hnew
    rw [exec_profileTick_due ht hnext hd, chainFuel, State.tickAxis_grouped hwait _ hg]
  case queue =>
    intro s u t m a v ht hw
    rw [exec_queueWrite ht m a hw]
    exact ⟨fun hroom hfwd => by rw [State.writeQwr_forward hroom hfwd], fun h => by rw [State.writeQwr_refused (.inl h)],
      fun h => by rw [State.writeQwr_refused (.inr h)]⟩
  case start =>
    intro s u t m a ht hw hs hrun hg hv hdec hsrc
    rw [exec_axisStart ht m a hw, State.axStart_idle hs hrun hg hv hdec hsrc]
  case startRefused =>
    intro s u t m a ht hw hs
    rw [exec_axisStart ht m a hw, State.axStart_refused hs]
  case stop =>
    intro s u t m a ht hw
    rw [exec_axisStop ht m a hw]
    exact ⟨fun hs hg => by rw [State.axStopCmd_alone hs hg], fun hs => by rw [State.axStopCmd_refused hs]⟩
  case stopGrouped =>
    intro s u t m a g ht hw hs hg
    rw [exec_axisStop ht m a hw, State.axStopCmd_grouped hs hg]
  case resume =>
    intro s u t m a ht hw hl hg hs hrun hok hdec
    rw [exec_axisResume_alone ht m a hw hl hg, State.axResume_stopped hs hrun hok hdec]
  case abandon => exact fun s u t m a ht hw hg _ hl => exec_axisAbandon_alone ht m a hw hl hg
  case abandonSlave => exact fun s u t m a l ht hw hg hs hl => exec_axisAbandon_linked ht m a hw hl hg hs
  case flush =>
    intro s u t m a ht hw
    rw [exec_axisFlush ht m a hw]
    exact ⟨fun h => by rw [State.axFlush_atRest h], fun h => by rw [State.axFlush_moving h]⟩
  case setpos =>
    intro s u t m a ht hw
    rw [exec_axisSetpos ht m a hw, exec_axisFbpos ht m a hw]
    exact ⟨fun h => by rw [State.axSetpos_atRest h], fun h => by rw [State.axSetpos_moving h],
      fun h => by rw [State.axFbpos_noPort h]⟩
  case fbpos =>
    intro s u t m a n ht hw hr hp hv
    rw [exec_axisFbpos ht m a hw, State.axFbpos_valid hr hp hv]

end Sys2Proof
end

section
/-! PROOFS. A write of `IGRP[g].CTRL`, and the requests of `CMD` of a group, case by case (R312, R320, R322, R323). -/

namespace Sys2Proof.Machine

section Enable
variable {s : State} {g v : Nat} (hoff : s.bit (R.IGRP.CTRL g) 0 = false)
  (hjoin : bitsN v 20 16 = s.fld (R.IGRP.CTRL g) 20 16) (hon : bitN v 0 = true)
include hoff hjoin hon

/-- EN = 1 with an illegal configuration is refused with its reason (R312). -/
theorem State.writeIgrpCtrl_refused (h : s.grRefusal g ≠ 0) : s.writeIgrpCtrl g v =
    (s.cfgRefused (R.IGRP.base g)).putFld (R.IGRP.STAT g) 23 16 (s.grRefusal g) := by
  simp only [State.writeIgrpCtrl, hjoin, hoff, hon, ne_eq, not_true_eq_false, false_and, Bool.false_eq_true, if_false, if_true,
    if_pos h]
/-- EN = 1 with a legal configuration and a member as QAXIS: the group and its members are IDLE (R312). -/
theorem State.writeIgrpCtrl_enables (h : s.grRefusal g = 0) (hq : bitsN v 13 8 ∈ s.members g) : s.writeIgrpCtrl g v =
    (s.members g).foldl (fun s a => (s.putBit (R.AXIS.STAT a) 4 true).setAxState a 0)
      (((s.setRg (R.IGRP.CTRL g) (BitVec.ofNat 32 (v &&& 0x1f3f01))).setGr g (fun _ => {})).putFld (R.IGRP.STAT g) 2 0 0) := by
  have hmember : (s.members g).contains (bitsN v 13 8) = true := List.contains_iff_mem.2 hq
  simp only [State.writeIgrpCtrl, hjoin, hoff, hon, h, hmember, ne_eq, not_true_eq_false, false_and, Bool.false_eq_true,
    if_false, if_true, Bool.not_true]
end Enable

section Requests
variable {s : State} {g : Nat}

/-- A group that is not enabled has no STATE (R323). -/
theorem State.grIs_disabled (h : s.bit (R.IGRP.CTRL g) 0 = false) (st : Nat) : s.grIs g st = false := by
  simp [State.grIs, h]

/-- START of an IDLE group whose members may start (R323); a START that still waits keeps its instant (assumption log 52). -/
theorem State.grStartCmd_idle (h : s.grIs g 0 = true)
    (hm : (s.members g).all (fun a => s.axRun a && !(s.aw a).invalid && s.stopDecOf a != 0) = true) : s.grStartCmd g =
      s.setGr g (fun r => { r with startAt := some (r.startAt.getD (s.now + us 1)) }) :=
  if_pos (by rw [h, hm]; rfl)
theorem State.grStartCmd_refused (h : s.grIs g 0 = false) : s.grStartCmd g = s.cmdRefused (R.IGRP.base g) :=
  if_neg (by simp [h])

theorem State.grStopCmd_moving (h : s.grIs g 2 = true) : s.grStopCmd g = s.grStopRequest g 1 := if_pos h
/-- STOP of a group that neither moves nor is armed (R323). -/
theorem State.grStopCmd_refused (h2 : s.grIs g 2 = false) (h1 : s.grIs g 1 = false) :
    s.grStopCmd g = s.cmdRefused (R.IGRP.base g) := by
  simp only [State.grStopCmd, h2, h1, Bool.false_eq_true, if_false]

/-- RESUME of a STOPPED group whose members may resume (R322). -/
theorem State.grResumeCmd_stopped (h : s.grIs g 4 = true)
    (hm : (s.members g).all (fun a => s.axRun a && s.resumeOk a && s.stopDecOf a != 0) = true) (pg : Nat) :
    s.grResumeCmd g pg = s.setGr g (fun r => { r with resumeAt := some s.now }) := if_pos (by rw [h, hm]; rfl)
theorem State.grResumeCmd_refused (h : s.grIs g 4 = false) (pg : Nat) : s.grResumeCmd g pg = s.cmdRefused pg :=
  if_neg (by simp [h])

theorem State.grAbandonCmd_stopped (h : s.grIs g 4 = true) (pg : Nat) : s.grAbandonCmd g pg =
    (((s.members g).foldl (fun s a => s.setRg64 (R.AXIS.REMAIN a) 0) s).setGrState g 0).setGr g
      (fun r => { r with seg := none, resumeAt := none }) := if_pos h
theorem State.grAbandonCmd_refused (h : s.grIs g 4 = false) (pg : Nat) : s.grAbandonCmd g pg = s.cmdRefused pg :=
  if_neg (by simp [h])

theorem State.grFlushCmd_atRest (h : (s.grIs g 0 || s.grIs g 4) = true) : s.grFlushCmd g =
    (s.members g).foldl (fun s a => s.setRg (R.AXIS.Q_RD a) (s.rg (R.AXIS.Q_WR a))) s := if_pos h
theorem State.grFlushCmd_refused (h0 : s.grIs g 0 = false) (h4 : s.grIs g 4 = false) :
    s.grFlushCmd g = s.cmdRefused (R.IGRP.base g) := if_neg (by simp [h0, h4])

end Requests

section Commands
variable {s u : State} {t : Time} (ht : s.tick t = u) (m : Master) (g : Fin 16) (hw : u.Writable (R.IGRP.base g))
include ht hw

theorem exec_groupEnable (v : Word) : exec (.groupEnable t m g v) s = .next (u.writeIgrpCtrl g v.toNat) := by
  subst ht
  exact congrArg Host.Outcome.next (State.onPage_writable hw)
theorem exec_groupStart : exec (.groupStart t m g) s = .next (u.grStartCmd g) := by
  subst ht
  exact congrArg Host.Outcome.next (State.onPage_writable hw)
theorem exec_groupStop : exec (.groupStop t m g) s = .next (u.grStopCmd g) := by
  subst ht
  exact congrArg Host.Outcome.next (State.onPage_writable hw)
theorem exec_groupResume : exec (.groupResume t m g) s = .next (u.grResumeCmd g (R.IGRP.base g)) := by
  subst ht
  exact congrArg Host.Outcome.next (State.onPage_writable hw)
theorem exec_groupAbandon : exec (.groupAbandon t m g) s = .next (u.grAbandonCmd g (R.IGRP.base g)) := by
  subst ht
  exact congrArg Host.Outcome.next (State.onPage_writable hw)
theorem exec_groupFlush : exec (.groupFlush t m g) s = .next (u.grFlushCmd g) := by
  subst ht
  exact congrArg Host.Outcome.next (State.onPage_writable hw)

end Commands

end Sys2Proof.Machine
end

section
/-! PROOFS. The obligation on the commands of an interpolation group. -/

namespace Sys2Proof

open Sys2Proof.Machine

/-- Settles O45: each command is one request of its group, taken in the case that the clause names; a group that is not enabled
is in no STATE that a request asks for. -/
theorem groupCommandsComplete : Obligations.groupCommandsComplete := by
  unfold Obligations.groupCommandsComplete
  refine ⟨?enable, ?start, ?stop, ?resume, ?abandon, ?flush, ?disabled⟩
  case enable =>
    intro s u t m g v ht hw hoff hjoin hon
    rw [exec_groupEnable ht m g hw]
    exact ⟨fun h => by rw [State.writeIgrpCtrl_refused hoff hjoin hon h],
      fun h hq => by rw [State.writeIgrpCtrl_enables hoff hjoin hon h hq]⟩
  case start =>
    intro s u t m g ht hw h hm
    rw [exec_groupStart ht m g hw, State.grStartCmd_idle h hm]
  case stop =>
    intro s u t m g ht hw h
    rw [exec_groupStop ht m g hw, State.grStopCmd_moving h]
  case resume =>
    intro s u t m g ht hw h hm
    rw [exec_groupResume ht m g hw, State.grResumeCmd_stopped h hm]
  case abandon =>
    intro s u t m g ht hw h
    rw [exec_groupAbandon ht m g hw, State.grAbandonCmd_stopped h]
  case flush =>
    intro s u t m g ht hw h
    rw [exec_groupFlush ht m g hw, State.grFlushCmd_atRest h]
  case disabled =>
    intro s u t m g ht hw hoff
    have hno := State.grIs_disabled hoff
    refine ⟨?start, ?stop, ?resume, ?abandon, ?flush⟩
    case start => rw [exec_groupStart ht m g hw, State.grStartCmd_refused (hno 0)]
    case stop => rw [exec_groupStop ht m g hw, State.grStopCmd_refused (hno 2) (hno 1)]
    case resume => rw [exec_groupResume ht m g hw, State.grResumeCmd_refused (hno 4)]
    case abandon => rw [exec_groupAbandon ht m g hw, State.grAbandonCmd_refused (hno 4)]
    case flush => rw [exec_groupFlush ht m g hw, State.grFlushCmd_refused (hno 0) (hno 4)]

end Sys2Proof
end

section
/-! PROOFS. A write of one bit of `SS_CTRL` with TRIG, PIN and EDGE as they stand, and the triggers of a start set, case by case
(R69, R317 to R319, R330). -/

namespace Sys2Proof.Machine

/-- A field in which a bit is set is not 0. -/
theorem bitsN_ne_zero_of_bit {v hi lo i : Nat} (hlo : lo ≤ i) (hhi : i ≤ hi) (h : bitN v i = true) : bitsN v hi lo ≠ 0 := by
  intro h0
  have hbit : (bitsN v hi lo).testBit (i - lo) = true := by
    rw [bitsN, Nat.testBit_mod_two_pow, Nat.testBit_shiftRight, Nat.add_sub_cancel' hlo, ← bitN, h,
      decide_eq_true (by omega)]
    rfl
  rw [h0, Nat.zero_testBit] at hbit
  cases hbit

/-- A bit above a field that begins at bit 0 leaves the field. -/
theorem bitsN_two_pow_add {k hi : Nat} (h : hi < k) (f : Nat) : bitsN (2 ^ k + f) hi 0 = bitsN f hi 0 := by
  obtain ⟨d, rfl⟩ := Nat.exists_eq_add_of_lt h
  rw [bitsN_eq, bitsN_eq, Nat.pow_zero, Nat.div_one, Nat.div_one, Nat.sub_zero, Nat.add_right_comm, Nat.pow_add,
    Nat.mul_add_mod]

/-- The low bits of a field that begins at bit 0. -/
theorem State.bitsN_fld (s : State) (r : Nat) {hi top : Nat} (h : hi ≤ top) :
    bitsN (s.fld r top 0) hi 0 = s.fld r hi 0 := by
  rw [State.fld, State.fld, wfld, wfld, bitsN_eq, bitsN_eq, bitsN_eq, Nat.pow_zero, Nat.div_one, Nat.div_one, Nat.sub_zero,
    Nat.sub_zero, Nat.mod_mod_of_dvd _ (Nat.pow_dvd_pow 2 (Nat.succ_le_succ h))]

/-- A value of `SS_CTRL` that leaves TRIG, PIN and EDGE as they stand and has bit `k` alone above them; `ssRequest_of_bit` ties
it to the model. -/
structure State.SsRequest (s : State) (n v k : Nat) : Prop where
  keeps : ∀ {hi : Nat}, hi ≤ 5 → bitsN v hi 0 = s.fld (R.IGRP.SS_CTRL n) hi 0
  bit : ∀ {i : Nat}, 5 < i → bitN v i = decide (k = i)

/-- What `ssWrite` writes is the request of its bit. -/
theorem State.ssRequest_of_bit (s : State) (n : Nat) {k : Nat} (hk : 5 < k) :
    s.SsRequest n (2 ^ k + s.fld (R.IGRP.SS_CTRL n) 5 0) k where
  keeps h := by rw [bitsN_two_pow_add (Nat.lt_of_le_of_lt h hk), State.bitsN_fld _ _ h]
  bit {i} hi := by
    have hlow : s.fld (R.IGRP.SS_CTRL n) 5 0 < 2 ^ 6 := Nat.mod_lt _ (by decide)
    obtain ⟨d, rfl⟩ := Nat.exists_eq_add_of_le hk
    obtain ⟨j, rfl⟩ := Nat.exists_eq_add_of_le hi
    rw [bitN, Nat.pow_add, Nat.testBit_two_pow_mul_add _ hlow, if_neg (by omega), Nat.add_sub_cancel_left,
      Nat.testBit_two_pow]
    simp

section Write
variable {s : State} {n v : Nat}

/-- ARM of an armed set is refused (R317). -/
theorem State.writeSsCtrl_arm_armed (hv : s.SsRequest n v 8) (h : s.setArmed n = true) :
    s.writeSsCtrl n v = s.cfgRefused (R.IGRP.base n) :=
  ite_eq_left_iff.2 fun _ => if_pos ⟨h, .inl (hv.bit (by decide))⟩
/-- ARM of a set that is not armed is judged (R317). -/
theorem State.writeSsCtrl_arm_idle (hv : s.SsRequest n v 8) (htrig : s.fld (R.IGRP.SS_CTRL n) 1 0 ≠ 3)
    (h : s.setArmed n = false) : s.writeSsCtrl n v =
      (s.setRg (R.IGRP.SS_CTRL n) (BitVec.ofNat 32 (s.fld (R.IGRP.SS_CTRL n) 5 0))).setArm n := by
  simp [State.writeSsCtrl, h, htrig, hv.keeps, hv.bit]
/-- DISARM undoes the arm and leaves STATE, REASON and the rest of `SS_STAT` 0 (R317, R330). -/
theorem State.writeSsCtrl_disarm (hv : s.SsRequest n v 9) (htrig : s.fld (R.IGRP.SS_CTRL n) 1 0 ≠ 3) :
    s.writeSsCtrl n v = ((s.setRg (R.IGRP.SS_CTRL n) (BitVec.ofNat 32 (s.fld (R.IGRP.SS_CTRL n) 5 0))).unarm n).setRg
      (R.IGRP.SS_STAT n) 0 := by
  have hbits : bitsN v 10 9 ≠ 0 := bitsN_ne_zero_of_bit (i := 9) (by decide) (by decide) (hv.bit (by decide))
  simp [State.writeSsCtrl, htrig, hbits, hv.keeps, hv.bit]
/-- STROBE with TRIG = 0 triggers the set at the first TCLK edge not earlier than the write (R318). -/
theorem State.writeSsCtrl_strobe (hv : s.SsRequest n v 10) (htrig : s.fld (R.IGRP.SS_CTRL n) 1 0 = 0) :
    s.writeSsCtrl n v =
      (s.setRg (R.IGRP.SS_CTRL n) (BitVec.ofNat 32 (s.fld (R.IGRP.SS_CTRL n) 5 0))).setTrigger n (ceilEdge s.now) := by
  have hbits : bitsN v 10 9 ≠ 0 := bitsN_ne_zero_of_bit (i := 10) (by decide) (by decide) (hv.bit (by decide))
  simp [State.writeSsCtrl, htrig, hbits, hv.keeps, hv.bit]
/-- STROBE with TRIG = 1 or 2 triggers nothing (R318). -/
theorem State.writeSsCtrl_strobe_other (hv : s.SsRequest n v 10)
    (htrig : s.fld (R.IGRP.SS_CTRL n) 1 0 = 1 ∨ s.fld (R.IGRP.SS_CTRL n) 1 0 = 2) :
    s.writeSsCtrl n v = s.setRg (R.IGRP.SS_CTRL n) (BitVec.ofNat 32 (s.fld (R.IGRP.SS_CTRL n) 5 0)) := by
  have hbits : bitsN v 10 9 ≠ 0 := bitsN_ne_zero_of_bit (i := 10) (by decide) (by decide) (hv.bit (by decide))
  rcases htrig with htrig | htrig <;> simp [State.writeSsCtrl, htrig, hbits, hv.keeps, hv.bit]

end Write

section Instants
variable {s : State} {n : Nat}

section Reached
variable (hs : s.fld (R.IGRP.SS_STAT n) 2 0 = 1) (htrig : s.fld (R.IGRP.SS_CTRL n) 1 0 = 2)
  (hmt : s.mtReached (mtOfRegs (s.rg64 (R.IGRP.SS_MT_SEC n)) (s.rg64 (R.IGRP.SS_MT_NSF n))) = true)
include hs htrig hmt

/-- An armed set with TRIG = 2 triggers when machine time has reached its instant (R318). -/
theorem State.setMtTrigger_reached (hu : s.unsureAt (edgeOf (ceilEdge s.now)) = false) :
    s.setMtTrigger n = s.setTrigger n (ceilEdge s.now) :=
  (if_pos ⟨hs, htrig, hmt⟩).trans (if_neg (by rw [hu]; exact Bool.false_ne_true))
/-- It is cancelled and fails while machine time is unsure (R69, R319). -/
theorem State.setMtTrigger_unsure (hu : s.unsureAt (edgeOf (ceilEdge s.now)) = true) : s.setMtTrigger n =
    (s.schedCancel 1 n (ceilEdge s.now) (bitsN (s.rg64 (R.IGRP.SS_MT_NSF n)) 61 32)).setFail n 6 :=
  (if_pos ⟨hs, htrig, hmt⟩).trans (if_pos hu)
end Reached

/-- The members of a triggered set take their ticks at its start instant (R318). -/
theorem State.setStart_triggered (hs : s.fld (R.IGRP.SS_STAT n) 2 0 = 2) (hd : (vget s.sset n).ts ≤ s.now) :
    s.setStart n = (s.setAll (vget s.sset n).axes (vget s.sset n).groups).foldl (fun s a => s.profileTick a) s :=
  if_pos ⟨hs, hd⟩
end Instants

section Commands
variable {s u : State} {t : Time} (ht : s.tick t = u) (n : Fin 16)
include ht

theorem exec_startSetMtTrigger : exec (.startSetMtTrigger t n) s = .next (u.setMtTrigger n) := by subst ht; rfl
theorem exec_startSetStart : exec (.startSetStart t n) s = .next (u.setStart n) := by subst ht; rfl

section Page
variable (m : Master) (hw : u.Writable (R.IGRP.base n))
include hw

theorem exec_startSetArm : exec (.startSetArm t m n) s =
    .next (u.writeSsCtrl n (2 ^ 8 + u.fld (R.IGRP.SS_CTRL n) 5 0)) := by
  subst ht
  exact congrArg Host.Outcome.next (State.onPage_writable hw)
theorem exec_startSetDisarm : exec (.startSetDisarm t m n) s =
    .next (u.writeSsCtrl n (2 ^ 9 + u.fld (R.IGRP.SS_CTRL n) 5 0)) := by
  subst ht
  exact congrArg Host.Outcome.next (State.onPage_writable hw)
theorem exec_startSetStrobe : exec (.startSetStrobe t m n) s =
    .next (u.writeSsCtrl n (2 ^ 10 + u.fld (R.IGRP.SS_CTRL n) 5 0)) := by
  subst ht
  exact congrArg Host.Outcome.next (State.onPage_writable hw)
end Page
end Commands

end Sys2Proof.Machine
end

section
/-! PROOFS. The obligation on the commands of the start sets. -/

namespace Sys2Proof

open Sys2Proof.Machine

/-- Settles O46: ARM, DISARM and STROBE are requests of one bit of `SS_CTRL`, and each command is taken in the case that the
clause names. -/
theorem startSetCommandsComplete : Obligations.startSetCommandsComplete := by
  unfold Obligations.startSetCommandsComplete
  refine ⟨?arm, ?armArmed, ?disarm, ?strobe, ?strobeOther, ?mtTrigger, ?start⟩
  case arm =>
    intro s u t m n ht hw h htrig
    rw [exec_startSetArm ht n m hw, State.writeSsCtrl_arm_idle (u.ssRequest_of_bit n (by decide)) htrig h]
  case armArmed =>
    intro s u t m n ht hw h
    rw [exec_startSetArm ht n m hw, State.writeSsCtrl_arm_armed (u.ssRequest_of_bit n (by decide)) h]
  case disarm =>
    intro s u t m n ht hw htrig
    rw [exec_startSetDisarm ht n m hw, State.writeSsCtrl_disarm (u.ssRequest_of_bit n (by decide)) htrig]
  case strobe =>
    intro s u t m n ht hw htrig
    rw [exec_startSetStrobe ht n m hw, State.writeSsCtrl_strobe (u.ssRequest_of_bit n (by decide)) htrig]
  case strobeOther =>
    intro s u t m n ht hw htrig
    rw [exec_startSetStrobe ht n m hw, State.writeSsCtrl_strobe_other (u.ssRequest_of_bit n (by decide)) htrig]
  case mtTrigger =>
    intro s u t n ht hs htrig hmt
    rw [exec_startSetMtTrigger ht]
    exact ⟨fun hu => by rw [State.setMtTrigger_reached hs htrig hmt hu],
      fun hu => by rw [State.setMtTrigger_unsure hs htrig hmt hu]⟩
  case start =>
    intro s u t n ht hs hd
    rw [exec_startSetStart ht, State.setStart_triggered hs hd]

end Sys2Proof
end

section
/-! PROOFS. Every command answers a next state, and a step keeps the rest of the queue. -/

namespace Sys2Proof.Machine

/-- Every arm of the dispatch answers a next state: no command of the table faults or is refused. -/
theorem exec_next (i : Instr) (s : State) : ∃ r, exec i s = .next r := by
  cases i <;> exact ⟨_, rfl⟩

/-- A command leaves the queue as it finds it. -/
theorem exec_pending {i : Instr} {s r : State} (h : exec i s = .next r) : r.pending = s.pending := by
  have hk : KeepsOutcome s (exec i s) := exec_keeps i s
  rw [h] at hk
  exact Keeps.queue hk

/-- A step is the command at the front, run on the state with the queue's rest. -/
theorem step_cons {s : State} {c : Instr} {rest : List Instr} (h : s.pending = c :: rest) :
    step s = exec c { s with pending := rest } := by
  unfold step
  rw [h]
/-- On an empty queue the block idles (assumption log 129). -/
theorem step_nil {s : State} (h : s.pending = []) : step s = .next s := by
  unfold step
  rw [h]

end Sys2Proof.Machine
end

section
/-! PROOFS. The obligations on the queue and on the step. -/

namespace Sys2Proof

open Sys2Proof.Machine

/-- Settles O3: a step hands the queue's rest to the front command, and no command touches the queue. -/
theorem queueFirstInFirstOut : Obligations.queueFirstInFirstOut := by
  unfold Obligations.queueFirstInFirstOut
  intro s r hr
  cases hq : s.pending with
  | nil =>
    rw [step_nil hq] at hr
    obtain rfl : s = r := by simpa using hr
    exact hq
  | cons c rest =>
    rw [step_cons hq] at hr
    exact exec_pending hr

/-- Settles O1, by the equations of `step`. -/
theorem stepRunsFrontCommand : Obligations.stepRunsFrontCommand := by
  unfold Obligations.stepRunsFrontCommand
  exact ⟨fun c rest s => step_cons rfl, fun s hq => step_nil hq⟩

/-- Settles O2: an empty queue leaves the block as it is, and every command answers a next state. -/
theorem everyStepCompletes : Obligations.everyStepCompletes := by
  unfold Obligations.everyStepCompletes Completes
  intro s
  cases hq : s.pending with
  | nil => exact ⟨s, step_nil hq⟩
  | cons c rest =>
    rw [step_cons hq]
    exact exec_next c _

end Sys2Proof
end

section
/-! PROOFS. The commands of the Latch unit, case by case (R352 to R355, R359). -/

namespace Sys2Proof.Machine

/-- A fold whose steps agree on the states of an invariant, which the second step keeps. -/
theorem foldl_eq_of_invariant {σ α : Type} {P : σ → Prop} {f g : σ → α → σ} (step : ∀ x a, P x → f x a = g x a)
    (keep : ∀ x a, P x → P (g x a)) (l : List α) {x : σ} (h : P x) : l.foldl f x = l.foldl g x := by
  induction l generalizing x with
  | nil => rfl
  | cons a l ih => rw [List.foldl_cons, List.foldl_cons, step x a h, ih (keep x a h)]

section Pins
variable {s v : State} {stamp : Time} {i : Nat} {lvl : Bool}

/-- An edge of a capture input that is no glitch, in a page that is enabled and posts it (R352, R353). -/
theorem State.cpEdge_posted (hl : s.lat.cpPins.getLsbD i ≠ lvl) (hg : tdcGlitch (vget s.lat.cpLast i) stamp = false)
    (hv : ({ s with lat := { s.lat with
      cpPins := wput s.lat.cpPins i i (b2n lvl), cpLast := vupd s.lat.cpLast i (fun _ => some stamp) } } : State).probeStamp
      (16 + i) stamp = v) (hen : v.en R.CAPT.base = true)
    (hsel : v.bit (if lvl then R.CAPT.CP_RISE else R.CAPT.CP_FALL) i = true) :
    s.cpEdge i lvl stamp = (v.post (0x30 + i) 0x01 stamp (b2n lvl)).latchPin 0 i lvl stamp := by
  have hpost : s.cpEdge i lvl stamp = (if v.en R.CAPT.base && v.bit (if lvl then R.CAPT.CP_RISE else R.CAPT.CP_FALL) i then
      v.post (0x30 + i) 0x01 stamp (b2n lvl) else v).latchPin 0 i lvl stamp := by
    subst hv
    exact (if_neg hl).trans (if_neg (by rw [hg]; exact Bool.false_ne_true))
  rw [hpost, hen, hsel]
  rfl

/-- An edge of a SYNC pin that is no glitch, in a page that is enabled and posts it, where no snapshot waits for it (R318, R352,
R353). -/
theorem State.syncEdge_posted {w : State} (hl : s.lat.syncPins.getLsbD i ≠ lvl)
    (hg : tdcGlitch (vget s.lat.syncLast i) stamp = false)
    (hv : ({ s with lat := { s.lat with
      syncPins := BitVec.ofNat 8 (putBitN s.lat.syncPins.toNat i lvl), syncLast := vupd s.lat.syncLast i (fun _ => some stamp) } } :
      State).probeStamp (8 + i) stamp = v) (hen : v.en R.CAPT.base = true)
    (hsel : v.bit R.CAPT.SYNC_EDGE (if lvl then i else 8 + i) = true)
    (hw : v.post (0x150 + i) 0x01 stamp (b2n lvl) = w) (hsnap : w.fld R.TIME.SNAP_CTRL 2 1 ≠ 1) :
    s.syncEdge i lvl stamp = (w.setSync i lvl stamp).latchPin 2 i lvl stamp := by
  have hx : (if v.en R.CAPT.base && v.bit R.CAPT.SYNC_EDGE (if lvl then i else 8 + i) then
      v.post (0x150 + i) 0x01 stamp (b2n lvl) else v) = w := by rw [hen, hsel, ← hw]; rfl
  have hpost : s.syncEdge i lvl stamp =
      ((if w.fld R.TIME.SNAP_CTRL 2 1 = 1 ∧ w.fld R.TIME.SNAP_CTRL 5 3 = i then w.snapshot (edgeOf (ceilEdge stamp)) else w).setSync
        i lvl stamp).latchPin 2 i lvl stamp := by
    rw [← hx, ← hv]
    exact (if_neg hl).trans (if_neg (by rw [hg]; exact Bool.false_ne_true))
  rw [hpost, if_neg fun h => hsnap h.1]
end Pins

section Channels
variable {s : State} {l : Nat}

/-- ARM of a channel with a MODE (R354). -/
theorem State.writeLtCmd_arm (h : s.fld (R.LT.CFG l) 1 0 ≠ 0) : s.writeLtCmd l 1 = s.armChan l true := if_neg h
/-- ARM is refused while MODE = 0 (R354). -/
theorem State.writeLtCmd_arm_off (h : s.fld (R.LT.CFG l) 1 0 = 0) : s.writeLtCmd l 1 = s.cmdRefused R.CAPT.base := if_pos h
theorem State.writeLtCmd_disarm (s : State) (l : Nat) : s.writeLtCmd l 2 = s.armChan l false := rfl
end Channels

section Results
variable {s : State} {m : Master} {r : LatchRes}

/-- A pop takes the head of a queue that is not empty and holds it for the master (R359). -/
theorem State.resPop_head {l : List LatchRes} (hp : s.popShut (R.CAPT.base + 0x80) = none) (hq : s.lat.queue = r :: l) :
    s.resPop m = (r.words[0], ({ s with lat := { s.lat with queue := l, hold := some (m, r) } } : State).showResults) := by
  simp only [State.resPop, hp, hq, List.headD_cons, List.tail_cons]

/-- The master that popped reads a held word; word 7 gives the hold up (R359). -/
theorem State.resPopWord_held {i : Nat} (hp : s.popShut (R.CAPT.base + 0x80 + 4 * i) = none) (hh : s.lat.hold = some (m, r)) :
    s.resPopWord m i = (vget r.words i, if i = 7 then { s with lat := { s.lat with hold := none } } else s) := by
  simp only [State.resPopWord, hp, hh, if_true]
end Results

section Commands
variable {s u : State} {t : Time} (ht : s.tick t = u)
include ht

theorem exec_cpEdge (i : Fin 32) (lvl : Bool) (stamp : Time) : exec (.cpEdge t i lvl stamp) s = .next (u.cpEdge i lvl stamp) := by
  subst ht; rfl
theorem exec_syncEdge (i : Fin 8) (lvl : Bool) (stamp : Time) :
    exec (.syncEdge t i lvl stamp) s = .next (u.syncEdge i lvl stamp) := by subst ht; rfl
theorem exec_latchArm (m : Master) (hw : u.Writable R.CAPT.base) :
    exec (.latchArm t m) s = .next (u.writeLtCmd (u.selOf m).ltsel 1) := by
  subst ht
  exact congrArg Host.Outcome.next (State.onPage_writable hw)
theorem exec_latchDisarm (m : Master) (hw : u.Writable R.CAPT.base) :
    exec (.latchDisarm t m) s = .next (u.writeLtCmd (u.selOf m).ltsel 2) := by
  subst ht
  exact congrArg Host.Outcome.next (State.onPage_writable hw)
theorem exec_latchResultComplete : exec (.latchResultComplete t) s = .next (u.latchSweep State.latchReady) := by subst ht; rfl
theorem exec_latchWaitTimeout : exec (.latchWaitTimeout t) s =
    .next (u.latchSweep (fun s w => s.latchExpired w && !s.latchReady w)) := by subst ht; rfl
theorem exec_resPop (m : Master) : exec (.resPop t m false) s = .next ((u.resPop m).2.ret (u.resPop m).1) := by subst ht; rfl
theorem exec_resPopWord (m : Master) (i : Fin 8) (hi : i.val ≠ 0) :
    exec (.resPopWord t m i) s = .next ((u.resPopWord m i).2.ret (u.resPopWord m i).1) := by
  have hmax : max i.val 1 = i.val := Nat.max_eq_left (Nat.pos_of_ne_zero hi)
  subst ht
  show Host.Outcome.next (((s.tick t).resPopWord m (max i.val 1)).2.ret ((s.tick t).resPopWord m (max i.val 1)).1) = _
  rw [hmax]
end Commands

end Sys2Proof.Machine
end

section
/-! PROOFS. The commands of the Hopper, case by case (R363, R366, R368, R372 to R375, R378). -/

namespace Sys2Proof.Machine

section Trace
variable {s v : State} {k : Nat} {w : TraceWord} {rest : List TraceWord} (hq : (vget s.core k).trc = w :: rest)
include hq

/-- A Hopper that is not enabled takes no trace word (R363). -/
theorem State.traceArrive_disabled (hen : s.hopEn = false) :
    s.traceArrive k = { s with core := vupd s.core k (fun c => { c with trc := rest }) } := by
  have hskip : (!s.hopEn || wfld (s.hrg (R.HOPPER.CH_SRC w.chan)) 23 20 != 0) = true := by rw [hen]; rfl
  rw [State.traceArrive, hq]
  exact if_pos hskip

/-- A trace word of a channel that the Hopper captures waits for its TCLK edge (R362, R363). -/
theorem State.traceArrive_captured (hen : s.hopEn = true) (hsrc : wfld (s.hrg (R.HOPPER.CH_SRC w.chan)) 23 20 = 0)
    (hv : ({ s with core := vupd s.core k (fun c => { c with trc := rest }) } : State).thValue w.chan w.val w.stamp = v)
    (hcap : v.capturing = true) (hch : bitN (v.rg64 R.HOPPER.CH_EN) w.chan = true) :
    s.traceArrive k = v.setHop (fun h => { h with nodes := h.nodes ++ [⟨w.chan, w.val, w.stamp, ceilEdge v.now⟩] }) := by
  have htake : ¬ (!s.hopEn || wfld (s.hrg (R.HOPPER.CH_SRC w.chan)) 23 20 != 0) = true := by rw [hen, hsrc]; decide
  subst hv
  rw [State.traceArrive, hq]
  exact (if_neg htake).trans (if_pos (by rw [hcap, hch]; rfl))
end Trace

section Requests
variable {s : State}

/-- ARM from IDLE, without the machine-time trigger (R368, R372). -/
theorem State.hopArm_idle (hi : s.hopState = 0) (hb : s.hop.bist = false) (hmt : s.bit R.HOPPER.TRIG_CFG 9 = false) :
    s.hopArm = (s.setHop (fun h => { h with taken := 0, missed := 0, aFired := none, last := s.probeNow, seen := s.probeNow, stamps := [], fresh := [], pulse := 0, matching := s.patMask s.probeNow, nodes := [], due := 0 })).hopStart := by
  simp only [State.hopArm, hi, hb, hmt, ne_eq, not_true_eq_false, Bool.false_and, Bool.false_eq_true, if_false]
theorem State.hopArm_refused (h : s.hopState ≠ 0) :
    s.hopArm = (s.putFld R.HOPPER.STAT 15 8 1).cmdRefused R.HOPPER.base := if_pos h
/-- DISARM discards a segment without its trigger (R373). -/
theorem State.hopDisarm_untriggered (h : s.hopState ≠ 2) :
    s.hopDisarm = (s.setHop (fun h => { h with aFired := none, want := false })).setHopState 0 := if_neg h
theorem State.hopClear_idle (h : s.hopState = 0) : s.hopClear = s.hopClearAll := if_neg (not_not.2 h)
/-- The machine-time trigger whose instant has come is due (R368). -/
theorem State.hopMt_reached (h : s.hopState ≠ 0) (hmt : s.bit R.HOPPER.TRIG_CFG 9 = true)
    (hr : s.mtReached (mtOfRegs (s.rg64 R.HOPPER.TRIG_MT_SEC) (s.rg64 R.HOPPER.TRIG_MT_NSF)) = true) :
    s.hopMt = (s.putBit R.HOPPER.TRIG_CFG 9 false).hopDue 32 := if_pos ⟨h, hmt, hr⟩
end Requests

section Drain
variable {s v : State} {x : Nat} (hv : s.putFld R.HOPPER.SEG_RD 15 0 (x % 2 ^ 16) = v)
include hv

/-- With a drain destination `SEG_RD` takes the value alone (R375). -/
theorem State.writeSegRd_drained (h : v.fld R.HOPPER.DRAIN_CTRL 1 0 ≠ 0) : s.writeSegRd x = v := by
  subst hv
  exact if_pos h
/-- Without a drain destination the segments passed are free (R375). -/
theorem State.writeSegRd_frees (h : v.fld R.HOPPER.DRAIN_CTRL 1 0 = 0) :
    s.writeSegRd x = (v.setHop (fun h => { h with segs := h.segs.filter (fun g =>
      decide ((x % 2 ^ 16 + s.segNum - s.fld R.HOPPER.SEG_RD 15 0 % s.segNum) % s.segNum ≤
        (g.idx + s.segNum - s.fld R.HOPPER.SEG_RD 15 0 % s.segNum) % s.segNum)) })).hopFreed := by
  subst hv
  exact if_neg (not_not.2 h)
end Drain

/-- A word without a parity error is neither counted nor posted (R376). -/
theorem State.hopParity_clean {s : State} (h : s.hop.bad = []) (a : Nat) : s.hopParity a = s :=
  if_pos (by rw [h]; rfl)

/-- The copy of a segment without bad words (R375). -/
theorem State.drainDone_clean {s : State} {g : HopSeg} {rest : List HopSeg} (hc : s.copying = true) (hs : s.hop.segs = g :: rest)
    (hb : s.hop.bad = []) {sz src dest : Nat} (hsz : 2 ^ s.segSize = sz) (hsrc : s.segBase g.idx = src)
    (hdest : (if s.fld R.HOPPER.DRAIN_CTRL 1 0 = 1 then hostBase else pondBase) + (s.rg64 R.HOPPER.DRAIN_BASE / sz * sz +
      (s.rg R.HOPPER.DRAIN_WR).toNat % nz (s.fld R.HOPPER.DRAIN_SLOTS 16 0) * sz) = dest) :
    s.drainDone = ((((List.range (sz / 4)).foldl (fun (x : State) i => x.stw (dest + 4 * i) (x.ldw (src + 4 * i))) s).setHop
      (fun h => { h with segs := rest })).setRg R.HOPPER.DRAIN_WR (BitVec.ofNat 32 ((s.rg R.HOPPER.DRAIN_WR).toNat + 1))).hopFreed := by
  have hclean : ((List.range (2 ^ s.segSize / 4)).any fun i => s.hop.bad.contains (s.segBase g.idx + 4 * i)) = false := by
    rw [hb]
    exact List.any_eq_false.2 fun _ _ => Bool.false_ne_true
  subst hsz hsrc hdest
  simp only [State.drainDone, hc, hs, hclean, Bool.not_true, Bool.false_eq_true, if_false]
  congr 3
  refine foldl_eq_of_invariant (P := fun x : State => x.hop.bad = []) (fun x i h => ?word) (fun x i h => ?bad) _ hb
  case word => simp only [State.hopParity_clean h, Bool.and_false, Bool.false_eq_true, if_false]
  case bad => exact h

section Commands
variable {s u : State} {t : Time} (ht : s.tick t = u)
include ht

theorem exec_traceEntry_core (k : Fin 33) (hk : k.val < 32) : exec (.traceEntry t k) s = .next (u.traceArrive k) := by
  subst ht
  exact congrArg Host.Outcome.next (if_pos hk)
theorem exec_segmentRearm (h : u.hopState = 3) : exec (.segmentRearm t) s = .next u.hopStart := by
  subst ht
  exact congrArg Host.Outcome.next (if_pos h)
theorem exec_hopperMtTrigger : exec (.hopperMtTrigger t) s = .next u.hopMt := by subst ht; rfl
theorem exec_drainCopyDone : exec (.drainCopyDone t) s = .next u.drainDone := by subst ht; rfl

section Page
variable (m : Master) (hw : u.Writable R.HOPPER.base)
include hw

theorem exec_hopperArm : exec (.hopperArm t m) s = .next u.hopArm := by
  subst ht
  exact congrArg Host.Outcome.next (State.onPage_writable hw)
theorem exec_hopperDisarm : exec (.hopperDisarm t m) s = .next u.hopDisarm := by
  subst ht
  exact congrArg Host.Outcome.next (State.onPage_writable hw)
theorem exec_hopperForce : exec (.hopperForce t m) s = .next u.hopForce := by
  subst ht
  exact congrArg Host.Outcome.next (State.onPage_writable hw)
theorem exec_hopperClear : exec (.hopperClear t m) s = .next u.hopClear := by
  subst ht
  exact congrArg Host.Outcome.next (State.onPage_writable hw)
theorem exec_segRdWrite (v : Word) : exec (.segRdWrite t m v) s = .next (u.writeSegRd v.toNat) := by
  subst ht
  exact congrArg Host.Outcome.next (State.onPage_writable hw)
theorem exec_drainRdWrite (v : Word) : exec (.drainRdWrite t m v) s = .next (u.setRg R.HOPPER.DRAIN_RD v) := by
  subst ht
  exact congrArg Host.Outcome.next (State.onPage_writable hw)
end Page
end Commands

end Sys2Proof.Machine
end

section
/-! PROOFS. The obligation on the commands of the Latch unit and of the Hopper. -/

namespace Sys2Proof

open Sys2Proof.Machine

/-- Settles O43: each command is its operation on the units' state, taken in the case that the clause names; a copy without bad
words is the plain copy, for no word of it changes which words are bad. -/
theorem captureCommandsComplete : Obligations.captureCommandsComplete := by
  unfold Obligations.captureCommandsComplete
  refine ⟨?cpEdge, ?syncEdge, ?arm, ?sweep, ?pop, ?popWord, ?traceOff, ?traceOn, fun s t => rfl, ?rearm, ?hopArm, ?disarm, ?force,
    ?clear, ?mt, ?segRd, ?drainRd, ?copyDone⟩
  case cpEdge =>
    intro s u v t stamp i lvl ht hl hg hv hen hsel
    rw [exec_cpEdge ht, State.cpEdge_posted hl hg hv hen hsel]
  case syncEdge =>
    intro s u v w t stamp i lvl ht hl hg hv hen hsel hw hsnap
    rw [exec_syncEdge ht, State.syncEdge_posted hl hg hv hen hsel hw hsnap]
  case arm =>
    intro s u t m ht hw
    rw [exec_latchArm ht m hw, exec_latchDisarm ht m hw, State.writeLtCmd_disarm]
    exact ⟨fun h => by rw [State.writeLtCmd_arm h], fun h => by rw [State.writeLtCmd_arm_off h], rfl⟩
  case sweep => exact fun s u t ht => ⟨exec_latchResultComplete ht, exec_latchWaitTimeout ht⟩
  case pop =>
    intro s u t m r l ht hp hq
    rw [exec_resPop ht, State.resPop_head hp hq]
    rfl
  case popWord =>
    intro s u t m i r ht hp hh hi
    rw [exec_resPopWord ht m i hi, State.resPopWord_held hp hh]
    exact ⟨fun h => by rw [if_neg (Nat.ne_of_lt h)]; rfl, fun h => by rw [if_pos h]; rfl⟩
  case traceOff =>
    intro s u t k w rest ht hk hq hen
    rw [exec_traceEntry_core ht k hk, State.traceArrive_disabled hq hen]
  case traceOn =>
    intro s u v t k w rest ht hk hq hen hsrc hv hcap hch
    rw [exec_traceEntry_core ht k hk, State.traceArrive_captured hq hen hsrc hv hcap hch]
  case rearm => exact fun s u t ht h => exec_segmentRearm ht h
  case hopArm =>
    intro s u t m ht hw
    rw [exec_hopperArm ht m hw]
    exact ⟨fun hi hb hmt => by rw [State.hopArm_idle hi hb hmt], fun h => by rw [State.hopArm_refused h]⟩
  case disarm =>
    intro s u t m ht hw h
    rw [exec_hopperDisarm ht m hw, State.hopDisarm_untriggered h]
  case force => exact fun s u t m ht hw => exec_hopperForce ht m hw
  case clear =>
    intro s u t m ht hw h
    rw [exec_hopperClear ht m hw, State.hopClear_idle h]
    rfl
  case mt =>
    intro s u t ht h hmt hr _
    rw [exec_hopperMtTrigger ht, State.hopMt_reached h hmt hr]
  case segRd =>
    intro s u v t m x ht hw hv
    rw [exec_segRdWrite ht m hw]
    exact ⟨fun h => by rw [State.writeSegRd_drained hv h], fun h => by rw [State.writeSegRd_frees hv h]⟩
  case drainRd => exact fun s u t m v ht hw => exec_drainRdWrite ht m hw v
  case copyDone =>
    intro s u t g rest sz src dest ht hc hs hb hsz hsrc hdest
    rw [exec_drainCopyDone ht, State.drainDone_clean hc hs hb hsz hsrc hdest]

end Sys2Proof
end

section
/-! PROOFS. The commands of the Wallower, case by case (R334, R341, R342, R344). -/

namespace Sys2Proof.Machine

section Requests
variable {s : State} {l : Nat}

/-- ENGAGE that is refused leaves its reason (R342). -/
theorem State.engage_refused (h : s.engageRefusal l ≠ 0) :
    s.engage l = (s.putFld (R.LINK.STAT l) 15 8 (s.engageRefusal l)).cmdRefused R.WALL.base := if_pos h
/-- ENGAGE that is accepted arms link and slave; the master value of the crossing is that of the slave's latest tick (R342, R343,
assumption log 57), and LINK_ARMED carries its coming tick (assumption log 165). -/
theorem State.engage_accepted (h : s.engageRefusal l = 0) : s.engage l =
    ((((s.setLinkState l 1).setAxState (s.slaveOf l) 1).setLk l (fun _ =>
      { mPrev := match (s.aw (s.slaveOf l)).tick with | some t => s.masterWas l t | none => none,
        armAt := s.now })).wallPost l 0x18 (s.eventTick [s.slaveOf l]) l) := if_neg (not_not.2 h)

theorem State.writeGlCmd_disengage (h : s.linkState l = 2 ∨ s.linkState l = 3) :
    s.writeGlCmd l 2 = s.setLk l (fun x => { x with disAt := some (s.now + ns 100) }) := if_pos h
theorem State.writeGlCmd_disengage_refused (h2 : s.linkState l ≠ 2) (h3 : s.linkState l ≠ 3) :
    s.writeGlCmd l 2 = s.cmdRefused R.WALL.base := if_neg (not_or.2 ⟨h2, h3⟩)
theorem State.writeGlCmd_disArm (h : s.linkState l = 1 ∨ s.linkState l = 2 ∨ s.linkState l = 3) :
    s.writeGlCmd l 4 = s.setLk l (fun x => { x with disArm := true }) := if_pos h
theorem State.writeGlCmd_disArm_refused (h1 : s.linkState l ≠ 1) (h2 : s.linkState l ≠ 2) (h3 : s.linkState l ≠ 3) :
    s.writeGlCmd l 4 = s.cmdRefused R.WALL.base := if_neg (not_or.2 ⟨h1, not_or.2 ⟨h2, h3⟩⟩)
theorem State.writeGlCmd_cancel (h : s.linkState l = 1) :
    s.writeGlCmd l 8 = s.setLk l (fun x => { x with cancel := true }) := if_pos h
theorem State.writeGlCmd_cancel_refused (h : s.linkState l ≠ 1) :
    s.writeGlCmd l 8 = s.cmdRefused R.WALL.base := if_neg h
end Requests

section VirtualMasters
variable {s : State} {v : Nat}

/-- The update of an enabled virtual master that is due, with its new velocity `vel` (R334). -/
theorem State.vmUpdate_due {x : VmSt} {vel : Int} (hx : s.vmOf v = x) (hen : s.bit (R.WALL.VM_CTRL v) 0 = true)
    (hdue : (x.last / us 1 + 1) * us 1 ≤ s.now)
    (hvel : (if ((s.sgn64 (R.WALL.VM_ACC v)).natAbs : Int) = 0 then s.sgn64 (R.WALL.VM_VEL v) * 10 ^ 6
      else x.vel + clampI (-((s.sgn64 (R.WALL.VM_ACC v)).natAbs : Int)) ((s.sgn64 (R.WALL.VM_ACC v)).natAbs : Int)
        (s.sgn64 (R.WALL.VM_VEL v) * 10 ^ 6 - x.vel)) = vel) :
    s.vmUpdate v = (s.setVm v (fun _ => {
      pos := if x.setReq then s.sgn64 (R.WALL.VM_SETPOS_VAL v) * 2 ^ 8 * 10 ^ 12 else x.pos + vel, vel := vel,
      last := (x.last / us 1 + 1) * us 1, setReq := false })).vmShow v := by
  have hrun : ¬((!s.bit (R.WALL.VM_CTRL v) 0) = true ∨ s.now < (x.last / us 1 + 1) * us 1) := by
    rw [hen]
    simpa using hdue
  subst hvel hx
  exact if_neg hrun

/-- A write of SETPOS = 1 with EN = 1 as it stands (R334). -/
theorem State.writeVmCtrl_setpos (h : s.rg (R.WALL.VM_CTRL v) = 1) :
    s.writeVmCtrl v (2 + s.fld (R.WALL.VM_CTRL v) 0 0) = (s.setRg (R.WALL.VM_CTRL v) 1).vmSetpos v := by
  have hon : s.bit (R.WALL.VM_CTRL v) 0 = true := by rw [State.bit, h]; rfl
  have hw : 2 + s.fld (R.WALL.VM_CTRL v) 0 0 = 3 := by rw [State.fld, h]; rfl
  rw [hw]
  simp only [State.writeVmCtrl, hon]
  rfl
end VirtualMasters

section Tables
variable {s : State} {c off : Nat}

/-- A register of a table in use takes no write (R341). -/
theorem State.ctHook_used (ho : off < 0x218) (h : s.tableUsed c = true) : s.ctHook c off = some (s.cfgRefused R.WALL.base) :=
  if_pos ⟨ho, h⟩
theorem State.ctHook_unused (h : s.tableUsed c = false) : s.ctHook c off = none :=
  if_neg fun hx => Bool.false_ne_true (h.symm.trans hx.2)
end Tables

section Commands
variable {s u : State} {t : Time} (ht : s.tick t = u)
include ht

theorem exec_virtualMasterUpdate (v : Fin 8) : exec (.virtualMasterUpdate t v) s = .next (u.vmUpdate v) := by subst ht; rfl

section Page
variable (m : Master) (hw : u.Writable R.WALL.base)
include hw

theorem exec_engage : exec (.engage t m) s = .next (u.engage (u.selOf m).lsel) := by
  subst ht
  exact congrArg Host.Outcome.next (State.onPage_writable hw)
theorem exec_disengage : exec (.disengage t m) s = .next (u.writeGlCmd (u.selOf m).lsel 2) := by
  subst ht
  exact congrArg Host.Outcome.next (State.onPage_writable hw)
theorem exec_disArm : exec (.disArm t m) s = .next (u.writeGlCmd (u.selOf m).lsel 4) := by
  subst ht
  exact congrArg Host.Outcome.next (State.onPage_writable hw)
theorem exec_cancel : exec (.cancel t m) s = .next (u.writeGlCmd (u.selOf m).lsel 8) := by
  subst ht
  exact congrArg Host.Outcome.next (State.onPage_writable hw)
theorem exec_vmSetpos (v : Fin 8) : exec (.vmSetpos t m v) s =
    .next (u.writeVmCtrl v (2 + u.fld (R.WALL.VM_CTRL v) 0 0)) := by
  subst ht
  exact congrArg Host.Outcome.next (State.onPage_writable hw)
theorem exec_ctWrite (k : Fin 3) (v : DWord) : exec (.ctWrite t m k v) s = .next ((u.ctHook (u.selOf m).tsel (0x200 + 8 * k)).getD
    (u.writeReg m (R.CT.base (u.selOf m).tsel) (R.CT.N (u.selOf m).tsel + 8 * k) v.toNat)) := by
  subst ht
  exact congrArg Host.Outcome.next (State.onPage_writable hw)
end Page
end Commands

end Sys2Proof.Machine
end

section
/-! PROOFS. The obligation on the commands of the Wallower. -/

namespace Sys2Proof

open Sys2Proof.Machine

/-- Settles O47: each command is one request to the link, virtual master or table that its master's selector names. -/
theorem linkCommandsComplete : Obligations.linkCommandsComplete := by
  unfold Obligations.linkCommandsComplete
  refine ⟨?engage, ?disengage, ?disArm, ?cancel, ?update, ?setpos, ?table⟩
  case engage =>
    intro s u t m l ht hw hl
    rw [exec_engage ht m hw, hl]
    exact ⟨fun h => by rw [State.engage_refused h], fun h => congrArg Host.Outcome.next (State.engage_accepted h)⟩
  case disengage =>
    intro s u t m l ht hw hl
    rw [exec_disengage ht m hw, hl]
    exact ⟨fun h => by rw [State.writeGlCmd_disengage h],
      fun h2 h3 => by rw [State.writeGlCmd_disengage_refused h2 h3]⟩
  case disArm =>
    intro s u t m l ht hw hl
    rw [exec_disArm ht m hw, hl]
    exact ⟨fun h => by rw [State.writeGlCmd_disArm h],
      fun h1 h2 h3 => by rw [State.writeGlCmd_disArm_refused h1 h2 h3]⟩
  case cancel =>
    intro s u t m l ht hw hl
    rw [exec_cancel ht m hw, hl]
    exact ⟨fun h => by rw [State.writeGlCmd_cancel h], fun h => by rw [State.writeGlCmd_cancel_refused h]⟩
  case update =>
    intro s u t v x vel ht hx hen hdue
    rw [exec_virtualMasterUpdate ht]
    refine ⟨fun hacc hvel => ?atOnce, fun hacc hvel => ?ramped⟩
    case atOnce => rw [State.vmUpdate_due hx hen hdue ((if_pos (Int.natCast_eq_zero.2 hacc)).trans hvel.symm)]
    case ramped => rw [State.vmUpdate_due hx hen hdue ((if_neg (mt Int.natCast_eq_zero.1 hacc)).trans hvel.symm)]
  case setpos =>
    intro s u t m v ht hw h
    rw [exec_vmSetpos ht m hw, State.writeVmCtrl_setpos h]
  case table =>
    intro s u t m k v c ht hw hc
    rw [exec_ctWrite ht m hw, hc]
    exact ⟨fun h => by rw [State.ctHook_used (by omega) h]; rfl, fun h => by rw [State.ctHook_unused h]; rfl⟩

end Sys2Proof
end

section
/-! PROOFS. The commands of the field inputs, case by case (R382 to R385). -/

namespace Sys2Proof.Machine

section Changes
variable {s : State} {i : Nat} {lvl : Bool} {seen : Time}

/-- A change that the field die samples is judged from its raw stamp on (R382, R383). -/
theorem State.fiChange_sampled (hl : (s.fin i).pin ≠ lvl) (hs : s.fiSampled i (s.fiEdge seen) = true) :
    s.fiChange i lvl seen = (s.setFin i (fun f => { f with pin := lvl })).fiJudge i s.rawNow :=
  if_neg (by simp [hl, hs])
theorem State.fiChange_same (hl : (s.fin i).pin = lvl) : s.fiChange i lvl seen = s := if_pos (.inl hl)
/-- Between the sampling windows the level holds (R381). -/
theorem State.fiChange_unsampled (hs : s.fiSampled i (s.fiEdge seen) = false) : s.fiChange i lvl seen = s :=
  if_pos (.inr (by rw [hs]; rfl))
end Changes

section Decision
variable {s : State} {i : Nat}

/-- The decision instant of a waiting change: state, stamp and probe, then the event where it is selected, then the latch channels
(R73, R353, R383, R394). -/
theorem State.fiDecide_due {raw : Time} {lv : Bool} {v : State} (hp : (s.fin i).pend = some (raw, lv))
    (hd : raw + s.fiDeb i ≤ s.now)
    (hv : ((((s.setFin i (fun f => { f with pend := none })).putBit (R.FIELD.FI_STAT i) 0 lv).putBit R.FIELD.FI_STATE i lv).setRg64
      (R.FIELD.FI_STAMP i) raw).probeStamp (48 + i) raw = v) :
    s.fiDecide i = (if v.bit (R.FIELD.FI_CFG i) (if lv then 18 else 19) then v.fiPost i 0x01 (raw + s.fiDeb i)
      (b2n lv + b2n (decide (3 ≤ v.fld (R.FIELD.FI_CFG i) 17 8)) * 2 + raw / 16 % 2 ^ 32 * 2 ^ 16) else v).fiLatch i lv raw := by
  subst hv
  rw [State.fiDecide, hp]
  exact if_neg (Nat.not_lt.2 hd)
/-- Before the decision instant, and with nothing waiting, nothing happens (R383). -/
theorem State.fiDecide_early (h : (s.fin i).pend.all (fun p => decide (s.now < p.1 + s.fiDeb i)) = true) : s.fiDecide i = s := by
  unfold State.fiDecide
  cases hp : (s.fin i).pend with
  | none => rfl
  | some p =>
    rw [hp] at h
    exact if_pos (of_decide_eq_true h)
end Decision

section WireBreak
variable {s : State} {i : Nat} (hl : s.fiLive i = true) (hw : s.bit (R.FIELD.FI_CFG i) 3 = true)
include hl hw

/-- A window of a monitored input goes to the count or ends it (R384). -/
theorem State.wireWindow_live (low : Bool) : s.wireWindow i low =
    if low then
      if nz (s.fld (R.FIELD.FI_CFG i) 7 4) ≤ (s.fin i).low + 1 ∧ !s.bit (R.FIELD.FI_STAT i) 2 then
        ((s.setFin i (fun f => { f with low := min ((s.fin i).low + 1) 15 })).putBit (R.FIELD.FI_STAT i) 2 true).fiPost i 0x02 s.now 1
      else s.setFin i (fun f => { f with low := min ((s.fin i).low + 1) 15 })
    else if s.bit (R.FIELD.FI_STAT i) 2 then
      ((s.setFin i (fun f => { f with low := 0 })).putBit (R.FIELD.FI_STAT i) 2 false).fiPost i 0x02 s.now 0
    else s.setFin i (fun f => { f with low := 0 }) := by
  have hon : ¬(!s.fiLive i || !wbit (s.rg (R.FIELD.FI_CFG i)) 3) = true := by
    rw [hl, show wbit (s.rg (R.FIELD.FI_CFG i)) 3 = true from hw]
    decide
  exact if_neg hon
end WireBreak

section Silence
variable {s : State} {i : Nat}

theorem State.fiSilence_new (h : s.bit (R.FIELD.FI_STAT i) 3 = false) : s.fiSilence i =
    (((s.putBit (R.FIELD.FI_STAT i) 3 true).setFin i (fun f => { f with pend := none })).fiPost i 0x03 s.now 1).report 0x20 i 0
      true 0 := if_neg (by rw [h]; exact Bool.false_ne_true)
theorem State.fiSilence_known (h : s.bit (R.FIELD.FI_STAT i) 3 = true) : s.fiSilence i = s := if_pos h
/-- The level of the first refresh after silence is judged from its raw stamp on, 120 ns before it (R385, assumption log 69). -/
theorem State.fiReturn_silent (lvl : Bool) (h : s.bit (R.FIELD.FI_STAT i) 3 = true) : s.fiReturn i lvl =
    ((((s.putBit (R.FIELD.FI_STAT i) 3 false).setFin i (fun f => { f with pin := lvl })).fiPost i 0x03 s.now 0).reportClear
      0x20 i).fiJudge i (s.now - ns 120) := if_neg (by rw [h]; decide)
theorem State.fiReturn_heard (lvl : Bool) (h : s.bit (R.FIELD.FI_STAT i) 3 = false) : s.fiReturn i lvl = s :=
  if_pos (by rw [h]; rfl)
end Silence

section Commands
variable {s u : State} {t : Time} (ht : s.tick t = u) (i : Fin 32)
include ht

theorem exec_fieldInputChange (lvl : Bool) (seen : Time) :
    exec (.fieldInputChange t i lvl seen) s = .next (u.fiChange i lvl seen) := by subst ht; rfl
theorem exec_fiEdge : exec (.fiEdge t i) s = .next (u.fiDecide i) := by subst ht; rfl
theorem exec_wireBreak (low : Bool) : exec (.wireBreak t i low) s = .next (u.wireWindow i low) := by subst ht; rfl
theorem exec_fiSilent : exec (.fiSilent t i) s = .next (u.fiSilence i) := by subst ht; rfl
theorem exec_fiRefreshReturn (lvl : Bool) : exec (.fiRefreshReturn t i lvl) s = .next (u.fiReturn i lvl) := by subst ht; rfl
end Commands

end Sys2Proof.Machine
end

section
/-! PROOFS. The obligation on the commands of the field inputs. -/

namespace Sys2Proof

open Sys2Proof.Machine

/-- Settles O48, by the cases of a change, of its decision instant, of a sampling window and of a silence. -/
theorem fieldInputCommandsComplete : Obligations.fieldInputCommandsComplete := by
  unfold Obligations.fieldInputCommandsComplete
  refine ⟨?change, ?between, ?decide, ?early, ?broken, ?mended, ?silent, ?refresh⟩
  case change =>
    intro s u t seen i lvl ht
    rw [exec_fieldInputChange ht]
    exact ⟨fun hl hs => by rw [State.fiChange_sampled hl hs], fun hl => by rw [State.fiChange_same hl]⟩
  case between =>
    intro s u t seen i lvl ht hs
    rw [exec_fieldInputChange ht, State.fiChange_unsampled hs]
  case decide =>
    intro s u v t raw i lv ht hp hd hv
    rw [exec_fiEdge ht, State.fiDecide_due hp hd hv]
    exact ⟨fun h => by rw [h]; rfl, fun h => by rw [h]; rfl⟩
  case early =>
    intro s u t i ht h
    rw [exec_fiEdge ht, State.fiDecide_early h]
  case broken =>
    intro s u v t i ht hl hw hv
    rw [exec_wireBreak ht, State.wireWindow_live hl hw, if_pos rfl, hv]
    exact ⟨fun hk hb => by rw [if_pos ⟨hk, by rw [hb]; rfl⟩],
      fun hk => by rw [if_neg fun hx => Nat.not_le.2 hk hx.1]⟩
  case mended =>
    intro s u t i ht hl hw hb
    rw [exec_wireBreak ht, State.wireWindow_live hl hw, if_neg Bool.false_ne_true, if_pos hb]
  case silent =>
    intro s u t i ht
    rw [exec_fiSilent ht]
    exact ⟨fun h => by rw [State.fiSilence_new h], fun h => by rw [State.fiSilence_known h]⟩
  case refresh =>
    intro s u t i lvl ht
    rw [exec_fiRefreshReturn ht]
    exact ⟨fun h => by rw [State.fiReturn_silent lvl h], fun h => by rw [State.fiReturn_heard lvl h]⟩

end Sys2Proof
end

section
/-! PROOFS. What a register reads after a write that its table lists. Such a write reaches the same key, and no other, in every
table, canonical or not: only a removal can bring a second entry of another key to light. -/

namespace Sys2Proof.Machine

/-- A listed value is read at its key alone, in every table. -/
theorem tget_tput_some {α} (d : α) (l : List (Nat × α)) (k j : Nat) (v : α) :
    tget d (tput l k (some v)) j = if j = k then v else tget d l j := by
  induction l with
  | nil => simp [tput, tget, eq_comm]
  | cons p r ih =>
    obtain ⟨a, w⟩ := p
    unfold tput
    split
    case isTrue ha =>
      subst ha
      by_cases hj : j = a <;> simp [tget, hj, eq_comm]
    case isFalse ha =>
      split
      case isTrue hk =>
        by_cases hj : j = k
        · simp [tget, hj]
        · rw [tget, if_neg (Ne.symm hj), if_neg hj]
          split
          case isTrue hlt => rw [tget, if_neg (by omega), if_pos (by omega)]
          case isFalse => rfl
      case isFalse hk =>
        rw [tget, tget, ih]
        by_cases hj : j = k
        · rw [if_pos hj, if_neg (by omega), if_neg (by omega), if_pos hj]
        · rw [if_neg hj, if_neg hj]

/-- A register set to a word other than its reset value reads as set, and every other register as before. -/
theorem State.rg_setRg_of_ne {a : Nat} {v : Word} (h : v ≠ resetWord a) (s : State) (b : Nat) :
    (s.setRg a v).rg b = if b = a then v else s.rg b := by
  rw [State.rg, State.setRg_regs, tset, if_neg h, tget_tput_some]
  rfl

/-- A word with a bit that its reset value lacks. -/
theorem ne_of_wbit {v w : Word} {i : Nat} (hv : wbit v i = true) (hw : wbit w i = false) : v ≠ w :=
  fun h => Bool.false_ne_true (hw.symm.trans (h ▸ hv))

/-- A bit set that is 0 at reset is read as set, and every other bit of the registers as before. -/
theorem State.bit_putBit_on {a i : Nat} (hi : i < 32) (hr : wbit (resetWord a) i = false) (s : State) (b j : Nat) :
    (s.putBit a i true).bit b j = if b = a ∧ j = i then true else s.bit b j := by
  have hw : ∀ j, wbit (wput (s.rg a) i i (b2n true)) j = if j = i then true else wbit (s.rg a) j := by
    intro j
    rw [wbit_wput _ _ _ _ _ (Nat.le_refl i) hi]
    by_cases hj : j = i
    · subst hj
      simp [b2n]
    · rw [if_neg (by omega), if_neg hj]
  rw [State.bit, State.putBit, State.putFld, State.rg_setRg_of_ne (ne_of_wbit ((hw i).trans (if_pos rfl)) hr)]
  by_cases hb : b = a
  · subst hb
    rw [if_pos rfl, hw]
    simp [State.bit]
  · rw [if_neg hb, if_neg fun h => hb h.1]
    rfl

/-- The block sets bits of `PG_IRQ`: the other registers read as before. -/
theorem State.rg_irq_of_ne {pg bits a : Nat} (hr : resetWord (R.PG_IRQ pg) = 0) (hb : BitVec.ofNat 32 bits ≠ 0)
    (ha : a ≠ R.PG_IRQ pg) (s : State) : (s.irq pg bits).rg a = s.rg a := by
  have hne : s.rg (R.PG_IRQ pg) ||| BitVec.ofNat 32 bits ≠ resetWord (R.PG_IRQ pg) := by
    rw [hr]
    exact fun h => hb (BitVec.or_eq_zero_iff.1 h).2
  exact (State.rg_setRg_of_ne hne s a).trans (if_neg ha)

/-- An event posted changes no register but `WEIR.PG_IRQ`. -/
theorem State.rg_post_of_ne {a : Nat} (ha : a ≠ R.PG_IRQ R.WEIR.base) (s : State) (src code : Nat) (stamp : Time) (payload : Nat) :
    (s.post src code stamp payload).rg a = s.rg a := by
  unfold State.post
  split
  case isTrue => rfl
  case isFalse => exact State.rg_irq_of_ne (by decide) (by decide) ha _

end Sys2Proof.Machine
end

section
/-! PROOFS. The commands of the field outputs and of the field supply, case by case (R387 to R393). -/

namespace Sys2Proof.Machine

/-- An output that exists, just changed. -/
theorem State.fout_setFout_same (s : State) {j : Nat} (hj : j < 32) (f : FoSt → FoSt) : (s.setFout j f).fout j = f (s.fout j) :=
  vget_vupd_same _ _ _ hj
/-- Two changes of an output that agree on it as it stands. -/
theorem State.setFout_congr {s : State} {j : Nat} (hj : j < 32) {f g : FoSt → FoSt} (h : f (s.fout j) = g (s.fout j)) :
    s.setFout j f = s.setFout j g := by
  have hget : s.fo[j] = s.fout j := by rw [State.fout, vget, dif_pos hj]
  have hupd : vupd s.fo j f = vupd s.fo j g := by rw [vupd, vupd, dif_pos hj, dif_pos hj, hget, h]
  rw [State.setFout, State.setFout, hupd]

section Config
variable {s : State} {m : Master} {j v : Nat}

/-- A MODE changes from or to OFF alone (R387). -/
theorem State.writeFoCtrl_mode (h : s.foMode j ≠ 0) (hv : bitsN v 1 0 ≠ 0) : s.writeFoCtrl m j v = s.cfgRefused R.FIELD.base :=
  if_pos ⟨h, hv⟩
/-- An axis has no fifth output (R387). -/
theorem State.writeFoCtrl_fifth (h : s.foMode j = 0) (hv : bitsN v 1 0 = 3) (hn : 4 ≤ (s.foOfAxis (bitsN v 7 2)).length) :
    s.writeFoCtrl m j v = s.cfgRefused R.FIELD.base := (if_neg fun hx => hx.1 h).trans (if_pos ⟨hv, hn⟩)
/-- A write that is taken; the reported faults whose detection it switches off end (R387, R391). -/
theorem State.writeFoCtrl_taken {w x : State} (h : s.foMode j = 0) (hv : bitsN v 1 0 ≠ 3)
    (hw : ((s.writeReg m R.FIELD.base (R.FIELD.FO_CTRL j) v).foEval j).setFout j (fun f => { f with onAcc := 0 }) = w)
    (hx : (if w.bit (R.FIELD.FO_CTRL j) 8 then w else w.foUnreport j 4) = x) :
    s.writeFoCtrl m j v = if x.bit (R.FIELD.FO_CTRL j) 9 then x else x.foUnreport j 5 := by
  subst hw hx
  exact (if_neg fun hx => hx.1 h).trans (if_neg fun hx => hv hx.1)
end Config

section Periods
variable {s v : State} {j : Nat} {p : Int}

/-- A new period of an output that no axis drives: the duties staged up to its grid instant are in force (R388). -/
theorem State.foStart_new (hper : s.foPer j ≠ 0)
    (hp : (s.now : Int) - ((s.now : Int) - (s.rg64 R.FIELD.FO_ANCHOR : Int)) % (16 * s.foPer j : Nat) = p)
    (hnew : (s.fout j).start ≠ some p) (hm : s.foMode j ≠ 3)
    (hv : (s.setFout j (fun f => { f with start := some p, offAt := none })).releaseWhere R.FIELD.base
      (fun w => w.off == foDutyOff j && decide ((w.from_ : Int) ≤ p)) = v) : s.foStart j = v.foDrive j p := by
  subst hp hv
  exact (if_neg (not_or.2 ⟨hnew, hper⟩)).trans (congrArg (State.foDrive · j _) (if_neg hm))
/-- A new period of an output of an axis: the duty in force stays (R387). -/
theorem State.foStart_axis (hper : s.foPer j ≠ 0)
    (hp : (s.now : Int) - ((s.now : Int) - (s.rg64 R.FIELD.FO_ANCHOR : Int)) % (16 * s.foPer j : Nat) = p)
    (hnew : (s.fout j).start ≠ some p) (hm : s.foMode j = 3)
    (hv : s.setFout j (fun f => { f with start := some p, offAt := none }) = v) : s.foStart j = v.foDrive j p := by
  subst hp hv
  exact (if_neg (not_or.2 ⟨hnew, hper⟩)).trans (congrArg (State.foDrive · j _) (if_pos hm))

theorem State.foDrive_held (h : v.foHeld j = true) : v.foDrive j p = v.foSwitch j false := if_pos h

section Free
variable (hf : v.foHeld j = false) {w : Nat}
  (hw : (if v.foMode j = 1 then v.foPer j else foOnTime (v.rg (R.FIELD.FO_DUTY j)) (v.foPer j)) = w)
include hf hw

/-- The period of an output that nothing holds off, by its on-time (R388). -/
theorem State.foDrive_free : v.foDrive j p = if w = 0 then v.foSwitch j false else if w = v.foPer j then v.foSwitch j true
    else (v.foSwitch j true).setFout j (fun f => { f with offAt := some (p.toNat + ns w) }) := by
  subst hw
  exact if_neg (by rw [hf]; exact Bool.false_ne_true)
theorem State.foDrive_never (h : w = 0) : v.foDrive j p = v.foSwitch j false := (State.foDrive_free hf hw).trans (if_pos h)
theorem State.foDrive_always (h : w = v.foPer j) (h0 : w ≠ 0) : v.foDrive j p = v.foSwitch j true :=
  (State.foDrive_free hf hw).trans ((if_neg h0).trans (if_pos h))
theorem State.foDrive_part (h : w ≠ v.foPer j) (h0 : w ≠ 0) : v.foDrive j p =
    (v.foSwitch j true).setFout j (fun f => { f with offAt := some (p.toNat + ns w) }) :=
  (State.foDrive_free hf hw).trans ((if_neg h0).trans (if_neg h))
end Free

/-- An on-time with an end: it is over from that end on (R388). -/
theorem State.foOnEnd_at {x : Time} (h : (s.fout j).offAt = some x) : s.foOnEnd j =
    if s.now < x then s else (s.setFout j (fun f => { f with offAt := none })).foSwitch j false := by
  rw [State.foOnEnd, h]
end Periods

section Conversions
variable {s v x : State} {j i : Nat}

theorem State.foConversion_none (h : s.foEnd j = none) : s.foConversion j i = s := by
  rw [State.foConversion, h]
/-- A conversion that ends at `e`: CURRENT, the frames of the axis, then OC and OL_ON (R15, R389, R391). -/
theorem State.foConversion_some {e : Time} (h : s.foEnd j = some e) : s.foConversion j i =
    let w := BitVec.ofNat 32 (foCode i * 2 ^ 19)
    let x := ((s.setRg (R.FIELD.FO_CURRENT j) w).setFout j
      (fun f => f.convert e i (s.fld (R.FIELD.FO_OC_LIM j) 11 0) s.now)).foFrames j e w
    (x.foLatching j 1 (x.foOver j e)).foReported j 4 (x.foOpen j) := by
  rw [State.foConversion, h]
end Conversions

section Faults
variable {s : State} {j f : Nat}

/-- A latching fault that is newly detected (R391). -/
theorem State.foLatching_new (h : s.bit (R.FIELD.FO_STAT j) f = false) : s.foLatching j f true =
    ((((s.setFout j (fun o => { o with cond := o.cond ||| 2 ^ f })).putBit (R.FIELD.FO_STAT j) f true).foFaultPost j f
      true).foReport j 0x21).foEval j := if_neg (by rw [h]; decide)
/-- The condition of a latching fault ends: the fault stands (R391). -/
theorem State.foLatching_end (s : State) (j f : Nat) : s.foLatching j f false =
    s.setFout j (fun o => { o with cond := o.cond ^^^ (o.cond &&& 2 ^ f) }) := rfl
/-- A fault that is reported only ends with its condition (R391). -/
theorem State.foReported_end (h : s.bit (R.FIELD.FO_STAT j) f = true) :
    s.foReported j f false = (s.putBit (R.FIELD.FO_STAT j) f false).foFaultPost j f false := if_neg (by rw [h]; exact Bool.false_ne_true)

/-- A fault of an output posted: `FO_STAT` stays. -/
theorem State.bit_foFaultPost (s : State) (j f : Nat) (set : Bool) (k : Fin 32) (i : Nat) :
    (s.foFaultPost j f set).bit (R.FIELD.FO_STAT k) i = s.bit (R.FIELD.FO_STAT k) i := by
  have hweir : ∀ k : Fin 32, R.FIELD.FO_STAT k ≠ R.PG_IRQ R.WEIR.base := by decide
  have hfield : ∀ k : Fin 32, R.FIELD.FO_STAT k ≠ R.PG_IRQ R.FIELD.base := by decide
  rw [State.bit, State.foFaultPost, State.foPost, State.postNow, State.rg_post_of_ne (hweir k), if_pos rfl,
    State.rg_irq_of_ne (by decide) (by decide) (hfield k), State.bit]
end Faults

section Silence
variable {s : State}

/-- The field die knows already (R391). -/
theorem State.foLogicSilent_known {j : Nat} (h : (s.fout j).silent = true) : s.foLogicSilent j = s :=
  if_pos (by rw [h]; rfl)
/-- A coupler with a live link has lost its refresh without a cause on the control side: LOGIC_SILENT latches (R391). -/
theorem State.foLogicSilent_lost {j : Fin 32} (hs : (s.fout j).silent = false) (hstop : (s.fout j).stopped = none)
    (hinj : s.foInjected j = false) (hc : (s.fout j).ctlSilent = false) (h3 : s.bit (R.FIELD.FO_STAT j) 3 = false)
    (h8 : s.bit (R.FIELD.FO_STAT j) 8 = false) : s.foLogicSilent j =
      (((s.setFout j (fun f => { f with silent := true, lost := true, stopped := none })).putBit (R.FIELD.FO_STAT j) 3
        true).foFaultPost j 3 true).foEval j := by
  have hreset : ∀ j : Fin 32, wbit (resetWord (R.FIELD.FO_STAT j)) 3 = false := by decide
  have hset : s.setFout j (fun f => { f with
      silent := true, lost := f.lost || f.stopped.isNone,
      stopped := if s.bit (R.FIELD.FO_STAT j) 8 then f.stopped else none }) =
      s.setFout j (fun f => { f with silent := true, lost := true, stopped := none }) :=
    State.setFout_congr j.isLt (by simp [hstop])
  simp only [State.foLogicSilent, hstop, hs, hset, Bool.not_true, Bool.or_false, Bool.false_eq_true, if_false]
  generalize hx : s.setFout j (fun f => { f with silent := true, lost := true, stopped := none }) = x
  have hinj' : x.foInjected j = false := hx ▸ hinj
  have hc' : (x.fout j).ctlSilent = false := by
    rw [← hx, State.fout_setFout_same s j.isLt]
    exact hc
  have h3' : x.bit (R.FIELD.FO_STAT j) 3 = false := hx ▸ h3
  have h8' : ((x.putBit (R.FIELD.FO_STAT j) 3 true).foFaultPost j 3 true).bit (R.FIELD.FO_STAT j) 8 = false := by
    rw [State.bit_foFaultPost, State.bit_putBit_on (by decide) (hreset j), if_neg fun hx => absurd hx.2 (by decide)]
    exact hx ▸ h8
  simp only [hinj', hc', h3', h8', Bool.or_false, Bool.false_eq_true, if_false]

theorem State.foCtlSilent_new {j : Nat} (h : (s.fout j).ctlSilent = false) :
    s.foCtlSilent j = (s.setFout j (fun f => { f with ctlSilent := true })).foReport j 0x22 :=
  if_neg (by rw [h]; exact Bool.false_ne_true)
theorem State.foCtlSilent_known {j : Nat} (h : (s.fout j).ctlSilent = true) : s.foCtlSilent j = s := if_pos h

/-- The link of a silent coupler returns: what LOGIC_SILENT of the field die there is shows (R391). -/
theorem State.foReturn_silent {j : Nat} (hj : j < 32) {v : State} (h : (s.fout j).ctlSilent = true)
    (hv : ((s.setFout j (fun f => { f with lost := false })).setFout j (fun f => { f with ctlSilent := false })).foReportClear j 0x22 =
      v) : s.foReturn j = if (v.fout j).silent && !v.bit (R.FIELD.FO_STAT j) 3 then
        (v.putBit (R.FIELD.FO_STAT j) 3 true).foFaultPost j 3 true else v := by
  have hctl : ((s.setFout j (fun f => { f with lost := false })).fout j).ctlSilent = true := by
    rw [State.fout_setFout_same s hj]
    exact h
  rw [State.foReturn, if_pos hctl, hv]
end Silence

section Supply
variable {s w : State} {v : Nat} (hw : s.fieldMeasure v = w)
include hw

theorem State.fieldDown_above (h : 800 ≤ v) : s.fieldDown v = w := by
  subst hw
  exact if_pos (.inl h)
/-- Below 8.0 V: UV and UV_HOLD, every output off, what debounced is discarded (R392). -/
theorem State.fieldDown_below (h : v < 800) (huv : w.fieldUv = false) : s.fieldDown v =
    (List.range 32).foldl (fun (s : State) i => s.setFin i (fun f => { f with pend := none }))
      (((w.putFld R.FIELD.STAT 1 0 3).irq R.FIELD.base 8).uvOff true).foEvalAll := by
  subst hw
  exact if_neg (not_or.2 ⟨Nat.not_le.2 h, by rw [huv]; exact Bool.false_ne_true⟩)
theorem State.fieldUp_below (h : v ≤ 850) : s.fieldUp v = w := by
  subst hw
  exact if_pos (.inl h)

/-- A measurement other than 0 and the end of UV leave `FIELD.CTRL` as it was, in every table: LINK keeps `FIELD.STAT` listed. -/
theorem State.ctrl_fieldUp (h : 0 < v) (hv : v < 65536) :
    ((w.putBit R.FIELD.STAT 0 false).irq R.FIELD.base 8).bit R.FIELD.CTRL 0 = s.bit R.FIELD.CTRL 0 := by
  have hmeasure : wput (s.rg R.FIELD.STAT) 31 16 v ≠ resetWord R.FIELD.STAT := by
    intro hx
    have hfld : wfld (wput (s.rg R.FIELD.STAT) 31 16 v) 31 16 = v := by
      rw [wfld_wput _ _ _ _ (by decide) (by decide)]
      exact Nat.mod_eq_of_lt hv
    rw [hx] at hfld
    exact absurd h (by rw [← hfld]; decide)
  have hlink : wbit (wput (w.rg R.FIELD.STAT) 0 0 (b2n false)) 2 = true := by
    rw [wbit_wput _ _ _ _ _ (by decide) (by decide), if_neg (by decide), ← hw]
    have hbit := State.bit_putBit_on (a := R.FIELD.STAT) (i := 2) (by decide) (by decide) (s.putFld R.FIELD.STAT 31 16 v)
      R.FIELD.STAT 2
    exact hbit.trans (if_pos ⟨rfl, rfl⟩)
  have hstat : ((w.putBit R.FIELD.STAT 0 false).irq R.FIELD.base 8).rg R.FIELD.CTRL = w.rg R.FIELD.CTRL := by
    rw [State.rg_irq_of_ne (by decide) (by decide) (by decide)]
    exact (State.rg_setRg_of_ne (ne_of_wbit hlink (by decide)) w _).trans (if_neg (by decide))
  rw [State.bit, hstat, ← State.bit, ← hw, State.fieldMeasure, State.bit_putBit_on (by decide) (by decide),
    if_neg (by decide), State.bit, State.putFld, State.rg_setRg_of_ne hmeasure, if_neg (by decide), State.bit]

section Recovery
variable (h : 850 < v) (hv : v < 65536) (huv : w.fieldUv = true)
include h hv huv

/-- Above 8.5 V UV ends, and UV_HOLD with it where CTRL says so; the inputs are judged anew (R392). -/
theorem State.fieldUp_above : s.fieldUp v = (List.range 32).foldl (fun (s : State) i => s.fiJudge i s.now)
    (if s.bit R.FIELD.CTRL 0 then ((w.putBit R.FIELD.STAT 0 false).irq R.FIELD.base 8).uvRelease
      else (w.putBit R.FIELD.STAT 0 false).irq R.FIELD.base 8) := by
  have hctrl := State.ctrl_fieldUp hw (Nat.zero_lt_of_lt h) hv
  rw [← hctrl]
  subst hw
  exact if_neg (not_or.2 ⟨Nat.not_le.2 h, by rw [huv]; decide⟩)
end Recovery
end Supply

theorem State.uvClr_refused {s : State} (h : s.fieldUv = true) : s.uvClr = s.cmdRefused R.FIELD.base := if_pos h
theorem State.uvClr_held {s : State} (h : s.fieldUv = false) (hh : s.bit R.FIELD.STAT 1 = true) : s.uvClr = s.uvRelease :=
  (if_neg (by rw [h]; exact Bool.false_ne_true)).trans (if_pos hh)

section Commands
variable {s u : State} {t : Time} (ht : s.tick t = u)
include ht

section Output
variable (j : Fin 32)

theorem exec_foPeriodStart : exec (.foPeriodStart t j) s = .next (u.foStart j) := by subst ht; rfl
theorem exec_foOnTimeEnd : exec (.foOnTimeEnd t j) s = .next (u.foOnEnd j) := by subst ht; rfl
theorem exec_foCurrentConversion (i : Fin 16777216) : exec (.foCurrentConversion t j i) s = .next (u.foConversion j i) := by
  subst ht; rfl
theorem exec_foFault_oc (b : Bool) : exec (.foFault t j 1 b) s = .next (u.foLatching j 1 (u.foOver j u.now)) := by subst ht; rfl
theorem exec_foFault_thermal (b : Bool) : exec (.foFault t j 2 b) s = .next (u.foLatching j 2 b) := by subst ht; rfl
theorem exec_foFault_olOn (b : Bool) : exec (.foFault t j 4 b) s = .next (u.foReported j 4 (u.foOpen j)) := by subst ht; rfl
theorem exec_foFault_olOff (b : Bool) : exec (.foFault t j 5 b) s = .next (u.foReported j 5 b) := by subst ht; rfl
theorem exec_foFault_shortVf (b : Bool) : exec (.foFault t j 6 b) s = .next (u.foReported j 6 b) := by subst ht; rfl
theorem exec_foLogicSilent : exec (.foLogicSilent t j) s = .next (u.foLogicSilent j) := by subst ht; rfl
theorem exec_foSilent : exec (.foSilent t j) s = .next (u.foCtlSilent j) := by subst ht; rfl
theorem exec_foRefreshReturn : exec (.foRefreshReturn t j) s = .next (u.foReturn j) := by subst ht; rfl
end Output

theorem exec_fieldUndervoltage_dead : exec (.fieldUndervoltage t none) s = .next (u.putBit R.FIELD.STAT 2 false) := by
  subst ht; rfl
theorem exec_fieldUndervoltage (v : Fin 65536) : exec (.fieldUndervoltage t (some v)) s = .next (u.fieldDown v) := by
  subst ht; rfl
theorem exec_fieldUvRecovery (v : Fin 65536) : exec (.fieldUvRecovery t v) s = .next (u.fieldUp v) := by subst ht; rfl

section Page
variable (m : Master) (hw : u.Writable R.FIELD.base)
include hw

theorem exec_foConfigWrite (j : Fin 32) (v : Word) : exec (.foConfigWrite t m j v) s = .next (u.writeFoCtrl m j v.toNat) := by
  subst ht
  exact congrArg Host.Outcome.next (State.onPage_writable hw)
theorem exec_foClear (j : Fin 32) (v : Word) : exec (.foClear t m j v) s = .next (u.writeFoClr j v.toNat) := by
  subst ht
  exact congrArg Host.Outcome.next (State.onPage_writable hw)
theorem exec_uvClr : exec (.uvClr t m) s = .next u.uvClr := by
  subst ht
  exact congrArg Host.Outcome.next (State.onPage_writable hw)
end Page
end Commands

end Sys2Proof.Machine
end

section
/-! PROOFS. The obligation on the commands of the field outputs and of the field supply. -/

namespace Sys2Proof

open Sys2Proof.Machine

/-- Settles O49, by the cases of a configuration, of a period and its on-time, of a conversion, of a fault, of a silence and of
the supply. -/
theorem fieldOutputCommandsComplete : Obligations.fieldOutputCommandsComplete := by
  unfold Obligations.fieldOutputCommandsComplete
  refine ⟨?config, ?period, ?axisPeriod, ?onTime, ?noConversion, ?conversion, ?detected, ?ended, ?unreported, ?known, ?lost,
    ?silent, ?refresh, ?clear, fun s u t ht => exec_fieldUndervoltage_dead ht, ?undervoltage, ?recovery, ?uvClr⟩
  case config =>
    intro s u w x t m j v ht hp hw hx
    rw [exec_foConfigWrite ht m hp]
    exact ⟨fun h hv => by rw [State.writeFoCtrl_mode h hv], fun h hv hn => by rw [State.writeFoCtrl_fifth h hv hn],
      fun h hv => by rw [State.writeFoCtrl_taken h hv hw hx]⟩
  case period =>
    intro s u v t j p w ht hper hp hnew hm hv hw
    rw [exec_foPeriodStart ht, State.foStart_new hper hp hnew hm hv]
    exact ⟨fun h => by rw [State.foDrive_held h], fun h h0 => by rw [State.foDrive_never h hw h0],
      fun h hf h0 => by rw [State.foDrive_always h hw hf h0], fun h hf h0 => by rw [State.foDrive_part h hw hf h0]⟩
  case axisPeriod =>
    intro s u v t j p w ht hper hp hnew hm hv h hw
    have hper' : v.foPer j = u.foPer j := hv ▸ rfl
    have hmode : v.foMode j ≠ 1 := fun hx => absurd (hm.symm.trans ((hv ▸ rfl : u.foMode j = v.foMode j).trans hx)) (by decide)
    have hw' : (if v.foMode j = 1 then v.foPer j else foOnTime (v.rg (R.FIELD.FO_DUTY j)) (v.foPer j)) = w := by
      rw [if_neg hmode, hper', hw]
    rw [exec_foPeriodStart ht, State.foStart_axis hper hp hnew hm hv, ← hper']
    exact ⟨fun h0 => by rw [State.foDrive_never h hw' h0], fun hf h0 => by rw [State.foDrive_always h hw' hf h0],
      fun hf h0 => by rw [State.foDrive_part h hw' hf h0]⟩
  case onTime =>
    intro s u t x j ht hx
    rw [exec_foOnTimeEnd ht, State.foOnEnd_at hx]
    exact ⟨fun h => by rw [if_neg (Nat.not_lt.2 h)], fun h => by rw [if_pos h]⟩
  case noConversion =>
    intro s u t j i ht h
    rw [exec_foCurrentConversion ht, State.foConversion_none h]
  case conversion =>
    intro s u v x t e j i w ht h hw hv hx
    rw [exec_foCurrentConversion ht, State.foConversion_some h]
    subst hw hv hx
    rfl
  case detected =>
    intro s u t j f b ht hf h
    rcases hf with ⟨rfl, ho⟩ | ⟨rfl, rfl⟩
    · rw [exec_foFault_oc ht, ho]
      exact congrArg Host.Outcome.next (State.foLatching_new h)
    · rw [exec_foFault_thermal ht]
      exact congrArg Host.Outcome.next (State.foLatching_new h)
  case ended =>
    intro s u t j f b ht hf
    rcases hf with ⟨rfl, ho⟩ | ⟨rfl, rfl⟩
    · rw [exec_foFault_oc ht, ho]
      rfl
    · rw [exec_foFault_thermal ht]
      rfl
  case unreported =>
    intro s u t j f b ht hf h
    rcases hf with ⟨rfl, ho⟩ | ⟨rfl, rfl⟩ | ⟨rfl, rfl⟩
    · rw [exec_foFault_olOn ht, ho]
      exact congrArg Host.Outcome.next (State.foReported_end h)
    · rw [exec_foFault_olOff ht]
      exact congrArg Host.Outcome.next (State.foReported_end h)
    · rw [exec_foFault_shortVf ht]
      exact congrArg Host.Outcome.next (State.foReported_end h)
  case known =>
    intro s u t j ht h
    rw [exec_foLogicSilent ht, State.foLogicSilent_known h]
  case lost =>
    intro s u t j ht hs hstop hinj hc h3 h8
    rw [exec_foLogicSilent ht, State.foLogicSilent_lost hs hstop hinj hc h3 h8]
  case silent =>
    intro s u t j ht
    rw [exec_foSilent ht]
    exact ⟨fun h => by rw [State.foCtlSilent_new h], fun h => by rw [State.foCtlSilent_known h]⟩
  case refresh =>
    intro s u v t j ht h hv
    rw [exec_foRefreshReturn ht, State.foReturn_silent j.isLt h hv]
    exact ⟨fun hs hb => by rw [hs, hb]; rfl, fun hs => by rw [hs]; rfl⟩
  case clear => exact fun s u t m j v ht hw => exec_foClear ht m hw j v
  case undervoltage =>
    intro s u w t v ht hw
    rw [exec_fieldUndervoltage ht]
    exact ⟨fun h => by rw [State.fieldDown_above hw h], fun h huv => by rw [State.fieldDown_below hw h huv]⟩
  case recovery =>
    intro s u w t v ht hw
    rw [exec_fieldUvRecovery ht]
    exact ⟨fun h => by rw [State.fieldUp_below hw h],
      fun h huv hc => by rw [State.fieldUp_above hw h v.isLt huv, hc]; rfl,
      fun h huv hc => by rw [State.fieldUp_above hw h v.isLt huv, hc]; rfl⟩
  case uvClr =>
    intro s u t m ht hw
    rw [exec_uvClr ht m hw]
    exact ⟨fun h => by rw [State.uvClr_refused h], fun h hh => by rw [State.uvClr_held h hh]⟩

end Sys2Proof
end

section
/-! PROOFS. The commands of mode, timing and reception of a CAN controller, case by case (R398, R400 to R402, R404 to R407,
R412). -/

namespace Sys2Proof.Machine

section Modes
variable {s : State} {n v : Nat}

/-- The written mode takes effect at once where no frame can be in progress (R400). -/
theorem State.writeCanCtrl_idle (h : (s.setRg (R.CAN.CTRL n) (BitVec.ofNat 32 (v &&& 0xfff1f))).canIdle n = true) :
    s.writeCanCtrl n v = (s.setRg (R.CAN.CTRL n) (BitVec.ofNat 32 (v &&& 0xfff1f))).canEnter n := if_pos h
/-- Otherwise the control word stands, and the mode waits (R400). -/
theorem State.writeCanCtrl_busy (h : (s.setRg (R.CAN.CTRL n) (BitVec.ofNat 32 (v &&& 0xfff1f))).canIdle n = false) :
    s.writeCanCtrl n v = s.setRg (R.CAN.CTRL n) (BitVec.ofNat 32 (v &&& 0xfff1f)) :=
  if_neg (by rw [h]; exact Bool.false_ne_true)

/-- `NBT` within the limits (R398). -/
theorem State.writeCanTiming_nbt (hc : s.fld (R.CAN.CTRL n) 1 0 = 0)
    (ht : timingOk (v &&& 0x7ffffff) (s.rg (R.CAN.DBT n)).toNat = true) : s.writeCanTiming n false v =
      (s.setRg (R.CAN.NBT n) (BitVec.ofNat 32 (v &&& 0x7ffffff))).setRg (R.CAN.DBT n)
        (BitVec.ofNat 32 (s.rg (R.CAN.DBT n)).toNat) :=
  if_neg (not_or.2 ⟨not_not.2 hc, fun h => Bool.false_ne_true (h.symm.trans ht)⟩)
/-- `DBT` within the limits (R398). -/
theorem State.writeCanTiming_dbt (hc : s.fld (R.CAN.CTRL n) 1 0 = 0)
    (ht : timingOk (s.rg (R.CAN.NBT n)).toNat (v &&& 0x3ffffff) = true) : s.writeCanTiming n true v =
      (s.setRg (R.CAN.NBT n) (BitVec.ofNat 32 (s.rg (R.CAN.NBT n)).toNat)).setRg (R.CAN.DBT n)
        (BitVec.ofNat 32 (v &&& 0x3ffffff)) :=
  if_neg (not_or.2 ⟨not_not.2 hc, fun h => Bool.false_ne_true (h.symm.trans ht)⟩)
/-- Out of CONFIG the timing is refused (R398). -/
theorem State.writeCanTiming_running (d : Bool) (h : s.fld (R.CAN.CTRL n) 1 0 ≠ 0) :
    s.writeCanTiming n d v = s.cfgRefused (R.CAN.base n) := if_pos (.inl h)
/-- Out of the limits it is refused (R398). -/
theorem State.writeCanTiming_limits (h : timingOk (v &&& 0x7ffffff) (s.rg (R.CAN.DBT n)).toNat = false) :
    s.writeCanTiming n false v = s.cfgRefused (R.CAN.base n) := if_pos (.inr h)
end Modes

section Errors
variable {s v : State} {n e : Nat} {k : CanSteps}
  (hv : (((s.setCan n (fun c => { c with fltOld := [] })).putBit (R.CAN.STAT n) 4 false).canDrive n (s.canFlag n)) = v)
include hv

/-- In RESTRICTED the counters stand and the controller waits (R401). -/
theorem State.canRxError_restricted (h : s.canMode n = 2) :
    s.canRxError n e k = (v.setCan n (fun c => { c with wait11 := true })).canBusError n e := by
  subst hv
  exact if_pos h
/-- In the other modes the counters step, and the error state follows (R412, assumption log 77). -/
theorem State.canRxError_counted (h : s.canMode n ≠ 2) :
    s.canRxError n e k = ((v.setCan n (fun c => c.stepped k)).canBusError n e).canJudge n := by
  subst hv
  exact if_neg h
end Errors

theorem CanSt.stepped_rec {k : CanSteps} (h : k.tx = false) :
    (fun c : CanSt => c.stepped k) = fun c => { c with rec_ := min 255 (c.rec_ + (b2n k.one + 8 * k.eights)) } :=
  funext fun _ => if_neg (by rw [h]; exact Bool.false_ne_true)
theorem CanSt.stepped_tec {k : CanSteps} (h : k.tx = true) :
    (fun c : CanSt => c.stepped k) = fun c => { c with tec := min 511 (c.tec + (b2n k.one + 8 * k.eights)) } :=
  funext fun _ => if_pos h

section Pops
variable {s : State} {m : Master} {n q i : Nat}

theorem State.canRoom_none (h : (s.cn n).late = none) : s.canRoom n q = s := by
  rw [State.canRoom, h]
/-- A pop at the KCLK edge of an acceptance gives the frame its room (R405). -/
theorem State.canRoom_late {x : CanLate} (h : (s.cn n).late = some x) (hq : x.q = q)
    (hl : (vget (s.cn n).queues q).length < 64) :
    s.canRoom n q = (s.setCan n (fun c => { c with late := none })).canStore n x := by
  rw [State.canRoom, h]
  exact if_pos ⟨hq, hl⟩

/-- An open pop takes the head and holds it for the master (R407). -/
theorem State.canPop_open {r : CanRec} {v : State} (hp : s.popShut (canPopAddr n q 0) = none)
    (hr : (vget (s.cn n).queues q).headD (Vector.replicate 20 0) = r)
    (hv : (s.setCan n (fun c => { c with
      queues := vupd c.queues q List.tail, hold := vupd c.hold q (fun _ => some (m, r)) })).canLevel n q = v) :
    s.canPop m n q = (r[0], v.canRoom n q) := by
  subst hr hv
  rw [State.canPop, hp]
theorem State.canPop_shut {w : Word} (h : s.popShut (canPopAddr n q 0) = some w) : s.canPop m n q = (w, s) := by
  rw [State.canPop, h]

/-- The master that popped reads a held word; word 19 gives the hold up (R407). -/
theorem State.canPopWord_held {r : CanRec} (hp : s.popShut (canPopAddr n q i) = none) (hh : vget (s.cn n).hold q = some (m, r)) :
    s.canPopWord m n q i = (vget r i,
      if i = 19 then s.setCan n (fun c => { c with hold := vupd c.hold q (fun _ => none) }) else s) := by
  rw [State.canPopWord, hp, hh]
  exact if_pos rfl
theorem State.canPopWord_empty (hp : s.popShut (canPopAddr n q i) = none) (hh : vget (s.cn n).hold q = none) :
    s.canPopWord m n q i = (0, s.pairErr (R.CAN.base n)) := by
  rw [State.canPopWord, hp, hh]
theorem State.canPopWord_shut {w : Word} (h : s.popShut (canPopAddr n q i) = some w) : s.canPopWord m n q i = (w, s) := by
  rw [State.canPopWord, h]
end Pops

section Commands
variable {s u : State} {t : Time} (ht : s.tick t = u) (n : Fin 16)
include ht

theorem exec_canModeWrite (m : Master) (v : Word) (hw : u.Writable (R.CAN.base n)) :
    exec (.canModeWrite t m n v) s = .next (u.writeCanCtrl n v.toNat) := by
  subst ht
  exact congrArg Host.Outcome.next (State.onPage_writable hw)
theorem exec_canTimingWrite (m : Master) (d : Bool) (v : Word) (hw : u.Writable (R.CAN.base n)) :
    exec (.canTimingWrite t m n d v) s = .next (u.writeCanTiming n d v.toNat) := by
  subst ht
  exact congrArg Host.Outcome.next (State.onPage_writable hw)
theorem exec_canModeChange : exec (.canModeChange t n) s =
    .next (if u.canTxing n || u.bit (R.CAN.STAT n) 4 then u else u.canEnter n) := by subst ht; rfl

section Bus
variable (f : CanFrame) (sof arb : Time) (x : CanRxAt)

/-- A controller that takes part in the bus and does not transmit takes another node's frame (R397). -/
theorem exec_canRx_taken (hb : u.canOnBus n = true) (hx : u.canTxing n = false) :
    exec (.canRx t n f sof arb x) s = .next (u.canRx n f sof arb x) := by
  subst ht
  exact congrArg Host.Outcome.next (if_neg (by rw [hb, hx]; decide))
/-- One that transmits, or takes no part in the bus, takes nothing. -/
theorem exec_canRx_ignored (h : u.canOnBus n = false ∨ u.canTxing n = true) :
    exec (.canRx t n f sof arb x) s = .next u := by
  subst ht
  refine congrArg Host.Outcome.next (if_pos ?_)
  rcases h with h | h <;> simp [h]
theorem exec_canRxError (e : Fin 5) (k : CanSteps) (hb : u.canOnBus n = true) (hx : u.canTxing n = false) :
    exec (.canRxError t n e k) s = .next (u.canRxError n e k) := by
  subst ht
  exact congrArg Host.Outcome.next (if_neg (by rw [hb, hx]; decide))
end Bus

section Pops
variable (m : Master) (q : Fin 2)

theorem exec_rxqPop_head : exec (.rxqPop t m n q 0 false) s = .next ((u.canPop m n q).2.ret (u.canPop m n q).1) := by
  subst ht; rfl
theorem exec_rxqPop_word {i : Fin 20} (hi : i ≠ 0) :
    exec (.rxqPop t m n q i false) s = .next ((u.canPopWord m n q i).2.ret (u.canPopWord m n q i).1) := by
  have hone : (if i.val = 0 then u.canPop m n q else u.canPopWord m n q i) = u.canPopWord m n q i :=
    if_neg fun h => hi (Fin.ext h)
  rw [← hone]
  subst ht
  rfl
end Pops
end Commands

end Sys2Proof.Machine
end

section
/-! PROOFS. The obligation on the commands of mode, timing and reception of a CAN controller. -/

namespace Sys2Proof

open Sys2Proof.Machine

/-- Settles O50, by the cases of a mode, of a timing, of a frame or error on the bus, and of a pop. -/
theorem canReceiveCommandsComplete : Obligations.canReceiveCommandsComplete := by
  unfold Obligations.canReceiveCommandsComplete
  refine ⟨?modeWrite, ?modeChange, ?nbt, ?dbt, ?rx, ?rxError, ?pop, ?popLate, ?popWord, ?popEmpty, ?popShut⟩
  case modeWrite =>
    intro s u t m n v ht hw
    rw [exec_canModeWrite ht n m v hw]
    exact ⟨fun h => by rw [State.writeCanCtrl_idle h], fun h => by rw [State.writeCanCtrl_busy h]⟩
  case modeChange =>
    intro s u t n ht
    rw [exec_canModeChange ht]
    exact ⟨fun hx hf => by rw [hx, hf]; rfl, fun hx => by rw [hx]; rfl, fun hf => by rw [hf, Bool.or_true]; rfl⟩
  case nbt =>
    intro s u t m n v ht hw
    rw [exec_canTimingWrite ht n m false v hw]
    exact ⟨fun hc hok => by rw [State.writeCanTiming_nbt hc hok], fun hc => by rw [State.writeCanTiming_running false hc],
      fun hok => by rw [State.writeCanTiming_limits hok]⟩
  case dbt =>
    intro s u t m n v ht hw hc hok
    rw [exec_canTimingWrite ht n m true v hw, State.writeCanTiming_dbt hc hok]
  case rx =>
    intro s u t sof arb n f x ht
    exact ⟨exec_canRx_taken ht n f sof arb .start, exec_canRx_taken ht n f sof arb .resBit,
      exec_canRx_taken ht n f sof arb .accept, fun h => exec_canRx_ignored ht n f sof arb x (.inl h),
      fun h => exec_canRx_ignored ht n f sof arb x (.inr h)⟩
  case rxError =>
    intro s u v t n e k ht hb hx hv
    rw [exec_canRxError ht n e k hb hx]
    exact ⟨fun hm hk => by rw [State.canRxError_counted hv hm, CanSt.stepped_rec hk],
      fun hm hk => by rw [State.canRxError_counted hv hm, CanSt.stepped_tec hk],
      fun hm => by rw [State.canRxError_restricted hv hm]⟩
  case pop =>
    intro s u v t m n q r ht hp hr hv hl
    rw [exec_rxqPop_head ht, State.canPop_open hp hr hv, State.canRoom_none hl]
  case popLate =>
    intro s u v t m n q r x ht hp hr hv hl hq hlen
    rw [exec_rxqPop_head ht, State.canPop_open hp hr hv, State.canRoom_late hl hq hlen]
  case popWord =>
    intro s u t m n q i r ht hi hp hh
    rw [exec_rxqPop_word ht n m q hi, State.canPopWord_held hp hh]
    exact ⟨fun h => by rw [if_neg (Nat.ne_of_lt h)], fun h => by rw [if_pos (show i.val = 19 from congrArg Fin.val h)]⟩
  case popEmpty =>
    intro s u t m n q i ht hi hp hh
    rw [exec_rxqPop_word ht n m q hi, State.canPopWord_empty hp hh]
  case popShut =>
    intro s u t m n q i w ht hp
    by_cases hi : i = 0
    · subst hi
      rw [exec_rxqPop_head ht, State.canPop_shut hp]
    · rw [exec_rxqPop_word ht n m q hi, State.canPopWord_shut hp]

end Sys2Proof
end

section
/-! PROOFS. The commands of transmission and bus-off of a CAN controller, case by case (R408 to R413). -/

namespace Sys2Proof.Machine

/-- What an entry is in a table changes nothing for a key above it, in every table. -/
theorem tget_tput_below {α} (d : α) (l : List (Nat × α)) {k j : Nat} (h : k < j) (v : Option α) :
    tget d (tput l k v) j = tget d l j := by
  have hne : k ≠ j := Nat.ne_of_lt h
  have hlt : ¬ j < k := Nat.lt_asymm h
  induction l with
  | nil => cases v <;> simp [tput, tget, hne]
  | cons p r ih =>
    obtain ⟨a, w⟩ := p
    unfold tput
    split
    case isTrue ha =>
      subst ha
      cases v <;> simp [tget, hne, hlt]
    case isFalse ha =>
      split
      case isTrue => cases v <;> simp [tget, hne, hlt]
      case isFalse => rw [tget, tget, ih]

/-- A register reads as before after a write below it, in every table. -/
theorem State.rg_putFld_below {a b : Nat} (h : a < b) (s : State) (hi lo v : Nat) : (s.putFld a hi lo v).rg b = s.rg b :=
  tget_tput_below _ _ h _

/-- A register reads as before after a field with a bit that the reset value lacks is set in another one, in every table. -/
theorem State.rg_putFld_of_bit {a b hi lo v i : Nat} (hb : b ≠ a) (hh : hi < 32) (hlo : lo ≤ i) (hhi : i ≤ hi)
    (hv : v.testBit (i - lo) = true) (hr : wbit (resetWord a) i = false) (s : State) :
    (s.putFld a hi lo v).rg b = s.rg b := by
  have hw : wbit (wput (s.rg a) hi lo v) i = true := by
    rw [wbit_wput _ _ _ _ _ (Nat.le_trans hlo hhi) hh, if_pos ⟨hlo, hhi⟩, hv]
  exact (State.rg_setRg_of_ne (ne_of_wbit hw hr) s b).trans (if_neg hb)

section Select
variable {s : State} {n b : Nat}

/-- The buffer that wins arbitration is one of the 32 (R409). -/
theorem State.canWinner_lt (h : s.canWinner n = some b) : b < 32 := by
  have hall : ∀ x, s.canWinner n = some x → x < 32 := by
    refine List.foldlRecOn (motive := fun w => ∀ x, w = some x → x < 32) _ _ (fun x hx => nomatch hx) fun w hw a ha => ?_
    have ha32 : a < 32 := List.mem_range.1 ha
    have hsome : ∀ x, some a = some x → x < 32 := fun x hx => Option.some.inj hx ▸ ha32
    split
    case isTrue => exact hw
    case isFalse =>
      split
      case h_1 => exact hsome
      case h_2 =>
        split
        case isTrue => exact hsome
        case isFalse => exact hw
  exact hall b h

/-- What a selection writes leaves the timing of the data phase, in every table. -/
theorem State.dbt_select (s : State) (n : Fin 16) (hb : b < 32) :
    ((((s.txbSet n b 2).putFld (R.CAN.STAT n) 12 8 b).putBit (R.CAN.STAT n) 13 true).putBit (R.CAN.STAT n) 4 true).rg
      (R.CAN.DBT n) = s.rg (R.CAN.DBT n) := by
  have hstat : R.CAN.STAT n < R.CAN.DBT n := Nat.add_lt_add_left (by decide) _
  have hpend : R.CAN.DBT n ≠ R.CAN.TX_PEND n := Nat.ne_of_lt (Nat.add_lt_add_left (by decide) _)
  have hp : txb n b < 512 := by
    have := n.isLt
    unfold txb
    omega
  have hpendReset : ∀ n : Fin 16, resetWord (R.CAN.TX_PEND n) = 0 := by decide
  have hbufReset : ∀ p : Fin 512, wbit (resetWord (R.TXB.STAT p)) 1 = false := by decide +kernel
  have hbuf : ∀ (p : Fin 512) (n : Fin 16), R.CAN.DBT n ≠ R.TXB.STAT p := by decide +kernel
  rw [State.putBit, State.rg_putFld_below hstat, State.putBit, State.rg_putFld_below hstat, State.rg_putFld_below hstat,
    State.txbSet, State.putBit,
    State.rg_putFld_of_bit hpend hb (Nat.le_refl b) (Nat.le_refl b) (by rw [Nat.sub_self]; rfl)
      (by rw [hpendReset n]; exact Nat.zero_testBit b),
    State.rg_putFld_of_bit (i := 1) (hbuf ⟨_, hp⟩ n) (by decide) (by decide) (by decide) (by decide) (hbufReset ⟨_, hp⟩)]

/-- The winner is in transmission; its frame is on the pin in NORMAL, and own bits are compared by the timing of the data phase
(R399, R400, R409). -/
theorem State.canSelect_winner {n : Fin 16} (hs : s.canMayStart n = true) (hw : s.canWinner n = some b) : s.canSelect n =
    ((((s.txbSet n b 2).putFld (R.CAN.STAT n) 12 8 b).putBit (R.CAN.STAT n) 13 true).putBit (R.CAN.STAT n) 4 true).setCan n
      (fun c => { c with
        drive := if s.canMode n = 1 then .frame b else .recessive
        ownSample := (s.fld (R.CAN.DBT n) 4 0 + 1) * (2 + s.fld (R.CAN.DBT n) 9 5) }) := by
  rw [State.canSelect, if_neg (by rw [hs]; decide), hw]
  rfl
/-- With nothing pending, or where the controller may not start, nothing is selected (R409). -/
theorem State.canSelect_none (h : s.canMayStart n = false ∨ s.canWinner n = none) : s.canSelect n = s := by
  rcases h with h | h
  · exact if_pos (by rw [h]; rfl)
  · rw [State.canSelect, h]
    exact ite_self s
end Select

section Attempts
variable {s v w : State} {n b : Nat}

/-- An attempt of buffer `b` has failed with an error: what it leaves (R410, R412). -/
def State.txFailed (s : State) (n b type : Nat) (exempt : Bool) (eights : Nat) : State :=
  let e := s.fld (R.TXB.STAT (txb n b)) 19 16 + 1
  ((((((s.putFld (R.TXB.STAT (txb n b)) 19 16 (min 15 e)).putBit (R.CAN.STAT n) 4 false).setCan n (fun c =>
    { c with tec := min 511 (c.tec + (if exempt then 0 else 8) + 8 * eights) })).canBusError n type).txbRetry n b 3 2
      (decide (s.fld (R.CAN.CTRL n) 19 16 < e)))).canJudge n

section Live
variable (hx : s.canTxing n = true) (hr : s.canRuns n = true)
include hx hr

/-- An attempt in progress on a controller that runs is one that ends. -/
theorem State.canAttemptEnd_live : ¬(!s.canTxing n || !s.canRuns n) = true := by
  rw [hx, hr]
  decide

section Buffer
variable (hb : s.fld (R.CAN.STAT n) 12 8 = b)
include hb

/-- Arbitration lost (R410). -/
theorem State.canAttemptEnd_lost {k : Nat} (hv : (s.putBit (R.CAN.STAT n) 13 false).canDrive n .recessive = v)
    (hk : min 255 (v.fld (R.TXB.STAT (txb n b)) 15 8 + 1) = k) : s.canAttemptEnd n .lost none =
      (v.putFld (R.TXB.STAT (txb n b)) 15 8 k).txbRetry n b 2 1
        (decide (v.fld (R.CAN.CTRL n) 15 8 ≠ 0 ∧ v.fld (R.CAN.CTRL n) 15 8 ≤ k)) := by
  have hlive := State.canAttemptEnd_live hx hr
  subst hb hv hk
  exact if_neg hlive

/-- Sent without an inverted CRC bit; in LOOPBACK the frame is received as well (R400, R410, R412). -/
theorem State.canAttemptEnd_sent {sof arb : Time} (hi : s.bit (R.PG_ERRINJ (R.CAN.base n)) 16 = false)
    (hv : ((((((s.putBit (R.CAN.STAT n) 13 false).canDrive n .recessive).putBit (R.PG_ERRINJ (R.CAN.base n)) 16 false).setRg64
      (R.TXB.STAMP (txb n b)) (sof / 16 * 16)).txbEnd n b 1).putBit (R.CAN.STAT n) 4 false) = v)
    (hw : (((v.canPost n 0x02 (sof / 16 % 2 ^ 32 + b * 2 ^ 32)).irq (R.CAN.base n) 8).setCan n
      (fun c => { c with abortReq := 0, tec := c.tec - 1 })).canJudge n = w) :
    s.canAttemptEnd n (.sent sof arb) none = if s.canMode n = 3 then w.canAccept n (s.txbFrame n b) sof arb else w := by
  have hlive := State.canAttemptEnd_live hx hr
  subst hb hv hw
  exact (if_neg hlive).trans (if_neg (by rw [hi]; exact Bool.false_ne_true))

/-- Sent with an inverted CRC bit: it ends in an error (R416). -/
theorem State.canAttemptEnd_inverted {sof arb : Time} (hi : s.bit (R.PG_ERRINJ (R.CAN.base n)) 16 = true) :
    s.canAttemptEnd n (.sent sof arb) none =
      ((((s.putBit (R.CAN.STAT n) 13 false).canDrive n .recessive).putBit (R.PG_ERRINJ (R.CAN.base n)) 16 false).canDrive n
        (s.canFlag n)).txFailed n b (if s.canMode n = 3 then 3 else 4) false 0 := by
  have hlive := State.canAttemptEnd_live hx hr
  subst hb
  exact (if_neg hlive).trans (if_pos hi)

/-- An error; `crc` says that the inverted CRC bit was its cause (R410, R412, R416). -/
theorem State.canAttemptEnd_error (k : Fin 5) (exempt : Bool) (eights : Nat) (crc : Bool) :
    s.canAttemptEnd n (.error k exempt eights crc) none =
      (if crc then ((s.putBit (R.CAN.STAT n) 13 false).canDrive n (s.canFlag n)).putBit (R.PG_ERRINJ (R.CAN.base n)) 16 false
        else (s.putBit (R.CAN.STAT n) 13 false).canDrive n (s.canFlag n)).txFailed n b k exempt eights := by
  have hlive := State.canAttemptEnd_live hx hr
  subst hb
  exact if_neg hlive
end Buffer
end Live
end Attempts

section BusOff
variable {s : State} {n : Nat}

theorem State.boffRec_busOff (h : s.canErr n = 2) (hr : s.canRecovering n = false) : s.boffRec n = s.canRecover n := if_pos ⟨h, hr⟩
theorem State.boffRec_active (h : s.canErr n ≠ 2) : s.boffRec n = s.cmdRefused (R.CAN.base n) := if_neg fun hx => h hx.1
theorem State.boffRec_recovering (h : s.canRecovering n = true) : s.boffRec n = s.cmdRefused (R.CAN.base n) :=
  if_neg fun hx => Bool.false_ne_true (hx.2.symm.trans h)

/-- Eleven recessive bits count in recovery and end a wait (R401, R402, R413). -/
theorem State.recessive_runs (h : s.canRuns n = true) : s.recessive n =
    (if s.canErr n = 2 ∧ s.canRecovering n then s.putFld (R.CAN.STAT n) 23 16 (min 128 (s.fld (R.CAN.STAT n) 23 16 + 1))
      else s).setCan n (fun c => { c with wait11 := false }) := if_neg (by rw [h]; decide)

/-- Recovery ends with the 128th sequence (R413). -/
theorem State.boffDone_counted (h : s.canErr n = 2) (hr : s.canRecovering n = true) (hc : s.fld (R.CAN.STAT n) 23 16 = 128) :
    s.boffDone n = (((((s.setCan n (fun c => { c with tec := 0, rec_ := 0 })).putBit (R.CAN.STAT n) 5 false).canShow n).canSetErr n
      0).canPost n 0x07 0).irq (R.CAN.base n) 0x40 := if_pos ⟨h, hr, hc⟩
theorem State.boffDone_early (h : s.fld (R.CAN.STAT n) 23 16 ≠ 128) : s.boffDone n = s := if_neg fun hx => h hx.2.2
end BusOff

section Commands
variable {s u : State} {t : Time} (ht : s.tick t = u) (n : Fin 16)
include ht

theorem exec_canTxSelect : exec (.canTxSelect t n) s = .next (u.canSelect n) := by subst ht; rfl
theorem exec_canTxAttemptEnd (res : CanEnd) : exec (.canTxAttemptEnd t n res none) s = .next (u.canAttemptEnd n res none) := by
  subst ht; rfl
theorem exec_boffRecovered : exec (.boffRecovered t n) s = .next (u.boffDone n) := by subst ht; rfl
theorem exec_recessiveSequence : exec (.recessiveSequence t n false) s = .next (u.recessive n) := by subst ht; rfl
/-- A sequence after a recessive res bit of another node's frame: the res bit is judged first (R402). -/
theorem exec_recessiveSequence_res (hb : u.canOnBus n = true) (hx : u.canTxing n = false) :
    exec (.recessiveSequence t n true) s = .next ((u.canRes n).recessive n) := by
  subst ht
  exact congrArg (fun x : State => Host.Outcome.next (x.recessive n)) (if_pos (by rw [hb, hx]; rfl))

section Page
variable (m : Master) (hw : u.Writable (R.CAN.base n))
include hw

theorem exec_txReq (v : Word) : exec (.txReq t m n v) s = .next (u.txReq n v.toNat) := by
  subst ht
  exact congrArg Host.Outcome.next (State.onPage_writable hw)
theorem exec_txAbort (v : Word) : exec (.txAbort t m n v) s = .next (u.txAbort n v.toNat) := by
  subst ht
  exact congrArg Host.Outcome.next (State.onPage_writable hw)
theorem exec_boffRec : exec (.boffRec t m n) s = .next (u.boffRec n) := by
  subst ht
  exact congrArg Host.Outcome.next (State.onPage_writable hw)
end Page
end Commands

end Sys2Proof.Machine
end

section
/-! PROOFS. The obligation on the commands of transmission and bus-off of a CAN controller. -/

namespace Sys2Proof

open Sys2Proof.Machine

/-- Settles O51, by the cases of a selection, of the end of an attempt and of bus-off; a selection leaves the timing that it
compares own bits by. -/
theorem canTransmitCommandsComplete : Obligations.canTransmitCommandsComplete := by
  unfold Obligations.canTransmitCommandsComplete
  refine ⟨fun s u t m n v ht hw => exec_txReq ht n m hw v, fun s u t m n v ht hw => exec_txAbort ht n m hw v, ?select, ?noSelect,
    ?lost, ?sent, ?failed, ?boffRec, ?sequence, ?resSequence, ?recovered⟩
  case select =>
    intro s u t n b ht hs hw
    have hdbt := u.dbt_select n (State.canWinner_lt hw)
    rw [exec_canTxSelect ht, State.canSelect_winner hs hw, State.fld, State.fld, State.fld, State.fld, hdbt]
  case noSelect =>
    intro s u t n ht h
    rw [exec_canTxSelect ht, State.canSelect_none h]
  case lost =>
    intro s u v t n b k ht hx hr hb hv hk
    rw [exec_canTxAttemptEnd ht, State.canAttemptEnd_lost hx hr hb hv hk]
  case sent =>
    intro s u v w t sof arb n b ht hx hr hb hi hv hw
    rw [exec_canTxAttemptEnd ht, State.canAttemptEnd_sent hx hr hb hi hv hw]
    exact ⟨fun h => by rw [if_neg h], fun h => by rw [if_pos h]⟩
  case failed =>
    intro s u v t sof arb n b e eights type k exempt crc x ht hx hr hb hend he
    have hfail : u.canAttemptEnd n x none = v.txFailed n b type exempt eights := by
      rcases hend with ⟨rfl, rfl, rfl⟩ | ⟨rfl, hi, rfl, rfl, rfl, rfl⟩
      · exact State.canAttemptEnd_error hx hr hb k exempt eights crc
      · exact State.canAttemptEnd_inverted hx hr hb hi
    rw [exec_canTxAttemptEnd ht, hfail]
    subst he
    rfl
  case boffRec =>
    intro s u t m n ht hw
    rw [exec_boffRec ht n m hw]
    exact ⟨fun h hr => by rw [State.boffRec_busOff h hr], fun h => by rw [State.boffRec_active h],
      fun h => by rw [State.boffRec_recovering h]⟩
  case sequence =>
    intro s u t n ht hr
    rw [exec_recessiveSequence ht, State.recessive_runs hr]
    exact ⟨fun h hrec => by rw [if_pos ⟨h, hrec⟩], fun h => by rw [if_neg fun hx => h hx.1]⟩
  case resSequence => exact fun s u t n ht hb hx => exec_recessiveSequence_res ht n hb hx
  case recovered =>
    intro s u t n ht
    rw [exec_boffRecovered ht]
    exact ⟨fun h hr hc => by rw [State.boffDone_counted h hr hc], fun h => by rw [State.boffDone_early h]⟩

end Sys2Proof
end

section
/-! PROOFS. The commands of the links, of reception and of Fantail, case by case (R421 to R429, R445 to R448). -/

namespace Sys2Proof.Machine

section Links
variable {s w v : State} {n : Nat} {slow sp : Bool} (hsp : (if s.bit (R.ETH.CTRL n) 1 then slow else s.bit (R.ETH.CTRL n) 0) = sp)
  (hw : (if s.selfBad (n / 2) then s.badNow (n / 2) else s) = w)
  (hv : (w.putBit (R.ETH.STAT n) 0 true).putBit (R.ETH.STAT n) 1 sp = v)
include hsp hw hv

/-- A link that comes up and reads up: `down` restarts, and LINK_UP is posted where the port was down (R445, R446). -/
theorem State.linkRise_up (h : v.linkUp n = true) : s.linkRise n slow =
    if s.linkUp n then v.setRed (fun x => { x with down := vupd x.down n (fun _ => 0) })
    else ((v.setRed (fun x => { x with down := vupd x.down n (fun _ => 0) })).ethPost n 0x01 (b2n sp)).irq (R.ETH.base n) 1 := by
  subst hsp hw hv
  have hread : ∀ x : State, (x.setRed (fun x => { x with down := vupd x.down n (fun _ => 0) })).linkUp n = x.linkUp n := fun _ => rfl
  simp only [State.linkRise, h, hread, if_true, Bool.not_true, Bool.or_false]
/-- While an injected loss is in force the link still reads down (R448). -/
theorem State.linkRise_forced (h : v.linkUp n = false) : s.linkRise n slow = v := by
  subst hsp hw hv
  simp only [State.linkRise, h, Bool.false_eq_true, if_false, Bool.not_false, Bool.or_true, if_true]
end Links

section Reception
variable {s : State} {n : Nat} {b : List Byte} {ok : Bool} {stamp : Time} {buf : DWord}

theorem State.ethReceive_down (h : s.linkUp n = false) : s.ethReceive n b ok stamp buf = s := if_pos (by rw [h]; rfl)
/-- On a link that is up a frame goes through the bridge, and to the internal port where the bridge says so (R417, R421). -/
theorem State.ethReceive_up (h : s.linkUp n = true) : s.ethReceive n b ok stamp buf =
    if (s.bridgeRx n b ok).2 then (s.bridgeRx n b ok).1.ethDeliver n b stamp buf else (s.bridgeRx n b ok).1 :=
  if_neg (by rw [h]; decide)
end Reception

section Domains
variable {s : State} {r : Nat}

theorem State.syncOriginate_slave (h : s.gm r = false) : s.syncOriginate r = s := if_pos (.inl h)
/-- A grandmaster's first Sync, with no master port to send it on (R426, R427, assumption log 107). -/
theorem State.syncOriginate_first (h : s.gm r = true) (hl : (s.raceOf r).origLast = none) (h0 : s.ptpRole (2 * r) ≠ 1)
    (h1 : s.ptpRole (2 * r + 1) ≠ 1) : s.syncOriginate r =
      (s.setRace r (fun x => { x with origLast := some s.now, origSeq := (x.origSeq + 1) % 2 ^ 16 })).domainSync r 0 := by
  have hrole : ∀ (f : RaceSt → RaceSt) (n : Nat), (s.setRace r f).ptpRole n = s.ptpRole n := fun _ _ => rfl
  simp only [State.syncOriginate, h, hl, List.foldl_cons, List.foldl_nil, hrole, h0, h1, false_and, if_false, or_false,
    Bool.true_eq_false]

theorem State.domainLost_early (h : s.lossDue r = false) : s.domainLost r = s := if_pos (by rw [h]; rfl)
/-- A due loss of the clock that is not selected, with the other domain tracked and redundancy off (R428). -/
theorem State.domainLost_other {v : State} (h : s.lossDue r = true) (hsel : s.sel ≠ (r == 1))
    (hv : (((s.putBit (R.PTP.FT_STAT r) 0 false).postNow srcTime 0x20 r).irq (R.PTP.base r) 1).setRace r
      (fun x => { x with lost := true }) = v) (ho : (v.tracked (1 - r) && !v.lossDue (1 - r)) = true) (hr : v.redEn = false) :
    s.domainLost r = v := by
  subst hv
  simp only [State.domainLost, h, ho, hsel, hr, Bool.not_true, Bool.false_eq_true, false_and, if_false, if_true]

/-- SELECT after the losses that are due (R429). -/
theorem State.ftSelect_eq {v : State} (hv : (s.domainLost 0).domainLost 1 = v) : s.ftSelect r =
    if v.tracked r then v.selectClock (r == 1) (edgeOf (ceilEdge v.now)) else v.cmdRefused (R.PTP.base r) := by
  subst hv
  rfl
end Domains

section Commands
variable {s u : State} {t : Time} (ht : s.tick t = u)
include ht

section Ports
variable (n : Fin 4)

theorem exec_linkUp (slow : Bool) : exec (.linkUp t n slow) s = .next (u.linkRise n slow) := by subst ht; rfl
theorem exec_linkDown : exec (.linkDown t n) s = .next (if u.linkUp n then
    ((u.putBit (R.ETH.STAT n) 0 false).ethPost n 0x02 0).irq (R.ETH.base n) 1 else u.putBit (R.ETH.STAT n) 0 false) := by
  subst ht; rfl
theorem exec_ethFrameReceive (bytes : List Byte) (ok : Bool) (stamp : Time) (buf : DWord) :
    exec (.ethFrameReceive t n bytes ok stamp buf) s = .next (u.ethReceive n bytes ok stamp buf) := by subst ht; rfl
theorem exec_syncReceived (bytes : List Byte) (stamp : Time) (buf : DWord) : exec (.syncReceived t n bytes stamp buf) s =
    .next (if isPtp bytes 0 then u.ethReceive n bytes true stamp buf else u) := by subst ht; rfl
end Ports

section Races
variable (r : Fin 2)

theorem exec_syncOriginate : exec (.syncOriginate t r) s = .next (u.syncOriginate r) := by subst ht; rfl
theorem exec_domainLost : exec (.domainLost t r) s = .next (u.domainLost r) := by subst ht; rfl
theorem exec_ftSelect (m : Master) (hw : u.Writable (R.PTP.base r)) : exec (.ftSelect t m r) s = .next (u.ftSelect r) := by
  subst ht
  exact congrArg Host.Outcome.next (State.onPage_writable hw)
theorem exec_fdbFlush (m : Master) (hw : u.Writable (R.PTP.base r)) : exec (.fdbFlush t m r) s =
    .next (u.setRace r (fun x => { x with fdb := [] })) := by
  subst ht
  exact congrArg Host.Outcome.next (State.onPage_writable hw)
end Races
end Commands

end Sys2Proof.Machine
end

section
/-! PROOFS. The obligation on the commands of the links, of reception and of Fantail. -/

namespace Sys2Proof

open Sys2Proof.Machine

/-- Settles O52, by the cases of a link, of a frame and of a domain. -/
theorem etherCommandsComplete : Obligations.etherCommandsComplete := by
  unfold Obligations.etherCommandsComplete
  refine ⟨?up, ?forced, ?down, ?receive, ?sync, ?originate, ?early, ?lost, ?select,
    fun s u t m r ht hw => exec_fdbFlush ht r m hw⟩
  case up =>
    intro s u w v t n slow sp ht hsp hw hv h
    rw [exec_linkUp ht, State.linkRise_up hsp hw hv h]
    exact ⟨fun hu => by rw [hu]; rfl, fun hu => by rw [hu]; rfl⟩
  case forced =>
    intro s u w v t n slow sp ht hsp hw hv h
    rw [exec_linkUp ht, State.linkRise_forced hsp hw hv h]
  case down =>
    intro s u t n ht
    rw [exec_linkDown ht]
    exact ⟨fun hu => by rw [hu]; rfl, fun hu => by rw [hu]; rfl⟩
  case receive =>
    intro s u t stamp n bytes ok buf ht
    rw [exec_ethFrameReceive ht]
    exact ⟨fun hu => by rw [State.ethReceive_down hu], fun hu hb => by rw [State.ethReceive_up hu, hb]; rfl,
      fun hu hb => by rw [State.ethReceive_up hu, hb]; rfl⟩
  case sync =>
    intro s u t stamp n bytes buf ht
    rw [exec_syncReceived ht]
    exact ⟨fun h => by rw [h]; rfl, fun h => by rw [h]; rfl⟩
  case originate =>
    intro s u t r ht
    rw [exec_syncOriginate ht]
    exact ⟨fun h => by rw [State.syncOriginate_slave h],
      fun h hl h0 h1 => by rw [State.syncOriginate_first h hl h0 h1]⟩
  case early =>
    intro s u t r ht h
    rw [exec_domainLost ht, State.domainLost_early h]
  case lost =>
    intro s u v t r ht h hsel hv ho hr
    have hother : ∀ r : Fin 2, (r == 0) ≠ (r.val == 1) := by decide
    rw [exec_domainLost ht, State.domainLost_other h (by rw [hsel]; exact hother r) hv ho hr]
  case select =>
    intro s u v t m r ht hw hv
    rw [exec_ftSelect ht r m hw, State.ftSelect_eq hv]
    exact ⟨fun h => by rw [h]; rfl, fun h => by rw [h]; rfl⟩

end Sys2Proof
end

section
/-! PROOFS. The commands of the race redundancy, case by case (R431 to R440). -/

namespace Sys2Proof.Machine

section Cycles
variable {s : State} {k : Nat}
  (hk : (s.mt.fdiv (2 ^ 32)).toNat / nz (s.fld (R.PTP.RED_CYCLE 0) 27 0) * nz (s.fld (R.PTP.RED_CYCLE 0) 27 0) = k)
include hk

/-- The cycle instant that machine time has reached (R431, R432, R437, R441). -/
theorem State.redCycle_reached (h : s.red.next ≤ k) : s.redCycle =
    ((((s.setRed (fun x => { x with next := k + 1 })).endCycle).redWatch).redSwitches).abfTransmit := by
  subst hk
  exact if_neg (Nat.not_lt.2 h)
theorem State.redCycle_early (h : k < s.red.next) : s.redCycle = s := by
  subst hk
  exact if_pos h
end Cycles

section Skew
variable {s : State}

theorem State.redSkew_none
    (h : s.red.copies.filter (fun c => decide (c.race < 2) && decide (c.at_ + ns (s.fld (R.PTP.RED_SKEW 0) 19 0) ≤ s.now)) = []) :
    s.redSkew = s := by
  simp only [State.redSkew, h, List.isEmpty_nil, if_true]
/-- The only copy is overdue: its race is not judged, the other one is (R434). -/
theorem State.redSkew_one {c : Copy} (hc : s.red.copies = [c]) (hr : c.race < 2)
    (hd : c.at_ + ns (s.fld (R.PTP.RED_SKEW 0) 19 0) ≤ s.now) : s.redSkew =
      ((s.setRed (fun x => { x with copies := [{ c with race := c.race + 2 }] })).redJudge c.num (c.race == 1)
        (c.race == 0)).redFinal := by
  have hout : [c].filter (fun c => decide (c.race < 2) && decide (c.at_ + ns (s.fld (R.PTP.RED_SKEW 0) 19 0) ≤ s.now)) = [c] :=
    List.filter_eq_self.2 fun x hx => by
      obtain rfl := List.mem_singleton.1 hx
      rw [decide_eq_true hr, decide_eq_true hd]
      rfl
  have hrest : [c].filter (fun x => !([c].contains x)) = [] := by simp
  simp only [State.redSkew, hc, hout, hrest, List.isEmpty_cons, Bool.false_eq_true, if_false, List.filter_nil, List.map_cons,
    List.map_nil, List.reverse_singleton, List.append_nil, List.nil_append, List.foldl_cons, List.foldl_nil]
end Skew

section Recovery
variable {s : State} {r : Nat}

theorem State.raceOk_well (h : s.raceBad r = false) : s.raceOk r = s := if_pos (by rw [h]; rfl)
/-- A condition that stands restarts the hold-off (R436). -/
theorem State.raceOk_standing (h : s.raceBad r = true) (hb : s.selfBad r = true) : s.raceOk r = s.badNow r :=
  (if_neg (by rw [h]; decide)).trans (if_pos hb)
/-- Race B is well again after its hold-off, Race A being well (R436, R439). -/
theorem State.raceOk_held_off (h : s.raceBad 1 = true) (hb : s.selfBad 1 = false) (h0 : s.raceBad 0 = false)
    (hd : s.red.badB + ms (100 * nz (s.fld (R.PTP.RED_CTRL 0) 31 16)) ≤ s.now) : s.raceOk 1 =
      (((s.putBit (R.PTP.RED_STAT 0) 2 false).postNow 0x0D0 0x12 1).irq (R.PTP.base 0) 2).setRed
        (fun x => { x with held := x.held && s.active != 1 }) :=
  (if_neg (by rw [h]; decide)).trans ((if_neg (by rw [hb]; exact Bool.false_ne_true)).trans
    ((if_neg (Nat.not_lt.2 hd)).trans (if_neg (by rw [h0]; exact Bool.false_ne_true))))
end Recovery

section Control
variable {s : State} {m : Master} {v : Nat}

theorem State.writeRed_detect (h : bitsN v 2 1 = 3) : s.writeRed m v = s.cfgRefused (R.PTP.base 0) := if_pos (.inl h)
/-- Double forwarding or a drill refuses every write but one that aborts a drill (R438, R440). -/
theorem State.writeRed_busy (h : s.doubled = true ∨ s.drilling = true) (ha : (s.drilling && !bitN v 0) = false) :
    s.writeRed m v = s.cfgRefused (R.PTP.base 0) := if_pos (.inr ⟨h, by rw [ha]; rfl⟩)
/-- Otherwise, with EN = 1 and the preferred race as it was, the register takes the value (R438). -/
theorem State.writeRed_taken (hv : bitsN v 2 1 ≠ 3) (hd : s.doubled = false) (hr : s.drilling = false) (hon : bitN v 0 = true)
    (hp : bitN v 3 = s.bit (R.PTP.RED_CTRL 0) 3) : s.writeRed m v = s.writeReg m (R.PTP.base 0) (R.PTP.RED_CTRL 0) v := by
  simp only [State.writeRed, hv, hd, hr, hon, hp, Bool.false_and, Bool.false_eq_true, or_self, false_and, if_false, ne_eq,
    not_true_eq_false, if_true]

/-- A drill that may begin; a second one keeps the first one's instant (R440, assumption log 110). -/
theorem State.drill_accepted (hen : s.redEn = true) (hr : s.drilling = false) (hd : s.doubled = false)
    (hb : s.raceBad (1 - s.active) = false) : s.drill = s.setRed (fun x => { x with drillAt := some (x.drillAt.getD s.now) }) :=
  if_neg (by simp [hen, hr, hd, hb])
theorem State.drill_refused (h : s.redEn = false ∨ s.drilling = true ∨ s.doubled = true ∨ s.raceBad (1 - s.active) = true) :
    s.drill = s.cmdRefused (R.PTP.base 0) := if_pos (h.imp_left fun h => by rw [h]; rfl)
end Control

section Commands
variable {s u : State} {t : Time} (ht : s.tick t = u)
include ht

theorem exec_redCycleInstant : exec (.redCycleInstant t) s = .next u.redCycle := by subst ht; rfl
theorem exec_redSkewExpiry : exec (.redSkewExpiry t) s = .next u.redSkew := by subst ht; rfl
theorem exec_raceOk (r : Fin 2) : exec (.raceOk t r) s = .next (u.raceOk r) := by subst ht; rfl

section Page
variable (m : Master) (hw : u.Writable (R.PTP.base 0))
include hw

theorem exec_redCtrlWrite (v : Word) : exec (.redCtrlWrite t m v) s = .next (u.writeRed m v.toNat) := by
  subst ht
  exact congrArg Host.Outcome.next (State.onPage_writable hw)
theorem exec_drill : exec (.drill t m) s = .next u.drill := by
  subst ht
  exact congrArg Host.Outcome.next (State.onPage_writable hw)
end Page
end Commands

end Sys2Proof.Machine
end

section
/-! PROOFS. The obligation on the commands of the race redundancy. -/

namespace Sys2Proof

open Sys2Proof.Machine

/-- Settles O53, by the cases of a cycle, of a copy, of a race that failed and of a write of `RED_CTRL` or `RED_CMD`. -/
theorem redundancyCommandsComplete : Obligations.redundancyCommandsComplete := by
  unfold Obligations.redundancyCommandsComplete
  refine ⟨?cycle, ?noSkew, ?skew, ?raceOk, ?heldOff, ?ctrlRefused, ?ctrl, ?drill⟩
  case cycle =>
    intro s u t k ht hk
    rw [exec_redCycleInstant ht]
    exact ⟨fun h => by rw [State.redCycle_reached hk h], fun h => by rw [State.redCycle_early hk h]⟩
  case noSkew =>
    intro s u t ht h
    rw [exec_redSkewExpiry ht, State.redSkew_none h]
  case skew =>
    intro s u t c ht hc hr hd
    rw [exec_redSkewExpiry ht, State.redSkew_one hc hr hd]
  case raceOk =>
    intro s u t r ht
    rw [exec_raceOk ht]
    exact ⟨fun h => by rw [State.raceOk_well h], fun h hb => by rw [State.raceOk_standing h hb]⟩
  case heldOff =>
    intro s u t ht h hb h0 hd _
    rw [exec_raceOk ht]
    exact congrArg Host.Outcome.next (State.raceOk_held_off h hb h0 hd)
  case ctrlRefused =>
    intro s u t m v ht hw
    rw [exec_redCtrlWrite ht m hw]
    exact ⟨fun h => by rw [State.writeRed_detect h],
      fun hd hr => by rw [State.writeRed_busy (.inl hd) (by rw [hr]; rfl)],
      fun hr hon => by rw [State.writeRed_busy (.inr hr) (by rw [hon]; exact Bool.and_false _)]⟩
  case ctrl =>
    intro s u t m v ht hw hv hd hr hon hp
    rw [exec_redCtrlWrite ht m hw, State.writeRed_taken hv hd hr hon hp]
  case drill =>
    intro s u t m ht hw
    rw [exec_drill ht m hw]
    exact ⟨fun hen hr hd hb => by rw [State.drill_accepted hen hr hd hb], fun h => by rw [State.drill_refused (.inl h)],
      fun h => by rw [State.drill_refused (.inr (.inl h))], fun h => by rw [State.drill_refused (.inr (.inr (.inl h)))],
      fun h => by rw [State.drill_refused (.inr (.inr (.inr h)))]⟩

end Sys2Proof
end

section
/-! PROOFS. The commands of egress, of gate lists and of peer delay, case by case (R418 to R420, R423, R424). -/

namespace Sys2Proof.Machine

section Egress
variable {s : State} {n : Nat}

/-- What EGRESS_SELECT of port `n` does at one queue, with the frame time counted from `s`; `egressSelect_eq` ties it to the
model. -/
def State.egressTry (s : State) (n : Nat) (a : State × Bool) (q : Nat) : State × Bool :=
  if a.2 then a else
  match vget (a.1.port n).queues q with
  | [] => a
  | f :: rest =>
    match a.1.gateOpen n q with
    | none => a
    | some o =>
      if a.1.fits n f o then
        ((a.1.setPort n (fun p => { p with
          queues := vupd p.queues q (fun _ => rest), sent := some (a.1.sendForm n f),
          busyUntil := s.now + s.frameTime n f.bytes })).count (R.ETH.TX_FRAMES n) 31 0 1, true)
      else if f.late then a
      else ((a.1.setPort n (fun p => { p with queues := vupd p.queues q (fun _ => { f with late := true } :: rest) })).count
        (R.ETH.GCL_OVERRUN n) 15 0 1, false)

/-- A frame that was sent ends the search. -/
theorem State.egressTry_done (s x : State) (n q : Nat) : s.egressTry n (x, true) q = (x, true) := rfl
/-- The head of an open queue that fits its gate is sent (R418). -/
theorem State.egressTry_sends {q : Nat} {f : EgFrame} {rest : List EgFrame} (hq : vget (s.port n).queues q = f :: rest)
    (hg : s.gateOpen n q = some none) : s.egressTry n (s, false) q =
      ((s.setPort n (fun p => { p with
        queues := vupd p.queues q (fun _ => rest), sent := some (s.sendForm n f),
        busyUntil := s.now + s.frameTime n f.bytes })).count (R.ETH.TX_FRAMES n) 31 0 1, true) := by
  simp only [State.egressTry, hq, hg, Bool.false_eq_true, if_false]
  rfl

theorem State.egressSelect_busy (h : s.now < (s.port n).busyUntil ∨ s.txHeld n = true) : s.egressSelect n = s := if_pos h

/-- Where a frame may be sent, the queues are looked at from 7 down (R418). -/
theorem State.egressSelect_eq (hb : (s.port n).busyUntil ≤ s.now) (ht : s.txHeld n = false) :
    s.egressSelect n = ([7, 6, 5, 4, 3, 2, 1, 0].foldl (s.egressTry n) (s, false)).1 := by
  have hqueues : (List.range 8).reverse = [7, 6, 5, 4, 3, 2, 1, 0] := by decide
  unfold State.egressSelect
  rw [if_neg (not_or.2 ⟨Nat.not_lt.2 hb, by rw [ht]; exact Bool.false_ne_true⟩), hqueues]
  dsimp only
  congr 2

/-- What the head of queue 7 does when it is sent is all (R418). -/
theorem State.egressSelect_first {x : State} (hb : (s.port n).busyUntil ≤ s.now) (ht : s.txHeld n = false)
    (h : s.egressTry n (s, false) 7 = (x, true)) : s.egressSelect n = x := by
  simp only [State.egressSelect_eq hb ht, List.foldl_cons, h, State.egressTry_done, List.foldl_nil]
end Egress

section Gates
variable {s : State} {n : Nat}

theorem State.gclStart_swapped {b : Bool} (hb : s.startSince n (s.port n).swapAt (s.port n).gcl.base false = b)
    (ho : (s.port n).gclOff = true) : s.gclStart n =
      if b then (s.setPort n (fun p => { p with gclOff := false })).putBit (R.ETH.GCL_CTRL n) 2 false else s := by
  simp only [State.gclStart, ho, hb, Bool.true_and]
theorem State.gclStart_running (ho : (s.port n).gclOff = false) : s.gclStart n = s :=
  if_neg (by rw [ho]; exact Bool.false_ne_true)

/-- CHANGE leaves PEND set; the instant of the first one is kept (R420). -/
theorem State.writeGclCtrl_change {w : Word} (hw : s.rg (R.ETH.GCL_CTRL n) = w) :
    s.writeGclCtrl n (w.toNat ||| 2) = if wbit w 2 = false then
      (s.setRg (R.ETH.GCL_CTRL n) (BitVec.ofNat 32 (((w.toNat ||| 2) &&& 0xff01) + 4 + b2n (wbit w 3) * 8))).setPort n
        (fun p => { p with pendAt := s.now, gclOff := false })
      else s.setRg (R.ETH.GCL_CTRL n) (BitVec.ofNat 32 (((w.toNat ||| 2) &&& 0xff01) + 4 + b2n (wbit w 3) * 8)) := by
  have hchange : bitN (w.toNat ||| 2) 1 = true := by
    rw [bitN, Nat.testBit_or]
    exact Bool.or_true _
  simp only [State.writeGclCtrl, hw, hchange, Bool.or_true, true_and]
  rfl

theorem State.gclSwap_none (h : s.bit (R.ETH.GCL_CTRL n) 2 = false) : s.gclSwap n = s := if_pos (.inl h)
/-- A change that is pending while no list runs swaps at its instant (R420). -/
theorem State.gclSwap_stopped (h : s.bit (R.ETH.GCL_CTRL n) 2 = true) (ho : (s.port n).gclOff = false)
    (he : s.bit (R.ETH.GCL_CTRL n) 0 = false) :
    s.gclSwap n = if (s.rg64 (R.ETH.GCL_CHANGE_AT n) : Int) ≤ s.ptpNs n then s.gclSwapNow n else s := by
  simp only [State.gclSwap, h, ho, he, Bool.true_eq_false, Bool.false_eq_true, or_self, if_false]
end Gates

section PeerDelay
variable {s : State} {n : Nat}

theorem State.pdelayRequest_outside (h : s.ptpRole n = 0) : s.pdelayRequest n = s := if_pos (.inl h)
theorem State.pdelayRequest_early {t0 : Time} (hl : (s.port n).pdLast = some t0)
    (hd : passed (s.now - t0) (sx 8 (s.fld (R.ETH.PDELAY_CFG n) 7 0)) = false) : s.pdelayRequest n = s := by
  simp only [State.pdelayRequest, hl, hd, or_true, if_true]
/-- The first request of a port in PTP (R424). -/
theorem State.pdelayRequest_first (h : s.ptpRole n ≠ 0) (hl : (s.port n).pdLast = none) : s.pdelayRequest n =
    ((s.ptpFrame (n / 2) 2 (s.port n).pdSeq 54).2.setPort n (fun p =>
      { p with pdLast := some s.now, pdSeq := (p.pdSeq + 1) % 2 ^ 16 })).egress n (.pdelayReq (s.port n).pdSeq)
        (s.ptpFrame (n / 2) 2 (s.port n).pdSeq 54).1 (s.fld (R.ETH.CTRL n) 7 5) := by
  simp only [State.pdelayRequest, h, hl, Bool.true_eq_false, or_self, if_false]

theorem State.pdelayResponse_outside (h : s.ptpRole n = 0) (x : Option PdelayRes) : s.pdelayResponse n x = s := if_pos h
theorem State.pdelayResponse_failed (h : s.ptpRole n ≠ 0) : s.pdelayResponse n none =
    (s.setPort n (fun p => { p with pdFailed := p.pdFailed + 1 })).judgeCapable n := if_neg h
/-- A complete exchange: the mean of the latest delays and the neighbour rate ratio (R424, assumption log 84). -/
theorem State.pdelayResponse_complete (h : s.ptpRole n ≠ 0) {x : PdelayRes} {ds : List Rat}
    (hds : (((((((x.t4 : Int) + (s.fld (R.ETH.LAT_IN n) 15 0 : Nat) - ((x.t1 : Int) + (s.fld (R.ETH.LAT_OUT n) 15 0 : Nat))) *
      4096 : Int) : Rat) * (1 + (x.nrr : Rat) / (2 ^ 41 : Nat)) - (x.turn : Rat)) / 2) :: (s.port n).pdDelays).take 16 = ds) :
    s.pdelayResponse n (some x) = (((s.setPort n (fun p => { p with pdFailed := 0, pdDelays := ds })).setRg (R.ETH.LINK_DELAY n)
      (BitVec.ofNat 32 (openRound (ds.foldl (· + ·) 0 / (ds.length : Nat))).toNat)).setRg (R.ETH.NRR n)
        (BitVec.ofInt 32 x.nrr)).judgeCapable n := by
  subst hds
  exact if_neg h
end PeerDelay

section Commands
variable {s u : State} {t : Time} (ht : s.tick t = u) (n : Fin 4)
include ht

theorem exec_egressSelect : exec (.egressSelect t n) s = .next (u.egressSelect n) := by subst ht; rfl
theorem exec_gclCycleStart : exec (.gclCycleStart t n) s = .next (u.gclStart n) := by subst ht; rfl
theorem exec_gclSwap : exec (.gclSwap t n) s = .next (u.gclSwap n) := by subst ht; rfl
theorem exec_pdelayRequest : exec (.pdelayRequest t n) s = .next (u.pdelayRequest n) := by subst ht; rfl
theorem exec_pdelayResponse (x : Option PdelayRes) : exec (.pdelayResponse t n x) s = .next (u.pdelayResponse n x) := by
  subst ht; rfl
theorem exec_gclChange (m : Master) (hw : u.Writable (R.ETH.base n)) : exec (.gclChange t m n) s =
    .next (u.writeGclCtrl n ((u.rg (R.ETH.GCL_CTRL n)).toNat ||| 2)) := by
  subst ht
  exact congrArg Host.Outcome.next (State.onPage_writable hw)
end Commands

end Sys2Proof.Machine
end

section
/-! PROOFS. The obligation on the commands of egress, of gate lists and of peer delay. -/

namespace Sys2Proof

open Sys2Proof.Machine

/-- Settles O54, by the cases of an egress selection, of a gate list and of a peer delay exchange. -/
theorem egressCommandsComplete : Obligations.egressCommandsComplete := by
  unfold Obligations.egressCommandsComplete
  refine ⟨?busy, ?sends, ?cycleStart, ?change, ?changeAgain, ?swap, ?noRequest, ?request, ?response, ?outside⟩
  case busy =>
    intro s u t n ht h
    rw [exec_egressSelect ht, State.egressSelect_busy h]
  case sends =>
    intro s u t n f ht hb hh hq hg
    have hhead : vget (u.port n).queues 7 = [f] := by
      rw [hq]
      exact vget_vupd_same _ _ _ (by decide)
    rw [exec_egressSelect ht, State.egressSelect_first hb hh (State.egressTry_sends hhead hg)]
  case cycleStart =>
    intro s u t n b ht hb
    rw [exec_gclCycleStart ht]
    exact ⟨fun ho h => by rw [State.gclStart_swapped hb ho, h]; rfl, fun ho h => by rw [State.gclStart_swapped hb ho, h]; rfl,
      fun ho => by rw [State.gclStart_running ho]⟩
  case change =>
    intro s u v t m n w ht hp hw h hv
    rw [exec_gclChange ht n m hp, hw, State.writeGclCtrl_change hw, if_pos h, hv]
  case changeAgain =>
    intro s u t m n w ht hp hw h
    rw [exec_gclChange ht n m hp, hw, State.writeGclCtrl_change hw, if_neg (by rw [h]; decide)]
  case swap =>
    intro s u t n ht
    rw [exec_gclSwap ht]
    exact ⟨fun h => by rw [State.gclSwap_none h],
      fun h ho he hd => by rw [State.gclSwap_stopped h ho he, if_pos hd],
      fun h ho he hd => by rw [State.gclSwap_stopped h ho he, if_neg (Int.not_le.2 hd)]⟩
  case noRequest =>
    intro s u t t0 n ht
    rw [exec_pdelayRequest ht]
    exact ⟨fun h => by rw [State.pdelayRequest_outside h], fun hl hd => by rw [State.pdelayRequest_early hl hd]⟩
  case request =>
    intro s u t n ht h hl
    rw [exec_pdelayRequest ht, State.pdelayRequest_first h hl]
  case response =>
    intro s u t n x ds ht h hds
    rw [exec_pdelayResponse ht, exec_pdelayResponse ht]
    exact ⟨by rw [State.pdelayResponse_failed h], by rw [State.pdelayResponse_complete h hds]⟩
  case outside =>
    intro s u t n x ht h
    rw [exec_pdelayResponse ht, State.pdelayResponse_outside h]

end Sys2Proof
end

section
/-! PROOFS. The commands of the safety tick and of Mirast, case by case (R453, R475, R477 to R479). -/

namespace Sys2Proof.Machine

section SafetyTick
variable {s v : State}

theorem State.safetyTick_taken (h : s.now / s.cyc * s.cyc ≤ s.bw.tick) : s.safetyTick = s := if_pos h

/-- A tick that has not been taken: the count and the payloads, then what the pair does (R453, R478). -/
theorem State.safetyTick_new (h : s.bw.tick < s.now / s.cyc * s.cyc)
    (hv : (List.range 16).foldl (fun (s : State) c => s.rxTick c) ((s.setBw (fun b => { b with tick := s.now / s.cyc * s.cyc })).setRg
      R.BRAKE.CYC_WAIT (s.rg R.BRAKE.CYC_WAIT + 1)) = v) : s.safetyTick =
    if s.coreState 32 = 1 ∧ (s.cr 32).stall then
      (v.setBw (fun b => { b with ticked := true })).setCr 32 (fun k => { k with stall := false })
    else if s.bw.start + 2 * s.cyc ≤ s.now / s.cyc * s.cyc ∧ s.coreState 32 ≠ 4 ∧ !s.sess.proof then v.islandFault 5 else v := by
  subst hv
  exact if_neg (Nat.not_le.2 h)
end SafetyTick

section Producers
variable {s : State} {c : Nat} {p i : Time} (hp : us (s.rg (R.CONN.PERIOD c)).toNat = p) (hi : s.now / p * p = i)
include hp hi

/-- An enabled producer at a new instant sends one copy per race (R433, R475). -/
theorem State.mirSend_due (hen : s.bit (R.CONN.CFG c) 0 = true) (hl : (s.mirTx c).last < i) : s.mirSend c =
    (s.setTx c (fun x => { x with seq := (x.seq + 1) % 2 ^ 16, last := i })).raceSendMask 3 (s.mirFrame c i) := by
  subst hp hi
  exact if_neg (not_or.2 ⟨by rw [hen]; decide, Nat.not_le.2 hl⟩)
theorem State.mirSend_idle (h : s.bit (R.CONN.CFG c) 0 = false ∨ i ≤ (s.mirTx c).last) : s.mirSend c = s := by
  subst hp hi
  exact if_pos h
end Producers

section Consumers
variable {s : State} {c : Nat}

theorem State.rxUnpaired_none (hl : (s.mirRx c).lost = []) (hp : (s.mirRx c).pair = none) : s.rxUnpaired c = s := by
  simp only [State.rxUnpaired, hl, hp, List.append_nil, List.filter_nil, List.head?_nil]
/-- In RUN a pair that stays incomplete past SKEW degrades the connection (R477, R479). -/
theorem State.rxUnpaired_late {r : Nat} {b : List Byte} {a : Time} (hl : (s.mirRx c).lost = [])
    (hp : (s.mirRx c).pair = some (r, b, a)) (ha : a + s.skew c ≤ s.now) (hs : s.rxState c = 2) :
    s.rxUnpaired c = ((s.setRx c (fun x =>
      { x with
        lost := x.lost.filter (fun a => decide (s.now < a + s.skew c)),
        pair := x.pair.filter (fun p => decide (s.now < p.2.2 + s.skew c)) })).setRx c (fun x =>
      { x with degAt := a + s.skew c })).setRxState c 3 := by
  have hlate : [a].filter (fun a => decide (a + s.skew c ≤ s.now)) = [a] := by
    rw [List.filter_singleton, decide_eq_true ha]
    rfl
  simp only [State.rxUnpaired, hl, hp, List.nil_append, hlate, List.head?_cons, hs, if_true]

/-- In RUN a connection times out after TMO without a new frame (R479). -/
theorem State.rxTimeout_run (hs : s.rxState c = 2) : s.rxTimeout c =
    if (s.mirRx c).newAt + ms (nz (s.fld (R.CONN.TMO (16 + c)) 15 0)) ≤ s.now then
      s.rxFail c 0x28 (s.fld (R.CONN.CFG (16 + c)) 4 2) else s := by
  have hmem : (2 : Nat) ∈ [1, 2, 3] := by decide
  simp only [State.rxTimeout, hs, hmem, true_and, OfNat.ofNat_ne_one, if_false]

theorem State.rxDegraded_over (hs : s.rxState c = 3)
    (hd : (s.mirRx c).degAt + ms (100 * (s.rg (R.CONN.DEG_T (16 + c))).toNat) ≤ s.now) : s.rxDegraded c = s.rxFail c 0x2A 3 :=
  if_pos ⟨hs, hd⟩
theorem State.rxDegraded_other (hs : s.rxState c ≠ 3) : s.rxDegraded c = s := if_neg fun h => hs h.1
end Consumers

section Connections
variable {s : State} {k : Nat}

theorem State.onBrake_writable (hw : s.Writable R.BRAKE.base) (m : Master) (f : State → State) : s.onBrake (some m) f = f s := by
  unfold State.onBrake
  exact State.onPage_writable hw

/-- Bit 0 of `CONN.CMD` is COMMIT of a producer (R475). -/
theorem State.writeConnCmd_commit (h : k < 16) : s.writeConnCmd k 1 = s.mirCommit k := by
  simp [State.writeConnCmd, bitN, h, Nat.not_le.2 h]
/-- Bit 0 of `CONN.CMD` is OPEN of a consumer (R479). -/
theorem State.writeConnCmd_open (h : 16 ≤ k) : s.writeConnCmd k 1 = s.connOpen (k - 16) := by
  have h0 : bitN 1 0 = true := by decide
  have h1 : bitN 1 1 = false := by decide
  simp [State.writeConnCmd, h0, h1, Nat.not_lt.2 h]
/-- Bit 1 of `CONN.CMD` is CLOSE of a consumer (R479). -/
theorem State.writeConnCmd_close (h : 16 ≤ k) : s.writeConnCmd k 2 = s.connClose (k - 16) := if_pos ⟨by decide, h⟩

/-- OPEN of a CLOSED consumer that is enabled (R479). -/
theorem State.connOpen_closed (hen : s.bit (R.CONN.CFG (16 + k)) 0 = true) (hs : s.rxState k = 0) : s.connOpen k =
    ((s.setRx k (fun _ => { openAt := s.now, newAt := s.now })).putBit (rxStat k) 20 false).setRxState k 1 :=
  if_pos ⟨hen, .inl hs⟩
end Connections

section Commands
variable {s u : State} {t : Time} (ht : s.tick t = u)
include ht

theorem exec_safetyTick : exec (.safetyTick t) s = .next u.safetyTick := by subst ht; rfl

section Connection
variable (c : Fin 16)

theorem exec_mirastSend : exec (.mirastSend t c) s = .next (u.mirSend c) := by subst ht; rfl
theorem exec_mirastPairTimeout : exec (.mirastPairTimeout t c) s = .next (u.rxUnpaired c) := by subst ht; rfl
theorem exec_mirTimeout : exec (.mirTimeout t c) s = .next (u.rxTimeout c) := by subst ht; rfl
theorem exec_mirDegraded : exec (.mirDegraded t c) s = .next (u.rxDegraded c) := by subst ht; rfl
end Connection

theorem exec_connCommit_pair : exec (.connCommit t none) s = .next (u.writeConnCmd (u.bwSel none).csel 1) := by subst ht; rfl
theorem exec_connOpen_pair : exec (.connOpen t none) s = .next (u.writeConnCmd (u.bwSel none).csel 1) := by subst ht; rfl
theorem exec_connClose_pair : exec (.connClose t none) s = .next (u.writeConnCmd (u.bwSel none).csel 2) := by subst ht; rfl

section Page
variable (m : Master) (hw : u.Writable R.BRAKE.base)
include hw

theorem exec_connCommit : exec (.connCommit t (some m)) s = .next (u.writeConnCmd (u.selOf m).csel 1) := by
  subst ht
  exact congrArg Host.Outcome.next (State.onBrake_writable hw m _)
theorem exec_connOpen : exec (.connOpen t (some m)) s = .next (u.writeConnCmd (u.selOf m).csel 1) := by
  subst ht
  exact congrArg Host.Outcome.next (State.onBrake_writable hw m _)
theorem exec_connClose : exec (.connClose t (some m)) s = .next (u.writeConnCmd (u.selOf m).csel 2) := by
  subst ht
  exact congrArg Host.Outcome.next (State.onBrake_writable hw m _)
end Page
end Commands

end Sys2Proof.Machine
end

section
/-! PROOFS. The obligation on the commands of the safety tick and of Mirast. -/

namespace Sys2Proof

open Sys2Proof.Machine

/-- Settles O55, by the cases of a tick, of a producer, of a consumer's timers and of `CONN.CMD`. -/
theorem mirastCommandsComplete : Obligations.mirastCommandsComplete := by
  unfold Obligations.mirastCommandsComplete
  refine ⟨?taken, ?tick, ?send, ?noPair, ?latePair, ?timeout, ?degraded, ?pair, ?commit, ?opens, ?close⟩
  case taken =>
    intro s u t ht h
    rw [exec_safetyTick ht, State.safetyTick_taken h]
  case tick =>
    intro s u v t ht h hv
    rw [exec_safetyTick ht, State.safetyTick_new h hv]
    have hrun : (u.cr 32).stall = false → ¬(u.coreState 32 = 1 ∧ (u.cr 32).stall = true) :=
      fun hs hx => Bool.false_ne_true (hs.symm.trans hx.2)
    exact ⟨fun hc hs => by rw [if_pos ⟨hc, hs⟩],
      fun hl hs hc hp => by rw [if_neg (hrun hs), if_pos ⟨hl, hc, by rw [hp]; rfl⟩],
      fun hl hs => by rw [if_neg (hrun hs), if_neg fun hx => Nat.not_le.2 hl hx.1]⟩
  case send =>
    intro s u t c p i ht hp hi
    rw [exec_mirastSend ht]
    exact ⟨fun hen hl => by rw [State.mirSend_due hp hi hen hl], fun h => by rw [State.mirSend_idle hp hi (.inl h)],
      fun h => by rw [State.mirSend_idle hp hi (.inr h)]⟩
  case noPair =>
    intro s u t c ht hl hp
    rw [exec_mirastPairTimeout ht, State.rxUnpaired_none hl hp]
  case latePair =>
    intro s u t a c r b ht hl hp ha hs
    rw [exec_mirastPairTimeout ht, State.rxUnpaired_late hl hp ha hs]
  case timeout =>
    intro s u t c ht hs
    rw [exec_mirTimeout ht, State.rxTimeout_run hs]
    exact ⟨fun h => by rw [if_pos h], fun h => by rw [if_neg (Nat.not_le.2 h)]⟩
  case degraded =>
    intro s u t c ht
    rw [exec_mirDegraded ht]
    exact ⟨fun hs hd => by rw [State.rxDegraded_over hs hd], fun hs => by rw [State.rxDegraded_other hs]⟩
  case pair =>
    intro s u t k ht hk
    rw [exec_connCommit_pair ht, exec_connOpen_pair ht, exec_connClose_pair ht, hk]
    exact ⟨fun h => by rw [State.writeConnCmd_commit h]; exact ⟨rfl, rfl⟩,
      fun h => by rw [State.writeConnCmd_open h, State.writeConnCmd_close h]; exact ⟨rfl, rfl, rfl⟩⟩
  case commit =>
    intro s u t m k ht hw hk h
    rw [exec_connCommit ht m hw, hk, State.writeConnCmd_commit h]
  case opens =>
    intro s u t m k ht hw hk h hen hs
    rw [exec_connOpen ht m hw, hk, State.writeConnCmd_open h, State.connOpen_closed hen hs]
  case close =>
    intro s u t m k ht hw hk h
    rw [exec_connClose ht m hw, hk, State.writeConnCmd_close h]
    rfl

end Sys2Proof
end

section
/-! PROOFS. The commands of the Brakewheel's ladder, channels and monitors, case by case (R450 to R471). -/

namespace Sys2Proof.Machine

section Pair
variable {s : State}

/-- Another master than the pair is refused (R454). -/
theorem State.pairOnly_refused (hw : s.Writable R.BRAKE.base) (m : Master) (f : State → State) :
    s.pairOnly (some m) f = s.cfgRefused R.BRAKE.base := by
  unfold State.pairOnly
  exact State.onPage_writable hw

/-- A read of `CYC_WAIT` that a waiting tick answers (R453). -/
theorem State.cycWaitRead_ticked (h : s.bw.ticked = true) : s.cycWaitRead.2 =
    (s.setBw (fun b => { b with ticked := false })).setCr 32 (fun k => { k with stall := false }) :=
  congrArg Prod.snd (if_pos h)
/-- Without one the pair stalls (R453). -/
theorem State.cycWaitRead_stalls (h : s.bw.ticked = false) : s.cycWaitRead.2 = s.setCr 32 (fun k => { k with stall := true }) :=
  congrArg Prod.snd (if_neg (by rw [h]; exact Bool.false_ne_true))

theorem State.writePreq_legal {i v : Nat} (h : (List.range 8).any (fun k => decide (6 ≤ bitsN v (4 * k + 2) (4 * k))) = false) :
    s.writePreq i v = (s.setRg (R.BRAKE.PREQ i) (BitVec.ofNat 32 (v &&& 0x77777777))).bwSync :=
  if_neg (by rw [h]; exact Bool.false_ne_true)
theorem State.writePreq_refused {i v : Nat} (h : (List.range 8).any (fun k => decide (6 ≤ bitsN v (4 * k + 2) (4 * k))) = true) :
    s.writePreq i v = s.cfgRefused R.BRAKE.base := if_pos h

theorem State.writeFclr_taken {m : Option Master} {v : Nat} (h : mayClear m = true) : s.writeFclr m v = s.fclr v := if_pos h
/-- SPI and debug clear no fault (R469, assumption log 201). -/
theorem State.writeFclr_refused {m : Option Master} {v : Nat} (h : mayClear m = false) :
    s.writeFclr m v = s.cmdRefused R.BRAKE.base := if_neg (by rw [h]; exact Bool.false_ne_true)
end Pair

section Discrepancy
variable {s v : State} {pin : Bool}
  (hv : (if s.bw.injAt.any (fun d => decide (d + us 2 ≤ s.now)) then
    (s.setBw (fun b => { b with injAt := none })).putBit (R.PG_ERRINJ R.BRAKE.base) 17 false else s) = v)
include hv

/-- A disagreement of 2 us is island fault 6 (R457, R489). -/
theorem State.stoDiscrepancy_fault (h : (pin || s.stoDiffers) = true) : s.stoDiscrepancy pin = v.islandFault 6 := by
  subst hv
  exact if_pos h
end Discrepancy

section Timers
variable {s : State} {a lvl n : Nat} {dur : Time}

theorem State.axisTimer_stopped (h : n = 0) : s.axisTimer a lvl n dur = s := if_neg fun hx => hx.1 h
/-- An island timer that is over raises its axis (R466). -/
theorem State.axisTimer_over (h : n ≠ 0) (hd : n - 1 + dur ≤ s.now) : s.axisTimer a lvl n dur =
    (s.setBw (fun b => { b with raised := tset 0 b.raised a (max lvl (tget 0 b.raised a)) })).bwSync := if_pos ⟨h, hd⟩
end Timers

section Monitors
variable {s : State} {n : Nat}

theorem State.smXcheck_disabled (h : s.smEn n = false) : s.smXcheck n = s := if_pos (by rw [h]; rfl)
/-- A count within XTOL of the port's ends a disagreement (R462). -/
theorem State.smXcheck_agrees (h : s.smEn n = true)
    (hd : (s.rg (R.SM.COUNT n) - BitVec.ofInt 32 (s.fbCount n)).toInt.natAbs ≤ s.fld (R.SM.XTOL n) 15 0) :
    s.smXcheck n = s.setSm n (fun x => { x with offSince := none }) := (if_neg (by rw [h]; decide)).trans (if_pos hd)
end Monitors

section Commands
variable {s u : State} {t : Time} (ht : s.tick t = u)
include ht

theorem exec_cycWaitRead (hc : u.coreState 32 = 1) (hs : (u.cr 32).stall = false) :
    exec (.cycWaitRead t) s = .next u.cycWaitRead.2 := by
  subst ht
  exact congrArg Host.Outcome.next (if_pos ⟨hc, hs⟩)
theorem exec_stoCmdWrite (m : Option Master) (v : Word) : exec (.stoCmdWrite t m v) s =
    .next (u.pairOnly m (fun s => s.writeStoCmd v.toNat)) := by subst ht; rfl
theorem exec_stoKick (m : Option Master) : exec (.stoKick t m) s = .next (u.pairOnly m State.stoKick) := by subst ht; rfl
theorem exec_stoKickTimeout : exec (.stoKickTimeout t) s = .next u.bwSync := by subst ht; rfl
theorem exec_preqWrite (m : Option Master) (i : Fin 8) (v : Word) : exec (.preqWrite t m i v) s =
    .next (u.pairOnly m (fun s => s.writePreq i v.toNat)) := by subst ht; rfl
theorem exec_smFlagsClear (m : Option Master) (k : Fin 4) (v : DWord) : exec (.smFlagsClear t m k v) s =
    .next (u.pairOnly m (fun s => s.smFlagsClear k v.toNat)) := by subst ht; rfl
theorem exec_stoDiscrepancy (pin : Bool) : exec (.stoDiscrepancy t pin) s = .next (u.stoDiscrepancy pin) := by subst ht; rfl
theorem exec_lockstep (pc : Fin 1048576) : exec (.lockstep t pc) s =
    .next (((u.putBit (R.PG_ERRINJ R.BRAKE.base) 16 false).postNow 0x149 0x01 pc.val).islandFault 1) := by subst ht; rfl
theorem exec_bwClock : exec (.bwClock t) s = .next (u.islandFault 2) := by subst ht; rfl
theorem exec_bwSupply : exec (.bwSupply t) s = .next (u.islandFault 3) := by subst ht; rfl
theorem exec_sgHoldWrite_pair (on : Bool) : exec (.sgHoldWrite t none on) s =
    .next ((u.putBit R.BRAKE.SG_CTRL 0 on).sgEval) := by subst ht; rfl
theorem exec_sgHoldWrite (m : Master) (on : Bool) (hw : u.Writable R.BRAKE.base) : exec (.sgHoldWrite t (some m) on) s =
    .next ((u.writeReg m R.BRAKE.base R.BRAKE.SG_CTRL ((u.rg R.BRAKE.SG_CTRL).toNat / 2 * 2 + b2n on)).sgEval) := by
  subst ht
  exact congrArg Host.Outcome.next (State.onPage_writable hw)
theorem exec_faultReport : exec (.faultReport t) s = .next u.standstills.ladder := by subst ht; rfl
theorem exec_recoveryWindowEnd : exec (.recoveryWindowEnd t) s =
    .next (u.setBw (fun b => { b with wins := b.wins.filter (fun w => decide (u.now < w.until_)) })) := by subst ht; rfl
theorem exec_axisDegradeTimeout (a : Fin 64) : exec (.axisDegradeTimeout t a) s =
    .next (u.axisTimer a 3 (tget 0 u.bw.degAt a) (ms (nz (u.fld R.BRAKE.AXTIME 15 0)))) := by subst ht; rfl
theorem exec_axisStopTimeout_standstill (a : Fin 64) (h : bitN u.bw.still a = true) : exec (.axisStopTimeout t a) s =
    .next u.standstills.bwSync := by
  subst ht
  exact congrArg Host.Outcome.next (if_pos h)
theorem exec_axisStopTimeout_moving (a : Fin 64) (h : bitN u.bw.still a = false) : exec (.axisStopTimeout t a) s =
    .next (u.axisTimer a 4 (tget 0 u.bw.stopAt a) (ms (nz (u.fld R.BRAKE.AXTIME 31 16)))) := by
  subst ht
  exact congrArg Host.Outcome.next (if_neg (by rw [h]; exact Bool.false_ne_true))
theorem exec_fclr (m : Option Master) (v : Word) (hw : u.Writable R.BRAKE.base) : exec (.fclr t m v) s =
    .next (u.writeFclr m v.toNat) := by
  subst ht
  exact congrArg Host.Outcome.next (State.onPage_writable hw)
theorem exec_errToggle : exec (.errToggle t) s =
    .next (if (u.bw.chA ∨ u.bw.chB) ∧ u.bw.errAt + us (u.fld R.BRAKE.ERR_CFG 15 0) ≤ u.now then
      u.setBw (fun b => { b with err := !b.err, errAt := b.errAt + us (u.fld R.BRAKE.ERR_CFG 15 0) }) else u) := by subst ht; rfl
theorem exec_safeMonitorEdge (n : Fin 48) (l : Fin 3) (v : Bool) (st : Time) :
    exec (.safeMonitorEdge t n (.edge l v st)) s = .next (u.smEdge n l v st) := by subst ht; rfl
theorem exec_safeMonitorWord (n : Fin 48) : exec (.safeMonitorEdge t n .word) s = .next (u.smWord n) := by subst ht; rfl
theorem exec_xcheck (n : Fin 48) : exec (.xcheck t n) s = .next (u.smXcheck n) := by subst ht; rfl
theorem exec_diagDue : exec (.diagDue t) s = .next u.diagEval := by subst ht; rfl
end Commands

end Sys2Proof.Machine
end

section
/-! PROOFS. The obligation on the commands of the Brakewheel's ladder, channels and monitors. -/

namespace Sys2Proof

open Sys2Proof.Machine

/-- Settles O56, by the cases of the pair's commands, of a discrepancy, of an island timer, of a clearing and of a monitor. -/
theorem islandCommandsComplete : Obligations.islandCommandsComplete := by
  unfold Obligations.islandCommandsComplete
  refine ⟨?cycWait, ?refused, fun s u t v ht => exec_stoCmdWrite ht none v,
    fun s u t ht => ⟨exec_stoKick ht none, exec_stoKickTimeout ht⟩, ?discrepancy,
    fun s u t pc ht => ⟨exec_lockstep ht pc, exec_bwClock ht, exec_bwSupply ht⟩, ?preq,
    fun s u t on ht => exec_sgHoldWrite_pair ht on, fun s u t m on ht hw => exec_sgHoldWrite ht m on hw,
    fun s u t ht => exec_faultReport ht, fun s u t ht => exec_recoveryWindowEnd ht, ?degrade, ?stop, ?fclr, ?errToggle,
    fun s u t st n l v ht => ⟨exec_safeMonitorEdge ht n l v st, exec_safeMonitorWord ht n⟩, ?xcheck,
    fun s u t k v ht => exec_smFlagsClear ht none k v, fun s u t ht => exec_diagDue ht⟩
  case cycWait =>
    intro s u t ht hc hs
    rw [exec_cycWaitRead ht hc hs]
    exact ⟨fun h => by rw [State.cycWaitRead_ticked h], fun h => by rw [State.cycWaitRead_stalls h]⟩
  case refused =>
    intro s u t m v i k d ht hw
    rw [exec_stoCmdWrite ht, exec_stoKick ht, exec_preqWrite ht, exec_smFlagsClear ht]
    simp only [State.pairOnly_refused hw, and_self]
  case discrepancy =>
    intro s u v t d pin ht hv
    rw [exec_stoDiscrepancy ht]
    have hlong : ∀ {o : Option Time}, o = some d → d + us 2 ≤ u.now → o.any (fun d => decide (d + us 2 ≤ u.now)) = true :=
      fun ho hd => by rw [ho]; exact decide_eq_true hd
    refine ⟨fun h => ?pin, fun h hd => ?differ, fun h hd => ?injected, fun h hn hi => ?nothing⟩
    case pin => rw [State.stoDiscrepancy_fault hv (by rw [h]; rfl)]
    case differ => rw [State.stoDiscrepancy_fault hv (by rw [State.stoDiffers, hlong h hd, Bool.true_or, Bool.or_true])]
    case injected => rw [State.stoDiscrepancy_fault hv (by rw [State.stoDiffers, hlong h hd, Bool.or_true, Bool.or_true])]
    case nothing => simp only [State.stoDiscrepancy, State.stoDiffers, h, hn, hi, Option.any_none, Bool.or_self,
      Bool.false_eq_true, if_false]
  case preq =>
    intro s u t i v ht
    rw [exec_preqWrite ht]
    exact ⟨fun h => congrArg Host.Outcome.next (State.writePreq_legal h),
      fun h => congrArg Host.Outcome.next (State.writePreq_refused h)⟩
  case degrade =>
    intro s u t a ht
    rw [exec_axisDegradeTimeout ht]
    exact ⟨fun h => by rw [State.axisTimer_stopped h], fun h hd => by rw [State.axisTimer_over h hd]⟩
  case stop =>
    intro s u t a ht
    exact ⟨fun h => exec_axisStopTimeout_standstill ht a h,
      fun h hn hd => by rw [exec_axisStopTimeout_moving ht a h, State.axisTimer_over hn hd],
      fun h hn => by rw [exec_axisStopTimeout_moving ht a h, State.axisTimer_stopped hn]⟩
  case fclr =>
    intro s u t m v ht hw
    rw [exec_fclr ht m v hw]
    exact ⟨fun h => by rw [State.writeFclr_taken h], fun h => by rw [State.writeFclr_refused h]⟩
  case errToggle =>
    intro s u t ht
    rw [exec_errToggle ht]
    exact ⟨fun ha hd => by rw [if_pos ⟨.inl ha, hd⟩], fun ha hb => by simp only [ha, hb, Bool.false_eq_true, or_self, false_and,
      if_false]⟩
  case xcheck =>
    intro s u t n ht
    rw [exec_xcheck ht]
    exact ⟨fun h => by rw [State.smXcheck_disabled h], fun h hd => by rw [State.smXcheck_agrees h hd]⟩

end Sys2Proof
end

section
/-! PROOFS. The Brakewheel's evaluations, the slots', the outputs' and a core's halt leave the session alone (R466, R480). -/

namespace Sys2Proof.Machine

theorem State.foldl_sess {α : Type} {f : State → α → State} (h : ∀ x a, (f x a).sess = x.sess) (l : List α) (s : State) :
    (l.foldl f s).sess = s.sess := by
  induction l generalizing s with
  | nil => rfl
  | cons a l ih => exact (ih (f s a)).trans (h s a)

section Events
variable (s : State)

@[simp] theorem State.post_sess (src code : Nat) (stamp : Time) (payload : Nat) : (s.post src code stamp payload).sess = s.sess := by
  unfold State.post
  split <;> simp
@[simp] theorem State.postNow_sess (src code payload : Nat) : (s.postNow src code payload).sess = s.sess := s.post_sess ..
@[simp] theorem State.reportClear_sess (code unit : Nat) : (s.reportClear code unit).sess = s.sess := rfl
@[simp] theorem State.bwPost_sess (code payload irq : Nat) : (s.bwPost code payload irq).sess = s.sess := by
  unfold State.bwPost
  split <;> simp
@[simp] theorem State.foPost_sess (j code payload : Nat) : (s.foPost j code payload).sess = s.sess := by simp [State.foPost]
end Events

section Gates
variable (s : State) (n : Nat)

@[simp] theorem State.setGate_sess (i : Nat) (f : Gate → Gate) : (s.setGate n i f).sess = s.sess := rfl
@[simp] theorem State.gateOff_sess (i : Nat) (t : Time) : (s.gateOff n i t).sess = s.sess := rfl
@[simp] theorem State.overlap_sess : (s.overlap n).sess = s.sess := by simp [State.overlap]
@[simp] theorem State.cmdOff_sess (i : Nat) : (s.cmdOff n i).sess = s.sess := by
  unfold State.cmdOff
  dsimp only
  split <;> split <;> simp
@[simp] theorem State.stepOff_sess (i : Nat) : (s.stepOff n i).sess = s.sess := by simp [State.stepOff, apply_ite State.sess]
@[simp] theorem State.stepOn_sess (i : Nat) : (s.stepOn n i).sess = s.sess := by simp [State.stepOn, apply_ite State.sess]
@[simp] theorem State.risingEdges_sess (rising : Nat) : (s.risingEdges n rising).sess = s.sess := by simp [State.risingEdges]
@[simp] theorem State.injectEnd_sess : (s.injectEnd n).sess = s.sess := by
  have hfold (l : List (Nat × Time)) :
      (l.foldl (fun (x : State) i => x.putBit (R.PSP.ACTIVE n) i.1 (x.srcOut n i.1)) s).sess = s.sess :=
    State.foldl_sess (fun x _ => x.putBit_sess ..) l s
  unfold State.injectEnd
  dsimp only
  split <;> simp [apply_ite State.sess, hfold]
@[simp] theorem State.putMask_sess (m : Nat) (ovr : Bool) (at_ : Time) : (s.putMask n m ovr at_).sess = s.sess := by
  simp [State.putMask, apply_ite State.sess]
@[simp] theorem State.pickMask_sess (at_ : Time) : (s.pickMask n at_).sess = s.sess := by
  simp [State.pickMask, apply_ite State.sess]
@[simp] theorem State.maskStep_sess : (s.maskStep n).sess = s.sess := by
  unfold State.maskStep
  split <;> simp [apply_ite State.sess]
@[simp] theorem State.chopSet_sess (on : Bool) : (s.chopSet n on).sess = s.sess := rfl
@[simp] theorem State.chopStep_sess : (s.chopStep n).sess = s.sess := by simp [State.chopStep, apply_ite State.sess]
@[simp] theorem State.gateEval_sess : (s.gateEval n).sess = s.sess := by
  simp [State.gateEval, State.foldl_sess (fun x i => x.stepOn_sess n i), State.foldl_sess (fun x i => x.stepOff_sess n i)]
end Gates

section Slots
variable (s : State) (n : Nat)

@[simp] theorem State.ascLeave_sess : (s.ascLeave n).sess = s.sess := rfl
@[simp] theorem State.ascEnter_sess (attr : Nat) : (s.ascEnter n attr).sess = s.sess := by simp [State.ascEnter]
@[simp] theorem State.applyLevel_sess (attr : Nat) : (s.applyLevel n attr).sess = s.sess := by
  simp [State.applyLevel, apply_ite State.sess]
@[simp] theorem State.slotReport_sess : (s.slotReport n).sess = s.sess := by simp [State.slotReport, apply_ite State.sess]
@[simp] theorem State.raiseLevel_sess (l : Nat) : (s.raiseLevel n l).sess = s.sess := by simp [State.raiseLevel]
@[simp] theorem State.timerStep_sess (t : Time) : (s.timerStep n t).sess = s.sess := by
  unfold State.timerStep
  split <;> simp [apply_ite State.sess]
@[simp] theorem State.latchSrc_sess (k lvl : Nat) : (s.latchSrc n k lvl).sess = s.sess := by
  simp [State.latchSrc, apply_ite State.sess]
@[simp] theorem State.slotEval_sess : (s.slotEval n).sess = s.sess := by simp [State.slotEval, apply_ite State.sess]
@[simp] theorem State.slotEvalAll_sess : s.slotEvalAll.sess = s.sess := State.foldl_sess (fun x n => x.slotEval_sess n) _ s
end Slots

section Outputs
variable (s : State) (j : Nat)

@[simp] theorem State.foUnreport_sess (f : Nat) : (s.foUnreport j f).sess = s.sess := by
  simp [State.foUnreport, State.foFaultPost, apply_ite State.sess]
@[simp] theorem State.foSwitch_sess (on : Bool) : (s.foSwitch j on).sess = s.sess := by simp [State.foSwitch, apply_ite State.sess]
@[simp] theorem State.foEval_sess : (s.foEval j).sess = s.sess := by simp [State.foEval, apply_ite State.sess]
@[simp] theorem State.foEvalAll_sess : s.foEvalAll.sess = s.sess := State.foldl_sess (fun x j => x.foEval_sess j) _ s
@[simp] theorem State.sgOne_sess : (s.sgOne j).sess = s.sess := by simp [State.sgOne, apply_ite State.sess]
@[simp] theorem State.sgEval_sess : s.sgEval.sess = s.sess := State.foldl_sess (fun x j => x.sgOne_sess j) _ s
@[simp] theorem State.runSync_sess : s.runSync.sess = s.sess := by simp [State.runSync]
end Outputs

section Ladder
variable (s : State)

@[simp] theorem State.toDev_sess (d : DevState) (cause : Nat) : (s.toDev d cause).sess = s.sess := by
  simp [State.toDev, apply_ite State.sess]
@[simp] theorem State.deviceHold_sess (cause : Nat) : (s.deviceHold cause).sess = s.sess := by
  simp [State.deviceHold, apply_ite State.sess]
@[simp] theorem State.tryRun_sess : s.tryRun.sess = s.sess := by simp [State.tryRun, apply_ite State.sess]
@[simp] theorem State.showLevel_sess (a lvl : Nat) (esc : Bool) : (s.showLevel a lvl esc).sess = s.sess := by
  simp [State.showLevel, apply_ite State.sess]
@[simp] theorem State.slotless_sess (a lvl : Nat) : (s.slotless a lvl).sess = s.sess := by
  simp [State.slotless, State.stopRequest, apply_ite State.sess]
@[simp] theorem State.untimed_sess (a : Nat) : (s.untimed a).sess = s.sess := rfl
@[simp] theorem State.levelsEval_sess : s.levelsEval.sess = s.sess := by
  unfold State.levelsEval
  dsimp only
  rw [State.foldl_sess fun x n => ?issued, State.setBw_sess, State.foldl_sess fun x a => ?shown, State.setBw_sess]
  case issued => simp [apply_ite State.sess]
  case shown => simp [apply_ite State.sess]
@[simp] theorem State.chanEval_sess : s.chanEval.sess = s.sess := by simp [State.chanEval, apply_ite State.sess]
@[simp] theorem State.bwSync_sess : s.bwSync.sess = s.sess := by simp [State.bwSync]
end Ladder

section Halt
variable (s : State) (c : Nat)

@[simp] theorem State.migFail_sess (reason : Nat) : (s.migFail reason).sess = s.sess := by
  unfold State.migFail
  dsimp only
  rw [State.foldl_sess fun x a => ?shown]
  case shown => simp [apply_ite State.sess]
  simp [State.slCorePost]
@[simp] theorem State.setCoreState_sess (v : Nat) : (s.setCoreState c v).sess = s.sess := by
  simp [State.setCoreState, State.migWatch, apply_ite State.sess]
@[simp] theorem State.eccWrite_sess (pg addr : Nat) (v : Word) : (s.eccWrite pg addr v).sess = s.sess := by
  simp [State.eccWrite, apply_ite State.sess]
@[simp] theorem State.land_sess (w : Wr) : (s.land c w).sess = s.sess := by
  cases w with
  | mem a v => exact s.eccWrite_sess ..
  | _ => rfl
@[simp] theorem State.drain_sess : (s.drain c).sess = s.sess :=
  by
  unfold State.drain
  dsimp only
  rw [State.setCr_sess, State.foldl_sess fun x d => ?landed]
  case landed => exact State.foldl_sess (fun y _ => y.land_sess c _) _ x
@[simp] theorem State.haltNow_sess (why which : Nat) : (s.haltNow c why which).sess = s.sess := by
  simp [State.haltNow, State.coreIrq, State.corePost, apply_ite State.sess]
end Halt

end Sys2Proof.Machine
end

section
/-! PROOFS. The commands of password, session, change log and proof test, case by case (R480 to R485). -/

namespace Sys2Proof.Machine

/-- `PW_DATA` cleared, as it is after every write of `SESS_CMD` (R481). -/
def State.pwCleared (s : State) : State := s.setSess (fun x => { x with pwData := Vector.replicate 8 0 })

section Fields
variable (s : State) (m : Master)

/-- `SESS_CMD` with bit 0 is OPEN, LEN in bits 13:8 (R481). -/
theorem State.writeSessCmd_open (len : Fin 64) : s.writeSessCmd m (1 + len.val * 2 ^ 8) = (s.sessOpen m len).pwCleared := by
  have hcmd : ∀ len : Fin 64, bitsN (1 + len.val * 2 ^ 8) 5 0 = 1 ∧ bitsN (1 + len.val * 2 ^ 8) 13 8 = len.val := by decide
  simp only [State.writeSessCmd, (hcmd len).1, (hcmd len).2, State.pwCleared]
/-- `SESS_CMD` with bit 2 is SET_PW, LEN in bits 13:8 (R482). -/
theorem State.writeSessCmd_setPw (len : Fin 64) : s.writeSessCmd m (4 + len.val * 2 ^ 8) = (s.setPw' m len).pwCleared := by
  have hcmd : ∀ len : Fin 64, bitsN (4 + len.val * 2 ^ 8) 5 0 = 4 ∧ bitsN (4 + len.val * 2 ^ 8) 13 8 = len.val := by decide
  simp only [State.writeSessCmd, (hcmd len).1, (hcmd len).2, State.pwCleared]
theorem State.writeSessCmd_close : s.writeSessCmd m 2 = (s.sessClose m).pwCleared := rfl
theorem State.writeSessCmd_seal : s.writeSessCmd m 8 = (s.sealLog m).pwCleared := rfl
theorem State.writeSessCmd_ptOpen : s.writeSessCmd m 16 = (s.ptOpen m).pwCleared := rfl
theorem State.writeSessCmd_ptClose : s.writeSessCmd m 32 = (s.ptClose m).pwCleared := rfl
end Fields

section Sessions
variable {s : State} {m : Master} {len : Nat}

theorem State.sessOpen_noPassword (h : s.sess.pwHash = none) : s.sessOpen m len = s.cmdRefused R.BRAKE.base := by
  rw [State.sessOpen, h]
theorem State.sessOpen_short (h : len < 8) : s.sessOpen m len = s.cmdRefused R.BRAKE.base := by
  cases hp : s.sess.pwHash with
  | none => exact State.sessOpen_noPassword hp
  | some p =>
    rw [State.sessOpen, hp]
    exact if_pos (.inr (.inr (.inl h)))
/-- Verification begins with the outcome that it will have (R481). -/
theorem State.sessOpen_verifies {h : BitVec 256} (hp : s.sess.pwHash = some h) (hn : s.sess.state = .none)
    (hl : s.lockedOut = false) (h8 : 8 ≤ len) (h32 : len ≤ 32) : s.sessOpen m len =
    s.setSess (fun x =>
      { x with
        state := .verifying, owner := m, user := s.fld R.BRAKE.SESS_USER 15 0,
        since := s.now, matched := passwordHash s.sess.salt (s.pwBytes len) == h }) := by
  rw [State.sessOpen, hp]
  refine if_neg ?_
  rintro (h | h | h | h)
  · exact h hn
  · exact Bool.false_ne_true (hl.symm.trans h)
  · omega
  · omega

theorem State.sessVerified_matched (hv : s.sess.state = .verifying) (h : s.sess.matched = true) : s.sessVerified =
    (s.setSess (fun x => { x with state := .opened, since := s.now, fails := 0, lastFail := false })).bwPost 0x07
      (1 + s.sess.owner.code * 4) 0x10 := (if_neg (not_not.2 hv)).trans (if_pos h)
/-- A failure is counted; from the fifth on each locks out for 60 s (R481, assumption log 103). -/
theorem State.sessVerified_failed (hv : s.sess.state = .verifying) (h : s.sess.matched = false) : s.sessVerified =
    (s.setSess (fun x =>
      { x with
        state := .none, fails := min 255 (s.sess.fails + 1),
        lastFail := true, lockout := if 5 ≤ min 255 (s.sess.fails + 1) then some s.now else x.lockout })).bwPost 0x08
      (min 255 (s.sess.fails + 1) + b2n (decide (5 ≤ min 255 (s.sess.fails + 1))) * 2 ^ 8) 0x10 :=
  (if_neg (not_not.2 hv)).trans (if_neg (by rw [h]; exact Bool.false_ne_true))

theorem State.sessClose_owner (h : s.sessOwner m = true) : s.sessClose m = s.sessEnd 0 := if_pos h
theorem State.sessClose_refused (h : s.sessOwner m = false) : s.sessClose m = s.cmdRefused R.BRAKE.base :=
  if_neg (by rw [h]; exact Bool.false_ne_true)
end Sessions

section Passwords
variable {s : State} {m : Master} {len : Nat}

theorem State.setPw'_notAllowed (hp : s.sess.pwHash ≠ none) (h : s.sessOwner m = false) :
    s.setPw' m len = s.cmdRefused R.BRAKE.base := by
  have hset : s.sess.pwHash.isNone = false := by
    rw [Option.isNone_eq_false_iff]
    exact Option.isSome_iff_ne_none.2 hp
  exact if_pos (by rw [h, hset]; rfl)
theorem State.setPw'_long (h : 32 < len) : s.setPw' m len = s.cmdRefused R.BRAKE.base :=
  if_pos (by rw [decide_eq_true h, Bool.or_true, Bool.true_or])
/-- Without a session a user that holds no password sets one; the change log gets one entry (R480, R482, R483). -/
theorem State.setPw'_set (hp : s.sess.pwHash = none) (hn : s.sess.state = .none) (h8 : 8 ≤ len) (h32 : len ≤ 32)
    (hb : (s.pwBytes len).any (fun b => decide (b < 0x20) || decide (0x7E < b)) = false) (hl : s.logFull = false) :
    (s.setPw' m len).sess.pwHash = some (passwordHash (s.setPw' m len).sess.salt (s.pwBytes len)) ∧
      (s.setPw' m len).sess.log.length = s.sess.log.length + 1 := by
  have hlegal : (!(s.sessOwner m || s.sess.pwHash.isNone && s.sess.state == .none) || decide (len < 8) || decide (32 < len) ||
      (s.pwBytes len).any fun b => decide (b < 0x20) || decide (0x7E < b)) = false := by
    rw [hb, hp, hn, decide_eq_false (Nat.not_lt.2 h8), decide_eq_false (Nat.not_lt.2 h32)]
    simp
  unfold State.setPw'
  dsimp only
  rw [hlegal, hl]
  exact ⟨rfl, List.length_append⟩
end Passwords

section Seals
variable {s : State} {m : Master}

theorem State.sealLog_sealed (ho : s.sessOwner m = true) (hs : s.logSum = (s.rg R.BRAKE.LOG_SEAL).toNat) : s.sealLog m =
    (((s.setSess (fun x => { x with log := [], chain := s.rg R.BRAKE.LOG_SEAL })).putBit R.BRAKE.STAT 7 false).specialEntry 4
      (BitVec.ofNat 32 s.sess.log.length) (s.rg R.BRAKE.LOG_SEAL)).bwPost 0x09 (2 + s.sess.log.length % 2 ^ 16 * 2 ^ 16) 0x20 :=
  if_neg (by rw [ho, hs]; simp)
theorem State.sealLog_notOwner (h : s.sessOwner m = false) : s.sealLog m = s.cmdRefused R.BRAKE.base :=
  if_pos (by rw [h]; rfl)
theorem State.sealLog_sumDiffers (h : s.logSum ≠ (s.rg R.BRAKE.LOG_SEAL).toNat) : s.sealLog m = s.cmdRefused R.BRAKE.base :=
  if_pos (by rw [bne_iff_ne.2 h, Bool.or_true])
end Seals

section ProofTests
variable {s : State} {m : Master}

theorem State.ptOpen_refused (h : s.sessOwner m = false ∨ s.dev.st = .run ∨ s.sess.proof = true) :
    s.ptOpen m = s.cmdRefused R.BRAKE.base := by
  refine if_pos ?_
  obtain h | h | h := h <;> rw [h] <;> simp
/-- An accepted PT_OPEN leaves a proof-test session (R485). -/
theorem State.ptOpen_proof (ho : s.sessOwner m = true) (hd : s.dev.st ≠ .run) (hp : s.sess.proof = false)
    (hl : s.logFull = false) : (s.ptOpen m).sess.proof = true := by
  have hfree : (!s.sessOwner m || s.dev.st == .run || s.sess.proof) = false := by
    rw [ho, hp, beq_false_of_ne hd]
    rfl
  unfold State.ptOpen
  dsimp only
  rw [hfree, hl]
  simp only [Bool.false_eq_true, if_false, State.bwSync_sess, State.bwPost_sess, apply_ite State.sess, State.haltNow_sess,
    State.setCr_sess, ite_self, State.setBw_sess, State.setRg_sess]
  rfl

theorem State.ptClose_notTesting (h : s.sess.proof = false) : s.ptClose m = s.cmdRefused R.BRAKE.base :=
  if_pos (by rw [h]; simp)
theorem State.ptClose_owner (ho : s.sessOwner m = true) (hp : s.sess.proof = true) (hl : s.logFull = false) :
    s.ptClose m = s.proofEntry.proofEnd :=
  (if_neg (by rw [ho, hp]; decide)).trans (if_neg (by rw [hl]; exact Bool.false_ne_true))
end ProofTests

section Commands
variable {s u : State} {t : Time} (ht : s.tick t = u)
include ht

theorem exec_passwordVerified : exec (.passwordVerified t) s = .next u.sessVerified := by subst ht; rfl
theorem exec_lockoutEnd : exec (.lockoutEnd t) s =
    .next (if u.lockedOut then u else u.setSess (fun x => { x with lockout := none })) := by subst ht; rfl
theorem exec_sessionTimeout : exec (.sessionTimeout t) s =
    .next (if u.sess.state = .opened ∧ u.sess.since + sec (u.fld R.BRAKE.SESS_TMO 15 0) ≤ u.now then u.sessEnd 2 else u) := by
  subst ht
  rfl

section Page
variable (m : Master) (hw : u.Writable R.BRAKE.base)
include hw

theorem exec_sessionOpen (len : Fin 64) : exec (.sessionOpen t m len) s = .next (u.sessOpen m len).pwCleared := by
  rw [← State.writeSessCmd_open]
  subst ht
  exact congrArg Host.Outcome.next (State.onPage_writable hw)
theorem exec_setPw (len : Fin 64) : exec (.setPw t m len) s = .next (u.setPw' m len).pwCleared := by
  rw [← State.writeSessCmd_setPw]
  subst ht
  exact congrArg Host.Outcome.next (State.onPage_writable hw)
theorem exec_sessionClose : exec (.sessionClose t m) s = .next (u.sessClose m).pwCleared := by
  rw [← State.writeSessCmd_close]
  subst ht
  exact congrArg Host.Outcome.next (State.onPage_writable hw)
theorem exec_seal : exec (.seal t m) s = .next (u.sealLog m).pwCleared := by
  rw [← State.writeSessCmd_seal]
  subst ht
  exact congrArg Host.Outcome.next (State.onPage_writable hw)
theorem exec_ptOpen : exec (.ptOpen t m) s = .next (u.ptOpen m).pwCleared := by
  rw [← State.writeSessCmd_ptOpen]
  subst ht
  exact congrArg Host.Outcome.next (State.onPage_writable hw)
theorem exec_ptClose : exec (.ptClose t m) s = .next (u.ptClose m).pwCleared := by
  rw [← State.writeSessCmd_ptClose]
  subst ht
  exact congrArg Host.Outcome.next (State.onPage_writable hw)
end Page
end Commands

end Sys2Proof.Machine
end

section
/-! PROOFS. The obligation on the commands of password, session, change log and proof test. -/

namespace Sys2Proof

open Sys2Proof.Machine

/-- Settles O57, by the commands of `SESS_CMD` and what each asks of the session, the password, the log and the proof test. -/
theorem sessionCommandsComplete : Obligations.sessionCommandsComplete := by
  unfold Obligations.sessionCommandsComplete
  refine ⟨?opened, ?openRefused, ?verified, ?lockout, ?closed, ?timeout, ?password, ?passwordRefused, ?sealed, ?proof, ?proofEnd⟩
  case opened =>
    intro s u t m len h ht hw hp hn hl h8 h32
    rw [exec_sessionOpen ht m hw, State.sessOpen_verifies hp hn hl h8 h32]
    rfl
  case openRefused =>
    intro s u t m len ht hw
    rw [exec_sessionOpen ht m hw]
    exact ⟨fun h => by rw [State.sessOpen_noPassword h]; rfl, fun h => by rw [State.sessOpen_short h]; rfl⟩
  case verified =>
    intro s u t ht hv
    rw [exec_passwordVerified ht]
    exact ⟨fun h => by rw [State.sessVerified_matched hv h], fun h => by rw [State.sessVerified_failed hv h]⟩
  case lockout =>
    intro s u t ht
    rw [exec_lockoutEnd ht]
    exact ⟨fun h => by rw [if_neg (by rw [h]; exact Bool.false_ne_true)], fun h => by rw [if_pos h]⟩
  case closed =>
    intro s u t m ht hw
    rw [exec_sessionClose ht m hw]
    exact ⟨fun h => by rw [State.sessClose_owner h]; rfl, fun h => by rw [State.sessClose_refused h]; rfl⟩
  case timeout =>
    intro s u t ht
    rw [exec_sessionTimeout ht]
    exact ⟨fun ho hd => by rw [if_pos ⟨ho, hd⟩], fun ho => by rw [if_neg fun hx => ho hx.1]⟩
  case password =>
    intro s u t m len ht hw hp hn h8 h32 hb hl
    obtain ⟨hhash, hlog⟩ := State.setPw'_set (m := m) hp hn h8 h32 hb hl
    exact ⟨_, exec_setPw ht m hw len, hhash, hlog, rfl⟩
  case passwordRefused =>
    intro s u t m len ht hw
    rw [exec_setPw ht m hw]
    exact ⟨fun hp ho => by rw [State.setPw'_notAllowed hp ho]; rfl, fun h => by rw [State.setPw'_long h]; rfl⟩
  case sealed =>
    intro s u t m ht hw
    rw [exec_seal ht m hw]
    exact ⟨fun ho hs => by rw [State.sealLog_sealed ho hs]; rfl, fun h => by rw [State.sealLog_notOwner h]; rfl,
      fun h => by rw [State.sealLog_sumDiffers h]; rfl⟩
  case proof =>
    intro s u t m ht hw
    rw [exec_ptOpen ht m hw]
    exact ⟨fun ho hd hp hl => ⟨rfl, State.ptOpen_proof ho hd hp hl⟩, fun h => by rw [State.ptOpen_refused (.inl h)]; rfl,
      fun h => by rw [State.ptOpen_refused (.inr (.inl h))]; rfl, fun h => by rw [State.ptOpen_refused (.inr (.inr h))]; rfl⟩
  case proofEnd =>
    intro s u t m ht hw
    rw [exec_ptClose ht m hw]
    exact ⟨fun ho hp hl => by rw [State.ptClose_owner ho hp hl]; rfl, fun h => by rw [State.ptClose_notTesting h]; rfl⟩

end Sys2Proof
end

section
/-! PROOFS. The commands of power-up, power-down and reset, case by case (R515 to R521, R27). -/

namespace Sys2Proof.Machine

section Enable
variable {s : State}

theorem State.enRise_watch (he : s.pwr.pwrEn = false) (hd : s.dev.st = .watch) (h0 : s.pwr.down = 0) :
    s.enRise = (s.setPwr (fun p => { p with pwrEn := true })).powerUp := by
  simp [State.enRise, he, hd, h0]
/-- During a power-down the rise waits (R518). -/
theorem State.enRise_waits (he : s.pwr.pwrEn = false) (hd : s.dev.st ≠ .off) (h0 : s.pwr.down ≠ 0) :
    s.enRise = (s.setPwr (fun p => { p with pwrEn := true })).setPwr (fun p => { p with rise := true }) := by
  simp [State.enRise, he, hd, h0]
theorem State.enRise_off (hd : s.dev.st = .off) : s.enRise = s.setPwr (fun p => { p with pwrEn := true }) := if_pos (.inr hd)

variable {v : State} (hv : s.setPwr (fun p => { p with pwrEn := false, rise := false }) = v)
include hv

theorem State.enFall_during (h0 : s.pwr.down ≠ 0) : s.enFall = v := by
  subst hv
  exact if_pos h0
theorem State.enFall_up (h0 : s.pwr.down = 0) (hu : s.up = true) : s.enFall = v.setPwr (fun p => { p with down := 1 }) := by
  subst hv
  exact (if_neg (not_not.2 h0)).trans (if_pos hu)
/-- Outside READY, RUN and SAFE a power-up that runs is broken off; in WATCH only the level counts (R518). -/
theorem State.enFall_down (h0 : s.pwr.down = 0) (hu : s.up = false) :
    s.enFall = if s.dev.st = .standby then v.stepStop.setPwr (fun p => { p with down := 3 }) else v := by
  subst hv
  exact (if_neg (not_not.2 h0)).trans (if_neg fun hx => Bool.false_ne_true (hu.symm.trans hx))
end Enable

section UpSteps
variable {s : State}

theorem State.upStep_outside (x : UpStep) (h : s.dev.st ≠ .standby) : s.upStep x = s := if_pos (.inl h)

variable (hd : s.dev.st = .standby) (h0 : s.pwr.down = 0)
include hd h0

/-- P2 of a group that is not the last (R516). -/
theorem State.upStep_group (h : s.pwr.step = 2) (hg : s.pwr.group < 2) : s.upStep .done =
    (s.supply (groupBits s.pwr.group) true).setPwr (fun p => { p with group := p.group + 1 }) := by
  simp [State.upStep, hd, h0, h, hg]
/-- P3 (R516). -/
theorem State.upStep_plls (h : s.pwr.step = 3) : s.upStep .done =
    (s.putFld R.PWR.SEQ_STAT 2 0 3).setPwr (fun p => { p with step := 4 }) := by
  simp [State.upStep, hd, h0, h]
/-- P4, with the image that it read (R516). -/
theorem State.upStep_image {v : State} {b : Boot} (h : s.pwr.step = 4) (hn : s.pwr.nrst = true)
    (hv : s.cfsReplay.setPwr (fun p => { p with boot := some b }) = v) : s.upStep (.image b) =
    (v.putFld R.PWR.SEQ_STAT 2 0 v.pwr.step).setPwr (fun p => { p with step := if b.ok && b.bist then 5 else 6 }) := by
  subst hv
  simp [State.upStep, hd, h0, h, hn]
/-- P5, with the outcome of the start-up BIST (R516, R547). -/
theorem State.upStep_tested {v : State} {fails : List (Nat × Nat)} {reps : List RepEntry} {bits : List (Nat × Nat × BistBit)}
    (h : s.pwr.step = 5)
    (hv : (s.setPwr (fun p => { p with tested := true, fails := fails, failBits := bits })).setBist (fun b =>
      { b with table := (b.table ++ reps).take 1024 }) = v) : s.upStep (.tested fails reps bits) =
    (v.putFld R.PWR.SEQ_STAT 2 0 v.pwr.step).setPwr (fun p => { p with step := 6 }) := by
  subst hv
  simp [State.upStep, hd, h0, h]
/-- P6 (R516). -/
theorem State.upStep_release (h : s.pwr.step = 6) (hn : s.pwr.nrst = true) : s.upStep .done = s.release := by
  simp [State.upStep, hd, h0, h, hn]
end UpSteps

section DownSteps
variable {s : State}

theorem State.powerDown_none (h : s.pwr.down = 0) : s.powerDown = s := by simp only [State.powerDown, h]
theorem State.powerDown_outputs (h : s.pwr.down = 1) : s.powerDown = s.powerD1.setPwr (fun p => { p with down := 2 }) := by
  simp only [State.powerDown, h]
theorem State.powerDown_save (h : s.pwr.down = 2) : s.powerDown = (s.powerD2 1).setPwr (fun p => { p with down := 3 }) := by
  simp only [State.powerDown, h]
theorem State.powerDown_supplies (h : s.pwr.down = 3) : s.powerDown =
    (((s.supply 0x20 false).supply 0x1c false).supply 3 false).setPwr (fun p => { p with down := 4 }) := by
  simp only [State.powerDown, h]
  rfl
theorem State.powerDown_end (h : s.pwr.down = 4) : s.powerDown = s.powerD4 := by simp only [State.powerDown, h]
end DownSteps

section BrownOuts
variable {s : State} {i : Nat}

theorem State.brownOut_down (c : Bool) (h : s.up = false) : s.brownOut i c = s.supply (2 ^ i) false :=
  if_pos (.inl (by rw [h]; rfl))

variable (hu : s.up = true) (hd : s.pwr.down < 3)
include hu hd

/-- D1 and D2 at once (R515). -/
theorem State.brownOut_saved : s.brownOut i false =
    (((((s.setPwr (fun p => { p with brown := true })).putBit R.PWR.STICKY 1 true).supply (2 ^ i) false).powerD1).powerD2 2).setPwr
      (fun p => { p with down := 3, rise := false }) := by
  simp [State.brownOut, hu, Nat.not_le.2 hd]
/-- A collapse saves nothing (R528, assumption log 119). -/
theorem State.brownOut_collapse : s.brownOut i true =
    ((((((s.setPwr (fun p => { p with brown := true })).putBit R.PWR.STICKY 1 true).supply (2 ^ i) false).powerD1).setPwr
      (fun p => { p with cfs := p.cfs.filter (fun x => x.committed s.now) })).pcieReset true).setPwr
      (fun p => { p with down := 3, rise := false }) := by
  simp [State.brownOut, hu, Nat.not_le.2 hd]
end BrownOuts

section Resets
variable {s : State}

theorem State.resetLow_low (h : s.pwr.nrst = false) : s.resetLow = s := if_pos (by rw [h]; rfl)
theorem State.resetLow_up (hn : s.pwr.nrst = true) (h0 : s.pwr.down = 0) (hu : s.up = true) : s.resetLow =
    ((((s.setPwr (fun p =>
      { p with nrst := false, fallAt := s.now, fallClk := s.rg R.SYS.CLK_MON, longSeen := false })).powerD1).powerD2 3).toState
      .standby).setPwr (fun p => { p with step := 4, byReset := true, tested := false, boot := none }) :=
  (if_neg (by rw [hn]; decide)).trans ((if_neg (not_not.2 h0)).trans (if_pos hu))

/-- Power-up goes on at P4, or at P3 where a PLL lost lock meanwhile (R520). -/
theorem State.resetHigh_standby (hn : s.pwr.nrst = false) (h0 : s.pwr.down = 0) (hd : s.dev.st = .standby) (hs : 4 ≤ s.pwr.step) :
    s.resetHigh = (s.setPwr (fun p => { p with nrst := true })).setPwr (fun p =>
      { p with step := if s.rg R.SYS.CLK_MON &&& ~~~s.pwr.fallClk &&& lockBits ≠ 0 then 3 else 4 }) := by
  refine if_neg ?_
  rintro (h | h | h | h)
  · exact Bool.false_ne_true (hn.symm.trans h)
  · exact h h0
  · exact h hd
  · exact Nat.not_lt.2 hs h
end Resets

section Commands
variable {s u : State} {t : Time} (ht : s.tick t = u)
include ht

theorem exec_pwrEnRise : exec (.pwrEnRise t) s = .next u.enRise := by subst ht; rfl
theorem exec_pwrEnFall : exec (.pwrEnFall t) s = .next u.enFall := by subst ht; rfl
theorem exec_powerUpStep (x : UpStep) : exec (.powerUpStep t x) s = .next (u.upStep x) := by subst ht; rfl
theorem exec_powerUpTimeout (item : Fin 7) : exec (.powerUpTimeout t item) s =
    .next (if u.dev.st = .standby ∧ u.pwr.down = 0 ∧ ((u.pwr.step = 2 ∧ item.val = u.pwr.group + 1) ∨ (u.pwr.step = 3 ∧ 4 ≤ item.val)) then
      ((u.putBit R.PWR.STICKY 2 true).putFld R.PWR.SEQ_STAT 5 3 item.val).setPwr (fun p => { p with down := 3, rise := false })
      else u) := by
  subst ht
  rfl
theorem exec_powerDownStep : exec (.powerDownStep t) s = .next u.powerDown := by subst ht; rfl
theorem exec_brownOut (i : Fin 6) (c : Bool) : exec (.brownOut t i c) s = .next (u.brownOut i c) := by subst ht; rfl
theorem exec_resetAssert : exec (.resetAssert t) s = .next u.resetLow := by subst ht; rfl
theorem exec_resetRelease : exec (.resetRelease t) s = .next u.resetHigh := by subst ht; rfl
theorem exec_resetLong : exec (.resetLong t) s =
    .next (if !u.pwr.nrst && !u.pwr.longSeen && decide (u.pwr.fallAt + sec 10 < u.now) && u.dev.st != .off then
      ((u.putBit R.PWR.STICKY 0 true).count R.PWR.RST_CNT 15 0 1).setPwr (fun p => { p with longSeen := true, longPost := true })
      else u) := by
  subst ht
  rfl
theorem exec_vbakGood : exec (.vbakGood t) s = .next (if u.dev.st = .off then
    ((u.supply 0x80 true).toState .watch).setPwr (fun p => { p with rtc := 0, rtcAt := 4 * u.now }) else u.supply 0x80 true) := by
  subst ht
  rfl
theorem exec_vbakLost : exec (.vbakLost t) s =
    .next (if u.dev.st = .watch ∧ u.pwr.down = 0 then (u.supply 0x80 false).toOff else u.supply 0x80 false) := by
  subst ht
  rfl
end Commands

end Sys2Proof.Machine
end

section
/-! PROOFS. The obligation on the commands of power-up, power-down and reset. -/

namespace Sys2Proof

open Sys2Proof.Machine

/-- Settles O58, by the state of the device, the step of power-up or power-down, and the levels of the pins. -/
theorem powerCommandsComplete : Obligations.powerCommandsComplete := by
  unfold Obligations.powerCommandsComplete
  refine ⟨?rise, ?fall, ?upStep, ?image, ?upTimeout, ?downStep, ?brownDown, ?brownSaved, ?brownCollapse, ?resetLow, ?resetAgain,
    ?resetHigh, ?resetLong, ?vbak⟩
  case rise =>
    intro s u t ht he
    rw [exec_pwrEnRise ht]
    exact ⟨fun hd h0 => by rw [State.enRise_watch he hd h0], fun hd h0 => by rw [State.enRise_waits he hd h0],
      fun hd => by rw [State.enRise_off hd]⟩
  case fall =>
    intro s u v t ht hv
    rw [exec_pwrEnFall ht]
    refine ⟨fun h0 => ?during, fun h0 hu => ?up, fun h0 hd => ?standby, fun h0 hd => ?watch⟩
    case during => rw [State.enFall_during hv h0]
    case up => rw [State.enFall_up hv h0 hu]
    case standby => rw [State.enFall_down hv h0 (by rw [State.up, hd]; rfl), if_pos hd]
    case watch => rw [State.enFall_down hv h0 (by rw [State.up, hd]; rfl), if_neg (by rw [hd]; decide)]
  case upStep =>
    intro s u t x ht
    rw [exec_powerUpStep ht]
    refine ⟨fun h => ?outside, fun hd h0 h hg hx => ?group, fun hd h0 h hx => ?plls, fun hd h0 h hn hx => ?release⟩
    case outside => rw [State.upStep_outside x h]
    case group => rw [hx, State.upStep_group hd h0 h hg]
    case plls => rw [hx, State.upStep_plls hd h0 h]
    case release => rw [hx, State.upStep_release hd h0 h hn]
  case image =>
    intro s u v t b fails reps bits ht hd h0
    exact ⟨fun h hn hv => by rw [exec_powerUpStep ht, State.upStep_image hd h0 h hn hv],
      fun h hv => by rw [exec_powerUpStep ht, State.upStep_tested hd h0 h hv]⟩
  case upTimeout =>
    intro s u t item ht hd h0
    rw [exec_powerUpTimeout ht]
    refine ⟨fun h hi => ?group, fun h hi => ?pll, fun h => ?other⟩
    case group => rw [if_pos ⟨hd, h0, .inl ⟨h, hi⟩⟩]
    case pll => rw [if_pos ⟨hd, h0, .inr ⟨h, hi⟩⟩]
    case other => rw [if_neg (by rw [h]; omega)]
  case downStep =>
    intro s u t ht
    rw [exec_powerDownStep ht]
    exact ⟨fun h => by rw [State.powerDown_none h], fun h => by rw [State.powerDown_outputs h],
      fun h => by rw [State.powerDown_save h], fun h => by rw [State.powerDown_supplies h],
      fun h => by rw [State.powerDown_end h]⟩
  case brownDown =>
    intro s u t i c ht hu
    rw [exec_brownOut ht, State.brownOut_down c hu]
  case brownSaved =>
    intro s u t i ht hu hd
    rw [exec_brownOut ht, State.brownOut_saved hu hd]
  case brownCollapse =>
    intro s u t i ht hu hd
    rw [exec_brownOut ht, State.brownOut_collapse hu hd]
  case resetLow =>
    intro s u t ht hn h0 hu
    rw [exec_resetAssert ht, State.resetLow_up hn h0 hu]
  case resetAgain =>
    intro s u t ht h
    rw [exec_resetAssert ht, State.resetLow_low h]
  case resetHigh =>
    intro s u t ht hn h0 hd hs
    rw [exec_resetRelease ht, State.resetHigh_standby hn h0 hd hs]
    exact ⟨fun h => by simp only [if_neg (not_not.2 h)], fun h => by simp only [if_pos h]⟩
  case resetLong =>
    intro s u t ht
    rw [exec_resetLong ht]
    refine ⟨fun hn hl hf hd => ?counted, fun h => ?high, fun h => ?known⟩
    case counted => rw [hn, hl, decide_eq_true hf, bne_iff_ne.2 hd]; rfl
    case high => rw [h]; rfl
    case known => rw [h, Bool.not_true, Bool.and_false]; rfl
  case vbak =>
    intro s u t ht
    rw [exec_vbakGood ht, exec_vbakLost ht]
    exact ⟨fun h => by rw [if_pos h], fun h => by rw [if_neg h], fun h h0 => by rw [if_pos ⟨h, h0⟩],
      fun h => by rw [if_neg fun hx => h hx.1]⟩

end Sys2Proof
end

section
/-! PROOFS. The commands of the BIST engine, case by case (R539, R542 to R545). -/

namespace Sys2Proof.Machine

section Starts
variable {s : State} (m : Master) {w : Word} (hw : s.rg R.BIST.TARGET = w)
include hw

theorem State.bistStart_refused (h : s.bistReason (wfld w 7 0) (wfld w 15 8) ≠ 0) : s.bistStart m =
    ((s.putBit R.BIST.STAT 4 true).putFld R.BIST.STAT 15 8 (s.bistReason (wfld w 7 0) (wfld w 15 8))).cmdRefused R.BIST.base := by
  subst hw
  exact if_pos h
/-- An accepted START on a Stone core (R539, R541). -/
theorem State.bistStart_core (h : s.bistReason (wfld w 7 0) (wfld w 15 8) = 0) (hk : wfld w 7 0 ≤ 2) : s.bistStart m =
    (((s.setRg R.BIST.STAT (BitVec.ofNat 32 (1 + m.code * 2 ^ 16))).setBist (fun b =>
      { b with run := some ⟨wfld w 7 0, wfld w 15 8, wfld w 19 16, s.bit (R.PG_ERRINJ R.BIST.base) 16⟩ })).putBit
      (R.PG_ERRINJ R.BIST.base) 16 false).setCoreState (wfld w 15 8) 5 := by
  subst hw
  exact (if_neg (not_not.2 h)).trans (if_pos hk)
end Starts

section Runs
variable {s : State}

theorem State.bistStop_none (h : s.bist.run = none) : s.bistStop = s := by rw [State.bistStop, h]
theorem State.bistStop_run {r : BistRun} (h : s.bist.run = some r) : s.bistStop =
    (((((s.bistClean r).setBist (fun b => { b with fails := [] })).putFld R.BIST.STAT 3 0 8).showFails []).setRg R.BIST.NFAIL 0).irq
      R.BIST.base 1 := by
  rw [State.bistStop, h]

theorem State.bistEnd_none (x : BistResult) (h : s.bist.run = none) : s.bistEnd x = s := by rw [State.bistEnd, h]

/-- Within the limits of supply and clock a run without a failing bit passes (R543). -/
theorem bistVerdict_pass {x : BistResult} (hl : 720 ≤ x.vLow) (hh : x.vHigh ≤ 780) (hd : x.dev.natAbs ≤ 200) :
    bistVerdict x 0 = 1 := by
  refine (if_neg ?_).trans (if_pos rfl)
  rintro (h | h | h)
  · omega
  · omega
  · omega
theorem propose_nil (table : List RepEntry) (r : BistRun) : propose table r [] = [] := rfl
theorem State.bistEnd_pass {x : BistResult} {r : BistRun} (h : s.bist.run = some r) (hi : r.inject = false) (hb : x.bits = [])
    (hl : 720 ≤ x.vLow) (hh : x.vHigh ≤ 780) (hd : x.dev.natAbs ≤ 200) : s.bistEnd x =
    ((((((((((s.bistClean r).setBist (fun b => { b with fails := [] })).showFails []).putFld R.BIST.STAT 3 0 2).putBit R.BIST.STAT 20
      false).setRg R.BIST.NFAIL 0).setRg R.BIST.VCORE (BitVec.ofNat 32 (x.vLow % 2 ^ 16 + x.vHigh % 2 ^ 16 * 2 ^ 16))).setRg
      R.BIST.CLKDEV (BitVec.ofNat 32 (ux 16 x.dev))).count R.BIST.RUNS 15 0 1).irq R.BIST.base 1) := by
  simp only [State.bistEnd, h, hi, hb, Bool.false_eq_true, if_false, List.filter_nil, List.take_nil, List.length_nil,
    Nat.zero_lt_succ, if_true, bistVerdict_pass hl hh hd, propose_nil, Nat.min_zero, Nat.zero_mul, Nat.add_zero, Nat.one_mul,
    OfNat.one_ne_ofNat, BitVec.ofNat_eq_ofNat]
end Runs

section Repairs
variable {s : State} {i : Nat}

theorem State.bistRepair_refused (h : s.repairReason i ≠ 0) : s.bistRepair i =
    ((s.putFld R.BIST.REP_STAT 23 16 (s.repairReason i)).cmdRefused R.BIST.base).irq R.BIST.base 8 := if_pos h
/-- An accepted REPAIR leaves a transaction of two words that carries the proposed entry, and the store busy (R545). -/
theorem State.bistRepair_accepted (h : s.repairReason i = 0) : ∃ x, (s.bistRepair i).pwr.cfs = some x ∧ x.words.length = 2 ∧
    x.at_ = s.now ∧ x.repair = (s.bist.fails.getD i ⟨⟨0, 0, 0⟩, none, false⟩).spare ∧ (s.bistRepair i).bit R.CFS.STAT 0 = true := by
  unfold State.bistRepair
  dsimp only
  rw [if_neg (not_not.2 h)]
  refine ⟨_, rfl, rfl, rfl, rfl, ?busy⟩
  case busy => exact State.bit_putBit_on (by decide) (by decide) _ _ _
end Repairs

section Commands
variable {s u : State} {t : Time} (ht : s.tick t = u)
include ht

theorem exec_bistRunEnd (x : BistResult) : exec (.bistRunEnd t x) s = .next (u.bistEnd x) := by subst ht; rfl

section Page
variable (m : Master) (hw : u.Writable R.BIST.base)
include hw

theorem exec_bistStart : exec (.bistStart t m) s = .next (u.bistStart m) := by
  subst ht
  exact congrArg Host.Outcome.next (State.onPage_writable hw)
theorem exec_bistAbort : exec (.bistAbort t m) s = .next u.bistStop := by
  subst ht
  exact congrArg Host.Outcome.next (State.onPage_writable hw)
theorem exec_bistRepair (i : Fin 8) : exec (.bistRepair t m i) s = .next (u.bistRepair i) := by
  have hcmd : ∀ i : Fin 8, bitsN (4 + i.val * 2 ^ 8) 2 0 = 4 ∧ bitsN (4 + i.val * 2 ^ 8) 10 8 = i.val := by decide
  have hwrite : u.writeBistCmd m (4 + i.val * 2 ^ 8) = u.bistRepair i := by
    simp only [State.writeBistCmd, (hcmd i).1, (hcmd i).2]
  rw [← hwrite]
  subst ht
  exact congrArg Host.Outcome.next (State.onPage_writable hw)
end Page
end Commands

end Sys2Proof.Machine
end

section
/-! PROOFS. The obligation on the commands of the BIST engine. -/

namespace Sys2Proof

open Sys2Proof.Machine

/-- Settles O60, by the cases of a start, of a run's end and of a repair. -/
theorem bistCommandsComplete : Obligations.bistCommandsComplete := by
  unfold Obligations.bistCommandsComplete
  refine ⟨?startRefused, ?start, ?stop, ?noRun, ?pass, ?repairRefused, ?repair⟩
  case startRefused =>
    intro s u t m w ht hwr hw h
    rw [exec_bistStart ht m hwr, State.bistStart_refused m hw h]
  case start =>
    intro s u t m w ht hwr hw h hk
    rw [exec_bistStart ht m hwr, State.bistStart_core m hw h hk]
  case stop =>
    intro s u t m r ht hwr
    rw [exec_bistAbort ht m hwr]
    exact ⟨fun h => by rw [State.bistStop_run h], fun h => by rw [State.bistStop_none h]⟩
  case noRun =>
    intro s u t x ht h
    rw [exec_bistRunEnd ht, State.bistEnd_none x h]
  case pass =>
    intro s u t x r ht h hi hb _ hl hh hd
    rw [exec_bistRunEnd ht, State.bistEnd_pass h hi hb hl hh hd]
  case repairRefused =>
    intro s u t m i ht hwr h
    rw [exec_bistRepair ht m hwr, State.bistRepair_refused h]
  case repair =>
    intro s u t m i ht hwr h
    obtain ⟨x, hx⟩ := State.bistRepair_accepted h
    exact ⟨_, x, exec_bistRepair ht m hwr i, hx⟩

end Sys2Proof
end

section
/-! PROOFS. The commands of the submission rings, case by case (R493, R495, R496, R499 to R502, R525). -/

namespace Sys2Proof.Machine

theorem State.lateDesc_none {s : State} (h : s.host.late = none) : s.lateDesc = s := by rw [State.lateDesc, h]

section Fetch
variable {s : State} {d : List Word} {r k : Nat} (hr : s.nextRing = some (r, k)) (hl : s.host.late = none)
include hr hl

/-- With no descriptor that waits for an edge, a fetched one waits for its own edge where its tag is DONE, and is judged
otherwise (R493, R499, R500). -/
theorem State.fetchDesc_some {v : State}
    (hv : (s.setRg (R.HOST.SQ_HEAD r) (BitVec.ofNat 32 ((s.fld (R.HOST.SQ_HEAD r) 11 0 + 1) % s.ringSize r))).setHost
      (fun h => { h with ring := r, took := k + 1 }) = v) :
    s.fetchDesc d = if (s.tag (tagIdx ((d.getD 0 0).toNat / 2 ^ 16))).st = 2
      then v.setHost (fun h => { h with late := some (hclkEdge s.now, r, d) }) else v.judgeDesc r d := by
  have hlate : v.lateDesc = v := State.lateDesc_none (by subst hv; exact hl)
  have htag (i : Nat) : v.tag i = s.tag i := by subst hv; rfl
  rw [State.fetchDesc, hr]
  dsimp only
  rw [hv, hlate, htag]
end Fetch

/-- A descriptor with a free index of its generation is accepted (R499). -/
theorem State.judgeDesc_free {s : State} {r g : Nat} {d : List Word}
    (ht : s.tag (tagIdx ((d.getD 0 0).toNat / 2 ^ 16)) = { gen := g }) (hg : tagGen ((d.getD 0 0).toNat / 2 ^ 16) = g) :
    s.judgeDesc r d = (s.setTag (tagIdx ((d.getD 0 0).toNat / 2 ^ 16)) { gen := g, st := 1 }).setHost (fun h => { h with
      cmds := h.cmds ++ [{ ring := r, desc := d, ended := badDesc (s.fld (R.HOST.SQ_CFG r) 6 5) d }] }) := by
  subst hg
  simp only [State.judgeDesc, ht, ne_eq, not_true, if_false]

section Commands
variable {s : State} {r i : Nat} {c : HostCmd}

theorem State.regRead_some {w : State} {v : DWord} (h : s.ringCmd r 1 = some (i, c))
    (hv : s.sysRead .host c.daddr c.len 0xff = (v, w)) : s.regRead r = w.endCmd i 0 c.len (some v) := by
  simp only [State.regRead, h, hv]
theorem State.regWrite_some (h : s.ringCmd r 2 = some (i, c)) : s.regWrite r =
    (s.sysWrite .host c.daddr c.len 0xff (c.word 6 + c.word 7 * 2 ^ 32)).endCmd i 0 c.len none := by
  simp only [State.regWrite, h]
theorem State.hostNop_some (h : s.ringCmd r 6 = some (i, c)) : s.hostNop r = s.endCmd i 0 0 none := by
  simp only [State.hostNop, h]

section Copies
variable {op : Nat} (f : State → Nat → State) (h : s.ringCmd r op = some (i, c)) (ha : c.aborted = false)
  (hh : s.pcieHeld = false) {ok : Bool}
include h ha hh

theorem State.copyStep_moves (hd : s.dmaFails ok = false) : s.copyStep r op ok f =
    (f (s.setCmd i (fun c => { c with started := true, held := none })) i).copyEnd i := by
  simp only [State.copyStep, h, ha, hh, hd, Bool.false_eq_true, false_and, if_false]
theorem State.copyStep_fails (hd : s.dmaFails ok = true) : s.copyStep r op ok f = s.dmaUsed.endCmd i 7 c.done none := by
  simp only [State.copyStep, h, ha, hh, hd, Bool.false_eq_true, false_and, if_false, if_true]
end Copies

/-- A frame that no port drops completes with OK (R495, R417). -/
theorem State.txFrame_sent {v : State} {b : List Byte} {ok : Bool} (h : s.ringCmd r 5 = some (i, c)) (ha : c.aborted = false)
    (hh : s.pcieHeld = false) (hd : s.dmaFails ok = false) (hm : c.word 6 % 4 ≠ 0)
    (hv : s.raceSendMask (c.word 6 % 4) ((b ++ List.replicate c.len 0).take c.len) = v)
    (hn : (s.raceUse 0).2 + (s.raceUse 1).2 + s.sendTargets (c.word 6 % 4) ((b ++ List.replicate c.len 0).take c.len) ≤
      (v.raceUse 0).2 + (v.raceUse 1).2) : s.txFrame r b ok = v.endCmd i 0 c.len none := by
  subst hv
  simp only [State.txFrame, h, ha, hh, hd, Bool.false_eq_true, if_false, if_neg hm, decide_eq_false (Nat.not_lt.2 hn)]
end Commands

section Completions
variable {s : State} {r i : Nat} {c : HostCmd} {e : CmdEnd}

/-- With no ABORTED completion that waits, the oldest command that has ended completes (R496, R502). -/
theorem State.complete_ended (hf : s.host.aborts.find? (fun x => x.1 == r) = none)
    (hi : s.host.cmds.findIdx? (fun c => c.ring == r && c.ended.isSome) = some i) (hc : s.host.cmds.getD i default = c)
    (he : c.ended = some e) : s.complete r =
    if c.aborted then ((s.dropCmd i).count R.HOST.TAG_ERR 15 0 1).irq R.HOST.base 2
    else if !s.hostOk then s else (s.dropCmd i).postOwn c e := by
  subst hc
  simp only [State.complete, hf, ite_self, hi, he, Option.getD_some]
/-- An ABORTED completion that waited for the PCIe PLL goes first (R501, R525). -/
theorem State.complete_waiting {w n : Nat} {l : List (Nat × Nat × Nat)} (ho : s.hostOk = true)
    (ha : s.host.aborts = (r, w, n) :: l) :
    s.complete r = (s.setHost (fun h => { h with aborts := l })).postCq r w 1 n none none := by
  have hfind : s.host.aborts.find? (fun x => x.1 == r) = some (r, w, n) := by
    rw [ha]
    exact List.find?_cons_of_pos (beq_self_eq_true r)
  have herase : s.host.aborts.erase (r, w, n) = l := by rw [ha, List.erase_cons_head]
  simp only [State.complete, ho, if_true, hfind, State.setHost, herase]
end Completions

section Acknowledgements
variable {s : State} {r v : Nat}

theorem State.ringSize_bounds (s : State) (r : Nat) : 2 ≤ s.ringSize r ∧ s.ringSize r ≤ 4096 := by
  have hl : 4 ≤ clampN 4 12 (s.fld (R.HOST.SQ_CFG r) 4 1) := Nat.le_max_left _ _
  have hu : clampN 4 12 (s.fld (R.HOST.SQ_CFG r) 4 1) ≤ 12 := Nat.max_le.2 ⟨by omega, Nat.min_le_left _ _⟩
  exact ⟨(by decide : 2 ≤ 2 ^ 4).trans (Nat.pow_le_pow_right (by decide) hl), Nat.pow_le_pow_right (by decide) hu⟩

/-- HEAD written `d` places on acknowledges the `d` oldest completions; no descriptor waits for them (R500). -/
theorem State.ackCq_advance {d : Nat} (hv : v < s.ringSize r) (hd : v = s.fld (R.HOST.CQ_HEAD r) 11 0 + d)
    (hn : d < s.ringSize r) (hl : d ≤ (vget s.host.cq r).length) {x : State}
    (hx : ((vget s.host.cq r).take d).foldl (fun (s : State) o => match o with | some i => s.freeTag i | none => s) s = x)
    (hlate : x.host.late = none) : s.ackCq r v =
    (x.setRg (R.HOST.CQ_HEAD r) (BitVec.ofNat 32 (v % 4096))).setHost (fun h =>
      { h with cq := vupd h.cq r (fun l => l.drop d) }) := by
  subst hx
  have hsize := (s.ringSize_bounds r).2
  have hv4 : v % 4096 = v := Nat.mod_eq_of_lt (by omega)
  have hhead : s.fld (R.HOST.CQ_HEAD r) 11 0 % s.ringSize r = s.fld (R.HOST.CQ_HEAD r) 11 0 := Nat.mod_eq_of_lt (by omega)
  have hsteps : (v % 4096 + s.ringSize r - s.fld (R.HOST.CQ_HEAD r) 11 0 % s.ringSize r) % s.ringSize r = d := by
    rw [hv4, hhead, show v + s.ringSize r - s.fld (R.HOST.CQ_HEAD r) 11 0 = d + s.ringSize r by omega, Nat.add_mod_right,
      Nat.mod_eq_of_lt hn]
  unfold State.ackCq
  dsimp only
  rw [hsteps, if_neg (by omega)]
  exact State.lateDesc_none hlate
end Acknowledgements

section Aborts
variable {s : State} {v : Nat}

theorem State.abortTag_idle (h : (s.tag (tagIdx v)).st ≠ 1) : s.abortTag v = (s.putBit R.HOST.ABORT_STAT 0 true).irq R.HOST.base 4 :=
  (if_neg fun hx => h hx.1).trans (if_pos (.inl h))

variable {k : Nat} {c : HostCmd} (h1 : (s.tag (tagIdx v)).st = 1) (hg : (s.tag (tagIdx v)).gen = tagGen v)
  (hk : s.abortee v = some k) (hc : s.host.cmds.getD k default = c)
include h1 hg hk hc

/-- The abort of a command that has ended is decided after the completions of its HCLK edge (R501). -/
theorem State.abortTag_ended (he : c.ended.isSome = true) : s.abortTag v =
    s.setHost (fun h => { h with abortDue := h.abortDue ++ [(hclkEdge s.now, v)] }) := by
  subst hc
  exact if_pos ⟨h1, hg, by rw [hk]; exact he⟩
/-- A command that has not started is aborted at once (R501, R502). -/
theorem State.abortTag_waiting (hs : c.started = false) (he : c.ended = none) : s.abortTag v =
    (((s.putBit R.HOST.ABORT_STAT 0 false).postAborted c.ring (v % 2 ^ 16) c.done).setTag (tagIdx v)
      { gen := (tagGen v + 1) % 8, st := 3, at_ := s.now }).dropCmd k := by
  subst hc
  simp only [State.abortTag, State.abortJudge, h1, hg, hk, hs, he, Option.any_some, Option.isSome_none, Bool.false_eq_true, and_false,
    if_false, ne_eq, not_true, or_self]
end Aborts

section Execution
variable {s u : State} {t : Time} (ht : s.tick t = u)
include ht

theorem exec_descriptorFetch (d : Vector Word 8) : exec (.descriptorFetch t d) s = .next (u.fetchDesc d.toList) := by subst ht; rfl
theorem exec_tagQuarantineEnd (i : Fin 8192) : exec (.tagQuarantineEnd t i) s =
    .next (if (u.tag i).st = 3 ∧ (u.tag i).at_ + ms 2 ≤ u.now then u.setTag i { u.tag i with st := 0, at_ := 0 } else u) := by
  subst ht
  rfl

section Ring
variable (r : Fin 8)

theorem exec_regRead : exec (.regRead t r) s = .next (u.regRead r) := by subst ht; rfl
theorem exec_regWrite : exec (.regWrite t r) s = .next (u.regWrite r) := by subst ht; rfl
theorem exec_copyIn (data : List Word) (ok : Bool) : exec (.copyIn t r data ok) s =
    .next (u.copyStep r 3 ok (fun s i => data.foldl (fun (s : State) w => s.copyInWord i w) s)) := by subst ht; rfl
theorem exec_copyOut (n : Fin 65536) (ok : Bool) : exec (.copyOut t r n ok) s =
    .next (u.copyStep r 4 ok (fun s i => (List.range n).foldl (fun (s : State) _ => s.copyOutWord i) s)) := by subst ht; rfl
theorem exec_txFrame (b : List Byte) (ok : Bool) : exec (.txFrame t r b ok) s = .next (u.txFrame r b ok) := by subst ht; rfl
theorem exec_hostNop : exec (.hostNop t r) s = .next (u.hostNop r) := by subst ht; rfl
theorem exec_commandCompletion : exec (.commandCompletion t r) s = .next (u.complete r) := by subst ht; rfl
end Ring

section Page
variable (m : Master) (hw : u.Writable R.HOST.base)
include hw

theorem exec_completionAck (r : Fin 8) (v : Word) : exec (.completionAck t m r v) s = .next (u.ackCq r v.toNat) := by
  subst ht
  exact congrArg Host.Outcome.next (State.onPage_writable hw)
theorem exec_tagAbort (v : Word) : exec (.tagAbort t m v) s = .next (u.abortTag (v.toNat % 2 ^ 16)) := by
  subst ht
  exact congrArg Host.Outcome.next (State.onPage_writable hw)
end Page
end Execution

end Sys2Proof.Machine
end

section
/-! PROOFS. The obligation on the commands of the submission rings. -/

namespace Sys2Proof

open Sys2Proof.Machine

/-- Settles O29, by the cases of a fetch, of a command that goes on, of a completion, of an acknowledgement and of an abort. -/
theorem ringCommandsComplete : Obligations.ringCommandsComplete := by
  unfold Obligations.ringCommandsComplete
  refine ⟨?fetchDone, ?fetchFree, ?read, ?write, ?copyIn, ?copyOut, ?frame, ?nop, ?ended, ?waiting, ?ackNothing, ?ackOne,
    ?abortIdle, ?abortEnded, ?abortWaiting, ?quarantine⟩
  case fetchDone =>
    intro s u t d r k ht hr hl h
    rw [exec_descriptorFetch ht, State.fetchDesc_some hr hl rfl, if_pos h]
    rfl
  case fetchFree =>
    intro s u v t d r k g ht hr htag hg hv hl
    have hst : (u.tag (tagIdx ((d.toList.getD 0 0).toNat / 2 ^ 16))).st ≠ 2 := by
      rw [htag]
      exact (by decide : (0 : Nat) ≠ 2)
    rw [exec_descriptorFetch ht, State.fetchDesc_some hr hl hv, if_neg hst]
    exact congrArg Host.Outcome.next (State.judgeDesc_free (by subst hv; exact htag) hg)
  case read =>
    intro s u w t r i c v ht h hv
    rw [exec_regRead ht, State.regRead_some h hv]
  case write =>
    intro s u t r i c ht h
    rw [exec_regWrite ht, State.regWrite_some h]
  case copyIn =>
    intro s u t r data ok i c ht h ha hh
    rw [exec_copyIn ht]
    exact ⟨fun hd => by rw [State.copyStep_moves _ h ha hh hd], fun hd => by rw [State.copyStep_fails _ h ha hh hd]⟩
  case copyOut =>
    intro s u t r n ok i c ht h ha hh hd
    rw [exec_copyOut ht, State.copyStep_moves _ h ha hh hd]
  case frame =>
    intro s u v t r b ok i c ht h ha hh hd hm hv hn
    rw [exec_txFrame ht, State.txFrame_sent h ha hh hd hm hv hn]
  case nop =>
    intro s u t r i c ht h
    rw [exec_hostNop ht, State.hostNop_some h]
  case ended =>
    intro s u t r i c e ht hf hi hc he
    rw [exec_commandCompletion ht, State.complete_ended hf hi hc he]
    refine ⟨fun ha ho => ?own, fun ha => ?aborted⟩
    case own => rw [if_neg (by rw [ha]; exact Bool.false_ne_true), if_neg (by rw [ho]; decide)]
    case aborted => rw [if_pos ha]
  case waiting =>
    intro s u t r w n l ht ho ha
    rw [exec_commandCompletion ht, State.complete_waiting ho ha]
  case ackNothing =>
    intro s u t m r v ht hw hv hh hl
    rw [exec_completionAck ht m hw, State.ackCq_advance hv hh (Nat.lt_of_le_of_lt (Nat.zero_le _) hv) (Nat.zero_le _) rfl hl]
    rfl
  case ackOne =>
    intro s u t m r v i ht hw hv hh hq hl
    have hfreed : ((vget u.host.cq r.val).take 1).foldl
        (fun (s : State) o => match o with | some i => s.freeTag i | none => s) u = u.freeTag i := by rw [hq]; rfl
    rw [exec_completionAck ht m hw, State.ackCq_advance hv hh (u.ringSize_bounds r).1 (by rw [hq]; exact Nat.le_refl 1) hfreed hl]
    rfl
  case abortIdle =>
    intro s u t m v ht hw h
    rw [exec_tagAbort ht m hw, State.abortTag_idle h]
  case abortEnded =>
    intro s u t m v k c ht hw h1 hg hk hc he
    rw [exec_tagAbort ht m hw, State.abortTag_ended h1 hg hk hc he]
  case abortWaiting =>
    intro s u t m v k c ht hw h1 hg hk hc hs he
    rw [exec_tagAbort ht m hw, State.abortTag_waiting h1 hg hk hc hs he, Nat.mod_mod]
  case quarantine =>
    intro s u t i ht h3 ha
    rw [exec_tagQuarantineEnd ht, if_pos ⟨h3, ha⟩]

end Sys2Proof
end

section
/-! PROOFS. The doorbells, the event ring, the vectors, the link and the reads of BAR2, case by case (R376, R490, R491, R493,
R494, R497, R498, R505). -/

namespace Sys2Proof.Machine

section Host
variable {s : State}

/-- Records `es` of Q4 for which the event ring of `n` entries has room lie in it from entry `t` on, and the tail is written
back (R497). -/
theorem State.eventRing_eq {w : State} {n t : Nat} {es : List EvRec} (hn : 2 ^ clampN 4 12 (s.fld R.HOST.EV_CFG 4 1) = n)
    (ht : s.fld R.HOST.EV_TAIL 11 0 = t)
    (hes : (vget s.weir.queues 4).take ((s.fld R.HOST.EV_HEAD 11 0 % n + n - t - 1) % n) = es)
    (hen : s.bit R.HOST.EV_CFG 0 = true) (ho : s.hostOk = true) (hne : es.isEmpty = false)
    (hw : ((es.zipIdx.foldl (fun (s : State) x => s.hostWords (s.rg64 R.HOST.EV_BASE + 16 * ((t + x.2) % n))
      ((List.range 4).map (fun i => x.1.word i))) s).setRg R.HOST.EV_TAIL (BitVec.ofNat 32 ((t + es.length) % n))).hostWords
      (s.rg64 R.HOST.EV_WB) [BitVec.ofNat 32 ((t + es.length) % n)] = w) : s.eventRing =
    ({ w with weir := { w.weir with queues := vupd w.weir.queues 4 (fun q => q.drop es.length) } } : State).msiEntry 8 := by
  subst hn ht hes hw
  refine if_neg ?_
  rintro (h | h | h)
  · exact Bool.false_ne_true (h.symm.trans hen)
  · exact Bool.false_ne_true (h.symm.trans ho)
  · exact Bool.false_ne_true (hne.symm.trans h)
/-- One record of Q4 goes to the first entry of an empty event ring of 16 (R497). -/
theorem State.eventRing_one {w : State} {e : EvRec} (hq : vget s.weir.queues 4 = [e]) (hen : s.bit R.HOST.EV_CFG 0 = true)
    (ho : s.hostOk = true) (hn : s.fld R.HOST.EV_CFG 4 1 = 4) (hh : s.fld R.HOST.EV_HEAD 11 0 = 0)
    (ht : s.fld R.HOST.EV_TAIL 11 0 = 0)
    (hw : ((s.hostWords (s.rg64 R.HOST.EV_BASE) [e.word 0, e.word 1, e.word 2, e.word 3]).setRg R.HOST.EV_TAIL 1).hostWords
      (s.rg64 R.HOST.EV_WB) [1] = w) : s.eventRing =
    ({ w with weir := { w.weir with queues := vupd w.weir.queues 4 (fun q => q.drop 1) } } : State).msiEntry 8 := by
  have hentry : s.rg64 R.HOST.EV_BASE + 16 * ((0 + 0) % 16) = s.rg64 R.HOST.EV_BASE := by
    rw [Nat.zero_add, Nat.zero_mod, Nat.mul_zero, Nat.add_zero]
  refine State.eventRing_eq (n := 16) (es := [e]) (by rw [hn]; rfl) ht (by rw [hq, hh]; rfl) hen ho rfl ?_
  rw [List.zipIdx_singleton, List.foldl_cons, List.foldl_nil, hentry]
  exact hw

theorem State.vecEoi_pending {v : Nat} (hv : 12 ≤ v % 64) (hp : bitN s.host.vecs (v % 64) = true) :
    s.vecEoi v = s.msiSend (v % 64) := if_pos ⟨hv, hp⟩

theorem State.pcieUp_eq_bit (s : State) : s.pcieUp = wbit (s.rg R.HOST.STAT) 0 := rfl
/-- With no tag and no command in use a link that goes down leaves the page and its header at reset (R494). -/
theorem State.pcieReset_idle (ht : s.host.tags = []) (hc : s.host.cmds = []) (hu : s.pcieUp = true) : s.pcieReset true =
    (({ s.setPage R.HOST.base (fun _ => {}) with
      regs := s.regs.filter (fun p => pageOf p.1 != R.HOST.base)
      host := { sent := s.host.sent } } : State).setRg R.HOST.STAT (s.rg R.HOST.STAT &&& 0xffffff80)).irq R.HOST.base 8 := by
  rw [State.pcieUp_eq_bit] at hu
  unfold State.pcieReset
  dsimp only
  rw [ht, hc, hu]
  rfl
end Host

section Bar2
theorem Width.bytes_dvd_bar2 (w : Width) (a : Nat) : (0x4000000 + a) % w.bytes = a % w.bytes := by
  cases w <;> simp only [Width.bytes] <;> omega

variable {s : State} (hu : s.up = true) {a : Nat} {w : Width}
include hu

/-- A read of the pond (R491). -/
theorem State.sysRead_pond (ha : a < 0x800000) (hb : a % w.bytes = 0) : s.sysRead .host (0x4000000 + a) w.bytes 0xff =
    (BitVec.ofNat 64 (Memory.readN s.mem (pondBase + a) w.bytes), s) := by
  have hbytes := (Width.bytes_dvd_bar2 w a).trans hb
  have hend : 0x4000000 + a < 0x4800000 := by omega
  have hlow : ¬0x4000000 + a < 0x4000000 := by omega
  have hopen : ¬(0x6000000 ≤ 0x4000000 + a ∨ 0x4800000 ≤ 0x4000000 + a ∧ 0x4000000 + a < 0x5000000) := by omega
  simp only [State.sysRead, hu, hbytes, hlow, hopen, hend, Nat.add_sub_cancel_left, ne_eq, not_true, false_or, reduceCtorEq,
    Bool.not_true, Bool.false_eq_true, if_false, if_true]
/-- A read of the Hopper memory checks the parity of its words (R376, R541). -/
theorem State.sysRead_hopper (ha : 0x1000000 ≤ a) (h25 : a < 0x2000000) (hb : a % w.bytes = 0) (hbist : s.bistOn 3 0 = false) :
    s.sysRead .host (0x4000000 + a) w.bytes 0xff =
    (BitVec.ofNat 64 (Memory.readN s.mem (hopperBase + (a - 0x1000000)) w.bytes),
      if w.bytes = 8 then (s.hopParity ((hopperBase + (a - 0x1000000)) / 4 * 4)).hopParity (hopperBase + (a - 0x1000000) + 4)
      else s.hopParity ((hopperBase + (a - 0x1000000)) / 4 * 4)) := by
  have hbytes := (Width.bytes_dvd_bar2 w a).trans hb
  have hoff : 0x4000000 + a - 0x5000000 = a - 0x1000000 := by omega
  have hlow : ¬0x4000000 + a < 0x4000000 := by omega
  have hend : ¬0x4000000 + a < 0x4800000 := by omega
  have hopen : ¬(0x6000000 ≤ 0x4000000 + a ∨ 0x4800000 ≤ 0x4000000 + a ∧ 0x4000000 + a < 0x5000000) := by omega
  simp only [State.sysRead, hu, hbytes, hlow, hopen, hend, hoff, hbist, ne_eq, not_true, false_or, reduceCtorEq, Bool.not_true,
    Bool.false_eq_true, if_false]
end Bar2

section Commands
variable {s u : State} {t : Time} (ht : s.tick t = u)
include ht

theorem exec_eventRingWrite : exec (.eventRingWrite t) s = .next u.eventRing := by subst ht; rfl
theorem exec_pcieReset (down : Bool) : exec (.pcieReset t down) s = .next (u.pcieReset down) := by subst ht; rfl
theorem exec_pcieLinkUp_down (g : Fin 4) (w : Fin 3) (h : u.pcieUp = false) : exec (.pcieLinkUp t g w) s =
    .next ((u.putFld R.HOST.STAT 6 0 (1 + (g.val + 1) * 2 + 2 ^ w.val * 2 ^ 4)).irq R.HOST.base 8) := by
  subst ht
  exact congrArg Host.Outcome.next (if_neg (by rw [h]; exact Bool.false_ne_true))
theorem exec_bar2Read (a : BitVec 25) (w : Width) : exec (.bar2Read t a w) s =
    .next { (u.sysRead .host (0x4000000 + a.toNat) w.bytes 0xff).2 with
      rd := (u.sysRead .host (0x4000000 + a.toNat) w.bytes 0xff).1 } := by subst ht; rfl

section Page
variable (m : Master) (hw : u.Writable R.HOST.base) (v : Word)
include hw

theorem exec_sqDoorbell (r : Fin 8) : exec (.sqDoorbell t m r v) s =
    .next (u.writeReg m R.HOST.base (R.HOST.SQ_TAIL r) v.toNat) := by
  subst ht
  exact congrArg Host.Outcome.next (State.onPage_writable hw)
theorem exec_frTailWrite (f : Fin 2) : exec (.frTailWrite t m f v) s =
    .next (u.writeReg m R.HOST.base (R.HOST.FR_TAIL f) v.toNat) := by
  subst ht
  exact congrArg Host.Outcome.next (State.onPage_writable hw)
theorem exec_vecEoi : exec (.vecEoi t m v) s = .next (u.vecEoi v.toNat) := by
  subst ht
  exact congrArg Host.Outcome.next (State.onPage_writable hw)
end Page
end Commands

end Sys2Proof.Machine
end

section
/-! PROOFS. The obligation on the doorbells, the event ring, the vectors, the link and the reads of BAR2. -/

namespace Sys2Proof

open Sys2Proof.Machine

/-- Settles O30, by the cases of a doorbell, of the event ring, of a vector, of the link and of a read of BAR2. -/
theorem hostQueueCommandsComplete : Obligations.hostQueueCommandsComplete := by
  unfold Obligations.hostQueueCommandsComplete
  refine ⟨fun s u t m r v ht hw => exec_sqDoorbell ht m hw v r, ?event, fun s u t m f v ht hw => exec_frTailWrite ht m hw v f,
    ?vector, ?linkDown, fun s u t g w ht h => exec_pcieLinkUp_down ht g w h, ?pond, ?hopper⟩
  case event =>
    intro s u w t e ht hq hen ho hn hh htail hw
    rw [exec_eventRingWrite ht, State.eventRing_one hq hen ho hn hh htail hw]
  case vector =>
    intro s u t m v ht hw hv hp
    rw [exec_vecEoi ht m hw, State.vecEoi_pending hv hp]
  case linkDown =>
    intro s u t ht htags hcmds hu
    rw [exec_pcieReset ht, State.pcieReset_idle htags hcmds hu]
  case pond =>
    intro s u t a w ht hu ha hb
    rw [exec_bar2Read ht, State.sysRead_pond hu ha hb]
  case hopper =>
    intro s u v t a w ht hu ha hb hbist hv
    rw [exec_bar2Read ht, State.sysRead_hopper hu ha a.isLt hb hbist, hv]

end Sys2Proof
end
